-- ==== Sys2Proof/Word.lean ====
section
/-! DEFINITION. The words of the PXA-9 and their plainest arithmetic: a word is 32 bits, a doubleword 64
bits, a line 128 bytes (R6); little-endian (R4). -/

namespace Sys2Proof

/-- A byte. -/
abbrev Byte := BitVec 8
/-- A 32-bit word (R6). -/
abbrev Word := BitVec 32
/-- A 64-bit doubleword, the width of s0–s63 (R10). -/
abbrev DWord := BitVec 64
/-- A vector register, 8,192 bits (R10). -/
abbrev VReg := BitVec 8192
/-- A tensor handle, 256 bits (R14). -/
abbrev HReg := BitVec 256
/-- A 6-bit register field of an instruction word (R23, R28). -/
abbrev Reg := BitVec 6

/-- The three instruction memories of a core (R29). -/
inductive IMem where
  | control | vector | arcade
  deriving DecidableEq, Repr

/-- The size in bytes of an instruction memory (R29). -/
def IMem.bytes : IMem → Nat
  | .control => 0x20000
  | .vector  => 0x20000
  | .arcade  => 0x10000

/-- `sign_extend(x, n)` to 64 bits (R9). -/
def sx64 {n : Nat} (x : BitVec n) : DWord := x.signExtend 64
/-- `zero_extend(x, n)` to 64 bits (R9). -/
def zx64 {n : Nat} (x : BitVec n) : DWord := x.setWidth 64

/-- The all-ones doubleword. -/
def allOnes64 : DWord := 0xFFFFFFFFFFFFFFFF

/-- A Bool as one bit. -/
def bit (b : Bool) : Nat := if b then 1 else 0

end Sys2Proof
end

