-- ==== Sys2Proof/Machine/Memory.lean ====
section
/-! DEFINITION. Byte memories: scratchpad, HBM, scale memory and host memory. A memory is a list of cells in
one canonical form, addresses strictly rising and no cell equal to what an unlisted address reads as. An
unlisted address reads as zero: core reset clears the scratchpad (R21), and for HBM and host memory, whose
contents at power-on the spec does not give, zero is the model's choice (DESIGN CHOICE, unsafe, log entry 3). -/

namespace Sys2Proof

/-- A byte memory. -/
abbrev Memory := List Host.Cell

/-- What an address that the list does not name reads as. -/
def Memory.unlisted : Byte := 0

/-- The canonical form: addresses strictly rising above `lo`, no cell equal to the unlisted byte. -/
def Memory.wfFrom : Nat → Memory → Bool
  | _, [] => true
  | lo, (a, b) :: r => decide (lo ≤ a) && decide (b ≠ Memory.unlisted) && Memory.wfFrom (a + 1) r

/-- The canonical form of a memory. -/
def Memory.wf (m : Memory) : Bool := Memory.wfFrom 0 m

/-- Read one byte. -/
def Memory.read : Memory → Nat → Byte
  | [], _ => Memory.unlisted
  | (k, v) :: r, a => if a = k then v else if a < k then Memory.unlisted else Memory.read r a

/-- Write one byte, keeping the canonical form. -/
def Memory.write : Memory → Nat → Byte → Memory
  | [], a, b => if b = Memory.unlisted then [] else [(a, b)]
  | (k, v) :: r, a, b =>
    if a = k then (if b = Memory.unlisted then r else (a, b) :: r)
    else if a < k then (if b = Memory.unlisted then (k, v) :: r else (a, b) :: (k, v) :: r)
    else (k, v) :: Memory.write r a b

/-- Read `n` bytes from `a` as a little-endian number (R4). -/
def Memory.readN (m : Memory) (a : Nat) : Nat → Nat
  | 0 => 0
  | n + 1 => (m.read a).toNat + 256 * Memory.readN m (a + 1) n

/-- Write the `n` low bytes of `x` from `a`, little-endian (R4). -/
def Memory.writeN (m : Memory) (a : Nat) : Nat → Nat → Memory
  | 0, _ => m
  | n + 1, x => Memory.writeN (m.write a (BitVec.ofNat 8 x)) (a + 1) n (x / 256)

/-- Read `n` bytes in order. -/
def Memory.readBytes (m : Memory) (a : Nat) : Nat → List Byte
  | 0 => []
  | n + 1 => m.read a :: Memory.readBytes m (a + 1) n

/-- Write bytes in order. -/
def Memory.writeBytes (m : Memory) (a : Nat) : List Byte → Memory
  | [] => m
  | b :: r => Memory.writeBytes (m.write a b) (a + 1) r

/-- The cells of a window of `n` addresses from `a`, by their offset in it. -/
def Memory.window (m : Memory) (a n : Nat) : Memory :=
  (m.filter (fun c => decide (a ≤ c.1) && decide (c.1 < a + n))).map (fun c => (c.1 - a, c.2))

/-- The window of `n` addresses from `a` replaced by the cells of a memory, by their offset. -/
def Memory.setWindow (m : Memory) (a n : Nat) (w : Memory) : Memory :=
  w.foldl (fun m c => if c.1 < n then m.write (a + c.1) c.2 else m)
    (m.filter (fun c => decide (c.1 < a) || decide (a + n ≤ c.1)))

/-- A little-endian number of a list of bytes (R4). -/
def natOfBytes : List Byte → Nat
  | [] => 0
  | b :: r => b.toNat + 256 * natOfBytes r

/-- The `n` low bytes of a number, little-endian (R4). -/
def bytesOfNat : Nat → Nat → List Byte
  | 0, _ => []
  | n + 1, x => BitVec.ofNat 8 x :: bytesOfNat n (x / 256)

end Sys2Proof
end

