-- ==== Sys2Proof/Machine/Types.lean ====
section
/-! DEFINITION. The small data types of the machine that instructions and state share: where an uncorrectable
error lies and who reads it (R365). -/

namespace Sys2Proof

/-- Where an uncorrectable error lies (R364, R365). -/
inductive ErrPlace where
  /-- A word of an instruction memory of a core. -/
  | imem (core : Nat) (m : IMem) (addr : Nat)
  /-- A byte of a core's scratchpad. -/
  | spad (core : Nat) (addr : Nat)
  /-- A row of a core's tag table. -/
  | tagTable (core : Nat) (set : Nat)
  /-- An accumulator tile of a core. -/
  | tile (core : Nat) (tile : Nat)
  /-- A byte of a core's scale memory. -/
  | scale (core : Nat) (addr : Nat)
  /-- A line of HBM, by its byte address. -/
  | hbm (pa : Nat)
  /-- A row of a cache slice, by the byte address it holds. -/
  | slice (pa : Nat)
  /-- A slot of a landing's accumulator store: the landing and the slot. -/
  | landing (land slot : Nat)
  /-- A register: class 0 s, 1 h, 2 v, 3 p, and its number. -/
  | register (cls num : Nat)
  /-- A translation-cache entry of a physical core, by its page. -/
  | tlb (pcore asid page : Nat)
  deriving DecidableEq, Repr

/-- Who reads the damaged place (R365). -/
inductive ErrReader where
  /-- A thread's instruction. -/
  | thread (core ctx : Nat)
  /-- A vector program's instruction. -/
  | vec (core slot : Nat)
  /-- An Arcade program's bundle. -/
  | arc (core : Nat)
  /-- A queued engine command, by its sequence number. -/
  | item (core seq : Nat)
  /-- A thread's queued global access, by its number. -/
  | access (core ctx id : Nat)
  /-- A scrub pass or another agent. -/
  | other
  deriving DecidableEq, Repr

/-- A sequencer of the package: a thread context of a logical core, a vector program slot, or the Arcade's
single program (R10, R116). -/
inductive Seqr where
  | thread (core ctx : Nat)
  | vec (core slot : Nat)
  | arc (core : Nat)
  deriving DecidableEq, Repr

/-- The causes of R344. -/
inductive Cause where
  | illegal | illen | cfi | illslot | empty | align | spbound | divzero | fpx | trapi
  | xlate | prot | foot | overlap | fwdwait | noacc | dwrite | tapeovf | tapemis | mode | grp | queue
  | engfault | swizzle | eccu | msgovf | link | digest | preempt | timer
  deriving DecidableEq, Repr

/-- The code of a cause (R344). -/
def Cause.code : Cause → Nat
  | .illegal => 0x01 | .illen => 0x02 | .cfi => 0x03 | .illslot => 0x04 | .empty => 0x05 | .align => 0x06
  | .spbound => 0x07 | .divzero => 0x08 | .fpx => 0x09 | .trapi => 0x0A
  | .xlate => 0x10 | .prot => 0x11 | .foot => 0x12 | .overlap => 0x13 | .fwdwait => 0x14 | .noacc => 0x15
  | .dwrite => 0x16 | .tapeovf => 0x17 | .tapemis => 0x18 | .mode => 0x19 | .grp => 0x1A | .queue => 0x1B
  | .engfault => 0x20 | .swizzle => 0x21 | .eccu => 0x22 | .msgovf => 0x23 | .link => 0x24 | .digest => 0x25
  | .preempt => 0x30 | .timer => 0x31

/-- The logical core of a sequencer. -/
def Seqr.core : Seqr → Nat
  | .thread c _ => c
  | .vec c _ => c
  | .arc c => c

/-- Whether the sequencer runs a forked program. -/
def Seqr.isFork : Seqr → Bool
  | .thread _ _ => false
  | _ => true

/-- The instruction memory of a sequencer (R29). -/
def Seqr.imem : Seqr → IMem
  | .thread _ _ => .control
  | .vec _ _ => .vector
  | .arc _ => .arcade

/-- The slot number that a fault record holds (R167, R305). -/
def Seqr.slotNo : Seqr → Nat
  | .vec _ k => k
  | _ => 0

/-- PREEMPT, TIMER and DIGEST are never reflected (R345, R396). -/
def Cause.reflects : Cause → Bool
  | .preempt => false | .timer => false | .digest => false
  | _ => true

/-- The agent or the item that an event of the machine happens to: which fields an event reads, and as what
(a core; a context, slot, queue or claim; an item, access or packet; an operand from the outside world), the
docstring of its constructor and its meaning say. -/
structure Target where
  core   : Nat := 0
  unit   : Nat := 0
  id     : Nat := 0
  size   : Nat := 0
  value  : DWord := 0
  /-- The sequence number of the first flit of what comes by a link (R388). -/
  seq    : Nat := 0
  data   : List Byte := []
  place  : ErrPlace := .hbm 0
  reader : ErrReader := .other
  deriving DecidableEq, Repr

/-- The target that names a sequencer: its core, and its context or slot. -/
def Seqr.asTarget : Seqr → Target
  | .thread c x => { core := c, unit := x }
  | .vec c k => { core := c, unit := k }
  | .arc c => { core := c }

end Sys2Proof
end

