-- ==== Sys2Proof/Syntax.lean ====
section
/-! DEFINITION. The instructions: one constructor per row of the opcode table. An instruction of one of the
three instruction memories carries the fields of its words that it uses (R23, R24); a row that is an event of
the machine rather than an instruction word acts on the agent or the item that `State.target` names. -/

namespace Sys2Proof

/-- Word 1 of a format L instruction (R24): `x` is EXT 11:6 and `y` is EXT 5:0. -/
structure LW where
  g    : Bool
  n    : Bool
  greg : Reg
  gbit : BitVec 6
  rm   : BitVec 3
  ta   : Bool
  tb   : Bool
  tc   : Bool
  x    : BitVec 6
  y    : BitVec 6
  deriving DecidableEq, Repr

/-- The whole EXT field, bits 11:0 (R24). -/
def LW.ext (w : LW) : BitVec 12 := w.x ++ w.y

/-- The instruction set: every row of the opcode table. -/
inductive Instr where
  /-- NOP (R83). Retires with no effect other than counting in instret. -/
  | nop
  /-- ADD (R54). Writes the 64-bit wrapped sum of a and b to d. -/
  | add (d : Reg) (a : Reg) (b : Reg)
  /-- SUB (R54). Writes the 64-bit wrapped difference a minus b to d. -/
  | sub (d : Reg) (a : Reg) (b : Reg)
  /-- MUL (R54). Writes the low 64 bits of a times b to d. -/
  | mul (d : Reg) (a : Reg) (b : Reg)
  /-- MULH (R54). Writes the high 64 bits of the signed product to d. -/
  | mulh (d : Reg) (a : Reg) (b : Reg)
  /-- MULHN (R54). Writes the high 64 bits of the unsigned product to d. -/
  | mulhn (d : Reg) (a : Reg) (b : Reg)
  /-- DIV (R55). Signed division truncating toward zero, trapping DIVZERO on a zero divisor and holding the thread 18 clocks. -/
  | div (d : Reg) (a : Reg) (b : Reg)
  /-- DIVN (R55). Unsigned division, trapping DIVZERO on a zero divisor. -/
  | divn (d : Reg) (a : Reg) (b : Reg)
  /-- REM (R55). Signed remainder with the sign of the dividend. -/
  | rem (d : Reg) (a : Reg) (b : Reg)
  /-- REMN (R55). Unsigned remainder. -/
  | remn (d : Reg) (a : Reg) (b : Reg)
  /-- AND (R54). Bitwise AND of a and b into d. -/
  | and (d : Reg) (a : Reg) (b : Reg)
  /-- OR (R54). Bitwise OR of a and b into d. -/
  | or (d : Reg) (a : Reg) (b : Reg)
  /-- XOR (R54). Bitwise XOR of a and b into d. -/
  | xor (d : Reg) (a : Reg) (b : Reg)
  /-- SHL (R54). Shifts a left by b[5:0]. -/
  | shl (d : Reg) (a : Reg) (b : Reg)
  /-- SHR (R54). Logical right shift of a by b[5:0]. -/
  | shr (d : Reg) (a : Reg) (b : Reg)
  /-- SAR (R54). Arithmetic right shift of a by b[5:0]. -/
  | sar (d : Reg) (a : Reg) (b : Reg)
  /-- MIN (R54). Signed minimum of a and b. -/
  | min (d : Reg) (a : Reg) (b : Reg)
  /-- MAX (R54). Signed maximum of a and b. -/
  | max (d : Reg) (a : Reg) (b : Reg)
  /-- MINN (R54). Unsigned minimum of a and b. -/
  | minn (d : Reg) (a : Reg) (b : Reg)
  /-- MAXN (R54). Unsigned maximum of a and b. -/
  | maxn (d : Reg) (a : Reg) (b : Reg)
  /-- ADDI (R56). Adds the sign-extended imm12 to a. -/
  | addi (d : Reg) (a : Reg) (imm : BitVec 12)
  /-- ANDI (R56). ANDs a with the sign-extended imm12. -/
  | andi (d : Reg) (a : Reg) (imm : BitVec 12)
  /-- ORI (R56). ORs a with the sign-extended imm12. -/
  | ori (d : Reg) (a : Reg) (imm : BitVec 12)
  /-- XORI (R56). XORs a with the sign-extended imm12. -/
  | xori (d : Reg) (a : Reg) (imm : BitVec 12)
  /-- SHLI (R56). Shifts a left by an immediate amount 0-63. -/
  | shli (d : Reg) (a : Reg) (imm : BitVec 12)
  /-- SHRI (R56). Logical right shift by an immediate amount. -/
  | shri (d : Reg) (a : Reg) (imm : BitVec 12)
  /-- SARI (R56). Arithmetic right shift by an immediate amount. -/
  | sari (d : Reg) (a : Reg) (imm : BitVec 12)
  /-- CMP_EQ (R57). Writes a = b into bit k of d. -/
  | cmpEq (d : Reg) (a : Reg) (b : Reg) (fn : Reg)
  /-- CMP_NE (R57). Writes a != b into bit k of d. -/
  | cmpNe (d : Reg) (a : Reg) (b : Reg) (fn : Reg)
  /-- CMP_LT (R57). Writes signed a < b into bit k of d. -/
  | cmpLt (d : Reg) (a : Reg) (b : Reg) (fn : Reg)
  /-- CMP_LTN (R57). Writes unsigned a < b into bit k of d. -/
  | cmpLtn (d : Reg) (a : Reg) (b : Reg) (fn : Reg)
  /-- CMP_GE (R57). Writes signed a >= b into bit k of d. -/
  | cmpGe (d : Reg) (a : Reg) (b : Reg) (fn : Reg)
  /-- CMP_GEN (R57). Writes unsigned a >= b into bit k of d. -/
  | cmpGen (d : Reg) (a : Reg) (b : Reg) (fn : Reg)
  /-- CMPI (R58). Compares a with a sign-extended immediate under a condition and writes bit k of d. -/
  | cmpi (d : Reg) (a : Reg) (imm : BitVec 12) (lw : LW)
  /-- CLZ (R59). Counts leading zero bits of a. -/
  | clz (d : Reg) (a : Reg)
  /-- CTZ (R59). Counts trailing zero bits of a. -/
  | ctz (d : Reg) (a : Reg)
  /-- POPC (R59). Counts set bits of a. -/
  | popc (d : Reg) (a : Reg)
  /-- BSET (R60). Writes a with bit k set. -/
  | bset (d : Reg) (a : Reg) (imm : BitVec 12)
  /-- BCLR (R60). Writes a with bit k cleared. -/
  | bclr (d : Reg) (a : Reg) (imm : BitVec 12)
  /-- BEXT (R61). Extracts a bit field of a, zero-extended. -/
  | bext (d : Reg) (a : Reg) (imm : BitVec 12)
  /-- BINS (R61). Inserts the low bits of a into a field of d. -/
  | bins (d : Reg) (a : Reg) (imm : BitVec 12)
  /-- LEA (R62). Computes a + (b << sh) + imm12. -/
  | lea (d : Reg) (a : Reg) (b : Reg) (fn : Reg) (lw : LW)
  /-- LI (R63). Loads a sign-extended 32-bit immediate. -/
  | li (d : Reg) (imm32 : Word)
  /-- LUI (R63). Replaces the high 32 bits of d with an immediate. -/
  | lui (d : Reg) (imm32 : Word)
  /-- MOV (R64). Copies a to d. -/
  | mov (d : Reg) (a : Reg)
  /-- SEL (R64). Selects a or b by a bit of a select register. -/
  | sel (d : Reg) (a : Reg) (b : Reg) (lw : LW)
  /-- PBR (R65). Writes a PC-relative target into a branch-target register. -/
  | pbr (d : Reg) (imm18 : BitVec 18)
  /-- PBRR (R66). Writes a branch target from a scalar register, trapping CFI on a bad address. -/
  | pbrr (d : Reg) (a : Reg)
  /-- BRX (R67). Transfers after two delay slots when bit k of s is 1. -/
  | brx (d : Reg) (a : Reg) (fn : Reg)
  /-- BRXN (R67). Transfers after two delay slots when bit k of s is 0. -/
  | brxn (d : Reg) (a : Reg) (fn : Reg)
  /-- BR (R67). Transfers unconditionally after two delay slots. -/
  | br (d : Reg)
  /-- CALL (R69). Writes the link to s63 and transfers after two delay slots. -/
  | call (d : Reg)
  /-- RET (R69). Transfers to the address in s63 after two delay slots, or ends a forked program at the exit link. -/
  | ret
  /-- LOOP (R71). Arms loop counter N with a count from a register, or skips to end on zero. -/
  | loop (d : Reg) (a : Reg) (imm : BitVec 12)
  /-- LOOPI (R71). Arms loop counter N with an immediate count. -/
  | loopi (d : Reg) (imm : BitVec 12) (imm32 : Word)
  /-- TOK_SEND (R76). Appends a value to a token FIFO, stalling while it is full. -/
  | tokSend (a : Reg) (fn : Reg)
  /-- TOK_RECV (R77). Claims the next token of a FIFO and marks d empty until it is delivered. -/
  | tokRecv (d : Reg) (fn : Reg)
  /-- TOK_POLL (R78). Writes the number of unclaimed tokens in a FIFO. -/
  | tokPoll (d : Reg) (fn : Reg)
  /-- MFC (R80). Reads a control register into d. -/
  | mfc (d : Reg) (imm : BitVec 12)
  /-- MTC (R81). Writes a control register from s under its access rules. -/
  | mtc (a : Reg) (imm : BitVec 12)
  /-- TRAP (R84). Retires and enters the trap sequence with cause TRAPI. -/
  | trap (imm24 : BitVec 24)
  /-- LD_B (R89). Loads a sign-extended scratchpad byte. -/
  | ldB (d : Reg) (a : Reg) (imm : BitVec 12)
  /-- LD_BN (R89). Loads a zero-extended scratchpad byte. -/
  | ldBn (d : Reg) (a : Reg) (imm : BitVec 12)
  /-- LD_H (R89). Loads a sign-extended scratchpad halfword. -/
  | ldH (d : Reg) (a : Reg) (imm : BitVec 12)
  /-- LD_HN (R89). Loads a zero-extended scratchpad halfword. -/
  | ldHn (d : Reg) (a : Reg) (imm : BitVec 12)
  /-- LD_W (R89). Loads a sign-extended scratchpad word. -/
  | ldW (d : Reg) (a : Reg) (imm : BitVec 12)
  /-- LD_WN (R89). Loads a zero-extended scratchpad word. -/
  | ldWn (d : Reg) (a : Reg) (imm : BitVec 12)
  /-- LD_D (R89). Loads a scratchpad doubleword. -/
  | ldD (d : Reg) (a : Reg) (imm : BitVec 12)
  /-- ST_B (R89). Stores a byte to scratchpad. -/
  | stB (d : Reg) (a : Reg) (imm : BitVec 12)
  /-- ST_H (R89). Stores a halfword to scratchpad. -/
  | stH (d : Reg) (a : Reg) (imm : BitVec 12)
  /-- ST_W (R89). Stores a word to scratchpad. -/
  | stW (d : Reg) (a : Reg) (imm : BitVec 12)
  /-- ST_D (R89). Stores a doubleword to scratchpad. -/
  | stD (d : Reg) (a : Reg) (imm : BitVec 12)
  /-- LD_Q (R90). Loads 16 scratchpad bytes into a register pair. -/
  | ldQ (d : Reg) (a : Reg) (imm : BitVec 12)
  /-- ST_Q (R90). Stores a register pair as 16 scratchpad bytes. -/
  | stQ (d : Reg) (a : Reg) (imm : BitVec 12)
  /-- LAMO (R91). Performs one indivisible read-modify-write of a scratchpad word or doubleword. -/
  | lamo (d : Reg) (a : Reg) (b : Reg) (lw : LW)
  /-- HLD (R93). Loads a 256-bit handle from scratchpad. -/
  | hld (d : Reg) (a : Reg) (imm : BitVec 12)
  /-- HST (R93). Stores a 256-bit handle to scratchpad. -/
  | hst (d : Reg) (a : Reg) (imm : BitVec 12)
  /-- HGET (R95). Reads one handle field into a scalar register. -/
  | hget (d : Reg) (a : Reg) (fn : Reg)
  /-- HSET (R95). Writes one handle field from a scalar register. -/
  | hset (d : Reg) (a : Reg) (fn : Reg)
  /-- HPATCH (R96). Rewrites one field of a handle stored in scratchpad indivisibly. -/
  | hpatch (a : Reg) (b : Reg) (fn : Reg) (lw : LW)
  /-- TRET (R102). Returns from a handler or the monitor, restoring loops and mode and re-arming a pending transfer. -/
  | tret
  /-- SELECT (R115). Picks a kernel variant entry from a size-class record. -/
  | selectSize (d : Reg) (a : Reg) (b : Reg)
  /-- FORK_V (R116). Starts a vector program in a free slot, stalling until one is free. -/
  | forkV (d : Reg) (a : Reg) (b : Reg)
  /-- FORK_A (R116). Starts the Arcade program when the Arcade is free. -/
  | forkA (d : Reg) (a : Reg) (b : Reg)
  /-- RDV (R118). Waits for selected forked programs to end and joins them. -/
  | rdv (d : Reg) (a : Reg)
  /-- ENQ (R121). Appends a doubleword to a stage queue unless full. -/
  | enq (d : Reg) (a : Reg) (b : Reg)
  /-- DEQ (R121). Removes the oldest entry of a stage queue into a register pair. -/
  | deq (d : Reg) (a : Reg)
  /-- YIELD (R122). Offers the thread to the stage balancer. -/
  | yieldStage
  /-- GRP_JOIN (R124). Joins a group as a member of the open generation or as pending. -/
  | grpJoin (d : Reg) (a : Reg)
  /-- GRP_LEAVE (R124). Leaves a group, counting as an arrival when a member. -/
  | grpLeave (d : Reg) (a : Reg)
  /-- GRP_BAR (R124). Arrives at the group barrier and waits for its generation to complete. -/
  | grpBar (d : Reg) (a : Reg)
  /-- GRP_INFO (R126). Reads a group table entry by selector. -/
  | grpInfo (d : Reg) (a : Reg) (b : Reg)
  /-- SIG (R134). Pushes a SIG entry for a flag to a queue. -/
  | sig (d : Reg) (a : Reg) (b : Reg)
  /-- WAITF (R134). Pushes a WAITF entry awaiting the latest SIG of a flag. -/
  | waitf (d : Reg) (a : Reg) (b : Reg)
  /-- VADD (R169). Lane-wise floating-point addition. -/
  | vadd (d : Reg) (a : Reg) (b : Reg) (fn : Reg) (lw : LW)
  /-- VSUB (R169). Lane-wise floating-point subtraction. -/
  | vsub (d : Reg) (a : Reg) (b : Reg) (fn : Reg) (lw : LW)
  /-- VMUL (R169). Lane-wise floating-point multiplication. -/
  | vmul (d : Reg) (a : Reg) (b : Reg) (fn : Reg) (lw : LW)
  /-- VFMA (R169). Lane-wise fused x*y+z. -/
  | vfma (d : Reg) (a : Reg) (b : Reg) (fn : Reg) (lw : LW)
  /-- VFMS (R169). Lane-wise fused x*y-z. -/
  | vfms (d : Reg) (a : Reg) (b : Reg) (fn : Reg) (lw : LW)
  /-- VFNMA (R169). Lane-wise fused z-x*y. -/
  | vfnma (d : Reg) (a : Reg) (b : Reg) (fn : Reg) (lw : LW)
  /-- VDIV (R169). Lane-wise floating-point division. -/
  | vdiv (d : Reg) (a : Reg) (b : Reg) (fn : Reg) (lw : LW)
  /-- VSQRT (R169). Lane-wise square root. -/
  | vsqrt (d : Reg) (a : Reg) (fn : Reg) (lw : LW)
  /-- VMIN (R171). Lane-wise IEEE minimum. -/
  | vmin (d : Reg) (a : Reg) (b : Reg) (fn : Reg) (lw : LW)
  /-- VMAX (R171). Lane-wise IEEE maximum. -/
  | vmax (d : Reg) (a : Reg) (b : Reg) (fn : Reg) (lw : LW)
  /-- VABS (R171). Clears the sign bit of each lane. -/
  | vabs (d : Reg) (a : Reg) (fn : Reg) (lw : LW)
  /-- VNEG (R171). Inverts the sign bit of each lane. -/
  | vneg (d : Reg) (a : Reg) (fn : Reg) (lw : LW)
  /-- VEXP (R172). Correctly rounded e^x per lane, long latency. -/
  | vexp (d : Reg) (a : Reg) (fn : Reg) (lw : LW)
  /-- VLOG (R172). Correctly rounded ln x per lane, long latency. -/
  | vlog (d : Reg) (a : Reg) (fn : Reg) (lw : LW)
  /-- VERF (R172). Correctly rounded erf x per lane, long latency. -/
  | verf (d : Reg) (a : Reg) (fn : Reg) (lw : LW)
  /-- VCLASS (R173). Writes a one-hot class mask per lane. -/
  | vclass (d : Reg) (a : Reg) (fn : Reg) (lw : LW)
  /-- VCMP (R174). Writes a floating-point comparison into bit k of each lane. -/
  | vcmp (d : Reg) (a : Reg) (b : Reg) (fn : Reg) (lw : LW)
  /-- VIADD (R177). Lane-wise integer addition modulo 2^w. -/
  | viadd (d : Reg) (a : Reg) (b : Reg) (fn : Reg) (lw : LW)
  /-- VISUB (R177). Lane-wise integer subtraction. -/
  | visub (d : Reg) (a : Reg) (b : Reg) (fn : Reg) (lw : LW)
  /-- VIMUL (R177). Lane-wise low product. -/
  | vimul (d : Reg) (a : Reg) (b : Reg) (fn : Reg) (lw : LW)
  /-- VIMULH (R177). Lane-wise high product. -/
  | vimulh (d : Reg) (a : Reg) (b : Reg) (fn : Reg) (lw : LW)
  /-- VAND (R177). Lane-wise AND. -/
  | vand (d : Reg) (a : Reg) (b : Reg) (fn : Reg) (lw : LW)
  /-- VOR (R177). Lane-wise OR. -/
  | vor (d : Reg) (a : Reg) (b : Reg) (fn : Reg) (lw : LW)
  /-- VXOR (R177). Lane-wise XOR. -/
  | vxor (d : Reg) (a : Reg) (b : Reg) (fn : Reg) (lw : LW)
  /-- VSHL (R177). Lane-wise left shift. -/
  | vshl (d : Reg) (a : Reg) (b : Reg) (fn : Reg) (lw : LW)
  /-- VSHR (R177). Lane-wise logical right shift. -/
  | vshr (d : Reg) (a : Reg) (b : Reg) (fn : Reg) (lw : LW)
  /-- VSAR (R177). Lane-wise arithmetic right shift. -/
  | vsar (d : Reg) (a : Reg) (b : Reg) (fn : Reg) (lw : LW)
  /-- VIMIN (R177). Lane-wise integer minimum. -/
  | vimin (d : Reg) (a : Reg) (b : Reg) (fn : Reg) (lw : LW)
  /-- VIMAX (R177). Lane-wise integer maximum. -/
  | vimax (d : Reg) (a : Reg) (b : Reg) (fn : Reg) (lw : LW)
  /-- VIABS (R177). Lane-wise integer absolute value. -/
  | viabs (d : Reg) (a : Reg) (fn : Reg) (lw : LW)
  /-- VSADD (R177). Lane-wise saturating addition raising SAT. -/
  | vsadd (d : Reg) (a : Reg) (b : Reg) (fn : Reg) (lw : LW)
  /-- VPOPC (R177). Lane-wise population count. -/
  | vpopc (d : Reg) (a : Reg) (fn : Reg) (lw : LW)
  /-- VSEL (R175). Selects per lane between two registers by a select bit. -/
  | vsel (d : Reg) (a : Reg) (b : Reg) (fn : Reg) (lw : LW)
  /-- VANY (R176). Writes whether any enabled lane has bit j set into a scalar bit. -/
  | vany (d : Reg) (a : Reg) (fn : Reg) (lw : LW)
  /-- VALL (R176). Writes whether every enabled lane has bit j set into a scalar bit. -/
  | vall (d : Reg) (a : Reg) (fn : Reg) (lw : LW)
  /-- VLD (R181). Loads a contiguous vector from scratchpad. -/
  | vld (d : Reg) (a : Reg) (fn : Reg) (lw : LW)
  /-- VST (R181). Stores a contiguous vector to scratchpad. -/
  | vst (d : Reg) (a : Reg) (fn : Reg) (lw : LW)
  /-- VLD_S (R181). Strided vector load. -/
  | vldS (d : Reg) (a : Reg) (b : Reg) (fn : Reg) (lw : LW)
  /-- VST_S (R181). Strided vector store. -/
  | vstS (d : Reg) (a : Reg) (b : Reg) (fn : Reg) (lw : LW)
  /-- VLD_X (R181). Indexed vector load. -/
  | vldX (d : Reg) (a : Reg) (b : Reg) (fn : Reg) (lw : LW)
  /-- VST_X (R181). Indexed vector store, highest lane winning on duplicates. -/
  | vstX (d : Reg) (a : Reg) (b : Reg) (fn : Reg) (lw : LW)
  /-- VLDQ (R183). Claims the next 1,024 arrived bytes of a stream register. -/
  | vldq (d : Reg) (a : Reg) (fn : Reg) (lw : LW)
  /-- VMOV (R184). Copies a vector register. -/
  | vmov (d : Reg) (a : Reg) (fn : Reg) (lw : LW)
  /-- VBCAST (R184). Broadcasts a scalar into every lane. -/
  | vbcast (d : Reg) (a : Reg) (fn : Reg) (lw : LW)
  /-- VSLIDE (R184). Slides lanes by a signed amount with zero fill. -/
  | vslide (d : Reg) (a : Reg) (b : Reg) (fn : Reg) (lw : LW)
  /-- VPERM (R185). Permutes lanes by an index vector. -/
  | vperm (d : Reg) (a : Reg) (b : Reg) (fn : Reg) (lw : LW)
  /-- VSHUF (R185). Interleaves or splits halves of two registers. -/
  | vshuf (d : Reg) (a : Reg) (b : Reg) (fn : Reg) (lw : LW)
  /-- VTRN (R185). Transposes a register viewed as a matrix. -/
  | vtrn (d : Reg) (a : Reg) (fn : Reg) (lw : LW)
  /-- VEXT (R184). Extracts one lane into a scalar. -/
  | vext (d : Reg) (a : Reg) (b : Reg) (fn : Reg) (lw : LW)
  /-- VINS (R184). Inserts a scalar into one lane. -/
  | vins (d : Reg) (a : Reg) (b : Reg) (fn : Reg) (lw : LW)
  /-- VCVT (R186). Converts elements between formats, one part at a time. -/
  | vcvt (d : Reg) (a : Reg) (b : Reg) (fn : Reg) (lw : LW)
  /-- VQMX (R187). Quantises 256 FP32 elements into eight MX blocks and scales. -/
  | vqmx (d : Reg) (a : Reg) (b : Reg) (fn : Reg) (lw : LW)
  /-- VDQMX (R188). Dequantises eight MX blocks into FP32. -/
  | vdqmx (d : Reg) (a : Reg) (b : Reg) (fn : Reg) (lw : LW)
  /-- VRSUM (R189). Sums lanes in canonical tree order into a scalar. -/
  | vrsum (d : Reg) (a : Reg) (fn : Reg) (lw : LW)
  /-- VRMAX (R189). Maximum over lanes into a scalar. -/
  | vrmax (d : Reg) (a : Reg) (fn : Reg) (lw : LW)
  /-- VRMIN (R189). Minimum over lanes into a scalar. -/
  | vrmin (d : Reg) (a : Reg) (fn : Reg) (lw : LW)
  /-- VRARG (R190). Writes the lane index of the largest or smallest element with tie-hash ties. -/
  | vrarg (d : Reg) (a : Reg) (fn : Reg) (lw : LW)
  /-- VTOPK (R191). Ranks candidate lanes and writes the top k indices. -/
  | vtopk (d : Reg) (a : Reg) (b : Reg) (fn : Reg) (lw : LW)
  /-- VRNG (R192). Fills a register with 64 Philox4x32-10 blocks. -/
  | vrng (d : Reg) (a : Reg) (b : Reg) (lw : LW)
  /-- VHASH (R193). Writes the tie hash of a seed and each 64-bit index. -/
  | vhash (d : Reg) (a : Reg) (b : Reg) (fn : Reg) (lw : LW)
  /-- ARD_ROW (R286). Rounds one tile row into a vector register. -/
  | ardRow (d : Reg) (a : Reg) (b : Reg) (fn : Reg) (lw : LW)
  /-- ARD_COL (R286). Rounds one tile column into a vector register. -/
  | ardCol (d : Reg) (a : Reg) (b : Reg) (fn : Reg) (lw : LW)
  /-- AWR_ROW (R286). Writes a vector register exactly into one tile row. -/
  | awrRow (d : Reg) (a : Reg) (b : Reg) (fn : Reg) (lw : LW)
  /-- AWR_COL (R286). Writes a vector register exactly into one tile column. -/
  | awrCol (d : Reg) (a : Reg) (b : Reg) (fn : Reg) (lw : LW)
  /-- TLOOK (R204). Looks up a global address in the tag table. -/
  | tlook (d : Reg) (a : Reg) (b : Reg)
  /-- TFILL (R204). Allocates a tag-table way, displacing the least recent unpinned one. -/
  | tfill (d : Reg) (a : Reg) (b : Reg)
  /-- TEVICT (R204). Invalidates an unpinned tag-table entry. -/
  | tevict (d : Reg) (a : Reg) (b : Reg)
  /-- TPIN (R204). Allocates and pins a tag-table entry under the pin quota. -/
  | tpin (d : Reg) (a : Reg) (b : Reg)
  /-- TUNPIN (R204). Removes the thread's pin from an entry. -/
  | tunpin (d : Reg) (a : Reg) (b : Reg)
  /-- QBIND (R207). Binds or unbinds a stream register to a scratchpad ring. -/
  | qbind (d : Reg) (a : Reg) (b : Reg)
  /-- QGET (R209). Claims the next element of a stream and marks d empty. -/
  | qget (d : Reg) (a : Reg)
  /-- QREL (R210). Releases ring space up to the oldest incomplete claim. -/
  | qrel (d : Reg) (a : Reg)
  /-- LDG_W (R227). Queues a 4-byte global load, or a reverse-mode adjoint add on a D page. -/
  | ldgW (d : Reg) (a : Reg) (imm : BitVec 12)
  /-- LDG_D (R227). Queues an 8-byte global load. -/
  | ldgD (d : Reg) (a : Reg) (imm : BitVec 12)
  /-- STG_W (R227). Queues a 4-byte global store, taping on a D page, or a reverse-mode read-and-clear and restore. -/
  | stgW (d : Reg) (a : Reg) (imm : BitVec 12)
  /-- STG_D (R227). Queues an 8-byte global store. -/
  | stgD (d : Reg) (a : Reg) (imm : BitVec 12)
  /-- LDL (R228). Queues a 128-byte line load from global memory into scratchpad. -/
  | ldl (a : Reg) (b : Reg)
  /-- STL (R228). Reads a scratchpad line and queues its store to global memory. -/
  | stl (a : Reg) (b : Reg)
  /-- GAMO (R229). Queues an indivisible global read-modify-write with optional acquire and release. -/
  | gamo (d : Reg) (a : Reg) (b : Reg) (fn : Reg) (lw : LW)
  /-- MARK (R226). Realigns the thread's load and store queues. -/
  | mark
  /-- FENCE (R230). Holds the thread until its earlier accesses meet the condition of the scope. -/
  | fence (imm24 : BitVec 24)
  /-- CPY (R256). Pushes a bit-pattern copy command. -/
  | cpy (d : Reg) (a : Reg) (b : Reg) (fn : Reg) (lw : LW)
  /-- CPY_T (R256). Pushes a transposing copy. -/
  | cpyT (d : Reg) (a : Reg) (b : Reg) (fn : Reg) (lw : LW)
  /-- CPY_P (R256). Pushes a copy under a dimension permutation. -/
  | cpyP (d : Reg) (a : Reg) (b : Reg) (fn : Reg) (lw : LW)
  /-- CPY_Q (R257). Pushes a quantising copy. -/
  | cpyQ (d : Reg) (a : Reg) (b : Reg) (fn : Reg) (lw : LW)
  /-- CPY_QT (R257). Pushes a quantise-of-transpose copy. -/
  | cpyQT (d : Reg) (a : Reg) (b : Reg) (fn : Reg) (lw : LW)
  /-- CPY_GATH (R258). Pushes a row gather. -/
  | cpyGath (d : Reg) (a : Reg) (b : Reg) (fn : Reg) (lw : LW)
  /-- CPY_PAIR (R259). Pushes a copy writing a plain and a transposed destination. -/
  | cpyPair (d : Reg) (a : Reg) (b : Reg) (fn : Reg) (lw : LW)
  /-- CPY_SCALE (R260). Pushes a copy of E8M0 bytes into scale memory. -/
  | cpyScale (d : Reg) (a : Reg) (b : Reg) (fn : Reg) (lw : LW)
  /-- CPY_STRM (R261). Pushes a copy appending bytes to a stream ring. -/
  | cpyStrm (d : Reg) (a : Reg) (b : Reg) (fn : Reg) (lw : LW)
  /-- CPY_HOST (R262). Pushes a host transfer list. -/
  | cpyHost (d : Reg) (a : Reg) (b : Reg) (fn : Reg) (lw : LW)
  /-- MX_SET (R274). Writes one record of the shadow nest table. -/
  | mxSet (e : BitVec 24) (w1 : Word) (w2 : Word) (w3 : Word)
  /-- MX_GO (R276). Pushes a matrix nest to queue 0. -/
  | mxGo (d : Reg) (a : Reg) (b : Reg) (fn : Reg)
  /-- MX_ACQ (R266). Acquires a tile, spilling a lazily saved one. -/
  | mxAcq (d : Reg) (a : Reg)
  /-- MX_REL (R267). Releases a tile once the thread's commands on it have ended. -/
  | mxRel (d : Reg)
  /-- MX_SHAPE (R268). Sets a tile's rows and columns and zeroes it. -/
  | mxShape (d : Reg) (a : Reg) (b : Reg)
  /-- MX_ZERO (R281). Pushes a command zeroing a tile. -/
  | mxZero (d : Reg) (fn : Reg)
  /-- MX_OUT (R282). Pushes a command rounding a tile into memory. -/
  | mxOut (d : Reg) (a : Reg) (b : Reg) (fn : Reg) (lw : LW)
  /-- ASP_UP (R295). Upward subtree evaluation writing the root value to a scratch register. -/
  | aspUp (e : BitVec 24) (w1 : Word) (w2 : Word) (w3 : Word)
  /-- ASP_DN (R296). Downward subtree evaluation adding adjoints into the leaf registers. -/
  | aspDn (e : BitVec 24) (w1 : Word) (w2 : Word) (w3 : Word)
  /-- ASP_LD (R300). Loads scratch register halves from scratchpad. -/
  | aspLd (d : Reg) (a : Reg) (b : Reg) (fn : Reg)
  /-- ASP_ST (R300). Stores scratch register halves to scratchpad. -/
  | aspSt (d : Reg) (a : Reg) (b : Reg) (fn : Reg)
  /-- ASP_CVT (R301). Converts scratch register halves between FP32 and SP32 in place. -/
  | aspCvt (d : Reg) (a : Reg) (b : Reg) (fn : Reg) (lw : LW)
  /-- ASP_WIN (R302). Sets a window base. -/
  | aspWin (d : Reg) (a : Reg)
  /-- ASP_SEED (R303). Sets the program's tie-hash seed. -/
  | aspSeed (a : Reg)
  /-- ASP_CLRA (R304). Zeroes the adjoint halves of a run of scratch registers. -/
  | aspClra (d : Reg) (a : Reg)
  /-- FLOW_LOAD (R321). Installs or removes a network program image package-wide. -/
  | flowLoad (d : Reg) (a : Reg)
  /-- FLOW_SEND (R323). Pushes a send of one round of a flow. -/
  | flowSend (d : Reg) (a : Reg) (b : Reg)
  /-- FLOW_RECV (R324). Pushes a receive for one round of a flow with a completion record. -/
  | flowRecv (d : Reg) (a : Reg) (b : Reg)
  /-- FLOW_REL (R326). Releases the chunks held by HOLD entries of a flow at this landing. -/
  | flowRel (d : Reg) (a : Reg)
  /-- FLOW_STAT (R327). Reads the state of a flow at this landing. -/
  | flowStat (d : Reg) (a : Reg)
  /-- MSG_SEND (R329). Pushes a message send. -/
  | msgSend (d : Reg) (a : Reg) (b : Reg)
  /-- MSG_POST (R329). Pushes a posted message receive. -/
  | msgPost (d : Reg) (a : Reg) (b : Reg)
  /-- MSG_PROBE (R329). Reads the oldest matching overflow entry or the nack count. -/
  | msgProbe (d : Reg) (a : Reg) (b : Reg)
  /-- DIGEST (R330). Computes the SHA-256 digest of a scratchpad range into four registers. -/
  | digest (d : Reg) (a : Reg) (b : Reg)
  /-- DCHK (R395). Compares local and peer digests, raising DIGEST on disagreement. -/
  | dchk (d : Reg) (a : Reg) (b : Reg)
  /-- MODE_FWD (R335). Waits for D-page work and switches the thread to forward mode. -/
  | modeFwd
  /-- MODE_REV (R335). Waits for D-page work and switches the thread to reverse mode. -/
  | modeRev
  /-- TAPE_SET (R339). Starts a new empty tape. -/
  | tapeSet (a : Reg) (b : Reg)
  /-- ADJ_LD (R340). Reads an element's adjoint cell rounded to the element format. -/
  | adjLd (d : Reg) (a : Reg) (imm : BitVec 12)
  /-- ADJ_CLR (R341). Queues zero stores to the cells of a byte range of a D page. -/
  | adjClr (a : Reg) (b : Reg)
  /-- ESTAT (R353). Reads an item status word, engine status word, vfr or afr. -/
  | estat (d : Reg) (a : Reg) (b : Reg)
  /-- CSAVE (R356). Saves the thread's context to a save area and frees the context. -/
  | csave (a : Reg)
  /-- CREST (R359). Restores a saved context and re-queues its items. -/
  | crest (a : Reg)
  /-- TLB_INV (R361). Removes translations from every translation cache of the package. -/
  | tlbInv (a : Reg) (b : Reg)
  /-- HALT (R362). Ends the thread after draining, leaving groups and posting an exit record. -/
  | halt (a : Reg)
  /-- SLEEP (R363). Stops issue until a timeout or an event. -/
  | sleep (a : Reg)
  /-- UNDEFINED_MOP (R40). A sequencer reaches a word that begins no defined instruction (reserved or undefined MOP, MOP 0x00 or 0xFF, nonzero unused field, header word or literal line) and traps ILLEGAL or ILLEN. -/
  | undefinedMop (cause : Cause) (tval : DWord) (tpc : DWord)
  /-- TOKEN_DELIVERY (R77). A claimed token becomes present and fills the claiming register. Target: core, ctx, fifo. -/
  | tokenDelivery
  /-- TRAP_ENTRY (R100). After in-flight results land, records the trap state, enters level M and reflects to tvec or disposes of the thread. Target: core, ctx. -/
  | trapEntry
  /-- LAUNCH_TAKE (R128). When the core is idle the loader takes the best launch record, checks it and starts its entry threads. Target: core. -/
  | launchTake
  /-- PROGRAM_END (R117). A forked program returning to the exit link drains and frees its slot, setting the fork state ENDED. Target: core, slot. -/
  | programEnd
  /-- ISSUE_SELECT (R129). Each clock the control core issues from the ready thread of top priority or starved wait with the oldest stamp. Target: core. -/
  | issueSelect
  /-- VECTOR_ISSUE_SELECT (R130). Each clock the vector engine issues from its slots by rotation. Target: core. -/
  | vectorIssueSelect
  /-- COMMAND_START (R132). A free engine starts the eligible command of top priority or starved wait with the lowest sequence number. Target: core, queue. -/
  | commandStart
  /-- SIG_COMPLETE (R134). A SIG entry whose predecessors have ended completes and sets DONE of its flag. Target: core, seq. -/
  | sigComplete
  /-- VECTOR_RESULT_WRITE (R162). A pipelined or iterative vector result is written its fixed number of clocks after issue. Target: core, slot. -/
  | vectorResultWrite
  /-- VECTOR_LONG_RESULT (R162). A long-latency vector result lands and fills its destination. Target: core, slot, reg. -/
  | vectorLongResult
  /-- VECTOR_TRAP (R166). A trapping vector program drains, records vfr, frees its slot and ends with a fault. Target: core, slot. -/
  | vectorTrap
  /-- QGET_FILL (R209). A claim whose bytes have arrived is filled from the ring. Target: core, stream, claim. -/
  | qgetFill
  /-- STREAM_UNIT_WRITE (R208). A CPY.STRM writes its next unit into the ring once there is room and advances ARR. Target: core, seq. -/
  | streamUnitWrite
  /-- LOAD_PERFORM (R225). A queued load performs at its line's owner and its reply fills the destination. Target: core, ctx, id. -/
  | loadPerform
  /-- STORE_PERFORM (R225). A queued store performs at its line's owner. Target: core, ctx, id. -/
  | storePerform
  /-- GAMO_PERFORM (R229). An atomic performs indivisibly at the owner, returns the old value and ORs its flags. Target: core, ctx, id. -/
  | gamoPerform
  /-- LDL_LINE_WRITE (R228). An LDL reply writes its line into scratchpad as one access. Target: core, ctx, id. -/
  | ldlLineWrite
  /-- ADJ_CELL_PERFORM (R336). A reverse-mode add or read-and-clear of an adjoint cell performs at the cell's owner. Target: core, ctx, id. -/
  | adjCellPerform
  /-- TRANSLATION_EVICT (R219). An unpinned translation-cache entry is replaced at the implementation's choice. Target: pcore, asid, page. -/
  | translationEvict
  /-- COPY_BLOCK (R246). A copy engine moves the next 2 KiB destination block. Target: core, seq. -/
  | copyBlock
  /-- COMMAND_RETIRE (R239). A command whose writes have all performed retires and sets its done bit. Target: core, seq. -/
  | commandRetire
  /-- COMMAND_FAIL (R253). A command fails, records its cause and enters the failed-item FIFO, raising ENGFAULT. Target: core, seq. -/
  | commandFail
  /-- TILE_AUTO_RELEASE (R267). Tiles of an ended thread are released once its commands have ended. Target: core, tile. -/
  | tileAutoRelease
  /-- MATRIX_STEP (R277). The matrix engine performs one step of a nest, accumulating exact products into the tile. Target: core, seq. -/
  | matrixStep
  /-- MX_OUT_ROW (R282). The engine rounds and writes one tile row of an MX.OUT. Target: core, seq. -/
  | mxOutRow
  /-- ARCADE_RESULTS_LAND (R299). A bundle's values and adjoints are written and its registers become full. Target: core. -/
  | arcadeResultsLand
  /-- ARCADE_TRAP (R305). A trapping Arcade program drains, records afr and ends with a fault. Target: core. -/
  | arcadeTrap
  /-- FLOW_AUTO_REMOVE (R321). Flows a logical core installed are removed when its last thread ends. Target: core. -/
  | flowAutoRemove
  /-- CHUNK_INJECT (R311). A running send injects its next chunk when it holds a credit. Target: core, seq. -/
  | chunkInject
  /-- FLOW_PACKET_ARRIVE (R312). A flow packet arrives at a match entry and is stored in a slot and acted on. Target: packet. -/
  | flowPacketArrive
  /-- FLOW_CREDIT_ARRIVE (R311). A returned credit reaches a producer of an entry. Target: packet. -/
  | flowCreditArrive
  /-- DELIVERY_WRITE (R324). A delivered chunk is written into the receive buffer once a receive is posted. Target: core, delivery. -/
  | deliveryWrite
  /-- COMPLETION_RECORD_WRITE (R325). After every payload write the completion record is written, DW1 then DW0. Target: core, delivery. -/
  | completionRecordWrite
  /-- MESSAGE_REQUEST_ARRIVE (R328). A message request matches a posted receive, enters overflow, or is nacked. Target: packet. -/
  | messageRequestArrive
  /-- RECEIVE_POST (R328). A posted receive matches an overflow entry or joins the posted list. Target: core, seq. -/
  | receivePost
  /-- GO_ARRIVE (R328). A go packet reaches the sender, which streams the payload. Target: packet. -/
  | goArrive
  /-- NACK_ARRIVE (R329). A nack reaches the sender, failing its send with MSGOVF. Target: packet. -/
  | nackArrive
  /-- DIGEST_LANDS (R330). The digest result lands in d to d+3. Target: core, ctx. -/
  | digestLands
  /-- ASYNC_CAUSE_TAKEN (R345). A pending asynchronous cause is taken at the thread's next boundary. Target: core, ctx. -/
  | asyncCauseTaken
  /-- TIMER (R355). The thread's cycle count reaches its firmware deadline and TIMER becomes pending. Target: core, ctx. -/
  | timer
  /-- TIME_SLICE_SWITCH (R107). After 1,048,576 clocks the monitor switches the resident logical core of a shared pair. Target: pcore. -/
  | timeSliceSwitch
  /-- SLEEP_TIMEOUT (R363). The sleep count expires and the thread resumes issue. Target: core, ctx. -/
  | sleepTimeout
  /-- HOLD_COUNT_EXPIRY (R53). A fixed-clock hold of a thread by a multi-clock instruction ends and its result is full. Target: core, ctx. -/
  | holdCountExpiry
  /-- WAIT_RELEASE (R9). A thread held on a wait condition is released when the condition holds. Target: core, ctx. -/
  | waitRelease
  /-- UNCORRECTABLE_ERROR (R365). An uncorrectable memory error traps, fails an item or raises async ECCU. Target: place, reader. -/
  | uncorrectableError
  /-- SCRUB (R364). A scrub pass reads and corrects an SRAM row within its 2^28-clock period. Target: core, row. -/
  | scrub
  /-- HELLO (R374). Mailbox command that selects the protocol version. Target: core. -/
  | hello
  /-- LAUNCH (R374). Mailbox command that places a launch record in the launch queue or answers BUSY. Target: core. -/
  | launch
  /-- SETASID (R374). Mailbox command that sets the core's ASID and page-table root. Target: core. -/
  | setasid
  /-- PREEMPT (R374). Mailbox command that makes PREEMPT pending in selected contexts. Target: core. -/
  | preempt
  /-- RESTORE (R360). Mailbox command that makes a free context live at the monitor's restore entry. Target: core. -/
  | restore
  /-- MAILBOX_REPLY (R373). The device writes a mailbox reply, clears PEND and raises vector 1. Target: core. -/
  | mailboxReply
  /-- EVENT_POST (R376). The device writes an event record when the queue has room, advances EQHEAD and raises vector 0. -/
  | eventPost
  /-- EQTAIL_WRITE (R376). The host advances EQTAIL, freeing event-queue space. Target: value. -/
  | eqtailWrite
  /-- REGISTER_WRITE (R371). A host write to a BAR0 register without behaviour of its own, dropped if misaligned. Target: offset, size, value. -/
  | registerWrite
  /-- HOST_WINDOW_READ (R377). A host read of an outbound window performs at the owning slice. Target: window, offset, size. -/
  | hostWindowRead
  /-- HOST_WINDOW_WRITE (R377). A host write through BAR0 to an outbound window performs as a store at the slice. Target: window, offset, size, value. -/
  | hostWindowWrite
  /-- RECOVERY_WINDOW_WRITE (R381). The host writes a firmware image into the recovery window. Target: offset, size, value. -/
  | recoveryWindowWrite
  /-- WARM_RESET (R383). Writing 0x5257 to RESET performs core resets, keeps HBM and reruns boot. Target: value. -/
  | warmReset
  /-- COLD_RESET (R383). Power-on clears all module state and runs boot. -/
  | coldReset
  /-- FIRMWARE_UPDATE (R381). A PLDM firmware update writes a new image to flash for the next reset. Target: image. -/
  | firmwareUpdate
  /-- ATTESTATION_REQUEST (R382). Replies to a nonce with measurements signed by the device identity key. Target: nonce. -/
  | attestationRequest
  /-- DEVICE_ID_SET (R387). A PLDM state effecter sets the device id for the next warm reset. Target: id. -/
  | deviceIdSet
  /-- POWER_CAP_SET (R384). A PLDM request sets the module power cap. Target: watts. -/
  | powerCapSet
  /-- POWER_CAP_THROTTLE (R384). Power above the cap lowers the core clock in 100 MHz steps. -/
  | powerCapThrottle
  /-- THERMAL_THROTTLE (R384). At 105 C the clock drops to 800 MHz and a kind-5 event posts. -/
  | thermalThrottle
  /-- THERMAL_SHUTDOWN (R384). At 115 C every core stops, STATE becomes reset and a kind-5 event posts. -/
  | thermalShutdown
  /-- PORT_TRAIN (R387). A Conov Link port exchanges capability words and comes up or stays down. Target: port, peer. -/
  | portTrain
  /-- FLIT_CRC_ERROR (R388). A flit with a CRC error is discarded and the sender replays from it. Target: port. -/
  | flitCrcError
  /-- PORT_DOWN (R389). A port goes down, failing chunks with LINK and breaking the flows that cross it. Target: port. -/
  | portDown
  /-- REMOVAL_NOTICE_ARRIVE (R391). A removal notice across a port makes the far end discard its credits for the removed entry. Target: port, flow. -/
  | removalNoticeArrive
  /-- ASP_LD_FILL (R300). An ASP.LD performs its scratchpad access and its scratch registers become full some clocks after issue. Target: core. -/
  | aspLdFill
  /-- MONITOR_PREEMPT_REQUEST (R355). The monitor of another context requests pre-emption, making PREEMPT pending with tval 3. Target: core, ctx. -/
  | monitorPreemptRequest
  /-- HOST_LINK_TRAIN (R370). The PCIe 7.0 host link trains to the highest rate and width that both ends support. Target: rate, width. -/
  | hostLinkTrain
  deriving DecidableEq, Repr

end Sys2Proof
end

