-- ==== Sys2Proof/Config.lean ====
section
/-! DEFINITION. What an implementation fixes and the free values: constants without a body, so that nothing
can be proved of their value. Each is named in the assumption log. -/

namespace Sys2Proof.Config

/-- A doubleword the spec leaves open, by the number of the draw (log entry 4). -/
opaque freeWord : Nat → DWord
/-- A number the spec leaves to the implementation, by the number of the draw (log entry 4). -/
opaque freeNat : Nat → Nat
/-- A choice the spec leaves open, by the number of the draw (log entry 4). -/
opaque freeBool : Nat → Bool

/-- The scale of an MX block for which the spec states none, by the handle and the number of the element or byte that begins it (log
entry 4). -/
opaque openScale : BitVec 256 → Nat → Nat

/-- The address at which the monitor handles PREEMPT and TIMER; the monitor's code and its place are not given
(R97, R355; log entry 5). -/
opaque monitorEntry : DWord
/-- The monitor's restore entry (R360; log entry 5). -/
opaque restoreEntry : DWord

/-- XADDR of the transfer that brought a launched thread to its entry, by the entry: no instruction made it (R32, R113; log entries 6,
53). -/
opaque launchFrom : DWord → DWord

/-- The events that happen in a clock and whose time the spec leaves open, by the number of the draw (log entry 7). -/
opaque freeEvents : Nat → List (Instr × Target)

/-- The result bits of e^x, ln x, erf x or a landing's e^x in a format and a rounding mode, which the first number tells
apart, of an operand on which the model's intervals do not settle (log entry 9). -/
opaque beyondPrecision : Nat → Nat → Nat

/-- The resident monitor's code as firmware loads it: word indices and words (R97; log entry 5). -/
opaque monitorCode : List (Nat × Word)

/-- What HBM holds after power-on, by the number of the draw: addresses and bytes (R383; log entry 3). -/
opaque hbmAtPower : Nat → List (Nat × Byte)

/-- Whether a firmware image's signature verifies, its length and its security version: the image's format is not given
(R380; log entry 10). -/
opaque imageVerifies : Memory → Bool
opaque imageLength : Memory → Nat
opaque imageVersion : Memory → BitVec 64
/-- The boot ROM's digest, what extending a measurement register gives, the digest of a health map, and the signature of
an attestation reply (R380, R382; log entry 10). -/
opaque romDigest : BitVec 256
opaque extendMeasure : BitVec 256 → BitVec 256 → BitVec 256
opaque healthDigest : List Nat → BitVec 256
opaque attestSignature : List Byte → List Byte

/-- Whether a physical core passes the self-test, by the number of the draw (R380; log entry 10). -/
opaque selfTest : Nat → Nat → Bool
/-- Firmware's placement of logical cores for a health map, used where R106 allows it (R106; log entry 11). -/
opaque remapChoice : List Nat → Nat → Nat

end Sys2Proof.Config
end

