-- ==== Sys2Proof/Machine/Fmt.lean ====
section
/-! DEFINITION. Element format codes (R137), the format rules of the vector fields (R38, R169, R177, R180),
and the field rules of `CMPI`, `LAMO`, `GAMO`, handle identifiers and `VCVT` that decode check 6 makes. -/

namespace Sys2Proof

/-- Bits one element occupies, 0 for a reserved code or 0x3F (R137). -/
def Fmt.width (c : Nat) : Nat :=
  match c with
  | 0x00 => 8  | 0x01 => 8  | 0x02 => 16 | 0x03 => 16 | 0x04 => 32 | 0x05 => 32 | 0x06 => 64
  | 0x08 => 64 | 0x09 => 32 | 0x0A => 16 | 0x0B => 16 | 0x0C => 8  | 0x0D => 8  | 0x0E => 6
  | 0x0F => 6  | 0x10 => 4  | 0x11 => 2  | 0x12 => 32 | 0x13 => 64
  | 0x18 => 8  | 0x19 => 8  | 0x1A => 6  | 0x1B => 6  | 0x1C => 4  | 0x1D => 8
  | _ => 0

/-- The code names a format (R137): neither reserved nor 0x3F. -/
def Fmt.defined (c : Nat) : Bool := Fmt.width c != 0

/-- MX block forms 0x18–0x1D (R137). -/
def Fmt.isMxCode (c : Nat) : Bool := 0x18 ≤ c && c ≤ 0x1D

/-- Integer codes 0x00–0x06 (R137). -/
def Fmt.isIntCode (c : Nat) : Bool := c ≤ 6

/-- Signed integer codes (R137). -/
def Fmt.isSignedCode (c : Nat) : Bool := c == 0 || c == 2 || c == 4 || c == 6

/-- The element format of an MX block form (R142); MX INT8 has the signed byte. -/
def Fmt.mxElem (c : Nat) : Nat :=
  match c with
  | 0x18 => 0x0C | 0x19 => 0x0D | 0x1A => 0x0E | 0x1B => 0x0F | 0x1C => 0x10 | _ => 0x00

/-- A vector floating-point fn (R169). -/
def Fmt.isVFloat (fn : Reg) : Bool := 8 ≤ fn.toNat && fn.toNat ≤ 0xB
/-- A vector integer fn (R177). -/
def Fmt.isVInt (fn : Reg) : Bool := fn.toNat ≤ 6
/-- A vector element fn (R180). -/
def Fmt.isVElem (fn : Reg) : Bool := Fmt.isVInt fn || Fmt.isVFloat fn
/-- Element width w of a vector fn (R160). -/
def Fmt.vwidth (fn : Reg) : Nat := Fmt.width fn.toNat
/-- EXT bit 0 selects `.n64` and is legal only with fn = 6 (R177, R180); the other EXT bits are zero where the
caller has masked them. -/
def Fmt.n64Ok (fn : Reg) (y : BitVec 6) : Bool := y == 0 || (y == 1 && fn == 6)
/-- Signedness of an integer fn with its `.n64` bit (R177). -/
def Fmt.isSigned (fn : Reg) (y : BitVec 6) : Bool := Fmt.isSignedCode fn.toNat && !(y.getLsbD 0)
/-- An MX form fn 0x18–0x1D (R187). -/
def Fmt.isMx (fn : Reg) : Bool := Fmt.isMxCode fn.toNat
/-- Part count of `VQMX` and `VDQMX` (R187). -/
def Fmt.mxParts (fn : Reg) : Nat :=
  match Fmt.vwidth fn with
  | 8 => 4 | 6 => 5 | _ => 8

/-- Low 6 bits of imm12. -/
def immLo (i : BitVec 12) : BitVec 6 := i.extractLsb' 0 6
/-- High 6 bits of imm12. -/
def immHi (i : BitVec 12) : BitVec 6 := i.extractLsb' 6 6

/-- The condition field of `CMPI`: EXT bits 5:3 at most 101, bits 2:0 zero (R36). -/
def CmpiCond.ok (y : BitVec 6) : Bool := decide (y.toNat / 8 ≤ 5) && decide (y.toNat % 8 = 0)

/-- `LAMO`: the operation is `cas` (R91). -/
def LamoExt.isCas (y : BitVec 6) : Bool := y.toNat / 8 == 7
/-- `LAMO`: EXT bits 1:0 are 0, and the compare register is 0 except in `cas` (R91). -/
def LamoExt.ok (x y : BitVec 6) : Bool := decide (y.toNat % 4 = 0) && (LamoExt.isCas y || x == 0)

/-- `GAMO` operation code, EXT bits 5:2 (R229). -/
def GamoExt.op (y : BitVec 6) : Nat := y.toNat / 4
def GamoExt.isFadd (y : BitVec 6) : Bool := GamoExt.op y == 1
def GamoExt.isCas (y : BitVec 6) : Bool := GamoExt.op y == 9
/-- The operations R229 allows with a type fn, and the compare register's rule. -/
def GamoExt.ok (fn : Reg) (x y : BitVec 6) : Bool :=
  let op := GamoExt.op y
  (match fn.toNat with
   | 4 | 5 | 6 | 7 => op == 0 || (3 ≤ op && op ≤ 9)
   | 8 | 9 => op == 1 || op == 8 || op == 9
   | 0x13 => op == 2 || op == 8 || op == 9
   | _ => false) && (GamoExt.isCas y || x == 0)

/-- A field identifier of a handle: low bit and width (R94). -/
def HandleField.bits (fn : Reg) : Option (Nat × Nat × Bool) :=
  match fn.toNat with
  | 0x00 => some (0, 57, false)   | 0x01 => some (57, 1, false)   | 0x02 => some (58, 6, false)
  | 0x03 => some (64, 16, false)  | 0x04 => some (80, 16, false)  | 0x05 => some (96, 16, false)
  | 0x06 => some (112, 16, false) | 0x07 => some (128, 24, true)  | 0x08 => some (152, 24, true)
  | 0x09 => some (176, 24, true)  | 0x0A => some (200, 16, false) | 0x0B => some (216, 4, false)
  | 0x0C => some (220, 2, false)  | 0x0D => some (248, 8, false)
  | 0x10 => some (0, 64, false)   | 0x11 => some (64, 64, false)
  | 0x12 => some (128, 64, false) | 0x13 => some (192, 64, false)
  | _ => none
/-- Any other identifier traps ILLEGAL at decode (R94). -/
def HandleField.ok (fn : Reg) : Bool := (HandleField.bits fn).isSome

end Sys2Proof
end

