-- ==== Sys2Proof/Machine/FieldRules.lean ====
section
/-! DEFINITION. The field rules of decode check 6 (R35) that several rows share: word 1 of format L in scalar
and in vector instructions (R24–R27, R161), and `VCVT`'s (R186). -/

namespace Sys2Proof

/-- With G = 0, the fields N, GREG and GBIT must all be zero (R25). -/
def LW.guardOk (l : LW) : Bool := l.g || (!l.n && l.greg == 0 && l.gbit == 0)
/-- RM of an instruction that rounds is not reserved; of one that does not, 000 (R26). -/
def LW.rmOk (l : LW) (rounds : Bool) : Bool := if rounds then l.rm != 5 && l.rm != 6 else l.rm == 0
/-- A T bit is set only for a source the instruction reads as a register (R27). -/
def LW.tOk (l : LW) (ta tb tc : Bool) : Bool := (ta || !l.ta) && (tb || !l.tb) && (tc || !l.tc)
/-- Word 1 of a scalar format L instruction. -/
def LW.wfS (l : LW) (rounds ta tb tc : Bool) : Bool := l.guardOk && l.rmOk rounds && l.tOk ta tb tc
/-- Word 1 of a vector instruction of element width `w`: GBIT lies in 0–31 and below `w` (R25, R161). -/
def LW.wfV (l : LW) (w : Nat) (rounds ta tb tc : Bool) : Bool :=
  l.wfS rounds ta tb tc && decide (l.gbit.toNat < 32) && decide (l.gbit.toNat < w)

/-- `VCVT`: the width at which the guard is read, the larger of the two (R186). -/
def VcvtExt.wm (fn : Reg) (y : BitVec 6) : Nat := max (Fmt.vwidth fn) (Fmt.vwidth y)
/-- `VCVT` rounds unless both codes are integers (R186). -/
def VcvtExt.rounds (fn : Reg) (y : BitVec 6) : Bool := !(Fmt.isVInt fn && Fmt.isVInt y)
/-- `VCVT`: the encodings R186 admits; source code in EXT 5:0, sat in EXT 6, part p in b. -/
def VcvtExt.ok (fn b : Reg) (l : LW) : Bool :=
  Fmt.isVElem fn && Fmt.isVElem l.y && fn != l.y && decide (l.x.toNat < 2)
    && !(l.x == 1 && Fmt.isVFloat fn)
    && decide (b.toNat * min (Fmt.vwidth fn) (Fmt.vwidth l.y) < VcvtExt.wm fn l.y)

/-- `MX.SET` (R274, R275): LVL, CSEL and COUNT in word 0, reserved bits zero. -/
def mxSetOk (e : BitVec 24) (w1 w2 w3 : Word) : Bool :=
  let lvl := e.toNat / 2 ^ 21
  let csel := e.toNat / 2 ^ 18 % 8
  if lvl < 6 then decide (csel ≤ 4) && (csel == 0 || e.toNat % 2 ^ 18 != 0) && w3.toNat / 2 ^ 20 % 2 ^ 8 == 0
  else lvl == 6 && e.toNat % 2 ^ 21 == 0 && w1.toNat / 2 ^ 20 == 0 && w2 == 0 && w3 == 0

/-- `ASP.UP` and `ASP.DN` (R290, R293): FMT and RM not reserved, bits 2:0 zero, the offset of an absent leaf zero. -/
def aspOk (e : BitVec 24) (w1 w2 w3 : Word) : Bool :=
  let absent (w : Word) (b lo : Nat) : Bool := !w.getLsbD b || w.toNat / 2 ^ lo % 2 ^ 10 == 0
  let apart (w z : Word) (b lo : Nat) : Bool := !w.getLsbD b || z.toNat / 2 ^ lo % 2 ^ 10 == 0
  decide (e.toNat / 2 ^ 6 % 4 ≤ 1) && decide (e.toNat / 2 ^ 4 % 4 ≤ 1) && e.toNat % 8 == 0
    && absent w1 30 20 && apart w1 w2 31 0 && absent w2 30 10 && absent w2 31 20 && absent w3 30 0 && absent w3 31 10

end Sys2Proof
end

