-- ==== Sys2Proof/WellFormed.lean ====
section
/-! DEFINITION. Decode check 6 of R35 on an instruction's fields: reserved values, register ranges (R28), RM
(R26), T bits (R27) and the guard fields (R24, R25). A row that is an event has no word and nothing to check. -/

namespace Sys2Proof

/-- The fields of the instruction are ones its row allows (decode check 6 of R35). -/
def Instr.wf (i : Instr) : Bool :=
  match i with
  | .nop => true
  | .add _ _ _ => true
  | .sub _ _ _ => true
  | .mul _ _ _ => true
  | .mulh _ _ _ => true
  | .mulhn _ _ _ => true
  | .div _ _ _ => true
  | .divn _ _ _ => true
  | .rem _ _ _ => true
  | .remn _ _ _ => true
  | .and _ _ _ => true
  | .or _ _ _ => true
  | .xor _ _ _ => true
  | .shl _ _ _ => true
  | .shr _ _ _ => true
  | .sar _ _ _ => true
  | .min _ _ _ => true
  | .max _ _ _ => true
  | .minn _ _ _ => true
  | .maxn _ _ _ => true
  | .addi _ _ _ => true
  | .andi _ _ _ => true
  | .ori _ _ _ => true
  | .xori _ _ _ => true
  | .shli _ _ imm => immHi imm == 0
  | .shri _ _ imm => immHi imm == 0
  | .sari _ _ imm => immHi imm == 0
  | .cmpEq _ _ _ _ => true
  | .cmpNe _ _ _ _ => true
  | .cmpLt _ _ _ _ => true
  | .cmpLtn _ _ _ _ => true
  | .cmpGe _ _ _ _ => true
  | .cmpGen _ _ _ _ => true
  | .cmpi _ _ _ lw => lw.wfS false true false false && CmpiCond.ok lw.y
  | .clz _ _ => true
  | .ctz _ _ => true
  | .popc _ _ => true
  | .bset _ _ imm => immHi imm == 0
  | .bclr _ _ imm => immHi imm == 0
  | .bext _ _ imm => decide ((immLo imm).toNat + (immHi imm).toNat + 1 ≤ 64)
  | .bins _ _ imm => decide ((immLo imm).toNat + (immHi imm).toNat + 1 ≤ 64)
  | .lea _ _ _ _ lw => lw.wfS false true true false
  | .li _ _ => true
  | .lui _ _ => true
  | .mov _ _ => true
  | .sel _ _ _ lw => lw.wfS false true true true
  | .pbr d _ => d.toNat < 8
  | .pbrr d _ => d.toNat < 8
  | .brx d _ _ => d.toNat < 8
  | .brxn d _ _ => d.toNat < 8
  | .br d => d.toNat < 8
  | .call d => d.toNat < 8
  | .ret => true
  | .loop d _ imm => d.toNat < 4 && decide (1 < imm.toNat)
  | .loopi d imm _ => d.toNat < 4 && decide (2 < imm.toNat)
  | .tokSend _ fn => fn.toNat < 4
  | .tokRecv _ fn => fn.toNat < 4
  | .tokPoll _ fn => fn.toNat < 4
  | .mfc _ imm => imm.toNat < 256
  | .mtc _ imm => imm.toNat < 256
  | .trap _ => true
  | .ldB _ _ _ => true
  | .ldBn _ _ _ => true
  | .ldH _ _ _ => true
  | .ldHn _ _ _ => true
  | .ldW _ _ _ => true
  | .ldWn _ _ _ => true
  | .ldD _ _ _ => true
  | .stB _ _ _ => true
  | .stH _ _ _ => true
  | .stW _ _ _ => true
  | .stD _ _ _ => true
  | .ldQ d _ _ => d.toNat % 2 == 0
  | .stQ d _ _ => d.toNat % 2 == 0
  | .lamo _ _ _ lw => lw.wfS false true true (LamoExt.isCas lw.y) && LamoExt.ok lw.x lw.y
  | .hld d _ imm => d.toNat < 16 && imm.toNat % 32 == 0
  | .hst d _ imm => d.toNat < 16 && imm.toNat % 32 == 0
  | .hget _ a fn => a.toNat < 16 && HandleField.ok fn
  | .hset d _ fn => d.toNat < 16 && HandleField.ok fn
  | .hpatch _ _ fn lw => lw.wfS false true true false && HandleField.ok fn && lw.ext.toNat % 32 == 0
  | .tret => true
  | .selectSize _ _ _ => true
  | .forkV _ _ _ => true
  | .forkA _ _ _ => true
  | .rdv _ _ => true
  | .enq _ _ _ => true
  | .deq d _ => d.toNat % 2 == 0
  | .yieldStage => true
  | .grpJoin _ _ => true
  | .grpLeave _ _ => true
  | .grpBar _ _ => true
  | .grpInfo _ _ _ => true
  | .sig _ _ _ => true
  | .waitf _ _ _ => true
  | .vadd _ _ _ fn lw => Fmt.isVFloat fn && lw.wfV (Fmt.vwidth fn) true true true false && lw.y == 0 && lw.x == 0
  | .vsub _ _ _ fn lw => Fmt.isVFloat fn && lw.wfV (Fmt.vwidth fn) true true true false && lw.y == 0 && lw.x == 0
  | .vmul _ _ _ fn lw => Fmt.isVFloat fn && lw.wfV (Fmt.vwidth fn) true true true false && lw.y == 0 && lw.x == 0
  | .vfma _ _ _ fn lw => Fmt.isVFloat fn && lw.wfV (Fmt.vwidth fn) true true true true && lw.y == 0
  | .vfms _ _ _ fn lw => Fmt.isVFloat fn && lw.wfV (Fmt.vwidth fn) true true true true && lw.y == 0
  | .vfnma _ _ _ fn lw => Fmt.isVFloat fn && lw.wfV (Fmt.vwidth fn) true true true true && lw.y == 0
  | .vdiv _ _ _ fn lw => Fmt.isVFloat fn && lw.wfV (Fmt.vwidth fn) true true true false && lw.y == 0 && lw.x == 0
  | .vsqrt _ _ fn lw => Fmt.isVFloat fn && lw.wfV (Fmt.vwidth fn) true true false false && lw.y == 0 && lw.x == 0
  | .vmin _ _ _ fn lw => Fmt.isVFloat fn && lw.wfV (Fmt.vwidth fn) false true true false && lw.y == 0 && lw.x == 0
  | .vmax _ _ _ fn lw => Fmt.isVFloat fn && lw.wfV (Fmt.vwidth fn) false true true false && lw.y == 0 && lw.x == 0
  | .vabs _ _ fn lw => Fmt.isVFloat fn && lw.wfV (Fmt.vwidth fn) false true false false && lw.y == 0 && lw.x == 0
  | .vneg _ _ fn lw => Fmt.isVFloat fn && lw.wfV (Fmt.vwidth fn) false true false false && lw.y == 0 && lw.x == 0
  | .vexp _ _ fn lw => Fmt.isVFloat fn && lw.wfV (Fmt.vwidth fn) true true false false && lw.y == 0 && lw.x == 0
  | .vlog _ _ fn lw => Fmt.isVFloat fn && lw.wfV (Fmt.vwidth fn) true true false false && lw.y == 0 && lw.x == 0
  | .verf _ _ fn lw => Fmt.isVFloat fn && lw.wfV (Fmt.vwidth fn) true true false false && lw.y == 0 && lw.x == 0
  | .vclass _ _ fn lw => Fmt.isVFloat fn && lw.wfV (Fmt.vwidth fn) false true false false && lw.y == 0 && lw.x == 0
  | .vcmp _ _ _ fn lw => Fmt.isVFloat fn && lw.wfV (Fmt.vwidth fn) false true true false && decide (lw.x.toNat < Fmt.vwidth fn) && decide (lw.y.toNat < 8)
  | .viadd _ _ _ fn lw => Fmt.isVInt fn && lw.wfV (Fmt.vwidth fn) false true true false && lw.x == 0 && Fmt.n64Ok fn lw.y
  | .visub _ _ _ fn lw => Fmt.isVInt fn && lw.wfV (Fmt.vwidth fn) false true true false && lw.x == 0 && Fmt.n64Ok fn lw.y
  | .vimul _ _ _ fn lw => Fmt.isVInt fn && lw.wfV (Fmt.vwidth fn) false true true false && lw.x == 0 && Fmt.n64Ok fn lw.y
  | .vimulh _ _ _ fn lw => Fmt.isVInt fn && lw.wfV (Fmt.vwidth fn) false true true false && lw.x == 0 && Fmt.n64Ok fn lw.y
  | .vand _ _ _ fn lw => Fmt.isVInt fn && lw.wfV (Fmt.vwidth fn) false true true false && lw.x == 0 && Fmt.n64Ok fn lw.y
  | .vor _ _ _ fn lw => Fmt.isVInt fn && lw.wfV (Fmt.vwidth fn) false true true false && lw.x == 0 && Fmt.n64Ok fn lw.y
  | .vxor _ _ _ fn lw => Fmt.isVInt fn && lw.wfV (Fmt.vwidth fn) false true true false && lw.x == 0 && Fmt.n64Ok fn lw.y
  | .vshl _ _ _ fn lw => Fmt.isVInt fn && lw.wfV (Fmt.vwidth fn) false true true false && lw.x == 0 && Fmt.n64Ok fn lw.y
  | .vshr _ _ _ fn lw => Fmt.isVInt fn && lw.wfV (Fmt.vwidth fn) false true true false && lw.x == 0 && Fmt.n64Ok fn lw.y
  | .vsar _ _ _ fn lw => Fmt.isVInt fn && lw.wfV (Fmt.vwidth fn) false true true false && lw.x == 0 && Fmt.n64Ok fn lw.y
  | .vimin _ _ _ fn lw => Fmt.isVInt fn && lw.wfV (Fmt.vwidth fn) false true true false && lw.x == 0 && Fmt.n64Ok fn lw.y
  | .vimax _ _ _ fn lw => Fmt.isVInt fn && lw.wfV (Fmt.vwidth fn) false true true false && lw.x == 0 && Fmt.n64Ok fn lw.y
  | .viabs _ _ fn lw => Fmt.isVInt fn && lw.wfV (Fmt.vwidth fn) false true false false && lw.x == 0 && Fmt.n64Ok fn lw.y && Fmt.isSigned fn lw.y
  | .vsadd _ _ _ fn lw => Fmt.isVInt fn && lw.wfV (Fmt.vwidth fn) false true true false && lw.x == 0 && Fmt.n64Ok fn lw.y
  | .vpopc _ _ fn lw => Fmt.isVInt fn && lw.wfV (Fmt.vwidth fn) false true false false && lw.x == 0 && Fmt.n64Ok fn lw.y
  | .vsel _ _ _ fn lw => Fmt.isVElem fn && lw.wfV (Fmt.vwidth fn) false true true true && decide (lw.y.toNat < Fmt.vwidth fn)
  | .vany _ _ _ lw => lw.wfV 32 false true false false && lw.x == 0 && decide (lw.y.toNat < 32)
  | .vall _ _ _ lw => lw.wfV 32 false true false false && lw.x == 0 && decide (lw.y.toNat < 32)
  | .vld _ _ fn lw => Fmt.isVElem fn && Fmt.n64Ok fn (lw.y &&& 1) && lw.wfV (Fmt.vwidth fn) false true false false && lw.x == 0 && lw.y.toNat < 2
  | .vst _ _ fn lw => Fmt.isVElem fn && Fmt.n64Ok fn (lw.y &&& 1) && lw.wfV (Fmt.vwidth fn) false true false false && lw.x == 0 && lw.y.toNat < 2
  | .vldS _ _ _ fn lw => Fmt.isVElem fn && Fmt.n64Ok fn (lw.y &&& 1) && lw.wfV (Fmt.vwidth fn) false true true false && lw.x == 0 && lw.y.toNat < 2
  | .vstS _ _ _ fn lw => Fmt.isVElem fn && Fmt.n64Ok fn (lw.y &&& 1) && lw.wfV (Fmt.vwidth fn) false true true false && lw.x == 0 && lw.y.toNat < 2
  | .vldX _ _ _ fn lw => Fmt.isVElem fn && Fmt.n64Ok fn (lw.y &&& 1) && lw.wfV (Fmt.vwidth fn) false true true false && lw.x == 0 && lw.y.toNat < 2 && decide (32 ≤ Fmt.vwidth fn)
  | .vstX _ _ _ fn lw => Fmt.isVElem fn && Fmt.n64Ok fn (lw.y &&& 1) && lw.wfV (Fmt.vwidth fn) false true true false && lw.x == 0 && lw.y.toNat < 2 && decide (32 ≤ Fmt.vwidth fn)
  | .vldq _ a fn lw => Fmt.isVElem fn && Fmt.n64Ok fn (lw.y &&& 1) && lw.wfV (Fmt.vwidth fn) false false false false && lw.x == 0 && lw.y.toNat < 2 && a.toNat < 8
  | .vmov _ _ fn lw => Fmt.isVElem fn && Fmt.n64Ok fn (lw.y &&& 1) && lw.wfV (Fmt.vwidth fn) false true false false && lw.x == 0 && lw.y.toNat < 2
  | .vbcast _ _ fn lw => Fmt.isVElem fn && Fmt.n64Ok fn (lw.y &&& 1) && lw.wfV (Fmt.vwidth fn) false true false false && lw.x == 0 && lw.y.toNat < 2
  | .vslide _ _ _ fn lw => Fmt.isVElem fn && Fmt.n64Ok fn (lw.y &&& 1) && lw.wfV (Fmt.vwidth fn) false true true false && lw.x == 0 && lw.y.toNat < 2
  | .vperm _ _ _ fn lw => Fmt.isVElem fn && Fmt.n64Ok fn (lw.y &&& 1) && lw.wfV (Fmt.vwidth fn) false true true false && lw.x == 0 && lw.y.toNat < 2 && Fmt.vwidth fn != 8
  | .vshuf _ _ _ fn lw => Fmt.isVElem fn && Fmt.n64Ok fn (lw.y &&& 1) && lw.wfV (Fmt.vwidth fn) false true true false && lw.x == 0 && lw.y.toNat < 8
  | .vtrn _ _ fn lw => Fmt.isVElem fn && Fmt.n64Ok fn (lw.y &&& 1) && lw.wfV (Fmt.vwidth fn) false true false false && lw.x == 0 && lw.y.toNat < 32 && decide (2 ^ (lw.y.toNat / 2) ≤ 8192 / Fmt.vwidth fn)
  | .vext _ _ _ fn lw => Fmt.isVElem fn && Fmt.n64Ok fn (lw.y &&& 1) && lw.wfV (Fmt.vwidth fn) false true true false && lw.x == 0 && lw.y.toNat < 2
  | .vins _ _ _ fn lw => Fmt.isVElem fn && Fmt.n64Ok fn (lw.y &&& 1) && lw.wfV (Fmt.vwidth fn) false true true false && lw.x == 0 && lw.y.toNat < 2
  | .vcvt _ _ b fn lw => VcvtExt.ok fn b lw && lw.wfV (VcvtExt.wm fn lw.y) (VcvtExt.rounds fn lw.y) true false false
  | .vqmx _ _ b fn lw => Fmt.isMx fn && !lw.g && lw.wfV 32 true true false true && decide (b.toNat < Fmt.mxParts fn) && lw.y == 0
  | .vdqmx _ _ b fn lw => Fmt.isMx fn && !lw.g && lw.wfV 32 true true false true && decide (b.toNat < Fmt.mxParts fn) && lw.y == 0
  | .vrsum _ _ fn lw => Fmt.isVElem fn && Fmt.n64Ok fn (lw.y &&& 1) && lw.wfV (Fmt.vwidth fn) (Fmt.isVFloat fn) true false false && lw.x == 0 && lw.y.toNat < 2
  | .vrmax _ _ fn lw => Fmt.isVElem fn && Fmt.n64Ok fn (lw.y &&& 1) && lw.wfV (Fmt.vwidth fn) false true false false && lw.x == 0 && lw.y.toNat < 2
  | .vrmin _ _ fn lw => Fmt.isVElem fn && Fmt.n64Ok fn (lw.y &&& 1) && lw.wfV (Fmt.vwidth fn) false true false false && lw.x == 0 && lw.y.toNat < 2
  | .vrarg _ _ fn lw => Fmt.isVElem fn && Fmt.n64Ok fn (lw.y &&& 1) && lw.wfV (Fmt.vwidth fn) false true false false && lw.x == 0 && lw.y.toNat < 4
  | .vtopk _ _ _ fn lw => Fmt.isVElem fn && Fmt.n64Ok fn (lw.y &&& 1) && lw.wfV (Fmt.vwidth fn) false true true false && lw.x == 0 && lw.y.toNat < 4
  | .vrng _ _ _ lw => lw.wfV 32 false true true false && lw.x == 0 && lw.y == 0
  | .vhash _ _ _ fn lw => fn == 6 && !lw.g && lw.wfV 64 false true true false && lw.x == 0 && lw.y == 0
  | .ardRow _ a _ fn lw => a.toNat < 8 && Fmt.isVFloat fn && fn != 8 && lw.wfV (Fmt.vwidth fn) true false true false && lw.x == 0 && lw.y == 0
  | .ardCol _ a _ fn lw => a.toNat < 8 && Fmt.isVFloat fn && fn != 8 && lw.wfV (Fmt.vwidth fn) true false true false && lw.x == 0 && lw.y == 0
  | .awrRow _ a _ fn lw => a.toNat < 8 && (decide (fn.toNat < 6) || (Fmt.isVFloat fn && fn != 8)) && lw.wfV (Fmt.vwidth fn) false false true false && lw.x == 0 && lw.y == 0
  | .awrCol _ a _ fn lw => a.toNat < 8 && (decide (fn.toNat < 6) || (Fmt.isVFloat fn && fn != 8)) && lw.wfV (Fmt.vwidth fn) false false true false && lw.x == 0 && lw.y == 0
  | .tlook _ _ _ => true
  | .tfill d _ _ => d.toNat % 2 == 0
  | .tevict _ _ _ => true
  | .tpin d _ _ => d.toNat % 2 == 0
  | .tunpin _ _ _ => true
  | .qbind d _ _ => d.toNat < 8
  | .qget _ a => a.toNat < 8
  | .qrel _ a => a.toNat < 8
  | .ldgW _ _ _ => true
  | .ldgD _ _ _ => true
  | .stgW _ _ _ => true
  | .stgD _ _ _ => true
  | .ldl _ _ => true
  | .stl _ _ => true
  | .gamo _ _ _ fn lw => lw.wfS (GamoExt.isFadd lw.y) true true (GamoExt.isCas lw.y) && GamoExt.ok fn lw.x lw.y
  | .mark => true
  | .fence imm24 => imm24.toNat < 4
  | .cpy d a b fn lw => d.toNat < 16 && a.toNat < 16 && b.toNat < 16 && lw.wfS false true true false && fn == 0 && decide (lw.y.toNat % 16 < 1)
  | .cpyT d a b fn lw => d.toNat < 16 && a.toNat < 16 && b.toNat < 16 && lw.wfS false true true false && fn == 0 && decide (lw.y.toNat % 16 < 1)
  | .cpyP d a b fn lw => d.toNat < 16 && a.toNat < 16 && b.toNat < 16 && lw.wfS false true true false && decide (fn.toNat < 24) && decide (lw.y.toNat % 16 < 1)
  | .cpyQ d a b fn lw => d.toNat < 16 && a.toNat < 16 && b.toNat < 16 && lw.wfS true true true false && fn == 0 && decide (lw.y.toNat % 16 < 2)
  | .cpyQT d a b fn lw => d.toNat < 16 && a.toNat < 16 && b.toNat < 16 && lw.wfS true true true false && fn == 0 && decide (lw.y.toNat % 16 < 2)
  | .cpyGath d a b fn lw => d.toNat < 16 && a.toNat < 16 && b.toNat < 16 && lw.wfS false true true false && fn == 0 && decide (lw.y.toNat % 16 < 1)
  | .cpyPair d a b fn lw => d.toNat < 16 && a.toNat < 16 && b.toNat < 16 && lw.wfS (lw.y.getLsbD 0) true true false && fn == 0 && decide (lw.y.toNat % 16 < 4)
  | .cpyScale _ a b fn lw => a.toNat < 16 && b == 0 && lw.wfS false true false false && fn == 0 && decide (lw.y.toNat % 16 < 1)
  | .cpyStrm d a b fn lw => d.toNat < 8 && a.toNat < 16 && b == 0 && lw.wfS false true false false && fn == 0 && decide (lw.y.toNat % 16 < 1)
  | .cpyHost d a b fn lw => d == 0 && a.toNat < 16 && b == 0 && lw.wfS false true false false && fn == 0 && decide (lw.y.toNat % 16 < 2)
  | .mxSet e w1 w2 w3 => mxSetOk e w1 w2 w3
  | .mxGo d a b _ => d.toNat < 8 && a.toNat < 16 && b.toNat < 16
  | .mxAcq _ a => a.toNat < 8
  | .mxRel d => d.toNat < 8
  | .mxShape d _ _ => d.toNat < 8
  | .mxZero d _ => d.toNat < 8
  | .mxOut d a b fn lw => d.toNat < 8 && a.toNat < 16 && b == 0 && fn == 0 && lw.wfS true true false false && lw.y == 0
  | .aspUp e w1 w2 w3 => aspOk e w1 w2 w3
  | .aspDn e w1 w2 w3 => aspOk e w1 w2 w3
  | .aspLd _ _ _ fn => decide (fn.toNat ≤ 2)
  | .aspSt _ _ _ fn => decide (fn.toNat ≤ 2)
  | .aspCvt _ _ b fn lw => b == 0 && decide (fn.toNat < 4) && decide (lw.rm.toNat ≤ 1) && lw.wfS true true false false && lw.x == 0 && lw.y == 0
  | .aspWin d _ => d.toNat < 4
  | .aspSeed _ => true
  | .aspClra _ _ => true
  | .flowLoad _ _ => true
  | .flowSend _ _ b => b.toNat < 16
  | .flowRecv _ _ b => b.toNat < 16
  | .flowRel _ _ => true
  | .flowStat _ _ => true
  | .msgSend _ _ b => b.toNat < 16
  | .msgPost _ _ b => b.toNat < 16
  | .msgProbe _ _ _ => true
  | .digest d _ _ => d != 0 && d.toNat % 4 == 0
  | .dchk _ a _ => a != 0 && a.toNat % 4 == 0
  | .modeFwd => true
  | .modeRev => true
  | .tapeSet _ _ => true
  | .adjLd _ _ _ => true
  | .adjClr _ _ => true
  | .estat _ _ _ => true
  | .csave _ => true
  | .crest _ => true
  | .tlbInv _ _ => true
  | .halt _ => true
  | .sleep _ => true
  | .undefinedMop _ _ _ => true
  | .tokenDelivery => true
  | .trapEntry => true
  | .launchTake => true
  | .programEnd => true
  | .issueSelect => true
  | .vectorIssueSelect => true
  | .commandStart => true
  | .sigComplete => true
  | .vectorResultWrite => true
  | .vectorLongResult => true
  | .vectorTrap => true
  | .qgetFill => true
  | .streamUnitWrite => true
  | .loadPerform => true
  | .storePerform => true
  | .gamoPerform => true
  | .ldlLineWrite => true
  | .adjCellPerform => true
  | .translationEvict => true
  | .copyBlock => true
  | .commandRetire => true
  | .commandFail => true
  | .tileAutoRelease => true
  | .matrixStep => true
  | .mxOutRow => true
  | .arcadeResultsLand => true
  | .arcadeTrap => true
  | .flowAutoRemove => true
  | .chunkInject => true
  | .flowPacketArrive => true
  | .flowCreditArrive => true
  | .deliveryWrite => true
  | .completionRecordWrite => true
  | .messageRequestArrive => true
  | .receivePost => true
  | .goArrive => true
  | .nackArrive => true
  | .digestLands => true
  | .asyncCauseTaken => true
  | .timer => true
  | .timeSliceSwitch => true
  | .sleepTimeout => true
  | .holdCountExpiry => true
  | .waitRelease => true
  | .uncorrectableError => true
  | .scrub => true
  | .hello => true
  | .launch => true
  | .setasid => true
  | .preempt => true
  | .restore => true
  | .mailboxReply => true
  | .eventPost => true
  | .eqtailWrite => true
  | .registerWrite => true
  | .hostWindowRead => true
  | .hostWindowWrite => true
  | .recoveryWindowWrite => true
  | .warmReset => true
  | .coldReset => true
  | .firmwareUpdate => true
  | .attestationRequest => true
  | .deviceIdSet => true
  | .powerCapSet => true
  | .powerCapThrottle => true
  | .thermalThrottle => true
  | .thermalShutdown => true
  | .portTrain => true
  | .flitCrcError => true
  | .portDown => true
  | .removalNoticeArrive => true
  | .aspLdFill => true
  | .monitorPreemptRequest => true
  | .hostLinkTrain => true

end Sys2Proof
end

