-- ==== Sys2Proof/Decode.lean ====
section
/-! DEFINITION. Words to instructions and back: the fields of the formats (R23, R24), the opcode tables of the
three instruction memories (R36–R39), the decoder, the encoder and `decodeTableWord`. -/

namespace Sys2Proof

/-- Bits 31:24, the major opcode (R22). -/
def Word.fMop (w : Word) : BitVec 8 := w.extractLsb' 24 8
/-- Field d, bits 23:18 (R23). -/
def Word.fD (w : Word) : Reg := w.extractLsb' 18 6
/-- Field a, bits 17:12 (R23). -/
def Word.fA (w : Word) : Reg := w.extractLsb' 12 6
/-- Field b, bits 11:6 (R23). -/
def Word.fB (w : Word) : Reg := w.extractLsb' 6 6
/-- Field fn, bits 5:0 (R23). -/
def Word.fFn (w : Word) : Reg := w.extractLsb' 0 6
/-- imm12 of format B (R23). -/
def Word.fImm (w : Word) : BitVec 12 := w.extractLsb' 0 12
/-- imm18 of format C (R23). -/
def Word.fImm18 (w : Word) : BitVec 18 := w.extractLsb' 0 18
/-- Bits 23:0 of formats D and Q (R23). -/
def Word.fImm24 (w : Word) : BitVec 24 := w.extractLsb' 0 24

/-- Word 1 of a format L instruction, field by field (R24). -/
def LW.ofWord (w : Word) : LW where
  g    := w.getLsbD 31
  n    := w.getLsbD 30
  greg := w.extractLsb' 24 6
  gbit := w.extractLsb' 18 6
  rm   := w.extractLsb' 15 3
  ta   := w.getLsbD 14
  tb   := w.getLsbD 13
  tc   := w.getLsbD 12
  x    := w.extractLsb' 6 6
  y    := w.extractLsb' 0 6

/-- Word 1 of a format L instruction, packed (R24). -/
def LW.toWord (l : LW) : Word :=
  BitVec.ofBool l.g ++ BitVec.ofBool l.n ++ l.greg ++ l.gbit ++ l.rm ++ BitVec.ofBool l.ta
    ++ BitVec.ofBool l.tb ++ BitVec.ofBool l.tc ++ l.x ++ l.y

/-- A format A word (R23). -/
def packA (mop : BitVec 8) (d a b fn : Reg) : Word := mop ++ d ++ a ++ b ++ fn
/-- A format B word (R23). -/
def packB (mop : BitVec 8) (d a : Reg) (imm : BitVec 12) : Word := mop ++ d ++ a ++ imm
/-- A format C word (R23). -/
def packC (mop : BitVec 8) (d : Reg) (imm : BitVec 18) : Word := mop ++ d ++ imm
/-- A format D word, and word 0 of format Q (R23). -/
def packD (mop : BitVec 8) (imm : BitVec 24) : Word := mop ++ imm

/-- A field that the instruction does not use must be zero (R28). -/
def unusedZero (z : Bool) (i : Instr) : Option Instr := if z then some i else none


/-- The shared control subset (R36): the words each defined MOP has, none where it is undefined (R23). -/
def mopLengthShared (mop : Nat) : Option Nat :=
  match mop with
  | 0x01 => some 1
  | 0x02 => some 1
  | 0x03 => some 1
  | 0x04 => some 1
  | 0x05 => some 1
  | 0x06 => some 1
  | 0x07 => some 1
  | 0x08 => some 1
  | 0x09 => some 1
  | 0x0A => some 1
  | 0x0B => some 1
  | 0x0C => some 1
  | 0x0D => some 1
  | 0x0E => some 1
  | 0x0F => some 1
  | 0x10 => some 1
  | 0x11 => some 1
  | 0x12 => some 1
  | 0x13 => some 1
  | 0x14 => some 1
  | 0x20 => some 1
  | 0x21 => some 1
  | 0x22 => some 1
  | 0x23 => some 1
  | 0x24 => some 1
  | 0x25 => some 1
  | 0x26 => some 1
  | 0x30 => some 1
  | 0x31 => some 1
  | 0x32 => some 1
  | 0x33 => some 1
  | 0x34 => some 1
  | 0x35 => some 1
  | 0x36 => some 2
  | 0x38 => some 1
  | 0x39 => some 1
  | 0x3A => some 1
  | 0x3B => some 1
  | 0x3C => some 1
  | 0x3D => some 1
  | 0x3E => some 1
  | 0x40 => some 2
  | 0x41 => some 2
  | 0x42 => some 2
  | 0x43 => some 1
  | 0x44 => some 2
  | 0x48 => some 1
  | 0x49 => some 1
  | 0x4A => some 1
  | 0x4B => some 1
  | 0x4C => some 1
  | 0x4D => some 1
  | 0x4E => some 1
  | 0x4F => some 1
  | 0x50 => some 2
  | 0x58 => some 1
  | 0x59 => some 1
  | 0x5A => some 1
  | 0x60 => some 1
  | 0x61 => some 1
  | 0x62 => some 1
  | _ => none

/-- The shared control subset (R36): the instruction its words give, none where an unused field is not zero. -/
def decodeShared (mop : Nat) (w0 w1 : Word) : Option Instr :=
  match mop with
  | 0x01 => unusedZero (w0.fImm24 == 0) (.nop)
  | 0x02 => unusedZero (w0.fFn == 0) (.add w0.fD w0.fA w0.fB)
  | 0x03 => unusedZero (w0.fFn == 0) (.sub w0.fD w0.fA w0.fB)
  | 0x04 => unusedZero (w0.fFn == 0) (.mul w0.fD w0.fA w0.fB)
  | 0x05 => unusedZero (w0.fFn == 0) (.mulh w0.fD w0.fA w0.fB)
  | 0x06 => unusedZero (w0.fFn == 0) (.mulhn w0.fD w0.fA w0.fB)
  | 0x07 => unusedZero (w0.fFn == 0) (.div w0.fD w0.fA w0.fB)
  | 0x08 => unusedZero (w0.fFn == 0) (.divn w0.fD w0.fA w0.fB)
  | 0x09 => unusedZero (w0.fFn == 0) (.rem w0.fD w0.fA w0.fB)
  | 0x0A => unusedZero (w0.fFn == 0) (.remn w0.fD w0.fA w0.fB)
  | 0x0B => unusedZero (w0.fFn == 0) (.and w0.fD w0.fA w0.fB)
  | 0x0C => unusedZero (w0.fFn == 0) (.or w0.fD w0.fA w0.fB)
  | 0x0D => unusedZero (w0.fFn == 0) (.xor w0.fD w0.fA w0.fB)
  | 0x0E => unusedZero (w0.fFn == 0) (.shl w0.fD w0.fA w0.fB)
  | 0x0F => unusedZero (w0.fFn == 0) (.shr w0.fD w0.fA w0.fB)
  | 0x10 => unusedZero (w0.fFn == 0) (.sar w0.fD w0.fA w0.fB)
  | 0x11 => unusedZero (w0.fFn == 0) (.min w0.fD w0.fA w0.fB)
  | 0x12 => unusedZero (w0.fFn == 0) (.max w0.fD w0.fA w0.fB)
  | 0x13 => unusedZero (w0.fFn == 0) (.minn w0.fD w0.fA w0.fB)
  | 0x14 => unusedZero (w0.fFn == 0) (.maxn w0.fD w0.fA w0.fB)
  | 0x20 => some (.addi w0.fD w0.fA w0.fImm)
  | 0x21 => some (.andi w0.fD w0.fA w0.fImm)
  | 0x22 => some (.ori w0.fD w0.fA w0.fImm)
  | 0x23 => some (.xori w0.fD w0.fA w0.fImm)
  | 0x24 => some (.shli w0.fD w0.fA w0.fImm)
  | 0x25 => some (.shri w0.fD w0.fA w0.fImm)
  | 0x26 => some (.sari w0.fD w0.fA w0.fImm)
  | 0x30 => some (.cmpEq w0.fD w0.fA w0.fB w0.fFn)
  | 0x31 => some (.cmpNe w0.fD w0.fA w0.fB w0.fFn)
  | 0x32 => some (.cmpLt w0.fD w0.fA w0.fB w0.fFn)
  | 0x33 => some (.cmpLtn w0.fD w0.fA w0.fB w0.fFn)
  | 0x34 => some (.cmpGe w0.fD w0.fA w0.fB w0.fFn)
  | 0x35 => some (.cmpGen w0.fD w0.fA w0.fB w0.fFn)
  | 0x36 => some (.cmpi w0.fD w0.fA w0.fImm (LW.ofWord w1))
  | 0x38 => unusedZero (w0.fB == 0 && w0.fFn == 0) (.clz w0.fD w0.fA)
  | 0x39 => unusedZero (w0.fB == 0 && w0.fFn == 0) (.ctz w0.fD w0.fA)
  | 0x3A => unusedZero (w0.fB == 0 && w0.fFn == 0) (.popc w0.fD w0.fA)
  | 0x3B => some (.bset w0.fD w0.fA w0.fImm)
  | 0x3C => some (.bclr w0.fD w0.fA w0.fImm)
  | 0x3D => some (.bext w0.fD w0.fA w0.fImm)
  | 0x3E => some (.bins w0.fD w0.fA w0.fImm)
  | 0x40 => some (.lea w0.fD w0.fA w0.fB w0.fFn (LW.ofWord w1))
  | 0x41 => unusedZero (w0.fA == 0 && w0.fImm == 0) (.li w0.fD w1)
  | 0x42 => unusedZero (w0.fA == 0 && w0.fImm == 0) (.lui w0.fD w1)
  | 0x43 => unusedZero (w0.fB == 0 && w0.fFn == 0) (.mov w0.fD w0.fA)
  | 0x44 => unusedZero (w0.fFn == 0) (.sel w0.fD w0.fA w0.fB (LW.ofWord w1))
  | 0x48 => some (.pbr w0.fD w0.fImm18)
  | 0x49 => unusedZero (w0.fB == 0 && w0.fFn == 0) (.pbrr w0.fD w0.fA)
  | 0x4A => unusedZero (w0.fB == 0) (.brx w0.fD w0.fA w0.fFn)
  | 0x4B => unusedZero (w0.fB == 0) (.brxn w0.fD w0.fA w0.fFn)
  | 0x4C => unusedZero (w0.fA == 0 && w0.fB == 0 && w0.fFn == 0) (.br w0.fD)
  | 0x4D => unusedZero (w0.fA == 0 && w0.fB == 0 && w0.fFn == 0) (.call w0.fD)
  | 0x4E => unusedZero (w0.fD == 0 && w0.fA == 0 && w0.fB == 0 && w0.fFn == 0) (.ret)
  | 0x4F => some (.loop w0.fD w0.fA w0.fImm)
  | 0x50 => unusedZero (w0.fA == 0) (.loopi w0.fD w0.fImm w1)
  | 0x58 => unusedZero (w0.fD == 0 && w0.fB == 0) (.tokSend w0.fA w0.fFn)
  | 0x59 => unusedZero (w0.fA == 0 && w0.fB == 0) (.tokRecv w0.fD w0.fFn)
  | 0x5A => unusedZero (w0.fA == 0 && w0.fB == 0) (.tokPoll w0.fD w0.fFn)
  | 0x60 => unusedZero (w0.fA == 0) (.mfc w0.fD w0.fImm)
  | 0x61 => unusedZero (w0.fD == 0) (.mtc w0.fA w0.fImm)
  | 0x62 => some (.trap w0.fImm24)
  | _ => none

/-- The control core's private MOPs (R37): the words each defined MOP has, none where it is undefined (R23). -/
def mopLengthControl (mop : Nat) : Option Nat :=
  match mop with
  | 0x80 => some 1
  | 0x81 => some 1
  | 0x82 => some 1
  | 0x83 => some 1
  | 0x84 => some 1
  | 0x85 => some 1
  | 0x86 => some 1
  | 0x87 => some 1
  | 0x88 => some 1
  | 0x89 => some 1
  | 0x8A => some 1
  | 0x8B => some 1
  | 0x8C => some 1
  | 0x8D => some 2
  | 0x90 => some 1
  | 0x91 => some 1
  | 0x92 => some 1
  | 0x93 => some 1
  | 0x94 => some 2
  | 0x98 => some 1
  | 0x99 => some 1
  | 0x9A => some 1
  | 0x9B => some 1
  | 0x9C => some 1
  | 0x9D => some 1
  | 0x9E => some 2
  | 0x9F => some 1
  | 0xA0 => some 1
  | 0xA8 => some 1
  | 0xA9 => some 1
  | 0xAA => some 1
  | 0xAB => some 1
  | 0xAC => some 1
  | 0xAD => some 1
  | 0xAE => some 1
  | 0xAF => some 1
  | 0xB0 => some 1
  | 0xB1 => some 1
  | 0xB2 => some 1
  | 0xB3 => some 1
  | 0xB4 => some 1
  | 0xB5 => some 1
  | 0xB6 => some 1
  | 0xB7 => some 1
  | 0xB8 => some 1
  | 0xB9 => some 1
  | 0xBA => some 1
  | 0xC0 => some 2
  | 0xC1 => some 2
  | 0xC2 => some 2
  | 0xC3 => some 2
  | 0xC4 => some 2
  | 0xC5 => some 2
  | 0xC6 => some 2
  | 0xC7 => some 2
  | 0xC8 => some 2
  | 0xC9 => some 2
  | 0xD0 => some 4
  | 0xD1 => some 1
  | 0xD2 => some 1
  | 0xD3 => some 1
  | 0xD4 => some 1
  | 0xD5 => some 1
  | 0xD6 => some 2
  | 0xD8 => some 1
  | 0xD9 => some 1
  | 0xDA => some 1
  | 0xDB => some 1
  | 0xDC => some 1
  | 0xDD => some 1
  | 0xDE => some 1
  | 0xDF => some 1
  | 0xE0 => some 1
  | 0xE1 => some 1
  | 0xE2 => some 1
  | 0xE3 => some 1
  | 0xE4 => some 1
  | 0xE8 => some 1
  | 0xE9 => some 1
  | 0xEA => some 1
  | 0xF0 => some 1
  | 0xF1 => some 1
  | 0xF2 => some 1
  | 0xF3 => some 1
  | 0xF4 => some 1
  | 0xF5 => some 1
  | 0xF6 => some 1
  | 0xF7 => some 1
  | _ => none

/-- The control core's private MOPs (R37): the instruction its words give, none where an unused field is not zero. -/
def decodeControl (mop : Nat) (w0 w1 w2 w3 : Word) : Option Instr :=
  match mop with
  | 0x80 => some (.ldB w0.fD w0.fA w0.fImm)
  | 0x81 => some (.ldBn w0.fD w0.fA w0.fImm)
  | 0x82 => some (.ldH w0.fD w0.fA w0.fImm)
  | 0x83 => some (.ldHn w0.fD w0.fA w0.fImm)
  | 0x84 => some (.ldW w0.fD w0.fA w0.fImm)
  | 0x85 => some (.ldWn w0.fD w0.fA w0.fImm)
  | 0x86 => some (.ldD w0.fD w0.fA w0.fImm)
  | 0x87 => some (.stB w0.fD w0.fA w0.fImm)
  | 0x88 => some (.stH w0.fD w0.fA w0.fImm)
  | 0x89 => some (.stW w0.fD w0.fA w0.fImm)
  | 0x8A => some (.stD w0.fD w0.fA w0.fImm)
  | 0x8B => some (.ldQ w0.fD w0.fA w0.fImm)
  | 0x8C => some (.stQ w0.fD w0.fA w0.fImm)
  | 0x8D => unusedZero (w0.fFn == 0) (.lamo w0.fD w0.fA w0.fB (LW.ofWord w1))
  | 0x90 => some (.hld w0.fD w0.fA w0.fImm)
  | 0x91 => some (.hst w0.fD w0.fA w0.fImm)
  | 0x92 => unusedZero (w0.fB == 0) (.hget w0.fD w0.fA w0.fFn)
  | 0x93 => unusedZero (w0.fB == 0) (.hset w0.fD w0.fA w0.fFn)
  | 0x94 => unusedZero (w0.fD == 0) (.hpatch w0.fA w0.fB w0.fFn (LW.ofWord w1))
  | 0x98 => some (.ldgW w0.fD w0.fA w0.fImm)
  | 0x99 => some (.ldgD w0.fD w0.fA w0.fImm)
  | 0x9A => some (.stgW w0.fD w0.fA w0.fImm)
  | 0x9B => some (.stgD w0.fD w0.fA w0.fImm)
  | 0x9C => unusedZero (w0.fD == 0 && w0.fFn == 0) (.ldl w0.fA w0.fB)
  | 0x9D => unusedZero (w0.fD == 0 && w0.fFn == 0) (.stl w0.fA w0.fB)
  | 0x9E => some (.gamo w0.fD w0.fA w0.fB w0.fFn (LW.ofWord w1))
  | 0x9F => unusedZero (w0.fImm24 == 0) (.mark)
  | 0xA0 => some (.fence w0.fImm24)
  | 0xA8 => unusedZero (w0.fFn == 0) (.tlook w0.fD w0.fA w0.fB)
  | 0xA9 => unusedZero (w0.fFn == 0) (.tfill w0.fD w0.fA w0.fB)
  | 0xAA => unusedZero (w0.fFn == 0) (.tevict w0.fD w0.fA w0.fB)
  | 0xAB => unusedZero (w0.fFn == 0) (.tpin w0.fD w0.fA w0.fB)
  | 0xAC => unusedZero (w0.fFn == 0) (.tunpin w0.fD w0.fA w0.fB)
  | 0xAD => unusedZero (w0.fFn == 0) (.qbind w0.fD w0.fA w0.fB)
  | 0xAE => unusedZero (w0.fB == 0 && w0.fFn == 0) (.qget w0.fD w0.fA)
  | 0xAF => unusedZero (w0.fB == 0 && w0.fFn == 0) (.qrel w0.fD w0.fA)
  | 0xB0 => unusedZero (w0.fFn == 0) (.forkV w0.fD w0.fA w0.fB)
  | 0xB1 => unusedZero (w0.fFn == 0) (.forkA w0.fD w0.fA w0.fB)
  | 0xB2 => unusedZero (w0.fB == 0 && w0.fFn == 0) (.rdv w0.fD w0.fA)
  | 0xB3 => unusedZero (w0.fB == 0 && w0.fFn == 0) (.grpJoin w0.fD w0.fA)
  | 0xB4 => unusedZero (w0.fB == 0 && w0.fFn == 0) (.grpLeave w0.fD w0.fA)
  | 0xB5 => unusedZero (w0.fB == 0 && w0.fFn == 0) (.grpBar w0.fD w0.fA)
  | 0xB6 => unusedZero (w0.fFn == 0) (.grpInfo w0.fD w0.fA w0.fB)
  | 0xB7 => unusedZero (w0.fImm24 == 0) (.yieldStage)
  | 0xB8 => unusedZero (w0.fFn == 0) (.selectSize w0.fD w0.fA w0.fB)
  | 0xB9 => unusedZero (w0.fFn == 0) (.enq w0.fD w0.fA w0.fB)
  | 0xBA => unusedZero (w0.fB == 0 && w0.fFn == 0) (.deq w0.fD w0.fA)
  | 0xC0 => some (.cpy w0.fD w0.fA w0.fB w0.fFn (LW.ofWord w1))
  | 0xC1 => some (.cpyT w0.fD w0.fA w0.fB w0.fFn (LW.ofWord w1))
  | 0xC2 => some (.cpyP w0.fD w0.fA w0.fB w0.fFn (LW.ofWord w1))
  | 0xC3 => some (.cpyQ w0.fD w0.fA w0.fB w0.fFn (LW.ofWord w1))
  | 0xC4 => some (.cpyQT w0.fD w0.fA w0.fB w0.fFn (LW.ofWord w1))
  | 0xC5 => some (.cpyGath w0.fD w0.fA w0.fB w0.fFn (LW.ofWord w1))
  | 0xC6 => some (.cpyPair w0.fD w0.fA w0.fB w0.fFn (LW.ofWord w1))
  | 0xC7 => some (.cpyScale w0.fD w0.fA w0.fB w0.fFn (LW.ofWord w1))
  | 0xC8 => some (.cpyStrm w0.fD w0.fA w0.fB w0.fFn (LW.ofWord w1))
  | 0xC9 => some (.cpyHost w0.fD w0.fA w0.fB w0.fFn (LW.ofWord w1))
  | 0xD0 => some (.mxSet w0.fImm24 w1 w2 w3)
  | 0xD1 => some (.mxGo w0.fD w0.fA w0.fB w0.fFn)
  | 0xD2 => unusedZero (w0.fB == 0 && w0.fFn == 0) (.mxAcq w0.fD w0.fA)
  | 0xD3 => unusedZero (w0.fA == 0 && w0.fB == 0 && w0.fFn == 0) (.mxRel w0.fD)
  | 0xD4 => unusedZero (w0.fFn == 0) (.mxShape w0.fD w0.fA w0.fB)
  | 0xD5 => unusedZero (w0.fA == 0 && w0.fB == 0) (.mxZero w0.fD w0.fFn)
  | 0xD6 => some (.mxOut w0.fD w0.fA w0.fB w0.fFn (LW.ofWord w1))
  | 0xD8 => unusedZero (w0.fB == 0 && w0.fFn == 0) (.flowLoad w0.fD w0.fA)
  | 0xD9 => unusedZero (w0.fFn == 0) (.flowSend w0.fD w0.fA w0.fB)
  | 0xDA => unusedZero (w0.fFn == 0) (.flowRecv w0.fD w0.fA w0.fB)
  | 0xDB => unusedZero (w0.fB == 0 && w0.fFn == 0) (.flowRel w0.fD w0.fA)
  | 0xDC => unusedZero (w0.fB == 0 && w0.fFn == 0) (.flowStat w0.fD w0.fA)
  | 0xDD => unusedZero (w0.fFn == 0) (.msgSend w0.fD w0.fA w0.fB)
  | 0xDE => unusedZero (w0.fFn == 0) (.msgPost w0.fD w0.fA w0.fB)
  | 0xDF => unusedZero (w0.fFn == 0) (.msgProbe w0.fD w0.fA w0.fB)
  | 0xE0 => unusedZero (w0.fImm24 == 0) (.modeFwd)
  | 0xE1 => unusedZero (w0.fImm24 == 0) (.modeRev)
  | 0xE2 => unusedZero (w0.fD == 0 && w0.fFn == 0) (.tapeSet w0.fA w0.fB)
  | 0xE3 => some (.adjLd w0.fD w0.fA w0.fImm)
  | 0xE4 => unusedZero (w0.fD == 0 && w0.fFn == 0) (.adjClr w0.fA w0.fB)
  | 0xE8 => unusedZero (w0.fFn == 0) (.sig w0.fD w0.fA w0.fB)
  | 0xE9 => unusedZero (w0.fFn == 0) (.waitf w0.fD w0.fA w0.fB)
  | 0xEA => unusedZero (w0.fFn == 0) (.estat w0.fD w0.fA w0.fB)
  | 0xF0 => unusedZero (w0.fImm24 == 0) (.tret)
  | 0xF1 => unusedZero (w0.fD == 0 && w0.fB == 0 && w0.fFn == 0) (.csave w0.fA)
  | 0xF2 => unusedZero (w0.fD == 0 && w0.fB == 0 && w0.fFn == 0) (.crest w0.fA)
  | 0xF3 => unusedZero (w0.fD == 0 && w0.fFn == 0) (.tlbInv w0.fA w0.fB)
  | 0xF4 => unusedZero (w0.fD == 0 && w0.fB == 0 && w0.fFn == 0) (.halt w0.fA)
  | 0xF5 => unusedZero (w0.fD == 0 && w0.fB == 0 && w0.fFn == 0) (.sleep w0.fA)
  | 0xF6 => unusedZero (w0.fFn == 0) (.digest w0.fD w0.fA w0.fB)
  | 0xF7 => unusedZero (w0.fFn == 0) (.dchk w0.fD w0.fA w0.fB)
  | _ => none

/-- The vector engine's private MOPs (R38): the words each defined MOP has, none where it is undefined (R23). -/
def mopLengthVector (mop : Nat) : Option Nat :=
  match mop with
  | 0x80 => some 2
  | 0x81 => some 2
  | 0x82 => some 2
  | 0x83 => some 2
  | 0x84 => some 2
  | 0x85 => some 2
  | 0x86 => some 2
  | 0x87 => some 2
  | 0x88 => some 2
  | 0x89 => some 2
  | 0x8A => some 2
  | 0x8B => some 2
  | 0x8C => some 2
  | 0x8D => some 2
  | 0x8E => some 2
  | 0x8F => some 2
  | 0x90 => some 2
  | 0xA0 => some 2
  | 0xA1 => some 2
  | 0xA2 => some 2
  | 0xA3 => some 2
  | 0xA4 => some 2
  | 0xA5 => some 2
  | 0xA6 => some 2
  | 0xA7 => some 2
  | 0xA8 => some 2
  | 0xA9 => some 2
  | 0xAA => some 2
  | 0xAB => some 2
  | 0xAC => some 2
  | 0xAD => some 2
  | 0xAE => some 2
  | 0xB0 => some 2
  | 0xB1 => some 2
  | 0xB2 => some 2
  | 0xC0 => some 2
  | 0xC1 => some 2
  | 0xC2 => some 2
  | 0xD0 => some 2
  | 0xD1 => some 2
  | 0xD2 => some 2
  | 0xD3 => some 2
  | 0xD4 => some 2
  | 0xD5 => some 2
  | 0xD6 => some 2
  | 0xD7 => some 2
  | 0xD8 => some 2
  | 0xD9 => some 2
  | 0xDA => some 2
  | 0xDB => some 2
  | 0xE0 => some 2
  | 0xE1 => some 2
  | 0xE2 => some 2
  | 0xE3 => some 2
  | 0xE4 => some 2
  | 0xE5 => some 2
  | 0xE6 => some 2
  | 0xE8 => some 2
  | 0xE9 => some 2
  | 0xEA => some 2
  | 0xEB => some 2
  | 0xF0 => some 2
  | 0xF1 => some 2
  | 0xF2 => some 2
  | _ => none

/-- The vector engine's private MOPs (R38): the instruction its words give, none where an unused field is not zero. -/
def decodeVector (mop : Nat) (w0 w1 : Word) : Option Instr :=
  match mop with
  | 0x80 => some (.vadd w0.fD w0.fA w0.fB w0.fFn (LW.ofWord w1))
  | 0x81 => some (.vsub w0.fD w0.fA w0.fB w0.fFn (LW.ofWord w1))
  | 0x82 => some (.vmul w0.fD w0.fA w0.fB w0.fFn (LW.ofWord w1))
  | 0x83 => some (.vfma w0.fD w0.fA w0.fB w0.fFn (LW.ofWord w1))
  | 0x84 => some (.vfms w0.fD w0.fA w0.fB w0.fFn (LW.ofWord w1))
  | 0x85 => some (.vfnma w0.fD w0.fA w0.fB w0.fFn (LW.ofWord w1))
  | 0x86 => some (.vdiv w0.fD w0.fA w0.fB w0.fFn (LW.ofWord w1))
  | 0x87 => unusedZero (w0.fB == 0) (.vsqrt w0.fD w0.fA w0.fFn (LW.ofWord w1))
  | 0x88 => some (.vmin w0.fD w0.fA w0.fB w0.fFn (LW.ofWord w1))
  | 0x89 => some (.vmax w0.fD w0.fA w0.fB w0.fFn (LW.ofWord w1))
  | 0x8A => unusedZero (w0.fB == 0) (.vabs w0.fD w0.fA w0.fFn (LW.ofWord w1))
  | 0x8B => unusedZero (w0.fB == 0) (.vneg w0.fD w0.fA w0.fFn (LW.ofWord w1))
  | 0x8C => unusedZero (w0.fB == 0) (.vexp w0.fD w0.fA w0.fFn (LW.ofWord w1))
  | 0x8D => unusedZero (w0.fB == 0) (.vlog w0.fD w0.fA w0.fFn (LW.ofWord w1))
  | 0x8E => unusedZero (w0.fB == 0) (.verf w0.fD w0.fA w0.fFn (LW.ofWord w1))
  | 0x8F => unusedZero (w0.fB == 0) (.vclass w0.fD w0.fA w0.fFn (LW.ofWord w1))
  | 0x90 => some (.vcmp w0.fD w0.fA w0.fB w0.fFn (LW.ofWord w1))
  | 0xA0 => some (.viadd w0.fD w0.fA w0.fB w0.fFn (LW.ofWord w1))
  | 0xA1 => some (.visub w0.fD w0.fA w0.fB w0.fFn (LW.ofWord w1))
  | 0xA2 => some (.vimul w0.fD w0.fA w0.fB w0.fFn (LW.ofWord w1))
  | 0xA3 => some (.vimulh w0.fD w0.fA w0.fB w0.fFn (LW.ofWord w1))
  | 0xA4 => some (.vand w0.fD w0.fA w0.fB w0.fFn (LW.ofWord w1))
  | 0xA5 => some (.vor w0.fD w0.fA w0.fB w0.fFn (LW.ofWord w1))
  | 0xA6 => some (.vxor w0.fD w0.fA w0.fB w0.fFn (LW.ofWord w1))
  | 0xA7 => some (.vshl w0.fD w0.fA w0.fB w0.fFn (LW.ofWord w1))
  | 0xA8 => some (.vshr w0.fD w0.fA w0.fB w0.fFn (LW.ofWord w1))
  | 0xA9 => some (.vsar w0.fD w0.fA w0.fB w0.fFn (LW.ofWord w1))
  | 0xAA => some (.vimin w0.fD w0.fA w0.fB w0.fFn (LW.ofWord w1))
  | 0xAB => some (.vimax w0.fD w0.fA w0.fB w0.fFn (LW.ofWord w1))
  | 0xAC => unusedZero (w0.fB == 0) (.viabs w0.fD w0.fA w0.fFn (LW.ofWord w1))
  | 0xAD => some (.vsadd w0.fD w0.fA w0.fB w0.fFn (LW.ofWord w1))
  | 0xAE => unusedZero (w0.fB == 0) (.vpopc w0.fD w0.fA w0.fFn (LW.ofWord w1))
  | 0xB0 => some (.vsel w0.fD w0.fA w0.fB w0.fFn (LW.ofWord w1))
  | 0xB1 => unusedZero (w0.fB == 0) (.vany w0.fD w0.fA w0.fFn (LW.ofWord w1))
  | 0xB2 => unusedZero (w0.fB == 0) (.vall w0.fD w0.fA w0.fFn (LW.ofWord w1))
  | 0xC0 => some (.vcvt w0.fD w0.fA w0.fB w0.fFn (LW.ofWord w1))
  | 0xC1 => some (.vqmx w0.fD w0.fA w0.fB w0.fFn (LW.ofWord w1))
  | 0xC2 => some (.vdqmx w0.fD w0.fA w0.fB w0.fFn (LW.ofWord w1))
  | 0xD0 => unusedZero (w0.fB == 0) (.vmov w0.fD w0.fA w0.fFn (LW.ofWord w1))
  | 0xD1 => unusedZero (w0.fB == 0) (.vbcast w0.fD w0.fA w0.fFn (LW.ofWord w1))
  | 0xD2 => some (.vslide w0.fD w0.fA w0.fB w0.fFn (LW.ofWord w1))
  | 0xD3 => some (.vperm w0.fD w0.fA w0.fB w0.fFn (LW.ofWord w1))
  | 0xD4 => some (.vshuf w0.fD w0.fA w0.fB w0.fFn (LW.ofWord w1))
  | 0xD5 => unusedZero (w0.fB == 0) (.vtrn w0.fD w0.fA w0.fFn (LW.ofWord w1))
  | 0xD6 => some (.vext w0.fD w0.fA w0.fB w0.fFn (LW.ofWord w1))
  | 0xD7 => some (.vins w0.fD w0.fA w0.fB w0.fFn (LW.ofWord w1))
  | 0xD8 => unusedZero (w0.fB == 0) (.vrsum w0.fD w0.fA w0.fFn (LW.ofWord w1))
  | 0xD9 => unusedZero (w0.fB == 0) (.vrmax w0.fD w0.fA w0.fFn (LW.ofWord w1))
  | 0xDA => unusedZero (w0.fB == 0) (.vrmin w0.fD w0.fA w0.fFn (LW.ofWord w1))
  | 0xDB => unusedZero (w0.fB == 0) (.vrarg w0.fD w0.fA w0.fFn (LW.ofWord w1))
  | 0xE0 => unusedZero (w0.fB == 0) (.vld w0.fD w0.fA w0.fFn (LW.ofWord w1))
  | 0xE1 => unusedZero (w0.fB == 0) (.vst w0.fD w0.fA w0.fFn (LW.ofWord w1))
  | 0xE2 => some (.vldS w0.fD w0.fA w0.fB w0.fFn (LW.ofWord w1))
  | 0xE3 => some (.vstS w0.fD w0.fA w0.fB w0.fFn (LW.ofWord w1))
  | 0xE4 => some (.vldX w0.fD w0.fA w0.fB w0.fFn (LW.ofWord w1))
  | 0xE5 => some (.vstX w0.fD w0.fA w0.fB w0.fFn (LW.ofWord w1))
  | 0xE6 => unusedZero (w0.fB == 0) (.vldq w0.fD w0.fA w0.fFn (LW.ofWord w1))
  | 0xE8 => some (.ardRow w0.fD w0.fA w0.fB w0.fFn (LW.ofWord w1))
  | 0xE9 => some (.ardCol w0.fD w0.fA w0.fB w0.fFn (LW.ofWord w1))
  | 0xEA => some (.awrRow w0.fD w0.fA w0.fB w0.fFn (LW.ofWord w1))
  | 0xEB => some (.awrCol w0.fD w0.fA w0.fB w0.fFn (LW.ofWord w1))
  | 0xF0 => unusedZero (w0.fFn == 0) (.vrng w0.fD w0.fA w0.fB (LW.ofWord w1))
  | 0xF1 => some (.vhash w0.fD w0.fA w0.fB w0.fFn (LW.ofWord w1))
  | 0xF2 => some (.vtopk w0.fD w0.fA w0.fB w0.fFn (LW.ofWord w1))
  | _ => none

/-- The Arcade's private MOPs (R39): the words each defined MOP has, none where it is undefined (R23). -/
def mopLengthArcade (mop : Nat) : Option Nat :=
  match mop with
  | 0x80 => some 4
  | 0x81 => some 4
  | 0x88 => some 1
  | 0x89 => some 1
  | 0x8A => some 2
  | 0x8B => some 1
  | 0x8C => some 1
  | 0x8D => some 1
  | _ => none

/-- The Arcade's private MOPs (R39): the instruction its words give, none where an unused field is not zero. -/
def decodeArcade (mop : Nat) (w0 w1 w2 w3 : Word) : Option Instr :=
  match mop with
  | 0x80 => some (.aspUp w0.fImm24 w1 w2 w3)
  | 0x81 => some (.aspDn w0.fImm24 w1 w2 w3)
  | 0x88 => some (.aspLd w0.fD w0.fA w0.fB w0.fFn)
  | 0x89 => some (.aspSt w0.fD w0.fA w0.fB w0.fFn)
  | 0x8A => some (.aspCvt w0.fD w0.fA w0.fB w0.fFn (LW.ofWord w1))
  | 0x8B => unusedZero (w0.fB == 0 && w0.fFn == 0) (.aspWin w0.fD w0.fA)
  | 0x8C => unusedZero (w0.fD == 0 && w0.fB == 0 && w0.fFn == 0) (.aspSeed w0.fA)
  | 0x8D => unusedZero (w0.fB == 0 && w0.fFn == 0) (.aspClra w0.fD w0.fA)
  | _ => none

/-- MOPs 0x00–0x7F are shared; MOPs 0x00 and 0xFF are illegal in every memory (R22): the length in words that
the MOP fixes in a memory, none where it is undefined there (R23, R40). -/
def mopLength (m : IMem) (mop : Nat) : Option Nat :=
  if mop < 0x80 then mopLengthShared mop else
  match m with
  | .control => mopLengthControl mop
  | .vector  => mopLengthVector mop
  | .arcade  => mopLengthArcade mop

/-- The instruction that four words from its address give, before decode check 6 on its field values. -/
def decodeFields (m : IMem) (w0 w1 w2 w3 : Word) : Option Instr :=
  let mop := w0.fMop.toNat
  if mop < 0x80 then decodeShared mop w0 w1 else
  match m with
  | .control => decodeControl mop w0 w1 w2 w3
  | .vector  => decodeVector mop w0 w1
  | .arcade  => decodeArcade mop w0 w1 w2 w3

/-- Decode checks 4 and 6 of R35 on words. -/
inductive DecodeError where
  /-- The MOP is undefined in this memory, 0x00 or 0xFF (check 4). -/
  | undefinedMop
  /-- Fewer words than the MOP's length (the bytes end). -/
  | tooShort
  /-- A reserved field, a register range, RM, a T bit or a guard field (check 6). -/
  | reservedField
  deriving DecidableEq, Repr

/-- The decoder: total on any list of words, rejecting by name; the words stand from the instruction's first. -/
def decode (m : IMem) (ws : List Word) : Except DecodeError Instr :=
  match ws with
  | [] => .error .tooShort
  | w0 :: rest =>
    match mopLength m w0.fMop.toNat with
    | none => .error .undefinedMop
    | some n =>
      if rest.length + 1 < n then .error .tooShort else
      match decodeFields m w0 (rest.getD 0 0) (rest.getD 1 0) (rest.getD 2 0) with
      | none => .error .reservedField
      | some i => if i.wf then .ok i else .error .reservedField

/-- One 32-bit word of little-endian bytes (R4). -/
def wordOfBytes (b : List Byte) : Word := b.getD 3 0 ++ b.getD 2 0 ++ b.getD 1 0 ++ b.getD 0 0
/-- The four little-endian bytes of a word (R4). -/
def bytesOfWord (w : Word) : List Byte :=
  [w.extractLsb' 0 8, w.extractLsb' 8 8, w.extractLsb' 16 8, w.extractLsb' 24 8]

/-- Little-endian words of a list of bytes, at most `n` of them; missing bytes end the list. -/
def wordsOfBytes : Nat → List Byte → List Word
  | 0, _ => []
  | n + 1, b0 :: b1 :: b2 :: b3 :: r => wordOfBytes [b0, b1, b2, b3] :: wordsOfBytes n r
  | _ + 1, _ => []

/-- The decoder on bytes. -/
def decodeBytes (m : IMem) (bs : List Byte) : Except DecodeError Instr := decode m (wordsOfBytes 4 bs)

/-- The four words an instruction of the table has, its bits numbered as the table numbers them: the first
word in bits 31:0; bits above the ones given are zero. -/
def tableWords (nbits w : Nat) : List Word :=
  let v := w % 2 ^ nbits
  [BitVec.ofNat 32 v, BitVec.ofNat 32 (v / 2 ^ 32), BitVec.ofNat 32 (v / 2 ^ 64), BitVec.ofNat 32 (v / 2 ^ 96)]

/-- Words 1 to 3 of a one-word instruction have no meaning for it. -/
def decodeIn (m : IMem) (ws : List Word) : Option Instr := (decode m ws).toOption

/-- The instruction memory in which the table's bits are read. The table does not name the memory, and the
private MOPs 0x80, 0x81, 0x88–0x8D of the Arcade and 0x80–0xF2 of the vector engine are control-core MOPs too.
DESIGN CHOICE (log entry 2): a 32-bit word with the unused-field zeros of an Arcade row 0x8B–0x8D is read in
the Arcade memory; any other in the control-core memory, and where that refuses it, in the Arcade's and then
in the vector engine's. -/
def tableMem (nbits w : Nat) : IMem :=
  let ws := tableWords nbits w
  let w0 := ws.headD 0
  let mop := w0.fMop.toNat
  if nbits ≤ 32 && (mop == 0x8D || ((mop == 0x8B || mop == 0x8C) && w0.fImm == 0)) && (decodeIn .arcade ws).isSome
  then .arcade
  else if (decodeIn .control ws).isSome then .control
  else if (decodeIn .arcade ws).isSome then .arcade
  else if (decodeIn .vector ws).isSome then .vector
  else .control

/-- The instruction the decoder reads from an instruction whose bits are `w`, numbered as the opcode table
numbers them (the host's probe). -/
def decodeTableWord (nbits w : Nat) : Option Instr := decodeIn (tableMem nbits w) (tableWords nbits w)


/-- The words of an instruction, from the encoding tables (R23, R24, R36–R39); an event has none. -/
def encode (i : Instr) : List Word :=
  match i with
  | .nop => [packD 0x01 0]
  | .add d a b => [packA 0x02 d a b 0]
  | .sub d a b => [packA 0x03 d a b 0]
  | .mul d a b => [packA 0x04 d a b 0]
  | .mulh d a b => [packA 0x05 d a b 0]
  | .mulhn d a b => [packA 0x06 d a b 0]
  | .div d a b => [packA 0x07 d a b 0]
  | .divn d a b => [packA 0x08 d a b 0]
  | .rem d a b => [packA 0x09 d a b 0]
  | .remn d a b => [packA 0x0A d a b 0]
  | .and d a b => [packA 0x0B d a b 0]
  | .or d a b => [packA 0x0C d a b 0]
  | .xor d a b => [packA 0x0D d a b 0]
  | .shl d a b => [packA 0x0E d a b 0]
  | .shr d a b => [packA 0x0F d a b 0]
  | .sar d a b => [packA 0x10 d a b 0]
  | .min d a b => [packA 0x11 d a b 0]
  | .max d a b => [packA 0x12 d a b 0]
  | .minn d a b => [packA 0x13 d a b 0]
  | .maxn d a b => [packA 0x14 d a b 0]
  | .addi d a imm => [packB 0x20 d a imm]
  | .andi d a imm => [packB 0x21 d a imm]
  | .ori d a imm => [packB 0x22 d a imm]
  | .xori d a imm => [packB 0x23 d a imm]
  | .shli d a imm => [packB 0x24 d a imm]
  | .shri d a imm => [packB 0x25 d a imm]
  | .sari d a imm => [packB 0x26 d a imm]
  | .cmpEq d a b fn => [packA 0x30 d a b fn]
  | .cmpNe d a b fn => [packA 0x31 d a b fn]
  | .cmpLt d a b fn => [packA 0x32 d a b fn]
  | .cmpLtn d a b fn => [packA 0x33 d a b fn]
  | .cmpGe d a b fn => [packA 0x34 d a b fn]
  | .cmpGen d a b fn => [packA 0x35 d a b fn]
  | .cmpi d a imm lw => [packB 0x36 d a imm, lw.toWord]
  | .clz d a => [packA 0x38 d a 0 0]
  | .ctz d a => [packA 0x39 d a 0 0]
  | .popc d a => [packA 0x3A d a 0 0]
  | .bset d a imm => [packB 0x3B d a imm]
  | .bclr d a imm => [packB 0x3C d a imm]
  | .bext d a imm => [packB 0x3D d a imm]
  | .bins d a imm => [packB 0x3E d a imm]
  | .lea d a b fn lw => [packA 0x40 d a b fn, lw.toWord]
  | .li d imm32 => [packB 0x41 d 0 0, imm32]
  | .lui d imm32 => [packB 0x42 d 0 0, imm32]
  | .mov d a => [packA 0x43 d a 0 0]
  | .sel d a b lw => [packA 0x44 d a b 0, lw.toWord]
  | .pbr d imm18 => [packC 0x48 d imm18]
  | .pbrr d a => [packA 0x49 d a 0 0]
  | .brx d a fn => [packA 0x4A d a 0 fn]
  | .brxn d a fn => [packA 0x4B d a 0 fn]
  | .br d => [packA 0x4C d 0 0 0]
  | .call d => [packA 0x4D d 0 0 0]
  | .ret => [packA 0x4E 0 0 0 0]
  | .loop d a imm => [packB 0x4F d a imm]
  | .loopi d imm imm32 => [packB 0x50 d 0 imm, imm32]
  | .tokSend a fn => [packA 0x58 0 a 0 fn]
  | .tokRecv d fn => [packA 0x59 d 0 0 fn]
  | .tokPoll d fn => [packA 0x5A d 0 0 fn]
  | .mfc d imm => [packB 0x60 d 0 imm]
  | .mtc a imm => [packB 0x61 0 a imm]
  | .trap imm24 => [packD 0x62 imm24]
  | .ldB d a imm => [packB 0x80 d a imm]
  | .ldBn d a imm => [packB 0x81 d a imm]
  | .ldH d a imm => [packB 0x82 d a imm]
  | .ldHn d a imm => [packB 0x83 d a imm]
  | .ldW d a imm => [packB 0x84 d a imm]
  | .ldWn d a imm => [packB 0x85 d a imm]
  | .ldD d a imm => [packB 0x86 d a imm]
  | .stB d a imm => [packB 0x87 d a imm]
  | .stH d a imm => [packB 0x88 d a imm]
  | .stW d a imm => [packB 0x89 d a imm]
  | .stD d a imm => [packB 0x8A d a imm]
  | .ldQ d a imm => [packB 0x8B d a imm]
  | .stQ d a imm => [packB 0x8C d a imm]
  | .lamo d a b lw => [packA 0x8D d a b 0, lw.toWord]
  | .hld d a imm => [packB 0x90 d a imm]
  | .hst d a imm => [packB 0x91 d a imm]
  | .hget d a fn => [packA 0x92 d a 0 fn]
  | .hset d a fn => [packA 0x93 d a 0 fn]
  | .hpatch a b fn lw => [packA 0x94 0 a b fn, lw.toWord]
  | .tret => [packD 0xF0 0]
  | .selectSize d a b => [packA 0xB8 d a b 0]
  | .forkV d a b => [packA 0xB0 d a b 0]
  | .forkA d a b => [packA 0xB1 d a b 0]
  | .rdv d a => [packA 0xB2 d a 0 0]
  | .enq d a b => [packA 0xB9 d a b 0]
  | .deq d a => [packA 0xBA d a 0 0]
  | .yieldStage => [packD 0xB7 0]
  | .grpJoin d a => [packA 0xB3 d a 0 0]
  | .grpLeave d a => [packA 0xB4 d a 0 0]
  | .grpBar d a => [packA 0xB5 d a 0 0]
  | .grpInfo d a b => [packA 0xB6 d a b 0]
  | .sig d a b => [packA 0xE8 d a b 0]
  | .waitf d a b => [packA 0xE9 d a b 0]
  | .vadd d a b fn lw => [packA 0x80 d a b fn, lw.toWord]
  | .vsub d a b fn lw => [packA 0x81 d a b fn, lw.toWord]
  | .vmul d a b fn lw => [packA 0x82 d a b fn, lw.toWord]
  | .vfma d a b fn lw => [packA 0x83 d a b fn, lw.toWord]
  | .vfms d a b fn lw => [packA 0x84 d a b fn, lw.toWord]
  | .vfnma d a b fn lw => [packA 0x85 d a b fn, lw.toWord]
  | .vdiv d a b fn lw => [packA 0x86 d a b fn, lw.toWord]
  | .vsqrt d a fn lw => [packA 0x87 d a 0 fn, lw.toWord]
  | .vmin d a b fn lw => [packA 0x88 d a b fn, lw.toWord]
  | .vmax d a b fn lw => [packA 0x89 d a b fn, lw.toWord]
  | .vabs d a fn lw => [packA 0x8A d a 0 fn, lw.toWord]
  | .vneg d a fn lw => [packA 0x8B d a 0 fn, lw.toWord]
  | .vexp d a fn lw => [packA 0x8C d a 0 fn, lw.toWord]
  | .vlog d a fn lw => [packA 0x8D d a 0 fn, lw.toWord]
  | .verf d a fn lw => [packA 0x8E d a 0 fn, lw.toWord]
  | .vclass d a fn lw => [packA 0x8F d a 0 fn, lw.toWord]
  | .vcmp d a b fn lw => [packA 0x90 d a b fn, lw.toWord]
  | .viadd d a b fn lw => [packA 0xA0 d a b fn, lw.toWord]
  | .visub d a b fn lw => [packA 0xA1 d a b fn, lw.toWord]
  | .vimul d a b fn lw => [packA 0xA2 d a b fn, lw.toWord]
  | .vimulh d a b fn lw => [packA 0xA3 d a b fn, lw.toWord]
  | .vand d a b fn lw => [packA 0xA4 d a b fn, lw.toWord]
  | .vor d a b fn lw => [packA 0xA5 d a b fn, lw.toWord]
  | .vxor d a b fn lw => [packA 0xA6 d a b fn, lw.toWord]
  | .vshl d a b fn lw => [packA 0xA7 d a b fn, lw.toWord]
  | .vshr d a b fn lw => [packA 0xA8 d a b fn, lw.toWord]
  | .vsar d a b fn lw => [packA 0xA9 d a b fn, lw.toWord]
  | .vimin d a b fn lw => [packA 0xAA d a b fn, lw.toWord]
  | .vimax d a b fn lw => [packA 0xAB d a b fn, lw.toWord]
  | .viabs d a fn lw => [packA 0xAC d a 0 fn, lw.toWord]
  | .vsadd d a b fn lw => [packA 0xAD d a b fn, lw.toWord]
  | .vpopc d a fn lw => [packA 0xAE d a 0 fn, lw.toWord]
  | .vsel d a b fn lw => [packA 0xB0 d a b fn, lw.toWord]
  | .vany d a fn lw => [packA 0xB1 d a 0 fn, lw.toWord]
  | .vall d a fn lw => [packA 0xB2 d a 0 fn, lw.toWord]
  | .vld d a fn lw => [packA 0xE0 d a 0 fn, lw.toWord]
  | .vst d a fn lw => [packA 0xE1 d a 0 fn, lw.toWord]
  | .vldS d a b fn lw => [packA 0xE2 d a b fn, lw.toWord]
  | .vstS d a b fn lw => [packA 0xE3 d a b fn, lw.toWord]
  | .vldX d a b fn lw => [packA 0xE4 d a b fn, lw.toWord]
  | .vstX d a b fn lw => [packA 0xE5 d a b fn, lw.toWord]
  | .vldq d a fn lw => [packA 0xE6 d a 0 fn, lw.toWord]
  | .vmov d a fn lw => [packA 0xD0 d a 0 fn, lw.toWord]
  | .vbcast d a fn lw => [packA 0xD1 d a 0 fn, lw.toWord]
  | .vslide d a b fn lw => [packA 0xD2 d a b fn, lw.toWord]
  | .vperm d a b fn lw => [packA 0xD3 d a b fn, lw.toWord]
  | .vshuf d a b fn lw => [packA 0xD4 d a b fn, lw.toWord]
  | .vtrn d a fn lw => [packA 0xD5 d a 0 fn, lw.toWord]
  | .vext d a b fn lw => [packA 0xD6 d a b fn, lw.toWord]
  | .vins d a b fn lw => [packA 0xD7 d a b fn, lw.toWord]
  | .vcvt d a b fn lw => [packA 0xC0 d a b fn, lw.toWord]
  | .vqmx d a b fn lw => [packA 0xC1 d a b fn, lw.toWord]
  | .vdqmx d a b fn lw => [packA 0xC2 d a b fn, lw.toWord]
  | .vrsum d a fn lw => [packA 0xD8 d a 0 fn, lw.toWord]
  | .vrmax d a fn lw => [packA 0xD9 d a 0 fn, lw.toWord]
  | .vrmin d a fn lw => [packA 0xDA d a 0 fn, lw.toWord]
  | .vrarg d a fn lw => [packA 0xDB d a 0 fn, lw.toWord]
  | .vtopk d a b fn lw => [packA 0xF2 d a b fn, lw.toWord]
  | .vrng d a b lw => [packA 0xF0 d a b 0, lw.toWord]
  | .vhash d a b fn lw => [packA 0xF1 d a b fn, lw.toWord]
  | .ardRow d a b fn lw => [packA 0xE8 d a b fn, lw.toWord]
  | .ardCol d a b fn lw => [packA 0xE9 d a b fn, lw.toWord]
  | .awrRow d a b fn lw => [packA 0xEA d a b fn, lw.toWord]
  | .awrCol d a b fn lw => [packA 0xEB d a b fn, lw.toWord]
  | .tlook d a b => [packA 0xA8 d a b 0]
  | .tfill d a b => [packA 0xA9 d a b 0]
  | .tevict d a b => [packA 0xAA d a b 0]
  | .tpin d a b => [packA 0xAB d a b 0]
  | .tunpin d a b => [packA 0xAC d a b 0]
  | .qbind d a b => [packA 0xAD d a b 0]
  | .qget d a => [packA 0xAE d a 0 0]
  | .qrel d a => [packA 0xAF d a 0 0]
  | .ldgW d a imm => [packB 0x98 d a imm]
  | .ldgD d a imm => [packB 0x99 d a imm]
  | .stgW d a imm => [packB 0x9A d a imm]
  | .stgD d a imm => [packB 0x9B d a imm]
  | .ldl a b => [packA 0x9C 0 a b 0]
  | .stl a b => [packA 0x9D 0 a b 0]
  | .gamo d a b fn lw => [packA 0x9E d a b fn, lw.toWord]
  | .mark => [packD 0x9F 0]
  | .fence imm24 => [packD 0xA0 imm24]
  | .cpy d a b fn lw => [packA 0xC0 d a b fn, lw.toWord]
  | .cpyT d a b fn lw => [packA 0xC1 d a b fn, lw.toWord]
  | .cpyP d a b fn lw => [packA 0xC2 d a b fn, lw.toWord]
  | .cpyQ d a b fn lw => [packA 0xC3 d a b fn, lw.toWord]
  | .cpyQT d a b fn lw => [packA 0xC4 d a b fn, lw.toWord]
  | .cpyGath d a b fn lw => [packA 0xC5 d a b fn, lw.toWord]
  | .cpyPair d a b fn lw => [packA 0xC6 d a b fn, lw.toWord]
  | .cpyScale d a b fn lw => [packA 0xC7 d a b fn, lw.toWord]
  | .cpyStrm d a b fn lw => [packA 0xC8 d a b fn, lw.toWord]
  | .cpyHost d a b fn lw => [packA 0xC9 d a b fn, lw.toWord]
  | .mxSet e w1 w2 w3 => [packD 0xD0 e, w1, w2, w3]
  | .mxGo d a b fn => [packA 0xD1 d a b fn]
  | .mxAcq d a => [packA 0xD2 d a 0 0]
  | .mxRel d => [packA 0xD3 d 0 0 0]
  | .mxShape d a b => [packA 0xD4 d a b 0]
  | .mxZero d fn => [packA 0xD5 d 0 0 fn]
  | .mxOut d a b fn lw => [packA 0xD6 d a b fn, lw.toWord]
  | .aspUp e w1 w2 w3 => [packD 0x80 e, w1, w2, w3]
  | .aspDn e w1 w2 w3 => [packD 0x81 e, w1, w2, w3]
  | .aspLd d a b fn => [packA 0x88 d a b fn]
  | .aspSt d a b fn => [packA 0x89 d a b fn]
  | .aspCvt d a b fn lw => [packA 0x8A d a b fn, lw.toWord]
  | .aspWin d a => [packA 0x8B d a 0 0]
  | .aspSeed a => [packA 0x8C 0 a 0 0]
  | .aspClra d a => [packA 0x8D d a 0 0]
  | .flowLoad d a => [packA 0xD8 d a 0 0]
  | .flowSend d a b => [packA 0xD9 d a b 0]
  | .flowRecv d a b => [packA 0xDA d a b 0]
  | .flowRel d a => [packA 0xDB d a 0 0]
  | .flowStat d a => [packA 0xDC d a 0 0]
  | .msgSend d a b => [packA 0xDD d a b 0]
  | .msgPost d a b => [packA 0xDE d a b 0]
  | .msgProbe d a b => [packA 0xDF d a b 0]
  | .digest d a b => [packA 0xF6 d a b 0]
  | .dchk d a b => [packA 0xF7 d a b 0]
  | .modeFwd => [packD 0xE0 0]
  | .modeRev => [packD 0xE1 0]
  | .tapeSet a b => [packA 0xE2 0 a b 0]
  | .adjLd d a imm => [packB 0xE3 d a imm]
  | .adjClr a b => [packA 0xE4 0 a b 0]
  | .estat d a b => [packA 0xEA d a b 0]
  | .csave a => [packA 0xF1 0 a 0 0]
  | .crest a => [packA 0xF2 0 a 0 0]
  | .tlbInv a b => [packA 0xF3 0 a b 0]
  | .halt a => [packA 0xF4 0 a 0 0]
  | .sleep a => [packA 0xF5 0 a 0 0]
  | .undefinedMop _ _ _ => []
  | .tokenDelivery => []
  | .trapEntry => []
  | .launchTake => []
  | .programEnd => []
  | .issueSelect => []
  | .vectorIssueSelect => []
  | .commandStart => []
  | .sigComplete => []
  | .vectorResultWrite => []
  | .vectorLongResult => []
  | .vectorTrap => []
  | .qgetFill => []
  | .streamUnitWrite => []
  | .loadPerform => []
  | .storePerform => []
  | .gamoPerform => []
  | .ldlLineWrite => []
  | .adjCellPerform => []
  | .translationEvict => []
  | .copyBlock => []
  | .commandRetire => []
  | .commandFail => []
  | .tileAutoRelease => []
  | .matrixStep => []
  | .mxOutRow => []
  | .arcadeResultsLand => []
  | .arcadeTrap => []
  | .flowAutoRemove => []
  | .chunkInject => []
  | .flowPacketArrive => []
  | .flowCreditArrive => []
  | .deliveryWrite => []
  | .completionRecordWrite => []
  | .messageRequestArrive => []
  | .receivePost => []
  | .goArrive => []
  | .nackArrive => []
  | .digestLands => []
  | .asyncCauseTaken => []
  | .timer => []
  | .timeSliceSwitch => []
  | .sleepTimeout => []
  | .holdCountExpiry => []
  | .waitRelease => []
  | .uncorrectableError => []
  | .scrub => []
  | .hello => []
  | .launch => []
  | .setasid => []
  | .preempt => []
  | .restore => []
  | .mailboxReply => []
  | .eventPost => []
  | .eqtailWrite => []
  | .registerWrite => []
  | .hostWindowRead => []
  | .hostWindowWrite => []
  | .recoveryWindowWrite => []
  | .warmReset => []
  | .coldReset => []
  | .firmwareUpdate => []
  | .attestationRequest => []
  | .deviceIdSet => []
  | .powerCapSet => []
  | .powerCapThrottle => []
  | .thermalThrottle => []
  | .thermalShutdown => []
  | .portTrain => []
  | .flitCrcError => []
  | .portDown => []
  | .removalNoticeArrive => []
  | .aspLdFill => []
  | .monitorPreemptRequest => []
  | .hostLinkTrain => []

/-- The instruction memories that hold an instruction word: the shared subset in all three (R22). -/
def inMem (m : IMem) (i : Instr) : Bool :=
  match i with
  | .nop => true
  | .add _ _ _ => true
  | .sub _ _ _ => true
  | .mul _ _ _ => true
  | .mulh _ _ _ => true
  | .mulhn _ _ _ => true
  | .div _ _ _ => true
  | .divn _ _ _ => true
  | .rem _ _ _ => true
  | .remn _ _ _ => true
  | .and _ _ _ => true
  | .or _ _ _ => true
  | .xor _ _ _ => true
  | .shl _ _ _ => true
  | .shr _ _ _ => true
  | .sar _ _ _ => true
  | .min _ _ _ => true
  | .max _ _ _ => true
  | .minn _ _ _ => true
  | .maxn _ _ _ => true
  | .addi _ _ _ => true
  | .andi _ _ _ => true
  | .ori _ _ _ => true
  | .xori _ _ _ => true
  | .shli _ _ _ => true
  | .shri _ _ _ => true
  | .sari _ _ _ => true
  | .cmpEq _ _ _ _ => true
  | .cmpNe _ _ _ _ => true
  | .cmpLt _ _ _ _ => true
  | .cmpLtn _ _ _ _ => true
  | .cmpGe _ _ _ _ => true
  | .cmpGen _ _ _ _ => true
  | .cmpi _ _ _ _ => true
  | .clz _ _ => true
  | .ctz _ _ => true
  | .popc _ _ => true
  | .bset _ _ _ => true
  | .bclr _ _ _ => true
  | .bext _ _ _ => true
  | .bins _ _ _ => true
  | .lea _ _ _ _ _ => true
  | .li _ _ => true
  | .lui _ _ => true
  | .mov _ _ => true
  | .sel _ _ _ _ => true
  | .pbr _ _ => true
  | .pbrr _ _ => true
  | .brx _ _ _ => true
  | .brxn _ _ _ => true
  | .br _ => true
  | .call _ => true
  | .ret => true
  | .loop _ _ _ => true
  | .loopi _ _ _ => true
  | .tokSend _ _ => true
  | .tokRecv _ _ => true
  | .tokPoll _ _ => true
  | .mfc _ _ => true
  | .mtc _ _ => true
  | .trap _ => true
  | .ldB _ _ _ => m == .control
  | .ldBn _ _ _ => m == .control
  | .ldH _ _ _ => m == .control
  | .ldHn _ _ _ => m == .control
  | .ldW _ _ _ => m == .control
  | .ldWn _ _ _ => m == .control
  | .ldD _ _ _ => m == .control
  | .stB _ _ _ => m == .control
  | .stH _ _ _ => m == .control
  | .stW _ _ _ => m == .control
  | .stD _ _ _ => m == .control
  | .ldQ _ _ _ => m == .control
  | .stQ _ _ _ => m == .control
  | .lamo _ _ _ _ => m == .control
  | .hld _ _ _ => m == .control
  | .hst _ _ _ => m == .control
  | .hget _ _ _ => m == .control
  | .hset _ _ _ => m == .control
  | .hpatch _ _ _ _ => m == .control
  | .tret => m == .control
  | .selectSize _ _ _ => m == .control
  | .forkV _ _ _ => m == .control
  | .forkA _ _ _ => m == .control
  | .rdv _ _ => m == .control
  | .enq _ _ _ => m == .control
  | .deq _ _ => m == .control
  | .yieldStage => m == .control
  | .grpJoin _ _ => m == .control
  | .grpLeave _ _ => m == .control
  | .grpBar _ _ => m == .control
  | .grpInfo _ _ _ => m == .control
  | .sig _ _ _ => m == .control
  | .waitf _ _ _ => m == .control
  | .vadd _ _ _ _ _ => m == .vector
  | .vsub _ _ _ _ _ => m == .vector
  | .vmul _ _ _ _ _ => m == .vector
  | .vfma _ _ _ _ _ => m == .vector
  | .vfms _ _ _ _ _ => m == .vector
  | .vfnma _ _ _ _ _ => m == .vector
  | .vdiv _ _ _ _ _ => m == .vector
  | .vsqrt _ _ _ _ => m == .vector
  | .vmin _ _ _ _ _ => m == .vector
  | .vmax _ _ _ _ _ => m == .vector
  | .vabs _ _ _ _ => m == .vector
  | .vneg _ _ _ _ => m == .vector
  | .vexp _ _ _ _ => m == .vector
  | .vlog _ _ _ _ => m == .vector
  | .verf _ _ _ _ => m == .vector
  | .vclass _ _ _ _ => m == .vector
  | .vcmp _ _ _ _ _ => m == .vector
  | .viadd _ _ _ _ _ => m == .vector
  | .visub _ _ _ _ _ => m == .vector
  | .vimul _ _ _ _ _ => m == .vector
  | .vimulh _ _ _ _ _ => m == .vector
  | .vand _ _ _ _ _ => m == .vector
  | .vor _ _ _ _ _ => m == .vector
  | .vxor _ _ _ _ _ => m == .vector
  | .vshl _ _ _ _ _ => m == .vector
  | .vshr _ _ _ _ _ => m == .vector
  | .vsar _ _ _ _ _ => m == .vector
  | .vimin _ _ _ _ _ => m == .vector
  | .vimax _ _ _ _ _ => m == .vector
  | .viabs _ _ _ _ => m == .vector
  | .vsadd _ _ _ _ _ => m == .vector
  | .vpopc _ _ _ _ => m == .vector
  | .vsel _ _ _ _ _ => m == .vector
  | .vany _ _ _ _ => m == .vector
  | .vall _ _ _ _ => m == .vector
  | .vld _ _ _ _ => m == .vector
  | .vst _ _ _ _ => m == .vector
  | .vldS _ _ _ _ _ => m == .vector
  | .vstS _ _ _ _ _ => m == .vector
  | .vldX _ _ _ _ _ => m == .vector
  | .vstX _ _ _ _ _ => m == .vector
  | .vldq _ _ _ _ => m == .vector
  | .vmov _ _ _ _ => m == .vector
  | .vbcast _ _ _ _ => m == .vector
  | .vslide _ _ _ _ _ => m == .vector
  | .vperm _ _ _ _ _ => m == .vector
  | .vshuf _ _ _ _ _ => m == .vector
  | .vtrn _ _ _ _ => m == .vector
  | .vext _ _ _ _ _ => m == .vector
  | .vins _ _ _ _ _ => m == .vector
  | .vcvt _ _ _ _ _ => m == .vector
  | .vqmx _ _ _ _ _ => m == .vector
  | .vdqmx _ _ _ _ _ => m == .vector
  | .vrsum _ _ _ _ => m == .vector
  | .vrmax _ _ _ _ => m == .vector
  | .vrmin _ _ _ _ => m == .vector
  | .vrarg _ _ _ _ => m == .vector
  | .vtopk _ _ _ _ _ => m == .vector
  | .vrng _ _ _ _ => m == .vector
  | .vhash _ _ _ _ _ => m == .vector
  | .ardRow _ _ _ _ _ => m == .vector
  | .ardCol _ _ _ _ _ => m == .vector
  | .awrRow _ _ _ _ _ => m == .vector
  | .awrCol _ _ _ _ _ => m == .vector
  | .tlook _ _ _ => m == .control
  | .tfill _ _ _ => m == .control
  | .tevict _ _ _ => m == .control
  | .tpin _ _ _ => m == .control
  | .tunpin _ _ _ => m == .control
  | .qbind _ _ _ => m == .control
  | .qget _ _ => m == .control
  | .qrel _ _ => m == .control
  | .ldgW _ _ _ => m == .control
  | .ldgD _ _ _ => m == .control
  | .stgW _ _ _ => m == .control
  | .stgD _ _ _ => m == .control
  | .ldl _ _ => m == .control
  | .stl _ _ => m == .control
  | .gamo _ _ _ _ _ => m == .control
  | .mark => m == .control
  | .fence _ => m == .control
  | .cpy _ _ _ _ _ => m == .control
  | .cpyT _ _ _ _ _ => m == .control
  | .cpyP _ _ _ _ _ => m == .control
  | .cpyQ _ _ _ _ _ => m == .control
  | .cpyQT _ _ _ _ _ => m == .control
  | .cpyGath _ _ _ _ _ => m == .control
  | .cpyPair _ _ _ _ _ => m == .control
  | .cpyScale _ _ _ _ _ => m == .control
  | .cpyStrm _ _ _ _ _ => m == .control
  | .cpyHost _ _ _ _ _ => m == .control
  | .mxSet _ _ _ _ => m == .control
  | .mxGo _ _ _ _ => m == .control
  | .mxAcq _ _ => m == .control
  | .mxRel _ => m == .control
  | .mxShape _ _ _ => m == .control
  | .mxZero _ _ => m == .control
  | .mxOut _ _ _ _ _ => m == .control
  | .aspUp _ _ _ _ => m == .arcade
  | .aspDn _ _ _ _ => m == .arcade
  | .aspLd _ _ _ _ => m == .arcade
  | .aspSt _ _ _ _ => m == .arcade
  | .aspCvt _ _ _ _ _ => m == .arcade
  | .aspWin _ _ => m == .arcade
  | .aspSeed _ => m == .arcade
  | .aspClra _ _ => m == .arcade
  | .flowLoad _ _ => m == .control
  | .flowSend _ _ _ => m == .control
  | .flowRecv _ _ _ => m == .control
  | .flowRel _ _ => m == .control
  | .flowStat _ _ => m == .control
  | .msgSend _ _ _ => m == .control
  | .msgPost _ _ _ => m == .control
  | .msgProbe _ _ _ => m == .control
  | .digest _ _ _ => m == .control
  | .dchk _ _ _ => m == .control
  | .modeFwd => m == .control
  | .modeRev => m == .control
  | .tapeSet _ _ => m == .control
  | .adjLd _ _ _ => m == .control
  | .adjClr _ _ => m == .control
  | .estat _ _ _ => m == .control
  | .csave _ => m == .control
  | .crest _ => m == .control
  | .tlbInv _ _ => m == .control
  | .halt _ => m == .control
  | .sleep _ => m == .control
  | .undefinedMop _ _ _ => false
  | .tokenDelivery => false
  | .trapEntry => false
  | .launchTake => false
  | .programEnd => false
  | .issueSelect => false
  | .vectorIssueSelect => false
  | .commandStart => false
  | .sigComplete => false
  | .vectorResultWrite => false
  | .vectorLongResult => false
  | .vectorTrap => false
  | .qgetFill => false
  | .streamUnitWrite => false
  | .loadPerform => false
  | .storePerform => false
  | .gamoPerform => false
  | .ldlLineWrite => false
  | .adjCellPerform => false
  | .translationEvict => false
  | .copyBlock => false
  | .commandRetire => false
  | .commandFail => false
  | .tileAutoRelease => false
  | .matrixStep => false
  | .mxOutRow => false
  | .arcadeResultsLand => false
  | .arcadeTrap => false
  | .flowAutoRemove => false
  | .chunkInject => false
  | .flowPacketArrive => false
  | .flowCreditArrive => false
  | .deliveryWrite => false
  | .completionRecordWrite => false
  | .messageRequestArrive => false
  | .receivePost => false
  | .goArrive => false
  | .nackArrive => false
  | .digestLands => false
  | .asyncCauseTaken => false
  | .timer => false
  | .timeSliceSwitch => false
  | .sleepTimeout => false
  | .holdCountExpiry => false
  | .waitRelease => false
  | .uncorrectableError => false
  | .scrub => false
  | .hello => false
  | .launch => false
  | .setasid => false
  | .preempt => false
  | .restore => false
  | .mailboxReply => false
  | .eventPost => false
  | .eqtailWrite => false
  | .registerWrite => false
  | .hostWindowRead => false
  | .hostWindowWrite => false
  | .recoveryWindowWrite => false
  | .warmReset => false
  | .coldReset => false
  | .firmwareUpdate => false
  | .attestationRequest => false
  | .deviceIdSet => false
  | .powerCapSet => false
  | .powerCapThrottle => false
  | .thermalThrottle => false
  | .thermalShutdown => false
  | .portTrain => false
  | .flitCrcError => false
  | .portDown => false
  | .removalNoticeArrive => false
  | .aspLdFill => false
  | .monitorPreemptRequest => false
  | .hostLinkTrain => false

end Sys2Proof
end

