-- ==== Sys2Proof/Machine/Flags.lean ====
section
/-! DEFINITION. The sticky flags of `fsr` (R18) as a byte, the rounding modes of R26, and the flag computations
that instructions share: the union of flags, the enabled flags of `fte` and the 64-bit registers' layout. -/

namespace Sys2Proof

/-- Bits 7:0 of `fsr`: PUF AOV SAT NX UF OF DZ NV from bit 7 to bit 0 (R18). -/
abbrev Flags := BitVec 8

def Flags.none : Flags := 0
/-- Invalid operation, bit 0. -/
def Flags.nv : Flags := 0x01
/-- Division by zero, bit 1. -/
def Flags.dz : Flags := 0x02
/-- Overflow, bit 2. -/
def Flags.of : Flags := 0x04
/-- Underflow, bit 3. -/
def Flags.uf : Flags := 0x08
/-- Inexact, bit 4. -/
def Flags.nx : Flags := 0x10
/-- Saturation, bit 5. -/
def Flags.sat : Flags := 0x20
/-- FX64 adjoint overflow, bit 6. -/
def Flags.aov : Flags := 0x40
/-- SP32 underflow to zero, bit 7. -/
def Flags.puf : Flags := 0x80

/-- The flag when the condition holds. -/
def Flags.when (c : Bool) (f : Flags) : Flags := if c then f else 0

/-- The five rounding modes (R26). -/
inductive Rm where
  | rne | rtz | rdn | rup | rna
  deriving DecidableEq, Repr

/-- A mode field other than DYN; the reserved values never reach execution (R26). -/
def Rm.ofField (f : BitVec 3) : Rm :=
  match f.toNat with
  | 1 => .rtz | 2 => .rdn | 3 => .rup | 4 => .rna | _ => .rne

/-- RM with DYN replaced by `frm` (R26, R144). -/
def Rm.resolve (rm frm : BitVec 3) : Rm := if rm = 7 then Rm.ofField frm else Rm.ofField rm

/-- The flags of `f` that `fte` enables (R146, R165). -/
def Flags.enabled (f : Flags) (fte : DWord) : Flags := f &&& fte.setWidth 8

/-- `fsr` with flags ORed in (R18). -/
def Flags.orInto (f : Flags) (fsr : DWord) : DWord := fsr ||| f.setWidth 64

end Sys2Proof
end

