-- ==== Sys2Proof/Machine/Num.lean ====
section
/-! DEFINITION. Number formats, rounding, conversions, MX blocks, WA640, SP32, FX64, the canonical pairwise
order and the tie hash (R137–R157). Values are exact: an integer times a power of two, with a mark for a
remainder that does not reach the next integer. -/

namespace Sys2Proof

/-- An exact magnitude with a sign: `n × 2^e`, and more than that but less than `(n + 1) × 2^e` when `sticky`
(a remainder of a division, a root or a series that no bit of `n` shows). -/
structure Exact where
  neg    : Bool
  n      : Nat
  e      : Int
  sticky : Bool := false
  deriving DecidableEq, Repr

/-- What a source element is, as R138–R143 read it. -/
inductive Val where
  | nan (signalling : Bool)
  | inf (neg : Bool)
  | fin (x : Exact)
  deriving DecidableEq, Repr

def Val.isNan : Val → Bool
  | .nan _ => true
  | _ => false
def Val.neg : Val → Val
  | .nan sg => .nan sg
  | .inf n => .inf (!n)
  | .fin x => .fin { x with neg := !x.neg }

/-- The exact zero of a sign. -/
def Exact.zero (neg : Bool) : Exact := ⟨neg, 0, 0, false⟩
def Exact.isZero (x : Exact) : Bool := x.n == 0 && !x.sticky

/-- `2^k` for an integer exponent known not to be negative. -/
def pow2 (k : Int) : Nat := 2 ^ k.toNat

/-- Two exact values brought to one exponent: their signed integers and the exponent. -/
def Exact.align (x y : Exact) : Int × Int × Int :=
  let e := min x.e y.e
  let ix : Int := (x.n * pow2 (x.e - e) : Nat)
  let iy : Int := (y.n * pow2 (y.e - e) : Nat)
  ((if x.neg then -ix else ix), (if y.neg then -iy else iy), e)

/-- An exact value of a signed integer times `2^e`; zero takes the sign given. -/
def Exact.ofInt (i : Int) (e : Int) (zeroNeg : Bool := false) : Exact :=
  if i = 0 then ⟨zeroNeg, 0, e, false⟩ else ⟨decide (i < 0), i.natAbs, e, false⟩

/-- The exact sum; an exact zero of opposite signs takes `zeroNeg` (R170). A sum of like-signed zeros keeps their sign, in a fused form too, as
R170's IEEE 754 and R315 have it (DEDUCED, log entry 77). -/
def Exact.add (x y : Exact) (zeroNeg : Bool) : Exact :=
  let (i, j, e) := Exact.align x y
  Exact.ofInt (i + j) e (if x.neg == y.neg then x.neg else zeroNeg)

/-- The exact product. -/
def Exact.mul (x y : Exact) : Exact := ⟨xor x.neg y.neg, x.n * y.n, x.e + y.e, false⟩

/-- Compare exact values: less, equal, greater; the two zeros are equal. -/
def Exact.cmp (x y : Exact) : Ordering :=
  let (i, j, _) := Exact.align x y
  compare i j

/-- floor(log2) of a magnitude that is not zero. -/
def Exact.log2 (x : Exact) : Int := (Nat.log2 x.n : Int) + x.e

/-- `round_int` of R144 on a magnitude `lo` whose fraction lies below, at or above one half. -/
def roundInt (rm : Rm) (neg : Bool) (lo : Nat) (inexact : Bool) (half : Ordering) : Nat :=
  if !inexact then lo else
  match rm with
  | .rne => match half with
            | .lt => lo
            | .gt => lo + 1
            | .eq => if lo % 2 = 0 then lo else lo + 1
  | .rna => if half = .lt then lo else lo + 1
  | .rtz => lo
  | .rdn => if neg then lo + 1 else lo
  | .rup => if neg then lo else lo + 1

/-- `x × 2^sh` as an integer part, whether a fraction remains, and how it compares with one half. -/
def Exact.scaled (x : Exact) (sh : Int) : Nat × Bool × Ordering :=
  let t := x.e + sh
  if 0 ≤ t then (x.n * pow2 t, x.sticky, .lt)
  else
    let k := (-t).toNat
    let lo := x.n / 2 ^ k
    let r := x.n % 2 ^ k
    let half := 2 ^ (k - 1)
    (lo, r != 0 || x.sticky,
      if r < half then .lt else if half < r then .gt else if x.sticky then .gt else .eq)

/-- A floating-point format (R139): exponent and mantissa bits, bias, the largest finite value as a
`p`-bit integer and its exponent, and whether it has infinities and NaNs. -/
structure FpFmt where
  ebits  : Nat
  mbits  : Nat
  bias   : Nat
  emax   : Int
  nmax   : Nat
  hasInf : Bool
  hasNan : Bool
  deriving DecidableEq, Repr

/-- The floating-point formats of R139 by format code; none for any other code. -/
def FpFmt.of (code : Nat) : Option FpFmt :=
  match code with
  | 0x08 => some ⟨11, 52, 1023, 1023, 2 ^ 53 - 1, true, true⟩
  | 0x09 => some ⟨8, 23, 127, 127, 2 ^ 24 - 1, true, true⟩
  | 0x0A => some ⟨5, 10, 15, 15, 2 ^ 11 - 1, true, true⟩
  | 0x0B => some ⟨8, 7, 127, 127, 2 ^ 8 - 1, true, true⟩
  | 0x0C => some ⟨4, 3, 7, 8, 14, false, true⟩
  | 0x0D => some ⟨5, 2, 15, 15, 7, true, true⟩
  | 0x0E => some ⟨3, 2, 3, 4, 7, false, false⟩
  | 0x0F => some ⟨2, 3, 1, 2, 15, false, false⟩
  | 0x10 => some ⟨2, 1, 1, 2, 3, false, false⟩
  | _ => none

def FpFmt.fp32 : FpFmt := ⟨8, 23, 127, 127, 2 ^ 24 - 1, true, true⟩
def FpFmt.fp64 : FpFmt := ⟨11, 52, 1023, 1023, 2 ^ 53 - 1, true, true⟩
def FpFmt.bf16 : FpFmt := ⟨8, 7, 127, 127, 2 ^ 8 - 1, true, true⟩
/-- The format of a code known to be floating-point; FP32 stands for any other. -/
def FpFmt.get (code : Nat) : FpFmt := (FpFmt.of code).getD FpFmt.fp32

def FpFmt.width (f : FpFmt) : Nat := f.ebits + f.mbits + 1
/-- Significand bits with the hidden bit. -/
def FpFmt.p (f : FpFmt) : Nat := f.mbits + 1
def FpFmt.emin (f : FpFmt) : Int := 1 - f.bias
/-- A pattern of sign, exponent field and mantissa field. -/
def FpFmt.pack (f : FpFmt) (neg : Bool) (field mant : Nat) : Nat :=
  bit neg * 2 ^ (f.ebits + f.mbits) + field * 2 ^ f.mbits + mant
/-- The infinity of a sign. -/
def FpFmt.infBits (f : FpFmt) (neg : Bool) : Nat := f.pack neg (2 ^ f.ebits - 1) 0
/-- The canonical NaN of a format with NaNs (R140); E4M3's only NaN. -/
def FpFmt.nanBits (f : FpFmt) : Nat :=
  if f.hasInf then f.pack false (2 ^ f.ebits - 1) (2 ^ (f.mbits - 1))
  else f.pack false (2 ^ f.ebits - 1) (2 ^ f.mbits - 1)
/-- The largest finite value of a sign. -/
def FpFmt.maxBits (f : FpFmt) (neg : Bool) : Nat :=
  f.pack neg (f.emax + f.bias).toNat (f.nmax - 2 ^ f.mbits)
def FpFmt.signBit (f : FpFmt) (x : Nat) : Bool := x / 2 ^ (f.ebits + f.mbits) % 2 == 1
def FpFmt.expField (f : FpFmt) (x : Nat) : Nat := x / 2 ^ f.mbits % 2 ^ f.ebits
def FpFmt.mantField (f : FpFmt) (x : Nat) : Nat := x % 2 ^ f.mbits

/-- Decode a pattern (R139, R140): the bits above the format's width are ignored. -/
def FpFmt.decode (f : FpFmt) (x : Nat) : Val :=
  let neg := f.signBit x
  let fld := f.expField x
  let m := f.mantField x
  if f.hasInf && fld == 2 ^ f.ebits - 1 then
    if m == 0 then .inf neg else .nan (m / 2 ^ (f.mbits - 1) == 0)
  else if f.hasNan && !f.hasInf && fld == 2 ^ f.ebits - 1 && m == 2 ^ f.mbits - 1 then .nan false
  else if fld == 0 then .fin ⟨neg, m, f.emin - f.mbits, false⟩
  else .fin ⟨neg, m + 2 ^ f.mbits, (fld : Int) - f.bias - f.mbits, false⟩

/-- `overflow(fmt, s, rm)` of R145, with its flags. -/
def FpFmt.overflow (f : FpFmt) (neg : Bool) (rm : Rm) : Nat × Flags :=
  if f.hasInf then
    let toInf := match rm with
      | .rne | .rna => true
      | .rtz => false
      | .rdn => neg
      | .rup => !neg
    (if toInf then f.infBits neg else f.maxBits neg, Flags.of ||| Flags.nx)
  else (f.maxBits neg, Flags.of ||| Flags.nx ||| Flags.sat)

/-- `round_to(x, fmt, rm)` of R144 on an exact finite value. -/
def FpFmt.round (f : FpFmt) (rm : Rm) (x : Exact) : Nat × Flags :=
  if x.isZero then (f.pack x.neg 0 0, 0) else
  let e0 := max x.log2 f.emin
  let (lo, inexact, half) := x.scaled ((f.p : Int) - 1 - e0)
  let n0 := roundInt rm x.neg lo inexact half
  let n := if n0 = 2 ^ f.p then 2 ^ (f.p - 1) else n0
  let e := if n0 = 2 ^ f.p then e0 + 1 else e0
  if f.emax < e ∨ (e = f.emax ∧ f.nmax < n) then f.overflow x.neg rm
  else
    let small := decide (n < 2 ^ (f.p - 1))
    let bits := if small then f.pack x.neg 0 n else f.pack x.neg (e + f.bias).toNat (n - 2 ^ (f.p - 1))
    (bits, Flags.when inexact (Flags.nx ||| Flags.when small Flags.uf))

/-- What a NaN becomes in a format (R147): the canonical NaN, or +0 with NV in a format without NaN. -/
def FpFmt.ofNan (f : FpFmt) (signalling : Bool) : Nat × Flags :=
  if f.hasNan then (f.nanBits, Flags.when signalling Flags.nv) else (0, Flags.nv)

/-- What an infinity becomes in a format (R147). -/
def FpFmt.ofInf (f : FpFmt) (neg : Bool) : Nat × Flags :=
  if f.hasInf then (f.infBits neg, 0) else (f.maxBits neg, Flags.sat)

/-- Convert any value into a floating-point format (R144, R147). -/
def FpFmt.ofVal (f : FpFmt) (rm : Rm) (v : Val) : Nat × Flags :=
  match v with
  | .nan sg => f.ofNan sg
  | .inf neg => f.ofInf neg
  | .fin x => f.round rm x

/-- The signed value of a w-bit pattern. -/
def signedOf (w x : Nat) : Int :=
  let y := x % 2 ^ w
  if y < 2 ^ (w - 1) then (y : Int) else (y : Int) - (2 ^ w : Nat)

/-- The w-bit two's-complement pattern of an integer. -/
def patternOf (w : Nat) (i : Int) : Nat := (i % ((2 ^ w : Nat) : Int)).toNat

/-- An integer format's smallest and largest values. -/
def intRange (signed : Bool) (w : Nat) : Int × Int :=
  if signed then (-((2 ^ (w - 1) : Nat) : Int), ((2 ^ (w - 1) : Nat) : Int) - 1)
  else (0, ((2 ^ w : Nat) : Int) - 1)

/-- The pattern that an unconvertible value gives without saturation (R147). -/
def intIndefinite (signed : Bool) (w : Nat) : Nat := if signed then 2 ^ (w - 1) else 2 ^ w - 1

/-- An exact value rounded to a signed integer, and whether it was inexact. -/
def Exact.toInt (x : Exact) (rm : Rm) : Int × Bool :=
  let (lo, inexact, half) := x.scaled 0
  let n := roundInt rm x.neg lo inexact half
  ((if x.neg then -(n : Int) else (n : Int)), inexact)

/-- Convert any value to an integer format (R147). -/
def intOfVal (signed : Bool) (w : Nat) (rm : Rm) (sat : Bool) (v : Val) : Nat × Flags :=
  let (lo, hi) := intRange signed w
  match v with
  | .nan _ => if sat then (0, Flags.nv) else (intIndefinite signed w, Flags.nv)
  | .inf neg => if sat then (patternOf w (if neg then lo else hi), Flags.sat) else (intIndefinite signed w, Flags.nv)
  | .fin x =>
    let (n, inexact) := x.toInt rm
    let nx := Flags.when inexact Flags.nx
    if n < lo ∨ hi < n then
      if sat then (patternOf w (if n < lo then lo else hi), Flags.sat ||| nx)
      else (intIndefinite signed w, Flags.nv)
    else (patternOf w n, nx)

/-- Convert an integer to an integer format (R147). -/
def intOfInt (signed : Bool) (w : Nat) (sat : Bool) (i : Int) : Nat × Flags :=
  let (lo, hi) := intRange signed w
  if sat && (decide (i < lo) || decide (hi < i)) then (patternOf w (if i < lo then lo else hi), Flags.sat)
  else (patternOf w i, 0)

/-- A TERN2 element as a value (R143); the pattern 10 reads as 0 and raises NV. -/
def ternDecode (x : Nat) : Int × Flags :=
  match x % 4 with
  | 1 => (1, 0) | 3 => (-1, 0) | 2 => (0, Flags.nv) | _ => (0, 0)

/-- Convert any value to TERN2 (R147). -/
def ternOfVal (rm : Rm) (v : Val) : Nat × Flags :=
  match v with
  | .nan _ => (0, Flags.nv)
  | .inf neg => (if neg then 3 else 1, Flags.sat)
  | .fin x =>
    let (n, inexact) := x.toInt rm
    let c := if n < -1 then -1 else if 1 < n then 1 else n
    (patternOf 2 c, Flags.when inexact Flags.nx ||| Flags.when (decide (c ≠ n)) Flags.sat)

/-- SP32's exact value (R152). -/
def spDecode (x : Nat) : Exact := ⟨false, x % 2 ^ 20, -19 - signedOf 12 (x / 2 ^ 20), false⟩

/-- Round an exact non-negative value to SP32 (R153). -/
def spRound (rm : Rm) (v : Exact) : Nat × Flags :=
  if v.isZero then (0, 0) else
  let e := -v.log2
  let (lo, inexact, half) := v.scaled (e + 19)
  let n0 := roundInt rm false lo inexact half
  let n := if n0 = 2 ^ 20 then 2 ^ 19 else n0
  let e := if n0 = 2 ^ 20 then e - 1 else e
  if e < -2048 then (0x800FFFFF, Flags.sat)
  else if 2047 < e then (0, Flags.puf)
  else (patternOf 12 e * 2 ^ 20 + n, 0)

/-- SP32 sum, product and maximum (R153). -/
def spSum (rm : Rm) (x y : Nat) : Nat × Flags := spRound rm (Exact.add (spDecode x) (spDecode y) false)
def spProd (rm : Rm) (x y : Nat) : Nat × Flags := spRound rm (Exact.mul (spDecode x) (spDecode y))
def spMax (rm : Rm) (x y : Nat) : Nat × Flags :=
  let a := spDecode x
  let b := spDecode y
  spRound rm (if Exact.cmp a b = .lt then b else a)

/-- Any value into SP32, as `ASP.CVT` converts it (R154). -/
def spOfVal (rm : Rm) (v : Val) : Nat × Flags :=
  match v with
  | .nan _ => (0, Flags.nv)
  | .inf neg => if neg then (0, Flags.nv) else (0x800FFFFF, Flags.sat)
  | .fin x => if x.neg && !x.isZero then (0, Flags.nv) else spRound rm { x with neg := false }

/-- Read an element of a format code as a value, with the flags the reading raises (R138–R143, R152). FX64
reads at scale 0 here; its page's scale is applied by the reader. -/
def readVal (code x : Nat) : Val × Flags :=
  match FpFmt.of code with
  | some f => (f.decode x, 0)
  | none =>
    if code == 0x11 then let (i, fl) := ternDecode x; (.fin (Exact.ofInt i 0), fl)
    else if code == 0x12 then (.fin (spDecode x), 0)
    else
      let w := Fmt.width code
      let signed := Fmt.isSignedCode code || code == 0x13
      (.fin (Exact.ofInt (if signed then signedOf w x else (x % 2 ^ w : Nat)) 0), 0)

/-- Convert a value into an element format (R147, R153): the pattern and the flags. Not for MX forms. -/
def writeVal (code : Nat) (rm : Rm) (sat : Bool) (v : Val) : Nat × Flags :=
  match FpFmt.of code with
  | some f => f.ofVal rm v
  | none =>
    if code == 0x11 then ternOfVal rm v
    else if code == 0x12 then spOfVal rm v
    else intOfVal (Fmt.isSignedCode code || code == 0x13) (Fmt.width code) rm sat v

/-- A signalling NaN source raises NV (R140, R146). -/
def Val.snanFlag : Val → Flags
  | .nan true => Flags.nv
  | _ => 0

/-- Convert one element between format codes (R147): integer to integer by pattern, else through the value. A quiet BF16 NaN converts to FP32's
canonical NaN, as R147's table and R140 have it, whatever its sign and payload, though R147 also says that 16 zero bits are appended
(DEDUCED, log entry 77). -/
def convertElem (src dst x : Nat) (rm : Rm) (sat : Bool) : Nat × Flags :=
  if Fmt.isIntCode src && Fmt.isIntCode dst then
    let w := Fmt.width src
    intOfInt (Fmt.isSignedCode dst) (Fmt.width dst) sat
      (if Fmt.isSignedCode src then signedOf w x else (x % 2 ^ w : Nat))
  else
    let (v, f1) := readVal src x
    let (r, f2) := writeVal dst rm sat v
    (r, f1 ||| f2)

/-- FILL (16 bits) as an element of a format (R16). -/
def fillElem (code fill : Nat) : Nat :=
  let w := Fmt.width code
  if w ≤ 16 then fill % 2 ^ w
  else if code == 0x09 then fill * 2 ^ 16
  else if code == 0x12 then fill * 2 ^ 16
  else if code == 0x08 then
    match FpFmt.bf16.decode fill with
    | .nan _ => FpFmt.fp64.pack (FpFmt.bf16.signBit fill) 0x7FF (FpFmt.bf16.mantField fill * 2 ^ 45)
    | .inf neg => FpFmt.fp64.infBits neg
    | .fin x => (FpFmt.fp64.round .rne x).1
  else if Fmt.isSignedCode code || code == 0x13 then patternOf w (signedOf 16 fill)
  else fill % 2 ^ 16

/-- The value of an E8M0 scale byte: its exponent, none for the NaN 0xFF (R141). -/
def scaleExp (b : Nat) : Option Int := if b % 256 = 255 then none else some ((b % 256 : Nat) - 127)

/-- Element j of an MX block as a value, before its scale (R142). -/
def mxElemVal (code x : Nat) : Val :=
  if code == 0x1D then .fin (Exact.ofInt (signedOf 8 x) (-6))
  else (FpFmt.get (Fmt.mxElem code)).decode x

/-- A value times a power of two. -/
def Val.scale (v : Val) (k : Int) : Val :=
  match v with
  | .fin x => .fin { x with e := x.e + k }
  | v => v

/-- emax of an MX form (R148). -/
def mxEmax (code : Nat) : Int :=
  match code with
  | 0x18 => 8 | 0x19 => 15 | 0x1A => 4 | 0x1B => 2 | 0x1C => 2 | _ => 0

/-- The largest magnitude of a list of values, as an exact number. -/
def maxMag (vs : List Val) : Exact :=
  vs.foldl (fun m v => match v with
    | .fin x => if Exact.cmp m { x with neg := false } = .lt then { x with neg := false } else m
    | _ => m) (Exact.zero false)

/-- One element of a quantised block (R148). -/
def quantElem (code : Nat) (rm : Rm) (u : Exact) : Nat × Flags :=
  if code == 0x1D then
    let (n, inexact) := ({ u with e := u.e + 6 } : Exact).toInt rm
    let c := if n < -128 then -128 else if 127 < n then 127 else n
    (patternOf 8 c, Flags.when inexact Flags.nx ||| Flags.when (decide (c ≠ n)) Flags.sat)
  else
    let f := FpFmt.get (Fmt.mxElem code)
    let (r, fl) := f.round rm u
    if fl &&& Flags.of != 0 then (f.maxBits u.neg, Flags.of ||| Flags.nx ||| Flags.sat) else (r, fl)

/-- Quantise 32 values into a block: the scale byte, the elements, the flags (R148). -/
def quantBlock (code : Nat) (rm : Rm) (vs : List Val) : Nat × List Nat × Flags :=
  if vs.any (fun v => match v with | .fin _ => false | _ => true) then (255, vs.map (fun _ => 0), Flags.nv)
  else
    let amax := maxMag vs
    let x0 := amax.log2 - mxEmax code
    let x : Int := if amax.isZero then -127 else if x0 < -127 then -127 else if 127 < x0 then 127 else x0
    let rs := vs.map (fun v => match v with
      | .fin u => quantElem code rm { u with e := u.e - x }
      | _ => (0, 0))
    ((x + 127).toNat, rs.map Prod.fst, rs.foldl (fun f r => f ||| r.2) 0)

/-- An MX element with its scale byte as a value (R142); NaN under a NaN scale. -/
def mxVal (code scale x : Nat) : Val :=
  match scaleExp scale with
  | none => .nan false
  | some k => (mxElemVal code x).scale k

/-- WA640: a 640-bit two's-complement number of weight 2^−288 (R150). -/
abbrev WA640 := BitVec 640

/-- An exact value as WA640; its bits below 2^−288 do not arise from the inputs R150 lists. -/
def waOfExact (x : Exact) : WA640 :=
  let (lo, _, _) := x.scaled 288
  if x.neg then -(BitVec.ofNat 640 lo) else BitVec.ofNat 640 lo

/-- A value into WA640: a NaN or an infinity gives zero and raises NV (R150). -/
def waOfVal (v : Val) : WA640 × Flags :=
  match v with
  | .fin x => (waOfExact x, 0)
  | _ => (0, Flags.nv)

/-- The exact value of a WA640. -/
def waExact (x : WA640) : Exact := Exact.ofInt x.toInt (-288)

/-- `wa_round` (R151): a zero gives +0. -/
def waRound (f : FpFmt) (rm : Rm) (x : WA640) : Nat × Flags :=
  if x = 0 then (0, 0) else f.round rm (waExact x)

/-- `fx_add` (R155) on a 64-bit cell. -/
def fxAdd (scale : Int) (cell : DWord) (v : Val) : DWord × Flags :=
  match v with
  | .nan _ => (cell, Flags.nv)
  | .inf neg => (if neg then 0x8000000000000000 else 0x7FFFFFFFFFFFFFFF, Flags.aov)
  | .fin x =>
    let (k, inexact) := ({ x with e := x.e - scale } : Exact).toInt .rne
    let t := cell.toInt + k
    let nx := Flags.when inexact Flags.nx
    if ((2 ^ 63 : Nat) : Int) - 1 < t then (0x7FFFFFFFFFFFFFFF, nx ||| Flags.aov)
    else if t < -((2 ^ 63 : Nat) : Int) then (0x8000000000000000, nx ||| Flags.aov)
    else (BitVec.ofInt 64 t, nx)

/-- A cell's exact value k × 2^scale (R155). -/
def fxExact (scale : Int) (cell : DWord) : Exact := Exact.ofInt cell.toInt scale

/-- ceil(log2 n) for n ≥ 1. -/
def clog2 (n : Nat) : Nat := if n ≤ 1 then 0 else Nat.log2 (n - 1) + 1

/-- `canon_tree` (R156) over leaves in index order, an absent leaf being `none`; the flags of the nodes are
united. The number bounds the depth of the tree. -/
def canonTree {α : Type} (op : α → α → α × Flags) : Nat → List (Option α) → Option α × Flags
  | 0, _ => (none, 0)
  | _ + 1, [] => (none, 0)
  | _ + 1, [l] => (l, 0)
  | d + 1, l =>
    let k := 2 ^ (clog2 l.length - 1)
    let (x, f) := canonTree op d (l.take k)
    let (y, g) := canonTree op d (l.drop k)
    match x, y with
    | none, y => (y, f ||| g)
    | x, none => (x, f ||| g)
    | some x, some y => let (r, h) := op x y; (some r, f ||| g ||| h)

/-- `tie_hash(seed, index)` (R157). -/
def tieHash (seed index : DWord) : DWord :=
  let z0 : DWord := (seed ^^^ index) + 0x9E3779B97F4A7C15
  let z1 : DWord := (z0 ^^^ (z0 >>> 30)) * 0xBF58476D1CE4E5B9
  let z2 : DWord := (z1 ^^^ (z1 >>> 27)) * 0x94D049BB133111EB
  z2 ^^^ (z2 >>> 31)

/-- One Philox round (R192). -/
def philoxRound (x : BitVec 32 × BitVec 32 × BitVec 32 × BitVec 32) (k : BitVec 32 × BitVec 32) :
    BitVec 32 × BitVec 32 × BitVec 32 × BitVec 32 :=
  let (x0, x1, x2, x3) := x
  let p0 : DWord := 0xD2511F53 * x0.setWidth 64
  let p1 : DWord := 0xCD9E8D57 * x2.setWidth 64
  (p1.extractLsb' 32 32 ^^^ x1 ^^^ k.1, p1.extractLsb' 0 32, p0.extractLsb' 32 32 ^^^ x3 ^^^ k.2, p0.extractLsb' 0 32)

/-- The rounds of Philox, the key advanced before each but the first (R192). -/
def philoxRounds : Nat → BitVec 32 × BitVec 32 × BitVec 32 × BitVec 32 → BitVec 32 × BitVec 32 →
    BitVec 32 × BitVec 32 × BitVec 32 × BitVec 32
  | 0, x, _ => x
  | n + 1, x, k => philoxRounds n (philoxRound x k) (k.1 + 0x9E3779B9, k.2 + 0xBB67AE85)

/-- `philox(key, ctr)`: Philox4x32-10 (R192). -/
def philox (key : DWord) (ctr : BitVec 128) : BitVec 128 :=
  let (x0, x1, x2, x3) := philoxRounds 10
    (ctr.extractLsb' 0 32, ctr.extractLsb' 32 32, ctr.extractLsb' 64 32, ctr.extractLsb' 96 32)
    (key.extractLsb' 0 32, key.extractLsb' 32 32)
  x3 ++ x2 ++ x1 ++ x0

end Sys2Proof
end

