-- ==== Sys2Proof/Machine/SMap.lean ====
section
/-! DEFINITION. A sparse map from numbers to data, as a list of pairs with keys rising: what register files,
contexts, cores and instruction-memory words are held in. A key that is not listed reads as the default that
the reader names (the reset value of what the map holds). -/

namespace Sys2Proof

/-- Pairs (key, value), keys rising. -/
abbrev SMap (α : Type) := List (Nat × α)

/-- The value at a key, `d` where none is listed. -/
def SMap.get {α : Type} (d : α) : SMap α → Nat → α
  | [], _ => d
  | (k, v) :: r, n => if k = n then v else SMap.get d r n

/-- Write a value at a key, keeping the keys rising. -/
def SMap.set {α : Type} : SMap α → Nat → α → SMap α
  | [], n, x => [(n, x)]
  | (k, v) :: r, n, x =>
    if n = k then (n, x) :: r
    else if n < k then (n, x) :: (k, v) :: r
    else (k, v) :: SMap.set r n x

/-- Remove a key: it reads as the default again. -/
def SMap.erase {α : Type} : SMap α → Nat → SMap α
  | [], _ => []
  | (k, v) :: r, n => if k = n then SMap.erase r n else (k, v) :: SMap.erase r n

/-- Apply a function to every listed value. -/
def SMap.mapVals {α β : Type} (f : Nat → α → β) (m : SMap α) : SMap β := m.map (fun p => (p.1, f p.1 p.2))

/-- The keys listed. -/
def SMap.keys {α : Type} (m : SMap α) : List Nat := m.map Prod.fst

/-- The keys rise strictly. -/
def SMap.wf {α : Type} : SMap α → Bool
  | [] => true
  | [_] => true
  | (k, _) :: (k', v') :: r => decide (k < k') && SMap.wf ((k', v') :: r)

end Sys2Proof
end

