-- ==== Sys2Proof/Machine/StateTypes.lean ====
section
/-! DEFINITION. The parts of the machine's state: a program context, a thread context, the vector slots and the
Arcade, the stage unit, the tag table, the stream registers, the queued accesses, the command queues, the
accumulator tiles, the translation caches and the group table. Plain data throughout. -/

namespace Sys2Proof.Machine

/-- Kind of a pending transfer, XKIND of `tstate` (R98). -/
inductive XKind where
  | br | call | ret
  deriving DecidableEq, Repr

/-- A transfer that has executed and whose delay slots have not all retired (R70, R98). -/
structure Xfer where
  kind  : XKind
  xaddr : DWord
  dest  : DWord
  taken : Bool
  slots : Nat
  deriving DecidableEq, Repr

/-- How control arrived at the pc, which fixes the checks of the next fetch (R29, R31, R32). -/
inductive Arrive where
  /-- Sequential flow, a loop back-edge, `TRET` or `CREST`: no TARGET check. -/
  | plain
  /-- The destination of the taken `BR`, `BRX`, `BRXN`, `CALL` or `RET` given, none of whose delay slots is left. -/
  | checked (x : Xfer)
  /-- Sequential flow after the second delay slot of the untaken transfer given: no TARGET check. -/
  | untaken (x : Xfer)
  /-- The entry of a forked program; the address of the `FORK`. -/
  | fork (faddr : DWord)
  /-- The entry of a launched thread: a checked transfer with no transferring instruction. -/
  | launch
  deriving DecidableEq, Repr

/-- A hardware loop: remaining count, start and end (R10, R11). -/
structure Loop where
  count : BitVec 32 := 0
  start : DWord := 0
  stop  : DWord := 0
  deriving DecidableEq, Repr

/-- lc0–lc3 and the active ones, most recently armed first (R71). -/
structure Loops where
  lc    : SMap Loop := []
  order : List Nat := []
  deriving DecidableEq, Repr

/-- A trap that waits for results in flight (R100, R166, R305). -/
structure TrapReq where
  cause : Cause
  val   : DWord
  pc    : DWord
  pend  : Option Xfer
  deriving DecidableEq, Repr

/-- A translated page: its base virtual address, its size and its leaf entry (R215). -/
structure Page where
  base : Nat
  size : Nat
  leaf : Nat
  deriving DecidableEq, Repr

/-- What holds a program from issuing (R53, R87, R100, R230). -/
inductive Hold where
  /-- A hold of a fixed number of clocks: until the clock given. -/
  | clock (t : Nat)
  /-- A `FENCE` of scope 0 core, 1 hall, 2 pkg, 3 sys (R230). -/
  | fence (scope : Nat)
  /-- At `GRP.BAR` of a group, with its destination register (R124). -/
  | barrier (gid reg : Nat)
  /-- A reverse-mode instruction or an `ADJ.LD` waits for its accesses, under an enabled flag (R337, R340): the group. -/
  | adj (group : Nat)
  /-- `TAPE.SET` waits: its base and limit (R339). -/
  | tapeSet (base limit : DWord)
  /-- A switch of mode waits (R335): to reverse when set. -/
  | modeSwitch (rev : Bool)
  /-- `TRET` waits to switch the mode before it returns (R102, R349). -/
  | tret
  /-- `SLEEP` until a clock, none for an event alone (R363). -/
  | sleep (t : Option Nat)
  /-- The thread ends: with its exit code, or disposed of with the trap given; it waits for its work (R350, R362). -/
  | halting (code : BitVec 32) (fault : Option TrapReq)
  /-- The thread has ended and its event record waits to be written (R376). -/
  | ended
  /-- `MX.REL` and `MX.SHAPE` wait for the thread's commands on a tile (R267, R268). -/
  | tileRel (tile : Nat)
  | tileShape (tile rows cols : Nat)
  /-- `CSAVE` waits: the area and its pages (R356). -/
  | csave (area : DWord) (pages : List Page)
  /-- `FLOW.LOAD` waits to remove flows: its destination register and the flows (R321). -/
  | flowUnload (reg : Nat) (flows : List Nat)
  /-- `CREST` waits: the area and its pages (R359). -/
  | crest (area : DWord) (pages : List Page)
  /-- `DCHK` waits for its record (R395): its destination and source registers, the exchange area. -/
  | dchk (reg src : Nat) (area : DWord)
  /-- `TLB.INV` waits: its address and selector (R361). -/
  | tlbInv (a b : DWord)
  /-- An `ASP.ST` holds the Arcade until a clock, when its access takes place: first register, count, scratchpad address
  and half code (R300). -/
  | aspSt (t first n addr half : Nat)
  /-- A vector slot or the Arcade issues nothing until a long-latency result that can trap has landed (R163, R298). -/
  | longResult
  deriving DecidableEq, Repr

/-- A program context: what each sequencer has of its own (R10, R116). -/
structure Prog where
  pc       : DWord := 0
  arrive   : Arrive := .plain
  pend     : Option Xfer := none
  loops    : Loops := {}
  s        : SMap DWord := []
  /-- Bit i set: s_i is empty (R12). -/
  sEmpty   : DWord := 0
  b        : SMap (BitVec 32) := []
  hold     : Option Hold := none
  trapping : Option TrapReq := none
  /-- A `RET` to the exit link has been taken: the program ends once it has drained (R117). -/
  ending   : Bool := false
  deriving DecidableEq, Repr

/-- A claim of `TOK.RECV`: the program and the destination register (R77). -/
structure TokClaim where
  owner : Seqr
  reg   : Nat
  deriving DecidableEq, Repr

/-- A token FIFO: tokens oldest first and claims in issue order (R75, R77). -/
structure Fifo where
  tokens : List DWord := []
  claims : List TokClaim := []
  deriving DecidableEq, Repr

/-- A fork state (R104). -/
inductive ForkState where
  | none | running | ended (fault : Bool)
  deriving DecidableEq, Repr

/-- A fault record, `vfr` or `afr`: its two doublewords (R167, R305). -/
structure FaultRec where
  dw0 : DWord := 0
  dw1 : DWord := 0
  deriving DecidableEq, Repr

/-- What a queued global access does when it performs (R225–R231, R333, R336–R341). -/
inductive AccKind where
  /-- `LDG`: destination register and size in bytes. -/
  | ldg (reg size : Nat)
  /-- `STG`: size and data. -/
  | stg (size data : Nat)
  /-- `LDL` whose line the slice has not sent yet: the scratchpad address. -/
  | ldl (spad : Nat)
  /-- A line that waits to be written to the scratchpad: an `LDL`'s, or the one a reverse-mode `STL` assembles. -/
  | line (spad : Nat) (data : List Byte)
  /-- `STL`: the line read at issue. -/
  | stl (data : List Byte)
  /-- `GAMO`: register, type fn, operation, operand, compare value, mode, the page's scale, acquire and release. -/
  | gamo (reg fn op x cmp : Nat) (rm : Rm) (scale : Int) (acq rel : Bool)
  /-- `MARK`. -/
  | mark
  /-- A reverse-mode add to the cell of an element read in a format. -/
  | adjAdd (scale : Int) (fmt bits : Nat)
  /-- A reverse-mode read-and-clear of the cell, rounded into a format, for the element at an offset of its line. -/
  | adjTake (scale : Int) (fmt : Nat) (rm : Rm) (off : Nat)
  /-- `ADJ.LD`: the cell read and rounded into a register. -/
  | adjRead (scale : Int) (fmt : Nat) (rm : Rm) (reg : Nat)
  /-- Cells written zero by `ADJ.CLR`: runs of (address, number of cells) still to write. -/
  | adjClear (runs : List (Nat × Nat))
  /-- The restoring store of a reverse-mode `STG.w`: its data, the register it fills then and the value. -/
  | restore (data reg : Nat) (value : DWord)
  /-- The restoring store of a reverse-mode `STL`. -/
  | restoreLine (data : List Byte)
  /-- A tape record on its way: the addresses of its 16-byte parts, and its bytes. -/
  | tapeWrite (pas : List Nat) (data : List Byte)
  deriving DecidableEq, Repr

/-- A global access in a thread's load or store queue (R225). The accesses of one instruction form a group. -/
structure Acc where
  id    : Nat
  kind  : AccKind
  va    : Nat := 0
  pa    : Nat := 0
  /-- It is in the load queue, in the store queue. -/
  isLd  : Bool := false
  isSt  : Bool := false
  /-- The clock of its issue; of a tape record, its store's. -/
  clock : Nat := 0
  /-- It has left the core's landing under a `FENCE.core` (R230): the clock. -/
  left  : Option Nat := none
  /-- The accesses of the physical core that may have been injected before it left: logical core and number. -/
  ahead : List (Nat × Nat) := []
  /-- It has performed at its owner. -/
  performed : Bool := false
  /-- It is complete: performed, and its line written where it has one. -/
  done  : Bool := false
  group : Nat := 0
  /-- Flags raised by the group's accesses that have performed (R337). -/
  flags : Flags := 0
  /-- It is an access of a D page (R335). -/
  dpage : Bool := false
  /-- The addresses of the parts of the tape record that this store pushes (R333). -/
  tape  : List Nat := []
  deriving DecidableEq, Repr

/-- A standing arrival at a barrier (R124, R357). -/
structure Bar where
  gid      : Nat
  gen      : Nat
  arrived  : Bool
  released : Bool
  deriving DecidableEq, Repr

/-- A record of the shadow nest table: words 0–3 of its `MX.SET` (R273). -/
structure NestRec where
  w0 : Word := 0
  w1 : Word := 0
  w2 : Word := 0
  w3 : Word := 0
  deriving DecidableEq, Repr

/-- A pending asynchronous cause with its value (R345). -/
structure AsyncCause where
  cause : Cause
  val   : DWord
  deriving DecidableEq, Repr

/-- A `DIGEST` in flight: the first destination register and the digest (R330). -/
structure DigestPend where
  reg    : Nat
  digest : BitVec 256
  deriving DecidableEq, Repr

/-- A thread context (R10, R17, R103). -/
structure Ctx where
  live     : Bool := false
  prog     : Prog := {}
  h        : SMap HReg := []
  hEmpty   : BitVec 16 := 0
  v        : SMap VReg := []
  vEmpty   : DWord := 0
  prio     : Nat := 0
  frm      : BitVec 3 := 0
  fsr      : DWord := 0
  fte      : DWord := 0
  modeM    : Bool := false
  modeH    : Bool := false
  modeRev  : Bool := false
  tvec     : DWord := 0
  tcause   : DWord := 0
  tval     : DWord := 0
  tpc      : DWord := 0
  tstate   : DWord := 0
  tapebase : DWord := 0
  tapelim  : DWord := 0
  tapeptr  : DWord := 0
  pinquota : DWord := 0
  tseed    : DWord := 0
  /-- The clock at which `cycle` reads 0. -/
  cycleBase : Nat := 0
  instret  : DWord := 0
  mcause   : DWord := 0
  mval     : DWord := 0
  mpc      : DWord := 0
  mstate   : DWord := 0
  mmode    : DWord := 0
  /-- s56–s63, b6 and b7 of the side that is not in use: the monitor's at level U, the thread's at level M (R348). -/
  bankS    : SMap DWord := []
  bankB    : SMap (BitVec 32) := []
  /-- Loop state set aside at reflection to the handler, and at entry into level M (R73, R357). -/
  asideH   : Loops := {}
  asideM   : Loops := {}
  fifos    : SMap Fifo := []
  forkV    : ForkState := .none
  forkA    : ForkState := .none
  vfr      : FaultRec := {}
  afr      : FaultRec := {}
  stage    : Option Nat := none
  bars     : List Bar := []
  accs     : List Acc := []
  nest     : SMap NestRec := []
  failed   : List Nat := []
  async    : List AsyncCause := []
  digests  : List DigestPend := []
  stamp    : Nat := 0
  wait     : Nat := 0
  /-- Whether the thread could issue in the last clock (R129). -/
  could    : Bool := false
  deriving DecidableEq, Repr

/-- What stays with the logical core of a context that `CSAVE` has freed and no `CREST` has brought back, and which no field of the save area
holds: its stage, its pending causes, and its standing arrivals, which completions meanwhile release (R2, R124, R357, R366). -/
structure SavedCtx where
  stage : Option Nat := none
  async : List AsyncCause := []
  bars  : List Bar := []
  /-- The groups that the area's records name. -/
  recorded : List Nat := []
  deriving DecidableEq, Repr

/-- A vector result in flight (R159, R162, R179). -/
structure VPend where
  /-- The register is a vector register; a scalar one otherwise. -/
  isVec : Bool
  reg   : Nat
  value : Nat
  due   : Nat
  long  : Bool
  flags : Flags
  /-- The raised flags that were enabled at issue: with any the long-latency instruction traps FPX when it would land (R165). -/
  traps : Flags
  addr  : DWord
  pend  : Option Xfer
  /-- The tile and the elements that an `AWR` writes, by their keys (R285, R286). -/
  cells : Option (Nat × List (Nat × WA640))
  deriving DecidableEq, Repr

/-- One of the four vector sequencer slots (R116, R130). -/
structure VSlot where
  /-- The context whose program runs here. -/
  owner   : Option Nat := none
  prog    : Prog := {}
  results : List VPend := []
  deriving DecidableEq, Repr

/-- A bundle of the Arcade in flight: the value and adjoint halves it writes, by scratch register (R298, R299). -/
structure APend where
  due   : Nat
  vals  : List (Nat × Word)
  adjs  : List (Nat × Word)
  flags : Flags
  /-- The raised flags that were enabled: the bundle traps FPX when it would land. -/
  traps : Flags
  addr  : DWord
  pend  : Option Xfer
  deriving DecidableEq, Repr

/-- An `ASP.LD` in flight: its registers, its scratchpad address, its half code and the clock it performs at (R300). -/
structure ALoad where
  first : Nat
  n     : Nat
  addr  : Nat
  half  : Nat
  due   : Nat
  deriving DecidableEq, Repr

/-- The Arcade of a core: its single program and its registers (R291). -/
structure Arc where
  owner   : Option Nat := none
  prog    : Prog := {}
  wb      : SMap DWord := []
  seed    : DWord := 0
  /-- p0–p8191: the value word and the adjoint word. -/
  pv      : SMap Word := []
  pa      : SMap Word := []
  results : List APend := []
  loads   : List ALoad := []
  deriving DecidableEq, Repr

/-- An entry of a set of the tag table (R200). -/
structure TagEntry where
  valid   : Bool := false
  sz      : Nat := 0
  tag     : Nat := 0
  pinmask : BitVec 24 := 0
  deriving DecidableEq, Repr

/-- A set of the tag table: eight ways, and the ways most recent first (R200). -/
structure TagSet where
  ways  : SMap TagEntry := []
  order : List Nat := []
  deriving DecidableEq, Repr

/-- A claim on a stream register (R209, R210). -/
structure QClaim where
  id    : Nat
  start : Nat
  len   : Nat
  owner : Seqr
  reg   : Nat
  deriving DecidableEq, Repr

/-- A bound stream register (R206). -/
structure Ring where
  base : Nat
  size : Nat
  esz  : Nat
  sgn  : Bool
  deriving DecidableEq, Repr

/-- A stream register: its binding, its three byte counts and its claims not yet complete (R206). -/
structure Stream where
  ring   : Option Ring := none
  arr    : Nat := 0
  clm    : Nat := 0
  rel    : Nat := 0
  claims : List QClaim := []
  deriving DecidableEq, Repr

/-- A bounded queue of the stage unit (R112, R120). -/
structure StageQueue where
  from_   : Nat
  to_     : Nat
  depth   : Nat
  entries : List DWord := []
  deriving DecidableEq, Repr

/-- The owner of an accumulator tile (R264). -/
inductive TileOwner where
  | free
  | ctx (c : Nat)
  | area (a : Nat)
  deriving DecidableEq, Repr

/-- An accumulator tile; element (i, j) at key 32 i + j (R264). -/
structure Tile where
  owner : TileOwner := .free
  /-- Its owner has ended: it is released once the owner's commands, by number, have retired or failed (R267, R362). -/
  ending : Bool := false
  after  : List Nat := []
  rows  : Nat := 0
  cols  : Nat := 0
  el    : SMap WA640 := []
  deriving DecidableEq, Repr

/-- The spaces of footprint granules (R250, R269). -/
inductive Space where
  | global | spad | scale | tile
  deriving DecidableEq, Repr

/-- A 128-byte granule of a footprint; a tile in the tile space. -/
structure Granule where
  space : Space
  num   : Nat
  deriving DecidableEq, Repr

/-- The kind of an edge (R252). -/
inductive EdgeKind where
  | raw | waw | war
  deriving DecidableEq, Repr

/-- An edge to an earlier item (R252). -/
structure Edge where
  kind : EdgeKind
  to_  : Nat
  deriving DecidableEq, Repr

/-- A cached leaf translation (R219): the physical core's cache holds these by ASID and page. -/
structure TlbEntry where
  asid  : Nat
  /-- Base virtual address of the page. -/
  base  : Nat
  size  : Nat
  leaf  : DWord
  pins  : Nat := 0
  deriving DecidableEq, Repr

/-- A range of global addresses that a command reads or writes. -/
structure Rng where
  lo : Nat
  hi : Nat
  r  : Bool
  w  : Bool
  deriving DecidableEq, Repr

/-- A destination line of a copy on a D page (R263, R333): its address, the places of its tape record's 16-byte parts,
the old bytes that a pop gave, and whether the line is done with. -/
structure TapeLine where
  va    : Nat
  parts : List Nat := []
  old   : List Byte := []
  done  : Bool := false
  deriving DecidableEq, Repr

/-- An entry of a transfer list: bus address, device address, length, and whether it runs from host to device (R262). -/
structure HostEntry where
  bus    : Nat
  dev    : Nat
  len    : Nat
  toDev  : Bool
  deriving DecidableEq, Repr

/-! ### Flows and messages (R306–R330) -/

/-- What a packet is (R309): flow data, a message request, message payload, a credit, a go, a nack, a removal notice. -/
inductive PktKind where
  | data | request | payload | credit | go | nack | removal
  deriving DecidableEq, Repr

/-- A packet on its way, or held in a slot (R309). A message packet's `seq` is the item it comes from; a go's and a payload's
`peer` is the item it goes to. A data packet names the entry that produced it, to which its credit returns. -/
structure Pkt where
  id       : Nat := 0
  kind     : PktKind
  src      : Nat
  dst      : Nat
  /-- Source and destination devices. -/
  sdev     : Nat := 0
  ddev     : Nat := 0
  /-- The logical core a message packet goes to. -/
  lc       : Nat := 0
  flow     : Nat := 0
  cslot    : Nat := 0
  chunk    : Nat := 0
  last     : Bool := false
  /-- The cause with which the chunk failed. -/
  fail     : Option Cause := none
  flags    : Flags := 0
  slvl     : Nat := 0
  /-- The last packet of a scan stack; 0 in every other packet (R309). -/
  send     : Bool := false
  tag      : Nat := 0
  slc      : Nat := 0
  mlen     : Nat := 0
  seq      : Nat := 0
  peer     : Nat := 0
  data     : List Byte := []
  fromSrc  : Bool := false
  fromSlot : Nat := 0
  /-- The round of its flow, as the sender counts it: no field of the header. -/
  round    : Nat := 0
  /-- A `FLOW.REL` has released it from a HOLD entry (R326). -/
  released : Bool := false
  deriving DecidableEq, Repr

/-- Where an entry sends: an entry of a landing, a Conov Link port, or the local delivery unit (R313, R390). -/
inductive FTarget where
  | next (land cslot : Nat)
  | port (p : Nat)
  | here
  deriving DecidableEq, Repr

/-- A chunk that an entry has sent by a port and that its peer has not answered: the port, the chunk and its round (R311, R390). -/
structure Sent where
  port  : Nat
  chunk : Nat
  round : Nat
  deriving DecidableEq, Repr

/-- A match entry with its physical landings (R310), and what it holds while the flow runs (R311, R312). -/
structure FEntry where
  land   : Nat
  /-- The logical core whose landing it is. -/
  lcore  : Option Nat
  cslot  : Nat
  action : Nat
  op     : Nat
  rm     : Nat
  ports  : Nat
  ocslot : Nat
  aslot  : Nat
  awin   : Nat
  src    : Bool
  nlo    : Nat
  nlvl   : Nat
  next   : Option Nat
  ndev   : Nat := 0
  /-- Packets in its slots, in arrival order. -/
  slots  : List Pkt := []
  /-- The child's `LAST` of this round has been consumed. -/
  done   : Bool := false
  /-- Position of the round that is formed next, or of a source entry's round that is injected next. -/
  pos    : Nat := 0
  /-- Rounds that it has finished. -/
  round  : Nat := 0
  /-- Credits it holds as a producer. -/
  credits : List (FTarget × Nat) := []
  /-- Its output still to be sent, in order, and the slots to free when all of it has been: child slot and number. -/
  sends  : List (FTarget × Pkt) := []
  frees  : List (Nat × Nat) := []
  /-- What it has sent across ports and has had no credit for yet, oldest first. -/
  sent   : List Sent := []
  /-- The port by which its child's packets come. -/
  via    : Option Nat := none
  /-- Its child lies across a port that went down, and the round that was current then (R389). -/
  dead   : Bool := false
  deadAt : Nat := 0
  deriving DecidableEq, Repr

/-- An installed flow: the logical core that installed it, its entries, whether it is broken with the first round whose chunks fail
for it and the ports that went down under it (R389), and for each landing the cause of the last chunk failed there and the rounds
delivered (R327). -/
structure FlowRec where
  owner   : Nat
  entries : List FEntry
  broken  : Bool := false
  brokenAt : Nat := 0
  lost    : List Nat := []
  /-- The last thread of the core that installed it has ended: it is removed as its credits return (R321). -/
  leaving : Bool := false
  stats   : SMap (Nat × Nat) := []
  deriving DecidableEq, Repr

/-- Credits that a peer has granted for a flow's child slot before this device installed its part (R391). -/
structure Grant where
  flow  : Nat
  cslot : Nat
  n     : Nat
  deriving DecidableEq, Repr

/-- A Conov Link port (R386–R388, R391). -/
structure Port where
  up      : Bool := false
  /-- A training has failed: the port stays down until a reset (R387). -/
  failed  : Bool := false
  lanes   : Nat := 0
  minor   : Nat := 0
  /-- The capability word that this device sent in training, and the peer's (R387). -/
  sent    : DWord := 0
  peer    : DWord := 0
  /-- The sequence number of the next flit sent, of the next flit accepted, and the flits kept for replay, oldest first (R388). -/
  txSeq   : Nat := 0
  rxSeq   : Nat := 0
  store   : List (Nat × Pkt) := []
  /-- The flit whose replay failed last, each way, and how often in a row (R388). -/
  txFail  : Nat × Nat := (0, 0)
  rxFail  : Nat × Nat := (0, 0)
  grants  : List Grant := []
  /-- What has been handed to the link, oldest first. -/
  out     : List Pkt := []
  deriving DecidableEq, Repr

/-- What a queued item is (R134, R246, R264, R310, R328). -/
inductive ItemKind where
  | sig (flag : Nat)
  | waitf (flag awaits : Nat)
  /-- A copy form: the low four bits of its MOP (R248). -/
  | copy (form : Nat)
  | mxGo (tile : Nat)
  | mxZero (tile : Nat)
  | mxOut (tile : Nat)
  /-- A send or a receive of a flow, a message send, a posted message receive (R323, R324, R329). -/
  | flowSend (flow : Nat)
  | flowRecv (flow : Nat)
  | msgSend
  | msgPost
  deriving DecidableEq, Repr

/-- A command, `SIG` or `WAITF` in a command queue (R131, R351, R358). -/
structure Item where
  seq      : Nat
  queue    : Nat
  prio     : Nat
  owner    : Nat
  kind     : ItemKind
  running  : Bool := false
  /-- It has started, though a save may have returned it to a record or a queue since (R252, R354). -/
  begun    : Bool := false
  /-- Clocks in which it was eligible and not started (R132). -/
  wait     : Nat := 0
  edges    : List Edge := []
  reads    : List Granule := []
  writes   : List Granule := []
  /-- Scratchpad blocks a nest has checked: twice the block number, one more for handle B (R278). -/
  seen     : List Nat := []
  /-- The ranges of global addresses of its footprint (R250, R359). -/
  foot     : List Rng := []
  /-- Reads whose last has been made (R252, R280). -/
  consumed : List Granule := []
  /-- The pages pinned at the push, and the ASID they are of (R221). -/
  pages    : List Page := []
  asid     : Nat := 0
  /-- Next block, next row, next step or next chunk. -/
  progress : Nat := 0
  /-- Bytes that a stream or host transfer has moved of its current block. -/
  within   : Nat := 0
  /-- Of the current block: the gathered row indices read, the source elements read by number, with the scale of the block that each
  heads, and the first elements of the units written: also of a row of `MX.OUT`, of a delivery's chunk, and of what a reverse-mode copy writes
last. -/
  rowIdx   : SMap Nat := []
  got      : SMap (Nat × Nat) := []
  wrote    : List Nat := []
  /-- Scratchpad blocks whose tag the command has set (R198). -/
  tagged   : List Nat := []
  /-- Stream bytes: of an MX block that a delivery has not wholly received (R142), of the chunk that a send is reading (R323), or of the unit
that a `CPY.STRM` is reading (R208). -/
  carry    : SMap Byte := []
  flags    : Flags := 0
  /-- The cause with which it is to be reported failed (R253). -/
  failing  : Option Cause := none
  /-- All its data has moved; it retires once its writes have performed (R239). -/
  finished : Bool := false
  words    : List Word := []
  hd       : HReg := 0
  ha       : HReg := 0
  hb       : HReg := 0
  /-- Scalar operands read at the push. -/
  x        : DWord := 0
  y        : DWord := 0
  rm       : Rm := .rne
  nest     : SMap NestRec := []
  /-- Bytes read at the push: a flow table image. -/
  data     : List Byte := []
  entries  : List HostEntry := []
  lines    : List TapeLine := []
  /-- It was pushed in reverse mode (R263). -/
  rev      : Bool := false
  /-- Its footprint includes a D page (R335). -/
  dpage    : Bool := false
  /-- The number of the first access its thread issues after the push (R238). -/
  accMark  : Nat := 0
  /-- The round of its flow that a `FLOW.SEND` sends (R390). -/
  round    : Nat := 0
  /-- A receive is posted; a message send has its go (R328). -/
  posted   : Bool := false
  /-- The receiving item of a message whose go has come. -/
  peer     : Nat := 0
  /-- Payload packets that have come for a posted message receive. -/
  inbox    : List Pkt := []
  /-- Of a delivery (R325): payload bytes that came, whether some were dropped, the first failure, DW1 of its record, and
  whether its last chunk has been written. -/
  bytes    : Nat := 0
  trunc    : Bool := false
  chunkFail : Option Cause := none
  dw1      : DWord := 0
  allIn    : Bool := false
  deriving DecidableEq, Repr

/-- What a queue's status word reports of the past (R352). -/
structure QueueStat where
  cause    : Nat := 0
  lastFail : Bool := false
  lastSeq  : Nat := 0
  deriving DecidableEq, Repr

/-- A launch record (R110). -/
structure LaunchRec where
  image : DWord
  arg   : DWord
  prio  : Nat
  seed  : DWord
  deriving DecidableEq, Repr

/-- An event record that waits for room in the host event queue: kind, core, context, DW1–DW3 (R376). -/
structure EventRec where
  kind : Nat
  core : Nat
  ctx  : Nat
  d1   : DWord
  d2   : DWord
  d3   : DWord
  deriving DecidableEq, Repr

/-- A member of a group's open generation: whether it has arrived, by `GRP.BAR` or by leaving, and whether it is marked leaving
(R124). -/
structure Member where
  tid     : Nat
  arrived : Bool
  leaving : Bool
  deriving DecidableEq, Repr

/-- A pending member of a group: whether it waits at `GRP.BAR`. -/
structure PendMember where
  tid     : Nat
  waiting : Bool
  deriving DecidableEq, Repr

/-- A live entry of the package group table (R123). -/
structure Group where
  asid    : Nat
  gen     : Nat
  members : List Member
  pending : List PendMember
  deriving DecidableEq, Repr

/-! ### The host interface and the module's firmware (R371–R387) -/

/-- STATE of the device registers (R372). -/
inductive DevState where
  | reset | recovery | ready | unusable
  deriving DecidableEq, Repr

/-- The reply that firmware has made to a mailbox command and has not written yet: code, reason, tag and DW1 (R375). -/
structure Answer where
  code   : Nat
  reason : Nat := 0
  tag    : Nat
  dw1    : Nat := 0
  deriving DecidableEq, Repr

/-- A boot mailbox (R373): the command's bytes, the reply's, PEND, the overrun count. -/
structure Mailbox where
  cmd     : Memory := []
  reply   : Memory := []
  pend    : Bool := false
  overrun : Nat := 0
  answer  : Option Answer := none
  deriving DecidableEq, Repr

/-- The module outside its cores: the device registers, mailboxes and event queue that the host sees, and what the firmware
and the Swelia controller keep (R371–R387). -/
structure Board where
  devState : DevState := .reset
  /-- HEALTHY (R372). -/
  healthy  : Nat := 0
  eqHead   : Nat := 0
  eqTail   : Nat := 0
  /-- The event queue's 256 KiB (R371, R376). -/
  evMem    : Memory := []
  mailboxes : SMap Mailbox := []
  /-- A HELLO with major 1 has been accepted since the last reset (R375). -/
  helloOk  : Bool := false
  /-- How often each MSI-X vector has been raised (R370). -/
  raised   : SMap Nat := []
  /-- What the last host read through BAR0 returned. -/
  hostRead : DWord := 0
  /-- The recovery window, and whether it has been written since the last reset (R381). -/
  recovery : Memory := []
  recoveryUsed : Bool := false
  /-- The firmware image in flash, and whether an update of it is under way (R380, R381). -/
  flash    : Memory := []
  updating : Bool := false
  /-- The security-version fuse counter and measurement registers 0–2 (R380). -/
  fuses    : DWord := 0
  measured : SMap (BitVec 256) := []
  /-- The package health map: the healthy physical cores (R105). -/
  health   : List Nat := []
  /-- The reply to the last attestation request (R382). -/
  attest   : List Byte := []
  /-- The Conov Link device id, and the one that the next warm reset brings in (R387). -/
  devId     : Nat := 0
  devIdNext : Nat := 0
  /-- The power cap in watts and the core clock in MHz (R384). -/
  powerCap : Nat := 2800
  clockMHz : Nat := 1600
  /-- Rate in GT/s and width of the host link, zero before it trains (R370). -/
  linkRate  : Nat := 0
  linkWidth : Nat := 0
  /-- Every core is held or stopped (R381, R384). -/
  stopped  : Bool := false
  deriving DecidableEq, Repr

end Sys2Proof.Machine
end

