-- ==== Sys2Proof/Machine/State.lean ====
section
/-! DEFINITION. The state of the whole device, its faults and refusals, and its state after reset. -/

namespace Sys2Proof.Machine

/-- A logical core: everything that belongs to it or, on a shared physical core, that a time-slice switch brings
in for it (R107). -/
structure Core where
  ctxs     : SMap Ctx := []
  slots    : SMap VSlot := []
  /-- `ptr` of the vector issue choice (R130). -/
  vptr     : Nat := 0
  /-- The clock from which the lane datapath accepts an instruction (R162). -/
  laneFree : Nat := 0
  arc      : Arc := {}
  spad     : Memory := []
  /-- The swizzle tags of the 384 blocks (R198). -/
  blockTag : SMap (BitVec 4) := []
  /-- Instruction-memory words by word index (R29). -/
  imemC    : SMap Word := []
  imemV    : SMap Word := []
  imemA    : SMap Word := []
  /-- Instruction-memory words with an uncorrectable error, by word index (R30). -/
  badWords : List (IMem × Nat) := []
  tagSets  : SMap TagSet := []
  streams  : SMap Stream := []
  tiles    : SMap Tile := []
  scaleMem : Memory := []
  /-- Stage records: number and function address (R112). -/
  stages   : List (Nat × Nat) := []
  queues   : SMap StageQueue := []
  launchQ  : List LaunchRec := []
  items    : List Item := []
  /-- Items that a context save has moved to its area (R356, R358), with what their records do not hold. -/
  saved    : List Item := []
  /-- The contexts that `CSAVE` has freed and no `CREST` has brought back (R2, R360, R366). -/
  savedCtxs : SMap SavedCtx := []
  /-- Numbers of failed items of saved contexts that came after the save, by the owner those items have (R346, R367). -/
  lateFails : SMap (List Nat) := []
  /-- The next enqueue sequence number (R131). -/
  nextSeq  : Nat := 1
  flagPushed : SMap Nat := []
  flagDone   : SMap Nat := []
  /-- Status words of the items that ended, latest first, at most 512 (R351). -/
  ended    : List (Nat × DWord) := []
  queueStat : SMap QueueStat := []
  asid     : Nat := 0
  /-- Physical address of the root page table of the current ASID, none until the host gives one (R213, R383). -/
  ptRoot   : Option Nat := none
  nextAcc  : Nat := 1
  nextClaim : Nat := 1
  /-- Posted message receives, oldest first, by item; the overflow queue of request envelopes; the count of nacked requests since
  the last read (R328, R329). -/
  posts    : List Nat := []
  overflow : List Pkt := []
  nacked   : Nat := 0
  /-- `tval` of the next MSGOVF: the first request nacked since the last was taken (R347). -/
  ovf      : Option DWord := none
  /-- The sequence number of the send that injected last (R322). -/
  lastSend : Nat := 0
  /-- A `DCHK` found the replicas to disagree: no queue starts a further item (R395). -/
  queuesHalted : Bool := false
  deriving DecidableEq, Repr

/-- What one turn of the machine does next: a step takes the first of the agenda. -/
inductive Turn where
  /-- A sequencer's next instruction issues. -/
  | issue (q : Seqr)
  /-- The control core of a logical core chooses a thread and issues (R129). -/
  | select (core : Nat)
  /-- The vector engine of a logical core chooses a slot and issues (R130). -/
  | vselect (core : Nat)
  /-- A sequencer's next instruction meets an uncorrectable error in what it reads: `tval`, and whether that is a register (R365). -/
  | readError (q : Seqr) (tval : Nat) (reg : Bool)
  /-- An event of the machine happens to its target. -/
  | event (i : Instr) (t : Target)
  deriving DecidableEq, Repr

/-- The device. -/
structure State where
  cores   : SMap Core
  hbm     : Memory
  hostMem : Memory
  groups  : SMap Group
  /-- The resident monitor's code, by word index (R97, R348). -/
  monCode : SMap Word
  /-- Event records that wait for room in the host event queue (R376). -/
  evPending : List EventRec
  tlbs    : SMap (List TlbEntry)
  /-- Installed flows by id (R310), packets on their way, oldest first, the next packet's number, and the ports. -/
  flows   : SMap FlowRec
  packets : List Pkt
  nextPkt : Nat
  ports   : SMap Port
  /-- The remap table: the physical core of a logical core (R105, R106). -/
  remap   : SMap Nat
  /-- The logical cores of a shared physical core that are not resident now (R107). -/
  away    : List Nat
  /-- The clock at which the resident logical core of a shared physical core came in (R107). -/
  sliceAt : SMap Nat
  board   : Board
  /-- The clock. -/
  now     : Nat
  agenda  : List Turn
  /-- The sequencer whose instruction runs, and the target of the event that happens. -/
  cur     : Seqr
  target  : Target
  /-- The last instruction stalled at issue, without effect. -/
  stalled : Bool
  /-- The model's own counter of free values drawn (log entry 4). -/
  draws   : Nat
  deriving DecidableEq, Repr

/-- Why the machine stops. -/
inductive Fault where
  /-- An access to a physical address that names no memory (R211): the page walk raises it when the root or a
  table address lies outside HBM. Safe: the machine stops where the spec gives no behaviour. -/
  | noMemory
  deriving DecidableEq, Repr

/-- Why an instruction has no meaning here. -/
inductive Refusal where
  /-- The instruction is not modelled; raised by the dispatch alone. Safe. -/
  | notModelled (mnemonic : String)
  deriving DecidableEq, Repr

/-- The state right after reset (R10, R20, R21, R29, R131, R198, R200, R206, R264, R270). -/
def State.reset : State where
  cores   := []
  hbm     := []
  hostMem := []
  groups  := []
  monCode := []
  evPending := []
  tlbs    := []
  flows   := []
  packets := []
  nextPkt := 0
  ports   := []
  remap   := []
  away    := []
  sliceAt := []
  board   := {}
  now     := 0
  agenda  := []
  cur     := .thread 0 0
  target  := {}
  stalled := false
  draws   := 0

end Sys2Proof.Machine
end

