-- ==== Sys2Proof/Machine/Ops.lean ====
section
/-! DEFINITION. The named operations every meaning is written in: cores, contexts, programs and their registers;
the flow of control from one instruction to the next with transfers and hardware loops (R67–R74); taking an
exception (R98–R100, R166, R305, R350) and the return from one (R102, R349). -/

namespace Sys2Proof.Machine

/-- The outcome of a meaning. -/
abbrev Out := Host.Outcome State Fault Refusal

/-! ### Cores, contexts and programs -/

def State.core (s : State) (c : Nat) : Core := SMap.get {} s.cores c
def State.setCore (s : State) (c : Nat) (k : Core) : State := { s with cores := SMap.set s.cores c k }
def State.ctx (s : State) (c x : Nat) : Ctx := SMap.get {} (s.core c).ctxs x
def State.setCtx (s : State) (c x : Nat) (t : Ctx) : State :=
  s.setCore c { s.core c with ctxs := SMap.set (s.core c).ctxs x t }
def State.slot (s : State) (c k : Nat) : VSlot := SMap.get {} (s.core c).slots k
def State.setSlot (s : State) (c k : Nat) (v : VSlot) : State :=
  s.setCore c { s.core c with slots := SMap.set (s.core c).slots k v }
def State.arc (s : State) (c : Nat) : Arc := (s.core c).arc
def State.setArc (s : State) (c : Nat) (a : Arc) : State := s.setCore c { s.core c with arc := a }

/-- The program context of a sequencer (R10). -/
def State.prog (s : State) : Seqr → Prog
  | .thread c x => (s.ctx c x).prog
  | .vec c k => (s.slot c k).prog
  | .arc c => (s.arc c).prog

def State.setProg (s : State) (q : Seqr) (p : Prog) : State :=
  match q with
  | .thread c x => s.setCtx c x { s.ctx c x with prog := p }
  | .vec c k => s.setSlot c k { s.slot c k with prog := p }
  | .arc c => s.setArc c { s.arc c with prog := p }

/-- The context of the thread whose program a sequencer runs: the thread itself, or the forking thread (R82, R158). -/
def State.ownerCtx (s : State) : Seqr → Nat
  | .thread _ x => x
  | .vec c k => (s.slot c k).owner.getD 0
  | .arc c => (s.arc c).owner.getD 0

/-- The thread whose control registers, v registers and FIFOs the sequencer acts on (R82, R158). -/
def State.thread (s : State) (q : Seqr) : Ctx := s.ctx q.core (s.ownerCtx q)
def State.setThread (s : State) (q : Seqr) (t : Ctx) : State := s.setCtx q.core (s.ownerCtx q) t

/-- The physical core of a logical core, from the remap table (R105, R106). -/
def State.pcore (s : State) (c : Nat) : Nat := SMap.get 0 s.remap c

/-- The thread number `tid` of a context (R17). -/
def tidOf (core ctx : Nat) : Nat := core * 24 + ctx

/-! ### Scalar registers (R10) -/

/-- Read s_r; s0 reads zero. -/
def Prog.getS (p : Prog) (r : Nat) : DWord := if r = 0 then 0 else SMap.get 0 p.s r
/-- Write s_r; a write to s0 is discarded. -/
def Prog.setS (p : Prog) (r : Nat) (v : DWord) : Prog := if r = 0 then p else { p with s := SMap.set p.s r v }
/-- s_r is empty; s0 is always full. -/
def Prog.isEmptyS (p : Prog) (r : Nat) : Bool := r != 0 && p.sEmpty.getLsbD r
/-- Mark s_r empty at issue of a long-latency producer (R12). -/
def Prog.markEmpty (p : Prog) (r : Nat) : Prog :=
  if r = 0 then p else { p with sEmpty := p.sEmpty ||| (1#64 <<< r) }
/-- A result lands in s_r: the value is written and the register is full (R12). -/
def Prog.fillS (p : Prog) (r : Nat) (v : DWord) : Prog :=
  { p.setS r v with sEmpty := p.sEmpty &&& ~~~(1#64 <<< r) }
/-- Read b_n (R10). -/
def Prog.getB (p : Prog) (n : Nat) : BitVec 32 := SMap.get 0 p.b n
/-- Write b_n: only bits 16:2 are kept (R10). -/
def Prog.setB (p : Prog) (n : Nat) (v : DWord) : Prog :=
  { p with b := SMap.set p.b n ((v &&& 0x1FFFC).setWidth 32) }

def State.getS (s : State) (q : Seqr) (r : Reg) : DWord := (s.prog q).getS r.toNat
def State.setS (s : State) (q : Seqr) (r : Reg) (v : DWord) : State := s.setProg q ((s.prog q).setS r.toNat v)

/-! ### Addresses and lines (R31) -/

/-- The address that sequential flow gives after an instruction of `len` words at `pc` (R31). -/
def seqNext (pc : DWord) (len : Nat) : DWord :=
  let p := pc + BitVec.ofNat 64 (4 * len)
  if p.toNat / 4 % 32 = 0 then p + 8 else p

/-- The sequencer runs the monitor's code, which lies in no memory of the core (R97; log entry 5). -/
def State.atM (s : State) : Seqr → Bool
  | .thread c x => (s.ctx c x).modeM
  | _ => false

/-- The instruction memory's words, the monitor's at level M. -/
def State.imemWords (s : State) : Seqr → SMap Word
  | .thread c x => if (s.ctx c x).modeM then s.monCode else (s.core c).imemC
  | .vec c _ => (s.core c).imemV
  | .arc c => (s.core c).imemA

/-- The word at a byte address of a sequencer's instruction memory. -/
def State.iword (s : State) (q : Seqr) (a : Nat) : Word := SMap.get 0 (s.imemWords q) (a / 4)

/-- KIND of the line that holds a byte address, bits 31:30 of its word 0 (R31). -/
def State.lineKind (s : State) (q : Seqr) (a : Nat) : Nat := (s.iword q (a / 128 * 128)).toNat / 2 ^ 30
/-- START and TARGET of the word at a byte address; a header word has neither (R31). -/
def State.startBit (s : State) (q : Seqr) (a : Nat) : Bool :=
  decide (2 ≤ a / 4 % 32) && (s.iword q (a / 128 * 128)).getLsbD (a / 4 % 32 - 2)
def State.targetBit (s : State) (q : Seqr) (a : Nat) : Bool :=
  decide (2 ≤ a / 4 % 32) && (s.iword q (a / 128 * 128 + 4)).getLsbD (a / 4 % 32 - 2)

/-- The marks that a checked transfer needs at its destination (R29, R32). -/
def State.entryOk (s : State) (q : Seqr) (a : DWord) : Bool :=
  decide (a.toNat < q.imem.bytes) && decide (a.toNat % 4 = 0) && s.startBit q a.toNat && s.targetBit q a.toNat

/-- The MOP of the word at a byte address is a subtree's (R290). -/
def State.isSubtree (s : State) (q : Seqr) (a : Nat) : Bool :=
  q.imem == .arcade && ((s.iword q a).fMop.toNat == 0x80 || (s.iword q a).fMop.toNat == 0x81)

/-- The subtrees of the bundle that begins at a byte address: up to the first with E = 1, in the line, at most the number given
(R293, R294). -/
def State.bundleSize (s : State) (q : Seqr) : Nat → Nat → Nat
  | 0, _ => 0
  | n + 1, a =>
    if (s.iword q a).getLsbD 3 || a / 4 % 32 + 4 = 32 || !s.isSubtree q (a + 16) then 1 else 1 + s.bundleSize q n (a + 16)

/-- The length in words of the instruction whose first word is at an address, one where its MOP is undefined (R69); a bundle counts as
one instruction (R294). -/
def State.mopLen (s : State) (q : Seqr) (a : DWord) : Nat :=
  if s.isSubtree q a.toNat then 4 * s.bundleSize q 4 a.toNat
  else (mopLength q.imem (s.iword q a.toNat).fMop.toNat).getD 1

/-! ### Hardware loops (R71–R73) -/

/-- The loop-end check: where fetch goes when sequential flow, a skip or an untaken transfer gives `next` (R72). -/
def loopEnd : List Nat → Loops → DWord → Loops × DWord
  | [], l, next => (l, next)
  | k :: r, l, next =>
    let c := SMap.get {} l.lc k
    if c.stop = next then
      let n := c.count - 1
      let l1 := { l with lc := SMap.set l.lc k { c with count := n } }
      if n ≠ 0 then (l1, c.start)
      else loopEnd r { l1 with order := l1.order.filter (· != k) } next
    else loopEnd r l next

/-- The loop-end check over the active loops, most recently armed first (R72). -/
def Prog.loopCheck (p : Prog) (next : DWord) : Prog :=
  let (l, n) := loopEnd p.loops.order p.loops next
  { p with loops := l, pc := n, arrive := .plain }

/-- Loops that a taken branch leaves: inactive with a count of 0 (R73). -/
def Loops.leave (l : Loops) (dest : DWord) : Loops :=
  let out := l.order.filter (fun k =>
    let c := SMap.get {} l.lc k
    decide (dest.toNat < c.start.toNat) || decide (c.stop.toNat ≤ dest.toNat))
  { lc := out.foldl (fun m k => SMap.set m k { SMap.get {} m k with count := 0 }) l.lc
    order := l.order.filter (fun k => !out.contains k) }

/-- The exit link of a forked program (R116). -/
def exitLink : DWord := 0x20000

/-- The transfer that a trap at an instruction boundary records: the pending one, or the one whose second delay slot was the last
instruction to retire, with SLOTS = 0 as for `TRAP` there (R98, R345). The entry of a forked program is recorded as a taken
transfer of its `FORK`, so that the check of the entry is still made after a restore (R32, R116, R366; log entry 53). -/
def Prog.pendAt (p : Prog) : Option Xfer :=
  match p.pend, p.arrive with
  | some x, _ => some x
  | none, .checked x => some x
  | none, .untaken x => some x
  | none, .fork f => some { kind := .call, xaddr := f, dest := p.pc, taken := true, slots := 0 }
  | none, .launch => some { kind := .call, xaddr := Config.launchFrom p.pc, dest := p.pc, taken := true, slots := 0 }
  | none, .plain => none

/-- A pending transfer takes place (R67, R69, R72, R73, R117). That the loop-end check of R72 also runs on DEST where an untaken
transfer with SLOTS = 0 is re-armed is the model's choice (R102; log entry 54). -/
def Prog.takeXfer (p : Prog) (isFork : Bool) (x : Xfer) : Prog :=
  if x.taken then
    if isFork && x.kind == .ret && x.dest == exitLink then { p with pend := none, ending := true, pc := x.dest }
    else
      { p with pend := none, pc := x.dest, arrive := .checked { x with slots := 0 },
               loops := if x.kind = .br then p.loops.leave x.dest else p.loops }
  else
    let r := ({ p with pend := none } : Prog).loopCheck x.dest
    if r.pc = x.dest then { r with arrive := .untaken { x with slots := 0 } } else r

/-- An instruction retires and `next` is where flow goes on: a delay slot counts down, and the last one lets its
transfer take place (R67, R68). -/
def Prog.advance (p : Prog) (isFork : Bool) (next : DWord) : Prog :=
  match p.pend with
  | none => p.loopCheck next
  | some x =>
    if x.slots ≤ 1 then p.takeXfer isFork x
    else ({ p with pend := some { x with slots := x.slots - 1 } } : Prog).loopCheck next

/-- `TRAP` retires: the next address after the loop-end check, and the pending transfer with this slot counted
(R84, R98, R345). -/
def Prog.advanceTrap (p : Prog) (next : DWord) : Prog :=
  match p.pend with
  | none => p.loopCheck next
  | some x => ({ p with pend := some { x with slots := x.slots - 1 } } : Prog).loopCheck next

/-! ### `tstate` and the fault records (R98, R167) -/

def XKind.code : XKind → Nat
  | .br => 0 | .call => 1 | .ret => 2

/-- The word of a pending transfer, in the layout of `tstate`, with the mode of the trapped code (R98). DEST has bits 16:2 alone: of a
destination beyond them, which a `RET` may have (R69), the model keeps those bits (DESIGN CHOICE, log entry 54). -/
def packXfer (x : Option Xfer) (rev : Bool) : DWord :=
  let r : DWord := BitVec.ofNat 64 (bit rev * 2 ^ 23)
  match x with
  | none => r
  | some x =>
    BitVec.ofNat 64 (x.xaddr.toNat / 4 % 2 ^ 15 * 2 ^ 24 + bit rev * 2 ^ 23 + x.kind.code * 2 ^ 21 + x.slots % 4 * 2 ^ 19
      + bit x.taken * 2 ^ 18 + 2 ^ 17 + x.dest.toNat / 4 % 2 ^ 15 * 4)

/-- The fields of `tstate` that a write keeps; the reserved bits read zero (R98). -/
def xferMask : DWord := 0x7FFFFFFFFC

/-- SLOTS or XKIND holds its invalid value (R102, R349). -/
def xferInvalid (t : DWord) : Bool := t.toNat / 2 ^ 19 % 4 == 3 || t.toNat / 2 ^ 21 % 4 == 3

/-- The pending transfer that a `tstate` word holds (R98, R102). -/
def unpackXfer (t : DWord) : Option Xfer :=
  let n := t.toNat
  if n / 2 ^ 17 % 2 = 1 then
    some { kind := if n / 2 ^ 21 % 4 = 1 then .call else if n / 2 ^ 21 % 4 = 2 then .ret else .br
           xaddr := BitVec.ofNat 64 (n / 2 ^ 24 % 2 ^ 15 * 4)
           dest := BitVec.ofNat 64 (n / 4 % 2 ^ 15 * 4)
           taken := n / 2 ^ 18 % 2 == 1
           slots := n / 2 ^ 19 % 4 }
  else none

/-- `vfr` and `afr`: VAL, and PC, VALID, SLOT, CAUSE, SLOTS, TAKEN, PEND, DEST (R167, R305). Of an address that PC cannot hold, of an entry or
a transfer beyond the memory, the model keeps the bits that fit (DESIGN CHOICE, log entry 54). -/
def packFault (c : Cause) (val pc : DWord) (slot : Nat) (x : Option Xfer) : FaultRec where
  dw0 := val
  dw1 :=
    let p := packXfer x false
    BitVec.ofNat 64 (pc.toNat % 2 ^ 17 * 2 ^ 32 + 2 ^ 31 + slot % 4 * 2 ^ 29 + c.code * 2 ^ 21
      + p.toNat / 2 ^ 19 % 4 * 2 ^ 19 + p.toNat % 2 ^ 19)

/-! ### In-flight results and trap entry (R12, R100, R166) -/

/-- A program holds an unfilled claim on a stream register (R209, R210). -/
def State.streamClaim (s : State) (q : Seqr) : Bool :=
  (s.core q.core).streams.any (fun f => f.2.claims.any (fun c => decide (c.owner = q)))

/-- A program holds an unfilled claim on a FIFO or a stream register (R77, R209). -/
def State.hasClaim (s : State) (q : Seqr) : Bool :=
  ((s.thread q).fifos.any (fun f => f.2.claims.any (fun c => decide (c.owner = q)))) || s.streamClaim q

/-- The Arcade is held by an `ASP.ST` whose access is still to come (R300). -/
def Prog.aspStore (p : Prog) : Bool :=
  match p.hold with
  | some (.aspSt _ _ _ _ _) => true
  | _ => false

/-- An `LDL`, or a reverse-mode `STL`, has not written its line (R228, R231). -/
def Acc.pendingLine (a : Acc) : Bool :=
  match a.kind with
  | .ldl _ => true
  | .line _ _ => !a.done
  | _ => false

/-- An access whose result is still to come, into s0 too (R12, R18, R229). -/
def Acc.pendingResult (a : Acc) : Bool :=
  match a.kind with
  | .ldg _ _ | .gamo _ _ _ _ _ _ _ _ _ | .adjRead _ _ _ _ | .restore _ _ _ => !a.performed
  | _ => false

/-- No result of the program is in flight, and no scratchpad access of an Arcade program is still to come (R12, R100, R117, R166, R300). -/
def State.drained (s : State) (q : Seqr) : Bool :=
  (s.prog q).sEmpty == 0 && !s.hasClaim q &&
  (match q with
   | .thread c x => (s.ctx c x).digests.isEmpty && !(s.ctx c x).accs.any (fun a => a.pendingLine || a.pendingResult)
   | .vec c k => (s.slot c k).results.isEmpty
   | .arc c => (s.arc c).results.isEmpty && (s.arc c).loads.isEmpty && !(s.arc c).prog.aspStore)

/-- `CSAVE` waits in the context: its forked programs stop at their boundaries and no further command of it starts (R356). -/
def Ctx.saving (t : Ctx) : Bool :=
  match t.prog.hold with
  | some (.csave _ _) => true
  | _ => false

/-- A forked program stands at its pre-emption point: nothing that it issued is unfinished (R354). -/
def State.forkStill (s : State) (q : Seqr) : Bool :=
  let p := s.prog q
  p.hold.isNone && p.trapping.isNone && !p.ending && s.drained q

/-- The forked programs of the threads given stand at their pre-emption points (R354). -/
def State.programsStill (s : State) (c : Nat) (own : Nat → Bool) : Bool :=
  let k := s.core c
  (SMap.keys k.slots).all (fun n => !(s.slot c n).owner.any own || s.forkStill (.vec c n))
    && (!k.arc.owner.any own || s.forkStill (.arc c))

/-- The logical cores that share a physical core (R106). -/
def State.sharers (s : State) (pc : Nat) : List Nat := (s.remap.filter (fun e => e.2 == pc)).map Prod.fst

/-- The slice of a resident logical core is over: it shares its physical core, and 1,048,576 clocks have passed since it came in (R107). -/
def State.sliceOver (s : State) (c : Nat) : Bool :=
  let pc := s.pcore c
  let cs := s.sharers pc
  cs.contains c && decide (1 < cs.length) && !s.away.contains c && decide (SMap.get 0 s.sliceAt pc + 1048576 ≤ s.now)

/-- A command of a thread yields its engine at its next pre-emption point (R107, R354, R356): the core's slice is over, or the thread saves
its context, and the forked programs, whose claims a command may still have to fill, have come to theirs. That the programs stop first is
the model's choice (DESIGN CHOICE, log entry 66). -/
def State.yields (s : State) (c x : Nat) : Bool :=
  (s.sliceOver c && s.programsStill c (fun _ => true))
    || ((s.ctx c x).saving && s.drained (.thread c x) && (s.ctx c x).accs.isEmpty && s.programsStill c (· == x))

/-- Exchange s56–s63, b6 and b7 with the other side's (R348). -/
def Ctx.swapBank (t : Ctx) : Ctx :=
  let ks := [56, 57, 58, 59, 60, 61, 62, 63]
  let p := t.prog
  { t with
    bankS := ks.foldl (fun m k => SMap.set m k (SMap.get 0 p.s k)) t.bankS
    bankB := [6, 7].foldl (fun m k => SMap.set m k (SMap.get 0 p.b k)) t.bankB
    prog := { p with s := ks.foldl (fun m k => SMap.set m k (SMap.get 0 t.bankS k)) p.s
                     b := [6, 7].foldl (fun m k => SMap.set m k (SMap.get 0 t.bankB k)) p.b } }

/-- `mode` as bits 2:0 (R19). -/
def Ctx.mode (t : Ctx) : Nat := bit t.modeM * 4 + bit t.modeH * 2 + bit t.modeRev

/-- Level M is entered: the monitor record is written, the loops are set aside and inactive, the monitor's
registers come in (R100, R348). What lc0–lc3 then hold, and the REV bit of `mstate`, the spec does not say: they are zero (DESIGN CHOICE, log
entry 78). -/
def Ctx.enterM (t : Ctx) (r : TrapReq) : Ctx :=
  ({ t with
      mcause := BitVec.ofNat 64 r.cause.code, mval := r.val, mpc := r.pc, mstate := packXfer r.pend false
      mmode := BitVec.ofNat 64 t.mode, asideM := t.prog.loops, modeM := true
      prog := { t.prog with loops := {}, pend := none, trapping := none, hold := none } } : Ctx).swapBank

/-- The monitor reflects the trap to the handler at `tvec` (R100): the thread's trap registers are written, level
U is entered with H = 1, and its first instruction issues no earlier than 32 clocks on. -/
def Ctx.reflect (t : Ctx) (now : Nat) (r : TrapReq) : Ctx :=
  let u := t.swapBank
  { u with
    tcause := BitVec.ofNat 64 r.cause.code, tval := r.val, tpc := r.pc, tstate := packXfer r.pend t.modeRev
    modeM := false, modeH := true, asideH := t.asideM
    prog := { u.prog with pc := t.tvec, arrive := .plain, hold := some (.clock (now + 32)) } }

/-- The item is a command; `SIG` and `WAITF` are not (R132). -/
def Item.isCommand (i : Item) : Bool :=
  match i.kind with
  | .sig _ => false
  | .waitf _ _ => false
  | _ => true

/-- The monitor disposes of the thread: it ends as `HALT` does, with the cause recorded (R350). Its entries that have not started, `SIG`
and `WAITF` among them, fail with the cause (R135, R350), and on DIGEST every queued item of the core (R396). -/
def State.dispose (s : State) (c x : Nat) (r : TrapReq) : State :=
  let t := s.ctx c x
  let s1 := s.setCtx c x { t with prog := { t.prog with hold := some (.halting 0 (some r)), trapping := none, pend := none } }
  let k := s1.core c
  s1.setCore c { k with items := k.items.map (fun i =>
    if !i.running && i.failing.isNone && (r.cause == .digest || i.owner == x) then
      { i with failing := some r.cause } else i) }

/-- Trap entry of a thread, once no result is in flight (R100): reflection to the handler at `tvec`, the firmware's own handling of
PREEMPT and TIMER, which runs the monitor's code or ends the thread as a free choice tells (R350, R355; log entry 5), or disposal. -/
def State.enterTrap (s : State) (c x : Nat) (r : TrapReq) : State :=
  let t := s.ctx c x
  if t.modeM then s.dispose c x r
  else
    let m := t.enterM r
    if r.cause.reflects && !t.modeH && t.tvec != 0 && s.entryOk (.thread c x) t.tvec then
      s.setCtx c x (m.reflect s.now r)
    else if (r.cause = .preempt ∨ r.cause = .timer) ∧ Config.freeBool s.draws = false then
      { s.setCtx c x { m with prog := { m.prog with pc := Config.monitorEntry, arrive := .plain } } with draws := s.draws + 1 }
    else { (s.setCtx c x m).dispose c x r with draws := s.draws + 1 }

/-- The end of a forked program: its slot is free and the thread's fork state ENDED (R104, R117, R166, R305). -/
def State.endProgram (s : State) (q : Seqr) (fault : Bool) (rec_ : Option FaultRec) : State :=
  match q with
  | .thread _ _ => s
  | .vec c k =>
    let x := s.ownerCtx q
    let t := s.ctx c x
    (s.setCtx c x { t with forkV := .ended fault, vfr := rec_.getD t.vfr }).setSlot c k {}
  | .arc c =>
    let x := s.ownerCtx q
    let t := s.ctx c x
    let s1 := s.setCtx c x { t with forkA := .ended fault, afr := rec_.getD t.afr }
    s1.setArc c { s1.arc c with owner := none, prog := {}, wb := [], seed := 0, results := [], loads := [] }

/-- A trap that stands is entered if no result is in flight: by a thread under R100, by a forked program under R166
and R305. -/
def State.tryTrap (s : State) (q : Seqr) : State :=
  match (s.prog q).trapping with
  | none => s
  | some r =>
    if s.drained q then
      match q with
      | .thread c x => s.enterTrap c x r
      | _ => s.endProgram q true (some (packFault r.cause r.val r.pc q.slotNo r.pend))
    else s

/-- Raise a trap: the program issues no more; entry follows as soon as no result is in flight (R100). -/
def State.raise (s : State) (q : Seqr) (r : TrapReq) : State :=
  (s.setProg q { s.prog q with trapping := some r }).tryTrap q

/-! ### The frame of an instruction (R35, R67–R74, R101) -/

/-- What an instruction's meaning comes to. -/
inductive Res where
  /-- It retires and flow goes on in sequence. -/
  | retire (s : State)
  /-- It retires and flow goes on at an address: a loop skip, a moved thread. -/
  | goto (s : State) (next : DWord)
  /-- A transfer executes: its destination and condition are fixed. -/
  | xfer (s : State) (x : Xfer)
  /-- It stalls at issue, without effect. -/
  | stall
  /-- It traps precisely, without effect. -/
  | trap (c : Cause) (val : DWord)
  /-- It traps at an address of its own, with the state given (R66, R84, R146, R165). -/
  | trapAt (s : State) (c : Cause) (val pc : DWord) (pend : Option Xfer)
  /-- The state given is the whole of what happens: the instruction waits, or control goes where it says. -/
  | whole (s : State)
  /-- The machine stops: an access to an address that names no memory (R211). -/
  | stop (f : Fault)

/-- Where an instruction may stand (R68, R74). -/
inductive Place where
  /-- Anywhere. -/
  | any
  /-- `LOOP` and `LOOPI`: not in a delay slot. -/
  | loop
  /-- A transfer: not in a delay slot, and not last in an active loop's body. -/
  | xfer
  deriving DecidableEq, Repr

/-- The instruction stands in a delay slot. -/
def Prog.inSlot (p : Prog) : Bool :=
  match p.pend with
  | some x => x.slots != 0
  | none => false

/-- Decode check 7 and the loop-end rule: the instruction traps ILLSLOT (R35, R68, R74). -/
def Prog.badSlot (p : Prog) (len : Nat) (pl : Place) : Bool :=
  (pl != .any && p.inSlot) ||
    ((pl == .xfer || p.inSlot) &&
      p.loops.order.any (fun k => (SMap.get {} p.loops.lc k).stop == seqNext p.pc len))

/-- An instruction of a thread retires: it counts in `instret` (R17). -/
def State.countRetired (s : State) : Seqr → State
  | .thread c x => let t := s.ctx c x; s.setCtx c x { t with instret := t.instret + 1 }
  | _ => s

/-- Carry out what a meaning came to, for an instruction of `len` words of the sequencer that runs. -/
def finish (q : Seqr) (s0 : State) (len : Nat) (r : Res) : State :=
  let p0 := s0.prog q
  match r with
  | .retire s => let s1 := s.countRetired q; s1.setProg q ((s1.prog q).advance q.isFork (seqNext p0.pc len))
  | .goto s next => let s1 := s.countRetired q; s1.setProg q ((s1.prog q).advance q.isFork next)
  | .xfer s x =>
    let s1 := s.countRetired q
    s1.setProg q (({ s1.prog q with pend := some x } : Prog).loopCheck (seqNext p0.pc len))
  | .stall => { s0 with stalled := true }
  | .trap c v => s0.raise q ⟨c, v, p0.pc, p0.pend⟩
  | .trapAt s c v pc pend => s.raise q ⟨c, v, pc, pend⟩
  | .whole s => s
  | .stop _ => s0

/-- Issue an instruction of `len` words on the sequencer that runs: decode check 7, then its meaning (R35). -/
def issue (s : State) (len : Nat) (pl : Place) (body : Seqr → State → Res) : Out :=
  let q := s.cur
  let s := { s with stalled := false }
  let p := s.prog q
  if p.badSlot len pl then .next (s.raise q ⟨.illslot, p.pc, p.pc, p.pend⟩)
  else match body q s with
    | .stop f => .fault f
    | r => .next (finish q s len r)

end Sys2Proof.Machine
end

