-- ==== Sys2Proof/Machine/Operands.lean ====
section
/-! DEFINITION. Operand forms: sources that are empty or marked trap-on-empty (R12, R27), guards (R25), results
of pipelined vector instructions that are still being written (R159), handles, vector registers, holds. -/

namespace Sys2Proof.Machine

/-- The classes of registers with empty bits (R10). -/
inductive RegClass where
  | s | h | v
  deriving DecidableEq, Repr

/-- A register an instruction reads or writes, and whether a T bit marks it (R27). -/
structure Src where
  cls : RegClass
  reg : Nat
  t   : Bool := false
  deriving DecidableEq, Repr

def srcS (r : Reg) (t : Bool := false) : Src := ⟨.s, r.toNat, t⟩
def srcH (r : Reg) (t : Bool := false) : Src := ⟨.h, r.toNat, t⟩
def srcV (r : Reg) (t : Bool := false) : Src := ⟨.v, r.toNat, t⟩

/-- The register is empty (R12). -/
def State.regEmpty (s : State) (q : Seqr) (x : Src) : Bool :=
  match x.cls with
  | .s => (s.prog q).isEmptyS x.reg
  | .h => (s.thread q).hEmpty.getLsbD x.reg
  | .v => (s.thread q).vEmpty.getLsbD x.reg

/-- The register is still being written by an earlier pipelined vector instruction of the program (R159). -/
def State.regBusy (s : State) (q : Seqr) (x : Src) : Bool :=
  match q with
  | .vec c k => (s.slot c k).results.any (fun r => !r.long && r.isVec == (x.cls == .v) && r.reg == x.reg && x.cls != .h)
  | _ => false

/-- The sources and destinations an instruction needs at issue: a T-marked empty source traps EMPTY, the first of
them in order (R27); any other empty or busy register stalls (R12, R159); `none` when all are ready. -/
def State.need (s : State) (q : Seqr) (srcs dests : List Src) : Option Res :=
  match srcs.find? (fun x => x.t && s.regEmpty q x) with
  | some x => some (.trap .empty (BitVec.ofNat 64 x.reg))
  | none => if (srcs ++ dests).any (fun x => s.regEmpty q x || s.regBusy q x) then some .stall else none

/-- Run a body once its registers are ready. -/
def State.ready (s : State) (q : Seqr) (srcs dests : List Src) (body : Res) : Res :=
  (s.need q srcs dests).getD body

/-- The predicate of a scalar guard (R25). -/
def guardHolds (l : LW) (v : DWord) : Bool := v.getLsbD l.gbit.toNat != l.n

/-- A guarded scalar instruction: an empty guard register blocks, a false predicate makes it retire without effect
(R25). -/
def guarded (l : LW) (q : Seqr) (s : State) (body : Res) : Res :=
  if l.g then
    s.ready q [srcS l.greg] []
      (if guardHolds l (s.getS q l.greg) then body else .retire s)
  else body

/-- A hold of the running program for `n` clocks from issue (R53, R87). -/
def State.holdFor (s : State) (q : Seqr) (n : Nat) : State :=
  let p := s.prog q
  s.setProg q { p with hold := some (.clock (s.now + n)) }

/-- Hold the running program on a condition. -/
def State.holdOn (s : State) (q : Seqr) (h : Hold) : State :=
  let p := s.prog q
  s.setProg q { p with hold := some h }

/-- Read h_n of the thread (R10). -/
def State.getH (s : State) (q : Seqr) (r : Reg) : HReg := SMap.get 0 (s.thread q).h r.toNat
def State.setH (s : State) (q : Seqr) (r : Reg) (v : HReg) : State :=
  let t := s.thread q
  s.setThread q { t with h := SMap.set t.h r.toNat v }
/-- Read v_n of the forking thread (R158). -/
def State.getV (s : State) (q : Seqr) (r : Reg) : VReg := SMap.get 0 (s.thread q).v r.toNat
def State.setV (s : State) (q : Seqr) (r : Nat) (v : VReg) : State :=
  let t := s.thread q
  s.setThread q { t with v := SMap.set t.v r v }

/-- The rounding mode of an instruction, DYN being the thread's `frm` (R26, R144). -/
def State.rm (s : State) (q : Seqr) (f : BitVec 3) : Rm := Rm.resolve f (s.thread q).frm

/-- OR flags into the thread's `fsr` (R18). -/
def State.orFsr (s : State) (q : Seqr) (f : Flags) : State :=
  let t := s.thread q
  s.setThread q { t with fsr := f.orInto t.fsr }

/-- The pc of the running program. -/
def State.pcOf (s : State) (q : Seqr) : DWord := (s.prog q).pc

/-- Draw a free value's number and advance the counter (log entry 4). -/
def State.draw (s : State) : Nat × State := (s.draws, { s with draws := s.draws + 1 })

end Sys2Proof.Machine
end

