-- ==== Sys2Proof/Machine/Control.lean ====
section
/-! DEFINITION. Transfers and hardware loops (R65–R74), token FIFOs (R75–R79), control registers (R17–R19, R80–R82,
R348), `NOP` and `TRAP` (R83, R84), undefined words (R40) and the events of tokens and traps. -/

namespace Sys2Proof.Machine

/-- `PBR`: the target is relative to its own word, modulo 2^17 (R65). -/
def execPbr (d : Reg) (imm18 : BitVec 18) (s : State) : Out :=
  issue s 1 .any fun q s =>
    .retire (s.setProg q ((s.prog q).setB d.toNat (s.pcOf q + (sx64 imm18 <<< 2))))

/-- `PBRR`: an address beyond 17 bits or not of a word traps CFI (R66). -/
def execPbrr (d a : Reg) (s : State) : Out :=
  issue s 1 .any fun q s =>
    s.ready q [srcS a] []
      (let v := s.getS q a
       if v >>> 17 ≠ 0 ∨ v &&& 3 ≠ 0 then .trap .cfi v
       else .retire (s.setProg q ((s.prog q).setB d.toNat v)))

/-- The address that follows a transfer's second delay slot, from the MOPs of the slots (R69). Where the first slot's length would
cross its line, an address the spec does not give, the second slot is taken to stand that many words on; a slot beyond the instruction
memory counts as one word (DESIGN CHOICE, log entry 54). -/
def State.afterSlots (s : State) (q : Seqr) : DWord :=
  let a1 := seqNext (s.pcOf q) 1
  let a2 := seqNext a1 (s.mopLen q a1)
  seqNext a2 (s.mopLen q a2)

/-- A transfer executes: it fixes its destination and whether it is taken (R67); an untaken one goes on after its
second slot. -/
def State.startXfer (s : State) (q : Seqr) (kind : XKind) (dest : DWord) (taken : Bool) : Res :=
  .xfer s { kind := kind, xaddr := s.pcOf q, dest := if taken then dest else s.afterSlots q, taken := taken, slots := 2 }

/-- A conditional branch on bit k of a (R67). -/
def branchOn (d a fn : Reg) (want : Bool) (s : State) : Out :=
  issue s 1 .xfer fun q s =>
    s.ready q [srcS a] []
      (s.startXfer q .br (zx64 ((s.prog q).getB d.toNat)) ((s.getS q a).getLsbD fn.toNat == want))

def execBrx (d a fn : Reg) (s : State) : Out := branchOn d a fn true s
def execBrxn (d a fn : Reg) (s : State) : Out := branchOn d a fn false s
def execBr (d : Reg) (s : State) : Out :=
  issue s 1 .xfer fun q s => s.startXfer q .br (zx64 ((s.prog q).getB d.toNat)) true
/-- `CALL`: the link is written when it executes (R69). -/
def execCall (d : Reg) (s : State) : Out :=
  issue s 1 .xfer fun q s =>
    s.ready q [] [srcS 63]
      ((s.setS q 63 (s.afterSlots q)).startXfer q .call (zx64 ((s.prog q).getB d.toNat)) true)
/-- `RET`: the destination is s63 (R67, R69). -/
def execRet (s : State) : Out :=
  issue s 1 .xfer fun q s => s.ready q [srcS 63] [] (s.startXfer q .ret (s.getS q 63) true)

/-- Arm loop counter N, or skip the body when the count is 0 (R71). -/
def State.armLoop (s : State) (q : Seqr) (n : Nat) (count : BitVec 32) (start stop : DWord) : Res :=
  let p := s.prog q
  if count = 0 then .goto s stop
  else
    .retire (s.setProg q { p with loops :=
      { lc := SMap.set p.loops.lc n { count := count, start := start, stop := stop }
        order := n :: p.loops.order.filter (· != n) } })

/-- A `LOOP` whose end would fall on a header word traps ILLEGAL at decode, before check 7 (R35, R71). -/
def loopEndIllegal (stop : DWord) : Bool := stop.toNat / 4 % 32 < 2

/-- Issue a loop instruction: the end's own decode check, then the rest (R71). -/
def issueLoop (s : State) (len : Nat) (imm : BitVec 12) (body : Seqr → DWord → State → Res) : Out :=
  let p := s.prog s.cur
  let stop := p.pc + BitVec.ofNat 64 (4 * imm.toNat)
  if loopEndIllegal stop then .next (({ s with stalled := false } : State).raise s.cur ⟨.illegal, p.pc, p.pc, p.pend⟩)
  else issue s len .loop fun q s => body q stop s

def execLoop (d a : Reg) (imm : BitVec 12) (s : State) : Out :=
  issueLoop s 1 imm fun q stop s =>
    s.ready q [srcS a] [] (s.armLoop q d.toNat ((s.getS q a).setWidth 32) (seqNext (s.pcOf q) 1) stop)
def execLoopi (d : Reg) (imm : BitVec 12) (imm32 : Word) (s : State) : Out :=
  issueLoop s 2 imm fun q stop s => s.armLoop q d.toNat imm32 (seqNext (s.pcOf q) 2) stop

/-! ### Token FIFOs (R75–R79) -/

def State.fifo (s : State) (q : Seqr) (n : Nat) : Fifo := SMap.get {} (s.thread q).fifos n
def State.setFifo (s : State) (q : Seqr) (n : Nat) (f : Fifo) : State :=
  let t := s.thread q
  s.setThread q { t with fifos := SMap.set t.fifos n f }

/-- A token that enters a FIFO ends the thread's sleep (R363). -/
def State.wake (s : State) (c x : Nat) : State :=
  let t := s.ctx c x
  match t.prog.hold with
  | some (.sleep _) => s.setCtx c x { t with prog := { t.prog with hold := none } }
  | _ => s

/-- An Arcade program has scratchpad accesses still to make (R79, R300). -/
def State.aspPending (s : State) (q : Seqr) : Bool :=
  match q with
  | .arc c => !(s.arc c).loads.isEmpty
  | _ => false

/-- `TOK.SEND`: a FIFO of 16 tokens stalls the sender (R76), and so does an earlier scratchpad access that is still to come (R79): one of an
Arcade program, or the fill of a stream claim (R209). That the line of an `LDL` is none, which other agents see after a `FENCE` alone (R228),
is the model's reading (DESIGN CHOICE, log entry 67). -/
def execTokSend (a fn : Reg) (s : State) : Out :=
  issue s 1 .any fun q s =>
    s.ready q [srcS a] []
      (let f := s.fifo q fn.toNat
       if 16 ≤ f.tokens.length ∨ s.aspPending q ∨ s.streamClaim q then .stall
       else .retire ((s.setFifo q fn.toNat { f with tokens := f.tokens ++ [s.getS q a] }).wake q.core (s.ownerCtx q)))

/-- `TOK.RECV`: claims the oldest unclaimed token and marks d empty; 16 unfilled claims stall (R77). -/
def execTokRecv (d fn : Reg) (s : State) : Out :=
  issue s 1 .any fun q s =>
    s.ready q [] [srcS d]
      (let f := s.fifo q fn.toNat
       if 16 ≤ (f.claims.filter (fun c => decide (c.owner = q))).length then .stall
       else
         let s1 := s.setFifo q fn.toNat { f with claims := f.claims ++ [⟨q, d.toNat⟩] }
         .retire (s1.setProg q ((s1.prog q).markEmpty d.toNat)))

/-- `TOK.POLL`: tokens present and not claimed (R78). The state of the FIFO never stalls it; while an earlier result is still to land in
d it waits as every write of an empty register does (R12): that R78's "never stalls" leaves that wait is the model's choice (DESIGN
CHOICE, log entry 54). -/
def execTokPoll (d fn : Reg) (s : State) : Out :=
  issue s 1 .any fun q s =>
    s.ready q [] [srcS d]
      (let f := s.fifo q fn.toNat
       .retire (s.setS q d (BitVec.ofNat 64 (f.tokens.length - f.claims.length))))

/-- TOKEN_DELIVERY: the oldest claim of a FIFO takes its oldest token, which fills the claiming register (R77). -/
def execTokenDelivery (s : State) : Out :=
  let q0 := Seqr.thread s.target.core s.target.unit
  let f := s.fifo q0 s.target.id
  match f.tokens, f.claims with
  | v :: ts, c :: cs =>
    let s1 := s.setFifo q0 s.target.id { tokens := ts, claims := cs }
    .next (s1.setProg c.owner ((s1.prog c.owner).fillS c.reg v))
  | _, _ => .next s

/-! ### Control registers -/

/-- Read a control register of a thread; none where no register has the number (R17, R348). -/
def Ctx.readCreg (t : Ctx) (core ctx pcore now : Nat) (n : Nat) : Option DWord :=
  match n with
  | 0x00 => some (BitVec.ofNat 64 (tidOf core ctx))
  | 0x01 => some (BitVec.ofNat 64 core)
  | 0x02 => some (BitVec.ofNat 64 pcore)
  | 0x03 => some (BitVec.ofNat 64 t.prio)
  | 0x04 => some (zx64 t.frm)
  | 0x05 => some t.fsr
  | 0x06 => some t.fte
  | 0x07 => some (BitVec.ofNat 64 t.mode)
  | 0x08 => some t.tvec
  | 0x09 => some t.tcause
  | 0x0A => some t.tval
  | 0x0B => some t.tpc
  | 0x0C => some t.tstate
  | 0x0D => some t.tapebase
  | 0x0E => some t.tapelim
  | 0x0F => some t.tapeptr
  | 0x10 => some t.pinquota
  | 0x11 => some t.tseed
  | 0x12 => some (BitVec.ofNat 64 (now - t.cycleBase))
  | 0x13 => some t.instret
  | 0x80 => some t.mcause
  | 0x81 => some t.mval
  | 0x82 => some t.mpc
  | 0x83 => some t.mstate
  | 0x84 => some t.mmode
  | _ => none

/-- The registers of level M alone (R17, R348). -/
def cregIsM (n : Nat) : Bool := n == 0x10 || (0x80 ≤ n && n ≤ 0x84)

/-- The registers that a vector or Arcade program may not write (R82). -/
def cregForkRo (n : Nat) : Bool :=
  n == 0x03 || (0x08 ≤ n && n ≤ 0x0C) || n == 0x0E || n == 0x10

/-- Write a control register; none where it is read-only, has no such number or refuses the value (R17, R18, R81,
R331, R348). -/
def Ctx.writeCreg (t : Ctx) (n : Nat) (v : DWord) : Option Ctx :=
  match n with
  | 0x03 => if v.toNat ≤ 11 then some { t with prio := v.toNat } else none
  | 0x04 => if v.toNat % 8 ≤ 4 then some { t with frm := v.setWidth 3 } else none
  | 0x05 => some { t with fsr := v &&& 0xFF }
  | 0x06 => some { t with fte := v &&& 0xFF }
  | 0x08 => some { t with tvec := v }
  | 0x09 => some { t with tcause := v &&& 0xFF }
  | 0x0A => some { t with tval := v }
  | 0x0B => some { t with tpc := v }
  | 0x0C => some { t with tstate := v &&& xferMask }
  | 0x0E => if v >>> 56 ≠ 0 ∨ v &&& 0xF ≠ 0 then none else some { t with tapelim := v }
  | 0x10 => some { t with pinquota := v }
  | 0x11 => some { t with tseed := v }
  | 0x80 => some { t with mcause := v &&& 0xFF }
  | 0x81 => some { t with mval := v }
  | 0x82 => some { t with mpc := v }
  | 0x83 => some { t with mstate := v &&& xferMask }
  | 0x84 => if v.getLsbD 2 then none else some { t with mmode := v &&& 3 }
  | _ => none

/-- An access of the thread whose flags reach `fsr` when its result lands (R18). -/
def Acc.writesFlags (a : Acc) : Bool :=
  match a.kind with
  | .gamo _ _ op _ _ _ _ _ _ => !a.performed && (op == 1 || op == 2)
  | .adjAdd _ _ _ => !a.performed
  | .adjTake _ _ _ _ => !a.performed
  | .adjRead _ _ _ _ => !a.performed
  | .restore _ _ _ => !a.done
  | .restoreLine _ => !a.done
  | _ => false

/-- An `MFC` or `MTC` of `fsr` waits for the flags of earlier instructions of its own program (R18). An Arcade program's waits for its bundles in
flight, whose flags come when they land (R298), though R18 does not list them (DESIGN CHOICE, log entry 78). -/
def State.flagsPending (s : State) (q : Seqr) : Bool :=
  match q with
  | .thread c x => (s.ctx c x).accs.any Acc.writesFlags
  | .vec c k => (s.slot c k).results.any (fun r => r.long)
  | .arc c => !(s.arc c).results.isEmpty

/-- `MFC` (R17, R80, R82). `pinquota`, which R17 gives level M alone, traps ILLEGAL for a forked program of a thread at level U too,
though R82 says that it remains readable there. A forked program's access to the monitor record is judged by the mode that its thread is in now
(DESIGN CHOICE, log entry 54). -/
def execMfc (d : Reg) (imm : BitVec 12) (s : State) : Out :=
  issue s 1 .any fun q s =>
    s.ready q [] [srcS d]
      (let t := s.thread q
       let n := imm.toNat % 256
       if cregIsM n && !t.modeM then .trap .illegal (s.pcOf q)
       else if n = 5 ∧ s.flagsPending q then .stall
       else match t.readCreg q.core (s.ownerCtx q) (s.pcore q.core) s.now n with
         | some v => .retire (s.setS q d v)
         | none => .trap .illegal (s.pcOf q))

/-- `MTC` (R8, R17, R18, R81, R82). A forked program's access to the monitor record is judged by the mode that its thread is in now (DESIGN
CHOICE, log entry 54). -/
def execMtc (a : Reg) (imm : BitVec 12) (s : State) : Out :=
  issue s 1 .any fun q s =>
    s.ready q [srcS a] []
      (let t := s.thread q
       let n := imm.toNat % 256
       if cregIsM n && !t.modeM || q.isFork && cregForkRo n then .trap .illegal (s.pcOf q)
       else if n = 5 ∧ s.flagsPending q then .stall
       else match t.writeCreg n (s.getS q a) with
         | some t' => .retire (s.setThread q t')
         | none => .trap .illegal (s.pcOf q))

/-! ### `NOP`, `TRAP`, undefined words and the trap events -/

def execNop (s : State) : Out := issue s 1 .any fun _ s => .retire s

/-- `TRAP`: it retires and counts, then traps TRAPI; `tpc` is the next address after the loop-end check (R84, R99). -/
def execTrap (imm24 : BitVec 24) (s : State) : Out :=
  issue s 1 .any fun q s =>
    let s1 := s.countRetired q
    let p := (s1.prog q).advanceTrap (seqNext (s.pcOf q) 1)
    let s2 := s1.setProg q { p with pend := none }
    .trapAt s2 .trapi (zx64 imm24) p.pc p.pend

/-- UNDEFINED_MOP: a word that begins no defined instruction traps, with the cause, `tval` and `tpc` that the
failing check of R35 gives. -/
def execUndefinedMop (cause : Cause) (tval tpc : DWord) (s : State) : Out :=
  .next (({ s with stalled := false } : State).raise s.cur ⟨cause, tval, tpc, (s.prog s.cur).pend⟩)

/-- TRAP_ENTRY: a thread's standing trap is entered once its results have landed (R100). -/
def execTrapEntry (s : State) : Out := .next (s.tryTrap (.thread s.target.core s.target.unit))
/-- VECTOR_TRAP: a vector program's standing trap ends it once it has drained (R166). -/
def execVectorTrap (s : State) : Out := .next (s.tryTrap (.vec s.target.core s.target.unit))
/-- ARCADE_TRAP: the Arcade program's standing trap ends it once it has drained (R305). -/
def execArcadeTrap (s : State) : Out := .next (s.tryTrap (.arc s.target.core))

/-- PROGRAM_END: a program that returned to the exit link ends once no result of its own is in flight and none has raised a trap (R117,
R166, R305); unit 0–3 is a vector slot, 4 the Arcade. -/
def execProgramEnd (s : State) : Out :=
  let q := if s.target.unit < 4 then Seqr.vec s.target.core s.target.unit else .arc s.target.core
  let p := s.prog q
  if p.ending && p.trapping.isNone && s.drained q then .next (s.endProgram q false none) else .next s

/-- One register of an `ASP.LD` or `ASP.ST`: its value half, its adjoint half, or both, as a number (R300). -/
def Arc.halves (a : Arc) (half r : Nat) : Nat :=
  let v := (SMap.get (0 : Word) a.pv r).toNat
  let d := (SMap.get (0 : Word) a.pa r).toNat
  match half with
  | 0 => v
  | 1 => d
  | _ => v + 2 ^ 32 * d

/-- Bytes of a register under a half code (R300). -/
def halfBytes (half : Nat) : Nat := if half = 2 then 8 else 4

/-- The access of an `ASP.ST` (R300). -/
def State.aspStore (s : State) (c first n addr half : Nat) : State :=
  let k := s.core c
  s.setCore c { k with spad := (List.range n).foldl (fun m i =>
    m.writeN (addr + i * halfBytes half) (halfBytes half) (k.arc.halves half (first + i))) k.spad }

/-- HOLD_COUNT_EXPIRY: a hold of a fixed number of clocks ends, and an `ASP.ST` makes its access (R53, R87, R300); unit 0–23 is a thread, 24–27 a vector slot,
28 the Arcade. -/
def execHoldCountExpiry (s : State) : Out :=
  let c := s.target.core
  let q := if s.target.unit < 24 then Seqr.thread c s.target.unit
           else if s.target.unit < 28 then .vec c (s.target.unit - 24) else .arc c
  let p := s.prog q
  match p.hold with
  | some (.clock t) => if t ≤ s.now then .next (s.setProg q { p with hold := none }) else .next s
  | some (.aspSt t f n a half) =>
    if t ≤ s.now ∧ ¬ s.aspPending q then .next ((s.setProg q { p with hold := none }).aspStore c f n a half) else .next s
  | _ => .next s

end Sys2Proof.Machine
end

