-- ==== Sys2Proof/Machine/Fetch.lean ====
section
/-! DEFINITION. Fetching a sequencer's next instruction: the checks of R35 in order, on the line header, the
transfer's marks, the MOP, the START bits and the fields (R29–R33, R35). -/

namespace Sys2Proof.Machine

/-- What a fetch gives: an instruction, or the trap of the first check that fails. -/
inductive Fetched where
  | ok (i : Instr)
  | bad (c : Cause) (tval tpc : DWord)
  deriving DecidableEq, Repr

/-- `tval` of a CFI trap at an entry: the transferring instruction, the `FORK`, the address itself in sequential
flow (R29); for a launch entry the spec names none, and it is a free value (log entry 6). -/
def cfiVal (a : Arrive) (pc free : DWord) : DWord :=
  match a with
  | .plain => pc
  | .checked x => x.xaddr
  | .untaken _ => pc
  | .fork f => f
  | .launch => free

/-- The arrival is a checked transfer (R32). -/
def Arrive.isChecked : Arrive → Bool
  | .plain => false
  | .untaken _ => false
  | _ => true

/-- The distance in words from word `w` of a line to the next START-marked word, or to word 32: the first of the
distances 1 to `32 - w` at which the word is marked (R31). -/
def startDistance (start : Word) (w : Nat) : Nat :=
  ((List.range (31 - w)).find? (fun k => start.getLsbD (w + 1 + k - 2))).elim (32 - w) (· + 1)

/-- A fetch meets a damaged word: the pair of words at a byte address has an uncorrectable error (R30). The monitor's code lies in no
memory of the core. -/
def State.wordBad (s : State) (q : Seqr) (a : Nat) : Bool :=
  !s.atM q && (s.core q.core).badWords.any (fun b => decide (b.1 = q.imem) && b.2 / 2 == a / 4 / 2)

/-- The words that the instruction at a byte address needs: as many as its MOP implies, none of another line (R31, R35; log entry 48). -/
def State.neededWords (s : State) (q : Seqr) (a : Nat) : Nat :=
  let w := a / 4 % 32
  if w < 2 then 1 else min ((mopLength q.imem (s.iword q a).fMop.toNat).getD 1) (32 - w)

/-- The damage that check 1 of R35 finds: in the line's header, or in a word that the instruction needs. -/
def State.fetchBad (s : State) (q : Seqr) (a : Nat) : Bool :=
  s.wordBad q (a / 128 * 128) || (List.range (s.neededWords q a)).any (fun k => s.wordBad q (a + 4 * k))

/-- Fetch the instruction at the sequencer's pc (R35); `free` is the value the spec leaves open. An unchecked arrival, which `TRET` and
`CREST` can make at any address (R29, R102), has no cause in the spec for an address that is not a multiple of 4: it traps ILLEN with
`tval` and `tpc` that address. A checked arrival there, a fork's too, traps CFI as R69 has it for `RET`, and every such arrival traps before
checks 1 and 2 (DESIGN CHOICE, log entry 54). -/
def State.fetch (s : State) (q : Seqr) (free : DWord) : Fetched :=
  let p := s.prog q
  let pc := p.pc
  let a := pc.toNat
  let ln := a / 128 * 128
  let w := a / 4 % 32
  if q.imem.bytes ≤ a then .bad .cfi (cfiVal p.arrive pc free) pc
  else if a % 4 ≠ 0 then
    if p.arrive.isChecked then .bad .cfi (cfiVal p.arrive pc free) pc else .bad .illen pc pc
  else if s.fetchBad q a then .bad .eccu (BitVec.ofNat 64 ln) pc
  else if s.lineKind q a ≠ 0 ∨ (s.iword q (ln + 4)).toNat / 2 ^ 30 ≠ 0 then .bad .illegal (BitVec.ofNat 64 ln) pc
  else if p.arrive.isChecked && !(s.startBit q a && s.targetBit q a) then .bad .cfi (cfiVal p.arrive pc free) pc
  else if w < 2 then .bad .illen pc pc
  else
    match mopLength q.imem (s.iword q a).fMop.toNat with
    | none => .bad .illegal pc pc
    | some n =>
      let hdr := s.iword q ln
      if !(hdr.getLsbD 0) || !(s.startBit q a) || startDistance hdr w != n then .bad .illen pc pc
      else
        match decode q.imem ((List.range n).map (fun k => s.iword q (a + 4 * k))) with
        | .ok i => .ok i
        | .error _ => .bad .illegal pc pc

/-- Move past an instruction in a line is `seqNext`; the words of the line from an address on are these. -/
def State.lineWords (s : State) (q : Seqr) (a : Nat) : List Word :=
  (List.range (32 - a / 4 % 32)).map (fun k => s.iword q (a + 4 * k))

end Sys2Proof.Machine
end

