-- ==== Sys2Proof/Machine/Async.lean ====
section
/-! DEFINITION. Asynchronous causes (R345–R347, R355) and the placing of one instruction word for the host's
probe. -/

namespace Sys2Proof.Machine

/-- The order in which pending causes are taken (R345). -/
def asyncRank : Cause → Nat
  | .preempt => 0 | .timer => 1 | .eccu => 2 | .msgovf => 3 | .engfault => 4 | .digest => 5
  | _ => 6

/-- A pending cause that the thread's mode lets through: none waits at level M, and only PREEMPT and TIMER are taken
in a handler (R345). -/
def Ctx.takes (t : Ctx) (c : Cause) : Bool :=
  !t.modeM && (!t.modeH || c == .preempt || c == .timer)

/-- The causes pending for a thread, ENGFAULT while its failed-item FIFO is not empty (R346). -/
def Ctx.pendingCauses (t : Ctx) : List AsyncCause :=
  t.async ++ (match t.failed with
    | [] => []
    | n :: _ => [⟨.engfault, BitVec.ofNat 64 n⟩])

/-- The first pending cause that can be taken, in the order of R345. -/
def Ctx.nextAsync (t : Ctx) : Option AsyncCause :=
  (t.pendingCauses.filter (fun a => t.takes a.cause)).foldl
    (fun m a => match m with
      | none => some a
      | some b => if asyncRank a.cause < asyncRank b.cause then some a else some b) none

/-- A thread at a boundary has a pending cause to take (R345); forked programs take none. -/
def State.hasAsync (s : State) (q : Seqr) : Bool :=
  match q with
  | .thread c x => (s.ctx c x).nextAsync.isSome
  | _ => false

/-- A pending cause makes a sleeping thread resume (R363). -/
def State.post (s : State) (c x : Nat) (a : AsyncCause) : State :=
  let t := s.ctx c x
  (s.setCtx c x { t with async := t.async ++ [a] }).wake c x

/-- The context raises causes: it is live, and its thread has not ended (R346). -/
def Ctx.raises (t : Ctx) : Bool :=
  t.live && (match t.prog.hold with
    | some .ended => false
    | _ => true)

/-- MSGOVF is pending in a context of the logical core, or in one that is saved (R347). -/
def Core.overflowPending (k : Core) : Bool :=
  k.ctxs.any (fun e => e.2.async.any (fun a => a.cause == .msgovf))
    || k.savedCtxs.any (fun e => e.2.async.any (fun a => a.cause == .msgovf))

/-- A nack not yet reported makes MSGOVF pending in the lowest-numbered live context, where it is pending in none (R347). Of a thread that
ends with it pending it passes to that context, and without a live context it stands until there is one (DESIGN CHOICE, log entry 68). -/
def State.postOverflow (s : State) (c : Nat) : State :=
  match (s.core c).ovf with
  | none => s
  | some v =>
    if (s.core c).overflowPending then s
    else match (s.core c).ctxs.find? (fun e => e.2.raises) with
      | none => s
      | some (x, _) => s.post c x ⟨.msgovf, v⟩

/-- With MSGOVF taken, the next nack is the first since (R347). -/
def State.overflowTaken (s : State) (c : Nat) (a : AsyncCause) : State :=
  if a.cause = .msgovf then s.setCore c { s.core c with ovf := none } else s

/-- The cause leaves the pending ones: ENGFAULT takes its number from the FIFO (R346). -/
def Ctx.dropAsync (t : Ctx) (a : AsyncCause) : Ctx :=
  if a.cause = .engfault then { t with failed := t.failed.drop 1 }
  else { t with async := t.async.erase a }

/-- The holds at which a thread stands at a boundary: sleep and a barrier's wait (R345). -/
def Hold.atBoundary : Hold → Bool
  | .sleep _ => true
  | .barrier _ _ => true
  | _ => false

/-- ASYNC_CAUSE_TAKEN: the thread takes its first pending cause at a boundary; `tpc` is the next instruction's
address, and the pending transfer is recorded as for `TRAP`: with SLOTS = 0 after a second delay slot (R98, R345). -/
def execAsyncCauseTaken (s : State) : Out :=
  let c := s.target.core
  let x := s.target.unit
  let t := s.ctx c x
  let atB := match t.prog.hold with
    | none => true
    | some h => h.atBoundary
  match t.nextAsync with
  | none => .next s
  | some a =>
    if t.live && atB && t.prog.trapping.isNone && !s.away.contains c && !s.board.stopped then
      let u := t.dropAsync a
      let s1 := s.setCtx c x { u with prog := { u.prog with hold := none } }
      .next ((s1.overflowTaken c a).raise (.thread c x) ⟨a.cause, a.val, t.prog.pc, t.prog.pendAt⟩)
    else .next s

/-- A line whose START marks an instruction of `n` words at word 2 and the words after it one by one, TARGET at
word 2. -/
def probeStart (n : Nat) : Word := BitVec.ofNat 32 (2 ^ 30 - 1 - (2 ^ n - 2))

/-- The words of line 0 with an instruction at word 2 (R31). -/
def probeLine (n : Nat) (ws : List Word) : SMap Word :=
  (0, probeStart n) :: (1, 1#32) :: (ws.take n).mapIdx (fun i w => (i + 2, w))
    ++ (List.range (30 - n)).map (fun i => (i + 2 + n, 0x01000000#32))

/-- Place one instruction of the opcode table at word 2 of line 0 of the memory it belongs to, with context 0 of
logical core 0 live, and a vector program in slot 0 or the Arcade's program where the memory is theirs; the next
turn of the agenda issues it. This stands for the boot, the launch and the fork that bring a program there
(log entry 8). -/
def State.placeWord (s : State) (nbits w : Nat) : State :=
  let m := tableMem nbits w
  let ws := tableWords nbits w
  let n := (mopLength m (ws.headD 0).fMop.toNat).getD 1
  let k := s.core 0
  let t := s.ctx 0 0
  match m with
  | .control =>
    { s.setCore 0 { k with imemC := probeLine n ws,
                           ctxs := SMap.set k.ctxs 0 { t with live := true, prog := { t.prog with pc := 8 } } } with
      agenda := [.issue (.thread 0 0)] }
  | .vector =>
    { s.setCore 0 { k with imemV := probeLine n ws,
                           ctxs := SMap.set k.ctxs 0 { t with live := true, forkV := .running },
                           slots := SMap.set k.slots 0 { owner := some 0, prog := { pc := 8 } } } with
      agenda := [.issue (.vec 0 0)] }
  | .arcade =>
    { s.setCore 0 { k with imemA := probeLine n ws,
                           ctxs := SMap.set k.ctxs 0 { t with live := true, forkA := .running },
                           arc := { k.arc with owner := some 0, prog := { pc := 8 } } } with
      agenda := [.issue (.arc 0)] }

end Sys2Proof.Machine
end

