-- ==== Sys2Proof/Machine/Spad.lean ====
section
/-! DEFINITION. Scratchpad access by the control core, local atomics and handles (R85–R96), and the return from a
trap (R102, R349). -/

namespace Sys2Proof.Machine

/-- The highest scratchpad address (R21). -/
def spadTop : Nat := 0xBFFFF

/-- The checks of R85 on an effective address of `size` bytes. -/
def spadCheck (ea : DWord) (size : Nat) : Option (Cause × DWord) :=
  if ea.toNat % size ≠ 0 then some (.align, ea)
  else if spadTop < ea.toNat + size - 1 then some (.spbound, ea)
  else none

/-- The scratchpad line that a pending `LDL` or reverse-mode `STL` still has to write (R228, R231). -/
def Acc.line (a : Acc) : Option Nat :=
  match a.kind with
  | .ldl sp => some (sp / 128)
  | .line sp _ => if a.done then none else some (sp / 128)
  | _ => none

/-- A scratchpad access of the thread that touches a line still to be written stalls (R228). -/
def State.lineBusy (s : State) (q : Seqr) (ea size : Nat) : Bool :=
  match q with
  | .thread c x => (s.ctx c x).accs.any (fun a => match a.line with
      | some l => decide (ea / 128 ≤ l) && decide (l ≤ (ea + size - 1) / 128)
      | none => false)
  | _ => false

/-- Scratchpad bytes of the sequencer's core. -/
def State.spadRead (s : State) (q : Seqr) (ea n : Nat) : Nat := (s.core q.core).spad.readN ea n
def State.spadWrite (s : State) (q : Seqr) (ea n x : Nat) : State :=
  let k := s.core q.core
  s.setCore q.core { k with spad := k.spad.writeN ea n x }

/-- An access that passes R85's checks and waits for no pending line runs its body. -/
def State.spadAccess (s : State) (q : Seqr) (ea : DWord) (size : Nat) (body : Res) : Res :=
  match spadCheck ea size with
  | some (c, v) => .trap c v
  | none => if s.lineBusy q ea.toNat size then .stall else body

/-- A scalar load of `size` bytes, extended by `ext` (R89). -/
def load (s : State) (d a : Reg) (imm : BitVec 12) (size : Nat) (ext : Nat → DWord) : Out :=
  issue s 1 .any fun q s =>
    s.ready q [srcS a] [srcS d]
      (let ea := s.getS q a + sx64 imm
       s.spadAccess q ea size (.retire (s.setS q d (ext (s.spadRead q ea.toNat size)))))

/-- A scalar store of the low `size` bytes of d (R89). -/
def store (s : State) (d a : Reg) (imm : BitVec 12) (size : Nat) : Out :=
  issue s 1 .any fun q s =>
    s.ready q [srcS a, srcS d] []
      (let ea := s.getS q a + sx64 imm
       s.spadAccess q ea size (.retire (s.spadWrite q ea.toNat size (s.getS q d).toNat)))

/-- Sign extension of a w-bit number to 64 bits. -/
def sextN (w x : Nat) : DWord := BitVec.ofInt 64 (signedOf w x)
/-- Zero extension of a w-bit number to 64 bits. -/
def zextN (w x : Nat) : DWord := BitVec.ofNat 64 (x % 2 ^ w)

def execLdB (d a : Reg) (imm : BitVec 12) (s : State) : Out := load s d a imm 1 (sextN 8)
def execLdBn (d a : Reg) (imm : BitVec 12) (s : State) : Out := load s d a imm 1 (zextN 8)
def execLdH (d a : Reg) (imm : BitVec 12) (s : State) : Out := load s d a imm 2 (sextN 16)
def execLdHn (d a : Reg) (imm : BitVec 12) (s : State) : Out := load s d a imm 2 (zextN 16)
def execLdW (d a : Reg) (imm : BitVec 12) (s : State) : Out := load s d a imm 4 (sextN 32)
def execLdWn (d a : Reg) (imm : BitVec 12) (s : State) : Out := load s d a imm 4 (zextN 32)
def execLdD (d a : Reg) (imm : BitVec 12) (s : State) : Out := load s d a imm 8 (zextN 64)
def execStB (d a : Reg) (imm : BitVec 12) (s : State) : Out := store s d a imm 1
def execStH (d a : Reg) (imm : BitVec 12) (s : State) : Out := store s d a imm 2
def execStW (d a : Reg) (imm : BitVec 12) (s : State) : Out := store s d a imm 4
def execStD (d a : Reg) (imm : BitVec 12) (s : State) : Out := store s d a imm 8

/-- `LD.Q`: the pair (d, d + 1) (R90). -/
def execLdQ (d a : Reg) (imm : BitVec 12) (s : State) : Out :=
  issue s 1 .any fun q s =>
    s.ready q [srcS a] [srcS d, srcS (d + 1)]
      (let ea := s.getS q a + sx64 imm
       s.spadAccess q ea 16
         (.retire ((s.setS q d (zextN 64 (s.spadRead q ea.toNat 8))).setS q (d + 1) (zextN 64 (s.spadRead q (ea.toNat + 8) 8)))))

/-- `ST.Q`: the pair (d, d + 1) (R90). -/
def execStQ (d a : Reg) (imm : BitVec 12) (s : State) : Out :=
  issue s 1 .any fun q s =>
    s.ready q [srcS a, srcS d, srcS (d + 1)] []
      (let ea := s.getS q a + sx64 imm
       s.spadAccess q ea 16
         (.retire (s.spadWrite q ea.toNat 16 ((s.getS q d).toNat + 2 ^ 64 * (s.getS q (d + 1)).toNat))))

/-- The new value of an atomic on `w` bits: operation codes 0 add, 1 and, 2 or, 3 xor, 4 min, 5 max, 6 swap, 7 cas,
comparing signed or unsigned (R91, R229). -/
def atomicNew (op w : Nat) (signed : Bool) (old x cmp : Nat) : Nat :=
  let v (n : Nat) : Int := if signed then signedOf w n else (n % 2 ^ w : Nat)
  match op with
  | 0 => (old + x) % 2 ^ w
  | 1 => old &&& x
  | 2 => old ||| x
  | 3 => old ^^^ x
  | 4 => if v old ≤ v x then old else x
  | 5 => if v x ≤ v old then old else x
  | 6 => x
  | _ => if old = cmp then x else old

/-- `LAMO.op` (R91): the operation in EXT 5:3, the size in EXT 2, the compare register in EXT 11:6. -/
def execLamo (d a b : Reg) (lw : LW) (s : State) : Out :=
  issue s 2 .any fun q s => guarded lw q s
    (s.ready q [srcS a lw.ta, srcS b lw.tb, srcS lw.x lw.tc] [srcS d]
      (let w := if lw.y.getLsbD 2 then 64 else 32
       let ea := s.getS q a
       s.spadAccess q ea (w / 8)
         (let old := s.spadRead q ea.toNat (w / 8)
          let new := atomicNew (lw.y.toNat / 8) w true old ((s.getS q b).toNat % 2 ^ w) ((s.getS q lw.x).toNat % 2 ^ w)
          .retire (((s.spadWrite q ea.toNat (w / 8) new).setS q d (sextN w old)).holdFor q 2))))

/-! ### Handles (R92–R96) -/

/-- `HLD` (R93). -/
def execHld (d a : Reg) (imm : BitVec 12) (s : State) : Out :=
  issue s 1 .any fun q s =>
    s.ready q [srcS a] [srcH d]
      (let ea := s.getS q a + sx64 imm
       s.spadAccess q ea 32 (.retire (s.setH q d (BitVec.ofNat 256 (s.spadRead q ea.toNat 32)))))
/-- `HST` (R93). -/
def execHst (d a : Reg) (imm : BitVec 12) (s : State) : Out :=
  issue s 1 .any fun q s =>
    s.ready q [srcS a, srcH d] []
      (let ea := s.getS q a + sx64 imm
       s.spadAccess q ea 32 (.retire (s.spadWrite q ea.toNat 32 (s.getH q d).toNat)))

/-- A field of a handle as a 64-bit value, extended as the table of R94 states. -/
def handleGet (h : HReg) (id : Reg) : DWord :=
  match HandleField.bits id with
  | none => 0
  | some (lo, w, sg) => let x := h.toNat / 2 ^ lo % 2 ^ w; if sg then sextN w x else zextN w x

/-- A handle with a field replaced by the low bits of a value (R95). -/
def handleSet (h : HReg) (id : Reg) (v : DWord) : HReg :=
  match HandleField.bits id with
  | none => h
  | some (lo, w, _) =>
    BitVec.ofNat 256 (h.toNat % 2 ^ lo + v.toNat % 2 ^ w * 2 ^ lo + h.toNat / 2 ^ (lo + w) * 2 ^ (lo + w))

/-- `HGET` (R95). -/
def execHget (d a fn : Reg) (s : State) : Out :=
  issue s 1 .any fun q s => s.ready q [srcH a] [srcS d] (.retire (s.setS q d (handleGet (s.getH q a) fn)))
/-- `HSET` (R95): the handle is read as a source. -/
def execHset (d a fn : Reg) (s : State) : Out :=
  issue s 1 .any fun q s =>
    s.ready q [srcS a, srcH d] [] (.retire (s.setH q d (handleSet (s.getH q d) fn (s.getS q a))))
/-- `HPATCH` (R96): one indivisible read-modify-write of a stored handle. -/
def execHpatch (a b fn : Reg) (lw : LW) (s : State) : Out :=
  issue s 2 .any fun q s => guarded lw q s
    (s.ready q [srcS a lw.ta, srcS b lw.tb] []
      (let ea := s.getS q a + sx64 lw.ext
       s.spadAccess q ea 32
         (let h := BitVec.ofNat 256 (s.spadRead q ea.toNat 32)
          .retire ((s.spadWrite q ea.toNat 32 (handleSet h fn (s.getS q b)).toNat).holdFor q 2))))

/-! ### Return from a handler and from the monitor (R102, R349) -/

/-- Arm a pending transfer, if there is one, and fetch at an address (R102). -/
def Prog.resume (p : Prog) (isFork : Bool) (pc : DWord) (x : Option Xfer) : Prog :=
  match x with
  | none => { p with pc := pc, arrive := .plain, pend := none }
  | some x =>
    if x.slots = 0 then ({ p with pc := pc, arrive := .plain } : Prog).takeXfer isFork x
    else { p with pc := pc, arrive := .plain, pend := some x }

/-- What a return does before it waits for the mode: loops and, from the monitor, the thread's registers are restored, and the return
from a handler clears H; a pending transfer of its own is discarded (R102, R349). -/
def Ctx.beginReturn (t : Ctx) : Ctx :=
  if t.modeM then
    let u := t.swapBank
    { u with asideM := {}, prog := { u.prog with loops := t.asideM, pend := none } }
  else { t with modeH := false, asideH := {}, prog := { t.prog with loops := t.asideH, pend := none } }

/-- The mode that a return resumes in differs from the present one: the return waits as a mode switch does (R102,
R335, R349). -/
def Ctx.returnSwitches (t : Ctx) : Bool :=
  if t.modeM then t.mmode.getLsbD 0 != t.modeRev else t.tstate.getLsbD 23 != t.modeRev

/-- The rest of a return: the mode, the pending transfer and the fetch, no earlier than 16 clocks on (R102, R349). -/
def Ctx.endReturn (t : Ctx) (now : Nat) : Ctx :=
  let p := t.prog.resume false (if t.modeM then t.mpc else t.tpc) (unpackXfer (if t.modeM then t.mstate else t.tstate))
  { t with
    modeM := false, modeH := if t.modeM then t.mmode.getLsbD 1 else t.modeH
    modeRev := if t.modeM then t.mmode.getLsbD 0 else t.tstate.getLsbD 23
    prog := { p with hold := some (.clock (now + 16)) } }

/-- A return that need not wait. -/
def Ctx.doReturn (t : Ctx) (now : Nat) : Ctx := t.beginReturn.endReturn now

/-- `TRET` (R102, R349): its own checks, then the return, which waits for the thread's accesses and commands when the
mode changes. -/
def execTret (s : State) : Out :=
  issue s 1 .any fun q s =>
    let t := s.thread q
    if t.modeM && xferInvalid t.mstate || !t.modeM && (!t.modeH || xferInvalid t.tstate) then .trap .illegal (s.pcOf q)
    else
      let s1 := s.countRetired q
      if t.returnSwitches then .whole ((s1.setThread q (s1.thread q).beginReturn).holdOn q .tret)
      else .whole (s1.setThread q ((s1.thread q).doReturn s.now))

end Sys2Proof.Machine
end

