-- ==== Sys2Proof/Machine/IntArith.lean ====
section
/-! DEFINITION. The shared subset's integer arithmetic, immediate forms, compares, bit operations, moves and
address arithmetic (R52–R64). -/

namespace Sys2Proof.Machine

/-- A format A instruction of two sources (R52, R54). -/
def alu2 (s : State) (d a b : Reg) (f : DWord → DWord → DWord) : Out :=
  issue s 1 .any fun q s =>
    s.ready q [srcS a, srcS b] [srcS d] (.retire (s.setS q d (f (s.getS q a) (s.getS q b))))

/-- An instruction of one source (R52). -/
def alu1 (s : State) (d a : Reg) (f : DWord → DWord) : Out :=
  issue s 1 .any fun q s => s.ready q [srcS a] [srcS d] (.retire (s.setS q d (f (s.getS q a))))

/-- A compare: the condition's bit replaces bit k of d, which is read as a source (R52, R57). -/
def setBitK (d : DWord) (k : Nat) (c : Bool) : DWord :=
  (d &&& ~~~(1#64 <<< k)) ||| (BitVec.ofNat 64 (bit c) <<< k)

def cmp2 (s : State) (d a b : Reg) (k : BitVec 6) (f : DWord → DWord → Bool) : Out :=
  issue s 1 .any fun q s =>
    s.ready q [srcS a, srcS b, srcS d] []
      (.retire (s.setS q d (setBitK (s.getS q d) k.toNat (f (s.getS q a) (s.getS q b)))))

/-- The smaller and the larger, signed and unsigned (R54). -/
def minS (x y : DWord) : DWord := if x.sle y then x else y
def maxS (x y : DWord) : DWord := if y.sle x then x else y
def minU (x y : DWord) : DWord := if x.ule y then x else y
def maxU (x y : DWord) : DWord := if y.ule x then x else y

/-- Shift amounts use b[5:0] (R54). -/
def amount (b : DWord) : Nat := b.toNat % 64

def execAdd (d a b : Reg) (s : State) : Out := alu2 s d a b (· + ·)
def execSub (d a b : Reg) (s : State) : Out := alu2 s d a b (· - ·)
def execMul (d a b : Reg) (s : State) : Out := alu2 s d a b (· * ·)
/-- `MULH`: bits 127:64 of the signed product (R54). -/
def execMulh (d a b : Reg) (s : State) : Out :=
  alu2 s d a b fun x y => (x.signExtend 128 * y.signExtend 128).extractLsb' 64 64
/-- `MULHN`: bits 127:64 of the unsigned product (R54). -/
def execMulhn (d a b : Reg) (s : State) : Out :=
  alu2 s d a b fun x y => (x.setWidth 128 * y.setWidth 128).extractLsb' 64 64

/-- A division: a zero divisor traps DIVZERO with the dividend before the 18-clock hold (R53, R55). -/
def divide (s : State) (d a b : Reg) (f : DWord → DWord → DWord) : Out :=
  issue s 1 .any fun q s =>
    s.ready q [srcS a, srcS b] [srcS d]
      (if s.getS q b = 0 then .trap .divzero (s.getS q a)
       else .retire ((s.setS q d (f (s.getS q a) (s.getS q b))).holdFor q 18))

/-- Signed quotient truncated toward zero, modulo 2^64 (R55). -/
def quotS (x y : DWord) : DWord := BitVec.ofInt 64 (Int.tdiv x.toInt y.toInt)
/-- Signed remainder with the sign of the dividend (R55). -/
def remS (x y : DWord) : DWord := BitVec.ofInt 64 (x.toInt - Int.tdiv x.toInt y.toInt * y.toInt)

def execDiv (d a b : Reg) (s : State) : Out := divide s d a b quotS
def execDivn (d a b : Reg) (s : State) : Out := divide s d a b (fun x y => BitVec.ofNat 64 (x.toNat / y.toNat))
def execRem (d a b : Reg) (s : State) : Out := divide s d a b remS
def execRemn (d a b : Reg) (s : State) : Out := divide s d a b (fun x y => BitVec.ofNat 64 (x.toNat % y.toNat))

def execAnd (d a b : Reg) (s : State) : Out := alu2 s d a b (· &&& ·)
def execOr (d a b : Reg) (s : State) : Out := alu2 s d a b (· ||| ·)
def execXor (d a b : Reg) (s : State) : Out := alu2 s d a b (· ^^^ ·)
def execShl (d a b : Reg) (s : State) : Out := alu2 s d a b (fun x y => x <<< amount y)
def execShr (d a b : Reg) (s : State) : Out := alu2 s d a b (fun x y => x >>> amount y)
def execSar (d a b : Reg) (s : State) : Out := alu2 s d a b (fun x y => x.sshiftRight (amount y))
def execMin (d a b : Reg) (s : State) : Out := alu2 s d a b minS
def execMax (d a b : Reg) (s : State) : Out := alu2 s d a b maxS
def execMinn (d a b : Reg) (s : State) : Out := alu2 s d a b minU
def execMaxn (d a b : Reg) (s : State) : Out := alu2 s d a b maxU

def execAddi (d a : Reg) (imm : BitVec 12) (s : State) : Out := alu1 s d a (· + sx64 imm)
def execAndi (d a : Reg) (imm : BitVec 12) (s : State) : Out := alu1 s d a (· &&& sx64 imm)
def execOri (d a : Reg) (imm : BitVec 12) (s : State) : Out := alu1 s d a (· ||| sx64 imm)
def execXori (d a : Reg) (imm : BitVec 12) (s : State) : Out := alu1 s d a (· ^^^ sx64 imm)
def execShli (d a : Reg) (imm : BitVec 12) (s : State) : Out := alu1 s d a (· <<< (immLo imm).toNat)
def execShri (d a : Reg) (imm : BitVec 12) (s : State) : Out := alu1 s d a (· >>> (immLo imm).toNat)
def execSari (d a : Reg) (imm : BitVec 12) (s : State) : Out := alu1 s d a (·.sshiftRight (immLo imm).toNat)

def execCmpEq (d a b fn : Reg) (s : State) : Out := cmp2 s d a b fn (fun x y => x == y)
def execCmpNe (d a b fn : Reg) (s : State) : Out := cmp2 s d a b fn (fun x y => x != y)
def execCmpLt (d a b fn : Reg) (s : State) : Out := cmp2 s d a b fn BitVec.slt
def execCmpLtn (d a b fn : Reg) (s : State) : Out := cmp2 s d a b fn BitVec.ult
def execCmpGe (d a b fn : Reg) (s : State) : Out := cmp2 s d a b fn (fun x y => y.sle x)
def execCmpGen (d a b fn : Reg) (s : State) : Out := cmp2 s d a b fn (fun x y => y.ule x)

/-- The condition codes of `CMPI` (R36, R57). -/
def condCode (cc : Nat) (x y : DWord) : Bool :=
  match cc with
  | 0 => x == y
  | 1 => x != y
  | 2 => x.slt y
  | 3 => x.ult y
  | 4 => y.sle x
  | _ => y.ule x

/-- `CMPI.cc d.k, a, imm` (R58): k in EXT 11:6, the condition in EXT 5:3. -/
def execCmpi (d a : Reg) (imm : BitVec 12) (lw : LW) (s : State) : Out :=
  issue s 2 .any fun q s => guarded lw q s
    (s.ready q [srcS a lw.ta, srcS d] []
      (.retire (s.setS q d (setBitK (s.getS q d) lw.x.toNat (condCode (lw.y.toNat / 8) (s.getS q a) (sx64 imm))))))

/-- Zeros above the highest set bit among the low n bits. -/
def clzNat (x : Nat) : Nat := if x = 0 then 64 else 63 - Nat.log2 x
/-- Zeros below the lowest set bit, looking at n bits from bit i. -/
def ctzFrom : Nat → Nat → DWord → Nat
  | 0, i, _ => i
  | n + 1, i, x => if x.getLsbD i then i else ctzFrom n (i + 1) x
/-- Set bits among the low n bits of a number. -/
def popNat : Nat → Nat → Nat
  | 0, _ => 0
  | n + 1, x => x % 2 + popNat n (x / 2)

def execClz (d a : Reg) (s : State) : Out := alu1 s d a (fun x => BitVec.ofNat 64 (clzNat x.toNat))
def execCtz (d a : Reg) (s : State) : Out := alu1 s d a (fun x => BitVec.ofNat 64 (ctzFrom 64 0 x))
def execPopc (d a : Reg) (s : State) : Out := alu1 s d a (fun x => BitVec.ofNat 64 (popNat 64 x.toNat))
def execBset (d a : Reg) (imm : BitVec 12) (s : State) : Out := alu1 s d a (fun x => setBitK x (immLo imm).toNat true)
def execBclr (d a : Reg) (imm : BitVec 12) (s : State) : Out := alu1 s d a (fun x => setBitK x (immLo imm).toNat false)

/-- `len` ones. -/
def lowOnes (len : Nat) : DWord := BitVec.ofNat 64 (2 ^ len - 1)

/-- `BEXT`: pos in imm12 5:0, len − 1 in 11:6 (R61). -/
def execBext (d a : Reg) (imm : BitVec 12) (s : State) : Out :=
  alu1 s d a (fun x => (x >>> (immLo imm).toNat) &&& lowOnes ((immHi imm).toNat + 1))
/-- `BINS`: d is read as a source (R52, R61). -/
def execBins (d a : Reg) (imm : BitVec 12) (s : State) : Out :=
  issue s 1 .any fun q s =>
    s.ready q [srcS a, srcS d] []
      (let m := lowOnes ((immHi imm).toNat + 1)
       let pos := (immLo imm).toNat
       .retire (s.setS q d ((s.getS q d &&& ~~~(m <<< pos)) ||| ((s.getS q a &&& m) <<< pos))))

/-- `LEA` (R62): shift in fn, signed imm12 in EXT. -/
def execLea (d a b fn : Reg) (lw : LW) (s : State) : Out :=
  issue s 2 .any fun q s => guarded lw q s
    (s.ready q [srcS a lw.ta, srcS b lw.tb] [srcS d]
      (.retire (s.setS q d (s.getS q a + (s.getS q b <<< fn.toNat) + sx64 lw.ext))))

def execLi (d : Reg) (imm32 : Word) (s : State) : Out :=
  issue s 2 .any fun q s => s.ready q [] [srcS d] (.retire (s.setS q d (sx64 imm32)))
/-- `LUI`: d is read as a source (R52, R63). -/
def execLui (d : Reg) (imm32 : Word) (s : State) : Out :=
  issue s 2 .any fun q s =>
    s.ready q [srcS d] [] (.retire (s.setS q d ((zx64 imm32 <<< 32) ||| (s.getS q d &&& 0xFFFFFFFF))))
def execMov (d a : Reg) (s : State) : Out := alu1 s d a id

/-- `SEL` (R64): it blocks on both a and b whichever the select bit picks. -/
def execSel (d a b : Reg) (lw : LW) (s : State) : Out :=
  issue s 2 .any fun q s => guarded lw q s
    (s.ready q [srcS a lw.ta, srcS b lw.tb, srcS lw.x lw.tc] [srcS d]
      (.retire (s.setS q d (if (s.getS q lw.x).getLsbD lw.y.toNat then s.getS q a else s.getS q b))))

end Sys2Proof.Machine
end

