-- ==== Sys2Proof/Machine/Trans.lean ====
section
/-! DEFINITION. Quotients, roots and the correctly rounded e^x, ln x and erf x of R170 and R172, in integer
arithmetic: an interval around the exact value is narrowed until both its ends round alike. The exact values are irrational, so
the value lies strictly inside. -/

namespace Sys2Proof

/-- One Newton run for the integer square root, from above. -/
def isqrtLoop : Nat → Nat → Nat → Nat
  | 0, _, x => x
  | f + 1, n, x =>
    let y := (x + n / x) / 2
    if y < x then isqrtLoop f n y else x

/-- floor(√n). -/
def isqrt (n : Nat) : Nat := if n = 0 then 0 else isqrtLoop (Nat.log2 n + 4) n (2 ^ (Nat.log2 n / 2 + 1))

/-- The exact quotient of nonzero magnitudes, with 140 or more bits and a sticky remainder. -/
def Exact.div (x y : Exact) : Exact :=
  let t := 140 + Nat.log2 y.n
  let m := x.n * 2 ^ t
  ⟨xor x.neg y.neg, m / y.n, x.e - y.e - t, m % y.n != 0⟩

/-- The exact square root of a positive magnitude, with 140 or more bits and a sticky remainder. -/
def Exact.sqrt (x : Exact) : Exact :=
  let odd := x.e % 2
  let n := if odd = 1 then 2 * x.n else x.n
  let e := if odd = 1 then x.e - 1 else x.e
  let m := n * 2 ^ 320
  let s := isqrt m
  ⟨false, s, (e - 320) / 2, s * s != m⟩

/-- Terms of a power series: `p` is the power so far, each next is `p × z2 / 2^P`; the divisor is 2i + 1 and
the sign alternates when `alt`. -/
def oddSeries : Nat → Bool → Nat → Nat → Nat → Nat → Int → Int
  | 0, _, _, _, _, _, acc => acc
  | f + 1, alt, P, z2, i, p, acc =>
    let t : Int := (p / (2 * i + 1) : Nat)
    oddSeries f alt P z2 (i + 1) (p * z2 / 2 ^ P) (if alt && i % 2 == 1 then acc - t else acc + t)

/-- ln 2 in units of 2^−P: 2 atanh(1/3). -/
def ln2Fix (P : Nat) : Nat := 2 * (oddSeries P false P (2 ^ P / 9) 0 (2 ^ P / 3) 0).toNat

/-- π in units of 2^−P: 16 atan(1/5) − 4 atan(1/239). -/
def piFix (P : Nat) : Nat :=
  (16 * oddSeries P true P (2 ^ P / 25) 0 (2 ^ P / 5) 0 - 4 * oddSeries P true P (2 ^ P / 57121) 0 (2 ^ P / 239) 0).toNat

/-- e^r in units of 2^−P for a signed r in those units: the terms r^i / i!. -/
def expSeries : Nat → Nat → Int → Nat → Int → Int → Int
  | 0, _, _, _, _, acc => acc
  | f + 1, P, r, i, t, acc => expSeries f P r (i + 1) (t * r / ((2 ^ P * (i + 1) : Nat) : Int)) (acc + t)

/-- An exact value in units of 2^−P, rounded down, signed. -/
def Exact.fix (x : Exact) (P : Nat) : Int :=
  let m := (x.scaled P).1
  if x.neg then -(m : Int) else (m : Int)

/-- Bounds of an exact irrational value of the sign given: it lies above the first and below the successor of the second. -/
structure Bounds where
  lo : Exact
  hi : Exact
  deriving DecidableEq, Repr

/-- The bounds `v − 2^b` and `v + 2^b` in units of 2^s, none where they do not tell the sign. -/
def Bounds.of (v : Int) (b : Nat) (s : Int) : Option Bounds :=
  let m := v.natAbs
  if m ≤ 2 ^ b then none
  else some ⟨⟨decide (v < 0), m - 2 ^ b, s, true⟩, ⟨decide (v < 0), m + 2 ^ b - 1, s, true⟩⟩

/-- Rounding is monotone: where both bounds round alike, so does every value between them (R144). -/
def Bounds.round (f : FpFmt) (rm : Rm) (b : Bounds) : Option (Nat × Flags) :=
  if f.round rm b.lo = f.round rm b.hi then some (f.round rm b.lo) else none

/-- e^x of a finite nonzero x at working precision P. -/
def expAt (x : Exact) (P : Nat) : Option Bounds :=
  let X := x.fix P
  let l2 := ln2Fix P
  let k : Int := X / (l2 : Int)
  let r := X - k * (l2 : Int)
  Bounds.of (expSeries P P r 0 ((2 ^ P : Nat) : Int) 0) 40 (k - P)

/-- ln x of a positive x other than 1 at working precision P. -/
def lnAt (x : Exact) (P : Nat) : Option Bounds :=
  let l := Nat.log2 x.n
  let one := 2 ^ l
  let z := (x.n - one) * 2 ^ P / (x.n + one)
  let s := 2 * oddSeries P false P (z * z / 2 ^ P) 0 z 0
  Bounds.of (s + (x.e + l) * ((ln2Fix P : Nat) : Int)) 40 (-(P : Int))

/-- Terms of erf's series over x: `t` is x^(2i)/i! in units of 2^−P. -/
def erfSeries : Nat → Nat → Nat → Nat → Nat → Int → Int
  | 0, _, _, _, _, acc => acc
  | f + 1, P, x2, i, t, acc =>
    let d : Int := (t / (2 * i + 1) : Nat)
    erfSeries f P x2 (i + 1) (t * x2 / (2 ^ P * (i + 1))) (if i % 2 == 1 then acc - d else acc + d)

/-- erf x of a finite nonzero |x| below 12 at working precision P. -/
def erfAt (x : Exact) (P : Nat) : Option Bounds :=
  let X := ({ x with neg := false } : Exact).fix P
  let s := erfSeries (2 * P) P (X.natAbs * X.natAbs / 2 ^ P) 0 (2 ^ P) 0
  let c := isqrt (4 * 2 ^ (3 * P) / piFix P)
  (Bounds.of (s * (c : Int) / ((2 ^ P : Nat) : Int)) 300 (-(P : Int))).map (fun y =>
    { lo := ⟨x.neg, x.n * y.lo.n, x.e + y.lo.e, true⟩
      hi := ⟨x.neg, x.n * (y.hi.n + 1) - 1, x.e + y.hi.e, true⟩ })

/-- Try the precisions in order until the bounds at one round alike. -/
def firstRound (f : FpFmt) (rm : Rm) (at_ : Nat → Option Bounds) : List Nat → Option (Nat × Flags)
  | [] => none
  | p :: r => match (at_ p).bind (Bounds.round f rm) with
    | some y => some y
    | none => firstRound f rm at_ r

/-- e^x of a finite nonzero x, rounded (R172). -/
def expRound (f : FpFmt) (rm : Rm) (x : Exact) : Option (Nat × Flags) :=
  if 12 ≤ x.log2 then some (f.round rm (if x.neg then ⟨false, 2 ^ 128, -6000, true⟩ else ⟨false, 2 ^ 128, 6000, true⟩))
  else if x.log2 < -128 then
    some (f.round rm (if x.neg then ⟨false, 2 ^ 126 - 1, -126, true⟩ else ⟨false, 2 ^ 126, -126, true⟩))
  else firstRound f rm (expAt x) [320, 640, 1280, 2560]

/-- ln x of a positive finite x other than 1, rounded (R172). -/
def lnRound (f : FpFmt) (rm : Rm) (x : Exact) : Option (Nat × Flags) := firstRound f rm (lnAt x) [320, 640, 1280, 2560]

/-- erf x of a finite nonzero x, rounded (R172). -/
def erfRound (f : FpFmt) (rm : Rm) (x : Exact) : Option (Nat × Flags) :=
  if ({ x with neg := false } : Exact).fix 0 ≥ 12 then some (f.round rm ⟨x.neg, 2 ^ 190 - 1, -190, true⟩)
  else firstRound f rm (erfAt x) [768, 1536, 3072]

end Sys2Proof
end

