-- ==== Sys2Proof/Machine/VArith.lean ====
section
/-! DEFINITION. The vector engine: lanes, guards, issue resources and the commit of results and flags (R158–R168),
and its arithmetic at MOPs 0x80–0x90, 0xA0–0xAE and 0xB0–0xB2 (R169–R177). -/

namespace Sys2Proof.Machine

/-! ### Lanes (R160, R161) -/

/-- Element i of a register at width w (R160). -/
def velem (v : VReg) (w i : Nat) : Nat := v.toNat / 2 ^ (w * i) % 2 ^ w
/-- Elements of a width per register (R160). -/
def lanesOf (w : Nat) : Nat := 8192 / w
/-- A number of elements of width w, element 0 lowest. -/
def natOfElems (w : Nat) (xs : List Nat) : Nat := xs.foldr (fun x acc => x % 2 ^ w + 2 ^ w * acc) 0
/-- A register of elements. -/
def vOfElems (w : Nat) (xs : List Nat) : VReg := BitVec.ofNat 8192 (natOfElems w xs)
/-- All elements of a register at a width. -/
def velems (v : VReg) (w : Nat) : List Nat := (List.range (lanesOf w)).map (velem v w)

/-- Lane i is enabled: bit GBIT of element i of the guard at width w, inverted under N (R161). -/
def laneOn (lw : LW) (g : VReg) (w i : Nat) : Bool :=
  !lw.g || ((velem g w i / 2 ^ lw.gbit.toNat % 2 == 1) != lw.n)

/-! ### Issue and commit (R159, R162, R163, R165) -/

/-- The lane datapath is taken for some clocks from now (R162, R179). -/
def State.occupyLanes (s : State) (c n : Nat) : State :=
  s.setCore c { s.core c with laneFree := s.now + n }

/-- Issue a vector instruction that uses the lane datapath for `dp` clocks: its guard is full, its registers are ready and the datapath
accepts it, or it stalls (R25, R159, R162). A T-marked empty source traps EMPTY whatever lanes the guard enables: R27 says 'when the guard
is true', and R25 speaks of scalar guards (DESIGN CHOICE, log entry 67). -/
def vecIssue (s : State) (lw : LW) (srcs dests : List Src) (dp : Nat) (body : Seqr → State → Res) : Out :=
  issue s 2 .any fun q s =>
    s.ready q (if lw.g then [srcV lw.greg] else []) []
      (s.ready q srcs dests (if s.now < (s.core q.core).laneFree then .stall else body q (s.occupyLanes q.core dp)))

/-- Add a result in flight to the running vector program. -/
def State.addResult (s : State) (q : Seqr) (r : VPend) : State :=
  match q with
  | .vec c k => let v := s.slot c k; s.setSlot c k { v with results := v.results ++ [r] }
  | _ => s

/-- Commit under R165: with no enabled flag raised the result is on its way, `lat` clocks from now, and `fsr`
collects the flags; otherwise nothing is written and the program traps FPX with every raised flag in `fsr`. That a pipelined
instruction's flags enter `fsr` in the clock of its issue, and not of its result, is the model's choice (DESIGN CHOICE, log entry 67). -/
def vecCommit (q : Seqr) (s : State) (isVec : Bool) (reg : Nat) (value : Nat) (f : Flags) (lat : Nat) : Res :=
  let p := s.prog q
  let e := f.enabled (s.thread q).fte
  let s1 := s.orFsr q f
  if e ≠ 0 then .trapAt s1 .fpx (zx64 e) p.pc p.pend
  else if !isVec && reg == 0 then .retire s1
  else .retire (s1.addResult q ⟨isVec, reg, value, s.now + lat, false, f, 0, p.pc, p.pend, none⟩)

/-- Long-latency results in flight on a core (R162). -/
def Core.longResults (k : Core) : Nat :=
  k.slots.foldl (fun n v => n + (v.2.results.filter (fun r => r.long)).length) 0

/-- Commit of a long-latency instruction: the destination is empty at issue, the result lands later, and with a trap
of NV, DZ, OF, UF or NX enabled the slot issues nothing until then (R162, R163, R165). -/
def vecCommitLong (q : Seqr) (s : State) (reg : Nat) (value : Nat) (f : Flags) : Res :=
  let p := s.prog q
  let t := s.thread q
  let e := f.enabled t.fte
  let s1 := s.setThread q { t with vEmpty := t.vEmpty ||| (1#64 <<< reg) }
  let s2 := s1.addResult q ⟨true, reg, value, s.now + 20, true, f, e, p.pc, p.pend, none⟩
  .retire (if t.fte &&& 0x1F ≠ 0 then s2.holdOn q .longResult else s2)

/-- The elements an instruction writes to d: enabled lanes take the result, the others keep d's element; the flags
of the enabled lanes are united (R161, R165). -/
def laneResults (lw : LW) (g old : VReg) (w : Nat) (f : Nat → Nat × Flags) : Nat × Flags :=
  let rs := (List.range (lanesOf w)).map (fun i => if laneOn lw g w i then f i else (velem old w i, (0 : Flags)))
  (natOfElems w (rs.map Prod.fst), rs.foldl (fun a r => a ||| r.2) 0)

/-- A pipelined lane-wise instruction of up to three vector sources. -/
def vecLanes (s : State) (d : Reg) (lw : LW) (w : Nat) (srcs : List Src) (extra : List Src) (dp lat : Nat)
    (f : Seqr → State → Nat → Nat × Flags) : Out :=
  vecIssue s lw (srcs ++ extra) [srcV d] dp fun q s =>
    let (v, fl) := laneResults lw (s.getV q lw.greg) (s.getV q d) w (f q s)
    vecCommit q s true d.toNat v fl lat

/-- A long-latency lane-wise instruction: a fifth in the unit stalls (R162). -/
def vecLong (s : State) (d : Reg) (lw : LW) (w : Nat) (srcs : List Src)
    (f : Seqr → State → Nat → Nat × Flags) : Out :=
  vecIssue s lw srcs [srcV d] 2 fun q s =>
    if 4 ≤ (s.core q.core).longResults then .stall
    else
      let (v, fl) := laneResults lw (s.getV q lw.greg) (s.getV q d) w (f q s)
      vecCommitLong q s d.toNat v fl

/-! ### Floating-point lanes (R169–R174) -/

/-- A NaN operand's flag, and the canonical NaN. -/
def nanOf (f : FpFmt) (vs : List Val) : Nat × Flags :=
  (f.nanBits, vs.foldl (fun a v => a ||| v.snanFlag) 0)

/-- Sum of two values (R170). -/
def fpAdd (f : FpFmt) (rm : Rm) (x y : Val) : Nat × Flags :=
  match x, y with
  | .fin a, .fin b => f.round rm (Exact.add a b (rm == .rdn))
  | .inf m, .inf n => if m = n then (f.infBits m, 0) else (f.nanBits, Flags.nv)
  | .inf m, .fin _ => (f.infBits m, 0)
  | .fin _, .inf n => (f.infBits n, 0)
  | x, y => nanOf f [x, y]

/-- Product of two values (R170). -/
def fpMul (f : FpFmt) (rm : Rm) (x y : Val) : Nat × Flags :=
  match x, y with
  | .fin a, .fin b => f.round rm (Exact.mul a b)
  | .inf m, .inf n => (f.infBits (xor m n), 0)
  | .inf m, .fin b => if b.isZero then (f.nanBits, Flags.nv) else (f.infBits (xor m b.neg), 0)
  | .fin a, .inf n => if a.isZero then (f.nanBits, Flags.nv) else (f.infBits (xor n a.neg), 0)
  | x, y => nanOf f [x, y]

/-- The exact product as a value, for a fused form: none where it is invalid (R170). -/
def mulVal (x y : Val) : Option Val :=
  match x, y with
  | .fin a, .fin b => some (.fin (Exact.mul a b))
  | .inf m, .inf n => some (.inf (xor m n))
  | .inf m, .fin b => if b.isZero then none else some (.inf (xor m b.neg))
  | .fin a, .inf n => if a.isZero then none else some (.inf (xor n a.neg))
  | _, _ => some (.nan false)

/-- x × y + z with one rounding (R169, R170). -/
def fpFma (f : FpFmt) (rm : Rm) (x y z : Val) : Nat × Flags :=
  let sn := x.snanFlag ||| y.snanFlag ||| z.snanFlag
  match mulVal x y with
  | none => (f.nanBits, Flags.nv)
  | some p =>
    if p.isNan || z.isNan then (f.nanBits, sn)
    else let (r, fl) := fpAdd f rm p z; (r, fl ||| sn)

/-- Quotient (R170). -/
def fpDiv (f : FpFmt) (rm : Rm) (x y : Val) : Nat × Flags :=
  match x, y with
  | .fin a, .fin b =>
    if b.isZero then
      if a.isZero then (f.nanBits, Flags.nv) else (f.infBits (xor a.neg b.neg), Flags.dz)
    else if a.isZero then (f.pack (xor a.neg b.neg) 0 0, 0)
    else f.round rm (Exact.div a b)
  | .inf _, .inf _ => (f.nanBits, Flags.nv)
  | .inf m, .fin b => (f.infBits (xor m b.neg), 0)
  | .fin a, .inf n => (f.pack (xor a.neg n) 0 0, 0)
  | x, y => nanOf f [x, y]

/-- Square root (R170). -/
def fpSqrt (f : FpFmt) (rm : Rm) (x : Val) : Nat × Flags :=
  match x with
  | .nan _ => nanOf f [x]
  | .inf m => if m then (f.nanBits, Flags.nv) else (f.infBits false, 0)
  | .fin a =>
    if a.isZero then (f.pack a.neg 0 0, 0)
    else if a.neg then (f.nanBits, Flags.nv)
    else f.round rm (Exact.sqrt a)

/-- Order of two values that are not NaN, −0 below +0 when `zeros` (R171, R174). -/
def Val.order (zeros : Bool) (x y : Val) : Ordering :=
  match x, y with
  | .inf m, .inf n => if m = n then .eq else if m then .lt else .gt
  | .inf m, _ => if m then .lt else .gt
  | _, .inf n => if n then .gt else .lt
  | .fin a, .fin b =>
    if zeros && a.isZero && b.isZero then (if a.neg == b.neg then .eq else if a.neg then .lt else .gt) else Exact.cmp a b
  | _, _ => .eq

/-- Minimum or maximum, bit for bit (R171). -/
def fpMinMax (f : FpFmt) (wantMax : Bool) (a b : Nat) : Nat × Flags :=
  let x := f.decode a
  let y := f.decode b
  if x.isNan || y.isNan then nanOf f [x, y]
  else
    let lt := Val.order true x y == .lt
    (if lt == wantMax then b else a, 0)

/-- The number of a rounding mode (R26). -/
def rmNum (rm : Rm) : Nat :=
  match rm with
  | .rne => 0 | .rtz => 1 | .rdn => 2 | .rup => 3 | .rna => 4

/-- The free bits of a function's result on which the intervals do not settle: one value for each function, format, mode
and operand (log entry 9). -/
def openResult (f : FpFmt) (rm : Rm) (op x : Nat) : Nat × Flags :=
  (Config.beyondPrecision (op + 4 * (rmNum rm + 8 * f.ebits)) x % 2 ^ f.width, Flags.nx)

/-- A rounded result, or the free bits where the intervals do not settle (log entry 9). -/
def orOpen (f : FpFmt) (rm : Rm) (op x : Nat) (r : Option (Nat × Flags)) : Nat × Flags := r.getD (openResult f rm op x)

/-- e^x (R172). -/
def fpExp (f : FpFmt) (rm : Rm) (b : Nat) : Nat × Flags :=
  match f.decode b with
  | .nan sg => nanOf f [.nan sg]
  | .inf m => (if m then 0 else f.infBits false, 0)
  | .fin a => if a.isZero then f.round rm ⟨false, 1, 0, false⟩ else orOpen f rm 0 b (expRound f rm a)

/-- ln x (R172). -/
def fpLog (f : FpFmt) (rm : Rm) (b : Nat) : Nat × Flags :=
  match f.decode b with
  | .nan sg => nanOf f [.nan sg]
  | .inf m => if m then (f.nanBits, Flags.nv) else (f.infBits false, 0)
  | .fin a =>
    if a.isZero then (f.infBits true, Flags.dz)
    else if a.neg then (f.nanBits, Flags.nv)
    else if Exact.cmp a ⟨false, 1, 0, false⟩ = .eq then (0, 0)
    else orOpen f rm 1 b (lnRound f rm a)

/-- erf x (R172). -/
def fpErf (f : FpFmt) (rm : Rm) (b : Nat) : Nat × Flags :=
  match f.decode b with
  | .nan sg => nanOf f [.nan sg]
  | .inf m => f.round rm ⟨m, 1, 0, false⟩
  | .fin a => if a.isZero then (f.pack a.neg 0 0, 0) else orOpen f rm 2 b (erfRound f rm a)

/-- The class mask (R173). -/
def fpClass (f : FpFmt) (b : Nat) : Nat :=
  match f.decode b with
  | .nan sg => if sg then 2 ^ 8 else 2 ^ 9
  | .inf m => if m then 1 else 2 ^ 7
  | .fin a =>
    if a.isZero then (if a.neg then 2 ^ 3 else 2 ^ 4)
    else if f.expField b = 0 then (if a.neg then 2 ^ 2 else 2 ^ 5)
    else (if a.neg then 2 else 2 ^ 6)

/-- A two-source floating-point instruction. -/
def vecF2 (s : State) (d a b fn : Reg) (lw : LW) (lat dp : Nat) (op : FpFmt → Rm → Val → Val → Nat × Flags) : Out :=
  let w := Fmt.vwidth fn
  let f := FpFmt.get fn.toNat
  vecLanes s d lw w [srcV a lw.ta, srcV b lw.tb] [] dp lat fun q s i =>
    op f (s.rm q lw.rm) (f.decode (velem (s.getV q a) w i)) (f.decode (velem (s.getV q b) w i))

/-- A fused instruction, the signs of the product and of z given. -/
def vecF3 (s : State) (d a b fn : Reg) (lw : LW) (negP negZ : Bool) : Out :=
  let w := Fmt.vwidth fn
  let f := FpFmt.get fn.toNat
  vecLanes s d lw w [srcV a lw.ta, srcV b lw.tb, srcV lw.x lw.tc] [] 2 4 fun q s i =>
    let x := f.decode (velem (s.getV q a) w i)
    let z := f.decode (velem (s.getV q lw.x) w i)
    fpFma f (s.rm q lw.rm) (if negP then x.neg else x) (f.decode (velem (s.getV q b) w i)) (if negZ then z.neg else z)

/-- A one-source instruction on element patterns. -/
def vecF1 (s : State) (d a fn : Reg) (lw : LW) (op : FpFmt → Rm → Nat → Nat × Flags) : Out :=
  let w := Fmt.vwidth fn
  let f := FpFmt.get fn.toNat
  vecLanes s d lw w [srcV a lw.ta] [] 2 4 fun q s i => op f (s.rm q lw.rm) (velem (s.getV q a) w i)

def execVadd (d a b fn : Reg) (lw : LW) (s : State) : Out := vecF2 s d a b fn lw 4 2 fpAdd
def execVsub (d a b fn : Reg) (lw : LW) (s : State) : Out := vecF2 s d a b fn lw 4 2 (fun f rm x y => fpAdd f rm x y.neg)
def execVmul (d a b fn : Reg) (lw : LW) (s : State) : Out := vecF2 s d a b fn lw 4 2 fpMul
def execVfma (d a b fn : Reg) (lw : LW) (s : State) : Out := vecF3 s d a b fn lw false false
def execVfms (d a b fn : Reg) (lw : LW) (s : State) : Out := vecF3 s d a b fn lw false true
def execVfnma (d a b fn : Reg) (lw : LW) (s : State) : Out := vecF3 s d a b fn lw true false

/-- `VDIV`: long-latency in FP64, iterative otherwise (R162). -/
def execVdiv (d a b fn : Reg) (lw : LW) (s : State) : Out :=
  if fn = 8 then
    vecLong s d lw 64 [srcV a lw.ta, srcV b lw.tb] fun q s i =>
      fpDiv FpFmt.fp64 (s.rm q lw.rm) (FpFmt.fp64.decode (velem (s.getV q a) 64 i)) (FpFmt.fp64.decode (velem (s.getV q b) 64 i))
  else vecF2 s d a b fn lw 10 8 fpDiv

/-- `VSQRT`: long-latency in FP64, iterative otherwise (R162). -/
def execVsqrt (d a fn : Reg) (lw : LW) (s : State) : Out :=
  let w := Fmt.vwidth fn
  let f := FpFmt.get fn.toNat
  if fn = 8 then vecLong s d lw w [srcV a lw.ta] fun q s i => fpSqrt f (s.rm q lw.rm) (f.decode (velem (s.getV q a) w i))
  else vecLanes s d lw w [srcV a lw.ta] [] 8 10 fun q s i => fpSqrt f (s.rm q lw.rm) (f.decode (velem (s.getV q a) w i))

/-- `VMIN` and `VMAX` work on patterns. -/
def vecMinMax (s : State) (d a b fn : Reg) (lw : LW) (wantMax : Bool) : Out :=
  let w := Fmt.vwidth fn
  vecLanes s d lw w [srcV a lw.ta, srcV b lw.tb] [] 2 4 fun q s i =>
    fpMinMax (FpFmt.get fn.toNat) wantMax (velem (s.getV q a) w i) (velem (s.getV q b) w i)

def execVmin (d a b fn : Reg) (lw : LW) (s : State) : Out := vecMinMax s d a b fn lw false
def execVmax (d a b fn : Reg) (lw : LW) (s : State) : Out := vecMinMax s d a b fn lw true
def execVabs (d a fn : Reg) (lw : LW) (s : State) : Out :=
  vecF1 s d a fn lw fun f _ x => (x % 2 ^ (f.width - 1), 0)
def execVneg (d a fn : Reg) (lw : LW) (s : State) : Out :=
  vecF1 s d a fn lw fun f _ x => (x ^^^ 2 ^ (f.width - 1), 0)
/-- A long-latency function of one source on patterns (R172). -/
def vecFun (s : State) (d a fn : Reg) (lw : LW) (op : FpFmt → Rm → Nat → Nat × Flags) : Out :=
  let w := Fmt.vwidth fn
  vecLong s d lw w [srcV a lw.ta] fun q s i => op (FpFmt.get fn.toNat) (s.rm q lw.rm) (velem (s.getV q a) w i)
def execVexp (d a fn : Reg) (lw : LW) (s : State) : Out := vecFun s d a fn lw fpExp
def execVlog (d a fn : Reg) (lw : LW) (s : State) : Out := vecFun s d a fn lw fpLog
def execVerf (d a fn : Reg) (lw : LW) (s : State) : Out := vecFun s d a fn lw fpErf
def execVclass (d a fn : Reg) (lw : LW) (s : State) : Out :=
  vecF1 s d a fn lw fun f _ x => (fpClass f x, 0)

/-- Predicate and flag of a compare (R174). -/
def fpCompare (f : FpFmt) (cc a b : Nat) : Bool × Flags :=
  let x := f.decode a
  let y := f.decode b
  let un := x.isNan || y.isNan
  let o := Val.order false x y
  let sn := x.snanFlag ||| y.snanFlag
  let any := Flags.when un Flags.nv
  match cc with
  | 0 => (!un && o == .eq, sn)
  | 1 => (un || o != .eq, sn)
  | 2 => (!un && o == .lt, any)
  | 3 => (!un && o != .gt, any)
  | 4 => (!un && o == .gt, any)
  | 5 => (!un && o != .lt, any)
  | 6 => (un, sn)
  | _ => (!un, sn)

/-- Bit k of a number replaced. -/
def setBitNat (x k : Nat) (c : Bool) : Nat := x - x / 2 ^ k % 2 * 2 ^ k + bit c * 2 ^ k

/-- `VCMP` (R174): bit k of each enabled element of d, which is read as a source. -/
def execVcmp (d a b fn : Reg) (lw : LW) (s : State) : Out :=
  let w := Fmt.vwidth fn
  vecLanes s d lw w [srcV a lw.ta, srcV b lw.tb] [srcV d] 2 4 fun q s i =>
    let (c, fl) := fpCompare (FpFmt.get fn.toNat) lw.y.toNat (velem (s.getV q a) w i) (velem (s.getV q b) w i)
    (setBitNat (velem (s.getV q d) w i) lw.x.toNat c, fl)

/-! ### Integer lanes (R177) -/

/-- A two-source integer instruction: width, signedness, x, y. -/
def vecI2 (s : State) (d a b fn : Reg) (lw : LW) (op : Nat → Bool → Nat → Nat → Nat × Flags) : Out :=
  let w := Fmt.vwidth fn
  vecLanes s d lw w [srcV a lw.ta, srcV b lw.tb] [] 2 4 fun q s i =>
    op w (Fmt.isSigned fn lw.y) (velem (s.getV q a) w i) (velem (s.getV q b) w i)

/-- A w-bit pattern as an integer, signed or not. -/
def intOf (w : Nat) (sg : Bool) (x : Nat) : Int := if sg then signedOf w x else (x % 2 ^ w : Nat)
/-- A pure two-source operation without flags, modulo 2^w. -/
def noFlag (f : Nat → Bool → Nat → Nat → Nat) (w : Nat) (sg : Bool) (x y : Nat) : Nat × Flags := (f w sg x y % 2 ^ w, 0)

def execViadd (d a b fn : Reg) (lw : LW) (s : State) : Out := vecI2 s d a b fn lw (noFlag fun _ _ x y => x + y)
def execVisub (d a b fn : Reg) (lw : LW) (s : State) : Out := vecI2 s d a b fn lw (noFlag fun w _ x y => x + 2 ^ w - y)
def execVimul (d a b fn : Reg) (lw : LW) (s : State) : Out := vecI2 s d a b fn lw (noFlag fun _ _ x y => x * y)
def execVimulh (d a b fn : Reg) (lw : LW) (s : State) : Out :=
  vecI2 s d a b fn lw (noFlag fun w sg x y => patternOf (2 * w) (intOf w sg x * intOf w sg y) / 2 ^ w)
def execVand (d a b fn : Reg) (lw : LW) (s : State) : Out := vecI2 s d a b fn lw (noFlag fun _ _ x y => x &&& y)
def execVor (d a b fn : Reg) (lw : LW) (s : State) : Out := vecI2 s d a b fn lw (noFlag fun _ _ x y => x ||| y)
def execVxor (d a b fn : Reg) (lw : LW) (s : State) : Out := vecI2 s d a b fn lw (noFlag fun _ _ x y => x ^^^ y)
def execVshl (d a b fn : Reg) (lw : LW) (s : State) : Out := vecI2 s d a b fn lw (noFlag fun w _ x y => x * 2 ^ (y % w))
def execVshr (d a b fn : Reg) (lw : LW) (s : State) : Out := vecI2 s d a b fn lw (noFlag fun w _ x y => x / 2 ^ (y % w))
def execVsar (d a b fn : Reg) (lw : LW) (s : State) : Out :=
  vecI2 s d a b fn lw (noFlag fun w _ x y => patternOf w (signedOf w x / ((2 ^ (y % w) : Nat) : Int)))
def execVimin (d a b fn : Reg) (lw : LW) (s : State) : Out :=
  vecI2 s d a b fn lw (noFlag fun w sg x y => if intOf w sg x ≤ intOf w sg y then x else y)
def execVimax (d a b fn : Reg) (lw : LW) (s : State) : Out :=
  vecI2 s d a b fn lw (noFlag fun w sg x y => if intOf w sg y ≤ intOf w sg x then x else y)
def execViabs (d a fn : Reg) (lw : LW) (s : State) : Out :=
  let w := Fmt.vwidth fn
  vecLanes s d lw w [srcV a lw.ta] [] 2 4 fun q s i => ((signedOf w (velem (s.getV q a) w i)).natAbs % 2 ^ w, 0)
/-- `VSADD` (R177): clamped to the format's range, SAT when clamped. -/
def execVsadd (d a b fn : Reg) (lw : LW) (s : State) : Out :=
  vecI2 s d a b fn lw fun w sg x y => intOfInt sg w true (intOf w sg x + intOf w sg y)
def execVpopc (d a fn : Reg) (lw : LW) (s : State) : Out :=
  let w := Fmt.vwidth fn
  let pop (x : Nat) : Nat := ((List.range w).filter (fun k => x.testBit k)).length
  vecLanes s d lw w [srcV a lw.ta] [] 2 4 fun q s i => (pop (velem (s.getV q a) w i), 0)

/-! ### Select and vote (R175, R176) -/

def execVsel (d a b fn : Reg) (lw : LW) (s : State) : Out :=
  let w := Fmt.vwidth fn
  vecLanes s d lw w [srcV a lw.ta, srcV b lw.tb, srcV lw.x lw.tc] [] 2 4 fun q s i =>
    ((if (velem (s.getV q lw.x) w i).testBit lw.y.toNat then velem (s.getV q a) w i else velem (s.getV q b) w i), 0)

/-- A vote over bit j of the enabled 32-bit elements, into bit k of scalar d (R176). -/
def vote (s : State) (d a fn : Reg) (lw : LW) (all_ : Bool) : Out :=
  vecIssue s lw [srcV a lw.ta, srcS d] [] 2 fun q s =>
    let g := s.getV q lw.greg
    let bits := ((List.range 256).filter (laneOn lw g 32)).map (fun i => (velem (s.getV q a) 32 i).testBit lw.y.toNat)
    let c := if all_ then bits.all id else bits.any id
    vecCommit q s false d.toNat (setBitK (s.getS q d) fn.toNat c).toNat 0 3

def execVany (d a fn : Reg) (lw : LW) (s : State) : Out := vote s d a fn lw false
def execVall (d a fn : Reg) (lw : LW) (s : State) : Out := vote s d a fn lw true

/-! ### Landing of results (R159, R162, R165) -/

/-- A result of a vector program is written: a vector register of the thread, a scalar one of the program, or elements
of a tile, none of them outside its shape (R264). -/
def State.writeResult (s : State) (q : Seqr) (r : VPend) : State :=
  match r.cells with
  | some (n, cs) =>
    let k := s.core q.core
    let t : Tile := SMap.get {} k.tiles n
    s.setCore q.core { k with tiles := SMap.set k.tiles n { t with
      el := (cs.filter (fun c => decide (c.1 / 32 < t.rows) && decide (c.1 % 32 < t.cols))).foldl (fun m c => SMap.set m c.1 c.2) t.el } }
  | none =>
  if r.isVec then
    let t := s.thread q
    s.setThread q { t with v := SMap.set t.v r.reg (BitVec.ofNat 8192 r.value), vEmpty := t.vEmpty &&& ~~~(1#64 <<< r.reg) }
  else s.setProg q ((s.prog q).setS r.reg (BitVec.ofNat 64 r.value))

/-- VECTOR_RESULT_WRITE: the pipelined and iterative results whose clock has come are written (R162, R179). -/
def execVectorResultWrite (s : State) : Out :=
  let c := s.target.core
  let k := s.target.unit
  let q := Seqr.vec c k
  let rs := (s.slot c k).results
  let due := rs.filter (fun r => !r.long && decide (r.due ≤ s.now))
  let s1 := s.setSlot c k { s.slot c k with results := rs.filter (fun r => r.long || decide (s.now < r.due)) }
  .next (due.foldl (fun s r => s.writeResult q r) s1)

/-- The landing of a long-latency result: it is written with its flags, or the register returns to full with its old value and the
program traps FPX with the flags that were enabled at issue (R165). A hold set at issue is the newest result's, after which
nothing issued: it ends with that result (R163). -/
def State.landLong (s : State) (c k : Nat) (r : VPend) : State :=
  let q := Seqr.vec c k
  let sl := s.slot c k
  let p := sl.prog
  let own := p.hold = some .longResult ∧ (sl.results.filter (fun x => x.long)).getLast? = some r
  let s1 := s.setSlot c k { sl with results := sl.results.erase r, prog := if own then { p with hold := none } else p }
  let s2 := s1.orFsr q r.flags
  if r.traps ≠ 0 then
    let t := s2.thread q
    let s3 := s2.setThread q { t with vEmpty := t.vEmpty &&& ~~~(1#64 <<< r.reg) }
    s3.raise q ⟨.fpx, zx64 r.traps, r.addr, r.pend⟩
  else s2.writeResult q r

/-- VECTOR_LONG_RESULT: a long-latency result of a register lands, at least 20 clocks after issue (R162): core, slot, register. The
clock turns make it land at 96 clocks. -/
def execVectorLongResult (s : State) : Out :=
  let c := s.target.core
  let k := s.target.unit
  match (s.slot c k).results.find? (fun r => r.long && r.reg == s.target.id) with
  | none => .next s
  | some r => if s.now < r.due then .next s else .next (s.landLong c k r)

end Sys2Proof.Machine
end

