-- ==== Sys2Proof/Machine/Xlate.lean ====
section
/-! DEFINITION. Global addresses, the page table and the translation caches (R211–R221), and the slices (R222). -/

namespace Sys2Proof.Machine

/-- Bytes of HBM: physical addresses 0 to 0x00BF_FFFF_FFFF (R211). -/
def hbmBytes : Nat := 0xC000000000

/-! ### Leaf entries (R215) -/

def Page.ppn (p : Page) : Nat := p.leaf / 2 ^ 32 % 2 ^ 32
/-- SCALE, signed. -/
def Page.scale (p : Page) : Int := signedOf 8 (p.leaf / 2 ^ 24 % 2 ^ 8)
def Page.m (p : Page) : Bool := p.leaf.testBit 21
def Page.d (p : Page) : Bool := p.leaf.testBit 20
def Page.geom (p : Page) : Nat := p.leaf / 2 ^ 16 % 16
def Page.fmt (p : Page) : Nat := p.leaf / 2 ^ 10 % 64
def Page.w (p : Page) : Bool := p.leaf.testBit 3
def Page.r (p : Page) : Bool := p.leaf.testBit 2
/-- The physical address of a virtual address of the page. -/
def Page.pa (p : Page) (va : Nat) : Nat := p.ppn * 65536 + (va - p.base)
/-- Element size of the page in bytes. -/
def Page.esize (p : Page) : Nat := Fmt.width p.fmt / 8

/-- The checks of R216 on a leaf entry. -/
def Page.ok (p : Page) : Bool :=
  p.leaf / 2 ^ 22 % 4 == 0 && p.leaf / 2 ^ 4 % 2 ^ 6 == 0
    && p.ppn * 65536 % p.size == 0 && decide (p.ppn * 65536 + p.size ≤ hbmBytes)
    && Fmt.defined p.fmt && decide (p.geom ≤ 3)
    && (if p.geom == 1 || p.geom == 2 then Fmt.isMxCode p.fmt else true)
    && (if p.geom == 0 then !Fmt.isMxCode p.fmt else true)
    && (if p.geom == 3 then p.fmt == 1 else true)
    && (if p.d then p.geom == 0 && (Fmt.width p.fmt == 8 || Fmt.width p.fmt == 16 || Fmt.width p.fmt == 32)
          && decide (p.base + p.size ≤ 2 ^ 53 * p.esize) else true)
    && (if 2 ^ 56 ≤ p.base then p.fmt == 0x13 && p.geom == 0 && !p.d else true)
    && (p.leaf / 2 ^ 24 % 2 ^ 8 == 0 || p.fmt == 0x13)

/-! ### The walk (R213, R214, R216) -/

/-- What a walk comes to. -/
inductive Walk where
  | page (p : Page)
  | fault
  /-- It read an address that names no memory (R211). -/
  | noMemory
  deriving DecidableEq, Repr

/-- The levels: the lowest virtual address bit and the number of bits that index the table (R213). -/
def walkLevels : List (Nat × Nat) := [(39, 18), (30, 9), (21, 9), (16, 5)]

/-- Walk the remaining levels from a table's physical address. -/
def State.walkFrom (s : State) (va : Nat) : List (Nat × Nat) → Nat → Walk
  | [], _ => .fault
  | (sh, bits) :: rest, table =>
    let pa := table + va / 2 ^ sh % 2 ^ bits * 8
    if hbmBytes < pa + 8 then .noMemory
    else
      let e := s.hbm.readN pa 8
      if e % 2 = 0 then .fault
      else if e / 2 % 2 = 1 then
        let p : Page := { base := va / 2 ^ sh * 2 ^ sh, size := 2 ^ sh, leaf := e }
        if sh = 39 then .fault else if p.ok then .page p else .fault
      else if e / 2 ^ 48 ≠ 0 ∨ e / 4 % 2 ^ 6 ≠ 0 then .fault
      else match rest with
        | [] => .fault
        | (sh', _) :: _ =>
          if sh' ≠ 16 ∧ e / 2 ^ 8 % 16 ≠ 0 then .fault
          else State.walkFrom s va rest (e / 2 ^ 8 * 2 ^ 8)

/-- The walk of a virtual address of a logical core's address space. -/
def State.walk (s : State) (core va : Nat) : Walk :=
  match (s.core core).ptRoot with
  | none => .fault
  | some root => s.walkFrom va walkLevels root

/-! ### The translation cache (R219, R221) -/

/-- The cached translation of an address under an ASID. -/
def tlbFind (es : List TlbEntry) (asid va : Nat) : Option TlbEntry :=
  es.find? (fun e => e.asid == asid && decide (e.base ≤ va) && decide (va < e.base + e.size))

/-- Entries of a translation cache (R219), and the most that may be pinned at once (R221). -/
def tlbSize : Nat := 2048
def tlbPinMax : Nat := 1536

/-- Cache a leaf translation; a full cache replaces an entry whose in-flight count is 0, chosen by a free value. -/
def State.tlbAdd (s : State) (pc asid : Nat) (p : Page) : State :=
  let es := SMap.get [] s.tlbs pc
  let e : TlbEntry := { asid := asid, base := p.base, size := p.size, leaf := BitVec.ofNat 64 p.leaf }
  if es.length < tlbSize then { s with tlbs := SMap.set s.tlbs pc (es ++ [e]) }
  else
    let (n, s1) := s.draw
    let free := es.filter (fun x => x.pins == 0)
    match free[Config.freeNat n % free.length]? with
    | some v => { s1 with tlbs := SMap.set s.tlbs pc (es.erase v ++ [e]) }
    | none => s1

/-- What a translation comes to: a page with its permissions checked, a trap, or no memory to walk. -/
inductive Xl where
  | page (p : Page) (s : State)
  | trap (c : Cause) (v : DWord)
  | noMemory
  deriving DecidableEq, Repr

/-- The page of an address of a logical core: from its physical core's translation cache, else by a walk. -/
def State.pageOf (s : State) (core va : Nat) : Xl :=
  let pc := s.pcore core
  let asid := (s.core core).asid
  if 2 ^ 57 ≤ va then .trap .xlate (BitVec.ofNat 64 va)
  else match tlbFind (SMap.get [] s.tlbs pc) asid va with
  | some e => .page { base := e.base, size := e.size, leaf := e.leaf.toNat } s
  | none => match s.walk core va with
    | .page p => .page p (s.tlbAdd pc asid p)
    | .fault => .trap .xlate (BitVec.ofNat 64 va)
    | .noMemory => .noMemory

/-- Translate an address for reading, for writing or for both (R216). -/
def State.xlate (s : State) (core va : Nat) (r w : Bool) : Xl :=
  match s.pageOf core va with
  | .page p s1 => if (r && !p.r) || (w && !p.w) then .trap .prot (BitVec.ofNat 64 va) else .page p s1
  | x => x

/-- An instruction that needs a page: a trap where it does not translate. -/
def State.withPage (s : State) (core va : Nat) (r w : Bool) (k : Page → State → Res) : Res :=
  match s.xlate core va r w with
  | .page p s1 => k p s1
  | .trap c v => .trap c v
  | .noMemory => .stop .noMemory

/-- The pages of a range of addresses in ascending order, each translated and checked. -/
inductive XlRange where
  | pages (ps : List Page) (s : State)
  | trap (c : Cause) (v : DWord)
  | noMemory
  deriving DecidableEq, Repr

/-- Translate every page from `va` to `hi`; the number bounds the pages. -/
def State.xlateRange (core hi : Nat) (r w : Bool) (extra : Page → Option Cause) : Nat → State → Nat → XlRange
  | 0, s, _ => .pages [] s
  | n + 1, s, va =>
    match s.xlate core va r w with
    | .trap c v => .trap c v
    | .noMemory => .noMemory
    | .page p s1 =>
      match extra p with
      | some c => .trap c (BitVec.ofNat 64 va)
      | none =>
        if hi < p.base + p.size then .pages [p] s1
        else match State.xlateRange core hi r w extra n s1 (p.base + p.size) with
          | .pages ps s2 => .pages (p :: ps) s2
          | x => x

/-- The physical address of an address in one of the pages. -/
def paIn (ps : List Page) (va : Nat) : Nat :=
  match ps.find? (fun p => decide (p.base ≤ va) && decide (va < p.base + p.size)) with
  | some p => p.pa va
  | none => 0

/-! ### Slices (R222) -/

/-- The slice of a physical address: the XOR of the seven 6-bit groups of its line number (R222). -/
def sliceOf (pa : Nat) : Nat :=
  let l := pa / 128
  (List.range 7).foldl (fun x k => x ^^^ (l / 2 ^ (6 * k) % 64)) 0

/-- TRANSLATION_EVICT: an entry with an in-flight count of 0 may be replaced at any time (R219): its page, of a physical
core and an ASID. -/
def execTranslationEvict (s : State) : Out :=
  let t := s.target
  let es := (SMap.get [] s.tlbs t.core).filter (fun e => !(e.asid == t.unit && e.base == t.id && e.pins == 0))
  .next { s with tlbs := SMap.set s.tlbs t.core es }

end Sys2Proof.Machine
end

