-- ==== Sys2Proof/Machine/Access.lean ====
section
/-! DEFINITION. A thread's load and store queues: room and permits (R224, R225, R244), the order in which accesses may
perform (R226, R229, R230, R234), what an access does when it performs, and the tape's records (R331–R334). -/

namespace Sys2Proof.Machine

/-! ### Kinds of accesses -/

/-- An acquire `GAMO`, a release one. -/
def Acc.isAcq (a : Acc) : Bool :=
  match a.kind with
  | .gamo _ _ _ _ _ _ _ acq _ => acq
  | _ => false
def Acc.isRel (a : Acc) : Bool :=
  match a.kind with
  | .gamo _ _ _ _ _ _ _ _ rel => rel
  | _ => false
def Acc.isMark (a : Acc) : Bool := a.kind == .mark

/-- A plain store, which `FENCE.core` lets leave the landing before it performs (R230). -/
def Acc.isPlainStore (a : Acc) : Bool :=
  match a.kind with
  | .stg _ _ => true
  | .stl _ => true
  | .tapeWrite _ _ => true
  | .adjClear _ => true
  | _ => false

/-- The request holds a permit of its slice until its reply reaches the core: a load's or an atomic's when its register fills, an `LDL`'s when
it writes its line (R224, R228, R244). -/
def Acc.usesPermit (a : Acc) : Bool :=
  match a.kind with
  | .mark => false
  | .line _ _ => a.isLd && !a.done
  | .tapeWrite _ _ => false
  | .adjClear _ => false
  | .adjRead _ _ _ _ => false
  | _ => !a.performed

/-- The line of a `.line` access is written in the core, not at a slice. -/
def Acc.isLineWrite (a : Acc) : Bool :=
  match a.kind with
  | .line _ _ => true
  | _ => false

/-- The physical addresses that the access's next step goes to. -/
def Acc.next (a : Acc) : List Nat :=
  match a.kind with
  | .mark => []
  | .line _ _ => []
  | .adjClear ((pa, _) :: _) => [pa]
  | .adjClear [] => []
  | .tapeWrite pas _ => pas
  | _ => [a.pa]

/-- The physical addresses that the access still goes to: every cell of an `ADJ.CLR`, and with a store its tape record's parts
(R333, R341). -/
def Acc.places (a : Acc) : List Nat :=
  match a.kind with
  | .adjClear runs => (runs.map (fun r => (List.range r.2).map (fun k => r.1 + 8 * k))).flatten
  | _ => a.next ++ a.tape

/-! ### Room (R224, R225, R244) -/

/-- Entries taken in the queue of a thread that a class of accesses forms: entries are freed in program order. -/
def entriesOf (accs : List Acc) (cls : Acc → Bool) : Nat :=
  (((accs.filter cls).dropWhile (fun a => a.done)).map (fun a => a.group)).eraseDups.length

/-- Permits of a slice that the accesses of a logical core hold. -/
def Core.permits (k : Core) (slice : Nat) : Nat :=
  ((k.ctxs.map (fun e => (e.2.accs.filter (fun a => a.usesPermit && sliceOf a.pa == slice)).map
    (fun a => (a.group, a.pa / 128)))).flatten).eraseDups.length

/-- The logical cores of a logical core's physical core, itself first (R105, R106). -/
def State.mates (s : State) (c : Nat) : List Nat :=
  c :: (s.remap.filter (fun e => e.2 == s.pcore c && e.1 != c)).map Prod.fst

/-- Permits of a slice that the accesses of a physical core hold, the core of a logical core (R224). -/
def State.permits (s : State) (c slice : Nat) : Nat := (s.mates c).foldl (fun n k => n + (s.core k).permits slice) 0

/-- There is room for one more instruction: an entry in each queue it enters, and a permit for each line of the given
addresses. -/
def State.admits (s : State) (q : Seqr) (ld st : Bool) (pas : List Nat) : Bool :=
  let accs := (s.thread q).accs
  let lines := (pas.map (fun p => p / 128)).eraseDups
  (!ld || decide (entriesOf accs (fun a => a.isLd) < 32)) && (!st || decide (entriesOf accs (fun a => a.isSt) < 32))
    && lines.all (fun l =>
      decide (s.permits q.core (sliceOf (l * 128))
        + (lines.filter (fun m => sliceOf (m * 128) == sliceOf (l * 128))).length ≤ 16))

/-- The instruction's accesses enter the queues; they are numbered in the order of issue and form one group. -/
def State.enqueue (s : State) (q : Seqr) (as : List Acc) : State × Nat :=
  let k := s.core q.core
  let n := k.nextAcc
  let s1 := s.setCore q.core { k with nextAcc := n + as.length }
  let t := s1.thread q
  (s1.setThread q { t with accs := t.accs ++ as.mapIdx (fun i a => { a with id := n + i, group := n, clock := s.now }) }, n)

/-! ### Order (R234, R236) -/

/-- X, earlier in program order, keeps its place before Y. -/
def accOrdered (x y : Acc) : Bool :=
  x.isMark || y.isMark || (x.isLd && y.isLd) || (x.isSt && y.isSt) || x.isAcq || y.isRel

/-- Y waits for an earlier access that has not performed; a load before an acquire `GAMO` holds back a later store
(R234). -/
def accBlocked : List Acc → Acc → Bool
  | [], _ => false
  | x :: r, y =>
    if x.id = y.id then false
    else
      (!x.performed && (accOrdered x y
        || (x.isLd && y.isSt && (r.takeWhile (fun z => z.id != y.id)).any Acc.isAcq)))
      || accBlocked r y

/-- The access `y` of a logical core may have been injected before the store `b` left the landing: it could perform when `b` left, or
it left no later itself (R230, R236). -/
def Acc.follows (b : Acc) (core : Nat) (y : Acc) : Bool :=
  b.ahead.contains (core, y.id) || (match y.left, b.left with
    | some m, some n => decide (m ≤ n)
    | _, _ => false)

/-- A store of the physical core that left the landing under a `FENCE.core`, and that was not injected behind the request, goes to the
slice of an address and has not performed: requests of a core to one slice arrive in injection order (R230, R236). -/
def State.behindLeft (s : State) (c : Nat) (later : Acc → Bool) (pa : Nat) : Bool :=
  (s.mates c).any (fun k => (s.core k).ctxs.any (fun e => e.2.accs.any (fun b =>
    !b.performed && b.left.isSome && !later b && b.places.any (fun pb => sliceOf pb == sliceOf pa))))

/-- An access waits for an earlier one of its thread, or for a store that left the landing before it was injected. -/
def State.accWaits (s : State) (c : Nat) (accs : List Acc) (a : Acc) : Bool :=
  a.performed || accBlocked accs a || a.next.any (s.behindLeft c (fun b => b.follows c a))

/-- The accesses of the physical core of a logical core that may have been injected by now: those that could perform now. One that
could not waits for what performs later, and is injected after it (R225, R230; log entry 61). -/
def State.injectable (s : State) (c : Nat) : List (Nat × Nat) :=
  ((s.mates c).map (fun k => ((s.core k).ctxs.map (fun e =>
    (e.2.accs.filter (fun a => !s.accWaits k e.2.accs a)).map (fun a => (k, a.id)))).flatten)).flatten

/-- A line request that an engine of the core makes now waits for stores that left the landing before it, and for a permit of its
slice (R224, R230). The reply comes within the same step, so a request holds its permit for that step alone (log entry 56). -/
def State.requestHeld (s : State) (c pa : Nat) : Bool :=
  s.behindLeft c (fun _ => false) pa || decide (16 ≤ s.permits c (sliceOf pa))

/-- The access of the event's target that may perform now. -/
def State.performable (s : State) : Option Acc :=
  let c := s.target.core
  let x := s.target.unit
  let accs := (s.ctx c x).accs
  match accs.find? (fun a => a.id == s.target.id) with
  | none => none
  | some a => if s.accWaits c accs a then none else some a

/-! ### Completion -/

/-- Replace an access of a context. -/
def State.setAcc (s : State) (c x : Nat) (a : Acc) : State :=
  let t := s.ctx c x
  s.setCtx c x { t with accs := t.accs.map (fun b => if b.id = a.id then a else b) }

/-- Entries complete at the head of the program order are freed (R244). -/
def State.freeAccs (s : State) (c x : Nat) : State :=
  let t := s.ctx c x
  s.setCtx c x { t with accs := t.accs.dropWhile (fun a => a.done) }

/-- A reverse-mode instruction that the thread is held for has performed whole: it retires, and traps FPX, as `TRAP` does,
where it raised an enabled flag (R337). -/
def State.adjRetire (s : State) (c x : Nat) (f : Flags) : State :=
  let q := Seqr.thread c x
  let t := s.ctx c x
  let e := f.enabled t.fte
  let s1 := s.setCtx c x { t with prog := { t.prog with hold := none } }
  if e = 0 then finish q s1 1 (.retire s1)
  else
    let s2 := s1.countRetired q
    let p := (s2.prog q).advanceTrap (seqNext t.prog.pc 1)
    finish q s1 1 (.trapAt (s2.setProg q { p with pend := none }) .fpx (zx64 e) p.pc p.pend)

/-- An access completes with the flags it raised. The last cell or element action of its group brings the group's flags into `fsr`; a
thread that the group holds goes on when its line, too, has been written (R337). -/
def State.finishAcc (s : State) (c x : Nat) (a : Acc) (f : Flags) : State :=
  let s1 := s.setAcc c x { a with performed := true, done := true }
  let t := s1.ctx c x
  let fl := a.flags ||| f
  let rest := t.accs.filter (fun b => b.group == a.group && !b.done)
  match rest.find? (fun b => !b.isLineWrite) with
  | some b => s1.setAcc c x { b with flags := b.flags ||| fl }
  | none =>
    let s2 := if a.isLineWrite then s1 else s1.setCtx c x { t with fsr := fl.orInto t.fsr }
    match rest with
    | b :: _ => s2.setAcc c x { b with flags := fl }
    | [] =>
      let s3 := s2.freeAccs c x
      if t.prog.hold = some (.adj a.group) then s3.adjRetire c x fl else s3

/-- Write bytes of HBM. -/
def State.hbmWriteN (s : State) (pa n v : Nat) : State := { s with hbm := s.hbm.writeN pa n v }
def State.hbmWriteBytes (s : State) (pa : Nat) (bs : List Byte) : State := { s with hbm := s.hbm.writeBytes pa bs }

/-- A result fills a register of the thread (R12). -/
def State.fillReg (s : State) (c x reg : Nat) (v : DWord) : State :=
  let q := Seqr.thread c x
  s.setProg q ((s.prog q).fillS reg v)

/-! ### The tape (R331–R334) -/

/-- Length of a record by its kind: 1 word, 2 doubleword, 3 line (R332). -/
def tapeLen (kind : Nat) : Nat := if kind = 3 then 144 else 16

/-- A record's bytes: the old value, the header last (R332). -/
def tapeRecord (kind va : Nat) (old : List Byte) : List Byte :=
  let body := if kind = 3 then old ++ List.replicate 8 0 else old ++ List.replicate (8 - old.length) 0
  body ++ bytesOfNat 8 (kind * 2 ^ 60 + va % 2 ^ 57)

/-- Write a tape record, part by part of 16 bytes. -/
def State.writeTape : List Nat → List Byte → State → State
  | [], _, s => s
  | pa :: r, bs, s => State.writeTape r (bs.drop 16) (s.hbmWriteBytes pa (bs.take 16))

/-- The physical addresses of the 16-byte parts of a range of the tape. -/
def tapeParts (ps : List Page) (va len : Nat) : List Nat := (List.range (len / 16)).map (fun i => paIn ps (va + 16 * i))

/-- A tape page must be writable, element-wise and not differentiable (R333). -/
def tapePageBad (p : Page) : Option Cause := if p.geom ≠ 0 ∨ p.d then some .prot else none

/-- The reservation of a record of a store at `va`: `tapeptr` moves on, and the record's place is fixed (R333). -/
def State.tapeReserve (s : State) (q : Seqr) (kind va : Nat) (k : List Nat → State → Res) : Res :=
  let t := s.thread q
  let p := t.tapeptr.toNat
  let len := tapeLen kind
  if t.tapelim.toNat < p + len then .trap .tapeovf (BitVec.ofNat 64 va)
  else match State.xlateRange q.core (p + len - 1) false true tapePageBad 4 s p with
    | .trap c v => .trap c v
    | .noMemory => .stop .noMemory
    | .pages ps s1 =>
      let t1 := s1.thread q
      k (tapeParts ps p len) (s1.setThread q { t1 with tapeptr := BitVec.ofNat 64 (p + len) })

/-- What a pop comes to (R334): the old value, with the tape pages translated; `wait` while the load of the header may not perform. -/
inductive Pop where
  | record (old : List Byte) (ps : List Page) (s : State)
  | wait
  | trap (c : Cause) (v : DWord)
  | noMemory
  deriving DecidableEq, Repr

/-- Pop the record of a kind and an address. It reads the tape as a load: after the thread's earlier loads, its `MARK` and acquire
`GAMO` alike, and behind stores that left the landing (R234, R236, R334). -/
def State.pop (s : State) (q : Seqr) (kind va : Nat) : Pop :=
  let t := s.thread q
  let p := t.tapeptr.toNat
  let len := tapeLen kind
  if p - t.tapebase.toNat < len then .trap .tapemis (BitVec.ofNat 64 va)
  else match State.xlateRange q.core (p - 1) true false (fun _ => none) 4 s (p - len) with
    | .trap c v => .trap c v
    | .noMemory => .noMemory
    | .pages ps s1 =>
      let parts := tapeParts ps (p - len) len
      if t.accs.any (fun a => !a.performed && (a.isLd || a.isAcq)) || parts.any (s.requestHeld q.core) then .wait
      else
        let bytes := (parts.map (fun pa => s1.hbm.readBytes pa 16)).flatten
        let h := natOfBytes (bytes.drop (len - 8))
        if h / 2 ^ 60 ≠ kind ∨ h % 2 ^ 57 ≠ va then .trap .tapemis (BitVec.ofNat 64 va)
        else
          let t1 := s1.thread q
          .record (bytes.take (if kind = 3 then 128 else 8)) ps (s1.setThread q { t1 with tapeptr := BitVec.ofNat 64 (p - len) })

/-- A pop by an instruction: the thread waits with it (R334). -/
def State.tapePop (s : State) (q : Seqr) (kind va : Nat) (k : List Byte → State → Res) : Res :=
  match s.pop q kind va with
  | .trap c v => .trap c v
  | .noMemory => .stop .noMemory
  | .wait => .stall
  | .record old _ s1 => k old s1

/-! ### Performing (R225, R229, R333) -/

/-- The store's record follows it into the store queue (R333). -/
def State.afterStore (s : State) (c x : Nat) (a : Acc) (kind : Nat) (old : List Byte) : State :=
  if a.tape.isEmpty then s
  else
    let k := s.core c
    let s1 := s.setCore c { k with nextAcc := k.nextAcc + 1 }
    let t := s1.ctx c x
    let w : Acc := { id := k.nextAcc, kind := .tapeWrite a.tape (tapeRecord kind a.va old), isSt := true, group := a.group,
                     clock := a.clock, left := a.left, ahead := a.ahead }
    s1.setCtx c x { t with accs := (t.accs.map (fun b => if b.id = a.id then [b, w] else [b])).flatten }

/-- An element value in its register: sign-extended for a signed integer format, zero-extended otherwise (R340). -/
def elemToReg (fmt v : Nat) : DWord :=
  let w := Fmt.width fmt
  if Fmt.isSignedCode fmt then sextN w v else zextN w v

/-- An `ADJ.LD` performs: the cell's value rounded into its register with its flags, or, where one it raised is enabled,
the register keeps its value and the instruction traps FPX (R340). -/
def State.adjRead (s : State) (c x : Nat) (a : Acc) : State :=
  match a.kind with
  | .adjRead scale fmt rm reg =>
    let cell : DWord := BitVec.ofNat 64 (s.hbm.readN a.pa 8)
    let q := Seqr.thread c x
    let (v, f) := writeVal fmt rm true (.fin (fxExact scale cell))
    let t := s.ctx c x
    let e := f.enabled t.fte
    if t.prog.hold = some (.adj a.group) ∧ e ≠ 0 then
      let s1 := s.fillReg c x reg ((s.prog q).getS reg)
      let t1 := s1.ctx c x
      let s2 := (s1.setCtx c x { t1 with prog := { t1.prog with hold := none } }).finishAcc c x a f
      finish q s2 1 (.trap .fpx (zx64 e))
    else (s.fillReg c x reg (elemToReg fmt v)).finishAcc c x a f
  | _ => s

/-- LOAD_PERFORM: a load, an `ADJ.LD` or a `MARK` of a thread performs (R225–R228, R340): core, context and number of the access. -/
def execLoadPerform (s : State) : Out :=
  let c := s.target.core
  let x := s.target.unit
  match s.performable with
  | none => .next s
  | some a =>
    match a.kind with
    | .ldg reg size =>
      let v := s.hbm.readN a.pa size
      .next ((s.fillReg c x reg (if size = 4 then sextN 32 v else zextN 64 v)).finishAcc c x a 0)
    | .ldl sp => .next (s.setAcc c x { a with kind := .line sp (s.hbm.readBytes a.pa 128), performed := true })
    | .mark => .next (s.finishAcc c x a 0)
    | .adjRead _ _ _ _ => .next (s.adjRead c x a)
    | _ => .next s

/-- STORE_PERFORM: a store of a thread performs, the restoring store of a reverse-mode instruction or a tape record
(R227, R228, R333, R336). -/
def execStorePerform (s : State) : Out :=
  let c := s.target.core
  let x := s.target.unit
  match s.performable with
  | none => .next s
  | some a =>
    match a.kind with
    | .stg size data =>
      let old := s.hbm.readBytes a.pa size
      .next (((s.hbmWriteN a.pa size data).afterStore c x a (if size = 4 then 1 else 2) old).finishAcc c x a 0)
    | .stl data =>
      let old := s.hbm.readBytes a.pa 128
      .next (((s.hbmWriteBytes a.pa data).afterStore c x a 3 old).finishAcc c x a 0)
    | .restore data reg v => .next (((s.hbmWriteN a.pa 4 data).fillReg c x reg v).finishAcc c x a 0)
    | .restoreLine data => .next ((s.hbmWriteBytes a.pa data).finishAcc c x a 0)
    | .tapeWrite pas data => .next ((s.writeTape pas data).finishAcc c x a 0)
    | _ => .next s

/-- The size in bytes of a `GAMO` type (R229). -/
def gamoSize (fn : Nat) : Nat := if fn = 4 ∨ fn = 5 ∨ fn = 9 then 4 else 8

/-- The new value of a `GAMO` and its flags (R229). -/
def gamoNew (fn op : Nat) (old x cmp : Nat) (rm : Rm) (scale : Int) : Nat × Flags :=
  if op = 1 then
    let f := FpFmt.get fn
    fpAdd f rm (f.decode old) (f.decode x)
  else if op = 2 then
    let (r, fl) := fxAdd scale (BitVec.ofNat 64 old) (FpFmt.fp64.decode x)
    (r.toNat, fl)
  else (atomicNew (if op = 0 then 0 else op - 2) (8 * gamoSize fn) (fn == 4 || fn == 6) old x cmp, 0)

/-- GAMO_PERFORM: an atomic performs at the owner of its line, and its register is full (R229). -/
def execGamoPerform (s : State) : Out :=
  let c := s.target.core
  let x := s.target.unit
  match s.performable with
  | none => .next s
  | some a =>
    match a.kind with
    | .gamo reg fn op v cmp rm scale _ _ =>
      let size := gamoSize fn
      let old := s.hbm.readN a.pa size
      let (new, fl) := gamoNew fn op old v cmp rm scale
      let r := if fn = 4 then sextN 32 old else zextN (8 * size) old
      .next (((s.hbmWriteN a.pa size new).fillReg c x reg r).finishAcc c x a fl)
    | _ => .next s

/-- LDL_LINE_WRITE: the line of an `LDL` that has performed, or the line that a reverse-mode `STL` has assembled, is
written to the scratchpad in one access, while the core is resident (R107, R228, R231). -/
def execLdlLineWrite (s : State) : Out :=
  let c := s.target.core
  let x := s.target.unit
  let accs := (s.ctx c x).accs
  match accs.find? (fun a => a.id == s.target.id) with
  | none => .next s
  | some a =>
    match a.kind with
    | .line sp data =>
      let waits := accs.any (fun b => b.group == a.group && !b.performed && (match b.kind with
        | .adjTake _ _ _ _ => true
        | _ => false))
      if a.done || waits || s.away.contains c then .next s
      else
        let k := s.core c
        .next ((s.setCore c { k with spad := k.spad.writeBytes sp data }).finishAcc c x a 0)
    | _ => .next s

end Sys2Proof.Machine
end

