-- ==== Sys2Proof/Machine/Arcade.lean ====
section
/-! DEFINITION. The Arcade: subtrees and bundles (R290–R299), the moves between scratch registers and scratchpad and
the preparation of registers (R300–R304), and the landing of results (R298–R300). -/

namespace Sys2Proof.Machine

/-! ### Subtrees (R290, R291) -/

/-- A subtree: downward or upward, its window, the operations of its nodes, SP32 or FP32, its mode, whether it ends
its bundle, its leaf offsets (none: absent) and its destination offset. -/
structure Subtree where
  down   : Bool
  wsel   : Nat
  ops    : List Nat
  sp     : Bool
  rm     : Rm
  last   : Bool
  leaves : List (Option Nat)
  dst    : Nat
  deriving DecidableEq, Repr

/-- A 10-bit field of a word. -/
def off10 (w : Word) (lo : Nat) : Nat := w.toNat / 2 ^ lo % 2 ^ 10

/-- The subtree of the words of an instruction (R290, R291). -/
def subtreeOf (down : Bool) (e : BitVec 24) (w1 w2 w3 : Word) : Subtree where
  down := down
  wsel := e.toNat / 2 ^ 22
  ops := (List.range 7).map (fun n => e.toNat / 2 ^ (8 + 2 * n) % 4)
  sp := e.toNat / 2 ^ 6 % 4 == 1
  rm := if e.toNat / 2 ^ 4 % 4 = 1 then .rtz else .rne
  last := e.getLsbD 3
  leaves :=
    let leaf (f : Word) (b : Nat) (w : Word) (lo : Nat) : Option Nat := if f.getLsbD b then none else some (off10 w lo)
    [some (off10 w1 0), some (off10 w1 10), leaf w1 30 w1 20, leaf w1 31 w2 0, leaf w2 30 w2 10, leaf w2 31 w2 20,
     leaf w3 30 w3 0, leaf w3 31 w3 10]
  dst := off10 w3 20

/-- The register that an offset names (R291). -/
def Arc.reg (a : Arc) (wsel off : Nat) : Nat := ((SMap.get (0 : DWord) a.wb wsel).toNat + off) % 8192

/-! ### The tree (R295–R297) -/

/-- A node: its value and its representative. -/
structure ANode where
  val : Word
  rep : Nat
  deriving DecidableEq, Repr

/-- Sum, product and maximum in the subtree's format (R295). -/
def aspOp (sp : Bool) (rm : Rm) (op : Nat) (x y : Word) : Word × Flags :=
  let f := FpFmt.fp32
  let u := f.decode x.toNat
  let v := f.decode y.toNat
  let (r, fl) :=
    if sp then
      match op with
      | 1 => spSum rm x.toNat y.toNat
      | 2 => spProd rm x.toNat y.toNat
      | _ => spMax rm x.toNat y.toNat
    else
      match op with
      | 1 => fpAdd f rm u v
      | 2 => fpMul f rm u v
      | _ => fpMinMax f true x.toNat y.toNat
  (BitVec.ofNat 32 r, fl)

/-- The left child wins at a MAX node (R297). -/
def leftWins (sp : Bool) (seed : DWord) (l r : ANode) : Bool :=
  let tie : Bool := l.rep == r.rep
    || decide ((tieHash seed (BitVec.ofNat 64 l.rep)).toNat < (tieHash seed (BitVec.ofNat 64 r.rep)).toNat)
  let o := if sp then Exact.cmp (spDecode l.val.toNat) (spDecode r.val.toNat)
           else Val.order false (FpFmt.fp32.decode l.val.toNat) (FpFmt.fp32.decode r.val.toNat)
  if !sp && ((FpFmt.fp32.decode l.val.toNat).isNan || (FpFmt.fp32.decode r.val.toNat).isNan) then true
  else match o with
    | .gt => true
    | .lt => false
    | .eq => tie

/-- The value and the representative of a node (R295, R297). -/
def aspNode (sp : Bool) (rm : Rm) (seed : DWord) (op : Nat) (l r : Option ANode) : Option ANode × Flags :=
  match l, r with
  | none, r => (r, 0)
  | l, none => (l, 0)
  | some x, some y =>
    if op = 0 then (some x, 0)
    else
      let (v, f) := aspOp sp rm op x.val y.val
      (some ⟨v, if op = 3 && !leftWins sp seed x y then y.rep else x.rep⟩, f)

/-- A row of nodes from the pairs of the row below. -/
def aspRow (t : Subtree) (seed : DWord) (first : Nat) : List (Option ANode) → List (Option ANode × Flags)
  | l :: r :: rest => aspNode t.sp t.rm seed (t.ops.getD first 0) l r :: aspRow t seed (first + 1) rest
  | _ => []

/-- The leaves, the four nodes above them, the two above those and the root, with the flags of all (R295). -/
structure ATree where
  leaves : List (Option ANode)
  low    : List (Option ANode)
  mid    : List (Option ANode)
  root   : Option ANode
  flags  : Flags
  deriving DecidableEq, Repr

def aspUp (t : Subtree) (seed : DWord) (leaves : List (Option ANode)) : ATree :=
  let low := aspRow t seed 0 leaves
  let mid := aspRow t seed 4 (low.map Prod.fst)
  let top := aspRow t seed 6 (mid.map Prod.fst)
  { leaves := leaves, low := low.map Prod.fst, mid := mid.map Prod.fst, root := (top.map Prod.fst).headD none
    flags := (low ++ mid ++ top).foldl (fun f x => f ||| x.2) 0 }

/-- The adjoints of a node's children (R296). -/
def aspDown (t : Subtree) (seed : DWord) (op : Nat) (g : Option Word) (l r : Option ANode) :
    (Option Word × Option Word) × Flags :=
  match g, l, r with
  | none, _, _ => ((none, none), 0)
  | some g, some _, none => ((some g, none), 0)
  | some g, none, some _ => ((none, some g), 0)
  | some _, none, none => ((none, none), 0)
  | some g, some x, some y =>
    match op with
    | 0 => ((some g, none), 0)
    | 1 => ((some g, some g), 0)
    | 2 =>
      let (gl, f1) := aspOp t.sp t.rm 2 g y.val
      let (gr, f2) := aspOp t.sp t.rm 2 g x.val
      ((some gl, some gr), f1 ||| f2)
    | _ => if leftWins t.sp seed x y then ((some g, none), 0) else ((none, some g), 0)

/-- The adjoints of a row of children, from those of the nodes above, numbered from `first`. -/
def aspDownRow (t : Subtree) (seed : DWord) (first : Nat) :
    List (Option Word) → List (Option ANode) → List (Option Word) × Flags
  | g :: gs, l :: r :: rest =>
    let ((gl, gr), f) := aspDown t seed (t.ops.getD first 0) g l r
    let (more, f2) := aspDownRow t seed (first + 1) gs rest
    (gl :: gr :: more, f ||| f2)
  | _, _ => ([], 0)

/-- The adjoints that reach the eight leaves (R296). -/
def aspDownAll (t : Subtree) (seed : DWord) (z : ATree) (g : Word) : List (Option Word) × Flags :=
  let (g1, f1) := aspDownRow t seed 6 [some g] z.mid
  let (g2, f2) := aspDownRow t seed 4 g1 z.low
  let (g3, f3) := aspDownRow t seed 0 g2 z.leaves
  (g3, f1 ||| f2 ||| f3)

/-! ### Bundles (R293, R294, R298, R299) -/

/-- A scratch register is empty (R289). -/
def Arc.pEmpty (a : Arc) (r : Nat) : Bool :=
  a.results.any (fun p => p.vals.any (fun e => e.1 == r) || p.adjs.any (fun e => e.1 == r))
    || a.loads.any (fun l => decide (l.first ≤ r) && decide (r < l.first + l.n))

/-- What a bundle's fetch comes to: its subtrees, or the trap that its first subtree takes. -/
inductive Bundle where
  | ok (ts : List Subtree)
  | bad (c : Cause) (v : DWord)
  deriving DecidableEq, Repr

/-- The subtrees of a bundle after its first, each at the next words of the line; the number bounds them (R293, R294). -/
def bundleRest (q : Seqr) (s : State) (first : DWord) : Nat → DWord → Bundle
  | 0, _ => .bad .illegal first
  | n + 1, a =>
    if a.toNat / 4 % 32 = 0 then .bad .illegal first
    else
      let p := s.prog q
      let mop := (s.iword q a.toNat).fMop.toNat
      let more (t : Subtree) : Bundle :=
        if t.last then .ok [t]
        else match bundleRest q s first n (a + 16) with
          | .ok ts => .ok (t :: ts)
          | b => b
      match (s.setProg q { p with pc := a, arrive := .plain }).fetch q 0 with
      | .ok (.aspUp e w1 w2 w3) => more (subtreeOf false e w1 w2 w3)
      | .ok (.aspDn e w1 w2 w3) => more (subtreeOf true e w1 w2 w3)
      | .ok _ => .bad .illegal first
      | .bad c v _ => if c = .eccu ∨ (c = .illen ∧ (mop = 0x80 ∨ mop = 0x81)) then .bad c v else .bad .illegal first

/-- The bundle that begins with a subtree at the pc (R294): at most four subtrees. -/
def State.bundle (s : State) (q : Seqr) (t : Subtree) : Bundle :=
  let pc := s.pcOf q
  if t.last then .ok [t]
  else match bundleRest q s pc 3 (pc + 16) with
    | .ok ts => .ok (t :: ts)
    | b => b

/-- Present leaf registers of a subtree, and its destination register. -/
def Arc.leafRegs (a : Arc) (t : Subtree) : List Nat := t.leaves.filterMap (fun o => o.map (a.reg t.wsel))
def Arc.dstReg (a : Arc) (t : Subtree) : Nat := a.reg t.wsel t.dst

/-- The effect of a bundle: values, adjoints and flags, all read in the issue clock (R294–R296). -/
structure BundleOut where
  vals  : List (Nat × Word) := []
  adjs  : SMap Word := []
  flags : Flags := 0
  deriving DecidableEq, Repr

/-- A subtree takes its place in a bundle's effect, in slot order (R295, R296). -/
def Arc.evalSub (a : Arc) (o : BundleOut) (t : Subtree) : BundleOut :=
  let regs := t.leaves.map (fun l => l.map (a.reg t.wsel))
  let z := aspUp t a.seed (regs.map (fun r => r.map (fun r => ⟨SMap.get 0 a.pv r, r⟩)))
  let d := a.dstReg t
  if !t.down then
    { o with vals := o.vals ++ [(d, (z.root.map ANode.val).getD 0)], flags := o.flags ||| z.flags }
  else
    let (gs, f) := aspDownAll t a.seed z (SMap.get 0 a.pa d)
    (regs.zip gs).foldl (fun o e =>
      match e.1 with
      | none => o
      | some r =>
        let old := SMap.get (SMap.get 0 a.pa r) o.adjs r
        match e.2 with
        | none => { o with adjs := SMap.set o.adjs r old }
        | some g =>
          let (v, fl) := aspOp t.sp t.rm 1 old g
          { o with adjs := SMap.set o.adjs r v, flags := o.flags ||| fl })
      { o with flags := o.flags ||| z.flags ||| f }

/-- Registers of a list in a bank. -/
def inBank (rs : List Nat) (b : Nat) : Nat := (rs.filter (fun r => r % 16 == b)).length

/-- The extra clocks of a bundle (R299). -/
def Arc.extraClocks (a : Arc) (ts : List Subtree) : Nat :=
  let reads := ((ts.map (fun t => a.leafRegs t ++ if t.down then [a.dstReg t] else [])).flatten).eraseDups
  let dests := ((ts.filter (fun t => !t.down)).map a.dstReg).eraseDups
  let adjs := (((ts.filter Subtree.down).map a.leafRegs).flatten).eraseDups
  let banks := List.range 16
  banks.foldl (fun m b => max m (inBank reads b - 2)) 0 + banks.foldl (fun m b => m + (inBank dests b - 1)) 0
    + banks.foldl (fun m b => max m (inBank adjs b - 2)) 0

/-- The flags that a bundle can raise: NV, OF, UF, NX, SAT, PUF (R298). -/
def aspFlagMask : DWord := 0xBD

/-- A bundle counts as one instruction of its thread for `instret` (R294), one that traps excepted. R17 speaks of control-core instructions, and
the other instructions of forked programs count in none (DESIGN CHOICE, log entry 76). -/
def State.countBundle (s : State) (q : Seqr) (traps : Flags) : State :=
  let t := s.thread q
  if traps = 0 then s.setThread q { t with instret := t.instret + 1 } else s

/-- Issue a bundle on registers that are all full (R294, R298, R299). -/
def runBundle (ts : List Subtree) (q : Seqr) (s : State) : Res :=
  let c := q.core
  let a := s.arc c
  let used := (ts.map (fun t => a.leafRegs t ++ [a.dstReg t])).flatten
  if used.any a.pEmpty then .stall
  else
    let o := ts.foldl a.evalSub {}
    let x := a.extraClocks ts
    let fte := (s.thread q).fte
    let p := s.prog q
    let r : APend := { due := s.now + x + 6, vals := o.vals, adjs := o.adjs, flags := o.flags
                       traps := o.flags.enabled fte, addr := p.pc, pend := p.pend }
    let s1 := (s.setArc c { a with results := a.results ++ [r] }).countBundle q r.traps
    .retire (if fte &&& aspFlagMask ≠ 0 then s1.holdOn q .longResult else if x = 0 then s1 else s1.holdFor q (1 + x))

/-- A subtree issues with the rest of its bundle as one instruction (R294); a bad bundle traps as a whole (R293). -/
def aspBundle (t : Subtree) (s : State) : Out :=
  let q := s.cur
  match s.bundle q t with
  | .ok ts => issue s (4 * ts.length) .any (runBundle ts)
  | .bad c v => .next (({ s with stalled := false } : State).raise q ⟨c, v, s.pcOf q, (s.prog q).pend⟩)

/-- `ASP.UP` (R290–R295). -/
def execAspUp (e : BitVec 24) (w1 w2 w3 : Word) (s : State) : Out := aspBundle (subtreeOf false e w1 w2 w3) s
/-- `ASP.DN` (R290–R294, R296, R297). -/
def execAspDn (e : BitVec 24) (w1 w2 w3 : Word) (s : State) : Out := aspBundle (subtreeOf true e w1 w2 w3) s

/-- Bundles land: each writes its registers and flags, or traps (R298, R299). A hold set at issue is the newest bundle's, after which
nothing issued: it ends with that bundle (R298). -/
def landBundles (c : Nat) : List APend → State → State
  | [], s => s
  | r :: rest, s =>
    let q := Seqr.arc c
    let a := s.arc c
    let p := a.prog
    let p1 := if p.hold = some .longResult ∧ a.results.getLast? = some r then { p with hold := none } else p
    let a1 := { a with results := a.results.erase r, prog := p1 }
    if r.traps ≠ 0 then
      let s1 := (s.setArc c a1).orFsr q r.flags
      landBundles c rest (s1.raise q ⟨.fpx, zx64 r.traps, r.addr, r.pend⟩)
    else
      let a2 := { a1 with pv := r.vals.foldl (fun m e => SMap.set m e.1 e.2) a1.pv
                          pa := r.adjs.foldl (fun m e => SMap.set m e.1 e.2) a1.pa }
      landBundles c rest ((s.setArc c a2).orFsr q r.flags)

/-- ARCADE_RESULTS_LAND: the bundles whose clock has come land: core. -/
def execArcadeResultsLand (s : State) : Out :=
  let c := s.target.core
  .next (landBundles c ((s.arc c).results.filter (fun r => decide (r.due ≤ s.now))) s)

/-! ### Moving and preparing registers (R300–R304) -/

/-- The count check of R300 on the count and first-register registers. -/
def aspRange (n f : DWord) (k : Nat → Nat → Res) : Res :=
  if 8192 < n.toNat ∨ 8192 < f.toNat + n.toNat then .trap .illegal f else k n.toNat f.toNat

/-- Some register of a range is empty. -/
def Arc.anyEmpty (a : Arc) (f n : Nat) : Bool := (List.range n).any (fun i => a.pEmpty (f + i))

/-- The clock of an access that would come at `t`: not before the accesses of earlier `ASP.LD`s, for the program's accesses keep
their order (R21, R300). -/
def Arc.aspDue (a : Arc) (t : Nat) : Nat := a.loads.foldl (fun m l => max m l.due) t

/-- The common part of `ASP.LD` and `ASP.ST` (R300). -/
def aspMove (d a b fn : Reg) (s : State) (k : Seqr → State → Nat → Nat → Nat → Nat → Res) : Out :=
  issue s 1 .any fun q s =>
    s.ready q [srcS d, srcS a, srcS b] []
      (aspRange (s.getS q d) (s.getS q a) fun n f =>
        let sz := halfBytes fn.toNat
        let ea := s.getS q b
        if n = 0 then .retire s
        else if ea.toNat % sz ≠ 0 then .trap .align ea
        else if spadTop < ea.toNat + n * sz - 1 then .trap .spbound ea
        else if (s.arc q.core).anyEmpty f n then .stall
        else k q s f n ea.toNat ((s.arc q.core).aspDue (s.now + (n * sz + 63) / 64)))

/-- `ASP.LD` (R300). -/
def execAspLd (d a b fn : Reg) (s : State) : Out :=
  aspMove d a b fn s fun q s f n ea due =>
    let x := s.arc q.core
    .retire (s.setArc q.core { x with loads := x.loads ++ [⟨f, n, ea, fn.toNat, due⟩] })

/-- `ASP.ST` (R300). -/
def execAspSt (d a b fn : Reg) (s : State) : Out :=
  aspMove d a b fn s fun q s f n ea due => .retire (s.holdOn q (.aspSt due f n ea fn.toNat))

/-- The access of an `ASP.LD`: its registers take the bytes and become full (R300). -/
def State.aspFill (s : State) (c : Nat) (l : ALoad) : State :=
  let a := s.arc c
  let sz := halfBytes l.half
  let m := (s.core c).spad
  let a1 := (List.range l.n).foldl (fun a i =>
    let v := m.readN (l.addr + i * sz) sz
    let r := l.first + i
    match l.half with
    | 0 => { a with pv := SMap.set a.pv r (BitVec.ofNat 32 v) }
    | 1 => { a with pa := SMap.set a.pa r (BitVec.ofNat 32 v) }
    | _ => { a with pv := SMap.set a.pv r (BitVec.ofNat 32 v), pa := SMap.set a.pa r (BitVec.ofNat 32 (v / 2 ^ 32)) }) a
  s.setArc c { a1 with loads := a.loads.erase l }

/-- ASP_LD_FILL: the loads whose clock has come perform, in order (R300): core. -/
def execAspLdFill (s : State) : Out :=
  let c := s.target.core
  .next (((s.arc c).loads.filter (fun l => decide (l.due ≤ s.now))).foldl (fun s l => s.aspFill c l) s)

/-- `ASP.CVT` of one word (R154). -/
def aspConvert (toF32 : Bool) (rm : Rm) (x : Word) : Word × Flags :=
  let (r, f) := if toF32 then FpFmt.fp32.round rm (spDecode x.toNat) else spOfVal rm (FpFmt.fp32.decode x.toNat)
  (BitVec.ofNat 32 r, f)

/-- `ASP.CVT` (R301). -/
def execAspCvt (d a _b fn : Reg) (lw : LW) (s : State) : Out :=
  issue s 2 .any fun q s => guarded lw q s
    (s.ready q [srcS d, srcS a lw.ta] []
      (aspRange (s.getS q d) (s.getS q a) fun n f =>
        let x := s.arc q.core
        if x.anyEmpty f n then .stall
        else
          let adj := fn.getLsbD 1
          let old (r : Nat) : Word := SMap.get 0 (if adj then x.pa else x.pv) r
          let rs := (List.range n).map (fun i => (f + i, aspConvert (fn.getLsbD 0) (s.rm q lw.rm) (old (f + i))))
          let fl := rs.foldl (fun a r => a ||| r.2.2) (0 : Flags)
          let en := fl.enabled (s.thread q).fte
          let s1 := s.orFsr q fl
          let p := s.prog q
          let put (m : SMap Word) : SMap Word := rs.foldl (fun m r => SMap.set m r.1 r.2.1) m
          if en ≠ 0 then .trapAt s1 .fpx (zx64 en) p.pc p.pend
          else
            .retire ((s1.setArc q.core (if adj then { x with pa := put x.pa } else { x with pv := put x.pv })).holdFor q
              ((n + 15) / 16))))

/-- `ASP.WIN` (R302). -/
def execAspWin (d a : Reg) (s : State) : Out :=
  issue s 1 .any fun q s =>
    s.ready q [srcS a] []
      (let v := s.getS q a
       let x := s.arc q.core
       if 8192 ≤ v.toNat then .trap .illegal v
       else .retire (s.setArc q.core { x with wb := SMap.set x.wb d.toNat v }))

/-- `ASP.SEED` (R303). -/
def execAspSeed (a : Reg) (s : State) : Out :=
  issue s 1 .any fun q s =>
    s.ready q [srcS a] [] (.retire (s.setArc q.core { s.arc q.core with seed := s.getS q a }))

/-- `ASP.CLRA` (R304). -/
def execAspClra (d a : Reg) (s : State) : Out :=
  issue s 1 .any fun q s =>
    s.ready q [srcS d, srcS a] []
      (aspRange (s.getS q d) (s.getS q a) fun n f =>
        let x := s.arc q.core
        if x.anyEmpty f n then .stall
        else .retire ((s.setArc q.core { x with pa := (List.range n).foldl (fun m i => SMap.set m (f + i) 0) x.pa }).holdFor q
          ((n + 15) / 16)))

end Sys2Proof.Machine
end

