-- ==== Sys2Proof/Machine/Global.lean ====
section
/-! DEFINITION. The control core's global loads, stores, atomics, `MARK` and `FENCE` in both modes (R225–R231), the
modes, the tape and the adjoint instructions (R335–R341). -/

namespace Sys2Proof.Machine

/-- The checks that a global access makes at issue: alignment, bits 63:57, translation, element-wise page (R227–R229). -/
def State.globalPage (s : State) (q : Seqr) (ea : DWord) (size : Nat) (r w : Bool) (k : Page → State → Res) : Res :=
  if ea.toNat % size ≠ 0 then .trap .align ea
  else if ea >>> 57 ≠ 0 then .trap .xlate ea
  else s.withPage q.core ea.toNat r w fun p s1 => if p.geom ≠ 0 then .trap .prot ea else k p s1

/-- The address of the adjoint cell of an element of a page (R212). -/
def cellVa (z va : Nat) : Nat := 2 ^ 56 + va / z * 8

/-- `frm` as a rounding mode. -/
def Ctx.mode5 (t : Ctx) : Rm := Rm.ofField t.frm

/-- A reverse-mode instruction's accesses have entered the queues: with a flag enabled the thread is held until they have
performed, otherwise the instruction retires (R337). -/
def State.adjIssued (s : State) (q : Seqr) (group : Nat) : Res :=
  if (s.thread q).fte &&& 0xFF ≠ 0 then .whole (s.holdOn q (.adj group)) else .retire s

/-! ### `LDG` and `STG` (R227, R231) -/

/-- Reverse-mode `LDG.w` on a D page: the add to the cell, and d becomes 0 (R231). -/
def State.ldgRev (s : State) (q : Seqr) (d : Reg) (ea : DWord) (size : Nat) (p : Page) : Res :=
  if size ≠ 4 ∨ p.esize ≠ 4 then .trap .mode ea
  else s.withPage q.core (cellVa 4 ea.toNat) true true fun cp s =>
    let cpa := cp.pa (cellVa 4 ea.toNat)
    if !s.admits q false true [cpa] then .stall
    else
      let x := (s.getS q d).toNat % 2 ^ 32
      let (s1, g) := (s.setS q d 0).enqueue q [{ id := 0, kind := .adjAdd cp.scale p.fmt x, va := ea.toNat, pa := cpa, isSt := true }]
      s1.adjIssued q g

/-- `LDG` (R227). -/
def ldg (s : State) (d a : Reg) (imm : BitVec 12) (size : Nat) : Out :=
  issue s 1 .any fun q s =>
    s.ready q [srcS a] [srcS d]
      (let ea := s.getS q a + sx64 imm
       s.globalPage q ea size true false fun p s =>
         if p.d && (s.thread q).modeRev then s.ldgRev q d ea size p
         else if !s.admits q true false [p.pa ea.toNat] then .stall
         else
           let (s1, _) := s.enqueue q [{ id := 0, kind := .ldg d.toNat size, va := ea.toNat, pa := p.pa ea.toNat,
                                         isLd := true, dpage := p.d }]
           .retire (s1.setProg q ((s1.prog q).markEmpty d.toNat)))

def execLdgW (d a : Reg) (imm : BitVec 12) (s : State) : Out := ldg s d a imm 4
def execLdgD (d a : Reg) (imm : BitVec 12) (s : State) : Out := ldg s d a imm 8

/-- Reverse-mode `STG.w` on a D page: the cell is read and cleared into d, and the element restored from the tape
(R231, R336). -/
def State.stgRev (s : State) (q : Seqr) (d : Reg) (ea : DWord) (size : Nat) (p : Page) : Res :=
  if size ≠ 4 ∨ p.esize ≠ 4 then .trap .mode ea
  else s.withPage q.core (cellVa 4 ea.toNat) true true fun cp s =>
    s.tapePop q 1 ea.toNat fun old s =>
      let cpa := cp.pa (cellVa 4 ea.toNat)
      let pa := p.pa ea.toNat
      if !s.admits q false true [cpa, pa] then .stall
      else
        let (s1, g) := s.enqueue q
          [{ id := 0, kind := .adjTake cp.scale p.fmt (s.thread q).mode5 0, va := ea.toNat, pa := cpa, isSt := true },
           { id := 0, kind := .restore (natOfBytes (old.take 4)) d.toNat 0, va := ea.toNat, pa := pa, isSt := true }]
        (s1.setProg q ((s1.prog q).markEmpty d.toNat)).adjIssued q g

/-- `STG` (R227): on a D page in forward mode it pushes a tape record. -/
def stg (s : State) (d a : Reg) (imm : BitVec 12) (size : Nat) : Out :=
  issue s 1 .any fun q s =>
    s.ready q [srcS a, srcS d] []
      (let ea := s.getS q a + sx64 imm
       s.globalPage q ea size false true fun p s =>
         let store (tape : List Nat) (s : State) : Res :=
           if !s.admits q false true [p.pa ea.toNat] then .stall
           else
             .retire (s.enqueue q [{ id := 0, kind := .stg size ((s.getS q d).toNat % 2 ^ (8 * size)), va := ea.toNat,
                                     pa := p.pa ea.toNat, isSt := true, tape := tape }]).1
         if !p.d then store [] s
         else if (s.thread q).modeRev then s.stgRev q d ea size p
         else s.tapeReserve q (if size = 4 then 1 else 2) ea.toNat store)

def execStgW (d a : Reg) (imm : BitVec 12) (s : State) : Out := stg s d a imm 4
def execStgD (d a : Reg) (imm : BitVec 12) (s : State) : Out := stg s d a imm 8

/-! ### `LDL` and `STL` (R228, R231) -/

/-- The checks of R228 in order. -/
def State.linePage (s : State) (q : Seqr) (av bv : DWord) (r w : Bool) (k : Page → State → Res) : Res :=
  if av.toNat % 128 ≠ 0 then .trap .align av
  else match spadCheck bv 128 with
    | some (c, v) => .trap c v
    | none => s.globalPage q av 128 r w fun p s => if s.lineBusy q bv.toNat 128 then .stall else k p s

/-- The elements of a line as accesses to their cells, which lie one after another (R212). -/
def cellAccs (p cp : Page) (va : Nat) (kind : Nat → AccKind) : List Acc :=
  (List.range (128 / p.esize)).map (fun i =>
    { id := 0, kind := kind i, va := va + i * p.esize, pa := cp.pa (cellVa p.esize va) + 8 * i, isSt := true })

/-- `LDL` (R228, R231). -/
def execLdl (a b : Reg) (s : State) : Out :=
  issue s 1 .any fun q s =>
    s.ready q [srcS a, srcS b] []
      (let av := s.getS q a
       let bv := s.getS q b
       s.linePage q av bv true false fun p s =>
         let va := av.toNat
         if p.d && (s.thread q).modeRev then
           s.withPage q.core (cellVa p.esize va) true true fun cp s =>
             let w := 8 * p.esize
             let line := s.spadRead q bv.toNat 128
             let as := cellAccs p cp va (fun i => .adjAdd cp.scale p.fmt (line / 2 ^ (w * i) % 2 ^ w))
             if !s.admits q false true (as.map (fun x => x.pa)) then .stall
             else
               let (s1, g) := (s.spadWrite q bv.toNat 128 0).enqueue q as
               s1.adjIssued q g
         else if !s.admits q true false [p.pa va] then .stall
         else .retire (s.enqueue q [{ id := 0, kind := .ldl bv.toNat, va := va, pa := p.pa va, isLd := true,
                                      dpage := p.d }]).1)

/-- `STL` (R228, R231). -/
def execStl (a b : Reg) (s : State) : Out :=
  issue s 1 .any fun q s =>
    s.ready q [srcS a, srcS b] []
      (let av := s.getS q a
       let bv := s.getS q b
       s.linePage q av bv false true fun p s =>
         let va := av.toNat
         let store (tape : List Nat) (s : State) : Res :=
           if !s.admits q false true [p.pa va] then .stall
           else
             .retire (s.enqueue q [{ id := 0, kind := .stl ((s.core q.core).spad.readBytes bv.toNat 128), va := va, pa := p.pa va,
                                     isSt := true, tape := tape }]).1
         if !p.d then store [] s
         else if !(s.thread q).modeRev then s.tapeReserve q 3 va store
         else
           s.withPage q.core (cellVa p.esize va) true true fun cp s =>
             s.tapePop q 3 va fun old s =>
               let rm := (s.thread q).mode5
               let takes := cellAccs p cp va (fun i => .adjTake cp.scale p.fmt rm (i * p.esize))
               if !s.admits q false true (p.pa va :: takes.map (fun x => x.pa)) then .stall
               else
                 let (s1, g) := s.enqueue q (takes ++
                   [{ id := 0, kind := .line bv.toNat (List.replicate 128 0) },
                    { id := 0, kind := .restoreLine old, va := va, pa := p.pa va, isSt := true }])
                 s1.adjIssued q g)

/-! ### Atomics, `MARK`, fences (R226, R229, R230) -/

/-- `GAMO` (R229): a D page traps MODE in both modes. -/
def execGamo (d a b fn : Reg) (lw : LW) (s : State) : Out :=
  issue s 2 .any fun q s => guarded lw q s
    (s.ready q [srcS a lw.ta, srcS b lw.tb, srcS lw.x lw.tc] [srcS d]
      (let ea := s.getS q a
       let size := gamoSize fn.toNat
       let acq := lw.y.getLsbD 1
       let rel := lw.y.getLsbD 0
       s.globalPage q ea size true true fun p s =>
         if p.d then .trap .mode ea
         else if !s.admits q rel true [p.pa ea.toNat] then .stall
         else
           let k : AccKind := .gamo d.toNat fn.toNat (GamoExt.op lw.y) ((s.getS q b).toNat % 2 ^ (8 * size))
             ((s.getS q lw.x).toNat % 2 ^ (8 * size)) (s.rm q lw.rm) p.scale acq rel
           let (s1, _) := s.enqueue q [{ id := 0, kind := k, va := ea.toNat, pa := p.pa ea.toNat, isLd := rel, isSt := true }]
           .retire (s1.setProg q ((s1.prog q).markEmpty d.toNat))))

/-- `MARK` (R226): it waits in the load queue. -/
def execMark (s : State) : Out :=
  issue s 1 .any fun q s =>
    if !s.admits q true false [] then .stall
    else .retire (s.enqueue q [{ id := 0, kind := .mark, isLd := true }]).1

/-- The condition of a fence's scope: 0 core, 1 hall, 2 pkg, 3 sys (R230). At scope core every earlier load and `GAMO` has performed, and the
stores then leave the landing; a write of a thread to its BAR0 queues is visible to the host when it is made. -/
def Ctx.fenceDone (t : Ctx) (scope : Nat) : Bool :=
  t.accs.all (fun a => a.done || (decide (scope = 0) && (a.isPlainStore || a.isMark)))

/-- The stores of the thread leave the core's landing, behind what has been injected before them (R230). -/
def State.leaveLanding (s : State) (q : Seqr) : State :=
  let t := s.thread q
  let n := s.now
  let l := s.injectable q.core
  s.setThread q { t with accs := t.accs.map (fun a =>
    if a.isPlainStore && a.left.isNone then { a with left := some n, ahead := l } else a) }

/-- What a fence whose condition holds does: at scope core the thread's stores leave the landing (R230; log entry 61). -/
def State.fencePass (s : State) (q : Seqr) (scope : Nat) : State := if scope = 0 then s.leaveLanding q else s

/-- `FENCE` (R230): it holds the thread until its condition holds. -/
def execFence (imm24 : BitVec 24) (s : State) : Out :=
  issue s 1 .any fun q s =>
    let scope := imm24.toNat % 4
    if (s.thread q).fenceDone scope then .retire (s.fencePass q scope) else .whole (s.holdOn q (.fence scope))

/-! ### Modes and the tape (R335, R339) -/

/-- The access is one that a switch of mode waits for: an access of a D page or of its cells, a tape record (R335). -/
def Acc.onD (a : Acc) : Bool :=
  match a.kind with
  | .ldg _ _ => a.dpage
  | .ldl _ => a.dpage
  | .line _ _ => false
  | .stg _ _ => !a.tape.isEmpty
  | .stl _ => !a.tape.isEmpty
  | .gamo _ _ _ _ _ _ _ _ _ => false
  | .mark => false
  | _ => true

/-- What a switch of mode waits for (R335). -/
def State.modeReady (s : State) (q : Seqr) : Bool :=
  (s.thread q).accs.all (fun a => a.performed || !a.onD)
    && !(s.core q.core).items.any (fun i => i.owner == s.ownerCtx q && i.dpage)

/-- `MODE.FWD` and `MODE.REV` (R335): a switch to the mode in force waits as well. -/
def modeSwitch (rev : Bool) (s : State) : Out :=
  issue s 1 .any fun q s =>
    if s.modeReady q then .retire (s.setThread q { s.thread q with modeRev := rev })
    else .whole (s.holdOn q (.modeSwitch rev))

def execModeFwd (s : State) : Out := modeSwitch false s
def execModeRev (s : State) : Out := modeSwitch true s

/-- A tape record of the thread is still to be written (R339). -/
def Ctx.tapePending (t : Ctx) : Bool :=
  t.accs.any (fun a => !a.done && (!a.tape.isEmpty || (match a.kind with
    | .tapeWrite _ _ => true
    | _ => false)))

/-- A new, empty tape (R339). -/
def Ctx.newTape (t : Ctx) (base limit : DWord) : Ctx := { t with tapebase := base, tapeptr := base, tapelim := limit }

/-- An address that a tape register refuses (R331). -/
def tapeAddrBad (v : DWord) : Bool := v >>> 56 != 0 || v &&& 0xF != 0

/-- `TAPE.SET` (R339). -/
def execTapeSet (a b : Reg) (s : State) : Out :=
  issue s 1 .any fun q s =>
    s.ready q [srcS a, srcS b] []
      (let av := s.getS q a
       let bv := s.getS q b
       if tapeAddrBad av then .trap .illegal av
       else if tapeAddrBad bv || decide (bv.toNat < av.toNat) then .trap .illegal bv
       else if (s.thread q).tapePending then .whole (s.holdOn q (.tapeSet av bv))
       else .retire (s.setThread q ((s.thread q).newTape av bv)))

/-! ### Adjoint instructions (R340, R341) -/

/-- `ADJ.LD` (R340): with a flag enabled it is held until its value has returned, so that FPX is precise. -/
def execAdjLd (d a : Reg) (imm : BitVec 12) (s : State) : Out :=
  issue s 1 .any fun q s =>
    s.ready q [srcS a] [srcS d]
      (let ea := s.getS q a + sx64 imm
       if ea >>> 56 ≠ 0 then .trap .xlate ea
       else s.withPage q.core ea.toNat true false fun p s =>
         if !p.d then .trap .mode ea
         else if ea.toNat % p.esize ≠ 0 then .trap .align ea
         else s.withPage q.core (cellVa p.esize ea.toNat) true false fun cp s =>
           if !s.admits q true false [] then .stall
           else
             let (s1, g) := s.enqueue q [{ id := 0, kind := .adjRead cp.scale p.fmt (s.thread q).mode5 d.toNat, va := ea.toNat,
                                           pa := cp.pa (cellVa p.esize ea.toNat), isLd := true }]
             (s1.setProg q ((s1.prog q).markEmpty d.toNat)).adjIssued q g)

/-- The runs of cells of a page's elements from `lo` to `hi`, over the shadow pages. -/
def cellRuns (ps : List Page) (z lo hi : Nat) : List (Nat × Nat) :=
  ps.map (fun cp =>
    let a := max cp.base (cellVa z lo)
    let b := min (cp.base + cp.size) (cellVa z (hi + 1))
    (cp.pa a, (b - a) / 8))

/-- What the checks of `ADJ.CLR` come to: the runs of cells and the number of primary pages (R341). -/
inductive ClrCheck where
  | runs (rs : List (Nat × Nat)) (pages : Nat) (s : State)
  | trap (c : Cause) (v : DWord)
  | noMemory
  deriving DecidableEq, Repr

/-- The checks of `ADJ.CLR` page by page, ascending (R341). -/
def clrCheck (core lo hi : Nat) : Nat → State → Nat → ClrCheck
  | 0, s, _ => .runs [] 0 s
  | n + 1, s, va =>
    match s.xlate core va true false with
    | .trap c v => .trap c v
    | .noMemory => .noMemory
    | .page p s1 =>
      let last := min hi (p.base + p.size - 1)
      let z := p.esize
      if !p.d then .trap .mode (BitVec.ofNat 64 va)
      else if va = lo ∧ lo % z ≠ 0 then .trap .align (BitVec.ofNat 64 (lo / z * z))
      else if last = hi ∧ (hi + 1) % z ≠ 0 then .trap .align (BitVec.ofNat 64 ((hi + 1) / z * z))
      else match State.xlateRange core (cellVa z last + 7) false true (fun _ => none) (8 * p.size / 65536 + 2) s1 (cellVa z va) with
        | .trap c v => .trap c v
        | .noMemory => .noMemory
        | .pages ps s2 =>
          let rs := cellRuns ps z va last
          if last = hi then .runs rs 1 s2
          else match clrCheck core lo hi n s2 (p.base + p.size) with
            | .runs rs2 m s3 => .runs (rs ++ rs2) (m + 1) s3
            | x => x

/-- `ADJ.CLR` (R341): the zero stores enter the store queue as one entry. -/
def execAdjClr (a b : Reg) (s : State) : Out :=
  issue s 1 .any fun q s =>
    s.ready q [srcS a, srcS b] []
      (let av := s.getS q a
       let bv := s.getS q b
       let hi := (av + bv - 1).toNat
       if 2 ^ 32 < bv.toNat then .trap .illegal bv
       else if bv = 0 then .retire s
       else if av >>> 56 ≠ 0 ∨ (av + bv - 1) >>> 56 ≠ 0 then .trap .xlate av
       else match clrCheck q.core av.toNat hi (bv.toNat / 65536 + 2) s av.toNat with
         | .trap c v => .trap c v
         | .noMemory => .stop .noMemory
         | .runs rs pages s =>
           if !s.admits q false true [] then .stall
           else .retire ((s.enqueue q [{ id := 0, kind := .adjClear rs, va := av.toNat, isSt := true }]).1.holdFor q (2 + pages)))

/-- A value that a cell gave goes to the instruction's other accesses: the register's value of a restore, the element's
bytes of a line. -/
def Acc.takeValue (b : Acc) (fmt v off : Nat) : Acc :=
  match b.kind with
  | .restore data reg _ => { b with kind := .restore data reg (elemToReg fmt v) }
  | .line sp data =>
    let n := Fmt.width fmt / 8
    { b with kind := .line sp (data.take off ++ bytesOfNat n v ++ data.drop (off + n)) }
  | _ => b

/-- The value that an access's cell gave, to the other accesses of its instruction. -/
def State.giveCell (s : State) (c x : Nat) (a : Acc) (fmt v off : Nat) : State :=
  let t := s.ctx c x
  s.setCtx c x { t with accs := t.accs.map (fun b => if b.group = a.group then b.takeValue fmt v off else b) }

/-- ADJ_CELL_PERFORM: an adjoint access performs at the owner of its cell: an add, a read-and-clear, the read of an
`ADJ.LD` or the next zero of an `ADJ.CLR` (R231, R336, R337, R340, R341). -/
def execAdjCellPerform (s : State) : Out :=
  let c := s.target.core
  let x := s.target.unit
  match s.performable with
  | none => .next s
  | some a =>
    let cell : DWord := BitVec.ofNat 64 (s.hbm.readN a.pa 8)
    match a.kind with
    | .adjAdd scale fmt bits =>
      let (v, f1) := readVal fmt bits
      let (r, f2) := fxAdd scale cell v
      .next ((s.hbmWriteN a.pa 8 r.toNat).finishAcc c x a (f1 ||| f2))
    | .adjTake scale fmt rm off =>
      let (v, f) := writeVal fmt rm true (.fin (fxExact scale cell))
      .next (((s.hbmWriteN a.pa 8 0).giveCell c x a fmt v off).finishAcc c x a f)
    | .adjRead _ _ _ _ => .next (s.adjRead c x a)
    | .adjClear ((pa, n) :: r) =>
      let s1 := s.hbmWriteN pa 8 0
      let rest := if n ≤ 1 then r else (pa + 8, n - 1) :: r
      let a1 := { a with kind := .adjClear rest }
      .next (if rest.isEmpty then s1.finishAcc c x a1 0 else s1.setAcc c x a1)
    | .adjClear [] => .next (s.finishAcc c x a 0)
    | _ => .next s

end Sys2Proof.Machine
end

