-- ==== Sys2Proof/Machine/Threads.lean ====
section
/-! DEFINITION. Size classes, fork and join, the stage unit and groups (R103, R104, R114–R126). -/

namespace Sys2Proof.Machine

/-! ### Size classes (R114, R115) -/

/-- A word of the core's control-core memory by its byte address: what `SELECT` reads, at level M too, for the spec names no other
memory (R29, R115). -/
def Core.cword (k : Core) (a : Nat) : Word := SMap.get 0 k.imemC (a / 4)
/-- The pair that holds a word of control-core memory has an uncorrectable error (R30). -/
def Core.cbad (k : Core) (a : Nat) : Bool := k.badWords.any (fun b => decide (b.1 = .control) && b.2 / 2 == a / 4 / 2)

/-- The address is that of word 2 of a control-core line of kind 01 (R114, R115). -/
def Core.sizeLine (k : Core) (n : Nat) : Bool :=
  decide (n < IMem.control.bytes) && n % 128 == 8 && (k.cword (n - 8)).toNat / 2 ^ 30 == 1
/-- The number of variants that word 2 of a size-class record gives, none where it has another form (R114, R115). -/
def Core.sizeCount (k : Core) (n : Nat) : Option Nat :=
  let w := (k.cword n).toNat
  if w / 2 ^ 16 = 0x5343 ∧ 1 ≤ w % 2 ^ 16 ∧ w % 2 ^ 16 ≤ 8 then some (w % 2 ^ 16) else none

/-- A word that the reading of a size-class record needs is damaged (R30): the header of a line of the memory, then word 2 of a literal
line, then the variants that word 2 counts. -/
def Core.sizeBad (k : Core) (n : Nat) : Bool :=
  decide (n < IMem.control.bytes) && n % 128 == 8 &&
    (k.cbad (n - 8) || k.sizeLine n && (k.cbad n ||
      (match k.sizeCount n with
       | some c => (List.range (2 * c)).any (fun j => k.cbad (n + 4 + 4 * j))
       | none => false)))

/-- The variants of a size-class record at an address, none where it is malformed: (class, entry) in order (R114, R115). -/
def Core.sizeRecord (k : Core) (n : Nat) : Option (List (Nat × Nat)) :=
  if !k.sizeLine n then none
  else (k.sizeCount n).bind fun c =>
    let vs := (List.range c).map (fun j => ((k.cword (n + 4 + 8 * j)).toNat, (k.cword (n + 8 + 8 * j)).toNat))
    if (List.range (c - 1)).all (fun j => decide ((vs.getD j (0, 0)).1 < (vs.getD (j + 1) (0, 0)).1)) then some vs
    else none

/-- `SELECT` (R115): the entry of the smallest class that holds b, all ones where none does; a damaged word of the record traps ECCU
with the address of word 0 of its line (R30). -/
def execSelectSize (d a b : Reg) (s : State) : Out :=
  issue s 1 .any fun q s =>
    s.ready q [srcS a, srcS b] [srcS d]
      (let k := s.core q.core
       let n := (s.getS q a).toNat
       if k.sizeBad n then .trap .eccu (BitVec.ofNat 64 (n - 8))
       else match k.sizeRecord n with
       | none => .trap .illegal (s.getS q a)
       | some vs =>
         let r := match vs.find? (fun v => decide ((s.getS q b).toNat ≤ v.1)) with
           | some v => BitVec.ofNat 64 v.2
           | none => allOnes64
         .retire ((s.setS q d r).holdFor q 4))

/-! ### Fork and join (R116–R119) -/

/-- A forked program's context: s1, s2 and the exit link set, the entry to be checked at its first fetch (R116). -/
def forkProg (entry faddr arg : DWord) (tid : Nat) : Prog where
  pc := entry
  arrive := .fork faddr
  s := [(1, arg), (2, BitVec.ofNat 64 tid), (63, exitLink)]

/-- The free vector slot that `FORK.V` claims. R116 says only that it claims a free one; that it is the lowest, which d then shows, is
the model's choice (DESIGN CHOICE, log entry 54). -/
def State.freeSlot (s : State) (c : Nat) : Option Nat := [0, 1, 2, 3].find? (fun k => (s.slot c k).owner.isNone)

/-- `FORK.V` (R116, R167). -/
def execForkV (d a b : Reg) (s : State) : Out :=
  issue s 1 .any fun q s =>
    s.ready q [srcS a, srcS b] [srcS d]
      (let t := s.thread q
       if t.forkV ≠ .none then .trap .illegal (s.pcOf q)
       else match s.freeSlot q.core with
         | none => .stall
         | some k =>
           let p := forkProg (s.getS q a) (s.pcOf q) (s.getS q b) (tidOf q.core (s.ownerCtx q))
           let s1 := s.setThread q { t with forkV := .running, vfr := {} }
           .retire ((s1.setSlot q.core k { owner := some (s.ownerCtx q), prog := p }).setS q d (BitVec.ofNat 64 k)))

/-- `FORK.A` (R116, R305). -/
def execForkA (d a b : Reg) (s : State) : Out :=
  issue s 1 .any fun q s =>
    s.ready q [srcS a, srcS b] [srcS d]
      (let t := s.thread q
       if t.forkA ≠ .none then .trap .illegal (s.pcOf q)
       else if (s.arc q.core).owner.isSome then .stall
       else
         let p := forkProg (s.getS q a) (s.pcOf q) (s.getS q b) (tidOf q.core (s.ownerCtx q))
         let s1 := s.setThread q { t with forkA := .running, afr := {} }
         .retire ((s1.setArc q.core { s1.arc q.core with owner := some (s.ownerCtx q), prog := p, wb := [], seed := (s.thread q).tseed }).setS q d 0))

/-- `RDV` (R118): it waits while a selected program runs, then joins. -/
def execRdv (d a : Reg) (s : State) : Out :=
  issue s 1 .any fun q s =>
    s.ready q [srcS a] [srcS d]
      (let v := s.getS q a
       let t := s.thread q
       let selV := v.getLsbD 0
       let selA := v.getLsbD 1
       if v >>> 2 ≠ 0 then .trap .illegal v
       else if selV && t.forkV == .running || selA && t.forkA == .running then .stall
       else
         let r := bit (selV && t.forkV == .ended true) + 2 * bit (selA && t.forkA == .ended true)
         let t' := { t with forkV := if selV then .none else t.forkV, forkA := if selA then .none else t.forkA }
         .retire ((s.setThread q t').setS q d (BitVec.ofNat 64 r)))

/-! ### The stage unit (R120–R122) -/

/-- The thread may use end `fromEnd` of queue `n` (R121). -/
def State.queueOk (s : State) (q : Seqr) (n : DWord) (fromEnd : Bool) : Option StageQueue :=
  match (s.thread q).stage with
  | none => none
  | some st =>
    if n.toNat < (s.core q.core).queues.length then
      let k : StageQueue := SMap.get ⟨0, 0, 0, []⟩ (s.core q.core).queues n.toNat
      if (if fromEnd then k.from_ else k.to_) = st then some k else none
    else none

def State.setQueue (s : State) (c n : Nat) (k : StageQueue) : State :=
  let e := s.core c
  s.setCore c { e with queues := SMap.set e.queues n k }

/-- `ENQ` (R121): a full queue answers 1. -/
def execEnq (d a b : Reg) (s : State) : Out :=
  issue s 1 .any fun q s =>
    s.ready q [srcS a, srcS b] [srcS d]
      (match s.queueOk q (s.getS q a) true with
       | none => .trap .queue (s.getS q a)
       | some k =>
         if k.depth ≤ k.entries.length then .retire (s.setS q d 1)
         else .retire ((s.setQueue q.core (s.getS q a).toNat { k with entries := k.entries ++ [s.getS q b] }).setS q d 0))

/-- `DEQ` (R121): the oldest entry and 0, or 0 and 1 from an empty queue, in the pair (d, d + 1). -/
def execDeq (d a : Reg) (s : State) : Out :=
  issue s 1 .any fun q s =>
    s.ready q [srcS a] [srcS d, srcS (d + 1)]
      (match s.queueOk q (s.getS q a) false with
       | none => .trap .queue (s.getS q a)
       | some k =>
         match k.entries with
         | [] => .retire ((s.setS q d 0).setS q (d + 1) 1)
         | e :: r => .retire (((s.setQueue q.core (s.getS q a).toNat { k with entries := r }).setS q d e).setS q (d + 1) 0))

/-- Entries in the queues whose TO is a stage (R122). -/
def Core.occupancy (k : Core) (st : Nat) : Nat :=
  (k.queues.filter (fun e => e.2.to_ == st)).foldl (fun n e => n + e.2.entries.length) 0
/-- None of the queues whose FROM is the stage is full (R122). -/
def Core.isOpen (k : Core) (st : Nat) : Bool :=
  (k.queues.filter (fun e => e.2.from_ == st)).all (fun e => decide (e.2.entries.length < e.2.depth))

/-- The declared stages in ascending order with their functions. -/
def Core.stageList (k : Core) : List (Nat × Nat) :=
  (List.range 8).filterMap (fun i => k.stages.find? (fun e => e.1 == i))

/-- The balancer's best stage: the open one of greatest occupancy, ties to the lowest number (R122). -/
def Core.bestStage (k : Core) : Option (Nat × Nat) :=
  k.stageList.foldl (fun b e =>
    if k.isOpen e.1 then
      match b with
      | none => some e
      | some f => if k.occupancy f.1 < k.occupancy e.1 then some e else b
    else b) none

/-- A thread that may move: it has a stage, stands in no slot, has no active loop, no fork, no handler (R122). -/
def Ctx.mayMove (t : Ctx) : Bool :=
  t.stage.isSome && !t.prog.inSlot && t.prog.loops.order.isEmpty && t.forkV == .none && t.forkA == .none && !t.modeH

/-- The member threads of a stage. A thread whose context is saved is one too, so that a save changes no thread's result (R2, R366; DEDUCED,
log entry 36). -/
def Core.stageMembers (k : Core) (st : Nat) : Nat :=
  (k.ctxs.filter (fun e => e.2.live && e.2.stage == some st && !k.savedCtxs.any (fun f => f.1 == e.1))).length
    + (k.savedCtxs.filter (fun e => e.2.stage == some st)).length

/-- `YIELD` (R122). -/
def execYieldStage (s : State) : Out :=
  issue s 1 .any fun q s =>
    let t := s.thread q
    let k := s.core q.core
    match t.stage, k.bestStage with
    | some cur, some best =>
      if t.mayMove && decide (k.occupancy cur < k.occupancy best.1)
          && decide (1 < k.stageMembers cur) then
        s.ready q [] [srcS 3]
          (.goto ((s.setThread q { t with stage := some best.1 }).setS q 3 (BitVec.ofNat 64 best.1)) (BitVec.ofNat 64 best.2))
      else .retire s
    | _, _ => .retire s

/-! ### Groups (R123–R126) -/

/-- The live entry of a group id. -/
def State.group (s : State) (gid : Nat) : Option Group := (s.groups.find? (fun e => e.1 == gid)).map Prod.snd
def State.setGroup (s : State) (gid : Nat) (g : Group) : State := { s with groups := SMap.set s.groups gid g }
/-- Free an entry that has no member, no pending member and no waiter (R124). -/
def State.freeGroup (s : State) (gid : Nat) : State := { s with groups := SMap.erase s.groups gid }

/-- A member that has not left (R124). -/
def Group.isMember (g : Group) (tid : Nat) : Bool := g.members.any (fun m => m.tid == tid && !m.leaving)
def Group.isPending (g : Group) (tid : Nat) : Bool := g.pending.any (fun m => m.tid == tid)
def Group.has (g : Group) (tid : Nat) : Bool := g.isMember tid || g.isPending tid
/-- Members that have arrived in the open generation. -/
def Group.arrivals (g : Group) : Nat := (g.members.filter Member.arrived).length
/-- The generation number after one, which wraps at 32 bits (R123). -/
def genNext (g : Nat) : Nat := (g + 1) % 2 ^ 32

/-- Change a thread's standing arrivals, those kept of its saved context too (R124, R356). -/
def State.mapBars (s : State) (tid : Nat) (f : List Bar → List Bar) : State :=
  let c := tid / 24
  let x := tid % 24
  let t := s.ctx c x
  let s1 := s.setCtx c x { t with bars := f t.bars }
  let k := s1.core c
  s1.setCore c { k with savedCtxs := SMap.mapVals (fun y e => if y = x then { e with bars := f e.bars } else e) k.savedCtxs }

/-- A thread's standing arrival in a group is released, or becomes an arrival in a generation (R124). -/
def State.setBar (s : State) (tid : Nat) (gid : Nat) (f : Bar → Bar) : State :=
  s.mapBars tid (fun l => l.map (fun b => if b.gid = gid then f b else b))

/-- A pending member that leaves waits no more: a `BAR` of its that executes again finds it in neither set (R124). -/
def State.dropWait (s : State) (tid gid : Nat) : State := s.mapBars tid (fun l => l.filter (fun b => b.gid != gid || b.arrived))

/-- `complete(G)` of R124, repeated where the pending waiters complete the next generation at once. -/
def State.completeGroup : Nat → State → Nat → State
  | 0, s, _ => s
  | n + 1, s, gid =>
    match s.group gid with
    | none => s
    | some g =>
      if g.members.isEmpty || g.arrivals != g.members.length then s
      else
        let s1 := g.members.foldl
          (fun s m => s.setBar m.tid gid (fun b => if b.arrived && b.gen == g.gen then { b with released := true } else b)) s
        let s2 := (g.pending.filter (fun m => m.waiting)).foldl
          (fun s m => s.setBar m.tid gid (fun b => { b with arrived := true, gen := genNext g.gen })) s1
        let ms := (g.members.filter (fun m => !m.leaving)).map (fun m => { m with arrived := false })
          ++ g.pending.map (fun m => ⟨m.tid, m.waiting, false⟩)
        if ms.isEmpty then s2.freeGroup gid
        else (s2.setGroup gid { g with gen := genNext g.gen, members := ms, pending := [] }).completeGroup n gid

/-- The thread number of the thread that runs. -/
def State.tid (s : State) (q : Seqr) : Nat := tidOf q.core (s.ownerCtx q)

/-- `GRP.JOIN` (R124): where it is refused it traps GRP. -/
def execGrpJoin (d a : Reg) (s : State) : Out :=
  issue s 1 .any fun q s =>
    s.ready q [srcS a] [srcS d]
      (let v := s.getS q a
       let gid := v.toNat
       let tid := s.tid q
       let g := (s.group gid).getD ⟨(s.core q.core).asid, 0, [], []⟩
       if 4096 ≤ gid ∨ g.asid ≠ (s.core q.core).asid ∨ g.has tid ∨ 4 ≤ (s.groups.filter (fun e => e.2.has tid)).length then
         .trap .grp v
       else if g.arrivals = 0 then
         .retire ((s.setGroup gid { g with members := g.members ++ [⟨tid, false, false⟩] }).setS q d (BitVec.ofNat 64 g.gen))
       else
         .retire ((s.setGroup gid { g with pending := g.pending ++ [⟨tid, false⟩] }).setS q d
           (BitVec.ofNat 64 (genNext g.gen))))

/-- A thread leaves a group: a pending member is removed; a member is marked leaving, which counts as its arrival unless it waits at
`GRP.BAR`, when its standing arrival does (R124). -/
def State.leaveGroup (s : State) (tid gid : Nat) : State :=
  match s.group gid with
  | none => s
  | some g =>
    let g1 : Group :=
      if g.isPending tid then { g with pending := g.pending.filter (fun m => m.tid != tid) }
      else { g with members := g.members.map (fun m => if m.tid = tid then { m with arrived := true, leaving := true } else m) }
    let s1 := if g.isPending tid then s.dropWait tid gid else s
    if g1.members.isEmpty && g1.pending.isEmpty then s1.freeGroup gid
    else (s1.setGroup gid g1).completeGroup 3 gid

/-- Every access of the thread's queues has performed and every line is written: what a release at package scope
waits for (R125, R237). -/
def Ctx.quiet (t : Ctx) : Bool := t.accs.isEmpty

/-- `GRP.LEAVE` (R124, R125): a release, so it waits for the thread's earlier accesses. -/
def execGrpLeave (d a : Reg) (s : State) : Out :=
  issue s 1 .any fun q s =>
    s.ready q [srcS a] [srcS d]
      (let v := s.getS q a
       let tid := s.tid q
       match s.group v.toNat with
       | none => .trap .grp v
       | some g =>
         if 4096 ≤ v.toNat ∨ ¬ g.has tid then .trap .grp v
         else if !(s.thread q).quiet then .stall
         else
           let r := if g.isPending tid then genNext g.gen else g.gen
           .retire ((s.leaveGroup tid v.toNat).setS q d (BitVec.ofNat 64 r)))

/-- A `BAR` whose arrival has been released completes: the record goes and d receives the generation (R124). -/
def State.finishBar (s : State) (q : Seqr) (gid : Nat) (d : Nat) (b : Bar) : State :=
  let t := s.thread q
  let s1 := s.setThread q { t with bars := t.bars.filter (fun x => x.gid != gid) }
  s1.setProg q ((s1.prog q).setS d (BitVec.ofNat 64 b.gen))

/-- `GRP.BAR` (R124, R125): it arrives once, waits in the barrier, and completes with the generation it arrived in. -/
def execGrpBar (d a : Reg) (s : State) : Out :=
  issue s 1 .any fun q s =>
    s.ready q [srcS a] [srcS d]
      (let v := s.getS q a
       let gid := v.toNat
       let tid := s.tid q
       let t := s.thread q
       let waitOrDone (s : State) : Res :=
         match (s.thread q).bars.find? (fun b => b.gid == gid) with
         | some b => if b.released then .retire (s.finishBar q gid d.toNat b) else .whole (s.holdOn q (.barrier gid d.toNat))
         | none => .whole s
       if t.bars.any (fun b => b.gid == gid) then waitOrDone s
       else match s.group gid with
         | none => .trap .grp v
         | some g =>
           if 4096 ≤ gid ∨ ¬ g.has tid then .trap .grp v
           else if !t.quiet then .stall
           else if g.isPending tid then
             let s1 := s.setThread q { t with bars := t.bars ++ [⟨gid, genNext g.gen, false, false⟩] }
             waitOrDone (s1.setGroup gid { g with pending := g.pending.map (fun m =>
               if m.tid = tid then { m with waiting := true } else m) })
           else
             let s1 := s.setThread q { t with bars := t.bars ++ [⟨gid, g.gen, true, false⟩] }
             waitOrDone ((s1.setGroup gid { g with members := g.members.map (fun m =>
               if m.tid = tid && !m.leaving then { m with arrived := true } else m) }).completeGroup 3 gid))

/-- `GRP.INFO` (R126): the id is checked first, then the selector. -/
def execGrpInfo (d a b : Reg) (s : State) : Out :=
  issue s 1 .any fun q s =>
    s.ready q [srcS a, srcS b] [srcS d]
      (let v := s.getS q a
       let sel := s.getS q b
       let tid := s.tid q
       let g := (s.group v.toNat).getD ⟨0, 0, [], []⟩
       if 4096 ≤ v.toNat then .trap .grp v
       else if 4 < sel.toNat then .trap .grp sel
       else
         let r : DWord := match sel.toNat with
           | 0 => BitVec.ofNat 64 g.gen
           | 1 => BitVec.ofNat 64 g.members.length
           | 2 => BitVec.ofNat 64 g.arrivals
           | 3 => BitVec.ofNat 64 (bit (g.has tid))
           | _ =>
             if g.isPending tid then BitVec.ofNat 64 (genNext g.gen)
             else match g.members.find? (fun m => m.tid == tid && !m.leaving) with
               | some m => BitVec.ofNat 64 (if m.arrived then genNext g.gen else g.gen)
               | none => allOnes64
         .retire (s.setS q d r))

end Sys2Proof.Machine
end

