-- ==== Sys2Proof/Machine/Queues.lean ====
section
/-! DEFINITION. Command queues, engine flags, footprint edges and item status (R131–R136, R239, R252, R253, R346,
R351–R353). -/

namespace Sys2Proof.Machine

/-- The item in a queue or running that has a sequence number. -/
def Core.item (k : Core) (seq : Nat) : Option Item := k.items.find? (fun i => i.seq == seq)
/-- The same, or the item that a save has moved to a record (R356): what an edge points to (DESIGN CHOICE, log entry 72). -/
def Core.itemOrSaved (k : Core) (seq : Nat) : Option Item := (k.items ++ k.saved).find? (fun i => i.seq == seq)
def Core.setItem (k : Core) (i : Item) : Core := { k with items := k.items.map (fun j => if j.seq = i.seq then i else j) }
def State.item (s : State) (c seq : Nat) : Option Item := (s.core c).item seq
def State.setItem (s : State) (c : Nat) (i : Item) : State := s.setCore c ((s.core c).setItem i)

/-- Items in a queue: 64 fill it (R131). -/
def Core.inQueue (k : Core) (b : Nat) : Nat := (k.items.filter (fun i => i.queue == b)).length
/-- A push to a queue stalls: the queue holds 64 entries, or the thread's failed numbers and its items come to 384
(R131, R346). -/
def State.pushStalls (s : State) (q : Seqr) (b : Nat) : Bool :=
  let k := s.core q.core
  let x := s.ownerCtx q
  decide (64 ≤ k.inQueue b)
    || decide (384 ≤ (s.thread q).failed.length + (k.items.filter (fun i => i.owner == x)).length)

/-- The edges a new item takes to the items queued or running (R252): to each with which it shares a granule. -/
def edgesTo (old : List Item) (reads writes : List Granule) : List Edge :=
  (old.map (fun i =>
    (if i.writes.any (fun g => reads.contains g) then [Edge.mk .raw i.seq] else [])
    ++ (if i.writes.any (fun g => writes.contains g) then [Edge.mk .waw i.seq] else [])
    ++ (if i.reads.any (fun g => writes.contains g) then [Edge.mk .war i.seq] else []))).flatten

/-- Push an item: it takes the next sequence number, the thread's `prio`, and its edges (R127, R131, R252). -/
def State.push (s : State) (q : Seqr) (i : Item) : State × Nat :=
  let k := s.core q.core
  let n := k.nextSeq
  let j := { i with seq := n, prio := (s.thread q).prio, owner := s.ownerCtx q, asid := k.asid,
                     edges := edgesTo k.items i.reads i.writes }
  (s.setCore q.core { k with items := k.items ++ [j], nextSeq := n + 1 }, n)

/-- The status word of an item; FLAGS comes with DONE in the one write at its end (R351). -/
def Item.status (i : Item) (done fail : Bool) (cause : Nat) : DWord :=
  BitVec.ofNat 64 (bit done * 2 ^ 63 + bit fail * 2 ^ 62 + bit i.running * 2 ^ 61 + i.queue % 16 * 2 ^ 56
    + cause % 256 * 2 ^ 48 + bit done * i.flags.toNat * 2 ^ 40 + i.seq % 2 ^ 40)

/-- Unpin the pages a command pinned at its push (R221). -/
def State.unpin (s : State) (c : Nat) (asid : Nat) (pages : List Nat) : State :=
  let pc := s.pcore c
  { s with tlbs := SMap.set s.tlbs pc ((SMap.get [] s.tlbs pc).map (fun e =>
      if e.asid = asid ∧ pages.contains e.base then { e with pins := e.pins - 1 } else e)) }

/-- What another item's end comes to for one with an edge to it: the edge is satisfied, or a failure carries along a read-after-write edge
(R252, R253). -/
def Item.afterEnd (j : Item) (seq : Nat) (fail : Option Cause) : Item :=
  { j with
    edges := j.edges.filter (fun e => e.to_ != seq)
    failing := if fail.isSome && j.edges.any (fun e => e.to_ == seq && e.kind == .raw) && j.failing.isNone && !j.running
               then fail else j.failing }

/-- An item ends: retired, or failed with a cause. Its status word changes in one write, it leaves its queue, its
pages are unpinned, edges to it, those of saved items too, are satisfied or carry its failure, a failure enters the thread's FIFO, and its
sleeping thread resumes (R239, R253, R346, R351, R352, R363). -/
def State.endItem (s : State) (c : Nat) (i : Item) (fail : Option Cause) : State :=
  let k := s.core c
  let code := match fail with
    | none => 0
    | some f => f.code
  let w := i.status true fail.isSome code
  let st := SMap.get {} k.queueStat i.queue
  let k1 := { k with
    items := (k.items.filter (fun j => j.seq != i.seq)).map (fun j => j.afterEnd i.seq fail)
    saved := k.saved.map (fun j => j.afterEnd i.seq fail)
    ended := ((i.seq, w) :: k.ended).take 512
    queueStat := SMap.set k.queueStat i.queue
      { cause := if fail.isSome then code else st.cause, lastFail := fail.isSome, lastSeq := i.seq } }
  let s1 := (s.setCore c k1).unpin c i.asid (i.pages.map (fun p => p.base))
  let t := s1.ctx c i.owner
  let k2 := s1.core c
  let s2 := if fail.isSome && t.live then s1.setCtx c i.owner { t with failed := t.failed ++ [i.seq] }
    else if fail.isSome && decide (32 ≤ i.owner) then
      s1.setCore c { k2 with lateFails := SMap.set k2.lateFails i.owner (SMap.get [] k2.lateFails i.owner ++ [i.seq]) }
    else s1
  s2.wake c i.owner

/-- A `WAITF` is satisfied once DONE of its flag has reached the `SIG` it awaits (R134). -/
def Core.satisfied (k : Core) : ItemKind → Bool
  | .waitf f w => decide (w ≤ SMap.get 0 k.flagDone f)
  | _ => false

/-- Satisfied `WAITF` entries end (R134, R351). -/
def State.satisfyWaits : Nat → State → Nat → State
  | 0, s, _ => s
  | n + 1, s, c =>
    let k := s.core c
    match k.items.find? (fun i => i.failing.isNone && k.satisfied i.kind) with
    | none => s
    | some i => State.satisfyWaits n (s.endItem c i none) c

/-- The operand checks of `SIG` and `WAITF`: a flag 0–63 in a, a queue 0–5 in b (R134). -/
def flagCheck (a b : DWord) : Option DWord := if 63 < a.toNat then some a else if 5 < b.toNat then some b else none

/-- `SIG` (R134). -/
def execSig (d a b : Reg) (s : State) : Out :=
  issue s 1 .any fun q s =>
    s.ready q [srcS a, srcS b] [srcS d]
      (let f := s.getS q a
       let qn := s.getS q b
       match flagCheck f qn with
       | some v => .trap .illegal v
       | none =>
         if s.pushStalls q qn.toNat then .stall
         else
           let (s1, n) := s.push q { seq := 0, queue := qn.toNat, prio := 0, owner := 0, kind := .sig f.toNat,
                                     words := [packA 0xE8 d a b 0] }
           let k := s1.core q.core
           .retire ((s1.setCore q.core { k with flagPushed := SMap.set k.flagPushed f.toNat n }).setS q d (BitVec.ofNat 64 n)))

/-- `WAITF` (R134): with no `SIG` pushed for the flag it traps FWDWAIT. -/
def execWaitf (d a b : Reg) (s : State) : Out :=
  issue s 1 .any fun q s =>
    s.ready q [srcS a, srcS b] [srcS d]
      (let f := s.getS q a
       let qn := s.getS q b
       match flagCheck f qn with
       | some v => .trap .illegal v
       | none =>
         let w := SMap.get 0 (s.core q.core).flagPushed f.toNat
         if w = 0 then .trap .fwdwait f
         else if s.pushStalls q qn.toNat then .stall
         else
           let (s1, n) := s.push q { seq := 0, queue := qn.toNat, prio := 0, owner := 0, kind := .waitf f.toNat w,
                                     words := [packA 0xE9 d a b 0] }
           .retire ((s1.satisfyWaits 1 q.core).setS q d (BitVec.ofNat 64 n)))

/-- SIG_COMPLETE: a `SIG` whose queue's earlier entries have ended and whose flag's earlier `SIG`s have completed sets
DONE (R134), which may satisfy `WAITF` entries. An earlier `SIG` of the flag that has been reported failed holds it back no more (DESIGN
CHOICE, log entry 69). -/
def execSigComplete (s : State) : Out :=
  let c := s.target.core
  let k := s.core c
  match k.item s.target.id with
  | none => .next s
  | some i =>
    match i.kind with
    | .sig f =>
      let blocked := i.failing.isSome || (k.items ++ k.saved).any (fun j => decide (j.seq < i.seq) && (j.queue == i.queue || j.kind == .sig f))
      if blocked then .next s
      else
        let s1 := s.setCore c { k with flagDone := SMap.set k.flagDone f i.seq }
        let s2 := s1.endItem c i none
        .next (s2.satisfyWaits (s2.core c).items.length c)
    | _ => .next s

/-- An edge lets its item start: a write-after-read edge once the earlier item has started (R252). A saved item stands as one queued (DESIGN
CHOICE, log entry 72). -/
def Core.edgeOk (k : Core) (e : Edge) : Bool :=
  match k.itemOrSaved e.to_ with
  | none => true
  | some j => e.kind == .war && j.begun

def ItemKind.isWaitf : ItemKind → Bool
  | .waitf _ _ => true
  | _ => false

/-- The item is eligible to start (R132): its edges are satisfied, every `WAITF` pushed before it to its queue is
satisfied, it has not been marked to fail, and no disagreement of replicas has halted the queues (R395). A `WAITF` that has been reported
failed holds nothing back (DESIGN CHOICE, log entry 69). -/
def Core.eligible (k : Core) (i : Item) : Bool :=
  i.isCommand && !i.running && i.failing.isNone && !k.queuesHalted && i.edges.all k.edgeOk
    && !((k.items ++ k.saved).any (fun j => j.queue == i.queue && decide (j.seq < i.seq) && j.kind.isWaitf && !k.satisfied j.kind))

/-- The choice among the eligible commands of a queue: top priority or a wait of 65,536 clocks, then the lowest
sequence number (R132). -/
def chooseItem (e : List Item) : Option Item :=
  let top := e.foldl (fun m i => max m i.prio) 0
  match e.filter (fun i => decide (i.prio = top) || decide (65536 ≤ i.wait)) with
  | [] => none
  | i :: r => some (r.foldl (fun a b => if b.seq < a.seq then b else a) i)

/-- An item that holds the engine of its queue while it runs: on the flow unit, sends alone (R132, R322). -/
def ItemKind.holdsEngine : ItemKind → Bool
  | .flowRecv _ => false
  | .msgPost => false
  | _ => true

/-- A started `MSG.POST` whose receive is not posted yet: it holds the flow unit (R322). -/
def Item.posting (i : Item) : Bool := i.running && i.kind == .msgPost && !i.posted

/-- The engine of a queue is free: no command of it runs (R132); the flow unit runs up to 16 sends (R322). -/
def Core.engineFree (k : Core) (b : Nat) : Bool :=
  decide ((k.items.filter (fun i => i.queue == b && i.running && i.kind.holdsEngine)).length < if b = 5 then 16 else 1)

/-- The engine of a queue takes a command: one that counts toward its limit while it is free, and none while a post holds the flow unit
(R132, R322). -/
def Core.takesNow (k : Core) (b : Nat) (i : Item) : Bool :=
  (!i.kind.holdsEngine || k.engineFree b) && !k.items.any (fun j => j.queue == b && j.posting)

/-- The limits on receives: one posted receive per flow, 64 posted message receives (R324, R329). -/
def Core.receiveFree (k : Core) (i : Item) : Bool :=
  match i.kind with
  | .flowRecv f => !k.items.any (fun j => j.running && j.kind == .flowRecv f)
  | .msgPost => decide ((k.items.filter (fun j => j.running && j.kind == .msgPost)).length < 64)
  | _ => true

/-- ESTAT's engine status word of a queue (R352). -/
def Core.engineStatus (k : Core) (b : Nat) : DWord :=
  let st := SMap.get {} k.queueStat b
  BitVec.ofNat 64 (bit (k.items.any (fun i => i.queue == b && i.running)) * 2 ^ 63 + k.inQueue b % 128 * 2 ^ 56
    + st.cause % 256 * 2 ^ 48 + bit st.lastFail * 2 ^ 40 + st.lastSeq % 2 ^ 40)

/-- ESTAT's item status word: queued or running, ended lately, or EXPIRED (R351). -/
def Core.itemStatus (k : Core) (seq : Nat) : DWord :=
  match (k.items ++ k.saved).find? (fun i => i.seq == seq) with
  | some i => i.status false false 0
  | none => match k.ended.find? (fun e => e.1 == seq) with
    | some e => e.2
    | none => BitVec.ofNat 64 (2 ^ 60)

/-- `ESTAT` (R353). -/
def execEstat (d a b : Reg) (s : State) : Out :=
  issue s 1 .any fun q s =>
    s.ready q [srcS a, srcS b] [srcS d]
      (let x := s.getS q a
       let sel := s.getS q b
       let k := s.core q.core
       let t := s.thread q
       let done (v : DWord) : Res := .retire ((s.setS q d v).holdFor q 2)
       if 3 < sel.toNat then .trap .illegal sel
       else if sel = 0 then
         if x = 0 ∨ k.nextSeq ≤ x.toNat then .trap .illegal x else done (k.itemStatus x.toNat)
       else if sel = 1 then
         if 5 < x.toNat then .trap .illegal x else done (k.engineStatus x.toNat)
       else if 1 < x.toNat then .trap .illegal x
       else
         let r := if sel = 2 then t.vfr else t.afr
         done (if x = 0 then r.dw0 else r.dw1))

/-- COMMAND_RETIRE: a running command all of whose writes have performed retires and sets its done bit (R239). -/
def execCommandRetire (s : State) : Out :=
  match s.item s.target.core s.target.id with
  | none => .next s
  | some i => if i.running && i.finished && i.failing.isNone then .next (s.endItem s.target.core i none) else .next s

/-- COMMAND_FAIL: an item marked to fail is reported failed; its number enters the thread's FIFO and ENGFAULT is
pending (R253, R346). -/
def execCommandFail (s : State) : Out :=
  match s.item s.target.core s.target.id with
  | none => .next s
  | some i => match i.failing with
    | none => .next s
    | some f => .next (s.endItem s.target.core i (some f))

end Sys2Proof.Machine
end

