-- ==== Sys2Proof/Machine/Handles.lean ====
section
/-! DEFINITION. Tensor handles (R14, R15), element access with its out-of-bounds modes, swizzles and tags (R197–R199,
R254), and the footprints of commands: granules, translation, pinning (R217, R220, R221, R249–R252). -/

namespace Sys2Proof.Machine

/-! ### Handles (R14, R15) -/

/-- The fields of a tensor handle. -/
structure Handle where
  base : Nat
  s    : Bool
  fmt  : Nat
  ex   : List Nat
  st   : List Int
  fill : Nat
  swz  : Nat
  oob  : Nat
  ver  : Nat
  rsv  : Nat
  deriving DecidableEq, Repr

/-- Decode a handle register. -/
def handleOf (h : HReg) : Handle :=
  let n := h.toNat
  { base := n % 2 ^ 57, s := n.testBit 57, fmt := n / 2 ^ 58 % 2 ^ 6
    ex := [64, 80, 96, 112].map (fun k => n / 2 ^ k % 2 ^ 16)
    st := 0 :: [128, 152, 176].map (fun k => signedOf 24 (n / 2 ^ k))
    fill := n / 2 ^ 200 % 2 ^ 16, swz := n / 2 ^ 216 % 2 ^ 4, oob := n / 2 ^ 220 % 4
    ver := n / 2 ^ 248 % 2 ^ 8, rsv := n / 2 ^ 222 % 2 ^ 26 }

def Handle.extent (h : Handle) (k : Nat) : Nat := h.ex.getD k 0
def Handle.stride (h : Handle) (k : Nat) : Int := h.st.getD k 0
def Handle.width (h : Handle) : Nat := Fmt.width h.fmt
def Handle.isMx (h : Handle) : Bool := Fmt.isMxCode h.fmt
/-- Bytes that a row of dimension 0 spans (R15, R138). -/
def Handle.rowBytes (h : Handle) : Nat := (h.extent 0 * h.width + 7) / 8

/-- The address at which the row (i1, i2, i3) begins (R15). -/
def Handle.rowAddr (h : Handle) (i1 i2 i3 : Nat) : Int :=
  (h.base : Int) + i1 * h.stride 1 + i2 * h.stride 2 + i3 * h.stride 3

/-- The addresses at which the rows begin, in index order; none where an extent is 0. -/
def Handle.rows (h : Handle) : List Int :=
  if h.extent 0 = 0 then []
  else ((List.range (h.extent 3)).map (fun i3 => ((List.range (h.extent 2)).map (fun i2 =>
    (List.range (h.extent 1)).map (fun i1 => h.rowAddr i1 i2 i3))).flatten)).flatten

/-- Lowest and highest addresses that the elements of a handle take, by the signs of the strides. -/
def Handle.bounds (h : Handle) : Int × Int :=
  let reach (k : Nat) : Int := ((h.extent k : Int) - 1) * h.stride k
  let lo := [1, 2, 3].foldl (fun a k => a + min 0 (reach k)) (h.base : Int)
  let hi := [1, 2, 3].foldl (fun a k => a + max 0 (reach k)) ((h.base : Int) + h.rowBytes - 1)
  (lo, hi)

/-- The checks of R14 and, for MX block forms, of R142. -/
def Handle.ok (h : Handle) : Bool :=
  h.ver == 1 && Fmt.defined h.fmt && h.rsv == 0 && h.oob != 3
    && (if h.s && h.ex.all (· != 0) then decide (0 ≤ h.bounds.1) && decide (h.bounds.2 ≤ (spadTop : Int)) else true)
    && (if h.isMx then h.extent 0 % 32 == 0 && h.base % (4 * h.width) == 0
          && h.st.all (fun x => x % ((4 * h.width : Nat) : Int) == 0) else true)

/-- The first handle register of a list that fails R14. -/
def firstBadHandle (hs : List (Reg × Handle)) : Option Reg := (hs.find? (fun h => !h.2.ok)).map Prod.fst

/-- An index tuple resolved under the handle's out-of-bounds mode (R254). -/
inductive Resolved where
  | at_ (i : List Nat)
  /-- Reads take FILL, writes are dropped. -/
  | beyond
  /-- Excluded: the command fails with FOOT. -/
  | foot
  deriving DecidableEq, Repr

/-- All indices lie below their extents. -/
def Handle.inside (h : Handle) (i : List Int) : Bool :=
  (i.zip h.ex).all (fun p => decide (0 ≤ p.1) && decide (p.1 < p.2))

/-- Resolve an index tuple (R254). -/
def Handle.resolve (h : Handle) (i : List Int) : Resolved :=
  if h.inside i then .at_ (i.map Int.toNat)
  else if h.oob = 1 then .foot
  else if h.oob = 2 ∧ h.ex.all (· != 0) then
    .at_ ((i.zip h.ex).map (fun p => if p.1 < 0 then 0 else min p.1.toNat (p.2 - 1)))
  else .beyond

/-- The address of the first byte of an element and its bit offset in it (R15, R138). -/
def Handle.elemAt (h : Handle) (i : List Nat) : Int × Nat :=
  let b := i.getD 0 0 * h.width
  (h.rowAddr (i.getD 1 0) (i.getD 2 0) (i.getD 3 0) + (b / 8 : Nat), b % 8)

/-! ### Swizzle (R197) -/

/-- The physical offset of an offset in a 2 KiB block (R197). -/
def swzOffset (z o : Nat) : Nat :=
  let put (lo n v : Nat) : Nat := o % 2 ^ lo + v % 2 ^ n * 2 ^ lo + o / 2 ^ (lo + n) * 2 ^ (lo + n)
  match z with
  | 1 => put 4 3 (o / 2 ^ 4 % 8 ^^^ o / 2 ^ 7 % 8)
  | 2 => put 4 2 (o / 2 ^ 4 % 4 ^^^ o / 2 ^ 6 % 4)
  | 3 => put 4 4 (o / 2 ^ 4 % 16 ^^^ o / 2 ^ 8 % 8)
  | _ => o

/-- The physical scratchpad address under a swizzle. -/
def swzAddr (z a : Nat) : Nat := a / 2048 * 2048 + swzOffset z (a % 2048)

/-- The swizzle tag of a scratchpad block (R198). -/
def Core.tagOf (k : Core) (block : Nat) : Nat := (SMap.get 0 k.blockTag block).toNat
def Core.setTag (k : Core) (block z : Nat) : Core := { k with blockTag := SMap.set k.blockTag block (BitVec.ofNat 4 z) }

/-! ### The image region of a logical core that is not resident (R107, R108) -/

/-- The image region of a logical core in HBM (R108). -/
def imageBase (c : Nat) : Nat := 0xBFC0000000 + c * 0x100000
/-- The place of a block's swizzle tag in the region. -/
def imageTag (c block : Nat) : Nat := imageBase c + 0xC0000 + block

/-- The scratchpad and the swizzle tags of a logical core go to its image region, which holds them while it is not resident (R107,
R108). The rest of the state that R107 lists stays in the core's own fields: its place in the region belongs to the monitor. -/
def State.imageOut (s : State) (c : Nat) : State :=
  let k := s.core c
  let tags : Memory := (k.blockTag.filter (fun e => e.2 != 0)).map (fun e => (e.1, e.2.setWidth 8))
  let h := (s.hbm.setWindow (imageBase c) 0xC0000 k.spad).setWindow (imageTag c 0) 384 tags
  { s.setCore c { k with spad := [], blockTag := [] } with hbm := h }

/-- The region's bytes and tags come into the scratchpad (R108). -/
def State.imageIn (s : State) (c : Nat) : State :=
  let tags := (s.hbm.window (imageTag c 0) 384).map (fun e => (e.1, e.2.setWidth 4))
  s.setCore c { s.core c with spad := s.hbm.window (imageBase c) 0xC0000, blockTag := tags }

/-! ### Reading and writing bytes for a command -/

/-- A byte of a core's scratchpad, in its image region while the core is not resident (R107, R108). -/
def State.spadByte (s : State) (c a : Nat) : Byte :=
  if s.away.contains c then s.hbm.read (imageBase c + a) else (s.core c).spad.read a
def State.setSpadByte (s : State) (c a : Nat) (b : Byte) : State :=
  if s.away.contains c then { s with hbm := s.hbm.write (imageBase c + a) b }
  else let k := s.core c; s.setCore c { k with spad := k.spad.write a b }
/-- Set the swizzle tag of a block (R198, R108). -/
def State.setBlockTag (s : State) (c block z : Nat) : State :=
  if s.away.contains c then { s with hbm := s.hbm.write (imageTag c block) (BitVec.ofNat 8 (z % 16)) }
  else s.setCore c ((s.core c).setTag block z)

/-- A byte through a handle: of the scratchpad under the swizzle, or of global memory under the pinned pages. -/
def State.readByteH (s : State) (c : Nat) (pages : List Page) (h : Handle) (a : Nat) : Byte :=
  if h.s then s.spadByte c (swzAddr h.swz a) else s.hbm.read (paIn pages a)

/-- A byte written through a handle. -/
def State.writeByteH (s : State) (c : Nat) (pages : List Page) (h : Handle) (a : Nat) (b : Byte) : State :=
  if h.s then s.setSpadByte c (swzAddr h.swz a) b else { s with hbm := s.hbm.write (paIn pages a) b }

/-- A command is about to write bytes of a handle: the first byte that it writes of a scratchpad block gives the block the handle's
swizzle as its tag (R198). It is the command's first byte there: of a `CPY.PAIR` whose two destinations share a block under different
swizzles, the handle that wrote it gives the tag (DESIGN CHOICE, log entry 70). -/
def State.tagBlocks (s : State) (c : Nat) (h : Handle) (i : Item) (as : List Nat) : State × Item :=
  if h.s then
    let bs := ((as.map (fun a => a / 2048)).eraseDups).filter (fun b => !i.tagged.contains b)
    (bs.foldl (fun s b => s.setBlockTag c b h.swz) s, { i with tagged := i.tagged ++ bs })
  else (s, i)

/-- Little-endian bytes of an element's place. -/
def State.readNH (s : State) (c : Nat) (pages : List Page) (h : Handle) (a n : Nat) : Nat :=
  natOfBytes ((List.range n).map (fun k => s.readByteH c pages h (a + k)))

/-- A scratchpad block that an element lies in carries another tag than the handle's swizzle (R199). -/
def State.tagMismatch (s : State) (c : Nat) (h : Handle) (a n : Nat) : Bool :=
  h.s && ((s.core c).tagOf (a / 2048) != h.swz || (s.core c).tagOf ((a + n - 1) / 2048) != h.swz)

/-- Bytes that an element at a bit offset touches. -/
def elemBytes (off w : Nat) : Nat := (off + w + 7) / 8

/-- What reading an element comes to. -/
inductive ElemRead where
  | val (x : Nat)
  | fail (c : Cause)
  deriving DecidableEq, Repr

/-- Read the bit pattern of an element by its indices (R254): FILL beyond an extent (R16). -/
def State.readElem (s : State) (c : Nat) (pages : List Page) (h : Handle) (i : List Int) : ElemRead :=
  match h.resolve i with
  | .foot => .fail .foot
  | .beyond => .val (fillElem h.fmt h.fill)
  | .at_ j =>
    let (a, off) := h.elemAt j
    let n := elemBytes off h.width
    if s.tagMismatch c h a.toNat n then .fail .swizzle
    else .val (s.readNH c pages h a.toNat n / 2 ^ off % 2 ^ h.width)

/-- Granules that some bytes of a handle's space lie in; the swizzle moves no byte out of its granule. -/
def granulesAt (h : Handle) (pages : List Page) (a n : Nat) : List Granule :=
  let g (x : Nat) : Granule := if h.s then ⟨.spad, x / 128⟩ else ⟨.global, paIn pages x / 128⟩
  [g a, g (a + n - 1)]

/-- A write of an element's bits, the other bits of its bytes kept (R255). -/
def State.writeElem (s : State) (c : Nat) (pages : List Page) (h : Handle) (j : List Nat) (x : Nat) : State :=
  let (a, off) := h.elemAt j
  let n := elemBytes off h.width
  let old := s.readNH c pages h a.toNat n
  let new := old - old / 2 ^ off % 2 ^ h.width * 2 ^ off + x % 2 ^ h.width * 2 ^ off
  (List.range n).foldl (fun s k => s.writeByteH c pages h (a.toNat + k) (BitVec.ofNat 8 (new / 2 ^ (8 * k)))) s

/-- Granules of an element. -/
def Handle.elemGranules (h : Handle) (pages : List Page) (j : List Nat) : List Granule :=
  let (a, off) := h.elemAt j
  granulesAt h pages a.toNat (elemBytes off h.width)

/-! ### MX blocks on global pages (R217) -/

/-- The page of a list that holds an address. -/
def pageAt (ps : List Page) (va : Nat) : Option Page :=
  ps.find? (fun p => decide (p.base ≤ va) && decide (va < p.base + p.size))

/-- The element area of an MX page. -/
def Page.area (p : Page) : Nat := if p.geom = 1 then 15 * p.size / 16 else p.size

/-- The address of the scale byte of the block that holds an address of a page, for width w (R217). -/
def Page.scaleVa (p : Page) (w va : Nat) : Option Nat :=
  let j := (va - p.base) / (4 * w)
  if p.geom = 1 then some (p.base + 15 * p.size / 16 + j)
  else if p.geom = 2 then some (p.base + p.size + j)
  else none

/-- The start addresses of the blocks of a handle in global space. -/
def Handle.blocks (h : Handle) : List Nat :=
  if h.isMx && !h.s then
    (h.rows.map (fun r => (List.range (h.extent 0 / 32)).map (fun b => (r % ((2 ^ 64 : Nat) : Int)).toNat + 4 * h.width * b))).flatten
  else []

/-- The block breaks the grid of its page (R217). -/
def Page.offGrid (p : Page) (w va : Nat) : Bool :=
  (p.geom == 1 || p.geom == 2) && ((va - p.base) % (4 * w) != 0 || decide (p.area < va - p.base + 4 * w))

/-! ### Footprints (R220, R250) -/

/-- The ranges of a handle in global space. -/
def Handle.ranges (h : Handle) (r w : Bool) : List Rng :=
  if h.s then [] else h.rows.map (fun a => let lo := (a % ((2 ^ 64 : Nat) : Int)).toNat; ⟨lo, lo + h.rowBytes, r, w⟩)

/-- The first address of some ranges at or after a cursor. -/
def firstTouched (rs : List Rng) (cur : Nat) : Option Nat :=
  rs.foldl (fun m g =>
    if max g.lo cur < g.hi then
      match m with
      | none => some (max g.lo cur)
      | some x => some (min x (max g.lo cur))
    else m) none

/-- The lowest address of some ranges that lies on a D page of a footprint's pages, which rise. -/
def lowestOnD (ps : List Page) (rs : List Rng) : Option Nat :=
  ((ps.filter Page.d).filterMap (fun p => match firstTouched rs p.base with
    | some x => if x < p.base + p.size then some x else none
    | none => none)).head?

/-- A bound on the pages that ranges touch. -/
def pageBound (rs : List Rng) : Nat := rs.foldl (fun n g => n + (g.hi - g.lo) / 65536 + 2) 1

/-- The lowest address of a page that the ranges of an access touch, when the page does not permit it. -/
def protAt (rs : List Rng) (p : Page) (a : Nat) : Option Nat :=
  let touched (f : Rng → Bool) : Option Nat :=
    match firstTouched (rs.filter f) a with
    | some x => if x < p.base + p.size then some x else none
    | none => none
  let rd := if p.r then none else touched (fun g => g.r)
  let wr := if p.w then none else touched (fun g => g.w)
  match rd, wr with
  | some x, some y => some (min x y)
  | some x, none => some x
  | none, y => y

/-- Translate every page that the ranges touch, once, in ascending order, with the access declared (R220). -/
def walkFoot (core : Nat) (rs : List Rng) : Nat → State → Nat → XlRange
  | 0, s, _ => .pages [] s
  | n + 1, s, cur =>
    match firstTouched rs cur with
    | none => .pages [] s
    | some a =>
      match s.pageOf core a with
      | .trap c v => .trap c v
      | .noMemory => .noMemory
      | .page p s1 =>
        match protAt rs p a with
        | some x => .trap .prot (BitVec.ofNat 64 x)
        | none =>
          match walkFoot core rs n s1 (p.base + p.size) with
          | .pages ps s2 => .pages (p :: ps) s2
          | x => x

/-- The pages of some addresses, faults ignored: to place scales and cells before the footprint's own walk. -/
def peekFrom (s : State) (core : Nat) (rs : List Rng) : Nat → Nat → List Page
  | 0, _ => []
  | n + 1, cur =>
    match firstTouched rs cur with
    | none => []
    | some a => match s.pageOf core a with
      | .page p _ => p :: peekFrom s core rs n (p.base + p.size)
      | _ => peekFrom s core rs n (a / 65536 * 65536 + 65536)

/-- The pages that ranges touch, as far as they translate. -/
def State.peekPages (s : State) (core : Nat) (rs : List Rng) : List Page := peekFrom s core rs (pageBound rs) 0

/-- The ranges of the scale bytes of a handle's blocks (R217, R250). -/
def scaleRanges (ps : List Page) (h : Handle) (r w : Bool) : List Rng :=
  h.blocks.filterMap (fun va => match pageAt ps va with
    | some p => (p.scaleVa h.width va).map (fun x => ⟨x, x + 1, r, w⟩)
    | none => none)

/-- The lowest block of some handles that breaks its grid (R249 check 3); a block whose page does not translate is not
judged. -/
def lowestOffGrid (ps : List Page) (hs : List Handle) : Option Nat :=
  (hs.map (fun h => h.blocks.filter (fun va => match pageAt ps va with
    | some p => p.offGrid h.width va
    | none => false))).flatten.foldl (fun m a => match m with
      | none => some a
      | some b => some (min a b)) none

/-- A scale page of a separate-scale page must be mapped as one, with the same size (R217). -/
def badScalePage (ps : List Page) (hs : List Handle) : Option Nat :=
  (hs.map (fun h => h.blocks.filterMap (fun va => match pageAt ps va with
    | some p =>
      if p.geom = 2 then match p.scaleVa h.width va with
        | some x => match pageAt ps x with
          | some q => if q.geom = 3 ∧ q.size = p.size then none else some x
          | none => none
        | none => none
      else none
    | none => none))).flatten.head?

/-- The granules of ranges of global addresses. -/
def rngGranules (ps : List Page) (rs : List Rng) : List Granule :=
  ((rs.filter (fun g => decide (g.lo < g.hi))).map (fun g => (List.range ((g.hi - 1) / 128 - g.lo / 128 + 1)).map (fun i =>
    Granule.mk .global (paIn ps (max g.lo ((g.lo / 128 + i) * 128)) / 128)))).flatten.eraseDups

/-- The granules of a handle in the scratchpad. -/
def Handle.spadGranules (h : Handle) : List Granule :=
  if h.s then
    (h.rows.map (fun a => (List.range ((a.toNat + h.rowBytes - 1) / 128 - a.toNat / 128 + 1)).map (fun i =>
      Granule.mk .spad (a.toNat / 128 + i)))).flatten.eraseDups
  else []

/-- Granules of bytes `off` to `off + n − 1` of scale memory. -/
def scaleGranules (off n : Nat) : List Granule :=
  if n = 0 then [] else (List.range ((off + n - 1) / 128 - off / 128 + 1)).map (fun i => Granule.mk .scale (off / 128 + i))

/-! ### Pins (R221) -/

/-- Pages not pinned yet that a push would pin. -/
def newPins (es : List TlbEntry) (asid : Nat) (ps : List Page) : Nat :=
  (ps.filter (fun p => !es.any (fun e => e.asid == asid && e.base == p.base && e.pins != 0))).length

/-- The push waits for pins (R221). -/
def State.pinsStall (s : State) (c : Nat) (ps : List Page) : Bool :=
  let es := SMap.get [] s.tlbs (s.pcore c)
  decide (tlbPinMax < (es.filter (fun e => e.pins != 0)).length + newPins es (s.core c).asid ps)

/-- Pin the pages of a footprint. -/
def State.pin (s : State) (c : Nat) (ps : List Page) : State :=
  let pc := s.pcore c
  let asid := (s.core c).asid
  ps.foldl (fun s p =>
    let es := SMap.get [] s.tlbs pc
    let s1 := if es.any (fun e => e.asid == asid && e.base == p.base) then s else s.tlbAdd pc asid p
    let up := (SMap.get [] s1.tlbs pc).map (fun e => if e.asid = asid ∧ e.base = p.base then { e with pins := e.pins + 1 } else e)
    { s1 with tlbs := SMap.set s1.tlbs pc up }) s

/-! ### Holds and failures of running commands (R238, R252) -/

/-- A write of a command to a granule waits until each earlier reader has made its last read of it (R252), one that is saved too (DESIGN
CHOICE, log entry 72). -/
def Core.mayWrite (k : Core) (i : Item) (g : Granule) : Bool :=
  i.edges.all (fun e => e.kind != .war || (match k.itemOrSaved e.to_ with
    | none => true
    | some a => !a.reads.contains g || a.consumed.contains g))

/-- A running command is marked to fail (R253). -/
def State.failItem (s : State) (c : Nat) (i : Item) (f : Cause) : State := s.setItem c { i with failing := some f }

/-- A global granule's space: what `tval` names where footprints overlap (R249 check 6). -/
def overlapVal (rs : List Rng) (ps : List Page) (ov : List Granule) : DWord :=
  let glob := (rs.map (fun g => ((List.range ((g.hi - 1) / 128 - g.lo / 128 + 1)).map (fun i => max g.lo ((g.lo / 128 + i) * 128))).filter
    (fun va => decide (va < g.hi) && ov.contains ⟨.global, paIn ps va / 128⟩))).flatten
  let of (sp : Space) : List Nat := (ov.filter (fun g => g.space == sp)).map (fun g => g.num * 128)
  let least (l : List Nat) : Nat := l.foldl min (l.headD 0)
  BitVec.ofNat 64 (if !glob.isEmpty then least glob else if !(of .spad).isEmpty then least (of .spad) else least (of .scale))

end Sys2Proof.Machine
end

