-- ==== Sys2Proof/Machine/VMove.lean ====
section
/-! DEFINITION. The vector engine's data movement, conversion, MX blocks, reductions, ranking and random bits
(R178–R193), and `VLDQ` on the stream registers (R183, R206). -/

namespace Sys2Proof.Machine

/-! ### Moves (R184, R185) -/

/-- A lane-wise move without flags: the pipelined class of R179. -/
def vecMove (s : State) (d fn : Reg) (lw : LW) (srcs : List Src) (f : Seqr → State → Nat → Nat → Nat) : Out :=
  let w := Fmt.vwidth fn
  vecLanes s d lw w srcs [] 2 4 fun q s i => (f q s w i, 0)

def execVmov (d a fn : Reg) (lw : LW) (s : State) : Out :=
  vecMove s d fn lw [srcV a lw.ta] fun q s w i => velem (s.getV q a) w i
/-- `VBCAST`: a names a scalar. -/
def execVbcast (d a fn : Reg) (lw : LW) (s : State) : Out :=
  vecMove s d fn lw [srcS a lw.ta] fun q s w _ => (s.getS q a).toNat % 2 ^ w
/-- `VSLIDE`: b names a scalar, read as signed. -/
def execVslide (d a b fn : Reg) (lw : LW) (s : State) : Out :=
  vecMove s d fn lw [srcV a lw.ta, srcS b lw.tb] fun q s w i =>
    let j := (i : Int) + (s.getS q b).toInt
    if 0 ≤ j ∧ j < lanesOf w then velem (s.getV q a) w j.toNat else 0
def execVperm (d a b fn : Reg) (lw : LW) (s : State) : Out :=
  vecMove s d fn lw [srcV a lw.ta, srcV b lw.tb] fun q s w i =>
    let j := velem (s.getV q b) w i
    if j < lanesOf w then velem (s.getV q a) w j else 0

/-- The source of destination element i of `VSHUF` m among n elements: from b when set, and its index (R185). -/
def shufSource (m n i : Nat) : Bool × Nat :=
  let h := n / 2
  match m with
  | 0 => (i % 2 == 1, i / 2)
  | 1 => (i % 2 == 1, h + i / 2)
  | 2 => if i < h then (false, 2 * i) else (true, 2 * (i - h))
  | _ => if i < h then (false, 2 * i + 1) else (true, 2 * (i - h) + 1)

/-- `VSHUF`: the selector is EXT 2:1. -/
def execVshuf (d a b fn : Reg) (lw : LW) (s : State) : Out :=
  vecMove s d fn lw [srcV a lw.ta, srcV b lw.tb] fun q s w i =>
    let (fromB, j) := shufSource (lw.y.toNat / 2) (lanesOf w) i
    velem (s.getV q (if fromB then b else a)) w j

/-- `VTRN`: EXT 4:1 holds log2 of the columns C; d[j R + i] is a[i C + j] (R185). -/
def execVtrn (d a fn : Reg) (lw : LW) (s : State) : Out :=
  vecMove s d fn lw [srcV a lw.ta] fun q s w i =>
    let c := 2 ^ (lw.y.toNat / 2)
    let r := lanesOf w / c
    velem (s.getV q a) w (i % r * c + i / r)

/-- An element as a 64-bit value: signed formats are sign-extended (R184, R189). -/
def extElem (fn : Reg) (y : BitVec 6) (x : Nat) : DWord :=
  let w := Fmt.vwidth fn
  if Fmt.isVInt fn && Fmt.isSigned fn y then sextN w x else zextN w x

/-- `VEXT`: d names a scalar; the guard refers to the lane extracted (R184). -/
def execVext (d a b fn : Reg) (lw : LW) (s : State) : Out :=
  let w := Fmt.vwidth fn
  vecIssue s lw [srcV a lw.ta, srcS b lw.tb] [srcS d] 2 fun q s =>
    let j := (s.getS q b).toNat
    let r : DWord :=
      if j < lanesOf w then
        if laneOn lw (s.getV q lw.greg) w j then extElem fn lw.y (velem (s.getV q a) w j) else s.getS q d
      else 0
    vecCommit q s false d.toNat r.toNat 0 4

/-- `VINS`: a and b name scalars; d is read as a source (R184). -/
def execVins (d a b fn : Reg) (lw : LW) (s : State) : Out :=
  let w := Fmt.vwidth fn
  vecLanes s d lw w [srcS a lw.ta, srcS b lw.tb] [srcV d] 2 4 fun q s i =>
    ((if (s.getS q b).toNat = i then (s.getS q a).toNat % 2 ^ w else velem (s.getV q d) w i), 0)

/-! ### Conversion and MX blocks (R186–R188) -/

/-- `VCVT`: the destination code is fn, the source code EXT 5:0, sat EXT 6, the part b (R186). -/
def execVcvt (d a b fn : Reg) (lw : LW) (s : State) : Out :=
  let ws := Fmt.vwidth lw.y
  let wt := Fmt.vwidth fn
  let wm := max ws wt
  let m := lanesOf wm
  vecIssue s lw [srcV a lw.ta, srcV d] [] 2 fun q s =>
    let old := velems (s.getV q d) wt
    let rs := (List.range m).map (fun i =>
      let j := if wt ≤ ws then b.toNat * m + i else i
      if laneOn lw (s.getV q lw.greg) wm i then
        let x := velem (s.getV q a) ws (if wt ≤ ws then i else b.toNat * m + i)
        convertElem lw.y.toNat fn.toNat x (s.rm q lw.rm) (lw.x.getLsbD 0)
      else (old.getD j 0, (0 : Flags)))
    let lo := if wt ≤ ws then b.toNat * m else 0
    let new := old.take lo ++ rs.map Prod.fst ++ old.drop (lo + m)
    vecCommit q s true d.toNat (natOfElems wt new) (rs.foldl (fun f r => f ||| r.2) 0) 4

/-- Bits `lo` to `lo + n − 1` of a number replaced. -/
def setBits (x lo n v : Nat) : Nat := x % 2 ^ lo + v % 2 ^ n * 2 ^ lo + x / 2 ^ (lo + n) * 2 ^ (lo + n)

/-- Commit of an instruction with two vector destinations, the second written after the first (R187). -/
def vecCommitTwo (q : Seqr) (s : State) (d1 v1 d2 v2 : Nat) (f : Flags) (lat : Nat) : Res :=
  match vecCommit q s true d1 v1 f lat with
  | .retire s1 =>
    let p := s1.prog q
    .retire (s1.addResult q ⟨true, d2, v2, s1.now + lat, false, f, 0, p.pc, p.pend, none⟩)
  | r => r

/-- `VQMX` (R187): part b of d and the scale bytes of the register in EXT 11:6. -/
def execVqmx (d a b fn : Reg) (lw : LW) (s : State) : Out :=
  let w := Fmt.vwidth fn
  let sr := lw.x
  vecIssue s lw [srcV a lw.ta, srcV sr lw.tc, srcV d] [] 4 fun q s =>
    let blocks := (List.range 8).map (fun k =>
      quantBlock fn.toNat (s.rm q lw.rm)
        ((List.range 32).map (fun j => FpFmt.fp32.decode (velem (s.getV q a) 32 (32 * k + j)))))
    let part := natOfElems (32 * w) (blocks.map (fun k => natOfElems w k.2.1))
    let scales := natOfElems 8 (blocks.map Prod.fst)
    let f := blocks.foldl (fun f k => f ||| k.2.2) 0
    let p := b.toNat
    let newD := setBits (s.getV q d).toNat (256 * w * p) (256 * w) part
    if sr = d then vecCommit q s true d.toNat (setBits newD (64 * p) 64 scales) f 8
    else vecCommitTwo q s d.toNat newD sr.toNat (setBits (s.getV q sr).toNat (64 * p) 64 scales) f 8

/-- One element of `VDQMX`: the block's scale byte and the packed element (R188). -/
def dequantElem (code : Nat) (rm : Rm) (scale x : Nat) : Nat × Flags :=
  match scaleExp scale with
  | none => (FpFmt.fp32.nanBits, Flags.nv)
  | some _ => FpFmt.fp32.ofVal rm (mxVal code scale x)

/-- `VDQMX` (R188): the scale register is in EXT 11:6. -/
def execVdqmx (d a b fn : Reg) (lw : LW) (s : State) : Out :=
  let w := Fmt.vwidth fn
  vecIssue s lw [srcV a lw.ta, srcV lw.x lw.tc] [srcV d] 4 fun q s =>
    let p := b.toNat
    let rs := (List.range 256).map (fun i =>
      dequantElem fn.toNat (s.rm q lw.rm) (velem (s.getV q lw.x) 8 (8 * p + i / 32))
        ((s.getV q a).toNat / 2 ^ (256 * w * p + w * i) % 2 ^ w))
    vecCommit q s true d.toNat (natOfElems 32 (rs.map Prod.fst)) (rs.foldl (fun f r => f ||| r.2) 0) 8

/-! ### Reductions and ranking (R189–R191) -/

/-- The leaves of a reduction: a disabled lane is absent (R189). -/
def leaves (lw : LW) (g a : VReg) (w : Nat) : List (Option Nat) :=
  (List.range (lanesOf w)).map (fun i => if laneOn lw g w i then some (velem a w i) else none)

/-- A reduction to a scalar in the canonical order (R156, R189). -/
def vecReduce (s : State) (d a fn : Reg) (lw : LW) (identity : Nat) (op : Rm → Nat → Nat → Nat × Flags) : Out :=
  let w := Fmt.vwidth fn
  vecIssue s lw [srcV a lw.ta] [srcS d] 2 fun q s =>
    let (r, f) := canonTree (op (s.rm q lw.rm)) 11 (leaves lw (s.getV q lw.greg) (s.getV q a) w)
    vecCommit q s false d.toNat (extElem fn lw.y (r.getD identity)).toNat f 12

/-- `VRSUM` (R189). -/
def execVrsum (d a fn : Reg) (lw : LW) (s : State) : Out :=
  let w := Fmt.vwidth fn
  let f := FpFmt.get fn.toNat
  vecReduce s d a fn lw 0 fun rm x y =>
    if Fmt.isVFloat fn then fpAdd f rm (f.decode x) (f.decode y) else ((x + y) % 2 ^ w, 0)

/-- The larger or smaller of two elements, or R171's for a floating-point format (R189). -/
def elemExtreme (fn : Reg) (y : BitVec 6) (wantMax : Bool) (a b : Nat) : Nat × Flags :=
  let w := Fmt.vwidth fn
  let sg := Fmt.isSigned fn y
  if Fmt.isVFloat fn then fpMinMax (FpFmt.get fn.toNat) wantMax a b
  else (if (decide (intOf w sg a < intOf w sg b)) == wantMax then b else a, 0)

/-- The identity of a maximum or a minimum (R189). -/
def extremeIdentity (fn : Reg) (y : BitVec 6) (wantMax : Bool) : Nat :=
  let w := Fmt.vwidth fn
  if Fmt.isVFloat fn then (FpFmt.get fn.toNat).infBits wantMax
  else
    let r := intRange (Fmt.isSigned fn y) w
    patternOf w (if wantMax then r.1 else r.2)

/-- `VRMAX` and `VRMIN` (R189). -/
def vecExtreme (s : State) (d a fn : Reg) (lw : LW) (wantMax : Bool) : Out :=
  vecReduce s d a fn lw (extremeIdentity fn lw.y wantMax) fun _ x y => elemExtreme fn lw.y wantMax x y
def execVrmax (d a fn : Reg) (lw : LW) (s : State) : Out := vecExtreme s d a fn lw true
def execVrmin (d a fn : Reg) (lw : LW) (s : State) : Out := vecExtreme s d a fn lw false

/-- An element as a value, of a floating-point or an integer format. -/
def elemVal (fn : Reg) (y : BitVec 6) (x : Nat) : Val :=
  if Fmt.isVFloat fn then (FpFmt.get fn.toNat).decode x
  else .fin (Exact.ofInt (intOf (Fmt.vwidth fn) (Fmt.isSigned fn y) x) 0)

/-- A candidate of a ranking: its lane, its value and its tie hash (R190). -/
structure RankCand where
  lane : Nat
  val  : Val
  tie  : Nat
  deriving DecidableEq, Repr

/-- The candidates of R190, and the flag of signalling NaNs. -/
def rankCands (fn : Reg) (lw : LW) (g a : VReg) (seed : DWord) : List RankCand × Flags :=
  let w := Fmt.vwidth fn
  let all := ((List.range (lanesOf w)).filter (laneOn lw g w)).map (fun i =>
    RankCand.mk i (elemVal fn lw.y (velem a w i)) (tieHash seed (BitVec.ofNat 64 i)).toNat)
  (all.filter (fun c => !c.val.isNan), all.foldl (fun f c => f ||| c.val.snanFlag) 0)

/-- x ranks before y: by value, descending or ascending, then by ascending tie hash (R190, R191). -/
def ranksBefore (ascending : Bool) (x y : RankCand) : Bool :=
  match Val.order false x.val y.val with
  | .eq => decide (x.tie < y.tie)
  | .lt => ascending
  | .gt => !ascending

/-- Insert a candidate into a ranked list. -/
def rankInsert (ascending : Bool) (c : RankCand) : List RankCand → List RankCand
  | [] => [c]
  | x :: r => if ranksBefore ascending x c then x :: rankInsert ascending c r else c :: x :: r

/-- `VRARG` (R190): o in EXT 1. -/
def execVrarg (d a fn : Reg) (lw : LW) (s : State) : Out :=
  vecIssue s lw [srcV a lw.ta] [srcS d] 2 fun q s =>
    let (cs, f) := rankCands fn lw (s.getV q lw.greg) (s.getV q a) (s.thread q).tseed
    let best := cs.foldl (fun m c => match m with
      | none => some c
      | some b => if ranksBefore (lw.y.getLsbD 1) c b then some c else some b) none
    let r : DWord := best.elim allOnes64 (fun c => BitVec.ofNat 64 c.lane)
    vecCommit q s false d.toNat r.toNat f 12

/-- `VTOPK` (R191): the scalar b gives k, o is in EXT 1. -/
def execVtopk (d a b fn : Reg) (lw : LW) (s : State) : Out :=
  vecIssue s lw [srcV a lw.ta, srcS b lw.tb] [srcV d] 8 fun q s =>
    let (cs, f) := rankCands fn lw (s.getV q lw.greg) (s.getV q a) (s.thread q).tseed
    let ranked := cs.foldl (fun l c => rankInsert (lw.y.getLsbD 1) c l) []
    let m := min (s.getS q b).toNat 256
    let out := (ranked.take m).map (fun c => c.lane)
    vecCommit q s true d.toNat (natOfElems 32 (out ++ List.replicate (256 - out.length) 0xFFFFFFFF)) f 20

/-! ### Random bits and the tie hash (R192, R193) -/

/-- `VRNG` (R192). -/
def execVrng (d a b : Reg) (lw : LW) (s : State) : Out :=
  vecLanes s d lw 32 [srcS a lw.ta, srcV b lw.tb] [] 8 20 fun q s i =>
    let ctr : BitVec 128 := BitVec.ofNat 128 ((s.getV q b).toNat % 2 ^ 128 + i / 4)
    ((philox (s.getS q a) ctr).toNat / 2 ^ (32 * (i % 4)) % 2 ^ 32, 0)

/-- `VHASH` (R193). -/
def execVhash (d a b _fn : Reg) (lw : LW) (s : State) : Out :=
  vecLanes s d lw 64 [srcS a lw.ta, srcV b lw.tb] [] 2 4 fun q s i =>
    ((tieHash (s.getS q a) (BitVec.ofNat 64 (velem (s.getV q b) 64 i))).toNat, 0)

/-! ### Scratchpad access (R181, R182) -/

/-- The enabled lanes of an access and their addresses, in ascending order of lanes. -/
def laneAddrs (lw : LW) (g : VReg) (w : Nat) (addr : Nat → DWord) : List (Nat × DWord) :=
  ((List.range (lanesOf w)).filter (laneOn lw g w)).map (fun i => (i, addr i))

/-- The checks of R181 in order: alignment of every enabled lane, then bounds. -/
def laneCheck (size : Nat) (as : List (Nat × DWord)) : Option (Cause × DWord) :=
  match as.find? (fun p => p.2.toNat % size != 0) with
  | some p => some (.align, p.2)
  | none => match as.find? (fun p => decide (spadTop < p.2.toNat + size - 1)) with
    | some p => some (.spbound, p.2)
    | none => none

/-- The bank cost c: the largest number of distinct rows addressed in one bank, at least 1 (R181, R194, R195). -/
def bankCost (as : List (Nat × DWord)) : Nat :=
  let words := (as.map (fun p => p.2.toNat / 16)).eraseDups
  words.foldl (fun m x => max m (words.filter (fun y => y % 256 == x % 256)).length) 1

/-- A vector access: the address of each lane and whether its bank cost counts; the checks, then the body with the
cost (R179, R181). -/
def vecAccess (s : State) (fn : Reg) (lw : LW) (srcs dests : List Src) (costed : Bool)
    (addr : Seqr → State → Nat → DWord) (body : Seqr → State → List (Nat × DWord) → Nat → Res) : Out :=
  let w := Fmt.vwidth fn
  vecIssue s lw srcs dests 2 fun q s =>
    let as := laneAddrs lw (s.getV q lw.greg) w (addr q s)
    match laneCheck (w / 8) as with
    | some (c, v) => .trap c v
    | none =>
      let c := if costed then bankCost as else 1
      body q (s.occupyLanes q.core (2 + (c - 1))) as c

/-- A vector load of every enabled lane. -/
def vecLoad (s : State) (d fn : Reg) (lw : LW) (srcs : List Src) (costed : Bool)
    (addr : Seqr → State → Nat → DWord) : Out :=
  let w := Fmt.vwidth fn
  vecAccess s fn lw srcs [srcV d] costed addr fun q s as c =>
    let new := as.foldl (fun l p => l.set p.1 (s.spadRead q p.2.toNat (w / 8))) (velems (s.getV q d) w)
    vecCommit q s true d.toNat (natOfElems w new) 0 (4 + (c - 1))

/-- A vector store of every enabled lane in ascending order; d is the data register and a source. -/
def vecStore (s : State) (d fn : Reg) (lw : LW) (srcs : List Src) (costed : Bool)
    (addr : Seqr → State → Nat → DWord) : Out :=
  let w := Fmt.vwidth fn
  vecAccess s fn lw (srcs ++ [srcV d]) [] costed addr fun q s as _ =>
    .retire (as.foldl (fun s' p => s'.spadWrite q p.2.toNat (w / 8) (velem (s.getV q d) w p.1)) s)

/-- Contiguous addresses. -/
def addrUnit (a fn : Reg) (q : Seqr) (s : State) (i : Nat) : DWord :=
  s.getS q a + BitVec.ofNat 64 (i * (Fmt.vwidth fn / 8))
/-- Strided addresses: b is a signed scalar stride in bytes. -/
def addrStride (a b : Reg) (q : Seqr) (s : State) (i : Nat) : DWord := s.getS q a + BitVec.ofNat 64 i * s.getS q b
/-- Indexed addresses: b is a vector of unsigned indices of elements. -/
def addrIndex (a b fn : Reg) (q : Seqr) (s : State) (i : Nat) : DWord :=
  let w := Fmt.vwidth fn
  s.getS q a + BitVec.ofNat 64 (velem (s.getV q b) w i * (w / 8))

def execVld (d a fn : Reg) (lw : LW) (s : State) : Out := vecLoad s d fn lw [srcS a lw.ta] false (addrUnit a fn)
def execVst (d a fn : Reg) (lw : LW) (s : State) : Out := vecStore s d fn lw [srcS a lw.ta] false (addrUnit a fn)
def execVldS (d a b fn : Reg) (lw : LW) (s : State) : Out :=
  vecLoad s d fn lw [srcS a lw.ta, srcS b lw.tb] true (addrStride a b)
def execVstS (d a b fn : Reg) (lw : LW) (s : State) : Out :=
  vecStore s d fn lw [srcS a lw.ta, srcS b lw.tb] true (addrStride a b)
def execVldX (d a b fn : Reg) (lw : LW) (s : State) : Out :=
  vecLoad s d fn lw [srcS a lw.ta, srcV b lw.tb] true (addrIndex a b fn)
def execVstX (d a b fn : Reg) (lw : LW) (s : State) : Out :=
  vecStore s d fn lw [srcS a lw.ta, srcV b lw.tb] true (addrIndex a b fn)

/-! ### Stream access (R183, R206) -/

def State.stream (s : State) (c n : Nat) : Stream := SMap.get {} (s.core c).streams n
def State.setStream (s : State) (c n : Nat) (x : Stream) : State :=
  let k := s.core c
  s.setCore c { k with streams := SMap.set k.streams n x }

/-- Bytes p to p + n − 1 of a stream: byte k lies at BASE + (k mod SIZE) (R206). -/
def State.streamBytes (s : State) (c : Nat) (r : Ring) (p n : Nat) : List Byte :=
  (List.range n).map (fun k => (s.core c).spad.read (r.base + (p + k) % r.size))

/-- `VLDQ` (R183): a names the stream register; the claim is taken and complete at issue. -/
def execVldq (d a fn : Reg) (lw : LW) (s : State) : Out :=
  let w := Fmt.vwidth fn
  vecIssue s lw [] [srcV d] 2 fun q s =>
    let n := a.toNat
    let x := s.stream q.core n
    match x.ring with
    | none => .trap .illegal (BitVec.ofNat 64 n)
    | some r =>
      if r.size < 1024 then .trap .illegal (BitVec.ofNat 64 n)
      else if x.arr < x.clm + 1024 then .stall
      else
        let v : VReg := BitVec.ofNat 8192 (natOfBytes (s.streamBytes q.core r x.clm 1024))
        let (new, _) := laneResults lw (s.getV q lw.greg) (s.getV q d) w (fun i => (velem v w i, 0))
        vecCommit q (s.setStream q.core n { x with clm := x.clm + 1024 }) true d.toNat new 0 4

end Sys2Proof.Machine
end

