-- ==== Sys2Proof/Machine/Tags.lean ====
section
/-! DEFINITION. The tag table (R200–R205) and the stream registers of the control core (R206–R210). -/

namespace Sys2Proof.Machine

/-! ### Partitions and sets (R201, R202) -/

/-- A partition descriptor's fields (R201). -/
structure Partition where
  base  : Nat
  sz    : Nat
  logn  : Nat
  first : Nat
  deriving DecidableEq, Repr

/-- The slot size in bytes of a size code (R201). -/
def slotSize (sz : Nat) : Nat := if sz = 0 then 128 else if sz = 1 then 1024 else 8192

/-- The fields of a descriptor. -/
def partitionOf (b : DWord) : Partition where
  base := b.toNat / 2 ^ 32 % 2 ^ 20
  sz := b.toNat / 2 ^ 12 % 4
  logn := b.toNat / 2 ^ 8 % 16
  first := b.toNat % 2 ^ 8

/-- Bytes of a partition's slot area (R201). -/
def Partition.area (p : Partition) : Nat := 2 ^ p.logn * 8 * slotSize p.sz

/-- The checks of R201 on a descriptor and an address, in order. -/
def partitionCheck (a b : DWord) : Option (Cause × DWord) :=
  let p := partitionOf b
  if b.toNat / 2 ^ 52 ≠ 0 ∨ b.toNat / 2 ^ 14 % 2 ^ 18 ≠ 0 ∨ p.sz = 3 ∨ 8 < p.logn ∨ 256 < p.first + 2 ^ p.logn
      ∨ p.base % slotSize p.sz ≠ 0 then some (.illegal, b)
  else if spadTop < p.base + p.area - 1 then some (.spbound, BitVec.ofNat 64 (p.base + p.area - 1))
  else if a >>> 57 ≠ 0 then some (.illegal, a)
  else none

/-- The XOR of the eight bytes of a number (R202). -/
def fold8 (x : Nat) : Nat := (List.range 8).foldl (fun r k => r ^^^ (x / 2 ^ (8 * k) % 256)) 0

/-- The line number of an address (R202). -/
def Partition.line (p : Partition) (a : DWord) : Nat := a.toNat % 2 ^ 57 / slotSize p.sz
/-- The set of an address (R202). -/
def Partition.set (p : Partition) (a : DWord) : Nat := p.first + fold8 (p.line a) % 2 ^ p.logn
/-- The slot address of a way (R202). -/
def Partition.slot (p : Partition) (set way : Nat) : Nat := p.base + ((set - p.first) * 8 + way) * slotSize p.sz

/-! ### Sets and entries (R200, R204) -/

def TagSet.way (t : TagSet) (w : Nat) : TagEntry := SMap.get {} t.ways w
def TagSet.setWay (t : TagSet) (w : Nat) (e : TagEntry) : TagSet := { t with ways := SMap.set t.ways w e }
/-- An entry becomes the most recent of its set. -/
def TagSet.touch (t : TagSet) (w : Nat) : TagSet := { t with order := w :: t.order.filter (· != w) }
/-- The way that holds a line of a slot size. -/
def TagSet.find (t : TagSet) (sz line : Nat) : Option Nat :=
  (List.range 8).find? (fun w => let e := t.way w; e.valid && e.sz == sz && e.tag == line)
/-- The lowest invalid way. -/
def TagSet.invalidWay (t : TagSet) : Option Nat := (List.range 8).find? (fun w => !(t.way w).valid)
/-- The least recent unpinned way. -/
def TagSet.victim (t : TagSet) : Option Nat := t.order.reverse.find? (fun w => (t.way w).pinmask == 0)

/-- The result word of R203; with no way, PIN, WAY and SLOT are zero. -/
def tagWord (status set : Nat) (t : TagSet) (p : Partition) (w : Option Nat) : DWord :=
  BitVec.ofNat 64 (status * 2 ^ 56 + set * 2 ^ 24 + (match w with
    | none => 0
    | some w => bit ((t.way w).pinmask != 0) * 2 ^ 23 + w * 2 ^ 20 + p.slot set w))

/-- What `alloc()` gives: the set, the way where one was found or installed, the status and the displaced line's
address (R204). -/
structure Alloc where
  tags      : TagSet
  way       : Option Nat
  status    : Nat
  displaced : DWord
  deriving DecidableEq, Repr

/-- `alloc()` of R204. -/
def TagSet.alloc (t : TagSet) (p : Partition) (line : Nat) : Alloc :=
  let fresh : TagEntry := { valid := true, sz := p.sz, tag := line, pinmask := 0 }
  match t.find p.sz line with
  | some w => ⟨t, some w, 0, allOnes64⟩
  | none => match t.invalidWay with
    | some w => ⟨t.setWay w fresh, some w, 2, allOnes64⟩
    | none => match t.victim with
      | some w => ⟨t.setWay w fresh, some w, 2, BitVec.ofNat 64 ((t.way w).tag * slotSize (t.way w).sz)⟩
      | none => ⟨t, none, 3, allOnes64⟩

def State.tagSet (s : State) (c n : Nat) : TagSet := SMap.get {} (s.core c).tagSets n
def State.setTagSet (s : State) (c n : Nat) (t : TagSet) : State :=
  let k := s.core c
  s.setCore c { k with tagSets := SMap.set k.tagSets n t }

/-- The entries that a context pins (R204). -/
def Core.pinsOf (k : Core) (ctx : Nat) : Nat :=
  k.tagSets.foldl (fun n t => n + (t.2.ways.filter (fun e => e.2.pinmask.getLsbD ctx)).length) 0

/-- When a thread ends its pins go, as if `TUNPIN` had run on each entry (R205). -/
def Core.dropPins (k : Core) (ctx : Nat) : Core :=
  { k with tagSets := SMap.mapVals (fun _ t =>
      { t with ways := SMap.mapVals (fun _ e => { e with pinmask := e.pinmask &&& ~~~(1#24 <<< ctx) }) t.ways }) k.tagSets }

/-- A tag instruction: operands ready, the checks of R201, a hold of 2 clocks (R204, R205); the body gives the new
set and the values of d and of d + 1. -/
def tagOp (s : State) (d a b : Reg) (pair : Bool)
    (body : Seqr → State → Partition → Nat → TagSet → TagSet × DWord × DWord) : Out :=
  issue s 1 .any fun q s =>
    s.ready q [srcS a, srcS b] (srcS d :: if pair then [srcS (d + 1)] else [])
      (match partitionCheck (s.getS q a) (s.getS q b) with
       | some (c, v) => .trap c v
       | none =>
         let p := partitionOf (s.getS q b)
         let n := p.set (s.getS q a)
         let (t, r, r2) := body q s p n (s.tagSet q.core n)
         let s1 := (s.setTagSet q.core n t).setS q d r
         .retire ((if pair then s1.setS q (d + 1) r2 else s1).holdFor q 2))

/-- `TLOOK` (R204). -/
def execTlook (d a b : Reg) (s : State) : Out :=
  tagOp s d a b false fun q s p n t =>
    match t.find p.sz (p.line (s.getS q a)) with
    | some w => (t.touch w, tagWord 0 n t p (some w), 0)
    | none => (t, tagWord 1 n t p none, 0)

/-- `TFILL` (R204). -/
def execTfill (d a b : Reg) (s : State) : Out :=
  tagOp s d a b true fun q s p n t =>
    let r := t.alloc p (p.line (s.getS q a))
    match r.way with
    | some w => (r.tags.touch w, tagWord r.status n r.tags p (some w), r.displaced)
    | none => (t, tagWord r.status n t p none, r.displaced)

/-- `TPIN` (R204): the quota is checked before the ways. -/
def execTpin (d a b : Reg) (s : State) : Out :=
  tagOp s d a b true fun q s p n t =>
    let x := s.ownerCtx q
    let line := p.line (s.getS q a)
    let pinned := match t.find p.sz line with
      | some w => (t.way w).pinmask.getLsbD x
      | none => false
    if !pinned && decide ((s.thread q).pinquota.toNat ≤ (s.core q.core).pinsOf x) then
      (t, tagWord 4 n t p none, allOnes64)
    else
      let r := t.alloc p line
      match r.way with
      | some w =>
        let e := r.tags.way w
        let t1 := (r.tags.setWay w { e with pinmask := e.pinmask ||| (1#24 <<< x) }).touch w
        (t1, tagWord r.status n t1 p (some w), r.displaced)
      | none => (t, tagWord r.status n t p none, r.displaced)

/-- `TEVICT` (R204). -/
def execTevict (d a b : Reg) (s : State) : Out :=
  tagOp s d a b false fun q s p n t =>
    match t.find p.sz (p.line (s.getS q a)) with
    | none => (t, tagWord 5 n t p none, 0)
    | some w =>
      if (t.way w).pinmask ≠ 0 then (t, tagWord 6 n t p (some w), 0)
      else (t.setWay w { t.way w with valid := false }, tagWord 0 n t p (some w), 0)

/-- `TUNPIN` (R204). -/
def execTunpin (d a b : Reg) (s : State) : Out :=
  tagOp s d a b false fun q s p n t =>
    let x := s.ownerCtx q
    match t.find p.sz (p.line (s.getS q a)) with
    | none => (t, tagWord 5 n t p none, 0)
    | some w =>
      let e := t.way w
      if !(e.pinmask.getLsbD x) then (t, tagWord 7 n t p (some w), 0)
      else
        let t1 := t.setWay w { e with pinmask := e.pinmask &&& ~~~(1#24 <<< x) }
        (t1, tagWord 0 n t1 p (some w), 0)

/-! ### Stream registers (R206–R210) -/

/-- A `CPY.STRM` that names stream register n is queued or running; its register is kept in the item's y operand (R207). -/
def Core.streamBusy (k : Core) (n : Nat) : Bool :=
  k.items.any (fun i => i.kind == .copy 8 && i.y.toNat == n)

/-- The fields of a `QBIND` descriptor (R207). -/
def ringOf (a b : DWord) : Ring where
  base := a.toNat
  size := b.toNat % 2 ^ 20
  esz := 2 ^ (b.toNat / 2 ^ 21 % 4)
  sgn := b.getLsbD 23

/-- `QBIND` (R207). -/
def execQbind (d a b : Reg) (s : State) : Out :=
  issue s 1 .any fun q s =>
    s.ready q [srcS a, srcS b] []
      (let n := d.toNat
       let x := s.stream q.core n
       let av := s.getS q a
       let bv := s.getS q b
       let r := ringOf av bv
       if x.ring.isSome && (x.arr != x.rel || x.clm != x.rel || (s.core q.core).streamBusy n) then
         .trap .illegal (BitVec.ofNat 64 n)
       else if bv >>> 24 ≠ 0 ∨ bv.getLsbD 20 ∨ r.size % 128 ≠ 0 then .trap .illegal bv
       else if r.size = 0 then .retire ((s.setStream q.core n {}).holdFor q 1)
       else if av.toNat % 128 ≠ 0 then .trap .align av
       else if spadTop < av.toNat + r.size - 1 then .trap .spbound av
       else .retire ((s.setStream q.core n { ring := some r }).holdFor q 1))

/-- `QGET` (R209): a claim of the next element; 16 unfilled claims of the thread stall. The fill is a scratchpad load made later: an `LDL` to
its line that is pending does not hold the issue or the fill, where R228 speaks of accesses at issue (DESIGN CHOICE, log entry 67). -/
def execQget (d a : Reg) (s : State) : Out :=
  issue s 1 .any fun q s =>
    s.ready q [] [srcS d]
      (let n := a.toNat
       let x := s.stream q.core n
       match x.ring with
       | none => .trap .illegal (BitVec.ofNat 64 n)
       | some r =>
         if 16 ≤ (x.claims.filter (fun c => decide (c.owner = q))).length then .stall
         else
           let k := s.core q.core
           let s1 := s.setCore q.core { k with nextClaim := k.nextClaim + 1 }
           let s2 := s1.setStream q.core n { x with clm := x.clm + r.esz, claims := x.claims ++ [⟨k.nextClaim, x.clm, r.esz, q, d.toNat⟩] }
           .retire (s2.setProg q ((s2.prog q).markEmpty d.toNat)))

/-- QGET_FILL: a claim all of whose bytes have arrived is filled by a load of the stream's bytes (R209). -/
def execQgetFill (s : State) : Out :=
  let c := s.target.core
  let n := s.target.unit
  let x := s.stream c n
  match x.ring, x.claims.find? (fun k => k.id == s.target.id) with
  | some r, some k =>
    if x.arr < k.start + k.len ∨ s.away.contains c then .next s
    else
      let v := natOfBytes (s.streamBytes c r k.start k.len)
      let w := if r.sgn then sextN (8 * k.len) v else zextN (8 * k.len) v
      let s1 := s.setStream c n { x with claims := x.claims.filter (fun j => j.id != k.id) }
      .next (s1.setProg k.owner ((s1.prog k.owner).fillS k.reg w))
  | _, _ => .next s

/-- `QREL` (R210): REL moves to the start of the lowest claim not yet complete, or to CLM. -/
def execQrel (d a : Reg) (s : State) : Out :=
  issue s 1 .any fun q s =>
    s.ready q [] [srcS d]
      (let n := a.toNat
       let x := s.stream q.core n
       if x.ring.isNone then .trap .illegal (BitVec.ofNat 64 n)
       else
         let rel := x.claims.foldl (fun m k => min m k.start) x.clm
         .retire (((s.setStream q.core n { x with rel := rel }).setS q d (BitVec.ofNat 64 rel)).holdFor q 1))

end Sys2Proof.Machine
end

