-- ==== Sys2Proof/Machine/Copy.lean ====
section
/-! DEFINITION. The copy engines: the ten forms, their push with its checks in order (R247–R251, R256–R263), the
accesses by which they move 2 KiB blocks (R246, R254, R255), stream units (R208, R261) and host transfers (R262, R378). -/

namespace Sys2Proof.Machine

/-! ### Jobs: what a form moves (R248, R256–R260) -/

/-- One destination of a copy: the handle it writes (none: scale memory), whether it quantises, the permutation of its
indices (none: a gather) and the counts. -/
structure CopyJob where
  dst    : Option Handle
  quant  : Bool
  perm   : Option Nat
  counts : List Nat
  deriving DecidableEq, Repr

/-- The ordering of rank `r` of some numbers, in lexicographic order (R256). -/
def nthPerm : Nat → List Nat → Nat → List Nat
  | 0, _, _ => []
  | n + 1, xs, r =>
    let f := (List.range n).foldl (fun a i => a * (i + 1)) 1
    let x := xs.getD (r / f) 0
    x :: nthPerm n (xs.filter (· != x)) (r % f)

/-- The permutation π of rank `r` (R256). -/
def permOf (r : Nat) : List Nat := nthPerm 4 [0, 1, 2, 3] r

/-- The options of a form: EXT 3:0 (R247). -/
def copyOpt (lw : LW) : Nat := lw.y.toNat % 16
/-- The command queue of the engine in EXT 5:4 (R246, R247). -/
def copyQueue (lw : LW) : Nat := 1 + lw.y.toNat / 16

/-- The jobs of a form (low four bits of its MOP), of its options and its permutation rank, from its handles d, a, b. -/
def copyJobs (form opt rank : Nat) (hd ha hb : Handle) : List CopyJob :=
  match form with
  | 0 => [⟨some hd, false, some 0, hb.ex⟩]
  | 1 => [⟨some hd, false, some 6, hb.ex⟩]
  | 2 => [⟨some hd, false, some rank, hb.ex⟩]
  | 3 => [⟨some hd, true, some 0, hb.ex⟩]
  | 4 => [⟨some hd, true, some 6, hb.ex⟩]
  | 5 => [⟨some hd, false, none, [hd.extent 0, hb.extent 0, 1, 1]⟩]
  | 6 =>
    let q := opt % 2 == 1
    [⟨some hd, q, some 0, hd.ex⟩, ⟨some hb, q, some 6, [hd.extent 1, hd.extent 0, hd.extent 2, hd.extent 3]⟩]
  | 7 => [⟨none, false, some 0, ha.ex⟩]
  | _ => []

/-- A format that the quantising forms read (R257), and one that they write. -/
def quantSource (f : Nat) : Bool := decide (f ≤ 6) || (decide (8 ≤ f) && decide (f ≤ 0x11))
def quantDest (f : Nat) : Bool := Fmt.defined f && f != 0x12 && f != 0x13

/-- The rules of a form (R256–R260). -/
def copyRules (form opt rank : Nat) (x : DWord) (hd ha hb : Handle) : Bool :=
  let jobsOk := (copyJobs form opt rank hd ha hb).all (fun j => match j.dst with
    | none => true
    | some h =>
      (if j.quant then quantSource ha.fmt && quantDest h.fmt
       else h.fmt == ha.fmt && (if h.isMx then j.perm == some 0 && form != 2 else true))
      && (if h.isMx then j.counts.getD 0 0 % 32 == 0 else true))
  match form with
  | 5 => jobsOk && [hd, ha, hb].all (fun h => h.extent 2 == 1 && h.extent 3 == 1) && (hb.fmt == 4 || hb.fmt == 5)
      && hb.extent 1 == 1 && hd.extent 0 == ha.extent 0 && !ha.isMx
  | 6 => jobsOk && hb.ex == [hd.extent 1, hd.extent 0, hd.extent 2, hd.extent 3]
  | 7 => ha.fmt == 1 && decide (x.toNat % 2 ^ 15 + ha.ex.foldl (· * ·) 1 ≤ 32768)
  | _ => jobsOk

/-- A permutation's source indices: j[π(k)] is i[k] (R256). -/
def permute (rank : Nat) (i : List Nat) : List Nat :=
  ((permOf rank).zip i).foldl (fun j p => j.set p.1 p.2) [0, 0, 0, 0]

/-- Some index of the counts passes an extent, when no count is 0 (R249 check 4). -/
def countsPass (counts ex : List Nat) : Bool :=
  counts.all (· != 0) && (counts.zip ex).any (fun p => decide (p.2 < p.1))

/-- A handle with OOB = 01 is indexed beyond an extent by the counts of a job (R249 check 4). -/
def jobFoot (ha : Handle) (j : CopyJob) : Bool × Bool :=
  (match j.dst with
   | some h => h.oob == 1 && countsPass j.counts h.ex
   | none => false,
   match j.perm with
   | some r => ha.oob == 1 && j.dst.isSome && countsPass (permute r j.counts) ha.ex
   | none => false)

/-! ### The push (R249) -/

/-- The cells of a handle's elements on D pages (R250, R263). -/
def cellRanges (ps : List Page) (h : Handle) : List Rng :=
  ((h.ranges true true).map (fun g => (ps.filter Page.d).filterMap (fun p =>
    let lo := max g.lo p.base
    let hi := min g.hi (p.base + p.size)
    if lo < hi then some ⟨cellVa p.esize lo, cellVa p.esize (hi - 1) + 8, true, true⟩ else none))).flatten

/-- The pins that a push needs are withheld: those of the pages of its footprint that translate (R221, R249). -/
def State.pinsFirst (s : State) (q : Seqr) (rs : List Rng) : Bool :=
  let ps := s.peekPages q.core rs
  decide (ps.length ≤ tlbPinMax) && s.pinsStall q.core ps

/-- Translate a footprint and take its pins, or trap, or wait (R220, R221). -/
def State.withFoot (s : State) (q : Seqr) (rs : List Rng) (k : List Page → State → Res) : Res :=
  match walkFoot q.core rs (pageBound rs) s 0 with
  | .trap c v => .trap c v
  | .noMemory => .stop .noMemory
  | .pages ps s1 =>
    if tlbPinMax < ps.length then .trap .illegal (BitVec.ofNat 64 ps.length)
    else if s1.pinsStall q.core ps then .stall
    else k ps s1

/-- Insert a number into an ascending list. -/
def insertNat (x : Nat) : List Nat → List Nat
  | [] => [x]
  | y :: r => if x ≤ y then x :: y :: r else y :: insertNat x r

/-- The lines of some ranges that lie on D pages, ascending. -/
def dLines (ps : List Page) (rs : List Rng) : List Nat :=
  let all := (rs.map (fun g => if g.lo < g.hi then (List.range ((g.hi - 1) / 128 - g.lo / 128 + 1)).map (fun i => (g.lo / 128 + i) * 128)
    else [])).flatten.eraseDups
  (all.filter (fun va => match pageAt ps va with
    | some p => p.d
    | none => false)).foldl (fun l x => insertNat x l) []

/-- The reservation of a record for each line of a copy, ascending, with the tape pages translated (R333). -/
def State.reserveLines (s : State) (q : Seqr) (lines : List Nat) (k : List TapeLine → List Page → State → Res) : Res :=
  let t := s.thread q
  let p := t.tapeptr.toNat
  match ((List.range lines.length).zip lines).find? (fun e => decide (t.tapelim.toNat < p + 144 * (e.1 + 1))) with
  | some e => .trap .tapeovf (BitVec.ofNat 64 e.2)
  | none =>
    let len := 144 * lines.length
    if len = 0 then k [] [] s
    else match State.xlateRange q.core (p + len - 1) false true tapePageBad (len / 65536 + 3) s p with
      | .trap c v => .trap c v
      | .noMemory => .stop .noMemory
      | .pages ps s1 =>
        let t1 := s1.thread q
        k (lines.mapIdx (fun i va => { va := va, parts := tapeParts ps (p + 144 * i) 144 })) ps
          (s1.setThread q { t1 with tapeptr := BitVec.ofNat 64 (p + len) })

/-- The pops of the lines of a copy, descending, with the tape pages translated (R334). -/
def popLines (q : Seqr) : List Nat → State → List TapeLine → List Page → (List TapeLine → List Page → State → Res) → Res
  | [], s, acc, tps, k => k acc tps s
  | va :: r, s, acc, tps, k =>
    match s.pop q 3 va with
    | .trap c v => .trap c v
    | .noMemory => .stop .noMemory
    | .wait => .stall
    | .record old ps s1 => popLines q r s1 ({ va := va, old := old } :: acc) (tps ++ ps) k

/-- A copy reaches a form whose D-page rules R263 gives. -/
def dForm (form : Nat) : Bool := form == 0 || form == 1 || form == 2 || form == 5

/-- Push a copy's item: its tag register receives the number, its pages are pinned, the thread is held (R249). -/
def State.pushCopy (s : State) (q : Seqr) (lw : LW) (i : Item) (hold : Nat) : Res :=
  let s1 := s.pin q.core i.pages
  let (s2, n) := s1.push q { i with accMark := (s1.core q.core).nextAcc }
  .retire ((s2.setS q lw.x (BitVec.ofNat 64 n)).holdFor q hold)

/-- The item that a copy instruction pushes, before its footprint. -/
def copyItem (form : Nat) (lw : LW) (words : List Word) (rm : Rm) : Item :=
  { seq := 0, queue := copyQueue lw, prio := 0, owner := 0, kind := .copy form, words := words, rm := rm }

/-- The ranges of global addresses of a command that reads and writes some handles: their rows, and those of their scale bytes and,
in reverse mode, of their cells (R217, R250, R263). -/
def State.copyBase (rd wr : List Handle) : List Rng :=
  (rd.map (fun h => h.ranges true false)).flatten ++ (wr.map (fun h => h.ranges false true)).flatten
def State.copyRanges (s : State) (q : Seqr) (form : Nat) (rd wr : List Handle) : List Rng :=
  let base := State.copyBase rd wr
  let ps := s.peekPages q.core base
  base ++ (rd.map (fun h => scaleRanges ps h true false)).flatten ++ (wr.map (fun h => scaleRanges ps h false true)).flatten
    ++ (if (s.thread q).modeRev && dForm form then ((rd ++ wr).map (cellRanges ps)).flatten else [])

/-- The hold of a push: 2 clocks, and one for each distinct page it translates, the tape's among them (R249). -/
def pushHold (ps tps : List Page) : Nat := 2 + ((ps ++ tps).map (fun p => p.base)).eraseDups.length

/-- Checks 3 to 7 of R249 and the push, for the forms that name handles alone: the handles read and written, the scale
memory written. -/
def copyTail (form : Nat) (lw : LW) (i : Item) (rd wr : List Handle) (scales : List Granule) (pair : Bool) (q : Seqr)
    (s : State) : Res :=
  let base := State.copyBase rd wr
  let ps0 := s.peekPages q.core base
  let rev := (s.thread q).modeRev && dForm form
  let rs := s.copyRanges q form rd wr
  match lowestOffGrid ps0 (rd ++ wr) with
  | some va => .trap .align (BitVec.ofNat 64 va)
  | none =>
    s.withFoot q rs fun ps s =>
      match badScalePage ps (rd ++ wr) with
      | some va => .trap .prot (BitVec.ofNat 64 va)
      | none =>
        let reads := rngGranules ps (rs.filter (fun g => g.r && !g.w)) ++ (rd.map Handle.spadGranules).flatten
        let writes := rngGranules ps (rs.filter (fun g => g.w)) ++ (wr.map Handle.spadGranules).flatten ++ scales
        let twin := if pair then match wr with
          | [h1, h2] =>
            let g1 := rngGranules ps (h1.ranges false true ++ scaleRanges ps0 h1 false true) ++ h1.spadGranules
            let g2 := rngGranules ps (h2.ranges false true ++ scaleRanges ps0 h2 false true) ++ h2.spadGranules
            g1.filter (fun g => g2.contains g)
          | _ => []
          else []
        let ov := reads.filter (fun g => writes.contains g) ++ twin
        if !ov.isEmpty then .trap .overlap (overlapVal rs ps ov)
        else
          let onD := dLines ps base
          let item := { i with reads := reads, writes := writes, pages := ps, foot := rs, rev := rev, dpage := !onD.isEmpty }
          let lines := dLines ps (base.filter (fun g => g.w))
          if onD.isEmpty then s.pushCopy q lw item (pushHold ps [])
          else if !dForm form then
            .trap .mode (BitVec.ofNat 64 ((lowestOnD ps base).getD 0))
          else if rev then popLines q lines.reverse s [] [] fun ls tps s => s.pushCopy q lw { item with lines := ls } (pushHold ps tps)
          else s.reserveLines q lines fun ls tps s => s.pushCopy q lw { item with lines := ls } (pushHold ps tps)

/-- A copy instruction of a form on handles (forms 0 to 7): the stall on a full queue, the checks, the push (R249). -/
def copyInstr (form : Nat) (d a b fn : Reg) (lw : LW) (s : State) : Out :=
  issue s 2 .any fun q s => guarded lw q s
    (let bIsH := form != 7
     let dIsH := form != 7
     s.ready q ([srcH a lw.ta] ++ (if bIsH then [srcH b lw.tb] else []) ++ [if dIsH then srcH d else srcS d]) [srcS lw.x]
      (if s.pushStalls q (copyQueue lw) then .stall
       else
         let ha := handleOf (s.getH q a)
         let hd := handleOf (if dIsH then s.getH q d else 0)
         let hb := handleOf (if bIsH then s.getH q b else 0)
         let x := if dIsH then 0 else s.getS q d
         let opt := copyOpt lw
         let rank := fn.toNat
         let regs := (if dIsH then [(d, hd)] else []) ++ [(a, ha)] ++ (if bIsH then [(b, hb)] else [])
         let rd := if form = 5 then [ha, hb] else [ha]
         let wr := if form = 6 then [hd, hb] else if form = 7 then [] else [hd]
         if s.pinsFirst q (s.copyRanges q form rd wr) then .stall
         else match firstBadHandle regs with
         | some r => .trap .illegal (zx64 r)
         | none =>
           if !copyRules form opt rank x hd ha hb then .trap .illegal (s.pcOf q)
           else
             let jobs := copyJobs form opt rank hd ha hb
             let foots := jobs.map (jobFoot ha)
             let dFoot := (foots.headD (false, false)).1
             let aFoot := foots.any Prod.snd
             let bFoot := (foots.drop 1).any Prod.fst
             let n := ha.ex.foldl (· * ·) 1
             let item : Item := { copyItem form lw [packA (0xC0 + form) d a b fn, lw.toWord] (s.rm q lw.rm) with
               hd := if dIsH then s.getH q d else 0, ha := s.getH q a, hb := if bIsH then s.getH q b else 0, x := x }
             let scales := if form = 7 then scaleGranules (x.toNat % 2 ^ 15) n else []
             if lowestOffGrid (s.peekPages q.core ((rd ++ wr).map (fun h => h.ranges true true)).flatten) (rd ++ wr) = none
                 ∧ (dFoot || aFoot || bFoot) then
               .trap .foot (zx64 (if dFoot then d else if aFoot then a else b))
             else copyTail form lw item rd wr scales (form == 6) q s))

def execCpy (d a b fn : Reg) (lw : LW) (s : State) : Out := copyInstr 0 d a b fn lw s
def execCpyT (d a b fn : Reg) (lw : LW) (s : State) : Out := copyInstr 1 d a b fn lw s
def execCpyP (d a b fn : Reg) (lw : LW) (s : State) : Out := copyInstr 2 d a b fn lw s
def execCpyQ (d a b fn : Reg) (lw : LW) (s : State) : Out := copyInstr 3 d a b fn lw s
def execCpyQT (d a b fn : Reg) (lw : LW) (s : State) : Out := copyInstr 4 d a b fn lw s
def execCpyGath (d a b fn : Reg) (lw : LW) (s : State) : Out := copyInstr 5 d a b fn lw s
def execCpyPair (d a b fn : Reg) (lw : LW) (s : State) : Out := copyInstr 6 d a b fn lw s
def execCpyScale (d a b fn : Reg) (lw : LW) (s : State) : Out := copyInstr 7 d a b fn lw s

/-- `CPY.STRM` (R261): field d names the stream register. -/
def execCpyStrm (d a b fn : Reg) (lw : LW) (s : State) : Out :=
  issue s 2 .any fun q s => guarded lw q s
    (s.ready q [srcH a lw.ta] [srcS lw.x]
      (if s.pushStalls q (copyQueue lw) then .stall
       else
         let ha := handleOf (s.getH q a)
         if s.pinsFirst q (ha.ranges true false) then .stall
         else if !ha.ok then .trap .illegal (zx64 a)
         else match (s.stream q.core d.toNat).ring with
           | none => .trap .illegal (s.pcOf q)
           | some r =>
             if ha.isMx || ha.extent 0 * ha.width % 8 != 0 then .trap .illegal (s.pcOf q)
             else
               let item : Item := { copyItem 8 lw [packA 0xC8 d a b fn, lw.toWord] .rne with
                 ha := s.getH q a, y := BitVec.ofNat 64 d.toNat }
               let rs := ha.ranges true false
               s.withFoot q rs fun ps s =>
                 let reads := rngGranules ps rs ++ ha.spadGranules
                 let writes := (List.range (r.size / 128)).map (fun i => Granule.mk .spad (r.base / 128 + i))
                 let ov := reads.filter (fun g => writes.contains g)
                 if !ov.isEmpty then .trap .overlap (overlapVal rs ps ov)
                 else match lowestOnD ps rs with
                   | some va => .trap .mode (BitVec.ofNat 64 va)
                   | none => s.pushCopy q lw { item with reads := reads, writes := writes, pages := ps, foot := rs } (2 + ps.length)))

/-- The entries of a transfer list (R262). -/
def hostEntries (dws : List Nat) : Nat → List HostEntry
  | 0 => []
  | n + 1 =>
    { bus := dws.getD 0 0, dev := dws.getD 1 0, len := dws.getD 2 0, toDev := dws.getD 3 0 % 2 == 1 } :: hostEntries (dws.drop 4) n

/-- The rules of an entry (R262). -/
def hostEntryOk (dws : List Nat) (i : Nat) : Bool :=
  let g (k : Nat) : Nat := dws.getD (4 * i + k) 0
  g 0 % 128 == 0 && g 1 % 128 == 0 && g 2 % 128 == 0 && decide (128 ≤ g 2) && decide (g 2 ≤ 2 ^ 32) && decide (g 3 ≤ 1)

/-- A block of the scratchpad that a span touches carries another tag than the handle's swizzle (R199). -/
def Core.spanMismatch (k : Core) (h : Handle) (a n : Nat) : Bool :=
  (List.range ((a + n - 1) / 2048 - a / 2048 + 1)).any (fun b => k.tagOf (a / 2048 + b) != h.swz)

/-- `CPY.HOST` (R262): the list is read at the push, as a scratchpad access of the thread (R228), and no byte of a list whose tag differs is
used (R199). -/
def execCpyHost (d a b fn : Reg) (lw : LW) (s : State) : Out :=
  issue s 2 .any fun q s => guarded lw q s
    (s.ready q [srcH a lw.ta] [srcS lw.x]
      (if s.pushStalls q (copyQueue lw) then .stall
       else
         let ha := handleOf (s.getH q a)
         let n := ha.extent 0 / 4
         let rev := copyOpt lw % 2 == 1
         let listOk := ha.s && ha.fmt == 6 && ha.extent 0 % 4 == 0 && decide (1 ≤ n) && decide (n ≤ 256) && ha.extent 1 == 1
           && ha.extent 2 == 1 && ha.extent 3 == 1
         let dws := (List.range (4 * n)).map (fun k => s.readNH q.core [] ha (ha.base + 8 * k) 8)
         let es := hostEntries dws n
         let run := if rev then (es.reverse).map (fun e => { e with toDev := !e.toDev }) else es
         let rs := run.map (fun e => Rng.mk e.dev (e.dev + e.len) (!e.toDev) e.toDev)
         if ha.ok && listOk && s.lineBusy q ha.base ha.rowBytes then .stall
         else if ha.ok && listOk && !(s.core q.core).spanMismatch ha ha.base ha.rowBytes && s.pinsFirst q rs then .stall
         else if !ha.ok then .trap .illegal (zx64 a)
         else if !listOk then .trap .illegal (s.pcOf q)
         else
           let item : Item := { copyItem 9 lw [packA 0xC9 d a b fn, lw.toWord] .rne with ha := s.getH q a }
           let reads0 := ha.spadGranules
           if (s.core q.core).spanMismatch ha ha.base ha.rowBytes then
             s.pushCopy q lw { item with reads := reads0, failing := some .swizzle } (2 + n)
           else if !(List.range n).all (hostEntryOk dws) then .trap .illegal (s.pcOf q)
           else
             s.withFoot q rs fun ps s =>
               let gs := run.map (fun e => rngGranules ps [⟨e.dev, e.dev + e.len, true, true⟩])
               let all := gs.flatten
               let shared := all.eraseDups.filter (fun g => decide (1 < (all.filter (· == g)).length))
               if !shared.isEmpty then .trap .overlap (overlapVal rs ps shared)
               else match lowestOnD ps rs with
                 | some va => .trap .mode (BitVec.ofNat 64 va)
                 | none =>
                   let pick (w : Bool) : List Granule := ((run.zip gs).map (fun e => if e.1.toDev = w then e.2 else [])).flatten
                   s.pushCopy q lw
                     { item with reads := reads0 ++ pick false, writes := pick true, pages := ps, foot := rs, entries := run }
                     (pushHold ps [] + n)))

/-! ### Units (R21, R232, R255)

What a command writes of a row, a chunk or a block, element by element or byte by byte, is given here by the access unit that each lies in;
each unit is written in one access, and the units in any order (R255). -/

/-- Where the units begin. -/
def unitHeads (l : List (Option Nat)) : List Nat := (List.range l.length).filter (fun k => k == 0 || l[k - 1]? != l[k]?)
/-- How many belong to the unit that begins at `k`. -/
def unitRun (l : List (Option Nat)) (k : Nat) : Nat := ((l.drop k).takeWhile (fun x => some x == l[k]?)).length
/-- The unit that begins at `k` may be written: it has not been, and the units before it that lie in its access unit have (R254). -/
def mayHead (l : List (Option Nat)) (wrote : List Nat) (k : Nat) : Bool :=
  (unitHeads l).contains k && !wrote.contains k && (unitHeads l).all (fun x => decide (k ≤ x) || wrote.contains x || l[x]? != l[k]?)

/-! ### Moving a block (R246, R254–R260, R263)

A block of a command is moved access by access. The source elements are read in any order, those of one source line, or of one bank
word of the scratchpad, in one access; the destination elements are written in units, those of one destination line or bank word in one
access, each at any time after its elements were read (R21, R232, R239, R255). Thread accesses and other commands fall between these
accesses. -/

/-- A step in progress: the state, the command, the granules it writes, what it reads beside, and the cause it fails with. -/
structure Move where
  s     : State
  it    : Item
  grans : List Granule := []
  /-- Physical addresses of cells and lines that it reads. -/
  asks  : List Nat := []
  fail  : Option Cause := none
  deriving DecidableEq, Repr

/-- Indices of the n-th destination element, dimension 0 fastest. -/
def unravel (n : Nat) : List Nat → List Nat
  | [] => []
  | c :: r => n % c :: unravel (n / c) r

/-- Natural indices as integers. -/
def intIdx (i : List Nat) : List Int := i.map (fun (n : Nat) => (n : Int))

/-- Numbers along the four dimensions, those of dimension 0 in whole MX blocks where the handle has them. -/
def Handle.inBlocks (h : Handle) (l : List Nat) : List Nat := if h.isMx then (l.take 1).map (fun n => (n + 31) / 32) ++ l.drop 1 else l

/-- The last iteration that writes an element: where clamping lets several land on one, the highest; MX blocks are clamped whole (R254;
log entry 57). -/
def lastWriter (h : Handle) (counts i : List Nat) : Bool :=
  h.oob != 2 || ((h.inBlocks (i.map (· + 1))).zip ((h.inBlocks h.ex).zip (h.inBlocks counts))).all
    (fun p => decide (p.1 < p.2.1) || p.1 == p.2.2 || decide (p.2.2 ≤ p.2.1))

/-- Destination elements of a 2 KiB block (R246); whole MX blocks where the format is one. -/
def CopyJob.perBlock (j : CopyJob) : Nat :=
  match j.dst with
  | none => 2048
  | some h => let n := 16384 / h.width; if h.isMx then n / 32 * 32 else n

/-- Elements of a job, and its blocks. -/
def CopyJob.total (j : CopyJob) : Nat := j.counts.foldl (· * ·) 1
def CopyJob.blocks (j : CopyJob) : Nat := (j.total + j.perBlock - 1) / j.perBlock

/-- The job and the block of it that the p-th block of a command is. -/
def blockOf : List CopyJob → Nat → Option (CopyJob × Nat)
  | [], _ => none
  | j :: r, p => if p < j.blocks then some (j, p) else blockOf r (p - j.blocks)

/-- The jobs of an item. -/
def Item.jobs (i : Item) : List CopyJob :=
  match i.kind with
  | .copy f => copyJobs f ((i.words.getD 1 0).toNat % 16) ((i.words.getD 0 0).toNat % 64) (handleOf i.hd) (handleOf i.ha) (handleOf i.hb)
  | _ => []

/-- The saturate option of an item (R248). -/
def Item.sat (i : Item) : Bool :=
  let o := (i.words.getD 1 0).toNat % 16
  match i.kind with
  | .copy 6 => o / 2 % 2 == 1
  | _ => o % 2 == 1

/-- A block of a command: its job, the number of its first element and how many it has. -/
structure CopyBlk where
  j  : CopyJob
  lo : Nat
  n  : Nat
  deriving DecidableEq, Repr

def CopyJob.blk (j : CopyJob) (p : Nat) : CopyBlk := ⟨j, p * j.perBlock, min j.perBlock (j.total - p * j.perBlock)⟩

/-- The destination is an MX block form. -/
def CopyBlk.mx (b : CopyBlk) : Bool :=
  match b.j.dst with
  | some h => h.isMx
  | none => false

/-- The destination indices of the k-th element of the block. -/
def CopyBlk.idx (b : CopyBlk) (k : Nat) : List Nat := unravel (b.lo + k) b.j.counts

/-- Where the k-th element goes. An MX block that begins beyond EX0 under OOB = 10 goes whole to the row's last block: so no write
leaves part of a block (R142, R254; DESIGN CHOICE, log entry 57). -/
def CopyBlk.dest (b : CopyBlk) (k : Nat) : Resolved :=
  match b.j.dst with
  | none => .beyond
  | some h =>
    let i := b.idx k
    let i0 := i.getD 0 0
    h.resolve (intIdx (if h.isMx && h.oob == 2 && decide (h.extent 0 ≤ i0) then i.set 0 (h.extent 0 - 32 + i0 % 32) else i))

/-- Bytes of the access unit that holds an address of a handle: a bank word of the scratchpad, a line of global memory (R21, R232,
R255). -/
def Handle.unitBytes (h : Handle) : Nat := if h.s then 16 else 128

/-- The source indices of the k-th element: permuted, or the gathered row, once its index has been read (R256, R258). -/
def CopyBlk.source (b : CopyBlk) (i : Item) (k : Nat) : Option (List Int) :=
  let d := b.idx k
  match b.j.perm with
  | some r => some (intIdx (permute r d))
  | none =>
    (i.rowIdx.find? (fun e => e.1 == d.getD 1 0)).map (fun e =>
      [(d.getD 0 0 : Nat), if (handleOf i.hb).fmt = 4 then signedOf 32 e.2 else (e.2 : Int), 0, 0])

/-- The page of a handle's element on a D page (R263). -/
def Item.dPageAt (i : Item) (h : Handle) (va : Nat) : Option Page :=
  if h.s then none else match pageAt i.pages va with
    | some p => if p.d then some p else none
    | none => none

/-- The physical address and the page of the cell of an element of a D page (R212). -/
def Item.cellOf (i : Item) (p : Page) (va : Nat) : Nat × Int :=
  let c := cellVa p.esize va
  match pageAt i.pages c with
  | some cp => (cp.pa c, cp.scale)
  | none => (0, 0)

/-- The k-th element of a reverse-mode copy is a pair of R263: its destination element, the page and the address, lies on a D page. -/
def CopyBlk.pairAt (b : CopyBlk) (i : Item) (k : Nat) : Option (Page × Nat) :=
  if i.rev then match b.j.dst, b.dest k with
    | some h, .at_ t => let va := (h.elemAt t).1.toNat; (i.dPageAt h va).map (fun p => (p, va))
    | _, _ => none
  else none

/-- The cells of a pair of which the source's gains the destination's, with their scales: a source element on a D page, and the iteration
that the forward copy left in the destination (R254, R263). -/
def CopyBlk.adds (b : CopyBlk) (i : Item) (k : Nat) : Option ((Nat × Int) × (Nat × Int)) :=
  match b.pairAt i k, b.j.dst, (b.source i k).map (handleOf i.ha).resolve with
  | some (p, va), some h, some (.at_ j) =>
    let sa := ((handleOf i.ha).elemAt j).1.toNat
    if lastWriter h b.j.counts (b.idx k) then (i.dPageAt (handleOf i.ha) sa).map (fun sp => (i.cellOf p va, i.cellOf sp sa)) else none
  | _, _, _ => none

/-- The k-th element moves with its whole MX block (R142): none of the block is a pair of R263. -/
def CopyBlk.asBlock (b : CopyBlk) (i : Item) (k : Nat) : Bool :=
  b.mx && (!i.rev || (List.range 32).all (fun x => (b.pairAt i (k / 32 * 32 + x)).isNone))

/-- The access unit, or the row of scale memory, that the k-th element is written in; an MX block's by its first byte. The add of a
reverse-mode pair is an access of its own. -/
def CopyBlk.destLine (b : CopyBlk) (i : Item) (k : Nat) : Option Nat :=
  if (b.pairAt i k).isSome then some (2 ^ 64 + b.lo + k)
  else match b.j.dst with
  | none => some ((i.x.toNat % 2 ^ 15 + b.lo + k) / 128)
  | some h => match b.dest (if b.asBlock i k then k / 32 * 32 else k) with
    | .at_ t => some ((h.elemAt t).1.toNat / h.unitBytes)
    | _ => none

/-- Bytes of a handle that an element takes: the address and the number. -/
def Handle.span (h : Handle) (r : Resolved) : Option (Nat × Nat) :=
  match r with
  | .at_ j => let (a, off) := h.elemAt j; some (a.toNat, elemBytes off h.width)
  | _ => none

/-- Physical addresses, one a line, of some bytes of a handle in global space. -/
def Handle.requests (h : Handle) (pages : List Page) (e : Option (Nat × Nat)) : List Nat :=
  match e with
  | some (a, n) => if h.s then [] else [paIn pages a, paIn pages (a + n - 1)]
  | none => []

/-! #### Reading -/

/-- The physical address of the scale byte of the block that an element of a global handle heads, where its page has one (R217). -/
def Item.scalePa (i : Item) (h : Handle) (r : Resolved) : Option Nat :=
  match r with
  | .at_ j =>
    let a := (h.elemAt j).1.toNat
    if h.s then none else ((pageAt i.pages a).bind (fun p => p.scaleVa h.width a)).map (paIn i.pages)
  | _ => none

/-- The scale of the source block that an element heads: 0x7F in scratchpad (R142), its page's byte (R217). Where the spec states
none, of a block beyond an extent or on a page without block geometry, it is a free value of the operands (log entry 4). -/
def Move.scaleIn (m : Move) (h : Handle) (r : Resolved) (n : Nat) : Nat :=
  match r, m.it.scalePa h r with
  | _, some pa => (m.s.hbm.read pa).toNat
  | .at_ _, none => if h.s then 0x7F else Config.openScale m.it.ha n % 256
  | _, none => Config.openScale m.it.ha n % 256

/-- The k-th element has been read. -/
def Item.has (i : Item) (k : Nat) : Bool := i.got.any (fun e => e.1 == k)

/-- The k-th element is read with its whole MX block and the block's scale (R142, R256). A copy through an element-wise handle moves elements on
a page with MX block geometry as anywhere else (R255; DESIGN CHOICE, log entry 75). -/
def CopyBlk.wholeMx (b : CopyBlk) (i : Item) (k : Nat) : Bool := b.asBlock i k && !b.j.quant

/-- The access unit of the source that the k-th element lies in; none beyond an extent, or before its row's index has been read. -/
def CopyBlk.sourceUnit (b : CopyBlk) (i : Item) (k : Nat) : Option Nat :=
  let ha := handleOf i.ha
  (b.source i k).bind (fun si => (ha.span (ha.resolve si)).map (fun e => e.1 / ha.unitBytes))

/-- An access may read from the k-th element on: it has not been read, and it begins what is left of its access unit; an MX block is
read whole, and of a reverse-mode pair the destination's cell alone. -/
def CopyBlk.mayRead (b : CopyBlk) (i : Item) (k : Nat) : Bool :=
  decide (k < b.n) && !i.has k &&
    (if (b.pairAt i k).isSome then true
     else if b.wholeMx i k then k % 32 == 0
     else k == 0 || i.has (k - 1) || (b.pairAt i (k - 1)).isSome || (b.sourceUnit i k).isNone || b.sourceUnit i (k - 1) != b.sourceUnit i k)

/-- How many elements from the k-th on one access reads: those that follow in its access unit, an MX block whole (R142). -/
def CopyBlk.run (b : CopyBlk) (i : Item) (k : Nat) : Nat :=
  let u := b.sourceUnit i k
  if (b.pairAt i k).isSome then 1
  else if b.wholeMx i k then 32
  else 1 + (((List.range (b.n - k - 1)).map (fun x => k + 1 + x)).takeWhile
    (fun x => b.sourceUnit i x == u && u.isSome && !i.has x && (b.pairAt i x).isNone)).length

/-- The physical addresses that the read from the k-th element on goes to, an MX block's scale among them; of a pair the destination's
cell. -/
def CopyBlk.readAt (b : CopyBlk) (i : Item) (k : Nat) : List Nat :=
  let ha := handleOf i.ha
  let hb := handleOf i.hb
  match b.source i k with
  | none => hb.requests i.pages (hb.span (hb.resolve [((b.idx k).getD 1 0 : Nat), 0, 0, 0]))
  | some si =>
    if (b.pairAt i k).isSome then ((b.adds i k).map (fun a => a.1.1)).toList
    else ((List.range (b.run i k)).map (fun x => ha.requests i.pages (((b.source i (k + x)).map ha.resolve).bind ha.span))).flatten
      ++ (if b.wholeMx i k then (i.scalePa ha (ha.resolve si)).toList else [])

/-- The read from the k-th element on: its gathered row's index, the cell of a pair's destination, or the source elements of one access
unit (R254, R258, R263). A pair reads no source element, only whether it exists. -/
def Move.read (m : Move) (c : Nat) (b : CopyBlk) (k : Nat) : Move :=
  let ha := handleOf m.it.ha
  match b.source m.it k with
  | none =>
    let row := (b.idx k).getD 1 0
    match m.s.readElem c m.it.pages (handleOf m.it.hb) [(row : Int), 0, 0, 0] with
    | .fail f => { m with fail := some f }
    | .val x => { m with it := { m.it with rowIdx := SMap.set m.it.rowIdx row x } }
  | some si0 =>
    if (b.pairAt m.it k).isSome then
      if ha.resolve si0 = .foot then { m with fail := some .foot }
      else { m with it := { m.it with got := SMap.set m.it.got k (match b.adds m.it k with
        | some (t, _) => m.s.hbm.readN t.1 8
        | none => 0, 0) } }
    else (List.range (b.run m.it k)).foldl (fun m x =>
      if m.fail.isSome then m
      else
        let si := (b.source m.it (k + x)).getD []
        match m.s.readElem c m.it.pages ha si with
        | .fail f => { m with fail := some f }
        | .val v =>
          let sc := if b.mx && (k + x) % 32 == 0 then m.scaleIn ha (ha.resolve si) (b.lo + k + x) else 0
          { m with it := { m.it with got := SMap.set m.it.got (k + x) (v, sc) } }) m

/-! #### Writing -/

/-- The record of a line that is about to be written, with the line's old value (R263, R333). -/
def Move.record (m : Move) (line : Nat) : Move :=
  match m.it.lines.find? (fun l => l.va == line && !l.done && !l.parts.isEmpty) with
  | none => m
  | some l =>
    let old := m.s.hbm.readBytes (paIn m.it.pages line) 128
    { m with s := m.s.writeTape l.parts (tapeRecord 3 line old), grans := l.parts.map (fun pa => ⟨.global, pa / 128⟩) ++ m.grans
             it := { m.it with lines := m.it.lines.map (fun x => if x.va = line then { x with done := true } else x) } }

/-- Write an element of a destination; the first byte written of a scratchpad block sets its tag (R198, R255). -/
def Move.put (m : Move) (c : Nat) (h : Handle) (j : List Nat) (x : Nat) : Move :=
  let (a, off) := h.elemAt j
  let (s1, it) := m.s.tagBlocks c h m.it [a.toNat, a.toNat + elemBytes off h.width - 1]
  { m with s := s1.writeElem c it.pages h j x, it := it, grans := h.elemGranules it.pages j ++ m.grans }

/-- The scale of a destination block: written to its page's byte, discarded in scratchpad (R142, R217). -/
def Move.scaleOut (m : Move) (h : Handle) (j : List Nat) (x : Nat) : Move :=
  match m.it.scalePa h (.at_ j) with
  | some pa => { m with s := { m.s with hbm := m.s.hbm.write pa (BitVec.ofNat 8 x) }, grans := ⟨.global, pa / 128⟩ :: m.grans }
  | none => m

/-- The add of a reverse-mode pair, one access: the source's cell gains what the destination's held when it was read (R263). -/
def Move.addPair (m : Move) (b : CopyBlk) (k : Nat) : Move :=
  match b.adds m.it k with
  | none => m
  | some ((_, ts), (sc, ss)) =>
    let v := Val.fin (fxExact ts (BitVec.ofNat 64 (SMap.get (0, 0) m.it.got k).1))
    let (r, f) := fxAdd ss (BitVec.ofNat 64 (m.s.hbm.readN sc 8)) v
    { m with s := m.s.hbmWriteN sc 8 r.toNat, it := { m.it with flags := m.it.flags ||| f }
             grans := ⟨.global, sc / 128⟩ :: m.grans, asks := sc :: m.asks }

/-- What the k-th element, read as a pattern, is written as, with the flags of its conversion (R256, R257). -/
def CopyBlk.value (b : CopyBlk) (i : Item) (h : Handle) (x : Nat) : Nat × Flags :=
  if b.j.quant then convertElem (handleOf i.ha).fmt h.fmt x i.rm i.sat else (x, 0)

/-- Write the k-th element (R255–R258, R260): a scale byte, or the converted element. -/
def Move.one (m : Move) (c : Nat) (b : CopyBlk) (k : Nat) : Move :=
  let x := (SMap.get (0, 0) m.it.got k).1
  match b.j.dst with
  | none =>
    let off := m.it.x.toNat % 2 ^ 15 + b.lo + k
    let q := m.s.core c
    { m with s := m.s.setCore c { q with scaleMem := q.scaleMem.write off (BitVec.ofNat 8 x) }, grans := ⟨.scale, off / 128⟩ :: m.grans }
  | some h =>
    let (y, f) := b.value m.it h x
    let m1 := { m with it := { m.it with flags := m.it.flags ||| f } }
    match b.dest k with
    | .at_ t => m1.put c h t y
    | _ => m1

/-- Write the MX block that the k-th element heads: its 32 elements and its scale, quantised or as read (R148, R257). A scale of 0xFF that is
copied as read raises no NV in the command's status: R256 copies patterns, and R142 and R146 speak of values read (DESIGN CHOICE, log entry
70). -/
def Move.mxBlock (m : Move) (c : Nat) (b : CopyBlk) (h : Handle) (k : Nat) : Move :=
  let got := (List.range 32).map (fun x => SMap.get (0, 0) m.it.got (k + x))
  let (sc, els, f) := if b.j.quant then
      let vs := got.map (fun g => readVal (handleOf m.it.ha).fmt g.1)
      let (sc, els, f) := quantBlock h.fmt m.it.rm (vs.map Prod.fst)
      (sc, els, vs.foldl (fun a v => a ||| v.2) f)
    else ((got.headD (0, 0)).2, got.map Prod.fst, 0)
  let m1 := { m with it := { m.it with flags := m.it.flags ||| f } }
  let m2 := (List.range 32).foldl (fun (m : Move) x => match b.dest (k + x) with
    | .at_ t => m.put c h t (els.getD x 0)
    | _ => m) m1
  match b.dest k with
  | .at_ t => m2.scaleOut h t sc
  | _ => m2

/-- The elements that are written with the k-th: it and those after it that lie in its access unit. -/
def CopyBlk.unit (b : CopyBlk) (i : Item) (k : Nat) : Nat :=
  1 + (((List.range (b.n - k - 1)).map (fun x => k + 1 + x)).takeWhile (fun x => b.destLine i x == b.destLine i k)).length
/-- The k-th element begins a unit. -/
def CopyBlk.heads (b : CopyBlk) (i : Item) (k : Nat) : Bool := k == 0 || b.destLine i (k - 1) != b.destLine i k
/-- The units of a block. -/
def CopyBlk.units (b : CopyBlk) (i : Item) : List Nat := (List.range b.n).filter (b.heads i)

/-- The unit that the k-th element heads may be written: it has been read, it has not been written, and so have the units before it
that lie in its access unit (R254). -/
def CopyBlk.mayUnit (b : CopyBlk) (i : Item) (k : Nat) : Bool :=
  decide (k < b.n) && b.heads i k && (List.range (b.unit i k)).all (fun x => i.has (k + x)) && !i.wrote.contains k
    && (b.units i).all (fun x => decide (k ≤ x) || i.wrote.contains x || b.destLine i x != b.destLine i k)

/-- Write a unit, or make the add of a pair, in one access. -/
def Move.unit (m : Move) (c : Nat) (b : CopyBlk) (k : Nat) : Move :=
  let n := b.unit m.it k
  let m1 := if (b.pairAt m.it k).isSome then m.addPair b k else match b.j.dst with
    | some h => if b.asBlock m.it k then (List.range (n / 32)).foldl (fun (m : Move) x => m.mxBlock c b h (k + 32 * x)) m
                else (List.range n).foldl (fun m x => m.one c b (k + x)) m
    | none => (List.range n).foldl (fun m x => m.one c b (k + x)) m
  { m1 with it := { m1.it with wrote := k :: m1.it.wrote } }

/-- The virtual addresses of the lines on D pages that a unit writes and whose records are still to be written (R263). -/
def CopyBlk.unrecorded (b : CopyBlk) (i : Item) (k : Nat) : List Nat :=
  match b.j.dst with
  | none => []
  | some h =>
    let vas := ((List.range (b.unit i k)).map (fun x => match h.span (b.dest (k + x)) with
      | some (a, n) => [a / 128 * 128, (a + n - 1) / 128 * 128]
      | none => [])).flatten
    if h.s then [] else (i.lines.filter (fun l => !l.done && !l.parts.isEmpty && vas.contains l.va)).map (fun l => l.va)

/-- The block ends once every unit of it is written: its buffers are empty for the next (R246). -/
def CopyBlk.close (b : CopyBlk) (i : Item) (last : Bool) : Item :=
  if decide (i.got.length = b.n) && (b.units i).all i.wrote.contains then
    { i with progress := i.progress + 1, rowIdx := [], got := [], wrote := [], finished := last }
  else i

/-- What a reverse-mode copy writes after its last block, one access each: zero to every destination cell and every destination line's
old value (R263). -/
def Item.undo (i : Item) : List (Nat × List Byte) :=
  (i.jobs.map (fun j => match j.dst with
    | none => []
    | some h => (List.range j.total).filterMap (fun n => match h.resolve (intIdx (unravel n j.counts)) with
        | .at_ t =>
          let va := (h.elemAt t).1.toNat
          (i.dPageAt h va).map (fun p => ((i.cellOf p va).1, List.replicate 8 (0 : Byte)))
        | _ => none))).flatten.eraseDups
    ++ i.lines.map (fun l => (paIn i.pages l.va, l.old))

/-- A step of a copy on D pages after its last block: in reverse mode the `k`-th cell or line still to be written, in forward mode the
record of the `k`-th line that nothing wrote (R255, R263). -/
def Move.last (m : Move) (k : Nat) : Move :=
  if m.it.rev then
    let undo := m.it.undo
    let left := (List.range undo.length).filter (fun n => !m.it.wrote.contains n)
    if left.isEmpty then { m with it := { m.it with wrote := [], finished := true } }
    else match left[k]?, left[k]?.bind (undo[·]?) with
      | some n, some (pa, bs) =>
        { m with s := m.s.hbmWriteBytes pa bs, it := { m.it with wrote := n :: m.it.wrote }, grans := [⟨.global, pa / 128⟩] }
      | _, _ => m
  else
    let left := m.it.lines.filter (fun l => !l.done && !l.parts.isEmpty)
    if left.isEmpty then { m with it := { m.it with finished := true } }
    else match left[k]? with
      | some l => { m.record l.va with asks := [paIn m.it.pages l.va] }
      | none => m

/-- The command's read of a line waits for the stores that its thread made before the push, their tape records included, and as every
request (R236, R238). The accesses of an instruction and the record that follows a store carry the number of the instruction's first. -/
def State.readHeld (s : State) (c : Nat) (i : Item) (pa : Nat) : Bool :=
  s.requestHeld c pa || (s.ctx c i.owner).accs.any (fun a =>
    !a.performed && a.isSt && decide (a.group < i.accMark) && a.places.any (fun b => b / 128 == pa / 128))

/-- A step of a command is carried out: it fails, or waits for earlier readers of what it writes and for its requests' turn, or takes
effect. That the reads of cells wait as those of the sources do is read from R238 (DEDUCED, log entry 61). -/
def Move.commit (m : Move) (s0 : State) (c : Nat) : State :=
  match m.fail with
  | some f => m.s.failItem c m.it f
  | none =>
    if m.grans.all (fun g => (s0.core c).mayWrite m.it g && !(g.space == .global && s0.requestHeld c (g.num * 128)))
        && !m.asks.any (s0.readHeld c m.it) then
      m.s.setItem c m.it
    else s0

/-- One access of a copy's block: with 0 the read from the element `k` on, with 1 the write of the unit that `k` heads. The records of
the D-page lines that the unit writes first, with the values that it overwrites, are written in the same action (R263, R333; log entry
62). -/
def State.copyStep (s : State) (c : Nat) (i : Item) (b : CopyBlk) (last : Bool) (what k : Nat) : State :=
  let m : Move := { s := s, it := i }
  if what = 0 then
    if i.got.length = b.n then s.setItem c (b.close i last)
    else if !b.mayRead i k || (b.readAt i k).any (s.readHeld c i) then s
    else (m.read c b k).commit s c
  else if !b.mayUnit i k then s
  else
    let m1 := ((b.unrecorded i k).foldl Move.record m).unit c b k
    ({ m1 with it := b.close m1.it last } : Move).commit s c

/-! ### Host transfers (R262, R378) -/

/-- Bytes that a stream or host transfer has moved: its blocks, and those of the current one (R246). -/
def Item.moved (i : Item) : Nat := 2048 * i.progress + i.within
/-- The position after some more bytes. -/
def Item.moveOn (i : Item) (len : Nat) : Item := { i with progress := (i.moved + len) / 2048, within := (i.moved + len) % 2048 }

/-- The entry of a transfer list, and the offset in it, at a position of the whole transfer. -/
def hostAt : List HostEntry → Nat → Option (HostEntry × Nat)
  | [], _ => none
  | e :: r, p => if p < e.len then some (e, p) else hostAt r (p - e.len)

/-- The next request of a transfer between host memory and the device, of 128 to 512 bytes as the link takes them, inside its entry and its
2 KiB block; the host may reject it, which the outside decides, and then the requests before it stay (R246, R262, R378). On a page with MX
block geometry it moves bytes as anywhere else: R262 gives no other rule, though R142 and R217 speak of whole blocks (DESIGN CHOICE, log
entry 75). -/
def Move.host (m : Move) (c : Nat) (e : HostEntry) (off : Nat) : Move :=
  let (d, s1) := m.s.draw
  let n := min (128 * (1 + Config.freeNat d % 4)) (min (e.len - off) (2048 - m.it.within))
  let pas := (List.range n).map (fun k => paIn m.it.pages (e.dev + off + k))
  let m1 := { m with s := s1 }
  if Config.freeBool d then { m1 with fail := some .engfault }
  else if !e.toDev && pas.any (m.s.readHeld c m.it) then m1
  else
    let end_ := (hostAt m.it.entries (m.it.moved + n)).isNone
    let it := if end_ then { m.it with progress := m.it.progress + 1, within := 0, finished := m.it.entries.all HostEntry.toDev }
              else m.it.moveOn n
    if e.toDev then
      { m1 with s := { s1 with hbm := (pas.zip (s1.hostMem.readBytes (e.bus + off) n)).foldl (fun h p => h.write p.1 p.2) s1.hbm }
                it := it, grans := (pas.map (fun p => Granule.mk .global (p / 128))).eraseDups }
    else { m1 with s := { s1 with hostMem := s1.hostMem.writeBytes (e.bus + off) (pas.map s1.hbm.read) }, it := it }

/-- The zero-length read that makes a transfer's writes to host memory visible, which the host may reject like any request; the writes then
stay (R378). -/
def Move.flushHost (m : Move) : Move :=
  let (d, s1) := m.s.draw
  if Config.freeBool d then { m with s := s1, fail := some .engfault } else { m with s := s1, it := { m.it with finished := true } }

/-- Of a copy: it stands inside a block, or between the steps that follow its last one (R246, R354). -/
def Item.midBlock (i : Item) : Bool := i.within != 0 || !i.rowIdx.isEmpty || !i.got.isEmpty || !i.wrote.isEmpty

/-- COPY_BLOCK: a running copy makes an access of its current block (R246): core, sequence number, in `unit` 0 for a read and 1 for a
write, in `size` the element that the access begins with, or which of the steps after the last block it makes. At a block boundary it stops for a pre-emption (R354). -/
def execCopyBlock (s : State) : Out :=
  let c := s.target.core
  match s.item c s.target.id with
  | none => .next s
  | some i =>
    if !i.running || i.finished || i.failing.isSome || s.away.contains c || s.yields c i.owner && !i.midBlock then .next s
    else match i.kind with
      | .copy 8 => .next s
      | .copy 9 =>
        match hostAt i.entries i.moved with
        | none => .next ((({ s := s, it := i } : Move).flushHost).commit s c)
        | some (e, off) => .next ((({ s := s, it := i } : Move).host c e off).commit s c)
      | .copy _ =>
        match blockOf i.jobs i.progress with
        | some (j, p) =>
          let last := (blockOf i.jobs (i.progress + 1)).isNone && i.lines.isEmpty && !i.rev
          .next (s.copyStep c i (j.blk p) last s.target.unit s.target.size)
        | none => .next ((({ s := s, it := i } : Move).last s.target.size).commit s c)
      | _ => .next s

/-! ### Stream units (R208, R246, R261) -/

/-- Byte n of the source of a `CPY.STRM`, row by row: its address. -/
def Handle.streamAt (h : Handle) (n : Nat) : Nat :=
  ((h.rows.getD (n / h.rowBytes) 0) % ((2 ^ 64 : Nat) : Int)).toNat + n % h.rowBytes

/-- Of `len` bytes from byte `lo` of a stream on, a command may read from the `k`-th on: it has not read it, and the byte begins what is left
of its access unit (R21, R232). -/
def Item.mayTake (i : Item) (unit : Nat → Nat) (lo len k : Nat) : Bool :=
  let n := lo + k
  let has (n : Nat) : Bool := i.carry.any (fun e => e.1 == n)
  decide (k < len) && !has n && (k == 0 || has (n - 1) || unit (n - 1) != unit n)

/-- The bytes that this read takes, by their places in the stream: those of one access unit. -/
def Item.takeRun (i : Item) (unit : Nat → Nat) (lo len k : Nat) : List Nat :=
  let n := lo + k
  n :: ((List.range (len - k - 1)).map (fun x => n + 1 + x)).takeWhile
    (fun x => unit x == unit n && !i.carry.any (fun e => e.1 == x))

/-- The access unit that byte n of the source of a `CPY.STRM` lies in. -/
def Item.strmUnit (i : Item) (n : Nat) : Nat := let h := handleOf i.ha; h.streamAt n / h.unitBytes

/-- The bytes of the next unit of a `CPY.STRM`: to the next multiple of 128 stream bytes, or to the end of the source (R208). -/
def Item.unitLen (i : Item) (x : Stream) : Nat :=
  let h := handleOf i.ha
  min (128 - x.arr % 128) (h.rows.length * h.rowBytes - i.moved)

/-- A `CPY.STRM` stands at a 2 KiB block boundary (R246, R354): no unit of R208 is cut, so a block ends with the unit that reaches its
end (DESIGN CHOICE, log entry 63). -/
def Item.strmAtBlock (i : Item) : Bool := i.within == 0 || (i.progress != 0 && decide (i.within < 128))

/-- The next unit waits for ring space (R208, R261). -/
def State.ringWait (s : State) (c : Nat) (i : Item) : Bool :=
  let x := s.stream c i.y.toNat
  match x.ring with
  | none => true
  | some r => decide (x.rel + r.size < x.arr + i.unitLen x)

/-- A `CPY.STRM` reads an access unit of its source, from byte `k` of its next unit on; a block whose tag differs fails it (R199, R261). -/
def State.strmRead (s : State) (c : Nat) (i : Item) (len k : Nat) : State :=
  let h := handleOf i.ha
  if !i.mayTake i.strmUnit i.moved len k then s
  else
    let as := (i.takeRun i.strmUnit i.moved len k).map (fun n => (n, h.streamAt n))
    if !h.s && as.any (fun a => s.readHeld c i (paIn i.pages a.2)) then s
    else if as.any (fun a => s.tagMismatch c h a.2 1) then s.failItem c i .swizzle
    else s.setItem c { i with carry := as.foldl (fun m a => SMap.set m a.1 (s.readByteH c i.pages h a.2)) i.carry }

/-- A `CPY.STRM` whose next unit has been read writes it, in one access, once the whole unit lies below REL + SIZE, and ARR moves on (R208). -/
def State.strmWrite (s : State) (c : Nat) (i : Item) (len : Nat) : State :=
  let h := handleOf i.ha
  let x := s.stream c i.y.toNat
  let k := s.core c
  match x.ring with
  | none => s
  | some r =>
    let a := r.base + x.arr % r.size
    let here := (List.range len).map (fun n => i.moved + n)
    if s.ringWait c i || !here.all (fun n => i.carry.any (fun e => e.1 == n)) || !k.mayWrite i ⟨.spad, a / 128⟩ then s
    else
      let s1 := s.setCore c { k with spad := k.spad.writeBytes a (here.map (SMap.get 0 i.carry)) }
      let s2 := s1.setStream c i.y.toNat { x with arr := x.arr + len }
      s2.setItem c { i.moveOn len with carry := i.carry.filter (fun e => !here.contains e.1)
                                       finished := i.moved + len == h.rows.length * h.rowBytes }

/-- STREAM_UNIT_WRITE: a running `CPY.STRM` makes an access of its next unit (R208, R246): core, sequence number, with `unit` 1 a read of its
source from byte `size` of the unit on, otherwise the write. -/
def execStreamUnitWrite (s : State) : Out :=
  let c := s.target.core
  match s.item c s.target.id with
  | none => .next s
  | some i =>
    if i.kind != .copy 8 || !i.running || i.finished || i.failing.isSome || s.away.contains c
      || s.yields c i.owner && i.strmAtBlock then .next s
    else
      let len := i.unitLen (s.stream c i.y.toNat)
      .next (if len = 0 then s.setItem c { i with finished := true }
             else if s.target.unit = 1 then s.strmRead c i len s.target.size
             else s.strmWrite c i len)

end Sys2Proof.Machine
end

