-- ==== Sys2Proof/Machine/Matrix.lean ====
section
/-! DEFINITION. The matrix engine: accumulator tiles (R264–R269), the nest table (R273–R275), nests and their steps
(R271, R276–R280), clearing and writing out (R281, R282), the lazy save of a tile (R284), the row and column moves of
the vector engine (R285–R287), and the start of commands (R132). -/

namespace Sys2Proof.Machine

/-! ### Tiles (R264–R266) -/

def Core.tile (k : Core) (n : Nat) : Tile := SMap.get {} k.tiles n
def Core.setTile (k : Core) (n : Nat) (t : Tile) : Core := { k with tiles := SMap.set k.tiles n t }
def State.tile (s : State) (c n : Nat) : Tile := (s.core c).tile n
def State.setTile (s : State) (c n : Nat) (t : Tile) : State := s.setCore c ((s.core c).setTile n t)

/-- Element (i, j). -/
def Tile.at_ (t : Tile) (i j : Nat) : WA640 := SMap.get 0 t.el (32 * i + j)

/-- The thread of a context holds the tile (R264). -/
def Tile.ownedBy (t : Tile) (x : Nat) : Bool := t.owner == .ctx x && !t.ending

/-- The tile is held by the thread and shaped (R265). -/
def Tile.usable (t : Tile) (x : Nat) : Bool := t.ownedBy x && t.rows != 0

/-- A command of a thread that reaches a tile is queued or running (R267, R269). -/
def Core.tileReached (k : Core) (x n : Nat) : Bool :=
  k.items.any (fun i => i.owner == x && (i.reads.contains ⟨.tile, n⟩ || i.writes.contains ⟨.tile, n⟩))

/-- The tile image of R284. -/
def tileImage (t : Tile) : List Byte :=
  [BitVec.ofNat 8 t.rows, BitVec.ofNat 8 t.cols] ++ List.replicate 14 0
    ++ ((List.range 1024).map (fun k => bytesOfNat 80 (SMap.get (0 : WA640) t.el k).toNat)).flatten

/-- The tile that an image holds (R284). -/
def tileOfImage (bs : List Byte) (owner : TileOwner) : Tile where
  owner := owner
  rows := (bs.getD 0 0).toNat
  cols := (bs.getD 1 0).toNat
  el := (List.range 1024).foldl (fun m k =>
    let v := natOfBytes ((bs.drop (16 + 80 * k)).take 80)
    if v = 0 then m else SMap.set m k (BitVec.ofNat 640 v)) []

/-- The size of a tile image, and the place of the slot of tile n in a save area (R284, R357). -/
def tileImageLen : Nat := 81936
def tileSlot (area n : Nat) : Nat := area + 0x39000 + n * 0x14080

/-- Write bytes at virtual addresses of translated pages. -/
def State.writeVa (s : State) (ps : List Page) (va : Nat) (bs : List Byte) : State :=
  { s with hbm := (bs.mapIdx (fun i b => (va + i, b))).foldl (fun m e => m.write (paIn ps e.1) e.2) s.hbm }
/-- Read bytes at virtual addresses of translated pages. -/
def State.readVa (s : State) (ps : List Page) (va n : Nat) : List Byte :=
  (List.range n).map (fun i => s.hbm.read (paIn ps (va + i)))

/-- spill(N, X): the tile's image goes to its slot of the save area, which the area's header records as spilled
(R266, R284, R357). -/
def State.spill (s : State) (c n area : Nat) : XlRange :=
  let slot := tileSlot area n
  match s.xlateRange c (slot + tileImageLen - 1) false true (fun _ => none) 4 slot with
  | .pages ps s1 =>
    match s1.xlateRange c (area + 23) true true (fun _ => none) 2 (area + 16) with
    | .pages qs s2 =>
      let s3 := s2.writeVa ps slot (tileImage (s2.tile c n))
      let mask := natOfBytes (s3.readVa qs (area + 18) 1)
      .pages [] (s3.writeVa qs (area + 18) [BitVec.ofNat 8 (mask ||| 2 ^ n)])
    | x => x
  | x => x

/-- `MX.ACQ` (R266). -/
def execMxAcq (d a : Reg) (s : State) : Out :=
  issue s 1 .any fun q s =>
    s.ready q [] [srcS d]
      (let c := q.core
       let x := s.ownerCtx q
       let n := a.toNat
       let t := s.tile c n
       let done (s : State) (v : DWord) : Res := .retire ((s.setS q d v).holdFor q 4)
       let taken (s : State) : State := s.setTile c n { owner := .ctx x }
       if t.ownedBy x then done s 0
       else match t.owner with
         | .free => done (taken s) 0
         | .ctx _ => done s 1
         | .area a => match s.spill c n a with
           | .pages _ s1 => done (taken s1) 2
           | .trap f v => .trap f v
           | .noMemory => .stop .noMemory)

/-- A tile is released (R267). -/
def State.releaseTile (s : State) (c n : Nat) : State := s.setTile c n {}

/-- A tile takes a shape, all elements zero (R268). -/
def State.shapeTile (s : State) (c n rows cols : Nat) : State :=
  s.setTile c n { s.tile c n with rows := rows, cols := cols, el := [] }

/-- `MX.REL` (R267): it waits for the thread's commands that reach the tile. -/
def execMxRel (d : Reg) (s : State) : Out :=
  issue s 1 .any fun q s =>
    let x := s.ownerCtx q
    let n := d.toNat
    if !(s.tile q.core n).ownedBy x then .trap .noacc (zx64 d)
    else if (s.core q.core).tileReached x n then .whole (s.holdOn q (.tileRel n))
    else .retire (s.releaseTile q.core n)

/-- `MX.SHAPE` (R268). -/
def execMxShape (d a b : Reg) (s : State) : Out :=
  issue s 1 .any fun q s =>
    s.ready q [srcS a, srcS b] []
      (let x := s.ownerCtx q
       let n := d.toNat
       let r := s.getS q a
       let c := s.getS q b
       let bad (v : DWord) : Bool := decide (v.toNat < 1) || decide (32 < v.toNat)
       if !(s.tile q.core n).ownedBy x then .trap .noacc (zx64 d)
       else if bad r then .trap .illegal r
       else if bad c then .trap .illegal c
       else if (s.core q.core).tileReached x n then .whole (s.holdOn q (.tileShape n r.toNat c.toNat))
       else .retire (s.shapeTile q.core n r.toNat c.toNat))

/-- TILE_AUTO_RELEASE: a tile whose owner has ended is released once the owner's commands have retired or failed (R267): core, tile. -/
def execTileAutoRelease (s : State) : Out :=
  let k := s.core s.target.core
  let t := k.tile s.target.unit
  .next (if t.ending && !k.items.any (fun i => t.after.contains i.seq) then s.releaseTile s.target.core s.target.unit else s)

/-! ### The nest table (R273–R275) -/

/-- A record of a table; at thread start a level counts 1 and the head is zero (R273). -/
def nestRec (m : SMap NestRec) (l : Nat) : NestRec :=
  SMap.get { w0 := if l < 6 then BitVec.ofNat 32 (0xD0000001 + l * 2 ^ 21) else 0xD0C00000 } m l

def NestRec.csel (r : NestRec) : Nat := r.w0.toNat / 2 ^ 18 % 8
def NestRec.count (r : NestRec) : Nat := r.w0.toNat % 2 ^ 18
def NestRec.am (r : NestRec) : Int := signedOf 16 (r.w1.toNat / 2 ^ 16)
def NestRec.ak (r : NestRec) : Int := signedOf 16 (r.w1.toNat % 2 ^ 16)
def NestRec.bn (r : NestRec) : Int := signedOf 16 (r.w2.toNat / 2 ^ 16)
def NestRec.bk (r : NestRec) : Int := signedOf 16 (r.w2.toNat % 2 ^ 16)
def NestRec.dt (r : NestRec) : Int := signedOf 4 (r.w3.toNat / 2 ^ 28)
def NestRec.dsb (r : NestRec) : Int := signedOf 10 (r.w3.toNat / 2 ^ 10 % 2 ^ 10)
def NestRec.dsa (r : NestRec) : Int := signedOf 10 (r.w3.toNat % 2 ^ 10)
/-- First scale columns of the head record (R275). -/
def NestRec.sca (r : NestRec) : Nat := r.w1.toNat % 2 ^ 10
def NestRec.scb (r : NestRec) : Nat := r.w1.toNat / 2 ^ 10 % 2 ^ 10

/-- `MX.SET` (R274, R275). -/
def execMxSet (e : BitVec 24) (w1 w2 w3 : Word) (s : State) : Out :=
  issue s 4 .any fun q s =>
    let t := s.thread q
    let r : NestRec := { w0 := 0xD0#8 ++ e, w1 := w1, w2 := w2, w3 := w3 }
    .retire (s.setThread q { t with nest := SMap.set t.nest (e.toNat / 2 ^ 21) r })

/-! ### Operand classes (R271) -/

/-- The operand classes. -/
inductive MxClass where
  | h | e | f | i | t
  deriving DecidableEq, Repr

/-- The class of a format. -/
def mxClass (fmt : Nat) : Option MxClass :=
  if fmt = 0x0A ∨ fmt = 0x0B then some .h
  else if (0x0C ≤ fmt ∧ fmt ≤ 0x0F) ∨ (0x18 ≤ fmt ∧ fmt ≤ 0x1B) then some .e
  else if fmt = 0x10 ∨ fmt = 0x1C then some .f
  else if fmt = 0 ∨ fmt = 1 ∨ fmt = 0x1D then some .i
  else if fmt = 0x11 then some .t
  else none

/-- Kc of a floating-point class. -/
def MxClass.kc : MxClass → Option Nat
  | .h => some 4 | .e => some 8 | .f => some 16
  | _ => none

/-- Kc of a pair of formats; none where the pair is not allowed. -/
def pairKc (fa fb : Nat) : Option Nat :=
  match mxClass fa, mxClass fb with
  | some .i, some .i => some 8
  | some .t, some .i => if fb = 0x1D then none else some 32
  | some x, some y => match x.kc, y.kc with
    | some m, some n => some (min m n)
    | _, _ => none
  | _, _ => none

/-! ### The nest (R276, R277) -/

/-- A nest as the engine runs it: the records of levels 0 to 5, their counts, the head, the first tile, the handles and
the depth of a step. -/
structure Nest where
  lv     : List NestRec
  counts : List Nat
  head   : NestRec
  t0     : Nat
  ha     : Handle
  hb     : Handle
  kc     : Nat
  deriving DecidableEq, Repr

/-- The count of a level (R274). -/
def levelCount (r : NestRec) (ha hb : Handle) : Nat :=
  let up (x : Nat) : Nat := (x + r.count - 1) / r.count
  match r.csel with
  | 1 => up (ha.extent 0) | 2 => up (ha.extent 1) | 3 => up (hb.extent 0) | 4 => up (hb.extent 1)
  | _ => r.count

/-- The nest of a table, a first tile and two handles. -/
def nestOf (m : SMap NestRec) (t0 : Nat) (ha hb : Handle) : Nest :=
  let lv := (List.range 6).map (nestRec m)
  { lv := lv, counts := lv.map (fun r => levelCount r ha hb), head := nestRec m 6, t0 := t0, ha := ha, hb := hb
    kc := (pairKc ha.fmt hb.fmt).getD 0 }

/-- Number of steps. -/
def Nest.total (n : Nest) : Nat := n.counts.foldl (· * ·) 1

/-- Values modulo m that a base and steps over the counts reach. -/
def reachMod (m : Nat) (base : Int) (steps : List (Int × Nat)) : List Nat :=
  steps.foldl (fun xs e => ((xs.map (fun x => (List.range (min e.2 m)).map (fun (i : Nat) =>
    ((((x : Nat) : Int) + (i : Int) * e.1) % (m : Int)).toNat))).flatten).eraseDups) [(base % (m : Int)).toNat]

/-- The tiles that a nest reaches (R276). -/
def Nest.tiles (n : Nest) : List Nat :=
  if n.total = 0 then [n.t0] else reachMod 8 n.t0 ((n.lv.map NestRec.dt).zip n.counts)

/-- The scale columns that a nest reads of A, of B (R269, R277). -/
def Nest.colsA (n : Nest) : List Nat :=
  if n.total = 0 || !n.ha.isMx then [] else reachMod 1024 n.head.sca ((n.lv.map NestRec.dsa).zip n.counts)
def Nest.colsB (n : Nest) : List Nat :=
  if n.total = 0 || !n.hb.isMx then [] else reachMod 1024 n.head.scb ((n.lv.map NestRec.dsb).zip n.counts)

/-- The least and the greatest value of a sum of steps over the counts. -/
def stepRange (steps : List (Int × Nat)) : Int × Int :=
  steps.foldl (fun r e => (r.1 + min 0 (((e.2 : Int) - 1) * e.1), r.2 + max 0 (((e.2 : Int) - 1) * e.1))) (0, 0)

/-- For each tile that a nest reaches, the least and the greatest value that a sum of index steps takes on it. -/
def tileRanges (t0 : Nat) (levels : List (Int × Int × Nat)) : List (Nat × Int × Int) :=
  levels.foldl (fun xs e =>
    let all := (xs.map (fun x => (List.range (min e.2.2 8)).map (fun (i : Nat) =>
      let last : Nat := i + (e.2.2 - 1 - i) / 8 * 8
      let p := (i : Int) * e.2.1
      let r := (last : Int) * e.2.1
      (((((x.1 : Nat) : Int) + (i : Int) * e.1) % 8).toNat, x.2.1 + min p r, x.2.2 + max p r)))).flatten
    ((all.map Prod.fst).eraseDups).map (fun t =>
      let ys := all.filter (fun y => y.1 == t)
      (t, ys.foldl (fun m y => min m y.2.1) (ys.headD (0, 0, 0)).2.1, ys.foldl (fun m y => max m y.2.2) (ys.headD (0, 0, 0)).2.2)))
    [(t0, 0, 0)]

/-- A range of indices passes an extent. -/
def passes (lo hi : Int) (ex : Nat) : Bool := decide (lo < 0) || decide ((ex : Int) ≤ hi)

/-- A handle with OOB = 01 is indexed beyond an extent by a nest (R276 check 4): A, B. -/
def Nest.foot (n : Nest) (k : Core) : Bool × Bool :=
  if n.total = 0 then (false, false)
  else
    let zip3 (f : NestRec → Int) : List (Int × Int × Nat) := n.lv.zip n.counts |>.map (fun e => (e.1.dt, f e.1, e.2))
    let kr (f : NestRec → Int) : Int × Int :=
      let r := stepRange ((n.lv.map f).zip n.counts)
      (r.1, r.2 + n.kc - 1)
    let out (f : NestRec → Int) (len : Tile → Nat) (ex : Nat) : Bool :=
      (tileRanges n.t0 (zip3 f)).any (fun r => passes r.2.1 (r.2.2 + len (k.tile r.1) - 1) ex)
    let ka := kr NestRec.ak
    let kb := kr NestRec.bk
    (n.ha.oob == 1 && (passes ka.1 ka.2 (n.ha.extent 0) || out NestRec.am Tile.rows (n.ha.extent 1)),
     n.hb.oob == 1 && (passes kb.1 kb.2 (n.hb.extent 1) || out NestRec.bn Tile.cols (n.hb.extent 0)))

/-- The granules of scale columns (R270). -/
def columnGranules (cs : List Nat) : List Granule := (cs.map (fun c => Granule.mk .scale (c / 4))).eraseDups

/-- `MX.GO` (R276). -/
def execMxGo (d a b fn : Reg) (s : State) : Out :=
  issue s 1 .any fun q s =>
    s.ready q [srcH a, srcH b] [srcS fn]
      (if s.pushStalls q 0 then .stall
       else
         let k := s.core q.core
         let x := s.ownerCtx q
         let ha := handleOf (s.getH q a)
         let hb := handleOf (s.getH q b)
         match firstBadHandle [(a, ha), (b, hb)] with
         | some r => .trap .illegal (zx64 r)
         | none =>
           let flat (h : Handle) : Bool := h.s && h.extent 2 == 1 && h.extent 3 == 1
           match pairKc ha.fmt hb.fmt with
           | none => .trap .illegal (s.pcOf q)
           | some kc =>
             let n := nestOf (s.thread q).nest d.toNat ha hb
             let whole (h : Handle) (f : NestRec → Int) : Bool := !h.isMx || n.lv.all (fun r => f r % (kc : Int) == 0)
             if !(flat ha && flat hb && whole ha NestRec.ak && whole hb NestRec.bk) then .trap .illegal (s.pcOf q)
             else match (List.range 8).find? (fun t => n.tiles.contains t && !(k.tile t).usable x) with
               | some t => .trap .noacc (BitVec.ofNat 64 t)
               | none =>
                 let (fa, fb) := n.foot k
                 if fa || fb then .trap .foot (if fa then zx64 a else zx64 b)
                 else
                   let ts := n.tiles.map (fun t => Granule.mk .tile t)
                   let item : Item := { seq := 0, queue := 0, prio := 0, owner := 0, kind := .mxGo d.toNat
                                        words := [packA 0xD1 d a b fn], ha := s.getH q a, hb := s.getH q b
                                        nest := (List.range 7).map (fun l => (l, nestRec (s.thread q).nest l))
                                        reads := ts ++ (ha.spadGranules ++ hb.spadGranules).eraseDups
                                          ++ (columnGranules (n.colsA ++ n.colsB))
                                        writes := ts, accMark := k.nextAcc }
                   let (s1, m) := s.push q item
                   .retire ((s1.setS q fn (BitVec.ofNat 64 m)).holdFor q 2))

/-- `MX.ZERO` (R281). -/
def execMxZero (d fn : Reg) (s : State) : Out :=
  issue s 1 .any fun q s =>
    s.ready q [] [srcS fn]
      (if s.pushStalls q 0 then .stall
       else if !(s.tile q.core d.toNat).usable (s.ownerCtx q) then .trap .noacc (zx64 d)
       else
         let (s1, m) := s.push q { seq := 0, queue := 0, prio := 0, owner := 0, kind := .mxZero d.toNat
                                   words := [packA 0xD5 d 0 0 fn], writes := [⟨.tile, d.toNat⟩] }
         .retire (s1.setS q fn (BitVec.ofNat 64 m)))

/-- The formats that `MX.OUT` writes (R282). -/
def mxOutFmt (f : Nat) : Bool := f == 0x09 || f == 0x0A || f == 0x0B || f == 0x0C || f == 0x0D

/-- `MX.OUT` (R282). -/
def execMxOut (d a b fn : Reg) (lw : LW) (s : State) : Out :=
  issue s 2 .any fun q s => guarded lw q s
    (s.ready q [srcH a lw.ta] [srcS lw.x]
      (if s.pushStalls q 0 then .stall
       else
         let h := handleOf (s.getH q a)
         let t := s.tile q.core d.toNat
         if !h.ok then .trap .illegal (zx64 a)
         else if !(mxOutFmt h.fmt && h.extent 2 == 1 && h.extent 3 == 1 && (!h.s || h.swz == 0)) then .trap .illegal (s.pcOf q)
         else if !t.usable (s.ownerCtx q) then .trap .noacc (zx64 d)
         else if h.oob = 1 ∧ (h.extent 1 < t.rows ∨ h.extent 0 < t.cols) then .trap .foot (zx64 a)
         else
           let rs := h.ranges false true
           s.withFoot q rs fun ps s =>
             match lowestOnD ps rs with
             | some va => .trap .dwrite (BitVec.ofNat 64 va)
             | none =>
               let item : Item := { seq := 0, queue := 0, prio := 0, owner := 0, kind := .mxOut d.toNat
                                    words := [packA 0xD6 d a b fn, lw.toWord], ha := s.getH q a, rm := s.rm q lw.rm
                                    pages := ps, foot := rs, reads := [⟨.tile, d.toNat⟩]
                                    writes := rngGranules ps rs ++ h.spadGranules }
               let s1 := s.pin q.core ps
               let (s2, m) := s1.push q { item with accMark := (s1.core q.core).nextAcc }
               .retire (s2.setS q lw.x (BitVec.ofNat 64 m))))

/-! ### A step of a nest (R277, R278) -/

/-- The indices of a step, its tile, its scale columns. -/
structure NestStep where
  kA : Int
  mA : Int
  kB : Int
  nB : Int
  t  : Nat
  sA : Nat
  sB : Nat
  deriving DecidableEq, Repr

/-- Step p of a nest, i0 fastest (R277). -/
def Nest.step (n : Nest) (p : Nat) : NestStep :=
  let ix := unravel p n.counts
  let sum (f : NestRec → Int) : Int := (n.lv.zip ix).foldl (fun a e => a + (e.2 : Int) * f e.1) 0
  { kA := sum NestRec.ak, mA := sum NestRec.am, kB := sum NestRec.bk, nB := sum NestRec.bn
    t := ((n.t0 + sum NestRec.dt) % 8).toNat
    sA := ((n.head.sca + sum NestRec.dsa) % 1024).toNat, sB := ((n.head.scb + sum NestRec.dsb) % 1024).toNat }

/-- The index tuples that a step reads of A and of B. -/
def Nest.aIdx (n : Nest) (z : NestStep) (rows : Nat) : List (List Int) :=
  ((List.range rows).map (fun (i : Nat) => (List.range n.kc).map (fun (q : Nat) => [z.kA + q, z.mA + i, 0, 0]))).flatten
def Nest.bIdx (n : Nest) (z : NestStep) (cols : Nat) : List (List Int) :=
  ((List.range cols).map (fun (j : Nat) => (List.range n.kc).map (fun (q : Nat) => [z.nB + j, z.kB + q, 0, 0]))).flatten

/-- The granules of A, B and scale memory that a step reads. -/
def Nest.stepReads (n : Nest) (k : Core) (z : NestStep) : List Granule :=
  let t := k.tile z.t
  let of (h : Handle) (is : List (List Int)) : List Granule := (is.map (fun i => match h.resolve i with
    | .at_ j => h.elemGranules [] j
    | _ => [])).flatten
  (of n.ha (n.aIdx z t.rows) ++ of n.hb (n.bIdx z t.cols)
    ++ columnGranules ((if n.ha.isMx then [z.sA] else []) ++ (if n.hb.isMx then [z.sB] else []))).eraseDups

/-- The 2 KiB blocks that elements of a handle lie in. -/
def Handle.blocksOf (h : Handle) (is : List (List Int)) : List Nat :=
  ((is.map (fun i => match h.resolve i with
    | .at_ j =>
      let (a, off) := h.elemAt j
      [a.toNat / 2048, (a.toNat + elemBytes off h.width - 1) / 2048]
    | _ => [])).flatten).eraseDups

/-- operand(H, i0, i1) with the scale of its row or column, and the flags of the reading (R277, R278). -/
def State.operand (s : State) (c : Nat) (h : Handle) (i : List Int) (col row : Nat) : Val × Flags :=
  let x := match h.resolve i with
    | .at_ j => let (a, off) := h.elemAt j; s.readNH c [] h a.toNat (elemBytes off h.width) / 2 ^ off % 2 ^ h.width
    | _ => fillElem h.fmt h.fill
  if h.isMx then (mxVal h.fmt ((s.core c).scaleMem.read (32 * col + row)).toNat x, 0) else readVal h.fmt x

/-- A product added to an element; a NaN or an infinity contributes nothing and raises NV (R150, R277). -/
def mulAcc (acc : WA640 × Flags) (x y : Val × Flags) : WA640 × Flags :=
  let f := acc.2 ||| x.2 ||| y.2
  match x.1, y.1 with
  | .fin u, .fin v => (acc.1 + waOfExact (Exact.mul u v), f)
  | _, _ => (acc.1, f ||| Flags.nv)

/-- The new tile of a step and its flags (R277). -/
def State.nestStep (s : State) (c : Nat) (n : Nest) (z : NestStep) : Tile × Flags :=
  let t := s.tile c z.t
  let ks := List.range n.kc
  let as := (List.range t.rows).map (fun (i : Nat) =>
    ks.map (fun (q : Nat) => s.operand c n.ha [z.kA + q, z.mA + i, 0, 0] z.sA i))
  let bs := (List.range t.cols).map (fun (j : Nat) =>
    ks.map (fun (q : Nat) => s.operand c n.hb [z.nB + j, z.kB + q, 0, 0] z.sB j))
  let cells := (as.mapIdx (fun i xs => bs.mapIdx (fun j ys =>
    (32 * i + j, (xs.zip ys).foldl (fun a e => mulAcc a e.1 e.2) (t.at_ i j, 0))))).flatten
  ({ t with el := cells.foldl (fun m e => SMap.set m e.1 e.2.1) t.el }, cells.foldl (fun f e => f ||| e.2.2) 0)

/-- The nest of an item. -/
def Item.asNest (i : Item) : Option Nest :=
  match i.kind with
  | .mxGo t0 => some (nestOf i.nest t0 (handleOf i.ha) (handleOf i.hb))
  | _ => none

/-- Zero every element in a tile's shape (R281). -/
def Tile.zero (t : Tile) : Tile :=
  { t with el := t.el.filter (fun e => !(decide (e.1 / 32 < t.rows) && decide (e.1 % 32 < t.cols))) }

/-- A running `MX.ZERO` takes effect once no earlier reader of the tile holds it; a nest of no steps is done. -/
def State.atStart (s : State) (c : Nat) (i : Item) : State :=
  match i.kind with
  | .mxZero n =>
    if (s.core c).mayWrite i ⟨.tile, n⟩ then (s.setTile c n (s.tile c n).zero).setItem c { i with finished := true } else s
  | .mxGo _ => match i.asNest with
    | some n => if n.total ≤ i.progress then s.setItem c { i with finished := true } else s
    | none => s
  | _ => s

/-- MATRIX_STEP: a running nest performs its next step; it fails where it first reads a block under another swizzle
(R278), and marks the granules that no later step reads as consumed (R280): core, sequence number. -/
def execMatrixStep (s : State) : Out :=
  let c := s.target.core
  match s.item c s.target.id with
  | none => .next s
  | some i =>
    if !i.running || i.finished || i.failing.isSome || s.away.contains c then .next s
    else match i.asNest with
      | none => .next (s.atStart c i)
      | some n =>
        if n.total ≤ i.progress then .next (s.atStart c i)
        else if s.yields c i.owner then .next s
        else
          let k := s.core c
          let z := n.step i.progress
          let t := k.tile z.t
          let ba := (n.ha.blocksOf (n.aIdx z t.rows)).filter (fun b => !i.seen.contains (2 * b))
          let bb := (n.hb.blocksOf (n.bIdx z t.cols)).filter (fun b => !i.seen.contains (2 * b + 1))
          if ba.any (fun b => k.tagOf b != n.ha.swz) || bb.any (fun b => k.tagOf b != n.hb.swz) then
            .next (s.failItem c i .swizzle)
          else if !k.mayWrite i ⟨.tile, z.t⟩ then .next s
          else
            let (t', f) := s.nestStep c n z
            let later := (List.range (n.total - i.progress - 1)).map (fun p => n.stepReads k (n.step (i.progress + 1 + p)))
            let gone := (n.stepReads k z).filter (fun g => !later.any (fun l => l.contains g))
            let p := i.progress + 1
            .next ((s.setTile c z.t t').setItem c { i with
              progress := p, flags := i.flags ||| f, finished := p == n.total, consumed := i.consumed ++ gone
              seen := i.seen ++ ba.map (2 * ·) ++ bb.map (2 * · + 1) })

/-! ### Writing out (R282) -/

/-- Write the bytes of an element without touching the block tags (R198, R282). -/
def State.putPlain (s : State) (c : Nat) (pages : List Page) (h : Handle) (j : List Nat) (x : Nat) : State :=
  let a := (h.elemAt j).1.toNat
  let n := h.width / 8
  if h.s then
    let k := s.core c
    s.setCore c { k with spad := k.spad.writeN a n x }
  else { s with hbm := (List.range n).foldl (fun m b => m.write (paIn pages (a + b)) (BitVec.ofNat 8 (x / 2 ^ (8 * b)))) s.hbm }

/-- Where element (r, j) of a tile goes (R282). -/
def outDest (h : Handle) (r j : Nat) : Resolved := h.resolve [(j : Int), (r : Int), 0, 0]
/-- The access unit that it is written in: a line, or a bank word of the scratchpad (R21, R232). -/
def outLine (h : Handle) (r j : Nat) : Option Nat := (h.span (outDest h r j)).map (fun e => e.1 / h.unitBytes)
/-- The access units of a row's elements, by column (R232). -/
def outUnits (h : Handle) (r cols : Nat) : List (Option Nat) := (List.range cols).map (outLine h r)

/-- MX_OUT_ROW: a running `MX.OUT` rounds and writes the elements of its row that lie in one unit; the units of a row are written in any
order (R255, R282): core, sequence number, in `size` the column that the unit begins with. -/
def execMxOutRow (s : State) : Out :=
  let c := s.target.core
  match s.item c s.target.id with
  | none => .next s
  | some i =>
    match i.kind with
    | .mxOut n =>
      if !i.running || i.finished || i.failing.isSome || s.away.contains c || s.yields c i.owner && i.wrote.isEmpty then .next s
      else
        let t := s.tile c n
        let h := handleOf i.ha
        let r := i.progress
        if t.rows ≤ r then .next (s.setItem c { i with finished := true })
        else
          let j := s.target.size
          let units := outUnits h r t.cols
          let els := (List.range (unitRun units j)).map (fun x => (outDest h r (j + x), waRound (FpFmt.get h.fmt) i.rm (t.at_ r (j + x))))
          let targets := els.filterMap (fun e => match e.1 with
            | .at_ x => some (x, e.2.1)
            | _ => none)
          let gs := (targets.map (fun e => h.elemGranules i.pages e.1)).flatten.eraseDups
          if !mayHead units i.wrote j
            || !gs.all (fun g => (s.core c).mayWrite i g && !(g.space == .global && s.requestHeld c (g.num * 128))) then .next s
          else
            let s1 := targets.foldl (fun s e => s.putPlain c i.pages h e.1 e.2) s
            let i1 := { i with wrote := j :: i.wrote, flags := els.foldl (fun f e => f ||| e.2.2) i.flags }
            .next (s1.setItem c (if (unitHeads units).all i1.wrote.contains then
              { i1 with progress := r + 1, wrote := [], finished := r + 1 == t.rows } else i1))
    | _ => .next s

/-! ### Row and column moves (R285–R287) -/

/-- A tile as a program sees it: its own moves still in flight have taken effect (R159, R287). -/
def State.tileSeen (s : State) (q : Seqr) (n : Nat) : Tile :=
  let t := s.tile q.core n
  match q with
  | .vec c k => (s.slot c k).results.foldl (fun t r => match r.cells with
    | some (m, cs) => if m = n then { t with el := cs.foldl (fun e x => SMap.set e x.1 x.2) t.el } else t
    | none => t) t
  | _ => t

/-- A move of row or column x of a tile: the ownership and range checks, then the keys of its cells (R265, R286). -/
def tileMove (a b : Reg) (row : Bool) (q : Seqr) (s : State) (body : Tile → List Nat → Res) : Res :=
  let t := s.tileSeen q a.toNat
  let x := s.getS q b
  if !t.usable (s.ownerCtx q) then .trap .noacc (zx64 a)
  else if row then
    if t.rows ≤ x.toNat then .trap .illegal x else body t ((List.range t.cols).map (fun e => 32 * x.toNat + e))
  else
    if t.cols ≤ x.toNat then .trap .illegal x else body t ((List.range t.rows).map (fun e => 32 * e + x.toNat))

/-- `ARD.ROW` and `ARD.COL` (R285, R286). -/
def ardMove (d a b fn : Reg) (lw : LW) (row : Bool) (s : State) : Out :=
  let w := Fmt.vwidth fn
  vecIssue s lw [srcS b lw.tb] [srcV d] 2 fun q s =>
    tileMove a b row q s fun t keys =>
      let f (i : Nat) : Nat × Flags :=
        match keys[i]? with
        | some e => waRound (FpFmt.get fn.toNat) (s.rm q lw.rm) (SMap.get 0 t.el e)
        | none => (velem (s.getV q d) w i, 0)
      let (v, fl) := laneResults lw (s.getV q lw.greg) (s.getV q d) w f
      vecCommit q s true d.toNat v fl 6

/-- `AWR.ROW` and `AWR.COL` (R285, R286). -/
def awrMove (d a b fn : Reg) (lw : LW) (row : Bool) (s : State) : Out :=
  let w := Fmt.vwidth fn
  vecIssue s lw [srcV d, srcS b lw.tb] [] 2 fun q s =>
    tileMove a b row q s fun _ keys =>
      let on := (keys.mapIdx (fun i e => (i, e))).filter (fun e => laneOn lw (s.getV q lw.greg) w e.1)
      let cs := on.map (fun e => (e.2, waOfVal (readVal fn.toNat (velem (s.getV q d) w e.1)).1))
      let fl := cs.foldl (fun f c => f ||| c.2.2) (0 : Flags)
      let p := s.prog q
      let en := fl.enabled (s.thread q).fte
      let s1 := s.orFsr q fl
      if en ≠ 0 then .trapAt s1 .fpx (zx64 en) p.pc p.pend
      else .retire (s1.addResult q ⟨false, 64, 0, s.now + 6, false, fl, 0, p.pc, p.pend,
        some (a.toNat, cs.map (fun c => (c.1, c.2.1)))⟩)

def execArdRow (d a b fn : Reg) (lw : LW) (s : State) : Out := ardMove d a b fn lw true s
def execArdCol (d a b fn : Reg) (lw : LW) (s : State) : Out := ardMove d a b fn lw false s
def execAwrRow (d a b fn : Reg) (lw : LW) (s : State) : Out := awrMove d a b fn lw true s
def execAwrCol (d a b fn : Reg) (lw : LW) (s : State) : Out := awrMove d a b fn lw false s

end Sys2Proof.Machine
end

