-- ==== Sys2Proof/Machine/Landing.lean ====
section
/-! DEFINITION. Landings and their places (R306, R369), packets on their way (R307–R309), the element operations of the
landing's ALU (R314, R315) and the actions of match entries (R311–R319). -/

namespace Sys2Proof.Machine

/-! ### Places (R306, R369) -/

/-- The id of the landing at (x, y). -/
def landAt (x y : Nat) : Nat := y * 32 + x
def landX (l : Nat) : Nat := l % 32
def landY (l : Nat) : Nat := l / 32

/-- The landing of a physical core (R17, R306). -/
def coreLand (pc : Nat) : Nat :=
  let h := pc / 72
  landAt (1 + 8 * (h % 2) + pc % 8) (1 + 9 * (h / 2) + pc / 8 % 9)

/-- The landing of a slice (R369). -/
def sliceLand (n : Nat) : Nat :=
  let h := n / 16
  let j := n % 8
  if n % 16 < 8 then landAt (1 + 8 * (h % 2) + j) (if h < 2 then 0 else 19)
  else landAt (if h % 2 = 0 then 0 else 17) (if h < 2 then 1 + j else 11 + j)

/-- Port landing h (R369). -/
def portLand (h : Nat) : Nat := landAt (if h % 2 = 0 then 0 else 17) (if h < 2 then 9 else 10)

/-- The port landing number of a landing. -/
def portLandOf (l : Nat) : Option Nat := (List.range 4).find? (fun h => portLand h == l)

/-- The landing of a logical core. -/
def State.landOf (s : State) (c : Nat) : Nat := coreLand (s.pcore c)

/-- The physical landing of a logical landing: class and number (R320). -/
def State.landing (s : State) (v : Nat) : Option Nat :=
  let n := v % 2 ^ 10
  match v / 2 ^ 10 % 4 with
  | 0 => if n < 256 then some (s.landOf n) else none
  | 1 => if n < 64 then some (sliceLand n) else none
  | 2 => if n < 4 then some (portLand n) else none
  | _ => none

/-- The neighbour on port 0–3 of a landing: north, east, south, west. -/
def neighbour (l q : Nat) : Option Nat :=
  let x := landX l
  let y := landY l
  match q with
  | 0 => if y = 0 then none else some (landAt x (y - 1))
  | 1 => if x = 17 then none else some (landAt (x + 1) y)
  | 2 => if y = 19 then none else some (landAt x (y + 1))
  | 3 => if x = 0 then none else some (landAt (x - 1) y)
  | _ => none

/-- The landing has an output port (R306). -/
def hasPort (l : Nat) (isCore : Bool) (q : Nat) : Bool :=
  if q < 4 then (neighbour l q).isSome
  else if isCore then q == 4 else (portLandOf l).isSome

/-! ### Packets (R307, R308) -/

/-- The virtual channel of a packet on the mesh (R307). -/
def PktKind.vc : PktKind → Nat
  | .data => 2 | .request => 2 | .payload => 2
  | .credit => 3 | .go => 3 | .nack => 3 | .removal => 3

/-- Inject a packet: it takes the next number; its source and its destination are on this device (R309). -/
def State.inject (s : State) (p : Pkt) : State :=
  { s with packets := s.packets ++ [{ p with id := s.nextPkt, sdev := s.board.devId, ddev := s.board.devId }], nextPkt := s.nextPkt + 1 }

/-- A packet of one virtual channel may arrive only after those injected before it from its source landing to its
destination (R308). -/
def State.arrival (s : State) (id : Nat) : Option Pkt :=
  match s.packets.find? (fun p => p.id == id) with
  | none => none
  | some p =>
    if (s.packets.takeWhile (fun r => r.id != id)).any (fun r => r.kind.vc == p.kind.vc && r.src == p.src && r.dst == p.dst)
    then none else some p

/-- Take a packet off the mesh. -/
def State.takePkt (s : State) (id : Nat) : State := { s with packets := s.packets.filter (fun p => p.id != id) }

/-- A port. -/
def State.port (s : State) (p : Nat) : Port := SMap.get {} s.ports p
def State.setPort (s : State) (p : Nat) (x : Port) : State := { s with ports := SMap.set s.ports p x }
/-- The trained device id of a port's peer (R387). -/
def Port.peerDev (x : Port) : Nat := x.peer.toNat / 2 ^ 20 % 2 ^ 12

/-- Flits of a packet: its header and its payload (R309). -/
def Pkt.flits (p : Pkt) : Nat := 1 + (p.data.length + 127) / 128

/-- The landing of the peer's end of a port: that of the port which the peer named in training (R309, R387). -/
def Port.peerLand (x : Port) : Nat := portLand (x.peer.toNat / 2 ^ 16 % 2 ^ 4 / 4)

/-- Hand a packet to a port's link: it goes from this end's landing to the peer's (R309), its flits take the next sequence numbers, and
the sender keeps the latest 256 for replay; a failed replay of one that it keeps no more is past (R388). -/
def State.sendPort (s : State) (p : Nat) (k : Pkt) : State :=
  let x := s.port p
  let k1 : Pkt := { k with id := s.nextPkt, src := portLand (p / 4), dst := x.peerLand, sdev := s.board.devId, ddev := x.peerDev }
  let all_ := x.store ++ (List.range k1.flits).map (fun i => ((x.txSeq + i) % 2 ^ 12, k1))
  let kept := all_.drop (all_.length - 256)
  s.setPort p { x with out := x.out ++ [k1], txSeq := (x.txSeq + k1.flits) % 2 ^ 12, store := kept
                       txFail := if kept.any (fun e => e.1 == x.txFail.1) then x.txFail else (0, 0) }

/-- Flits come by a port: they are accepted in sequence only, and discarded otherwise until the sender replays from the one that failed
(R388). -/
def State.acceptFlits (s : State) (p seq n : Nat) : Option State :=
  let x := s.port p
  if x.up && seq == x.rxSeq then some (s.setPort p { x with rxSeq := (x.rxSeq + n) % 2 ^ 12, rxFail := (0, 0) }) else none

/-! ### Element operations (R314, R315) -/

/-- Element size of an entry's action and op in bytes (R310, R314). -/
def flowElem (action op : Nat) : Nat :=
  if action = 2 ∨ action = 4 then (match op with | 1 => 2 | 4 => 1 | 5 => 8 | _ => 4)
  else if action = 5 then 2 ^ (op % 4)
  else 1

/-- e^x of an exact difference, rounded to FP32 (R315): a multiple of 2^-149. -/
def expOf (rm : Rm) (x : Exact) : Nat × Flags :=
  let f := FpFmt.fp32
  if x.isZero then f.round rm ⟨false, 1, 0, false⟩
  else orOpen f rm 3 (2 * (x.n * 2 ^ (x.e + 149).toNat) + (if x.neg then 1 else 0)) (expRound f rm x)

/-- s1 × e1 + s2 × e2 with one rounding (R315, R140, R170). -/
def smxSum (rm : Rm) (s1 e1 s2 e2 : Val) : Nat × Flags :=
  let f := FpFmt.fp32
  match mulVal s1 e1, mulVal s2 e2 with
  | some x, some y => if x.isNan || y.isNan then (f.nanBits, 0) else fpAdd f rm x y
  | _, _ => (f.nanBits, Flags.nv)

/-- SMX on the pairs of patterns (R315). -/
def smx (rm : Rm) (m1 s1 m2 s2 : Nat) : (Nat × Nat) × Flags :=
  let f := FpFmt.fp32
  let vs := [m1, s1, m2, s2].map f.decode
  if vs.any Val.isNan then ((f.nanBits, f.nanBits), vs.foldl (fun a v => a ||| v.snanFlag) 0)
  else
    let m := (fpMinMax f true m1 m2).1
    match f.decode m with
    | .inf true => let (r, fl) := fpAdd f rm (f.decode s1) (f.decode s2); ((m, r), fl)
    | .inf false =>
      let z : Val := .fin (Exact.zero false)
      let pick (mi si : Nat) : Val := if f.decode mi = .inf false then f.decode si else z
      let (r, fl) := fpAdd f rm (pick m1 s1) (pick m2 s2)
      ((m, r), fl)
    | .fin mx =>
      let e (mi : Nat) : Nat × Flags :=
        match f.decode mi with
        | .fin a => expOf rm (Exact.add a { mx with neg := !mx.neg } false)
        | _ => (0, 0)
      let (e1, f1) := e m1
      let (e2, f2) := e m2
      let (r, fl) := smxSum rm (f.decode s1) (f.decode e1) (f.decode s2) (f.decode e2)
      ((m, r), f1 ||| f2 ||| fl)
    | .nan _ => ((m, m), 0)

/-- combine(OP, x, y, RM) on element patterns (R314). -/
def combineElem (op : Nat) (rm : Rm) (x y : Nat) : Nat × Flags :=
  let fp (f : FpFmt) : Nat × Flags := fpAdd f rm (f.decode x) (f.decode y)
  match op with
  | 0 => fp FpFmt.fp32
  | 1 => fp FpFmt.bf16
  | 2 => fpMinMax FpFmt.fp32 true x y
  | 3 => fpMinMax FpFmt.fp32 false x y
  | 4 => (x ^^^ y, 0)
  | _ =>
    let ((m, r), fl) := smx rm (x % 2 ^ 32) (x / 2 ^ 32) (y % 2 ^ 32) (y / 2 ^ 32)
    (m + 2 ^ 32 * r, fl)

/-- The mode of an entry. -/
def rmOfNat (n : Nat) : Rm := Rm.ofField (BitVec.ofNat 3 n)

/-- A payload and what travels with it. -/
structure Chunk where
  data  : List Byte := []
  flags : Flags := 0
  fail  : Option Cause := none
  deriving DecidableEq, Repr

/-- Combine two payloads element by element (R312, R314). -/
def combineChunks (op : Nat) (rm : Rm) (x y : Chunk) : Chunk :=
  let z := flowElem 2 op
  let n := max (x.data.length / z) (y.data.length / z)
  let el (d : List Byte) (e : Nat) : Option Nat := if d.length < (e + 1) * z then none else some (natOfBytes ((d.drop (e * z)).take z))
  let rs := (List.range n).map (fun e => match el x.data e, el y.data e with
    | some a, some b => combineElem op rm a b
    | some a, none => (a, 0)
    | none, some b => (b, 0)
    | none, none => (0, 0))
  { data := (rs.map (fun r => bytesOfNat z r.1)).flatten
    flags := rs.foldl (fun f r => f ||| r.2) (x.flags ||| y.flags)
    fail := x.fail.or y.fail }

/-- The output of a TRANSPOSE from the payloads of its children (R318). -/
def transposeChunks (z : Nat) (cs : List Chunk) : Chunk :=
  let n := (cs.map (fun c => (c.data.length + z - 1) / z)).foldl max 0
  { data := ((List.range n).map (fun j => (cs.map (fun c =>
      let d := (c.data.drop (j * z)).take z
      d ++ List.replicate (z - d.length) 0)).flatten)).flatten
    flags := cs.foldl (fun f c => f ||| c.flags) 0
    fail := cs.foldl (fun f c => f.or c.fail) none }

/-! ### The scan stack (R317) -/

/-- Levels of the blocks of the binary decomposition of n, largest first. -/
def scanLevels (n : Nat) : List Nat := ((List.range 33).reverse).filter (fun j => n.testBit j)

/-- Push a block, merging equal levels: the stack is held last block first. -/
def scanPush (op : Nat) (rm : Rm) : List (Nat × Chunk) → Nat × Chunk → List (Nat × Chunk)
  | [], b => [b]
  | a :: r, b => if a.1 = b.1 then scanPush op rm r (b.1 + 1, combineChunks op rm a.2 b.2) else b :: a :: r

/-- The delivered value of a stack, last block first. -/
def scanFold (op : Nat) (rm : Rm) : List (Nat × Chunk) → Chunk
  | [] => {}
  | b :: r => r.foldl (fun p a => combineChunks op rm a.2 p) b.2

/-! ### Entries (R311–R313) -/

def State.flow (s : State) (f : Nat) : Option FlowRec := (s.flows.find? (fun e => e.1 == f)).map Prod.snd
def State.setFlow (s : State) (f : Nat) (r : FlowRec) : State := { s with flows := SMap.set s.flows f r }

/-- The key of an entry within its flow. -/
def FEntry.is (e : FEntry) (land : Nat) (src : Bool) (cslot : Nat) : Bool := e.land == land && e.src == src && e.cslot == cslot

def FlowRec.entry (r : FlowRec) (land : Nat) (src : Bool) (cslot : Nat) : Option FEntry :=
  r.entries.find? (fun e => e.is land src cslot)
def FlowRec.setEntry (r : FlowRec) (e : FEntry) : FlowRec :=
  { r with entries := r.entries.map (fun x => if x.is e.land e.src e.cslot then e else x) }

/-- Where an entry's output goes (R313, R390). -/
def FEntry.targets (e : FEntry) : List FTarget :=
  let bit (q : Nat) : Bool := e.ports.testBit q
  match portLandOf e.land with
  | some h =>
    if e.action = 1 then
      ((List.range 4).filter bit).filterMap (fun q => (neighbour e.land q).map (fun l => FTarget.next l e.ocslot))
        ++ (((List.range 4).filter (fun j => bit (4 + j))).map (fun j => FTarget.port (4 * h + j)))
    else match e.next with
      | some l => [.next l e.ocslot]
      | none => match (List.range 4).filter (fun j => bit (4 + j)) with
        | [j] => [.port (4 * h + j)]
        | _ => []
  | none =>
    let here := if bit 4 && e.lcore.isSome then [FTarget.here] else []
    if e.action = 1 then
      ((List.range 4).filter bit).filterMap (fun q => (neighbour e.land q).map (fun l => FTarget.next l e.ocslot)) ++ here
    else (match e.next with
      | some l => [.next l e.ocslot]
      | none => []) ++ here

/-- Credits an entry holds for a target. -/
def FEntry.credit (e : FEntry) (t : FTarget) : Nat := ((e.credits.find? (fun c => c.1 == t)).map Prod.snd).getD 0
def FEntry.addCredit (e : FEntry) (t : FTarget) (n : Nat) : FEntry :=
  if e.credits.any (fun c => c.1 == t) then { e with credits := e.credits.map (fun c => if c.1 = t then (t, c.2 + n) else c) }
  else { e with credits := e.credits ++ [(t, n)] }
def FEntry.spendCredit (e : FEntry) (t : FTarget) : FEntry :=
  { e with credits := e.credits.map (fun c => if c.1 = t then (t, c.2 - 1) else c) }

/-- Insert an entry by child slot. -/
def insertSlot (e : FEntry) : List FEntry → List FEntry
  | [] => [e]
  | x :: r => if e.cslot ≤ x.cslot then e :: x :: r else x :: insertSlot e r
/-- Entries in the order of their child slots. -/
def sortSlots (es : List FEntry) : List FEntry := es.foldr insertSlot []

/-- The entries that form one node with an entry: the pair of a COMBINE, the two of a SCAN leaf, the children of a TRANSPOSE
(R310, R317, R318). -/
def FlowRec.node (r : FlowRec) (e : FEntry) : List FEntry :=
  sortSlots <| match e.action with
  | 2 => r.entries.filter (fun x => !x.src && x.land == e.land && x.action == 2 && x.cslot / 2 == e.cslot / 2)
  | 4 => r.entries.filter (fun x => !x.src && x.land == e.land && x.action == 4 && x.cslot / 2 == e.cslot / 2)
  | 5 => r.entries.filter (fun x => !x.src && x.land == e.land && x.action == 5 && x.nlo == e.nlo && x.nlvl == e.nlvl)
  | _ => [e]

/-- The entry that keeps a node's output: the one of lowest child slot. -/
def primary (es : List FEntry) (e : FEntry) : FEntry := es.foldl (fun m x => if x.cslot < m.cslot then x else m) e

/-- What a child slot offers at the current position: nothing any more, packets with their number, or nothing yet. -/
inductive Offer where
  | absent
  | ready (ps : List Pkt)
  | waiting
  deriving DecidableEq, Repr

/-- The chunk that stands for a child across a port that went down (R389). -/
def lostPkt (e : FEntry) : Pkt := { kind := .data, src := e.land, dst := e.land, last := true, fail := some .link }

/-- The packet is the last of its position: the last of a scan stack, whose block of level 0 never has another behind it, or a packet of no
stack (R309, R317; log entry 58). -/
def Pkt.closes (p : Pkt) : Bool := p.send || p.slvl == 0
/-- The packet ends its child's round: `LAST` on the last packet of a position. -/
def Pkt.ends (p : Pkt) : Bool := p.last && p.closes

/-- Packets in an entry's slots that an output already formed has taken: they are freed once it has been sent (R311). -/
def FlowRec.taken (r : FlowRec) (e : FEntry) : Nat :=
  if e.src then 0 else ((primary (r.node e) e).frees.filter (fun x => x.1 == e.cslot)).foldl (fun n x => n + x.2) 0

/-- The entry has begun its current round: a packet of it has come, or one has gone on. An output of the round before that is still to be sent
does not count, nor do the slots that it will free. -/
def FlowRec.began (r : FlowRec) (e : FEntry) : Bool := e.pos != 0 || e.done || decide (r.taken e < e.slots.length)

/-- The rounds that some entry of the flow has begun. -/
def FlowRec.rounds (r : FlowRec) : Nat := r.entries.foldl (fun n e => max n (if r.began e then e.round + 1 else e.round)) 0

/-- What a child slot offers; across a port that went down the child counts as having delivered a failed last chunk at every remaining
position of the round that was current then, or of one that the flow has begun (R389; log entry 64). -/
def FEntry.offer (e : FEntry) (rounds : Nat) : Offer :=
  let lost := e.dead && (e.round == e.deadAt || decide (e.round < rounds))
  if e.done then .absent
  else
    let stack := e.action == 4 && e.cslot % 2 == 0
    match e.slots with
    | [] => if lost then .ready [lostPkt e] else .waiting
    | p :: r =>
      if stack then
        let body := (p :: r).takeWhile (fun x => !x.closes)
        if body.length < (p :: r).length then .ready ((p :: r).take (body.length + 1))
        else if lost then .ready ((p :: r) ++ [lostPkt e]) else .waiting
      else if e.action = 3 ∧ p.released = false then .waiting
      else .ready [p]

def Pkt.chunkOf (p : Pkt) : Chunk := { data := p.data, flags := p.flags, fail := p.fail }

/-- The output of a node at a position: what goes to the next landing, and what is delivered (R313, R314, R317, R318). -/
def nodeOut (e : FEntry) (offers : List (FEntry × Offer)) : List (Nat × Chunk) × Chunk :=
  let rm := rmOfNat e.rm
  let one (o : Offer) : Option Chunk :=
    match o with
    | .ready (p :: _) => some p.chunkOf
    | _ => none
  match e.action with
  | 2 =>
    let c := match offers.map (fun o => one o.2) with
      | [some x, some y] => combineChunks e.op rm x y
      | [some x, none] => x
      | [none, some y] => y
      | [some x] => x
      | _ => {}
    ([(0, c)], c)
  | 4 =>
    let prev : List (Nat × Chunk) := match offers.find? (fun o => o.1.cslot % 2 == 0) with
      | some (_, .ready ps) =>
        if ps.any (fun p => p.fail == some .link && p.src == e.land) then
          (scanLevels e.nlo).map (fun j => (j, { fail := some .link }))
        else ps.map (fun p => (p.slvl, p.chunkOf))
      | some (_, _) => (scanLevels e.nlo).map (fun j => (j, {}))
      | none => []
    let own : Chunk := ((offers.find? (fun o => o.1.cslot % 2 == 1)).bind (fun o => one o.2)).getD {}
    let st := scanPush e.op rm prev.reverse (0, own)
    (st.reverse, scanFold e.op rm st)
  | 5 =>
    let c := transposeChunks (2 ^ (e.op % 4)) (offers.map (fun o => (one o.2).getD {}))
    ([(0, c)], c)
  | _ =>
    let c := (offers.findSome? (fun o => one o.2)).getD {}
    ([(0, c)], c)

/-- The packets of an output to a target: FORWARD, DUPLICATE and HOLD send the packet on as it came (R313), a scan stack is one packet for
each block (R317). -/
def outPkts (e : FEntry) (flow chunk : Nat) (last : Bool) (t : FTarget) (came : Option Pkt) (blocks : List (Nat × Chunk)) (value : Chunk) :
    List (FTarget × Pkt) :=
  let base : Pkt := { kind := .data, src := e.land, dst := 0, flow := flow, cslot := e.ocslot, chunk := chunk, last := last
                      fromSrc := e.src, fromSlot := e.cslot, round := e.round }
  let mk (lvl : Nat) (send : Bool) (c : Chunk) : Pkt :=
    { base with slvl := lvl, send := send, data := c.data, flags := c.flags, fail := c.fail }
  if e.action = 0 ∨ e.action = 1 ∨ e.action = 3 then
    match came with
    | some p => [(t, { mk p.slvl p.send value with chunk := p.chunk, last := p.last })]
    | none => [(t, mk 0 false value)]
  else match t with
    | .here => [(t, mk 0 false value)]
    | _ => if e.action = 4 then blocks.mapIdx (fun i b => (t, mk b.1 (i + 1 == blocks.length) b.2)) else [(t, mk 0 false value)]

/-- Note the cause of a chunk that failed at a landing (R327). -/
def FlowRec.noteFail (r : FlowRec) (land : Nat) (c : Cause) : FlowRec :=
  { r with stats := SMap.set r.stats land (c.code, (SMap.get (0, 0) r.stats land).2) }
/-- A round was delivered at a landing (R327). -/
def FlowRec.noteRound (r : FlowRec) (land : Nat) : FlowRec :=
  let x := SMap.get (0, 0) r.stats land
  { r with stats := SMap.set r.stats land (x.1, x.2 + 1) }

/-- A chunk of the entry's current round fails because the flow is broken: the round began after the break (R389). -/
def FlowRec.fails (r : FlowRec) (e : FEntry) : Bool := r.broken && decide (r.brokenAt ≤ e.round)

/-- Form a node's next output, where each child has delivered or is absent (R312). -/
def FlowRec.form (r : FlowRec) (flow : Nat) (e : FEntry) : Option FlowRec :=
  let es := r.node e
  let p := primary es e
  if p.cslot ≠ e.cslot ∨ !p.sends.isEmpty ∨ !p.frees.isEmpty then none
  else
    let offers := es.map (fun x => (x, x.offer r.rounds))
    let any := offers.any (fun o => match o.2 with
      | .ready _ => true
      | _ => false)
    if offers.any (fun o => o.2 == .waiting) || !any then none
    else
      let takes := offers.map (fun o => match o.2 with
        | .ready ps => (o.1, min ps.length o.1.slots.length, ps.any Pkt.ends)
        | _ => (o.1, 0, true))
      let came := match offers with
        | [(_, .ready [x])] => some x
        | _ => none
      let last := takes.all (fun t => t.2.2)
      let (bl0, v0) := nodeOut p offers
      let mark (c : Chunk) : Chunk := if r.fails p then { c with fail := c.fail.or (some .link) } else c
      let sends := (p.targets.map (fun t => outPkts p flow p.pos last t came (bl0.map (fun b => (b.1, mark b.2))) (mark v0))).flatten
      let frees := (takes.filter (fun t => t.2.1 != 0)).map (fun t => (t.1.cslot, t.2.1))
      let r1 := takes.foldl (fun r t => r.setEntry { t.1 with done := if last then false else t.2.2
                                                              round := if last then t.1.round + 1 else t.1.round }) r
      let r2 := match r1.entry p.land false p.cslot with
        | some q => r1.setEntry { q with sends := sends, frees := frees, pos := if last then 0 else p.pos + 1 }
        | none => r1
      some (if r.fails p then r2.noteFail p.land .link else r2)

/-- The credit for a slot that becomes free goes back to the packet's source (R311, R391). -/
def State.returnCredit (s : State) (e : FEntry) (p : Pkt) : State :=
  let c : Pkt := { kind := .credit, src := e.land, dst := p.src, flow := p.flow, cslot := e.cslot, fromSrc := p.fromSrc
                   fromSlot := p.fromSlot, chunk := 1 }
  match e.via with
  | some q => if (s.port q).up then s.sendPort q c else s
  | none => s.inject c

/-- Free the slots of a node whose output has been sent. -/
def State.freeSlots (s : State) (f : Nat) (p : FEntry) : State :=
  match s.flow f with
  | none => s
  | some r =>
    let r1 := r.setEntry { p with frees := [] }
    p.frees.foldl (fun s x => match s.flow f with
      | none => s
      | some r => match r.entry p.land false x.1 with
        | none => s
        | some e =>
          let gone := e.slots.take x.2
          gone.foldl (fun s k => s.returnCredit e k) (s.setFlow f (r.setEntry { e with slots := e.slots.drop x.2 })))
      (s.setFlow f r1)

/-- The port carries nothing of the flow: it is down, or it went down since the flow was installed (R389). -/
def State.portLost (s : State) (r : FlowRec) (q : Nat) : Bool := !(s.port q).up || r.lost.contains q

/-- An entry holds a credit for a target, or needs none there: a chunk for a lost port fails at once (R311, R389). -/
def State.clearFor (s : State) (r : FlowRec) (e : FEntry) (t : FTarget) : Bool :=
  match t with
  | .here => true
  | .port q => s.portLost r q || decide (0 < e.credit t)
  | .next _ _ => decide (0 < e.credit t)

/-- One thing that an entry can do: send the next packet for which it has a credit, free its slots, or form its next output. -/
def State.entryWork (s : State) (f : Nat) (r : FlowRec) (e : FEntry) : Option State :=
  let ready (x : FTarget × Pkt) : Bool := x.1 != .here && s.clearFor r e x.1
  match e.sends.find? ready with
  | some (t, p) =>
    let e1 := { e with sends := e.sends.erase (t, p) }
    match t with
    | .next l _ => some ((s.setFlow f (r.setEntry (e1.spendCredit t))).inject { p with dst := l })
    | .port q =>
      if s.portLost r q then some (s.setFlow f ((r.setEntry e1).noteFail e.land .link))
      else some ((s.setFlow f (r.setEntry { e1.spendCredit t with sent := e.sent ++ [⟨q, p.chunk, p.round⟩] })).sendPort q p)
    | .here => none
  | none =>
    if e.sends.isEmpty && !e.frees.isEmpty then some (s.freeSlots f e)
    else if e.src then none
    else (r.form f e).map (fun r1 => s.setFlow f r1)

/-- A flow's entries do what they can; the number bounds the work. -/
def State.flowWork (f : Nat) : Nat → State → State
  | 0, s => s
  | n + 1, s =>
    match s.flow f with
    | none => s
    | some r => match r.entries.findSome? (fun e => s.entryWork f r e) with
      | none => s
      | some s1 => State.flowWork f n s1

/-- A bound on what the entries of a flow can do with the packets they hold. -/
def FlowRec.workBound (r : FlowRec) : Nat :=
  64 * (r.entries.foldl (fun n e => n + e.slots.length + e.sends.length + e.frees.length + 2) 1)

/-- A flow's entries do what they can. -/
def State.runFlow (s : State) (f : Nat) : State :=
  match s.flow f with
  | none => s
  | some r => s.flowWork f r.workBound

end Sys2Proof.Machine
end

