-- ==== Sys2Proof/Machine/FlowLoad.lean ====
section
/-! DEFINITION. Network program images (R310, R320), the checks of an install in the order of R321, the install and the
removal of flows (R320, R321, R342, R390, R391). -/

namespace Sys2Proof.Machine

/-! ### Records (R310, R320) -/

/-- A record of an image: its index, its flow, its entry, and its four doublewords. -/
structure FRec where
  idx  : Nat
  flow : Nat
  e    : FEntry
  dws  : List Nat
  deriving DecidableEq, Repr

/-- Bits of a doubleword. -/
def dwBits (x hi lo : Nat) : Nat := x / 2 ^ lo % 2 ^ (hi - lo + 1)

/-- Decode a record; a landing that does not exist is left at 0x3FF. -/
def State.flowRecord (s : State) (idx : Nat) (dws : List Nat) : FRec :=
  let a := dws.getD 0 0
  let b := dws.getD 1 0
  let c := dws.getD 2 0
  let land := dwBits c 11 0
  let next := dwBits c 27 16
  { idx := idx, flow := dwBits a 63 52, dws := dws
    e := { land := (s.landing land).getD 0x3FF, lcore := if land < 256 then some land else none
           cslot := dwBits a 51 48, action := dwBits a 47 45, op := dwBits a 44 42, rm := dwBits a 41 39
           ports := dwBits a 38 31, ocslot := dwBits a 30 27, aslot := dwBits a 26 21, awin := dwBits a 20 15
           src := a.testBit 14, nlo := dwBits b 63 32, nlvl := dwBits b 31 26
           next := if next = 0xFFF then none else some ((s.landing next).getD 0x3FF) } }

/-- The lowest index of the records for which something holds. -/
def lowestRec (rs : List FRec) (p : FRec → Bool) : Option Nat := (rs.find? p).map FRec.idx

/-! ### Codes 0x03 to 0x05 (R321) -/

/-- The op and the mode of a record are those R310 allows; a source entry rounds nothing (R314). -/
def FEntry.opOk (e : FEntry) : Bool :=
  let rounds := !e.src && (e.action == 2 || e.action == 4) && (e.op == 0 || e.op == 1 || e.op == 5)
  decide (e.action ≤ 5)
    && (if e.action == 2 || e.action == 4 then decide (e.op ≤ 5) else if e.action == 5 then decide (e.op ≤ 3) else e.op == 0)
    && (if rounds then decide (e.rm ≤ 4) else e.rm == 0)

/-- The bits that R310 and R320 require to be zero are zero. -/
def FRec.zerosOk (r : FRec) : Bool :=
  let c := r.dws.getD 2 0
  dwBits (r.dws.getD 0 0) 13 0 == 0 && dwBits (r.dws.getD 1 0) 25 0 == 0 && dwBits c 15 12 == 0 && dwBits c 63 28 == 0
    && r.dws.getD 3 0 == 0

/-- Its landings exist. -/
def State.landsOk (s : State) (r : FRec) : Bool :=
  let c := r.dws.getD 2 0
  (s.landing (dwBits c 11 0)).isSome && (dwBits c 27 16 == 0xFFF || (s.landing (dwBits c 27 16)).isSome)

/-- A record passes code 0x03. -/
def State.fieldsOk (s : State) (r : FRec) : Bool :=
  let e := r.e
  r.zerosOk && s.landsOk r && e.opOk
    && (List.range 8).all (fun q => !e.ports.testBit q || hasPort e.land e.lcore.isSome q)
    && (if e.src then e.lcore.isSome && e.cslot == 15 && e.action != 5 && e.aslot == 0 && e.awin == 0 else true)
    && (if e.action == 1 then e.next.isNone else true)

/-- All installed entries. -/
def State.allEntries (s : State) : List FEntry := (s.flows.map (fun f => f.2.entries)).flatten

/-- Two records that share a key, or a landing with more than 512 entries (R310). -/
def State.keysBad (s : State) (rs : List FRec) (r : FRec) : Bool :=
  decide (1 < (rs.filter (fun x => x.flow == r.flow && x.e.is r.e.land r.e.src r.e.cslot)).length)
    || decide (512 < (rs.filter (fun x => x.e.land == r.e.land)).length
        + (s.allEntries.filter (fun e => e.land == r.e.land)).length)

/-- Two entries of one node of a flow at a landing, which share their slots (R310, R317, R321). -/
def sameNode (f g : Nat) (x y : FEntry) : Bool :=
  f == g && x.land == y.land && x.action == y.action && (x.action == 2 || x.action == 4) && x.cslot / 2 == y.cslot / 2

/-- The slot ranges of two entries meet. -/
def slotsMeet (x y : FEntry) : Bool :=
  x.land == y.land && decide (x.aslot < y.aslot + y.awin) && decide (y.aslot < x.aslot + x.awin)

/-- A record fails code 0x05. -/
def State.slotsBad (s : State) (rs : List FRec) (r : FRec) : Bool :=
  let e := r.e
  if e.src then false
  else e.awin == 0 || decide (64 < e.aslot + e.awin)
    || rs.any (fun x => x.idx != r.idx && !x.e.src && slotsMeet x.e e && !sameNode x.flow r.flow x.e e)
    || s.allEntries.any (fun x => !x.src && slotsMeet x e)

/-! ### Paths (R320, R321, R390) -/

/-- The entry that a target names. -/
def entryOf (es : List FEntry) (t : FTarget) : Option FEntry :=
  match t with
  | .next l c => es.find? (fun e => e.is l false c)
  | _ => none

/-- Every path from an entry ends in a delivery, or at a port, and comes to no node; the number bounds the path. -/
def reaches (es : List FEntry) : Nat → FEntry → Bool
  | 0, _ => false
  | n + 1, e =>
    !e.targets.isEmpty && e.targets.all (fun t => match t with
      | .here => true
      | .port _ => true
      | .next l c => match entryOf es (.next l c) with
        | none => false
        | some x => (decide (x.action < 2) || x.action == 3) && reaches es n x)

/-- An entry's output comes to a landing and a child slot, directly or through FORWARD entries. -/
def feeds (es : List FEntry) (land cslot : Nat) : Nat → FEntry → Bool
  | 0, _ => false
  | n + 1, e => e.targets.any (fun t => match t with
      | .next l c => (l == land && c == cslot) || (match entryOf es (.next l c) with
        | some x => x.action == 0 && feeds es land cslot n x
        | none => false)
      | _ => false)

/-- No entry of the flow at this device sends to this entry. -/
def unfed (es : List FEntry) (e : FEntry) : Bool :=
  !e.src && !es.any (fun x => x.targets.contains (.next e.land e.cslot))

/-- The flow crosses a port (R390). -/
def crosses (es : List FEntry) : Bool :=
  es.any (fun e => e.targets.any (fun t => match t with
    | .port _ => true
    | _ => false) || ((portLandOf e.land).isSome && unfed es e))

/-! ### Flights, scans and transposes (R316–R318, R321) -/

/-- Two entries carry the same fields apart from their child slot. -/
def sameFields (x y : FEntry) (slotsToo : Bool) : Bool :=
  x.land == y.land && x.action == y.action && x.op == y.op && x.rm == y.rm && x.ports == y.ports && x.ocslot == y.ocslot
    && x.nlo == y.nlo && x.nlvl == y.nlvl && x.next == y.next
    && (!slotsToo || (x.aslot == y.aslot && x.awin == y.awin))

/-- The leaves 0 to N − 1 appear once each. -/
def leavesOk (srcs : List FEntry) : Bool :=
  (List.range srcs.length).all (fun i => (srcs.filter (fun e => e.nlo == i)).length == 1)

/-- The nodes of canon_tree over [0, N) (R156): low leaf and level. -/
def canonNodes (n : Nat) : List (Nat × Nat) :=
  ((List.range (clog2 n)).map (fun k => ((List.range n).filter (fun lo =>
    lo % 2 ^ (k + 1) == 0 && decide (lo + 2 ^ k < n))).map (fun lo => (lo, k + 1)))).flatten

/-- The producer of a range: a leaf's source entry, a node, or the producer of its left half (R321). -/
def producer (es : List FEntry) (n lo : Nat) : Nat → Option FEntry
  | 0 => es.find? (fun e => e.src && e.nlo == lo)
  | k + 1 =>
    if n ≤ lo + 2 ^ k then producer es n lo k
    else es.find? (fun e => e.action == 2 && !e.src && e.nlo == lo && e.nlvl == k + 1 && e.cslot % 2 == 0)

/-- A COMBINE entry has its partner. -/
def paired (es : List FEntry) (e : FEntry) : Bool :=
  es.any (fun x => !x.src && x.cslot / 2 == e.cslot / 2 && x.cslot != e.cslot && sameFields x e true)

/-- A flight is well formed (R316, R321); where the flow crosses a port, the part on this device. -/
def flightOk (es : List FEntry) : Bool :=
  let srcs := es.filter (fun e => e.src)
  let n := srcs.length
  let nodes := es.filter (fun e => e.action == 2 && !e.src)
  let fuel := es.length + 1
  nodes.all (fun e => paired es e && decide (1 ≤ e.nlvl) && e.nlo % 2 ^ e.nlvl == 0) &&
    (crosses es ||
      (leavesOk srcs
        && (canonNodes n).all (fun p => (nodes.filter (fun e => e.nlo == p.1 && e.nlvl == p.2)).length == 2)
        && nodes.all (fun e => (canonNodes n).contains (e.nlo, e.nlvl))
        && (nodes.filter (fun e => e.cslot % 2 == 0)).all (fun e =>
            let half := 2 ^ (e.nlvl - 1)
            (match producer es n e.nlo (e.nlvl - 1), producer es n (e.nlo + half) (e.nlvl - 1) with
             | some x, some y => feeds es e.land e.cslot fuel x && feeds es e.land (e.cslot + 1) fuel y
             | _, _ => false))
        && (match producer es n 0 (clog2 n) with
            | some r => reaches es fuel r
            | none => false)))

/-- A scan chain is well formed (R317). -/
def scanOk (es : List FEntry) : Bool :=
  let srcs := es.filter (fun e => e.src)
  let n := srcs.length
  let fuel := es.length + 1
  let own (i : Nat) : Option FEntry := es.find? (fun e => e.action == 4 && !e.src && e.nlo == i && e.cslot % 2 == 1)
  let prev (i : Nat) : Option FEntry := es.find? (fun e => e.action == 4 && !e.src && e.nlo == i && e.cslot % 2 == 0)
  (es.filter (fun e => e.action == 4 && !e.src)).all (fun e => decide (e.cslot < 2) && e.ports.testBit 4
    && decide (Nat.log2 (max n 1) + 2 ≤ e.awin))
  && (crosses es || (leavesOk srcs && (List.range n).all (fun i =>
      match own i, srcs.find? (fun e => e.nlo == i) with
      | some o, some x => feeds es o.land o.cslot fuel x
          && (if i = 0 then (prev i).isNone
              else match prev i with
                | some p => sameFields p o false
                | none => false)
          && (if i + 1 < n then
                match prev (i + 1) with
                | some p => feeds es p.land p.cslot fuel o
                | none => false
              else o.next.isNone)
      | _, _ => false)))

/-- The transposes of a flow are well formed (R318). -/
def transposesOk (es : List FEntry) : Bool :=
  (es.filter (fun e => e.action == 5)).all (fun e =>
    decide (1 ≤ e.nlvl) && decide (e.nlvl ≤ 4) && decide (e.cslot < 2 ^ e.nlvl)
      && (List.range (2 ^ e.nlvl)).all (fun c => es.any (fun x => !x.src && x.cslot == c && sameFields x e false)))

/-- The op-carrying entries of a flow use one action, one op, one mode and so one element size (R321). -/
def oneOp (es : List FEntry) : Bool :=
  let ops := es.filter (fun e => e.action == 2 || e.action == 4 || e.action == 5)
  ops.all (fun e => ops.all (fun x => x.op == e.op && flowElem x.action x.op == flowElem e.action e.op))

/-- A flow passes code 0x06. -/
def shapeOk (es : List FEntry) : Bool :=
  oneOp es
    && (if es.any (fun e => e.action == 2) then flightOk es else true)
    && (if es.any (fun e => e.action == 4) then scanOk es else true)
    && transposesOk es

/-- A point or broadcast flow: none of its entries combines (R321). -/
def isPlain (es : List FEntry) : Bool := es.all (fun e => decide (e.action < 2) || e.action == 3)

/-- The entries that an image gives a flow. -/
def entriesFor (rs : List FRec) (f : Nat) : List FEntry := (rs.filter (fun r => r.flow == f)).map FRec.e

/-- An entry sends across a port that is down (R390). -/
def State.portDead (s : State) (e : FEntry) : Bool :=
  e.targets.any (fun t => match t with
    | .port p => !(s.port p).up
    | _ => false)

/-- The first failing code of an install, with its record (R321). -/
def State.installCode (s : State) (rs : List FRec) : Option (Nat × Nat) :=
  let codes : List (Nat × (FRec → Bool)) :=
    [(2, fun r => (s.flow r.flow).isSome),
     (3, fun r => !s.fieldsOk r),
     (4, s.keysBad rs),
     (5, s.slotsBad rs),
     (6, fun r => !shapeOk (entriesFor rs r.flow)),
     (7, fun r =>
       let es := entriesFor rs r.flow
       s.portDead r.e || (isPlain es && !reaches es (es.length + 1) r.e))]
  codes.findSome? (fun c => (lowestRec rs c.2).map (fun i => (c.1, i)))

/-! ### Install and removal (R320, R321, R342, R390, R391) -/

/-- Credits that a port's peer granted for a child slot before the install (R391). -/
def Port.granted (x : Port) (f cslot : Nat) : Nat :=
  (x.grants.filter (fun g => g.flow == f && g.cslot == cslot)).foldl (fun n g => n + g.n) 0

/-- An entry as it is installed: its initial credits, those that a peer has granted already among them (R320, R391), and the device of
its next landing, this one or the peer across a port (R310, R390). -/
def State.freshEntry (s : State) (f : Nat) (es : List FEntry) (e : FEntry) : FEntry :=
  { e with
    credits := e.targets.filterMap (fun t => match t with
      | .here => none
      | .port p => some (.port p, (s.port p).granted f e.ocslot)
      | .next l c => some (.next l c, ((entryOf es (.next l c)).map (fun x => x.awin)).getD 0))
    ndev := (e.targets.findSome? (fun t => match t with
      | .port p => some (s.port p).peerDev
      | .next _ _ => some s.board.devId
      | .here => none)).getD 0 }

/-- The ports of a port landing that are up. -/
def State.upPorts (s : State) (l : Nat) : List Nat :=
  match portLandOf l with
  | some h => ((List.range 4).map (fun j => 4 * h + j)).filter (fun p => (s.port p).up)
  | none => []

/-- The grants of a flow for the targets of an entry are used up. -/
def State.useGrants (s : State) (f : Nat) (e : FEntry) : State :=
  e.targets.foldl (fun s t => match t with
    | .port p => let x := s.port p
                 s.setPort p { x with grants := x.grants.filter (fun g => !(g.flow == f && g.cslot == e.ocslot)) }
    | _ => s) s

/-- An entry whose child lies across a port grants its credits over the link. No rule says by which of its landing's ports the child
comes: it is one that is up, by a free choice (R391; DESIGN CHOICE, log entry 59). -/
def State.grantFrom (s : State) (f : Nat) (e : FEntry) : State :=
  let (n, s1) := s.draw
  match (s.upPorts e.land)[Config.freeNat n % max 1 (s.upPorts e.land).length]? with
  | none => s1
  | some p =>
    let s2 := match s1.flow f with
      | some r => s1.setFlow f (r.setEntry { (r.entry e.land e.src e.cslot).getD e with via := some p })
      | none => s1
    s2.sendPort p { kind := .credit, src := e.land, dst := e.land, flow := f, cslot := e.cslot, chunk := e.awin }

/-- Install one flow: all its entries with their credits, and the grants to producers across ports (R391). -/
def State.installFlow (s : State) (core f : Nat) (es : List FEntry) : State :=
  let s1 := es.foldl (fun s e => s.useGrants f e) (s.setFlow f { owner := core, entries := es.map (s.freshEntry f es) })
  (es.filter (fun e => (portLandOf e.land).isSome && unfed es e)).foldl (fun s e => s.grantFrom f e) s1

/-- Every credit that this device's entries owe has returned (R321, R391): no entry holds a packet, no source entry sends one, and none
of the flow's packets is on its way. What stands for a lost chunk holds no slot (R389). -/
def State.flowIdle (s : State) (f : Nat) : Bool :=
  match s.flow f with
  | none => true
  | some r => r.entries.all (fun e => e.slots.isEmpty && e.frees.isEmpty && (!e.src || e.sends.isEmpty))
      && !s.packets.any (fun p => (p.kind == .data || p.kind == .credit) && p.flow == f)

/-- Remove a flow, with a removal notice across each port that it crosses (R391). -/
def State.removeFlow (s : State) (f : Nat) : State :=
  match s.flow f with
  | none => s
  | some r =>
    let es := r.entries
    let ports := ((es.map (fun e => e.targets.filterMap (fun t => match t with
        | .port p => some p
        | _ => none) ++ e.via.toList)).flatten).eraseDups
    let s1 := ports.foldl (fun s p => if (s.port p).up then s.sendPort p { kind := .removal, src := 0, dst := 0, flow := f } else s) s
    { s1 with flows := SMap.erase s1.flows f }

/-- The status doubleword of `FLOW.LOAD` (R321). -/
def loadStatus (code idx : Nat) : DWord := BitVec.ofNat 64 (code * 2 ^ 56 + idx % 2 ^ 32)

/-- `FLOW.LOAD` (R320, R321, R342): an install takes effect as a whole; a removal waits for the flow's credits. -/
def execFlowLoad (d a : Reg) (s : State) : Out :=
  issue s 1 .any fun q s =>
    s.ready q [srcS a] [srcS d]
      (let ea := s.getS q a
       let c := q.core
       let dw (k : Nat) : Nat := s.spadRead q (ea.toNat + 8 * k) 8
       if ea.toNat % 32 ≠ 0 then .trap .align ea
       else if spadTop < ea.toNat + 31 then .trap .spbound ea
       else if s.lineBusy q ea.toNat 32 then .stall
       else
         let n := dwBits (dw 1) 31 0
         if dw 0 ≠ 0x1574F4C46 ∨ 2 ≤ dw 1 / 2 ^ 32 ∨ dw 2 ≠ 0 ∨ dw 3 ≠ 0 ∨ n < 1 ∨ 16384 < n then
           .retire (s.setS q d (loadStatus 1 0))
         else if spadTop < ea.toNat + 32 + 32 * n - 1 then .trap .spbound ea
         else if s.lineBusy q ea.toNat (32 + 32 * n) then .stall
         else
           let rs := (List.range n).map (fun i => s.flowRecord i ((List.range 4).map (fun j => dw (4 + 4 * i + j))))
           let fs := (rs.map FRec.flow).eraseDups
           if (dw 1).testBit 32 then
             match lowestRec rs (fun r => match s.flow r.flow with
                 | some x => x.owner != c
                 | none => true) with
             | some i => .retire (s.setS q d (loadStatus 2 i))
             | none =>
               if fs.all s.flowIdle then .retire ((fs.foldl State.removeFlow s).setS q d 0)
               else .whole (s.holdOn q (.flowUnload d.toNat fs))
           else
             match s.installCode rs with
             | some (code, i) => .retire (s.setS q d (loadStatus code i))
             | none => .retire ((fs.foldl (fun s f => s.installFlow c f (entriesFor rs f)) s).setS q d 0))

/-- FLOW_AUTO_REMOVE: the flows of a logical core whose last thread has ended are removed as their credits return, though a launch may have
come since (R321): core. -/
def execFlowAutoRemove (s : State) : Out :=
  let c := s.target.core
  .next (((s.flows.filter (fun f => f.2.owner == c && f.2.leaving)).map Prod.fst).foldl
    (fun s f => if s.flowIdle f then s.removeFlow f else s) s)

end Sys2Proof.Machine
end

