-- ==== Sys2Proof/Machine/FlowCmd.lean ====
section
/-! DEFINITION. Flow commands and their packets (R311, R322–R327, R390, R391), messages (R328, R329, R347), deliveries and
completion records (R324, R325, R240), and the start of commands (R132). -/

namespace Sys2Proof.Machine

/-! ### Pushing sends and receives (R322–R324, R329) -/

/-- The source entry of a flow at a logical core's landing (R310, R323). -/
def State.sourceOf (s : State) (c f : Nat) : Option FEntry :=
  (s.flow f).bind (fun r => r.entries.find? (fun e => e.src && e.lcore == some c))

/-- The flow has an entry that delivers at a logical core's landing (R324). -/
def State.deliversAt (s : State) (c f : Nat) : Bool :=
  match s.flow f with
  | some r => r.entries.any (fun e => e.lcore == some c && e.targets.contains .here)
  | none => false

/-- Element size of an installed flow in bytes (R321). -/
def FlowRec.elemSize (r : FlowRec) : Nat :=
  match r.entries.find? (fun e => e.action == 2 || e.action == 4 || e.action == 5) with
  | some e => flowElem e.action e.op
  | none => 1

/-- Bytes of all the elements of a source handle. -/
def Handle.totalBytes (h : Handle) : Nat := h.ex.foldl (· * ·) 1 * h.width / 8

/-- A handle that a send may stream (R323). -/
def sendable (h : Handle) (elem : Nat) : Bool :=
  h.s && !h.isMx && decide (8 ≤ h.width) && h.totalBytes % elem == 0 && decide (h.totalBytes ≤ 2 ^ 27)

/-- Push an item of the flow unit: d receives its number. -/
def State.pushFlow (s : State) (q : Seqr) (d : Reg) (i : Item) : Res :=
  let s1 := s.pin q.core i.pages
  let (s2, n) := s1.push q { i with accMark := (s1.core q.core).nextAcc }
  .retire (s2.setS q d (BitVec.ofNat 64 n))

/-- `FLOW.SEND` (R322, R323). -/
def execFlowSend (d a b : Reg) (s : State) : Out :=
  issue s 1 .any fun q s =>
    s.ready q [srcS a, srcH b] [srcS d]
      (if s.pushStalls q 5 then .stall
       else
         let x := s.getS q a
         let f := x.toNat
         let h := handleOf (s.getH q b)
         if 4096 ≤ f then .trap .illegal x
         else if (s.sourceOf q.core f).isNone then .trap .illegal (BitVec.ofNat 64 f)
         else if !h.ok then .trap .illegal (zx64 b)
         else if !sendable h (((s.flow f).map FlowRec.elemSize).getD 1) then .trap .illegal (s.pcOf q)
         else s.pushFlow q d { seq := 0, queue := 5, prio := 0, owner := 0, kind := .flowSend f, words := [packA 0xD9 d a b 0]
                               hd := s.getH q b, x := x, reads := h.spadGranules })

/-- The common part of the pushes of receives: the destination, with the scales of its MX blocks, and the record are written, no page of
it is a D page (R217, R250, R322, R324, R329; log entry 57). -/
def State.pushReceive (s : State) (q : Seqr) (d b : Reg) (rec_ : Nat) (i : Item) : Res :=
  let h := handleOf (s.getH q b)
  if spadTop < rec_ + 15 then .trap .spbound (BitVec.ofNat 64 rec_)
  else if !h.ok then .trap .illegal (zx64 b)
  else
    let base := h.ranges false true
    let ps0 := s.peekPages q.core base
    let rs := base ++ scaleRanges ps0 h false true
    match lowestOffGrid ps0 [h] with
    | some va => .trap .align (BitVec.ofNat 64 va)
    | none => s.withFoot q rs fun ps s =>
      match badScalePage ps [h], lowestOnD ps base with
      | some va, _ => .trap .prot (BitVec.ofNat 64 va)
      | none, some va => .trap .dwrite (BitVec.ofNat 64 va)
      | none, none =>
        s.pushFlow q d { i with hd := s.getH q b, pages := ps, foot := rs
                                writes := rngGranules ps rs ++ h.spadGranules ++ [⟨.spad, rec_ / 128⟩] }

/-- `FLOW.RECV` (R322, R324). -/
def execFlowRecv (d a b : Reg) (s : State) : Out :=
  issue s 1 .any fun q s =>
    s.ready q [srcS a, srcH b] [srcS d]
      (if s.pushStalls q 5 then .stall
       else
         let x := s.getS q a
         let f := dwBits x.toNat 11 0
         let rec_ := dwBits x.toNat 51 32
         if dwBits x.toNat 31 12 ≠ 0 ∨ dwBits x.toNat 63 52 ≠ 0 ∨ rec_ % 16 ≠ 0 then .trap .illegal x
         else if !s.deliversAt q.core f then .trap .illegal (BitVec.ofNat 64 f)
         else s.pushReceive q d b rec_ { seq := 0, queue := 5, prio := 0, owner := 0, kind := .flowRecv f
                                         words := [packA 0xDA d a b 0], x := x })

/-- `MSG.SEND` (R329). -/
def execMsgSend (d a b : Reg) (s : State) : Out :=
  issue s 1 .any fun q s =>
    s.ready q [srcS a, srcH b] [srcS d]
      (if s.pushStalls q 5 then .stall
       else
         let x := s.getS q a
         let h := handleOf (s.getH q b)
         if 2 ^ 24 ≤ x.toNat then .trap .illegal x
         else if !h.ok then .trap .illegal (zx64 b)
         else if !sendable h 1 then .trap .illegal (s.pcOf q)
         else s.pushFlow q d { seq := 0, queue := 5, prio := 0, owner := 0, kind := .msgSend, words := [packA 0xDD d a b 0]
                               hd := s.getH q b, x := x, reads := h.spadGranules })

/-- `MSG.POST` (R329). -/
def execMsgPost (d a b : Reg) (s : State) : Out :=
  issue s 1 .any fun q s =>
    s.ready q [srcS a, srcH b] [srcS d]
      (if s.pushStalls q 5 then .stall
       else
         let x := s.getS q a
         let rec_ := dwBits x.toNat 63 44
         if dwBits x.toNat 43 41 ≠ 0 ∨ rec_ % 16 ≠ 0 then .trap .illegal x
         else s.pushReceive q d b rec_ { seq := 0, queue := 5, prio := 0, owner := 0, kind := .msgPost
                                         words := [packA 0xDE d a b 0], x := x })

/-- match(P, R) on a post's operand and a request (R328). -/
def msgMatch (x : DWord) (r : Pkt) : Bool :=
  let mask := dwBits x.toNat 31 16
  (r.tag &&& mask) == (dwBits x.toNat 15 0 &&& mask) && (x.getLsbD 40 || r.slc == dwBits x.toNat 39 32)

/-- `MSG.PROBE` (R329). -/
def execMsgProbe (d a b : Reg) (s : State) : Out :=
  issue s 1 .any fun q s =>
    s.ready q [srcS a, srcS b] [srcS d]
      (let x := s.getS q a
       let sel := s.getS q b
       let k := s.core q.core
       if dwBits x.toNat 43 41 ≠ 0 then .trap .illegal x
       else if 1 < sel.toNat then .trap .illegal sel
       else if sel = 0 then
         let v := match k.overflow.find? (msgMatch x) with
           | some r => 2 ^ 63 + r.slc % 256 * 2 ^ 48 + r.tag % 2 ^ 16 * 2 ^ 32 + r.mlen % 2 ^ 32
           | none => 0
         .retire ((s.setS q d (BitVec.ofNat 64 v)).holdFor q 2)
       else
         let v := (if k.nacked = 0 then 0 else 2 ^ 63) + k.nacked % 2 ^ 32
         .retire (((s.setCore q.core { k with nacked := 0 }).setS q d (BitVec.ofNat 64 v)).holdFor q 2))

/-! ### `FLOW.REL` and `FLOW.STAT` (R326, R327) -/

/-- `FLOW.REL` (R326). -/
def execFlowRel (d a : Reg) (s : State) : Out :=
  issue s 1 .any fun q s =>
    s.ready q [srcS a] [srcS d]
      (let x := s.getS q a
       let f := x.toNat
       if 4096 ≤ f then .trap .illegal x
       else
         let held (e : FEntry) : Bool := e.action == 3 && !e.src && e.lcore == some q.core
         match s.flow f with
         | none => .retire ((s.setS q d 0).holdFor q 2)
         | some r =>
           let n := (r.entries.filter held).foldl (fun n e => n + (e.slots.filter (fun p => !p.released)).length) 0
           let es := r.entries.map (fun e => if held e then { e with slots := e.slots.map (fun p => { p with released := true }) } else e)
           .retire ((((s.setFlow f { r with entries := es }).runFlow f).setS q d (BitVec.ofNat 64 n)).holdFor q 2))

/-- `FLOW.STAT` (R327). -/
def execFlowStat (d a : Reg) (s : State) : Out :=
  issue s 1 .any fun q s =>
    s.ready q [srcS a] [srcS d]
      (let x := s.getS q a
       let f := x.toNat
       if 4096 ≤ f then .trap .illegal x
       else
         let v := match s.flow f with
           | none => 0
           | some r =>
             let here := r.entries.any (fun e => e.lcore == some q.core)
             let st := SMap.get (0, 0) r.stats (s.landOf q.core)
             let cause := if r.broken then Cause.link.code else st.1
             bit here * 2 ^ 63 + bit (r.owner == q.core) * 2 ^ 62 + cause % 256 * 2 ^ 48 + st.2 % 2 ^ 32
         .retire ((s.setS q d (BitVec.ofNat 64 v)).holdFor q 4))

/-! ### The start of commands (R132, R322) -/

/-- What a command does as it starts: a message send's request goes out, a flow's receive is posted (R322, R328). -/
def State.started (s : State) (c : Nat) (i : Item) : State :=
  match i.kind with
  | .flowRecv _ => s.setItem c { i with posted := true }
  | .msgSend =>
    let to_ := dwBits i.x.toNat 23 16
    s.inject { kind := .request, src := s.landOf c, dst := s.landOf to_, lc := to_, tag := dwBits i.x.toNat 15 0, slc := c
               mlen := (handleOf i.hd).totalBytes, seq := i.seq }
  | _ => s.atStart c i

/-- The eligible commands of a queue: those of R132 while the engine takes them, and none of a context that
`CSAVE` is saving (R132, R322, R324, R329, R356). -/
def State.eligibleIn (s : State) (c b : Nat) : List Item :=
  let k := s.core c
  k.items.filter (fun i => i.queue == b && k.eligible i && k.receiveFree i && k.takesNow b i
    && !(s.ctx c i.owner).saving && !s.yields c i.owner)

/-- COMMAND_START: a free engine starts one of its queue's eligible commands; the others wait a clock more (R132): core,
queue. -/
def execCommandStart (s : State) : Out :=
  let c := s.target.core
  let k := s.core c
  let e := s.eligibleIn c s.target.unit
  if s.away.contains c then .next s
  else match chooseItem e with
    | none => .next s
    | some i =>
      let s1 := s.setCore c { k with items := k.items.map (fun j =>
        if j.seq = i.seq then { j with running := true, begun := true }
        else if e.any (fun x => x.seq == j.seq) then { j with wait := j.wait + 1 } else j) }
      .next (s1.started c { i with running := true, begun := true })

/-! ### Sending (R311, R322, R323, R329) -/

/-- Physical address in the scratchpad of byte n of a handle's stream, elements in index order, dimension 0 fastest. -/
def Handle.streamAddr (h : Handle) (n : Nat) : Nat :=
  ((h.rows.getD (n / max 1 h.rowBytes) 0) % ((2 ^ 64 : Nat) : Int)).toNat + n % max 1 h.rowBytes

/-- Bytes of the chunk that a send injects next (R311). -/
def Item.chunkLen (i : Item) : Nat := min 2048 ((handleOf i.hd).totalBytes - 2048 * i.progress)

/-- The access unit of the scratchpad that byte n of a send's stream lies in (R21). -/
def Item.streamUnit (i : Item) (n : Nat) : Nat := (handleOf i.hd).streamAddr n / 16

/-- A send may read from byte k of its next chunk on, and the bytes that this read takes, by their places in the stream (R21). -/
def Item.mayReadByte (i : Item) (k : Nat) : Bool := i.mayTake i.streamUnit (2048 * i.progress) i.chunkLen k
def Item.readRun (i : Item) (k : Nat) : List Nat := i.takeRun i.streamUnit (2048 * i.progress) i.chunkLen k

/-- A send reads an access unit of its next chunk. Each block's tag is checked before its first byte is read (R199, R323): from a block
that carries another tag nothing is read, and the send fails with SWIZZLE. -/
def State.readUnit (s : State) (c : Nat) (i : Item) (k : Nat) : Item :=
  let h := handleOf i.hd
  let ns := i.readRun k
  let fresh := ((ns.map (fun n => h.streamAddr n / 2048)).eraseDups).filter (fun b => !i.seen.contains b)
  if fresh.any (fun b => (s.core c).tagOf b != h.swz) then { i with chunkFail := i.chunkFail.or (some .swizzle) }
  else { i with seen := i.seen ++ fresh
                carry := ns.foldl (fun m n => SMap.set m n ((s.core c).spad.read (swzAddr h.swz (h.streamAddr n)))) i.carry }

/-- The next chunk of a send has been read, or fails and carries no byte (R323). -/
def Item.chunkReady (i : Item) : Bool := i.chunkFail.isSome || decide (i.carry.length = i.chunkLen)

/-- The next chunk of a send as a packet, and the item after it: from the first failing block on, the chunks carry the failure
and no byte (R323). -/
def State.nextChunk (s : State) (c : Nat) (i : Item) : Pkt × Item :=
  let p := i.progress
  let chunks := max 1 (((handleOf i.hd).totalBytes + 2047) / 2048)
  let fail := i.chunkFail
  let last := p + 1 == chunks
  ({ kind := .data, src := s.landOf c, dst := 0, chunk := p, last := last, fail := fail
     data := if fail.isSome then [] else i.carry.map Prod.snd },
   { i with progress := p + 1, carry := [], finished := last && fail.isNone, failing := if last then fail else none })

/-- A source entry has sent its last chunk, and holds a credit for every place it sends to (R311). -/
def State.maySend (s : State) (r : FlowRec) (e : FEntry) : Bool := e.sends.isEmpty && e.targets.all (s.clearFor r e)

/-- A running send can inject its next packet now: a flow's against its credits, a message's once its go has come (R311, R328). -/
def State.mayInject (s : State) (c : Nat) (i : Item) : Bool :=
  i.running && !i.finished && i.failing.isNone && (match i.kind with
    | .flowSend f => (match s.flow f, s.sourceOf c f with
        | some r, some e => s.maySend r e
        | _, _ => false)
    | .msgSend => i.posted
    | _ => false)

/-- Running sends take turns in sequence order: the next of those that can inject after the one that injected last (R322). -/
def State.sendTurn (s : State) (c : Nat) : Option Nat :=
  let k := s.core c
  let can := (k.items.filter (s.mayInject c)).map (fun i => i.seq)
  match can.filter (fun n => decide (k.lastSend < n)) with
  | n :: r => some (r.foldl min n)
  | [] => match can with
    | n :: r => some (r.foldl min n)
    | [] => none

/-- A send of a flow injects its next chunk (R311); a failure that arises here counts at the landing (R327). -/
def State.injectFlow (s : State) (c f : Nat) (i : Item) : State :=
  match s.flow f, s.sourceOf c f with
  | some r, some e =>
    let ts := e.targets
    if !s.maySend r e then s
    else
      let i1 := if r.fails e then { i with chunkFail := i.chunkFail.or (some .link) } else i
      if !i1.chunkReady then s
      else
      let (p, i2) := s.nextChunk c i1
      let pkt := { p with flow := f, cslot := e.ocslot, fromSrc := true, fromSlot := e.cslot, round := e.round }
      let r1 := r.setEntry { e with sends := ts.map (fun t => (t, pkt)), pos := if p.last then 0 else e.pos + 1
                                    round := if p.last then e.round + 1 else e.round }
      let r2 := match p.fail with
        | some x => r1.noteFail e.land x
        | none => r1
      (((s.setCore c { s.core c with lastSend := i.seq }).setFlow f r2).setItem c { i2 with round := e.round }).runFlow f
  | _, _ => s

/-- CHUNK_INJECT: the running send whose turn it is makes its next step (R311, R322, R328): with `unit` 1 it reads its next chunk from
the byte `size` on, and once the chunk has been read it injects it as a packet: core, sequence number. -/
def execChunkInject (s : State) : Out :=
  let c := s.target.core
  match s.item c s.target.id with
  | none => .next s
  | some i =>
    if s.sendTurn c ≠ some i.seq ∨ s.away.contains c then .next s
    else if s.target.unit = 1 then
      .next (if i.chunkFail.isNone && i.mayReadByte s.target.size then s.setItem c (s.readUnit c i s.target.size) else s)
    else
      match i.kind with
      | .flowSend f => .next (s.injectFlow c f i)
      | .msgSend =>
        if !i.chunkReady then .next s
        else
          let s1 := s.setCore c { s.core c with lastSend := i.seq }
          let to_ := dwBits i.x.toNat 23 16
          let (p, i1) := s1.nextChunk c i
          .next ((s1.setItem c i1).inject { p with kind := .payload, dst := s1.landOf to_, lc := to_, peer := i.peer
                                                   tag := dwBits i.x.toNat 15 0, slc := c, mlen := (handleOf i.hd).totalBytes })
      | _ => .next s

/-! ### Packets (R309, R312, R390, R391) -/

/-- A data packet that comes from a peer by a port: the bytes of its header and of its payload (R309). -/
def peerPkt (bs : List Byte) : Pkt :=
  let dw (k : Nat) : Nat := natOfBytes ((bs.drop (8 * k)).take 8)
  let a := dw 0
  let b := dw 1
  let codes : List Cause := [.link, .eccu, .swizzle, .engfault, .xlate, .prot, .foot, .msgovf]
  { kind := .data, src := dwBits a 44 35, dst := dwBits a 54 45, ddev := dwBits b 63 52, sdev := dwBits b 51 40, flow := dwBits a 30 19, cslot := dwBits a 34 31
    chunk := dwBits a 18 3, last := a.testBit 2
    fail := if a.testBit 1 then some ((codes.find? (fun c => c.code == dwBits b 39 32)).getD .link) else none
    flags := BitVec.ofNat 8 (dwBits b 31 24), slvl := dwBits b 23 19, send := b.testBit 18
    data := (bs.drop 128).take (dwBits b 11 0) }

/-- A data packet joins the slots of the entry it matches, and the flow's entries act (R311–R313). -/
def State.arriveAt (s : State) (land : Nat) (p : Pkt) (via : Option Nat) : Option State :=
  match s.flow p.flow with
  | none => none
  | some r => match r.entry land false p.cslot with
    | none => none
    | some e => some ((s.setFlow p.flow (r.setEntry { e with slots := e.slots ++ [p], via := via.or e.via })).runFlow p.flow)

/-- FLOW_PACKET_ARRIVE: a flow packet reaches the entry it matches, a message payload its posted buffer (R312, R328); the number
of a packet, or with unit 1 a port, the bytes of a packet from its peer and the sequence number of its first flit; without a match
it is discarded and its sender told (R388, R390). -/
def execFlowPacketArrive (s : State) : Out :=
  if s.target.unit = 1 then
    let q := s.target.core
    let p := peerPkt s.target.data
    let land := portLand (q / 4)
    match s.acceptFlits q s.target.seq p.flits with
    | none => .next s
    | some s0 => match s0.arriveAt land p (some q) with
      | some s1 => .next s1
      | none => .next (s0.sendPort q { kind := .nack, src := land, dst := p.src, flow := p.flow, cslot := p.cslot, chunk := p.chunk
                                       fail := some .link })
  else match s.arrival s.target.id with
    | none => .next s
    | some p =>
      let s1 := s.takePkt p.id
      match p.kind with
      | .data => .next ((s1.arriveAt p.dst p none).getD s1)
      | .payload => match s1.item p.lc p.peer with
        | some i => .next (s1.setItem p.lc { i with inbox := i.inbox ++ [p] })
        | none => .next s1
      | _ => .next s

/-- The oldest of what an entry has sent by a port are answered: as many as credits have come (R311). -/
def FEntry.answered (e : FEntry) (q n : Nat) : FEntry :=
  { e with sent := e.sent.filter (fun x => x.port != q) ++ (e.sent.filter (fun x => x.port == q)).drop n }

/-- FLOW_CREDIT_ARRIVE: credits reach the producer of an entry (R311): the number of a credit packet, or with unit 1 a port, the
flow in `id`, the peer's child slot in `value` and the number of credits in `size`, which this device keeps until it has installed its
part (R391); they go to the entry that keeps its node's output. -/
def execFlowCreditArrive (s : State) : Out :=
  if s.target.unit = 1 then
    let q := s.target.core
    let f := s.target.id
    let slot := s.target.value.toNat
    match s.acceptFlits q s.target.seq 1 with
    | none => .next s
    | some s0 =>
      let x := s0.port q
      let early := s0.setPort q { x with grants := x.grants ++ [⟨f, slot, s.target.size⟩] }
      match s0.flow f with
      | none => .next early
      | some r =>
        match r.entries.find? (fun e => e.targets.contains (.port q) && e.ocslot == slot) with
        | none => .next early
        | some e => .next ((s0.setFlow f (r.setEntry (((primary (r.node e) e).addCredit (.port q) s.target.size).answered q s.target.size))).runFlow f)
  else match s.arrival s.target.id with
    | none => .next s
    | some p =>
      if p.kind != .credit then .next s
      else
        let s1 := s.takePkt p.id
        match s1.flow p.flow with
        | none => .next s1
        | some r => match r.entry p.dst p.fromSrc p.fromSlot with
          | none => .next s1
          | some e => .next ((s1.setFlow p.flow (r.setEntry (e.addCredit (.next p.src p.cslot) p.chunk))).runFlow p.flow)

/-- REMOVAL_NOTICE_ARRIVE: the peer of a port has removed a flow: every credit held for its entry is discarded (R391): port,
flow. -/
def execRemovalNoticeArrive (s : State) : Out :=
  let q := s.target.core
  let f := s.target.id
  match s.acceptFlits q s.target.seq 1 with
  | none => .next s
  | some s0 =>
    let x := s0.port q
    let s1 := s0.setPort q { x with grants := x.grants.filter (fun g => g.flow != f) }
    match s1.flow f with
    | none => .next s1
    | some r => .next (s1.setFlow f { r with entries := r.entries.map (fun e =>
        { e with credits := e.credits.map (fun c => if c.1 = .port q then (c.1, 0) else c) }) })

/-! ### Deliveries (R240, R324, R325) -/

/-- The address of byte n of a receive buffer's stream, and the value that a byte delivered there leaves: in a row of sub-byte elements
the bits beyond the last element keep (R255, R324). -/
def State.deliverValue (s : State) (c : Nat) (pages : List Page) (h : Handle) (n : Nat) (b : Byte) : Byte :=
  let bits := h.extent 0 * h.width % 8
  if bits != 0 && n % h.rowBytes + 1 == h.rowBytes then
    let old := (s.readByteH c pages h (h.streamAddr n)).toNat
    BitVec.ofNat 8 (old / 2 ^ bits * 2 ^ bits + b.toNat % 2 ^ bits)
  else b

/-- Bytes of a receive buffer's stream. -/
def Handle.streamLen (h : Handle) : Nat := h.rows.length * h.rowBytes

/-- The scale byte of an MX block that a delivery writes whole: no rule states it, and it is a free value (R142, R217; log entry 57). -/
def deliverScales (h : Handle) (pages : List Page) (hd : HReg) (es : List (Nat × Byte)) : List (Nat × Byte) :=
  if h.isMx && !h.s then
    (es.filter (fun e => e.1 % (4 * h.width) == 0)).filterMap (fun e =>
      ((pageAt pages (h.streamAddr e.1)).bind (fun p => p.scaleVa h.width (h.streamAddr e.1))).map (fun v =>
        (paIn pages v, BitVec.ofNat 8 (Config.openScale hd e.1))))
  else []

/-- The bytes of a stream that make up whole MX blocks of 4w bytes (R142). -/
def wholeBlocks (w : Nat) (es : List (Nat × Byte)) : List (Nat × Byte) :=
  es.filter (fun e => (es.filter (fun f => f.1 / (4 * w) == e.1 / (4 * w))).length == 4 * w)

/-- What the payload writes of a chunk write, in order; and the bytes that wait for the next chunk. No delivery writes part of an MX
block: the bytes of one that a chunk leaves incomplete wait for the next chunk, and are dropped where the next chunk does not complete it
(R142; log entry 57). -/
def deliverBytes (h : Handle) (i : Item) (p : Pkt) : List (Nat × Byte) × List (Nat × Byte) :=
  let es := p.data.mapIdx (fun k b => (2048 * p.chunk + k, b)) |>.filter (fun e => decide (e.1 < h.streamLen))
  if h.isMx then
    let all_ := (i.carry.filter (fun e => decide (2048 * p.chunk < e.1 + 4 * h.width) && decide (e.1 < 2048 * p.chunk))) ++ es
    let whole := wholeBlocks h.width all_
    (whole, if p.last then [] else all_.filter (fun e => !whole.contains e))
  else (es, [])

/-- The access unit of the destination that a byte of a delivery lies in, or its MX block (R21, R142, R232, R240). -/
def deliverUnit (h : Handle) (e : Nat × Byte) : Option Nat := some (if h.isMx then e.1 / (4 * h.width) else h.streamAddr e.1 / h.unitBytes)

/-- What a delivery leaves of its item once it has written a unit of a chunk, and whether that was the chunk's last. -/
def Item.afterPart (i : Item) (h : Handle) (p : Pkt) (units : List (Option Nat)) (carry : List (Nat × Byte)) : Item × Bool :=
  let kept := (p.data.mapIdx (fun k _ => 2048 * p.chunk + k)).filter (fun n => decide (n < h.streamLen))
  if (unitHeads units).all i.wrote.contains then
    ({ i with bytes := i.bytes + p.data.length, trunc := i.trunc || decide (kept.length < p.data.length), wrote := [], carry := carry
              flags := i.flags ||| p.flags, chunkFail := i.chunkFail.or p.fail, allIn := p.last }, true)
  else (i, false)

/-- Make the payload write of a chunk, into the receive buffer of an item, of the unit that begins at its `k`-th byte: none while it must wait for
an earlier reader of what it writes, or where no unit still to be written begins; and whether it was the chunk's last. The units are written
in any order (R240, R255). A core that is not resident takes it in its image region (R107, R324). -/
def State.deliver (s : State) (c : Nat) (i : Item) (p : Pkt) (k : Nat) : Option (State × Bool) :=
  let h := handleOf i.hd
  let (todo, carry) := deliverBytes h i p
  let units := todo.map (deliverUnit h)
  let es := (todo.drop k).take (unitRun units k)
  let scales := deliverScales h i.pages i.hd es
  let gs := (((es.map (fun e => granulesAt h i.pages (h.streamAddr e.1) 1)).flatten)
    ++ scales.map (fun e => Granule.mk .global (e.1 / 128))).eraseDups
  if !(units.isEmpty || mayHead units i.wrote k)
    || !gs.all (fun g => (s.core c).mayWrite i g && !(g.space == .global && s.behindLeft c (fun _ => false) (g.num * 128))) then none
  else
    let (s1, i1) := s.tagBlocks c h i (es.map (fun e => h.streamAddr e.1))
    let s2 := es.foldl (fun (s : State) (e : Nat × Byte) => s.writeByteH c i.pages h (h.streamAddr e.1) (s.deliverValue c i.pages h e.1 e.2)) s1
    let s3 := { s2 with hbm := scales.foldl (fun (m : Memory) (e : Nat × Byte) => m.write e.1 e.2) s2.hbm }
    let (j, ends) := ({ i1 with wrote := k :: i1.wrote } : Item).afterPart h p units carry
    some (s3.setItem c j, ends)

/-- DELIVERY_WRITE: a payload write of a posted receive is made (R324, R328); a failed chunk counts at the landing (R327; log entry 12): core,
sequence number, in `size` the byte of the chunk that its unit begins with. -/
def execDeliveryWrite (s : State) : Out :=
  let c := s.target.core
  match s.item c s.target.id with
  | none => .next s
  | some i =>
    if !i.running || !i.posted || i.allIn then .next s
    else match i.kind with
      | .flowRecv f => match s.flow f with
        | none => .next s
        | some r =>
          let here (x : FTarget × Pkt) : Bool := x.1 == .here
          match r.entries.find? (fun e => e.lcore == some c && e.sends.any here) with
          | none => .next s
          | some e => match e.sends.find? here with
            | none => .next s
            | some (t, p) => match s.deliver c i p s.target.size with
              | none => .next s
              | some (s1, false) => .next s1
              | some (s1, true) =>
                let r0 := r.setEntry { e with sends := e.sends.erase (t, p) }
                let r1 := match p.fail with
                  | some x => r0.noteFail e.land x
                  | none => r0
                .next ((s1.setFlow f (if p.last then r1.noteRound e.land else r1)).runFlow f)
      | .msgPost => match i.inbox with
        | [] => .next s
        | p :: rest => match s.deliver c i p s.target.size with
          | none => .next s
          | some (s1, ends) => .next (if ends then match s1.item c i.seq with
              | some j => s1.setItem c { j with inbox := rest }
              | none => s1
            else s1)
      | _ => .next s

/-- The record address of a receive (R324, R329). -/
def Item.recordAddr (i : Item) : Nat :=
  match i.kind with
  | .msgPost => dwBits i.x.toNat 63 44
  | _ => dwBits i.x.toNat 51 32

/-- DW0 of a completion record (R325). -/
def Item.record (i : Item) : Nat :=
  2 ^ 63 + bit i.chunkFail.isSome * 2 ^ 62 + ((i.chunkFail.map Cause.code).getD 0) * 2 ^ 48 + i.flags.toNat * 2 ^ 40
    + bit i.trunc * 2 ^ 39 + i.bytes % 2 ^ 32

/-- COMPLETION_RECORD_WRITE: after a delivery's last payload write its record is written, DW1 first, then DW0, and the receive
ends (R240, R325): core, sequence number. -/
def execCompletionRecordWrite (s : State) : Out :=
  let c := s.target.core
  match s.item c s.target.id with
  | none => .next s
  | some i =>
    let a := i.recordAddr
    if !i.allIn || i.finished || i.failing.isSome || !(s.core c).mayWrite i ⟨.spad, a / 128⟩ then .next s
    else
      let put (s : State) (o v : Nat) : State := (List.range 8).foldl (fun (st : State) k =>
        st.setSpadByte c (a + o + k) (BitVec.ofNat 8 (v / 2 ^ (8 * k)))) s
      .next ((put (put s 8 i.dw1.toNat) 0 i.record).setItem c { i with finished := i.chunkFail.isNone, failing := i.chunkFail })

/-! ### Messages (R328, R329, R347) -/

/-- DW1 of the record of a message (R325). -/
def msgDw1 (r : Pkt) : DWord := BitVec.ofNat 64 (r.mlen % 2 ^ 32 * 2 ^ 32 + r.slc % 256 * 2 ^ 16 + r.tag % 2 ^ 16)

/-- A posted receive takes a request: a go is sent to its source (R328). -/
def State.sendGo (s : State) (c : Nat) (i : Item) (r : Pkt) : State :=
  (s.setItem c { i with posted := true, dw1 := msgDw1 r }).inject
    { kind := .go, src := s.landOf c, dst := r.src, lc := r.slc, seq := r.seq, peer := i.seq }

/-- A nack is recorded: with SLC and TAG of the first since the last MSGOVF was taken, that cause becomes pending (R347). -/
def State.noteOverflow (s : State) (c : Nat) (r : Pkt) : State :=
  let k := s.core c
  (s.setCore c { k with ovf := k.ovf.or (some (BitVec.ofNat 64 (r.slc % 256 * 2 ^ 16 + r.tag % 2 ^ 16))) }).postOverflow c

/-- MESSAGE_REQUEST_ARRIVE: a request matches a posted receive, enters the overflow queue, or is nacked (R328, R347): packet. -/
def execMessageRequestArrive (s : State) : Out :=
  match s.arrival s.target.id with
  | none => .next s
  | some r =>
    if r.kind != .request then .next s
    else
      let c := r.lc
      let s1 := s.takePkt r.id
      let k := s1.core c
      match (k.posts.filterMap (fun n => k.item n)).find? (fun i => msgMatch i.x r) with
      | some i => .next ((s1.setCore c { k with posts := k.posts.filter (· != i.seq) }).sendGo c i r)
      | none =>
        if k.overflow.length < 32 then .next (s1.setCore c { k with overflow := k.overflow ++ [r] })
        else
          let s2 := s1.setCore c { k with nacked := k.nacked + 1 }
          .next ((s2.noteOverflow c r).inject { kind := .nack, src := s.landOf c, dst := r.src, lc := r.slc, seq := r.seq })

/-- RECEIVE_POST: a started `MSG.POST` takes the oldest overflow entry that matches, or joins the posted list (R328): core,
sequence number. -/
def execReceivePost (s : State) : Out :=
  let c := s.target.core
  let k := s.core c
  match k.item s.target.id with
  | none => .next s
  | some i =>
    if i.kind != .msgPost || !i.running || i.posted then .next s
    else match k.overflow.find? (msgMatch i.x) with
      | some r => .next ((s.setCore c { k with overflow := k.overflow.erase r }).sendGo c i r)
      | none => .next ((s.setCore c { k with posts := k.posts ++ [i.seq] }).setItem c { i with posted := true })

/-- GO_ARRIVE: a message send may stream its payload into the posted buffer (R328): packet. -/
def execGoArrive (s : State) : Out :=
  match s.arrival s.target.id with
  | none => .next s
  | some p =>
    if p.kind != .go then .next s
    else match s.item p.lc p.seq with
      | some i => .next ((s.takePkt p.id).setItem p.lc { i with posted := true, peer := p.peer })
      | none => .next (s.takePkt p.id)

/-- What an entry sends comes to a node, over any entries; the number bounds the path. -/
def leadsTo (es node : List FEntry) : Nat → FEntry → Bool
  | 0, _ => false
  | n + 1, e => node.any (fun w => w.is e.land e.src e.cslot) || e.targets.any (fun t => match entryOf es t with
      | some x => leadsTo es node n x
      | none => false)

/-- A chunk of a running send fails with a cause: the send is reported failed once its last chunk has gone (R323, R344). -/
def Item.failChunk (i : Item) (x : Cause) : Item :=
  if i.finished then { i with finished := false, failing := i.failing.or (some x) } else { i with chunkFail := i.chunkFail.or (some x) }

/-- The running send of a flow that has injected a chunk of a round: its chunk fails (R390). -/
def Item.nacked (i : Item) (f chunk round : Nat) : Item :=
  if i.running && i.kind == .flowSend f && i.round == round && decide (chunk < i.progress) then i.failChunk .link else i

/-- The peer of a port has discarded a chunk that an entry sent there, the oldest of that number that it has not answered: it fails with
LINK at its senders on this device, the source entries whose chunks come to that entry. It counts at their landings, and the sends of its
round that injected it fail (R327, R344, R390; log entry 12). -/
def State.nackFlow (s : State) (q f cslot chunk : Nat) : State :=
  match s.flow f with
  | none => s
  | some r => match (r.entries.find? (fun e => e.targets.contains (.port q) && e.ocslot == cslot)).map (fun e => primary (r.node e) e) with
    | none => s
    | some e => match e.sent.find? (fun x => x.port == q && x.chunk == chunk) with
      | none => s
      | some x =>
        let srcs := r.entries.filter (fun y => y.src && leadsTo r.entries (r.node e) (r.entries.length + 1) y)
        let r1 := r.setEntry { e with sent := e.sent.erase x }
        let s1 := s.setFlow f (srcs.foldl (fun r y => r.noteFail y.land .link) (r1.noteFail e.land .link))
        srcs.foldl (fun s y => match y.lcore with
          | none => s
          | some c => let k := s.core c
            s.setCore c { k with items := k.items.map (fun i => i.nacked f chunk x.round) }) s1

/-- NACK_ARRIVE: a message send fails with MSGOVF (R329): packet; or with unit 1, a chunk fails that the peer of a port discarded
(R390): port, flow, the child slot in `value`, the chunk in `size`. -/
def execNackArrive (s : State) : Out :=
  if s.target.unit = 1 then
    match s.acceptFlits s.target.core s.target.seq 1 with
    | none => .next s
    | some s0 => .next (s0.nackFlow s.target.core s.target.id s.target.value.toNat s.target.size)
  else match s.arrival s.target.id with
  | none => .next s
  | some p =>
    if p.kind != .nack then .next s
    else match s.item p.lc p.seq with
      | some i => .next ((s.takePkt p.id).failItem p.lc i .msgovf)
      | none => .next (s.takePkt p.id)

end Sys2Proof.Machine
end

