-- ==== Sys2Proof/Machine/Digest.lean ====
section
/-! DEFINITION. SHA-256, `DIGEST` (R330) and `DCHK` (R395, R396). -/

namespace Sys2Proof.Machine

/-! ### SHA-256

The working state is one value of 256 bits, its first word in the highest 32 bits; a message schedule is a window of sixteen words. -/

/-- The largest number below 2^n above a start whose power k does not exceed a bound, bit by bit. -/
def rootBits (k x : Nat) : Nat → Nat → Nat
  | 0, r => r
  | n + 1, r => rootBits k x n (if (r + 2 ^ n) ^ k ≤ x then r + 2 ^ n else r)

/-- The first 32 bits of the fraction of the k-th root of a number. -/
def rootWord (k p : Nat) : Word := BitVec.ofNat 32 (rootBits k (p * 2 ^ (32 * k)) 36 0)

/-- The primes below 312: there are 64. -/
def shaPrimes : List Nat := (List.range 312).filter (fun n => decide (2 ≤ n) && (List.range n).all (fun d => d < 2 || n % d != 0))

/-- The round constants are the cube roots' words, and the state starts with the square roots' words of the first eight primes. -/
def shaConstants : List Word := shaPrimes.map (rootWord 3)
def shaStart : BitVec 256 := (shaPrimes.take 8).foldl (fun z p => z <<< 32 ||| (rootWord 2 p).setWidth 256) 0

/-- Word k of a state. -/
def shaWord (z : BitVec 256) (k : Nat) : Word := z.extractLsb' (224 - 32 * k) 32

/-- A word turned right by two distances, and a third word, added without carries. -/
def shaMix (x : Word) (i j : Nat) (last : Word) : Word := last ^^^ x.rotateRight i ^^^ x.rotateRight j

/-- One round: the state moves down by a word, with two words renewed, and the window by a word of the schedule. -/
def shaRound (wz : List Word × BitVec 256) (k : Word) : List Word × BitVec 256 :=
  let (w, z) := wz
  let v := shaWord z
  let pick := v 6 ^^^ (v 4 &&& (v 5 ^^^ v 6))
  let most := (v 0 &&& (v 1 ||| v 2)) ||| (v 1 &&& v 2)
  let t := k + w.headD 0 + pick + v 7 + shaMix (v 4) 6 11 ((v 4).rotateRight 25)
  let u := t + most + shaMix (v 0) 2 13 ((v 0).rotateRight 22)
  let x := w.getD 1 0
  let y := w.getD 14 0
  let next := shaMix y 17 19 (y >>> 10) + w.getD 9 0 + shaMix x 7 18 (x >>> 3) + w.headD 0
  (w.drop 1 ++ [next], u ++ z.extractLsb' 160 96 ++ (v 3 + t) ++ z.extractLsb' 32 96)

/-- Take in one block of 64 bytes, its words big-endian. -/
def shaBlock (z : BitVec 256) (b : List Byte) : BitVec 256 :=
  let w := (List.range 16).map (fun i => BitVec.ofNat 32 (natOfBytes ((b.drop (4 * i)).take 4).reverse))
  let r := (shaConstants.foldl shaRound (w, z)).2
  (List.range 8).foldl (fun y k => y <<< 32 ||| (shaWord z k + shaWord r k).setWidth 256) 0

/-- The digest of some bytes as a number: one 1 bit, zeros and the length in bits fill the last block. -/
def shaValue (bs : List Byte) : BitVec 256 :=
  let n := bs.length
  let m := bs ++ 0x80 :: (List.replicate ((119 - n % 64) % 64) 0 ++ (bytesOfNat 8 (8 * n)).reverse)
  (List.range (m.length / 64)).foldl (fun z k => shaBlock z ((m.drop (64 * k)).take 64)) shaStart

/-- The SHA-256 digest of some bytes, its 32 bytes in order. -/
def sha256 (bs : List Byte) : List Byte := (bytesOfNat 32 (shaValue bs).toNat).reverse

/-! ### `DIGEST` (R330) -/

/-- `DIGEST` (R330): the digest is that of the range as it stands at issue; the four registers are empty until it lands. -/
def execDigest (d a b : Reg) (s : State) : Out :=
  issue s 1 .any fun q s =>
    s.ready q [srcS a, srcS b] [srcS d, srcS (d + 1), srcS (d + 2), srcS (d + 3)]
      (let ea := s.getS q a
       let n := (s.getS q b).toNat
       if n ≠ 0 ∧ spadTop < ea.toNat + n - 1 then .trap .spbound ea
       else if n ≠ 0 ∧ s.lineBusy q ea.toNat n then .stall
       else
         let r := d.toNat
         let t := s.thread q
         let v := BitVec.ofNat 256 (natOfBytes (sha256 ((s.core q.core).spad.readBytes ea.toNat n)))
         let p := (((t.prog.markEmpty r).markEmpty (r + 1)).markEmpty (r + 2)).markEmpty (r + 3)
         .retire (s.setThread q { t with prog := p, digests := t.digests ++ [⟨r, v⟩] }))

/-- DIGEST_LANDS: a thread's oldest digest lands in its four registers (R330): core, context. -/
def execDigestLands (s : State) : Out :=
  let c := s.target.core
  let x := s.target.unit
  let t := s.ctx c x
  match t.digests with
  | [] => .next s
  | g :: r =>
    let s1 := s.setCtx c x { t with digests := r }
    .next ([0, 1, 2, 3].foldl (fun s k => s.fillReg c x (g.reg + k) (g.digest.extractLsb' (64 * k) 64)) s1)

/-! ### `DCHK` (R395, R396) -/

/-- The outbound window of a logical core in HBM (R377). -/
def windowPa (c : Nat) : Nat := 0xBFFFF00000 + 4096 * c

/-- Every live context of a core takes a pending cause. -/
def State.postAll (s : State) (c : Nat) (a : AsyncCause) : State :=
  (((s.core c).ctxs.filter (fun e => e.2.live)).map Prod.fst).foldl (fun s x => s.post c x a) s

/-- The record of an exchange area has DONE (R325, R395). -/
def State.dchkReady (s : State) (c area : Nat) : Bool := ((s.core c).spad.readN area 8).testBit 63

/-- The comparison of `DCHK` once its record is there (R395). -/
def State.dchkCompare (s : State) (q : Seqr) (reg src area : Nat) : State :=
  let c := q.core
  let k := s.core c
  let dw0 := k.spad.readN area 8
  let own := (List.range 4).map (fun i => bytesOfNat 8 ((s.prog q).getS (src + i)).toNat) |>.flatten
  let peer := k.spad.readBytes (area + 32) 32
  if !dw0.testBit 62 && dw0 % 2 ^ 32 == 32 && own == peer then s.setProg q ((s.prog q).setS reg 0)
  else
    let s1 := { s with hbm := s.hbm.writeBytes (windowPa c) (own ++ peer) }
    (s1.setCore c { k with queuesHalted := true }).postAll c ⟨.digest, BitVec.ofNat 64 area⟩

/-- `DCHK` (R395): the thread is held until the record of its exchange area has DONE. -/
def execDchk (d a b : Reg) (s : State) : Out :=
  issue s 1 .any fun q s =>
    s.ready q [srcS a, srcS (a + 1), srcS (a + 2), srcS (a + 3), srcS b] [srcS d]
      (let r := s.getS q b
       if r.toNat % 16 ≠ 0 then .trap .align r
       else if spadTop < r.toNat + 63 then .trap .spbound r
       else if s.lineBusy q r.toNat 64 then .stall
       else if s.dchkReady q.core r.toNat then .retire (s.dchkCompare q d.toNat a.toNat r.toNat)
       else .whole (s.holdOn q (.dchk d.toNat a.toNat r)))

end Sys2Proof.Machine
end

