-- ==== Sys2Proof/Machine/Save.lean ====
section
/-! DEFINITION. The end of a thread (R362, R350), and the saving and restoring of contexts (R354, R356–R360, R284). -/

namespace Sys2Proof.Machine

/-! ### The end of a thread (R124, R205, R362) -/

/-- The groups that a thread counts as leaving when it ends (R124). -/
def State.leaveAll (s : State) (tid : Nat) : State :=
  ((s.groups.filter (fun g => g.2.has tid)).map Prod.fst).foldl (fun s g => s.leaveGroup tid g) s

/-- An event record waits to be written (R376). -/
def State.addEvent (s : State) (e : EventRec) : State := { s with evPending := s.evPending ++ [e] }

/-- What a thread that ends waits for: its results, its accesses and its forked programs (R362). -/
def State.mayEnd (s : State) (c x : Nat) : Bool :=
  let t := s.ctx c x
  s.drained (.thread c x) && t.accs.isEmpty && t.forkV != .running && t.forkA != .running

/-- The end of a thread (R350, R362): it leaves its groups, its pins go, its record waits to be written; the context stays
live until then (R376). -/
def State.endThread (s : State) (c x : Nat) (code : BitVec 32) (fault : Option TrapReq) : State :=
  let s1 := s.leaveAll (tidOf c x)
  let s2 := s1.setCore c ((s1.core c).dropPins x)
  let t := s2.ctx c x
  let s3 := s2.setCtx c x { t with async := [], failed := [], prog := { t.prog with hold := some .ended } }
  (s3.postOverflow c).addEvent (match fault with
    | none => { kind := 1, core := c, ctx := x, d1 := zx64 code, d2 := 0, d3 := 0 }
    | some r => { kind := 3, core := c, ctx := x, d1 := BitVec.ofNat 64 r.cause.code, d2 := r.val, d3 := r.pc })

/-- `HALT` (R362). -/
def execHalt (a : Reg) (s : State) : Out :=
  issue s 1 .any fun q s =>
    s.ready q [srcS a] []
      (.whole ((s.countRetired q).holdOn q (.halting ((s.getS q a).setWidth 32) none)))

/-- The owner that the posted receives of a saved context have until its restore: no context number. -/
def savedOwner (area : DWord) (x : Nat) : Nat := 32 * (area.toNat + 1) + x

/-- The logical core has no live thread. -/
def State.noLive (s : State) (c : Nat) : Bool := !(s.core c).ctxs.any (fun e => e.2.live)

/-- The last thread of a logical core has ended, so its flows are to go (R321). A saved thread has not ended (R366). -/
def State.leaveFlows (s : State) (c : Nat) : State :=
  if s.noLive c && (s.core c).savedCtxs.isEmpty then
    { s with flows := SMap.mapVals (fun _ r => if r.owner = c then { r with leaving := true } else r) s.flows }
  else s

/-- A context becomes free (R103): what its thread left running has no live owner any more, and its tiles are released after the thread's
commands (R267, R362). -/
def State.freeCtx (s : State) (c x : Nat) : State :=
  let k := s.core c
  let mine := (k.items.filter (fun i => i.owner == x)).map (fun i => i.seq)
  (s.setCore c { k with
    ctxs := SMap.erase k.ctxs x
    items := k.items.map (fun i => if i.owner = x then { i with owner := 24 } else i)
    tiles := SMap.mapVals (fun _ t => if t.owner = .ctx x then { t with ending := true, after := mine } else t) k.tiles }).leaveFlows c

/-! ### The image of a save area (R357, R358) -/

/-- Bytes of a save area (R356). -/
def areaLen : Nat := 0xDA000

/-- The pages of a save area, ascending: each translated, and neither MX nor a D page (R356). -/
def areaPages (core hi : Nat) (w : Bool) : Nat → State → Nat → XlRange
  | 0, s, _ => .pages [] s
  | n + 1, s, va =>
    match s.xlate core va (!w) w with
    | .trap c v => .trap c v
    | .noMemory => .noMemory
    | .page p s1 =>
      if p.geom ≠ 0 ∨ p.d then .trap .prot (BitVec.ofNat 64 p.base)
      else if hi < p.base + p.size then .pages [p] s1
      else match areaPages core hi w n s1 (p.base + p.size) with
        | .pages ps s2 => .pages (p :: ps) s2
        | x => x

/-- Eight bytes. -/
def dw8 (n : Nat) : List Byte := bytesOfNat 8 n

/-- Four loop counters: count, start, end, then active and nesting rank, 0 the most recently armed (R357). -/
def loopBytes (l : Loops) : List Byte :=
  ((List.range 4).map (fun k =>
    let c := SMap.get {} l.lc k
    let fl := match l.order.findIdx? (· == k) with
      | some r => 1 + 2 * r
      | none => 0
    bytesOfNat 4 c.count.toNat ++ bytesOfNat 4 c.start.toNat ++ bytesOfNat 4 c.stop.toNat ++ bytesOfNat 4 fl)).flatten

/-- The loops that 64 bytes hold. -/
def loopsOf (bs : List Byte) : Loops :=
  let w (k i : Nat) : Nat := natOfBytes ((bs.drop (16 * k + 4 * i)).take 4)
  { lc := (List.range 4).map (fun k => (k, { count := BitVec.ofNat 32 (w k 0), start := BitVec.ofNat 64 (w k 1)
                                             stop := BitVec.ofNat 64 (w k 2) }))
    order := (List.range 4).filterMap (fun r => (List.range 4).find? (fun k => w k 3 == 1 + 2 * r)) }

/-- The word of a forked program's pending transfer: the layout of `tstate`, and bit 39 where the destination is the exit link, which
DEST cannot hold (R70, R116, R357; log entry 53). -/
def forkWord (x : Option Xfer) : DWord :=
  packXfer x false ||| (match x with
    | some y => if y.dest = exitLink then 2 ^ 39 else 0
    | none => 0)
/-- The pending transfer that such a word holds. -/
def forkXfer (w : DWord) : Option Xfer :=
  (unpackXfer w).map (fun x => if w.getLsbD 39 then { x with dest := exitLink } else x)

/-- A transfer of a forked program's record without a slot left: the program stood at its destination, which the record's PC holds whole
(R116, R357). -/
def wholeDest (pc : DWord) (x : Xfer) : Xfer :=
  if x.slots = 0 ∧ pc.toNat / 4 % 2 ^ 15 = x.dest.toNat / 4 % 2 ^ 15 ∧ x.dest ≠ exitLink then { x with dest := pc } else x

/-- The registers of a forked program's context, at offsets from its place (R357). -/
def progFields (p : Prog) (slot : Nat) : List (Nat × List Byte) :=
  [(0, ((List.range 64).map (fun r => dw8 (p.getS r).toNat)).flatten),
   (0x200, ((List.range 8).map (fun r => dw8 (p.getB r).toNat)).flatten),
   (0x240, loopBytes p.loops), (0x280, dw8 p.pc.toNat), (0x288, dw8 (forkWord p.pendAt).toNat), (0x290, dw8 slot)]

/-- The code of a fork state (R357). -/
def ForkState.code : ForkState → Nat
  | .none => 0 | .running => 1 | .ended false => 2 | .ended true => 3
def forkOf (n : Nat) : ForkState :=
  match n % 4 with
  | 0 => .none | 1 => .running | 2 => .ended false | _ => .ended true

/-- The kind of an item's record (R358). -/
def ItemKind.recordKind : ItemKind → Nat
  | .sig _ => 1 | .waitf _ _ => 2 | _ => 0

/-- The progress field of a record: two doublewords as one number (R358). -/
def Item.progressField (i : Item) : Nat :=
  match i.kind with
  | .sig f => f
  | .waitf f w => f + 2 ^ 64 * w
  | .mxGo _ => match i.asNest with
    | some n => ((unravel i.progress n.counts).mapIdx (fun k v => v * 2 ^ (18 * k))).foldl (· + ·) 0
    | none => 0
  | _ => i.progress

/-- The command has one handle, in field b: the sends and the receives (R322, R329). -/
def ItemKind.handleInB : ItemKind → Bool
  | .flowSend _ | .flowRecv _ | .msgSend | .msgPost => true
  | _ => false

/-- The handles of an item by the fields d, a, b of its instruction (R358). -/
def Item.byField (i : Item) : List HReg := if i.kind.handleInB then [i.ha, i.hb, i.hd] else [i.hd, i.ha, i.hb]

/-- A command record of 256 bytes (R358). A handle stands at the place of its field, and a field without one leaves zeros. -/
def Item.record256 (i : Item) : List Byte :=
  dw8 i.seq ++ bytesOfNat 4 (i.queue + 2 ^ 8 * i.kind.recordKind + 2 ^ 16 * i.prio + 2 ^ 24 * i.flags.toNat) ++ bytesOfNat 4 0
    ++ bytesOfNat 16 i.progressField
    ++ ((List.range 4).map (fun k => bytesOfNat 4 (i.words.getD k 0).toNat)).flatten
    ++ (i.byField.map (fun h => bytesOfNat 32 h.toNat)).flatten
    ++ (match i.kind with
        | .mxGo _ => ((List.range 7).map (fun l => let r := nestRec i.nest l
            bytesOfNat 4 r.w0.toNat ++ bytesOfNat 4 r.w1.toNat ++ bytesOfNat 4 r.w2.toNat ++ bytesOfNat 4 r.w3.toNat)).flatten
        | _ => List.replicate 112 0)

/-- The groups of a context's records: those that the thread is in or has a standing `BAR` in, a group that is free by now last (R124,
R357). -/
def State.recordedGroups (s : State) (c x : Nat) : List Nat :=
  let t := s.ctx c x
  let live := (s.groups.filter (fun g => g.2.has (tidOf c x) || t.bars.any (fun b => b.gid == g.1))).map Prod.fst
  live ++ (t.bars.map Bar.gid).filter (fun g => !live.contains g)

/-- A group record: id, member, pending, a standing `BAR`, its release, the generation (R357). -/
def State.groupBytes (s : State) (c x : Nat) : List Byte :=
  let tid := tidOf c x
  ((s.recordedGroups c x).take 4).map (fun gid =>
    let g : Group := (s.group gid).getD ⟨0, 0, [], []⟩
    let b := (s.ctx c x).bars.find? (fun b => b.gid == gid)
    let gen := match b with
      | some b => b.gen
      | none => if g.isPending tid then genNext g.gen else g.gen
    bytesOfNat 4 (gid + bit (g.isMember tid) * 2 ^ 16 + bit (g.isPending tid) * 2 ^ 17 + bit b.isSome * 2 ^ 18
      + bit ((b.map (fun b => b.released)).getD false) * 2 ^ 19)
      ++ bytesOfNat 4 gen ++ bytesOfNat 8 0) |>.flatten

/-- The token FIFOs (R357). -/
def fifoBytes (t : Ctx) : List Byte :=
  ((List.range 4).map (fun n =>
    let f : Fifo := SMap.get {} t.fifos n
    dw8 f.tokens.length ++ dw8 f.claims.length
      ++ ((List.range 16).map (fun k => dw8 (f.tokens.getD k 0).toNat)).flatten)).flatten

/-- The thread's s and b registers as R348 keeps them: s56–s63, b6 and b7 from the side that level M set aside. -/
def Ctx.ownS (t : Ctx) (r : Nat) : DWord := if 56 ≤ r then SMap.get 0 t.bankS r else t.prog.getS r
def Ctx.ownB (t : Ctx) (r : Nat) : BitVec 32 := if 6 ≤ r then SMap.get 0 t.bankB r else t.prog.getB r

/-- The save area's fields, by offset (R357); what they leave is zero. -/
def State.areaFields (s : State) (c x : Nat) (mine : List Item) : List (Nat × List Byte) :=
  let k := s.core c
  let t := s.ctx c x
  let owned := (List.range 8).foldl (fun m n => if (k.tile n).ownedBy x then m + 2 ^ n else m) 0
  let creg (n : Nat) : Nat := ((t.readCreg c x (s.pcore c) s.now n).getD 0).toNat
  let vec := (SMap.keys k.slots).find? (fun n => (s.slot c n).owner == some x)
  let shift (o : Nat) (l : List (Nat × List Byte)) : List (Nat × List Byte) := l.map (fun e => (o + e.1, e.2))
  [(0, dw8 (0x53585443 + 2 ^ 32)), (8, dw8 (c + x * 2 ^ 8 + k.asid * 2 ^ 16)),
   (16, dw8 (t.forkV.code + 4 * t.forkA.code + 2 ^ 8 * owned + 2 ^ 32 * mine.length)), (24, dw8 areaLen),
   (0x40, ((List.range 64).map (fun r => dw8 (t.ownS r).toNat)).flatten),
   (0x240, ((List.range 16).map (fun r => bytesOfNat 32 (SMap.get (0 : HReg) t.h r).toNat)).flatten),
   (0x440, ((List.range 8).map (fun r => dw8 (t.ownB r).toNat)).flatten),
   (0x480, loopBytes t.asideM ++ (if t.modeH then loopBytes t.asideH else [])),
   (0x500, ((List.range 0x14).map (fun n => dw8 (creg n))).flatten),
   (0x5A0, ((List.range 5).map (fun n => dw8 (creg (0x80 + n)))).flatten ++ dw8 t.failed.length),
   (0x600, dw8 t.prog.sEmpty.toNat ++ dw8 t.hEmpty.toNat ++ dw8 t.vEmpty.toNat),
   (0x620, [t.vfr.dw0, t.vfr.dw1, t.afr.dw0, t.afr.dw1].map (fun w => dw8 w.toNat) |>.flatten),
   (0x640, s.groupBytes c x),
   (0x680, ((List.range 7).map (fun l => let r := nestRec t.nest l
      bytesOfNat 4 r.w0.toNat ++ bytesOfNat 4 r.w1.toNat ++ bytesOfNat 4 r.w2.toNat ++ bytesOfNat 4 r.w3.toNat)).flatten),
   (0x700, fifoBytes t)]
  ++ (match vec with
      | some n => if t.forkV = .running then shift 0x940 (progFields (s.slot c n).prog n) else []
      | none => [])
  ++ (if t.forkA = .running then
        shift 0xC40 (progFields k.arc.prog 0)
          ++ [(0xC40 + 0x298, ((List.range 4).map (fun r => dw8 (SMap.get (0 : DWord) k.arc.wb r).toNat)).flatten),
              (0xC40 + 0x2B8, dw8 k.arc.seed.toNat)]
          ++ (List.range 8192).map (fun r => (0x29000 + 8 * r,
                bytesOfNat 4 (SMap.get (0 : Word) k.arc.pv r).toNat ++ bytesOfNat 4 (SMap.get (0 : Word) k.arc.pa r).toNat))
      else [])
  ++ mine.mapIdx (fun n i => (0x1000 + 256 * n, i.record256))
  ++ (List.range 64).map (fun r => (0x19000 + 1024 * r, bytesOfNat 1024 (SMap.get (0 : VReg) t.v r).toNat))
  ++ t.failed.mapIdx (fun n q => (0xD9400 + 8 * n, dw8 q))

/-! ### `CSAVE` (R354, R356) -/

/-- An item that a save leaves in its place: a posted receive (R322, R356). -/
def Item.staysPosted (i : Item) : Bool := i.running && !i.kind.holdsEngine && !i.posting

/-- A running item that is not at a pre-emption point, or one that is about to end (R354): a copy or an `MX.OUT` inside a block or a row,
but for a `CPY.STRM` that waits for ring space. -/
def State.mustEnd (s : State) (c : Nat) (i : Item) : Bool :=
  i.failing.isSome || i.finished || (i.running && (match i.kind with
    | .flowSend _ => true
    | .msgSend => true
    | .msgPost => i.posting
    | .mxZero _ => true
    | .copy 8 => !i.strmAtBlock && !s.ringWait c i
    | .copy _ => i.midBlock
    | .mxOut _ => !i.wrote.isEmpty
    | _ => false))

/-- What a save waits for (R242, R354, R356). -/
def State.saveReady (s : State) (c x : Nat) : Bool :=
  s.drained (.thread c x) && (s.ctx c x).accs.isEmpty && s.programsStill c (· == x)
    && (s.core c).items.all (fun i => i.owner != x || i.staysPosted || !s.mustEnd c i)

/-- The save itself (R356): the items move to their records, the area is written, the tiles belong to it, the slot and the Arcade
are free and the save record waits to be written. -/
def State.saveCtx (s : State) (c x : Nat) (area : DWord) (ps : List Page) : State :=
  let k := s.core c
  let a := area.toNat
  let mine := k.items.filter (fun i => i.owner == x && !i.staysPosted)
  let s1 := mine.foldl (fun s i => s.unpin c i.asid (i.pages.map (fun p => p.base))) s
  let s2 := s1.writeVa ps a (List.replicate areaLen 0)
  let s3 := (s.areaFields c x mine).foldl (fun s f => s.writeVa ps (a + f.1) f.2) s2
  let gone (i : Item) : Bool := mine.any (fun j => j.seq == i.seq)
  let k1 := s3.core c
  let k2 : Core := { k1 with
    items := (k1.items.filter (fun i => !gone i)).map (fun i => if i.owner = x then { i with owner := savedOwner area x } else i)
    saved := k1.saved ++ mine.map (fun i => { i with running := false, owner := savedOwner area x, pages := [], carry := [] })
    tiles := SMap.mapVals (fun _ t => if t.ownedBy x then { t with owner := .area a } else t) k1.tiles
    slots := SMap.mapVals (fun _ (v : VSlot) => if v.owner = some x then {} else v) k1.slots
    arc := if k1.arc.owner = some x then { k1.arc with owner := none, prog := {}, wb := [], seed := 0 } else k1.arc }
  let t := s3.ctx c x
  let k3 := { k2 with ctxs := SMap.set k2.ctxs x { t with async := [], failed := [], prog := { t.prog with hold := some .ended } }
                      savedCtxs := SMap.set k2.savedCtxs x
                        { stage := t.stage, async := t.async, bars := t.bars, recorded := (s.recordedGroups c x).take 4 } }
  (s3.setCore c k3).addEvent { kind := 2, core := c, ctx := x, d1 := area, d2 := 0, d3 := 0 }

/-- The checks of an area's address and pages (R356, R359). -/
def State.withArea (s : State) (q : Seqr) (a : DWord) (w : Bool) (k : List Page → State → Res) : Res :=
  if a.toNat % 4096 ≠ 0 then .trap .align a
  else match areaPages q.core (a.toNat + areaLen - 1) w 16 s a.toNat with
    | .trap c v => .trap c v
    | .noMemory => .stop .noMemory
    | .pages ps s1 => k ps s1

/-- `CSAVE` (R356). -/
def execCsave (a : Reg) (s : State) : Out :=
  issue s 1 .any fun q s =>
    s.ready q [srcS a] []
      (let v := s.getS q a
       if !(s.thread q).modeM then .trap .illegal (s.pcOf q)
       else s.withArea q v true fun ps s => .whole (s.holdOn q (.csave v ps)))

/-! ### `CREST` (R284, R359) -/

/-- A doubleword of an area. -/
def State.areaDw (s : State) (ps : List Page) (a : DWord) (off : Nat) : Nat := natOfBytes (s.readVa ps (a.toNat + off) 8)

/-- The header names this device's kind of area and the executing context (R357, R359). -/
def State.areaOk (s : State) (ps : List Page) (a : DWord) (c x : Nat) : Bool :=
  let d0 := s.areaDw ps a 0
  let d1 := s.areaDw ps a 8
  d0 % 2 ^ 32 == 0x53585443 && d0 / 2 ^ 32 % 2 ^ 16 == 1
    && d1 % 2 ^ 8 == c && d1 / 2 ^ 8 % 2 ^ 8 == x && d1 / 2 ^ 16 % 2 ^ 14 == (s.core c).asid

/-- `CREST` (R359): the checks in order, then the restore, which may wait. -/
def execCrest (a : Reg) (s : State) : Out :=
  issue s 1 .any fun q s =>
    s.ready q [srcS a] []
      (let v := s.getS q a
       if !(s.thread q).modeM then .trap .illegal v
       else s.withArea q v false fun ps s =>
         if s.areaOk ps v q.core (s.ownerCtx q) then .whole (s.holdOn q (.crest v ps)) else .trap .illegal v)

/-- The tiles that an area records (R357). -/
def State.areaTiles (s : State) (ps : List Page) (a : DWord) : List Nat :=
  (List.range 8).filter (fun n => (s.areaDw ps a 16).testBit (8 + n))

/-- The command records of an area (R357, R358). -/
def State.areaRecords (s : State) (ps : List Page) (a : DWord) : List (List Byte) :=
  (List.range (min 384 (s.areaDw ps a 16 / 2 ^ 32 % 2 ^ 9))).map (fun k => s.readVa ps (a.toNat + 0x1000 + 256 * k) 256)

/-- Each queue that takes a restored item again holds its 64 entries with them, or nothing yet (R131; DESIGN CHOICE, log entry 74). -/
def Core.roomFor (k : Core) (recs : List (List Byte)) : Bool :=
  let qs := recs.map (fun bs => natOfBytes ((bs.drop 8).take 1))
  qs.all (fun b => decide (k.inQueue b + (qs.filter (· == b)).length ≤ 64) || decide (k.inQueue b = 0))

/-- The restore may go on: no result is in flight, each spilled tile can be acquired, as `MX.ACQ` would, the queues have room for the items, each
running program has a free slot (R131, R284, R359). -/
def State.restoreReady (s : State) (c x : Nat) (a : DWord) (ps : List Page) : Bool :=
  let d2 := s.areaDw ps a 16
  s.drained (.thread c x) && (s.ctx c x).accs.isEmpty
    && (s.areaTiles ps a).all (fun n => match (s.tile c n).owner with
        | .ctx y => y == x && !(s.tile c n).ending
        | _ => true)
    && !s.pinsStall c (s.peekPages c ((((s.core c).saved.filter (fun i => i.owner == savedOwner a x)).map (fun i => i.foot)).flatten))
    && (s.core c).roomFor (s.areaRecords ps a)
    && (forkOf d2 != .running || (s.freeSlot c).isSome)
    && (forkOf (d2 / 4) != .running || (s.arc c).owner.isNone)

/-- What restoring the tiles comes to. -/
inductive Restored where
  | ok (s : State)
  | trap (c : Cause) (v : DWord)
  | noMemory

/-- Restore the recorded tiles (R284): one still owned by the area returns as it is; a spilled one is acquired, another area's
tile being spilled first, and refilled. -/
def State.restoreTiles (c x : Nat) (a : DWord) (ps : List Page) : List Nat → State → Restored
  | [], s => .ok s
  | n :: r, s =>
    let t := s.tile c n
    let refill (s : State) : State := s.setTile c n (tileOfImage (s.readVa ps (tileSlot a.toNat n) tileImageLen) (.ctx x))
    match t.owner with
    | .area b =>
      if b = a.toNat then State.restoreTiles c x a ps r (s.setTile c n { t with owner := .ctx x })
      else match s.spill c n b with
        | .pages _ s1 => State.restoreTiles c x a ps r (refill s1)
        | .trap f v => .trap f v
        | .noMemory => .noMemory
    | _ => State.restoreTiles c x a ps r (refill s)

/-- The step of a nest at the counters of a progress field (R358). -/
def nestProgress (f : Nat) (counts : List Nat) : Nat :=
  (counts.foldl (fun (e : Nat × Nat × Nat) n => (e.1 + f / 2 ^ (18 * e.2.2) % 2 ^ 18 * e.2.1, e.2.1 * n, e.2.2 + 1)) (0, 1, 0)).1

/-- What a record's command is, from the words of its instruction; `v` is the scalar operand that no record holds. -/
def kindOfRecord (kind mop d : Nat) (v : DWord) : ItemKind :=
  match kind, mop with
  | 1, _ => .sig 0
  | 2, _ => .waitf 0 0
  | _, 0xD1 => .mxGo d
  | _, 0xD5 => .mxZero d
  | _, 0xD6 => .mxOut d
  | _, 0xD9 => .flowSend (v.toNat % 4096)
  | _, 0xDA => .flowRecv (v.toNat % 4096)
  | _, 0xDD => .msgSend
  | _, 0xDE => .msgPost
  | _, m => .copy (m % 16)

/-- An item of which the machine kept nothing (its core was reset after the save): the record's words and handles, and free values for what no
field of the record holds, the scalar operands `v` and `w` and the thread's `frm` at the push `m`, which is the mode where RM of word 1 is
dynamic (R26, R358; DESIGN CHOICE, log entry 35). -/
def bareItem (bs : List Byte) (x : Nat) (v w m : DWord) : Item :=
  let n (o k : Nat) : Nat := natOfBytes ((bs.drop o).take k)
  let hs := [48, 80, 112].map (fun o => handleOf (BitVec.ofNat 256 (n o 32)))
  let gs := (hs.map Handle.spadGranules).flatten
  { seq := n 0 8, queue := n 8 1, prio := n 10 1, owner := x, words := [0, 0, 0, 0], x := v
    y := if n 35 1 = 0xC8 then BitVec.ofNat 64 (n 34 1 / 4) else w
    rm := Rm.resolve (LW.ofWord (BitVec.ofNat 32 (n 36 4))).rm (m.setWidth 3)
    kind := kindOfRecord (n 9 1) (n 35 1) (n 34 1 / 4) v
    foot := (hs.map (fun h => h.ranges true true)).flatten, reads := gs, writes := gs }

/-- The item that a record holds (R358), with what the machine kept beside it. -/
def itemOfRecord (bs : List Byte) (saved : List Item) (x : Nat) (v w m : DWord) : Item :=
  let n (o k : Nat) : Nat := natOfBytes ((bs.drop o).take k)
  let seq := n 0 8
  let kept : Item := (saved.find? (fun i => i.seq == seq)).getD (bareItem bs x v w m)
  let words := (List.range kept.words.length).map (fun k => BitVec.ofNat 32 (n (32 + 4 * k) 4))
  let f := n 16 16
  let nest : SMap NestRec := (List.range 7).map (fun l => (l, { w0 := BitVec.ofNat 32 (n (144 + 16 * l) 4)
                                                                w1 := BitVec.ofNat 32 (n (148 + 16 * l) 4)
                                                                w2 := BitVec.ofNat 32 (n (152 + 16 * l) 4)
                                                                w3 := BitVec.ofNat 32 (n (156 + 16 * l) 4) }))
  let base := { kept with
    queue := n 8 1, prio := n 10 1, flags := BitVec.ofNat 8 (n 11 1), words := words, owner := x
    hd := BitVec.ofNat 256 (n (if kept.kind.handleInB then 112 else 48) 32)
    ha := BitVec.ofNat 256 (n (if kept.kind.handleInB then 48 else 80) 32)
    hb := BitVec.ofNat 256 (n (if kept.kind.handleInB then 80 else 112) 32) }
  match kept.kind with
  | .sig _ => { base with kind := .sig (n 16 8) }
  | .waitf _ _ => { base with kind := .waitf (n 16 8) (n 24 8) }
  | .mxGo t0 =>
    let counts := (nestOf nest t0 (handleOf base.ha) (handleOf base.hb)).counts
    { base with nest := nest, progress := nestProgress f counts }
  | _ => { base with progress := f }

/-- The numbers of the items that wait for one, by their edges, at once or through others. -/
def waitersOf (items : List Item) (seq : Nat) : Nat → List Nat
  | 0 => []
  | n + 1 =>
    let w := waitersOf items seq n
    (items.filter (fun j => j.edges.any (fun e => e.to_ == seq || w.contains e.to_))).map (fun j => j.seq)

/-- The edges of a restored item: those that it had keep standing, and it takes one to every item then queued or running, but for those
that already wait for it (R132, R252; DESIGN CHOICE, log entry 72). -/
def Core.restoredEdges (k : Core) (i : Item) : List Edge :=
  let w := waitersOf k.items i.seq k.items.length
  let new := edgesTo (k.items.filter (fun j => !w.contains j.seq)) i.reads i.writes
  i.edges ++ new.filter (fun e => !i.edges.contains e)

/-- Re-queue a restored item (R359): its footprint is translated and pinned, or it is to fail with the fault; it takes its edges (R132). A
range that it reads and writes counts as written, as at its push (R250). A failure that it was to carry stays (R253). -/
def State.requeue (s : State) (c : Nat) (i : Item) : State :=
  let add (s : State) (i : Item) : State :=
    let k := s.core c
    s.setCore c { k with items := k.items ++ [{ i with edges := k.restoredEdges i, asid := k.asid }]
                         saved := k.saved.filter (fun j => j.seq != i.seq) }
  match walkFoot c i.foot (pageBound i.foot) s 0 with
  | .pages ps s1 =>
    let own (gs : List Granule) : List Granule := gs.filter (fun g => g.space != .global)
    add (s1.pin c ps) { i with pages := ps, reads := own i.reads ++ rngGranules ps (i.foot.filter (fun g => g.r && !g.w))
                               writes := own i.writes ++ rngGranules ps (i.foot.filter (fun g => g.w)) }
  | .trap f _ => add s { i with failing := i.failing <|> some f }
  | .noMemory => add s { i with failing := i.failing <|> some .xlate }

/-- A `b` register of an area: bits 31:17 and 1:0 read zero (R10). -/
def bOfArea (n : Nat) : BitVec 32 := BitVec.ofNat 32 (n % 2 ^ 17 / 4 * 4)

/-- A program's context as an area records it, its pending transfer armed (R102, R357, R359). -/
def State.progOfArea (s : State) (ps : List Page) (a : DWord) (off : Nat) : Prog :=
  let dw (o : Nat) : DWord := BitVec.ofNat 64 (s.areaDw ps a (off + o))
  ({ loops := loopsOf (s.readVa ps (a.toNat + off + 0x240) 64)
     s := (List.range 64).map (fun r => (r, dw (8 * r)))
     b := (List.range 8).map (fun r => (r, bOfArea (s.areaDw ps a (off + 0x200 + 8 * r)))) } : Prog).resume true (dw 0x280)
    ((forkXfer (dw 0x288)).map (wholeDest (dw 0x280)))

/-- A standing arrival of which the machine kept nothing, as the group table shows it: released where its generation has completed (R124, R359;
DEDUCED, log entry 73). -/
def State.barNow (s : State) (b : Bar) : Bar :=
  let open_ := (s.group b.gid).map (fun g => g.gen)
  { b with
    arrived := open_ == some b.gen
    released := b.released || (match open_ with
      | none => true
      | some g => g != b.gen && genNext g != b.gen) }

/-- A group record of an area as a standing arrival, none where it has none (R357, R359). -/
def barOf (bs : List Byte) : Option Bar :=
  let w := natOfBytes (bs.take 4)
  if w.testBit 18 then
    some { gid := w % 2 ^ 16, gen := natOfBytes ((bs.drop 4).take 4), arrived := true, released := w.testBit 19 }
  else none

/-- The fields of doubleword 1 of `vfr` and `afr`; the bits beside them read zero, SLOT of `afr` too (R167, R305). -/
def faultMask : DWord := 0x1FFFFFFFFFFFC

/-- The thread's state as an area records it (R357, R359): the registers, FIFOs, loops, groups, nest table and monitor record; the
context is at level M, with the thread's own registers set aside. -/
def State.ctxOfArea (s : State) (ps : List Page) (a : DWord) (t : Ctx) : Ctx :=
  let dwn (o : Nat) : Nat := s.areaDw ps a o
  let dw (o : Nat) : DWord := BitVec.ofNat 64 (dwn o)
  let creg (n : Nat) : DWord := dw (0x500 + 8 * n)
  let mrec (n : Nat) : DWord := dw (0x5A0 + 8 * n)
  let bytes (o n : Nat) : List Byte := s.readVa ps (a.toNat + o) n
  let d2 := dwn 16
  { t with
    prog := { t.prog with
      s := (List.range 56).foldl (fun m r => SMap.set m r (dw (0x40 + 8 * r))) t.prog.s
      b := (List.range 6).foldl (fun m r => SMap.set m r (bOfArea (dwn (0x440 + 8 * r)))) t.prog.b
      sEmpty := dw 0x600 &&& ~~~1#64, pend := none }
    bankS := [56, 57, 58, 59, 60, 61, 62, 63].map (fun r => (r, dw (0x40 + 8 * r)))
    bankB := [6, 7].map (fun r => (r, bOfArea (dwn (0x440 + 8 * r))))
    h := (List.range 16).map (fun r => (r, BitVec.ofNat 256 (natOfBytes (bytes (0x240 + 32 * r) 32))))
    hEmpty := BitVec.ofNat 16 (dwn 0x608), vEmpty := dw 0x610
    v := (List.range 64).map (fun r => (r, BitVec.ofNat 8192 (natOfBytes (bytes (0x19000 + 1024 * r) 1024))))
    prio := min 11 (creg 3).toNat, frm := (creg 4).setWidth 3, fsr := creg 5 &&& 0xFF, fte := creg 6 &&& 0xFF
    modeM := true, modeH := (creg 7).getLsbD 1, modeRev := (creg 7).getLsbD 0
    tvec := creg 8, tcause := creg 9 &&& 0xFF, tval := creg 0xA, tpc := creg 0xB, tstate := creg 0xC &&& xferMask
    tapebase := creg 0xD, tapelim := creg 0xE, tapeptr := creg 0xF, pinquota := creg 0x10, tseed := creg 0x11
    cycleBase := s.now - (creg 0x12).toNat, instret := creg 0x13
    mcause := mrec 0 &&& 0xFF, mval := mrec 1, mpc := mrec 2, mstate := mrec 3 &&& xferMask, mmode := mrec 4 &&& 3
    asideM := loopsOf (bytes 0x480 64), asideH := loopsOf (bytes 0x4C0 64)
    fifos := (List.range 4).map (fun n => (n, { tokens := (List.range (min 16 (dwn (0x700 + 144 * n)))).map (fun k =>
      dw (0x710 + 144 * n + 8 * k)) }))
    forkV := forkOf d2, forkA := forkOf (d2 / 4)
    vfr := ⟨dw 0x620, dw 0x628 &&& faultMask⟩, afr := ⟨dw 0x630, dw 0x638 &&& faultMask &&& ~~~0x60000000⟩
    bars := (List.range 4).filterMap (fun n => barOf (bytes (0x640 + 16 * n) 16))
    nest := (List.range 7).map (fun l => (l, { w0 := (dw (0x680 + 16 * l)).setWidth 32, w1 := (dw (0x684 + 16 * l)).setWidth 32
                                               w2 := (dw (0x688 + 16 * l)).setWidth 32, w3 := (dw (0x68C + 16 * l)).setWidth 32 }))
    failed := (List.range (min 384 (dwn 0x5C8))).map (fun n => dwn (0xD9400 + 8 * n)) }

/-- The forked programs that ran are in slots again (R359). -/
def State.refork (s : State) (c x : Nat) (ps : List Page) (a : DWord) : State :=
  let t := s.ctx c x
  let s1 := if t.forkV = .running then match s.freeSlot c with
      | some n => s.setSlot c n { owner := some x, prog := s.progOfArea ps a 0x940 }
      | none => s
    else s
  if t.forkA = .running then
    let w (r o : Nat) : Word := BitVec.ofNat 32 (natOfBytes (s1.readVa ps (a.toNat + 0x29000 + 8 * r + o) 4))
    s1.setArc c { s1.arc c with
      owner := some x, prog := s.progOfArea ps a 0xC40
      wb := (List.range 4).map (fun r => (r, BitVec.ofNat 64 (s.areaDw ps a (0xC40 + 0x298 + 8 * r) % 2 ^ 13)))
      seed := BitVec.ofNat 64 (s.areaDw ps a (0xC40 + 0x2B8))
      pv := (List.range 8192).map (fun r => (r, w r 0)), pa := (List.range 8192).map (fun r => (r, w r 4)) }
  else s1

/-- Causes pending at a save are pending again, but for one that has become pending in the context meanwhile and stands once alone (R347,
R355). -/
def mergeAsync (kept now_ : List AsyncCause) : List AsyncCause :=
  kept ++ now_.filter (fun a => !((a.cause == .preempt || a.cause == .timer) && kept.any (fun b => b.cause == a.cause)))

/-- The arrivals of a restored context: those of its records, with what has come of them since the save, then those that had no record
(R124, R357, R359). -/
def State.barsNow (s : State) (kept : SavedCtx) (recs : List Bar) : List Bar :=
  recs.map (fun b => match kept.bars.find? (fun y => y.gid == b.gid && y.gen == b.gen) with
    | some y => { b with arrived := y.arrived, released := b.released || y.released }
    | none => s.barNow b) ++ kept.bars.filter (fun y => !kept.recorded.contains y.gid)

/-- What the machine kept of the saved context is the restored one's again: its posted receives, the failures that came meanwhile,
its stage, its pending causes and its arrivals. -/
def State.claimPosts (s : State) (c x : Nat) (a : DWord) : State :=
  let o := savedOwner a x
  let k := s.core c
  let t := s.ctx c x
  let s1 := s.setCore c { k with
    items := k.items.map (fun i => if i.owner = o then { i with owner := x } else i)
    saved := k.saved.filter (fun i => i.owner != o)
    lateFails := SMap.erase k.lateFails o, savedCtxs := SMap.erase k.savedCtxs x }
  let kept := SMap.get {} k.savedCtxs x
  s1.setCtx c x { t with failed := t.failed ++ SMap.get [] k.lateFails o, stage := kept.stage
                         async := mergeAsync kept.async t.async, bars := s.barsNow kept t.bars }

/-- The restore itself, up to the return (R359). -/
def State.restoreCtx (s : State) (c x : Nat) (a : DWord) (ps : List Page) : Restored :=
  match State.restoreTiles c x a ps (s.areaTiles ps a) (s.setCtx c x (s.ctxOfArea ps a (s.ctx c x))) with
  | .ok s1 =>
    let bs := s1.areaRecords ps a
    let recs := bs.mapIdx (fun k r => itemOfRecord r (s1.core c).saved x
      (Config.freeWord (s1.draws + 3 * k)) (Config.freeWord (s1.draws + 3 * k + 1)) (Config.freeWord (s1.draws + 3 * k + 2)))
    let s2 := recs.foldl (fun s i => s.requeue c i) { s1 with draws := s1.draws + 3 * bs.length }
    let s3 := (s2.refork c x ps a).claimPosts c x a
    .ok (s3.satisfyWaits (s3.core c).items.length c)
  | r => r

end Sys2Proof.Machine
end

