-- ==== Sys2Proof/Machine/Sched.lean ====
section
/-! DEFINITION. The issue choices of the control core and of the vector engine (R129, R130) and what a clock
brings: time moves on, and the agenda of the clock is laid out. -/

namespace Sys2Proof.Machine

/-- The program may issue apart from what its next instruction needs: it is live or running, its logical core is
resident, it is not held, ending or in trap entry (R103, R107, R129). That a clock in which its core is not resident is one in which a thread
could not issue is the model's reading (DESIGN CHOICE, log entry 78). A forked program also stops at its boundary for a save of its thread
and at the end of a slice (R107, R354, R356). -/
def State.mayIssue (s : State) (q : Seqr) : Bool :=
  let p := s.prog q
  p.hold.isNone && p.trapping.isNone && !p.ending && !s.away.contains q.core && !s.board.stopped &&
  (match q with
   | .thread c x => (s.ctx c x).live
   | .vec c k => (s.slot c k).owner.isSome && !(s.thread q).saving && !s.sliceOver c
   | .arc c => (s.arc c).owner.isSome && !(s.thread q).saving && !s.sliceOver c)

/-- A candidate of the issue choice: context, priority, stamp and wait (R129). -/
structure Cand where
  ctx   : Nat
  prio  : Nat
  stamp : Nat
  wait  : Nat
  deriving DecidableEq, Repr

/-- The oldest stamp wins, ties to the lowest context number (R129). -/
def older (a b : Cand) : Cand :=
  if b.stamp < a.stamp ∨ (b.stamp = a.stamp ∧ b.ctx < a.ctx) then b else a

/-- The choice of R129 among the threads that can issue. -/
def chooseThread (e : List Cand) : Option Cand :=
  let top := e.foldl (fun m c => max m c.prio) 0
  match e.filter (fun c => decide (c.prio = top) || decide (65536 ≤ c.wait)) with
  | [] => none
  | c :: r => some (r.foldl older c)

/-- Stamps and waits after a clock: a thread that became able to issue takes the clock as its stamp (R129), at its core's return to residence too
(DESIGN CHOICE, log entry 78). -/
def State.noteAble (s : State) (core : Nat) (able : List Nat) : State :=
  let k := s.core core
  s.setCore core { k with ctxs := SMap.mapVals (fun x t =>
    if able.contains x then (if t.could then t else { t with could := true, stamp := s.now })
    else { t with could := false }) k.ctxs }

/-- The chosen thread's stamp and wait restart; the others that could issue wait one clock more (R129). -/
def State.noteIssue (s : State) (core : Nat) (able : List Nat) (chosen : Nat) : State :=
  let k := s.core core
  s.setCore core { k with ctxs := SMap.mapVals (fun x t =>
    if x = chosen then { t with stamp := s.now, wait := 0 }
    else if able.contains x then { t with wait := t.wait + 1 } else t) k.ctxs }

/-- The candidates of a core. -/
def State.cands (s : State) (core : Nat) (able : List Nat) : List Cand :=
  able.map (fun x => let t := s.ctx core x; ⟨x, t.prio, t.stamp, t.wait⟩)

/-- ISSUE_SELECT: the control core of a logical core makes its choice next (R129). -/
def execIssueSelect (s : State) : Out := .next { s with agenda := .select s.target.core :: s.agenda }
/-- VECTOR_ISSUE_SELECT: the vector engine of a logical core makes its choice next (R130). -/
def execVectorIssueSelect (s : State) : Out := .next { s with agenda := .vselect s.target.core :: s.agenda }

/-- The slot the vector engine issues from: rotation from `ptr` over the slots that can issue (R130). -/
def chooseSlot (ptr : Nat) (can : Nat → Bool) : Option Nat :=
  ([0, 1, 2, 3].map (fun j => (ptr + j) % 4)).find? can

/-- A core event with a unit and a number. -/
def evAt (i : Instr) (core unit id : Nat) : Turn := .event i { core := core, unit := unit, id := id }

/-- The long-latency results of a slot that land in this clock at the latest, 96 clocks after issue (R162). -/
def VSlot.overdue (v : VSlot) (now : Nat) : List Nat :=
  (v.results.filter (fun r => r.long && decide (r.due + 76 ≤ now))).map (fun r => r.reg)

/-- What every clock brings to the control core of a logical core, in this order; an event whose condition does not hold does nothing. -/
def State.controlTurns (s : State) (core : Nat) : List Turn :=
  ((SMap.keys (s.core core).ctxs).map (fun x => [evAt .holdCountExpiry core x 0, evAt .sleepTimeout core x 0, evAt .trapEntry core x 0,
      evAt .asyncCauseTaken core x 0, evAt .waitRelease core x 0, evAt .tokenDelivery core x 0, evAt .tokenDelivery core x 1,
      evAt .tokenDelivery core x 2, evAt .tokenDelivery core x 3])).flatten
  ++ evAt .launchTake core 0 0 :: (List.range 6).map (fun u => evAt .commandStart core u 0)
  ++ [evAt .issueSelect core 0 0]

/-- What every clock brings to the vector engine: the results that land before it issues, whose flags join `fsr` after the control core's
`MTC` (R165). -/
def State.vectorTurns (s : State) (core : Nat) : List Turn :=
  ((SMap.keys (s.core core).slots).map (fun v => evAt .vectorResultWrite core v 0
      :: ((s.slot core v).overdue s.now).map (fun r => evAt .vectorLongResult core v r)
      ++ [evAt .holdCountExpiry core (24 + v) 0, evAt .vectorTrap core v 0, evAt .programEnd core v 0])).flatten
  ++ [evAt .vectorIssueSelect core 0 0]

/-- What every clock brings to the Arcade. -/
def arcadeTurns (core : Nat) : List Turn :=
  [evAt .arcadeResultsLand core 0 0, evAt .aspLdFill core 0 0, evAt .holdCountExpiry core 28 0, evAt .arcadeTrap core 0 0,
    evAt .programEnd core 4 0, .issue (.arc core)]

/-- The events of the host, of firmware and of the links, which need no running core. -/
def hostEvent : Instr → Bool
  | .hello | .launch | .setasid | .preempt | .restore | .mailboxReply | .eventPost | .eqtailWrite | .registerWrite
  | .hostWindowRead | .hostWindowWrite | .recoveryWindowWrite | .warmReset | .coldReset | .firmwareUpdate
  | .attestationRequest | .deviceIdSet | .powerCapSet | .powerCapThrottle | .thermalThrottle | .thermalShutdown
  | .portTrain | .flitCrcError | .portDown | .hostLinkTrain | .scrub => true
  | _ => false

/-- The events of the cores, their engines and the mesh whose time the spec leaves open. -/
def coreEvent : Instr → Bool
  | .tokenDelivery | .trapEntry | .launchTake | .programEnd | .sigComplete | .vectorResultWrite
  | .vectorLongResult | .vectorTrap | .qgetFill | .streamUnitWrite | .loadPerform | .storePerform | .gamoPerform
  | .ldlLineWrite | .adjCellPerform | .translationEvict | .copyBlock | .commandRetire | .commandFail | .tileAutoRelease
  | .matrixStep | .mxOutRow | .arcadeResultsLand | .arcadeTrap | .flowAutoRemove | .chunkInject | .flowPacketArrive
  | .flowCreditArrive | .deliveryWrite | .completionRecordWrite | .messageRequestArrive | .receivePost | .goArrive
  | .nackArrive | .digestLands | .asyncCauseTaken | .timer | .timeSliceSwitch | .sleepTimeout | .holdCountExpiry
  | .waitRelease | .uncorrectableError | .removalNoticeArrive | .aspLdFill | .monitorPreemptRequest => true
  | _ => false

/-- The place in the service order of R195 of the scratchpad access that an event makes: 1 to 3 the control core, the vector engine and the
Arcade, 4 the matrix engine, 5 to 8 the copy engines by number, 9 the landing's deliveries, and with them what a send reads (log entry 7);
0 of an event without one. -/
def State.servicePlace (s : State) (e : Instr × Target) : Nat :=
  match e.1 with
  | .ldlLineWrite | .waitRelease => 1
  | .aspLdFill => 3
  | .holdCountExpiry => if e.2.unit = 28 then 3 else 0
  | .qgetFill =>
    let of (q : Seqr) : Nat := match q with
      | .thread _ _ => 1
      | .vec _ _ => 2
      | .arc _ => 3
    match (s.stream e.2.core e.2.unit).claims.find? (fun x => x.id == e.2.id) with
    | some x => of x.owner
    | none => 1
  | .matrixStep | .mxOutRow => 4
  | .copyBlock | .streamUnitWrite => 4 + min 4 ((s.item e.2.core e.2.id).map Item.queue |>.getD 1)
  | .chunkInject | .deliveryWrite | .completionRecordWrite => 9
  | _ => 0

/-- The events of a list that have places from 4 on stand in the order of their places, where such events stand; the others stay as they
are. -/
def refill (ranked : Instr × Target → Bool) : List (Instr × Target) → List (Instr × Target) → List (Instr × Target)
  | e :: l, x :: xs => if ranked e then x :: refill ranked l xs else e :: refill ranked l (x :: xs)
  | l, _ => l

/-- A clock passes: time moves on, and the agenda is what the clock brings to every logical core that has state, control core, vector
engine, Arcade, followed by the events whose time the spec leaves open, taken from the free values (log entry 7). The scratchpad accesses
of a clock stand in the service order of R195. -/
def State.tick (s : State) : State :=
  let s := { s with now := s.now + 1, stalled := false }
  let cs := if s.board.stopped then [] else SMap.keys s.cores
  let es := (Config.freeEvents s.draws).filter (fun e => hostEvent e.1 || (coreEvent e.1 && !s.board.stopped))
  let at_ (p : Nat) : List (Instr × Target) := es.filter (fun e => s.servicePlace e == p)
  let turns (l : List (Instr × Target)) : List Turn := l.map (fun e => Turn.event e.1 e.2)
  let engines := ([4, 5, 6, 7, 8, 9].map at_).flatten
  let rest := es.filter (fun e => s.servicePlace e == 0 || decide (4 ≤ s.servicePlace e))
  { s with
    agenda := turns (at_ 1) ++ (cs.map s.controlTurns).flatten ++ turns (at_ 2) ++ (cs.map s.vectorTurns).flatten
      ++ turns (at_ 3) ++ (cs.map arcadeTurns).flatten ++ turns (refill (fun e => decide (4 ≤ s.servicePlace e)) rest engines)
    draws := s.draws + 1 }

end Sys2Proof.Machine
end

