-- ==== Sys2Proof/Machine/System.lean ====
section
/-! DEFINITION. `SLEEP` and `TLB.INV` (R361, R363), the release of threads that wait (R9), the causes that firmware and the
monitor raise (R355), the time-slice switch (R107), event records (R376) and soft errors (R364, R365). -/

namespace Sys2Proof.Machine

/-! ### `SLEEP` (R363) -/

/-- `SLEEP` (R363): it retires, then the thread sleeps; all ones sleeps without a limit, 0 does not sleep. -/
def execSleep (a : Reg) (s : State) : Out :=
  issue s 1 .any fun q s =>
    s.ready q [srcS a] []
      (let v := s.getS q a
       let s1 := finish q s 1 (.retire s)
       if v = 0 then .whole s1
       else .whole (s1.holdOn q (.sleep (if v = allOnes64 then none else some (s.now + v.toNat)))))

/-- SLEEP_TIMEOUT: a sleep's clocks have passed (R363): core, context. -/
def execSleepTimeout (s : State) : Out :=
  let q := Seqr.thread s.target.core s.target.unit
  let p := s.prog q
  match p.hold with
  | some (.sleep (some t)) => if t ≤ s.now then .next (s.setProg q { p with hold := none }) else .next s
  | _ => .next s

/-! ### `TLB.INV` (R361) -/

/-- The entries that a `TLB.INV` names (R361). -/
def tlbMatch (asid : Nat) (a b : DWord) (e : TlbEntry) : Bool :=
  match b.toNat % 4 with
  | 0 => e.asid == asid && decide (e.base ≤ a.toNat) && decide (a.toNat < e.base + e.size)
  | 1 => e.asid == a.toNat % 2 ^ 14
  | _ => true

/-- Remove the matching entries that no command pins, from every translation cache (R361, R221). -/
def State.tlbDrop (s : State) (asid : Nat) (a b : DWord) : State :=
  { s with tlbs := SMap.mapVals (fun _ es => es.filter (fun e => !(tlbMatch asid a b e && e.pins == 0))) s.tlbs }

/-- A matching entry is still there. -/
def State.tlbHeld (s : State) (asid : Nat) (a b : DWord) : Bool := s.tlbs.any (fun t => t.2.any (tlbMatch asid a b))

/-- `TLB.INV` (R361): it holds the thread until every matching entry has gone. R361 names no trap for a selector a with bits above the
ASID's; that such an a traps ILLEGAL with `tval` = a is a DESIGN CHOICE (log entry 60). -/
def execTlbInv (a b : Reg) (s : State) : Out :=
  issue s 1 .any fun q s =>
    s.ready q [srcS a, srcS b] []
      (let x := s.getS q a
       let y := s.getS q b
       if !(s.thread q).modeM then .trap .illegal (s.pcOf q)
       else if 3 ≤ y.toNat then .trap .illegal y
       else if y = 1 ∧ 2 ^ 14 ≤ x.toNat then .trap .illegal x
       else
         let asid := (s.core q.core).asid
         let s1 := s.tlbDrop asid x y
         if s1.tlbHeld asid x y then .whole (s1.holdOn q (.tlbInv x y)) else .retire s1)

/-! ### The release of waiting threads (R9) -/

/-- The held instruction retires, with the state its completion leaves. -/
def State.releaseWith (s : State) (q : Seqr) (f : State → State) : State :=
  let s1 := s.setProg q { s.prog q with hold := none }
  finish q s1 1 (.retire (f s1))

/-- The restore, then the return from the monitor record (R349, R359). -/
def State.restoreAndReturn (s : State) (c x : Nat) (a : DWord) (ps : List Page) : Out :=
  let q := Seqr.thread c x
  let p := s.prog q
  let s0 := s.setProg q { p with hold := none }
  match s0.restoreCtx c x a ps with
  | .trap f v => .next (s0.raise q ⟨f, v, p.pc, p.pend⟩)
  | .noMemory => .fault .noMemory
  | .ok s1 =>
    let t := s1.ctx c x
    if xferInvalid t.mstate then .next (s1.raise q ⟨.illegal, p.pc, p.pc, p.pend⟩)
    else if t.returnSwitches then .next ((s1.setCtx c x t.beginReturn).holdOn q .tret)
    else .next (s1.setCtx c x (t.doReturn s1.now))

/-- WAIT_RELEASE: a thread that an instruction holds on a condition goes on once the condition holds (R9): core, context. -/
def execWaitRelease (s : State) : Out :=
  let c := s.target.core
  let x := s.target.unit
  let q := Seqr.thread c x
  let t := s.ctx c x
  let k := s.core c
  if s.away.contains c then .next s
  else match t.prog.hold with
  | some (.fence scope) => .next (if t.fenceDone scope then s.releaseWith q (fun s => s.fencePass q scope) else s)
  | some (.barrier gid reg) => match t.bars.find? (fun b => b.gid == gid) with
    | some b => .next (if b.released then s.releaseWith q (fun s => s.finishBar q gid reg b) else s)
    | none => .next s
  | some (.tapeSet b l) =>
    .next (if t.tapePending then s else s.releaseWith q (fun s => s.setThread q ((s.thread q).newTape b l)))
  | some (.modeSwitch rev) =>
    .next (if s.modeReady q then s.releaseWith q (fun s => s.setThread q { s.thread q with modeRev := rev }) else s)
  | some .tret =>
    .next (if s.modeReady q then s.setCtx c x ({ t with prog := { t.prog with hold := none } }.endReturn s.now) else s)
  | some (.tileRel n) => .next (if k.tileReached x n then s else s.releaseWith q (fun s => s.releaseTile c n))
  | some (.tileShape n r l) => .next (if k.tileReached x n then s else s.releaseWith q (fun s => s.shapeTile c n r l))
  | some (.flowUnload reg fs) =>
    .next (if fs.all s.flowIdle then
      s.releaseWith q (fun s => let s1 := fs.foldl State.removeFlow s; s1.setProg q ((s1.prog q).setS reg 0)) else s)
  | some (.dchk reg src area) =>
    .next (if s.dchkReady c area.toNat then s.releaseWith q (fun s => s.dchkCompare q reg src area.toNat) else s)
  | some (.tlbInv a b) =>
    let s1 := s.tlbDrop k.asid a b
    .next (if s1.tlbHeld k.asid a b then s1 else s1.releaseWith q id)
  | some (.halting code fault) => .next (if s.mayEnd c x then s.endThread c x code fault else s)
  | some (.csave a ps) => .next (if s.saveReady c x then s.saveCtx c x a ps else s)
  | some (.crest a ps) => if s.restoreReady c x a ps then s.restoreAndReturn c x a ps else .next s
  | _ => .next s

/-! ### Event records (R376) -/

/-- Raise an MSI-X vector (R370). -/
def Board.raise (b : Board) (v : Nat) : Board := { b with raised := SMap.set b.raised v (SMap.get 0 b.raised v + 1) }

/-- The event queue is full (R376). -/
def Board.eqFull (b : Board) : Bool := (b.eqHead + 1) % 4096 == b.eqTail

/-- An event record's 64 bytes (R376). -/
def EventRec.bytes (e : EventRec) : List Byte :=
  bytesOfNat 8 (e.kind % 2 ^ 8 + e.core % 2 ^ 8 * 2 ^ 8 + e.ctx % 2 ^ 8 * 2 ^ 16) ++ bytesOfNat 8 e.d1.toNat
    ++ bytesOfNat 8 e.d2.toNat ++ bytesOfNat 8 e.d3.toNat ++ List.replicate 32 0

/-- EVENT_POST: the oldest record is written whole, EQHEAD advances and vector 0 is raised; a full queue holds it back (R376). An
exiting, saving or disposed context becomes free with its record. -/
def execEventPost (s : State) : Out :=
  match s.evPending with
  | [] => .next s
  | e :: r =>
    let b := s.board
    if b.eqFull then .next s
    else
      let b1 := { b with evMem := b.evMem.writeBytes (64 * b.eqHead) e.bytes, eqHead := (b.eqHead + 1) % 4096 }
      let s1 := { s with evPending := r, board := b1.raise 0 }
      .next (if e.kind = 1 ∨ e.kind = 2 ∨ e.kind = 3 then s1.freeCtx e.core e.ctx else s1)

/-! ### Causes from firmware and the monitor (R355) -/

/-- A cause becomes pending in a live context unless it is pending there already. -/
def State.postOnce (s : State) (c x : Nat) (a : AsyncCause) : State :=
  let t := s.ctx c x
  if t.live && !t.async.any (fun b => b.cause == a.cause) then s.post c x a else s

/-- PREEMPT becomes pending with a reason: 1 the host, 2 a time-slice switch, 3 another context's monitor (R355). -/
def State.postPreempt (s : State) (c x reason : Nat) : State := s.postOnce c x ⟨.preempt, BitVec.ofNat 64 reason⟩

/-- MONITOR_PREEMPT_REQUEST (R355): core, context. -/
def execMonitorPreemptRequest (s : State) : Out := .next (s.postPreempt s.target.core s.target.unit 3)

/-- TIMER: the thread's `cycle` has reached the deadline that firmware set for the context (R355): core, context, the deadline in
`value`. -/
def execTimer (s : State) : Out :=
  let c := s.target.core
  let x := s.target.unit
  .next (if s.target.value.toNat ≤ s.now - (s.ctx c x).cycleBase then s.postOnce c x ⟨.timer, 0⟩ else s)

/-! ### Time slices (R107–R109) -/

/-- Every engine of a logical core stands at its pre-emption point (R107, R354). -/
def State.coreStill (s : State) (c : Nat) : Bool :=
  s.programsStill c (fun _ => true) && (s.core c).items.all (fun i => !s.mustEnd c i)

/-- TIME_SLICE_SWITCH: after 1,048,576 clocks the other logical core of a pair becomes resident; the outgoing one's threads take
PREEMPT, its core-wide state goes to its image region and the other's comes in, and `ptr` is 0 after it (R107, R108, R130, R355):
physical core. -/
def execTimeSliceSwitch (s : State) : Out :=
  let pc := s.target.core
  match s.sharers pc with
  | [a, b] =>
    let out := if s.away.contains a then b else a
    let in_ := if s.away.contains a then a else b
    if s.now < SMap.get 0 s.sliceAt pc + 1048576 || !s.coreStill out then .next s
    else
      let xs := SMap.keys (s.core out).ctxs
      let s1 := (xs.foldl (fun s x => s.postPreempt out x 2) s).imageOut out
      let s2 := s1.imageIn in_
      let s3 := s2.setCore in_ { s2.core in_ with vptr := 0 }
      .next { s3 with away := out :: s3.away.filter (fun c => c != in_ && c != out), sliceAt := SMap.set s3.sliceAt pc s.now }
  | _ => .next s

/-! ### Soft errors (R364, R365) -/

/-- SCRUB: a row is read and corrected, without architectural effect (R364). -/
def execScrub (s : State) : Out := .next s

/-- The sequencer of a reader that is an instruction. -/
def seqrOfReader : ErrReader → Option Seqr
  | .thread c x => some (.thread c x)
  | .vec c k => some (.vec c k)
  | .arc c => some (.arc c)
  | _ => none

/-- The next instruction of a program is to meet an uncorrectable error in what it reads: a register, or another place (R365). Its checks come
first, so the error waits at the head of the agenda. -/
def State.eccuAt (s : State) (r : ErrReader) (v : Nat) (reg : Bool) : State :=
  match seqrOfReader r with
  | none => s
  | some q => { s with agenda := .readError q v reg :: s.agenda }

/-- The code of the trap that an instruction of a program has raised, by the states before and after it: one that waits for its entry, is
reflected, or has ended the program. -/
def State.trapSeen (s s1 : State) (q : Seqr) : Option Nat :=
  match (s1.prog q).trapping with
  | some r => some r.cause.code
  | none =>
    let t := s.thread q
    let x := s.ownerCtx q
    let u := s1.ctx q.core x
    let ended (f g : ForkState) (w : FaultRec) : Option Nat :=
      if f == .running && g == .ended true then some (w.dw1.toNat / 2 ^ 21 % 256) else none
    match q with
    | .thread _ _ => match u.prog.hold with
      | some (.halting _ (some r)) => some r.cause.code
      | _ => if !t.modeM && !t.modeH && u.modeH then some u.tcause.toNat else none
    | .vec _ _ => ended t.forkV u.forkV u.vfr
    | .arc _ => ended t.forkA u.forkA u.afr

/-- The instruction of two words whose second is a latency word with a guard that does not hold, and which had no effect (R25): it reads
nothing but its guard register. -/
def State.guardedOff (s s1 : State) (q : Seqr) (v : Nat) (reg : Bool) : Bool :=
  let lw := LW.ofWord (s.iword q ((s.pcOf q).toNat + 4))
  lw.g && !guardHolds lw (s.getS q lw.greg) && !(reg && v == lw.greg.toNat) && s1 == finish q s 2 (.retire s)

/-- An instruction that reads what is damaged traps ECCU, precise (R365): `s1` is the state after it without the error. It reads nothing where it
stalls, where its guard is false, and where it traps before it reads: ILLSLOT, EMPTY, and at an address ALIGN or SPBOUND (R35, R101). -/
def State.eccuAfter (s : State) (q : Seqr) (v : Nat) (reg : Bool) (s1 : State) : State :=
  let first : List Cause := if reg then [.illslot, .empty] else [.illslot, .empty, .align, .spbound]
  if s1.stalled || (match s.trapSeen s1 q with
      | some n => first.any (fun f => f.code == n)
      | none => false) || s.guardedOff s1 q v reg then s
  else s.raise q ⟨.eccu, BitVec.ofNat 64 v, s.pcOf q, (s.prog q).pend⟩

/-- A chunk of a flow's receive fails here, which counts at its landing (R319, R327). -/
def State.noteDelivery (s : State) (c : Nat) (i : Item) (x : Cause) : State :=
  match i.kind with
  | .flowRecv f => match s.flow f with
    | some r => s.setFlow f (r.noteFail (s.landOf c) x)
    | none => s
  | _ => s

/-- A running command meets an uncorrectable error: the item fails with ECCU (R365); in a delivery the chunk fails, which its completion
record shows (R319, R325). -/
def State.eccuItem (s : State) (r : ErrReader) : State :=
  match r with
  | .item c n => match s.item c n with
    | some i =>
      if i.running && !i.finished && i.failing.isNone then
        (if i.staysPosted then (s.setItem c { i with chunkFail := i.chunkFail.or (some .eccu) }).noteDelivery c i .eccu
         else s.failItem c i .eccu)
      else s
    | none => s
  | _ => s

/-- A thread's access, or the page walk made for it, meets an uncorrectable error: ECCU becomes pending, and a load or an atomic completes
with zeros (R365). The other accesses are withdrawn: a store, a record or an add is not made, an adjoint taken from a cell is zero and the
cell stays (DESIGN CHOICE, log entry 60). -/
def State.eccuAccess (s : State) (r : ErrReader) : State :=
  match r with
  | .access c x n => match (s.ctx c x).accs.find? (fun a => a.id == n) with
    | none => s
    | some a =>
      if a.performed then s
      else
        let note (s : State) : State := s.post c x ⟨.eccu, BitVec.ofNat 64 a.va⟩
        match a.kind with
        | .ldg reg _ => note ((s.fillReg c x reg 0).finishAcc c x a 0)
        | .gamo reg _ _ _ _ _ _ _ _ => note ((s.fillReg c x reg 0).finishAcc c x a 0)
        | .adjRead _ _ _ reg => note ((s.fillReg c x reg 0).finishAcc c x a 0)
        | .ldl sp => note (s.setAcc c x { a with kind := .line sp (List.replicate 128 0), performed := true })
        | .adjTake _ fmt _ off => note ((s.giveCell c x a fmt 0 off).finishAcc c x a 0)
        | .restore _ reg v => note ((s.fillReg c x reg v).finishAcc c x a 0)
        | .mark => s
        | .line _ _ => s
        | .adjAdd _ _ _ | .stg _ _ | .stl _ | .restoreLine _ | .adjClear _ | .tapeWrite _ _ => note (s.finishAcc c x a 0)
  | _ => s

/-- A walk that a thread's instruction makes at its issue, for the footprint of a push, for a save area or for the tape, meets an
uncorrectable error: ECCU becomes pending with the address walked (R365). What the walk finds then is not stated: it goes on (DESIGN
CHOICE, log entry 60). -/
def State.eccuWalk (s : State) (r : ErrReader) (va : DWord) : State :=
  match r with
  | .thread c x => if (s.ctx c x).live then s.post c x ⟨.eccu, va⟩ else s
  | _ => s

/-- Mark packets of a list with ECCU. -/
def Pkt.damaged (p : Pkt) : Pkt := { p with fail := p.fail.or (some .eccu) }

/-- The chunk in a slot of a landing's accumulator store fails, and with it what a node has formed from it and not sent yet (R319, R365).
A slot is that of the entries whose range holds it, the first slot of a range that of the oldest packet (DESIGN CHOICE, log entry 65). -/
def FlowRec.damage (r : FlowRec) (land n : Nat) : FlowRec :=
  let hit (e : FEntry) : Bool := e.land == land && !e.src && decide (e.aslot ≤ n) && decide (n < e.aslot + e.awin) &&
    decide (n - e.aslot < e.slots.length)
  let formed (e : FEntry) : Bool := r.entries.any (fun x => hit x && (primary (r.node x) x).is e.land e.src e.cslot
    && e.frees.any (fun f => f.1 == x.cslot && decide (n - x.aslot < f.2)))
  let es := r.entries.map (fun e =>
    let e1 := if hit e then { e with slots := e.slots.mapIdx (fun i p => if i = n - e.aslot then p.damaged else p) } else e
    if formed e then { e1 with sends := e1.sends.map (fun x => (x.1, x.2.damaged)) } else e1)
  if r.entries.any hit then ({ r with entries := es } : FlowRec).noteFail land .eccu else r

/-- UNCORRECTABLE_ERROR: a place and its reader, in `value` the address of a walk, with the outcome of the table of R365. -/
def execUncorrectableError (s : State) : Out :=
  let r := s.target.reader
  .next (match s.target.place with
    | .imem c m a => s.setCore c { s.core c with badWords := (m, a / 4) :: (s.core c).badWords }
    | .spad _ a => (s.eccuAt r a false).eccuItem r
    | .tagTable _ n => s.eccuAt r n false
    | .tile _ _ => s.eccuItem r
    | .scale _ _ => s.eccuItem r
    | .hbm _ => ((s.eccuItem r).eccuAccess r).eccuWalk r s.target.value
    | .slice _ => ((s.eccuItem r).eccuAccess r).eccuWalk r s.target.value
    | .landing l n => { s with flows := SMap.mapVals (fun _ x => x.damage l n) s.flows }
    | .register cls n => s.eccuAt r (cls * 2 ^ 16 + n) true
    | .tlb pc asid page =>
      { s with tlbs := SMap.set s.tlbs pc ((SMap.get [] s.tlbs pc).filter (fun e =>
          !(e.asid == asid && e.base == page && e.pins == 0))) })

end Sys2Proof.Machine
end

