-- ==== Sys2Proof/Machine/Launch.lean ====
section
/-! DEFINITION. The overlay loader: the image and its checks (R51, R111, R112) and the launch (R110, R113, R128). -/

namespace Sys2Proof.Machine

/-! ### Reading an image (R51, R111, R112) -/

/-- Why a launch is turned down: a reason with its value, or a walk that reads no memory (R111, R376, R211). -/
inductive Reject where
  | reason (n va : Nat)
  | noMemory
  deriving DecidableEq, Repr

/-- A range of an image translated: its pages, or the lowest faulting address (R111). -/
def State.imagePages (s : State) (c lo n : Nat) : Except Reject (List Page × State) :=
  if n = 0 then .ok ([], s)
  else match s.xlateRange c (lo + n - 1) true false (fun _ => none) (n / 65536 + 2) lo with
    | .pages ps s1 => .ok (ps, s1)
    | .trap _ v => .error (.reason 9 v.toNat)
    | .noMemory => .error .noMemory

/-- A section record (R51). -/
structure Section where
  kind : Nat
  addr : Nat
  len  : Nat
  off  : Nat
  data : List Byte := []
  deriving DecidableEq, Repr

/-- A checked image: its sections with their bytes, its entry records, stages and queues (R112). -/
structure Image where
  secs    : List Section
  entries : List (Nat × Nat)
  stages  : List (Nat × Nat)
  queues  : List StageQueue
  deriving DecidableEq, Repr

/-- A little-endian field of some bytes. -/
def field (bs : List Byte) (o n : Nat) : Nat := natOfBytes ((bs.drop o).take n)

/-- The section records of a header's bytes. -/
def sectionsOf (hdr : List Byte) (n : Nat) : List Section :=
  (List.range n).map (fun i =>
    { kind := field hdr (16 + 16 * i) 4, addr := field hdr (20 + 16 * i) 4, len := field hdr (24 + 16 * i) 4
      off := field hdr (28 + 16 * i) 4 })

/-- The lower of two faults. -/
def lowerFault : Option Reject → Reject → Option Reject
  | some (.reason n a), .reason m b => some (if a ≤ b then .reason n a else .reason m b)
  | some .noMemory, _ => some .noMemory
  | _, r => some r

/-- Read every section's bytes, or the lowest fault of any section's range. -/
def State.readSections (c va : Nat) : List Section → State → Option Reject → List Section → Except Reject (List Section × State)
  | [], s, none, acc => .ok (acc, s)
  | [], _, some r, _ => .error r
  | x :: rest, s, bad, acc =>
    match s.imagePages c (va + x.off) x.len with
    | .error r => State.readSections c va rest s (lowerFault bad r) acc
    | .ok (ps, s1) => State.readSections c va rest s1 bad (acc ++ [{ x with data := s1.readVa ps (va + x.off) x.len }])

/-- The instruction memory of a code section's kind (R29, R51). -/
def codeMemory (kind : Nat) : Option IMem :=
  match kind with
  | 1 => some .control | 2 => some .vector | 3 => some .arcade | _ => none

/-- A code section lies outside its memory, or is not made of whole lines (R111). -/
def Section.codeBad (x : Section) : Bool :=
  match codeMemory x.kind with
  | none => false
  | some m => decide (m.bytes < x.addr + x.len) || x.addr % 128 != 0 || x.len % 128 != 0

/-- The entry records, of every section of kind 5 in record order; bytes that a section lacks read as zero. R112 speaks of one section
of each kind (DESIGN CHOICE, log entry 55). -/
def entriesIn (xs : List Section) : List (Nat × Nat) :=
  ((xs.filter (fun x => x.kind == 5)).map (fun x => (List.range (x.len / 8)).map (fun i =>
    (field x.data (8 * i) 4, field x.data (8 * i + 4) 4)))).flatten

/-- The stage records: number and function (R112), with sections and missing bytes as for the entry records (log entry 55). -/
def stagesIn (xs : List Section) : List (Nat × Nat) :=
  ((xs.filter (fun x => x.kind == 6)).map (fun x => (List.range (field x.data 0 1)).map (fun i =>
    (field x.data (8 + 8 * i) 1, field x.data (12 + 8 * i) 4)))).flatten

/-- The queue records (R112), with sections and missing bytes as for the entry records (log entry 55). -/
def queuesIn (xs : List Section) : List StageQueue :=
  ((xs.filter (fun x => x.kind == 6)).map (fun x =>
    let o := 8 + 8 * field x.data 0 1
    (List.range (field x.data 1 1)).map (fun j =>
      { from_ := field x.data (o + 8 * j) 1, to_ := field x.data (o + 1 + 8 * j) 1, depth := field x.data (o + 2 + 8 * j) 2 }))).flatten

/-- The words that the code sections of a memory give it; every other word is zero (R113). Where two sections cover one line the later
record's words stand (DESIGN CHOICE, log entry 55). -/
def imemOf (xs : List Section) (m : IMem) : SMap Word :=
  ((xs.filter (fun x => codeMemory x.kind == some m)).foldl (fun im x =>
    (List.range (x.len / 4)).foldl (fun im k => SMap.set im (x.addr / 4 + k) (BitVec.ofNat 32 (field x.data (4 * k) 4))) im) []).filter
      (fun e => e.2 != 0)

/-- An address is word 2 of a control-core line whose TARGET bit 0 is set (R111). -/
def entryLine (im : SMap Word) (a : Nat) : Bool :=
  decide (a < IMem.control.bytes) && a % 128 == 8 && (SMap.get (0 : Word) im (a / 128 * 32 + 1)).getLsbD 0

/-- No two of some numbers are equal. -/
def distinct (l : List Nat) : Bool := l.eraseDups.length == l.length

/-- The checks of R111 from order 6 on, by the reason of the first that fails. -/
def imageReason (xs : List Section) (pool : Nat) : Option Nat :=
  let es := entriesIn xs
  let st := stagesIn xs
  let qs := queuesIn xs
  let total := es.foldl (fun n e => n + e.2) 0
  let im := imemOf xs .control
  let has (n : Nat) : Bool := st.any (fun e => e.1 == n)
  if xs.any Section.codeBad then some 2
  else if total = 0 then some 3
  else if es.any (fun e => decide (e.2 < 1) || decide (24 < e.2)) then some 10
  else if pool < total then some 4
  else if (es.map Prod.fst ++ st.map Prod.snd).any (fun a => !entryLine im a) then some 5
  else if !distinct (st.map Prod.fst) || !distinct (st.map Prod.snd) then some 6
  else if qs.any (fun q => !has q.from_ || !has q.to_ || q.from_ == q.to_ || decide (q.depth < 1) || decide (256 < q.depth)) then some 7
  else if 16 < qs.length then some 8
  else none

/-- The contexts of a logical core: 24, or 12 where it shares a physical core (R103, R106). -/
def State.pool (s : State) (c : Nat) : Nat := if 1 < (s.sharers (s.pcore c)).length then 12 else 24

/-- Read and check the image at an address, in the order of R111. -/
def State.readImage (s : State) (c va : Nat) : Except Reject (Image × State) :=
  match s.imagePages c va 16 with
  | .error r => .error r
  | .ok (ps, s1) =>
    let h := s1.readVa ps va 16
    let n := field h 8 4
    let hlen := field h 12 4
    if field h 0 4 ≠ 0x4D49574B ∨ field h 4 2 ≠ 1 then .error (.reason 1 0)
    else match s1.imagePages c va hlen with
      | .error r => .error r
      | .ok (qs, s2) =>
        let recs := sectionsOf (s2.readVa qs va hlen) n
        if hlen < 16 + 16 * n ∨ recs.any (fun x => decide (x.kind < 1) || decide (8 < x.kind)) then .error (.reason 1 0)
        else match State.readSections c va recs s2 none [] with
          | .error r => .error r
          | .ok (xs, s3) => match imageReason xs (s.pool c) with
            | some r => .error (.reason r 0)
            | none => .ok ({ secs := xs, entries := entriesIn xs, stages := stagesIn xs, queues := queuesIn xs }, s3)

/-! ### The launch (R110, R113, R128) -/

/-- The entry threads of an image with the number of each within its record (R113). -/
def Image.threads (g : Image) : List (Nat × Nat) :=
  (g.entries.map (fun e => (List.range e.2).map (fun i => (e.1, i)))).flatten

/-- A context as a launch starts it (R20, R113). -/
def launchCtx (g : Image) (r : LaunchRec) (now entry i : Nat) : Ctx :=
  let st := (g.stages.find? (fun e => e.2 == entry)).map Prod.fst
  { live := true, prio := r.prio, tseed := r.seed, stage := st, cycleBase := now
    prog := { pc := BitVec.ofNat 64 entry, arrive := .launch
              s := [(1, r.arg), (2, BitVec.ofNat 64 i), (3, match st with
                | some n => BitVec.ofNat 64 n
                | none => allOnes64)] } }

/-- The sections of a kind copied into the scratchpad (R113). The bytes of a section that pass its end, which no check of R111 rejects, are
dropped, and where two sections of the kind cover a byte the later record's stands (DESIGN CHOICE, log entry 55). -/
def Image.copyKind (g : Image) (kind : Nat) (m : Memory) : Memory :=
  (g.secs.filter (fun x => x.kind == kind)).foldl (fun m x => m.writeBytes x.addr (x.data.take (spadTop + 1 - x.addr))) m

/-- The scratchpad with the sections that a launch copies there: the scratchpad segment, then the flow tables (R48, R113). -/
def Image.intoSpad (g : Image) (m : Memory) : Memory := g.copyKind 7 (g.copyKind 4 m)

/-- An accepted launch (R113): the instruction memories, the scratchpad segment, the stage unit and the threads; the tag table,
the stream registers, the tiles, the flags and the queues' causes start anew (R133, R200, R206, R264, R352). -/
def Core.launch (k : Core) (g : Image) (r : LaunchRec) (now : Nat) : Core :=
  { k with
    imemC := imemOf g.secs .control, imemV := imemOf g.secs .vector, imemA := imemOf g.secs .arcade, badWords := []
    spad := g.intoSpad k.spad
    stages := g.stages, queues := g.queues.mapIdx (fun i q => (i, q))
    tagSets := [], streams := [], tiles := [], flagPushed := [], flagDone := []
    queueStat := SMap.mapVals (fun _ q => { q with cause := 0 }) k.queueStat
    ctxs := g.threads.mapIdx (fun x e => (x, launchCtx g r now e.1 e.2)) }

/-- The loader's choice: highest priority, then first arrival (R128). -/
def chooseLaunch (q : List LaunchRec) : Option LaunchRec :=
  q.foldl (fun b r => match b with
    | none => some r
    | some x => if x.prio < r.prio then some r else some x) none

/-- The logical core can take a launch (R110, R128): no live thread, no forked program, no item queued or running; it is resident,
the device is ready, and no rejection of its loader waits to be posted (R376). -/
def State.mayLaunch (s : State) (c : Nat) : Bool :=
  let k := s.core c
  s.noLive c && (SMap.keys k.slots).all (fun n => (s.slot c n).owner.isNone) && k.arc.owner.isNone && k.items.isEmpty
    && !s.away.contains c && s.board.devState == .ready && !s.evPending.any (fun e => e.kind == 4 && e.core == c)

/-- A context that an image's threads would take is saved: it becomes live again only for its restore, so the launch waits for it
(R113, R360). -/
def Core.savedBelow (k : Core) (n : Nat) : Bool := (SMap.keys k.savedCtxs).any (fun x => decide (x < n))

/-- LAUNCH_TAKE: the loader takes the best record, checks its image and starts its threads, or posts its rejection (R110, R111,
R113, R128): core. -/
def execLaunchTake (s : State) : Out :=
  let c := s.target.core
  let k := s.core c
  if !s.mayLaunch c then .next s
  else match chooseLaunch k.launchQ with
    | none => .next s
    | some r =>
      let s1 := s.setCore c { k with launchQ := k.launchQ.erase r }
      match s1.readImage c r.image.toNat with
      | .error .noMemory => .fault .noMemory
      | .error (.reason n va) =>
        .next (s1.addEvent { kind := 4, core := c, ctx := 0xFF, d1 := BitVec.ofNat 64 n, d2 := BitVec.ofNat 64 va, d3 := 0 })
      | .ok (g, s2) =>
        if k.savedBelow g.threads.length then .next s else .next ((s2.setCore c ((s2.core c).launch g r s2.now)).postOverflow c)

end Sys2Proof.Machine
end

