-- ==== Sys2Proof/Machine/Firmware.lean ====
section
/-! DEFINITION. Boot, self-test and the remap table (R105, R106, R380, R381), the resets (R383), power and cooling (R384),
attestation (R382), the host link (R370) and the Conov Link ports (R386–R389). -/

namespace Sys2Proof.Machine

/-! ### The remap table (R105, R106) -/

/-- The hall of a logical core where each hall has room (R106). -/
def hallOf (c : Nat) : Nat := 2 * (c / 16 / 8) + c % 16 / 8

/-- Healthy physical cores of a hall, ascending. -/
def healthyIn (hm : List Nat) (h : Nat) : List Nat := hm.filter (fun p => p / 72 == h)

/-- Every hall has at least 64 healthy cores. -/
def hallsFull (hm : List Nat) : Bool := [0, 1, 2, 3].all (fun h => decide (64 ≤ (healthyIn hm h).length))

/-- The number of a logical core among those of its hall's quadrant. -/
def inQuadrant (c : Nat) : Nat := c / 16 % 8 * 8 + c % 8

/-- The place of a logical core among the physical cores in use: its own, or its pair's (R106). -/
def placeOf (h c : Nat) : Nat :=
  if 256 ≤ h then c
  else
    let own := 256 - 2 * (256 - h)
    if c < own then c else own + (c - own) / 2

/-- One placement that R106 allows. -/
def plainRemap (hm : List Nat) : List Nat :=
  (List.range 256).map (fun c =>
    if decide (256 ≤ hm.length) && hallsFull hm then (healthyIn hm (hallOf c)).getD (inQuadrant c) 0
    else hm.getD (placeOf hm.length c) 0)

/-- A placement keeps the rules of R106: healthy cores only, shared by the pairs alone, each in its hall where there is room. -/
def remapOk (hm r : List Nat) : Bool :=
  let h := hm.length
  r.all (fun p => hm.contains p)
    && (List.range 256).all (fun a => (List.range 256).all (fun b =>
      (r.getD a 0 == r.getD b 0) == (placeOf h a == placeOf h b)))
    && (!(decide (256 ≤ h) && hallsFull hm) || (List.range 256).all (fun c => r.getD c 0 / 72 == hallOf c))

/-- Firmware's placement: its own choice where that keeps the rules (R106). -/
def remapFor (hm : List Nat) : List Nat :=
  let r := (List.range 256).map (Config.remapChoice hm)
  if remapOk hm r then r else plainRemap hm

/-! ### Boot (R380, R381) -/

/-- A digest as its 32 bytes give it. -/
def digestOf (bs : List Byte) : BitVec 256 := BitVec.ofNat 256 (natOfBytes (sha256 bs))

/-- The bytes of a firmware image. -/
def imageBytes (m : Memory) : List Byte := m.readBytes 0 (Config.imageLength m)

/-- The boot ROM accepts the image in flash (R380, R381). -/
def Board.imageOk (b : Board) : Bool :=
  !b.updating && Config.imageVerifies b.flash && decide (b.fuses ≤ Config.imageVersion b.flash)

/-- Extend a measurement register (R380). -/
def Board.extend (b : Board) (n : Nat) (d : BitVec 256) : Board :=
  { b with measured := SMap.set b.measured n (Config.extendMeasure (SMap.get 0 b.measured n) d) }

/-- Boot (R380): the ROM's checks, then self-test, the health map and the remap table; without a valid image STATE is recovery with
every core held (R381). A state change raises vector 2 (R370). The image region of a logical core that is not resident holds its
scratchpad and tags as core reset leaves them (R108). -/
def State.boot (s : State) : State :=
  let b := s.board
  if !b.imageOk then { s with board := { b with devState := .recovery, stopped := true }.raise 2 }
  else
    let hm := (List.range 288).filter (Config.selfTest s.draws)
    let r := remapFor hm
    let ready := decide (128 ≤ hm.length)
    let b1 := ((b.extend 0 Config.romDigest).extend 1 (digestOf (imageBytes b.flash))).extend 2 (Config.healthDigest hm)
    let b2 := { b1 with
      fuses := Config.imageVersion b.flash, health := hm, healthy := hm.length
      devState := if ready then .ready else .unusable, stopped := !ready }
    let pairs := (List.range 256).filter (fun c => 1 < (r.filter (· == r.getD c 0)).length)
    let second := Config.freeBool s.draws
    let away := if ready then pairs.filter (fun c => (c % 2 == 1) != second) else []
    let booted : State := { s with
      board := b2.raise 2, draws := s.draws + 1
      remap := r.mapIdx (fun c p => (c, p))
      away := away
      sliceAt := ((pairs.map (fun c => r.getD c 0)).eraseDups).foldl (fun m p => SMap.set m p s.now) []
      monCode := Config.monitorCode.foldl (fun m e => SMap.set m e.1 e.2) []
      cores := (List.range 256).map (fun c => (c, ({} : Core))) }
    away.foldl State.imageOut booted

/-! ### Resets (R383) -/

/-- What a reset leaves of the module outside its cores: the flash and the fuses, and the image that the recovery window took
(R381). -/
def Board.afterReset (b : Board) : Board where
  flash := if b.recoveryUsed then b.recovery else b.flash
  updating := b.updating && !b.recoveryUsed
  fuses := b.fuses

/-- A warm reset (R383): core reset everywhere, threads and commands end without records, HBM is kept, every ASID is 0 with no
root, the new device id takes effect (R387), and boot runs again. -/
def State.warmReset (s : State) : State :=
  let b := s.board
  ({ State.reset with
      hbm := s.hbm, hostMem := s.hostMem, now := s.now, draws := s.draws
      board := { b.afterReset with devId := b.devIdNext, devIdNext := b.devIdNext, powerCap := b.powerCap
                                   linkRate := b.linkRate, linkWidth := b.linkWidth } } : State).boot

/-- WARM_RESET: the host writes a value to RESET; 0x5257 performs a warm reset, others are ignored (R372, R383): the value. -/
def execWarmReset (s : State) : Out := .next (if s.target.value.toNat % 2 ^ 16 = 0x5257 then s.warmReset else s)

/-- COLD_RESET: power-on clears every state of the module, HBM holds undefined data, and boot runs (R380, R383). -/
def execColdReset (s : State) : Out :=
  let cells := (Config.hbmAtPower s.draws).filter (fun c => decide (c.1 < hbmBytes))
  .next ({ State.reset with
    hbm := cells.foldl (fun m c => m.write c.1 c.2) [], hostMem := s.hostMem, now := s.now, draws := s.draws + 1
    board := s.board.afterReset } : State).boot

/-- FIRMWARE_UPDATE: a PLDM update writes part of a new image to flash; it takes effect at the next reset (R381): the offset in `id`,
the bytes in `data`, and in `unit` 1 when they are the last. A part at offset 0 begins a new image and clears the rest of the flash, and an
update sets aside what the recovery window holds (DESIGN CHOICE, log entry 71). -/
def execFirmwareUpdate (s : State) : Out :=
  let t := s.target
  let b := s.board
  let m : Memory := if t.id = 0 then [] else b.flash
  .next { s with board := { b with flash := m.writeBytes t.id t.data, updating := t.unit != 1, recoveryUsed := false } }

/-- ATTESTATION_REQUEST: a 32-byte nonce is answered with DEVID, the nonce, the measurements and a 7,856-byte signature over them
(R382): the nonce in `data`. -/
def execAttestationRequest (s : State) : Out :=
  let n := s.target.data
  if n.length ≠ 32 then .next s
  else
    let m := ((List.range 3).map (fun k => bytesOfNat 32 (SMap.get (0 : BitVec 256) s.board.measured k).toNat)).flatten
    let body := bytesOfNat 8 0x5758000900000001 ++ n ++ m
    let sig := (Config.attestSignature body ++ List.replicate 7856 0).take 7856
    .next { s with board := { s.board with attest := body ++ sig } }

/-- DEVICE_ID_SET: a device id of 12 bits for the next warm reset (R387): the id. -/
def execDeviceIdSet (s : State) : Out := .next { s with board := { s.board with devIdNext := s.target.id % 2 ^ 12 } }

/-- HOST_LINK_TRAIN: the host link comes up at the highest rate and width that both ends support (R370): the host's rate in GT/s in
`id`, its width in `size`. -/
def execHostLinkTrain (s : State) : Out :=
  .next { s with board := { s.board with linkRate := min 128 s.target.id, linkWidth := min 16 s.target.size } }

/-! ### Power and cooling (R384) -/

/-- A kind-5 record (R376): it concerns no core, and the core and context that its first doubleword names are free values. -/
def State.powerEvent (s : State) (d1 measured : Nat) : State :=
  let (n, s1) := s.draw
  let (m, s2) := s1.draw
  s2.addEvent { kind := 5, core := Config.freeNat n % 256, ctx := Config.freeNat m % 256, d1 := BitVec.ofNat 64 d1
                d2 := BitVec.ofNat 64 measured, d3 := 0 }

/-- POWER_CAP_SET: a PLDM request sets the power cap in watts (R384). -/
def execPowerCapSet (s : State) : Out := .next { s with board := { s.board with powerCap := s.target.id } }

/-- POWER_CAP_THROTTLE: power above the cap lowers the core clock by 100 MHz (R384): the measured watts. -/
def execPowerCapThrottle (s : State) : Out :=
  let b := s.board
  .next (if b.powerCap < s.target.id ∧ 100 < b.clockMHz then { s with board := { b with clockMHz := b.clockMHz - 100 } } else s)

/-- THERMAL_THROTTLE: from 105 °C the clock is lowered to 800 MHz and a kind-5 record is posted (R384): the measured degrees. -/
def execThermalThrottle (s : State) : Out :=
  let b := s.board
  .next (if 105 ≤ s.target.id then
    ({ s with board := { b with clockMHz := min b.clockMHz 800 } } : State).powerEvent 1 s.target.id else s)

/-- THERMAL_SHUTDOWN: from 115 °C every core stops, a kind-5 record is posted and STATE becomes reset until the host writes RESET
(R384), a change that raises vector 2 (R370): the measured degrees. -/
def execThermalShutdown (s : State) : Out :=
  .next (if 115 ≤ s.target.id then
    let b := { s.board with devState := .reset, stopped := true }
    ({ s with board := if s.board.devState = .reset then b else b.raise 2, agenda := [] } : State).powerEvent 2 s.target.id
    else s)

/-! ### Conov Link ports (R386–R389) -/

/-- The capability word that this device sends by a port trained with some lanes (R387). -/
def Board.capability (b : Board) (port lanes : Nat) : Nat :=
  2 ^ 48 + b.devId % 2 ^ 12 * 2 ^ 20 + port % 16 * 2 ^ 16 + lanes % 256 * 2 ^ 8

/-- The two capability words allow the port to come up (R387). -/
def trainOk (here peer : Nat) : Bool :=
  (dwBits here 15 8 == 8 || dwBits here 15 8 == 4) && dwBits here 63 48 == 1 && dwBits peer 63 48 == 1
    && dwBits here 31 20 != dwBits peer 31 20 && dwBits here 15 8 == dwBits peer 15 8

/-- PORT_TRAIN: a port that is down exchanges capability words and comes up, or stays down until a reset (R386, R387): the port, the
lanes that train here in `size`, the peer's word in `value`. -/
def execPortTrain (s : State) : Out :=
  let p := s.target.core
  let w := s.target.value.toNat
  let sent := s.board.capability p s.target.size
  let x := s.port p
  .next (if 16 ≤ p ∨ x.up = true ∨ x.failed = true then s
    else if trainOk sent w then
      s.setPort p { x with up := true, lanes := dwBits sent 15 8, minor := min (dwBits sent 47 32) (dwBits w 47 32)
                           sent := BitVec.ofNat 64 sent, peer := s.target.value }
    else s.setPort p { x with failed := true, sent := BitVec.ofNat 64 sent, peer := s.target.value })

/-- A flow crosses a port. -/
def FlowRec.crossesPort (r : FlowRec) (p : Nat) : Bool :=
  r.entries.any (fun e => e.targets.contains (.port p) || e.via == some p)

/-- The packets that a port had sent in part when it went down: those of which a flit kept for replay has not been accepted. That flit
is the one whose replay failed, or else a free choice (R388, R389; log entry 12). -/
def State.partlySent (s : State) (p : Nat) : List Pkt :=
  let x := s.port p
  let n := if x.txFail.2 = 0 then Config.freeNat s.draws % (x.store.length + 1) else x.store.findIdx (fun e => e.1 == x.txFail.1)
  ((x.store.drop n).map Prod.snd).eraseDups

/-- A port goes down (R389): the flows that cross it are broken from their next round on, chunks partly sent on it and chunks that wait
for it fail with LINK, and a child across it counts as having delivered failed chunks for the rest of the current round. -/
def State.dropPort (s : State) (p : Nat) : State :=
  let hit := s.flows.filter (fun f => f.2.crossesPort p)
  let part := s.partlySent p
  let s1 := hit.foldl (fun s f =>
    let r := { f.2 with broken := true, brokenAt := if f.2.broken then f.2.brokenAt else f.2.rounds, lost := p :: f.2.lost
                        entries := f.2.entries.map (fun e =>
                          if e.via == some p && !e.dead then { e with dead := true, deadAt := e.round } else e) }
    s.setFlow f.1 ((part.filter (fun k => k.kind == .data && k.flow == f.1)).foldl (fun r k => r.noteFail k.src .link) r)) s
  let s2 := { s1.setPort p {} with draws := s.draws + 1 }
  hit.foldl (fun s f => s.runFlow f.1) s2

/-- PORT_DOWN (R389): the port. -/
def execPortDown (s : State) : Out := .next (if (s.port s.target.core).up then s.dropPort s.target.core else s)

/-- One more error of a flit, and whether its sixteenth replay in a row has failed with it (R388). -/
def flitError (old : Nat × Nat) (seq : Nat) : (Nat × Nat) × Bool :=
  let n := if old.2 ≠ 0 ∧ old.1 = seq then old.2 + 1 else 1
  ((seq, n), decide (16 < n))

/-- Flits from the next one accepted in a sequence to one of a number (R388). -/
def flitsOn (next n : Nat) : Nat := (n + 2 ^ 12 - next % 2 ^ 12) % 2 ^ 12

/-- The flit of a number can fail on its way in: it is one of the packet that comes next, of at most 17 flits, and no earlier one has
been replayed in vain before it (R308, R388). -/
def Port.mayFail (x : Port) (n : Nat) : Bool :=
  decide (n < 2 ^ 12) && decide (flitsOn x.rxSeq n ≤ 16) && (x.rxFail.2 == 0 || decide (flitsOn x.rxSeq x.rxFail.1 ≤ flitsOn x.rxSeq n))

/-- FLIT_CRC_ERROR: a flit fails its CRC and is replayed; sixteen consecutive failed replays of one flit take the port down (R388). With
`unit` 0 it is a flit of the packet that the port `core` accepts next; with 1 it is one kept for replay, of which the peer tells; with 2
the peer tells that it has accepted such a replay. -/
def execFlitCrcError (s : State) : Out :=
  let p := s.target.core
  let n := s.target.seq
  let x := s.port p
  .next (if !x.up then s
    else if s.target.unit = 2 then (if x.txFail.1 = n then s.setPort p { x with txFail := (0, 0) } else s)
    else if s.target.unit = 1 then
      if !x.store.any (fun e => e.1 == n) then s
      else match flitError x.txFail n with
        | (f, false) => s.setPort p { x with txFail := f }
        | (f, true) => (s.setPort p { x with txFail := f }).dropPort p
    else if !x.mayFail n then s
    else match flitError x.rxFail n with
      | (f, false) => s.setPort p { x with rxFail := f }
      | (_, true) => s.dropPort p)

end Sys2Proof.Machine
end

