-- ==== Sys2Proof/Machine/HostIf.lean ====
section
/-! DEFINITION. What the host sees of the module: BAR0 and its registers (R371, R372), the windows (R377, R381), and the mailbox
protocol (R373–R375). -/

namespace Sys2Proof.Machine

/-! ### Reading BAR0 (R371, R372) -/

def DevState.code : DevState → Nat
  | .reset => 0 | .recovery => 1 | .ready => 2 | .unusable => 3

/-- A device register (R372). -/
def Board.register (b : Board) (o : Nat) : Nat :=
  match o with
  | 0x00 => 0x5758000900000001
  | 0x08 => 0x00010000
  | 0x10 => b.devState.code
  | 0x18 => b.healthy % 512
  | 0x20 => b.eqHead
  | 0x28 => b.eqTail
  | _ => 0

/-- The status doubleword of a mailbox (R373). -/
def Mailbox.status (m : Mailbox) : Nat := bit m.pend + m.overrun % 2 ^ 16 * 2 ^ 32

def State.mailbox (s : State) (k : Nat) : Mailbox := SMap.get {} s.board.mailboxes k
def State.setMailbox (s : State) (k : Nat) (m : Mailbox) : State :=
  { s with board := { s.board with mailboxes := SMap.set s.board.mailboxes k m } }

/-- A byte of BAR0 (R371). -/
def State.bar0Byte (s : State) (a : Nat) : Byte :=
  if a < 0x1000 then BitVec.ofNat 8 (s.board.register (a / 8 * 8) / 2 ^ (8 * (a % 8)))
  else if 0x100000 ≤ a ∧ a < 0x200000 then
    let m := s.mailbox ((a - 0x100000) / 4096)
    let o := a % 4096
    if o < 0x40 then m.cmd.read o
    else if 0x48 ≤ o ∧ o < 0x88 then m.reply.read (o - 0x48)
    else if 0x88 ≤ o ∧ o < 0x90 then BitVec.ofNat 8 (m.status / 2 ^ (8 * (o - 0x88)))
    else 0
  else if 0x200000 ≤ a ∧ a < 0x300000 then s.hbm.read (windowPa ((a - 0x200000) / 4096) + a % 4096)
  else if 0x300000 ≤ a ∧ a < 0x340000 then s.board.evMem.read (a - 0x300000)
  else if 0x400000 ≤ a ∧ a < 0x1400000 then s.board.recovery.read (a - 0x400000)
  else 0

/-- An access of BAR0 is naturally aligned and 4 or 8 bytes wide (R371). -/
def bar0Ok (off size : Nat) : Bool := (size == 4 || size == 8) && off % size == 0 && decide (off + size ≤ 0x2000000)

/-- What a host read returns: all ones where it is not aligned or not 4 or 8 bytes wide (R371). -/
def State.bar0Read (s : State) (off size : Nat) : DWord :=
  if bar0Ok off size then BitVec.ofNat 64 (natOfBytes ((List.range size).map (fun k => s.bar0Byte (off + k)))) else allOnes64

/-! ### Writing BAR0 (R371–R373, R377, R381) -/

/-- The doorbell: it sets PEND, or counts an overrun while PEND is set (R373). -/
def Mailbox.ring (m : Mailbox) : Mailbox :=
  if m.pend then { m with overrun := (m.overrun + 1) % 2 ^ 16 } else { m with pend := true, answer := none }

/-- A host write (R371): a misaligned one is dropped, and so is one to a read-only place (R8). -/
def State.bar0Write (s : State) (off size : Nat) (v : DWord) : State :=
  let b := s.board
  if !bar0Ok off size then s
  else if off = 0x28 then { s with board := { b with eqTail := v.toNat % 4096 } }
  else if off = 0x30 then (if v.toNat % 2 ^ 16 = 0x5257 then s.warmReset else s)
  else if 0x100000 ≤ off ∧ off < 0x200000 then
    let k := (off - 0x100000) / 4096
    let o := off % 4096
    let m := s.mailbox k
    if o < 0x40 then s.setMailbox k { m with cmd := m.cmd.writeN o size v.toNat }
    else if o < 0x48 then s.setMailbox k m.ring
    else s
  else if 0x200000 ≤ off ∧ off < 0x300000 then
    s.hbmWriteN (windowPa ((off - 0x200000) / 4096) + off % 4096) size v.toNat
  else if 0x400000 ≤ off ∧ off < 0x1400000 then
    { s with board := { b with recovery := b.recovery.writeN (off - 0x400000) size v.toNat, recoveryUsed := true } }
  else s

/-- REGISTER_WRITE: a host write to BAR0, the doorbells among them (R371, R373): the offset in `id`, the width, the value. -/
def execRegisterWrite (s : State) : Out := .next (s.bar0Write s.target.id s.target.size s.target.value)
/-- EQTAIL_WRITE: the host advances EQTAIL (R372, R376): the value. -/
def execEqtailWrite (s : State) : Out := .next { s with board := { s.board with eqTail := s.target.value.toNat % 4096 } }

/-- HOST_WINDOW_READ: a host read of an outbound window performs at the owning slice (R377): the logical core, the offset in `id`, the
width. -/
def execHostWindowRead (s : State) : Out :=
  let t := s.target
  if t.core < 256 ∧ t.id < 4096 then
    .next { s with board := { s.board with hostRead := s.bar0Read (0x200000 + 4096 * t.core + t.id) t.size } }
  else .next s
/-- HOST_WINDOW_WRITE: a host write to an outbound window performs as a store at the slice (R377). -/
def execHostWindowWrite (s : State) : Out :=
  let t := s.target
  if t.core < 256 ∧ t.id < 4096 then .next (s.bar0Write (0x200000 + 4096 * t.core + t.id) t.size t.value) else .next s
/-- RECOVERY_WINDOW_WRITE: the host writes part of a firmware image (R381): the offset in `id`, the width, the value. -/
def execRecoveryWindowWrite (s : State) : Out :=
  let t := s.target
  if t.id < 0x1000000 then .next (s.bar0Write (0x400000 + t.id) t.size t.value) else .next s

/-! ### The mailbox protocol (R374, R375) -/

/-- Doubleword k of a command. -/
def Mailbox.dw (m : Mailbox) (k : Nat) : Nat := m.cmd.readN (8 * k) 8
/-- The code and the tag of a command (R374). -/
def Mailbox.code (m : Mailbox) : Nat := m.dw 0 % 2 ^ 8
def Mailbox.tag (m : Mailbox) : Nat := m.dw 0 / 2 ^ 16 % 2 ^ 16

/-- The bits of a command's doublewords that its table row names (R374): a set bit elsewhere is a reserved one. -/
def commandMask (code : Nat) : List Nat :=
  match code with
  | 0 => [0, 2 ^ 32 - 1]
  | 1 => [0, 2 ^ 64 - 1, 2 ^ 64 - 1, 15, 2 ^ 64 - 1]
  | 2 => [0, 2 ^ 14 - 1, 2 ^ 64 - 1]
  | 3 => [0, 2 ^ 24 - 1]
  | _ => [0, 2 ^ 64 - 1, 31]

/-- Every bit that the table does not name is zero (R374). -/
def Mailbox.reservedOk (m : Mailbox) : Bool :=
  (List.range 8).all (fun k =>
    let keep := if k = 0 then 0xFFFF00FF else (commandMask m.code).getD k 0
    m.dw k &&& keep == m.dw k)

/-- A command waits for its answer at a mailbox. -/
def Mailbox.waiting (m : Mailbox) : Bool := m.pend && m.answer.isNone

def Mailbox.reject (m : Mailbox) (reason : Nat) : Answer := { code := 2, reason := reason, tag := m.tag }
def Mailbox.accept (m : Mailbox) : Answer := { code := 0, tag := m.tag }

/-- What every command but HELLO is turned down with: VERSION, an unknown code, a reserved bit, STATE (R375). -/
def State.refusal (s : State) (m : Mailbox) : Option Answer :=
  if !s.board.helloOk then some { code := 3, tag := m.tag }
  else if 4 < m.code then some (m.reject 2)
  else if !m.reservedOk then some (m.reject 1)
  else if s.board.devState ≠ .ready then some (m.reject 3)
  else none

/-- What a HELLO is turned down with before its major is looked at: a reserved bit, STATE (R375; log entry 43). -/
def State.helloRefusal (s : State) (m : Mailbox) : Option Answer :=
  if !m.reservedOk then some (m.reject 1)
  else if s.board.devState ≠ .ready then some (m.reject 3)
  else none

/-- A mailbox command of one code acts once, and its answer waits to be written (R373–R375). -/
def State.serve (s : State) (code : Nat) (body : Nat → Mailbox → Answer × State) : Out :=
  let c := s.target.core
  let m := s.mailbox c
  if !(decide (c < 256) && m.waiting && m.code == code) then .next s
  else
    let (a, s1) := match (if code = 0 then s.helloRefusal m else s.refusal m) with
      | some a => (a, s)
      | none => body c m
    .next (s1.setMailbox c { s1.mailbox c with answer := some a })

/-- HELLO: major 1 selects the protocol, another receives VERSION (R374, R375): the mailbox's logical core. -/
def execHello (s : State) : Out :=
  s.serve 0 fun _ m =>
    if m.dw 1 / 2 ^ 16 ≠ 1 then ({ code := 3, tag := m.tag }, s)
    else ({ m.accept with dw1 := 0x00010000 }, { s with board := { s.board with helloOk := true } })

/-- LAUNCH: the record enters the launch queue, or BUSY (R128, R374, R375). -/
def execLaunch (s : State) : Out :=
  s.serve 1 fun c m =>
    let k := s.core c
    if 11 < m.dw 3 then (m.reject 1, s)
    else if 8 ≤ k.launchQ.length then ({ code := 1, tag := m.tag }, s)
    else (m.accept, s.setCore c { k with launchQ := k.launchQ ++
      [{ image := BitVec.ofNat 64 (m.dw 1), arg := BitVec.ofNat 64 (m.dw 2), prio := m.dw 3, seed := BitVec.ofNat 64 (m.dw 4) }] })

/-- SETASID: the core's ASID and root (R213, R218, R374, R375). -/
def execSetasid (s : State) : Out :=
  s.serve 2 fun c m =>
    let k := s.core c
    let root := m.dw 2
    if root % 2 ^ 21 ≠ 0 ∨ hbmBytes < root + 2 ^ 21 then (m.reject 1, s)
    else if !(s.noLive c && (SMap.keys k.slots).all (fun n => (s.slot c n).owner.isNone) && k.arc.owner.isNone && k.launchQ.isEmpty)
      then (m.reject 4, s)
    else (m.accept, s.setCore c { k with asid := m.dw 1, ptRoot := some root })

/-- PREEMPT: PREEMPT becomes pending in the contexts of a mask (R355, R374). -/
def execPreempt (s : State) : Out :=
  s.serve 3 fun c m =>
    (m.accept, ((List.range 24).filter (fun x => (m.dw 1).testBit x)).foldl (fun s x => s.postPreempt c x 1) s)

/-- RESTORE: a free context becomes live at the monitor's restore entry, at level M with s56 the area (R360, R374, R375). -/
def execRestore (s : State) : Out :=
  s.serve 4 fun c m =>
    let x := m.dw 2
    if m.dw 1 % 4096 ≠ 0 then (m.reject 1, s)
    else if (s.ctx c x).live || decide (s.pool c ≤ x) then (m.reject 5, s)
    else (m.accept, (s.setCtx c x { live := true, modeM := true, cycleBase := s.now
                                    prog := { pc := Config.restoreEntry, s := [(56, BitVec.ofNat 64 (m.dw 1))] } }).postOverflow c)

/-- The answer to a command of an unknown code (R375). -/
def State.answerUnknown (s : State) (m : Mailbox) : Option Answer :=
  match m.answer with
  | some a => some a
  | none => if 4 < m.code then s.refusal m else none

/-- MAILBOX_REPLY: the reply is written whole, PEND is cleared and vector 1 is raised (R373, R375): the mailbox's logical core. -/
def execMailboxReply (s : State) : Out :=
  let c := s.target.core
  let m := s.mailbox c
  if !m.pend then .next s
  else match s.answerUnknown m with
    | none => .next s
    | some a =>
      let r : Memory := Memory.writeN (Memory.writeN [] 0 8 (a.code + a.reason * 2 ^ 8 + a.tag * 2 ^ 16)) 8 8 a.dw1
      let s1 := s.setMailbox c { m with reply := r, pend := false, answer := none }
      .next { s1 with board := s1.board.raise 1 }

end Sys2Proof.Machine
end

