-- ==== Sys2Proof/Machine/Dispatch.lean ====
section
/-! DEFINITION. The one dispatch: an arm per constructor of `Instr`, each a direct call of its meaning. -/

namespace Sys2Proof.Machine

def exec (i : Instr) (s : State) : Host.Outcome State Fault Refusal :=
  match i with
  | .nop => Sys2Proof.Machine.execNop s
  | .add d a b => Sys2Proof.Machine.execAdd d a b s
  | .sub d a b => Sys2Proof.Machine.execSub d a b s
  | .mul d a b => Sys2Proof.Machine.execMul d a b s
  | .mulh d a b => Sys2Proof.Machine.execMulh d a b s
  | .mulhn d a b => Sys2Proof.Machine.execMulhn d a b s
  | .div d a b => Sys2Proof.Machine.execDiv d a b s
  | .divn d a b => Sys2Proof.Machine.execDivn d a b s
  | .rem d a b => Sys2Proof.Machine.execRem d a b s
  | .remn d a b => Sys2Proof.Machine.execRemn d a b s
  | .and d a b => Sys2Proof.Machine.execAnd d a b s
  | .or d a b => Sys2Proof.Machine.execOr d a b s
  | .xor d a b => Sys2Proof.Machine.execXor d a b s
  | .shl d a b => Sys2Proof.Machine.execShl d a b s
  | .shr d a b => Sys2Proof.Machine.execShr d a b s
  | .sar d a b => Sys2Proof.Machine.execSar d a b s
  | .min d a b => Sys2Proof.Machine.execMin d a b s
  | .max d a b => Sys2Proof.Machine.execMax d a b s
  | .minn d a b => Sys2Proof.Machine.execMinn d a b s
  | .maxn d a b => Sys2Proof.Machine.execMaxn d a b s
  | .addi d a imm => Sys2Proof.Machine.execAddi d a imm s
  | .andi d a imm => Sys2Proof.Machine.execAndi d a imm s
  | .ori d a imm => Sys2Proof.Machine.execOri d a imm s
  | .xori d a imm => Sys2Proof.Machine.execXori d a imm s
  | .shli d a imm => Sys2Proof.Machine.execShli d a imm s
  | .shri d a imm => Sys2Proof.Machine.execShri d a imm s
  | .sari d a imm => Sys2Proof.Machine.execSari d a imm s
  | .cmpEq d a b fn => Sys2Proof.Machine.execCmpEq d a b fn s
  | .cmpNe d a b fn => Sys2Proof.Machine.execCmpNe d a b fn s
  | .cmpLt d a b fn => Sys2Proof.Machine.execCmpLt d a b fn s
  | .cmpLtn d a b fn => Sys2Proof.Machine.execCmpLtn d a b fn s
  | .cmpGe d a b fn => Sys2Proof.Machine.execCmpGe d a b fn s
  | .cmpGen d a b fn => Sys2Proof.Machine.execCmpGen d a b fn s
  | .cmpi d a imm lw => Sys2Proof.Machine.execCmpi d a imm lw s
  | .clz d a => Sys2Proof.Machine.execClz d a s
  | .ctz d a => Sys2Proof.Machine.execCtz d a s
  | .popc d a => Sys2Proof.Machine.execPopc d a s
  | .bset d a imm => Sys2Proof.Machine.execBset d a imm s
  | .bclr d a imm => Sys2Proof.Machine.execBclr d a imm s
  | .bext d a imm => Sys2Proof.Machine.execBext d a imm s
  | .bins d a imm => Sys2Proof.Machine.execBins d a imm s
  | .lea d a b fn lw => Sys2Proof.Machine.execLea d a b fn lw s
  | .li d imm32 => Sys2Proof.Machine.execLi d imm32 s
  | .lui d imm32 => Sys2Proof.Machine.execLui d imm32 s
  | .mov d a => Sys2Proof.Machine.execMov d a s
  | .sel d a b lw => Sys2Proof.Machine.execSel d a b lw s
  | .pbr d imm18 => Sys2Proof.Machine.execPbr d imm18 s
  | .pbrr d a => Sys2Proof.Machine.execPbrr d a s
  | .brx d a fn => Sys2Proof.Machine.execBrx d a fn s
  | .brxn d a fn => Sys2Proof.Machine.execBrxn d a fn s
  | .br d => Sys2Proof.Machine.execBr d s
  | .call d => Sys2Proof.Machine.execCall d s
  | .ret => Sys2Proof.Machine.execRet s
  | .loop d a imm => Sys2Proof.Machine.execLoop d a imm s
  | .loopi d imm imm32 => Sys2Proof.Machine.execLoopi d imm imm32 s
  | .tokSend a fn => Sys2Proof.Machine.execTokSend a fn s
  | .tokRecv d fn => Sys2Proof.Machine.execTokRecv d fn s
  | .tokPoll d fn => Sys2Proof.Machine.execTokPoll d fn s
  | .mfc d imm => Sys2Proof.Machine.execMfc d imm s
  | .mtc a imm => Sys2Proof.Machine.execMtc a imm s
  | .trap imm24 => Sys2Proof.Machine.execTrap imm24 s
  | .ldB d a imm => Sys2Proof.Machine.execLdB d a imm s
  | .ldBn d a imm => Sys2Proof.Machine.execLdBn d a imm s
  | .ldH d a imm => Sys2Proof.Machine.execLdH d a imm s
  | .ldHn d a imm => Sys2Proof.Machine.execLdHn d a imm s
  | .ldW d a imm => Sys2Proof.Machine.execLdW d a imm s
  | .ldWn d a imm => Sys2Proof.Machine.execLdWn d a imm s
  | .ldD d a imm => Sys2Proof.Machine.execLdD d a imm s
  | .stB d a imm => Sys2Proof.Machine.execStB d a imm s
  | .stH d a imm => Sys2Proof.Machine.execStH d a imm s
  | .stW d a imm => Sys2Proof.Machine.execStW d a imm s
  | .stD d a imm => Sys2Proof.Machine.execStD d a imm s
  | .ldQ d a imm => Sys2Proof.Machine.execLdQ d a imm s
  | .stQ d a imm => Sys2Proof.Machine.execStQ d a imm s
  | .lamo d a b lw => Sys2Proof.Machine.execLamo d a b lw s
  | .hld d a imm => Sys2Proof.Machine.execHld d a imm s
  | .hst d a imm => Sys2Proof.Machine.execHst d a imm s
  | .hget d a fn => Sys2Proof.Machine.execHget d a fn s
  | .hset d a fn => Sys2Proof.Machine.execHset d a fn s
  | .hpatch a b fn lw => Sys2Proof.Machine.execHpatch a b fn lw s
  | .tret => Sys2Proof.Machine.execTret s
  | .selectSize d a b => Sys2Proof.Machine.execSelectSize d a b s
  | .forkV d a b => Sys2Proof.Machine.execForkV d a b s
  | .forkA d a b => Sys2Proof.Machine.execForkA d a b s
  | .rdv d a => Sys2Proof.Machine.execRdv d a s
  | .enq d a b => Sys2Proof.Machine.execEnq d a b s
  | .deq d a => Sys2Proof.Machine.execDeq d a s
  | .yieldStage => Sys2Proof.Machine.execYieldStage s
  | .grpJoin d a => Sys2Proof.Machine.execGrpJoin d a s
  | .grpLeave d a => Sys2Proof.Machine.execGrpLeave d a s
  | .grpBar d a => Sys2Proof.Machine.execGrpBar d a s
  | .grpInfo d a b => Sys2Proof.Machine.execGrpInfo d a b s
  | .sig d a b => Sys2Proof.Machine.execSig d a b s
  | .waitf d a b => Sys2Proof.Machine.execWaitf d a b s
  | .vadd d a b fn lw => Sys2Proof.Machine.execVadd d a b fn lw s
  | .vsub d a b fn lw => Sys2Proof.Machine.execVsub d a b fn lw s
  | .vmul d a b fn lw => Sys2Proof.Machine.execVmul d a b fn lw s
  | .vfma d a b fn lw => Sys2Proof.Machine.execVfma d a b fn lw s
  | .vfms d a b fn lw => Sys2Proof.Machine.execVfms d a b fn lw s
  | .vfnma d a b fn lw => Sys2Proof.Machine.execVfnma d a b fn lw s
  | .vdiv d a b fn lw => Sys2Proof.Machine.execVdiv d a b fn lw s
  | .vsqrt d a fn lw => Sys2Proof.Machine.execVsqrt d a fn lw s
  | .vmin d a b fn lw => Sys2Proof.Machine.execVmin d a b fn lw s
  | .vmax d a b fn lw => Sys2Proof.Machine.execVmax d a b fn lw s
  | .vabs d a fn lw => Sys2Proof.Machine.execVabs d a fn lw s
  | .vneg d a fn lw => Sys2Proof.Machine.execVneg d a fn lw s
  | .vexp d a fn lw => Sys2Proof.Machine.execVexp d a fn lw s
  | .vlog d a fn lw => Sys2Proof.Machine.execVlog d a fn lw s
  | .verf d a fn lw => Sys2Proof.Machine.execVerf d a fn lw s
  | .vclass d a fn lw => Sys2Proof.Machine.execVclass d a fn lw s
  | .vcmp d a b fn lw => Sys2Proof.Machine.execVcmp d a b fn lw s
  | .viadd d a b fn lw => Sys2Proof.Machine.execViadd d a b fn lw s
  | .visub d a b fn lw => Sys2Proof.Machine.execVisub d a b fn lw s
  | .vimul d a b fn lw => Sys2Proof.Machine.execVimul d a b fn lw s
  | .vimulh d a b fn lw => Sys2Proof.Machine.execVimulh d a b fn lw s
  | .vand d a b fn lw => Sys2Proof.Machine.execVand d a b fn lw s
  | .vor d a b fn lw => Sys2Proof.Machine.execVor d a b fn lw s
  | .vxor d a b fn lw => Sys2Proof.Machine.execVxor d a b fn lw s
  | .vshl d a b fn lw => Sys2Proof.Machine.execVshl d a b fn lw s
  | .vshr d a b fn lw => Sys2Proof.Machine.execVshr d a b fn lw s
  | .vsar d a b fn lw => Sys2Proof.Machine.execVsar d a b fn lw s
  | .vimin d a b fn lw => Sys2Proof.Machine.execVimin d a b fn lw s
  | .vimax d a b fn lw => Sys2Proof.Machine.execVimax d a b fn lw s
  | .viabs d a fn lw => Sys2Proof.Machine.execViabs d a fn lw s
  | .vsadd d a b fn lw => Sys2Proof.Machine.execVsadd d a b fn lw s
  | .vpopc d a fn lw => Sys2Proof.Machine.execVpopc d a fn lw s
  | .vsel d a b fn lw => Sys2Proof.Machine.execVsel d a b fn lw s
  | .vany d a fn lw => Sys2Proof.Machine.execVany d a fn lw s
  | .vall d a fn lw => Sys2Proof.Machine.execVall d a fn lw s
  | .vld d a fn lw => Sys2Proof.Machine.execVld d a fn lw s
  | .vst d a fn lw => Sys2Proof.Machine.execVst d a fn lw s
  | .vldS d a b fn lw => Sys2Proof.Machine.execVldS d a b fn lw s
  | .vstS d a b fn lw => Sys2Proof.Machine.execVstS d a b fn lw s
  | .vldX d a b fn lw => Sys2Proof.Machine.execVldX d a b fn lw s
  | .vstX d a b fn lw => Sys2Proof.Machine.execVstX d a b fn lw s
  | .vldq d a fn lw => Sys2Proof.Machine.execVldq d a fn lw s
  | .vmov d a fn lw => Sys2Proof.Machine.execVmov d a fn lw s
  | .vbcast d a fn lw => Sys2Proof.Machine.execVbcast d a fn lw s
  | .vslide d a b fn lw => Sys2Proof.Machine.execVslide d a b fn lw s
  | .vperm d a b fn lw => Sys2Proof.Machine.execVperm d a b fn lw s
  | .vshuf d a b fn lw => Sys2Proof.Machine.execVshuf d a b fn lw s
  | .vtrn d a fn lw => Sys2Proof.Machine.execVtrn d a fn lw s
  | .vext d a b fn lw => Sys2Proof.Machine.execVext d a b fn lw s
  | .vins d a b fn lw => Sys2Proof.Machine.execVins d a b fn lw s
  | .vcvt d a b fn lw => Sys2Proof.Machine.execVcvt d a b fn lw s
  | .vqmx d a b fn lw => Sys2Proof.Machine.execVqmx d a b fn lw s
  | .vdqmx d a b fn lw => Sys2Proof.Machine.execVdqmx d a b fn lw s
  | .vrsum d a fn lw => Sys2Proof.Machine.execVrsum d a fn lw s
  | .vrmax d a fn lw => Sys2Proof.Machine.execVrmax d a fn lw s
  | .vrmin d a fn lw => Sys2Proof.Machine.execVrmin d a fn lw s
  | .vrarg d a fn lw => Sys2Proof.Machine.execVrarg d a fn lw s
  | .vtopk d a b fn lw => Sys2Proof.Machine.execVtopk d a b fn lw s
  | .vrng d a b lw => Sys2Proof.Machine.execVrng d a b lw s
  | .vhash d a b fn lw => Sys2Proof.Machine.execVhash d a b fn lw s
  | .ardRow d a b fn lw => Sys2Proof.Machine.execArdRow d a b fn lw s
  | .ardCol d a b fn lw => Sys2Proof.Machine.execArdCol d a b fn lw s
  | .awrRow d a b fn lw => Sys2Proof.Machine.execAwrRow d a b fn lw s
  | .awrCol d a b fn lw => Sys2Proof.Machine.execAwrCol d a b fn lw s
  | .tlook d a b => Sys2Proof.Machine.execTlook d a b s
  | .tfill d a b => Sys2Proof.Machine.execTfill d a b s
  | .tevict d a b => Sys2Proof.Machine.execTevict d a b s
  | .tpin d a b => Sys2Proof.Machine.execTpin d a b s
  | .tunpin d a b => Sys2Proof.Machine.execTunpin d a b s
  | .qbind d a b => Sys2Proof.Machine.execQbind d a b s
  | .qget d a => Sys2Proof.Machine.execQget d a s
  | .qrel d a => Sys2Proof.Machine.execQrel d a s
  | .ldgW d a imm => Sys2Proof.Machine.execLdgW d a imm s
  | .ldgD d a imm => Sys2Proof.Machine.execLdgD d a imm s
  | .stgW d a imm => Sys2Proof.Machine.execStgW d a imm s
  | .stgD d a imm => Sys2Proof.Machine.execStgD d a imm s
  | .ldl a b => Sys2Proof.Machine.execLdl a b s
  | .stl a b => Sys2Proof.Machine.execStl a b s
  | .gamo d a b fn lw => Sys2Proof.Machine.execGamo d a b fn lw s
  | .mark => Sys2Proof.Machine.execMark s
  | .fence imm24 => Sys2Proof.Machine.execFence imm24 s
  | .cpy d a b fn lw => Sys2Proof.Machine.execCpy d a b fn lw s
  | .cpyT d a b fn lw => Sys2Proof.Machine.execCpyT d a b fn lw s
  | .cpyP d a b fn lw => Sys2Proof.Machine.execCpyP d a b fn lw s
  | .cpyQ d a b fn lw => Sys2Proof.Machine.execCpyQ d a b fn lw s
  | .cpyQT d a b fn lw => Sys2Proof.Machine.execCpyQT d a b fn lw s
  | .cpyGath d a b fn lw => Sys2Proof.Machine.execCpyGath d a b fn lw s
  | .cpyPair d a b fn lw => Sys2Proof.Machine.execCpyPair d a b fn lw s
  | .cpyScale d a b fn lw => Sys2Proof.Machine.execCpyScale d a b fn lw s
  | .cpyStrm d a b fn lw => Sys2Proof.Machine.execCpyStrm d a b fn lw s
  | .cpyHost d a b fn lw => Sys2Proof.Machine.execCpyHost d a b fn lw s
  | .mxSet e w1 w2 w3 => Sys2Proof.Machine.execMxSet e w1 w2 w3 s
  | .mxGo d a b fn => Sys2Proof.Machine.execMxGo d a b fn s
  | .mxAcq d a => Sys2Proof.Machine.execMxAcq d a s
  | .mxRel d => Sys2Proof.Machine.execMxRel d s
  | .mxShape d a b => Sys2Proof.Machine.execMxShape d a b s
  | .mxZero d fn => Sys2Proof.Machine.execMxZero d fn s
  | .mxOut d a b fn lw => Sys2Proof.Machine.execMxOut d a b fn lw s
  | .aspUp e w1 w2 w3 => Sys2Proof.Machine.execAspUp e w1 w2 w3 s
  | .aspDn e w1 w2 w3 => Sys2Proof.Machine.execAspDn e w1 w2 w3 s
  | .aspLd d a b fn => Sys2Proof.Machine.execAspLd d a b fn s
  | .aspSt d a b fn => Sys2Proof.Machine.execAspSt d a b fn s
  | .aspCvt d a b fn lw => Sys2Proof.Machine.execAspCvt d a b fn lw s
  | .aspWin d a => Sys2Proof.Machine.execAspWin d a s
  | .aspSeed a => Sys2Proof.Machine.execAspSeed a s
  | .aspClra d a => Sys2Proof.Machine.execAspClra d a s
  | .flowLoad d a => Sys2Proof.Machine.execFlowLoad d a s
  | .flowSend d a b => Sys2Proof.Machine.execFlowSend d a b s
  | .flowRecv d a b => Sys2Proof.Machine.execFlowRecv d a b s
  | .flowRel d a => Sys2Proof.Machine.execFlowRel d a s
  | .flowStat d a => Sys2Proof.Machine.execFlowStat d a s
  | .msgSend d a b => Sys2Proof.Machine.execMsgSend d a b s
  | .msgPost d a b => Sys2Proof.Machine.execMsgPost d a b s
  | .msgProbe d a b => Sys2Proof.Machine.execMsgProbe d a b s
  | .digest d a b => Sys2Proof.Machine.execDigest d a b s
  | .dchk d a b => Sys2Proof.Machine.execDchk d a b s
  | .modeFwd => Sys2Proof.Machine.execModeFwd s
  | .modeRev => Sys2Proof.Machine.execModeRev s
  | .tapeSet a b => Sys2Proof.Machine.execTapeSet a b s
  | .adjLd d a imm => Sys2Proof.Machine.execAdjLd d a imm s
  | .adjClr a b => Sys2Proof.Machine.execAdjClr a b s
  | .estat d a b => Sys2Proof.Machine.execEstat d a b s
  | .csave a => Sys2Proof.Machine.execCsave a s
  | .crest a => Sys2Proof.Machine.execCrest a s
  | .tlbInv a b => Sys2Proof.Machine.execTlbInv a b s
  | .halt a => Sys2Proof.Machine.execHalt a s
  | .sleep a => Sys2Proof.Machine.execSleep a s
  | .undefinedMop cause tval tpc => Sys2Proof.Machine.execUndefinedMop cause tval tpc s
  | .tokenDelivery => Sys2Proof.Machine.execTokenDelivery s
  | .trapEntry => Sys2Proof.Machine.execTrapEntry s
  | .launchTake => Sys2Proof.Machine.execLaunchTake s
  | .programEnd => Sys2Proof.Machine.execProgramEnd s
  | .issueSelect => Sys2Proof.Machine.execIssueSelect s
  | .vectorIssueSelect => Sys2Proof.Machine.execVectorIssueSelect s
  | .commandStart => Sys2Proof.Machine.execCommandStart s
  | .sigComplete => Sys2Proof.Machine.execSigComplete s
  | .vectorResultWrite => Sys2Proof.Machine.execVectorResultWrite s
  | .vectorLongResult => Sys2Proof.Machine.execVectorLongResult s
  | .vectorTrap => Sys2Proof.Machine.execVectorTrap s
  | .qgetFill => Sys2Proof.Machine.execQgetFill s
  | .streamUnitWrite => Sys2Proof.Machine.execStreamUnitWrite s
  | .loadPerform => Sys2Proof.Machine.execLoadPerform s
  | .storePerform => Sys2Proof.Machine.execStorePerform s
  | .gamoPerform => Sys2Proof.Machine.execGamoPerform s
  | .ldlLineWrite => Sys2Proof.Machine.execLdlLineWrite s
  | .adjCellPerform => Sys2Proof.Machine.execAdjCellPerform s
  | .translationEvict => Sys2Proof.Machine.execTranslationEvict s
  | .copyBlock => Sys2Proof.Machine.execCopyBlock s
  | .commandRetire => Sys2Proof.Machine.execCommandRetire s
  | .commandFail => Sys2Proof.Machine.execCommandFail s
  | .tileAutoRelease => Sys2Proof.Machine.execTileAutoRelease s
  | .matrixStep => Sys2Proof.Machine.execMatrixStep s
  | .mxOutRow => Sys2Proof.Machine.execMxOutRow s
  | .arcadeResultsLand => Sys2Proof.Machine.execArcadeResultsLand s
  | .arcadeTrap => Sys2Proof.Machine.execArcadeTrap s
  | .flowAutoRemove => Sys2Proof.Machine.execFlowAutoRemove s
  | .chunkInject => Sys2Proof.Machine.execChunkInject s
  | .flowPacketArrive => Sys2Proof.Machine.execFlowPacketArrive s
  | .flowCreditArrive => Sys2Proof.Machine.execFlowCreditArrive s
  | .deliveryWrite => Sys2Proof.Machine.execDeliveryWrite s
  | .completionRecordWrite => Sys2Proof.Machine.execCompletionRecordWrite s
  | .messageRequestArrive => Sys2Proof.Machine.execMessageRequestArrive s
  | .receivePost => Sys2Proof.Machine.execReceivePost s
  | .goArrive => Sys2Proof.Machine.execGoArrive s
  | .nackArrive => Sys2Proof.Machine.execNackArrive s
  | .digestLands => Sys2Proof.Machine.execDigestLands s
  | .asyncCauseTaken => Sys2Proof.Machine.execAsyncCauseTaken s
  | .timer => Sys2Proof.Machine.execTimer s
  | .timeSliceSwitch => Sys2Proof.Machine.execTimeSliceSwitch s
  | .sleepTimeout => Sys2Proof.Machine.execSleepTimeout s
  | .holdCountExpiry => Sys2Proof.Machine.execHoldCountExpiry s
  | .waitRelease => Sys2Proof.Machine.execWaitRelease s
  | .uncorrectableError => Sys2Proof.Machine.execUncorrectableError s
  | .scrub => Sys2Proof.Machine.execScrub s
  | .hello => Sys2Proof.Machine.execHello s
  | .launch => Sys2Proof.Machine.execLaunch s
  | .setasid => Sys2Proof.Machine.execSetasid s
  | .preempt => Sys2Proof.Machine.execPreempt s
  | .restore => Sys2Proof.Machine.execRestore s
  | .mailboxReply => Sys2Proof.Machine.execMailboxReply s
  | .eventPost => Sys2Proof.Machine.execEventPost s
  | .eqtailWrite => Sys2Proof.Machine.execEqtailWrite s
  | .registerWrite => Sys2Proof.Machine.execRegisterWrite s
  | .hostWindowRead => Sys2Proof.Machine.execHostWindowRead s
  | .hostWindowWrite => Sys2Proof.Machine.execHostWindowWrite s
  | .recoveryWindowWrite => Sys2Proof.Machine.execRecoveryWindowWrite s
  | .warmReset => Sys2Proof.Machine.execWarmReset s
  | .coldReset => Sys2Proof.Machine.execColdReset s
  | .firmwareUpdate => Sys2Proof.Machine.execFirmwareUpdate s
  | .attestationRequest => Sys2Proof.Machine.execAttestationRequest s
  | .deviceIdSet => Sys2Proof.Machine.execDeviceIdSet s
  | .powerCapSet => Sys2Proof.Machine.execPowerCapSet s
  | .powerCapThrottle => Sys2Proof.Machine.execPowerCapThrottle s
  | .thermalThrottle => Sys2Proof.Machine.execThermalThrottle s
  | .thermalShutdown => Sys2Proof.Machine.execThermalShutdown s
  | .portTrain => Sys2Proof.Machine.execPortTrain s
  | .flitCrcError => Sys2Proof.Machine.execFlitCrcError s
  | .portDown => Sys2Proof.Machine.execPortDown s
  | .removalNoticeArrive => Sys2Proof.Machine.execRemovalNoticeArrive s
  | .aspLdFill => Sys2Proof.Machine.execAspLdFill s
  | .monitorPreemptRequest => Sys2Proof.Machine.execMonitorPreemptRequest s
  | .hostLinkTrain => Sys2Proof.Machine.execHostLinkTrain s

end Sys2Proof.Machine
end

