-- ==== Sys2Proof/Machine/Step.lean ====
section
/-! DEFINITION. One step of the machine: the first turn of the agenda is taken; with no turn left, a clock passes. -/

namespace Sys2Proof.Machine

/-- Run the instruction that the sequencer's pc names, or take the trap of the check it fails (R35). -/
def runFetched (q : Seqr) (s : State) : Host.Outcome State Fault Refusal :=
  match s.fetch q (Config.freeWord s.draws) with
  | .ok i => exec i { s with cur := q }
  | .bad c v p => exec (.undefinedMop c v p) { s with cur := q, draws := s.draws + 1 }

/-- A sequencer at an instruction boundary: a pending asynchronous cause is taken before the next instruction
decodes (R345). -/
def issueFrom (q : Seqr) (s : State) : Host.Outcome State Fault Refusal :=
  if s.mayIssue q then
    if s.hasAsync q then exec .asyncCauseTaken { s with target := q.asTarget }
    else runFetched q s
  else .next s

/-- The program could issue in this clock (R129, R130). -/
def canIssue (s : State) (q : Seqr) : Bool :=
  s.mayIssue q &&
    (match issueFrom q s with
     | .next s' => !s'.stalled
     | _ => true)

/-- The control core of a logical core issues from the thread that R129 chooses. -/
def selectThread (core : Nat) (s : State) : Host.Outcome State Fault Refusal :=
  let able := (SMap.keys (s.core core).ctxs).filter (fun x => canIssue s (.thread core x))
  let s1 := s.noteAble core able
  match chooseThread (s1.cands core able) with
  | none => .next s1
  | some c => issueFrom (.thread core c.ctx) (s1.noteIssue core able c.ctx)

/-- The vector engine of a logical core issues from the slot that R130 chooses. -/
def selectSlot (core : Nat) (s : State) : Host.Outcome State Fault Refusal :=
  match chooseSlot (s.core core).vptr (fun k => canIssue s (.vec core k)) with
  | none => .next s
  | some k => issueFrom (.vec core k) (s.setCore core { s.core core with vptr := (k + 1) % 4 })

/-- The program's next instruction meets an uncorrectable error in what it reads, after the checks that come first (R35, R365). -/
def readError (q : Seqr) (v : Nat) (reg : Bool) (s : State) : Host.Outcome State Fault Refusal :=
  if s.mayIssue q && !s.hasAsync q then
    match s.fetch q (Config.freeWord s.draws) with
    | .bad _ _ _ => .next s
    | .ok i => match exec i { s with cur := q, stalled := false } with
      | .next s1 => .next (({ s with cur := q, stalled := false } : State).eccuAfter q v reg s1)
      | _ => .next s
  else .next s

/-- One step. -/
def step (s : State) : Host.Outcome State Fault Refusal :=
  match s.agenda with
  | [] => .next s.tick
  | t :: r =>
    let s1 := { s with agenda := r }
    match t with
    | .issue q => issueFrom q s1
    | .select c => selectThread c s1
    | .vselect c => selectSlot c s1
    | .readError q v reg => readError q v reg s1
    | .event i x => exec i { s1 with target := x }

/-- The state with one instruction of the opcode table placed so that the next step runs it. -/
def State.withFetchWord (s : State) (nbits w : Nat) : State := s.placeWord nbits w

end Sys2Proof.Machine
end

