-- ==== Sys2Proof/Safety.lean ====
section
/-! DEFINITION. What counts as a safe run of the device, in the terms that statements use: a step that answers a next state, and
the invariants of the state that every step keeps. -/

namespace Sys2Proof.Safety

open Sys2Proof.Machine

/-- A step that answers a next state: neither a fault nor a refusal. -/
def Goes (s : State) : Prop := ∃ t, step s = .next t

/-- The states that some steps lead to from a state. -/
inductive Reaches (s : State) : State → Prop where
  | refl : Reaches s s
  | tail {t u : State} : Reaches s t → step t = .next u → Reaches s u

/-- A set of states that every step keeps. -/
def Keeps (inv : State → Prop) : Prop := ∀ s t, inv s → step s = .next t → inv t

/-! ### When an instruction of the running program completes -/

/-- The registers are full and no earlier result of the program is still being written to them (R12, R159). -/
abbrev RegsReady (s : State) (xs : List Src) : Prop := ∀ x ∈ xs, s.regEmpty s.cur x = false ∧ s.regBusy s.cur x = false

/-- The instruction stands where R68 and R74 allow it. -/
abbrev Stands (s : State) (len : Nat) (pl : Place) : Prop := (s.prog s.cur).badSlot len pl = false

/-- The guard of a scalar instruction, if it has one, is readable and true (R25). -/
abbrev GuardOn (s : State) (lw : LW) : Prop :=
  lw.g = true → RegsReady s [srcS lw.greg] ∧ guardHolds lw (s.getS s.cur lw.greg) = true

/-! ### What an instruction leaves alone -/

/-- Every byte of every memory reads as before. -/
structure BytesSame (s t : State) : Prop where
  hbm     : ∀ a, Memory.read t.hbm a = Memory.read s.hbm a
  host    : ∀ a, Memory.read t.hostMem a = Memory.read s.hostMem a
  spad    : ∀ c a, Memory.read (t.core c).spad a = Memory.read (s.core c).spad a
  scale   : ∀ c a, Memory.read (t.core c).scaleMem a = Memory.read (s.core c).scaleMem a

/-- Of the device nothing changes but the cores and the note that an instruction stalled. -/
def DeviceSame (s t : State) : Prop := { t with cores := s.cores, stalled := s.stalled } = s

/-- Of every core nothing changes but its contexts, its vector slots and its Arcade. -/
def CoresSame (s t : State) : Prop :=
  ∀ c, { t.core c with ctxs := (s.core c).ctxs, slots := (s.core c).slots, arc := (s.core c).arc } = s.core c

/-- Of every context nothing changes but its program and the count of instructions retired: every handle, vector register, control
register, trap register and exception register of every thread is as before. -/
def CtxsSame (s t : State) : Prop :=
  ∀ c x, { t.ctx c x with prog := (s.ctx c x).prog, instret := (s.ctx c x).instret } = s.ctx c x

/-- Of every vector slot and of every Arcade nothing changes but the program. -/
def EnginesSame (s t : State) : Prop :=
  (∀ c k, { t.slot c k with prog := (s.slot c k).prog } = s.slot c k) ∧
    ∀ c, { t.arc c with prog := (s.arc c).prog } = s.arc c

/-- Every other program is as before, and the running one keeps its b registers, its empty bits and its trap, and has the hold given. -/
structure ProgsSame (s t : State) (hold : Option Hold) : Prop where
  others : ∀ q, q ≠ s.cur → t.prog q = s.prog q
  links  : ∀ n, (t.prog s.cur).getB n = (s.prog s.cur).getB n
  empty  : (t.prog s.cur).sEmpty = (s.prog s.cur).sEmpty
  hold   : (t.prog s.cur).hold = hold
  trap   : (t.prog s.cur).trapping = (s.prog s.cur).trapping

/-- Only the running thread counts a retired instruction (R17). -/
def CountsOne (s t : State) : Prop :=
  ∀ c x, (t.ctx c x).instret = if s.cur = .thread c x then (s.ctx c x).instret + 1 else (s.ctx c x).instret

/-- Flow goes on after an instruction of `len` words (R31, R67, R72). -/
def FlowsOn (s t : State) (len : Nat) : Prop :=
  (t.prog s.cur).pc = ((s.prog s.cur).advance s.cur.isFork (seqNext (s.prog s.cur).pc len)).pc

/-- An instruction of `len` words retires, and nothing but s_d of the running program, its flow of control and its hold changes. -/
structure OnlyS (s t : State) (len : Nat) (d : Reg) (hold : Option Hold) : Prop where
  device  : DeviceSame s t
  cores   : CoresSame s t
  ctxs    : CtxsSame s t
  engines : EnginesSame s t
  progs   : ProgsSame s t hold
  count   : CountsOne s t
  flow    : FlowsOn s t len
  bytes   : BytesSame s t
  regs    : ∀ r, r ≠ d → t.getS s.cur r = s.getS s.cur r

/-- The instruction completes: s_d holds the value, or reads zero where it is s0 (R10), and nothing else changes. -/
def WritesS (i : Instr) (s : State) (len : Nat) (d : Reg) (v : DWord) : Prop :=
  ∃ t, exec i s = .next t ∧ t.getS s.cur d = (if d = 0 then 0 else v) ∧ OnlyS s t len d (s.prog s.cur).hold

/-- As `WritesS`, and the running program is held for `n` clocks from issue (R53, R87). -/
def WritesSHeld (i : Instr) (s : State) (len : Nat) (d : Reg) (v : DWord) (n : Nat) : Prop :=
  ∃ t, exec i s = .next t ∧ t.getS s.cur d = (if d = 0 then 0 else v) ∧ OnlyS s t len d (some (.clock (s.now + n)))

/-- The state `t` is `s1` after the retirement of an instruction of `len` words of the program that `s` runs: `s1` in everything but
that program's flow of control and its thread's count of retired instructions. -/
structure After (s s1 t : State) (len : Nat) : Prop where
  device  : { t with cores := s1.cores } = s1
  cores   : ∀ c, { t.core c with ctxs := (s1.core c).ctxs, slots := (s1.core c).slots, arc := (s1.core c).arc } = s1.core c
  ctxs    : ∀ c x, { t.ctx c x with prog := (s1.ctx c x).prog, instret := (s1.ctx c x).instret } = s1.ctx c x
  slots   : ∀ c k, { t.slot c k with prog := (s1.slot c k).prog } = s1.slot c k
  arcs    : ∀ c, { t.arc c with prog := (s1.arc c).prog } = s1.arc c
  others  : ∀ q, q ≠ s.cur → t.prog q = s1.prog q
  prog    : t.prog s.cur = (s1.prog s.cur).advance s.cur.isFork (seqNext (s.prog s.cur).pc len)
  count   : ∀ c x, (t.ctx c x).instret = if s.cur = .thread c x then (s1.ctx c x).instret + 1 else (s1.ctx c x).instret

/-- The instruction completes: it retires with the effect that turns the state into `s1`. -/
def Retires (i : Instr) (s : State) (len : Nat) (s1 : State) : Prop := ∃ t, exec i s = .next t ∧ After s s1 t len

/-- Nothing changes but the running program and its thread's count of retired instructions. -/
structure OnlyProg (s t : State) : Prop where
  device  : DeviceSame s t
  cores   : CoresSame s t
  ctxs    : CtxsSame s t
  engines : EnginesSame s t
  others  : ∀ q, q ≠ s.cur → t.prog q = s.prog q
  count   : CountsOne s t
  bytes   : BytesSame s t

/-- Of every core nothing changes but its scratchpad, its contexts, its vector slots and its Arcade. -/
def CoresSameButSpad (s t : State) : Prop :=
  ∀ c, { t.core c with ctxs := (s.core c).ctxs, slots := (s.core c).slots, arc := (s.core c).arc, spad := (s.core c).spad } = s.core c

/-- An instruction of `len` words retires, and nothing changes but the `n` scratchpad bytes from `lo` of its core, s_d where `d` is
some register, its flow of control and its hold. -/
structure OnlySpad (s t : State) (len lo n : Nat) (d : Option Reg) (hold : Option Hold) : Prop where
  device  : DeviceSame s t
  cores   : CoresSameButSpad s t
  ctxs    : CtxsSame s t
  engines : EnginesSame s t
  progs   : ProgsSame s t hold
  count   : CountsOne s t
  flow    : FlowsOn s t len
  regs    : ∀ r, some r ≠ d → t.getS s.cur r = s.getS s.cur r
  hbm     : ∀ a, Memory.read t.hbm a = Memory.read s.hbm a
  host    : ∀ a, Memory.read t.hostMem a = Memory.read s.hostMem a
  scale   : ∀ c a, Memory.read (t.core c).scaleMem a = Memory.read (s.core c).scaleMem a
  others  : ∀ c a, c ≠ s.cur.core → Memory.read (t.core c).spad a = Memory.read (s.core c).spad a
  outside : ∀ a, a < lo ∨ lo + n ≤ a → Memory.read (t.core s.cur.core).spad a = Memory.read (s.core s.cur.core).spad a

/-- The instruction completes: the `n` scratchpad bytes from `lo` hold the little-endian number, and nothing else changes. -/
def StoresSpad (i : Instr) (s : State) (len lo n x : Nat) : Prop :=
  ∃ t, exec i s = .next t ∧ (∀ k, k < n → Memory.read (t.core s.cur.core).spad (lo + k) = BitVec.ofNat 8 (x / 256 ^ k)) ∧
    OnlySpad s t len lo n none (s.prog s.cur).hold

/-- The instruction traps precisely with the cause and `tval` given: it has no other effect (R99, R100). -/
def Traps (i : Instr) (s : State) (c : Cause) (v : DWord) : Prop :=
  exec i s = .next (State.raise { s with stalled := false } s.cur ⟨c, v, (s.prog s.cur).pc, (s.prog s.cur).pend⟩)

/-- The instruction stalls at issue: it has no effect. -/
def Stalls (i : Instr) (s : State) : Prop := exec i s = .next { s with stalled := true }

/-- The first of the sources that is empty under one traps EMPTY with its number (R27, R101). -/
def MarksTrap (i : Instr) (s : State) (xs : List Src) : Prop :=
  ∀ l x r, xs = l ++ x :: r → x.t = true → s.regEmpty s.cur x = true → (∀ y ∈ l, y.t = true → s.regEmpty s.cur y = false) →
    Traps i s .empty (BitVec.ofNat 64 x.reg)

/-- A trap of a thread at level U has been reflected to its handler (R97, R98, R100): the trap registers and the monitor record hold what
was trapped, the handler runs at level U with H = 1 from `tvec` with no transfer pending and every loop set aside, and nothing else
of the machine changes. -/
structure Reflected (s u : State) (c x : Nat) (r : TrapReq) : Prop where
  device  : DeviceSame s u
  cores   : CoresSame s u
  others  : ∀ d y, (d, y) ≠ (c, x) → u.ctx d y = s.ctx d y
  slots   : ∀ d k, u.slot d k = s.slot d k
  arcs    : ∀ d, u.arc d = s.arc d
  bytes   : BytesSame s u
  tcause  : (u.ctx c x).tcause = BitVec.ofNat 64 r.cause.code
  tval    : (u.ctx c x).tval = r.val
  tpc     : (u.ctx c x).tpc = r.pc
  tstate  : (u.ctx c x).tstate = packXfer r.pend (s.ctx c x).modeRev
  monitor : (u.ctx c x).mcause = BitVec.ofNat 64 r.cause.code ∧ (u.ctx c x).mval = r.val ∧ (u.ctx c x).mpc = r.pc
  level   : (u.ctx c x).modeM = false ∧ (u.ctx c x).modeH = true ∧ (u.ctx c x).modeRev = (s.ctx c x).modeRev
  fetch   : (u.ctx c x).prog.pc = (s.ctx c x).tvec ∧ (u.ctx c x).prog.pend = none ∧ (u.ctx c x).prog.trapping = none ∧
    (u.ctx c x).prog.loops = {} ∧ (u.ctx c x).prog.hold = some (.clock (s.now + 32))
  aside   : (u.ctx c x).asideH = (s.ctx c x).prog.loops
  regs    : ∀ n, (u.ctx c x).prog.getS n = (s.ctx c x).prog.getS n
  links   : ∀ n, (u.ctx c x).prog.getB n = (s.ctx c x).prog.getB n
  state   : (u.ctx c x).h = (s.ctx c x).h ∧ (u.ctx c x).v = (s.ctx c x).v ∧ (u.ctx c x).fsr = (s.ctx c x).fsr ∧
    (u.ctx c x).frm = (s.ctx c x).frm ∧ (u.ctx c x).fte = (s.ctx c x).fte ∧ (u.ctx c x).tvec = (s.ctx c x).tvec ∧
    (u.ctx c x).instret = (s.ctx c x).instret ∧ (u.ctx c x).prio = (s.ctx c x).prio

/-- The thread's level, handler and registers let a trap be reflected at once (R100). -/
abbrev Reflects (s : State) (c x : Nat) : Prop :=
  (s.ctx c x).modeM = false ∧ (s.ctx c x).modeH = false ∧ (s.ctx c x).tvec ≠ 0 ∧ s.entryOk (.thread c x) (s.ctx c x).tvec = true ∧
    s.drained (.thread c x) = true

/-- A program resumes after a return (R102, R349): with no pending transfer at an address; with delay slots to run at that address, before
them; with none left at the transfer's destination, which a taken transfer enters with its checks, a taken branch leaving the loops
that do not hold it (R73), and where an untaken one goes on. An untaken one at the end of an active loop is left out (log entry 54). -/
structure Resumes (p : Prog) (pc : DWord) (x : Option Xfer) (loops : Loops) : Prop where
  plain : x = none → p.pc = pc ∧ p.arrive = .plain ∧ p.pend = none ∧ p.loops = loops
  slots : ∀ y, x = some y → y.slots ≠ 0 → p.pc = pc ∧ p.arrive = .plain ∧ p.pend = some y ∧ p.loops = loops
  taken : ∀ y, x = some y → y.slots = 0 → y.taken = true → p.pc = y.dest ∧ p.arrive = .checked y ∧ p.pend = none ∧
    (y.kind ≠ .br → p.loops = loops) ∧
    (y.kind = .br → ∀ k, k ∈ p.loops.order ↔ k ∈ loops.order ∧ (SMap.get {} loops.lc k).start.toNat ≤ y.dest.toNat ∧
      y.dest.toNat < (SMap.get {} loops.lc k).stop.toNat)
  untaken : ∀ y, x = some y → y.slots = 0 → y.taken = false → (∀ k, k ∈ loops.order → (SMap.get {} loops.lc k).stop ≠ y.dest) →
    p.pc = y.dest ∧ p.arrive = .untaken y ∧ p.pend = none ∧ p.loops = loops

/-- The state in which an instruction runs: nothing has stalled. -/
def fresh (s : State) : State := { s with stalled := false }

/-- An instruction under a scalar guard: it stalls while the guard's register is empty, retires without effect where the guard is false, and
makes its T bits' checks where it is true or absent (R25, R27). -/
def GuardsScalar (s : State) (lw : LW) (i : Instr) (xs : List Src) : Prop :=
  (lw.g = true → s.regEmpty s.cur (srcS lw.greg) = true → Stalls i s) ∧
  (lw.g = true → RegsReady s [srcS lw.greg] → guardHolds lw (s.getS s.cur lw.greg) = false → Retires i s 2 (fresh s)) ∧
  (GuardOn s lw → MarksTrap i s xs)

/-- An instruction under a lane guard: it stalls while the guard is empty and makes its T bits' checks once it is full (R25, R27, R161). -/
def GuardsLanes (s : State) (lw : LW) (i : Instr) (xs : List Src) : Prop :=
  (lw.g = true → s.regEmpty s.cur (srcV lw.greg) = true → Stalls i s) ∧
  ((lw.g = true → RegsReady s [srcV lw.greg]) → MarksTrap i s xs)

/-! ### Vector instructions -/

/-- Lane j of a vector instruction of element width w is enabled: it has no guard, or the guard's bit of the element says so (R161). -/
def laneEnabled (s : State) (lw : LW) (w j : Nat) : Bool :=
  !lw.g || (s.getV s.cur lw.greg).getLsbD (w * j + lw.gbit.toNat) != lw.n

/-- A vector program's instruction can issue: it stands well, its registers and its guard are ready, and the lane datapath accepts it
(R159, R162); the guard's bit lies within an element (R161). -/
structure VecReady (s : State) (lw : LW) (w : Nat) (xs : List Src) : Prop where
  runs   : ∃ c k, s.cur = .vec c k
  stands : Stands s 2 .any
  regs   : RegsReady s (xs ++ if lw.g then [srcV lw.greg] else [])
  lanes  : (s.core s.cur.core).laneFree ≤ s.now
  gbit   : lw.gbit.toNat < w

/-- The flags that the enabled ones of the first n lanes raise (R165). -/
def laneFlags (s : State) (lw : LW) (w n : Nat) (f : Nat → Flags) : Flags :=
  (List.range n).foldl (fun a j => if laneEnabled s lw w j then a ||| f j else a) 0

/-- A pipelined or iterative vector instruction completes under R165: with no enabled flag raised, a value of which `ok` holds is on its
way to v_d or s_d, `lat` clocks from now, and `fsr` collects the flags; otherwise `fsr` collects them, nothing is written and the program
traps FPX with the enabled ones. The lane datapath is taken for `dp` clocks. -/
def VecCommits (i : Instr) (s : State) (isVec : Bool) (d : Reg) (dp lat : Nat) (ok : Nat → Prop) (fl : Flags) : Prop :=
  let s1 := ((fresh s).occupyLanes s.cur.core dp).orFsr s.cur fl
  let p := s.prog s.cur
  let on := fl &&& (s.thread s.cur).fte.setWidth 8
  (on = 0 → ∃ v, ok v ∧ Retires i s 2 (if isVec = false ∧ d = 0 then s1 else
    s1.addResult s.cur ⟨isVec, d.toNat, v, s.now + lat, false, fl, 0, p.pc, p.pend, none⟩)) ∧
  (on ≠ 0 → exec i s = .next (s1.raise s.cur ⟨.fpx, BitVec.ofNat 64 on.toNat, p.pc, p.pend⟩))

/-- The value of v_d at width w: the result in every enabled lane, the old element in the others (R161). -/
def lanesHold (s : State) (lw : LW) (w : Nat) (d : Reg) (f : Nat → Nat) (v : Nat) : Prop :=
  ∀ j, j < 8192 / w → velem (BitVec.ofNat 8192 v) w j = if laneEnabled s lw w j then f j % 2 ^ w else velem (s.getV s.cur d) w j

/-- A lane-wise instruction completes with the results and the flags of its lanes. -/
def VecWrites (i : Instr) (s : State) (lw : LW) (d : Reg) (w dp lat : Nat) (f : Nat → Nat × Flags) : Prop :=
  VecCommits i s true d dp lat (lanesHold s lw w d (fun j => (f j).1)) (laneFlags s lw w (8192 / w) (fun j => (f j).2))

/-- A long-latency lane-wise instruction completes: v_d is empty, its value is on its way, and with NV, DZ, OF, UF or NX enabled the slot
is held until then (R162, R163, R165). -/
def VecWritesLong (i : Instr) (s : State) (lw : LW) (d : Reg) (w : Nat) (f : Nat → Nat × Flags) : Prop :=
  let t := s.thread s.cur
  let p := s.prog s.cur
  let fl := laneFlags s lw w (8192 / w) (fun j => (f j).2)
  let s1 := ((fresh s).occupyLanes s.cur.core 2).setThread s.cur { t with vEmpty := t.vEmpty ||| (1#64 <<< d.toNat) }
  ∃ v, lanesHold s lw w d (fun j => (f j).1) v ∧
    let s2 := s1.addResult s.cur ⟨true, d.toNat, v, s.now + 20, true, fl, fl &&& t.fte.setWidth 8, p.pc, p.pend, none⟩
    Retires i s 2 (if t.fte &&& 0x1F = 0 then s2 else s2.holdOn s.cur .longResult)

/-! ### Commands pushed to the queues -/

/-- A command of thread x of core c, an instruction of `len` words, completes its push: the next sequence number goes to s_tag, the item of
which `ok` holds, with its words, the core's ASID and no progress, stands last among the core's items with the thread's priority and with
its edges (R127, R131, R252); each page of its footprint is counted in flight once more in the translation cache, one that finds an entry to
replace there (R219, R221); flow goes on, the thread gets the hold given, its tape pointer may move with the records of a copy, and
nothing else of the machine changes. -/
def Pushes (i : Instr) (s : State) (c x len : Nat) (tag : Reg) (hold : Option Hold) (ok : Item → Prop) : Prop :=
  let k := s.core c
  let p := SMap.get 0 s.remap c
  let pinned (u : State) (base : Nat) : Nat :=
    ((SMap.get [] u.tlbs p).filter (fun e => e.asid == k.asid && e.base == base)).foldl (fun m e => max m e.pins) 0
  ∃ t j, exec i s = .next t ∧ ok j ∧ j.seq = k.nextSeq ∧ j.prio = (s.ctx c x).prio ∧ j.owner = x ∧ j.asid = k.asid ∧ j.words = encode i ∧
    j.running = false ∧ j.begun = false ∧ j.finished = false ∧ j.progress = 0 ∧ j.flags = 0 ∧
    (∀ e, e ∈ j.edges ↔ ∃ o, o ∈ k.items ∧ e.to_ = o.seq ∧ (e.kind = .raw ∧ (∃ g, g ∈ o.writes ∧ g ∈ j.reads) ∨
      e.kind = .waw ∧ (∃ g, g ∈ o.writes ∧ g ∈ j.writes) ∨ e.kind = .war ∧ ∃ g, g ∈ o.reads ∧ g ∈ j.writes)) ∧
    (t.core c).items = k.items ++ [j] ∧ (t.core c).nextSeq = k.nextSeq + 1 ∧
    ((∀ b, pinned t b = pinned s b + (j.pages.filter (fun g => g.base == b)).length) ∨ ∀ e ∈ SMap.get [] t.tlbs p, 0 < e.pins) ∧
    (∀ n, n ≠ p → SMap.get [] t.tlbs n = SMap.get [] s.tlbs n) ∧
    { t with cores := s.cores, stalled := s.stalled, tlbs := s.tlbs, draws := s.draws } = s ∧
    (∀ d, { t.core d with ctxs := (s.core d).ctxs, slots := (s.core d).slots, arc := (s.core d).arc, items := (s.core d).items,
                          nextSeq := (s.core d).nextSeq } = s.core d) ∧
    (∀ d, d ≠ c → (t.core d).items = (s.core d).items ∧ (t.core d).nextSeq = (s.core d).nextSeq) ∧
    (∀ d y, (d, y) ≠ (c, x) → t.ctx d y = s.ctx d y) ∧ EnginesSame s t ∧ BytesSame s t ∧
    { t.ctx c x with prog := (s.ctx c x).prog, instret := (s.ctx c x).instret, tapeptr := (s.ctx c x).tapeptr } = s.ctx c x ∧
    t.getS s.cur tag = (if tag = 0 then 0 else BitVec.ofNat 64 k.nextSeq) ∧ (∀ r, r ≠ tag → t.getS s.cur r = s.getS s.cur r) ∧
    ProgsSame s t hold ∧ FlowsOn s t len ∧ (t.ctx c x).instret = (s.ctx c x).instret + 1

/-! ### Invariants -/

/-- The host's view is in order (R370–R376, R380): EQHEAD and EQTAIL keep within their 12 bits, and STATE is ready only on a device
with at least 128 healthy physical cores, none of which is held. -/
def BoardOk (s : State) : Prop :=
  s.board.eqHead < 4096 ∧ s.board.eqTail < 4096 ∧
    (s.board.devState = .ready → 128 ≤ s.board.healthy ∧ s.board.stopped = false)

/-- What the state lists is in canonical form: HBM and every scratchpad as memories, the contexts of every core and the installed
flows with their numbers rising, each number once. -/
structure ListsOk (s : State) : Prop where
  hbm   : s.hbm.wf = true
  spad  : ∀ c, (s.core c).spad.wf = true
  ctxs  : ∀ c, SMap.wf (s.core c).ctxs = true
  flows : SMap.wf s.flows = true

end Sys2Proof.Safety
end

