-- ==== Sys2Proof/Certificates/Slice0/Obligations.lean ====
section
/-! DEFINITION. The statements for the provers: each formalises rules of the spec that its docstring names. -/

open Sys2Proof
open Sys2Proof.Machine
open Sys2Proof.Safety

/-- The two-source integer instructions write the result of R54, and nothing else changes (R52). `DIV`, `DIVN`, `REM` and `REMN` hold
the thread for 18 clocks and write what R55 computes; a divisor of zero traps DIVZERO with the dividend and writes nothing. -/
def Obligations.IntegerArithmetic : Prop :=
 (∀ (s : State) (d a b : Reg), Stands s 1 .any → RegsReady s [srcS a, srcS b, srcS d] →
    let x := s.getS s.cur a
    let y := s.getS s.cur b
    let n := y.toNat % 64
    WritesS (.add d a b) s 1 d (BitVec.ofNat 64 (x.toNat + y.toNat)) ∧
    WritesS (.sub d a b) s 1 d (BitVec.ofInt 64 ((x.toNat : Int) - y.toNat)) ∧
    WritesS (.mul d a b) s 1 d (BitVec.ofNat 64 (x.toNat * y.toNat)) ∧
    WritesS (.mulh d a b) s 1 d (BitVec.ofInt 64 (x.toInt * y.toInt / 2 ^ 64)) ∧
    WritesS (.mulhn d a b) s 1 d (BitVec.ofNat 64 (x.toNat * y.toNat / 2 ^ 64)) ∧
    WritesS (.and d a b) s 1 d (x &&& y) ∧
    WritesS (.or d a b) s 1 d (x ||| y) ∧
    WritesS (.xor d a b) s 1 d (x ^^^ y) ∧
    WritesS (.shl d a b) s 1 d (BitVec.ofNat 64 (x.toNat * 2 ^ n)) ∧
    WritesS (.shr d a b) s 1 d (BitVec.ofNat 64 (x.toNat / 2 ^ n)) ∧
    WritesS (.sar d a b) s 1 d (BitVec.ofInt 64 (x.toInt / 2 ^ n)) ∧
    WritesS (.min d a b) s 1 d (if x.toInt ≤ y.toInt then x else y) ∧
    WritesS (.max d a b) s 1 d (if x.toInt ≤ y.toInt then y else x) ∧
    WritesS (.minn d a b) s 1 d (if x.toNat ≤ y.toNat then x else y) ∧
    WritesS (.maxn d a b) s 1 d (if x.toNat ≤ y.toNat then y else x)) ∧
 (∀ (s : State) (d a b : Reg), Stands s 1 .any → RegsReady s [srcS a, srcS b, srcS d] →
    let x := s.getS s.cur a
    let y := s.getS s.cur b
    (y = 0 → ∀ i ∈ [Instr.div d a b, .divn d a b, .rem d a b, .remn d a b], Traps i s .divzero x) ∧
    (y ≠ 0 →
      WritesSHeld (.div d a b) s 1 d (BitVec.ofInt 64 (x.toInt.tdiv y.toInt)) 18 ∧
      WritesSHeld (.divn d a b) s 1 d (BitVec.ofNat 64 (x.toNat / y.toNat)) 18 ∧
      WritesSHeld (.rem d a b) s 1 d (BitVec.ofInt 64 (x.toInt - x.toInt.tdiv y.toInt * y.toInt)) 18 ∧
      WritesSHeld (.remn d a b) s 1 d (BitVec.ofNat 64 (x.toNat - x.toNat / y.toNat * y.toNat)) 18))

/-- The immediate, bit and move instructions write the results of R56, R59, R60, R61, R63 and R64, and nothing else changes. `CLZ`,
`CTZ` and `POPC` count as R59 says: the zero bits above the highest set bit, those below the lowest, 64 where no bit is set, and the
set bits; nothing else changes. -/
def Obligations.OneSourceForms : Prop :=
 (∀ (s : State) (d a : Reg) (imm : BitVec 12), Stands s 1 .any → RegsReady s [srcS a, srcS d] →
    let x := s.getS s.cur a
    let k := imm.toNat % 64
    let len := imm.toNat / 64 + 1
    WritesS (.addi d a imm) s 1 d (BitVec.ofInt 64 (x.toInt + imm.toInt)) ∧
    WritesS (.andi d a imm) s 1 d (x &&& BitVec.ofInt 64 imm.toInt) ∧
    WritesS (.ori d a imm) s 1 d (x ||| BitVec.ofInt 64 imm.toInt) ∧
    WritesS (.xori d a imm) s 1 d (x ^^^ BitVec.ofInt 64 imm.toInt) ∧
    WritesS (.shli d a imm) s 1 d (BitVec.ofNat 64 (x.toNat * 2 ^ k)) ∧
    WritesS (.shri d a imm) s 1 d (BitVec.ofNat 64 (x.toNat / 2 ^ k)) ∧
    WritesS (.sari d a imm) s 1 d (BitVec.ofInt 64 (x.toInt / 2 ^ k)) ∧
    WritesS (.bset d a imm) s 1 d (x ||| BitVec.ofNat 64 (2 ^ k)) ∧
    WritesS (.bclr d a imm) s 1 d (x &&& ~~~(BitVec.ofNat 64 (2 ^ k))) ∧
    WritesS (.bext d a imm) s 1 d (BitVec.ofNat 64 (x.toNat / 2 ^ k % 2 ^ len)) ∧
    WritesS (.bins d a imm) s 1 d
      (BitVec.ofNat 64 (((s.getS s.cur d).toNat &&& ((2 ^ 64 - 1) ^^^ ((2 ^ len - 1) * 2 ^ k % 2 ^ 64))) ||| x.toNat % 2 ^ len * 2 ^ k)) ∧
    WritesS (.mov d a) s 1 d x) ∧
 (∀ (s : State) (d a : Reg), Stands s 1 .any → RegsReady s [srcS a, srcS d] →
    let x := s.getS s.cur a
    (∃ n, n ≤ 64 ∧ (∀ j, 64 - n ≤ j → j < 64 → x.getLsbD j = false) ∧ (n < 64 → x.getLsbD (63 - n) = true) ∧
      WritesS (.clz d a) s 1 d (BitVec.ofNat 64 n)) ∧
    (∃ n, n ≤ 64 ∧ (∀ j, j < n → x.getLsbD j = false) ∧ (n < 64 → x.getLsbD n = true) ∧
      WritesS (.ctz d a) s 1 d (BitVec.ofNat 64 n)) ∧
    WritesS (.popc d a) s 1 d (BitVec.ofNat 64 ((List.range 64).countP (fun j => x.getLsbD j))))

/-- The compares replace bit k of d by the condition and keep every other bit (R57, R58); nothing else changes. `LI` and `LUI` write
the results of R63, and nothing else changes. `LEA` and `SEL` under a guard that holds write the results of R62 and R64, and nothing
else changes; without T bits they stall while a register that they read is empty, `SEL` for the one that the select bit does not pick
too (R52, R64). -/
def Obligations.ComparesAndAddresses : Prop :=
 (∀ (s : State) (d a b k : Reg) (imm : BitVec 12) (lw : LW),
    let x := s.getS s.cur a
    let y := s.getS s.cur b
    let z := BitVec.ofInt 64 imm.toInt
    let cond (cc : Nat) (x y : DWord) : Prop :=
      (cc = 0 → x = y) ∧ (cc = 1 → x ≠ y) ∧ (cc = 2 → x.toInt < y.toInt) ∧ (cc = 3 → x.toNat < y.toNat) ∧
        (cc = 4 → y.toInt ≤ x.toInt) ∧ (cc = 5 → y.toNat ≤ x.toNat)
    let sets (i : Instr) (len k cc : Nat) (x y : DWord) : Prop :=
      ∃ v : DWord, (∀ j, j < 64 → j ≠ k → v.getLsbD j = (s.getS s.cur d).getLsbD j) ∧
        (v.getLsbD k = true ↔ cond cc x y) ∧ WritesS i s len d v
    (Stands s 1 .any → RegsReady s [srcS a, srcS b, srcS d] →
      sets (.cmpEq d a b k) 1 k.toNat 0 x y ∧ sets (.cmpNe d a b k) 1 k.toNat 1 x y ∧ sets (.cmpLt d a b k) 1 k.toNat 2 x y ∧
        sets (.cmpLtn d a b k) 1 k.toNat 3 x y ∧ sets (.cmpGe d a b k) 1 k.toNat 4 x y ∧ sets (.cmpGen d a b k) 1 k.toNat 5 x y) ∧
    (Stands s 2 .any → GuardOn s lw → RegsReady s [srcS a, srcS d] → lw.y.toNat / 8 ≤ 5 →
      sets (.cmpi d a imm lw) 2 lw.x.toNat (lw.y.toNat / 8) x z)) ∧
 (∀ (s : State) (d : Reg) (imm : Word), Stands s 2 .any → RegsReady s [srcS d] →
    WritesS (.li d imm) s 2 d (BitVec.ofInt 64 imm.toInt) ∧
    WritesS (.lui d imm) s 2 d (BitVec.ofNat 64 (imm.toNat * 2 ^ 32 + (s.getS s.cur d).toNat % 2 ^ 32))) ∧
 (∀ (s : State) (d a b fn : Reg) (lw : LW), Stands s 2 .any → GuardOn s lw →
    let x := s.getS s.cur a
    let y := s.getS s.cur b
    (RegsReady s [srcS a, srcS b, srcS d] →
      WritesS (.lea d a b fn lw) s 2 d (BitVec.ofInt 64 (x.toInt + y.toInt * 2 ^ fn.toNat + lw.ext.toInt))) ∧
    (RegsReady s [srcS a, srcS b, srcS lw.x, srcS d] →
      WritesS (.sel d a b lw) s 2 d (if (s.getS s.cur lw.x).getLsbD lw.y.toNat then x else y)) ∧
    (lw.ta = false → lw.tb = false → lw.tc = false →
      ((∃ r, r ∈ [srcS a, srcS b] ∧ s.regEmpty s.cur r = true) → Stalls (.lea d a b fn lw) s) ∧
      ((∃ r, r ∈ [srcS a, srcS b, srcS lw.x] ∧ s.regEmpty s.cur r = true) → Stalls (.sel d a b lw) s)))

/-- `PBR` and `PBRR` write bits 16:2 of a branch-target register and nothing else; a `PBRR` of an address beyond 17 bits, or not of a
word, traps CFI with the address (R65, R66). A transfer fixes its destination and its condition when it executes, and two delay slots
follow (R67, R68). `CALL` writes s63 the address after its second delay slot then, which is also where an untaken transfer goes on:
each slot counts the words that the MOP of its first word fixes in the memory, one where that is undefined, and a bundle counts as one
instruction (R69, R294). Where the slots' lengths would cross a line, or a slot lies beyond the memory, this is the model's choice
(log entry 54). Nothing else changes. -/
def Obligations.TransfersBegin : Prop :=
 (∀ (s : State) (d a : Reg) (imm : BitVec 18), Stands s 1 .any →
    let p := s.prog s.cur
    let x := s.getS s.cur a
    let sets (i : Instr) (v : Int) : Prop :=
      ∃ t, exec i s = .next t ∧ OnlyProg s t ∧ FlowsOn s t 1 ∧ (∀ r, t.getS s.cur r = s.getS s.cur r) ∧
        ∀ n, (((t.prog s.cur).getB n).toNat : Int) = if n = d.toNat then v else (p.getB n).toNat
    sets (.pbr d imm) (((p.pc.toNat : Int) + 4 * imm.toInt) % 2 ^ 17 / 4 * 4) ∧
    (RegsReady s [srcS a] → x.toNat < 2 ^ 17 → x.toNat % 4 = 0 → sets (.pbrr d a) x.toNat) ∧
    (RegsReady s [srcS a] → ¬ (x.toNat < 2 ^ 17 ∧ x.toNat % 4 = 0) → Traps (.pbrr d a) s .cfi x)) ∧
 (∀ (s : State) (d a k : Reg), Stands s 1 .xfer →
    let p := s.prog s.cur
    let word (at_ : Nat) : Word := s.iword s.cur at_
    let mop (at_ : Nat) : Nat := (word at_).toNat / 2 ^ 24
    let last (at_ : Nat) : Prop := (word at_).getLsbD 3 = true ∨ at_ / 4 % 32 = 28 ∨ mop (at_ + 16) ∉ [0x80, 0x81]
    let subtrees (at_ n : Nat) : Prop := 1 ≤ n ∧ n ≤ 4 ∧ (∀ j, j + 1 < n → ¬ last (at_ + 16 * j)) ∧ (n < 4 → last (at_ + 16 * (n - 1)))
    let longShared : List Nat := [0x36, 0x40, 0x41, 0x42, 0x44, 0x50]
    let longControl : List Nat := [0x8D, 0x94, 0x9E, 0xC0, 0xC1, 0xC2, 0xC3, 0xC4, 0xC5, 0xC6, 0xC7, 0xC8, 0xC9, 0xD6]
    let longVector (m : Nat) : Prop := (0x80 ≤ m ∧ m ≤ 0x90) ∨ (0xA0 ≤ m ∧ m ≤ 0xAE) ∨ (0xB0 ≤ m ∧ m ≤ 0xB2) ∨ (0xC0 ≤ m ∧ m ≤ 0xC2) ∨
      (0xD0 ≤ m ∧ m ≤ 0xDB) ∨ (0xE0 ≤ m ∧ m ≤ 0xE6) ∨ (0xE8 ≤ m ∧ m ≤ 0xEB) ∨ (0xF0 ≤ m ∧ m ≤ 0xF2)
    let two (at_ : Nat) : Prop := mop at_ ∈ longShared ∨ (s.cur.imem = .control ∧ mop at_ ∈ longControl) ∨
      (s.cur.imem = .vector ∧ longVector (mop at_)) ∨ (s.cur.imem = .arcade ∧ mop at_ = 0x8A)
    let four (at_ n : Nat) : Prop := (s.cur.imem = .control ∧ mop at_ = 0xD0 ∧ n = 1) ∨
      (s.cur.imem = .arcade ∧ mop at_ ∈ [0x80, 0x81] ∧ subtrees at_ n)
    let words (at_ n : Nat) : Prop := (two at_ ∧ n = 2) ∨ (∃ m, four at_ m ∧ n = 4 * m) ∨ (¬ two at_ ∧ (∀ m, ¬ four at_ m) ∧ n = 1)
    ∀ n1 n2, words (seqNext p.pc 1).toNat n1 → words (seqNext (seqNext p.pc 1) n1).toNat n2 →
    let link := seqNext (seqNext (seqNext p.pc 1) n1) n2
    let starts (i : Instr) (p1 : Prog) (kind : XKind) (dest : DWord) (taken : Bool) : Prop :=
      ∃ t, exec i s = .next t ∧ OnlyProg s t ∧
        t.prog s.cur = ({ p1 with pend := some ⟨kind, p.pc, if taken then dest else link, taken, 2⟩ } : Prog).loopCheck (seqNext p.pc 1)
    let target := (p.getB d.toNat).setWidth 64
    (RegsReady s [srcS a] → starts (.brx d a k) p .br target ((s.getS s.cur a).getLsbD k.toNat)) ∧
    (RegsReady s [srcS a] → starts (.brxn d a k) p .br target (!(s.getS s.cur a).getLsbD k.toNat)) ∧
    starts (.br d) p .br target true ∧
    (RegsReady s [srcS 63] → starts (.call d) (p.setS 63 link) .call target true) ∧
    (RegsReady s [srcS 63] → starts .ret p .ret (s.getS s.cur 63) true))

/-- What a retiring instruction, here `NOP`, does to a pending transfer: the first delay slot counts down and flow goes on in
sequence; the second lets a taken transfer enter its destination, where its checks are made, while an untaken one goes on in sequence
(R67, R68). A taken branch leaves, with a count of 0, exactly the loops that do not hold its destination, and every other transfer
leaves none (R73). Only an active loop forbids a slot at its end: one whose counter has reached 0 before the slot does not (R72, R74).
A transfer or a loop instruction in a delay slot, and a delay slot or a transfer that ends an active loop's body, trap ILLSLOT with
the address of the instruction, without effect, before any other check of the instruction (R68, R74); a bundle of subtrees stands
there as one instruction (R294). -/
def Obligations.DelaySlots : Prop :=
 (∀ (s : State) (x : Xfer),
    let p := s.prog s.cur
    let loop (k : Nat) : Loop := SMap.get {} p.loops.lc k
    let holds (k : Nat) : Bool := decide ((loop k).start.toNat ≤ x.dest.toNat ∧ x.dest.toNat < (loop k).stop.toNat)
    (∀ k, k ∈ p.loops.order → (loop k).stop ≠ seqNext p.pc 1) → p.pend = some x →
    (s.cur.isFork && x.kind == .ret && x.dest == exitLink) = false →
    ∃ t, exec .nop s = .next t ∧ OnlyProg s t ∧
      let u := t.prog s.cur
      (x.slots = 2 → u.pend = some { x with slots := 1 } ∧ u.pc = seqNext p.pc 1 ∧ u.arrive = .plain ∧ u.loops = p.loops) ∧
      (x.slots = 1 → x.taken = true → u.pend = none ∧ u.pc = x.dest ∧ u.arrive = .checked { x with slots := 0 } ∧
        (x.kind ≠ .br → u.loops = p.loops) ∧
        (x.kind = .br → u.loops.order = p.loops.order.filter holds ∧
          ∀ k, SMap.get {} u.loops.lc k = if k ∈ p.loops.order ∧ holds k = false then { loop k with count := 0 } else loop k)) ∧
      (x.slots = 1 → x.taken = false → (∀ k, k ∈ p.loops.order → (loop k).stop ≠ x.dest) →
        u.pend = none ∧ u.pc = x.dest ∧ u.arrive = .untaken { x with slots := 0 } ∧ u.loops = p.loops)) ∧
 (∀ (s : State) (d a k : Reg) (imm : BitVec 12) (imm32 : Word),
    let p := s.prog s.cur
    let endsAt (len : Nat) : Prop := ∃ j, j ∈ p.loops.order ∧ (SMap.get {} p.loops.lc j).stop = seqNext p.pc len
    (∀ x, p.pend = some x → 1 ≤ x.slots →
      (∀ i ∈ [Instr.br d, .brx d a k, .brxn d a k, .call d, .ret], Traps i s .illslot p.pc) ∧
      (2 ≤ (p.pc + BitVec.ofNat 64 (4 * imm.toNat)).toNat / 4 % 32 →
        Traps (.loop d a imm) s .illslot p.pc ∧ Traps (.loopi d imm imm32) s .illslot p.pc) ∧
      (∀ i : Instr, encode i ≠ [] → (∀ d a m, i ≠ .loop d a m) → (∀ d m v, i ≠ .loopi d m v) → (∀ e f g h, i ≠ .aspUp e f g h ∧ i ≠ .aspDn e f g h) →
        endsAt (encode i).length → Traps i s .illslot p.pc) ∧
      (∀ e f g h ts, (s.bundle s.cur (subtreeOf false e f g h) = .ok ts → endsAt (4 * ts.length) → Traps (.aspUp e f g h) s .illslot p.pc) ∧
        (s.bundle s.cur (subtreeOf true e f g h) = .ok ts → endsAt (4 * ts.length) → Traps (.aspDn e f g h) s .illslot p.pc))) ∧
    (endsAt 1 → ∀ i ∈ [Instr.br d, .brx d a k, .brxn d a k, .call d, .ret], Traps i s .illslot p.pc))

/-- `LOOP` and `LOOPI` arm a loop counter with its count, start and end and make it the most recently armed, or go to the end where
the count is 0; an end on a header word traps ILLEGAL, and a body that would start at its end is no instruction (R71); in a delay slot
both trap ILLSLOT (R68). The loop-end check after an instruction, here `NOP`: over the active loops, the most recently armed first,
each that ends at the next address counts down; with a count left flow goes back to its start and the loops armed before it are not
looked at; one whose count reaches 0 becomes inactive and the next is tested. So loops that share an end close innermost first, and
where no loop ends flow goes on in sequence, inside a body too (R31, R72, R83). -/
def Obligations.HardwareLoops : Prop :=
 (∀ (s : State) (d a : Reg) (imm : BitVec 12) (imm32 : Word),
    let p := s.prog s.cur
    let stop := p.pc + BitVec.ofNat 64 (4 * imm.toNat)
    let arms (i : Instr) (len : Nat) (count : BitVec 32) : Prop :=
      ∃ t, exec i s = .next t ∧ OnlyProg s t ∧ (∀ r, t.getS s.cur r = s.getS s.cur r) ∧
        (p.pend = none → count = 0 → t.prog s.cur = p.loopCheck stop) ∧
        (p.pend = none → count ≠ 0 → t.prog s.cur =
          ({ p with loops := { lc := SMap.set p.loops.lc d.toNat ⟨count, seqNext p.pc len, stop⟩
                               order := d.toNat :: p.loops.order.filter (· != d.toNat) } } : Prog).loopCheck (seqNext p.pc len))
    (stop.toNat / 4 % 32 < 2 → Traps (.loop d a imm) s .illegal p.pc ∧ Traps (.loopi d imm imm32) s .illegal p.pc) ∧
    (2 ≤ stop.toNat / 4 % 32 →
      (Stands s 1 .loop → RegsReady s [srcS a] → arms (.loop d a imm) 1 ((s.getS s.cur a).setWidth 32)) ∧
      (Stands s 2 .loop → arms (.loopi d imm imm32) 2 imm32) ∧
      (∀ x, p.pend = some x → 1 ≤ x.slots → Traps (.loop d a imm) s .illslot p.pc ∧ Traps (.loopi d imm imm32) s .illslot p.pc)) ∧
    (imm.toNat ≤ 1 → (Instr.loop d a imm).wf = false) ∧ (imm.toNat ≤ 2 → (Instr.loopi d imm imm32).wf = false)) ∧
 (∀ (s : State) (xs ys : List Nat), Stands s 1 .any → (s.prog s.cur).pend = none →
    let p := s.prog s.cur
    let loop (k : Nat) : Loop := SMap.get {} p.loops.lc k
    let next := seqNext p.pc 1
    let closes (k : Nat) : Bool := (loop k).stop == next && (loop k).count == 1
    let kept := xs.filter (fun k => !closes k)
    let goes (pc : DWord) (order : List Nat) (lc : Nat → Loop) : Prop :=
      ∃ t, exec .nop s = .next t ∧ OnlyProg s t ∧ (∀ r, t.getS s.cur r = s.getS s.cur r) ∧ (t.prog s.cur).pend = none ∧
        (t.prog s.cur).hold = p.hold ∧ (t.prog s.cur).arrive = .plain ∧ (t.prog s.cur).pc = pc ∧ (t.prog s.cur).loops.order = order ∧
        ∀ k, SMap.get {} (t.prog s.cur).loops.lc k = lc k
    p.loops.order = xs ++ ys → p.loops.order.Nodup → (∀ k, k ∈ xs → (loop k).stop ≠ next ∨ closes k = true) →
    (ys = [] → goes next kept (fun k => if k ∈ xs ∧ closes k = true then { loop k with count := 0 } else loop k)) ∧
    (∀ k r, ys = k :: r → (loop k).stop = next → (loop k).count ≠ 1 →
      goes (loop k).start (kept ++ k :: r) (fun j => if j ∈ xs ∧ closes j = true then { loop j with count := 0 }
        else if j = k then { loop k with count := (loop k).count - 1 } else loop j)))

/-- `TOK.SEND` appends a token to a FIFO, and wakes a thread that sleeps on one; `TOK.RECV` claims a token and marks its destination
empty; `TOK.POLL` counts the tokens that are not claimed; a delivery gives the oldest token to the oldest claim, whose register
becomes full; nothing else of the machine changes. A full FIFO stalls a send, and so does a scratchpad access of the sender that is
still to come, a stream claim that is not filled among them; 16 unfilled claims of the program stall a receive (R76–R79, R209, R363).
That a send does not wait for the line of an `LDL` (log entry 67), and that `TOK.POLL` waits while d itself is still empty are the
model's choices (log entry 54). -/
def Obligations.TokenFifos : Prop :=
  (∀ (s : State) (d a fn : Reg), Stands s 1 .any →
    let q := s.cur
    let t := s.thread q
    let f := s.fifo q fn.toNat
    let mine := f.claims.filter (fun c => decide (c.owner = q))
    let put (g : Fifo) : Ctx := { t with fifos := SMap.set t.fifos fn.toNat g }
    let sent := put { f with tokens := f.tokens ++ [s.getS q a] }
    let claimed := (fresh s).setThread q (put { f with claims := f.claims ++ [⟨q, d.toNat⟩] })
    let p := claimed.prog q
    (RegsReady s [srcS a] → f.tokens.length < 16 → s.aspPending q = false → s.streamClaim q = false →
      ((∀ u, sent.prog.hold ≠ some (.sleep u)) → Retires (.tokSend a fn) s 1 ((fresh s).setThread q sent)) ∧
      (∀ u, sent.prog.hold = some (.sleep u) →
        Retires (.tokSend a fn) s 1 ((fresh s).setThread q { sent with prog := { sent.prog with hold := none } }))) ∧
    (RegsReady s [srcS a] → 16 ≤ f.tokens.length → Stalls (.tokSend a fn) s) ∧
    (RegsReady s [srcS a] → (∃ m ∈ (s.core q.core).streams, ∃ k ∈ m.2.claims, k.owner = q) → Stalls (.tokSend a fn) s) ∧
    (∀ c, q = .arc c → RegsReady s [srcS a] → (s.arc c).loads ≠ [] → Stalls (.tokSend a fn) s) ∧
    (RegsReady s [srcS d] → mine.length < 16 →
      Retires (.tokRecv d fn) s 1
        (claimed.setProg q { p with sEmpty := if d = 0 then p.sEmpty else p.sEmpty ||| 1#64 <<< d.toNat })) ∧
    (RegsReady s [srcS d] → 16 ≤ mine.length → Stalls (.tokRecv d fn) s) ∧
    (RegsReady s [srcS d] → WritesS (.tokPoll d fn) s 1 d (BitVec.ofNat 64 (f.tokens.length - f.claims.length)))) ∧
  (∀ (s : State) (v : DWord) (vs : List DWord) (c : TokClaim) (cs : List TokClaim),
    let q := Seqr.thread s.target.core s.target.unit
    let t := s.thread q
    let s1 := s.setThread q { t with fifos := SMap.set t.fifos s.target.id ⟨vs, cs⟩ }
    let p := s1.prog c.owner
    s.fifo q s.target.id = ⟨v :: vs, c :: cs⟩ → c.reg < 64 →
    exec .tokenDelivery s = .next (s1.setProg c.owner { p with s := if c.reg = 0 then p.s else SMap.set p.s c.reg v
                                                               sEmpty := p.sEmpty &&& ~~~(1#64 <<< c.reg) })) ∧
  (∀ (s : State), let f := s.fifo (.thread s.target.core s.target.unit) s.target.id
    f.tokens = [] ∨ f.claims = [] → exec .tokenDelivery s = .next s)

/-- `MFC` reads every control register of R17, and those of level M at level M alone: at level U they trap ILLEGAL (R80, R348). That
pinquota does so for a forked program too, which R82 lets read it, is the model's choice (log entry 54). `MTC` writes a control
register under the access and value rules of R17 and R18: the read-only ones, a value out of range, a register of level M at level U,
and in a forked program those that R82 names, trap ILLEGAL and write nothing. -/
def Obligations.ControlRegisters : Prop :=
 (∀ (s : State) (d : Reg) (imm : BitVec 12), Stands s 1 .any → RegsReady s [srcS d] → imm.toNat < 256 →
    let q := s.cur
    let t := s.thread q
    let w (n : Nat) : DWord := BitVec.ofNat 64 n
    (∀ n v, (n, v) ∈ [(0x00, w (q.core * 24 + s.ownerCtx q)), (0x01, w q.core), (0x02, w (s.pcore q.core)), (0x03, w t.prio),
        (0x04, w t.frm.toNat), (0x06, t.fte), (0x07, w (bit t.modeM * 4 + bit t.modeH * 2 + bit t.modeRev)), (0x08, t.tvec),
        (0x09, t.tcause), (0x0A, t.tval), (0x0B, t.tpc), (0x0C, t.tstate), (0x0D, t.tapebase), (0x0E, t.tapelim), (0x0F, t.tapeptr),
        (0x11, t.tseed), (0x12, w (s.now - t.cycleBase)), (0x13, t.instret)] → imm.toNat = n → WritesS (.mfc d imm) s 1 d v) ∧
    (imm.toNat = 0x05 → s.flagsPending q = false → WritesS (.mfc d imm) s 1 d t.fsr) ∧
    (∀ n v, (n, v) ∈ [(0x10, t.pinquota), (0x80, t.mcause), (0x81, t.mval), (0x82, t.mpc), (0x83, t.mstate), (0x84, t.mmode)] →
      imm.toNat = n → (t.modeM = true → WritesS (.mfc d imm) s 1 d v) ∧
        (t.modeM = false → Traps (.mfc d imm) s .illegal (s.prog q).pc)) ∧
    ((0x13 < imm.toNat ∧ imm.toNat < 0x80 ∨ 0x84 < imm.toNat) → Traps (.mfc d imm) s .illegal (s.prog q).pc)) ∧
 (∀ (s : State) (a : Reg) (imm : BitVec 12), Stands s 1 .any → RegsReady s [srcS a] → imm.toNat < 256 →
    let q := s.cur
    let t := s.thread q
    let v := s.getS q a
    let writes (u : Ctx) : Prop := Retires (.mtc a imm) s 1 ((fresh s).setThread q u)
    let refuses : Prop := Traps (.mtc a imm) s .illegal (s.prog q).pc
    (q.isFork = true → imm.toNat ∈ [0x03, 0x08, 0x09, 0x0A, 0x0B, 0x0C, 0x0E, 0x10] → refuses) ∧
    (imm.toNat ∈ [0x00, 0x01, 0x02, 0x07, 0x0D, 0x0F, 0x12, 0x13] ∨ 0x13 < imm.toNat ∧ imm.toNat < 0x80 ∨ 0x84 < imm.toNat → refuses) ∧
    (t.modeM = false → imm.toNat ∈ [0x10, 0x80, 0x81, 0x82, 0x83, 0x84] → refuses) ∧
    (imm.toNat = 0x04 → (v.toNat % 8 ≤ 4 → writes { t with frm := v.setWidth 3 }) ∧ (4 < v.toNat % 8 → refuses)) ∧
    (imm.toNat = 0x05 → s.flagsPending q = false → writes { t with fsr := v &&& 0xFF }) ∧
    (imm.toNat = 0x06 → writes { t with fte := v &&& 0xFF }) ∧
    (imm.toNat = 0x11 → writes { t with tseed := v }) ∧
    (q.isFork = false →
      (imm.toNat = 0x03 → (v.toNat ≤ 11 → writes { t with prio := v.toNat }) ∧ (11 < v.toNat → refuses)) ∧
      (imm.toNat = 0x08 → writes { t with tvec := v }) ∧
      (imm.toNat = 0x09 → writes { t with tcause := v &&& 0xFF }) ∧
      (imm.toNat = 0x0A → writes { t with tval := v }) ∧
      (imm.toNat = 0x0B → writes { t with tpc := v }) ∧
      (imm.toNat = 0x0C → writes { t with tstate := v &&& 0x7FFFFFFFFC }) ∧
      (imm.toNat = 0x0E → (v.toNat < 2 ^ 56 ∧ v.toNat % 16 = 0 → writes { t with tapelim := v }) ∧
        (¬ (v.toNat < 2 ^ 56 ∧ v.toNat % 16 = 0) → refuses)) ∧
      (t.modeM = true →
        (imm.toNat = 0x10 → writes { t with pinquota := v }) ∧
        (imm.toNat = 0x80 → writes { t with mcause := v &&& 0xFF }) ∧
        (imm.toNat = 0x81 → writes { t with mval := v }) ∧
        (imm.toNat = 0x82 → writes { t with mpc := v }) ∧
        (imm.toNat = 0x83 → writes { t with mstate := v &&& 0x7FFFFFFFFC }) ∧
        (imm.toNat = 0x84 → (v.getLsbD 2 = false → writes { t with mmode := v &&& 3 }) ∧ (v.getLsbD 2 = true → refuses)))))

/-- A trap of a thread with a handler is reflected once no result of the thread is in flight: that of an undefined word with the
cause, value and address of the check that failed, and a trap that stands; `TRAP` retires first, and its resume address is where flow
goes on. While a result of a thread is in flight, a trap stands and the thread's state does not change (R100). In flight is an empty
register, a claim on a FIFO or a stream register, a `DIGEST`, and a load, `GAMO` or `ADJ.LD` that has not been performed, one into s0
too (R12, R18, R229); with none of these, and no line of an `LDL` to come, the thread has drained. -/
def Obligations.TrapsReflected : Prop :=
 ((∀ (s : State) (c x : Nat) (cause : Cause) (tval tpc : DWord), s.cur = .thread c x → Reflects s c x → cause.reflects = true →
    ∃ u, exec (.undefinedMop cause tval tpc) s = .next u ∧ Reflected (fresh s) u c x ⟨cause, tval, tpc, (s.ctx c x).prog.pend⟩) ∧
  (∀ (s : State) (c x : Nat) (r : TrapReq), s.target.core = c → s.target.unit = x → (s.ctx c x).prog.trapping = some r →
    Reflects s c x → r.cause.reflects = true → ∃ u, exec .trapEntry s = .next u ∧ Reflected s u c x r) ∧
  (∀ (s : State) (c x : Nat) (code : BitVec 24), s.cur = .thread c x → Stands s 1 .any → Reflects s c x →
    let p := (s.prog s.cur).advanceTrap (seqNext (s.prog s.cur).pc 1)
    let s1 := ((fresh s).countRetired s.cur).setProg s.cur { p with pend := none }
    ∃ u, exec (.trap code) s = .next u ∧ Reflected s1 u c x ⟨.trapi, BitVec.ofNat 64 code.toNat, p.pc, p.pend⟩)) ∧
 (∀ (s : State) (c x : Nat) (cause : Cause) (tval tpc : DWord), s.cur = .thread c x →
    let t := s.ctx c x
    let q := Seqr.thread c x
    let claims : Prop := (∃ f ∈ t.fifos, ∃ k ∈ f.2.claims, k.owner = q) ∨ ∃ m ∈ (s.core c).streams, ∃ k ∈ m.2.claims, k.owner = q
    let loads (a : Acc) : Prop := (∃ r n, a.kind = .ldg r n) ∨ (∃ m o w v y d f u k, a.kind = .gamo m o w v y d f u k) ∨
      (∃ m n r k, a.kind = .adjRead m n r k) ∨ ∃ m n k, a.kind = .restore m n k
    let line (a : Acc) : Prop := ∃ m n, a.kind = .line m n
    (s.drained q = false → exec (.undefinedMop cause tval tpc) s = .next ((fresh s).setProg s.cur
      { s.prog s.cur with trapping := some ⟨cause, tval, tpc, (s.prog s.cur).pend⟩ })) ∧
    (t.prog.sEmpty ≠ 0 ∨ claims ∨ t.digests ≠ [] ∨ (∃ a ∈ t.accs, loads a ∧ a.performed = false) → s.drained q = false) ∧
    (t.prog.sEmpty = 0 → ¬ claims → t.digests = [] → (∀ a ∈ t.accs, (loads a → a.performed = true) ∧ (line a → a.done = true) ∧ ∀ n, a.kind ≠ .ldl n) →
      s.drained q = true))

/-- A trap of a thread that has no handler, that runs its handler, or that is at level M, disposes of the thread: it ends, its record
holds the cause, and its items that have not started, `SIG` and `WAITF` among them, fail with the cause (R100, R135, R350; log entry
67). The pending transfer that a trap records in `tstate` is the one that a return arms again (R70, R98, R102). -/
def Obligations.TrapsDisposed : Prop :=
 (∀ (s : State) (c x : Nat) (cause : Cause) (tval tpc : DWord), s.cur = .thread c x → s.drained (.thread c x) = true →
    cause ≠ .preempt → cause ≠ .timer →
    ((s.ctx c x).modeM = true ∨ (s.ctx c x).modeH = true ∨ (s.ctx c x).tvec = 0 ∨ cause.reflects = false) →
    ∃ u, exec (.undefinedMop cause tval tpc) s = .next u ∧ BytesSame s u ∧ (u.ctx c x).modeM = true ∧
      (u.ctx c x).prog.hold = some (.halting 0 (some ⟨cause, tval, tpc, (s.ctx c x).prog.pend⟩)) ∧
      (∀ d y, (d, y) ≠ (c, x) → u.ctx d y = s.ctx d y) ∧
      ∀ i ∈ (s.core c).items, i.running = false → i.failing = none → i.owner = x →
        { i with failing := some cause } ∈ (u.core c).items) ∧
 (∀ (x : Xfer) (rev : Bool), x.slots ≤ 2 → x.dest.toNat < 2 ^ 17 → x.dest.toNat % 4 = 0 → x.xaddr.toNat < 2 ^ 17 → x.xaddr.toNat % 4 = 0 →
    unpackXfer (packXfer (some x) rev) = some x ∧ (packXfer (some x) rev).getLsbD 23 = rev ∧
      xferInvalid (packXfer (some x) rev) = false ∧ packXfer (some x) rev &&& 0x7FFFFFFFFC = packXfer (some x) rev ∧
      unpackXfer (packXfer none rev) = none)

/-- `TRET` at level U returns from a handler: the loops set aside come back and H is cleared; where the mode of `tstate` is another,
it waits as a mode switch does; then the mode is that of `tstate` and flow goes on at `tpc` with the pending transfer of `tstate`, no
earlier than 16 clocks on; no register changes. Out of a handler, or with an invalid `tstate`, it traps ILLEGAL (R102, R73). `TRET` at
level M returns to the thread from the monitor record: the loops set aside and the thread's own s56–s63, b6 and b7 come back; where
the mode of `mmode` is another, it waits as a mode switch does; then the mode is that of `mmode` and flow goes on at `mpc` with the
pending transfer of `mstate`. With an invalid `mstate` it traps ILLEGAL (R348, R349). -/
def Obligations.Returns : Prop :=
 (∀ (s : State) (c x : Nat), s.cur = .thread c x → Stands s 1 .any → (s.ctx c x).modeM = false →
    let t := s.ctx c x
    let bad : Prop := t.modeH = false ∨ t.tstate.toNat / 2 ^ 19 % 4 = 3 ∨ t.tstate.toNat / 2 ^ 21 % 4 = 3
    (bad → Traps .tret s .illegal t.prog.pc) ∧
    (¬ bad →
      ∃ u, exec .tret s = .next u ∧ BytesSame s u ∧ DeviceSame s u ∧ CoresSame s u ∧ (∀ d y, (d, y) ≠ (c, x) → u.ctx d y = s.ctx d y) ∧
        (∀ d k, u.slot d k = s.slot d k) ∧ (∀ d, u.arc d = s.arc d) ∧
        { u.ctx c x with modeH := t.modeH, modeRev := t.modeRev, asideH := t.asideH, prog := t.prog, instret := t.instret } = t ∧
        (u.ctx c x).modeH = false ∧ (u.ctx c x).instret = t.instret + 1 ∧ (∀ n, (u.ctx c x).prog.getS n = t.prog.getS n) ∧
        (∀ n, (u.ctx c x).prog.getB n = t.prog.getB n) ∧ (u.ctx c x).prog.sEmpty = t.prog.sEmpty ∧
        (t.tstate.getLsbD 23 = t.modeRev →
          (u.ctx c x).modeRev = t.modeRev ∧ (u.ctx c x).prog.hold = some (.clock (s.now + 16)) ∧
          Resumes (u.ctx c x).prog t.tpc (unpackXfer t.tstate) t.asideH) ∧
        (t.tstate.getLsbD 23 ≠ t.modeRev →
          (u.ctx c x).modeRev = t.modeRev ∧ (u.ctx c x).prog.hold = some .tret ∧ (u.ctx c x).prog.loops = t.asideH ∧
          (u.ctx c x).prog.pend = none))) ∧
 (∀ (s : State) (c x : Nat), s.cur = .thread c x → Stands s 1 .any → (s.ctx c x).modeM = true →
    let t := s.ctx c x
    let bad : Prop := t.mstate.toNat / 2 ^ 19 % 4 = 3 ∨ t.mstate.toNat / 2 ^ 21 % 4 = 3
    (bad → Traps .tret s .illegal t.prog.pc) ∧
    (¬ bad →
      ∃ u, exec .tret s = .next u ∧ BytesSame s u ∧ DeviceSame s u ∧ CoresSame s u ∧ (∀ d y, (d, y) ≠ (c, x) → u.ctx d y = s.ctx d y) ∧
        (∀ n, n < 56 → (u.ctx c x).prog.getS n = t.prog.getS n) ∧
        (∀ n, 56 ≤ n → n < 64 → (u.ctx c x).prog.getS n = SMap.get 0 t.bankS n) ∧
        (∀ n, n < 6 → (u.ctx c x).prog.getB n = t.prog.getB n) ∧
        (∀ n, 6 ≤ n → n < 8 → (u.ctx c x).prog.getB n = SMap.get 0 t.bankB n) ∧
        (u.ctx c x).h = t.h ∧ (u.ctx c x).v = t.v ∧ (u.ctx c x).fsr = t.fsr ∧ (u.ctx c x).tvec = t.tvec ∧
        (t.mmode.getLsbD 0 = t.modeRev →
          (u.ctx c x).modeM = false ∧ (u.ctx c x).modeH = t.mmode.getLsbD 1 ∧ (u.ctx c x).modeRev = t.mmode.getLsbD 0 ∧
          (u.ctx c x).prog.hold = some (.clock (s.now + 16)) ∧ Resumes (u.ctx c x).prog t.mpc (unpackXfer t.mstate) t.asideM) ∧
        (t.mmode.getLsbD 0 ≠ t.modeRev →
          (u.ctx c x).modeM = true ∧ (u.ctx c x).modeRev = t.modeRev ∧ (u.ctx c x).prog.hold = some .tret ∧
          (u.ctx c x).prog.loops = t.asideM ∧ (u.ctx c x).prog.pend = none)))

/-- `FORK.V` starts a program in the lowest free slot and `FORK.A` in the Arcade, with s1, s2 and s63 set, the fork state RUNNING and
the fault record cleared; they stall while there is no room, and trap ILLEGAL where a program is forked already (R104, R116, R167,
R305). That the slot is the lowest of the free ones is the model's choice (log entry 54). `RDV` waits while a selected program runs,
then joins those selected and tells which ended by a fault; a bit beyond the two traps ILLEGAL with the value (R118). The end of a
forked program: by a trap once it has drained, with the record of R167 or R305 for its thread, or in the way it came, through its exit
link (R117, R166, R305); its slot or the Arcade is free then. A trap that stands goes first. An address that PC of the record cannot
hold is kept by the bits that fit (log entry 54). A `RET` to the exit link in a forked program ends the program once its two delay
slots have executed; in a thread it enters the address like any other, where its checks trap CFI (R69, R117). -/
def Obligations.ForksAndJoins : Prop :=
 (∀ (s : State) (c x : Nat) (d a b : Reg), s.cur = .thread c x → Stands s 1 .any → RegsReady s [srcS a, srcS b, srcS d] →
    let t := s.ctx c x
    let p : Prog := { pc := s.getS s.cur a, arrive := .fork t.prog.pc,
                      s := [(1, s.getS s.cur b), (2, BitVec.ofNat 64 (24 * c + x)), (63, 0x20000)] }
    (t.forkV ≠ .none → Traps (.forkV d a b) s .illegal t.prog.pc) ∧
    (t.forkV = .none → (∀ k, k < 4 → (s.slot c k).owner ≠ none) → Stalls (.forkV d a b) s) ∧
    (∀ k, t.forkV = .none → k < 4 → (s.slot c k).owner = none → (∀ j, j < k → (s.slot c j).owner ≠ none) →
      Retires (.forkV d a b) s 1 ((((fresh s).setCtx c x { t with forkV := .running, vfr := {} }).setSlot c k
        { owner := some x, prog := p }).setS s.cur d (BitVec.ofNat 64 k))) ∧
    (t.forkA ≠ .none → Traps (.forkA d a b) s .illegal t.prog.pc) ∧
    (t.forkA = .none → (s.arc c).owner ≠ none → Stalls (.forkA d a b) s) ∧
    (t.forkA = .none → (s.arc c).owner = none →
      Retires (.forkA d a b) s 1 ((((fresh s).setCtx c x { t with forkA := .running, afr := {} }).setArc c
        { s.arc c with owner := some x, prog := p, wb := [], seed := t.tseed }).setS s.cur d 0))) ∧
 (∀ (s : State) (c x : Nat) (d a : Reg), s.cur = .thread c x → Stands s 1 .any → RegsReady s [srcS a, srcS d] →
    let t := s.ctx c x
    let v := (s.getS s.cur a).toNat
    let selV := v % 2 = 1
    let selA := v / 2 % 2 = 1
    (4 ≤ v → Traps (.rdv d a) s .illegal (s.getS s.cur a)) ∧
    (v < 4 → (selV ∧ t.forkV = .running ∨ selA ∧ t.forkA = .running) → Stalls (.rdv d a) s) ∧
    (v < 4 → ¬ (selV ∧ t.forkV = .running ∨ selA ∧ t.forkA = .running) →
      Retires (.rdv d a) s 1 (((fresh s).setCtx c x
          { t with forkV := if selV then .none else t.forkV, forkA := if selA then .none else t.forkA }).setS s.cur d
        (BitVec.ofNat 64 ((if selV ∧ t.forkV = .ended true then 1 else 0) + (if selA ∧ t.forkA = .ended true then 2 else 0)))))) ∧
 ((∀ (s : State) (c k x : Nat) (r : TrapReq), s.target.core = c → s.target.unit = k → (s.slot c k).owner = some x →
    (s.slot c k).prog.trapping = some r → s.drained (.vec c k) = true →
    ∃ u, exec .vectorTrap s = .next u ∧ BytesSame s u ∧ u.slot c k = {} ∧ (u.ctx c x).forkV = .ended true ∧
      (u.ctx c x).vfr = packFault r.cause r.val r.pc k r.pend) ∧
  (∀ (s : State) (c x : Nat) (r : TrapReq), s.target.core = c → (s.arc c).owner = some x →
    (s.arc c).prog.trapping = some r → s.drained (.arc c) = true →
    ∃ u, exec .arcadeTrap s = .next u ∧ BytesSame s u ∧ (u.arc c).owner = none ∧ (u.ctx c x).forkA = .ended true ∧
      (u.ctx c x).afr = packFault r.cause r.val r.pc 0 r.pend) ∧
  (∀ (s : State) (c k x : Nat), s.target.core = c → s.target.unit = k → k < 4 → (s.slot c k).owner = some x →
    (s.slot c k).prog.ending = true → s.drained (.vec c k) = true →
    ((s.slot c k).prog.trapping ≠ none → exec .programEnd s = .next s) ∧
    ((s.slot c k).prog.trapping = none → ∃ u, exec .programEnd s = .next u ∧ BytesSame s u ∧ u.slot c k = {} ∧ (u.ctx c x).forkV = .ended false ∧
      (u.ctx c x).vfr = (s.ctx c x).vfr)) ∧
  (∀ (s : State) (c x : Nat), s.target.core = c → s.target.unit = 4 → (s.arc c).owner = some x →
    (s.arc c).prog.ending = true → s.drained (.arc c) = true →
    ((s.arc c).prog.trapping ≠ none → exec .programEnd s = .next s) ∧
    ((s.arc c).prog.trapping = none → ∃ u, exec .programEnd s = .next u ∧ BytesSame s u ∧ (u.arc c).owner = none ∧ (u.ctx c x).forkA = .ended false ∧
      (u.ctx c x).afr = (s.ctx c x).afr))) ∧
 (∀ (s : State) (x : Xfer), Stands s 1 .any → (s.prog s.cur).pend = some x → x.kind = .ret → x.taken = true → x.dest = 0x20000#64 →
    x.slots = 1 →
    ∃ t, exec .nop s = .next t ∧ OnlyProg s t ∧ (t.prog s.cur).pend = none ∧ (t.prog s.cur).loops = (s.prog s.cur).loops ∧
      (∀ r, t.getS s.cur r = s.getS s.cur r) ∧
      (s.cur.isFork = true → (t.prog s.cur).ending = true) ∧
      (s.cur.isFork = false → (t.prog s.cur).ending = (s.prog s.cur).ending ∧ (t.prog s.cur).pc = 0x20000#64 ∧
        (t.prog s.cur).arrive = .checked { x with slots := 0 }))

/-- The scalar loads write the little-endian value at ea, extended as R89 says, and change nothing else; `LD.Q` writes the pair (R90).
The scalar stores write the low bytes of d at ea, little-endian, and `ST.Q` those of the pair; no register and no other byte of any
memory changes (R89, R90). The clocks of R195's bank conflicts are left out (log entry 27). -/
def Obligations.ScratchpadAccesses : Prop :=
 (∀ (s : State) (d a : Reg) (imm : BitVec 12), Stands s 1 .any → RegsReady s [srcS a, srcS d] →
    let ea := (s.getS s.cur a + BitVec.ofInt 64 imm.toInt).toNat
    let m := (s.core s.cur.core).spad
    let byte (k : Nat) : Nat := (Memory.read m (ea + k)).toNat
    let word := byte 0 + 2 ^ 8 * byte 1 + 2 ^ 16 * byte 2 + 2 ^ 24 * byte 3
    let signed (w x : Nat) : DWord := BitVec.ofInt 64 (if x < 2 ^ (w - 1) then (x : Int) else x - 2 ^ w)
    let ok (n : Nat) : Prop := ea % n = 0 ∧ ea + n - 1 ≤ 0xBFFFF ∧ s.lineBusy s.cur ea n = false
    (ok 1 → WritesS (.ldB d a imm) s 1 d (signed 8 (byte 0)) ∧ WritesS (.ldBn d a imm) s 1 d (BitVec.ofNat 64 (byte 0))) ∧
    (ok 2 → WritesS (.ldH d a imm) s 1 d (signed 16 (byte 0 + 2 ^ 8 * byte 1)) ∧
      WritesS (.ldHn d a imm) s 1 d (BitVec.ofNat 64 (byte 0 + 2 ^ 8 * byte 1))) ∧
    (ok 4 → WritesS (.ldW d a imm) s 1 d (signed 32 word) ∧ WritesS (.ldWn d a imm) s 1 d (BitVec.ofNat 64 word)) ∧
    (ok 8 → WritesS (.ldD d a imm) s 1 d (BitVec.ofNat 64 (Memory.readN m ea 8))) ∧
    (ok 16 → RegsReady s [srcS (d + 1)] → d.toNat % 2 = 0 →
      ∃ t, exec (.ldQ d a imm) s = .next t ∧ OnlyProg s t ∧ FlowsOn s t 1 ∧
        t.getS s.cur d = (if d = 0 then 0 else BitVec.ofNat 64 (Memory.readN m ea 8)) ∧
        t.getS s.cur (d + 1) = BitVec.ofNat 64 (Memory.readN m (ea + 8) 8) ∧
        ∀ r, r ≠ d → r ≠ d + 1 → t.getS s.cur r = s.getS s.cur r)) ∧
 (∀ (s : State) (d a : Reg) (imm : BitVec 12), Stands s 1 .any → RegsReady s [srcS a, srcS d] → (s.core s.cur.core).spad.wf = true →
    let ea := (s.getS s.cur a + BitVec.ofInt 64 imm.toInt).toNat
    let v := (s.getS s.cur d).toNat
    let ok (n : Nat) : Prop := ea % n = 0 ∧ ea + n - 1 ≤ 0xBFFFF ∧ s.lineBusy s.cur ea n = false
    (ok 1 → StoresSpad (.stB d a imm) s 1 ea 1 v) ∧ (ok 2 → StoresSpad (.stH d a imm) s 1 ea 2 v) ∧
    (ok 4 → StoresSpad (.stW d a imm) s 1 ea 4 v) ∧ (ok 8 → StoresSpad (.stD d a imm) s 1 ea 8 v) ∧
    (ok 16 → RegsReady s [srcS (d + 1)] → StoresSpad (.stQ d a imm) s 1 ea 16 (v + 2 ^ 64 * (s.getS s.cur (d + 1)).toNat)))

/-- An access whose address is not a multiple of its size traps ALIGN, and an aligned one that passes 0xB_FFFF traps SPBOUND, both
with the address (R85); an access of a line that an `LDL` has still to write stalls (R228). The accesses of 16 and 32 bytes, `LAMO`
and `HPATCH` trap in the same way where they are misplaced or pass 0xB_FFFF, and stall at a line that an `LDL` has still to write
(R85, R90, R91, R93, R96, R228). `LAMO` reads and writes the word or doubleword at a in one access, gives the old value to d,
sign-extended, and holds the thread for 2 clocks, those of R195's bank conflicts apart (R87, R91; log entry 27). -/
def Obligations.ChecksAndAtomics : Prop :=
 (∀ (s : State) (d a : Reg) (imm : BitVec 12), Stands s 1 .any → RegsReady s [srcS a, srcS d] →
    let ea := s.getS s.cur a + BitVec.ofInt 64 imm.toInt
    ∀ p ∈ [(1, Instr.ldB d a imm), (1, .ldBn d a imm), (2, .ldH d a imm), (2, .ldHn d a imm), (4, .ldW d a imm), (4, .ldWn d a imm),
        (8, .ldD d a imm), (1, .stB d a imm), (2, .stH d a imm), (4, .stW d a imm), (8, .stD d a imm)],
      (ea.toNat % p.1 ≠ 0 → Traps p.2 s .align ea) ∧
      (ea.toNat % p.1 = 0 → 0xBFFFF < ea.toNat + p.1 - 1 → Traps p.2 s .spbound ea) ∧
      (ea.toNat % p.1 = 0 → ea.toNat + p.1 - 1 ≤ 0xBFFFF → s.lineBusy s.cur ea.toNat p.1 = true → Stalls p.2 s)) ∧
 (∀ (s : State) (d a b fn : Reg) (imm : BitVec 12) (lw : LW),
    let checks (i : Instr) (ea : DWord) (n : Nat) : Prop :=
      (ea.toNat % n ≠ 0 → Traps i s .align ea) ∧ (ea.toNat % n = 0 → 0xBFFFF < ea.toNat + n - 1 → Traps i s .spbound ea) ∧
      (ea.toNat % n = 0 → ea.toNat + n - 1 ≤ 0xBFFFF → s.lineBusy s.cur ea.toNat n = true → Stalls i s)
    let at_ := s.getS s.cur a + BitVec.ofInt 64 imm.toInt
    (Stands s 1 .any → RegsReady s [srcS a, srcS d, srcS (d + 1)] → checks (.ldQ d a imm) at_ 16 ∧ checks (.stQ d a imm) at_ 16) ∧
    (Stands s 1 .any → RegsReady s [srcS a, srcH d] → checks (.hld d a imm) at_ 32 ∧ checks (.hst d a imm) at_ 32) ∧
    (Stands s 2 .any → GuardOn s lw → RegsReady s [srcS a, srcS b, srcS lw.x, srcS d] →
      checks (.lamo d a b lw) (s.getS s.cur a) (if lw.y.getLsbD 2 then 8 else 4)) ∧
    (Stands s 2 .any → GuardOn s lw → RegsReady s [srcS a, srcS b] →
      checks (.hpatch a b fn lw) (s.getS s.cur a + BitVec.ofInt 64 lw.ext.toInt) 32)) ∧
 (∀ (s : State) (d a b : Reg) (lw : LW), Stands s 2 .any → GuardOn s lw → RegsReady s [srcS a, srcS b, srcS lw.x, srcS d] →
    (s.core s.cur.core).spad.wf = true →
    let w := if lw.y.getLsbD 2 then 64 else 32
    let ea := (s.getS s.cur a).toNat
    let old := Memory.readN (s.core s.cur.core).spad ea (w / 8)
    let x := (s.getS s.cur b).toNat % 2 ^ w
    let cmp := (s.getS s.cur lw.x).toNat % 2 ^ w
    let sg (n : Nat) : Int := if n < 2 ^ (w - 1) then (n : Int) else n - 2 ^ w
    let new := match lw.y.toNat / 8 with
      | 0 => (old + x) % 2 ^ w
      | 1 => old &&& x
      | 2 => old ||| x
      | 3 => old ^^^ x
      | 4 => if sg old ≤ sg x then old else x
      | 5 => if sg x ≤ sg old then old else x
      | 6 => x
      | _ => if old = cmp then x else old
    ea % (w / 8) = 0 → ea + w / 8 - 1 ≤ 0xBFFFF → s.lineBusy s.cur ea (w / 8) = false →
    ∃ t, exec (.lamo d a b lw) s = .next t ∧ t.getS s.cur d = (if d = 0 then 0 else BitVec.ofInt 64 (sg old)) ∧
      (∀ k, k < w / 8 → Memory.read (t.core s.cur.core).spad (ea + k) = BitVec.ofNat 8 (new / 256 ^ k)) ∧
      OnlySpad s t 2 ea (w / 8) (some d) (some (.clock (s.now + 2))))

/-- `HLD` and `HST` move a whole handle, `HGET`, `HSET` and `HPATCH` read and replace one field of it and leave every other bit
(R93–R96). The clocks of R195's bank conflicts are left out (log entry 27). -/
def Obligations.Handles : Prop :=
  ∀ (s : State) (d a b fn : Reg) (imm : BitVec 12) (lw : LW) (lo w : Nat) (sg : Bool),
    (fn.toNat, lo, w, sg) ∈ [(0x00, 0, 57, false), (0x01, 57, 1, false), (0x02, 58, 6, false), (0x03, 64, 16, false), (0x04, 80, 16, false),
      (0x05, 96, 16, false), (0x06, 112, 16, false), (0x07, 128, 24, true), (0x08, 152, 24, true), (0x09, 176, 24, true),
      (0x0A, 200, 16, false), (0x0B, 216, 4, false), (0x0C, 220, 2, false), (0x0D, 248, 8, false), (0x10, 0, 64, false),
      (0x11, 64, 64, false), (0x12, 128, 64, false), (0x13, 192, 64, false)] →
    (s.core s.cur.core).spad.wf = true →
    let m := (s.core s.cur.core).spad
    let field (h : HReg) : Nat := h.toNat / 2 ^ lo % 2 ^ w
    let replaces (h h' : HReg) (v : DWord) : Prop :=
      ∀ j, j < 256 → h'.getLsbD j = if lo ≤ j ∧ j < lo + w then v.getLsbD (j - lo) else h.getLsbD j
    let setsH (i : Instr) (P : HReg → Prop) : Prop := ∃ h, P h ∧ Retires i s 1 ((fresh s).setH s.cur d h)
    let ea := (s.getS s.cur a + BitVec.ofInt 64 imm.toInt).toNat
    let eb := (s.getS s.cur a + BitVec.ofInt 64 lw.ext.toInt).toNat
    (Stands s 1 .any → RegsReady s [srcS a, srcH d] → ea % 32 = 0 → ea + 31 ≤ 0xBFFFF → s.lineBusy s.cur ea 32 = false →
      setsH (.hld d a imm) (fun h => h.toNat = Memory.readN m ea 32) ∧
      StoresSpad (.hst d a imm) s 1 ea 32 (s.getH s.cur d).toNat) ∧
    (Stands s 1 .any → RegsReady s [srcH a, srcS d] →
      WritesS (.hget d a fn) s 1 d (if sg = true ∧ 2 ^ (w - 1) ≤ field (s.getH s.cur a)
        then BitVec.ofInt 64 ((field (s.getH s.cur a) : Int) - 2 ^ w) else BitVec.ofNat 64 (field (s.getH s.cur a)))) ∧
    (Stands s 1 .any → RegsReady s [srcS a, srcH d] →
      setsH (.hset d a fn) (fun h => replaces (s.getH s.cur d) h (s.getS s.cur a))) ∧
    (Stands s 2 .any → GuardOn s lw → RegsReady s [srcS a, srcS b] → eb % 32 = 0 → eb + 31 ≤ 0xBFFFF →
      s.lineBusy s.cur eb 32 = false →
      ∃ t h, exec (.hpatch a b fn lw) s = .next t ∧ replaces (BitVec.ofNat 256 (Memory.readN m eb 32)) h (s.getS s.cur b) ∧
        (∀ k, k < 32 → Memory.read (t.core s.cur.core).spad (eb + k) = BitVec.ofNat 8 (h.toNat / 256 ^ k)) ∧
        OnlySpad s t 2 eb 32 none (some (.clock (s.now + 2))))

/-- `SELECT` of a thread reads a size-class record of the core's control-core memory, at level M too: the entry of the smallest class
that holds b, or all ones, after 4 clocks. Without a record at a it traps ILLEGAL with a (R115), and where a word that it needs of the
record is damaged ECCU with the address of word 0 of the line (R30). -/
def Obligations.SizeClasses : Prop :=
  ∀ (s : State) (c x : Nat) (d a b : Reg), s.cur = .thread c x → Stands s 1 .any → RegsReady s [srcS a, srcS b, srcS d] →
    let k := s.core c
    let p := s.getS s.cur a
    let y := (s.getS s.cur b).toNat
    let word (j : Nat) : Nat := (k.cword (p.toNat + 4 * j)).toNat
    let n := word 0 % 2 ^ 16
    let isRecord : Prop := p.toNat < IMem.control.bytes ∧ p.toNat % 128 = 8 ∧ (k.cword (p.toNat - 8)).toNat / 2 ^ 30 = 1 ∧
      word 0 / 2 ^ 16 = 0x5343 ∧ 1 ≤ n ∧ n ≤ 8 ∧ ∀ j, j + 1 < n → word (2 * j + 1) < word (2 * j + 3)
    (k.sizeBad p.toNat = false → isRecord →
      (∀ j, j < n → y ≤ word (2 * j + 1) → (∀ i, i < j → word (2 * i + 1) < y) →
        WritesSHeld (.selectSize d a b) s 1 d (BitVec.ofNat 64 (word (2 * j + 2))) 4) ∧
      ((∀ j, j < n → word (2 * j + 1) < y) → WritesSHeld (.selectSize d a b) s 1 d 0xFFFFFFFFFFFFFFFF 4)) ∧
    (k.sizeBad p.toNat = false → ¬ isRecord → Traps (.selectSize d a b) s .illegal p) ∧
    (k.sizeBad p.toNat = true → Traps (.selectSize d a b) s .eccu (p - 8))

/-- `ENQ` appends to a queue whose FROM is the thread's stage, `DEQ` takes the oldest entry of one whose TO it is; a full or an empty
queue answers 1, and a queue that is not the stage's traps QUEUE (R121). `YIELD` moves an eligible thread to the open stage with the
greatest occupancy, the lowest of several, where that exceeds the occupancy of its own stage and the stage has another thread: s3
holds the stage and flow goes on at its function; otherwise the instruction does nothing (R122). That a thread whose context is saved
counts as another thread is the model's reading (log entry 36). -/
def Obligations.StageQueues : Prop :=
 (∀ (s : State) (c x : Nat) (d a b : Reg), s.cur = .thread c x → Stands s 1 .any →
    let k := s.core c
    let n := (s.getS s.cur a).toNat
    let e : StageQueue := SMap.get ⟨0, 0, 0, []⟩ k.queues n
    let put (l : List DWord) : State := (fresh s).setCore c { k with queues := SMap.set k.queues n { e with entries := l } }
    (RegsReady s [srcS a, srcS b, srcS d] →
      let ok : Prop := n < k.queues.length ∧ (s.ctx c x).stage = some e.from_
      (¬ ok → Traps (.enq d a b) s .queue (s.getS s.cur a)) ∧
      (ok → e.depth ≤ e.entries.length → WritesS (.enq d a b) s 1 d 1) ∧
      (ok → e.entries.length < e.depth →
        Retires (.enq d a b) s 1 ((put (e.entries ++ [s.getS s.cur b])).setS s.cur d 0))) ∧
    (RegsReady s [srcS a, srcS d, srcS (d + 1)] →
      let ok : Prop := n < k.queues.length ∧ (s.ctx c x).stage = some e.to_
      (¬ ok → Traps (.deq d a) s .queue (s.getS s.cur a)) ∧
      (ok → e.entries = [] → Retires (.deq d a) s 1 (((fresh s).setS s.cur d 0).setS s.cur (d + 1) 1)) ∧
      (∀ v l, ok → e.entries = v :: l → Retires (.deq d a) s 1 (((put l).setS s.cur d v).setS s.cur (d + 1) 0)))) ∧
 (∀ (s : State) (c x : Nat), s.cur = .thread c x → Stands s 1 .any → RegsReady s [srcS 3] →
    let t := s.ctx c x
    let k := s.core c
    let occ (st : Nat) : Nat := (k.queues.map (fun e => if e.2.to_ = st then e.2.entries.length else 0)).sum
    let isOpen (st : Nat) : Prop := ∀ e, e ∈ k.queues → e.2.from_ = st → e.2.entries.length < e.2.depth
    let declared (st f : Nat) : Prop := st < 8 ∧ k.stages.find? (fun e => e.1 == st) = some (st, f)
    let free : Prop := t.prog.pend = none ∧ t.prog.loops.order = [] ∧ t.forkV = .none ∧ t.forkA = .none ∧ t.modeH = false
    let here (cur : Nat) (e : Nat × Ctx) : Bool := e.2.live && e.2.stage == some cur && !(SMap.keys k.savedCtxs).contains e.1
    let another (cur : Nat) : Prop := 2 ≤ (k.ctxs.filter (here cur)).length + (k.savedCtxs.filter (fun e => e.2.stage == some cur)).length
    (∀ cur best f, t.stage = some cur → free → another cur → declared best f → isOpen best → occ cur < occ best →
      (∀ st g, declared st g → isOpen st → occ st ≤ occ best ∧ (occ st = occ best → best ≤ st)) →
      ∃ u, exec .yieldStage s = .next u ∧ BytesSame s u ∧ (u.ctx c x).stage = some best ∧ u.getS s.cur 3 = BitVec.ofNat 64 best ∧
        (∀ r, r ≠ 3 → u.getS s.cur r = s.getS s.cur r) ∧ (u.ctx c x).prog.pc = BitVec.ofNat 64 f ∧
        (u.ctx c x).prog.arrive = .plain ∧ (u.ctx c x).instret = t.instret + 1) ∧
    (∀ cur, (t.stage = none ∨ t.modeH = true ∨ t.forkV ≠ .none ∨ t.forkA ≠ .none ∨ t.prog.loops.order ≠ [] ∨ t.prog.inSlot = true ∨
        t.stage = some cur ∧ (¬ another cur ∨ ∀ st g, declared st g → isOpen st → occ st ≤ occ cur)) →
      Retires .yieldStage s 1 (fresh s)))

/-- `GRP.JOIN` joins the open generation where no member has arrived, else the next one. `GRP.LEAVE` removes a pending member; a
member's leave counts as its arrival and marks it leaving, and where it is the last arrival the generation completes: its waiters are
released, the members that stay and the pending ones enter the next, and an entry left without members is freed (R124). Its release
waits for the thread's earlier accesses, by a stall at issue, which is the model's choice (R125; log entry 52). `GRP.BAR` arrives
once: it waits in the barrier while some other member has not arrived, and the last arrival completes the generation, releases every
waiter, lets the pending members in and gives d the generation; a pending member waits for the next one; a `BAR` that executes again
resumes the wait of its standing arrival, or completes where that has been released (R124). It waits for the thread's earlier
accesses, by a stall at issue, which is the model's choice (R125; log entry 52). `GRP.INFO` reads the entry that R126 selects: the id
is checked first, then the selector; a free entry reads as generation 0 without members, and a thread that has left belongs to neither
set (R124). -/
def Obligations.Groups : Prop :=
 (∀ (s : State) (c x : Nat) (d a : Reg), s.cur = .thread c x → Stands s 1 .any → RegsReady s [srcS a, srcS d] →
    let gid := (s.getS s.cur a).toNat
    let tid := 24 * c + x
    let next (g : Nat) : Nat := (g + 1) % 2 ^ 32
    -- the arrivals of a member, of a saved context too
    let standing (u : State) (m : Member) (b : Bar) : Prop := b ∈ (u.ctx (m.tid / 24) (m.tid % 24)).bars ∨
      b ∈ (SMap.get {} (u.core (m.tid / 24)).savedCtxs (m.tid % 24)).bars
    let put (g : Group) : State := { fresh s with groups := SMap.set s.groups gid g }
    let inFour : Prop := 4 ≤ (s.groups.filter (fun e => e.2.has tid)).length
    let joinTraps : Prop := Traps (.grpJoin d a) s .grp (s.getS s.cur a)
    let leaveTraps : Prop := Traps (.grpLeave d a) s .grp (s.getS s.cur a)
    (4096 ≤ gid → joinTraps ∧ leaveTraps) ∧
    (gid < 4096 → s.group gid = none →
      leaveTraps ∧ (inFour → joinTraps) ∧
      (¬ inFour → Retires (.grpJoin d a) s 1 ((put ⟨(s.core c).asid, 0, [⟨tid, false, false⟩], []⟩).setS s.cur d 0))) ∧
    (∀ g, gid < 4096 → s.group gid = some g →
      (g.asid ≠ (s.core c).asid ∨ g.has tid = true ∨ inFour → joinTraps) ∧
      (g.asid = (s.core c).asid → g.has tid = false → ¬ inFour →
        ((∀ m, m ∈ g.members → m.arrived = false) → Retires (.grpJoin d a) s 1
          ((put { g with members := g.members ++ [⟨tid, false, false⟩] }).setS s.cur d (BitVec.ofNat 64 g.gen))) ∧
        ((∃ m, m ∈ g.members ∧ m.arrived = true) → Retires (.grpJoin d a) s 1
          ((put { g with pending := g.pending ++ [⟨tid, false⟩] }).setS s.cur d (BitVec.ofNat 64 (next g.gen))))) ∧
      (g.has tid = false → leaveTraps) ∧
      (g.has tid = true → (s.ctx c x).accs ≠ [] → Stalls (.grpLeave d a) s) ∧
      (g.has tid = true → (s.ctx c x).accs = [] →
        let marked := g.members.map (fun m => if m.tid = tid then { m with arrived := true, leaving := true } else m)
        let entering := (g.members.filter (fun m => !m.leaving && m.tid != tid)).map (fun m => { m with arrived := false }) ++
          g.pending.map (fun m => ⟨m.tid, m.waiting, false⟩)
        ∃ u, exec (.grpLeave d a) s = .next u ∧ BytesSame s u ∧ (∀ r, r ≠ d → u.getS s.cur r = s.getS s.cur r) ∧
          u.getS s.cur d = (if d = 0 then 0 else BitVec.ofNat 64 (if g.isPending tid then next g.gen else g.gen)) ∧
          (u.prog s.cur).hold = (s.prog s.cur).hold ∧ FlowsOn s u 1 ∧
          (∀ n, n ≠ gid → u.group n = s.group n) ∧
          (g.isPending tid = true → (∃ m, m ∈ g.members ∧ m.arrived = false) →
            u.group gid = some { g with pending := g.pending.filter (fun m => m.tid != tid) }) ∧
          (g.isPending tid = true → g.members = [] → (∀ m, m ∈ g.pending → m.tid = tid) → u.group gid = none) ∧
          (g.isPending tid = false → (∃ m, m ∈ marked ∧ m.arrived = false) → u.group gid = some { g with members := marked }) ∧
          (g.isPending tid = false → (∀ m, m ∈ marked → m.arrived = true) → entering = [] → u.group gid = none ∧
            ∀ m, m ∈ g.members → ∀ b, standing u m b → b.gid = gid → b.arrived = true → b.gen = g.gen → b.released = true) ∧
          (g.isPending tid = false → (∀ m, m ∈ marked → m.arrived = true) → (∃ m, m ∈ entering ∧ m.arrived = false) →
            u.group gid = some { g with gen := next g.gen, members := entering, pending := [] } ∧
            ∀ m, m ∈ g.members → ∀ b, standing u m b → b.gid = gid → b.arrived = true → b.gen = g.gen →
              b.released = true)))) ∧
 (∀ (s : State) (c x : Nat) (d a : Reg), s.cur = .thread c x → x < 24 → Stands s 1 .any → RegsReady s [srcS a, srcS d] →
    let gid := (s.getS s.cur a).toNat
    let tid := 24 * c + x
    let next (g : Nat) : Nat := (g + 1) % 2 ^ 32
    -- the arrivals of a member, of a saved context too
    let standing (u : State) (m : Member) (b : Bar) : Prop := b ∈ (u.ctx (m.tid / 24) (m.tid % 24)).bars ∨
      b ∈ (SMap.get {} (u.core (m.tid / 24)).savedCtxs (m.tid % 24)).bars
    let bars := (s.ctx c x).bars
    let unknown : Prop := ∀ b, b ∈ bars → b.gid ≠ gid
    let waits (u : State) : Prop := exec (.grpBar d a) s = .next u ∧ BytesSame s u ∧ (∀ r, u.getS s.cur r = s.getS s.cur r) ∧
      (u.ctx c x).prog.hold = some (.barrier gid d.toNat)
    let completes (u : State) (gen : Nat) : Prop := exec (.grpBar d a) s = .next u ∧ BytesSame s u ∧
      (∀ r, r ≠ d → u.getS s.cur r = s.getS s.cur r) ∧ u.getS s.cur d = (if d = 0 then 0 else BitVec.ofNat 64 gen) ∧
      (u.ctx c x).bars = bars.filter (fun b => b.gid != gid) ∧ FlowsOn s u 1
    (4096 ≤ gid ∨ s.group gid = none → unknown → Traps (.grpBar d a) s .grp (s.getS s.cur a)) ∧
    (∀ b, bars.find? (fun b => b.gid == gid) = some b →
      (b.released = true → ∃ u, completes u b.gen) ∧ (b.released = false → ∃ u, waits u ∧ (u.ctx c x).bars = bars)) ∧
    ∀ g, gid < 4096 → s.group gid = some g → unknown →
      let marked := g.members.map (fun m => if m.tid = tid ∧ m.leaving = false then { m with arrived := true } else m)
      let entering := (g.members.filter (fun m => !m.leaving)).map (fun m => { m with arrived := false }) ++
        g.pending.map (fun m => ⟨m.tid, m.waiting, false⟩)
      (g.has tid = false → Traps (.grpBar d a) s .grp (s.getS s.cur a)) ∧
      (g.has tid = true → (s.ctx c x).accs ≠ [] → Stalls (.grpBar d a) s) ∧
      (g.isMember tid = true → g.isPending tid = false → (s.ctx c x).accs = [] →
        ((∃ m, m ∈ marked ∧ m.arrived = false) →
          ∃ u, waits u ∧ (u.ctx c x).bars = bars ++ [⟨gid, g.gen, true, false⟩] ∧ u.group gid = some { g with members := marked }) ∧
        ((∀ m, m ∈ marked → m.arrived = true) →
          ∃ u, completes u g.gen ∧ u.group gid = some { g with gen := next g.gen, members := entering, pending := [] } ∧
            ∀ m, m ∈ g.members → ∀ b, standing u m b → b.gid = gid → b.arrived = true → b.gen = g.gen →
              b.released = true)) ∧
      (g.isPending tid = true → (s.ctx c x).accs = [] →
        ∃ u, waits u ∧ (u.ctx c x).bars = bars ++ [⟨gid, next g.gen, false, false⟩] ∧
          u.group gid = some { g with pending := g.pending.map (fun m => if m.tid = tid then { m with waiting := true } else m) })) ∧
 (∀ (s : State) (c x : Nat) (d a b : Reg), s.cur = .thread c x → Stands s 1 .any → RegsReady s [srcS a, srcS b, srcS d] →
    let gid := (s.getS s.cur a).toNat
    let sel := (s.getS s.cur b).toNat
    let tid := 24 * c + x
    let g := (s.group gid).getD ⟨0, 0, [], []⟩
    let pending : Prop := ∃ m, m ∈ g.pending ∧ m.tid = tid
    let reads (v : DWord) : Prop := WritesS (.grpInfo d a b) s 1 d v
    (4096 ≤ gid → Traps (.grpInfo d a b) s .grp (s.getS s.cur a)) ∧
    (gid < 4096 → 4 < sel → Traps (.grpInfo d a b) s .grp (s.getS s.cur b)) ∧
    (gid < 4096 →
      (sel = 0 → reads (BitVec.ofNat 64 g.gen)) ∧
      (sel = 1 → reads (BitVec.ofNat 64 g.members.length)) ∧
      (sel = 2 → reads (BitVec.ofNat 64 (g.members.countP (fun m => m.arrived)))) ∧
      (sel = 3 → (pending ∨ ∃ m, m ∈ g.members ∧ m.tid = tid ∧ m.leaving = false) → reads 1) ∧
      (sel = 3 → ¬ (pending ∨ ∃ m, m ∈ g.members ∧ m.tid = tid ∧ m.leaving = false) → reads 0) ∧
      (sel = 4 → pending → reads (BitVec.ofNat 64 ((g.gen + 1) % 2 ^ 32))) ∧
      (sel = 4 → ¬ pending → (∀ m, m ∈ g.members → m.tid = tid → m.leaving = true) → reads 0xFFFFFFFFFFFFFFFF) ∧
      ∀ m, g.members.find? (fun m => m.tid == tid && !m.leaving) = some m → sel = 4 → ¬ pending →
        reads (BitVec.ofNat 64 (if m.arrived then (g.gen + 1) % 2 ^ 32 else g.gen))))

/-- `SIG` and `WAITF` take the next sequence number and push an entry to a queue; `SIG` sets PUSHED of its flag, `WAITF` awaits that
number and ends at once where DONE has reached it; they check their operands in order and stall on a full queue (R131, R134, R346).
That they hold the thread for no clock is the model's choice (log entry 24), and so is RUN = 0 in the status of a `WAITF` that has
ended (log entry 37). `ESTAT` gives the status word of an item, of a queue, or a doubleword of a fault record, and holds the thread
for 2 clocks; its checks trap ILLEGAL in order (R351–R353). FLAGS of an item that has not ended reads zero: it changes with DONE. -/
def Obligations.QueueFlagsAndStatus : Prop :=
 (∀ (s : State) (c x : Nat) (d a b : Reg), s.cur = .thread c x → Stands s 1 .any → RegsReady s [srcS a, srcS b, srcS d] →
    let t := s.ctx c x
    let k := s.core c
    let f := (s.getS s.cur a).toNat
    let qn := (s.getS s.cur b).toNat
    let n := k.nextSeq
    let pushed := SMap.get 0 k.flagPushed f
    let full : Prop := 64 ≤ (k.items.filter (fun i => i.queue == qn)).length ∨
      384 ≤ t.failed.length + (k.items.filter (fun i => i.owner == x)).length
    let entry (j : Item) (kind : ItemKind) : Prop := j.seq = n ∧ j.queue = qn ∧ j.prio = t.prio ∧ j.owner = x ∧ j.kind = kind ∧
      j.edges = [] ∧ j.running = false ∧ j.failing = none
    let unmet : Prop := ∀ i g w, i ∈ k.items → i.kind = .waitf g w → SMap.get 0 k.flagDone g < w
    (63 < f → Traps (.sig d a b) s .illegal (s.getS s.cur a) ∧ Traps (.waitf d a b) s .illegal (s.getS s.cur a)) ∧
    (f ≤ 63 → 5 < qn → Traps (.sig d a b) s .illegal (s.getS s.cur b) ∧ Traps (.waitf d a b) s .illegal (s.getS s.cur b)) ∧
    (f ≤ 63 → qn ≤ 5 →
      (pushed = 0 → Traps (.waitf d a b) s .fwdwait (s.getS s.cur a)) ∧
      (full → Stalls (.sig d a b) s ∧ (pushed ≠ 0 → Stalls (.waitf d a b) s)) ∧
      (¬ full → ∃ j, entry j (.sig f) ∧ Retires (.sig d a b) s 1 (((fresh s).setCore c
        { k with items := k.items ++ [j], nextSeq := n + 1, flagPushed := SMap.set k.flagPushed f n }).setS s.cur d (BitVec.ofNat 64 n))) ∧
      (¬ full → pushed ≠ 0 → unmet → SMap.get 0 k.flagDone f < pushed →
        ∃ j, entry j (.waitf f pushed) ∧ Retires (.waitf d a b) s 1 (((fresh s).setCore c
          { k with items := k.items ++ [j], nextSeq := n + 1 }).setS s.cur d (BitVec.ofNat 64 n))) ∧
      (¬ full → pushed ≠ 0 → unmet → pushed ≤ SMap.get 0 k.flagDone f → (∀ i, i ∈ k.items ++ k.saved → i.seq < n) →
        ∃ u, exec (.waitf d a b) s = .next u ∧ BytesSame s u ∧ (∀ r, r ≠ d → u.getS s.cur r = s.getS s.cur r) ∧
          u.getS s.cur d = (if d = 0 then 0 else BitVec.ofNat 64 n) ∧ (u.core c).nextSeq = n + 1 ∧ (u.core c).item n = none ∧
          (u.core c).itemStatus n = BitVec.ofNat 64 (2 ^ 63 + qn * 2 ^ 56 + n % 2 ^ 40)))) ∧
 (∀ (s : State) (c x : Nat) (d a b : Reg), s.cur = .thread c x → Stands s 1 .any → RegsReady s [srcS a, srcS b, srcS d] →
    let t := s.ctx c x
    let k := s.core c
    let n := (s.getS s.cur a).toNat
    let sel := (s.getS s.cur b).toNat
    let reads (v : DWord) : Prop := WritesSHeld (.estat d a b) s 1 d v 2
    let bad (v : DWord) : Prop := Traps (.estat d a b) s .illegal v
    let st := SMap.get {} k.queueStat n
    (3 < sel → bad (s.getS s.cur b)) ∧
    (sel = 0 → n = 0 ∨ k.nextSeq ≤ n → bad (s.getS s.cur a)) ∧ (sel = 1 → 5 < n → bad (s.getS s.cur a)) ∧
    (sel = 2 ∨ sel = 3 → 1 < n → bad (s.getS s.cur a)) ∧
    (sel = 0 → n ≠ 0 → n < k.nextSeq →
      (∀ i, (k.items ++ k.saved).find? (fun i => i.seq == n) = some i → i.queue ≤ 5 →
        reads (BitVec.ofNat 64 ((if i.running then 2 ^ 61 else 0) + i.queue * 2 ^ 56 + n % 2 ^ 40))) ∧
      ((∀ i, i ∈ k.items ++ k.saved → i.seq ≠ n) →
        (∀ w, k.ended.find? (fun e => e.1 == n) = some (n, w) → reads w) ∧
        ((∀ e, e ∈ k.ended → e.1 ≠ n) → reads (BitVec.ofNat 64 (2 ^ 60))))) ∧
    (sel = 1 → n ≤ 5 → st.cause < 256 → (k.items.filter (fun i => i.queue == n)).length < 128 →
      reads (BitVec.ofNat 64 ((if ∃ i, i ∈ k.items ∧ i.queue = n ∧ i.running = true then 2 ^ 63 else 0) +
        (k.items.filter (fun i => i.queue == n)).length * 2 ^ 56 + st.cause * 2 ^ 48 + (if st.lastFail then 2 ^ 40 else 0) +
        st.lastSeq % 2 ^ 40))) ∧
    (sel = 2 → (n = 0 → reads t.vfr.dw0) ∧ (n = 1 → reads t.vfr.dw1)) ∧
    (sel = 3 → (n = 0 → reads t.afr.dw0) ∧ (n = 1 → reads t.afr.dw1)))

/-- The machine's own work on a queue: a free engine, which no post holds (R322) and which need not yield (R107, R354; log entry 66),
starts the eligible command that R132 names, a `SIG` completes and its waiters end (R134; log entry 69 on failed entries), a finished
command retires with its status word (R239, R351), and a failed one is reported, taints those that read its result and enters its
thread's FIFO (R253, R346). -/
def Obligations.QueueEvents : Prop :=
  ∀ (s : State) (i : Item),
    let c := s.target.core
    let k := s.core c
    let b := s.target.unit
    let can (j : Item) : Prop := j ∈ k.items ∧ j.queue = b ∧ k.eligible j = true ∧ k.receiveFree j = true ∧
      (s.ctx c j.owner).saving = false ∧ s.yields c j.owner = false ∧ (j.kind.holdsEngine = true → k.engineFree b = true) ∧
      ∀ l, l ∈ k.items → l.queue = b → ¬ (l.running = true ∧ l.kind = .msgPost ∧ l.posted = false)
    let first (j : Item) : Prop := can j ∧ ((∀ l, can l → l.prio ≤ j.prio) ∨ 65536 ≤ j.wait)
    (s.away.contains c = false → first i → (∀ j, first j → j = i ∨ i.seq < j.seq) →
      ∃ u, exec .commandStart s = .next u ∧
        (∃ j, (u.core c).item i.seq = some j ∧ j.running = true) ∧
        ∀ n j, n ≠ i.seq → k.item n = some j → ∃ l, (u.core c).item n = some l ∧ l.running = j.running) ∧
    (∀ f, k.item s.target.id = some i → i.kind = .sig f → i.failing = none →
      (∀ j, j ∈ k.items ++ k.saved → j.seq < i.seq → j.queue ≠ i.queue ∧ j.kind ≠ .sig f) →
      ∃ u, exec .sigComplete s = .next u ∧ BytesSame s u ∧ (u.core c).item i.seq = none ∧
        (∀ g, SMap.get 0 (u.core c).flagDone g = if g = f then i.seq else SMap.get 0 k.flagDone g) ∧
        ∀ j g w, j ∈ (u.core c).items → j.kind = .waitf g w → SMap.get 0 (u.core c).flagDone g < w) ∧
    (k.item s.target.id = some i → i.running = true → i.finished = true → i.failing = none → i.queue ≤ 5 →
      (∀ j, j ∈ k.saved → j.seq ≠ i.seq) →
      ∃ u, exec .commandRetire s = .next u ∧ BytesSame s u ∧ (u.core c).item i.seq = none ∧
        (u.core c).itemStatus i.seq =
          BitVec.ofNat 64 (2 ^ 63 + 2 ^ 61 + i.queue * 2 ^ 56 + i.flags.toNat * 2 ^ 40 + i.seq % 2 ^ 40) ∧
        (∀ j e, j ∈ (u.core c).items → e ∈ j.edges → e.to_ ≠ i.seq) ∧ (u.ctx c i.owner).failed = (s.ctx c i.owner).failed) ∧
    (∀ f, k.item s.target.id = some i → i.failing = some f → i.queue ≤ 5 → (∀ j, j ∈ k.saved → j.seq ≠ i.seq) →
      ∃ u, exec .commandFail s = .next u ∧ BytesSame s u ∧ (u.core c).item i.seq = none ∧
        (u.core c).itemStatus i.seq = BitVec.ofNat 64 (2 ^ 63 + 2 ^ 62 + (if i.running then 2 ^ 61 else 0) + i.queue * 2 ^ 56 +
          f.code * 2 ^ 48 + i.flags.toNat * 2 ^ 40 + i.seq % 2 ^ 40) ∧
        ((s.ctx c i.owner).live = true → (u.ctx c i.owner).failed = (s.ctx c i.owner).failed ++ [i.seq]) ∧
        ∀ n j, n ≠ i.seq → k.item n = some j → ⟨.raw, i.seq⟩ ∈ j.edges → j.running = false →
          ∃ l, (u.core c).item n = some l ∧ l.failing ≠ none)

/-- The integer lane instructions compute what R177 says, modulo 2^w, read signed or unsigned as the format says; `VSADD` clamps and
raises SAT. That its flags are in `fsr` from the clock of issue is the model's choice (log entry 67). -/
def Obligations.IntegerLanes : Prop :=
  ∀ (s : State) (d a b fn : Reg) (lw : LW), fn.toNat ≤ 6 →
    let w := if fn.toNat < 2 then 8 else if fn.toNat < 4 then 16 else if fn.toNat < 6 then 32 else 64
    let signed : Bool := fn.toNat % 2 == 0 && !lw.y.getLsbD 0
    let x (j : Nat) : Nat := velem (s.getV s.cur a) w j
    let y (j : Nat) : Nat := velem (s.getV s.cur b) w j
    let sint (n : Nat) : Int := if n < 2 ^ (w - 1) then (n : Int) else (n : Int) - 2 ^ w
    let val (n : Nat) : Int := if signed then sint n else n
    let pat (z : Int) : Nat := (z % 2 ^ w).toNat
    let lo : Int := if signed then -2 ^ (w - 1) else 0
    let hi : Int := if signed then 2 ^ (w - 1) - 1 else 2 ^ w - 1
    let sum (j : Nat) : Int := val (x j) + val (y j)
    let gives (i : Instr) (f : Nat → Nat) : Prop := VecWrites i s lw d w 2 4 (fun j => (f j, 0))
    (VecReady s lw w [srcV a lw.ta, srcV d] →
      gives (.viabs d a fn lw) (fun j => (sint (x j)).natAbs) ∧
      gives (.vpopc d a fn lw) (fun j => (List.range w).countP (fun k => (x j).testBit k))) ∧
    (VecReady s lw w [srcV a lw.ta, srcV b lw.tb, srcV d] →
      gives (.viadd d a b fn lw) (fun j => x j + y j) ∧
      gives (.visub d a b fn lw) (fun j => pat ((x j : Int) - y j)) ∧
      gives (.vimul d a b fn lw) (fun j => x j * y j) ∧
      gives (.vimulh d a b fn lw) (fun j => pat (val (x j) * val (y j) / 2 ^ w)) ∧
      gives (.vand d a b fn lw) (fun j => x j &&& y j) ∧
      gives (.vor d a b fn lw) (fun j => x j ||| y j) ∧
      gives (.vxor d a b fn lw) (fun j => x j ^^^ y j) ∧
      gives (.vshl d a b fn lw) (fun j => x j * 2 ^ (y j % w)) ∧
      gives (.vshr d a b fn lw) (fun j => x j / 2 ^ (y j % w)) ∧
      gives (.vsar d a b fn lw) (fun j => pat (sint (x j) / 2 ^ (y j % w))) ∧
      gives (.vimin d a b fn lw) (fun j => if val (x j) ≤ val (y j) then x j else y j) ∧
      gives (.vimax d a b fn lw) (fun j => if val (x j) ≤ val (y j) then y j else x j) ∧
      VecWrites (.vsadd d a b fn lw) s lw d w 2 4 (fun j =>
        if sum j < lo then (pat lo, Flags.sat) else if hi < sum j then (pat hi, Flags.sat) else (pat (sum j), 0)))

/-- The floating-point lane instructions compute x + y, x − y, x × y, x × y + z, x × y − z, z − x × y, x ÷ y and √x rounded once, the
minimum and the maximum, x with its sign bit 0 or inverted, e^x, ln x, erf x and the class mask (R169–R173); FP64 quotients and roots
and the three functions are long-latency, and a fifth of these stalls (R162). That flags are in `fsr` from the clock of issue is log
entry 67's. Infinities, NaN operands, invalid operations, divisions by zero and signs of zeros follow R170–R173; a root is one that
its square confirms; a minimum or maximum is an operand bit for bit, −0 below +0, the canonical NaN with a NaN; the class mask has one
bit. Exact sums and products are those of the numbers, a quotient has 140 bits or more and says whether a remainder is left; a sum
that is zero has the common sign of its operands, or else −0 in RDN and +0 otherwise (R144, R170); like-signed zeros in a fused form
are log entry 77's. What each pattern of the formats of R139 stands for: E4M3 has one NaN and no infinity, the formats of 6 and 4 bits
have neither (R140). An exact value is rounded to one of the two neighbours that the mode names (R144, R145); inexact raises NX, and
UF too where the result is subnormal; beyond the largest, OF and NX are raised and an infinity or the largest value results by the
mode, with SAT where there is no infinity. e^x, ln x and erf x (R172): their special and exact cases, their signs and flags, the
neighbour that the mode names where they lie beside 0, ±1 or the end of the format, and for some operands the rounded values, as
calculated outside the model; an operand whose rounding the working precisions do not settle gets a free result (log entry 9). -/
def Obligations.FloatLanes : Prop :=
 (∀ (s : State) (d a b fn : Reg) (lw : LW), 8 ≤ fn.toNat → fn.toNat ≤ 11 →
    let w := if fn.toNat = 8 then 64 else if fn.toNat = 9 then 32 else 16
    let f := FpFmt.get fn.toNat
    let rm := s.rm s.cur lw.rm
    let ea (j : Nat) : Nat := velem (s.getV s.cur a) w j
    let eb (j : Nat) : Nat := velem (s.getV s.cur b) w j
    let x (j : Nat) : Val := f.decode (ea j)
    let y (j : Nat) : Val := f.decode (eb j)
    let z (j : Nat) : Val := f.decode (velem (s.getV s.cur lw.x) w j)
    let pipelined (i : Instr) (g : Nat → Nat × Flags) : Prop := VecWrites i s lw d w 2 4 g
    let long (i : Instr) (g : Nat → Nat × Flags) : Prop :=
      ((s.core s.cur.core).longResults < 4 → VecWritesLong i s lw d w g) ∧ (4 ≤ (s.core s.cur.core).longResults → Stalls i s)
    (VecReady s lw w [srcV a lw.ta, srcV d] →
      pipelined (.vabs d a fn lw) (fun j => (ea j % 2 ^ (w - 1), 0)) ∧
      pipelined (.vneg d a fn lw) (fun j => (ea j ^^^ 2 ^ (w - 1), 0)) ∧
      pipelined (.vclass d a fn lw) (fun j => (fpClass f (ea j), 0)) ∧
      long (.vexp d a fn lw) (fun j => fpExp f rm (ea j)) ∧
      long (.vlog d a fn lw) (fun j => fpLog f rm (ea j)) ∧
      long (.verf d a fn lw) (fun j => fpErf f rm (ea j)) ∧
      (fn.toNat ≠ 8 → VecWrites (.vsqrt d a fn lw) s lw d w 8 10 (fun j => fpSqrt f rm (x j))) ∧
      (fn.toNat = 8 → long (.vsqrt d a fn lw) (fun j => fpSqrt f rm (x j)))) ∧
    (VecReady s lw w [srcV a lw.ta, srcV b lw.tb, srcV d] →
      pipelined (.vadd d a b fn lw) (fun j => fpAdd f rm (x j) (y j)) ∧
      pipelined (.vsub d a b fn lw) (fun j => fpAdd f rm (x j) (y j).neg) ∧
      pipelined (.vmul d a b fn lw) (fun j => fpMul f rm (x j) (y j)) ∧
      pipelined (.vmin d a b fn lw) (fun j => fpMinMax f false (ea j) (eb j)) ∧
      pipelined (.vmax d a b fn lw) (fun j => fpMinMax f true (ea j) (eb j)) ∧
      (fn.toNat ≠ 8 → VecWrites (.vdiv d a b fn lw) s lw d w 8 10 (fun j => fpDiv f rm (x j) (y j))) ∧
      (fn.toNat = 8 → long (.vdiv d a b fn lw) (fun j => fpDiv f rm (x j) (y j)))) ∧
    (VecReady s lw w [srcV a lw.ta, srcV b lw.tb, srcV lw.x lw.tc, srcV d] →
      pipelined (.vfma d a b fn lw) (fun j => fpFma f rm (x j) (y j) (z j)) ∧
      pipelined (.vfms d a b fn lw) (fun j => fpFma f rm (x j) (y j) (z j).neg) ∧
      pipelined (.vfnma d a b fn lw) (fun j => fpFma f rm (x j).neg (y j) (z j)))) ∧
 (∀ (f : FpFmt) (rm : Rm) (m n : Bool) (p q : Exact),
    let nan : Nat × Flags := (f.nanBits, Flags.nv)
    fpAdd f rm (.inf m) (.inf n) = (if m = n then (f.infBits m, 0) else nan) ∧
    fpAdd f rm (.inf m) (.fin p) = (f.infBits m, 0) ∧ fpAdd f rm (.fin p) (.inf n) = (f.infBits n, 0) ∧
    fpAdd f rm (.fin p) (.fin q) = f.round rm (Exact.add p q (rm == .rdn)) ∧
    fpMul f rm (.inf m) (.fin p) = (if p.isZero then nan else (f.infBits (m != p.neg), 0)) ∧
    fpMul f rm (.inf m) (.inf n) = (f.infBits (m != n), 0) ∧
    fpMul f rm (.fin p) (.fin q) = f.round rm (Exact.mul p q) ∧
    (∀ z, p.isZero = true → fpFma f rm (.fin p) (.inf n) z = nan ∧ fpFma f rm (.inf m) (.fin p) z = nan) ∧
    fpDiv f rm (.inf m) (.inf n) = nan ∧
    (p.isZero = true → q.isZero = true → fpDiv f rm (.fin p) (.fin q) = nan) ∧
    (p.isZero = false → q.isZero = true → fpDiv f rm (.fin p) (.fin q) = (f.infBits (p.neg != q.neg), Flags.dz)) ∧
    (p.isZero = false → q.isZero = false → fpDiv f rm (.fin p) (.fin q) = f.round rm (Exact.div p q)) ∧
    (p.isZero = false → p.neg = true → fpSqrt f rm (.fin p) = nan) ∧
    (p.isZero = true → fpSqrt f rm (.fin p) = (f.pack p.neg 0 0, 0)) ∧
    (∀ w a b, (f.decode a).isNan = true → fpMinMax f w a b = (f.nanBits, (f.decode a).snanFlag ||| (f.decode b).snanFlag)) ∧
    (∀ b, f.decode b = .inf true → fpLog f rm b = nan ∧ fpExp f rm b = (0, 0)) ∧
    (∀ b, f.decode b = .fin p → p.isZero = true → fpLog f rm b = (f.infBits true, Flags.dz) ∧ fpErf f rm b = (f.pack p.neg 0 0, 0)) ∧
    (∀ r, fpFma f rm (.fin p) (.fin q) (.fin r) = f.round rm (Exact.add (Exact.mul p q) r (rm == .rdn))) ∧
    (∀ r, fpFma f rm (.fin p) (.fin q) (.inf m) = (f.infBits m, 0) ∧
      (p.isZero = false → fpFma f rm (.inf m) (.fin p) (.fin r) = (f.infBits (m != p.neg), 0) ∧
        fpFma f rm (.fin p) (.inf m) (.fin r) = (f.infBits (m != p.neg), 0) ∧
        fpFma f rm (.inf m) (.fin p) (.inf n) = (if (m != p.neg) = n then (f.infBits n, 0) else nan))) ∧
    (∀ o, fpFma f rm (.inf m) (.inf n) (.inf o) = (if (m != n) = o then (f.infBits o, 0) else nan)) ∧
    (∀ x y z : Val, let fl := x.snanFlag ||| y.snanFlag
      (x.isNan = true ∨ y.isNan = true → fpAdd f rm x y = (f.nanBits, fl) ∧ fpMul f rm x y = (f.nanBits, fl) ∧ fpDiv f rm x y = (f.nanBits, fl) ∧
        fpFma f rm x y z = (f.nanBits, fl ||| z.snanFlag)) ∧
      (z.isNan = true → mulVal x y ≠ none → fpFma f rm x y z = (f.nanBits, fl ||| z.snanFlag)) ∧
      (x.isNan = true → fpSqrt f rm x = (f.nanBits, x.snanFlag))) ∧
    fpDiv f rm (.inf m) (.fin p) = (f.infBits (m != p.neg), 0) ∧ fpDiv f rm (.fin p) (.inf m) = (f.pack (p.neg != m) 0 0, 0) ∧
    (p.isZero = true → q.isZero = false → fpDiv f rm (.fin p) (.fin q) = (f.pack (p.neg != q.neg) 0 0, 0)) ∧
    fpSqrt f rm (.inf false) = (f.infBits false, 0) ∧ fpSqrt f rm (.inf true) = nan ∧
    (p.n ≠ 0 → p.neg = false → ∃ k e st, fpSqrt f rm (.fin p) = f.round rm ⟨false, k, e, st⟩ ∧ 140 ≤ Nat.log2 k ∧
      Exact.cmp ⟨false, k * k, 2 * e, false⟩ p ≠ .gt ∧ Exact.cmp p ⟨false, (k + 1) * (k + 1), 2 * e, false⟩ = .lt ∧
      (st = false ↔ Exact.cmp ⟨false, k * k, 2 * e, false⟩ p = .eq)) ∧
    (∀ a b, let x := f.decode a
      let y := f.decode b
      let below (x y : Val) : Prop := x = .inf true ∧ y ≠ .inf true ∨ y = .inf false ∧ x ≠ .inf false ∨
        ∃ u v, x = .fin u ∧ y = .fin v ∧ (Exact.cmp u v = .lt ∨ u.isZero = true ∧ v.isZero = true ∧ u.neg = true ∧ v.neg = false)
      x.isNan = false → y.isNan = false →
        (below x y → fpMinMax f false a b = (a, 0) ∧ fpMinMax f true a b = (b, 0)) ∧
        (below y x → fpMinMax f false a b = (b, 0) ∧ fpMinMax f true a b = (a, 0))) ∧
    ∀ code b, 8 ≤ code → code ≤ 11 → let g := FpFmt.get code
      fpClass g b = 2 ^ (match g.decode b with
        | .nan sg => if sg then 8 else 9
        | .inf neg => if neg then 0 else 7
        | .fin x => if x.n = 0 then (if x.neg then 3 else 4) else if x.log2 < g.emin then (if x.neg then 2 else 5)
          else if x.neg then 1 else 6)) ∧
 (∀ (x y : Exact) (down : Bool), x.sticky = false → y.sticky = false →
    let num (z : Exact) (k : Int) : Int := (if z.neg then -1 else 1) * ((z.n * 2 ^ (z.e - k).toNat : Nat) : Int)
    let sum := Exact.add x y down
    let prod := Exact.mul x y
    let quot := Exact.div x y
    let mag (z : Exact) : Exact := { z with neg := false, sticky := false }
    sum.sticky = false ∧ prod.sticky = false ∧ prod.neg = (x.neg != y.neg) ∧ quot.neg = (x.neg != y.neg) ∧
    (∀ k, k ≤ x.e → k ≤ y.e → k ≤ sum.e ∧ num sum k = num x k + num y k) ∧
    (sum.n = 0 → sum.neg = if x.neg = y.neg then x.neg else down) ∧
    (∀ k l, k ≤ x.e → l ≤ y.e → k + l ≤ prod.e ∧ num prod (k + l) = num x k * num y l) ∧
    (x.n ≠ 0 → y.n ≠ 0 → 139 ≤ Nat.log2 quot.n ∧
      Exact.cmp (Exact.mul (mag quot) (mag y)) (mag x) = (if quot.sticky then .lt else .eq) ∧
      Exact.cmp (mag x) (Exact.mul ⟨false, quot.n + 1, quot.e, false⟩ (mag y)) = .lt)) ∧
 (∀ (code eb mb bias kind : Nat) (neg : Bool) (e m : Nat),
    (code, eb, mb, bias, kind) ∈ [(0x08, 11, 52, 1023, 0), (0x09, 8, 23, 127, 0), (0x0A, 5, 10, 15, 0), (0x0B, 8, 7, 127, 0),
      (0x0C, 4, 3, 7, 1), (0x0D, 5, 2, 15, 0), (0x0E, 3, 2, 3, 2), (0x0F, 2, 3, 1, 2), (0x10, 2, 1, 1, 2)] →
    e < 2 ^ eb → m < 2 ^ mb →
    let f := FpFmt.get code
    let v := f.decode ((if neg then 2 ^ (eb + mb) else 0) + e * 2 ^ mb + m)
    let top : Prop := e = 2 ^ eb - 1
    let normal : Val := .fin ⟨neg, 2 ^ mb + m, (e : Int) - bias - mb, false⟩
    (e = 0 → v = .fin ⟨neg, m, 1 - (bias : Int) - mb, false⟩) ∧ (e ≠ 0 → ¬ top → v = normal) ∧
    (top → kind = 0 → v = if m = 0 then .inf neg else .nan (decide (m < 2 ^ (mb - 1)))) ∧
    (top → kind = 1 → v = if m = 7 then .nan false else normal) ∧ (top → kind = 2 → v = normal)) ∧
 (∀ (code : Nat) (rm : Rm) (x : Exact) (lo n : Nat), 8 ≤ code → code ≤ 16 → x.n ≠ 0 → x.sticky = false →
    let f := FpFmt.get code
    let e := max x.log2 f.emin
    let u := e - f.mbits
    let a : Exact := { x with neg := false }
    let units (k : Nat) (v : Int) : Exact := ⟨false, k, v, false⟩
    let exact : Bool := Exact.cmp (units lo u) a == .eq
    let half := Exact.cmp a (units (2 * lo + 1) (u - 1))
    let up : Prop := exact = false ∧ (match rm with
      | .rne => half = .gt ∨ half = .eq ∧ lo % 2 = 1
      | .rna => half ≠ .lt
      | .rtz => False
      | .rdn => x.neg = true
      | .rup => x.neg = false)
    let top := if n = 2 ^ (f.mbits + 1) then e + 1 else e
    let away : Prop := rm = .rne ∨ rm = .rna ∨ rm = .rdn ∧ x.neg = true ∨ rm = .rup ∧ x.neg = false
    let infinities : Prop := code ≤ 11 ∨ code = 13
    let beyond : Prop := (if code ≤ 11 ∨ code = 13 then (f.bias : Int) else f.bias + 1) < top ∨ code = 12 ∧ top = 8 ∧ n = 15
    Exact.cmp (units lo u) a ≠ .gt → Exact.cmp a (units (lo + 1) u) = .lt → (up → n = lo + 1) → (¬ up → n = lo) →
      (beyond → infinities → (away → f.round rm x = (f.infBits x.neg, Flags.of ||| Flags.nx)) ∧
        (¬ away → f.round rm x = (f.infBits x.neg - 1, Flags.of ||| Flags.nx))) ∧
      (beyond → ¬ infinities → f.round rm x = (f.pack x.neg (2 ^ f.ebits - 1) (if code = 12 then 6 else 2 ^ f.mbits - 1),
        Flags.of ||| Flags.nx ||| Flags.sat)) ∧
      (¬ beyond → f.round rm x =
        (if n < 2 ^ f.mbits then f.pack x.neg 0 n else if n = 2 ^ (f.mbits + 1) then f.pack x.neg (e + 1 + f.bias).toNat 0
          else f.pack x.neg (e + f.bias).toNat (n - 2 ^ f.mbits),
         if exact then 0 else if n < 2 ^ f.mbits then Flags.nx ||| Flags.uf else Flags.nx))) ∧
 (∀ (code : Nat) (rm : Rm) (b : Nat), 8 ≤ code → code ≤ 11 →
    let f := FpFmt.get code
    let one := f.pack false f.bias 0
    let minusOne := f.pack true f.bias 0
    let below : Nat × Flags := (if rm = .rtz ∨ rm = .rdn then one - 1 else one, Flags.nx)
    (f.decode b = .inf false → fpExp f rm b = (f.infBits false, 0) ∧ fpLog f rm b = (f.infBits false, 0) ∧ fpErf f rm b = (one, 0)) ∧
    (f.decode b = .inf true → fpExp f rm b = (0, 0) ∧ fpLog f rm b = (f.nanBits, Flags.nv) ∧ fpErf f rm b = (minusOne, 0)) ∧
    (∀ sg, f.decode b = .nan sg → ∀ r ∈ [fpExp f rm b, fpLog f rm b, fpErf f rm b],
      r = (f.nanBits, if sg = true then Flags.nv else 0)) ∧
    (∀ p, f.decode b = .fin p → p.isZero = true →
      fpExp f rm b = (one, 0) ∧ fpLog f rm b = (f.infBits true, Flags.dz) ∧ fpErf f rm b = (f.pack p.neg 0 0, 0)) ∧
    fpLog f rm one = (0, 0) ∧
    (∀ p, f.decode b = .fin p → p.isZero = false →
      (∀ r ∈ [fpExp f rm b, fpErf f rm b], r.2 &&& Flags.nx = Flags.nx ∧ r.2 &&& ~~~(Flags.nx ||| Flags.of ||| Flags.uf) = 0) ∧
      (p.neg = true → fpLog f rm b = (f.nanBits, Flags.nv)) ∧
      (p.neg = false → Exact.cmp p ⟨false, 1, 0, false⟩ ≠ .eq → (fpLog f rm b).2 &&& Flags.nx = Flags.nx) ∧
      (12 ≤ p.log2 → p.neg = false → fpExp f rm b = f.overflow false rm) ∧
      (12 ≤ p.log2 → p.neg = true → fpExp f rm b = (if rm = .rup then 1 else 0, Flags.uf ||| Flags.nx)) ∧
      (p.log2 < -128 → p.neg = false → fpExp f rm b = (if rm = .rup then one + 1 else one, Flags.nx)) ∧
      (p.log2 < -128 → p.neg = true → fpExp f rm b = below) ∧
      (4 ≤ p.log2 → p.neg = false → fpErf f rm b = below) ∧
      (4 ≤ p.log2 → p.neg = true → fpErf f rm b = (if rm = .rtz ∨ rm = .rup then minusOne - 1 else minusOne, Flags.nx))) ∧
    fpExp (FpFmt.get 9) .rne 0x3F800000 = (0x402DF854, Flags.nx) ∧ fpExp (FpFmt.get 8) .rne 0x3FF0000000000000 = (0x4005BF0A8B145769, Flags.nx) ∧
    fpExp (FpFmt.get 9) .rdn 0xC2AEAC50 = (0x7FFFE5, Flags.uf ||| Flags.nx) ∧ fpExp (FpFmt.get 10) .rup 0x498C = (0x7C00, Flags.of ||| Flags.nx) ∧
    fpExp (FpFmt.get 11) .rtz 0xC0A0 = (0x3BDC, Flags.nx) ∧ fpExp (FpFmt.get 9) .rna 0xC2CE8ED0 = (1, Flags.uf ||| Flags.nx) ∧
    fpLog (FpFmt.get 9) .rne 0x40000000 = (0x3F317218, Flags.nx) ∧ fpLog (FpFmt.get 8) .rdn 0x4024000000000000 = (0x40026BB1BBB55515, Flags.nx) ∧
    fpLog (FpFmt.get 10) .rup 0x3C01 = (0x1400, Flags.nx) ∧ fpLog (FpFmt.get 11) .rna 1 = (0xC2B8, Flags.nx) ∧
    fpLog (FpFmt.get 9) .rtz 0x3F7FFFFF = (0xB3800000, Flags.nx) ∧
    fpErf (FpFmt.get 9) .rne 0x3F800000 = (0x3F57BB3D, Flags.nx) ∧ fpErf (FpFmt.get 8) .rdn 0xBFE0000000000000 = (0xBFE0A7EF5C18EDD3, Flags.nx) ∧
    fpErf (FpFmt.get 10) .rtz 0x4000 = (0x3BF6, Flags.nx) ∧ fpErf (FpFmt.get 11) .rna 2 = (2, Flags.uf ||| Flags.nx) ∧
    fpErf (FpFmt.get 10) .rup 0x8002 = (0x8002, Flags.uf ||| Flags.nx))

/-- `VCMP` replaces bit k of every enabled element by the predicate of R174, which raises NV for the NaNs that R174 names; `VSEL`
selects by a bit per lane (R175); `VANY` and `VALL` write bit k of a scalar from bit j of the enabled 32-bit elements, 3 clocks on
(R176). That its flags are in `fsr` from the clock of issue is the model's choice (log entry 67). The results in flight land: a
pipelined one in its clock (R162), a long-latency one from 20 clocks after issue on, with its flags, its register full again; where
one of its flags was enabled at issue the register keeps its old value and the program traps FPX with those enabled flags (R165); a
slot that waits for its latest long-latency instruction goes on when that one lands (R163). The elements that an `AWR` writes land in
its tile, none outside the tile's shape (R264, R286; log entry 25). All the pipelined and iterative results of a vector program whose
clock has come land in one clock, in the order of their issue: each register holds the last value written to it and is full, and every
other one is as before (R159, R162, R187). -/
def Obligations.PredicatesAndResults : Prop :=
 (∀ (s : State) (d a b fn : Reg) (lw : LW),
    (8 ≤ fn.toNat → fn.toNat ≤ 11 →
      let w := Fmt.vwidth fn
      let f := FpFmt.get fn.toNat
      let ea (j : Nat) : Nat := velem (s.getV s.cur a) w j
      let eb (j : Nat) : Nat := velem (s.getV s.cur b) w j
      let x (j : Nat) : Val := f.decode (ea j)
      let y (j : Nat) : Val := f.decode (eb j)
      let un (j : Nat) : Bool := (x j).isNan || (y j).isNan
      let o (j : Nat) : Ordering := Val.order false (x j) (y j)
      let pred (j : Nat) : Bool := match lw.y.toNat with
        | 0 => !un j && o j == .eq | 1 => un j || o j != .eq | 2 => !un j && o j == .lt | 3 => !un j && o j != .gt
        | 4 => !un j && o j == .gt | 5 => !un j && o j != .lt | 6 => un j | _ => !un j
      let nv (j : Nat) : Flags := if 2 ≤ lw.y.toNat ∧ lw.y.toNat ≤ 5 then (if un j then Flags.nv else 0)
        else (x j).snanFlag ||| (y j).snanFlag
      lw.y.toNat < 8 → lw.x.toNat < w → VecReady s lw w [srcV a lw.ta, srcV b lw.tb, srcV d] →
      VecCommits (.vcmp d a b fn lw) s true d 2 4 (fun v => ∀ j, j < 8192 / w → ∀ k, k < w →
        (velem (BitVec.ofNat 8192 v) w j).testBit k =
          if laneEnabled s lw w j ∧ k = lw.x.toNat then pred j else (velem (s.getV s.cur d) w j).testBit k)
        (laneFlags s lw w (8192 / w) nv)) ∧
    (fn.toNat ≤ 11 → fn.toNat ≠ 7 →
      let w := Fmt.vwidth fn
      VecReady s lw w [srcV a lw.ta, srcV b lw.tb, srcV lw.x lw.tc, srcV d] →
      VecWrites (.vsel d a b fn lw) s lw d w 2 4 (fun j =>
        (if (velem (s.getV s.cur lw.x) w j).testBit lw.y.toNat then velem (s.getV s.cur a) w j else velem (s.getV s.cur b) w j, 0))) ∧
    (VecReady s lw 32 [srcV a lw.ta, srcS d] → lw.y.toNat < 32 →
      let bit (j : Nat) : Bool := (s.getV s.cur a).getLsbD (32 * j + lw.y.toNat)
      let sets (i : Instr) (P : Prop) : Prop := VecCommits i s false d 2 3 (fun v => ∀ k, k < 64 →
        (v.testBit k = true ↔ if k = fn.toNat then P else (s.getS s.cur d).getLsbD k = true)) 0
      sets (.vany d a fn lw) (∃ j, j < 256 ∧ laneEnabled s lw 32 j = true ∧ bit j = true) ∧
      sets (.vall d a fn lw) (∀ j, j < 256 → laneEnabled s lw 32 j = true → bit j = true))) ∧
 (∀ (s : State) (c k x : Nat) (r : VPend), s.target.core = c → s.target.unit = k → (s.slot c k).owner = some x →
    let l := (s.slot c k).results
    let full (t : Ctx) : Ctx := { t with vEmpty := t.vEmpty &&& ~~~(1#64 <<< r.reg) }
    (∃ u, exec .vectorResultWrite s = .next u ∧ (u.slot c k).results = l.filter (fun r => r.long || decide (s.now < r.due))) ∧
    (l = [r] → r.long = false → r.due ≤ s.now → r.cells = none →
      let s1 := s.setSlot c k { s.slot c k with results := [] }
      (r.isVec = true → exec .vectorResultWrite s = .next (s1.setCtx c x
        { full (s.ctx c x) with v := SMap.set (s.ctx c x).v r.reg (BitVec.ofNat 8192 r.value) })) ∧
      (r.isVec = false → exec .vectorResultWrite s = .next (s1.setProg (.vec c k)
        ((s.slot c k).prog.setS r.reg (BitVec.ofNat 64 r.value))))) ∧
    (∀ n cs, l = [r] → r.long = false → r.due ≤ s.now → r.cells = some (n, cs) → cs.Pairwise (fun y z => y.1 ≠ z.1) →
      let t := s.tile c n
      ∃ u, exec .vectorResultWrite s = .next u ∧ BytesSame s u ∧ (u.slot c k).results = [] ∧ u.ctx c x = s.ctx c x ∧
        { u.tile c n with el := t.el } = t ∧ (∀ m, m ≠ n → u.tile c m = s.tile c m) ∧
        ∀ i j, i < 32 → j < 32 → (∀ v, (32 * i + j, v) ∈ cs → i < t.rows → j < t.cols → (u.tile c n).at_ i j = v) ∧
          ((∀ v, (32 * i + j, v) ∉ cs) ∨ t.rows ≤ i ∨ t.cols ≤ j → (u.tile c n).at_ i j = t.at_ i j)) ∧
    (l.find? (fun r => r.long && r.reg == s.target.id) = some r → r.due ≤ s.now → r.cells = none → r.isVec = true →
      ∃ u, (r.traps = 0 → exec .vectorLongResult s = .next u) ∧
        (r.traps ≠ 0 → exec .vectorLongResult s = .next (u.raise (.vec c k) ⟨.fpx, BitVec.ofNat 64 r.traps.toNat, r.addr, r.pend⟩)) ∧
        BytesSame s u ∧ (u.slot c k).results = l.erase r ∧
        ((l.filter (fun r => r.long)).getLast? = some r → (u.slot c k).prog.hold ≠ some .longResult) ∧
        ((l.filter (fun r => r.long)).getLast? ≠ some r → (u.slot c k).prog.hold = (s.slot c k).prog.hold) ∧
        u.ctx c x = { full (s.ctx c x) with fsr := (s.ctx c x).fsr ||| r.flags.setWidth 64,
                                             v := if r.traps ≠ 0 then (s.ctx c x).v else SMap.set (s.ctx c x).v r.reg (BitVec.ofNat 8192 r.value) } ∧
        ∀ d y, (d, y) ≠ (c, x) → u.ctx d y = s.ctx d y)) ∧
 (∀ (s : State) (c k x : Nat), s.target.core = c → s.target.unit = k → (s.slot c k).owner = some x →
    let due := (s.slot c k).results.filter (fun r => !r.long && decide (r.due ≤ s.now))
    let writes (v : Bool) (n : Nat) (r : VPend) : Prop := r.cells = none ∧ r.isVec = v ∧ r.reg = n
    ∃ u, exec .vectorResultWrite s = .next u ∧ BytesSame s u ∧
      (u.slot c k).results = (s.slot c k).results.filter (fun r => r.long || decide (s.now < r.due)) ∧
      (∀ n r before after, due = before ++ r :: after → (∀ v, (∀ l ∈ after, ¬ writes v n l) → writes v n r →
        (v = true → SMap.get 0 (u.ctx c x).v n = BitVec.ofNat 8192 r.value ∧ (u.ctx c x).vEmpty.getLsbD n = false) ∧
        (v = false → (u.slot c k).prog.getS n = if n = 0 then 0 else BitVec.ofNat 64 r.value))) ∧
      (∀ n, (∀ l ∈ due, ¬ writes true n l) → SMap.get 0 (u.ctx c x).v n = SMap.get 0 (s.ctx c x).v n ∧
        (u.ctx c x).vEmpty.getLsbD n = (s.ctx c x).vEmpty.getLsbD n) ∧
      (∀ n, (∀ l ∈ due, ¬ writes false n l) → (u.slot c k).prog.getS n = (s.slot c k).prog.getS n) ∧
      (∀ d y, (d, y) ≠ (c, x) → u.ctx d y = s.ctx d y))

/-- The vector moves copy, broadcast, slide, permute, interleave and transpose elements as R184 and R185 say; `VEXT` takes one element
to a scalar, `VINS` puts one into a register, `VRNG` fills with Philox blocks (R192) and `VHASH` with tie hashes (R193). Philox4x32-10
(R192): ten rounds from the counter's words and the key's, the key advanced before every round but the first. -/
def Obligations.VectorMoves : Prop :=
 (∀ (s : State) (d a b fn : Reg) (lw : LW), fn.toNat ≤ 11 → fn.toNat ≠ 7 →
    let w := Fmt.vwidth fn
    let n := 8192 / w
    let va (j : Nat) : Nat := velem (s.getV s.cur a) w j
    let vb (j : Nat) : Nat := velem (s.getV s.cur b) w j
    let sa := s.getS s.cur a
    let sb := s.getS s.cur b
    let gives (i : Instr) (f : Nat → Nat) : Prop := VecWrites i s lw d w 2 4 (fun j => (f j, 0))
    let at_ (j : Int) : Nat := if 0 ≤ j ∧ j < n then va j.toNat else 0
    let signed : Bool := decide (fn.toNat ≤ 6) && fn.toNat % 2 == 0 && !lw.y.getLsbD 0
    let ext (x : Nat) : DWord := if signed ∧ 2 ^ (w - 1) ≤ x then BitVec.ofInt 64 ((x : Int) - 2 ^ w) else BitVec.ofNat 64 x
    (VecReady s lw w [srcV a lw.ta, srcV d] →
      gives (.vmov d a fn lw) va ∧
      (lw.y.toNat / 2 ≤ Nat.log2 n → gives (.vtrn d a fn lw)
        (fun i => let c := 2 ^ (lw.y.toNat / 2); va (i % (n / c) * c + i / (n / c))))) ∧
    (VecReady s lw w [srcS a lw.ta, srcV d] → gives (.vbcast d a fn lw) (fun _ => sa.toNat)) ∧
    (VecReady s lw w [srcV a lw.ta, srcS b lw.tb, srcV d] → gives (.vslide d a b fn lw) (fun i => at_ (i + sb.toInt))) ∧
    (VecReady s lw w [srcV a lw.ta, srcV b lw.tb, srcV d] →
      gives (.vperm d a b fn lw) (fun i => at_ (vb i)) ∧
      (lw.y.toNat / 2 = 0 → gives (.vshuf d a b fn lw) (fun i => if i % 2 = 1 then vb (i / 2) else va (i / 2))) ∧
      (lw.y.toNat / 2 = 1 → gives (.vshuf d a b fn lw) (fun i => if i % 2 = 1 then vb (n / 2 + i / 2) else va (n / 2 + i / 2))) ∧
      (lw.y.toNat / 2 = 2 → gives (.vshuf d a b fn lw) (fun i => if i < n / 2 then va (2 * i) else vb (2 * (i - n / 2)))) ∧
      (lw.y.toNat / 2 = 3 → gives (.vshuf d a b fn lw)
        (fun i => if i < n / 2 then va (2 * i + 1) else vb (2 * (i - n / 2) + 1)))) ∧
    (VecReady s lw w [srcV a lw.ta, srcS b lw.tb, srcS d] →
      VecCommits (.vext d a b fn lw) s false d 2 4 (fun v => BitVec.ofNat 64 v =
        if n ≤ sb.toNat then 0 else if laneEnabled s lw w sb.toNat then ext (va sb.toNat) else s.getS s.cur d) 0) ∧
    (VecReady s lw w [srcS a lw.ta, srcS b lw.tb, srcV d] → gives (.vins d a b fn lw)
      (fun i => if sb.toNat = i then sa.toNat else velem (s.getV s.cur d) w i)) ∧
    (VecReady s lw 32 [srcS a lw.ta, srcV b lw.tb, srcV d] →
      VecWrites (.vrng d a b lw) s lw d 32 8 20 (fun i =>
        ((philox sa (BitVec.ofNat 128 ((s.getV s.cur b).toNat % 2 ^ 128 + i / 4))).toNat / 2 ^ (32 * (i % 4)), 0))) ∧
    (VecReady s lw 64 [srcS a lw.ta, srcV b lw.tb, srcV d] →
      VecWrites (.vhash d a b fn lw) s lw d 64 2 4 (fun i =>
        ((tieHash sa (BitVec.ofNat 64 (velem (s.getV s.cur b) 64 i))).toNat, 0)))) ∧
 ((∀ (key : DWord) (ctr : BitVec 128) (x : Nat → Nat → Nat) (k : Nat → Nat → Nat),
    (∀ j, j < 4 → x 0 j = ctr.toNat / 2 ^ (32 * j) % 2 ^ 32) → (∀ j, j < 2 → k 0 j = key.toNat / 2 ^ (32 * j) % 2 ^ 32) →
    (∀ n, n < 10 → k (n + 1) 0 = (k n 0 + 0x9E3779B9) % 2 ^ 32 ∧ k (n + 1) 1 = (k n 1 + 0xBB67AE85) % 2 ^ 32 ∧
      x (n + 1) 0 = 0xCD9E8D57 * x n 2 / 2 ^ 32 ^^^ x n 1 ^^^ k n 0 ∧ x (n + 1) 1 = 0xCD9E8D57 * x n 2 % 2 ^ 32 ∧
      x (n + 1) 2 = 0xD2511F53 * x n 0 / 2 ^ 32 ^^^ x n 3 ^^^ k n 1 ∧ x (n + 1) 3 = 0xD2511F53 * x n 0 % 2 ^ 32) →
    ∀ j, j < 4 → (philox key ctr).toNat / 2 ^ (32 * j) % 2 ^ 32 = x 10 j) ∧
  philox 0 0 = 0x9B00DBD8BC57AC4CE169C58D6627E8D5#128)

/-- `VCVT` converts the elements of one part and leaves the others (R186), `VQMX` quantises 8 blocks into one part of d with their
scales in another register (R187), and `VDQMX` expands one part (R188). That its flags are in `fsr` from the clock of issue is the
model's choice (log entry 67). The conversions of R147 between the integer formats and FP64, FP32, FP16 and BF16: a finite value is
rounded once into the destination, an integer one by the mode to one of its two neighbours, clamped with SAT or replaced by the
pattern of R147 with NV where it lies outside the range; infinities and NaNs become those of the destination, NV for a signalling one;
integers are clamped with SAT or cut to their low bits. That a quiet BF16 NaN becomes FP32's canonical one is log entry 77's. An
element of an MX block with its scale is the element's value times the scale, a NaN under the scale 0xFF (R141, R142). A block of 32
values takes the scale that brings its greatest magnitude to the top binade of its form, clamped, and the elements that the values
over that scale round to, with ±max, OF, NX and SAT where one overflows; a byte of MX INT8 is clamped with SAT; with a NaN or an
infinity among them every element is zero under the scale 0xFF, with NV (R148). -/
def Obligations.VectorConversions : Prop :=
 (∀ (s : State) (d a b fn : Reg) (lw : LW),
    let rm := s.rm s.cur lw.rm
    let p := b.toNat
    (fn.toNat ≤ 11 → fn.toNat ≠ 7 → lw.y.toNat ≤ 11 → lw.y.toNat ≠ 7 →
      let ws := Fmt.vwidth lw.y
      let wt := Fmt.vwidth fn
      let wm := max ws wt
      let m := 8192 / wm
      let conv (j : Nat) : Nat × Flags := convertElem lw.y.toNat fn.toNat (velem (s.getV s.cur a) ws j) rm (lw.x.getLsbD 0)
      let old (j : Nat) : Nat := velem (s.getV s.cur d) wt j
      p * min ws wt < wm → VecReady s lw wm [srcV a lw.ta, srcV d] →
      (wt ≤ ws → VecCommits (.vcvt d a b fn lw) s true d 2 4 (fun v => ∀ j, j < 8192 / wt → velem (BitVec.ofNat 8192 v) wt j =
          if p * m ≤ j ∧ j < p * m + m ∧ laneEnabled s lw wm (j - p * m) then (conv (j - p * m)).1 % 2 ^ wt else old j)
        (laneFlags s lw wm m (fun i => (conv i).2))) ∧
      (ws < wt → VecCommits (.vcvt d a b fn lw) s true d 2 4 (fun v => ∀ j, j < m → velem (BitVec.ofNat 8192 v) wt j =
          if laneEnabled s lw wm j then (conv (p * m + j)).1 % 2 ^ wt else old j)
        (laneFlags s lw wm m (fun i => (conv (p * m + i)).2)))) ∧
    (0x18 ≤ fn.toNat → fn.toNat ≤ 0x1D → lw.g = false →
      let w := Fmt.vwidth fn
      let sr := lw.x
      let block (k : Nat) : Nat × List Nat × Flags :=
        quantBlock fn.toNat rm ((List.range 32).map (fun j => FpFmt.fp32.decode (velem (s.getV s.cur a) 32 (32 * k + j))))
      let fl : Flags := (List.range 8).foldl (fun f k => f ||| (block k).2.2) 0
      let lo := 256 * w * p
      let part (n : Nat) : Bool := if lo ≤ n ∧ n < lo + 256 * w
        then ((block ((n - lo) / (32 * w))).2.1.getD ((n - lo) % (32 * w) / w) 0).testBit ((n - lo) % w) else (s.getV s.cur d).getLsbD n
      let scaled (old : Nat → Bool) (k : Nat) : Bool := if 64 * p ≤ k ∧ k < 64 * (p + 1)
        then (block ((k - 64 * p) / 8)).1.testBit ((k - 64 * p) % 8) else old k
      lo + 256 * w ≤ 8192 → VecReady s lw 32 [srcV a lw.ta, srcV sr lw.tc, srcV d] →
      let q := s.prog s.cur
      let s1 := ((fresh s).occupyLanes s.cur.core 4).orFsr s.cur fl
      let pending (r : Reg) (v : Nat) : VPend := ⟨true, r.toNat, v, s.now + 8, false, fl, 0, q.pc, q.pend, none⟩
      let on := fl &&& (s.thread s.cur).fte.setWidth 8
      (sr = d → VecCommits (.vqmx d a b fn lw) s true d 4 8 (fun v => ∀ n, n < 8192 → v.testBit n = scaled part n) fl) ∧
      (sr ≠ d → on = 0 → ∃ v1 v2 : Nat, (∀ n, n < 8192 → v1.testBit n = part n) ∧
        (∀ n, n < 8192 → v2.testBit n = scaled (fun k => (s.getV s.cur sr).getLsbD k) n) ∧
        Retires (.vqmx d a b fn lw) s 2 ((s1.addResult s.cur (pending d v1)).addResult s.cur (pending sr v2))) ∧
      (sr ≠ d → on ≠ 0 → exec (.vqmx d a b fn lw) s = .next (s1.raise s.cur ⟨.fpx, BitVec.ofNat 64 on.toNat, q.pc, q.pend⟩))) ∧
    (0x18 ≤ fn.toNat → fn.toNat ≤ 0x1D → lw.g = false → VecReady s lw 32 [srcV a lw.ta, srcV lw.x lw.tc, srcV d] →
      let w := Fmt.vwidth fn
      VecWrites (.vdqmx d a b fn lw) s lw d 32 4 8 (fun i =>
        let k := velem (s.getV s.cur lw.x) 8 (8 * p + i / 32)
        if k = 255 then (0x7FC00000, Flags.nv)
        else FpFmt.fp32.ofVal rm (mxVal fn.toNat k ((s.getV s.cur a).toNat / 2 ^ (256 * w * p + w * i) % 2 ^ w))))) ∧
 (∀ (src dst x : Nat) (rm : Rm) (sat : Bool), src ≤ 11 → src ≠ 7 → dst ≤ 11 → dst ≠ 7 →
    let r := convertElem src dst x rm sat
    let g := FpFmt.get dst
    let w := Fmt.width dst
    let ws := Fmt.width src
    let signed (c : Nat) : Bool := c % 2 == 0
    let lo : Int := if signed dst then -2 ^ (w - 1) else 0
    let hi : Int := if signed dst then 2 ^ (w - 1) - 1 else 2 ^ w - 1
    let pat (z : Int) : Nat := (z % 2 ^ w).toNat
    let other : Nat := if signed dst then 2 ^ (w - 1) else 2 ^ w - 1
    let int : Int := if signed src ∧ 2 ^ (ws - 1) ≤ x % 2 ^ ws then ((x % 2 ^ ws : Nat) : Int) - 2 ^ ws else (x % 2 ^ ws : Nat)
    (src ≤ 6 → dst ≤ 6 → r = if sat ∧ int < lo then (pat lo, Flags.sat) else if sat ∧ hi < int then (pat hi, Flags.sat) else (pat int, 0)) ∧
    (src ≤ 6 → 8 ≤ dst → r = g.round rm ⟨decide (int < 0), int.natAbs, 0, false⟩) ∧
    (8 ≤ src → let v := (FpFmt.get src).decode x
      (8 ≤ dst → (∀ n, v = .nan n → r = (g.nanBits, if n then Flags.nv else 0)) ∧ (∀ n, v = .inf n → r = (g.infBits n, 0)) ∧
        ∀ y, v = .fin y → r = g.round rm y) ∧
      (dst ≤ 6 → (∀ n, v = .nan n → r = (if sat then 0 else other, Flags.nv)) ∧
        (∀ n, v = .inf n → r = if sat then (pat (if n then lo else hi), Flags.sat) else (other, Flags.nv)) ∧
        ∀ (y : Exact) (l n : Nat), v = .fin y →
          let a : Exact := { y with neg := false }
          let units (k : Nat) (h : Int) : Exact := ⟨false, k, h, false⟩
          let exact : Bool := Exact.cmp (units l 0) a == .eq
          let half := Exact.cmp a (units (2 * l + 1) (-1))
          let up : Prop := exact = false ∧ (match rm with
            | .rne => half = .gt ∨ half = .eq ∧ l % 2 = 1
            | .rna => half ≠ .lt
            | .rtz => False
            | .rdn => y.neg = true
            | .rup => y.neg = false)
          let z : Int := if y.neg then -(n : Int) else n
          let nx : Flags := if exact then 0 else Flags.nx
          Exact.cmp (units l 0) a ≠ .gt → Exact.cmp a (units (l + 1) 0) = .lt → (up → n = l + 1) → (¬ up → n = l) →
            (lo ≤ z → z ≤ hi → r = (pat z, nx)) ∧
            (z < lo → r = if sat then (pat lo, Flags.sat ||| nx) else (other, Flags.nv)) ∧
            (hi < z → r = if sat then (pat hi, Flags.sat ||| nx) else (other, Flags.nv))))) ∧
 (∀ (code elem : Nat) (emax : Int) (maxBits : Nat), (code, elem, emax, maxBits) ∈ [(0x18, 0x0C, 8, 0x7E), (0x19, 0x0D, 15, 0x7B),
      (0x1A, 0x0E, 4, 0x1F), (0x1B, 0x0F, 2, 0x1F), (0x1C, 0x10, 2, 7), (0x1D, 0, 0, 0)] →
    let f := FpFmt.get elem
    (∀ k x, k < 256 → (k = 255 → mxVal code k x = .nan false) ∧
      (k ≠ 255 → code ≠ 0x1D → mxVal code k x = (match f.decode x with
        | .fin y => .fin { y with e := y.e + ((k : Int) - 127) }
        | v => v)) ∧
      (k ≠ 255 → code = 0x1D → let n : Int := if x % 256 < 128 then (x % 256 : Nat) else ((x % 256 : Nat) : Int) - 256
        mxVal code k x = .fin ⟨decide (n < 0), n.natAbs, -6 + ((k : Int) - 127), false⟩)) ∧
    (∀ (rm : Rm) (vs : List Val), (∃ v ∈ vs, ∀ y, v ≠ .fin y) → quantBlock code rm vs = (255, vs.map (fun _ => 0), Flags.nv)) ∧
    ∀ (rm : Rm) (xs : List Exact) (top : Exact) (k : Int), (∀ y ∈ xs, y.sticky = false) → top ∈ xs →
      let mag (y : Exact) : Exact := { y with neg := false }
      (∀ y ∈ xs, Exact.cmp (mag y) (mag top) ≠ .gt) →
      (k = if top.n = 0 then -127 else max (-127) (min 127 ((Nat.log2 top.n : Int) + top.e - emax))) →
      let reduced (y : Exact) : Exact := { y with e := y.e - k }
      let one (y : Exact) : Nat × Flags := if code = 0x1D then
          let r := ({ y with e := y.e - k + 6 } : Exact).toInt rm
          let c : Int := max (-128) (min 127 r.1)
          ((c % 256).toNat, (if r.2 then Flags.nx else 0) ||| (if c ≠ r.1 then Flags.sat else 0))
        else
          let r := f.round rm (reduced y)
          if r.2 &&& Flags.of ≠ 0 then ((if y.neg then 2 ^ (f.width - 1) else 0) + maxBits, Flags.of ||| Flags.nx ||| Flags.sat) else r
      quantBlock code rm (xs.map .fin) = ((k + 127).toNat, xs.map (fun y => (one y).1), xs.foldl (fun g y => g ||| (one y).2) 0))

/-- The reductions give s_d the canonical tree over the enabled lanes, or the identity where there is none (R156, R189). The
candidates of `VRARG` and `VTOPK` are the enabled lanes whose element is no NaN, a signalling NaN raises NV; they rank by the value of
the element, down or up, the two zeros equal, and equal values by the smaller tie hash of the lane under `tseed` (R157, R190). `VRARG`
gives the lane that none ranks before, all ones where there is no candidate (R190), and `VTOPK` the lanes of the k best in order
(R191). That its flags are in `fsr` from the clock of issue is the model's choice (log entry 67). The canonical tree (R156): no leaf
or one stands as it is, without a flag; n leaves, with 2^j < n ≤ 2^(j+1), are split after the first 2^j; where one side is absent the
other passes, else the operation combines them; the flags of all nodes are united. The depth that the model carries along is no more
than a bound. -/
def Obligations.VectorReductions : Prop :=
 (∀ (s : State) (d a b fn : Reg) (lw : LW), fn.toNat ≤ 11 → fn.toNat ≠ 7 →
    let w := Fmt.vwidth fn
    let rm := s.rm s.cur lw.rm
    let f := FpFmt.get fn.toNat
    let signed : Bool := decide (fn.toNat ≤ 6) && fn.toNat % 2 == 0 && !lw.y.getLsbD 0
    let ext (x : Nat) : DWord := if signed ∧ 2 ^ (w - 1) ≤ x % 2 ^ w then BitVec.ofInt 64 (((x % 2 ^ w : Nat) : Int) - 2 ^ w)
      else BitVec.ofNat 64 (x % 2 ^ w)
    let leaves : List (Option Nat) := (List.range (8192 / w)).map (fun j =>
      if laneEnabled s lw w j then some (velem (s.getV s.cur a) w j) else none)
    let val (x : Nat) : Int := intOf w signed x
    let reduces (i : Instr) (identity : Nat) (op : Nat → Nat → Nat × Flags) : Prop :=
      VecCommits i s false d 2 12 (fun v => BitVec.ofNat 64 v = ext ((canonTree op 11 leaves).1.getD identity)) (canonTree op 11 leaves).2
    let least : Nat := if signed then 2 ^ (w - 1) else 0
    let greatest : Nat := if signed then 2 ^ (w - 1) - 1 else 2 ^ w - 1
    let el (j : Nat) : Nat := velem (s.getV s.cur a) w j
    let nan (j : Nat) : Bool := decide (8 ≤ fn.toNat) && decide (f.infBits false < el j % 2 ^ (w - 1))
    let key (j : Nat) : Int := if fn.toNat ≤ 6 then val (el j) else if el j < 2 ^ (w - 1) then (el j : Int) else 2 ^ (w - 1) - (el j : Int)
    let tie (j : Nat) : DWord :=
      let z0 : DWord := ((s.thread s.cur).tseed ^^^ BitVec.ofNat 64 j) + 0x9E3779B97F4A7C15
      let z1 : DWord := (z0 ^^^ (z0 >>> 30)) * 0xBF58476D1CE4E5B9
      let z2 : DWord := (z1 ^^^ (z1 >>> 27)) * 0x94D049BB133111EB
      z2 ^^^ (z2 >>> 31)
    let cand (j : Nat) : Prop := j < 8192 / w ∧ laneEnabled s lw w j = true ∧ nan j = false
    let before (i j : Nat) : Prop := (if lw.y.getLsbD 1 then key i < key j else key j < key i) ∨
      key i = key j ∧ (tie i).toNat < (tie j).toNat
    let nv : Flags := if (List.range (8192 / w)).any (fun j => laneEnabled s lw w j && nan j && !(el j).testBit (f.mbits - 1))
      then Flags.nv else 0
    (VecReady s lw w [srcV a lw.ta, srcS d] →
      (fn.toNat ≤ 6 →
        reduces (.vrsum d a fn lw) 0 (fun x y => ((x + y) % 2 ^ w, 0)) ∧
        reduces (.vrmax d a fn lw) least (fun x y => (if val x < val y then y else x, 0)) ∧
        reduces (.vrmin d a fn lw) greatest (fun x y => (if val x < val y then x else y, 0))) ∧
      (8 ≤ fn.toNat →
        reduces (.vrsum d a fn lw) 0 (fun x y => fpAdd f rm (f.decode x) (f.decode y)) ∧
        reduces (.vrmax d a fn lw) (f.infBits true) (fpMinMax f true) ∧
        reduces (.vrmin d a fn lw) (f.infBits false) (fpMinMax f false)) ∧
      VecCommits (.vrarg d a fn lw) s false d 2 12 (fun v =>
        ((∀ j, ¬ cand j) → BitVec.ofNat 64 v = 0xFFFFFFFFFFFFFFFF) ∧
        ((∃ j, cand j) → ∃ j, cand j ∧ BitVec.ofNat 64 v = BitVec.ofNat 64 j ∧ ∀ i, cand i → ¬ before i j)) nv) ∧
    (VecReady s lw w [srcV a lw.ta, srcS b lw.tb, srcV d] →
      VecCommits (.vtopk d a b fn lw) s true d 8 20 (fun v => ∃ ranked : List Nat, ranked.Nodup ∧ (∀ j, j ∈ ranked ↔ cand j) ∧
        ranked.Pairwise (fun i j => ¬ before j i) ∧
        ∀ j, j < 256 → velem (BitVec.ofNat 8192 v) 32 j =
          if j < (s.getS s.cur b).toNat then ranked.getD j 0xFFFFFFFF else 0xFFFFFFFF) nv)) ∧
 (∀ (op : Nat → Nat → Nat × Flags) (leaves : List (Option Nat)) (d j : Nat),
    let x := canonTree op d (leaves.take (2 ^ j))
    let y := canonTree op d (leaves.drop (2 ^ j))
    (leaves = [] → canonTree op (d + 1) leaves = (none, 0)) ∧ (∀ l, leaves = [l] → canonTree op (d + 1) leaves = (l, 0)) ∧
    (2 ^ j < leaves.length → leaves.length ≤ 2 ^ (j + 1) →
      (∀ u v, x.1 = some u → y.1 = some v → canonTree op (d + 1) leaves = (some (op u v).1, x.2 ||| y.2 ||| (op u v).2)) ∧
      (x.1 = none → canonTree op (d + 1) leaves = (y.1, x.2 ||| y.2)) ∧
      (y.1 = none → canonTree op (d + 1) leaves = (x.1, x.2 ||| y.2))) ∧
    (leaves.length ≤ 2 ^ d → ∀ e, leaves.length ≤ 2 ^ e → canonTree op (d + 1) leaves = canonTree op (e + 1) leaves))

/-- The vector loads and stores move the enabled lanes' elements between v_d and the scratchpad, at unit stride, at a stride or at
indices, after the checks of R181; nothing else of the scratchpad changes (R181, R182). The clocks of R195's bank conflicts between
agents are left out (log entry 27). -/
def Obligations.VectorMemory : Prop :=
  ∀ (s : State) (d a b fn : Reg) (lw : LW), fn.toNat ≤ 11 → fn.toNat ≠ 7 → (s.core s.cur.core).spad.wf = true →
    let w := Fmt.vwidth fn
    let n := w / 8
    let m := (s.core s.cur.core).spad
    let on (j : Nat) : Prop := j < 8192 / w ∧ laneEnabled s lw w j = true
    let unit (j : Nat) : DWord := s.getS s.cur a + BitVec.ofNat 64 (j * n)
    let stride (j : Nat) : DWord := s.getS s.cur a + BitVec.ofNat 64 j * s.getS s.cur b
    let index (j : Nat) : DWord := s.getS s.cur a + BitVec.ofNat 64 (velem (s.getV s.cur b) w j * n)
    let aligned (addr : Nat → DWord) : Prop := ∀ j, on j → (addr j).toNat % n = 0
    let inside (addr : Nat → DWord) : Prop := ∀ j, on j → (addr j).toNat + n - 1 ≤ 0xBFFFF
    let checks (i : Instr) (addr : Nat → DWord) : Prop :=
      (∀ j, on j → (addr j).toNat % n ≠ 0 → (∀ l, on l → l < j → (addr l).toNat % n = 0) → Traps i s .align (addr j)) ∧
      (∀ j, aligned addr → on j → 0xBFFFF < (addr j).toNat + n - 1 → (∀ l, on l → l < j → (addr l).toNat + n - 1 ≤ 0xBFFFF) →
        Traps i s .spbound (addr j))
    let loads (i : Instr) (addr : Nat → DWord) (c : Nat) : Prop := checks i addr ∧
      (aligned addr → inside addr → VecWrites i s lw d w (c + 1) (c + 3) (fun j => (Memory.readN m (addr j).toNat n, 0)))
    let stores (i : Instr) (addr : Nat → DWord) (c : Nat) : Prop := checks i addr ∧
      (aligned addr → inside addr → ∃ t, exec i s = .next t ∧ (t.core s.cur.core).laneFree = s.now + (c + 1) ∧
        (∀ j, on j → (∀ l, on l → j < l → addr l ≠ addr j) → Memory.readN (t.core s.cur.core).spad (addr j).toNat n =
          velem (s.getV s.cur d) w j) ∧
        (∀ k, (∀ j, on j → k < (addr j).toNat ∨ (addr j).toNat + n ≤ k) →
          Memory.read (t.core s.cur.core).spad k = Memory.read m k) ∧
        (∀ k, Memory.read t.hbm k = Memory.read s.hbm k) ∧ (∀ r, t.getS s.cur r = s.getS s.cur r) ∧
        (∀ r, t.getV s.cur r = s.getV s.cur r))
    let cost (addr : Nat → DWord) : Nat := bankCost (laneAddrs lw (s.getV s.cur lw.greg) w addr)
    (VecReady s lw w [srcS a lw.ta, srcV d] → loads (.vld d a fn lw) unit 1 ∧ stores (.vst d a fn lw) unit 1) ∧
    (VecReady s lw w [srcS a lw.ta, srcS b lw.tb, srcV d] →
      loads (.vldS d a b fn lw) stride (cost stride) ∧ stores (.vstS d a b fn lw) stride (cost stride)) ∧
    (VecReady s lw w [srcS a lw.ta, srcV b lw.tb, srcV d] →
      loads (.vldX d a b fn lw) index (cost index) ∧ stores (.vstX d a b fn lw) index (cost index))

/-- The tag instructions on a good descriptor look up, fill, pin, evict and unpin one line in its set, with the status, the way, its
slot and the displaced line that R203–R205 give, and hold the thread for 2 clocks; a bad descriptor traps as R201 says. The order of a
set of the tag table: an entry touched becomes the most recent and the others keep their order; the line found is the valid one of its
size and tag, the way taken the lowest invalid one, and the way displaced the least recent that no thread has pinned; the fold of a
line number is the XOR of its bytes (R200, R202, R204). -/
def Obligations.TagTable : Prop :=
 (∀ (s : State) (c x : Nat) (d a b : Reg), s.cur = .thread c x → x < 24 → Stands s 1 .any →
    let av := (s.getS s.cur a).toNat
    let bv := (s.getS s.cur b).toNat
    let sz := bv / 2 ^ 12 % 4
    let size := if sz = 0 then 128 else if sz = 1 then 1024 else 8192
    let logn := bv / 2 ^ 8 % 16
    let first := bv % 2 ^ 8
    let base := bv / 2 ^ 32 % 2 ^ 20
    let top := base + 2 ^ logn * 8 * size - 1
    let badB : Prop := bv / 2 ^ 52 ≠ 0 ∨ bv / 2 ^ 14 % 2 ^ 18 ≠ 0 ∨ sz = 3 ∨ 8 < logn ∨ 256 < first + 2 ^ logn ∨ base % size ≠ 0
    let line := av / size
    let n := first + fold8 line % 2 ^ logn
    let t := s.tagSet c n
    let word (status w pin : Nat) : DWord :=
      BitVec.ofNat 64 (status * 2 ^ 56 + n * 2 ^ 24 + pin * 2 ^ 23 + w * 2 ^ 20 + (base + ((n - first) * 8 + w) * size))
    let bare (status : Nat) : DWord := BitVec.ofNat 64 (status * 2 ^ 56 + n * 2 ^ 24)
    let pinned (e : TagEntry) : Nat := if e.pinmask = 0 then 0 else 1
    let entry : TagEntry := { valid := true, sz := sz, tag := line, pinmask := 0 }
    let one (i : Instr) (u : TagSet) (r : DWord) : Prop :=
      Retires i s 1 ((((fresh s).setTagSet c n u).setS s.cur d r).holdFor s.cur 2)
    let two (i : Instr) (u : TagSet) (r r2 : DWord) : Prop :=
      Retires i s 1 (((((fresh s).setTagSet c n u).setS s.cur d r).setS s.cur (d + 1) r2).holdFor s.cur 2)
    let bit : BitVec 24 := 1#24 <<< x
    let oldLine (e : TagEntry) : DWord := BitVec.ofNat 64 (e.tag * (if e.sz = 0 then 128 else if e.sz = 1 then 1024 else 8192))
    let none64 : DWord := 0xFFFFFFFFFFFFFFFF
    let quotaLeft : Prop := (s.core c).pinsOf x < (s.ctx c x).pinquota.toNat
    let rejects (i : Instr) : Prop :=
      (badB → Traps i s .illegal (s.getS s.cur b)) ∧
      (¬ badB → 0xBFFFF < top → Traps i s .spbound (BitVec.ofNat 64 top)) ∧
      (¬ badB → top ≤ 0xBFFFF → 2 ^ 57 ≤ av → Traps i s .illegal (s.getS s.cur a))
    (RegsReady s [srcS a, srcS b, srcS d] → ∀ i ∈ [Instr.tlook d a b, .tevict d a b, .tunpin d a b], rejects i) ∧
    (RegsReady s [srcS a, srcS b, srcS d, srcS (d + 1)] → ∀ i ∈ [Instr.tfill d a b, .tpin d a b], rejects i) ∧
    (¬ badB → top ≤ 0xBFFFF → av < 2 ^ 57 → RegsReady s [srcS a, srcS b, srcS d] →
      (t.find sz line = none →
        one (.tlook d a b) t (bare 1) ∧ one (.tevict d a b) t (bare 5) ∧ one (.tunpin d a b) t (bare 5)) ∧
      (∀ w, t.find sz line = some w → let e := t.way w
        one (.tlook d a b) (t.touch w) (word 0 w (pinned e)) ∧
        (e.pinmask ≠ 0 → one (.tevict d a b) t (word 6 w 1)) ∧
        (e.pinmask = 0 → one (.tevict d a b) (t.setWay w { e with valid := false }) (word 0 w 0)) ∧
        (e.pinmask.getLsbD x = false → one (.tunpin d a b) t (word 7 w (pinned e))) ∧
        (e.pinmask.getLsbD x = true → let e1 := { e with pinmask := e.pinmask &&& ~~~bit }
          one (.tunpin d a b) (t.setWay w e1) (word 0 w (pinned e1))))) ∧
    (¬ badB → top ≤ 0xBFFFF → av < 2 ^ 57 → RegsReady s [srcS a, srcS b, srcS d, srcS (d + 1)] →
      (∀ w, t.find sz line = some w → let e := t.way w
        two (.tfill d a b) (t.touch w) (word 0 w (pinned e)) none64 ∧
        (e.pinmask.getLsbD x = false → ¬ quotaLeft → two (.tpin d a b) t (bare 4) none64) ∧
        (e.pinmask.getLsbD x = true ∨ quotaLeft →
          two (.tpin d a b) ((t.setWay w { e with pinmask := e.pinmask ||| bit }).touch w) (word 0 w 1) none64)) ∧
      (t.find sz line = none → ¬ quotaLeft → two (.tpin d a b) t (bare 4) none64) ∧
      (∀ w, t.find sz line = none → (t.invalidWay = some w ∨ t.invalidWay = none ∧ t.victim = some w) →
        let gone := if t.invalidWay = none then oldLine (t.way w) else none64
        two (.tfill d a b) ((t.setWay w entry).touch w) (word 2 w 0) gone ∧
        (quotaLeft → two (.tpin d a b) ((t.setWay w { entry with pinmask := bit }).touch w) (word 2 w 1) gone)) ∧
      (t.find sz line = none → t.invalidWay = none → t.victim = none →
        two (.tfill d a b) t (bare 3) none64 ∧ (quotaLeft → two (.tpin d a b) t (bare 3) none64)))) ∧
 (∀ (t : TagSet) (w sz line : Nat),
    let is (v : Nat) : Prop := v < 8 ∧ (t.way v).valid = true ∧ (t.way v).sz = sz ∧ (t.way v).tag = line
    (t.touch w).ways = t.ways ∧ (t.touch w).order.head? = some w ∧
    (t.touch w).order.filter (· != w) = t.order.filter (· != w) ∧ (t.touch w).order.count w = 1 ∧
    (t.victim = some w ↔ ∃ recent older, t.order = recent ++ w :: older ∧ (t.way w).pinmask = 0 ∧ ∀ v ∈ older, (t.way v).pinmask ≠ 0) ∧
    (t.victim = none ↔ ∀ v ∈ t.order, (t.way v).pinmask ≠ 0) ∧
    (t.invalidWay = some w ↔ w < 8 ∧ (t.way w).valid = false ∧ ∀ v, v < w → (t.way v).valid = true) ∧
    (t.invalidWay = none ↔ ∀ v, v < 8 → (t.way v).valid = true) ∧
    (t.find sz line = some w ↔ is w ∧ ∀ v, v < w → ¬ is v) ∧ (t.find sz line = none ↔ ∀ v, ¬ is v) ∧
    (let byte (k : Nat) : Nat := line / 2 ^ (8 * k) % 256
     fold8 line = byte 0 ^^^ byte 1 ^^^ byte 2 ^^^ byte 3 ^^^ byte 4 ^^^ byte 5 ^^^ byte 6 ^^^ byte 7))

/-- The stream registers: `QBIND` binds a ring or unbinds, `QGET` claims the next element and marks its destination empty, a claim
fills once its bytes have arrived, `QREL` releases up to the oldest open claim, and `VLDQ` takes 1,024 bytes that have arrived (R183,
R206–R210). That a `QGET` completes while an `LDL` has yet to write a line of its ring is the model's choice (log entry 67). -/
def Obligations.Streams : Prop :=
  ∀ (s : State) (d a b fn : Reg) (lw : LW),
    let c := s.cur.core
    let k := s.core c
    let av := (s.getS s.cur a).toNat
    let bv := (s.getS s.cur b).toNat
    let size := bv % 2 ^ 20
    let nBind := d.toNat
    let busy : Prop := (s.stream c nBind).ring ≠ none ∧
      ((s.stream c nBind).arr ≠ (s.stream c nBind).rel ∨ (s.stream c nBind).clm ≠ (s.stream c nBind).rel ∨ k.streamBusy nBind = true)
    let badB : Prop := 2 ^ 24 ≤ bv ∨ bv / 2 ^ 20 % 2 = 1 ∨ size % 128 ≠ 0
    let n := a.toNat
    let q := s.stream c n
    let byte (r : Ring) (j : Nat) : Byte := Memory.read k.spad (r.base + j % r.size)
    (Stands s 1 .any → RegsReady s [srcS a, srcS b] →
      (busy → Traps (.qbind d a b) s .illegal (BitVec.ofNat 64 nBind)) ∧
      (¬ busy → badB → Traps (.qbind d a b) s .illegal (s.getS s.cur b)) ∧
      (¬ busy → ¬ badB → size = 0 → Retires (.qbind d a b) s 1 (((fresh s).setStream c nBind {}).holdFor s.cur 1)) ∧
      (¬ busy → ¬ badB → size ≠ 0 → av % 128 ≠ 0 → Traps (.qbind d a b) s .align (s.getS s.cur a)) ∧
      (¬ busy → ¬ badB → size ≠ 0 → av % 128 = 0 → 0xBFFFF < av + size - 1 →
        Traps (.qbind d a b) s .spbound (s.getS s.cur a)) ∧
      (¬ busy → ¬ badB → size ≠ 0 → av % 128 = 0 → av + size - 1 ≤ 0xBFFFF → Retires (.qbind d a b) s 1 (((fresh s).setStream c nBind
        { ring := some ⟨av, size, 2 ^ (bv / 2 ^ 21 % 4), (s.getS s.cur b).getLsbD 23⟩ }).holdFor s.cur 1))) ∧
    (Stands s 1 .any → RegsReady s [srcS d] →
      (q.ring = none → Traps (.qget d a) s .illegal (BitVec.ofNat 64 n) ∧ Traps (.qrel d a) s .illegal (BitVec.ofNat 64 n)) ∧
      (∀ r, q.ring = some r → (q.claims.filter (fun e => decide (e.owner = s.cur))).length < 16 →
        ∃ t, exec (.qget d a) s = .next t ∧ BytesSame s t ∧ (∀ r, t.getS s.cur r = s.getS s.cur r) ∧
          (∀ r, r < 64 → (t.prog s.cur).isEmptyS r = (decide (r = d.toNat ∧ r ≠ 0) || (s.prog s.cur).isEmptyS r)) ∧
          t.stream c n = { q with clm := q.clm + r.esz, claims := q.claims ++ [⟨k.nextClaim, q.clm, r.esz, s.cur, d.toNat⟩] }) ∧
      (∀ r, q.ring = some r → 16 ≤ (q.claims.filter (fun e => decide (e.owner = s.cur))).length → Stalls (.qget d a) s) ∧
      (q.ring ≠ none → ∃ rel, rel ≤ q.clm ∧ (∀ e, e ∈ q.claims → rel ≤ e.start) ∧
        (rel = q.clm ∨ ∃ e, e ∈ q.claims ∧ rel = e.start) ∧
        Retires (.qrel d a) s 1 ((((fresh s).setStream c n { q with rel := rel }).setS s.cur d (BitVec.ofNat 64 rel)).holdFor s.cur 1))) ∧
    (let w := Fmt.vwidth fn
     fn.toNat ≤ 11 → fn.toNat ≠ 7 → VecReady s lw w [srcV d] →
      (q.ring = none → Traps (.vldq d a fn lw) s .illegal (BitVec.ofNat 64 n)) ∧
      (∀ r, q.ring = some r → r.size < 1024 → Traps (.vldq d a fn lw) s .illegal (BitVec.ofNat 64 n)) ∧
      (∀ r, q.ring = some r → 1024 ≤ r.size → q.arr < q.clm + 1024 → Stalls (.vldq d a fn lw) s) ∧
      (∀ r, q.ring = some r → 1024 ≤ r.size → q.clm + 1024 ≤ q.arr →
        ∃ t v, exec (.vldq d a fn lw) s = .next t ∧ BytesSame s t ∧ t.stream c n = { q with clm := q.clm + 1024 } ∧
          lanesHold s lw w d (fun j => (List.range (w / 8)).foldl (fun x i => x + (byte r (q.clm + w / 8 * j + i)).toNat * 256 ^ i) 0) v ∧
          ∃ u l, s.cur = .vec c u ∧ (t.slot c u).results = l ++ [⟨true, d.toNat, v, s.now + 4, false, 0, 0, (s.prog s.cur).pc,
            (s.prog s.cur).pend, none⟩])) ∧
    (∀ r e, let y := s.stream s.target.core s.target.unit
      y.ring = some r → y.claims.find? (fun e => e.id == s.target.id) = some e →
      e.start + e.len ≤ y.arr → e.reg < 64 → s.away.contains s.target.core = false →
      ∃ t v, exec .qgetFill s = .next t ∧ BytesSame s t ∧ (t.prog e.owner).getS e.reg = (if e.reg = 0 then 0 else v) ∧
        (t.prog e.owner).isEmptyS e.reg = false ∧ (∀ j, j < e.len → j < 8 → v.toNat / 256 ^ j % 256 =
          (Memory.read (s.core s.target.core).spad (r.base + (e.start + j) % r.size)).toNat) ∧
        (r.sgn = false → v.toNat < 256 ^ e.len) ∧ (r.sgn = true → 0 < e.len → e.len ≤ 8 →
          -(2 ^ (8 * e.len - 1) : Int) ≤ v.toInt ∧ v.toInt < 2 ^ (8 * e.len - 1)) ∧
        (t.stream s.target.core s.target.unit).claims = y.claims.filter (fun j => j.id != e.id))

/-- Translation. The walk of an address below 2^57 reads the entry of each level at the place that R213 gives, in HBM: it faults at an
entry with V = 0, at a leaf of level 1, at a non-leaf of level 4, at a reserved bit, at a table that is misaligned, and at a leaf that
breaks a rule of R215 or R216; a good leaf of level 2, 3 or 4 gives its page of 1 GiB, 2 MiB or 64 KiB (R213–R216). A cached leaf is
used without a walk, a walked one is cached (R219); a fault and an address beyond 57 bits trap XLATE, a page without the permission
PROT (R216); an entry that is not pinned may be evicted (R219). That a walk without a root faults is the model's choice (log entry
51). -/
def Obligations.Translation : Prop :=
  (∀ (s : State) (c va : Nat), (s.core c).ptRoot = none → s.walk c va = .fault) ∧
  (∀ (s : State) (c va root : Nat), (s.core c).ptRoot = some root → va < 2 ^ 57 →
    let place (t sh bits : Nat) : Nat := t + va / 2 ^ sh % 2 ^ bits * 8
    let inHbm (t sh bits : Nat) : Prop := place t sh bits + 8 ≤ 0xC000000000
    let ent (t sh bits : Nat) : Nat := Memory.readN s.hbm (place t sh bits) 8
    let next (e : Nat) : Nat := e / 2 ^ 8 % 2 ^ 40 * 2 ^ 8
    let e1 := ent root 39 18
    let e2 := ent (next e1) 30 9
    let e3 := ent (next e2) 21 9
    let e4 := ent (next e3) 16 5
    let broken (e : Nat) (toLevel4 : Bool) : Prop := e % 2 = 0 ∨
      e % 4 = 1 ∧ (e / 2 ^ 48 ≠ 0 ∨ e / 2 ^ 2 % 2 ^ 6 ≠ 0 ∨ toLevel4 = false ∧ e / 2 ^ 8 % 2 ^ 4 ≠ 0)
    let points (e : Nat) (toLevel4 : Bool) : Prop := e % 4 = 1 ∧ ¬ broken e toLevel4
    let in1 : Prop := inHbm root 39 18
    let in2 : Prop := in1 ∧ points e1 false ∧ inHbm (next e1) 30 9
    let in3 : Prop := in2 ∧ points e2 false ∧ inHbm (next e2) 21 9
    let in4 : Prop := in3 ∧ points e3 true ∧ inHbm (next e3) 16 5
    let leaf (sh e : Nat) : Prop :=
      let base := va / 2 ^ sh * 2 ^ sh
      let ppn := e / 2 ^ 32 % 2 ^ 32
      let fmt := e / 2 ^ 10 % 2 ^ 6
      let geom := e / 2 ^ 16 % 2 ^ 4
      let mx : Prop := 0x18 ≤ fmt ∧ fmt ≤ 0x1D
      let bits := Fmt.width fmt
      let good : Prop := e / 2 ^ 22 % 2 ^ 2 = 0 ∧ e / 2 ^ 4 % 2 ^ 6 = 0 ∧ ppn * 2 ^ 16 % 2 ^ sh = 0 ∧ ppn * 2 ^ 16 + 2 ^ sh ≤ 0xC000000000 ∧
        bits ≠ 0 ∧ geom ≤ 3 ∧ (geom = 1 ∨ geom = 2 → mx) ∧ (geom = 0 → ¬ mx) ∧ (geom = 3 → fmt = 1) ∧
        (e.testBit 20 = true → geom = 0 ∧ (bits = 8 ∨ bits = 16 ∨ bits = 32) ∧ base + 2 ^ sh ≤ 2 ^ 53 * (bits / 8)) ∧
        (2 ^ 56 ≤ base → fmt = 0x13 ∧ geom = 0 ∧ e.testBit 20 = false) ∧ (fmt ≠ 0x13 → e / 2 ^ 24 % 2 ^ 8 = 0)
      (good → s.walk c va = .page ⟨base, 2 ^ sh, e⟩ ∧ Page.pa ⟨base, 2 ^ sh, e⟩ va = ppn * 2 ^ 16 + va % 2 ^ sh) ∧
        (¬ good → s.walk c va = .fault)
    (¬ in1 → s.walk c va = .noMemory) ∧ (in1 → e1 % 4 = 3 ∨ broken e1 false → s.walk c va = .fault) ∧
    (in2 → (broken e2 false → s.walk c va = .fault) ∧ (e2 % 4 = 3 → leaf 30 e2)) ∧
    (in3 → (broken e3 true → s.walk c va = .fault) ∧ (e3 % 4 = 3 → leaf 21 e3)) ∧
    (in4 → (e4 % 4 ≠ 3 → s.walk c va = .fault) ∧ (e4 % 4 = 3 → leaf 16 e4))) ∧
  (∀ (s : State) (c va : Nat) (r w : Bool),
    let pc := SMap.get 0 s.remap c
    let es := SMap.get [] s.tlbs pc
    let cached (e : TlbEntry) : Prop := e ∈ es ∧ e.asid = (s.core c).asid ∧ e.base ≤ va ∧ va < e.base + e.size
    let denied (leaf : Nat) : Prop := r = true ∧ leaf.testBit 2 = false ∨ w = true ∧ leaf.testBit 3 = false
    (2 ^ 57 ≤ va → s.xlate c va r w = .trap .xlate (BitVec.ofNat 64 va)) ∧
    (va < 2 ^ 57 → (∀ e, ¬ cached e) → s.walk c va = .fault → s.xlate c va r w = .trap .xlate (BitVec.ofNat 64 va)) ∧
    (∀ p, va < 2 ^ 57 → (∀ e, ¬ cached e) → s.walk c va = .page p →
      (denied p.leaf → s.xlate c va r w = .trap .prot (BitVec.ofNat 64 va)) ∧
      (¬ denied p.leaf → es.length < 2048 → s.xlate c va r w = .page p
        { s with tlbs := SMap.set s.tlbs pc (es ++ [{ asid := (s.core c).asid, base := p.base, size := p.size, leaf := BitVec.ofNat 64 p.leaf }]) })) ∧
    (∀ e, va < 2 ^ 57 → cached e → (∀ o, cached o → o = e) →
      (denied e.leaf.toNat → s.xlate c va r w = .trap .prot (BitVec.ofNat 64 va)) ∧
      (¬ denied e.leaf.toNat → s.xlate c va r w = .page ⟨e.base, e.size, e.leaf.toNat⟩ s))) ∧
  (∀ (s : State), ∃ t, exec .translationEvict s = .next t ∧ BytesSame s t ∧ (∀ q r, t.getS q r = s.getS q r) ∧
    (∀ e, e ∈ SMap.get [] t.tlbs s.target.core ↔ e ∈ SMap.get [] s.tlbs s.target.core ∧
      ¬ (e.asid = s.target.unit ∧ e.base = s.target.id ∧ e.pins = 0)))

/-- The global accesses: the checks at issue in their order, and, in forward mode or off the D pages, the entry that each leaves in
the thread's queues with its data, its destination empty; `MARK` enters the load queue, and a `FENCE` holds the thread until its
accesses are complete, one of scope core until its loads and atomics are, and its stores then leave the landing, behind what may have
been injected by then (R225–R230; log entry 61). What an instruction needs to enter the queues: fewer than 32 entries in each queue
that it enters, an entry being the accesses of one instruction from the oldest that is not complete on, and for each line a permit of
its slice, of which the requests of the threads of a physical core hold 16 at most: a request holds its own until its reply reaches
the core, an `LDL`'s until its line is written (R222, R224, R225, R244). -/
def Obligations.GlobalAccesses : Prop :=
 (∀ (s : State) (c x : Nat) (d a b fn : Reg) (imm : BitVec 12) (lw : LW) (p : Page) (s1 : State), s.cur = .thread c x →
    let n := (s.core c).nextAcc
    let t := s.ctx c x
    let off := s.getS s.cur a + BitVec.ofInt 64 imm.toInt
    let av := s.getS s.cur a
    let bv := (s.getS s.cur b).toNat
    let dv := (s.getS s.cur d).toNat
    let xl (ea : DWord) (r w : Bool) : Xl := (fresh s).xlate c ea.toNat r w
    let enters (i : Instr) (len : Nat) (acc : Acc) (empty : Option Reg) : Prop :=
      ∃ u, exec i s = .next u ∧ BytesSame s u ∧ (∀ r, u.getS s.cur r = s.getS s.cur r) ∧
        (u.ctx c x).accs = t.accs ++ [{ acc with id := n, group := n, clock := s.now }] ∧ (u.core c).nextAcc = n + 1 ∧
        (u.ctx c x).instret = t.instret + 1 ∧ FlowsOn s u len ∧
        ∀ r, r < 64 → (u.prog s.cur).isEmptyS r = ((empty.elim false fun e => decide (r = e.toNat ∧ r ≠ 0)) || (s.prog s.cur).isEmptyS r)
    let checked (i : Instr) (ea : DWord) (size : Nat) (r w : Bool) : Prop :=
      (ea.toNat % size ≠ 0 → Traps i s .align ea) ∧
      (ea.toNat % size = 0 → 2 ^ 57 ≤ ea.toNat → Traps i s .xlate ea) ∧
      (∀ cs v, ea.toNat % size = 0 → ea.toNat < 2 ^ 57 → xl ea r w = .trap cs v → Traps i s cs v) ∧
      (ea.toNat % size = 0 → ea.toNat < 2 ^ 57 → xl ea r w = .page p s1 → p.geom ≠ 0 → Traps i s .prot ea)
    let good (ea : DWord) (size : Nat) (r w : Bool) : Prop :=
      ea.toNat % size = 0 ∧ ea.toNat < 2 ^ 57 ∧ xl ea r w = .page p s1 ∧ p.geom = 0
    let pa (ea : DWord) : Nat := p.leaf / 2 ^ 32 % 2 ^ 32 * 65536 + (ea.toNat - p.base)
    let plain : Prop := p.leaf.testBit 20 = false ∨ t.modeRev = false
    (Stands s 1 .any → RegsReady s [srcS a, srcS d] →
      (∀ v ∈ [(4, Instr.ldgW d a imm), (8, .ldgD d a imm)], checked v.2 off v.1 true false ∧
        (good off v.1 true false → plain →
          (s.admits s.cur true false [pa off] = true → enters v.2 1
            { id := 0, kind := .ldg d.toNat v.1, va := off.toNat, pa := pa off, isLd := true, dpage := p.leaf.testBit 20 } (some d)) ∧
          (s.admits s.cur true false [pa off] = false → Stalls v.2 s))) ∧
      (∀ v ∈ [(4, Instr.stgW d a imm), (8, .stgD d a imm)], checked v.2 off v.1 false true ∧
        (good off v.1 false true → p.leaf.testBit 20 = false →
          (s.admits s.cur false true [pa off] = true → enters v.2 1
            { id := 0, kind := .stg v.1 (dv % 2 ^ (8 * v.1)), va := off.toNat, pa := pa off, isSt := true } none) ∧
          (s.admits s.cur false true [pa off] = false → Stalls v.2 s)))) ∧
    (Stands s 1 .any → RegsReady s [srcS a, srcS b] →
      (∀ i ∈ [Instr.ldl a b, .stl a b],
        (av.toNat % 128 ≠ 0 → Traps i s .align av) ∧
        (av.toNat % 128 = 0 → bv % 128 ≠ 0 → Traps i s .align (s.getS s.cur b)) ∧
        (av.toNat % 128 = 0 → bv % 128 = 0 → 0xBFFFF < bv + 127 → Traps i s .spbound (s.getS s.cur b))) ∧
      (bv % 128 = 0 → bv + 127 ≤ 0xBFFFF →
        checked (.ldl a b) av 128 true false ∧ checked (.stl a b) av 128 false true ∧
        (good av 128 true false → s.lineBusy s.cur bv 128 = true → Stalls (.ldl a b) s) ∧
        (good av 128 true false → s.lineBusy s.cur bv 128 = false → plain → s.admits s.cur true false [pa av] = false → Stalls (.ldl a b) s) ∧
        (good av 128 false true → s.lineBusy s.cur bv 128 = false → p.leaf.testBit 20 = false → s.admits s.cur false true [pa av] = false →
          Stalls (.stl a b) s) ∧
        (good av 128 true false → s.lineBusy s.cur bv 128 = false → plain → s.admits s.cur true false [pa av] = true →
          enters (.ldl a b) 1 { id := 0, kind := .ldl bv, va := av.toNat, pa := pa av, isLd := true, dpage := p.leaf.testBit 20 } none) ∧
        (good av 128 false true → s.lineBusy s.cur bv 128 = true → Stalls (.stl a b) s) ∧
        (good av 128 false true → s.lineBusy s.cur bv 128 = false → p.leaf.testBit 20 = false → s.admits s.cur false true [pa av] = true →
          let data := Memory.readBytes (s.core c).spad bv 128
          enters (.stl a b) 1 { id := 0, kind := .stl data, va := av.toNat, pa := pa av, isSt := true } none))) ∧
    (Stands s 2 .any → GuardOn s lw → RegsReady s [srcS a, srcS b, srcS lw.x, srcS d] →
      let size := if fn.toNat = 4 ∨ fn.toNat = 5 ∨ fn.toNat = 9 then 4 else 8
      let rel := lw.y.getLsbD 0
      checked (.gamo d a b fn lw) av size true true ∧
      (good av size true true → p.leaf.testBit 20 = true → Traps (.gamo d a b fn lw) s .mode av) ∧
      (good av size true true → p.leaf.testBit 20 = false → s.admits s.cur rel true [pa av] = false → Stalls (.gamo d a b fn lw) s) ∧
      (good av size true true → p.leaf.testBit 20 = false → s.admits s.cur rel true [pa av] = true →
        let k : AccKind := .gamo d.toNat fn.toNat (lw.y.toNat / 4) (bv % 2 ^ (8 * size))
          ((s.getS s.cur lw.x).toNat % 2 ^ (8 * size)) (s.rm s.cur lw.rm) p.scale (lw.y.getLsbD 1) rel
        enters (.gamo d a b fn lw) 2 { id := 0, kind := k, va := av.toNat, pa := pa av, isLd := rel, isSt := true } (some d))) ∧
    (Stands s 1 .any →
      (s.admits s.cur true false [] = true → enters .mark 1 { id := 0, kind := .mark, isLd := true } none) ∧
      (s.admits s.cur true false [] = false → Stalls .mark s) ∧
      (∀ imm24 : BitVec 24, imm24.toNat % 4 ≠ 0 →
        ((∀ e, e ∈ t.accs → e.done = true) → Retires (.fence imm24) s 1 (fresh s)) ∧
        ((∃ e, e ∈ t.accs ∧ e.done = false) → exec (.fence imm24) s = .next ((fresh s).holdOn s.cur (.fence (imm24.toNat % 4))))) ∧
      (∀ imm24 : BitVec 24, imm24.toNat % 4 = 0 →
        let t1 : Ctx := { t with accs := t.accs.map (fun e => if e.isPlainStore && e.left.isNone
          then { e with left := some s.now, ahead := s.injectable c } else e) }
        ((∀ e, e ∈ t.accs → e.done = true ∨ e.isPlainStore = true ∨ e.kind = .mark) →
          Retires (.fence imm24) s 1 ((fresh s).setCtx c x t1)) ∧
        ((∃ e, e ∈ t.accs ∧ e.done = false ∧ e.isPlainStore = false ∧ e.kind ≠ .mark) →
          exec (.fence imm24) s = .next ((fresh s).holdOn s.cur (.fence 0)))))) ∧
 ((∀ (s : State) (c x : Nat) (ld st : Bool) (pas : List Nat),
    let accs := (s.ctx c x).accs
    let entries (inQueue : Acc → Bool) : Nat := (((accs.filter inQueue).dropWhile (fun a => a.done)).map (fun a => a.group)).eraseDups.length
    let holds (a : Acc) : Bool := match a.kind with
      | .ldg _ _ => !a.performed
      | .stg _ _ => !a.performed
      | .stl _ => !a.performed
      | .ldl _ => !a.performed
      | .line _ _ => a.isLd && !a.done
      | .gamo _ _ _ _ _ _ _ _ _ => !a.performed
      | .adjAdd _ _ _ => !a.performed
      | .adjTake _ _ _ _ => !a.performed
      | .restore _ _ _ => !a.performed
      | .restoreLine _ => !a.performed
      | .adjRead _ _ _ _ => false
      | .adjClear _ => false
      | .tapeWrite _ _ => false
      | .mark => false
    let cores : List Nat := c :: (s.remap.filter (fun e => e.2 == SMap.get 0 s.remap c && e.1 != c)).map Prod.fst
    let held (slice : Nat) : Nat := (cores.map (fun k => (((s.core k).ctxs.map (fun e => (e.2.accs.filter (fun a =>
      holds a && sliceOf a.pa == slice)).map (fun a => (a.group, a.pa / 128)))).flatten).eraseDups.length)).sum
    let lines := (pas.map (fun pa => pa / 128)).eraseDups
    s.admits (.thread c x) ld st pas = true ↔ (ld = true → entries (fun a => a.isLd) < 32) ∧ (st = true → entries (fun a => a.isSt) < 32) ∧
      ∀ l ∈ lines, held (sliceOf (l * 128)) + (lines.filter (fun m => sliceOf (m * 128) == sliceOf (l * 128))).length ≤ 16) ∧
  ∀ pa : Nat, let l := pa / 128
    let six (n : Nat) : Nat := l / 2 ^ n % 64
    sliceOf pa = six 0 ^^^ six 6 ^^^ six 12 ^^^ six 18 ^^^ six 24 ^^^ six 30 ^^^ six 36)

/-- An access that may perform reads or writes its bytes of HBM whole, little-endian, fills its register and is complete, an atomic
with its flags in `fsr`; an `LDL` brings its line, which is then written to the scratchpad in one access while the core is resident
(R107, R225–R229). When a queued access may perform: no earlier access of its thread that R234 orders before it has still to perform
(loads among themselves, stores among themselves, whatever a `MARK`, an earlier acquire or a later release orders, and a load before
an acquire that stands before a store), and no store of its physical core that left the landing before it was injected has still to
perform at a slice that it goes to (R225, R226, R230, R234, R236; log entry 61). -/
def Obligations.GlobalPerforms : Prop :=
 (∀ (s : State) (a : Acc),
    let c := s.target.core
    let x := s.target.unit
    let q := Seqr.thread c x
    let old (n : Nat) : Nat := Memory.readN s.hbm a.pa n
    let complete (u : State) : Prop := ∀ b, b ∈ (u.ctx c x).accs → b.id = a.id → b.done = true
    let fills (u : State) (reg : Nat) (v : DWord) : Prop := (u.prog q).getS reg = (if reg = 0 then 0 else v) ∧
      (u.prog q).isEmptyS reg = false ∧ ∀ r, r ≠ reg → (u.prog q).getS r = (s.prog q).getS r
    let writes (u : State) (n v : Nat) : Prop :=
      (∀ k, k < n → Memory.read u.hbm (a.pa + k) = BitVec.ofNat 8 (v / 256 ^ k)) ∧
      (∀ k, k < a.pa ∨ a.pa + n ≤ k → Memory.read u.hbm k = Memory.read s.hbm k) ∧
      ∀ d k, Memory.read (u.core d).spad k = Memory.read (s.core d).spad k
    s.hbm.wf = true → (s.ctx c x).prog.hold ≠ some (.adj a.group) →
    (s.performable = some a →
      (∀ reg size, a.kind = .ldg reg size → reg < 64 → size = 4 ∨ size = 8 → ∃ u, exec .loadPerform s = .next u ∧ BytesSame s u ∧
        complete u ∧ fills u reg (if size = 4 ∧ 2 ^ 31 ≤ old 4 then BitVec.ofInt 64 ((old 4 : Int) - 2 ^ 32) else BitVec.ofNat 64 (old size))) ∧
      (∀ sp, a.kind = .ldl sp → ∃ u, exec .loadPerform s = .next u ∧ BytesSame s u ∧
        ∃ b, b ∈ (u.ctx c x).accs ∧ b.id = a.id ∧ b.performed = true ∧ b.kind = .line sp (Memory.readBytes s.hbm a.pa 128)) ∧
      (a.kind = .mark → ∃ u, exec .loadPerform s = .next u ∧ BytesSame s u ∧ complete u) ∧
      (∀ size data, a.kind = .stg size data → ∃ u, exec .storePerform s = .next u ∧ writes u size data ∧ complete u) ∧
      (∀ data, a.kind = .stl data → data.length = 128 → ∃ u, exec .storePerform s = .next u ∧
        writes u 128 (natOfBytes data) ∧ complete u) ∧
      (∀ reg fn op v cmp rm scale acq rel, a.kind = .gamo reg fn op v cmp rm scale acq rel → reg < 64 → fn ∈ [4, 5, 6, 7, 8, 9, 0x13] →
        let n := if fn = 4 ∨ fn = 5 ∨ fn = 9 then 4 else 8
        let w := 8 * n
        let int (z : Nat) : Int := if (fn = 4 ∨ fn = 6) ∧ 2 ^ (w - 1) ≤ z then (z : Int) - 2 ^ w else z
        ∃ u new, exec .gamoPerform s = .next u ∧ writes u n new ∧ complete u ∧
          fills u reg (if fn = 4 ∧ 2 ^ 31 ≤ old n then BitVec.ofInt 64 ((old n : Int) - 2 ^ 32) else BitVec.ofNat 64 (old n)) ∧
          (op = 0 → new = (old n + v) % 2 ^ w) ∧
          (op = 1 → new = (fpAdd (FpFmt.get fn) rm ((FpFmt.get fn).decode (old n)) ((FpFmt.get fn).decode v)).1) ∧
          (op = 2 → new = (fxAdd scale (BitVec.ofNat 64 (old n)) (FpFmt.fp64.decode v)).1.toNat) ∧
          (op = 3 → new = old n &&& v) ∧ (op = 4 → new = old n ||| v) ∧ (op = 5 → new = old n ^^^ v) ∧
          (v < 2 ^ w → op = 6 → new = if int (old n) ≤ int v then old n else v) ∧
          (v < 2 ^ w → op = 7 → new = if int v ≤ int (old n) then old n else v) ∧
          ((∀ b, b ∈ (s.ctx c x).accs → b.group = a.group → b.id = a.id) → a.flags = 0 →
            (u.ctx c x).fsr = (s.ctx c x).fsr ||| (if op = 1
              then (fpAdd (FpFmt.get fn) rm ((FpFmt.get fn).decode (old n)) ((FpFmt.get fn).decode v)).2
              else if op = 2 then (fxAdd scale (BitVec.ofNat 64 (old n)) (FpFmt.fp64.decode v)).2 else 0).setWidth 64) ∧
          (op = 8 → new = v) ∧ (op = 9 → new = if old n = cmp then v else old n))) ∧
    (∀ sp data, (s.ctx c x).accs.find? (fun b => b.id == s.target.id) = some a → a.kind = .line sp data → a.done = false → s.away.contains c = false →
      (∀ b, b ∈ (s.ctx c x).accs → b.group = a.group → b.performed = true) → (s.core c).spad.wf = true →
      ∃ u, exec .ldlLineWrite s = .next u ∧ complete u ∧ (∀ k, Memory.read u.hbm k = Memory.read s.hbm k) ∧
        ∀ k, Memory.read (u.core c).spad k =
          if sp ≤ k ∧ k < sp + data.length then data.getD (k - sp) 0 else Memory.read (s.core c).spad k)) ∧
 (∀ (s : State) (a : Acc) (before after : List Acc),
    let c := s.target.core
    let acquires (e : Acc) : Prop := ∃ r f o v y m k l, e.kind = .gamo r f o v y m k true l
    let releases (e : Acc) : Prop := ∃ r f o v y m k l, e.kind = .gamo r f o v y m k l true
    let goesTo (e : Acc) : List Nat := match e.kind with
      | .mark => []
      | .line _ _ => []
      | .adjClear [] => []
      | .adjClear ((pa, _) :: _) => [pa]
      | .tapeWrite pas _ => pas
      | _ => [e.pa]
    let allOf (e : Acc) : List Nat := match e.kind with
      | .adjClear runs => (runs.map (fun r => (List.range r.2).map (fun k => r.1 + 8 * k))).flatten
      | _ => goesTo e ++ e.tape
    let orders (e : Acc) (between : List Acc) : Prop := e.kind = .mark ∨ a.kind = .mark ∨ (e.isLd = true ∧ a.isLd = true) ∨
      (e.isSt = true ∧ a.isSt = true) ∨ acquires e ∨ releases a ∨ (e.isLd = true ∧ a.isSt = true ∧ ∃ z ∈ between, acquires z)
    let behind (k : Nat) (b : Acc) : Prop := b.performed = false ∧ (∃ n, b.left = some n ∧ ∀ m, a.left = some m → n < m) ∧
      (c, a.id) ∉ b.ahead ∧ (k = c ∨ ∃ e ∈ s.remap, e.1 = k ∧ e.2 = SMap.get 0 s.remap c) ∧
      ∃ pa ∈ goesTo a, ∃ pb ∈ allOf b, sliceOf pb = sliceOf pa
    (s.ctx c s.target.unit).accs = before ++ a :: after → a.id = s.target.id → (∀ e ∈ before, e.id ≠ a.id) →
    (s.performable = some a ↔ a.performed = false ∧
      (∀ l e r, before = l ++ e :: r → e.performed = false → ¬ orders e r) ∧
      ∀ k y b, y ∈ (s.core k).ctxs → b ∈ y.2.accs → ¬ behind k b) ∧
    (s.performable ≠ some a → s.performable = none))

/-- `MODE.FWD` and `MODE.REV` set the mode once every earlier access of the thread on a D page or at its cells has performed, every
tape record is written and its commands on D pages have ended (R335); `TAPE.SET` starts a new, empty tape once the thread's tape
records are written (R339; which records it waits for is log entry 22). Until then each holds the thread. Accesses of D pages at
issue. A forward store reserves its tape record, or traps TAPEOVF (R333). In reverse mode `LDG.w` and `LDL` queue the adds of their
operands to the cells and zero them, `STG.w` and `STL` pop their record and queue the takes of the cells and the restoring store;
another width or element size traps MODE, and with an enabled flag each holds the thread (R231, R334, R336, R337). `ADJ.LD` queues the
read of a cell, `ADJ.CLR` the zeros of its cells as one entry (R340, R341). That a record goes with its store's entry and a cell
translates before the pop is log entry 22; the one entry of `ADJ.CLR` is log entry 18; a pop's request to its slice, log entry 56. The
accesses of D pages and of cells when they perform. An add puts the element into its cell; a take zeroes the cell and gives its
rounded value to the register or the line of its instruction; a restoring store writes the element and fills the register (R231,
R336); `ADJ.LD` fills its register with the rounded cell, or, with an enabled flag raised, leaves it and traps FPX (R340); `ADJ.CLR`
zeroes its next cell (R341); a store with a tape record is followed by the record of the value it overwrote (R332, R333). The flags
reach `fsr` with the last action, and a thread held for it retires, with an enabled flag raised to trap FPX (R337). -/
def Obligations.DifferentiablePages : Prop :=
 (∀ (s : State) (c x : Nat) (a b : Reg), s.cur = .thread c x → Stands s 1 .any →
    let t := s.ctx c x
    let av := s.getS s.cur a
    let bv := s.getS s.cur b
    let bad (v : DWord) : Prop := 2 ^ 56 ≤ v.toNat ∨ v.toNat % 16 ≠ 0
    let onD (e : Acc) : Prop := match e.kind with
      | .ldg _ _ => e.dpage = true
      | .ldl _ => e.dpage = true
      | .stg _ _ => e.tape ≠ []
      | .stl _ => e.tape ≠ []
      | .line _ _ => False
      | .gamo _ _ _ _ _ _ _ _ _ => False
      | .mark => False
      | _ => True
    let record (e : Acc) : Prop := e.tape ≠ [] ∨ ∃ pas data, e.kind = .tapeWrite pas data
    let still : Prop := (∀ e, e ∈ t.accs → onD e → e.performed = true) ∧ ∀ i, i ∈ (s.core c).items → i.owner = x → i.dpage = false
    (∀ v ∈ [(false, Instr.modeFwd), (true, .modeRev)],
      (still → Retires v.2 s 1 ((fresh s).setCtx c x { t with modeRev := v.1 })) ∧
      (¬ still → exec v.2 s = .next ((fresh s).holdOn s.cur (.modeSwitch v.1)))) ∧
    (RegsReady s [srcS a, srcS b] →
      (bad av → Traps (.tapeSet a b) s .illegal av) ∧
      (¬ bad av → bad bv ∨ bv.toNat < av.toNat → Traps (.tapeSet a b) s .illegal bv) ∧
      (¬ bad av → ¬ bad bv → av.toNat ≤ bv.toNat →
        ((∀ e, e ∈ t.accs → record e → e.done = true) →
          Retires (.tapeSet a b) s 1 ((fresh s).setCtx c x { t with tapebase := av, tapeptr := av, tapelim := bv })) ∧
        ((∃ e, e ∈ t.accs ∧ record e ∧ e.done = false) → exec (.tapeSet a b) s = .next ((fresh s).holdOn s.cur (.tapeSet av bv)))))) ∧
 (∀ (s : State) (c x : Nat) (d a b : Reg) (imm : BitVec 12) (p cp : Page) (s1 s2 : State), s.cur = .thread c x → Stands s 1 .any →
    let n := (s.core c).nextAcc
    let t := s.ctx c x
    let ea := s.getS s.cur a + BitVec.ofInt 64 imm.toInt
    let z := Fmt.width p.fmt / 8
    let cell (va : Nat) : Nat := 2 ^ 56 + va / z * 8
    let cellPa (va : Nat) : Nat := cp.ppn * 65536 + (cell va - cp.base)
    let dv := (s.getS s.cur d).toNat
    let rm := Rm.ofField t.frm
    let any : Bool := t.fte &&& 0xFF != 0
    let stamp (as : List Acc) : List Acc := as.mapIdx (fun i e => { e with id := n + i, group := n, clock := s.now })
    let enters (u : State) (as : List Acc) : Prop := (u.ctx c x).accs = t.accs ++ stamp as ∧ (u.core c).nextAcc = n + as.length ∧
      (∀ k, Memory.read u.hbm k = Memory.read s.hbm k)
    let goesOn (u : State) : Prop := (any = false → (u.ctx c x).instret = t.instret + 1 ∧ FlowsOn s u 1) ∧
      (any = true → (u.prog s.cur).hold = some (.adj n) ∧ (u.prog s.cur).pc = (s.prog s.cur).pc ∧ (u.ctx c x).instret = t.instret)
    let fwd (len : Nat) (ps : List Page) (s3 : State) : Prop := State.xlateRange c (t.tapeptr.toNat + len - 1) false true tapePageBad 4 s1
      t.tapeptr.toNat = .pages ps s3
    let onD (va size : Nat) (r w : Bool) : Prop := va % size = 0 ∧ va < 2 ^ 57 ∧ (fresh s).xlate c va r w = .page p s1 ∧ p.geom = 0 ∧
      p.d = true
    let cellOk (va : Nat) (r w : Bool) : Prop := s1.xlate c (cell va) r w = .page cp s2
    -- what a pop finds (R334)
    let top := t.tapeptr.toNat
    let below (len : Nat) : Prop := t.tapeptr.toNat - t.tapebase.toNat < len
    let tape (len : Nat) (ps : List Page) (s3 : State) : Prop :=
      State.xlateRange c (top - 1) true false (fun _ => none) 4 s2 (top - len) = .pages ps s3
    let part (ps : List Page) (len i : Nat) : Nat := paIn ps (top - len + 16 * i)
    let may (ps : List Page) (len : Nat) : Prop := (∀ e, e ∈ t.accs → e.performed = true ∨ (e.isLd = false ∧ e.isAcq = false)) ∧
      ∀ i, i < len / 16 → s.requestHeld c (part ps len i) = false
    let fits (ps : List Page) (len kind va : Nat) : Prop :=
      let h := Memory.readN s.hbm (part ps len (len / 16 - 1) + 8) 8
      h / 2 ^ 60 = kind ∧ h % 2 ^ 57 = va
    let popped (u : State) (len : Nat) : Prop := (u.ctx c x).tapeptr = BitVec.ofNat 64 (top - len)
    (RegsReady s [srcS a, srcS d] →
      -- forward stores and wrong widths
      (∀ v ∈ [(4, Instr.stgW d a imm), (8, .stgD d a imm)], onD ea.toNat v.1 false true → t.modeRev = false →
        (t.tapelim.toNat < top + 16 → Traps v.2 s .tapeovf ea) ∧
        (∀ ps s3, top + 16 ≤ t.tapelim.toNat → fwd 16 ps s3 →
          (s.admits s.cur false true [p.pa ea.toNat] = false → Stalls v.2 s) ∧
          (s.admits s.cur false true [p.pa ea.toNat] = true → ∃ u, exec v.2 s = .next u ∧ BytesSame s u ∧
            (u.ctx c x).tapeptr = BitVec.ofNat 64 (top + 16) ∧ (u.ctx c x).instret = t.instret + 1 ∧ FlowsOn s u 1 ∧
            enters u [{ id := 0, kind := .stg v.1 (dv % 2 ^ (8 * v.1)), va := ea.toNat, pa := p.pa ea.toNat, isSt := true,
                        tape := [paIn ps top] }]))) ∧
      (∀ v ∈ [(4, true, Instr.ldgW d a imm), (8, true, .ldgD d a imm), (4, false, .stgW d a imm), (8, false, .stgD d a imm)],
        onD ea.toNat v.1 v.2.1 (!v.2.1) → t.modeRev = true → v.1 ≠ 4 ∨ z ≠ 4 → Traps v.2.2 s .mode ea) ∧
      -- reverse LDG.w
      (t.modeRev = true → z = 4 → onD ea.toNat 4 true false → cellOk ea.toNat true true →
        (s.admits s.cur false true [cellPa ea.toNat] = false → Stalls (.ldgW d a imm) s) ∧
        (s.admits s.cur false true [cellPa ea.toNat] = true → ∃ u, exec (.ldgW d a imm) s = .next u ∧ BytesSame s u ∧ goesOn u ∧
          u.getS s.cur d = 0 ∧ (∀ r, r ≠ d → u.getS s.cur r = s.getS s.cur r) ∧ (u.prog s.cur).isEmptyS d.toNat = false ∧
          enters u [{ id := 0, kind := .adjAdd cp.scale p.fmt (dv % 2 ^ 32), va := ea.toNat, pa := cellPa ea.toNat, isSt := true }])) ∧
      -- reverse STG.w
      (t.modeRev = true → z = 4 → onD ea.toNat 4 false true → cellOk ea.toNat true true →
        (below 16 → Traps (.stgW d a imm) s .tapemis ea) ∧
        (∀ ps s3, ¬ below 16 → tape 16 ps s3 →
          (¬ may ps 16 → Stalls (.stgW d a imm) s) ∧
          (may ps 16 → ¬ fits ps 16 1 ea.toNat → Traps (.stgW d a imm) s .tapemis ea) ∧
          (may ps 16 → fits ps 16 1 ea.toNat → s.admits s.cur false true [cellPa ea.toNat, p.pa ea.toNat] = true →
            ∃ u, exec (.stgW d a imm) s = .next u ∧ BytesSame s u ∧ goesOn u ∧ popped u 16 ∧
              (d ≠ 0 → (u.prog s.cur).isEmptyS d.toNat = true) ∧ (∀ r, u.getS s.cur r = s.getS s.cur r) ∧
              enters u [{ id := 0, kind := .adjTake cp.scale p.fmt rm 0, va := ea.toNat, pa := cellPa ea.toNat, isSt := true },
                { id := 0, kind := .restore (Memory.readN s.hbm (part ps 16 0) 4) d.toNat 0, va := ea.toNat, pa := p.pa ea.toNat,
                  isSt := true }])))) ∧
    (RegsReady s [srcS a, srcS b] →
      let av := (s.getS s.cur a).toNat
      let bv := (s.getS s.cur b).toNat
      let placed : Prop := bv % 128 = 0 ∧ bv + 127 ≤ 0xBFFFF ∧ s.lineBusy s.cur bv 128 = false
      let pas : List Nat := (List.range (128 / z)).map (fun i => cellPa av + 8 * i)
      let cells (kind : Nat → AccKind) : List Acc := (List.range (128 / z)).map (fun i =>
        { id := 0, kind := kind i, va := av + i * z, pa := cellPa av + 8 * i, isSt := true })
      placed → z = 1 ∨ z = 2 ∨ z = 4 →
      -- forward STL
      (onD av 128 false true → t.modeRev = false →
        (t.tapelim.toNat < top + 144 → Traps (.stl a b) s .tapeovf (s.getS s.cur a)) ∧
        (∀ ps s3, top + 144 ≤ t.tapelim.toNat → fwd 144 ps s3 → s.admits s.cur false true [p.pa av] = true →
          ∃ u, exec (.stl a b) s = .next u ∧ BytesSame s u ∧ (u.ctx c x).tapeptr = BitVec.ofNat 64 (top + 144) ∧
            (u.ctx c x).instret = t.instret + 1 ∧ FlowsOn s u 1 ∧
            enters u [{ id := 0, kind := .stl (Memory.readBytes (s.core c).spad bv 128), va := av, pa := p.pa av, isSt := true,
                        tape := (List.range 9).map (fun i => paIn ps (top + 16 * i)) }])) ∧
      -- reverse LDL
      (onD av 128 true false → t.modeRev = true → cellOk av true true →
        s.admits s.cur false true pas = true →
        ∃ u, exec (.ldl a b) s = .next u ∧ goesOn u ∧
          enters u (cells (fun i => .adjAdd cp.scale p.fmt (Memory.readN (s.core c).spad (bv + z * i) z))) ∧
          ((s.core c).spad.wf = true → ∀ k, Memory.read (u.core c).spad k =
            if bv ≤ k ∧ k < bv + 128 then 0 else Memory.read (s.core c).spad k)) ∧
      -- reverse STL
      (onD av 128 false true → t.modeRev = true → cellOk av true true →
        (below 144 → Traps (.stl a b) s .tapemis (s.getS s.cur a)) ∧
        (∀ ps s3, ¬ below 144 → tape 144 ps s3 →
          (¬ may ps 144 → Stalls (.stl a b) s) ∧
          (may ps 144 → ¬ fits ps 144 3 av → Traps (.stl a b) s .tapemis (s.getS s.cur a)) ∧
          (may ps 144 → fits ps 144 3 av →
            s.admits s.cur false true (p.pa av :: pas) = true →
            ∃ u, exec (.stl a b) s = .next u ∧ BytesSame s u ∧ goesOn u ∧ popped u 144 ∧
              enters u (cells (fun i => .adjTake cp.scale p.fmt rm (i * z)) ++
                [{ id := 0, kind := .line bv (List.replicate 128 0) },
                 { id := 0, kind := .restoreLine ((List.range 8).map (fun i => Memory.readBytes s.hbm (part ps 144 i) 16)).flatten,
                   va := av, pa := p.pa av, isSt := true }]))))) ∧
    (RegsReady s [srcS a, srcS d] →
      (2 ^ 56 ≤ ea.toNat → Traps (.adjLd d a imm) s .xlate ea) ∧
      (ea.toNat < 2 ^ 56 → (fresh s).xlate c ea.toNat true false = .page p s1 →
        (p.d = false → Traps (.adjLd d a imm) s .mode ea) ∧
        (p.d = true → ea.toNat % z ≠ 0 → Traps (.adjLd d a imm) s .align ea) ∧
        (p.d = true → ea.toNat % z = 0 → cellOk ea.toNat true false →
          (s.admits s.cur true false [] = false → Stalls (.adjLd d a imm) s) ∧
          (s.admits s.cur true false [] = true → ∃ u, exec (.adjLd d a imm) s = .next u ∧ BytesSame s u ∧ goesOn u ∧
            (d ≠ 0 → (u.prog s.cur).isEmptyS d.toNat = true) ∧ (∀ r, u.getS s.cur r = s.getS s.cur r) ∧
            enters u [{ id := 0, kind := .adjRead cp.scale p.fmt rm d.toNat, va := ea.toNat, pa := cellPa ea.toNat, isLd := true }])))) ∧
    (RegsReady s [srcS a, srcS b] →
      let av := s.getS s.cur a
      let bv := s.getS s.cur b
      let hi := (av + bv - 1).toNat
      (2 ^ 32 < bv.toNat → Traps (.adjClr a b) s .illegal bv) ∧
      (bv = 0 → Retires (.adjClr a b) s 1 (fresh s)) ∧
      (0 < bv.toNat → bv.toNat ≤ 2 ^ 32 → 2 ^ 56 ≤ av.toNat ∨ 2 ^ 56 ≤ hi → Traps (.adjClr a b) s .xlate av) ∧
      (∀ rs m s3, 0 < bv.toNat → bv.toNat ≤ 2 ^ 32 → av.toNat < 2 ^ 56 → hi < 2 ^ 56 →
        clrCheck c av.toNat hi (bv.toNat / 65536 + 2) (fresh s) av.toNat = .runs rs m s3 → s.admits s.cur false true [] = true →
        ∃ u, exec (.adjClr a b) s = .next u ∧ BytesSame s u ∧ (∀ r, u.getS s.cur r = s.getS s.cur r) ∧
          enters u [{ id := 0, kind := .adjClear rs, va := av.toNat, isSt := true }] ∧
          (u.prog s.cur).hold = some (.clock (s.now + (2 + m)))) ∧
      (∀ p0 s0, 0 < bv.toNat → bv.toNat ≤ 2 ^ 32 → av.toNat < 2 ^ 56 → hi < 2 ^ 56 → (fresh s).xlate c av.toNat true false = .page p0 s0 →
        p0.d = false → Traps (.adjClr a b) s .mode av) ∧
      -- a range within one page and one page of cells
      (onD av.toNat 1 true false → 0 < bv.toNat → bv.toNat ≤ 2 ^ 32 → hi < 2 ^ 56 → p.base ≤ av.toNat → hi < p.base + p.size →
        z = 1 ∨ z = 2 ∨ z = 4 →
        (av.toNat % z ≠ 0 → Traps (.adjClr a b) s .align (BitVec.ofNat 64 (av.toNat / z * z))) ∧
        (av.toNat % z = 0 → (hi + 1) % z ≠ 0 → Traps (.adjClr a b) s .align (BitVec.ofNat 64 ((hi + 1) / z * z))) ∧
        (av.toNat % z = 0 → (hi + 1) % z = 0 → s1.xlate c (cell av.toNat) false true = .page cp s2 → cp.base ≤ cell av.toNat →
          cell hi + 7 < cp.base + cp.size → s.admits s.cur false true [] = true → ∃ u, exec (.adjClr a b) s = .next u ∧
            enters u [{ id := 0, kind := .adjClear [(cellPa av.toNat, bv.toNat / z)], va := av.toNat, isSt := true }])))) ∧
 (∀ (s : State) (e : Acc), s.performable = some e → s.hbm.wf = true →
    let c := s.target.core
    let x := s.target.unit
    let q := Seqr.thread c x
    let t := s.ctx c x
    let old : DWord := BitVec.ofNat 64 (Memory.readN s.hbm e.pa 8)
    let outside (u : State) (n : Nat) : Prop := ∀ k, k < e.pa ∨ e.pa + n ≤ k → Memory.read u.hbm k = Memory.read s.hbm k
    let last : Prop := ∀ b, b ∈ t.accs → b.group = e.group → b.id ≠ e.id → b.done = true
    let single : Prop := t.accs.Pairwise (fun b b' => b.id ≠ b'.id)
    let held : Prop := t.prog.hold = some (.adj e.group)
    let toReg (fmt v : Nat) : DWord := if fmt ≤ 6 ∧ fmt % 2 = 0 then BitVec.ofInt 64 (intOf (Fmt.width fmt) true v)
      else BitVec.ofNat 64 (v % 2 ^ Fmt.width fmt)
    let flags (u : State) (f : Flags) : Prop := last →
      let fl := e.flags ||| f
      let on := fl &&& t.fte.setWidth 8
      (¬ held ∨ on = 0 → (u.ctx c x).fsr = t.fsr ||| fl.setWidth 64) ∧
      (held → on = 0 → (u.prog q).hold = none ∧ (u.ctx c x).instret = t.instret + 1) ∧
      (held → on ≠ 0 → ∃ (m : State) (r : TrapReq), u = m.raise q r ∧ r.cause = .fpx ∧ r.val = on.setWidth 64 ∧ (m.ctx c x).instret = t.instret + 1 ∧
        (m.ctx c x).fsr = t.fsr ||| fl.setWidth 64)
    (∀ scale fmt bits, e.kind = .adjAdd scale fmt bits →
      let v := readVal fmt bits
      ∃ u, exec .adjCellPerform s = .next u ∧ Memory.readN u.hbm e.pa 8 = (fxAdd scale old v.1).1.toNat ∧ outside u 8 ∧
        flags u (v.2 ||| (fxAdd scale old v.1).2)) ∧
    (∀ scale fmt rm off, e.kind = .adjTake scale fmt rm off →
      let v := writeVal fmt rm true (.fin (fxExact scale old))
      ∃ u, exec .adjCellPerform s = .next u ∧ Memory.readN u.hbm e.pa 8 = 0 ∧ outside u 8 ∧
        (¬ held → ¬ last → single → ∀ b data reg w, b ∈ t.accs → b.group = e.group → b.id ≠ e.id → b.kind = .restore data reg w →
          ∃ b', b' ∈ (u.ctx c x).accs ∧ b'.id = b.id ∧ b'.kind = .restore data reg (toReg fmt v.1)) ∧
        (¬ held → ¬ last → single → ∀ b sp data, b ∈ t.accs → b.group = e.group → b.id ≠ e.id → b.kind = .line sp data → data.length = 128 →
          off + Fmt.width fmt / 8 ≤ 128 → ∃ b' data', b' ∈ (u.ctx c x).accs ∧ b'.id = b.id ∧ b'.kind = .line sp data' ∧
            data'.length = 128 ∧ ∀ k, k < 128 → data'.getD k 0 = if off ≤ k ∧ k < off + Fmt.width fmt / 8
              then BitVec.ofNat 8 (v.1 / 256 ^ (k - off)) else data.getD k 0) ∧
        flags u v.2) ∧
    (∀ data reg v, e.kind = .restore data reg v → reg < 64 → ¬ held →
      ∃ u, exec .storePerform s = .next u ∧ (∀ k, k < 4 → Memory.read u.hbm (e.pa + k) = BitVec.ofNat 8 (data / 256 ^ k)) ∧ outside u 4 ∧
        (u.prog q).getS reg = (if reg = 0 then 0 else v) ∧ (u.prog q).isEmptyS reg = false ∧ flags u 0) ∧
    (∀ data, e.kind = .restoreLine data → data.length = 128 → ¬ held →
      ∃ u, exec .storePerform s = .next u ∧ (∀ k, k < 128 → Memory.read u.hbm (e.pa + k) = data.getD k 0) ∧ outside u 128 ∧ flags u 0) ∧
    (∀ scale fmt rm reg, e.kind = .adjRead scale fmt rm reg → reg < 64 →
      let v := writeVal fmt rm true (.fin (fxExact scale old))
      let on := v.2 &&& t.fte.setWidth 8
      ∃ u, exec .adjCellPerform s = .next u ∧ exec .loadPerform s = .next u ∧ (∀ k, Memory.read u.hbm k = Memory.read s.hbm k) ∧
        (held → on ≠ 0 → ∃ (m : State) (r : TrapReq), u = m.raise q r ∧ r = ⟨.fpx, on.setWidth 64, t.prog.pc, t.prog.pend⟩ ∧
          (m.prog q).getS reg = (s.prog q).getS reg ∧ (m.prog q).isEmptyS reg = false) ∧
        (¬ held → (u.prog q).getS reg = (if reg = 0 then 0 else toReg fmt v.1) ∧ (u.prog q).isEmptyS reg = false ∧ flags u v.2)) ∧
    (∀ pa m r, e.kind = .adjClear ((pa, m) :: r) →
      ∃ u, exec .adjCellPerform s = .next u ∧ Memory.readN u.hbm pa 8 = 0 ∧
        (∀ k, k < pa ∨ pa + 8 ≤ k → Memory.read u.hbm k = Memory.read s.hbm k) ∧
        (¬ held → 2 ≤ m → ∃ b, b ∈ (u.ctx c x).accs ∧ b.id = e.id ∧ b.performed = false ∧ b.kind = .adjClear ((pa + 8, m - 1) :: r))) ∧
    (¬ held → e.tape ≠ [] →
      let follows (u : State) (kind len n : Nat) : Prop := ∃ b data, b ∈ (u.ctx c x).accs ∧ b.kind = .tapeWrite e.tape data ∧
        b.performed = false ∧ b.isSt = true ∧ b.group = e.group ∧ data.length = len ∧
        natOfBytes data = Memory.readN s.hbm e.pa n + 2 ^ (8 * (len - 8)) * (kind * 2 ^ 60 + e.va % 2 ^ 57)
      e.id < (s.core c).nextAcc → (∀ b, b ∈ t.accs → b.id < (s.core c).nextAcc) → e ∈ t.accs →
      (∀ w, e.kind = .stg 4 w → ∃ u, exec .storePerform s = .next u ∧ follows u 1 16 4) ∧
      (∀ w, e.kind = .stg 8 w → ∃ u, exec .storePerform s = .next u ∧ follows u 2 16 8) ∧
      (∀ data, e.kind = .stl data → ∃ u, exec .storePerform s = .next u ∧ follows u 3 144 128)) ∧
    (∀ pas data, e.kind = .tapeWrite pas data → ¬ held → data.length = 16 * pas.length →
      (∀ i j, i < j → j < pas.length → pas.getD i 0 + 16 ≤ pas.getD j 0 ∨ pas.getD j 0 + 16 ≤ pas.getD i 0) →
      ∃ u, exec .storePerform s = .next u ∧
        (∀ i k, i < pas.length → k < 16 → Memory.read u.hbm (pas.getD i 0 + k) = data.getD (16 * i + k) 0) ∧
        ∀ k, (∀ pa, pa ∈ pas → k < pa ∨ pa + 16 ≤ k) → Memory.read u.hbm k = Memory.read s.hbm k))

/-- The copies of the forms on handles. Each stalls on a full queue and while the pins it needs are withheld (R221), and then checks
its handles, the rules of its form (R256–R260), the grid of its MX blocks (R217), its indices under OOB = 01 (R254), the pages of its
footprint (R220), that what it reads and writes shares no granule (R250, R251), and the D pages (R263, R333, R334); the first check
that fails traps (R249). Else it pushes its item with its footprint, its pages pinned, after 2 clocks and one per page; a false guard
pushes nothing (R247). The `tval` of MODE is log entry 13's, the PROT of a wrong scale page log entry 16's. The permutations of R256:
the tuple of each rank, and the index j that one makes of i. `CPY.STRM` and `CPY.HOST`: their stalls, the checks of R249, R261 and
R262 in order, and their pushes. A host copy reads its list at the push, waits while an `LDL` has yet to write it (R228), and is
pushed to fail where the list lies under another swizzle, before any of its bytes is used (R199; log entry 20); the `tval` of MODE is
log entry 13's. -/
def Obligations.CopyPushes : Prop :=
 (∀ (s : State) (c x : Nat) (d a b fn : Reg) (lw : LW) (f : Nat) (i : Instr), s.cur = .thread c x → Stands s 2 .any →
    (f, i) ∈ [(0, Instr.cpy d a b fn lw), (1, .cpyT d a b fn lw), (2, .cpyP d a b fn lw), (3, .cpyQ d a b fn lw),
      (4, .cpyQT d a b fn lw), (5, .cpyGath d a b fn lw), (6, .cpyPair d a b fn lw), (7, .cpyScale d a b fn lw)] →
    let k := s.core c
    let t := s.ctx c x
    let opt := lw.y.toNat % 16
    let queue := 1 + lw.y.toNat / 16
    let full : Prop := 64 ≤ (k.items.filter (fun j => j.queue == queue)).length ∨
      384 ≤ t.failed.length + (k.items.filter (fun j => j.owner == x)).length
    let ha := handleOf (s.getH s.cur a)
    let hd := if f = 7 then handleOf 0 else handleOf (s.getH s.cur d)
    let hb := if f = 7 then handleOf 0 else handleOf (s.getH s.cur b)
    let off := (s.getS s.cur d).toNat % 2 ^ 15
    let size := ha.extent 0 * ha.extent 1 * ha.extent 2 * ha.extent 3
    let named : List (Reg × Handle) := if f = 7 then [(a, ha)] else [(d, hd), (a, ha), (b, hb)]
    -- check 2: the rules of the form
    let swap (l : List Nat) : List Nat := [l.getD 1 0, l.getD 0 0, l.getD 2 0, l.getD 3 0]
    let flat (h : Handle) : Prop := h.extent 2 = 1 ∧ h.extent 3 = 1
    let quantises (h : Handle) (n : Nat) : Prop := (ha.fmt ≤ 6 ∨ 8 ≤ ha.fmt ∧ ha.fmt ≤ 0x11) ∧ Fmt.defined h.fmt = true ∧
      h.fmt ≠ 0x12 ∧ h.fmt ≠ 0x13 ∧ (h.isMx = true → n % 32 = 0)
    let rules : Prop :=
      if f = 0 then hd.fmt = ha.fmt ∧ (ha.isMx = true → hb.extent 0 % 32 = 0)
      else if f = 1 ∨ f = 2 then hd.fmt = ha.fmt ∧ ha.isMx = false
      else if f = 3 ∨ f = 4 then quantises hd (hb.extent 0)
      else if f = 5 then flat ha ∧ flat hd ∧ flat hb ∧ hd.fmt = ha.fmt ∧ ha.isMx = false ∧ (hb.fmt = 4 ∨ hb.fmt = 5) ∧ hb.extent 1 = 1 ∧
        hd.extent 0 = ha.extent 0
      else if f = 6 then hb.ex = swap hd.ex ∧ (if opt % 2 = 1 then quantises hd (hd.extent 0) ∧ quantises hb (hd.extent 1)
        else hd.fmt = ha.fmt ∧ hb.fmt = ha.fmt ∧ ha.isMx = false)
      else ha.fmt = 1 ∧ off + size ≤ 32768
    let rd := if f = 5 then [ha, hb] else [ha]
    let wr := if f = 6 then [hd, hb] else if f = 7 then [] else [hd]
    -- check 3: blocks off the grid of their page
    let base := (rd.map (fun h => h.ranges true false)).flatten ++ (wr.map (fun h => h.ranges false true)).flatten
    let ps0 := (fresh s).peekPages c base
    let astray (va : Nat) : Prop := ∃ h p, h ∈ rd ++ wr ∧ va ∈ h.blocks ∧ pageAt ps0 va = some p ∧ (p.geom = 1 ∨ p.geom = 2) ∧
      ((va - p.base) % (4 * h.width) ≠ 0 ∨ (if p.geom = 1 then 15 * p.size / 16 else p.size) < va - p.base + 4 * h.width)
    -- check 4: indices beyond an extent under OOB = 01
    let beyond (h : Handle) (n : List Nat) : Prop := h.oob = 1 ∧ (∀ m, m < 4 → n.getD m 0 ≠ 0) ∧ ∃ m, m < 4 ∧ h.extent m < n.getD m 0
    let dFoot : Prop := f ≤ 4 ∧ beyond hd hb.ex ∨ f = 5 ∧ beyond hd [hd.extent 0, hb.extent 0, 1, 1]
    let aFoot : Prop := (f = 0 ∨ f = 3) ∧ beyond ha hb.ex ∨ (f = 1 ∨ f = 4) ∧ beyond ha (swap hb.ex) ∨
      f = 2 ∧ beyond ha (permute fn.toNat hb.ex) ∨ f = 6 ∧ beyond ha hd.ex
    -- check 5: the footprint
    let rs := (fresh s).copyRanges s.cur f rd wr
    let es := SMap.get [] s.tlbs (SMap.get 0 s.remap c)
    let withheld (ps : List Page) : Prop := 1536 < (es.filter (fun e => e.pins != 0)).length +
      (ps.filter (fun p => !es.any (fun e => e.asid == k.asid && e.base == p.base && e.pins != 0))).length
    let wait : Prop := full ∨ ((fresh s).peekPages c rs).length ≤ 1536 ∧ withheld ((fresh s).peekPages c rs)
    let okHandles : Prop := ∀ n, n ∈ named → n.2.ok = true
    let upTo4 : Prop := ¬ wait ∧ okHandles ∧ rules ∧ (∀ va, ¬ astray va) ∧ ¬ dFoot ∧ ¬ aFoot
    let touched (r w : Bool) (va : Nat) : Prop := ∃ g, g ∈ rs ∧ g.lo ≤ va ∧ va < g.hi ∧ (r = true → g.r = true) ∧ (w = true → g.w = true)
    let lowest (q : Nat → Prop) (va : Nat) : Prop := q va ∧ ∀ v, q v → va ≤ v
    -- check 6: what it reads and writes
    let reads (ps : List Page) := rngGranules ps (rs.filter (fun g => g.r && !g.w)) ++ (rd.map Handle.spadGranules).flatten
    let writes (ps : List Page) := rngGranules ps (rs.filter (fun g => g.w)) ++ (wr.map Handle.spadGranules).flatten ++
      (if f = 7 then scaleGranules off size else [])
    let whole (ps : List Page) (h : Handle) := rngGranules ps (h.ranges false true ++ scaleRanges ps0 h false true) ++ h.spadGranules
    let shared (ps : List Page) (g : Granule) : Prop := g ∈ reads ps ∧ g ∈ writes ps ∨ f = 6 ∧ g ∈ whole ps hd ∧ g ∈ whole ps hb
    let reaches (ps : List Page) (va : Nat) : Prop := (∃ g, g ∈ rs ∧ g.lo ≤ va ∧ va < g.hi ∧ (va % 128 = 0 ∨ va = g.lo)) ∧
      shared ps ⟨.global, paIn ps va / 128⟩
    -- check 7: lines on D pages
    let onD (ps : List Page) (va : Nat) : Prop := ∃ g p, g ∈ base ∧ g.lo ≤ va ∧ va < g.hi ∧ p ∈ ps ∧ p.d = true ∧ p.base ≤ va ∧
      va < p.base + p.size
    let lined (ps : List Page) (w : Bool) (l : Nat) : Prop := l % 128 = 0 ∧ ∃ g p, g ∈ base ∧ (w = true → g.w = true) ∧ g.lo < g.hi ∧
      g.lo / 128 ≤ l / 128 ∧ l / 128 ≤ (g.hi - 1) / 128 ∧ pageAt ps l = some p ∧ p.d = true
    let dForm : Prop := f = 0 ∨ f = 1 ∨ f = 2 ∨ f = 5
    let pushes (ps tps : List Page) (lines : List TapeLine) (some_ : Bool) : Prop :=
      Pushes i s c x 2 lw.x (some (.clock (s.now + (2 + ((ps ++ tps).map (fun p => p.base)).eraseDups.length)))) (fun j =>
        j.kind = .copy f ∧ j.queue = queue ∧ j.reads = reads ps ∧ j.writes = writes ps ∧ j.pages = ps ∧ j.ha = s.getH s.cur a ∧
        handleOf j.hd = hd ∧ handleOf j.hb = hb ∧ j.rm = s.rm s.cur lw.rm ∧ j.failing = none ∧ j.lines = lines ∧ j.dpage = some_ ∧
        (j.rev = true ↔ t.modeRev = true ∧ dForm) ∧ j.accMark = k.nextAcc)
    let tapeTo (v : DWord) : Prop := ∃ u, exec i s = .next u ∧ (u.ctx c x).tapeptr = v
    (lw.g = true → RegsReady s [srcS lw.greg] → guardHolds lw (s.getS s.cur lw.greg) = false → Retires i s 2 (fresh s)) ∧
    (GuardOn s lw → RegsReady s (if f = 7 then [srcH a lw.ta, srcS d, srcS lw.x] else [srcH a lw.ta, srcH b lw.tb, srcH d, srcS lw.x]) →
      (wait → Stalls i s) ∧
      (∀ r, ¬ wait → (named.find? (fun n => !n.2.ok)).map Prod.fst = some r → Traps i s .illegal (BitVec.ofNat 64 r.toNat)) ∧
      (¬ wait → okHandles → ¬ rules → Traps i s .illegal t.prog.pc) ∧
      (∀ va, ¬ wait → okHandles → rules → lowest astray va → Traps i s .align (BitVec.ofNat 64 va)) ∧
      (¬ wait → okHandles → rules → (∀ va, ¬ astray va) → dFoot → Traps i s .foot (BitVec.ofNat 64 d.toNat)) ∧
      (¬ wait → okHandles → rules → (∀ va, ¬ astray va) → ¬ dFoot → aFoot → Traps i s .foot (BitVec.ofNat 64 a.toNat)) ∧
      (∀ cs v, upTo4 → walkFoot c rs (pageBound rs) (fresh s) 0 = .trap cs v → Traps i s cs v) ∧
      (∀ va, upTo4 → lowest (touched false false) va →
        (∀ cs v, (fresh s).pageOf c va = .trap cs v → Traps i s cs v) ∧
        (∀ p s1 v, (fresh s).pageOf c va = .page p s1 → lowest (fun v => va ≤ v ∧ v < p.base + p.size ∧
          (p.r = false ∧ touched true false v ∨ p.w = false ∧ touched false true v)) v → Traps i s .prot (BitVec.ofNat 64 v))) ∧
      (∀ ps s1, upTo4 → walkFoot c rs (pageBound rs) (fresh s) 0 = .pages ps s1 →
        (1536 < ps.length → Traps i s .illegal (BitVec.ofNat 64 ps.length)) ∧
        (ps.length ≤ 1536 → s1.pinsStall c ps = true → Stalls i s) ∧
        (ps.length ≤ 1536 → s1.pinsStall c ps = false →
          (∀ va, badScalePage ps (rd ++ wr) = some va → Traps i s .prot (BitVec.ofNat 64 va)) ∧
          (badScalePage ps (rd ++ wr) = none →
            (∀ va, lowest (reaches ps) va → Traps i s .overlap (BitVec.ofNat 64 va)) ∧
            ((∀ va, ¬ reaches ps va) → (∀ n, ¬ shared ps ⟨.global, n⟩) → ∀ n, lowest (fun n => shared ps ⟨.spad, n⟩) n →
              Traps i s .overlap (BitVec.ofNat 64 (n * 128))) ∧
            ((∀ g, ¬ shared ps g) →
              ((∀ l, ¬ lined ps false l) → pushes ps [] [] false) ∧
              (¬ dForm → (∃ l, lined ps false l) → ∀ va, lowest (onD ps) va → (∃ p, p ∈ ps ∧ p.d = true ∧ p.base ≤ va ∧
                  va < p.base + p.size ∧ ∀ q, q ∈ ps → q.d = true → q = p ∨ p.base + p.size ≤ q.base) →
                Traps i s .mode (BitVec.ofNat 64 va)) ∧
              (∀ ls : List Nat, dForm → (∃ l, lined ps false l) → ls.Pairwise (· < ·) → (∀ l, l ∈ ls ↔ lined ps true l) →
                (t.modeRev = false →
                  (∀ n va, n < ls.length → va = ls.getD n 0 → t.tapelim.toNat < t.tapeptr.toNat + 144 * (n + 1) →
                    (∀ m, m < n → t.tapeptr.toNat + 144 * (m + 1) ≤ t.tapelim.toNat) → Traps i s .tapeovf (BitVec.ofNat 64 va)) ∧
                  (∀ tps s2, t.tapeptr.toNat + 144 * ls.length ≤ t.tapelim.toNat → ls ≠ [] →
                    State.xlateRange c (t.tapeptr.toNat + 144 * ls.length - 1) false true tapePageBad (144 * ls.length / 65536 + 3) s1
                      t.tapeptr.toNat = .pages tps s2 →
                    pushes ps tps (ls.mapIdx (fun n va => { va := va, parts := (List.range 9).map (fun m =>
                      paIn tps (t.tapeptr.toNat + 144 * n + 16 * m)) })) true ∧
                    tapeTo (BitVec.ofNat 64 (t.tapeptr.toNat + 144 * ls.length))) ∧
                  (ls = [] → pushes ps [] [] true)) ∧
                (t.modeRev = true → ∀ (st : Nat → State) (old : Nat → List Byte) (tp : Nat → List Page) (n : Nat), n ≤ ls.length →
                  st 0 = s1 → (∀ m, m < n → (st m).pop s.cur 3 (ls.reverse.getD m 0) = .record (old m) (tp m) (st (m + 1))) →
                  (∀ cs v, n < ls.length → (st n).pop s.cur 3 (ls.reverse.getD n 0) = .trap cs v → Traps i s cs v) ∧
                  (n < ls.length → (st n).pop s.cur 3 (ls.reverse.getD n 0) = .wait → Stalls i s) ∧
                  (n = ls.length → pushes ps ((List.range n).map tp).flatten
                      (ls.mapIdx (fun m va => { va := va, old := old (ls.length - 1 - m) })) true ∧
                    tapeTo ((st n).ctx c x).tapeptr))))))))) ∧
 (((List.range 24).map permOf = [[0, 1, 2, 3], [0, 1, 3, 2], [0, 2, 1, 3], [0, 2, 3, 1], [0, 3, 1, 2], [0, 3, 2, 1],
    [1, 0, 2, 3], [1, 0, 3, 2], [1, 2, 0, 3], [1, 2, 3, 0], [1, 3, 0, 2], [1, 3, 2, 0],
    [2, 0, 1, 3], [2, 0, 3, 1], [2, 1, 0, 3], [2, 1, 3, 0], [2, 3, 0, 1], [2, 3, 1, 0],
    [3, 0, 1, 2], [3, 0, 2, 1], [3, 1, 0, 2], [3, 1, 2, 0], [3, 2, 0, 1], [3, 2, 1, 0]]) ∧
  ∀ r i0 i1 i2 i3 n : Nat, r < 24 → n < 4 →
    (permute r [i0, i1, i2, i3]).getD ((permOf r).getD n 0) 0 = [i0, i1, i2, i3].getD n 0) ∧
 (∀ (s : State) (c x : Nat) (d a b fn : Reg) (lw : LW), s.cur = .thread c x → Stands s 2 .any →
    let k := s.core c
    let pc := (s.ctx c x).prog.pc
    let ha := handleOf (s.getH s.cur a)
    let queue := 1 + lw.y.toNat / 16
    let full : Prop := 64 ≤ (k.items.filter (fun i => i.queue == queue)).length ∨
      384 ≤ (s.ctx c x).failed.length + (k.items.filter (fun i => i.owner == x)).length
    let es := SMap.get [] s.tlbs (SMap.get 0 s.remap c)
    let withheld (ps : List Page) : Prop := ps.length ≤ 1536 ∧ 1536 < (es.filter (fun e => e.pins != 0)).length +
      (ps.filter (fun p => !es.any (fun e => e.asid == k.asid && e.base == p.base && e.pins != 0))).length
    let lowest (q : Nat → Prop) (va : Nat) : Prop := q va ∧ ∀ v, q v → va ≤ v
    (lw.g = true → RegsReady s [srcS lw.greg] → guardHolds lw (s.getS s.cur lw.greg) = false →
      Retires (.cpyStrm d a b fn lw) s 2 (fresh s) ∧ Retires (.cpyHost d a b fn lw) s 2 (fresh s)) ∧
    (GuardOn s lw → RegsReady s [srcH a lw.ta, srcS lw.x] →
      let i := Instr.cpyStrm d a b fn lw
      let rs := ha.ranges true false
      let wait : Prop := full ∨ withheld ((fresh s).peekPages c rs)
      let q := (s.stream c d.toNat).ring
      (wait → Stalls i s) ∧
      (¬ wait → ha.ok = false → Traps i s .illegal (BitVec.ofNat 64 a.toNat)) ∧
      (¬ wait → ha.ok = true → q = none ∨ ha.isMx = true ∨ ha.extent 0 * ha.width % 8 ≠ 0 → Traps i s .illegal pc) ∧
      (∀ r, ¬ wait → ha.ok = true → q = some r → ha.isMx = false → ha.extent 0 * ha.width % 8 = 0 →
        (∀ cs v, walkFoot c rs (pageBound rs) (fresh s) 0 = .trap cs v → Traps i s cs v) ∧
        ∀ ps s1, walkFoot c rs (pageBound rs) (fresh s) 0 = .pages ps s1 → ps.length ≤ 1536 → s1.pinsStall c ps = false →
          let ring (g : Granule) : Prop := g.space = .spad ∧ r.base / 128 ≤ g.num ∧ g.num < r.base / 128 + r.size / 128
          let clash (n : Nat) : Prop := (⟨.spad, n⟩ : Granule) ∈ ha.spadGranules ∧ ring ⟨.spad, n⟩
          (∀ n, lowest clash n → Traps i s .overlap (BitVec.ofNat 64 (n * 128))) ∧
          ((∀ n, ¬ clash n) → ∀ va, lowestOnD ps rs = some va → Traps i s .mode (BitVec.ofNat 64 va)) ∧
          ((∀ n, ¬ clash n) → lowestOnD ps rs = none → Pushes i s c x 2 lw.x (some (.clock (s.now + (2 + ps.length)))) (fun j => j.kind = .copy 8 ∧
            j.queue = queue ∧ (∀ g, g ∈ j.writes ↔ ring g) ∧ j.reads = rngGranules ps rs ++ ha.spadGranules ∧ j.pages = ps ∧
            j.ha = s.getH s.cur a ∧ j.y = BitVec.ofNat 64 d.toNat ∧ j.failing = none ∧ j.rev = false)))) ∧
    (GuardOn s lw → RegsReady s [srcH a lw.ta, srcS lw.x] →
      let i := Instr.cpyHost d a b fn lw
      let n := ha.extent 0 / 4
      let listed : Prop := ha.s = true ∧ ha.fmt = 6 ∧ ha.extent 0 = 4 * n ∧ 1 ≤ n ∧ n ≤ 256 ∧ ha.extent 1 = 1 ∧ ha.extent 2 = 1 ∧
        ha.extent 3 = 1
      let span := 8 * ha.extent 0
      let dw (m : Nat) : Nat := s.readNH c [] ha (ha.base + 8 * m) 8
      let entryOk (m : Nat) : Prop := dw (4 * m) % 128 = 0 ∧ dw (4 * m + 1) % 128 = 0 ∧ dw (4 * m + 2) % 128 = 0 ∧ 128 ≤ dw (4 * m + 2) ∧
        dw (4 * m + 2) ≤ 2 ^ 32 ∧ dw (4 * m + 3) ≤ 1
      let other : Prop := ∃ m, ha.base / 2048 ≤ m ∧ m ≤ (ha.base + span - 1) / 2048 ∧ k.tagOf m ≠ ha.swz
      let entry (m : Nat) : HostEntry := { bus := dw (4 * m), dev := dw (4 * m + 1), len := dw (4 * m + 2), toDev := dw (4 * m + 3) % 2 == 1 }
      let run : List HostEntry := (List.range n).map (fun m => if lw.y.toNat % 2 = 1
        then { entry (n - 1 - m) with toDev := !(entry (n - 1 - m)).toDev } else entry m)
      let rs := run.map (fun e => Rng.mk e.dev (e.dev + e.len) (!e.toDev) e.toDev)
      let wait : Prop := full ∨ ha.ok = true ∧ listed ∧
        (s.lineBusy s.cur ha.base span = true ∨ ¬ other ∧ withheld ((fresh s).peekPages c rs))
      (wait → Stalls i s) ∧
      (¬ wait → ha.ok = false → Traps i s .illegal (BitVec.ofNat 64 a.toNat)) ∧
      (¬ wait → ha.ok = true → ¬ listed → Traps i s .illegal pc) ∧
      (¬ wait → ha.ok = true → listed →
        (other → Pushes i s c x 2 lw.x (some (.clock (s.now + (2 + n)))) (fun j => j.kind = .copy 9 ∧ j.queue = queue ∧
          j.failing = some .swizzle ∧ j.reads = ha.spadGranules ∧ j.pages = [] ∧ j.rev = false)) ∧
        (¬ other → (∃ m, m < n ∧ ¬ entryOk m) → Traps i s .illegal pc) ∧
        (¬ other → (∀ m, m < n → entryOk m) →
          (∀ cs v, walkFoot c rs (pageBound rs) (fresh s) 0 = .trap cs v → Traps i s cs v) ∧
          ∀ ps s1, walkFoot c rs (pageBound rs) (fresh s) 0 = .pages ps s1 → ps.length ≤ 1536 → s1.pinsStall c ps = false →
            let e (m : Nat) : HostEntry := run.getD m ⟨0, 0, 0, false⟩
            let reaches (m va g : Nat) : Prop := m < n ∧ (e m).dev ≤ va ∧ va < (e m).dev + (e m).len ∧ va % 128 = 0 ∧ g = paIn ps va / 128
            let clash (va : Nat) : Prop := ∃ m m' v g, m ≠ m' ∧ reaches m va g ∧ reaches m' v g
            (∀ va, lowest clash va → Traps i s .overlap (BitVec.ofNat 64 va)) ∧
            ((∀ va, ¬ clash va) →
              (∀ va, lowestOnD ps rs = some va → Traps i s .mode (BitVec.ofNat 64 va)) ∧
              (lowestOnD ps rs = none → Pushes i s c x 2 lw.x (some (.clock (s.now + (2 + (ps.map (fun p => p.base)).eraseDups.length + n))))
                (fun j => j.kind = .copy 9 ∧ j.queue = queue ∧ j.entries = run ∧ j.pages = ps ∧ j.failing = none ∧ j.rev = false ∧
                  (∀ g, (⟨.global, g⟩ : Granule) ∈ j.reads ↔ ∃ m va, reaches m va g ∧ (e m).toDev = false) ∧
                  ∀ g, (⟨.global, g⟩ : Granule) ∈ j.writes ↔ ∃ m va, reaches m va g ∧ (e m).toDev = true)))))))

/-- A copy's parts: destination, quantising, index map and counts (R256–R260), and their 2 KiB blocks of whole elements and MX blocks
in ascending order (R246; log entry 14). A running copy reads its block in any order: the elements that follow one in a line or bank
word in one access, or a whole MX block; or the index of a gathered row; each under its out-of-bounds mode, swizzle and pages (R21,
R142, R197, R232, R246, R254–R258). It fails with SWIZZLE at a block of another tag and with FOOT beyond an extent under OOB = 01
(R199, R254), waits while its line is held back (R224, R236, R238; log entry 56), and stops at a block boundary for a pre-emption
(R354; log entry 66). It writes elements that it has read, those of one destination line or bank word in one access (R21, R232, R255):
each converted as its form says (R256–R259), its bits placed under the destination's mode, swizzle and pages, the neighbouring bits
kept; a scratchpad block first written takes the handle's swizzle as its tag (R198). Blocks of MX elements are written whole with
their scales, which scratchpad discards (R142, R217, R257). The records of lines on D pages, with the values that the write replaces,
are written in the same action (R263, R333; log entry 62). The block ends once all of it is written (R246). `CPY.SCALE` writes its
bytes to scale memory (R260). Of a reverse-mode pair the destination's cell is read and, of the last clone, added to its source's
(R254, R263; log entries 57, 61); after the last block those cells are zeroed and the lines restored, in any order; a forward copy
writes the records still due. A host transfer moves its next request, and after writes to the host reads with length zero; where the
host rejects one, it fails with ENGFAULT (R262, R378; log entry 75). `CPY.STRM` reads its source unit by unit and appends its next
unit at ARR where the ring has room (R208, R261; log entry 63). At a block boundary each stops for a pre-emption (R354; log entry 66). -/
def Obligations.CopyMoves : Prop :=
 ((∀ (hd ha hb : Handle) (opt rank : Nat),
    let swap (h : Handle) : List Nat := [h.extent 1, h.extent 0, h.extent 2, h.extent 3]
    let q := opt % 2 == 1
    copyJobs 0 opt rank hd ha hb = [⟨some hd, false, some 0, hb.ex⟩] ∧ copyJobs 1 opt rank hd ha hb = [⟨some hd, false, some 6, hb.ex⟩] ∧
    copyJobs 2 opt rank hd ha hb = [⟨some hd, false, some rank, hb.ex⟩] ∧ copyJobs 3 opt rank hd ha hb = [⟨some hd, true, some 0, hb.ex⟩] ∧
    copyJobs 4 opt rank hd ha hb = [⟨some hd, true, some 6, hb.ex⟩] ∧
    copyJobs 5 opt rank hd ha hb = [⟨some hd, false, none, [hd.extent 0, hb.extent 0, 1, 1]⟩] ∧
    copyJobs 6 opt rank hd ha hb = [⟨some hd, q, some 0, hd.ex⟩, ⟨some hb, q, some 6, swap hd⟩] ∧
    copyJobs 7 opt rank hd ha hb = [⟨none, false, some 0, ha.ex⟩]) ∧
  (∀ (j : CopyJob) (p : Nat),
    (∀ h, j.dst = some h → h.isMx = false → h.width ≠ 0 → j.perBlock * h.width ≤ 2048 * 8 ∧ 2048 * 8 < (j.perBlock + 1) * h.width) ∧
    (∀ h, j.dst = some h → h.isMx = true → j.perBlock % 32 = 0 ∧ j.perBlock * h.width ≤ 2048 * 8 ∧
      2048 * 8 < (j.perBlock + 32) * h.width) ∧
    (j.blk p).lo = p * j.perBlock ∧ (j.blk p).n = min j.perBlock (j.counts.foldl (· * ·) 1 - p * j.perBlock)) ∧
  (∀ (js : List CopyJob) (j : CopyJob) (p : Nat),
    (p * j.perBlock < j.counts.foldl (· * ·) 1 → 0 < j.perBlock → blockOf (j :: js) p = some (j, p)) ∧
    (∀ q, 0 < j.perBlock → (∀ m, m < q → m * j.perBlock < j.counts.foldl (· * ·) 1) → j.counts.foldl (· * ·) 1 ≤ q * j.perBlock →
      blockOf (j :: js) (q + p) = blockOf js p) ∧ blockOf [] p = none)) ∧
 (∀ (s : State) (i : Item) (f : Nat) (j : CopyJob) (p : Nat),
    let c := s.target.core
    let k := s.core c
    let ha := handleOf i.ha
    let hb := handleOf i.hb
    let b := j.blk p
    let n := s.target.size
    let swz (z o : Nat) : Nat := if z = 1 then o ^^^ (o / 2 ^ 7 % 8 * 16) else if z = 2 then o ^^^ (o / 2 ^ 6 % 4 * 16)
      else if z = 3 then o ^^^ (o / 2 ^ 8 % 8 * 16) else o
    let byte (h : Handle) (a : Nat) : Byte := if h.s then Memory.read k.spad (a / 2048 * 2048 + swz h.swz (a % 2048))
      else Memory.read s.hbm (paIn i.pages a)
    let inside (h : Handle) (x : List Int) : Prop := ∀ m, m < 4 → 0 ≤ x.getD m 0 ∧ x.getD m 0 < h.extent m
    let clamped (h : Handle) (x : List Int) : List Int :=
      (List.range 4).map (fun m => if x.getD m 0 < 0 then 0 else min (x.getD m 0) ((h.extent m : Int) - 1))
    let first (h : Handle) (x : List Int) : Nat := ((h.base : Int) + x.getD 1 0 * h.stride 1 + x.getD 2 0 * h.stride 2 +
      x.getD 3 0 * h.stride 3 + x.getD 0 0 * h.width / 8).toNat
    let bits (h : Handle) (x : List Int) : Nat := (x.getD 0 0 * h.width % 8).toNat
    let tagged (h : Handle) (x : List Int) : Prop := h.s = true →
      k.tagOf (first h x / 2048) = h.swz ∧ k.tagOf ((first h x + (bits h x + h.width + 7) / 8 - 1) / 2048) = h.swz
    let value (h : Handle) (x : List Int) (v : Nat) : Prop := v < 2 ^ h.width ∧ ∀ m, m < h.width →
      v.testBit m = (byte h (first h x + (bits h x + m) / 8)).getLsbD ((bits h x + m) % 8)
    -- what reading an element gives (R254), and what it fails with
    let gives (h : Handle) (x : List Int) (v : Nat) : Prop := inside h x ∧ tagged h x ∧ value h x v ∨
      ¬ inside h x ∧ (h.oob = 0 ∨ h.oob = 3) ∧ v = fillElem h.fmt h.fill ∨
      ¬ inside h x ∧ h.oob = 2 ∧ (∀ m, m < 4 → h.extent m ≠ 0) ∧ tagged h (clamped h x) ∧ value h (clamped h x) v
    let fails (h : Handle) (x : List Int) (cs : Cause) : Prop := inside h x ∧ ¬ tagged h x ∧ cs = .swizzle ∨
      ¬ inside h x ∧ h.oob = 1 ∧ cs = .foot ∨
      ¬ inside h x ∧ h.oob = 2 ∧ (∀ m, m < 4 → h.extent m ≠ 0) ∧ ¬ tagged h (clamped h x) ∧ cs = .swizzle
    -- the indices of the m-th element of the block
    let at_ (m : Nat) : List Nat := let e := b.lo + m; let n0 := j.counts.getD 0 0; let n1 := j.counts.getD 1 0; let n2 := j.counts.getD 2 0
      [e % n0, e / n0 % n1, e / n0 / n1 % n2, e / n0 / n1 / n2 % j.counts.getD 3 0]
    let ints (l : List Nat) : List Int := l.map (fun (m : Nat) => (m : Int))
    let row := (at_ n).getD 1 0
    let source (m : Nat) (x : List Int) : Prop := (∀ r, j.perm = some r → x = ints (permute r (at_ m))) ∧
      (j.perm = none → ∃ v : Nat, ((at_ m).getD 1 0, v) ∈ i.rowIdx ∧
        x = [(((at_ m).getD 0 0 : Nat) : Int), (if hb.fmt = 4 then intOf 32 true v else (v : Int)), 0, 0])
    let ends (cs : Cause) : Prop := ∃ u e, exec .copyBlock s = .next u ∧ BytesSame s u ∧ (u.core c).item i.seq = some e ∧
      e.failing = some cs ∧ e.wrote = i.wrote ∧ e.progress = i.progress
    s.item c s.target.id = some i → i.running = true → i.finished = false → i.failing = none → s.away.contains c = false →
    i.kind = .copy f → f < 8 → blockOf i.jobs i.progress = some (j, p) → s.target.unit = 0 → i.got.length ≠ b.n → j.counts.length = 4 →
    i.rowIdx.Pairwise (fun e e' => e.1 < e'.1) → (b.mx = true → j.quant = false → b.n % 32 = 0 ∧ j.perm ≠ none) →
    (s.yields c i.owner = true → i.within = 0 → i.rowIdx = [] → i.got = [] → i.wrote = [] → exec .copyBlock s = .next s) ∧
    (b.mayRead i n = false ∨ (∃ pa, pa ∈ b.readAt i n ∧ s.readHeld c i pa = true) → exec .copyBlock s = .next s) ∧
    (s.yields c i.owner = false ∨ i.midBlock = true → b.mayRead i n = true → (∀ pa, pa ∈ b.readAt i n → s.readHeld c i pa = false) →
      (j.perm = none → (∀ e, e ∈ i.rowIdx → e.1 ≠ row) →
        (∀ v, gives hb [(row : Int), 0, 0, 0] v → ∃ u e, exec .copyBlock s = .next u ∧ BytesSame s u ∧
          (u.core c).item i.seq = some e ∧ e.failing = none ∧ (row, v) ∈ e.rowIdx ∧ e.got = i.got ∧ e.wrote = i.wrote) ∧
        (∀ cs, fails hb [(row : Int), 0, 0, 0] cs → ends cs)) ∧
      (∀ x cs, b.pairAt i n = none → source n x → fails ha x cs → ends cs) ∧
      (∀ (x : Nat → List Int) (v : Nat → Nat), (∀ m, n ≤ m → m < b.n → source m (x m) ∨ j.perm = none ∧ ∀ e, e ∈ i.rowIdx → e.1 ≠ (at_ m).getD 1 0) →
        b.pairAt i n = none → (b.mx = true → j.quant = false → ∀ m, m < b.n → b.pairAt i m = none) →
        source n (x n) → (∀ m, n ≤ m → m < b.n → b.pairAt i m = none → source m (x m) → gives ha (x m) (v m)) →
        ∃ u e r, exec .copyBlock s = .next u ∧ BytesSame s u ∧ (u.core c).item i.seq = some e ∧ e.failing = none ∧
          0 < r ∧ n + r ≤ b.n ∧ e.wrote = i.wrote ∧ e.progress = i.progress ∧ (b.mx = true → j.quant = false → r = 32) ∧
          (b.mx = false ∨ j.quant = true → ∀ m, n ≤ m → m < n + r → b.sourceUnit i m = b.sourceUnit i n ∧ i.has m = false) ∧
          (∀ m, e.has m = (i.has m || decide (n ≤ m) && decide (m < n + r))) ∧
          (∀ m, m < n ∨ n + r ≤ m → SMap.get (0, 0) e.got m = SMap.get (0, 0) i.got m) ∧
          (∀ m, n ≤ m → m < n + r → (SMap.get (0, 0) e.got m).1 = v m) ∧
          (b.mx = true → ∀ m, n ≤ m → m < n + r → m % 32 = 0 →
            (ha.s = true → inside ha (x m) → (SMap.get (0, 0) e.got m).2 = 0x7F) ∧
            (∀ g, ha.s = false → inside ha (x m) → pageAt i.pages (first ha (x m)) = some g → g.geom = 1 ∨ g.geom = 2 →
              (SMap.get (0, 0) e.got m).2 = (Memory.read s.hbm (paIn i.pages (g.base + (if g.geom = 1 then 15 * g.size / 16 else g.size) +
                (first ha (x m) - g.base) / (4 * ha.width)))).toNat))))) ∧
 (∀ (s : State) (i : Item) (f : Nat) (j : CopyJob) (p : Nat) (h : Handle),
    let c := s.target.core
    let k := s.core c
    let b := j.blk p
    let lo := s.target.size
    let n := b.unit i lo
    let unit (m : Nat) : Prop := lo ≤ m ∧ m < lo + n
    let swz (z o : Nat) : Nat := if z = 1 then o ^^^ (o / 2 ^ 7 % 8 * 16) else if z = 2 then o ^^^ (o / 2 ^ 6 % 4 * 16)
      else if z = 3 then o ^^^ (o / 2 ^ 8 % 8 * 16) else o
    let place (a : Nat) : Nat := if h.s then a / 2048 * 2048 + swz h.swz (a % 2048) else paIn i.pages a
    let mem (u : State) : Memory := if h.s then (u.core c).spad else u.hbm
    let at_ (m : Nat) : List Nat := let e := b.lo + m; let n0 := j.counts.getD 0 0; let n1 := j.counts.getD 1 0; let n2 := j.counts.getD 2 0
      [e % n0, e / n0 % n1, e / n0 / n1 % n2, e / n0 / n1 / n2 % j.counts.getD 3 0]
    -- where the m-th element goes, if it is written (R254)
    let goes (m : Nat) (d : List Nat) : Prop := (∀ x, x < 4 → (at_ m).getD x 0 < h.extent x) ∧ d = at_ m ∨
      (∃ x, x < 4 ∧ h.extent x ≤ (at_ m).getD x 0) ∧ h.oob = 2 ∧ (∀ x, x < 4 → h.extent x ≠ 0) ∧
        d = (List.range 4).map (fun x => min ((at_ m).getD x 0) (h.extent x - 1))
    let first (d : List Nat) : Nat := ((h.base : Int) + d.getD 1 0 * h.stride 1 + d.getD 2 0 * h.stride 2 + d.getD 3 0 * h.stride 3 +
      (d.getD 0 0 * h.width / 8 : Nat)).toNat
    let off (d : List Nat) : Nat := d.getD 0 0 * h.width % 8
    let bytes (d : List Nat) : Nat := (off d + h.width + 7) / 8
    let holds (d : List Nat) (a : Nat) : Prop := first d ≤ a ∧ a < first d + bytes d
    let covers (m a t : Nat) : Prop := ∃ d, goes m d ∧ holds d a ∧ off d ≤ 8 * (a - first d) + t ∧ 8 * (a - first d) + t < off d + h.width
    -- what is written
    let read (m : Nat) : Nat := (SMap.get (0, 0) i.got m).1
    let block (m : Nat) : Nat × List Nat × Flags :=
      quantBlock h.fmt i.rm ((List.range 32).map (fun x => (readVal (handleOf i.ha).fmt (read (m / 32 * 32 + x))).1))
    let value (m : Nat) : Nat := if j.quant = false then read m else if h.isMx then (block m).2.1.getD (m % 32) 0
      else (convertElem (handleOf i.ha).fmt h.fmt (read m) i.rm i.sat).1
    let scale (m : Nat) : Nat := if j.quant then (block m).1 else (SMap.get (0, 0) i.got m).2
    let scaleAt (m a : Nat) : Prop := ∃ d g, h.isMx = true ∧ h.s = false ∧ m % 32 = 0 ∧ goes m d ∧ pageAt i.pages (first d) = some g ∧
      (g.geom = 1 ∨ g.geom = 2) ∧ a = paIn i.pages (g.base + (if g.geom = 1 then 15 * g.size / 16 else g.size) +
        (first d - g.base) / (4 * h.width))
    let apart : Prop := (∀ m m' d d' a a', unit m → unit m' → goes m d → goes m' d' → holds d a → holds d' a' → place a = place a' → a = a') ∧
      (∀ m m' a, unit m → unit m' → scaleAt m a → scaleAt m' a → m = m') ∧
      ∀ m m' d a a', unit m → unit m' → goes m d → holds d a → scaleAt m' a' → place a ≠ a'
    -- the records due with the unit (R263, R333)
    let due (l : TapeLine) : Prop := l ∈ i.lines ∧ l.done = false ∧ l.parts ≠ [] ∧ l.va ∈ b.unrecorded i lo
    let taped (a : Nat) : Prop := ∃ l pa, due l ∧ pa ∈ l.parts ∧ pa ≤ a ∧ a < pa + 16
    let kept : Prop := (∀ l l' x y, due l → due l' → x < 9 → y < 9 → l = l' ∧ x = y ∨
        l.parts.getD x 0 + 16 ≤ l'.parts.getD y 0 ∨ l'.parts.getD y 0 + 16 ≤ l.parts.getD x 0) ∧
      ∀ a, taped a → (∀ m d a', unit m → goes m d → holds d a' → place a' ≠ a) ∧ (∀ m, unit m → ¬ scaleAt m a) ∧
        ∀ l, due l → a < paIn i.pages l.va ∨ paIn i.pages l.va + 128 ≤ a
    let turn (g : Granule) : Prop := k.mayWrite i g = true ∧ (g.space = .global → s.requestHeld c (g.num * 128) = false)
    let all (u : Nat) : Prop := i.got.length = b.n ∧ ∀ x, x ∈ b.units i → x = u ∨ x ∈ i.wrote
    s.item c s.target.id = some i → i.running = true → i.finished = false → i.failing = none → s.away.contains c = false →
    i.kind = .copy f → f < 8 → blockOf i.jobs i.progress = some (j, p) → j.dst = some h → j.counts.length = 4 → s.target.unit = 1 →
    b.mayUnit i lo = true → (∀ m, unit m ∨ b.mx = true ∧ m < b.n → b.pairAt i m = none) → k.spad.wf = true → s.hbm.wf = true → (h.isMx = true → b.n % 32 = 0 ∧ h.oob ≠ 2) →
    i.lines.Pairwise (fun l l' => l.va < l'.va) → (∀ l, due l → l.parts.length = 9) → apart → kept →
      (∀ m d g, unit m → goes m d → g ∈ h.elemGranules i.pages d → turn g) → (∀ m a, unit m → scaleAt m a → turn ⟨.global, a / 128⟩) →
      (∀ l pa, due l → pa ∈ l.parts → turn ⟨.global, pa / 128⟩) →
      ∃ u e, exec .copyBlock s = .next u ∧ (u.core c).item i.seq = some e ∧ e.failing = none ∧
        (∀ m d a t, unit m → goes m d → holds d a → t < 8 →
          ((∀ m', unit m' → ¬ covers m' a t) → (Memory.read (mem u) (place a)).getLsbD t = (Memory.read (mem s) (place a)).getLsbD t) ∧
          (covers m a t → (∀ m', unit m' → m < m' → ¬ covers m' a t) →
            (Memory.read (mem u) (place a)).getLsbD t = (value m).testBit (8 * (a - first d) + t - off d))) ∧
        (∀ m a, unit m → scaleAt m a → Memory.read u.hbm a = BitVec.ofNat 8 (scale m)) ∧
        (∀ q, (∀ m d a, unit m → goes m d → holds d a → place a ≠ q) → (∀ m, unit m → ¬ scaleAt m q) → ¬ taped q →
          Memory.read (mem u) q = Memory.read (mem s) q) ∧
        (∀ l, due l → (∀ m, m < 16 → Memory.readN u.hbm (l.parts.getD (m / 2) 0 + 8 * (m % 2)) 8 = Memory.readN s.hbm (paIn i.pages l.va + 8 * m) 8) ∧
          Memory.readN u.hbm (l.parts.getD 8 0) 8 = 0 ∧ Memory.readN u.hbm (l.parts.getD 8 0 + 8) 8 = 3 * 2 ^ 60 + l.va % 2 ^ 57 ∧
          ∀ q, q ∈ e.lines → q.va = l.va → q.done = true) ∧
        (h.s = true → ∀ a, Memory.read u.hbm a = Memory.read s.hbm a) ∧
        (h.s = false → ∀ a, Memory.read (u.core c).spad a = Memory.read k.spad a) ∧
        (∀ m, ((∃ x d, unit x ∧ goes x d ∧ h.s = true ∧ (first d / 2048 = m ∨ (first d + bytes d - 1) / 2048 = m)) ∧ m ∉ i.tagged →
            (u.core c).tagOf m = h.swz) ∧
          (¬ (∃ x d, unit x ∧ goes x d ∧ h.s = true ∧ (first d / 2048 = m ∨ (first d + bytes d - 1) / 2048 = m)) ∨ m ∈ i.tagged →
            (u.core c).tagOf m = k.tagOf m)) ∧
        (all lo → e.progress = i.progress + 1 ∧ e.got = [] ∧ e.wrote = [] ∧
          (e.finished = true ↔ blockOf i.jobs (i.progress + 1) = none ∧ i.lines = [] ∧ i.rev = false)) ∧
        (¬ all lo → e.progress = i.progress ∧ e.got = i.got ∧ e.wrote = lo :: i.wrote ∧ e.finished = false)) ∧
 (∀ (s : State) (i : Item),
    let c := s.target.core
    let k := s.core c
    let ha := handleOf i.ha
    let runs : Prop := s.item c s.target.id = some i ∧ i.running = true ∧ i.finished = false ∧ i.failing = none ∧ s.away.contains c = false
    let turn (g : Granule) : Prop := k.mayWrite i g = true ∧ (g.space = .global → s.requestHeld c (g.num * 128) = false)
    let onward : Prop := s.yields c i.owner = false ∨ i.midBlock = true
    let item (u : State) (e : Item) : Prop := (u.core c).item i.seq = some e ∧ e.failing = none
    (∀ j p, runs → i.kind = .copy 7 → blockOf i.jobs i.progress = some (j, p) → j.dst = none → s.target.unit = 1 → k.scaleMem.wf = true →
      let b := j.blk p
      let lo := s.target.size
      let n := b.unit i lo
      let from_ := i.x.toNat % 2 ^ 15 + b.lo + lo
      b.mayUnit i lo = true → (∀ q, from_ ≤ q → q < from_ + n → turn ⟨.scale, q / 128⟩) →
      ∃ u e, exec .copyBlock s = .next u ∧ item u e ∧
        (∀ m, m < n → Memory.read (u.core c).scaleMem (from_ + m) = BitVec.ofNat 8 (SMap.get (0, 0) i.got (lo + m)).1) ∧
        (∀ q, q < from_ ∨ from_ + n ≤ q → Memory.read (u.core c).scaleMem q = Memory.read k.scaleMem q) ∧
        (∀ q, Memory.read (u.core c).spad q = Memory.read k.spad q) ∧ ∀ q, Memory.read u.hbm q = Memory.read s.hbm q) ∧
    (∀ f j p h t dp tc, runs → i.kind = .copy f → f < 8 → i.rev = true → blockOf i.jobs i.progress = some (j, p) → j.dst = some h →
      j.counts.length = 4 → s.hbm.wf = true → (∀ l, l ∈ i.lines → l.parts = []) →
      (h.isMx = true → h.extent 0 % 32 = 0 ∧ j.counts.getD 0 0 % 32 = 0) → s.target.size < (j.blk p).n →
      let b := j.blk p
      let n := s.target.size
      -- the indices of the iteration `e`, and where it goes (R254)
      let at_ (e : Nat) : List Nat := let n0 := j.counts.getD 0 0; let n1 := j.counts.getD 1 0; let n2 := j.counts.getD 2 0
        [e % n0, e / n0 % n1, e / n0 / n1 % n2, e / n0 / n1 / n2 % j.counts.getD 3 0]
      let goes (e : Nat) (d : List Nat) : Prop := (∀ x, x < 4 → (at_ e).getD x 0 < h.extent x) ∧ d = at_ e ∨
        (∃ x, x < 4 ∧ h.extent x ≤ (at_ e).getD x 0) ∧ h.oob = 2 ∧ (∀ x, x < 4 → h.extent x ≠ 0) ∧
          d = (List.range 4).map (fun x => if x = 0 ∧ h.isMx = true ∧ h.extent 0 ≤ (at_ e).getD 0 0 then h.extent 0 - 32 + (at_ e).getD 0 0 % 32
            else min ((at_ e).getD x 0) (h.extent x - 1))
      let inside (x : List Int) : Prop := ∀ m, m < 4 → 0 ≤ x.getD m 0 ∧ x.getD m 0 < ha.extent m
      let source (x : List Int) : Prop := (∀ r, j.perm = some r → x = (permute r (at_ (b.lo + n))).map (fun (m : Nat) => (m : Int))) ∧
        (j.perm = none → ∃ v : Nat, i.rowIdx.find? (fun e => e.1 == (at_ (b.lo + n)).getD 1 0) = some ((at_ (b.lo + n)).getD 1 0, v) ∧
          x = [(((at_ (b.lo + n)).getD 0 0 : Nat) : Int), (if (handleOf i.hb).fmt = 4 then intOf 32 true v else (v : Int)), 0, 0])
      -- the source element that a pair names
      let from_ (x : List Int) (y : List Nat) : Prop := inside x ∧ y = x.map Int.toNat ∨ ¬ inside x ∧ ha.oob = 2 ∧ (∀ m, m < 4 → ha.extent m ≠ 0) ∧
        y = (List.range 4).map (fun m => if x.getD m 0 < 0 then 0 else min (x.getD m 0).toNat (ha.extent m - 1))
      let cell (g : Page) (a : Nat) : Nat := 2 ^ 56 + a / (Fmt.width g.fmt / 8) * 8
      let va := (h.elemAt t).1.toNat
      goes (b.lo + n) t → h.s = false → pageAt i.pages va = some dp → dp.d = true → pageAt i.pages (cell dp va) = some tc →
      let tcell := tc.pa (cell dp va)
      -- the clone that the forward copy left, and a source element on a D page with its cell
      let final : Prop := ∀ e, b.lo + n < e → e < j.counts.foldl (· * ·) 1 → ¬ goes e t
      let adds (x : List Int) (sp sc : Page) (pa : Nat) : Prop := final ∧ ∃ y, from_ x y ∧ ha.s = false ∧ pageAt i.pages (ha.elemAt y).1.toNat = some sp ∧ sp.d = true ∧
        pageAt i.pages (cell sp (ha.elemAt y).1.toNat) = some sc ∧ pa = sc.pa (cell sp (ha.elemAt y).1.toNat)
      let none_ (x : List Int) : Prop := ¬ final ∨ ha.s = true ∨ (∀ y, ¬ from_ x y) ∨
        ∃ y, from_ x y ∧ ∀ sp, pageAt i.pages (ha.elemAt y).1.toNat = some sp → sp.d = false
      let all : Prop := i.got.length = b.n ∧ ∀ x, x ∈ b.units i → x = n ∨ x ∈ i.wrote
      let written (e : Item) : Prop := (all → e.progress = i.progress + 1 ∧ e.got = [] ∧ e.wrote = [] ∧ e.finished = false) ∧
        (¬ all → e.progress = i.progress ∧ e.got = i.got ∧ e.wrote = n :: i.wrote ∧ e.finished = false)
      (∀ x, source x → s.target.unit = 0 → onward → i.has n = false → i.got.length ≠ b.n →
        (¬ inside x → ha.oob = 1 → ∃ u e, exec .copyBlock s = .next u ∧ BytesSame s u ∧ (u.core c).item i.seq = some e ∧ e.failing = some .foot) ∧
        let takes (v : Nat → Prop) : Prop := ∃ u e, exec .copyBlock s = .next u ∧ item u e ∧ BytesSame s u ∧ e.progress = i.progress ∧ e.wrote = i.wrote ∧
          (∀ m, e.has m = (i.has m || m == n)) ∧ (∀ m, m ≠ n → SMap.get (0, 0) e.got m = SMap.get (0, 0) i.got m) ∧ v (SMap.get (0, 0) e.got n).1
        (∀ sp sc pa, adds x sp sc pa → (s.readHeld c i tcell = true → exec .copyBlock s = .next s) ∧
          (s.readHeld c i tcell = false → takes (fun v => v = Memory.readN s.hbm tcell 8))) ∧
        (inside x ∨ ha.oob ≠ 1 → none_ x → takes (fun _ => True))) ∧
      (∀ x, source x → s.target.unit = 1 → b.mayUnit i n = true →
        (∀ sp sc pa, adds x sp sc pa → turn ⟨.global, pa / 128⟩ → s.readHeld c i pa = false →
          let gain := fxAdd sc.scale (BitVec.ofNat 64 (Memory.readN s.hbm pa 8)) (.fin (fxExact tc.scale (BitVec.ofNat 64 (SMap.get (0, 0) i.got n).1)))
          ∃ u e, exec .copyBlock s = .next u ∧ item u e ∧ written e ∧ e.flags = i.flags ||| gain.2 ∧ Memory.readN u.hbm pa 8 = gain.1.toNat ∧
            ∀ q, q < pa ∨ pa + 8 ≤ q → Memory.read u.hbm q = Memory.read s.hbm q) ∧
        (none_ x → ∃ u e, exec .copyBlock s = .next u ∧ item u e ∧ written e ∧ e.flags = i.flags ∧ BytesSame s u))) ∧
    (∀ f, runs → i.kind = .copy f → f < 8 → blockOf i.jobs i.progress = none → onward →
      let undone := (List.range i.undo.length).filter (fun n => !i.wrote.contains n)
      let idle := i.lines.filter (fun l => !l.done && !l.parts.isEmpty)
      let ends : Prop := ∃ u e, exec .copyBlock s = .next u ∧ item u e ∧ e.finished = true ∧ BytesSame s u
      (i.rev = true →
        (∀ j h m t g tc, j ∈ i.jobs → j.dst = some h → h.s = false → m < j.counts.foldl (· * ·) 1 →
          h.resolve ((unravel m j.counts).map (fun (x : Nat) => (x : Int))) = .at_ t →
          pageAt i.pages (h.elemAt t).1.toNat = some g → g.d = true →
          pageAt i.pages (2 ^ 56 + (h.elemAt t).1.toNat / (Fmt.width g.fmt / 8) * 8) = some tc →
          (tc.pa (2 ^ 56 + (h.elemAt t).1.toNat / (Fmt.width g.fmt / 8) * 8), List.replicate 8 0) ∈ i.undo) ∧
        (∀ l, l ∈ i.lines → (paIn i.pages l.va, l.old) ∈ i.undo) ∧
        (undone = [] → ends) ∧
        (∀ n pa bs, undone[s.target.size]? = some n → i.undo[n]? = some (pa, bs) → turn ⟨.global, pa / 128⟩ → s.hbm.wf = true →
          ∃ u e, exec .copyBlock s = .next u ∧ item u e ∧ e.wrote = n :: i.wrote ∧ e.finished = false ∧
            (∀ m, m < bs.length → Memory.read u.hbm (pa + m) = bs.getD m 0) ∧
            ∀ q, q < pa ∨ pa + bs.length ≤ q → Memory.read u.hbm q = Memory.read s.hbm q)) ∧
      (i.rev = false → (idle = [] → ends) ∧
        ∀ l, idle[s.target.size]? = some l → i.lines.Pairwise (fun l l' => l.va < l'.va) → l.parts.length = 9 → s.hbm.wf = true →
          (∀ x y, x < y → y < 9 → l.parts.getD x 0 + 16 ≤ l.parts.getD y 0 ∨ l.parts.getD y 0 + 16 ≤ l.parts.getD x 0) →
          (∀ pa, pa ∈ l.parts → turn ⟨.global, pa / 128⟩) → s.readHeld c i (paIn i.pages l.va) = false →
          ∃ u e, exec .copyBlock s = .next u ∧ item u e ∧ e.finished = false ∧ (∀ q, q ∈ e.lines → q.va = l.va → q.done = true) ∧
            (∀ m, m < 16 → Memory.readN u.hbm (l.parts.getD (m / 2) 0 + 8 * (m % 2)) 8 = Memory.readN s.hbm (paIn i.pages l.va + 8 * m) 8) ∧
            Memory.readN u.hbm (l.parts.getD 8 0) 8 = 0 ∧ Memory.readN u.hbm (l.parts.getD 8 0 + 8) 8 = 3 * 2 ^ 60 + l.va % 2 ^ 57 ∧
            ∀ q, (∀ pa, pa ∈ l.parts → q < pa ∨ pa + 16 ≤ q) → Memory.read u.hbm q = Memory.read s.hbm q)) ∧
    (runs → i.kind ≠ .copy 8 → (∃ f, i.kind = .copy f) → ¬ onward → exec .copyBlock s = .next s) ∧
    (∀ e r p, hostAt [] p = none ∧ hostAt (e :: r) p = if p < e.len then some (e, p) else hostAt r (p - e.len)) ∧
    (runs → onward → i.kind = .copy 9 → hostAt i.entries (2048 * i.progress + i.within) = none →
      ∃ u q, exec .copyBlock s = .next u ∧ (u.core c).item i.seq = some q ∧ BytesSame s u ∧
        (q.failing = some .engfault ∨ q.failing = none ∧ q.finished = true)) ∧
    (∀ e off, runs → onward → i.kind = .copy 9 → hostAt i.entries (2048 * i.progress + i.within) = some (e, off) →
      s.hbm.wf = true → s.hostMem.wf = true →
      let left := min (2048 - i.within) (e.len - off)
      let dev (m : Nat) : Nat := paIn i.pages (e.dev + off + m)
      let bus (m : Nat) : Nat := e.bus + off + m
      0 < left → (∀ m m', m < left → m' < left → dev m = dev m' → m = m') →
      (e.toDev = true → ∀ m, m < left → turn ⟨.global, dev m / 128⟩) →
      (e.toDev = false → ∀ m, m < left → s.readHeld c i (dev m) = false) →
      ∃ u q, exec .copyBlock s = .next u ∧ (u.core c).item i.seq = some q ∧
        (q.failing = some .engfault ∧ BytesSame s u ∨
         ∃ n, 0 < n ∧ n ≤ left ∧ (n = left ∨ n % 128 = 0) ∧ n ≤ 512 ∧ q.failing = none ∧
          (hostAt i.entries (2048 * i.progress + i.within + n) = none → q.progress = i.progress + 1 ∧ q.within = 0 ∧
            (q.finished = true ↔ ∀ x, x ∈ i.entries → x.toDev = true)) ∧
          (hostAt i.entries (2048 * i.progress + i.within + n) ≠ none → q.within < 2048 ∧
            2048 * q.progress + q.within = 2048 * i.progress + i.within + n ∧ q.finished = false) ∧
          (e.toDev = true → (∀ m, m < n → Memory.read u.hbm (dev m) = Memory.read s.hostMem (bus m)) ∧
            (∀ a, (∀ m, m < n → a ≠ dev m) → Memory.read u.hbm a = Memory.read s.hbm a) ∧
            ∀ a, Memory.read u.hostMem a = Memory.read s.hostMem a) ∧
          (e.toDev = false → (∀ m, m < n → Memory.read u.hostMem (bus m) = Memory.read s.hbm (dev m)) ∧
            (∀ a, (∀ m, m < n → a ≠ bus m) → Memory.read u.hostMem a = Memory.read s.hostMem a) ∧
            ∀ a, Memory.read u.hbm a = Memory.read s.hbm a))) ∧
    (∀ r : Ring, runs → i.kind = .copy 8 → (s.stream c i.y.toNat).ring = some r → k.spad.wf = true →
      let q := s.stream c i.y.toNat
      let rowB := (ha.extent 0 * ha.width + 7) / 8
      let rows := if ha.extent 0 = 0 then 0 else ha.extent 1 * ha.extent 2 * ha.extent 3
      let done := 2048 * i.progress + i.within
      let len := min (128 - q.arr % 128) (rows * rowB - done)
      let at_ := r.base + q.arr % r.size
      let from_ (m : Nat) : Nat := let w := (done + m) / rowB
        (((ha.base : Int) + (w % ha.extent 1 : Nat) * ha.stride 1 + (w / ha.extent 1 % ha.extent 2 : Nat) * ha.stride 2 +
          (w / ha.extent 1 / ha.extent 2 : Nat) * ha.stride 3) % 2 ^ 64).toNat + (done + m) % rowB
      let tagged (m : Nat) : Prop := ha.s = true → k.tagOf (from_ m / 2048) = ha.swz
      let has (m : Nat) : Prop := ∃ v, (done + m, v) ∈ i.carry
      let p := s.target.size
      let unit (m : Nat) : Nat := from_ m / if ha.s then 16 else 128
      let begins : Prop := p < len ∧ ¬ has p ∧ (p = 0 ∨ has (p - 1) ∨ unit (p - 1) ≠ unit p)
      let taken (m : Nat) : Prop := p ≤ m ∧ m < len ∧ ∀ x, p ≤ x → x ≤ m → unit x = unit p ∧ ¬ has x
      let held : Prop := ha.s = false ∧ ∃ m, taken m ∧ s.readHeld c i (paIn i.pages (from_ m)) = true
      let clear : Prop := q.arr + len ≤ q.rel + r.size ∧ (∀ m, m < len → has m) ∧ k.mayWrite i ⟨.spad, at_ / 128⟩ = true
      let boundary : Prop := i.within = 0 ∨ i.progress ≠ 0 ∧ i.within < 128
      (s.yields c i.owner = true → boundary → exec .streamUnitWrite s = .next s) ∧
      (s.yields c i.owner = false ∨ ¬ boundary → i.within < 2048 → len ≠ 0 →
        (s.target.unit = 1 → ¬ begins ∨ held → exec .streamUnitWrite s = .next s) ∧
        (s.target.unit = 1 → begins → ¬ held → (∃ m, taken m ∧ ¬ tagged m) → exec .streamUnitWrite s = .next (s.failItem c i .swizzle)) ∧
        (s.target.unit = 1 → begins → ¬ held → (∀ m, taken m → tagged m) →
          ∃ u e, exec .streamUnitWrite s = .next u ∧ item u e ∧ BytesSame s u ∧ e.progress = i.progress ∧ e.within = i.within ∧ e.finished = false ∧
            (∀ m, taken m → SMap.get 0 e.carry (done + m) = s.readByteH c i.pages ha (from_ m)) ∧
            (∀ x, (∃ v, (x, v) ∈ e.carry) ↔ (∃ v, (x, v) ∈ i.carry) ∨ ∃ m, taken m ∧ x = done + m) ∧
            (∀ x, (∀ m, taken m → x ≠ done + m) → SMap.get 0 e.carry x = SMap.get 0 i.carry x) ∧ (u.stream c i.y.toNat).arr = q.arr) ∧
        (s.target.unit ≠ 1 → ¬ clear → exec .streamUnitWrite s = .next s) ∧
        (s.target.unit ≠ 1 → clear →
          ∃ u e, exec .streamUnitWrite s = .next u ∧ item u e ∧ (u.stream c i.y.toNat).arr = q.arr + len ∧
            2048 * e.progress + e.within = done + len ∧ e.within < 2048 ∧ (e.finished = true ↔ done + len = rows * rowB) ∧
            (∀ x v, (x, v) ∈ e.carry ↔ (x, v) ∈ i.carry ∧ (x < done ∨ done + len ≤ x)) ∧
            (∀ m, m < len → Memory.read (u.core c).spad (at_ + m) = SMap.get 0 i.carry (done + m)) ∧
            (∀ m, m < at_ ∨ at_ + len ≤ m → Memory.read (u.core c).spad m = Memory.read k.spad m) ∧
            (∀ m, (u.core c).tagOf m = k.tagOf m) ∧ ∀ m, Memory.read u.hbm m = Memory.read s.hbm m))))

/-- `MX.SET` writes its record of the thread's nest table; `MX.ACQ`, `MX.REL` and `MX.SHAPE` acquire, release and shape a tile, or
wait or trap; an ended owner's tile is released once all its commands have retired or failed; the image of a tile holds it bit for bit
(R265–R268, R273, R284). That `MX.ACQ` itself spills a tile that is due for it is the model's reading (log entry 23). `MX.GO`,
`MX.ZERO` and `MX.OUT` stall on a full queue 0, check in the order of their rules, and push their command with its footprint; a nest
reaches T0 alone when a count is 0, else every tile its index vectors give (R269, R271, R276, R281, R282); the pages of an `MX.OUT`
are translated and pinned as a copy's (R220, R221, R249). That the pushes of `MX.ZERO` and `MX.OUT` hold the thread no longer is the
model's choice (log entry 24). -/
def Obligations.TilesAndMatrixPushes : Prop :=
 (∀ (s : State) (c x : Nat), s.cur = .thread c x →
    let k := s.core c
    let mine (n : Nat) : Prop := (s.tile c n).owner = .ctx x ∧ (s.tile c n).ending = false
    let reached (n : Nat) : Prop := ∃ i, i ∈ k.items ∧ i.owner = x ∧ (Granule.mk .tile n ∈ i.reads ∨ Granule.mk .tile n ∈ i.writes)
    (∀ (e : BitVec 24) (w1 w2 w3 : Word), Stands s 4 .any →
      Retires (.mxSet e w1 w2 w3) s 4 ((fresh s).setCtx c x { s.ctx c x with
        nest := SMap.set (s.ctx c x).nest (e.toNat / 2 ^ 21) { w0 := 0xD0#8 ++ e, w1 := w1, w2 := w2, w3 := w3 } })) ∧
    (∀ d a : Reg, Stands s 1 .any → RegsReady s [srcS d] →
      let n := a.toNat
      let gets (u : State) (v : DWord) : Prop := Retires (.mxAcq d a) s 1 ((u.setS s.cur d v).holdFor s.cur 4)
      (mine n → gets (fresh s) 0) ∧
      ((s.tile c n).owner = .free → gets ((fresh s).setTile c n { owner := .ctx x }) 0) ∧
      (∀ y, (s.tile c n).owner = .ctx y → ¬ mine n → gets (fresh s) 1) ∧
      (∀ m ps u, (s.tile c n).owner = .area m → (fresh s).spill c n m = .pages ps u → gets (u.setTile c n { owner := .ctx x }) 2)) ∧
    (∀ d : Reg, Stands s 1 .any →
      (¬ mine d.toNat → Traps (.mxRel d) s .noacc (BitVec.ofNat 64 d.toNat)) ∧
      (mine d.toNat → ¬ reached d.toNat → Retires (.mxRel d) s 1 ((fresh s).setTile c d.toNat {})) ∧
      (mine d.toNat → reached d.toNat → exec (.mxRel d) s = .next ((fresh s).holdOn s.cur (.tileRel d.toNat)))) ∧
    (∀ d a b : Reg, Stands s 1 .any → RegsReady s [srcS a, srcS b] →
      let i := Instr.mxShape d a b
      let r := s.getS s.cur a
      let w := s.getS s.cur b
      let ok (v : DWord) : Prop := 1 ≤ v.toNat ∧ v.toNat ≤ 32
      (¬ mine d.toNat → Traps i s .noacc (BitVec.ofNat 64 d.toNat)) ∧
      (mine d.toNat → ¬ ok r → Traps i s .illegal r) ∧ (mine d.toNat → ok r → ¬ ok w → Traps i s .illegal w) ∧
      (mine d.toNat → ok r → ok w → ¬ reached d.toNat → Retires i s 1 ((fresh s).setTile c d.toNat
        { owner := .ctx x, rows := r.toNat, cols := w.toNat })) ∧
      (mine d.toNat → ok r → ok w → reached d.toNat →
        exec i s = .next ((fresh s).holdOn s.cur (.tileShape d.toNat r.toNat w.toNat)))) ∧
    (let t := s.tile s.target.core s.target.unit
     let beyond : Prop := t.ending = true ∧ ∀ i, i ∈ (s.core s.target.core).items → i.seq ∉ t.after
     (beyond → exec .tileAutoRelease s = .next (s.setTile s.target.core s.target.unit {})) ∧ (¬ beyond → exec .tileAutoRelease s = .next s)) ∧
    (∀ n, let t := s.tile c n
      (t.owner = .ctx x → (s.freeCtx c x).tile c n =
        { t with ending := true, after := (k.items.filter (fun i => i.owner == x)).map (fun i => i.seq) }) ∧
      (t.owner ≠ .ctx x → (s.freeCtx c x).tile c n = t)) ∧
    ∀ (t : Tile) (o : TileOwner), t.rows ≤ 32 → t.cols ≤ 32 →
      let b := tileImage t
      let u := tileOfImage b o
      (∀ e m, e < 1024 → m < 80 → b.getD (16 + 80 * e + m) 0 = BitVec.ofNat 8 ((SMap.get 0 t.el e).toNat / 256 ^ m)) ∧
      u.owner = o ∧ u.rows = t.rows ∧ u.cols = t.cols ∧ ∀ i j, i < 32 → j < 32 → u.at_ i j = t.at_ i j) ∧
 (∀ (s : State) (c x : Nat) (d a b fn : Reg), s.cur = .thread c x → d.toNat < 8 →
    let k := s.core c
    let ha := handleOf (s.getH s.cur a)
    let hb := handleOf (s.getH s.cur b)
    let full : Prop := 64 ≤ (k.items.filter (fun i => i.queue == 0)).length ∨
      384 ≤ (s.ctx c x).failed.length + (k.items.filter (fun i => i.owner == x)).length
    let usable (n : Nat) : Prop := (s.tile c n).owner = .ctx x ∧ (s.tile c n).ending = false ∧ (s.tile c n).rows ≠ 0
    let tile (n : Nat) : Granule := ⟨.tile, n⟩
    let pc := (s.ctx c x).prog.pc
    (Stands s 1 .any → RegsReady s [srcH a, srcH b, srcS fn] →
      let i := Instr.mxGo d a b fn
      let n := nestOf (s.ctx c x).nest d.toNat ha hb
      let flat (h : Handle) : Prop := h.s = true ∧ h.extent 2 = 1 ∧ h.extent 3 = 1
      let whole (h : Handle) (f : NestRec → Int) : Prop := h.isMx = true → ∀ l, l < 6 → f (nestRec (s.ctx c x).nest l) % n.kc = 0
      let shaped : Prop := flat ha ∧ flat hb ∧ whole ha NestRec.ak ∧ whole hb NestRec.bk
      let reaches (t : Nat) : Prop := ((∃ m, m ∈ n.counts ∧ m = 0) ∧ t = d.toNat) ∨ ∃ ix : Nat → Nat, (∀ l, l < 6 → ix l < n.counts.getD l 0) ∧
        (t : Int) = ((d.toNat : Int) + ((List.range 6).map (fun l => (ix l : Int) * (nestRec (s.ctx c x).nest l).dt)).sum) % 8
      let bothOk : Prop := ha.ok = true ∧ hb.ok = true
      let pair : Prop := pairKc ha.fmt hb.fmt ≠ none
      let held : Prop := ∀ t, reaches t → usable t
      (full → Stalls i s) ∧
      (¬ full → ha.ok = false → Traps i s .illegal (BitVec.ofNat 64 a.toNat)) ∧
      (¬ full → ha.ok = true → hb.ok = false → Traps i s .illegal (BitVec.ofNat 64 b.toNat)) ∧
      (¬ full → bothOk → ¬ (pair ∧ shaped) → Traps i s .illegal pc) ∧
      (∀ t, ¬ full → bothOk → pair → shaped → reaches t → ¬ usable t → (∀ r, r < t → reaches r → usable r) →
        Traps i s .noacc (BitVec.ofNat 64 t)) ∧
      (¬ full → bothOk → pair → shaped → held → (n.foot k).1 = true → Traps i s .foot (BitVec.ofNat 64 a.toNat)) ∧
      (¬ full → bothOk → pair → shaped → held → n.foot k = (false, true) → Traps i s .foot (BitVec.ofNat 64 b.toNat)) ∧
      (¬ full → bothOk → pair → shaped → held → n.foot k = (false, false) →
        Pushes i s c x 1 fn (some (.clock (s.now + 2))) (fun j => j.pages = [] ∧ j.rev = false ∧ j.kind = .mxGo d.toNat ∧ j.queue = 0 ∧ j.failing = none ∧
          j.ha = s.getH s.cur a ∧ j.hb = s.getH s.cur b ∧ (∀ l, l < 7 → nestRec j.nest l = nestRec (s.ctx c x).nest l) ∧
          (∀ g, g ∈ j.writes ↔ ∃ t, reaches t ∧ g = tile t) ∧ ∀ g, g ∈ j.reads ↔ (∃ t, reaches t ∧ g = tile t) ∨ g ∈ ha.spadGranules ∨
            g ∈ hb.spadGranules ∨ ∃ col, col ∈ n.colsA ++ n.colsB ∧ g = ⟨.scale, col / 4⟩))) ∧
    (Stands s 1 .any → RegsReady s [srcS fn] →
      let i := Instr.mxZero d fn
      (full → Stalls i s) ∧ (¬ full → ¬ usable d.toNat → Traps i s .noacc (BitVec.ofNat 64 d.toNat)) ∧
      (¬ full → usable d.toNat → Pushes i s c x 1 fn (s.ctx c x).prog.hold (fun j => j.pages = [] ∧ j.rev = false ∧ j.kind = .mxZero d.toNat ∧ j.queue = 0 ∧
        j.failing = none ∧ j.reads = [] ∧ j.writes = [tile d.toNat]))) ∧
    ∀ (lw : LW), Stands s 2 .any →
      let i := Instr.mxOut d a b fn lw
      (lw.g = true → RegsReady s [srcS lw.greg] → guardHolds lw (s.getS s.cur lw.greg) = false → Retires i s 2 (fresh s)) ∧
      (GuardOn s lw → RegsReady s [srcH a lw.ta, srcS lw.x] →
        let t := s.tile c d.toNat
        let rule : Prop := (ha.fmt = 0x09 ∨ ha.fmt = 0x0A ∨ ha.fmt = 0x0B ∨ ha.fmt = 0x0C ∨ ha.fmt = 0x0D) ∧
          ha.extent 2 = 1 ∧ ha.extent 3 = 1 ∧ (ha.s = true → ha.swz = 0)
        let beyond : Prop := ha.oob = 1 ∧ (ha.extent 1 < t.rows ∨ ha.extent 0 < t.cols)
        let rs := ha.ranges false true
        (full → Stalls i s) ∧ (¬ full → ha.ok = false → Traps i s .illegal (BitVec.ofNat 64 a.toNat)) ∧
        (¬ full → ha.ok = true → ¬ rule → Traps i s .illegal pc) ∧
        (¬ full → ha.ok = true → rule → ¬ usable d.toNat → Traps i s .noacc (BitVec.ofNat 64 d.toNat)) ∧
        (¬ full → ha.ok = true → rule → usable d.toNat → beyond → Traps i s .foot (BitVec.ofNat 64 a.toNat)) ∧
        (¬ full → ha.ok = true → rule → usable d.toNat → ¬ beyond →
          ∀ cs v, walkFoot c rs (pageBound rs) (fresh s) 0 = .trap cs v → Traps i s cs v) ∧
        ∀ s1 ps, ¬ full → ha.ok = true → rule → usable d.toNat → ¬ beyond → walkFoot c rs (pageBound rs) (fresh s) 0 = .pages ps s1 →
          (1536 < ps.length → Traps i s .illegal (BitVec.ofNat 64 ps.length)) ∧
          (ps.length ≤ 1536 → s1.pinsStall c ps = true → Stalls i s) ∧
          (ps.length ≤ 1536 → s1.pinsStall c ps = false →
          (∀ va, lowestOnD ps rs = some va → Traps i s .dwrite (BitVec.ofNat 64 va)) ∧
          (lowestOnD ps rs = none → Pushes i s c x 2 lw.x (s.ctx c x).prog.hold (fun j => j.rev = false ∧ j.kind = .mxOut d.toNat ∧ j.queue = 0 ∧
            j.failing = none ∧ j.rm = s.rm s.cur lw.rm ∧ j.pages = ps ∧ j.reads = [tile d.toNat] ∧
            j.writes = rngGranules ps rs ++ ha.spadGranules)))))

/-- A running nest performs its next step, level 0 fastest: each element of the step's tile takes the exact sum of its products; it
fails where it first reads a block under another swizzle (R277, R278, R283). `MX.OUT` rounds the next elements of its row, those of
one destination line or bank word, into memory (R21, R232, R282), `MX.ZERO` zeroes the elements of its tile's shape (R281), and a row
or column moves between a vector register and a tile, which takes what an `AWR` writes 6 clocks later (R285, R286; log entry 25). At
its steps and rows a command stops for a pre-emption (R354; log entry 66). -/
def Obligations.MatrixRuns : Prop :=
  ∀ (s : State) (i : Item),
    let c := s.target.core
    let k := s.core c
    let ha := handleOf i.ha
    let runs : Prop := s.item c s.target.id = some i ∧ i.running = true ∧ i.finished = false ∧ i.failing = none ∧ s.away.contains c = false
    let next (u : State) (f : Bool) (fl : Flags) : Prop := ∃ j, (u.core c).item i.seq = some j ∧ j.progress = i.progress + 1 ∧ j.finished = f ∧
      j.flags = i.flags ||| fl ∧ j.failing = none
    (∀ t0, runs → i.kind = .mxGo t0 →
      let n := nestOf i.nest t0 ha (handleOf i.hb)
      let z := n.step i.progress
      let t := s.tile c z.t
      let other (h : Handle) (off : Nat) (ix : List (List Int)) : Prop :=
        ∃ m, m ∈ h.blocksOf ix ∧ 2 * m + off ∉ i.seen ∧ k.tagOf m ≠ h.swz
      let clash : Prop := other n.ha 0 (n.aIdx z t.rows) ∨ other n.hb 1 (n.bIdx z t.cols)
      let sum (r q : Nat) : WA640 × Flags := (List.range n.kc).foldl (fun e (p : Nat) =>
        mulAcc e (s.operand c n.ha [z.kA + p, z.mA + r, 0, 0] z.sA r) (s.operand c n.hb [z.nB + q, z.kB + p, 0, 0] z.sB q)) (t.at_ r q, 0)
      i.progress < n.total → t.rows ≤ 32 → t.cols ≤ 32 → (s.yields c i.owner = true → exec .matrixStep s = .next s) ∧ (s.yields c i.owner = false →
      (clash → exec .matrixStep s = .next (s.failItem c i .swizzle)) ∧
      (¬ clash → k.mayWrite i ⟨.tile, z.t⟩ = true → ∃ u fl, exec .matrixStep s = .next u ∧ BytesSame s u ∧
        (∀ r q, r < 32 → q < 32 → (u.tile c z.t).at_ r q = if r < t.rows ∧ q < t.cols then (sum r q).1 else t.at_ r q) ∧
        (∀ f : Flags, fl ||| f = f ↔ ∀ r q, r < t.rows → q < t.cols → (sum r q).2 ||| f = f) ∧
        (∀ m, m ≠ z.t → u.tile c m = s.tile c m) ∧ next u (decide (i.progress + 1 = n.total)) fl))) ∧
    (∀ (n : Nest) (ix : Nat → Nat), n.lv.length = 6 → n.counts.length = 6 → (∀ l, l < 6 → ix l < n.counts.getD l 0) →
      let p := ix 0 + n.counts.getD 0 0 * (ix 1 + n.counts.getD 1 0 * (ix 2 + n.counts.getD 2 0 * (ix 3 + n.counts.getD 3 0 *
        (ix 4 + n.counts.getD 4 0 * ix 5))))
      let sum (f : NestRec → Int) : Int := ((List.range 6).map (fun l => (ix l : Int) * f (n.lv.getD l {}))).sum
      let z := n.step p
      z.kA = sum NestRec.ak ∧ z.mA = sum NestRec.am ∧ z.kB = sum NestRec.bk ∧ z.nB = sum NestRec.bn ∧
        (z.t : Int) = (n.t0 + sum NestRec.dt) % 8 ∧ (z.sA : Int) = (n.head.sca + sum NestRec.dsa) % 1024 ∧
        (z.sB : Int) = (n.head.scb + sum NestRec.dsb) % 1024) ∧
    (∀ m, runs → i.kind = .mxOut m →
      let t := s.tile c m
      let r := i.progress
      let w := ha.width / 8
      let at_ (q : Nat) : Nat := ((ha.base : Int) + r * ha.stride 1 + (q * ha.width / 8 : Nat)).toNat
      let place (a : Nat) : Nat := if ha.s then a else paIn i.pages a
      let mem (u : State) : Memory := if ha.s then (u.core c).spad else u.hbm
      let out (q : Nat) : Nat × Flags := waRound (FpFmt.get ha.fmt) i.rm (t.at_ r q)
      let j := s.target.size
      let unit (q : Nat) : Nat := at_ q / if ha.s then 16 else 128
      let head (q : Nat) : Prop := q < t.cols ∧ (q = 0 ∨ unit (q - 1) ≠ unit q)
      let may : Prop := head j ∧ j ∉ i.wrote ∧ ∀ q, q < j → head q → unit q = unit j → q ∈ i.wrote
      let run (q : Nat) : Prop := j ≤ q ∧ q < t.cols ∧ ∀ x, j ≤ x → x ≤ q → unit x = unit j
      let clear : Prop := ∀ q g, run q → g ∈ ha.elemGranules i.pages [q, r, 0, 0] →
        k.mayWrite i g = true ∧ (g.space = .global → s.requestHeld c (g.num * 128) = false)
      let whole : Prop := ∀ q, head q → q = j ∨ q ∈ i.wrote
      let done (u : State) (fl : Flags) : Prop := ∃ e, (u.core c).item i.seq = some e ∧ e.failing = none ∧
        e.flags = i.flags ||| fl ∧ (¬ whole → e.progress = r ∧ e.wrote = j :: i.wrote ∧ e.finished = false) ∧
        (whole → e.progress = r + 1 ∧ e.wrote = [] ∧ (e.finished = true ↔ r + 1 = t.rows))
      (s.yields c i.owner = true → i.wrote = [] → exec .mxOutRow s = .next s) ∧
      (s.yields c i.owner = false ∨ i.wrote ≠ [] → (t.rows ≤ r → ∃ u e, exec .mxOutRow s = .next u ∧ (u.core c).item i.seq = some e ∧ e.finished = true ∧ BytesSame s u) ∧
      (k.spad.wf = true → s.hbm.wf = true → r < t.rows → r < ha.extent 1 → t.cols ≤ ha.extent 0 → 1 ≤ ha.extent 2 → 1 ≤ ha.extent 3 →
        (∀ q p x y, run q → run p → x < w → y < w → place (at_ q + x) = place (at_ p + y) → q = p ∧ x = y) →
        (¬ may ∨ ¬ clear → exec .mxOutRow s = .next s) ∧
        (may → clear → ∃ u fl, exec .mxOutRow s = .next u ∧ done u fl ∧
          (∀ f : Flags, fl ||| f = f ↔ ∀ q, run q → (out q).2 ||| f = f) ∧
          (∀ q x, run q → x < w → Memory.read (mem u) (place (at_ q + x)) = BitVec.ofNat 8 ((out q).1 / 256 ^ x)) ∧
          (∀ a, (∀ q x, run q → x < w → a ≠ place (at_ q + x)) → Memory.read (mem u) a = Memory.read (mem s) a) ∧
          (ha.s = true → ∀ a, Memory.read u.hbm a = Memory.read s.hbm a) ∧
          (ha.s = false → ∀ a, Memory.read (u.core c).spad a = Memory.read k.spad a) ∧ ∀ a, (u.core c).tagOf a = k.tagOf a)))) ∧
    (∀ m, runs → i.kind = .mxZero m → k.mayWrite i ⟨.tile, m⟩ = true → ∃ u j, exec .matrixStep s = .next u ∧ BytesSame s u ∧
      (u.core c).item i.seq = some j ∧ j.finished = true ∧ j.failing = none ∧ (∀ n, n ≠ m → u.tile c n = s.tile c n) ∧
      (u.tile c m).owner = (s.tile c m).owner ∧ (u.tile c m).rows = (s.tile c m).rows ∧ (u.tile c m).cols = (s.tile c m).cols ∧
      ∀ r q, r < 32 → q < 32 → (u.tile c m).at_ r q = if r < (s.tile c m).rows ∧ q < (s.tile c m).cols then 0 else (s.tile c m).at_ r q) ∧
    (∀ t0, runs → i.kind = .mxGo t0 → (nestOf i.nest t0 ha (handleOf i.hb)).total ≤ i.progress →
      exec .matrixStep s = .next (s.setItem c { i with finished := true })) ∧
    (∀ (c k : Nat) (d a b fn : Reg) (lw : LW) (row : Bool), s.cur = .vec c k → (∀ r, r ∈ (s.slot c k).results → r.cells = none) →
      let w := Fmt.vwidth fn
      let t := s.tile c a.toNat
      let e := s.getS s.cur b
      let usable : Prop := t.owner = .ctx (s.ownerCtx s.cur) ∧ t.ending = false ∧ t.rows ≠ 0
      let lim := if row then t.rows else t.cols
      let len := if row then t.cols else t.rows
      let cell (j : Nat) : WA640 := if row then t.at_ e.toNat j else t.at_ j e.toNat
      let ard := if row then Instr.ardRow d a b fn lw else .ardCol d a b fn lw
      let awr := if row then Instr.awrRow d a b fn lw else .awrCol d a b fn lw
      VecReady s lw w [srcS b lw.tb, srcV d] →
      (¬ usable → Traps ard s .noacc (BitVec.ofNat 64 a.toNat) ∧ Traps awr s .noacc (BitVec.ofNat 64 a.toNat)) ∧
      (usable → lim ≤ e.toNat → Traps ard s .illegal e ∧ Traps awr s .illegal e) ∧
      (usable → e.toNat < lim → VecWrites ard s lw d w 2 6 (fun j =>
        if j < len then waRound (FpFmt.get fn.toNat) (s.rm s.cur lw.rm) (cell j) else (velem (s.getV s.cur d) w j, 0))) ∧
      (usable → e.toNat < lim →
        let put (j : Nat) : WA640 × Flags := waOfVal (readVal fn.toNat (velem (s.getV s.cur d) w j)).1
        (∀ j, j < len → laneEnabled s lw w j = true → (put j).2 &&& (s.ctx c (s.ownerCtx s.cur)).fte.setWidth 8 = 0) →
        ∃ cs fl, (∀ z, z ∈ cs ↔ ∃ j, j < len ∧ laneEnabled s lw w j = true ∧
            z = (if row then 32 * e.toNat + j else 32 * j + e.toNat, (put j).1)) ∧
          Retires awr s 2 ((((fresh s).occupyLanes c 2).orFsr s.cur fl).addResult s.cur ⟨false, 64, 0, s.now + 6, false, fl, 0,
            (s.prog s.cur).pc, (s.prog s.cur).pend, some (a.toNat, cs)⟩)))

/-- A bundle is the subtree at the pc and those after it in its line, at most four, up to the first with E = 1; one that E = 0 runs
past its line, its fourth subtree or a subtree traps ILLEGAL with the address of its first (R293, R294; a damaged or overlong one
traps as its own words do, log entry 42). A bundle whose registers are full issues as one instruction: every upward subtree's value is
that of its tree, every downward one's adjoints are added to its leaves in slot and leaf order, all from the registers as they stand;
its extra clocks are those of R299, and its results land 6 clocks after them, or the program traps FPX and they are dropped
(R293–R299). One that raises no enabled flag counts in its thread's `instret` (R294; against R17 the model's choice, log entry 76).
The larger child of a MAX node wins, of equal children the one whose representative has the smaller tie hash, and the left one where
the representatives are equal or, in FP32, a child is a NaN; its representative is the node's (R297). -/
def Obligations.ArcadeBundles : Prop :=
 (∀ (s : State) (c : Nat),
    let q := Seqr.arc c
    let a := s.arc c
    let f32 : FpFmt := FpFmt.fp32
    let op2 (t : Subtree) (o : Nat) (x y : Word) : Word × Flags :=
      let v := if t.sp then (if o = 1 then spSum t.rm x.toNat y.toNat else if o = 2 then spProd t.rm x.toNat y.toNat
          else spMax t.rm x.toNat y.toNat)
        else if o = 1 then fpAdd f32 t.rm (f32.decode x.toNat) (f32.decode y.toNat)
        else if o = 2 then fpMul f32 t.rm (f32.decode x.toNat) (f32.decode y.toNat) else fpMinMax f32 true x.toNat y.toNat
      (BitVec.ofNat 32 v.1, v.2)
    let node (t : Subtree) (n : Nat) (l r : Option ANode × Flags) : Option ANode × Flags :=
      let o := t.ops.getD n 0
      match l.1, r.1 with
      | none, y => (y, l.2 ||| r.2)
      | x, none => (x, l.2 ||| r.2)
      | some x, some y => if o = 0 then (some x, l.2 ||| r.2)
        else (some ⟨(op2 t o x.val y.val).1, if o = 3 ∧ leftWins t.sp a.seed x y = false then y.rep else x.rep⟩,
          l.2 ||| r.2 ||| (op2 t o x.val y.val).2)
    let reg (t : Subtree) (m : Nat) : Option Nat := (t.leaves.getD m none).map (fun o => ((SMap.get (0 : DWord) a.wb t.wsel).toNat + o) % 8192)
    let dst (t : Subtree) : Nat := ((SMap.get (0 : DWord) a.wb t.wsel).toNat + t.dst) % 8192
    let leaf (t : Subtree) (m : Nat) : Option ANode × Flags := ((reg t m).map (fun r => ⟨SMap.get 0 a.pv r, r⟩), 0)
    let n0 (t : Subtree) := node t 0 (leaf t 0) (leaf t 1)
    let n1 (t : Subtree) := node t 1 (leaf t 2) (leaf t 3)
    let n2 (t : Subtree) := node t 2 (leaf t 4) (leaf t 5)
    let n3 (t : Subtree) := node t 3 (leaf t 6) (leaf t 7)
    let n4 (t : Subtree) := node t 4 (n0 t) (n1 t)
    let n5 (t : Subtree) := node t 5 (n2 t) (n3 t)
    let root (t : Subtree) := node t 6 (n4 t) (n5 t)
    let down (t : Subtree) (n : Nat) (g : Option Word) (l r : Option ANode × Flags) : Option Word × Option Word × Flags :=
      let o := t.ops.getD n 0
      match g, l.1, r.1 with
      | none, _, _ => (none, none, 0)
      | some g, some _, none => (some g, none, 0)
      | some g, none, some _ => (none, some g, 0)
      | some _, none, none => (none, none, 0)
      | some g, some x, some y => if o = 0 then (some g, none, 0) else if o = 1 then (some g, some g, 0)
        else if o = 2 then (some (op2 t 2 g y.val).1, some (op2 t 2 g x.val).1, (op2 t 2 g y.val).2 ||| (op2 t 2 g x.val).2)
        else if leftWins t.sp a.seed x y then (some g, none, 0) else (none, some g, 0)
    let d6 (t : Subtree) := down t 6 (some (SMap.get 0 a.pa (dst t))) (n4 t) (n5 t)
    let d4 (t : Subtree) := down t 4 (d6 t).1 (n0 t) (n1 t)
    let d5 (t : Subtree) := down t 5 (d6 t).2.1 (n2 t) (n3 t)
    let d0 (t : Subtree) (n : Nat) := if n = 0 then down t 0 (d4 t).1 (leaf t 0) (leaf t 1)
      else if n = 1 then down t 1 (d4 t).2.1 (leaf t 2) (leaf t 3)
      else if n = 2 then down t 2 (d5 t).1 (leaf t 4) (leaf t 5) else down t 3 (d5 t).2.1 (leaf t 6) (leaf t 7)
    let adjoint (t : Subtree) (m : Nat) : Option Word := if m % 2 = 0 then (d0 t (m / 2)).1 else (d0 t (m / 2)).2.1
    let downFlags (t : Subtree) : Flags := (d6 t).2.2 ||| (d4 t).2.2 ||| (d5 t).2.2 ||| (d0 t 0).2.2 ||| (d0 t 1).2.2 ||| (d0 t 2).2.2 |||
      (d0 t 3).2.2
    let added (ts : List Subtree) (r : Nat) : Word × Flags := (ts.filter Subtree.down).foldl (fun v t => (List.range 8).foldl (fun v m =>
      match reg t m, adjoint t m with
      | some p, some g => if p = r then ((op2 t 1 v.1 g).1, v.2 ||| (op2 t 1 v.1 g).2) else v
      | _, _ => v) v) (SMap.get 0 a.pa r, 0)
    let used (t : Subtree) (r : Nat) : Prop := r = dst t ∨ ∃ m, m < 8 ∧ reg t m = some r
    let leafOf (ts : List Subtree) (dn : Bool) (r : Nat) : Bool := ts.any (fun t => (!dn || t.down) && (List.range 8).any (fun m => reg t m == some r))
    let bank (f : Nat → Bool) (b : Nat) : Nat := ((List.range 8192).filter (fun r => r % 16 == b && f r)).length
    let reads (ts : List Subtree) (r : Nat) : Bool := leafOf ts false r || ts.any (fun t => t.down && dst t == r)
    let dests (ts : List Subtree) (r : Nat) : Bool := ts.any (fun t => !t.down && dst t == r)
    let most (f : Nat → Bool) (x : Nat) : Prop := (∀ b, b < 16 → bank f b ≤ x + 2) ∧ (x = 0 ∨ ∃ b, b < 16 ∧ bank f b = x + 2)
    (∀ (e : BitVec 24) (w1 w2 w3 : Word) (dn : Bool) (ts : List Subtree), s.cur = q →
      let i := if dn then Instr.aspDn e w1 w2 w3 else .aspUp e w1 w2 w3
      let t := subtreeOf dn e w1 w2 w3
      let fte := (s.thread q).fte
      let p := a.prog
      let pc := p.pc
      let fetched (m : Nat) : Fetched := (s.setProg q { p with pc := pc + BitVec.ofNat 64 (16 * m), arrive := .plain }).fetch q 0
      let inLine (m : Nat) : Prop := (pc + BitVec.ofNat 64 (16 * m)).toNat / 4 % 32 ≠ 0
      let is (m : Nat) (u : Subtree) : Prop := ∃ e w1 w2 w3, fetched m = .ok (.aspUp e w1 w2 w3) ∧ u = subtreeOf false e w1 w2 w3 ∨
        fetched m = .ok (.aspDn e w1 w2 w3) ∧ u = subtreeOf true e w1 w2 w3
      -- the first subtrees of a bundle, none but the last with E = 1
      let run (us : List Subtree) : Prop := us.getD 0 t = t ∧ 1 ≤ us.length ∧ us.length ≤ 4 ∧
        (∀ m, 1 ≤ m → m < us.length → inLine m ∧ is m (us.getD m t)) ∧ ∀ m, m + 1 < us.length → (us.getD m t).last = false
      let mop := (s.iword q (pc + BitVec.ofNat 64 (16 * ts.length)).toNat).fMop.toNat
      let damaged (c : Cause) : Prop := c = .eccu ∨ c = .illen ∧ (mop = 0x80 ∨ mop = 0x81)
      (run ts → (ts.getD (ts.length - 1) t).last = true → s.bundle q t = .ok ts) ∧
      (run ts → (ts.getD (ts.length - 1) t).last = false →
        (ts.length = 4 ∨ ¬ inLine ts.length → Traps i s .illegal pc) ∧
        (ts.length < 4 → inLine ts.length →
          (∀ j, fetched ts.length = .ok j → (∀ u, ¬ is ts.length u) → Traps i s .illegal pc) ∧
          (∀ c v w, fetched ts.length = .bad c v w → (¬ damaged c → Traps i s .illegal pc) ∧ (damaged c → Traps i s c v)))) ∧
      (s.bundle q t = .ok ts → Stands s (4 * ts.length) .any →
        ((∃ t r, t ∈ ts ∧ used t r ∧ a.pEmpty r = true) → Stalls i s) ∧
        ((∀ t r, t ∈ ts → used t r → a.pEmpty r = false) →
          ∃ rd wr ad r, most (reads ts) rd ∧ most (leafOf ts true) ad ∧ wr = ((List.range 16).map (fun b => bank (dests ts) b - 1)).sum ∧
            let x := rd + wr + ad
            let s0 := (fresh s).setArc c { a with results := a.results ++ [r] }
            let s1 := if r.traps = 0 then s0.setThread q { s.thread q with instret := (s.thread q).instret + 1 } else s0
            r.due = s.now + x + 6 ∧ r.traps = r.flags &&& fte.setWidth 8 ∧ r.addr = p.pc ∧ r.pend = p.pend ∧
            r.vals = (ts.filter (fun t => !t.down)).map (fun t => (dst t, ((root t).1.map ANode.val).getD 0)) ∧
            (∀ n, SMap.get (SMap.get 0 a.pa n) r.adjs n = (added ts n).1) ∧
            (∀ n, n ∈ SMap.keys r.adjs ↔ leafOf ts true n = true ∧ n < 8192) ∧
            (∀ f : Flags, r.flags ||| f = f ↔ (∀ t, t ∈ ts → (root t).2 ||| f = f ∧ (t.down = true → downFlags t ||| f = f)) ∧
              ∀ n, n < 8192 → (added ts n).2 ||| f = f) ∧
            Retires i s (4 * ts.length) (if fte &&& 0xBD ≠ 0 then s1.holdOn q .longResult
              else if x = 0 then s1 else s1.holdFor q (1 + x))))) ∧
    (∀ r, s.target.core = c → a.results = [r] →
      let p := if a.prog.hold = some .longResult then { a.prog with hold := none } else a.prog
      let u := (s.setArc c { a with results := [], prog := p }).orFsr q r.flags
      let last (m : SMap Word) (l : List (Nat × Word)) : SMap Word := l.foldl (fun m e => SMap.set m e.1 e.2) m
      (s.now < r.due → exec .arcadeResultsLand s = .next s) ∧
      (r.due ≤ s.now → r.traps = 0 → exec .arcadeResultsLand s =
        .next (u.setArc c { a with results := [], prog := p, pv := last a.pv r.vals, pa := last a.pa r.adjs })) ∧
      (r.due ≤ s.now → r.traps ≠ 0 → exec .arcadeResultsLand s =
        .next (u.raise q ⟨.fpx, BitVec.ofNat 64 r.traps.toNat, r.addr, r.pend⟩)))) ∧
 (∀ (rm : Rm) (seed : DWord) (l r : ANode),
    let f (w : Word) : Val := FpFmt.fp32.decode w.toNat
    let h (n : ANode) : Nat := (tieHash seed (BitVec.ofNat 64 n.rep)).toNat
    let first : Prop := l.rep = r.rep ∨ h l < h r
    let rep (sp : Bool) : Option Nat := (aspNode sp rm seed 3 (some l) (some r)).1.map ANode.rep
    (∀ sp, rep sp = some (if leftWins sp seed l r then l.rep else r.rep)) ∧
    (Exact.cmp (spDecode l.val.toNat) (spDecode r.val.toNat) = .gt → leftWins true seed l r = true) ∧
    (Exact.cmp (spDecode l.val.toNat) (spDecode r.val.toNat) = .lt → leftWins true seed l r = false) ∧
    (Exact.cmp (spDecode l.val.toNat) (spDecode r.val.toNat) = .eq → (leftWins true seed l r = true ↔ first)) ∧
    ((f l.val).isNan = true ∨ (f r.val).isNan = true → leftWins false seed l r = true) ∧
    (∀ x y, f l.val = .fin x → f r.val = .fin y → (Exact.cmp x y = .gt → leftWins false seed l r = true) ∧
      (Exact.cmp x y = .lt → leftWins false seed l r = false) ∧ (Exact.cmp x y = .eq → (leftWins false seed l r = true ↔ first))))

/-- The Arcade's moves and preparations: `ASP.LD` and `ASP.ST` check their range, their alignment and their bound and make their one
access ⌈n × sz / 64⌉ clocks on; `ASP.CVT` and `ASP.CLRA` rewrite the halves of full registers; `ASP.WIN` and `ASP.SEED` set a window
base and the seed (R300–R304). The clocks of R195's bank conflicts are left out (log entry 27). -/
def Obligations.ArcadeMoves : Prop :=
  ∀ (s : State) (c : Nat) (d a b fn : Reg) (lw : LW), s.cur = .arc c →
    let q := s.cur
    let z := s.arc c
    let n := (s.getS q d).toNat
    let f := (s.getS q a).toNat
    let ea := (s.getS q b).toNat
    let sz := if fn = 2 then 8 else 4
    let inRange : Prop := n ≤ 8192 ∧ f + n ≤ 8192
    let aligned : Prop := ea % sz = 0
    let inPad : Prop := ea + n * sz ≤ 0xC0000
    let free : Prop := ∀ m, m < n → z.pEmpty (f + m) = false
    let clocks (m : Nat) (due : Nat) : Prop := m ≤ due ∧ (∀ l, l ∈ z.loads → l.due ≤ due) ∧ (due = m ∨ ∃ l, l ∈ z.loads ∧ l.due = due)
    (Stands s 1 .any → RegsReady s [srcS d, srcS a, srcS b] → ∀ i ∈ [Instr.aspLd d a b fn, .aspSt d a b fn],
      (¬ inRange → Traps i s .illegal (s.getS q a)) ∧ (inRange → n = 0 → Retires i s 1 (fresh s)) ∧
      (inRange → n ≠ 0 → ¬ aligned → Traps i s .align (s.getS q b)) ∧
      (inRange → n ≠ 0 → aligned → ¬ inPad → Traps i s .spbound (s.getS q b)) ∧
      (inRange → n ≠ 0 → aligned → inPad → ¬ free → Stalls i s) ∧
      (inRange → n ≠ 0 → aligned → inPad → free → ∃ due, clocks (s.now + (n * sz + 63) / 64) due ∧
        (i = .aspLd d a b fn → Retires i s 1 ((fresh s).setArc c { z with loads := z.loads ++ [⟨f, n, ea, fn.toNat, due⟩] })) ∧
        (i = .aspSt d a b fn → Retires i s 1 ((fresh s).holdOn q (.aspSt due f n ea fn.toNat))))) ∧
    (Stands s 2 .any → RegsReady s [srcS d, srcS a lw.ta] → GuardOn s lw →
      let i := Instr.aspCvt d a b fn lw
      let half (m : SMap Word) (r : Nat) : Word := SMap.get 0 m r
      let old (r : Nat) : Word := if fn.getLsbD 1 then half z.pa r else half z.pv r
      let new (r : Nat) : Nat × Flags := if fn.getLsbD 0 then FpFmt.fp32.round (s.rm q lw.rm) (spDecode (old r).toNat)
        else spOfVal (s.rm q lw.rm) (FpFmt.fp32.decode (old r).toNat)
      let fl := (List.range n).foldl (fun g m => g ||| (new (f + m)).2) (0 : Flags)
      let on := fl &&& (s.thread q).fte.setWidth 8
      (¬ inRange → Traps i s .illegal (s.getS q a)) ∧ (inRange → ¬ free → Stalls i s) ∧
      (inRange → free → on ≠ 0 → exec i s = .next (((fresh s).orFsr q fl).raise q ⟨.fpx, BitVec.ofNat 64 on.toNat, z.prog.pc, z.prog.pend⟩)) ∧
      (inRange → free → on = 0 → ∃ y : Arc, { y with pv := z.pv, pa := z.pa } = z ∧
        (∀ r, half (if fn.getLsbD 1 then y.pa else y.pv) r = if f ≤ r ∧ r < f + n then BitVec.ofNat 32 (new r).1 else old r) ∧
        (if fn.getLsbD 1 then y.pv = z.pv else y.pa = z.pa) ∧
        Retires i s 2 ((((fresh s).orFsr q fl).setArc c y).holdFor q ((n + 15) / 16)))) ∧
    (Stands s 2 .any → lw.g = true → RegsReady s [srcS lw.greg] → guardHolds lw (s.getS q lw.greg) = false →
      Retires (.aspCvt d a b fn lw) s 2 (fresh s)) ∧
    (Stands s 1 .any → RegsReady s [srcS d, srcS a] →
      (¬ inRange → Traps (.aspClra d a) s .illegal (s.getS q a)) ∧ (inRange → ¬ free → Stalls (.aspClra d a) s) ∧
      (inRange → free → ∃ m : SMap Word, (∀ r, SMap.get 0 m r = if f ≤ r ∧ r < f + n then 0 else SMap.get 0 z.pa r) ∧
        Retires (.aspClra d a) s 1 (((fresh s).setArc c { z with pa := m }).holdFor q ((n + 15) / 16)))) ∧
    (Stands s 1 .any → RegsReady s [srcS a] →
      (8192 ≤ f → Traps (.aspWin d a) s .illegal (s.getS q a)) ∧
      (f < 8192 → Retires (.aspWin d a) s 1 ((fresh s).setArc c { z with wb := SMap.set z.wb d.toNat (s.getS q a) })) ∧
      Retires (.aspSeed a) s 1 ((fresh s).setArc c { z with seed := s.getS q a })) ∧
    (∀ l, s.target.core = c → z.loads = [l] → l.due ≤ s.now →
      let w := if l.half = 2 then 8 else 4
      let word (r o : Nat) : Word := BitVec.ofNat 32 ((List.range 4).map (fun j =>
        (Memory.read (s.core c).spad (l.addr + (r - l.first) * w + o + j)).toNat * 256 ^ j)).sum
      let hit (r : Nat) : Prop := l.first ≤ r ∧ r < l.first + l.n
      ∃ y : Arc, { y with pv := z.pv, pa := z.pa } = { z with loads := [] } ∧ exec .aspLdFill s = .next (s.setArc c y) ∧
        (∀ r, SMap.get 0 y.pv r = if hit r ∧ l.half ≠ 1 then word r 0 else SMap.get 0 z.pv r) ∧
        (∀ r, l.half ≤ 2 → SMap.get 0 y.pa r = if hit r ∧ l.half ≠ 0 then word r (w - 4) else SMap.get 0 z.pa r)) ∧
    (∀ t first k addr half, s.target.core = c → s.target.unit = 28 → z.prog.hold = some (.aspSt t first k addr half) → half ≤ 2 →
      (s.core c).spad.wf = true →
      let w := if half = 2 then 8 else 4
      let bytes (m j : Nat) : Byte := BitVec.ofNat 8 ((if half = 1 ∨ (half = 2 ∧ 4 ≤ j) then SMap.get 0 z.pa (first + m)
        else SMap.get 0 z.pv (first + m)).toNat / 256 ^ (j % 4))
      (s.now < t → exec .holdCountExpiry s = .next s) ∧
      (t ≤ s.now → z.loads = [] → ∃ u, exec .holdCountExpiry s = .next u ∧ u.arc c = { z with prog := { z.prog with hold := none } } ∧
        (∀ m j, m < k → j < w → Memory.read (u.core c).spad (addr + m * w + j) = bytes m j) ∧
        ∀ e, e < addr ∨ addr + k * w ≤ e → Memory.read (u.core c).spad e = Memory.read (s.core c).spad e))

/-- `FLOW.LOAD` checks the place and the header of its image, answers the lowest code of R321 with the lowest record that fails it and
installs nothing, or installs every flow of the image for this core; with UNLOAD it removes the flows once their credits are back. The
flows of a core whose last thread has ended, none being saved, are removed in the same way (R320, R321, R366). The codes 3 to 7 are
the checks that the model names fieldsOk, keysBad, slotsBad, shapeOk and reaches, made of the rules that R321 names (R310, R314,
R316–R318). The port by which an entry's child comes is a free choice of log entry 59. The pushes of the flow unit stall on a full
queue 5, check their operands in order, and push their command; `MSG.PROBE`, `FLOW.REL` and `FLOW.STAT` answer in a register and hold
the thread for 2, 2 and 4 clocks (R217, R220, R250, R322–R324, R326, R327, R329). The model's choices: bit 63 of `FLOW.STAT` (log
entry 32) and its CAUSE (12), the pushes without a hold (24), the slots (28), the trap of a wrong scale page (16), and receives in MX
blocks (57). -/
def Obligations.FlowImagesAndCommands : Prop :=
 (∀ (s : State) (c x : Nat) (d a : Reg), s.cur = .thread c x → Stands s 1 .any → RegsReady s [srcS a, srcS d] →
    let i := Instr.flowLoad d a
    let m := (s.core c).spad
    let ea := (s.getS s.cur a).toNat
    let dw (k : Nat) : Nat := Memory.readN m (ea + 8 * k) 8
    let n := dw 1 % 2 ^ 32
    let header : Prop := dw 0 = 0x1574F4C46 ∧ dw 1 < 2 ^ 33 ∧ dw 2 = 0 ∧ dw 3 = 0 ∧ 1 ≤ n ∧ n ≤ 16384
    let idle (k : Nat) : Prop := s.lineBusy s.cur ea k = false
    let fits : Prop := ea % 32 = 0 ∧ ea + 31 ≤ 0xBFFFF
    let recs := (List.range n).map (fun j => s.flowRecord j [dw (4 + 4 * j), dw (5 + 4 * j), dw (6 + 4 * j), dw (7 + 4 * j)])
    let named (f : Nat) : Prop := ∃ r, r ∈ recs ∧ r.flow = f
    let mine (f : Nat) : Prop := ∃ r, s.flow f = some r ∧ r.owner = c
    let fails (code : Nat) (r : FRec) : Bool := match code with
      | 2 => (s.flow r.flow).isSome
      | 3 => !s.fieldsOk r
      | 4 => s.keysBad recs r
      | 5 => s.slotsBad recs r
      | 6 => !shapeOk (entriesFor recs r.flow)
      | 7 => s.portDead r.e || (isPlain (entriesFor recs r.flow) && !reaches (entriesFor recs r.flow) ((entriesFor recs r.flow).length + 1) r.e)
      | _ => false
    let first (bad : FRec → Bool) (r : FRec) : Prop := r ∈ recs ∧ bad r = true ∧ ∀ p, p ∈ recs → bad p = true → r.idx ≤ p.idx
    let whole : Prop := fits ∧ idle 32 ∧ header ∧ ea + 32 + 32 * n - 1 ≤ 0xBFFFF ∧ idle (32 + 32 * n)
    let unload : Prop := 2 ^ 32 ≤ dw 1
    let notMine (r : FRec) : Bool := match s.flow r.flow with
      | some z => z.owner != c
      | none => true
    (ea % 32 ≠ 0 → Traps i s .align (s.getS s.cur a)) ∧ (ea % 32 = 0 → 0xBFFFF < ea + 31 → Traps i s .spbound (s.getS s.cur a)) ∧
    (fits → idle 32 → ¬ header → WritesS i s 1 d 0x0100000000000000) ∧
    (fits → idle 32 → header → 0xBFFFF < ea + 32 + 32 * n - 1 → Traps i s .spbound (s.getS s.cur a)) ∧
    (∀ r, whole → unload → first notMine r → WritesS i s 1 d (BitVec.ofNat 64 (2 * 2 ^ 56 + r.idx))) ∧
    (whole → unload → (∀ f, named f → mine f ∧ s.flowIdle f = true) → ∃ t, exec i s = .next t ∧ BytesSame s t ∧
      t.getS s.cur d = 0 ∧ ∀ f, (named f → t.flow f = none) ∧ (¬ named f → t.flow f = s.flow f)) ∧
    (whole → unload → (∀ f, named f → mine f) → (∃ f, named f ∧ s.flowIdle f = false) →
      ∃ fs, (∀ f, f ∈ fs ↔ named f) ∧ exec i s = .next ((fresh s).holdOn s.cur (.flowUnload d.toNat fs))) ∧
    (∀ code r, whole → ¬ unload → (∀ k p, k < code → p ∈ recs → fails k p = false) → first (fails code) r →
      WritesS i s 1 d (BitVec.ofNat 64 (code * 2 ^ 56 + r.idx))) ∧
    (whole → ¬ unload → (∀ k p, p ∈ recs → fails k p = false) → ∃ t, exec i s = .next t ∧ BytesSame s t ∧ t.getS s.cur d = 0 ∧
      ∀ f, let es := entriesFor recs f
        (named f → ∃ via : FEntry → Option Nat,
          t.flow f = some { owner := c, entries := es.map (fun e => { s.freshEntry f es e with via := via e }) } ∧
          ∀ e, e ∈ es →
            let byPort : Prop := (∃ l, portLandOf e.land = some l) ∧ e.src = false ∧ ∀ x, x ∈ es → FTarget.next e.land e.cslot ∉ x.targets
            (¬ byPort → via e = none) ∧ (byPort → s.upPorts e.land = [] → via e = none) ∧
            (byPort → s.upPorts e.land ≠ [] → ∃ p, p ∈ s.upPorts e.land ∧ via e = some p)) ∧
        (¬ named f → t.flow f = s.flow f)) ∧
    (∀ (f l slot : Nat) (e x : FEntry) (es : List FEntry), FTarget.next l slot ∈ e.targets → es.find? (fun y => y.is l false slot) = some x →
      (s.freshEntry f es e).credit (.next l slot) = x.awin) ∧
    (∀ (f p : Nat) (e : FEntry) (es : List FEntry), FTarget.port p ∈ e.targets →
      (s.freshEntry f es e).credit (.port p) = (((s.port p).grants.filter (fun g => g.flow == f && g.cslot == e.ocslot)).map (fun g => g.n)).sum) ∧
    (SMap.wf s.flows = true → ∃ u, exec .flowAutoRemove s = .next u ∧ BytesSame s u ∧ ∀ f,
      let goes : Prop := (∃ r, s.flow f = some r ∧ r.owner = s.target.core ∧ r.leaving = true) ∧ s.flowIdle f = true
      (goes → u.flow f = none) ∧ (¬ goes → u.flow f = s.flow f)) ∧
    ∀ f r, s.flow f = some r →
      let last : Prop := r.owner = c ∧ (s.core c).savedCtxs = [] ∧ ∀ y t, (y, t) ∈ (s.core c).ctxs → y ≠ x → t.live = false
      (last → (s.freeCtx c x).flow f = some { r with leaving := true }) ∧ (¬ last → (s.freeCtx c x).flow f = some r)) ∧
 (∀ (s : State) (c x : Nat) (d a b : Reg), s.cur = .thread c x → Stands s 1 .any →
    let k := s.core c
    let v := s.getS s.cur a
    let n := v.toNat
    let h := handleOf (s.getH s.cur b)
    let pc := (s.ctx c x).prog.pc
    let full : Prop := 64 ≤ (k.items.filter (fun i => i.queue == 5)).length ∨
      384 ≤ (s.ctx c x).failed.length + (k.items.filter (fun i => i.owner == x)).length
    let total := h.ex.foldl (· * ·) 1 * h.width / 8
    let streams (elem : Nat) : Prop := h.s = true ∧ h.isMx = false ∧ 8 ≤ h.width ∧ total % elem = 0 ∧ total ≤ 2 ^ 27
    let pushed (i : Instr) (kind : ItemKind) (ps : List Page) (r w : List Granule) : Prop := Pushes i s c x 1 d (s.ctx c x).prog.hold (fun j =>
      j.rev = false ∧ j.pages = ps ∧ j.kind = kind ∧ j.queue = 5 ∧ j.failing = none ∧ j.posted = false ∧ j.hd = s.getH s.cur b ∧ j.x = v ∧ j.reads = r ∧ j.writes = w)
    let receives (i : Instr) (kind : ItemKind) (rec_ : Nat) : Prop :=
      let base := h.ranges false true
      let ps0 := (fresh s).peekPages c base
      let rs := base ++ scaleRanges ps0 h false true
      (0xBFFFF < rec_ + 15 → Traps i s .spbound (BitVec.ofNat 64 rec_)) ∧
      (rec_ + 15 ≤ 0xBFFFF → h.ok = false → Traps i s .illegal (BitVec.ofNat 64 b.toNat)) ∧
      (rec_ + 15 ≤ 0xBFFFF → h.ok = true → (∀ va, lowestOffGrid ps0 [h] = some va → Traps i s .align (BitVec.ofNat 64 va)) ∧
        (lowestOffGrid ps0 [h] = none → (∀ cs va, walkFoot c rs (pageBound rs) (fresh s) 0 = .trap cs va → Traps i s cs va) ∧
          ∀ ps s1, walkFoot c rs (pageBound rs) (fresh s) 0 = .pages ps s1 →
            (1536 < ps.length → Traps i s .illegal (BitVec.ofNat 64 ps.length)) ∧
            (ps.length ≤ 1536 → s1.pinsStall c ps = true → Stalls i s) ∧
            (ps.length ≤ 1536 → s1.pinsStall c ps = false → (∀ va, badScalePage ps [h] = some va → Traps i s .prot (BitVec.ofNat 64 va)) ∧
              (badScalePage ps [h] = none → (∀ va, lowestOnD ps base = some va → Traps i s .dwrite (BitVec.ofNat 64 va)) ∧
                (lowestOnD ps base = none → pushed i kind ps [] (rngGranules ps rs ++ h.spadGranules ++ [⟨.spad, rec_ / 128⟩]))))))
    (RegsReady s [srcS a, srcH b, srcS d] →
      let snd := Instr.flowSend d a b
      let rcv := Instr.flowRecv d a b
      let source : Prop := ∃ r e, s.flow n = some r ∧ e ∈ r.entries ∧ e.src = true ∧ e.lcore = some c
      let sizeOk : Prop := ∃ r, s.flow n = some r ∧ streams r.elemSize
      let f := n % 2 ^ 12
      let there : Prop := ∃ r e, s.flow f = some r ∧ e ∈ r.entries ∧ e.lcore = some c ∧ FTarget.here ∈ e.targets
      let rcvBad : Prop := n / 2 ^ 12 % 2 ^ 20 ≠ 0 ∨ n / 2 ^ 52 ≠ 0 ∨ n / 2 ^ 32 % 16 ≠ 0
      let postBad : Prop := n / 2 ^ 41 % 8 ≠ 0 ∨ n / 2 ^ 44 % 16 ≠ 0
      (full → Stalls snd s ∧ Stalls rcv s ∧ Stalls (.msgSend d a b) s ∧ Stalls (.msgPost d a b) s) ∧
      (¬ full →
        (4096 ≤ n → Traps snd s .illegal v) ∧ (n < 4096 → ¬ source → Traps snd s .illegal v) ∧
        (n < 4096 → source → h.ok = false → Traps snd s .illegal (BitVec.ofNat 64 b.toNat)) ∧
        (n < 4096 → source → h.ok = true → ¬ sizeOk → Traps snd s .illegal pc) ∧
        (n < 4096 → source → h.ok = true → sizeOk → pushed snd (.flowSend n) [] h.spadGranules []) ∧
        (rcvBad → Traps rcv s .illegal v) ∧ (¬ rcvBad → ¬ there → Traps rcv s .illegal (BitVec.ofNat 64 f)) ∧
        (¬ rcvBad → there → receives rcv (.flowRecv f) (n / 2 ^ 32)) ∧
        (2 ^ 24 ≤ n → Traps (.msgSend d a b) s .illegal v) ∧
        (n < 2 ^ 24 → h.ok = false → Traps (.msgSend d a b) s .illegal (BitVec.ofNat 64 b.toNat)) ∧
        (n < 2 ^ 24 → h.ok = true → ¬ streams 1 → Traps (.msgSend d a b) s .illegal pc) ∧
        (n < 2 ^ 24 → h.ok = true → streams 1 → pushed (.msgSend d a b) .msgSend [] h.spadGranules []) ∧
        (postBad → Traps (.msgPost d a b) s .illegal v) ∧ (¬ postBad → receives (.msgPost d a b) .msgPost (n / 2 ^ 44)))) ∧
    (RegsReady s [srcS a, srcS b, srcS d] →
      let i := Instr.msgProbe d a b
      let sel := (s.getS s.cur b).toNat
      let matches_ (r : Pkt) : Prop := r.tag &&& (n / 2 ^ 16 % 2 ^ 16) = n % 2 ^ 16 &&& (n / 2 ^ 16 % 2 ^ 16) ∧
        (n / 2 ^ 40 % 2 = 1 ∨ r.slc = n / 2 ^ 32 % 2 ^ 8)
      (n / 2 ^ 41 % 8 ≠ 0 → Traps i s .illegal v) ∧ (n / 2 ^ 41 % 8 = 0 → 1 < sel → Traps i s .illegal (s.getS s.cur b)) ∧
      (n / 2 ^ 41 % 8 = 0 → sel = 0 →
        ((∀ r, r ∈ k.overflow → ¬ matches_ r) → WritesSHeld i s 1 d 0 2) ∧
        (∀ l r m, k.overflow = l ++ r :: m → (∀ p, p ∈ l → ¬ matches_ p) → matches_ r → r.slc < 256 → r.tag < 2 ^ 16 → r.mlen < 2 ^ 32 →
          WritesSHeld i s 1 d (BitVec.ofNat 64 (2 ^ 63 + r.slc * 2 ^ 48 + r.tag * 2 ^ 32 + r.mlen)) 2)) ∧
      (n / 2 ^ 41 % 8 = 0 → sel = 1 → k.nacked < 2 ^ 32 → Retires i s 1 ((((fresh s).setCore c { k with nacked := 0 }).setS s.cur d
        (if k.nacked = 0 then 0 else BitVec.ofNat 64 (2 ^ 63 + k.nacked))).holdFor s.cur 2))) ∧
    (RegsReady s [srcS a, srcS d] →
      (4096 ≤ n → Traps (.flowRel d a) s .illegal v ∧ Traps (.flowStat d a) s .illegal v) ∧
      (n < 4096 → s.flow n = none → WritesSHeld (.flowRel d a) s 1 d 0 2 ∧ WritesSHeld (.flowStat d a) s 1 d 0 4) ∧
      (∀ r, n < 4096 → s.flow n = some r →
        let held (e : FEntry) : Bool := e.action == 3 && !e.src && e.lcore == some c
        let count := ((r.entries.filter held).map (fun e => (e.slots.filter (fun p => !p.released)).length)).sum
        let free (e : FEntry) : FEntry := if held e then { e with slots := e.slots.map (fun p => { p with released := true }) } else e
        let st := SMap.get (0, 0) r.stats (s.landOf c)
        Retires (.flowRel d a) s 1 (((((fresh s).setFlow n { r with entries := r.entries.map free }).runFlow n).setS s.cur d
          (BitVec.ofNat 64 count)).holdFor s.cur 2) ∧
        (r.broken = false → st.1 < 256 → st.2 < 2 ^ 32 →
          WritesSHeld (.flowStat d a) s 1 d (BitVec.ofNat 64 ((if ∃ e, e ∈ r.entries ∧ e.lcore = some c then 2 ^ 63 else 0) +
            (if r.owner = c then 2 ^ 62 else 0) + st.1 * 2 ^ 48 + st.2)) 4))))

/-- Combining takes payloads element by element, an absent element leaving the other; a transpose interleaves its children; the blocks
of a scan stack are those of the binary decomposition; a COMBINE node waits for each child that has not ended, and sends what its
children combine to everywhere its entry says; a child across a port that went down counts as a failed last chunk (R312, R314, R317,
R318, R389; log entry 64). A FORWARD or DUPLICATE entry sends its packet on as it came, to each place its entry says, and so does a
HOLD entry once `FLOW.REL` has released it; LAST ends the round on the last packet of a scan stack and on one of level 0 (R309, R312,
R313, R326; log entry 58). `SMX` combines online-softmax pairs: the maximum of the two, and the sum of each s times the exponential of
its distance from the maximum, with the NaN and infinity rules; the exponential of an exact difference is log entry 9's (R314, R315).
Packets on their way: running sends take turns; each reads its next chunk from the scratchpad in access units, under its swizzle and
tags, and injects it against its credits; packets of one channel from one place to another arrive in order, a flow packet joins the
slots of its entry, and a credit reaches the producer (R21, R199, R308, R311, R322, R323, R391). That a failure of a chunk counts at
the sending landing is log entry 12's. What a peer sends by a port is taken in sequence only: a data packet joins the entry at the
port's landing that it matches, and without a match is discarded and its sender told; credits reach the entry that sends there, and
those that come before it is installed are kept; a removal notice discards the credits held for the peer's entry; a chunk that the
peer discarded, the oldest of its number that was sent there and not answered, fails with LINK at its senders of that round (R309,
R327, R344, R388, R390, R391). Where that failure counts is log entry 12's. -/
def Obligations.FlowElementsAndPackets : Prop :=
 ((∀ (op : Nat) (rm : Rm) (x y : Chunk), op ≤ 5 →
    let z := flowElem 2 op
    let o := combineChunks op rm x y
    let n := max (x.data.length / z) (y.data.length / z)
    let at_ (l : List Byte) (e : Nat) : Nat := natOfBytes ((l.drop (e * z)).take z)
    let has (l : List Byte) (e : Nat) : Prop := (e + 1) * z ≤ l.length
    let both (e : Nat) := combineElem op rm (at_ x.data e) (at_ y.data e)
    o.data.length = n * z ∧ o.fail = (if x.fail = none then y.fail else x.fail) ∧
    (∀ e, has x.data e → has y.data e → at_ o.data e = (both e).1 % 2 ^ (8 * z)) ∧
    (∀ e, has x.data e → ¬ has y.data e → at_ o.data e = at_ x.data e) ∧
    (∀ e, ¬ has x.data e → has y.data e → at_ o.data e = at_ y.data e) ∧
    (∀ f : Flags, o.flags ||| f = f ↔ x.flags ||| f = f ∧ y.flags ||| f = f ∧ ∀ e, has x.data e → has y.data e → (both e).2 ||| f = f)) ∧
  (∀ (rm : Rm) (x y : Nat), combineElem 0 rm x y = fpAdd FpFmt.fp32 rm (FpFmt.fp32.decode x) (FpFmt.fp32.decode y) ∧
    combineElem 1 rm x y = fpAdd FpFmt.bf16 rm (FpFmt.bf16.decode x) (FpFmt.bf16.decode y) ∧
    combineElem 2 rm x y = fpMinMax FpFmt.fp32 true x y ∧ combineElem 3 rm x y = fpMinMax FpFmt.fp32 false x y ∧
    combineElem 4 rm x y = (x ^^^ y, 0)) ∧
  (∀ p : Pkt, p.ends = true ↔ p.last = true ∧ (p.send = true ∨ p.slvl = 0)) ∧
  -- the rounds that a flow has begun (R389)
  (∀ r : FlowRec, (∀ n, r.rounds ≤ n ↔ ∀ e, e ∈ r.entries → (if r.began e then e.round + 1 else e.round) ≤ n) ∧ ∀ e, r.began e = true ↔
    e.pos ≠ 0 ∨ e.done = true ∨ (if e.src then 0 else (((primary (r.node e) e).frees.filter (fun x => x.1 == e.cslot)).map Prod.snd).sum) < e.slots.length) ∧
  (∀ (r : FlowRec) (f : Nat) (e w : FEntry), e.src = false → w ∈ r.node e → w.done = false → w.slots = [] → w.dead = true → w.round ≠ w.deadAt →
    r.rounds ≤ w.round → r.form f e = none) ∧
  (∀ (z : Nat) (cs : List Chunk) (j m i : Nat), 0 < z → i < z → m < cs.length →
    let o := transposeChunks z cs
    (∀ c, c ∈ cs → c.data.length ≤ (j + 1) * z) → (∃ c, c ∈ cs ∧ j * z < c.data.length) →
    o.data.length = (j + 1) * cs.length * z ∧
      ∀ p, p ≤ j → o.data.getD ((p * cs.length + m) * z + i) 0 = (cs.getD m {}).data.getD (p * z + i) 0) ∧
  (∀ (op : Nat) (rm : Rm) (i : Nat) (st : List (Nat × Chunk)) (own : Chunk), i + 1 < 2 ^ 32 → st.map Prod.fst = scanLevels i →
    (scanPush op rm st.reverse (0, own)).reverse.map Prod.fst = scanLevels (i + 1)) ∧
  (∀ (r : FlowRec) (f : Nat) (e w : FEntry), e.action = 2 → e.src = false → w ∈ r.node e → w.done = false → w.dead = false → w.slots = [] →
    r.form f e = none) ∧
  (∀ (r : FlowRec) (f : Nat) (e w : FEntry) (p : Pkt) (ps : List Pkt), e.action = 2 → e.src = false → r.node e = [e, w] → e.cslot < w.cslot →
    e.done = false → w.done = false → e.slots = p :: ps → w.slots = [] → w.dead = true → w.round = w.deadAt ∨ w.round < r.rounds → e.sends = [] → e.frees = [] →
    r.fails e = false →
    let o := combineChunks e.op (rmOfNat e.rm) { data := p.data, flags := p.flags, fail := p.fail } { fail := some .link }
    ∃ r1 e1, r.form f e = some r1 ∧ r1.entry e.land false e.cslot = some e1 ∧ e1.frees = [(e.cslot, 1)] ∧
      e1.sends.map Prod.fst = e.targets ∧
      ∀ x, x ∈ e1.sends → x.2.data = o.data ∧ x.2.fail = (if p.fail = none then some .link else p.fail) ∧ x.2.last = p.ends ∧ x.2.send = false) ∧
  ∀ (r : FlowRec) (f : Nat) (e w : FEntry) (p q : Pkt) (ps qs : List Pkt), e.action = 2 → e.src = false → r.node e = [e, w] →
    e.cslot < w.cslot → e.done = false → w.done = false → e.slots = p :: ps → w.slots = q :: qs → e.sends = [] → e.frees = [] →
    r.broken = false →
    let o := combineChunks e.op (rmOfNat e.rm) { data := p.data, flags := p.flags, fail := p.fail } { data := q.data, flags := q.flags, fail := q.fail }
    let out : Pkt := { kind := .data, src := e.land, dst := 0, flow := f, cslot := e.ocslot, chunk := e.pos, last := p.ends && q.ends
                       fromSrc := false, fromSlot := e.cslot, slvl := 0, send := false, round := e.round, data := o.data, flags := o.flags, fail := o.fail }
    ∃ r1 e1, r.form f e = some r1 ∧ r1.entry e.land false e.cslot = some e1 ∧ e1.sends = e.targets.map (fun t => (t, out)) ∧
      e1.frees = [(e.cslot, 1), (w.cslot, 1)] ∧ e1.pos = (if p.ends && q.ends then 0 else e.pos + 1)) ∧
 (∀ (r : FlowRec) (f : Nat) (e : FEntry) (p : Pkt) (ps : List Pkt), e.action = 0 ∨ e.action = 1 ∨ e.action = 3 → e.src = false → e.done = false →
    e.slots = p :: ps → e.sends = [] → e.frees = [] → r.broken = false → r.entry e.land false e.cslot = some e →
    let out : Pkt := { kind := .data, src := e.land, dst := 0, flow := f, cslot := e.ocslot, chunk := p.chunk, last := p.last
                       fromSrc := false, fromSlot := e.cslot, slvl := p.slvl, send := p.send, round := e.round, data := p.data, flags := p.flags, fail := p.fail }
    (e.action = 3 → p.released = false → r.form f e = none) ∧
    (e.action ≠ 3 ∨ p.released = true → ∃ r1 e1, r.form f e = some r1 ∧ r1.entry e.land false e.cslot = some e1 ∧
      e1.sends = e.targets.map (fun t => (t, out)) ∧ e1.frees = [(e.cslot, 1)] ∧ e1.slots = e.slots ∧
      e1.pos = (if p.last && (p.send || p.slvl == 0) then 0 else e.pos + 1))) ∧
 (∀ (rm : Rm) (m1 s1 m2 s2 : Nat), m1 < 2 ^ 32 → s1 < 2 ^ 32 → m2 < 2 ^ 32 → s2 < 2 ^ 32 →
    let f := FpFmt.fp32
    let m := (fpMinMax f true m1 m2).1
    let gives (a b : Nat) (fl : Flags) : Prop := combineElem 5 rm (m1 + 2 ^ 32 * s1) (m2 + 2 ^ 32 * s2) = (a + 2 ^ 32 * b, fl)
    let isNan (x : Nat) : Prop := ∃ sg, f.decode x = .nan sg
    let quiet : Prop := ¬ isNan m1 ∧ ¬ isNan s1 ∧ ¬ isNan m2 ∧ ¬ isNan s2
    let signals : Prop := ∃ x, x ∈ [m1, s1, m2, s2] ∧ f.decode x = .nan true
    (¬ quiet → signals → gives 0x7FC00000 0x7FC00000 Flags.nv) ∧ (¬ quiet → ¬ signals → gives 0x7FC00000 0x7FC00000 0) ∧
    (quiet → f.decode m = .inf true → gives m (fpAdd f rm (f.decode s1) (f.decode s2)).1 (fpAdd f rm (f.decode s1) (f.decode s2)).2) ∧
    (∀ a b, quiet → f.decode m = .inf false → (f.decode m1 = .inf false → a = f.decode s1) → (f.decode m1 ≠ .inf false → a = .fin (Exact.zero false)) →
      (f.decode m2 = .inf false → b = f.decode s2) → (f.decode m2 ≠ .inf false → b = .fin (Exact.zero false)) → gives m (fpAdd f rm a b).1 (fpAdd f rm a b).2) ∧
    (∀ mx e1 e2 f1 f2, quiet → f.decode m = .fin mx →
      let factor (x e : Nat) (fl : Flags) : Prop :=
        (f.decode x = f.decode m → e = 0x3F800000 ∧ fl = 0) ∧ (f.decode x = .inf true → e = 0 ∧ fl = 0) ∧
        ∀ a, f.decode x = .fin a → (e, fl) = expOf rm (Exact.add a { mx with neg := !mx.neg } false)
      factor m1 e1 f1 → factor m2 e2 f2 →
      (∀ p q, mulVal (f.decode s1) (f.decode e1) = some p → mulVal (f.decode s2) (f.decode e2) = some q → p.isNan = false → q.isNan = false →
        gives m (fpAdd f rm p q).1 (f1 ||| f2 ||| (fpAdd f rm p q).2)) ∧
      (mulVal (f.decode s1) (f.decode e1) = none ∨ mulVal (f.decode s2) (f.decode e2) = none →
        gives m 0x7FC00000 (f1 ||| f2 ||| Flags.nv)))) ∧
 (∀ (s : State) (c : Nat),
    (∀ p l m, s.packets = l ++ p :: m → (∀ o, o ∈ l → o.id ≠ p.id) → (∀ o, o ∈ m → o.id ≠ p.id) →
      let behind : Prop := ∃ o, o ∈ l ∧ o.kind.vc = p.kind.vc ∧ o.src = p.src ∧ o.dst = p.dst
      let s1 : State := { s with packets := l ++ m }
      (behind → s.arrival p.id = none) ∧ (¬ behind → s.arrival p.id = some p) ∧
      (¬ behind → s.target.id = p.id → s.target.unit = 0 →
        (∀ r e, p.kind = .data → s.flow p.flow = some r → r.entry p.dst false p.cslot = some e →
          exec .flowPacketArrive s = .next ((s1.setFlow p.flow (r.setEntry { e with slots := e.slots ++ [p] })).runFlow p.flow)) ∧
        (∀ i, p.kind = .payload → s.item p.lc p.peer = some i →
          exec .flowPacketArrive s = .next (s1.setItem p.lc { i with inbox := i.inbox ++ [p] })) ∧
        (∀ r e, p.kind = .credit → s.flow p.flow = some r → r.entry p.dst p.fromSrc p.fromSlot = some e →
          exec .flowCreditArrive s =
            .next ((s1.setFlow p.flow (r.setEntry (e.addCredit (.next p.src p.cslot) p.chunk))).runFlow p.flow)))) ∧
    (∀ (e : FEntry) (t : FTarget) (n : Nat), (e.addCredit t n).credit t = e.credit t + n ∧ ∀ o, o ≠ t → (e.addCredit t n).credit o = e.credit o) ∧
    (∀ e : FEntry, ∀ i r f, s.target.core = c → s.item c s.target.id = some i → s.away.contains c = false → i.kind = .flowSend f →
      s.flow f = some r → s.sourceOf c f = some e → (∀ j, j ∈ (s.core c).items → j.seq = i.seq → j = i) →
      let k := s.core c
      let open_ (r : FlowRec) (x : FEntry) (t : FTarget) : Prop :=
        t = .here ∨ (∃ q, t = .port q ∧ ((s.port q).up = false ∨ q ∈ r.lost)) ∨ 0 < x.credit t
      let can (j : Item) : Prop := j.running = true ∧ j.finished = false ∧ j.failing = none ∧
        ((∃ g z x, j.kind = .flowSend g ∧ s.flow g = some z ∧ s.sourceOf c g = some x ∧ x.sends = [] ∧ ∀ t, t ∈ x.targets → open_ z x t) ∨
          j.kind = .msgSend ∧ j.posted = true)
      let turn : Prop := can i ∧ ∀ j, j ∈ k.items → can j → j.seq ≠ i.seq →
        (k.lastSend < i.seq → j.seq ≤ k.lastSend ∨ i.seq < j.seq) ∧ (i.seq ≤ k.lastSend → j.seq ≤ k.lastSend ∧ i.seq < j.seq)
      let s1 := s.setCore c { k with lastSend := i.seq }
      let i1 : Item := if r.fails e then { i with chunkFail := i.chunkFail.or (some .link) } else i
      let z := s.nextChunk c i1
      let pkt : Pkt := { z.1 with flow := f, cslot := e.ocslot, fromSrc := true, fromSlot := e.cslot, round := e.round }
      let r1 := r.setEntry { e with sends := e.targets.map (fun t => (t, pkt)), pos := if z.1.last then 0 else e.pos + 1
                                    round := if z.1.last then e.round + 1 else e.round }
      let whole : Prop := i1.chunkFail ≠ none ∨ i.carry.length = min 2048 ((handleOf i.hd).totalBytes - 2048 * i.progress)
      (r.fails e = true ↔ r.broken = true ∧ r.brokenAt ≤ e.round) ∧
      (¬ turn → exec .chunkInject s = .next s) ∧ (turn → s.target.unit ≠ 1 → ¬ whole → exec .chunkInject s = .next s) ∧
      (turn → s.target.unit ≠ 1 → whole → exec .chunkInject s = .next (((s1.setFlow f (match z.1.fail with
        | some x => r1.noteFail e.land x
        | none => r1)).setItem c { z.2 with round := e.round }).runFlow f)) ∧
      (turn → s.target.unit = 1 →
        let h := handleOf i.hd
        let n0 := 2048 * i.progress
        let n := n0 + s.target.size
        let past := n0 + min 2048 (h.totalBytes - n0)
        let has (b : Nat) : Prop := ∃ v, (b, v) ∈ i.carry
        let unit (b : Nat) : Nat := h.streamAddr b / 16
        let may : Prop := i.chunkFail = none ∧ n < past ∧ ¬ has n ∧ (s.target.size = 0 ∨ has (n - 1) ∨ unit (n - 1) ≠ unit n)
        let takes (b : Nat) : Prop := n ≤ b ∧ b < past ∧ ∀ y, n ≤ y → y ≤ b → unit y = unit n ∧ ¬ has y
        let wrong : Prop := ∃ b, takes b ∧ h.streamAddr b / 2048 ∉ i.seen ∧ k.tagOf (h.streamAddr b / 2048) ≠ h.swz
        (¬ may → exec .chunkInject s = .next s) ∧
        (may → wrong → exec .chunkInject s = .next (s.setItem c { i with chunkFail := some .swizzle })) ∧
        (may → ¬ wrong → ∃ j : Item, exec .chunkInject s = .next (s.setItem c j) ∧ { j with seen := i.seen, carry := i.carry } = i ∧
          (∀ b v, (b, v) ∈ j.carry ↔ (b, v) ∈ i.carry ∨ takes b ∧ v = Memory.read k.spad (swzAddr h.swz (h.streamAddr b))) ∧
          ∀ y, y ∈ j.seen ↔ y ∈ i.seen ∨ ∃ b, takes b ∧ y = h.streamAddr b / 2048))) ∧
    ∀ i : Item, 0 < (handleOf i.hd).totalBytes →
      let z := s.nextChunk c i
      let last : Prop := i.progress + 1 = ((handleOf i.hd).totalBytes + 2047) / 2048
      z.1.kind = .data ∧ z.1.chunk = i.progress ∧ (z.1.last = true ↔ last) ∧ z.1.fail = i.chunkFail ∧ z.2.progress = i.progress + 1 ∧
      z.2.carry = [] ∧ (i.chunkFail = none → z.1.data = i.carry.map Prod.snd ∧ z.2.failing = none ∧ (z.2.finished = true ↔ last)) ∧
      (i.chunkFail ≠ none → z.1.data = [] ∧ z.2.finished = false ∧ (last → z.2.failing = i.chunkFail))) ∧
 ((∀ bs : List Byte, let p := peerPkt bs
    let a := natOfBytes (bs.take 8)
    let b := natOfBytes ((bs.drop 8).take 8)
    p.kind = .data ∧ p.dst = a / 0x200000000000 % 0x400 ∧ p.src = a / 0x800000000 % 0x400 ∧ p.cslot = a / 0x80000000 % 16 ∧ p.flow = a / 0x80000 % 0x1000 ∧
    p.chunk = a / 8 % 0x10000 ∧ (p.last = true ↔ a / 4 % 2 = 1) ∧ (p.fail = none ↔ a / 2 % 2 = 0) ∧ p.ddev = b / 0x10000000000000 ∧
    p.sdev = b / 0x10000000000 % 0x1000 ∧ p.flags.toNat = b / 0x1000000 % 256 ∧ p.slvl = b / 0x80000 % 32 ∧ (p.send = true ↔ b / 0x40000 % 2 = 1) ∧
    p.data = (bs.drop 128).take (b % 0x1000)) ∧
  ∀ s : State, s.target.unit = 1 →
    let q := s.target.core
    let f := s.target.id
    let slot := s.target.value.toNat
    let x := s.port q
    let inSeq : Prop := x.up = true ∧ s.target.seq = x.rxSeq
    let took (n : Nat) : Port := { x with rxSeq := (x.rxSeq + n) % 4096, rxFail := (0, 0) }
    let p := peerPkt s.target.data
    let land := portLand (q / 4)
    let s1 := s.setPort q (took (1 + (p.data.length + 127) / 128))
    let feeds (r : FlowRec) (e : FEntry) : Prop := ∃ l m, r.entries = l ++ e :: m ∧ FTarget.port q ∈ e.targets ∧ e.ocslot = slot ∧
      ∀ y, y ∈ l → FTarget.port q ∈ y.targets → y.ocslot ≠ slot
    let keeps (r : FlowRec) (e : FEntry) : FEntry := primary (r.node e) e
    let unmatched : Prop := s.flow f = none ∨ ∃ r, s.flow f = some r ∧ ∀ y, y ∈ r.entries → FTarget.port q ∈ y.targets → y.ocslot ≠ slot
    (¬ inSeq → exec .flowPacketArrive s = .next s ∧ exec .flowCreditArrive s = .next s ∧ exec .removalNoticeArrive s = .next s ∧
      exec .nackArrive s = .next s) ∧
    (∀ r e, inSeq → s.flow p.flow = some r → r.entry land false p.cslot = some e → exec .flowPacketArrive s =
      .next ((s1.setFlow p.flow (r.setEntry { e with slots := e.slots ++ [p], via := some q })).runFlow p.flow)) ∧
    (inSeq → (s.flow p.flow = none ∨ ∃ r, s.flow p.flow = some r ∧ r.entry land false p.cslot = none) →
      ∃ u, exec .flowPacketArrive s = .next u ∧ u.flows = s.flows ∧ BytesSame s u ∧ ∃ n, (u.port q).out = x.out ++ [n] ∧ n.kind = .nack ∧
        n.flow = p.flow ∧ n.cslot = p.cslot ∧ n.chunk = p.chunk ∧ n.fail = some .link) ∧
    (∀ r e, inSeq → s.flow f = some r → feeds r e → exec .flowCreditArrive s =
      .next (((s.setPort q (took 1)).setFlow f (r.setEntry { (keeps r e).addCredit (.port q) s.target.size with
        sent := (keeps r e).sent.filter (fun x => x.port != q) ++ ((keeps r e).sent.filter (fun x => x.port == q)).drop s.target.size })).runFlow f)) ∧
    (inSeq → unmatched → exec .flowCreditArrive s =
      .next ((s.setPort q (took 1)).setPort q { took 1 with grants := x.grants ++ [⟨f, slot, s.target.size⟩] })) ∧
    (inSeq → ∃ u, exec .removalNoticeArrive s = .next u ∧ BytesSame s u ∧ (u.port q).grants = x.grants.filter (fun g => g.flow != f) ∧
      (∀ g, g ≠ f → u.flow g = s.flow g) ∧ (s.flow f = none → u.flow f = none) ∧
      ∀ r, s.flow f = some r → ∃ r1, u.flow f = some r1 ∧ ∀ e, e ∈ r1.entries → e.credit (.port q) = 0) ∧
    (∀ r e, inSeq → s.flow f = some r → feeds r e →
      let e1 := keeps r e
      ((∀ x, x ∈ e1.sent → x.port ≠ q ∨ x.chunk ≠ s.target.size) → exec .nackArrive s = .next (s.setPort q (took 1))) ∧
      ∀ (l m : List Sent) (x : Sent), e1.sent = l ++ x :: m → x.port = q → x.chunk = s.target.size → (∀ o, o ∈ l → o.port ≠ q ∨ o.chunk ≠ s.target.size) →
        let fed (y : FEntry) : Prop := y ∈ r.entries ∧ y.src = true ∧ leadsTo r.entries (r.node e1) (r.entries.length + 1) y = true
        -- the sends of the round that have injected the chunk
        let hit (d : Nat) (j : Item) : Prop := (∃ y, fed y ∧ y.lcore = some d) ∧ j.running = true ∧ j.kind = .flowSend f ∧ j.round = x.round ∧ x.chunk < j.progress
        ∃ u r1, exec .nackArrive s = .next u ∧ u.flow f = some r1 ∧ r1.entries = (r.setEntry { e1 with sent := e1.sent.erase x }).entries ∧
          (SMap.get (0, 0) r1.stats e1.land).1 = 0x24 ∧ (SMap.get (0, 0) r1.stats e1.land).2 = (SMap.get (0, 0) r.stats e1.land).2 ∧
          (∀ y, fed y → (SMap.get (0, 0) r1.stats y.land).1 = 0x24) ∧
          ∀ d j, s.item d j.seq = some j → (¬ hit d j → u.item d j.seq = some j) ∧
            (hit d j → ∃ j1, u.item d j.seq = some j1 ∧ (j.finished = true → j1.finished = false ∧ j1.failing ≠ none) ∧ (j.finished = false → j1.chunkFail ≠ none))) ∧
    (inSeq → unmatched → exec .nackArrive s = .next (s.setPort q (took 1))))

/-- The message protocol and deliveries: a request takes the oldest posted receive that matches, else joins the overflow queue, else
is nacked; a post takes the oldest matching request or is posted; a go lets the send stream its payload and a nack fails it; a chunk
is written into the receive's buffer in the scratchpad or in global memory, one access unit or MX block at a time in any order, and
after the last chunk its record (R142, R198, R240, R255, R324, R325, R328, R329). The first nack since MSGOVF was taken makes it
pending in the lowest live context (R347; log entry 68). That a failed chunk of a flow counts at its landing is log entry 12's, the
receives in MX blocks are log entry 57's. -/
def Obligations.Messages : Prop :=
  ∀ (s : State) (c : Nat),
    let k := s.core c
    (∀ (x : DWord) (r : Pkt), msgMatch x r = true ↔ (∀ m, m < 16 → x.getLsbD (16 + m) = true → r.tag.testBit m = x.getLsbD m) ∧
      (x.getLsbD 40 = true ∨ r.slc = x.toNat / 2 ^ 32 % 256)) ∧
    (∀ r, s.arrival s.target.id = some r → r.kind = .request → r.lc = c →
      let s1 := s.takePkt r.id
      let dw1 : DWord := BitVec.ofNat 64 (r.mlen % 2 ^ 32 * 2 ^ 32 + r.slc % 256 * 2 ^ 16 + r.tag % 2 ^ 16)
      let goTo (i : Item) (kk : Core) : State := ((s1.setCore c kk).setItem c { i with posted := true, dw1 := dw1 }).inject
        { kind := .go, src := s.landOf c, dst := r.src, lc := r.slc, seq := r.seq, peer := i.seq }
      let posts := k.posts.filterMap (fun n => k.item n)
      (∀ l i m, posts = l ++ i :: m → (∀ p, p ∈ l → msgMatch p.x r = false) → msgMatch i.x r = true →
        exec .messageRequestArrive s = .next (goTo i { k with posts := k.posts.filter (fun n => n != i.seq) })) ∧
      ((∀ p, p ∈ posts → msgMatch p.x r = false) → k.overflow.length < 32 →
        exec .messageRequestArrive s = .next (s1.setCore c { k with overflow := k.overflow ++ [r] })) ∧
      ((∀ p, p ∈ posts → msgMatch p.x r = false) → 32 ≤ k.overflow.length → exec .messageRequestArrive s =
        .next (((s1.setCore c { k with nacked := k.nacked + 1, ovf := some (k.ovf.getD (BitVec.ofNat 64 (r.slc % 256 * 2 ^ 16 + r.tag % 2 ^ 16))) }).postOverflow
          c).inject { kind := .nack, src := s.landOf c, dst := r.src, lc := r.slc, seq := r.seq }))) ∧
    (let pending : Prop := ∃ a, (a ∈ k.ctxs.map (fun e => e.2.async) ∨ a ∈ k.savedCtxs.map (fun e => e.2.async)) ∧ ∃ b, b ∈ a ∧ b.cause = .msgovf
     let raises (x : Nat) : Prop := (s.ctx c x).live = true ∧ (s.ctx c x).prog.hold ≠ some .ended
     (k.ovf = none ∨ pending → s.postOverflow c = s) ∧
     (SMap.wf k.ctxs = true → (∀ x, ¬ raises x) → s.postOverflow c = s) ∧
     ∀ v x, SMap.wf k.ctxs = true → k.ovf = some v → ¬ pending → raises x → (∀ y, y < x → ¬ raises y) → s.postOverflow c =
       let t := s.ctx c x
       s.setCtx c x { t with async := t.async ++ [⟨.msgovf, v⟩], prog := { t.prog with hold := match t.prog.hold with
         | some (.sleep _) => none
         | h => h } }) ∧
    (∀ i, s.target.core = c → k.item s.target.id = some i → i.kind = .msgPost → i.running = true → i.posted = false →
      (∀ l r m, k.overflow = l ++ r :: m → (∀ p, p ∈ l → msgMatch i.x p = false) → msgMatch i.x r = true →
        ∃ u, exec .receivePost s = .next u ∧ (u.core c).overflow = l ++ m ∧ (u.core c).posts = k.posts ∧
          (∃ j, (u.core c).item i.seq = some j ∧ j.posted = true ∧ j.x = i.x) ∧
          ∃ p, p ∈ u.packets ∧ p.id = s.nextPkt ∧ p.kind = .go ∧ p.dst = r.src ∧ p.lc = r.slc ∧ p.seq = r.seq ∧ p.peer = i.seq) ∧
      ((∀ p, p ∈ k.overflow → msgMatch i.x p = false) → exec .receivePost s =
        .next ((s.setCore c { k with posts := k.posts ++ [i.seq] }).setItem c { i with posted := true }))) ∧
    (∀ p i, s.arrival s.target.id = some p → s.item p.lc p.seq = some i →
      (p.kind = .go → exec .goArrive s = .next ((s.takePkt p.id).setItem p.lc { i with posted := true, peer := p.peer })) ∧
      (s.target.unit ≠ 1 → p.kind = .nack → exec .nackArrive s = .next ((s.takePkt p.id).setItem p.lc { i with failing := some .msgovf }))) ∧
    (∀ i, s.target.core = c → k.item s.target.id = some i → i.running = true → i.finished = false → i.failing = none →
      s.away.contains c = false → i.kind = .msgSend → (∀ j, j ∈ k.items → j.seq = i.seq → j = i) →
      let to_ := i.x.toNat / 2 ^ 16 % 2 ^ 8
      let s1 := s.setCore c { k with lastSend := i.seq }
      let size := (handleOf i.hd).totalBytes
      let last := decide (i.progress + 1 = max 1 ((size + 2047) / 2048))
      let whole : Prop := i.chunkFail ≠ none ∨ i.carry.length = min 2048 ((handleOf i.hd).totalBytes - 2048 * i.progress)
      let first : Prop := ∀ j, j ∈ k.items → s.mayInject c j = true → j.seq ≠ i.seq →
        (k.lastSend < i.seq → j.seq ≤ k.lastSend ∨ i.seq < j.seq) ∧ (i.seq ≤ k.lastSend → j.seq ≤ k.lastSend ∧ i.seq < j.seq)
      (i.posted = false ∨ ¬ first ∨ s.target.unit ≠ 1 ∧ ¬ whole → exec .chunkInject s = .next s) ∧
      (i.posted = true → first → s.target.unit = 1 → exec .chunkInject s =
        .next (if i.chunkFail = none ∧ i.mayReadByte s.target.size = true then s.setItem c (s.readUnit c i s.target.size) else s)) ∧
      (i.posted = true → first → s.target.unit ≠ 1 → whole → exec .chunkInject s = .next ((s1.setItem c
          { i with progress := i.progress + 1, carry := [], finished := last && i.chunkFail.isNone, failing := if last then i.chunkFail else none }).inject
          { kind := .payload, src := s1.landOf c, dst := s1.landOf to_, lc := to_, peer := i.peer, chunk := i.progress, last := last,
            fail := i.chunkFail, data := if i.chunkFail.isSome then [] else i.carry.map Prod.snd,
            tag := i.x.toNat % 2 ^ 16, slc := c, mlen := size }))) ∧
    -- a payload write (R240, R255, R324): the bytes due of the chunk, of which it writes those of one access unit or of whole MX blocks
    (∀ (i : Item) (p : Pkt) (n : Nat), k.item i.seq = some i → k.spad.wf = true → s.hbm.wf = true →
      let h := handleOf i.hd
      let rowB := (h.extent 0 * h.width + 7) / 8
      let total := (if h.extent 0 = 0 then 0 else h.extent 1 * h.extent 2 * h.extent 3) * rowB
      let from_ (x : Nat) : Nat := let w := x / rowB
        (((h.base : Int) + (w % h.extent 1 : Nat) * h.stride 1 + (w / h.extent 1 % h.extent 2 : Nat) * h.stride 2 +
          (w / h.extent 1 / h.extent 2 : Nat) * h.stride 3) % 2 ^ 64).toNat + x % rowB
      let todo := (deliverBytes h i p).1
      let at_ (m : Nat) : Nat × Byte := todo.getD m (0, 0)
      let unit (m : Nat) : Nat := if h.isMx then (at_ m).1 / (4 * h.width) else from_ (at_ m).1 / (if h.s then 16 else 128)
      let head (m : Nat) : Prop := m < todo.length ∧ (m = 0 ∨ unit (m - 1) ≠ unit m)
      let may : Prop := todo = [] ∨ head n ∧ n ∉ i.wrote ∧ ∀ x, x < n → head x → unit x = unit n → x ∈ i.wrote
      let run (m : Nat) : Prop := n ≤ m ∧ m < todo.length ∧ ∀ x, n ≤ x → x ≤ m → unit x = unit n
      let place (m : Nat) : Nat := let a := from_ (at_ m).1; if h.s then swzAddr h.swz a else paIn i.pages a
      let scaleAt (m a : Nat) : Prop := run m ∧ h.isMx = true ∧ h.s = false ∧ (at_ m).1 % (4 * h.width) = 0 ∧ ∃ g,
        pageAt i.pages (from_ (at_ m).1) = some g ∧ (g.geom = 1 ∨ g.geom = 2) ∧
        a = paIn i.pages (g.base + (if g.geom = 1 then 15 * g.size / 16 else g.size) + (from_ (at_ m).1 - g.base) / (4 * h.width))
      let free (g : Granule) : Prop := k.mayWrite i g = true ∧ (g.space = .global → s.behindLeft c (fun _ => false) (g.num * 128) = false)
      let clear : Prop := (∀ m, run m → free (if h.s then ⟨.spad, from_ (at_ m).1 / 128⟩ else ⟨.global, place m / 128⟩)) ∧
        ∀ m a, scaleAt m a → free ⟨.global, a / 128⟩
      let mem (u : State) : Memory := if h.s then (u.core c).spad else u.hbm
      let other (u : State) : Memory := if h.s then u.hbm else (u.core c).spad
      let partial_ (m : Nat) : Prop := h.extent 0 * h.width % 8 ≠ 0 ∧ (at_ m).1 % rowB + 1 = rowB
      let ends : Prop := ∀ x, head x → x = n ∨ x ∈ i.wrote
      let put (j : Item) : Prop := (¬ ends → j.wrote = n :: i.wrote ∧ j.bytes = i.bytes ∧ j.allIn = i.allIn ∧ j.flags = i.flags ∧
          j.trunc = i.trunc ∧ j.chunkFail = i.chunkFail ∧ j.carry = i.carry) ∧
        (ends → j.wrote = [] ∧ j.bytes = i.bytes + p.data.length ∧ (j.trunc = true ↔ i.trunc = true ∨ total - 2048 * p.chunk < p.data.length) ∧
          j.flags = i.flags ||| p.flags ∧ j.allIn = p.last ∧ j.chunkFail = (if i.chunkFail = none then p.fail else i.chunkFail) ∧
          j.carry = (deliverBytes h i p).2)
      0 < h.width → (∀ e, e ∈ todo → e.1 < total) → (∀ m, run m → from_ (at_ m).1 < (if h.s then 0xC0000 else 2 ^ 57)) →
      (∀ m m', run m → run m' → place m = place m' → m = m') → (∀ m m' a, run m → scaleAt m' a → place m ≠ a) →
      (¬ may ∨ ¬ clear → s.deliver c i p n = none) ∧
      (may → clear → ∃ u e j, s.deliver c i p n = some (u, e) ∧ (e = true ↔ ends) ∧ (u.core c).item i.seq = some j ∧ put j ∧ j.inbox = i.inbox ∧
        (∀ m b, run m → b < 8 → (Memory.read (mem u) (place m)).getLsbD b =
          if partial_ m ∧ h.extent 0 * h.width % 8 ≤ b then (Memory.read (mem s) (place m)).getLsbD b else (at_ m).2.getLsbD b) ∧
        (∀ q, (∀ m, run m → place m ≠ q) → (∀ m, ¬ scaleAt m q) → Memory.read (mem u) q = Memory.read (mem s) q) ∧ other u = other s ∧
        (∀ d, (h.s = true ∧ d ∉ i.tagged ∧ ∃ m, run m ∧ from_ (at_ m).1 / 2048 = d) → (u.core c).tagOf d = h.swz) ∧
        ∀ d, ¬ (h.s = true ∧ d ∉ i.tagged ∧ ∃ m, run m ∧ from_ (at_ m).1 / 2048 = d) → (u.core c).tagOf d = k.tagOf d) ∧
      (h.isMx = false → (deliverBytes h i p).2 = [] ∧ todo.length = min p.data.length (total - 2048 * p.chunk) ∧
        ∀ m, m < todo.length → at_ m = (2048 * p.chunk + m, p.data.getD m 0)) ∧
      (h.isMx = true → i.carry.Pairwise (fun e e' => e.1 < e'.1) →
        let has (e : Nat × Byte) : Prop := e ∈ i.carry ∧ 2048 * p.chunk < e.1 + 4 * h.width ∧ e.1 < 2048 * p.chunk ∨
          ∃ m, m < p.data.length ∧ e = (2048 * p.chunk + m, p.data.getD m 0) ∧ e.1 < total
        let whole (x : Nat) : Prop := ∀ y, y / (4 * h.width) = x / (4 * h.width) → ∃ v, has (y, v)
        todo.Pairwise (fun e e' => e.1 < e'.1) ∧ (∀ e, e ∈ todo ↔ has e ∧ whole e.1) ∧
        ∀ e, e ∈ (deliverBytes h i p).2 ↔ p.last = false ∧ has e ∧ ¬ whole e.1)) ∧
    (∀ i p rest, s.target.core = c → k.item s.target.id = some i → i.running = true → i.posted = true → i.allIn = false →
      i.kind = .msgPost → i.inbox = p :: rest →
      (s.deliver c i p s.target.size = none → exec .deliveryWrite s = .next s) ∧
      (∀ s1, s.deliver c i p s.target.size = some (s1, false) → exec .deliveryWrite s = .next s1) ∧
      ∀ s1 j, s.deliver c i p s.target.size = some (s1, true) → s1.item c i.seq = some j →
        exec .deliveryWrite s = .next (s1.setItem c { j with inbox := rest })) ∧
    (∀ i f r e p, s.target.core = c → k.item s.target.id = some i → i.running = true → i.posted = true → i.allIn = false → i.kind = .flowRecv f →
      s.flow f = some r → r.entries.find? (fun e => e.lcore == some c && e.sends.any (fun y => y.1 == .here)) = some e →
      e.sends.find? (fun y => y.1 == .here) = some (.here, p) →
      (s.deliver c i p s.target.size = none → exec .deliveryWrite s = .next s) ∧
      (∀ s1, s.deliver c i p s.target.size = some (s1, false) → exec .deliveryWrite s = .next s1) ∧
      ∀ s1, s.deliver c i p s.target.size = some (s1, true) → ∃ r1, exec .deliveryWrite s = .next ((s1.setFlow f r1).runFlow f) ∧ r1.broken = r.broken ∧
        r1.entries = (r.setEntry { e with sends := e.sends.erase (.here, p) }).entries ∧
        (SMap.get (0, 0) r1.stats e.land).2 = (SMap.get (0, 0) r.stats e.land).2 + (if p.last then 1 else 0) ∧
        (SMap.get (0, 0) r1.stats e.land).1 = (match p.fail with
          | some x => x.code
          | none => (SMap.get (0, 0) r.stats e.land).1)) ∧
    ∀ i, s.target.core = c → s.away.contains c = false → k.item s.target.id = some i → i.allIn = true → i.finished = false → i.failing = none → k.spad.wf = true →
      let at_ := if i.kind = .msgPost then i.x.toNat / 2 ^ 44 else i.x.toNat / 2 ^ 32 % 2 ^ 20
      let cause := match i.chunkFail with
        | none => 0
        | some f => f.code
      let dw0 := 2 ^ 63 + (if i.chunkFail = none then 0 else 2 ^ 62) + cause * 2 ^ 48 + i.flags.toNat * 2 ^ 40 +
        (if i.trunc then 2 ^ 39 else 0) + i.bytes % 2 ^ 32
      (k.mayWrite i ⟨.spad, at_ / 128⟩ = false → exec .completionRecordWrite s = .next s) ∧
      (k.mayWrite i ⟨.spad, at_ / 128⟩ = true → ∃ u j, exec .completionRecordWrite s = .next u ∧
        Memory.readN (u.core c).spad at_ 8 = dw0 ∧ Memory.readN (u.core c).spad (at_ + 8) 8 = i.dw1.toNat ∧
        (∀ e, e < at_ ∨ at_ + 16 ≤ e → Memory.read (u.core c).spad e = Memory.read k.spad e) ∧
        (u.core c).item i.seq = some j ∧ j.failing = i.chunkFail ∧ (j.finished = true ↔ i.chunkFail = none))

/-- `DIGEST` empties its four registers and lands the SHA-256 digest of its range as it stood; `DCHK` compares a digest with its
peer's once the record is there, and on a mismatch reports both, halts the queues of the core and makes DIGEST pending in every live
context (R330, R395, R396). SHA-256 as FIPS 180-4 gives it, which R330 names: the padded message, the schedule, the 64 rounds on
constants from the cube roots of the first 64 primes, the start from the square roots of eight, and the digest's bytes in order (R330,
R382). -/
def Obligations.Digests : Prop :=
 (∀ (s : State) (c x : Nat) (d a b : Reg),
    let t := s.ctx c x
    let m := (s.core c).spad
    (s.cur = .thread c x → Stands s 1 .any → RegsReady s [srcS a, srcS b, srcS d, srcS (d + 1), srcS (d + 2), srcS (d + 3)] →
      let i := Instr.digest d a b
      let ea := (s.getS s.cur a).toNat
      let n := (s.getS s.cur b).toNat
      let p := (((t.prog.markEmpty d.toNat).markEmpty (d.toNat + 1)).markEmpty (d.toNat + 2)).markEmpty (d.toNat + 3)
      let inPad : Prop := n = 0 ∨ ea + n ≤ 0xC0000
      (¬ inPad → Traps i s .spbound (s.getS s.cur a)) ∧
      (inPad → n ≠ 0 → s.lineBusy s.cur ea n = true → Stalls i s) ∧
      (inPad → n = 0 ∨ s.lineBusy s.cur ea n = false → Retires i s 1 ((fresh s).setCtx c x
        { t with prog := p, digests := t.digests ++ [⟨d.toNat, BitVec.ofNat 256 (natOfBytes (sha256 (Memory.readBytes m ea n)))⟩] }))) ∧
    (let v : BitVec 256 := BitVec.ofNat 256 (natOfBytes (sha256 []))
     v.extractLsb' 0 64 = 0x141CFC9842C4B0E3 ∧ v.extractLsb' 64 64 = 0x24B96F99C8F4FB9A ∧
       v.extractLsb' 128 64 = 0x4C939B64E441AE27 ∧ v.extractLsb' 192 64 = 0x55B852781B9995A4) ∧
    (∀ g r, s.target.core = c → s.target.unit = x → t.digests = g :: r → 0 < g.reg → g.reg + 3 < 64 →
      ∃ u, exec .digestLands s = .next u ∧ BytesSame s u ∧ (u.ctx c x).digests = r ∧
        (∀ k, k < 4 → (u.ctx c x).prog.getS (g.reg + k) = g.digest.extractLsb' (64 * k) 64 ∧
          (u.ctx c x).prog.isEmptyS (g.reg + k) = false) ∧
        (∀ n, n < 64 → n < g.reg ∨ g.reg + 4 ≤ n → (u.ctx c x).prog.getS n = t.prog.getS n ∧
          (u.ctx c x).prog.isEmptyS n = t.prog.isEmptyS n)) ∧
    (s.cur = .thread c x → Stands s 1 .any → a.toNat % 4 = 0 →
      RegsReady s [srcS a, srcS (a + 1), srcS (a + 2), srcS (a + 3), srcS b, srcS d] →
      let i := Instr.dchk d a b
      let area := (s.getS s.cur b).toNat
      let own (j : Nat) : Byte := BitVec.ofNat 8 ((t.prog.getS (a.toNat + j / 8)).toNat / 256 ^ (j % 8))
      let dw0 := Memory.readN m area 8
      let fits : Prop := area % 16 = 0 ∧ area + 63 ≤ 0xBFFFF
      let free : Prop := s.lineBusy s.cur area 64 = false
      let done : Prop := 2 ^ 63 ≤ dw0
      let agree : Prop := dw0 / 2 ^ 62 % 2 = 0 ∧ dw0 % 2 ^ 32 = 32 ∧ ∀ j, j < 32 → Memory.read m (area + 32 + j) = own j
      (area % 16 ≠ 0 → Traps i s .align (s.getS s.cur b)) ∧
      (area % 16 = 0 → 0xBFFFF < area + 63 → Traps i s .spbound (s.getS s.cur b)) ∧
      (fits → ¬ free → Stalls i s) ∧
      (fits → free → ¬ done → exec i s = .next ((fresh s).holdOn s.cur (.dchk d.toNat a.toNat (s.getS s.cur b)))) ∧
      (fits → free → done → agree → WritesS i s 1 d 0) ∧
      (fits → free → done → ¬ agree → s.hbm.wf = true → ∃ u, exec i s = .next u ∧ (u.core c).queuesHalted = true ∧
        (∀ j, j < 32 → Memory.read u.hbm (0xBFFFF00000 + 4096 * c + j) = own j ∧
          Memory.read u.hbm (0xBFFFF00020 + 4096 * c + j) = Memory.read m (area + 32 + j)) ∧
        (∀ e, e < 0xBFFFF00000 + 4096 * c ∨ 0xBFFFF00040 + 4096 * c ≤ e → Memory.read u.hbm e = Memory.read s.hbm e) ∧
        (∀ r, u.getS s.cur r = s.getS s.cur r) ∧
        ∀ y, y ∈ SMap.keys (s.core c).ctxs → SMap.wf (s.core c).ctxs = true → (s.ctx c y).live = true →
          ⟨.digest, s.getS s.cur b⟩ ∈ (u.ctx c y).async))) ∧
 (∀ bs : List Byte,
    let primes : List Nat := [2, 3, 5, 7, 11, 13, 17, 19, 23, 29, 31, 37, 41, 43, 47, 53, 59, 61, 67, 71, 73, 79, 83, 89, 97, 101, 103, 107, 109, 113, 127,
      131, 137, 139, 149, 151, 157, 163, 167, 173, 179, 181, 191, 193, 197, 199, 211, 223, 227, 229, 233, 239, 241, 251, 257, 263, 269,
      271, 277, 281, 283, 293, 307, 311]
    let n := bs.length
    let blocks := (n + 72) / 64
    let byte (m : Nat) : Byte := if m < n then bs.getD m 0 else if m = n then 0x80 else if m + 8 < 64 * blocks then 0
      else BitVec.ofNat 8 (8 * n / 256 ^ (64 * blocks - 1 - m))
    let turn (x : Word) (a b c : Nat) : Word := x.rotateRight a ^^^ x.rotateRight b ^^^ x.rotateRight c
    ∃ (K : Nat → Word) (H : Nat → Nat → Word) (W : Nat → Nat → Word) (V : Nat → Nat → Nat → Word),
      (∀ t, t < 64 → ∃ w : Nat, let r := w * 2 ^ 32 + (K t).toNat
        r ^ 3 ≤ primes.getD t 0 * 2 ^ 96 ∧ primes.getD t 0 * 2 ^ 96 < (r + 1) ^ 3) ∧
      (∀ j, j < 8 → ∃ w : Nat, let r := w * 2 ^ 32 + (H 0 j).toNat
        r ^ 2 ≤ primes.getD j 0 * 2 ^ 64 ∧ primes.getD j 0 * 2 ^ 64 < (r + 1) ^ 2) ∧
      (∀ k, k < blocks →
        (∀ t, t < 16 → W k t = byte (64 * k + 4 * t) ++ byte (64 * k + 4 * t + 1) ++ byte (64 * k + 4 * t + 2) ++ byte (64 * k + 4 * t + 3)) ∧
        (∀ t, 16 ≤ t → t < 64 → W k t = ((W k (t - 2)).rotateRight 17 ^^^ (W k (t - 2)).rotateRight 19 ^^^ (W k (t - 2) >>> 10)) + W k (t - 7) +
          ((W k (t - 15)).rotateRight 7 ^^^ (W k (t - 15)).rotateRight 18 ^^^ (W k (t - 15) >>> 3)) + W k (t - 16)) ∧
        (∀ j, j < 8 → V k 0 j = H k j ∧ H (k + 1) j = H k j + V k 64 j) ∧
        ∀ t, t < 64 →
          let v := V k t
          let t1 := v 7 + turn (v 4) 6 11 25 + ((v 4 &&& v 5) ^^^ (~~~(v 4) &&& v 6)) + K t + W k t
          let t2 := turn (v 0) 2 13 22 + ((v 0 &&& v 1) ^^^ (v 0 &&& v 2) ^^^ (v 1 &&& v 2))
          V k (t + 1) 0 = t1 + t2 ∧ V k (t + 1) 4 = v 3 + t1 ∧ ∀ j, j < 8 → j ≠ 0 → j ≠ 4 → V k (t + 1) j = v (j - 1)) ∧
      (sha256 bs).length = 32 ∧ ∀ j m, j < 8 → m < 4 → (sha256 bs).getD (4 * j + m) 0 = (H blocks j).extractLsb' (24 - 8 * m) 8)

/-- `CSAVE` and `CREST` check the level, the address, the pages and, on a restore, the header, then wait. The save writes the thread's
registers, loops, empty bits, groups, nest table, FIFOs, items and running programs to its area, ends the context with a save record,
and gives its tiles to the area; the restore brings all of it back and returns from the monitor record with its pending transfer
(R349, R356–R360). What a save keeps beside the area, such as the thread's stage, its pending causes and further barriers, is log
entries 36's and 73's; the standing `BAR` of a pending waiter's record and the progress of `SIG` and `WAITF` are log entry 37's, the
exit link's bit log entry 53's and the point that a save waits for log entry 66's. When a save and a restore may go on; and what a
restore brings back beside the registers: the tiles that the area still owns and, refilled, those spilled; the items of its records
with their numbers, progress and edges; the forked programs in free slots (R131, R132, R253, R284, R354, R356–R359, R366). What the
machine keeps beside the records is log entry 35's, the wait for room log entry 74's, the edges of a restored item log entry 72's. -/
def Obligations.SavesAndRestores : Prop :=
 (∀ (s : State) (c x : Nat),
    let q := Seqr.thread c x
    let t := s.ctx c x
    (∀ a : Reg, s.cur = q → Stands s 1 .any → RegsReady s [srcS a] →
      let v := s.getS q a
      let walk (w : Bool) : XlRange := areaPages c (v.toNat + 0xDA000 - 1) w 16 (fresh s) v.toNat
      (t.modeM = false → Traps (.csave a) s .illegal t.prog.pc ∧ Traps (.crest a) s .illegal v) ∧
      (t.modeM = true → v.toNat % 4096 ≠ 0 → Traps (.csave a) s .align v ∧ Traps (.crest a) s .align v) ∧
      (∀ f w, t.modeM = true → v.toNat % 4096 = 0 →
        (walk true = .trap f w → Traps (.csave a) s f w) ∧ (walk false = .trap f w → Traps (.crest a) s f w)) ∧
      (∀ ps s1, t.modeM = true → v.toNat % 4096 = 0 →
        let dw (o : Nat) : Nat := natOfBytes (s1.readVa ps (v.toNat + o) 8)
        let named : Prop := dw 0 % 0x1000000000000 = 0x153585443 ∧ dw 8 % 256 = c ∧ dw 8 / 256 % 256 = x ∧ dw 8 / 0x10000 % 0x4000 = (s1.core c).asid
        (walk true = .pages ps s1 → exec (.csave a) s = .next (s1.holdOn q (.csave v ps))) ∧
        (walk false = .pages ps s1 → (named → exec (.crest a) s = .next (s1.holdOn q (.crest v ps))) ∧ (¬ named → Traps (.crest a) s .illegal v)))) ∧
    (∀ (n hi va : Nat) (w : Bool) (s0 s1 : State) (p : Page), s0.xlate c va (!w) w = .page p s1 →
      let bad : Prop := p.geom ≠ 0 ∨ p.d = true
      let beyond := areaPages c hi w n s1 (p.base + p.size)
      (bad → areaPages c hi w (n + 1) s0 va = .trap .prot (BitVec.ofNat 64 p.base)) ∧
      (¬ bad → hi < p.base + p.size → areaPages c hi w (n + 1) s0 va = .pages [p] s1) ∧
      (∀ ps s2, ¬ bad → p.base + p.size ≤ hi → beyond = .pages ps s2 → areaPages c hi w (n + 1) s0 va = .pages (p :: ps) s2) ∧
      ∀ g v, ¬ bad → p.base + p.size ≤ hi → beyond = .trap g v → areaPages c hi w (n + 1) s0 va = .trap g v) ∧
    (∀ (n hi va : Nat) (w : Bool) (s0 : State) (g : Cause) (v : DWord), s0.xlate c va (!w) w = .trap g v →
      areaPages c hi w (n + 1) s0 va = .trap g v) ∧
    (∀ a ps, s.target.core = c → s.target.unit = x → s.away.contains c = false →
      (t.prog.hold = some (.csave a ps) → s.saveReady c x = false → exec .waitRelease s = .next s) ∧
      (t.prog.hold = some (.csave a ps) → s.saveReady c x = true → s.hbm.wf = true →
        let mine := (s.core c).items.filter (fun i => i.owner == x && !i.staysPosted)
        t.failed.length ≤ 384 → mine.length ≤ 384 →
        (∀ e f, e < 0xDA000 → f < 0xDA000 → paIn ps (a.toNat + e) = paIn ps (a.toNat + f) → e = f) →
        ∃ u, exec .waitRelease s = .next u ∧ (u.ctx c x).prog.hold = some .ended ∧
          u.evPending = s.evPending ++ [{ kind := 2, core := c, ctx := x, d1 := a, d2 := 0, d3 := 0 }] ∧
          (∀ n, (s.tile c n).owner = .ctx x → (s.tile c n).ending = false → u.tile c n = { s.tile c n with owner := .area a.toNat }) ∧
          (∀ n, (u.slot c n).owner ≠ some x) ∧ (u.arc c).owner ≠ some x ∧ (∀ i, i ∈ (u.core c).items → i.owner ≠ x) ∧
          let holds (o n v : Nat) : Prop := ∀ j, j < n → Memory.read u.hbm (paIn ps (a.toNat + o + j)) = BitVec.ofNat 8 (v / 256 ^ j)
          let code (f : ForkState) : Nat := match f with
            | .none => 0 | .running => 1 | .ended false => 2 | .ended true => 3
          let loops (o : Nat) (l : Loops) : Prop := ∀ k, k < 4 →
            let y := SMap.get {} l.lc k
            holds (o + 16 * k) 4 y.count.toNat ∧ holds (o + 16 * k + 4) 4 y.start.toNat ∧ holds (o + 16 * k + 8) 4 y.stop.toNat ∧
            (k ∉ l.order → holds (o + 16 * k + 12) 4 0) ∧ (k ∈ l.order → holds (o + 16 * k + 12) 4 (1 + 2 * l.order.idxOf k))
          let program (o : Nat) (p : Prog) (n : Nat) : Prop := (∀ r, r < 64 → holds (o + 8 * r) 8 (p.getS r).toNat) ∧
            (∀ r, r < 8 → holds (o + 0x200 + 8 * r) 8 (p.getB r).toNat) ∧ loops (o + 0x240) p.loops ∧ holds (o + 0x280) 8 p.pc.toNat ∧
            holds (o + 0x290) 8 n ∧ (p.pend = none → p.arrive = .plain → holds (o + 0x288) 8 0) ∧
            ∀ y, p.pend = some y → y.dest.toNat < 0x20000 → y.dest.toNat % 4 = 0 → y.xaddr.toNat < 0x20000 → y.xaddr.toNat % 4 = 0 → y.slots < 4 →
              holds (o + 0x288) 8 (y.xaddr.toNat * 0x400000 + y.kind.code * 0x200000 + y.slots * 0x80000 + (if y.taken then 0x40000 else 0) + 0x20000
                + y.dest.toNat)
          let words (o : Nat) (y : NestRec) : Prop := holds o 4 y.w0.toNat ∧ holds (o + 4) 4 y.w1.toNat ∧ holds (o + 8) 4 y.w2.toNat ∧
            holds (o + 12) 4 y.w3.toNat
          holds 0 8 0x153585443 ∧ holds 8 8 (c + x * 256 + (s.core c).asid * 0x10000) ∧ holds 24 8 0xDA000 ∧
          (∃ owned, owned < 256 ∧ (∀ n, n < 8 → (owned.testBit n = true ↔ (s.tile c n).owner = .ctx x ∧ (s.tile c n).ending = false)) ∧
            holds 16 8 (code t.forkV + 4 * code t.forkA + 256 * owned + 0x100000000 * mine.length)) ∧
          (∀ r, 0 < r → r < 64 → holds (0x40 + 8 * r) 8 (if 56 ≤ r then SMap.get 0 t.bankS r else t.prog.getS r).toNat) ∧
          (∀ r, r < 16 → holds (0x240 + 32 * r) 32 (SMap.get (0 : HReg) t.h r).toNat) ∧
          (∀ r, r < 8 → holds (0x440 + 8 * r) 8 (if 6 ≤ r then SMap.get 0 t.bankB r else t.prog.getB r).toNat) ∧
          loops 0x480 t.asideM ∧ (t.modeH = true → loops 0x4C0 t.asideH) ∧
          (∀ o v, (o, v) ∈ [(0x500, 24 * c + x), (0x508, c), (0x510, s.pcore c), (0x518, t.prio), (0x520, t.frm.toNat), (0x528, t.fsr.toNat),
              (0x530, t.fte.toNat), (0x538, (if t.modeM then 4 else 0) + (if t.modeH then 2 else 0) + (if t.modeRev then 1 else 0)),
              (0x540, t.tvec.toNat), (0x548, t.tcause.toNat), (0x550, t.tval.toNat), (0x558, t.tpc.toNat), (0x560, t.tstate.toNat),
              (0x568, t.tapebase.toNat), (0x570, t.tapelim.toNat), (0x578, t.tapeptr.toNat), (0x580, t.pinquota.toNat), (0x588, t.tseed.toNat),
              (0x590, s.now - t.cycleBase), (0x598, t.instret.toNat), (0x5A0, t.mcause.toNat), (0x5A8, t.mval.toNat), (0x5B0, t.mpc.toNat),
              (0x5B8, t.mstate.toNat), (0x5C0, t.mmode.toNat), (0x5C8, t.failed.length), (0x600, t.prog.sEmpty.toNat),
              (0x608, t.hEmpty.toNat), (0x610, t.vEmpty.toNat), (0x620, t.vfr.dw0.toNat), (0x628, t.vfr.dw1.toNat), (0x630, t.afr.dw0.toNat),
              (0x638, t.afr.dw1.toNat)] → holds o 8 v) ∧
          (SMap.get {} (u.core c).savedCtxs x).stage = t.stage ∧ (SMap.get {} (u.core c).savedCtxs x).async = t.async ∧
          (SMap.get {} (u.core c).savedCtxs x).bars = t.bars ∧
          (u.core c).saved = (s.core c).saved ++ mine.map (fun i => { i with running := false, owner := savedOwner a x, pages := [], carry := [] }) ∧
          let groups := s.groups.filter (fun g => g.2.has (24 * c + x) || t.bars.any (fun b => b.gid == g.1))
          let rest := t.bars.filter (fun b => (s.group b.gid).isNone)
          (SMap.wf s.groups = true → (∀ n b, rest[n]? = some b → groups.length + n < 4 → t.bars.Pairwise (fun y z => y.gid ≠ z.gid) →
            let o := 0x640 + 16 * (groups.length + n)
            holds o 4 (b.gid + 0x40000 + if b.released then 0x80000 else 0) ∧ holds (o + 4) 4 b.gen) ∧
          ∀ n g, groups[n]? = some g → n < 4 →
            let bar := t.bars.find? (fun b => b.gid == g.1)
            holds (0x640 + 16 * n) 4 (g.1 + (if g.2.isMember (24 * c + x) then 0x10000 else 0) + (if g.2.isPending (24 * c + x) then 0x20000 else 0) +
              (if bar.isSome then 0x40000 else 0) + if bar.any (fun b => b.released) then 0x80000 else 0) ∧
            (∀ b, bar = some b → holds (0x644 + 16 * n) 4 b.gen) ∧
            (bar = none → holds (0x644 + 16 * n) 4 (if g.2.isPending (24 * c + x) then (g.2.gen + 1) % 0x100000000 else g.2.gen))) ∧
          (∀ l, l < 7 → words (0x680 + 16 * l) (nestRec t.nest l)) ∧
          (∀ n, n < 4 → let f : Fifo := SMap.get {} t.fifos n
            holds (0x700 + 144 * n) 8 f.tokens.length ∧ holds (0x708 + 144 * n) 8 f.claims.length ∧
            ∀ k, k < 16 → holds (0x710 + 144 * n + 8 * k) 8 (f.tokens.getD k 0).toNat) ∧
          (∀ n, t.forkV = .running → (∀ m, (s.slot c m).owner = some x ↔ m = n) → program 0x940 (s.slot c n).prog n) ∧
          (t.forkA = .running → program 0xC40 (s.arc c).prog 0 ∧ holds 0xEF8 8 (s.arc c).seed.toNat ∧
            (∀ r, r < 4 → holds (0xED8 + 8 * r) 8 (SMap.get 0 (s.arc c).wb r).toNat) ∧
            ∀ r, r < 8192 → holds (0x29000 + 8 * r) 4 (SMap.get 0 (s.arc c).pv r).toNat ∧
              holds (0x29004 + 8 * r) 4 (SMap.get 0 (s.arc c).pa r).toNat) ∧
          (∀ r, r < 64 → holds (0x19000 + 1024 * r) 1024 (SMap.get 0 t.v r).toNat) ∧
          (∀ n q, t.failed[n]? = some q → holds (0xD9400 + 8 * n) 8 q) ∧
          ∀ n i, mine[n]? = some i →
            let o := 0x1000 + 256 * n
            let kind := match i.kind with
              | .sig _ => 1
              | .waitf _ _ => 2
              | _ => 0
            let one : Prop := (∃ f, i.kind = .flowSend f ∨ i.kind = .flowRecv f) ∨ i.kind = .msgSend ∨ i.kind = .msgPost
            holds o 8 i.seq ∧ holds (o + 8) 4 (i.queue + 256 * kind + 0x10000 * i.prio + 0x1000000 * i.flags.toNat) ∧
            (∀ f, i.kind = .sig f → holds (o + 16) 16 f) ∧ (∀ f w, i.kind = .waitf f w → holds (o + 16) 16 (f + 0x10000000000000000 * w)) ∧
            (∀ f, i.kind = .copy f ∨ i.kind = .mxOut f → holds (o + 16) 16 i.progress) ∧
            (∀ k, k < 4 → holds (o + 32 + 4 * k) 4 (i.words.getD k 0).toNat) ∧
            (¬ one → holds (o + 48) 32 i.hd.toNat ∧ holds (o + 80) 32 i.ha.toNat ∧ holds (o + 112) 32 i.hb.toNat) ∧
            (one → holds (o + 112) 32 i.hd.toNat) ∧
            ∀ f, i.kind = .mxGo f → ∀ l, l < 7 → words (o + 144 + 16 * l) (nestRec i.nest l)) ∧
      (t.prog.hold = some (.crest a ps) → s.restoreReady c x a ps = false → exec .waitRelease s = .next s) ∧
      (t.prog.hold = some (.crest a ps) → s.restoreReady c x a ps = true →
        let dw (o : Nat) : Nat := natOfBytes (s.readVa ps (a.toNat + o) 8)
        (∀ n b, n < 8 → (dw 16).testBit (8 + n) = true → (s.tile c n).owner = .area b → b = a.toNat) →
        dw 0x5B8 / 0x80000 % 4 ≠ 3 → dw 0x5B8 / 0x200000 % 4 ≠ 3 →
        ∃ u, exec .waitRelease s = .next u ∧ BytesSame s u ∧
          let y := u.ctx c x
          let w (o : Nat) : DWord := BitVec.ofNat 64 (dw o)
          let bytes (o n : Nat) : Nat := natOfBytes (s.readVa ps (a.toNat + o) n)
          let loops (l : Loops) (o : Nat) : Prop := (∀ k, k < 4 →
              let z := SMap.get {} l.lc k
              z.count = BitVec.ofNat 32 (dw (o + 16 * k)) ∧ z.start.toNat = dw (o + 16 * k + 4) % 0x100000000 ∧
                z.stop.toNat = dw (o + 16 * k + 8) % 0x100000000) ∧
            l.order = (List.range 4).filterMap (fun r => (List.range 4).find? (fun k => bytes (o + 16 * k + 12) 4 == 1 + 2 * r))
          let fork (n : Nat) : ForkState := if n % 4 = 0 then .none else if n % 4 = 1 then .running else .ended (n % 4 == 3)
          (∃ l, loops l 0x480 ∧
            (dw 0x5C0 % 2 = dw 0x538 % 2 → y.modeM = false ∧ y.prog.hold = some (.clock (s.now + 16)) ∧
              (y.modeH = true ↔ dw 0x5C0 / 2 % 2 = 1) ∧ Resumes y.prog (w 0x5B0) (unpackXfer (w 0x5B8 &&& 0x7FFFFFFFFC)) l) ∧
            (dw 0x5C0 % 2 ≠ dw 0x538 % 2 → y.modeM = true ∧ y.prog.hold = some .tret ∧ y.prog.loops = l ∧ y.prog.pend = none)) ∧
          (∀ r, 0 < r → r < 64 → y.prog.getS r = w (0x40 + 8 * r) ∧ (y.prog.isEmptyS r = true ↔ (dw 0x600).testBit r = true)) ∧
          (∀ r, r < 16 → SMap.get 0 y.h r = BitVec.ofNat 256 (bytes (0x240 + 32 * r) 32)) ∧ y.hEmpty = (w 0x608).setWidth 16 ∧
          (∀ r, r < 64 → SMap.get 0 y.v r = BitVec.ofNat 8192 (bytes (0x19000 + 1024 * r) 1024)) ∧ y.vEmpty = w 0x610 ∧
          (∀ r, r < 8 → (y.prog.getB r).toNat = dw (0x440 + 8 * r) % 0x20000 / 4 * 4) ∧ loops y.asideH 0x4C0 ∧
          y.prio = min 11 (dw 0x518) ∧ y.frm = (w 0x520).setWidth 3 ∧ y.fsr = w 0x528 &&& 0xFF ∧ y.fte = w 0x530 &&& 0xFF ∧
          (y.modeRev = true ↔ dw 0x538 % 2 = 1) ∧ y.tvec = w 0x540 ∧ y.tcause = w 0x548 &&& 0xFF ∧
          y.tval = w 0x550 ∧ y.tpc = w 0x558 ∧ y.tstate = w 0x560 &&& 0x7FFFFFFFFC ∧ y.tapebase = w 0x568 ∧ y.tapelim = w 0x570 ∧
          y.tapeptr = w 0x578 ∧ y.pinquota = w 0x580 ∧ y.tseed = w 0x588 ∧ y.cycleBase = s.now - dw 0x590 ∧ y.instret = w 0x598 ∧
          y.mcause = w 0x5A0 &&& 0xFF ∧ y.mval = w 0x5A8 ∧ y.mpc = w 0x5B0 ∧ y.mstate = w 0x5B8 &&& 0x7FFFFFFFFC ∧ y.mmode = w 0x5C0 &&& 3 ∧
          y.vfr = ⟨w 0x620, w 0x628 &&& 0x1FFFFFFFFFFFC⟩ ∧ y.afr = ⟨w 0x630, w 0x638 &&& 0x1FFFF9FFFFFFC⟩ ∧ y.forkV = fork (dw 16) ∧ y.forkA = fork (dw 16 / 4) ∧
          let kept := SMap.get {} (s.core c).savedCtxs x
          y.stage = kept.stage ∧ y.async = kept.async ++ t.async.filter (fun a => decide (¬ ((a.cause = .preempt ∨ a.cause = .timer) ∧
            ∃ b, b ∈ kept.async ∧ b.cause = a.cause))) ∧ (∃ late, y.failed = (List.range (min 384 (dw 0x5C8))).map (fun n => dw (0xD9400 + 8 * n)) ++ late) ∧
          (∀ l, l < 7 → let z := SMap.get {} y.nest l
            z.w0.toNat = bytes (0x680 + 16 * l) 4 ∧ z.w1.toNat = bytes (0x684 + 16 * l) 4 ∧ z.w2.toNat = bytes (0x688 + 16 * l) 4 ∧
              z.w3.toNat = bytes (0x68C + 16 * l) 4) ∧
          (∀ n, n < 4 → SMap.get {} y.fifos n =
            { tokens := (List.range (min 16 (dw (0x700 + 144 * n)))).map (fun k => w (0x710 + 144 * n + 8 * k)), claims := [] }) ∧
          ∀ n, n < 4 → (dw (0x640 + 16 * n)).testBit 18 = true →
            let gid := dw (0x640 + 16 * n) % 0x10000
            let gen := dw (0x640 + 16 * n) / 0x100000000
            let met := kept.bars.find? (fun z => z.gid == gid && z.gen == gen)
            ∃ b, b ∈ y.bars ∧ b.gid = gid ∧ b.gen = gen ∧
              (∀ z, met = some z → (b.released = true ↔ (dw (0x640 + 16 * n)).testBit 19 = true ∨ z.released = true)) ∧
              (met = none → (b.released = true ↔ (dw (0x640 + 16 * n)).testBit 19 = true ∨ s.group gid = none ∨
                ∃ g, s.group gid = some g ∧ g.gen ≠ gen ∧ (g.gen + 1) % 0x100000000 ≠ gen))))) ∧
 (∀ (s : State) (c x : Nat),
    let k := s.core c
    let t := s.ctx c x
    let still (q : Seqr) : Prop := (s.prog q).hold = none ∧ (s.prog q).trapping = none ∧ (s.prog q).ending = false ∧ s.drained q = true
    let inside (i : Item) : Prop := i.failing ≠ none ∨ i.finished = true ∨ i.running = true ∧ match i.kind with
      | .flowSend _ | .msgSend | .mxZero _ => True
      | .msgPost => i.posted = false
      | .copy 8 => i.within ≠ 0 ∧ (i.progress = 0 ∨ 128 ≤ i.within) ∧ s.ringWait c i = false
      | .copy _ => i.within ≠ 0 ∨ i.rowIdx ≠ [] ∨ i.got ≠ [] ∨ i.wrote ≠ []
      | .mxOut _ => i.wrote ≠ []
      | _ => False
    let posted (i : Item) : Prop := i.running = true ∧ ((∃ f, i.kind = .flowRecv f) ∨ i.kind = .msgPost ∧ i.posted = true)
    (s.saveReady c x = true ↔ s.drained (.thread c x) = true ∧ t.accs = [] ∧ (∀ n, (s.slot c n).owner = some x → still (.vec c n)) ∧
      ((s.arc c).owner = some x → still (.arc c)) ∧ ∀ i, i ∈ k.items → i.owner = x → posted i ∨ ¬ inside i) ∧
    (∀ (i : Item) (e : Edge), (e ∈ k.restoredEdges i ↔ e ∈ i.edges ∨ ∃ j, j ∈ k.items ∧ j.seq = e.to_ ∧
      j.seq ∉ waitersOf k.items i.seq k.items.length ∧ ∃ g, match e.kind with
        | .raw => g ∈ j.writes ∧ g ∈ i.reads
        | .waw => g ∈ j.writes ∧ g ∈ i.writes
        | .war => g ∈ j.reads ∧ g ∈ i.writes)) ∧
    (∀ (l : List Item) (m n z : Nat), z ∈ waitersOf l m (n + 1) ↔ ∃ j, j ∈ l ∧ j.seq = z ∧ ∃ e, e ∈ j.edges ∧ (e.to_ = m ∨ e.to_ ∈ waitersOf l m n)) ∧
    (∀ l m, waitersOf l m 0 = []) ∧
    (∀ i : Item,
      let queued (u : State) (j : Item) : Prop := (u.core c).items = k.items ++ [j] ∧ (u.core c).saved = k.saved.filter (fun j => j.seq != i.seq) ∧
        j.edges = k.restoredEdges i ∧ j.asid = k.asid ∧ j.progress = i.progress ∧ j.seq = i.seq ∧ j.kind = i.kind ∧ j.begun = i.begun
      (∀ f v, walkFoot c i.foot (pageBound i.foot) s 0 = .trap f v → ∃ j, queued (s.requeue c i) j ∧
        j.failing = (if i.failing = none then some f else i.failing)) ∧
      ∀ ps s1, walkFoot c i.foot (pageBound i.foot) s 0 = .pages ps s1 → s1.core c = k →
        let reads := i.reads.filter (fun g => g.space != .global) ++ rngGranules ps (i.foot.filter (fun g => g.r && !g.w))
        let writes := i.writes.filter (fun g => g.space != .global) ++ rngGranules ps (i.foot.filter (fun g => g.w))
        ((s.requeue c i).core c).items = k.items ++
          [{ i with pages := ps, reads := reads, writes := writes, edges := k.restoredEdges { i with reads := reads, writes := writes }, asid := k.asid }]) ∧
    ∀ (a : DWord) (ps : List Page),
      let dw (o : Nat) : Nat := natOfBytes (s.readVa ps (a.toNat + o) 8)
      let bytes (o n : Nat) : Nat := natOfBytes (s.readVa ps (a.toNat + o) n)
      let w (o : Nat) : DWord := BitVec.ofNat 64 (dw o)
      let tile (n : Nat) : Prop := n < 8 ∧ (dw 16).testBit (8 + n) = true
      let count := min 384 (dw 16 / 2 ^ 32 % 512)
      let queue (n : Nat) : Nat := bytes (0x1008 + 256 * n) 1
      let room (b : Nat) : Prop := (k.items.filter (fun i => i.queue == b)).length + ((List.range count).filter (fun n => queue n == b)).length ≤ 64 ∨
        ∀ i, i ∈ k.items → i.queue ≠ b
      (s.restoreReady c x a ps = true ↔ s.drained (.thread c x) = true ∧ t.accs = [] ∧
        (∀ n y, tile n → (s.tile c n).owner = .ctx y → y = x ∧ (s.tile c n).ending = false) ∧
        s.pinsStall c (s.peekPages c (((k.saved.filter (fun i => i.owner == savedOwner a x)).map (fun i => i.foot)).flatten)) = false ∧
        (∀ n, n < count → room (queue n)) ∧ (dw 16 % 4 = 1 → ∃ n, n < 4 ∧ (s.slot c n).owner = none) ∧ (dw 16 / 4 % 4 = 1 → (s.arc c).owner = none)) ∧
      (∀ n l b, (s.tile c n).owner = .area b → b ≠ a.toNat →
        (∀ f v, s.spill c n b = .trap f v → State.restoreTiles c x a ps (n :: l) s = .trap f v) ∧
        ∀ qs s1, s.spill c n b = .pages qs s1 → State.restoreTiles c x a ps (n :: l) s = State.restoreTiles c x a ps l
          (s1.setTile c n (tileOfImage (s1.readVa ps (a.toNat + 0x39000 + n * 0x14080) 0x14010) (.ctx x)))) ∧
      (s.target.core = c → s.target.unit = x → s.away.contains c = false → t.prog.hold = some (.crest a ps) → s.restoreReady c x a ps = true →
        (∀ n b, tile n → (s.tile c n).owner = .area b → b = a.toNat) → dw 0x5B8 / 0x80000 % 4 ≠ 3 → dw 0x5B8 / 0x200000 % 4 ≠ 3 →
        ∃ u, exec .waitRelease s = .next u ∧
          (∀ n, (tile n → (s.tile c n).owner = .area a.toNat → u.tile c n = { s.tile c n with owner := .ctx x }) ∧
            (tile n → (s.tile c n).owner ≠ .area a.toNat →
              u.tile c n = tileOfImage (s.readVa ps (a.toNat + 0x39000 + n * 0x14080) 0x14010) (.ctx x)) ∧ (¬ tile n → u.tile c n = s.tile c n)) ∧
          (∀ n kept, n < count →
            let o := 0x1000 + 256 * n
            k.saved.find? (fun i => i.seq == bytes o 8) = some kept → (∀ f g, kept.kind ≠ .waitf f g) → (∀ j, j ∈ k.items → j.seq ≠ bytes o 8) →
            (∀ m, m < count → m ≠ n → bytes (0x1000 + 256 * m) 8 ≠ bytes o 8) →
            ∃ i, i ∈ (u.core c).items ∧ i.seq = bytes o 8 ∧ i.owner = x ∧ i.queue = queue n ∧ i.prio = bytes (o + 10) 1 ∧ i.flags.toNat = bytes (o + 11) 1 ∧
              i.running = kept.running ∧ i.begun = kept.begun ∧
              (∀ f, kept.kind = .sig f → i.kind = .sig (bytes (o + 16) 8)) ∧
              ((∀ f, kept.kind ≠ .sig f) → i.kind = kept.kind ∧ ((∀ m, kept.kind ≠ .mxGo m) → i.progress = bytes (o + 16) 16)) ∧
              (∀ m, kept.kind = .mxGo m → (∀ l, l < 7 → let z := SMap.get {} i.nest l
                  z.w0.toNat = bytes (o + 144 + 16 * l) 4 ∧ z.w1.toNat = bytes (o + 148 + 16 * l) 4 ∧ z.w2.toNat = bytes (o + 152 + 16 * l) 4 ∧
                    z.w3.toNat = bytes (o + 156 + 16 * l) 4) ∧
                let f := bytes (o + 16) 16
                let ix (l : Nat) : Nat := f / 2 ^ (18 * l) % 2 ^ 18
                let n (l : Nat) : Nat := (nestOf i.nest m (handleOf i.ha) (handleOf i.hb)).counts.getD l 0
                i.progress = ix 0 + n 0 * (ix 1 + n 1 * (ix 2 + n 2 * (ix 3 + n 3 * (ix 4 + n 4 * ix 5))))) ∧
              i.words = (List.range kept.words.length).map (fun l => BitVec.ofNat 32 (bytes (o + 32 + 4 * l) 4)) ∧
              (kept.kind.handleInB = false → i.hd = BitVec.ofNat 256 (bytes (o + 48) 32) ∧ i.ha = BitVec.ofNat 256 (bytes (o + 80) 32) ∧
                i.hb = BitVec.ofNat 256 (bytes (o + 112) 32)) ∧
              (kept.kind.handleInB = true → i.hd = BitVec.ofNat 256 (bytes (o + 112) 32))) ∧
          let program (p : Prog) (o : Nat) : Prop := (∀ r, 0 < r → r < 64 → p.getS r = w (o + 8 * r)) ∧ p.hold = none ∧ p.sEmpty = 0 ∧
            (∀ r, r < 8 → (p.getB r).toNat = dw (o + 0x200 + 8 * r) % 0x20000 / 4 * 4) ∧
            -- a transfer with slots left is pending at PC; the transfer to an entry is made whole by the record's PC
            let v := dw (o + 0x288)
            (v / 0x20000 % 2 = 0 → p.pc = w (o + 0x280) ∧ p.pend = none ∧ p.arrive = .plain) ∧
            (∀ y, v < 0x8000000000 → unpackXfer (BitVec.ofNat 64 v) = some y → y.slots ≠ 0 → p.pc = w (o + 0x280) ∧ p.pend = some y ∧ p.arrive = .plain) ∧
            (∀ y, v < 0x8000000000 → unpackXfer (BitVec.ofNat 64 v) = some y → y.slots = 0 → y.taken = true → y.kind ≠ .ret ∨ w (o + 0x280) ≠ exitLink → p.pend = none ∧ ∃ d,
              p.pc = d ∧ p.arrive = .checked { y with dest := d } ∧
              (dw (o + 0x280) / 4 % 0x8000 = y.dest.toNat / 4 → y.dest ≠ exitLink → d = w (o + 0x280)) ∧ (dw (o + 0x280) / 4 % 0x8000 ≠ y.dest.toNat / 4 → d = y.dest))
          (∀ n, dw 16 % 4 = 1 → (s.slot c n).owner = none → (∀ m, m < n → (s.slot c m).owner ≠ none) → n < 4 →
            (u.slot c n).owner = some x ∧ program (u.slot c n).prog 0x940) ∧
          (dw 16 / 4 % 4 = 1 → (u.arc c).owner = some x ∧ program (u.arc c).prog 0xC40 ∧ (u.arc c).seed = w 0xEF8 ∧
            (∀ r, r < 4 → (SMap.get 0 (u.arc c).wb r).toNat = dw (0xED8 + 8 * r) % 2 ^ 13) ∧
            ∀ r, r < 8192 → (SMap.get 0 (u.arc c).pv r).toNat = bytes (0x29000 + 8 * r) 4 ∧ (SMap.get 0 (u.arc c).pa r).toNat = bytes (0x29004 + 8 * r) 4)) ∧
      (∀ (p : Prog) (o : Nat), p = s.progOfArea ps a o → (dw (o + 0x288)).testBit 39 = true → (dw (o + 0x288)) / 0x20000 % 2 = 1 →
        dw (o + 0x288) / 0x80000 % 4 = 0 → (dw (o + 0x288)).testBit 18 = true → dw (o + 0x288) / 0x200000 % 4 = 2 → p.ending = true ∧ p.pc = exitLink))

/-- `HALT` holds its thread until it may end, and the end leaves its groups and posts its record; a disposed thread ends with a record
of its trap; `SLEEP` retires and sleeps for its clocks; `TLB.INV` removes the translations its selector names and waits for the pinned
ones (R124, R350, R361–R363). That an ASID beyond 14 bits traps with `tval` = a is log entry 60's, the wait log entry 51's, and what
an end does with a pending MSGOVF log entry 68's. A thread that an instruction holds on a condition stays as it is until the condition
holds, and then the instruction retires with its effect (R9, R124, R230, R267, R268, R321, R335, R339, R349, R361, R395). What a
`TAPE.SET` waits for is log entry 22's, and what a `TLB.INV` and a pinned translation do is log entry 51's. -/
def Obligations.EndsAndWaits : Prop :=
 (∀ (s : State) (c x : Nat),
    let q := Seqr.thread c x
    let t := s.ctx c x
    (∀ a : Reg, s.cur = q → Stands s 1 .any → RegsReady s [srcS a] →
      exec (.halt a) s = .next (((fresh s).countRetired q).holdOn q (.halting ((s.getS q a).setWidth 32) none)) ∧
      (s.getS q a = 0 → Retires (.sleep a) s 1 (fresh s)) ∧
      (s.getS q a ≠ 0 → ∃ u, After s (fresh s) u 1 ∧ exec (.sleep a) s =
        .next (u.holdOn q (.sleep (if s.getS q a = 0xFFFFFFFFFFFFFFFF then none else some (s.now + (s.getS q a).toNat)))))) ∧
    (s.target.core = c → s.target.unit = x →
      (∀ n, t.prog.hold = some (.sleep (some n)) → exec .sleepTimeout s =
        .next (if n ≤ s.now then s.setProg q { t.prog with hold := none } else s)) ∧
      (t.prog.hold = some (.sleep none) → exec .sleepTimeout s = .next s) ∧
      (∀ n, x < 24 → t.prog.hold = some (.clock n) → exec .holdCountExpiry s =
        .next (if n ≤ s.now then s.setProg q { t.prog with hold := none } else s)) ∧
      (∀ code fault, s.away.contains c = false → t.prog.hold = some (.halting code fault) →
        let may : Prop := s.drained q = true ∧ t.accs = [] ∧ t.forkV ≠ .running ∧ t.forkA ≠ .running
        (¬ may → exec .waitRelease s = .next s) ∧
        (may → ∃ u, exec .waitRelease s = .next u ∧ BytesSame s u ∧ (u.ctx c x).prog.hold = some .ended ∧
          (SMap.wf (s.core c).ctxs = true → (u.ctx c x).async = []) ∧
          (u.ctx c x).failed = [] ∧ (u.core c).pinsOf x = 0 ∧
          (SMap.wf s.groups = true → ∀ gid, u.group gid = if (s.group gid).any (fun g => g.has (24 * c + x)) then
            (s.leaveGroup (24 * c + x) gid).group gid else s.group gid) ∧ u.evPending = s.evPending ++ [match fault with
            | none => { kind := 1, core := c, ctx := x, d1 := code.setWidth 64, d2 := 0, d3 := 0 }
            | some r => { kind := 3, core := c, ctx := x, d1 := BitVec.ofNat 64 r.cause.code, d2 := r.val, d3 := r.pc }]))) ∧
    ∀ a b : Reg, s.cur = q → Stands s 1 .any → RegsReady s [srcS a, srcS b] →
      let i := Instr.tlbInv a b
      let va := (s.getS q a).toNat
      let sel := (s.getS q b).toNat
      let asid := (s.core c).asid
      let hit (e : TlbEntry) : Prop := (sel = 0 ∧ e.asid = asid ∧ e.base ≤ va ∧ va < e.base + e.size) ∨ (sel = 1 ∧ e.asid = va) ∨ sel = 2
      let ok : Prop := t.modeM = true ∧ sel < 3 ∧ (sel = 1 → va < 2 ^ 14)
      let pinned : Prop := ∃ p e, p ∈ s.tlbs ∧ e ∈ p.2 ∧ hit e ∧ e.pins ≠ 0
      let drops (l : SMap (List TlbEntry)) : Prop := SMap.keys l = SMap.keys s.tlbs ∧
        ∀ n e, e ∈ SMap.get [] l n ↔ e ∈ SMap.get [] s.tlbs n ∧ ¬ (hit e ∧ e.pins = 0)
      (t.modeM = false → Traps i s .illegal t.prog.pc) ∧ (t.modeM = true → 3 ≤ sel → Traps i s .illegal (s.getS q b)) ∧
      (t.modeM = true → sel = 1 → 2 ^ 14 ≤ va → Traps i s .illegal (s.getS q a)) ∧
      (ok → ∃ l, drops l ∧ (¬ pinned → Retires i s 1 { fresh s with tlbs := l }) ∧
        (pinned → exec i s = .next (({ fresh s with tlbs := l } : State).holdOn q (.tlbInv (s.getS q a) (s.getS q b)))))) ∧
 (∀ (s : State) (c x : Nat), s.target.core = c → s.target.unit = x → s.away.contains c = false →
    let q := Seqr.thread c x
    let t := s.ctx c x
    let s0 := s.setProg q { t.prog with hold := none }
    let held (h : Hold) : Prop := t.prog.hold = some h
    let stays : Prop := exec .waitRelease s = .next s
    let ends (u : State) : Prop := ∃ v, exec .waitRelease s = .next v ∧ After { s with cur := q } u v 1
    let reached (n : Nat) : Prop := (s.core c).tileReached x n = true
    (∀ scope, held (.fence scope) → (t.fenceDone scope = true → (scope ≠ 0 → ends s0) ∧
      -- at scope core the stores that the thread still holds leave the landing
      (scope = 0 → ends (s0.setCtx c x { s0.ctx c x with accs := t.accs.map (fun a =>
        if a.isPlainStore = true ∧ a.left = none then { a with left := some s.now, ahead := s.injectable c } else a) }))) ∧ (t.fenceDone scope = false → stays)) ∧
    (∀ base limit, held (.tapeSet base limit) → (t.tapePending = true → stays) ∧
      (t.tapePending = false → ends (s0.setCtx c x { s0.ctx c x with tapebase := base, tapeptr := base, tapelim := limit }))) ∧
    (∀ rev, held (.modeSwitch rev) → (s.modeReady q = false → stays) ∧
      (s.modeReady q = true → ends (s0.setCtx c x { s0.ctx c x with modeRev := rev }))) ∧
    (held .tret → (s.modeReady q = false → stays) ∧
      (s.modeReady q = true → exec .waitRelease s = .next (s.setCtx c x ((s0.ctx c x).endReturn s.now)))) ∧
    (∀ n, held (.tileRel n) → (reached n → stays) ∧ (¬ reached n → ends (s0.setTile c n {}))) ∧
    (∀ n r l, held (.tileShape n r l) → (reached n → stays) ∧
      (¬ reached n → ends (s0.setTile c n { s.tile c n with rows := r, cols := l, el := [] }))) ∧
    (∀ gid reg, held (.barrier gid reg) → (∀ b, t.bars.find? (fun b => b.gid == gid) = some b → (b.released = false → stays) ∧
      (b.released = true → ends ((s0.setCtx c x { s0.ctx c x with bars := t.bars.filter (fun y => y.gid != gid) }).setProg q
        ((s0.prog q).setS reg (BitVec.ofNat 64 b.gen)))))) ∧
    (∀ reg fs, held (.flowUnload reg fs) → ((∃ f, f ∈ fs ∧ s.flowIdle f = false) → stays) ∧
      ((∀ f, f ∈ fs → s.flowIdle f = true) → ∃ u, ends u ∧ (∀ f, f ∈ fs → u.flow f = none) ∧ (∀ f, f ∉ fs → u.flow f = s.flow f) ∧
        u.prog q = (s0.prog q).setS reg 0)) ∧
    (∀ reg src area, held (.dchk reg src area) →
      (Memory.readN (s.core c).spad area.toNat 8 < 2 ^ 63 → stays) ∧
      (2 ^ 63 ≤ Memory.readN (s.core c).spad area.toNat 8 → ends (s0.dchkCompare q reg src area.toNat))) ∧
    (∀ gid reg, held (.barrier gid reg) → (∀ b, b ∈ t.bars → b.gid ≠ gid) → stays) ∧
    (∀ a b, held (.tlbInv a b) → (s.tlbDrop (s.core c).asid a b).tlbHeld (s.core c).asid a b = false →
      ends ((s.tlbDrop (s.core c).asid a b).setProg q { t.prog with hold := none })))

/-- A thread at a boundary takes the first of its pending causes that its mode lets through, in the order of R345, with its value, the
address of its next instruction and its pending transfer, which after a second delay slot is the one that the slot completed, and at a
launch entry one to it (log entry 53); ENGFAULT takes the oldest failed number; with MSGOVF taken the next nack is the first since. A
pre-emption request and a deadline make PREEMPT and TIMER pending in a live thread, and wake it from sleep (R98, R345–R347, R355,
R363, R366). That either is pending once, and that the event carries the deadline, is log entry 38's. The control core chooses among
the threads that can issue one of top priority or of 65,536 clocks' wait with the oldest stamp, ties to the lowest context; the vector
engine the next slot by rotation. The scratchpad accesses of a clock stand in the service order (R195; log entries 7 and 27). After
1,048,576 clocks the programs of the first core of a pair stop, and the other becomes resident once the first's engines stand at their
points, its bytes and tags going to its image region and the other's coming in (R107, R108, R129, R130, R354, R355). That the switch
posts PREEMPT to the outgoing threads is log entry 38's, that it waits for the engines log entry 66's, and that the region's bytes
from 0xC0180 on stay log entry 33's. -/
def Obligations.CausesAndClocks : Prop :=
 (∀ (s : State) (c x : Nat), s.target.core = c → s.target.unit = x →
    let q := Seqr.thread c x
    let t := s.ctx c x
    let pending (a : AsyncCause) : Prop := a ∈ t.async ∨ ∃ n l, t.failed = n :: l ∧ a = ⟨.engfault, BitVec.ofNat 64 n⟩
    let lets (a : AsyncCause) : Prop := t.modeM = false ∧ (t.modeH = false ∨ a.cause = .preempt ∨ a.cause = .timer)
    let order : List Cause := [.preempt, .timer, .eccu, .msgovf, .engfault, .digest]
    let first (a : AsyncCause) : Prop := pending a ∧ lets a ∧ a.cause ∈ order ∧
      ∀ b, pending b → lets b → b = a ∨ order.idxOf a.cause < order.idxOf b.cause
    let boundary : Prop := t.prog.hold = none ∨ (∃ n, t.prog.hold = some (.sleep n)) ∨ ∃ g r, t.prog.hold = some (.barrier g r)
    let runs : Prop := t.live = true ∧ t.prog.trapping = none ∧ s.away.contains c = false ∧ s.board.stopped = false
    let post (a : AsyncCause) : State := s.setCtx c x { t with
      async := t.async ++ [a]
      prog := { t.prog with hold := match t.prog.hold with
        | some (.sleep _) => none
        | h => h } }
    (∀ a, first a → boundary → runs →
      let nacked (u : State) : State := if a.cause = .msgovf then u.setCore c { u.core c with ovf := none } else u
      exec .asyncCauseTaken s = .next (State.raise (nacked <| s.setCtx c x { t with
        async := if a.cause = .engfault then t.async else t.async.erase a
        failed := if a.cause = .engfault then t.failed.drop 1 else t.failed
        prog := { t.prog with hold := none } }) q ⟨a.cause, a.val, t.prog.pc, t.prog.pendAt⟩)) ∧
    (∀ z, t.prog.pend = some z ∨ t.prog.pend = none ∧ (t.prog.arrive = .checked z ∨ t.prog.arrive = .untaken z) → t.prog.pendAt = some z) ∧
    (t.prog.pend = none → (t.prog.arrive = .plain → t.prog.pendAt = none) ∧
      (t.prog.arrive = .launch → ∃ z, t.prog.pendAt = some z ∧ z.kind = .call ∧ z.dest = t.prog.pc ∧ z.taken = true ∧ z.slots = 0)) ∧
    ((∀ a, pending a → ¬ lets a) ∨ ¬ boundary ∨ ¬ runs → exec .asyncCauseTaken s = .next s) ∧
    (let asked (k : Cause) : Prop := ∃ a, a ∈ t.async ∧ a.cause = k
     let due : Prop := s.target.value.toNat ≤ s.now - t.cycleBase
     (t.live = true → ¬ asked .preempt → exec .monitorPreemptRequest s = .next (post ⟨.preempt, 3⟩)) ∧
     (t.live = false ∨ asked .preempt → exec .monitorPreemptRequest s = .next s) ∧
     (t.live = true → ¬ asked .timer → due → exec .timer s = .next (post ⟨.timer, 0⟩)) ∧
     (t.live = false ∨ asked .timer ∨ ¬ due → exec .timer s = .next s))) ∧
 ((∀ s : State, exec .issueSelect s = .next { s with agenda := .select s.target.core :: s.agenda } ∧
    exec .vectorIssueSelect s = .next { s with agenda := .vselect s.target.core :: s.agenda }) ∧
  (∀ (e : List Cand) (t : Cand), chooseThread e = some t →
    let set (u : Cand) : Prop := u ∈ e ∧ ((∀ v, v ∈ e → v.prio ≤ u.prio) ∨ 65536 ≤ u.wait)
    set t ∧ ∀ u, set u → t.stamp < u.stamp ∨ (t.stamp = u.stamp ∧ t.ctx ≤ u.ctx)) ∧
  (∀ e : List Cand, chooseThread e = none ↔ e = []) ∧
  (∀ (p k : Nat) (can : Nat → Bool), p < 4 →
    (chooseSlot p can = some k ↔ ∃ j, j < 4 ∧ k = (p + j) % 4 ∧ can k = true ∧ ∀ i, i < j → can ((p + i) % 4) = false)) ∧
  (∀ (s : State) (c : Nat) (r : List Turn), s.agenda = .select c :: r →
    let s1 : State := { s with agenda := r }
    let able := (SMap.keys (s.core c).ctxs).filter (fun x => canIssue s1 (.thread c x))
    let s2 := s1.noteAble c able
    (able = [] → step s = .next s2) ∧
    (∀ t, chooseThread (s2.cands c able) = some t → step s = issueFrom (.thread c t.ctx) (s2.noteIssue c able t.ctx))) ∧
  (∀ s : State, s.agenda = [] → ∃ u, step s = .next u ∧ u.now = s.now + 1 ∧
    let place (t : Turn) : Nat := match t with
      | .select _ => 1
      | .vselect _ => 2
      | .issue (.arc _) => 3
      | .event .ldlLineWrite _ | .event .waitRelease _ => 1
      | .event .aspLdFill _ => 3
      | .event .holdCountExpiry x => if x.unit = 28 then 3 else 0
      | .event .qgetFill x => match (s.stream x.core x.unit).claims.find? (fun y => y.id == x.id) with
        | some y => (match y.owner with
          | .thread _ _ => 1
          | .vec _ _ => 2
          | .arc _ => 3)
        | none => 1
      | .event .matrixStep _ | .event .mxOutRow _ => 4
      | .event .copyBlock x | .event .streamUnitWrite x => match s.item x.core x.id with
        | some i => 4 + min 4 i.queue
        | none => 5
      | .event .chunkInject _ | .event .deliveryWrite _ | .event .completionRecordWrite _ => 9
      | _ => 0
    ∀ (m n : Nat) (t v : Turn), m < n → u.agenda[m]? = some t → u.agenda[n]? = some v → place t ≠ 0 → place v ≠ 0 → place t ≤ place v) ∧
  ∀ (s : State) (a b : Nat),
    let pc := s.target.core
    (s.remap.filter (fun e => e.2 == pc)).map Prod.fst = [a, b] → a ≠ b →
    let out := if s.away.contains a then b else a
    let other := if s.away.contains a then a else b
    let due : Prop := SMap.get 0 s.sliceAt pc + 1048576 ≤ s.now
    (due → s.pcore out = pc → s.away.contains out = false → (∀ n, s.mayIssue (.vec out n) = false) ∧ s.mayIssue (.arc out) = false) ∧
    (¬ due ∨ s.coreStill out = false → exec .timeSliceSwitch s = .next s) ∧
    (due → s.coreStill out = true → ∃ u, exec .timeSliceSwitch s = .next u ∧
      (s.hbm.wf = true → (s.core out).spad.wf = true → SMap.wf (s.core out).blockTag = true →
        let base (d : Nat) : Nat := 0xBFC0000000 + 0x100000 * d
        (∀ e, e < 0xC0000 → Memory.read u.hbm (base out + e) = Memory.read (s.core out).spad e ∧
          Memory.read (u.core other).spad e = Memory.read s.hbm (base other + e)) ∧
        (∀ n, n < 384 → (Memory.read u.hbm (base out + 0xC0000 + n)).toNat = (s.core out).tagOf n ∧
          (u.core other).tagOf n = (Memory.read s.hbm (base other + 0xC0000 + n)).toNat % 16) ∧
        (∀ e, e < base out ∨ base out + 0xC0180 ≤ e → Memory.read u.hbm e = Memory.read s.hbm e) ∧
        ∀ d, d ≠ a → d ≠ b → (u.core d).spad = (s.core d).spad ∧ (u.core d).blockTag = (s.core d).blockTag) ∧
      u.away.contains out = true ∧ u.away.contains other = false ∧ (∀ d, d ≠ a → d ≠ b → (u.away.contains d = s.away.contains d)) ∧
      SMap.get 0 u.sliceAt pc = s.now ∧ (u.core other).vptr = 0 ∧
      ∀ x, x ∈ SMap.keys (s.core out).ctxs → (s.ctx out x).live = true → ∃ e, e ∈ (u.ctx out x).async ∧ e.cause = .preempt))

/-- A scrub changes nothing. An uncorrectable error damages the instruction word it is in; it makes the next instruction of a thread,
a vector or an Arcade program, where that reads the place once its checks are made, trap ECCU with the value of the table (R25, R35,
R101), fails a running command with ECCU, drops a translation that no command pins, fails the chunk in a landing's slot and what its
node has formed from it, makes a load of the thread complete with zeros and ECCU pending, and makes ECCU pending for a walk of the
thread (R30, R319, R325, R327, R364, R365). The model's choices: the keeping of a pinned translation (log entry 51), the place where a
failed chunk counts (12), the other accesses and the walks (60), a slot's packet (65). -/
def Obligations.SoftErrors : Prop :=
  ∀ s : State,
    let ends (u : State) : Prop := exec .uncorrectableError s = .next u
    let line : Prop := ∃ e, s.target.place = .hbm e ∨ s.target.place = .slice e
    exec .scrub s = .next s ∧
    (∀ c m a, s.target.place = .imem c m a → ends (s.setCore c { s.core c with badWords := (m, a / 4) :: (s.core c).badWords })) ∧
    (∀ q : Seqr, (match q with
        | .thread c x => s.target.reader = .thread c x
        | .vec c k => s.target.reader = .vec c k
        | .arc c => s.target.reader = .arc c) →
      let meets (v : Nat) (reg : Bool) : Prop := ends { s with agenda := .readError q v reg :: s.agenda }
      (∀ d a, s.target.place = .spad d a → meets a false) ∧ (∀ d n, s.target.place = .tagTable d n → meets n false) ∧
      ∀ cls n, s.target.place = .register cls n → meets (cls * 2 ^ 16 + n) true) ∧
    -- the next instruction of the program, whose checks and guard come first
    (∀ (q : Seqr) (v : Nat) (reg : Bool) (l : List Turn), s.agenda = .readError q v reg :: l →
      let s1 : State := { s with agenda := l }
      let s2 : State := { s1 with cur := q, stalled := false }
      let p := s.prog q
      let lw := LW.ofWord (s2.iword q (p.pc.toNat + 4))
      (s1.mayIssue q = false ∨ s1.hasAsync q = true ∨ (∃ e w z, s1.fetch q (Config.freeWord s1.draws) = .bad e w z) → step s = .next s1) ∧
      ∀ i, s1.mayIssue q = true → s1.hasAsync q = false → s1.fetch q (Config.freeWord s1.draws) = .ok i →
        (Stalls i s2 → step s = .next s2) ∧
        (∀ c x e w, q = .thread c x → Traps i s2 e w → e = .illslot ∨ e = .empty ∨ reg = false ∧ (e = .align ∨ e = .spbound) → step s = .next s2) ∧
        (lw.g = true → guardHolds lw (s2.getS q lw.greg) = false → (reg = true → v ≠ lw.greg.toNat) →
          exec i s2 = .next (finish q s2 2 (.retire s2)) → step s = .next s2) ∧
        (∀ u c x, q = .thread c x → exec i s2 = .next u → lw.g = false → u.stalled = false → (u.prog q).trapping = none →
          (∀ e y, (u.prog q).hold ≠ some (.halting e y)) → (u.ctx c x).modeH = (s.ctx c x).modeH →
          step s = .next (s2.raise q ⟨.eccu, BitVec.ofNat 64 v, p.pc, p.pend⟩))) ∧
    (∀ c n i, s.target.reader = .item c n → s.item c n = some i → i.running = true → i.finished = false → i.failing = none →
      (∃ d a, s.target.place = .spad d a ∨ s.target.place = .tile d a ∨ s.target.place = .scale d a ∨ s.target.place = .hbm a ∨
        s.target.place = .slice a) →
        let chunk : Item := { i with chunkFail := some (i.chunkFail.getD .eccu) }
        ((¬ (∃ f, i.kind = .flowRecv f) → ¬ (i.kind = .msgPost ∧ i.posted = true) → ends (s.setItem c { i with failing := some .eccu })) ∧
        (i.kind = .msgPost → i.posted = true → ends (s.setItem c chunk)) ∧
        ∀ f, i.kind = .flowRecv f → (s.flow f = none → ends (s.setItem c chunk)) ∧
          ∀ r, s.flow f = some r → ∃ u r1, ends u ∧ BytesSame s u ∧ (u.core c).item i.seq = some chunk ∧ u.flow f = some r1 ∧
            r1.entries = r.entries ∧ (SMap.get (0, 0) r1.stats (s.landOf c)).1 = Cause.eccu.code)) ∧
    (∀ c x n a, s.target.reader = .access c x n → (s.ctx c x).accs.find? (fun a => a.id == n) = some a → a.performed = false → line →
      let pends (u : State) : Prop := ends u ∧ BytesSame s u ∧ ⟨.eccu, BitVec.ofNat 64 a.va⟩ ∈ (u.ctx c x).async
      (∀ reg, 0 < reg → reg < 64 → ((∃ w, a.kind = .ldg reg w) ∨ ∃ fn op v w rm sc ac re, a.kind = .gamo reg fn op v w rm sc ac re) →
        (∀ g, (s.ctx c x).prog.hold ≠ some (.adj g)) → ∃ u, pends u ∧
          (u.ctx c x).prog.getS reg = 0 ∧ (u.ctx c x).prog.isEmptyS reg = false) ∧
      (∀ sp, a.kind = .ldl sp → ∃ u, pends u ∧
        (u.ctx c x).accs.find? (fun a => a.id == n) = some { a with kind := .line sp (List.replicate 128 0), performed := true }) ∧
      (a.kind ≠ .mark → (∀ sp d, a.kind ≠ .line sp d) → ∃ u, pends u ∧ ∀ b, b ∈ (u.ctx c x).accs → b.id = n → b.performed = true)) ∧
    (∀ c x, s.target.reader = .thread c x → line → ((s.ctx c x).live = false → ends s) ∧
      ((s.ctx c x).live = true → ∃ u, ends u ∧ BytesSame s u ∧ (u.ctx c x).async = (s.ctx c x).async ++ [⟨.eccu, s.target.value⟩])) ∧
    (∀ pc asid page, s.target.place = .tlb pc asid page → ∃ u, ends u ∧ u = { s with tlbs := u.tlbs } ∧
      ∀ n e, e ∈ SMap.get [] u.tlbs n ↔ e ∈ SMap.get [] s.tlbs n ∧ ¬ (n = pc ∧ e.asid = asid ∧ e.base = page ∧ e.pins = 0)) ∧
    ∀ (l f n : Nat) (r : FlowRec) (e : FEntry) (p : Pkt), s.target.place = .landing l n → s.flow f = some r → e ∈ r.entries → e.land = l →
      e.src = false → e.aslot ≤ n → n < e.aslot + e.awin → e.slots[n - e.aslot]? = some p →
      ∃ u r1, ends u ∧ BytesSame s u ∧ u.flow f = some r1 ∧ (SMap.get (0, 0) r1.stats l).1 = Cause.eccu.code ∧
        (∀ m : Nat, r.entries[m]? = some e → ∃ e1, r1.entries[m]? = some e1 ∧ e1.slots.length = e.slots.length ∧
          e1.slots[n - e.aslot]? = some { p with fail := some (p.fail.getD .eccu) } ∧
          ∀ j : Nat, j ≠ n - e.aslot → e1.slots[j]? = e.slots[j]?) ∧
        ∀ (m k : Nat) (w : FEntry), r.entries[m]? = some w → primary (r.node e) e = w → (e.cslot, k) ∈ w.frees → n - e.aslot < k →
          ∃ w1, r1.entries[m]? = some w1 ∧ w1.sends.length = w.sends.length ∧ ∀ y, y ∈ w1.sends → y.2.fail ≠ none

/-- A waiting command is answered once. HELLO is served before any version is agreed. Every other command receives VERSION until then,
and is turned down for a reserved bit and for STATE before its own checks. LAUNCH adds a record to the launch queue, or is BUSY;
SETASID sets ASID and root of an idle core; PREEMPT posts its cause; RESTORE makes a free context live at the monitor's restore entry,
where a nack not yet reported becomes pending (R347; log entry 68). The order of the common refusals is log entry 43's, the root's
range log entry 44's, and that PREEMPT is pending once log entry 38's. The device writes the reply whole, clears PEND and raises
vector 1. It posts the oldest event record whole, advances EQHEAD and raises vector 0, and a full queue holds the record back. A
context that exits, saves or is disposed stays live until its record is written (R373–R376). -/
def Obligations.HostProtocol : Prop :=
 (∀ (s : State) (c : Nat) (m : Mailbox), s.target.core = c → c < 256 → s.mailbox c = m → m.pend = true → m.answer = none →
    let dw (k : Nat) : Nat := m.cmd.readN (8 * k) 8
    let code := dw 0 % 2 ^ 8
    let tag := dw 0 / 2 ^ 16 % 2 ^ 16
    let k := s.core c
    let clean (ms : List Nat) : Prop := ∀ n, n < 8 → dw n &&& (0xFFFF00FF :: ms).getD n 0 = dw n
    let answers (i : Instr) (u : State) (a : Answer) : Prop := exec i s = .next (u.setMailbox c { m with answer := some a })
    let served (i : Instr) (ms : List Nat) (go : Prop) : Prop :=
      (s.board.helloOk = false → answers i s ⟨3, 0, tag, 0⟩) ∧
      (s.board.helloOk = true → ¬ clean ms → answers i s ⟨2, 1, tag, 0⟩) ∧
      (s.board.helloOk = true → clean ms → s.board.devState ≠ .ready → answers i s ⟨2, 3, tag, 0⟩) ∧
      (s.board.helloOk = true → clean ms → s.board.devState = .ready → go)
    let all64 := 2 ^ 64 - 1
    (code = 0 →
      (¬ clean [2 ^ 32 - 1] → answers .hello s ⟨2, 1, tag, 0⟩) ∧
      (clean [2 ^ 32 - 1] → s.board.devState ≠ .ready → answers .hello s ⟨2, 3, tag, 0⟩) ∧
      (clean [2 ^ 32 - 1] → s.board.devState = .ready → dw 1 / 2 ^ 16 ≠ 1 → answers .hello s ⟨3, 0, tag, 0⟩) ∧
      (clean [2 ^ 32 - 1] → s.board.devState = .ready → dw 1 / 2 ^ 16 = 1 →
        answers .hello { s with board := { s.board with helloOk := true } } ⟨0, 0, tag, 0x00010000⟩)) ∧
    (code = 1 → served .launch [all64, all64, 15, all64]
      ((11 < dw 3 → answers .launch s ⟨2, 1, tag, 0⟩) ∧
       (dw 3 ≤ 11 → 8 ≤ k.launchQ.length → answers .launch s ⟨1, 0, tag, 0⟩) ∧
       (dw 3 ≤ 11 → k.launchQ.length < 8 → answers .launch (s.setCore c { k with
          launchQ := k.launchQ ++ [⟨BitVec.ofNat 64 (dw 1), BitVec.ofNat 64 (dw 2), dw 3, BitVec.ofNat 64 (dw 4)⟩] }) ⟨0, 0, tag, 0⟩))) ∧
    (code = 2 → SMap.wf k.ctxs = true → served .setasid [2 ^ 14 - 1, all64]
      (let fits : Prop := dw 2 % 2 ^ 21 = 0 ∧ dw 2 + 2 ^ 21 ≤ hbmBytes
       let busy : Prop := (∃ x, (s.ctx c x).live = true) ∨ (∃ n, (s.slot c n).owner ≠ none) ∨ k.arc.owner ≠ none ∨ k.launchQ ≠ []
       (¬ fits → answers .setasid s ⟨2, 1, tag, 0⟩) ∧
       (fits → busy → answers .setasid s ⟨2, 4, tag, 0⟩) ∧
       (fits → ¬ busy → answers .setasid (s.setCore c { k with asid := dw 1, ptRoot := some (dw 2) }) ⟨0, 0, tag, 0⟩))) ∧
    (code = 3 → served .preempt [2 ^ 24 - 1]
      (∃ u, answers .preempt u ⟨0, 0, tag, 0⟩ ∧ { u with cores := s.cores } = s ∧ (∀ d, d ≠ c → u.core d = s.core d) ∧
        { u.core c with ctxs := k.ctxs } = k ∧ ∀ x,
          let t := s.ctx c x
          let named : Prop := x < 24 ∧ (dw 1).testBit x = true ∧ t.live = true ∧ ¬ ∃ a, a ∈ t.async ∧ a.cause = .preempt
          (¬ named → u.ctx c x = t) ∧
          (named → (u.ctx c x).async = t.async ++ [⟨.preempt, 1⟩] ∧
            { u.ctx c x with async := t.async, prog := t.prog } = t ∧
            ((∀ n, t.prog.hold ≠ some (.sleep n)) → (u.ctx c x).prog = t.prog) ∧
            ∀ n, t.prog.hold = some (.sleep n) → (u.ctx c x).prog = { t.prog with hold := none }))) ∧
    (code = 4 → served .restore [all64, 31]
      ((dw 1 % 4096 ≠ 0 → answers .restore s ⟨2, 1, tag, 0⟩) ∧
       (dw 1 % 4096 = 0 → ((s.ctx c (dw 2)).live = true ∨ s.pool c ≤ dw 2) → answers .restore s ⟨2, 5, tag, 0⟩) ∧
       (dw 1 % 4096 = 0 → (s.ctx c (dw 2)).live = false → dw 2 < s.pool c →
        let t : Ctx := { live := true, modeM := true, cycleBase := s.now
                         prog := { pc := Config.restoreEntry, s := [(56, BitVec.ofNat 64 (dw 1))] } }
        answers .restore ((s.setCtx c (dw 2) t).postOverflow c) ⟨0, 0, tag, 0⟩)))) ∧
 ((∀ (s : State) (c : Nat) (m : Mailbox), s.target.core = c → s.mailbox c = m →
    let code := m.cmd.readN 0 8 % 2 ^ 8
    let tag := m.cmd.readN 0 8 / 2 ^ 16 % 2 ^ 16
    let replies (a : Answer) : Prop := ∃ u, exec .mailboxReply s = .next u ∧ u = { s with board := u.board } ∧
      { u.board with mailboxes := s.board.mailboxes, raised := s.board.raised } = s.board ∧
      (u.mailbox c).reply.readN 0 8 = a.code + a.reason * 2 ^ 8 + a.tag * 2 ^ 16 ∧ (u.mailbox c).reply.readN 8 8 = a.dw1 ∧
      (∀ o, 16 ≤ o → (u.mailbox c).reply.read o = 0) ∧ { u.mailbox c with reply := m.reply } = { m with pend := false, answer := none } ∧
      (∀ d, d ≠ c → u.mailbox d = s.mailbox d) ∧
      ∀ v, SMap.get 0 u.board.raised v = SMap.get 0 s.board.raised v + if v = 1 then 1 else 0
    (m.pend = false → exec .mailboxReply s = .next s) ∧
    (∀ a, m.pend = true → m.answer = some a → a.code < 2 ^ 8 → a.reason < 2 ^ 8 → a.tag < 2 ^ 16 → a.dw1 < 2 ^ 64 → replies a) ∧
    (m.pend = true → m.answer = none → 4 < code → s.board.helloOk = false → replies ⟨3, 0, tag, 0⟩) ∧
    (m.pend = true → m.answer = none → 4 < code → s.board.helloOk = true → replies ⟨2, 2, tag, 0⟩) ∧
    (m.pend = true → m.answer = none → code ≤ 4 → exec .mailboxReply s = .next s)) ∧
  ∀ (s : State) (e : EventRec) (r : List EventRec), s.evPending = e :: r →
    let b := s.board
    ((b.eqHead + 1) % 4096 = b.eqTail → exec .eventPost s = .next s) ∧
    ((b.eqHead + 1) % 4096 ≠ b.eqTail → b.evMem.wf = true → e.kind < 2 ^ 8 → e.core < 2 ^ 8 → e.ctx < 2 ^ 8 →
      ∃ u, exec .eventPost s = .next u ∧ u.evPending = r ∧ u.board.eqHead = (b.eqHead + 1) % 4096 ∧
        (let at_ := 64 * b.eqHead
         let m := u.board.evMem
         m.readN at_ 8 = e.kind + e.core * 2 ^ 8 + e.ctx * 2 ^ 16 ∧ m.readN (at_ + 8) 8 = e.d1.toNat ∧
         m.readN (at_ + 16) 8 = e.d2.toNat ∧ m.readN (at_ + 24) 8 = e.d3.toNat ∧
         ∀ a, a < at_ ∨ at_ + 64 ≤ a → m.read a = b.evMem.read a) ∧
        { u.board with eqHead := b.eqHead, evMem := b.evMem, raised := b.raised } = b ∧
        (∀ v, SMap.get 0 u.board.raised v = SMap.get 0 b.raised v + if v = 0 then 1 else 0) ∧ BytesSame s u ∧
        (e.kind = 1 ∨ e.kind = 2 ∨ e.kind = 3 → (u.ctx e.core e.ctx).live = false) ∧
        (∀ c x, ¬ ((e.kind = 1 ∨ e.kind = 2 ∨ e.kind = 3) ∧ c = e.core ∧ x = e.ctx) → u.ctx c x = s.ctx c x) ∧
        (3 < e.kind → u.cores = s.cores)))

/-- A host write to BAR0 that is not naturally aligned or not of 4 or 8 bytes is dropped, and such a read returns all ones. EQTAIL
takes its 12 bits; 0x5257 to RESET performs a warm reset, another value nothing; a command's bytes are written to the mailbox; the
doorbell sets PEND, or counts an overrun while PEND is set; the outbound windows are HBM bytes; the recovery window takes an image.
Every other place is read-only (R371–R373, R377, R381). The counter of overruns wraps at 16 bits by log entry 45. A host read of BAR0
that is naturally aligned and of 4 or 8 bytes reads the bytes of a mailbox's command and reply, its status doubleword with PEND and
the overruns, the event records, the outbound windows and the recovery window; any other read returns all ones (R371–R373, R376, R377,
R381). The device registers read as the table of R372 says: DEVID, PROTO, STATE, HEALTHY, EQHEAD and EQTAIL, and RESET reads 0. -/
def Obligations.HostAccesses : Prop :=
 (∀ s : State,
    let t := s.target
    let b := s.board
    let v := t.value.toNat
    let fit (a : Nat) : Prop := (t.size = 4 ∨ t.size = 8) ∧ a % t.size = 0 ∧ a + t.size ≤ 0x2000000
    let window (pa : Nat) (u : State) : Prop := u = { s with hbm := u.hbm } ∧
      ∀ a, u.hbm.read a = if pa ≤ a ∧ a < pa + t.size then BitVec.ofNat 8 (v / 256 ^ (a - pa)) else s.hbm.read a
    let image (o : Nat) (u : State) : Prop := u = { s with board := { b with recovery := u.board.recovery, recoveryUsed := true } } ∧
      ∀ a, u.board.recovery.read a = if o ≤ a ∧ a < o + t.size then BitVec.ofNat 8 (v / 256 ^ (a - o)) else b.recovery.read a
    exec .eqtailWrite s = .next { s with board := { b with eqTail := v % 4096 } } ∧
    (¬ fit t.id → exec .registerWrite s = .next s) ∧
    (fit t.id →
      (t.id = 0x28 → exec .registerWrite s = .next { s with board := { b with eqTail := v % 4096 } }) ∧
      (t.id = 0x30 → v % 2 ^ 16 = 0x5257 → exec .registerWrite s = .next s.warmReset) ∧
      (t.id = 0x30 → v % 2 ^ 16 ≠ 0x5257 → exec .registerWrite s = .next s) ∧
      ((t.id < 0x100000 ∧ t.id ≠ 0x28 ∧ t.id ≠ 0x30 ∨ 0x300000 ≤ t.id ∧ t.id < 0x400000 ∨ 0x1400000 ≤ t.id) →
        exec .registerWrite s = .next s) ∧
      (∀ k o, t.id = 0x100000 + 4096 * k + o → k < 256 → o < 4096 →
        let m := s.mailbox k
        (o < 0x40 → m.cmd.wf = true → ∃ cmd, exec .registerWrite s = .next (s.setMailbox k { m with cmd := cmd }) ∧
          ∀ a, cmd.read a = if o ≤ a ∧ a < o + t.size then BitVec.ofNat 8 (v / 256 ^ (a - o)) else m.cmd.read a) ∧
        (0x40 ≤ o → o < 0x48 → m.pend = false →
          exec .registerWrite s = .next (s.setMailbox k { m with pend := true, answer := none })) ∧
        (0x40 ≤ o → o < 0x48 → m.pend = true →
          exec .registerWrite s = .next (s.setMailbox k { m with overrun := (m.overrun + 1) % 2 ^ 16 })) ∧
        (0x48 ≤ o → exec .registerWrite s = .next s)) ∧
      (∀ k o, t.id = 0x200000 + 4096 * k + o → k < 256 → o < 4096 → s.hbm.wf = true →
        ∃ u, exec .registerWrite s = .next u ∧ window (0xBFFFF00000 + 4096 * k + o) u) ∧
      (∀ o, t.id = 0x400000 + o → o < 0x1000000 → b.recovery.wf = true →
        ∃ u, exec .registerWrite s = .next u ∧ image o u)) ∧
    (t.core < 256 → t.id < 4096 →
      let a := 0x200000 + 4096 * t.core + t.id
      (¬ fit a → exec .hostWindowWrite s = .next s ∧
        exec .hostWindowRead s = .next { s with board := { b with hostRead := 0xFFFFFFFFFFFFFFFF } }) ∧
      (fit a → s.hbm.wf = true → ∃ u, exec .hostWindowWrite s = .next u ∧ window (0xBFFFF00000 + 4096 * t.core + t.id) u) ∧
      (fit a → exec .hostWindowRead s = .next { s with board := { b with
        hostRead := BitVec.ofNat 64 (s.hbm.readN (0xBFFFF00000 + 4096 * t.core + t.id) t.size) } })) ∧
    (t.id < 0x1000000 →
      (¬ fit (0x400000 + t.id) → exec .recoveryWindowWrite s = .next s) ∧
      (fit (0x400000 + t.id) → b.recovery.wf = true → ∃ u, exec .recoveryWindowWrite s = .next u ∧ image t.id u))) ∧
 (∀ (s : State) (n : Nat),
    let b := s.board
    let fit (a : Nat) : Prop := (n = 4 ∨ n = 8) ∧ a % n = 0 ∧ a + n ≤ 0x2000000
    let reads (a v : Nat) : Prop := s.bar0Read a n = BitVec.ofNat 64 v
    (∀ a, ¬ fit a → s.bar0Read a n = 0xFFFFFFFFFFFFFFFF) ∧
    (∀ k o, k < 256 → o < 4096 → fit (0x100000 + 4096 * k + o) →
      let m := s.mailbox k
      let at_ := 0x100000 + 4096 * k
      (o < 0x40 → reads (at_ + o) (Memory.readN m.cmd o n)) ∧ (0x48 ≤ o → o < 0x88 → reads (at_ + o) (Memory.readN m.reply (o - 0x48) n)) ∧
      (o = 0x88 → n = 8 → reads (at_ + o) ((if m.pend then 1 else 0) + m.overrun % 2 ^ 16 * 2 ^ 32)) ∧
      (o = 0x88 → n = 4 → reads (at_ + o) (if m.pend then 1 else 0)) ∧ (o = 0x8C → reads (at_ + o) (m.overrun % 2 ^ 16)) ∧
      reads (0x200000 + 4096 * k + o) (Memory.readN s.hbm (0xBFFFF00000 + 4096 * k + o) n)) ∧
    (∀ o, o < 0x40000 → fit (0x300000 + o) → reads (0x300000 + o) (Memory.readN b.evMem o n)) ∧
    (∀ o, o < 0x1000000 → fit (0x400000 + o) → reads (0x400000 + o) (Memory.readN b.recovery o n))) ∧
 (∀ s : State,
    let b := s.board
    let reads (o v : Nat) : Prop := s.bar0Read o 8 = BitVec.ofNat 64 v
    b.eqHead < 4096 → b.eqTail < 4096 → b.healthy < 512 →
    reads 0x00 0x5758000900000001 ∧ reads 0x08 0x00010000 ∧
    (∀ d n, (d, n) ∈ [(DevState.reset, 0), (.recovery, 1), (.ready, 2), (.unusable, 3)] → b.devState = d → reads 0x10 n) ∧
    reads 0x18 b.healthy ∧ reads 0x20 b.eqHead ∧ reads 0x28 b.eqTail ∧ reads 0x30 0)

/-- A reset ends every thread and command without records, gives every core ASID 0 with no root, keeps HBM when it is warm, takes the
image of the recovery window, and boots: without a valid image STATE is recovery with every core held; else STATE is ready when H ≥
128 and unusable otherwise. The remap table names healthy cores only, a logical core of its own each, or its pair's, by H; the image
region of one that is not resident holds the state of core reset (R106, R108, R380, R381, R383, R387). What HBM holds after a cold
reset is a free value (log entry 3), and so are the image's checks and self-test (log entry 10) and the core of a pair that is
resident first (log entry 39). The core's state for which the spec gives no value after reset is log entry 1's, that the boot keeps
the region's bytes from 0xC0180 on log entry 33's. -/
def Obligations.ResetsAndBoot : Prop :=
  ∀ s : State,
    let b := s.board
    let v := s.target.value.toNat
    let taken (f : Memory) : Prop := Config.imageVerifies f = true ∧ b.fuses ≤ Config.imageVersion f
    let emptied (u : State) : Prop := u.groups = [] ∧ u.evPending = [] ∧ u.tlbs = [] ∧ u.flows = [] ∧ u.packets = [] ∧ u.agenda = [] ∧
      (∀ c, u.core c = {}) ∧ (∀ k, u.mailbox k = {}) ∧ u.board.helloOk = false ∧ u.board.eqHead = 0 ∧ u.board.eqTail = 0 ∧
      ∀ p, (u.port p).up = false ∧ (u.port p).failed = false
    let booted (u : State) : Prop :=
      let h := u.board.healthy
      u.board.health.length = h ∧ (∀ p, p ∈ u.board.health → p < 288) ∧ (128 ≤ h → u.board.devState = .ready ∧ u.board.stopped = false) ∧
      (h < 128 → u.board.devState = .unusable ∧ u.board.stopped = true) ∧
      (128 ≤ h → ∀ c, c < 256 → ∃ p, p ∈ u.board.health ∧ u.pcore c = p ∧
        ∀ d, d < 256 → (u.pcore d = p ↔ d = c ∨ h < 256 ∧ 2 * h ≤ c + 256 ∧ 2 * h ≤ d + 256 ∧ c / 2 = d / 2))
    let held (u : State) : Prop := u.board.devState = .recovery ∧ u.board.stopped = true
    let flash := if b.recoveryUsed then b.recovery else b.flash
    (v % 2 ^ 16 ≠ 0x5257 → exec .warmReset s = .next s) ∧
    let whole : Prop := taken flash ∧ (b.updating = false ∨ b.recoveryUsed = true)
    let after (u : State) : Prop := u.board.flash = flash ∧ emptied u ∧
      (whole → booted u ∧ u.board.fuses = Config.imageVersion flash) ∧ (¬ whole → held u ∧ u.board.fuses = b.fuses)
    let region (u : State) (a : Nat) : Prop := ∃ c, c ∈ u.away ∧ 0xBFC0000000 + 0x100000 * c ≤ a ∧ a < 0xBFC0000000 + 0x100000 * c + 0xC0180
    (v % 2 ^ 16 = 0x5257 → ∃ u, exec .warmReset s = .next u ∧ u.hostMem = s.hostMem ∧ u.board.devId = b.devIdNext ∧ after u ∧
      (s.hbm.wf = true → ∀ a, (region u a → u.hbm.read a = 0) ∧ (¬ region u a → u.hbm.read a = s.hbm.read a))) ∧
    ∃ u, exec .coldReset s = .next u ∧ after u ∧ u.board.devId = 0 ∧ u.board.devIdNext = 0

/-- Firmware's parts: an update writes flash and is under way until its last part; an attestation answers with DEVID, the nonce, the
measurements and a signature of 7,856 bytes; a device id of 12 bits waits for the next warm reset; the host link trains to the lower
of the rates and widths (R370, R381, R382, R387). How an update's parts are told apart is log entry 47's; that a part at address 0
clears the rest of the flash, and that an update ends the use of the recovery image, is log entry 71's. Power above the cap lowers the
core clock by 100 MHz; from 105 °C it falls to 800 MHz with a kind-5 record of DW1 = 1; from 115 °C every core stops, STATE is reset
and the record's DW1 is 2 (R376, R384). The core and context that the record names are free values. A port that is down exchanges
capability words and comes up with eight lanes or four when the peer's has major version 1, another device's id and the same lanes;
else it stays down until a reset. A packet goes from this end's landing to the peer's, its flits take sequence numbers, and the latest
256 are kept. A flit's sixteenth failed replay in a row, of a packet's any flit and either way, or a link that fails, takes the port
down, and the flows that cross it are broken (R309, R386–R389). Which packets were partly sent then is log entry 12's. -/
def Obligations.ModuleEvents : Prop :=
 (∀ s : State,
    let b := s.board
    let t := s.target
    (b.flash.wf = true → ∃ f, exec .firmwareUpdate s = .next { s with board := { b with flash := f, updating := t.unit != 1, recoveryUsed := false } } ∧
      ∀ a, f.read a = if t.id ≤ a ∧ a < t.id + t.data.length then t.data.getD (a - t.id) 0
        else if t.id = 0 then 0 else b.flash.read a) ∧
    (t.data.length = 32 → ∃ sig, sig.length = 7856 ∧
      let register (n : Nat) : List Byte := bytesOfNat 32 (SMap.get (0 : BitVec 256) b.measured n).toNat
      let reply := bytesOfNat 8 0x5758000900000001 ++ t.data ++ register 0 ++ register 1 ++ register 2 ++ sig
      exec .attestationRequest s = .next { s with board := { b with attest := reply } }) ∧
    exec .deviceIdSet s = .next { s with board := { b with devIdNext := t.id % 2 ^ 12 } } ∧
    exec .hostLinkTrain s = .next { s with board := { b with linkRate := min 128 t.id, linkWidth := min 16 t.size } }) ∧
 (∀ s : State,
    let b := s.board
    let t := s.target
    let posts (u : State) (d1 : DWord) : Prop := ∃ e, u.evPending = s.evPending ++ [e] ∧ e.kind = 5 ∧ e.d1 = d1 ∧
      e.d2 = BitVec.ofNat 64 t.id
    exec .powerCapSet s = .next { s with board := { b with powerCap := t.id } } ∧
    (b.powerCap < t.id → 100 < b.clockMHz →
      exec .powerCapThrottle s = .next { s with board := { b with clockMHz := b.clockMHz - 100 } }) ∧
    (t.id ≤ b.powerCap → exec .powerCapThrottle s = .next s) ∧
    (t.id < 105 → exec .thermalThrottle s = .next s) ∧
    (105 ≤ t.id → ∃ u, exec .thermalThrottle s = .next u ∧ u.board = { b with clockMHz := min b.clockMHz 800 } ∧ u.cores = s.cores ∧
      BytesSame s u ∧ posts u 1) ∧
    (t.id < 115 → exec .thermalShutdown s = .next s) ∧
    (115 ≤ t.id → ∃ u, exec .thermalShutdown s = .next u ∧ u.board.devState = .reset ∧ u.board.stopped = true ∧ u.cores = s.cores ∧
      BytesSame s u ∧ posts u 2 ∧
      (∀ v, SMap.get 0 u.board.raised v = SMap.get 0 b.raised v + if v = 2 ∧ b.devState ≠ .reset then 1 else 0) ∧ u.agenda = [] ∧ (∀ q, u.mayIssue q = false))) ∧
 (∀ s : State,
    let p := s.target.core
    let w := s.target.value.toNat
    let x := s.port p
    let lanes := s.target.size % 256
    let here : DWord := BitVec.ofNat 64 (2 ^ 48 + s.board.devId % 4096 * 2 ^ 20 + p % 16 * 2 ^ 16 + lanes * 2 ^ 8)
    let good : Prop := (lanes = 8 ∨ lanes = 4) ∧ w / 2 ^ 48 = 1 ∧ w / 2 ^ 20 % 2 ^ 12 ≠ s.board.devId % 4096 ∧ w / 2 ^ 8 % 2 ^ 8 = lanes
    let able : Prop := p < 16 ∧ x.up = false ∧ x.failed = false
    let still (y : Port) : Port := { y with out := [], txSeq := 0, store := [] }
    let crosses (r : FlowRec) : Prop := ∃ e, e ∈ r.entries ∧ (FTarget.port p ∈ e.targets ∨ e.via = some p)
    let down (u : State) : Prop := u.port p = {} ∧ (∀ n, n ≠ p → still (u.port n) = still (s.port n)) ∧ BytesSame s u ∧
      (SMap.wf s.flows = true → ∀ f r, s.flow f = some r →
        (¬ crosses r → u.flow f = some r) ∧
        (crosses r → ∃ r1, u.flow f = some r1 ∧ r1.broken = true ∧ r1.lost = p :: r.lost ∧ r1.brokenAt = (if r.broken then r.brokenAt else r.rounds) ∧
          ∀ e, e ∈ r1.entries → e.via = some p → e.dead = true))
    let n := s.target.seq
    let again (o : Nat × Nat) : Nat := if o.2 ≠ 0 ∧ o.1 = n then o.2 + 1 else 1
    let kept : Prop := ∃ e, e ∈ x.store ∧ e.1 = n
    (able → good → exec .portTrain s = .next (s.setPort p { x with up := true, lanes := lanes, minor := 0, sent := here, peer := s.target.value })) ∧
    (able → ¬ good → exec .portTrain s = .next (s.setPort p { x with failed := true, sent := here, peer := s.target.value })) ∧
    (¬ able → exec .portTrain s = .next s) ∧
    (∀ k : Pkt, let u := s.sendPort p k
      let y := u.port p
      let flits := 1 + (k.data.length + 127) / 128
      u.flows = s.flows ∧ BytesSame s u ∧ y.txSeq = (x.txSeq + flits) % 4096 ∧ y.store.length ≤ 256 ∧ (∀ n, n ≠ p → u.port n = s.port n) ∧
      ((∃ e, e ∈ y.store ∧ e.1 = x.txFail.1) → y.txFail = x.txFail) ∧ ((∀ e, e ∈ y.store → e.1 ≠ x.txFail.1) → y.txFail = (0, 0)) ∧
      let peer := x.peer.toNat
      let to_ := portLand (peer / 2 ^ 16 % 16 / 4)
      let dev := peer / 2 ^ 20 % 2 ^ 12
      ∃ o, y.out = x.out ++ [o] ∧ { o with id := 0 } = { k with id := 0, src := portLand (p / 4), dst := to_, sdev := s.board.devId, ddev := dev } ∧
        ∀ j, j < flits → j + 256 ≥ flits → ((x.txSeq + j) % 4096, o) ∈ y.store) ∧
    (x.up = false → exec .flitCrcError s = .next s ∧ exec .portDown s = .next s) ∧
    (x.up = true → s.target.unit = 1 →
      (¬ kept → exec .flitCrcError s = .next s) ∧
      (kept → again x.txFail ≤ 16 → exec .flitCrcError s = .next (s.setPort p { x with txFail := (n, again x.txFail) })) ∧
      (kept → 16 < again x.txFail → ∃ u, exec .flitCrcError s = .next u ∧ down u)) ∧
    (x.up = true → s.target.unit = 2 → (x.txFail.1 = n → exec .flitCrcError s = .next (s.setPort p { x with txFail := (0, 0) })) ∧
      (x.txFail.1 ≠ n → exec .flitCrcError s = .next s)) ∧
    (x.up = true → s.target.unit = 0 →
      let ahead (m : Nat) : Nat := (m + 4096 - x.rxSeq % 4096) % 4096
      let comes : Prop := n < 4096 ∧ ahead n ≤ 16 ∧ (x.rxFail.2 = 0 ∨ ahead x.rxFail.1 ≤ ahead n)
      (¬ comes → exec .flitCrcError s = .next s) ∧
      (comes → again x.rxFail ≤ 16 → exec .flitCrcError s = .next (s.setPort p { x with rxFail := (n, again x.rxFail) })) ∧
      (comes → 16 < again x.rxFail → ∃ u, exec .flitCrcError s = .next u ∧ down u)) ∧
    (x.up = true → ∃ u, exec .portDown s = .next u ∧ down u))

/-- The loader takes the record of highest priority that arrived first, on a core with no live thread, no forked program and no item.
A rejected image posts a kind-4 record and changes no memory; an accepted one starts its threads in the reset state, with the argument
base in s1, the number in s2, the stage in s3, the record's priority and seed (R110, R113, R128, R376). A launch whose threads would
take a saved context waits (R360; log entry 40), and a walk that reads no memory stops the machine (log entry 51). A nack not yet
reported becomes pending in the lowest live context (R347; log entry 68). The checks of an image before its code sections, each made
once those before it hold: the pages of its first 16 bytes, the magic and the major version, the pages of the header, its length and
the kinds of its sections, and the pages of every section, of whose faults the lowest address is reported; then the checks of its
contents (R51, R111). The checks of an image from its code sections on, in the order of R111, each with its reason (log entry 55). -/
def Obligations.LaunchesAndImages : Prop :=
 (∀ (s : State) (c : Nat) (before rest : List LaunchRec) (r : LaunchRec), s.target.core = c →
    let k := s.core c
    k.launchQ = before ++ r :: rest → (∀ x, x ∈ before → x.prio < r.prio) → (∀ x, x ∈ rest → x.prio ≤ r.prio) →
    SMap.wf k.ctxs = true →
    let able : Prop := (∀ x, (s.ctx c x).live = false) ∧ (∀ n, (s.slot c n).owner = none) ∧ k.arc.owner = none ∧ k.items = [] ∧
      s.away.contains c = false ∧ s.board.devState = .ready ∧ ∀ e, e ∈ s.evPending → ¬ (e.kind = 4 ∧ e.core = c)
    let s1 := s.setCore c { k with launchQ := before ++ rest }
    (¬ able → exec .launchTake s = .next s) ∧
    (able → s1.readImage c r.image.toNat = .error .noMemory → exec .launchTake s = .fault .noMemory) ∧
    (able → ∀ n va, s1.readImage c r.image.toNat = .error (.reason n va) →
      exec .launchTake s = .next { s1 with evPending := s.evPending ++ [⟨4, c, 0xFF, BitVec.ofNat 64 n, BitVec.ofNat 64 va, 0⟩] }) ∧
    let saved (g : Image) : Prop := ∃ x, x ∈ SMap.keys k.savedCtxs ∧ x < g.threads.length
    (able → ∀ g s2, s1.readImage c r.image.toNat = .ok (g, s2) → saved g → exec .launchTake s = .next s) ∧
    (able → ∀ g s2, s1.readImage c r.image.toNat = .ok (g, s2) → ¬ saved g → ∃ t, exec .launchTake s = .next t ∧
      (∀ d, d ≠ c → t.core d = s2.core d) ∧ { t with cores := s2.cores } = s2 ∧
      (t.core c).launchQ = (s2.core c).launchQ ∧ (t.core c).stages = g.stages ∧
      (∀ j, (t.core c).queues.length = g.queues.length ∧ ∀ q, g.queues[j]? = some q → SMap.get q (t.core c).queues j = q) ∧
      (t.core c).spad = g.intoSpad (s2.core c).spad ∧
      (∀ m : IMem, (match m with
        | .control => (t.core c).imemC
        | .vector => (t.core c).imemV
        | .arcade => (t.core c).imemA) = imemOf g.secs m) ∧
      ∀ x, (∀ e i, g.threads[x]? = some (e, i) →
          let u := t.ctx c x
          u.live = true ∧ u.prog.pc = BitVec.ofNat 64 e ∧ u.prog.getS 1 = r.arg ∧ u.prog.getS 2 = BitVec.ofNat 64 i ∧
          (∀ n, (∃ f, g.stages.find? (fun e' => e'.2 == e) = some (n, f)) → u.prog.getS 3 = BitVec.ofNat 64 n ∧ u.stage = some n) ∧
          ((∀ n, (n, e) ∉ g.stages) → u.prog.getS 3 = 0xFFFFFFFFFFFFFFFF ∧ u.stage = none) ∧
          (∀ n, 3 < n → u.prog.getS n = 0) ∧ (∀ n, u.prog.getB n = 0) ∧ u.prio = r.prio ∧ u.tseed = r.seed ∧
          u.modeM = false ∧ u.modeH = false ∧ u.modeRev = false ∧ u.instret = 0 ∧ u.cycleBase = s2.now ∧ u.tvec = 0 ∧
          u.fsr = 0 ∧ u.fte = 0 ∧ u.frm = 0) ∧
        (g.threads.length ≤ x → (t.ctx c x).live = false))) ∧
 ((∀ (s : State) (c va : Nat),
    let rejects (n : Nat) : Prop := s.readImage c va = .error (.reason n 0)
    (∀ e, s.imagePages c va 16 = .error e → s.readImage c va = .error e) ∧
    ∀ ps s1, s.imagePages c va 16 = .ok (ps, s1) →
      let at_ (o n : Nat) : Nat := natOfBytes (s1.readVa ps (va + o) n)
      let hlen := at_ 12 4
      let known : Prop := at_ 0 4 = 0x4D49574B ∧ at_ 4 2 = 1
      (¬ known → rejects 1) ∧ (∀ e, known → s1.imagePages c va hlen = .error e → s.readImage c va = .error e) ∧
      ∀ qs s2, known → s1.imagePages c va hlen = .ok (qs, s2) →
        let field (i o : Nat) : Nat := natOfBytes (s2.readVa qs (va + 16 + 16 * i + o) 4)
        let recs : List Section := (List.range (at_ 8 4)).map (fun i => { kind := field i 0, addr := field i 4, len := field i 8, off := field i 12 })
        let bad : Prop := hlen < 16 + 16 * at_ 8 4 ∨ ∃ x, x ∈ recs ∧ (x.kind < 1 ∨ 8 < x.kind)
        (bad → rejects 1) ∧
        (∀ e, ¬ bad → State.readSections c va recs s2 none [] = .error e → s.readImage c va = .error e) ∧
        ∀ xs s3, ¬ bad → State.readSections c va recs s2 none [] = .ok (xs, s3) →
          (∀ r, imageReason xs (s.pool c) = some r → rejects r) ∧
          (imageReason xs (s.pool c) = none → s.readImage c va =
            .ok ({ secs := xs, entries := entriesIn xs, stages := stagesIn xs, queues := queuesIn xs }, s3))) ∧
  (∀ (s : State) (c lo n : Nat),
    let walk := s.xlateRange c (lo + n - 1) true false (fun _ => none) (n / 65536 + 2) lo
    (n = 0 → s.imagePages c lo n = .ok ([], s)) ∧ (∀ f v, n ≠ 0 → walk = .trap f v → s.imagePages c lo n = .error (.reason 9 v.toNat)) ∧
    ∀ ps s1, n ≠ 0 → walk = .pages ps s1 → s.imagePages c lo n = .ok (ps, s1)) ∧
  ∀ (s : State) (c va : Nat) (x : Section) (l acc : List Section) (low : Option Reject),
    State.readSections c va [] s none acc = .ok (acc, s) ∧ (∀ r, State.readSections c va [] s (some r) acc = .error r) ∧
    (∀ ps s1, s.imagePages c (va + x.off) x.len = .ok (ps, s1) → State.readSections c va (x :: l) s low acc =
      State.readSections c va l s1 low (acc ++ [{ x with data := s1.readVa ps (va + x.off) x.len }])) ∧
    ∀ v, s.imagePages c (va + x.off) x.len = .error (.reason 9 v) →
      (low = none → State.readSections c va (x :: l) s low acc = State.readSections c va l s (some (.reason 9 v)) acc) ∧
      ∀ w, low = some (.reason 9 w) → State.readSections c va (x :: l) s low acc = State.readSections c va l s (some (.reason 9 (min w v))) acc) ∧
 (∀ (xs : List Section) (pool : Nat),
    let es := entriesIn xs
    let st := stagesIn xs
    let qs := queuesIn xs
    let total := (es.map Prod.snd).sum
    let c6 : Prop := ∃ x m, x ∈ xs ∧ codeMemory x.kind = some m ∧
      (m.bytes < x.addr + x.len ∨ x.addr % 128 ≠ 0 ∨ x.len % 128 ≠ 0)
    let c8 : Prop := ∃ e, e ∈ es ∧ (e.2 < 1 ∨ 24 < e.2)
    let entry (a : Nat) : Prop := a < 131072 ∧ a % 128 = 8 ∧ (SMap.get (0 : Word) (imemOf xs .control) (a / 4 - 1)).getLsbD 0 = true
    let c10 : Prop := (∃ e, e ∈ es ∧ ¬ entry e.1) ∨ ∃ e, e ∈ st ∧ ¬ entry e.2
    let c11 : Prop := ¬ ((st.map Prod.fst).Nodup ∧ (st.map Prod.snd).Nodup)
    let named (n : Nat) : Prop := ∃ e, e ∈ st ∧ e.1 = n
    let c12 : Prop := ∃ q, q ∈ qs ∧ (¬ named q.from_ ∨ ¬ named q.to_ ∨ q.from_ = q.to_ ∨ q.depth < 1 ∨ 256 < q.depth)
    (c6 → imageReason xs pool = some 2) ∧
    (¬ c6 → total = 0 → imageReason xs pool = some 3) ∧
    (¬ c6 → total ≠ 0 → c8 → imageReason xs pool = some 10) ∧
    (¬ c6 → total ≠ 0 → ¬ c8 → pool < total → imageReason xs pool = some 4) ∧
    (¬ c6 → total ≠ 0 → ¬ c8 → total ≤ pool → c10 → imageReason xs pool = some 5) ∧
    (¬ c6 → total ≠ 0 → ¬ c8 → total ≤ pool → ¬ c10 → c11 → imageReason xs pool = some 6) ∧
    (¬ c6 → total ≠ 0 → ¬ c8 → total ≤ pool → ¬ c10 → ¬ c11 → c12 → imageReason xs pool = some 7) ∧
    (¬ c6 → total ≠ 0 → ¬ c8 → total ≤ pool → ¬ c10 → ¬ c11 → ¬ c12 → 16 < qs.length → imageReason xs pool = some 8) ∧
    (¬ c6 → total ≠ 0 → ¬ c8 → total ≤ pool → ¬ c10 → ¬ c11 → ¬ c12 → qs.length ≤ 16 → imageReason xs pool = none))

/-- Guards and T bits (R25, R27, R101). A scalar guard of `LEA`, `SEL`, a compare with an immediate, `LAMO`, `HPATCH`, `GAMO`, a copy,
`MX.OUT` or `ASP.CVT`: while its register is empty the instruction stalls, whatever its sources hold; under a false guard it retires
without effect; under a true one, or none, the first of its sources that is empty under a T bit traps EMPTY with its number. An
instruction of the vector engine, a move or an access to the scratchpad, a stream or a tile included: while its guard, a v register,
is empty it stalls; once the guard is full, or without one, the first of its sources that is empty under a T bit traps EMPTY with its
number, whatever lanes the guard enables (log entry 67 on the lanes). -/
def Obligations.GuardsAndMarks : Prop :=
 (∀ (s : State) (d a b fn : Reg) (imm : BitVec 12) (lw : LW), Stands s 2 .any →
    let ab := [srcS a lw.ta, srcS b lw.tb]
    let abc := ab ++ [srcS lw.x lw.tc]
    let handles := [srcH a lw.ta, srcH b lw.tb]
    ∀ p ∈ [(Instr.lea d a b fn lw, ab), (.sel d a b lw, abc), (.cmpi d a imm lw, [srcS a lw.ta]), (.lamo d a b lw, abc),
        (.hpatch a b fn lw, ab), (.gamo d a b fn lw, abc), (.cpy d a b fn lw, handles), (.cpyT d a b fn lw, handles),
        (.cpyP d a b fn lw, handles), (.cpyQ d a b fn lw, handles), (.cpyQT d a b fn lw, handles), (.cpyGath d a b fn lw, handles),
        (.cpyPair d a b fn lw, handles), (.cpyScale d a b fn lw, [srcH a lw.ta]), (.cpyStrm d a b fn lw, [srcH a lw.ta]),
        (.cpyHost d a b fn lw, [srcH a lw.ta]), (.mxOut d a b fn lw, [srcH a lw.ta]), (.aspCvt d a b fn lw, [srcS a lw.ta])],
      GuardsScalar s lw p.1 p.2) ∧
 (∀ (s : State) (d a b fn : Reg) (lw : LW), Stands s 2 .any →
    let va := [srcV a lw.ta]
    let vv := [srcV a lw.ta, srcV b lw.tb]
    let sa := [srcS a lw.ta]
    let ss := [srcS a lw.ta, srcS b lw.tb]
    let sv := [srcS a lw.ta, srcV b lw.tb]
    let vs := [srcV a lw.ta, srcS b lw.tb]
    let vvv := vv ++ [srcV lw.x lw.tc]
    let vx := [srcV a lw.ta, srcV lw.x lw.tc]
    ∀ p ∈ [(Instr.viadd d a b fn lw, vv), (.visub d a b fn lw, vv), (.vimul d a b fn lw, vv), (.vimulh d a b fn lw, vv),
        (.vand d a b fn lw, vv), (.vor d a b fn lw, vv), (.vxor d a b fn lw, vv), (.vshl d a b fn lw, vv), (.vshr d a b fn lw, vv),
        (.vsar d a b fn lw, vv), (.vimin d a b fn lw, vv), (.vimax d a b fn lw, vv), (.vsadd d a b fn lw, vv), (.viabs d a fn lw, va),
        (.vpopc d a fn lw, va), (.vsel d a b fn lw, vvv), (.vany d a fn lw, va), (.vall d a fn lw, va)]
      ++ [(.vadd d a b fn lw, vv), (.vsub d a b fn lw, vv), (.vmul d a b fn lw, vv), (.vfma d a b fn lw, vvv), (.vfms d a b fn lw, vvv),
        (.vfnma d a b fn lw, vvv), (.vdiv d a b fn lw, vv), (.vsqrt d a fn lw, va), (.vmin d a b fn lw, vv), (.vmax d a b fn lw, vv),
        (.vabs d a fn lw, va), (.vneg d a fn lw, va), (.vexp d a fn lw, va), (.vlog d a fn lw, va), (.verf d a fn lw, va),
        (.vclass d a fn lw, va), (.vcmp d a b fn lw, vv)]
      ++ [(.vmov d a fn lw, va), (.vbcast d a fn lw, sa), (.vslide d a b fn lw, vs), (.vperm d a b fn lw, vv), (.vshuf d a b fn lw, vv),
        (.vtrn d a fn lw, va), (.vext d a b fn lw, vs), (.vins d a b fn lw, ss), (.vcvt d a b fn lw, va), (.vqmx d a b fn lw, vx),
        (.vdqmx d a b fn lw, vx), (.vrsum d a fn lw, va), (.vrmax d a fn lw, va), (.vrmin d a fn lw, va), (.vrarg d a fn lw, va),
        (.vtopk d a b fn lw, vs), (.vrng d a b lw, sv), (.vhash d a b fn lw, sv)]
      ++ [(.vld d a fn lw, sa), (.vst d a fn lw, sa), (.vldS d a b fn lw, ss), (.vstS d a b fn lw, ss), (.vldX d a b fn lw, sv),
        (.vstX d a b fn lw, sv), (.vldq d a fn lw, []), (.ardRow d a b fn lw, [srcS b lw.tb]), (.ardCol d a b fn lw, [srcS b lw.tb]),
        (.awrRow d a b fn lw, [srcS b lw.tb]), (.awrCol d a b fn lw, [srcS b lw.tb])],
      GuardsLanes s lw p.1 p.2)

/-- A step takes the first turn of the agenda. A sequencer that may issue and has no cause pending runs the instruction that its fetch
gives, or takes the trap of the check that failed; an event happens to its target; with no turn left a clock passes. The order of a
clock's turns, and that an event takes a step of its own, are log entry 7's. -/
def Obligations.StepsRunTheDecoded : Prop :=
  (∀ (s : State) (q : Seqr) (r : List Turn), s.agenda = .issue q :: r →
    let s1 : State := { s with agenda := r }
    let found := s1.fetch q (Config.freeWord s.draws)
    (s1.mayIssue q = false → step s = .next s1) ∧
    (s1.mayIssue q = true → s1.hasAsync q = false →
      (∀ i, found = .ok i → step s = exec i { s1 with cur := q }) ∧
      ∀ c v p, found = .bad c v p → step s = .next (({ s1 with cur := q, draws := s.draws + 1, stalled := false } : State).raise q
        ⟨c, v, p, (s.prog q).pend⟩)) ∧
    (∀ c x, q = .thread c x → s1.mayIssue q = true → s1.hasAsync q = true →
      step s = exec .asyncCauseTaken { s1 with target := { core := c, unit := x } })) ∧
  (∀ (s : State) (i : Instr) (x : Target) (r : List Turn), s.agenda = .event i x :: r →
    step s = exec i { s with agenda := r, target := x }) ∧
  (∀ (s : State) (c v : DWord) (k : Cause), exec (.undefinedMop k v c) s = .next ((fresh s).raise s.cur ⟨k, v, c, (s.prog s.cur).pend⟩)) ∧
  ∀ s : State, s.agenda = [] → ∃ u, step s = .next u ∧ u.now = s.now + 1 ∧ u.stalled = false ∧
    { u with now := s.now, stalled := s.stalled, agenda := [], draws := s.draws } = s

/-- The checks on an instruction that a sequencer reaches, in their order: the memory's bounds, its words' errors, the line's kind,
the marks of a checked transfer, the MOP, the START bits and the fields (R29–R33, R35). At a launch's entry the CFI value is a free
value (log entry 6); the words that an instruction needs are log entry 48's; that an unchecked arrival at a misaligned address traps
ILLEN is the model's choice (log entry 54). -/
def Obligations.FetchChecks : Prop :=
  ∀ (s : State) (q : Seqr) (free : DWord),
    let p := s.prog q
    let a := p.pc.toNat
    let ln := a / 128 * 128
    let w := a / 4 % 32
    let head := s.iword q ln
    let start (k : Nat) : Prop := 2 ≤ k ∧ head.getLsbD (k - 2) = true
    let target (k : Nat) : Prop := 2 ≤ k ∧ (s.iword q (ln + 4)).getLsbD (k - 2) = true
    let bad (b : Nat) : Prop := s.atM q = false ∧ ∃ n, (q.imem, n) ∈ (s.core q.core).badWords ∧ n / 2 = b / 8
    let gives (c : Cause) (v : DWord) : Prop := s.fetch q free = .bad c v p.pc
    let from_ := match p.arrive with
      | .plain => p.pc
      | .checked x => x.xaddr
      | .untaken _ => p.pc
      | .fork f => f
      | .launch => free
    let dist (n : Nat) : Prop := 1 ≤ n ∧ w + n ≤ 32 ∧ (w + n = 32 ∨ start (w + n)) ∧ ∀ j, 1 ≤ j → j < n → ¬ start (w + j)
    let unchecked : Prop := p.arrive = .plain ∨ ∃ x, p.arrive = .untaken x
    let needed := if w < 2 then 1 else min ((mopLength q.imem (s.iword q a).fMop.toNat).getD 1) (32 - w)
    let damaged : Prop := bad ln ∨ ∃ k, k < needed ∧ bad (a + 4 * k)
    let inside : Prop := a < q.imem.bytes
    let plainLine : Prop := head.toNat < 2 ^ 30 ∧ (s.iword q (ln + 4)).toNat < 2 ^ 30
    (¬ inside → gives .cfi from_) ∧
    (inside → a % 4 ≠ 0 → (unchecked → gives .illen p.pc) ∧ (¬ unchecked → gives .cfi from_)) ∧
    (inside → a % 4 = 0 →
      (damaged → gives .eccu (BitVec.ofNat 64 ln)) ∧
      (¬ damaged →
        (¬ plainLine → gives .illegal (BitVec.ofNat 64 ln)) ∧
        (plainLine →
          (¬ unchecked → ¬ (start w ∧ target w) → gives .cfi from_) ∧
          (unchecked ∨ start w ∧ target w →
            (w < 2 → gives .illen p.pc) ∧
            (2 ≤ w →
              (mopLength q.imem (s.iword q a).fMop.toNat = none → gives .illegal p.pc) ∧
              ∀ n, mopLength q.imem (s.iword q a).fMop.toNat = some n →
                let sound : Prop := start 2 ∧ start w ∧ dist n
                let ws := (List.range n).map (fun k => s.iword q (a + 4 * k))
                (¬ sound → gives .illen p.pc) ∧
                (sound →
                  (∀ i, decode q.imem ws = .ok i → s.fetch q free = .ok i) ∧
                  ∀ e, decode q.imem ws = .error e → gives .illegal p.pc))))))

/-- The words of the spec's worked line decode to the instructions it names (R34), and a word of MOP 0x00 or 0xFF, a shift with a set
upper field and a bit field beyond bit 63 decode to none (R22, R36, R40). -/
def Obligations.WordsDecode : Prop :=
  decode .control [0x020C4140] = .ok (.add 3 4 5) ∧
  decode .control [0x41180000, 0x12345678] = .ok (.li 6 0x12345678) ∧
  decode .control [0x20186FFF] = .ok (.addi 6 6 0xFFF) ∧
  decode .control [0x401C60C3, 0x82140010] = .ok (.lea 7 6 3 3
    { g := true, n := false, greg := 2, gbit := 5, rm := 0, ta := false, tb := false, tc := false, x := 0, y := 16 }) ∧
  decode .control [0x4E000000] = .ok .ret ∧ decode .vector [0x01000000] = .ok .nop ∧
  decode .control [0x00000000] = .error .undefinedMop ∧ decode .arcade [0xFF000000] = .error .undefinedMop ∧
  decode .vector [0x24042040] = .error .reservedField ∧ decode .control [0x3D042FFF] = .error .reservedField

/-- Decoding and encoding agree: the words of a well-formed instruction, in a memory that holds it, decode to it whatever follows
them, and an instruction that decodes is well formed, stands in a memory that holds it, and has those very words (R22–R28, R36–R40). -/
def Obligations.RoundTrip : Prop :=
  (∀ (m : IMem) (i : Instr) (rest : List Word), i.wf = true → inMem m i = true → decode m (encode i ++ rest) = .ok i) ∧
  ∀ (m : IMem) (i : Instr) (ws : List Word), decode m ws = .ok i →
    i.wf = true ∧ inMem m i = true ∧ ∃ rest, ws = encode i ++ rest ∧ mopLength m (ws.headD 0).fMop.toNat = some (encode i).length

/-- What reset leaves, before boot: every register of every thread at the value the spec's tables give, nothing empty, an empty
scratchpad, zeroed instruction memories, scale memory, tags and tiles, the sequence counter at 1, and STATE 0 (R10, R17, R20, R21,
R29, R131, R198, R200, R206, R264, R270, R372). Both invariants hold right after reset. -/
def Obligations.ResetValues : Prop :=
 (let s := State.reset
  (∀ c x,
    let t := s.ctx c x
    t.live = false ∧ (∀ n, t.prog.getS n = 0 ∧ t.prog.isEmptyS n = false) ∧ (∀ n, SMap.get 0 t.h n = 0 ∧ SMap.get 0 t.v n = 0) ∧
      t.hEmpty = 0 ∧ t.vEmpty = 0 ∧ (∀ n, t.prog.getB n = 0 ∧ (SMap.get {} t.prog.loops.lc n).count = 0) ∧ t.prio = 0 ∧ t.frm = 0 ∧
      t.fsr = 0 ∧ t.fte = 0 ∧ t.modeM = false ∧ t.modeH = false ∧ t.modeRev = false ∧ t.tvec = 0 ∧ t.tcause = 0 ∧ t.tval = 0 ∧
      t.tpc = 0 ∧ t.tstate = 0 ∧ t.tapebase = 0 ∧ t.tapelim = 0 ∧ t.tapeptr = 0 ∧ t.pinquota = 0 ∧ t.tseed = 0 ∧ t.instret = 0) ∧
  (∀ c,
    let k := s.core c
    (∀ a, k.spad.read a = 0 ∧ k.scaleMem.read a = 0) ∧ (∀ n, SMap.get 0 k.imemC n = 0 ∧ SMap.get 0 k.imemV n = 0 ∧ SMap.get 0 k.imemA n = 0) ∧
      (∀ n, SMap.get 0 k.blockTag n = 0) ∧ (∀ n, (SMap.get {} k.tagSets n).ways = []) ∧ (∀ n, (SMap.get {} k.streams n).ring = none) ∧
      (∀ n, SMap.get {} k.tiles n = {}) ∧ k.items = [] ∧ k.nextSeq = 1) ∧
  s.board.register 0x10 = 0 ∧ s.board.register 0x18 = 0 ∧ s.board.register 0x20 = 0 ∧ s.board.register 0x28 = 0) ∧
 (BoardOk State.reset ∧ ListsOk State.reset)

/-- Whatever happens, EQHEAD and EQTAIL keep within 12 bits, and STATE is ready only on a device with at least 128 healthy physical
cores whose cores are not held (R106, R372, R376, R380, R384). -/
def Obligations.StepsKeepTheBoard : Prop := Keeps BoardOk

/-- Whatever happens, HBM and the scratchpads keep their canonical form, and contexts and flows stay listed once each, in order. -/
def Obligations.StepsKeepTheLists : Prop := Keeps ListsOk
end

