-- ==== Sys2Proof/Laws/SMap.lean ====
section
/-! SUPPORT. Sparse maps: a read after a write gives what was written, a write leaves every other key alone, and every
operation keeps the keys rising. -/

namespace Sys2Proof.SMap

variable {α : Type}

@[simp] theorem get_nil (d : α) (n : Nat) : SMap.get d [] n = d := rfl

@[simp] theorem get_set_self (d : α) (m : SMap α) (n : Nat) (x : α) : SMap.get d (SMap.set m n x) n = x := by
  induction m with
  | nil => simp [SMap.set, SMap.get]
  | cons p r ih =>
    obtain ⟨k, v⟩ := p
    simp only [SMap.set]
    split
    · simp [SMap.get]
    · split
      · simp [SMap.get]
      · next h _ => simp [SMap.get, Ne.symm h, ih]

theorem get_set_of_ne (d : α) (m : SMap α) {n k : Nat} (h : k ≠ n) (x : α) :
    SMap.get d (SMap.set m n x) k = SMap.get d m k := by
  induction m with
  | nil => simp [SMap.set, SMap.get, Ne.symm h]
  | cons p r ih =>
    obtain ⟨j, v⟩ := p
    simp only [SMap.set]
    split
    · next e => subst e; simp [SMap.get, Ne.symm h]
    · split
      · simp [SMap.get, Ne.symm h]
      · simp only [SMap.get, ih]

theorem get_set (d : α) (m : SMap α) (n k : Nat) (x : α) :
    SMap.get d (SMap.set m n x) k = if k = n then x else SMap.get d m k := by
  split
  · next e => subst e; simp
  · next e => exact get_set_of_ne d m e x

theorem get_erase (d : α) (m : SMap α) (n k : Nat) :
    SMap.get d (SMap.erase m n) k = if k = n then d else SMap.get d m k := by
  induction m with
  | nil => simp [SMap.erase]
  | cons p r ih =>
    obtain ⟨j, v⟩ := p
    simp only [SMap.erase]
    by_cases hj : j = n
    · subst hj
      rw [if_pos rfl, ih]
      by_cases hk : k = j
      · simp [hk]
      · simp [hk, SMap.get, Ne.symm hk]
    · rw [if_neg hj]
      simp only [SMap.get]
      by_cases hk : j = k
      · subst hk; simp [hj]
      · simp [hk, ih]

@[simp] theorem set_set (m : SMap α) (n : Nat) (x y : α) : SMap.set (SMap.set m n x) n y = SMap.set m n y := by
  induction m with
  | nil => simp [SMap.set]
  | cons p r ih =>
    obtain ⟨j, v⟩ := p
    by_cases h1 : n = j
    · simp [SMap.set, h1]
    · by_cases h2 : n < j
      · simp [SMap.set, h1, h2]
      · simp [SMap.set, h1, h2, ih]

theorem wf_set_aux (m : SMap α) (n : Nat) (x : α) :
    SMap.wf m = true → SMap.wf (SMap.set m n x) = true ∧
      ∀ k, k < n → (∀ p ∈ m.head?, k < p.1) → ∀ p ∈ (SMap.set m n x).head?, k < p.1 := by
  induction m with
  | nil => intro _; refine ⟨rfl, ?_⟩; intro k hk _ p hp; simp [SMap.set] at hp; subst hp; exact hk
  | cons a r ih =>
    obtain ⟨j, v⟩ := a
    intro h
    refine ⟨?_, ?_⟩
    · simp only [SMap.set]
      split
      · next e => subst e; cases r <;> simpa [SMap.wf] using h
      · split
        · next hlt => simp only [SMap.wf, Bool.and_eq_true, decide_eq_true_eq]; exact ⟨hlt, h⟩
        · next h1 h2 =>
          have hr : SMap.wf r = true := by cases r with
            | nil => rfl
            | cons b q => simp only [SMap.wf, Bool.and_eq_true] at h; exact h.2
          have hj : ∀ p ∈ r.head?, j < p.1 := by
            cases r with
            | nil => simp
            | cons b q => intro p hp; simp at hp; subst hp; simp only [SMap.wf, Bool.and_eq_true, decide_eq_true_eq] at h; exact h.1
          obtain ⟨w, hh⟩ := ih hr
          have := hh j (by omega) hj
          cases hs : SMap.set r n x with
          | nil => rfl
          | cons b q =>
            rw [hs] at this w
            simp only [SMap.wf, Bool.and_eq_true, decide_eq_true_eq]
            exact ⟨this b rfl, w⟩
    · intro k hk hm p hp
      simp only [SMap.set] at hp
      have hkj : k < j := hm (j, v) rfl
      split at hp
      · simp at hp; subst hp; exact hk
      · split at hp
        · simp at hp; subst hp; exact hk
        · simp at hp; subst hp; exact hkj

/-- A write keeps the keys rising. -/
theorem wf_set (m : SMap α) (n : Nat) (x : α) (h : SMap.wf m = true) : SMap.wf (SMap.set m n x) = true :=
  (wf_set_aux m n x h).1

end Sys2Proof.SMap
end

