-- ==== Sys2Proof/Laws/State.lean ====
section
/-! SUPPORT. Reading the state after an update: every field of the device that an update leaves alone, and the core, context,
slot, Arcade, program and register that an update writes. -/

namespace Sys2Proof.Machine.State

@[simp] theorem hbm_setCore (s : State) (c : Nat) (k : Core) : (s.setCore c k).hbm = s.hbm := rfl
@[simp] theorem hostMem_setCore (s : State) (c : Nat) (k : Core) : (s.setCore c k).hostMem = s.hostMem := rfl
@[simp] theorem groups_setCore (s : State) (c : Nat) (k : Core) : (s.setCore c k).groups = s.groups := rfl
@[simp] theorem monCode_setCore (s : State) (c : Nat) (k : Core) : (s.setCore c k).monCode = s.monCode := rfl
@[simp] theorem evPending_setCore (s : State) (c : Nat) (k : Core) : (s.setCore c k).evPending = s.evPending := rfl
@[simp] theorem tlbs_setCore (s : State) (c : Nat) (k : Core) : (s.setCore c k).tlbs = s.tlbs := rfl
@[simp] theorem flows_setCore (s : State) (c : Nat) (k : Core) : (s.setCore c k).flows = s.flows := rfl
@[simp] theorem packets_setCore (s : State) (c : Nat) (k : Core) : (s.setCore c k).packets = s.packets := rfl
@[simp] theorem nextPkt_setCore (s : State) (c : Nat) (k : Core) : (s.setCore c k).nextPkt = s.nextPkt := rfl
@[simp] theorem ports_setCore (s : State) (c : Nat) (k : Core) : (s.setCore c k).ports = s.ports := rfl
@[simp] theorem remap_setCore (s : State) (c : Nat) (k : Core) : (s.setCore c k).remap = s.remap := rfl
@[simp] theorem away_setCore (s : State) (c : Nat) (k : Core) : (s.setCore c k).away = s.away := rfl
@[simp] theorem sliceAt_setCore (s : State) (c : Nat) (k : Core) : (s.setCore c k).sliceAt = s.sliceAt := rfl
@[simp] theorem board_setCore (s : State) (c : Nat) (k : Core) : (s.setCore c k).board = s.board := rfl
@[simp] theorem now_setCore (s : State) (c : Nat) (k : Core) : (s.setCore c k).now = s.now := rfl
@[simp] theorem agenda_setCore (s : State) (c : Nat) (k : Core) : (s.setCore c k).agenda = s.agenda := rfl
@[simp] theorem cur_setCore (s : State) (c : Nat) (k : Core) : (s.setCore c k).cur = s.cur := rfl
@[simp] theorem target_setCore (s : State) (c : Nat) (k : Core) : (s.setCore c k).target = s.target := rfl
@[simp] theorem stalled_setCore (s : State) (c : Nat) (k : Core) : (s.setCore c k).stalled = s.stalled := rfl
@[simp] theorem draws_setCore (s : State) (c : Nat) (k : Core) : (s.setCore c k).draws = s.draws := rfl

@[simp] theorem hbm_setCtx (s : State) (c x : Nat) (t : Ctx) : (s.setCtx c x t).hbm = s.hbm := rfl
@[simp] theorem hostMem_setCtx (s : State) (c x : Nat) (t : Ctx) : (s.setCtx c x t).hostMem = s.hostMem := rfl
@[simp] theorem groups_setCtx (s : State) (c x : Nat) (t : Ctx) : (s.setCtx c x t).groups = s.groups := rfl
@[simp] theorem monCode_setCtx (s : State) (c x : Nat) (t : Ctx) : (s.setCtx c x t).monCode = s.monCode := rfl
@[simp] theorem evPending_setCtx (s : State) (c x : Nat) (t : Ctx) : (s.setCtx c x t).evPending = s.evPending := rfl
@[simp] theorem tlbs_setCtx (s : State) (c x : Nat) (t : Ctx) : (s.setCtx c x t).tlbs = s.tlbs := rfl
@[simp] theorem flows_setCtx (s : State) (c x : Nat) (t : Ctx) : (s.setCtx c x t).flows = s.flows := rfl
@[simp] theorem packets_setCtx (s : State) (c x : Nat) (t : Ctx) : (s.setCtx c x t).packets = s.packets := rfl
@[simp] theorem nextPkt_setCtx (s : State) (c x : Nat) (t : Ctx) : (s.setCtx c x t).nextPkt = s.nextPkt := rfl
@[simp] theorem ports_setCtx (s : State) (c x : Nat) (t : Ctx) : (s.setCtx c x t).ports = s.ports := rfl
@[simp] theorem remap_setCtx (s : State) (c x : Nat) (t : Ctx) : (s.setCtx c x t).remap = s.remap := rfl
@[simp] theorem away_setCtx (s : State) (c x : Nat) (t : Ctx) : (s.setCtx c x t).away = s.away := rfl
@[simp] theorem sliceAt_setCtx (s : State) (c x : Nat) (t : Ctx) : (s.setCtx c x t).sliceAt = s.sliceAt := rfl
@[simp] theorem board_setCtx (s : State) (c x : Nat) (t : Ctx) : (s.setCtx c x t).board = s.board := rfl
@[simp] theorem now_setCtx (s : State) (c x : Nat) (t : Ctx) : (s.setCtx c x t).now = s.now := rfl
@[simp] theorem agenda_setCtx (s : State) (c x : Nat) (t : Ctx) : (s.setCtx c x t).agenda = s.agenda := rfl
@[simp] theorem cur_setCtx (s : State) (c x : Nat) (t : Ctx) : (s.setCtx c x t).cur = s.cur := rfl
@[simp] theorem target_setCtx (s : State) (c x : Nat) (t : Ctx) : (s.setCtx c x t).target = s.target := rfl
@[simp] theorem stalled_setCtx (s : State) (c x : Nat) (t : Ctx) : (s.setCtx c x t).stalled = s.stalled := rfl
@[simp] theorem draws_setCtx (s : State) (c x : Nat) (t : Ctx) : (s.setCtx c x t).draws = s.draws := rfl

@[simp] theorem hbm_setSlot (s : State) (c k : Nat) (v : VSlot) : (s.setSlot c k v).hbm = s.hbm := rfl
@[simp] theorem hostMem_setSlot (s : State) (c k : Nat) (v : VSlot) : (s.setSlot c k v).hostMem = s.hostMem := rfl
@[simp] theorem groups_setSlot (s : State) (c k : Nat) (v : VSlot) : (s.setSlot c k v).groups = s.groups := rfl
@[simp] theorem monCode_setSlot (s : State) (c k : Nat) (v : VSlot) : (s.setSlot c k v).monCode = s.monCode := rfl
@[simp] theorem evPending_setSlot (s : State) (c k : Nat) (v : VSlot) : (s.setSlot c k v).evPending = s.evPending := rfl
@[simp] theorem tlbs_setSlot (s : State) (c k : Nat) (v : VSlot) : (s.setSlot c k v).tlbs = s.tlbs := rfl
@[simp] theorem flows_setSlot (s : State) (c k : Nat) (v : VSlot) : (s.setSlot c k v).flows = s.flows := rfl
@[simp] theorem packets_setSlot (s : State) (c k : Nat) (v : VSlot) : (s.setSlot c k v).packets = s.packets := rfl
@[simp] theorem nextPkt_setSlot (s : State) (c k : Nat) (v : VSlot) : (s.setSlot c k v).nextPkt = s.nextPkt := rfl
@[simp] theorem ports_setSlot (s : State) (c k : Nat) (v : VSlot) : (s.setSlot c k v).ports = s.ports := rfl
@[simp] theorem remap_setSlot (s : State) (c k : Nat) (v : VSlot) : (s.setSlot c k v).remap = s.remap := rfl
@[simp] theorem away_setSlot (s : State) (c k : Nat) (v : VSlot) : (s.setSlot c k v).away = s.away := rfl
@[simp] theorem sliceAt_setSlot (s : State) (c k : Nat) (v : VSlot) : (s.setSlot c k v).sliceAt = s.sliceAt := rfl
@[simp] theorem board_setSlot (s : State) (c k : Nat) (v : VSlot) : (s.setSlot c k v).board = s.board := rfl
@[simp] theorem now_setSlot (s : State) (c k : Nat) (v : VSlot) : (s.setSlot c k v).now = s.now := rfl
@[simp] theorem agenda_setSlot (s : State) (c k : Nat) (v : VSlot) : (s.setSlot c k v).agenda = s.agenda := rfl
@[simp] theorem cur_setSlot (s : State) (c k : Nat) (v : VSlot) : (s.setSlot c k v).cur = s.cur := rfl
@[simp] theorem target_setSlot (s : State) (c k : Nat) (v : VSlot) : (s.setSlot c k v).target = s.target := rfl
@[simp] theorem stalled_setSlot (s : State) (c k : Nat) (v : VSlot) : (s.setSlot c k v).stalled = s.stalled := rfl
@[simp] theorem draws_setSlot (s : State) (c k : Nat) (v : VSlot) : (s.setSlot c k v).draws = s.draws := rfl

@[simp] theorem hbm_setArc (s : State) (c : Nat) (a : Arc) : (s.setArc c a).hbm = s.hbm := rfl
@[simp] theorem hostMem_setArc (s : State) (c : Nat) (a : Arc) : (s.setArc c a).hostMem = s.hostMem := rfl
@[simp] theorem groups_setArc (s : State) (c : Nat) (a : Arc) : (s.setArc c a).groups = s.groups := rfl
@[simp] theorem monCode_setArc (s : State) (c : Nat) (a : Arc) : (s.setArc c a).monCode = s.monCode := rfl
@[simp] theorem evPending_setArc (s : State) (c : Nat) (a : Arc) : (s.setArc c a).evPending = s.evPending := rfl
@[simp] theorem tlbs_setArc (s : State) (c : Nat) (a : Arc) : (s.setArc c a).tlbs = s.tlbs := rfl
@[simp] theorem flows_setArc (s : State) (c : Nat) (a : Arc) : (s.setArc c a).flows = s.flows := rfl
@[simp] theorem packets_setArc (s : State) (c : Nat) (a : Arc) : (s.setArc c a).packets = s.packets := rfl
@[simp] theorem nextPkt_setArc (s : State) (c : Nat) (a : Arc) : (s.setArc c a).nextPkt = s.nextPkt := rfl
@[simp] theorem ports_setArc (s : State) (c : Nat) (a : Arc) : (s.setArc c a).ports = s.ports := rfl
@[simp] theorem remap_setArc (s : State) (c : Nat) (a : Arc) : (s.setArc c a).remap = s.remap := rfl
@[simp] theorem away_setArc (s : State) (c : Nat) (a : Arc) : (s.setArc c a).away = s.away := rfl
@[simp] theorem sliceAt_setArc (s : State) (c : Nat) (a : Arc) : (s.setArc c a).sliceAt = s.sliceAt := rfl
@[simp] theorem board_setArc (s : State) (c : Nat) (a : Arc) : (s.setArc c a).board = s.board := rfl
@[simp] theorem now_setArc (s : State) (c : Nat) (a : Arc) : (s.setArc c a).now = s.now := rfl
@[simp] theorem agenda_setArc (s : State) (c : Nat) (a : Arc) : (s.setArc c a).agenda = s.agenda := rfl
@[simp] theorem cur_setArc (s : State) (c : Nat) (a : Arc) : (s.setArc c a).cur = s.cur := rfl
@[simp] theorem target_setArc (s : State) (c : Nat) (a : Arc) : (s.setArc c a).target = s.target := rfl
@[simp] theorem stalled_setArc (s : State) (c : Nat) (a : Arc) : (s.setArc c a).stalled = s.stalled := rfl
@[simp] theorem draws_setArc (s : State) (c : Nat) (a : Arc) : (s.setArc c a).draws = s.draws := rfl

@[simp] theorem hbm_setThread (s : State) (q : Seqr) (t : Ctx) : (s.setThread q t).hbm = s.hbm := rfl
@[simp] theorem hostMem_setThread (s : State) (q : Seqr) (t : Ctx) : (s.setThread q t).hostMem = s.hostMem := rfl
@[simp] theorem groups_setThread (s : State) (q : Seqr) (t : Ctx) : (s.setThread q t).groups = s.groups := rfl
@[simp] theorem monCode_setThread (s : State) (q : Seqr) (t : Ctx) : (s.setThread q t).monCode = s.monCode := rfl
@[simp] theorem evPending_setThread (s : State) (q : Seqr) (t : Ctx) : (s.setThread q t).evPending = s.evPending := rfl
@[simp] theorem tlbs_setThread (s : State) (q : Seqr) (t : Ctx) : (s.setThread q t).tlbs = s.tlbs := rfl
@[simp] theorem flows_setThread (s : State) (q : Seqr) (t : Ctx) : (s.setThread q t).flows = s.flows := rfl
@[simp] theorem packets_setThread (s : State) (q : Seqr) (t : Ctx) : (s.setThread q t).packets = s.packets := rfl
@[simp] theorem nextPkt_setThread (s : State) (q : Seqr) (t : Ctx) : (s.setThread q t).nextPkt = s.nextPkt := rfl
@[simp] theorem ports_setThread (s : State) (q : Seqr) (t : Ctx) : (s.setThread q t).ports = s.ports := rfl
@[simp] theorem remap_setThread (s : State) (q : Seqr) (t : Ctx) : (s.setThread q t).remap = s.remap := rfl
@[simp] theorem away_setThread (s : State) (q : Seqr) (t : Ctx) : (s.setThread q t).away = s.away := rfl
@[simp] theorem sliceAt_setThread (s : State) (q : Seqr) (t : Ctx) : (s.setThread q t).sliceAt = s.sliceAt := rfl
@[simp] theorem board_setThread (s : State) (q : Seqr) (t : Ctx) : (s.setThread q t).board = s.board := rfl
@[simp] theorem now_setThread (s : State) (q : Seqr) (t : Ctx) : (s.setThread q t).now = s.now := rfl
@[simp] theorem agenda_setThread (s : State) (q : Seqr) (t : Ctx) : (s.setThread q t).agenda = s.agenda := rfl
@[simp] theorem cur_setThread (s : State) (q : Seqr) (t : Ctx) : (s.setThread q t).cur = s.cur := rfl
@[simp] theorem target_setThread (s : State) (q : Seqr) (t : Ctx) : (s.setThread q t).target = s.target := rfl
@[simp] theorem stalled_setThread (s : State) (q : Seqr) (t : Ctx) : (s.setThread q t).stalled = s.stalled := rfl
@[simp] theorem draws_setThread (s : State) (q : Seqr) (t : Ctx) : (s.setThread q t).draws = s.draws := rfl

@[simp] theorem hbm_setProg (s : State) (q : Seqr) (p : Prog) : (s.setProg q p).hbm = s.hbm := by cases q <;> rfl
@[simp] theorem hostMem_setProg (s : State) (q : Seqr) (p : Prog) : (s.setProg q p).hostMem = s.hostMem := by cases q <;> rfl
@[simp] theorem groups_setProg (s : State) (q : Seqr) (p : Prog) : (s.setProg q p).groups = s.groups := by cases q <;> rfl
@[simp] theorem monCode_setProg (s : State) (q : Seqr) (p : Prog) : (s.setProg q p).monCode = s.monCode := by cases q <;> rfl
@[simp] theorem evPending_setProg (s : State) (q : Seqr) (p : Prog) : (s.setProg q p).evPending = s.evPending := by cases q <;> rfl
@[simp] theorem tlbs_setProg (s : State) (q : Seqr) (p : Prog) : (s.setProg q p).tlbs = s.tlbs := by cases q <;> rfl
@[simp] theorem flows_setProg (s : State) (q : Seqr) (p : Prog) : (s.setProg q p).flows = s.flows := by cases q <;> rfl
@[simp] theorem packets_setProg (s : State) (q : Seqr) (p : Prog) : (s.setProg q p).packets = s.packets := by cases q <;> rfl
@[simp] theorem nextPkt_setProg (s : State) (q : Seqr) (p : Prog) : (s.setProg q p).nextPkt = s.nextPkt := by cases q <;> rfl
@[simp] theorem ports_setProg (s : State) (q : Seqr) (p : Prog) : (s.setProg q p).ports = s.ports := by cases q <;> rfl
@[simp] theorem remap_setProg (s : State) (q : Seqr) (p : Prog) : (s.setProg q p).remap = s.remap := by cases q <;> rfl
@[simp] theorem away_setProg (s : State) (q : Seqr) (p : Prog) : (s.setProg q p).away = s.away := by cases q <;> rfl
@[simp] theorem sliceAt_setProg (s : State) (q : Seqr) (p : Prog) : (s.setProg q p).sliceAt = s.sliceAt := by cases q <;> rfl
@[simp] theorem board_setProg (s : State) (q : Seqr) (p : Prog) : (s.setProg q p).board = s.board := by cases q <;> rfl
@[simp] theorem now_setProg (s : State) (q : Seqr) (p : Prog) : (s.setProg q p).now = s.now := by cases q <;> rfl
@[simp] theorem agenda_setProg (s : State) (q : Seqr) (p : Prog) : (s.setProg q p).agenda = s.agenda := by cases q <;> rfl
@[simp] theorem cur_setProg (s : State) (q : Seqr) (p : Prog) : (s.setProg q p).cur = s.cur := by cases q <;> rfl
@[simp] theorem target_setProg (s : State) (q : Seqr) (p : Prog) : (s.setProg q p).target = s.target := by cases q <;> rfl
@[simp] theorem stalled_setProg (s : State) (q : Seqr) (p : Prog) : (s.setProg q p).stalled = s.stalled := by cases q <;> rfl
@[simp] theorem draws_setProg (s : State) (q : Seqr) (p : Prog) : (s.setProg q p).draws = s.draws := by cases q <;> rfl

@[simp] theorem hbm_setS (s : State) (q : Seqr) (r : Reg) (v : DWord) : (s.setS q r v).hbm = s.hbm := hbm_setProg s q _
@[simp] theorem hostMem_setS (s : State) (q : Seqr) (r : Reg) (v : DWord) : (s.setS q r v).hostMem = s.hostMem := hostMem_setProg s q _
@[simp] theorem groups_setS (s : State) (q : Seqr) (r : Reg) (v : DWord) : (s.setS q r v).groups = s.groups := groups_setProg s q _
@[simp] theorem monCode_setS (s : State) (q : Seqr) (r : Reg) (v : DWord) : (s.setS q r v).monCode = s.monCode := monCode_setProg s q _
@[simp] theorem evPending_setS (s : State) (q : Seqr) (r : Reg) (v : DWord) : (s.setS q r v).evPending = s.evPending := evPending_setProg s q _
@[simp] theorem tlbs_setS (s : State) (q : Seqr) (r : Reg) (v : DWord) : (s.setS q r v).tlbs = s.tlbs := tlbs_setProg s q _
@[simp] theorem flows_setS (s : State) (q : Seqr) (r : Reg) (v : DWord) : (s.setS q r v).flows = s.flows := flows_setProg s q _
@[simp] theorem packets_setS (s : State) (q : Seqr) (r : Reg) (v : DWord) : (s.setS q r v).packets = s.packets := packets_setProg s q _
@[simp] theorem nextPkt_setS (s : State) (q : Seqr) (r : Reg) (v : DWord) : (s.setS q r v).nextPkt = s.nextPkt := nextPkt_setProg s q _
@[simp] theorem ports_setS (s : State) (q : Seqr) (r : Reg) (v : DWord) : (s.setS q r v).ports = s.ports := ports_setProg s q _
@[simp] theorem remap_setS (s : State) (q : Seqr) (r : Reg) (v : DWord) : (s.setS q r v).remap = s.remap := remap_setProg s q _
@[simp] theorem away_setS (s : State) (q : Seqr) (r : Reg) (v : DWord) : (s.setS q r v).away = s.away := away_setProg s q _
@[simp] theorem sliceAt_setS (s : State) (q : Seqr) (r : Reg) (v : DWord) : (s.setS q r v).sliceAt = s.sliceAt := sliceAt_setProg s q _
@[simp] theorem board_setS (s : State) (q : Seqr) (r : Reg) (v : DWord) : (s.setS q r v).board = s.board := board_setProg s q _
@[simp] theorem now_setS (s : State) (q : Seqr) (r : Reg) (v : DWord) : (s.setS q r v).now = s.now := now_setProg s q _
@[simp] theorem agenda_setS (s : State) (q : Seqr) (r : Reg) (v : DWord) : (s.setS q r v).agenda = s.agenda := agenda_setProg s q _
@[simp] theorem cur_setS (s : State) (q : Seqr) (r : Reg) (v : DWord) : (s.setS q r v).cur = s.cur := cur_setProg s q _
@[simp] theorem target_setS (s : State) (q : Seqr) (r : Reg) (v : DWord) : (s.setS q r v).target = s.target := target_setProg s q _
@[simp] theorem stalled_setS (s : State) (q : Seqr) (r : Reg) (v : DWord) : (s.setS q r v).stalled = s.stalled := stalled_setProg s q _
@[simp] theorem draws_setS (s : State) (q : Seqr) (r : Reg) (v : DWord) : (s.setS q r v).draws = s.draws := draws_setProg s q _

@[simp] theorem hbm_holdFor (s : State) (q : Seqr) (n : Nat) : (s.holdFor q n).hbm = s.hbm := hbm_setProg s q _
@[simp] theorem hostMem_holdFor (s : State) (q : Seqr) (n : Nat) : (s.holdFor q n).hostMem = s.hostMem := hostMem_setProg s q _
@[simp] theorem groups_holdFor (s : State) (q : Seqr) (n : Nat) : (s.holdFor q n).groups = s.groups := groups_setProg s q _
@[simp] theorem monCode_holdFor (s : State) (q : Seqr) (n : Nat) : (s.holdFor q n).monCode = s.monCode := monCode_setProg s q _
@[simp] theorem evPending_holdFor (s : State) (q : Seqr) (n : Nat) : (s.holdFor q n).evPending = s.evPending := evPending_setProg s q _
@[simp] theorem tlbs_holdFor (s : State) (q : Seqr) (n : Nat) : (s.holdFor q n).tlbs = s.tlbs := tlbs_setProg s q _
@[simp] theorem flows_holdFor (s : State) (q : Seqr) (n : Nat) : (s.holdFor q n).flows = s.flows := flows_setProg s q _
@[simp] theorem packets_holdFor (s : State) (q : Seqr) (n : Nat) : (s.holdFor q n).packets = s.packets := packets_setProg s q _
@[simp] theorem nextPkt_holdFor (s : State) (q : Seqr) (n : Nat) : (s.holdFor q n).nextPkt = s.nextPkt := nextPkt_setProg s q _
@[simp] theorem ports_holdFor (s : State) (q : Seqr) (n : Nat) : (s.holdFor q n).ports = s.ports := ports_setProg s q _
@[simp] theorem remap_holdFor (s : State) (q : Seqr) (n : Nat) : (s.holdFor q n).remap = s.remap := remap_setProg s q _
@[simp] theorem away_holdFor (s : State) (q : Seqr) (n : Nat) : (s.holdFor q n).away = s.away := away_setProg s q _
@[simp] theorem sliceAt_holdFor (s : State) (q : Seqr) (n : Nat) : (s.holdFor q n).sliceAt = s.sliceAt := sliceAt_setProg s q _
@[simp] theorem board_holdFor (s : State) (q : Seqr) (n : Nat) : (s.holdFor q n).board = s.board := board_setProg s q _
@[simp] theorem now_holdFor (s : State) (q : Seqr) (n : Nat) : (s.holdFor q n).now = s.now := now_setProg s q _
@[simp] theorem agenda_holdFor (s : State) (q : Seqr) (n : Nat) : (s.holdFor q n).agenda = s.agenda := agenda_setProg s q _
@[simp] theorem cur_holdFor (s : State) (q : Seqr) (n : Nat) : (s.holdFor q n).cur = s.cur := cur_setProg s q _
@[simp] theorem target_holdFor (s : State) (q : Seqr) (n : Nat) : (s.holdFor q n).target = s.target := target_setProg s q _
@[simp] theorem stalled_holdFor (s : State) (q : Seqr) (n : Nat) : (s.holdFor q n).stalled = s.stalled := stalled_setProg s q _
@[simp] theorem draws_holdFor (s : State) (q : Seqr) (n : Nat) : (s.holdFor q n).draws = s.draws := draws_setProg s q _

@[simp] theorem hbm_holdOn (s : State) (q : Seqr) (h : Hold) : (s.holdOn q h).hbm = s.hbm := hbm_setProg s q _
@[simp] theorem hostMem_holdOn (s : State) (q : Seqr) (h : Hold) : (s.holdOn q h).hostMem = s.hostMem := hostMem_setProg s q _
@[simp] theorem groups_holdOn (s : State) (q : Seqr) (h : Hold) : (s.holdOn q h).groups = s.groups := groups_setProg s q _
@[simp] theorem monCode_holdOn (s : State) (q : Seqr) (h : Hold) : (s.holdOn q h).monCode = s.monCode := monCode_setProg s q _
@[simp] theorem evPending_holdOn (s : State) (q : Seqr) (h : Hold) : (s.holdOn q h).evPending = s.evPending := evPending_setProg s q _
@[simp] theorem tlbs_holdOn (s : State) (q : Seqr) (h : Hold) : (s.holdOn q h).tlbs = s.tlbs := tlbs_setProg s q _
@[simp] theorem flows_holdOn (s : State) (q : Seqr) (h : Hold) : (s.holdOn q h).flows = s.flows := flows_setProg s q _
@[simp] theorem packets_holdOn (s : State) (q : Seqr) (h : Hold) : (s.holdOn q h).packets = s.packets := packets_setProg s q _
@[simp] theorem nextPkt_holdOn (s : State) (q : Seqr) (h : Hold) : (s.holdOn q h).nextPkt = s.nextPkt := nextPkt_setProg s q _
@[simp] theorem ports_holdOn (s : State) (q : Seqr) (h : Hold) : (s.holdOn q h).ports = s.ports := ports_setProg s q _
@[simp] theorem remap_holdOn (s : State) (q : Seqr) (h : Hold) : (s.holdOn q h).remap = s.remap := remap_setProg s q _
@[simp] theorem away_holdOn (s : State) (q : Seqr) (h : Hold) : (s.holdOn q h).away = s.away := away_setProg s q _
@[simp] theorem sliceAt_holdOn (s : State) (q : Seqr) (h : Hold) : (s.holdOn q h).sliceAt = s.sliceAt := sliceAt_setProg s q _
@[simp] theorem board_holdOn (s : State) (q : Seqr) (h : Hold) : (s.holdOn q h).board = s.board := board_setProg s q _
@[simp] theorem now_holdOn (s : State) (q : Seqr) (h : Hold) : (s.holdOn q h).now = s.now := now_setProg s q _
@[simp] theorem agenda_holdOn (s : State) (q : Seqr) (h : Hold) : (s.holdOn q h).agenda = s.agenda := agenda_setProg s q _
@[simp] theorem cur_holdOn (s : State) (q : Seqr) (h : Hold) : (s.holdOn q h).cur = s.cur := cur_setProg s q _
@[simp] theorem target_holdOn (s : State) (q : Seqr) (h : Hold) : (s.holdOn q h).target = s.target := target_setProg s q _
@[simp] theorem stalled_holdOn (s : State) (q : Seqr) (h : Hold) : (s.holdOn q h).stalled = s.stalled := stalled_setProg s q _
@[simp] theorem draws_holdOn (s : State) (q : Seqr) (h : Hold) : (s.holdOn q h).draws = s.draws := draws_setProg s q _

@[simp] theorem hbm_setH (s : State) (q : Seqr) (r : Reg) (v : HReg) : (s.setH q r v).hbm = s.hbm := rfl
@[simp] theorem hostMem_setH (s : State) (q : Seqr) (r : Reg) (v : HReg) : (s.setH q r v).hostMem = s.hostMem := rfl
@[simp] theorem groups_setH (s : State) (q : Seqr) (r : Reg) (v : HReg) : (s.setH q r v).groups = s.groups := rfl
@[simp] theorem monCode_setH (s : State) (q : Seqr) (r : Reg) (v : HReg) : (s.setH q r v).monCode = s.monCode := rfl
@[simp] theorem evPending_setH (s : State) (q : Seqr) (r : Reg) (v : HReg) : (s.setH q r v).evPending = s.evPending := rfl
@[simp] theorem tlbs_setH (s : State) (q : Seqr) (r : Reg) (v : HReg) : (s.setH q r v).tlbs = s.tlbs := rfl
@[simp] theorem flows_setH (s : State) (q : Seqr) (r : Reg) (v : HReg) : (s.setH q r v).flows = s.flows := rfl
@[simp] theorem packets_setH (s : State) (q : Seqr) (r : Reg) (v : HReg) : (s.setH q r v).packets = s.packets := rfl
@[simp] theorem nextPkt_setH (s : State) (q : Seqr) (r : Reg) (v : HReg) : (s.setH q r v).nextPkt = s.nextPkt := rfl
@[simp] theorem ports_setH (s : State) (q : Seqr) (r : Reg) (v : HReg) : (s.setH q r v).ports = s.ports := rfl
@[simp] theorem remap_setH (s : State) (q : Seqr) (r : Reg) (v : HReg) : (s.setH q r v).remap = s.remap := rfl
@[simp] theorem away_setH (s : State) (q : Seqr) (r : Reg) (v : HReg) : (s.setH q r v).away = s.away := rfl
@[simp] theorem sliceAt_setH (s : State) (q : Seqr) (r : Reg) (v : HReg) : (s.setH q r v).sliceAt = s.sliceAt := rfl
@[simp] theorem board_setH (s : State) (q : Seqr) (r : Reg) (v : HReg) : (s.setH q r v).board = s.board := rfl
@[simp] theorem now_setH (s : State) (q : Seqr) (r : Reg) (v : HReg) : (s.setH q r v).now = s.now := rfl
@[simp] theorem agenda_setH (s : State) (q : Seqr) (r : Reg) (v : HReg) : (s.setH q r v).agenda = s.agenda := rfl
@[simp] theorem cur_setH (s : State) (q : Seqr) (r : Reg) (v : HReg) : (s.setH q r v).cur = s.cur := rfl
@[simp] theorem target_setH (s : State) (q : Seqr) (r : Reg) (v : HReg) : (s.setH q r v).target = s.target := rfl
@[simp] theorem stalled_setH (s : State) (q : Seqr) (r : Reg) (v : HReg) : (s.setH q r v).stalled = s.stalled := rfl
@[simp] theorem draws_setH (s : State) (q : Seqr) (r : Reg) (v : HReg) : (s.setH q r v).draws = s.draws := rfl

@[simp] theorem hbm_setV (s : State) (q : Seqr) (r : Nat) (v : VReg) : (s.setV q r v).hbm = s.hbm := rfl
@[simp] theorem hostMem_setV (s : State) (q : Seqr) (r : Nat) (v : VReg) : (s.setV q r v).hostMem = s.hostMem := rfl
@[simp] theorem groups_setV (s : State) (q : Seqr) (r : Nat) (v : VReg) : (s.setV q r v).groups = s.groups := rfl
@[simp] theorem monCode_setV (s : State) (q : Seqr) (r : Nat) (v : VReg) : (s.setV q r v).monCode = s.monCode := rfl
@[simp] theorem evPending_setV (s : State) (q : Seqr) (r : Nat) (v : VReg) : (s.setV q r v).evPending = s.evPending := rfl
@[simp] theorem tlbs_setV (s : State) (q : Seqr) (r : Nat) (v : VReg) : (s.setV q r v).tlbs = s.tlbs := rfl
@[simp] theorem flows_setV (s : State) (q : Seqr) (r : Nat) (v : VReg) : (s.setV q r v).flows = s.flows := rfl
@[simp] theorem packets_setV (s : State) (q : Seqr) (r : Nat) (v : VReg) : (s.setV q r v).packets = s.packets := rfl
@[simp] theorem nextPkt_setV (s : State) (q : Seqr) (r : Nat) (v : VReg) : (s.setV q r v).nextPkt = s.nextPkt := rfl
@[simp] theorem ports_setV (s : State) (q : Seqr) (r : Nat) (v : VReg) : (s.setV q r v).ports = s.ports := rfl
@[simp] theorem remap_setV (s : State) (q : Seqr) (r : Nat) (v : VReg) : (s.setV q r v).remap = s.remap := rfl
@[simp] theorem away_setV (s : State) (q : Seqr) (r : Nat) (v : VReg) : (s.setV q r v).away = s.away := rfl
@[simp] theorem sliceAt_setV (s : State) (q : Seqr) (r : Nat) (v : VReg) : (s.setV q r v).sliceAt = s.sliceAt := rfl
@[simp] theorem board_setV (s : State) (q : Seqr) (r : Nat) (v : VReg) : (s.setV q r v).board = s.board := rfl
@[simp] theorem now_setV (s : State) (q : Seqr) (r : Nat) (v : VReg) : (s.setV q r v).now = s.now := rfl
@[simp] theorem agenda_setV (s : State) (q : Seqr) (r : Nat) (v : VReg) : (s.setV q r v).agenda = s.agenda := rfl
@[simp] theorem cur_setV (s : State) (q : Seqr) (r : Nat) (v : VReg) : (s.setV q r v).cur = s.cur := rfl
@[simp] theorem target_setV (s : State) (q : Seqr) (r : Nat) (v : VReg) : (s.setV q r v).target = s.target := rfl
@[simp] theorem stalled_setV (s : State) (q : Seqr) (r : Nat) (v : VReg) : (s.setV q r v).stalled = s.stalled := rfl
@[simp] theorem draws_setV (s : State) (q : Seqr) (r : Nat) (v : VReg) : (s.setV q r v).draws = s.draws := rfl

@[simp] theorem hbm_orFsr (s : State) (q : Seqr) (f : Flags) : (s.orFsr q f).hbm = s.hbm := rfl
@[simp] theorem hostMem_orFsr (s : State) (q : Seqr) (f : Flags) : (s.orFsr q f).hostMem = s.hostMem := rfl
@[simp] theorem groups_orFsr (s : State) (q : Seqr) (f : Flags) : (s.orFsr q f).groups = s.groups := rfl
@[simp] theorem monCode_orFsr (s : State) (q : Seqr) (f : Flags) : (s.orFsr q f).monCode = s.monCode := rfl
@[simp] theorem evPending_orFsr (s : State) (q : Seqr) (f : Flags) : (s.orFsr q f).evPending = s.evPending := rfl
@[simp] theorem tlbs_orFsr (s : State) (q : Seqr) (f : Flags) : (s.orFsr q f).tlbs = s.tlbs := rfl
@[simp] theorem flows_orFsr (s : State) (q : Seqr) (f : Flags) : (s.orFsr q f).flows = s.flows := rfl
@[simp] theorem packets_orFsr (s : State) (q : Seqr) (f : Flags) : (s.orFsr q f).packets = s.packets := rfl
@[simp] theorem nextPkt_orFsr (s : State) (q : Seqr) (f : Flags) : (s.orFsr q f).nextPkt = s.nextPkt := rfl
@[simp] theorem ports_orFsr (s : State) (q : Seqr) (f : Flags) : (s.orFsr q f).ports = s.ports := rfl
@[simp] theorem remap_orFsr (s : State) (q : Seqr) (f : Flags) : (s.orFsr q f).remap = s.remap := rfl
@[simp] theorem away_orFsr (s : State) (q : Seqr) (f : Flags) : (s.orFsr q f).away = s.away := rfl
@[simp] theorem sliceAt_orFsr (s : State) (q : Seqr) (f : Flags) : (s.orFsr q f).sliceAt = s.sliceAt := rfl
@[simp] theorem board_orFsr (s : State) (q : Seqr) (f : Flags) : (s.orFsr q f).board = s.board := rfl
@[simp] theorem now_orFsr (s : State) (q : Seqr) (f : Flags) : (s.orFsr q f).now = s.now := rfl
@[simp] theorem agenda_orFsr (s : State) (q : Seqr) (f : Flags) : (s.orFsr q f).agenda = s.agenda := rfl
@[simp] theorem cur_orFsr (s : State) (q : Seqr) (f : Flags) : (s.orFsr q f).cur = s.cur := rfl
@[simp] theorem target_orFsr (s : State) (q : Seqr) (f : Flags) : (s.orFsr q f).target = s.target := rfl
@[simp] theorem stalled_orFsr (s : State) (q : Seqr) (f : Flags) : (s.orFsr q f).stalled = s.stalled := rfl
@[simp] theorem draws_orFsr (s : State) (q : Seqr) (f : Flags) : (s.orFsr q f).draws = s.draws := rfl

@[simp] theorem hbm_countRetired (s : State) (q : Seqr) : (s.countRetired q).hbm = s.hbm := by cases q <;> rfl
@[simp] theorem hostMem_countRetired (s : State) (q : Seqr) : (s.countRetired q).hostMem = s.hostMem := by cases q <;> rfl
@[simp] theorem groups_countRetired (s : State) (q : Seqr) : (s.countRetired q).groups = s.groups := by cases q <;> rfl
@[simp] theorem monCode_countRetired (s : State) (q : Seqr) : (s.countRetired q).monCode = s.monCode := by cases q <;> rfl
@[simp] theorem evPending_countRetired (s : State) (q : Seqr) : (s.countRetired q).evPending = s.evPending := by cases q <;> rfl
@[simp] theorem tlbs_countRetired (s : State) (q : Seqr) : (s.countRetired q).tlbs = s.tlbs := by cases q <;> rfl
@[simp] theorem flows_countRetired (s : State) (q : Seqr) : (s.countRetired q).flows = s.flows := by cases q <;> rfl
@[simp] theorem packets_countRetired (s : State) (q : Seqr) : (s.countRetired q).packets = s.packets := by cases q <;> rfl
@[simp] theorem nextPkt_countRetired (s : State) (q : Seqr) : (s.countRetired q).nextPkt = s.nextPkt := by cases q <;> rfl
@[simp] theorem ports_countRetired (s : State) (q : Seqr) : (s.countRetired q).ports = s.ports := by cases q <;> rfl
@[simp] theorem remap_countRetired (s : State) (q : Seqr) : (s.countRetired q).remap = s.remap := by cases q <;> rfl
@[simp] theorem away_countRetired (s : State) (q : Seqr) : (s.countRetired q).away = s.away := by cases q <;> rfl
@[simp] theorem sliceAt_countRetired (s : State) (q : Seqr) : (s.countRetired q).sliceAt = s.sliceAt := by cases q <;> rfl
@[simp] theorem board_countRetired (s : State) (q : Seqr) : (s.countRetired q).board = s.board := by cases q <;> rfl
@[simp] theorem now_countRetired (s : State) (q : Seqr) : (s.countRetired q).now = s.now := by cases q <;> rfl
@[simp] theorem agenda_countRetired (s : State) (q : Seqr) : (s.countRetired q).agenda = s.agenda := by cases q <;> rfl
@[simp] theorem cur_countRetired (s : State) (q : Seqr) : (s.countRetired q).cur = s.cur := by cases q <;> rfl
@[simp] theorem target_countRetired (s : State) (q : Seqr) : (s.countRetired q).target = s.target := by cases q <;> rfl
@[simp] theorem stalled_countRetired (s : State) (q : Seqr) : (s.countRetired q).stalled = s.stalled := by cases q <;> rfl
@[simp] theorem draws_countRetired (s : State) (q : Seqr) : (s.countRetired q).draws = s.draws := by cases q <;> rfl

/-! ### The part that an update writes -/

theorem core_setCore (s : State) (c d : Nat) (k : Core) : (s.setCore c k).core d = if d = c then k else s.core d :=
  SMap.get_set _ _ _ _ _

@[simp] theorem core_setCore_self (s : State) (c : Nat) (k : Core) : (s.setCore c k).core c = k := SMap.get_set_self _ _ _ _

theorem core_setCtx (s : State) (c x d : Nat) (t : Ctx) :
    (s.setCtx c x t).core d = if d = c then { s.core c with ctxs := SMap.set (s.core c).ctxs x t } else s.core d :=
  core_setCore s c d _

theorem core_setSlot (s : State) (c k d : Nat) (v : VSlot) :
    (s.setSlot c k v).core d = if d = c then { s.core c with slots := SMap.set (s.core c).slots k v } else s.core d :=
  core_setCore s c d _

theorem core_setArc (s : State) (c d : Nat) (a : Arc) :
    (s.setArc c a).core d = if d = c then { s.core c with arc := a } else s.core d :=
  core_setCore s c d _

@[simp] theorem slots_core_setCtx (s : State) (c x : Nat) (t : Ctx) (d : Nat) : ((s.setCtx c x t).core d).slots = (s.core d).slots := by
  rw [core_setCtx]; split <;> simp_all
@[simp] theorem vptr_core_setCtx (s : State) (c x : Nat) (t : Ctx) (d : Nat) : ((s.setCtx c x t).core d).vptr = (s.core d).vptr := by
  rw [core_setCtx]; split <;> simp_all
@[simp] theorem laneFree_core_setCtx (s : State) (c x : Nat) (t : Ctx) (d : Nat) : ((s.setCtx c x t).core d).laneFree = (s.core d).laneFree := by
  rw [core_setCtx]; split <;> simp_all
@[simp] theorem arc_core_setCtx (s : State) (c x : Nat) (t : Ctx) (d : Nat) : ((s.setCtx c x t).core d).arc = (s.core d).arc := by
  rw [core_setCtx]; split <;> simp_all
@[simp] theorem spad_core_setCtx (s : State) (c x : Nat) (t : Ctx) (d : Nat) : ((s.setCtx c x t).core d).spad = (s.core d).spad := by
  rw [core_setCtx]; split <;> simp_all
@[simp] theorem blockTag_core_setCtx (s : State) (c x : Nat) (t : Ctx) (d : Nat) : ((s.setCtx c x t).core d).blockTag = (s.core d).blockTag := by
  rw [core_setCtx]; split <;> simp_all
@[simp] theorem imemC_core_setCtx (s : State) (c x : Nat) (t : Ctx) (d : Nat) : ((s.setCtx c x t).core d).imemC = (s.core d).imemC := by
  rw [core_setCtx]; split <;> simp_all
@[simp] theorem imemV_core_setCtx (s : State) (c x : Nat) (t : Ctx) (d : Nat) : ((s.setCtx c x t).core d).imemV = (s.core d).imemV := by
  rw [core_setCtx]; split <;> simp_all
@[simp] theorem imemA_core_setCtx (s : State) (c x : Nat) (t : Ctx) (d : Nat) : ((s.setCtx c x t).core d).imemA = (s.core d).imemA := by
  rw [core_setCtx]; split <;> simp_all
@[simp] theorem badWords_core_setCtx (s : State) (c x : Nat) (t : Ctx) (d : Nat) : ((s.setCtx c x t).core d).badWords = (s.core d).badWords := by
  rw [core_setCtx]; split <;> simp_all
@[simp] theorem tagSets_core_setCtx (s : State) (c x : Nat) (t : Ctx) (d : Nat) : ((s.setCtx c x t).core d).tagSets = (s.core d).tagSets := by
  rw [core_setCtx]; split <;> simp_all
@[simp] theorem streams_core_setCtx (s : State) (c x : Nat) (t : Ctx) (d : Nat) : ((s.setCtx c x t).core d).streams = (s.core d).streams := by
  rw [core_setCtx]; split <;> simp_all
@[simp] theorem tiles_core_setCtx (s : State) (c x : Nat) (t : Ctx) (d : Nat) : ((s.setCtx c x t).core d).tiles = (s.core d).tiles := by
  rw [core_setCtx]; split <;> simp_all
@[simp] theorem scaleMem_core_setCtx (s : State) (c x : Nat) (t : Ctx) (d : Nat) : ((s.setCtx c x t).core d).scaleMem = (s.core d).scaleMem := by
  rw [core_setCtx]; split <;> simp_all
@[simp] theorem stages_core_setCtx (s : State) (c x : Nat) (t : Ctx) (d : Nat) : ((s.setCtx c x t).core d).stages = (s.core d).stages := by
  rw [core_setCtx]; split <;> simp_all
@[simp] theorem queues_core_setCtx (s : State) (c x : Nat) (t : Ctx) (d : Nat) : ((s.setCtx c x t).core d).queues = (s.core d).queues := by
  rw [core_setCtx]; split <;> simp_all
@[simp] theorem launchQ_core_setCtx (s : State) (c x : Nat) (t : Ctx) (d : Nat) : ((s.setCtx c x t).core d).launchQ = (s.core d).launchQ := by
  rw [core_setCtx]; split <;> simp_all
@[simp] theorem items_core_setCtx (s : State) (c x : Nat) (t : Ctx) (d : Nat) : ((s.setCtx c x t).core d).items = (s.core d).items := by
  rw [core_setCtx]; split <;> simp_all
@[simp] theorem saved_core_setCtx (s : State) (c x : Nat) (t : Ctx) (d : Nat) : ((s.setCtx c x t).core d).saved = (s.core d).saved := by
  rw [core_setCtx]; split <;> simp_all
@[simp] theorem savedCtxs_core_setCtx (s : State) (c x : Nat) (t : Ctx) (d : Nat) : ((s.setCtx c x t).core d).savedCtxs = (s.core d).savedCtxs := by
  rw [core_setCtx]; split <;> simp_all
@[simp] theorem lateFails_core_setCtx (s : State) (c x : Nat) (t : Ctx) (d : Nat) : ((s.setCtx c x t).core d).lateFails = (s.core d).lateFails := by
  rw [core_setCtx]; split <;> simp_all
@[simp] theorem nextSeq_core_setCtx (s : State) (c x : Nat) (t : Ctx) (d : Nat) : ((s.setCtx c x t).core d).nextSeq = (s.core d).nextSeq := by
  rw [core_setCtx]; split <;> simp_all
@[simp] theorem flagPushed_core_setCtx (s : State) (c x : Nat) (t : Ctx) (d : Nat) : ((s.setCtx c x t).core d).flagPushed = (s.core d).flagPushed := by
  rw [core_setCtx]; split <;> simp_all
@[simp] theorem flagDone_core_setCtx (s : State) (c x : Nat) (t : Ctx) (d : Nat) : ((s.setCtx c x t).core d).flagDone = (s.core d).flagDone := by
  rw [core_setCtx]; split <;> simp_all
@[simp] theorem ended_core_setCtx (s : State) (c x : Nat) (t : Ctx) (d : Nat) : ((s.setCtx c x t).core d).ended = (s.core d).ended := by
  rw [core_setCtx]; split <;> simp_all
@[simp] theorem queueStat_core_setCtx (s : State) (c x : Nat) (t : Ctx) (d : Nat) : ((s.setCtx c x t).core d).queueStat = (s.core d).queueStat := by
  rw [core_setCtx]; split <;> simp_all
@[simp] theorem asid_core_setCtx (s : State) (c x : Nat) (t : Ctx) (d : Nat) : ((s.setCtx c x t).core d).asid = (s.core d).asid := by
  rw [core_setCtx]; split <;> simp_all
@[simp] theorem ptRoot_core_setCtx (s : State) (c x : Nat) (t : Ctx) (d : Nat) : ((s.setCtx c x t).core d).ptRoot = (s.core d).ptRoot := by
  rw [core_setCtx]; split <;> simp_all
@[simp] theorem nextAcc_core_setCtx (s : State) (c x : Nat) (t : Ctx) (d : Nat) : ((s.setCtx c x t).core d).nextAcc = (s.core d).nextAcc := by
  rw [core_setCtx]; split <;> simp_all
@[simp] theorem nextClaim_core_setCtx (s : State) (c x : Nat) (t : Ctx) (d : Nat) : ((s.setCtx c x t).core d).nextClaim = (s.core d).nextClaim := by
  rw [core_setCtx]; split <;> simp_all
@[simp] theorem posts_core_setCtx (s : State) (c x : Nat) (t : Ctx) (d : Nat) : ((s.setCtx c x t).core d).posts = (s.core d).posts := by
  rw [core_setCtx]; split <;> simp_all
@[simp] theorem overflow_core_setCtx (s : State) (c x : Nat) (t : Ctx) (d : Nat) : ((s.setCtx c x t).core d).overflow = (s.core d).overflow := by
  rw [core_setCtx]; split <;> simp_all
@[simp] theorem nacked_core_setCtx (s : State) (c x : Nat) (t : Ctx) (d : Nat) : ((s.setCtx c x t).core d).nacked = (s.core d).nacked := by
  rw [core_setCtx]; split <;> simp_all
@[simp] theorem ovf_core_setCtx (s : State) (c x : Nat) (t : Ctx) (d : Nat) : ((s.setCtx c x t).core d).ovf = (s.core d).ovf := by
  rw [core_setCtx]; split <;> simp_all
@[simp] theorem lastSend_core_setCtx (s : State) (c x : Nat) (t : Ctx) (d : Nat) : ((s.setCtx c x t).core d).lastSend = (s.core d).lastSend := by
  rw [core_setCtx]; split <;> simp_all
@[simp] theorem queuesHalted_core_setCtx (s : State) (c x : Nat) (t : Ctx) (d : Nat) : ((s.setCtx c x t).core d).queuesHalted = (s.core d).queuesHalted := by
  rw [core_setCtx]; split <;> simp_all

@[simp] theorem ctxs_core_setSlot (s : State) (c k : Nat) (v : VSlot) (d : Nat) : ((s.setSlot c k v).core d).ctxs = (s.core d).ctxs := by
  rw [core_setSlot]; split <;> simp_all
@[simp] theorem vptr_core_setSlot (s : State) (c k : Nat) (v : VSlot) (d : Nat) : ((s.setSlot c k v).core d).vptr = (s.core d).vptr := by
  rw [core_setSlot]; split <;> simp_all
@[simp] theorem laneFree_core_setSlot (s : State) (c k : Nat) (v : VSlot) (d : Nat) : ((s.setSlot c k v).core d).laneFree = (s.core d).laneFree := by
  rw [core_setSlot]; split <;> simp_all
@[simp] theorem arc_core_setSlot (s : State) (c k : Nat) (v : VSlot) (d : Nat) : ((s.setSlot c k v).core d).arc = (s.core d).arc := by
  rw [core_setSlot]; split <;> simp_all
@[simp] theorem spad_core_setSlot (s : State) (c k : Nat) (v : VSlot) (d : Nat) : ((s.setSlot c k v).core d).spad = (s.core d).spad := by
  rw [core_setSlot]; split <;> simp_all
@[simp] theorem blockTag_core_setSlot (s : State) (c k : Nat) (v : VSlot) (d : Nat) : ((s.setSlot c k v).core d).blockTag = (s.core d).blockTag := by
  rw [core_setSlot]; split <;> simp_all
@[simp] theorem imemC_core_setSlot (s : State) (c k : Nat) (v : VSlot) (d : Nat) : ((s.setSlot c k v).core d).imemC = (s.core d).imemC := by
  rw [core_setSlot]; split <;> simp_all
@[simp] theorem imemV_core_setSlot (s : State) (c k : Nat) (v : VSlot) (d : Nat) : ((s.setSlot c k v).core d).imemV = (s.core d).imemV := by
  rw [core_setSlot]; split <;> simp_all
@[simp] theorem imemA_core_setSlot (s : State) (c k : Nat) (v : VSlot) (d : Nat) : ((s.setSlot c k v).core d).imemA = (s.core d).imemA := by
  rw [core_setSlot]; split <;> simp_all
@[simp] theorem badWords_core_setSlot (s : State) (c k : Nat) (v : VSlot) (d : Nat) : ((s.setSlot c k v).core d).badWords = (s.core d).badWords := by
  rw [core_setSlot]; split <;> simp_all
@[simp] theorem tagSets_core_setSlot (s : State) (c k : Nat) (v : VSlot) (d : Nat) : ((s.setSlot c k v).core d).tagSets = (s.core d).tagSets := by
  rw [core_setSlot]; split <;> simp_all
@[simp] theorem streams_core_setSlot (s : State) (c k : Nat) (v : VSlot) (d : Nat) : ((s.setSlot c k v).core d).streams = (s.core d).streams := by
  rw [core_setSlot]; split <;> simp_all
@[simp] theorem tiles_core_setSlot (s : State) (c k : Nat) (v : VSlot) (d : Nat) : ((s.setSlot c k v).core d).tiles = (s.core d).tiles := by
  rw [core_setSlot]; split <;> simp_all
@[simp] theorem scaleMem_core_setSlot (s : State) (c k : Nat) (v : VSlot) (d : Nat) : ((s.setSlot c k v).core d).scaleMem = (s.core d).scaleMem := by
  rw [core_setSlot]; split <;> simp_all
@[simp] theorem stages_core_setSlot (s : State) (c k : Nat) (v : VSlot) (d : Nat) : ((s.setSlot c k v).core d).stages = (s.core d).stages := by
  rw [core_setSlot]; split <;> simp_all
@[simp] theorem queues_core_setSlot (s : State) (c k : Nat) (v : VSlot) (d : Nat) : ((s.setSlot c k v).core d).queues = (s.core d).queues := by
  rw [core_setSlot]; split <;> simp_all
@[simp] theorem launchQ_core_setSlot (s : State) (c k : Nat) (v : VSlot) (d : Nat) : ((s.setSlot c k v).core d).launchQ = (s.core d).launchQ := by
  rw [core_setSlot]; split <;> simp_all
@[simp] theorem items_core_setSlot (s : State) (c k : Nat) (v : VSlot) (d : Nat) : ((s.setSlot c k v).core d).items = (s.core d).items := by
  rw [core_setSlot]; split <;> simp_all
@[simp] theorem saved_core_setSlot (s : State) (c k : Nat) (v : VSlot) (d : Nat) : ((s.setSlot c k v).core d).saved = (s.core d).saved := by
  rw [core_setSlot]; split <;> simp_all
@[simp] theorem savedCtxs_core_setSlot (s : State) (c k : Nat) (v : VSlot) (d : Nat) : ((s.setSlot c k v).core d).savedCtxs = (s.core d).savedCtxs := by
  rw [core_setSlot]; split <;> simp_all
@[simp] theorem lateFails_core_setSlot (s : State) (c k : Nat) (v : VSlot) (d : Nat) : ((s.setSlot c k v).core d).lateFails = (s.core d).lateFails := by
  rw [core_setSlot]; split <;> simp_all
@[simp] theorem nextSeq_core_setSlot (s : State) (c k : Nat) (v : VSlot) (d : Nat) : ((s.setSlot c k v).core d).nextSeq = (s.core d).nextSeq := by
  rw [core_setSlot]; split <;> simp_all
@[simp] theorem flagPushed_core_setSlot (s : State) (c k : Nat) (v : VSlot) (d : Nat) : ((s.setSlot c k v).core d).flagPushed = (s.core d).flagPushed := by
  rw [core_setSlot]; split <;> simp_all
@[simp] theorem flagDone_core_setSlot (s : State) (c k : Nat) (v : VSlot) (d : Nat) : ((s.setSlot c k v).core d).flagDone = (s.core d).flagDone := by
  rw [core_setSlot]; split <;> simp_all
@[simp] theorem ended_core_setSlot (s : State) (c k : Nat) (v : VSlot) (d : Nat) : ((s.setSlot c k v).core d).ended = (s.core d).ended := by
  rw [core_setSlot]; split <;> simp_all
@[simp] theorem queueStat_core_setSlot (s : State) (c k : Nat) (v : VSlot) (d : Nat) : ((s.setSlot c k v).core d).queueStat = (s.core d).queueStat := by
  rw [core_setSlot]; split <;> simp_all
@[simp] theorem asid_core_setSlot (s : State) (c k : Nat) (v : VSlot) (d : Nat) : ((s.setSlot c k v).core d).asid = (s.core d).asid := by
  rw [core_setSlot]; split <;> simp_all
@[simp] theorem ptRoot_core_setSlot (s : State) (c k : Nat) (v : VSlot) (d : Nat) : ((s.setSlot c k v).core d).ptRoot = (s.core d).ptRoot := by
  rw [core_setSlot]; split <;> simp_all
@[simp] theorem nextAcc_core_setSlot (s : State) (c k : Nat) (v : VSlot) (d : Nat) : ((s.setSlot c k v).core d).nextAcc = (s.core d).nextAcc := by
  rw [core_setSlot]; split <;> simp_all
@[simp] theorem nextClaim_core_setSlot (s : State) (c k : Nat) (v : VSlot) (d : Nat) : ((s.setSlot c k v).core d).nextClaim = (s.core d).nextClaim := by
  rw [core_setSlot]; split <;> simp_all
@[simp] theorem posts_core_setSlot (s : State) (c k : Nat) (v : VSlot) (d : Nat) : ((s.setSlot c k v).core d).posts = (s.core d).posts := by
  rw [core_setSlot]; split <;> simp_all
@[simp] theorem overflow_core_setSlot (s : State) (c k : Nat) (v : VSlot) (d : Nat) : ((s.setSlot c k v).core d).overflow = (s.core d).overflow := by
  rw [core_setSlot]; split <;> simp_all
@[simp] theorem nacked_core_setSlot (s : State) (c k : Nat) (v : VSlot) (d : Nat) : ((s.setSlot c k v).core d).nacked = (s.core d).nacked := by
  rw [core_setSlot]; split <;> simp_all
@[simp] theorem ovf_core_setSlot (s : State) (c k : Nat) (v : VSlot) (d : Nat) : ((s.setSlot c k v).core d).ovf = (s.core d).ovf := by
  rw [core_setSlot]; split <;> simp_all
@[simp] theorem lastSend_core_setSlot (s : State) (c k : Nat) (v : VSlot) (d : Nat) : ((s.setSlot c k v).core d).lastSend = (s.core d).lastSend := by
  rw [core_setSlot]; split <;> simp_all
@[simp] theorem queuesHalted_core_setSlot (s : State) (c k : Nat) (v : VSlot) (d : Nat) : ((s.setSlot c k v).core d).queuesHalted = (s.core d).queuesHalted := by
  rw [core_setSlot]; split <;> simp_all

@[simp] theorem ctxs_core_setArc (s : State) (c : Nat) (a : Arc) (d : Nat) : ((s.setArc c a).core d).ctxs = (s.core d).ctxs := by
  rw [core_setArc]; split <;> simp_all
@[simp] theorem slots_core_setArc (s : State) (c : Nat) (a : Arc) (d : Nat) : ((s.setArc c a).core d).slots = (s.core d).slots := by
  rw [core_setArc]; split <;> simp_all
@[simp] theorem vptr_core_setArc (s : State) (c : Nat) (a : Arc) (d : Nat) : ((s.setArc c a).core d).vptr = (s.core d).vptr := by
  rw [core_setArc]; split <;> simp_all
@[simp] theorem laneFree_core_setArc (s : State) (c : Nat) (a : Arc) (d : Nat) : ((s.setArc c a).core d).laneFree = (s.core d).laneFree := by
  rw [core_setArc]; split <;> simp_all
@[simp] theorem spad_core_setArc (s : State) (c : Nat) (a : Arc) (d : Nat) : ((s.setArc c a).core d).spad = (s.core d).spad := by
  rw [core_setArc]; split <;> simp_all
@[simp] theorem blockTag_core_setArc (s : State) (c : Nat) (a : Arc) (d : Nat) : ((s.setArc c a).core d).blockTag = (s.core d).blockTag := by
  rw [core_setArc]; split <;> simp_all
@[simp] theorem imemC_core_setArc (s : State) (c : Nat) (a : Arc) (d : Nat) : ((s.setArc c a).core d).imemC = (s.core d).imemC := by
  rw [core_setArc]; split <;> simp_all
@[simp] theorem imemV_core_setArc (s : State) (c : Nat) (a : Arc) (d : Nat) : ((s.setArc c a).core d).imemV = (s.core d).imemV := by
  rw [core_setArc]; split <;> simp_all
@[simp] theorem imemA_core_setArc (s : State) (c : Nat) (a : Arc) (d : Nat) : ((s.setArc c a).core d).imemA = (s.core d).imemA := by
  rw [core_setArc]; split <;> simp_all
@[simp] theorem badWords_core_setArc (s : State) (c : Nat) (a : Arc) (d : Nat) : ((s.setArc c a).core d).badWords = (s.core d).badWords := by
  rw [core_setArc]; split <;> simp_all
@[simp] theorem tagSets_core_setArc (s : State) (c : Nat) (a : Arc) (d : Nat) : ((s.setArc c a).core d).tagSets = (s.core d).tagSets := by
  rw [core_setArc]; split <;> simp_all
@[simp] theorem streams_core_setArc (s : State) (c : Nat) (a : Arc) (d : Nat) : ((s.setArc c a).core d).streams = (s.core d).streams := by
  rw [core_setArc]; split <;> simp_all
@[simp] theorem tiles_core_setArc (s : State) (c : Nat) (a : Arc) (d : Nat) : ((s.setArc c a).core d).tiles = (s.core d).tiles := by
  rw [core_setArc]; split <;> simp_all
@[simp] theorem scaleMem_core_setArc (s : State) (c : Nat) (a : Arc) (d : Nat) : ((s.setArc c a).core d).scaleMem = (s.core d).scaleMem := by
  rw [core_setArc]; split <;> simp_all
@[simp] theorem stages_core_setArc (s : State) (c : Nat) (a : Arc) (d : Nat) : ((s.setArc c a).core d).stages = (s.core d).stages := by
  rw [core_setArc]; split <;> simp_all
@[simp] theorem queues_core_setArc (s : State) (c : Nat) (a : Arc) (d : Nat) : ((s.setArc c a).core d).queues = (s.core d).queues := by
  rw [core_setArc]; split <;> simp_all
@[simp] theorem launchQ_core_setArc (s : State) (c : Nat) (a : Arc) (d : Nat) : ((s.setArc c a).core d).launchQ = (s.core d).launchQ := by
  rw [core_setArc]; split <;> simp_all
@[simp] theorem items_core_setArc (s : State) (c : Nat) (a : Arc) (d : Nat) : ((s.setArc c a).core d).items = (s.core d).items := by
  rw [core_setArc]; split <;> simp_all
@[simp] theorem saved_core_setArc (s : State) (c : Nat) (a : Arc) (d : Nat) : ((s.setArc c a).core d).saved = (s.core d).saved := by
  rw [core_setArc]; split <;> simp_all
@[simp] theorem savedCtxs_core_setArc (s : State) (c : Nat) (a : Arc) (d : Nat) : ((s.setArc c a).core d).savedCtxs = (s.core d).savedCtxs := by
  rw [core_setArc]; split <;> simp_all
@[simp] theorem lateFails_core_setArc (s : State) (c : Nat) (a : Arc) (d : Nat) : ((s.setArc c a).core d).lateFails = (s.core d).lateFails := by
  rw [core_setArc]; split <;> simp_all
@[simp] theorem nextSeq_core_setArc (s : State) (c : Nat) (a : Arc) (d : Nat) : ((s.setArc c a).core d).nextSeq = (s.core d).nextSeq := by
  rw [core_setArc]; split <;> simp_all
@[simp] theorem flagPushed_core_setArc (s : State) (c : Nat) (a : Arc) (d : Nat) : ((s.setArc c a).core d).flagPushed = (s.core d).flagPushed := by
  rw [core_setArc]; split <;> simp_all
@[simp] theorem flagDone_core_setArc (s : State) (c : Nat) (a : Arc) (d : Nat) : ((s.setArc c a).core d).flagDone = (s.core d).flagDone := by
  rw [core_setArc]; split <;> simp_all
@[simp] theorem ended_core_setArc (s : State) (c : Nat) (a : Arc) (d : Nat) : ((s.setArc c a).core d).ended = (s.core d).ended := by
  rw [core_setArc]; split <;> simp_all
@[simp] theorem queueStat_core_setArc (s : State) (c : Nat) (a : Arc) (d : Nat) : ((s.setArc c a).core d).queueStat = (s.core d).queueStat := by
  rw [core_setArc]; split <;> simp_all
@[simp] theorem asid_core_setArc (s : State) (c : Nat) (a : Arc) (d : Nat) : ((s.setArc c a).core d).asid = (s.core d).asid := by
  rw [core_setArc]; split <;> simp_all
@[simp] theorem ptRoot_core_setArc (s : State) (c : Nat) (a : Arc) (d : Nat) : ((s.setArc c a).core d).ptRoot = (s.core d).ptRoot := by
  rw [core_setArc]; split <;> simp_all
@[simp] theorem nextAcc_core_setArc (s : State) (c : Nat) (a : Arc) (d : Nat) : ((s.setArc c a).core d).nextAcc = (s.core d).nextAcc := by
  rw [core_setArc]; split <;> simp_all
@[simp] theorem nextClaim_core_setArc (s : State) (c : Nat) (a : Arc) (d : Nat) : ((s.setArc c a).core d).nextClaim = (s.core d).nextClaim := by
  rw [core_setArc]; split <;> simp_all
@[simp] theorem posts_core_setArc (s : State) (c : Nat) (a : Arc) (d : Nat) : ((s.setArc c a).core d).posts = (s.core d).posts := by
  rw [core_setArc]; split <;> simp_all
@[simp] theorem overflow_core_setArc (s : State) (c : Nat) (a : Arc) (d : Nat) : ((s.setArc c a).core d).overflow = (s.core d).overflow := by
  rw [core_setArc]; split <;> simp_all
@[simp] theorem nacked_core_setArc (s : State) (c : Nat) (a : Arc) (d : Nat) : ((s.setArc c a).core d).nacked = (s.core d).nacked := by
  rw [core_setArc]; split <;> simp_all
@[simp] theorem ovf_core_setArc (s : State) (c : Nat) (a : Arc) (d : Nat) : ((s.setArc c a).core d).ovf = (s.core d).ovf := by
  rw [core_setArc]; split <;> simp_all
@[simp] theorem lastSend_core_setArc (s : State) (c : Nat) (a : Arc) (d : Nat) : ((s.setArc c a).core d).lastSend = (s.core d).lastSend := by
  rw [core_setArc]; split <;> simp_all
@[simp] theorem queuesHalted_core_setArc (s : State) (c : Nat) (a : Arc) (d : Nat) : ((s.setArc c a).core d).queuesHalted = (s.core d).queuesHalted := by
  rw [core_setArc]; split <;> simp_all

@[simp] theorem vptr_core_setProg (s : State) (q : Seqr) (p : Prog) (d : Nat) : ((s.setProg q p).core d).vptr = (s.core d).vptr := by
  cases q <;> simp [State.setProg]
@[simp] theorem laneFree_core_setProg (s : State) (q : Seqr) (p : Prog) (d : Nat) : ((s.setProg q p).core d).laneFree = (s.core d).laneFree := by
  cases q <;> simp [State.setProg]
@[simp] theorem spad_core_setProg (s : State) (q : Seqr) (p : Prog) (d : Nat) : ((s.setProg q p).core d).spad = (s.core d).spad := by
  cases q <;> simp [State.setProg]
@[simp] theorem blockTag_core_setProg (s : State) (q : Seqr) (p : Prog) (d : Nat) : ((s.setProg q p).core d).blockTag = (s.core d).blockTag := by
  cases q <;> simp [State.setProg]
@[simp] theorem imemC_core_setProg (s : State) (q : Seqr) (p : Prog) (d : Nat) : ((s.setProg q p).core d).imemC = (s.core d).imemC := by
  cases q <;> simp [State.setProg]
@[simp] theorem imemV_core_setProg (s : State) (q : Seqr) (p : Prog) (d : Nat) : ((s.setProg q p).core d).imemV = (s.core d).imemV := by
  cases q <;> simp [State.setProg]
@[simp] theorem imemA_core_setProg (s : State) (q : Seqr) (p : Prog) (d : Nat) : ((s.setProg q p).core d).imemA = (s.core d).imemA := by
  cases q <;> simp [State.setProg]
@[simp] theorem badWords_core_setProg (s : State) (q : Seqr) (p : Prog) (d : Nat) : ((s.setProg q p).core d).badWords = (s.core d).badWords := by
  cases q <;> simp [State.setProg]
@[simp] theorem tagSets_core_setProg (s : State) (q : Seqr) (p : Prog) (d : Nat) : ((s.setProg q p).core d).tagSets = (s.core d).tagSets := by
  cases q <;> simp [State.setProg]
@[simp] theorem streams_core_setProg (s : State) (q : Seqr) (p : Prog) (d : Nat) : ((s.setProg q p).core d).streams = (s.core d).streams := by
  cases q <;> simp [State.setProg]
@[simp] theorem tiles_core_setProg (s : State) (q : Seqr) (p : Prog) (d : Nat) : ((s.setProg q p).core d).tiles = (s.core d).tiles := by
  cases q <;> simp [State.setProg]
@[simp] theorem scaleMem_core_setProg (s : State) (q : Seqr) (p : Prog) (d : Nat) : ((s.setProg q p).core d).scaleMem = (s.core d).scaleMem := by
  cases q <;> simp [State.setProg]
@[simp] theorem stages_core_setProg (s : State) (q : Seqr) (p : Prog) (d : Nat) : ((s.setProg q p).core d).stages = (s.core d).stages := by
  cases q <;> simp [State.setProg]
@[simp] theorem queues_core_setProg (s : State) (q : Seqr) (p : Prog) (d : Nat) : ((s.setProg q p).core d).queues = (s.core d).queues := by
  cases q <;> simp [State.setProg]
@[simp] theorem launchQ_core_setProg (s : State) (q : Seqr) (p : Prog) (d : Nat) : ((s.setProg q p).core d).launchQ = (s.core d).launchQ := by
  cases q <;> simp [State.setProg]
@[simp] theorem items_core_setProg (s : State) (q : Seqr) (p : Prog) (d : Nat) : ((s.setProg q p).core d).items = (s.core d).items := by
  cases q <;> simp [State.setProg]
@[simp] theorem saved_core_setProg (s : State) (q : Seqr) (p : Prog) (d : Nat) : ((s.setProg q p).core d).saved = (s.core d).saved := by
  cases q <;> simp [State.setProg]
@[simp] theorem savedCtxs_core_setProg (s : State) (q : Seqr) (p : Prog) (d : Nat) : ((s.setProg q p).core d).savedCtxs = (s.core d).savedCtxs := by
  cases q <;> simp [State.setProg]
@[simp] theorem lateFails_core_setProg (s : State) (q : Seqr) (p : Prog) (d : Nat) : ((s.setProg q p).core d).lateFails = (s.core d).lateFails := by
  cases q <;> simp [State.setProg]
@[simp] theorem nextSeq_core_setProg (s : State) (q : Seqr) (p : Prog) (d : Nat) : ((s.setProg q p).core d).nextSeq = (s.core d).nextSeq := by
  cases q <;> simp [State.setProg]
@[simp] theorem flagPushed_core_setProg (s : State) (q : Seqr) (p : Prog) (d : Nat) : ((s.setProg q p).core d).flagPushed = (s.core d).flagPushed := by
  cases q <;> simp [State.setProg]
@[simp] theorem flagDone_core_setProg (s : State) (q : Seqr) (p : Prog) (d : Nat) : ((s.setProg q p).core d).flagDone = (s.core d).flagDone := by
  cases q <;> simp [State.setProg]
@[simp] theorem ended_core_setProg (s : State) (q : Seqr) (p : Prog) (d : Nat) : ((s.setProg q p).core d).ended = (s.core d).ended := by
  cases q <;> simp [State.setProg]
@[simp] theorem queueStat_core_setProg (s : State) (q : Seqr) (p : Prog) (d : Nat) : ((s.setProg q p).core d).queueStat = (s.core d).queueStat := by
  cases q <;> simp [State.setProg]
@[simp] theorem asid_core_setProg (s : State) (q : Seqr) (p : Prog) (d : Nat) : ((s.setProg q p).core d).asid = (s.core d).asid := by
  cases q <;> simp [State.setProg]
@[simp] theorem ptRoot_core_setProg (s : State) (q : Seqr) (p : Prog) (d : Nat) : ((s.setProg q p).core d).ptRoot = (s.core d).ptRoot := by
  cases q <;> simp [State.setProg]
@[simp] theorem nextAcc_core_setProg (s : State) (q : Seqr) (p : Prog) (d : Nat) : ((s.setProg q p).core d).nextAcc = (s.core d).nextAcc := by
  cases q <;> simp [State.setProg]
@[simp] theorem nextClaim_core_setProg (s : State) (q : Seqr) (p : Prog) (d : Nat) : ((s.setProg q p).core d).nextClaim = (s.core d).nextClaim := by
  cases q <;> simp [State.setProg]
@[simp] theorem posts_core_setProg (s : State) (q : Seqr) (p : Prog) (d : Nat) : ((s.setProg q p).core d).posts = (s.core d).posts := by
  cases q <;> simp [State.setProg]
@[simp] theorem overflow_core_setProg (s : State) (q : Seqr) (p : Prog) (d : Nat) : ((s.setProg q p).core d).overflow = (s.core d).overflow := by
  cases q <;> simp [State.setProg]
@[simp] theorem nacked_core_setProg (s : State) (q : Seqr) (p : Prog) (d : Nat) : ((s.setProg q p).core d).nacked = (s.core d).nacked := by
  cases q <;> simp [State.setProg]
@[simp] theorem ovf_core_setProg (s : State) (q : Seqr) (p : Prog) (d : Nat) : ((s.setProg q p).core d).ovf = (s.core d).ovf := by
  cases q <;> simp [State.setProg]
@[simp] theorem lastSend_core_setProg (s : State) (q : Seqr) (p : Prog) (d : Nat) : ((s.setProg q p).core d).lastSend = (s.core d).lastSend := by
  cases q <;> simp [State.setProg]
@[simp] theorem queuesHalted_core_setProg (s : State) (q : Seqr) (p : Prog) (d : Nat) : ((s.setProg q p).core d).queuesHalted = (s.core d).queuesHalted := by
  cases q <;> simp [State.setProg]

@[simp] theorem slots_core_countRetired (s : State) (q : Seqr) (d : Nat) : ((s.countRetired q).core d).slots = (s.core d).slots := by
  cases q <;> simp [State.countRetired]
@[simp] theorem vptr_core_countRetired (s : State) (q : Seqr) (d : Nat) : ((s.countRetired q).core d).vptr = (s.core d).vptr := by
  cases q <;> simp [State.countRetired]
@[simp] theorem laneFree_core_countRetired (s : State) (q : Seqr) (d : Nat) : ((s.countRetired q).core d).laneFree = (s.core d).laneFree := by
  cases q <;> simp [State.countRetired]
@[simp] theorem arc_core_countRetired (s : State) (q : Seqr) (d : Nat) : ((s.countRetired q).core d).arc = (s.core d).arc := by
  cases q <;> simp [State.countRetired]
@[simp] theorem spad_core_countRetired (s : State) (q : Seqr) (d : Nat) : ((s.countRetired q).core d).spad = (s.core d).spad := by
  cases q <;> simp [State.countRetired]
@[simp] theorem blockTag_core_countRetired (s : State) (q : Seqr) (d : Nat) : ((s.countRetired q).core d).blockTag = (s.core d).blockTag := by
  cases q <;> simp [State.countRetired]
@[simp] theorem imemC_core_countRetired (s : State) (q : Seqr) (d : Nat) : ((s.countRetired q).core d).imemC = (s.core d).imemC := by
  cases q <;> simp [State.countRetired]
@[simp] theorem imemV_core_countRetired (s : State) (q : Seqr) (d : Nat) : ((s.countRetired q).core d).imemV = (s.core d).imemV := by
  cases q <;> simp [State.countRetired]
@[simp] theorem imemA_core_countRetired (s : State) (q : Seqr) (d : Nat) : ((s.countRetired q).core d).imemA = (s.core d).imemA := by
  cases q <;> simp [State.countRetired]
@[simp] theorem badWords_core_countRetired (s : State) (q : Seqr) (d : Nat) : ((s.countRetired q).core d).badWords = (s.core d).badWords := by
  cases q <;> simp [State.countRetired]
@[simp] theorem tagSets_core_countRetired (s : State) (q : Seqr) (d : Nat) : ((s.countRetired q).core d).tagSets = (s.core d).tagSets := by
  cases q <;> simp [State.countRetired]
@[simp] theorem streams_core_countRetired (s : State) (q : Seqr) (d : Nat) : ((s.countRetired q).core d).streams = (s.core d).streams := by
  cases q <;> simp [State.countRetired]
@[simp] theorem tiles_core_countRetired (s : State) (q : Seqr) (d : Nat) : ((s.countRetired q).core d).tiles = (s.core d).tiles := by
  cases q <;> simp [State.countRetired]
@[simp] theorem scaleMem_core_countRetired (s : State) (q : Seqr) (d : Nat) : ((s.countRetired q).core d).scaleMem = (s.core d).scaleMem := by
  cases q <;> simp [State.countRetired]
@[simp] theorem stages_core_countRetired (s : State) (q : Seqr) (d : Nat) : ((s.countRetired q).core d).stages = (s.core d).stages := by
  cases q <;> simp [State.countRetired]
@[simp] theorem queues_core_countRetired (s : State) (q : Seqr) (d : Nat) : ((s.countRetired q).core d).queues = (s.core d).queues := by
  cases q <;> simp [State.countRetired]
@[simp] theorem launchQ_core_countRetired (s : State) (q : Seqr) (d : Nat) : ((s.countRetired q).core d).launchQ = (s.core d).launchQ := by
  cases q <;> simp [State.countRetired]
@[simp] theorem items_core_countRetired (s : State) (q : Seqr) (d : Nat) : ((s.countRetired q).core d).items = (s.core d).items := by
  cases q <;> simp [State.countRetired]
@[simp] theorem saved_core_countRetired (s : State) (q : Seqr) (d : Nat) : ((s.countRetired q).core d).saved = (s.core d).saved := by
  cases q <;> simp [State.countRetired]
@[simp] theorem savedCtxs_core_countRetired (s : State) (q : Seqr) (d : Nat) : ((s.countRetired q).core d).savedCtxs = (s.core d).savedCtxs := by
  cases q <;> simp [State.countRetired]
@[simp] theorem lateFails_core_countRetired (s : State) (q : Seqr) (d : Nat) : ((s.countRetired q).core d).lateFails = (s.core d).lateFails := by
  cases q <;> simp [State.countRetired]
@[simp] theorem nextSeq_core_countRetired (s : State) (q : Seqr) (d : Nat) : ((s.countRetired q).core d).nextSeq = (s.core d).nextSeq := by
  cases q <;> simp [State.countRetired]
@[simp] theorem flagPushed_core_countRetired (s : State) (q : Seqr) (d : Nat) : ((s.countRetired q).core d).flagPushed = (s.core d).flagPushed := by
  cases q <;> simp [State.countRetired]
@[simp] theorem flagDone_core_countRetired (s : State) (q : Seqr) (d : Nat) : ((s.countRetired q).core d).flagDone = (s.core d).flagDone := by
  cases q <;> simp [State.countRetired]
@[simp] theorem ended_core_countRetired (s : State) (q : Seqr) (d : Nat) : ((s.countRetired q).core d).ended = (s.core d).ended := by
  cases q <;> simp [State.countRetired]
@[simp] theorem queueStat_core_countRetired (s : State) (q : Seqr) (d : Nat) : ((s.countRetired q).core d).queueStat = (s.core d).queueStat := by
  cases q <;> simp [State.countRetired]
@[simp] theorem asid_core_countRetired (s : State) (q : Seqr) (d : Nat) : ((s.countRetired q).core d).asid = (s.core d).asid := by
  cases q <;> simp [State.countRetired]
@[simp] theorem ptRoot_core_countRetired (s : State) (q : Seqr) (d : Nat) : ((s.countRetired q).core d).ptRoot = (s.core d).ptRoot := by
  cases q <;> simp [State.countRetired]
@[simp] theorem nextAcc_core_countRetired (s : State) (q : Seqr) (d : Nat) : ((s.countRetired q).core d).nextAcc = (s.core d).nextAcc := by
  cases q <;> simp [State.countRetired]
@[simp] theorem nextClaim_core_countRetired (s : State) (q : Seqr) (d : Nat) : ((s.countRetired q).core d).nextClaim = (s.core d).nextClaim := by
  cases q <;> simp [State.countRetired]
@[simp] theorem posts_core_countRetired (s : State) (q : Seqr) (d : Nat) : ((s.countRetired q).core d).posts = (s.core d).posts := by
  cases q <;> simp [State.countRetired]
@[simp] theorem overflow_core_countRetired (s : State) (q : Seqr) (d : Nat) : ((s.countRetired q).core d).overflow = (s.core d).overflow := by
  cases q <;> simp [State.countRetired]
@[simp] theorem nacked_core_countRetired (s : State) (q : Seqr) (d : Nat) : ((s.countRetired q).core d).nacked = (s.core d).nacked := by
  cases q <;> simp [State.countRetired]
@[simp] theorem ovf_core_countRetired (s : State) (q : Seqr) (d : Nat) : ((s.countRetired q).core d).ovf = (s.core d).ovf := by
  cases q <;> simp [State.countRetired]
@[simp] theorem lastSend_core_countRetired (s : State) (q : Seqr) (d : Nat) : ((s.countRetired q).core d).lastSend = (s.core d).lastSend := by
  cases q <;> simp [State.countRetired]
@[simp] theorem queuesHalted_core_countRetired (s : State) (q : Seqr) (d : Nat) : ((s.countRetired q).core d).queuesHalted = (s.core d).queuesHalted := by
  cases q <;> simp [State.countRetired]

theorem ctx_setCtx (s : State) (c x d y : Nat) (t : Ctx) :
    (s.setCtx c x t).ctx d y = if d = c ∧ y = x then t else s.ctx d y := by
  unfold State.ctx
  rw [core_setCtx]
  by_cases hd : d = c
  · subst hd; simp only [if_true, SMap.get_set, true_and]
  · simp [hd]

@[simp] theorem ctx_setCtx_self (s : State) (c x : Nat) (t : Ctx) : (s.setCtx c x t).ctx c x = t := by simp [ctx_setCtx]

@[simp] theorem ctx_setSlot (s : State) (c k d y : Nat) (v : VSlot) : (s.setSlot c k v).ctx d y = s.ctx d y := by
  simp [State.ctx]

@[simp] theorem ctx_setArc (s : State) (c d y : Nat) (a : Arc) : (s.setArc c a).ctx d y = s.ctx d y := by
  simp [State.ctx]

theorem slot_setSlot (s : State) (c k d j : Nat) (v : VSlot) :
    (s.setSlot c k v).slot d j = if d = c ∧ j = k then v else s.slot d j := by
  unfold State.slot
  rw [core_setSlot]
  by_cases hd : d = c
  · subst hd; simp only [if_true, SMap.get_set, true_and]
  · simp [hd]

@[simp] theorem slot_setSlot_self (s : State) (c k : Nat) (v : VSlot) : (s.setSlot c k v).slot c k = v := by simp [slot_setSlot]

@[simp] theorem slot_setCtx (s : State) (c x d j : Nat) (t : Ctx) : (s.setCtx c x t).slot d j = s.slot d j := by
  simp [State.slot]

@[simp] theorem slot_setArc (s : State) (c d j : Nat) (a : Arc) : (s.setArc c a).slot d j = s.slot d j := by
  simp [State.slot]

theorem arc_setArc (s : State) (c d : Nat) (a : Arc) : (s.setArc c a).arc d = if d = c then a else s.arc d := by
  unfold State.arc
  rw [core_setArc]
  split <;> simp_all

@[simp] theorem arc_setArc_self (s : State) (c : Nat) (a : Arc) : (s.setArc c a).arc c = a := by simp [arc_setArc]

@[simp] theorem arc_setCtx (s : State) (c x d : Nat) (t : Ctx) : (s.setCtx c x t).arc d = s.arc d := by
  simp [State.arc]

@[simp] theorem arc_setSlot (s : State) (c k d : Nat) (v : VSlot) : (s.setSlot c k v).arc d = s.arc d := by
  simp [State.arc]

@[simp] theorem prog_setProg_self (s : State) (q : Seqr) (p : Prog) : (s.setProg q p).prog q = p := by
  cases q <;> simp [State.setProg, State.prog]

theorem prog_setProg_of_ne (s : State) {q r : Seqr} (h : r ≠ q) (p : Prog) : (s.setProg q p).prog r = s.prog r := by
  cases q <;> cases r <;> simp [State.setProg, State.prog, ctx_setCtx, slot_setSlot, arc_setArc] <;> split <;> simp_all

theorem prog_setProg (s : State) (q r : Seqr) (p : Prog) : (s.setProg q p).prog r = if r = q then p else s.prog r := by
  split
  · next e => subst e; simp
  · next e => exact prog_setProg_of_ne s e p

@[simp] theorem prog_countRetired (s : State) (q r : Seqr) : (s.countRetired q).prog r = s.prog r := by
  cases q <;> cases r <;> simp [State.countRetired, State.prog, ctx_setCtx] <;> split <;> simp_all

theorem ctx_setProg (s : State) (q : Seqr) (p : Prog) (c x : Nat) :
    (s.setProg q p).ctx c x = { s.ctx c x with prog := if q = .thread c x then p else (s.ctx c x).prog } := by
  cases q with
  | thread d y =>
    simp only [State.setProg, ctx_setCtx]
    by_cases h : c = d ∧ x = y
    · obtain ⟨rfl, rfl⟩ := h; simp
    · rw [if_neg h, if_neg (by rintro ⟨⟩; exact h ⟨rfl, rfl⟩)]
  | vec d k => simp [State.setProg]
  | arc d => simp [State.setProg]

theorem slot_setProg (s : State) (q : Seqr) (p : Prog) (c k : Nat) :
    (s.setProg q p).slot c k = { s.slot c k with prog := if q = .vec c k then p else (s.slot c k).prog } := by
  cases q with
  | vec d y =>
    simp only [State.setProg, slot_setSlot]
    by_cases h : c = d ∧ k = y
    · obtain ⟨rfl, rfl⟩ := h; simp
    · rw [if_neg h, if_neg (by rintro ⟨⟩; exact h ⟨rfl, rfl⟩)]
  | thread d k => simp [State.setProg]
  | arc d => simp [State.setProg]

theorem arc_setProg (s : State) (q : Seqr) (p : Prog) (c : Nat) :
    (s.setProg q p).arc c = { s.arc c with prog := if q = .arc c then p else (s.arc c).prog } := by
  cases q with
  | arc d =>
    simp only [State.setProg, arc_setArc]
    by_cases h : c = d
    · subst h; simp
    · rw [if_neg h, if_neg (by rintro ⟨⟩; exact h rfl)]
  | thread d k => simp [State.setProg]
  | vec d k => simp [State.setProg]

@[simp] theorem ownerCtx_setProg (s : State) (q r : Seqr) (p : Prog) : (s.setProg q p).ownerCtx r = s.ownerCtx r := by
  cases r <;> simp [State.ownerCtx, slot_setProg, arc_setProg]

@[simp] theorem ownerCtx_setCtx (s : State) (c x : Nat) (t : Ctx) (r : Seqr) : (s.setCtx c x t).ownerCtx r = s.ownerCtx r := by
  cases r <;> simp [State.ownerCtx]

@[simp] theorem ownerCtx_countRetired (s : State) (q r : Seqr) : (s.countRetired q).ownerCtx r = s.ownerCtx r := by
  cases q <;> simp [State.countRetired]

theorem getS_setS (s : State) (q r : Seqr) (a b : Reg) (v : DWord) :
    (s.setS q a v).getS r b = if r = q ∧ b = a ∧ b ≠ 0 then v else s.getS r b := by
  unfold State.getS State.setS
  rw [prog_setProg]
  by_cases hr : r = q
  · subst hr
    rw [if_pos rfl]
    unfold Prog.getS Prog.setS
    by_cases h0 : b = 0
    · subst h0; simp
    · have hb : b.toNat ≠ 0 := fun h => h0 (BitVec.eq_of_toNat_eq (by simpa using h))
      rw [if_neg hb]
      by_cases ha : a.toNat = 0
      · rw [if_pos ha, if_neg hb]
        rw [if_neg]
        rintro ⟨-, rfl, -⟩
        exact hb ha
      · rw [if_neg ha]
        simp only [SMap.get_set, if_neg hb]
        by_cases hab : b = a
        · subst hab
          have h1 : ¬ b = 0#6 := h0
          simp [h1]
        · have : b.toNat ≠ a.toNat := fun h => hab (BitVec.eq_of_toNat_eq h)
          simp [hab, this]
  · simp [hr]

end Sys2Proof.Machine.State
end

