-- ==== Sys2Proof/Laws/Issue.lean ====
section
/-! SUPPORT. Issuing an instruction: what a meaning that retires, stalls or traps comes to, and what a retired instruction that
writes one scalar register leaves alone. -/

namespace Sys2Proof.Machine

open Sys2Proof.Safety

@[simp] theorem State.prog_stalled (s : State) (b : Bool) (q : Seqr) : ({ s with stalled := b } : State).prog q = s.prog q := by
  cases q <;> rfl
@[simp] theorem State.core_stalled (s : State) (b : Bool) (c : Nat) : ({ s with stalled := b } : State).core c = s.core c := rfl
@[simp] theorem State.ctx_stalled (s : State) (b : Bool) (c x : Nat) : ({ s with stalled := b } : State).ctx c x = s.ctx c x := rfl
@[simp] theorem State.slot_stalled (s : State) (b : Bool) (c k : Nat) : ({ s with stalled := b } : State).slot c k = s.slot c k := rfl
@[simp] theorem State.arc_stalled (s : State) (b : Bool) (c : Nat) : ({ s with stalled := b } : State).arc c = s.arc c := rfl
@[simp] theorem State.getS_stalled (s : State) (b : Bool) (q : Seqr) (r : Reg) :
    ({ s with stalled := b } : State).getS q r = s.getS q r := by cases q <;> rfl
@[simp] theorem State.ownerCtx_stalled (s : State) (b : Bool) (q : Seqr) :
    ({ s with stalled := b } : State).ownerCtx q = s.ownerCtx q := by cases q <;> rfl
@[simp] theorem State.thread_stalled (s : State) (b : Bool) (q : Seqr) :
    ({ s with stalled := b } : State).thread q = s.thread q := by simp [State.thread]
@[simp] theorem State.regEmpty_stalled (s : State) (b : Bool) (q : Seqr) (x : Src) :
    ({ s with stalled := b } : State).regEmpty q x = s.regEmpty q x := by cases x; simp [State.regEmpty]
@[simp] theorem State.regBusy_stalled (s : State) (b : Bool) (q : Seqr) (x : Src) :
    ({ s with stalled := b } : State).regBusy q x = s.regBusy q x := by cases q <;> rfl

/-- With every register ready, an instruction waits for none. -/
theorem State.need_of_ready {s : State} {srcs dests : List Src} (h : RegsReady s (srcs ++ dests)) :
    ({ s with stalled := false } : State).need s.cur srcs dests = none := by
  unfold State.need
  have h1 : srcs.find? (fun x => x.t && ({ s with stalled := false } : State).regEmpty s.cur x) = none := by
    rw [List.find?_eq_none]
    intro x hx
    simp [(h x (List.mem_append_left _ hx)).1]
  rw [h1]
  simp only
  rw [if_neg]
  simp only [List.any_eq_true, not_exists, not_and]
  intro x hx
  simp [(h x hx).1, (h x hx).2]

theorem State.ready_of_ready {s : State} {srcs dests : List Src} (h : RegsReady s (srcs ++ dests)) (r : Res) :
    ({ s with stalled := false } : State).ready s.cur srcs dests r = r := by
  unfold State.ready; rw [State.need_of_ready h]; rfl

/-- A guard that is readable and true lets the body run. -/
theorem guarded_of_on {s : State} {lw : LW} (h : GuardOn s lw) (r : Res) :
    guarded lw s.cur ({ s with stalled := false } : State) r = r := by
  unfold guarded
  split
  · next hg =>
    obtain ⟨h1, h2⟩ := h hg
    rw [State.ready_of_ready (s := s) (dests := []) (by simpa using h1)]
    simp [h2]
  · rfl

/-- An instruction that stands well does what its body says. -/
theorem issue_eq {s : State} {len : Nat} {pl : Place} {body : Seqr → State → Res} (h : Stands s len pl) {r : Res}
    (hb : body s.cur { s with stalled := false } = r) (hr : ∀ f, r ≠ .stop f) :
    issue s len pl body = .next (finish s.cur { s with stalled := false } len r) := by
  unfold issue
  simp only [State.prog_stalled]
  rw [if_neg (by rw [h]; simp), hb]
  cases r <;> first | rfl | exact absurd rfl (hr _)

theorem bytesSame_of {s t : State} (h : DeviceSame s t) (k : CoresSame s t) : BytesSame s t := by
  refine ⟨fun a => ?_, fun a => ?_, fun c a => ?_, fun c a => ?_⟩
  · rw [← congrArg State.hbm h]
  · rw [← congrArg State.hostMem h]
  · rw [← congrArg Core.spad (k c)]
  · rw [← congrArg Core.scaleMem (k c)]

theorem deviceSame_setProg (s : State) (q : Seqr) (p : Prog) : DeviceSame s (s.setProg q p) := by
  cases q <;> rfl

theorem deviceSame_countRetired (s : State) (q : Seqr) : DeviceSame s (s.countRetired q) := by
  cases q <;> rfl

theorem deviceSame_trans {s t u : State} (h : DeviceSame s t) (k : DeviceSame t u) : DeviceSame s u := by
  unfold DeviceSame at *
  rw [← k] at h
  exact h

/-- The flow of control changes no register of the program. -/
theorem loopCheck_rest (p : Prog) (n : DWord) :
    (p.loopCheck n).s = p.s ∧ (p.loopCheck n).b = p.b ∧ (p.loopCheck n).sEmpty = p.sEmpty ∧ (p.loopCheck n).hold = p.hold ∧
      (p.loopCheck n).trapping = p.trapping := ⟨rfl, rfl, rfl, rfl, rfl⟩

theorem takeXfer_rest (p : Prog) (f : Bool) (x : Xfer) :
    (p.takeXfer f x).s = p.s ∧ (p.takeXfer f x).b = p.b ∧ (p.takeXfer f x).sEmpty = p.sEmpty ∧ (p.takeXfer f x).hold = p.hold ∧
      (p.takeXfer f x).trapping = p.trapping := by
  unfold Prog.takeXfer
  split
  · split <;> exact ⟨rfl, rfl, rfl, rfl, rfl⟩
  · dsimp only; split <;> exact ⟨rfl, rfl, rfl, rfl, rfl⟩

/-- An untaken transfer goes where the loop-end check on its destination leads. -/
theorem takeXfer_untaken_pc (p : Prog) (f : Bool) (x : Xfer) (h : ¬ x.taken = true) :
    (p.takeXfer f x).pc = (({ p with pend := none } : Prog).loopCheck x.dest).pc := by
  unfold Prog.takeXfer
  rw [if_neg h]
  dsimp only
  split <;> rfl

theorem advance_rest (p : Prog) (f : Bool) (n : DWord) :
    (p.advance f n).s = p.s ∧ (p.advance f n).b = p.b ∧ (p.advance f n).sEmpty = p.sEmpty ∧ (p.advance f n).hold = p.hold ∧
      (p.advance f n).trapping = p.trapping := by
  unfold Prog.advance
  split
  · exact loopCheck_rest _ _
  · split
    · exact takeXfer_rest _ _ _
    · exact loopCheck_rest _ _

/-- Where flow goes does not depend on the program's registers. -/
theorem advance_pc_setS (p : Prog) (f : Bool) (n : DWord) (r : Nat) (v : DWord) :
    ((p.setS r v).advance f n).pc = (p.advance f n).pc := by
  unfold Prog.setS
  split
  · rfl
  · unfold Prog.advance
    simp only
    cases p.pend with
    | none => rfl
    | some x =>
      simp only
      split
      · by_cases hx : x.taken = true
        · unfold Prog.takeXfer; rw [if_pos hx, if_pos hx]; split <;> rfl
        · rw [takeXfer_untaken_pc _ _ _ hx, takeXfer_untaken_pc _ _ _ hx]; rfl
      · rfl

theorem coresSame_setProg (s : State) (q : Seqr) (p : Prog) : CoresSame s (s.setProg q p) := by
  intro c
  cases q with
  | thread d x => simp only [State.setProg, State.core_setCtx]; split <;> simp_all
  | vec d x => simp only [State.setProg, State.core_setSlot]; split <;> simp_all
  | arc d => simp only [State.setProg, State.core_setArc]; split <;> simp_all

theorem coresSame_countRetired (s : State) (q : Seqr) : CoresSame s (s.countRetired q) := by
  intro c
  cases q with
  | thread d x => simp only [State.countRetired, State.core_setCtx]; split <;> simp_all
  | vec d x => rfl
  | arc d => rfl

theorem coresSame_trans {s t u : State} (h : CoresSame s t) (k : CoresSame t u) : CoresSame s u := by
  intro c
  have h1 := h c
  have h2 := k c
  rw [← h1, ← h2]

/-- What the retirement of an instruction leaves alone. -/
theorem after_finish (s s0 s1 : State) (len : Nat) (h0 : s0.prog s.cur = s.prog s.cur) :
    After s s1 (finish s.cur s0 len (.retire s1)) len := by
  have hprog : ∀ q, (finish s.cur s0 len (.retire s1)).prog q
      = if q = s.cur then (s1.prog s.cur).advance s.cur.isFork (seqNext (s.prog s.cur).pc len) else s1.prog q := by
    intro q
    simp only [finish, State.prog_setProg, State.prog_countRetired, h0]
  refine ⟨?_, ?_, ?_, ?_, ?_, ?_, ?_, ?_⟩
  · simp only [finish]
    cases s.cur <;> rfl
  · exact coresSame_trans (coresSame_countRetired _ _) (coresSame_setProg _ _ _)
  · intro c x
    simp only [finish, State.ctx_setProg]
    cases hq : s.cur with
    | thread d y =>
      simp only [State.countRetired, State.ctx_setCtx]
      by_cases h : c = d ∧ x = y
      · obtain ⟨rfl, rfl⟩ := h; simp
      · rw [if_neg h]
    | vec d y => rfl
    | arc d => rfl
  · intro c k
    simp only [finish, State.slot_setProg]
    cases hq : s.cur <;> simp [State.countRetired]
  · intro c
    simp only [finish, State.arc_setProg]
    cases hq : s.cur <;> simp [State.countRetired]
  · intro q hq; rw [hprog, if_neg hq]
  · rw [hprog, if_pos rfl]
  · intro c x
    simp only [finish, State.ctx_setProg]
    cases hq : s.cur with
    | thread d y =>
      simp only [State.countRetired, State.ctx_setCtx]
      by_cases h : c = d ∧ x = y
      · obtain ⟨rfl, rfl⟩ := h; simp
      · have h2 : ¬ (Seqr.thread d y = Seqr.thread c x) := by rintro ⟨⟩; exact h ⟨rfl, rfl⟩
        rw [if_neg h, if_neg h2]
    | vec d y => simp [State.countRetired]
    | arc d => simp [State.countRetired]

/-- A program's registers but s, its empty bits, its trap and its hold. -/
theorem onlyS_of_after {s s1 t : State} {len : Nat} {d : Reg} {hold : Option Hold} (h : After s s1 t len)
    (hdev : DeviceSame s s1) (hcores : CoresSame s s1) (hctx : CtxsSame s s1) (heng : EnginesSame s s1)
    (hoth : ∀ q, q ≠ s.cur → s1.prog q = s.prog q) (hins : ∀ c x, (s1.ctx c x).instret = (s.ctx c x).instret)
    (hb : (s1.prog s.cur).b = (s.prog s.cur).b) (he : (s1.prog s.cur).sEmpty = (s.prog s.cur).sEmpty)
    (hh : (s1.prog s.cur).hold = hold) (ht : (s1.prog s.cur).trapping = (s.prog s.cur).trapping)
    (hpc : ((s1.prog s.cur).advance s.cur.isFork (seqNext (s.prog s.cur).pc len)).pc
      = ((s.prog s.cur).advance s.cur.isFork (seqNext (s.prog s.cur).pc len)).pc)
    (hr : ∀ r, r ≠ d → s1.getS s.cur r = s.getS s.cur r) :
    t.getS s.cur d = s1.getS s.cur d ∧ OnlyS s t len d hold := by
  have hrest := advance_rest (s1.prog s.cur) s.cur.isFork (seqNext (s.prog s.cur).pc len)
  have hget : ∀ r, t.getS s.cur r = s1.getS s.cur r := by
    intro r; unfold State.getS Prog.getS; rw [h.prog, hrest.1]
  have hD : DeviceSame s t := deviceSame_trans hdev (by
    have := h.device
    unfold DeviceSame
    rw [← congrArg State.stalled this] at *
    exact this)
  have hC : CoresSame s t := coresSame_trans hcores h.cores
  refine ⟨hget d, hD, hC, ?_, ⟨?_, ?_⟩, ⟨?_, ?_, ?_, ?_, ?_⟩, ?_, ?_, bytesSame_of hD hC, ?_⟩
  · intro c x; rw [← hctx c x, ← h.ctxs c x]
  · intro c k; rw [← heng.1 c k, ← h.slots c k]
  · intro c; rw [← heng.2 c, ← h.arcs c]
  · intro q hq; rw [h.others q hq, hoth q hq]
  · intro n; unfold Prog.getB; rw [h.prog, hrest.2.1, hb]
  · rw [h.prog, hrest.2.2.1, he]
  · rw [h.prog, hrest.2.2.2.1, hh]
  · rw [h.prog, hrest.2.2.2.2, ht]
  · intro c x; rw [h.count c x, hins c x]
  · unfold FlowsOn; rw [h.prog, hpc]
  · intro r hrd; rw [hget r, hr r hrd]

/-- Where flow goes depends on nothing but the pc, the pending transfer and the loops. -/
theorem advance_pc_congr {p p' : Prog} (h1 : p'.pend = p.pend) (h2 : p'.loops = p.loops) (f : Bool) (n : DWord) :
    (p'.advance f n).pc = (p.advance f n).pc := by
  unfold Prog.advance
  rw [h1]
  cases p.pend with
  | none => simp [Prog.loopCheck, h2]
  | some x =>
    simp only
    split
    · by_cases hx : x.taken = true
      · unfold Prog.takeXfer; rw [if_pos hx, if_pos hx]; split <;> rfl
      · rw [takeXfer_untaken_pc _ _ _ hx, takeXfer_untaken_pc _ _ _ hx]; simp [Prog.loopCheck, h2]
    · simp [Prog.loopCheck, h2]

theorem setProg_same {s s' : State} (hs : fresh s = s') {p : Prog} :
    DeviceSame s (s'.setProg s.cur p) ∧ CoresSame s (s'.setProg s.cur p) ∧ CtxsSame s (s'.setProg s.cur p) ∧
      EnginesSame s (s'.setProg s.cur p) ∧ (∀ q, q ≠ s.cur → (s'.setProg s.cur p).prog q = s.prog q) ∧
      (∀ c x, ((s'.setProg s.cur p).ctx c x).instret = (s.ctx c x).instret) ∧ (s'.setProg s.cur p).prog s.cur = p := by
  subst hs
  have hd : DeviceSame s (fresh s) := rfl
  have hc : CoresSame s (fresh s) := fun _ => rfl
  refine ⟨deviceSame_trans hd (deviceSame_setProg _ _ _), coresSame_trans hc (coresSame_setProg _ _ _), ?_, ⟨?_, ?_⟩, ?_, ?_, ?_⟩
  · intro c x; rw [State.ctx_setProg]; rfl
  · intro c k; rw [State.slot_setProg]; rfl
  · intro c; rw [State.arc_setProg]; rfl
  · intro q hq; rw [State.prog_setProg_of_ne _ hq]; exact State.prog_stalled s false q
  · intro c x; rw [State.ctx_setProg]; rfl
  · exact State.prog_setProg_self _ _ _

theorem getS_setProg_setS (p : Prog) (d r : Reg) (v : DWord) :
    (p.setS d.toNat v).getS r.toNat = if r = d then (if d = 0 then 0 else v) else p.getS r.toNat := by
  by_cases h0 : d = 0
  · subst h0
    by_cases hr : r = 0
    · subst hr; simp [Prog.getS]
    · rw [if_neg hr]; simp [Prog.setS]
  · have hd : d.toNat ≠ 0 := fun h => h0 (BitVec.eq_of_toNat_eq (by simpa using h))
    rw [if_neg h0]
    unfold Prog.getS Prog.setS
    rw [if_neg hd]
    by_cases hr : r = d
    · subst hr; rw [if_neg hd, if_pos rfl, SMap.get_set_self]
    · rw [if_neg hr]
      by_cases hr0 : r.toNat = 0
      · rw [if_pos hr0, if_pos hr0]
      · rw [if_neg hr0, if_neg hr0, SMap.get_set_of_ne _ _ (fun h => hr (BitVec.eq_of_toNat_eq h))]

theorem setS_rest (p : Prog) (n : Nat) (v : DWord) :
    (p.setS n v).b = p.b ∧ (p.setS n v).sEmpty = p.sEmpty ∧ (p.setS n v).hold = p.hold ∧ (p.setS n v).trapping = p.trapping ∧
      (p.setS n v).pend = p.pend ∧ (p.setS n v).loops = p.loops := by
  unfold Prog.setS; split <;> exact ⟨rfl, rfl, rfl, rfl, rfl, rfl⟩

/-- What the retirement of an instruction that writes s_d leaves alone. -/
theorem finish_setS (s : State) (len : Nat) (d : Reg) (v : DWord) :
    (finish s.cur (fresh s) len (.retire ((fresh s).setS s.cur d v))).getS s.cur d = (if d = 0 then 0 else v) ∧
      OnlyS s (finish s.cur (fresh s) len (.retire ((fresh s).setS s.cur d v))) len d (s.prog s.cur).hold := by
  have ha := after_finish s (fresh s) ((fresh s).setS s.cur d v) len (State.prog_stalled s false _)
  obtain ⟨h1, h2, h3, h4, h5, h6, h7⟩ := setProg_same (s := s) rfl (p := (s.prog s.cur).setS d.toNat v)
  have hs : (fresh s).setS s.cur d v = (fresh s).setProg s.cur ((s.prog s.cur).setS d.toNat v) := by
    unfold State.setS; rw [show (fresh s).prog s.cur = s.prog s.cur from State.prog_stalled s false _]
  rw [← hs] at h1 h2 h3 h4 h5 h6 h7
  obtain ⟨r1, r2, r3, r4, r5, r6⟩ := setS_rest (s.prog s.cur) d.toNat v
  obtain ⟨g, o⟩ := onlyS_of_after (d := d) (hold := (s.prog s.cur).hold) ha h1 h2 h3 h4 h5 h6 (by rw [h7, r1]) (by rw [h7, r2])
    (by rw [h7, r3]) (by rw [h7, r4]) (by rw [h7]; exact advance_pc_congr r5 r6 _ _)
    (by intro r hr; unfold State.getS; rw [h7, getS_setProg_setS, if_neg hr])
  refine ⟨?_, o⟩
  rw [g]; unfold State.getS; rw [h7, getS_setProg_setS, if_pos rfl]

/-- The same with a hold of `n` clocks. -/
theorem finish_setS_hold (s : State) (len : Nat) (d : Reg) (v : DWord) (n : Nat) :
    (finish s.cur (fresh s) len (.retire (((fresh s).setS s.cur d v).holdFor s.cur n))).getS s.cur d = (if d = 0 then 0 else v) ∧
      OnlyS s (finish s.cur (fresh s) len (.retire (((fresh s).setS s.cur d v).holdFor s.cur n))) len d (some (.clock (s.now + n))) := by
  have ha := after_finish s (fresh s) (((fresh s).setS s.cur d v).holdFor s.cur n) len (State.prog_stalled s false _)
  have hs : ((fresh s).setS s.cur d v).holdFor s.cur n
      = (fresh s).setProg s.cur { (s.prog s.cur).setS d.toNat v with hold := some (.clock (s.now + n)) } := by
    unfold State.setS State.holdFor
    rw [show (fresh s).prog s.cur = s.prog s.cur from State.prog_stalled s false _]
    simp only [State.prog_setProg_self, State.now_setProg]
    cases s.cur <;> simp [State.setProg, State.setCtx, State.setSlot, State.setArc, State.setCore, State.core, State.ctx, State.slot,
      State.arc, fresh]
  obtain ⟨h1, h2, h3, h4, h5, h6, h7⟩ := setProg_same (s := s) rfl
    (p := { (s.prog s.cur).setS d.toNat v with hold := some (.clock (s.now + n)) })
  rw [← hs] at h1 h2 h3 h4 h5 h6 h7
  obtain ⟨r1, r2, r3, r4, r5, r6⟩ := setS_rest (s.prog s.cur) d.toNat v
  have hpc := advance_pc_congr (p := s.prog s.cur)
    (p' := { (s.prog s.cur).setS d.toNat v with hold := some (.clock (s.now + n)) }) (by rw [← r5]) (by rw [← r6]) s.cur.isFork
    (seqNext (s.prog s.cur).pc len)
  have hg : ∀ r : Reg, ({ (s.prog s.cur).setS d.toNat v with hold := some (.clock (s.now + n)) } : Prog).getS r.toNat
      = ((s.prog s.cur).setS d.toNat v).getS r.toNat := fun _ => rfl
  obtain ⟨g, o⟩ := onlyS_of_after (d := d) (hold := some (.clock (s.now + n))) ha h1 h2 h3 h4 h5 h6 (by rw [h7, ← r1])
    (by rw [h7, ← r2]) (by rw [h7]) (by rw [h7, ← r4]) (by rw [h7]; exact hpc)
    (by intro r hr; unfold State.getS; rw [h7, hg, getS_setProg_setS, if_neg hr])
  refine ⟨?_, o⟩
  rw [g]; unfold State.getS; rw [h7, hg, getS_setProg_setS, if_pos rfl]

/-- A meaning that retires with one scalar register written completes as `WritesS` says. -/
theorem writesS_of_issue {i : Instr} {s : State} {len : Nat} {pl : Place} {d : Reg} {v : DWord}
    (body : Seqr → State → Res) (hi : exec i s = issue s len pl body) (hs : Stands s len pl)
    (hb : body s.cur (fresh s) = .retire ((fresh s).setS s.cur d v)) : WritesS i s len d v :=
  ⟨_, hi.trans (issue_eq hs hb (by intro f; simp)), finish_setS s len d v⟩

theorem writesSHeld_of_issue {i : Instr} {s : State} {len : Nat} {pl : Place} {d : Reg} {v : DWord} {n : Nat}
    (body : Seqr → State → Res) (hi : exec i s = issue s len pl body) (hs : Stands s len pl)
    (hb : body s.cur (fresh s) = .retire (((fresh s).setS s.cur d v).holdFor s.cur n)) : WritesSHeld i s len d v n :=
  ⟨_, hi.trans (issue_eq hs hb (by intro f; simp)), finish_setS_hold s len d v n⟩

/-- A meaning that retires completes as `Retires` says. -/
theorem retires_of_issue {i : Instr} {s s1 : State} {len : Nat} {pl : Place} (body : Seqr → State → Res)
    (hi : exec i s = issue s len pl body) (hs : Stands s len pl) (hb : body s.cur (fresh s) = .retire s1) : Retires i s len s1 :=
  ⟨_, hi.trans (issue_eq hs hb (by intro f; simp)), after_finish s _ s1 len (State.prog_stalled s false _)⟩

/-! ### The state in which an instruction runs -/

@[simp] theorem fresh_prog (s : State) (q : Seqr) : (fresh s).prog q = s.prog q := State.prog_stalled s false q
@[simp] theorem fresh_getS (s : State) (q : Seqr) (r : Reg) : (fresh s).getS q r = s.getS q r := State.getS_stalled s false q r
@[simp] theorem fresh_core (s : State) (c : Nat) : (fresh s).core c = s.core c := rfl
@[simp] theorem fresh_ctx (s : State) (c x : Nat) : (fresh s).ctx c x = s.ctx c x := rfl
@[simp] theorem fresh_slot (s : State) (c k : Nat) : (fresh s).slot c k = s.slot c k := rfl
@[simp] theorem fresh_arc (s : State) (c : Nat) : (fresh s).arc c = s.arc c := rfl
@[simp] theorem fresh_ownerCtx (s : State) (q : Seqr) : (fresh s).ownerCtx q = s.ownerCtx q := State.ownerCtx_stalled s false q
@[simp] theorem fresh_thread (s : State) (q : Seqr) : (fresh s).thread q = s.thread q := State.thread_stalled s false q
theorem fresh_ready {s : State} {srcs dests : List Src} (h : RegsReady s (srcs ++ dests)) (r : Res) :
    (fresh s).ready s.cur srcs dests r = r := State.ready_of_ready h r
theorem fresh_guarded {s : State} {lw : LW} (h : GuardOn s lw) (r : Res) : guarded lw s.cur (fresh s) r = r := guarded_of_on h r

/-- A meaning that traps does so as `Traps` says. -/
theorem traps_of_issue {i : Instr} {s : State} {len : Nat} {pl : Place} {c : Cause} {v : DWord} (body : Seqr → State → Res)
    (hi : exec i s = issue s len pl body) (hs : Stands s len pl) (hb : body s.cur (fresh s) = .trap c v) : Traps i s c v := by
  unfold Traps; rw [hi, issue_eq hs hb (by intro f; simp)]; simp [finish]

/-- An instruction that stands badly traps ILLSLOT. -/
theorem illslot_of_issue {i : Instr} {s : State} {len : Nat} {pl : Place} (body : Seqr → State → Res)
    (hi : exec i s = issue s len pl body) (hs : (s.prog s.cur).badSlot len pl = true) : Traps i s .illslot (s.prog s.cur).pc := by
  unfold Traps; rw [hi]; unfold issue; simp only [State.prog_stalled]; rw [if_pos hs]

/-- A meaning that stalls does so as `Stalls` says. -/
theorem stalls_of_issue {i : Instr} {s : State} {len : Nat} {pl : Place} (body : Seqr → State → Res)
    (hi : exec i s = issue s len pl body) (hs : Stands s len pl) (hb : body s.cur (fresh s) = .stall) : Stalls i s := by
  unfold Stalls; rw [hi, issue_eq hs hb (by intro f; simp)]; rfl

theorem onlyProg_of_after {s s1 t : State} {len : Nat} (h : After s s1 t len) (hdev : DeviceSame s s1) (hcores : CoresSame s s1)
    (hctx : CtxsSame s s1) (heng : EnginesSame s s1) (hoth : ∀ q, q ≠ s.cur → s1.prog q = s.prog q)
    (hins : ∀ c x, (s1.ctx c x).instret = (s.ctx c x).instret) : OnlyProg s t := by
  have hD : DeviceSame s t := deviceSame_trans hdev (by
    have := h.device
    unfold DeviceSame
    rw [← congrArg State.stalled this] at *
    exact this)
  have hC : CoresSame s t := coresSame_trans hcores h.cores
  refine ⟨hD, hC, ?_, ⟨?_, ?_⟩, ?_, ?_, bytesSame_of hD hC⟩
  · intro c x; rw [← hctx c x, ← h.ctxs c x]
  · intro c k; rw [← heng.1 c k, ← h.slots c k]
  · intro c; rw [← heng.2 c, ← h.arcs c]
  · intro q hq; rw [h.others q hq, hoth q hq]
  · intro c x; rw [h.count c x, hins c x]

/-- The retirement of an instruction that changes nothing but its program. -/
theorem onlyProg_finish (s : State) (p : Prog) (len : Nat) :
    OnlyProg s (finish s.cur (fresh s) len (.retire ((fresh s).setProg s.cur p))) ∧
      (finish s.cur (fresh s) len (.retire ((fresh s).setProg s.cur p))).prog s.cur
        = p.advance s.cur.isFork (seqNext (s.prog s.cur).pc len) := by
  have ha := after_finish s (fresh s) ((fresh s).setProg s.cur p) len (fresh_prog s _)
  obtain ⟨h1, h2, h3, h4, h5, h6, h7⟩ := setProg_same (s := s) rfl (p := p)
  exact ⟨onlyProg_of_after ha h1 h2 h3 h4 h5 h6, by rw [ha.prog, h7]⟩

end Sys2Proof.Machine
end

