-- ==== Sys2Proof/Laws/Memory.lean ====
section
/-! SUPPORT. Byte memories: a read after a write gives the byte written, a write leaves every other byte alone, and every
operation keeps the canonical form. -/

namespace Sys2Proof.Memory

theorem wfFrom_mono {m : Memory} {a b : Nat} (hab : a ≤ b) (h : Memory.wfFrom b m = true) : Memory.wfFrom a m = true := by
  cases m with
  | nil => rfl
  | cons p r =>
    obtain ⟨k, v⟩ := p
    simp only [Memory.wfFrom, Bool.and_eq_true, decide_eq_true_eq] at h ⊢
    exact ⟨⟨by omega, h.1.2⟩, h.2⟩

theorem wfFrom_write (m : Memory) (lo a : Nat) (b : Byte) (h : Memory.wfFrom lo m = true) (hlo : lo ≤ a) :
    Memory.wfFrom lo (m.write a b) = true := by
  induction m generalizing lo with
  | nil =>
    simp only [Memory.write]
    split
    · rfl
    · next hb => simp [Memory.wfFrom, hb, hlo]
  | cons p r ih =>
    obtain ⟨k, v⟩ := p
    have h0 := h
    simp only [Memory.wfFrom, Bool.and_eq_true, decide_eq_true_eq] at h
    obtain ⟨⟨h1, h2⟩, h3⟩ := h
    simp only [Memory.write]
    split
    · next e =>
      subst e
      split
      · exact wfFrom_mono (by omega) h3
      · next hb => simp [Memory.wfFrom, hb, hlo, h3]
    · split
      · next e1 e2 =>
        split
        · exact h0
        · next hb =>
          simp only [Memory.wfFrom, Bool.and_eq_true, decide_eq_true_eq]
          exact ⟨⟨hlo, hb⟩, ⟨by omega, h2⟩, h3⟩
      · next e1 e2 =>
        simp only [Memory.wfFrom, Bool.and_eq_true, decide_eq_true_eq]
        exact ⟨⟨h1, h2⟩, ih (k + 1) h3 (by omega)⟩

/-- Writing a byte keeps the canonical form. -/
theorem wf_write (m : Memory) (a : Nat) (b : Byte) (h : m.wf = true) : (m.write a b).wf = true :=
  wfFrom_write m 0 a b h (Nat.zero_le _)

theorem wf_writeN (m : Memory) (a n x : Nat) (h : m.wf = true) : (m.writeN a n x).wf = true := by
  induction n generalizing m a x with
  | zero => exact h
  | succ n ih => exact ih _ _ _ (wf_write m a _ h)

theorem wf_writeBytes (m : Memory) (a : Nat) (bs : List Byte) (h : m.wf = true) : (m.writeBytes a bs).wf = true := by
  induction bs generalizing m a with
  | nil => exact h
  | cons b r ih => exact ih _ _ (wf_write m a b h)

theorem read_of_wfFrom (m : Memory) (lo a : Nat) (h : Memory.wfFrom lo m = true) (ha : a < lo) :
    Memory.read m a = Memory.unlisted := by
  cases m with
  | nil => rfl
  | cons p r =>
    obtain ⟨k, v⟩ := p
    simp only [Memory.wfFrom, Bool.and_eq_true, decide_eq_true_eq] at h
    simp only [Memory.read]
    rw [if_neg (by omega), if_pos (by omega)]

theorem read_write_wf (m : Memory) (lo a k : Nat) (b : Byte) (h : Memory.wfFrom lo m = true) :
    Memory.read (m.write a b) k = if k = a then b else Memory.read m k := by
  induction m generalizing lo with
  | nil =>
    by_cases hb : b = Memory.unlisted
    · simp [Memory.write, Memory.read, hb]
    · by_cases hk : k = a <;> simp [Memory.write, Memory.read, hb, hk]
  | cons p r ih =>
    obtain ⟨j, v⟩ := p
    simp only [Memory.wfFrom, Bool.and_eq_true, decide_eq_true_eq] at h
    obtain ⟨⟨h1, h2⟩, h3⟩ := h
    simp only [Memory.write]
    split
    · next e =>
      subst e
      split
      · next hb =>
        by_cases hk : k = a
        · subst hk; rw [if_pos rfl, read_of_wfFrom r (k + 1) k h3 (by omega), hb]
        · rw [if_neg hk]
          simp only [Memory.read, if_neg hk]
          by_cases hl : k < a
          · rw [if_pos hl, read_of_wfFrom r (a + 1) k h3 (by omega)]
          · rw [if_neg hl]
      · by_cases hk : k = a
        · simp [Memory.read, hk]
        · simp [Memory.read, hk]
    · next e =>
      split
      · next hlt =>
        split
        · next hb =>
          by_cases hk : k = a
          · subst hk; rw [if_pos rfl]; simp only [Memory.read, if_neg e, if_pos hlt, hb]
          · rw [if_neg hk]
        · by_cases hk : k = a
          · simp [Memory.read, hk]
          · rw [if_neg hk]
            simp only [Memory.read, if_neg hk]
            by_cases hl : k < a
            · rw [if_pos hl]
              rw [if_neg (by omega), if_pos (by omega)]
            · rw [if_neg hl]
      · next hlt =>
        simp only [Memory.read, ih (j + 1) h3]
        by_cases hk : k = a
        · subst hk; rw [if_neg e, if_neg hlt]; simp
        · simp [hk]

/-- A read after a write, in a memory in its canonical form. -/
theorem read_write (m : Memory) (a k : Nat) (b : Byte) (h : m.wf = true) :
    Memory.read (m.write a b) k = if k = a then b else Memory.read m k :=
  read_write_wf m 0 a k b h

/-- Reading after writing an `n`-byte number: its bytes inside, the old bytes outside. -/
theorem read_writeN (m : Memory) (a n x k : Nat) (h : m.wf = true) :
    Memory.read (m.writeN a n x) k
      = if a ≤ k ∧ k < a + n then BitVec.ofNat 8 (x / 256 ^ (k - a)) else Memory.read m k := by
  induction n generalizing m a x with
  | zero => rw [if_neg (by omega)]; rfl
  | succ n ih =>
    simp only [Memory.writeN]
    rw [ih _ _ _ (wf_write m a _ h), read_write m a k _ h]
    by_cases h1 : k = a
    · subst h1
      rw [if_neg (by omega), if_pos rfl, if_pos (by omega)]
      simp
    · by_cases h2 : a + 1 ≤ k ∧ k < a + 1 + n
      · rw [if_pos h2, if_pos (by omega), Nat.div_div_eq_div_mul, ← Nat.pow_succ']
        have : (k - (a + 1)).succ = k - a := by omega
        rw [this]
      · rw [if_neg h2, if_neg h1, if_neg (by omega)]

/-- Reading after writing bytes in order: the bytes inside, the old bytes outside. -/
theorem read_writeBytes (m : Memory) (a : Nat) (bs : List Byte) (k : Nat) (h : m.wf = true) :
    Memory.read (m.writeBytes a bs) k
      = if a ≤ k ∧ k < a + bs.length then bs.getD (k - a) 0 else Memory.read m k := by
  induction bs generalizing m a with
  | nil => rw [if_neg (by simp only [List.length_nil]; omega)]; rfl
  | cons b r ih =>
    simp only [Memory.writeBytes]
    rw [ih _ _ (wf_write m a _ h), read_write m a k _ h]
    by_cases h1 : k = a
    · subst h1
      rw [if_neg (by omega), if_pos rfl, if_pos (by simp only [List.length_cons]; omega)]
      simp
    · by_cases h2 : a + 1 ≤ k ∧ k < a + 1 + r.length
      · rw [if_pos h2, if_pos (by simp only [List.length_cons]; omega)]
        have : k - a = (k - (a + 1)) + 1 := by omega
        rw [this, List.getD_cons_succ]
      · rw [if_neg h2, if_neg h1, if_neg (by simp only [List.length_cons]; omega)]

/-- The number that `writeN` stores is the number that `readN` gives back. -/
theorem readN_congr (m m' : Memory) (a n : Nat) (h : ∀ k, a ≤ k → k < a + n → Memory.read m k = Memory.read m' k) :
    Memory.readN m a n = Memory.readN m' a n := by
  induction n generalizing a with
  | zero => rfl
  | succ n ih =>
    simp only [Memory.readN]
    rw [h a (by omega) (by omega), ih (a + 1) (fun k h1 h2 => h k (by omega) (by omega))]

theorem readN_writeN (m : Memory) (a n x : Nat) (h : m.wf = true) :
    Memory.readN (m.writeN a n x) a n = x % 256 ^ n := by
  induction n generalizing m a x with
  | zero => simp [Memory.readN, Nat.mod_one]
  | succ n ih =>
    simp only [Memory.readN]
    rw [read_writeN m a (n + 1) x a h, if_pos (by omega)]
    simp only [Memory.writeN, Nat.sub_self, Nat.pow_zero, Nat.div_one]
    rw [ih _ _ _ (wf_write m a _ h), Nat.pow_succ', Nat.mod_mul]
    simp

/-! ### Windows -/

theorem wfFrom_window (m : Memory) (a n lo : Nat) (h : Memory.wfFrom lo m = true) :
    Memory.wfFrom (lo - a) (m.window a n) = true := by
  induction m generalizing lo with
  | nil => rfl
  | cons p r ih =>
    obtain ⟨k, v⟩ := p
    simp only [Memory.wfFrom, Bool.and_eq_true, decide_eq_true_eq] at h
    obtain ⟨⟨h1, h2⟩, h3⟩ := h
    have hr := ih (k + 1) h3
    unfold Memory.window at hr ⊢
    rw [List.filter_cons]
    split
    · next hk =>
      simp only [Bool.and_eq_true, decide_eq_true_eq] at hk
      simp only [List.map_cons, Memory.wfFrom, Bool.and_eq_true, decide_eq_true_eq]
      exact ⟨⟨by omega, h2⟩, wfFrom_mono (by omega) hr⟩
    · exact wfFrom_mono (by omega) hr

/-- A window is in canonical form. -/
theorem wf_window (m : Memory) (a n : Nat) (h : m.wf = true) : (m.window a n).wf = true := by
  have := wfFrom_window m a n 0 h
  rwa [Nat.zero_sub] at this

theorem wfFrom_filter (m : Memory) (f : Host.Cell → Bool) (lo : Nat) (h : Memory.wfFrom lo m = true) :
    Memory.wfFrom lo (m.filter f) = true := by
  induction m generalizing lo with
  | nil => rfl
  | cons p r ih =>
    obtain ⟨k, v⟩ := p
    simp only [Memory.wfFrom, Bool.and_eq_true, decide_eq_true_eq] at h
    obtain ⟨⟨h1, h2⟩, h3⟩ := h
    rw [List.filter_cons]
    split
    · simp only [Memory.wfFrom, Bool.and_eq_true, decide_eq_true_eq]; exact ⟨⟨h1, h2⟩, ih _ h3⟩
    · exact wfFrom_mono (by omega) (ih _ h3)

/-- Replacing a window keeps the canonical form. -/
theorem wf_setWindow (m : Memory) (a n : Nat) (w : Memory) (h : m.wf = true) : (m.setWindow a n w).wf = true := by
  unfold Memory.setWindow
  have h0 : Memory.wf (m.filter (fun c => decide (c.1 < a) || decide (a + n ≤ c.1))) = true := wfFrom_filter m _ 0 h
  generalize m.filter (fun c => decide (c.1 < a) || decide (a + n ≤ c.1)) = m0 at h0
  induction w generalizing m0 with
  | nil => exact h0
  | cons c r ih =>
    simp only [List.foldl_cons]
    apply ih
    split
    · exact wf_write _ _ _ h0
    · exact h0

end Sys2Proof.Memory
end

