-- ==== Sys2Proof/Laws/PerInstr.lean ====
section
/-! SUPPORT. Per-instruction laws: the words that the encoder gives an instruction are as many as its major opcode fixes in every
memory that holds it (R22, R23, R36–R39). -/

namespace Sys2Proof.Laws

theorem fMop_packA (mop : BitVec 8) (d a b fn : Reg) : (packA mop d a b fn).fMop = mop := by
  simp only [packA, Word.fMop]; apply BitVec.eq_of_getLsbD_eq; intro i hi
  simp only [BitVec.getLsbD_extractLsb', BitVec.getLsbD_append, hi, decide_true, Bool.true_and]
  rw [if_neg (by omega), if_neg (by omega), if_neg (by omega), if_neg (by omega)]; congr 1; omega
theorem fMop_packB (mop : BitVec 8) (d a : Reg) (imm : BitVec 12) : (packB mop d a imm).fMop = mop := by
  simp only [packB, Word.fMop]; apply BitVec.eq_of_getLsbD_eq; intro i hi
  simp only [BitVec.getLsbD_extractLsb', BitVec.getLsbD_append, hi, decide_true, Bool.true_and]
  rw [if_neg (by omega), if_neg (by omega), if_neg (by omega)]; congr 1; omega
theorem fMop_packC (mop : BitVec 8) (d : Reg) (imm : BitVec 18) : (packC mop d imm).fMop = mop := by
  simp only [packC, Word.fMop]; apply BitVec.eq_of_getLsbD_eq; intro i hi
  simp only [BitVec.getLsbD_extractLsb', BitVec.getLsbD_append, hi, decide_true, Bool.true_and]
  rw [if_neg (by omega), if_neg (by omega)]; congr 1; omega
theorem fMop_packD (mop : BitVec 8) (imm : BitVec 24) : (packD mop imm).fMop = mop := by
  simp only [packD, Word.fMop]; apply BitVec.eq_of_getLsbD_eq; intro i hi
  simp only [BitVec.getLsbD_extractLsb', BitVec.getLsbD_append, hi, decide_true, Bool.true_and]
  rw [if_neg (by omega)]; congr 1; omega

end Sys2Proof.Laws

namespace Sys2Proof.Laws.Sized

/-- The words of the instruction are as many as its major opcode fixes, in every memory that holds it. -/
def Statement (i : Instr) : Prop :=
  ∀ m, inMem m i = true → mopLength m ((encode i).headD 0).fMop.toNat = some (encode i).length

theorem of_first {i : Instr} {m : IMem} {mop : BitVec 8} {w : Word} {rest : List Word} (he : encode i = w :: rest) (hm : w.fMop = mop)
    (hn : mopLength m mop.toNat = some (rest.length + 1)) :
    mopLength m ((encode i).headD 0).fMop.toNat = some (encode i).length := by
  rw [he, List.headD_cons, hm, hn, List.length_cons]

theorem nop : Statement (.nop) := fun m _ => of_first rfl (fMop_packD ..) (by cases m <;> rfl)
theorem add {d a b} : Statement (.add d a b) := fun m _ => of_first rfl (fMop_packA ..) (by cases m <;> rfl)
theorem sub {d a b} : Statement (.sub d a b) := fun m _ => of_first rfl (fMop_packA ..) (by cases m <;> rfl)
theorem mul {d a b} : Statement (.mul d a b) := fun m _ => of_first rfl (fMop_packA ..) (by cases m <;> rfl)
theorem mulh {d a b} : Statement (.mulh d a b) := fun m _ => of_first rfl (fMop_packA ..) (by cases m <;> rfl)
theorem mulhn {d a b} : Statement (.mulhn d a b) := fun m _ => of_first rfl (fMop_packA ..) (by cases m <;> rfl)
theorem div {d a b} : Statement (.div d a b) := fun m _ => of_first rfl (fMop_packA ..) (by cases m <;> rfl)
theorem divn {d a b} : Statement (.divn d a b) := fun m _ => of_first rfl (fMop_packA ..) (by cases m <;> rfl)
theorem rem {d a b} : Statement (.rem d a b) := fun m _ => of_first rfl (fMop_packA ..) (by cases m <;> rfl)
theorem remn {d a b} : Statement (.remn d a b) := fun m _ => of_first rfl (fMop_packA ..) (by cases m <;> rfl)
theorem and {d a b} : Statement (.and d a b) := fun m _ => of_first rfl (fMop_packA ..) (by cases m <;> rfl)
theorem or {d a b} : Statement (.or d a b) := fun m _ => of_first rfl (fMop_packA ..) (by cases m <;> rfl)
theorem xor {d a b} : Statement (.xor d a b) := fun m _ => of_first rfl (fMop_packA ..) (by cases m <;> rfl)
theorem shl {d a b} : Statement (.shl d a b) := fun m _ => of_first rfl (fMop_packA ..) (by cases m <;> rfl)
theorem shr {d a b} : Statement (.shr d a b) := fun m _ => of_first rfl (fMop_packA ..) (by cases m <;> rfl)
theorem sar {d a b} : Statement (.sar d a b) := fun m _ => of_first rfl (fMop_packA ..) (by cases m <;> rfl)
theorem min {d a b} : Statement (.min d a b) := fun m _ => of_first rfl (fMop_packA ..) (by cases m <;> rfl)
theorem max {d a b} : Statement (.max d a b) := fun m _ => of_first rfl (fMop_packA ..) (by cases m <;> rfl)
theorem minn {d a b} : Statement (.minn d a b) := fun m _ => of_first rfl (fMop_packA ..) (by cases m <;> rfl)
theorem maxn {d a b} : Statement (.maxn d a b) := fun m _ => of_first rfl (fMop_packA ..) (by cases m <;> rfl)
theorem addi {d a imm} : Statement (.addi d a imm) := fun m _ => of_first rfl (fMop_packB ..) (by cases m <;> rfl)
theorem andi {d a imm} : Statement (.andi d a imm) := fun m _ => of_first rfl (fMop_packB ..) (by cases m <;> rfl)
theorem ori {d a imm} : Statement (.ori d a imm) := fun m _ => of_first rfl (fMop_packB ..) (by cases m <;> rfl)
theorem xori {d a imm} : Statement (.xori d a imm) := fun m _ => of_first rfl (fMop_packB ..) (by cases m <;> rfl)
theorem shli {d a imm} : Statement (.shli d a imm) := fun m _ => of_first rfl (fMop_packB ..) (by cases m <;> rfl)
theorem shri {d a imm} : Statement (.shri d a imm) := fun m _ => of_first rfl (fMop_packB ..) (by cases m <;> rfl)
theorem sari {d a imm} : Statement (.sari d a imm) := fun m _ => of_first rfl (fMop_packB ..) (by cases m <;> rfl)
theorem cmpEq {d a b fn} : Statement (.cmpEq d a b fn) := fun m _ => of_first rfl (fMop_packA ..) (by cases m <;> rfl)
theorem cmpNe {d a b fn} : Statement (.cmpNe d a b fn) := fun m _ => of_first rfl (fMop_packA ..) (by cases m <;> rfl)
theorem cmpLt {d a b fn} : Statement (.cmpLt d a b fn) := fun m _ => of_first rfl (fMop_packA ..) (by cases m <;> rfl)
theorem cmpLtn {d a b fn} : Statement (.cmpLtn d a b fn) := fun m _ => of_first rfl (fMop_packA ..) (by cases m <;> rfl)
theorem cmpGe {d a b fn} : Statement (.cmpGe d a b fn) := fun m _ => of_first rfl (fMop_packA ..) (by cases m <;> rfl)
theorem cmpGen {d a b fn} : Statement (.cmpGen d a b fn) := fun m _ => of_first rfl (fMop_packA ..) (by cases m <;> rfl)
theorem cmpi {d a imm lw} : Statement (.cmpi d a imm lw) := fun m _ => of_first rfl (fMop_packB ..) (by cases m <;> rfl)
theorem clz {d a} : Statement (.clz d a) := fun m _ => of_first rfl (fMop_packA ..) (by cases m <;> rfl)
theorem ctz {d a} : Statement (.ctz d a) := fun m _ => of_first rfl (fMop_packA ..) (by cases m <;> rfl)
theorem popc {d a} : Statement (.popc d a) := fun m _ => of_first rfl (fMop_packA ..) (by cases m <;> rfl)
theorem bset {d a imm} : Statement (.bset d a imm) := fun m _ => of_first rfl (fMop_packB ..) (by cases m <;> rfl)
theorem bclr {d a imm} : Statement (.bclr d a imm) := fun m _ => of_first rfl (fMop_packB ..) (by cases m <;> rfl)
theorem bext {d a imm} : Statement (.bext d a imm) := fun m _ => of_first rfl (fMop_packB ..) (by cases m <;> rfl)
theorem bins {d a imm} : Statement (.bins d a imm) := fun m _ => of_first rfl (fMop_packB ..) (by cases m <;> rfl)
theorem lea {d a b fn lw} : Statement (.lea d a b fn lw) := fun m _ => of_first rfl (fMop_packA ..) (by cases m <;> rfl)
theorem li {d imm32} : Statement (.li d imm32) := fun m _ => of_first rfl (fMop_packB ..) (by cases m <;> rfl)
theorem lui {d imm32} : Statement (.lui d imm32) := fun m _ => of_first rfl (fMop_packB ..) (by cases m <;> rfl)
theorem mov {d a} : Statement (.mov d a) := fun m _ => of_first rfl (fMop_packA ..) (by cases m <;> rfl)
theorem sel {d a b lw} : Statement (.sel d a b lw) := fun m _ => of_first rfl (fMop_packA ..) (by cases m <;> rfl)
theorem pbr {d imm18} : Statement (.pbr d imm18) := fun m _ => of_first rfl (fMop_packC ..) (by cases m <;> rfl)
theorem pbrr {d a} : Statement (.pbrr d a) := fun m _ => of_first rfl (fMop_packA ..) (by cases m <;> rfl)
theorem brx {d a fn} : Statement (.brx d a fn) := fun m _ => of_first rfl (fMop_packA ..) (by cases m <;> rfl)
theorem brxn {d a fn} : Statement (.brxn d a fn) := fun m _ => of_first rfl (fMop_packA ..) (by cases m <;> rfl)
theorem br {d} : Statement (.br d) := fun m _ => of_first rfl (fMop_packA ..) (by cases m <;> rfl)
theorem call {d} : Statement (.call d) := fun m _ => of_first rfl (fMop_packA ..) (by cases m <;> rfl)
theorem ret : Statement (.ret) := fun m _ => of_first rfl (fMop_packA ..) (by cases m <;> rfl)
theorem loop {d a imm} : Statement (.loop d a imm) := fun m _ => of_first rfl (fMop_packB ..) (by cases m <;> rfl)
theorem loopi {d imm imm32} : Statement (.loopi d imm imm32) := fun m _ => of_first rfl (fMop_packB ..) (by cases m <;> rfl)
theorem tokSend {a fn} : Statement (.tokSend a fn) := fun m _ => of_first rfl (fMop_packA ..) (by cases m <;> rfl)
theorem tokRecv {d fn} : Statement (.tokRecv d fn) := fun m _ => of_first rfl (fMop_packA ..) (by cases m <;> rfl)
theorem tokPoll {d fn} : Statement (.tokPoll d fn) := fun m _ => of_first rfl (fMop_packA ..) (by cases m <;> rfl)
theorem mfc {d imm} : Statement (.mfc d imm) := fun m _ => of_first rfl (fMop_packB ..) (by cases m <;> rfl)
theorem mtc {a imm} : Statement (.mtc a imm) := fun m _ => of_first rfl (fMop_packB ..) (by cases m <;> rfl)
theorem trap {imm24} : Statement (.trap imm24) := fun m _ => of_first rfl (fMop_packD ..) (by cases m <;> rfl)
theorem ldB {d a imm} : Statement (.ldB d a imm) := fun m h => of_first rfl (fMop_packB ..) (by cases m <;> first | rfl | cases h)
theorem ldBn {d a imm} : Statement (.ldBn d a imm) := fun m h => of_first rfl (fMop_packB ..) (by cases m <;> first | rfl | cases h)
theorem ldH {d a imm} : Statement (.ldH d a imm) := fun m h => of_first rfl (fMop_packB ..) (by cases m <;> first | rfl | cases h)
theorem ldHn {d a imm} : Statement (.ldHn d a imm) := fun m h => of_first rfl (fMop_packB ..) (by cases m <;> first | rfl | cases h)
theorem ldW {d a imm} : Statement (.ldW d a imm) := fun m h => of_first rfl (fMop_packB ..) (by cases m <;> first | rfl | cases h)
theorem ldWn {d a imm} : Statement (.ldWn d a imm) := fun m h => of_first rfl (fMop_packB ..) (by cases m <;> first | rfl | cases h)
theorem ldD {d a imm} : Statement (.ldD d a imm) := fun m h => of_first rfl (fMop_packB ..) (by cases m <;> first | rfl | cases h)
theorem stB {d a imm} : Statement (.stB d a imm) := fun m h => of_first rfl (fMop_packB ..) (by cases m <;> first | rfl | cases h)
theorem stH {d a imm} : Statement (.stH d a imm) := fun m h => of_first rfl (fMop_packB ..) (by cases m <;> first | rfl | cases h)
theorem stW {d a imm} : Statement (.stW d a imm) := fun m h => of_first rfl (fMop_packB ..) (by cases m <;> first | rfl | cases h)
theorem stD {d a imm} : Statement (.stD d a imm) := fun m h => of_first rfl (fMop_packB ..) (by cases m <;> first | rfl | cases h)
theorem ldQ {d a imm} : Statement (.ldQ d a imm) := fun m h => of_first rfl (fMop_packB ..) (by cases m <;> first | rfl | cases h)
theorem stQ {d a imm} : Statement (.stQ d a imm) := fun m h => of_first rfl (fMop_packB ..) (by cases m <;> first | rfl | cases h)
theorem lamo {d a b lw} : Statement (.lamo d a b lw) := fun m h => of_first rfl (fMop_packA ..) (by cases m <;> first | rfl | cases h)
theorem hld {d a imm} : Statement (.hld d a imm) := fun m h => of_first rfl (fMop_packB ..) (by cases m <;> first | rfl | cases h)
theorem hst {d a imm} : Statement (.hst d a imm) := fun m h => of_first rfl (fMop_packB ..) (by cases m <;> first | rfl | cases h)
theorem hget {d a fn} : Statement (.hget d a fn) := fun m h => of_first rfl (fMop_packA ..) (by cases m <;> first | rfl | cases h)
theorem hset {d a fn} : Statement (.hset d a fn) := fun m h => of_first rfl (fMop_packA ..) (by cases m <;> first | rfl | cases h)
theorem hpatch {a b fn lw} : Statement (.hpatch a b fn lw) := fun m h => of_first rfl (fMop_packA ..) (by cases m <;> first | rfl | cases h)
theorem tret : Statement (.tret) := fun m h => of_first rfl (fMop_packD ..) (by cases m <;> first | rfl | cases h)
theorem selectSize {d a b} : Statement (.selectSize d a b) := fun m h => of_first rfl (fMop_packA ..) (by cases m <;> first | rfl | cases h)
theorem forkV {d a b} : Statement (.forkV d a b) := fun m h => of_first rfl (fMop_packA ..) (by cases m <;> first | rfl | cases h)
theorem forkA {d a b} : Statement (.forkA d a b) := fun m h => of_first rfl (fMop_packA ..) (by cases m <;> first | rfl | cases h)
theorem rdv {d a} : Statement (.rdv d a) := fun m h => of_first rfl (fMop_packA ..) (by cases m <;> first | rfl | cases h)
theorem enq {d a b} : Statement (.enq d a b) := fun m h => of_first rfl (fMop_packA ..) (by cases m <;> first | rfl | cases h)
theorem deq {d a} : Statement (.deq d a) := fun m h => of_first rfl (fMop_packA ..) (by cases m <;> first | rfl | cases h)
theorem yieldStage : Statement (.yieldStage) := fun m h => of_first rfl (fMop_packD ..) (by cases m <;> first | rfl | cases h)
theorem grpJoin {d a} : Statement (.grpJoin d a) := fun m h => of_first rfl (fMop_packA ..) (by cases m <;> first | rfl | cases h)
theorem grpLeave {d a} : Statement (.grpLeave d a) := fun m h => of_first rfl (fMop_packA ..) (by cases m <;> first | rfl | cases h)
theorem grpBar {d a} : Statement (.grpBar d a) := fun m h => of_first rfl (fMop_packA ..) (by cases m <;> first | rfl | cases h)
theorem grpInfo {d a b} : Statement (.grpInfo d a b) := fun m h => of_first rfl (fMop_packA ..) (by cases m <;> first | rfl | cases h)
theorem sig {d a b} : Statement (.sig d a b) := fun m h => of_first rfl (fMop_packA ..) (by cases m <;> first | rfl | cases h)
theorem waitf {d a b} : Statement (.waitf d a b) := fun m h => of_first rfl (fMop_packA ..) (by cases m <;> first | rfl | cases h)
theorem vadd {d a b fn lw} : Statement (.vadd d a b fn lw) := fun m h => of_first rfl (fMop_packA ..) (by cases m <;> first | rfl | cases h)
theorem vsub {d a b fn lw} : Statement (.vsub d a b fn lw) := fun m h => of_first rfl (fMop_packA ..) (by cases m <;> first | rfl | cases h)
theorem vmul {d a b fn lw} : Statement (.vmul d a b fn lw) := fun m h => of_first rfl (fMop_packA ..) (by cases m <;> first | rfl | cases h)
theorem vfma {d a b fn lw} : Statement (.vfma d a b fn lw) := fun m h => of_first rfl (fMop_packA ..) (by cases m <;> first | rfl | cases h)
theorem vfms {d a b fn lw} : Statement (.vfms d a b fn lw) := fun m h => of_first rfl (fMop_packA ..) (by cases m <;> first | rfl | cases h)
theorem vfnma {d a b fn lw} : Statement (.vfnma d a b fn lw) := fun m h => of_first rfl (fMop_packA ..) (by cases m <;> first | rfl | cases h)
theorem vdiv {d a b fn lw} : Statement (.vdiv d a b fn lw) := fun m h => of_first rfl (fMop_packA ..) (by cases m <;> first | rfl | cases h)
theorem vsqrt {d a fn lw} : Statement (.vsqrt d a fn lw) := fun m h => of_first rfl (fMop_packA ..) (by cases m <;> first | rfl | cases h)
theorem vmin {d a b fn lw} : Statement (.vmin d a b fn lw) := fun m h => of_first rfl (fMop_packA ..) (by cases m <;> first | rfl | cases h)
theorem vmax {d a b fn lw} : Statement (.vmax d a b fn lw) := fun m h => of_first rfl (fMop_packA ..) (by cases m <;> first | rfl | cases h)
theorem vabs {d a fn lw} : Statement (.vabs d a fn lw) := fun m h => of_first rfl (fMop_packA ..) (by cases m <;> first | rfl | cases h)
theorem vneg {d a fn lw} : Statement (.vneg d a fn lw) := fun m h => of_first rfl (fMop_packA ..) (by cases m <;> first | rfl | cases h)
theorem vexp {d a fn lw} : Statement (.vexp d a fn lw) := fun m h => of_first rfl (fMop_packA ..) (by cases m <;> first | rfl | cases h)
theorem vlog {d a fn lw} : Statement (.vlog d a fn lw) := fun m h => of_first rfl (fMop_packA ..) (by cases m <;> first | rfl | cases h)
theorem verf {d a fn lw} : Statement (.verf d a fn lw) := fun m h => of_first rfl (fMop_packA ..) (by cases m <;> first | rfl | cases h)
theorem vclass {d a fn lw} : Statement (.vclass d a fn lw) := fun m h => of_first rfl (fMop_packA ..) (by cases m <;> first | rfl | cases h)
theorem vcmp {d a b fn lw} : Statement (.vcmp d a b fn lw) := fun m h => of_first rfl (fMop_packA ..) (by cases m <;> first | rfl | cases h)
theorem viadd {d a b fn lw} : Statement (.viadd d a b fn lw) := fun m h => of_first rfl (fMop_packA ..) (by cases m <;> first | rfl | cases h)
theorem visub {d a b fn lw} : Statement (.visub d a b fn lw) := fun m h => of_first rfl (fMop_packA ..) (by cases m <;> first | rfl | cases h)
theorem vimul {d a b fn lw} : Statement (.vimul d a b fn lw) := fun m h => of_first rfl (fMop_packA ..) (by cases m <;> first | rfl | cases h)
theorem vimulh {d a b fn lw} : Statement (.vimulh d a b fn lw) := fun m h => of_first rfl (fMop_packA ..) (by cases m <;> first | rfl | cases h)
theorem vand {d a b fn lw} : Statement (.vand d a b fn lw) := fun m h => of_first rfl (fMop_packA ..) (by cases m <;> first | rfl | cases h)
theorem vor {d a b fn lw} : Statement (.vor d a b fn lw) := fun m h => of_first rfl (fMop_packA ..) (by cases m <;> first | rfl | cases h)
theorem vxor {d a b fn lw} : Statement (.vxor d a b fn lw) := fun m h => of_first rfl (fMop_packA ..) (by cases m <;> first | rfl | cases h)
theorem vshl {d a b fn lw} : Statement (.vshl d a b fn lw) := fun m h => of_first rfl (fMop_packA ..) (by cases m <;> first | rfl | cases h)
theorem vshr {d a b fn lw} : Statement (.vshr d a b fn lw) := fun m h => of_first rfl (fMop_packA ..) (by cases m <;> first | rfl | cases h)
theorem vsar {d a b fn lw} : Statement (.vsar d a b fn lw) := fun m h => of_first rfl (fMop_packA ..) (by cases m <;> first | rfl | cases h)
theorem vimin {d a b fn lw} : Statement (.vimin d a b fn lw) := fun m h => of_first rfl (fMop_packA ..) (by cases m <;> first | rfl | cases h)
theorem vimax {d a b fn lw} : Statement (.vimax d a b fn lw) := fun m h => of_first rfl (fMop_packA ..) (by cases m <;> first | rfl | cases h)
theorem viabs {d a fn lw} : Statement (.viabs d a fn lw) := fun m h => of_first rfl (fMop_packA ..) (by cases m <;> first | rfl | cases h)
theorem vsadd {d a b fn lw} : Statement (.vsadd d a b fn lw) := fun m h => of_first rfl (fMop_packA ..) (by cases m <;> first | rfl | cases h)
theorem vpopc {d a fn lw} : Statement (.vpopc d a fn lw) := fun m h => of_first rfl (fMop_packA ..) (by cases m <;> first | rfl | cases h)
theorem vsel {d a b fn lw} : Statement (.vsel d a b fn lw) := fun m h => of_first rfl (fMop_packA ..) (by cases m <;> first | rfl | cases h)
theorem vany {d a fn lw} : Statement (.vany d a fn lw) := fun m h => of_first rfl (fMop_packA ..) (by cases m <;> first | rfl | cases h)
theorem vall {d a fn lw} : Statement (.vall d a fn lw) := fun m h => of_first rfl (fMop_packA ..) (by cases m <;> first | rfl | cases h)
theorem vld {d a fn lw} : Statement (.vld d a fn lw) := fun m h => of_first rfl (fMop_packA ..) (by cases m <;> first | rfl | cases h)
theorem vst {d a fn lw} : Statement (.vst d a fn lw) := fun m h => of_first rfl (fMop_packA ..) (by cases m <;> first | rfl | cases h)
theorem vldS {d a b fn lw} : Statement (.vldS d a b fn lw) := fun m h => of_first rfl (fMop_packA ..) (by cases m <;> first | rfl | cases h)
theorem vstS {d a b fn lw} : Statement (.vstS d a b fn lw) := fun m h => of_first rfl (fMop_packA ..) (by cases m <;> first | rfl | cases h)
theorem vldX {d a b fn lw} : Statement (.vldX d a b fn lw) := fun m h => of_first rfl (fMop_packA ..) (by cases m <;> first | rfl | cases h)
theorem vstX {d a b fn lw} : Statement (.vstX d a b fn lw) := fun m h => of_first rfl (fMop_packA ..) (by cases m <;> first | rfl | cases h)
theorem vldq {d a fn lw} : Statement (.vldq d a fn lw) := fun m h => of_first rfl (fMop_packA ..) (by cases m <;> first | rfl | cases h)
theorem vmov {d a fn lw} : Statement (.vmov d a fn lw) := fun m h => of_first rfl (fMop_packA ..) (by cases m <;> first | rfl | cases h)
theorem vbcast {d a fn lw} : Statement (.vbcast d a fn lw) := fun m h => of_first rfl (fMop_packA ..) (by cases m <;> first | rfl | cases h)
theorem vslide {d a b fn lw} : Statement (.vslide d a b fn lw) := fun m h => of_first rfl (fMop_packA ..) (by cases m <;> first | rfl | cases h)
theorem vperm {d a b fn lw} : Statement (.vperm d a b fn lw) := fun m h => of_first rfl (fMop_packA ..) (by cases m <;> first | rfl | cases h)
theorem vshuf {d a b fn lw} : Statement (.vshuf d a b fn lw) := fun m h => of_first rfl (fMop_packA ..) (by cases m <;> first | rfl | cases h)
theorem vtrn {d a fn lw} : Statement (.vtrn d a fn lw) := fun m h => of_first rfl (fMop_packA ..) (by cases m <;> first | rfl | cases h)
theorem vext {d a b fn lw} : Statement (.vext d a b fn lw) := fun m h => of_first rfl (fMop_packA ..) (by cases m <;> first | rfl | cases h)
theorem vins {d a b fn lw} : Statement (.vins d a b fn lw) := fun m h => of_first rfl (fMop_packA ..) (by cases m <;> first | rfl | cases h)
theorem vcvt {d a b fn lw} : Statement (.vcvt d a b fn lw) := fun m h => of_first rfl (fMop_packA ..) (by cases m <;> first | rfl | cases h)
theorem vqmx {d a b fn lw} : Statement (.vqmx d a b fn lw) := fun m h => of_first rfl (fMop_packA ..) (by cases m <;> first | rfl | cases h)
theorem vdqmx {d a b fn lw} : Statement (.vdqmx d a b fn lw) := fun m h => of_first rfl (fMop_packA ..) (by cases m <;> first | rfl | cases h)
theorem vrsum {d a fn lw} : Statement (.vrsum d a fn lw) := fun m h => of_first rfl (fMop_packA ..) (by cases m <;> first | rfl | cases h)
theorem vrmax {d a fn lw} : Statement (.vrmax d a fn lw) := fun m h => of_first rfl (fMop_packA ..) (by cases m <;> first | rfl | cases h)
theorem vrmin {d a fn lw} : Statement (.vrmin d a fn lw) := fun m h => of_first rfl (fMop_packA ..) (by cases m <;> first | rfl | cases h)
theorem vrarg {d a fn lw} : Statement (.vrarg d a fn lw) := fun m h => of_first rfl (fMop_packA ..) (by cases m <;> first | rfl | cases h)
theorem vtopk {d a b fn lw} : Statement (.vtopk d a b fn lw) := fun m h => of_first rfl (fMop_packA ..) (by cases m <;> first | rfl | cases h)
theorem vrng {d a b lw} : Statement (.vrng d a b lw) := fun m h => of_first rfl (fMop_packA ..) (by cases m <;> first | rfl | cases h)
theorem vhash {d a b fn lw} : Statement (.vhash d a b fn lw) := fun m h => of_first rfl (fMop_packA ..) (by cases m <;> first | rfl | cases h)
theorem ardRow {d a b fn lw} : Statement (.ardRow d a b fn lw) := fun m h => of_first rfl (fMop_packA ..) (by cases m <;> first | rfl | cases h)
theorem ardCol {d a b fn lw} : Statement (.ardCol d a b fn lw) := fun m h => of_first rfl (fMop_packA ..) (by cases m <;> first | rfl | cases h)
theorem awrRow {d a b fn lw} : Statement (.awrRow d a b fn lw) := fun m h => of_first rfl (fMop_packA ..) (by cases m <;> first | rfl | cases h)
theorem awrCol {d a b fn lw} : Statement (.awrCol d a b fn lw) := fun m h => of_first rfl (fMop_packA ..) (by cases m <;> first | rfl | cases h)
theorem tlook {d a b} : Statement (.tlook d a b) := fun m h => of_first rfl (fMop_packA ..) (by cases m <;> first | rfl | cases h)
theorem tfill {d a b} : Statement (.tfill d a b) := fun m h => of_first rfl (fMop_packA ..) (by cases m <;> first | rfl | cases h)
theorem tevict {d a b} : Statement (.tevict d a b) := fun m h => of_first rfl (fMop_packA ..) (by cases m <;> first | rfl | cases h)
theorem tpin {d a b} : Statement (.tpin d a b) := fun m h => of_first rfl (fMop_packA ..) (by cases m <;> first | rfl | cases h)
theorem tunpin {d a b} : Statement (.tunpin d a b) := fun m h => of_first rfl (fMop_packA ..) (by cases m <;> first | rfl | cases h)
theorem qbind {d a b} : Statement (.qbind d a b) := fun m h => of_first rfl (fMop_packA ..) (by cases m <;> first | rfl | cases h)
theorem qget {d a} : Statement (.qget d a) := fun m h => of_first rfl (fMop_packA ..) (by cases m <;> first | rfl | cases h)
theorem qrel {d a} : Statement (.qrel d a) := fun m h => of_first rfl (fMop_packA ..) (by cases m <;> first | rfl | cases h)
theorem ldgW {d a imm} : Statement (.ldgW d a imm) := fun m h => of_first rfl (fMop_packB ..) (by cases m <;> first | rfl | cases h)
theorem ldgD {d a imm} : Statement (.ldgD d a imm) := fun m h => of_first rfl (fMop_packB ..) (by cases m <;> first | rfl | cases h)
theorem stgW {d a imm} : Statement (.stgW d a imm) := fun m h => of_first rfl (fMop_packB ..) (by cases m <;> first | rfl | cases h)
theorem stgD {d a imm} : Statement (.stgD d a imm) := fun m h => of_first rfl (fMop_packB ..) (by cases m <;> first | rfl | cases h)
theorem ldl {a b} : Statement (.ldl a b) := fun m h => of_first rfl (fMop_packA ..) (by cases m <;> first | rfl | cases h)
theorem stl {a b} : Statement (.stl a b) := fun m h => of_first rfl (fMop_packA ..) (by cases m <;> first | rfl | cases h)
theorem gamo {d a b fn lw} : Statement (.gamo d a b fn lw) := fun m h => of_first rfl (fMop_packA ..) (by cases m <;> first | rfl | cases h)
theorem mark : Statement (.mark) := fun m h => of_first rfl (fMop_packD ..) (by cases m <;> first | rfl | cases h)
theorem fence {imm24} : Statement (.fence imm24) := fun m h => of_first rfl (fMop_packD ..) (by cases m <;> first | rfl | cases h)
theorem cpy {d a b fn lw} : Statement (.cpy d a b fn lw) := fun m h => of_first rfl (fMop_packA ..) (by cases m <;> first | rfl | cases h)
theorem cpyT {d a b fn lw} : Statement (.cpyT d a b fn lw) := fun m h => of_first rfl (fMop_packA ..) (by cases m <;> first | rfl | cases h)
theorem cpyP {d a b fn lw} : Statement (.cpyP d a b fn lw) := fun m h => of_first rfl (fMop_packA ..) (by cases m <;> first | rfl | cases h)
theorem cpyQ {d a b fn lw} : Statement (.cpyQ d a b fn lw) := fun m h => of_first rfl (fMop_packA ..) (by cases m <;> first | rfl | cases h)
theorem cpyQT {d a b fn lw} : Statement (.cpyQT d a b fn lw) := fun m h => of_first rfl (fMop_packA ..) (by cases m <;> first | rfl | cases h)
theorem cpyGath {d a b fn lw} : Statement (.cpyGath d a b fn lw) := fun m h => of_first rfl (fMop_packA ..) (by cases m <;> first | rfl | cases h)
theorem cpyPair {d a b fn lw} : Statement (.cpyPair d a b fn lw) := fun m h => of_first rfl (fMop_packA ..) (by cases m <;> first | rfl | cases h)
theorem cpyScale {d a b fn lw} : Statement (.cpyScale d a b fn lw) := fun m h => of_first rfl (fMop_packA ..) (by cases m <;> first | rfl | cases h)
theorem cpyStrm {d a b fn lw} : Statement (.cpyStrm d a b fn lw) := fun m h => of_first rfl (fMop_packA ..) (by cases m <;> first | rfl | cases h)
theorem cpyHost {d a b fn lw} : Statement (.cpyHost d a b fn lw) := fun m h => of_first rfl (fMop_packA ..) (by cases m <;> first | rfl | cases h)
theorem mxSet {e w1 w2 w3} : Statement (.mxSet e w1 w2 w3) := fun m h => of_first rfl (fMop_packD ..) (by cases m <;> first | rfl | cases h)
theorem mxGo {d a b fn} : Statement (.mxGo d a b fn) := fun m h => of_first rfl (fMop_packA ..) (by cases m <;> first | rfl | cases h)
theorem mxAcq {d a} : Statement (.mxAcq d a) := fun m h => of_first rfl (fMop_packA ..) (by cases m <;> first | rfl | cases h)
theorem mxRel {d} : Statement (.mxRel d) := fun m h => of_first rfl (fMop_packA ..) (by cases m <;> first | rfl | cases h)
theorem mxShape {d a b} : Statement (.mxShape d a b) := fun m h => of_first rfl (fMop_packA ..) (by cases m <;> first | rfl | cases h)
theorem mxZero {d fn} : Statement (.mxZero d fn) := fun m h => of_first rfl (fMop_packA ..) (by cases m <;> first | rfl | cases h)
theorem mxOut {d a b fn lw} : Statement (.mxOut d a b fn lw) := fun m h => of_first rfl (fMop_packA ..) (by cases m <;> first | rfl | cases h)
theorem aspUp {e w1 w2 w3} : Statement (.aspUp e w1 w2 w3) := fun m h => of_first rfl (fMop_packD ..) (by cases m <;> first | rfl | cases h)
theorem aspDn {e w1 w2 w3} : Statement (.aspDn e w1 w2 w3) := fun m h => of_first rfl (fMop_packD ..) (by cases m <;> first | rfl | cases h)
theorem aspLd {d a b fn} : Statement (.aspLd d a b fn) := fun m h => of_first rfl (fMop_packA ..) (by cases m <;> first | rfl | cases h)
theorem aspSt {d a b fn} : Statement (.aspSt d a b fn) := fun m h => of_first rfl (fMop_packA ..) (by cases m <;> first | rfl | cases h)
theorem aspCvt {d a b fn lw} : Statement (.aspCvt d a b fn lw) := fun m h => of_first rfl (fMop_packA ..) (by cases m <;> first | rfl | cases h)
theorem aspWin {d a} : Statement (.aspWin d a) := fun m h => of_first rfl (fMop_packA ..) (by cases m <;> first | rfl | cases h)
theorem aspSeed {a} : Statement (.aspSeed a) := fun m h => of_first rfl (fMop_packA ..) (by cases m <;> first | rfl | cases h)
theorem aspClra {d a} : Statement (.aspClra d a) := fun m h => of_first rfl (fMop_packA ..) (by cases m <;> first | rfl | cases h)
theorem flowLoad {d a} : Statement (.flowLoad d a) := fun m h => of_first rfl (fMop_packA ..) (by cases m <;> first | rfl | cases h)
theorem flowSend {d a b} : Statement (.flowSend d a b) := fun m h => of_first rfl (fMop_packA ..) (by cases m <;> first | rfl | cases h)
theorem flowRecv {d a b} : Statement (.flowRecv d a b) := fun m h => of_first rfl (fMop_packA ..) (by cases m <;> first | rfl | cases h)
theorem flowRel {d a} : Statement (.flowRel d a) := fun m h => of_first rfl (fMop_packA ..) (by cases m <;> first | rfl | cases h)
theorem flowStat {d a} : Statement (.flowStat d a) := fun m h => of_first rfl (fMop_packA ..) (by cases m <;> first | rfl | cases h)
theorem msgSend {d a b} : Statement (.msgSend d a b) := fun m h => of_first rfl (fMop_packA ..) (by cases m <;> first | rfl | cases h)
theorem msgPost {d a b} : Statement (.msgPost d a b) := fun m h => of_first rfl (fMop_packA ..) (by cases m <;> first | rfl | cases h)
theorem msgProbe {d a b} : Statement (.msgProbe d a b) := fun m h => of_first rfl (fMop_packA ..) (by cases m <;> first | rfl | cases h)
theorem digest {d a b} : Statement (.digest d a b) := fun m h => of_first rfl (fMop_packA ..) (by cases m <;> first | rfl | cases h)
theorem dchk {d a b} : Statement (.dchk d a b) := fun m h => of_first rfl (fMop_packA ..) (by cases m <;> first | rfl | cases h)
theorem modeFwd : Statement (.modeFwd) := fun m h => of_first rfl (fMop_packD ..) (by cases m <;> first | rfl | cases h)
theorem modeRev : Statement (.modeRev) := fun m h => of_first rfl (fMop_packD ..) (by cases m <;> first | rfl | cases h)
theorem tapeSet {a b} : Statement (.tapeSet a b) := fun m h => of_first rfl (fMop_packA ..) (by cases m <;> first | rfl | cases h)
theorem adjLd {d a imm} : Statement (.adjLd d a imm) := fun m h => of_first rfl (fMop_packB ..) (by cases m <;> first | rfl | cases h)
theorem adjClr {a b} : Statement (.adjClr a b) := fun m h => of_first rfl (fMop_packA ..) (by cases m <;> first | rfl | cases h)
theorem estat {d a b} : Statement (.estat d a b) := fun m h => of_first rfl (fMop_packA ..) (by cases m <;> first | rfl | cases h)
theorem csave {a} : Statement (.csave a) := fun m h => of_first rfl (fMop_packA ..) (by cases m <;> first | rfl | cases h)
theorem crest {a} : Statement (.crest a) := fun m h => of_first rfl (fMop_packA ..) (by cases m <;> first | rfl | cases h)
theorem tlbInv {a b} : Statement (.tlbInv a b) := fun m h => of_first rfl (fMop_packA ..) (by cases m <;> first | rfl | cases h)
theorem halt {a} : Statement (.halt a) := fun m h => of_first rfl (fMop_packA ..) (by cases m <;> first | rfl | cases h)
theorem sleep {a} : Statement (.sleep a) := fun m h => of_first rfl (fMop_packA ..) (by cases m <;> first | rfl | cases h)
theorem undefinedMop {x0 x1 x2} : Statement (.undefinedMop x0 x1 x2) := fun _ h => nomatch h
theorem tokenDelivery : Statement (.tokenDelivery) := fun _ h => nomatch h
theorem trapEntry : Statement (.trapEntry) := fun _ h => nomatch h
theorem launchTake : Statement (.launchTake) := fun _ h => nomatch h
theorem programEnd : Statement (.programEnd) := fun _ h => nomatch h
theorem issueSelect : Statement (.issueSelect) := fun _ h => nomatch h
theorem vectorIssueSelect : Statement (.vectorIssueSelect) := fun _ h => nomatch h
theorem commandStart : Statement (.commandStart) := fun _ h => nomatch h
theorem sigComplete : Statement (.sigComplete) := fun _ h => nomatch h
theorem vectorResultWrite : Statement (.vectorResultWrite) := fun _ h => nomatch h
theorem vectorLongResult : Statement (.vectorLongResult) := fun _ h => nomatch h
theorem vectorTrap : Statement (.vectorTrap) := fun _ h => nomatch h
theorem qgetFill : Statement (.qgetFill) := fun _ h => nomatch h
theorem streamUnitWrite : Statement (.streamUnitWrite) := fun _ h => nomatch h
theorem loadPerform : Statement (.loadPerform) := fun _ h => nomatch h
theorem storePerform : Statement (.storePerform) := fun _ h => nomatch h
theorem gamoPerform : Statement (.gamoPerform) := fun _ h => nomatch h
theorem ldlLineWrite : Statement (.ldlLineWrite) := fun _ h => nomatch h
theorem adjCellPerform : Statement (.adjCellPerform) := fun _ h => nomatch h
theorem translationEvict : Statement (.translationEvict) := fun _ h => nomatch h
theorem copyBlock : Statement (.copyBlock) := fun _ h => nomatch h
theorem commandRetire : Statement (.commandRetire) := fun _ h => nomatch h
theorem commandFail : Statement (.commandFail) := fun _ h => nomatch h
theorem tileAutoRelease : Statement (.tileAutoRelease) := fun _ h => nomatch h
theorem matrixStep : Statement (.matrixStep) := fun _ h => nomatch h
theorem mxOutRow : Statement (.mxOutRow) := fun _ h => nomatch h
theorem arcadeResultsLand : Statement (.arcadeResultsLand) := fun _ h => nomatch h
theorem arcadeTrap : Statement (.arcadeTrap) := fun _ h => nomatch h
theorem flowAutoRemove : Statement (.flowAutoRemove) := fun _ h => nomatch h
theorem chunkInject : Statement (.chunkInject) := fun _ h => nomatch h
theorem flowPacketArrive : Statement (.flowPacketArrive) := fun _ h => nomatch h
theorem flowCreditArrive : Statement (.flowCreditArrive) := fun _ h => nomatch h
theorem deliveryWrite : Statement (.deliveryWrite) := fun _ h => nomatch h
theorem completionRecordWrite : Statement (.completionRecordWrite) := fun _ h => nomatch h
theorem messageRequestArrive : Statement (.messageRequestArrive) := fun _ h => nomatch h
theorem receivePost : Statement (.receivePost) := fun _ h => nomatch h
theorem goArrive : Statement (.goArrive) := fun _ h => nomatch h
theorem nackArrive : Statement (.nackArrive) := fun _ h => nomatch h
theorem digestLands : Statement (.digestLands) := fun _ h => nomatch h
theorem asyncCauseTaken : Statement (.asyncCauseTaken) := fun _ h => nomatch h
theorem timer : Statement (.timer) := fun _ h => nomatch h
theorem timeSliceSwitch : Statement (.timeSliceSwitch) := fun _ h => nomatch h
theorem sleepTimeout : Statement (.sleepTimeout) := fun _ h => nomatch h
theorem holdCountExpiry : Statement (.holdCountExpiry) := fun _ h => nomatch h
theorem waitRelease : Statement (.waitRelease) := fun _ h => nomatch h
theorem uncorrectableError : Statement (.uncorrectableError) := fun _ h => nomatch h
theorem scrub : Statement (.scrub) := fun _ h => nomatch h
theorem hello : Statement (.hello) := fun _ h => nomatch h
theorem launch : Statement (.launch) := fun _ h => nomatch h
theorem setasid : Statement (.setasid) := fun _ h => nomatch h
theorem preempt : Statement (.preempt) := fun _ h => nomatch h
theorem restore : Statement (.restore) := fun _ h => nomatch h
theorem mailboxReply : Statement (.mailboxReply) := fun _ h => nomatch h
theorem eventPost : Statement (.eventPost) := fun _ h => nomatch h
theorem eqtailWrite : Statement (.eqtailWrite) := fun _ h => nomatch h
theorem registerWrite : Statement (.registerWrite) := fun _ h => nomatch h
theorem hostWindowRead : Statement (.hostWindowRead) := fun _ h => nomatch h
theorem hostWindowWrite : Statement (.hostWindowWrite) := fun _ h => nomatch h
theorem recoveryWindowWrite : Statement (.recoveryWindowWrite) := fun _ h => nomatch h
theorem warmReset : Statement (.warmReset) := fun _ h => nomatch h
theorem coldReset : Statement (.coldReset) := fun _ h => nomatch h
theorem firmwareUpdate : Statement (.firmwareUpdate) := fun _ h => nomatch h
theorem attestationRequest : Statement (.attestationRequest) := fun _ h => nomatch h
theorem deviceIdSet : Statement (.deviceIdSet) := fun _ h => nomatch h
theorem powerCapSet : Statement (.powerCapSet) := fun _ h => nomatch h
theorem powerCapThrottle : Statement (.powerCapThrottle) := fun _ h => nomatch h
theorem thermalThrottle : Statement (.thermalThrottle) := fun _ h => nomatch h
theorem thermalShutdown : Statement (.thermalShutdown) := fun _ h => nomatch h
theorem portTrain : Statement (.portTrain) := fun _ h => nomatch h
theorem flitCrcError : Statement (.flitCrcError) := fun _ h => nomatch h
theorem portDown : Statement (.portDown) := fun _ h => nomatch h
theorem removalNoticeArrive : Statement (.removalNoticeArrive) := fun _ h => nomatch h
theorem aspLdFill : Statement (.aspLdFill) := fun _ h => nomatch h
theorem monitorPreemptRequest : Statement (.monitorPreemptRequest) := fun _ h => nomatch h
theorem hostLinkTrain : Statement (.hostLinkTrain) := fun _ h => nomatch h

end Sys2Proof.Laws.Sized
end

