-- ==== Sys2Proof/Laws/Shared.lean ====
section
/-! SUPPORT. What each shared operation can do, said once: the running thread's names, arithmetic, scratchpad accesses, raising a trap,
pushing an item and serving a mailbox. -/

namespace Sys2Proof.Machine

open Sys2Proof.Safety

/-- The running thread's context, core and number. -/
theorem cur_thread {s : State} {c x : Nat} (h : s.cur = .thread c x) :
    s.thread s.cur = s.ctx c x ∧ s.cur.core = c ∧ s.ownerCtx s.cur = x ∧ s.prog s.cur = (s.ctx c x).prog := by
  rw [h]; exact ⟨rfl, rfl, rfl, rfl⟩

/-! ### Arithmetic -/

/-- A two-source instruction with its registers ready writes its result. -/
theorem writesS_of_alu2 {i : Instr} {s : State} {d a b : Reg} {f : DWord → DWord → DWord} {v : DWord} (hi : exec i s = alu2 s d a b f)
    (hs : Stands s 1 .any) (hr : RegsReady s [srcS a, srcS b, srcS d]) (hv : f (s.getS s.cur a) (s.getS s.cur b) = v) :
    WritesS i s 1 d v := by
  refine writesS_of_issue _ hi hs ?_
  simp only [fresh, State.ready_of_ready (s := s) (srcs := [srcS a, srcS b]) (dests := [srcS d]) hr, State.getS_stalled, hv]

/-- A one-source instruction with its registers ready writes its result. -/
theorem writesS_of_alu1 {i : Instr} {s : State} {d a : Reg} {f : DWord → DWord} {v : DWord} (hi : exec i s = alu1 s d a f)
    (hs : Stands s 1 .any) (hr : RegsReady s [srcS a, srcS d]) (hv : f (s.getS s.cur a) = v) : WritesS i s 1 d v := by
  refine writesS_of_issue _ hi hs ?_
  simp only [fresh, State.ready_of_ready (s := s) (srcs := [srcS a]) (dests := [srcS d]) hr, State.getS_stalled, hv]

/-! ### Scratchpad accesses (R85) -/

/-- A checked access traps ALIGN, traps SPBOUND, stalls on a line still to be written, or runs its body. -/
theorem State.spadAccess_cases (s : State) (q : Seqr) (ea : DWord) (n : Nat) (r : Res) :
    (ea.toNat % n ≠ 0 ∧ s.spadAccess q ea n r = .trap .align ea) ∨
    (ea.toNat % n = 0 ∧ spadTop < ea.toNat + n - 1 ∧ s.spadAccess q ea n r = .trap .spbound ea) ∨
    (ea.toNat % n = 0 ∧ ¬ spadTop < ea.toNat + n - 1 ∧ s.lineBusy q ea.toNat n = true ∧ s.spadAccess q ea n r = .stall) ∨
    (ea.toNat % n = 0 ∧ ¬ spadTop < ea.toNat + n - 1 ∧ s.lineBusy q ea.toNat n = false ∧ s.spadAccess q ea n r = r) := by
  unfold State.spadAccess spadCheck
  by_cases h1 : ea.toNat % n = 0
  · by_cases h2 : spadTop < ea.toNat + n - 1
    · exact .inr (.inl ⟨h1, h2, by rw [if_neg (by omega), if_pos h2]⟩)
    · cases h3 : s.lineBusy q ea.toNat n
      · exact .inr (.inr (.inr ⟨h1, h2, rfl, by rw [if_neg (by omega), if_neg h2]; rfl⟩))
      · exact .inr (.inr (.inl ⟨h1, h2, rfl, by rw [if_neg (by omega), if_neg h2]; rfl⟩))
  · exact .inl ⟨h1, by rw [if_pos h1]⟩

/-! ### Raising a trap (R100) -/

/-- With a result in flight the trap only stands. -/
theorem State.raise_waits {s : State} {q : Seqr} {r : TrapReq}
    (h : (s.setProg q { s.prog q with trapping := some r }).drained q = false) :
    s.raise q r = s.setProg q { s.prog q with trapping := some r } := by
  unfold State.raise State.tryTrap
  simp only [State.prog_setProg_self, h]
  rfl

/-- With none in flight a thread enters its trap at once. -/
theorem State.raise_enters {s : State} {c x : Nat} {r : TrapReq}
    (h : (s.setProg (.thread c x) { s.prog (.thread c x) with trapping := some r }).drained (.thread c x) = true) :
    s.raise (.thread c x) r = (s.setProg (.thread c x) { s.prog (.thread c x) with trapping := some r }).enterTrap c x r := by
  unfold State.raise State.tryTrap
  simp only [State.prog_setProg_self, h]
  rfl

/-- At level M a trap disposes of the thread (R350). -/
theorem State.enterTrap_levelM {s : State} {c x : Nat} (r : TrapReq) (h : (s.ctx c x).modeM = true) :
    s.enterTrap c x r = s.dispose c x r := by
  unfold State.enterTrap; simp only [h]; rfl

/-- At level U with a handler, a trap that reflects is reflected (R100). -/
theorem State.enterTrap_reflects {s : State} {c x : Nat} {r : TrapReq} (hM : (s.ctx c x).modeM = false) (hH : (s.ctx c x).modeH = false)
    (hc : r.cause.reflects = true) (hv : (s.ctx c x).tvec ≠ 0) (he : s.entryOk (.thread c x) (s.ctx c x).tvec = true) :
    s.enterTrap c x r = s.setCtx c x (((s.ctx c x).enterM r).reflect s.now r) := by
  unfold State.enterTrap
  simp only [hM, hH, hc, he]
  rw [if_neg (by decide), if_pos (by simpa using hv)]

/-! ### Pushing an item (R131, R252) -/

/-- A push appends its item and takes the next sequence number; nothing else of the device changes. -/
theorem State.push_spec (s : State) (q : Seqr) (i : Item) :
    let k := s.core q.core
    (s.push q i).2 = k.nextSeq ∧ ∃ j, (s.push q i).1 = s.setCore q.core { k with items := k.items ++ [j], nextSeq := k.nextSeq + 1 } ∧
      j.kind = i.kind ∧ j.seq = k.nextSeq ∧ j.prio = (s.thread q).prio ∧ j.owner = s.ownerCtx q ∧ j.running = i.running ∧
      j.reads = i.reads ∧ j.writes = i.writes ∧ j.edges = edgesTo k.items i.reads i.writes :=
  ⟨rfl, _, rfl, rfl, rfl, rfl, rfl, rfl, rfl, rfl, rfl⟩

/-! ### Mailboxes (R373–R375) -/

@[simp] theorem State.mailbox_setMailbox_self (s : State) (k : Nat) (m : Mailbox) : (s.setMailbox k m).mailbox k = m := by
  simp [State.mailbox, State.setMailbox]

theorem State.mailbox_setMailbox_ne (s : State) {k n : Nat} (h : n ≠ k) (m : Mailbox) : (s.setMailbox k m).mailbox n = s.mailbox n := by
  simp only [State.mailbox, State.setMailbox]; exact SMap.get_set_of_ne _ _ h _

@[simp] theorem State.mailbox_setCore (s : State) (c k : Nat) (x : Core) : (s.setCore c x).mailbox k = s.mailbox k := rfl

/-- A mailbox without a waiting command of the code is left alone. -/
theorem State.serve_idle {s : State} {code : Nat} {body : Nat → Mailbox → Answer × State}
    (h : ¬ (s.target.core < 256 ∧ (s.mailbox s.target.core).waiting = true ∧ (s.mailbox s.target.core).code = code)) :
    s.serve code body = .next s := by
  unfold State.serve
  simp only
  rw [if_pos]
  simp only [Bool.not_eq_true', Bool.and_eq_false_iff, decide_eq_false_iff_not, beq_eq_false_iff_ne]
  by_cases h1 : s.target.core < 256
  · cases h2 : (s.mailbox s.target.core).waiting
    · exact .inl (.inr rfl)
    · exact .inr (fun h3 => h ⟨h1, h2, h3⟩)
  · exact .inl (.inl h1)

/-- A waiting command gets one answer: the common refusal, or its own check's. -/
theorem State.serve_answers {s : State} {code : Nat} {body : Nat → Mailbox → Answer × State} (h1 : s.target.core < 256)
    (h2 : (s.mailbox s.target.core).waiting = true) (h3 : (s.mailbox s.target.core).code = code) :
    let c := s.target.core
    let r := match (if code = 0 then s.helloRefusal (s.mailbox c) else s.refusal (s.mailbox c)) with
      | some a => (a, s)
      | none => body c (s.mailbox c)
    s.serve code body = .next (r.2.setMailbox c { r.2.mailbox c with answer := some r.1 }) := by
  unfold State.serve
  simp only
  exact (if_neg (by simp [h1, h2, h3])).trans rfl

end Sys2Proof.Machine
end

