-- ==== Sys2Proof/Tests/Slice0.lean ====
section
/-! SUPPORT. Tests: words of the spec decode to what they stand for, each field check refuses an ill-formed term, single steps give the
values of the spec's own examples, and every statement with hypotheses has a state that meets them. -/

namespace Sys2Proof.Tests

open Sys2Proof.Machine Sys2Proof.Safety

/-! ### Small states -/

/-- A device with one core and one thread on it, context 0, at word 2 of line 0, with some registers. -/
def withCore (k : Core) : State :=
  { State.reset with cores := [(0, k)], remap := [(0, 0)], now := 1000, board := { devState := .ready, healthy := 288 } }
def onThread (t : Ctx) : State := withCore { ctxs := [(0, { t with live := true })] }
def regs (r : List (Nat × DWord)) : State := onThread { prog := { pc := 8, s := r } }
/-- A vector program of context 0 in slot 0. -/
def onSlot (t : Ctx) (p : Prog) : State :=
  { withCore { ctxs := [(0, { t with live := true, forkV := .running })], slots := [(0, { owner := some 0, prog := p })] } with cur := .vec 0 0 }
/-- An Arcade program of context 0. -/
def onArc (a : Arc) : State :=
  { withCore { ctxs := [(0, { live := true, forkA := .running })], arc := { a with owner := some 0 } } with cur := .arc 0 }
/-- The same state with an event's target. -/
def at_ (s : State) (t : Target) : State := { s with target := t }
/-- Word 1 of a format L instruction without guard. -/
def lw0 : LW := LW.ofWord 0

/-! ### Decoding: words written out from the encoding tables (R23, R24, R36–R39) -/

-- R54: `SUB s1, s2, s3` is 0x0304_20C0 and `DIVN s7, s8, s9` is 0x081C_8240.
theorem test_decode_sub : decode .control [0x030420C0] = .ok (.sub 1 2 3) := rfl
theorem test_decode_divn : decode .control [0x081C8240] = .ok (.divn 7 8 9) := rfl
-- R56: `SARI s4, s5, 7` is 0x2610_5007.
theorem test_decode_sari : decode .vector [0x26105007] = .ok (.sari 4 5 7) := rfl
-- R57: `CMP.lt s9.2, s4, s5` is 0x3224_4142.
theorem test_decode_cmpLt : decode .control [0x32244142] = .ok (.cmpLt 9 4 5 2) := rfl
-- R61: `BEXT s2, s3, 8, 4` is 0x3D08_30C8.
theorem test_decode_bext : decode .arcade [0x3D0830C8] = .ok (.bext 2 3 0x0C8) := rfl
-- R63: `LUI s6, 0x8000_0000` is 0x4218_0000 followed by 0x8000_0000.
theorem test_decode_lui : decode .control [0x42180000, 0x80000000] = .ok (.lui 6 0x80000000) := rfl
-- R64: `SEL s1, s2, s3, s4.7` is 0x4404_20C0 followed by 0x0000_0107.
theorem test_decode_sel : decode .control [0x440420C0, 0x00000107] = .ok (.sel 1 2 3 (LW.ofWord 0x107)) := rfl
-- R66, R67: `PBRR b5, s6` is 0x4914_6000, `BRXN b1, s4.63` is 0x4B04_403F and `CALL b3` is 0x4D0C_0000.
theorem test_decode_pbrr : decode .control [0x49146000] = .ok (.pbrr 5 6) := rfl
theorem test_decode_brxn : decode .control [0x4B04403F] = .ok (.brxn 1 4 63) := rfl
theorem test_decode_call : decode .control [0x4D0C0000] = .ok (.call 3) := rfl
-- R71: `LOOPI lc1, 16, x` with x five words on is 0x5004_0005 followed by 0x0000_0010.
theorem test_decode_loopi : decode .control [0x50040005, 0x00000010] = .ok (.loopi 1 5 16) := rfl
-- R76, R77: `TOK.SEND 2, s5` is 0x5800_5002 and `TOK.RECV s8, 1` is 0x5920_0001.
theorem test_decode_tokSend : decode .control [0x58005002] = .ok (.tokSend 5 2) := rfl
theorem test_decode_tokRecv : decode .vector [0x59200001] = .ok (.tokRecv 8 1) := rfl
-- R89: `LD.w s4, [s2 + 2]` is 0x8410_2002 and `ST.d s9, [s1 - 8]` is 0x8A24_1FF8.
theorem test_decode_ldW : decode .control [0x84102002] = .ok (.ldW 4 2 2) := rfl
theorem test_decode_stD : decode .control [0x8A241FF8] = .ok (.stD 9 1 0xFF8) := rfl
-- R95: `HGET s5, h2, 0x04` is 0x9214_2004 and `HSET h2, s5, 0x04` is 0x9308_5004.
theorem test_decode_hget : decode .control [0x92142004] = .ok (.hget 5 2 4) := rfl
theorem test_decode_hset : decode .control [0x93085004] = .ok (.hset 2 5 4) := rfl
-- R115, R116, R118, R121: `SELECT`, `FORK.V`, `RDV`, `ENQ`, `DEQ`, `YIELD`.
theorem test_decode_select : decode .control [0xB8105180] = .ok (.selectSize 4 5 6) := rfl
theorem test_decode_forkV : decode .control [0xB0105180] = .ok (.forkV 4 5 6) := rfl
theorem test_decode_rdv : decode .control [0xB21C8000] = .ok (.rdv 7 8) := rfl
theorem test_decode_enq : decode .control [0xB91461C0] = .ok (.enq 5 6 7) := rfl
theorem test_decode_deq : decode .control [0xBA286000] = .ok (.deq 10 6) := rfl
theorem test_decode_yield : decode .control [0xB7000000] = .ok .yieldStage := rfl
-- R124, R126: `GRP.BAR s3, s9` is 0xB50C_9000 and `GRP.INFO s3, s9, s10` is 0xB60C_9280.
theorem test_decode_grpBar : decode .control [0xB50C9000] = .ok (.grpBar 3 9) := rfl
theorem test_decode_grpInfo : decode .control [0xB60C9280] = .ok (.grpInfo 3 9 10) := rfl
-- R341, R361: `ADJ.CLR s5, s6` is 0xE400_5180 and `TLB.INV s5, s6` is 0xF300_5180.
theorem test_decode_adjClr : decode .control [0xE4005180] = .ok (.adjClr 5 6) := rfl
theorem test_decode_tlbInv : decode .control [0xF3005180] = .ok (.tlbInv 5 6) := rfl
-- R80, R84: `MFC s3, fsr` is 0x600C_0005, `MTC frm, s4` is 0x6100_4004 and `TRAP 0x123` is 0x6200_0123.
theorem test_decode_mfc : decode .control [0x600C0005] = .ok (.mfc 3 5) := rfl
theorem test_decode_mtc : decode .control [0x61004004] = .ok (.mtc 4 4) := rfl
theorem test_decode_trap : decode .control [0x62000123] = .ok (.trap 0x123) := rfl
-- R134: `SIG s4, s5, s6` is 0xE810_5180.
theorem test_decode_sig : decode .control [0xE8105180] = .ok (.sig 4 5 6) := rfl
-- R227–R229: `LDG.d s4, [s5 + 8]`, `STG.w s7, [s2 - 4]`, `STL s9, s10`, `GAMO.cas.i64.rel s3, [s4], s5, s6`.
theorem test_decode_ldgD : decode .control [0x99105008] = .ok (.ldgD 4 5 8) := rfl
theorem test_decode_stgW : decode .control [0x9A1C2FFC] = .ok (.stgW 7 2 0xFFC) := rfl
theorem test_decode_stl : decode .control [0x9D009280] = .ok (.stl 9 10) := rfl
theorem test_decode_gamo : decode .control [0x9E0C4146, 0x000001A5] = .ok (.gamo 3 4 5 6 (LW.ofWord 0x1A5)) := rfl
-- R247: `CPY.T h5, h2, h3, 1, s8` is 0xC114_20C0 followed by 0x0000_0210.
theorem test_decode_cpyT : decode .control [0xC11420C0, 0x00000210] = .ok (.cpyT 5 2 3 0 (LW.ofWord 0x210)) := rfl
-- R266, R268, R276, R282, R285: `MX.ACQ s3, a2`, `MX.SHAPE a2, s6, s7`, `MX.GO a0, h4, h5, s8`, `MX.OUT.rdn a2, h6, s9`, `ARD.COL`.
theorem test_decode_mxAcq : decode .control [0xD20C2000] = .ok (.mxAcq 3 2) := rfl
theorem test_decode_mxShape : decode .control [0xD40861C0] = .ok (.mxShape 2 6 7) := rfl
theorem test_decode_mxGo : decode .control [0xD1004148] = .ok (.mxGo 0 4 5 8) := rfl
theorem test_decode_mxOut : decode .control [0xD6086000, 0x00010240] = .ok (.mxOut 2 6 0 0 (LW.ofWord 0x10240)) := rfl
theorem test_decode_ardCol : decode .vector [0xE9082149, 0x00000000] = .ok (.ardCol 2 2 5 9 lw0) := rfl
-- R170, R177, R184 with R23, R24, R38: `VADD.f32 v1, v2, v3`, `VIADD.i32 v1, v2, v3` and `VMOV.f32 v1, v2`, packed by hand.
theorem test_decode_vadd : decode .vector [0x800420C9, 0x00000000] = .ok (.vadd 1 2 3 9 lw0) := rfl
theorem test_decode_viadd : decode .vector [0xA00420C4, 0x00000000] = .ok (.viadd 1 2 3 4 lw0) := rfl
theorem test_decode_vmov : decode .vector [0xD0042009, 0x00000000] = .ok (.vmov 1 2 9 lw0) := rfl
-- R300–R304: `ASP.ST.adj s4, s5, [s6]`, `ASP.CVT.sp32.rne s4, s5`, `ASP.WIN wb2, s7`.
theorem test_decode_aspSt : decode .arcade [0x89105181] = .ok (.aspSt 4 5 6 1) := rfl
theorem test_decode_aspCvt : decode .arcade [0x8A105000, 0x00000000] = .ok (.aspCvt 4 5 0 0 lw0) := rfl
theorem test_decode_aspWin : decode .arcade [0x8B087000] = .ok (.aspWin 2 7) := rfl
-- R320, R323, R330, R333, R340: `FLOW.LOAD s4, s5`, `FLOW.SEND s4, s5, h2`, `DIGEST s8, s9, s10`, `TAPE.SET s5, s6`, `ADJ.LD s4, [s5 + 8]`.
theorem test_decode_flowLoad : decode .control [0xD8105000] = .ok (.flowLoad 4 5) := rfl
theorem test_decode_flowSend : decode .control [0xD9105080] = .ok (.flowSend 4 5 2) := rfl
theorem test_decode_digest : decode .control [0xF6209280] = .ok (.digest 8 9 10) := rfl
theorem test_decode_tapeSet : decode .control [0xE2005180] = .ok (.tapeSet 5 6) := rfl
theorem test_decode_adjLd : decode .control [0xE3105008] = .ok (.adjLd 4 5 8) := rfl
-- R353, R357, R362, R363, R395: `ESTAT s4, s5, s6`, `CREST s20`, `HALT s0`, `SLEEP s9`, `DCHK s4, s8, s12`.
theorem test_decode_estat : decode .control [0xEA105180] = .ok (.estat 4 5 6) := rfl
theorem test_decode_crest : decode .control [0xF2014000] = .ok (.crest 20) := rfl
theorem test_decode_halt : decode .control [0xF4000000] = .ok (.halt 0) := rfl
theorem test_decode_sleep : decode .control [0xF5009000] = .ok (.sleep 9) := rfl
theorem test_decode_dchk : decode .control [0xF7108300] = .ok (.dchk 4 8 12) := rfl
-- A private MOP means what its own memory's table assigns (R40), and a word whose MOP the memory reserves means nothing.
theorem test_decode_private : decode .control [0x80000000] = .ok (.ldB 0 0 0) ∧ decode .control [0x81000000] = .ok (.ldBn 0 0 0) ∧
    decode .arcade [0x82000000] = .error .undefinedMop ∧ decode .vector [0x91000000, 0] = .error .undefinedMop ∧
    decode .control [0xD7000000] = .error .undefinedMop := ⟨rfl, rfl, rfl, rfl, rfl⟩
-- The host's numbering of a word's bits gives the same instruction.
theorem test_decodeTableWord : decodeTableWord 32 0x030420C0 = some (.sub 1 2 3) ∧
    decodeTableWord 64 0x1234567841180000 = some (.li 6 0x12345678) := ⟨rfl, rfl⟩

/-! ### Ill-formed terms, one for each check of the field rules (R24–R28, R35, R40) -/

theorem test_wf_shiftAmount : (Instr.shli 1 2 64).wf = false ∧ (Instr.shri 1 2 64).wf = false ∧ (Instr.sari 1 2 64).wf = false ∧
    (Instr.bset 1 2 64).wf = false ∧ (Instr.bclr 1 2 64).wf = false := by decide
theorem test_wf_bitField : (Instr.bext 1 2 0xFC1).wf = false ∧ (Instr.bins 1 2 0x07F).wf = false ∧ (Instr.bext 1 2 0xFC0).wf = true := by decide
theorem test_wf_guardFields : (Instr.lea 1 2 3 0 (LW.ofWord 0x40000000)).wf = false ∧ (Instr.lea 1 2 3 0 (LW.ofWord 0x01000000)).wf = false ∧
    (Instr.lea 1 2 3 0 (LW.ofWord 0x00040000)).wf = false ∧ (Instr.lea 1 2 3 0 (LW.ofWord 0xC1040000)).wf = true := by decide
theorem test_wf_roundingMode : (Instr.lea 1 2 3 0 (LW.ofWord 0x00008000)).wf = false ∧ (Instr.vadd 1 2 3 9 (LW.ofWord 0x00028000)).wf = false ∧
    (Instr.vadd 1 2 3 9 (LW.ofWord 0x00030000)).wf = false ∧ (Instr.vmin 1 2 3 9 (LW.ofWord 0x00008000)).wf = false := by decide
theorem test_wf_tBits : (Instr.lea 1 2 3 0 (LW.ofWord 0x00001000)).wf = false ∧ (Instr.cmpi 1 2 0 (LW.ofWord 0x00002000)).wf = false ∧
    (Instr.vabs 1 2 9 (LW.ofWord 0x00002000)).wf = false ∧ (Instr.vldq 1 2 9 (LW.ofWord 0x00004000)).wf = false := by decide
theorem test_wf_condition : (Instr.cmpi 1 2 0 (LW.ofWord 0x30)).wf = false ∧ (Instr.cmpi 1 2 0 (LW.ofWord 0x38)).wf = false ∧
    (Instr.cmpi 1 2 0 (LW.ofWord 0x01)).wf = false ∧ (Instr.cmpi 1 2 0 (LW.ofWord 0x28)).wf = true := by decide
theorem test_wf_branchRegister : (Instr.pbr 8 0).wf = false ∧ (Instr.pbrr 8 1).wf = false ∧ (Instr.brx 8 1 0).wf = false ∧
    (Instr.brxn 8 1 0).wf = false ∧ (Instr.br 8).wf = false ∧ (Instr.call 8).wf = false := by decide
theorem test_wf_loop : (Instr.loop 4 1 5).wf = false ∧ (Instr.loop 0 1 1).wf = false ∧ (Instr.loopi 4 5 1).wf = false ∧
    (Instr.loopi 0 2 1).wf = false := by decide
theorem test_wf_fifo : (Instr.tokSend 1 4).wf = false ∧ (Instr.tokRecv 1 4).wf = false ∧ (Instr.tokPoll 1 4).wf = false := by decide
theorem test_wf_controlRegister : (Instr.mfc 1 0x100).wf = false ∧ (Instr.mtc 1 0x100).wf = false := by decide
theorem test_wf_oddPair : (Instr.ldQ 1 2 0).wf = false ∧ (Instr.stQ 1 2 0).wf = false ∧ (Instr.deq 1 2).wf = false ∧
    (Instr.tfill 1 2 3).wf = false ∧ (Instr.tpin 1 2 3).wf = false := by decide
theorem test_wf_lamo : (Instr.lamo 1 2 3 (LW.ofWord 0x01)).wf = false ∧ (Instr.lamo 1 2 3 (LW.ofWord 0x40)).wf = false ∧
    (Instr.lamo 1 2 3 (LW.ofWord 0x1000)).wf = false ∧ (Instr.lamo 1 2 3 (LW.ofWord 0x1078)).wf = true := by decide
theorem test_wf_handle : (Instr.hld 16 1 0).wf = false ∧ (Instr.hld 0 1 16).wf = false ∧ (Instr.hst 16 1 0).wf = false ∧
    (Instr.hst 0 1 31).wf = false ∧ (Instr.hget 1 16 0).wf = false ∧ (Instr.hget 1 2 0x0E).wf = false ∧ (Instr.hset 16 1 0).wf = false ∧
    (Instr.hset 1 1 0x14).wf = false ∧ (Instr.hpatch 1 2 0x0F lw0).wf = false ∧ (Instr.hpatch 1 2 0 (LW.ofWord 0x10)).wf = false := by decide
theorem test_wf_vectorFormat : (Instr.vadd 1 2 3 4 lw0).wf = false ∧ (Instr.viadd 1 2 3 9 lw0).wf = false ∧ (Instr.vmov 1 2 7 lw0).wf = false ∧
    (Instr.vsel 1 2 3 7 lw0).wf = false ∧ (Instr.vqmx 1 2 0 0x17 lw0).wf = false ∧ (Instr.vhash 1 2 3 9 lw0).wf = false := by decide
theorem test_wf_vectorGuard : (Instr.vadd 1 2 3 8 (LW.ofWord 0x80800000)).wf = false ∧ (Instr.vadd 1 2 3 10 (LW.ofWord 0x80400000)).wf = false ∧
    (Instr.vadd 1 2 3 10 (LW.ofWord 0x803C0000)).wf = true ∧ (Instr.vqmx 1 2 0 0x18 (LW.ofWord 0x80000000)).wf = false ∧
    (Instr.vhash 1 2 3 6 (LW.ofWord 0x80000000)).wf = false := by decide
theorem test_wf_vectorExtension : (Instr.vadd 1 2 3 9 (LW.ofWord 0x01)).wf = false ∧ (Instr.vadd 1 2 3 9 (LW.ofWord 0x40)).wf = false ∧
    (Instr.vfma 1 2 3 9 (LW.ofWord 0x01)).wf = false ∧ (Instr.vcmp 1 2 3 9 (LW.ofWord 0x08)).wf = false ∧
    (Instr.vcmp 1 2 3 10 (LW.ofWord 0x400)).wf = false ∧ (Instr.viadd 1 2 3 4 (LW.ofWord 0x02)).wf = false := by decide
theorem test_wf_vectorSelectors : (Instr.vsel 1 2 3 9 (LW.ofWord 0x20)).wf = false ∧ (Instr.vany 1 2 3 (LW.ofWord 0x20)).wf = false ∧
    (Instr.vldX 1 2 3 10 lw0).wf = false ∧ (Instr.vldq 1 8 9 lw0).wf = false ∧ (Instr.vperm 1 2 3 0 lw0).wf = false ∧
    (Instr.vshuf 1 2 3 9 (LW.ofWord 8)).wf = false ∧ (Instr.vtrn 1 2 9 (LW.ofWord 0x20)).wf = false ∧
    (Instr.vrarg 1 2 9 (LW.ofWord 4)).wf = false := by decide
theorem test_wf_conversion : (Instr.vcvt 1 2 0 9 (LW.ofWord 9)).wf = false ∧ (Instr.vcvt 1 2 2 10 (LW.ofWord 9)).wf = false ∧
    (Instr.vcvt 1 2 0 9 (LW.ofWord 0x44)).wf = false ∧ (Instr.vcvt 1 2 1 10 (LW.ofWord 9)).wf = true ∧
    (Instr.vqmx 1 2 63 0x18 lw0).wf = false := by decide
theorem test_wf_tileMoves : (Instr.ardRow 1 8 2 9 lw0).wf = false ∧ (Instr.ardRow 1 2 2 8 lw0).wf = false ∧ (Instr.awrCol 1 2 2 6 lw0).wf = false ∧
    (Instr.awrRow 1 2 3 9 (LW.ofWord 0x4000)).wf = false := by decide
theorem test_wf_streams : (Instr.qbind 8 1 2).wf = false ∧ (Instr.qget 1 8).wf = false ∧ (Instr.qrel 1 8).wf = false := by decide
theorem test_wf_gamo : (Instr.gamo 1 2 3 6 (LW.ofWord 0x28)).wf = false ∧ (Instr.gamo 1 2 3 6 (LW.ofWord 0x40)).wf = false ∧
    (Instr.gamo 1 2 3 6 (LW.ofWord 0x1000)).wf = false := by decide
theorem test_wf_fence : (Instr.fence 4).wf = false ∧ (Instr.fence 3).wf = true := by decide
theorem test_wf_copies : (Instr.cpy 16 2 3 0 lw0).wf = false ∧ (Instr.cpy 1 2 3 1 lw0).wf = false ∧ (Instr.cpy 1 2 3 0 (LW.ofWord 1)).wf = false ∧
    (Instr.cpyP 1 2 3 24 lw0).wf = false ∧ (Instr.cpyQ 1 2 3 0 (LW.ofWord 2)).wf = false ∧ (Instr.cpyPair 1 2 3 0 (LW.ofWord 4)).wf = false ∧
    (Instr.cpyScale 1 2 1 0 lw0).wf = false ∧ (Instr.cpyStrm 8 2 0 0 lw0).wf = false ∧ (Instr.cpyHost 1 2 0 0 lw0).wf = false := by decide
theorem test_wf_nest : (Instr.mxSet 0xE00000 0 0 0).wf = false ∧ (Instr.mxSet 0x140000 0 0 0).wf = false ∧ (Instr.mxSet 1 0 0 0x00100000).wf = false ∧
    (Instr.mxSet 0xC00000 0x00100000 0 0).wf = false ∧ (Instr.mxSet 0xC00000 0 1 0).wf = false := by decide
theorem test_wf_matrix : (Instr.mxGo 8 1 2 3).wf = false ∧ (Instr.mxGo 1 16 2 3).wf = false ∧ (Instr.mxAcq 1 8).wf = false ∧
    (Instr.mxRel 8).wf = false ∧ (Instr.mxShape 8 1 2).wf = false ∧ (Instr.mxZero 8 1).wf = false ∧ (Instr.mxOut 1 2 1 0 lw0).wf = false := by decide
theorem test_wf_arcade : (Instr.aspUp 0x80 0 0 0).wf = false ∧ (Instr.aspUp 0x20 0 0 0).wf = false ∧ (Instr.aspUp 1 0 0 0).wf = false ∧
    (Instr.aspDn 0 0x40100000 0 0).wf = false ∧ (Instr.aspLd 1 2 3 3).wf = false ∧ (Instr.aspCvt 1 2 0 0 (LW.ofWord 0x10000)).wf = false ∧
    (Instr.aspWin 4 1).wf = false := by decide
theorem test_wf_flows : (Instr.flowSend 1 2 16).wf = false ∧ (Instr.flowRecv 1 2 16).wf = false ∧ (Instr.msgSend 1 2 16).wf = false ∧
    (Instr.msgPost 1 2 16).wf = false ∧ (Instr.digest 0 1 2).wf = false ∧ (Instr.digest 6 1 2).wf = false ∧ (Instr.dchk 1 0 2).wf = false := by decide
-- An unused field that is not zero is refused where its word is read (R28).
theorem test_unused_field : decode .control [0x02000001] = .error .reservedField ∧ decode .control [0x01000001] = .error .reservedField ∧
    decode .control [0x4E040000] = .error .reservedField ∧ decode .control [0x41181000, 0] = .error .reservedField := ⟨rfl, rfl, rfl, rfl⟩

/-! ### States that meet the hypotheses: scalar instructions (R52–R74) -/

/-- s1 = 2^63, s2 = all ones, s3 = 5, s4 = 0x104, s5 = 0x20000. -/
def sMath : State := regs [(1, 0x8000000000000000), (2, 0xFFFFFFFFFFFFFFFF), (3, 5), (4, 0x104), (5, 0x20000)]

theorem witness_twoSource : Stands sMath 1 .any ∧ RegsReady sMath [srcS 1, srcS 2, srcS 3] := by decide
theorem witness_divisions : sMath.getS sMath.cur 0 = 0 ∧ sMath.getS sMath.cur 2 ≠ 0 ∧ RegsReady sMath [srcS 1, srcS 0, srcS 3] := by decide
theorem witness_oneSource : Stands sMath 1 .any ∧ RegsReady sMath [srcS 1, srcS 3] := by decide
theorem witness_loadImmediates : Stands sMath 2 .any ∧ RegsReady sMath [srcS 3] := by decide
/-- s6 guards by its bit 2, which is set. -/
def lwGuard : LW := LW.ofWord 0x83080000
theorem witness_compares : Stands sMath 2 .any ∧ GuardOn sMath lwGuard ∧ lwGuard.g = true ∧ RegsReady sMath [srcS 1, srcS 3] ∧
    lwGuard.y.toNat / 8 ≤ 5 ∧ (LW.ofWord 0x28).y.toNat / 8 = 5 := by decide
theorem witness_addressAndSelect : Stands sMath 2 .any ∧ GuardOn sMath lwGuard ∧ RegsReady sMath [srcS 1, srcS 2, srcS lwGuard.x, srcS 3] ∧
    (let s := onThread { prog := { pc := 8, sEmpty := 4 } }
     lw0.ta = false ∧ lw0.tb = false ∧ lw0.tc = false ∧ GuardOn s lw0 ∧ Stands s 2 .any ∧ srcS 2 ∈ [srcS 1, srcS 2] ∧
      srcS 2 ∈ [srcS 1, srcS 2, srcS lw0.x] ∧ s.regEmpty s.cur (srcS 2) = true) := by decide
theorem witness_branchTargets : Stands sMath 1 .any ∧ RegsReady sMath [srcS 4] ∧ (sMath.getS sMath.cur 4).toNat < 2 ^ 17 ∧
    (sMath.getS sMath.cur 4).toNat % 4 = 0 ∧ ¬ ((sMath.getS sMath.cur 5).toNat < 2 ^ 17 ∧ (sMath.getS sMath.cur 5).toNat % 4 = 0) ∧
    RegsReady sMath [srcS 5] := by decide
theorem witness_transfersStart : Stands sMath 1 .xfer ∧ RegsReady sMath [srcS 63] ∧ RegsReady sMath [srcS 4] := by decide

/-- A taken transfer with some delay slots left. -/
def inSlots (n : Nat) (taken : Bool) : State := onThread { prog := { pc := 12, pend := some ⟨.br, 8, 0x100, taken, n⟩ } }
theorem witness_delaySlots : (∀ n ∈ [1, 2], ∀ b ∈ [true, false], Stands (inSlots n b) 1 .any ∧
      ((inSlots n b).prog (inSlots n b).cur).pend = some ⟨.br, 8, 0x100, b, n⟩ ∧ (inSlots n b).cur.isFork = false) ∧
    ((inSlots 1 false).prog (inSlots 1 false).cur).loops.order = [] := by decide

/-- Loop 0 is armed and ends after the word at 12; `n` iterations are left. -/
def inLoop (n : BitVec 32) (p : Option Xfer) : State :=
  onThread { prog := { pc := 12, s := [(6, 3)], pend := p, loops := { lc := [(0, ⟨n, 8, 16⟩)], order := [0] } } }
theorem witness_loopArming : (12 + BitVec.ofNat 64 (4 * 29) : DWord).toNat / 4 % 32 < 2 ∧
    2 ≤ (12 + BitVec.ofNat 64 (4 * 5) : DWord).toNat / 4 % 32 ∧ Stands sMath 1 .loop ∧
    Stands sMath 2 .loop ∧ RegsReady sMath [srcS 3] ∧ (sMath.prog sMath.cur).pend = none ∧ (sMath.getS sMath.cur 3).setWidth 32 ≠ 0#32 ∧
    (sMath.getS sMath.cur 0).setWidth 32 = 0#32 ∧ ((inSlots 1 true).prog (.thread 0 0)).pend = some ⟨.br, 8, 0x100, true, 1⟩ ∧ (1 : Nat) ≤ 1 ∧
    (1 : BitVec 12).toNat ≤ 1 ∧ (2 : BitVec 12).toNat ≤ 2 := by decide
/-- Loops 0 and 1 are active, 1 armed last; loop 0 ends after the word at 12, loop 1 at the word given, with the counts given. -/
def inTwo (stop : DWord) (n m : BitVec 32) : State :=
  onThread { prog := { pc := 12, loops := { lc := [(0, ⟨n, 8, 16⟩), (1, ⟨m, 8, stop⟩)], order := [1, 0] } } }
-- With all loops tested; with one left that goes round; both closing; an interior instruction of one body at the end of another.
theorem witness_loopEnds :
    (Stands (inLoop 2 none) 1 .any ∧ ((inLoop 2 none).prog (.thread 0 0)).loops.order = [] ++ [0] ∧
      (SMap.get {} ((inLoop 2 none).prog (.thread 0 0)).loops.lc 0).stop = seqNext 12 1 ∧
      (SMap.get {} ((inLoop 2 none).prog (.thread 0 0)).loops.lc 0).count ≠ 1) ∧
    (∀ p ∈ [(16, 1), (16, 2), (32, 5)], Stands (inTwo (BitVec.ofNat 64 p.1) 1 (BitVec.ofNat 32 p.2)) 1 .any) ∧ (∀ p ∈ [(16, 1), (16, 2), (32, 5)], ((inTwo (BitVec.ofNat 64 p.1) 1 (BitVec.ofNat 32 p.2)).prog (.thread 0 0)).pend = none ∧
      ((inTwo (BitVec.ofNat 64 p.1) 1 (BitVec.ofNat 32 p.2)).prog (.thread 0 0)).loops.order = [1, 0] ∧
      (SMap.get {} ((inTwo (BitVec.ofNat 64 p.1) 1 (BitVec.ofNat 32 p.2)).prog (.thread 0 0)).loops.lc 0).stop = seqNext 12 1 ∧
      (SMap.get {} ((inTwo (BitVec.ofNat 64 p.1) 1 (BitVec.ofNat 32 p.2)).prog (.thread 0 0)).loops.lc 0).count = 1) ∧
    ([1, 0] : List Nat).Nodup ∧ ((SMap.get {} ((inTwo 32 1 5).prog (.thread 0 0)).loops.lc 1).stop ≠ seqNext 12 1) ∧
    ((sMath.prog sMath.cur).loops.order = [] ++ [] ∧ (sMath.prog sMath.cur).pend = none) := by
  refine ⟨by decide, by decide, by decide, by simp, by decide, by decide⟩
theorem witness_illegalSlots : 0 ∈ ((inLoop 2 (some ⟨.br, 8, 0x100, true, 1⟩)).prog (.thread 0 0)).loops.order ∧
    ((inLoop 2 (some ⟨.br, 8, 0x100, true, 1⟩)).prog (.thread 0 0)).pend = some ⟨.br, 8, 0x100, true, 1⟩ ∧
    2 ≤ (12 + BitVec.ofNat 64 (4 * 5) : DWord).toNat / 4 % 32 := by decide

-- R55: for a = −2^63 and b = −1, `DIV` writes 0x8000_0000_0000_0000 and `REM` writes 0.
def after (i : Instr) (s : State) (r : Reg) : Option DWord :=
  match exec i s with
  | .next t => some (t.getS t.cur r)
  | _ => none
theorem test_div_corner : after (.div 7 1 2) sMath 7 = some 0x8000000000000000 ∧ after (.rem 7 1 2) sMath 7 = some 0 := by decide
-- R54: the shift uses b[5:0], and signed and unsigned minima differ.
theorem test_shift_min : after (.shl 7 3 2) sMath 7 = some 0x8000000000000000 ∧ after (.sar 7 1 2) sMath 7 = some 0xFFFFFFFFFFFFFFFF ∧
    after (.min 7 1 3) sMath 7 = some 0x8000000000000000 ∧ after (.minn 7 1 3) sMath 7 = some 5 := by decide
-- R58: `CMPI.gen d.k, a, -1` is true only for a of all ones.
theorem test_cmpi_gen : after (.cmpi 7 2 0xFFF (LW.ofWord 0xA8)) sMath 7 = some 4 ∧ after (.cmpi 7 1 0xFFF (LW.ofWord 0xA8)) sMath 7 = some 0 := by
  decide
-- R59: for a = 0, `CLZ` and `CTZ` write 64 and `POPC` writes 0.
theorem test_counts_zero : after (.clz 7 0) sMath 7 = some 64 ∧ after (.ctz 7 0) sMath 7 = some 64 ∧ after (.popc 7 0) sMath 7 = some 0 := by decide
-- R63: a 64-bit constant is built with `LI` for the low half and `LUI` for the high half.
theorem test_li_sign : after (.li 7 0x80000000) sMath 7 = some 0xFFFFFFFF80000000 ∧ after (.lui 3 0x80000000) sMath 3 = some 0x8000000000000005 := by
  decide
-- R61: `BEXT s2, s3, 8, 4` extracts bits 11:8.
theorem test_bext : after (.bext 7 4 0x0C8) sMath 7 = some 1 := by decide
-- R10: a write to s0 is discarded.
theorem test_s0 : after (.add 0 1 2) sMath 0 = some 0 := by decide
-- R69: `CALL` at 8 writes s63 the address after its second delay slot: two one-word slots follow it.
theorem test_call_link : after (.call 0) sMath 63 = some 20 := by decide

/-! ### Tokens, control registers and traps (R17, R75–R82, R97–R102, R345–R350) -/

theorem witness_tokenFifos :
    (let s := at_ (onThread { prog := { pc := 8, s := [(1, 7)] }, fifos := [(3, ⟨[7, 8], [⟨.thread 0 0, 5⟩]⟩)] }) { id := 3 }
     Stands s 1 .any ∧ RegsReady s [srcS 1] ∧ (s.fifo s.cur 3).tokens.length < 16 ∧ s.aspPending s.cur = false ∧
      ((s.fifo s.cur 3).claims.filter (fun c => decide (c.owner = s.cur))).length < 16 ∧ (s.thread s.cur).prog.hold = none ∧
      s.fifo (.thread 0 0) 3 = ⟨[7, 8], [⟨.thread 0 0, 5⟩]⟩ ∧ (s.fifo (.thread 0 0) 4).tokens = []) ∧
    (let s := onThread { prog := { pc := 8 }, fifos := [(3, ⟨List.replicate 16 7, List.replicate 16 ⟨.thread 0 0, 5⟩⟩)] }
     16 ≤ (s.fifo s.cur 3).tokens.length ∧ 16 ≤ ((s.fifo s.cur 3).claims.filter (fun c => decide (c.owner = s.cur))).length) ∧
    (let s := onSlot { prog := { hold := some (.sleep none) } } { pc := 8 }
     Stands s 1 .any ∧ RegsReady s [srcS 1] ∧ (s.thread s.cur).prog.hold = some (.sleep none) ∧ (s.fifo s.cur 3).tokens.length < 16 ∧
      s.aspPending s.cur = false) := by decide
theorem witness_controlReads : Stands sMath 1 .any ∧ RegsReady sMath [srcS 3] ∧ (0x84 : BitVec 12).toNat < 256 ∧
    (sMath.thread sMath.cur).modeM = false ∧ sMath.flagsPending sMath.cur = false ∧
    ((onThread { modeM := true }).thread (.thread 0 0)).modeM = true := by decide
theorem witness_controlWrites :
    let s := regs [(1, 4), (2, 5), (3, 11), (4, 12), (5, 0x00FFFFFFFFFFFFF0), (6, 0x0100000000000000), (7, 3), (8, 7)]
    Stands s 1 .any ∧ (∀ n ∈ [1, 2, 3, 4, 5, 6, 7, 8], RegsReady s [srcS (BitVec.ofNat 6 n)]) ∧ (s.getS s.cur 1).toNat % 8 ≤ 4 ∧
      4 < (s.getS s.cur 2).toNat % 8 ∧ (s.getS s.cur 3).toNat ≤ 11 ∧ 11 < (s.getS s.cur 4).toNat ∧
      ((s.getS s.cur 5).toNat < 2 ^ 56 ∧ (s.getS s.cur 5).toNat % 16 = 0) ∧ ¬ (s.getS s.cur 6).toNat < 2 ^ 56 ∧
      (s.getS s.cur 7).getLsbD 2 = false ∧ (s.getS s.cur 8).getLsbD 2 = true ∧ s.cur.isFork = false ∧ s.flagsPending s.cur = false ∧
      (onSlot {} {}).cur.isFork = true := by decide

/-- A thread with a handler at word 2 of line 1. -/
def handled (t : Ctx) : State :=
  withCore { ctxs := [(0, { t with live := true, tvec := 136 })], imemC := [(32, 1), (33, 1)] }
/-- A trap that stands. -/
def standing : TrapReq := ⟨.align, 3, 8, none⟩
theorem witness_trapsReflected : Reflects (handled {}) 0 0 ∧ Cause.align.reflects = true ∧ Stands (handled { prog := { pc := 8 } }) 1 .any ∧
    Reflects (handled { prog := { pc := 8 } }) 0 0 ∧ Reflects (handled { prog := { pc := 8, trapping := some standing } }) 0 0 ∧
    ((handled { prog := { pc := 8, trapping := some standing } }).ctx 0 0).prog.trapping = some standing := by decide
theorem witness_trapWaits : (handled { prog := { pc := 8, sEmpty := 4 } }).drained (.thread 0 0) = false := by decide
theorem witness_trapsDisposed : sMath.drained (.thread 0 0) = true ∧ (sMath.ctx 0 0).tvec = 0 ∧ Cause.align ≠ .preempt ∧ Cause.align ≠ .timer ∧
    ((onThread { modeM := true }).ctx 0 0).modeM = true ∧ (onThread { modeM := true }).drained (.thread 0 0) = true ∧
    ((handled { modeH := true }).ctx 0 0).modeH = true ∧ (handled { modeH := true }).drained (.thread 0 0) = true := by decide
theorem witness_transferRecord : (⟨.br, 4, 0x1FFFC, true, 2⟩ : Xfer).slots ≤ 2 ∧ (0x1FFFC : DWord).toNat < 2 ^ 17 ∧
    (0x1FFFC : DWord).toNat % 4 = 0 := by decide
/-- A handler about to return, with the transfer given in `tstate`. -/
def returning (x : Option Xfer) (rev : Bool) : State :=
  onThread { modeH := true, tpc := 16, tstate := packXfer x rev, prog := { pc := 8 } }
theorem witness_handlerReturn : Stands (returning none false) 1 .any ∧ ((returning none false).ctx 0 0).modeM = false ∧
    ((returning none false).ctx 0 0).modeH = true ∧ ((returning none false).ctx 0 0).tstate.toNat / 2 ^ 19 % 4 ≠ 3 ∧
    ((returning none false).ctx 0 0).tstate.toNat / 2 ^ 21 % 4 ≠ 3 ∧ ((returning none false).ctx 0 0).tstate.getLsbD 23 = false ∧
    (∀ b ∈ [true, false], ∀ n ∈ [0, 1], unpackXfer ((returning (some ⟨.br, 8, 0x100, b, n⟩) false).ctx 0 0).tstate = some ⟨.br, 8, 0x100, b, n⟩) ∧
    unpackXfer ((returning none false).ctx 0 0).tstate = none ∧ ((returning none false).ctx 0 0).asideH.order = [] ∧
    ((returning none true).ctx 0 0).tstate.getLsbD 23 ≠ ((returning none true).ctx 0 0).modeRev ∧
    (0x180000 : DWord).toNat / 2 ^ 19 % 4 = 3 ∧ (0x600000 : DWord).toNat / 2 ^ 21 % 4 = 3 := by decide
/-- A thread about to return from level M, with the transfer given in `mstate` and the mode given in `mmode`. -/
def leavingM (x : Option Xfer) (m : DWord) : State :=
  onThread { modeM := true, mpc := 16, mmode := m, mstate := packXfer x false, prog := { pc := 8 } }
theorem witness_monitorReturn : Stands (leavingM none 2) 1 .any ∧ ((leavingM none 2).ctx 0 0).modeM = true ∧
    ((leavingM none 2).ctx 0 0).mstate.toNat / 2 ^ 19 % 4 ≠ 3 ∧ ((leavingM none 2).ctx 0 0).mstate.toNat / 2 ^ 21 % 4 ≠ 3 ∧
    ((leavingM none 2).ctx 0 0).mmode.getLsbD 0 = ((leavingM none 2).ctx 0 0).modeRev ∧
    ((leavingM none 3).ctx 0 0).mmode.getLsbD 0 ≠ ((leavingM none 3).ctx 0 0).modeRev ∧ unpackXfer ((leavingM none 2).ctx 0 0).mstate = none ∧
    unpackXfer ((leavingM (some ⟨.br, 8, 0x100, true, 0⟩) 2).ctx 0 0).mstate = some ⟨.br, 8, 0x100, true, 0⟩ ∧
    unpackXfer ((leavingM (some ⟨.ret, 8, 0x100, false, 2⟩) 2).ctx 0 0).mstate = some ⟨.ret, 8, 0x100, false, 2⟩ := by decide
theorem witness_exitLink : ∀ f ∈ [true, false],
    let p : Prog := { pc := 12, pend := some ⟨.ret, 8, 0x20000, true, 1⟩ }
    let s := if f then onSlot {} p else onThread { prog := p }
    Stands s 1 .any ∧ (s.prog s.cur).pend = some ⟨.ret, 8, 0x20000, true, 1⟩ ∧ s.cur.isFork = f := by decide
theorem witness_forkedProgramsEnd :
    let s := onSlot {} { pc := 8, trapping := some standing }
    let e := onSlot {} { pc := 8, ending := true }
    let a := onArc { prog := { trapping := some standing } }
    let b := onArc { prog := { ending := true } }
    ((s.slot 0 0).owner = some 0 ∧ (s.slot 0 0).prog.trapping = some standing ∧ s.drained (.vec 0 0) = true) ∧
      ((e.slot 0 0).owner = some 0 ∧ (e.slot 0 0).prog.ending = true ∧ e.drained (.vec 0 0) = true) ∧
      ((a.arc 0).owner = some 0 ∧ (a.arc 0).prog.trapping = some standing ∧ a.drained (.arc 0) = true) ∧
      ((b.arc 0).owner = some 0 ∧ (b.arc 0).prog.ending = true ∧ b.drained (.arc 0) = true) := by decide

-- R98: a misaligned load in a delay slot of a taken branch is reflected with its transfer; the handler runs at `tvec`.
theorem test_reflection : (match exec (.ldW 4 1 0) (handled { prog := { pc := 8, s := [(1, 3)] } }) with
    | .next u => ((u.ctx 0 0).tcause, (u.ctx 0 0).tval, (u.ctx 0 0).tpc, (u.ctx 0 0).prog.pc, (u.ctx 0 0).modeH)
    | _ => (0, 0, 0, 0, false)) = (BitVec.ofNat 64 Cause.align.code, 3, 8, 136, true) := by decide
-- R17: a write of `prio` above 11 traps ILLEGAL, and `mode` cannot be written.
theorem test_mtc_refused : (match exec (.mtc 1 3) (handled { prog := { pc := 8, s := [(1, 12)] } }) with
    | .next u => (u.ctx 0 0).tcause
    | _ => 0) = BitVec.ofNat 64 Cause.illegal.code ∧ (match exec (.mtc 1 7) (handled { prog := { pc := 8 } }) with
    | .next u => (u.ctx 0 0).tcause
    | _ => 0) = BitVec.ofNat 64 Cause.illegal.code := by decide

/-! ### Scratchpad, fork and join, stages, groups, queues (R85–R96, R103–R136, R346, R351–R353) -/

/-- Scratchpad bytes at 0x100 on and at the end, and addresses: aligned, at the last bytes, misaligned, beyond the end. -/
def sSpad : State :=
  withCore { ctxs := [(0, { live := true, prog := { pc := 8, s := [(1, 0x100), (2, 0xBFFF0), (3, 0x101), (4, 0xC0000), (5, 0xBFFFF), (6, 0x120)] } })],
             spad := [(0x100, 0x80), (0x101, 2), (0x107, 0xFF), (0xBFFFF, 7)] }
/-- The same with an `LDL` that has line 2 still to write. -/
def sBusy : State :=
  withCore { ctxs := [(0, { live := true, accs := [{ id := 1, kind := .ldl 0x100 }], prog := { pc := 8, s := [(1, 0x100)] } })] }
theorem witness_scratchpadAccesses : Stands sSpad 1 .any ∧ (∀ n ∈ [1, 2, 3, 4, 5, 6, 7], RegsReady sSpad [srcS (BitVec.ofNat 6 n)]) ∧
    (sSpad.core 0).spad.wf = true ∧ (∀ n ∈ [1, 2, 4, 8, 16], (0x100 % n = 0 ∧ sSpad.lineBusy sSpad.cur 0x100 n = false) ∧
      0xBFFF0 % n = 0 ∧ sSpad.lineBusy sSpad.cur 0xBFFF0 n = false) ∧ 0xBFFF0 + 16 - 1 = 0xBFFFF := by decide
theorem witness_scratchpadChecks : Stands sSpad 1 .any ∧ (∀ n ∈ [2, 4, 8], (sSpad.getS sSpad.cur 3 + BitVec.ofInt 64 0).toNat % n ≠ 0) ∧
    (∀ n ∈ [1, 2, 4, 8], (sSpad.getS sSpad.cur 4).toNat % n = 0 ∧ 0xBFFFF < (sSpad.getS sSpad.cur 4).toNat + n - 1) ∧
    (Stands sBusy 1 .any ∧ RegsReady sBusy [srcS 1, srcS 4]) ∧ sBusy.lineBusy sBusy.cur 0x100 4 = true := by decide
/-- s3 = 0x101 is misaligned for every size, s4 = 0xC0000 beyond the end. -/
theorem witness_wideChecks : Stands sSpad 1 .any ∧ Stands sSpad 2 .any ∧ GuardOn sSpad lw0 ∧
    RegsReady sSpad [srcS 1, srcS 2, srcS 3, srcS 4, srcS 5, srcS lw0.x, srcS 7, srcH 2] ∧
    (∀ n ∈ [4, 8, 16, 32], (sSpad.getS sSpad.cur 3).toNat % n ≠ 0 ∧ (sSpad.getS sSpad.cur 4).toNat % n = 0 ∧
      0xBFFFF < (sSpad.getS sSpad.cur 4).toNat + n - 1 ∧ (sBusy.getS sBusy.cur 1).toNat % n = 0 ∧ sBusy.lineBusy sBusy.cur 0x100 n = true) ∧
    (Stands sBusy 1 .any ∧ Stands sBusy 2 .any ∧ GuardOn sBusy lw0 ∧ RegsReady sBusy [srcS 1, srcS 4, srcS 5, srcS lw0.x, srcH 2]) := by decide
theorem witness_localAtomics : Stands sSpad 2 .any ∧ GuardOn sSpad lw0 ∧ RegsReady sSpad [srcS 1, srcS 2, srcS lw0.x, srcS 7] ∧
    (sSpad.core 0).spad.wf = true ∧ (∀ w ∈ [32, 64], (sSpad.getS sSpad.cur 1).toNat % (w / 8) = 0 ∧
      sSpad.lineBusy sSpad.cur (sSpad.getS sSpad.cur 1).toNat (w / 8) = false) := by decide
theorem witness_handles : (∃ fn : Reg, (fn.toNat, 128, 24, true) ∈ [(0x07, 128, 24, true)]) ∧ Stands sSpad 1 .any ∧ Stands sSpad 2 .any ∧
    GuardOn sSpad lw0 ∧ RegsReady sSpad [srcS 6, srcS 1, srcH 2] ∧ (sSpad.getS sSpad.cur 6 + 0).toNat % 32 = 0 ∧
    sSpad.lineBusy sSpad.cur 0x120 32 = false ∧ (sSpad.core 0).spad.wf = true := by
  refine ⟨⟨7, ?_⟩, ?_⟩ <;> decide

/-- A size-class record of two classes at word 2 of line 0, and one whose classes do not rise at line 1. -/
def sClasses : State :=
  withCore { ctxs := [(0, { live := true, prog := { pc := 8, s := [(1, 8), (2, 100), (3, 101), (4, 136), (5, 201)] } })],
             imemC := [(0, 0x40000000), (2, 0x53430002), (3, 100), (4, 0x800), (5, 200), (6, 0x900),
                       (32, 0x40000000), (34, 0x53430002), (35, 100), (36, 0x800), (37, 100), (38, 0x900)] }
theorem witness_sizeClasses : Stands sClasses 1 .any ∧ RegsReady sClasses [srcS 1, srcS 2, srcS 3, srcS 4, srcS 5, srcS 7] ∧
    ((8 : Nat) < IMem.control.bytes ∧ sClasses.lineKind sClasses.cur 8 = 1 ∧ (sClasses.iword sClasses.cur 8).toNat / 2 ^ 16 = 0x5343 ∧
      (∀ j, j < 1 → (sClasses.iword sClasses.cur (8 + 4 * (2 * j + 1))).toNat < (sClasses.iword sClasses.cur (8 + 4 * (2 * j + 3))).toNat)) ∧
    (sClasses.getS sClasses.cur 2).toNat ≤ (sClasses.iword sClasses.cur (8 + 4 * 1)).toNat ∧
    (sClasses.iword sClasses.cur (8 + 4 * 1)).toNat < (sClasses.getS sClasses.cur 3).toNat ∧
    (∀ j, j < 2 → (sClasses.iword sClasses.cur (8 + 4 * (2 * j + 1))).toNat < (sClasses.getS sClasses.cur 5).toNat) ∧
    ¬ (sClasses.iword sClasses.cur (136 + 4 * 1)).toNat < (sClasses.iword sClasses.cur (136 + 4 * 3)).toNat ∧
    (sClasses.getS sClasses.cur 2).toNat % 128 ≠ 8 := by decide
-- R115: an amount of 101 takes the class of 200, one of 201 takes none.
theorem test_size_classes : after (.selectSize 7 1 2) sClasses 7 = some 0x800 ∧ after (.selectSize 7 1 3) sClasses 7 = some 0x900 ∧
    after (.selectSize 7 1 5) sClasses 7 = some 0xFFFFFFFFFFFFFFFF := by decide

/-- A core whose slots from `n` on are free. -/
def sForks (n : Nat) (v a : ForkState) (arcOwner : Option Nat) : State :=
  withCore { ctxs := [(0, { live := true, forkV := v, forkA := a, prog := { pc := 8, s := [(1, 3), (2, 4)] } })],
             slots := (List.range n).map (fun k => (k, { owner := some 5 })), arc := { owner := arcOwner } }
theorem witness_forks : (sForks 2 .none .none none).cur = .thread 0 0 ∧ Stands (sForks 2 .none .none none) 1 .any ∧
    RegsReady (sForks 2 .none .none none) [srcS 1, srcS 2, srcS 7] ∧ ((sForks 2 .none .none none).slot 0 2).owner = none ∧
    (∀ j, j < 2 → ((sForks 2 .none .none none).slot 0 j).owner ≠ none) ∧
    (∀ k, k < 4 → ((sForks 4 .none .none (some 5)).slot 0 k).owner ≠ none) ∧ ((sForks 4 .none .none (some 5)).arc 0).owner ≠ none ∧
    ((sForks 2 (.ended true) .running none).ctx 0 0).forkV ≠ .none ∧ ((sForks 2 (.ended true) .running none).ctx 0 0).forkA ≠ .none := by
  decide
theorem witness_joins : Stands (sForks 0 (.ended true) .running none) 1 .any ∧ RegsReady (sForks 0 (.ended true) .running none) [srcS 1, srcS 7] ∧
    ((sForks 0 (.ended true) .running none).getS (.thread 0 0) 1).toNat / 2 % 2 = 1 ∧
    4 ≤ ((sForks 0 (.ended true) .running none).getS (.thread 0 0) 2).toNat ∧
    ((sForks 0 (.ended true) (.ended false) none).ctx 0 0).forkA ≠ .running := by decide

/-- Queue 0 from stage 1 to stage 2 with an entry, queue 1 the other way and full; threads 0 and 1 in stage 1. -/
def sStages (st : Option Nat) : State :=
  withCore { ctxs := [(0, { live := true, stage := st, prog := { pc := 8, s := [(1, 1), (2, 2)] } }), (1, { live := true, stage := some 1 })],
             stages := [(1, 0x88), (2, 0x108)], queues := [(0, ⟨1, 2, 2, [9]⟩), (1, ⟨2, 1, 1, []⟩)] }
theorem witness_stageQueues : Stands (sStages (some 1)) 1 .any ∧ RegsReady (sStages (some 1)) [srcS 0, srcS 1, srcS 2, srcS 6, srcS 7] ∧
    (((SMap.get ⟨0, 0, 0, []⟩ ((sStages (some 1)).core 0).queues 0).entries.length : Nat) = 1 ∧
      ((sStages (some 1)).ctx 0 0).stage = some 1) ∧ ¬ ((sStages (some 2)).ctx 0 0).stage = some 1 ∧
    (SMap.get ⟨0, 0, 0, []⟩ ((sStages (some 1)).core 0).queues 0).entries = 9 :: [] ∧
    (SMap.get ⟨0, 0, 0, []⟩ ((sStages (some 1)).core 0).queues 1).entries = [] ∧
    (SMap.get ⟨0, 0, 0, []⟩ ((sStages (some 1)).core 0).queues 1).to_ = 1 ∧ ¬ 2 < ((sStages (some 1)).core 0).queues.length := by decide
theorem witness_stageBalance : Stands (sStages (some 1)) 1 .any ∧ RegsReady (sStages (some 1)) [srcS 3] ∧
    (let k := (sStages (some 1)).core 0
     let occ (st : Nat) : Nat := (k.queues.map (fun e => if e.2.to_ = st then e.2.entries.length else 0)).sum
     occ 2 = 1 ∧ occ 1 = 0 ∧ k.stages.find? (fun e => e.1 == 2) = some (2, 0x108) ∧
      (∀ e ∈ k.queues, e.2.from_ = 2 → e.2.entries.length < e.2.depth) ∧
      2 ≤ (k.ctxs.filter (fun e => e.2.live && e.2.stage == some 1)).length) ∧
    ((sStages (some 1)).ctx 0 0).stage = some 1 ∧ ((sStages (some 1)).ctx 0 0).prog.loops.order = [] ∧ ((sStages none).ctx 0 0).stage = none := by
  decide

/-- Thread 0 with group 3 as given, and group 7 of another thread that has arrived where `far` says so. -/
def sGroup (g : Group) (far : Bool := false) (t : Ctx := {}) : State :=
  { withCore { ctxs := [(0, { t with live := true, prog := { pc := 8, s := [(1, 3), (2, 4096), (3, 7), (4, 4), (5, 5)] } })] } with
    groups := [(3, g), (7, ⟨0, 1, [⟨24, far, false⟩], []⟩)] }
/-- Threads 0 and 24 are members, the second with the arrival given, and 48 is pending and waits. -/
def both (mine other : Bool) : Group := ⟨0, 6, [⟨0, mine, false⟩, ⟨24, other, false⟩], [⟨48, true⟩]⟩
/-- Thread 0 alone is a member; it is pending beside a member; it is pending alone. -/
def alone : Group := ⟨0, 6, [⟨0, false, false⟩], []⟩
def pends : Group := ⟨0, 6, [⟨24, false, false⟩], [⟨0, false⟩]⟩
def last : Group := ⟨0, 6, [], [⟨0, false⟩]⟩
/-- Thread 0 is in four groups, and in none of ids 3 and 7. -/
def sFour : State :=
  let s := sGroup alone
  { s with groups := (7, ⟨0, 1, [⟨24, false, false⟩], []⟩) :: [8, 9, 10, 11].map (fun n => (n, alone)) }
theorem witness_groups : Stands (sGroup alone) 1 .any ∧ RegsReady (sGroup alone) [srcS 1, srcS 2, srcS 3, srcS 4, srcS 6] ∧
    4096 ≤ ((sGroup alone).getS (.thread 0 0) 2).toNat ∧ ((sGroup alone).getS (.thread 0 0) 1).toNat < 4096 ∧
    ((sGroup alone).group 4 = none ∧ ((sGroup alone).groups.filter (fun e => e.2.has 0)).length < 4) ∧
    (sFour.group 3 = none ∧ 4 ≤ (sFour.groups.filter (fun e => e.2.has 0)).length ∧ sFour.group 7 = some ⟨0, 1, [⟨24, false, false⟩], []⟩) ∧
    (∀ b ∈ [true, false], (sGroup alone b).group 7 = some ⟨0, 1, [⟨24, b, false⟩], []⟩ ∧ (⟨0, 1, [⟨24, b, false⟩], []⟩ : Group).has 0 = false) ∧
    ((∀ g ∈ [both false false, alone, pends, last], g.has 0 = true ∧ (sGroup g).group 3 = some g ∧ ((sGroup g).ctx 0 0).accs = []) ∧
      ((sGroup alone false { accs := [{ id := 1, kind := .mark }] }).ctx 0 0).accs ≠ []) ∧
    (pends.isPending 0 = true ∧ (⟨24, false, false⟩ : Member) ∈ pends.members) ∧
    (last.isPending 0 = true ∧ last.members = [] ∧ ∀ m ∈ last.pending, m.tid = 0) ∧
    (∀ b ∈ [true, false], (both false b).isPending 0 = false ∧
      (b = false ↔ ∃ m ∈ (both false b).members.map (fun m => if m.tid = 0 then { m with arrived := true, leaving := true } else m), m.arrived = false)) ∧
    ((both false true).members.filter (fun m => !m.leaving && m.tid != 0) = [⟨24, true, false⟩]) ∧
    (alone.isPending 0 = false ∧ alone.pending = [] ∧ alone.members.filter (fun m => !m.leaving && m.tid != 0) = []) := by decide
theorem witness_groupBarriers : (∀ o ∈ [true, false], Stands (sGroup (both false o)) 1 .any ∧ RegsReady (sGroup (both false o)) [srcS 1, srcS 2, srcS 4, srcS 6] ∧
      (sGroup (both false o)).group 3 = some (both false o) ∧ ((sGroup (both false o)).ctx 0 0).bars = [] ∧ ((sGroup (both false o)).ctx 0 0).accs = [] ∧
      (both false o).isMember 0 = true ∧ (both false o).isPending 0 = false ∧
      (o = false ↔ ∃ m ∈ (both false o).members.map (fun m => if m.tid = 0 ∧ m.leaving = false then { m with arrived := true } else m), m.arrived = false)) ∧
    (sGroup alone).group 4 = none ∧ 4096 ≤ ((sGroup alone).getS (.thread 0 0) 2).toNat ∧
    (∀ r ∈ [true, false], ((sGroup alone false { bars := [⟨3, 6, true, r⟩] }).ctx 0 0).bars.find? (fun b => b.gid == 3) = some ⟨3, 6, true, r⟩) ∧
    (⟨0, 1, [⟨24, false, false⟩], []⟩ : Group).has 0 = false ∧ pends.isPending 0 = true ∧ alone.has 0 = true ∧
    ((sGroup alone false { accs := [{ id := 1, kind := .mark }] }).ctx 0 0).accs ≠ [] := by decide
theorem witness_groupInfo : Stands (sGroup (both true false)) 1 .any ∧ RegsReady (sGroup (both true false)) [srcS 1, srcS 4, srcS 5, srcS 6] ∧
    4 < ((sGroup (both true false)).getS (.thread 0 0) 5).toNat ∧ ((sGroup (both true false)).getS (.thread 0 0) 4).toNat = 4 ∧
    (both true false).members.find? (fun m => m.tid == 0 && !m.leaving) = some ⟨0, true, false⟩ ∧
    ((⟨0, false⟩ : PendMember) ∈ pends.pending ∧ ∀ m ∈ pends.members, m.tid = 0 → m.leaving = true) ∧
    (∀ m ∈ [(⟨0, true, true⟩ : Member), ⟨24, false, false⟩], m.tid = 0 → m.leaving = true) := by decide
-- R126: selector 4 gives the open generation of a member that has not arrived, else the next one, and all ones to a stranger.
theorem test_group_info : after (.grpInfo 6 1 4) (sGroup (both false false)) 6 = some 6 ∧ after (.grpInfo 6 1 4) (sGroup (both true false)) 6 = some 7 ∧
    after (.grpInfo 6 3 4) (sGroup alone) 6 = some 0xFFFFFFFFFFFFFFFF := by decide
-- R124: the last arrival completes the generation, whose number it gets; the leave of the last member frees the entry.
theorem test_last_arrival : after (.grpBar 6 1) (sGroup (both false true)) 6 = some 6 ∧ (match exec (.grpLeave 6 1) (sGroup alone) with
    | .next u => u.group 3
    | _ => some alone) = none := by decide

/-- Two items: `SIG` number 4 of flag 2 and a command of queue 0, number 5, in the state given. -/
def sItems (j : Item) : State :=
  withCore { ctxs := [(0, { live := true, prog := { pc := 8, s := [(1, 2), (2, 5), (3, 64), (4, 6), (5, 4), (6, 1)] } })], nextSeq := 6,
             items := [{ seq := 4, queue := 1, prio := 0, owner := 0, kind := .sig 2 }, j], flagPushed := [(2, 4), (6, 3)], ended := [(1, 7)],
             flagDone := [(5, 9), (6, 3)] }
/-- A copy in queue 0. -/
def sCopy : Item := { seq := 5, queue := 0, prio := 0, owner := 0, kind := .copy 0 }
theorem witness_disposedItems : (sItems sCopy).drained (.thread 0 0) = true ∧ ((sItems sCopy).ctx 0 0).tvec = 0 ∧
    ∀ i ∈ ((sItems sCopy).core 0).items, i.running = false ∧ i.failing = none ∧ i.owner = 0 := by decide
theorem witness_queuePushes : Stands (sItems sCopy) 1 .any ∧ RegsReady (sItems sCopy) [srcS 1, srcS 2, srcS 3, srcS 4, srcS 7] ∧
    63 < ((sItems sCopy).getS (.thread 0 0) 3).toNat ∧ ((sItems sCopy).getS (.thread 0 0) 1).toNat ≤ 63 ∧
    5 < ((sItems sCopy).getS (.thread 0 0) 4).toNat ∧ ((sItems sCopy).getS (.thread 0 0) 2).toNat ≤ 5 ∧
    SMap.get 0 ((sItems sCopy).core 0).flagPushed 2 = 4 ∧ SMap.get 0 ((sItems sCopy).core 0).flagPushed 5 = 0 ∧
    SMap.get 0 ((sItems sCopy).core 0).flagDone 2 < 4 ∧
    (SMap.get 0 ((sItems sCopy).core 0).flagPushed 6 = 3 ∧ 3 ≤ SMap.get 0 ((sItems sCopy).core 0).flagDone 6) ∧
    (∀ i ∈ ((sItems sCopy).core 0).items ++ ((sItems sCopy).core 0).saved, i.seq < ((sItems sCopy).core 0).nextSeq) ∧
    ((sItems sCopy).core 0).items.map (fun i => i.kind) = [.sig 2, .copy 0] ∧
    (¬ 64 ≤ (((sItems sCopy).core 0).items.filter (fun i => i.queue == 5)).length ∧
      ¬ 384 ≤ ((sItems sCopy).ctx 0 0).failed.length + (((sItems sCopy).core 0).items.filter (fun i => i.owner == 0)).length) ∧
    (let s := (sItems sCopy).setCore 0 { (sItems sCopy).core 0 with items := List.replicate 64 sCopy }
     Stands s 1 .any ∧ RegsReady s [srcS 0, srcS 1, srcS 7] ∧ 64 ≤ ((s.core 0).items.filter (fun i => i.queue == 0)).length ∧
      SMap.get 0 (s.core 0).flagPushed (s.getS s.cur 1).toNat ≠ 0) := by decide
theorem witness_engineStatus : RegsReady (sItems sCopy) [srcS 0, srcS 1, srcS 2, srcS 3, srcS 5, srcS 6, srcS 7] ∧ Stands (sItems sCopy) 1 .any ∧
    ((sItems sCopy).getS (.thread 0 0) 2).toNat < ((sItems sCopy).core 0).nextSeq ∧
    (((sItems sCopy).core 0).items ++ ((sItems sCopy).core 0).saved).find? (fun i => i.seq == 5) = some sCopy ∧ sCopy.queue ≤ 5 ∧
    ((sItems sCopy).core 0).ended.find? (fun e => e.1 == 1) = some (1, 7) ∧ (∀ e ∈ ((sItems sCopy).core 0).ended, e.1 ≠ 2) ∧
    (SMap.get {} ((sItems sCopy).core 0).queueStat 5).cause < 256 ∧ (((sItems sCopy).core 0).items.filter (fun i => i.queue == 5)).length < 128 := by
  decide
theorem witness_queueEvents : ((sItems sCopy).away.contains 0 = false ∧ ((sItems sCopy).core 0).eligible sCopy = true ∧
      ((sItems sCopy).core 0).receiveFree sCopy = true ∧ ((sItems sCopy).ctx 0 0).saving = false ∧
      ((sItems sCopy).core 0).engineFree 0 = true ∧ sCopy ∈ ((sItems sCopy).core 0).items ∧
      (∀ l ∈ ((sItems sCopy).core 0).items, l.prio ≤ sCopy.prio ∧ (l.queue = 0 → l = sCopy))) ∧
    (∃ i, ((sItems sCopy).core 0).item (at_ (sItems sCopy) { id := 4 }).target.id = some i ∧ i.kind = .sig 2 ∧ i.failing = none ∧
      ∀ j ∈ ((sItems sCopy).core 0).items ++ ((sItems sCopy).core 0).saved, j.seq < i.seq → False) ∧
    (let d := { sCopy with running := true, finished := true }
     ((sItems d).core 0).item (at_ (sItems d) { id := 5 }).target.id = some d ∧ d.failing = none ∧ d.queue ≤ 5 ∧ ((sItems d).core 0).saved = []) ∧
    (let d := { sCopy with failing := some .xlate }
     ((sItems d).core 0).item (at_ (sItems d) { id := 5 }).target.id = some d ∧ d.queue ≤ 5 ∧ ((sItems d).ctx 0 0).live = true) := by
  refine ⟨by decide, ⟨{ seq := 4, queue := 1, prio := 0, owner := 0, kind := .sig 2 }, by decide⟩, by decide, by decide⟩

/-! ### Vector instructions (R158–R193) -/

/-- A vector program: s1 = 0x400 and s2 = 3; v1 has lanes of every kind; fp64 traps off. -/
def sVec : State :=
  onSlot { v := [(1, 0x7FC000003F800000), (2, 0x3F800000BF800000), (3, 1), (4, 0x100)] }
    { pc := 8, s := [(1, 0x400), (2, 3), (3, 0x401), (4, 0xBFFFC), (5, 256)] }
/-- The same with four long-latency results in flight in the other slots. -/
def sVecBusy : State :=
  let r (n : Nat) : VPend := ⟨true, n, 0, 1020, true, 0, 0, 8, none, none⟩
  { withCore { ctxs := [(0, { live := true, forkV := .running })],
               slots := [(0, { owner := some 0, prog := { pc := 8 } }), (1, { owner := some 0, results := [r 1, r 2, r 3, r 4] })] } with cur := .vec 0 0 }
/-- Word 1 with the guard v3, bit 0. -/
def lwV : LW := LW.ofWord 0x83000000
theorem vecReady_plain (w : Nat) (hw : 0 < w) (xs : List Src) (h : RegsReady sVec xs) : VecReady sVec lw0 w xs :=
  ⟨⟨0, 0, rfl⟩, by decide, by simpa [lw0, LW.ofWord] using h, by decide, by simpa [lw0, LW.ofWord] using hw⟩
theorem vecReady_guarded (w : Nat) (hw : 0 < w) (xs : List Src) (h : RegsReady sVec (xs ++ [srcV 3])) : VecReady sVec lwV w xs :=
  ⟨⟨0, 0, rfl⟩, by decide, h, by decide, by simpa [lwV, LW.ofWord] using hw⟩
theorem witness_integerLanes : (∀ w ∈ [8, 16, 32, 64], VecReady sVec lw0 w [srcV 1 lw0.ta, srcV 2 lw0.tb, srcV 5] ∧
      VecReady sVec lwV w [srcV 1 lwV.ta, srcV 2 lwV.tb, srcV 5]) ∧ (6 : Reg).toNat ≤ 6 := by
  refine ⟨fun w hw => ⟨vecReady_plain w ?_ _ (by decide), vecReady_guarded w ?_ _ (by decide)⟩, by decide⟩ <;>
    (simp at hw; omega)
theorem witness_floatLanes : (∀ w ∈ [16, 32, 64], VecReady sVec lw0 w [srcV 1 lw0.ta, srcV 2 lw0.tb, srcV lw0.x lw0.tc, srcV 5]) ∧
    (sVec.core 0).longResults < 4 ∧
    (VecReady sVecBusy lw0 32 [srcV 1 lw0.ta, srcV 5] ∧ 4 ≤ (sVecBusy.core 0).longResults) ∧ 8 ≤ (8 : Reg).toNat ∧ (11 : Reg).toNat ≤ 11 := by
  refine ⟨fun w hw => vecReady_plain w ?_ _ (by decide), by decide, ⟨⟨⟨0, 0, rfl⟩, by decide, by decide, by decide, by decide⟩, by decide⟩,
    by decide, by decide⟩
  simp at hw; omega
theorem witness_floatSpecialCases : (Exact.mk true 0 0 false).isZero = true ∧ (Exact.mk true 3 0 false).isZero = false ∧ (Exact.mk true 3 0 false).neg = true ∧
    (FpFmt.fp32.decode 0x7FC00000).isNan = true ∧ FpFmt.fp32.decode 0xFF800000 = .inf true ∧
    (∃ p, FpFmt.fp32.decode 0x80000000 = .fin p ∧ p.isZero = true) := by
  refine ⟨by decide, by decide, rfl, by decide, by decide, ⟨_, rfl, by decide⟩⟩
theorem witness_predicates : (∀ w ∈ [16, 32, 64], VecReady sVec lw0 w [srcV 1 lw0.ta, srcV 2 lw0.tb, srcV 5] ∧ lw0.x.toNat < w) ∧
    lw0.y.toNat < 8 ∧ VecReady sVec lw0 32 [srcV 1 lw0.ta, srcS 7] ∧ lw0.y.toNat < 32 ∧ (LW.ofWord 31).y.toNat < 32 := by
  refine ⟨fun w hw => ⟨vecReady_plain w ?_ _ (by decide), ?_⟩, by decide, vecReady_plain 32 (by decide) _ (by decide), by decide, by decide⟩ <;>
    (simp at hw; have : lw0.x.toNat = 0 := by decide) <;> omega
/-- Slot 0 with the result given in flight, due now or later. -/
def sLand (r : VPend) : State :=
  { withCore { ctxs := [(0, { live := true, fte := 1, vEmpty := 32 })], slots := [(0, { owner := some 0, results := [r] })] } with
    target := { id := 5 } }
theorem witness_vectorResultsLand :
    let short (v : Bool) : VPend := ⟨v, 5, 7, 1000, false, 0, 0, 8, none, none⟩
    let long (t : Flags) : VPend := ⟨true, 5, 7, 1000, true, Flags.nv, t, 8, none, none⟩
    (∀ v ∈ [true, false], ((sLand (short v)).slot 0 0).owner = some 0 ∧ ((sLand (short v)).slot 0 0).results = [short v] ∧
      (short v).due ≤ (sLand (short v)).now) ∧
    (∀ t ∈ [0, Flags.nv], ((sLand (long t)).slot 0 0).results.find? (fun r => r.long && r.reg == (sLand (long t)).target.id) = some (long t) ∧
      (long t).due ≤ (sLand (long t)).now ∧ (long t).cells = none ∧
      (((sLand (long t)).slot 0 0).results.filter (fun r => r.long)).getLast? = some (long t)) ∧
    ([long 0, { long 0 with reg := 6 }].filter (fun r => r.long)).getLast? ≠ some (long 0) := by decide
/-- 2^13 and −2^13, 2^−130 and −2^−130 in binary32: far from 0 and near it. -/
theorem witness_transcendentals : (∃ p, FpFmt.fp32.decode 0x46000000 = .fin p ∧ p.isZero = false ∧ p.neg = false ∧ 12 ≤ p.log2) ∧
    (∃ p, FpFmt.fp32.decode 0xC6000000 = .fin p ∧ p.isZero = false ∧ p.neg = true ∧ 12 ≤ p.log2) ∧
    (∃ p, FpFmt.fp32.decode 0x00080000 = .fin p ∧ p.isZero = false ∧ p.neg = false ∧ p.log2 < -128 ∧ Exact.cmp p ⟨false, 1, 0, false⟩ ≠ .eq) ∧
    (∃ p, FpFmt.fp32.decode 0x80080000 = .fin p ∧ p.isZero = false ∧ p.neg = true ∧ p.log2 < -128) ∧
    (∃ p, FpFmt.fp32.decode 0x80000000 = .fin p ∧ p.isZero = true) ∧ FpFmt.fp32.decode 0x7F800000 = .inf false ∧
    FpFmt.fp32.decode 0xFF800000 = .inf true ∧ FpFmt.fp32.decode 0x7FC00000 = .nan false ∧ FpFmt.fp32.decode 0x7F800001 = .nan true := by
  refine ⟨⟨_, rfl, by decide⟩, ⟨_, rfl, by decide⟩, ⟨_, rfl, by decide⟩, ⟨_, rfl, by decide⟩, ⟨_, rfl, by decide⟩, ?_⟩ <;> decide
theorem witness_vectorMoves : VecReady sVec lw0 32 [srcV 1 lw0.ta, srcV 5] ∧ VecReady sVec lw0 32 [srcS 1 lw0.ta, srcV 5] ∧
    VecReady sVec lw0 32 [srcV 1 lw0.ta, srcS 2 lw0.tb, srcV 5] ∧ VecReady sVec lw0 32 [srcV 1 lw0.ta, srcV 2 lw0.tb, srcV 5] ∧
    VecReady sVec lw0 32 [srcV 1 lw0.ta, srcS 2 lw0.tb, srcS 7] ∧ VecReady sVec lw0 32 [srcS 1 lw0.ta, srcS 2 lw0.tb, srcV 5] ∧
    VecReady sVec lw0 64 [srcS 1 lw0.ta, srcV 2 lw0.tb, srcV 5] ∧ (LW.ofWord 16).y.toNat / 2 ≤ Nat.log2 256 ∧
    8192 / 32 ≤ (sVec.getS sVec.cur 5).toNat ∧ ∀ n ∈ [0, 1, 2, 3], (LW.ofWord (BitVec.ofNat 32 (2 * n))).y.toNat / 2 = n := by
  refine ⟨vecReady_plain 32 ?_ _ ?_, vecReady_plain 32 ?_ _ ?_, vecReady_plain 32 ?_ _ ?_, vecReady_plain 32 ?_ _ ?_, vecReady_plain 32 ?_ _ ?_,
    vecReady_plain 32 ?_ _ ?_, vecReady_plain 64 ?_ _ ?_, ?_, ?_, ?_⟩ <;> decide
/-- Word 1 of a conversion from FP32 (code 9), and of one with the scales in v6. -/
def lwCvt : LW := LW.ofWord 9
theorem witness_vectorConversions : lwCvt.y.toNat ≤ 11 ∧ lwCvt.y.toNat ≠ 7 ∧ (1 : Reg).toNat * min (Fmt.vwidth 9) (Fmt.vwidth 10) < max (Fmt.vwidth 9) (Fmt.vwidth 10) ∧
    VecReady sVec lwCvt 32 [srcV 1 lwCvt.ta, srcV 5] ∧ (lw0.g = false ∧ 256 * Fmt.vwidth 0x18 * 3 + 256 * Fmt.vwidth 0x18 ≤ 8192) ∧
    VecReady sVec lw0 32 [srcV 1 lw0.ta, srcV lw0.x lw0.tc, srcV 5] ∧ lw0.x ≠ 5 ∧ lw0.x = 0 ∧
    ((quantBlock 0x18 .rne (List.replicate 32 (FpFmt.fp32.decode 0x7FC00000))).2.2 &&& 0xFF = Flags.nv ∧
      (quantBlock 0x18 .rne (List.replicate 32 (FpFmt.fp32.decode 0x7FC00000))).2.2 &&& 0 = 0) := by
  refine ⟨by decide, by decide, by decide, ⟨⟨0, 0, rfl⟩, by decide, by decide, by decide, by decide⟩, by decide, vecReady_plain 32 (by decide) _ (by decide), by decide, by decide, by decide⟩
theorem witness_vectorReductions : (∀ w ∈ [8, 16, 32, 64], VecReady sVec lw0 w [srcV 1 lw0.ta, srcS 7]) ∧
    VecReady sVec lw0 32 [srcV 1 lw0.ta, srcS 2 lw0.tb, srcV 5] := by
  refine ⟨fun w hw => vecReady_plain w ?_ _ (by decide), vecReady_plain 32 (by decide) _ (by decide)⟩
  simp at hw; omega
/-- v3's element 0 alone enables its lane under the guard of `lwV`; the addresses 0x400, 0x401 and 0xBFFFC are good, misaligned and at the end. -/
theorem witness_vectorMemory : VecReady sVec lwV 32 [srcS 1 lwV.ta, srcV 5] ∧ VecReady sVec lwV 32 [srcS 1 lwV.ta, srcS 2 lwV.tb, srcV 5] ∧
    VecReady sVec lwV 32 [srcS 1 lwV.ta, srcV 4 lwV.tb, srcV 5] ∧ (sVec.core 0).spad.wf = true ∧
    laneEnabled sVec lwV 32 0 = true ∧ laneEnabled sVec lwV 32 1 = false ∧ laneEnabled sVec lwV 32 255 = false ∧
    (sVec.getS sVec.cur 1).toNat % 4 = 0 ∧ (sVec.getS sVec.cur 3).toNat % 4 ≠ 0 ∧ (sVec.getS sVec.cur 4).toNat + 4 - 1 = 0xBFFFF ∧
    laneEnabled sVec lw0 32 1 = true ∧ 0xBFFFF < (sVec.getS sVec.cur 4 + BitVec.ofNat 64 (1 * 4)).toNat + 4 - 1 := by
  refine ⟨vecReady_guarded 32 (by decide) _ (by decide), vecReady_guarded 32 (by decide) _ (by decide), vecReady_guarded 32 (by decide) _ (by decide), by decide, ?_⟩
  decide +kernel

/-! ### Tags, streams, global memory, differentiable regions (R183, R200–R231, R331–R341) -/

/-- Set 1 of the tag table holds lines 1 (unpinned) and 257 (pinned by context 0) of 128 bytes; s1–s3 name lines 1, 257 and 2 of it,
s4 a partition of one set from set 1 at 0, s5 a bad one, s6 one that passes the end. -/
def sTags (order : List Nat) (full : Bool) (quota : DWord) : State :=
  let e (t : Nat) (p : BitVec 24) : TagEntry := { valid := true, sz := 0, tag := t, pinmask := p }
  withCore { ctxs := [(0, { live := true, pinquota := quota,
                            prog := { pc := 8, s := [(1, 128), (2, 0x8080), (3, 256), (4, 1), (5, 0x3000), (6, 0xBFF8000000001), (7, 0x200000000000000)] } })],
             tagSets := [(1, { ways := [(0, e 1 0), (1, e 257 1)] ++ (if full then (List.range 6).map (fun i => (i + 2, e (1000 + i) 2)) else []),
                               order := order })] }
theorem witness_tagTable : Stands (sTags [] false 1) 1 .any ∧
    (∀ n ∈ [1, 2, 3, 4, 5, 6, 7, 8, 9], RegsReady (sTags [] false 1) [srcS (BitVec.ofNat 6 n)]) ∧
    (let t := (sTags [] false 1).tagSet 0 1
     t.find 0 1 = some 0 ∧ t.find 0 257 = some 1 ∧ t.find 0 2 = none ∧ t.invalidWay = some 2 ∧ (t.way 0).pinmask = 0 ∧ (t.way 1).pinmask ≠ 0 ∧
      (t.way 1).pinmask.getLsbD 0 = true) ∧
    (let t := (sTags [1, 0, 2, 3, 4, 5, 6, 7] true 1).tagSet 0 1
     t.invalidWay = none ∧ t.victim = some 0) ∧
    (let t := (sTags [1, 2, 3, 4, 5, 6, 7] true 1).tagSet 0 1
     t.invalidWay = none ∧ t.victim = none) ∧
    (((sTags [] false 1).core 0).pinsOf 0 = 1 ∧ ¬ ((sTags [] false 1).core 0).pinsOf 0 < 1 ∧ ((sTags [] false 2).core 0).pinsOf 0 < 2) ∧
    (0x3000 / 2 ^ 12 % 4 = 3 ∧ 0xBFFFF < 0xBFF8000000001 / 2 ^ 32 % 2 ^ 20 + 2 ^ 0 * 8 * 128 - 1 ∧ 2 ^ 57 ≤ 0x200000000000000) := by decide
-- R203: a lookup that hits gives status 0 with the way's slot; one that misses gives status 1 and the set.
theorem test_tag_lookup : after (.tlook 8 2 4) (sTags [] false 1) 8 = some 0x1900080 ∧
    after (.tlook 8 3 4) (sTags [] false 1) 8 = some 0x0100000001000000 := by decide

/-- Stream register 2 of the program's core: a ring of 1,024 bytes at 0x400 with elements of 4 bytes. -/
def ringOf4 : Ring := ⟨0x400, 1024, 4, true⟩
def sStream (q : Stream) : State :=
  { withCore { ctxs := [(0, { live := true, prog := { pc := 8, s := [(1, 0x400), (2, 0x800400), (3, 0x1000000), (4, 0x440), (5, 0xBFC80), (6, 0x401)] } })],
               streams := [(2, q)] } with target := { unit := 2, id := 7 } }
def claim7 : QClaim := ⟨7, 0, 4, .thread 0 0, 9⟩
theorem witness_streams : (let s := sStream { ring := some ringOf4, arr := 4, claims := [claim7], clm := 4 }
     Stands s 1 .any ∧ (∀ n ∈ [1, 2, 3, 4, 5, 6, 9], RegsReady s [srcS (BitVec.ofNat 6 n)]) ∧ (s.stream 0 2).ring = some ringOf4 ∧ (s.stream 0 2).arr ≠ (s.stream 0 2).rel ∧
      ((s.stream 0 2).claims.filter (fun e => decide (e.owner = s.cur))).length < 16 ∧ (s.stream 0 3).ring = none ∧
      (s.stream s.target.core s.target.unit).claims.find? (fun e => e.id == s.target.id) = some claim7 ∧ claim7.start + claim7.len ≤ 4 ∧
      claim7.reg < 64) ∧
    (let s := sStream { ring := some ringOf4, claims := List.replicate 16 claim7, clm := 64 }
     16 ≤ ((s.stream 0 2).claims.filter (fun e => decide (e.owner = s.cur))).length) ∧
    (0x800400 < 2 ^ 24 ∧ 0x800400 / 2 ^ 20 % 2 = 0 ∧ 0x800400 % 2 ^ 20 % 128 = 0) ∧ 2 ^ 24 ≤ 0x1000000 ∧ 0x400 % 128 = 0 ∧ 0x440 % 128 ≠ 0 ∧
    0xBFFFF < 0xBFC80 + 0x400 - 1 ∧ 0xBFC00 + 0x400 - 1 = 0xBFFFF := by decide
/-- A vector program, with stream register 2 as given. -/
def sVldq (q : Stream) : State :=
  { withCore { ctxs := [(0, { live := true, forkV := .running })], slots := [(0, { owner := some 0, prog := { pc := 8 } })],
               streams := [(2, q)] } with cur := .vec 0 0 }
theorem witness_vectorStream : (∀ n ∈ [1023, 1024], VecReady (sVldq { ring := some ringOf4, arr := n }) lw0 32 [srcV 5]) ∧
    VecReady (sVldq { ring := some { ringOf4 with size := 896 } }) lw0 32 [srcV 5] ∧ 1024 ≤ ringOf4.size ∧
    ((sVldq { ring := some ringOf4, arr := 1024 }).stream 0 2).clm + 1024 ≤ ((sVldq { ring := some ringOf4, arr := 1024 }).stream 0 2).arr := by
  refine ⟨fun n hn => ⟨⟨0, 0, rfl⟩, ?_, ?_, ?_, ?_⟩, ⟨⟨0, 0, rfl⟩, ?_, ?_, ?_, ?_⟩, ?_, ?_⟩ <;> first | decide | (revert n; decide)

/-- Page tables at 0x10000 to 0x40000 that map page 1 of the address space to physical page 5, readable and writable. -/
def sTables : State :=
  { withCore { ctxs := [(0, { live := true })], ptRoot := some 0x10000 } with
    hbm := [(0x10000, 1), (0x10002, 2), (0x20000, 1), (0x20002, 3), (0x30000, 1), (0x30002, 4), (0x40008, 15), (0x40009, 0x24), (0x4000C, 5)] }
theorem witness_walk : (sTables.core 0).ptRoot = some 0x10000 ∧
    (let va := 0x12345
     (0x10000 + va / 2 ^ 39 % 2 ^ 18 * 8 + 8 ≤ 0xC000000000 ∧ Memory.readN sTables.hbm 0x10000 8 = 0x20001) ∧
      Memory.readN sTables.hbm (0x20000 + va / 2 ^ 30 % 2 ^ 9 * 8) 8 = 0x30001 ∧ Memory.readN sTables.hbm (0x30000 + va / 2 ^ 21 % 2 ^ 9 * 8) 8 = 0x40001 ∧
      Memory.readN sTables.hbm (0x40000 + va / 2 ^ 16 % 2 ^ 5 * 8) 8 = 0x50000240F) ∧
    (∀ e ∈ [0x20001, 0x30001, 0x40001], e % 4 = 1 ∧ e / 4 % 2 ^ 6 = 0 ∧ e < 2 ^ 48 ∧ e / 2 ^ 8 % 16 = 0) ∧ 0x50000240F % 4 = 3 ∧
    (⟨0x10000, 65536, 0x50000240F⟩ : Page).ok = true ∧ ¬ 0xC000000000 + 0 + 8 ≤ 0xC000000000 ∧
    (0 % 2 = 0 ∧ 3 % 4 = 3) ∧ (0x20005 % 4 = 1 ∧ 0x20005 / 4 % 2 ^ 6 ≠ 0) ∧ (0x20101 % 4 = 1 ∧ 0x20101 / 2 ^ 8 % 2 ^ 4 ≠ 0) := by decide
/-- The same tables with another entry of level 2, or of level 3. -/
def sLeaf2 (e : Nat) : State := { sTables with hbm := Memory.writeN sTables.hbm 0x20000 8 e }
def sLeaf3 (e : Nat) : State := { sTables with hbm := Memory.writeN sTables.hbm 0x30000 8 e }
-- R213 to R216: leaves of 1 GiB and 2 MiB; one misplaced, one at a reserved bit, and entries that are broken fault.
theorem test_leaves : (sLeaf2 0x40000000240F).walk 0 0x12345 = .page ⟨0, 1073741824, 0x40000000240F⟩ ∧
    (sLeaf3 0x200000240F).walk 0 0x212345 = .fault ∧ (sLeaf3 0x200000240F).walk 0 0x12345 = .page ⟨0, 2097152, 0x200000240F⟩ ∧
    (sLeaf3 0x210000240F).walk 0 0x12345 = .fault ∧ (sLeaf2 0x40000000241F).walk 0 0x12345 = .fault ∧ (sLeaf2 0x30101).walk 0 0x12345 = .fault ∧
    (sLeaf3 0x40005).walk 0 0x12345 = .fault := by decide +kernel
-- R213: the walk of address 0x12345 ends in that page, and an address of the next page is not mapped.
theorem test_walk : sTables.walk 0 0x12345 = .page ⟨0x10000, 65536, 0x50000240F⟩ ∧ sTables.walk 0 0x22345 = .fault := by decide

/-- Cached pages: page 1 is plain, page 2 a D page of FP32 with its cells, page 3 for the tape, page 4 without permissions. -/
def tlbs4 : List TlbEntry :=
  [⟨0, 0x10000, 65536, 0x50000240F, 0⟩, ⟨0, 0x20000, 65536, 0x60010240F, 0⟩, ⟨0, 0x100000000040000, 65536, 0x700004C0F, 0⟩,
   ⟨0, 0x100000000050000, 65536, 0x800004C0F, 0⟩, ⟨0, 0x30000, 65536, 0x90000240F, 0⟩, ⟨0, 0x40000, 65536, 0xA00002403, 0⟩]
def sGlobal (t : Ctx) : State :=
  { withCore { ctxs := [(0, { t with live := true, prog := { pc := 8, s := [(1, 0x10000), (2, 0x20000), (3, 0x40000), (4, 0x10002), (5, 0x50000), (6, 0x200000000000000), (7, 0x80), (8, 0x10), (9, 0xBFFF0), (11, 0x20002), (12, 6)] } })] } with
    tlbs := [(0, tlbs4)] }
def pPlain : Page := ⟨0x10000, 65536, 0x50000240F⟩
def pD : Page := ⟨0x20000, 65536, 0x60010240F⟩
def pCell : Page := ⟨0x100000000040000, 65536, 0x700004C0F⟩
theorem witness_translation : tlbFind (SMap.get [] (sGlobal {}).tlbs (SMap.get 0 (sGlobal {}).remap 0)) ((sGlobal {}).core 0).asid 0x12345 = some ⟨0, 0x10000, 65536, 0x50000240F, 0⟩ ∧
    (∀ e ∈ tlbs4, ¬ (e.asid = 0 ∧ e.base ≤ 0x50000 ∧ 0x50000 < e.base + e.size)) ∧ (sGlobal {}).walk 0 0x50000 = .fault := by decide
theorem witness_globalAccesses : Stands (sGlobal {}) 1 .any ∧ Stands (sGlobal {}) 2 .any ∧ GuardOn (sGlobal {}) lw0 ∧
    (∀ n ∈ [1, 2, 3, 4, 5, 6, 7, 8, 9, 10], RegsReady (sGlobal {}) [srcS (BitVec.ofNat 6 n)]) ∧
    ((fresh (sGlobal {})).xlate 0 0x10000 true true = .page pPlain (fresh (sGlobal {})) ∧ pPlain.geom = 0 ∧ pPlain.leaf.testBit 20 = false) ∧
    ((fresh (sGlobal {})).xlate 0 0x20000 true true = .page pD (fresh (sGlobal {})) ∧ pD.leaf.testBit 20 = true) ∧
    (fresh (sGlobal {})).xlate 0 0x40000 true false = .trap .prot 0x40000 ∧ 0x10002 % 4 ≠ 0 ∧ 2 ^ 57 ≤ 0x200000000000000 ∧
    (sGlobal {}).admits (.thread 0 0) true true [0x50000] = true ∧ (sGlobal {}).admits (.thread 0 0) true false [] = true ∧
    (sGlobal { accs := (List.range 32).map fun i => { id := i, group := i, kind := .mark, isLd := true } }).admits (.thread 0 0) true false [] = false ∧
    (0x10000 % 128 = 0 ∧ 0x80 % 128 = 0 ∧ 0x80 + 127 ≤ 0xBFFFF ∧ 0x10 % 128 ≠ 0 ∧ (sGlobal {}).lineBusy (.thread 0 0) 0x80 128 = false) ∧
    ((1 : BitVec 24).toNat % 4 ≠ 0 ∧ (4 : BitVec 24).toNat % 4 = 0) ∧
    (∃ e ∈ ((sGlobal { accs := [{ id := 1, kind := .mark, isLd := true }] }).ctx 0 0).accs, e.done = false ∧ e.isPlainStore = false) := by decide

/-- An access of thread 0 that may perform, as the target of an event. -/
def sPerform (k : AccKind) : State :=
  { withCore { ctxs := [(0, { live := true, accs := [{ id := 1, kind := k, pa := 0x50000, isLd := true, isSt := true }], prog := { sEmpty := 16 } })] } with
    hbm := [(0x50000, 7), (0x50003, 0x80)], target := { id := 1 } }
theorem witness_globalPerforms : (∀ k ∈ [AccKind.ldg 4 4, .ldg 4 8, .ldl 0x80, .mark, .stg 4 9, .stl (List.replicate 128 1),
      .gamo 4 4 0 5 0 .rne 0 false false, .gamo 4 5 9 5 7 .rne 0 true true],
      (sPerform k).performable = some { id := 1, kind := k, pa := 0x50000, isLd := true, isSt := true } ∧ ((sPerform k).ctx 0 0).prog.hold = none) ∧
    (sPerform .mark).hbm.wf = true ∧ (∀ op ∈ [0, 1, 2, 3, 4, 5, 6, 7, 8, 9], op ≤ 9) ∧
    (let s := sPerform (.line 0x80 (List.replicate 128 1))
     let a : Acc := { id := 1, kind := .line 0x80 (List.replicate 128 1), pa := 0x50000, isLd := true, isSt := true, performed := true }
     let t := s.setCtx 0 0 { s.ctx 0 0 with accs := [a] }
     (t.ctx 0 0).accs.find? (fun b => b.id == t.target.id) = some a ∧ a.done = false ∧ (t.core 0).spad.wf = true) := by decide
-- R89: `LDG.W` gives the word at the address sign-extended; R229: `GAMO` gives back the old value.
theorem test_load_performs : (match exec .loadPerform (sPerform (.ldg 4 4)) with
    | .next u => ((u.prog (.thread 0 0)).getS 4, (u.prog (.thread 0 0)).isEmptyS 4)
    | _ => (0, true)) = (0xFFFFFFFF80000007, false) := by decide

theorem witness_fences : (∀ e ∈ ((sGlobal {}).ctx 0 0).accs, e.done = true) ∧
    (let a : Acc := { id := 1, kind := .stg 4 9, isSt := true }
     a.done = false ∧ a.isPlainStore = true ∧ a.left = none ∧ ((sGlobal { accs := [a] }).ctx 0 0).accs = [a]) ∧
    (let s := (sGlobal { accs := [{ id := 1, kind := .ldl 0x80 }] })
     s.lineBusy (.thread 0 0) 0x80 128 = true) := by decide
theorem witness_modesAndTape : Stands (sGlobal {}) 1 .any ∧ ((sGlobal {}).ctx 0 0).accs = [] ∧ ((sGlobal {}).core 0).items = [] ∧
    RegsReady (sGlobal {}) [srcS 1, srcS 2, srcS 4, srcS 6] ∧ (0x10002 % 16 ≠ 0 ∧ 0x10000 % 16 = 0 ∧ 2 ^ 56 ≤ 0x200000000000000 ∧ 0x10000 < 0x20000) ∧
    (∃ i ∈ ((sItems { sCopy with dpage := true }).core 0).items, i.owner = 0 ∧ i.dpage = true) ∧
    (let a : Acc := { id := 1, kind := .tapeWrite [0x70000] [], isSt := true }
     ((sGlobal { accs := [a] }).ctx 0 0).accs = [a] ∧ a.done = false ∧ a.performed = false) := by decide
/-- A thread with a tape from 0x30000 to the pointer given, whose last record is of the kind given and of the place 0x20000. -/
def sTape (rev : Bool) (ptr : DWord) (lim : DWord) (t : Ctx := {}) : State :=
  let s := sGlobal { t with modeRev := rev, tapebase := 0x30000, tapeptr := ptr, tapelim := lim }
  { s with hbm := [(0x90000, 0x55), (0x9000A, 2), (0x9000F, 0x10), (0x9008A, 2), (0x9008F, 0x30)] }
def sRev : State := sTape true 0x30010 0x30100
def sRevLine : State := sTape true 0x30090 0x30100
/-- Thirty-two entries in the load queue and in the store queue. -/
def fullQueues : List Acc := (List.range 32).map fun i => { id := i, group := i, kind := .mark, isLd := true, isSt := true, performed := true }
theorem witness_adjointForward : Stands (sTape false 0x30010 0x30100) 1 .any ∧
    RegsReady (sTape false 0x30010 0x30100) [srcS 2, srcS 7, srcS 10] ∧
    (let s := sTape false 0x30010 0x30100
     ((fresh s).xlate 0 0x20000 false true = .page pD (fresh s) ∧ pD.geom = 0 ∧ pD.d = true ∧ 0x20000 % 128 = 0) ∧
      State.xlateRange 0 0x3001F false true tapePageBad 4 (fresh s) 0x30010 = .pages [⟨0x30000, 65536, 0x90000240F⟩] (fresh s) ∧
      State.xlateRange 0 0x3009F false true tapePageBad 4 (fresh s) 0x30010 = .pages [⟨0x30000, 65536, 0x90000240F⟩] (fresh s) ∧
      (0x30010 + 16 ≤ 0x30100 ∧ 0x30010 + 144 ≤ 0x30100 ∧ 0x30010 < 0x30010 + 16) ∧
      s.admits (.thread 0 0) false true [pD.pa 0x20000] = true ∧ s.lineBusy (.thread 0 0) 0x80 128 = false) ∧
    (sTape false 0x30010 0x30100 { accs := fullQueues }).admits (.thread 0 0) false true [pD.pa 0x20000] = false := by decide +kernel
theorem witness_adjointReverse : Stands sRev 1 .any ∧ RegsReady sRev [srcS 2, srcS 10, srcS 12] ∧ RegsReady sRevLine [srcS 2, srcS 7] ∧
    (∀ s ∈ [sRev, sRevLine], (fresh s).xlate 0 0x20000 true false = .page pD (fresh s) ∧ (fresh s).xlate 0 0x20000 false true = .page pD (fresh s) ∧
      (fresh s).xlate 0 (2 ^ 56 + 0x20000 / 4 * 8) true true = .page pCell (fresh s) ∧
      s.admits (.thread 0 0) false true ((List.range 32).map fun i => 0x70000 + 8 * i) = true) ∧
    (Fmt.width pD.fmt / 8 = 4 ∧ pD.geom = 0 ∧ pD.d = true) ∧
    (State.xlateRange 0 0x3000F true false (fun _ => none) 4 (fresh sRev) 0x30000 = .pages [⟨0x30000, 65536, 0x90000240F⟩] (fresh sRev) ∧
      State.xlateRange 0 0x3008F true false (fun _ => none) 4 (fresh sRevLine) 0x30000 = .pages [⟨0x30000, 65536, 0x90000240F⟩] (fresh sRevLine)) ∧
    (Memory.readN sRev.hbm 0x90008 8 / 2 ^ 60 = 1 ∧ Memory.readN sRev.hbm 0x90008 8 % 2 ^ 57 = 0x20000 ∧ 0x20000 ≠ 0x20004) ∧
    (Memory.readN sRevLine.hbm 0x90088 8 / 2 ^ 60 = 3 ∧ Memory.readN sRevLine.hbm 0x90088 8 % 2 ^ 57 = 0x20000) ∧
    ((sRev.ctx 0 0).accs = [] ∧ (∀ i < 9, sRevLine.requestHeld 0 (0x90000 + 16 * i) = false)) ∧
    (let s := sTape true 0x30000 0x30100
     (s.ctx 0 0).tapeptr.toNat - (s.ctx 0 0).tapebase.toNat < 16) ∧
    (∃ e ∈ ((sTape true 0x30010 0x30100 { accs := [{ id := 1, kind := .mark, isLd := true }] }).ctx 0 0).accs, e.performed = false ∧ e.isLd = true) ∧
    ((sTape true 0x30010 0x30100 { accs := fullQueues }).admits (.thread 0 0) false true [0x70000] = false) ∧
    ((sRev.ctx 0 0).fte = 0 ∧ ((sTape true 0x30010 0x30100 { fte := 1 }).ctx 0 0).fte &&& 0xFF ≠ 0) := by decide +kernel
theorem witness_adjointInstructions : RegsReady sRev [srcS 1, srcS 2, srcS 6, srcS 8, srcS 11, srcS 12, srcS 13] ∧
    ((fresh sRev).xlate 0 0x10000 true false = .page pPlain (fresh sRev) ∧ pPlain.d = false ∧ 2 ^ 56 ≤ 0x200000000000000 ∧ 2 ^ 32 < 0x200000000000000) ∧
    ((fresh sRev).xlate 0 (2 ^ 56 + 0x20000 / 4 * 8) true false = .page pCell (fresh sRev) ∧ (fresh sRev).xlate 0 (2 ^ 56 + 0x20000 / 4 * 8) false true = .page pCell (fresh sRev)) ∧
    (sRev.admits (.thread 0 0) true false [] = true ∧ sRev.admits (.thread 0 0) false true [] = true ∧
      (sTape true 0x30010 0x30100 { accs := fullQueues }).admits (.thread 0 0) true false [] = false) ∧
    (0x20002 % 4 ≠ 0 ∧ (0x20000 + 6) % 4 ≠ 0 ∧ (0x20000 + 0x10) % 4 = 0 ∧ 0x20000 + 0x10 - 1 < 0x20000 + 65536 ∧
      2 ^ 56 + (0x20000 + 0x10 - 1) / 4 * 8 + 7 < 0x100000000040000 + 65536) ∧
    (∃ rs m s3, clrCheck 0 0x20000 0x2000F 2 (fresh sRev) 0x20000 = .runs rs m s3) := by
  refine ⟨by decide, by decide, by decide, by decide +kernel, by decide, ⟨_, _, _, rfl⟩⟩
/-- Thread 0 with the accesses given, of which number 1 is to perform, and what holds it. -/
def sAdj (as : List Acc) (h : Option Hold) (fte : DWord := 0) : State :=
  { withCore { ctxs := [(0, { live := true, fte := fte, accs := as, prog := { hold := h } })], nextAcc := 9 } with
    hbm := [(0x50000, 7), (0x50003, 0x80)], target := { id := 1 } }
def adj (k : AccKind) (tape : List Nat := []) : Acc := { id := 1, kind := k, va := 0x20000, pa := 0x50000, isSt := true, group := 1, tape := tape }
theorem witness_adjointPerforms :
    (∀ k ∈ [AccKind.adjAdd 0 9 0x3F800000, .adjTake 0 9 .rne 0, .restore 5 4 6, .restoreLine (List.replicate 128 1), .adjRead 0 9 .rne 4,
        .adjClear [(0x50000, 2)], .tapeWrite [0x50000, 0x50020] (List.replicate 32 1)], ∀ h ∈ [none, some (.adj 1)],
      (sAdj [adj k] h 16).performable = some (adj k) ∧ ((sAdj [adj k] h 16).ctx 0 0).prog.hold = h ∧ (sAdj [adj k] h 16).hbm.wf = true ∧
        ∀ b ∈ ((sAdj [adj k] h 16).ctx 0 0).accs, b.group = 1 → b.id ≠ 1 → b.done = true) ∧
    (∀ k ∈ [AccKind.restore 5 4 0, .line 0x80 (List.replicate 128 0)], let as := [adj (.adjTake 0 9 .rne 0), { adj k with id := 2 }]
      (sAdj as none).performable = some (adj (.adjTake 0 9 .rne 0)) ∧ ((sAdj as none).ctx 0 0).accs = as ∧ as.Pairwise (fun b b' => b.id ≠ b'.id)) ∧
    (∀ k ∈ [AccKind.stg 4 9, .stg 8 9, .stl (List.replicate 128 1)], (sAdj [adj k [0x90000]] none).performable = some (adj k [0x90000]) ∧
      (adj k [0x90000]).tape ≠ [] ∧ (adj k [0x90000]).id < ((sAdj [adj k [0x90000]] none).core 0).nextAcc) ∧
    ((writeVal 9 .rne true (.fin (fxExact 0 0x80000007))).2 &&& 16 ≠ 0 ∧ (writeVal 9 .rne true (.fin (fxExact 0 7))).2 &&& 16 = 0) ∧
    (0 + Fmt.width 9 / 8 ≤ 128 ∧ (List.replicate 32 1).length = 16 * 2 ∧ 0x50000 + 16 ≤ 0x50020) := by decide +kernel

/-! ### Copies, the matrix engine, the Arcade (R246–R305) -/

/-- A handle register of version 1 without fill: base, scratchpad bit, format, extents and strides of dimensions 1 to 3, tag and OOB mode. -/
def hreg (base : Nat) (s : Bool) (fmt : Nat) (ex : List Nat) (st : List Nat) (swz oob : Nat := 0) : HReg :=
  BitVec.ofNat 256 (base + (if s then 2 ^ 57 else 0) + fmt * 2 ^ 58 + ex.getD 0 1 * 2 ^ 64 + ex.getD 1 1 * 2 ^ 80 + ex.getD 2 1 * 2 ^ 96 +
    ex.getD 3 1 * 2 ^ 112 + st.getD 0 0 * 2 ^ 128 + st.getD 1 0 * 2 ^ 152 + st.getD 2 0 * 2 ^ 176 + swz * 2 ^ 216 + oob * 2 ^ 220 + 2 ^ 248)
/-- A row of 64 bytes at 0x1000 and at 0x2000 of the scratchpad, one at 0x10000 of global memory, a bad handle, a permutation's shape, an
index list, a list of one transfer entry and a scale page's bytes. -/
def sCopies (t : Ctx) : State :=
  let hs : List (Nat × HReg) := [(0, hreg 0x1000 true 1 [64] []), (1, hreg 0x2000 true 1 [64] []), (2, hreg 0x10000 false 1 [64] []), (3, 0),
    (4, hreg 0x3000 true 1 [1, 64] [1]), (5, hreg 0x4000 true 4 [1] []), (6, hreg 0x5000 true 6 [4] []), (7, hreg 0x6000 true 1 [5] []),
    (8, hreg 0x2000 true 1 [32] [] 0 1), (9, hreg 0x50000 false 1 [64] []), (10, hreg 0x40000 false 1 [64] []), (11, hreg 0x20000 false 9 [32] []),
    (12, hreg 0x7000 true 9 [32] []), (13, hreg 0x60010 false 0x18 [32] []), (14, hreg 0x80000 false 0x18 [32] []), (15, hreg 0x7800 true 0x18 [32] [])]
  { withCore { ctxs := [(0, { t with live := true, h := hs, prog := { pc := 8, s := [(1, 16)] } })], streams := [(2, { ring := some ringOf4 })],
               spad := [(0x5001, 0x20), (0x5009, 1), (0x500A, 1), (0x5010, 0x80)] } with
    tlbs := [(0, tlbs4 ++ [⟨0, 0x60000, 65536, 0xB0001600F, 0⟩, ⟨0, 0x80000, 65536, 0xC0002600F, 0⟩, ⟨0, 0x90000, 65536, 0xD0000240F, 0⟩])] }
/-- Handle register n of that state. -/
def hOf (n : Nat) : Handle := handleOf ((sCopies {}).getH (.thread 0 0) (BitVec.ofNat 6 n))
theorem witness_copyPushes : Stands (sCopies {}) 2 .any ∧ GuardOn (sCopies {}) lw0 ∧
    (∀ n ∈ [0, 1, 2, 3, 4, 5, 6, 7], RegsReady (sCopies {}) [srcH (BitVec.ofNat 6 n), srcS 1, srcS 5]) ∧
    (let h (n : Nat) : Handle := handleOf ((sCopies {}).getH (.thread 0 0) (BitVec.ofNat 6 n))
     (∀ n ∈ [0, 1, 2, 4, 5, 6, 7], (h n).ok = true) ∧ (h 3).ok = false ∧ copyRules 0 0 0 0 (h 1) (h 0) (h 1) = true ∧
      copyRules 1 0 0 0 (h 4) (h 0) (h 1) = true ∧ copyRules 5 0 0 0 (h 7) (h 7) (h 5) = true ∧ copyRules 6 0 0 0 (h 4) (h 0) (h 0) = true ∧
      copyRules 7 0 0 16 (handleOf 0) (h 0) (handleOf 0) = true ∧ copyRules 0 0 0 0 (h 5) (h 0) (h 1) = false ∧
      (∀ j ∈ copyJobs 0 0 0 (h 1) (h 0) (h 1), jobFoot (h 0) j = (false, false)) ∧
      walkFoot 0 ((h 2).ranges false true) (pageBound ((h 2).ranges false true)) (fresh (sCopies {})) 0 = .pages [pPlain] (fresh (sCopies {})) ∧
      (fresh (sCopies {})).pinsStall 0 [pPlain] = false ∧ pPlain.d = false ∧ (∀ g ∈ (h 0).spadGranules, g ∉ (h 1).spadGranules)) := by decide +kernel
theorem witness_streamAndHostCopies :
    (let h (n : Nat) : Handle := handleOf ((sCopies {}).getH (.thread 0 0) (BitVec.ofNat 6 n))
     ((h 0).ok = true ∧ ((sCopies {}).stream 0 2).ring = some ringOf4 ∧ ((sCopies {}).stream 0 3).ring = none ∧ (h 0).isMx = false ∧
      (h 0).extent 0 * (h 0).width % 8 = 0) ∧
     ((h 6).s = true ∧ (h 6).fmt = 6 ∧ (h 6).extent 0 % 4 = 0 ∧ 1 ≤ (h 6).extent 0 / 4 ∧ (h 6).extent 1 = 1 ∧ (h 6).extent 2 = 1 ∧ (h 6).extent 3 = 1) ∧
     ¬ (h 0).fmt = 6 ∧ (sCopies {}).tagMismatch 0 (h 6) (h 6).base (h 6).rowBytes = false ∧
     (let dws := (List.range 4).map (fun m => (sCopies {}).readNH 0 [] (h 6) ((h 6).base + 8 * m) 8)
      dws = [0x2000, 0x10100, 0x80, 0] ∧ hostEntryOk dws 0 = true) ∧ hostEntryOk [0x2001, 0x10100, 0x80, 0] 0 = false) := by decide

-- Each check of R249: a state and handles that pass the ones before it and fail it.
theorem witness_copyChecks : GuardOn (sCopies {}) lw0 ∧ (sCopies {}).getS (.thread 0 0) 0 = 0 ∧
    (LW.ofWord 0x83010000).g = true ∧ guardHolds (LW.ofWord 0x83010000) ((sCopies {}).getS (.thread 0 0) (LW.ofWord 0x83010000).greg) = false ∧
    64 ≤ (((withCore { items := List.replicate 64 { sCopy with queue := 1 } }).core 0).items.filter (fun i => i.queue == 1)).length ∧
    (hOf 5).fmt ≠ (hOf 0).fmt ∧ ((hOf 13).fmt = (hOf 15).fmt ∧ (hOf 15).extent 0 % 32 = 0 ∧ (hOf 13).blocks = [0x60010]) ∧
    (let ps := (fresh (sCopies {})).peekPages 0 ((hOf 13).ranges false true)
     (pageAt ps 0x60010).map (fun p => (p.geom, p.base)) = some (1, 0x60000) ∧ (0x60010 - 0x60000) % (4 * (hOf 13).width) ≠ 0) ∧
    ((hOf 8).oob = 1 ∧ (hOf 8).extent 0 < (hOf 1).extent 0 ∧ (∀ m, m < 4 → (hOf 1).ex.getD m 0 ≠ 0)) := by decide +kernel
theorem witness_copyFootprints :
    (let rs := (hOf 9).ranges true false
     (match walkFoot 0 rs (pageBound rs) (fresh (sCopies {})) 0 with
      | .trap c v => (c, v)
      | _ => (.illegal, 0)) = (.xlate, 0x50000) ∧ (match (fresh (sCopies {})).pageOf 0 0x50000 with
      | .trap c v => (c, v)
      | _ => (.illegal, 0)) = (.xlate, 0x50000)) ∧
    (let rs := (hOf 10).ranges true false
     (match walkFoot 0 rs (pageBound rs) (fresh (sCopies {})) 0 with
      | .trap c v => (c, v)
      | _ => (.illegal, 0)) = (.prot, 0x40000) ∧ (match (fresh (sCopies {})).pageOf 0 0x40000 with
      | .page p _ => (p.base, p.r)
      | _ => (0, true)) = (0x40000, false)) ∧
    (let es : List TlbEntry := List.replicate 1536 ⟨0, 0x90000, 65536, 0x90000240F, 1⟩ ++ tlbs4
     let s : State := { sCopies {} with tlbs := [(0, es)] }
     ((fresh s).peekPages 0 ((hOf 2).ranges true false)).length = 1 ∧ (fresh s).pinsStall 0 ((fresh s).peekPages 0 ((hOf 2).ranges true false)) = true) ∧
    (let ps := (fresh (sCopies {})).peekPages 0 ((hOf 14).ranges false true ++ scaleRanges ((fresh (sCopies {})).peekPages 0 ((hOf 14).ranges false true)) (hOf 14) false true)
     badScalePage ps [hOf 15, hOf 14] = some 0x90000) ∧
    (∃ g, g ∈ (hOf 0).spadGranules ∧ g.space = .spad) := by
  refine ⟨by decide +kernel, by decide +kernel, by decide +kernel, by decide +kernel, ⟨⟨.spad, 0x20⟩, by decide⟩⟩
theorem witness_copyOnD : (hOf 11).fmt = (hOf 12).fmt ∧ (hOf 12).ok = true ∧ (hOf 11).ok = true ∧
    (let rs := (hOf 11).ranges false true
     walkFoot 0 rs (pageBound rs) (fresh (sCopies {})) 0 = .pages [pD] (fresh (sCopies {})) ∧ dLines [pD] rs = [0x20000] ∧ pD.d = true ∧
      lowestOnD [pD] rs = some 0x20000) ∧
    (((sCopies {}).ctx 0 0).tapelim.toNat < ((sCopies {}).ctx 0 0).tapeptr.toNat + 144) ∧
    (let s := sCopies { tapebase := 0x30000, tapeptr := 0x30000, tapelim := 0x30100 }
     0x30000 + 144 ≤ (s.ctx 0 0).tapelim.toNat ∧ State.xlateRange 0 (0x30000 + 144 - 1) false true tapePageBad (144 / 65536 + 3) (fresh s) 0x30000 =
      .pages [⟨0x30000, 65536, 0x90000240F⟩] (fresh s)) ∧
    ((match sRevLine.pop (.thread 0 0) 3 0x20000 with
      | .record _ _ _ => true
      | _ => false) = true ∧ (match sRevLine.pop (.thread 0 0) 3 0x20080 with
      | .trap c _ => c
      | _ => .illegal) = .tapemis ∧ (sTape true 0x30090 0x30100 { accs := [{ id := 1, kind := .mark, isLd := true }] }).pop (.thread 0 0) 3 0x20000 = .wait) := by
  decide +kernel

/-- Core 0 with one item, number 5, that the events name. -/
def sMoves (i : Item) (q : Stream) : State :=
  { withCore { ctxs := [(0, { live := true })], items := [i], nextSeq := 6, spad := [(0x1003, 9)], streams := [(2, q)] } with target := { id := 5 } }
/-- A running copy of form f with its handles and what it has read, its footprint on the four pages below. -/
def copyIt (f : Nat) (hd ha hb : HReg) (got : List (Nat × Nat)) : Item :=
  { sCopy with kind := .copy f, running := true, hd := hd, ha := ha, hb := hb, got := (List.range got.length).zip got, pages := [pPlain, pD, pCell] }
/-- The event's choices: a read or a write, and the element that heads the unit. -/
def sStep (i : Item) (what lo : Nat) : State := at_ (sMoves i {}) { id := 5, unit := what, size := lo }
def rowOf (b : Nat) (s : Bool) : HReg := hreg b s 1 [64] []
theorem witness_copyReads :
    (∀ i ∈ [copyIt 0 (rowOf 0x2000 true) (rowOf 0x1000 true) (rowOf 0x1000 true) [],
        copyIt 0 (rowOf 0x2000 true) (rowOf 0x10000 false) (rowOf 0x1000 true) [(7, 0)],
        copyIt 0 (rowOf 0x2000 true) (hreg 0x1000 true 1 [64] [] 1) (rowOf 0x1000 true) [],
        copyIt 0 (rowOf 0x2000 true) (hreg 0x1000 true 1 [0] [] 0 1) (rowOf 0x1000 true) [],
        copyIt 0 (rowOf 0x2000 true) (hreg 0x1000 true 1 [32] [] 0 2) (rowOf 0x1000 true) (List.replicate 32 (7, 0))],
      let n := i.got.length
      (sStep i 0 n).item 0 5 = some i ∧ i.running = true ∧ i.finished = false ∧ i.failing = none ∧ (sStep i 0 n).away.contains 0 = false ∧
        (sStep i 0 n).yields 0 i.owner = false ∧ i.within = 0 ∧
        (blockOf i.jobs i.progress).map (fun e => (e.1.counts, e.1.perm, e.2, (e.1.blk e.2).n)) = some ([64, 1, 1, 1], some 0, 0, 64) ∧
        n < 64 ∧ (blockOf i.jobs i.progress).all (fun e => (e.1.blk e.2).mayRead i n && decide ((e.1.blk e.2).run i n =
            if (handleOf i.ha).s then (if (handleOf i.ha).extent 0 = 0 then 1 else if (handleOf i.ha).oob = 2 then 32 else 16) else 63) &&
          (e.1.blk e.2).pairAt i n == none && ((e.1.blk e.2).readAt i n).all (fun pa => !(sStep i 0 n).readHeld 0 i pa))) ∧
    (let i := copyIt 0 (rowOf 0x2000 true) (rowOf 0x10000 false) (rowOf 0x1000 true) []
     let full : List Acc := (List.range 16).map fun m => { id := m, group := m, kind := .ldg 4 4, pa := 0x50000, isLd := true }
     let s := (sStep i 0 0).setCtx 0 0 { (sStep i 0 0).ctx 0 0 with accs := full }
     s.readHeld 0 i 0x50000 = true ∧ (blockOf i.jobs i.progress).all (fun e => ((e.1.blk e.2).readAt i 0).contains 0x50000) = true) ∧
    (∀ rows ∈ [[], [(0, 1)]], let i := { copyIt 5 (hreg 0x2000 true 1 [4, 2] [4]) (hreg 0x1000 true 1 [4, 2] [4]) (hreg 0x3000 true 4 [2] []) [] with rowIdx := rows }
      (blockOf i.jobs i.progress).map (fun e => (e.1.counts, e.1.perm, e.2)) = some ([4, 2, 1, 1], none, 0) ∧
        i.rowIdx.Pairwise (fun e e' => e.1 < e'.1)) ∧
    (let i := copyIt 0 (hreg 0x2000 true 0x18 [32] []) (hreg 0x1000 true 0x18 [32] []) (hreg 0x1000 true 1 [32] []) []
     (blockOf i.jobs i.progress).map (fun e => (e.1.quant, e.1.perm, (e.1.blk e.2).mx, (e.1.blk e.2).n % 32)) = some (false, some 0, true, 0) ∧
      (blockOf i.jobs i.progress).all (fun e => (List.range 32).all (fun m => (e.1.blk e.2).pairAt i m == none)) = true) := by
  refine ⟨by decide +kernel, by decide +kernel, by decide +kernel, by decide +kernel⟩
theorem witness_copyWrites :
    (∀ p ∈ [(rowOf 0x2000 true, 64), (rowOf 0x10000 false, 64), (hreg 0x2000 true 0x18 [32] [], 32), (hreg 0x2000 true 1 [256] [], 256)],
      let i := copyIt 0 p.1 (hreg 0x1000 true (handleOf p.1).fmt [p.2] []) (hreg 0x1000 true 1 [p.2] []) (List.replicate p.2 (7, 0x7F))
      (sStep i 1 0).item 0 5 = some i ∧ (blockOf i.jobs i.progress).all (fun e => (e.1.blk e.2).mayUnit i 0
          && (List.range (e.1.blk e.2).n).all (fun m => (e.1.blk e.2).pairAt i m == none) && decide (e.1.dst = some (handleOf p.1)) && (e.1.blk e.2).unrecorded i 0 == [] && decide (i.got.length = (e.1.blk e.2).n)
          && decide ((e.1.blk e.2).units i = (List.range (if (handleOf p.1).s && !(handleOf p.1).isMx then p.2 / 16 else 1)).map (16 * ·))) = true ∧
        ((sStep i 1 0).core 0).spad.wf = true ∧ (sStep i 1 0).hbm.wf = true ∧
        (∀ g ∈ (handleOf p.1).spadGranules, ((sStep i 1 0).core 0).mayWrite i g = true)) ∧
    (let l : TapeLine := { va := 0x20000, parts := (List.range 9).map fun m => 0x90000 + 16 * m }
     let i := { copyIt 0 (hreg 0x20000 false 9 [32] []) (hreg 0x1000 true 9 [32] []) (hreg 0x1000 true 9 [32] []) (List.replicate 32 (7, 0)) with lines := [l] }
     (blockOf i.jobs i.progress).all (fun e => (e.1.blk e.2).mayUnit i 0 && (e.1.blk e.2).unrecorded i 0 == [0x20000]) = true ∧
      i.lines.find? (fun l => l.va == 0x20000 && !l.done && !l.parts.isEmpty) = some l ∧ l.parts.length = 9 ∧
      (∀ pa ∈ l.parts, ((sStep i 1 0).core 0).mayWrite i ⟨.global, pa / 128⟩ = true ∧ (sStep i 1 0).requestHeld 0 pa = false)) := by
  decide +kernel
theorem witness_copyMoves :
    (let i := { copyIt 7 0 (rowOf 0x1000 true) 0 (List.replicate 64 (7, 0)) with x := 16 }
     (sStep i 1 0).item 0 5 = some i ∧ (blockOf i.jobs i.progress).all (fun e => (e.1.blk e.2).mayUnit i 0 && decide (e.1.dst = none)) = true ∧
      ((sStep i 1 0).core 0).scaleMem.wf = true ∧ ∀ q ∈ List.range 64, ((sStep i 1 0).core 0).mayWrite i ⟨.scale, (16 + q) / 128⟩ = true) ∧
    (∀ src ∈ [0x20010, 0x10010],
      let i := { copyIt 0 (hreg 0x20000 false 9 [1] []) (hreg src false 9 [1] []) (hreg 0x1000 true 9 [1] []) [(7, 0)] with rev := true }
      (sStep i 1 0).item 0 5 = some i ∧ (blockOf i.jobs i.progress).all (fun e => (e.1.blk e.2).mayUnit i 0 && (e.1.blk e.2).unit i 0 == 1
        && (e.1.blk e.2).unrecorded i 0 == [] && decide ((e.1.blk e.2).dest 0 = .at_ [0, 0, 0, 0])
        && decide (((e.1.blk e.2).source i 0).map (handleOf i.ha).resolve = some (.at_ [0, 0, 0, 0]))) = true ∧
      ((handleOf i.hd).elemAt [0, 0, 0, 0]).1.toNat = 0x20000 ∧ ((handleOf i.ha).elemAt [0, 0, 0, 0]).1.toNat = src ∧
      pageAt i.pages 0x20000 = some pD ∧ (pageAt i.pages src).map Page.d = some (src == 0x20010) ∧
      pageAt i.pages (2 ^ 56 + 0x20000 / 4 * 8) = some pCell ∧ (src = 0x20010 → pageAt i.pages (2 ^ 56 + src / 4 * 8) = some pCell) ∧
      (sStep i 1 0).requestHeld 0 (pCell.pa (2 ^ 56 + src / 4 * 8)) = false ∧ ((sStep i 1 0).core 0).mayWrite i ⟨.global, pCell.pa (2 ^ 56 + src / 4 * 8) / 128⟩ = true ∧
      blockOf i.jobs 1 = none ∧ i.undo = [(pCell.pa (2 ^ 56 + 0x20000 / 4 * 8), List.replicate 8 0)] ∧
      (let r := { i with got := [] }
       (sStep r 0 0).item 0 5 = some r ∧ r.has 0 = false ∧ (sStep r 0 0).yields 0 r.owner = false ∧
        (sStep r 0 0).readHeld 0 r (pCell.pa (2 ^ 56 + 0x20000 / 4 * 8)) = false)) ∧
    (∀ b ∈ [true, false], let i := { copyIt 9 0 0 0 [] with entries := [⟨0x3000, 0x10000, 256, b⟩] }
      (sStep i 0 0).item 0 5 = some i ∧ hostAt i.entries (2048 * i.progress + i.within) = some (⟨0x3000, 0x10000, 256, b⟩, 0) ∧
        0 < min (2048 - i.within) (256 - 0) ∧
        (sStep i 0 0).hbm.wf = true ∧ (sStep i 0 0).hostMem.wf = true ∧ paIn i.pages 0x10000 = 0x50000 ∧
        ((sStep i 0 0).core 0).mayWrite i ⟨.global, 0x50000 / 128⟩ = true ∧ (sStep i 0 0).readHeld 0 i 0x50000 = false) ∧
    (∀ z ∈ [0, 1], ∀ arr ∈ [0, 1022], let i := { copyIt 8 0 (hreg 0x1000 true 1 [4] [] z) 0 [] with y := 2, carry := [(0, 1), (1, 2), (2, 3), (3, 4)] }
      let s := sMoves i { ring := some ringOf4, arr := arr }
      s.item 0 5 = some i ∧ (s.stream 0 i.y.toNat).ring = some ringOf4 ∧ i.within < 2048 ∧ s.yields 0 i.owner = false ∧
        min (128 - arr % 128) (1 * 4 - 0) ≠ 0 ∧ (arr + min (128 - arr % 128) 4 ≤ 0 + ringOf4.size) ∧
        ((s.core 0).tagOf (0x1000 / 2048) = (handleOf i.ha).swz ↔ z = 0) ∧ (s.core 0).mayWrite i ⟨.spad, 8⟩ = true) := by
  refine ⟨by decide +kernel, by decide +kernel, by decide +kernel, by decide +kernel⟩

/-- Tile 0 is context 0's, 1 free, 2 context 5's, 3 held in the area at 0x200000, 4 context 0's and reached by item 5, 5 context 0's and ending. -/
def sTile (hs : List (Nat × HReg)) : State :=
  { withCore { ctxs := [(0, { live := true, h := hs, prog := { pc := 8, s := [(1, 4), (2, 33)] } })], nextSeq := 6,
               items := [{ sCopy with kind := .mxZero 4, writes := [⟨.tile, 4⟩] }],
               tiles := [(0, { owner := .ctx 0, rows := 4, cols := 4 }), (2, { owner := .ctx 5 }), (3, { owner := .area 0x200000 }),
                         (4, { owner := .ctx 0 }), (5, { owner := .ctx 0, ending := true })] } with
    tlbs := [(0, tlbs4 ++ [⟨0, 0x200000, 2097152, 0x200000240F, 0⟩])], target := { unit := 5 } }
theorem witness_tiles : Stands (sTile []) 1 .any ∧ Stands (sTile []) 4 .any ∧ RegsReady (sTile []) [srcS 0, srcS 1, srcS 2, srcS 7] ∧
    (((sTile []).tile 0 0).owner = .ctx 0 ∧ ((sTile []).tile 0 0).ending = false) ∧ ((sTile []).tile 0 1).owner = .free ∧
    ((sTile []).tile 0 2).owner = .ctx 5 ∧ ((sTile []).tile 0 3).owner = .area 0x200000 ∧
    (∃ i ∈ ((sTile []).core 0).items, i.owner = 0 ∧ Granule.mk .tile 4 ∈ i.writes) ∧
    (∀ i ∈ ((sTile []).core 0).items, Granule.mk .tile 0 ∉ i.reads ∧ Granule.mk .tile 0 ∉ i.writes) ∧
    (1 ≤ ((sTile []).getS (.thread 0 0) 1).toNat ∧ ((sTile []).getS (.thread 0 0) 1).toNat ≤ 32) ∧ ¬ ((sTile []).getS (.thread 0 0) 2).toNat ≤ 32 ∧
    ((sTile []).tile 0 5).ending = true ∧ ((sTile []).tile 0 0).rows ≤ 32 := by decide
theorem witness_tileSpills : ∃ ps u, (fresh (sTile [])).spill 0 3 0x200000 = .pages ps u := by
  have h1 : State.xlateRange 0 (tileSlot 0x200000 3 + tileImageLen - 1) false true (fun _ => none) 4 (fresh (sTile [])) (tileSlot 0x200000 3) =
    .pages [⟨0x200000, 2097152, 0x200000240F⟩] (fresh (sTile [])) := by decide
  have h2 : State.xlateRange 0 (0x200000 + 23) true true (fun _ => none) 2 (fresh (sTile [])) (0x200000 + 16) =
    .pages [⟨0x200000, 2097152, 0x200000240F⟩] (fresh (sTile [])) := by decide
  unfold State.spill
  simp only [h1, h2]
  exact ⟨_, _, rfl⟩
/-- Two FP8 operands of 4 × 32 elements in the scratchpad, a global matrix of FP32 and a bad handle. -/
def mxHandles : List (Nat × HReg) :=
  [(0, hreg 0x1000 true 0x0C [32, 4] [32]), (1, hreg 0x2000 true 0x0C [4, 32] [4]), (2, hreg 0x10000 false 9 [4, 4] [16]), (3, 0),
   (4, hreg 0x3000 true 1 [64] []), (5, hreg 0x10000 false 9 [2, 2] [8] 0 1)]
theorem witness_matrixPushes : Stands (sTile mxHandles) 1 .any ∧ Stands (sTile mxHandles) 2 .any ∧ GuardOn (sTile mxHandles) lw0 ∧
    RegsReady (sTile mxHandles) [srcH 0, srcH 1, srcH 2, srcH 3, srcH 4, srcH 5, srcS 7, srcS lw0.x] ∧
    (let h (n : Nat) : Handle := handleOf ((sTile mxHandles).getH (.thread 0 0) (BitVec.ofNat 6 n))
     (h 0).ok = true ∧ (h 1).ok = true ∧ (h 2).ok = true ∧ (h 3).ok = false ∧ pairKc (h 0).fmt (h 1).fmt ≠ none ∧ pairKc (h 0).fmt (h 4).fmt = none ∧
      (h 0).isMx = false ∧ (h 0).extent 2 = 1 ∧ (h 0).extent 3 = 1 ∧ (nestOf ((sTile mxHandles).ctx 0 0).nest 0 (h 0) (h 1)).foot ((sTile mxHandles).core 0) = (false, false) ∧
      ((h 5).oob = 1 ∧ (h 5).extent 1 < 4) ∧
      walkFoot 0 ((h 2).ranges false true) (pageBound ((h 2).ranges false true)) (fresh (sTile mxHandles)) 0 = .pages [pPlain] (fresh (sTile mxHandles)) ∧
      (fresh (sTile mxHandles)).pinsStall 0 [pPlain] = false ∧ lowestOnD [pPlain] ((h 2).ranges false true) = none ∧
      lowestOnD [pD] [⟨0x20010, 0x20020, false, true⟩] = some 0x20010) ∧
    (((sTile mxHandles).tile 0 0).rows ≠ 0 ∧ ((sTile mxHandles).tile 0 4).rows = 0) := by decide
/-- Core 0 with a running matrix command, and the swizzle tag of scratchpad block 2. -/
def sMatrix (i : Item) (z : BitVec 4) : State :=
  { sTile [] with target := { id := 5 } }.setCore 0 { (sTile []).core 0 with items := [i], blockTag := [(2, z)] }
/-- A nest of one step on two FP8 operands, and a write-out of tile 0 to the scratchpad. -/
def nestIt (p : Nat) : Item :=
  { sCopy with kind := .mxGo 0, running := true, progress := p, ha := hreg 0x1000 true 0x0C [32, 4] [32], hb := hreg 0x2000 true 0x0C [4, 32] [4],
               nest := (List.range 6).map (fun l => (l, { w0 := 1 })) }
def outIt (p : Nat) : Item := { sCopy with kind := .mxOut 0, running := true, progress := p, ha := hreg 0x3000 true 9 [4, 4] [16] }
theorem witness_matrixRuns :
    (∀ z ∈ [0, 1], let s := sMatrix (nestIt 0) z
      let n := nestOf (nestIt 0).nest 0 (handleOf (nestIt 0).ha) (handleOf (nestIt 0).hb)
      s.item 0 5 = some (nestIt 0) ∧ s.away.contains 0 = false ∧ n.total = 1 ∧ (s.tile 0 0).rows = 4 ∧ (s.tile 0 0).cols = 4 ∧ (n.step 0).t = 0 ∧
        2 ∈ n.ha.blocksOf (n.aIdx (n.step 0) 4) ∧ (((s.core 0).tagOf 2 ≠ n.ha.swz) ↔ z = 1) ∧ (s.core 0).mayWrite (nestIt 0) ⟨.tile, 0⟩ = true) ∧
    (let s := sMatrix (nestIt 1) 0
     s.item 0 5 = some (nestIt 1) ∧ (nestOf (nestIt 1).nest 0 (handleOf (nestIt 1).ha) (handleOf (nestIt 1).hb)).total ≤ (nestIt 1).progress) ∧
    (let h := handleOf (outIt 0).ha
     let s := sMatrix (outIt 0) 0
     s.item 0 5 = some (outIt 0) ∧ (s.core 0).spad.wf = true ∧ s.hbm.wf = true ∧ (s.tile 0 0).rows = 4 ∧ (sMatrix (outIt 4) 0).item 0 5 = some (outIt 4) ∧
      0 < h.extent 1 ∧ (s.tile 0 0).cols ≤ h.extent 0 ∧ 1 ≤ h.extent 2 ∧ 1 ≤ h.extent 3 ∧ (outIt 0).within < (s.tile 0 0).cols ∧
      (∀ q, q < 4 → (h.elemAt [q, 0, 0, 0]).1.toNat = 0x3000 + 4 * q) ∧
      ∀ q, q < 4 → ∀ g ∈ h.elemGranules (outIt 0).pages [q, 0, 0, 0], (s.core 0).mayWrite (outIt 0) g = true ∧ g.space = .spad) ∧
    (let i : Item := { sCopy with kind := .mxZero 0, running := true }
     (sMatrix i 0).item 0 5 = some i ∧ ((sMatrix i 0).core 0).mayWrite i ⟨.tile, 0⟩ = true) := by
  refine ⟨by decide +kernel, by decide +kernel, by decide +kernel, by decide +kernel⟩
/-- A vector program of context 0, which owns tile 0 of 4 × 4. -/
def sRead : State :=
  { withCore { ctxs := [(0, { live := true, forkV := .running, v := [(5, 0x3F800000)] })], tiles := [(0, { owner := .ctx 0, rows := 4, cols := 4 }), (1, {})],
               slots := [(0, { owner := some 0, prog := { pc := 8, s := [(1, 3), (2, 4)] } })] } with cur := .vec 0 0 }
theorem witness_tileVectors : VecReady sRead lw0 32 [srcS 1 lw0.tb, srcV 5] ∧ VecReady sRead lw0 32 [srcS 2 lw0.tb, srcV 5] ∧
    (sRead.ownerCtx sRead.cur = 0 ∧ (sRead.tile 0 0).owner = .ctx 0 ∧ (sRead.tile 0 0).rows = 4 ∧ (sRead.slot 0 0).results = []) ∧
    (sRead.tile 0 1).owner = .free ∧ (sRead.tile 0 0).ending = false ∧ (sRead.getS sRead.cur 1).toNat < 4 ∧ 4 ≤ (sRead.getS sRead.cur 2).toNat ∧
    (∀ j, j < 4 → (waOfVal (readVal 9 (velem (sRead.getV sRead.cur 5) 32 j)).1).2 &&& (sRead.ctx 0 0).fte.setWidth 8 = 0) := by
  refine ⟨⟨⟨0, 0, rfl⟩, by decide, by decide, by decide, by decide⟩, ⟨⟨0, 0, rfl⟩, by decide, by decide, by decide, by decide⟩, by decide, by decide, by decide, by decide, ?_⟩
  decide +kernel

/-- An Arcade program with registers, an empty register 8 on its way, and a load in flight where given. -/
def sArc (loads : List ALoad) (h : Option Hold) : State :=
  onArc { prog := { pc := 8, hold := h, s := [(1, 4), (2, 8), (3, 0x100), (4, 8193), (5, 0x102), (6, 0xBFFF8), (7, 3)] }, pv := [(0, 0x3F800000), (1, 0x40000000)], loads := loads }
/-- The Arcade at word 2 of line 0, where the words given stand, as starts where they say so. -/
def sBundle (starts : Word) (ws : List (Nat × Word)) (bad : List (IMem × Nat)) : State :=
  { withCore { ctxs := [(0, { live := true, forkA := .running })], arc := { owner := some 0, prog := { pc := 8 } }, imemA := [(0, starts)] ++ ws,
               badWords := bad } with cur := .arc 0 }
/-- The kind of what a fetch gives: a subtree, another instruction, or the cause of the check that failed. -/
def fetchKind (s : State) (pc : DWord) : Sum Bool Cause :=
  match (s.setProg (.arc 0) { pc := pc }).fetch (.arc 0) 0 with
  | .ok (.aspUp _ _ _ _) => .inl true
  | .ok _ => .inl false
  | .bad c _ _ => .inr c
-- A bundle of one subtree; one whose second, at word 6, is the last of it, no subtree, no start, or damaged.
theorem witness_arcadeBundles : Stands (sArc [] none) 4 .any ∧ Stands (sArc [] none) 8 .any ∧ (subtreeOf false 8 0 0 0).last = true ∧ (subtreeOf false 0 0 0 0).last = false ∧
    (fetchKind (sBundle 0x111 [(6, 0x80000008)] []) 24 = .inl true ∧ fetchKind (sBundle 0x31 [(6, 0x01000000)] []) 24 = .inl false ∧
      fetchKind (sBundle 0x111 [(6, 0x80000008)] [(.arcade, 6)]) 24 = .inr .eccu ∧ fetchKind (sBundle 0x001 [(6, 0x80000008)] []) 24 = .inr .illen ∧
      (8 + BitVec.ofNat 64 16 : DWord).toNat / 4 % 32 ≠ 0 ∧ (112 + BitVec.ofNat 64 16 : DWord).toNat / 4 % 32 = 0) ∧
    (((sArc [] none).arc 0).pEmpty 2 = false ∧ ((sArc [⟨8, 4, 0x100, 2, 1000⟩] none).arc 0).pEmpty 8 = true) ∧
    (let r (t : Flags) (d : Nat) : APend := ⟨d, [(2, 0x40400000)], [], t, t, 8, none⟩
     ∀ d ∈ [1000, 1001], ∀ t ∈ [0, Flags.nv], ((onArc { results := [r t d] }).arc 0).results = [r t d] ∧
      ((r t d).due ≤ (onArc { results := [r t d] }).now ↔ d = 1000)) := by
  refine ⟨by decide, by decide, by decide, by decide, by decide +kernel, by decide, by decide⟩
theorem witness_arcadeMoves : Stands (sArc [] none) 1 .any ∧ Stands (sArc [] none) 2 .any ∧ GuardOn (sArc [] none) lw0 ∧
    (∀ n ∈ [0, 1, 2, 3, 4, 5, 6, 7], RegsReady (sArc [] none) [srcS (BitVec.ofNat 6 n)]) ∧
    (4 + 8 ≤ 8192 ∧ ¬ 8193 ≤ 8192 ∧ 0x102 % 4 ≠ 0 ∧ 0x100 % 8 = 0 ∧ ¬ 0xBFFF8 + 4 * 4 ≤ 0xC0000 ∧ 0xBFFF8 + 2 * 4 = 0xC0000) ∧
    (∀ m, m < 4 → ((sArc [] none).arc 0).pEmpty (8 + m) = false) ∧ ((sArc [⟨8, 4, 0x100, 2, 1000⟩] none).arc 0).pEmpty 11 = true ∧
    ((sArc [⟨8, 4, 0x100, 2, 1000⟩] none).arc 0).loads = [⟨8, 4, 0x100, 2, 1000⟩] ∧
    (let s := { sArc [] (some (.aspSt 1000 0 2 0x100 2)) with target := { unit := 28 } }
     (s.arc 0).prog.hold = some (.aspSt 1000 0 2 0x100 2) ∧ (s.core 0).spad.wf = true ∧ 1000 ≤ s.now ∧ (s.arc 0).loads = []) := by decide

/-! ### Flows and messages, digests, saving, waiting, causes (R306–R330, R345–R365, R395) -/

/-- The doublewords of a record of a network program image, and an image at 0x400 (R320). -/
def flowRec (flow land cslot action ports ocslot awin : Nat) (src : Bool) (next : Nat) : List Nat :=
  [flow * 2 ^ 52 + cslot * 2 ^ 48 + action * 2 ^ 45 + ports * 2 ^ 31 + ocslot * 2 ^ 27 + awin * 2 ^ 15 + (if src then 2 ^ 14 else 0), 0,
   land + next * 2 ^ 16, 0]
def image (n : Nat) (rs : List (List Nat)) : Memory :=
  (([0x1574F4C46, n, 0, 0] ++ rs.flatten).zipIdx).foldl (fun m e => m.writeN (0x400 + 8 * e.2) 8 e.1) []
/-- Flow 5 from core 0's landing to a delivery at core 1's. -/
def goodImage (n : Nat) : Memory := image n [flowRec 5 0 15 0 0 1 0 true 1, flowRec 5 1 1 1 16 0 1 false 0xFFF]
def srcEntry : FEntry :=
  { land := 33, lcore := some 0, cslot := 15, action := 0, op := 0, rm := 0, ports := 0, ocslot := 1, aslot := 0, awin := 0, src := true,
    nlo := 0, nlvl := 0, next := some 34, credits := [(.next 34 1, 1)] }
def dstEntry : FEntry :=
  { land := 34, lcore := some 1, cslot := 1, action := 1, op := 0, rm := 0, ports := 16, ocslot := 0, aslot := 0, awin := 1, src := false,
    nlo := 0, nlvl := 0, next := none }
def sFlows (sp : Memory) (fl : SMap FlowRec) (ps : List Pkt) (i : Item) (t : Target) : State :=
  { withCore { ctxs := [(0, { live := true, h := [(1, hreg 0x1000 true 1 [64] []), (3, 0)],
                              prog := { pc := 8, s := [(1, 0x400), (2, 0x410), (3, 0xBFFF0), (4, 0xC0000), (5, 5), (6, 4096), (8, 7)] } })],
               spad := sp, items := [i], nextSeq := 6 } with remap := [(0, 0), (1, 1)], flows := fl, packets := ps, target := t }
def sImage (n : Nat) (fl : SMap FlowRec) : State := sFlows (goodImage n) fl [] sCopy {}
theorem witness_flowImages : Stands (sImage 2 []) 1 .any ∧ RegsReady (sImage 2 []) [srcS 1, srcS 2, srcS 3, srcS 4, srcS 7] ∧
    (let m := ((sImage 2 []).core 0).spad
     (Memory.readN m 0x400 8 = 0x1574F4C46 ∧ Memory.readN m 0x408 8 = 2 ∧ Memory.readN m 0x410 8 = 0 ∧ Memory.readN m 0x418 8 = 0) ∧ 0x400 % 32 = 0 ∧
      0x410 % 32 ≠ 0 ∧ 0xBFFFF < 0xC0000 + 31 ∧ 0x400 + 32 + 32 * 2 - 1 ≤ 0xBFFFF ∧ (sImage 2 []).lineBusy (.thread 0 0) 0x400 96 = false) ∧
    (let s := sImage 2 []
     let rs := (List.range 2).map (fun j => s.flowRecord j ((List.range 4).map fun i => Memory.readN (s.core 0).spad (0x420 + 32 * j + 8 * i) 8))
     ∀ r ∈ rs, (s.flow r.flow).isSome = false ∧ s.fieldsOk r = true ∧ s.keysBad rs r = false ∧ s.slotsBad rs r = false ∧
      shapeOk (entriesFor rs r.flow) = true ∧ s.portDead r.e = false ∧ isPlain (entriesFor rs r.flow) = true ∧ reaches (entriesFor rs r.flow) ((entriesFor rs r.flow).length + 1) r.e = true) ∧
    ((sImage (2 ^ 32 + 2) [(5, { owner := 0, entries := [srcEntry, dstEntry] })]).flow 5 = some { owner := 0, entries := [srcEntry, dstEntry] } ∧
      (sImage (2 ^ 32 + 2) [(5, { owner := 0, entries := [srcEntry, dstEntry] })]).flowIdle 5 = true ∧
      (sImage (2 ^ 32 + 2) [(5, { owner := 0, entries := [srcEntry, { dstEntry with slots := [{ kind := .data, src := 33, dst := 34 }] }] })]).flowIdle 5 = false) ∧
    SMap.wf (sImage 2 [(5, { owner := 0, entries := [srcEntry, dstEntry] })]).flows = true := by decide +kernel
/-- Flow 5 from a peer by port 0 to a delivery at core 1's landing, where a port landing's first entry is fed by no other. -/
def portEntry : FEntry := { dstEntry with land := portLand 0, lcore := none, cslot := 2, action := 0, ports := 0, next := some 34 }
def outEntry : FEntry := { portEntry with src := false, cslot := 3, ports := 0x10, next := none }
theorem witness_flowImagesByPort : portLandOf portEntry.land = some 0 ∧ portEntry.src = false ∧ (∀ x ∈ [portEntry, dstEntry], FTarget.next portEntry.land portEntry.cslot ∉ x.targets) ∧
    (sImage 2 []).upPorts portEntry.land = [] ∧ ({ sImage 2 [] with ports := [(1, { up := true })] } : State).upPorts portEntry.land = [1] ∧
    FTarget.next 34 1 ∈ srcEntry.targets ∧ [srcEntry, dstEntry].find? (fun y => y.is 34 false 1) = some dstEntry ∧ FTarget.port 0 ∈ outEntry.targets ∧
    (let r (b : Bool) : FlowRec := { owner := 0, entries := [srcEntry, dstEntry], leaving := b }
     (∀ b ∈ [true, false], (sImage 2 [(5, r b)]).flow 5 = some (r b)) ∧ (sImage 2 [(5, r true)]).flowIdle 5 = true ∧
      ((sImage 2 [(5, r false)]).core 0).savedCtxs = [] ∧ ((sImage 2 [(5, r false)]).core 0).ctxs.map Prod.fst = [0]) := by decide +kernel
-- R321, R322: the flows of a core whose last thread ends leave it.
theorem test_flows_leave : (((sImage 2 [(5, { owner := 0, entries := [] })]).freeCtx 0 0).flow 5).map (fun r => r.leaving) = some true ∧
    (((sImage 2 [(5, { owner := 0, entries := [] })]).freeCtx 0 7).flow 5).map (fun r => r.leaving) = some false := by decide +kernel
-- R321: a good image is answered 0 and its flow installed; one that names an installed flow is answered 0x02 with the record.
theorem test_flow_load : after (.flowLoad 7 1) (sImage 2 []) 7 = some 0 ∧
    after (.flowLoad 7 1) (sImage 2 [(5, { owner := 0, entries := [] })]) 7 = some 0x0200000000000000 := by decide +kernel

def sUnit (k : Core → Core) : State :=
  let s := sFlows [] [(5, { owner := 0, entries := [srcEntry, { dstEntry with land := 33, lcore := some 0 }] })] [] sCopy {}
  s.setCore 0 (k (s.core 0))
theorem witness_flowCommands : Stands (sUnit id) 1 .any ∧ RegsReady (sUnit id) [srcS 0, srcS 1, srcS 4, srcS 5, srcS 6, srcS 7, srcS 8, srcH 1, srcH 3] ∧
    (let s := sUnit id
     ((∃ r e, s.flow 5 = some r ∧ e ∈ r.entries ∧ e.src = true ∧ e.lcore = some 0) ∧ (∃ r e, s.flow 5 = some r ∧ e ∈ r.entries ∧ e.lcore = some 0 ∧ FTarget.here ∈ e.targets)) ∧
      s.flow 7 = none ∧ ¬ ((s.core 0).items.filter (fun i => i.queue == 5)).length ≥ 64) ∧
    (let h := handleOf ((sUnit id).getH (.thread 0 0) 1)
     h.ok = true ∧ h.s = true ∧ h.isMx = false ∧ 8 ≤ h.width ∧ h.ex.foldl (· * ·) 1 * h.width / 8 = 64 ∧
      walkFoot 0 (h.ranges false true) (pageBound (h.ranges false true)) (fresh (sUnit id)) 0 = .pages [] (fresh (sUnit id)) ∧ lowestOnD [] (h.ranges false true) = none ∧
      (fresh (sUnit id)).pinsStall 0 [] = false) ∧ (handleOf ((sUnit id).getH (.thread 0 0) 3)).ok = false ∧
    (let s := sUnit fun k => { k with overflow := [{ kind := .request, src := 34, dst := 33, slc := 1, tag := 5, mlen := 64 }], nacked := 3 }
     ∃ r, (s.core 0).overflow = [] ++ r :: [] ∧ (r.tag &&& 0) = (5 &&& 0) ∧ r.slc < 256 ∧ r.tag < 2 ^ 16 ∧ r.mlen < 2 ^ 32 ∧ (s.core 0).nacked < 2 ^ 32) := by
  refine ⟨by decide, by decide, ⟨⟨⟨_, srcEntry, rfl, by decide, rfl, rfl⟩, ⟨_, { dstEntry with land := 33, lcore := some 0 }, rfl, by decide, rfl, by decide⟩⟩, by decide, by decide⟩,
    by decide +kernel, by decide, ⟨_, rfl, by decide⟩⟩
/-- Two entries of a COMBINE node, each with a packet. -/
def left : FEntry := { dstEntry with action := 2, cslot := 2, slots := [{ kind := .data, src := 33, dst := 34, data := [1, 2, 3, 4] }], ports := 0, next := some 35 }
def right : FEntry := { left with cslot := 3 }
theorem witness_flowElements : (5 ≤ 5 ∧ 0 < flowElem 2 0) ∧ scanLevels 0 = [] ∧ ([(1, ({} : Chunk))].map Prod.fst = scanLevels 2) ∧
    (let r : FlowRec := { owner := 0, entries := [left, right] }
     r.node left = [left, right] ∧ left.cslot < right.cslot ∧ left.done = false ∧ left.sends = [] ∧ left.frees = [] ∧ r.broken = false) ∧
    (let r : FlowRec := { owner := 0, entries := [left, { right with slots := [] }] }
     { right with slots := [] } ∈ r.node left) ∧
    (let dead_ : FEntry := { right with slots := [], dead := true, via := none }
     let r : FlowRec := { owner := 0, entries := [left, dead_], broken := true, brokenAt := 1 }
     r.node left = [left, dead_] ∧ dead_.done = false ∧ dead_.round < r.rounds ∧ r.fails left = false) ∧
    ((∀ c ∈ [({ data := [1, 2] } : Chunk), { data := [3] }], c.data.length ≤ (1 + 1) * 1) ∧ ∃ c ∈ [({ data := [1, 2] } : Chunk), { data := [3] }], 1 * 1 < c.data.length) := by
  decide
-- R389: the chunk that a dead child still owed its round is offered as failed with LINK, and the round goes on.
theorem test_dead_child : ((({ owner := 0, entries := [left, { right with slots := [], dead := true }], broken := true, brokenAt := 1 } : FlowRec).form 5 left).bind
    (fun r => r.entry 34 false 2)).map (fun e => (e.sends.map (fun y => (y.2.data, y.2.fail == some .link)), e.frees)) =
    some ([([1, 2, 3, 4], true)], [(2, 1)]) := by decide +kernel
theorem witness_flowMoves : ∀ a ∈ [0, 1, 3], ∀ b ∈ [true, false],
    let p : Pkt := { kind := .data, src := 33, dst := 34, data := [1], released := b }
    let e : FEntry := { left with action := a, slots := [p] }
    let r : FlowRec := { owner := 0, entries := [e] }
    (e.action = 0 ∨ e.action = 1 ∨ e.action = 3) ∧ e.src = false ∧ e.done = false ∧ e.slots = p :: [] ∧ e.sends = [] ∧ e.frees = [] ∧
      r.broken = false ∧ r.entry e.land false e.cslot = some e ∧ p.released = b := by decide
/-- Pairs of a maximum and a sum: 1 and 2, a quiet NaN, a signaling one, and the infinities. -/
theorem witness_softmaxPairs :
    (∀ x ∈ [0x3F800000, 0x40000000, 0xFF800000, 0x7F800000], ∀ b ∈ [true, false], FpFmt.fp32.decode x ≠ .nan b) ∧
    FpFmt.fp32.decode 0x7FC00000 = .nan false ∧ FpFmt.fp32.decode 0x7F800001 = .nan true ∧
    FpFmt.fp32.decode (fpMinMax FpFmt.fp32 true 0xFF800000 0xFF800000).1 = .inf true ∧
    FpFmt.fp32.decode (fpMinMax FpFmt.fp32 true 0x7F800000 0x3F800000).1 = .inf false ∧
    FpFmt.fp32.decode (fpMinMax FpFmt.fp32 true 0x3F800000 0x40000000).1 = FpFmt.fp32.decode 0x40000000 ∧
    (match FpFmt.fp32.decode 0x40000000 with
      | .fin _ => True
      | _ => False) ∧
    ((mulVal (FpFmt.fp32.decode 0x3F800000) (FpFmt.fp32.decode 0x3F800000)).map (fun v => v.isNan)) = some false ∧
    mulVal (FpFmt.fp32.decode 0x7F800000) (FpFmt.fp32.decode 0) = none := by
  refine ⟨by decide, by decide, by decide, by decide, by decide, by decide, ?_, by decide, by decide⟩
  exact trivial
/-- A flow from core 0 to core 1's landing with the packets given on their way. -/
def sPackets (ps : List Pkt) (i : Item) (t : Target) (e : FEntry) : State :=
  sFlows [] [(5, { owner := 0, entries := [e, dstEntry] })] ps i t
def data0 : Pkt := { id := 3, kind := .data, src := 33, dst := 34, flow := 5, cslot := 1 }
theorem witness_flowPackets :
    (let s := sPackets [{ data0 with id := 2 }, data0] sCopy { id := 3 } srcEntry
     s.packets = [{ data0 with id := 2 }] ++ data0 :: [] ∧ (∀ o ∈ [{ data0 with id := 2 }], o.id ≠ data0.id) ∧ data0.kind.vc = ({ data0 with id := 2 } : Pkt).kind.vc) ∧
    (let s := sPackets [data0] sCopy { id := 3 } srcEntry
     (∃ r e, s.flow data0.flow = some r ∧ r.entry data0.dst false data0.cslot = some e) ∧ s.target.id = data0.id ∧ s.target.unit = 0) ∧
    (let p : Pkt := { id := 3, kind := .credit, src := 34, dst := 33, flow := 5, cslot := 1, chunk := 1, fromSrc := true, fromSlot := 15 }
     let s := sPackets [p] sCopy { id := 3 } srcEntry
     ∃ r e, s.flow 5 = some r ∧ r.entry p.dst p.fromSrc p.fromSlot = some e) ∧
    (let p : Pkt := { id := 3, kind := .payload, src := 34, dst := 33, lc := 0, peer := 5 }
     (sPackets [p] sCopy { id := 3 } srcEntry).item p.lc p.peer = some sCopy) ∧
    (let i : Item := { sCopy with queue := 5, kind := .flowSend 5, running := true, hd := hreg 0x1000 true 1 [64] [] }
     let s := sPackets [] i { id := 5 } srcEntry
     s.item 0 5 = some i ∧ s.sourceOf 0 5 = some srcEntry ∧ srcEntry.sends = [] ∧ (∀ t ∈ srcEntry.targets, 0 < srcEntry.credit t) ∧
      0 < (handleOf i.hd).totalBytes ∧ (∀ j, j < 4 → (s.core 0).tagOf ((handleOf i.hd).streamAddr j / 2048) = (handleOf i.hd).swz) ∧
      (∃ l o, FTarget.next l o ∈ srcEntry.targets ∧ ({ srcEntry with credits := [] } : FEntry).credit (.next l o) = 0)) := by
  refine ⟨by decide, ⟨⟨_, _, rfl, rfl⟩, by decide⟩, ⟨_, _, rfl, rfl⟩, by decide, by decide +kernel, by decide, by decide, by decide, by decide +kernel, by decide +kernel, ⟨34, 1, by decide, by decide⟩⟩

/-- Two running sends of flow 5 from core 0, numbers 5 and 6, with the number of the send that injected last and a tag on block 2. -/
def sTurns (last tag : Nat) (src : FEntry) : State :=
  let i : Item := { sCopy with queue := 5, kind := .flowSend 5, running := true, hd := hreg 0x1000 true 1 [64] [] }
  let s := sFlows [] [(5, { owner := 0, entries := [src, dstEntry] })] [] i { id := 5 }
  s.setCore 0 { s.core 0 with items := [i, { i with seq := 6 }], lastSend := last, blockTag := [(2, tag)] }
theorem witness_flowPacketsTurns : (∀ n ∈ [4, 5, 6, 9], ((sTurns n 0 srcEntry).item 0 5).isSome = true ∧ (sTurns n 0 srcEntry).away.contains 0 = false ∧
      (sTurns n 0 srcEntry).sourceOf 0 5 = some srcEntry ∧ ((sTurns n 0 srcEntry).core 0).lastSend = n) ∧
    (∀ j ∈ ((sTurns 4 0 srcEntry).core 0).items, j.running = true ∧ j.finished = false ∧ j.failing = none ∧ (sTurns 4 0 srcEntry).mayInject 0 j = true ∧
      (j.seq ≠ 5 → 5 < j.seq)) ∧ (4 < 5 ∧ ¬ 9 < 5 ∧ ¬ 6 < 5 ∧ 6 ≤ 9) ∧ (6 ≤ 6 ∧ 5 ≤ 5 ∧ ¬ 6 ≤ 5 ∧ ¬ 6 < 5) ∧
    (∀ t ∈ srcEntry.targets, 0 < srcEntry.credit t) ∧
    (let e := srcEntry.addCredit (.next 34 1) 2
     e.credit (.next 34 1) = 3 ∧ FTarget.here ≠ .next 34 1) ∧
    ((handleOf (hreg 0x1000 true 1 [64] [])).streamAddr 0 / 2048 = 2 ∧ ((sTurns 4 0 srcEntry).core 0).tagOf 2 = 0 ∧ ((sTurns 4 3 srcEntry).core 0).tagOf 2 ≠ 0) := by
  refine ⟨by decide, by decide, by decide, by decide, by decide, by decide, by decide⟩
-- R322: of two running sends the one after the send that injected last takes the turn.
theorem test_send_turn : (sTurns 4 0 srcEntry).sendTurn 0 = some 5 ∧ (sTurns 5 0 srcEntry).sendTurn 0 = some 6 ∧ (sTurns 6 0 srcEntry).sendTurn 0 = some 5 := by decide

/-- Core 0 with a message item and the packets and posts given. -/
def sMessages (i : Item) (ps : List Pkt) (posts : List Nat) (held_ : List Pkt) : State :=
  let s := sPackets ps i { id := if ps.isEmpty then 5 else 3 } srcEntry
  s.setCore 0 { s.core 0 with posts := posts, overflow := held_ }
def post5 : Item := { sCopy with queue := 5, kind := .msgPost, running := true, x := 0x10000000000, hd := hreg 0x1000 true 1 [64] [] }
def request3 : Pkt := { id := 3, kind := .request, src := 34, dst := 33, lc := 0, slc := 1, tag := 5, mlen := 64, seq := 9 }
theorem witness_messages :
    ((sMessages post5 [request3] [5] []).arrival 3 = some request3 ∧ msgMatch post5.x request3 = true ∧
      ((sMessages post5 [request3] [5] []).core 0).posts.filterMap (fun n => ((sMessages post5 [request3] [5] []).core 0).item n) = [] ++ post5 :: []) ∧
    (((sMessages post5 [request3] [] []).core 0).overflow.length < 32 ∧ 32 ≤ ((sMessages post5 [request3] [] (List.replicate 32 request3)).core 0).overflow.length) ∧
    ((sMessages post5 [] [] [request3]).core 0).item 5 = some post5 ∧ post5.posted = false ∧ ((sMessages post5 [] [] [request3]).core 0).overflow = [] ++ request3 :: [] ∧
    (∀ k ∈ [PktKind.go, .nack], (sMessages post5 [{ request3 with kind := k, seq := 5 }] [] []).arrival 3 = some { request3 with kind := k, seq := 5 } ∧
      (sMessages post5 [{ request3 with kind := k, seq := 5 }] [] []).item 0 5 = some post5) ∧
    (∀ b ∈ [true, false], ((sMessages { post5 with kind := .msgSend, posted := b } [] [] []).core 0).item 5 = some { post5 with kind := .msgSend, posted := b }) ∧
    (let p : Pkt := { request3 with kind := .payload, data := [1, 2] }
     let i := { post5 with posted := true, inbox := [p] }
     ((sMessages i [] [] []).core 0).item 5 = some i ∧ (handleOf i.hd).fmt = 1 ∧ (handleOf i.hd).ex = [64, 1, 1, 1] ∧ (handleOf i.hd).swz = 0 ∧
      (handleOf i.hd).base = 0x1000 ∧ ((sMessages i [] [] []).core 0).mayWrite i ⟨.spad, 32⟩ = true ∧ ((sMessages i [] [] []).core 0).spad.wf = true) ∧
    (let e : FEntry := { dstEntry with lcore := some 0, sends := [(.here, data0)] }
     let i := { post5 with kind := .flowRecv 5, posted := true }
     let s := sPackets [] i { id := 5 } e
     s.item 0 5 = some i ∧ ∃ r, s.flow 5 = some r ∧ r.entries.find? (fun e => e.lcore == some 0 && e.sends.any (fun y => y.1 == .here)) = some e ∧
      e.sends.find? (fun y => y.1 == .here) = some (.here, data0) ∧ ∃ s1, s.deliver 0 i data0 0 = some (s1, true)) ∧
    (let i := { post5 with posted := true, allIn := true }
     ((sMessages i [] [] []).core 0).item 5 = some i ∧ i.finished = false ∧ ((sMessages i [] [] []).core 0).mayWrite i ⟨.spad, i.x.toNat / 2 ^ 44 / 128⟩ = true) := by
  refine ⟨by decide, by decide, by decide, by decide, by decide, by decide, by decide, by decide +kernel, ⟨by decide, _, rfl, by decide, by decide, _, rfl⟩, by decide⟩

theorem witness_messageTurns : (let i : Item := { post5 with kind := .msgSend, posted := true }
     let s := sMessages i [] [] []
     s.away.contains 0 = false ∧ (s.core 0).item 5 = some i ∧ i.running = true ∧ i.finished = false ∧ i.failing = none ∧
      (∀ j ∈ (s.core 0).items, s.mayInject 0 j = true → j.seq = 5) ∧
      let s2 := s.setCore 0 { s.core 0 with items := [i, { i with seq := 6 }], lastSend := 5 }
      s2.mayInject 0 { i with seq := 6 } = true ∧ ¬ (5 : Nat) < 5 ∧ (5 ≤ 5 ∧ ¬ 6 ≤ 5)) ∧
    (let k : Core := { items := [post5, { sCopy with seq := 4, reads := [⟨.spad, 32⟩] }] }
     k.mayWrite post5 ⟨.spad, 32⟩ = true ∧ k.mayWrite { post5 with edges := [⟨.war, 4⟩] } ⟨.spad, 32⟩ = false) ∧
    (let p : Pkt := { request3 with kind := .payload, data := [1, 2], fail := some .eccu, last := true }
     let i := { post5 with posted := true, inbox := [p] }
     i.wrote = [] ∧ (deliverBytes (handleOf i.hd) i p).1 = [(0, 1), (1, 2)] ∧ 0x1000 + 64 ≤ 0xC0000 ∧
      (sMessages i [] [] []).behindLeft 0 (fun _ => false) 0x1000 = false) ∧
    (let i := { post5 with kind := .flowRecv 5, posted := true, hd := hreg 0x1040 true 1 [256] [] }
     let s := sPackets [] i { id := 5 } dstEntry
     let p := { data0 with data := List.replicate 100 1 }
     (s.deliver 0 i data0 0).map Prod.snd = some true ∧ (s.deliver 0 i p 16).map Prod.snd = some false ∧ s.deliver 0 i p 17 = none ∧
      (s.deliver 0 { i with wrote := [0, 16, 32, 64, 80, 96] } p 48).map Prod.snd = some true) := by
  refine ⟨by decide, by decide, by decide, ?_⟩
  decide +kernel

/-- A receive in MX blocks of 32 bytes: a block that a chunk begins waits, unless the chunk is the last, whose part of a block is dropped. -/
theorem witness_blockDeliveries : let i : Item := { post5 with posted := true, hd := hreg 0x1000 true 0x18 [64] [] }
    let p (l : Bool) : Pkt := { request3 with kind := .payload, data := List.replicate 34 1, last := l }
    (handleOf i.hd).isMx = true ∧ (handleOf i.hd).width = 8 ∧ i.carry = [] ∧ ((deliverBytes (handleOf i.hd) i (p false)).1).map Prod.fst = List.range 32 ∧
      (deliverBytes (handleOf i.hd) i (p false)).2 = [(32, 1), (33, 1)] ∧ (deliverBytes (handleOf i.hd) i (p true)).2 = [] ∧
      ((sMessages i [] [] []).deliver 0 i (p true) 0).map Prod.snd = some true := by decide +kernel

/-- A peer's data packet of flow 5 for child slot 2: a header line, then two bytes. -/
def peerBytes : List Byte := bytesOfNat 8 (2 ^ 31 * 2 + 5 * 2 ^ 19 + 4) ++ bytesOfNat 8 (2 ^ 18 + 2) ++ List.replicate 112 0 ++ [7, 8]
/-- A flow from a peer at port 0 and back out to it, and what an event of the port carries. -/
def sPort (r : SMap FlowRec) (t : Target) : State := { sFlows [] r [] sCopy t with ports := [(0, { up := true, rxSeq := 9, grants := [⟨5, 0, 2⟩, ⟨6, 0, 1⟩] })] }
def outFlow : FlowRec := { owner := 0, entries := [portEntry, outEntry, dstEntry] }
theorem witness_portPackets : (let s := sPort [(5, outFlow)] { unit := 1, seq := 9, id := 5, value := 0, size := 2, data := peerBytes }
     s.target.unit = 1 ∧ (s.port s.target.core).up = true ∧ s.target.seq = (s.port s.target.core).rxSeq ∧ (peerPkt s.target.data).flow = 5 ∧
      s.flow 5 = some outFlow ∧ outFlow.entry (portLand 0) false 2 = some portEntry ∧
      outFlow.entries = [portEntry] ++ outEntry :: [dstEntry] ∧ FTarget.port 0 ∈ outEntry.targets ∧ outEntry.ocslot = 0 ∧ FTarget.port 0 ∉ portEntry.targets) ∧
    ((sPort [] { unit := 1, seq := 9 }).flow 5 = none ∧ (sPort [(5, { outFlow with entries := [dstEntry] })] {}).flow 5 = some { outFlow with entries := [dstEntry] } ∧
      ({ outFlow with entries := [dstEntry] } : FlowRec).entry (portLand 0) false 2 = none ∧ ∀ y ∈ [dstEntry], FTarget.port 0 ∉ y.targets) ∧
    (let x : Sent := ⟨0, 3, 1⟩
     let sent : FEntry := { outEntry with sent := [x] }
     let r : FlowRec := { owner := 0, entries := [portEntry, sent] }
     let s := sPort [(5, r)] { unit := 1, seq := 9, id := 5, value := 0, size := 3 }
     s.flow 5 = some r ∧ r.entries = [portEntry] ++ sent :: [] ∧ primary (r.node sent) sent = sent ∧ sent.sent = [] ++ x :: [] ∧ x.port = 0 ∧
      x.chunk = s.target.size) ∧
    ¬ (sPort [] { unit := 1, seq := 8 }).target.seq = ((sPort [] { unit := 1, seq := 8 }).port 0).rxSeq ∧ (peerPkt peerBytes).data = [7, 8] := by decide +kernel

/-- An exchange area at 0x2000 whose record is missing, agrees or does not, with a digest in s4 to s7. -/
def sDigest (done : Bool) (own : DWord) : State :=
  { withCore { ctxs := [(0, { live := true, digests := [⟨8, 5⟩], prog := { pc := 8, s := [(1, 0x2000), (2, 0x2008), (3, 0xC0000), (4, own)] } })],
               spad := if done then [(0x2000, 32), (0x2007, 0x80), (0x2020, 1)] else [] } with target := {} }
theorem witness_digests : (∀ d ∈ [true, false], Stands (sDigest d 1) 1 .any ∧
      RegsReady (sDigest d 1) [srcS 0, srcS 1, srcS 2, srcS 3, srcS 4, srcS 5, srcS 6, srcS 7, srcS 8, srcS 9, srcS 10, srcS 11]) ∧ (4 : Reg).toNat % 4 = 0 ∧
    (sDigest true 1).lineBusy (.thread 0 0) 0x2000 64 = false ∧ (2 ^ 63 ≤ Memory.readN ((sDigest true 1).core 0).spad 0x2000 8 ∧
      ¬ 2 ^ 63 ≤ Memory.readN ((sDigest false 1).core 0).spad 0x2000 8) ∧ 0x2000 % 16 = 0 ∧ 0x2008 % 16 ≠ 0 ∧ ¬ 0xC0000 + 1 ≤ 0xC0000 ∧
    (Memory.readN ((sDigest true 1).core 0).spad 0x2000 8 / 2 ^ 62 % 2 = 0 ∧ Memory.readN ((sDigest true 1).core 0).spad 0x2000 8 % 2 ^ 32 = 32) ∧
    (∀ j, j < 32 → Memory.read ((sDigest true 1).core 0).spad (0x2020 + j) =
      BitVec.ofNat 8 ((((sDigest true 1).ctx 0 0).prog.getS (4 + j / 8)).toNat / 256 ^ (j % 8))) ∧
    (((sDigest false 1).ctx 0 0).digests = [⟨8, 5⟩] ∧ SMap.wf ((sDigest true 0).core 0).ctxs = true ∧ ((sDigest true 0).ctx 0 0).live = true ∧ (sDigest true 0).hbm.wf = true) := by
  decide +kernel

/-- A thread at level M, with a page of 2 MiB at 0x200000, and the hold given. -/
def sSave (h : Option Hold) : State :=
  { withCore { ctxs := [(0, { live := true, modeM := true, prog := { pc := 8, hold := h, s := [(1, 0x200000), (2, 0x200008), (3, 0x500000)] } })] } with
    tlbs := [(0, [⟨0, 0x200000, 2097152, 0x200000240F, 0⟩])] }
def pSave : Page := ⟨0x200000, 2097152, 0x200000240F⟩
theorem witness_savesAndRestores : Stands (sSave none) 1 .any ∧ RegsReady (sSave none) [srcS 1, srcS 2, srcS 3] ∧ ((sSave none).ctx 0 0).modeM = true ∧
    0x200008 % 4096 ≠ 0 ∧ areaPages 0 (0x200000 + 0xDA000 - 1) true 16 (fresh (sSave none)) 0x200000 = .pages [pSave] (fresh (sSave none)) ∧
    areaPages 0 (0x200000 + 0xDA000 - 1) false 16 (fresh (sSave none)) 0x200000 = .pages [pSave] (fresh (sSave none)) ∧
    areaPages 0 (0x500000 + 0xDA000 - 1) true 16 (fresh (sSave none)) 0x500000 = .trap .xlate 0x500000 ∧
    ((sSave (some (.csave 0x200000 [pSave]))).saveReady 0 0 = true ∧ ((sSave (some (.csave 0x200000 [pSave]))).core 0).items = [] ∧
      (sSave (some (.csave 0x200000 [pSave]))).hbm.wf = true) ∧
    (∀ e, paIn [pSave] ((0x200000 : DWord).toNat + e) = 0x200000 + e ∨ 0x200000 ≤ e) ∧
    ((sSave (some (.crest 0x200000 [pSave]))).restoreReady 0 0 0x200000 [pSave] = true) := by
  refine ⟨by decide, by decide, by decide, by decide, by decide, by decide, by decide, by decide, ?_, by decide +kernel⟩
  intro e
  by_cases he : e < 0x200000
  · left
    have : 2097152 + e < 4194304 := by omega
    simp [paIn, pSave, Page.pa, Page.ppn, this]
  · right
    omega

/-- A save area that follows a first page of 64 KiB into the page at 0x20000, which may be a D page, and a thread with what its save writes. -/
def sArea (d : Bool) (h : Option Hold) : State :=
  { withCore { ctxs := [(0, { live := true, modeM := true, failed := [7], v := [(1, 5)], h := [(1, 9)], bars := [⟨3, 6, false, false⟩], forkV := .running,
                              prog := { pc := 8, hold := h, s := [(1, 5)], pend := some { kind := .br, xaddr := 8, dest := 64, taken := true, slots := 1 },
                                        loops := { lc := [(2, { count := 3, start := 8, stop := 16 })], order := [2] } } })],
               slots := [(1, { owner := some 0, prog := { pc := 8 } })], items := [{ sCopy with owner := 0 }] } with
    tlbs := [(0, [⟨0, 0x10000, 65536, 0x50000240F, 0⟩, ⟨0, 0x20000, 65536, if d then 0x60010240F else 0x60000240F, 0⟩])]
    groups := [(3, { asid := 0, gen := 6, members := [⟨0, true, false⟩], pending := [] })] }
theorem witness_saveAreas : (match (sArea false none).xlate 0 0x10000 false true with
      | .page p _ => (p.base, p.size, p.geom, p.d)
      | _ => (0, 0, 0, true)) = (0x10000, 65536, 0, false) ∧
    (match (sArea true none).xlate 0 0x20000 false true with
      | .page p _ => (p.base, p.d)
      | _ => (0, false)) = (0x20000, true) ∧ (0x1FFFF < 0x10000 + 65536 ∧ 0x10000 + 65536 ≤ 0x2FFFF) ∧
    (match areaPages 0 0x2FFFF true 3 (sArea false none) 0x10000, areaPages 0 0x2FFFF true 3 (sArea true none) 0x10000 with
      | .pages ps _, .trap g v => (ps.length, g, v)
      | _, _ => (0, .illegal, 0)) = (2, .prot, 0x20000) ∧
    (match (sArea false none).xlate 0 0x500000 false true with
      | .trap g v => (g, v)
      | _ => (.illegal, 0)) = (.xlate, 0x500000) := by decide +kernel
theorem witness_saveContents : (let s := sArea false (some (.csave 0x200000 [pSave]))
     let t := s.ctx 0 0
     (t.prog.hold = some (.csave 0x200000 [pSave]) ∧ s.away.contains 0 = false ∧ t.failed.length ≤ 384) ∧
      ((s.core 0).items.filter (fun i => i.owner == 0 && !i.staysPosted)).length = 1 ∧ 0 < 384 ∧ 2 ∈ t.prog.loops.order ∧ 1 ∉ t.prog.loops.order ∧
      (∃ y, t.prog.pend = some y ∧ y.dest.toNat < 0x20000 ∧ y.dest.toNat % 4 = 0 ∧ y.xaddr.toNat < 0x20000 ∧ y.xaddr.toNat % 4 = 0 ∧ y.slots < 4) ∧
      ((s.slot 0 1).prog.pend = none ∧ (s.slot 0 1).prog.arrive = .plain) ∧
      (s.groups.filter (fun g => g.2.has (24 * 0 + 0) || t.bars.any (fun b => b.gid == g.1)))[0]? = some (3, { asid := 0, gen := 6, members := [⟨0, true, false⟩], pending := [] }) ∧
      (t.forkV = .running ∧ (s.slot 0 1).owner = some 0 ∧ (s.slot 0 0).owner = none) ∧ t.failed[0]? = some 7) ∧
    (let s := sSave (some (.crest 0x200000 [pSave]))
     let dw (o : Nat) : Nat := natOfBytes (s.readVa [pSave] (0x200000 + o) 8)
     dw 16 = 0 ∧ dw 0x5B8 / 2 ^ 17 % 2 ^ 6 = 0 ∧ dw 0x5C0 % 2 = dw 0x538 % 2) ∧
    (let s := { sSave (some (.crest 0x200000 [pSave])) with hbm := Memory.writeN [] (0x200000 + 0x640) 8 (3 + 2 ^ 18 + 6 * 2 ^ 32) }
     (natOfBytes (s.readVa [pSave] (0x200000 + 0x640) 8)).testBit 18 = true) ∧
    (sArea false (some (.csave 0x200000 [pSave]))).saveReady 0 0 = true ∧ (sArea false (some (.csave 0x200000 [pSave]))).hbm.wf = true ∧
    ({ sSave (some (.csave 0x200000 [pSave])) with evPending := [⟨1, 0, 0, 1, 2, 3⟩] } : State).hbm.wf = true := by
  refine ⟨⟨by decide, by decide, by decide, by decide, by decide, ⟨_, rfl, by decide⟩, by decide, by decide, by decide, by decide⟩, by decide +kernel, by decide +kernel, by decide +kernel, by decide, by decide⟩

def sWait (t : Ctx) : State := withCore { ctxs := [(0, { t with live := true })], tiles := [(0, { owner := .ctx 0 })] }
def held (h : Hold) : State := sWait { prog := { pc := 8, hold := some h, s := [(1, 5), (2, 0xFFFFFFFFFFFFFFFF), (3, 1), (4, 4)] } }
theorem witness_threadsEndAndSleep : Stands (sWait { prog := { pc := 8 } }) 1 .any ∧ RegsReady (sWait { prog := { pc := 8 } }) [srcS 0, srcS 1, srcS 2] ∧
    ((held (.sleep (some 1000))).ctx 0 0).prog.hold = some (.sleep (some 1000)) ∧ ((held (.clock 1000)).ctx 0 0).prog.hold = some (.clock 1000) ∧
    ((held (.halting 3 none)).ctx 0 0).prog.hold = some (.halting 3 none) ∧ (held (.halting 3 none)).drained (.thread 0 0) = true ∧
    ((held (.halting 3 none)).ctx 0 0).accs = [] ∧ (held (.halting 3 none)).away.contains 0 = false ∧
    ((sWait { modeM := true }).ctx 0 0).modeM = true ∧ ((sWait { modeM := true }).tlbs = []) ∧
    (∃ p e, p ∈ [(0, [(⟨0, 0x10000, 65536, 0x50000240F, 1⟩ : TlbEntry)])] ∧ e ∈ p.2 ∧ e.asid = 0 ∧ e.base ≤ 0x10000 ∧ 0x10000 < e.base + e.size ∧ e.pins ≠ 0) := by
  refine ⟨by decide, by decide, by decide, by decide, by decide, by decide, by decide, by decide, by decide, by decide, ⟨_, _, List.mem_cons_self, List.mem_cons_self, by decide⟩⟩
/-- The thread is member 0 of group 3 and pending in group 4. -/
def sMember (h : Hold) : State := { held h with groups := [(3, { asid := 0, gen := 6, members := [⟨0, false, false⟩, ⟨5, true, false⟩], pending := [] }),
                                                          (4, { asid := 0, gen := 1, members := [⟨5, false, false⟩], pending := [⟨0, false⟩] }), (7, { asid := 0, gen := 1, members := [⟨5, false, false⟩], pending := [] })] }
theorem witness_threadsLeave : SMap.wf (sMember (.halting 3 none)).groups = true ∧ (∀ h ∈ [Hold.halting 3 none, .halting 3 (some ⟨.illegal, 5, 8, none⟩)],
      ((sMember h).ctx 0 0).prog.hold = some h ∧ (sMember h).drained (.thread 0 0) = true ∧ ((sMember h).ctx 0 0).accs = [] ∧ (sMember h).away.contains 0 = false) ∧
    ((sMember (.halting 3 none)).group 3).any (fun g => g.has (24 * 0 + 0)) = true ∧ ((sMember (.halting 3 none)).group 4).any (fun g => g.has (24 * 0 + 0)) = true ∧
    ((sMember (.halting 3 none)).group 7).any (fun g => g.has (24 * 0 + 0)) = false := by decide
-- R124: the end of a thread arrives for it in its group, which completes, and drops its pending arrival.
theorem test_end_leaves_groups : (match exec .waitRelease (sMember (.halting 3 none)) with
    | .next u => ((u.group 3).map (fun g => (g.gen, g.members.map (fun m => m.tid))), (u.group 4).map (fun g => g.pending.length))
    | _ => (none, none)) = (some (7, [5]), some 0) := by decide +kernel
theorem witness_waitingEnds : (∀ h ∈ [Hold.fence 1, .tapeSet 0 16, .modeSwitch true, .tret, .tileRel 0, .tileShape 0 2 2, .flowUnload 7 [5], .dchk 7 4 0x2000, .tlbInv 0 0],
      ((held h).ctx 0 0).prog.hold = some h ∧ (held h).away.contains 0 = false) ∧
    ((held (.fence 1)).ctx 0 0).fenceDone 1 = true ∧ ((sWait { accs := [{ id := 1, kind := .mark, isLd := true }] }).ctx 0 0).fenceDone 1 = false ∧
    ((held (.tapeSet 0 16)).ctx 0 0).tapePending = false ∧ (held .tret).modeReady (.thread 0 0) = true ∧ ((held (.tileRel 0)).core 0).tileReached 0 0 = false ∧
    (∀ r ∈ [true, false], [(⟨3, 6, true, r⟩ : Bar)].find? (fun b => b.gid == 3) = some ⟨3, 6, true, r⟩) ∧ (held (.flowUnload 7 [5])).flowIdle 5 = true ∧
    ((sDigest true 1).core 0).spad.readN 0x2000 8 ≥ 2 ^ 63 ∧ ((held (.barrier 3 6)).ctx 0 0).prog.hold = some (.barrier 3 6) ∧
    (∀ b ∈ ((held (.barrier 3 6)).ctx 0 0).bars, b.gid ≠ 3) ∧ ((held (.tlbInv 0 0)).tlbDrop 0 0 0).tlbHeld 0 0 0 = false := by decide +kernel

theorem witness_causesTaken :
    (let s := sWait { async := [⟨.digest, 1⟩, ⟨.timer, 0⟩], failed := [7], prog := { pc := 8, hold := some (.sleep none) } }
     let t := s.ctx 0 0
     t.modeM = false ∧ (⟨.timer, 0⟩ : AsyncCause) ∈ t.async ∧ (∀ a ∈ t.async, a = ⟨.timer, 0⟩ ∨
       [Cause.preempt, .timer, .eccu, .msgovf, .engfault, .digest].idxOf Cause.timer < [Cause.preempt, .timer, .eccu, .msgovf, .engfault, .digest].idxOf a.cause) ∧
      t.failed = 7 :: [] ∧ t.prog.hold = some (.sleep none) ∧ t.live = true ∧ t.prog.trapping = none ∧ s.board.stopped = false) ∧
    (let x : Xfer := { kind := .br, xaddr := 8, dest := 64, taken := true, slots := 0 }
     (∀ a ∈ [Arrive.checked x, .untaken x], ({ pc := 64, arrive := a } : Prog).pend = none) ∧ ({ pc := 64, pend := some x } : Prog).pend = some x ∧
      ({ pc := 64, arrive := .launch } : Prog).pend = none) ∧
    ((sWait { modeM := true }).ctx 0 0).live = true ∧ (sWait { modeM := true }).now - ((sWait { modeM := true }).ctx 0 0).cycleBase = 1000 ∧
    (∀ a ∈ ((sWait { modeM := true, async := [⟨.timer, 0⟩] }).ctx 0 0).async, ¬ ((sWait { modeM := true, async := [a] }).ctx 0 0).modeM = false) ∧
    ((sWait {}).ctx 0 0).live = true ∧ ((sWait {}).ctx 0 0).async = [] ∧ ((1000 : DWord).toNat ≤ (sWait {}).now - ((sWait {}).ctx 0 0).cycleBase) := by decide
theorem witness_clockChoices :
    (let e : List Cand := [{ ctx := 0, prio := 1, stamp := 4, wait := 0 }, { ctx := 1, prio := 3, stamp := 9, wait := 0 }, { ctx := 2, prio := 0, stamp := 1, wait := 65536 }]
     chooseThread e = some { ctx := 2, prio := 0, stamp := 1, wait := 65536 }) ∧ chooseThread [] = none ∧ chooseSlot 3 (fun k => k == 1) = some 1 ∧
    ({ sWait {} with agenda := [.select 0] } : State).agenda = .select 0 :: [] ∧
    (let s : State := { sWait {} with remap := [(0, 9), (1, 9)], away := [1], sliceAt := [(9, 0)], now := 1048576, target := { core := 9 } }
     (s.remap.filter (fun e => e.2 == s.target.core)).map Prod.fst = [0, 1] ∧ SMap.get 0 s.sliceAt 9 + 1048576 ≤ s.now ∧ s.coreStill 0 = true ∧ s.hbm.wf = true ∧ (s.core 0).spad.wf = true ∧
       SMap.wf (s.core 0).blockTag = true ∧ (s.ctx 0 0).live = true ∧ ¬ SMap.get 0 s.sliceAt 9 + 1048576 ≤ 1048575) := by decide
theorem witness_softErrors : (∀ p ∈ [ErrPlace.spad 0 0x100, .tagTable 0 5, .register 1 4], let s := { sWait {} with target := { place := p, reader := .thread 0 0 } }
     s.target.place = p ∧ s.target.reader = .thread 0 0 ∧ s.mayIssue (.thread 0 0) = true) ∧
    (∀ k ∈ [ItemKind.copy 0, .flowRecv 5, .msgPost], let i : Item := { sCopy with running := true, kind := k }
     (sMoves i {}).item 0 5 = some i ∧ i.running = true ∧ i.finished = false ∧ i.failing = none ∧ i.kind = k) ∧
    (∀ k ∈ [AccKind.ldg 4 4, .gamo 4 4 0 5 0 .rne 0 false false, .ldl 0x80], let s := sPerform k
     (s.ctx 0 0).accs.find? (fun a => a.id == 1) = some { id := 1, kind := k, pa := 0x50000, isLd := true, isSt := true } ∧
      (s.ctx 0 0).prog.hold = none ∧ (0 : Nat) < (4 : Reg).toNat) ∧
    (∃ e ∈ SMap.get [] (sSave none).tlbs 0, e.asid = 0 ∧ e.base = 0x200000 ∧ e.pins = 0) ∧
    (let e := { dstEntry with aslot := 2, awin := 2, slots := [data0] }
     let r : FlowRec := { owner := 0, entries := [srcEntry, e] }
     (sFlows [] [(5, r)] [] sCopy {}).flow 5 = some r ∧
      r.entries.find? (fun e => e.land == 34 && !e.src && decide (e.aslot ≤ 2) && decide (2 < e.aslot + e.awin)) = some e ∧ r.node e = [] ++ e :: [] ∧
      2 = e.aslot + (([] : List FEntry).map (fun y => y.slots.length)).sum + 0 ∧ e.slots[0]? = some data0) := by
  refine ⟨by decide, by decide, by decide, ⟨⟨0, 0x200000, 2097152, 0x200000240F, 0⟩, by decide, by decide⟩, by decide⟩

/-! ### The host and the module, fetching and stepping (R29–R33, R106–R113, R370–R389) -/

/-- Core 0's mailbox with the doublewords given as a command, after a HELLO where `hello` says so. -/
def sMail (dws : List Nat) (hello : Bool) (st : DevState) : State :=
  let m := dws.zipIdx.foldl (fun m e => Memory.writeN m (8 * e.2) 8 e.1) ([] : Memory)
  let s := { withCore { ctxs := [(3, { live := true, prog := { hold := some (.sleep none) } })] } with
    board := { devState := st, healthy := 288, helloOk := hello, mailboxes := [(0, { cmd := m, pend := true })] } }
  s
theorem witness_hostCommands :
    (∀ d ∈ [0, 1, 2, 3, 4], ((sMail [d + 0x50000, 0x10000] true .ready).mailbox 0).pend = true ∧ ((sMail [d, 0x10000] true .ready).mailbox 0).answer = none ∧
      ((sMail [d + 0x50000, 0x10000] true .ready).mailbox 0).cmd.readN 0 8 % 2 ^ 8 = d) ∧
    (sMail [0] false .reset).board.helloOk = false ∧ ((0x10000 &&& (2 ^ 32 - 1)) = 0x10000 ∧ 0x10000 / 2 ^ 16 = 1 ∧ 0x20000 / 2 ^ 16 ≠ 1) ∧
    (0x50001 &&& 0xFFFF00FF = 0x50001 ∧ ¬ 0x100 &&& 0xFFFF00FF = 0x100) ∧ ((sMail [1] true .ready).core 0).launchQ.length < 8 ∧
    SMap.wf ((sMail [2] true .ready).core 0).ctxs = true ∧ (0x200000 % 2 ^ 21 = 0 ∧ 0x200000 + 2 ^ 21 ≤ hbmBytes ∧ 0x1000 % 2 ^ 21 ≠ 0) ∧
    (0x10000 &&& 0xFFFFFFFF = 0x10000 ∧ ¬ (0x100010000 : Nat) &&& 0xFFFFFFFF = 0x100010000 ∧ (sMail [0] false .reset).board.devState ≠ .ready) ∧
    (∃ x, ((sMail [2] true .ready).ctx 0 x).live = true) ∧ ((sMail [3] true .ready).ctx 0 3).prog.hold = some (.sleep none) ∧ (8 : Nat).testBit 3 = true ∧
    ((sMail [4] true .ready).ctx 0 0).live = false ∧ (sMail [4] true .ready).pool 0 = 24 ∧ 24 ≤ 24 := by
  refine ⟨by decide, by decide, by decide, by decide, by decide, by decide, by decide, by decide, ⟨3, by decide⟩, by decide, by decide, by decide, by decide, by decide⟩
-- R375: an accepted `HELLO` is answered OK with the version in DW1.
theorem test_hello : (match exec .hello (sMail [0x70000, 0x10000] false .ready) with
    | .next u => ((u.mailbox 0).answer, u.board.helloOk)
    | _ => (none, false)) = (some ⟨0, 0, 7, 0x10000⟩, true) := by decide

/-- An answer that waits to be written, and an event record in a queue whose head and tail are given. -/
def sReply (a : Option Answer) (head tail kind : Nat) : State :=
  { withCore { ctxs := [(0, { live := true })] } with
    board := { mailboxes := [(0, { cmd := [(0, 9)], pend := true, answer := a })], eqHead := head, eqTail := tail },
    evPending := [⟨kind, 0, 0, 1, 2, 3⟩] }
theorem witness_repliesAndEvents : ((sReply (some ⟨2, 4, 7, 0⟩) 0 0 1).mailbox 0).pend = true ∧
    (∃ a, ((sReply (some ⟨2, 4, 7, 0⟩) 0 0 1).mailbox 0).answer = some a ∧ a.code < 2 ^ 8 ∧ a.reason < 2 ^ 8 ∧ a.tag < 2 ^ 16 ∧ a.dw1 < 2 ^ 64) ∧
    (((sReply none 0 0 1).mailbox 0).answer = none ∧ 4 < ((sReply none 0 0 1).mailbox 0).cmd.readN 0 8 % 2 ^ 8) ∧
    (sReply none 0 0 1).evPending = ⟨1, 0, 0, 1, 2, 3⟩ :: [] ∧ ((4095 + 1) % 4096 = 0 ∧ (0 + 1) % 4096 ≠ 0) ∧ (sReply none 0 0 1).board.evMem.wf = true := by
  refine ⟨by decide, ⟨_, rfl, by decide⟩, by decide, by decide, by decide, by decide⟩
theorem witness_hostAccesses : (∀ z ∈ [4, 8], 0x28 % z = 0 ∧ 0x30 % z = 0 ∧ 0x28 + z ≤ 0x2000000 ∧ 0x1FFFFF8 % z = 0 ∧ 0x1FFFFF8 + z ≤ 0x2000000) ∧
    (0x5257 % 2 ^ 16 = 0x5257 ∧ 0x15257 % 2 ^ 16 = 0x5257 ∧ 0x5258 % 2 ^ 16 ≠ 0x5257) ∧ (0x100000 + 4096 * 255 + 0x40 = 0x1FF040 ∧ 0x1FF040 % 8 = 0) ∧
    (sReply none 0 0 1).hbm.wf = true ∧ (sReply none 0 0 1).board.recovery.wf = true ∧ ((sReply none 0 0 1).mailbox 0).cmd.wf = true ∧
    ((sReply none 0 0 1).mailbox 0).pend = true ∧ ((sReply none 0 0 1).mailbox 1).pend = false ∧ 0x13 % 4 ≠ 0 := by decide
-- R372: DEVID and PROTO at a host read.
theorem test_device_registers : State.reset.bar0Read 0 8 = 0x5758000900000001 ∧ State.reset.bar0Read 8 8 = 0x10000 ∧ State.reset.bar0Read 0x30 8 = 0 := by
  decide
theorem witness_deviceRegisters : State.reset.board.eqHead < 4096 ∧ State.reset.board.eqTail < 4096 ∧ State.reset.board.healthy < 512 ∧
    State.reset.board.devState = .reset := by decide
theorem witness_resetsAndBoot : (at_ State.reset { value := 0x5257 }).target.value.toNat % 2 ^ 16 = 0x5257 ∧
    (at_ State.reset {}).target.value.toNat % 2 ^ 16 ≠ 0x5257 ∧ State.reset.board.updating = false ∧ State.reset.hbm.wf = true := by decide
theorem witness_firmwareParts : State.reset.board.flash.wf = true ∧ (at_ State.reset { data := List.replicate 32 7 }).target.data.length = 32 := by decide
theorem witness_powerAndHeat : State.reset.board.powerCap < 2801 ∧ 100 < State.reset.board.clockMHz ∧ 2800 ≤ State.reset.board.powerCap ∧
    (∀ d ∈ [105, 114, 115], 105 ≤ (at_ State.reset { id := d }).target.id) ∧ (at_ State.reset { id := 104 }).target.id < 105 ∧
    (sMail [0] true .ready).board.devState ≠ .reset ∧ State.reset.board.devState = .reset := by decide
-- R370: vector 2 is raised where STATE changes, and not where it is reset already.
theorem test_shutdown_vector : (∀ d ∈ [DevState.ready, .reset], (match exec .thermalShutdown (at_ (sMail [0] true d) { id := 115 }) with
    | .next u => SMap.get 0 u.board.raised 2
    | _ => 9) = if d = .reset then 0 else 1) := by decide
/-- Port 0 as given, with a flow that crosses it, one by a child that came by it, and one that does not cross. -/
def sPorts (x : Port) (t : Target) : State :=
  { sFlows [] [(5, outFlow), (6, { owner := 0, entries := [{ dstEntry with via := some 0 }] }), (7, { owner := 0, entries := [dstEntry] })] [] sCopy t with ports := [(0, x)] }
theorem witness_ports : (∀ z ∈ [8, 4], 0 < 16 ∧ (State.reset.port 0).up = false ∧ (State.reset.port 0).failed = false ∧ (0x1000000100000 + z * 2 ^ 8) / 2 ^ 48 = 1 ∧
      (0x1000000100000 + z * 2 ^ 8) / 2 ^ 20 % 2 ^ 12 ≠ State.reset.board.devId % 4096 ∧ (0x1000000100000 + z * 2 ^ 8) / 2 ^ 8 % 2 ^ 8 = z % 256) ∧
    (∀ n ∈ [15, 16], let s := sPorts { up := true, rxSeq := 9, txFail := (3, n), rxFail := (9, n), store := [(3, data0)] } { unit := 1, seq := 3 }
      (s.port 0).up = true ∧ s.target.unit = 1 ∧ SMap.wf s.flows = true ∧ (∃ e ∈ (s.port 0).store, e.1 = s.target.seq) ∧ (s.port 0).txFail = (3, n)) ∧
    ((15 : Nat) + 1 ≤ 16 ∧ 16 < 16 + 1) ∧ (sPorts { up := true, rxSeq := 9, rxFail := (9, 16) } { unit := 0, seq := 9 }).target.unit ≠ 1 ∧
    (sPorts { up := true } {}).flow 5 = some outFlow ∧ FTarget.port 0 ∈ outEntry.targets ∧ (∀ e ∈ [dstEntry], FTarget.port 0 ∉ e.targets ∧ e.via ≠ some 0) := by decide
-- R387: a training that fails keeps the port down at the next one, with a good word too. R389: a flow that crosses is broken, another is not.
theorem test_port_stays_down : (match exec .portTrain (at_ State.reset { value := 0x2000000100800, size := 8 }) with
    | .next u => (match exec .portTrain (at_ u { value := 0x1000000100800, size := 8 }) with
      | .next v => ((u.port 0).failed, (v.port 0).up)
      | _ => (false, true))
    | _ => (false, true)) = (true, false) := by decide
theorem test_port_down : (match exec .portDown (sPorts { up := true, txFail := (3, 16) } {}) with
    | .next u => [5, 6, 7].map (fun f => ((u.flow f).map (fun r => r.broken)).getD false)
    | _ => []) = [true, true, false] := by decide +kernel
/-- Little-endian bytes of some 32-bit numbers. -/
def words (l : List Nat) : List Byte := (l.map (bytesOfNat 4)).flatten
/-- A section of one control line whose word 2 is a target, and one with an entry of `n` threads at `a`. -/
def codeAt (a : Nat) : Section := { kind := 1, addr := a, len := 128, off := 0, data := words ([0x3FFFFFFF, 1] ++ List.replicate 30 0x01000000) }
def entryAt (a n : Nat) : Section := { kind := 5, addr := 0, len := 8, off := 0, data := words [a, n] }
def stagesAt (l : List Nat) : Section := { kind := 6, addr := 0, len := 64, off := 0, data := words l }
-- R111 and R112: each check's reason on images that fail it alone.
theorem test_image_reasons : imageReason [codeAt 64, entryAt 8 1] 24 = some 2 ∧ imageReason [codeAt 0] 24 = some 3 ∧ imageReason [codeAt 0, entryAt 8 25] 24 = some 10 ∧
    imageReason [codeAt 0, entryAt 8 13] 12 = some 4 ∧ imageReason [codeAt 0, entryAt 12 1] 24 = some 5 ∧
    imageReason [codeAt 0, entryAt 8 1, stagesAt [2, 0, 1, 8, 1, 8]] 24 = some 6 ∧ imageReason [codeAt 0, entryAt 8 1, stagesAt [0x101, 0, 1, 8, 0x10101, 0]] 24 = some 7 ∧
    imageReason [codeAt 0, entryAt 8 24] 24 = none := by decide +kernel
theorem witness_imageChecks : (∃ x m, x ∈ [codeAt 64] ∧ codeMemory x.kind = some m ∧ x.addr % 128 ≠ 0) ∧ ((entriesIn [codeAt 0]).map Prod.snd).sum = 0 ∧
    (∃ e, e ∈ entriesIn [codeAt 0, entryAt 8 25] ∧ 24 < e.2) ∧ 12 < ((entriesIn [codeAt 0, entryAt 8 13]).map Prod.snd).sum ∧
    (∃ e, e ∈ entriesIn [codeAt 0, entryAt 12 1] ∧ ¬ e.1 % 128 = 8) ∧ ¬ ((stagesIn [stagesAt [2, 0, 1, 8, 1, 8]]).map Prod.fst).Nodup ∧
    (∃ q, q ∈ queuesIn [stagesAt [0x101, 0, 1, 8, 0x10101, 0]] ∧ q.from_ = q.to_) ∧ 16 < (queuesIn [stagesAt [0x1100]]).length := by
  refine ⟨⟨_, .control, List.mem_cons_self, rfl, by decide⟩, by decide, ⟨(8, 25), by decide, by decide⟩, by decide, ⟨(12, 1), by decide, by decide⟩, by decide,
    ⟨⟨1, 1, 1, []⟩, by decide, by decide⟩, by decide⟩

/-- Core 0 with a launch record for the image at 0x10000, whose bytes are given. -/
def sLaunch (img : List Byte) (live : Bool) : State :=
  { withCore { ctxs := if live then [(0, { live := true })] else [], launchQ := [⟨0x20000, 1, 0, 0⟩, ⟨0x10000, 7, 3, 9⟩, ⟨0x20000, 1, 3, 0⟩] } with
    tlbs := [(0, tlbs4)], hbm := Memory.writeBytes [] 0x50000 img }
/-- An image of one control line and one entry of two threads (R111, R112). -/
def imageBytes : List Byte :=
  words ([0x4D49574B, 1, 2, 48, 1, 0, 128, 128, 5, 0, 8, 64, 8, 0, 0, 0, 8, 2] ++ List.replicate 14 0 ++ [0x3FFFFFFF, 1] ++ List.replicate 30 0x01000000)
theorem witness_launches : ((sLaunch imageBytes false).core 0).launchQ = [⟨0x20000, 1, 0, 0⟩] ++ ⟨0x10000, 7, 3, 9⟩ :: [⟨0x20000, 1, 3, 0⟩] ∧
    (∀ x ∈ [(⟨0x20000, 1, 0, 0⟩ : LaunchRec)], x.prio < 3) ∧ SMap.wf ((sLaunch imageBytes false).core 0).ctxs = true ∧
    (((sLaunch imageBytes false).core 0).ctxs = [] ∧ ((sLaunch imageBytes false).core 0).slots = [] ∧ ((sLaunch imageBytes false).arc 0).owner = none ∧
      ((sLaunch imageBytes false).core 0).items = [] ∧ (sLaunch imageBytes false).board.devState = .ready) ∧
    ((sLaunch imageBytes true).ctx 0 0).live = true ∧ (match (sLaunch [] false).readImage 0 0x10000 with
      | .error e => e
      | .ok _ => .noMemory) = .reason 1 0 ∧
    (match (sLaunch imageBytes false).readImage 0 0x10000 with
      | .error _ => []
      | .ok (g, _) => g.threads) = [(8, 0), (8, 1)] := by decide +kernel
-- R360: a launch whose first thread would take a saved context waits.
theorem test_launch_waits : (let s := (sLaunch imageBytes false).setCore 0 { (sLaunch imageBytes false).core 0 with savedCtxs := [(1, {})] }
    match exec .launchTake s with
    | .next u => (u.core 0).launchQ.length
    | _ => 0) = 3 ∧ 1 ∈ SMap.keys [(1, ({} : SavedCtx))] := by decide +kernel
/-- Core 0 has a root whose table lies outside HBM, and a launch record whose image is not cached. -/
theorem witness_launchStops : (match ({ sLaunch [] false with tlbs := [] } : State).setCore 0 { (sLaunch [] false).core 0 with ptRoot := some 0xC000000000 } |>.readImage 0 0x10000 with
      | .error e => e
      | .ok _ => .reason 0 0) = .noMemory := by decide +kernel

/-- A control thread at the byte address given, in a line with word 2 a start and a target that holds `ADD`, word 3 a start of a `LI` of two
words, and word 5 a start with an undefined MOP; line 1 is not plain. -/
def sFetch (pc : DWord) (arr : Arrive) (bad : List (IMem × Nat)) : State :=
  { withCore { ctxs := [(0, { live := true, prog := { pc := pc, arrive := arr } })], badWords := bad,
               imemC := [(0, 0x1B), (1, 1), (2, 0x020C4140), (3, 0x41180000), (4, 0x12345678), (5, 0), (6, 0x01000000), (32, 0x40000000)] } with agenda := [.issue (.thread 0 0)] }
theorem witness_fetchChecks : (∀ a ∈ [8, 12, 20, 24, 0x1FFFC], (BitVec.ofNat 64 a).toNat < (Seqr.thread 0 0).imem.bytes) ∧ ¬ (0x20000 : DWord).toNat < (Seqr.thread 0 0).imem.bytes ∧
    (let s := sFetch 8 (.checked ⟨.br, 0x100, 8, true, 0⟩) []
     (s.iword (.thread 0 0) 0).getLsbD 0 = true ∧ (s.iword (.thread 0 0) 4).getLsbD 0 = true ∧ (s.iword (.thread 0 0) 4).getLsbD 1 = false ∧
      mopLength .control (s.iword (.thread 0 0) 8).fMop.toNat = some 1 ∧ mopLength .control (s.iword (.thread 0 0) 12).fMop.toNat = some 2 ∧
      mopLength .control (s.iword (.thread 0 0) 20).fMop.toNat = none ∧ ¬ (s.iword (.thread 0 0) 128).toNat < 2 ^ 30) ∧
    (∃ n, ((Seqr.thread 0 0).imem, n) ∈ ((sFetch 8 .plain [(.control, 3)]).core 0).badWords ∧ n / 2 = 8 / 8) ∧
    (∃ n, ((Seqr.thread 0 0).imem, n) ∈ ((sFetch 12 .plain [(.control, 5)]).core 0).badWords ∧ n / 2 = (12 + 4 * 1) / 8 ∧ 1 < min 2 (32 - 3)) ∧
    ((sFetch 8 .plain []).atM (.thread 0 0) = false ∧ (10 : DWord).toNat % 4 ≠ 0 ∧ ({ arrive := .untaken ⟨.br, 0x100, 8, false, 0⟩ } : Prog).arrive ≠ .plain) := by
  refine ⟨by decide +kernel, by decide +kernel, ⟨by decide, by decide, by decide, rfl, rfl, rfl, by decide⟩, ⟨3, by decide, by decide⟩, ⟨5, by decide, by decide⟩, by decide⟩
-- R35: an uncorrectable error in the second word of an instruction is found before the marks and the fields; R31: a misaligned unchecked arrival.
theorem test_fetch_order : (match (sFetch 12 (.checked ⟨.br, 0x100, 12, true, 0⟩) [(.control, 4)]).fetch (.thread 0 0) 0, (sFetch 10 .plain []).fetch (.thread 0 0) 0 with
    | .bad c v p, .bad d w r => (c, v, p, d, w, r)
    | _, _ => (.cfi, 0, 0, .cfi, 0, 0)) = (.eccu, 0, 12, .illen, 10, 10) := by decide +kernel
theorem witness_stepsRunTheDecoded : (∀ a ∈ [8, 12], (sFetch (BitVec.ofNat 64 a) .plain []).agenda = .issue (.thread 0 0) :: [] ∧
      (sFetch (BitVec.ofNat 64 a) .plain []).mayIssue (.thread 0 0) = true ∧ (sFetch (BitVec.ofNat 64 a) .plain []).hasAsync (.thread 0 0) = false) ∧
    (sFetch 8 .plain []).fetch (.thread 0 0) 0 = .ok (.add 3 4 5) ∧ (sFetch 12 .plain []).fetch (.thread 0 0) 0 = .ok (.li 6 0x12345678) ∧
    (sFetch 20 .plain []).fetch (.thread 0 0) 0 = .bad .illegal 20 20 ∧ (sFetch 16 .plain []).fetch (.thread 0 0) 0 = .bad .illen 16 16 ∧
    (sFetch 12 (.checked ⟨.br, 0x100, 8, true, 0⟩) []).fetch (.thread 0 0) 0 = .bad .cfi 0x100 12 ∧ (sFetch 128 .plain []).fetch (.thread 0 0) 0 = .bad .illegal 128 128 := by
  refine ⟨by decide +kernel, rfl, rfl, rfl, rfl, rfl, rfl⟩
theorem witness_roundTrip : ∀ p ∈ [(IMem.control, Instr.add 3 4 5, [0x020C4140]), (.control, .li 6 0x12345678, [0x41180000, 0x12345678]), (.control, .ret, [0x4E000000])],
    p.2.1.wf = true ∧ inMem p.1 p.2.1 = true ∧ encode p.2.1 = p.2.2 ∧ (decode p.1 p.2.2).toOption = some p.2.1 := by decide
/-- A warm device that meets both invariants, after a `HELLO`. -/
theorem witness_invariants : BoardOk (sMail [0] true .ready) ∧ ListsOk State.reset ∧ ∃ t, step (sFetch 8 .plain []) = .next t := by
  refine ⟨⟨by decide, by decide, by decide⟩, ⟨rfl, fun _ => rfl, fun _ => rfl, rfl⟩, ⟨_, rfl⟩⟩

/-! ### Hypotheses of single clauses -/

/-- The record at 8 with a damaged word, and one without. -/
theorem witness_sizeRecordWords : sClasses.cur = .thread 0 0 ∧ (sClasses.core 0).sizeBad 8 = false ∧
    ({ sClasses.core 0 with badWords := [(.control, 3)] } : Core).sizeBad 8 = true ∧ ((sClasses.core 0).cword 0).toNat / 2 ^ 30 = 1 ∧
    ((sClasses.core 0).cword 8).toNat = 0x53430002 ∧ ((sClasses.core 0).cword 12).toNat < ((sClasses.core 0).cword 20).toNat := by decide

/-- A guard in bit 0 of register 2, and T bits on the first two sources. -/
def lwMarks : LW := { g := true, n := false, greg := 2, gbit := 0, rm := 0, ta := true, tb := true, tc := false, x := 0, y := 0 }
/-- A thread or a vector program with the registers given empty. -/
def sEmpty (v : Bool) (e : BitVec 64) : State :=
  if v then onSlot { v := [(2, 1)], vEmpty := e } { pc := 8 } else onThread { prog := { pc := 8, s := [(2, 1)], sEmpty := e } }
theorem witness_guardsAndMarks : (∀ v ∈ [true, false], Stands (sEmpty v 0) 2 .any ∧ Stands (sEmpty v 4) 2 .any ∧ Stands (sEmpty v 8) 2 .any) ∧
    (sEmpty false 4).regEmpty (.thread 0 0) (srcS 2) = true ∧ (sEmpty true 4).regEmpty (.vec 0 0) (srcV 2) = true ∧
    (sEmpty false 8).regEmpty (.thread 0 0) (srcS 3 true) = true ∧ (sEmpty true 8).regEmpty (.vec 0 0) (srcV 3 true) = true ∧
    RegsReady (sEmpty false 8) [srcS 2] ∧ RegsReady (sEmpty true 8) [srcV 2] ∧ guardHolds lwMarks 1 = true ∧ guardHolds lwMarks 0 = false := by
  decide
-- R25: while the guard's register is empty an instruction waits, whatever its sources under a T bit hold; with the guard full it traps EMPTY (R27).
theorem test_guard_first : [12, 8].map (fun e => match exec (.viadd 5 3 3 4 lwMarks) (sEmpty true e) with
    | .next u => (u.stalled, (u.ctx 0 0).forkV, (u.ctx 0 0).vfr.dw0)
    | _ => (false, .none, 9)) = [(true, .running, 0), (false, .ended true, 3)] := by decide
/-- Context 1 has been saved in stage 1 beside thread 0 in stage 1. -/
theorem witness_savedMembers : let s := sStages (some 1)
    let k := s.core 0
    (∃ t, s.setCore 0 { k with ctxs := k.ctxs.take 1, savedCtxs := [(1, { stage := some 1 })] } = t ∧ (t.core 0).stageMembers 1 = 2) ∧
      k.stageMembers 1 = 2 ∧ k.stageMembers 2 = 0 := ⟨⟨_, rfl, by decide⟩, by decide, by decide⟩

/-- An Arcade program past its `RET` with a trap that stands, and one without. -/
theorem witness_endsBehindTraps : ∀ q ∈ [none, some standing], let s := { onArc { prog := { pc := 8, ending := true, trapping := q } } with target := { unit := 4 } }
    (s.arc 0).prog.ending = true ∧ (s.arc 0).prog.trapping = q ∧ s.drained (.arc 0) = true := by decide

/-- A post that holds the flow unit, and one that has been posted. -/
theorem witness_unitHeld : ∀ b ∈ [true, false], let i : Item := { sCopy with queue := 5, kind := .msgPost, running := true, posted := b }
    (withCore { items := [i] }).yields 0 0 = false ∧ ({ items := [i] } : Core).engineFree 5 = true ∧
      (({ items := [i] } : Core).takesNow 5 { sCopy with queue := 5, kind := .flowSend 5 } = b) := by decide
/-- A core whose slice is over and whose programs stand, with a command at and inside a block. -/
def sOver (i : Item) (q : Stream) : State := { sMoves i q with remap := [(0, 9), (1, 9)], away := [1], sliceAt := [(9, 0)], now := 1048576 }
theorem witness_engineYields : (∀ i ∈ [copyIt 0 (rowOf 0x2000 true) (rowOf 0x1000 true) 0 [], copyIt 9 0 0 0 []],
      (sOver i {}).yields 0 i.owner = true ∧ i.midBlock = false ∧ { i with within := 128 }.midBlock = true ∧ { i with got := [(3, (7, 0))] }.midBlock = true) ∧
    (∀ n ∈ [0, 1], let i := { copyIt 8 0 (hreg 0x1000 true 1 [64] []) 0 [] with within := 8 * n }
      (sOver i { ring := some ringOf4 }).yields 0 i.owner = true ∧ (i.strmAtBlock = true ↔ n = 0)) ∧
    (sOver sCopy {}).sliceOver 0 = true ∧ (sOver sCopy {}).mayIssue (.vec 0 0) = false ∧ (sOver sCopy {}).mayIssue (.arc 0) = false := by
  refine ⟨by decide, by decide, by decide, by decide, by decide⟩
-- R354: at a block boundary the copy stops for the switch.
theorem test_block_boundary : let s := { sOver (copyIt 0 (rowOf 0x2000 true) (rowOf 0x1000 true) 0 []) {} with target := { id := 5 } }
    (match exec .copyBlock s with
    | .next u => decide (u = s)
    | _ => false) = true := by decide +kernel

/-- Records of two lines that are due, and the cell reads of a reverse-mode copy, which wait behind stores that left. -/
theorem witness_recordsAndCells :
    (let l (va lo : Nat) : TapeLine := { va := va, parts := (List.range 9).map fun m => lo + 16 * m }
     ([l 0x20000 0x90000, l 0x20080 0x90090].Pairwise (fun l l' => l.va < l'.va)) ∧ ∀ x < 9, ∀ y < 9,
      (l 0x20000 0x90000).parts.getD x 0 + 16 ≤ (l 0x20080 0x90090).parts.getD y 0) ∧
    (let i := copyIt 0 0 0 0 []
     (sStep i 1 0).readHeld 0 i (pCell.pa (2 ^ 56 + 0x20000 / 4 * 8)) = false) ∧
    hostAt [(⟨0x3000, 0x10000, 256, false⟩ : HostEntry)] 256 = none ∧ (copyIt 9 0 0 0 []).midBlock = false := by decide +kernel
-- R378: after the last request of a transfer to the host a read of length zero is still to be made.
theorem test_host_flush : ∀ m : Move, m.flushHost.fail = some .engfault ∨ m.flushHost.it.finished = true := by
  intro m
  unfold Move.flushHost
  dsimp only
  split
  · exact .inl rfl
  · exact .inr rfl
/-- An atomic add of binary32 numbers that raises NX, on its own in its group. -/
theorem witness_atomicFlags : (let s := sPerform (.gamo 4 4 1 9 0x33000000 .rne 0 false false)
     ∀ b ∈ (s.ctx 0 0).accs, b.group = 0 → b.id = 1 ∧ b.flags = 0) ∧
    (fpAdd FpFmt.fp32 .rne (FpFmt.fp32.decode 0x3F800000) (FpFmt.fp32.decode 0x33000000)).2 = Flags.nx := by decide

/-- Matrix handles of which one lies on no page. -/
theorem witness_writeOutChecks : (let h := handleOf (hreg 0x50000 false 9 [4, 4] [16])
     (match walkFoot 0 (h.ranges false true) (pageBound (h.ranges false true)) (fresh (sTile mxHandles)) 0 with
      | .trap c v => (c, v)
      | _ => (.illegal, 0)) = (.xlate, 0x50000)) := by decide +kernel
theorem witness_matrixYields : ∀ i ∈ [nestIt 0, outIt 0], let s := { sMatrix i 0 with remap := [(0, 9), (1, 9)], away := [1], sliceAt := [(9, 0)], now := 1048576 }
    s.item 0 5 = some i ∧ s.yields 0 i.owner = true ∧ (sMatrix i 0).yields 0 i.owner = false ∧ i.within = 0 := by decide +kernel
-- R264 and R286: what an `AWR` writes lands in its tile, within the tile's shape alone.
theorem test_tile_write_lands : (let r : VPend := ⟨true, 5, 7, 1000, false, 0, 0, 8, none, some (0, [(0, 7), (33, 9), (36, 5)])⟩
    let s := { withCore { ctxs := [(0, { live := true })], slots := [(0, { owner := some 0, results := [r] })], tiles := [(0, { owner := .ctx 0, rows := 4, cols := 4 })] } with
      target := { id := 5 } }
    match exec .vectorResultWrite s with
    | .next u => [(0, 0), (1, 1), (1, 4)].map (fun p => (u.tile 0 0).at_ p.1 p.2)
    | _ => []) = [7, 9, 0] := by decide +kernel

/-! #### Flows, messages, ports -/

/-- A running send of 64 bytes over four bank words, with what it has read, and the byte or the chunk that its next action is about. -/
def sendIt (k : ItemKind) (b : Bool) (got : List (Nat × Byte)) : Item :=
  { sCopy with queue := 5, kind := k, running := true, posted := b, hd := hreg 0x1000 true 1 [64] [], carry := got }
theorem witness_chunkReads : (∀ k ∈ [ItemKind.flowSend 5, .msgSend], (sendIt k true []).mayReadByte 16 = true ∧ (sendIt k true []).mayReadByte 17 = false ∧
      (sendIt k true [(16, 1)]).mayReadByte 17 = true ∧ (sendIt k true [(16, 1)]).mayReadByte 16 = false ∧ (sendIt k true []).mayReadByte 64 = false ∧
      (sendIt k true [(63, 1)]).chunkReady = false ∧ (sendIt k true ((List.range 64).map fun n => (n, 1))).chunkReady = true ∧
      { sendIt k true [] with chunkFail := some .swizzle }.chunkReady = true ∧ (sendIt k true [(20, 1)]).readRun 16 = [16, 17, 18, 19]) ∧
    ((sTurns 4 3 srcEntry).core 0).tagOf 2 ≠ (handleOf (sendIt .msgSend true []).hd).swz := by decide
-- R21, R199, R323: a send reads a bank word of its chunk, and under another tag nothing.
theorem test_send_reads : ((sTurns 4 0 srcEntry).readUnit 0 (sendIt .msgSend true []) 16).carry = (List.range 16).map (fun n => (16 + n, 0)) ∧
    ((sTurns 4 3 srcEntry).readUnit 0 (sendIt .msgSend true []) 16).carry = [] ∧
    ((sTurns 4 3 srcEntry).readUnit 0 (sendIt .msgSend true []) 16).chunkFail = some .swizzle := by decide +kernel

/-- Core 0 with a nack not reported, and contexts 1 and 2 as given. -/
def sNack (a b : Ctx) (saved : SMap SavedCtx) : State := withCore { ctxs := [(1, a), (2, b)], savedCtxs := saved, ovf := some 0x10005 }
theorem witness_overflowPending : (let t : Ctx := { live := true, prog := { hold := some .ended } }
     (t.raises = false ∧ ({} : Ctx).raises = false ∧ ({ live := true } : Ctx).raises = true) ∧ ((sNack t { live := true } []).core 0).ovf = some 0x10005 ∧
      SMap.wf ((sNack t { live := true } []).core 0).ctxs = true ∧ ((sNack t { live := true } []).core 0).overflowPending = false) ∧
    ((sNack { live := true, async := [⟨.msgovf, 7⟩] } {} []).core 0).overflowPending = true ∧
    ((sNack { live := true } {} [(3, { async := [⟨.msgovf, 7⟩] })]).core 0).overflowPending = true := by decide
-- R347: the lowest-numbered live context gets the first request nacked since MSGOVF was taken, and MSGOVF is pending once.
theorem test_overflow : (((sNack {} { live := true } []).postOverflow 0).ctx 0 2).async = [⟨.msgovf, 0x10005⟩] ∧
    (((sNack { live := true } {} [(3, { async := [⟨.msgovf, 7⟩] })]).postOverflow 0).ctx 0 1).async = [] := by decide

/-- A receive in a row of global memory, and in rows of the scratchpad, one of them swizzled, with the payload that comes first. -/
def sDelivery (h : HReg) : State :=
  sMessages { post5 with posted := true, inbox := [{ request3 with kind := .payload, data := [1, 1, 1] }], hd := h, pages := [pPlain] } [] [] []
theorem witness_deliveries : (∀ n ∈ [0, 1, 2], let h := [hreg 0x10000 false 1 [64] [], hreg 0x1000 true 1 [64] [] 2, hreg 0x1000 true 9 [16] []].getD n 0
      (handleOf h).isMx = false ∧ (handleOf h).width % 8 = 0 ∧ 0 < (handleOf h).width ∧ (handleOf h).ex = [(handleOf h).extent 0, 1, 1, 1] ∧
        (handleOf h).extent 0 * (handleOf h).width / 8 = 64) ∧
    (let s := sDelivery (hreg 0x10000 false 1 [64] [])
     ∃ i, (s.core 0).item 5 = some i ∧ (s.core 0).mayWrite i ⟨.global, paIn i.pages 0x10000 / 128⟩ = true ∧
      s.behindLeft 0 (fun _ => false) (paIn i.pages 0x10000 / 128 * 128) = false) ∧
    (∃ i, ((sDelivery (hreg 0x1000 true 1 [64] [] 2)).core 0).item 5 = some i ∧ ((sDelivery (hreg 0x1000 true 1 [64] [] 2)).core 0).mayWrite i ⟨.spad, 32⟩ = true) :=
  ⟨by decide +kernel, ⟨_, rfl, by decide +kernel, by decide +kernel⟩, ⟨_, rfl, by decide +kernel⟩⟩

/-- A receive in MX blocks on the grid of its page, one off it, and one whose scale page is wrong. -/
theorem witness_receivesInBlocks : (let ps (h : HReg) := (fresh (sCopies {})).peekPages 0 ((handleOf h).ranges false true)
     lowestOffGrid (ps (hreg 0x60000 false 0x18 [32] [])) [handleOf (hreg 0x60000 false 0x18 [32] [])] = none ∧
      lowestOffGrid (ps (hreg 0x60010 false 0x18 [32] [])) [handleOf (hreg 0x60010 false 0x18 [32] [])] = some 0x60010) ∧
    (let ps := (fresh (sCopies {})).peekPages 0 ((hOf 14).ranges false true ++ scaleRanges ((fresh (sCopies {})).peekPages 0 ((hOf 14).ranges false true)) (hOf 14) false true)
     badScalePage ps [hOf 14] = some 0x90000) := by decide +kernel

/-- A dead child that still owes the round in which its port went down, and a child that takes over a node's credits. -/
theorem witness_deadChildren : (let d : FEntry := { right with slots := [], dead := true, round := 3, deadAt := 3 }
     d.round = d.deadAt ∧ ¬ d.round < ({ owner := 0, entries := [left, d] } : FlowRec).rounds) ∧
    (primary ({ owner := 0, entries := [right, left] } : FlowRec).entries right = left) := by decide
/-- A send whose chunk a peer discarded leads to the port by a node. -/
theorem witness_discardedChunks : (let src : FEntry := { srcEntry with next := some (portLand 0), ocslot := 3 }
     let es := [src, outEntry]
     let i := sendIt (.flowSend 5) false []
     let s := sFlows [] [(5, { owner := 0, entries := es })] [] i {}
     leadsTo es [outEntry] (es.length + 1) src = true ∧ src.src = true ∧ src.lcore = some 0 ∧ s.item 0 i.seq = some i) := by decide +kernel
/-- Errors on flits of incoming packets in sequence, ahead of it and behind it, and a replay that arrives whole. -/
theorem witness_portErrors : (∀ n ∈ [9, 10, 25], (n + 4096 - 9 % 4096) % 4096 ≤ 16) ∧ ¬ (8 + 4096 - 9 % 4096) % 4096 ≤ 16 ∧
    (sPorts { up := true, txFail := (3, 5) } { unit := 2, seq := 3 }).target.unit = 2 ∧ (∀ e ∈ [(3, data0)], e.1 = (3, 5).1) := by decide
-- R386: a flit's errors count up to its replay, which clears them.
theorem test_replay_clears : [2, 1].map (fun n => match exec .flitCrcError (sPorts { up := true, txFail := (3, 5), store := [(3, data0)] } { unit := n, seq := 3 }) with
    | .next u => (u.port 0).txFail
    | _ => (9, 9)) = [(0, 0), (3, 6)] := by decide

/-! #### Saves, clocks, errors -/

/-- A thread that is in group 3 and has a barrier released in group 4, which is free; and a saved context with a stage and causes. -/
theorem witness_savedBarriers : (let s := { sGroup alone false { bars := [⟨4, 6, true, true⟩] } with target := {} }
     let t := s.ctx 0 0
     s.recordedGroups 0 0 = [3, 4] ∧ s.group 4 = none ∧ SMap.wf s.groups = true ∧ t.bars.Pairwise (fun y z => y.gid ≠ z.gid)) ∧
    (mergeAsync [⟨.timer, 1⟩] [⟨.timer, 2⟩, ⟨.digest, 3⟩] = [⟨.timer, 1⟩, ⟨.digest, 3⟩]) := by decide
-- R356, R357: the record of a group that is free keeps the standing `BAR`, its release and its generation.
theorem test_freed_group : (sGroup alone false { bars := [⟨4, 6, true, true⟩] }).groupBytes 0 0 = bytesOfNat 8 (3 + 0x10000 + 6 * 2 ^ 32) ++ bytesOfNat 8 0 ++
    (bytesOfNat 8 (4 + 0xC0000 + 6 * 2 ^ 32) ++ bytesOfNat 8 0) := by decide

/-- Two threads, a vector slot, the Arcade and the events of two engines at the end of a clock. -/
theorem witness_serviceOrder : ({ sWait {} with agenda := [] } : State).agenda = [] ∧
    (let s := sMoves (copyIt 0 0 0 0 []) {}
     s.servicePlace (.copyBlock, { id := 5 }) = 4 + min 4 sCopy.queue ∧ s.servicePlace (.matrixStep, {}) = 4 ∧ s.servicePlace (.deliveryWrite, {}) = 9) := by decide
theorem witness_launchArrival : ({ pc := 64, arrive := .launch } : Prog).pend = none := by decide

/-- A vector and an Arcade program that read a damaged place, a walk, an access of reverse mode, a delivery and a slot of a landing. -/
theorem witness_softErrorReaders : (∀ q ∈ [ErrReader.vec 0 0, .arc 0], ({ sMath with target := { place := .hbm 0x50000, reader := q } } : State).target.reader = q) ∧
    (sEmpty true 0).mayIssue (.vec 0 0) = true ∧ (onArc { prog := { pc := 8 } }).mayIssue (.arc 0) = true ∧
    (∀ k ∈ [AccKind.adjTake 0 9 .rne 0, .restore 5 4 6, .adjClear [(0x50000, 2)]], (((sAdj [adj k] none).ctx 0 0).accs.find? (fun a => a.id == 1)) = some (adj k) ∧
      (adj k).performed = false ∧ k ≠ .mark) ∧
    ((sWait {}).ctx 0 0).live = true ∧ ((sWait {}).ctx 0 5).live = false ∧
    (let i : Item := { sCopy with running := true, kind := .flowRecv 5 }
     (sFlows [] [] [] i {}).flow 5 = none ∧ (sFlows [] [(5, outFlow)] [] i {}).flow 5 = some outFlow) ∧
    (let e : FEntry := { left with aslot := 2, awin := 2, slots := [data0], sends := [(.here, data0)], frees := [(2, 1)] }
     let r : FlowRec := { owner := 0, entries := [srcEntry, e] }
     e ∈ r.entries ∧ e.slots[2 - e.aslot]? = some data0 ∧ r.entries[1]? = some e ∧ primary (r.node e) e = e ∧ (e.cslot, 1) ∈ e.frees ∧ 2 - e.aslot < 1) := by decide +kernel
-- R365: an error that an access of reverse mode meets leaves it performed and ECCU pending in its thread.
theorem test_access_error : (match exec .uncorrectableError { sAdj [adj (.adjTake 0 9 .rne 0)] none with target := { place := .hbm 0x50000, reader := .access 0 0 1 } } with
    | .next u => ((u.ctx 0 0).async, (u.ctx 0 0).accs.all (fun a => a.performed))
    | _ => ([], false)) = ([⟨.eccu, 0x20000⟩], true) := by decide +kernel

/-! #### Rounding and comparison of values -/

/-- 1 + 2^−24 lies half way from 1 to the next value of binary32, and 2^−150 half way from 0 to the smallest. -/
theorem witness_rounding : (let x : Exact := ⟨false, 2 ^ 24 + 1, -24, false⟩
     let e := max x.log2 FpFmt.fp32.emin
     x.n ≠ 0 ∧ e = 0 ∧ Exact.cmp ⟨false, 2 ^ 23, e - 23, false⟩ x ≠ .gt ∧ Exact.cmp x ⟨false, 2 ^ 23 + 1, e - 23, false⟩ = .lt ∧
      Exact.cmp x ⟨false, 2 ^ 24 + 1, e - 24, false⟩ = .eq) ∧
    (let x : Exact := ⟨false, 1, -150, false⟩
     max x.log2 FpFmt.fp32.emin = -126 ∧ Exact.cmp ⟨false, 0, -149, false⟩ x ≠ .gt ∧ Exact.cmp x ⟨false, 1, -149, false⟩ = .lt) := by decide +kernel
-- R144, R145: a tie goes to the even neighbour, up in RUP; beside 0 the result underflows; beyond the largest value it is an infinity or that value.
theorem test_rounding : FpFmt.fp32.round .rne ⟨false, 2 ^ 24 + 1, -24, false⟩ = (0x3F800000, Flags.nx) ∧
    FpFmt.fp32.round .rup ⟨false, 2 ^ 24 + 1, -24, false⟩ = (0x3F800001, Flags.nx) ∧ FpFmt.fp32.round .rne ⟨false, 1, -150, false⟩ = (0, Flags.nx ||| Flags.uf) ∧
    FpFmt.fp32.round .rne ⟨false, 1, 128, false⟩ = (0x7F800000, Flags.of ||| Flags.nx) ∧ FpFmt.fp32.round .rtz ⟨false, 1, 128, false⟩ = (0x7F7FFFFF, Flags.of ||| Flags.nx) := by
  decide +kernel
-- R170, R173: the square root of 2 in binary32, a minimum of zeros, and the class of a subnormal number.
theorem test_root_and_minimum : fpSqrt FpFmt.fp32 .rne (FpFmt.fp32.decode 0x40000000) = (0x3FB504F3, Flags.nx) ∧
    (fpMinMax FpFmt.fp32 false 0 0x80000000).1 = 0x80000000 ∧ (fpMinMax FpFmt.fp32 true 0 0x80000000).1 = 0 ∧ fpClass FpFmt.fp32 0x80000001 = 4 := by decide +kernel

/-! ### Hypotheses of clauses on queues, trees, restores and errors -/

/-- Delay slots of one word, and of a bundle of one subtree. -/
theorem witness_slotLengths : seqNext 8 1 = 12 ∧ (sMath.iword sMath.cur 12).toNat / 2 ^ 24 = 0 ∧ sMath.cur.imem = .control ∧
    (let s := sBundle 0x20F [(3, 0x80000008)] []
     (s.iword s.cur 12).toNat / 2 ^ 24 = 0x80 ∧ s.cur.imem = .arcade ∧ (s.iword s.cur 12).getLsbD 3 = true) := by decide
theorem witness_slotsAtLoopEnds : encode .nop ≠ [] ∧ (encode .nop).length = 1 ∧ seqNext 12 1 = 16 ∧
    (sBundle 0x001 [] []).bundle (.arc 0) (subtreeOf false 8 0 0 0) = .ok [subtreeOf false 8 0 0 0] := by decide

/-- What keeps a thread from being drained, and a thread with a load that has performed and a store that has not. -/
theorem witness_resultsInFlight : (∀ t ∈ [({ prog := { sEmpty := 4 } } : Ctx), { digests := [⟨8, 5⟩] }, { fifos := [(3, ⟨[], [⟨.thread 0 0, 5⟩]⟩)] },
      { accs := [{ id := 1, kind := .ldg 0 8 }] }, { accs := [{ id := 1, kind := .adjRead 0 0 .rne 0 }] }], (sWait t).drained (.thread 0 0) = false) ∧
    (let s := sWait { accs := [{ id := 1, kind := .ldg 0 8, performed := true }, { id := 2, kind := .stg 8 9 }] }
     (s.ctx 0 0).prog.sEmpty = 0 ∧ (s.ctx 0 0).fifos = [] ∧ (s.core 0).streams = [] ∧ (s.ctx 0 0).digests = [] ∧
      ∀ a ∈ (s.ctx 0 0).accs, a.performed = true ∨ a.kind = .stg 8 9) ∧
    (sStream { ring := some ringOf4, claims := [claim7] }).streamClaim (.thread 0 0) = true ∧ (sStream {}).streamClaim (.thread 0 0) = false := by decide

/-- A tile of an ended thread with an item of it in the queues, and without; an item of another thread does not count. -/
theorem witness_tilesLeft : (∀ l ∈ [[5], [7]], let s := (sTile []).setTile 0 5 { owner := .ctx 0, ending := true, after := l }
    (s.tile 0 5).ending = true ∧ ((s.core 0).items.any (fun i => (s.tile 0 5).after.contains i.seq)) = (l == [5])) := by decide
-- R267: a tile of an ended thread is free only once every item that the thread had has left the queues.
theorem test_tile_waits : [[5], [7]].map (fun l => match exec .tileAutoRelease ((sTile []).setTile 0 5 { owner := .ctx 0, ending := true, after := l }) with
    | .next u => (u.tile 0 5).owner
    | _ => .area 0) = [.ctx 0, .free] := by decide
/-- A write-out whose row of four elements is one bank word of the scratchpad. -/
theorem witness_outUnits : (outIt 0).wrote = [] ∧ (∀ q, q < 4 → (0x3000 + 4 * q) / 16 = 0x300) ∧ (sMatrix (outIt 0) 0).yields 0 (outIt 0).owner = false ∧
    (∀ q p x y, q < 4 → p < 4 → x < 4 → y < 4 → 0x3000 + 4 * q + x = 0x3000 + 4 * p + y → q = p ∧ x = y) := by
  refine ⟨rfl, by decide, by decide, ?_⟩
  omega

/-- A thread at a fence of its core, with a store that has not left the landing and one that has. -/
def sFence (n : Nat) : State :=
  sWait { accs := [{ id := 1, kind := .stg 8 9, isSt := true }, { id := 2, kind := .stg 8 9, isSt := true, left := some 5 }], prog := { pc := 8, hold := some (.fence n) } }
theorem witness_fenceScopes : ((sFence 0).ctx 0 0).prog.hold = some (.fence 0) ∧ ((sFence 0).ctx 0 0).fenceDone 0 = true ∧ ((sFence 1).ctx 0 0).fenceDone 1 = false := by decide
-- R230, R236: a fence of scope core ends with stores that have not performed, which leave the landing then.
theorem test_core_fence : (match exec .waitRelease (sFence 0) with
    | .next u => ((u.ctx 0 0).prog.hold, (u.ctx 0 0).accs.map (fun a => a.left))
    | _ => (none, [])) = (none, [some 1000, some 5]) := by decide

/-- Exact values, and a conversion of 1.5 with its neighbours 1 and 2. -/
theorem witness_exactValues : ((⟨false, 1, 0, false⟩ : Exact).sticky = false ∧ (Exact.add ⟨false, 1, 0, false⟩ ⟨true, 1, 0, false⟩ true).n = 0) ∧
    (0x08, 11, 52, 1023, 0) ∈ [((0x08 : Nat), (11 : Nat), (52 : Nat), (1023 : Nat), (0 : Nat))] ∧
    (let v := FpFmt.fp32.decode 0x3FC00000
     ∃ y, v = .fin y ∧ Exact.cmp ⟨false, 1, 0, false⟩ { y with neg := false } ≠ .gt ∧ Exact.cmp { y with neg := false } ⟨false, 1 + 1, 0, false⟩ = .lt) ∧
    (FpFmt.fp32.decode 0x7FC00000 = .nan false ∧ FpFmt.fp32.decode 0x7F800000 = .inf false) := by
  refine ⟨by decide, by decide, ⟨_, rfl, by decide, by decide⟩, by decide⟩
theorem witness_mxBlocks : let xs : List Exact := List.replicate 31 ⟨false, 1, 0, false⟩ ++ [⟨true, 3, 5, false⟩]
    (∀ y ∈ xs, y.sticky = false) ∧ (⟨true, 3, 5, false⟩ : Exact) ∈ xs ∧ (∀ y ∈ xs, Exact.cmp { y with neg := false } ⟨false, 3, 5, false⟩ ≠ .gt) ∧
      (∃ v ∈ [Val.fin ⟨false, 1, 0, false⟩, .inf true], ∀ y, v ≠ .fin y) := by
  refine ⟨by decide, by decide, by decide, ⟨.inf true, by decide, fun _ h => by cases h⟩⟩
-- R148: a block whose greatest magnitude is 96 = 1.5 × 2^6 has in MXFP8 the scale 2^−2, and 1 is then 4, which E4M3 writes 0x48.
theorem test_mx_block : (quantBlock 0x18 .rne (List.replicate 31 (.fin ⟨false, 1, 0, false⟩) ++ [.fin ⟨true, 3, 5, false⟩])).1 = 125 ∧
    ((quantBlock 0x18 .rne (List.replicate 31 (.fin ⟨false, 1, 0, false⟩) ++ [.fin ⟨true, 3, 5, false⟩])).2.1.getD 0 0) = 0x48 := by decide +kernel
theorem witness_canonicalTree : (2 ^ 1 < ([some 1, none, some 2] : List (Option Nat)).length ∧ ([some 1, none, some 2] : List (Option Nat)).length ≤ 2 ^ 2) ∧
    (canonTree (fun x y => (x + y, 0)) 3 ([some 1, none, some 2].take 2)).1 = some 1 ∧ (canonTree (fun x y => (x + y, 0)) 3 ([none, none, some 2].take 2)).1 = none ∧
    (canonTree (fun x y => (x + y, 0)) 3 ([some 1, none, some 2].drop 2)).1 = some 2 := by decide

/-- The words and the keys of the rounds of Philox from a zero counter and key. -/
def philoxRounds : Nat → List Nat
  | 0 => [0, 0, 0, 0, 0, 0]
  | n + 1 =>
    let l := philoxRounds n
    let g (j : Nat) : Nat := l.getD j 0
    [0xCD9E8D57 * g 2 / 2 ^ 32 ^^^ g 1 ^^^ g 4, 0xCD9E8D57 * g 2 % 2 ^ 32, 0xD2511F53 * g 0 / 2 ^ 32 ^^^ g 3 ^^^ g 5, 0xD2511F53 * g 0 % 2 ^ 32,
      (g 4 + 0x9E3779B9) % 2 ^ 32, (g 5 + 0xBB67AE85) % 2 ^ 32]
theorem witness_philox : let x (n j : Nat) : Nat := (philoxRounds n).getD j 0
    let k (n j : Nat) : Nat := (philoxRounds n).getD (4 + j) 0
    (∀ j, j < 4 → x 0 j = 0) ∧ (∀ j, j < 2 → k 0 j = 0) ∧ ∀ n, n < 10 → k (n + 1) 0 = (k n 0 + 0x9E3779B9) % 2 ^ 32 ∧ k (n + 1) 1 = (k n 1 + 0xBB67AE85) % 2 ^ 32 ∧
      x (n + 1) 0 = 0xCD9E8D57 * x n 2 / 2 ^ 32 ^^^ x n 1 ^^^ k n 0 ∧ x (n + 1) 1 = 0xCD9E8D57 * x n 2 % 2 ^ 32 ∧
      x (n + 1) 2 = 0xD2511F53 * x n 0 / 2 ^ 32 ^^^ x n 3 ^^^ k n 1 ∧ x (n + 1) 3 = 0xD2511F53 * x n 0 % 2 ^ 32 := by
  decide +kernel

/-- Two results of one register, due in one clock, and one of a scalar that is not due. -/
theorem witness_resultsOfOneClock : let r (v : Bool) (n value due : Nat) : VPend := ⟨v, n, value, due, false, 0, 0, 8, none, none⟩
    let s := { withCore { ctxs := [(0, { live := true })], slots := [(0, { owner := some 0, results := [r true 5 1 999, r true 5 2 1000, r false 7 3 1001] })] } with target := {} }
    (s.slot 0 0).owner = some 0 ∧ (s.slot 0 0).results.filter (fun r => !r.long && decide (r.due ≤ s.now)) = [r true 5 1 999] ++ r true 5 2 1000 :: [] := by decide
-- R159: of two results for one register that land in one clock the later one stays.
theorem test_results_of_one_clock : (let r (n value due : Nat) : VPend := ⟨true, n, value, due, false, 0, 0, 8, none, none⟩
    match exec .vectorResultWrite { withCore { ctxs := [(0, { live := true })], slots := [(0, { owner := some 0, results := [r 5 1 999, r 5 2 1000, r 7 3 1001] })] } with target := {} } with
    | .next u => ((SMap.get 0 (u.ctx 0 0).v 5).toNat, (u.slot 0 0).results.length)
    | _ => (0, 0)) = (2, 1) := by decide +kernel
/-- A load behind an acquire, and behind a store alone. -/
theorem witness_performOrder : ∀ k ∈ [AccKind.stg 8 9, .mark], let a : Acc := { id := 2, kind := .ldg 5 8, isLd := true, pa := 0x50000 }
    let b : Acc := { id := 1, kind := k, isSt := true }
    let s := { sWait { accs := [b, a] } with target := { id := 2 } }
    (s.ctx 0 s.target.unit).accs = [b] ++ a :: [] ∧ a.id = s.target.id ∧ (∀ e ∈ [b], e.id ≠ a.id) ∧ (s.performable = some a ↔ k = .stg 8 9) := by decide +kernel

/-! #### Restores -/

/-- A save area at 0x200000 with one record, of item 5 in queue 1, and a vector program; the item as it was saved, with the context's group 3. -/
def sRestore : State :=
  let area : Memory := [(16, 8, 1 + 2 ^ 32), (0x640, 8, 3 + 2 ^ 18 + 6 * 2 ^ 32), (0x940 + 0x280, 8, 64), (0x1000, 8, 5), (0x1008, 8, 1), (0x1010, 8, 7)].foldl
    (fun m (e : Nat × Nat × Nat) => m.writeN (0x200000 + e.1) e.2.1 e.2.2) ([] : Memory)
  let s := sSave (some (.crest 0x200000 [pSave]))
  { s.setCore 0 { s.core 0 with saved := [{ sCopy with queue := 1, kind := .sig 3, owner := savedOwner 0x200000 0, begun := true }], savedCtxs := [(0, { recorded := [3], bars := [⟨3, 6, true, true⟩] })] } with
    hbm := area, target := {} }
theorem witness_restoredParts : sRestore.restoreReady 0 0 0x200000 [pSave] = true ∧ sRestore.away.contains 0 = false ∧ (sRestore.slot 0 0).owner = none ∧
    (let dw (o : Nat) : Nat := natOfBytes (sRestore.readVa [pSave] (0x200000 + o) 8)
     dw 16 % 4 = 1 ∧ min 384 (dw 16 / 2 ^ 32 % 512) = 1 ∧ dw 0x1000 = 5 ∧ dw 0x5B8 = 0 ∧ (dw 0x640).testBit 18 = true ∧ dw (0x940 + 0x288) / 0x20000 % 2 = 0) ∧
    (∃ k, (sRestore.core 0).saved.find? (fun i => i.seq == 5) = some k ∧ (∀ f g, k.kind ≠ .waitf f g)) ∧ (∀ j ∈ (sRestore.core 0).items, j.seq ≠ 5) := by
  refine ⟨by decide +kernel, by decide, by decide, by decide +kernel, ⟨_, rfl, fun _ _ h => by cases h⟩, by decide⟩
-- R131, R359: the item is back in its queue with its number and its count, the program at its pc, the arrival released.
theorem test_restore : (match exec .waitRelease sRestore with
    | .next u => ((u.core 0).items.map (fun i => (i.seq, i.queue, i.kind)), (u.slot 0 0).prog.pc, (u.ctx 0 0).bars.map (fun b => (b.gid, b.released)))
    | _ => ([], 0, [])) = ([(5, 1, .sig 7)], 64, [(3, true)]) := by decide +kernel
/-- A saved item whose footprint has no page, and a tile of an area that no page maps. -/
theorem witness_restoreFaults : (match walkFoot 0 [⟨0x500000, 0x500100, true, false⟩] (pageBound [⟨0x500000, 0x500100, true, false⟩]) (sSave none) 0 with
      | .trap c v => (c, v)
      | _ => (.illegal, 0)) = (.xlate, 0x500000) ∧ walkFoot 0 [] (pageBound []) (sSave none) 0 = .pages [] (sSave none) ∧
    (match (sSave none).spill 0 3 0x500000 with
      | .trap c v => (c, v)
      | _ => (.illegal, 0)) = (.xlate, BitVec.ofNat 64 (tileSlot 0x500000 3)) := by decide +kernel
/-- Transfer records of programs: none, one with slots left, and one at its entry. -/
theorem witness_programRecords : (0 : Nat) / 0x20000 % 2 = 0 ∧ (∀ n ∈ [0, 1, 2], let x : Xfer := ⟨.br, 8, 0x100, true, n⟩
    (packXfer (some x) false).toNat < 0x8000000000 ∧ unpackXfer (BitVec.ofNat 64 (packXfer (some x) false).toNat) = some x) ∧
    (let v : Nat := 2 ^ 39 + 2 ^ 17 + 2 ^ 18 + 2 * 2 ^ 21
     v.testBit 39 = true ∧ v / 0x20000 % 2 = 1 ∧ v / 0x80000 % 4 = 0 ∧ v.testBit 18 = true ∧ v / 0x200000 % 4 = 2) := by decide

/-! #### Errors that programs meet, host reads -/

/-- The thread of `sFetch` that meets an error in its next instruction: `ADD` with a full or an empty source, an `ADD` that the slot rule forbids. -/
def sMeets (e : BitVec 64) (x : Option Xfer) : State :=
  let s := sFetch 8 .plain []
  let t := s.ctx 0 0
  { s.setCtx 0 0 { t with prog := { t.prog with sEmpty := e, pend := x, loops := if x.isSome then { lc := [(0, ⟨2, 8, 12⟩)], order := [0] } else {} } } with
    agenda := [.readError (.thread 0 0) 0x100 false] }
theorem witness_readErrors : (sMeets 0 none).agenda = .readError (.thread 0 0) 0x100 false :: [] ∧ (sMeets 0 none).mayIssue (.thread 0 0) = true ∧
    (sMeets 0 none).hasAsync (.thread 0 0) = false ∧ (sMeets 0 none).fetch (.thread 0 0) 0 = .ok (.add 3 4 5) ∧
    (match exec (.add 3 4 5) (sMeets 16 none) with
      | .next u => u.stalled
      | _ => false) = true ∧
    (match exec (.add 3 4 5) (sMeets 0 (some ⟨.br, 4, 0x100, true, 1⟩)) with
      | .next u => ((u.ctx 0 0).prog.hold, (u.ctx 0 0).modeM)
      | _ => (none, false)) = (some (.halting 0 (some ⟨.illslot, 8, 8, some ⟨.br, 4, 0x100, true, 1⟩⟩)), true) ∧
    (match exec (.add 3 4 5) (sMeets 0 none) with
      | .next u => (u.stalled, (u.ctx 0 0).prog.trapping.isSome, (u.ctx 0 0).prog.hold)
      | _ => (true, true, none)) = (false, false, none) ∧ (LW.ofWord ((sMeets 0 none).iword (.thread 0 0) 12)).g = false := by
  refine ⟨rfl, by decide, by decide, rfl, by decide, by decide, by decide, by decide⟩
-- R35, R101, R365: the error is met where the instruction reads, so its slot check comes first, and while it waits nothing is read.
theorem test_read_errors : [sMeets 0 none, sMeets 16 none, sMeets 0 (some ⟨.br, 4, 0x100, true, 1⟩)].map (fun s => match step s with
    | .next u => (u.ctx 0 0).prog.hold
    | _ => none) = [some (.halting 0 (some ⟨.eccu, 0x100, 8, none⟩)), none, none] := by decide +kernel
theorem witness_hostReads : (∀ z ∈ [4, 8], ∀ o ∈ [0, 0x38, 0x48, 0x80, 0x88], (0x100000 + 4096 * 255 + o) % z = 0 ∧ 0x100000 + 4096 * 255 + o + z ≤ 0x2000000 ∧ o < 4096) ∧
    ((0x100000 + 0x8C) % 4 = 0 ∧ (0x300000 + 0x3FFF8) % 8 = 0 ∧ (0x400000 + 0xFFFFF8) % 8 = 0 ∧ 0x400000 + 0xFFFFF8 + 8 ≤ 0x2000000) := by decide
-- R371–R373: the status of a mailbox with a command in it, and a misaligned read.
theorem test_host_reads : (sReply none 0 0 1).bar0Read 0x100088 8 = 1 ∧ (sReply none 0 0 1).bar0Read 0x100000 8 = 9 ∧
    (sReply none 0 0 1).bar0Read 0x100004 8 = 0xFFFFFFFFFFFFFFFF := by decide
/-- An image on no page, one whose first bytes are zero, one with a section of kind 9, and the sections of a good one, of which one may lie on no page. -/
theorem witness_imageReads :
    (match (sLaunch [] false).imagePages 0 0x500000 16 with
      | .error e => e
      | .ok _ => .noMemory) = .reason 9 0x500000 ∧ (match (sLaunch imageBytes false).imagePages 0 0x10000 48 with
      | .error _ => 0
      | .ok x => x.1.length) = 1 ∧
    (match (sLaunch (words [0x4D49574B, 1, 1, 32, 9, 0, 0, 0]) false).readImage 0 0x10000, (sLaunch imageBytes false).imagePages 0 0x10000 0 with
      | .error e, .ok x => (e, x.1.length)
      | _, _ => (.noMemory, 9)) = (.reason 1 0, 0) ∧
    (match State.readSections 0 0x10000 [{ kind := 4, addr := 0, len := 8, off := 0x500000 }] (sLaunch imageBytes false) none [] with
      | .error e => e
      | .ok _ => .noMemory) = .reason 9 0x510000 := by decide +kernel
-- R26, R358: a record of which the machine kept nothing rounds in the static mode of its word 1, whatever the free values.
theorem test_bareMode (v w m : DWord) : (bareItem (List.replicate 37 0 ++ [0x80] ++ List.replicate 218 0) 0 v w m).rm = .rtz := by
  have h : (LW.ofWord (BitVec.ofNat 32 (natOfBytes (((List.replicate 37 0 ++ [0x80] ++ List.replicate 218 0 : List Byte).drop 36).take 4)))).rm = 1 := by decide
  exact (congrArg (fun r => Rm.resolve r (m.setWidth 3)) h).trans rfl

end Sys2Proof.Tests
end

section
/-! PROOFS. The shared control subset (R52 to R84): the value that each two-source integer instruction leaves in its destination,
as the spec writes it, and the divisions' trap and hold. -/

namespace Sys2Proof.Proofs.ControlSubset

open Sys2Proof.Machine
open Sys2Proof.Safety

/-! ### Results as numbers (R54)

The model computes on words; the rules are stated on the numbers that the words stand for. -/

section Words

variable {w : Nat} (x y : BitVec w)

theorem mul_eq_ofNat : x * y = BitVec.ofNat w (x.toNat * y.toNat) :=
  BitVec.eq_of_toNat_eq (by rw [BitVec.toNat_mul, BitVec.toNat_ofNat])

theorem sub_eq_ofInt : x - y = BitVec.ofInt w ((x.toNat : Int) - y.toNat) := by
  rw [Int.sub_eq_add_neg, BitVec.ofInt_add, BitVec.ofInt_neg, BitVec.ofInt_natCast, BitVec.ofInt_natCast, BitVec.ofNat_toNat,
    BitVec.ofNat_toNat, BitVec.setWidth_eq, BitVec.setWidth_eq, BitVec.sub_eq_add_neg]

theorem shiftLeft_eq_ofNat (n : Nat) : x <<< n = BitVec.ofNat w (x.toNat * 2 ^ n) :=
  BitVec.eq_of_toNat_eq (by rw [BitVec.toNat_shiftLeft, BitVec.toNat_ofNat, Nat.shiftLeft_eq])

theorem ushiftRight_eq_ofNat (n : Nat) : x >>> n = BitVec.ofNat w (x.toNat / 2 ^ n) := by
  rw [← Nat.shiftRight_eq_div_pow, ← BitVec.toNat_ushiftRight, BitVec.ofNat_toNat, BitVec.setWidth_eq]

theorem sshiftRight_eq_ofInt (n : Nat) : x.sshiftRight n = BitVec.ofInt w (x.toInt / 2 ^ n) := by
  rw [BitVec.sshiftRight, Int.shiftRight_eq_div_pow]; norm_cast

/-- A word of `w + v` bits keeps the `v` bits from bit `w` of the number it holds, negative ones included. -/
theorem emod_pow_add_ediv_emod (w v : Nat) (z : Int) : z % 2 ^ (w + v) / 2 ^ w % 2 ^ v = z / 2 ^ w % 2 ^ v := by
  have hw : (2 : Int) ^ w ≠ 0 := pow_ne_zero _ two_ne_zero
  rw [Int.emod_def z, pow_add, Int.mul_assoc, Int.sub_eq_add_neg, ← Int.mul_neg, Int.add_mul_ediv_left _ _ hw, ← Int.mul_neg,
    Int.add_mul_emod_self_left]

/-- The field of `v` bits from bit `w`, of a number of either sign: what the two high products read (R54). -/
theorem extractLsb'_ofInt (w v : Nat) (z : Int) : (BitVec.ofInt (w + v) z).extractLsb' w v = BitVec.ofInt v (z / 2 ^ w) := by
  apply BitVec.eq_of_toNat_eq
  have hz : 0 ≤ z % 2 ^ (w + v) := Int.emod_nonneg _ (pow_ne_zero _ two_ne_zero)
  have hq : 0 ≤ z / 2 ^ w % 2 ^ v := Int.emod_nonneg _ (pow_ne_zero _ two_ne_zero)
  rw [BitVec.extractLsb'_toNat, BitVec.toNat_ofInt, BitVec.toNat_ofInt, Nat.shiftRight_eq_div_pow]
  zify
  rw [Int.toNat_of_nonneg hz, Int.toNat_of_nonneg hq, emod_pow_add_ediv_emod]

theorem signExtend_mul_high {v : Nat} (hv : v = w + w) :
    (x.signExtend v * y.signExtend v).extractLsb' w w = BitVec.ofInt w (x.toInt * y.toInt / 2 ^ w) := by
  subst hv
  rw [BitVec.signExtend, BitVec.signExtend, ← BitVec.ofInt_mul, extractLsb'_ofInt]

theorem setWidth_mul_high {v : Nat} (hv : v = w + w) :
    (x.setWidth v * y.setWidth v).extractLsb' w w = BitVec.ofNat w (x.toNat * y.toNat / 2 ^ w) := by
  subst hv
  rw [← BitVec.ofNat_toNat, ← BitVec.ofNat_toNat, ← BitVec.ofNat_mul, ← BitVec.ofInt_natCast, extractLsb'_ofInt,
    ← BitVec.ofInt_natCast]
  norm_cast

end Words

section MinMax

variable (x y : DWord)

theorem minS_eq_ite : minS x y = if x.toInt ≤ y.toInt then x else y := by
  simp only [minS, BitVec.sle_iff_toInt_le]

theorem minU_eq_ite : minU x y = if x.toNat ≤ y.toNat then x else y := by
  simp only [minU, BitVec.ule_iff_toNat_le]

/-- Where the two are equal, either is the larger. -/
theorem maxS_eq_ite : maxS x y = if x.toInt ≤ y.toInt then y else x := by
  simp only [maxS, BitVec.sle_iff_toInt_le]
  split
  · split
    · exact BitVec.eq_of_toInt_eq (by omega)
    · rfl
  · rw [if_pos (by omega)]

theorem maxU_eq_ite : maxU x y = if x.toNat ≤ y.toNat then y else x := by
  simp only [maxU, BitVec.ule_iff_toNat_le]
  split
  · split
    · exact BitVec.eq_of_toNat_eq (by omega)
    · rfl
  · rw [if_pos (by omega)]

end MinMax

/-! ### The function of two words that each instruction computes (R54, R55) -/

section Equations

variable (d a b : Reg) (s : State)

theorem exec_add : exec (.add d a b) s = alu2 s d a b (· + ·) := rfl
theorem exec_sub : exec (.sub d a b) s = alu2 s d a b (· - ·) := rfl
theorem exec_mul : exec (.mul d a b) s = alu2 s d a b (· * ·) := rfl
theorem exec_mulh : exec (.mulh d a b) s = alu2 s d a b
    fun x y => (x.signExtend 128 * y.signExtend 128).extractLsb' 64 64 := rfl
theorem exec_mulhn : exec (.mulhn d a b) s = alu2 s d a b
    fun x y => (x.setWidth 128 * y.setWidth 128).extractLsb' 64 64 := rfl
theorem exec_and : exec (.and d a b) s = alu2 s d a b (· &&& ·) := rfl
theorem exec_or : exec (.or d a b) s = alu2 s d a b (· ||| ·) := rfl
theorem exec_xor : exec (.xor d a b) s = alu2 s d a b (· ^^^ ·) := rfl
theorem exec_shl : exec (.shl d a b) s = alu2 s d a b fun x y => x <<< amount y := rfl
theorem exec_shr : exec (.shr d a b) s = alu2 s d a b fun x y => x >>> amount y := rfl
theorem exec_sar : exec (.sar d a b) s = alu2 s d a b fun x y => x.sshiftRight (amount y) := rfl
theorem exec_min : exec (.min d a b) s = alu2 s d a b minS := rfl
theorem exec_max : exec (.max d a b) s = alu2 s d a b maxS := rfl
theorem exec_minn : exec (.minn d a b) s = alu2 s d a b minU := rfl
theorem exec_maxn : exec (.maxn d a b) s = alu2 s d a b maxU := rfl
theorem exec_div : exec (.div d a b) s = divide s d a b quotS := rfl
theorem exec_divn : exec (.divn d a b) s = divide s d a b fun x y => BitVec.ofNat 64 (x.toNat / y.toNat) := rfl
theorem exec_rem : exec (.rem d a b) s = divide s d a b remS := rfl
theorem exec_remn : exec (.remn d a b) s = divide s d a b fun x y => BitVec.ofNat 64 (x.toNat % y.toNat) := rfl

end Equations

/-! ### Divisions (R53, R55) -/

/-- What a division whose registers are ready comes to: the trap of a zero divisor, or its result under the hold. -/
theorem divide_body {s : State} {d a b : Reg} (f : DWord → DWord → DWord) (hr : RegsReady s [srcS a, srcS b, srcS d]) :
    (fresh s).ready s.cur [srcS a, srcS b] [srcS d]
      (if (fresh s).getS s.cur b = 0 then .trap .divzero ((fresh s).getS s.cur a)
       else .retire (((fresh s).setS s.cur d (f ((fresh s).getS s.cur a) ((fresh s).getS s.cur b))).holdFor s.cur 18))
    = if s.getS s.cur b = 0 then .trap .divzero (s.getS s.cur a)
      else .retire (((fresh s).setS s.cur d (f (s.getS s.cur a) (s.getS s.cur b))).holdFor s.cur 18) := by
  rw [fresh_ready (srcs := [srcS a, srcS b]) (dests := [srcS d]) hr]
  simp only [fresh_getS]

/-- A division by zero traps DIVZERO with the dividend. -/
theorem traps_of_divide {i : Instr} {s : State} {d a b : Reg} {f : DWord → DWord → DWord} (hi : exec i s = divide s d a b f)
    (hs : Stands s 1 .any) (hr : RegsReady s [srcS a, srcS b, srcS d]) (hy : s.getS s.cur b = 0) :
    Traps i s .divzero (s.getS s.cur a) :=
  traps_of_issue _ hi hs ((divide_body f hr).trans (if_pos hy))

/-- A division by another number writes its result and holds the thread for 18 clocks. -/
theorem writesSHeld_of_divide {i : Instr} {s : State} {d a b : Reg} {f : DWord → DWord → DWord} {v : DWord}
    (hi : exec i s = divide s d a b f) (hs : Stands s 1 .any) (hr : RegsReady s [srcS a, srcS b, srcS d])
    (hy : s.getS s.cur b ≠ 0) (hv : f (s.getS s.cur a) (s.getS s.cur b) = v) : WritesSHeld i s 1 d v 18 :=
  writesSHeld_of_issue _ hi hs ((divide_body f hr).trans (by rw [if_neg hy, hv]))

/-! ### The obligation -/

/-- Settles O1: each instruction is `alu2` or `divide` at a function of two words, whose value is the rule's. -/
theorem integerArithmetic : Obligations.IntegerArithmetic := by
  unfold Obligations.IntegerArithmetic
  constructor
  · intro s d a b hs hr x y n
    refine ⟨?add, ?sub, ?mul, ?mulh, ?mulhn, ?and, ?or, ?xor, ?shl, ?shr, ?sar, ?min, ?max, ?minn, ?maxn⟩
    case add => exact writesS_of_alu2 (exec_add ..) hs hr (BitVec.add_def ..)
    case sub => exact writesS_of_alu2 (exec_sub ..) hs hr (sub_eq_ofInt x y)
    case mul => exact writesS_of_alu2 (exec_mul ..) hs hr (mul_eq_ofNat x y)
    case mulh => exact writesS_of_alu2 (exec_mulh ..) hs hr (signExtend_mul_high x y rfl)
    case mulhn => exact writesS_of_alu2 (exec_mulhn ..) hs hr (setWidth_mul_high x y rfl)
    case and => exact writesS_of_alu2 (exec_and ..) hs hr rfl
    case or => exact writesS_of_alu2 (exec_or ..) hs hr rfl
    case xor => exact writesS_of_alu2 (exec_xor ..) hs hr rfl
    case shl => exact writesS_of_alu2 (exec_shl ..) hs hr (shiftLeft_eq_ofNat x n)
    case shr => exact writesS_of_alu2 (exec_shr ..) hs hr (ushiftRight_eq_ofNat x n)
    case sar => exact writesS_of_alu2 (exec_sar ..) hs hr (sshiftRight_eq_ofInt x n)
    case min => exact writesS_of_alu2 (exec_min ..) hs hr (minS_eq_ite x y)
    case max => exact writesS_of_alu2 (exec_max ..) hs hr (maxS_eq_ite x y)
    case minn => exact writesS_of_alu2 (exec_minn ..) hs hr (minU_eq_ite x y)
    case maxn => exact writesS_of_alu2 (exec_maxn ..) hs hr (maxU_eq_ite x y)
  · intro s d a b hs hr x y
    refine ⟨fun hy => ?zero, fun hy => ⟨?div, ?divn, ?rem, ?remn⟩⟩
    case zero =>
      intro i hi
      simp only [List.mem_cons, List.not_mem_nil, or_false] at hi
      obtain rfl | rfl | rfl | rfl := hi
      · exact traps_of_divide (exec_div ..) hs hr hy
      · exact traps_of_divide (exec_divn ..) hs hr hy
      · exact traps_of_divide (exec_rem ..) hs hr hy
      · exact traps_of_divide (exec_remn ..) hs hr hy
    case div => exact writesSHeld_of_divide (exec_div ..) hs hr hy rfl
    case divn => exact writesSHeld_of_divide (exec_divn ..) hs hr hy rfl
    case rem => exact writesSHeld_of_divide (exec_rem ..) hs hr hy rfl
    case remn => exact writesSHeld_of_divide (exec_remn ..) hs hr hy (congrArg (BitVec.ofNat 64) Nat.mod_eq_sub_div_mul)

end Sys2Proof.Proofs.ControlSubset
end

section
/-! PROOFS. Threads, groups and launch (R114, R115): what a size-class record of control-core memory holds, and the variant that
`SELECT` picks from it. -/

namespace Sys2Proof.Proofs.SizeClasses

open Sys2Proof.Machine
open Sys2Proof.Safety

/-! ### Size-class records (R114)

The model reads a record as a list of pairs; the rule speaks of its words. -/

/-- Word j of a record, counted from the word that holds the number of its variants. -/
def recordWord (k : Core) (n j : Nat) : Nat := (k.cword (n + 4 * j)).toNat

/-- A well-formed record stands at the address: a literal line, a count from 1 to 8, and classes that rise (R114). -/
def IsRecord (k : Core) (n : Nat) : Prop :=
  n < IMem.control.bytes ∧ n % 128 = 8 ∧ (k.cword (n - 8)).toNat / 2 ^ 30 = 1 ∧ recordWord k n 0 / 2 ^ 16 = 0x5343 ∧
    1 ≤ recordWord k n 0 % 2 ^ 16 ∧ recordWord k n 0 % 2 ^ 16 ≤ 8 ∧
    ∀ j, j + 1 < recordWord k n 0 % 2 ^ 16 → recordWord k n (2 * j + 1) < recordWord k n (2 * j + 3)

/-- The first `c` classes of a list of variants rise: the comparison that the model makes. -/
def classesRise (vs : List (Nat × Nat)) (c : Nat) : Bool :=
  (List.range (c - 1)).all fun j => decide ((vs.getD j (0, 0)).1 < (vs.getD (j + 1) (0, 0)).1)

/-- The first `c` variants of a record: (class, entry) in order. -/
def variants (k : Core) (n c : Nat) : List (Nat × Nat) :=
  (List.range c).map fun j => (recordWord k n (2 * j + 1), recordWord k n (2 * j + 2))

section Records

variable {k : Core} {n : Nat}

theorem recordWord_zero : recordWord k n 0 = (k.cword n).toNat := rfl

theorem sizeLine_iff :
    k.sizeLine n = true ↔ n < IMem.control.bytes ∧ n % 128 = 8 ∧ (k.cword (n - 8)).toNat / 2 ^ 30 = 1 := by
  simp only [Core.sizeLine, Bool.and_eq_true, decide_eq_true_eq, beq_iff_eq, and_assoc]

theorem sizeCount_eq_some_iff {c : Nat} : k.sizeCount n = some c ↔
    recordWord k n 0 / 2 ^ 16 = 0x5343 ∧ 1 ≤ c ∧ c ≤ 8 ∧ c = recordWord k n 0 % 2 ^ 16 := by
  simp only [Core.sizeCount, recordWord_zero, Option.ite_none_right_eq_some, Option.some.injEq]
  constructor
  · rintro ⟨⟨hw, h1, h8⟩, rfl⟩; exact ⟨hw, h1, h8, rfl⟩
  · rintro ⟨hw, h1, h8, rfl⟩; exact ⟨⟨hw, h1, h8⟩, rfl⟩

theorem getD_variants {c j : Nat} (h : j < c) :
    (variants k n c).getD j (0, 0) = (recordWord k n (2 * j + 1), recordWord k n (2 * j + 2)) := by
  simp [variants, List.getD_eq_getElem?_getD, h]

theorem classesRise_variants_iff {c : Nat} : classesRise (variants k n c) c = true ↔
    ∀ j, j + 1 < c → recordWord k n (2 * j + 1) < recordWord k n (2 * j + 3) := by
  simp only [classesRise, List.all_eq_true, List.mem_range, decide_eq_true_eq]
  refine forall_congr' fun j => ?_
  constructor
  · intro h hj
    have := h (by omega)
    rwa [getD_variants (by omega), getD_variants hj] at this
  · intro h hj
    rw [getD_variants (by omega), getD_variants (by omega)]
    exact h (by omega)

theorem sizeRecord_eq_bind : k.sizeRecord n = if !k.sizeLine n then none
    else (k.sizeCount n).bind fun c => if classesRise (variants k n c) c then some (variants k n c) else none := by
  have hv : ∀ c, (List.range c).map (fun j => ((k.cword (n + 4 + 8 * j)).toNat, (k.cword (n + 8 + 8 * j)).toNat)) = variants k n c :=
    fun c => List.map_congr_left fun j _ => by
      simp only [recordWord, Nat.mul_add, ← Nat.mul_assoc, Nat.add_assoc, Nat.add_comm, Nat.reduceMul]
  simp only [Core.sizeRecord, hv]
  rfl

/-- The model reads the variants of a well-formed record, and of nothing else. -/
theorem sizeRecord_eq_some_iff {vs : List (Nat × Nat)} :
    k.sizeRecord n = some vs ↔ IsRecord k n ∧ variants k n (recordWord k n 0 % 2 ^ 16) = vs := by
  rw [sizeRecord_eq_bind]
  simp only [Bool.not_eq_true', Option.ite_none_left_eq_some, Bool.not_eq_false, sizeLine_iff, Option.bind_eq_some_iff,
    sizeCount_eq_some_iff, Option.ite_none_right_eq_some, classesRise_variants_iff, Option.some.injEq, IsRecord]
  constructor
  · rintro ⟨⟨hn, ha, hk⟩, c, ⟨hw, h1, h8, rfl⟩, hrise, rfl⟩
    exact ⟨⟨hn, ha, hk, hw, h1, h8, hrise⟩, rfl⟩
  · rintro ⟨⟨hn, ha, hk, hw, h1, h8, hrise⟩, rfl⟩
    exact ⟨⟨hn, ha, hk⟩, _, ⟨hw, h1, h8, rfl⟩, hrise, rfl⟩

theorem sizeRecord_eq_some (h : IsRecord k n) : k.sizeRecord n = some (variants k n (recordWord k n 0 % 2 ^ 16)) :=
  sizeRecord_eq_some_iff.mpr ⟨h, rfl⟩

theorem sizeRecord_eq_none (h : ¬ IsRecord k n) : k.sizeRecord n = none :=
  Option.eq_none_iff_forall_ne_some.mpr fun _ hs => h (sizeRecord_eq_some_iff.mp hs).1

/-- Only a record of which word 2 of a line is addressed can be found damaged (R30, R115). -/
theorem mod_of_sizeBad (h : k.sizeBad n = true) : n % 128 = 8 := by
  simp only [Core.sizeBad, Bool.and_eq_true, beq_iff_eq] at h
  exact h.1.2

end Records

/-! ### The variant that is picked (R115) -/

/-- The entry of the first variant whose class holds the size, all ones without one. -/
def picked (vs : List (Nat × Nat)) (y : Nat) : DWord :=
  (vs.find? fun v => decide (y ≤ v.1)).elim allOnes64 fun v => BitVec.ofNat 64 v.2

theorem picked_variants_of_holds {k : Core} {n c j y : Nat} (hj : j < c) (hy : y ≤ recordWord k n (2 * j + 1))
    (hi : ∀ i, i < j → recordWord k n (2 * i + 1) < y) :
    picked (variants k n c) y = BitVec.ofNat 64 (recordWord k n (2 * j + 2)) := by
  have hfind : (List.range c).find? (fun j => decide (y ≤ recordWord k n (2 * j + 1))) = some j := by
    rw [List.find?_range_eq_some]
    exact ⟨decide_eq_true hy, List.mem_range.mpr hj, fun i h => by simpa using hi i h⟩
  simp only [picked, variants, List.find?_map, Function.comp_def, hfind, Option.map_some, Option.elim_some]

theorem picked_variants_of_exceeds {k : Core} {n c y : Nat} (h : ∀ j, j < c → recordWord k n (2 * j + 1) < y) :
    picked (variants k n c) y = 0xFFFFFFFFFFFFFFFF := by
  have hfind : (List.range c).find? (fun j => decide (y ≤ recordWord k n (2 * j + 1))) = none := by
    rw [List.find?_range_eq_none]
    exact fun j hj => by simpa using h j hj
  simp only [picked, variants, List.find?_map, Function.comp_def, hfind, Option.map_none, Option.elim_none, allOnes64]

/-! ### The outcomes of `SELECT` -/

section Outcomes

variable {s : State} {d a b : Reg}

theorem exec_selectSize : exec (.selectSize d a b) s = execSelectSize d a b s := rfl

/-- A damaged record traps ECCU with the address of word 0 of its line. -/
theorem traps_of_sizeBad (hs : Stands s 1 .any) (hr : RegsReady s [srcS a, srcS b, srcS d])
    (hbad : (s.core s.cur.core).sizeBad (s.getS s.cur a).toNat = true) :
    Traps (.selectSize d a b) s .eccu (s.getS s.cur a - 8) := by
  have hline : BitVec.ofNat 64 ((s.getS s.cur a).toNat - 8) = s.getS s.cur a - 8 := by
    have := mod_of_sizeBad hbad
    bv_omega
  refine traps_of_issue _ exec_selectSize hs ?_
  rw [fresh_ready (srcs := [srcS a, srcS b]) (dests := [srcS d]) hr]
  simp only [fresh_core, fresh_getS, hbad, if_true, hline]

/-- Without a record, `SELECT` traps ILLEGAL with the address. -/
theorem traps_of_sizeRecord_none (hs : Stands s 1 .any) (hr : RegsReady s [srcS a, srcS b, srcS d])
    (hgood : (s.core s.cur.core).sizeBad (s.getS s.cur a).toNat = false)
    (hrec : (s.core s.cur.core).sizeRecord (s.getS s.cur a).toNat = none) :
    Traps (.selectSize d a b) s .illegal (s.getS s.cur a) := by
  refine traps_of_issue _ exec_selectSize hs ?_
  rw [fresh_ready (srcs := [srcS a, srcS b]) (dests := [srcS d]) hr]
  simp only [fresh_core, fresh_getS, hgood, hrec, Bool.false_eq_true, if_false]

/-- From a record's variants, `SELECT` writes the entry picked and holds the thread for 4 clocks. -/
theorem writesSHeld_picked {vs : List (Nat × Nat)} (hs : Stands s 1 .any) (hr : RegsReady s [srcS a, srcS b, srcS d])
    (hgood : (s.core s.cur.core).sizeBad (s.getS s.cur a).toNat = false)
    (hrec : (s.core s.cur.core).sizeRecord (s.getS s.cur a).toNat = some vs) :
    WritesSHeld (.selectSize d a b) s 1 d (picked vs (s.getS s.cur b).toNat) 4 := by
  refine writesSHeld_of_issue _ exec_selectSize hs ?_
  rw [fresh_ready (srcs := [srcS a, srcS b]) (dests := [srcS d]) hr]
  simp only [fresh_core, fresh_getS, hgood, hrec, Bool.false_eq_true, if_false, picked]
  cases vs.find? fun v => decide ((s.getS s.cur b).toNat ≤ v.1) with
  | none => rfl
  | some v => rfl

end Outcomes

/-! ### The obligation -/

/-- Settles O16: a record is read as its variants, of which `SELECT` takes the first that holds the size. -/
theorem sizeClasses : Obligations.SizeClasses := by
  unfold Obligations.SizeClasses
  intro s c x d a b hq hs hr k p y word n isRecord
  obtain rfl : s.cur.core = c := (cur_thread hq).2.1
  refine ⟨fun hgood hrec => ?record, fun hgood hrec => ?malformed, fun hbad => ?damaged⟩
  case record =>
    have hpicked := writesSHeld_picked hs hr hgood (sizeRecord_eq_some hrec)
    refine ⟨fun j hj hy hi => ?holds, fun hy => ?exceeds⟩
    case holds => exact picked_variants_of_holds hj hy hi ▸ hpicked
    case exceeds => exact picked_variants_of_exceeds hy ▸ hpicked
  case malformed => exact traps_of_sizeRecord_none hs hr hgood (sizeRecord_eq_none hrec)
  case damaged => exact traps_of_sizeBad hs hr hbad

end Sys2Proof.Proofs.SizeClasses
end

section
/-! PROOFS. Instruction words (R22 to R28, R36 to R40): the fields of a packed word and the word of its fields, the row of the opcode
tables that reads each instruction's words, and the agreement of decoder and encoder in both directions. -/

namespace Sys2Proof.Proofs.RoundTrip

/-! ### The fields of a packed word (R23, R24) -/

section Pack

variable (mop : BitVec 8) (d a b fn : Reg) (imm : BitVec 12) (imm18 : BitVec 18) (imm24 : BitVec 24)

@[simp] theorem fD_packA : (packA mop d a b fn).fD = d := by
  refine BitVec.eq_of_getLsbD_eq fun i hi => ?_
  simp only [packA, Word.fD, BitVec.getLsbD_extractLsb', BitVec.getLsbD_append]
  interval_cases i <;> rfl

@[simp] theorem fA_packA : (packA mop d a b fn).fA = a := by
  refine BitVec.eq_of_getLsbD_eq fun i hi => ?_
  simp only [packA, Word.fA, BitVec.getLsbD_extractLsb', BitVec.getLsbD_append]
  interval_cases i <;> rfl

@[simp] theorem fB_packA : (packA mop d a b fn).fB = b := by
  refine BitVec.eq_of_getLsbD_eq fun i hi => ?_
  simp only [packA, Word.fB, BitVec.getLsbD_extractLsb', BitVec.getLsbD_append]
  interval_cases i <;> rfl

@[simp] theorem fFn_packA : (packA mop d a b fn).fFn = fn := by
  refine BitVec.eq_of_getLsbD_eq fun i hi => ?_
  simp only [packA, Word.fFn, BitVec.getLsbD_extractLsb', BitVec.getLsbD_append]
  interval_cases i <;> rfl

@[simp] theorem fD_packB : (packB mop d a imm).fD = d := by
  refine BitVec.eq_of_getLsbD_eq fun i hi => ?_
  simp only [packB, Word.fD, BitVec.getLsbD_extractLsb', BitVec.getLsbD_append]
  interval_cases i <;> rfl

@[simp] theorem fA_packB : (packB mop d a imm).fA = a := by
  refine BitVec.eq_of_getLsbD_eq fun i hi => ?_
  simp only [packB, Word.fA, BitVec.getLsbD_extractLsb', BitVec.getLsbD_append]
  interval_cases i <;> rfl

@[simp] theorem fImm_packB : (packB mop d a imm).fImm = imm := by
  refine BitVec.eq_of_getLsbD_eq fun i hi => ?_
  simp only [packB, Word.fImm, BitVec.getLsbD_extractLsb', BitVec.getLsbD_append]
  interval_cases i <;> rfl

@[simp] theorem fD_packC : (packC mop d imm18).fD = d := by
  refine BitVec.eq_of_getLsbD_eq fun i hi => ?_
  simp only [packC, Word.fD, BitVec.getLsbD_extractLsb', BitVec.getLsbD_append]
  interval_cases i <;> rfl

@[simp] theorem fImm18_packC : (packC mop d imm18).fImm18 = imm18 := by
  refine BitVec.eq_of_getLsbD_eq fun i hi => ?_
  simp only [packC, Word.fImm18, BitVec.getLsbD_extractLsb', BitVec.getLsbD_append]
  interval_cases i <;> rfl

@[simp] theorem fImm24_packD : (packD mop imm24).fImm24 = imm24 := by
  refine BitVec.eq_of_getLsbD_eq fun i hi => ?_
  simp only [packD, Word.fImm24, BitVec.getLsbD_extractLsb', BitVec.getLsbD_append]
  interval_cases i <;> rfl

end Pack

@[simp] theorem ofWord_toWord (l : LW) : LW.ofWord l.toWord = l := by
  cases l
  simp only [LW.ofWord, LW.toWord, LW.mk.injEq, BitVec.getLsbD_append, BitVec.getLsbD_ofBool]
  refine ⟨by simp, by simp, ?greg, ?gbit, ?rm, by simp, by simp, by simp, ?x, ?y⟩
  all_goals
    refine BitVec.eq_of_getLsbD_eq fun i hi => ?_
    simp only [BitVec.getLsbD_extractLsb', BitVec.getLsbD_append, BitVec.getLsbD_ofBool]
    interval_cases i <;> rfl

/-! ### The word of its fields -/

theorem packA_self (w : Word) : packA w.fMop w.fD w.fA w.fB w.fFn = w := by
  apply BitVec.eq_of_getLsbD_eq; intro i hi
  simp only [packA, Word.fMop, Word.fD, Word.fA, Word.fB, Word.fFn, BitVec.getLsbD_extractLsb', BitVec.getLsbD_append]
  interval_cases i <;> rfl
theorem packB_self (w : Word) : packB w.fMop w.fD w.fA w.fImm = w := by
  apply BitVec.eq_of_getLsbD_eq; intro i hi
  simp only [packB, Word.fMop, Word.fD, Word.fA, Word.fImm, BitVec.getLsbD_extractLsb', BitVec.getLsbD_append]
  interval_cases i <;> rfl
theorem packC_self (w : Word) : packC w.fMop w.fD w.fImm18 = w := by
  apply BitVec.eq_of_getLsbD_eq; intro i hi
  simp only [packC, Word.fMop, Word.fD, Word.fImm18, BitVec.getLsbD_extractLsb', BitVec.getLsbD_append]
  interval_cases i <;> rfl
theorem packD_self (w : Word) : packD w.fMop w.fImm24 = w := by
  apply BitVec.eq_of_getLsbD_eq; intro i hi
  simp only [packD, Word.fMop, Word.fImm24, BitVec.getLsbD_extractLsb', BitVec.getLsbD_append]
  interval_cases i <;> rfl
@[simp] theorem toWord_ofWord (w : Word) : (LW.ofWord w).toWord = w := by
  apply BitVec.eq_of_getLsbD_eq; intro i hi
  simp only [LW.ofWord, LW.toWord, BitVec.getLsbD_extractLsb', BitVec.getLsbD_append, BitVec.getLsbD_ofBool]
  interval_cases i <;> simp

/-! A packed word is the word that has its fields. -/

section Packed

variable {w : Word} {mop : BitVec 8} (h : w.fMop.toNat = mop.toNat)

include h

theorem packA_eq {d a b fn} (hd : d = w.fD) (ha : a = w.fA) (hb : b = w.fB) (hf : fn = w.fFn) : packA mop d a b fn = w := by
  subst hd ha hb hf; rw [← BitVec.eq_of_toNat_eq h, packA_self]

theorem packB_eq {d a imm} (hd : d = w.fD) (ha : a = w.fA) (hf : imm = w.fImm) : packB mop d a imm = w := by
  subst hd ha hf; rw [← BitVec.eq_of_toNat_eq h, packB_self]

theorem packC_eq {d imm} (hd : d = w.fD) (hf : imm = w.fImm18) : packC mop d imm = w := by
  subst hd hf; rw [← BitVec.eq_of_toNat_eq h, packC_self]

theorem packD_eq {imm} (hf : imm = w.fImm24) : packD mop imm = w := by
  subst hf; rw [← BitVec.eq_of_toNat_eq h, packD_self]

end Packed

/-! ### From an instruction to its words and back (R36–R39) -/

/-- The instruction that four words give under a MOP: `decodeFields` with the MOP named (R22). -/
def fieldsAt (m : IMem) (mop : Nat) (w0 w1 w2 w3 : Word) : Option Instr :=
  if mop < 0x80 then decodeShared mop w0 w1 else
  match m with
  | .control => decodeControl mop w0 w1 w2 w3
  | .vector  => decodeVector mop w0 w1
  | .arcade  => decodeArcade mop w0 w1 w2 w3

theorem decodeFields_eq (m : IMem) (w0 w1 w2 w3 : Word) :
    decodeFields m w0 w1 w2 w3 = fieldsAt m w0.fMop.toNat w0 w1 w2 w3 := rfl

theorem unusedZero_eq {z : Bool} {i j : Instr} (hz : z = true) (hj : j = i) : unusedZero z j = some i := by
  subst hz hj; rfl

/-- The words of a well-formed instruction decode to it, whatever follows them. -/
def Decodes (m : IMem) (i : Instr) : Prop := i.wf = true → ∀ rest, decode m (encode i ++ rest) = .ok i

/-- An instruction decodes from its words where the row of their MOP gives it back. -/
theorem decodes_of_fields {m : IMem} {i : Instr} {w : Word} {ws : List Word} {mop : BitVec 8} (he : encode i = w :: ws)
    (hm : w.fMop = mop) (hn : mopLength m mop.toNat = some (ws.length + 1))
    (hf : ∀ rest : List Word,
      fieldsAt m mop.toNat w ((ws ++ rest).getD 0 0) ((ws ++ rest).getD 1 0) ((ws ++ rest).getD 2 0) = some i) : Decodes m i := by
  intro hw rest
  subst hm
  rw [he, List.cons_append]
  unfold decode
  simp only [hn, decodeFields_eq, hf, hw, if_true]
  rw [if_neg (by simp)]

theorem decodes_shared {m : IMem} {i : Instr} (hs : (inMem .control i && (inMem .vector i || inMem .arcade i)) = true) : Decodes m i := by
  cases i with
  | nop => exact decodes_of_fields rfl (Laws.fMop_packD ..) rfl fun _ => rfl
  | add => exact decodes_of_fields rfl (Laws.fMop_packA ..) rfl fun _ => unusedZero_eq (by simp) (by simp)
  | sub => exact decodes_of_fields rfl (Laws.fMop_packA ..) rfl fun _ => unusedZero_eq (by simp) (by simp)
  | mul => exact decodes_of_fields rfl (Laws.fMop_packA ..) rfl fun _ => unusedZero_eq (by simp) (by simp)
  | mulh => exact decodes_of_fields rfl (Laws.fMop_packA ..) rfl fun _ => unusedZero_eq (by simp) (by simp)
  | mulhn => exact decodes_of_fields rfl (Laws.fMop_packA ..) rfl fun _ => unusedZero_eq (by simp) (by simp)
  | div => exact decodes_of_fields rfl (Laws.fMop_packA ..) rfl fun _ => unusedZero_eq (by simp) (by simp)
  | divn => exact decodes_of_fields rfl (Laws.fMop_packA ..) rfl fun _ => unusedZero_eq (by simp) (by simp)
  | rem => exact decodes_of_fields rfl (Laws.fMop_packA ..) rfl fun _ => unusedZero_eq (by simp) (by simp)
  | remn => exact decodes_of_fields rfl (Laws.fMop_packA ..) rfl fun _ => unusedZero_eq (by simp) (by simp)
  | and => exact decodes_of_fields rfl (Laws.fMop_packA ..) rfl fun _ => unusedZero_eq (by simp) (by simp)
  | or => exact decodes_of_fields rfl (Laws.fMop_packA ..) rfl fun _ => unusedZero_eq (by simp) (by simp)
  | xor => exact decodes_of_fields rfl (Laws.fMop_packA ..) rfl fun _ => unusedZero_eq (by simp) (by simp)
  | shl => exact decodes_of_fields rfl (Laws.fMop_packA ..) rfl fun _ => unusedZero_eq (by simp) (by simp)
  | shr => exact decodes_of_fields rfl (Laws.fMop_packA ..) rfl fun _ => unusedZero_eq (by simp) (by simp)
  | sar => exact decodes_of_fields rfl (Laws.fMop_packA ..) rfl fun _ => unusedZero_eq (by simp) (by simp)
  | min => exact decodes_of_fields rfl (Laws.fMop_packA ..) rfl fun _ => unusedZero_eq (by simp) (by simp)
  | max => exact decodes_of_fields rfl (Laws.fMop_packA ..) rfl fun _ => unusedZero_eq (by simp) (by simp)
  | minn => exact decodes_of_fields rfl (Laws.fMop_packA ..) rfl fun _ => unusedZero_eq (by simp) (by simp)
  | maxn => exact decodes_of_fields rfl (Laws.fMop_packA ..) rfl fun _ => unusedZero_eq (by simp) (by simp)
  | addi => exact decodes_of_fields rfl (Laws.fMop_packB ..) rfl fun _ => congrArg some (by simp)
  | andi => exact decodes_of_fields rfl (Laws.fMop_packB ..) rfl fun _ => congrArg some (by simp)
  | ori => exact decodes_of_fields rfl (Laws.fMop_packB ..) rfl fun _ => congrArg some (by simp)
  | xori => exact decodes_of_fields rfl (Laws.fMop_packB ..) rfl fun _ => congrArg some (by simp)
  | shli => exact decodes_of_fields rfl (Laws.fMop_packB ..) rfl fun _ => congrArg some (by simp)
  | shri => exact decodes_of_fields rfl (Laws.fMop_packB ..) rfl fun _ => congrArg some (by simp)
  | sari => exact decodes_of_fields rfl (Laws.fMop_packB ..) rfl fun _ => congrArg some (by simp)
  | cmpEq => exact decodes_of_fields rfl (Laws.fMop_packA ..) rfl fun _ => congrArg some (by simp)
  | cmpNe => exact decodes_of_fields rfl (Laws.fMop_packA ..) rfl fun _ => congrArg some (by simp)
  | cmpLt => exact decodes_of_fields rfl (Laws.fMop_packA ..) rfl fun _ => congrArg some (by simp)
  | cmpLtn => exact decodes_of_fields rfl (Laws.fMop_packA ..) rfl fun _ => congrArg some (by simp)
  | cmpGe => exact decodes_of_fields rfl (Laws.fMop_packA ..) rfl fun _ => congrArg some (by simp)
  | cmpGen => exact decodes_of_fields rfl (Laws.fMop_packA ..) rfl fun _ => congrArg some (by simp)
  | cmpi => exact decodes_of_fields rfl (Laws.fMop_packB ..) rfl fun _ => congrArg some (by simp)
  | clz => exact decodes_of_fields rfl (Laws.fMop_packA ..) rfl fun _ => unusedZero_eq (by simp) (by simp)
  | ctz => exact decodes_of_fields rfl (Laws.fMop_packA ..) rfl fun _ => unusedZero_eq (by simp) (by simp)
  | popc => exact decodes_of_fields rfl (Laws.fMop_packA ..) rfl fun _ => unusedZero_eq (by simp) (by simp)
  | bset => exact decodes_of_fields rfl (Laws.fMop_packB ..) rfl fun _ => congrArg some (by simp)
  | bclr => exact decodes_of_fields rfl (Laws.fMop_packB ..) rfl fun _ => congrArg some (by simp)
  | bext => exact decodes_of_fields rfl (Laws.fMop_packB ..) rfl fun _ => congrArg some (by simp)
  | bins => exact decodes_of_fields rfl (Laws.fMop_packB ..) rfl fun _ => congrArg some (by simp)
  | lea => exact decodes_of_fields rfl (Laws.fMop_packA ..) rfl fun _ => congrArg some (by simp)
  | li => exact decodes_of_fields rfl (Laws.fMop_packB ..) rfl fun _ => unusedZero_eq (by simp) (by simp)
  | lui => exact decodes_of_fields rfl (Laws.fMop_packB ..) rfl fun _ => unusedZero_eq (by simp) (by simp)
  | mov => exact decodes_of_fields rfl (Laws.fMop_packA ..) rfl fun _ => unusedZero_eq (by simp) (by simp)
  | sel => exact decodes_of_fields rfl (Laws.fMop_packA ..) rfl fun _ => unusedZero_eq (by simp) (by simp)
  | pbr => exact decodes_of_fields rfl (Laws.fMop_packC ..) rfl fun _ => congrArg some (by simp)
  | pbrr => exact decodes_of_fields rfl (Laws.fMop_packA ..) rfl fun _ => unusedZero_eq (by simp) (by simp)
  | brx => exact decodes_of_fields rfl (Laws.fMop_packA ..) rfl fun _ => unusedZero_eq (by simp) (by simp)
  | brxn => exact decodes_of_fields rfl (Laws.fMop_packA ..) rfl fun _ => unusedZero_eq (by simp) (by simp)
  | br => exact decodes_of_fields rfl (Laws.fMop_packA ..) rfl fun _ => unusedZero_eq (by simp) (by simp)
  | call => exact decodes_of_fields rfl (Laws.fMop_packA ..) rfl fun _ => unusedZero_eq (by simp) (by simp)
  | ret => exact decodes_of_fields rfl (Laws.fMop_packA ..) rfl fun _ => rfl
  | loop => exact decodes_of_fields rfl (Laws.fMop_packB ..) rfl fun _ => congrArg some (by simp)
  | loopi => exact decodes_of_fields rfl (Laws.fMop_packB ..) rfl fun _ => unusedZero_eq (by simp) (by simp)
  | tokSend => exact decodes_of_fields rfl (Laws.fMop_packA ..) rfl fun _ => unusedZero_eq (by simp) (by simp)
  | tokRecv => exact decodes_of_fields rfl (Laws.fMop_packA ..) rfl fun _ => unusedZero_eq (by simp) (by simp)
  | tokPoll => exact decodes_of_fields rfl (Laws.fMop_packA ..) rfl fun _ => unusedZero_eq (by simp) (by simp)
  | mfc => exact decodes_of_fields rfl (Laws.fMop_packB ..) rfl fun _ => unusedZero_eq (by simp) (by simp)
  | mtc => exact decodes_of_fields rfl (Laws.fMop_packB ..) rfl fun _ => unusedZero_eq (by simp) (by simp)
  | trap => exact decodes_of_fields rfl (Laws.fMop_packD ..) rfl fun _ => congrArg some (by simp)
  | _ => nomatch hs

theorem decodes_control {i : Instr} (hs : (inMem .control i && !inMem .vector i) = true) : Decodes .control i := by
  cases i with
  | ldB => exact decodes_of_fields rfl (Laws.fMop_packB ..) rfl fun _ => congrArg some (by simp)
  | ldBn => exact decodes_of_fields rfl (Laws.fMop_packB ..) rfl fun _ => congrArg some (by simp)
  | ldH => exact decodes_of_fields rfl (Laws.fMop_packB ..) rfl fun _ => congrArg some (by simp)
  | ldHn => exact decodes_of_fields rfl (Laws.fMop_packB ..) rfl fun _ => congrArg some (by simp)
  | ldW => exact decodes_of_fields rfl (Laws.fMop_packB ..) rfl fun _ => congrArg some (by simp)
  | ldWn => exact decodes_of_fields rfl (Laws.fMop_packB ..) rfl fun _ => congrArg some (by simp)
  | ldD => exact decodes_of_fields rfl (Laws.fMop_packB ..) rfl fun _ => congrArg some (by simp)
  | stB => exact decodes_of_fields rfl (Laws.fMop_packB ..) rfl fun _ => congrArg some (by simp)
  | stH => exact decodes_of_fields rfl (Laws.fMop_packB ..) rfl fun _ => congrArg some (by simp)
  | stW => exact decodes_of_fields rfl (Laws.fMop_packB ..) rfl fun _ => congrArg some (by simp)
  | stD => exact decodes_of_fields rfl (Laws.fMop_packB ..) rfl fun _ => congrArg some (by simp)
  | ldQ => exact decodes_of_fields rfl (Laws.fMop_packB ..) rfl fun _ => congrArg some (by simp)
  | stQ => exact decodes_of_fields rfl (Laws.fMop_packB ..) rfl fun _ => congrArg some (by simp)
  | lamo => exact decodes_of_fields rfl (Laws.fMop_packA ..) rfl fun _ => unusedZero_eq (by simp) (by simp)
  | hld => exact decodes_of_fields rfl (Laws.fMop_packB ..) rfl fun _ => congrArg some (by simp)
  | hst => exact decodes_of_fields rfl (Laws.fMop_packB ..) rfl fun _ => congrArg some (by simp)
  | hget => exact decodes_of_fields rfl (Laws.fMop_packA ..) rfl fun _ => unusedZero_eq (by simp) (by simp)
  | hset => exact decodes_of_fields rfl (Laws.fMop_packA ..) rfl fun _ => unusedZero_eq (by simp) (by simp)
  | hpatch => exact decodes_of_fields rfl (Laws.fMop_packA ..) rfl fun _ => unusedZero_eq (by simp) (by simp)
  | tret => exact decodes_of_fields rfl (Laws.fMop_packD ..) rfl fun _ => rfl
  | selectSize => exact decodes_of_fields rfl (Laws.fMop_packA ..) rfl fun _ => unusedZero_eq (by simp) (by simp)
  | forkV => exact decodes_of_fields rfl (Laws.fMop_packA ..) rfl fun _ => unusedZero_eq (by simp) (by simp)
  | forkA => exact decodes_of_fields rfl (Laws.fMop_packA ..) rfl fun _ => unusedZero_eq (by simp) (by simp)
  | rdv => exact decodes_of_fields rfl (Laws.fMop_packA ..) rfl fun _ => unusedZero_eq (by simp) (by simp)
  | enq => exact decodes_of_fields rfl (Laws.fMop_packA ..) rfl fun _ => unusedZero_eq (by simp) (by simp)
  | deq => exact decodes_of_fields rfl (Laws.fMop_packA ..) rfl fun _ => unusedZero_eq (by simp) (by simp)
  | yieldStage => exact decodes_of_fields rfl (Laws.fMop_packD ..) rfl fun _ => rfl
  | grpJoin => exact decodes_of_fields rfl (Laws.fMop_packA ..) rfl fun _ => unusedZero_eq (by simp) (by simp)
  | grpLeave => exact decodes_of_fields rfl (Laws.fMop_packA ..) rfl fun _ => unusedZero_eq (by simp) (by simp)
  | grpBar => exact decodes_of_fields rfl (Laws.fMop_packA ..) rfl fun _ => unusedZero_eq (by simp) (by simp)
  | grpInfo => exact decodes_of_fields rfl (Laws.fMop_packA ..) rfl fun _ => unusedZero_eq (by simp) (by simp)
  | sig => exact decodes_of_fields rfl (Laws.fMop_packA ..) rfl fun _ => unusedZero_eq (by simp) (by simp)
  | waitf => exact decodes_of_fields rfl (Laws.fMop_packA ..) rfl fun _ => unusedZero_eq (by simp) (by simp)
  | tlook => exact decodes_of_fields rfl (Laws.fMop_packA ..) rfl fun _ => unusedZero_eq (by simp) (by simp)
  | tfill => exact decodes_of_fields rfl (Laws.fMop_packA ..) rfl fun _ => unusedZero_eq (by simp) (by simp)
  | tevict => exact decodes_of_fields rfl (Laws.fMop_packA ..) rfl fun _ => unusedZero_eq (by simp) (by simp)
  | tpin => exact decodes_of_fields rfl (Laws.fMop_packA ..) rfl fun _ => unusedZero_eq (by simp) (by simp)
  | tunpin => exact decodes_of_fields rfl (Laws.fMop_packA ..) rfl fun _ => unusedZero_eq (by simp) (by simp)
  | qbind => exact decodes_of_fields rfl (Laws.fMop_packA ..) rfl fun _ => unusedZero_eq (by simp) (by simp)
  | qget => exact decodes_of_fields rfl (Laws.fMop_packA ..) rfl fun _ => unusedZero_eq (by simp) (by simp)
  | qrel => exact decodes_of_fields rfl (Laws.fMop_packA ..) rfl fun _ => unusedZero_eq (by simp) (by simp)
  | ldgW => exact decodes_of_fields rfl (Laws.fMop_packB ..) rfl fun _ => congrArg some (by simp)
  | ldgD => exact decodes_of_fields rfl (Laws.fMop_packB ..) rfl fun _ => congrArg some (by simp)
  | stgW => exact decodes_of_fields rfl (Laws.fMop_packB ..) rfl fun _ => congrArg some (by simp)
  | stgD => exact decodes_of_fields rfl (Laws.fMop_packB ..) rfl fun _ => congrArg some (by simp)
  | ldl => exact decodes_of_fields rfl (Laws.fMop_packA ..) rfl fun _ => unusedZero_eq (by simp) (by simp)
  | stl => exact decodes_of_fields rfl (Laws.fMop_packA ..) rfl fun _ => unusedZero_eq (by simp) (by simp)
  | gamo => exact decodes_of_fields rfl (Laws.fMop_packA ..) rfl fun _ => congrArg some (by simp)
  | mark => exact decodes_of_fields rfl (Laws.fMop_packD ..) rfl fun _ => rfl
  | fence => exact decodes_of_fields rfl (Laws.fMop_packD ..) rfl fun _ => congrArg some (by simp)
  | cpy => exact decodes_of_fields rfl (Laws.fMop_packA ..) rfl fun _ => congrArg some (by simp)
  | cpyT => exact decodes_of_fields rfl (Laws.fMop_packA ..) rfl fun _ => congrArg some (by simp)
  | cpyP => exact decodes_of_fields rfl (Laws.fMop_packA ..) rfl fun _ => congrArg some (by simp)
  | cpyQ => exact decodes_of_fields rfl (Laws.fMop_packA ..) rfl fun _ => congrArg some (by simp)
  | cpyQT => exact decodes_of_fields rfl (Laws.fMop_packA ..) rfl fun _ => congrArg some (by simp)
  | cpyGath => exact decodes_of_fields rfl (Laws.fMop_packA ..) rfl fun _ => congrArg some (by simp)
  | cpyPair => exact decodes_of_fields rfl (Laws.fMop_packA ..) rfl fun _ => congrArg some (by simp)
  | cpyScale => exact decodes_of_fields rfl (Laws.fMop_packA ..) rfl fun _ => congrArg some (by simp)
  | cpyStrm => exact decodes_of_fields rfl (Laws.fMop_packA ..) rfl fun _ => congrArg some (by simp)
  | cpyHost => exact decodes_of_fields rfl (Laws.fMop_packA ..) rfl fun _ => congrArg some (by simp)
  | mxSet => exact decodes_of_fields rfl (Laws.fMop_packD ..) rfl fun _ => congrArg some (by simp)
  | mxGo => exact decodes_of_fields rfl (Laws.fMop_packA ..) rfl fun _ => congrArg some (by simp)
  | mxAcq => exact decodes_of_fields rfl (Laws.fMop_packA ..) rfl fun _ => unusedZero_eq (by simp) (by simp)
  | mxRel => exact decodes_of_fields rfl (Laws.fMop_packA ..) rfl fun _ => unusedZero_eq (by simp) (by simp)
  | mxShape => exact decodes_of_fields rfl (Laws.fMop_packA ..) rfl fun _ => unusedZero_eq (by simp) (by simp)
  | mxZero => exact decodes_of_fields rfl (Laws.fMop_packA ..) rfl fun _ => unusedZero_eq (by simp) (by simp)
  | mxOut => exact decodes_of_fields rfl (Laws.fMop_packA ..) rfl fun _ => congrArg some (by simp)
  | flowLoad => exact decodes_of_fields rfl (Laws.fMop_packA ..) rfl fun _ => unusedZero_eq (by simp) (by simp)
  | flowSend => exact decodes_of_fields rfl (Laws.fMop_packA ..) rfl fun _ => unusedZero_eq (by simp) (by simp)
  | flowRecv => exact decodes_of_fields rfl (Laws.fMop_packA ..) rfl fun _ => unusedZero_eq (by simp) (by simp)
  | flowRel => exact decodes_of_fields rfl (Laws.fMop_packA ..) rfl fun _ => unusedZero_eq (by simp) (by simp)
  | flowStat => exact decodes_of_fields rfl (Laws.fMop_packA ..) rfl fun _ => unusedZero_eq (by simp) (by simp)
  | msgSend => exact decodes_of_fields rfl (Laws.fMop_packA ..) rfl fun _ => unusedZero_eq (by simp) (by simp)
  | msgPost => exact decodes_of_fields rfl (Laws.fMop_packA ..) rfl fun _ => unusedZero_eq (by simp) (by simp)
  | msgProbe => exact decodes_of_fields rfl (Laws.fMop_packA ..) rfl fun _ => unusedZero_eq (by simp) (by simp)
  | digest => exact decodes_of_fields rfl (Laws.fMop_packA ..) rfl fun _ => unusedZero_eq (by simp) (by simp)
  | dchk => exact decodes_of_fields rfl (Laws.fMop_packA ..) rfl fun _ => unusedZero_eq (by simp) (by simp)
  | modeFwd => exact decodes_of_fields rfl (Laws.fMop_packD ..) rfl fun _ => rfl
  | modeRev => exact decodes_of_fields rfl (Laws.fMop_packD ..) rfl fun _ => rfl
  | tapeSet => exact decodes_of_fields rfl (Laws.fMop_packA ..) rfl fun _ => unusedZero_eq (by simp) (by simp)
  | adjLd => exact decodes_of_fields rfl (Laws.fMop_packB ..) rfl fun _ => congrArg some (by simp)
  | adjClr => exact decodes_of_fields rfl (Laws.fMop_packA ..) rfl fun _ => unusedZero_eq (by simp) (by simp)
  | estat => exact decodes_of_fields rfl (Laws.fMop_packA ..) rfl fun _ => unusedZero_eq (by simp) (by simp)
  | csave => exact decodes_of_fields rfl (Laws.fMop_packA ..) rfl fun _ => unusedZero_eq (by simp) (by simp)
  | crest => exact decodes_of_fields rfl (Laws.fMop_packA ..) rfl fun _ => unusedZero_eq (by simp) (by simp)
  | tlbInv => exact decodes_of_fields rfl (Laws.fMop_packA ..) rfl fun _ => unusedZero_eq (by simp) (by simp)
  | halt => exact decodes_of_fields rfl (Laws.fMop_packA ..) rfl fun _ => unusedZero_eq (by simp) (by simp)
  | sleep => exact decodes_of_fields rfl (Laws.fMop_packA ..) rfl fun _ => unusedZero_eq (by simp) (by simp)
  | _ => nomatch hs

theorem decodes_vector {i : Instr} (hs : (inMem .vector i && !inMem .control i) = true) : Decodes .vector i := by
  cases i with
  | vadd => exact decodes_of_fields rfl (Laws.fMop_packA ..) rfl fun _ => congrArg some (by simp)
  | vsub => exact decodes_of_fields rfl (Laws.fMop_packA ..) rfl fun _ => congrArg some (by simp)
  | vmul => exact decodes_of_fields rfl (Laws.fMop_packA ..) rfl fun _ => congrArg some (by simp)
  | vfma => exact decodes_of_fields rfl (Laws.fMop_packA ..) rfl fun _ => congrArg some (by simp)
  | vfms => exact decodes_of_fields rfl (Laws.fMop_packA ..) rfl fun _ => congrArg some (by simp)
  | vfnma => exact decodes_of_fields rfl (Laws.fMop_packA ..) rfl fun _ => congrArg some (by simp)
  | vdiv => exact decodes_of_fields rfl (Laws.fMop_packA ..) rfl fun _ => congrArg some (by simp)
  | vsqrt => exact decodes_of_fields rfl (Laws.fMop_packA ..) rfl fun _ => unusedZero_eq (by simp) (by simp)
  | vmin => exact decodes_of_fields rfl (Laws.fMop_packA ..) rfl fun _ => congrArg some (by simp)
  | vmax => exact decodes_of_fields rfl (Laws.fMop_packA ..) rfl fun _ => congrArg some (by simp)
  | vabs => exact decodes_of_fields rfl (Laws.fMop_packA ..) rfl fun _ => unusedZero_eq (by simp) (by simp)
  | vneg => exact decodes_of_fields rfl (Laws.fMop_packA ..) rfl fun _ => unusedZero_eq (by simp) (by simp)
  | vexp => exact decodes_of_fields rfl (Laws.fMop_packA ..) rfl fun _ => unusedZero_eq (by simp) (by simp)
  | vlog => exact decodes_of_fields rfl (Laws.fMop_packA ..) rfl fun _ => unusedZero_eq (by simp) (by simp)
  | verf => exact decodes_of_fields rfl (Laws.fMop_packA ..) rfl fun _ => unusedZero_eq (by simp) (by simp)
  | vclass => exact decodes_of_fields rfl (Laws.fMop_packA ..) rfl fun _ => unusedZero_eq (by simp) (by simp)
  | vcmp => exact decodes_of_fields rfl (Laws.fMop_packA ..) rfl fun _ => congrArg some (by simp)
  | viadd => exact decodes_of_fields rfl (Laws.fMop_packA ..) rfl fun _ => congrArg some (by simp)
  | visub => exact decodes_of_fields rfl (Laws.fMop_packA ..) rfl fun _ => congrArg some (by simp)
  | vimul => exact decodes_of_fields rfl (Laws.fMop_packA ..) rfl fun _ => congrArg some (by simp)
  | vimulh => exact decodes_of_fields rfl (Laws.fMop_packA ..) rfl fun _ => congrArg some (by simp)
  | vand => exact decodes_of_fields rfl (Laws.fMop_packA ..) rfl fun _ => congrArg some (by simp)
  | vor => exact decodes_of_fields rfl (Laws.fMop_packA ..) rfl fun _ => congrArg some (by simp)
  | vxor => exact decodes_of_fields rfl (Laws.fMop_packA ..) rfl fun _ => congrArg some (by simp)
  | vshl => exact decodes_of_fields rfl (Laws.fMop_packA ..) rfl fun _ => congrArg some (by simp)
  | vshr => exact decodes_of_fields rfl (Laws.fMop_packA ..) rfl fun _ => congrArg some (by simp)
  | vsar => exact decodes_of_fields rfl (Laws.fMop_packA ..) rfl fun _ => congrArg some (by simp)
  | vimin => exact decodes_of_fields rfl (Laws.fMop_packA ..) rfl fun _ => congrArg some (by simp)
  | vimax => exact decodes_of_fields rfl (Laws.fMop_packA ..) rfl fun _ => congrArg some (by simp)
  | viabs => exact decodes_of_fields rfl (Laws.fMop_packA ..) rfl fun _ => unusedZero_eq (by simp) (by simp)
  | vsadd => exact decodes_of_fields rfl (Laws.fMop_packA ..) rfl fun _ => congrArg some (by simp)
  | vpopc => exact decodes_of_fields rfl (Laws.fMop_packA ..) rfl fun _ => unusedZero_eq (by simp) (by simp)
  | vsel => exact decodes_of_fields rfl (Laws.fMop_packA ..) rfl fun _ => congrArg some (by simp)
  | vany => exact decodes_of_fields rfl (Laws.fMop_packA ..) rfl fun _ => unusedZero_eq (by simp) (by simp)
  | vall => exact decodes_of_fields rfl (Laws.fMop_packA ..) rfl fun _ => unusedZero_eq (by simp) (by simp)
  | vld => exact decodes_of_fields rfl (Laws.fMop_packA ..) rfl fun _ => unusedZero_eq (by simp) (by simp)
  | vst => exact decodes_of_fields rfl (Laws.fMop_packA ..) rfl fun _ => unusedZero_eq (by simp) (by simp)
  | vldS => exact decodes_of_fields rfl (Laws.fMop_packA ..) rfl fun _ => congrArg some (by simp)
  | vstS => exact decodes_of_fields rfl (Laws.fMop_packA ..) rfl fun _ => congrArg some (by simp)
  | vldX => exact decodes_of_fields rfl (Laws.fMop_packA ..) rfl fun _ => congrArg some (by simp)
  | vstX => exact decodes_of_fields rfl (Laws.fMop_packA ..) rfl fun _ => congrArg some (by simp)
  | vldq => exact decodes_of_fields rfl (Laws.fMop_packA ..) rfl fun _ => unusedZero_eq (by simp) (by simp)
  | vmov => exact decodes_of_fields rfl (Laws.fMop_packA ..) rfl fun _ => unusedZero_eq (by simp) (by simp)
  | vbcast => exact decodes_of_fields rfl (Laws.fMop_packA ..) rfl fun _ => unusedZero_eq (by simp) (by simp)
  | vslide => exact decodes_of_fields rfl (Laws.fMop_packA ..) rfl fun _ => congrArg some (by simp)
  | vperm => exact decodes_of_fields rfl (Laws.fMop_packA ..) rfl fun _ => congrArg some (by simp)
  | vshuf => exact decodes_of_fields rfl (Laws.fMop_packA ..) rfl fun _ => congrArg some (by simp)
  | vtrn => exact decodes_of_fields rfl (Laws.fMop_packA ..) rfl fun _ => unusedZero_eq (by simp) (by simp)
  | vext => exact decodes_of_fields rfl (Laws.fMop_packA ..) rfl fun _ => congrArg some (by simp)
  | vins => exact decodes_of_fields rfl (Laws.fMop_packA ..) rfl fun _ => congrArg some (by simp)
  | vcvt => exact decodes_of_fields rfl (Laws.fMop_packA ..) rfl fun _ => congrArg some (by simp)
  | vqmx => exact decodes_of_fields rfl (Laws.fMop_packA ..) rfl fun _ => congrArg some (by simp)
  | vdqmx => exact decodes_of_fields rfl (Laws.fMop_packA ..) rfl fun _ => congrArg some (by simp)
  | vrsum => exact decodes_of_fields rfl (Laws.fMop_packA ..) rfl fun _ => unusedZero_eq (by simp) (by simp)
  | vrmax => exact decodes_of_fields rfl (Laws.fMop_packA ..) rfl fun _ => unusedZero_eq (by simp) (by simp)
  | vrmin => exact decodes_of_fields rfl (Laws.fMop_packA ..) rfl fun _ => unusedZero_eq (by simp) (by simp)
  | vrarg => exact decodes_of_fields rfl (Laws.fMop_packA ..) rfl fun _ => unusedZero_eq (by simp) (by simp)
  | vtopk => exact decodes_of_fields rfl (Laws.fMop_packA ..) rfl fun _ => congrArg some (by simp)
  | vrng => exact decodes_of_fields rfl (Laws.fMop_packA ..) rfl fun _ => unusedZero_eq (by simp) (by simp)
  | vhash => exact decodes_of_fields rfl (Laws.fMop_packA ..) rfl fun _ => congrArg some (by simp)
  | ardRow => exact decodes_of_fields rfl (Laws.fMop_packA ..) rfl fun _ => congrArg some (by simp)
  | ardCol => exact decodes_of_fields rfl (Laws.fMop_packA ..) rfl fun _ => congrArg some (by simp)
  | awrRow => exact decodes_of_fields rfl (Laws.fMop_packA ..) rfl fun _ => congrArg some (by simp)
  | awrCol => exact decodes_of_fields rfl (Laws.fMop_packA ..) rfl fun _ => congrArg some (by simp)
  | _ => nomatch hs

theorem decodes_arcade {i : Instr} (hs : (inMem .arcade i && !inMem .control i) = true) : Decodes .arcade i := by
  cases i with
  | aspUp => exact decodes_of_fields rfl (Laws.fMop_packD ..) rfl fun _ => congrArg some (by simp)
  | aspDn => exact decodes_of_fields rfl (Laws.fMop_packD ..) rfl fun _ => congrArg some (by simp)
  | aspLd => exact decodes_of_fields rfl (Laws.fMop_packA ..) rfl fun _ => congrArg some (by simp)
  | aspSt => exact decodes_of_fields rfl (Laws.fMop_packA ..) rfl fun _ => congrArg some (by simp)
  | aspCvt => exact decodes_of_fields rfl (Laws.fMop_packA ..) rfl fun _ => congrArg some (by simp)
  | aspWin => exact decodes_of_fields rfl (Laws.fMop_packA ..) rfl fun _ => unusedZero_eq (by simp) (by simp)
  | aspSeed => exact decodes_of_fields rfl (Laws.fMop_packA ..) rfl fun _ => unusedZero_eq (by simp) (by simp)
  | aspClra => exact decodes_of_fields rfl (Laws.fMop_packA ..) rfl fun _ => unusedZero_eq (by simp) (by simp)
  | _ => nomatch hs

/-- Every instruction decodes from its words, in each memory that holds it (R22). -/
theorem decodes_of_inMem {m : IMem} {i : Instr} (h : inMem m i = true) : Decodes m i := by
  cases hc : inMem .control i with
  | true =>
    cases hv : inMem .vector i <;> cases ha : inMem .arcade i
    case false.false =>
      cases m with
      | control => exact decodes_control (by rw [hc, hv]; rfl)
      | vector => rw [hv] at h; cases h
      | arcade => rw [ha] at h; cases h
    all_goals exact decodes_shared (by rw [hc, hv, ha]; rfl)
  | false =>
    cases m with
    | control => rw [hc] at h; cases h
    | vector => exact decodes_vector (by rw [h, hc]; rfl)
    | arcade => exact decodes_arcade (by rw [h, hc]; rfl)

/-! ### From words to the instruction that has them -/

/-- The instruction stands in a memory that holds it, is as long as the MOP of the first word fixes, and has those very words. -/
def Encodes (m : IMem) (i : Instr) (w0 w1 w2 w3 : Word) : Prop :=
  inMem m i = true ∧ mopLength m w0.fMop.toNat = some (encode i).length ∧ encode i = [w0, w1, w2, w3].take (encode i).length

theorem words_lw {w1 w2 w3 : Word} : [(LW.ofWord w1).toWord] = [w1, w2, w3].take [(LW.ofWord w1).toWord].length := by simp

section Rows

variable {m : IMem} {i j : Instr} {w0 w1 w2 w3 : Word} {mop : BitVec 8} {ws : List Word} {z : Bool}

theorem encodes_of_unusedZero (h : unusedZero z j = some i) (k : z = true → Encodes m j w0 w1 w2 w3) :
    Encodes m i w0 w1 w2 w3 := by
  simp only [unusedZero, Option.ite_none_right_eq_some, Option.some.injEq] at h
  obtain ⟨hz, rfl⟩ := h
  exact k hz

theorem encodes_of_some (h : some j = some i) (k : Encodes m j w0 w1 w2 w3) : Encodes m i w0 w1 w2 w3 := by
  obtain rfl := Option.some.inj h
  exact k

theorem encodes_of_words (he : encode i = w0 :: ws) (hm : inMem m i = true)
    (hn : mopLength m w0.fMop.toNat = some (ws.length + 1)) (hw : ws = [w1, w2, w3].take ws.length) :
    Encodes m i w0 w1 w2 w3 := by
  refine ⟨hm, by rw [hn, he]; rfl, ?_⟩
  rw [he, List.length_cons, List.take_succ_cons, ← hw]

theorem encodes_of_packA {d a b fn : Reg} (he : encode i = packA mop d a b fn :: ws) (h : w0.fMop.toNat = mop.toNat)
    (hf : d = w0.fD ∧ a = w0.fA ∧ b = w0.fB ∧ fn = w0.fFn) (hm : inMem m i = true) (hn : mopLength m mop.toNat = some (ws.length + 1))
    (hw : ws = [w1, w2, w3].take ws.length) : Encodes m i w0 w1 w2 w3 := by
  obtain ⟨hd, ha, hb, hfn⟩ := hf; exact encodes_of_words (he.trans (by rw [packA_eq h hd ha hb hfn])) hm (h ▸ hn) hw

theorem encodes_of_packB {d a : Reg} {imm : BitVec 12} (he : encode i = packB mop d a imm :: ws) (h : w0.fMop.toNat = mop.toNat)
    (hf : d = w0.fD ∧ a = w0.fA ∧ imm = w0.fImm) (hm : inMem m i = true) (hn : mopLength m mop.toNat = some (ws.length + 1))
    (hw : ws = [w1, w2, w3].take ws.length) : Encodes m i w0 w1 w2 w3 := by
  obtain ⟨hd, ha, himm⟩ := hf; exact encodes_of_words (he.trans (by rw [packB_eq h hd ha himm])) hm (h ▸ hn) hw

theorem encodes_of_packC {d : Reg} {imm : BitVec 18} (he : encode i = packC mop d imm :: ws) (h : w0.fMop.toNat = mop.toNat)
    (hf : d = w0.fD ∧ imm = w0.fImm18) (hm : inMem m i = true) (hn : mopLength m mop.toNat = some (ws.length + 1))
    (hw : ws = [w1, w2, w3].take ws.length) : Encodes m i w0 w1 w2 w3 := by
  obtain ⟨hd, himm⟩ := hf; exact encodes_of_words (he.trans (by rw [packC_eq h hd himm])) hm (h ▸ hn) hw

theorem encodes_of_packD {imm : BitVec 24} (he : encode i = packD mop imm :: ws) (h : w0.fMop.toNat = mop.toNat)
    (hf : imm = w0.fImm24) (hm : inMem m i = true) (hn : mopLength m mop.toNat = some (ws.length + 1))
    (hw : ws = [w1, w2, w3].take ws.length) : Encodes m i w0 w1 w2 w3 := by
  exact encodes_of_words (he.trans (by rw [packD_eq h hf])) hm (h ▸ hn) hw

end Rows

theorem encodes_of_decodeShared {m : IMem} {i : Instr} {w0 w1 w2 w3 : Word}
    (h : decodeShared w0.fMop.toNat w0 w1 = some i) : Encodes m i w0 w1 w2 w3 := by
  unfold decodeShared at h
  split at h
  next hm => exact encodes_of_unusedZero h fun hz => encodes_of_packD rfl hm (by simp_all) rfl rfl rfl
  next hm => exact encodes_of_unusedZero h fun hz => encodes_of_packA rfl hm (by simp_all) rfl rfl rfl
  next hm => exact encodes_of_unusedZero h fun hz => encodes_of_packA rfl hm (by simp_all) rfl rfl rfl
  next hm => exact encodes_of_unusedZero h fun hz => encodes_of_packA rfl hm (by simp_all) rfl rfl rfl
  next hm => exact encodes_of_unusedZero h fun hz => encodes_of_packA rfl hm (by simp_all) rfl rfl rfl
  next hm => exact encodes_of_unusedZero h fun hz => encodes_of_packA rfl hm (by simp_all) rfl rfl rfl
  next hm => exact encodes_of_unusedZero h fun hz => encodes_of_packA rfl hm (by simp_all) rfl rfl rfl
  next hm => exact encodes_of_unusedZero h fun hz => encodes_of_packA rfl hm (by simp_all) rfl rfl rfl
  next hm => exact encodes_of_unusedZero h fun hz => encodes_of_packA rfl hm (by simp_all) rfl rfl rfl
  next hm => exact encodes_of_unusedZero h fun hz => encodes_of_packA rfl hm (by simp_all) rfl rfl rfl
  next hm => exact encodes_of_unusedZero h fun hz => encodes_of_packA rfl hm (by simp_all) rfl rfl rfl
  next hm => exact encodes_of_unusedZero h fun hz => encodes_of_packA rfl hm (by simp_all) rfl rfl rfl
  next hm => exact encodes_of_unusedZero h fun hz => encodes_of_packA rfl hm (by simp_all) rfl rfl rfl
  next hm => exact encodes_of_unusedZero h fun hz => encodes_of_packA rfl hm (by simp_all) rfl rfl rfl
  next hm => exact encodes_of_unusedZero h fun hz => encodes_of_packA rfl hm (by simp_all) rfl rfl rfl
  next hm => exact encodes_of_unusedZero h fun hz => encodes_of_packA rfl hm (by simp_all) rfl rfl rfl
  next hm => exact encodes_of_unusedZero h fun hz => encodes_of_packA rfl hm (by simp_all) rfl rfl rfl
  next hm => exact encodes_of_unusedZero h fun hz => encodes_of_packA rfl hm (by simp_all) rfl rfl rfl
  next hm => exact encodes_of_unusedZero h fun hz => encodes_of_packA rfl hm (by simp_all) rfl rfl rfl
  next hm => exact encodes_of_unusedZero h fun hz => encodes_of_packA rfl hm (by simp_all) rfl rfl rfl
  next hm => exact encodes_of_some h (encodes_of_packB rfl hm ⟨rfl, rfl, rfl⟩ rfl rfl rfl)
  next hm => exact encodes_of_some h (encodes_of_packB rfl hm ⟨rfl, rfl, rfl⟩ rfl rfl rfl)
  next hm => exact encodes_of_some h (encodes_of_packB rfl hm ⟨rfl, rfl, rfl⟩ rfl rfl rfl)
  next hm => exact encodes_of_some h (encodes_of_packB rfl hm ⟨rfl, rfl, rfl⟩ rfl rfl rfl)
  next hm => exact encodes_of_some h (encodes_of_packB rfl hm ⟨rfl, rfl, rfl⟩ rfl rfl rfl)
  next hm => exact encodes_of_some h (encodes_of_packB rfl hm ⟨rfl, rfl, rfl⟩ rfl rfl rfl)
  next hm => exact encodes_of_some h (encodes_of_packB rfl hm ⟨rfl, rfl, rfl⟩ rfl rfl rfl)
  next hm => exact encodes_of_some h (encodes_of_packA rfl hm ⟨rfl, rfl, rfl, rfl⟩ rfl rfl rfl)
  next hm => exact encodes_of_some h (encodes_of_packA rfl hm ⟨rfl, rfl, rfl, rfl⟩ rfl rfl rfl)
  next hm => exact encodes_of_some h (encodes_of_packA rfl hm ⟨rfl, rfl, rfl, rfl⟩ rfl rfl rfl)
  next hm => exact encodes_of_some h (encodes_of_packA rfl hm ⟨rfl, rfl, rfl, rfl⟩ rfl rfl rfl)
  next hm => exact encodes_of_some h (encodes_of_packA rfl hm ⟨rfl, rfl, rfl, rfl⟩ rfl rfl rfl)
  next hm => exact encodes_of_some h (encodes_of_packA rfl hm ⟨rfl, rfl, rfl, rfl⟩ rfl rfl rfl)
  next hm => exact encodes_of_some h (encodes_of_packB rfl hm ⟨rfl, rfl, rfl⟩ rfl rfl words_lw)
  next hm => exact encodes_of_unusedZero h fun hz => encodes_of_packA rfl hm (by simp_all) rfl rfl rfl
  next hm => exact encodes_of_unusedZero h fun hz => encodes_of_packA rfl hm (by simp_all) rfl rfl rfl
  next hm => exact encodes_of_unusedZero h fun hz => encodes_of_packA rfl hm (by simp_all) rfl rfl rfl
  next hm => exact encodes_of_some h (encodes_of_packB rfl hm ⟨rfl, rfl, rfl⟩ rfl rfl rfl)
  next hm => exact encodes_of_some h (encodes_of_packB rfl hm ⟨rfl, rfl, rfl⟩ rfl rfl rfl)
  next hm => exact encodes_of_some h (encodes_of_packB rfl hm ⟨rfl, rfl, rfl⟩ rfl rfl rfl)
  next hm => exact encodes_of_some h (encodes_of_packB rfl hm ⟨rfl, rfl, rfl⟩ rfl rfl rfl)
  next hm => exact encodes_of_some h (encodes_of_packA rfl hm ⟨rfl, rfl, rfl, rfl⟩ rfl rfl words_lw)
  next hm => exact encodes_of_unusedZero h fun hz => encodes_of_packB rfl hm (by simp_all) rfl rfl rfl
  next hm => exact encodes_of_unusedZero h fun hz => encodes_of_packB rfl hm (by simp_all) rfl rfl rfl
  next hm => exact encodes_of_unusedZero h fun hz => encodes_of_packA rfl hm (by simp_all) rfl rfl rfl
  next hm => exact encodes_of_unusedZero h fun hz => encodes_of_packA rfl hm (by simp_all) rfl rfl words_lw
  next hm => exact encodes_of_some h (encodes_of_packC rfl hm ⟨rfl, rfl⟩ rfl rfl rfl)
  next hm => exact encodes_of_unusedZero h fun hz => encodes_of_packA rfl hm (by simp_all) rfl rfl rfl
  next hm => exact encodes_of_unusedZero h fun hz => encodes_of_packA rfl hm (by simp_all) rfl rfl rfl
  next hm => exact encodes_of_unusedZero h fun hz => encodes_of_packA rfl hm (by simp_all) rfl rfl rfl
  next hm => exact encodes_of_unusedZero h fun hz => encodes_of_packA rfl hm (by simp_all) rfl rfl rfl
  next hm => exact encodes_of_unusedZero h fun hz => encodes_of_packA rfl hm (by simp_all) rfl rfl rfl
  next hm => exact encodes_of_unusedZero h fun hz => encodes_of_packA rfl hm (by simp_all) rfl rfl rfl
  next hm => exact encodes_of_some h (encodes_of_packB rfl hm ⟨rfl, rfl, rfl⟩ rfl rfl rfl)
  next hm => exact encodes_of_unusedZero h fun hz => encodes_of_packB rfl hm (by simp_all) rfl rfl rfl
  next hm => exact encodes_of_unusedZero h fun hz => encodes_of_packA rfl hm (by simp_all) rfl rfl rfl
  next hm => exact encodes_of_unusedZero h fun hz => encodes_of_packA rfl hm (by simp_all) rfl rfl rfl
  next hm => exact encodes_of_unusedZero h fun hz => encodes_of_packA rfl hm (by simp_all) rfl rfl rfl
  next hm => exact encodes_of_unusedZero h fun hz => encodes_of_packB rfl hm (by simp_all) rfl rfl rfl
  next hm => exact encodes_of_unusedZero h fun hz => encodes_of_packB rfl hm (by simp_all) rfl rfl rfl
  next hm => exact encodes_of_some h (encodes_of_packD rfl hm rfl rfl rfl rfl)
  next => nomatch h

theorem encodes_of_decodeControl {i : Instr} {w0 w1 w2 w3 : Word}
    (h : decodeControl w0.fMop.toNat w0 w1 w2 w3 = some i) : Encodes .control i w0 w1 w2 w3 := by
  unfold decodeControl at h
  split at h
  next hm => exact encodes_of_some h (encodes_of_packB rfl hm ⟨rfl, rfl, rfl⟩ rfl rfl rfl)
  next hm => exact encodes_of_some h (encodes_of_packB rfl hm ⟨rfl, rfl, rfl⟩ rfl rfl rfl)
  next hm => exact encodes_of_some h (encodes_of_packB rfl hm ⟨rfl, rfl, rfl⟩ rfl rfl rfl)
  next hm => exact encodes_of_some h (encodes_of_packB rfl hm ⟨rfl, rfl, rfl⟩ rfl rfl rfl)
  next hm => exact encodes_of_some h (encodes_of_packB rfl hm ⟨rfl, rfl, rfl⟩ rfl rfl rfl)
  next hm => exact encodes_of_some h (encodes_of_packB rfl hm ⟨rfl, rfl, rfl⟩ rfl rfl rfl)
  next hm => exact encodes_of_some h (encodes_of_packB rfl hm ⟨rfl, rfl, rfl⟩ rfl rfl rfl)
  next hm => exact encodes_of_some h (encodes_of_packB rfl hm ⟨rfl, rfl, rfl⟩ rfl rfl rfl)
  next hm => exact encodes_of_some h (encodes_of_packB rfl hm ⟨rfl, rfl, rfl⟩ rfl rfl rfl)
  next hm => exact encodes_of_some h (encodes_of_packB rfl hm ⟨rfl, rfl, rfl⟩ rfl rfl rfl)
  next hm => exact encodes_of_some h (encodes_of_packB rfl hm ⟨rfl, rfl, rfl⟩ rfl rfl rfl)
  next hm => exact encodes_of_some h (encodes_of_packB rfl hm ⟨rfl, rfl, rfl⟩ rfl rfl rfl)
  next hm => exact encodes_of_some h (encodes_of_packB rfl hm ⟨rfl, rfl, rfl⟩ rfl rfl rfl)
  next hm => exact encodes_of_unusedZero h fun hz => encodes_of_packA rfl hm (by simp_all) rfl rfl words_lw
  next hm => exact encodes_of_some h (encodes_of_packB rfl hm ⟨rfl, rfl, rfl⟩ rfl rfl rfl)
  next hm => exact encodes_of_some h (encodes_of_packB rfl hm ⟨rfl, rfl, rfl⟩ rfl rfl rfl)
  next hm => exact encodes_of_unusedZero h fun hz => encodes_of_packA rfl hm (by simp_all) rfl rfl rfl
  next hm => exact encodes_of_unusedZero h fun hz => encodes_of_packA rfl hm (by simp_all) rfl rfl rfl
  next hm => exact encodes_of_unusedZero h fun hz => encodes_of_packA rfl hm (by simp_all) rfl rfl words_lw
  next hm => exact encodes_of_some h (encodes_of_packB rfl hm ⟨rfl, rfl, rfl⟩ rfl rfl rfl)
  next hm => exact encodes_of_some h (encodes_of_packB rfl hm ⟨rfl, rfl, rfl⟩ rfl rfl rfl)
  next hm => exact encodes_of_some h (encodes_of_packB rfl hm ⟨rfl, rfl, rfl⟩ rfl rfl rfl)
  next hm => exact encodes_of_some h (encodes_of_packB rfl hm ⟨rfl, rfl, rfl⟩ rfl rfl rfl)
  next hm => exact encodes_of_unusedZero h fun hz => encodes_of_packA rfl hm (by simp_all) rfl rfl rfl
  next hm => exact encodes_of_unusedZero h fun hz => encodes_of_packA rfl hm (by simp_all) rfl rfl rfl
  next hm => exact encodes_of_some h (encodes_of_packA rfl hm ⟨rfl, rfl, rfl, rfl⟩ rfl rfl words_lw)
  next hm => exact encodes_of_unusedZero h fun hz => encodes_of_packD rfl hm (by simp_all) rfl rfl rfl
  next hm => exact encodes_of_some h (encodes_of_packD rfl hm rfl rfl rfl rfl)
  next hm => exact encodes_of_unusedZero h fun hz => encodes_of_packA rfl hm (by simp_all) rfl rfl rfl
  next hm => exact encodes_of_unusedZero h fun hz => encodes_of_packA rfl hm (by simp_all) rfl rfl rfl
  next hm => exact encodes_of_unusedZero h fun hz => encodes_of_packA rfl hm (by simp_all) rfl rfl rfl
  next hm => exact encodes_of_unusedZero h fun hz => encodes_of_packA rfl hm (by simp_all) rfl rfl rfl
  next hm => exact encodes_of_unusedZero h fun hz => encodes_of_packA rfl hm (by simp_all) rfl rfl rfl
  next hm => exact encodes_of_unusedZero h fun hz => encodes_of_packA rfl hm (by simp_all) rfl rfl rfl
  next hm => exact encodes_of_unusedZero h fun hz => encodes_of_packA rfl hm (by simp_all) rfl rfl rfl
  next hm => exact encodes_of_unusedZero h fun hz => encodes_of_packA rfl hm (by simp_all) rfl rfl rfl
  next hm => exact encodes_of_unusedZero h fun hz => encodes_of_packA rfl hm (by simp_all) rfl rfl rfl
  next hm => exact encodes_of_unusedZero h fun hz => encodes_of_packA rfl hm (by simp_all) rfl rfl rfl
  next hm => exact encodes_of_unusedZero h fun hz => encodes_of_packA rfl hm (by simp_all) rfl rfl rfl
  next hm => exact encodes_of_unusedZero h fun hz => encodes_of_packA rfl hm (by simp_all) rfl rfl rfl
  next hm => exact encodes_of_unusedZero h fun hz => encodes_of_packA rfl hm (by simp_all) rfl rfl rfl
  next hm => exact encodes_of_unusedZero h fun hz => encodes_of_packA rfl hm (by simp_all) rfl rfl rfl
  next hm => exact encodes_of_unusedZero h fun hz => encodes_of_packA rfl hm (by simp_all) rfl rfl rfl
  next hm => exact encodes_of_unusedZero h fun hz => encodes_of_packD rfl hm (by simp_all) rfl rfl rfl
  next hm => exact encodes_of_unusedZero h fun hz => encodes_of_packA rfl hm (by simp_all) rfl rfl rfl
  next hm => exact encodes_of_unusedZero h fun hz => encodes_of_packA rfl hm (by simp_all) rfl rfl rfl
  next hm => exact encodes_of_unusedZero h fun hz => encodes_of_packA rfl hm (by simp_all) rfl rfl rfl
  next hm => exact encodes_of_some h (encodes_of_packA rfl hm ⟨rfl, rfl, rfl, rfl⟩ rfl rfl words_lw)
  next hm => exact encodes_of_some h (encodes_of_packA rfl hm ⟨rfl, rfl, rfl, rfl⟩ rfl rfl words_lw)
  next hm => exact encodes_of_some h (encodes_of_packA rfl hm ⟨rfl, rfl, rfl, rfl⟩ rfl rfl words_lw)
  next hm => exact encodes_of_some h (encodes_of_packA rfl hm ⟨rfl, rfl, rfl, rfl⟩ rfl rfl words_lw)
  next hm => exact encodes_of_some h (encodes_of_packA rfl hm ⟨rfl, rfl, rfl, rfl⟩ rfl rfl words_lw)
  next hm => exact encodes_of_some h (encodes_of_packA rfl hm ⟨rfl, rfl, rfl, rfl⟩ rfl rfl words_lw)
  next hm => exact encodes_of_some h (encodes_of_packA rfl hm ⟨rfl, rfl, rfl, rfl⟩ rfl rfl words_lw)
  next hm => exact encodes_of_some h (encodes_of_packA rfl hm ⟨rfl, rfl, rfl, rfl⟩ rfl rfl words_lw)
  next hm => exact encodes_of_some h (encodes_of_packA rfl hm ⟨rfl, rfl, rfl, rfl⟩ rfl rfl words_lw)
  next hm => exact encodes_of_some h (encodes_of_packA rfl hm ⟨rfl, rfl, rfl, rfl⟩ rfl rfl words_lw)
  next hm => exact encodes_of_some h (encodes_of_packD rfl hm rfl rfl rfl rfl)
  next hm => exact encodes_of_some h (encodes_of_packA rfl hm ⟨rfl, rfl, rfl, rfl⟩ rfl rfl rfl)
  next hm => exact encodes_of_unusedZero h fun hz => encodes_of_packA rfl hm (by simp_all) rfl rfl rfl
  next hm => exact encodes_of_unusedZero h fun hz => encodes_of_packA rfl hm (by simp_all) rfl rfl rfl
  next hm => exact encodes_of_unusedZero h fun hz => encodes_of_packA rfl hm (by simp_all) rfl rfl rfl
  next hm => exact encodes_of_unusedZero h fun hz => encodes_of_packA rfl hm (by simp_all) rfl rfl rfl
  next hm => exact encodes_of_some h (encodes_of_packA rfl hm ⟨rfl, rfl, rfl, rfl⟩ rfl rfl words_lw)
  next hm => exact encodes_of_unusedZero h fun hz => encodes_of_packA rfl hm (by simp_all) rfl rfl rfl
  next hm => exact encodes_of_unusedZero h fun hz => encodes_of_packA rfl hm (by simp_all) rfl rfl rfl
  next hm => exact encodes_of_unusedZero h fun hz => encodes_of_packA rfl hm (by simp_all) rfl rfl rfl
  next hm => exact encodes_of_unusedZero h fun hz => encodes_of_packA rfl hm (by simp_all) rfl rfl rfl
  next hm => exact encodes_of_unusedZero h fun hz => encodes_of_packA rfl hm (by simp_all) rfl rfl rfl
  next hm => exact encodes_of_unusedZero h fun hz => encodes_of_packA rfl hm (by simp_all) rfl rfl rfl
  next hm => exact encodes_of_unusedZero h fun hz => encodes_of_packA rfl hm (by simp_all) rfl rfl rfl
  next hm => exact encodes_of_unusedZero h fun hz => encodes_of_packA rfl hm (by simp_all) rfl rfl rfl
  next hm => exact encodes_of_unusedZero h fun hz => encodes_of_packD rfl hm (by simp_all) rfl rfl rfl
  next hm => exact encodes_of_unusedZero h fun hz => encodes_of_packD rfl hm (by simp_all) rfl rfl rfl
  next hm => exact encodes_of_unusedZero h fun hz => encodes_of_packA rfl hm (by simp_all) rfl rfl rfl
  next hm => exact encodes_of_some h (encodes_of_packB rfl hm ⟨rfl, rfl, rfl⟩ rfl rfl rfl)
  next hm => exact encodes_of_unusedZero h fun hz => encodes_of_packA rfl hm (by simp_all) rfl rfl rfl
  next hm => exact encodes_of_unusedZero h fun hz => encodes_of_packA rfl hm (by simp_all) rfl rfl rfl
  next hm => exact encodes_of_unusedZero h fun hz => encodes_of_packA rfl hm (by simp_all) rfl rfl rfl
  next hm => exact encodes_of_unusedZero h fun hz => encodes_of_packA rfl hm (by simp_all) rfl rfl rfl
  next hm => exact encodes_of_unusedZero h fun hz => encodes_of_packD rfl hm (by simp_all) rfl rfl rfl
  next hm => exact encodes_of_unusedZero h fun hz => encodes_of_packA rfl hm (by simp_all) rfl rfl rfl
  next hm => exact encodes_of_unusedZero h fun hz => encodes_of_packA rfl hm (by simp_all) rfl rfl rfl
  next hm => exact encodes_of_unusedZero h fun hz => encodes_of_packA rfl hm (by simp_all) rfl rfl rfl
  next hm => exact encodes_of_unusedZero h fun hz => encodes_of_packA rfl hm (by simp_all) rfl rfl rfl
  next hm => exact encodes_of_unusedZero h fun hz => encodes_of_packA rfl hm (by simp_all) rfl rfl rfl
  next hm => exact encodes_of_unusedZero h fun hz => encodes_of_packA rfl hm (by simp_all) rfl rfl rfl
  next hm => exact encodes_of_unusedZero h fun hz => encodes_of_packA rfl hm (by simp_all) rfl rfl rfl
  next => nomatch h

theorem encodes_of_decodeVector {i : Instr} {w0 w1 w2 w3 : Word}
    (h : decodeVector w0.fMop.toNat w0 w1 = some i) : Encodes .vector i w0 w1 w2 w3 := by
  unfold decodeVector at h
  split at h
  next hm => exact encodes_of_some h (encodes_of_packA rfl hm ⟨rfl, rfl, rfl, rfl⟩ rfl rfl words_lw)
  next hm => exact encodes_of_some h (encodes_of_packA rfl hm ⟨rfl, rfl, rfl, rfl⟩ rfl rfl words_lw)
  next hm => exact encodes_of_some h (encodes_of_packA rfl hm ⟨rfl, rfl, rfl, rfl⟩ rfl rfl words_lw)
  next hm => exact encodes_of_some h (encodes_of_packA rfl hm ⟨rfl, rfl, rfl, rfl⟩ rfl rfl words_lw)
  next hm => exact encodes_of_some h (encodes_of_packA rfl hm ⟨rfl, rfl, rfl, rfl⟩ rfl rfl words_lw)
  next hm => exact encodes_of_some h (encodes_of_packA rfl hm ⟨rfl, rfl, rfl, rfl⟩ rfl rfl words_lw)
  next hm => exact encodes_of_some h (encodes_of_packA rfl hm ⟨rfl, rfl, rfl, rfl⟩ rfl rfl words_lw)
  next hm => exact encodes_of_unusedZero h fun hz => encodes_of_packA rfl hm (by simp_all) rfl rfl words_lw
  next hm => exact encodes_of_some h (encodes_of_packA rfl hm ⟨rfl, rfl, rfl, rfl⟩ rfl rfl words_lw)
  next hm => exact encodes_of_some h (encodes_of_packA rfl hm ⟨rfl, rfl, rfl, rfl⟩ rfl rfl words_lw)
  next hm => exact encodes_of_unusedZero h fun hz => encodes_of_packA rfl hm (by simp_all) rfl rfl words_lw
  next hm => exact encodes_of_unusedZero h fun hz => encodes_of_packA rfl hm (by simp_all) rfl rfl words_lw
  next hm => exact encodes_of_unusedZero h fun hz => encodes_of_packA rfl hm (by simp_all) rfl rfl words_lw
  next hm => exact encodes_of_unusedZero h fun hz => encodes_of_packA rfl hm (by simp_all) rfl rfl words_lw
  next hm => exact encodes_of_unusedZero h fun hz => encodes_of_packA rfl hm (by simp_all) rfl rfl words_lw
  next hm => exact encodes_of_unusedZero h fun hz => encodes_of_packA rfl hm (by simp_all) rfl rfl words_lw
  next hm => exact encodes_of_some h (encodes_of_packA rfl hm ⟨rfl, rfl, rfl, rfl⟩ rfl rfl words_lw)
  next hm => exact encodes_of_some h (encodes_of_packA rfl hm ⟨rfl, rfl, rfl, rfl⟩ rfl rfl words_lw)
  next hm => exact encodes_of_some h (encodes_of_packA rfl hm ⟨rfl, rfl, rfl, rfl⟩ rfl rfl words_lw)
  next hm => exact encodes_of_some h (encodes_of_packA rfl hm ⟨rfl, rfl, rfl, rfl⟩ rfl rfl words_lw)
  next hm => exact encodes_of_some h (encodes_of_packA rfl hm ⟨rfl, rfl, rfl, rfl⟩ rfl rfl words_lw)
  next hm => exact encodes_of_some h (encodes_of_packA rfl hm ⟨rfl, rfl, rfl, rfl⟩ rfl rfl words_lw)
  next hm => exact encodes_of_some h (encodes_of_packA rfl hm ⟨rfl, rfl, rfl, rfl⟩ rfl rfl words_lw)
  next hm => exact encodes_of_some h (encodes_of_packA rfl hm ⟨rfl, rfl, rfl, rfl⟩ rfl rfl words_lw)
  next hm => exact encodes_of_some h (encodes_of_packA rfl hm ⟨rfl, rfl, rfl, rfl⟩ rfl rfl words_lw)
  next hm => exact encodes_of_some h (encodes_of_packA rfl hm ⟨rfl, rfl, rfl, rfl⟩ rfl rfl words_lw)
  next hm => exact encodes_of_some h (encodes_of_packA rfl hm ⟨rfl, rfl, rfl, rfl⟩ rfl rfl words_lw)
  next hm => exact encodes_of_some h (encodes_of_packA rfl hm ⟨rfl, rfl, rfl, rfl⟩ rfl rfl words_lw)
  next hm => exact encodes_of_some h (encodes_of_packA rfl hm ⟨rfl, rfl, rfl, rfl⟩ rfl rfl words_lw)
  next hm => exact encodes_of_unusedZero h fun hz => encodes_of_packA rfl hm (by simp_all) rfl rfl words_lw
  next hm => exact encodes_of_some h (encodes_of_packA rfl hm ⟨rfl, rfl, rfl, rfl⟩ rfl rfl words_lw)
  next hm => exact encodes_of_unusedZero h fun hz => encodes_of_packA rfl hm (by simp_all) rfl rfl words_lw
  next hm => exact encodes_of_some h (encodes_of_packA rfl hm ⟨rfl, rfl, rfl, rfl⟩ rfl rfl words_lw)
  next hm => exact encodes_of_unusedZero h fun hz => encodes_of_packA rfl hm (by simp_all) rfl rfl words_lw
  next hm => exact encodes_of_unusedZero h fun hz => encodes_of_packA rfl hm (by simp_all) rfl rfl words_lw
  next hm => exact encodes_of_some h (encodes_of_packA rfl hm ⟨rfl, rfl, rfl, rfl⟩ rfl rfl words_lw)
  next hm => exact encodes_of_some h (encodes_of_packA rfl hm ⟨rfl, rfl, rfl, rfl⟩ rfl rfl words_lw)
  next hm => exact encodes_of_some h (encodes_of_packA rfl hm ⟨rfl, rfl, rfl, rfl⟩ rfl rfl words_lw)
  next hm => exact encodes_of_unusedZero h fun hz => encodes_of_packA rfl hm (by simp_all) rfl rfl words_lw
  next hm => exact encodes_of_unusedZero h fun hz => encodes_of_packA rfl hm (by simp_all) rfl rfl words_lw
  next hm => exact encodes_of_some h (encodes_of_packA rfl hm ⟨rfl, rfl, rfl, rfl⟩ rfl rfl words_lw)
  next hm => exact encodes_of_some h (encodes_of_packA rfl hm ⟨rfl, rfl, rfl, rfl⟩ rfl rfl words_lw)
  next hm => exact encodes_of_some h (encodes_of_packA rfl hm ⟨rfl, rfl, rfl, rfl⟩ rfl rfl words_lw)
  next hm => exact encodes_of_unusedZero h fun hz => encodes_of_packA rfl hm (by simp_all) rfl rfl words_lw
  next hm => exact encodes_of_some h (encodes_of_packA rfl hm ⟨rfl, rfl, rfl, rfl⟩ rfl rfl words_lw)
  next hm => exact encodes_of_some h (encodes_of_packA rfl hm ⟨rfl, rfl, rfl, rfl⟩ rfl rfl words_lw)
  next hm => exact encodes_of_unusedZero h fun hz => encodes_of_packA rfl hm (by simp_all) rfl rfl words_lw
  next hm => exact encodes_of_unusedZero h fun hz => encodes_of_packA rfl hm (by simp_all) rfl rfl words_lw
  next hm => exact encodes_of_unusedZero h fun hz => encodes_of_packA rfl hm (by simp_all) rfl rfl words_lw
  next hm => exact encodes_of_unusedZero h fun hz => encodes_of_packA rfl hm (by simp_all) rfl rfl words_lw
  next hm => exact encodes_of_unusedZero h fun hz => encodes_of_packA rfl hm (by simp_all) rfl rfl words_lw
  next hm => exact encodes_of_unusedZero h fun hz => encodes_of_packA rfl hm (by simp_all) rfl rfl words_lw
  next hm => exact encodes_of_some h (encodes_of_packA rfl hm ⟨rfl, rfl, rfl, rfl⟩ rfl rfl words_lw)
  next hm => exact encodes_of_some h (encodes_of_packA rfl hm ⟨rfl, rfl, rfl, rfl⟩ rfl rfl words_lw)
  next hm => exact encodes_of_some h (encodes_of_packA rfl hm ⟨rfl, rfl, rfl, rfl⟩ rfl rfl words_lw)
  next hm => exact encodes_of_some h (encodes_of_packA rfl hm ⟨rfl, rfl, rfl, rfl⟩ rfl rfl words_lw)
  next hm => exact encodes_of_unusedZero h fun hz => encodes_of_packA rfl hm (by simp_all) rfl rfl words_lw
  next hm => exact encodes_of_some h (encodes_of_packA rfl hm ⟨rfl, rfl, rfl, rfl⟩ rfl rfl words_lw)
  next hm => exact encodes_of_some h (encodes_of_packA rfl hm ⟨rfl, rfl, rfl, rfl⟩ rfl rfl words_lw)
  next hm => exact encodes_of_some h (encodes_of_packA rfl hm ⟨rfl, rfl, rfl, rfl⟩ rfl rfl words_lw)
  next hm => exact encodes_of_some h (encodes_of_packA rfl hm ⟨rfl, rfl, rfl, rfl⟩ rfl rfl words_lw)
  next hm => exact encodes_of_unusedZero h fun hz => encodes_of_packA rfl hm (by simp_all) rfl rfl words_lw
  next hm => exact encodes_of_some h (encodes_of_packA rfl hm ⟨rfl, rfl, rfl, rfl⟩ rfl rfl words_lw)
  next hm => exact encodes_of_some h (encodes_of_packA rfl hm ⟨rfl, rfl, rfl, rfl⟩ rfl rfl words_lw)
  next => nomatch h

theorem encodes_of_decodeArcade {i : Instr} {w0 w1 w2 w3 : Word}
    (h : decodeArcade w0.fMop.toNat w0 w1 w2 w3 = some i) : Encodes .arcade i w0 w1 w2 w3 := by
  unfold decodeArcade at h
  split at h
  next hm => exact encodes_of_some h (encodes_of_packD rfl hm rfl rfl rfl rfl)
  next hm => exact encodes_of_some h (encodes_of_packD rfl hm rfl rfl rfl rfl)
  next hm => exact encodes_of_some h (encodes_of_packA rfl hm ⟨rfl, rfl, rfl, rfl⟩ rfl rfl rfl)
  next hm => exact encodes_of_some h (encodes_of_packA rfl hm ⟨rfl, rfl, rfl, rfl⟩ rfl rfl rfl)
  next hm => exact encodes_of_some h (encodes_of_packA rfl hm ⟨rfl, rfl, rfl, rfl⟩ rfl rfl words_lw)
  next hm => exact encodes_of_unusedZero h fun hz => encodes_of_packA rfl hm (by simp_all) rfl rfl rfl
  next hm => exact encodes_of_unusedZero h fun hz => encodes_of_packA rfl hm (by simp_all) rfl rfl rfl
  next hm => exact encodes_of_unusedZero h fun hz => encodes_of_packA rfl hm (by simp_all) rfl rfl rfl
  next => nomatch h

theorem encodes_of_decodeFields {m : IMem} {i : Instr} {w0 w1 w2 w3 : Word} (h : decodeFields m w0 w1 w2 w3 = some i) :
    Encodes m i w0 w1 w2 w3 := by
  unfold decodeFields at h
  simp only at h
  split at h
  · exact encodes_of_decodeShared h
  · cases m with
    | control => exact encodes_of_decodeControl h
    | vector => exact encodes_of_decodeVector h
    | arcade => exact encodes_of_decodeArcade h

/-! ### The obligation -/

/-- What the decoder reads where it gives an instruction (checks 4 and 6 of R35). -/
theorem exists_of_decode {m : IMem} {i : Instr} {ws : List Word} (h : decode m ws = .ok i) :
    ∃ w0 r n, ws = w0 :: r ∧ mopLength m w0.fMop.toNat = some n ∧ n ≤ r.length + 1 ∧
      decodeFields m w0 (r.getD 0 0) (r.getD 1 0) (r.getD 2 0) = some i ∧ i.wf = true := by
  unfold decode at h
  split at h
  next => cases h
  next w0 r =>
    split at h
    next => cases h
    next n hn =>
      split_ifs at h with hlen
      split at h
      next => cases h
      next j hf =>
        split_ifs at h with hwf
        cases h
        exact ⟨w0, r, n, rfl, hn, by omega, hf, hwf⟩

/-- Up to four words of a list are those that the decoder reads. -/
theorem take_getD_eq_take (w0 : Word) (r : List Word) {n : Nat} (h4 : n ≤ 4) (h : n ≤ r.length + 1) :
    [w0, r.getD 0 0, r.getD 1 0, r.getD 2 0].take n = (w0 :: r).take n := by
  refine List.ext_getElem (by simp; omega) fun k hk _ => ?_
  rw [List.length_take] at hk
  have hk4 : k < 4 := by omega
  interval_cases k <;> simp <;> rw [List.getElem?_eq_getElem (by omega), Option.getD_some]

/-- Settles O57: every instruction decodes from its words by the row of its MOP, and every row's instruction has the row's words. -/
theorem roundTrip : Obligations.RoundTrip := by
  unfold Obligations.RoundTrip
  refine ⟨fun m i rest hw hm => decodes_of_inMem hm hw rest, fun m i ws h => ?_⟩
  obtain ⟨w0, r, n, rfl, hn, hlen, hf, hwf⟩ := exists_of_decode h
  obtain ⟨hm, hl, he⟩ := encodes_of_decodeFields hf
  obtain rfl : n = (encode i).length := Option.some.inj (hn.symm.trans hl)
  have h4 : (encode i).length ≤ 4 := by rw [he]; exact List.length_take_le' ..
  rw [take_getD_eq_take w0 r h4 hlen] at he
  refine ⟨hwf, hm, (w0 :: r).drop (encode i).length, ?_, hl⟩
  nth_rewrite 1 [he]
  rw [List.take_append_drop]

end Sys2Proof.Proofs.RoundTrip
end

section
/-! PROOFS. The shared control subset (R56 to R64): the words that the immediate, bit and move instructions leave in their
destination, as numbers and bit by bit. -/

namespace Sys2Proof.Proofs.BitForms

open Sys2Proof.Machine
open Sys2Proof.Safety
open Sys2Proof.Proofs.ControlSubset

/-! ### Immediates (R23, R56) -/

theorem toNat_immLo (imm : BitVec 12) : (immLo imm).toNat = imm.toNat % 64 := by
  simp [immLo, BitVec.extractLsb'_toNat]

theorem toNat_immHi (imm : BitVec 12) : (immHi imm).toNat = imm.toNat / 64 := by
  simp only [immHi, BitVec.extractLsb'_toNat, Nat.shiftRight_eq_div_pow]
  omega

theorem add_sx64 {w : Nat} (x : DWord) (imm : BitVec w) : x + sx64 imm = BitVec.ofInt 64 (x.toInt + imm.toInt) := by
  rw [BitVec.ofInt_add, BitVec.ofInt_toInt]; rfl

/-! ### Single bits (R57, R59, R60) -/

/-- A bit of a word in which one bit is replaced. -/
theorem getLsbD_setBitK (x : DWord) (k j : Nat) (c : Bool) (hj : j < 64) :
    (setBitK x k c).getLsbD j = if j = k then c else x.getLsbD j := by
  have hc : (BitVec.ofNat 64 (bit c)).getLsbD (j - k) = (decide (j - k = 0) && c) := by
    cases c <;> simp [bit, BitVec.getLsbD_one]
  have h1 : (1#64).getLsbD (j - k) = decide (j - k = 0) := by simp [BitVec.getLsbD_one]
  simp only [setBitK, BitVec.getLsbD_or, BitVec.getLsbD_and, BitVec.getLsbD_not, BitVec.getLsbD_shiftLeft, hj, hc, h1]
  by_cases hlt : j < k
  · simp [hlt, hlt.ne]
  · by_cases hjk : j = k
    · simp [hjk]
    · simp [hlt, hjk, show j - k ≠ 0 by omega]

theorem getLsbD_ofNat_two_pow {j : Nat} (k : Nat) (hj : j < 64) : (BitVec.ofNat 64 (2 ^ k)).getLsbD j = decide (k = j) := by
  rw [BitVec.getLsbD_ofNat, Nat.testBit_two_pow, decide_eq_true hj, Bool.true_and]

theorem setBitK_true (x : DWord) (k : Nat) : setBitK x k true = x ||| BitVec.ofNat 64 (2 ^ k) := by
  refine BitVec.eq_of_getLsbD_eq fun j hj => ?_
  rw [getLsbD_setBitK x k j true hj, BitVec.getLsbD_or, getLsbD_ofNat_two_pow k hj]
  split
  · simp [*]
  · simp [Ne.symm ‹j ≠ k›]

theorem setBitK_false (x : DWord) (k : Nat) : setBitK x k false = x &&& ~~~(BitVec.ofNat 64 (2 ^ k)) := by
  refine BitVec.eq_of_getLsbD_eq fun j hj => ?_
  rw [getLsbD_setBitK x k j false hj, BitVec.getLsbD_and, BitVec.getLsbD_not, getLsbD_ofNat_two_pow k hj]
  split
  · simp [*]
  · simp [Ne.symm ‹j ≠ k›, hj]

/-! ### Bit fields (R61) -/

theorem getLsbD_lowOnes (len : Nat) {j : Nat} (hj : j < 64) : (lowOnes len).getLsbD j = decide (j < len) := by
  rw [lowOnes, BitVec.getLsbD_ofNat, Nat.testBit_two_pow_sub_one, decide_eq_true hj, Bool.true_and]

/-- A field read out of a word. -/
theorem ushiftRight_and_lowOnes (x : DWord) (k len : Nat) :
    (x >>> k) &&& lowOnes len = BitVec.ofNat 64 (x.toNat / 2 ^ k % 2 ^ len) := by
  refine BitVec.eq_of_getLsbD_eq fun j hj => ?_
  rw [BitVec.getLsbD_and, BitVec.getLsbD_ushiftRight, getLsbD_lowOnes len hj, BitVec.getLsbD_ofNat, Nat.testBit_mod_two_pow,
    Nat.testBit_div_two_pow, Nat.add_comm k, decide_eq_true hj, Bool.true_and, Bool.and_comm, BitVec.getLsbD]

/-- A field written into a word: the mask is the complement of the field's ones, which stay within 64 bits. -/
theorem insert_field (x d : DWord) (k len : Nat) :
    (d &&& ~~~(lowOnes len <<< k)) ||| ((x &&& lowOnes len) <<< k) =
      BitVec.ofNat 64 ((d.toNat &&& ((2 ^ 64 - 1) ^^^ ((2 ^ len - 1) * 2 ^ k % 2 ^ 64))) ||| x.toNat % 2 ^ len * 2 ^ k) := by
  refine BitVec.eq_of_getLsbD_eq fun j hj => ?_
  have h64 : (2 ^ 64 - 1 : Nat).testBit j = true := by rw [Nat.testBit_two_pow_sub_one]; simpa using hj
  simp only [BitVec.getLsbD_or, BitVec.getLsbD_and, BitVec.getLsbD_not, BitVec.getLsbD_shiftLeft, BitVec.getLsbD_ofNat,
    Nat.testBit_or, Nat.testBit_and, Nat.testBit_xor, h64, Nat.testBit_mod_two_pow, Nat.testBit_mul_two_pow,
    Nat.testBit_two_pow_sub_one, hj]
  by_cases hk : k ≤ j
  · rw [getLsbD_lowOnes len (show j - k < 64 by omega)]
    simp [hk, not_lt.mpr hk, Bool.and_comm, BitVec.getLsbD]
  · simp [hk, not_le.mp hk, BitVec.getLsbD]

/-! ### Counts (R59) -/

theorem clzNat_le (x : DWord) : clzNat x.toNat ≤ 64 := by
  unfold clzNat; split <;> omega

/-- The zeros above the highest set bit. -/
theorem getLsbD_of_clzNat_le {x : DWord} {j : Nat} (h : 64 - clzNat x.toNat ≤ j) : x.getLsbD j = false := by
  unfold clzNat at h
  split at h
  next h0 => rw [BitVec.eq_of_toNat_eq (y := 0#64) h0, BitVec.getLsbD_zero]
  next h0 =>
    refine Nat.testBit_lt_two_pow (lt_of_lt_of_le (Nat.lt_log2_self) (Nat.pow_le_pow_right (by omega) ?_))
    have := (Nat.log2_lt h0).2 x.isLt
    omega

/-- The bit below the counted zeros is set. -/
theorem getLsbD_clzNat {x : DWord} (h : clzNat x.toNat < 64) : x.getLsbD (63 - clzNat x.toNat) = true := by
  unfold clzNat at h ⊢
  split at h
  next => omega
  next h0 =>
    have := (Nat.log2_lt h0).2 x.isLt
    rw [if_neg h0, show 63 - (63 - Nat.log2 x.toNat) = Nat.log2 x.toNat by omega]
    exact Nat.testBit_log2 h0

/-- The search for the lowest set bit among the n bits from bit i. -/
theorem ctzFrom_spec (x : DWord) (n i : Nat) : i ≤ ctzFrom n i x ∧ ctzFrom n i x ≤ i + n ∧
    (∀ j, i ≤ j → j < ctzFrom n i x → x.getLsbD j = false) ∧ (ctzFrom n i x < i + n → x.getLsbD (ctzFrom n i x) = true) := by
  induction n generalizing i with
  | zero => exact ⟨le_refl _, le_refl _, fun j _ _ => by simp only [ctzFrom] at *; omega, fun h => by simp only [ctzFrom] at h; omega⟩
  | succ n ih =>
    unfold ctzFrom
    split
    next h => exact ⟨le_refl _, by omega, fun j _ _ => by omega, fun _ => h⟩
    next h =>
      obtain ⟨h1, h2, h3, h4⟩ := ih (i + 1)
      refine ⟨by omega, by omega, fun j hj hlt => ?_, fun hlt => h4 (by omega)⟩
      by_cases hji : j = i
      · exact hji ▸ Bool.eq_false_of_not_eq_true h
      · exact h3 j (by omega) hlt

theorem popNat_eq_countP (n x : Nat) : popNat n x = (List.range n).countP (fun j => x.testBit j) := by
  induction n generalizing x with
  | zero => rfl
  | succ n ih =>
    rw [popNat, ih, List.range_succ_eq_map, List.countP_cons, List.countP_map, Nat.testBit_zero, add_comm]
    congr 1
    · exact congrArg (fun p => List.countP p (List.range n)) (funext fun j => by simp [Nat.testBit_succ])
    · rcases Nat.mod_two_eq_zero_or_one x with h | h <;> simp [h]

/-! ### The function of one word that each instruction computes -/

section Equations

variable (d a : Reg) (imm : BitVec 12) (s : State)

theorem exec_addi : exec (.addi d a imm) s = alu1 s d a (· + sx64 imm) := rfl
theorem exec_andi : exec (.andi d a imm) s = alu1 s d a (· &&& sx64 imm) := rfl
theorem exec_ori : exec (.ori d a imm) s = alu1 s d a (· ||| sx64 imm) := rfl
theorem exec_xori : exec (.xori d a imm) s = alu1 s d a (· ^^^ sx64 imm) := rfl
theorem exec_shli : exec (.shli d a imm) s = alu1 s d a (· <<< (immLo imm).toNat) := rfl
theorem exec_shri : exec (.shri d a imm) s = alu1 s d a (· >>> (immLo imm).toNat) := rfl
theorem exec_sari : exec (.sari d a imm) s = alu1 s d a (·.sshiftRight (immLo imm).toNat) := rfl
theorem exec_bset : exec (.bset d a imm) s = alu1 s d a fun x => setBitK x (immLo imm).toNat true := rfl
theorem exec_bclr : exec (.bclr d a imm) s = alu1 s d a fun x => setBitK x (immLo imm).toNat false := rfl
theorem exec_bext : exec (.bext d a imm) s = alu1 s d a
    fun x => (x >>> (immLo imm).toNat) &&& lowOnes ((immHi imm).toNat + 1) := rfl
theorem exec_bins : exec (.bins d a imm) s = execBins d a imm s := rfl
theorem exec_mov : exec (.mov d a) s = alu1 s d a id := rfl
theorem exec_clz : exec (.clz d a) s = alu1 s d a fun x => BitVec.ofNat 64 (clzNat x.toNat) := rfl
theorem exec_ctz : exec (.ctz d a) s = alu1 s d a fun x => BitVec.ofNat 64 (ctzFrom 64 0 x) := rfl
theorem exec_popc : exec (.popc d a) s = alu1 s d a fun x => BitVec.ofNat 64 (popNat 64 x.toNat) := rfl

end Equations

/-! ### The obligation -/

/-- `BINS` writes the field into the word that d held. -/
theorem writesS_bins {s : State} {d a : Reg} (imm : BitVec 12) (hs : Stands s 1 .any) (hr : RegsReady s [srcS a, srcS d]) :
    WritesS (.bins d a imm) s 1 d ((s.getS s.cur d &&& ~~~(lowOnes ((immHi imm).toNat + 1) <<< (immLo imm).toNat)) |||
      ((s.getS s.cur a &&& lowOnes ((immHi imm).toNat + 1)) <<< (immLo imm).toNat)) := by
  refine writesS_of_issue _ (exec_bins ..) hs ?_
  rw [fresh_ready (srcs := [srcS a, srcS d]) (dests := []) hr]
  simp only [fresh_getS]

/-- Settles O2: each instruction is `alu1` at a function of one word, or `BINS`, whose value is the rule's. -/
theorem oneSourceForms : Obligations.OneSourceForms := by
  unfold Obligations.OneSourceForms
  refine ⟨?forms, ?counts⟩
  case forms =>
    intro s d a imm hs hr x k len
    have hk : (immLo imm).toNat = k := toNat_immLo imm
    have hl : (immHi imm).toNat + 1 = len := by rw [toNat_immHi]
    refine ⟨?addi, ?andi, ?ori, ?xori, ?shli, ?shri, ?sari, ?bset, ?bclr, ?bext, ?bins, ?mov⟩
    case addi => exact writesS_of_alu1 (exec_addi ..) hs hr (add_sx64 x imm)
    case andi => exact writesS_of_alu1 (exec_andi ..) hs hr rfl
    case ori => exact writesS_of_alu1 (exec_ori ..) hs hr rfl
    case xori => exact writesS_of_alu1 (exec_xori ..) hs hr rfl
    case shli => exact writesS_of_alu1 (exec_shli ..) hs hr (hk ▸ shiftLeft_eq_ofNat x _)
    case shri => exact writesS_of_alu1 (exec_shri ..) hs hr (hk ▸ ushiftRight_eq_ofNat x _)
    case sari => exact writesS_of_alu1 (exec_sari ..) hs hr (hk ▸ sshiftRight_eq_ofInt x _)
    case bset => exact writesS_of_alu1 (exec_bset ..) hs hr (hk ▸ setBitK_true x _)
    case bclr => exact writesS_of_alu1 (exec_bclr ..) hs hr (hk ▸ setBitK_false x _)
    case bext => exact writesS_of_alu1 (exec_bext ..) hs hr (hk ▸ hl ▸ ushiftRight_and_lowOnes x _ _)
    case bins => exact insert_field x (s.getS s.cur d) k len ▸ hk ▸ hl ▸ writesS_bins imm hs hr
    case mov => exact writesS_of_alu1 (exec_mov ..) hs hr rfl
  case counts =>
    intro s d a hs hr x
    refine ⟨⟨clzNat x.toNat, clzNat_le x, fun j hj _ => getLsbD_of_clzNat_le hj, getLsbD_clzNat, ?clz⟩,
      ⟨ctzFrom 64 0 x, ?_, ?_, ?_, ?ctz⟩, ?popc⟩
    case clz => exact writesS_of_alu1 (exec_clz ..) hs hr rfl
    case ctz => exact writesS_of_alu1 (exec_ctz ..) hs hr rfl
    case popc => exact writesS_of_alu1 (exec_popc ..) hs hr (congrArg _ (popNat_eq_countP 64 x.toNat))
    all_goals obtain ⟨_, hle, hzero, hone⟩ := ctzFrom_spec x 64 0
    · omega
    · exact fun j hj => hzero j (Nat.zero_le j) hj
    · exact fun h => hone (by omega)

end Sys2Proof.Proofs.BitForms
end

section
/-! PROOFS. The shared control subset (R57, R58, R62 to R64): the compares, whose bit is a condition's, and the instructions that load and
compute addresses and select. -/

namespace Sys2Proof.Proofs.Compares

open Sys2Proof.Machine
open Sys2Proof.Safety
open Sys2Proof.Proofs.ControlSubset
open Sys2Proof.Proofs.BitForms

/-! ### Registers that are not ready -/

/-- An empty source without a T bit makes its instruction wait (R12, R52). -/
theorem need_of_empty {s : State} {srcs dests : List Src} (ht : ∀ x ∈ srcs, x.t = false)
    (he : ∃ x ∈ srcs, s.regEmpty s.cur x = true) : (fresh s).need s.cur srcs dests = some .stall := by
  obtain ⟨x, hx, hxe⟩ := he
  have hnone : srcs.find? (fun x => x.t && (fresh s).regEmpty s.cur x) = none :=
    List.find?_eq_none.mpr fun y hy => by simp [ht y hy]
  have hany : ((srcs ++ dests).any fun x => (fresh s).regEmpty s.cur x || (fresh s).regBusy s.cur x) = true :=
    List.any_eq_true.mpr ⟨x, List.mem_append_left _ hx, by simp [fresh, hxe]⟩
  unfold State.need
  rw [hnone]
  exact if_pos hany

theorem ready_of_empty {s : State} {srcs dests : List Src} (ht : ∀ x ∈ srcs, x.t = false)
    (he : ∃ x ∈ srcs, s.regEmpty s.cur x = true) (r : Res) : (fresh s).ready s.cur srcs dests r = .stall := by
  unfold State.ready
  rw [need_of_empty ht he]
  rfl

/-- Whether registers are ready does not depend on their T bits. -/
theorem regsReady_of_same {s : State} {xs ys : List Src} (hr : RegsReady s xs)
    (h : xs.map (fun x : Src => (x.cls, x.reg)) = ys.map fun x : Src => (x.cls, x.reg)) : RegsReady s ys := by
  intro y hy
  obtain ⟨x, hx, hxy⟩ := List.mem_map.mp (h ▸ List.mem_map_of_mem (f := fun x : Src => (x.cls, x.reg)) hy)
  obtain ⟨hc, hn⟩ := Prod.mk.inj hxy
  have hxr := hr x hx
  simp only [State.regEmpty, State.regBusy] at hxr ⊢
  rwa [← hc, ← hn]

/-! ### Conditions (R57) -/

/-- What a condition code says of two words. -/
def CondHolds (cc : Nat) (x y : DWord) : Prop :=
  (cc = 0 → x = y) ∧ (cc = 1 → x ≠ y) ∧ (cc = 2 → x.toInt < y.toInt) ∧ (cc = 3 → x.toNat < y.toNat) ∧
    (cc = 4 → y.toInt ≤ x.toInt) ∧ (cc = 5 → y.toNat ≤ x.toNat)

theorem condCode_iff {cc : Nat} (h : cc ≤ 5) (x y : DWord) : condCode cc x y = true ↔ CondHolds cc x y := by
  unfold CondHolds
  interval_cases cc <;>
    simp [condCode, BitVec.slt_iff_toInt_lt, BitVec.ult_iff_toNat_lt, BitVec.sle_iff_toInt_le, BitVec.ule_iff_toNat_le]

/-- An instruction replaces bit k of d by a condition, and keeps every other bit. -/
def SetsBit (s : State) (d : Reg) (i : Instr) (len k cc : Nat) (x y : DWord) : Prop :=
  ∃ v : DWord, (∀ j, j < 64 → j ≠ k → v.getLsbD j = (s.getS s.cur d).getLsbD j) ∧
    (v.getLsbD k = true ↔ CondHolds cc x y) ∧ WritesS i s len d v

theorem setsBit_of_writesS {s : State} {d : Reg} {i : Instr} {len k cc : Nat} {x y : DWord} (hk : k < 64) (hc : cc ≤ 5)
    (h : WritesS i s len d (setBitK (s.getS s.cur d) k (condCode cc x y))) : SetsBit s d i len k cc x y := by
  refine ⟨_, fun j hj hne => ?_, ?_, h⟩
  · rw [getLsbD_setBitK _ _ _ _ hj, if_neg hne]
  · rw [getLsbD_setBitK _ _ _ _ hk, if_pos rfl, condCode_iff hc]

section Equations

variable (d a b k : Reg) (s : State)

theorem exec_cmpEq : exec (.cmpEq d a b k) s = cmp2 s d a b k (condCode 0) := rfl
theorem exec_cmpNe : exec (.cmpNe d a b k) s = cmp2 s d a b k (condCode 1) := rfl
theorem exec_cmpLt : exec (.cmpLt d a b k) s = cmp2 s d a b k (condCode 2) := rfl
theorem exec_cmpLtn : exec (.cmpLtn d a b k) s = cmp2 s d a b k (condCode 3) := rfl
theorem exec_cmpGe : exec (.cmpGe d a b k) s = cmp2 s d a b k (condCode 4) := rfl
theorem exec_cmpGen : exec (.cmpGen d a b k) s = cmp2 s d a b k (condCode 5) := rfl
theorem exec_cmpi (imm : BitVec 12) (lw : LW) : exec (.cmpi d a imm lw) s = execCmpi d a imm lw s := rfl
theorem exec_li (imm : Word) : exec (.li d imm) s = execLi d imm s := rfl
theorem exec_lui (imm : Word) : exec (.lui d imm) s = execLui d imm s := rfl
theorem exec_lea (lw : LW) : exec (.lea d a b k lw) s = execLea d a b k lw s := rfl
theorem exec_sel (lw : LW) : exec (.sel d a b lw) s = execSel d a b lw s := rfl

end Equations

/-- A compare of two registers. -/
theorem setsBit_of_cmp2 {i : Instr} {s : State} {d a b k : Reg} {cc : Nat} (hi : exec i s = cmp2 s d a b k (condCode cc)) (hc : cc ≤ 5)
    (hs : Stands s 1 .any) (hr : RegsReady s [srcS a, srcS b, srcS d]) :
    SetsBit s d i 1 k.toNat cc (s.getS s.cur a) (s.getS s.cur b) := by
  refine setsBit_of_writesS k.isLt hc (writesS_of_issue _ hi hs ?_)
  rw [fresh_ready (srcs := [srcS a, srcS b, srcS d]) (dests := []) hr]
  simp only [fresh_getS]

/-- A compare with an immediate. -/
theorem setsBit_cmpi {s : State} {d a : Reg} {imm : BitVec 12} {lw : LW} (hs : Stands s 2 .any) (hg : GuardOn s lw)
    (hr : RegsReady s [srcS a, srcS d]) (hc : lw.y.toNat / 8 ≤ 5) :
    SetsBit s d (.cmpi d a imm lw) 2 lw.x.toNat (lw.y.toNat / 8) (s.getS s.cur a) (BitVec.ofInt 64 imm.toInt) := by
  refine setsBit_of_writesS lw.x.isLt hc (writesS_of_issue _ (exec_cmpi ..) hs ?_)
  rw [fresh_guarded hg, fresh_ready (srcs := [srcS a lw.ta, srcS d]) (dests := []) (regsReady_of_same hr rfl)]
  simp only [fresh_getS]
  rfl

/-! ### `LI`, `LUI`, `LEA` and `SEL` (R62–R64) -/

/-- Two halves of a doubleword, put together. -/
theorem zx64_shiftLeft_or (imm : Word) (x : DWord) :
    (zx64 imm <<< 32) ||| (x &&& 0xFFFFFFFF) = BitVec.ofNat 64 (imm.toNat * 2 ^ 32 + x.toNat % 2 ^ 32) := by
  have hi := imm.isLt
  have hlo : x.toNat % 2 ^ 32 < 2 ^ 32 := Nat.mod_lt _ (by norm_num)
  have hhi : (zx64 imm <<< 32).toNat = 2 ^ 32 * imm.toNat := by
    simp only [zx64, BitVec.toNat_shiftLeft, BitVec.toNat_setWidth, Nat.shiftLeft_eq]
    omega
  have hmask : (x &&& 0xFFFFFFFF).toNat = x.toNat % 2 ^ 32 := Nat.and_two_pow_sub_one_eq_mod x.toNat 32
  apply BitVec.eq_of_toNat_eq
  rw [BitVec.toNat_or, hhi, hmask, ← Nat.two_pow_add_eq_or_of_lt hlo, BitVec.toNat_ofNat]
  omega

theorem lea_eq_ofInt (x y : DWord) (n : Nat) (imm : BitVec 12) :
    x + (y <<< n) + sx64 imm = BitVec.ofInt 64 (x.toInt + y.toInt * 2 ^ n + imm.toInt) := by
  have hy : y <<< n = BitVec.ofInt 64 (y.toInt * 2 ^ n) := by
    rw [BitVec.ofInt_mul, BitVec.ofInt_toInt, BitVec.shiftLeft_eq_mul_twoPow]
    congr 1
    apply BitVec.eq_of_toNat_eq
    rw [BitVec.toNat_twoPow, BitVec.toNat_ofInt]
    norm_cast
  rw [hy, BitVec.ofInt_add, BitVec.ofInt_add, BitVec.ofInt_toInt]
  rfl

theorem writesS_li {s : State} {d : Reg} {imm : Word} (hs : Stands s 2 .any) (hr : RegsReady s [srcS d]) :
    WritesS (.li d imm) s 2 d (sx64 imm) := by
  refine writesS_of_issue _ (exec_li ..) hs ?_
  rw [fresh_ready (srcs := []) (dests := [srcS d]) hr]

theorem writesS_lui {s : State} {d : Reg} {imm : Word} (hs : Stands s 2 .any) (hr : RegsReady s [srcS d]) :
    WritesS (.lui d imm) s 2 d ((zx64 imm <<< 32) ||| (s.getS s.cur d &&& 0xFFFFFFFF)) := by
  refine writesS_of_issue _ (exec_lui ..) hs ?_
  rw [fresh_ready (srcs := [srcS d]) (dests := []) hr]
  simp only [fresh_getS]

section Guarded

variable {s : State} {d a b fn : Reg} {lw : LW} (hs : Stands s 2 .any) (hg : GuardOn s lw)

include hs hg

theorem writesS_lea (hr : RegsReady s [srcS a, srcS b, srcS d]) : WritesS (.lea d a b fn lw) s 2 d
    (s.getS s.cur a + (s.getS s.cur b <<< fn.toNat) + sx64 lw.ext) := by
  refine writesS_of_issue _ (exec_lea ..) hs ?_
  rw [fresh_guarded hg, fresh_ready (srcs := [srcS a lw.ta, srcS b lw.tb]) (dests := [srcS d]) (regsReady_of_same hr rfl)]
  simp only [fresh_getS]

theorem writesS_sel (hr : RegsReady s [srcS a, srcS b, srcS lw.x, srcS d]) : WritesS (.sel d a b lw) s 2 d
    (if (s.getS s.cur lw.x).getLsbD lw.y.toNat then s.getS s.cur a else s.getS s.cur b) := by
  refine writesS_of_issue _ (exec_sel ..) hs ?_
  rw [fresh_guarded hg, fresh_ready (srcs := [srcS a lw.ta, srcS b lw.tb, srcS lw.x lw.tc]) (dests := [srcS d]) (regsReady_of_same hr rfl)]
  simp only [fresh_getS]

theorem stalls_lea (ha : lw.ta = false) (hb : lw.tb = false) (he : ∃ r ∈ [srcS a, srcS b], s.regEmpty s.cur r = true) :
    Stalls (.lea d a b fn lw) s := by
  refine stalls_of_issue _ (exec_lea ..) hs ?_
  rw [fresh_guarded hg, ha, hb, ready_of_empty (by simp [srcS]) he]

theorem stalls_sel (ha : lw.ta = false) (hb : lw.tb = false) (hc : lw.tc = false)
    (he : ∃ r ∈ [srcS a, srcS b, srcS lw.x], s.regEmpty s.cur r = true) : Stalls (.sel d a b lw) s := by
  refine stalls_of_issue _ (exec_sel ..) hs ?_
  rw [fresh_guarded hg, ha, hb, hc, ready_of_empty (by simp [srcS]) he]

end Guarded

/-! ### The obligation -/

/-- Settles O3: a compare sets its bit to `condCode`, which is the rule's condition; the others write the rule's number. -/
theorem comparesAndAddresses : Obligations.ComparesAndAddresses := by
  unfold Obligations.ComparesAndAddresses
  refine ⟨?compares, ?loads, ?addresses⟩
  case compares =>
    intro s d a b k imm lw x y z cond sets
    refine ⟨fun hs hr => ⟨?eq, ?ne, ?lt, ?ltn, ?ge, ?gen⟩, fun hs hg hr hc => setsBit_cmpi hs hg hr hc⟩
    case eq => exact setsBit_of_cmp2 (exec_cmpEq ..) (by decide) hs hr
    case ne => exact setsBit_of_cmp2 (exec_cmpNe ..) (by decide) hs hr
    case lt => exact setsBit_of_cmp2 (exec_cmpLt ..) (by decide) hs hr
    case ltn => exact setsBit_of_cmp2 (exec_cmpLtn ..) (by decide) hs hr
    case ge => exact setsBit_of_cmp2 (exec_cmpGe ..) (by decide) hs hr
    case gen => exact setsBit_of_cmp2 (exec_cmpGen ..) (by decide) hs hr
  case loads =>
    intro s d imm hs hr
    exact ⟨writesS_li hs hr, zx64_shiftLeft_or imm _ ▸ writesS_lui hs hr⟩
  case addresses =>
    intro s d a b fn lw hs hg x y
    exact ⟨fun hr => lea_eq_ofInt x y fn.toNat lw.ext ▸ writesS_lea hs hg hr, fun hr => writesS_sel hs hg hr,
      fun ha hb hc => ⟨fun he => stalls_lea hs hg ha hb he, fun he => stalls_sel hs hg ha hb hc he⟩⟩

end Sys2Proof.Proofs.Compares
end

section
/-! PROOFS. Transfers (R65 to R69): branch-target registers, the lengths of the delay slots that fix the link, and the state in which a
transfer stands once it has executed. -/

namespace Sys2Proof.Proofs.Transfers

open Sys2Proof.Machine
open Sys2Proof.Safety
open Sys2Proof.Proofs.BitForms

/-! ### What a retired instruction that writes its program alone leaves -/

theorem setProg_setProg (s : State) (q : Seqr) (p p' : Prog) : (s.setProg q p).setProg q p' = s.setProg q p' := by
  cases q <;> simp [State.setProg, State.setCtx, State.setSlot, State.setArc, State.setCore, State.core, State.ctx, State.slot,
    State.arc]

theorem countRetired_setProg (s : State) (q : Seqr) (p : Prog) :
    (s.setProg q p).countRetired q = (s.countRetired q).setProg q p := by
  cases q <;> simp [State.countRetired, State.setProg, State.setCtx, State.setSlot, State.setArc, State.setCore, State.core,
    State.ctx, State.slot, State.arc]

theorem onlyProg_setProg {s u : State} (h : OnlyProg s u) (p : Prog) : OnlyProg s (u.setProg s.cur p) := by
  have hd := deviceSame_trans h.device (deviceSame_setProg u s.cur p)
  have hc := coresSame_trans h.cores (coresSame_setProg u s.cur p)
  refine ⟨hd, hc, fun c x => ?_, ⟨fun c k => ?_, fun c => ?_⟩, fun q hq => ?_, fun c x => ?_, bytesSame_of hd hc⟩
  · rw [← h.ctxs c x, State.ctx_setProg]
  · rw [← h.engines.1 c k, State.slot_setProg]
  · rw [← h.engines.2 c, State.arc_setProg]
  · rw [State.prog_setProg_of_ne _ hq, h.others q hq]
  · rw [State.ctx_setProg]; exact h.count c x

theorem onlyProg_countRetired (s : State) (p : Prog) : OnlyProg s (((fresh s).countRetired s.cur).setProg s.cur p) := by
  have h := onlyProg_setProg (onlyProg_finish s p 1).1 p
  simpa only [finish, countRetired_setProg, setProg_setProg] using h

/-- A meaning that changes only its program retires so. -/
theorem onlyProg_of_issue {i : Instr} {s : State} {len : Nat} {pl : Place} {p : Prog} (body : Seqr → State → Res)
    (hi : exec i s = issue s len pl body) (hs : Stands s len pl) (hb : body s.cur (fresh s) = .retire ((fresh s).setProg s.cur p)) :
    ∃ t, exec i s = .next t ∧ OnlyProg s t ∧ t.prog s.cur = p.advance s.cur.isFork (seqNext (s.prog s.cur).pc len) :=
  ⟨_, hi.trans (issue_eq hs hb (by intro f; simp)), onlyProg_finish s p len⟩

/-- A transfer that executes, with the program it leaves (R67): its body changes that program alone. -/
theorem onlyProg_of_xfer {i : Instr} {s u : State} {len : Nat} {pl : Place} {p : Prog} {x : Xfer} (body : Seqr → State → Res)
    (hi : exec i s = issue s len pl body) (hs : Stands s len pl) (hb : body s.cur (fresh s) = .xfer u x)
    (hp : u.prog s.cur = p) (hu : ∀ p', (u.countRetired s.cur).setProg s.cur p' = ((fresh s).countRetired s.cur).setProg s.cur p') :
    ∃ t, exec i s = .next t ∧ OnlyProg s t ∧
      t.prog s.cur = ({ p with pend := some x } : Prog).loopCheck (seqNext (s.prog s.cur).pc len) := by
  refine ⟨_, hi.trans (issue_eq hs hb (by intro f; simp)), ?_⟩
  simp only [finish, hu, State.prog_setProg_self, State.prog_countRetired, State.prog_stalled, hp]
  exact ⟨onlyProg_countRetired s _, trivial⟩

/-! ### Branch-target registers (R65, R66) -/

section Links

theorem toNat_and_linkMask (v : DWord) : ((v &&& 0x1FFFC).setWidth 32).toNat = v.toNat % 2 ^ 17 / 4 * 4 := by
  have h : v &&& 0x1FFFC = BitVec.ofNat 64 (v.toNat / 4 % 2 ^ 15 * 4) := by
    refine BitVec.eq_of_getLsbD_eq fun i hi => ?_
    have h4 : (4 : Nat) = 2 ^ 2 := rfl
    rw [BitVec.getLsbD_and, BitVec.getLsbD_ofNat, h4, Nat.testBit_mul_two_pow, Nat.testBit_mod_two_pow, Nat.testBit_div_two_pow,
      decide_eq_true hi, Bool.true_and, show (0x1FFFC : DWord) = BitVec.ofNat 64 ((2 ^ 15 - 1) * 2 ^ 2) from rfl, BitVec.getLsbD_ofNat,
      Nat.testBit_mul_two_pow, Nat.testBit_two_pow_sub_one, decide_eq_true hi, Bool.true_and, Bool.and_comm (BitVec.getLsbD v i)]
    by_cases h2 : 2 ≤ i
    · simp [h2, BitVec.getLsbD]
    · simp [h2]
  rw [h, BitVec.toNat_setWidth, BitVec.toNat_ofNat]
  omega

/-- Of the number of an address, of either sign, a link register keeps bits 16:2. -/
theorem toNat_link_add (pc : DWord) (imm : BitVec 18) :
    ((((pc + (sx64 imm <<< 2)) &&& 0x1FFFC).setWidth 32).toNat : Int) = ((pc.toNat : Int) + 4 * imm.toInt) % 2 ^ 17 / 4 * 4 := by
  have h : pc + (sx64 imm <<< 2) = BitVec.ofInt 64 ((pc.toNat : Int) + 4 * imm.toInt) := by
    rw [BitVec.ofInt_add, BitVec.ofInt_mul, BitVec.ofInt_natCast, BitVec.ofNat_toNat, BitVec.setWidth_eq,
      BitVec.shiftLeft_eq_mul_twoPow, BitVec.mul_comm]
    rfl
  rw [toNat_and_linkMask, h, BitVec.toNat_ofInt]
  omega

theorem getB_setB (p : Prog) (d n : Nat) (v : DWord) :
    (p.setB d v).getB n = if n = d then (v &&& 0x1FFFC).setWidth 32 else p.getB n := by
  simp only [Prog.getB, Prog.setB, SMap.get_set]

/-- An address that `PBRR` refuses (R66). -/
theorem badLink_iff (v : DWord) : (v >>> 17 ≠ 0 ∨ v &&& 3 ≠ 0) ↔ ¬ (v.toNat < 2 ^ 17 ∧ v.toNat % 4 = 0) := by
  have h3 : (v &&& 3).toNat = v.toNat % 4 := Nat.and_two_pow_sub_one_eq_mod v.toNat 2
  have h17 : (v >>> 17).toNat = v.toNat / 2 ^ 17 := by rw [BitVec.toNat_ushiftRight, Nat.shiftRight_eq_div_pow]
  have e1 : v >>> 17 = 0 ↔ v.toNat < 2 ^ 17 := by
    rw [← BitVec.toNat_inj, h17, show (0 : DWord).toNat = 0 from rfl]; omega
  have e2 : v &&& 3 = 0 ↔ v.toNat % 4 = 0 := by
    rw [← BitVec.toNat_inj, h3]; rfl
  rw [ne_eq, ne_eq, e1, e2, ← not_and_or]

end Links

theorem exec_pbr {d : Reg} {imm : BitVec 18} {s : State} : exec (.pbr d imm) s = execPbr d imm s := rfl
theorem exec_pbrr {d a : Reg} {s : State} : exec (.pbrr d a) s = execPbrr d a s := rfl

/-- An instruction whose effect is to write a branch-target register. -/
theorem sets_of_issue {i : Instr} {s : State} {d : Reg} {v : DWord} (body : Seqr → State → Res)
    (hi : exec i s = issue s 1 .any body) (hs : Stands s 1 .any)
    (hb : body s.cur (fresh s) = .retire ((fresh s).setProg s.cur ((s.prog s.cur).setB d.toNat v))) :
    ∃ t, exec i s = .next t ∧ OnlyProg s t ∧ FlowsOn s t 1 ∧ (∀ r, t.getS s.cur r = s.getS s.cur r) ∧
      ∀ n, (((t.prog s.cur).getB n).toNat : Int) =
        if n = d.toNat then (((v &&& 0x1FFFC).setWidth 32).toNat : Int) else ((s.prog s.cur).getB n).toNat := by
  obtain ⟨t, he, ho, hp⟩ := onlyProg_of_issue body hi hs hb
  obtain ⟨hS, hB, -⟩ := advance_rest ((s.prog s.cur).setB d.toNat v) s.cur.isFork (seqNext (s.prog s.cur).pc 1)
  refine ⟨t, he, ho, ?_, fun r => ?_, fun n => ?_⟩
  · unfold FlowsOn
    rw [hp]
    exact advance_pc_congr (p := s.prog s.cur) (p' := (s.prog s.cur).setB d.toNat v) rfl rfl _ _
  · rw [State.getS, Prog.getS, hp, hS]; rfl
  · rw [Prog.getB, hp, hB, ← Prog.getB, getB_setB]
    split <;> rfl

/-! ### The lengths of the slots (R22, R69, R294) -/

/-- The MOP of a word. -/
def mopOf (w : Word) : Nat := w.toNat / 2 ^ 24

theorem toNat_fMop (w : Word) : w.fMop.toNat = mopOf w := by
  rw [Word.fMop, BitVec.extractLsb'_toNat, Nat.shiftRight_eq_div_pow, mopOf]
  have := w.isLt
  omega

theorem mopOf_lt (w : Word) : mopOf w < 256 := by
  have := w.isLt
  unfold mopOf
  omega

def longShared : List Nat := [0x36, 0x40, 0x41, 0x42, 0x44, 0x50]
def longControl : List Nat := [0x8D, 0x94, 0x9E, 0xC0, 0xC1, 0xC2, 0xC3, 0xC4, 0xC5, 0xC6, 0xC7, 0xC8, 0xC9, 0xD6]
abbrev longVector (m : Nat) : Prop :=
  (0x80 ≤ m ∧ m ≤ 0x90) ∨ (0xA0 ≤ m ∧ m ≤ 0xAE) ∨ (0xB0 ≤ m ∧ m ≤ 0xB2) ∨ (0xC0 ≤ m ∧ m ≤ 0xC2) ∨
    (0xD0 ≤ m ∧ m ≤ 0xDB) ∨ (0xE0 ≤ m ∧ m ≤ 0xE6) ∨ (0xE8 ≤ m ∧ m ≤ 0xEB) ∨ (0xF0 ≤ m ∧ m ≤ 0xF2)

/-- The MOPs of two words, by memory. -/
abbrev isLong (m : IMem) (mop : Nat) : Prop :=
  mop ∈ longShared ∨ (m = .control ∧ mop ∈ longControl) ∨ (m = .vector ∧ longVector mop) ∨ (m = .arcade ∧ mop = 0x8A)

/-- The MOPs of four words. -/
abbrev isQuad (m : IMem) (mop : Nat) : Prop := (m = .control ∧ mop = 0xD0) ∨ (m = .arcade ∧ mop ∈ [0x80, 0x81])

/-- The opcode tables fix two words, four or one (R36–R39). -/
theorem mopLength_getD (m : IMem) {mop : Nat} (h : mop < 256) :
    (mopLength m mop).getD 1 = if isLong m mop then 2 else if isQuad m mop then 4 else 1 := by
  have hd : mop = 16 * (mop / 16) + mop % 16 := by omega
  have ha : mop / 16 < 16 := by omega
  have hb : mop % 16 < 16 := by omega
  generalize mop / 16 = a at *
  generalize mop % 16 = b at *
  subst hd
  clear h
  cases m with
  | control => decide +revert
  | vector => decide +revert
  | arcade => decide +revert

section Slots

variable (s : State)

/-- The MOP of the word at an address of the running program's memory. -/
def mopAt (a : Nat) : Nat := mopOf (s.iword s.cur a)

/-- A subtree is the last of its bundle: its E bit, the end of its line, or a word behind it that begins no subtree (R293, R294). -/
def lastSubtree (a : Nat) : Prop :=
  (s.iword s.cur a).getLsbD 3 = true ∨ a / 4 % 32 = 28 ∨ mopAt s (a + 16) ∉ [0x80, 0x81]

/-- A bundle of n of at most k subtrees stands at an address. -/
def IsBundle (k a n : Nat) : Prop :=
  1 ≤ n ∧ n ≤ k ∧ (∀ j, j + 1 < n → ¬ lastSubtree s (a + 16 * j)) ∧ (n < k → lastSubtree s (a + 16 * (n - 1)))

variable {s}

theorem isSubtree_iff (a : Nat) : s.isSubtree s.cur a = true ↔ s.cur.imem = .arcade ∧ mopAt s a ∈ [0x80, 0x81] := by
  simp [State.isSubtree, toNat_fMop, mopAt]

theorem lastSubtree_iff (h : s.cur.imem = .arcade) (a : Nat) :
    ((s.iword s.cur a).getLsbD 3 || a / 4 % 32 + 4 = 32 || !s.isSubtree s.cur (a + 16)) = true ↔ lastSubtree s a := by
  have hs := isSubtree_iff (s := s) (a + 16)
  rw [lastSubtree, Bool.or_eq_true, Bool.or_eq_true, decide_eq_true_eq, Bool.not_eq_true', ← Bool.not_eq_true, hs, or_assoc]
  refine or_congr Iff.rfl (or_congr (by omega) ?_)
  simp [h]

/-- The size that the model counts is that of the bundle (R294). -/
theorem isBundle_iff (h : s.cur.imem = .arcade) (k a n : Nat) :
    IsBundle s (k + 1) a n ↔ n = s.bundleSize s.cur (k + 1) a := by
  induction k generalizing a n with
  | zero =>
    have h1 : s.bundleSize s.cur 1 a = 1 := by
      unfold State.bundleSize; split <;> rfl
    rw [h1]
    exact ⟨fun ⟨h1, h2, _⟩ => by omega, fun hn => hn ▸ ⟨by omega, by omega, fun j hj => by omega, fun hj => by omega⟩⟩
  | succ k ih =>
    rw [State.bundleSize]
    by_cases hl : lastSubtree s a
    · rw [if_pos ((lastSubtree_iff h a).mpr hl)]
      constructor
      · rintro ⟨h1, -, hj, -⟩
        by_contra hn
        exact hj 0 (by omega) hl
      · rintro rfl
        exact ⟨by omega, by omega, fun j hj => by omega, fun _ => hl⟩
    · rw [if_neg (fun hc => hl ((lastSubtree_iff h a).mp hc)), Nat.add_comm 1]
      have shift : ∀ j, a + 16 * (j + 1) = a + 16 + 16 * j := fun j => by omega
      constructor
      · rintro ⟨h1, h2, hj, hlast⟩
        have hn : n ≠ 1 := by
          rintro rfl
          exact hl (hlast (by omega))
        obtain ⟨m, rfl⟩ : ∃ m, n = m + 2 := ⟨n - 2, by omega⟩
        refine congrArg (· + 1) ((ih (a + 16) (m + 1)).mp ⟨by omega, by omega, fun j hlt => ?_, fun hlt => ?_⟩)
        · exact shift j ▸ hj (j + 1) (by omega)
        · exact shift m ▸ hlast (by omega)
      · rintro rfl
        obtain ⟨h1, h2, hj, hlast⟩ := (ih (a + 16) _).mpr rfl
        refine ⟨by omega, by omega, fun j hlt => ?_, fun hlt => ?_⟩
        · cases j with
          | zero => exact hl
          | succ j => exact shift j ▸ hj j (by omega)
        · have := hlast (by omega)
          rwa [← shift, show s.bundleSize s.cur (k + 1) (a + 16) - 1 + 1 = s.bundleSize s.cur (k + 1) (a + 16) by omega] at this

/-- The instruction at an address has n words: the words that the MOP of its first fixes, of a bundle those of its subtrees. -/
def HasWords (s : State) (a n : Nat) : Prop :=
  (isLong s.cur.imem (mopAt s a) ∧ n = 2) ∨
    (∃ m, ((s.cur.imem = .control ∧ mopAt s a = 0xD0 ∧ m = 1) ∨
      (s.cur.imem = .arcade ∧ mopAt s a ∈ [0x80, 0x81] ∧ IsBundle s 4 a m)) ∧ n = 4 * m) ∨
    (¬ isLong s.cur.imem (mopAt s a) ∧
      (∀ m, ¬ ((s.cur.imem = .control ∧ mopAt s a = 0xD0 ∧ m = 1) ∨
        (s.cur.imem = .arcade ∧ mopAt s a ∈ [0x80, 0x81] ∧ IsBundle s 4 a m))) ∧ n = 1)

/-- The model's length of a slot is the rule's (R69, R294). -/
theorem mopLen_of_hasWords {a : DWord} {n : Nat} (h : HasWords s a.toNat n) : s.mopLen s.cur a = n := by
  have htab := mopLength_getD s.cur.imem (mopOf_lt (s.iword s.cur a.toNat))
  have hsub := isSubtree_iff (s := s) a.toNat
  unfold State.mopLen
  rw [toNat_fMop]
  change isLong _ (mopAt s a.toNat) ∧ _ ∨ _ at h
  change _ = ite (isLong _ (mopAt s a.toNat)) _ (ite (isQuad _ (mopAt s a.toNat)) _ _) at htab
  have hexcl : s.cur.imem = .arcade → mopAt s a.toNat ∈ [0x80, 0x81] → ¬ isLong s.cur.imem (mopAt s a.toNat) := by
    intro ha hm
    rw [ha]
    rcases List.mem_pair.mp hm with h | h <;> rw [h] <;> decide
  rcases h with ⟨hl, rfl⟩ | ⟨m, ⟨hi, hm, rfl⟩ | ⟨hi, hm, hb⟩, rfl⟩ | ⟨hl, hno, rfl⟩
  · rw [if_neg (fun hc => hexcl (hsub.mp hc).1 (hsub.mp hc).2 hl), htab, if_pos hl]
  · rw [if_neg (fun hc => by rw [hi] at hsub; exact absurd (hsub.mp hc).1 (by decide)), htab, if_neg (by rw [hi, hm]; decide),
      if_pos (Or.inl ⟨hi, hm⟩)]
  · rw [if_pos (hsub.mpr ⟨hi, hm⟩), (isBundle_iff hi 3 a.toNat m).mp hb]
  · have hns : ¬ s.isSubtree s.cur a.toNat = true := fun hc =>
      hno _ (Or.inr ⟨(hsub.mp hc).1, (hsub.mp hc).2, (isBundle_iff (hsub.mp hc).1 3 a.toNat _).mpr rfl⟩)
    have hnq : ¬ isQuad s.cur.imem (mopAt s a.toNat) := by
      rintro (⟨hi, hm⟩ | ⟨hi, hm⟩)
      · exact hno 1 (Or.inl ⟨hi, hm, rfl⟩)
      · exact hns (hsub.mpr ⟨hi, hm⟩)
    rw [if_neg hns, htab, if_neg hl, if_neg hnq]

end Slots

/-! ### The transfers (R67, R69) -/

section Starts

variable {s : State} {d a k : Reg}

theorem exec_brx : exec (.brx d a k) s = branchOn d a k true s := rfl
theorem exec_brxn : exec (.brxn d a k) s = branchOn d a k false s := rfl
theorem exec_br : exec (.br d) s = execBr d s := rfl
theorem exec_call : exec (.call d) s = execCall d s := rfl
theorem exec_ret : exec .ret s = execRet s := rfl

/-- The address after the second delay slot of the instruction that runs. -/
def linkOf (s : State) : DWord :=
  let a1 := seqNext (s.prog s.cur).pc 1
  let a2 := seqNext a1 (s.mopLen s.cur a1)
  seqNext a2 (s.mopLen s.cur a2)

theorem afterSlots_fresh : (fresh s).afterSlots s.cur = linkOf s := by
  unfold State.afterSlots linkOf State.pcOf
  rw [fresh_prog]
  cases s.cur <;> rfl

/-- The program that a transfer leaves: pending, with two slots to come. -/
def Starts (s : State) (i : Instr) (p1 : Prog) (kind : XKind) (dest : DWord) (taken : Bool) : Prop :=
  ∃ t, exec i s = .next t ∧ OnlyProg s t ∧ t.prog s.cur =
    ({ p1 with pend := some ⟨kind, (s.prog s.cur).pc, if taken then dest else linkOf s, taken, 2⟩ } : Prog).loopCheck
      (seqNext (s.prog s.cur).pc 1)

theorem starts_branchOn {i : Instr} {want : Bool} (hi : exec i s = branchOn d a k want s) (hs : Stands s 1 .xfer)
    (hr : RegsReady s [srcS a]) : Starts s i (s.prog s.cur) .br (((s.prog s.cur).getB d.toNat).setWidth 64)
      ((s.getS s.cur a).getLsbD k.toNat == want) := by
  refine onlyProg_of_xfer _ hi hs (u := fresh s) ?_ rfl (fun _ => rfl)
  rw [fresh_ready (srcs := [srcS a]) (dests := []) hr]
  simp only [State.startXfer, afterSlots_fresh, fresh_prog, fresh_getS, State.pcOf, zx64]

theorem starts_br (hs : Stands s 1 .xfer) :
    Starts s (.br d) (s.prog s.cur) .br (((s.prog s.cur).getB d.toNat).setWidth 64) true := by
  refine onlyProg_of_xfer _ exec_br hs (u := fresh s) ?_ rfl (fun _ => rfl)
  simp only [State.startXfer, fresh_prog, State.pcOf, zx64, if_true]

theorem starts_ret (hs : Stands s 1 .xfer) (hr : RegsReady s [srcS 63]) :
    Starts s .ret (s.prog s.cur) .ret (s.getS s.cur 63) true := by
  refine onlyProg_of_xfer _ exec_ret hs (u := fresh s) ?_ rfl (fun _ => rfl)
  rw [fresh_ready (srcs := [srcS 63]) (dests := []) hr]
  simp only [State.startXfer, fresh_prog, fresh_getS, State.pcOf, if_true]

/-- `CALL` has written the link when its slots begin (R69). -/
theorem starts_call (hs : Stands s 1 .xfer) (hr : RegsReady s [srcS 63]) :
    Starts s (.call d) ((s.prog s.cur).setS 63 (linkOf s)) .call (((s.prog s.cur).getB d.toNat).setWidth 64) true := by
  refine onlyProg_of_xfer _ exec_call hs (u := (fresh s).setProg s.cur ((s.prog s.cur).setS 63 (linkOf s))) ?_
    (State.prog_setProg_self _ _ _) (fun p' => by rw [countRetired_setProg, setProg_setProg])
  rw [fresh_ready (srcs := []) (dests := [srcS 63]) hr]
  simp only [State.startXfer, afterSlots_fresh, State.setS, State.prog_setProg_self, fresh_prog, State.pcOf, zx64, if_true,
    show ((s.prog s.cur).setS 63 (linkOf s)).pc = (s.prog s.cur).pc from rfl, show BitVec.toNat (63 : Reg) = 63 from rfl]

end Starts

theorem link_eq {s : State} {n1 n2 : Nat} (h1 : HasWords s (seqNext (s.prog s.cur).pc 1).toNat n1)
    (h2 : HasWords s (seqNext (seqNext (s.prog s.cur).pc 1) n1).toNat n2) :
    linkOf s = seqNext (seqNext (seqNext (s.prog s.cur).pc 1) n1) n2 := by
  have e1 := mopLen_of_hasWords h1
  have e2 := mopLen_of_hasWords h2
  simp only [linkOf, e1, e2]

/-- Settles O4: a slot's length in the model is that of its words, and a transfer changes its program alone. -/
theorem transfersBegin : Obligations.TransfersBegin := by
  unfold Obligations.TransfersBegin
  refine ⟨fun s d a imm hs => ⟨?_, fun hr h17 h4 => ?_, fun hr hbad => ?_⟩, ?_⟩
  · rw [← toNat_link_add]
    exact sets_of_issue _ exec_pbr hs (by simp only [fresh_prog, State.pcOf])
  · have hv : (((s.getS s.cur a &&& 0x1FFFC).setWidth 32).toNat : Int) = (s.getS s.cur a).toNat := by
      rw [toNat_and_linkMask]; omega
    rw [← hv]
    refine sets_of_issue _ exec_pbrr hs ?_
    rw [fresh_ready (srcs := [srcS a]) (dests := []) hr]
    simp only [fresh_getS, fresh_prog]
    exact if_neg (fun hc => (badLink_iff _).mp hc ⟨h17, h4⟩)
  · refine traps_of_issue _ exec_pbrr hs ?_
    rw [fresh_ready (srcs := [srcS a]) (dests := []) hr]
    simp only [fresh_getS]
    exact if_pos ((badLink_iff _).mpr hbad)
  · intro s d a k hs p word mop last subtrees longShared longControl longVector two four words n1 n2 h1 h2 link
    rw [show link = linkOf s from (link_eq h1 h2).symm]
    refine ⟨fun hr => ?_, fun hr => ?_, starts_br hs, starts_call hs, starts_ret hs⟩
    · have h := starts_branchOn (d := d) (k := k) exec_brx hs hr
      rwa [beq_true] at h
    · have h := starts_branchOn (d := d) (k := k) exec_brxn hs hr
      rwa [beq_false] at h

end Sys2Proof.Proofs.Transfers
end

section
/-! PROOFS. The flow of control after an instruction (R67, R68, R72 to R74): the loop-end check over the active loops, the loops that a
taken branch leaves, delay slots, and the loop instructions themselves. -/

namespace Sys2Proof.Proofs.Flow

open Sys2Proof.Machine
open Sys2Proof.Safety
open Sys2Proof.Proofs.Transfers

/-! ### The loop-end check (R72) -/

section LoopEnd

/-- The loop of an active counter ends at the next address and has one round left. -/
def closesAt (l : Loops) (next : DWord) (k : Nat) : Bool :=
  (SMap.get {} l.lc k).stop == next && (SMap.get {} l.lc k).count == 1

variable {next : DWord}

/-- A loop counter that has become inactive, with a count of 0. -/
def closeLoop (l : Loops) (x : Nat) : Loops :=
  ⟨SMap.set l.lc x { SMap.get {} l.lc x with count := 0 }, l.order.filter (· != x)⟩

theorem get_closeLoop (l : Loops) (x k : Nat) :
    SMap.get {} (closeLoop l x).lc k = if k = x then { SMap.get {} l.lc x with count := 0 } else SMap.get {} l.lc k :=
  SMap.get_set ..

theorem closesAt_closeLoop (l : Loops) {x k : Nat} (h : k ≠ x) : closesAt (closeLoop l x) next k = closesAt l next k := by
  simp only [closesAt, get_closeLoop, if_neg h]

theorem loopEnd_closes {x : Nat} {r : List Nat} {l : Loops} (h : closesAt l next x = true) :
    loopEnd (x :: r) l next = loopEnd r (closeLoop l x) next := by
  obtain ⟨hstop, hcount⟩ : (SMap.get {} l.lc x).stop = next ∧ (SMap.get {} l.lc x).count = 1 := by simpa [closesAt] using h
  have h0 : ¬ (SMap.get {} l.lc x).count - 1 ≠ 0 := by rw [hcount]; decide
  rw [loopEnd]
  simp only [if_pos hstop, if_neg h0, closeLoop]
  rw [hcount]
  rfl

/-- The loops that end elsewhere are passed, and those whose last round it is become inactive with a count of 0. -/
theorem loopEnd_append (xs ys : List Nat) (l : Loops) (hnd : xs.Nodup)
    (hx : ∀ k ∈ xs, (SMap.get {} l.lc k).stop ≠ next ∨ closesAt l next k = true) :
    ∃ l', loopEnd (xs ++ ys) l next = loopEnd ys l' next ∧
      l'.order = l.order.filter (fun k => !(decide (k ∈ xs) && closesAt l next k)) ∧
      ∀ k, SMap.get {} l'.lc k =
        if k ∈ xs ∧ closesAt l next k = true then { SMap.get {} l.lc k with count := 0 } else SMap.get {} l.lc k := by
  induction xs generalizing l with
  | nil => exact ⟨l, rfl, by simp, by simp⟩
  | cons x xs ih =>
    obtain ⟨hxs, hnd⟩ := List.nodup_cons.mp hnd
    by_cases hc : closesAt l next x = true
    · obtain ⟨l', he, ho, hl⟩ := ih (closeLoop l x) hnd (by
        intro k hk
        have hne : k ≠ x := fun e => hxs (e ▸ hk)
        rw [closesAt_closeLoop l hne, get_closeLoop, if_neg hne]
        exact hx k (List.mem_cons_of_mem _ hk))
      refine ⟨l', (loopEnd_closes hc).trans he, ?_, fun k => ?_⟩
      · rw [ho, closeLoop, List.filter_filter]
        refine List.filter_congr fun k _ => ?_
        by_cases hk : k = x
        · simp [hk, hc]
        · simp [hk, ← closesAt_closeLoop (next := next) l hk, closeLoop]
      · rw [hl, get_closeLoop]
        by_cases hk : k = x
        · simp [hk, hc, hxs]
        · simp [hk, closesAt_closeLoop l hk]
    · have hstop : (SMap.get {} l.lc x).stop ≠ next := (hx x List.mem_cons_self).resolve_right hc
      obtain ⟨l', he, ho, hl⟩ := ih l hnd (fun k hk => hx k (List.mem_cons_of_mem _ hk))
      have hin : ∀ k, (k ∈ x :: xs ∧ closesAt l next k = true) ↔ (k ∈ xs ∧ closesAt l next k = true) := by
        intro k
        refine and_congr_left fun hk => ?_
        rw [List.mem_cons, or_iff_right (fun e : k = x => hc (e ▸ hk))]
      refine ⟨l', ?_, ?_, fun k => ?_⟩
      · rw [List.cons_append, loopEnd]
        simp only [if_neg hstop]
        exact he
      · rw [ho]
        refine List.filter_congr fun k _ => ?_
        rw [Bool.eq_iff_iff]
        simp only [Bool.not_eq_true', ← Bool.not_eq_true, Bool.and_eq_true, decide_eq_true_eq, hin]
      · simp only [hl, hin]

/-- Where no active loop ends, flow goes on. -/
theorem loopEnd_of_none {os : List Nat} {l : Loops} (h : ∀ k ∈ os, (SMap.get {} l.lc k).stop ≠ next) : loopEnd os l next = (l, next) := by
  induction os with
  | nil => rfl
  | cons x xs ih =>
    rw [loopEnd]
    simp only [if_neg (h x List.mem_cons_self)]
    exact ih (fun k hk => h k (List.mem_cons_of_mem _ hk))

theorem loopCheck_of_none {p : Prog} (h : ∀ k ∈ p.loops.order, (SMap.get {} p.loops.lc k).stop ≠ next) :
    p.loopCheck next = { p with pc := next, arrive := .plain } := by
  unfold Prog.loopCheck
  rw [loopEnd_of_none h]

/-- A loop that ends at the next address and has rounds left goes back to its start. -/
theorem loopEnd_goes_back {k : Nat} {r : List Nat} {l : Loops} (hs : (SMap.get {} l.lc k).stop = next) (hc : (SMap.get {} l.lc k).count ≠ 1) :
    loopEnd (k :: r) l next =
      ({ l with lc := SMap.set l.lc k { SMap.get {} l.lc k with count := (SMap.get {} l.lc k).count - 1 } }, (SMap.get {} l.lc k).start) := by
  rw [loopEnd]
  have h1 : (SMap.get {} l.lc k).count - 1 ≠ 0 := fun h => hc (by bv_omega)
  simp only [hs, if_true, if_pos h1]

end LoopEnd

/-! ### The loops that a taken branch leaves (R73) -/

/-- A count of 0 for each of the counters listed. -/
theorem get_foldl_zeroCount (out : List Nat) (lc : SMap Loop) (k : Nat) :
    SMap.get {} (out.foldl (fun m j => SMap.set m j { SMap.get {} m j with count := 0 }) lc) k =
      if k ∈ out then { SMap.get {} lc k with count := 0 } else SMap.get {} lc k := by
  induction out generalizing lc with
  | nil => rfl
  | cons x xs ih =>
    rw [List.foldl_cons, ih, SMap.get_set]
    by_cases hk : k = x
    · subst hk; simp
    · simp [hk]

/-- The loop's body holds an address. -/
def Loops.holds (l : Loops) (dest : DWord) (k : Nat) : Bool :=
  decide ((SMap.get {} l.lc k).start.toNat ≤ dest.toNat ∧ dest.toNat < (SMap.get {} l.lc k).stop.toNat)

theorem mem_left_iff (l : Loops) (dest : DWord) (k : Nat) :
    k ∈ l.order.filter (fun k => decide (dest.toNat < (SMap.get {} l.lc k).start.toNat) ||
      decide ((SMap.get {} l.lc k).stop.toNat ≤ dest.toNat)) ↔ k ∈ l.order ∧ Loops.holds l dest k = false := by
  rw [List.mem_filter, Loops.holds, Bool.or_eq_true, decide_eq_true_eq, decide_eq_true_eq, decide_eq_false_iff_not]
  exact and_congr_right fun _ => by omega

theorem leave_order (l : Loops) (dest : DWord) : (l.leave dest).order = l.order.filter (Loops.holds l dest) := by
  refine List.filter_congr fun k hk => ?_
  rw [Bool.eq_iff_iff, Bool.not_eq_true', ← Bool.not_eq_true, List.contains_iff_mem, mem_left_iff]
  simp [hk]

theorem leave_lc (l : Loops) (dest : DWord) (k : Nat) : SMap.get {} (l.leave dest).lc k =
    if k ∈ l.order ∧ Loops.holds l dest k = false then { SMap.get {} l.lc k with count := 0 } else SMap.get {} l.lc k := by
  simp only [Loops.leave, get_foldl_zeroCount, mem_left_iff]

/-! ### An instruction that retires (R67, R68) -/

/-- A meaning that leaves its program as it is retires so. -/
theorem onlyProg_of_issue_same {i : Instr} {s : State} {len : Nat} {pl : Place} (body : Seqr → State → Res)
    (hi : exec i s = issue s len pl body) (hs : Stands s len pl) (hb : body s.cur (fresh s) = .retire (fresh s)) :
    ∃ t, exec i s = .next t ∧ OnlyProg s t ∧
      t.prog s.cur = (s.prog s.cur).advance s.cur.isFork (seqNext (s.prog s.cur).pc len) := by
  refine ⟨_, hi.trans (issue_eq hs hb (by intro f; simp)), ?_⟩
  simp only [finish, State.prog_setProg_self, State.prog_countRetired, fresh_prog, State.prog_stalled]
  exact ⟨onlyProg_countRetired s _, trivial⟩

/-- A meaning that sends flow elsewhere, and changes nothing else. -/
theorem onlyProg_of_goto {i : Instr} {s : State} {len : Nat} {pl : Place} {dest : DWord} (body : Seqr → State → Res)
    (hi : exec i s = issue s len pl body) (hs : Stands s len pl) (hb : body s.cur (fresh s) = .goto (fresh s) dest) :
    ∃ t, exec i s = .next t ∧ OnlyProg s t ∧ t.prog s.cur = (s.prog s.cur).advance s.cur.isFork dest := by
  refine ⟨_, hi.trans (issue_eq hs hb (by intro f; simp)), ?_⟩
  simp only [finish, State.prog_setProg_self, State.prog_countRetired, fresh_prog]
  exact ⟨onlyProg_countRetired s _, trivial⟩

theorem exec_nop {s : State} : exec .nop s = execNop s := rfl

theorem nop_retires {s : State} (hs : Stands s 1 .any) :
    ∃ t, exec .nop s = .next t ∧ OnlyProg s t ∧
      t.prog s.cur = (s.prog s.cur).advance s.cur.isFork (seqNext (s.prog s.cur).pc 1) :=
  onlyProg_of_issue_same _ exec_nop hs rfl

theorem getS_of_advance {s t : State} {f : Bool} {dest : DWord} (h : t.prog s.cur = (s.prog s.cur).advance f dest) (r : Reg) :
    t.getS s.cur r = s.getS s.cur r := by
  rw [State.getS, Prog.getS, h, (advance_rest _ _ _).1]; rfl

theorem stands_any_of_none {s : State} {len : Nat}
    (h : ∀ k ∈ (s.prog s.cur).loops.order, (SMap.get {} (s.prog s.cur).loops.lc k).stop ≠ seqNext (s.prog s.cur).pc len) :
    Stands s len .any := by
  have hany : (s.prog s.cur).loops.order.any (fun k => (SMap.get {} (s.prog s.cur).loops.lc k).stop == seqNext (s.prog s.cur).pc len)
      = false := by
    rw [List.any_eq_false]
    intro k hk
    simpa using h k hk
  rw [Stands, Prog.badSlot, hany, Bool.and_false, Bool.or_false]
  rfl

/-! ### What may not stand in a delay slot (R68, R74) -/

section Slots

variable {s : State}

/-- An active loop's body ends behind an instruction of so many words. -/
def EndsAt (s : State) (len : Nat) : Prop :=
  ∃ j, j ∈ (s.prog s.cur).loops.order ∧ (SMap.get {} (s.prog s.cur).loops.lc j).stop = seqNext (s.prog s.cur).pc len

theorem any_of_endsAt {len : Nat} (h : EndsAt s len) :
    (s.prog s.cur).loops.order.any (fun k => (SMap.get {} (s.prog s.cur).loops.lc k).stop == seqNext (s.prog s.cur).pc len) = true := by
  obtain ⟨j, hj, he⟩ := h
  exact List.any_eq_true.mpr ⟨j, hj, by simpa using he⟩

theorem inSlot_of {x : Xfer} (hp : (s.prog s.cur).pend = some x) (hx : 1 ≤ x.slots) : (s.prog s.cur).inSlot = true := by
  have : x.slots ≠ 0 := by omega
  simp [Prog.inSlot, hp, this]

theorem badSlot_of_inSlot {len : Nat} {pl : Place} (hpl : pl ≠ .any) (h : (s.prog s.cur).inSlot = true) :
    (s.prog s.cur).badSlot len pl = true := by
  simp [Prog.badSlot, h, hpl]

theorem badSlot_of_inSlot_endsAt {len : Nat} {pl : Place} (h : (s.prog s.cur).inSlot = true) (he : EndsAt s len) :
    (s.prog s.cur).badSlot len pl = true := by
  rw [Prog.badSlot, any_of_endsAt he, h]
  simp

theorem badSlot_of_xfer_endsAt {len : Nat} (he : EndsAt s len) : (s.prog s.cur).badSlot len .xfer = true := by
  rw [Prog.badSlot, any_of_endsAt he, beq_self_eq_true, Bool.true_or, Bool.and_true, Bool.or_true]

/-- What an instruction of so many words comes to, where decode check 7 stands before the rest of it (R35, R68, R74). -/
inductive SlotChecked (s : State) : Nat → Out → Prop
  | mk (len : Nat) (pl : Place) (r : Out) : SlotChecked s len
      (if ((fresh s).prog s.cur).badSlot len pl then
        .next ((fresh s).raise s.cur ⟨.illslot, ((fresh s).prog s.cur).pc, ((fresh s).prog s.cur).pc, ((fresh s).prog s.cur).pend⟩)
      else r)

theorem traps_of_slotChecked {i : Instr} {len : Nat} (h : SlotChecked s len (exec i s)) (hb : (s.prog s.cur).inSlot = true)
    (he : EndsAt s len) : Traps i s .illslot (s.prog s.cur).pc := by
  unfold Traps
  generalize exec i s = o at h
  cases h
  simp only [fresh_prog]
  rw [if_pos (badSlot_of_inSlot_endsAt hb he)]
  rfl

/-- Every instruction that has words is checked for its slot first, loops and subtrees apart. -/
theorem slotChecked (i : Instr) (s : State) (hw : encode i ≠ []) (hl : ∀ d a m, i ≠ .loop d a m) (hli : ∀ d m v, i ≠ .loopi d m v)
    (hasp : ∀ e f g h, i ≠ .aspUp e f g h ∧ i ≠ .aspDn e f g h) : SlotChecked s (encode i).length (exec i s) := by
  cases i
  case loop d a m => exact absurd rfl (hl d a m)
  case loopi d m v => exact absurd rfl (hli d m v)
  case aspUp e f g h => exact absurd rfl (hasp e f g h).1
  case aspDn e f g h => exact absurd rfl (hasp e f g h).2
  case vdiv d a b fn lw =>
    change SlotChecked s 2 (execVdiv d a b fn lw s)
    rw [execVdiv]
    split <;> exact .mk _ _ _
  case vsqrt d a fn lw =>
    change SlotChecked s 2 (execVsqrt d a fn lw s)
    rw [execVsqrt]
    split <;> exact .mk _ _ _
  all_goals first
    | exact .mk _ _ _
    | exact absurd rfl hw

theorem illslot_of_xfer {d a k : Reg} (h : (s.prog s.cur).badSlot 1 .xfer = true) :
    ∀ i ∈ [Instr.br d, .brx d a k, .brxn d a k, .call d, .ret], Traps i s .illslot (s.prog s.cur).pc := by
  simp only [List.forall_mem_cons, List.forall_mem_nil, and_true]
  exact ⟨illslot_of_issue _ exec_br h, illslot_of_issue _ exec_brx h, illslot_of_issue _ exec_brxn h, illslot_of_issue _ exec_call h,
    illslot_of_issue _ exec_ret h, by simp⟩

end Slots

/-! ### The loop instructions (R71) -/

section Loops

variable {s : State} {d a : Reg} {imm : BitVec 12} {imm32 : Word}

theorem exec_loop : exec (.loop d a imm) s = execLoop d a imm s := rfl
theorem exec_loopi : exec (.loopi d imm imm32) s = execLoopi d imm imm32 s := rfl
theorem loop_wf : (Instr.loop d a imm).wf = (decide (d.toNat < 4) && decide (1 < imm.toNat)) := rfl
theorem loopi_wf : (Instr.loopi d imm imm32).wf = (decide (d.toNat < 4) && decide (2 < imm.toNat)) := rfl

/-- The end of the body of a loop instruction. -/
def stopOf (s : State) (imm : BitVec 12) : DWord := (s.prog s.cur).pc + BitVec.ofNat 64 (4 * imm.toNat)

theorem issueLoop_header {len : Nat} {body : Seqr → DWord → State → Res} {i : Instr} (hi : exec i s = issueLoop s len imm body)
    (h : (stopOf s imm).toNat / 4 % 32 < 2) : Traps i s .illegal (s.prog s.cur).pc := by
  unfold Traps
  rw [hi, issueLoop]
  exact if_pos (decide_eq_true h)

theorem issueLoop_issues {len : Nat} {body : Seqr → DWord → State → Res} {i : Instr} (hi : exec i s = issueLoop s len imm body)
    (h : 2 ≤ (stopOf s imm).toNat / 4 % 32) : exec i s = issue s len .loop fun q u => body q (stopOf s imm) u := by
  rw [hi, issueLoop]
  refine if_neg (fun hc => ?_)
  have := of_decide_eq_true hc
  unfold stopOf at h
  omega

/-- A loop counter armed, or its body skipped (R71). -/
def Arms (s : State) (i : Instr) (len : Nat) (d : Reg) (stop : DWord) (count : BitVec 32) : Prop :=
  ∃ t, exec i s = .next t ∧ OnlyProg s t ∧ (∀ r, t.getS s.cur r = s.getS s.cur r) ∧
    ((s.prog s.cur).pend = none → count = 0 → t.prog s.cur = (s.prog s.cur).loopCheck stop) ∧
    ((s.prog s.cur).pend = none → count ≠ 0 → t.prog s.cur =
      ({ s.prog s.cur with loops := { lc := SMap.set (s.prog s.cur).loops.lc d.toNat ⟨count, seqNext (s.prog s.cur).pc len, stop⟩
                                      order := d.toNat :: (s.prog s.cur).loops.order.filter (· != d.toNat) } } : Prog).loopCheck
        (seqNext (s.prog s.cur).pc len))

theorem advance_of_none {p : Prog} (h : p.pend = none) (f : Bool) (dest : DWord) : p.advance f dest = p.loopCheck dest := by
  unfold Prog.advance
  rw [h]

theorem arms_of_issue {i : Instr} {len : Nat} {stop : DWord} {count : BitVec 32} (body : Seqr → State → Res)
    (hi : exec i s = issue s len .loop body) (hs : Stands s len .loop)
    (hb : body s.cur (fresh s) = (fresh s).armLoop s.cur d.toNat count (seqNext (s.prog s.cur).pc len) stop) :
    Arms s i len d stop count := by
  unfold State.armLoop at hb
  by_cases hc : count = 0
  · obtain ⟨t, he, ho, hp⟩ := onlyProg_of_goto body hi hs (hb.trans (if_pos hc))
    exact ⟨t, he, ho, getS_of_advance hp, fun hn _ => hp.trans (advance_of_none hn _ _), fun _ h => absurd hc h⟩
  · obtain ⟨t, he, ho, hp⟩ := onlyProg_of_issue body hi hs (hb.trans (if_neg hc))
    refine ⟨t, he, ho, fun r => ?_, fun _ h => absurd h hc, fun hn _ => hp.trans (advance_of_none (by exact hn) _ _)⟩
    rw [State.getS, Prog.getS, hp, (advance_rest _ _ _).1]
    rfl

end Loops

/-- Settles O5: flow after the first slot, the second, and a slot where R68 and R74 forbid it. -/
theorem delaySlots : Obligations.DelaySlots := by
  unfold Obligations.DelaySlots
  refine ⟨?_, ?_⟩
  · intro s x p loop holds hnone hpend hfork
    obtain ⟨t, he, ho, hp⟩ := nop_retires (stands_any_of_none hnone)
    refine ⟨t, he, ho, ?_⟩
    unfold Prog.advance at hp
    rw [show (s.prog s.cur).pend = some x from hpend] at hp
    simp only at hp
    rw [hp]
    refine ⟨fun h2 => ?_, fun h1 htaken => ?_, fun h1 hnot hnd => ?_⟩
    · rw [if_neg (by omega), loopCheck_of_none (p := { s.prog s.cur with pend := some { x with slots := x.slots - 1 } }) hnone]
      exact ⟨by simp [h2], rfl, rfl, rfl⟩
    · rw [if_pos (by omega), Prog.takeXfer, if_pos htaken, if_neg (by rw [hfork]; simp)]
      refine ⟨rfl, rfl, rfl, fun hk => if_neg hk, fun hk => ?_⟩
      simp only [if_pos hk]
      exact ⟨leave_order _ _, leave_lc _ _⟩
    · rw [if_pos (by omega), Prog.takeXfer, if_neg (by simp [hnot]),
        loopCheck_of_none (p := { s.prog s.cur with pend := none }) hnd]
      simp only [if_true]
      exact ⟨trivial, trivial, trivial, rfl⟩
  · intro s d a k imm imm32 p endsAt
    refine ⟨fun x hx h1 => ?_, fun he => illslot_of_xfer (badSlot_of_xfer_endsAt he)⟩
    have hin := inSlot_of hx h1
    refine ⟨illslot_of_xfer (badSlot_of_inSlot (by decide) hin), fun hstop => ?_, fun i hw hl hli hasp he => ?_, fun e f g h ts => ?_⟩
    · exact ⟨illslot_of_issue _ (issueLoop_issues exec_loop hstop) (badSlot_of_inSlot (by decide) hin),
        illslot_of_issue _ (issueLoop_issues exec_loopi hstop) (badSlot_of_inSlot (by decide) hin)⟩
    · exact traps_of_slotChecked (slotChecked i s hw hl hli hasp) hin he
    · refine ⟨fun hb he => illslot_of_issue (pl := .any) (runBundle ts) ?_ (badSlot_of_inSlot_endsAt hin he),
        fun hb he => illslot_of_issue (pl := .any) (runBundle ts) ?_ (badSlot_of_inSlot_endsAt hin he)⟩
      · show aspBundle _ s = _
        rw [aspBundle, hb]
      · show aspBundle _ s = _
        rw [aspBundle, hb]

/-- Settles O6: a loop instruction arms its counter, and the loop-end check closes the loops that end at the next address. -/
theorem hardwareLoops : Obligations.HardwareLoops := by
  unfold Obligations.HardwareLoops
  refine ⟨?_, ?_⟩
  · intro s d a imm imm32 p stop arms
    refine ⟨fun h => ⟨issueLoop_header exec_loop h, issueLoop_header exec_loopi h⟩, fun h => ⟨fun hs hr => ?_, fun hs => ?_, ?_⟩, ?_, ?_⟩
    · refine arms_of_issue _ (issueLoop_issues exec_loop h) hs ?_
      rw [fresh_ready (srcs := [srcS a]) (dests := []) hr]
      rfl
    · exact arms_of_issue _ (issueLoop_issues exec_loopi h) hs rfl
    · intro x hx h1
      exact ⟨illslot_of_issue _ (issueLoop_issues exec_loop h) (badSlot_of_inSlot (by decide) (inSlot_of hx h1)),
        illslot_of_issue _ (issueLoop_issues exec_loopi h) (badSlot_of_inSlot (by decide) (inSlot_of hx h1))⟩
    · intro h
      rw [loop_wf, decide_eq_false (Nat.not_lt.mpr h), Bool.and_false]
    · intro h
      rw [loopi_wf, decide_eq_false (Nat.not_lt.mpr h), Bool.and_false]
  · intro s xs ys hs hpend p loop next closes kept goes horder hnd hx
    rw [horder] at hnd
    obtain ⟨hxs, hys, hdisj⟩ := List.nodup_append.mp hnd
    obtain ⟨t, he, ho, hp⟩ := nop_retires hs
    obtain ⟨hS, -, -, hhold, -⟩ := advance_rest (s.prog s.cur) s.cur.isFork next
    obtain ⟨l', hl, hlo, hlc⟩ := loopEnd_append (next := next) xs ys (s.prog s.cur).loops hxs hx
    have hcheck : (s.prog s.cur).advance s.cur.isFork next =
        { s.prog s.cur with loops := (loopEnd ys l' next).1, pc := (loopEnd ys l' next).2, arrive := .plain } := by
      rw [advance_of_none hpend, Prog.loopCheck, show (s.prog s.cur).loops.order = xs ++ ys from horder, hl]
    have hkeep : l'.order = kept ++ ys := by
      rw [hlo, show (s.prog s.cur).loops.order = xs ++ ys from horder, List.filter_append]
      refine congrArg₂ _ (List.filter_congr fun k hk => ?_) (List.filter_eq_self.mpr fun k hk => ?_)
      · simp only [hk, decide_true, Bool.true_and]; rfl
      · have : k ∉ xs := fun hc => hdisj k hc k hk rfl
        simp [this]
    have hgoes : ∀ pc order lc, (loopEnd ys l' next).2 = pc → (loopEnd ys l' next).1.order = order →
        (∀ k, SMap.get {} (loopEnd ys l' next).1.lc k = lc k) → goes pc order lc := by
      intro pc order lc h1 h2 h3
      refine ⟨t, he, ho, getS_of_advance hp, ?_, ?_, ?_, ?_, ?_, fun k => ?_⟩ <;> rw [hp, hcheck]
      · exact hpend
      · exact h1
      · exact h2
      · exact h3 k
    refine ⟨fun hy => ?_, fun k r hy hstop hcount => ?_⟩
    · subst hy
      exact hgoes _ _ _ rfl (hkeep.trans (List.append_nil _)) hlc
    · subst hy
      have hk : k ∉ xs := fun hc => hdisj k hc k List.mem_cons_self rfl
      have hlk : SMap.get {} l'.lc k = loop k := (hlc k).trans (if_neg (fun hc => hk hc.1))
      have hback := loopEnd_goes_back (next := next) (k := k) (r := r) (l := l') (by rw [hlk]; exact hstop) (by rw [hlk]; exact hcount)
      rw [hlk] at hback
      refine hgoes _ _ _ (by rw [hback]) (by rw [hback]; exact hkeep) fun j => ?_
      rw [hback]
      simp only [SMap.get_set, hlc]
      by_cases hj : j = k
      · subst hj
        rw [if_pos rfl, if_neg (fun hc => hk hc.1), if_pos rfl]
      · rw [if_neg hj, if_neg hj]
        rfl

end Sys2Proof.Proofs.Flow
end

section
/-! PROOFS. An instruction that waits for its registers (R12, R35), token FIFOs (R75 to R79) and the control registers (R17, R80 to R82). -/

namespace Sys2Proof.Proofs.Ready

open Sys2Proof.Machine
open Sys2Proof.Safety

/-! ### What a meaning behind its registers comes to -/

section Rules

variable {i : Instr} {s s1 : State} {len : Nat} {pl : Place} {srcs dests : List Src} {r : Res} {c : Cause} {v : DWord} {d : Reg}
  (body : Seqr → State → Res)

theorem retires_of_ready (hi : exec i s = issue s len pl body) (hb : body s.cur (fresh s) = (fresh s).ready s.cur srcs dests r)
    (hs : Stands s len pl) (hr : RegsReady s (srcs ++ dests)) (h : r = .retire s1) : Retires i s len s1 :=
  retires_of_issue body hi hs (by rw [hb, fresh_ready hr, h])

theorem stalls_of_ready (hi : exec i s = issue s len pl body) (hb : body s.cur (fresh s) = (fresh s).ready s.cur srcs dests r)
    (hs : Stands s len pl) (hr : RegsReady s (srcs ++ dests)) (h : r = .stall) : Stalls i s :=
  stalls_of_issue body hi hs (by rw [hb, fresh_ready hr, h])

theorem traps_of_ready (hi : exec i s = issue s len pl body) (hb : body s.cur (fresh s) = (fresh s).ready s.cur srcs dests r)
    (hs : Stands s len pl) (hr : RegsReady s (srcs ++ dests)) (h : r = .trap c v) : Traps i s c v :=
  traps_of_issue body hi hs (by rw [hb, fresh_ready hr, h])

theorem writesS_of_ready (hi : exec i s = issue s len pl body) (hb : body s.cur (fresh s) = (fresh s).ready s.cur srcs dests r)
    (hs : Stands s len pl) (hr : RegsReady s (srcs ++ dests)) (h : r = .retire ((fresh s).setS s.cur d v)) : WritesS i s len d v :=
  writesS_of_issue body hi hs (by rw [hb, fresh_ready hr, h])

end Rules

@[simp] theorem fresh_fifo (s : State) (q : Seqr) (n : Nat) : (fresh s).fifo q n = s.fifo q n := by
  simp only [State.fifo, fresh_thread]

end Sys2Proof.Proofs.Ready

namespace Sys2Proof.Proofs.Tokens

open Sys2Proof.Machine
open Sys2Proof.Safety
open Sys2Proof.Proofs.Ready

/-! ### Token FIFOs -/

section Fifos

variable {s : State} {d a fn : Reg}

theorem exec_tokSend : exec (.tokSend a fn) s = execTokSend a fn s := rfl
theorem exec_tokRecv : exec (.tokRecv d fn) s = execTokRecv d fn s := rfl
theorem exec_tokPoll : exec (.tokPoll d fn) s = execTokPoll d fn s := rfl

/-- The thread of a program with one FIFO replaced. -/
def withFifo (s : State) (q : Seqr) (n : Nat) (f : Fifo) : Ctx := { s.thread q with fifos := SMap.set (s.thread q).fifos n f }

theorem setFifo_fresh (q : Seqr) (n : Nat) (f : Fifo) : (fresh s).setFifo q n f = (fresh s).setThread q (withFifo s q n f) := by
  simp only [State.setFifo, fresh_thread, withFifo]

theorem wake_awake {t : State} {c x : Nat} (h : ∀ u, (t.ctx c x).prog.hold ≠ some (.sleep u)) : t.wake c x = t := by
  unfold State.wake
  cases hh : (t.ctx c x).prog.hold with
  | none => simp only [hh]
  | some k =>
    cases k with
    | sleep u => exact absurd hh (h u)
    | _ => simp only [hh]

theorem wake_sleeping {t : State} {c x : Nat} {u : Option Nat} (h : (t.ctx c x).prog.hold = some (.sleep u)) :
    t.wake c x = t.setCtx c x { t.ctx c x with prog := { (t.ctx c x).prog with hold := none } } := by
  unfold State.wake
  simp only [h]

theorem setCtx_setCtx (t : State) (c x : Nat) (u v : Ctx) : (t.setCtx c x u).setCtx c x v = t.setCtx c x v := by
  simp [State.setCtx, State.setCore, State.core, SMap.set_set]

/-- What a send retires with, where it neither waits for room nor for an access (R76, R79). -/
theorem tokSend_res (hs : Stands s 1 .any) (hr : RegsReady s [srcS a]) (hf : (s.fifo s.cur fn.toNat).tokens.length < 16)
    (ha : s.aspPending s.cur = false) (hc : s.streamClaim s.cur = false) {t : Ctx}
    (ht : ((fresh s).setThread s.cur (withFifo s s.cur fn.toNat
      { s.fifo s.cur fn.toNat with tokens := (s.fifo s.cur fn.toNat).tokens ++ [s.getS s.cur a] })).wake s.cur.core (s.ownerCtx s.cur) =
        (fresh s).setThread s.cur t) : Retires (.tokSend a fn) s 1 ((fresh s).setThread s.cur t) := by
  refine retires_of_ready _ exec_tokSend rfl hs hr ?_
  simp only [fresh_fifo, fresh_getS, fresh_ownerCtx, setFifo_fresh, ht]
  refine if_neg ?_
  rw [show (fresh s).aspPending s.cur = false from ha, show (fresh s).streamClaim s.cur = false from hc]
  simp [hf]

theorem tokSend_stalls (hs : Stands s 1 .any) (hr : RegsReady s [srcS a])
    (h : 16 ≤ (s.fifo s.cur fn.toNat).tokens.length ∨ s.aspPending s.cur = true ∨ s.streamClaim s.cur = true) :
    Stalls (.tokSend a fn) s := by
  refine stalls_of_ready _ exec_tokSend rfl hs hr (if_pos ?_)
  rw [fresh_fifo]
  exact h

/-- The claim of a receive, and its destination empty (R77). -/
theorem markEmpty_eq (p : Prog) (d : Reg) :
    p.markEmpty d.toNat = { p with sEmpty := if d = 0 then p.sEmpty else p.sEmpty ||| 1#64 <<< d.toNat } := by
  unfold Prog.markEmpty
  by_cases h : d = 0
  · subst h; rfl
  · have : d.toNat ≠ 0 := fun e => h (BitVec.eq_of_toNat_eq e)
    rw [if_neg this, if_neg h]

end Fifos

/-- Settles O7: each FIFO instruction by its one way through, and each stall. -/
theorem tokenFifos : Obligations.TokenFifos := by
  unfold Obligations.TokenFifos
  refine ⟨?_, ?_, ?_⟩
  · intro s d a fn hs q t f mine put sent claimed p
    refine ⟨fun hr hf ha hc => ⟨fun hw => ?_, fun u hu => ?_⟩, fun hr hf => ?_, fun hr ⟨m, hm, k, hk, ho⟩ => ?_, fun c hq hr hl => ?_,
      fun hr hf => ?_, fun hr hf => ?_, fun hr => ?_⟩
    · refine tokSend_res hs hr hf ha hc (wake_awake ?_)
      rw [State.setThread, fresh_ownerCtx, State.ctx_setCtx_self]
      exact hw
    · refine tokSend_res hs hr hf ha hc ((wake_sleeping (u := u) ?_).trans ?_)
      · rw [State.setThread, fresh_ownerCtx, State.ctx_setCtx_self]
        exact hu
      · simp only [State.setThread, fresh_ownerCtx, State.ctx_setCtx_self, setCtx_setCtx]
        rfl
    · exact tokSend_stalls hs hr (Or.inl hf)
    · refine tokSend_stalls hs hr (Or.inr (Or.inr ?_))
      exact List.any_eq_true.mpr ⟨m, hm, List.any_eq_true.mpr ⟨k, hk, decide_eq_true ho⟩⟩
    · refine tokSend_stalls hs hr (Or.inr (Or.inl ?_))
      rw [show s.cur = .arc c from hq]
      simpa [State.aspPending] using hl
    · refine retires_of_ready _ exec_tokRecv rfl hs hr ?_
      simp only [fresh_fifo, setFifo_fresh]
      refine (if_neg (Nat.not_le.mpr hf)).trans ?_
      rw [markEmpty_eq]
      rfl
    · refine stalls_of_ready _ exec_tokRecv rfl hs hr (if_pos ?_)
      rw [fresh_fifo]
      exact hf
    · refine writesS_of_ready _ exec_tokPoll rfl hs hr ?_
      rw [fresh_fifo]
  · intro s v vs c cs q t s1 p hf hc
    show execTokenDelivery s = _
    unfold execTokenDelivery
    have hf' : s.fifo (.thread s.target.core s.target.unit) s.target.id = ⟨v :: vs, c :: cs⟩ := hf
    simp only [hf']
    simp only [Prog.fillS, Prog.setS]
    by_cases h0 : c.reg = 0
    · simp only [if_pos h0]; rfl
    · simp only [if_neg h0]; rfl
  · intro s f h
    show execTokenDelivery s = _
    unfold execTokenDelivery
    simp only
    split
    · next v ts c cs ht hc =>
      exact absurd h (by simp [f, ht, hc])
    · rfl

end Sys2Proof.Proofs.Tokens

namespace Sys2Proof.Proofs.ControlRegs

open Sys2Proof.Machine
open Sys2Proof.Safety
open Sys2Proof.Proofs.Ready

/-! ### Control registers (R17, R18, R80 to R82) -/

section

variable {s : State} {d a : Reg} {imm : BitVec 12}

theorem exec_mfc : exec (.mfc d imm) s = execMfc d imm s := rfl
theorem exec_mtc : exec (.mtc a imm) s = execMtc a imm s := rfl

/-- The register that the running program's `MFC` reads. -/
def creg (s : State) (n : Nat) : Option DWord :=
  (s.thread s.cur).readCreg s.cur.core (s.ownerCtx s.cur) (s.pcore s.cur.core) s.now n

/-- `MFC` of a register that the level may read, with no flags awaited, writes it. -/
theorem mfc_writes {v : DWord} (hs : Stands s 1 .any) (hr : RegsReady s [srcS d]) (hn : imm.toNat < 256)
    (hm : cregIsM imm.toNat = true → (s.thread s.cur).modeM = true) (hf : imm.toNat = 5 → s.flagsPending s.cur = false)
    (hv : creg s imm.toNat = some v) : WritesS (.mfc d imm) s 1 d v := by
  refine writesS_of_ready _ exec_mfc rfl hs hr ?_
  have h1 : ¬ (cregIsM imm.toNat && !(s.thread s.cur).modeM) = true := by
    cases hc : cregIsM imm.toNat <;> simp [hm, hc]
  have h2 : ¬ (imm.toNat = 5 ∧ (fresh s).flagsPending s.cur = true) := by
    rintro ⟨h5, hp⟩
    rw [show (fresh s).flagsPending s.cur = s.flagsPending s.cur from rfl, hf h5] at hp
    cases hp
  simp only [Nat.mod_eq_of_lt hn, fresh_thread, fresh_ownerCtx, if_neg h1, if_neg h2]
  unfold creg at hv
  rw [show (fresh s).pcore s.cur.core = s.pcore s.cur.core from rfl, show (fresh s).now = s.now from rfl, hv]

theorem mfc_refuses (hs : Stands s 1 .any) (hr : RegsReady s [srcS d]) (hn : imm.toNat < 256)
    (h : (cregIsM imm.toNat = true ∧ (s.thread s.cur).modeM = false) ∨ (imm.toNat ≠ 5 ∧ creg s imm.toNat = none)) :
    Traps (.mfc d imm) s .illegal (s.prog s.cur).pc := by
  refine traps_of_ready _ exec_mfc rfl hs hr ?_
  simp only [Nat.mod_eq_of_lt hn, fresh_thread, fresh_ownerCtx, State.pcOf, fresh_prog]
  rcases h with ⟨h1, h2⟩ | ⟨h5, hv⟩
  · simp [h1, h2]
  · split
    · rfl
    · rw [if_neg (fun hc => h5 hc.1)]
      unfold creg at hv
      rw [show (fresh s).pcore s.cur.core = s.pcore s.cur.core from rfl, show (fresh s).now = s.now from rfl, hv]

/-- `MTC` of a value that the register takes, of a program that may write it, writes it. -/
theorem mtc_writes {t : Ctx} (hs : Stands s 1 .any) (hr : RegsReady s [srcS a]) (hn : imm.toNat < 256)
    (hm : cregIsM imm.toNat = true → (s.thread s.cur).modeM = true) (hk : s.cur.isFork = true → cregForkRo imm.toNat = false)
    (hf : imm.toNat = 5 → s.flagsPending s.cur = false)
    (hv : (s.thread s.cur).writeCreg imm.toNat (s.getS s.cur a) = some t) : Retires (.mtc a imm) s 1 ((fresh s).setThread s.cur t) := by
  refine retires_of_ready _ exec_mtc rfl hs hr ?_
  have h1 : ¬ (cregIsM imm.toNat && !(s.thread s.cur).modeM || s.cur.isFork && cregForkRo imm.toNat) = true := by
    cases hc : cregIsM imm.toNat <;> cases hq : s.cur.isFork <;> simp [hm, hc, hk, hq]
  have h2 : ¬ (imm.toNat = 5 ∧ (fresh s).flagsPending s.cur = true) := by
    rintro ⟨h5, hp⟩
    rw [show (fresh s).flagsPending s.cur = s.flagsPending s.cur from rfl, hf h5] at hp
    cases hp
  simp only [Nat.mod_eq_of_lt hn, fresh_thread, fresh_getS, if_neg h1, if_neg h2, hv]

theorem mtc_refuses (hs : Stands s 1 .any) (hr : RegsReady s [srcS a]) (hn : imm.toNat < 256)
    (h : (cregIsM imm.toNat = true ∧ (s.thread s.cur).modeM = false) ∨ (s.cur.isFork = true ∧ cregForkRo imm.toNat = true) ∨
      (imm.toNat ≠ 5 ∧ (s.thread s.cur).writeCreg imm.toNat (s.getS s.cur a) = none)) :
    Traps (.mtc a imm) s .illegal (s.prog s.cur).pc := by
  refine traps_of_ready _ exec_mtc rfl hs hr ?_
  simp only [Nat.mod_eq_of_lt hn, fresh_thread, fresh_getS, State.pcOf, fresh_prog]
  rcases h with ⟨h1, h2⟩ | ⟨h1, h2⟩ | ⟨h5, hv⟩
  · simp [h1, h2]
  · simp [h1, h2]
  · split
    · rfl
    · rw [if_neg (fun hc => h5 hc.1), hv]

/-- The numbers that no control register has (R17). -/
theorem no_creg {n : Nat} (h : 0x13 < n ∧ n < 0x80 ∨ 0x84 < n) (t : Ctx) (c x p u : Nat) (v : DWord) :
    t.readCreg c x p u n = none ∧ t.writeCreg n v = none ∧ n ≠ 5 := by
  refine ⟨?_, ?_, by omega⟩
  · unfold Ctx.readCreg
    split <;> first | exact absurd h (by decide) | rfl
  · unfold Ctx.writeCreg
    split <;> first | exact absurd h (by decide) | rfl

/-- A value that `tapelim` takes: an address of 16 bytes below 2^56 (R17). -/
theorem badTapelim_iff (v : DWord) : (v >>> 56 ≠ 0 ∨ v &&& 0xF ≠ 0) ↔ ¬ (v.toNat < 2 ^ 56 ∧ v.toNat % 16 = 0) := by
  have h4 : (v &&& 0xF).toNat = v.toNat % 16 := Nat.and_two_pow_sub_one_eq_mod v.toNat 4
  have h56 : (v >>> 56).toNat = v.toNat / 2 ^ 56 := by rw [BitVec.toNat_ushiftRight, Nat.shiftRight_eq_div_pow]
  have e1 : v >>> 56 = 0 ↔ v.toNat < 2 ^ 56 := by
    rw [← BitVec.toNat_inj, h56, show (0 : DWord).toNat = 0 from rfl]; omega
  have e2 : v &&& 0xF = 0 ↔ v.toNat % 16 = 0 := by
    rw [← BitVec.toNat_inj, h4]; rfl
  rw [ne_eq, ne_eq, e1, e2, ← not_and_or]

end

/-- Settles O8: by the table of each register's read and write. -/
theorem controlRegisters : Obligations.ControlRegisters := by
  unfold Obligations.ControlRegisters
  refine ⟨?_, ?_⟩
  · intro s d imm hs hr hn q t w
    refine ⟨fun n v hmem he => ?_, fun he hf => ?_, fun n v hmem he => ⟨fun hm => ?_, fun hm => ?_⟩, fun h => ?_⟩
    · have hfrm : w t.frm.toNat = zx64 t.frm := BitVec.ofNat_toNat ..
      rw [hfrm] at hmem
      have hrow : cregIsM n = false ∧ n ≠ 5 ∧ creg s n = some v := by
        simp only [List.mem_cons, Prod.mk.injEq, List.not_mem_nil, or_false] at hmem
        rcases hmem with ⟨rfl, rfl⟩ | ⟨rfl, rfl⟩ | ⟨rfl, rfl⟩ | ⟨rfl, rfl⟩ | ⟨rfl, rfl⟩ | ⟨rfl, rfl⟩ | ⟨rfl, rfl⟩ | ⟨rfl, rfl⟩ |
          ⟨rfl, rfl⟩ | ⟨rfl, rfl⟩ | ⟨rfl, rfl⟩ | ⟨rfl, rfl⟩ | ⟨rfl, rfl⟩ | ⟨rfl, rfl⟩ | ⟨rfl, rfl⟩ | ⟨rfl, rfl⟩ | ⟨rfl, rfl⟩ |
          ⟨rfl, rfl⟩ <;> exact ⟨rfl, by decide, rfl⟩
      obtain ⟨h1, h2, h3⟩ := he ▸ hrow
      exact mfc_writes hs hr hn (fun h => absurd h (by simp [h1])) (fun h => absurd h h2) h3
    · exact mfc_writes hs hr hn (fun h => absurd h (by rw [he]; decide)) (fun _ => hf) (by rw [he]; rfl)
    · have hrow : n ≠ 5 ∧ creg s n = some v := by
        simp only [List.mem_cons, Prod.mk.injEq, List.not_mem_nil, or_false] at hmem
        rcases hmem with ⟨rfl, rfl⟩ | ⟨rfl, rfl⟩ | ⟨rfl, rfl⟩ | ⟨rfl, rfl⟩ | ⟨rfl, rfl⟩ | ⟨rfl, rfl⟩ <;> exact ⟨by decide, rfl⟩
      obtain ⟨h2, h3⟩ := he ▸ hrow
      exact mfc_writes hs hr hn (fun _ => hm) (fun h => absurd h h2) h3
    · have hrow : cregIsM n = true := by
        simp only [List.mem_cons, Prod.mk.injEq, List.not_mem_nil, or_false] at hmem
        rcases hmem with ⟨rfl, rfl⟩ | ⟨rfl, rfl⟩ | ⟨rfl, rfl⟩ | ⟨rfl, rfl⟩ | ⟨rfl, rfl⟩ | ⟨rfl, rfl⟩ <;> rfl
      exact mfc_refuses hs hr hn (Or.inl ⟨he ▸ hrow, hm⟩)
    · obtain ⟨h1, -, h5⟩ := no_creg h (s.thread s.cur) s.cur.core (s.ownerCtx s.cur) (s.pcore s.cur.core) s.now 0
      exact mfc_refuses hs hr hn (Or.inr ⟨h5, h1⟩)
  · intro s a imm hs hr hn q t v writes refuses
    have hfree : ∀ n u, imm.toNat = n → cregIsM n = false → cregForkRo n = false → n ≠ 5 → t.writeCreg n v = some u → writes u :=
      fun n u he hm hk h5 hv => mtc_writes hs hr hn (fun h => absurd h (by simp [he, hm])) (fun _ => he ▸ hk)
        (fun h => absurd (he.symm.trans h) h5) (he ▸ hv)
    have hthread : q.isFork = false → ∀ n u, imm.toNat = n → cregIsM n = false → n ≠ 5 → t.writeCreg n v = some u → writes u :=
      fun hq n u he hm h5 hv => mtc_writes hs hr hn (fun h => absurd h (by simp [he, hm])) (fun h => absurd (hq.symm.trans h) (by decide))
        (fun h => absurd (he.symm.trans h) h5) (he ▸ hv)
    have hlevelM : q.isFork = false → t.modeM = true → ∀ n u, imm.toNat = n → n ≠ 5 → t.writeCreg n v = some u → writes u :=
      fun hq hm n u he h5 hv => mtc_writes hs hr hn (fun _ => hm) (fun h => absurd (hq.symm.trans h) (by decide))
        (fun h => absurd (he.symm.trans h) h5) (he ▸ hv)
    have hbad : ∀ n, imm.toNat = n → n ≠ 5 → t.writeCreg n v = none → refuses :=
      fun n he h5 hv => mtc_refuses hs hr hn (Or.inr (Or.inr ⟨fun h => h5 (he.symm.trans h), he ▸ hv⟩))
    refine ⟨fun hq hmem => ?_, fun h => ?_, fun hm hmem => ?_, fun he => ⟨fun hv => ?_, fun hv => ?_⟩, fun he hf => ?_, fun he => ?_,
      fun he => ?_, fun hq => ⟨fun he => ⟨fun hv => ?_, fun hv => ?_⟩, fun he => ?_, fun he => ?_, fun he => ?_, fun he => ?_,
        fun he => ?_, fun he => ⟨fun hv => ?_, fun hv => ?_⟩, fun hm => ⟨fun he => ?_, fun he => ?_, fun he => ?_, fun he => ?_,
          fun he => ?_, fun he => ⟨fun hv => ?_, fun hv => ?_⟩⟩⟩⟩
    · refine mtc_refuses hs hr hn (Or.inr (Or.inl ⟨hq, ?_⟩))
      generalize imm.toNat = n at hmem
      decide +revert
    · rcases h with hmem | h
      · simp only [List.mem_cons, List.not_mem_nil, or_false] at hmem
        rcases hmem with he | he | he | he | he | he | he | he <;> exact hbad _ he (by decide) rfl
      · obtain ⟨-, h2, h5⟩ := no_creg h t 0 0 0 0 v
        exact hbad _ rfl h5 h2
    · refine mtc_refuses hs hr hn (Or.inl ⟨?_, hm⟩)
      generalize imm.toNat = n at hmem
      decide +revert
    · exact hfree _ _ he rfl rfl (by decide) (if_pos hv)
    · exact hbad _ he (by decide) (if_neg (by omega))
    · exact mtc_writes hs hr hn (fun h => absurd h (by rw [he]; decide)) (fun _ => by rw [he]; rfl) (fun _ => hf) (by rw [he]; rfl)
    · exact hfree _ _ he rfl rfl (by decide) rfl
    · exact hfree _ _ he rfl rfl (by decide) rfl
    · exact hthread hq _ _ he rfl (by decide) (if_pos hv)
    · exact hbad _ he (by decide) (if_neg (by omega))
    · exact hthread hq _ _ he rfl (by decide) rfl
    · exact hthread hq _ _ he rfl (by decide) rfl
    · exact hthread hq _ _ he rfl (by decide) rfl
    · exact hthread hq _ _ he rfl (by decide) rfl
    · exact hthread hq _ _ he rfl (by decide) rfl
    · exact hthread hq _ _ he rfl (by decide) (if_neg (fun h => (badTapelim_iff v).mp h hv))
    · exact hbad _ he (by decide) (if_pos ((badTapelim_iff v).mpr hv))
    · exact hlevelM hq hm _ _ he (by decide) rfl
    · exact hlevelM hq hm _ _ he (by decide) rfl
    · exact hlevelM hq hm _ _ he (by decide) rfl
    · exact hlevelM hq hm _ _ he (by decide) rfl
    · exact hlevelM hq hm _ _ he (by decide) rfl
    · exact hlevelM hq hm _ _ he (by decide) (if_neg (by rw [hv]; decide))
    · exact hbad _ he (by decide) (if_pos hv)

end Sys2Proof.Proofs.ControlRegs
end

section
/-! PROOFS. Taking a trap (R100, R348, R350): the exchange of the monitor's registers, reflection to the handler, disposal, and the word
of a pending transfer (R98). -/

namespace Sys2Proof.Proofs.Traps

open Sys2Proof.Machine
open Sys2Proof.Safety
open Sys2Proof.Proofs.Transfers
open Sys2Proof.Proofs.Tokens

/-! ### The monitor's registers (R348) -/

theorem get_foldl_set {α : Type} (z : α) (f : Nat → α) (ks : List Nat) (m : SMap α) (n : Nat) :
    SMap.get z (ks.foldl (fun m k => SMap.set m k (f k)) m) n = if n ∈ ks then f n else SMap.get z m n := by
  induction ks generalizing m with
  | nil => rfl
  | cons k ks ih =>
    rw [List.foldl_cons, ih, SMap.get_set]
    by_cases h : n = k
    · subst h; simp
    · simp [h]

theorem mem_bank_iff (n : Nat) : n ∈ [56, 57, 58, 59, 60, 61, 62, 63] ↔ 56 ≤ n ∧ n < 64 := by
  simp only [List.mem_cons, List.not_mem_nil, or_false]; omega

section Bank

variable (t : Ctx) (n : Nat)

theorem get_s_swapBank : SMap.get 0 t.swapBank.prog.s n = if 56 ≤ n ∧ n < 64 then SMap.get 0 t.bankS n else SMap.get 0 t.prog.s n := by
  simp only [Ctx.swapBank, get_foldl_set, mem_bank_iff]

theorem get_bankS_swapBank : SMap.get 0 t.swapBank.bankS n = if 56 ≤ n ∧ n < 64 then SMap.get 0 t.prog.s n else SMap.get 0 t.bankS n := by
  simp only [Ctx.swapBank, get_foldl_set, mem_bank_iff]

theorem get_b_swapBank : SMap.get 0 t.swapBank.prog.b n = if n ∈ [6, 7] then SMap.get 0 t.bankB n else SMap.get 0 t.prog.b n := by
  simp only [Ctx.swapBank, get_foldl_set]

theorem get_bankB_swapBank : SMap.get 0 t.swapBank.bankB n = if n ∈ [6, 7] then SMap.get 0 t.prog.b n else SMap.get 0 t.bankB n := by
  simp only [Ctx.swapBank, get_foldl_set]

end Bank

section

variable (t : Ctx) (r : TrapReq) (n : Nat)

theorem get_s_enterM : SMap.get 0 (t.enterM r).prog.s n = if 56 ≤ n ∧ n < 64 then SMap.get 0 t.bankS n else SMap.get 0 t.prog.s n := by
  unfold Ctx.enterM
  rw [get_s_swapBank]

theorem get_bankS_enterM : SMap.get 0 (t.enterM r).bankS n = if 56 ≤ n ∧ n < 64 then SMap.get 0 t.prog.s n else SMap.get 0 t.bankS n := by
  unfold Ctx.enterM
  rw [get_bankS_swapBank]

theorem get_b_enterM : SMap.get 0 (t.enterM r).prog.b n = if n ∈ [6, 7] then SMap.get 0 t.bankB n else SMap.get 0 t.prog.b n := by
  unfold Ctx.enterM
  rw [get_b_swapBank]

theorem get_bankB_enterM : SMap.get 0 (t.enterM r).bankB n = if n ∈ [6, 7] then SMap.get 0 t.prog.b n else SMap.get 0 t.bankB n := by
  unfold Ctx.enterM
  rw [get_bankB_swapBank]

/-- The thread's own registers come back when a trap goes on to its handler. -/
theorem getS_reflect_enterM (now : Nat) : (((t.enterM r).reflect now r).prog).getS n = t.prog.getS n := by
  have h : SMap.get 0 ((t.enterM r).reflect now r).prog.s n = SMap.get 0 t.prog.s n := by
    unfold Ctx.reflect
    rw [get_s_swapBank, get_bankS_enterM, get_s_enterM]
    by_cases hn : 56 ≤ n ∧ n < 64
    · simp only [if_pos hn]
    · simp only [if_neg hn]
  unfold Prog.getS
  rw [h]

theorem getB_reflect_enterM (now : Nat) : (((t.enterM r).reflect now r).prog).getB n = t.prog.getB n := by
  unfold Prog.getB Ctx.reflect
  rw [get_b_swapBank, get_bankB_enterM, get_b_enterM]
  by_cases hn : n ∈ [6, 7]
  · simp only [if_pos hn]
  · simp only [if_neg hn]

end

/-! ### A context replaced -/

section SetCtx

variable (s : State) (c x : Nat) (t : Ctx)

theorem deviceSame_setCtx : DeviceSame s (s.setCtx c x t) := rfl

theorem coresSame_setCtx : CoresSame s (s.setCtx c x t) := by
  intro d
  rw [State.core_setCtx]
  split
  · next h => subst h; rfl
  · rfl

theorem bytesSame_setCtx : BytesSame s (s.setCtx c x t) := bytesSame_of (deviceSame_setCtx s c x t) (coresSame_setCtx s c x t)

variable {c x} in
theorem ctx_setCtx_ne {d y : Nat} (h : (d, y) ≠ (c, x)) : (s.setCtx c x t).ctx d y = s.ctx d y := by
  rw [State.ctx_setCtx, if_neg]
  rintro ⟨rfl, rfl⟩
  exact h rfl

end SetCtx

/-! ### In flight (R12, R100) -/

section Drained

variable {s : State} {c x : Nat}

/-- What a thread's drain looks at: its registers, claims, digests and accesses (R12). -/
theorem drained_congr {t : State} (he : (t.ctx c x).prog.sEmpty = (s.ctx c x).prog.sEmpty) (hf : (t.ctx c x).fifos = (s.ctx c x).fifos)
    (hd : (t.ctx c x).digests = (s.ctx c x).digests) (ha : (t.ctx c x).accs = (s.ctx c x).accs)
    (hst : (t.core c).streams = (s.core c).streams) : t.drained (.thread c x) = s.drained (.thread c x) := by
  have hc : t.hasClaim (.thread c x) = s.hasClaim (.thread c x) := by
    show ((t.ctx c x).fifos.any _ || (t.core c).streams.any _) = ((s.ctx c x).fifos.any _ || (s.core c).streams.any _)
    rw [hf, hst]
  show ((t.ctx c x).prog.sEmpty == 0 && !t.hasClaim _ && ((t.ctx c x).digests.isEmpty && !(t.ctx c x).accs.any _)) = _
  rw [he, hc, hd, ha]
  rfl

theorem drained_setCtx_prog {p : Prog} (h : p.sEmpty = (s.ctx c x).prog.sEmpty) :
    (s.setProg (.thread c x) p).drained (.thread c x) = s.drained (.thread c x) := by
  refine drained_congr ?_ ?_ ?_ ?_ ?_ <;> simp [State.setProg, h]

theorem entryOk_setCtx {t : Ctx} (h : t.modeM = (s.ctx c x).modeM) (a : DWord) :
    (s.setCtx c x t).entryOk (.thread c x) a = s.entryOk (.thread c x) a := by
  have hw : (s.setCtx c x t).imemWords (.thread c x) = s.imemWords (.thread c x) := by
    show (if ((s.setCtx c x t).ctx c x).modeM = true then s.monCode else ((s.setCtx c x t).core c).imemC) = _
    rw [State.ctx_setCtx_self, h, State.imemC_core_setCtx]
    rfl
  unfold State.entryOk State.startBit State.targetBit State.iword
  rw [hw]

end Drained

/-- The thread's program holds a claim on a FIFO or a stream register. -/
def claimsOf (s : State) (c x : Nat) : Prop :=
  (∃ f ∈ (s.ctx c x).fifos, ∃ k ∈ f.2.claims, k.owner = .thread c x) ∨
    ∃ m ∈ (s.core c).streams, ∃ k ∈ m.2.claims, k.owner = .thread c x

/-- The access is one whose result a register awaits. -/
def loadsReg (a : Acc) : Prop :=
  (∃ r n, a.kind = .ldg r n) ∨ (∃ m o w v y d f u k, a.kind = .gamo m o w v y d f u k) ∨
    (∃ m n r k, a.kind = .adjRead m n r k) ∨ ∃ m n k, a.kind = .restore m n k

theorem pendingResult_iff (a : Acc) : a.pendingResult = true ↔ loadsReg a ∧ a.performed = false := by
  unfold Acc.pendingResult loadsReg
  cases a.kind <;> simp

theorem pendingLine_iff (a : Acc) : a.pendingLine = true ↔ (∃ n, a.kind = .ldl n) ∨ (∃ m n, a.kind = .line m n) ∧ a.done = false := by
  unfold Acc.pendingLine
  cases a.kind <;> simp

theorem hasClaim_iff {s : State} {c x : Nat} : s.hasClaim (.thread c x) = true ↔ claimsOf s c x := by
  show ((s.ctx c x).fifos.any _ || (s.core c).streams.any _) = true ↔ _
  simp only [claimsOf, Bool.or_eq_true, List.any_eq_true, decide_eq_true_eq]

theorem drained_iff {s : State} {c x : Nat} : s.drained (.thread c x) = true ↔
    (s.ctx c x).prog.sEmpty = 0 ∧ ¬ claimsOf s c x ∧ (s.ctx c x).digests = [] ∧
      ∀ a ∈ (s.ctx c x).accs, a.pendingLine = false ∧ a.pendingResult = false := by
  show ((s.ctx c x).prog.sEmpty == 0 && !s.hasClaim _ && ((s.ctx c x).digests.isEmpty && !(s.ctx c x).accs.any _)) = true ↔ _
  rw [← hasClaim_iff]
  simp [and_assoc]

/-! ### Reflection (R100) -/

/-- A thread's context with a trap that stands. -/
def standing (t : Ctx) (r : TrapReq) : Ctx := { t with prog := { t.prog with trapping := some r } }

theorem setProg_standing (s : State) (c x : Nat) (r : TrapReq) :
    s.setProg (.thread c x) { s.prog (.thread c x) with trapping := some r } = s.setCtx c x (standing (s.ctx c x) r) := rfl

theorem raise_of_drained {s : State} {c x : Nat} (h : s.drained (.thread c x) = true) (r : TrapReq) :
    s.raise (.thread c x) r = (s.setCtx c x (standing (s.ctx c x) r)).enterTrap c x r := by
  refine State.raise_enters ?_
  rw [drained_setCtx_prog]
  · exact h
  · rfl

theorem reflected_setCtx (s : State) (c x : Nat) (r : TrapReq) (hM : (s.ctx c x).modeM = false) :
    Reflected s (s.setCtx c x (((standing (s.ctx c x) r).enterM r).reflect s.now r)) c x r := by
  refine
    { device := deviceSame_setCtx ..
      cores := coresSame_setCtx s c x _
      others := fun d y h => ctx_setCtx_ne s _ h
      slots := fun d k => State.slot_setCtx ..
      arcs := fun d => State.arc_setCtx ..
      bytes := bytesSame_setCtx ..
      tcause := ?_, tval := ?_, tpc := ?_, tstate := ?_, monitor := ?_, level := ?_, fetch := ?_, aside := ?_, regs := ?_, links := ?_
      state := ?_ } <;> rw [State.ctx_setCtx_self]
  · rfl
  · rfl
  · rfl
  · rfl
  · exact ⟨rfl, rfl, rfl⟩
  · exact ⟨rfl, rfl, rfl⟩
  · exact ⟨rfl, rfl, rfl, rfl, rfl⟩
  · rfl
  · exact fun n => getS_reflect_enterM _ _ n _
  · exact fun n => getB_reflect_enterM _ _ n _
  · exact ⟨rfl, rfl, rfl, rfl, rfl, rfl, rfl, rfl⟩

theorem raise_reflects {s : State} {c x : Nat} (h : Reflects s c x) {r : TrapReq} (hr : r.cause.reflects = true) :
    Reflected s (s.raise (.thread c x) r) c x r := by
  obtain ⟨hM, hH, hv, he, hd⟩ := h
  have hx : (s.setCtx c x (standing (s.ctx c x) r)).ctx c x = standing (s.ctx c x) r := State.ctx_setCtx_self ..
  have hentry := (entryOk_setCtx (s := s) (c := c) (x := x) (t := standing (s.ctx c x) r) rfl (s.ctx c x).tvec).trans he
  rw [raise_of_drained hd, State.enterTrap_reflects (hx.symm ▸ hM) (hx.symm ▸ hH) hr (hx.symm ▸ hv) (hx.symm ▸ hentry), hx, setCtx_setCtx]
  exact reflected_setCtx s c x r hM

theorem tryTrap_reflects {s : State} {c x : Nat} (h : Reflects s c x) {r : TrapReq} (ht : (s.ctx c x).prog.trapping = some r)
    (hr : r.cause.reflects = true) : Reflected s (s.tryTrap (.thread c x)) c x r := by
  obtain ⟨hM, hH, hv, he, hd⟩ := h
  have hs : standing (s.ctx c x) r = s.ctx c x := by
    rw [standing, ← ht]
  have hst := reflected_setCtx s c x r hM
  rw [hs] at hst
  unfold State.tryTrap
  rw [show (s.prog (.thread c x)).trapping = some r from ht]
  simp only [hd, if_true, State.enterTrap_reflects hM hH hr hv he]
  exact hst

theorem exec_undefinedMop {s : State} {cause : Cause} {tval tpc : DWord} :
    exec (.undefinedMop cause tval tpc) s = .next ((fresh s).raise s.cur ⟨cause, tval, tpc, (s.prog s.cur).pend⟩) := rfl
theorem exec_trapEntry {s : State} : exec .trapEntry s = .next (s.tryTrap (.thread s.target.core s.target.unit)) := rfl
theorem exec_trap {s : State} {code : BitVec 24} : exec (.trap code) s = execTrap code s := rfl

/-- `TRAP` retires, and raises its trap from where flow goes on (R84, R99). -/
theorem trap_raises {s : State} {code : BitVec 24} (hs : Stands s 1 .any) :
    exec (.trap code) s =
      let p := (s.prog s.cur).advanceTrap (seqNext (s.prog s.cur).pc 1)
      .next ((((fresh s).countRetired s.cur).setProg s.cur { p with pend := none }).raise s.cur
        ⟨.trapi, BitVec.ofNat 64 code.toNat, p.pc, p.pend⟩) := by
  rw [exec_trap, execTrap, issue_eq hs rfl (by intro f; simp)]
  simp only [finish, State.prog_countRetired, State.prog_stalled, State.pcOf, zx64, BitVec.ofNat_toNat]
  rfl

theorem advanceTrap_rest (p : Prog) (n : DWord) : (p.advanceTrap n).sEmpty = p.sEmpty := by
  unfold Prog.advanceTrap
  split <;> rfl

/-! ### Disposal (R350) -/

theorem ctx_setCore (s : State) (c d y : Nat) (k : Core) :
    (s.setCore c k).ctx d y = if d = c then SMap.get {} k.ctxs y else s.ctx d y := by
  unfold State.ctx
  rw [State.core_setCore]
  split <;> rfl

/-- A core whose contexts are as before. -/
theorem ctx_setCore_same {s : State} {c : Nat} {k : Core} (h : k.ctxs = (s.core c).ctxs) (d y : Nat) :
    (s.setCore c k).ctx d y = s.ctx d y := by
  rw [ctx_setCore, h]
  split
  · next e => rw [e]; rfl
  · rfl

/-- A thread that is disposed of ends as `HALT` does. -/
def disposed (t : Ctx) (r : TrapReq) : Ctx :=
  { t with prog := { t.prog with hold := some (.halting 0 (some r)), trapping := none, pend := none } }

/-- The items of a core once a thread of it is disposed of. -/
def failItems (is : List Item) (x : Nat) (r : TrapReq) : List Item :=
  is.map (fun i => if !i.running && i.failing.isNone && (r.cause == .digest || i.owner == x) then { i with failing := some r.cause } else i)

theorem dispose_eq (s : State) (c x : Nat) (r : TrapReq) :
    s.dispose c x r =
      let s1 := s.setCtx c x (disposed (s.ctx c x) r)
      s1.setCore c { s1.core c with items := failItems (s1.core c).items x r } := rfl

theorem dispose_ctx (s : State) (c x : Nat) (r : TrapReq) (d y : Nat) :
    (s.dispose c x r).ctx d y = (s.setCtx c x (disposed (s.ctx c x) r)).ctx d y := by
  rw [dispose_eq]
  refine ctx_setCore_same ?_ d y
  rfl

theorem bytesSame_trans {s t u : State} (h : BytesSame s t) (k : BytesSame t u) : BytesSame s u :=
  ⟨fun a => (k.hbm a).trans (h.hbm a), fun a => (k.host a).trans (h.host a), fun c a => (k.spad c a).trans (h.spad c a),
    fun c a => (k.scale c a).trans (h.scale c a)⟩

theorem bytesSame_setCore {s : State} {c : Nat} {k : Core} (hs : k.spad = (s.core c).spad) (hm : k.scaleMem = (s.core c).scaleMem) :
    BytesSame s (s.setCore c k) := by
  refine ⟨fun _ => rfl, fun _ => rfl, fun d a => ?_, fun d a => ?_⟩
  · rw [State.core_setCore]
    split
    · next h => rw [h, hs]
    · rfl
  · rw [State.core_setCore]
    split
    · next h => rw [h, hm]
    · rfl

theorem dispose_bytes (s : State) (c x : Nat) (r : TrapReq) : BytesSame s (s.dispose c x r) := by
  rw [dispose_eq]
  exact bytesSame_trans (bytesSame_setCtx s c x _) (bytesSame_setCore rfl rfl)

theorem dispose_items {s : State} {c x : Nat} {r : TrapReq} {i : Item} (hi : i ∈ (s.core c).items) (hr : i.running = false)
    (hf : i.failing = none) (ho : i.owner = x) : { i with failing := some r.cause } ∈ ((s.dispose c x r).core c).items := by
  rw [dispose_eq]
  simp only [State.core_setCore_self, State.items_core_setCtx, failItems, List.mem_map]
  exact ⟨i, hi, by simp [hr, hf, ho]⟩

/-- At level U without a handler, a trap disposes of the thread, the firmware's own causes apart (R350). -/
theorem enterTrap_disposes {s : State} {c x : Nat} {r : TrapReq} (hp : r.cause ≠ .preempt) (ht : r.cause ≠ .timer)
    (hM : (s.ctx c x).modeM = false) (h : (s.ctx c x).modeH = true ∨ (s.ctx c x).tvec = 0 ∨ r.cause.reflects = false) :
    s.enterTrap c x r = { (s.setCtx c x ((s.ctx c x).enterM r)).dispose c x r with draws := s.draws + 1 } := by
  have hno : ¬ (r.cause.reflects && !(s.ctx c x).modeH && (s.ctx c x).tvec != 0 && s.entryOk (.thread c x) (s.ctx c x).tvec) = true := by
    rcases h with h | h | h <;> simp [h]
  unfold State.enterTrap
  simp only [hM, if_neg hno]
  rw [if_neg (by decide), if_neg]
  rintro ⟨h1 | h1, -⟩
  · exact hp h1
  · exact ht h1

/-- A drained thread with no handler to reflect to is disposed of at level M (R350). -/
theorem raise_disposes {s : State} {c x : Nat} {r : TrapReq} (hd : s.drained (.thread c x) = true) (hp : r.cause ≠ .preempt)
    (ht : r.cause ≠ .timer)
    (h : (s.ctx c x).modeM = true ∨ (s.ctx c x).modeH = true ∨ (s.ctx c x).tvec = 0 ∨ r.cause.reflects = false) :
    ∃ (m : Ctx) (n : Nat), m.modeM = true ∧ s.raise (.thread c x) r = { (s.setCtx c x m).dispose c x r with draws := n } := by
  have hx : (s.setCtx c x (standing (s.ctx c x) r)).ctx c x = standing (s.ctx c x) r := State.ctx_setCtx_self ..
  rw [raise_of_drained hd]
  cases hM : (s.ctx c x).modeM with
  | true =>
    refine ⟨standing (s.ctx c x) r, s.draws, hM, ?_⟩
    rw [State.enterTrap_levelM r (hx.symm ▸ hM)]
    rfl
  | false =>
    refine ⟨(standing (s.ctx c x) r).enterM r, s.draws + 1, rfl, ?_⟩
    have h' : (s.ctx c x).modeH = true ∨ (s.ctx c x).tvec = 0 ∨ r.cause.reflects = false :=
      h.resolve_left (by rw [hM]; decide)
    rw [enterTrap_disposes hp ht (hx.symm ▸ hM) (by rw [hx]; exact h'), hx, setCtx_setCtx]
    rfl

/-! ### The word of a pending transfer (R98) -/

/-- A mask of k bits from bit j keeps those bits of a number. -/
theorem toNat_and_mask (v : DWord) {k j : Nat} (h : k + j ≤ 64) :
    (v &&& BitVec.ofNat 64 ((2 ^ k - 1) * 2 ^ j)).toNat = v.toNat / 2 ^ j % 2 ^ k * 2 ^ j := by
  have hlt : (2 ^ k - 1) * 2 ^ j < 2 ^ 64 := by
    calc (2 ^ k - 1) * 2 ^ j < 2 ^ k * 2 ^ j := Nat.mul_lt_mul_of_pos_right (Nat.sub_lt (Nat.two_pow_pos k) one_pos) (Nat.two_pow_pos j)
      _ = 2 ^ (k + j) := (Nat.pow_add ..).symm
      _ ≤ 2 ^ 64 := Nat.pow_le_pow_right two_pos h
  refine Nat.eq_of_testBit_eq fun i => ?_
  rw [BitVec.toNat_and, BitVec.toNat_ofNat, Nat.mod_eq_of_lt hlt, Nat.testBit_and, Nat.testBit_mul_two_pow, Nat.testBit_mul_two_pow,
    Nat.testBit_mod_two_pow, Nat.testBit_div_two_pow, Nat.testBit_two_pow_sub_one]
  by_cases hj : j ≤ i
  · simp [hj, Bool.and_comm]
  · simp [hj]

section PackXfer

variable (x : Xfer) (rev : Bool)

theorem code_lt (k : XKind) : k.code ≤ 2 := by cases k <;> decide

theorem bit_le (b : Bool) : bit b ≤ 1 := by cases b <;> decide

/-- The fields of the word, one by one. -/
theorem packXfer_fields (hs : x.slots ≤ 2) :
    let n := (packXfer (some x) rev).toNat
    n / 2 ^ 24 = x.xaddr.toNat / 4 % 2 ^ 15 ∧ n / 2 ^ 23 % 2 = bit rev ∧ n / 2 ^ 21 % 4 = x.kind.code ∧ n / 2 ^ 19 % 4 = x.slots ∧
      n / 2 ^ 18 % 2 = bit x.taken ∧ n / 2 ^ 17 % 2 = 1 ∧ n % 2 ^ 17 = x.dest.toNat / 4 % 2 ^ 15 * 4 := by
  have hk := code_lt x.kind
  have h1 := bit_le rev
  have h2 := bit_le x.taken
  simp only [packXfer, BitVec.toNat_ofNat]
  omega

end PackXfer

theorem unpack_pack {x : Xfer} {rev : Bool} (hs : x.slots ≤ 2) (hd : x.dest.toNat < 2 ^ 17) (hd4 : x.dest.toNat % 4 = 0)
    (ha : x.xaddr.toNat < 2 ^ 17) (ha4 : x.xaddr.toNat % 4 = 0) : unpackXfer (packXfer (some x) rev) = some x := by
  obtain ⟨h24, -, h21, h19, h18, h17, h0⟩ := packXfer_fields x rev hs
  unfold unpackXfer
  simp only [if_pos h17, h21, h19, h18]
  obtain ⟨kind, xaddr, dest, taken, slots⟩ := x
  congr 2
  · cases kind <;> rfl
  · refine BitVec.eq_of_toNat_eq ?_
    rw [BitVec.toNat_ofNat, h24]
    simp only at ha ha4 ⊢
    omega
  · refine BitVec.eq_of_toNat_eq ?_
    rw [BitVec.toNat_ofNat]
    simp only at h0 hd hd4 ⊢
    omega
  · cases taken <;> rfl

theorem getLsbD_packXfer {x : Xfer} {rev : Bool} (hs : x.slots ≤ 2) : (packXfer (some x) rev).getLsbD 23 = rev := by
  obtain ⟨-, h23, -⟩ := packXfer_fields x rev hs
  rw [BitVec.getLsbD, Nat.testBit_eq_decide_div_mod_eq, h23]
  cases rev <;> rfl

theorem valid_packXfer {x : Xfer} {rev : Bool} (hs : x.slots ≤ 2) : xferInvalid (packXfer (some x) rev) = false := by
  obtain ⟨-, -, h21, h19, -⟩ := packXfer_fields x rev hs
  have hk := code_lt x.kind
  unfold xferInvalid
  rw [h21, h19]
  simp only [Bool.or_eq_false_iff, beq_eq_false_iff_ne]
  omega

theorem packXfer_masked {x : Xfer} {rev : Bool} (hs : x.slots ≤ 2) :
    packXfer (some x) rev &&& 0x7FFFFFFFFC = packXfer (some x) rev := by
  obtain ⟨h24, -, -, -, -, -, h0⟩ := packXfer_fields x rev hs
  refine BitVec.eq_of_toNat_eq ?_
  rw [show (0x7FFFFFFFFC : DWord) = BitVec.ofNat 64 ((2 ^ 37 - 1) * 2 ^ 2) from rfl, toNat_and_mask _ (by decide)]
  omega

theorem unpack_none (rev : Bool) : unpackXfer (packXfer none rev) = none := by
  cases rev <;> rfl

/-- Settles O9: a drained thread enters its trap at once, one with a result in flight lets it stand. -/
theorem trapsReflected : Obligations.TrapsReflected := by
  unfold Obligations.TrapsReflected
  refine ⟨⟨?_, ?_, ?_⟩, ?_⟩
  · intro s c x cause tval tpc hq hr hc
    refine ⟨_, exec_undefinedMop, ?_⟩
    rw [hq]
    exact raise_reflects (s := fresh s) hr hc
  · intro s c x r hc hx ht hr hcause
    refine ⟨_, exec_trapEntry, ?_⟩
    rw [hc, hx]
    exact tryTrap_reflects hr ht hcause
  · intro s c x code hq hs hr p s1
    refine ⟨_, trap_raises hs, ?_⟩
    obtain ⟨hM, hH, hv, he, hd⟩ := hr
    obtain ⟨t, ht, ht1, ht2, ht3, ht4⟩ : ∃ t, s1 = (fresh s).setCtx c x t ∧ t.modeM = (s.ctx c x).modeM ∧
        t.modeH = (s.ctx c x).modeH ∧ t.tvec = (s.ctx c x).tvec ∧ t.prog.sEmpty = (s.ctx c x).prog.sEmpty ∧
        t.fifos = (s.ctx c x).fifos ∧ t.digests = (s.ctx c x).digests ∧ t.accs = (s.ctx c x).accs := by
      refine ⟨{ s.ctx c x with prog := { p with pend := none }, instret := (s.ctx c x).instret + 1 }, ?_, rfl, rfl, rfl, ?_, rfl, rfl, rfl⟩
      · show ((fresh s).countRetired s.cur).setProg s.cur _ = _
        rw [hq]
        simp only [State.countRetired, State.setProg, State.ctx_setCtx_self, setCtx_setCtx]
        rfl
      · show ((s.prog s.cur).advanceTrap _).sEmpty = _
        rw [advanceTrap_rest, hq]
        rfl
    obtain ⟨hse, hf, hdg, hacc⟩ := ht4
    have hctx : s1.ctx c x = t := by rw [ht, State.ctx_setCtx_self]
    have hrefl : Reflects s1 c x := by
      refine ⟨?_, ?_, ?_, ?_, ?_⟩
      · rw [hctx, ht1, hM]
      · rw [hctx, ht2, hH]
      · rw [hctx, ht3]; exact hv
      · rw [hctx, ht3, ht]
        exact (entryOk_setCtx (s := fresh s) ht1 _).trans he
      · refine (drained_congr (s := s) ?_ ?_ ?_ ?_ ?_).trans hd
        · rw [hctx, hse]
        · rw [hctx, hf]
        · rw [hctx, hdg]
        · rw [hctx, hacc]
        · rw [ht, State.streams_core_setCtx]; rfl
    have := raise_reflects hrefl (r := ⟨.trapi, BitVec.ofNat 64 code.toNat, p.pc, p.pend⟩) rfl
    show Reflected s1 (s1.raise s.cur ⟨.trapi, _, p.pc, p.pend⟩) c x _
    rw [hq]
    exact this
  · intro s c x cause tval tpc hq t q claims loads line
    refine ⟨fun hd => ?_, fun h => ?_, fun h1 h2 h3 h4 => ?_⟩
    · rw [exec_undefinedMop, hq, State.raise_waits]
      · rfl
      · rw [drained_setCtx_prog]
        · exact hd
        · rfl
    · refine Bool.eq_false_iff.mpr fun hd => ?_
      obtain ⟨d1, d2, d3, d4⟩ := drained_iff.mp hd
      rcases h with h | h | h | ⟨a, ha, hl, hp⟩
      · exact h d1
      · exact d2 h
      · exact h d3
      · exact absurd ((pendingResult_iff a).mpr ⟨hl, hp⟩) (by simp [(d4 a ha).2])
    · refine drained_iff.mpr ⟨h1, h2, h3, fun a ha => ⟨Bool.eq_false_iff.mpr fun hl => ?_, Bool.eq_false_iff.mpr fun hr => ?_⟩⟩
      · rcases (pendingLine_iff a).mp hl with ⟨n, hn⟩ | ⟨hn, hdone⟩
        · exact (h4 a ha).2.2 n hn
        · exact absurd ((h4 a ha).2.1 hn) (by simp [hdone])
      · obtain ⟨hl, hp⟩ := (pendingResult_iff a).mp hr
        exact absurd ((h4 a ha).1 hl) (by simp [hp])

/-- Settles O10: disposal, and the word of a transfer by its fields. -/
theorem trapsDisposed : Obligations.TrapsDisposed := by
  unfold Obligations.TrapsDisposed
  refine ⟨?_, ?_⟩
  · intro s c x cause tval tpc hq hd hp ht h
    obtain ⟨m, n, hm, he⟩ := raise_disposes (s := fresh s) (r := ⟨cause, tval, tpc, (s.ctx c x).prog.pend⟩) hd hp ht h
    have hb := bytesSame_trans (bytesSame_setCtx (fresh s) c x m) (dispose_bytes _ c x ⟨cause, tval, tpc, (s.ctx c x).prog.pend⟩)
    have hctx := dispose_ctx ((fresh s).setCtx c x m) c x ⟨cause, tval, tpc, (s.ctx c x).prog.pend⟩
    refine ⟨_, exec_undefinedMop, ?_⟩
    rw [hq]
    rw [show s.prog (.thread c x) = (s.ctx c x).prog from rfl, he]
    refine ⟨⟨hb.hbm, hb.host, hb.spad, hb.scale⟩, ?_, ?_, fun d y hne => ?_, fun i hi hir hif hio => ?_⟩
    · exact (congrArg Ctx.modeM ((hctx c x).trans (State.ctx_setCtx_self ..))).trans (by rw [State.ctx_setCtx_self]; exact hm)
    · exact congrArg (fun t : Ctx => t.prog.hold) ((hctx c x).trans (State.ctx_setCtx_self ..))
    · refine (hctx d y).trans ?_
      rw [ctx_setCtx_ne _ _ hne, ctx_setCtx_ne _ _ hne]
      rfl
    · refine dispose_items ?_ hir hif hio
      rw [State.items_core_setCtx]
      exact hi
  · intro x rev hs hd hd4 ha ha4
    exact ⟨unpack_pack hs hd hd4 ha ha4, getLsbD_packXfer hs, valid_packXfer hs, packXfer_masked hs, unpack_none rev⟩

end Sys2Proof.Proofs.Traps
end

section
/-! PROOFS. The return from a handler and from the monitor (R102, R349). -/

namespace Sys2Proof.Proofs.Return

open Sys2Proof.Machine
open Sys2Proof.Safety
open Sys2Proof.Proofs.Transfers
open Sys2Proof.Proofs.Flow
open Sys2Proof.Proofs.Tokens
open Sys2Proof.Proofs.Traps

/-! ### Where flow resumes -/

section Resume

variable (p : Prog) (pc : DWord) (x : Option Xfer)

theorem resume_rest (f : Bool) : (p.resume f pc x).s = p.s ∧ (p.resume f pc x).b = p.b ∧ (p.resume f pc x).sEmpty = p.sEmpty := by
  unfold Prog.resume
  split
  · exact ⟨rfl, rfl, rfl⟩
  · split
    · next y h =>
      obtain ⟨h1, h2, h3, -⟩ := takeXfer_rest { p with pc := pc, arrive := .plain } f y
      exact ⟨h1, h2, h3⟩
    · exact ⟨rfl, rfl, rfl⟩

theorem getS_of_s {p p' : Prog} (h : p.s = p'.s) (n : Nat) : p.getS n = p'.getS n := by
  rw [Prog.getS, h]; rfl

theorem getB_of_b {p p' : Prog} (h : p.b = p'.b) (n : Nat) : p.getB n = p'.getB n := by
  rw [Prog.getB, h]; rfl

/-- A slot count of 0 that is one already. -/
theorem slots_zero {y : Xfer} (h : y.slots = 0) : { y with slots := 0 } = y := by
  rw [← h]

theorem resumes_resume (h : Option Hold) : Resumes { p.resume false pc x with hold := h } pc x p.loops := by
  refine ⟨?_, ?_, ?_, ?_⟩
  · rintro rfl
    exact ⟨rfl, rfl, rfl, rfl⟩
  · rintro y rfl hy
    unfold Prog.resume
    simp only [if_neg hy]
    exact ⟨trivial, trivial, trivial, trivial⟩
  · rintro y rfl hy ht
    unfold Prog.resume
    simp only [if_pos hy, Prog.takeXfer, if_pos ht, Bool.false_and]
    rw [if_neg (by decide)]
    refine ⟨rfl, congrArg _ (slots_zero hy), rfl, fun hk => if_neg hk, fun hk k => ?_⟩
    simp only [if_pos hk, leave_order, List.mem_filter, Loops.holds, decide_eq_true_eq]
  · rintro y rfl hy ht hn
    unfold Prog.resume
    simp only [if_pos hy, Prog.takeXfer]
    rw [if_neg (by rw [ht]; decide), loopCheck_of_none (p := { p with pc := pc, arrive := .plain, pend := none }) hn]
    simp only [if_true]
    exact ⟨trivial, congrArg _ (slots_zero hy), trivial, trivial⟩

end Resume

/-! ### The thread's context after `TRET` -/

section Returned

/-- The context of a thread whose `TRET` has issued at a clock. -/
def returned (t : Ctx) (now : Nat) : Ctx :=
  let b := ({ t with instret := t.instret + 1 } : Ctx).beginReturn
  if t.returnSwitches then { b with prog := { b.prog with hold := some .tret } } else b.endReturn now

theorem exec_tret {s : State} : exec .tret s = execTret s := rfl

/-- The return that is refused (R102, R349). -/
def refusesReturn (t : Ctx) : Bool := t.modeM && xferInvalid t.mstate || !t.modeM && (!t.modeH || xferInvalid t.tstate)

variable {s : State} {c x : Nat}

/-- A meaning that says the whole of what happens. -/
theorem whole_of_issue {i : Instr} {s u : State} {len : Nat} {pl : Place} (body : Seqr → State → Res)
    (hi : exec i s = issue s len pl body) (hs : Stands s len pl) (hb : body s.cur (fresh s) = .whole u) : exec i s = .next u :=
  hi.trans (issue_eq hs hb (by intro f; simp))

theorem tret_traps (hq : s.cur = .thread c x) (hs : Stands s 1 .any) (h : refusesReturn (s.ctx c x) = true) :
    Traps .tret s .illegal (s.ctx c x).prog.pc := by
  refine traps_of_issue _ exec_tret hs ?_
  rw [hq]
  exact if_pos h

theorem tret_returns (hq : s.cur = .thread c x) (hs : Stands s 1 .any) (h : refusesReturn (s.ctx c x) = false) :
    exec .tret s = .next ((fresh s).setCtx c x (returned (s.ctx c x) s.now)) := by
  refine whole_of_issue _ exec_tret hs ?_
  rw [hq]
  refine (if_neg (by rw [Bool.not_eq_true]; exact h)).trans ?_
  unfold returned
  cases hsw : (s.ctx c x).returnSwitches with
  | true =>
    refine (if_pos hsw).trans (congrArg Res.whole ?_)
    simp only [State.countRetired, State.setThread, State.thread, State.ownerCtx, Seqr.core, State.holdOn, State.setProg, State.prog,
      State.ctx_setCtx_self, setCtx_setCtx, if_true]
    rfl
  | false =>
    refine (if_neg (show ¬ (s.ctx c x).returnSwitches = true by rw [hsw]; decide)).trans (congrArg Res.whole ?_)
    simp only [State.countRetired, State.setThread, State.thread, State.ownerCtx, Seqr.core,
      State.ctx_setCtx_self, setCtx_setCtx]
    rfl

/-- Nothing but the context changes. -/
theorem tret_frame (T : Ctx) : BytesSame s ((fresh s).setCtx c x T) ∧ DeviceSame s ((fresh s).setCtx c x T) ∧
    CoresSame s ((fresh s).setCtx c x T) ∧ (∀ d y, (d, y) ≠ (c, x) → ((fresh s).setCtx c x T).ctx d y = s.ctx d y) ∧
    (∀ d k, ((fresh s).setCtx c x T).slot d k = s.slot d k) ∧ ∀ d, ((fresh s).setCtx c x T).arc d = s.arc d := by
  have hd : DeviceSame s ((fresh s).setCtx c x T) := rfl
  have hc : CoresSame s ((fresh s).setCtx c x T) := coresSame_setCtx (fresh s) c x T
  exact ⟨bytesSame_of hd hc, hd, hc, fun d y h => ctx_setCtx_ne (fresh s) T h, fun d k => State.slot_setCtx (fresh s) ..,
    fun d => State.arc_setCtx (fresh s) ..⟩

end Returned

theorem xferInvalid_iff (t : DWord) : xferInvalid t = true ↔ t.toNat / 2 ^ 19 % 4 = 3 ∨ t.toNat / 2 ^ 21 % 4 = 3 := by
  simp [xferInvalid]

section LevelU

variable {t : Ctx} (h : t.modeM = false) (now : Nat)

include h

theorem refusesReturn_U : refusesReturn t = true ↔ t.modeH = false ∨ t.tstate.toNat / 2 ^ 19 % 4 = 3 ∨ t.tstate.toNat / 2 ^ 21 % 4 = 3 := by
  rw [← xferInvalid_iff]
  simp [refusesReturn, h]

/-- The context that a return from a handler begins with (R102). -/
theorem beginReturn_U : ({ t with instret := t.instret + 1 } : Ctx).beginReturn =
    { t with instret := t.instret + 1, modeH := false, asideH := {}, prog := { t.prog with loops := t.asideH, pend := none } } := by
  unfold Ctx.beginReturn
  exact if_neg (by rw [show ({ t with instret := t.instret + 1 } : Ctx).modeM = t.modeM from rfl, h]; decide)

theorem returnSwitches_U : t.returnSwitches = true ↔ t.tstate.getLsbD 23 ≠ t.modeRev := by
  unfold Ctx.returnSwitches
  rw [if_neg (by rw [h]; decide), bne_iff_ne]

theorem returned_U_waits (hsw : t.tstate.getLsbD 23 ≠ t.modeRev) : returned t now =
    { t with instret := t.instret + 1, modeH := false, asideH := {}
             prog := { t.prog with loops := t.asideH, pend := none, hold := some .tret } } := by
  unfold returned
  rw [if_pos ((returnSwitches_U h).mpr hsw), beginReturn_U h]

theorem returned_U_done (hsw : t.tstate.getLsbD 23 = t.modeRev) : returned t now =
    { t with instret := t.instret + 1, modeM := false, modeH := false, modeRev := t.tstate.getLsbD 23, asideH := {}
             prog := { ({ t.prog with loops := t.asideH, pend := none } : Prog).resume false t.tpc (unpackXfer t.tstate) with
                       hold := some (.clock (now + 16)) } } := by
  unfold returned
  rw [if_neg (fun hc => (returnSwitches_U h).mp hc hsw), beginReturn_U h]
  unfold Ctx.endReturn
  simp only [h]
  rfl

end LevelU

section LevelM

variable {t : Ctx} (h : t.modeM = true) (now : Nat)

include h

theorem refusesReturn_M : refusesReturn t = true ↔ t.mstate.toNat / 2 ^ 19 % 4 = 3 ∨ t.mstate.toNat / 2 ^ 21 % 4 = 3 := by
  rw [← xferInvalid_iff]
  simp [refusesReturn, h]

/-- The context that a return from the monitor begins with (R348, R349). -/
theorem beginReturn_M : ({ t with instret := t.instret + 1 } : Ctx).beginReturn =
    { t.swapBank with instret := t.instret + 1, asideM := {}, prog := { t.swapBank.prog with loops := t.asideM, pend := none } } := by
  unfold Ctx.beginReturn
  exact if_pos h

theorem returnSwitches_M : t.returnSwitches = true ↔ t.mmode.getLsbD 0 ≠ t.modeRev := by
  unfold Ctx.returnSwitches
  rw [if_pos h, bne_iff_ne]

theorem returned_M_waits (hsw : t.mmode.getLsbD 0 ≠ t.modeRev) : returned t now =
    { t.swapBank with instret := t.instret + 1, asideM := {}
                      prog := { t.swapBank.prog with loops := t.asideM, pend := none, hold := some .tret } } := by
  unfold returned
  rw [if_pos ((returnSwitches_M h).mpr hsw), beginReturn_M h]

theorem returned_M_done (hsw : t.mmode.getLsbD 0 = t.modeRev) : returned t now =
    { t.swapBank with instret := t.instret + 1, asideM := {}, modeM := false, modeH := t.mmode.getLsbD 1, modeRev := t.mmode.getLsbD 0
                      prog := { ({ t.swapBank.prog with loops := t.asideM, pend := none } : Prog).resume false t.mpc (unpackXfer t.mstate)
                                with hold := some (.clock (now + 16)) } } := by
  unfold returned
  rw [if_neg (fun hc => (returnSwitches_M h).mp hc hsw), beginReturn_M h]
  unfold Ctx.endReturn
  simp only [show t.swapBank.modeM = true from h, if_true]
  rfl

end LevelM

/-- The s and b registers of the thread's own that come back from the monitor's bank (R348). -/
theorem banked {t : Ctx} {p : Prog} (hs : p.s = t.swapBank.prog.s) (hb : p.b = t.swapBank.prog.b) :
    (∀ n, n < 56 → p.getS n = t.prog.getS n) ∧ (∀ n, 56 ≤ n → n < 64 → p.getS n = SMap.get 0 t.bankS n) ∧
      (∀ n, n < 6 → p.getB n = t.prog.getB n) ∧ ∀ n, 6 ≤ n → n < 8 → p.getB n = SMap.get 0 t.bankB n := by
  refine ⟨fun n hn => ?_, fun n h1 h2 => ?_, fun n hn => ?_, fun n h1 h2 => ?_⟩
  · rw [Prog.getS, Prog.getS, hs, get_s_swapBank, if_neg (show ¬ (56 ≤ n ∧ n < 64) by omega)]
  · rw [Prog.getS, if_neg (by omega), hs, get_s_swapBank, if_pos ⟨h1, h2⟩]
  · rw [Prog.getB, hb, get_b_swapBank, if_neg (by simp; omega)]
    rfl
  · rw [Prog.getB, hb, get_b_swapBank, if_pos (by simp; omega)]

/-- Settles O11: the context that each level's return leaves, and the frame around it. -/
theorem returns : Obligations.Returns := by
  unfold Obligations.Returns
  refine ⟨?_, ?_⟩
  · intro s c x hq hs hM t bad
    refine ⟨fun h => tret_traps hq hs ((refusesReturn_U hM).mpr h), fun h => ?_⟩
    obtain ⟨f1, f2, f3, f4, f5, f6⟩ := tret_frame (s := s) (c := c) (x := x) (returned t s.now)
    refine ⟨_, tret_returns hq hs (Bool.eq_false_iff.mpr fun hc => h ((refusesReturn_U hM).mp hc)), f1, f2, f3, f4, f5, f6, ?_⟩
    rw [State.ctx_setCtx_self]
    have ht : { t with modeM := false } = t := by rw [← hM]
    by_cases hsw : t.tstate.getLsbD 23 = t.modeRev
    · obtain ⟨r1, r2, r3⟩ := resume_rest { t.prog with loops := t.asideH, pend := none } t.tpc (unpackXfer t.tstate) false
      rw [show s.ctx c x = t from rfl, returned_U_done hM s.now hsw]
      exact ⟨ht, rfl, rfl, getS_of_s r1, getB_of_b r2, r3, fun _ => ⟨hsw, rfl, resumes_resume _ _ _ _⟩, fun hc => absurd hsw hc⟩
    · rw [show s.ctx c x = t from rfl, returned_U_waits hM s.now hsw]
      exact ⟨rfl, rfl, rfl, fun _ => rfl, fun _ => rfl, rfl, fun hc => absurd hc hsw, fun _ => ⟨rfl, rfl, rfl, rfl⟩⟩
  · intro s c x hq hs hM t bad
    refine ⟨fun h => tret_traps hq hs ((refusesReturn_M hM).mpr h), fun h => ?_⟩
    obtain ⟨f1, f2, f3, f4, -, -⟩ := tret_frame (s := s) (c := c) (x := x) (returned t s.now)
    refine ⟨_, tret_returns hq hs (Bool.eq_false_iff.mpr fun hc => h ((refusesReturn_M hM).mp hc)), f1, f2, f3, f4, ?_⟩
    rw [State.ctx_setCtx_self]
    by_cases hsw : t.mmode.getLsbD 0 = t.modeRev
    · obtain ⟨r1, r2, -⟩ := resume_rest { t.swapBank.prog with loops := t.asideM, pend := none } t.mpc (unpackXfer t.mstate) false
      rw [show s.ctx c x = t from rfl, returned_M_done hM s.now hsw]
      obtain ⟨b1, b2, b3, b4⟩ := banked r1 r2
      exact ⟨b1, b2, b3, b4, rfl, rfl, rfl, rfl, fun _ => ⟨rfl, rfl, rfl, rfl, resumes_resume _ _ _ _⟩, fun hc => absurd hsw hc⟩
    · rw [show s.ctx c x = t from rfl, returned_M_waits hM s.now hsw]
      obtain ⟨b1, b2, b3, b4⟩ := banked (t := t) (p := t.swapBank.prog) rfl rfl
      exact ⟨b1, b2, b3, b4, rfl, rfl, rfl, rfl, fun hc => absurd hc hsw, fun _ => ⟨hM, rfl, rfl, rfl, rfl⟩⟩

end Sys2Proof.Proofs.Return
end

section
/-! PROOFS. Forked programs: `FORK.V`, `FORK.A`, `RDV`, and the ways in which a program ends (R116 to R118, R166, R305). -/

namespace Sys2Proof.Proofs.Forks

open Sys2Proof.Machine
open Sys2Proof.Safety
open Sys2Proof.Proofs.Flow
open Sys2Proof.Proofs.Ready
open Sys2Proof.Proofs.Traps

section Fork

variable {s : State} {c x : Nat} {d a b : Reg}

theorem exec_forkV : exec (.forkV d a b) s = execForkV d a b s := rfl
theorem exec_forkA : exec (.forkA d a b) s = execForkA d a b s := rfl
theorem exec_rdv : exec (.rdv d a) s = execRdv d a s := rfl

/-- The context of a program that the thread forks (R116). -/
theorem forkProg_eq (e f g : DWord) : forkProg e f g (tidOf c x) =
    { pc := e, arrive := .fork f, s := [(1, g), (2, BitVec.ofNat 64 (24 * c + x)), (63, 0x20000)] } := by
  rw [forkProg, tidOf, Nat.mul_comm]
  rfl

theorem freeSlot_none (h : ∀ k, k < 4 → (s.slot c k).owner ≠ none) : s.freeSlot c = none := by
  refine List.find?_eq_none.mpr fun k hk => ?_
  rw [Option.isNone_iff_eq_none]
  exact h k (by revert hk; simp; omega)

/-- The slot that a fork claims is the lowest free one. -/
theorem freeSlot_some {k : Nat} (hk : k < 4) (hf : (s.slot c k).owner = none) (hlow : ∀ j, j < k → (s.slot c j).owner ≠ none) :
    s.freeSlot c = some k := by
  have hno : ∀ j, j < k → ((s.slot c j).owner.isNone = false) := fun j hj => by
    rw [← Bool.not_eq_true, Option.isNone_iff_eq_none]; exact hlow j hj
  have hk' : (s.slot c k).owner.isNone = true := Option.isNone_iff_eq_none.mpr hf
  unfold State.freeSlot
  obtain rfl | rfl | rfl | rfl : k = 0 ∨ k = 1 ∨ k = 2 ∨ k = 3 := by omega
  · simp [hk']
  · simp [hk', hno 0]
  · simp [hk', hno 0, hno 1]
  · simp [hk', hno 0, hno 1, hno 2]

end Fork

/-! ### The end of a program -/

section Ends

variable (s : State) (c : Nat)

theorem bytesSame_setSlot (k : Nat) (v : VSlot) : BytesSame s (s.setSlot c k v) := bytesSame_setCore rfl rfl
theorem bytesSame_setArc (a : Arc) : BytesSame s (s.setArc c a) := bytesSame_setCore rfl rfl

variable {s c}

theorem endProgram_vec {k x : Nat} (ho : (s.slot c k).owner = some x) (fault : Bool) (r : Option FaultRec) :
    BytesSame s (s.endProgram (.vec c k) fault r) ∧ (s.endProgram (.vec c k) fault r).slot c k = {} ∧
      ((s.endProgram (.vec c k) fault r).ctx c x).forkV = .ended fault ∧
      ((s.endProgram (.vec c k) fault r).ctx c x).vfr = r.getD (s.ctx c x).vfr := by
  have hx : s.ownerCtx (.vec c k) = x := by simp [State.ownerCtx, ho]
  unfold State.endProgram
  simp only [hx]
  refine ⟨bytesSame_trans (bytesSame_setCtx s c x _) (bytesSame_setSlot _ c k _), State.slot_setSlot_self .., ?_, ?_⟩ <;>
    rw [State.ctx_setSlot, State.ctx_setCtx_self]

theorem endProgram_arc {x : Nat} (ho : (s.arc c).owner = some x) (fault : Bool) (r : Option FaultRec) :
    BytesSame s (s.endProgram (.arc c) fault r) ∧ ((s.endProgram (.arc c) fault r).arc c).owner = none ∧
      ((s.endProgram (.arc c) fault r).ctx c x).forkA = .ended fault ∧
      ((s.endProgram (.arc c) fault r).ctx c x).afr = r.getD (s.ctx c x).afr := by
  have hx : s.ownerCtx (.arc c) = x := by simp [State.ownerCtx, ho]
  unfold State.endProgram
  simp only [hx]
  refine ⟨bytesSame_trans (bytesSame_setCtx s c x _) (bytesSame_setArc _ c _), ?_, ?_, ?_⟩
  · rw [State.arc_setArc_self]
  · rw [State.ctx_setArc, State.ctx_setCtx_self]
  · rw [State.ctx_setArc, State.ctx_setCtx_self]

theorem exec_vectorTrap : exec .vectorTrap s = .next (s.tryTrap (.vec s.target.core s.target.unit)) := rfl
theorem exec_arcadeTrap : exec .arcadeTrap s = .next (s.tryTrap (.arc s.target.core)) := rfl
theorem exec_programEnd : exec .programEnd s = execProgramEnd s := rfl

/-- A drained forked program's trap ends it (R166, R305). -/
theorem tryTrap_vec {k : Nat} {r : TrapReq} (ht : (s.slot c k).prog.trapping = some r) (hd : s.drained (.vec c k) = true) :
    s.tryTrap (.vec c k) = s.endProgram (.vec c k) true (some (packFault r.cause r.val r.pc k r.pend)) := by
  unfold State.tryTrap
  rw [show (s.prog (.vec c k)).trapping = some r from ht]
  exact if_pos hd

theorem tryTrap_arc {r : TrapReq} (ht : (s.arc c).prog.trapping = some r) (hd : s.drained (.arc c) = true) :
    s.tryTrap (.arc c) = s.endProgram (.arc c) true (some (packFault r.cause r.val r.pc 0 r.pend)) := by
  unfold State.tryTrap
  rw [show (s.prog (.arc c)).trapping = some r from ht]
  exact if_pos hd

/-- The program whose end an event of the machine brings. -/
def endingSeqr (t : Target) : Seqr := if t.unit < 4 then .vec t.core t.unit else .arc t.core

theorem programEnd_ends {q : Seqr} (hq : endingSeqr s.target = q) (he : (s.prog q).ending = true) (hd : s.drained q = true) :
    ((s.prog q).trapping ≠ none → exec .programEnd s = .next s) ∧
      ((s.prog q).trapping = none → exec .programEnd s = .next (s.endProgram q false none)) := by
  subst hq
  rw [exec_programEnd]
  refine ⟨fun ht => if_neg ?_, fun ht => if_pos ?_⟩
  · rw [Bool.and_eq_true, Bool.and_eq_true, Option.isNone_iff_eq_none]
    exact fun hc => ht hc.1.2
  · rw [Bool.and_eq_true, Bool.and_eq_true, Option.isNone_iff_eq_none]
    exact ⟨⟨he, ht⟩, hd⟩

end Ends

/-! ### `RDV` (R118) -/

theorem getLsbD_zero_iff (v : DWord) : v.getLsbD 0 = true ↔ v.toNat % 2 = 1 := by
  simp [BitVec.getLsbD]

theorem getLsbD_one_iff (v : DWord) : v.getLsbD 1 = true ↔ v.toNat / 2 % 2 = 1 := by
  rw [BitVec.getLsbD, Nat.testBit_eq_decide_div_mod_eq, decide_eq_true_eq]

theorem ushiftRight_two_eq_zero_iff (v : DWord) : v >>> 2 ≠ 0 ↔ 4 ≤ v.toNat := by
  rw [ne_eq, ← BitVec.toNat_inj, BitVec.toNat_ushiftRight, Nat.shiftRight_eq_div_pow, show (0 : DWord).toNat = 0 from rfl]
  omega

/-- The number that `RDV` gives: which of the programs selected ended by a fault. -/
theorem rdv_number (p q : Bool) (f g : ForkState) :
    bit (p && f == .ended true) + 2 * bit (q && g == .ended true) =
      (if p = true ∧ f = .ended true then 1 else 0) + (if q = true ∧ g = .ended true then 2 else 0) := by
  by_cases h1 : p = true ∧ f = .ended true <;> by_cases h2 : q = true ∧ g = .ended true <;> simp [h1, h2, bit]

/-- Settles O12: forks, joins, and the ends of a forked program. -/
theorem forksAndJoins : Obligations.ForksAndJoins := by
  unfold Obligations.ForksAndJoins
  refine ⟨?_, ?_, ⟨?_, ?_, ?_, ?_⟩, ?_⟩
  · intro s c x d a b hq hs hr t p
    have hp : forkProg (s.getS s.cur a) t.prog.pc (s.getS s.cur b) (tidOf c x) = p := forkProg_eq ..
    have hth : s.thread (.thread c x) = t := rfl
    have hthc : s.thread s.cur = t := by rw [hq]; rfl
    refine ⟨fun h => ?_, fun h hk => ?_, fun k h hk ho hlow => ?_, fun h => ?_, fun h ho => ?_, fun h ho => ?_⟩
    · have := traps_of_ready _ exec_forkV rfl hs hr (c := .illegal) (v := (s.prog s.cur).pc) (if_pos (by rw [fresh_thread, hthc]; exact h))
      rwa [show (s.prog s.cur).pc = t.prog.pc by rw [hq]; rfl] at this
    · refine stalls_of_ready _ exec_forkV rfl hs hr ?_
      simp only [hq, fresh_thread, hth, h]
      rw [if_neg (by simp), show (fresh s).freeSlot (Seqr.thread c x).core = none from freeSlot_none hk]
    · refine retires_of_ready _ exec_forkV rfl hs hr ?_
      have hfree : (fresh s).freeSlot (Seqr.thread c x).core = some k := freeSlot_some (s := fresh s) hk ho hlow
      simp only [hq, fresh_thread, hth, h]
      rw [if_neg (by simp), hfree, ← hp, hq]
      rfl
    · have := traps_of_ready _ exec_forkA rfl hs hr (c := .illegal) (v := (s.prog s.cur).pc) (if_pos (by rw [fresh_thread, hthc]; exact h))
      rwa [show (s.prog s.cur).pc = t.prog.pc by rw [hq]; rfl] at this
    · refine stalls_of_ready _ exec_forkA rfl hs hr ?_
      simp only [hq, fresh_thread, hth, h]
      rw [if_neg (by simp), if_pos (show ((fresh s).arc (Seqr.thread c x).core).owner.isSome = true from Option.isSome_iff_ne_none.mpr ho)]
    · refine retires_of_ready _ exec_forkA rfl hs hr ?_
      simp only [hq, fresh_thread, hth, h]
      rw [if_neg (by simp), if_neg (show ¬ ((fresh s).arc (Seqr.thread c x).core).owner.isSome = true from fun hc => by
        rw [show ((fresh s).arc (Seqr.thread c x).core).owner = none from ho] at hc; cases hc), ← hp, hq]
      simp only [State.setThread, State.arc_setCtx]
      rfl
  · intro s c x d a hq hs hr t v selV selA
    have hth : s.thread s.cur = t := by rw [hq]; rfl
    have hV : (s.getS s.cur a).getLsbD 0 = true ↔ selV := getLsbD_zero_iff _
    have hA : (s.getS s.cur a).getLsbD 1 = true ↔ selA := getLsbD_one_iff _
    have hrunning : ((s.getS s.cur a).getLsbD 0 && t.forkV == .running || (s.getS s.cur a).getLsbD 1 && t.forkA == .running) = true ↔
        selV ∧ t.forkV = .running ∨ selA ∧ t.forkA = .running := by
      rw [Bool.or_eq_true, Bool.and_eq_true, Bool.and_eq_true, beq_iff_eq, beq_iff_eq, hV, hA]
    refine ⟨fun h => ?_, fun h hrun => ?_, fun h hrun => ?_⟩
    · refine traps_of_ready _ exec_rdv rfl hs hr ?_
      rw [fresh_getS]
      exact if_pos ((ushiftRight_two_eq_zero_iff _).mpr h)
    · refine stalls_of_ready _ exec_rdv rfl hs hr ?_
      simp only [fresh_thread, fresh_getS, hth]
      rw [if_neg (fun hc => absurd ((ushiftRight_two_eq_zero_iff _).mp hc) (by omega)), if_pos (hrunning.mpr hrun)]
    · refine retires_of_ready _ exec_rdv rfl hs hr ?_
      simp only [fresh_thread, fresh_getS, hth]
      rw [if_neg (fun hc => absurd ((ushiftRight_two_eq_zero_iff _).mp hc) (by omega)), if_neg (fun hc => hrun (hrunning.mp hc)),
        rdv_number]
      simp only [hV, hA]
      rw [hq]
      rfl
  · rintro s c k x r rfl rfl ho ht hd
    obtain ⟨h1, h2, h3, h4⟩ := endProgram_vec ho true (some (packFault r.cause r.val r.pc s.target.unit r.pend))
    exact ⟨_, exec_vectorTrap.trans (by rw [tryTrap_vec ht hd]), h1, h2, h3, h4⟩
  · rintro s c x r rfl ho ht hd
    obtain ⟨h1, h2, h3, h4⟩ := endProgram_arc ho true (some (packFault r.cause r.val r.pc 0 r.pend))
    exact ⟨_, exec_arcadeTrap.trans (by rw [tryTrap_arc ht hd]), h1, h2, h3, h4⟩
  · rintro s c k x rfl rfl hk ho he hd
    obtain ⟨h1, h2, h3, h4⟩ := endProgram_vec ho false none
    obtain ⟨hw, hn⟩ := programEnd_ends (s := s) (q := .vec s.target.core s.target.unit) (if_pos hk) he hd
    exact ⟨hw, fun ht => ⟨_, hn ht, h1, h2, h3, h4⟩⟩
  · rintro s c x rfl hu ho he hd
    obtain ⟨h1, h2, h3, h4⟩ := endProgram_arc ho false none
    obtain ⟨hw, hn⟩ := programEnd_ends (s := s) (q := .arc s.target.core) (if_neg (by omega)) he hd
    exact ⟨hw, fun ht => ⟨_, hn ht, h1, h2, h3, h4⟩⟩
  · intro s x hs hp hk ht hd h1
    obtain ⟨t, he, ho, hprog⟩ := nop_retires hs
    refine ⟨t, he, ho, ?_⟩
    have hadv : t.prog s.cur = (s.prog s.cur).takeXfer s.cur.isFork x := by
      rw [hprog, Prog.advance, hp]
      exact if_pos (by omega)
    have hgets := getS_of_advance hprog
    rw [hadv, Prog.takeXfer, if_pos ht]
    cases hq : s.cur.isFork with
    | true =>
      rw [if_pos (by rw [hk, hd]; decide)]
      exact ⟨rfl, rfl, hgets, fun _ => rfl, fun h => by cases h⟩
    | false =>
      rw [if_neg (by simp)]
      refine ⟨rfl, if_neg (by rw [hk]; decide), hgets, fun h => (by cases h), fun _ => ⟨rfl, hd, rfl⟩⟩

end Sys2Proof.Proofs.Forks
end

section
/-! PROOFS. Scratchpad accesses of the scalar instructions (R85 to R96): the checks, the bytes they move and what they leave alone. -/

namespace Sys2Proof.Proofs.Scratchpad

open Sys2Proof.Machine
open Sys2Proof.Safety
open Sys2Proof.Proofs.Transfers
open Sys2Proof.Proofs.Traps
open Sys2Proof.Proofs.Ready

/-! ### Numbers in memory -/

theorem readN_lt (m : Memory) (a n : Nat) : Memory.readN m a n < 256 ^ n := by
  induction n generalizing a with
  | zero => exact Nat.one_pos
  | succ n ih =>
    have h1 := (m.read a).isLt
    have h2 := ih (a + 1)
    rw [Memory.readN, Nat.pow_succ]
    omega

theorem signedOf_eq {w x : Nat} (h : x < 2 ^ w) : signedOf w x = if x < 2 ^ (w - 1) then (x : Int) else x - 2 ^ w := by
  rw [signedOf, Nat.mod_eq_of_lt h]
  simp

theorem sextN_eq {w x : Nat} (h : x < 2 ^ w) : sextN w x = BitVec.ofInt 64 (if x < 2 ^ (w - 1) then (x : Int) else x - 2 ^ w) :=
  congrArg (BitVec.ofInt 64) (signedOf_eq h)

theorem zextN_eq {w x : Nat} (h : x < 2 ^ w) : zextN w x = BitVec.ofNat 64 x := congrArg (BitVec.ofNat 64) (Nat.mod_eq_of_lt h)

theorem readN_one (m : Memory) (a : Nat) : Memory.readN m a 1 = (m.read (a + 0)).toNat := rfl

theorem readN_two (m : Memory) (a : Nat) : Memory.readN m a 2 = (m.read (a + 0)).toNat + 2 ^ 8 * (m.read (a + 1)).toNat := rfl

theorem readN_four (m : Memory) (a : Nat) : Memory.readN m a 4 = (m.read (a + 0)).toNat + 2 ^ 8 * (m.read (a + 1)).toNat +
    2 ^ 16 * (m.read (a + 2)).toNat + 2 ^ 24 * (m.read (a + 3)).toNat := by
  change (m.read a).toNat + 256 * ((m.read (a + 1)).toNat + 256 * ((m.read (a + 2)).toNat + 256 * ((m.read (a + 3)).toNat + 256 * 0))) = _
  rw [Nat.add_zero a]
  omega

/-! ### The checks of R85 -/

section Access

variable {i : Instr} {s : State} {len n : Nat} {pl : Place} {srcs dests : List Src} {ea : DWord} {r : Res}
  (body : Seqr → State → Res)

/-- What the checks on a misplaced access, or on one of a line still to be written, come to. -/
def Checked (s : State) (i : Instr) (ea : DWord) (n : Nat) : Prop :=
  (ea.toNat % n ≠ 0 → Traps i s .align ea) ∧ (ea.toNat % n = 0 → 0xBFFFF < ea.toNat + n - 1 → Traps i s .spbound ea) ∧
    (ea.toNat % n = 0 → ea.toNat + n - 1 ≤ 0xBFFFF → s.lineBusy s.cur ea.toNat n = true → Stalls i s)

theorem lineBusy_fresh : (fresh s).lineBusy s.cur ea.toNat n = s.lineBusy s.cur ea.toNat n := rfl

/-- An access that is well placed and waits for no line is made. -/
theorem access_made (h0 : ea.toNat % n = 0) (h1 : ea.toNat + n - 1 ≤ 0xBFFFF) (h2 : s.lineBusy s.cur ea.toNat n = false) :
    (fresh s).spadAccess s.cur ea n r = r := by
  rcases State.spadAccess_cases (fresh s) s.cur ea n r with ⟨h, -⟩ | ⟨-, h, -⟩ | ⟨-, -, h, -⟩ | ⟨-, -, -, h⟩
  · exact absurd h0 h
  · exact absurd h (by unfold spadTop; omega)
  · rw [lineBusy_fresh, h2] at h; cases h
  · exact h

theorem checked_of_access (hi : exec i s = issue s len pl body) (hs : Stands s len pl)
    (hb : body s.cur (fresh s) = (fresh s).spadAccess s.cur ea n r) : Checked s i ea n := by
  rcases State.spadAccess_cases (fresh s) s.cur ea n r with ⟨h0, h⟩ | ⟨h0, h1, h⟩ | ⟨h0, h1, h2, h⟩ | ⟨h0, h1, h2, h⟩ <;>
    rw [h] at hb
  · exact ⟨fun _ => traps_of_issue body hi hs hb, fun hc => absurd hc h0, fun hc => absurd hc h0⟩
  · exact ⟨fun hc => absurd h0 hc, fun _ _ => traps_of_issue body hi hs hb, fun _ hc => absurd h1 (by unfold spadTop; omega)⟩
  · exact ⟨fun hc => absurd h0 hc, fun _ hc => absurd hc (by unfold spadTop at h1; omega), fun _ _ _ => stalls_of_issue body hi hs hb⟩
  · refine ⟨fun hc => absurd h0 hc, fun _ hc => absurd hc (by unfold spadTop at h1; omega), fun _ _ hc => ?_⟩
    rw [lineBusy_fresh, hc] at h2
    cases h2

end Access

/-! ### A store's frame -/

section Store

/-- Of the machine nothing changes but the scratchpad of the core that runs and the program that runs. -/
structure SpadStep (s s1 : State) (m : Memory) : Prop where
  device  : DeviceSame s s1
  cores   : CoresSameButSpad s s1
  ctxs    : CtxsSame s s1
  engines : EnginesSame s s1
  others  : ∀ q, q ≠ s.cur → s1.prog q = s.prog q
  count   : ∀ c x, (s1.ctx c x).instret = (s.ctx c x).instret
  here    : (s1.core s.cur.core).spad = m
  there   : ∀ c, c ≠ s.cur.core → (s1.core c).spad = (s.core c).spad

variable {s : State}

theorem prog_setCore_spad (u : State) (c : Nat) (m : Memory) (q : Seqr) : (u.setCore c { u.core c with spad := m }).prog q = u.prog q := by
  have h : ∀ d, ((u.setCore c { u.core c with spad := m }).core d).ctxs = (u.core d).ctxs ∧
      ((u.setCore c { u.core c with spad := m }).core d).slots = (u.core d).slots ∧
      ((u.setCore c { u.core c with spad := m }).core d).arc = (u.core d).arc := by
    intro d
    rw [State.core_setCore]
    split
    · next e => rw [e]; exact ⟨rfl, rfl, rfl⟩
    · exact ⟨rfl, rfl, rfl⟩
  cases q with
  | thread d x => simp only [State.prog, State.ctx, (h d).1]
  | vec d k => simp only [State.prog, State.slot, (h d).2.1]
  | arc d => simp only [State.prog, State.arc, (h d).2.2]

theorem spadStep_spadWrite (lo n x : Nat) :
    SpadStep s ((fresh s).spadWrite s.cur lo n x) (Memory.writeN (s.core s.cur.core).spad lo n x) := by
  have hc : ∀ d, ((fresh s).spadWrite s.cur lo n x).core d =
      if d = s.cur.core then { s.core s.cur.core with spad := Memory.writeN (s.core s.cur.core).spad lo n x } else s.core d :=
    fun d => State.core_setCore ..
  have hctx : ∀ c y, ((fresh s).spadWrite s.cur lo n x).ctx c y = s.ctx c y := fun c y => by
    refine ctx_setCore_same (s := fresh s) ?_ c y
    rfl
  refine ⟨rfl, fun c => ?_, fun c y => by rw [hctx], ⟨fun c k => ?_, fun c => ?_⟩,
    fun q _ => (prog_setCore_spad (fresh s) _ _ q).trans (fresh_prog s q), fun c y => by rw [hctx], ?_, fun c h => ?_⟩
  · rw [hc]
    split
    · next h => rw [h]
    · rfl
  · rw [State.slot, hc]
    split
    · next h => rw [h]; rfl
    · rfl
  · rw [State.arc, hc]
    split
    · next h => rw [h]; rfl
    · rfl
  · rw [hc, if_pos rfl]
  · rw [hc, if_neg h]

theorem SpadStep.setProg {u : State} {m : Memory} (h : SpadStep s u m) (p : Prog) : SpadStep s (u.setProg s.cur p) m := by
  refine ⟨deviceSame_trans h.device (deviceSame_setProg ..), fun c => ?_, fun c x => ?_, ⟨fun c k => ?_, fun c => ?_⟩, fun q hq => ?_,
    fun c x => ?_, ?_, fun c hc => ?_⟩
  · rw [← h.cores c, ← coresSame_setProg u s.cur p c]
  · rw [← h.ctxs c x, State.ctx_setProg]
  · rw [← h.engines.1 c k, State.slot_setProg]
  · rw [← h.engines.2 c, State.arc_setProg]
  · rw [State.prog_setProg_of_ne _ hq, h.others q hq]
  · rw [State.ctx_setProg]; exact h.count c x
  · rw [State.spad_core_setProg, h.here]
  · rw [State.spad_core_setProg, h.there c hc]

/-- A program in which nothing but s_d and the hold has changed. -/
structure OnlyReg (p p' : Prog) (d : Option Reg) (hold : Option Hold) : Prop where
  links : p'.b = p.b
  empty : p'.sEmpty = p.sEmpty
  trap  : p'.trapping = p.trapping
  pend  : p'.pend = p.pend
  loops : p'.loops = p.loops
  hold  : p'.hold = hold
  regs  : ∀ r : Reg, some r ≠ d → p'.getS r.toNat = p.getS r.toNat

theorem OnlyReg.refl (p : Prog) : OnlyReg p p none p.hold := ⟨rfl, rfl, rfl, rfl, rfl, rfl, fun _ _ => rfl⟩

theorem onlySpad_of_after {s1 t : State} {len lo n x : Nat} {d : Option Reg} {hold : Option Hold} (h : After s s1 t len)
    (k : SpadStep s s1 (Memory.writeN (s.core s.cur.core).spad lo n x)) (hw : (s.core s.cur.core).spad.wf = true)
    (hp : OnlyReg (s.prog s.cur) (s1.prog s.cur) d hold) :
    OnlySpad s t len lo n d hold ∧ (∀ j, j < n → Memory.read (t.core s.cur.core).spad (lo + j) = BitVec.ofNat 8 (x / 256 ^ j)) ∧
      ∀ r, t.getS s.cur r = s1.getS s.cur r := by
  obtain ⟨aS, aB, aE, aH, aT⟩ := advance_rest (s1.prog s.cur) s.cur.isFork (seqNext (s.prog s.cur).pc len)
  have hdev : DeviceSame s t := deviceSame_trans k.device (by
    have := h.device
    unfold DeviceSame
    rw [← congrArg State.stalled this] at *
    exact this)
  have hspad : ∀ c, (t.core c).spad = (s1.core c).spad := fun c => by rw [← h.cores c]
  have hgets : ∀ r, t.getS s.cur r = s1.getS s.cur r := fun r => by
    rw [State.getS, Prog.getS, h.prog, aS]; rfl
  have hread : ∀ a, Memory.read (t.core s.cur.core).spad a =
      if lo ≤ a ∧ a < lo + n then BitVec.ofNat 8 (x / 256 ^ (a - lo)) else Memory.read (s.core s.cur.core).spad a := fun a => by
    rw [hspad, k.here, Memory.read_writeN _ _ _ _ _ hw]
  refine ⟨⟨hdev, fun c => ?_, fun c y => ?_, ⟨fun c j => ?_, fun c => ?_⟩, ⟨fun q hq => ?_, fun j => ?_, ?_, ?_, ?_⟩, fun c y => ?_, ?_, fun r hr => ?_,
    fun a => ?_, fun a => ?_, fun c a => ?_, fun c a hc => ?_, fun a ha => ?_⟩, fun j hj => ?_, hgets⟩
  · rw [← k.cores c, ← h.cores c]
  · rw [← k.ctxs c y, ← h.ctxs c y]
  · rw [← k.engines.1 c j, ← h.slots c j]
  · rw [← k.engines.2 c, ← h.arcs c]
  · rw [h.others q hq, k.others q hq]
  · rw [Prog.getB, h.prog, aB, hp.links]; rfl
  · rw [h.prog, aE, hp.empty]
  · rw [h.prog, aH, hp.hold]
  · rw [h.prog, aT, hp.trap]
  · rw [h.count c y, k.count c y]
  · unfold FlowsOn
    rw [h.prog]
    exact advance_pc_congr hp.pend hp.loops _ _
  · rw [hgets]; exact hp.regs r hr
  · rw [← congrArg State.hbm hdev]
  · rw [← congrArg State.hostMem hdev]
  · rw [← congrArg Core.scaleMem (k.cores c), ← congrArg Core.scaleMem (h.cores c)]
  · rw [hspad, k.there c hc]
  · rw [hread, if_neg (by omega)]
  · rw [hread, if_pos (by omega), Nat.add_sub_cancel_left]

variable {i : Instr} {len lo n x : Nat} {pl : Place}

theorem prog_spadWrite (q : Seqr) : ((fresh s).spadWrite s.cur lo n x).prog q = s.prog q :=
  (prog_setCore_spad (fresh s) _ _ q).trans (fresh_prog s q)

/-- A meaning that writes the scratchpad and nothing else stores as `StoresSpad` says. -/
theorem storesSpad_of_issue (body : Seqr → State → Res) (hi : exec i s = issue s len pl body) (hs : Stands s len pl)
    (hb : body s.cur (fresh s) = .retire ((fresh s).spadWrite s.cur lo n x)) (hw : (s.core s.cur.core).spad.wf = true) :
    StoresSpad i s len lo n x := by
  obtain ⟨t, he, ha⟩ := retires_of_issue body hi hs hb
  obtain ⟨h1, h2, -⟩ := onlySpad_of_after ha (spadStep_spadWrite lo n x) hw (d := none) (hold := (s.prog s.cur).hold)
    (by rw [prog_spadWrite]; exact OnlyReg.refl _)
  exact ⟨t, he, h2, h1⟩

end Store

/-! ### Loads and stores (R89, R90) -/

section Scalar

variable {i : Instr} {s : State} {d a : Reg} {imm : BitVec 12} {n : Nat} {ext : Nat → DWord}

/-- The effective address of a scalar access. -/
def eaOf (s : State) (a : Reg) (imm : BitVec 12) : DWord := s.getS s.cur a + BitVec.ofInt 64 imm.toInt

/-- The access is aligned, in the scratchpad, and of no line that waits. -/
def Placed (s : State) (ea : DWord) (n : Nat) : Prop :=
  ea.toNat % n = 0 ∧ ea.toNat + n - 1 ≤ 0xBFFFF ∧ s.lineBusy s.cur ea.toNat n = false

theorem load_body (hr : RegsReady s [srcS a, srcS d]) (r : Res) :
    (fresh s).ready s.cur [srcS a] [srcS d] r = r := fresh_ready (srcs := [srcS a]) (dests := [srcS d]) hr r

theorem writesS_of_load (hi : exec i s = load s d a imm n ext) (hs : Stands s 1 .any) (hr : RegsReady s [srcS a, srcS d])
    (hp : Placed s (eaOf s a imm) n) :
    WritesS i s 1 d (ext (Memory.readN (s.core s.cur.core).spad (eaOf s a imm).toNat n)) := by
  obtain ⟨h0, h1, h2⟩ := hp
  refine writesS_of_issue _ hi hs ?_
  rw [load_body hr, fresh_getS]
  exact access_made h0 h1 h2

theorem checked_of_load (hi : exec i s = load s d a imm n ext) (hs : Stands s 1 .any) (hr : RegsReady s [srcS a, srcS d]) :
    Checked s i (eaOf s a imm) n := by
  refine checked_of_access _ hi hs (r := .retire ((fresh s).setS s.cur d (ext ((fresh s).spadRead s.cur (eaOf s a imm).toNat n)))) ?_
  rw [load_body hr, fresh_getS]
  rfl

theorem store_body (hr : RegsReady s [srcS a, srcS d]) (r : Res) :
    (fresh s).ready s.cur [srcS a, srcS d] [] r = r := fresh_ready (srcs := [srcS a, srcS d]) (dests := []) hr r

theorem storesSpad_of_store (hi : exec i s = store s d a imm n) (hs : Stands s 1 .any) (hr : RegsReady s [srcS a, srcS d])
    (hw : (s.core s.cur.core).spad.wf = true) (hp : Placed s (eaOf s a imm) n) :
    StoresSpad i s 1 (eaOf s a imm).toNat n (s.getS s.cur d).toNat := by
  obtain ⟨h0, h1, h2⟩ := hp
  refine storesSpad_of_issue _ hi hs ?_ hw
  rw [store_body hr, fresh_getS, fresh_getS]
  exact access_made h0 h1 h2

theorem checked_of_store (hi : exec i s = store s d a imm n) (hs : Stands s 1 .any) (hr : RegsReady s [srcS a, srcS d]) :
    Checked s i (eaOf s a imm) n := by
  refine checked_of_access _ hi hs
    (r := .retire ((fresh s).spadWrite s.cur (eaOf s a imm).toNat n (s.getS s.cur d).toNat)) ?_
  rw [store_body hr, fresh_getS, fresh_getS]
  rfl

theorem exec_ldB : exec (.ldB d a imm) s = load s d a imm 1 (sextN 8) := rfl
theorem exec_ldBn : exec (.ldBn d a imm) s = load s d a imm 1 (zextN 8) := rfl
theorem exec_ldH : exec (.ldH d a imm) s = load s d a imm 2 (sextN 16) := rfl
theorem exec_ldHn : exec (.ldHn d a imm) s = load s d a imm 2 (zextN 16) := rfl
theorem exec_ldW : exec (.ldW d a imm) s = load s d a imm 4 (sextN 32) := rfl
theorem exec_ldWn : exec (.ldWn d a imm) s = load s d a imm 4 (zextN 32) := rfl
theorem exec_ldD : exec (.ldD d a imm) s = load s d a imm 8 (zextN 64) := rfl
theorem exec_stB : exec (.stB d a imm) s = store s d a imm 1 := rfl
theorem exec_stH : exec (.stH d a imm) s = store s d a imm 2 := rfl
theorem exec_stW : exec (.stW d a imm) s = store s d a imm 4 := rfl
theorem exec_stD : exec (.stD d a imm) s = store s d a imm 8 := rfl
theorem exec_ldQ : exec (.ldQ d a imm) s = execLdQ d a imm s := rfl
theorem exec_stQ : exec (.stQ d a imm) s = execStQ d a imm s := rfl

/-- The value of a load of n bytes, zero- or sign-extended, as one of their number (R89). -/
theorem loads_extended (hi : exec i s = load s d a imm n (zextN (8 * n))) (hs : Stands s 1 .any) (hr : RegsReady s [srcS a, srcS d])
    (hp : Placed s (eaOf s a imm) n) : WritesS i s 1 d (BitVec.ofNat 64 (Memory.readN (s.core s.cur.core).spad (eaOf s a imm).toNat n)) := by
  have hlt := readN_lt (s.core s.cur.core).spad (eaOf s a imm).toNat n
  rw [show (256 : Nat) = 2 ^ 8 from rfl, ← Nat.pow_mul] at hlt
  rw [← zextN_eq hlt]
  exact writesS_of_load hi hs hr hp

theorem loads_signed (hi : exec i s = load s d a imm n (sextN (8 * n))) (hs : Stands s 1 .any) (hr : RegsReady s [srcS a, srcS d])
    (hp : Placed s (eaOf s a imm) n) :
    let x := Memory.readN (s.core s.cur.core).spad (eaOf s a imm).toNat n
    WritesS i s 1 d (BitVec.ofInt 64 (if x < 2 ^ (8 * n - 1) then (x : Int) else x - 2 ^ (8 * n))) := by
  have hlt := readN_lt (s.core s.cur.core).spad (eaOf s a imm).toNat n
  rw [show (256 : Nat) = 2 ^ 8 from rfl, ← Nat.pow_mul] at hlt
  intro x
  rw [← sextN_eq hlt]
  exact writesS_of_load hi hs hr hp

/-- The base and the two registers of a pair. -/
theorem ready3 (hr : RegsReady s [srcS a, srcS d]) (hr1 : RegsReady s [srcS (d + 1)]) :
    RegsReady s ([srcS a] ++ [srcS d, srcS (d + 1)]) := fun x hx => by
  rw [show [srcS a] ++ [srcS d, srcS (d + 1)] = [srcS a, srcS d] ++ [srcS (d + 1)] from rfl, List.mem_append] at hx
  exact hx.elim (hr x) (hr1 x)

/-- `LD.Q` writes the two registers of the pair (R90). -/
theorem ldQ_writes (hs : Stands s 1 .any) (hr : RegsReady s [srcS a, srcS d]) (hr1 : RegsReady s [srcS (d + 1)])
    (hd : d.toNat % 2 = 0) (hp : Placed s (eaOf s a imm) 16) :
    let m := (s.core s.cur.core).spad
    let ea := (eaOf s a imm).toNat
    ∃ t, exec (.ldQ d a imm) s = .next t ∧ OnlyProg s t ∧ FlowsOn s t 1 ∧
      t.getS s.cur d = (if d = 0 then 0 else BitVec.ofNat 64 (Memory.readN m ea 8)) ∧
      t.getS s.cur (d + 1) = BitVec.ofNat 64 (Memory.readN m (ea + 8) 8) ∧
      ∀ r, r ≠ d → r ≠ d + 1 → t.getS s.cur r = s.getS s.cur r := by
  intro m ea
  obtain ⟨h0, h1, h2⟩ := hp
  have hz : ∀ a, zextN 64 (Memory.readN m a 8) = BitVec.ofNat 64 (Memory.readN m a 8) := fun a => zextN_eq (readN_lt m a 8)
  have hne : d + 1 ≠ d := fun h => by bv_omega
  have hne0 : d + 1 ≠ 0 := fun h => by bv_omega
  obtain ⟨t, he, ho, hprog⟩ := onlyProg_of_issue (p := ((s.prog s.cur).setS d.toNat (BitVec.ofNat 64 (Memory.readN m ea 8))).setS
    (d + 1).toNat (BitVec.ofNat 64 (Memory.readN m (ea + 8) 8))) _ exec_ldQ hs (by
      rw [fresh_ready (ready3 hr hr1), fresh_getS]
      refine (access_made h0 h1 h2).trans (congrArg Res.retire ?_)
      rw [← hz ea, ← hz (ea + 8)]
      simp only [State.setS, State.prog_setProg_self, setProg_setProg, fresh_prog]
      rfl)
  have hgets : ∀ r, t.getS s.cur r = if r = d + 1 then BitVec.ofNat 64 (Memory.readN m (ea + 8) 8)
      else if r = d then (if d = 0 then 0 else BitVec.ofNat 64 (Memory.readN m ea 8)) else s.getS s.cur r := fun r => by
    rw [State.getS, Prog.getS, hprog, (advance_rest _ _ _).1, ← Prog.getS, getS_setProg_setS, getS_setProg_setS, if_neg hne0]
    rfl
  obtain ⟨-, -, -, -, p1, l1⟩ := setS_rest (s.prog s.cur) d.toNat (BitVec.ofNat 64 (Memory.readN m ea 8))
  obtain ⟨-, -, -, -, p2, l2⟩ := setS_rest ((s.prog s.cur).setS d.toNat (BitVec.ofNat 64 (Memory.readN m ea 8))) (d + 1).toNat
    (BitVec.ofNat 64 (Memory.readN m (ea + 8) 8))
  refine ⟨t, he, ho, ?_, ?_, ?_, fun r hrd hrd1 => ?_⟩
  · unfold FlowsOn
    rw [hprog]
    exact advance_pc_congr (p2.trans p1) (l2.trans l1) _ _
  · rw [hgets, if_neg hne.symm, if_pos rfl]
  · rw [hgets, if_pos rfl]
  · rw [hgets, if_neg hrd1, if_neg hrd]

theorem stQ_stores (hs : Stands s 1 .any) (hr : RegsReady s [srcS a, srcS d]) (hr1 : RegsReady s [srcS (d + 1)])
    (hw : (s.core s.cur.core).spad.wf = true) (hp : Placed s (eaOf s a imm) 16) :
    StoresSpad (.stQ d a imm) s 1 (eaOf s a imm).toNat 16 ((s.getS s.cur d).toNat + 2 ^ 64 * (s.getS s.cur (d + 1)).toNat) := by
  obtain ⟨h0, h1, h2⟩ := hp
  refine storesSpad_of_issue _ exec_stQ hs ?_ hw
  rw [fresh_ready (srcs := [srcS a, srcS d, srcS (d + 1)]) (dests := []) (ready3 hr hr1), fresh_getS, fresh_getS, fresh_getS]
  exact access_made h0 h1 h2

end Scalar

/-- Settles O13: a load writes the number at its address, a store writes its register's bytes there. -/
theorem scratchpadAccesses : Obligations.ScratchpadAccesses := by
  unfold Obligations.ScratchpadAccesses
  refine ⟨?_, ?_⟩
  · intro s d a imm hs hr ea m byte word signed ok
    refine ⟨fun h => ⟨?_, ?_⟩, fun h => ⟨?_, ?_⟩, fun h => ⟨?_, ?_⟩, fun h => loads_extended (n := 8) exec_ldD hs hr h,
      fun h hr1 hd => ldQ_writes hs hr hr1 hd h⟩
    · exact loads_signed (n := 1) exec_ldB hs hr h
    · exact loads_extended (n := 1) exec_ldBn hs hr h
    · exact loads_signed (n := 2) exec_ldH hs hr h
    · exact loads_extended (n := 2) exec_ldHn hs hr h
    · rw [show word = Memory.readN m ea 4 from (readN_four m ea).symm]
      exact loads_signed (n := 4) exec_ldW hs hr h
    · rw [show word = Memory.readN m ea 4 from (readN_four m ea).symm]
      exact loads_extended (n := 4) exec_ldWn hs hr h
  · intro s d a imm hs hr hw ea v ok
    exact ⟨fun h => storesSpad_of_store exec_stB hs hr hw h, fun h => storesSpad_of_store exec_stH hs hr hw h,
      fun h => storesSpad_of_store exec_stW hs hr hw h, fun h => storesSpad_of_store exec_stD hs hr hw h,
      fun h hr1 => stQ_stores hs hr hr1 hw h⟩

end Sys2Proof.Proofs.Scratchpad
end

section
/-! PROOFS. Checked accesses of every size, the local atomics (R91), and handles whole and by field (R93 to R96). -/

namespace Sys2Proof.Proofs.Atomics

open Sys2Proof.Machine
open Sys2Proof.Safety
open Sys2Proof.Proofs.Transfers
open Sys2Proof.Proofs.Compares
open Sys2Proof.Proofs.Scratchpad

section

variable {s : State} {d a b fn : Reg} {imm : BitVec 12} {lw : LW}

theorem exec_hld : exec (.hld d a imm) s = execHld d a imm s := rfl
theorem exec_hst : exec (.hst d a imm) s = execHst d a imm s := rfl
theorem exec_lamo : exec (.lamo d a b lw) s = execLamo d a b lw s := rfl
theorem exec_hpatch : exec (.hpatch a b fn lw) s = execHpatch a b fn lw s := rfl
theorem exec_hget : exec (.hget d a fn) s = execHget d a fn s := rfl
theorem exec_hset : exec (.hset d a fn) s = execHset d a fn s := rfl

@[simp] theorem fresh_getH (q : Seqr) (r : Reg) : (fresh s).getH q r = s.getH q r := by
  simp only [State.getH, fresh_thread]

/-! ### The accesses' checks -/

theorem checked_ldQ (hs : Stands s 1 .any) (hr : RegsReady s [srcS a, srcS d, srcS (d + 1)]) :
    Checked s (.ldQ d a imm) (eaOf s a imm) 16 := by
  refine checked_of_access _ exec_ldQ hs (r := .retire (((fresh s).setS s.cur d
    (zextN 64 ((fresh s).spadRead s.cur (eaOf s a imm).toNat 8))).setS s.cur (d + 1)
    (zextN 64 ((fresh s).spadRead s.cur ((eaOf s a imm).toNat + 8) 8)))) ?_
  rw [fresh_ready (srcs := [srcS a]) (dests := [srcS d, srcS (d + 1)]) hr, fresh_getS]
  rfl

theorem checked_stQ (hs : Stands s 1 .any) (hr : RegsReady s [srcS a, srcS d, srcS (d + 1)]) :
    Checked s (.stQ d a imm) (eaOf s a imm) 16 := by
  refine checked_of_access _ exec_stQ hs (r := .retire ((fresh s).spadWrite s.cur (eaOf s a imm).toNat 16
    ((s.getS s.cur d).toNat + 2 ^ 64 * (s.getS s.cur (d + 1)).toNat))) ?_
  rw [fresh_ready (srcs := [srcS a, srcS d, srcS (d + 1)]) (dests := []) hr, fresh_getS, fresh_getS, fresh_getS]
  rfl

theorem hld_body (hr : RegsReady s [srcS a, srcH d]) (r : Res) : (fresh s).ready s.cur [srcS a] [srcH d] r = r :=
  fresh_ready (srcs := [srcS a]) (dests := [srcH d]) hr r

theorem hst_body (hr : RegsReady s [srcS a, srcH d]) (r : Res) : (fresh s).ready s.cur [srcS a, srcH d] [] r = r :=
  fresh_ready (srcs := [srcS a, srcH d]) (dests := []) hr r

theorem checked_hld (hs : Stands s 1 .any) (hr : RegsReady s [srcS a, srcH d]) : Checked s (.hld d a imm) (eaOf s a imm) 32 := by
  refine checked_of_access _ exec_hld hs (r := .retire ((fresh s).setH s.cur d
    (BitVec.ofNat 256 ((fresh s).spadRead s.cur (eaOf s a imm).toNat 32)))) ?_
  rw [hld_body hr, fresh_getS]
  rfl

theorem checked_hst (hs : Stands s 1 .any) (hr : RegsReady s [srcS a, srcH d]) : Checked s (.hst d a imm) (eaOf s a imm) 32 := by
  refine checked_of_access _ exec_hst hs
    (r := .retire ((fresh s).spadWrite s.cur (eaOf s a imm).toNat 32 (s.getH s.cur d).toNat)) ?_
  rw [hst_body hr, fresh_getS, fresh_getH]
  rfl

/-! ### `LAMO` -/

/-- The width of an atomic (R91). -/
def lamoW (lw : LW) : Nat := if lw.y.getLsbD 2 then 64 else 32

/-- The number that `LAMO` leaves in memory. -/
def lamoNew (s : State) (a b : Reg) (lw : LW) : Nat :=
  atomicNew (lw.y.toNat / 8) (lamoW lw) true (Memory.readN (s.core s.cur.core).spad (s.getS s.cur a).toNat (lamoW lw / 8))
    ((s.getS s.cur b).toNat % 2 ^ lamoW lw) ((s.getS s.cur lw.x).toNat % 2 ^ lamoW lw)

theorem lamo_body (hg : GuardOn s lw) (hr : RegsReady s [srcS a, srcS b, srcS lw.x, srcS d]) (r : Res) :
    guarded lw s.cur (fresh s) ((fresh s).ready s.cur [srcS a lw.ta, srcS b lw.tb, srcS lw.x lw.tc] [srcS d] r) = r := by
  rw [fresh_guarded hg, fresh_ready (regsReady_of_same hr rfl)]

theorem hpatch_body (hg : GuardOn s lw) (hr : RegsReady s [srcS a, srcS b]) (r : Res) :
    guarded lw s.cur (fresh s) ((fresh s).ready s.cur [srcS a lw.ta, srcS b lw.tb] [] r) = r := by
  rw [fresh_guarded hg, fresh_ready (regsReady_of_same hr rfl)]

theorem checked_lamo (hs : Stands s 2 .any) (hg : GuardOn s lw) (hr : RegsReady s [srcS a, srcS b, srcS lw.x, srcS d]) :
    Checked s (.lamo d a b lw) (s.getS s.cur a) (lamoW lw / 8) := by
  refine checked_of_access _ exec_lamo hs (r := .retire ((((fresh s).spadWrite s.cur (s.getS s.cur a).toNat (lamoW lw / 8)
    (lamoNew s a b lw)).setS s.cur d (sextN (lamoW lw) ((fresh s).spadRead s.cur (s.getS s.cur a).toNat (lamoW lw / 8)))).holdFor s.cur 2)) ?_
  rw [lamo_body hg hr, fresh_getS, fresh_getS, fresh_getS]
  rfl

theorem checked_hpatch (hs : Stands s 2 .any) (hg : GuardOn s lw) (hr : RegsReady s [srcS a, srcS b]) :
    Checked s (.hpatch a b fn lw) (eaOf s a lw.ext) 32 := by
  refine checked_of_access _ exec_hpatch hs (r := .retire (((fresh s).spadWrite s.cur (eaOf s a lw.ext).toNat 32
    (handleSet (BitVec.ofNat 256 ((fresh s).spadRead s.cur (eaOf s a lw.ext).toNat 32)) fn (s.getS s.cur b)).toNat).holdFor s.cur 2)) ?_
  rw [hpatch_body hg hr, fresh_getS, fresh_getS]
  rfl

/-- A register written and a hold, as one program. -/
theorem setS_holdFor (u : State) (q : Seqr) (r : Reg) (v : DWord) (n : Nat) :
    (u.setS q r v).holdFor q n = u.setProg q { (u.prog q).setS r.toNat v with hold := some (.clock (u.now + n)) } := by
  simp only [State.setS, State.holdFor, State.prog_setProg_self, State.now_setProg, setProg_setProg]

theorem onlyReg_setS_hold (p : Prog) (r : Reg) (v : DWord) (h : Option Hold) :
    OnlyReg p { p.setS r.toNat v with hold := h } (some r) h := by
  obtain ⟨h1, h2, -, h4, h5, h6⟩ := setS_rest p r.toNat v
  refine ⟨h1, h2, h4, h5, h6, rfl, fun r' hr => ?_⟩
  exact (getS_setProg_setS p r r' v).trans (if_neg fun e => hr (congrArg some e))

theorem onlyReg_hold (p : Prog) (h : Option Hold) : OnlyReg p { p with hold := h } none h :=
  ⟨rfl, rfl, rfl, rfl, rfl, rfl, fun _ _ => rfl⟩

theorem lamo_retires (hs : Stands s 2 .any) (hg : GuardOn s lw) (hr : RegsReady s [srcS a, srcS b, srcS lw.x, srcS d])
    (hw : (s.core s.cur.core).spad.wf = true) (hp : Placed s (s.getS s.cur a) (lamoW lw / 8)) :
    let ea := (s.getS s.cur a).toNat
    let old := Memory.readN (s.core s.cur.core).spad ea (lamoW lw / 8)
    ∃ t, exec (.lamo d a b lw) s = .next t ∧ t.getS s.cur d = (if d = 0 then 0 else sextN (lamoW lw) old) ∧
      (∀ k, k < lamoW lw / 8 → Memory.read (t.core s.cur.core).spad (ea + k) = BitVec.ofNat 8 (lamoNew s a b lw / 256 ^ k)) ∧
      OnlySpad s t 2 ea (lamoW lw / 8) (some d) (some (.clock (s.now + 2))) := by
  intro ea old
  obtain ⟨h0, h1, h2⟩ := hp
  obtain ⟨t, he, ha⟩ := retires_of_issue (s1 := ((fresh s).spadWrite s.cur ea (lamoW lw / 8) (lamoNew s a b lw)).setProg s.cur
    { (s.prog s.cur).setS d.toNat (sextN (lamoW lw) old) with hold := some (.clock (s.now + 2)) }) _ exec_lamo hs (by
      rw [lamo_body hg hr, fresh_getS, fresh_getS, fresh_getS]
      refine (access_made h0 h1 h2).trans (congrArg Res.retire ?_)
      rw [setS_holdFor, prog_spadWrite]
      rfl)
  obtain ⟨h1, h2, h3⟩ := onlySpad_of_after ha ((spadStep_spadWrite ea (lamoW lw / 8) (lamoNew s a b lw)).setProg _) hw
    (by rw [State.prog_setProg_self]; exact onlyReg_setS_hold _ d (sextN (lamoW lw) old) _)
  refine ⟨t, he, ?_, h2, h1⟩
  rw [h3, State.getS, State.prog_setProg_self]
  exact (getS_setProg_setS (s.prog s.cur) d d _).trans (if_pos rfl)

theorem hpatch_retires (hs : Stands s 2 .any) (hg : GuardOn s lw) (hr : RegsReady s [srcS a, srcS b])
    (hw : (s.core s.cur.core).spad.wf = true) (hp : Placed s (eaOf s a lw.ext) 32) :
    let ea := (eaOf s a lw.ext).toNat
    let h := handleSet (BitVec.ofNat 256 (Memory.readN (s.core s.cur.core).spad ea 32)) fn (s.getS s.cur b)
    ∃ t, exec (.hpatch a b fn lw) s = .next t ∧
      (∀ k, k < 32 → Memory.read (t.core s.cur.core).spad (ea + k) = BitVec.ofNat 8 (h.toNat / 256 ^ k)) ∧
      OnlySpad s t 2 ea 32 none (some (.clock (s.now + 2))) := by
  intro ea h
  obtain ⟨h0, h1, h2⟩ := hp
  obtain ⟨t, he, ha⟩ := retires_of_issue (s1 := ((fresh s).spadWrite s.cur ea 32 h.toNat).setProg s.cur
    { s.prog s.cur with hold := some (.clock (s.now + 2)) }) _ exec_hpatch hs (by
      rw [hpatch_body hg hr, fresh_getS, fresh_getS]
      refine (access_made h0 h1 h2).trans (congrArg Res.retire ?_)
      rw [State.holdFor, prog_spadWrite]
      rfl)
  obtain ⟨h1, h2, -⟩ := onlySpad_of_after ha ((spadStep_spadWrite ea 32 h.toNat).setProg _) hw
    (by rw [State.prog_setProg_self]; exact onlyReg_hold _ _)
  exact ⟨t, he, h2, h1⟩

end

/-- Settles O14: the checks stand before every access, and an atomic's operation is that of its code. -/
theorem checksAndAtomics : Obligations.ChecksAndAtomics := by
  unfold Obligations.ChecksAndAtomics
  refine ⟨?_, ?_, ?_⟩
  · intro s d a imm hs hr ea
    simp only [List.forall_mem_cons]
    exact ⟨checked_of_load exec_ldB hs hr, checked_of_load exec_ldBn hs hr, checked_of_load exec_ldH hs hr,
      checked_of_load exec_ldHn hs hr, checked_of_load exec_ldW hs hr, checked_of_load exec_ldWn hs hr, checked_of_load exec_ldD hs hr,
      checked_of_store exec_stB hs hr, checked_of_store exec_stH hs hr, checked_of_store exec_stW hs hr,
      checked_of_store exec_stD hs hr, by simp⟩
  · intro s d a b fn imm lw checks at_
    refine ⟨fun hs hr => ⟨checked_ldQ hs hr, checked_stQ hs hr⟩, fun hs hr => ⟨checked_hld hs hr, checked_hst hs hr⟩,
      fun hs hg hr => ?_, fun hs hg hr => checked_hpatch hs hg hr⟩
    have h := checked_lamo hs hg hr
    rwa [show lamoW lw / 8 = if lw.y.getLsbD 2 then 8 else 4 by unfold lamoW; split <;> rfl] at h
  · intro s d a b lw hs hg hr hw w ea old x cmp sg new h0 h1 h2
    obtain ⟨t, he, hd, hb, ho⟩ := lamo_retires hs hg hr hw ⟨h0, h1, h2⟩
    have hlt : old < 2 ^ w := by
      have h := readN_lt (s.core s.cur.core).spad ea (w / 8)
      rw [show (256 : Nat) = 2 ^ 8 from rfl, ← Nat.pow_mul] at h
      rwa [show 8 * (w / 8) = w by simp only [w]; split <;> rfl] at h
    have hx : x < 2 ^ w := Nat.mod_lt _ (Nat.two_pow_pos w)
    have hsg : ∀ n, n < 2 ^ w → signedOf w n = sg n := fun n hn => signedOf_eq hn
    have hnew : lamoNew s a b lw = new := by
      show atomicNew (lw.y.toNat / 8) w true old x cmp = new
      unfold atomicNew
      simp only [if_true, hsg old hlt, hsg x hx]
      rfl
    rw [hnew] at hb
    refine ⟨t, he, ?_, hb, ho⟩
    rw [hd]
    exact congrArg (fun v => if d = 0 then 0 else v) (congrArg (BitVec.ofInt 64) (hsg old hlt))

/-! ### Fields of handles (R94, R95) -/

/-- The bits of a number whose field of w bits from bit lo is replaced. -/
theorem testBit_replaceField (h v lo w j : Nat) :
    (h % 2 ^ lo + v % 2 ^ w * 2 ^ lo + h / 2 ^ (lo + w) * 2 ^ (lo + w)).testBit j =
      if lo ≤ j ∧ j < lo + w then v.testBit (j - lo) else h.testBit j := by
  have hlow : h % 2 ^ lo < 2 ^ lo := Nat.mod_lt _ (Nat.two_pow_pos lo)
  have hmid : v % 2 ^ w < 2 ^ w := Nat.mod_lt _ (Nat.two_pow_pos w)
  have hin : 2 ^ lo * (v % 2 ^ w) + h % 2 ^ lo < 2 ^ (lo + w) := by
    calc 2 ^ lo * (v % 2 ^ w) + h % 2 ^ lo < 2 ^ lo * (v % 2 ^ w) + 2 ^ lo := Nat.add_lt_add_left hlow _
      _ = 2 ^ lo * (v % 2 ^ w + 1) := by rw [Nat.mul_succ]
      _ ≤ 2 ^ lo * 2 ^ w := Nat.mul_le_mul_left _ hmid
      _ = 2 ^ (lo + w) := (Nat.pow_add ..).symm
  rw [show h % 2 ^ lo + v % 2 ^ w * 2 ^ lo + h / 2 ^ (lo + w) * 2 ^ (lo + w) =
      2 ^ (lo + w) * (h / 2 ^ (lo + w)) + (2 ^ lo * (v % 2 ^ w) + h % 2 ^ lo) by ring,
    Nat.two_pow_add_eq_or_of_lt hin, Nat.two_pow_add_eq_or_of_lt hlow, Nat.testBit_or, Nat.testBit_or, Nat.testBit_two_pow_mul,
    Nat.testBit_two_pow_mul, Nat.testBit_div_two_pow, Nat.testBit_mod_two_pow, Nat.testBit_mod_two_pow]
  by_cases h1 : lo ≤ j
  · by_cases h2 : j < lo + w
    · rw [if_pos ⟨h1, h2⟩]
      simp [h1, Nat.not_lt.mpr h1, show j - lo < w by omega, Nat.not_le.mpr h2]
    · rw [if_neg (fun hc => h2 hc.2)]
      simp [h1, Nat.not_lt.mpr h1, show ¬ j - lo < w by omega, Nat.not_lt.mp h2, Nat.sub_add_cancel (Nat.not_lt.mp h2)]
  · rw [if_neg (fun hc => h1 hc.1)]
    simp [h1, Nat.not_le.mp h1, show ¬ lo + w ≤ j by omega]

section Fields

variable {fn : Reg} {lo w : Nat} {sg : Bool}

/-- The table of R94, as a list. -/
def handleTable : List (Nat × Nat × Nat × Bool) :=
  [(0x00, 0, 57, false), (0x01, 57, 1, false), (0x02, 58, 6, false), (0x03, 64, 16, false), (0x04, 80, 16, false),
    (0x05, 96, 16, false), (0x06, 112, 16, false), (0x07, 128, 24, true), (0x08, 152, 24, true), (0x09, 176, 24, true),
    (0x0A, 200, 16, false), (0x0B, 216, 4, false), (0x0C, 220, 2, false), (0x0D, 248, 8, false), (0x10, 0, 64, false),
    (0x11, 64, 64, false), (0x12, 128, 64, false), (0x13, 192, 64, false)]

theorem bits_of_mem (h : (fn.toNat, lo, w, sg) ∈ handleTable) : HandleField.bits fn = some (lo, w, sg) ∧ lo + w ≤ 256 ∧ w ≤ 64 := by
  have hrow : ∀ p ∈ handleTable, (match p with | (f, l, k, g) => HandleField.bits (BitVec.ofNat 6 f) = some (l, k, g) ∧ l + k ≤ 256 ∧ k ≤ 64) := by
    decide
  have := hrow _ h
  simpa using this

theorem handleSet_bits (h : (fn.toNat, lo, w, sg) ∈ handleTable) (x : HReg) (v : DWord) (j : Nat) (hj : j < 256) :
    (handleSet x fn v).getLsbD j = if lo ≤ j ∧ j < lo + w then v.getLsbD (j - lo) else x.getLsbD j := by
  obtain ⟨hb, hle, -⟩ := bits_of_mem h
  unfold handleSet
  rw [hb]
  simp only [BitVec.getLsbD_ofNat, hj, decide_true, Bool.true_and, testBit_replaceField]
  rfl

theorem handleGet_eq (h : (fn.toNat, lo, w, sg) ∈ handleTable) (x : HReg) :
    handleGet x fn = if sg = true ∧ 2 ^ (w - 1) ≤ x.toNat / 2 ^ lo % 2 ^ w
      then BitVec.ofInt 64 ((x.toNat / 2 ^ lo % 2 ^ w : Nat) - 2 ^ w) else BitVec.ofNat 64 (x.toNat / 2 ^ lo % 2 ^ w) := by
  obtain ⟨hb, -, -⟩ := bits_of_mem h
  have hlt : x.toNat / 2 ^ lo % 2 ^ w < 2 ^ w := Nat.mod_lt _ (Nat.two_pow_pos w)
  unfold handleGet
  rw [hb]
  simp only [sextN_eq hlt, zextN_eq hlt]
  cases sg with
  | false => rw [if_neg (by decide), if_neg (fun hc => absurd hc.1 (by decide))]
  | true =>
    rw [if_pos rfl]
    by_cases hs : 2 ^ (w - 1) ≤ x.toNat / 2 ^ lo % 2 ^ w
    · rw [if_neg (Nat.not_lt.mpr hs), if_pos ⟨rfl, hs⟩]
    · rw [if_pos (Nat.not_le.mp hs), if_neg (fun hc => hs hc.2), BitVec.ofInt_natCast]

end Fields

/-- Settles O15: each handle instruction by its access or its field. -/
theorem handles : Obligations.Handles := by
  unfold Obligations.Handles
  intro s d a b fn imm lw lo w sg hmem hw m field replaces setsH ea eb
  refine ⟨fun hs hr h0 h1 h2 => ⟨?_, ?_⟩, fun hs hr => ?_, fun hs hr => ?_, fun hs hg hr h0 h1 h2 => ?_⟩
  · refine ⟨BitVec.ofNat 256 (Memory.readN m ea 32), ?_, retires_of_issue _ exec_hld hs ?_⟩
    · exact (BitVec.toNat_ofNat ..).trans (Nat.mod_eq_of_lt (readN_lt m ea 32))
    · rw [hld_body hr, fresh_getS]
      exact access_made (ea := eaOf s a imm) h0 h1 h2
  · refine storesSpad_of_issue _ exec_hst hs ?_ hw
    rw [hst_body hr, fresh_getS, fresh_getH]
    exact access_made (ea := eaOf s a imm) h0 h1 h2
  · refine writesS_of_issue _ exec_hget hs ?_
    rw [fresh_ready (srcs := [srcH a]) (dests := [srcS d]) hr, fresh_getH, handleGet_eq hmem]
  · refine ⟨handleSet (s.getH s.cur d) fn (s.getS s.cur a), fun j hj => handleSet_bits hmem _ _ j hj, retires_of_issue _ exec_hset hs ?_⟩
    rw [fresh_ready (srcs := [srcS a, srcH d]) (dests := []) hr, fresh_getH, fresh_getS]
  · obtain ⟨t, he, hb, ho⟩ := hpatch_retires (fn := fn) hs hg hr hw ⟨h0, h1, h2⟩
    exact ⟨t, _, he, fun j hj => handleSet_bits hmem _ _ j hj, hb, ho⟩

end Sys2Proof.Proofs.Atomics
end

section
/-! PROOFS. The stage unit (R120 to R122): queues, and the balancer's choice of a stage. -/

namespace Sys2Proof.Proofs.Stages

open Sys2Proof.Machine
open Sys2Proof.Safety
open Sys2Proof.Proofs.Transfers
open Sys2Proof.Proofs.Flow
open Sys2Proof.Proofs.Traps
open Sys2Proof.Proofs.Tokens
open Sys2Proof.Proofs.Ready

/-! ### Queues -/

section Queues

variable {s : State} {c x : Nat} {d a b : Reg}

theorem exec_enq : exec (.enq d a b) s = execEnq d a b s := rfl
theorem exec_deq : exec (.deq d a) s = execDeq d a s := rfl
theorem exec_yield : exec .yieldStage s = execYieldStage s := rfl

/-- The queue of a number, as the core holds it. -/
def queueAt (s : State) (c n : Nat) : StageQueue := SMap.get ⟨0, 0, 0, []⟩ (s.core c).queues n

/-- The thread's stage may use an end of the queue. -/
def MayUse (s : State) (c x n : Nat) (fromEnd : Bool) : Prop :=
  n < (s.core c).queues.length ∧ (s.ctx c x).stage = some (if fromEnd then (queueAt s c n).from_ else (queueAt s c n).to_)

theorem queueOk_of (n : DWord) (f : Bool) (h : MayUse s c x n.toNat f) :
    (fresh s).queueOk (.thread c x) n f = some (queueAt s c n.toNat) := by
  obtain ⟨hlt, hst⟩ := h
  unfold State.queueOk
  rw [fresh_thread, show s.thread (.thread c x) = s.ctx c x from rfl, hst]
  exact (if_pos hlt).trans (if_pos rfl)

theorem queueOk_of_not (n : DWord) (f : Bool) (h : ¬ MayUse s c x n.toNat f) : (fresh s).queueOk (.thread c x) n f = none := by
  unfold State.queueOk
  rw [fresh_thread, show s.thread (.thread c x) = s.ctx c x from rfl]
  cases hst : (s.ctx c x).stage with
  | none => rfl
  | some st =>
    by_cases hlt : n.toNat < (s.core c).queues.length
    · refine (if_pos hlt).trans (if_neg fun he => h ⟨hlt, ?_⟩)
      rw [hst, ← he]
      rfl
    · exact if_neg hlt

end Queues

/-! ### The balancer's figures (R122) -/

section Balance

variable (k : Core)

theorem foldl_filter_add {α : Type} (p : α → Bool) (f : α → Nat) (l : List α) (n : Nat) :
    (l.filter p).foldl (fun n e => n + f e) n = n + (l.map (fun e => if p e = true then f e else 0)).sum := by
  induction l generalizing n with
  | nil => rfl
  | cons e l ih =>
    by_cases h : p e = true
    · rw [List.filter_cons_of_pos h, List.foldl_cons, ih, List.map_cons, List.sum_cons, if_pos h, Nat.add_assoc]
    · rw [List.filter_cons_of_neg h, ih, List.map_cons, List.sum_cons, if_neg h, Nat.zero_add]

theorem occupancy_eq (st : Nat) :
    k.occupancy st = (k.queues.map (fun e => if e.2.to_ = st then e.2.entries.length else 0)).sum := by
  rw [Core.occupancy, foldl_filter_add, Nat.zero_add]
  simp only [beq_iff_eq]

theorem isOpen_iff (st : Nat) : k.isOpen st = true ↔ ∀ e, e ∈ k.queues → e.2.from_ = st → e.2.entries.length < e.2.depth := by
  simp [Core.isOpen, imp_iff_not_or]

/-- A stage of a number below 8 that the core declares, with its function. -/
def Declared (st f : Nat) : Prop := st < 8 ∧ k.stages.find? (fun e => e.1 == st) = some (st, f)

variable {k}

theorem mem_stageList {e : Nat × Nat} : e ∈ k.stageList ↔ Declared k e.1 e.2 := by
  unfold Core.stageList Declared
  rw [List.mem_filterMap]
  constructor
  · rintro ⟨i, hi, hf⟩
    have he : e.1 = i := by simpa using List.find?_some hf
    subst he
    exact ⟨List.mem_range.mp hi, hf⟩
  · rintro ⟨h8, hf⟩
    exact ⟨e.1, List.mem_range.mpr h8, hf⟩

theorem stageList_sorted : k.stageList.Pairwise (fun e f => e.1 < f.1) := by
  refine List.Pairwise.filterMap _ ?_ List.pairwise_lt_range
  intro i j hij e he f hf
  have h1 : e.1 = i := by simpa using List.find?_some he
  have h2 : f.1 = j := by simpa using List.find?_some hf
  omega

/-- One step of the balancer's search. -/
def better (k : Core) (b : Option (Nat × Nat)) (e : Nat × Nat) : Option (Nat × Nat) :=
  if k.isOpen e.1 then
    match b with
    | none => some e
    | some f => if k.occupancy f.1 < k.occupancy e.1 then some e else b
  else b

theorem bestStage_eq : k.bestStage = k.stageList.foldl (better k) none := rfl

theorem foldl_better_mem {l : List (Nat × Nat)} {acc : Option (Nat × Nat)} {b : Nat × Nat} (h : l.foldl (better k) acc = some b) :
    acc = some b ∨ (b ∈ l ∧ k.isOpen b.1 = true) := by
  induction l generalizing acc with
  | nil => exact Or.inl h
  | cons e l ih =>
    rcases ih h with h' | ⟨hm, ho⟩
    · unfold better at h'
      split at h'
      · next hopen =>
        split at h'
        · cases h'; exact Or.inr ⟨List.mem_cons_self, hopen⟩
        · split at h'
          · cases h'; exact Or.inr ⟨List.mem_cons_self, hopen⟩
          · exact Or.inl h'
      · exact Or.inl h'
    · exact Or.inr ⟨List.mem_cons_of_mem _ hm, ho⟩

/-- Stages with fewer entries leave a smaller candidate. -/
theorem foldl_better_lt {l : List (Nat × Nat)} {acc : Option (Nat × Nat)} {n : Nat}
    (ha : ∀ f, acc = some f → k.occupancy f.1 < n) (hl : ∀ e ∈ l, k.isOpen e.1 = true → k.occupancy e.1 < n) :
    ∀ f, l.foldl (better k) acc = some f → k.occupancy f.1 < n := by
  intro f hf
  rcases foldl_better_mem hf with h | ⟨hm, ho⟩
  · exact ha f h
  · exact hl f hm ho

/-- Stages with no more entries leave the candidate. -/
theorem foldl_better_keeps {l : List (Nat × Nat)} {e : Nat × Nat} (hl : ∀ f ∈ l, k.isOpen f.1 = true → k.occupancy f.1 ≤ k.occupancy e.1) :
    l.foldl (better k) (some e) = some e := by
  induction l with
  | nil => rfl
  | cons f l ih =>
    have h : better k (some e) f = some e := by
      unfold better
      split
      · next ho => exact if_neg (Nat.not_lt.mpr (hl f List.mem_cons_self ho))
      · rfl
    rw [List.foldl_cons, h]
    exact ih fun g hg => hl g (List.mem_cons_of_mem _ hg)

theorem bestStage_of {best f : Nat} (hd : Declared k best f) (ho : k.isOpen best = true)
    (hbest : ∀ st g, Declared k st g → k.isOpen st = true →
      k.occupancy st ≤ k.occupancy best ∧ (k.occupancy st = k.occupancy best → best ≤ st)) : k.bestStage = some (best, f) := by
  obtain ⟨pre, post, hl⟩ := List.append_of_mem (mem_stageList.mpr hd : (best, f) ∈ k.stageList)
  have hs := stageList_sorted (k := k)
  rw [hl, List.pairwise_append] at hs
  obtain ⟨-, -, hlt⟩ := hs
  have hdecl : ∀ e ∈ pre ++ (best, f) :: post, Declared k e.1 e.2 := fun e he => mem_stageList.mp (hl ▸ he)
  have hpre : ∀ g, pre.foldl (better k) none = some g → k.occupancy g.1 < k.occupancy best := by
    refine foldl_better_lt (fun g hg => by cases hg) fun e he heo => ?_
    obtain ⟨h1, h2⟩ := hbest e.1 e.2 (hdecl e (List.mem_append_left _ he)) heo
    have h3 := hlt e he (best, f) List.mem_cons_self
    refine Nat.lt_of_le_of_ne h1 fun heq => ?_
    have := h2 heq
    simp only at h3
    omega
  have hstep : better k (pre.foldl (better k) none) (best, f) = some (best, f) := by
    unfold better
    rw [if_pos ho]
    split
    · rfl
    · next g hg => exact if_pos (hpre g hg)
  rw [bestStage_eq, hl, List.foldl_append, List.foldl_cons, hstep]
  exact foldl_better_keeps fun g hg hgo => (hbest g.1 g.2 (hdecl g (List.mem_append_right _ (List.mem_cons_of_mem _ hg))) hgo).1

theorem bestStage_declared {b : Nat × Nat} (h : k.bestStage = some b) : Declared k b.1 b.2 ∧ k.isOpen b.1 = true := by
  rcases foldl_better_mem (bestStage_eq ▸ h) with h | ⟨hm, ho⟩
  · cases h
  · exact ⟨mem_stageList.mp hm, ho⟩

theorem stageMembers_eq (st : Nat) : k.stageMembers st =
    (k.ctxs.filter (fun e => e.2.live && e.2.stage == some st && !(SMap.keys k.savedCtxs).contains e.1)).length +
      (k.savedCtxs.filter (fun e => e.2.stage == some st)).length := by
  have h : ∀ n, (SMap.keys k.savedCtxs).contains n = k.savedCtxs.any (fun f => f.1 == n) := by
    intro n
    rw [Bool.eq_iff_iff, List.contains_iff_mem]
    simp [SMap.keys]
  simp only [Core.stageMembers, h]

end Balance

/-! ### `YIELD` -/

section Yield

variable {s : State} {c x : Nat}

/-- The threads of a stage, the saved ones too. -/
def members (k : Core) (cur : Nat) : Nat :=
  (k.ctxs.filter (fun e => e.2.live && e.2.stage == some cur && !(SMap.keys k.savedCtxs).contains e.1)).length +
    (k.savedCtxs.filter (fun e => e.2.stage == some cur)).length

theorem mayMove_of {t : Ctx} {cur : Nat} (hst : t.stage = some cur) (hp : t.prog.pend = none) (hl : t.prog.loops.order = [])
    (hv : t.forkV = .none) (ha : t.forkA = .none) (hh : t.modeH = false) : t.mayMove = true := by
  simp [Ctx.mayMove, Prog.inSlot, hst, hp, hl, hv, ha, hh]

theorem not_mayMove {t : Ctx} (h : t.stage = none ∨ t.modeH = true ∨ t.forkV ≠ .none ∨ t.forkA ≠ .none ∨ t.prog.loops.order ≠ [] ∨
    t.prog.inSlot = true) : t.mayMove = false := by
  rcases h with h | h | h | h | h | h <;> simp [Ctx.mayMove, h]

theorem bytesSame_of_fresh {s t : State} (h : BytesSame (fresh s) t) : BytesSame s t := ⟨h.hbm, h.host, h.spad, h.scale⟩

/-- A meaning that sends flow elsewhere. -/
theorem goto_of_issue {i : Instr} {u : State} {len : Nat} {pl : Place} {dest : DWord} (body : Seqr → State → Res)
    (hi : exec i s = issue s len pl body) (hs : Stands s len pl) (hb : body s.cur (fresh s) = .goto u dest) :
    exec i s = .next (finish s.cur (fresh s) len (.goto u dest)) := hi.trans (issue_eq hs hb (by intro f; simp))

/-- The thread that has moved to a stage (R122). -/
def moved (t : Ctx) (b : Nat × Nat) : Ctx :=
  { t with stage := some b.1, instret := t.instret + 1
           prog := (t.prog.setS 3 (BitVec.ofNat 64 b.1)).advance false (BitVec.ofNat 64 b.2) }

/-- The thread goes to the stage that the balancer gives. -/
theorem yield_moves {cur : Nat} {b : Nat × Nat} (hq : s.cur = .thread c x) (hs : Stands s 1 .any) (hr : RegsReady s [srcS 3])
    (hst : (s.ctx c x).stage = some cur) (hm : (s.ctx c x).mayMove = true) (hb : (s.core c).bestStage = some b)
    (hocc : (s.core c).occupancy cur < (s.core c).occupancy b.1) (hmem : 1 < (s.core c).stageMembers cur) :
    exec .yieldStage s = .next ((fresh s).setCtx c x (moved (s.ctx c x) b)) := by
  have hfin : finish s.cur (fresh s) 1 (.goto (((fresh s).setCtx c x { s.ctx c x with stage := some b.1 }).setS
      (.thread c x) 3 (BitVec.ofNat 64 b.1)) (BitVec.ofNat 64 b.2)) = (fresh s).setCtx c x (moved (s.ctx c x) b) := by
    rw [hq]
    simp only [finish, State.countRetired, State.setS, State.setProg, State.prog, State.ctx_setCtx_self, setCtx_setCtx]
    rfl
  rw [← hfin]
  refine goto_of_issue _ exec_yield hs ?_
  have hready : ∀ r, (fresh s).ready (.thread c x) [] [srcS 3] r = r := fun r => by
    rw [← hq]; exact fresh_ready (srcs := []) (dests := [srcS 3]) hr r
  rw [hq]
  simp only [fresh_thread, fresh_core, Seqr.core, show s.thread (.thread c x) = s.ctx c x from rfl, hst, hb, hready]
  exact (if_pos (by simp [hm, hocc, hmem])).trans rfl

theorem yield_stays (hq : s.cur = .thread c x) (hs : Stands s 1 .any)
    (h : ∀ cur b, (s.ctx c x).stage = some cur → (s.ctx c x).mayMove = true → (s.core c).bestStage = some b →
      (s.core c).occupancy cur < (s.core c).occupancy b.1 → ¬ 1 < (s.core c).stageMembers cur) : Retires .yieldStage s 1 (fresh s) := by
  refine retires_of_issue _ exec_yield hs ?_
  rw [hq]
  simp only [fresh_thread, fresh_core, Seqr.core, show s.thread (.thread c x) = s.ctx c x from rfl]
  cases hst : (s.ctx c x).stage with
  | none => rfl
  | some cur =>
    cases hb : (s.core c).bestStage with
    | none => rfl
    | some b =>
      refine if_neg fun hc => ?_
      obtain ⟨hc, hmem⟩ := Bool.and_eq_true_iff.mp hc
      obtain ⟨hm, hocc⟩ := Bool.and_eq_true_iff.mp hc
      exact h cur b hst hm hb (of_decide_eq_true hocc) (of_decide_eq_true hmem)

end Yield

/-- Settles O17: the queues by their ends, the balancer by its figures. -/
theorem stageQueues : Obligations.StageQueues := by
  unfold Obligations.StageQueues
  refine ⟨?_, ?_⟩
  · intro s c x d a b hq hs k n e put
    have hput : ∀ l, (fresh s).setQueue s.cur.core (s.getS s.cur a).toNat { e with entries := l } = put l := fun l => by
      show (fresh s).setCore s.cur.core { (fresh s).core s.cur.core with queues := _ } = _
      rw [show s.cur.core = c by rw [hq]; rfl]
      rfl
    refine ⟨?_, ?_⟩
    · intro hr ok
      have hok : ok → (fresh s).queueOk s.cur (s.getS s.cur a) true = some e := fun h =>
        (congrArg (fun q => (fresh s).queueOk q (s.getS s.cur a) true) hq).trans (queueOk_of _ true h)
      refine ⟨fun h => ?_, fun h hfull => ?_, fun h hroom => ?_⟩
      · refine traps_of_ready _ exec_enq rfl hs hr ?_
        have hno : (fresh s).queueOk s.cur (s.getS s.cur a) true = none :=
          (congrArg (fun q => (fresh s).queueOk q (s.getS s.cur a) true) hq).trans (queueOk_of_not _ true h)
        rw [fresh_getS, hno]
      · refine writesS_of_ready _ exec_enq rfl hs hr ?_
        rw [fresh_getS, hok h]
        exact if_pos hfull
      · refine retires_of_ready _ exec_enq rfl hs hr ?_
        rw [fresh_getS, fresh_getS, hok h]
        refine (if_neg (Nat.not_le.mpr hroom)).trans ?_
        rw [hput]
    · intro hr ok
      have hok : ok → (fresh s).queueOk s.cur (s.getS s.cur a) false = some e := fun h =>
        (congrArg (fun q => (fresh s).queueOk q (s.getS s.cur a) false) hq).trans (queueOk_of _ false h)
      refine ⟨fun h => ?_, fun h hnil => ?_, fun v l h hcons => ?_⟩
      · refine traps_of_ready _ exec_deq rfl hs hr ?_
        have hno : (fresh s).queueOk s.cur (s.getS s.cur a) false = none :=
          (congrArg (fun q => (fresh s).queueOk q (s.getS s.cur a) false) hq).trans (queueOk_of_not _ false h)
        rw [fresh_getS, hno]
      · refine retires_of_ready _ exec_deq rfl hs hr ?_
        rw [fresh_getS, hok h]
        simp only [hnil]
      · refine retires_of_ready _ exec_deq rfl hs hr ?_
        rw [fresh_getS, hok h]
        simp only [hcons]
        rw [← hput]
  · intro s c x hq hs hr t k occ isOpen declared free here another
    have hocc : ∀ st, k.occupancy st = occ st := occupancy_eq k
    have hopen : ∀ st, k.isOpen st = true ↔ isOpen st := isOpen_iff k
    have hanother : ∀ cur, 1 < k.stageMembers cur ↔ another cur := fun cur => by rw [stageMembers_eq]; rfl
    refine ⟨fun cur best f hst hfree han hd ho hlt hbest => ?_, fun cur h => ?_⟩
    · obtain ⟨hp, hl, hv, ha, hh⟩ := hfree
      have hb : k.bestStage = some (best, f) := bestStage_of hd ((hopen best).mpr ho) fun st g hdg hog => by
        rw [hocc, hocc]
        exact hbest st g hdg ((hopen st).mp hog)
      refine ⟨_, yield_moves hq hs hr hst (mayMove_of hst hp hl hv ha hh) hb (by rw [hocc, hocc]; exact hlt) ((hanother cur).mpr han),
        bytesSame_of_fresh (bytesSame_setCtx (fresh s) c x _), ?_⟩
      rw [hq]
      have hget : ∀ r, ((fresh s).setCtx c x (moved t (best, f))).getS (.thread c x) r = (moved t (best, f)).prog.getS r.toNat := fun r => by
        show (((fresh s).setCtx c x (moved t (best, f))).ctx c x).prog.getS r.toNat = _
        rw [State.ctx_setCtx_self]
      obtain ⟨-, -, -, -, hp', hl'⟩ := setS_rest t.prog 3 (BitVec.ofNat 64 best)
      have hprog : (moved t (best, f)).prog =
          { t.prog.setS 3 (BitVec.ofNat 64 best) with pc := BitVec.ofNat 64 f, arrive := .plain } := by
        show (t.prog.setS 3 (BitVec.ofNat 64 best)).advance false (BitVec.ofNat 64 f) = _
        rw [advance_of_none (hp'.trans hp)]
        exact loopCheck_of_none (fun j hj => absurd hj (by rw [hl', hl]; simp))
      refine ⟨?_, ?_, fun r hr3 => ?_, ?_, ?_, ?_⟩
      · rw [State.ctx_setCtx_self]; rfl
      · refine (hget 3).trans ?_
        rw [hprog]
        exact (getS_setProg_setS t.prog 3 3 _).trans rfl
      · rw [hget, hprog]
        exact (getS_setProg_setS t.prog 3 r _).trans (if_neg hr3)
      · rw [State.ctx_setCtx_self, hprog]
      · rw [State.ctx_setCtx_self, hprog]
      · rw [State.ctx_setCtx_self]; rfl
    · refine yield_stays hq hs fun cur' b hst hm hb hlt hmem => ?_
      have hmay : ¬ (t.stage = none ∨ t.modeH = true ∨ t.forkV ≠ .none ∨ t.forkA ≠ .none ∨ t.prog.loops.order ≠ [] ∨
          t.prog.inSlot = true) := fun h' => Bool.eq_false_iff.mp (not_mayMove h') hm
      rcases h with h | h | h | h | h | h | ⟨hcur, h⟩
      · exact hmay (Or.inl h)
      · exact hmay (Or.inr (Or.inl h))
      · exact hmay (Or.inr (Or.inr (Or.inl h)))
      · exact hmay (Or.inr (Or.inr (Or.inr (Or.inl h))))
      · exact hmay (Or.inr (Or.inr (Or.inr (Or.inr (Or.inl h)))))
      · exact hmay (Or.inr (Or.inr (Or.inr (Or.inr (Or.inr h)))))
      · obtain rfl : cur = cur' := Option.some.inj (hcur.symm.trans hst)
        rcases h with h | h
        · exact h ((hanother cur).mp hmem)
        · obtain ⟨hd, ho⟩ := bestStage_declared hb
          have := h b.1 b.2 hd ((hopen b.1).mp ho)
          rw [hocc, hocc] at hlt
          omega

end Sys2Proof.Proofs.Stages
end

section
/-! PROOFS. A step against the agenda, the worked words of the spec, and the state that reset leaves. -/

namespace Sys2Proof.Proofs.Steps

open Sys2Proof.Machine
open Sys2Proof.Safety

/-! ### One step -/

section Step

variable {s : State} {q : Seqr} {r : List Turn}

theorem step_issue (h : s.agenda = .issue q :: r) : step s = issueFrom q { s with agenda := r } := by
  simp only [step, h]

theorem step_event {i : Instr} {x : Target} (h : s.agenda = .event i x :: r) : step s = exec i { s with agenda := r, target := x } := by
  simp only [step, h]

theorem step_tick (h : s.agenda = []) : step s = .next s.tick := by
  simp only [step, h]

theorem issueFrom_idle (h : s.mayIssue q = false) : issueFrom q s = .next s := by
  rw [issueFrom, h]; rfl

theorem issueFrom_async (h : s.mayIssue q = true) (ha : s.hasAsync q = true) :
    issueFrom q s = exec .asyncCauseTaken { s with target := q.asTarget } := by
  rw [issueFrom, h, ha]; rfl

theorem issueFrom_fetch (h : s.mayIssue q = true) (ha : s.hasAsync q = false) : issueFrom q s = runFetched q s := by
  rw [issueFrom, h, ha]; rfl

theorem runFetched_ok {i : Instr} (h : s.fetch q (Config.freeWord s.draws) = .ok i) : runFetched q s = exec i { s with cur := q } := by
  rw [runFetched, h]

theorem runFetched_bad {k : Cause} {v p : DWord} (h : s.fetch q (Config.freeWord s.draws) = .bad k v p) :
    runFetched q s = exec (.undefinedMop k v p) { s with cur := q, draws := s.draws + 1 } := by
  rw [runFetched, h]

end Step

theorem exec_undefinedMop (k : Cause) (v p : DWord) (s : State) :
    exec (.undefinedMop k v p) s = .next ((fresh s).raise s.cur ⟨k, v, p, (s.prog s.cur).pend⟩) := rfl

/-- Settles O54: each turn of the agenda by its own equation of `step`. -/
theorem stepsRunTheDecoded : Obligations.StepsRunTheDecoded := by
  unfold Obligations.StepsRunTheDecoded
  refine ⟨fun s q r h => ⟨fun hm => ?_, fun hm ha => ⟨fun i hi => ?_, fun k v p hb => ?_⟩, fun c x hq hm ha => ?_⟩,
    fun s i x r h => step_event h, fun s c v k => exec_undefinedMop k v c s, fun s h => ⟨s.tick, step_tick h, rfl, rfl, ?_⟩⟩
  · rw [step_issue h, issueFrom_idle hm]
  · rw [step_issue h, issueFrom_fetch hm ha, runFetched_ok hi]
  · rw [step_issue h, issueFrom_fetch hm ha, runFetched_bad hb]; rfl
  · subst hq; rw [step_issue h, issueFrom_async hm ha]; rfl
  · rw [← h]; rfl

/-! ### Words -/

/-- Settles O56: the ten words are decoded as they stand. -/
theorem wordsDecode : Obligations.WordsDecode := by
  refine ⟨?_, ?_, ?_, ?_, ?_, ?_, ?_, ?_, ?_, ?_⟩ <;> decide

/-! ### Reset -/

/-- Reset leaves every register of a thread at zero and nothing empty. -/
theorem reset_getS (n : Nat) : ({} : Prog).getS n = 0 := by
  unfold Prog.getS; split <;> rfl

theorem reset_isEmptyS (n : Nat) : ({} : Prog).isEmptyS n = false := by
  simp [Prog.isEmptyS]

theorem reset_getB (n : Nat) : ({} : Prog).getB n = 0 := rfl

/-- The host's view is in order right after reset. -/
theorem boardOk_reset : BoardOk State.reset :=
  ⟨by decide, by decide, fun h => nomatch h⟩

/-- What the state lists is in canonical form right after reset. -/
theorem listsOk_reset : ListsOk State.reset :=
  ⟨rfl, fun _ => rfl, fun _ => rfl, rfl⟩

/-- Settles O58: every list of the state is empty at reset, so each read gives its default. -/
theorem resetValues : Obligations.ResetValues := by
  unfold Obligations.ResetValues
  refine ⟨⟨fun c x => ?_, fun c => ?_, rfl, rfl, rfl, rfl⟩, boardOk_reset, listsOk_reset⟩
  · exact ⟨rfl, fun n => ⟨reset_getS n, reset_isEmptyS n⟩, fun n => ⟨rfl, rfl⟩, rfl, rfl, fun n => ⟨reset_getB n, rfl⟩, rfl, rfl, rfl, rfl,
      rfl, rfl, rfl, rfl, rfl, rfl, rfl, rfl, rfl, rfl, rfl, rfl, rfl, rfl⟩
  · exact ⟨fun a => ⟨rfl, rfl⟩, fun n => ⟨rfl, rfl, rfl⟩, fun n => rfl, fun n => rfl, fun n => rfl, fun n => rfl, rfl, rfl⟩

end Sys2Proof.Proofs.Steps
end

section
/-! PROOFS. The checks of a fetch in their order (R29 to R33, R35). -/

namespace Sys2Proof.Proofs.FetchOrder

open Sys2Proof.Machine
open Sys2Proof.Safety

/-! ### Distances between START marks -/

section Distance

/-- The next marked word of a line, or its end, lies `n` words after word `w`. -/
def NextMark (head : Word) (w n : Nat) : Prop :=
  1 ≤ n ∧ w + n ≤ 32 ∧ (w + n = 32 ∨ head.getLsbD (w + n - 2) = true) ∧ ∀ j, 1 ≤ j → j < n → head.getLsbD (w + j - 2) = false

variable {head : Word} {w n m : Nat}

theorem NextMark.not_lt (h : NextMark head w n) (h' : NextMark head w m) : ¬ n < m := by
  obtain ⟨h1, -, hmark, -⟩ := h
  obtain ⟨-, hle, -, hfirst⟩ := h'
  intro hlt
  have hn := hfirst n h1 hlt
  rcases hmark with hend | hbit
  · omega
  · rw [hbit] at hn; exact Bool.noConfusion hn

theorem NextMark.unique (h : NextMark head w n) (h' : NextMark head w m) : n = m :=
  Nat.le_antisymm (Nat.not_lt.mp (h'.not_lt h)) (Nat.not_lt.mp (h.not_lt h'))

theorem nextMark_startDistance (hw : w < 32) : NextMark head w (startDistance head w) := by
  unfold startDistance
  cases hf : (List.range (31 - w)).find? (fun k => head.getLsbD (w + 1 + k - 2)) with
  | none =>
    have hno := List.find?_range_eq_none.mp hf
    refine ⟨by simp only [Option.elim]; omega, by simp only [Option.elim]; omega, Or.inl (by simp only [Option.elim]; omega), fun j h1 hj => ?_⟩
    have := hno (j - 1) (by simp only [Option.elim] at hj; omega)
    rwa [show w + 1 + (j - 1) - 2 = w + j - 2 by omega, Bool.not_eq_true'] at this
  | some k =>
    obtain ⟨hbit, hmem, hno⟩ := List.find?_range_eq_some.mp hf
    have hk := List.mem_range.mp hmem
    refine ⟨Nat.succ_pos k, by simp only [Option.elim]; omega, Or.inr ?_, fun j h1 hj => ?_⟩
    · simp only [Option.elim]; rwa [show w + (k + 1) - 2 = w + 1 + k - 2 by omega]
    · have := hno (j - 1) (by simp only [Option.elim] at hj; omega)
      rwa [show w + 1 + (j - 1) - 2 = w + j - 2 by omega, Bool.not_eq_true'] at this

theorem startDistance_eq_iff (hw : w < 32) : startDistance head w = n ↔ NextMark head w n :=
  ⟨fun h => h ▸ nextMark_startDistance hw, fun h => (nextMark_startDistance hw).unique h⟩

end Distance

/-! ### Damage and marks -/

section Marks

variable {s : State} {q : Seqr}

theorem wordBad_iff (b : Nat) :
    s.wordBad q b = true ↔ s.atM q = false ∧ ∃ n, (q.imem, n) ∈ (s.core q.core).badWords ∧ n / 2 = b / 8 := by
  simp only [State.wordBad, Bool.and_eq_true, Bool.not_eq_true', List.any_eq_true, decide_eq_true_eq, beq_iff_eq, Nat.div_div_eq_div_mul,
    Prod.exists]
  refine and_congr_right fun _ => ⟨?_, ?_⟩
  · rintro ⟨m, n, hmem, rfl, hn⟩; exact ⟨n, hmem, hn⟩
  · rintro ⟨n, hmem, hn⟩; exact ⟨_, n, hmem, rfl, hn⟩

theorem fetchBad_iff (a : Nat) :
    s.fetchBad q a = true ↔
      s.wordBad q (a / 128 * 128) = true ∨ ∃ k, k < s.neededWords q a ∧ s.wordBad q (a + 4 * k) = true := by
  simp only [State.fetchBad, Bool.or_eq_true, List.any_eq_true, List.mem_range]

theorem startBit_iff (a : Nat) :
    s.startBit q a = true ↔ 2 ≤ a / 4 % 32 ∧ (s.iword q (a / 128 * 128)).getLsbD (a / 4 % 32 - 2) = true := by
  simp only [State.startBit, Bool.and_eq_true, decide_eq_true_eq]

theorem targetBit_iff (a : Nat) :
    s.targetBit q a = true ↔ 2 ≤ a / 4 % 32 ∧ (s.iword q (a / 128 * 128 + 4)).getLsbD (a / 4 % 32 - 2) = true := by
  simp only [State.targetBit, Bool.and_eq_true, decide_eq_true_eq]

theorem isChecked_eq_false_iff (v : Arrive) : v.isChecked = false ↔ v = .plain ∨ ∃ x, v = .untaken x := by
  cases v <;> simp [Arrive.isChecked]

/-- KIND of a line and the upper bits of its second header word are zero. -/
theorem kinds_iff (a : Nat) :
    (s.lineKind q a ≠ 0 ∨ (s.iword q (a / 128 * 128 + 4)).toNat / 2 ^ 30 ≠ 0) ↔
      ¬ ((s.iword q (a / 128 * 128)).toNat < 2 ^ 30 ∧ (s.iword q (a / 128 * 128 + 4)).toNat < 2 ^ 30) := by
  unfold State.lineKind; omega

end Marks

/-! ### One lemma per check -/

section Checks

variable {s : State} {q : Seqr} {free : DWord} {a : Nat}

/-- The address of the sequencer's next instruction lies in the memory, at a word. -/
structure Inside (s : State) (q : Seqr) (a : Nat) : Prop where
  pc : (s.prog q).pc.toNat = a
  lt : a < q.imem.bytes
  word : a % 4 = 0

/-- The checks up to the transfer's marks pass. -/
structure Entered (s : State) (q : Seqr) (a : Nat) : Prop extends Inside s q a where
  sound : s.fetchBad q a = false
  plain : ¬ (s.lineKind q a ≠ 0 ∨ (s.iword q (a / 128 * 128 + 4)).toNat / 2 ^ 30 ≠ 0)
  marked : ((s.prog q).arrive.isChecked && !(s.startBit q a && s.targetBit q a)) = false

theorem fetch_outside (h : ¬ (s.prog q).pc.toNat < q.imem.bytes) :
    s.fetch q free = .bad .cfi (cfiVal (s.prog q).arrive (s.prog q).pc free) (s.prog q).pc :=
  if_pos (Nat.not_lt.mp h)

theorem fetch_misaligned (h : (s.prog q).pc.toNat < q.imem.bytes) (ha : (s.prog q).pc.toNat % 4 ≠ 0) :
    s.fetch q free = if (s.prog q).arrive.isChecked then .bad .cfi (cfiVal (s.prog q).arrive (s.prog q).pc free) (s.prog q).pc
      else .bad .illen (s.prog q).pc (s.prog q).pc :=
  (if_neg (Nat.not_le.mpr h)).trans (if_pos ha)

theorem fetch_damaged (h : Inside s q a) (hb : s.fetchBad q a = true) :
    s.fetch q free = .bad .eccu (BitVec.ofNat 64 (a / 128 * 128)) (s.prog q).pc := by
  obtain ⟨rfl, hlt, hw⟩ := h
  exact (if_neg (Nat.not_le.mpr hlt)).trans ((if_neg (not_not.mpr hw)).trans (if_pos hb))

theorem fetch_wrongKind (h : Inside s q a) (hb : s.fetchBad q a = false)
    (hk : s.lineKind q a ≠ 0 ∨ (s.iword q (a / 128 * 128 + 4)).toNat / 2 ^ 30 ≠ 0) :
    s.fetch q free = .bad .illegal (BitVec.ofNat 64 (a / 128 * 128)) (s.prog q).pc := by
  obtain ⟨rfl, hlt, hw⟩ := h
  exact (if_neg (Nat.not_le.mpr hlt)).trans ((if_neg (not_not.mpr hw)).trans ((if_neg (Bool.eq_false_iff.mp hb)).trans (if_pos hk)))

theorem fetch_unmarked (h : Inside s q a) (hb : s.fetchBad q a = false)
    (hk : ¬ (s.lineKind q a ≠ 0 ∨ (s.iword q (a / 128 * 128 + 4)).toNat / 2 ^ 30 ≠ 0))
    (hm : ((s.prog q).arrive.isChecked && !(s.startBit q a && s.targetBit q a)) = true) :
    s.fetch q free = .bad .cfi (cfiVal (s.prog q).arrive (s.prog q).pc free) (s.prog q).pc := by
  obtain ⟨rfl, hlt, hw⟩ := h
  exact (if_neg (Nat.not_le.mpr hlt)).trans ((if_neg (not_not.mpr hw)).trans ((if_neg (Bool.eq_false_iff.mp hb)).trans
    ((if_neg hk).trans (if_pos hm))))

/-- What the fetch does at a destination that passed the checks up to its marks. -/
def fetchWords (s : State) (q : Seqr) (a : Nat) : Fetched :=
  if a / 4 % 32 < 2 then .bad .illen (s.prog q).pc (s.prog q).pc
  else
    match mopLength q.imem (s.iword q a).fMop.toNat with
    | none => .bad .illegal (s.prog q).pc (s.prog q).pc
    | some n =>
      if !((s.iword q (a / 128 * 128)).getLsbD 0) || !(s.startBit q a) || startDistance (s.iword q (a / 128 * 128)) (a / 4 % 32) != n then
        .bad .illen (s.prog q).pc (s.prog q).pc
      else
        match decode q.imem ((List.range n).map (fun k => s.iword q (a + 4 * k))) with
        | .ok i => .ok i
        | .error _ => .bad .illegal (s.prog q).pc (s.prog q).pc

theorem fetch_entered (h : Entered s q a) : s.fetch q free = fetchWords s q a := by
  obtain ⟨⟨rfl, hlt, hw⟩, hb, hk, hm⟩ := h
  exact (if_neg (Nat.not_le.mpr hlt)).trans ((if_neg (not_not.mpr hw)).trans ((if_neg (Bool.eq_false_iff.mp hb)).trans
    ((if_neg hk).trans (if_neg (Bool.eq_false_iff.mp hm)))))

theorem fetchWords_header (h : a / 4 % 32 < 2) : fetchWords s q a = .bad .illen (s.prog q).pc (s.prog q).pc := if_pos h

theorem fetchWords_undefined (h : 2 ≤ a / 4 % 32) (hm : mopLength q.imem (s.iword q a).fMop.toNat = none) :
    fetchWords s q a = .bad .illegal (s.prog q).pc (s.prog q).pc := by
  rw [fetchWords, if_neg (Nat.not_lt.mpr h), hm]

/-- The START bits of a line mark its word 2, the instruction's first word, and the word after its last. -/
def MarksFit (s : State) (q : Seqr) (a n : Nat) : Prop :=
  (s.iword q (a / 128 * 128)).getLsbD 0 = true ∧ s.startBit q a = true ∧ startDistance (s.iword q (a / 128 * 128)) (a / 4 % 32) = n

theorem not_marksFit_iff (n : Nat) :
    (!((s.iword q (a / 128 * 128)).getLsbD 0) || !(s.startBit q a) || startDistance (s.iword q (a / 128 * 128)) (a / 4 % 32) != n) = true ↔
      ¬ MarksFit s q a n := by
  simp only [MarksFit, Bool.or_eq_true, Bool.not_eq_true', bne_iff_ne, ne_eq, ← Bool.not_eq_true]
  tauto

theorem fetchWords_unfit {n : Nat} (h : 2 ≤ a / 4 % 32) (hm : mopLength q.imem (s.iword q a).fMop.toNat = some n) (hf : ¬ MarksFit s q a n) :
    fetchWords s q a = .bad .illen (s.prog q).pc (s.prog q).pc := by
  rw [fetchWords, if_neg (Nat.not_lt.mpr h), hm]
  exact if_pos ((not_marksFit_iff n).mpr hf)

theorem fetchWords_fit {n : Nat} (h : 2 ≤ a / 4 % 32) (hm : mopLength q.imem (s.iword q a).fMop.toNat = some n) (hf : MarksFit s q a n) :
    fetchWords s q a = match decode q.imem ((List.range n).map (fun k => s.iword q (a + 4 * k))) with
      | .ok i => .ok i
      | .error _ => .bad .illegal (s.prog q).pc (s.prog q).pc := by
  rw [fetchWords, if_neg (Nat.not_lt.mpr h), hm]
  exact if_neg fun hc => (not_marksFit_iff n).mp hc hf

end Checks

/-- Settles O55: the checks of `State.fetch` are met in their order, each with its own lemma. -/
theorem fetchChecks : Obligations.FetchChecks := by
  unfold Obligations.FetchChecks
  intro s q free p a ln w head start target bad gives from_ dist unchecked needed damaged inside plainLine
  have hw : w < 32 := Nat.mod_lt _ (by decide)
  have hfrom : cfiVal p.arrive p.pc free = from_ := by
    show _ = match p.arrive with | .plain => _ | .checked _ => _ | .untaken _ => _ | .fork _ => _ | .launch => _
    cases p.arrive <;> rfl
  have hun : p.arrive.isChecked = false ↔ unchecked := isChecked_eq_false_iff p.arrive
  have hdamaged : s.fetchBad q a = true ↔ damaged := by
    rw [fetchBad_iff]
    exact or_congr (wordBad_iff _) (exists_congr fun k => and_congr_right fun _ => wordBad_iff _)
  have hmarked : (p.arrive.isChecked && !(s.startBit q a && s.targetBit q a)) = false ↔ unchecked ∨ start w ∧ target w := by
    rw [← hun, Bool.and_eq_false_iff, Bool.not_eq_false', Bool.and_eq_true, startBit_iff, targetBit_iff]
  refine ⟨fun hout => ?_, fun hin hmis => ⟨fun hu => ?_, fun hu => ?_⟩, fun hin hal => ⟨fun hd => ?_, fun hd => ?_⟩⟩
  · exact (fetch_outside hout).trans (by rw [hfrom])
  · exact (fetch_misaligned hin hmis).trans (if_neg (Bool.eq_false_iff.mp (hun.mpr hu)))
  · exact ((fetch_misaligned hin hmis).trans (if_pos (Bool.not_eq_false _ ▸ mt hun.mp hu))).trans (by rw [hfrom])
  · exact fetch_damaged ⟨rfl, hin, hal⟩ (hdamaged.mpr hd)
  have hat : Inside s q a := ⟨rfl, hin, hal⟩
  have hb : s.fetchBad q a = false := Bool.eq_false_iff.mpr (mt hdamaged.mp hd)
  refine ⟨fun hk => fetch_wrongKind hat hb ((kinds_iff a).mpr hk), fun hk => ⟨fun hu hno => ?_, fun hm => ?_⟩⟩
  · have hmk := mt hmarked.mp (not_or.mpr ⟨hu, hno⟩)
    exact (fetch_unmarked hat hb (fun h => (kinds_iff a).mp h hk) (Bool.not_eq_false _ ▸ hmk)).trans (by rw [hfrom])
  have hent : Entered s q a := ⟨hat, hb, fun h => (kinds_iff a).mp h hk, hmarked.mpr hm⟩
  refine ⟨fun h2 => (fetch_entered hent).trans (fetchWords_header h2), fun h2 => ⟨fun hn => ?_, fun n hn => ?_⟩⟩
  · exact (fetch_entered hent).trans (fetchWords_undefined h2 hn)
  have hsound : MarksFit s q a n ↔ start 2 ∧ start w ∧ dist n := by
    refine and_congr ⟨fun h => ⟨le_refl 2, h⟩, And.right⟩ (and_congr (startBit_iff a) ((startDistance_eq_iff hw).trans ?_))
    have hstart : ∀ j, start (w + j) ↔ head.getLsbD (w + j - 2) = true := fun j => ⟨And.right, fun h => ⟨by omega, h⟩⟩
    refine and_congr_right fun _ => and_congr_right fun _ => and_congr (or_congr_right (hstart n).symm) ?_
    exact forall_congr' fun j => forall_congr' fun _ => forall_congr' fun _ => by rw [hstart j, Bool.not_eq_true]
  refine ⟨fun hs => (fetch_entered hent).trans (fetchWords_unfit h2 hn (mt hsound.mp hs)), fun hs => ⟨fun i hi => ?_, fun e he => ?_⟩⟩
  · exact (fetch_entered hent).trans ((fetchWords_fit h2 hn (hsound.mpr hs)).trans (by rw [hi]))
  · exact (fetch_entered hent).trans ((fetchWords_fit h2 hn (hsound.mpr hs)).trans (by rw [he]))

end Sys2Proof.Proofs.FetchOrder
end

section
/-! PROOFS. What every state transformer keeps: the relation `Keep`, and its rules for the state's operations. -/

namespace Sys2Proof.Proofs.Invariants

open Sys2Proof.Machine
open Sys2Proof.Safety

/-! ### Canonical lists -/

section Lists

variable {α : Type}

theorem wf_cons_iff (k : Nat) (v : α) (m : SMap α) :
    SMap.wf ((k, v) :: m) = true ↔ (∀ p ∈ m, k < p.1) ∧ SMap.wf m = true := by
  induction m generalizing k v with
  | nil => simp [SMap.wf]
  | cons p r ih =>
    obtain ⟨j, w⟩ := p
    rw [SMap.wf, Bool.and_eq_true, decide_eq_true_eq, List.forall_mem_cons]
    exact ⟨fun ⟨hkj, hr⟩ => ⟨⟨hkj, fun p hp => hkj.trans (((ih j w).mp hr).1 p hp)⟩, hr⟩, fun ⟨⟨hkj, _⟩, hr⟩ => ⟨hkj, hr⟩⟩

theorem wf_iff_pairwise (m : SMap α) : SMap.wf m = true ↔ m.Pairwise (fun p q => p.1 < q.1) := by
  induction m with
  | nil => simp [SMap.wf]
  | cons p r ih => rw [List.pairwise_cons, ← ih]; exact wf_cons_iff p.1 p.2 r

theorem erase_eq_filter (m : SMap α) (n : Nat) : SMap.erase m n = m.filter (fun p => p.1 != n) := by
  induction m with
  | nil => rfl
  | cons p r ih => by_cases h : p.1 = n <;> simp [SMap.erase, h, ih]

theorem wf_filter {m : SMap α} (f : Nat × α → Bool) (h : SMap.wf m = true) : SMap.wf (m.filter f) = true :=
  (wf_iff_pairwise _).mpr (((wf_iff_pairwise m).mp h).filter f)

theorem wf_erase {m : SMap α} (n : Nat) (h : SMap.wf m = true) : SMap.wf (SMap.erase m n) = true :=
  erase_eq_filter m n ▸ wf_filter _ h

theorem wf_mapVals {β : Type} {m : SMap α} (f : Nat → α → β) (h : SMap.wf m = true) : SMap.wf (SMap.mapVals f m) = true := by
  rw [wf_iff_pairwise] at h ⊢
  exact List.pairwise_map.mpr h

theorem wf_foldl_write {β : Type} (a : β → Nat) (b : β → Byte) (l : List β) {m : Memory} (h : m.wf = true) :
    Memory.wf (l.foldl (fun m e => m.write (a e) (b e)) m) = true :=
  List.foldlRecOn (motive := fun m => Memory.wf m = true) l _ h fun m hm e _ => Memory.wf_write m _ _ hm

end Lists

/-! ### The relation -/

/-- What every step keeps: the host's view in order, and the lists in canonical form. -/
structure Keep (s t : State) : Prop where
  board : BoardOk s → BoardOk t
  lists : ListsOk s → ListsOk t

/-- A result keeps what the state it starts from has. -/
inductive ResKeep (s : State) : Res → Prop where
  | retire {t : State} (h : Keep s t) : ResKeep s (.retire t)
  | goto {t : State} {a : DWord} (h : Keep s t) : ResKeep s (.goto t a)
  | xfer {t : State} {x : Xfer} (h : Keep s t) : ResKeep s (.xfer t x)
  | stall : ResKeep s .stall
  | trap {k : Cause} {v : DWord} : ResKeep s (.trap k v)
  | trapAt {t : State} {k : Cause} {v a : DWord} {x : Option Xfer} (h : Keep s t) : ResKeep s (.trapAt t k v a x)
  | whole {t : State} (h : Keep s t) : ResKeep s (.whole t)
  | stop {f : Fault} : ResKeep s (.stop f)

/-- A meaning keeps what the state it starts from has. -/
inductive OutKeep (s : State) : Out → Prop where
  | next {t : State} (h : Keep s t) : OutKeep s (.next t)
  | fault {f : Fault} : OutKeep s (.fault f)
  | refused {r : Refusal} : OutKeep s (.refused r)

section Rules

variable {s t u : State}

theorem Keep.refl {s : State} : Keep s s := ⟨id, id⟩

theorem Keep.trans (h : Keep s t) (h' : Keep t u) : Keep s u := ⟨h'.board ∘ h.board, h'.lists ∘ h.lists⟩

theorem Keep.ite {p : Prop} [Decidable p] (h : Keep s t) (h' : Keep s u) : Keep s (if p then t else u) := by
  split
  · exact h
  · exact h'

theorem ResKeep.ite {p : Prop} [Decidable p] {r r' : Res} (h : ResKeep s r) (h' : ResKeep s r') : ResKeep s (if p then r else r') := by
  split
  · exact h
  · exact h'

theorem OutKeep.ite {p : Prop} [Decidable p] {r r' : Out} (h : OutKeep s r) (h' : OutKeep s r') : OutKeep s (if p then r else r') := by
  split
  · exact h
  · exact h'

theorem ResKeep.mono {r : Res} (h : Keep s t) (hr : ResKeep t r) : ResKeep s r := by
  cases hr with
  | retire h' => exact .retire (h.trans h')
  | goto h' => exact .goto (h.trans h')
  | xfer h' => exact .xfer (h.trans h')
  | stall => exact .stall
  | trap => exact .trap
  | trapAt h' => exact .trapAt (h.trans h')
  | whole h' => exact .whole (h.trans h')
  | stop => exact .stop

theorem OutKeep.mono {r : Out} (h : Keep s t) (hr : OutKeep t r) : OutKeep s r := by
  cases hr with
  | next h' => exact .next (h.trans h')
  | fault => exact .fault
  | refused => exact .refused

/-- A fold of transformers that each keep. -/
theorem Keep.foldl {α : Type} {f : State → α → State} (h : Keep s u) (hf : ∀ t a, Keep s t → Keep s (f t a)) (l : List α) :
    Keep s (l.foldl f u) :=
  List.foldlRecOn l f h fun t ht a _ => hf t a ht

/-- A change of the board, with the cores, HBM and the flows as they are. -/
theorem Keep.setBoard {b : Board} (h : Keep s u)
    (hb : BoardOk u → b.eqHead < 4096 ∧ b.eqTail < 4096 ∧ (b.devState = .ready → 128 ≤ b.healthy ∧ b.stopped = false)) :
    Keep s { u with board := b } :=
  ⟨fun hs => hb (h.board hs), fun hs => ⟨(h.lists hs).hbm, (h.lists hs).spad, (h.lists hs).ctxs, (h.lists hs).flows⟩⟩

/-- A change of nothing that the two orders speak of. -/
theorem Keep.rest (h : Keep s u) (hb : t.board = u.board) (hh : t.hbm = u.hbm) (hc : t.cores = u.cores) (hf : t.flows = u.flows) : Keep s t := by
  refine ⟨fun hs => ?_, fun hs => ?_⟩
  · have := h.board hs
    unfold BoardOk at this ⊢; rwa [hb]
  · obtain ⟨h1, h2, h3, h4⟩ := h.lists hs
    have hcore : ∀ c, t.core c = u.core c := fun c => congrArg (fun m => SMap.get ({} : Core) m c) hc
    exact ⟨by rwa [hh], fun c => by rw [hcore]; exact h2 c, fun c => by rw [hcore]; exact h3 c, by rwa [hf]⟩

theorem Keep.setHbm {m : Memory} (h : Keep s u) (hm : u.hbm.wf = true → m.wf = true) : Keep s { u with hbm := m } :=
  ⟨h.board, fun hs => ⟨hm (h.lists hs).hbm, (h.lists hs).spad, (h.lists hs).ctxs, (h.lists hs).flows⟩⟩

theorem Keep.setFlows {m : SMap FlowRec} (h : Keep s u) (hm : SMap.wf u.flows = true → SMap.wf m = true) : Keep s { u with flows := m } :=
  ⟨h.board, fun hs => ⟨(h.lists hs).hbm, (h.lists hs).spad, (h.lists hs).ctxs, hm (h.lists hs).flows⟩⟩

/-- A core is replaced by one whose scratchpad and contexts are canonical where the state's lists are. -/
theorem Keep.replaceOf {c : Nat} {k : Core} (h : Keep s u) (hsp : ListsOk u → k.spad.wf = true)
    (hcx : ListsOk u → SMap.wf k.ctxs = true) : Keep s (u.setCore c k) := by
  refine ⟨h.board, fun hs => ?_⟩
  have hu := h.lists hs
  refine ⟨hu.hbm, fun d => ?_, fun d => ?_, hu.flows⟩ <;> rw [State.core_setCore] <;> split
  · exact hsp hu
  · exact hu.spad d
  · exact hcx hu
  · exact hu.ctxs d

/-- A core is replaced by one whose scratchpad and contexts are canonical where those of the core are. -/
theorem Keep.replace {c : Nat} {k : Core} (h : Keep s u) (hsp : (u.core c).spad.wf = true → k.spad.wf = true)
    (hcx : SMap.wf (u.core c).ctxs = true → SMap.wf k.ctxs = true) : Keep s (u.setCore c k) :=
  h.replaceOf (fun hu => hsp (hu.spad c)) (fun hu => hcx (hu.ctxs c))

/-- A core keeps its scratchpad and its contexts. -/
theorem Keep.setCore {c : Nat} {k : Core} (h : Keep s u) (hsp : k.spad = (u.core c).spad) (hcx : k.ctxs = (u.core c).ctxs) : Keep s (u.setCore c k) :=
  h.replace (fun hw => hsp ▸ hw) (fun hw => hcx ▸ hw)

theorem Keep.setCtx {c x : Nat} {v : Ctx} (h : Keep s u) : Keep s (u.setCtx c x v) :=
  h.replace id (SMap.wf_set _ _ _)

theorem Keep.setSlot {c k : Nat} {v : VSlot} (h : Keep s u) : Keep s (u.setSlot c k v) := .setCore h rfl rfl

theorem Keep.setArc {c : Nat} {a : Arc} (h : Keep s u) : Keep s (u.setArc c a) := .setCore h rfl rfl

theorem Keep.setProg {q : Seqr} {p : Prog} (h : Keep s u) : Keep s (u.setProg q p) := by
  cases q with
  | thread c x => exact .setCtx h
  | vec c k => exact .setSlot h
  | arc c => exact .setArc h

theorem Keep.setThread {q : Seqr} {v : Ctx} (h : Keep s u) : Keep s (u.setThread q v) := .setCtx h

theorem Keep.setS {q : Seqr} {r : Reg} {v : DWord} (h : Keep s u) : Keep s (u.setS q r v) := .setProg h

theorem Keep.countRetired {q : Seqr} (h : Keep s u) : Keep s (u.countRetired q) := by
  cases q with
  | thread c x => exact .setCtx h
  | vec c k => exact h
  | arc c => exact h

/-! ### Traps -/

theorem Keep.dispose {c x : Nat} {r : TrapReq} (h : Keep s u) : Keep s (u.dispose c x r) := .setCore (.setCtx h) rfl rfl

theorem Keep.enterTrap {c x : Nat} {r : TrapReq} (h : Keep s u) : Keep s (u.enterTrap c x r) := by
  unfold State.enterTrap
  exact .ite (.dispose h) (.ite (.setCtx h) (.ite (.rest (.setCtx h) rfl rfl rfl rfl) (.rest (.dispose (.setCtx h)) rfl rfl rfl rfl)))

theorem Keep.endProgram {q : Seqr} {f : Bool} {r : Option FaultRec} (h : Keep s u) : Keep s (u.endProgram q f r) := by
  cases q with
  | thread c x => exact h
  | vec c k => exact .setSlot (.setCtx h)
  | arc c => exact .setArc (.setCtx h)

theorem Keep.tryTrap {q : Seqr} (h : Keep s u) : Keep s (u.tryTrap q) := by
  unfold State.tryTrap
  split
  · exact h
  · refine .ite ?_ h
    split
    · exact .enterTrap h
    · exact .endProgram h

theorem Keep.raise {q : Seqr} {r : TrapReq} (h : Keep s u) : Keep s (u.raise q r) := .tryTrap (.setProg h)

/-! ### The frame of an instruction -/

theorem Keep.finish {q : Seqr} {len : Nat} {r : Res} (h : Keep s u) (hr : ResKeep s r) : Keep s (finish q u len r) := by
  cases hr with
  | retire h' => exact .setProg (.countRetired h')
  | goto h' => exact .setProg (.countRetired h')
  | xfer h' => exact .setProg (.countRetired h')
  | stall => exact .rest h rfl rfl rfl rfl
  | trap => exact .raise h
  | trapAt h' => exact .raise h'
  | whole h' => exact h'
  | stop => exact h

theorem OutKeep.issue {len : Nat} {pl : Place} {body : Seqr → State → Res}
    (hb : ∀ q u, Keep s u → ResKeep s (body q u)) : OutKeep s (issue s len pl body) := by
  have h0 : Keep s (fresh s) := .rest .refl rfl rfl rfl rfl
  unfold Machine.issue
  dsimp only
  split
  · exact .next (.raise h0)
  · have hr := hb s.cur (fresh s) h0
    split
    · exact .fault
    · exact .next (.finish h0 hr)

theorem ResKeep.ready {q : Seqr} {xs ds : List Src} {r : Res} (hr : ResKeep s r) : ResKeep s (u.ready q xs ds r) := by
  unfold State.ready State.need
  split
  · exact .trap
  · split
    · exact .stall
    · exact hr

theorem ResKeep.guarded {q : Seqr} {l : LW} {r : Res} (h : Keep s u) (hr : ResKeep s r) : ResKeep s (guarded l q u r) := by
  unfold Machine.guarded
  exact .ite (.ready (.ite hr (.retire h))) hr

theorem Keep.holdFor {q : Seqr} {n : Nat} (h : Keep s u) : Keep s (u.holdFor q n) := .setProg h
theorem Keep.holdOn {q : Seqr} {d : Hold} (h : Keep s u) : Keep s (u.holdOn q d) := .setProg h
theorem Keep.setH {q : Seqr} {r : Reg} {v : HReg} (h : Keep s u) : Keep s (u.setH q r v) := .setThread h
theorem Keep.setV {q : Seqr} {r : Nat} {v : VReg} (h : Keep s u) : Keep s (u.setV q r v) := .setThread h
theorem Keep.orFsr {q : Seqr} {f : Flags} (h : Keep s u) : Keep s (u.orFsr q f) := .setThread h

end Rules

end Sys2Proof.Proofs.Invariants
end

section
/-! PROOFS. The control subset, the scratchpad and the trap events keep the two orders. -/

namespace Sys2Proof.Proofs.Invariants

open Sys2Proof.Machine
open Sys2Proof.Safety

section Control

variable {s u : State} {d a b fn : Reg} {imm : BitVec 12} {lw : LW}

/-! ### Integer arithmetic -/

theorem keeps_alu2 {f : DWord → DWord → DWord} : OutKeep s (alu2 s d a b f) := .issue fun _ _ h => .ready (.retire (.setS h))
theorem keeps_alu1 {f : DWord → DWord} : OutKeep s (alu1 s d a f) := .issue fun _ _ h => .ready (.retire (.setS h))
theorem keeps_cmp2 {k : BitVec 6} {f : DWord → DWord → Bool} : OutKeep s (cmp2 s d a b k f) :=
  .issue fun _ _ h => .ready (.retire (.setS h))
theorem keeps_divide {f : DWord → DWord → DWord} : OutKeep s (divide s d a b f) :=
  .issue fun _ _ h => .ready (.ite .trap (.retire (.holdFor (.setS h))))

theorem keeps_cmpi : OutKeep s (execCmpi d a imm lw s) := .issue fun _ _ h => .guarded h (.ready (.retire (.setS h)))
theorem keeps_bins : OutKeep s (execBins d a imm s) := .issue fun _ _ h => .ready (.retire (.setS h))
theorem keeps_lea : OutKeep s (execLea d a b fn lw s) := .issue fun _ _ h => .guarded h (.ready (.retire (.setS h)))
theorem keeps_li {w : Word} : OutKeep s (execLi d w s) := .issue fun _ _ h => .ready (.retire (.setS h))
theorem keeps_lui {w : Word} : OutKeep s (execLui d w s) := .issue fun _ _ h => .ready (.retire (.setS h))
theorem keeps_sel : OutKeep s (execSel d a b lw s) := .issue fun _ _ h => .guarded h (.ready (.retire (.setS h)))

/-! ### Transfers and loops -/

theorem keeps_pbr {imm : BitVec 18} : OutKeep s (execPbr d imm s) := .issue fun _ _ h => .retire (.setProg h)
theorem keeps_pbrr : OutKeep s (execPbrr d a s) := .issue fun _ _ h => .ready (.ite .trap (.retire (.setProg h)))
theorem ResKeep.startXfer {q : Seqr} {k : XKind} {v : DWord} {t : Bool} (h : Keep s u) : ResKeep s (u.startXfer q k v t) := .xfer h
theorem keeps_branchOn {w : Bool} : OutKeep s (branchOn d a fn w s) := .issue fun _ _ h => .ready (.startXfer h)
theorem keeps_br : OutKeep s (execBr d s) := .issue fun _ _ h => .startXfer h
theorem keeps_call : OutKeep s (execCall d s) := .issue fun _ _ h => .ready (.startXfer (.setS h))
theorem keeps_ret : OutKeep s (execRet s) := .issue fun _ _ h => .ready (.startXfer h)

theorem ResKeep.armLoop {q : Seqr} {n : Nat} {k : BitVec 32} {v w : DWord} (h : Keep s u) : ResKeep s (u.armLoop q n k v w) :=
  .ite (.goto h) (.retire (.setProg h))

theorem OutKeep.issueLoop {len : Nat} {body : Seqr → DWord → State → Res} (hb : ∀ q v u, Keep s u → ResKeep s (body q v u)) :
    OutKeep s (issueLoop s len imm body) :=
  .ite (.next (.raise (.rest .refl rfl rfl rfl rfl))) (.issue fun q u h => hb q _ u h)

theorem keeps_loop : OutKeep s (execLoop d a imm s) := .issueLoop fun _ _ _ h => .ready (.armLoop h)
theorem keeps_loopi {w : Word} : OutKeep s (execLoopi d imm w s) := .issueLoop fun _ _ _ h => .armLoop h

/-! ### Tokens -/

theorem Keep.setFifo {q : Seqr} {n : Nat} {f : Fifo} (h : Keep s u) : Keep s (u.setFifo q n f) := .setThread h

theorem Keep.wake {c x : Nat} (h : Keep s u) : Keep s (u.wake c x) := by
  unfold State.wake
  dsimp only
  split
  · exact .setCtx h
  · exact h

theorem keeps_tokSend : OutKeep s (execTokSend a fn s) := .issue fun _ _ h => .ready (.ite .stall (.retire (.wake (.setFifo h))))
theorem keeps_tokRecv : OutKeep s (execTokRecv d fn s) := .issue fun _ _ h => .ready (.ite .stall (.retire (.setProg (.setFifo h))))
theorem keeps_tokPoll : OutKeep s (execTokPoll d fn s) := .issue fun _ _ h => .ready (.retire (.setS h))

theorem keeps_tokenDelivery : OutKeep s (execTokenDelivery s) := by
  unfold execTokenDelivery
  dsimp only
  split
  · exact .next (.setProg (.setFifo .refl))
  · exact .next .refl

/-! ### Control registers -/

theorem keeps_mfc : OutKeep s (execMfc d imm s) :=
  .issue fun _ _ h => .ready (.ite .trap (.ite .stall (by
    split
    · exact .retire (.setS h)
    · exact .trap)))

theorem keeps_mtc : OutKeep s (execMtc a imm s) :=
  .issue fun _ _ h => .ready (.ite .trap (.ite .stall (by
    split
    · exact .retire (.setThread h)
    · exact .trap)))

/-! ### `NOP`, traps and holds -/

theorem keeps_nop : OutKeep s (execNop s) := .issue fun _ _ h => .retire h
theorem keeps_trap {v : BitVec 24} : OutKeep s (execTrap v s) := .issue fun _ _ h => .trapAt (.setProg (.countRetired h))
theorem keeps_undefinedMop {k : Cause} {v p : DWord} : OutKeep s (execUndefinedMop k v p s) := .next (.raise (.rest .refl rfl rfl rfl rfl))
theorem keeps_trapEntry : OutKeep s (execTrapEntry s) := .next (.tryTrap .refl)
theorem keeps_vectorTrap : OutKeep s (execVectorTrap s) := .next (.tryTrap .refl)
theorem keeps_arcadeTrap : OutKeep s (execArcadeTrap s) := .next (.tryTrap .refl)
theorem keeps_programEnd : OutKeep s (execProgramEnd s) := .ite (.next (.endProgram .refl)) (.next .refl)

theorem Keep.aspStore {c first n addr half : Nat} (h : Keep s u) : Keep s (u.aspStore c first n addr half) :=
  .replace h (fun hw => List.foldlRecOn (motive := fun m => Memory.wf m = true) _ _ hw fun m hm _ _ => Memory.wf_writeN m _ _ _ hm) id

theorem keeps_holdCountExpiry : OutKeep s (execHoldCountExpiry s) := by
  unfold execHoldCountExpiry
  dsimp only
  split
  · exact .ite (.next (.setProg .refl)) (.next .refl)
  · exact .ite (.next (.aspStore (.setProg .refl))) (.next .refl)
  · exact .next .refl

/-! ### Pending causes -/

theorem Keep.post {c x : Nat} {v : AsyncCause} (h : Keep s u) : Keep s (u.post c x v) := .wake (.setCtx h)

theorem Keep.postOverflow {c : Nat} (h : Keep s u) : Keep s (u.postOverflow c) := by
  unfold State.postOverflow
  split
  · exact h
  · refine .ite h ?_
    split
    · exact h
    · exact .post h

theorem Keep.overflowTaken {c : Nat} {v : AsyncCause} (h : Keep s u) : Keep s (u.overflowTaken c v) := .ite (.setCore h rfl rfl) h

theorem keeps_asyncCauseTaken : OutKeep s (execAsyncCauseTaken s) := by
  unfold execAsyncCauseTaken
  dsimp only
  split
  · exact .next .refl
  · exact .ite (.next (.raise (.overflowTaken (.setCtx .refl)))) (.next .refl)

/-! ### The scratchpad -/

theorem Keep.spadWrite {q : Seqr} {ea n x : Nat} (h : Keep s u) : Keep s (u.spadWrite q ea n x) := .replace h (Memory.wf_writeN _ _ _ _) id

theorem ResKeep.spadAccess {q : Seqr} {ea : DWord} {n : Nat} {r : Res} (hr : ResKeep s r) : ResKeep s (u.spadAccess q ea n r) := by
  unfold State.spadAccess
  split
  · exact .trap
  · exact .ite .stall hr

theorem keeps_load {n : Nat} {f : Nat → DWord} : OutKeep s (load s d a imm n f) :=
  .issue fun _ _ h => .ready (.spadAccess (.retire (.setS h)))
theorem keeps_store {n : Nat} : OutKeep s (store s d a imm n) := .issue fun _ _ h => .ready (.spadAccess (.retire (.spadWrite h)))
theorem keeps_ldQ : OutKeep s (execLdQ d a imm s) := .issue fun _ _ h => .ready (.spadAccess (.retire (.setS (.setS h))))
theorem keeps_stQ : OutKeep s (execStQ d a imm s) := .issue fun _ _ h => .ready (.spadAccess (.retire (.spadWrite h)))
theorem keeps_lamo : OutKeep s (execLamo d a b lw s) :=
  .issue fun _ _ h => .guarded h (.ready (.spadAccess (.retire (.holdFor (.setS (.spadWrite h))))))
theorem keeps_hld : OutKeep s (execHld d a imm s) := .issue fun _ _ h => .ready (.spadAccess (.retire (.setH h)))
theorem keeps_hst : OutKeep s (execHst d a imm s) := .issue fun _ _ h => .ready (.spadAccess (.retire (.spadWrite h)))
theorem keeps_hget : OutKeep s (execHget d a fn s) := .issue fun _ _ h => .ready (.retire (.setS h))
theorem keeps_hset : OutKeep s (execHset d a fn s) := .issue fun _ _ h => .ready (.retire (.setH h))
theorem keeps_hpatch : OutKeep s (execHpatch a b fn lw s) :=
  .issue fun _ _ h => .guarded h (.ready (.spadAccess (.retire (.holdFor (.spadWrite h)))))

/-! ### Returns -/

theorem keeps_tret : OutKeep s (execTret s) :=
  .issue fun _ _ h => .ite .trap (.ite (.whole (.holdOn (.setThread (.countRetired h)))) (.whole (.setThread (.countRetired h))))

end Control

end Sys2Proof.Proofs.Invariants
end

section
/-! PROOFS. The vector engine keeps the two orders. -/

namespace Sys2Proof.Proofs.Invariants

open Sys2Proof.Machine
open Sys2Proof.Safety

section Vector

variable {s u : State} {d a b fn : Reg} {lw : LW}

theorem OutKeep.vecIssue {srcs dests : List Src} {dp : Nat} {body : Seqr → State → Res}
    (hb : ∀ q u, Keep s u → ResKeep s (body q u)) : OutKeep s (vecIssue s lw srcs dests dp body) :=
  .issue fun _ _ h => .ready (.ready (.ite .stall (hb _ _ (.setCore h rfl rfl))))

theorem Keep.addResult {q : Seqr} {r : VPend} (h : Keep s u) : Keep s (u.addResult q r) := by
  cases q with
  | thread c x => exact h
  | vec c k => exact .setSlot h
  | arc c => exact h

theorem ResKeep.vecCommit {q : Seqr} {v : Bool} {r x : Nat} {f : Flags} {l : Nat} (h : Keep s u) : ResKeep s (vecCommit q u v r x f l) :=
  .ite (.trapAt (.orFsr h)) (.ite (.retire (.orFsr h)) (.retire (.addResult (.orFsr h))))

theorem ResKeep.vecCommitLong {q : Seqr} {r x : Nat} {f : Flags} (h : Keep s u) : ResKeep s (vecCommitLong q u r x f) :=
  .retire (.ite (.holdOn (.addResult (.setThread h))) (.addResult (.setThread h)))

theorem keeps_vecLanes {w dp l : Nat} {xs ys : List Src} {f : Seqr → State → Nat → Nat × Flags} :
    OutKeep s (vecLanes s d lw w xs ys dp l f) := .vecIssue fun _ _ h => .vecCommit h
theorem keeps_vecLong {w : Nat} {xs : List Src} {f : Seqr → State → Nat → Nat × Flags} : OutKeep s (vecLong s d lw w xs f) :=
  .vecIssue fun _ _ h => .ite .stall (.vecCommitLong h)

theorem keeps_vdiv : OutKeep s (execVdiv d a b fn lw s) := .ite keeps_vecLong keeps_vecLanes
theorem keeps_vsqrt : OutKeep s (execVsqrt d a fn lw s) := .ite keeps_vecLong keeps_vecLanes
theorem keeps_vote {v : Bool} : OutKeep s (vote s d a fn lw v) := .vecIssue fun _ _ h => .vecCommit h

theorem Keep.writeResult {q : Seqr} {r : VPend} (h : Keep s u) : Keep s (u.writeResult q r) := by
  unfold State.writeResult
  split
  · exact .setCore h rfl rfl
  · exact .ite (.setThread h) (.setProg h)

theorem keeps_vectorResultWrite : OutKeep s (execVectorResultWrite s) :=
  .next (.foldl (.setSlot .refl) (fun _ _ h => .writeResult h) _)

theorem Keep.landLong {c k : Nat} {r : VPend} (h : Keep s u) : Keep s (u.landLong c k r) :=
  .ite (.raise (.setThread (.orFsr (.setSlot h)))) (.writeResult (.orFsr (.setSlot h)))

theorem keeps_vectorLongResult : OutKeep s (execVectorLongResult s) := by
  unfold execVectorLongResult
  dsimp only
  split
  · exact .next .refl
  · exact .ite (.next .refl) (.next (.landLong .refl))

end Vector

end Sys2Proof.Proofs.Invariants
end

section
/-! PROOFS. Translation and the performing of global accesses keep the two orders. -/

namespace Sys2Proof.Proofs.Invariants

open Sys2Proof.Machine
open Sys2Proof.Safety

section Memory

variable {s t u : State} {c x : Nat}

/-! ### Translation -/

theorem Keep.tlbAdd {pc asid : Nat} {p : Page} (h : Keep s u) : Keep s (u.tlbAdd pc asid p) := by
  unfold State.tlbAdd State.draw
  dsimp only
  split
  · exact .rest h rfl rfl rfl rfl
  · split
    · exact .rest h rfl rfl rfl rfl
    · exact .rest h rfl rfl rfl rfl

theorem Keep.pageOf {va : Nat} {p : Page} (h : Keep s u) (e : u.pageOf c va = .page p t) : Keep s t := by
  unfold State.pageOf at e
  dsimp only at e
  split at e
  · cases e
  · split at e
    · cases e; exact h
    · split at e <;> cases e
      exact .tlbAdd h

theorem Keep.xlate {va : Nat} {r w : Bool} {p : Page} (h : Keep s u) (e : u.xlate c va r w = .page p t) : Keep s t := by
  unfold State.xlate at e
  split at e
  · next hp =>
    split at e <;> cases e
    exact .pageOf h hp
  · exact .pageOf h e

theorem ResKeep.withPage {va : Nat} {r w : Bool} {k : Page → State → Res} (h : Keep s u)
    (hk : ∀ p t, Keep s t → ResKeep s (k p t)) : ResKeep s (u.withPage c va r w k) := by
  unfold State.withPage
  split
  · next hp => exact hk _ _ (.xlate h hp)
  · exact .trap
  · exact .stop

theorem Keep.xlateRange {hi : Nat} {r w : Bool} {f : Page → Option Cause} {n va : Nat} {ps : List Page} (h : Keep s u)
    (e : State.xlateRange c hi r w f n u va = .pages ps t) : Keep s t := by
  induction n generalizing u va ps with
  | zero => cases e; exact h
  | succ n ih =>
    rw [State.xlateRange] at e
    split at e
    · cases e
    · cases e
    · next hp =>
      have h1 := h.xlate hp
      split at e
      · cases e
      · split at e
        · cases e; exact h1
        · split at e
          · next he => cases e; exact ih h1 he
          · exact ih h1 e

theorem keeps_translationEvict : OutKeep s (execTranslationEvict s) := .next (.rest .refl rfl rfl rfl rfl)

/-! ### Accesses in the queues -/

theorem Keep.enqueue {q : Seqr} {l : List Acc} (h : Keep s u) : Keep s (u.enqueue q l).1 := .setThread (.setCore h rfl rfl)
theorem Keep.setAcc {v : Acc} (h : Keep s u) : Keep s (u.setAcc c x v) := .setCtx h
theorem Keep.freeAccs (h : Keep s u) : Keep s (u.freeAccs c x) := .setCtx h

theorem Keep.adjRetire {f : Flags} (h : Keep s u) : Keep s (u.adjRetire c x f) :=
  .ite (.finish (.setCtx h) (.retire (.setCtx h))) (.finish (.setCtx h) (.trapAt (.setProg (.countRetired (.setCtx h)))))

theorem Keep.finishAcc {v : Acc} {f : Flags} (h : Keep s u) : Keep s (u.finishAcc c x v f) := by
  have h1 : Keep s (u.setAcc c x { v with performed := true, done := true }) := .setAcc h
  unfold State.finishAcc
  dsimp only
  split
  · exact .setAcc h1
  · split
    · exact .setAcc (.ite h1 (.setCtx h1))
    · exact .ite (.adjRetire (.freeAccs (.ite h1 (.setCtx h1)))) (.freeAccs (.ite h1 (.setCtx h1)))

theorem Keep.hbmWriteN {pa n v : Nat} (h : Keep s u) : Keep s (u.hbmWriteN pa n v) := .setHbm h (Memory.wf_writeN _ _ _ _)
theorem Keep.hbmWriteBytes {pa : Nat} {l : List Byte} (h : Keep s u) : Keep s (u.hbmWriteBytes pa l) :=
  .setHbm h (Memory.wf_writeBytes _ _ _)
theorem Keep.fillReg {r : Nat} {v : DWord} (h : Keep s u) : Keep s (u.fillReg c x r v) :=
  show Keep s (u.setProg (.thread c x) _) from .setProg h

theorem Keep.writeTape {pas : List Nat} {bs : List Byte} (h : Keep s u) : Keep s (State.writeTape pas bs u) := by
  induction pas generalizing u bs with
  | nil => exact h
  | cons pa r ih => exact ih (.hbmWriteBytes h)

theorem ResKeep.tapeReserve {q : Seqr} {kind va : Nat} {k : List Nat → State → Res} (h : Keep s u)
    (hk : ∀ l t, Keep s t → ResKeep s (k l t)) : ResKeep s (u.tapeReserve q kind va k) := by
  unfold State.tapeReserve
  dsimp only
  refine .ite .trap ?_
  split
  · exact .trap
  · exact .stop
  · next he => exact hk _ _ (.setThread (.xlateRange h he))

theorem Keep.pop {q : Seqr} {kind va : Nat} {old : List Byte} {ps : List Page} (h : Keep s u)
    (e : u.pop q kind va = .record old ps t) : Keep s t := by
  unfold State.pop at e
  dsimp only at e
  split at e
  · cases e
  · split at e
    · cases e
    · cases e
    · next he =>
      split at e
      · cases e
      · split at e <;> cases e
        exact .setThread (.xlateRange h he)

theorem ResKeep.tapePop {q : Seqr} {kind va : Nat} {k : List Byte → State → Res} (h : Keep s u)
    (hk : ∀ l t, Keep s t → ResKeep s (k l t)) : ResKeep s (u.tapePop q kind va k) := by
  unfold State.tapePop
  split
  · exact .trap
  · exact .stop
  · exact .stall
  · next he => exact hk _ _ (.pop h he)

theorem Keep.afterStore {v : Acc} {kind : Nat} {old : List Byte} (h : Keep s u) : Keep s (u.afterStore c x v kind old) :=
  .ite h (.setCtx (.setCore h rfl rfl))

theorem Keep.adjRead {v : Acc} (h : Keep s u) : Keep s (u.adjRead c x v) := by
  unfold State.adjRead
  split
  · exact .ite (.finish (.finishAcc (.setCtx (.fillReg h))) .trap) (.finishAcc (.fillReg h))
  · exact h

/-! ### Performing -/

theorem keeps_loadPerform : OutKeep s (execLoadPerform s) := by
  unfold execLoadPerform
  dsimp only
  split
  · exact .next .refl
  · split
    · exact .next (.finishAcc (.fillReg .refl))
    · exact .next (.setAcc .refl)
    · exact .next (.finishAcc .refl)
    · exact .next (.adjRead .refl)
    · exact .next .refl

theorem keeps_storePerform : OutKeep s (execStorePerform s) := by
  unfold execStorePerform
  dsimp only
  split
  · exact .next .refl
  · split
    · exact .next (.finishAcc (.afterStore (.hbmWriteN .refl)))
    · exact .next (.finishAcc (.afterStore (.hbmWriteBytes .refl)))
    · exact .next (.finishAcc (.fillReg (.hbmWriteN .refl)))
    · exact .next (.finishAcc (.hbmWriteBytes .refl))
    · exact .next (.finishAcc (.writeTape .refl))
    · exact .next .refl

theorem keeps_gamoPerform : OutKeep s (execGamoPerform s) := by
  unfold execGamoPerform
  dsimp only
  split
  · exact .next .refl
  · split
    · exact .next (.finishAcc (.fillReg (.hbmWriteN .refl)))
    · exact .next .refl

theorem keeps_ldlLineWrite : OutKeep s (execLdlLineWrite s) := by
  unfold execLdlLineWrite
  dsimp only
  split
  · exact .next .refl
  · split
    · exact .ite (.next .refl) (.next (.finishAcc (.replace .refl (Memory.wf_writeBytes _ _ _) id)))
    · exact .next .refl

end Memory

end Sys2Proof.Proofs.Invariants
end

section
/-! PROOFS. The Arcade keeps the two orders. -/

namespace Sys2Proof.Proofs.Invariants

open Sys2Proof.Machine
open Sys2Proof.Safety

section Arcade

variable {s u : State} {d a b fn : Reg} {lw : LW}

theorem Keep.countBundle {q : Seqr} {f : Flags} (h : Keep s u) : Keep s (u.countBundle q f) := .ite (.setThread h) h

theorem ResKeep.runBundle {q : Seqr} {ts : List Subtree} (h : Keep s u) : ResKeep s (runBundle ts q u) :=
  .ite .stall (.retire (.ite (.holdOn (.countBundle (.setArc h)))
    (.ite (.countBundle (.setArc h)) (.holdFor (.countBundle (.setArc h))))))

theorem keeps_aspBundle {t : Subtree} : OutKeep s (aspBundle t s) := by
  unfold aspBundle
  dsimp only
  split
  · exact .issue fun _ _ h => .runBundle h
  · exact .next (.raise (.rest .refl rfl rfl rfl rfl))

theorem Keep.landBundles {c : Nat} {l : List APend} (h : Keep s u) : Keep s (landBundles c l u) := by
  induction l generalizing u with
  | nil => exact h
  | cons r l ih =>
    rw [Machine.landBundles]
    exact .ite (ih (.raise (.orFsr (.setArc h)))) (ih (.orFsr (.setArc h)))

theorem keeps_arcadeResultsLand : OutKeep s (execArcadeResultsLand s) := .next (.landBundles .refl)

theorem ResKeep.aspRange {n f : DWord} {k : Nat → Nat → Res} (hk : ∀ i j, ResKeep s (k i j)) : ResKeep s (aspRange n f k) :=
  .ite .trap (hk _ _)

theorem keeps_aspMove {k : Seqr → State → Nat → Nat → Nat → Nat → Res}
    (hk : ∀ q u f n e l, Keep s u → ResKeep s (k q u f n e l)) : OutKeep s (aspMove d a b fn s k) :=
  .issue fun _ _ h => .ready (.aspRange fun _ _ => .ite (.retire h) (.ite .trap (.ite .trap (.ite .stall (hk _ _ _ _ _ _ h)))))

theorem keeps_aspLd : OutKeep s (execAspLd d a b fn s) := keeps_aspMove fun _ _ _ _ _ _ h => .retire (.setArc h)
theorem keeps_aspSt : OutKeep s (execAspSt d a b fn s) := keeps_aspMove fun _ _ _ _ _ _ h => .retire (.holdOn h)

theorem Keep.aspFill {c : Nat} {l : ALoad} (h : Keep s u) : Keep s (u.aspFill c l) := .setArc h

theorem keeps_aspLdFill : OutKeep s (execAspLdFill s) := .next (.foldl .refl (fun _ _ h => .aspFill h) _)

theorem keeps_aspCvt : OutKeep s (execAspCvt d a b fn lw s) :=
  .issue fun _ _ h => .guarded h (.ready (.aspRange fun _ _ =>
    .ite .stall (.ite (.trapAt (.orFsr h)) (.retire (.holdFor (.setArc (.orFsr h)))))))

theorem keeps_aspWin : OutKeep s (execAspWin d a s) := .issue fun _ _ h => .ready (.ite .trap (.retire (.setArc h)))
theorem keeps_aspSeed : OutKeep s (execAspSeed a s) := .issue fun _ _ h => .ready (.retire (.setArc h))
theorem keeps_aspClra : OutKeep s (execAspClra d a s) :=
  .issue fun _ _ h => .ready (.aspRange fun _ _ => .ite .stall (.retire (.holdFor (.setArc h))))

end Arcade

end Sys2Proof.Proofs.Invariants
end

section
/-! PROOFS. Global accesses at issue, adjoints, forks, stages and groups keep the two orders. -/

namespace Sys2Proof.Proofs.Invariants

open Sys2Proof.Machine
open Sys2Proof.Safety

section Accesses

variable {s t u : State} {q : Seqr} {d a b fn : Reg} {imm : BitVec 12} {lw : LW}

/-! ### Global accesses -/

theorem ResKeep.globalPage {ea : DWord} {n : Nat} {r w : Bool} {k : Page → State → Res} (h : Keep s u)
    (hk : ∀ p t, Keep s t → ResKeep s (k p t)) : ResKeep s (u.globalPage q ea n r w k) :=
  .ite .trap (.ite .trap (.withPage h fun p t ht => .ite .trap (hk p t ht)))

theorem ResKeep.adjIssued {g : Nat} (h : Keep s u) : ResKeep s (u.adjIssued q g) := .ite (.whole (.holdOn h)) (.retire h)

/-- Accesses that enter the queues, and the instruction that goes on or waits for them. -/
theorem ResKeep.enqueueIssued {l : List Acc} (h : Keep s u) : ResKeep s ((u.enqueue q l).1.adjIssued q (u.enqueue q l).2) :=
  .adjIssued (.enqueue h)

theorem ResKeep.ldgRev {ea : DWord} {n : Nat} {p : Page} (h : Keep s u) : ResKeep s (u.ldgRev q d ea n p) :=
  .ite .trap (.withPage h fun _ _ ht => .ite .stall (.enqueueIssued (.setS ht)))

theorem keeps_ldg {n : Nat} : OutKeep s (ldg s d a imm n) :=
  .issue fun _ _ h => .ready (.globalPage h fun _ _ ht => .ite (.ldgRev ht) (.ite .stall (.retire (.setProg (.enqueue ht)))))

theorem ResKeep.stgRev {ea : DWord} {n : Nat} {p : Page} (h : Keep s u) : ResKeep s (u.stgRev q d ea n p) :=
  .ite .trap (.withPage h fun _ _ h1 => .tapePop h1 fun _ _ h2 => .ite .stall (.adjIssued (.setProg (.enqueue h2))))

theorem keeps_stg {n : Nat} : OutKeep s (stg s d a imm n) :=
  .issue fun _ _ h => .ready (.globalPage h fun _ _ ht => .ite (.ite .stall (.retire (.enqueue ht)))
    (.ite (.stgRev ht) (.tapeReserve ht fun _ _ h1 => .ite .stall (.retire (.enqueue h1)))))

theorem ResKeep.linePage {v w : DWord} {r wr : Bool} {k : Page → State → Res} (h : Keep s u)
    (hk : ∀ p t, Keep s t → ResKeep s (k p t)) : ResKeep s (u.linePage q v w r wr k) := by
  refine .ite .trap ?_
  split
  · exact .trap
  · exact .globalPage h fun p t ht => .ite .stall (hk p t ht)

theorem keeps_ldl : OutKeep s (execLdl a b s) :=
  .issue fun _ _ h => .ready (.linePage h fun _ _ ht => .ite
    (.withPage ht fun _ _ h1 => .ite .stall (.enqueueIssued (.spadWrite h1))) (.ite .stall (.retire (.enqueue ht))))

theorem keeps_stl : OutKeep s (execStl a b s) :=
  .issue fun _ _ h => .ready (.linePage h fun _ _ ht => .ite (.ite .stall (.retire (.enqueue ht)))
    (.ite (.tapeReserve ht fun _ _ h1 => .ite .stall (.retire (.enqueue h1)))
      (.withPage ht fun _ _ h1 => .tapePop h1 fun _ _ h2 => .ite .stall (.enqueueIssued h2))))

theorem keeps_gamo : OutKeep s (execGamo d a b fn lw s) :=
  .issue fun _ _ h => .guarded h (.ready (.globalPage h fun _ _ ht => .ite .trap (.ite .stall (.retire (.setProg (.enqueue ht))))))

theorem keeps_mark : OutKeep s (execMark s) := .issue fun _ _ h => .ite .stall (.retire (.enqueue h))

theorem Keep.leaveLanding (h : Keep s u) : Keep s (u.leaveLanding q) := .setThread h
theorem Keep.fencePass {n : Nat} (h : Keep s u) : Keep s (u.fencePass q n) := .ite (.leaveLanding h) h
theorem keeps_fence {v : BitVec 24} : OutKeep s (execFence v s) :=
  .issue fun _ _ h => .ite (.retire (.fencePass h)) (.whole (.holdOn h))

/-! ### Modes, the tape and cells -/

theorem keeps_modeSwitch {v : Bool} : OutKeep s (modeSwitch v s) := .issue fun _ _ h => .ite (.retire (.setThread h)) (.whole (.holdOn h))
theorem keeps_tapeSet : OutKeep s (execTapeSet a b s) :=
  .issue fun _ _ h => .ready (.ite .trap (.ite .trap (.ite (.whole (.holdOn h)) (.retire (.setThread h)))))

theorem keeps_adjLd : OutKeep s (execAdjLd d a imm s) :=
  .issue fun _ _ h => .ready (.ite .trap (.withPage h fun _ _ h1 => .ite .trap (.ite .trap
    (.withPage h1 fun _ _ h2 => .ite .stall (.adjIssued (.setProg (.enqueue h2)))))))

theorem Keep.clrCheck {c lo hi n va : Nat} {rs : List (Nat × Nat)} {m : Nat} (h : Keep s u)
    (e : clrCheck c lo hi n u va = .runs rs m t) : Keep s t := by
  induction n generalizing u va rs m with
  | zero => cases e; exact h
  | succ n ih =>
    rw [Machine.clrCheck] at e
    split at e
    · cases e
    · cases e
    · next hp =>
      have h1 := h.xlate hp
      dsimp only at e
      split at e
      · cases e
      · split at e
        · cases e
        · split at e
          · cases e
          · split at e
            · cases e
            · cases e
            · next he =>
              have h2 := h1.xlateRange he
              split at e
              · cases e; exact h2
              · split at e
                · next hr => cases e; exact ih h2 hr
                · exact ih h2 e

theorem keeps_adjClr : OutKeep s (execAdjClr a b s) :=
  .issue fun _ _ h => .ready (.ite .trap (.ite (.retire h) (.ite .trap (by
    split
    · exact .trap
    · exact .stop
    · next hr => exact .ite .stall (.retire (.holdFor (.enqueue (.clrCheck h hr))))))))

theorem Keep.giveCell {c x : Nat} {v : Acc} {f w off : Nat} (h : Keep s u) : Keep s (u.giveCell c x v f w off) := .setCtx h

theorem keeps_adjCellPerform : OutKeep s (execAdjCellPerform s) := by
  unfold execAdjCellPerform
  dsimp only
  split
  · exact .next .refl
  · split
    · exact .next (.finishAcc (.hbmWriteN .refl))
    · exact .next (.finishAcc (.giveCell (.hbmWriteN .refl)))
    · exact .next (.adjRead .refl)
    · exact .next (.ite (.finishAcc (.hbmWriteN .refl)) (.setAcc (.hbmWriteN .refl)))
    · exact .next (.finishAcc .refl)
    · exact .next .refl

/-! ### Forks and stages -/

theorem keeps_selectSize : OutKeep s (execSelectSize d a b s) :=
  .issue fun _ _ h => .ready (.ite .trap (by
    split
    · exact .trap
    · exact .retire (.holdFor (.setS h))))

theorem keeps_forkV : OutKeep s (execForkV d a b s) :=
  .issue fun _ _ h => .ready (.ite .trap (by
    split
    · exact .stall
    · exact .retire (.setS (.setSlot (.setThread h)))))

theorem keeps_forkA : OutKeep s (execForkA d a b s) :=
  .issue fun _ _ h => .ready (.ite .trap (.ite .stall (.retire (.setS (.setArc (.setThread h))))))

theorem keeps_rdv : OutKeep s (execRdv d a s) :=
  .issue fun _ _ h => .ready (.ite .trap (.ite .stall (.retire (.setS (.setThread h)))))

theorem Keep.setQueue {c n : Nat} {k : StageQueue} (h : Keep s u) : Keep s (u.setQueue c n k) := .setCore h rfl rfl

theorem keeps_enq : OutKeep s (execEnq d a b s) :=
  .issue fun _ _ h => .ready (by
    split
    · exact .trap
    · exact .ite (.retire (.setS h)) (.retire (.setS (.setQueue h))))

theorem keeps_deq : OutKeep s (execDeq d a s) :=
  .issue fun _ _ h => .ready (by
    split
    · exact .trap
    · split
      · exact .retire (.setS (.setS h))
      · exact .retire (.setS (.setS (.setQueue h))))

theorem keeps_yieldStage : OutKeep s (execYieldStage s) :=
  .issue fun _ _ h => by
    dsimp only
    split
    · exact .ite (.ready (.goto (.setS (.setThread h)))) (.retire h)
    · exact .retire h

/-! ### Groups -/

theorem Keep.setGroup {n : Nat} {g : Group} (h : Keep s u) : Keep s (u.setGroup n g) := .rest h rfl rfl rfl rfl
theorem Keep.freeGroup {n : Nat} (h : Keep s u) : Keep s (u.freeGroup n) := .rest h rfl rfl rfl rfl
theorem Keep.mapBars {n : Nat} {f : List Bar → List Bar} (h : Keep s u) : Keep s (u.mapBars n f) := .setCore (.setCtx h) rfl rfl
theorem Keep.setBar {n g : Nat} {f : Bar → Bar} (h : Keep s u) : Keep s (u.setBar n g f) := .mapBars h
theorem Keep.dropWait {n g : Nat} (h : Keep s u) : Keep s (u.dropWait n g) := .mapBars h

theorem Keep.completeGroup {n g : Nat} (h : Keep s u) : Keep s (u.completeGroup n g) := by
  induction n generalizing u with
  | zero => exact h
  | succ n ih =>
    rw [State.completeGroup]
    split
    · exact h
    · refine .ite h ?_
      have h1 := fun l f => Keep.foldl h (fun _ (m : Member) ht => .setBar (n := m.tid) (g := g) (f := f) ht) l
      have h2 := fun l l' f f' => Keep.foldl (h1 l f) (fun _ (m : PendMember) ht => .setBar (n := m.tid) (g := g) (f := f') ht) l'
      exact .ite (.freeGroup (h2 _ _ _ _)) (ih (.setGroup (h2 _ _ _ _)))

theorem keeps_grpJoin : OutKeep s (execGrpJoin d a s) :=
  .issue fun _ _ h => .ready (.ite .trap (.ite (.retire (.setS (.setGroup h))) (.retire (.setS (.setGroup h)))))

theorem Keep.leaveGroup {n g : Nat} (h : Keep s u) : Keep s (u.leaveGroup n g) := by
  unfold State.leaveGroup
  split
  · exact h
  · exact .ite (.freeGroup (.ite (.dropWait h) h)) (.completeGroup (.setGroup (.ite (.dropWait h) h)))

theorem keeps_grpLeave : OutKeep s (execGrpLeave d a s) :=
  .issue fun _ _ h => .ready (by
    dsimp only
    split
    · exact .trap
    · exact .ite .trap (.ite .stall (.retire (.setS (.leaveGroup h)))))

theorem Keep.finishBar {n r : Nat} {v : Bar} (h : Keep s u) : Keep s (u.finishBar q n r v) := .setProg (.setThread h)

/-- A `GRP.BAR` waits, or retires where its standing arrival has been released. -/
theorem ResKeep.waitOrDone {gid r : Nat} {o : Option Bar} (h : Keep s u) :
    ResKeep s (match o with
      | some v => if v.released then .retire (u.finishBar q gid r v) else .whole (u.holdOn q (.barrier gid r))
      | none => .whole u) := by
  split
  · exact .ite (.retire (.finishBar h)) (.whole (.holdOn h))
  · exact .whole h

theorem keeps_grpBar : OutKeep s (execGrpBar d a s) :=
  .issue fun _ _ h => .ready (.ite (.waitOrDone h) (by
    dsimp only
    split
    · exact .trap
    · exact .ite .trap (.ite .stall (.ite (.waitOrDone (.setGroup (.setThread h)))
        (.waitOrDone (.completeGroup (.setGroup (.setThread h))))))))

theorem keeps_grpInfo : OutKeep s (execGrpInfo d a b s) := .issue fun _ _ h => .ready (.ite .trap (.ite .trap (.retire (.setS h))))

end Accesses

end Sys2Proof.Proofs.Invariants
end

section
/-! PROOFS. Command queues, handles, the vector moves and streams keep the two orders. -/

namespace Sys2Proof.Proofs.Invariants

open Sys2Proof.Machine
open Sys2Proof.Safety

section Queues

variable {s t u : State} {q : Seqr} {c x : Nat} {d a b fn : Reg} {lw : LW}

/-! ### Command queues -/

theorem Keep.setItem {i : Item} (h : Keep s u) : Keep s (u.setItem c i) := .setCore h rfl rfl
theorem Keep.failItem {i : Item} {f : Cause} (h : Keep s u) : Keep s (u.failItem c i f) := .setItem h
theorem Keep.push {i : Item} (h : Keep s u) : Keep s (u.push q i).1 := .setCore h rfl rfl
theorem Keep.unpin {n : Nat} {l : List Nat} (h : Keep s u) : Keep s (u.unpin c n l) := .rest h rfl rfl rfl rfl

theorem Keep.endItem {i : Item} {f : Option Cause} (h : Keep s u) : Keep s (u.endItem c i f) :=
  .wake (.ite (.setCtx (.unpin (.setCore h rfl rfl))) (.ite (.setCore (.unpin (.setCore h rfl rfl)) rfl rfl) (.unpin (.setCore h rfl rfl))))

theorem Keep.satisfyWaits {n : Nat} (h : Keep s u) : Keep s (State.satisfyWaits n u c) := by
  induction n generalizing u with
  | zero => exact h
  | succ n ih =>
    rw [State.satisfyWaits]
    split
    · exact h
    · exact ih (.endItem h)

theorem keeps_sig : OutKeep s (execSig d a b s) :=
  .issue fun _ _ h => .ready (by
    dsimp only
    split
    · exact .trap
    · exact .ite .stall (.retire (.setS (.setCore (.push h) rfl rfl))))

theorem keeps_waitf : OutKeep s (execWaitf d a b s) :=
  .issue fun _ _ h => .ready (by
    dsimp only
    split
    · exact .trap
    · exact .ite .trap (.ite .stall (.retire (.setS (.satisfyWaits (.push h))))))

theorem keeps_sigComplete : OutKeep s (execSigComplete s) := by
  unfold execSigComplete
  dsimp only
  split
  · exact .next .refl
  · split
    · exact .ite (.next .refl) (.next (.satisfyWaits (.endItem (.setCore .refl rfl rfl))))
    · exact .next .refl

theorem keeps_estat : OutKeep s (execEstat d a b s) :=
  .issue fun _ _ h => have done (v : DWord) := ResKeep.retire (Keep.holdFor (n := 2) (Keep.setS (r := d) (v := v) h))
    .ready (.ite .trap (.ite (.ite .trap (done _)) (.ite (.ite .trap (done _)) (.ite .trap (done _)))))

theorem keeps_commandRetire : OutKeep s (execCommandRetire s) := by
  unfold execCommandRetire
  split
  · exact .next .refl
  · exact .ite (.next (.endItem .refl)) (.next .refl)

theorem keeps_commandFail : OutKeep s (execCommandFail s) := by
  unfold execCommandFail
  split
  · exact .next .refl
  · split
    · exact .next .refl
    · exact .next (.endItem .refl)

/-! ### Images of scratchpads, handles and pins -/

theorem Keep.imageOut (h : Keep s u) : Keep s (u.imageOut c) :=
  .setHbm (.replace h (fun _ => rfl) id) fun hw => Memory.wf_setWindow _ _ _ _ (Memory.wf_setWindow _ _ _ _ hw)

theorem Keep.imageIn (h : Keep s u) : Keep s (u.imageIn c) :=
  .replaceOf h (fun hu => Memory.wf_window _ _ _ hu.hbm) (fun hu => hu.ctxs c)

theorem Keep.setSpadByte {n : Nat} {v : Byte} (h : Keep s u) : Keep s (u.setSpadByte c n v) :=
  .ite (.setHbm h (Memory.wf_write _ _ _)) (.replace h (Memory.wf_write _ _ _) id)

theorem Keep.setBlockTag {n z : Nat} (h : Keep s u) : Keep s (u.setBlockTag c n z) :=
  .ite (.setHbm h (Memory.wf_write _ _ _)) (.setCore h rfl rfl)

theorem Keep.writeByteH {ps : List Page} {g : Handle} {n : Nat} {v : Byte} (h : Keep s u) : Keep s (u.writeByteH c ps g n v) :=
  .ite (.setSpadByte h) (.setHbm h (Memory.wf_write _ _ _))

theorem Keep.tagBlocks {g : Handle} {i : Item} {l : List Nat} (h : Keep s u) : Keep s (u.tagBlocks c g i l).1 := by
  unfold State.tagBlocks
  split
  · exact .foldl h (fun _ _ ht => .setBlockTag ht) _
  · exact h

theorem Keep.writeElem {ps : List Page} {g : Handle} {j : List Nat} {n : Nat} (h : Keep s u) : Keep s (u.writeElem c ps g j n) :=
  .foldl h (fun _ _ ht => .writeByteH ht) _

theorem Keep.walkFoot {rs : List Rng} {n cur : Nat} {ps : List Page} (h : Keep s u) (e : walkFoot c rs n u cur = .pages ps t) : Keep s t := by
  induction n generalizing u cur ps with
  | zero => cases e; exact h
  | succ n ih =>
    rw [Machine.walkFoot] at e
    split at e
    · cases e; exact h
    · split at e
      · cases e
      · cases e
      · next hp =>
        have h1 := h.pageOf hp
        split at e
        · cases e
        · split at e
          · next he => cases e; exact ih h1 he
          · exact ih h1 e

theorem Keep.pin {ps : List Page} (h : Keep s u) : Keep s (u.pin c ps) :=
  .foldl h (fun _ _ ht => .rest (.ite ht (.tlbAdd ht)) (by rfl) (by rfl) (by rfl) (by rfl)) _

/-! ### Vector moves, conversions and reductions -/

theorem keeps_vext : OutKeep s (execVext d a b fn lw s) := by
  unfold execVext; exact .vecIssue fun _ _ h => .vecCommit h
theorem keeps_vcvt : OutKeep s (execVcvt d a b fn lw s) := by
  unfold execVcvt; exact .vecIssue fun _ _ h => .vecCommit h

theorem ResKeep.vecCommitTwo {d1 v1 d2 v2 : Nat} {f : Flags} {l : Nat} (h : Keep s u) : ResKeep s (vecCommitTwo q u d1 v1 d2 v2 f l) := by
  have h1 : ResKeep s (Machine.vecCommit q u true d1 v1 f l) := .vecCommit h
  unfold Machine.vecCommitTwo
  split
  · next he => rw [he] at h1; cases h1 with | retire h' => exact .retire (.addResult h')
  · exact h1

theorem keeps_vqmx : OutKeep s (execVqmx d a b fn lw s) := by
  unfold execVqmx; exact .vecIssue fun _ _ h => .ite (.vecCommit h) (.vecCommitTwo h)
theorem keeps_vdqmx : OutKeep s (execVdqmx d a b fn lw s) := by
  unfold execVdqmx; exact .vecIssue fun _ _ h => .vecCommit h
theorem keeps_vecReduce {n : Nat} {op : Rm → Nat → Nat → Nat × Flags} : OutKeep s (vecReduce s d a fn lw n op) := by
  unfold vecReduce; exact .vecIssue fun _ _ h => .vecCommit h
theorem keeps_vrarg : OutKeep s (execVrarg d a fn lw s) := .vecIssue fun _ _ h => .vecCommit h
theorem keeps_vtopk : OutKeep s (execVtopk d a b fn lw s) := .vecIssue fun _ _ h => .vecCommit h

theorem keeps_vecAccess {xs ys : List Src} {k : Bool} {f : Seqr → State → Nat → DWord} {g : Seqr → State → List (Nat × DWord) → Nat → Res}
    (hb : ∀ q u l n, Keep s u → ResKeep s (g q u l n)) : OutKeep s (vecAccess s fn lw xs ys k f g) := by
  unfold vecAccess
  refine .vecIssue fun _ _ h => ?_
  dsimp only
  split
  · exact .trap
  · exact hb _ _ _ _ (.setCore h rfl rfl)

theorem keeps_vecLoad {xs : List Src} {k : Bool} {f : Seqr → State → Nat → DWord} : OutKeep s (vecLoad s d fn lw xs k f) := by
  unfold vecLoad; exact keeps_vecAccess fun _ _ _ _ h => .vecCommit h
theorem keeps_vecStore {xs : List Src} {k : Bool} {f : Seqr → State → Nat → DWord} : OutKeep s (vecStore s d fn lw xs k f) := by
  unfold vecStore; exact keeps_vecAccess fun _ _ _ _ h => .retire (.foldl h (fun _ _ ht => .spadWrite ht) _)

/-! ### Streams -/

theorem Keep.setStream {n : Nat} {y : Stream} (h : Keep s u) : Keep s (u.setStream c n y) := .setCore h rfl rfl

theorem keeps_vldq : OutKeep s (execVldq d a fn lw s) := by
  unfold execVldq
  refine .vecIssue fun _ _ h => ?_
  dsimp only
  split
  · exact .trap
  · exact .ite .trap (.ite .stall (.vecCommit (.setStream h)))

end Queues

end Sys2Proof.Proofs.Invariants
end

section
/-! PROOFS. The tag table, streams and copies keep the two orders. -/

namespace Sys2Proof.Proofs.Invariants

open Sys2Proof.Machine
open Sys2Proof.Safety

section Copies

variable {s t u : State} {q : Seqr} {c : Nat} {d a b fn : Reg} {lw : LW}

/-! ### Tags and streams -/

theorem Keep.setTagSet {n : Nat} {v : TagSet} (h : Keep s u) : Keep s (u.setTagSet c n v) := .setCore h rfl rfl

theorem keeps_tagOp {p : Bool} {f : Seqr → State → Partition → Nat → TagSet → TagSet × DWord × DWord} : OutKeep s (tagOp s d a b p f) :=
  .issue fun _ _ h => .ready (by
    split
    · exact .trap
    · exact .retire (.holdFor (.ite (.setS (.setS (.setTagSet h))) (.setS (.setTagSet h)))))

theorem keeps_qbind : OutKeep s (execQbind d a b s) :=
  .issue fun _ _ h => .ready (.ite .trap (.ite .trap (.ite (.retire (.holdFor (.setStream h))) (.ite .trap (.ite .trap
    (.retire (.holdFor (.setStream h))))))))

theorem keeps_qget : OutKeep s (execQget d a s) :=
  .issue fun _ _ h => .ready (by
    dsimp only
    split
    · exact .trap
    · exact .ite .stall (.retire (.setProg (.setStream (.setCore h rfl rfl)))))

theorem keeps_qgetFill : OutKeep s (execQgetFill s) := by
  unfold execQgetFill
  dsimp only
  split
  · exact .ite (.next .refl) (.next (.setProg (.setStream .refl)))
  · exact .next .refl

theorem keeps_qrel : OutKeep s (execQrel d a s) :=
  .issue fun _ _ h => .ready (.ite .trap (.retire (.holdFor (.setS (.setStream h)))))

/-! ### Pushes of copies -/

theorem ResKeep.withFoot {rs : List Rng} {k : List Page → State → Res} (h : Keep s u) (hk : ∀ l t, Keep s t → ResKeep s (k l t)) :
    ResKeep s (u.withFoot q rs k) := by
  unfold State.withFoot
  split
  · exact .trap
  · exact .stop
  · next he => exact .ite .trap (.ite .stall (hk _ _ (.walkFoot h he)))

theorem ResKeep.reserveLines {l : List Nat} {k : List TapeLine → List Page → State → Res} (h : Keep s u)
    (hk : ∀ l p t, Keep s t → ResKeep s (k l p t)) : ResKeep s (u.reserveLines q l k) := by
  unfold State.reserveLines
  dsimp only
  split
  · exact .trap
  · refine .ite (hk _ _ _ h) ?_
    split
    · exact .trap
    · exact .stop
    · next he => exact hk _ _ _ (.setThread (.xlateRange h he))

theorem ResKeep.popLines {l : List Nat} {acc : List TapeLine} {ps : List Page} {k : List TapeLine → List Page → State → Res} (h : Keep s u)
    (hk : ∀ l p t, Keep s t → ResKeep s (k l p t)) : ResKeep s (popLines q l u acc ps k) := by
  induction l generalizing u acc ps with
  | nil => exact hk _ _ _ h
  | cons va l ih =>
    rw [Machine.popLines]
    split
    · exact .trap
    · exact .stop
    · exact .stall
    · next he => exact ih (.pop h he)

theorem ResKeep.pushCopy {i : Item} {n : Nat} (h : Keep s u) : ResKeep s (u.pushCopy q lw i n) :=
  .retire (.holdFor (.setS (.push (.pin h))))

theorem ResKeep.copyTail {f : Nat} {i : Item} {rd wr : List Handle} {g : List Granule} {p : Bool} (h : Keep s u) :
    ResKeep s (copyTail f lw i rd wr g p q u) := by
  unfold Machine.copyTail
  dsimp only
  split
  · exact .trap
  · refine .withFoot h fun ps t ht => ?_
    split
    · exact .trap
    · exact .ite .trap (.ite (.pushCopy ht) (.ite .trap (.ite (.popLines ht fun _ _ _ h1 => .pushCopy h1)
        (.reserveLines ht fun _ _ _ h1 => .pushCopy h1))))

theorem keeps_copyInstr {f : Nat} : OutKeep s (copyInstr f d a b fn lw s) :=
  .issue fun _ _ h => .guarded h (.ready (.ite .stall (.ite .stall (by
    dsimp only
    split
    · exact .trap
    · exact .ite .trap (.ite .trap (.copyTail h))))))

theorem keeps_cpyStrm : OutKeep s (execCpyStrm d a b fn lw s) :=
  .issue fun _ _ h => .guarded h (.ready (.ite .stall (.ite .stall (.ite .trap (by
    dsimp only
    split
    · exact .trap
    · refine .ite .trap (.withFoot h fun ps t ht => .ite .trap ?_)
      split
      · exact .trap
      · exact .pushCopy ht)))))

theorem keeps_cpyHost : OutKeep s (execCpyHost d a b fn lw s) :=
  .issue fun _ _ h => .guarded h (.ready (.ite .stall (.ite .stall (.ite .stall (.ite .trap (.ite .trap
    (.ite (.pushCopy h) (.ite .trap (.withFoot h fun _ _ ht => .ite .trap (by
      split
      · exact .trap
      · exact .pushCopy ht))))))))))

/-! ### Moving a block -/

theorem Keep.foldMove {α : Type} {m : Move} {f : Move → α → Move} (h : Keep s m.s) (hf : ∀ m x, Keep s m.s → Keep s (f m x).s) (l : List α) :
    Keep s (l.foldl f m).s :=
  List.foldlRecOn (motive := fun m : Move => Keep s m.s) l f h fun m hm x _ => hf m x hm

section Blocks

variable {m : Move} {k : Nat} {blk : CopyBlk} {g : Handle}

/-- Reading changes nothing but the item. -/
theorem Move.read_s : (m.read c blk k).s = m.s := by
  unfold Move.read
  dsimp only
  split
  · split <;> rfl
  · split
    · split <;> rfl
    · refine List.foldlRecOn (motive := fun m' : Move => m'.s = m.s) _ _ rfl fun m' hm x _ => ?_
      split
      · exact hm
      · split <;> exact hm

theorem Keep.record (h : Keep s m.s) : Keep s (m.record k).s := by
  unfold Move.record
  split
  · exact h
  · exact .writeTape h

theorem Keep.put {j : List Nat} {n : Nat} (h : Keep s m.s) : Keep s (m.put c g j n).s := .writeElem (.tagBlocks h)

theorem Keep.scaleOut {j : List Nat} {n : Nat} (h : Keep s m.s) : Keep s (m.scaleOut g j n).s := by
  unfold Move.scaleOut
  split
  · exact .setHbm h (Memory.wf_write _ _ _)
  · exact h

theorem Keep.addPair (h : Keep s m.s) : Keep s (m.addPair blk k).s := by
  unfold Move.addPair
  split
  · exact h
  · exact .hbmWriteN h

theorem Keep.one (h : Keep s m.s) : Keep s (m.one c blk k).s := by
  unfold Move.one
  dsimp only
  split
  · exact .setCore h rfl rfl
  · split
    · exact .put h
    · exact h

theorem Keep.mxBlock (h : Keep s m.s) : Keep s (m.mxBlock c blk g k).s := by
  unfold Move.mxBlock
  dsimp only
  have hf : ∀ (els : List Nat) (it : Item) l, Keep s (List.foldl (fun (m : Move) x => match blk.dest (k + x) with
      | .at_ t => m.put c g t (els.getD x 0)
      | _ => m) { m with it := it } l).s := fun els it l => by
    refine Keep.foldMove (m := { m with it := it }) h (fun m x hm => ?_) l
    split
    · exact .put hm
    · exact hm
  split
  · exact .scaleOut (hf _ _ _)
  · exact hf _ _ _

theorem Keep.unit (h : Keep s m.s) : Keep s (m.unit c blk k).s := by
  unfold Move.unit
  dsimp only
  split
  · exact .addPair h
  · split
    · split
      · exact .foldMove h (fun _ _ hm => .mxBlock hm) _
      · exact .foldMove h (fun _ _ hm => .one hm) _
    · exact .foldMove h (fun _ _ hm => .one hm) _

theorem Keep.last (h : Keep s m.s) : Keep s (m.last k).s := by
  unfold Move.last
  dsimp only
  split
  · split
    · exact h
    · split
      · exact .hbmWriteBytes h
      · exact h
  · split
    · exact h
    · split
      · exact .record h
      · exact h

theorem Keep.commit {s0 : State} (h : Keep s m.s) (h0 : Keep s s0) : Keep s (m.commit s0 c) := by
  unfold Move.commit
  split
  · exact .failItem h
  · exact .ite (.setItem h) h0

theorem Keep.copyStep {i : Item} {l : Bool} {w : Nat} (h : Keep s u) : Keep s (u.copyStep c i blk l w k) := by
  have hr : Keep s ((⟨u, i, [], [], none⟩ : Move).read c blk k).s := by rw [Move.read_s]; exact h
  have hw : Keep s (((blk.unrecorded i k).foldl Move.record ⟨u, i, [], [], none⟩).unit c blk k).s :=
    .unit (.foldMove h (fun _ _ hm => .record hm) _)
  exact .ite (.ite (.setItem h) (.ite h (.commit hr h))) (.ite h (.commit (m := { Move.unit _ c blk k with it := _ }) hw h))

theorem Keep.host {e : HostEntry} {n : Nat} (h : Keep s m.s) : Keep s (m.host c e n).s := by
  unfold Move.host State.draw
  dsimp only
  split
  · exact .rest h rfl rfl rfl rfl
  · split
    · exact .rest h rfl rfl rfl rfl
    · split
      · exact .setHbm (.rest h (t := { m.s with draws := m.s.draws + 1 }) rfl rfl rfl rfl) (wf_foldl_write _ _ _)
      · exact .rest h rfl rfl rfl rfl

theorem Keep.flushHost (h : Keep s m.s) : Keep s m.flushHost.s := by
  unfold Move.flushHost State.draw
  dsimp only
  split
  · exact .rest h rfl rfl rfl rfl
  · exact .rest h rfl rfl rfl rfl

end Blocks

theorem keeps_copyBlock : OutKeep s (execCopyBlock s) := by
  unfold execCopyBlock
  dsimp only
  split
  · exact .next .refl
  · refine .ite (.next .refl) ?_
    split
    · exact .next .refl
    · split
      · exact .next (.commit (.flushHost .refl) .refl)
      · exact .next (.commit (.host .refl) .refl)
    · split
      · exact .next (.copyStep .refl)
      · exact .next (.commit (.last .refl) .refl)
    · exact .next .refl

/-! ### Stream units -/

theorem Keep.strmRead {i : Item} {l k : Nat} (h : Keep s u) : Keep s (u.strmRead c i l k) :=
  .ite h (.ite h (.ite (.failItem h) (.setItem h)))

theorem Keep.strmWrite {i : Item} {l : Nat} (h : Keep s u) : Keep s (u.strmWrite c i l) := by
  unfold State.strmWrite
  dsimp only
  split
  · exact h
  · exact .ite h (.setItem (.setStream (.replace h (Memory.wf_writeBytes _ _ _) id)))

theorem keeps_streamUnitWrite : OutKeep s (execStreamUnitWrite s) := by
  unfold execStreamUnitWrite
  dsimp only
  split
  · exact .next .refl
  · exact .ite (.next .refl) (.next (.ite (.setItem .refl) (.ite (.strmRead .refl) (.strmWrite .refl))))

end Copies

end Sys2Proof.Proofs.Invariants
end

section
/-! PROOFS. The matrix engine keeps the two orders. -/

namespace Sys2Proof.Proofs.Invariants

open Sys2Proof.Machine
open Sys2Proof.Safety

section Matrix

variable {s t u : State} {q : Seqr} {c : Nat} {d a b fn : Reg} {lw : LW}

/-! ### Tiles -/

theorem Keep.setTile {n : Nat} {v : Tile} (h : Keep s u) : Keep s (u.setTile c n v) := .setCore h rfl rfl
theorem Keep.releaseTile {n : Nat} (h : Keep s u) : Keep s (u.releaseTile c n) := .setTile h
theorem Keep.shapeTile {n r k : Nat} (h : Keep s u) : Keep s (u.shapeTile c n r k) := .setTile h
theorem Keep.writeVa {ps : List Page} {va : Nat} {l : List Byte} (h : Keep s u) : Keep s (u.writeVa ps va l) :=
  .setHbm h (wf_foldl_write _ _ _)

/-- `spill` with the walk of its two ranges left abstract: read through this, no proof has to run a walk over a whole tile image. -/
theorem Keep.spill {n area : Nat} {ps : List Page} (h : Keep s u) (e : u.spill c n area = .pages ps t) : Keep s t := by
  obtain ⟨f, hf⟩ : ∃ f, f = @State.spill := ⟨_, rfl⟩
  rw [← hf] at e
  delta State.spill at hf
  obtain ⟨walk, hx⟩ : ∃ walk, walk = @State.xlateRange := ⟨_, rfl⟩
  rw [← hx] at hf
  have keep {c hi r w f n u va ps t} (h : Keep s u) (e : walk c hi r w f n u va = .pages ps t) : Keep s t := .xlateRange h (hx ▸ e)
  subst hf
  dsimp only at e
  split at e
  · next h1 =>
    split at e
    · next h2 => cases e; exact .writeVa (.writeVa (keep (keep h h1) h2))
    · exact keep (keep h h1) e
  · exact keep h e

theorem keeps_mxAcq : OutKeep s (execMxAcq d a s) :=
  .issue fun _ _ h => .ready (by
    extract_lets c x n t done taken
    obtain ⟨f, hf⟩ : ∃ f, f = @State.spill := ⟨_, rfl⟩
    rw [← hf]
    refine .ite (.retire (.holdFor (.setS h))) ?_
    split
    · exact .retire (.holdFor (.setS (.setTile h)))
    · exact .retire (.holdFor (.setS h))
    · split
      · next he => exact .retire (.holdFor (.setS (.setTile (.spill h (hf ▸ he)))))
      · exact .trap
      · exact .stop)

theorem keeps_mxRel : OutKeep s (execMxRel d s) :=
  .issue fun _ _ h => .ite .trap (.ite (.whole (.holdOn h)) (.retire (.releaseTile h)))
theorem keeps_mxShape : OutKeep s (execMxShape d a b s) :=
  .issue fun _ _ h => .ready (.ite .trap (.ite .trap (.ite .trap (.ite (.whole (.holdOn h)) (.retire (.shapeTile h))))))
theorem keeps_tileAutoRelease : OutKeep s (execTileAutoRelease s) := .next (.ite (.releaseTile .refl) .refl)

/-! ### Pushes -/

theorem keeps_mxSet {e : BitVec 24} {w1 w2 w3 : Word} : OutKeep s (execMxSet e w1 w2 w3 s) := .issue fun _ _ h => .retire (.setThread h)

theorem keeps_mxGo : OutKeep s (execMxGo d a b fn s) :=
  .issue fun _ _ h => .ready (.ite .stall (by
    dsimp only
    split
    · exact .trap
    · split
      · exact .trap
      · refine .ite .trap ?_
        split
        · exact .trap
        · exact .ite .trap (.retire (.holdFor (.setS (.push h))))))

theorem keeps_mxZero : OutKeep s (execMxZero d fn s) := .issue fun _ _ h => .ready (.ite .stall (.ite .trap (.retire (.setS (.push h)))))

theorem keeps_mxOut : OutKeep s (execMxOut d a b fn lw s) :=
  .issue fun _ _ h => .guarded h (.ready (.ite .stall (.ite .trap (.ite .trap (.ite .trap (.ite .trap (.withFoot h fun _ _ ht => by
    dsimp only
    split
    · exact .trap
    · exact .retire (.setS (.push (.pin ht))))))))))

/-! ### Running -/

theorem Keep.atStart {i : Item} (h : Keep s u) : Keep s (u.atStart c i) := by
  unfold State.atStart
  split
  · exact .ite (.setItem (.setTile h)) h
  · split
    · exact .ite (.setItem h) h
    · exact h
  · exact h

theorem keeps_matrixStep : OutKeep s (execMatrixStep s) := by
  unfold execMatrixStep
  dsimp only
  split
  · exact .next .refl
  · refine .ite (.next .refl) ?_
    split
    · exact .next (.atStart .refl)
    · exact .ite (.next (.atStart .refl)) (.ite (.next .refl) (.ite (.next (.failItem .refl)) (.ite (.next .refl)
        (.next (.setItem (.setTile .refl))))))

theorem Keep.putPlain {ps : List Page} {g : Handle} {j : List Nat} {n : Nat} (h : Keep s u) : Keep s (u.putPlain c ps g j n) :=
  .ite (.replace h (Memory.wf_writeN _ _ _ _) id) (.setHbm h (wf_foldl_write _ _ _))

theorem keeps_mxOutRow : OutKeep s (execMxOutRow s) := by
  unfold execMxOutRow
  dsimp only
  split
  · exact .next .refl
  · split
    · exact .ite (.next .refl) (.ite (.next (.setItem .refl)) (.ite (.next .refl)
        (.next (.setItem (.foldl .refl (fun _ _ ht => .putPlain ht) _)))))
    · exact .next .refl

theorem ResKeep.tileMove {r : Bool} {f : Tile → List Nat → Res} (hf : ∀ t l, ResKeep s (f t l)) : ResKeep s (tileMove a b r q u f) :=
  .ite .trap (.ite (.ite .trap (hf _ _)) (.ite .trap (hf _ _)))

theorem keeps_ardMove {r : Bool} : OutKeep s (ardMove d a b fn lw r s) := by
  unfold ardMove
  exact .vecIssue fun _ _ h => .tileMove fun _ _ => .vecCommit h

theorem keeps_awrMove {r : Bool} : OutKeep s (awrMove d a b fn lw r s) := by
  unfold awrMove
  exact .vecIssue fun _ _ h => .tileMove fun _ _ => .ite (.trapAt (.orFsr h)) (.retire (.addResult (.orFsr h)))

end Matrix

end Sys2Proof.Proofs.Invariants
end

section
/-! PROOFS. Flows, messages and digests keep the two orders. -/

namespace Sys2Proof.Proofs.Invariants

open Sys2Proof.Machine
open Sys2Proof.Safety

section Flows

variable {s t u : State} {q : Seqr} {c : Nat} {d a b fn : Reg} {lw : LW}

/-! ### Packets and ports -/

theorem Keep.inject {p : Pkt} (h : Keep s u) : Keep s (u.inject p) := .rest h rfl rfl rfl rfl
theorem Keep.takePkt {n : Nat} (h : Keep s u) : Keep s (u.takePkt n) := .rest h rfl rfl rfl rfl
theorem Keep.setPort {n : Nat} {x : Port} (h : Keep s u) : Keep s (u.setPort n x) := .rest h rfl rfl rfl rfl
theorem Keep.sendPort {n : Nat} {p : Pkt} (h : Keep s u) : Keep s (u.sendPort n p) := .setPort h
theorem Keep.setFlow {n : Nat} {r : FlowRec} (h : Keep s u) : Keep s (u.setFlow n r) := .setFlows h (SMap.wf_set _ _ _)
theorem Keep.addEvent {e : EventRec} (h : Keep s u) : Keep s (u.addEvent e) := .rest h rfl rfl rfl rfl

theorem Keep.acceptFlits {p m n : Nat} (h : Keep s u) (e : u.acceptFlits p m n = some t) : Keep s t := by
  unfold State.acceptFlits at e
  dsimp only at e
  split at e <;> cases e
  exact .setPort h

/-! ### The flow unit's work -/

theorem Keep.returnCredit {e : FEntry} {p : Pkt} (h : Keep s u) : Keep s (u.returnCredit e p) := by
  unfold State.returnCredit
  dsimp only
  split
  · exact .ite (.sendPort h) h
  · exact .inject h

theorem Keep.freeSlots {f : Nat} {p : FEntry} (h : Keep s u) : Keep s (u.freeSlots f p) := by
  unfold State.freeSlots
  split
  · exact h
  · refine .foldl (.setFlow h) (fun t x ht => ?_) _
    split
    · exact ht
    · split
      · exact ht
      · exact .foldl (.setFlow ht) (fun _ _ h1 => .returnCredit h1) _

theorem Keep.entryWork {f : Nat} {r : FlowRec} {e : FEntry} (h : Keep s u) (he : u.entryWork f r e = some t) : Keep s t := by
  unfold State.entryWork at he
  dsimp only at he
  split at he
  · split at he
    · cases he; exact .inject (.setFlow h)
    · split at he <;> cases he
      · exact .setFlow h
      · exact .sendPort (.setFlow h)
    · cases he
  · split at he
    · cases he; exact .freeSlots h
    · split at he
      · cases he
      · obtain ⟨r1, -, rfl⟩ := Option.map_eq_some_iff.mp he
        exact .setFlow h

theorem Keep.flowWork {f n : Nat} (h : Keep s u) : Keep s (State.flowWork f n u) := by
  induction n generalizing u with
  | zero => exact h
  | succ n ih =>
    rw [State.flowWork]
    split
    · exact h
    · split
      · exact h
      · next he =>
        obtain ⟨e, -, he⟩ := List.exists_of_findSome?_eq_some he
        exact ih (.entryWork h he)

theorem Keep.runFlow {f : Nat} (h : Keep s u) : Keep s (u.runFlow f) := by
  unfold State.runFlow
  split
  · exact h
  · exact .flowWork h

theorem Keep.arriveAt {n : Nat} {p : Pkt} {v : Option Nat} (h : Keep s u) (e : u.arriveAt n p v = some t) : Keep s t := by
  unfold State.arriveAt at e
  split at e
  · cases e
  · split at e <;> cases e
    exact .runFlow (.setFlow h)

/-! ### Installing and removing -/

theorem Keep.useGrants {f : Nat} {e : FEntry} (h : Keep s u) : Keep s (u.useGrants f e) := by
  refine .foldl h (fun t x ht => ?_) _
  split
  · exact .setPort ht
  · exact ht

theorem Keep.grantFrom {f : Nat} {e : FEntry} (h : Keep s u) : Keep s (u.grantFrom f e) := by
  have h1 : Keep s { u with draws := u.draws + 1 } := .rest h rfl rfl rfl rfl
  unfold State.grantFrom State.draw
  dsimp only
  split
  · exact h1
  · refine .sendPort ?_
    split
    · exact .setFlow h1
    · exact h1

theorem Keep.installFlow {n f : Nat} {es : List FEntry} (h : Keep s u) : Keep s (u.installFlow n f es) :=
  .foldl (.foldl (.setFlow h) (fun _ _ ht => .useGrants ht) _) (fun _ _ ht => .grantFrom ht) _

theorem Keep.removeFlow {f : Nat} (h : Keep s u) : Keep s (u.removeFlow f) := by
  unfold State.removeFlow
  split
  · exact h
  · exact .setFlows (.foldl h (fun _ _ ht => .ite (.sendPort ht) ht) _) (wf_erase _)

theorem keeps_flowLoad : OutKeep s (execFlowLoad d a s) :=
  .issue fun _ _ h => .ready (.ite .trap (.ite .trap (.ite .stall (.ite (.retire (.setS h)) (.ite .trap (.ite .stall (.ite
    (by
      split
      · exact .retire (.setS h)
      · exact .ite (.retire (.setS (.foldl h (fun _ _ ht => .removeFlow ht) _))) (.whole (.holdOn h)))
    (by
      split
      · exact .retire (.setS h)
      · exact .retire (.setS (.foldl h (fun _ _ ht => .installFlow ht) _))))))))))

theorem keeps_flowAutoRemove : OutKeep s (execFlowAutoRemove s) :=
  .next (.foldl .refl (fun _ _ ht => .ite (.removeFlow ht) ht) _)

/-! ### Flow commands -/

theorem ResKeep.pushFlow {i : Item} (h : Keep s u) : ResKeep s (u.pushFlow q d i) := .retire (.setS (.push (.pin h)))

theorem keeps_flowSend : OutKeep s (execFlowSend d a b s) :=
  .issue fun _ _ h => .ready (.ite .stall (.ite .trap (.ite .trap (.ite .trap (.ite .trap (.pushFlow h))))))

theorem ResKeep.pushReceive {n : Nat} {i : Item} (h : Keep s u) : ResKeep s (u.pushReceive q d b n i) := by
  refine .ite .trap (.ite .trap ?_)
  dsimp only
  split
  · exact .trap
  · refine .withFoot h fun _ _ ht => ?_
    split
    · exact .trap
    · exact .trap
    · exact .pushFlow ht

theorem keeps_flowRecv : OutKeep s (execFlowRecv d a b s) :=
  .issue fun _ _ h => .ready (.ite .stall (.ite .trap (.ite .trap (.pushReceive h))))
theorem keeps_msgSend : OutKeep s (execMsgSend d a b s) :=
  .issue fun _ _ h => .ready (.ite .stall (.ite .trap (.ite .trap (.ite .trap (.pushFlow h)))))
theorem keeps_msgPost : OutKeep s (execMsgPost d a b s) := .issue fun _ _ h => .ready (.ite .stall (.ite .trap (.pushReceive h)))
theorem keeps_msgProbe : OutKeep s (execMsgProbe d a b s) :=
  .issue fun _ _ h => .ready (.ite .trap (.ite .trap (.ite (.retire (.holdFor (.setS h))) (.retire (.holdFor (.setS (.setCore h rfl rfl)))))))

theorem keeps_flowRel : OutKeep s (execFlowRel d a s) :=
  .issue fun _ _ h => .ready (.ite .trap (by
    dsimp only
    split
    · exact .retire (.holdFor (.setS h))
    · exact .retire (.holdFor (.setS (.runFlow (.setFlow h))))))

theorem keeps_flowStat : OutKeep s (execFlowStat d a s) := .issue fun _ _ h => .ready (.ite .trap (.retire (.holdFor (.setS h))))

/-! ### Running commands -/

theorem Keep.started {i : Item} (h : Keep s u) : Keep s (u.started c i) := by
  unfold State.started
  split
  · exact .setItem h
  · exact .inject h
  · exact .atStart h

theorem keeps_commandStart : OutKeep s (execCommandStart s) := by
  unfold execCommandStart
  dsimp only
  refine .ite (.next .refl) ?_
  split
  · exact .next .refl
  · exact .next (.started (.setCore .refl rfl rfl))

theorem Keep.injectFlow {f : Nat} {i : Item} (h : Keep s u) : Keep s (u.injectFlow c f i) := by
  unfold State.injectFlow
  split
  · exact .ite h (.ite h (.runFlow (.setItem (.setFlow (.setCore h rfl rfl)))))
  · exact h

theorem keeps_chunkInject : OutKeep s (execChunkInject s) := by
  unfold execChunkInject
  dsimp only
  split
  · exact .next .refl
  · refine .ite (.next .refl) (.ite (.next (.ite (.setItem .refl) .refl)) ?_)
    split
    · exact .next (.injectFlow .refl)
    · exact .ite (.next .refl) (.next (.inject (.setItem (.setCore .refl rfl rfl))))
    · exact .next .refl

/-! ### Arrivals -/

theorem keeps_flowPacketArrive : OutKeep s (execFlowPacketArrive s) := by
  unfold execFlowPacketArrive
  dsimp only
  split
  · split
    · exact .next .refl
    · next h0 =>
      split
      · next h1 => exact .next (.arriveAt (.acceptFlits .refl h0) h1)
      · exact .next (.sendPort (.acceptFlits .refl h0))
  · split
    · exact .next .refl
    · split
      · refine .next ?_
        cases ha : State.arriveAt _ _ _ _ with
        | none => exact .takePkt .refl
        | some t => exact .arriveAt (.takePkt .refl) ha
      · split
        · exact .next (.setItem (.takePkt .refl))
        · exact .next (.takePkt .refl)
      · exact .next .refl

theorem keeps_flowCreditArrive : OutKeep s (execFlowCreditArrive s) := by
  unfold execFlowCreditArrive
  dsimp only
  split
  · split
    · exact .next .refl
    · next h0 =>
      have h1 := Keep.refl.acceptFlits h0
      split
      · exact .next (.setPort h1)
      · split
        · exact .next (.setPort h1)
        · exact .next (.runFlow (.setFlow h1))
  · split
    · exact .next .refl
    · refine .ite (.next .refl) ?_
      split
      · exact .next (.takePkt .refl)
      · split
        · exact .next (.takePkt .refl)
        · exact .next (.runFlow (.setFlow (.takePkt .refl)))

theorem keeps_removalNoticeArrive : OutKeep s (execRemovalNoticeArrive s) := by
  unfold execRemovalNoticeArrive
  dsimp only
  split
  · exact .next .refl
  · next h0 =>
    have h1 := Keep.refl.acceptFlits h0
    split
    · exact .next (.setPort h1)
    · exact .next (.setFlow (.setPort h1))

/-! ### Deliveries -/

theorem Keep.deliver {i : Item} {p : Pkt} {k : Nat} {x : Bool} (h : Keep s u) (e : u.deliver c i p k = some (t, x)) : Keep s t := by
  unfold State.deliver at e
  dsimp only at e
  split at e <;> cases e
  exact .setItem (.setHbm (.foldl (.tagBlocks h) (fun _ _ ht => .writeByteH ht) _) (wf_foldl_write _ _ _))

theorem keeps_deliveryWrite : OutKeep s (execDeliveryWrite s) := by
  unfold execDeliveryWrite
  dsimp only
  split
  · exact .next .refl
  · refine .ite (.next .refl) ?_
    split
    · split
      · exact .next .refl
      · split
        · exact .next .refl
        · split
          · exact .next .refl
          · split
            · exact .next .refl
            · next hd => exact .next (.deliver .refl hd)
            · next hd => exact .next (.runFlow (.setFlow (.deliver .refl hd)))
    · split
      · exact .next .refl
      · split
        · exact .next .refl
        · next hd =>
          have h1 := Keep.refl.deliver hd
          refine .next (.ite ?_ h1)
          split
          · exact .setItem h1
          · exact h1
    · exact .next .refl

theorem keeps_completionRecordWrite : OutKeep s (execCompletionRecordWrite s) := by
  unfold execCompletionRecordWrite
  dsimp only
  split
  · exact .next .refl
  · exact .ite (.next .refl) (.next (.setItem (.foldl (.foldl .refl (fun _ _ ht => .setSpadByte ht) _) (fun _ _ ht => .setSpadByte ht) _)))

/-! ### Messages -/

theorem Keep.sendGo {i : Item} {p : Pkt} (h : Keep s u) : Keep s (u.sendGo c i p) := .inject (.setItem h)
theorem Keep.noteOverflow {p : Pkt} (h : Keep s u) : Keep s (u.noteOverflow c p) := .postOverflow (.setCore h rfl rfl)

theorem keeps_messageRequestArrive : OutKeep s (execMessageRequestArrive s) := by
  unfold execMessageRequestArrive
  split
  · exact .next .refl
  · refine .ite (.next .refl) ?_
    dsimp only
    split
    · exact .next (.sendGo (.setCore (.takePkt .refl) rfl rfl))
    · exact .ite (.next (.setCore (.takePkt .refl) rfl rfl)) (.next (.inject (.noteOverflow (.setCore (.takePkt .refl) rfl rfl))))

theorem keeps_receivePost : OutKeep s (execReceivePost s) := by
  unfold execReceivePost
  dsimp only
  split
  · exact .next .refl
  · refine .ite (.next .refl) ?_
    split
    · exact .next (.sendGo (.setCore .refl rfl rfl))
    · exact .next (.setItem (.setCore .refl rfl rfl))

theorem keeps_goArrive : OutKeep s (execGoArrive s) := by
  unfold execGoArrive
  split
  · exact .next .refl
  · refine .ite (.next .refl) ?_
    split
    · exact .next (.setItem (.takePkt .refl))
    · exact .next (.takePkt .refl)

theorem Keep.nackFlow {p f k n : Nat} (h : Keep s u) : Keep s (u.nackFlow p f k n) := by
  unfold State.nackFlow
  split
  · exact h
  · split
    · exact h
    · split
      · exact h
      · refine .foldl (.setFlow h) (fun t y ht => ?_) _
        split
        · exact ht
        · exact .setCore ht rfl rfl

theorem keeps_nackArrive : OutKeep s (execNackArrive s) := by
  unfold execNackArrive
  split
  · split
    · exact .next .refl
    · next h0 => exact .next (.nackFlow (.acceptFlits .refl h0))
  · split
    · exact .next .refl
    · refine .ite (.next .refl) ?_
      split
      · exact .next (.failItem (.takePkt .refl))
      · exact .next (.takePkt .refl)

/-! ### Digests -/

theorem keeps_digest : OutKeep s (execDigest d a b s) := .issue fun _ _ h => .ready (.ite .trap (.ite .stall (.retire (.setThread h))))

theorem keeps_digestLands : OutKeep s (execDigestLands s) := by
  unfold execDigestLands
  dsimp only
  split
  · exact .next .refl
  · exact .next (.foldl (.setCtx .refl) (fun _ _ ht => .fillReg ht) _)

theorem Keep.postAll {v : AsyncCause} (h : Keep s u) : Keep s (u.postAll c v) := .foldl h (fun _ _ ht => .post ht) _

theorem Keep.dchkCompare {r x y : Nat} (h : Keep s u) : Keep s (u.dchkCompare q r x y) := by
  have h1 (n : Nat) (l : List Byte) : Keep s { u with hbm := u.hbm.writeBytes n l } := .setHbm h (Memory.wf_writeBytes _ _ _)
  have h2 (n : Nat) (l : List Byte) :
      Keep s (({ u with hbm := u.hbm.writeBytes n l } : State).setCore q.core { u.core q.core with queuesHalted := true }) := .setCore (h1 n l) rfl rfl
  exact .ite (.setProg h) (.postAll (h2 _ _))

theorem keeps_dchk : OutKeep s (execDchk d a b s) :=
  .issue fun _ _ h => .ready (.ite .trap (.ite .trap (.ite .stall (.ite (.retire (.dchkCompare h)) (.whole (.holdOn h))))))

end Flows

end Sys2Proof.Proofs.Invariants
end

section
/-! PROOFS. Saves and restores, waits, the issue choices and soft errors keep the two orders. -/

namespace Sys2Proof.Proofs.Invariants

open Sys2Proof.Machine
open Sys2Proof.Safety

section Saves

variable {s t u : State} {q : Seqr} {c x : Nat} {d a b : Reg}

/-! ### Ends -/

theorem Keep.leaveAll {n : Nat} (h : Keep s u) : Keep s (u.leaveAll n) := .foldl h (fun _ _ ht => .leaveGroup ht) _

theorem Keep.endThread {k : BitVec 32} {r : Option TrapReq} (h : Keep s u) : Keep s (u.endThread c x k r) :=
  .addEvent (.postOverflow (.setCtx (.setCore (.leaveAll h) rfl rfl)))

theorem keeps_halt : OutKeep s (execHalt a s) := .issue fun _ _ h => .ready (.whole (.holdOn (.countRetired h)))

theorem Keep.leaveFlows (h : Keep s u) : Keep s (u.leaveFlows c) := .ite (.setFlows h (wf_mapVals _)) h
theorem Keep.freeCtx (h : Keep s u) : Keep s (u.freeCtx c x) := .leaveFlows (.replace h id (wf_erase _))

/-! ### Saves -/

theorem Keep.areaPages {hi : Nat} {w : Bool} {n va : Nat} {ps : List Page} (h : Keep s u) (e : areaPages c hi w n u va = .pages ps t) :
    Keep s t := by
  induction n generalizing u va ps with
  | zero => cases e; exact h
  | succ n ih =>
    rw [Machine.areaPages] at e
    split at e
    · cases e
    · cases e
    · next hp =>
      have h1 := h.xlate hp
      split at e
      · cases e
      · split at e
        · cases e; exact h1
        · split at e
          · next he => cases e; exact ih h1 he
          · exact ih h1 e

theorem Keep.saveCtx {v : DWord} {ps : List Page} (h : Keep s u) : Keep s (u.saveCtx c x v ps) := by
  unfold State.saveCtx
  dsimp only
  exact .addEvent (.replace (.foldl (.writeVa (.foldl h (fun _ _ ht => .unpin ht) _)) (fun _ _ ht => .writeVa ht) _) id
    (SMap.wf_set _ _ _))

theorem ResKeep.withArea {v : DWord} {w : Bool} {k : List Page → State → Res} (h : Keep s u) (hk : ∀ l t, Keep s t → ResKeep s (k l t)) :
    ResKeep s (u.withArea q v w k) := by
  refine .ite .trap ?_
  split
  · exact .trap
  · exact .stop
  · next he => exact hk _ _ (.areaPages h he)

theorem keeps_csave : OutKeep s (execCsave a s) :=
  .issue fun _ _ h => .ready (.ite .trap (.withArea h fun _ _ ht => .whole (.holdOn ht)))
theorem keeps_crest : OutKeep s (execCrest a s) :=
  .issue fun _ _ h => .ready (.ite .trap (.withArea h fun _ _ ht => .ite (.whole (.holdOn ht)) .trap))

/-! ### Restores -/

/-- The clause of one tile, its spill left abstract while the recursion is unfolded. -/
theorem restoreTiles_cons {v : DWord} {ps : List Page} {n : Nat} {l : List Nat} :
    State.restoreTiles c x v ps (n :: l) s =
      match (s.tile c n).owner with
      | .area b =>
        if b = v.toNat then State.restoreTiles c x v ps l (s.setTile c n { s.tile c n with owner := .ctx x })
        else match s.spill c n b with
          | .pages _ s1 => State.restoreTiles c x v ps l (s1.setTile c n (tileOfImage (s1.readVa ps (tileSlot v.toNat n) tileImageLen) (.ctx x)))
          | .trap f w => .trap f w
          | .noMemory => .noMemory
      | _ => State.restoreTiles c x v ps l (s.setTile c n (tileOfImage (s.readVa ps (tileSlot v.toNat n) tileImageLen) (.ctx x))) := by
  obtain ⟨g, hg⟩ : ∃ g, g = @State.restoreTiles := ⟨_, rfl⟩
  obtain ⟨f, hf⟩ : ∃ f, f = @State.spill := ⟨_, rfl⟩
  rw [← hg, ← hf]
  delta State.restoreTiles State.restoreTiles._f at hg
  rw [← hf] at hg
  subst hg
  rfl

theorem Keep.restoreTiles {v : DWord} {ps : List Page} {l : List Nat} (h : Keep s u) (e : State.restoreTiles c x v ps l u = .ok t) :
    Keep s t := by
  induction l generalizing u with
  | nil => cases e; exact h
  | cons n l ih =>
    obtain ⟨f, hf⟩ : ∃ f, f = @State.spill := ⟨_, rfl⟩
    rw [restoreTiles_cons, ← hf] at e
    split at e
    · split at e
      · exact ih (.setTile h) e
      · split at e
        · next he => exact ih (.setTile (.spill h (hf ▸ he))) e
        · cases e
        · cases e
    · exact ih (.setTile h) e

theorem Keep.requeue {i : Item} (h : Keep s u) : Keep s (u.requeue c i) := by
  unfold State.requeue
  dsimp only
  split
  · next he => exact .setCore (.pin (.walkFoot h he)) rfl rfl
  · exact .setCore h rfl rfl
  · exact .setCore h rfl rfl

theorem Keep.refork {ps : List Page} {v : DWord} (h : Keep s u) : Keep s (u.refork c x ps v) := by
  have h1 : Keep s (if (u.ctx c x).forkV = .running then match u.freeSlot c with
      | some n => u.setSlot c n { owner := some x, prog := u.progOfArea ps v 0x940 }
      | none => u
    else u) := by
    refine .ite ?_ h
    split
    · exact .setSlot h
    · exact h
  exact .ite (.setArc h1) h1

theorem Keep.claimPosts {v : DWord} (h : Keep s u) : Keep s (u.claimPosts c x v) := .setCtx (.setCore h rfl rfl)

theorem Keep.restoreCtx {v : DWord} {ps : List Page} (h : Keep s u) (e : u.restoreCtx c x v ps = .ok t) : Keep s t := by
  unfold State.restoreCtx at e
  split at e
  · next s1 hr =>
    have h1 : Keep s s1 := .restoreTiles (.setCtx h) hr
    refine Restored.ok.inj e ▸ ?_
    exact .satisfyWaits (.claimPosts (.refork (.foldl (.rest h1 (by rfl) (by rfl) (by rfl) (by rfl)) (fun _ _ ht => .requeue ht) _)))
  · next hn => exact absurd e (hn _)

theorem keeps_restoreAndReturn {v : DWord} {ps : List Page} : OutKeep s (s.restoreAndReturn c x v ps) := by
  unfold State.restoreAndReturn
  dsimp only
  split
  · exact .next (.raise (.setProg .refl))
  · exact .fault
  · next hr =>
    have h1 := Keep.restoreCtx (.setProg .refl) hr
    exact .ite (.next (.raise h1)) (.ite (.next (.holdOn (.setCtx h1))) (.next (.setCtx h1)))

/-! ### The issue choices and the clock -/

theorem Keep.noteAble {l : List Nat} (h : Keep s u) : Keep s (u.noteAble c l) := by
  refine .replace h id fun hw => ?_
  dsimp only
  exact wf_mapVals _ hw

theorem Keep.noteIssue {l : List Nat} (h : Keep s u) : Keep s (u.noteIssue c l x) := by
  refine .replace h id fun hw => ?_
  dsimp only
  exact wf_mapVals _ hw

theorem keeps_issueSelect : OutKeep s (execIssueSelect s) := .next (.rest .refl rfl rfl rfl rfl)
theorem keeps_vectorIssueSelect : OutKeep s (execVectorIssueSelect s) := .next (.rest .refl rfl rfl rfl rfl)
theorem Keep.tick (h : Keep s u) : Keep s u.tick := .rest h rfl rfl rfl rfl

/-! ### Sleep, invalidations and releases -/

theorem keeps_sleep : OutKeep s (execSleep a s) :=
  .issue fun _ _ h => .ready (.ite (.whole (.finish h (.retire h))) (.whole (.holdOn (.finish h (.retire h)))))

theorem keeps_sleepTimeout : OutKeep s (execSleepTimeout s) := by
  unfold execSleepTimeout
  dsimp only
  split
  · exact .ite (.next (.setProg .refl)) (.next .refl)
  · exact .next .refl

theorem Keep.tlbDrop {n : Nat} {v w : DWord} (h : Keep s u) : Keep s (u.tlbDrop n v w) := .rest h rfl rfl rfl rfl

theorem keeps_tlbInv : OutKeep s (execTlbInv a b s) :=
  .issue fun _ _ h => .ready (.ite .trap (.ite .trap (.ite .trap (.ite (.whole (.holdOn (.tlbDrop h))) (.retire (.tlbDrop h))))))

theorem Keep.removeFlows {l : List Nat} (h : Keep s u) : Keep s (l.foldl State.removeFlow u) := .foldl h (fun _ _ ht => .removeFlow ht) _

theorem Keep.releaseWith {f : State → State} (h : Keep s u) (hf : ∀ t, Keep s t → Keep s (f t)) : Keep s (u.releaseWith q f) :=
  have h1 : Keep s (u.setProg q { u.prog q with hold := none }) := .setProg h
  .finish h1 (.retire (hf _ h1))

theorem keeps_waitRelease : OutKeep s (execWaitRelease s) := by
  unfold execWaitRelease
  extract_lets c x q t k
  refine .ite (.next .refl) ?_
  generalize t.prog.hold = hold
  rcases hold with - | hold
  · exact .next .refl
  cases hold with
  | fence n => exact .next (.ite (.releaseWith .refl fun _ h => .fencePass h) .refl)
  | barrier g r =>
    dsimp only
    split
    · exact .next (.ite (.releaseWith .refl fun _ h => .finishBar h) .refl)
    · exact .next .refl
  | tapeSet v l => exact .next (.ite .refl (.releaseWith .refl fun _ h => .setThread h))
  | modeSwitch v => exact .next (.ite (.releaseWith .refl fun _ h => .setThread h) .refl)
  | tret => exact .next (.ite (.setCtx .refl) .refl)
  | tileRel n => exact .next (.ite .refl (.releaseWith .refl fun _ h => .releaseTile h))
  | tileShape n r l => exact .next (.ite .refl (.releaseWith .refl fun _ h => .shapeTile h))
  | flowUnload r l => exact .next (.ite (.releaseWith .refl fun _ h => .setProg (.removeFlows h)) .refl)
  | dchk r v w => exact .next (.ite (.releaseWith .refl fun _ h => .dchkCompare h) .refl)
  | tlbInv v w => exact .next (.ite (.tlbDrop .refl) (.releaseWith (.tlbDrop .refl) fun _ h => h))
  | halting v r => exact .next (.ite (.endThread .refl) .refl)
  | csave v l => exact .next (.ite (.saveCtx .refl) .refl)
  | crest v l => exact .ite keeps_restoreAndReturn (.next .refl)
  | clock _ => exact .next .refl
  | adj _ => exact .next .refl
  | sleep _ => exact .next .refl
  | ended => exact .next .refl
  | aspSt _ _ _ _ _ => exact .next .refl
  | longResult => exact .next .refl

/-! ### Records, causes and time slices -/

theorem keeps_eventPost : OutKeep s (execEventPost s) := by
  unfold execEventPost
  dsimp only
  split
  · exact .next .refl
  · refine .ite (.next .refl) (.next ?_)
    have h1 : ∀ (m : Memory) (v : SMap Nat) (l : List EventRec), Keep s { s with
        evPending := l, board := { s.board with evMem := m, raised := v, eqHead := (s.board.eqHead + 1) % 4096 } } := fun m v l =>
      .rest (.setBoard .refl fun ⟨_, h2, h3⟩ => ⟨Nat.mod_lt _ (by decide), h2, h3⟩ :
        Keep s { s with board := { s.board with evMem := m, raised := v, eqHead := (s.board.eqHead + 1) % 4096 } }) rfl rfl rfl rfl
    exact .ite (.freeCtx (h1 _ _ _)) (h1 _ _ _)

theorem Keep.postOnce {v : AsyncCause} (h : Keep s u) : Keep s (u.postOnce c x v) := .ite (.post h) h
theorem Keep.postPreempt {n : Nat} (h : Keep s u) : Keep s (u.postPreempt c x n) := .postOnce h
theorem keeps_monitorPreemptRequest : OutKeep s (execMonitorPreemptRequest s) := .next (.postPreempt .refl)
theorem keeps_timer : OutKeep s (execTimer s) := .next (.ite (.postOnce .refl) .refl)

theorem keeps_timeSliceSwitch : OutKeep s (execTimeSliceSwitch s) := by
  unfold execTimeSliceSwitch
  dsimp only
  split
  · have h1 (l : List Nat) (n m : Nat) : Keep s (((l.foldl (fun s x => s.postPreempt n x 2) s).imageOut n).imageIn m) :=
      .imageIn (.imageOut (.foldl .refl (fun _ _ ht => .postPreempt ht) _))
    have h2 (l : List Nat) (n m : Nat) (u : State) (hu : u = ((l.foldl (fun s x => s.postPreempt n x 2) s).imageOut n).imageIn m) :
        Keep s (u.setCore m { u.core m with vptr := 0 }) := .setCore (hu ▸ h1 l n m) rfl rfl
    exact .ite (.next .refl) (.next (.rest (h2 _ _ _ _ rfl) rfl rfl rfl rfl))
  · exact .next .refl

/-! ### Soft errors -/

theorem keeps_scrub : OutKeep s (execScrub s) := .next .refl

theorem Keep.eccuAt {r : ErrReader} {n : Nat} {v : Bool} (h : Keep s u) : Keep s (u.eccuAt r n v) := by
  unfold State.eccuAt
  split
  · exact h
  · exact .rest h rfl rfl rfl rfl

theorem Keep.eccuAfter {n : Nat} {v : Bool} (h : Keep s u) : Keep s (u.eccuAfter q n v t) := .ite h (.raise h)

theorem Keep.noteDelivery {i : Item} {k : Cause} (h : Keep s u) : Keep s (u.noteDelivery c i k) := by
  unfold State.noteDelivery
  split
  · split
    · exact .setFlow h
    · exact h
  · exact h

theorem Keep.eccuItem {r : ErrReader} (h : Keep s u) : Keep s (u.eccuItem r) := by
  unfold State.eccuItem
  split
  · split
    · exact .ite (.ite (.noteDelivery (.setItem h)) (.failItem h)) h
    · exact h
  · exact h

theorem Keep.eccuAccess {r : ErrReader} (h : Keep s u) : Keep s (u.eccuAccess r) := by
  unfold State.eccuAccess
  dsimp only
  split
  · split
    · exact h
    · refine .ite h ?_
      split
      · exact .post (.finishAcc (.fillReg h))
      · exact .post (.finishAcc (.fillReg h))
      · exact .post (.finishAcc (.fillReg h))
      · exact .post (.setAcc h)
      · exact .post (.finishAcc (.giveCell h))
      · exact .post (.finishAcc (.fillReg h))
      · exact h
      · exact h
      all_goals exact .post (.finishAcc h)
  · exact h

theorem Keep.eccuWalk {r : ErrReader} {v : DWord} (h : Keep s u) : Keep s (u.eccuWalk r v) := by
  unfold State.eccuWalk
  split
  · exact .ite (.post h) h
  · exact h

theorem keeps_uncorrectableError : OutKeep s (execUncorrectableError s) := by
  refine .next ?_
  dsimp only
  split
  · exact .setCore .refl rfl rfl
  · exact .eccuItem (.eccuAt .refl)
  · exact .eccuAt .refl
  · exact .eccuItem .refl
  · exact .eccuItem .refl
  · exact .eccuWalk (.eccuAccess (.eccuItem .refl))
  · exact .eccuWalk (.eccuAccess (.eccuItem .refl))
  · exact .setFlows .refl (wf_mapVals _)
  · exact .eccuAt .refl
  · exact .rest .refl rfl rfl rfl rfl

end Saves

end Sys2Proof.Proofs.Invariants
end

section
/-! PROOFS. The loader, the firmware, the ports and the host's side keep the two orders. -/

namespace Sys2Proof.Proofs.Invariants

open Sys2Proof.Machine
open Sys2Proof.Safety

section System

variable {s t u : State} {c x : Nat}

/-! ### The loader -/

theorem Keep.imagePages {lo n : Nat} {ps : List Page} (h : Keep s u) (e : u.imagePages c lo n = .ok (ps, t)) : Keep s t := by
  unfold State.imagePages at e
  split at e
  · cases e; exact h
  · split at e <;> cases e
    next hx => exact .xlateRange h hx

theorem Keep.readSections {va : Nat} {l acc xs : List Section} {r : Option Reject} (h : Keep s u)
    (e : State.readSections c va l u r acc = .ok (xs, t)) : Keep s t := by
  induction l generalizing u r acc with
  | nil => cases r <;> cases e; exact h
  | cons x l ih =>
    rw [State.readSections] at e
    split at e
    · exact ih h e
    · next hp => exact ih (.imagePages h hp) e

theorem Keep.readImage {va : Nat} {g : Image} (h : Keep s u) (e : u.readImage c va = .ok (g, t)) : Keep s t := by
  unfold State.readImage at e
  split at e
  · cases e
  · next h1 =>
    dsimp only at e
    split at e
    · cases e
    · split at e
      · cases e
      · next h2 =>
        split at e
        · cases e
        · split at e
          · cases e
          · next h3 =>
            split at e <;> cases e
            exact .readSections (.imagePages (.imagePages h h1) h2) h3

theorem wf_mapIdx {α β : Type} (f : Nat → α → β) (l : List α) : SMap.wf (l.mapIdx fun i e => (i, f i e)) = true := by
  rw [wf_iff_pairwise, List.pairwise_iff_getElem]
  intro i j hi hj hij
  simpa using hij

theorem wf_copyKind (g : Image) (k : Nat) {m : Memory} (h : m.wf = true) : (g.copyKind k m).wf = true :=
  List.foldlRecOn (motive := fun m => Memory.wf m = true) _ _ h fun m hm _ _ => Memory.wf_writeBytes m _ _ hm

theorem keeps_launchTake : OutKeep s (execLaunchTake s) := by
  unfold execLaunchTake
  dsimp only
  refine .ite (.next .refl) ?_
  split
  · exact .next .refl
  · split
    · exact .fault
    · exact .next (.addEvent (.setCore .refl rfl rfl))
    · next hr =>
      have h1 := Keep.readImage (.setCore .refl (by rfl) (by rfl)) hr
      exact .ite (.next .refl) (.next (.postOverflow (.replace h1 (fun hw => wf_copyKind _ _ (wf_copyKind _ _ hw)) fun _ => wf_mapIdx _ _)))

/-! ### Boot and resets -/

/-- A map whose every value is the default reads as the default. -/
theorem get_of_forall {α : Type} (d : α) (l : SMap α) (n : Nat) (h : ∀ p ∈ l, p.2 = d) : SMap.get d l n = d := by
  induction l with
  | nil => rfl
  | cons p r ih =>
    rw [List.forall_mem_cons] at h
    simp only [SMap.get, h.1, ih h.2, ite_self]

theorem core_of_fresh {l : List Nat} (hc : u.cores = l.map (fun c => (c, ({} : Core)))) : u.core c = {} := by
  unfold State.core
  rw [hc]
  exact get_of_forall _ _ _ (List.forall_mem_map.mpr fun _ _ => rfl)

theorem Keep.boot (h : Keep s u) : Keep s u.boot := by
  unfold State.boot
  dsimp only
  split
  · exact .setBoard h fun ⟨h1, h2, _⟩ => ⟨h1, h2, fun hr => nomatch hr⟩
  · refine .foldl ⟨fun hs => ?_, fun hs => ?_⟩ (fun _ _ ht => .imageOut ht) _
    · obtain ⟨h1, h2, -⟩ := h.board hs
      refine ⟨h1, h2, fun hr => ?_⟩
      have hready : (128 ≤ ((List.range 288).filter (Config.selfTest u.draws)).length) := by
        by_contra hn
        have : (if decide (128 ≤ ((List.range 288).filter (Config.selfTest u.draws)).length) then DevState.ready else .unusable) = .ready := hr
        rw [decide_eq_false hn] at this
        cases this
      refine ⟨hready, ?_⟩
      show (!decide (128 ≤ ((List.range 288).filter (Config.selfTest u.draws)).length)) = false
      rw [decide_eq_true hready]; rfl
    · obtain ⟨h1, -, -, h4⟩ := h.lists hs
      refine ⟨h1, fun c => ?_, fun c => ?_, h4⟩ <;> rw [core_of_fresh rfl]
      · rfl
      · rfl

/-- A state with the lists of reset but for HBM, and a board after reset. -/
theorem Keep.ofReset (hb : t.board.eqHead = 0 ∧ t.board.eqTail = 0 ∧ t.board.devState = .reset) (hh : s.hbm.wf = true → t.hbm.wf = true)
    (hc : t.cores = []) (hf : t.flows = []) : Keep s t := by
  obtain ⟨h1, h2, h3⟩ := hb
  have hcore : ∀ c, t.core c = {} := fun c => by unfold State.core; rw [hc]; rfl
  refine ⟨fun _ => ⟨by rw [h1]; decide, by rw [h2]; decide, fun hr => by rw [h3] at hr; cases hr⟩, fun hs => ⟨hh hs.hbm, ?_, ?_, ?_⟩⟩
  · exact fun c => by rw [hcore]; rfl
  · exact fun c => by rw [hcore]; rfl
  · rw [hf]; rfl

theorem Keep.warmReset (h : Keep s u) : Keep s u.warmReset :=
  h.trans (.boot (.ofReset ⟨rfl, rfl, rfl⟩ id rfl rfl))

theorem keeps_warmReset : OutKeep s (execWarmReset s) := .next (.ite (.warmReset .refl) .refl)

theorem keeps_coldReset : OutKeep s (execColdReset s) :=
  .next (.boot (.ofReset ⟨rfl, rfl, rfl⟩ (fun _ => wf_foldl_write _ _ _ rfl) rfl rfl))

/-! ### Firmware, power and heat -/

theorem keeps_firmwareUpdate : OutKeep s (execFirmwareUpdate s) := .next (.setBoard .refl id)
theorem keeps_attestationRequest : OutKeep s (execAttestationRequest s) := .ite (.next .refl) (.next (.setBoard .refl id))
theorem keeps_deviceIdSet : OutKeep s (execDeviceIdSet s) := .next (.setBoard .refl id)
theorem keeps_hostLinkTrain : OutKeep s (execHostLinkTrain s) := .next (.setBoard .refl id)
theorem Keep.powerEvent {n m : Nat} (h : Keep s u) : Keep s (u.powerEvent n m) := .rest h rfl rfl rfl rfl
theorem keeps_powerCapSet : OutKeep s (execPowerCapSet s) := .next (.setBoard .refl id)
theorem keeps_powerCapThrottle : OutKeep s (execPowerCapThrottle s) := .next (.ite (.setBoard .refl id) .refl)
theorem keeps_thermalThrottle : OutKeep s (execThermalThrottle s) := .next (.ite (.powerEvent (.setBoard .refl id)) .refl)

theorem keeps_thermalShutdown : OutKeep s (execThermalShutdown s) := by
  refine .next (.ite (.powerEvent ?_) .refl)
  have hb : BoardOk s → s.board.eqHead < 4096 ∧ s.board.eqTail < 4096 ∧ (DevState.reset = .ready → 128 ≤ s.board.healthy ∧ true = false) :=
    fun ⟨h1, h2, _⟩ => ⟨h1, h2, fun hr => nomatch hr⟩
  have h0 : ∀ b : Board, (BoardOk s → b.eqHead < 4096 ∧ b.eqTail < 4096 ∧ (b.devState = .ready → 128 ≤ b.healthy ∧ b.stopped = false)) →
      Keep s { s with board := b, agenda := [] } := fun b h => .rest (.setBoard (b := b) .refl h) rfl rfl rfl rfl
  refine h0 _ ?_
  split
  · exact hb
  · exact hb

/-! ### Ports -/

theorem keeps_portTrain : OutKeep s (execPortTrain s) := .next (.ite .refl (.ite (.setPort .refl) (.setPort .refl)))

theorem Keep.dropPort {n : Nat} (h : Keep s u) : Keep s (u.dropPort n) :=
  .foldl (.rest (.setPort (n := n) (x := {}) (.foldl h (fun _ _ ht => .setFlow ht) _)) (by rfl) (by rfl) (by rfl) (by rfl)) (fun _ _ ht => .runFlow ht) _

theorem keeps_portDown : OutKeep s (execPortDown s) := .next (.ite (.dropPort .refl) .refl)

theorem keeps_flitCrcError : OutKeep s (execFlitCrcError s) := by
  refine .next (.ite .refl (.ite (.ite (.setPort .refl) .refl) (.ite (.ite .refl ?_) (.ite .refl ?_))))
  · split
    · exact .setPort .refl
    · exact .dropPort (.setPort .refl)
  · split
    · exact .setPort .refl
    · exact .dropPort .refl

/-! ### The host -/

theorem Keep.setMailbox {n : Nat} {m : Mailbox} (h : Keep s u) : Keep s (u.setMailbox n m) := .setBoard h id

theorem Keep.bar0Write {o n : Nat} {v : DWord} (h : Keep s u) : Keep s (u.bar0Write o n v) :=
  .ite h (.ite (.setBoard h fun ⟨h1, _, h3⟩ => ⟨h1, Nat.mod_lt _ (by decide), h3⟩) (.ite (.ite (.warmReset h) h)
    (.ite (.ite (.setMailbox h) (.ite (.setMailbox h) h)) (.ite (.hbmWriteN h) (.ite (.setBoard h id) h)))))

theorem keeps_registerWrite : OutKeep s (execRegisterWrite s) := .next (.bar0Write .refl)
theorem keeps_eqtailWrite : OutKeep s (execEqtailWrite s) :=
  .next (.setBoard .refl fun ⟨h1, _, h3⟩ => ⟨h1, Nat.mod_lt _ (by decide), h3⟩)
theorem keeps_hostWindowRead : OutKeep s (execHostWindowRead s) := .ite (.next (.setBoard .refl id)) (.next .refl)
theorem keeps_hostWindowWrite : OutKeep s (execHostWindowWrite s) := .ite (.next (.bar0Write .refl)) (.next .refl)
theorem keeps_recoveryWindowWrite : OutKeep s (execRecoveryWindowWrite s) := .ite (.next (.bar0Write .refl)) (.next .refl)

theorem keeps_serve {k : Nat} {f : Nat → Mailbox → Answer × State} (hf : ∀ n m, Keep s (f n m).2) : OutKeep s (s.serve k f) := by
  unfold State.serve
  dsimp only
  refine .ite (.next .refl) (.next ?_)
  split
  · exact .setMailbox .refl
  · exact .setMailbox (hf _ _)

theorem keeps_hello : OutKeep s (execHello s) := keeps_serve fun n m => by
  split
  · exact .refl
  · exact .setBoard .refl id

theorem keeps_launch : OutKeep s (execLaunch s) := keeps_serve fun n m => by
  dsimp only
  split
  · exact .refl
  · split
    · exact .refl
    · exact .setCore .refl rfl rfl

theorem keeps_setasid : OutKeep s (execSetasid s) := keeps_serve fun n m => by
  dsimp only
  split
  · exact .refl
  · split
    · exact .refl
    · exact .setCore .refl rfl rfl

theorem keeps_preempt : OutKeep s (execPreempt s) := keeps_serve fun _ _ => .foldl .refl (fun _ _ ht => .postPreempt ht) _

theorem keeps_restore : OutKeep s (execRestore s) := keeps_serve fun n m => by
  dsimp only
  split
  · exact .refl
  · split
    · exact .refl
    · exact .postOverflow (.setCtx .refl)

theorem keeps_mailboxReply : OutKeep s (execMailboxReply s) := by
  unfold execMailboxReply
  dsimp only
  refine .ite (.next .refl) ?_
  split
  · exact .next .refl
  · exact .next (.setBoard (.setMailbox .refl) id)

end System

end Sys2Proof.Proofs.Invariants
end

section
/-! PROOFS. Every instruction, every event and every step keeps the host's view in order and the lists in canonical form. -/

namespace Sys2Proof.Proofs.Invariants

open Sys2Proof.Machine
open Sys2Proof.Safety

/-! ### Every meaning -/

section Lanes

variable {s : State} {d a b fn : Reg} {lw : LW}

theorem keeps_vecF1 {op : FpFmt → Rm → Nat → Nat × Flags} : OutKeep s (vecF1 s d a fn lw op) := by
  unfold vecF1; exact keeps_vecLanes
theorem keeps_vecF2 {l p : Nat} {op : FpFmt → Rm → Val → Val → Nat × Flags} : OutKeep s (vecF2 s d a b fn lw l p op) := by
  unfold vecF2; exact keeps_vecLanes
theorem keeps_vecF3 {n m : Bool} : OutKeep s (vecF3 s d a b fn lw n m) := by
  unfold vecF3; exact keeps_vecLanes
theorem keeps_vecMinMax {v : Bool} : OutKeep s (vecMinMax s d a b fn lw v) := by
  unfold vecMinMax; exact keeps_vecLanes
theorem keeps_vecFun {op : FpFmt → Rm → Nat → Nat × Flags} : OutKeep s (vecFun s d a fn lw op) := by
  unfold vecFun; exact keeps_vecLong
theorem keeps_vecI2 {op : Nat → Bool → Nat → Nat → Nat × Flags} : OutKeep s (vecI2 s d a b fn lw op) := by
  unfold vecI2; exact keeps_vecLanes
theorem keeps_vecMove {xs : List Src} {f : Seqr → State → Nat → Nat → Nat} : OutKeep s (vecMove s d fn lw xs f) := by
  unfold vecMove; exact keeps_vecLanes
theorem keeps_vecExtreme {v : Bool} : OutKeep s (vecExtreme s d a fn lw v) := by
  unfold vecExtreme; exact keeps_vecReduce
theorem keeps_vrsum : OutKeep s (execVrsum d a fn lw s) := by
  unfold execVrsum; exact keeps_vecReduce
theorem keeps_vcmp : OutKeep s (execVcmp d a b fn lw s) := by
  unfold execVcmp; exact keeps_vecLanes
theorem keeps_viabs : OutKeep s (execViabs d a fn lw s) := by
  unfold execViabs; exact keeps_vecLanes
theorem keeps_vpopc : OutKeep s (execVpopc d a fn lw s) := by
  unfold execVpopc; exact keeps_vecLanes
theorem keeps_vsel : OutKeep s (execVsel d a b fn lw s) := by
  unfold execVsel; exact keeps_vecLanes
theorem keeps_vins : OutKeep s (execVins d a b fn lw s) := by
  unfold execVins; exact keeps_vecLanes

end Lanes

theorem keeps_exec (i : Instr) (s : State) : OutKeep s (exec i s) := by
  cases i <;> dsimp only [exec]
  case add | sub | mul | mulh | mulhn | and | or | xor | shl | shr | sar | min | max | minn | maxn => exact keeps_alu2
  case div | divn | rem | remn => exact keeps_divide
  case addi | andi | ori | xori | shli | shri | sari | clz | ctz | popc | bset | bclr | bext | mov => exact keeps_alu1
  case cmpEq | cmpNe | cmpLt | cmpLtn | cmpGe | cmpGen => exact keeps_cmp2
  case brx | brxn => exact keeps_branchOn
  case ldB | ldBn | ldH | ldHn | ldW | ldWn | ldD => exact keeps_load
  case stB | stH | stW | stD => exact keeps_store
  case vadd | vsub | vmul => exact keeps_vecF2
  case vfma | vfms | vfnma => exact keeps_vecF3
  case vmin | vmax => exact keeps_vecMinMax
  case vabs | vneg | vclass => exact keeps_vecF1
  case vexp | vlog | verf => exact keeps_vecFun
  case vcmp => exact keeps_vcmp
  case viabs => exact keeps_viabs
  case vpopc => exact keeps_vpopc
  case vsel => exact keeps_vsel
  case vins => exact keeps_vins
  case vrng | vhash => exact keeps_vecLanes
  case viadd | visub | vimul | vimulh | vand | vor | vxor | vshl | vshr | vsar | vimin | vimax | vsadd => exact keeps_vecI2
  case vany | vall => exact keeps_vote
  case vld | vldS | vldX => exact keeps_vecLoad
  case vst | vstS | vstX => exact keeps_vecStore
  case vmov | vbcast | vslide | vperm | vshuf | vtrn => exact keeps_vecMove
  case vrsum => exact keeps_vrsum
  case vrmax | vrmin => exact keeps_vecExtreme
  case ardRow | ardCol => exact keeps_ardMove
  case awrRow | awrCol => exact keeps_awrMove
  case tlook | tfill | tevict | tpin | tunpin => exact keeps_tagOp
  case ldgW | ldgD => exact keeps_ldg
  case stgW | stgD => exact keeps_stg
  case cpy | cpyT | cpyP | cpyQ | cpyQT | cpyGath | cpyPair | cpyScale => exact keeps_copyInstr
  case aspUp | aspDn => exact keeps_aspBundle
  case modeFwd | modeRev => exact keeps_modeSwitch
  case nop => exact keeps_nop
  case cmpi => exact keeps_cmpi
  case bins => exact keeps_bins
  case lea => exact keeps_lea
  case li => exact keeps_li
  case lui => exact keeps_lui
  case sel => exact keeps_sel
  case pbr => exact keeps_pbr
  case pbrr => exact keeps_pbrr
  case br => exact keeps_br
  case call => exact keeps_call
  case ret => exact keeps_ret
  case loop => exact keeps_loop
  case loopi => exact keeps_loopi
  case tokSend => exact keeps_tokSend
  case tokRecv => exact keeps_tokRecv
  case tokPoll => exact keeps_tokPoll
  case mfc => exact keeps_mfc
  case mtc => exact keeps_mtc
  case trap => exact keeps_trap
  case ldQ => exact keeps_ldQ
  case stQ => exact keeps_stQ
  case lamo => exact keeps_lamo
  case hld => exact keeps_hld
  case hst => exact keeps_hst
  case hget => exact keeps_hget
  case hset => exact keeps_hset
  case hpatch => exact keeps_hpatch
  case tret => exact keeps_tret
  case selectSize => exact keeps_selectSize
  case forkV => exact keeps_forkV
  case forkA => exact keeps_forkA
  case rdv => exact keeps_rdv
  case enq => exact keeps_enq
  case deq => exact keeps_deq
  case yieldStage => exact keeps_yieldStage
  case grpJoin => exact keeps_grpJoin
  case grpLeave => exact keeps_grpLeave
  case grpBar => exact keeps_grpBar
  case grpInfo => exact keeps_grpInfo
  case sig => exact keeps_sig
  case waitf => exact keeps_waitf
  case vdiv => exact keeps_vdiv
  case vsqrt => exact keeps_vsqrt
  case vldq => exact keeps_vldq
  case vext => exact keeps_vext
  case vcvt => exact keeps_vcvt
  case vqmx => exact keeps_vqmx
  case vdqmx => exact keeps_vdqmx
  case vrarg => exact keeps_vrarg
  case vtopk => exact keeps_vtopk
  case qbind => exact keeps_qbind
  case qget => exact keeps_qget
  case qrel => exact keeps_qrel
  case ldl => exact keeps_ldl
  case stl => exact keeps_stl
  case gamo => exact keeps_gamo
  case mark => exact keeps_mark
  case fence => exact keeps_fence
  case cpyStrm => exact keeps_cpyStrm
  case cpyHost => exact keeps_cpyHost
  case mxSet => exact keeps_mxSet
  case mxGo => exact keeps_mxGo
  case mxAcq => exact keeps_mxAcq
  case mxRel => exact keeps_mxRel
  case mxShape => exact keeps_mxShape
  case mxZero => exact keeps_mxZero
  case mxOut => exact keeps_mxOut
  case aspLd => exact keeps_aspLd
  case aspSt => exact keeps_aspSt
  case aspCvt => exact keeps_aspCvt
  case aspWin => exact keeps_aspWin
  case aspSeed => exact keeps_aspSeed
  case aspClra => exact keeps_aspClra
  case flowLoad => exact keeps_flowLoad
  case flowSend => exact keeps_flowSend
  case flowRecv => exact keeps_flowRecv
  case flowRel => exact keeps_flowRel
  case flowStat => exact keeps_flowStat
  case msgSend => exact keeps_msgSend
  case msgPost => exact keeps_msgPost
  case msgProbe => exact keeps_msgProbe
  case digest => exact keeps_digest
  case dchk => exact keeps_dchk
  case tapeSet => exact keeps_tapeSet
  case adjLd => exact keeps_adjLd
  case adjClr => exact keeps_adjClr
  case estat => exact keeps_estat
  case csave => exact keeps_csave
  case crest => exact keeps_crest
  case tlbInv => exact keeps_tlbInv
  case halt => exact keeps_halt
  case sleep => exact keeps_sleep
  case undefinedMop => exact keeps_undefinedMop
  case tokenDelivery => exact keeps_tokenDelivery
  case trapEntry => exact keeps_trapEntry
  case launchTake => exact keeps_launchTake
  case programEnd => exact keeps_programEnd
  case issueSelect => exact keeps_issueSelect
  case vectorIssueSelect => exact keeps_vectorIssueSelect
  case commandStart => exact keeps_commandStart
  case sigComplete => exact keeps_sigComplete
  case vectorResultWrite => exact keeps_vectorResultWrite
  case vectorLongResult => exact keeps_vectorLongResult
  case vectorTrap => exact keeps_vectorTrap
  case qgetFill => exact keeps_qgetFill
  case streamUnitWrite => exact keeps_streamUnitWrite
  case loadPerform => exact keeps_loadPerform
  case storePerform => exact keeps_storePerform
  case gamoPerform => exact keeps_gamoPerform
  case ldlLineWrite => exact keeps_ldlLineWrite
  case adjCellPerform => exact keeps_adjCellPerform
  case translationEvict => exact keeps_translationEvict
  case copyBlock => exact keeps_copyBlock
  case commandRetire => exact keeps_commandRetire
  case commandFail => exact keeps_commandFail
  case tileAutoRelease => exact keeps_tileAutoRelease
  case matrixStep => exact keeps_matrixStep
  case mxOutRow => exact keeps_mxOutRow
  case arcadeResultsLand => exact keeps_arcadeResultsLand
  case arcadeTrap => exact keeps_arcadeTrap
  case flowAutoRemove => exact keeps_flowAutoRemove
  case chunkInject => exact keeps_chunkInject
  case flowPacketArrive => exact keeps_flowPacketArrive
  case flowCreditArrive => exact keeps_flowCreditArrive
  case deliveryWrite => exact keeps_deliveryWrite
  case completionRecordWrite => exact keeps_completionRecordWrite
  case messageRequestArrive => exact keeps_messageRequestArrive
  case receivePost => exact keeps_receivePost
  case goArrive => exact keeps_goArrive
  case nackArrive => exact keeps_nackArrive
  case digestLands => exact keeps_digestLands
  case asyncCauseTaken => exact keeps_asyncCauseTaken
  case timer => exact keeps_timer
  case timeSliceSwitch => exact keeps_timeSliceSwitch
  case sleepTimeout => exact keeps_sleepTimeout
  case holdCountExpiry => exact keeps_holdCountExpiry
  case waitRelease => exact keeps_waitRelease
  case uncorrectableError => exact keeps_uncorrectableError
  case scrub => exact keeps_scrub
  case hello => exact keeps_hello
  case launch => exact keeps_launch
  case setasid => exact keeps_setasid
  case preempt => exact keeps_preempt
  case restore => exact keeps_restore
  case mailboxReply => exact keeps_mailboxReply
  case eventPost => exact keeps_eventPost
  case eqtailWrite => exact keeps_eqtailWrite
  case registerWrite => exact keeps_registerWrite
  case hostWindowRead => exact keeps_hostWindowRead
  case hostWindowWrite => exact keeps_hostWindowWrite
  case recoveryWindowWrite => exact keeps_recoveryWindowWrite
  case warmReset => exact keeps_warmReset
  case coldReset => exact keeps_coldReset
  case firmwareUpdate => exact keeps_firmwareUpdate
  case attestationRequest => exact keeps_attestationRequest
  case deviceIdSet => exact keeps_deviceIdSet
  case powerCapSet => exact keeps_powerCapSet
  case powerCapThrottle => exact keeps_powerCapThrottle
  case thermalThrottle => exact keeps_thermalThrottle
  case thermalShutdown => exact keeps_thermalShutdown
  case portTrain => exact keeps_portTrain
  case flitCrcError => exact keeps_flitCrcError
  case portDown => exact keeps_portDown
  case removalNoticeArrive => exact keeps_removalNoticeArrive
  case aspLdFill => exact keeps_aspLdFill
  case monitorPreemptRequest => exact keeps_monitorPreemptRequest
  case hostLinkTrain => exact keeps_hostLinkTrain

/-! ### Every step -/

section Steps

variable {s t : State}

/-- What runs from a state that differs in the agenda, the target, the draws or the running program alone keeps what the state has. -/
theorem keeps_exec_of {i : Instr} (h : Keep s t) : OutKeep s (exec i t) := .mono h (keeps_exec i t)

theorem keeps_runFetched {q : Seqr} (h : Keep s t) : OutKeep s (runFetched q t) := by
  unfold runFetched
  split
  · exact keeps_exec_of (.rest h rfl rfl rfl rfl)
  · exact keeps_exec_of (.rest h rfl rfl rfl rfl)

theorem keeps_issueFrom {q : Seqr} (h : Keep s t) : OutKeep s (issueFrom q t) :=
  .ite (.ite (keeps_exec_of (.rest h rfl rfl rfl rfl)) (keeps_runFetched h)) (.next h)

theorem keeps_selectThread {c : Nat} (h : Keep s t) : OutKeep s (selectThread c t) := by
  unfold selectThread
  dsimp only
  split
  · exact .next (.noteAble h)
  · exact keeps_issueFrom (.noteIssue (.noteAble h))

theorem keeps_selectSlot {c : Nat} (h : Keep s t) : OutKeep s (selectSlot c t) := by
  unfold selectSlot
  split
  · exact .next h
  · exact keeps_issueFrom (.setCore h rfl rfl)

theorem keeps_readError {q : Seqr} {v : Nat} {reg : Bool} (h : Keep s t) : OutKeep s (readError q v reg t) := by
  have hn : OutKeep s (.next t) := .next h
  unfold readError
  refine .ite ?_ hn
  split
  · exact hn
  · split
    · exact .next (.eccuAfter (.rest h rfl rfl rfl rfl))
    · exact hn

theorem keeps_step (s : State) : OutKeep s (step s) := by
  unfold step
  split
  · exact .next (.tick .refl)
  · next t r _ =>
    have h : Keep s { s with agenda := r } := .rest .refl rfl rfl rfl rfl
    cases t with
    | issue q => exact keeps_issueFrom h
    | select c => exact keeps_selectThread h
    | vselect c => exact keeps_selectSlot h
    | readError q v reg => exact keeps_readError h
    | event i x => exact keeps_exec_of (.rest h rfl rfl rfl rfl)

theorem keep_of_step (h : step s = .next t) : Keep s t := by
  have hs := keeps_step s
  rw [h] at hs
  cases hs with
  | next hk => exact hk

end Steps

/-- Settles O59: every meaning keeps the host's view (`keeps_exec`), and a step runs one or passes a clock. -/
theorem stepsKeepTheBoard : Obligations.StepsKeepTheBoard := fun _ _ hs h => (keep_of_step h).board hs

/-- Settles O60, in the same way. -/
theorem stepsKeepTheLists : Obligations.StepsKeepTheLists := fun _ _ hs h => (keep_of_step h).lists hs

end Sys2Proof.Proofs.Invariants
end

section
/-! PROOFS. The group unit (R123 to R126): joining, leaving, barriers and their entries. -/

namespace Sys2Proof.Proofs.Groups

open Sys2Proof.Machine
open Sys2Proof.Safety
open Sys2Proof.Proofs.Transfers
open Sys2Proof.Proofs.Traps
open Sys2Proof.Proofs.Ready
open Sys2Proof.Proofs.Return

/-! ### What stands beside the running programs -/

/-- Every byte and every program is as before. -/
structure Beside (s u : State) : Prop where
  bytes : BytesSame s u
  progs : ∀ q, u.prog q = s.prog q

section Rules

variable {s t u : State} {c x gid : Nat}

theorem Beside.refl (s : State) : Beside s s := ⟨⟨fun _ => rfl, fun _ => rfl, fun _ _ => rfl, fun _ _ => rfl⟩, fun _ => rfl⟩

theorem Beside.trans (h : Beside s t) (k : Beside t u) : Beside s u :=
  ⟨bytesSame_trans h.bytes k.bytes, fun q => (k.progs q).trans (h.progs q)⟩

theorem beside_of_cores (hh : u.hbm = s.hbm) (hm : u.hostMem = s.hostMem) (hc : u.cores = s.cores) : Beside s u := by
  refine ⟨⟨fun _ => by rw [hh], fun _ => by rw [hm], fun _ _ => ?_, fun _ _ => ?_⟩, fun q => ?_⟩
  · simp only [State.core, hc]
  · simp only [State.core, hc]
  · cases q <;> simp only [State.prog, State.ctx, State.slot, State.arc, State.core, hc]

theorem beside_fresh (s : State) : Beside s (fresh s) := beside_of_cores rfl rfl rfl

theorem beside_setCtx {v : Ctx} (h : v.prog = (s.ctx c x).prog) : Beside s (s.setCtx c x v) := by
  refine ⟨bytesSame_setCtx s c x v, fun q => ?_⟩
  cases q with
  | thread d y =>
    show ((s.setCtx c x v).ctx d y).prog = (s.ctx d y).prog
    rw [State.ctx_setCtx]
    split
    · next e => rw [h, e.1, e.2]
    · rfl
  | vec d k => show ((s.setCtx c x v).slot d k).prog = (s.slot d k).prog; simp only [State.slot, State.slots_core_setCtx]
  | arc d => show ((s.setCtx c x v).arc d).prog = (s.arc d).prog; simp only [State.arc, State.arc_core_setCtx]

theorem beside_setCore {k : Core} (hsp : k.spad = (s.core c).spad) (hsm : k.scaleMem = (s.core c).scaleMem) (hc : k.ctxs = (s.core c).ctxs)
    (hv : k.slots = (s.core c).slots) (ha : k.arc = (s.core c).arc) : Beside s (s.setCore c k) := by
  refine ⟨bytesSame_setCore hsp hsm, fun q => ?_⟩
  cases q with
  | thread d y => exact congrArg Ctx.prog (ctx_setCore_same hc d y)
  | vec d j =>
    show (SMap.get {} ((s.setCore c k).core d).slots j).prog = (SMap.get {} (s.core d).slots j).prog
    rw [State.core_setCore]
    split
    · next e => rw [hv, e]
    · rfl
  | arc d =>
    show ((s.setCore c k).core d).arc.prog = (s.core d).arc.prog
    rw [State.core_setCore]
    split
    · next e => rw [ha, e]
    · rfl

theorem beside_setGroup (g : Group) : Beside s (s.setGroup gid g) := beside_of_cores rfl rfl rfl

theorem beside_freeGroup : Beside s (s.freeGroup gid) := beside_of_cores rfl rfl rfl

/-- The thread's context with its standing arrivals changed. -/
def withBars (s : State) (tid : Nat) (f : List Bar → List Bar) : State :=
  s.setCtx (tid / 24) (tid % 24) { s.ctx (tid / 24) (tid % 24) with bars := f (s.ctx (tid / 24) (tid % 24)).bars }

/-- The saved context of a number, with its standing arrivals changed. -/
def savedBars (x : Nat) (f : List Bar → List Bar) (y : Nat) (e : SavedCtx) : SavedCtx := if y = x then { e with bars := f e.bars } else e

/-- The core with the arrivals of its saved context of a number changed. -/
def withSavedBars (k : Core) (x : Nat) (f : List Bar → List Bar) : Core :=
  { k with savedCtxs := SMap.mapVals (savedBars x f) k.savedCtxs }

theorem mapBars_eq (tid : Nat) (f : List Bar → List Bar) : s.mapBars tid f =
    (withBars s tid f).setCore (tid / 24) (withSavedBars ((withBars s tid f).core (tid / 24)) (tid % 24) f) := rfl

theorem beside_mapBars (tid : Nat) (f : List Bar → List Bar) : Beside s (s.mapBars tid f) := by
  rw [mapBars_eq]
  exact (beside_setCtx rfl : Beside s (withBars s tid f)).trans (beside_setCore rfl rfl rfl rfl rfl)

end Rules

/-! ### Entries -/

section Entries

variable {s : State} {gid n : Nat}

theorem find?_eq_get {α : Type} (m : SMap α) (n : Nat) :
    (m.find? (fun e => e.1 == n)).map Prod.snd = SMap.get none (m.map fun e => (e.1, some e.2)) n := by
  induction m with
  | nil => rfl
  | cons p r ih =>
    rw [List.map_cons, SMap.get]
    by_cases h : p.1 = n
    · rw [List.find?_cons_of_pos (by simpa using h), if_pos h, Option.map_some]
    · rw [List.find?_cons_of_neg (by simpa using h), if_neg h, ih]

theorem map_set {α β : Type} (f : α → β) (m : SMap α) (k : Nat) (v : α) :
    (SMap.set m k v).map (fun e => (e.1, f e.2)) = SMap.set (m.map fun e => (e.1, f e.2)) k (f v) := by
  induction m with
  | nil => rfl
  | cons p r ih =>
    rw [List.map_cons, SMap.set, SMap.set]
    split
    · rfl
    · split
      · rfl
      · rw [List.map_cons, ih]

theorem find?_set {α : Type} (m : SMap α) (k n : Nat) (v : α) :
    ((SMap.set m k v).find? (fun e => e.1 == n)).map Prod.snd = if n = k then some v else (m.find? (fun e => e.1 == n)).map Prod.snd := by
  rw [find?_eq_get, find?_eq_get, map_set, SMap.get_set]

theorem find?_erase {α : Type} (m : SMap α) (k n : Nat) :
    ((SMap.erase m k).find? (fun e => e.1 == n)).map Prod.snd = if n = k then none else (m.find? (fun e => e.1 == n)).map Prod.snd := by
  rw [Invariants.erase_eq_filter, List.find?_filter]
  split
  · next e =>
    subst e
    rw [List.find?_eq_none.mpr (by simp), Option.map_none]
  · next e =>
    congr 1
    refine List.find?_congr ?_
    intro p _
    by_cases h : p.1 = n <;> simp [h, e]

theorem group_setGroup (g : Group) : (s.setGroup gid g).group n = if n = gid then some g else s.group n := find?_set _ _ _ _
theorem group_freeGroup : (s.freeGroup gid).group n = if n = gid then none else s.group n := find?_erase _ _ _
theorem group_mapBars (tid : Nat) (f : List Bar → List Bar) : (s.mapBars tid f).group n = s.group n := rfl

theorem arrivals_eq_length_iff (g : Group) : g.arrivals = g.members.length ↔ ∀ m ∈ g.members, m.arrived = true :=
  List.length_filter_eq_length_iff

theorem arrivals_eq_zero_iff (g : Group) : g.arrivals = 0 ↔ ∀ m ∈ g.members, m.arrived = false := by
  simp [Group.arrivals, List.filter_eq_nil_iff]

end Entries

/-! ### Standing arrivals -/

/-- The standing arrivals of a context, or of the saved one of its number. -/
def barsOf (s : State) (saved : Bool) (c x : Nat) : List Bar :=
  if saved then (SMap.get {} (s.core c).savedCtxs x).bars else (s.ctx c x).bars

section Bars

variable {s : State} {k : Bool} {d y gid tid : Nat}

theorem get_mapVals {α : Type} (f : Nat → α → α) (z : α) (m : SMap α) (n : Nat) (hz : f n z = z) :
    SMap.get z (SMap.mapVals f m) n = f n (SMap.get z m n) := by
  induction m with
  | nil => exact hz.symm
  | cons p r ih =>
    show (if p.1 = n then f p.1 p.2 else SMap.get z (SMap.mapVals f r) n) = f n (if p.1 = n then p.2 else SMap.get z r n)
    split
    · next e => rw [e]
    · exact ih

theorem barsOf_mapBars (f : List Bar → List Bar) (hf : f [] = []) : barsOf (s.mapBars tid f) k d y =
    if d = tid / 24 ∧ y = tid % 24 then f (barsOf s k d y) else barsOf s k d y := by
  have hsaved : ∀ e, ((withBars s tid f).core e).savedCtxs = (s.core e).savedCtxs := State.savedCtxs_core_setCtx s _ _ _
  cases k with
  | false =>
    refine (congrArg Ctx.bars (ctx_setCore_same (k := withSavedBars ((withBars s tid f).core (tid / 24)) (tid % 24) f) rfl d y)).trans ?_
    show ((withBars s tid f).ctx d y).bars = if _ then f (s.ctx d y).bars else (s.ctx d y).bars
    rw [withBars, State.ctx_setCtx]
    split
    · next e => rw [e.1, e.2]
    · rfl
  | true =>
    show (SMap.get ({} : SavedCtx) ((s.mapBars tid f).core d).savedCtxs y).bars =
      if _ then f (SMap.get ({} : SavedCtx) (s.core d).savedCtxs y).bars else (SMap.get ({} : SavedCtx) (s.core d).savedCtxs y).bars
    rw [mapBars_eq, State.core_setCore]
    by_cases hd : d = tid / 24
    · subst hd
      rw [if_pos rfl]
      dsimp only [withSavedBars]
      rw [get_mapVals _ _ _ _ (by unfold savedBars; split <;> simp [hf]), hsaved, savedBars]
      by_cases hy : y = tid % 24
      · rw [if_pos hy, if_pos ⟨rfl, hy⟩]
      · rw [if_neg hy, if_neg fun h => hy h.2]
    · rw [if_neg hd, if_neg fun h => hd h.1, hsaved]

/-- A change of the arrivals in one group. -/
def inGroup (gid : Nat) (f : Bar → Bar) (l : List Bar) : List Bar := l.map (fun b => if b.gid = gid then f b else b)

theorem barsOf_setBar (f : Bar → Bar) : barsOf (s.setBar tid gid f) k d y =
    if d = tid / 24 ∧ y = tid % 24 then inGroup gid f (barsOf s k d y) else barsOf s k d y := barsOf_mapBars _ rfl

variable {α : Type} {P : List Bar → Prop} (f : Bar → Bar) (tidOf : α → Nat) (l : List α)

/-- The change of the arrivals in one group, for the threads of a list. -/
def setBars (s : State) (gid : Nat) (f : Bar → Bar) (tidOf : α → Nat) (l : List α) : State :=
  l.foldl (fun s m => s.setBar (tidOf m) gid f) s

theorem beside_setBars : Beside s (setBars s gid f tidOf l) :=
  List.foldlRecOn (motive := fun t => Beside s t) l _ (.refl s) fun _ h _ _ => h.trans (beside_mapBars _ _)

theorem group_setBars (n : Nat) : (setBars s gid f tidOf l).group n = s.group n :=
  List.foldlRecOn (motive := fun t : State => t.group n = s.group n) l _ rfl fun _ h _ _ => h

/-- What the change keeps of a list of arrivals stands after it. -/
theorem setBars_keeps (hf : ∀ l, P l → P (inGroup gid f l)) (h : P (barsOf s k d y)) : P (barsOf (setBars s gid f tidOf l) k d y) :=
  List.foldlRecOn (motive := fun t => P (barsOf t k d y)) l _ h fun t ht m _ => by
    rw [barsOf_setBar]
    split
    · exact hf _ ht
    · exact ht

/-- What the change brings about, and keeps, stands after it for every thread of the list. -/
theorem setBars_makes (hf : ∀ l, P (inGroup gid f l)) {m : α} (hm : m ∈ l) :
    P (barsOf (setBars s gid f tidOf l) k (tidOf m / 24) (tidOf m % 24)) := by
  induction l generalizing s with
  | nil => cases hm
  | cons a r ih =>
    rcases List.mem_cons.mp hm with rfl | hr
    · refine setBars_keeps f tidOf r (fun l _ => hf l) ?_
      rw [barsOf_setBar, if_pos ⟨rfl, rfl⟩]
      exact hf _
    · exact ih hr

theorem setBars_other (h : ∀ m ∈ l, ¬ (d = tidOf m / 24 ∧ y = tidOf m % 24)) :
    barsOf (setBars s gid f tidOf l) k d y = barsOf s k d y :=
  List.foldlRecOn (motive := fun t => barsOf t k d y = barsOf s k d y) l _ rfl fun t ht m hm => by
    rw [barsOf_setBar, if_neg (h m hm), ht]

end Bars

/-! ### A generation completes -/

section Complete

variable {s : State} {gid : Nat} {g : Group}

/-- What an arrival becomes when the generation `gen` completes. -/
def releasedIn (gen : Nat) (b : Bar) : Bar := if b.arrived && b.gen == gen then { b with released := true } else b

/-- What a waiting pending member's arrival becomes when its generation opens. -/
def arrivesIn (gen : Nat) (b : Bar) : Bar := { b with arrived := true, gen := gen }

/-- The members of the generation after `g`. -/
def entering (g : Group) : List Member :=
  (g.members.filter (fun m => !m.leaving)).map (fun m => { m with arrived := false }) ++ g.pending.map (fun m => ⟨m.tid, m.waiting, false⟩)

/-- The arrivals once `g` completes. -/
def lettingIn (s : State) (gid : Nat) (g : Group) : State :=
  setBars (setBars s gid (releasedIn g.gen) Member.tid g.members) gid (arrivesIn (genNext g.gen)) PendMember.tid
    (g.pending.filter (fun m => m.waiting))

theorem completeGroup_eq (n : Nat) (hg : s.group gid = some g) (hne : g.members ≠ []) (hall : ∀ m ∈ g.members, m.arrived = true) :
    s.completeGroup (n + 1) gid = if (entering g).isEmpty then (lettingIn s gid g).freeGroup gid
      else ((lettingIn s gid g).setGroup gid { g with gen := genNext g.gen, members := entering g, pending := [] }).completeGroup n gid := by
  rw [State.completeGroup, hg]
  dsimp only
  rw [if_neg (by simp [hne, (arrivals_eq_length_iff g).mpr hall])]
  rfl

theorem completeGroup_waits (n : Nat) (hg : s.group gid = some g) (h : ∃ m ∈ g.members, m.arrived = false) :
    s.completeGroup n gid = s := by
  cases n with
  | zero => rfl
  | succ n =>
    rw [State.completeGroup, hg]
    dsimp only
    refine if_pos ?_
    obtain ⟨m, hm, ha⟩ := h
    simp only [Bool.or_eq_true, bne_iff_ne, ne_eq, arrivals_eq_length_iff]
    exact Or.inr fun hall => absurd (hall m hm) (by simp [ha])

theorem beside_lettingIn : Beside s (lettingIn s gid g) := (beside_setBars _ _ _).trans (beside_setBars _ _ _)

theorem completeGroup_beside (n : Nat) : Beside s (s.completeGroup n gid) ∧ ∀ m, m ≠ gid → (s.completeGroup n gid).group m = s.group m := by
  induction n generalizing s with
  | zero => exact ⟨.refl s, fun _ _ => rfl⟩
  | succ n ih =>
    cases hg : s.group gid with
    | none => rw [State.completeGroup, hg]; exact ⟨.refl s, fun _ _ => rfl⟩
    | some g =>
      by_cases hw : g.members = []
      · rw [State.completeGroup, hg]
        dsimp only
        rw [if_pos (by simp [hw])]
        exact ⟨.refl s, fun _ _ => rfl⟩
      · by_cases hall : ∀ m ∈ g.members, m.arrived = true
        · have hgroup : ∀ m, (lettingIn s gid g).group m = s.group m := fun m => (group_setBars _ _ _ m).trans (group_setBars _ _ _ m)
          rw [completeGroup_eq n hg hw hall]
          split
          · exact ⟨beside_lettingIn.trans beside_freeGroup, fun m hm => by rw [group_freeGroup, if_neg hm, hgroup]⟩
          · obtain ⟨hb, ho⟩ := @ih ((lettingIn s gid g).setGroup gid { g with gen := genNext g.gen, members := entering g, pending := [] })
            exact ⟨(beside_lettingIn.trans (beside_setGroup _)).trans hb, fun m hm => by rw [ho m hm, group_setGroup, if_neg hm, hgroup]⟩
        · rw [completeGroup_waits _ hg (by simpa using hall)]
          exact ⟨.refl s, fun _ _ => rfl⟩

/-- Every arrival of the generation is released. -/
def AllReleased (gid gen : Nat) (l : List Bar) : Prop := ∀ b ∈ l, b.gid = gid → b.arrived = true → b.gen = gen → b.released = true

theorem genNext_ne (n : Nat) : genNext n ≠ n := by
  unfold genNext
  omega

theorem allReleased_releasedIn (gen : Nat) (l : List Bar) : AllReleased gid gen (inGroup gid (releasedIn gen) l) := by
  intro b hb hgid harr hgen
  obtain ⟨b0, _, rfl⟩ := List.mem_map.mp hb
  by_cases h0 : b0.gid = gid
  · simp only [h0, if_true, releasedIn] at harr hgen ⊢
    by_cases h : (b0.arrived && b0.gen == gen) = true
    · simp only [h, if_true]
    · simp only [h] at harr hgen
      exact absurd (by simpa using ⟨harr, hgen⟩) h
  · simp only [h0, if_false] at hgid

theorem allReleased_arrivesIn {gen n : Nat} (hn : n ≠ gen) {l : List Bar} (h : AllReleased gid gen l) :
    AllReleased gid gen (inGroup gid (arrivesIn n) l) := by
  intro b hb hgid harr hgen
  obtain ⟨b0, hb0, rfl⟩ := List.mem_map.mp hb
  by_cases h0 : b0.gid = gid
  · rw [if_pos h0] at hgen
    exact absurd hgen hn
  · rw [if_neg h0] at hgid
    exact absurd hgid h0

theorem lettingIn_releases {k : Bool} {m : Member} (hm : m ∈ g.members) :
    AllReleased gid g.gen (barsOf (lettingIn s gid g) k (m.tid / 24) (m.tid % 24)) :=
  setBars_keeps _ _ _ (fun _ h => allReleased_arrivesIn (genNext_ne _) h)
    (setBars_makes _ _ _ (fun l => allReleased_releasedIn g.gen l) hm)

/-- The generation that opens has a member that has not arrived: nothing more completes. -/
theorem completeGroup_once (n : Nat) (hg : s.group gid = some g) (hne : g.members ≠ []) (hall : ∀ m ∈ g.members, m.arrived = true)
    (he : ∃ m ∈ entering g, m.arrived = false) : s.completeGroup (n + 1) gid =
      (lettingIn s gid g).setGroup gid { g with gen := genNext g.gen, members := entering g, pending := [] } := by
  rw [completeGroup_eq n hg hne hall, if_neg, completeGroup_waits n (by rw [group_setGroup, if_pos rfl]) he]
  obtain ⟨m, hm, _⟩ := he
  rw [List.isEmpty_iff]
  exact List.ne_nil_of_mem hm

theorem completeGroup_frees (n : Nat) (hg : s.group gid = some g) (hne : g.members ≠ []) (hall : ∀ m ∈ g.members, m.arrived = true)
    (he : entering g = []) : s.completeGroup (n + 1) gid = (lettingIn s gid g).freeGroup gid := by
  rw [completeGroup_eq n hg hne hall, if_pos (by rw [he]; rfl)]

end Complete

/-! ### Retirement beside other programs -/

section Retirement

variable {s U : State} {i : Instr} {len : Nat} {d : Reg} {v : DWord}

theorem bytesSame_of_after {s s1 t : State} (h : After s s1 t len) : BytesSame s1 t := by
  refine ⟨fun a => ?_, fun a => ?_, fun c a => ?_, fun c a => ?_⟩
  · rw [← congrArg State.hbm h.device]
  · rw [← congrArg State.hostMem h.device]
  · rw [← congrArg Core.spad (h.cores c)]
  · rw [← congrArg Core.scaleMem (h.cores c)]

theorem barsOf_congr {s t : State} {c x : Nat} (hb : (t.ctx c x).bars = (s.ctx c x).bars) (hc : (t.core c).savedCtxs = (s.core c).savedCtxs)
    (k : Bool) : barsOf t k c x = barsOf s k c x := by
  cases k with
  | false => exact hb
  | true => exact congrArg (fun m => (SMap.get ({} : SavedCtx) m x).bars) hc

theorem bars_of_after {s s1 t : State} (h : After s s1 t len) (k : Bool) (c x : Nat) : barsOf t k c x = barsOf s1 k c x :=
  barsOf_congr (by rw [← congrArg Ctx.bars (h.ctxs c x)]) (by rw [← congrArg Core.savedCtxs (h.cores c)]) k

theorem barsOf_setS (s : State) (q : Seqr) (d : Reg) (v : DWord) (k : Bool) (c x : Nat) : barsOf (s.setS q d v) k c x = barsOf s k c x :=
  barsOf_congr (by rw [State.setS, State.ctx_setProg])
    (by rw [State.setS, ← congrArg Core.savedCtxs (coresSame_setProg s q ((s.prog q).setS d.toNat v) c)]) k

/-- What holds once an instruction that leaves `U` beside the running programs and writes s_d has retired. -/
theorem left_of_retires (hr : Retires i s len (U.setS s.cur d v)) (hb : Beside s U) :
    ∃ u, exec i s = .next u ∧ BytesSame s u ∧ (∀ r, r ≠ d → u.getS s.cur r = s.getS s.cur r) ∧
      u.getS s.cur d = (if d = 0 then 0 else v) ∧ (u.prog s.cur).hold = (s.prog s.cur).hold ∧ FlowsOn s u len ∧
      (∀ n, u.group n = U.group n) ∧ ∀ k c x, barsOf u k c x = barsOf U k c x := by
  obtain ⟨u, hx, ha⟩ := hr
  have hp : (U.setS s.cur d v).prog s.cur = (s.prog s.cur).setS d.toNat v := by rw [State.setS, State.prog_setProg_self, hb.progs]
  have hset : ((s.prog s.cur).setS d.toNat v).hold = (s.prog s.cur).hold ∧ ((s.prog s.cur).setS d.toNat v).pend = (s.prog s.cur).pend ∧
      ((s.prog s.cur).setS d.toNat v).loops = (s.prog s.cur).loops := by
    unfold Prog.setS
    split <;> exact ⟨rfl, rfl, rfl⟩
  have hget : ∀ r, u.getS s.cur r = if r = d then (if d = 0 then 0 else v) else s.getS s.cur r := by
    intro r
    rw [State.getS, ha.prog, getS_of_s (advance_rest _ _ _).1, hp, getS_setProg_setS]
    rfl
  refine ⟨u, hx, ?_, fun r hr => by rw [hget, if_neg hr], by rw [hget, if_pos rfl], ?_, ?_, fun n => ?_, fun k c x => ?_⟩
  · exact bytesSame_trans (bytesSame_trans hb.bytes (bytesSame_of (deviceSame_setProg U s.cur _) (coresSame_setProg U s.cur _)))
      (bytesSame_of_after ha)
  · rw [ha.prog, (advance_rest _ _ _).2.2.2.1, hp, hset.1]
  · show (u.prog s.cur).pc = _
    rw [ha.prog, hp]
    exact advance_pc_congr hset.2.1 hset.2.2 _ _
  · show (u.groups.find? _).map Prod.snd = (U.groups.find? _).map Prod.snd
    rw [← State.groups_setS U s.cur d v, ← congrArg State.groups ha.device]
  · rw [bars_of_after ha, barsOf_setS]

end Retirement

/-! ### Joining and leaving -/

section Joining

variable {s : State} {c x : Nat} {d a b : Reg}

/-- What `GRP.JOIN` comes to once its registers are ready. -/
def joinRes (q : Seqr) (d a : Reg) (s : State) : Res :=
  let g := (s.group (s.getS q a).toNat).getD ⟨(s.core q.core).asid, 0, [], []⟩
  if 4096 ≤ (s.getS q a).toNat ∨ g.asid ≠ (s.core q.core).asid ∨ g.has (s.tid q) ∨
      4 ≤ (s.groups.filter (fun e => e.2.has (s.tid q))).length then .trap .grp (s.getS q a)
  else if g.arrivals = 0 then
    .retire ((s.setGroup (s.getS q a).toNat { g with members := g.members ++ [⟨s.tid q, false, false⟩] }).setS q d (BitVec.ofNat 64 g.gen))
  else
    .retire ((s.setGroup (s.getS q a).toNat { g with pending := g.pending ++ [⟨s.tid q, false⟩] }).setS q d (BitVec.ofNat 64 (genNext g.gen)))

theorem exec_grpJoin : exec (.grpJoin d a) s = issue s 1 .any fun q s => s.ready q [srcS a] [srcS d] (joinRes q d a s) := rfl

/-- What `GRP.LEAVE` comes to once its registers are ready. -/
def leaveRes (q : Seqr) (d a : Reg) (s : State) : Res :=
  match s.group (s.getS q a).toNat with
  | none => .trap .grp (s.getS q a)
  | some g =>
    if 4096 ≤ (s.getS q a).toNat ∨ ¬ g.has (s.tid q) then .trap .grp (s.getS q a)
    else if !(s.thread q).quiet then .stall
    else .retire ((s.leaveGroup (s.tid q) (s.getS q a).toNat).setS q d
      (BitVec.ofNat 64 (if g.isPending (s.tid q) then genNext g.gen else g.gen)))

theorem exec_grpLeave : exec (.grpLeave d a) s = issue s 1 .any fun q s => s.ready q [srcS a] [srcS d] (leaveRes q d a s) := rfl

theorem tid_fresh (hq : s.cur = .thread c x) : (fresh s).tid s.cur = 24 * c + x := by
  rw [hq, Nat.mul_comm]
  rfl

theorem quiet_iff (t : Ctx) : t.quiet = true ↔ t.accs = [] := List.isEmpty_iff

variable {g : Group} {gid tid : Nat}

/-- The entry once a member of a number is marked leaving. -/
def markLeaving (g : Group) (tid : Nat) : Group :=
  { g with members := g.members.map (fun m => if m.tid = tid then { m with arrived := true, leaving := true } else m) }

/-- The entry without a pending member of a number. -/
def dropPending (g : Group) (tid : Nat) : Group := { g with pending := g.pending.filter (fun m => m.tid != tid) }

theorem isPending_iff : g.isPending tid = true ↔ ∃ m ∈ g.pending, m.tid = tid := by simp [Group.isPending]

theorem isMember_iff : g.isMember tid = true ↔ ∃ m ∈ g.members, m.tid = tid ∧ m.leaving = false := by simp [Group.isMember]

/-- A pending member that leaves. -/
theorem leaveGroup_pending (hg : s.group gid = some g) (hp : g.isPending tid = true) : s.leaveGroup tid gid =
    if g.members.isEmpty && (dropPending g tid).pending.isEmpty then (s.dropWait tid gid).freeGroup gid
    else ((s.dropWait tid gid).setGroup gid (dropPending g tid)).completeGroup 3 gid := by
  unfold State.leaveGroup
  rw [hg]
  simp only [hp, if_true]
  rfl

/-- A member that leaves. -/
theorem leaveGroup_member (hg : s.group gid = some g) (hp : g.isPending tid = false) (hm : g.members ≠ []) :
    s.leaveGroup tid gid = (s.setGroup gid (markLeaving g tid)).completeGroup 3 gid := by
  unfold State.leaveGroup
  rw [hg]
  simp only [hp]
  refine if_neg ?_
  simp [hm]

theorem leaveGroup_beside : Beside s (s.leaveGroup tid gid) ∧ ∀ n, n ≠ gid → (s.leaveGroup tid gid).group n = s.group n := by
  cases hg : s.group gid with
  | none =>
    unfold State.leaveGroup
    rw [hg]
    exact ⟨.refl s, fun _ _ => rfl⟩
  | some g =>
    unfold State.leaveGroup
    rw [hg]
    dsimp only
    have h1 : Beside s (if g.isPending tid then s.dropWait tid gid else s) ∧
        ∀ n, (if g.isPending tid then s.dropWait tid gid else s).group n = s.group n := by
      split
      · exact ⟨beside_mapBars _ _, fun _ => rfl⟩
      · exact ⟨.refl s, fun _ => rfl⟩
    obtain ⟨hb, hn⟩ := h1
    generalize (if g.isPending tid then s.dropWait tid gid else s) = s1 at hb hn
    generalize (if g.isPending tid then _ else _ : Group) = g1
    split
    · exact ⟨hb.trans beside_freeGroup, fun n h => by rw [group_freeGroup, if_neg h, hn]⟩
    · obtain ⟨hc, ho⟩ := completeGroup_beside (s := s1.setGroup gid g1) (gid := gid) 3
      exact ⟨(hb.trans (beside_setGroup g1)).trans hc, fun n h => by rw [ho n h, group_setGroup, if_neg h, hn]⟩

theorem entering_markLeaving : entering (markLeaving g tid) =
    (g.members.filter (fun m => !m.leaving && m.tid != tid)).map (fun m => { m with arrived := false }) ++
      g.pending.map (fun m => ⟨m.tid, m.waiting, false⟩) := by
  unfold entering markLeaving
  dsimp only
  congr 1
  induction g.members with
  | nil => rfl
  | cons m l ih => by_cases h : m.tid = tid <;> cases hl : m.leaving <;> simp [h, hl, ih]

/-- What a leave makes of the group: it stands as marked while some member has not arrived, and else completes. -/
theorem leaveGroup_completes (hg : s.group gid = some g) (hp : g.isPending tid = false) (hm : g.members ≠ [])
    (hall : ∀ m ∈ (markLeaving g tid).members, m.arrived = true) :
    (entering (markLeaving g tid) = [] → (s.leaveGroup tid gid).group gid = none ∧
      s.leaveGroup tid gid = (lettingIn (s.setGroup gid (markLeaving g tid)) gid (markLeaving g tid)).freeGroup gid) ∧
    ((∃ m ∈ entering (markLeaving g tid), m.arrived = false) → s.leaveGroup tid gid =
      (lettingIn (s.setGroup gid (markLeaving g tid)) gid (markLeaving g tid)).setGroup gid
        { markLeaving g tid with gen := genNext g.gen, members := entering (markLeaving g tid), pending := [] }) := by
  have hne : (markLeaving g tid).members ≠ [] := by simpa [markLeaving] using hm
  have hgrp : (s.setGroup gid (markLeaving g tid)).group gid = some (markLeaving g tid) := by rw [group_setGroup, if_pos rfl]
  rw [leaveGroup_member hg hp hm]
  refine ⟨fun he => ?_, fun he => completeGroup_once 2 hgrp hne hall he⟩
  have hf := completeGroup_frees 2 hgrp hne hall he
  exact ⟨by rw [hf, group_freeGroup, if_pos rfl], hf⟩

theorem joinRes_fresh (hq : s.cur = .thread c x) : joinRes s.cur d a (fresh s) =
    let g := (s.group (s.getS s.cur a).toNat).getD ⟨(s.core c).asid, 0, [], []⟩
    if 4096 ≤ (s.getS s.cur a).toNat ∨ g.asid ≠ (s.core c).asid ∨ g.has (24 * c + x) ∨
        4 ≤ (s.groups.filter (fun e => e.2.has (24 * c + x))).length then .trap .grp (s.getS s.cur a)
    else if g.arrivals = 0 then .retire (((fresh s).setGroup (s.getS s.cur a).toNat
      { g with members := g.members ++ [⟨24 * c + x, false, false⟩] }).setS s.cur d (BitVec.ofNat 64 g.gen))
    else .retire (((fresh s).setGroup (s.getS s.cur a).toNat
      { g with pending := g.pending ++ [⟨24 * c + x, false⟩] }).setS s.cur d (BitVec.ofNat 64 (genNext g.gen))) := by
  have hc : (fresh s).core s.cur.core = s.core c := by rw [hq]; rfl
  unfold joinRes
  rw [tid_fresh hq, fresh_getS, hc]
  rfl

theorem leaveRes_fresh (hq : s.cur = .thread c x) : leaveRes s.cur d a (fresh s) =
    match s.group (s.getS s.cur a).toNat with
    | none => .trap .grp (s.getS s.cur a)
    | some g =>
      if 4096 ≤ (s.getS s.cur a).toNat ∨ ¬ g.has (24 * c + x) then .trap .grp (s.getS s.cur a)
      else if !(s.ctx c x).quiet then .stall
      else .retire (((fresh s).leaveGroup (24 * c + x) (s.getS s.cur a).toNat).setS s.cur d
        (BitVec.ofNat 64 (if g.isPending (24 * c + x) then genNext g.gen else g.gen))) := by
  have hc : (fresh s).thread s.cur = s.ctx c x := by rw [hq]; rfl
  unfold leaveRes
  rw [tid_fresh hq, fresh_getS, hc]
  rfl

/-- `GRP.JOIN` traps GRP where the id is out of range, the entry is another address space's, the thread stands in it, or in four. -/
theorem join_traps (hq : s.cur = .thread c x) (hs : Stands s 1 .any) (hr : RegsReady s [srcS a, srcS d])
    (h : 4096 ≤ (s.getS s.cur a).toNat ∨ 4 ≤ (s.groups.filter (fun e => e.2.has (24 * c + x))).length ∨
      ∃ g, s.group (s.getS s.cur a).toNat = some g ∧ (g.asid ≠ (s.core c).asid ∨ g.has (24 * c + x) = true)) :
    Traps (.grpJoin d a) s .grp (s.getS s.cur a) := by
  refine traps_of_ready _ exec_grpJoin rfl hs hr ((joinRes_fresh hq).trans (if_pos ?_))
  rcases h with h | h | ⟨g, hg, h | h⟩
  · exact .inl h
  · exact .inr (.inr (.inr h))
  · exact .inr (.inl (by rw [hg]; exact h))
  · exact .inr (.inr (.inl (by rw [hg]; exact h)))

theorem leave_traps (hq : s.cur = .thread c x) (hs : Stands s 1 .any) (hr : RegsReady s [srcS a, srcS d])
    (h : 4096 ≤ (s.getS s.cur a).toNat ∨ ∀ g, s.group (s.getS s.cur a).toNat = some g → g.has (24 * c + x) = false) :
    Traps (.grpLeave d a) s .grp (s.getS s.cur a) := by
  refine traps_of_ready _ exec_grpLeave rfl hs hr ((leaveRes_fresh hq).trans ?_)
  split
  · rfl
  · next g hg =>
    refine if_pos (h.imp_right fun hh => ?_)
    simp [hh g hg]

/-- A member of either kind that may leave does. -/
theorem leave_retires (hq : s.cur = .thread c x) (hs : Stands s 1 .any) (hr : RegsReady s [srcS a, srcS d])
    (hlt : (s.getS s.cur a).toNat < 4096) (hg : s.group (s.getS s.cur a).toNat = some g) (hh : g.has (24 * c + x) = true)
    (hacc : (s.ctx c x).accs = []) :
    Retires (.grpLeave d a) s 1 (((fresh s).leaveGroup (24 * c + x) (s.getS s.cur a).toNat).setS s.cur d
      (BitVec.ofNat 64 (if g.isPending (24 * c + x) then genNext g.gen else g.gen))) := by
  refine retires_of_ready _ exec_grpLeave rfl hs hr ((leaveRes_fresh hq).trans ?_)
  rw [hg]
  exact (if_neg (by simp [hh, hlt])).trans (if_neg (by simp [(quiet_iff _).mpr hacc]))

end Joining

/-! ### Barriers -/

section Barriers

variable {s U : State} {c x : Nat} {d a : Reg} {g : Group} {gid tid : Nat} {b : Bar}

/-- An arrival that stands waits, or completes once it is released. -/
def waitOrDone (q : Seqr) (gid : Nat) (d : Reg) (s : State) : Res :=
  match (s.thread q).bars.find? (fun b => b.gid == gid) with
  | some b => if b.released then .retire (s.finishBar q gid d.toNat b) else .whole (s.holdOn q (.barrier gid d.toNat))
  | none => .whole s

/-- The state in which an arrival of the thread stands. -/
def arrive (q : Seqr) (b : Bar) (s : State) : State := s.setThread q { s.thread q with bars := (s.thread q).bars ++ [b] }

/-- The entry once the members of a number have arrived. -/
def markArrived (g : Group) (tid : Nat) : Group :=
  { g with members := g.members.map (fun m => if m.tid = tid && !m.leaving then { m with arrived := true } else m) }

/-- The entry once the pending member of a number waits. -/
def markWaiting (g : Group) (tid : Nat) : Group :=
  { g with pending := g.pending.map (fun m => if m.tid = tid then { m with waiting := true } else m) }

/-- What `GRP.BAR` comes to once its registers are ready. -/
def barRes (q : Seqr) (d a : Reg) (s : State) : Res :=
  if (s.thread q).bars.any (fun b => b.gid == (s.getS q a).toNat) then waitOrDone q (s.getS q a).toNat d s
  else match s.group (s.getS q a).toNat with
    | none => .trap .grp (s.getS q a)
    | some g =>
      if 4096 ≤ (s.getS q a).toNat ∨ ¬ g.has (s.tid q) then .trap .grp (s.getS q a)
      else if !(s.thread q).quiet then .stall
      else if g.isPending (s.tid q) then waitOrDone q (s.getS q a).toNat d
        ((arrive q ⟨(s.getS q a).toNat, genNext g.gen, false, false⟩ s).setGroup (s.getS q a).toNat (markWaiting g (s.tid q)))
      else waitOrDone q (s.getS q a).toNat d
        (((arrive q ⟨(s.getS q a).toNat, g.gen, true, false⟩ s).setGroup (s.getS q a).toNat (markArrived g (s.tid q))).completeGroup 3
          (s.getS q a).toNat)

theorem exec_grpBar : exec (.grpBar d a) s = issue s 1 .any fun q s => s.ready q [srcS a] [srcS d] (barRes q d a s) := rfl

theorem thread_of (hq : s.cur = .thread c x) (U : State) : U.thread s.cur = U.ctx c x := by rw [hq]; rfl
theorem setThread_of (hq : s.cur = .thread c x) (U : State) (t : Ctx) : U.setThread s.cur t = U.setCtx c x t := by rw [hq]; rfl

theorem barsOf_setCtx (s : State) (c x : Nat) (t : Ctx) (k : Bool) (d y : Nat) : barsOf (s.setCtx c x t) k d y =
    if k = false ∧ d = c ∧ y = x then t.bars else barsOf s k d y := by
  cases k with
  | false =>
    show ((s.setCtx c x t).ctx d y).bars = _
    rw [State.ctx_setCtx]
    by_cases h : d = c ∧ y = x
    · rw [if_pos h, if_pos ⟨rfl, h⟩]
    · rw [if_neg h, if_neg fun h' => h h'.2]
      rfl
  | true =>
    rw [if_neg (by simp)]
    exact congrArg (fun m => (SMap.get ({} : SavedCtx) m y).bars) (State.savedCtxs_core_setCtx s c x t d)

/-- The thread's context without its arrivals in a group. -/
def withoutBar (s : State) (c x gid : Nat) : State := s.setCtx c x { s.ctx c x with bars := (s.ctx c x).bars.filter (fun b => b.gid != gid) }

theorem beside_withoutBar : Beside s (withoutBar s c x gid) := beside_setCtx rfl

/-- An arrival that is released completes (R124). -/
theorem bar_completes (hq : s.cur = .thread c x) (hs : Stands s 1 .any) (hr : RegsReady s [srcS a, srcS d]) (hb : Beside s U)
    (hres : barRes s.cur d a (fresh s) = waitOrDone s.cur gid d U) (hf : (U.ctx c x).bars.find? (fun b => b.gid == gid) = some b)
    (hrel : b.released = true) :
    ∃ u, (exec (.grpBar d a) s = .next u ∧ BytesSame s u ∧ (∀ r, r ≠ d → u.getS s.cur r = s.getS s.cur r) ∧
      u.getS s.cur d = (if d = 0 then 0 else BitVec.ofNat 64 b.gen) ∧
      (u.ctx c x).bars = (U.ctx c x).bars.filter (fun b => b.gid != gid) ∧ FlowsOn s u 1) ∧
      (∀ n, u.group n = U.group n) ∧ ∀ k d y, barsOf u k d y ⊆ barsOf U k d y := by
  have hbar : ∀ k d y, barsOf (withoutBar U c x gid) k d y =
      if k = false ∧ d = c ∧ y = x then (U.ctx c x).bars.filter (fun b => b.gid != gid) else barsOf U k d y := barsOf_setCtx U c x _
  have hret : Retires (.grpBar d a) s 1 ((withoutBar U c x gid).setS s.cur d (BitVec.ofNat 64 b.gen)) := by
    refine retires_of_ready _ exec_grpBar rfl hs hr (hres.trans ?_)
    unfold waitOrDone
    rw [thread_of hq, hf]
    refine (if_pos hrel).trans (congrArg Res.retire ?_)
    rw [hq]
    rfl
  obtain ⟨u, hx, hbytes, hregs, hd, -, hflow, hgrp, hbars⟩ := left_of_retires hret (hb.trans beside_withoutBar)
  refine ⟨u, ⟨hx, hbytes, hregs, hd, ?_, hflow⟩, hgrp, fun k d y => ?_⟩
  · exact (hbars false c x).trans ((hbar false c x).trans (if_pos ⟨rfl, rfl, rfl⟩))
  · rw [hbars, hbar]
    split
    · next h =>
      obtain ⟨rfl, rfl, rfl⟩ := h
      exact List.filter_subset_self _
    · exact List.Subset.refl _

/-- An arrival that is not released waits (R124). -/
theorem bar_waits (hq : s.cur = .thread c x) (hs : Stands s 1 .any) (hr : RegsReady s [srcS a, srcS d]) (hb : Beside s U)
    (hres : barRes s.cur d a (fresh s) = waitOrDone s.cur gid d U) (hf : (U.ctx c x).bars.find? (fun b => b.gid == gid) = some b)
    (hrel : b.released = false) :
    ∃ u, (exec (.grpBar d a) s = .next u ∧ BytesSame s u ∧ (∀ r, u.getS s.cur r = s.getS s.cur r) ∧
      (u.ctx c x).prog.hold = some (.barrier gid d.toNat)) ∧ (u.ctx c x).bars = (U.ctx c x).bars ∧ ∀ n, u.group n = U.group n := by
  have hexec : exec (.grpBar d a) s = .next (U.holdOn s.cur (.barrier gid d.toNat)) := by
    refine whole_of_issue _ exec_grpBar hs ((fresh_ready (srcs := [srcS a]) (dests := [srcS d]) hr _).trans (hres.trans ?_))
    unfold waitOrDone
    rw [thread_of hq, hf]
    exact if_neg (by simp [hrel])
  have hprog : (U.holdOn s.cur (.barrier gid d.toNat)).prog s.cur = { s.prog s.cur with hold := some (.barrier gid d.toNat) } := by
    rw [State.holdOn, State.prog_setProg_self, hb.progs]
  refine ⟨_, ⟨hexec, ?_, fun r => ?_, ?_⟩, ?_, fun n => ?_⟩
  · exact bytesSame_trans hb.bytes (bytesSame_of (deviceSame_setProg U s.cur _) (coresSame_setProg U s.cur _))
  · rw [State.getS, hprog]
    rfl
  · have hh := congrArg Prog.hold hprog
    rwa [hq] at hh ⊢
  · rw [State.holdOn, State.ctx_setProg]
  · show ((U.setProg s.cur _).groups.find? _).map Prod.snd = (U.groups.find? _).map Prod.snd
    rw [State.groups_setProg]

/-! ### What an arrival finds -/

theorem find?_none_of (h : ∀ b ∈ (s.ctx c x).bars, b.gid ≠ gid) : (s.ctx c x).bars.find? (fun b => b.gid == gid) = none :=
  List.find?_eq_none.mpr fun b hb => by simpa using h b hb

theorem find?_append_new {l : List Bar} (h : ∀ b ∈ l, b.gid ≠ gid) (hb : b.gid = gid) : (l ++ [b]).find? (fun b => b.gid == gid) = some b := by
  rw [List.find?_append, List.find?_eq_none.mpr fun b hb => by simpa using h b hb]
  simp [hb]

theorem filter_append_new {l : List Bar} (h : ∀ b ∈ l, b.gid ≠ gid) (hb : b.gid = gid) :
    (l ++ [b]).filter (fun b => b.gid != gid) = l.filter (fun b => b.gid != gid) := by
  rw [List.filter_append, List.filter_cons_of_neg (by simp [hb]), List.filter_nil, List.append_nil]

theorem inGroup_append_new (f : Bar → Bar) {l : List Bar} (h : ∀ b ∈ l, b.gid ≠ gid) (hb : b.gid = gid) :
    inGroup gid f (l ++ [b]) = l ++ [f b] := by
  have hl : l.map (fun b => if b.gid = gid then f b else b) = l :=
    (List.map_congr_left fun b hb => if_neg (h b hb)).trans (List.map_id' l)
  rw [inGroup, List.map_append, List.map_singleton, if_pos hb, hl]

/-- Without a standing arrival, the entry decides. -/
theorem barRes_fresh (hq : s.cur = .thread c x) (hu : ∀ b ∈ (s.ctx c x).bars, b.gid ≠ (s.getS s.cur a).toNat) :
    barRes s.cur d a (fresh s) = match s.group (s.getS s.cur a).toNat with
    | none => .trap .grp (s.getS s.cur a)
    | some g =>
      if 4096 ≤ (s.getS s.cur a).toNat ∨ ¬ g.has (24 * c + x) then .trap .grp (s.getS s.cur a)
      else if !(s.ctx c x).quiet then .stall
      else if g.isPending (24 * c + x) then waitOrDone s.cur (s.getS s.cur a).toNat d
        ((arrive s.cur ⟨(s.getS s.cur a).toNat, genNext g.gen, false, false⟩ (fresh s)).setGroup (s.getS s.cur a).toNat
          (markWaiting g (24 * c + x)))
      else waitOrDone s.cur (s.getS s.cur a).toNat d
        (((arrive s.cur ⟨(s.getS s.cur a).toNat, g.gen, true, false⟩ (fresh s)).setGroup (s.getS s.cur a).toNat
          (markArrived g (24 * c + x))).completeGroup 3 (s.getS s.cur a).toNat) := by
  have hc : (fresh s).thread s.cur = s.ctx c x := thread_of hq _
  unfold barRes
  rw [tid_fresh hq, fresh_getS, hc, if_neg (by simpa using hu)]
  rfl

theorem barRes_standing (hq : s.cur = .thread c x) (hf : (s.ctx c x).bars.find? (fun b => b.gid == (s.getS s.cur a).toNat) = some b) :
    barRes s.cur d a (fresh s) = waitOrDone s.cur (s.getS s.cur a).toNat d (fresh s) := by
  have hc : (fresh s).thread s.cur = s.ctx c x := thread_of hq _
  unfold barRes
  rw [fresh_getS, hc]
  refine if_pos (List.any_eq_true.mpr ⟨b, List.mem_of_find?_eq_some hf, ?_⟩)
  simpa using List.find?_some hf

theorem arrive_eq (hq : s.cur = .thread c x) (b : Bar) :
    arrive s.cur b (fresh s) = (fresh s).setCtx c x { s.ctx c x with bars := (s.ctx c x).bars ++ [b] } := by
  unfold arrive
  rw [thread_of hq, setThread_of hq]
  rfl

theorem beside_arrive (hq : s.cur = .thread c x) (b : Bar) : Beside s (arrive s.cur b (fresh s)) := by
  rw [arrive_eq hq]
  exact (beside_fresh s).trans (beside_setCtx rfl)

theorem bars_arrive (hq : s.cur = .thread c x) (b : Bar) : barsOf (arrive s.cur b (fresh s)) false c x = (s.ctx c x).bars ++ [b] := by
  rw [arrive_eq hq, barsOf_setCtx, if_pos ⟨rfl, rfl, rfl⟩]

theorem bars_setGroup (k : Bool) (c x : Nat) : barsOf (s.setGroup gid g) k c x = barsOf s k c x := rfl

theorem markArrived_eq : markArrived g tid =
    { g with members := g.members.map (fun m => if m.tid = tid ∧ m.leaving = false then { m with arrived := true } else m) } := by
  simp [markArrived]

theorem entering_markArrived : entering (markArrived g tid) = entering g := by
  rw [markArrived_eq]
  unfold entering
  dsimp only
  congr 1
  induction g.members with
  | nil => rfl
  | cons m l ih => by_cases h : m.tid = tid <;> cases hl : m.leaving <;> simp [h, hl, ih]

/-- A member that arrives is in the generation that opens, and has not arrived there. -/
theorem entering_member (hm : g.isMember tid = true) : ∃ m ∈ entering g, m.arrived = false := by
  obtain ⟨m, hm, ht, hl⟩ := isMember_iff.mp hm
  exact ⟨{ m with arrived := false }, List.mem_append_left _ (List.mem_map.mpr ⟨m, List.mem_filter.mpr ⟨hm, by simp [hl]⟩, rfl⟩), rfl⟩

/-- The arrival that completes a generation is released with it. -/
theorem own_released (hq : s.cur = .thread c x) (hx : x < 24) (hu : ∀ b ∈ (s.ctx c x).bars, b.gid ≠ gid)
    (hm : g.isMember (24 * c + x) = true) (hp : g.isPending (24 * c + x) = false) :
    barsOf (lettingIn ((arrive s.cur ⟨gid, g.gen, true, false⟩ (fresh s)).setGroup gid (markArrived g (24 * c + x))) gid
      (markArrived g (24 * c + x))) false c x = (s.ctx c x).bars ++ [⟨gid, g.gen, true, true⟩] := by
  have hdiv : (24 * c + x) / 24 = c := by omega
  have hmod : (24 * c + x) % 24 = x := by omega
  obtain ⟨m, hmem, ht, -⟩ := isMember_iff.mp hm
  have hmem' : ∃ m' ∈ (markArrived g (24 * c + x)).members, m'.tid = 24 * c + x :=
    ⟨_, List.mem_map.mpr ⟨m, hmem, rfl⟩, by split <;> exact ht⟩
  obtain ⟨m', hm', ht'⟩ := hmem'
  have hrel := lettingIn_releases (s := (arrive s.cur ⟨gid, g.gen, true, false⟩ (fresh s)).setGroup gid (markArrived g (24 * c + x)))
    (gid := gid) (k := false) hm'
  rw [ht', hdiv, hmod] at hrel
  have hform : ∃ r, barsOf (lettingIn ((arrive s.cur ⟨gid, g.gen, true, false⟩ (fresh s)).setGroup gid (markArrived g (24 * c + x))) gid
      (markArrived g (24 * c + x))) false c x = (s.ctx c x).bars ++ [⟨gid, g.gen, true, r⟩] := by
    rw [lettingIn, setBars_other]
    · refine setBars_keeps (P := fun l => ∃ r, l = (s.ctx c x).bars ++ [⟨gid, g.gen, true, r⟩]) _ _ _ ?_
        ⟨false, (bars_setGroup _ _ _).trans (bars_arrive hq _)⟩
      rintro l ⟨r, rfl⟩
      refine ⟨true, ?_⟩
      rw [inGroup_append_new _ hu rfl]
      simp [releasedIn, markArrived]
    · intro m hm hd
      have hmp : ∃ m ∈ g.pending, m.tid = 24 * c + x := ⟨m, (List.mem_filter.mp hm).1, by omega⟩
      rw [← isPending_iff, hp] at hmp
      cases hmp
  obtain ⟨r, hr⟩ := hform
  rw [hr] at hrel ⊢
  have h := hrel ⟨gid, g.gen, true, r⟩ (by simp) rfl rfl rfl
  rw [show r = true from h]

end Barriers

/-! ### Reading an entry -/

section Info

variable {s : State} {c x : Nat} {d a b : Reg}

/-- What `GRP.INFO` reads of an entry (R126). -/
def infoOf (g : Group) (tid sel : Nat) : DWord :=
  match sel with
  | 0 => BitVec.ofNat 64 g.gen
  | 1 => BitVec.ofNat 64 g.members.length
  | 2 => BitVec.ofNat 64 g.arrivals
  | 3 => BitVec.ofNat 64 (bit (g.has tid))
  | _ =>
    if g.isPending tid then BitVec.ofNat 64 (genNext g.gen)
    else match g.members.find? (fun m => m.tid == tid && !m.leaving) with
      | some m => BitVec.ofNat 64 (if m.arrived then genNext g.gen else g.gen)
      | none => allOnes64

theorem exec_grpInfo : exec (.grpInfo d a b) s = issue s 1 .any fun q s => s.ready q [srcS a, srcS b] [srcS d]
    (if 4096 ≤ (s.getS q a).toNat then .trap .grp (s.getS q a) else if 4 < (s.getS q b).toNat then .trap .grp (s.getS q b)
      else .retire (s.setS q d (infoOf ((s.group (s.getS q a).toNat).getD ⟨0, 0, [], []⟩) (s.tid q) (s.getS q b).toNat))) := rfl

theorem info_reads (hq : s.cur = .thread c x) (hs : Stands s 1 .any) (hr : RegsReady s [srcS a, srcS b, srcS d])
    (hlt : (s.getS s.cur a).toNat < 4096) {sel : Nat} (hsel : (s.getS s.cur b).toNat = sel) (h4 : sel ≤ 4) {v : DWord}
    (hv : infoOf ((s.group (s.getS s.cur a).toNat).getD ⟨0, 0, [], []⟩) (24 * c + x) sel = v) :
    WritesS (.grpInfo d a b) s 1 d v := by
  refine writesS_of_ready _ exec_grpInfo rfl hs hr ?_
  rw [fresh_getS, fresh_getS, tid_fresh hq, if_neg (by omega), if_neg (by omega), hsel]
  exact congrArg (fun w => Res.retire ((fresh s).setS s.cur d w)) hv

theorem arrivals_eq_countP (g : Group) : g.arrivals = g.members.countP (fun m => m.arrived) := List.countP_eq_length_filter.symm

theorem has_iff {g : Group} {tid : Nat} :
    g.has tid = true ↔ (∃ m, m ∈ g.pending ∧ m.tid = tid) ∨ ∃ m, m ∈ g.members ∧ m.tid = tid ∧ m.leaving = false := by
  rw [Group.has, Bool.or_eq_true, isMember_iff, isPending_iff, or_comm]

theorem infoOf_generation {g : Group} {tid : Nat} (hp : g.isPending tid = false) : infoOf g tid 4 =
    match g.members.find? (fun m => m.tid == tid && !m.leaving) with
    | some m => BitVec.ofNat 64 (if m.arrived then genNext g.gen else g.gen)
    | none => allOnes64 := if_neg (by simp [hp])

end Info

/-! ### The obligation -/

section Settled

variable {s : State} {c x : Nat} {d a b : Reg} {g : Group}

theorem isPending_false_iff {tid : Nat} : g.isPending tid = false ↔ ¬ ∃ m, m ∈ g.pending ∧ m.tid = tid := by
  rw [← isPending_iff, Bool.not_eq_true]

theorem members_ne_nil {tid : Nat} (hh : g.has tid = true) (hp : g.isPending tid = false) : g.members ≠ [] := by
  obtain ⟨m, hm, -⟩ := (has_iff.mp hh).resolve_left (isPending_false_iff.mp hp)
  exact List.ne_nil_of_mem hm

theorem standing_iff {u : State} {m : Member} {b : Bar} :
    (b ∈ (u.ctx (m.tid / 24) (m.tid % 24)).bars ∨ b ∈ (SMap.get {} (u.core (m.tid / 24)).savedCtxs (m.tid % 24)).bars) ↔
      ∃ k, b ∈ barsOf u k (m.tid / 24) (m.tid % 24) := by
  rw [Bool.exists_bool]
  rfl

/-- A member of the entry is marked in the marked one, with its number. -/
theorem mem_markLeaving {tid : Nat} {m : Member} (hm : m ∈ g.members) : ∃ m' ∈ (markLeaving g tid).members, m'.tid = m.tid :=
  ⟨_, List.mem_map.mpr ⟨m, hm, rfl⟩, by split <;> rfl⟩

theorem mem_markArrived {tid : Nat} {m : Member} (hm : m ∈ g.members) : ∃ m' ∈ (markArrived g tid).members, m'.tid = m.tid :=
  ⟨_, List.mem_map.mpr ⟨m, hm, rfl⟩, by split <;> rfl⟩

/-- What is released when a marked entry completes is every arrival of its members. -/
theorem released_of {U u : State} {g' : Group} {gid : Nat} (hsub : ∀ k d y, barsOf u k d y ⊆ barsOf (lettingIn U gid g') k d y)
    (hgen : g'.gen = g.gen) (hmem : ∀ m ∈ g.members, ∃ m' ∈ g'.members, m'.tid = m.tid) (m : Member) (hm : m ∈ g.members) (b : Bar)
    (hb : b ∈ (u.ctx (m.tid / 24) (m.tid % 24)).bars ∨ b ∈ (SMap.get {} (u.core (m.tid / 24)).savedCtxs (m.tid % 24)).bars)
    (hgid : b.gid = gid) (harr : b.arrived = true) (hbg : b.gen = g.gen) : b.released = true := by
  obtain ⟨k, hk⟩ := standing_iff.mp hb
  obtain ⟨m', hm', ht⟩ := hmem m hm
  have h := lettingIn_releases (s := U) (gid := gid) (k := k) hm'
  rw [ht, hgen] at h
  exact h b (hsub k _ _ hk) hgid harr hbg

theorem leave_settled (hq : s.cur = .thread c x) (hs : Stands s 1 .any) (hr : RegsReady s [srcS a, srcS d])
    (hlt : (s.getS s.cur a).toNat < 4096) (hg : s.group (s.getS s.cur a).toNat = some g) (hh : g.has (24 * c + x) = true)
    (hacc : (s.ctx c x).accs = []) :
    ∃ u, exec (.grpLeave d a) s = .next u ∧ BytesSame s u ∧ (∀ r, r ≠ d → u.getS s.cur r = s.getS s.cur r) ∧
      u.getS s.cur d = (if d = 0 then 0 else BitVec.ofNat 64 (if g.isPending (24 * c + x) then genNext g.gen else g.gen)) ∧
      (u.prog s.cur).hold = (s.prog s.cur).hold ∧ FlowsOn s u 1 ∧
      (∀ n, n ≠ (s.getS s.cur a).toNat → u.group n = s.group n) ∧
      u.group (s.getS s.cur a).toNat = ((fresh s).leaveGroup (24 * c + x) (s.getS s.cur a).toNat).group (s.getS s.cur a).toNat ∧
      ∀ k d y, barsOf u k d y = barsOf ((fresh s).leaveGroup (24 * c + x) (s.getS s.cur a).toNat) k d y := by
  have hl := leaveGroup_beside (s := fresh s) (gid := (s.getS s.cur a).toNat) (tid := 24 * c + x)
  obtain ⟨u, hx, hbytes, hregs, hd, hhold, hflow, hgrp, hbars⟩ :=
    left_of_retires (leave_retires hq hs hr hlt hg hh hacc) ((beside_fresh s).trans hl.1)
  exact ⟨u, hx, hbytes, hregs, hd, hhold, hflow, fun n hn => (hgrp n).trans (hl.2 n hn), hgrp _, hbars⟩

theorem join_new (hq : s.cur = .thread c x) (hs : Stands s 1 .any) (hr : RegsReady s [srcS a, srcS d])
    (hlt : (s.getS s.cur a).toNat < 4096) (hg : s.group (s.getS s.cur a).toNat = none)
    (h4 : ¬ 4 ≤ (s.groups.filter (fun e => e.2.has (24 * c + x))).length) :
    Retires (.grpJoin d a) s 1 (((fresh s).setGroup (s.getS s.cur a).toNat
      ⟨(s.core c).asid, 0, [⟨24 * c + x, false, false⟩], []⟩).setS s.cur d 0) := by
  refine retires_of_ready _ exec_grpJoin rfl hs hr ((joinRes_fresh hq).trans ?_)
  rw [hg]
  refine (if_neg ?_).trans (if_pos rfl)
  rintro (h | h | h | h)
  · omega
  · exact h rfl
  · cases h
  · exact h4 h

theorem join_in (hq : s.cur = .thread c x) (hs : Stands s 1 .any) (hr : RegsReady s [srcS a, srcS d])
    (hlt : (s.getS s.cur a).toNat < 4096) (hg : s.group (s.getS s.cur a).toNat = some g) (ha : g.asid = (s.core c).asid)
    (hh : g.has (24 * c + x) = false) (h4 : ¬ 4 ≤ (s.groups.filter (fun e => e.2.has (24 * c + x))).length) :
    Retires (.grpJoin d a) s 1 (if g.arrivals = 0
      then ((fresh s).setGroup (s.getS s.cur a).toNat { g with members := g.members ++ [⟨24 * c + x, false, false⟩] }).setS s.cur d
        (BitVec.ofNat 64 g.gen)
      else ((fresh s).setGroup (s.getS s.cur a).toNat { g with pending := g.pending ++ [⟨24 * c + x, false⟩] }).setS s.cur d
        (BitVec.ofNat 64 (genNext g.gen))) := by
  refine retires_of_ready _ exec_grpJoin rfl hs hr ((joinRes_fresh hq).trans ?_)
  rw [hg]
  refine (if_neg ?_).trans (apply_ite Res.retire _ _ _).symm
  rintro (h | h | h | h)
  · omega
  · exact h ha
  · exact absurd h (by simp [hh])
  · exact h4 h

theorem leave_stalls (hq : s.cur = .thread c x) (hs : Stands s 1 .any) (hr : RegsReady s [srcS a, srcS d])
    (hlt : (s.getS s.cur a).toNat < 4096) (hg : s.group (s.getS s.cur a).toNat = some g) (hh : g.has (24 * c + x) = true)
    (hacc : (s.ctx c x).accs ≠ []) : Stalls (.grpLeave d a) s := by
  refine stalls_of_ready _ exec_grpLeave rfl hs hr ((leaveRes_fresh hq).trans ?_)
  rw [hg]
  exact (if_neg (by simp [hh, hlt])).trans (if_pos (by simpa [← quiet_iff] using hacc))

theorem bar_traps (hq : s.cur = .thread c x) (hs : Stands s 1 .any) (hr : RegsReady s [srcS a, srcS d])
    (hu : ∀ b ∈ (s.ctx c x).bars, b.gid ≠ (s.getS s.cur a).toNat)
    (h : 4096 ≤ (s.getS s.cur a).toNat ∨ ∀ g, s.group (s.getS s.cur a).toNat = some g → g.has (24 * c + x) = false) :
    Traps (.grpBar d a) s .grp (s.getS s.cur a) := by
  refine traps_of_ready _ exec_grpBar rfl hs hr ((barRes_fresh hq hu).trans ?_)
  split
  · rfl
  · next g hg => exact if_pos (h.imp_right fun hh => by simp [hh g hg])

theorem bar_stalls (hq : s.cur = .thread c x) (hs : Stands s 1 .any) (hr : RegsReady s [srcS a, srcS d])
    (hlt : (s.getS s.cur a).toNat < 4096) (hg : s.group (s.getS s.cur a).toNat = some g) (hh : g.has (24 * c + x) = true)
    (hu : ∀ b ∈ (s.ctx c x).bars, b.gid ≠ (s.getS s.cur a).toNat) (hacc : (s.ctx c x).accs ≠ []) : Stalls (.grpBar d a) s := by
  refine stalls_of_ready _ exec_grpBar rfl hs hr ((barRes_fresh hq hu).trans ?_)
  rw [hg]
  exact (if_neg (by simp [hh, hlt])).trans (if_pos (by simpa [← quiet_iff] using hacc))

/-- A thread of the entry arrives. -/
theorem barRes_arrives (hq : s.cur = .thread c x) (hlt : (s.getS s.cur a).toNat < 4096) (hg : s.group (s.getS s.cur a).toNat = some g)
    (hh : g.has (24 * c + x) = true) (hu : ∀ b ∈ (s.ctx c x).bars, b.gid ≠ (s.getS s.cur a).toNat) (hacc : (s.ctx c x).accs = []) :
    barRes s.cur d a (fresh s) = waitOrDone s.cur (s.getS s.cur a).toNat d (if g.isPending (24 * c + x) then
        (arrive s.cur ⟨(s.getS s.cur a).toNat, genNext g.gen, false, false⟩ (fresh s)).setGroup (s.getS s.cur a).toNat (markWaiting g (24 * c + x))
      else ((arrive s.cur ⟨(s.getS s.cur a).toNat, g.gen, true, false⟩ (fresh s)).setGroup (s.getS s.cur a).toNat
        (markArrived g (24 * c + x))).completeGroup 3 (s.getS s.cur a).toNat) := by
  rw [barRes_fresh hq hu, hg]
  refine (if_neg (by simp [hh, hlt])).trans ((if_neg (by simp [(quiet_iff _).mpr hacc])).trans ?_)
  split <;> rfl

end Settled

/-- Settles O18: a leave and an arrival complete a generation by `completeGroup_once`, which releases the arrivals of its members. -/
theorem groups : Obligations.Groups := by
  refine ⟨?_, ?_, ?_⟩
  · intro s c x d a hq hs hr
    refine ⟨fun h => ⟨join_traps hq hs hr (.inl h), leave_traps hq hs hr (.inl h)⟩, fun hlt hg =>
      ⟨leave_traps hq hs hr (.inr fun g h => by rw [hg] at h; cases h), fun h4 => join_traps hq hs hr (.inr (.inl h4)),
        fun h4 => join_new hq hs hr hlt hg h4⟩, fun g hlt hg => ⟨?_, ?_, ?_, ?_, ?_⟩⟩
    · rintro (h | h | h)
      · exact join_traps hq hs hr (.inr (.inr ⟨g, hg, .inl h⟩))
      · exact join_traps hq hs hr (.inr (.inr ⟨g, hg, .inr h⟩))
      · exact join_traps hq hs hr (.inr (.inl h))
    · intro ha hh h4
      have hj := join_in (d := d) hq hs hr hlt hg ha hh h4
      refine ⟨fun hall => ?_, fun ⟨m, hm, harr⟩ => ?_⟩
      · rwa [if_pos ((arrivals_eq_zero_iff g).mpr hall)] at hj
      · rwa [if_neg fun h0 => by simp [(arrivals_eq_zero_iff g).mp h0 m hm] at harr] at hj
    · exact fun hh => leave_traps hq hs hr (.inr fun g' h => by rw [hg] at h; cases h; exact hh)
    · exact leave_stalls hq hs hr hlt hg
    · intro hh hacc
      obtain ⟨u, hx, hbytes, hregs, hd, hhold, hflow, hothers, hgrp, hbars⟩ := leave_settled (d := d) hq hs hr hlt hg hh hacc
      have hgf : (fresh s).group (s.getS s.cur a).toNat = some g := hg
      refine ⟨u, hx, hbytes, hregs, hd, hhold, hflow, hothers, ?_, ?_, ?_, ?_, ?_⟩
      · rintro hp ⟨m, hm, harr⟩
        rw [hgrp, leaveGroup_pending hgf hp, if_neg (by simp [List.ne_nil_of_mem hm]),
          completeGroup_waits (g := dropPending g (24 * c + x)) 3 (by rw [group_setGroup, if_pos rfl]) ⟨m, hm, harr⟩, group_setGroup, if_pos rfl]
        rfl
      · intro hp hm hall
        have he : (dropPending g (24 * c + x)).pending = [] := List.filter_eq_nil_iff.mpr fun m hm => by simpa using hall m hm
        rw [hgrp, leaveGroup_pending hgf hp, if_pos (by simp [hm, he]), group_freeGroup, if_pos rfl]
      · intro hp hw
        rw [hgrp, leaveGroup_member hgf hp (members_ne_nil hh hp), completeGroup_waits 3 (by rw [group_setGroup, if_pos rfl]) hw,
          group_setGroup, if_pos rfl]
        rfl
      · intro hp hall he
        obtain ⟨hnone, heq⟩ := (leaveGroup_completes hgf hp (members_ne_nil hh hp) hall).1 (entering_markLeaving.trans he)
        refine ⟨hgrp.trans hnone, released_of (g' := markLeaving g (24 * c + x))
          (U := (fresh s).setGroup (s.getS s.cur a).toNat (markLeaving g (24 * c + x))) (fun k d y => ?_) rfl fun m hm => mem_markLeaving hm⟩
        rw [hbars, heq]
        exact List.Subset.refl _
      · intro hp hall he
        have heq := (leaveGroup_completes hgf hp (members_ne_nil hh hp) hall).2 (by rw [entering_markLeaving]; exact he)
        refine ⟨?_, released_of (g' := markLeaving g (24 * c + x))
          (U := (fresh s).setGroup (s.getS s.cur a).toNat (markLeaving g (24 * c + x))) (fun k d y => ?_) rfl fun m hm => mem_markLeaving hm⟩
        · rw [hgrp, heq, group_setGroup, if_pos rfl, entering_markLeaving]
          rfl
        · rw [hbars, heq, bars_setGroup]
          exact List.Subset.refl _
  · intro s c x d a hq hx24 hs hr
    refine ⟨fun h hu => bar_traps hq hs hr hu (h.imp_right fun hn g h => by rw [hn] at h; cases h), fun b hf => ⟨fun hrel => ?_, fun hrel => ?_⟩,
      fun g hlt hg hu => ⟨fun hh => bar_traps hq hs hr hu (.inr fun g' h => by rw [hg] at h; cases h; exact hh),
        fun hh => bar_stalls hq hs hr hlt hg hh hu, fun hm hp hacc => ?_, fun hp hacc => ?_⟩⟩
    · obtain ⟨u, h, -⟩ := bar_completes (d := d) hq hs hr (beside_fresh s) (barRes_standing hq hf) hf hrel
      exact ⟨u, h⟩
    · obtain ⟨u, h, hb, -⟩ := bar_waits (d := d) hq hs hr (beside_fresh s) (barRes_standing hq hf) hf hrel
      exact ⟨u, h, hb⟩
    · have hres := barRes_arrives (d := d) hq hlt hg (by rw [Group.has, hm]; rfl) hu hacc
      rw [if_neg (by simp [hp])] at hres
      have hgrp : ∀ b, ((arrive s.cur b (fresh s)).setGroup (s.getS s.cur a).toNat (markArrived g (24 * c + x))).group
          (s.getS s.cur a).toNat = some (markArrived g (24 * c + x)) := fun b => by rw [group_setGroup, if_pos rfl]
      have hmem := congrArg Group.members (markArrived_eq (g := g) (tid := 24 * c + x))
      have hbeside : Beside s ((arrive s.cur ⟨(s.getS s.cur a).toNat, g.gen, true, false⟩ (fresh s)).setGroup (s.getS s.cur a).toNat
          (markArrived g (24 * c + x))) := (beside_arrive hq _).trans (beside_setGroup _)
      have hstart := (bars_setGroup (g := markArrived g (24 * c + x)) (gid := (s.getS s.cur a).toNat) _ _ _).trans
        (bars_arrive hq ⟨(s.getS s.cur a).toNat, g.gen, true, false⟩)
      refine ⟨fun hw => ?_, fun hall => ?_⟩
      · rw [completeGroup_waits 3 (hgrp _) (by rw [hmem]; exact hw)] at hres
        obtain ⟨u, h, hb, hg'⟩ := bar_waits hq hs hr hbeside hres ((congrArg (List.find? _) hstart).trans (find?_append_new hu rfl)) rfl
        exact ⟨u, h, hb.trans hstart, by rw [hg', hgrp, markArrived_eq]⟩
      · obtain ⟨m, hm', -⟩ := isMember_iff.mp hm
        rw [completeGroup_once 2 (hgrp _) (by rw [hmem]; simpa using List.ne_nil_of_mem hm') (by rw [hmem]; exact hall)
          (by rw [entering_markArrived]; exact entering_member hm)] at hres
        have hown := own_released hq hx24 hu hm hp
        obtain ⟨u, ⟨hx, hbytes, hregs, hd, hb, hflow⟩, hg', hbars⟩ := bar_completes hq hs hr
          ((hbeside.trans beside_lettingIn).trans (beside_setGroup _)) hres
          ((congrArg (List.find? _) hown).trans (find?_append_new hu rfl)) rfl
        refine ⟨u, ⟨hx, hbytes, hregs, hd, ?_, hflow⟩, ?_, released_of hbars rfl fun m hm => mem_markArrived hm⟩
        · exact (hb.trans (congrArg (List.filter _) hown)).trans (filter_append_new hu rfl)
        · rw [hg', group_setGroup, if_pos rfl, entering_markArrived]
          rfl
    · have hres := barRes_arrives (d := d) hq hlt hg (by rw [Group.has, hp, Bool.or_true]) hu hacc
      rw [if_pos hp] at hres
      have hstart := (bars_setGroup (g := markWaiting g (24 * c + x)) (gid := (s.getS s.cur a).toNat) _ _ _).trans
        (bars_arrive hq ⟨(s.getS s.cur a).toNat, genNext g.gen, false, false⟩)
      obtain ⟨u, h, hb, hg'⟩ := bar_waits hq hs hr ((beside_arrive hq _).trans (beside_setGroup _)) hres
        ((congrArg (List.find? _) hstart).trans (find?_append_new hu rfl)) rfl
      refine ⟨u, h, hb.trans hstart, ?_⟩
      rw [hg', group_setGroup, if_pos rfl]
      rfl
  · intro s c x d a b hq hs hr
    refine ⟨fun h => ?_, fun hlt hsel => ?_, fun hlt => ⟨?_, ?_, ?_, ?_, ?_, ?_, ?_, ?_⟩⟩
    · exact traps_of_ready _ exec_grpInfo rfl hs hr (if_pos h)
    · exact traps_of_ready _ exec_grpInfo rfl hs hr ((if_neg (Nat.not_le.mpr hlt)).trans (if_pos hsel))
    · exact fun hsel => info_reads hq hs hr hlt hsel (by decide) rfl
    · exact fun hsel => info_reads hq hs hr hlt hsel (by decide) rfl
    · exact fun hsel => info_reads hq hs hr hlt hsel (by decide) (congrArg (BitVec.ofNat 64) (arrivals_eq_countP _))
    · exact fun hsel h => info_reads hq hs hr hlt hsel (by decide) (by rw [infoOf, has_iff.mpr h]; rfl)
    · intro hsel h
      rw [← has_iff, Bool.not_eq_true] at h
      exact info_reads hq hs hr hlt hsel (by decide) (by rw [infoOf, h]; rfl)
    · exact fun hsel h => info_reads hq hs hr hlt hsel (by decide) (if_pos (isPending_iff.mpr h))
    · intro hsel h hall
      refine info_reads hq hs hr hlt hsel (by decide) ((infoOf_generation (isPending_false_iff.mpr h)).trans ?_)
      rw [List.find?_eq_none.mpr fun m hm => by simpa using hall m hm]
      rfl
    · intro m hm hsel h
      refine info_reads hq hs hr hlt hsel (by decide) ((infoOf_generation (isPending_false_iff.mpr h)).trans ?_)
      rw [hm]
      rfl

end Sys2Proof.Proofs.Groups
end

section
/-! PROOFS. Command queues: a `WAITF` marked to fail outlives the `SIG` it awaits. -/

namespace Sys2Proof.Proofs.Queues

open Sys2Proof.Machine
open Sys2Proof.Safety

/-! ### A failed entry stays (O20) -/

/-- A `SIG` of flag 0 in queue 0. -/
def sigEntry : Item := { seq := 1, queue := 0, prio := 0, owner := 0, kind := .sig 0 }

/-- A `WAITF` that awaits it in queue 1, of a thread whose trap has disposed of it: the entry is marked to fail (R135). -/
def failedWait : Item := { seq := 2, queue := 1, prio := 0, owner := 0, kind := .waitf 0 1, failing := some .illegal }

/-- Both stand in the queues of core 0, and the `SIG` is the target. -/
def sigAndFailedWait : State := { State.reset with cores := [(0, { items := [sigEntry, failedWait], nextSeq := 3 })], target := { id := 1 } }

/-- The entries that a meaning leaves in the queues of core 0. -/
def entriesAfter : Out → List Item
  | .next u => (u.core 0).items
  | _ => []

/-- DONE of flag 0 of core 0 after a meaning. -/
def doneAfter : Out → Nat
  | .next u => SMap.get 0 (u.core 0).flagDone 0
  | _ => 0

/-- Refutes O20: a `SIG` that completes ends the satisfied `WAITF` entries that are not marked to fail, and leaves a marked one in its
queue, so the clause on every `WAITF` that is left does not hold of it. -/
theorem not_queueEvents : ¬ Obligations.QueueEvents := by
  unfold Obligations.QueueEvents
  intro h
  obtain ⟨-, hsig, -⟩ := h sigAndFailedWait sigEntry
  obtain ⟨u, hu, -, -, -, hwaits⟩ := hsig 0 (by decide) rfl rfl (by decide)
  have hleft : entriesAfter (.next u) = entriesAfter (exec .sigComplete sigAndFailedWait) := congrArg entriesAfter hu.symm
  have hdone : doneAfter (.next u) = doneAfter (exec .sigComplete sigAndFailedWait) := congrArg doneAfter hu.symm
  have hmem : failedWait ∈ (u.core 0).items := by
    rw [show (u.core 0).items = [failedWait] from hleft.trans (by decide)]
    exact List.mem_singleton_self _
  have hlt : doneAfter (.next u) < 1 := hwaits failedWait 0 1 hmem rfl
  rw [hdone] at hlt
  exact absurd hlt (by decide)

end Sys2Proof.Proofs.Queues
end

section
/-! PROOFS. `SIG`, `WAITF` and `ESTAT` (R131, R134, R346, R351 to R353). -/

namespace Sys2Proof.Proofs.Flags

open Sys2Proof.Machine
open Sys2Proof.Safety
open Sys2Proof.Proofs.Transfers
open Sys2Proof.Proofs.Traps
open Sys2Proof.Proofs.Ready
open Sys2Proof.Proofs.Groups
open Sys2Proof.Proofs.Return
open Sys2Proof.Proofs.Tokens

section Ends

variable {s t : State} {c x : Nat} {q : Seqr} {r : Reg} {i : Item}

/-! ### A wake, and an item that ends without failing -/

theorem getS_wake : (s.wake c x).getS q r = s.getS q r := by
  unfold State.wake
  dsimp only
  split
  · refine congrArg (fun p : SMap DWord => if r.toNat = 0 then 0 else SMap.get 0 p r.toNat) ?_
    cases q with
    | thread d y =>
      show ((s.setCtx c x _).ctx d y).prog.s = (s.ctx d y).prog.s
      rw [State.ctx_setCtx]
      split
      · next e => rw [e.1, e.2]
      · rfl
    | vec d k => show ((s.setCtx c x _).slot d k).prog.s = _; simp only [State.slot, State.slots_core_setCtx]; rfl
    | arc d => show ((s.setCtx c x _).arc d).prog.s = _; simp only [State.arc, State.arc_core_setCtx]; rfl
  · rfl

theorem bytesSame_wake : BytesSame s (s.wake c x) := by
  unfold State.wake
  dsimp only
  split
  · exact bytesSame_setCtx s c x _
  · exact (Beside.refl s).bytes

/-- What a core lists of its items reads as another's. -/
structure ListsSame (k l : Core) : Prop where
  items : l.items = k.items
  saved : l.saved = k.saved
  ended : l.ended = k.ended
  next  : l.nextSeq = k.nextSeq

theorem ListsSame.item {k l : Core} (h : ListsSame k l) (n : Nat) : l.item n = k.item n := by simp only [Core.item, h.items]

theorem ListsSame.itemStatus {k l : Core} (h : ListsSame k l) (n : Nat) : l.itemStatus n = k.itemStatus n := by
  simp only [Core.itemStatus, h.items, h.saved, h.ended]

theorem ListsSame.trans {k l m : Core} (h : ListsSame k l) (g : ListsSame l m) : ListsSame k m :=
  ⟨g.items.trans h.items, g.saved.trans h.saved, g.ended.trans h.ended, g.next.trans h.next⟩

theorem listsSame_wake (d : Nat) : ListsSame (s.core d) ((s.wake c x).core d) := by
  unfold State.wake
  dsimp only
  split
  · exact ⟨State.items_core_setCtx s c x _ d, State.saved_core_setCtx s c x _ d, State.ended_core_setCtx s c x _ d,
      State.nextSeq_core_setCtx s c x _ d⟩
  · exact ⟨rfl, rfl, rfl, rfl⟩

theorem listsSame_of {k l : Core} (h : { l with ctxs := k.ctxs, slots := k.slots, arc := k.arc } = k) : ListsSame k l :=
  ⟨(congrArg Core.items h :), (congrArg Core.saved h :), (congrArg Core.ended h :), (congrArg Core.nextSeq h :)⟩

theorem listsSame_of_after {s1 u : State} {len : Nat} (h : After s s1 u len) (d : Nat) : ListsSame (s1.core d) (u.core d) :=
  listsSame_of (h.cores d)

theorem listsSame_setS (v : DWord) (d : Nat) : ListsSame (s.core d) ((s.setS q r v).core d) := listsSame_of (coresSame_setProg s q _ d)

/-- The core once an item has ended without failing. -/
def afterDone (k : Core) (i : Item) : Core :=
  { k with
    items := (k.items.filter (fun j => j.seq != i.seq)).map (fun j => j.afterEnd i.seq none)
    saved := k.saved.map (fun j => j.afterEnd i.seq none)
    ended := ((i.seq, i.status true false 0) :: k.ended).take 512
    queueStat := SMap.set k.queueStat i.queue { cause := (SMap.get {} k.queueStat i.queue).cause, lastFail := false, lastSeq := i.seq } }

theorem endItem_done (s : State) (c : Nat) (i : Item) :
    s.endItem c i none = ((s.setCore c (afterDone (s.core c) i)).unpin c i.asid (i.pages.map (fun p => p.base))).wake c i.owner := rfl

theorem beside_unpin (a : Nat) (l : List Nat) : Beside s (s.unpin c a l) := beside_of_cores rfl rfl rfl

theorem bytesSame_endItem : BytesSame s (s.endItem c i none) := by
  rw [endItem_done]
  exact bytesSame_trans ((beside_setCore rfl rfl rfl rfl rfl : Beside s (s.setCore c (afterDone (s.core c) i))).trans
    (beside_unpin _ _)).bytes bytesSame_wake

theorem getS_endItem : (s.endItem c i none).getS q r = s.getS q r := by
  rw [endItem_done, getS_wake]
  exact congrArg (fun p : Prog => p.getS r.toNat)
    (((beside_setCore rfl rfl rfl rfl rfl : Beside s (s.setCore c (afterDone (s.core c) i))).trans (beside_unpin _ _)).progs q)

theorem listsSame_endItem : ListsSame (afterDone (s.core c) i) ((s.endItem c i none).core c) := by
  have h := listsSame_wake (s := (s.setCore c (afterDone (s.core c) i)).unpin c i.asid (i.pages.map (fun p => p.base))) (c := c) (x := i.owner) c
  rw [show ((s.setCore c (afterDone (s.core c) i)).unpin c i.asid (i.pages.map (fun p => p.base))).core c = afterDone (s.core c) i from
    State.core_setCore_self _ _ _] at h
  exact h

@[simp] theorem seq_afterEnd (j : Item) (n : Nat) (f : Option Cause) : (j.afterEnd n f).seq = j.seq := rfl

theorem item_afterDone (k : Core) (i : Item) : (afterDone k i).item i.seq = none := by
  rw [Core.item, List.find?_eq_none]
  intro j hj
  obtain ⟨l, hl, rfl⟩ := List.mem_map.mp hj
  simpa using (List.mem_filter.mp hl).2

theorem itemStatus_afterDone {k : Core} {i : Item} (h : ∀ j ∈ k.saved, j.seq ≠ i.seq) : (afterDone k i).itemStatus i.seq = i.status true false 0 := by
  have hnone : ((afterDone k i).items ++ (afterDone k i).saved).find? (fun j => j.seq == i.seq) = none := by
    rw [List.find?_append, Option.or_eq_none_iff]
    refine ⟨item_afterDone k i, List.find?_eq_none.mpr fun j hj => ?_⟩
    obtain ⟨l, hl, rfl⟩ := List.mem_map.mp hj
    simpa using h l hl
  have hended : (afterDone k i).ended.find? (fun e => e.1 == i.seq) = some (i.seq, i.status true false 0) := by
    simp [afterDone, List.take_succ_cons]
  rw [Core.itemStatus, hnone]
  dsimp only
  rw [hended]

end Ends

/-! ### Pushes of entries without a footprint -/

section Pushes

variable {s : State} {c x : Nat} {d a b : Reg}


theorem edgesTo_nil (l : List Item) : edgesTo l [] [] = [] := by simp [edgesTo]

/-- The entry that a push of thread x of core c leaves in a queue. -/
def entryOf (s : State) (c x queue : Nat) (kind : ItemKind) (words : List Word) : Item :=
  { seq := (s.core c).nextSeq, queue, prio := (s.ctx c x).prio, owner := x, kind, words, asid := (s.core c).asid }

/-- The core with an entry more. -/
def withEntry (k : Core) (j : Item) : Core := { k with items := k.items ++ [j], nextSeq := k.nextSeq + 1 }

theorem setCore_setCore (k l : Core) : (s.setCore c k).setCore c l = s.setCore c l := by
  simp only [State.setCore, SMap.set_set]

theorem push_entry (hq : s.cur = .thread c x) (queue : Nat) (kind : ItemKind) (words : List Word) :
    (fresh s).push s.cur { seq := 0, queue, prio := 0, owner := 0, kind, words } =
      ((fresh s).setCore c (withEntry (s.core c) (entryOf s c x queue kind words)), (s.core c).nextSeq) := by
  rw [State.push, edgesTo_nil, hq]
  rfl

/-- No room for an entry in a queue, or in the thread's FIFO of failed numbers (R131, R346). -/
def Full (s : State) (c x queue : Nat) : Prop :=
  64 ≤ ((s.core c).items.filter (fun i => i.queue == queue)).length ∨
    384 ≤ (s.ctx c x).failed.length + ((s.core c).items.filter (fun i => i.owner == x)).length

theorem pushStalls_iff (hq : s.cur = .thread c x) (queue : Nat) : (fresh s).pushStalls s.cur queue = true ↔ Full s c x queue := by
  simp only [State.pushStalls, Core.inQueue, hq, Bool.or_eq_true, decide_eq_true_eq]
  exact Iff.rfl

theorem pushStalls_false (hq : s.cur = .thread c x) {queue : Nat} (h : ¬ Full s c x queue) : (fresh s).pushStalls s.cur queue = false :=
  Bool.not_eq_true _ ▸ fun h' => h ((pushStalls_iff hq queue).mp h')

/-! ### The operand checks -/

theorem flagCheck_flag {v w : DWord} (h : 63 < v.toNat) : flagCheck v w = some v := if_pos h
theorem flagCheck_queue {v w : DWord} (h : v.toNat ≤ 63) (hw : 5 < w.toNat) : flagCheck v w = some w :=
  (if_neg (by omega)).trans (if_pos hw)
theorem flagCheck_none {v w : DWord} (h : v.toNat ≤ 63) (hw : w.toNat ≤ 5) : flagCheck v w = none :=
  (if_neg (by omega)).trans (if_neg (by omega))

/-- What `SIG` comes to once its registers are ready. -/
def sigRes (q : Seqr) (d a b : Reg) (s : State) : Res :=
  match flagCheck (s.getS q a) (s.getS q b) with
  | some v => .trap .illegal v
  | none =>
    if s.pushStalls q (s.getS q b).toNat then .stall
    else
      let (s1, n) := s.push q { seq := 0, queue := (s.getS q b).toNat, prio := 0, owner := 0, kind := .sig (s.getS q a).toNat,
                                words := [packA 0xE8 d a b 0] }
      .retire ((s1.setCore q.core { s1.core q.core with flagPushed := SMap.set (s1.core q.core).flagPushed (s.getS q a).toNat n }).setS q d
        (BitVec.ofNat 64 n))

/-- What `WAITF` comes to once its registers are ready. -/
def waitRes (q : Seqr) (d a b : Reg) (s : State) : Res :=
  match flagCheck (s.getS q a) (s.getS q b) with
  | some v => .trap .illegal v
  | none =>
    if SMap.get 0 (s.core q.core).flagPushed (s.getS q a).toNat = 0 then .trap .fwdwait (s.getS q a)
    else if s.pushStalls q (s.getS q b).toNat then .stall
    else
      let (s1, n) := s.push q { seq := 0, queue := (s.getS q b).toNat, prio := 0, owner := 0,
                                kind := .waitf (s.getS q a).toNat (SMap.get 0 (s.core q.core).flagPushed (s.getS q a).toNat),
                                words := [packA 0xE9 d a b 0] }
      .retire ((s1.satisfyWaits 1 q.core).setS q d (BitVec.ofNat 64 n))

theorem exec_sig : exec (.sig d a b) s = issue s 1 .any fun q s => s.ready q [srcS a, srcS b] [srcS d] (sigRes q d a b s) := rfl
theorem exec_waitf : exec (.waitf d a b) s = issue s 1 .any fun q s => s.ready q [srcS a, srcS b] [srcS d] (waitRes q d a b s) := rfl

/-! ### The cases of `SIG` and `WAITF` -/

section Cases

variable (hq : s.cur = .thread c x) (hs : Stands s 1 .any) (hr : RegsReady s [srcS a, srcS b, srcS d])

include hq hs hr

theorem flags_trap {v : DWord} (h : flagCheck (s.getS s.cur a) (s.getS s.cur b) = some v) :
    Traps (.sig d a b) s .illegal v ∧ Traps (.waitf d a b) s .illegal v := by
  constructor
  · exact traps_of_ready _ exec_sig rfl hs hr (by simp only [sigRes, fresh_getS, h])
  · exact traps_of_ready _ exec_waitf rfl hs hr (by simp only [waitRes, fresh_getS, h])

variable (hc : flagCheck (s.getS s.cur a) (s.getS s.cur b) = none)

include hc

theorem sig_stalls (h : Full s c x (s.getS s.cur b).toNat) : Stalls (.sig d a b) s :=
  stalls_of_ready _ exec_sig rfl hs hr (by
    simp only [sigRes, fresh_getS, hc, (pushStalls_iff hq _).mpr h, if_true])

theorem sig_pushes (h : ¬ Full s c x (s.getS s.cur b).toNat) :
    Retires (.sig d a b) s 1 (((fresh s).setCore c { withEntry (s.core c) (entryOf s c x (s.getS s.cur b).toNat (.sig (s.getS s.cur a).toNat)
      [packA 0xE8 d a b 0]) with flagPushed := SMap.set (s.core c).flagPushed (s.getS s.cur a).toNat (s.core c).nextSeq }).setS s.cur d
      (BitVec.ofNat 64 (s.core c).nextSeq)) :=
  retires_of_ready _ exec_sig rfl hs hr (by
    simp only [sigRes, fresh_getS, hc, pushStalls_false hq h, push_entry hq, show s.cur.core = c by rw [hq]; rfl, State.core_setCore_self,
      setCore_setCore, Bool.false_eq_true, if_false]
    rfl)

/-- What `WAITF` does once its flag has been pushed for. -/
theorem waitRes_fwd (h : SMap.get 0 (s.core c).flagPushed (s.getS s.cur a).toNat = 0) : Traps (.waitf d a b) s .fwdwait (s.getS s.cur a) :=
  traps_of_ready _ exec_waitf rfl hs hr (by
    simp only [waitRes, fresh_getS, hc, show s.cur.core = c by rw [hq]; rfl, fresh_core, h, if_true])

variable (hp : SMap.get 0 (s.core c).flagPushed (s.getS s.cur a).toNat ≠ 0)

include hp

theorem waitf_stalls (h : Full s c x (s.getS s.cur b).toNat) : Stalls (.waitf d a b) s :=
  stalls_of_ready _ exec_waitf rfl hs hr (by
    simp only [waitRes, fresh_getS, hc, show s.cur.core = c by rw [hq]; rfl, fresh_core, if_neg hp, (pushStalls_iff hq _).mpr h, if_true])

/-- The entry that `WAITF` pushes. -/
def waitEntry (s : State) (c x : Nat) (d a b : Reg) : Item :=
  entryOf s c x (s.getS s.cur b).toNat (.waitf (s.getS s.cur a).toNat (SMap.get 0 (s.core c).flagPushed (s.getS s.cur a).toNat))
    [packA 0xE9 d a b 0]

theorem waitf_pushes (h : ¬ Full s c x (s.getS s.cur b).toNat) :
    Retires (.waitf d a b) s 1 ((((fresh s).setCore c (withEntry (s.core c) (waitEntry s c x d a b))).satisfyWaits 1 c).setS s.cur d
      (BitVec.ofNat 64 (s.core c).nextSeq)) :=
  retires_of_ready _ exec_waitf rfl hs hr (by
    simp only [waitRes, fresh_getS, hc, show s.cur.core = c by rw [hq]; rfl, fresh_core, if_neg hp, pushStalls_false hq h, push_entry hq,
      Bool.false_eq_true, if_false]
    rfl)

end Cases

/-! ### The `WAITF` entries that a core's flags satisfy -/

theorem satisfied_iff {k : Core} {kind : ItemKind} :
    k.satisfied kind = true ↔ ∃ f w, kind = .waitf f w ∧ w ≤ SMap.get 0 k.flagDone f := by
  unfold Core.satisfied
  split
  · next f w => simp
  · next h => simpa using fun f w e => absurd e (h f w)

theorem satisfyWaits_none {t : State} (h : ∀ i ∈ (t.core c).items, (t.core c).satisfied i.kind = false) (n : Nat) : t.satisfyWaits n c = t := by
  cases n with
  | zero => rfl
  | succ n =>
    have hf : (t.core c).items.find? (fun i => i.failing.isNone && (t.core c).satisfied i.kind) = none :=
      List.find?_eq_none.mpr fun i hi => by simp [h i hi]
    rw [State.satisfyWaits, hf]

theorem satisfyWaits_last {t : State} {l : List Item} {j : Item} (hl : (t.core c).items = l ++ [j])
    (h : ∀ i ∈ l, (t.core c).satisfied i.kind = false) (hj : (t.core c).satisfied j.kind = true) (hf : j.failing = none) :
    t.satisfyWaits 1 c = t.endItem c j none := by
  have hfind : (t.core c).items.find? (fun i => i.failing.isNone && (t.core c).satisfied i.kind) = some j := by
    rw [hl, List.find?_append, List.find?_eq_none.mpr fun i hi => by simp [h i hi]]
    simp [hj, hf]
  rw [State.satisfyWaits, hfind]
  rfl

/-- No `WAITF` entry among the items is satisfied. -/
def Unmet (k : Core) : Prop := ∀ i g w, i ∈ k.items → i.kind = .waitf g w → SMap.get 0 k.flagDone g < w

theorem Unmet.satisfied {k : Core} (h : Unmet k) {i : Item} (hi : i ∈ k.items) : k.satisfied i.kind = false := by
  rw [← Bool.not_eq_true, satisfied_iff]
  rintro ⟨g, w, e, hw⟩
  exact absurd (h i g w hi e) (by omega)

section Waits

variable (hq : s.cur = .thread c x) (hs : Stands s 1 .any) (hr : RegsReady s [srcS a, srcS b, srcS d])
  (hc : flagCheck (s.getS s.cur a) (s.getS s.cur b) = none) (hp : SMap.get 0 (s.core c).flagPushed (s.getS s.cur a).toNat ≠ 0)
  (hn : ¬ Full s c x (s.getS s.cur b).toNat) (hu : Unmet (s.core c))

include hq hs hr hc hp hn hu

theorem waitf_waits (h : SMap.get 0 (s.core c).flagDone (s.getS s.cur a).toNat < SMap.get 0 (s.core c).flagPushed (s.getS s.cur a).toNat) :
    Retires (.waitf d a b) s 1 (((fresh s).setCore c (withEntry (s.core c) (waitEntry s c x d a b))).setS s.cur d
      (BitVec.ofNat 64 (s.core c).nextSeq)) := by
  have hw := waitf_pushes hq hs hr hc hp hn
  rw [satisfyWaits_none] at hw
  · exact hw
  · rw [State.core_setCore_self]
    intro i hi
    rcases List.mem_append.mp hi with hi | hi
    · exact hu.satisfied hi
    · obtain rfl := List.mem_singleton.mp hi
      exact decide_eq_false (Nat.not_le.mpr h)

theorem waitf_ends (h : SMap.get 0 (s.core c).flagPushed (s.getS s.cur a).toNat ≤ SMap.get 0 (s.core c).flagDone (s.getS s.cur a).toNat) :
    Retires (.waitf d a b) s 1 ((((fresh s).setCore c (withEntry (s.core c) (waitEntry s c x d a b))).endItem c (waitEntry s c x d a b) none).setS
      s.cur d (BitVec.ofNat 64 (s.core c).nextSeq)) := by
  have hw := waitf_pushes hq hs hr hc hp hn
  rw [satisfyWaits_last (l := (s.core c).items) (j := waitEntry s c x d a b)] at hw
  · exact hw
  · rw [State.core_setCore_self]; rfl
  · rw [State.core_setCore_self]; exact fun i hi => hu.satisfied hi
  · rw [State.core_setCore_self]; exact decide_eq_true h
  · rfl

end Waits

/-! ### `ESTAT` -/

section Estat

/-- What `ESTAT` comes to once its registers are ready. -/
def estatRes (q : Seqr) (d a b : Reg) (s : State) : Res :=
  let x := s.getS q a
  let sel := s.getS q b
  let done (v : DWord) : Res := .retire ((s.setS q d v).holdFor q 2)
  if 3 < sel.toNat then .trap .illegal sel
  else if sel = 0 then
    if x = 0 ∨ (s.core q.core).nextSeq ≤ x.toNat then .trap .illegal x else done ((s.core q.core).itemStatus x.toNat)
  else if sel = 1 then
    if 5 < x.toNat then .trap .illegal x else done ((s.core q.core).engineStatus x.toNat)
  else if 1 < x.toNat then .trap .illegal x
  else
    let r := if sel = 2 then (s.thread q).vfr else (s.thread q).afr
    done (if x = 0 then r.dw0 else r.dw1)

theorem exec_estat : exec (.estat d a b) s = issue s 1 .any fun q s => s.ready q [srcS a, srcS b] [srcS d] (estatRes q d a b s) := rfl

variable (hq : s.cur = .thread c x) (hs : Stands s 1 .any) (hr : RegsReady s [srcS a, srcS b, srcS d])

include hs hr in
theorem estat_reads {v : DWord} (h : estatRes s.cur d a b (fresh s) = .retire (((fresh s).setS s.cur d v).holdFor s.cur 2)) :
    WritesSHeld (.estat d a b) s 1 d v 2 :=
  writesSHeld_of_issue _ exec_estat hs ((fresh_ready (srcs := [srcS a, srcS b]) (dests := [srcS d]) hr _).trans h)

include hs hr in
theorem estat_traps {v : DWord} (h : estatRes s.cur d a b (fresh s) = .trap .illegal v) : Traps (.estat d a b) s .illegal v :=
  traps_of_ready _ exec_estat rfl hs hr h

/-- The selector is beyond 3, or reads one of the three kinds of words. -/
theorem estatRes_bad (h : 3 < (s.getS s.cur b).toNat) : estatRes s.cur d a b (fresh s) = .trap .illegal (s.getS s.cur b) := by
  simp only [estatRes, fresh_getS, if_pos h]

include hq in
theorem estatRes_item (h : (s.getS s.cur b).toNat = 0) : estatRes s.cur d a b (fresh s) =
    if (s.getS s.cur a).toNat = 0 ∨ (s.core c).nextSeq ≤ (s.getS s.cur a).toNat then .trap .illegal (s.getS s.cur a)
    else .retire (((fresh s).setS s.cur d ((s.core c).itemStatus (s.getS s.cur a).toNat)).holdFor s.cur 2) := by
  have hb : s.getS s.cur b = 0 := BitVec.eq_of_toNat_eq h
  have ha : s.getS s.cur a = 0 ↔ (s.getS s.cur a).toNat = 0 := BitVec.toNat_inj.symm
  simp only [estatRes, fresh_getS, fresh_core, show s.cur.core = c by rw [hq]; rfl, hb, ha]
  rfl

include hq in
theorem estatRes_engine (h : (s.getS s.cur b).toNat = 1) : estatRes s.cur d a b (fresh s) =
    if 5 < (s.getS s.cur a).toNat then .trap .illegal (s.getS s.cur a)
    else .retire (((fresh s).setS s.cur d ((s.core c).engineStatus (s.getS s.cur a).toNat)).holdFor s.cur 2) := by
  have hb : s.getS s.cur b = 1 := BitVec.eq_of_toNat_eq h
  simp only [estatRes, fresh_getS, fresh_core, show s.cur.core = c by rw [hq]; rfl, hb]
  rfl

/-- The doubleword of a fault record. -/
def faultWord (r : FaultRec) (n : Nat) : DWord := if n = 0 then r.dw0 else r.dw1

include hq in
theorem estatRes_fault (h : (s.getS s.cur b).toNat = 2 ∨ (s.getS s.cur b).toNat = 3) : estatRes s.cur d a b (fresh s) =
    if 1 < (s.getS s.cur a).toNat then .trap .illegal (s.getS s.cur a)
    else .retire (((fresh s).setS s.cur d (faultWord (if (s.getS s.cur b).toNat = 2 then (s.ctx c x).vfr else (s.ctx c x).afr)
      (s.getS s.cur a).toNat)).holdFor s.cur 2) := by
  have ha : s.getS s.cur a = 0 ↔ (s.getS s.cur a).toNat = 0 := BitVec.toNat_inj.symm
  rcases h with h | h
  · have hb : s.getS s.cur b = 2 := BitVec.eq_of_toNat_eq h
    simp only [estatRes, fresh_getS, fresh_thread, thread_of hq, hb, ha]
    rfl
  · have hb : s.getS s.cur b = 3 := BitVec.eq_of_toNat_eq h
    simp only [estatRes, fresh_getS, fresh_thread, thread_of hq, hb, ha]
    rfl

end Estat

/-! ### What the status words read (R351, R352) -/

theorem itemStatus_of_find {k : Core} {n : Nat} {i : Item} (h : (k.items ++ k.saved).find? (fun i => i.seq == n) = some i) (hb : i.queue ≤ 5) :
    k.itemStatus n = BitVec.ofNat 64 ((if i.running then 2 ^ 61 else 0) + i.queue * 2 ^ 56 + n % 2 ^ 40) := by
  have hn : i.seq = n := by simpa using List.find?_some h
  rw [Core.itemStatus, h]
  dsimp only
  rw [Item.status, hn, Nat.mod_eq_of_lt (show i.queue < 16 by omega)]
  cases i.running <;> simp [bit]

theorem find?_items_none {k : Core} {n : Nat} (h : ∀ i ∈ k.items ++ k.saved, i.seq ≠ n) :
    (k.items ++ k.saved).find? (fun i => i.seq == n) = none :=
  List.find?_eq_none.mpr fun i hi => by simpa using h i hi

theorem itemStatus_of_ended {k : Core} {n : Nat} {w : DWord} (h : ∀ i ∈ k.items ++ k.saved, i.seq ≠ n)
    (hw : k.ended.find? (fun e => e.1 == n) = some (n, w)) : k.itemStatus n = w := by
  rw [Core.itemStatus, find?_items_none h, hw]

theorem itemStatus_expired {k : Core} {n : Nat} (h : ∀ i ∈ k.items ++ k.saved, i.seq ≠ n) (he : ∀ e ∈ k.ended, e.1 ≠ n) :
    k.itemStatus n = BitVec.ofNat 64 (2 ^ 60) := by
  rw [Core.itemStatus, find?_items_none h, List.find?_eq_none.mpr fun e h => by simpa using he e h]

theorem engineStatus_eq {k : Core} {n : Nat} (hc : (SMap.get {} k.queueStat n).cause < 256) (hl : k.inQueue n < 128)
    (p : Decidable (∃ i, i ∈ k.items ∧ i.queue = n ∧ i.running = true)) :
    k.engineStatus n = BitVec.ofNat 64 ((if ∃ i, i ∈ k.items ∧ i.queue = n ∧ i.running = true then 2 ^ 63 else 0) +
      k.inQueue n * 2 ^ 56 + (SMap.get {} k.queueStat n).cause * 2 ^ 48 + (if (SMap.get {} k.queueStat n).lastFail then 2 ^ 40 else 0) +
      (SMap.get {} k.queueStat n).lastSeq % 2 ^ 40) := by
  have hany : k.items.any (fun i => i.queue == n && i.running) = decide (∃ i, i ∈ k.items ∧ i.queue = n ∧ i.running = true) := by
    rw [Bool.eq_iff_iff]; simp
  rw [Core.engineStatus, hany, Nat.mod_eq_of_lt hc, Nat.mod_eq_of_lt hl]
  cases (SMap.get {} k.queueStat n).lastFail <;> by_cases h : ∃ i, i ∈ k.items ∧ i.queue = n ∧ i.running = true <;> simp [bit, h]

end Pushes

/-! ### O19 -/

theorem status_waitEntry {s : State} {c x : Nat} {d a b : Reg} (h : (s.getS s.cur b).toNat ≤ 5) :
    (waitEntry s c x d a b).status true false 0 =
      BitVec.ofNat 64 (2 ^ 63 + (s.getS s.cur b).toNat * 2 ^ 56 + (s.core c).nextSeq % 2 ^ 40) := by
  unfold waitEntry entryOf Item.status
  dsimp only
  rw [Nat.mod_eq_of_lt (show (s.getS s.cur b).toNat < 16 by omega)]
  simp [bit]

/-- A `WAITF` whose flag is done already leaves its status word and no entry. -/
theorem waitf_ended {s : State} {c x : Nat} {d a b : Reg} (hq : s.cur = .thread c x) (hs : Stands s 1 .any)
    (hr : RegsReady s [srcS a, srcS b, srcS d]) (hc : flagCheck (s.getS s.cur a) (s.getS s.cur b) = none) (hb : (s.getS s.cur b).toNat ≤ 5)
    (hp : SMap.get 0 (s.core c).flagPushed (s.getS s.cur a).toNat ≠ 0) (hn : ¬ Full s c x (s.getS s.cur b).toNat) (hu : Unmet (s.core c))
    (h : SMap.get 0 (s.core c).flagPushed (s.getS s.cur a).toNat ≤ SMap.get 0 (s.core c).flagDone (s.getS s.cur a).toNat)
    (hseq : ∀ i, i ∈ (s.core c).items ++ (s.core c).saved → i.seq < (s.core c).nextSeq) :
    ∃ u, exec (.waitf d a b) s = .next u ∧ BytesSame s u ∧ (∀ r, r ≠ d → u.getS s.cur r = s.getS s.cur r) ∧
      u.getS s.cur d = (if d = 0 then 0 else BitVec.ofNat 64 (s.core c).nextSeq) ∧ (u.core c).nextSeq = (s.core c).nextSeq + 1 ∧
      (u.core c).item (s.core c).nextSeq = none ∧ (u.core c).itemStatus (s.core c).nextSeq =
        BitVec.ofNat 64 (2 ^ 63 + (s.getS s.cur b).toNat * 2 ^ 56 + (s.core c).nextSeq % 2 ^ 40) := by
  obtain ⟨u, hx, ha⟩ := waitf_ends hq hs hr hc hp hn hu h
  let k1 := withEntry (s.core c) (waitEntry s c x d a b)
  have hbeside : Beside s ((fresh s).setCore c k1) := (beside_fresh s).trans (beside_setCore rfl rfl rfl rfl rfl)
  have hlists : ListsSame (afterDone k1 (waitEntry s c x d a b)) (u.core c) := by
    have he := listsSame_endItem (s := (fresh s).setCore c k1) (c := c) (i := waitEntry s c x d a b)
    rw [State.core_setCore_self] at he
    exact (he.trans (listsSame_setS _ c)).trans (listsSame_of_after ha c)
  have hget : ∀ r, u.getS s.cur r = if r = d then (if d = 0 then 0 else BitVec.ofNat 64 (s.core c).nextSeq) else s.getS s.cur r := by
    intro r
    rw [State.getS, ha.prog, getS_of_s (advance_rest _ _ _).1, State.setS, State.prog_setProg_self, getS_setProg_setS]
    refine congrArg (fun v => if r = d then _ else v) (getS_endItem.trans ?_)
    exact congrArg (fun p : Prog => p.getS r.toNat) (hbeside.progs s.cur)
  have hsaved : ∀ j ∈ k1.saved, j.seq ≠ (waitEntry s c x d a b).seq := fun j hj =>
    Nat.ne_of_lt (hseq j (List.mem_append_right _ hj))
  refine ⟨u, hx, ?_, fun r hne => by rw [hget, if_neg hne], by rw [hget, if_pos rfl], hlists.next, ?_, ?_⟩
  · exact bytesSame_trans (bytesSame_trans (bytesSame_trans hbeside.bytes bytesSame_endItem)
      (bytesSame_of (deviceSame_setProg _ s.cur _) (coresSame_setProg _ s.cur _))) (bytesSame_of_after ha)
  · rw [hlists.item]; exact item_afterDone k1 (waitEntry s c x d a b)
  · rw [hlists.itemStatus]; exact (itemStatus_afterDone hsaved).trans (status_waitEntry hb)

/-- Settles O19, by the checks of the operands, then the entry pushed, the entry that ends at once, and the words that `ESTAT` reads. -/
theorem queueFlagsAndStatus : Obligations.QueueFlagsAndStatus := by
  unfold Obligations.QueueFlagsAndStatus
  refine ⟨fun s c x d a b hq hs hr => ⟨fun h => flags_trap hq hs hr (flagCheck_flag h), fun hf h => flags_trap hq hs hr (flagCheck_queue hf h),
    fun hf hb => ?_⟩, fun s c x d a b hq hs hr => ?_⟩
  · have hc : flagCheck (s.getS s.cur a) (s.getS s.cur b) = none := flagCheck_none hf hb
    exact ⟨waitRes_fwd hq hs hr hc, fun h => ⟨sig_stalls hq hs hr hc h, fun hp => waitf_stalls hq hs hr hc hp h⟩,
      fun h => ⟨_, ⟨rfl, rfl, rfl, rfl, rfl, rfl, rfl, rfl⟩, sig_pushes hq hs hr hc h⟩,
      fun hn hp hu h => ⟨_, ⟨rfl, rfl, rfl, rfl, rfl, rfl, rfl, rfl⟩, waitf_waits hq hs hr hc hp hn hu h⟩,
      fun hn hp hu h hseq => waitf_ended hq hs hr hc hb hp hn hu h hseq⟩
  · refine ⟨fun h => estat_traps hs hr (estatRes_bad h),
      fun h hn => estat_traps hs hr ((estatRes_item hq h).trans (if_pos hn)),
      fun h hn => estat_traps hs hr ((estatRes_engine hq h).trans (if_pos hn)),
      fun h hn => estat_traps hs hr ((estatRes_fault hq h).trans (if_pos hn)), fun h h0 hn => ?_, fun h hn hcause hlen => ?_,
      fun h => ?_, fun h => ?_⟩
    · have hread := estat_reads hs hr ((estatRes_item (d := d) (a := a) hq h).trans (if_neg (by omega)))
      exact ⟨fun i hi hqu => itemStatus_of_find hi hqu ▸ hread, fun hno => ⟨fun w hw => itemStatus_of_ended hno hw ▸ hread,
        fun he => itemStatus_expired hno he ▸ hread⟩⟩
    · have hread := estat_reads hs hr ((estatRes_engine (d := d) (a := a) hq h).trans (if_neg (by omega)))
      rw [engineStatus_eq hcause hlen] at hread
      exact hread
    · have hread := fun hn => estat_reads hs hr ((estatRes_fault (d := d) (a := a) hq (Or.inl h)).trans (if_neg hn))
      rw [if_pos h] at hread
      exact ⟨fun hn => by rw [hn] at hread; exact hread (by omega), fun hn => by rw [hn] at hread; exact hread (by omega)⟩
    · have hread := fun hn => estat_reads hs hr ((estatRes_fault (d := d) (a := a) hq (Or.inr h)).trans (if_neg hn))
      rw [if_neg (by omega)] at hread
      exact ⟨fun hn => by rw [hn] at hread; exact hread (by omega), fun hn => by rw [hn] at hread; exact hread (by omega)⟩

end Sys2Proof.Proofs.Flags
end

section
/-! PROOFS. The lanes of the vector engine (R158 to R165): elements of a register, guards, issue, and the commit of results. -/

namespace Sys2Proof.Proofs.Lanes

open Sys2Proof.Machine
open Sys2Proof.Safety
open Sys2Proof.Proofs.Traps
open Sys2Proof.Proofs.Groups

/-! ### Elements of a register (R160) -/

section Elements

variable {w : Nat}

theorem velem_lt (v : VReg) (w i : Nat) : velem v w i < 2 ^ w := Nat.mod_lt _ (Nat.two_pow_pos w)

theorem natOfElems_lt (xs : List Nat) : natOfElems w xs < 2 ^ (w * xs.length) := by
  induction xs with
  | nil => exact Nat.zero_lt_one
  | cons x xs ih =>
    show x % 2 ^ w + 2 ^ w * natOfElems w xs < 2 ^ (w * (xs.length + 1))
    rw [Nat.mul_succ, Nat.pow_add, Nat.mul_comm (2 ^ (w * xs.length))]
    calc x % 2 ^ w + 2 ^ w * natOfElems w xs < 2 ^ w + 2 ^ w * natOfElems w xs := by
          have := Nat.mod_lt x (Nat.two_pow_pos w)
          omega
      _ = 2 ^ w * (natOfElems w xs + 1) := by ring
      _ ≤ 2 ^ w * 2 ^ (w * xs.length) := Nat.mul_le_mul_left _ ih

theorem natOfElems_div_mod (xs : List Nat) {i : Nat} (h : i < xs.length) : natOfElems w xs / 2 ^ (w * i) % 2 ^ w = xs[i] % 2 ^ w := by
  induction xs generalizing i with
  | nil => exact absurd h (Nat.not_lt_zero _)
  | cons x xs ih =>
    show (x % 2 ^ w + 2 ^ w * natOfElems w xs) / 2 ^ (w * i) % 2 ^ w = _
    cases i with
    | zero => rw [Nat.mul_zero, Nat.pow_zero, Nat.div_one, Nat.add_mul_mod_self_left, Nat.mod_mod]; rfl
    | succ i =>
      rw [Nat.mul_succ, Nat.add_comm (w * i) w, Nat.pow_add, ← Nat.div_div_eq_div_mul, Nat.add_mul_div_left _ _ (Nat.two_pow_pos w),
        Nat.div_eq_of_lt (Nat.mod_lt _ (Nat.two_pow_pos w)), Nat.zero_add]
      exact ih (Nat.lt_of_succ_lt_succ h)

/-- A register of as many elements as it holds has them. -/
theorem velem_natOfElems {xs : List Nat} (hl : w * xs.length ≤ 8192) {i : Nat} (h : i < xs.length) :
    velem (BitVec.ofNat 8192 (natOfElems w xs)) w i = xs[i] % 2 ^ w := by
  rw [velem, BitVec.toNat_ofNat, Nat.mod_eq_of_lt (Nat.lt_of_lt_of_le (natOfElems_lt xs) (Nat.pow_le_pow_right Nat.two_pos hl))]
  exact natOfElems_div_mod xs h

/-- A bit of an element is a bit of the register. -/
theorem testBit_velem (v : VReg) (i : Nat) {k : Nat} (hk : k < w) : (velem v w i).testBit k = v.getLsbD (w * i + k) := by
  rw [velem, Nat.testBit_mod_two_pow, Nat.testBit_div_two_pow, decide_eq_true hk, Bool.true_and, BitVec.getLsbD, Nat.add_comm]

theorem laneOn_eq {s : State} {lw : LW} {j : Nat} (hk : lw.gbit.toNat < w) :
    laneOn lw (s.getV s.cur lw.greg) w j = laneEnabled s lw w j := by
  rw [laneOn, laneEnabled, ← testBit_velem _ _ hk, Nat.testBit_eq_decide_div_mod_eq]
  rfl

end Elements

/-! ### Issue (R159, R162) -/

section Issue

variable {i : Instr} {s : State} {lw : LW} {srcs dests : List Src} {dp w : Nat} {body : Seqr → State → Res}

/-- The state in which the body of a vector instruction runs. -/
def laned (s : State) (dp : Nat) : State := (fresh s).occupyLanes s.cur.core dp

theorem beside_laned (s : State) (dp : Nat) : Beside s (laned s dp) := (beside_fresh s).trans (beside_setCore rfl rfl rfl rfl rfl)

@[simp] theorem prog_laned (s : State) (dp : Nat) (q : Seqr) : (laned s dp).prog q = s.prog q := (beside_laned s dp).progs q
@[simp] theorem getS_laned (s : State) (dp : Nat) (q : Seqr) (r : Reg) : (laned s dp).getS q r = s.getS q r :=
  congrArg (fun p : Prog => p.getS r.toNat) (prog_laned s dp q)
@[simp] theorem now_laned (s : State) (dp : Nat) : (laned s dp).now = s.now := rfl

theorem core_laned (s : State) (dp c : Nat) :
    (laned s dp).core c = if c = s.cur.core then { s.core s.cur.core with laneFree := s.now + dp } else s.core c :=
  State.core_setCore (fresh s) s.cur.core c _

@[simp] theorem ctx_laned (s : State) (dp c x : Nat) : (laned s dp).ctx c x = s.ctx c x :=
  (ctx_setCore_same (s := fresh s) (k := { s.core s.cur.core with laneFree := s.now + dp }) rfl c x).trans (fresh_ctx s c x)

@[simp] theorem slot_laned (s : State) (dp c k : Nat) : (laned s dp).slot c k = s.slot c k := by
  simp only [State.slot, core_laned]
  split
  · next e => rw [e]
  · rfl

@[simp] theorem arc_laned (s : State) (dp c : Nat) : (laned s dp).arc c = s.arc c := by
  simp only [State.arc, core_laned]
  split
  · next e => rw [e]
  · rfl

@[simp] theorem ownerCtx_laned (s : State) (dp : Nat) (q : Seqr) : (laned s dp).ownerCtx q = s.ownerCtx q := by
  cases q with
  | thread c x => rfl
  | vec c k => exact congrArg (fun v : VSlot => v.owner.getD 0) (slot_laned s dp c k)
  | arc c => exact congrArg (fun v : Arc => v.owner.getD 0) (arc_laned s dp c)

@[simp] theorem thread_laned (s : State) (dp : Nat) (q : Seqr) : (laned s dp).thread q = s.thread q := by
  rw [State.thread, ownerCtx_laned, ctx_laned]
  rfl

@[simp] theorem getV_laned (s : State) (dp : Nat) (q : Seqr) (r : Reg) : (laned s dp).getV q r = s.getV q r := by
  simp only [State.getV, thread_laned]

theorem vecReady_mono {xs ys : List Src} (h : VecReady s lw w xs) (hs : ∀ y ∈ ys, y ∈ xs) : VecReady s lw w ys :=
  ⟨h.runs, h.stands, fun y hy => h.regs y ((List.mem_append.mp hy).elim (fun hy => List.mem_append_left _ (hs y hy))
    (fun hy => List.mem_append_right _ hy)), h.lanes, h.gbit⟩

/-- A vector instruction that is ready runs its body. -/
theorem issue_of_vecReady (hi : exec i s = vecIssue s lw srcs dests dp body) (hr : VecReady s lw w (srcs ++ dests)) {r : Res}
    (hb : body s.cur (laned s dp) = r) (hn : ∀ f, r ≠ .stop f) : exec i s = .next (finish s.cur (fresh s) 2 r) := by
  have hguard : RegsReady s ((if lw.g then [srcV lw.greg] else []) ++ []) := fun y hy =>
    hr.regs y (List.mem_append_right _ (by simpa using hy))
  rw [hi]
  refine issue_eq hr.stands ?_ hn
  refine (fresh_ready hguard _).trans ((fresh_ready (fun y hy => hr.regs y (List.mem_append_left _ hy)) _).trans ?_)
  exact (if_neg (Nat.not_lt.mpr hr.lanes)).trans hb

end Issue

/-! ### Commit (R165) -/

section Commit

variable {i : Instr} {s : State} {lw : LW} {srcs dests : List Src} {dp lat w v : Nat} {body : Seqr → State → Res} {d : Reg} {fl : Flags}

theorem zx64_eq {n : Nat} (v : BitVec n) (h : n ≤ 64) : zx64 v = BitVec.ofNat 64 v.toNat := by
  apply BitVec.eq_of_toNat_eq
  rw [zx64, BitVec.toNat_setWidth, BitVec.toNat_ofNat]

/-- What a commit leaves where no enabled flag is raised. -/
def committed (s : State) (dp lat : Nat) (isVec : Bool) (d : Reg) (v : Nat) (fl : Flags) : State :=
  if isVec = false ∧ d = 0 then (laned s dp).orFsr s.cur fl else
    ((laned s dp).orFsr s.cur fl).addResult s.cur ⟨isVec, d.toNat, v, s.now + lat, false, fl, 0, (s.prog s.cur).pc, (s.prog s.cur).pend, none⟩

theorem vecCommit_laned (isVec : Bool) : vecCommit s.cur (laned s dp) isVec d.toNat v fl lat =
    if fl &&& (s.thread s.cur).fte.setWidth 8 ≠ 0 then
      .trapAt ((laned s dp).orFsr s.cur fl) .fpx (BitVec.ofNat 64 (fl &&& (s.thread s.cur).fte.setWidth 8).toNat) (s.prog s.cur).pc
        (s.prog s.cur).pend
    else .retire (committed s dp lat isVec d v fl) := by
  have hd : (!isVec && d.toNat == 0) = decide (isVec = false ∧ d = 0) := by
    have hz : d.toNat = 0 ↔ d = 0 := by rw [← BitVec.toNat_inj]; rfl
    rw [Bool.eq_iff_iff]
    simp [hz]
  rw [← zx64_eq _ (by decide), vecCommit, thread_laned, prog_laned, hd]
  refine ite_congr rfl (fun _ => rfl) fun _ => ?_
  unfold committed
  by_cases h : isVec = false ∧ d = 0
  · rw [if_pos (decide_eq_true h), if_pos h]
  · rw [if_neg (by simpa using h), if_neg h]
    rfl

/-- An instruction that commits does so as `VecCommits` says. -/
theorem vecCommits_of (hi : exec i s = vecIssue s lw srcs dests dp body) (hr : VecReady s lw w (srcs ++ dests)) {isVec : Bool} {ok : Nat → Prop}
    (hb : body s.cur (laned s dp) = vecCommit s.cur (laned s dp) isVec d.toNat v fl lat) (hv : ok v) :
    VecCommits i s isVec d dp lat ok fl := by
  rw [vecCommit_laned] at hb
  constructor
  · intro h0
    rw [if_neg (not_not_intro h0)] at hb
    exact ⟨v, hv, _, issue_of_vecReady hi hr hb (fun _ => Res.noConfusion), after_finish s _ _ 2 (fresh_prog s _)⟩
  · intro h1
    rw [if_pos h1] at hb
    exact issue_of_vecReady hi hr hb (fun _ => Res.noConfusion)

end Commit

/-! ### Lane-wise results (R161, R165) -/

section Results

variable {i : Instr} {s : State} {lw : LW} {srcs dests : List Src} {dp lat w : Nat} {d : Reg} {f : Nat → Nat × Flags}

/-- The number and the flags that a lane-wise instruction comes to. -/
def laneOut (s : State) (lw : LW) (w : Nat) (d : Reg) (f : Nat → Nat × Flags) : Nat × Flags :=
  laneResults lw (s.getV s.cur lw.greg) (s.getV s.cur d) w f

theorem foldl_map_flags {α : Type} (l : List α) (g : α → Nat × Flags) (a : Flags) :
    (l.map g).foldl (fun a r => a ||| r.2) a = l.foldl (fun a x => a ||| (g x).2) a := List.foldl_map ..

/-- The widths of R160 divide the register. -/
theorem width_mul_lanes (h : w ∣ 8192) : w * (8192 / w) = 8192 := Nat.mul_div_cancel' h

theorem lanesHold_laneOut (hk : lw.gbit.toNat < w) (hw : w ∣ 8192) : lanesHold s lw w d (fun j => (f j).1) (laneOut s lw w d f).1 := by
  intro j hj
  have hlen : j < (((List.range (lanesOf w)).map (fun i => if laneOn lw (s.getV s.cur lw.greg) w i then f i
      else (velem (s.getV s.cur d) w i, (0 : Flags)))).map Prod.fst).length := by simpa [lanesOf] using hj
  refine (velem_natOfElems (by simp [lanesOf, width_mul_lanes hw]) hlen).trans ?_
  simp only [List.getElem_map, List.getElem_range, laneOn_eq hk]
  split
  · rfl
  · exact Nat.mod_eq_of_lt (velem_lt _ _ _)

theorem laneFlags_laneOut (hk : lw.gbit.toNat < w) : (laneOut s lw w d f).2 = laneFlags s lw w (8192 / w) (fun j => (f j).2) := by
  refine (foldl_map_flags _ _ _).trans ?_
  refine List.foldl_ext _ _ _ fun a j _ => ?_
  rw [laneOn_eq hk]
  split
  · rfl
  · exact BitVec.or_zero

/-- A pipelined lane-wise instruction writes the results of its lanes. -/
theorem vecWrites_of {g : Seqr → State → Nat → Nat × Flags} (hi : exec i s = vecLanes s d lw w srcs dests dp lat g)
    (hr : VecReady s lw w (srcs ++ dests ++ [srcV d])) (hw : w ∣ 8192) (hg : ∀ j, g s.cur (laned s dp) j = f j) :
    VecWrites i s lw d w dp lat f := by
  have hout : laneResults lw ((laned s dp).getV s.cur lw.greg) ((laned s dp).getV s.cur d) w (g s.cur (laned s dp)) = laneOut s lw w d f := by
    rw [getV_laned, getV_laned, funext hg, laneOut]
  unfold VecWrites
  rw [← laneFlags_laneOut hr.gbit]
  refine vecCommits_of hi hr ?_ (lanesHold_laneOut hr.gbit hw)
  dsimp only
  rw [hout]

/-- As `vecWrites_of`, where the results agree as patterns of the width. -/
theorem vecWrites_congr {g : Nat → Nat × Flags} (h : ∀ j, (f j).1 % 2 ^ w = (g j).1 % 2 ^ w ∧ (f j).2 = (g j).2)
    (hv : VecWrites i s lw d w dp lat f) : VecWrites i s lw d w dp lat g := by
  have h2 : (fun j => (f j).2) = fun j => (g j).2 := funext fun j => (h j).2
  have h1 : ∀ v, lanesHold s lw w d (fun j => (f j).1) v → lanesHold s lw w d (fun j => (g j).1) v := fun v hv j hj => by
    rw [hv j hj]
    split
    · exact (h j).1
    · rfl
  unfold VecWrites at hv ⊢
  rw [← h2]
  obtain ⟨hret, htrap⟩ := hv
  exact ⟨fun h0 => (hret h0).imp fun v hv => ⟨h1 v hv.1, hv.2⟩, htrap⟩

/-- A pipelined lane-wise instruction writes what agrees with the results of its lanes. -/
theorem vecWrites_of_mod {g : Seqr → State → Nat → Nat × Flags} (hi : exec i s = vecLanes s d lw w srcs dests dp lat g)
    (hr : VecReady s lw w (srcs ++ dests ++ [srcV d])) (hw : w ∣ 8192)
    (hg : ∀ j, (g s.cur (laned s dp) j).1 % 2 ^ w = (f j).1 % 2 ^ w ∧ (g s.cur (laned s dp) j).2 = (f j).2) :
    VecWrites i s lw d w dp lat f :=
  vecWrites_congr hg (vecWrites_of hi hr hw fun _ => rfl)

end Results

end Sys2Proof.Proofs.Lanes
end

section
/-! PROOFS. The integer lane instructions (R177). -/

namespace Sys2Proof.Proofs.IntegerLanes

open Sys2Proof.Machine
open Sys2Proof.Safety
open Sys2Proof.Proofs.Lanes
open Sys2Proof.Proofs.Scratchpad

/-! ### The formats -/

/-- The width of an integer format. -/
def widthOf (fn : Reg) : Nat := if fn.toNat < 2 then 8 else if fn.toNat < 4 then 16 else if fn.toNat < 6 then 32 else 64

theorem vwidth_eq {fn : Reg} (h : fn.toNat ≤ 6) : Fmt.vwidth fn = widthOf fn := by
  unfold Fmt.vwidth widthOf
  generalize fn.toNat = n at h
  interval_cases n <;> rfl

theorem isSigned_eq {fn : Reg} (h : fn.toNat ≤ 6) (y : BitVec 6) : Fmt.isSigned fn y = (fn.toNat % 2 == 0 && !y.getLsbD 0) := by
  unfold Fmt.isSigned
  generalize fn.toNat = n at h
  interval_cases n <;> rfl

theorem widthOf_dvd (fn : Reg) : widthOf fn ∣ 8192 := by
  unfold widthOf
  split_ifs <;> decide

theorem widthOf_pos (fn : Reg) : 0 < widthOf fn := by
  unfold widthOf
  split_ifs <;> decide

/-! ### Patterns of a width -/

section Patterns

variable {w x y : Nat}

theorem patternOf_eq (w : Nat) (z : Int) : patternOf w z = (z % 2 ^ w).toNat := by simp [patternOf]

theorem patternOf_lt (w : Nat) (z : Int) : patternOf w z < 2 ^ w := by
  have hp : (0 : Int) < 2 ^ w := by positivity
  have h1 := Int.emod_lt_of_pos z hp
  have h0 := Int.emod_nonneg z hp.ne'
  rw [patternOf_eq, Int.toNat_lt h0]
  exact_mod_cast h1

theorem mod_patternOf (w : Nat) (z : Int) : patternOf w z % 2 ^ w = (z % 2 ^ w).toNat := by
  rw [Nat.mod_eq_of_lt (patternOf_lt w z), patternOf_eq]

theorem toNat_emod_mod (w : Nat) (z : Int) : (z % 2 ^ w).toNat % 2 ^ w = (z % 2 ^ w).toNat := by
  rw [← patternOf_eq, Nat.mod_eq_of_lt (patternOf_lt w z)]

theorem sub_pattern (hx : x < 2 ^ w) (hy : y < 2 ^ w) : (x + 2 ^ w - y) % 2 ^ w = (((x : Int) - y) % 2 ^ w).toNat := by
  have h : (((x + 2 ^ w - y : Nat) : Int)) = (x : Int) - y + 2 ^ w := by
    rw [Nat.cast_sub (by omega)]
    push_cast
    ring
  have h2 : (((x + 2 ^ w - y) % 2 ^ w : Nat) : Int) = ((x : Int) - y) % 2 ^ w := by
    push_cast
    rw [h, Int.add_emod_right]
  rw [← h2, Int.toNat_natCast]

/-- The high half of a product, from its pattern of the double width. -/
theorem high_pattern (w : Nat) (z : Int) : patternOf (2 * w) z / 2 ^ w % 2 ^ w = (z / 2 ^ w % 2 ^ w).toNat := by
  have hp : (0 : Int) < 2 ^ w := by positivity
  have h2 : ((2 : Int) ^ (2 * w)) = 2 ^ w * 2 ^ w := by rw [two_mul, pow_add]
  have hz : ((patternOf (2 * w) z : Nat) : Int) = z % (2 ^ w * 2 ^ w) := by
    rw [patternOf_eq, Int.toNat_of_nonneg (Int.emod_nonneg _ (by positivity)), h2]
  have h : ((patternOf (2 * w) z / 2 ^ w % 2 ^ w : Nat) : Int) = z / 2 ^ w % 2 ^ w := by
    push_cast
    rw [hz, Int.emod_def z, mul_assoc, sub_eq_add_neg, ← mul_neg, Int.add_mul_ediv_left _ _ hp.ne', ← mul_neg, Int.add_mul_emod_self_left]
  rw [← h, Int.toNat_natCast]

variable (w) in
/-- An element read as a number, signed or not. -/
def valOf (sg : Bool) (n : Nat) : Int := if sg then (if n < 2 ^ (w - 1) then (n : Int) else (n : Int) - 2 ^ w) else n

theorem intOf_eq (hx : x < 2 ^ w) (sg : Bool) : intOf w sg x = valOf w sg x := by
  unfold intOf valOf
  rw [signedOf_eq hx, Nat.mod_eq_of_lt hx]

theorem valOf_inj (hx : x < 2 ^ w) (hy : y < 2 ^ w) {sg : Bool} (h : valOf w sg x = valOf w sg y) : x = y := by
  have hxz : ((x : Nat) : Int) < 2 ^ w := by exact_mod_cast hx
  have hyz : ((y : Nat) : Int) < 2 ^ w := by exact_mod_cast hy
  unfold valOf at h
  split_ifs at h <;> omega

end Patterns

/-! ### The instructions -/

section Instructions

variable {i : Instr} {s : State} {d a b fn : Reg} {lw : LW}

/-- The sign of a format with its `.n64` bit. -/
def signOf (fn : Reg) (lw : LW) : Bool := fn.toNat % 2 == 0 && !lw.y.getLsbD 0

/-- A two-source instruction writes, in each lane, what its operation agrees with on elements of the width. -/
theorem vecWrites_vecI2 (hn : fn.toNat ≤ 6) (hr : VecReady s lw (widthOf fn) [srcV a lw.ta, srcV b lw.tb, srcV d])
    {op : Nat → Bool → Nat → Nat → Nat × Flags} {g : Nat → Nat → Nat × Flags} (hi : exec i s = vecI2 s d a b fn lw op)
    (h : ∀ x y, x < 2 ^ widthOf fn → y < 2 ^ widthOf fn → (op (widthOf fn) (signOf fn lw) x y).1 % 2 ^ widthOf fn = (g x y).1 % 2 ^ widthOf fn ∧
      (op (widthOf fn) (signOf fn lw) x y).2 = (g x y).2) :
    VecWrites i s lw d (widthOf fn) 2 4 fun j =>
      g (velem (s.getV s.cur a) (widthOf fn) j) (velem (s.getV s.cur b) (widthOf fn) j) := by
  refine vecWrites_congr (f := fun j => op (widthOf fn) (signOf fn lw) (velem (s.getV s.cur a) (widthOf fn) j)
    (velem (s.getV s.cur b) (widthOf fn) j)) (fun j => h _ _ (velem_lt _ _ _) (velem_lt _ _ _)) ?_
  have hi' : exec i s = vecLanes s d lw (widthOf fn) [srcV a lw.ta, srcV b lw.tb] [] 2 4 fun q s i =>
      op (widthOf fn) (signOf fn lw) (velem (s.getV q a) (widthOf fn) i) (velem (s.getV q b) (widthOf fn) i) := by
    rw [hi, vecI2, vwidth_eq hn, isSigned_eq hn, signOf]
  exact vecWrites_of hi' hr (widthOf_dvd fn) fun j => by simp only [getV_laned]

/-- An operation without flags writes its results modulo the width. -/
theorem vecWrites_noFlag (hn : fn.toNat ≤ 6) (hr : VecReady s lw (widthOf fn) [srcV a lw.ta, srcV b lw.tb, srcV d])
    {op : Nat → Bool → Nat → Nat → Nat} {g : Nat → Nat → Nat} (hi : exec i s = vecI2 s d a b fn lw (noFlag op))
    (h : ∀ x y, x < 2 ^ widthOf fn → y < 2 ^ widthOf fn → op (widthOf fn) (signOf fn lw) x y % 2 ^ widthOf fn = g x y % 2 ^ widthOf fn) :
    VecWrites i s lw d (widthOf fn) 2 4 fun j =>
      (g (velem (s.getV s.cur a) (widthOf fn) j) (velem (s.getV s.cur b) (widthOf fn) j), 0) :=
  vecWrites_vecI2 hn hr (g := fun x y => (g x y, 0)) hi fun x y hx hy => ⟨(Nat.mod_mod _ _).trans (h x y hx hy), rfl⟩

/-- A one-source operation without flags writes its results modulo the width. -/
theorem vecWrites_one (hn : fn.toNat ≤ 6) (hr : VecReady s lw (widthOf fn) [srcV a lw.ta, srcV d]) {op : Nat → Nat → Nat} {g : Nat → Nat}
    (hi : exec i s = vecLanes s d lw (Fmt.vwidth fn) [srcV a lw.ta] [] 2 4 fun q s i => (op (Fmt.vwidth fn) (velem (s.getV q a) (Fmt.vwidth fn) i), 0))
    (h : ∀ x, x < 2 ^ widthOf fn → op (widthOf fn) x % 2 ^ widthOf fn = g x % 2 ^ widthOf fn) :
    VecWrites i s lw d (widthOf fn) 2 4 fun j => (g (velem (s.getV s.cur a) (widthOf fn) j), 0) := by
  rw [vwidth_eq hn] at hi
  refine vecWrites_congr (f := fun j => (op (widthOf fn) (velem (s.getV s.cur a) (widthOf fn) j), 0))
    (fun j => ⟨h _ (velem_lt _ _ _), rfl⟩) ?_
  exact vecWrites_of hi hr (widthOf_dvd fn) fun j => by simp only [getV_laned]

theorem intRange_eq (sg : Bool) (w : Nat) : intRange sg w =
    (if sg then -2 ^ (w - 1) else 0, if sg then 2 ^ (w - 1) - 1 else 2 ^ w - 1) := by
  cases sg <;> simp [intRange]

/-- A sum clamped to the range of its format (R177). -/
def clamped (w : Nat) (sg : Bool) (z : Int) : Nat × Flags :=
  if z < (if sg then -2 ^ (w - 1) else 0) then (((if sg then -2 ^ (w - 1) else 0 : Int) % 2 ^ w).toNat, Flags.sat)
  else if (if sg then 2 ^ (w - 1) - 1 else 2 ^ w - 1) < z then (((if sg then 2 ^ (w - 1) - 1 else 2 ^ w - 1 : Int) % 2 ^ w).toNat, Flags.sat)
  else ((z % 2 ^ w).toNat, 0)

theorem intOfInt_clamps (sg : Bool) (w : Nat) (z : Int) : intOfInt sg w true z = clamped w sg z := by
  unfold intOfInt clamped
  rw [intRange_eq]
  dsimp only
  generalize (if sg then -2 ^ (w - 1) else 0 : Int) = lo
  generalize (if sg then 2 ^ (w - 1) - 1 else 2 ^ w - 1 : Int) = hi
  by_cases h1 : z < lo
  · simp [h1, patternOf_eq]
  · by_cases h2 : hi < z
    · simp [h1, h2, patternOf_eq]
    · simp [h1, h2, patternOf_eq]

end Instructions

/-- Settles O21: each instruction is `vecLanes` of its operation, which agrees with R177 on elements of the width. -/
theorem integerLanes : Obligations.IntegerLanes := by
  unfold Obligations.IntegerLanes
  intro s d a b fn lw hn
  refine ⟨fun hr => ⟨vecWrites_one hn hr (g := fun x => (if x < 2 ^ (widthOf fn - 1) then (x : Int) else x - 2 ^ widthOf fn).natAbs)
      (op := fun w x => (signedOf w x).natAbs % 2 ^ w) rfl fun x hx => by rw [signedOf_eq hx, Nat.mod_mod],
    vecWrites_one hn hr (g := fun x => (List.range (widthOf fn)).countP (fun k => x.testBit k))
      (op := fun w x => ((List.range w).filter (fun k => x.testBit k)).length) rfl
      fun _ _ => congrArg (· % 2 ^ widthOf fn) List.countP_eq_length_filter.symm⟩,
    fun hr => ⟨?_, ?_, ?_, ?_, ?_, ?_, ?_, ?_, ?_, ?_, ?_, ?_, ?_⟩⟩
  · exact vecWrites_noFlag hn hr (g := fun x y => x + y) rfl fun _ _ _ _ => rfl
  · exact vecWrites_noFlag hn hr (g := fun x y => (((x : Int) - y) % 2 ^ widthOf fn).toNat) rfl fun x y hx hy => by
      rw [sub_pattern hx hy, toNat_emod_mod]
  · exact vecWrites_noFlag hn hr (g := fun x y => x * y) rfl fun _ _ _ _ => rfl
  · exact vecWrites_noFlag hn hr (g := fun x y => (valOf (widthOf fn) (signOf fn lw) x * valOf (widthOf fn) (signOf fn lw) y / 2 ^ widthOf fn %
      2 ^ widthOf fn).toNat) rfl fun x y hx hy => by rw [intOf_eq hx, intOf_eq hy, high_pattern, toNat_emod_mod]
  · exact vecWrites_noFlag hn hr (g := fun x y => x &&& y) rfl fun _ _ _ _ => rfl
  · exact vecWrites_noFlag hn hr (g := fun x y => x ||| y) rfl fun _ _ _ _ => rfl
  · exact vecWrites_noFlag hn hr (g := fun x y => x ^^^ y) rfl fun _ _ _ _ => rfl
  · exact vecWrites_noFlag hn hr (g := fun x y => x * 2 ^ (y % widthOf fn)) rfl fun _ _ _ _ => rfl
  · exact vecWrites_noFlag hn hr (g := fun x y => x / 2 ^ (y % widthOf fn)) rfl fun _ _ _ _ => rfl
  · exact vecWrites_noFlag hn hr (g := fun x y => ((if x < 2 ^ (widthOf fn - 1) then (x : Int) else x - 2 ^ widthOf fn) / 2 ^ (y % widthOf fn) %
      2 ^ widthOf fn).toNat) rfl fun x y hx hy => by rw [mod_patternOf, signedOf_eq hx, toNat_emod_mod]; push_cast; rfl
  · exact vecWrites_noFlag hn hr (g := fun x y => if valOf (widthOf fn) (signOf fn lw) x ≤ valOf (widthOf fn) (signOf fn lw) y then x else y) rfl
      fun x y hx hy => by rw [intOf_eq hx, intOf_eq hy]
  · refine vecWrites_noFlag hn hr (g := fun x y => if valOf (widthOf fn) (signOf fn lw) x ≤ valOf (widthOf fn) (signOf fn lw) y then y else x) rfl
      fun x y hx hy => ?_
    rw [intOf_eq hx, intOf_eq hy]
    rcases lt_trichotomy (valOf (widthOf fn) (signOf fn lw) x) (valOf (widthOf fn) (signOf fn lw) y) with h | h | h
    · rw [if_neg (not_le.mpr h), if_pos h.le]
    · rw [valOf_inj hx hy h]
    · rw [if_pos h.le, if_neg (not_le.mpr h)]
  · refine vecWrites_vecI2 hn hr (op := fun w sg x y => intOfInt sg w true (intOf w sg x + intOf w sg y))
      (g := fun x y => clamped (widthOf fn) (signOf fn lw) (valOf (widthOf fn) (signOf fn lw) x + valOf (widthOf fn) (signOf fn lw) y)) rfl
      fun x y hx hy => ?_
    rw [intOf_eq hx, intOf_eq hy, intOfInt_clamps]
    exact ⟨rfl, rfl⟩

end Sys2Proof.Proofs.IntegerLanes
end

section
/-! PROOFS. The vector moves, and the random bits and tie hashes (R184, R185, R192, R193). -/

namespace Sys2Proof.Proofs.VectorMoves

open Sys2Proof.Machine
open Sys2Proof.Safety
open Sys2Proof.Proofs.Lanes
open Sys2Proof.Proofs.Scratchpad

/-! ### Philox (R192) -/

section Philox

/-- Four words read as the numbers given. -/
def Words (x : BitVec 32 × BitVec 32 × BitVec 32 × BitVec 32) (y : Nat → Nat) : Prop :=
  x.1.toNat = y 0 ∧ x.2.1.toNat = y 1 ∧ x.2.2.1.toNat = y 2 ∧ x.2.2.2.toNat = y 3

/-- Two key words read as the numbers given. -/
def Keys (k : BitVec 32 × BitVec 32) (y : Nat → Nat) : Prop := k.1.toNat = y 0 ∧ k.2.toNat = y 1

theorem toNat_product {c : DWord} (hc : c.toNat < 2 ^ 32) (x : BitVec 32) : (c * x.setWidth 64).toNat = c.toNat * x.toNat := by
  have hx := x.isLt
  have hlt : c.toNat * x.toNat < 2 ^ 64 := by
    calc c.toNat * x.toNat < 2 ^ 32 * 2 ^ 32 := Nat.mul_lt_mul'' hc hx
      _ = 2 ^ 64 := by norm_num
  rw [BitVec.toNat_mul, BitVec.toNat_setWidth, Nat.mod_eq_of_lt (show x.toNat < 2 ^ 64 by omega), Nat.mod_eq_of_lt hlt]

theorem toNat_high {c : DWord} (hc : c.toNat < 2 ^ 32) (x : BitVec 32) :
    ((c * x.setWidth 64).extractLsb' 32 32).toNat = c.toNat * x.toNat / 2 ^ 32 := by
  have hlt : c.toNat * x.toNat < 2 ^ 32 * 2 ^ 32 := Nat.mul_lt_mul'' hc x.isLt
  rw [BitVec.extractLsb'_toNat, toNat_product hc, Nat.shiftRight_eq_div_pow, Nat.mod_eq_of_lt (Nat.div_lt_of_lt_mul hlt)]

theorem toNat_low {c : DWord} (hc : c.toNat < 2 ^ 32) (x : BitVec 32) :
    ((c * x.setWidth 64).extractLsb' 0 32).toNat = c.toNat * x.toNat % 2 ^ 32 := by
  rw [BitVec.extractLsb'_toNat, toNat_product hc, Nat.shiftRight_zero]

/-- A round of R192 on numbers. -/
def RoundOf (x k y : Nat → Nat) : Prop :=
  y 0 = 0xCD9E8D57 * x 2 / 2 ^ 32 ^^^ x 1 ^^^ k 0 ∧ y 1 = 0xCD9E8D57 * x 2 % 2 ^ 32 ∧
    y 2 = 0xD2511F53 * x 0 / 2 ^ 32 ^^^ x 3 ^^^ k 1 ∧ y 3 = 0xD2511F53 * x 0 % 2 ^ 32

theorem words_round {x k : Nat → Nat} {w : BitVec 32 × BitVec 32 × BitVec 32 × BitVec 32} {v : BitVec 32 × BitVec 32} {y : Nat → Nat}
    (hw : Words w x) (hv : Keys v k) (hy : RoundOf x k y) : Words (philoxRound w v) y := by
  obtain ⟨w0, w1, w2, w3⟩ := w
  obtain ⟨h0, h1, h2, h3⟩ := hw
  obtain ⟨hk0, hk1⟩ := hv
  obtain ⟨y0, y1, y2, y3⟩ := hy
  dsimp only at h0 h1 h2 h3
  refine ⟨?_, ?_, ?_, ?_⟩
  · show (((0xCD9E8D57#64 * w2.setWidth 64).extractLsb' 32 32) ^^^ w1 ^^^ v.1).toNat = y 0
    rw [BitVec.toNat_xor, BitVec.toNat_xor, toNat_high (by decide), h1, h2, hk0, y0]
    rfl
  · show ((0xCD9E8D57#64 * w2.setWidth 64).extractLsb' 0 32).toNat = y 1
    rw [toNat_low (by decide), h2, y1]
    rfl
  · show (((0xD2511F53#64 * w0.setWidth 64).extractLsb' 32 32) ^^^ w3 ^^^ v.2).toNat = y 2
    rw [BitVec.toNat_xor, BitVec.toNat_xor, toNat_high (by decide), h0, h3, hk1, y2]
    rfl
  · show ((0xD2511F53#64 * w0.setWidth 64).extractLsb' 0 32).toNat = y 3
    rw [toNat_low (by decide), h0, y3]
    rfl

/-- The rounds after the first; the round and the key's steps stay abstract while the recursion is unfolded. -/
theorem philoxRounds_succ (n : Nat) (x : BitVec 32 × BitVec 32 × BitVec 32 × BitVec 32) (k : BitVec 32 × BitVec 32) :
    philoxRounds (n + 1) x k = philoxRounds n (philoxRound x k) (k.1 + 0x9E3779B9, k.2 + 0xBB67AE85) := by
  obtain ⟨g, hg⟩ : ∃ g, g = @philoxRounds := ⟨_, rfl⟩
  obtain ⟨f, hf⟩ : ∃ f, f = @philoxRound := ⟨_, rfl⟩
  obtain ⟨c1, h1⟩ : ∃ c : BitVec 32, c = 0x9E3779B9 := ⟨_, rfl⟩
  obtain ⟨c2, h2⟩ : ∃ c : BitVec 32, c = 0xBB67AE85 := ⟨_, rfl⟩
  rw [← hg, ← hf, ← h1, ← h2]
  delta philoxRounds philoxRounds._f at hg
  rw [← hf, ← h1, ← h2] at hg
  subst hg
  rfl

theorem toNat_add_ofNat (v : BitVec 32) (c : Nat) : (v + BitVec.ofNat 32 c).toNat = (v.toNat + c) % 2 ^ 32 := by
  rw [BitVec.toNat_add, BitVec.toNat_ofNat, Nat.add_mod_mod]

theorem words_rounds {x k : Nat → Nat → Nat} (n m : Nat) {w : BitVec 32 × BitVec 32 × BitVec 32 × BitVec 32} {v : BitVec 32 × BitVec 32}
    (hx : ∀ j, j < m + n → RoundOf (x j) (k j) (x (j + 1)))
    (hk : ∀ j, j < m + n → k (j + 1) 0 = (k j 0 + 0x9E3779B9) % 2 ^ 32 ∧ k (j + 1) 1 = (k j 1 + 0xBB67AE85) % 2 ^ 32)
    (hw : Words w (x m)) (hv : Keys v (k m)) : Words (philoxRounds n w v) (x (m + n)) := by
  induction n generalizing m w v with
  | zero => exact hw
  | succ n ih =>
    obtain ⟨hk0, hk1⟩ := hk m (by omega)
    obtain ⟨hv0, hv1⟩ := hv
    have hv' : Keys (v.1 + 0x9E3779B9, v.2 + 0xBB67AE85) (k (m + 1)) :=
      ⟨(toNat_add_ofNat v.1 _).trans (hv0 ▸ hk0.symm), (toNat_add_ofNat v.2 _).trans (hv1 ▸ hk1.symm)⟩
    have h := ih (m + 1) (fun j hj => hx j (by omega)) (fun j hj => hk j (by omega)) (words_round hw ⟨hv0, hv1⟩ (hx m (by omega))) hv'
    rw [philoxRounds_succ]
    rwa [Nat.add_assoc, Nat.add_comm 1 n] at h

theorem toNat_cat {m n : Nat} (a : BitVec m) (b : BitVec n) : (a ++ b).toNat = b.toNat + 2 ^ n * a.toNat := by
  rw [BitVec.toNat_append, Nat.shiftLeft_eq, Nat.mul_comm, ← Nat.two_pow_add_eq_or_of_lt b.isLt, Nat.add_comm]

theorem cat_high {m n : Nat} (a : BitVec m) (b : BitVec n) (i w : Nat) :
    (a ++ b).toNat / 2 ^ (n + i) % w = a.toNat / 2 ^ i % w := by
  rw [toNat_cat, Nat.pow_add, ← Nat.div_div_eq_div_mul, Nat.add_mul_div_left _ _ (Nat.two_pow_pos n), Nat.div_eq_of_lt b.isLt, Nat.zero_add]

theorem cat_low {m n : Nat} (a : BitVec m) (b : BitVec n) : (a ++ b).toNat % 2 ^ n = b.toNat := by
  rw [toNat_cat, Nat.add_mul_mod_self_left, Nat.mod_eq_of_lt b.isLt]

theorem toNat_append_words (a b c d : BitVec 32) {j : Nat} (hj : j < 4) (x : Nat → Nat) (h : Words (a, b, c, d) x) :
    (d ++ c ++ b ++ a).toNat / 2 ^ (32 * j) % 2 ^ 32 = x j := by
  obtain ⟨ha, hb, hc, hd⟩ := h
  dsimp only at ha hb hc hd
  have h0 : (d ++ c ++ b ++ a).toNat / 2 ^ 0 % 2 ^ 32 = a.toNat := by rw [Nat.pow_zero, Nat.div_one]; exact cat_low (d ++ c ++ b) a
  have h1 : (d ++ c ++ b).toNat / 2 ^ 0 % 2 ^ 32 = b.toNat := by rw [Nat.pow_zero, Nat.div_one]; exact cat_low (d ++ c) b
  have h2 : (d ++ c).toNat / 2 ^ 0 % 2 ^ 32 = c.toNat := by rw [Nat.pow_zero, Nat.div_one]; exact cat_low d c
  match j, hj with
  | 0, _ => exact h0.trans ha
  | 1, _ => exact ((cat_high (d ++ c ++ b) a 0 _).trans h1).trans hb
  | 2, _ => exact ((cat_high (d ++ c ++ b) a 32 _).trans ((cat_high (d ++ c) b 0 _).trans h2)).trans hc
  | 3, _ =>
    refine ((cat_high (d ++ c ++ b) a 64 _).trans ((cat_high (d ++ c) b 32 _).trans ((cat_high d c 0 _).trans ?_))).trans hd
    rw [Nat.pow_zero, Nat.div_one, Nat.mod_eq_of_lt d.isLt]

theorem philox_words (key : DWord) (ctr : BitVec 128) (x : Nat → Nat → Nat) (k : Nat → Nat → Nat)
    (hx0 : ∀ j, j < 4 → x 0 j = ctr.toNat / 2 ^ (32 * j) % 2 ^ 32) (hk0 : ∀ j, j < 2 → k 0 j = key.toNat / 2 ^ (32 * j) % 2 ^ 32)
    (hk : ∀ n, n < 10 → k (n + 1) 0 = (k n 0 + 0x9E3779B9) % 2 ^ 32 ∧ k (n + 1) 1 = (k n 1 + 0xBB67AE85) % 2 ^ 32)
    (hx : ∀ n, n < 10 → RoundOf (x n) (k n) (x (n + 1))) {j : Nat} (hj : j < 4) :
    (philox key ctr).toNat / 2 ^ (32 * j) % 2 ^ 32 = x 10 j := by
  have hword : ∀ {n} (v : BitVec n) (m : Nat), (v.extractLsb' (32 * m) 32).toNat = v.toNat / 2 ^ (32 * m) % 2 ^ 32 := fun v m => by
    rw [BitVec.extractLsb'_toNat, Nat.shiftRight_eq_div_pow]
  have hw : Words (ctr.extractLsb' 0 32, ctr.extractLsb' 32 32, ctr.extractLsb' 64 32, ctr.extractLsb' 96 32) (x 0) :=
    ⟨(hword ctr 0).trans (hx0 0 (by decide)).symm, (hword ctr 1).trans (hx0 1 (by decide)).symm,
      (hword ctr 2).trans (hx0 2 (by decide)).symm, (hword ctr 3).trans (hx0 3 (by decide)).symm⟩
  have hv : Keys (key.extractLsb' 0 32, key.extractLsb' 32 32) (k 0) :=
    ⟨(hword key 0).trans (hk0 0 (by decide)).symm, (hword key 1).trans (hk0 1 (by decide)).symm⟩
  have hr := words_rounds 10 0 (fun j h => hx j (by omega)) (fun j h => hk j (by omega)) hw hv
  unfold philox
  revert hr
  generalize philoxRounds 10 _ _ = r
  obtain ⟨a, b, c, d⟩ := r
  exact fun hr => toNat_append_words a b c d hj (x 10) hr

theorem philox_zero : philox 0 0 = 0x9B00DBD8BC57AC4CE169C58D6627E8D5#128 := by decide +kernel

end Philox

/-! ### Moves (R184, R185) -/

section Moves

variable {i : Instr} {s : State} {d a b fn : Reg} {lw : LW} {w : Nat}

/-- A number of a format of elements: an integer format or a floating-point one (R180). -/
def IsElem (fn : Reg) : Prop := fn.toNat ≤ 11 ∧ fn.toNat ≠ 7

theorem vwidth_dvd (h : IsElem fn) : Fmt.vwidth fn ∣ 8192 := by
  obtain ⟨hle, hne⟩ := h
  unfold Fmt.vwidth
  generalize fn.toNat = n at hle hne
  interval_cases n <;> first | exact absurd rfl hne | decide

/-- A move writes in each lane what it takes there. -/
theorem vecWrites_move {srcs : List Src} {f : Seqr → State → Nat → Nat → Nat} {g : Nat → Nat} (hf : IsElem fn)
    (hi : exec i s = vecMove s d fn lw srcs f) (hr : VecReady s lw (Fmt.vwidth fn) (srcs ++ [srcV d]))
    (hg : ∀ j, f s.cur (laned s 2) (Fmt.vwidth fn) j % 2 ^ Fmt.vwidth fn = g j % 2 ^ Fmt.vwidth fn) :
    VecWrites i s lw d (Fmt.vwidth fn) 2 4 fun j => (g j, 0) := by
  refine vecWrites_congr (f := fun j => (f s.cur (laned s 2) (Fmt.vwidth fn) j, 0)) (fun j => ⟨hg j, rfl⟩) ?_
  exact vecWrites_of (dests := []) hi (by rwa [List.append_nil]) (vwidth_dvd hf) fun j => rfl

theorem exec_vmov : exec (.vmov d a fn lw) s = vecMove s d fn lw [srcV a lw.ta] fun q s w i => velem (s.getV q a) w i := rfl
theorem exec_vbcast : exec (.vbcast d a fn lw) s = vecMove s d fn lw [srcS a lw.ta] fun q s w _ => (s.getS q a).toNat % 2 ^ w := rfl
theorem exec_vslide : exec (.vslide d a b fn lw) s = vecMove s d fn lw [srcV a lw.ta, srcS b lw.tb] fun q s w i =>
    if 0 ≤ (i : Int) + (s.getS q b).toInt ∧ (i : Int) + (s.getS q b).toInt < lanesOf w then
      velem (s.getV q a) w ((i : Int) + (s.getS q b).toInt).toNat
    else 0 := rfl
theorem exec_vperm : exec (.vperm d a b fn lw) s = vecMove s d fn lw [srcV a lw.ta, srcV b lw.tb] fun q s w i =>
    if velem (s.getV q b) w i < lanesOf w then velem (s.getV q a) w (velem (s.getV q b) w i) else 0 := rfl
theorem exec_vshuf : exec (.vshuf d a b fn lw) s = vecMove s d fn lw [srcV a lw.ta, srcV b lw.tb] fun q s w i =>
    velem (s.getV q (if (shufSource (lw.y.toNat / 2) (lanesOf w) i).1 then b else a)) w (shufSource (lw.y.toNat / 2) (lanesOf w) i).2 := rfl
theorem exec_vtrn : exec (.vtrn d a fn lw) s = vecMove s d fn lw [srcV a lw.ta] fun q s w i =>
    velem (s.getV q a) w (i % (lanesOf w / 2 ^ (lw.y.toNat / 2)) * 2 ^ (lw.y.toNat / 2) + i / (lanesOf w / 2 ^ (lw.y.toNat / 2))) := rfl
theorem exec_vins : exec (.vins d a b fn lw) s = vecLanes s d lw (Fmt.vwidth fn) [srcS a lw.ta, srcS b lw.tb] [srcV d] 2 4 fun q s i =>
    ((if (s.getS q b).toNat = i then (s.getS q a).toNat % 2 ^ Fmt.vwidth fn else velem (s.getV q d) (Fmt.vwidth fn) i), 0) := rfl
theorem exec_vrng : exec (.vrng d a b lw) s = vecLanes s d lw 32 [srcS a lw.ta, srcV b lw.tb] [] 8 20 fun q s i =>
    ((philox (s.getS q a) (BitVec.ofNat 128 ((s.getV q b).toNat % 2 ^ 128 + i / 4))).toNat / 2 ^ (32 * (i % 4)) % 2 ^ 32, 0) := rfl
theorem exec_vhash : exec (.vhash d a b fn lw) s = vecLanes s d lw 64 [srcS a lw.ta, srcV b lw.tb] [] 2 4 fun q s i =>
    ((tieHash (s.getS q a) (BitVec.ofNat 64 (velem (s.getV q b) 64 i))).toNat, 0) := rfl

/-- What `VEXT` gives its scalar. -/
def extracted (s : State) (q : Seqr) (d a b fn : Reg) (lw : LW) : DWord :=
  if (s.getS q b).toNat < lanesOf (Fmt.vwidth fn) then
    if laneOn lw (s.getV q lw.greg) (Fmt.vwidth fn) (s.getS q b).toNat then extElem fn lw.y (velem (s.getV q a) (Fmt.vwidth fn) (s.getS q b).toNat)
    else s.getS q d
  else 0

theorem exec_vext : exec (.vext d a b fn lw) s = vecIssue s lw [srcV a lw.ta, srcS b lw.tb] [srcS d] 2 fun q s =>
    vecCommit q s false d.toNat (extracted s q d a b fn lw).toNat 0 4 := rfl

/-- The value of an element, extended as its format says. -/
theorem extElem_eq {y : BitVec 6} {x : Nat} (hx : x < 2 ^ Fmt.vwidth fn) : extElem fn y x =
    if (decide (fn.toNat ≤ 6) && fn.toNat % 2 == 0 && !y.getLsbD 0) = true ∧ 2 ^ (Fmt.vwidth fn - 1) ≤ x then
      BitVec.ofInt 64 ((x : Int) - 2 ^ Fmt.vwidth fn)
    else BitVec.ofNat 64 x := by
  have hsg : (Fmt.isVInt fn && Fmt.isSigned fn y) = (decide (fn.toNat ≤ 6) && fn.toNat % 2 == 0 && !y.getLsbD 0) := by
    unfold Fmt.isVInt
    by_cases h : fn.toNat ≤ 6
    · rw [IntegerLanes.isSigned_eq h, decide_eq_true h, Bool.true_and, Bool.true_and]
    · rw [decide_eq_false h, Bool.false_and, Bool.false_and, Bool.false_and]
  unfold extElem
  rw [hsg]
  generalize (decide (fn.toNat ≤ 6) && fn.toNat % 2 == 0 && !y.getLsbD 0) = sg
  dsimp only
  rw [sextN_eq hx, zextN_eq hx]
  cases sg with
  | false => simp
  | true =>
    by_cases h : x < 2 ^ (Fmt.vwidth fn - 1)
    · rw [if_pos rfl, if_pos h, if_neg (fun h' => Nat.not_le.mpr h h'.2), BitVec.ofInt_natCast]
    · rw [if_pos rfl, if_neg h, if_pos ⟨rfl, Nat.not_lt.mp h⟩]

end Moves

/-- Settles O24: each move is `vecMove` of the element it takes, and the Philox block is ten rounds on its words. -/
theorem vectorMoves : Obligations.VectorMoves := by
  unfold Obligations.VectorMoves
  refine ⟨fun s d a b fn lw h1 h2 => ?_, fun key ctr x k hx0 hk0 hstep j hj => ?_, philox_zero⟩
  · have hf : IsElem fn := ⟨h1, h2⟩
    refine ⟨fun hr => ⟨?_, fun hlog => ?_⟩, fun hr => ?_, fun hr => ?_, fun hr => ⟨?_, fun hy => ?_, fun hy => ?_, fun hy => ?_, fun hy => ?_⟩,
      fun hr => ?_, fun hr => ?_, fun hr => ?_, fun hr => ?_⟩
    · exact vecWrites_move hf exec_vmov hr fun j => by rw [getV_laned]
    · exact vecWrites_move hf exec_vtrn hr fun j => by rw [getV_laned]; rfl
    · exact vecWrites_move hf exec_vbcast hr fun j => by rw [getS_laned, Nat.mod_mod]
    · exact vecWrites_move hf exec_vslide hr fun j => by rw [getS_laned, getV_laned]; rfl
    · refine vecWrites_move hf exec_vperm hr fun j => congrArg (· % 2 ^ Fmt.vwidth fn) ?_
      rw [getV_laned, getV_laned]
      exact if_congr ⟨fun h => ⟨Int.natCast_nonneg _, Int.ofNat_lt.mpr h⟩, fun h => Int.ofNat_lt.mp h.2⟩ rfl rfl
    · exact vecWrites_move hf exec_vshuf hr fun j => by
        rw [getV_laned, hy]
        by_cases h : j % 2 = 1 <;> simp [shufSource, h]
    · exact vecWrites_move hf exec_vshuf hr fun j => by
        rw [getV_laned, hy]
        by_cases h : j % 2 = 1 <;> simp [shufSource, h, lanesOf]
    · exact vecWrites_move hf exec_vshuf hr fun j => by
        rw [getV_laned, hy]
        by_cases h : j < 8192 / Fmt.vwidth fn / 2 <;> simp [shufSource, h, lanesOf]
    · exact vecWrites_move hf exec_vshuf hr fun j => by
        rw [getV_laned, hy]
        by_cases h : j < 8192 / Fmt.vwidth fn / 2 <;> simp [shufSource, h, lanesOf]
    · refine vecCommits_of exec_vext hr rfl ?_
      rw [BitVec.ofNat_toNat, BitVec.setWidth_eq, extracted, getS_laned, getV_laned, getV_laned, getS_laned, laneOn_eq hr.gbit,
        extElem_eq (velem_lt _ _ _)]
      by_cases h : (s.getS s.cur b).toNat < lanesOf (Fmt.vwidth fn)
      · rw [if_pos h]
        exact (if_neg (Nat.not_le.mpr h)).symm
      · rw [if_neg h]
        exact (if_pos (Nat.not_lt.mp h)).symm
    · refine vecWrites_of_mod exec_vins (vecReady_mono hr (by simp)) (vwidth_dvd hf) fun j => ⟨?_, rfl⟩
      dsimp only
      rw [getS_laned, getS_laned, getV_laned]
      split
      · exact Nat.mod_mod _ _
      · rfl
    · refine vecWrites_of_mod exec_vrng hr (by decide) fun j => ⟨?_, rfl⟩
      rw [getS_laned, getV_laned]
      exact Nat.mod_mod _ _
    · refine vecWrites_of_mod exec_vhash hr (by decide) fun j => ⟨?_, rfl⟩
      rw [getS_laned, getV_laned]
  · exact philox_words key ctr x k hx0 hk0 (fun n hn => ⟨(hstep n hn).1, (hstep n hn).2.1⟩) (fun n hn => (hstep n hn).2.2) hj

end Sys2Proof.Proofs.VectorMoves
end

section
/-! PROOFS. Compares, selects and votes (R174 to R176), and the landing of vector results (R159, R162, R163, R165). -/

namespace Sys2Proof.Proofs.Landings

open Sys2Proof.Machine
open Sys2Proof.Safety
open Sys2Proof.Proofs.Traps
open Sys2Proof.Proofs.Groups
open Sys2Proof.Proofs.Lanes
open Sys2Proof.Proofs.BitForms

/-! ### Compares, selects and votes -/

section Votes

variable {s : State} {d a b fn : Reg} {lw : LW}

theorem testBit_setBitNat (x k j : Nat) (c : Bool) : (setBitNat x k c).testBit j = if j = k then c else x.testBit j := by
  have hx : x = (x / 2 ^ (k + 1)) * 2 ^ (k + 1) + (x / 2 ^ k % 2 * 2 ^ k + x % 2 ^ k) := by
    have h1 := Nat.div_add_mod x (2 ^ k)
    have h2 := Nat.div_add_mod (x / 2 ^ k) 2
    rw [Nat.pow_succ, ← Nat.div_div_eq_div_mul]
    calc x = 2 ^ k * (x / 2 ^ k) + x % 2 ^ k := h1.symm
      _ = 2 ^ k * (2 * (x / 2 ^ k / 2) + x / 2 ^ k % 2) + x % 2 ^ k := by rw [h2]
      _ = _ := by ring
  have hset : setBitNat x k c = (x / 2 ^ (k + 1)) * 2 ^ (k + 1) + (bit c * 2 ^ k + x % 2 ^ k) := by
    unfold setBitNat
    omega
  have hbit : ∀ n, n < 2 → (n * 2 ^ k + x % 2 ^ k) < 2 ^ (k + 1) := fun n hn => by
    have := Nat.mod_lt x (Nat.two_pow_pos k)
    have h2 : n * 2 ^ k ≤ 1 * 2 ^ k := Nat.mul_le_mul_right _ (by omega)
    rw [Nat.pow_succ]
    omega
  have hc : bit c < 2 := by cases c <;> decide
  have key : ∀ n, n < 2 → ((x / 2 ^ (k + 1)) * 2 ^ (k + 1) + (n * 2 ^ k + x % 2 ^ k)).testBit j =
      if j < k + 1 then (if j < k then (x % 2 ^ k).testBit j else n.testBit (j - k)) else (x / 2 ^ (k + 1)).testBit (j - (k + 1)) := fun n hn => by
    rw [Nat.mul_comm, Nat.testBit_two_pow_mul_add _ (hbit n hn), Nat.mul_comm n, Nat.testBit_two_pow_mul_add _ (Nat.mod_lt _ (Nat.two_pow_pos k))]
  rw [hset, key _ hc]
  by_cases hj : j = k
  · subst hj
    rw [if_pos (Nat.lt_succ_self j), if_neg (Nat.lt_irrefl j), if_pos rfl, Nat.sub_self]
    cases c <;> rfl
  · rw [if_neg hj]
    conv_rhs => rw [hx, key _ (Nat.mod_lt _ Nat.two_pos)]
    by_cases h : j < k + 1
    · rw [if_pos h, if_pos h, if_pos (by omega), if_pos (by omega)]
    · rw [if_neg h, if_neg h]

theorem exec_vcmp : exec (.vcmp d a b fn lw) s = vecLanes s d lw (Fmt.vwidth fn) [srcV a lw.ta, srcV b lw.tb] [srcV d] 2 4 fun q s i =>
    (setBitNat (velem (s.getV q d) (Fmt.vwidth fn) i) lw.x.toNat
      (fpCompare (FpFmt.get fn.toNat) lw.y.toNat (velem (s.getV q a) (Fmt.vwidth fn) i) (velem (s.getV q b) (Fmt.vwidth fn) i)).1,
     (fpCompare (FpFmt.get fn.toNat) lw.y.toNat (velem (s.getV q a) (Fmt.vwidth fn) i) (velem (s.getV q b) (Fmt.vwidth fn) i)).2) := rfl

/-- The predicate of R174 of two elements. -/
def compares (f : FpFmt) (cc a b : Nat) : Bool :=
  let un := (f.decode a).isNan || (f.decode b).isNan
  let o := Val.order false (f.decode a) (f.decode b)
  match cc with
  | 0 => !un && o == .eq | 1 => un || o != .eq | 2 => !un && o == .lt | 3 => !un && o != .gt
  | 4 => !un && o == .gt | 5 => !un && o != .lt | 6 => un | _ => !un

/-- NV of a compare (R174). -/
def compareFlags (f : FpFmt) (cc a b : Nat) : Flags :=
  if 2 ≤ cc ∧ cc ≤ 5 then (if (f.decode a).isNan || (f.decode b).isNan then Flags.nv else 0)
  else (f.decode a).snanFlag ||| (f.decode b).snanFlag

theorem fpCompare_eq (f : FpFmt) {cc : Nat} (h : cc < 8) (a b : Nat) : fpCompare f cc a b = (compares f cc a b, compareFlags f cc a b) := by
  interval_cases cc <;> rfl

theorem vecCommits_mono {i : Instr} {isVec : Bool} {dp lat : Nat} {ok ok' : Nat → Prop} {fl : Flags} (h : VecCommits i s isVec d dp lat ok fl)
    (hok : ∀ v, ok v → ok' v) : VecCommits i s isVec d dp lat ok' fl :=
  ⟨fun h0 => (h.1 h0).imp fun v hv => ⟨hok v hv.1, hv.2⟩, h.2⟩

theorem exec_vsel : exec (.vsel d a b fn lw) s =
    vecLanes s d lw (Fmt.vwidth fn) [srcV a lw.ta, srcV b lw.tb, srcV lw.x lw.tc] [] 2 4 fun q s i =>
      ((if (velem (s.getV q lw.x) (Fmt.vwidth fn) i).testBit lw.y.toNat then velem (s.getV q a) (Fmt.vwidth fn) i
        else velem (s.getV q b) (Fmt.vwidth fn) i), 0) := rfl

/-- The bits of the enabled elements that a vote counts. -/
def votes (s : State) (q : Seqr) (a : Reg) (lw : LW) : List Bool :=
  ((List.range 256).filter (laneOn lw (s.getV q lw.greg) 32)).map (fun i => (velem (s.getV q a) 32 i).testBit lw.y.toNat)

theorem exec_vany : exec (.vany d a fn lw) s = vecIssue s lw [srcV a lw.ta, srcS d] [] 2 fun q s =>
    vecCommit q s false d.toNat (setBitK (s.getS q d) fn.toNat ((votes s q a lw).any id)).toNat 0 3 := rfl
theorem exec_vall : exec (.vall d a fn lw) s = vecIssue s lw [srcV a lw.ta, srcS d] [] 2 fun q s =>
    vecCommit q s false d.toNat (setBitK (s.getS q d) fn.toNat ((votes s q a lw).all id)).toNat 0 3 := rfl

theorem votes_laned (s : State) (dp : Nat) (a : Reg) (lw : LW) : votes (laned s dp) s.cur a lw = votes s s.cur a lw := by
  unfold votes
  rw [getV_laned, getV_laned]

theorem mem_votes {v : Bool} (hk : lw.gbit.toNat < 32) (hy : lw.y.toNat < 32) : v ∈ votes s s.cur a lw ↔
    ∃ j, j < 256 ∧ laneEnabled s lw 32 j = true ∧ (s.getV s.cur a).getLsbD (32 * j + lw.y.toNat) = v := by
  unfold votes
  simp only [List.mem_map, List.mem_filter, List.mem_range, laneOn_eq hk, testBit_velem _ _ hy, and_assoc]

/-- A vote replaces one bit of its scalar. -/
theorem vecCommits_vote {i : Instr} {f : List Bool → Bool} {P : Prop}
    (hi : exec i s = vecIssue s lw [srcV a lw.ta, srcS d] [] 2 fun q s =>
      vecCommit q s false d.toNat (setBitK (s.getS q d) fn.toNat (f (votes s q a lw))).toNat 0 3)
    (hr : VecReady s lw 32 [srcV a lw.ta, srcS d]) (hf : f (votes s s.cur a lw) = true ↔ P) :
    VecCommits i s false d 2 3 (fun v => ∀ k, k < 64 →
      (v.testBit k = true ↔ if k = fn.toNat then P else (s.getS s.cur d).getLsbD k = true)) 0 := by
  refine vecCommits_of hi hr rfl fun k hk => ?_
  rw [votes_laned, getS_laned, ← BitVec.getLsbD, getLsbD_setBitK _ _ _ _ hk]
  split
  · exact hf
  · exact Iff.rfl

end Votes

/-! ### One result written -/

section Writes

variable {s u : State} {c k x : Nat} {r : VPend}

/-- A result is one of v_n or of s_n. -/
def Targets (v : Bool) (n : Nat) (r : VPend) : Prop := r.cells = none ∧ r.isVec = v ∧ r.reg = n

/-- The slot once a result is written. -/
def slotAfter (v : VSlot) (r : VPend) : VSlot :=
  if r.cells = none ∧ r.isVec = false then { v with prog := v.prog.setS r.reg (BitVec.ofNat 64 r.value) } else v

/-- A register becomes full. -/
def fullV (t : Ctx) (n : Nat) : Ctx := { t with vEmpty := t.vEmpty &&& ~~~(1#64 <<< n) }

/-- The thread once a result is written. -/
def ctxAfter (t : Ctx) (r : VPend) : Ctx :=
  if r.cells = none ∧ r.isVec = true then { fullV t r.reg with v := SMap.set t.v r.reg (BitVec.ofNat 8192 r.value) } else t

/-- The core with the elements of a tile written. -/
def withCells (k : Core) (n : Nat) (cs : List (Nat × WA640)) : Core :=
  { k with tiles := SMap.set k.tiles n { SMap.get {} k.tiles n with
      el := (cs.filter (fun c => decide (c.1 / 32 < (SMap.get {} k.tiles n).rows) && decide (c.1 % 32 < (SMap.get {} k.tiles n).cols))).foldl
        (fun m c => SMap.set m c.1 c.2) (SMap.get {} k.tiles n).el } }

theorem writeResult_cells {n : Nat} {cs : List (Nat × WA640)} (h : r.cells = some (n, cs)) :
    u.writeResult (.vec c k) r = u.setCore c (withCells (u.core c) n cs) := by
  unfold State.writeResult
  rw [h]
  rfl

theorem writeResult_vec (h : r.cells = none) (hv : r.isVec = true) (ho : (u.slot c k).owner = some x) :
    u.writeResult (.vec c k) r = u.setCtx c x { fullV (u.ctx c x) r.reg with v := SMap.set (u.ctx c x).v r.reg (BitVec.ofNat 8192 r.value) } := by
  have hx : u.ownerCtx (.vec c k) = x := congrArg (fun o : Option Nat => o.getD 0) ho
  unfold State.writeResult State.setThread State.thread
  rw [h, hv, hx]
  rfl

theorem writeResult_scalar (h : r.cells = none) (hv : r.isVec = false) :
    u.writeResult (.vec c k) r = u.setProg (.vec c k) ((u.slot c k).prog.setS r.reg (BitVec.ofNat 64 r.value)) := by
  unfold State.writeResult
  rw [h, hv]
  rfl

/-- What the write of one result leaves of its slot, its thread and the rest. -/
structure Written (c k x : Nat) (s u : State) (v : VSlot) (t : Ctx) : Prop where
  bytes  : BytesSame s u
  slot   : u.slot c k = v
  ctx    : u.ctx c x = t
  others : ∀ d y, (d, y) ≠ (c, x) → u.ctx d y = s.ctx d y

theorem written_of (r : VPend) (ho : (u.slot c k).owner = some x) :
    Written c k x u (u.writeResult (.vec c k) r) (slotAfter (u.slot c k) r) (ctxAfter (u.ctx c x) r) := by
  cases hc : r.cells with
  | some e =>
    obtain ⟨n, cs⟩ := e
    have hb : Beside u (u.setCore c (withCells (u.core c) n cs)) := beside_setCore rfl rfl rfl rfl rfl
    rw [writeResult_cells hc, slotAfter, ctxAfter, if_neg (by simp [hc]), if_neg (by simp [hc])]
    exact ⟨hb.bytes, by simp only [State.slot, State.core_setCore_self]; rfl, ctx_setCore_same (k := withCells (u.core c) n cs) rfl c x, fun d y _ =>
      ctx_setCore_same (k := withCells (u.core c) n cs) rfl d y⟩
  | none =>
    cases hv : r.isVec with
    | true =>
      rw [writeResult_vec hc hv ho, slotAfter, ctxAfter, if_neg (by simp [hv]), if_pos ⟨hc, hv⟩]
      exact ⟨bytesSame_setCtx u c x _, State.slot_setCtx u c x c k _, State.ctx_setCtx_self u c x _, fun d y h => ctx_setCtx_ne u _ h⟩
    | false =>
      rw [writeResult_scalar hc hv, slotAfter, ctxAfter, if_pos ⟨hc, hv⟩, if_neg (by simp [hv])]
      exact ⟨bytesSame_of (deviceSame_setProg u _ _) (coresSame_setProg u _ _), State.slot_setSlot_self u c k _,
        State.ctx_setSlot u c k c x _, fun d y _ => State.ctx_setSlot u c k d y _⟩

theorem slotAfter_rest (v : VSlot) (r : VPend) : (slotAfter v r).owner = v.owner ∧ (slotAfter v r).results = v.results := by
  unfold slotAfter
  split <;> exact ⟨rfl, rfl⟩

/-- What the writes of a list of results leave. -/
theorem written_foldl (l : List VPend) (ho : (u.slot c k).owner = some x) :
    Written c k x u (l.foldl (fun s r => s.writeResult (.vec c k) r) u) (l.foldl slotAfter (u.slot c k)) (l.foldl ctxAfter (u.ctx c x)) := by
  induction l generalizing u with
  | nil => exact ⟨(Beside.refl u).bytes, rfl, rfl, fun _ _ _ => rfl⟩
  | cons r l ih =>
    have h := written_of r ho
    have h' := ih (u := u.writeResult (.vec c k) r) (by rw [h.slot, (slotAfter_rest _ _).1, ho])
    rw [h.slot, h.ctx] at h'
    exact ⟨bytesSame_trans h.bytes h'.bytes, h'.slot, h'.ctx, fun d y hne => (h'.others d y hne).trans (h.others d y hne)⟩

theorem foldl_slotAfter_rest (l : List VPend) (v : VSlot) : (l.foldl slotAfter v).owner = v.owner ∧ (l.foldl slotAfter v).results = v.results :=
  List.foldlRecOn (motive := fun w : VSlot => w.owner = v.owner ∧ w.results = v.results) l slotAfter ⟨rfl, rfl⟩ fun w hw r _ => by
    rw [(slotAfter_rest w r).1, (slotAfter_rest w r).2]
    exact hw

/-! ### The last write to a register -/

/-- What no later step changes stands after a fold as the step that set it left it. -/
theorem foldl_last {α β γ : Type} {f : α → β → α} {g : α → γ} {P : β → Prop} {before after : List β} {r : β} {w : γ}
    (hn : ∀ t b, ¬ P b → g (f t b) = g t) (ha : ∀ b ∈ after, ¬ P b) (hr : ∀ t, g (f t r) = w) (t : α) :
    g ((before ++ r :: after).foldl f t) = w := by
  rw [List.foldl_append, List.foldl_cons]
  refine List.foldlRecOn (motive := fun t => g t = w) after f (hr _) fun t ht b hb => ?_
  rw [hn t b (ha b hb), ht]

theorem foldl_none {α β γ : Type} {f : α → β → α} {g : α → γ} {P : β → Prop} {l : List β}
    (hn : ∀ t b, ¬ P b → g (f t b) = g t) (hl : ∀ b ∈ l, ¬ P b) (t : α) : g (l.foldl f t) = g t :=
  List.foldlRecOn (motive := fun u => g u = g t) l f rfl fun u hu b hb => by rw [hn u b (hl b hb), hu]

theorem getLsbD_full (v : DWord) (n m : Nat) : (v &&& ~~~(1#64 <<< n)).getLsbD m = (v.getLsbD m && decide (m ≠ n)) := by
  by_cases hm : m < 64
  · rw [BitVec.getLsbD_and, BitVec.getLsbD_not, BitVec.getLsbD_shiftLeft, BitVec.getLsbD_one]
    by_cases h : m = n
    · subst h; simp [hm]
    · rcases Nat.lt_or_gt_of_ne h with h | h
      · simp [hm, h, h.ne]
      · simp [hm, show ¬ m < n by omega, show m - n ≠ 0 by omega, h.ne']
  · rw [BitVec.getLsbD_of_ge _ _ (by omega), BitVec.getLsbD_of_ge _ _ (by omega), Bool.false_and]

/-- What v_n holds, and whether it is empty. -/
def vOf (n : Nat) (t : Ctx) : VReg × Bool := (SMap.get 0 t.v n, t.vEmpty.getLsbD n)

theorem vOf_ctxAfter {n : Nat} {r : VPend} (t : Ctx) (h : ¬ Targets true n r) : vOf n (ctxAfter t r) = vOf n t := by
  unfold ctxAfter
  split
  · next hr =>
    have hne : n ≠ r.reg := fun e => h ⟨hr.1, hr.2, e.symm⟩
    exact Prod.ext (SMap.get_set_of_ne _ _ hne _) ((getLsbD_full _ _ _).trans (by simp [hne]; rfl))
  · rfl

theorem vOf_ctxAfter_self {n : Nat} {r : VPend} (t : Ctx) (h : Targets true n r) : vOf n (ctxAfter t r) = (BitVec.ofNat 8192 r.value, false) := by
  obtain ⟨hc, hv, rfl⟩ := h
  rw [ctxAfter, if_pos ⟨hc, hv⟩]
  exact Prod.ext (SMap.get_set_self _ _ _ _) ((getLsbD_full _ _ _).trans (by simp))

theorem getS_setS_nat (p : Prog) (m n : Nat) (v : DWord) : (p.setS m v).getS n = if n = m then (if n = 0 then 0 else v) else p.getS n := by
  unfold Prog.setS Prog.getS
  by_cases hn : n = 0
  · subst hn; simp
  · by_cases hm : m = 0
    · subst hm; simp [hn]
    · simp only [if_neg hn, if_neg hm]
      exact SMap.get_set _ _ _ _ _

theorem getS_slotAfter {n : Nat} {r : VPend} (v : VSlot) (h : ¬ Targets false n r) : (slotAfter v r).prog.getS n = v.prog.getS n := by
  unfold slotAfter
  split
  · next hr => exact (getS_setS_nat _ _ _ _).trans (if_neg fun e => h ⟨hr.1, hr.2, e.symm⟩)
  · rfl

theorem getS_slotAfter_self {n : Nat} {r : VPend} (v : VSlot) (h : Targets false n r) :
    (slotAfter v r).prog.getS n = if n = 0 then 0 else BitVec.ofNat 64 r.value := by
  obtain ⟨hc, hv, rfl⟩ := h
  rw [slotAfter, if_pos ⟨hc, hv⟩]
  exact (getS_setS_nat _ _ _ _).trans (if_pos rfl)

/-! ### The results of a clock -/

/-- The results whose clock has come. -/
def dueOf (s : State) (c k : Nat) : List VPend := (s.slot c k).results.filter (fun r => !r.long && decide (r.due ≤ s.now))

/-- The state with only the other results in flight. -/
def withoutDue (s : State) (c k : Nat) : State :=
  s.setSlot c k { s.slot c k with results := (s.slot c k).results.filter (fun r => r.long || decide (s.now < r.due)) }

theorem exec_vectorResultWrite (hc : s.target.core = c) (hk : s.target.unit = k) :
    exec .vectorResultWrite s = .next ((dueOf s c k).foldl (fun s r => s.writeResult (.vec c k) r) (withoutDue s c k)) := by
  subst hc hk
  rfl

theorem bytesSame_setSlot (s : State) (c k : Nat) (v : VSlot) : BytesSame s (s.setSlot c k v) :=
  bytesSame_setCore rfl rfl

/-- What the results of a clock leave. -/
theorem written_due (ho : (s.slot c k).owner = some x) :
    Written c k x s ((dueOf s c k).foldl (fun s r => s.writeResult (.vec c k) r) (withoutDue s c k))
      ((dueOf s c k).foldl slotAfter ((withoutDue s c k).slot c k)) ((dueOf s c k).foldl ctxAfter (s.ctx c x)) := by
  have h := written_foldl (c := c) (k := k) (x := x) (u := withoutDue s c k) (dueOf s c k)
    (by rw [withoutDue, State.slot_setSlot_self, ho])
  rw [show (withoutDue s c k).ctx c x = s.ctx c x from State.ctx_setSlot s c k c x _] at h
  exact ⟨bytesSame_trans (bytesSame_setSlot s c k _) h.bytes, h.slot, h.ctx,
    fun d y hne => (h.others d y hne).trans (State.ctx_setSlot s c k d y _)⟩

theorem results_due : ((dueOf s c k).foldl slotAfter ((withoutDue s c k).slot c k)).results =
    (s.slot c k).results.filter (fun r => r.long || decide (s.now < r.due)) := by
  rw [(foldl_slotAfter_rest _ _).2, withoutDue, State.slot_setSlot_self]

theorem getS_withoutDue (n : Nat) : ((withoutDue s c k).slot c k).prog.getS n = (s.slot c k).prog.getS n := by
  rw [withoutDue, State.slot_setSlot_self]

/-! ### A tile's elements -/

theorem get_foldl_cells {l : List (Nat × WA640)} (m : SMap WA640) (h : l.Pairwise (fun y z => y.1 ≠ z.1)) (i : Nat) :
    (∀ v, (i, v) ∈ l → SMap.get 0 (l.foldl (fun m c => SMap.set m c.1 c.2) m) i = v) ∧
      ((∀ v, (i, v) ∉ l) → SMap.get 0 (l.foldl (fun m c => SMap.set m c.1 c.2) m) i = SMap.get 0 m i) := by
  induction l generalizing m with
  | nil => exact ⟨fun v hv => absurd hv List.not_mem_nil, fun _ => rfl⟩
  | cons e l ih =>
    obtain ⟨hhead, htail⟩ := List.pairwise_cons.mp h
    obtain ⟨hin, hout⟩ := ih (SMap.set m e.1 e.2) htail
    refine ⟨fun v hv => ?_, fun hno => ?_⟩
    · rcases List.mem_cons.mp hv with rfl | hv
      · exact (hout fun w hw => hhead (i, w) hw rfl).trans (SMap.get_set_self _ _ _ _)
      · exact hin v hv
    · refine (hout fun w hw => hno w (List.mem_cons_of_mem _ hw)).trans (SMap.get_set_of_ne _ _ (fun he => hno e.2 ?_) _)
      rw [he]
      exact List.mem_cons_self

/-- The tile once elements of it are written. -/
def tileAfter (t : Tile) (cs : List (Nat × WA640)) : Tile :=
  { t with el := (cs.filter (fun c => decide (c.1 / 32 < t.rows) && decide (c.1 % 32 < t.cols))).foldl (fun m c => SMap.set m c.1 c.2) t.el }

theorem tile_withCells (n m : Nat) (cs : List (Nat × WA640)) : (u.setCore c (withCells (u.core c) n cs)).tile c m =
    if m = n then tileAfter (u.tile c n) cs else u.tile c m := by
  unfold State.tile Core.tile
  rw [State.core_setCore_self]
  exact SMap.get_set _ _ _ _ _

theorem at_tileAfter (t : Tile) {cs : List (Nat × WA640)} (h : cs.Pairwise (fun y z => y.1 ≠ z.1)) {i j : Nat} (hj : j < 32) :
    (∀ v, (32 * i + j, v) ∈ cs → i < t.rows → j < t.cols → (tileAfter t cs).at_ i j = v) ∧
      ((∀ v, (32 * i + j, v) ∉ cs) ∨ t.rows ≤ i ∨ t.cols ≤ j → (tileAfter t cs).at_ i j = t.at_ i j) := by
  have hdiv : (32 * i + j) / 32 = i := by omega
  have hmod : (32 * i + j) % 32 = j := by omega
  obtain ⟨hin, hout⟩ := get_foldl_cells t.el (List.Pairwise.filter (fun c => decide (c.1 / 32 < t.rows) && decide (c.1 % 32 < t.cols)) h)
    (32 * i + j)
  refine ⟨fun v hv hi hj => hin v (List.mem_filter.mpr ⟨hv, by simp [hdiv, hmod, hi, hj]⟩), fun hno => hout fun v hv => ?_⟩
  obtain ⟨hmem, hp⟩ := List.mem_filter.mp hv
  simp only [hdiv, hmod, Bool.and_eq_true, decide_eq_true_eq] at hp
  rcases hno with hno | hno | hno
  · exact hno v hmem
  · omega
  · omega

/-! ### A long-latency result lands -/

/-- The slot without a result, its hold ended where the result is the latest long one. -/
def slotLanding (v : VSlot) (r : VPend) : VSlot :=
  { v with
    results := v.results.erase r
    prog := if v.prog.hold = some .longResult ∧ (v.results.filter (fun x => x.long)).getLast? = some r then { v.prog with hold := none }
      else v.prog }

/-- The thread once the flags of a result have been collected and its register is full. -/
def ctxLanding (t : Ctx) (r : VPend) : Ctx := { fullV t r.reg with fsr := t.fsr ||| r.flags.setWidth 64 }

theorem setThread_vec (ho : (u.slot c k).owner = some x) (t : Ctx) : u.setThread (.vec c k) t = u.setCtx c x t :=
  congrArg (fun o : Option Nat => u.setCtx c (o.getD 0) t) ho

theorem thread_vec (ho : (u.slot c k).owner = some x) : u.thread (.vec c k) = u.ctx c x :=
  congrArg (fun o : Option Nat => u.ctx c (o.getD 0)) ho

/-- The state in which a landing result is written or traps: its flags are collected. -/
def collected (s : State) (c k x : Nat) (r : VPend) : State :=
  (s.setSlot c k (slotLanding (s.slot c k) r)).setCtx c x { s.ctx c x with fsr := (s.ctx c x).fsr ||| r.flags.setWidth 64 }

theorem owner_collected (ho : (s.slot c k).owner = some x) : ((collected s c k x r).slot c k).owner = some x := by
  rw [collected, State.slot_setCtx, State.slot_setSlot_self]
  exact ho

theorem ctx_collected : (collected s c k x r).ctx c x = { s.ctx c x with fsr := (s.ctx c x).fsr ||| r.flags.setWidth 64 } :=
  State.ctx_setCtx_self _ _ _ _

theorem landLong_eq (ho : (s.slot c k).owner = some x) : s.landLong c k r =
    if r.traps ≠ 0 then
      ((collected s c k x r).setThread (.vec c k) (fullV ((collected s c k x r).thread (.vec c k)) r.reg)).raise (.vec c k)
        ⟨.fpx, zx64 r.traps, r.addr, r.pend⟩
    else (collected s c k x r).writeResult (.vec c k) r := by
  have ho1 : ((s.setSlot c k (slotLanding (s.slot c k) r)).slot c k).owner = some x := by rw [State.slot_setSlot_self]; exact ho
  have h2 : (s.setSlot c k (slotLanding (s.slot c k) r)).orFsr (.vec c k) r.flags = collected s c k x r := by
    rw [State.orFsr, setThread_vec ho1, thread_vec ho1, State.ctx_setSlot]
    rfl
  rw [← h2]
  rfl

theorem landLong_traps (ho : (s.slot c k).owner = some x) (h : r.traps ≠ 0) :
    s.landLong c k r = ((s.setSlot c k (slotLanding (s.slot c k) r)).setCtx c x (ctxLanding (s.ctx c x) r)).raise (.vec c k)
      ⟨.fpx, BitVec.ofNat 64 r.traps.toNat, r.addr, r.pend⟩ := by
  rw [landLong_eq ho, if_pos h, setThread_vec (owner_collected ho), thread_vec (owner_collected ho), ctx_collected, collected,
    Tokens.setCtx_setCtx, zx64_eq _ (by decide)]
  rfl

theorem landLong_writes (ho : (s.slot c k).owner = some x) (h : r.traps = 0) (hc : r.cells = none) (hv : r.isVec = true) :
    s.landLong c k r = (s.setSlot c k (slotLanding (s.slot c k) r)).setCtx c x
      { ctxLanding (s.ctx c x) r with v := SMap.set (s.ctx c x).v r.reg (BitVec.ofNat 8192 r.value) } := by
  rw [landLong_eq ho, if_neg (not_not_intro h), writeResult_vec hc hv (owner_collected ho), ctx_collected, collected, Tokens.setCtx_setCtx]
  rfl

theorem exec_vectorLongResult (hc : s.target.core = c) (hk : s.target.unit = k)
    (hf : (s.slot c k).results.find? (fun r => r.long && r.reg == s.target.id) = some r) (hd : r.due ≤ s.now) :
    exec .vectorLongResult s = .next (s.landLong c k r) := by
  subst hc hk
  show execVectorLongResult s = _
  unfold execVectorLongResult
  dsimp only
  rw [hf]
  exact if_neg (Nat.not_lt.mpr hd)

/-- What a result leaves that has landed, with the thread that it leaves. -/
theorem landed (t : Ctx) :
    let u := (s.setSlot c k (slotLanding (s.slot c k) r)).setCtx c x t
    BytesSame s u ∧ (u.slot c k).results = (s.slot c k).results.erase r ∧
      (((s.slot c k).results.filter (fun r => r.long)).getLast? = some r → (u.slot c k).prog.hold ≠ some .longResult) ∧
      (((s.slot c k).results.filter (fun r => r.long)).getLast? ≠ some r → (u.slot c k).prog.hold = (s.slot c k).prog.hold) ∧
      u.ctx c x = t ∧ ∀ d y, (d, y) ≠ (c, x) → u.ctx d y = s.ctx d y := by
  intro u
  have hslot : u.slot c k = slotLanding (s.slot c k) r := by rw [State.slot_setCtx, State.slot_setSlot_self]
  refine ⟨bytesSame_trans (bytesSame_setSlot s c k _) (bytesSame_setCtx _ c x t), by rw [hslot]; rfl, fun hl => ?_, fun hl => ?_,
    State.ctx_setCtx_self _ c x t, fun d y hne => (ctx_setCtx_ne _ t hne).trans (State.ctx_setSlot s c k d y _)⟩
  · rw [hslot, slotLanding]
    dsimp only
    split
    · exact fun h => nomatch h
    · next hn => exact fun hh => hn ⟨hh, hl⟩
  · rw [hslot, slotLanding]
    dsimp only
    rw [if_neg fun hn => hl hn.2]

end Writes

/-! ### O23 -/

/-- Settles O23, by the lane-wise instructions and votes, then one landing result, then those of a clock. -/
theorem predicatesAndResults : Obligations.PredicatesAndResults := by
  unfold Obligations.PredicatesAndResults
  refine ⟨fun s d a b fn lw => ⟨fun h8 h11 => ?_, fun h11 h7 => ?_, fun hr hy => ⟨?_, ?_⟩⟩, fun s c k x r hc hk ho => ⟨?_, ?_, ?_, ?_⟩,
    fun s c k x hc hk ho => ?_⟩
  · refine fun hy hx hr => ?_
    have hw : Fmt.vwidth fn ∣ 8192 := VectorMoves.vwidth_dvd ⟨h11, by omega⟩
    have h := vecWrites_of (f := fun j => (setBitNat (velem (s.getV s.cur d) (Fmt.vwidth fn) j) lw.x.toNat
        (compares (FpFmt.get fn.toNat) lw.y.toNat (velem (s.getV s.cur a) (Fmt.vwidth fn) j) (velem (s.getV s.cur b) (Fmt.vwidth fn) j)),
        compareFlags (FpFmt.get fn.toNat) lw.y.toNat (velem (s.getV s.cur a) (Fmt.vwidth fn) j) (velem (s.getV s.cur b) (Fmt.vwidth fn) j)))
      (exec_vcmp (s := s) (d := d) (a := a) (b := b) (fn := fn) (lw := lw)) (vecReady_mono hr (by simp)) hw
      fun j => by rw [getV_laned, getV_laned, getV_laned, fpCompare_eq _ hy]
    refine vecCommits_mono h fun v hv j hj k hk => ?_
    rw [hv j hj]
    by_cases he : laneEnabled s lw (Fmt.vwidth fn) j = true
    · rw [if_pos he, Nat.testBit_mod_two_pow, decide_eq_true hk, Bool.true_and, testBit_setBitNat]
      exact if_congr (by simp [he]) rfl rfl
    · rw [if_neg he, if_neg (fun hh => he hh.1)]
  · exact fun hr => vecWrites_of exec_vsel hr (VectorMoves.vwidth_dvd ⟨h11, h7⟩) fun j => by rw [getV_laned, getV_laned, getV_laned]
  · refine vecCommits_vote (f := fun l => l.any id) exec_vany hr ?_
    rw [List.any_eq_true]
    exact ⟨fun ⟨v, hv, ht⟩ => (mem_votes hr.gbit hy).mp (by rwa [show v = true from ht] at hv),
      fun h => ⟨true, (mem_votes hr.gbit hy).mpr h, rfl⟩⟩
  · refine vecCommits_vote (f := fun l => l.all id) exec_vall hr ?_
    rw [List.all_eq_true]
    refine ⟨fun h j hj he => h _ ((mem_votes hr.gbit hy).mpr ⟨j, hj, he, rfl⟩), fun h v hv => ?_⟩
    obtain ⟨j, hj, he, rfl⟩ := (mem_votes hr.gbit hy).mp hv
    exact h j hj he
  · exact ⟨_, exec_vectorResultWrite hc hk, by rw [(written_due ho).slot]; exact results_due⟩
  · intro hl hlong hdue hcells
    have hdueOf : dueOf s c k = [r] := by simp [dueOf, hl, hlong, hdue]
    have hwithout : withoutDue s c k = s.setSlot c k { s.slot c k with results := [] } := by
      simp [withoutDue, hl, hlong, hdue]
    have hx : exec .vectorResultWrite s = .next ((s.setSlot c k { s.slot c k with results := [] }).writeResult (.vec c k) r) := by
      rw [exec_vectorResultWrite hc hk, hdueOf, hwithout]
      rfl
    refine ⟨fun hv => hx.trans ?_, fun hv => hx.trans ?_⟩
    · rw [writeResult_vec hcells hv (x := x) (by rw [State.slot_setSlot_self]; exact ho), State.ctx_setSlot]
      rfl
    · rw [writeResult_scalar hcells hv, State.slot_setSlot_self]
  · intro n cs hl hlong hdue hcells hpair
    have hdueOf : dueOf s c k = [r] := by simp [dueOf, hl, hlong, hdue]
    refine ⟨_, exec_vectorResultWrite hc hk, (written_due ho).bytes, ?_, ?_, ?_⟩
    · rw [(written_due ho).slot]
      simp [results_due, hl, hlong, hdue]
    · rw [(written_due ho).ctx, hdueOf]
      simp [ctxAfter, hcells]
    · have htile : ∀ m, (withoutDue s c k).tile c m = s.tile c m := fun m => by
        simp [State.tile, Core.tile, withoutDue]
      rw [hdueOf, List.foldl_cons, List.foldl_nil, writeResult_cells hcells]
      simp only [tile_withCells, htile, if_pos]
      exact ⟨rfl, fun m hm => if_neg hm, fun i j _ hj => at_tileAfter _ hpair hj⟩
  · intro hf hd hcells hv
    have hx := exec_vectorLongResult hc hk hf hd
    by_cases h : r.traps = 0
    · refine ⟨_, fun _ => hx.trans (congrArg _ (landLong_writes ho h hcells hv)), fun hn => absurd h hn, ?_⟩
      rw [if_neg (not_not_intro h)]
      exact landed _
    · refine ⟨_, fun hz => absurd hz h, fun _ => hx.trans (congrArg _ (landLong_traps ho h)), ?_⟩
      rw [if_pos h]
      exact landed _
  · have hw := written_due ho
    refine ⟨_, exec_vectorResultWrite hc hk, hw.bytes, by rw [hw.slot]; exact results_due, ?_, ?_, ?_, hw.others⟩
    · intro n r before after hdue v hafter hr
      rw [hw.ctx, hw.slot, show dueOf s c k = before ++ r :: after from hdue]
      refine ⟨fun hv => ?_, fun hv => ?_⟩
      · subst hv
        exact Prod.ext_iff.mp (foldl_last (P := Targets true n) (fun t b hb => vOf_ctxAfter t hb) hafter (fun t => vOf_ctxAfter_self t hr) _)
      · subst hv
        exact foldl_last (P := Targets false n) (g := fun v : VSlot => v.prog.getS n) (fun t b hb => getS_slotAfter t hb) hafter (fun t => getS_slotAfter_self t hr) _
    · intro n hno
      rw [hw.ctx]
      exact Prod.ext_iff.mp (foldl_none (P := Targets true n) (fun t b hb => vOf_ctxAfter t hb) hno _)
    · intro n hno
      rw [hw.slot, ← getS_withoutDue n]
      exact foldl_none (P := Targets false n) (g := fun v : VSlot => v.prog.getS n) (fun t b hb => getS_slotAfter t hb) hno _

end Sys2Proof.Proofs.Landings
end

section
/-! PROOFS. Page walks and the translation caches (R213 to R216, R219). -/

namespace Sys2Proof.Proofs.Translation

open Sys2Proof.Machine
open Sys2Proof.Safety
open Sys2Proof.Proofs.Groups

/-! ### Entries of the page table (R214 to R216) -/

section Entries

/-- The entry is absent, or points to a table with a reserved bit set, or to a misaligned one. -/
def Broken (e : Nat) (toLevel4 : Bool) : Prop := e % 2 = 0 ∨
  e % 4 = 1 ∧ (e / 2 ^ 48 ≠ 0 ∨ e / 2 ^ 2 % 2 ^ 6 ≠ 0 ∨ toLevel4 = false ∧ e / 2 ^ 8 % 2 ^ 4 ≠ 0)

/-- The entry points to a table. -/
def Points (e : Nat) (toLevel4 : Bool) : Prop := e % 4 = 1 ∧ ¬ Broken e toLevel4

/-- The table that an entry points to. -/
def tableOf (e : Nat) : Nat := e / 2 ^ 8 % 2 ^ 40 * 2 ^ 8

theorem tableOf_eq {e : Nat} (h : e / 2 ^ 48 = 0) : e / 2 ^ 8 * 2 ^ 8 = tableOf e := by
  unfold tableOf
  rw [Nat.mod_eq_of_lt]
  omega

/-- A leaf entry keeps the rules of R215 and R216. -/
def GoodLeaf (va sh e : Nat) : Prop :=
  let base := va / 2 ^ sh * 2 ^ sh
  let ppn := e / 2 ^ 32 % 2 ^ 32
  let fmt := e / 2 ^ 10 % 2 ^ 6
  let geom := e / 2 ^ 16 % 2 ^ 4
  let mx : Prop := 0x18 ≤ fmt ∧ fmt ≤ 0x1D
  let bits := Fmt.width fmt
  e / 2 ^ 22 % 2 ^ 2 = 0 ∧ e / 2 ^ 4 % 2 ^ 6 = 0 ∧ ppn * 2 ^ 16 % 2 ^ sh = 0 ∧ ppn * 2 ^ 16 + 2 ^ sh ≤ 0xC000000000 ∧
    bits ≠ 0 ∧ geom ≤ 3 ∧ (geom = 1 ∨ geom = 2 → mx) ∧ (geom = 0 → ¬ mx) ∧ (geom = 3 → fmt = 1) ∧
    (e.testBit 20 = true → geom = 0 ∧ (bits = 8 ∨ bits = 16 ∨ bits = 32) ∧ base + 2 ^ sh ≤ 2 ^ 53 * (bits / 8)) ∧
    (2 ^ 56 ≤ base → fmt = 0x13 ∧ geom = 0 ∧ e.testBit 20 = false) ∧ (fmt ≠ 0x13 → e / 2 ^ 24 % 2 ^ 8 = 0)

/-- The page of a leaf entry. -/
def leafPage (va sh e : Nat) : Page := { base := va / 2 ^ sh * 2 ^ sh, size := 2 ^ sh, leaf := e }

theorem ite_true_iff {p : Prop} [Decidable p] {b : Bool} : (if p then b else true) = true ↔ (p → b = true) := by
  by_cases h : p <;> simp [h]

theorem isMxCode_iff (c : Nat) : Fmt.isMxCode c = true ↔ 0x18 ≤ c ∧ c ≤ 0x1D := by
  simp only [Fmt.isMxCode, Bool.and_eq_true, decide_eq_true_eq]

theorem ok_iff (va sh e : Nat) : (leafPage va sh e).ok = true ↔ GoodLeaf va sh e := by
  unfold Page.ok GoodLeaf
  simp only [Bool.and_eq_true, and_assoc]
  refine and_congr beq_iff_eq (and_congr beq_iff_eq (and_congr beq_iff_eq (and_congr decide_eq_true_iff (and_congr bne_iff_ne
    (and_congr decide_eq_true_iff (and_congr ?_ (and_congr ?_ (and_congr ?_ (and_congr ?_ (and_congr ?_ ?_))))))))))
  · refine ite_true_iff.trans (imp_congr ?_ (isMxCode_iff _))
    simp only [Bool.or_eq_true, beq_iff_eq]
    rfl
  · refine ite_true_iff.trans (imp_congr beq_iff_eq ?_)
    rw [Bool.not_eq_true', ← Bool.not_eq_true, isMxCode_iff]
    rfl
  · exact ite_true_iff.trans (imp_congr beq_iff_eq beq_iff_eq)
  · refine ite_true_iff.trans (imp_congr Iff.rfl ?_)
    simp only [Bool.and_eq_true, Bool.or_eq_true, beq_iff_eq, decide_eq_true_eq, and_assoc, or_assoc]
    rfl
  · refine ite_true_iff.trans (imp_congr Iff.rfl ?_)
    simp only [Bool.and_eq_true, beq_iff_eq, Bool.not_eq_true', and_assoc]
    rfl
  · rw [Bool.or_eq_true, beq_iff_eq, beq_iff_eq, or_comm, Decidable.or_iff_not_imp_left]
    rfl

theorem pa_leafPage (va sh e : Nat) : (leafPage va sh e).pa va = e / 2 ^ 32 % 2 ^ 32 * 2 ^ 16 + va % 2 ^ sh := by
  show e / 2 ^ 32 % 2 ^ 32 * 65536 + (va - va / 2 ^ sh * 2 ^ sh) = _
  have := Nat.div_add_mod va (2 ^ sh)
  rw [Nat.mul_comm (2 ^ sh)] at this
  omega

end Entries

/-! ### The walk (R213, R214, R216) -/

section Walks

variable {s : State} {va sh bits table : Nat} {rest : List (Nat × Nat)}

/-- The place of the entry of a level. -/
def place (va sh bits table : Nat) : Nat := table + va / 2 ^ sh % 2 ^ bits * 8

/-- The entry of a level. -/
def entryAt (s : State) (va sh bits table : Nat) : Nat := Memory.readN s.hbm (place va sh bits table) 8

theorem walkFrom_outside (h : ¬ place va sh bits table + 8 ≤ 0xC000000000) : s.walkFrom va ((sh, bits) :: rest) table = .noMemory :=
  if_pos (Nat.not_le.mp h)

variable (hin : place va sh bits table + 8 ≤ 0xC000000000)

include hin

theorem walkFrom_leaf (h3 : entryAt s va sh bits table % 4 = 3) (hsh : sh ≠ 39) : s.walkFrom va ((sh, bits) :: rest) table =
    if (leafPage va sh (entryAt s va sh bits table)).ok then .page (leafPage va sh (entryAt s va sh bits table)) else .fault := by
  have h2 : entryAt s va sh bits table % 2 ≠ 0 := by omega
  have h1 : entryAt s va sh bits table / 2 % 2 = 1 := by omega
  exact (if_neg (Nat.not_lt.mpr hin)).trans ((if_neg h2).trans ((if_pos h1).trans (if_neg hsh)))

theorem walkFrom_leaf_first (h3 : entryAt s va 39 bits table % 4 = 3) (hin : place va 39 bits table + 8 ≤ 0xC000000000) :
    s.walkFrom va ((39, bits) :: rest) table = .fault := by
  have h2 : entryAt s va 39 bits table % 2 ≠ 0 := by omega
  have h1 : entryAt s va 39 bits table / 2 % 2 = 1 := by omega
  exact (if_neg (Nat.not_lt.mpr hin)).trans ((if_neg h2).trans ((if_pos h1).trans (if_pos rfl)))

theorem walkFrom_broken {sh' bits' : Nat} (h : Broken (entryAt s va sh bits table) (sh' == 16)) :
    s.walkFrom va ((sh, bits) :: (sh', bits') :: rest) table = .fault := by
  refine (if_neg (Nat.not_lt.mpr hin)).trans ?_
  rcases h with h | ⟨h1, h⟩
  · exact if_pos h
  · refine (if_neg (show ¬ entryAt s va sh bits table % 2 = 0 by omega)).trans
      ((if_neg (show ¬ entryAt s va sh bits table / 2 % 2 = 1 by omega)).trans ?_)
    by_cases h4 : entryAt s va sh bits table / 2 ^ 48 ≠ 0 ∨ entryAt s va sh bits table / 4 % 2 ^ 6 ≠ 0
    · exact if_pos h4
    · obtain ⟨h48, h6⟩ := not_or.mp h4
      refine (if_neg h4).trans (if_pos ?_)
      rcases h with h | h | ⟨hsh, h⟩
      · exact absurd h h48
      · exact absurd h h6
      · exact ⟨by simpa using hsh, h⟩

theorem walkFrom_last (h : entryAt s va sh bits table % 4 ≠ 3) : s.walkFrom va [(sh, bits)] table = .fault := by
  refine (if_neg (Nat.not_lt.mpr hin)).trans ?_
  by_cases h2 : entryAt s va sh bits table % 2 = 0
  · exact if_pos h2
  · refine (if_neg h2).trans ((if_neg (show ¬ entryAt s va sh bits table / 2 % 2 = 1 by omega)).trans ?_)
    exact ite_id _

theorem walkFrom_points {sh' bits' : Nat} (h : Points (entryAt s va sh bits table) (sh' == 16)) :
    s.walkFrom va ((sh, bits) :: (sh', bits') :: rest) table = s.walkFrom va ((sh', bits') :: rest) (tableOf (entryAt s va sh bits table)) := by
  obtain ⟨h1, hb⟩ := h
  obtain ⟨h0, hb⟩ := not_or.mp hb
  have h48 : entryAt s va sh bits table / 2 ^ 48 = 0 := by_contra fun hn => hb ⟨h1, Or.inl hn⟩
  have h6 : entryAt s va sh bits table / 2 ^ 2 % 2 ^ 6 = 0 := by_contra fun hn => hb ⟨h1, Or.inr (Or.inl hn)⟩
  have h8 : ¬ (sh' ≠ 16 ∧ entryAt s va sh bits table / 2 ^ 8 % 16 ≠ 0) := fun hn =>
    hb ⟨h1, Or.inr (Or.inr ⟨by simpa using hn.1, hn.2⟩)⟩
  rw [← tableOf_eq h48]
  exact (if_neg (Nat.not_lt.mpr hin)).trans ((if_neg h0).trans ((if_neg (show ¬ entryAt s va sh bits table / 2 % 2 = 1 by omega)).trans
    ((if_neg (not_or.mpr ⟨not_not_intro h48, not_not_intro h6⟩)).trans (if_neg h8))))

end Walks

/-! ### The walk of an address space -/

section Levels

variable {s : State} {c va root : Nat}

/-- The place of a level's entry lies in HBM. -/
def InHbm (va sh bits table : Nat) : Prop := place va sh bits table + 8 ≤ 0xC000000000

/-- What a leaf of a level gives: its page where it keeps the rules, else a fault. -/
def LeafGives (s : State) (c va sh e : Nat) : Prop :=
  (GoodLeaf va sh e → s.walk c va = .page (leafPage va sh e) ∧ (leafPage va sh e).pa va = e / 2 ^ 32 % 2 ^ 32 * 2 ^ 16 + va % 2 ^ sh) ∧
    (¬ GoodLeaf va sh e → s.walk c va = .fault)

theorem leafGives_of {sh bits table : Nat} {rest : List (Nat × Nat)} (hw : s.walk c va = s.walkFrom va ((sh, bits) :: rest) table)
    (hin : InHbm va sh bits table) (h3 : entryAt s va sh bits table % 4 = 3) (hsh : sh ≠ 39) :
    LeafGives s c va sh (entryAt s va sh bits table) := by
  have h := hw.trans (walkFrom_leaf hin h3 hsh)
  exact ⟨fun hg => ⟨h.trans (if_pos ((ok_iff _ _ _).mpr hg)), pa_leafPage _ _ _⟩, fun hg => h.trans (if_neg fun hok => hg ((ok_iff _ _ _).mp hok))⟩

variable (hr : (s.core c).ptRoot = some root)

include hr

theorem walk_first : s.walk c va = s.walkFrom va [(39, 18), (30, 9), (21, 9), (16, 5)] root := by
  rw [State.walk, hr]
  rfl

variable (in1 : InHbm va 39 18 root)

include in1

theorem walk_second (h1 : Points (entryAt s va 39 18 root) false) :
    s.walk c va = s.walkFrom va [(30, 9), (21, 9), (16, 5)] (tableOf (entryAt s va 39 18 root)) :=
  (walk_first hr).trans (walkFrom_points in1 h1)

theorem walk_third (h1 : Points (entryAt s va 39 18 root) false) (in2 : InHbm va 30 9 (tableOf (entryAt s va 39 18 root)))
    (h2 : Points (entryAt s va 30 9 (tableOf (entryAt s va 39 18 root))) false) :
    s.walk c va = s.walkFrom va [(21, 9), (16, 5)] (tableOf (entryAt s va 30 9 (tableOf (entryAt s va 39 18 root)))) :=
  (walk_second hr in1 h1).trans (walkFrom_points in2 h2)

theorem walk_fourth (h1 : Points (entryAt s va 39 18 root) false) (in2 : InHbm va 30 9 (tableOf (entryAt s va 39 18 root)))
    (h2 : Points (entryAt s va 30 9 (tableOf (entryAt s va 39 18 root))) false)
    (in3 : InHbm va 21 9 (tableOf (entryAt s va 30 9 (tableOf (entryAt s va 39 18 root)))))
    (h3 : Points (entryAt s va 21 9 (tableOf (entryAt s va 30 9 (tableOf (entryAt s va 39 18 root))))) true) :
    s.walk c va = s.walkFrom va [(16, 5)] (tableOf (entryAt s va 21 9 (tableOf (entryAt s va 30 9 (tableOf (entryAt s va 39 18 root)))))) :=
  (walk_third hr in1 h1 in2 h2).trans (walkFrom_points in3 h3)

end Levels

/-! ### Cached translations (R219) -/

section Cached

variable {s : State} {c va : Nat} {r w : Bool}

/-- The entries of the translation cache that a core's address is looked up in. -/
def entriesOf (s : State) (c : Nat) : List TlbEntry := SMap.get [] s.tlbs (SMap.get 0 s.remap c)

/-- An entry translates an address of a core. -/
def Caches (s : State) (c va : Nat) (e : TlbEntry) : Prop :=
  e ∈ entriesOf s c ∧ e.asid = (s.core c).asid ∧ e.base ≤ va ∧ va < e.base + e.size

/-- A leaf withholds a permission that is asked for (R216). -/
def Denied (r w : Bool) (leaf : Nat) : Prop := r = true ∧ leaf.testBit 2 = false ∨ w = true ∧ leaf.testBit 3 = false

theorem matches_iff {e : TlbEntry} {asid : Nat} :
    (e.asid == asid && decide (e.base ≤ va) && decide (va < e.base + e.size)) = true ↔ e.asid = asid ∧ e.base ≤ va ∧ va < e.base + e.size := by
  simp only [Bool.and_eq_true, beq_iff_eq, decide_eq_true_eq, and_assoc]

theorem tlbFind_none (h : ∀ e, ¬ Caches s c va e) : tlbFind (entriesOf s c) (s.core c).asid va = none :=
  List.find?_eq_none.mpr fun e he hm => h e ⟨he, matches_iff.mp hm⟩

theorem tlbFind_some {e : TlbEntry} (he : Caches s c va e) (h : ∀ o, Caches s c va o → o = e) :
    tlbFind (entriesOf s c) (s.core c).asid va = some e := by
  cases hf : tlbFind (entriesOf s c) (s.core c).asid va with
  | none => exact absurd (matches_iff.mpr he.2) (List.find?_eq_none.mp hf e he.1)
  | some o =>
    have hm := List.find?_some (p := fun e : TlbEntry => e.asid == (s.core c).asid && decide (e.base ≤ va) && decide (va < e.base + e.size)) hf
    rw [h o ⟨List.mem_of_find?_eq_some hf, matches_iff.mp hm⟩]

theorem denied_iff (p : Page) : ((r && !p.r) || (w && !p.w)) = true ↔ Denied r w p.leaf := by
  simp only [Bool.or_eq_true, Bool.and_eq_true, Bool.not_eq_true']
  exact Iff.rfl

theorem xlate_of_page {p : Page} {u : State} (h : s.pageOf c va = .page p u) :
    (Denied r w p.leaf → s.xlate c va r w = .trap .prot (BitVec.ofNat 64 va)) ∧ (¬ Denied r w p.leaf → s.xlate c va r w = .page p u) := by
  unfold State.xlate
  rw [h]
  exact ⟨fun hd => if_pos ((denied_iff p).mpr hd), fun hd => if_neg fun hp => hd ((denied_iff p).mp hp)⟩

theorem xlate_of_trap {f : Cause} {v : DWord} (h : s.pageOf c va = .trap f v) : s.xlate c va r w = .trap f v := by
  unfold State.xlate
  rw [h]

theorem pageOf_beyond (h : 2 ^ 57 ≤ va) : s.pageOf c va = .trap .xlate (BitVec.ofNat 64 va) := if_pos h

variable (hva : va < 2 ^ 57)

include hva

theorem pageOf_cached {e : TlbEntry} (he : tlbFind (entriesOf s c) (s.core c).asid va = some e) :
    s.pageOf c va = .page ⟨e.base, e.size, e.leaf.toNat⟩ s := by
  refine (if_neg (Nat.not_le.mpr hva)).trans ?_
  rw [show tlbFind (SMap.get [] s.tlbs (s.pcore c)) (s.core c).asid va = some e from he]

theorem pageOf_fault (he : tlbFind (entriesOf s c) (s.core c).asid va = none) (hw : s.walk c va = .fault) :
    s.pageOf c va = .trap .xlate (BitVec.ofNat 64 va) := by
  refine (if_neg (Nat.not_le.mpr hva)).trans ?_
  rw [show tlbFind (SMap.get [] s.tlbs (s.pcore c)) (s.core c).asid va = none from he, hw]

theorem pageOf_walked {p : Page} (he : tlbFind (entriesOf s c) (s.core c).asid va = none) (hw : s.walk c va = .page p) :
    s.pageOf c va = .page p (s.tlbAdd (s.pcore c) (s.core c).asid p) := by
  refine (if_neg (Nat.not_le.mpr hva)).trans ?_
  rw [show tlbFind (SMap.get [] s.tlbs (s.pcore c)) (s.core c).asid va = none from he, hw]

end Cached

/-- Settles O30: the walk by its levels, then the lookup in the translation cache. -/
theorem translation : Obligations.Translation := by
  unfold Obligations.Translation
  refine ⟨fun s c va hr => ?_, fun s c va root hr hva => ⟨fun h => (walk_first hr).trans (walkFrom_outside h), fun in1 h => ?_,
    fun ⟨in1, h1, in2⟩ => ⟨fun hb => ?_, fun hl => ?_⟩, fun ⟨⟨in1, h1, in2⟩, h2, in3⟩ => ⟨fun hb => ?_, fun hl => ?_⟩,
    fun ⟨⟨⟨in1, h1, in2⟩, h2, in3⟩, h3, in4⟩ => ⟨fun hb => ?_, fun hl => ?_⟩⟩,
    fun s c va r w => ⟨fun h => xlate_of_trap (pageOf_beyond h), fun hva hn hw => xlate_of_trap (pageOf_fault hva (tlbFind_none hn) hw),
      fun p hva hn hw => ⟨(xlate_of_page (pageOf_walked hva (tlbFind_none hn) hw)).1, fun hd hlen => ?_⟩,
      fun e hva he hu => xlate_of_page (pageOf_cached hva (tlbFind_some he hu))⟩, fun s => ?_⟩
  · rw [State.walk, hr]
  · rw [walk_first hr]
    rcases h with h | h
    · exact walkFrom_leaf_first in1 h in1
    · exact walkFrom_broken in1 h
  · exact (walk_second hr in1 h1).trans (walkFrom_broken in2 hb)
  · exact leafGives_of (walk_second hr in1 h1) in2 hl (by decide)
  · exact (walk_third hr in1 h1 in2 h2).trans (walkFrom_broken in3 hb)
  · exact leafGives_of (walk_third hr in1 h1 in2 h2) in3 hl (by decide)
  · exact (walk_fourth hr in1 h1 in2 h2 in3 h3).trans (walkFrom_last in4 hb)
  · exact leafGives_of (walk_fourth hr in1 h1 in2 h2 in3 h3) in4 hl (by decide)
  · refine ((xlate_of_page (pageOf_walked hva (tlbFind_none hn) hw)).2 hd).trans (congrArg (Xl.page p) ?_)
    exact if_pos hlen
  · have hb : Beside s { s with tlbs := SMap.set s.tlbs s.target.core ((SMap.get [] s.tlbs s.target.core).filter
        (fun e => !(e.asid == s.target.unit && e.base == s.target.id && e.pins == 0))) } := beside_of_cores rfl rfl rfl
    refine ⟨_, rfl, hb.bytes, fun q r => congrArg (fun p : Prog => p.getS r.toNat) (hb.progs q), fun e => ?_⟩
    rw [SMap.get_set_self, List.mem_filter]
    simp [and_assoc, imp_iff_not_or, or_assoc]

end Sys2Proof.Proofs.Translation
end

section
/-! PROOFS. The tag table (R200 to R205). -/

namespace Sys2Proof.Proofs.Tags

open Sys2Proof.Machine
open Sys2Proof.Safety
open Sys2Proof.Proofs.Ready
open Sys2Proof.Proofs.Groups

/-! ### The order of a set, and its ways (R200, R202, R204) -/

section Sets

variable (t : TagSet) (w sz line : Nat)

theorem count_touch : (t.touch w).order.count w = 1 := by
  simp only [TagSet.touch, List.count_cons_self]
  rw [List.count_eq_zero_of_not_mem fun h => by simpa using (List.mem_filter.mp h).2]

theorem filter_touch : (t.touch w).order.filter (· != w) = t.order.filter (· != w) := by
  simp [TagSet.touch]

/-- What a search from the end of a list finds. -/
theorem find?_reverse_some {α : Type} {p : α → Bool} {l : List α} {x : α} :
    l.reverse.find? p = some x ↔ ∃ before after, l = before ++ x :: after ∧ p x = true ∧ ∀ y ∈ after, p y = false := by
  rw [List.find?_eq_some_iff_append]
  constructor
  · rintro ⟨hp, as, bs, hl, ha⟩
    refine ⟨bs.reverse, as.reverse, ?_, hp, fun y hy => by simpa using ha y (List.mem_reverse.mp hy)⟩
    have := congrArg List.reverse hl
    simpa using this
  · rintro ⟨before, after, rfl, hp, ha⟩
    exact ⟨hp, after.reverse, before.reverse, by simp, fun y hy => by simpa using ha y (List.mem_reverse.mp hy)⟩

theorem victim_some : t.victim = some w ↔
    ∃ recent older, t.order = recent ++ w :: older ∧ (t.way w).pinmask = 0 ∧ ∀ v ∈ older, (t.way v).pinmask ≠ 0 := by
  unfold TagSet.victim
  rw [find?_reverse_some]
  simp only [beq_iff_eq, beq_eq_false_iff_ne]

theorem victim_none : t.victim = none ↔ ∀ v ∈ t.order, (t.way v).pinmask ≠ 0 := by
  unfold TagSet.victim
  rw [List.find?_eq_none]
  simp only [List.mem_reverse, beq_iff_eq]

/-- What a search of the numbers below a bound finds. -/
theorem find?_range_some {n : Nat} {p : Nat → Bool} : (List.range n).find? p = some w ↔ w < n ∧ p w = true ∧ ∀ v, v < w → p v = false := by
  rw [List.find?_range_eq_some]
  simp only [List.mem_range, Bool.not_eq_true']
  exact ⟨fun ⟨a, b, c⟩ => ⟨b, a, c⟩, fun ⟨a, b, c⟩ => ⟨b, a, c⟩⟩

theorem invalidWay_some : t.invalidWay = some w ↔ w < 8 ∧ (t.way w).valid = false ∧ ∀ v, v < w → (t.way v).valid = true := by
  unfold TagSet.invalidWay
  rw [find?_range_some]
  simp only [Bool.not_eq_true', Bool.not_eq_false']

theorem invalidWay_none : t.invalidWay = none ↔ ∀ v, v < 8 → (t.way v).valid = true := by
  unfold TagSet.invalidWay
  rw [List.find?_range_eq_none]
  simp only [Bool.not_not]

/-- A way of the set holds the line. -/
def Holds (v : Nat) : Prop := v < 8 ∧ (t.way v).valid = true ∧ (t.way v).sz = sz ∧ (t.way v).tag = line

theorem holds_iff {v : Nat} (h : v < 8) : ((t.way v).valid && (t.way v).sz == sz && (t.way v).tag == line) = true ↔ Holds t sz line v := by
  simp only [Bool.and_eq_true, beq_iff_eq, and_assoc, Holds, h, true_and]

theorem find_some : t.find sz line = some w ↔ Holds t sz line w ∧ ∀ v, v < w → ¬ Holds t sz line v := by
  unfold TagSet.find
  rw [find?_range_some]
  constructor
  · rintro ⟨hw, hp, hno⟩
    exact ⟨(holds_iff t sz line hw).mp hp, fun v hv hh => by
      have := (holds_iff t sz line (hv.trans hw)).mpr hh
      rw [hno v hv] at this
      cases this⟩
  · rintro ⟨hh, hno⟩
    exact ⟨hh.1, (holds_iff t sz line hh.1).mpr hh, fun v hv => Bool.not_eq_true _ ▸ fun hp =>
      hno v hv ((holds_iff t sz line (hv.trans hh.1)).mp hp)⟩

theorem find_none : t.find sz line = none ↔ ∀ v, ¬ Holds t sz line v := by
  unfold TagSet.find
  rw [List.find?_eq_none]
  exact ⟨fun h v hh => h v (List.mem_range.mpr hh.1) ((holds_iff t sz line hh.1).mpr hh),
    fun h v hv hp => h v ((holds_iff t sz line (List.mem_range.mp hv)).mp hp)⟩

end Sets

/-! ### The instructions (R201, R203 to R205) -/

section Instructions

variable {i : Instr} {s : State} {c x : Nat} {d a b : Reg}

/-- The new set, and the results for d and d + 1, of a tag instruction. -/
abbrev TagBody := Seqr → State → Partition → Nat → TagSet → TagSet × DWord × DWord

/-- What a tag instruction comes to once its registers are ready. -/
def tagRes (q : Seqr) (d a b : Reg) (pair : Bool) (body : TagBody) (s : State) : Res :=
  match partitionCheck (s.getS q a) (s.getS q b) with
  | some (c, v) => .trap c v
  | none =>
    let r := body q s (partitionOf (s.getS q b)) ((partitionOf (s.getS q b)).set (s.getS q a))
      (s.tagSet q.core ((partitionOf (s.getS q b)).set (s.getS q a)))
    let s1 := (s.setTagSet q.core ((partitionOf (s.getS q b)).set (s.getS q a)) r.1).setS q d r.2.1
    .retire ((if pair then s1.setS q (d + 1) r.2.2 else s1).holdFor q 2)

theorem tagOp_eq (pair : Bool) (body : TagBody) : tagOp s d a b pair body =
    issue s 1 .any fun q s => s.ready q [srcS a, srcS b] (srcS d :: if pair then [srcS (d + 1)] else []) (tagRes q d a b pair body s) := rfl

/-- The registers of a tag instruction. -/
def tagRegs (d a b : Reg) (pair : Bool) : List Src := [srcS a, srcS b] ++ (srcS d :: if pair then [srcS (d + 1)] else [])

variable {pair : Bool} {body : TagBody}

theorem tag_traps {f : Cause} {v : DWord} (hi : exec i s = tagOp s d a b pair body) (hs : Stands s 1 .any) (hr : RegsReady s (tagRegs d a b pair))
    (h : partitionCheck (s.getS s.cur a) (s.getS s.cur b) = some (f, v)) : Traps i s f v :=
  traps_of_ready _ (hi.trans (tagOp_eq pair body)) rfl hs hr (by simp only [tagRes, fresh_getS, h])

/-- The line and the set of an address of a partition. -/
def lineOf (s : State) (a b : Reg) : Nat := (s.getS s.cur a).toNat / slotSize (partitionOf (s.getS s.cur b)).sz
def setOf (s : State) (a b : Reg) : Nat :=
  (partitionOf (s.getS s.cur b)).first + fold8 (lineOf s a b) % 2 ^ (partitionOf (s.getS s.cur b)).logn

/-- A descriptor and an address that R201 accepts. -/
structure Good (s : State) (c : Nat) (a b : Reg) : Prop where
  core  : s.cur.core = c
  below : (s.getS s.cur a).toNat < 2 ^ 57
  check : partitionCheck (s.getS s.cur a) (s.getS s.cur b) = none

theorem line_eq (h : Good s c a b) : (partitionOf (s.getS s.cur b)).line (s.getS s.cur a) = lineOf s a b := by
  rw [Partition.line, Nat.mod_eq_of_lt h.below]
  rfl

theorem set_eq (h : Good s c a b) : (partitionOf (s.getS s.cur b)).set (s.getS s.cur a) = setOf s a b := by
  rw [Partition.set, line_eq h]
  rfl

/-- What the instruction leaves: the set replaced, the results written, and a hold of 2 clocks. -/
def tagged (s : State) (c : Nat) (d a b : Reg) (pair : Bool) (u : TagSet) (r r2 : DWord) : State :=
  let s1 := ((fresh s).setTagSet c (setOf s a b) u).setS s.cur d r
  (if pair then s1.setS s.cur (d + 1) r2 else s1).holdFor s.cur 2

theorem tag_retires {u : TagSet} {r r2 : DWord} (hg : Good s c a b) (hi : exec i s = tagOp s d a b pair body) (hs : Stands s 1 .any)
    (hr : RegsReady s (tagRegs d a b pair))
    (h : body s.cur (fresh s) (partitionOf (s.getS s.cur b)) (setOf s a b) (s.tagSet c (setOf s a b)) = (u, r, r2)) :
    Retires i s 1 (tagged s c d a b pair u r r2) :=
  retires_of_ready _ (hi.trans (tagOp_eq pair body)) rfl hs hr (by
    have ht : (fresh s).tagSet c (setOf s a b) = s.tagSet c (setOf s a b) := rfl
    simp only [tagRes, fresh_getS, hg.check, set_eq hg, hg.core, ht, h]
    rfl)

/-! ### The checks of a descriptor (R201) -/

/-- A descriptor that R201 turns down. -/
def BadDescriptor (b : DWord) : Prop :=
  b.toNat / 2 ^ 52 ≠ 0 ∨ b.toNat / 2 ^ 14 % 2 ^ 18 ≠ 0 ∨ (partitionOf b).sz = 3 ∨ 8 < (partitionOf b).logn ∨
    256 < (partitionOf b).first + 2 ^ (partitionOf b).logn ∨ (partitionOf b).base % slotSize (partitionOf b).sz ≠ 0

/-- The last byte of a partition's slots. -/
def topOf (b : DWord) : Nat := (partitionOf b).base + (partitionOf b).area - 1

theorem check_bad {av bv : DWord} (h : BadDescriptor bv) : partitionCheck av bv = some (.illegal, bv) := if_pos h
theorem check_top {av bv : DWord} (h : ¬ BadDescriptor bv) (ht : 0xBFFFF < topOf bv) :
    partitionCheck av bv = some (.spbound, BitVec.ofNat 64 (topOf bv)) := (if_neg h).trans (if_pos ht)

theorem shift57_eq_zero (v : DWord) : v >>> 57 = 0 ↔ v.toNat < 2 ^ 57 := by
  rw [← BitVec.toNat_inj, BitVec.toNat_ushiftRight, Nat.shiftRight_eq_div_pow, show (0 : DWord).toNat = 0 from rfl]
  omega

theorem check_address {av bv : DWord} (h : ¬ BadDescriptor bv) (ht : topOf bv ≤ 0xBFFFF) (ha : 2 ^ 57 ≤ av.toNat) :
    partitionCheck av bv = some (.illegal, av) :=
  (if_neg h).trans ((if_neg (Nat.not_lt.mpr ht)).trans (if_pos fun h0 => Nat.not_le.mpr ((shift57_eq_zero av).mp h0) ha))
theorem check_none {av bv : DWord} (h : ¬ BadDescriptor bv) (ht : topOf bv ≤ 0xBFFFF) (ha : av.toNat < 2 ^ 57) : partitionCheck av bv = none :=
  (if_neg h).trans ((if_neg (Nat.not_lt.mpr ht)).trans (if_neg (not_not_intro ((shift57_eq_zero av).mpr ha))))

theorem tag_rejects (hi : exec i s = tagOp s d a b pair body) (hs : Stands s 1 .any) (hr : RegsReady s (tagRegs d a b pair)) :
    (BadDescriptor (s.getS s.cur b) → Traps i s .illegal (s.getS s.cur b)) ∧
      (¬ BadDescriptor (s.getS s.cur b) → 0xBFFFF < topOf (s.getS s.cur b) → Traps i s .spbound (BitVec.ofNat 64 (topOf (s.getS s.cur b)))) ∧
      (¬ BadDescriptor (s.getS s.cur b) → topOf (s.getS s.cur b) ≤ 0xBFFFF → 2 ^ 57 ≤ (s.getS s.cur a).toNat →
        Traps i s .illegal (s.getS s.cur a)) :=
  ⟨fun h => tag_traps hi hs hr (check_bad h), fun h ht => tag_traps hi hs hr (check_top h ht),
    fun h ht ha => tag_traps hi hs hr (check_address h ht ha)⟩

/-! ### The result words (R203) -/

/-- A result word with a way. -/
def wayWord (p : Partition) (n status w pin : Nat) : DWord :=
  BitVec.ofNat 64 (status * 2 ^ 56 + n * 2 ^ 24 + pin * 2 ^ 23 + w * 2 ^ 20 + (p.base + ((n - p.first) * 8 + w) * slotSize p.sz))

/-- PIN of an entry. -/
def pinOf (e : TagEntry) : Nat := if e.pinmask = 0 then 0 else 1

theorem tagWord_some (status n : Nat) (t : TagSet) (p : Partition) (w : Nat) :
    tagWord status n t p (some w) = wayWord p n status w (pinOf (t.way w)) := by
  have hb : bit ((t.way w).pinmask != 0) = pinOf (t.way w) := by
    unfold pinOf bit
    by_cases h : (t.way w).pinmask = 0 <;> simp [h]
  unfold tagWord wayWord Partition.slot
  dsimp only
  rw [hb]
  simp only [Nat.add_assoc]

theorem tagWord_none (status n : Nat) (t : TagSet) (p : Partition) :
    tagWord status n t p none = BitVec.ofNat 64 (status * 2 ^ 56 + n * 2 ^ 24) := by
  unfold tagWord
  dsimp only
  rw [Nat.add_zero]

theorem way_touch (t : TagSet) (w v : Nat) : (t.touch w).way v = t.way v := rfl
theorem way_setWay (t : TagSet) (w : Nat) (e : TagEntry) : (t.setWay w e).way w = e := SMap.get_set_self _ _ _ _
theorem setWay_setWay (t : TagSet) (w : Nat) (e f : TagEntry) : (t.setWay w e).setWay w f = t.setWay w f := by
  simp only [TagSet.setWay, SMap.set_set]

end Instructions

/-! ### The five instructions (R204, R205) -/

section Five

variable {s : State} {c x w : Nat} {d a b : Reg}

theorem exec_tlook : exec (.tlook d a b) s = tagOp s d a b false fun q s p n t =>
    match t.find p.sz (p.line (s.getS q a)) with
    | some w => (t.touch w, tagWord 0 n t p (some w), 0)
    | none => (t, tagWord 1 n t p none, 0) := rfl
theorem exec_tevict : exec (.tevict d a b) s = tagOp s d a b false fun q s p n t =>
    match t.find p.sz (p.line (s.getS q a)) with
    | none => (t, tagWord 5 n t p none, 0)
    | some w =>
      if (t.way w).pinmask ≠ 0 then (t, tagWord 6 n t p (some w), 0)
      else (t.setWay w { t.way w with valid := false }, tagWord 0 n t p (some w), 0) := rfl
theorem exec_tunpin : exec (.tunpin d a b) s = tagOp s d a b false fun q s p n t =>
    match t.find p.sz (p.line (s.getS q a)) with
    | none => (t, tagWord 5 n t p none, 0)
    | some w =>
      if !((t.way w).pinmask.getLsbD (s.ownerCtx q)) then (t, tagWord 7 n t p (some w), 0)
      else
        (t.setWay w { t.way w with pinmask := (t.way w).pinmask &&& ~~~(1#24 <<< s.ownerCtx q) },
          tagWord 0 n (t.setWay w { t.way w with pinmask := (t.way w).pinmask &&& ~~~(1#24 <<< s.ownerCtx q) }) p (some w), 0) := rfl
theorem exec_tfill : exec (.tfill d a b) s = tagOp s d a b true fun q s p n t =>
    match (t.alloc p (p.line (s.getS q a))).way with
    | some w => ((t.alloc p (p.line (s.getS q a))).tags.touch w,
        tagWord (t.alloc p (p.line (s.getS q a))).status n (t.alloc p (p.line (s.getS q a))).tags p (some w),
        (t.alloc p (p.line (s.getS q a))).displaced)
    | none => (t, tagWord (t.alloc p (p.line (s.getS q a))).status n t p none, (t.alloc p (p.line (s.getS q a))).displaced) := rfl

/-- The context already pins the line. -/
def pinnedBy (t : TagSet) (p : Partition) (line x : Nat) : Bool :=
  match t.find p.sz line with
  | some w => (t.way w).pinmask.getLsbD x
  | none => false

/-- A way with one context's pin set, as the most recent. -/
def pinWay (t : TagSet) (w x : Nat) : TagSet :=
  (t.setWay w { t.way w with pinmask := (t.way w).pinmask ||| (1#24 <<< x) }).touch w

theorem exec_tpin : exec (.tpin d a b) s = tagOp s d a b true fun q s p n t =>
    if !pinnedBy t p (p.line (s.getS q a)) (s.ownerCtx q) &&
        decide ((s.thread q).pinquota.toNat ≤ (s.core q.core).pinsOf (s.ownerCtx q)) then
      (t, tagWord 4 n t p none, allOnes64)
    else
      match (t.alloc p (p.line (s.getS q a))).way with
      | some w => (pinWay (t.alloc p (p.line (s.getS q a))).tags w (s.ownerCtx q),
          tagWord (t.alloc p (p.line (s.getS q a))).status n (pinWay (t.alloc p (p.line (s.getS q a))).tags w (s.ownerCtx q)) p (some w),
          (t.alloc p (p.line (s.getS q a))).displaced)
      | none => (t, tagWord (t.alloc p (p.line (s.getS q a))).status n t p none, (t.alloc p (p.line (s.getS q a))).displaced) := rfl

/-- The partition, and the set that the address falls in. -/
def partOf (s : State) (b : Reg) : Partition := partitionOf (s.getS s.cur b)
def tagsOf (s : State) (c : Nat) (a b : Reg) : TagSet := s.tagSet c (setOf s a b)

/-- The words of the results (R203). -/
def wordOf (s : State) (a b : Reg) (status w pin : Nat) : DWord := wayWord (partOf s b) (setOf s a b) status w pin
def bareOf (s : State) (a b : Reg) (status : Nat) : DWord := BitVec.ofNat 64 (status * 2 ^ 56 + setOf s a b * 2 ^ 24)

variable (hg : Good s c a b) (hs : Stands s 1 .any)

section Single

variable (hr : RegsReady s (tagRegs d a b false))

include hg hs hr

theorem misses (h : (tagsOf s c a b).find (partOf s b).sz (lineOf s a b) = none) :
    Retires (.tlook d a b) s 1 (tagged s c d a b false (tagsOf s c a b) (bareOf s a b 1) 0) ∧
      Retires (.tevict d a b) s 1 (tagged s c d a b false (tagsOf s c a b) (bareOf s a b 5) 0) ∧
      Retires (.tunpin d a b) s 1 (tagged s c d a b false (tagsOf s c a b) (bareOf s a b 5) 0) := by
  unfold tagsOf partOf at h
  refine ⟨tag_retires hg exec_tlook hs hr ?_, tag_retires hg exec_tevict hs hr ?_, tag_retires hg exec_tunpin hs hr ?_⟩
  all_goals simp only [fresh_getS, line_eq hg, h, tagWord_none]; rfl

variable (h : (tagsOf s c a b).find (partOf s b).sz (lineOf s a b) = some w)

include h

theorem tlook_hits : Retires (.tlook d a b) s 1
    (tagged s c d a b false ((tagsOf s c a b).touch w) (wordOf s a b 0 w (pinOf ((tagsOf s c a b).way w))) 0) := by
  unfold tagsOf partOf at h
  refine tag_retires hg exec_tlook hs hr ?_
  simp only [fresh_getS, line_eq hg, h, tagWord_some]
  rfl

theorem tevict_pinned (hp : ((tagsOf s c a b).way w).pinmask ≠ 0) :
    Retires (.tevict d a b) s 1 (tagged s c d a b false (tagsOf s c a b) (wordOf s a b 6 w 1) 0) := by
  unfold tagsOf partOf at *
  refine tag_retires hg exec_tevict hs hr ?_
  simp only [fresh_getS, line_eq hg, h, tagWord_some, if_pos hp, pinOf, if_neg hp]
  rfl

theorem tevict_evicts (hp : ((tagsOf s c a b).way w).pinmask = 0) : Retires (.tevict d a b) s 1 (tagged s c d a b false
    ((tagsOf s c a b).setWay w { (tagsOf s c a b).way w with valid := false }) (wordOf s a b 0 w 0) 0) := by
  unfold tagsOf partOf at *
  refine tag_retires hg exec_tevict hs hr ?_
  simp only [fresh_getS, line_eq hg, h, tagWord_some, if_neg (not_not_intro hp), pinOf, if_pos hp]
  rfl

variable (hx : s.ownerCtx s.cur = x)

include hx

theorem tunpin_other (hp : ((tagsOf s c a b).way w).pinmask.getLsbD x = false) : Retires (.tunpin d a b) s 1
    (tagged s c d a b false (tagsOf s c a b) (wordOf s a b 7 w (pinOf ((tagsOf s c a b).way w))) 0) := by
  unfold tagsOf partOf at *
  refine tag_retires hg exec_tunpin hs hr ?_
  simp only [fresh_getS, fresh_ownerCtx, line_eq hg, h, hx, hp, tagWord_some, Bool.not_false, if_true]
  rfl

theorem tunpin_unpins (hp : ((tagsOf s c a b).way w).pinmask.getLsbD x = true) :
    let e := { (tagsOf s c a b).way w with pinmask := ((tagsOf s c a b).way w).pinmask &&& ~~~(1#24 <<< x) }
    Retires (.tunpin d a b) s 1 (tagged s c d a b false ((tagsOf s c a b).setWay w e) (wordOf s a b 0 w (pinOf e)) 0) := by
  unfold tagsOf partOf at *
  refine tag_retires hg exec_tunpin hs hr ?_
  simp only [fresh_getS, fresh_ownerCtx, line_eq hg, h, hx, hp, tagWord_some, way_setWay, Bool.not_true, Bool.false_eq_true, if_false]
  rfl

end Single

/-! ### TFILL and TPIN (R204) -/

section Pair

/-- A line as `TFILL` enters it. -/
def newLine (s : State) (a b : Reg) : TagEntry := { valid := true, sz := (partOf s b).sz, tag := lineOf s a b, pinmask := 0 }

/-- The address of the line that an entry holds. -/
def lineAddr (e : TagEntry) : DWord := BitVec.ofNat 64 (e.tag * slotSize e.sz)

/-- The address that d + 1 takes where a way was allocated. -/
def goneOf (t : TagSet) (w : Nat) : DWord := if t.invalidWay = none then lineAddr (t.way w) else 0xFFFFFFFFFFFFFFFF

variable (s) (c) (a) (b)

/-- What `alloc()` gives for the line of a partition (R204). -/
abbrev allocOf : Alloc := (tagsOf s c a b).alloc (partOf s b) (lineOf s a b)

variable {s} {c} {a} {b}

theorem alloc_found (h : (tagsOf s c a b).find (partOf s b).sz (lineOf s a b) = some w) :
    allocOf s c a b = ⟨tagsOf s c a b, some w, 0, allOnes64⟩ := by
  simp only [allocOf, TagSet.alloc, h]

theorem alloc_new (h : (tagsOf s c a b).find (partOf s b).sz (lineOf s a b) = none)
    (hw : (tagsOf s c a b).invalidWay = some w ∨ (tagsOf s c a b).invalidWay = none ∧ (tagsOf s c a b).victim = some w) :
    allocOf s c a b = ⟨(tagsOf s c a b).setWay w (newLine s a b), some w, 2, goneOf (tagsOf s c a b) w⟩ := by
  rcases hw with hi | ⟨hi, hv⟩
  · simp only [allocOf, TagSet.alloc, h, hi, goneOf, if_neg (Option.some_ne_none w)]
    rfl
  · simp only [allocOf, TagSet.alloc, h, hi, hv, goneOf, if_true]
    rfl

theorem alloc_full (h : (tagsOf s c a b).find (partOf s b).sz (lineOf s a b) = none) (hi : (tagsOf s c a b).invalidWay = none)
    (hv : (tagsOf s c a b).victim = none) : allocOf s c a b = ⟨tagsOf s c a b, none, 3, allOnes64⟩ := by
  simp only [allocOf, TagSet.alloc, h, hi, hv]

variable (hr : RegsReady s (tagRegs d a b true)) {u : TagSet} {status : Nat} {r2 : DWord}

include hg hs hr

theorem tfill_way (h : allocOf s c a b = ⟨u, some w, status, r2⟩) :
    Retires (.tfill d a b) s 1 (tagged s c d a b true (u.touch w) (wordOf s a b status w (pinOf (u.way w))) r2) := by
  unfold allocOf tagsOf partOf at h
  refine tag_retires hg exec_tfill hs hr ?_
  simp only [fresh_getS, line_eq hg, h, tagWord_some]
  rfl

theorem tfill_none (h : allocOf s c a b = ⟨u, none, status, r2⟩) :
    Retires (.tfill d a b) s 1 (tagged s c d a b true (tagsOf s c a b) (bareOf s a b status) r2) := by
  unfold allocOf tagsOf partOf at h
  refine tag_retires hg exec_tfill hs hr ?_
  simp only [fresh_getS, line_eq hg, h, tagWord_none]
  rfl

variable (hx : s.ownerCtx s.cur = x)

include hx

/-- The context has its pins used up, the line not among them. -/
def Spent (s : State) (c : Nat) (a b : Reg) (x : Nat) : Prop :=
  pinnedBy (tagsOf s c a b) (partOf s b) (lineOf s a b) x = false ∧ (s.ctx c x).pinquota.toNat ≤ (s.core c).pinsOf x

theorem spent_test : (!pinnedBy (tagsOf s c a b) (partOf s b) (lineOf s a b) x &&
    decide ((s.thread s.cur).pinquota.toNat ≤ (s.core c).pinsOf x)) = true ↔ Spent s c a b x := by
  have ht : s.thread s.cur = s.ctx c x := by rw [← hx, ← hg.core]; rfl
  simp only [Bool.and_eq_true, Bool.not_eq_true', decide_eq_true_eq, ht, Spent]

theorem tpin_spent (h : Spent s c a b x) :
    Retires (.tpin d a b) s 1 (tagged s c d a b true (tagsOf s c a b) (bareOf s a b 4) 0xFFFFFFFFFFFFFFFF) := by
  rw [← spent_test hg hs hr hx] at h
  unfold tagsOf partOf at h
  refine tag_retires hg exec_tpin hs hr ?_
  simp only [fresh_getS, fresh_ownerCtx, fresh_thread, fresh_core, line_eq hg, hg.core, hx, h, tagWord_none, if_true]
  rfl

theorem tpin_way (hq : ¬ Spent s c a b x) (h : allocOf s c a b = ⟨u, some w, status, r2⟩) :
    Retires (.tpin d a b) s 1 (tagged s c d a b true (pinWay u w x) (wordOf s a b status w (pinOf ((pinWay u w x).way w))) r2) := by
  rw [← spent_test hg hs hr hx] at hq
  unfold allocOf tagsOf partOf at h
  unfold tagsOf partOf at hq
  refine tag_retires hg exec_tpin hs hr ?_
  simp only [fresh_getS, fresh_ownerCtx, fresh_thread, fresh_core, line_eq hg, hg.core, hx, hq, h, tagWord_some, if_false]
  rfl

theorem tpin_none (hq : ¬ Spent s c a b x) (h : allocOf s c a b = ⟨u, none, status, r2⟩) :
    Retires (.tpin d a b) s 1 (tagged s c d a b true (tagsOf s c a b) (bareOf s a b status) r2) := by
  rw [← spent_test hg hs hr hx] at hq
  unfold allocOf tagsOf partOf at h
  unfold tagsOf partOf at hq
  refine tag_retires hg exec_tpin hs hr ?_
  simp only [fresh_getS, fresh_ownerCtx, fresh_thread, fresh_core, line_eq hg, hg.core, hx, hq, h, tagWord_none, if_false]
  rfl

end Pair

end Five

/-! ### Pins -/

section Pins

variable {t : TagSet} {p : Partition} {line x w : Nat} {e : TagEntry}

theorem pinnedBy_some (h : t.find p.sz line = some w) : pinnedBy t p line x = (t.way w).pinmask.getLsbD x := by simp only [pinnedBy, h]
theorem pinnedBy_none (h : t.find p.sz line = none) : pinnedBy t p line x = false := by simp only [pinnedBy, h]

/-- With a context's bit set, a line is pinned. -/
theorem pinOf_set (hx : x < 24) (m : BitVec 24) : pinOf { e with pinmask := m ||| (1#24 <<< x) } = 1 := by
  refine if_neg fun h => ?_
  have := congrArg (fun v : BitVec 24 => v.getLsbD x) h
  simp [hx] at this

theorem pinWay_way : (pinWay t w x).way w = { t.way w with pinmask := (t.way w).pinmask ||| (1#24 <<< x) } := way_setWay t w _

theorem pinWay_setWay : pinWay (t.setWay w e) w x = (t.setWay w { e with pinmask := e.pinmask ||| (1#24 <<< x) }).touch w := by
  unfold pinWay
  rw [way_setWay, setWay_setWay]

end Pins

theorem fold8_eq (n : Nat) : fold8 n = n / 2 ^ (8 * 0) % 256 ^^^ n / 2 ^ (8 * 1) % 256 ^^^ n / 2 ^ (8 * 2) % 256 ^^^ n / 2 ^ (8 * 3) % 256 ^^^
    n / 2 ^ (8 * 4) % 256 ^^^ n / 2 ^ (8 * 5) % 256 ^^^ n / 2 ^ (8 * 6) % 256 ^^^ n / 2 ^ (8 * 7) % 256 := by
  show ((((((((0 ^^^ _) ^^^ _) ^^^ _) ^^^ _) ^^^ _) ^^^ _) ^^^ _) ^^^ _) = _
  rw [Nat.zero_xor]

/-- Settles O28. -/
theorem tagTable : Obligations.TagTable := by
  unfold Obligations.TagTable
  constructor
  · intro s c x d a b hcur hx24 hs
    have hx : s.ownerCtx s.cur = x := by rw [hcur]; rfl
    have hc : s.cur.core = c := by rw [hcur]; rfl
    refine ⟨fun hr i hi => ?_, fun hr i hi => ?_, fun hb ht ha hr => ?_, fun hb ht ha hr => ?_⟩
    · simp only [List.mem_cons, List.not_mem_nil, or_false] at hi
      rcases hi with rfl | rfl | rfl
      · exact tag_rejects exec_tlook hs hr
      · exact tag_rejects exec_tevict hs hr
      · exact tag_rejects exec_tunpin hs hr
    · simp only [List.mem_cons, List.not_mem_nil, or_false] at hi
      rcases hi with rfl | rfl
      · exact tag_rejects exec_tfill hs hr
      · exact tag_rejects exec_tpin hs hr
    · have hg : Good s c a b := ⟨hc, ha, check_none hb ht ha⟩
      exact ⟨fun h => misses hg hs hr h, fun w h => ⟨tlook_hits hg hs hr h, fun hp => tevict_pinned hg hs hr h hp,
        fun hp => tevict_evicts hg hs hr h hp, fun hp => tunpin_other hg hs hr h hx hp, fun hp => tunpin_unpins hg hs hr h hx hp⟩⟩
    · have hg : Good s c a b := ⟨hc, ha, check_none hb ht ha⟩
      refine ⟨fun w h => ⟨tfill_way hg hs hr (alloc_found h), fun hp hq => ?_, fun hp => ?_⟩, fun h hq => ?_, fun w h hw => ⟨?_, fun hq => ?_⟩,
        fun h hi hv => ⟨tfill_none hg hs hr (alloc_full h hi hv), fun hq => ?_⟩⟩
      · exact tpin_spent hg hs hr hx ⟨(pinnedBy_some h).trans hp, Nat.not_lt.mp hq⟩
      · have hn : ¬ Spent s c a b x := fun ⟨h1, h2⟩ => hp.elim (fun hp => Bool.false_ne_true ((h1.symm.trans (pinnedBy_some h)).trans hp)) (Nat.not_lt.mpr h2)
        have := tpin_way hg hs hr hx hn (alloc_found h)
        rw [pinWay_way, pinOf_set hx24] at this
        exact this
      · exact tpin_spent hg hs hr hx ⟨pinnedBy_none h, Nat.not_lt.mp hq⟩
      · have := tfill_way hg hs hr (alloc_new h hw)
        rw [way_setWay] at this
        exact this
      · have := tpin_way hg hs hr hx (fun hsp => Nat.not_lt.mpr hsp.2 hq) (alloc_new h hw)
        rw [pinWay_way, pinOf_set hx24, pinWay_setWay, show (newLine s a b).pinmask ||| (1#24 <<< x) = 1#24 <<< x from BitVec.zero_or] at this
        exact this
      · exact tpin_none hg hs hr hx (fun hsp => Nat.not_lt.mpr hsp.2 hq) (alloc_full h hi hv)
  · intro t w sz line
    exact ⟨rfl, rfl, filter_touch t w, count_touch t w, victim_some t w, victim_none t, invalidWay_some t w, invalidWay_none t,
      find_some t w sz line, find_none t sz line, fold8_eq line⟩

end Sys2Proof.Proofs.Tags
end

section
/-! PROOFS. Stream registers (R183, R206 to R210). -/

namespace Sys2Proof.Proofs.Streams

open Sys2Proof.Machine
open Sys2Proof.Safety
open Sys2Proof.Proofs.Traps
open Sys2Proof.Proofs.Ready
open Sys2Proof.Proofs.Groups
open Sys2Proof.Proofs.Lanes
open Sys2Proof.Proofs.Tokens
open Sys2Proof.Proofs.Landings
open Sys2Proof.Proofs.VectorMoves

/-! ### Numbers of bytes (R4) -/

section Bytes

theorem natOfBytes_eq (l : List Byte) : natOfBytes l = Nat.ofDigits 256 (l.map BitVec.toNat) := by
  induction l with
  | nil => rfl
  | cons b l ih => rw [natOfBytes, ih, List.map_cons, Nat.ofDigits_cons]

theorem byte_lt {l : List Byte} {n : Nat} (h : n ∈ l.map BitVec.toNat) : n < 256 := by
  obtain ⟨b, -, rfl⟩ := List.mem_map.mp h
  exact b.isLt

theorem natOfBytes_lt (l : List Byte) : natOfBytes l < 256 ^ l.length := by
  rw [natOfBytes_eq, ← List.length_map (f := BitVec.toNat)]
  exact Nat.ofDigits_lt_base_pow_length (by decide) fun _ => byte_lt

theorem natOfBytes_lt_two (l : List Byte) : natOfBytes l < 2 ^ (8 * l.length) := by
  rw [Nat.pow_mul 2 8]
  exact natOfBytes_lt l

/-- Bytes k to k + n − 1 of a number. -/
theorem natOfBytes_window (l : List Byte) (k n : Nat) : natOfBytes l / 256 ^ k % 256 ^ n = natOfBytes ((l.drop k).take n) := by
  rw [natOfBytes_eq, natOfBytes_eq, Nat.ofDigits_div_pow_eq_ofDigits_drop k (by decide) _ fun _ => byte_lt,
    Nat.ofDigits_mod_pow_eq_ofDigits_take n (by decide) _ fun _ h => byte_lt (List.mem_of_mem_drop h), List.map_take, List.map_drop]

theorem natOfBytes_range (f : Nat → Byte) (n : Nat) :
    (List.range n).foldl (fun x i => x + (f i).toNat * 256 ^ i) 0 = natOfBytes ((List.range n).map f) := by
  induction n with
  | zero => rfl
  | succ n ih =>
    rw [List.range_succ, List.foldl_append, ih, List.map_append, natOfBytes_eq, natOfBytes_eq, List.map_append, Nat.ofDigits_append,
      List.length_map, List.length_map, List.length_range]
    show _ = _ + 256 ^ n * Nat.ofDigits 256 [(f n).toNat]
    rw [Nat.ofDigits_singleton, Nat.mul_comm (256 ^ n)]
    rfl

theorem window_range (f : Nat → Byte) {k n m : Nat} (h : k + n ≤ m) :
    (((List.range m).map f).drop k).take n = (List.range n).map fun i => f (k + i) := by
  refine List.ext_getElem (by simp; omega) fun i h1 h2 => ?_
  simp

/-- Bytes k to k + n − 1 of a number, one by one. -/
theorem natOfBytes_part (f : Nat → Byte) {k n m : Nat} (h : k + n ≤ m) : natOfBytes ((List.range m).map f) / 256 ^ k % 256 ^ n =
    (List.range n).foldl (fun x i => x + (f (k + i)).toNat * 256 ^ i) 0 := by
  rw [natOfBytes_window, window_range f h, natOfBytes_range fun i => f (k + i)]

theorem two_pow_bytes (n : Nat) : 2 ^ (8 * n) = 256 ^ n := Nat.pow_mul 2 8 n

/-- An element of a register of bytes. -/
theorem velem_bytes (f : Nat → Byte) {n j : Nat} (h : n * (j + 1) ≤ 1024) :
    velem (BitVec.ofNat 8192 (natOfBytes ((List.range 1024).map f))) (8 * n) j =
      (List.range n).foldl (fun x i => x + (f (n * j + i)).toNat * 256 ^ i) 0 := by
  have hlt := natOfBytes_lt_two ((List.range 1024).map f)
  rw [List.length_map, List.length_range, show 8 * 1024 = 8192 from rfl] at hlt
  rw [velem, BitVec.toNat_ofNat, Nat.mod_eq_of_lt hlt, Nat.mul_assoc, two_pow_bytes, two_pow_bytes]
  exact natOfBytes_part f (by rwa [Nat.mul_succ] at h)

/-- The low bytes of a number of n bytes extended to 64 bits are its own. -/
theorem byte_extended (sg : Bool) {x n j : Nat} (h : j < n) (h8 : j < 8) :
    (if sg then sextN (8 * n) x else zextN (8 * n) x).toNat / 256 ^ j % 256 = x / 256 ^ j % 256 := by
  have h64 : 256 ^ j * 256 ∣ 2 ^ 64 := by
    rw [← Nat.pow_succ, show 256 = 2 ^ 8 from rfl, ← Nat.pow_mul]
    exact Nat.pow_dvd_pow 2 (by omega)
  have hn : 256 ^ j * 256 ∣ 2 ^ (8 * n) := by
    rw [← Nat.pow_succ, show 256 = 2 ^ 8 from rfl, ← Nat.pow_mul]
    exact Nat.pow_dvd_pow 2 (by omega)
  suffices hm : (if sg then sextN (8 * n) x else zextN (8 * n) x).toNat % (256 ^ j * 256) = x % (256 ^ j * 256) by
    rw [← Nat.mod_mul_right_div_self, hm, Nat.mod_mul_right_div_self]
  cases sg with
  | false =>
    rw [if_neg Bool.false_ne_true, zextN, BitVec.toNat_ofNat, Nat.mod_mod_of_dvd _ h64, Nat.mod_mod_of_dvd _ hn]
  | true =>
    have hs : (signedOf (8 * n) x) % ((256 ^ j * 256 : Nat) : Int) = (x : Int) % ((256 ^ j * 256 : Nat) : Int) := by
      have hx : ((x % 2 ^ (8 * n) : Nat) : Int) % ((256 ^ j * 256 : Nat) : Int) = (x : Int) % ((256 ^ j * 256 : Nat) : Int) := by
        rw [← Int.natCast_emod, ← Int.natCast_emod, Nat.mod_mod_of_dvd _ hn]
      unfold signedOf
      dsimp only
      split
      · exact hx
      · rw [Int.sub_emod, Int.emod_eq_zero_of_dvd (Int.natCast_dvd_natCast.mpr hn), Int.sub_zero, Int.emod_emod_of_dvd _ (dvd_refl _), hx]
    rw [if_pos rfl, sextN, BitVec.toNat_ofInt]
    apply Int.ofNat.inj
    show (((_ % _ : Nat)) : Int) = ((_ % _ : Nat) : Int)
    rw [Int.natCast_emod, Int.toNat_of_nonneg (Int.emod_nonneg _ (by decide)), Int.emod_emod_of_dvd _ (Int.natCast_dvd_natCast.mpr h64), hs,
      Int.natCast_emod]

theorem toInt_sextN {w x : Nat} (h0 : 0 < w) (h64 : w ≤ 64) : (sextN w x).toInt = signedOf w x ∧
    -(2 ^ (w - 1) : Int) ≤ signedOf w x ∧ signedOf w x < 2 ^ (w - 1) := by
  have hw : (2 : Int) ^ w = 2 ^ (w - 1) + 2 ^ (w - 1) := by
    obtain ⟨v, rfl⟩ : ∃ v, w = v + 1 := ⟨w - 1, by omega⟩
    rw [Nat.add_sub_cancel, pow_succ]; ring
  have hle : (2 : Int) ^ (w - 1) ≤ 2 ^ 63 := pow_le_pow_right₀ (by decide) (by omega)
  have hx : ((x % 2 ^ w : Nat) : Int) < 2 ^ w := by exact_mod_cast Nat.mod_lt x (Nat.two_pow_pos w)
  have hb : -(2 ^ (w - 1) : Int) ≤ signedOf w x ∧ signedOf w x < 2 ^ (w - 1) := by
    have hp : (0 : Int) < 2 ^ (w - 1) := by positivity
    unfold signedOf
    dsimp only
    split
    · next h =>
      have : ((x % 2 ^ w : Nat) : Int) < 2 ^ (w - 1) := by exact_mod_cast h
      exact ⟨by omega, this⟩
    · next h =>
      have : (2 ^ (w - 1) : Int) ≤ ((x % 2 ^ w : Nat) : Int) := by exact_mod_cast Nat.not_lt.mp h
      push_cast at *
      constructor <;> omega
  refine ⟨?_, hb⟩
  rw [sextN, BitVec.toInt_ofInt]
  exact Int.bmod_eq_of_le (by norm_num; omega) (by norm_num; omega)

end Bytes

/-! ### QBIND, QGET and QREL (R207, R209, R210) -/

section Control

variable {s : State} {d a b : Reg}

/-- What `QBIND` comes to once its registers are ready. -/
def bindRes (q : Seqr) (d a b : Reg) (s : State) : Res :=
  if (s.stream q.core d.toNat).ring.isSome && ((s.stream q.core d.toNat).arr != (s.stream q.core d.toNat).rel ||
      (s.stream q.core d.toNat).clm != (s.stream q.core d.toNat).rel || (s.core q.core).streamBusy d.toNat) then
    .trap .illegal (BitVec.ofNat 64 d.toNat)
  else if (s.getS q b) >>> 24 ≠ 0 ∨ (s.getS q b).getLsbD 20 ∨ (ringOf (s.getS q a) (s.getS q b)).size % 128 ≠ 0 then .trap .illegal (s.getS q b)
  else if (ringOf (s.getS q a) (s.getS q b)).size = 0 then .retire ((s.setStream q.core d.toNat {}).holdFor q 1)
  else if (s.getS q a).toNat % 128 ≠ 0 then .trap .align (s.getS q a)
  else if spadTop < (s.getS q a).toNat + (ringOf (s.getS q a) (s.getS q b)).size - 1 then .trap .spbound (s.getS q a)
  else .retire ((s.setStream q.core d.toNat { ring := some (ringOf (s.getS q a) (s.getS q b)) }).holdFor q 1)

/-- What `QGET` leaves of its stream. -/
def claimed (s : State) (q : Seqr) (d a : Reg) (r : Ring) : State :=
  let x := s.stream q.core a.toNat
  let k := s.core q.core
  (s.setCore q.core { k with nextClaim := k.nextClaim + 1 }).setStream q.core a.toNat
    { x with clm := x.clm + r.esz, claims := x.claims ++ [⟨k.nextClaim, x.clm, r.esz, q, d.toNat⟩] }

/-- What `QGET` leaves of its stream and of its program. -/
def gotten (s : State) (q : Seqr) (d a : Reg) (r : Ring) : State :=
  (claimed s q d a r).setProg q (((claimed s q d a r).prog q).markEmpty d.toNat)

/-- What `QGET` comes to once its register is ready. -/
def getRes (q : Seqr) (d a : Reg) (s : State) : Res :=
  match (s.stream q.core a.toNat).ring with
  | none => .trap .illegal (BitVec.ofNat 64 a.toNat)
  | some r =>
    if 16 ≤ ((s.stream q.core a.toNat).claims.filter (fun c => decide (c.owner = q))).length then .stall else .retire (gotten s q d a r)

/-- What `QREL` comes to once its register is ready. -/
def relRes (q : Seqr) (d a : Reg) (s : State) : Res :=
  if (s.stream q.core a.toNat).ring.isNone then .trap .illegal (BitVec.ofNat 64 a.toNat)
  else
    let rel := (s.stream q.core a.toNat).claims.foldl (fun m k => min m k.start) (s.stream q.core a.toNat).clm
    .retire (((s.setStream q.core a.toNat { s.stream q.core a.toNat with rel := rel }).setS q d (BitVec.ofNat 64 rel)).holdFor q 1)

theorem exec_qbind : exec (.qbind d a b) s = issue s 1 .any fun q s => s.ready q [srcS a, srcS b] [] (bindRes q d a b s) := rfl
theorem exec_qget : exec (.qget d a) s = issue s 1 .any fun q s => s.ready q [] [srcS d] (getRes q d a s) := rfl
theorem exec_qrel : exec (.qrel d a) s = issue s 1 .any fun q s => s.ready q [] [srcS d] (relRes q d a s) := rfl

theorem stream_fresh (c n : Nat) : (fresh s).stream c n = s.stream c n := rfl

/-- A ring that is in use. -/
def Busy (s : State) (c n : Nat) : Prop := (s.stream c n).ring ≠ none ∧
  ((s.stream c n).arr ≠ (s.stream c n).rel ∨ (s.stream c n).clm ≠ (s.stream c n).rel ∨ (s.core c).streamBusy n = true)

theorem busy_iff (c n : Nat) : ((s.stream c n).ring.isSome && ((s.stream c n).arr != (s.stream c n).rel ||
    (s.stream c n).clm != (s.stream c n).rel || (s.core c).streamBusy n)) = true ↔ Busy s c n := by
  simp only [Busy, Bool.and_eq_true, Bool.or_eq_true, bne_iff_ne, ne_eq, or_assoc, Option.isSome_iff_ne_none]

/-- A descriptor that R207 turns down. -/
def BadBind (v : DWord) : Prop := 2 ^ 24 ≤ v.toNat ∨ v.toNat / 2 ^ 20 % 2 = 1 ∨ v.toNat % 2 ^ 20 % 128 ≠ 0

theorem badBind_iff (av v : DWord) : (v >>> 24 ≠ 0 ∨ v.getLsbD 20 ∨ (ringOf av v).size % 128 ≠ 0) ↔ BadBind v := by
  have h1 : v >>> 24 ≠ 0 ↔ 2 ^ 24 ≤ v.toNat := by
    rw [ne_eq, ← BitVec.toNat_inj, BitVec.toNat_ushiftRight, Nat.shiftRight_eq_div_pow, show (0 : DWord).toNat = 0 from rfl]
    omega
  have h2 : v.getLsbD 20 = true ↔ v.toNat / 2 ^ 20 % 2 = 1 := by
    rw [BitVec.getLsbD, Nat.testBit_eq_decide_div_mod_eq, decide_eq_true_iff]
  exact or_congr h1 (or_congr h2 Iff.rfl)

/-- The lowest start of the claims, or CLM (R210). -/
theorem foldl_min (l : List QClaim) (m : Nat) :
    l.foldl (fun m k => min m k.start) m ≤ m ∧ (∀ e ∈ l, l.foldl (fun m k => min m k.start) m ≤ e.start) ∧
      (l.foldl (fun m k => min m k.start) m = m ∨ ∃ e, e ∈ l ∧ l.foldl (fun m k => min m k.start) m = e.start) := by
  induction l generalizing m with
  | nil => exact ⟨Nat.le_refl m, fun e he => absurd he List.not_mem_nil, Or.inl rfl⟩
  | cons k l ih =>
    rw [List.foldl_cons]
    obtain ⟨hle, hall, hat⟩ := ih (min m k.start)
    refine ⟨hle.trans (Nat.min_le_left _ _), fun e he => ?_, ?_⟩
    · rcases List.mem_cons.mp he with rfl | he
      · exact hle.trans (Nat.min_le_right _ _)
      · exact hall e he
    · rcases hat with h | ⟨e, he, h⟩
      · rcases Nat.le_total m k.start with hm | hm
        · exact Or.inl (h.trans (Nat.min_eq_left hm))
        · exact Or.inr ⟨k, List.mem_cons_self, h.trans (Nat.min_eq_right hm)⟩
      · exact Or.inr ⟨e, List.mem_cons_of_mem _ he, h⟩

theorem stream_setStream (c n : Nat) (x : Stream) : (s.setStream c n x).stream c n = x := by
  simp only [State.setStream, State.stream, State.core_setCore_self, SMap.get_set_self]

theorem beside_setStream (c n : Nat) (x : Stream) : Beside s (s.setStream c n x) := beside_setCore rfl rfl rfl rfl rfl

theorem beside_claimed (q : Seqr) (r : Ring) : Beside s (claimed s q d a r) :=
  (beside_setCore (c := q.core) (k := { s.core q.core with nextClaim := (s.core q.core).nextClaim + 1 }) rfl rfl rfl rfl rfl).trans
    (beside_setStream _ _ _)

theorem stream_congr {t : State} {c : Nat} (h : (t.core c).streams = (s.core c).streams) (n : Nat) : t.stream c n = s.stream c n :=
  congrArg (fun m => SMap.get ({} : Stream) m n) h

theorem streams_of_after {s1 t : State} {len : Nat} (h : After s s1 t len) (c n : Nat) : t.stream c n = s1.stream c n :=
  stream_congr (congrArg Core.streams (h.cores c) :) n

theorem bytesSame_setProg (q : Seqr) (p : Prog) : BytesSame s (s.setProg q p) :=
  bytesSame_of (deviceSame_setProg s q p) (coresSame_setProg s q p)

theorem isEmptyS_markEmpty (p : Prog) (d : Reg) {r : Nat} (hr : r < 64) :
    (p.markEmpty d.toNat).isEmptyS r = (decide (r = d.toNat ∧ r ≠ 0) || p.isEmptyS r) := by
  rw [markEmpty_eq]
  unfold Prog.isEmptyS
  by_cases h0 : r = 0
  · subst h0; simp
  · by_cases hd : d = 0
    · subst hd
      simp [h0]
    · rw [if_neg hd, BitVec.getLsbD_or, BitVec.getLsbD_shiftLeft, Bool.eq_iff_iff]
      by_cases he : r = d.toNat
      · subst he; simp [h0, hr]
      · have : ¬ (d.toNat ≤ r ∧ r - d.toNat = 0) := fun h => he (by omega)
        simp [h0, he]
        omega

/-- A claim is taken, and its destination is empty (R209). -/
theorem qget_claims {r : Ring} (hs : Stands s 1 .any) (hr : RegsReady s [srcS d]) (h : (s.stream s.cur.core a.toNat).ring = some r)
    (hl : ((s.stream s.cur.core a.toNat).claims.filter (fun e => decide (e.owner = s.cur))).length < 16) :
    ∃ t, exec (.qget d a) s = .next t ∧ BytesSame s t ∧ (∀ r, t.getS s.cur r = s.getS s.cur r) ∧
      (∀ r, r < 64 → (t.prog s.cur).isEmptyS r = (decide (r = d.toNat ∧ r ≠ 0) || (s.prog s.cur).isEmptyS r)) ∧
      t.stream s.cur.core a.toNat = { s.stream s.cur.core a.toNat with
        clm := (s.stream s.cur.core a.toNat).clm + r.esz
        claims := (s.stream s.cur.core a.toNat).claims ++
          [⟨(s.core s.cur.core).nextClaim, (s.stream s.cur.core a.toNat).clm, r.esz, s.cur, d.toNat⟩] } := by
  have hret : Retires (.qget d a) s 1 (gotten (fresh s) s.cur d a r) :=
    retires_of_ready _ exec_qget rfl hs hr (by
      simp only [getRes, stream_fresh, h]
      exact if_neg (Nat.not_le.mpr hl))
  obtain ⟨t, ht, hafter⟩ := hret
  have hb : Beside s (claimed (fresh s) s.cur d a r) := (beside_fresh s).trans (beside_claimed _ _)
  have hp : (gotten (fresh s) s.cur d a r).prog s.cur = (s.prog s.cur).markEmpty d.toNat := by
    rw [gotten, State.prog_setProg_self, hb.progs]
  obtain ⟨hS, -, hE, -, -⟩ := advance_rest ((s.prog s.cur).markEmpty d.toNat) s.cur.isFork (seqNext (s.prog s.cur).pc 1)
  have hpt := hafter.prog.trans (congrArg (fun p : Prog => p.advance s.cur.isFork (seqNext (s.prog s.cur).pc 1)) hp)
  refine ⟨t, ht, bytesSame_trans ?_ (bytesSame_of_after hafter), fun r => ?_, fun r hr => ?_, ?_⟩
  · exact bytesSame_trans hb.bytes (bytesSame_setProg _ _)
  · rw [State.getS, hpt, Prog.getS, hS, markEmpty_eq]
    rfl
  · rw [hpt, Prog.isEmptyS, hE]
    exact isEmptyS_markEmpty _ d hr
  · rw [streams_of_after hafter, gotten, stream_congr (State.streams_core_setProg _ _ _ _), claimed, stream_setStream]
    rfl

end Control

/-! ### VLDQ (R183) -/

section Loads

variable {s : State} {d a fn : Reg} {lw : LW}

/-- What `VLDQ` comes to once it can issue. -/
def loadRes (d a fn : Reg) (lw : LW) (q : Seqr) (s : State) : Res :=
  match (s.stream q.core a.toNat).ring with
  | none => .trap .illegal (BitVec.ofNat 64 a.toNat)
  | some r =>
    if r.size < 1024 then .trap .illegal (BitVec.ofNat 64 a.toNat)
    else if (s.stream q.core a.toNat).arr < (s.stream q.core a.toNat).clm + 1024 then .stall
    else
      vecCommit q (s.setStream q.core a.toNat { s.stream q.core a.toNat with clm := (s.stream q.core a.toNat).clm + 1024 }) true d.toNat
        (laneResults lw (s.getV q lw.greg) (s.getV q d) (Fmt.vwidth fn) (fun i =>
          (velem (BitVec.ofNat 8192 (natOfBytes (s.streamBytes q.core r (s.stream q.core a.toNat).clm 1024))) (Fmt.vwidth fn) i, 0))).1 0 4

theorem exec_vldq : exec (.vldq d a fn lw) s = vecIssue s lw [] [srcV d] 2 (loadRes d a fn lw) := rfl

theorem stream_laned (dp c n : Nat) : (laned s dp).stream c n = s.stream c n := by
  refine stream_congr ?_ n
  rw [core_laned]
  split
  · next e => rw [e]
  · rfl

theorem spad_laned (dp c : Nat) : ((laned s dp).core c).spad = (s.core c).spad := by
  rw [core_laned]
  split
  · next e => rw [e]
  · rfl

/-- A vector instruction that traps does so with the address of the instruction. -/
theorem traps_of_vecReady {i : Instr} {w : Nat} {srcs dests : List Src} {dp : Nat} {body : Seqr → State → Res} {c : Cause} {v : DWord}
    (hi : exec i s = vecIssue s lw srcs dests dp body) (hr : VecReady s lw w (srcs ++ dests)) (hb : body s.cur (laned s dp) = .trap c v) :
    Traps i s c v := by
  rw [Traps, issue_of_vecReady hi hr hb (fun _ => Res.noConfusion), finish, fresh_prog]
  rfl

theorem stalls_of_vecReady {i : Instr} {w : Nat} {srcs dests : List Src} {dp : Nat} {body : Seqr → State → Res}
    (hi : exec i s = vecIssue s lw srcs dests dp body) (hr : VecReady s lw w (srcs ++ dests)) (hb : body s.cur (laned s dp) = .stall) :
    Stalls i s := by
  rw [Stalls, issue_of_vecReady hi hr hb (fun _ => Res.noConfusion)]
  rfl

/-- The bytes of the ring that a `VLDQ` takes. -/
theorem streamBytes_laned (c : Nat) (r : Ring) (p n : Nat) : (laned s 2).streamBytes c r p n =
    (List.range n).map fun k => Memory.read (s.core c).spad (r.base + (p + k) % r.size) := by
  rw [State.streamBytes, spad_laned]

/-- The register that a `VLDQ` writes, as a number. -/
def loaded (s : State) (c : Nat) (d a fn : Reg) (lw : LW) (r : Ring) : Nat × Flags :=
  laneOut s lw (Fmt.vwidth fn) d fun i => (velem (BitVec.ofNat 8192 (natOfBytes ((List.range 1024).map fun k =>
    Memory.read (s.core c).spad (r.base + ((s.stream c a.toNat).clm + k) % r.size)))) (Fmt.vwidth fn) i, 0)

theorem vwidth_bytes (h : IsElem fn) : 8 * (Fmt.vwidth fn / 8) = Fmt.vwidth fn ∧ 0 < Fmt.vwidth fn := by
  obtain ⟨hle, hne⟩ := h
  unfold Fmt.vwidth
  generalize fn.toNat = n at hle hne
  interval_cases n <;> first | exact absurd rfl hne | decide

theorem vldq_loads {c u : Nat} {r : Ring} (hf : IsElem fn) (hr : VecReady s lw (Fmt.vwidth fn) [srcV d]) (hc : s.cur = .vec c u)
    (h : (s.stream c a.toNat).ring = some r) (hsz : 1024 ≤ r.size) (harr : (s.stream c a.toNat).clm + 1024 ≤ (s.stream c a.toNat).arr) :
    ∃ t v, exec (.vldq d a fn lw) s = .next t ∧ BytesSame s t ∧
      t.stream c a.toNat = { s.stream c a.toNat with clm := (s.stream c a.toNat).clm + 1024 } ∧
      lanesHold s lw (Fmt.vwidth fn) d (fun j => (List.range (Fmt.vwidth fn / 8)).foldl (fun x i => x + (Memory.read (s.core c).spad
        (r.base + ((s.stream c a.toNat).clm + Fmt.vwidth fn / 8 * j + i) % r.size)).toNat * 256 ^ i) 0) v ∧
      ∃ l, (t.slot c u).results = l ++ [⟨true, d.toNat, v, s.now + 4, false, 0, 0, (s.prog s.cur).pc, (s.prog s.cur).pend, none⟩] := by
  have hcore : s.cur.core = c := by rw [hc]; rfl
  have hres : loadRes d a fn lw s.cur (laned s 2) = vecCommit s.cur ((laned s 2).setStream c a.toNat
      { s.stream c a.toNat with clm := (s.stream c a.toNat).clm + 1024 }) true d.toNat (loaded s c d a fn lw r).1 0 4 := by
    unfold loadRes
    rw [hcore]
    simp only [stream_laned, h, if_neg (Nat.not_lt.mpr hsz), if_neg (Nat.not_lt.mpr harr), streamBytes_laned, getV_laned]
    rfl
  generalize hv : (loaded s c d a fn lw r).1 = v at hres
  generalize hU : (laned s 2).setStream c a.toNat _ = U at hres
  have hbes : Beside s U := hU ▸ (beside_laned s 2).trans (beside_setStream _ _ _)
  have hnow : U.now = s.now := by rw [← hU]; rfl
  have hstr : U.stream c a.toNat = { s.stream c a.toNat with clm := (s.stream c a.toNat).clm + 1024 } := by rw [← hU, stream_setStream]
  have hcommit : vecCommit s.cur U true d.toNat v 0 4 = .retire ((U.orFsr s.cur 0).addResult s.cur
      ⟨true, d.toNat, v, s.now + 4, false, 0, 0, (s.prog s.cur).pc, (s.prog s.cur).pend, none⟩) := by
    have h0 : Flags.enabled 0 (U.thread s.cur).fte = 0 := BitVec.zero_and
    unfold vecCommit
    dsimp only
    rw [h0, hbes.progs, ← hnow]
    rfl
  have hexec := issue_of_vecReady exec_vldq hr (hres.trans hcommit) (fun _ => Res.noConfusion)
  have hafter := after_finish s (fresh s) ((U.orFsr s.cur 0).addResult s.cur
      ⟨true, d.toNat, v, s.now + 4, false, 0, 0, (s.prog s.cur).pc, (s.prog s.cur).pend, none⟩) 2 (fresh_prog s _)
  refine ⟨_, v, hexec, bytesSame_trans hbes.bytes (bytesSame_trans ?_ (bytesSame_of_after hafter)), ?_, ?_,
    ((U.orFsr s.cur 0).slot c u).results, ?_⟩
  · rw [hc]
    exact bytesSame_trans (bytesSame_setCtx _ _ _ _) (bytesSame_setSlot _ _ _ _)
  · rw [streams_of_after hafter, ← hstr]
    refine stream_congr ?_ _
    rw [hc]
    exact (State.streams_core_setSlot _ _ _ _ _).trans (State.streams_core_setCtx _ _ _ _ _)
  · intro j hj
    obtain ⟨h8, h0⟩ := vwidth_bytes hf
    rw [← hv]
    refine (lanesHold_laneOut hr.gbit (vwidth_dvd hf) j hj).trans ?_
    refine ite_congr rfl (fun _ => congrArg (· % 2 ^ Fmt.vwidth fn) ?_) fun _ => rfl
    have hb : Fmt.vwidth fn / 8 * (j + 1) ≤ 1024 := by
      have h1 : (j + 1) * Fmt.vwidth fn ≤ 8192 := (Nat.le_div_iff_mul_le h0).mp hj
      rw [← h8, Nat.mul_comm, Nat.mul_assoc] at h1
      omega
    dsimp only
    conv_lhs => rw [← h8]
    refine (velem_bytes _ hb).trans ?_
    simp only [Nat.add_assoc]
  · refine (congrArg VSlot.results (hafter.slots c u) :).trans ?_
    rw [hc]
    exact congrArg VSlot.results (State.slot_setSlot_self _ _ _ _)

end Loads

/-! ### The fill of a claim (R209) -/

section Fills

variable {s : State} {r : Ring} {e : QClaim} {c n : Nat}

/-- The value that a claim's bytes come to. -/
def fillOf (s : State) (c : Nat) (r : Ring) (e : QClaim) : DWord :=
  if r.sgn then sextN (8 * e.len) (natOfBytes (s.streamBytes c r e.start e.len)) else zextN (8 * e.len) (natOfBytes (s.streamBytes c r e.start e.len))

/-- A claim that is filled is no longer open. -/
def closed (s : State) (c n : Nat) (e : QClaim) : State :=
  s.setStream c n { s.stream c n with claims := (s.stream c n).claims.filter (fun j => j.id != e.id) }

theorem exec_qgetFill (h1 : s.target.core = c) (h2 : s.target.unit = n) (hr : (s.stream c n).ring = some r)
    (he : (s.stream c n).claims.find? (fun k => k.id == s.target.id) = some e) (harr : e.start + e.len ≤ (s.stream c n).arr)
    (haway : s.away.contains c = false) : exec .qgetFill s =
      .next ((closed s c n e).setProg e.owner (((closed s c n e).prog e.owner).fillS e.reg (fillOf s c r e))) := by
  subst h1 h2
  show execQgetFill s = _
  unfold execQgetFill
  simp only [hr, he, closed, fillOf]
  refine if_neg ?_
  rw [haway]
  simpa using harr

theorem fillS_reads (p : Prog) {m : Nat} (v : DWord) (hm : m < 64) :
    (p.fillS m v).getS m = (if m = 0 then 0 else v) ∧ (p.fillS m v).isEmptyS m = false := by
  constructor
  · exact (getS_setS_nat p m m v).trans (if_pos rfl)
  · simp only [Prog.isEmptyS, Prog.fillS, getLsbD_full]
    simp

theorem fill_lands (h1 : s.target.core = c) (h2 : s.target.unit = n) (hr : (s.stream c n).ring = some r)
    (he : (s.stream c n).claims.find? (fun k => k.id == s.target.id) = some e) (harr : e.start + e.len ≤ (s.stream c n).arr)
    (hreg : e.reg < 64) (haway : s.away.contains c = false) :
    ∃ t v, exec .qgetFill s = .next t ∧ BytesSame s t ∧ (t.prog e.owner).getS e.reg = (if e.reg = 0 then 0 else v) ∧
      (t.prog e.owner).isEmptyS e.reg = false ∧ (∀ j, j < e.len → j < 8 → v.toNat / 256 ^ j % 256 =
        (Memory.read (s.core c).spad (r.base + (e.start + j) % r.size)).toNat) ∧
      (r.sgn = false → v.toNat < 256 ^ e.len) ∧ (r.sgn = true → 0 < e.len → e.len ≤ 8 →
        -(2 ^ (8 * e.len - 1) : Int) ≤ v.toInt ∧ v.toInt < 2 ^ (8 * e.len - 1)) ∧
      (t.stream c n).claims = (s.stream c n).claims.filter (fun j => j.id != e.id) := by
  refine ⟨_, fillOf s c r e, exec_qgetFill h1 h2 hr he harr haway, bytesSame_trans (beside_setStream _ _ _).bytes (bytesSame_setProg _ _),
    ?_, ?_, fun j hj h8 => ?_, fun hs => ?_, fun hs h0 h8 => ?_, ?_⟩
  · rw [State.prog_setProg_self]
    exact (fillS_reads _ _ hreg).1
  · rw [State.prog_setProg_self]
    exact (fillS_reads _ _ hreg).2
  · rw [fillOf, byte_extended _ hj h8]
    have := natOfBytes_part (fun k => (s.core c).spad.read (r.base + (e.start + k) % r.size)) (k := j) (n := 1) (m := e.len) hj
    rw [pow_one] at this
    refine this.trans ?_
    simp
  · rw [fillOf, hs, if_neg Bool.false_ne_true, zextN, BitVec.toNat_ofNat, ← two_pow_bytes]
    exact Nat.lt_of_le_of_lt (Nat.mod_le _ _) (Nat.mod_lt _ (Nat.two_pow_pos _))
  · obtain ⟨hv, hlo, hhi⟩ := toInt_sextN (x := natOfBytes (s.streamBytes c r e.start e.len)) (w := 8 * e.len) (by omega) (by omega)
    rw [fillOf, hs, if_pos rfl, hv]
    exact ⟨hlo, hhi⟩
  · rw [stream_congr (State.streams_core_setProg _ _ _ _), closed, stream_setStream]

end Fills

/-- Settles O29. -/
theorem streams : Obligations.Streams := by
  unfold Obligations.Streams
  refine fun s d a b fn lw => ⟨fun hs hr => ?_, fun hs hr => ?_, fun h1 h2 hr => ?_, fun r e hring he harr hreg haway => ?_⟩
  · have hbusy := busy_iff (s := s) s.cur.core d.toNat
    have hbad := badBind_iff (s.getS s.cur a) (s.getS s.cur b)
    refine ⟨fun h => traps_of_ready _ exec_qbind rfl hs hr ?_, fun h hb => traps_of_ready _ exec_qbind rfl hs hr ?_,
      fun h hb h0 => retires_of_ready _ exec_qbind rfl hs hr ?_, fun h hb h0 ha => traps_of_ready _ exec_qbind rfl hs hr ?_,
      fun h hb h0 ha ht => traps_of_ready _ exec_qbind rfl hs hr ?_, fun h hb h0 ha ht => retires_of_ready _ exec_qbind rfl hs hr ?_⟩
    · exact if_pos (hbusy.mpr h)
    all_goals
      refine (if_neg (fun hc => h (hbusy.mp hc))).trans ?_
      rw [fresh_getS, fresh_getS]
    · exact if_pos (hbad.mpr hb)
    all_goals refine (if_neg (fun hc => hb (hbad.mp hc))).trans ?_
    · exact if_pos h0
    all_goals refine (if_neg h0).trans ?_
    · exact if_pos ha
    all_goals refine (if_neg (not_not_intro ha)).trans ?_
    · exact if_pos ht
    · exact if_neg (Nat.not_lt.mpr ht)
  · refine ⟨fun h => ⟨traps_of_ready _ exec_qget rfl hs hr ?_, traps_of_ready _ exec_qrel rfl hs hr ?_⟩, fun r h hl => qget_claims hs hr h hl,
      fun r h hl => stalls_of_ready _ exec_qget rfl hs hr ?_, fun h => ?_⟩
    · simp only [getRes, stream_fresh, h]
    · exact if_pos (by rw [stream_fresh, h]; rfl)
    · simp only [getRes, stream_fresh, h]
      exact if_pos hl
    · obtain ⟨hle, hall, hat⟩ := foldl_min (s.stream s.cur.core a.toNat).claims (s.stream s.cur.core a.toNat).clm
      refine ⟨_, hle, hall, hat, retires_of_ready _ exec_qrel rfl hs hr (if_neg ?_)⟩
      rw [stream_fresh, Option.isNone_iff_eq_none]
      exact h
  · have hf : IsElem fn := ⟨h1, h2⟩
    obtain ⟨c, u, hc⟩ := hr.runs
    have hcore : s.cur.core = c := by rw [hc]; rfl
    refine ⟨fun h => traps_of_vecReady exec_vldq hr ?_, fun r h hsz => traps_of_vecReady exec_vldq hr ?_,
      fun r h hsz harr => stalls_of_vecReady exec_vldq hr ?_, fun r h hsz harr => ?_⟩
    · simp only [loadRes, stream_laned, h]
    · simp only [loadRes, stream_laned, h, if_pos hsz]
    · simp only [loadRes, stream_laned, h, if_neg (Nat.not_lt.mpr hsz), if_pos harr]
    · rw [hcore] at *
      obtain ⟨t, v, ht, hb, hst, hv, l, hl⟩ := vldq_loads hf hr hc h hsz harr
      exact ⟨t, v, ht, hb, hst, hv, u, l, hc, hl⟩
  · exact fill_lands rfl rfl hring he harr hreg haway

end Sys2Proof.Proofs.Streams
end

section
/-! PROOFS. Guards and T bits (R25, R27, R101). -/

namespace Sys2Proof.Proofs.Guards

open Sys2Proof.Machine
open Sys2Proof.Safety

section Marks

variable {i : Instr} {s : State} {lw : LW} {srcs dests xs : List Src}

/-- The first of the marked sources that is empty is found among any list with the same marked ones. -/
theorem find_marked (h : srcs.filter (·.t) = xs.filter (·.t)) (s : State) (q : Seqr) :
    srcs.find? (fun x => x.t && s.regEmpty q x) = xs.find? fun x => x.t && s.regEmpty q x := by
  have hf : ∀ l : List Src, l.find? (fun x => x.t && s.regEmpty q x) = (l.filter (·.t)).find? fun x => s.regEmpty q x := fun l => by
    rw [List.find?_filter]
    exact congrArg (l.find? ·) (funext fun x => by simp)
  rw [hf, hf, h]

/-- The first marked source that is empty traps EMPTY. -/
theorem ready_marks {l r : List Src} {x : Src} (h : srcs.filter (·.t) = (l ++ x :: r).filter (·.t)) (ht : x.t = true)
    (he : s.regEmpty s.cur x = true) (hl : ∀ y ∈ l, y.t = true → s.regEmpty s.cur y = false) (b : Res) :
    (fresh s).ready s.cur srcs dests b = .trap .empty (BitVec.ofNat 64 x.reg) := by
  have hf : srcs.find? (fun x => x.t && (fresh s).regEmpty s.cur x) = some x := by
    rw [find_marked h, List.find?_eq_some_iff_append]
    refine ⟨by simp [ht, fresh, he], l, r, rfl, fun y hy => ?_⟩
    by_cases hyt : y.t = true
    · simp [fresh, hl y hy hyt]
    · simp [hyt]
  unfold State.ready State.need
  rw [hf]
  rfl

theorem ready_one_stalls {x : Src} (ht : x.t = false) (he : s.regEmpty s.cur x = true) (b : Res) : (fresh s).ready s.cur [x] [] b = .stall := by
  unfold State.ready State.need
  rw [List.find?_eq_none.mpr (by simp [ht])]
  simp [fresh, he]

/-- An outcome under a scalar guard, with the marked sources of a list. -/
def ScalarIssue (s : State) (lw : LW) (xs : List Src) (o : Out) : Prop :=
  ∃ (srcs dests : List Src) (f : Seqr → State → Res), o = issue s 2 .any (fun q s => guarded lw q s (s.ready q srcs dests (f q s))) ∧ srcs.filter (·.t) = xs.filter (·.t)

theorem scalarIssue_of {f : Seqr → State → Res} (hx : srcs.filter (·.t) = xs.filter (·.t)) :
    ScalarIssue s lw xs (issue s 2 .any fun q s => guarded lw q s (s.ready q srcs dests (f q s))) := ⟨srcs, dests, f, rfl, hx⟩

/-- An instruction under a scalar guard. -/
theorem guardsScalar_of (hs : Stands s 2 .any) {o : Out} (ho : exec i s = o) (h : ScalarIssue s lw xs o) : GuardsScalar s lw i xs := by
  obtain ⟨srcs, dests, f, rfl, hx⟩ := h
  refine ⟨fun hg he => ?_, fun hg hr hf => ?_, fun hg l x r hxs ht he hl => ?_⟩
  · refine stalls_of_issue _ ho hs ?_
    exact (if_pos hg).trans (ready_one_stalls rfl he _)
  · refine retires_of_issue _ ho hs ?_
    refine (if_pos hg).trans ((fresh_ready (by simpa using hr) _).trans ?_)
    rw [fresh_getS, hf]
    rfl
  · refine traps_of_issue _ ho hs ?_
    rw [hxs] at hx
    have hmark := fun b => ready_marks (dests := dests) hx ht he hl b
    by_cases h : lw.g = true
    · obtain ⟨hr, hon⟩ := hg h
      refine (if_pos h).trans ((fresh_ready (by simpa using hr) _).trans ?_)
      rw [fresh_getS, hon]
      exact hmark _
    · exact (if_neg h).trans (hmark _)

/-- An outcome under a lane guard, with the marked sources of a list. -/
def LaneIssue (s : State) (lw : LW) (xs : List Src) (o : Out) : Prop :=
  ∃ srcs dests dp body, o = vecIssue s lw srcs dests dp body ∧ srcs.filter (·.t) = xs.filter (·.t)

/-- An instruction under a lane guard. -/
theorem guardsLanes_of (hs : Stands s 2 .any) {o : Out} (ho : exec i s = o) (h : LaneIssue s lw xs o) : GuardsLanes s lw i xs := by
  obtain ⟨srcs, dests, dp, body, rfl, hx⟩ := h
  refine ⟨fun hg he => ?_, fun hg l x r hxs ht he hl => ?_⟩
  · refine stalls_of_issue _ ho hs ?_
    rw [if_pos hg]
    exact ready_one_stalls rfl he _
  · refine traps_of_issue _ ho hs ?_
    rw [hxs] at hx
    have hguard : RegsReady s ((if lw.g then [srcV lw.greg] else []) ++ []) := by
      by_cases h : lw.g = true
      · rw [if_pos h, List.append_nil]; exact hg h
      · rw [if_neg h]; exact fun y hy => absurd hy List.not_mem_nil
    exact (fresh_ready hguard _).trans (ready_marks hx ht he hl _)

end Marks

/-! ### The shapes of the vector instructions -/

section Shapes

variable {s : State} {d a b fn : Reg} {lw : LW} {srcs dests extra xs : List Src} {w dp lat : Nat}

theorem laneIssue_of {body : Seqr → State → Res} (hx : srcs.filter (·.t) = xs.filter (·.t)) :
    LaneIssue s lw xs (vecIssue s lw srcs dests dp body) := ⟨srcs, dests, dp, body, rfl, hx⟩

theorem laneIssue_lanes {f : Seqr → State → Nat → Nat × Flags} (hx : (srcs ++ extra).filter (·.t) = xs.filter (·.t)) :
    LaneIssue s lw xs (vecLanes s d lw w srcs extra dp lat f) := laneIssue_of hx
theorem laneIssue_long {f : Seqr → State → Nat → Nat × Flags} : LaneIssue s lw srcs (vecLong s d lw w srcs f) := laneIssue_of rfl
theorem laneIssue_I2 {op : Nat → Bool → Nat → Nat → Nat × Flags} :
    LaneIssue s lw [srcV a lw.ta, srcV b lw.tb] (vecI2 s d a b fn lw op) := laneIssue_lanes rfl
theorem laneIssue_F1 {op : FpFmt → Rm → Nat → Nat × Flags} : LaneIssue s lw [srcV a lw.ta] (vecF1 s d a fn lw op) := laneIssue_lanes rfl
theorem laneIssue_F2 {op : FpFmt → Rm → Val → Val → Nat × Flags} :
    LaneIssue s lw [srcV a lw.ta, srcV b lw.tb] (vecF2 s d a b fn lw lat dp op) := laneIssue_lanes rfl
theorem laneIssue_F3 {p z : Bool} : LaneIssue s lw [srcV a lw.ta, srcV b lw.tb, srcV lw.x lw.tc] (vecF3 s d a b fn lw p z) :=
  laneIssue_lanes rfl
theorem laneIssue_fun {op : FpFmt → Rm → Nat → Nat × Flags} : LaneIssue s lw [srcV a lw.ta] (vecFun s d a fn lw op) := laneIssue_long
theorem laneIssue_minMax {m : Bool} : LaneIssue s lw [srcV a lw.ta, srcV b lw.tb] (vecMinMax s d a b fn lw m) := laneIssue_lanes rfl
theorem laneIssue_move {f : Seqr → State → Nat → Nat → Nat} : LaneIssue s lw srcs (vecMove s d fn lw srcs f) :=
  laneIssue_lanes (by rw [List.append_nil])
theorem laneIssue_reduce {m : Nat} {op : Rm → Nat → Nat → Nat × Flags} : LaneIssue s lw [srcV a lw.ta] (vecReduce s d a fn lw m op) := by
  unfold vecReduce
  exact laneIssue_of rfl
theorem laneIssue_extreme {m : Bool} : LaneIssue s lw [srcV a lw.ta] (vecExtreme s d a fn lw m) := laneIssue_reduce
theorem laneIssue_vote {m : Bool} : LaneIssue s lw [srcV a lw.ta] (vote s d a fn lw m) := laneIssue_of rfl
theorem laneIssue_load {costed : Bool} {addr : Seqr → State → Nat → DWord} : LaneIssue s lw srcs (vecLoad s d fn lw srcs costed addr) := by
  unfold vecLoad vecAccess
  exact laneIssue_of rfl
theorem laneIssue_store {costed : Bool} {addr : Seqr → State → Nat → DWord} (hx : (srcs ++ [srcV d]).filter (·.t) = xs.filter (·.t)) :
    LaneIssue s lw xs (vecStore s d fn lw srcs costed addr) := by
  unfold vecStore vecAccess
  exact laneIssue_of hx
theorem laneIssue_ard {m : Bool} : LaneIssue s lw [srcS b lw.tb] (ardMove d a b fn lw m s) := by
  unfold ardMove
  exact laneIssue_of rfl
theorem laneIssue_awr {m : Bool} : LaneIssue s lw [srcS b lw.tb] (awrMove d a b fn lw m s) := by
  unfold awrMove
  exact laneIssue_of rfl

theorem laneIssue_ite {c : Prop} [Decidable c] {o p : Out} (ho : LaneIssue s lw xs o) (hp : LaneIssue s lw xs p) :
    LaneIssue s lw xs (if c then o else p) := by
  split
  · exact ho
  · exact hp

theorem laneIssue_vdiv : LaneIssue s lw [srcV a lw.ta, srcV b lw.tb] (execVdiv d a b fn lw s) := laneIssue_ite laneIssue_long laneIssue_F2
theorem laneIssue_vsqrt : LaneIssue s lw [srcV a lw.ta] (execVsqrt d a fn lw s) := laneIssue_ite laneIssue_long (laneIssue_lanes rfl)

/-- The copies of the forms on handles read their marked sources first. -/
theorem scalarIssue_copy {form : Nat} (h : form ≠ 7) : ScalarIssue s lw [srcH a lw.ta, srcH b lw.tb] (copyInstr form d a b fn lw s) := by
  refine ⟨_, _, _, rfl, ?_⟩
  simp only [show (form != 7) = true from bne_iff_ne.mpr h, if_true]
  rfl

theorem scalarIssue_cpyScale : ScalarIssue s lw [srcH a lw.ta] (copyInstr 7 d a b fn lw s) := ⟨_, _, _, rfl, rfl⟩

end Shapes

/-- Settles O53: each instruction is one of the shapes above. -/
theorem guardsAndMarks : Obligations.GuardsAndMarks := by
  unfold Obligations.GuardsAndMarks
  refine ⟨fun s d a b fn imm lw hs => ?_, fun s d a b fn lw hs => ?_⟩
  · simp only [List.forall_mem_cons]
    exact ⟨
      guardsScalar_of hs (o := execLea d a b fn lw s) rfl (scalarIssue_of rfl),
      guardsScalar_of hs (o := execSel d a b lw s) rfl (scalarIssue_of rfl),
      guardsScalar_of hs (o := execCmpi d a imm lw s) rfl (scalarIssue_of rfl),
      guardsScalar_of hs (o := execLamo d a b lw s) rfl (scalarIssue_of rfl),
      guardsScalar_of hs (o := execHpatch a b fn lw s) rfl (scalarIssue_of rfl),
      guardsScalar_of hs (o := execGamo d a b fn lw s) rfl (scalarIssue_of rfl),
      guardsScalar_of hs (o := execCpy d a b fn lw s) rfl (scalarIssue_copy (by decide)),
      guardsScalar_of hs (o := execCpyT d a b fn lw s) rfl (scalarIssue_copy (by decide)),
      guardsScalar_of hs (o := execCpyP d a b fn lw s) rfl (scalarIssue_copy (by decide)),
      guardsScalar_of hs (o := execCpyQ d a b fn lw s) rfl (scalarIssue_copy (by decide)),
      guardsScalar_of hs (o := execCpyQT d a b fn lw s) rfl (scalarIssue_copy (by decide)),
      guardsScalar_of hs (o := execCpyGath d a b fn lw s) rfl (scalarIssue_copy (by decide)),
      guardsScalar_of hs (o := execCpyPair d a b fn lw s) rfl (scalarIssue_copy (by decide)),
      guardsScalar_of hs (o := execCpyScale d a b fn lw s) rfl scalarIssue_cpyScale,
      guardsScalar_of hs (o := execCpyStrm d a b fn lw s) rfl (scalarIssue_of rfl),
      guardsScalar_of hs (o := execCpyHost d a b fn lw s) rfl (scalarIssue_of rfl),
      guardsScalar_of hs (o := execMxOut d a b fn lw s) rfl (scalarIssue_of rfl),
      guardsScalar_of hs (o := execAspCvt d a b fn lw s) rfl (scalarIssue_of rfl), fun p hp => absurd hp List.not_mem_nil⟩
  · simp only [List.forall_mem_append]
    refine ⟨⟨⟨?_, ?_⟩, ?_⟩, ?_⟩
    all_goals simp only [List.forall_mem_cons]
    · exact ⟨
        guardsLanes_of hs (o := execViadd d a b fn lw s) rfl laneIssue_I2,
        guardsLanes_of hs (o := execVisub d a b fn lw s) rfl laneIssue_I2,
        guardsLanes_of hs (o := execVimul d a b fn lw s) rfl laneIssue_I2,
        guardsLanes_of hs (o := execVimulh d a b fn lw s) rfl laneIssue_I2,
        guardsLanes_of hs (o := execVand d a b fn lw s) rfl laneIssue_I2, guardsLanes_of hs (o := execVor d a b fn lw s) rfl laneIssue_I2,
        guardsLanes_of hs (o := execVxor d a b fn lw s) rfl laneIssue_I2, guardsLanes_of hs (o := execVshl d a b fn lw s) rfl laneIssue_I2,
        guardsLanes_of hs (o := execVshr d a b fn lw s) rfl laneIssue_I2, guardsLanes_of hs (o := execVsar d a b fn lw s) rfl laneIssue_I2,
        guardsLanes_of hs (o := execVimin d a b fn lw s) rfl laneIssue_I2,
        guardsLanes_of hs (o := execVimax d a b fn lw s) rfl laneIssue_I2,
        guardsLanes_of hs (o := execVsadd d a b fn lw s) rfl laneIssue_I2,
        guardsLanes_of hs (o := execViabs d a fn lw s) rfl (laneIssue_lanes rfl),
        guardsLanes_of hs (o := execVpopc d a fn lw s) rfl (laneIssue_lanes rfl),
        guardsLanes_of hs (o := execVsel d a b fn lw s) rfl (laneIssue_lanes rfl),
        guardsLanes_of hs (o := execVany d a fn lw s) rfl laneIssue_vote, guardsLanes_of hs (o := execVall d a fn lw s) rfl laneIssue_vote, fun p hp => absurd hp List.not_mem_nil⟩
    · exact ⟨
        guardsLanes_of hs (o := execVadd d a b fn lw s) rfl laneIssue_F2, guardsLanes_of hs (o := execVsub d a b fn lw s) rfl laneIssue_F2,
        guardsLanes_of hs (o := execVmul d a b fn lw s) rfl laneIssue_F2, guardsLanes_of hs (o := execVfma d a b fn lw s) rfl laneIssue_F3,
        guardsLanes_of hs (o := execVfms d a b fn lw s) rfl laneIssue_F3, guardsLanes_of hs (o := execVfnma d a b fn lw s) rfl laneIssue_F3,
        guardsLanes_of hs (o := execVdiv d a b fn lw s) rfl laneIssue_vdiv,
        guardsLanes_of hs (o := execVsqrt d a fn lw s) rfl laneIssue_vsqrt,
        guardsLanes_of hs (o := execVmin d a b fn lw s) rfl laneIssue_minMax,
        guardsLanes_of hs (o := execVmax d a b fn lw s) rfl laneIssue_minMax,
        guardsLanes_of hs (o := execVabs d a fn lw s) rfl laneIssue_F1, guardsLanes_of hs (o := execVneg d a fn lw s) rfl laneIssue_F1,
        guardsLanes_of hs (o := execVexp d a fn lw s) rfl laneIssue_fun, guardsLanes_of hs (o := execVlog d a fn lw s) rfl laneIssue_fun,
        guardsLanes_of hs (o := execVerf d a fn lw s) rfl laneIssue_fun, guardsLanes_of hs (o := execVclass d a fn lw s) rfl laneIssue_F1,
        guardsLanes_of hs (o := execVcmp d a b fn lw s) rfl (laneIssue_lanes rfl), fun p hp => absurd hp List.not_mem_nil⟩
    · exact ⟨
        guardsLanes_of hs (o := execVmov d a fn lw s) rfl laneIssue_move,
        guardsLanes_of hs (o := execVbcast d a fn lw s) rfl laneIssue_move,
        guardsLanes_of hs (o := execVslide d a b fn lw s) rfl laneIssue_move,
        guardsLanes_of hs (o := execVperm d a b fn lw s) rfl laneIssue_move,
        guardsLanes_of hs (o := execVshuf d a b fn lw s) rfl laneIssue_move,
        guardsLanes_of hs (o := execVtrn d a fn lw s) rfl laneIssue_move,
        guardsLanes_of hs (o := execVext d a b fn lw s) rfl (by unfold execVext; exact laneIssue_of rfl),
        guardsLanes_of hs (o := execVins d a b fn lw s) rfl (laneIssue_lanes rfl),
        guardsLanes_of hs (o := execVcvt d a b fn lw s) rfl (by unfold execVcvt; exact laneIssue_of rfl),
        guardsLanes_of hs (o := execVqmx d a b fn lw s) rfl (by unfold execVqmx; exact laneIssue_of rfl),
        guardsLanes_of hs (o := execVdqmx d a b fn lw s) rfl (by unfold execVdqmx; exact laneIssue_of rfl),
        guardsLanes_of hs (o := execVrsum d a fn lw s) rfl (by unfold execVrsum; exact laneIssue_reduce),
        guardsLanes_of hs (o := execVrmax d a fn lw s) rfl laneIssue_extreme,
        guardsLanes_of hs (o := execVrmin d a fn lw s) rfl laneIssue_extreme,
        guardsLanes_of hs (o := execVrarg d a fn lw s) rfl (by unfold execVrarg; exact laneIssue_of rfl),
        guardsLanes_of hs (o := execVtopk d a b fn lw s) rfl (by unfold execVtopk; exact laneIssue_of rfl),
        guardsLanes_of hs (o := execVrng d a b lw s) rfl (laneIssue_lanes rfl),
        guardsLanes_of hs (o := execVhash d a b fn lw s) rfl (laneIssue_lanes rfl), fun p hp => absurd hp List.not_mem_nil⟩
    · exact ⟨
        guardsLanes_of hs (o := execVld d a fn lw s) rfl laneIssue_load,
        guardsLanes_of hs (o := execVst d a fn lw s) rfl (laneIssue_store rfl),
        guardsLanes_of hs (o := execVldS d a b fn lw s) rfl laneIssue_load,
        guardsLanes_of hs (o := execVstS d a b fn lw s) rfl (laneIssue_store rfl),
        guardsLanes_of hs (o := execVldX d a b fn lw s) rfl laneIssue_load,
        guardsLanes_of hs (o := execVstX d a b fn lw s) rfl (laneIssue_store rfl),
        guardsLanes_of hs (o := execVldq d a fn lw s) rfl (by unfold execVldq; exact laneIssue_of rfl),
        guardsLanes_of hs (o := execArdRow d a b fn lw s) rfl laneIssue_ard,
        guardsLanes_of hs (o := execArdCol d a b fn lw s) rfl laneIssue_ard,
        guardsLanes_of hs (o := execAwrRow d a b fn lw s) rfl laneIssue_awr,
        guardsLanes_of hs (o := execAwrCol d a b fn lw s) rfl laneIssue_awr, fun p hp => absurd hp List.not_mem_nil⟩

end Sys2Proof.Proofs.Guards
end

section
/-! PROOFS. The Arcade's moves and preparations (R300 to R304). -/

namespace Sys2Proof.Proofs.ArcadeMoves

open Sys2Proof.Machine
open Sys2Proof.Safety
open Sys2Proof.Proofs.Ready
open Sys2Proof.Proofs.Transfers

/-! ### Runs of registers and of bytes -/

section Runs

/-- A map after a run of writes. -/
theorem get_foldl_range {α : Type} (z : α) (f n : Nat) (g : Nat → α) (m : SMap α) (r : Nat) :
    SMap.get z ((List.range n).foldl (fun m i => SMap.set m (f + i) (g i)) m) r = if f ≤ r ∧ r < f + n then g (r - f) else SMap.get z m r := by
  induction n with
  | zero => rw [if_neg (by omega)]; rfl
  | succ n ih =>
    rw [List.range_succ, List.foldl_append, List.foldl_cons, List.foldl_nil, SMap.get_set, ih]
    by_cases h : r = f + n
    · rw [if_pos h, if_pos (by omega), show r - f = n by omega]
    · rw [if_neg h]
      exact if_congr ⟨fun h' => by omega, fun h' => by omega⟩ rfl rfl

/-- Memory after a run of writes of w bytes. -/
theorem read_foldl_writeN (a w n : Nat) (x : Nat → Nat) {m : Memory} (hm : m.wf = true) :
    let m' := (List.range n).foldl (fun m i => m.writeN (a + i * w) w (x i)) m
    m'.wf = true ∧ (∀ i j, i < n → j < w → m'.read (a + i * w + j) = BitVec.ofNat 8 (x i / 256 ^ j)) ∧
      ∀ e, e < a ∨ a + n * w ≤ e → m'.read e = m.read e := by
  induction n with
  | zero => exact ⟨hm, fun i j hi => absurd hi (Nat.not_lt_zero i), fun _ _ => rfl⟩
  | succ n ih =>
    obtain ⟨hwf, hin, hout⟩ := ih
    dsimp only
    rw [List.range_succ, List.foldl_append, List.foldl_cons, List.foldl_nil]
    refine ⟨Memory.wf_writeN _ _ _ _ hwf, fun i j hi hj => ?_, fun e he => ?_⟩
    · rw [Memory.read_writeN _ _ _ _ _ hwf]
      rcases Nat.lt_or_eq_of_le (Nat.le_of_lt_succ hi) with hlt | rfl
      · have hle : (i + 1) * w ≤ n * w := Nat.mul_le_mul_right w hlt
        rw [Nat.succ_mul] at hle
        rw [if_neg (by omega)]
        exact hin i j hlt hj
      · rw [if_pos (by omega), Nat.add_sub_cancel_left]
    · rw [Nat.succ_mul] at he
      rw [Memory.read_writeN _ _ _ _ _ hwf, if_neg (by omega)]
      exact hout e (by omega)

end Runs

/-! ### Loads and stores at issue (R300) -/

section Moves

variable {i : Instr} {s : State} {c : Nat} {d a b fn : Reg}

/-- What the common part of the two moves comes to. -/
def moveRes (d a b fn : Reg) (k : Seqr → State → Nat → Nat → Nat → Nat → Res) (q : Seqr) (s : State) : Res :=
  if 8192 < (s.getS q d).toNat ∨ 8192 < (s.getS q a).toNat + (s.getS q d).toNat then .trap .illegal (s.getS q a)
  else if (s.getS q d).toNat = 0 then .retire s
  else if (s.getS q b).toNat % halfBytes fn.toNat ≠ 0 then .trap .align (s.getS q b)
  else if spadTop < (s.getS q b).toNat + (s.getS q d).toNat * halfBytes fn.toNat - 1 then .trap .spbound (s.getS q b)
  else if (s.arc q.core).anyEmpty (s.getS q a).toNat (s.getS q d).toNat then .stall
  else k q s (s.getS q a).toNat (s.getS q d).toNat (s.getS q b).toNat
    ((s.arc q.core).aspDue (s.now + ((s.getS q d).toNat * halfBytes fn.toNat + 63) / 64))

theorem aspMove_eq (k : Seqr → State → Nat → Nat → Nat → Nat → Res) : aspMove d a b fn s k =
    issue s 1 .any fun q s => s.ready q [srcS d, srcS a, srcS b] [] (moveRes d a b fn k q s) := rfl

theorem exec_aspLd : exec (.aspLd d a b fn) s = aspMove d a b fn s fun q s f n ea due =>
    .retire (s.setArc q.core { s.arc q.core with loads := (s.arc q.core).loads ++ [⟨f, n, ea, fn.toNat, due⟩] }) := rfl
theorem exec_aspSt : exec (.aspSt d a b fn) s = aspMove d a b fn s fun q s f n ea due =>
    .retire (s.holdOn q (.aspSt due f n ea fn.toNat)) := rfl

theorem halfBytes_eq : halfBytes fn.toNat = if fn = 2 then 8 else 4 := by
  have h2 : fn.toNat = 2 ↔ fn = 2 := BitVec.toNat_inj (y := 2)
  exact if_congr h2 rfl rfl

/-- The registers of a range are full. -/
theorem anyEmpty_iff (z : Arc) (f n : Nat) : z.anyEmpty f n = false ↔ ∀ m, m < n → z.pEmpty (f + m) = false := by
  simp [Arc.anyEmpty]

theorem not_free {z : Arc} {f n : Nat} (h : ¬ ∀ m, m < n → z.pEmpty (f + m) = false) : z.anyEmpty f n = true := by
  rw [← anyEmpty_iff] at h
  exact Bool.not_eq_false _ ▸ h

/-- The clock of an access: not before the accesses before it, and no later than the last of these or its own. -/
theorem aspDue_spec (z : Arc) (t : Nat) : t ≤ z.aspDue t ∧ (∀ l, l ∈ z.loads → l.due ≤ z.aspDue t) ∧
    (z.aspDue t = t ∨ ∃ l, l ∈ z.loads ∧ l.due = z.aspDue t) := by
  unfold Arc.aspDue
  generalize z.loads = ls
  induction ls generalizing t with
  | nil => exact ⟨Nat.le_refl t, fun l hl => absurd hl List.not_mem_nil, Or.inl rfl⟩
  | cons k ls ih =>
    rw [List.foldl_cons]
    obtain ⟨hge, hall, hat⟩ := ih (max t k.due)
    refine ⟨(Nat.le_max_left _ _).trans hge, fun l hl => ?_, ?_⟩
    · rcases List.mem_cons.mp hl with rfl | hl
      · exact (Nat.le_max_right _ _).trans hge
      · exact hall l hl
    · rcases hat with h | ⟨l, hl, h⟩
      · rcases Nat.le_total t k.due with ht | ht
        · exact Or.inr ⟨k, List.mem_cons_self, (h.trans (Nat.max_eq_right ht)).symm⟩
        · exact Or.inl (h.trans (Nat.max_eq_left ht))
      · exact Or.inr ⟨l, List.mem_cons_of_mem _ hl, h⟩

/-- The operands of an Arcade instruction lie in the register file (R300). -/
def InRange (s : State) (d a : Reg) : Prop := (s.getS s.cur d).toNat ≤ 8192 ∧ (s.getS s.cur a).toNat + (s.getS s.cur d).toNat ≤ 8192

theorem inRange_iff : (8192 < (s.getS s.cur d).toNat ∨ 8192 < (s.getS s.cur a).toNat + (s.getS s.cur d).toNat) ↔ ¬ InRange s d a := by
  unfold InRange
  omega

@[simp] theorem arc_fresh (c : Nat) : (fresh s).arc c = s.arc c := rfl

/-- The checks of the two moves in their order, and their access. -/
theorem move_spec {k : Seqr → State → Nat → Nat → Nat → Nat → Res} (hc : s.cur = .arc c) (hi : exec i s = aspMove d a b fn s k)
    (hs : Stands s 1 .any) (hr : RegsReady s [srcS d, srcS a, srcS b]) :
    let n := (s.getS s.cur d).toNat
    let ea := (s.getS s.cur b).toNat
    let sz := if fn = 2 then 8 else 4
    let free : Prop := ∀ m, m < n → (s.arc c).pEmpty ((s.getS s.cur a).toNat + m) = false
    (¬ InRange s d a → Traps i s .illegal (s.getS s.cur a)) ∧ (InRange s d a → n = 0 → Retires i s 1 (fresh s)) ∧
      (InRange s d a → n ≠ 0 → ¬ ea % sz = 0 → Traps i s .align (s.getS s.cur b)) ∧
      (InRange s d a → n ≠ 0 → ea % sz = 0 → ¬ ea + n * sz ≤ 0xC0000 → Traps i s .spbound (s.getS s.cur b)) ∧
      (InRange s d a → n ≠ 0 → ea % sz = 0 → ea + n * sz ≤ 0xC0000 → ¬ free → Stalls i s) ∧
      ∀ s1, k s.cur (fresh s) (s.getS s.cur a).toNat n ea ((s.arc c).aspDue (s.now + (n * sz + 63) / 64)) = .retire s1 →
        InRange s d a → n ≠ 0 → ea % sz = 0 → ea + n * sz ≤ 0xC0000 → free → Retires i s 1 s1 := by
  have hcore : s.cur.core = c := by rw [hc]; rfl
  have hi' := hi.trans (aspMove_eq k)
  dsimp only
  refine ⟨fun h => traps_of_ready _ hi' rfl hs hr ?_, fun h h0 => retires_of_ready _ hi' rfl hs hr ?_,
    fun h h0 ha => traps_of_ready _ hi' rfl hs hr ?_, fun h h0 ha hp => traps_of_ready _ hi' rfl hs hr ?_,
    fun h h0 ha hp hf => stalls_of_ready _ hi' rfl hs hr ?_, fun s1 hk h h0 ha hp hf => retires_of_ready _ hi' rfl hs hr ?_⟩
  all_goals
    unfold moveRes
    simp only [fresh_getS, hcore, arc_fresh, halfBytes_eq]
  · exact if_pos (inRange_iff.mpr h)
  all_goals refine (if_neg (fun h' => inRange_iff.mp h' h)).trans ?_
  · exact if_pos h0
  all_goals refine (if_neg h0).trans ?_
  · exact if_pos ha
  all_goals refine (if_neg (not_not_intro ha)).trans ?_
  · exact if_pos (by unfold spadTop; omega)
  all_goals refine (if_neg (by unfold spadTop; omega)).trans ?_
  · exact if_pos (not_free hf)
  · exact (if_neg (by rw [(anyEmpty_iff _ _ _).mpr hf]; exact Bool.false_ne_true)).trans hk

end Moves

/-! ### Conversion and preparation (R301 to R304) -/

section Prepares

variable {s : State} {c : Nat} {d a b fn : Reg} {lw : LW}

/-- A word converted, as a pattern, with its flags (R154, R301). -/
def newWord (fn : Reg) (rm : Rm) (x : Word) : Nat × Flags :=
  if fn.getLsbD 0 then FpFmt.fp32.round rm (spDecode x.toNat) else spOfVal rm (FpFmt.fp32.decode x.toNat)

theorem aspConvert_eq (rm : Rm) (x : Word) : aspConvert (fn.getLsbD 0) rm x = (BitVec.ofNat 32 (newWord fn rm x).1, (newWord fn rm x).2) := rfl

/-- The half of a register that `ASP.CVT` rewrites. -/
def oldWord (z : Arc) (fn : Reg) (r : Nat) : Word := if fn.getLsbD 1 then SMap.get 0 z.pa r else SMap.get 0 z.pv r

theorem oldWord_eq (z : Arc) (r : Nat) : SMap.get 0 (if fn.getLsbD 1 then z.pa else z.pv) r = oldWord z fn r :=
  apply_ite (fun m : SMap Word => SMap.get 0 m r) _ _ _

/-- The halves of a range, converted. -/
def converted (z : Arc) (fn : Reg) (rm : Rm) (f n : Nat) : Arc :=
  let put (m : SMap Word) : SMap Word := (List.range n).foldl (fun m i => SMap.set m (f + i) (BitVec.ofNat 32 (newWord fn rm (oldWord z fn (f + i))).1)) m
  if fn.getLsbD 1 then { z with pa := put z.pa } else { z with pv := put z.pv }

/-- The flags of a conversion. -/
def cvtFlags (z : Arc) (fn : Reg) (rm : Rm) (f n : Nat) : Flags :=
  (List.range n).foldl (fun g m => g ||| (newWord fn rm (oldWord z fn (f + m))).2) (0 : Flags)

/-- What `ASP.CVT` comes to once its registers are ready. -/
def cvtRes (d a fn : Reg) (lw : LW) (q : Seqr) (s : State) : Res :=
  let n := (s.getS q d).toNat
  let f := (s.getS q a).toNat
  let z := s.arc q.core
  let fl := cvtFlags z fn (s.rm q lw.rm) f n
  if 8192 < n ∨ 8192 < f + n then .trap .illegal (s.getS q a)
  else if z.anyEmpty f n then .stall
  else if fl.enabled (s.thread q).fte ≠ 0 then .trapAt (s.orFsr q fl) .fpx (zx64 (fl.enabled (s.thread q).fte)) (s.prog q).pc (s.prog q).pend
  else .retire (((s.orFsr q fl).setArc q.core (converted z fn (s.rm q lw.rm) f n)).holdFor q ((n + 15) / 16))

theorem exec_aspCvt : exec (.aspCvt d a b fn lw) s =
    issue s 2 .any fun q s => guarded lw q s (s.ready q [srcS d, srcS a lw.ta] [] (cvtRes d a fn lw q s)) := by
  show execAspCvt d a b fn lw s = _
  unfold execAspCvt
  simp only [aspRange, aspConvert_eq, List.foldl_map, oldWord_eq]
  rfl

theorem converted_rest (z : Arc) (rm : Rm) (f n : Nat) : { converted z fn rm f n with pv := z.pv, pa := z.pa } = z ∧
    (if fn.getLsbD 1 then (converted z fn rm f n).pv = z.pv else (converted z fn rm f n).pa = z.pa) := by
  unfold converted
  cases fn.getLsbD 1 <;> exact ⟨rfl, rfl⟩

theorem converted_half (z : Arc) (rm : Rm) (f n r : Nat) :
    SMap.get 0 (if fn.getLsbD 1 then (converted z fn rm f n).pa else (converted z fn rm f n).pv) r =
      if f ≤ r ∧ r < f + n then BitVec.ofNat 32 (newWord fn rm (oldWord z fn r)).1 else oldWord z fn r := by
  have key : SMap.get 0 ((List.range n).foldl (fun m i => SMap.set m (f + i) (BitVec.ofNat 32 (newWord fn rm (oldWord z fn (f + i))).1))
      (if fn.getLsbD 1 then z.pa else z.pv)) r =
        if f ≤ r ∧ r < f + n then BitVec.ofNat 32 (newWord fn rm (oldWord z fn r)).1 else oldWord z fn r := by
    rw [get_foldl_range 0 f n (fun i => BitVec.ofNat 32 (newWord fn rm (oldWord z fn (f + i))).1)]
    refine ite_congr rfl (fun h => ?_) fun _ => oldWord_eq z r
    rw [Nat.add_sub_cancel' h.1]
  unfold converted
  by_cases h : fn.getLsbD 1 = true
  · simp only [h, if_true] at key ⊢
    exact key
  · simp only [h] at key ⊢
    exact key

/-- What `ASP.CLRA`, `ASP.WIN` and `ASP.SEED` come to once their registers are ready. -/
def clraRes (d a : Reg) (q : Seqr) (s : State) : Res :=
  if 8192 < (s.getS q d).toNat ∨ 8192 < (s.getS q a).toNat + (s.getS q d).toNat then .trap .illegal (s.getS q a)
  else if (s.arc q.core).anyEmpty (s.getS q a).toNat (s.getS q d).toNat then .stall
  else .retire ((s.setArc q.core { s.arc q.core with
      pa := (List.range (s.getS q d).toNat).foldl (fun m i => SMap.set m ((s.getS q a).toNat + i) 0) (s.arc q.core).pa }).holdFor q
    (((s.getS q d).toNat + 15) / 16))

def winRes (d a : Reg) (q : Seqr) (s : State) : Res :=
  if 8192 ≤ (s.getS q a).toNat then .trap .illegal (s.getS q a)
  else .retire (s.setArc q.core { s.arc q.core with wb := SMap.set (s.arc q.core).wb d.toNat (s.getS q a) })

theorem exec_aspClra : exec (.aspClra d a) s = issue s 1 .any fun q s => s.ready q [srcS d, srcS a] [] (clraRes d a q s) := rfl
theorem exec_aspWin : exec (.aspWin d a) s = issue s 1 .any fun q s => s.ready q [srcS a] [] (winRes d a q s) := rfl
theorem exec_aspSeed : exec (.aspSeed a) s = issue s 1 .any fun q s => s.ready q [srcS a] []
    (.retire (s.setArc q.core { s.arc q.core with seed := s.getS q a })) := rfl

end Prepares

/-! ### The accesses (R300) -/

section Accesses

/-- The four bytes of a word in memory. -/
theorem readN_four_sum (m : Memory) (a : Nat) :
    Memory.readN m a 4 = ((List.range 4).map fun j => (Memory.read m (a + j)).toNat * 256 ^ j).sum := by
  have hsum : ∀ f : Nat → Nat, ((List.range 4).map f).sum = f 0 + f 1 + f 2 + f 3 := fun f => by simp [List.range_succ, Nat.add_assoc]
  rw [hsum, Scratchpad.readN_four]
  ring

theorem readN_eight (m : Memory) (a : Nat) : Memory.readN m a 8 = Memory.readN m a 4 + 2 ^ 32 * Memory.readN m (a + 4) 4 := by
  simp only [Memory.readN, Nat.add_assoc, Nat.reduceAdd]
  omega

/-- One register of an `ASP.LD`. -/
def fillStep (m : Memory) (l : ALoad) (a : Arc) (i : Nat) : Arc :=
  let v := m.readN (l.addr + i * halfBytes l.half) (halfBytes l.half)
  match l.half with
  | 0 => { a with pv := SMap.set a.pv (l.first + i) (BitVec.ofNat 32 v) }
  | 1 => { a with pa := SMap.set a.pa (l.first + i) (BitVec.ofNat 32 v) }
  | _ => { a with pv := SMap.set a.pv (l.first + i) (BitVec.ofNat 32 v), pa := SMap.set a.pa (l.first + i) (BitVec.ofNat 32 (v / 2 ^ 32)) }

theorem aspFill_eq (s : State) (c : Nat) (l : ALoad) : s.aspFill c l =
    s.setArc c { (List.range l.n).foldl (fillStep (s.core c).spad l) (s.arc c) with loads := (s.arc c).loads.erase l } := by
  obtain ⟨first, n, addr, half, due⟩ := l
  rcases half with _ | _ | k <;> rfl

/-- The words of a register in memory. -/
def wordAt (m : Memory) (l : ALoad) (i o : Nat) : Word := BitVec.ofNat 32 ((List.range 4).map (fun j =>
  (Memory.read m (l.addr + i * halfBytes l.half + o + j)).toNat * 256 ^ j)).sum

theorem low_word (m : Memory) (l : ALoad) (i : Nat) :
    BitVec.ofNat 32 (m.readN (l.addr + i * halfBytes l.half) (halfBytes l.half)) = wordAt m l i 0 := by
  unfold wordAt
  rw [← readN_four_sum, Nat.add_zero]
  unfold halfBytes
  split
  · rw [readN_eight]
    apply BitVec.eq_of_toNat_eq
    rw [BitVec.toNat_ofNat, BitVec.toNat_ofNat, Nat.add_mul_mod_self_left]
  · rfl

theorem high_word (m : Memory) (l : ALoad) (i : Nat) (h : l.half = 2) :
    BitVec.ofNat 32 (m.readN (l.addr + i * halfBytes l.half) (halfBytes l.half) / 2 ^ 32) = wordAt m l i 4 := by
  have h8 : halfBytes l.half = 8 := if_pos h
  unfold wordAt
  rw [← readN_four_sum, h8, readN_eight, Nat.add_mul_div_left _ _ (by decide),
    Nat.div_eq_of_lt (show _ < 2 ^ 32 from Scratchpad.readN_lt m _ 4), Nat.zero_add]

/-- The registers after a run of an `ASP.LD`. -/
theorem fill_spec (m : Memory) (l : ALoad) (z : Arc) (n : Nat) :
    let y := (List.range n).foldl (fillStep m l) z
    { y with pv := z.pv, pa := z.pa } = z ∧
      (∀ r, SMap.get 0 y.pv r = if (l.first ≤ r ∧ r < l.first + n) ∧ l.half ≠ 1 then wordAt m l (r - l.first) 0 else SMap.get 0 z.pv r) ∧
      ∀ r, l.half ≤ 2 → SMap.get 0 y.pa r =
        if (l.first ≤ r ∧ r < l.first + n) ∧ l.half ≠ 0 then wordAt m l (r - l.first) (halfBytes l.half - 4) else SMap.get 0 z.pa r := by
  induction n with
  | zero => exact ⟨rfl, fun r => (if_neg (by omega)).symm, fun r _ => (if_neg (by omega)).symm⟩
  | succ n ih =>
    obtain ⟨hrest, hpv, hpa⟩ := ih
    dsimp only
    rw [List.range_succ, List.foldl_append, List.foldl_cons, List.foldl_nil]
    generalize (List.range n).foldl (fillStep m l) z = y at hrest hpv hpa
    have hset : ∀ (q : SMap Word) (w : Word) (P : Prop) [Decidable P] (g : Nat → Word) (x : Nat → Word) (r : Nat), P → w = g n →
        SMap.get 0 q r = (if (l.first ≤ r ∧ r < l.first + n) ∧ P then g (r - l.first) else x r) →
        SMap.get 0 (SMap.set q (l.first + n) w) r = if (l.first ≤ r ∧ r < l.first + (n + 1)) ∧ P then g (r - l.first) else x r := by
      intro q w P _ g x r hP hw hq
      rw [SMap.get_set, hq]
      by_cases h : r = l.first + n
      · rw [if_pos h, if_pos ⟨by omega, hP⟩, hw, h, Nat.add_sub_cancel_left]
      · rw [if_neg h]
        exact if_congr (and_congr_left fun _ => by omega) rfl rfl
    have hkeep : ∀ (P : Prop) [Decidable P] (u x : Word) (r : Nat), ¬ P →
        (if (l.first ≤ r ∧ r < l.first + n) ∧ P then u else x) = if (l.first ≤ r ∧ r < l.first + (n + 1)) ∧ P then u else x :=
      fun P _ u x r hP => by rw [if_neg (fun h => hP h.2), if_neg (fun h => hP h.2)]
    have hlow := low_word m l n
    unfold fillStep
    dsimp only
    split
    · next h0 =>
      refine ⟨hrest, fun r => hset _ _ (l.half ≠ 1) (fun i => wordAt m l i 0) _ r (by omega) hlow (hpv r), fun r h2 => ?_⟩
      exact (hpa r h2).trans (hkeep _ _ _ r (by omega))
    · next h1 =>
      have h4 : halfBytes l.half - 4 = 0 := by rw [h1]; rfl
      refine ⟨hrest, fun r => (hpv r).trans (hkeep _ _ _ r (by omega)), fun r h2 => ?_⟩
      exact hset _ _ (l.half ≠ 0) (fun i => wordAt m l i (halfBytes l.half - 4)) _ r (by omega) (by rw [h4]; exact hlow) (hpa r h2)
    · next h0 h1 =>
      refine ⟨hrest, fun r => hset _ _ (l.half ≠ 1) (fun i => wordAt m l i 0) _ r h1 hlow (hpv r), fun r h2 => ?_⟩
      have hh : l.half = 2 := by
        have := show l.half ≠ 0 from h0
        have := show l.half ≠ 1 from h1
        omega
      have h4 : halfBytes l.half - 4 = 4 := by rw [hh]; rfl
      exact hset _ _ (l.half ≠ 0) (fun i => wordAt m l i (halfBytes l.half - 4)) _ r h0 (by rw [h4]; exact high_word m l n hh) (hpa r h2)

theorem fill_loads (m : Memory) (l : ALoad) (z : Arc) (n : Nat) : ((List.range n).foldl (fillStep m l) z).loads = z.loads :=
  (congrArg Arc.loads (fill_spec m l z n).1 :)

/-- A byte of a register as `ASP.ST` writes it. -/
theorem byte_halves (z : Arc) {half r j : Nat} (h : half ≤ 2) (hj : j < halfBytes half) : BitVec.ofNat 8 (z.halves half r / 256 ^ j) =
    BitVec.ofNat 8 ((if half = 1 ∨ (half = 2 ∧ 4 ≤ j) then SMap.get 0 z.pa r else SMap.get 0 z.pv r).toNat / 256 ^ (j % 4)) := by
  unfold Arc.halves
  generalize SMap.get (0 : Word) z.pv r = v
  generalize SMap.get (0 : Word) z.pa r = u
  have hv := v.isLt
  interval_cases half
  · rw [if_neg (by omega), Nat.mod_eq_of_lt (show j < 4 from hj)]
    rfl
  · rw [if_pos (Or.inl rfl), Nat.mod_eq_of_lt (show j < 4 from hj)]
    rfl
  · have h8 : j < 8 := hj
    by_cases h4 : 4 ≤ j
    · obtain ⟨k, rfl⟩ := Nat.exists_eq_add_of_le h4
      rw [if_pos (Or.inr ⟨rfl, h4⟩), Nat.add_mod_left, Nat.mod_eq_of_lt (show k < 4 by omega), Nat.pow_add,
        ← Nat.div_div_eq_div_mul]
      show BitVec.ofNat 8 ((v.toNat + 2 ^ 32 * u.toNat) / 2 ^ 32 / 256 ^ k) = _
      rw [Nat.add_mul_div_left _ _ (by decide), Nat.div_eq_of_lt hv, Nat.zero_add]
    · rw [if_neg (by omega), Nat.mod_eq_of_lt (Nat.not_le.mp h4)]
      apply BitVec.eq_of_toNat_eq
      rw [BitVec.toNat_ofNat, BitVec.toNat_ofNat]
      have hpow : 2 ^ 32 = 256 ^ j * (256 * 256 ^ (3 - j)) := by
        rw [← Nat.pow_succ', ← Nat.pow_add, show j + (3 - j).succ = 4 by omega]
        rfl
      show (v.toNat + 2 ^ 32 * u.toNat) / 256 ^ j % 256 = v.toNat / 256 ^ j % 256
      rw [hpow, Nat.mul_assoc, Nat.add_mul_div_left _ _ (Nat.pow_pos (by decide)), Nat.mul_assoc, Nat.add_mul_mod_self_left]

end Accesses

/-! ### The clauses -/

section Clauses

variable {s : State} {c : Nat} {d a b fn : Reg} {lw : LW}

theorem prog_arc (s : State) (c : Nat) : s.prog (.arc c) = (s.arc c).prog := rfl

/-- `ASP.CVT` with its guard on (R301). -/
theorem cvt_spec (hc : s.cur = .arc c) (hs : Stands s 2 .any) (hr : RegsReady s [srcS d, srcS a lw.ta]) (hg : GuardOn s lw) :
    let n := (s.getS s.cur d).toNat
    let f := (s.getS s.cur a).toNat
    let fl := cvtFlags (s.arc c) fn (s.rm s.cur lw.rm) f n
    let on := fl &&& (s.thread s.cur).fte.setWidth 8
    let free : Prop := ∀ m, m < n → (s.arc c).pEmpty (f + m) = false
    (¬ InRange s d a → Traps (.aspCvt d a b fn lw) s .illegal (s.getS s.cur a)) ∧
      (InRange s d a → ¬ free → Stalls (.aspCvt d a b fn lw) s) ∧
      (InRange s d a → free → on ≠ 0 → exec (.aspCvt d a b fn lw) s = .next (((fresh s).orFsr s.cur fl).raise s.cur
        ⟨.fpx, BitVec.ofNat 64 on.toNat, (s.arc c).prog.pc, (s.arc c).prog.pend⟩)) ∧
      (InRange s d a → free → on = 0 → Retires (.aspCvt d a b fn lw) s 2
        ((((fresh s).orFsr s.cur fl).setArc c (converted (s.arc c) fn (s.rm s.cur lw.rm) f n)).holdFor s.cur ((n + 15) / 16))) := by
  have hcore : s.cur.core = c := by rw [hc]; rfl
  have hbody : ∀ r, cvtRes d a fn lw s.cur (fresh s) = r →
      guarded lw s.cur (fresh s) ((fresh s).ready s.cur [srcS d, srcS a lw.ta] [] (cvtRes d a fn lw s.cur (fresh s))) = r := fun r h =>
    (fresh_guarded hg _).trans ((fresh_ready (by simpa using hr) _).trans h)
  have hrm : (fresh s).rm s.cur lw.rm = s.rm s.cur lw.rm := by rw [State.rm, fresh_thread]; rfl
  dsimp only
  refine ⟨fun h => traps_of_issue _ exec_aspCvt hs (hbody _ ?_), fun h hf => stalls_of_issue _ exec_aspCvt hs (hbody _ ?_),
    fun h hf hon => ?_, fun h hf hon => retires_of_issue _ exec_aspCvt hs (hbody _ ?_)⟩
  · unfold cvtRes
    simp only [fresh_getS]
    exact if_pos (inRange_iff.mpr h)
  · unfold cvtRes
    simp only [fresh_getS, hcore, arc_fresh]
    exact (if_neg (fun h' => inRange_iff.mp h' h)).trans (if_pos (not_free hf))
  · have hres : cvtRes d a fn lw s.cur (fresh s) = .trapAt ((fresh s).orFsr s.cur (cvtFlags (s.arc c) fn (s.rm s.cur lw.rm)
        (s.getS s.cur a).toNat (s.getS s.cur d).toNat)) .fpx (zx64 ((cvtFlags (s.arc c) fn (s.rm s.cur lw.rm)
        (s.getS s.cur a).toNat (s.getS s.cur d).toNat).enabled (s.thread s.cur).fte)) (s.prog s.cur).pc (s.prog s.cur).pend := by
      unfold cvtRes
      simp only [fresh_getS, hcore, arc_fresh, hrm, fresh_thread, fresh_prog]
      exact (if_neg (fun h' => inRange_iff.mp h' h)).trans ((if_neg (by rw [(anyEmpty_iff _ _ _).mpr hf]; exact Bool.false_ne_true)).trans
        (if_pos hon))
    refine exec_aspCvt.trans ((issue_eq hs (hbody _ hres) (fun _ => Res.noConfusion)).trans ?_)
    rw [Lanes.zx64_eq _ (by decide), hc]
    rfl
  · unfold cvtRes
    simp only [fresh_getS, hcore, arc_fresh, hrm, fresh_thread]
    exact (if_neg (fun h' => inRange_iff.mp h' h)).trans ((if_neg (by rw [(anyEmpty_iff _ _ _).mpr hf]; exact Bool.false_ne_true)).trans
      (if_neg (not_not_intro hon)))

/-- `ASP.CLRA` (R304). -/
theorem clra_spec (hc : s.cur = .arc c) (hs : Stands s 1 .any) (hr : RegsReady s [srcS d, srcS a]) :
    let n := (s.getS s.cur d).toNat
    let f := (s.getS s.cur a).toNat
    let free : Prop := ∀ m, m < n → (s.arc c).pEmpty (f + m) = false
    (¬ InRange s d a → Traps (.aspClra d a) s .illegal (s.getS s.cur a)) ∧ (InRange s d a → ¬ free → Stalls (.aspClra d a) s) ∧
      (InRange s d a → free → Retires (.aspClra d a) s 1 (((fresh s).setArc c { s.arc c with
        pa := (List.range n).foldl (fun m i => SMap.set m (f + i) 0) (s.arc c).pa }).holdFor s.cur ((n + 15) / 16))) := by
  have hcore : s.cur.core = c := by rw [hc]; rfl
  dsimp only
  refine ⟨fun h => traps_of_ready _ exec_aspClra rfl hs hr ?_, fun h hf => stalls_of_ready _ exec_aspClra rfl hs hr ?_,
    fun h hf => retires_of_ready _ exec_aspClra rfl hs hr ?_⟩
  all_goals
    unfold clraRes
    simp only [fresh_getS, hcore, arc_fresh]
  · exact if_pos (inRange_iff.mpr h)
  all_goals refine (if_neg (fun h' => inRange_iff.mp h' h)).trans ?_
  · exact if_pos (not_free hf)
  · exact if_neg (by rw [(anyEmpty_iff _ _ _).mpr hf]; exact Bool.false_ne_true)

/-- The one load that is due performs (R300). -/
theorem exec_aspLdFill {l : ALoad} (hc : s.target.core = c) (hl : (s.arc c).loads = [l]) (hd : l.due ≤ s.now) : exec .aspLdFill s =
    .next (s.setArc c { (List.range l.n).foldl (fillStep (s.core c).spad l) (s.arc c) with loads := [] }) := by
  subst hc
  show Host.Outcome.next (((s.arc s.target.core).loads.filter (fun l => decide (l.due ≤ s.now))).foldl (fun u l => u.aspFill s.target.core l) s) = _
  rw [hl, List.filter_cons_of_pos (by simpa using hd), List.filter_nil, List.foldl_cons, List.foldl_nil, aspFill_eq, hl,
    List.erase_cons_head]

theorem arc_stored (u : State) {first k addr half : Nat} : (u.aspStore c first k addr half).arc c = u.arc c := by
  simp only [State.aspStore, State.arc, State.core_setCore_self]

/-- The access of an `ASP.ST`, its hold ended (R300). -/
theorem spad_stored {p : Prog} {first k addr half : Nat} :
    (((s.setArc c { s.arc c with prog := p }).aspStore c first k addr half).core c).spad = (List.range k).foldl (fun m i =>
      m.writeN (addr + i * halfBytes half) (halfBytes half) ((s.arc c).halves half (first + i))) (s.core c).spad := by
  simp only [State.aspStore, State.core_setCore_self, State.setArc]
  rfl

theorem exec_holdCountExpiry {t first k addr half : Nat} (hc : s.target.core = c) (hu : s.target.unit = 28)
    (hh : (s.arc c).prog.hold = some (.aspSt t first k addr half)) :
    (s.now < t → exec .holdCountExpiry s = .next s) ∧ (t ≤ s.now → (s.arc c).loads = [] → exec .holdCountExpiry s =
      .next ((s.setArc c { s.arc c with prog := { (s.arc c).prog with hold := none } }).aspStore c first k addr half)) := by
  subst hc
  have hexec : exec .holdCountExpiry s = execHoldCountExpiry s := rfl
  unfold execHoldCountExpiry at hexec
  rw [hexec, hu]
  simp only [show ¬ 28 < 24 by decide, show ¬ 28 < 28 by decide, if_false, prog_arc, hh]
  refine ⟨fun h => if_neg (fun h' => Nat.not_le.mpr h h'.1), fun h hl => if_pos ⟨h, ?_⟩⟩
  simp [State.aspPending, hl]

end Clauses

/-- Settles O39. -/
theorem arcadeMoves : Obligations.ArcadeMoves := by
  unfold Obligations.ArcadeMoves
  intro s c d a b fn lw hc
  refine ⟨fun hs hr i hi => ?_, fun hs hr hg => ?_, fun hs hg hr hf => ?_, fun hs hr => ?_, fun hs hr => ⟨fun h => ?_, fun h => ?_, ?_⟩,
    fun l ht hl hd => ?_, fun t first k addr half ht hu hh h2 hwf => ?_⟩
  · have hcore : s.cur.core = c := by rw [hc]; rfl
    simp only [List.mem_cons, List.not_mem_nil, or_false] at hi
    rcases hi with rfl | rfl
    · obtain ⟨h1, h2, h3, h4, h5, h6⟩ := move_spec hc (exec_aspLd (b := b) (fn := fn)) hs hr
      refine ⟨h1, h2, h3, h4, h5, fun hin h0 ha hp hf => ⟨_, aspDue_spec _ _, fun _ => h6 _ ?_ hin h0 ha hp hf, fun h => Instr.noConfusion h⟩⟩
      rw [hcore]
      rfl
    · obtain ⟨h1, h2, h3, h4, h5, h6⟩ := move_spec hc (exec_aspSt (b := b) (fn := fn)) hs hr
      exact ⟨h1, h2, h3, h4, h5, fun hin h0 ha hp hf => ⟨_, aspDue_spec _ _, fun h => Instr.noConfusion h, fun _ => h6 _ rfl hin h0 ha hp hf⟩⟩
  · obtain ⟨h1, h2, h3, h4⟩ := cvt_spec (b := b) (fn := fn) hc hs hr hg
    refine ⟨h1, h2, h3, fun hin hf hon => ⟨converted (s.arc c) fn (s.rm s.cur lw.rm) _ _, (converted_rest _ _ _ _).1,
      fun r => converted_half _ _ _ _ r, (converted_rest _ _ _ _).2, h4 hin hf hon⟩⟩
  · refine retires_of_issue _ exec_aspCvt hs ((if_pos hg).trans ((fresh_ready (by simpa using hr) _).trans ?_))
    rw [fresh_getS, hf]
    rfl
  · obtain ⟨h1, h2, h3⟩ := clra_spec hc hs hr
    refine ⟨h1, h2, fun hin hf => ⟨_, fun r => ?_, h3 hin hf⟩⟩
    exact get_foldl_range 0 _ _ (fun _ => 0) _ r
  · refine traps_of_ready _ exec_aspWin rfl hs hr ?_
    unfold winRes
    rw [fresh_getS]
    exact if_pos h
  · refine retires_of_ready _ exec_aspWin rfl hs hr ?_
    unfold winRes
    rw [fresh_getS, hc]
    exact if_neg (Nat.not_le.mpr (hc ▸ h))
  · refine retires_of_ready _ exec_aspSeed rfl hs hr ?_
    rw [fresh_getS, hc]
    rfl
  · obtain ⟨hrest, hpv, hpa⟩ := fill_spec (s.core c).spad l (s.arc c) l.n
    refine ⟨_, ?_, exec_aspLdFill ht hl hd, fun r => hpv r, fun r h2 => hpa r h2⟩
    conv_rhs => rw [← hrest]
  · obtain ⟨h1, h3⟩ := exec_holdCountExpiry ht hu hh
    refine ⟨h1, fun hn hl => ⟨_, h3 hn hl, ?_, ?_⟩⟩
    · exact (arc_stored _).trans (State.arc_setArc_self _ _ _)
    · obtain ⟨-, hin, hout⟩ := read_foldl_writeN addr (halfBytes half) k (fun i => (s.arc c).halves half (first + i)) hwf
      rw [spad_stored]
      exact ⟨fun m j hm hj => (hin m j hm hj).trans (byte_halves _ h2 hj), hout⟩

end Sys2Proof.Proofs.ArcadeMoves
end

section
/-! PROOFS. Vector loads and stores (R181, R182). -/

namespace Sys2Proof.Proofs.VectorMemory

open Sys2Proof.Machine
open Sys2Proof.Safety
open Sys2Proof.Proofs.Traps
open Sys2Proof.Proofs.Groups
open Sys2Proof.Proofs.Flags
open Sys2Proof.Proofs.Lanes
open Sys2Proof.Proofs.Streams
open Sys2Proof.Proofs.VectorMoves

/-! ### The enabled lanes and their checks (R181) -/

section Lanes

variable {s : State} {lw : LW} {w n : Nat} {addr : Nat → DWord}

/-- A lane that an access makes. -/
def On (s : State) (lw : LW) (w j : Nat) : Prop := j < 8192 / w ∧ laneEnabled s lw w j = true

/-- The lanes of an access and their addresses. -/
def lanesAt (s : State) (lw : LW) (w : Nat) (addr : Nat → DWord) : List (Nat × DWord) := laneAddrs lw (s.getV s.cur lw.greg) w addr

theorem lanesAt_eq (hk : lw.gbit.toNat < w) : lanesAt s lw w addr =
    ((List.range (8192 / w)).filter (laneEnabled s lw w)).map fun i => (i, addr i) := by
  have h : laneOn lw (s.getV s.cur lw.greg) w = laneEnabled s lw w := funext fun j => laneOn_eq hk
  simp only [lanesAt, laneAddrs, h]
  rfl

/-- The first lane of which a test holds. -/
theorem find_lane (hk : lw.gbit.toNat < w) {p : DWord → Bool} {j : Nat} (hj : On s lw w j) (hp : p (addr j) = true)
    (hl : ∀ l, On s lw w l → l < j → p (addr l) = false) : (lanesAt s lw w addr).find? (fun x => p x.2) = some (j, addr j) := by
  obtain ⟨hlt, hon⟩ := hj
  have hfind : (List.range (8192 / w)).find? (fun i => laneEnabled s lw w i && p (addr i)) = some j := by
    rw [List.find?_range_eq_some]
    refine ⟨by simp [hon, hp], List.mem_range.mpr hlt, fun l hlj => ?_⟩
    by_cases h : laneEnabled s lw w l = true
    · simp [hl l ⟨hlj.trans hlt, h⟩ hlj]
    · simp [h]
  rw [lanesAt_eq hk, List.find?_map, List.find?_filter]
  refine Eq.trans (congrArg (Option.map fun i => (i, addr i)) (congrArg (fun f => List.find? f _) (funext fun i => ?_)))
    (congrArg (Option.map fun i => (i, addr i)) hfind)
  simp

theorem find_no_lane (hk : lw.gbit.toNat < w) {p : DWord → Bool} (h : ∀ l, On s lw w l → p (addr l) = false) :
    (lanesAt s lw w addr).find? (fun x => p x.2) = none := by
  rw [lanesAt_eq hk, List.find?_eq_none]
  intro x hx
  obtain ⟨i, hi, rfl⟩ := List.mem_map.mp hx
  obtain ⟨hr, ho⟩ := List.mem_filter.mp hi
  simp [h i ⟨List.mem_range.mp hr, ho⟩]

theorem check_align (hk : lw.gbit.toNat < w) {j : Nat} (hj : On s lw w j) (ha : (addr j).toNat % n ≠ 0)
    (hl : ∀ l, On s lw w l → l < j → (addr l).toNat % n = 0) : laneCheck n (lanesAt s lw w addr) = some (.align, addr j) := by
  have h := find_lane (p := fun x => x.toNat % n != 0) hk hj (by simpa using ha) fun l ho hlt => by simpa using hl l ho hlt
  simp only [laneCheck, h]

theorem check_bound (hk : lw.gbit.toNat < w) {j : Nat} (hj : On s lw w j) (ha : ∀ l, On s lw w l → (addr l).toNat % n = 0)
    (hb : 0xBFFFF < (addr j).toNat + n - 1) (hl : ∀ l, On s lw w l → l < j → (addr l).toNat + n - 1 ≤ 0xBFFFF) :
    laneCheck n (lanesAt s lw w addr) = some (.spbound, addr j) := by
  have h0 := find_no_lane (p := fun x => x.toNat % n != 0) hk fun l ho => by simpa using ha l ho
  have h1 := find_lane (p := fun x => decide (spadTop < x.toNat + n - 1)) hk hj (decide_eq_true hb) fun l ho hlt =>
    decide_eq_false (Nat.not_lt.mpr (hl l ho hlt))
  simp only [laneCheck, h0, h1]

theorem check_good (hk : lw.gbit.toNat < w) (ha : ∀ l, On s lw w l → (addr l).toNat % n = 0)
    (hb : ∀ l, On s lw w l → (addr l).toNat + n - 1 ≤ 0xBFFFF) : laneCheck n (lanesAt s lw w addr) = none := by
  have h0 := find_no_lane (p := fun x => x.toNat % n != 0) hk fun l ho => by simpa using ha l ho
  have h1 := find_no_lane (p := fun x => decide (spadTop < x.toNat + n - 1)) hk fun l ho => decide_eq_false (Nat.not_lt.mpr (hb l ho))
  simp only [laneCheck, h0, h1]

/-- An access costs a clock at least. -/
theorem bankCost_pos (as : List (Nat × DWord)) : 1 ≤ bankCost as := by
  have key : ∀ (f : Nat → Nat) (l : List Nat) (m : Nat), m ≤ l.foldl (fun m x => max m (f x)) m := fun f l => by
    induction l with
    | nil => exact fun m => Nat.le_refl m
    | cons x l ih => exact fun m => (Nat.le_max_left _ _).trans (ih _)
  exact key _ _ 1

end Lanes

/-! ### The access -/

section Access

variable {i : Instr} {s : State} {d fn : Reg} {lw : LW} {srcs dests : List Src} {costed : Bool} {addr : Seqr → State → Nat → DWord}
  {at_ : Nat → DWord} {w : Nat}

/-- The cost of an access, where it counts. -/
def costOf (s : State) (lw : LW) (w : Nat) (costed : Bool) (at_ : Nat → DWord) : Nat :=
  if costed then bankCost (lanesAt s lw w at_) else 1

theorem costOf_pos : 1 ≤ costOf s lw w costed at_ := by
  unfold costOf
  split
  · exact bankCost_pos _
  · exact Nat.le_refl 1

/-- What an access comes to once it can issue. -/
def accessRes (fn : Reg) (lw : LW) (costed : Bool) (addr : Seqr → State → Nat → DWord)
    (body : Seqr → State → List (Nat × DWord) → Nat → Res) (q : Seqr) (s : State) : Res :=
  match laneCheck (Fmt.vwidth fn / 8) (laneAddrs lw (s.getV q lw.greg) (Fmt.vwidth fn) (addr q s)) with
  | some (c, v) => .trap c v
  | none => body q (s.occupyLanes q.core (2 + ((if costed then bankCost (laneAddrs lw (s.getV q lw.greg) (Fmt.vwidth fn) (addr q s)) else 1) - 1)))
      (laneAddrs lw (s.getV q lw.greg) (Fmt.vwidth fn) (addr q s))
      (if costed then bankCost (laneAddrs lw (s.getV q lw.greg) (Fmt.vwidth fn) (addr q s)) else 1)

variable {body : Seqr → State → List (Nat × DWord) → Nat → Res}

theorem vecAccess_eq : vecAccess s fn lw srcs dests costed addr body = vecIssue s lw srcs dests 2 (accessRes fn lw costed addr body) := rfl

/-- The datapath is taken for as long as the last to take it says. -/
theorem occupy_laned (m dp : Nat) : (laned s m).occupyLanes s.cur.core dp = laned s dp := by
  show ((laned s m).setCore s.cur.core { (laned s m).core s.cur.core with laneFree := s.now + dp }) = _
  rw [core_laned, if_pos rfl]
  exact setCore_setCore _ _

theorem access_traps {c : Cause} {v : DWord} (ha : addr s.cur (laned s 2) = at_)
    (h : laneCheck (Fmt.vwidth fn / 8) (lanesAt s lw (Fmt.vwidth fn) at_) = some (c, v)) :
    accessRes fn lw costed addr body s.cur (laned s 2) = .trap c v := by
  unfold accessRes
  rw [getV_laned, ha]
  unfold lanesAt at h
  simp only [h]

theorem access_runs (ha : addr s.cur (laned s 2) = at_)
    (h : laneCheck (Fmt.vwidth fn / 8) (lanesAt s lw (Fmt.vwidth fn) at_) = none) :
    accessRes fn lw costed addr body s.cur (laned s 2) = body s.cur (laned s (costOf s lw (Fmt.vwidth fn) costed at_ + 1))
      (lanesAt s lw (Fmt.vwidth fn) at_) (costOf s lw (Fmt.vwidth fn) costed at_) := by
  have hc := costOf_pos (s := s) (lw := lw) (w := Fmt.vwidth fn) (costed := costed) (at_ := at_)
  unfold accessRes
  rw [getV_laned, ha, occupy_laned]
  unfold lanesAt at h
  simp only [h]
  unfold costOf lanesAt at hc ⊢
  rw [show ∀ k, 1 ≤ k → 2 + (k - 1) = k + 1 from fun k hk => by omega]
  exact hc

/-- The checks of R181 in their order. -/
theorem access_checks (hi : exec i s = vecAccess s fn lw srcs dests costed addr body) (hr : VecReady s lw (Fmt.vwidth fn) (srcs ++ dests))
    (ha : addr s.cur (laned s 2) = at_) :
    let n := Fmt.vwidth fn / 8
    let on := On s lw (Fmt.vwidth fn)
    (∀ j, on j → (at_ j).toNat % n ≠ 0 → (∀ l, on l → l < j → (at_ l).toNat % n = 0) → Traps i s .align (at_ j)) ∧
      (∀ j, (∀ l, on l → (at_ l).toNat % n = 0) → on j → 0xBFFFF < (at_ j).toNat + n - 1 →
        (∀ l, on l → l < j → (at_ l).toNat + n - 1 ≤ 0xBFFFF) → Traps i s .spbound (at_ j)) :=
  ⟨fun _ hj hne hl => traps_of_vecReady (hi.trans vecAccess_eq) hr (access_traps ha (check_align hr.gbit hj hne hl)),
    fun _ hal hj hb hl => traps_of_vecReady (hi.trans vecAccess_eq) hr (access_traps ha (check_bound hr.gbit hj hal hb hl))⟩

end Access

/-! ### Loads -/

section Loads

variable {i : Instr} {s : State} {d fn : Reg} {lw : LW} {srcs : List Src} {costed : Bool} {addr : Seqr → State → Nat → DWord}
  {at_ : Nat → DWord}

/-- A list after some of its elements are replaced, each by a value of its index. -/
theorem getElem?_foldl_set {α : Type} (g : Nat → α) (is : List Nat) (xs : List α) (j : Nat) :
    (is.foldl (fun xs i => xs.set i (g i)) xs)[j]? = if j ∈ is ∧ j < xs.length then some (g j) else xs[j]? := by
  induction is generalizing xs with
  | nil => rw [if_neg (by simp)]; rfl
  | cons i is ih =>
    rw [List.foldl_cons, ih, List.length_set]
    by_cases hl : j < xs.length
    · rw [List.getElem?_set]
      by_cases hin : j ∈ is
      · rw [if_pos ⟨hin, hl⟩, if_pos ⟨List.mem_cons_of_mem _ hin, hl⟩]
      · rw [if_neg (fun h => hin h.1)]
        by_cases hij : i = j
        · rw [if_pos hij, if_pos (hij ▸ hl), if_pos ⟨hij ▸ List.mem_cons_self, hl⟩, hij]
        · rw [if_neg hij, if_neg (fun h => (List.mem_cons.mp h.1).elim (fun e => hij e.symm) hin)]
    · have hn : (xs.set i (g i))[j]? = none := List.getElem?_eq_none (by rw [List.length_set]; exact Nat.not_lt.mp hl)
      rw [hn, if_neg (fun h => hl h.2), if_neg (fun h => hl h.2), List.getElem?_eq_none (Nat.not_lt.mp hl)]

theorem length_foldl_set {α : Type} (g : Nat → α) (is : List Nat) (xs : List α) :
    (is.foldl (fun xs i => xs.set i (g i)) xs).length = xs.length :=
  List.foldlRecOn (motive := fun ys : List α => ys.length = xs.length) is _ rfl fun ys hys i _ => by rw [List.length_set, hys]

/-- The elements of a load: those of the lanes on come from memory, the others are as before. -/
def loadedElems (s : State) (lw : LW) (w : Nat) (d : Reg) (at_ : Nat → DWord) : List Nat :=
  (lanesAt s lw w at_).foldl (fun l p => l.set p.1 (Memory.readN (s.core s.cur.core).spad p.2.toNat (w / 8))) (velems (s.getV s.cur d) w)

theorem lanesHold_loaded {w : Nat} (hk : lw.gbit.toNat < w) (hw : w ∣ 8192) : lanesHold s lw w d
    (fun j => Memory.readN (s.core s.cur.core).spad (at_ j).toNat (w / 8)) (natOfElems w (loadedElems s lw w d at_)) := by
  intro j hj
  have heq : loadedElems s lw w d at_ = ((List.range (8192 / w)).filter (laneEnabled s lw w)).foldl
      (fun l i => l.set i (Memory.readN (s.core s.cur.core).spad (at_ i).toNat (w / 8))) (velems (s.getV s.cur d) w) := by
    rw [loadedElems, lanesAt_eq hk, List.foldl_map]
  have hvl : (velems (s.getV s.cur d) w).length = 8192 / w := by simp [velems, lanesOf]
  have hlen : (loadedElems s lw w d at_).length = 8192 / w := by rw [heq, length_foldl_set, hvl]
  have hget := getElem?_foldl_set (fun i => Memory.readN (s.core s.cur.core).spad (at_ i).toNat (w / 8))
    ((List.range (8192 / w)).filter (laneEnabled s lw w)) (velems (s.getV s.cur d) w) j
  rw [← heq, List.getElem?_eq_getElem (by rw [hlen]; exact hj), hvl] at hget
  rw [velem_natOfElems (by rw [hlen, width_mul_lanes hw]) (by rw [hlen]; exact hj)]
  by_cases hon : laneEnabled s lw w j = true
  · rw [if_pos ⟨List.mem_filter.mpr ⟨List.mem_range.mpr hj, hon⟩, hj⟩] at hget
    rw [if_pos hon, Option.some.inj hget]
  · rw [if_neg (fun h => hon (List.mem_filter.mp h.1).2), List.getElem?_eq_getElem (by rw [hvl]; exact hj)] at hget
    rw [if_neg hon, Option.some.inj hget]
    simp only [velems, List.getElem_map, List.getElem_range]
    exact Nat.mod_eq_of_lt (velem_lt _ _ _)

/-- What a load does with its lanes. -/
def loadBody (d fn : Reg) (q : Seqr) (s : State) (as : List (Nat × DWord)) (c : Nat) : Res :=
  vecCommit q s true d.toNat (natOfElems (Fmt.vwidth fn) (as.foldl (fun l p => l.set p.1 (s.spadRead q p.2.toNat (Fmt.vwidth fn / 8)))
    (velems (s.getV q d) (Fmt.vwidth fn)))) 0 (4 + (c - 1))

theorem vecLoad_eq : vecLoad s d fn lw srcs costed addr = vecAccess s fn lw srcs [srcV d] costed addr (loadBody d fn) := rfl

theorem laneFlags_zero (w n : Nat) : laneFlags s lw w n (fun _ => 0) = 0 :=
  List.foldlRecOn (motive := fun f : Flags => f = 0) _ _ rfl fun f hf j _ => by
    split
    · rw [hf]
      exact BitVec.or_zero
    · exact hf

/-- A commit of an instruction whose body runs after the datapath has been taken for longer. -/
theorem vecCommits_zero {dests : List Src} {w m dp lat v : Nat} {f : Seqr → State → Res} {ok : Nat → Prop} (hi : exec i s = vecIssue s lw srcs dests m f)
    (hr : VecReady s lw w (srcs ++ dests)) (hb : f s.cur (laned s m) = vecCommit s.cur (laned s dp) true d.toNat v 0 lat) (hv : ok v) :
    VecCommits i s true d dp lat ok 0 := by
  have h0 : (0 : Flags) &&& (s.thread s.cur).fte.setWidth 8 = 0 := BitVec.zero_and
  rw [vecCommit_laned, if_neg (not_not_intro h0)] at hb
  refine ⟨fun _ => ⟨v, hv, _, issue_of_vecReady hi hr hb (fun _ => Res.noConfusion), after_finish s _ _ 2 (fresh_prog s _)⟩, fun h => ?_⟩
  exact absurd h0 h

theorem load_writes (hf : IsElem fn) (hi : exec i s = vecLoad s d fn lw srcs costed addr) (hr : VecReady s lw (Fmt.vwidth fn) (srcs ++ [srcV d]))
    (ha : addr s.cur (laned s 2) = at_) (hal : ∀ l, On s lw (Fmt.vwidth fn) l → (at_ l).toNat % (Fmt.vwidth fn / 8) = 0)
    (hin : ∀ l, On s lw (Fmt.vwidth fn) l → (at_ l).toNat + Fmt.vwidth fn / 8 - 1 ≤ 0xBFFFF) :
    VecWrites i s lw d (Fmt.vwidth fn) (costOf s lw (Fmt.vwidth fn) costed at_ + 1) (costOf s lw (Fmt.vwidth fn) costed at_ + 3)
      fun j => (Memory.readN (s.core s.cur.core).spad (at_ j).toNat (Fmt.vwidth fn / 8), 0) := by
  unfold VecWrites
  rw [laneFlags_zero]
  refine vecCommits_zero (hi.trans (vecLoad_eq.trans vecAccess_eq)) hr ((access_runs ha (check_good hr.gbit hal hin)).trans ?_)
    (lanesHold_loaded hr.gbit (vwidth_dvd hf))
  unfold loadBody
  have hc := costOf_pos (s := s) (lw := lw) (w := Fmt.vwidth fn) (costed := costed) (at_ := at_)
  simp only [State.spadRead, spad_laned, getV_laned]
  rw [show 4 + (costOf s lw (Fmt.vwidth fn) costed at_ - 1) = costOf s lw (Fmt.vwidth fn) costed at_ + 3 by omega]
  rfl

end Loads

/-! ### Stores -/

section Stores

variable {n : Nat} (A x : Nat → Nat)

/-- Memory after the writes of a list of lanes. -/
def writes (n : Nat) (is : List Nat) (m : Memory) : Memory := is.foldl (fun m i => m.writeN (A i) n (x i)) m

theorem writes_frame (is : List Nat) {m : Memory} (hm : m.wf = true) : (writes A x n is m).wf = true ∧
    ∀ k, (∀ i ∈ is, k < A i ∨ A i + n ≤ k) → Memory.read (writes A x n is m) k = Memory.read m k := by
  induction is generalizing m with
  | nil => exact ⟨hm, fun _ _ => rfl⟩
  | cons i is ih =>
    obtain ⟨hwf, hread⟩ := ih (Memory.wf_writeN m (A i) n (x i) hm)
    refine ⟨hwf, fun k hk => (hread k fun e he => hk e (List.mem_cons_of_mem _ he)).trans ?_⟩
    have hi := hk i List.mem_cons_self
    rw [Memory.read_writeN _ _ _ _ _ hm, if_neg (by omega)]

/-- Two places of the size they are aligned to are one or lie apart. -/
theorem apart {a b : Nat} (ha : a % n = 0) (hb : b % n = 0) (h : a ≠ b) : a + n ≤ b ∨ b + n ≤ a := by
  obtain ⟨p, rfl⟩ := Nat.dvd_of_mod_eq_zero ha
  obtain ⟨q, rfl⟩ := Nat.dvd_of_mod_eq_zero hb
  rcases Nat.lt_trichotomy p q with hpq | rfl | hpq
  · exact Or.inl (by rw [← Nat.mul_succ]; exact Nat.mul_le_mul_left n hpq)
  · exact absurd rfl h
  · exact Or.inr (by rw [← Nat.mul_succ]; exact Nat.mul_le_mul_left n hpq)

/-- The last lane to write a place is the one whose value it keeps. -/
theorem writes_last {is : List Nat} (hs : is.Pairwise (· < ·)) (hal : ∀ i ∈ is, A i % n = 0) {m : Memory} (hm : m.wf = true) {j : Nat} (hj : j ∈ is)
    (hl : ∀ l ∈ is, j < l → A l ≠ A j) : Memory.readN (writes A x n is m) (A j) n = x j % 256 ^ n := by
  obtain ⟨before, after, rfl⟩ := List.append_of_mem hj
  have hafter : ∀ l ∈ after, j < l := (List.pairwise_cons.mp (List.pairwise_append.mp hs).2.1).1
  have hpre := (writes_frame A x (n := n) before hm).1
  have hwf := Memory.wf_writeN (writes A x n before m) (A j) n (x j) hpre
  have heq : writes A x n (before ++ j :: after) m = writes A x n after ((writes A x n before m).writeN (A j) n (x j)) := by
    simp only [writes, List.foldl_append, List.foldl_cons]
  rw [heq, ← Memory.readN_writeN (writes A x n before m) (A j) n (x j) hpre]
  refine Memory.readN_congr _ _ _ _ fun k h1 h2 => (writes_frame A x after hwf).2 k fun l hmem => ?_
  have hin := List.mem_append_right before (List.mem_cons_of_mem j hmem)
  have := apart (hal l hin) (hal j hj) (hl l hin (hafter l hmem))
  omega

variable {s u t : State} {c : Nat} {m : Memory} {d fn : Reg} {lw : LW} {srcs : List Src} {costed : Bool} {addr : Seqr → State → Nat → DWord}
  {at_ : Nat → DWord} {i : Instr}

/-- Of the cores and of HBM nothing has changed but the scratchpad of one core. -/
structure OnlyPad (u t : State) (c : Nat) (m : Memory) : Prop where
  hbm   : t.hbm = u.hbm
  cores : ∀ d, t.core d = if d = c then { u.core c with spad := m } else u.core d

theorem OnlyPad.here (h : OnlyPad u t c m) : t.core c = { u.core c with spad := m } := (h.cores c).trans (if_pos rfl)

theorem OnlyPad.same {α : Type} (h : OnlyPad u t c m) (f : Core → α) (hf : ∀ k m, f { k with spad := m } = f k) (d : Nat) :
    f (t.core d) = f (u.core d) := by
  rw [h.cores]
  split
  · next e => rw [hf, e]
  · rfl

theorem OnlyPad.ctx (h : OnlyPad u t c m) (d y : Nat) : t.ctx d y = u.ctx d y :=
  h.same (fun k => SMap.get ({} : Ctx) k.ctxs y) (fun _ _ => rfl) d
theorem OnlyPad.slot (h : OnlyPad u t c m) (d y : Nat) : t.slot d y = u.slot d y :=
  h.same (fun k => SMap.get ({} : VSlot) k.slots y) (fun _ _ => rfl) d
theorem OnlyPad.arc (h : OnlyPad u t c m) (d : Nat) : t.arc d = u.arc d := h.same Core.arc (fun _ _ => rfl) d

theorem OnlyPad.prog (h : OnlyPad u t c m) (q : Seqr) : t.prog q = u.prog q := by
  cases q with
  | thread d y => exact congrArg Ctx.prog (h.ctx d y)
  | vec d y => exact congrArg VSlot.prog (h.slot d y)
  | arc d => exact congrArg Arc.prog (h.arc d)

theorem OnlyPad.ownerCtx (h : OnlyPad u t c m) (q : Seqr) : t.ownerCtx q = u.ownerCtx q := by
  cases q with
  | thread d y => rfl
  | vec d y => exact congrArg (fun v : VSlot => v.owner.getD 0) (h.slot d y)
  | arc d => exact congrArg (fun v : Arc => v.owner.getD 0) (h.arc d)

theorem OnlyPad.thread (h : OnlyPad u t c m) (q : Seqr) : t.thread q = u.thread q := by
  rw [State.thread, h.ownerCtx, h.ctx]
  rfl

/-- The writes of some lanes change the scratchpad of their core alone. -/
theorem onlyPad_writes (q : Seqr) (is : List Nat) (u : State) : OnlyPad u (is.foldl (fun u i => u.spadWrite q (A i) n (x i)) u) q.core
    (writes A x n is (u.core q.core).spad) := by
  induction is generalizing u with
  | nil => exact ⟨rfl, fun d => by split <;> simp_all [writes]⟩
  | cons i is ih =>
    obtain ⟨hh, hc⟩ := ih (u.spadWrite q (A i) n (x i))
    have hone : ∀ d, (u.spadWrite q (A i) n (x i)).core d =
        if d = q.core then { u.core q.core with spad := (u.core q.core).spad.writeN (A i) n (x i) } else u.core d := fun d => State.core_setCore ..
    refine ⟨hh, fun d => (hc d).trans ?_⟩
    rw [hone d, hone q.core, if_pos rfl]
    by_cases h : d = q.core
    · rw [if_pos h, if_pos h]; rfl
    · rw [if_neg h, if_neg h, if_neg h]

/-- What a store does with its lanes. -/
def storeBody (d fn : Reg) (q : Seqr) (s : State) (as : List (Nat × DWord)) (_ : Nat) : Res :=
  .retire (as.foldl (fun s' p => s'.spadWrite q p.2.toNat (Fmt.vwidth fn / 8) (velem (s.getV q d) (Fmt.vwidth fn) p.1)) s)

theorem vecStore_eq : vecStore s d fn lw srcs costed addr = vecAccess s fn lw (srcs ++ [srcV d]) [] costed addr (storeBody d fn) := rfl

theorem getV_of_after {s1 : State} {len : Nat} (h : After s s1 t len) (q : Seqr) (r : Reg) : t.getV q r = s1.getV q r := by
  have hown : t.ownerCtx q = s1.ownerCtx q := by
    cases q with
    | thread d y => rfl
    | vec d y => exact (congrArg (fun v : VSlot => v.owner.getD 0) (h.slots d y) :)
    | arc d => exact (congrArg (fun v : Arc => v.owner.getD 0) (h.arcs d) :)
  rw [State.getV, State.getV, State.thread, State.thread, hown]
  exact (congrArg (fun k : Ctx => SMap.get 0 k.v r.toNat) (h.ctxs _ _) :)

/-- A store writes its lanes to memory, and nothing else of it changes (R181). -/
theorem store_writes (hf : IsElem fn) (hi : exec i s = vecStore s d fn lw srcs costed addr) (hr : VecReady s lw (Fmt.vwidth fn) (srcs ++ [srcV d]))
    (hwf : (s.core s.cur.core).spad.wf = true) (ha : addr s.cur (laned s 2) = at_)
    (hal : ∀ l, On s lw (Fmt.vwidth fn) l → (at_ l).toNat % (Fmt.vwidth fn / 8) = 0)
    (hin : ∀ l, On s lw (Fmt.vwidth fn) l → (at_ l).toNat + Fmt.vwidth fn / 8 - 1 ≤ 0xBFFFF) :
    ∃ t, exec i s = .next t ∧ (t.core s.cur.core).laneFree = s.now + (costOf s lw (Fmt.vwidth fn) costed at_ + 1) ∧
      (∀ j, On s lw (Fmt.vwidth fn) j → (∀ l, On s lw (Fmt.vwidth fn) l → j < l → at_ l ≠ at_ j) →
        Memory.readN (t.core s.cur.core).spad (at_ j).toNat (Fmt.vwidth fn / 8) = velem (s.getV s.cur d) (Fmt.vwidth fn) j) ∧
      (∀ k, (∀ j, On s lw (Fmt.vwidth fn) j → k < (at_ j).toNat ∨ (at_ j).toNat + Fmt.vwidth fn / 8 ≤ k) →
        Memory.read (t.core s.cur.core).spad k = Memory.read (s.core s.cur.core).spad k) ∧
      (∀ k, Memory.read t.hbm k = Memory.read s.hbm k) ∧ (∀ r, t.getS s.cur r = s.getS s.cur r) ∧ ∀ r, t.getV s.cur r = s.getV s.cur r := by
  have hr' : VecReady s lw (Fmt.vwidth fn) (srcs ++ [srcV d] ++ []) := by rwa [List.append_nil]
  generalize hdp : costOf s lw (Fmt.vwidth fn) costed at_ + 1 = dp
  let is := (List.range (8192 / Fmt.vwidth fn)).filter (laneEnabled s lw (Fmt.vwidth fn))
  have his : ∀ {j}, j ∈ is ↔ On s lw (Fmt.vwidth fn) j := fun {j} => by
    rw [List.mem_filter, List.mem_range]; rfl
  have hsorted : is.Pairwise (· < ·) := List.Pairwise.filter _ List.pairwise_lt_range
  let A (j : Nat) : Nat := (at_ j).toNat
  let x (j : Nat) : Nat := velem (s.getV s.cur d) (Fmt.vwidth fn) j
  let R := is.foldl (fun u i => u.spadWrite s.cur (A i) (Fmt.vwidth fn / 8) (x i)) (laned s dp)
  have hbody : accessRes fn lw costed addr (storeBody d fn) s.cur (laned s 2) = .retire R := by
    refine (access_runs ha (check_good hr.gbit hal hin)).trans ?_
    rw [hdp, lanesAt_eq hr.gbit, storeBody, List.foldl_map, getV_laned]
  have hpad := onlyPad_writes A x (n := Fmt.vwidth fn / 8) s.cur is (laned s dp)
  rw [spad_laned] at hpad
  obtain ⟨hwf', hframe⟩ := writes_frame A x (n := Fmt.vwidth fn / 8) is hwf
  have hlast := fun j hj hl => writes_last A x (n := Fmt.vwidth fn / 8) hsorted (fun i hi => hal i (his.mp hi)) hwf (j := j) hj hl
  have hafter := after_finish s (fresh s) R 2 (fresh_prog s _)
  have hspad : ((finish s.cur (fresh s) 2 (.retire R)).core s.cur.core).spad = writes A x (Fmt.vwidth fn / 8) is (s.core s.cur.core).spad :=
    (congrArg Core.spad (hafter.cores s.cur.core) :).trans (congrArg Core.spad hpad.here)
  have hprog : R.prog s.cur = s.prog s.cur := (hpad.prog s.cur).trans (prog_laned s dp s.cur)
  refine ⟨_, issue_of_vecReady (hi.trans (vecStore_eq.trans vecAccess_eq)) hr' hbody (fun _ => Res.noConfusion), ?_, fun j hj hl => ?_,
    fun k hk => ?_, fun k => ?_, fun r => ?_, fun r => ?_⟩
  · refine ((congrArg Core.laneFree (hafter.cores s.cur.core) :).trans (congrArg Core.laneFree hpad.here)).trans ?_
    rw [core_laned, if_pos rfl]
  · rw [hspad]
    refine (hlast j (his.mpr hj) fun l hmem hlt he => hl l (his.mp hmem) hlt (BitVec.eq_of_toNat_eq he)).trans ?_
    rw [← two_pow_bytes, (vwidth_bytes hf).1]
    exact Nat.mod_eq_of_lt (velem_lt _ _ _)
  · rw [hspad]
    exact hframe k fun j hj => hk j (his.mp hj)
  · rw [(congrArg State.hbm hafter.device :), hpad.hbm]
    rfl
  · rw [State.getS, hafter.prog, Prog.getS, (advance_rest _ _ _).1, hprog]
    rfl
  · rw [getV_of_after hafter, State.getV, hpad.thread, thread_laned]
    rfl

end Stores

/-! ### The six instructions -/

section Six

variable {s : State} {d a b fn : Reg} {lw : LW}

theorem costOf_true {w : Nat} {at_ : Nat → DWord} :
    costOf s lw w true at_ = bankCost (laneAddrs lw (s.getV s.cur lw.greg) w at_) := if_pos rfl

theorem exec_vld : exec (.vld d a fn lw) s = vecLoad s d fn lw [srcS a lw.ta] false (addrUnit a fn) := rfl
theorem exec_vst : exec (.vst d a fn lw) s = vecStore s d fn lw [srcS a lw.ta] false (addrUnit a fn) := rfl
theorem exec_vldS : exec (.vldS d a b fn lw) s = vecLoad s d fn lw [srcS a lw.ta, srcS b lw.tb] true (addrStride a b) := rfl
theorem exec_vstS : exec (.vstS d a b fn lw) s = vecStore s d fn lw [srcS a lw.ta, srcS b lw.tb] true (addrStride a b) := rfl
theorem exec_vldX : exec (.vldX d a b fn lw) s = vecLoad s d fn lw [srcS a lw.ta, srcV b lw.tb] true (addrIndex a b fn) := rfl
theorem exec_vstX : exec (.vstX d a b fn lw) s = vecStore s d fn lw [srcS a lw.ta, srcV b lw.tb] true (addrIndex a b fn) := rfl

theorem addrUnit_laned : addrUnit a fn s.cur (laned s 2) = fun j => s.getS s.cur a + BitVec.ofNat 64 (j * (Fmt.vwidth fn / 8)) :=
  funext fun j => by rw [addrUnit, getS_laned]
theorem addrStride_laned : addrStride a b s.cur (laned s 2) = fun j => s.getS s.cur a + BitVec.ofNat 64 j * s.getS s.cur b :=
  funext fun j => by rw [addrStride, getS_laned, getS_laned]
theorem addrIndex_laned : addrIndex a b fn s.cur (laned s 2) =
    fun j => s.getS s.cur a + BitVec.ofNat 64 (velem (s.getV s.cur b) (Fmt.vwidth fn) j * (Fmt.vwidth fn / 8)) :=
  funext fun j => by rw [addrIndex, getS_laned, getV_laned]

end Six

/-- Settles O27. -/
theorem vectorMemory : Obligations.VectorMemory := by
  unfold Obligations.VectorMemory
  intro s d a b fn lw h1 h2 hwf
  have hf : IsElem fn := ⟨h1, h2⟩
  refine ⟨fun hr => ⟨⟨?_, ?_⟩, ?_, ?_⟩, fun hr => ⟨⟨?_, ?_⟩, ?_, ?_⟩, fun hr => ⟨⟨?_, ?_⟩, ?_, ?_⟩⟩
  · exact access_checks (exec_vld.trans vecLoad_eq) hr addrUnit_laned
  · exact load_writes hf exec_vld hr addrUnit_laned
  · exact access_checks (exec_vst.trans vecStore_eq) (by rwa [List.append_nil]) addrUnit_laned
  · exact store_writes hf exec_vst hr hwf addrUnit_laned
  · exact access_checks (exec_vldS.trans vecLoad_eq) hr addrStride_laned
  · have h := load_writes hf exec_vldS hr addrStride_laned
    rw [costOf_true] at h
    exact h
  · exact access_checks (exec_vstS.trans vecStore_eq) (by rwa [List.append_nil]) addrStride_laned
  · have h := store_writes hf exec_vstS hr hwf addrStride_laned
    rw [costOf_true] at h
    exact h
  · exact access_checks (exec_vldX.trans vecLoad_eq) hr addrIndex_laned
  · have h := load_writes hf exec_vldX hr addrIndex_laned
    rw [costOf_true] at h
    exact h
  · exact access_checks (exec_vstX.trans vecStore_eq) (by rwa [List.append_nil]) addrIndex_laned
  · have h := store_writes hf exec_vstX hr hwf addrIndex_laned
    rw [costOf_true] at h
    exact h

end Sys2Proof.Proofs.VectorMemory
end

section
/-! PROOFS. Host accesses of BAR0 and its windows (R371 to R373, R377, R381). -/

namespace Sys2Proof.Proofs.HostAccesses

open Sys2Proof.Machine
open Sys2Proof.Safety

/-! ### Bytes of a read (R4) -/

section Bytes

theorem natOfBytes_congr {n : Nat} {f g : Nat → Byte} (h : ∀ k, k < n → f k = g k) :
    natOfBytes ((List.range n).map f) = natOfBytes ((List.range n).map g) :=
  congrArg natOfBytes (List.map_congr_left fun k hk => h k (List.mem_range.mp hk))

theorem natOfBytes_succ (n : Nat) (f : Nat → Byte) :
    natOfBytes ((List.range (n + 1)).map f) = (f 0).toNat + 256 * natOfBytes ((List.range n).map fun k => f (k + 1)) := by
  rw [List.range_succ_eq_map, List.map_cons, List.map_map]
  rfl

theorem natOfBytes_reads (m : Memory) (a n : Nat) : natOfBytes ((List.range n).map fun k => m.read (a + k)) = Memory.readN m a n := by
  induction n generalizing a with
  | zero => rfl
  | succ n ih =>
    rw [natOfBytes_succ, Memory.readN, ← ih (a + 1)]
    simp only [Nat.add_zero, Nat.add_right_comm a 1, Nat.add_assoc]

theorem natOfBytes_nat (x n : Nat) : natOfBytes ((List.range n).map fun k => BitVec.ofNat 8 (x / 256 ^ k)) = x % 256 ^ n := by
  induction n generalizing x with
  | zero => exact (Nat.mod_one x).symm
  | succ n ih =>
    have hk (k : Nat) : x / 256 ^ (k + 1) = x / 256 / 256 ^ k := by rw [Nat.pow_succ', Nat.div_div_eq_div_mul]
    simp only [natOfBytes_succ, hk]
    rw [ih, Nat.pow_succ', Nat.mod_mul, BitVec.toNat_ofNat, Nat.pow_zero, Nat.div_one]

end Bytes

/-! ### The shape of an access (R371) -/

section Fit

variable {s : State} {a n : Nat}

/-- An access that BAR0 answers: naturally aligned, of 4 or 8 bytes. -/
def Fit (n a : Nat) : Prop := (n = 4 ∨ n = 8) ∧ a % n = 0 ∧ a + n ≤ 0x2000000

theorem bar0Ok_iff : bar0Ok a n = true ↔ Fit n a := by simp [bar0Ok, Fit, and_assoc]

theorem bar0Ok_of_not (h : ¬ Fit n a) : bar0Ok a n = false := by
  rw [← bar0Ok_iff] at h
  exact eq_false_of_ne_true h

theorem read_of_fit {f : Nat → Byte} (h : Fit n a) (hf : ∀ k, k < n → s.bar0Byte (a + k) = f k) :
    s.bar0Read a n = BitVec.ofNat 64 (natOfBytes ((List.range n).map f)) := by
  rw [State.bar0Read, if_pos (bar0Ok_iff.mpr h), natOfBytes_congr hf]

theorem read_of_memory {m : Memory} {b : Nat} (h : Fit n a) (hf : ∀ k, k < n → s.bar0Byte (a + k) = m.read (b + k)) :
    s.bar0Read a n = BitVec.ofNat 64 (Memory.readN m b n) := by
  rw [read_of_fit h hf, natOfBytes_reads]

theorem read_of_nat {x : Nat} (h : Fit n a) (hx : x < 256 ^ n) (hf : ∀ k, k < n → s.bar0Byte (a + k) = BitVec.ofNat 8 (x / 256 ^ k)) :
    s.bar0Read a n = BitVec.ofNat 64 x := by
  rw [read_of_fit h hf, natOfBytes_nat, Nat.mod_eq_of_lt hx]

theorem write_of_not (v : DWord) (h : ¬ Fit n a) : s.bar0Write a n v = s := by rw [State.bar0Write, bar0Ok_of_not h]; rfl

theorem read_of_not (h : ¬ Fit n a) : s.bar0Read a n = 0xFFFFFFFFFFFFFFFF := by rw [State.bar0Read, bar0Ok_of_not h]; rfl

end Fit

/-! ### What a byte of BAR0 is (R371) -/

section Places

variable {s : State} {k o : Nat}

theorem byte_register (h : o < 0x1000) : s.bar0Byte o = BitVec.ofNat 8 (s.board.register (o / 8 * 8) / 2 ^ (8 * (o % 8))) := if_pos h

theorem place_div (hk : o < 4096) (b : Nat) : (b + 4096 * k + o - b) / 4096 = k := by omega

theorem byte_mailbox (hk : k < 256) (ho : o < 4096) : s.bar0Byte (0x100000 + 4096 * k + o) =
    if o < 0x40 then (s.mailbox k).cmd.read o
    else if 0x48 ≤ o ∧ o < 0x88 then (s.mailbox k).reply.read (o - 0x48)
    else if 0x88 ≤ o ∧ o < 0x90 then BitVec.ofNat 8 ((s.mailbox k).status / 2 ^ (8 * (o - 0x88)))
    else 0 := by
  have hm : (0x100000 + 4096 * k + o) % 4096 = o := by omega
  rw [State.bar0Byte, if_neg (by omega), if_pos (by omega), place_div ho, hm]

theorem byte_window (hk : k < 256) (ho : o < 4096) :
    s.bar0Byte (0x200000 + 4096 * k + o) = s.hbm.read (0xBFFFF00000 + 4096 * k + o) := by
  have hm : (0x200000 + 4096 * k + o) % 4096 = o := by omega
  rw [State.bar0Byte, if_neg (by omega), if_neg (by omega), if_pos (by omega), place_div ho, hm, windowPa]

theorem byte_event (ho : o < 0x40000) : s.bar0Byte (0x300000 + o) = s.board.evMem.read o := by
  rw [State.bar0Byte, if_neg (by omega), if_neg (by omega), if_neg (by omega), if_pos (by omega), Nat.add_sub_cancel_left]

theorem byte_recovery (ho : o < 0x1000000) : s.bar0Byte (0x400000 + o) = s.board.recovery.read o := by
  rw [State.bar0Byte, if_neg (by omega), if_neg (by omega), if_neg (by omega), if_neg (by omega), if_pos (by omega), Nat.add_sub_cancel_left]

end Places

/-! ### Writes (R371 to R373, R377, R381) -/

section Writes

variable {s : State} {k o n : Nat} {v : DWord}

theorem write_eqTail (h : Fit n 0x28) : s.bar0Write 0x28 n v = { s with board := { s.board with eqTail := v.toNat % 4096 } } := by
  rw [State.bar0Write, bar0Ok_iff.mpr h]
  rfl

theorem write_reset (h : Fit n 0x30) : s.bar0Write 0x30 n v = if v.toNat % 2 ^ 16 = 0x5257 then s.warmReset else s := by
  rw [State.bar0Write, bar0Ok_iff.mpr h]
  rfl

/-- Outside the writable places nothing changes. -/
theorem write_readOnly {a : Nat} (h : a < 0x100000 ∧ a ≠ 0x28 ∧ a ≠ 0x30 ∨ 0x300000 ≤ a ∧ a < 0x400000 ∨ 0x1400000 ≤ a) :
    s.bar0Write a n v = s := by
  rw [State.bar0Write]
  split
  · rfl
  · rw [if_neg (by omega), if_neg (by omega), if_neg (by omega), if_neg (by omega), if_neg (by omega)]

theorem write_mailbox (hk : k < 256) (ho : o < 4096) (h : Fit n (0x100000 + 4096 * k + o)) : s.bar0Write (0x100000 + 4096 * k + o) n v =
    if o < 0x40 then s.setMailbox k { s.mailbox k with cmd := (s.mailbox k).cmd.writeN o n v.toNat }
    else if o < 0x48 then s.setMailbox k (s.mailbox k).ring
    else s := by
  have hm : (0x100000 + 4096 * k + o) % 4096 = o := by omega
  rw [State.bar0Write, if_neg (by simp [bar0Ok_iff.mpr h]), if_neg (by omega), if_neg (by omega), if_pos (by omega), place_div ho, hm]

theorem write_window (hk : k < 256) (ho : o < 4096) (h : Fit n (0x200000 + 4096 * k + o)) :
    s.bar0Write (0x200000 + 4096 * k + o) n v = s.hbmWriteN (0xBFFFF00000 + 4096 * k + o) n v.toNat := by
  have hm : (0x200000 + 4096 * k + o) % 4096 = o := by omega
  rw [State.bar0Write, if_neg (by simp [bar0Ok_iff.mpr h]), if_neg (by omega), if_neg (by omega), if_neg (by omega), if_pos (by omega),
    place_div ho, hm, windowPa]

theorem write_recovery (ho : o < 0x1000000) (h : Fit n (0x400000 + o)) : s.bar0Write (0x400000 + o) n v =
    { s with board := { s.board with recovery := s.board.recovery.writeN o n v.toNat, recoveryUsed := true } } := by
  rw [State.bar0Write, if_neg (by simp [bar0Ok_iff.mpr h]), if_neg (by omega), if_neg (by omega), if_neg (by omega), if_neg (by omega),
    if_pos (by omega), Nat.add_sub_cancel_left]

theorem ring_waiting {m : Mailbox} (h : m.pend = false) : m.ring = { m with pend := true, answer := none } := if_neg (by simp [h])
theorem ring_pending {m : Mailbox} (h : m.pend = true) : m.ring = { m with overrun := (m.overrun + 1) % 2 ^ 16 } := if_pos h

end Writes

/-! ### The instructions of the host's accesses -/

section Instructions

variable {s : State} {u : State}

theorem exec_registerWrite : exec .registerWrite s = .next (s.bar0Write s.target.id s.target.size s.target.value) := rfl

theorem exec_hostWindowWrite (h : s.target.core < 256) (h1 : s.target.id < 4096) :
    exec .hostWindowWrite s = .next (s.bar0Write (0x200000 + 4096 * s.target.core + s.target.id) s.target.size s.target.value) := if_pos ⟨h, h1⟩

theorem exec_hostWindowRead (h : s.target.core < 256) (h1 : s.target.id < 4096) : exec .hostWindowRead s = .next { s with
    board := { s.board with hostRead := s.bar0Read (0x200000 + 4096 * s.target.core + s.target.id) s.target.size } } := if_pos ⟨h, h1⟩

theorem exec_recoveryWindowWrite (h : s.target.id < 0x1000000) :
    exec .recoveryWindowWrite s = .next (s.bar0Write (0x400000 + s.target.id) s.target.size s.target.value) := if_pos h

end Instructions

/-! ### The device registers (R372) -/

section Registers

variable {s : State} {o n : Nat}

theorem fit_register (h : o < 0x38) (h8 : o % 8 = 0) : Fit 8 o := ⟨.inr rfl, h8, by omega⟩

theorem read_register (h : o < 0x38) (h8 : o % 8 = 0) (hv : s.board.register o = n) (hn : n < 2 ^ 64) : s.bar0Read o 8 = BitVec.ofNat 64 n := by
  refine read_of_nat (fit_register h h8) hn fun k hk => ?_
  have hd : (o + k) / 8 * 8 = o := by omega
  have hm : (o + k) % 8 = k := by omega
  rw [byte_register (by omega), hd, hm, hv, Nat.pow_mul 2 8]

end Registers

/-! ### The status doubleword (R373) -/

section Status

variable (m : Mailbox)

theorem status_eq : m.status = (if m.pend then 1 else 0) + m.overrun % 2 ^ 16 * 2 ^ 32 := rfl

theorem status_lt : m.status < 256 ^ 8 := by rw [status_eq]; split <;> omega

theorem status_low : m.status % 256 ^ 4 = if m.pend then 1 else 0 := by rw [status_eq]; split <;> omega

theorem status_high : m.status / 256 ^ 4 = m.overrun % 2 ^ 16 := by rw [status_eq]; split <;> omega

end Status

/-! ### Reads of the places (R371, R373, R376, R377, R381) -/

section Reads

variable {s : State} {k o n : Nat}

/-- An aligned access that begins below an aligned limit stays below it. -/
theorem below_limit {b l i : Nat} (h : Fit n (b + o)) (hb : b % 8 = 0) (hl : l % 8 = 0) (ho : o < l) (hi : i < n) :
    o + i < l := by
  obtain ⟨hn, hm, -⟩ := h
  rcases hn with rfl | rfl <;> omega

theorem base_mod (b k : Nat) (hb : b % 8 = 0) : (b + 4096 * k) % 8 = 0 := by omega

theorem read_window (hk : k < 256) (ho : o < 4096) (h : Fit n (0x200000 + 4096 * k + o)) :
    s.bar0Read (0x200000 + 4096 * k + o) n = BitVec.ofNat 64 (s.hbm.readN (0xBFFFF00000 + 4096 * k + o) n) := by
  refine read_of_memory h fun i hi => ?_
  rw [Nat.add_assoc _ o i, byte_window hk (below_limit h (base_mod _ k rfl) rfl ho hi), ← Nat.add_assoc]

theorem read_command (hk : k < 256) (ho : o < 0x40) (h : Fit n (0x100000 + 4096 * k + o)) :
    s.bar0Read (0x100000 + 4096 * k + o) n = BitVec.ofNat 64 (Memory.readN (s.mailbox k).cmd o n) := by
  refine read_of_memory h fun i hi => ?_
  have hi := below_limit h (base_mod _ k rfl) rfl ho hi
  rw [Nat.add_assoc _ o i, byte_mailbox hk (by omega), if_pos hi]

theorem read_reply (hk : k < 256) (ho : 0x48 ≤ o) (ho' : o < 0x88) (h : Fit n (0x100000 + 4096 * k + o)) :
    s.bar0Read (0x100000 + 4096 * k + o) n = BitVec.ofNat 64 (Memory.readN (s.mailbox k).reply (o - 0x48) n) := by
  refine read_of_memory h fun i hi => ?_
  have hi := below_limit h (base_mod _ k rfl) rfl ho' hi
  rw [Nat.add_assoc _ o i, byte_mailbox hk (by omega), if_neg (by omega), if_pos ⟨by omega, hi⟩, Nat.sub_add_comm ho]

/-- Bytes of the status doubleword, from byte j on. -/
theorem read_status {j x : Nat} (hk : k < 256) (hj : j + n ≤ 8) (h : Fit n (0x100000 + 4096 * k + (0x88 + j)))
    (hx : (s.mailbox k).status / 256 ^ j % 256 ^ n = x) : s.bar0Read (0x100000 + 4096 * k + (0x88 + j)) n = BitVec.ofNat 64 x := by
  rw [read_of_fit h fun i hi => ?_, ← hx, ← natOfBytes_nat]
  have hd : 0x88 + (j + i) - 0x88 = j + i := by omega
  rw [Nat.add_assoc _ _ i, Nat.add_assoc _ j i, byte_mailbox hk (by omega), if_neg (by omega), if_neg (by omega), if_pos (by omega), hd,
    Nat.pow_mul 2 8, Nat.div_div_eq_div_mul, Nat.pow_add]

theorem read_event (ho : o < 0x40000) (h : Fit n (0x300000 + o)) :
    s.bar0Read (0x300000 + o) n = BitVec.ofNat 64 (s.board.evMem.readN o n) := by
  refine read_of_memory h fun i hi => ?_
  rw [Nat.add_assoc _ o i, byte_event (below_limit h rfl rfl ho hi)]

theorem read_recovery (ho : o < 0x1000000) (h : Fit n (0x400000 + o)) :
    s.bar0Read (0x400000 + o) n = BitVec.ofNat 64 (s.board.recovery.readN o n) := by
  refine read_of_memory h fun i hi => ?_
  rw [Nat.add_assoc _ o i, byte_recovery (below_limit h rfl rfl ho hi)]

end Reads

/-- The codes that STATE reads as (R372). -/
theorem code_eq (st : DevState) (n : Nat) (h : (st, n) ∈ [(DevState.reset, 0), (.recovery, 1), (.ready, 2), (.unusable, 3)]) :
    st.code = n ∧ n < 4 := by
  simp only [List.mem_cons, Prod.mk.injEq, List.not_mem_nil, or_false] at h
  rcases h with ⟨rfl, rfl⟩ | ⟨rfl, rfl⟩ | ⟨rfl, rfl⟩ | ⟨rfl, rfl⟩ <;> exact ⟨rfl, by omega⟩

/-- Settles O49: the access's shape first, then the place that its offset names. -/
theorem hostAccesses : Obligations.HostAccesses := by
  unfold Obligations.HostAccesses
  refine ⟨fun s => ⟨rfl, fun h => ?_, fun h => ⟨fun he => ?_, fun he hv => ?_, fun he hv => ?_, fun he => ?_, fun k o he hk ho => ?_,
    fun k o he hk ho hw => ?_, fun o he ho hw => ?_⟩, fun hc hi => ?_, fun hi => ⟨fun h => ?_, fun h hw => ?_⟩⟩, fun s n => ?_, fun s => ?_⟩
  · exact congrArg Host.Outcome.next (write_of_not _ h)
  · rw [he] at h
    rw [exec_registerWrite, he, write_eqTail h]
  · rw [he] at h
    rw [exec_registerWrite, he, write_reset h, if_pos hv]
  · rw [he] at h
    rw [exec_registerWrite, he, write_reset h, if_neg hv]
  · rw [exec_registerWrite, write_readOnly he]
  · rw [he] at h
    rw [exec_registerWrite, he, write_mailbox hk ho h]
    refine ⟨fun h1 hw => ?_, fun h1 h2 hp => ?_, fun h1 h2 hp => ?_, fun h1 => ?_⟩
    · rw [if_pos h1]
      exact ⟨_, rfl, fun a => Memory.read_writeN _ _ _ _ _ hw⟩
    · rw [if_neg (by omega), if_pos h2, ring_waiting hp]
    · rw [if_neg (by omega), if_pos h2, ring_pending hp]
    · rw [if_neg (by omega), if_neg (by omega)]
  · rw [he] at h
    rw [exec_registerWrite, he, write_window hk ho h]
    exact ⟨_, rfl, rfl, fun a => Memory.read_writeN _ _ _ _ _ hw⟩
  · rw [he] at h
    rw [exec_registerWrite, he, write_recovery ho h]
    exact ⟨_, rfl, rfl, fun a => Memory.read_writeN _ _ _ _ _ hw⟩
  · rw [exec_hostWindowWrite hc hi, exec_hostWindowRead hc hi]
    refine ⟨fun h => ⟨?_, ?_⟩, fun h hw => ?_, fun h => ?_⟩
    · rw [write_of_not _ h]
    · rw [read_of_not h]
    · rw [write_window hc hi h]
      exact ⟨_, rfl, rfl, fun a => Memory.read_writeN _ _ _ _ _ hw⟩
    · rw [read_window hc hi h]
  · rw [exec_recoveryWindowWrite hi, write_of_not _ h]
  · rw [exec_recoveryWindowWrite hi, write_recovery hi h]
    exact ⟨_, rfl, rfl, fun a => Memory.read_writeN _ _ _ _ _ hw⟩
  · refine ⟨fun a h => read_of_not h, fun k o hk ho h => ⟨fun h1 => read_command hk h1 h, fun h1 h2 => read_reply hk h1 h2 h, ?_, ?_, ?_, ?_⟩,
      fun o ho h => read_event ho h, fun o ho h => read_recovery ho h⟩
    · rintro rfl rfl
      refine read_status (j := 0) hk (Nat.le_refl 8) h ?_
      rw [Nat.pow_zero, Nat.div_one, Nat.mod_eq_of_lt (status_lt _), status_eq]
    · rintro rfl rfl
      exact read_status (j := 0) hk (by omega) h (by rw [Nat.pow_zero, Nat.div_one, status_low])
    · rintro rfl
      obtain rfl : n = 4 := by obtain ⟨hn, hm, -⟩ := h; rcases hn with rfl | rfl <;> omega
      exact read_status (j := 4) hk (Nat.le_refl 8) h (by rw [status_high, Nat.mod_eq_of_lt (by omega)])
    · obtain ⟨hn, hm, -⟩ := h
      exact read_window hk ho ⟨hn, by rcases hn with rfl | rfl <;> omega, by rcases hn with rfl | rfl <;> omega⟩
  · intro b reads h1 h2 h3
    refine ⟨read_register (by omega) rfl rfl (by omega), read_register (by omega) rfl rfl (by omega), fun d n hn hd => ?_,
      read_register (by omega) rfl (Nat.mod_eq_of_lt h3) (by omega), read_register (by omega) rfl rfl (by omega),
      read_register (by omega) rfl rfl (by omega), read_register (by omega) rfl rfl (by omega)⟩
    obtain ⟨hc, hlt⟩ := code_eq d n hn
    exact read_register (by omega) rfl ((congrArg DevState.code hd).trans hc) (by omega)

end Sys2Proof.Proofs.HostAccesses
end

section
/-! PROOFS. The mailbox protocol and the event queue (R373 to R376). -/

namespace Sys2Proof.Proofs.HostProtocol

open Sys2Proof.Machine
open Sys2Proof.Safety
open Sys2Proof.Proofs.Traps
open Sys2Proof.Proofs.Tokens
open Sys2Proof.Proofs.HostAccesses

/-! ### The common refusals (R375) -/

section Refusals

variable {s : State} {m : Mailbox} {code : Nat} {body : Nat → Mailbox → Answer × State} {ms : List Nat}

/-- Every bit of the command that its table row does not name is zero (R374). -/
def Clean (m : Mailbox) (ms : List Nat) : Prop := ∀ n, n < 8 → m.dw n &&& (0xFFFF00FF :: ms).getD n 0 = m.dw n

theorem keep_eq (ms : List Nat) (n : Nat) : (if n = 0 then 0xFFFF00FF else (0 :: ms).getD n 0) = (0xFFFF00FF :: ms).getD n 0 := by
  cases n <;> rfl

theorem reservedOk_iff (h : commandMask m.code = 0 :: ms) : m.reservedOk = true ↔ Clean m ms := by
  simp only [Mailbox.reservedOk, h, List.all_eq_true, List.mem_range, beq_iff_eq, keep_eq, Clean]

theorem refusal_hello (h : s.board.helloOk = false) : s.refusal m = some ⟨3, 0, m.tag, 0⟩ := if_pos (by rw [h]; rfl)

theorem refusal_unknown (h : s.board.helloOk = true) (h4 : 4 < m.code) : s.refusal m = some ⟨2, 2, m.tag, 0⟩ := by
  rw [State.refusal, if_neg (by simp [h]), if_pos h4]
  rfl

theorem refusal_reserved (h : s.board.helloOk = true) (h4 : m.code ≤ 4) (hm : commandMask m.code = 0 :: ms) (hc : ¬ Clean m ms) :
    s.refusal m = some ⟨2, 1, m.tag, 0⟩ := by
  rw [State.refusal, if_neg (by simp [h]), if_neg (by omega), if_pos (by rw [← reservedOk_iff hm] at hc; simpa using hc)]
  rfl

theorem refusal_state (h : s.board.helloOk = true) (h4 : m.code ≤ 4) (hm : commandMask m.code = 0 :: ms) (hc : Clean m ms)
    (hd : s.board.devState ≠ .ready) : s.refusal m = some ⟨2, 3, m.tag, 0⟩ := by
  rw [State.refusal, if_neg (by simp [h]), if_neg (by omega), if_neg (by simp [(reservedOk_iff hm).mpr hc]), if_pos hd]
  rfl

theorem refusal_none (h : s.board.helloOk = true) (h4 : m.code ≤ 4) (hm : commandMask m.code = 0 :: ms) (hc : Clean m ms)
    (hd : s.board.devState = .ready) : s.refusal m = none := by
  rw [State.refusal, if_neg (by simp [h]), if_neg (by omega), if_neg (by simp [(reservedOk_iff hm).mpr hc]), if_neg (not_not.mpr hd)]

theorem helloRefusal_reserved (hm : commandMask m.code = 0 :: ms) (hc : ¬ Clean m ms) : s.helloRefusal m = some ⟨2, 1, m.tag, 0⟩ := by
  rw [State.helloRefusal, if_pos (by rw [← reservedOk_iff hm] at hc; simpa using hc)]
  rfl

theorem helloRefusal_state (hm : commandMask m.code = 0 :: ms) (hc : Clean m ms) (hd : s.board.devState ≠ .ready) :
    s.helloRefusal m = some ⟨2, 3, m.tag, 0⟩ := by
  rw [State.helloRefusal, if_neg (by simp [(reservedOk_iff hm).mpr hc]), if_pos hd]
  rfl

theorem helloRefusal_none (hm : commandMask m.code = 0 :: ms) (hc : Clean m ms) (hd : s.board.devState = .ready) : s.helloRefusal m = none := by
  rw [State.helloRefusal, if_neg (by simp [(reservedOk_iff hm).mpr hc]), if_neg (not_not.mpr hd)]

end Refusals

/-! ### A waiting command is answered once (R373 to R375) -/

section Served

variable {s : State} {code : Nat} {body : Nat → Mailbox → Answer × State} {ms : List Nat} {i : Instr}

/-- A command of a code waits at the mailbox that the event names. -/
structure Waits (s : State) (code : Nat) : Prop where
  core : s.target.core < 256
  pend : (s.mailbox s.target.core).pend = true
  answer : (s.mailbox s.target.core).answer = none
  code : (s.mailbox s.target.core).code = code

/-- The state with an answer in the mailbox that the event names. -/
def answered (s u : State) (a : Answer) : State := u.setMailbox s.target.core { s.mailbox s.target.core with answer := some a }

/-- What a command is turned down with. -/
def refused (s : State) (code : Nat) : Option Answer :=
  if code = 0 then s.helloRefusal (s.mailbox s.target.core) else s.refusal (s.mailbox s.target.core)

theorem Waits.waiting (h : Waits s code) : (s.mailbox s.target.core).waiting = true := by rw [Mailbox.waiting, h.pend, h.answer]; rfl

theorem serve_refused {a : Answer} (h : Waits s code) (hr : refused s code = some a) : s.serve code body = .next (answered s s a) := by
  rw [State.serve_answers h.core h.waiting h.code]
  unfold refused at hr
  simp only [hr]
  rfl

theorem serve_taken {a : Answer} {u : State} (h : Waits s code) (hr : refused s code = none)
    (hb : body s.target.core (s.mailbox s.target.core) = (a, u)) (hu : u.mailbox s.target.core = s.mailbox s.target.core) :
    s.serve code body = .next (answered s u a) := by
  rw [State.serve_answers h.core h.waiting h.code]
  unfold refused at hr
  simp only [hr, hb, hu]
  rfl

theorem refused_of (h : code ≠ 0) : refused s code = s.refusal (s.mailbox s.target.core) := if_neg h

/-- The refusals that a command other than HELLO meets, in order, and what it does past them. -/
theorem served_of {go : Prop} (h : Waits s code) (h0 : code ≠ 0) (h4 : code ≤ 4) (hm : commandMask code = 0 :: ms)
    (hi : exec i s = s.serve code body)
    (hgo : refused s code = none → go) :
    let m := s.mailbox s.target.core
    (s.board.helloOk = false → exec i s = .next (answered s s ⟨3, 0, m.tag, 0⟩)) ∧
    (s.board.helloOk = true → ¬ Clean m ms → exec i s = .next (answered s s ⟨2, 1, m.tag, 0⟩)) ∧
    (s.board.helloOk = true → Clean m ms → s.board.devState ≠ .ready → exec i s = .next (answered s s ⟨2, 3, m.tag, 0⟩)) ∧
    (s.board.helloOk = true → Clean m ms → s.board.devState = .ready → go) := by
  rw [hi]
  have hc := h.code
  rw [← hc] at h4 hm
  refine ⟨fun h1 => serve_refused h ?_, fun h1 h2 => serve_refused h ?_, fun h1 h2 h3 => serve_refused h ?_, fun h1 h2 h3 => hgo ?_⟩ <;>
    rw [refused_of h0]
  · exact refusal_hello h1
  · exact refusal_reserved h1 h4 hm h2
  · exact refusal_state h1 h4 hm h2 h3
  · exact refusal_none h1 h4 hm h2 h3

end Served

/-! ### The commands (R374, R375) -/

section Commands

variable {s : State}

theorem exec_hello : exec .hello s = s.serve 0 fun _ m =>
    if m.dw 1 / 2 ^ 16 ≠ 1 then ({ code := 3, tag := m.tag }, s)
    else ({ m.accept with dw1 := 0x00010000 }, { s with board := { s.board with helloOk := true } }) := rfl

theorem exec_launch : exec .launch s = s.serve 1 fun c m =>
    let k := s.core c
    if 11 < m.dw 3 then (m.reject 1, s)
    else if 8 ≤ k.launchQ.length then ({ code := 1, tag := m.tag }, s)
    else (m.accept, s.setCore c { k with launchQ := k.launchQ ++
      [{ image := BitVec.ofNat 64 (m.dw 1), arg := BitVec.ofNat 64 (m.dw 2), prio := m.dw 3, seed := BitVec.ofNat 64 (m.dw 4) }] }) := rfl

theorem exec_setasid : exec .setasid s = s.serve 2 fun c m =>
    let k := s.core c
    let root := m.dw 2
    if root % 2 ^ 21 ≠ 0 ∨ hbmBytes < root + 2 ^ 21 then (m.reject 1, s)
    else if !(s.noLive c && (SMap.keys k.slots).all (fun n => (s.slot c n).owner.isNone) && k.arc.owner.isNone && k.launchQ.isEmpty)
      then (m.reject 4, s)
    else (m.accept, s.setCore c { k with asid := m.dw 1, ptRoot := some root }) := rfl

theorem exec_preempt : exec .preempt s = s.serve 3 fun c m =>
    (m.accept, ((List.range 24).filter (fun x => (m.dw 1).testBit x)).foldl (fun s x => s.postPreempt c x 1) s) := rfl

theorem exec_restore : exec .restore s = s.serve 4 fun c m =>
    let x := m.dw 2
    if m.dw 1 % 4096 ≠ 0 then (m.reject 1, s)
    else if (s.ctx c x).live || decide (s.pool c ≤ x) then (m.reject 5, s)
    else (m.accept, (s.setCtx c x { live := true, modeM := true, cycleBase := s.now
                                    prog := { pc := Config.restoreEntry, s := [(56, BitVec.ofNat 64 (m.dw 1))] } }).postOverflow c) := rfl

/-- A core is busy: a live thread, a forked program or a queued launch (R375). -/
def Busy (s : State) (c : Nat) : Prop :=
  (∃ x, (s.ctx c x).live = true) ∨ (∃ n, (s.slot c n).owner ≠ none) ∨ (s.core c).arc.owner ≠ none ∨ (s.core c).launchQ ≠ []

theorem get_mem_or {α : Type} (d : α) (m : SMap α) (n : Nat) : (n, SMap.get d m n) ∈ m ∨ SMap.get d m n = d := by
  induction m with
  | nil => exact .inr rfl
  | cons p r ih =>
    rw [SMap.get]
    split
    · next e => exact .inl (e ▸ List.mem_cons_self)
    · exact ih.imp_left (List.mem_cons_of_mem _)

theorem get_of_mem {α : Type} (d : α) {m : SMap α} {n : Nat} {x : α} (hm : SMap.wf m = true) (h : (n, x) ∈ m) : SMap.get d m n = x := by
  rw [Invariants.wf_iff_pairwise] at hm
  induction m with
  | nil => cases h
  | cons p r ih =>
    rw [List.pairwise_cons] at hm
    rw [SMap.get]
    rcases List.mem_cons.mp h with e | h
    · rw [← e, if_pos rfl]
    · rw [if_neg (Nat.ne_of_lt (hm.1 _ h)), ih hm.2 h]

theorem noLive_iff {c : Nat} (h : SMap.wf (s.core c).ctxs = true) : s.noLive c = true ↔ ∀ x, (s.ctx c x).live = false := by
  rw [State.noLive, Bool.not_eq_true', List.any_eq_false]
  constructor
  · intro hn x
    rcases get_mem_or {} (s.core c).ctxs x with hx | hx
    · exact eq_false_of_ne_true (hn _ hx)
    · exact congrArg Ctx.live hx
  · intro hn e he
    rw [← get_of_mem {} h he]
    exact ne_true_of_eq_false (hn e.1)

theorem slots_free_iff {c : Nat} : (SMap.keys (s.core c).slots).all (fun n => (s.slot c n).owner.isNone) = true ↔ ∀ n, (s.slot c n).owner = none := by
  simp only [List.all_eq_true, Option.isNone_iff_eq_none]
  refine ⟨fun h n => ?_, fun h n _ => h n⟩
  rcases get_mem_or {} (s.core c).slots n with hn | hn
  · exact h n (List.mem_map_of_mem hn)
  · exact congrArg VSlot.owner hn

theorem idle_iff {c : Nat} (h : SMap.wf (s.core c).ctxs = true) :
    (s.noLive c && (SMap.keys (s.core c).slots).all (fun n => (s.slot c n).owner.isNone) && (s.core c).arc.owner.isNone &&
      (s.core c).launchQ.isEmpty) = true ↔ ¬ Busy s c := by
  rw [Bool.and_eq_true, Bool.and_eq_true, Bool.and_eq_true, noLive_iff h, slots_free_iff, Option.isNone_iff_eq_none, List.isEmpty_iff, Busy]
  simp only [not_or, not_exists, not_not, Bool.not_eq_true, and_assoc, ne_eq]

end Commands

/-! ### PREEMPT (R355, R374) -/

section Preempt

variable {s u : State} {c x : Nat} {t : Ctx}

/-- The context no longer asleep. -/
def awake (t : Ctx) : Ctx :=
  match t.prog.hold with
  | some (.sleep _) => { t with prog := { t.prog with hold := none } }
  | _ => t

/-- A PREEMPT may become pending. -/
def Takes (t : Ctx) : Prop := t.live = true ∧ ¬ ∃ a, a ∈ t.async ∧ a.cause = .preempt

/-- The context with a PREEMPT pending. -/
def preempted (t : Ctx) : Ctx := awake { t with async := t.async ++ [⟨.preempt, 1⟩] }

theorem awake_of (h : ∀ n, t.prog.hold ≠ some (.sleep n)) : awake t = t := by
  unfold awake
  split
  · next n hn => exact absurd hn (h n)
  · rfl

theorem awake_sleeping {n : Option Nat} (h : t.prog.hold = some (.sleep n)) : awake t = { t with prog := { t.prog with hold := none } } := by
  simp only [awake, h]

theorem awake_cases (t : Ctx) : (∃ n, t.prog.hold = some (.sleep n)) ∨ ∀ n, t.prog.hold ≠ some (.sleep n) := by
  by_cases h : ∃ n, t.prog.hold = some (.sleep n)
  · exact .inl h
  · exact .inr fun n hn => h ⟨n, hn⟩

theorem wake_eq : (s.setCtx c x t).wake c x = s.setCtx c x (awake t) := by
  rcases awake_cases t with ⟨n, h⟩ | h
  · rw [wake_sleeping (by rw [State.ctx_setCtx_self]; exact h), State.ctx_setCtx_self, setCtx_setCtx, awake_sleeping h]
  · rw [wake_awake (by rw [State.ctx_setCtx_self]; exact h), awake_of h]

theorem takes_iff : (t.live && !t.async.any (fun b => b.cause == .preempt)) = true ↔ Takes t := by
  simp [Takes]

theorem postPreempt_takes (h : Takes (s.ctx c x)) : s.postPreempt c x 1 = s.setCtx c x (preempted (s.ctx c x)) := by
  rw [State.postPreempt, State.postOnce, if_pos (takes_iff.mpr h), State.post, wake_eq]
  rfl

theorem postPreempt_not (h : ¬ Takes (s.ctx c x)) : s.postPreempt c x 1 = s := by
  rw [State.postPreempt, State.postOnce]
  exact if_neg fun e => h (takes_iff.mp e)

/-- Only contexts of one core differ. -/
structure OnlyCtxs (s u : State) (c : Nat) : Prop where
  device : { u with cores := s.cores } = s
  cores  : ∀ d, d ≠ c → u.core d = s.core d
  core   : { u.core c with ctxs := (s.core c).ctxs } = s.core c

theorem OnlyCtxs.refl : OnlyCtxs s s c := ⟨rfl, fun _ _ => rfl, rfl⟩

theorem OnlyCtxs.setCtx (h : OnlyCtxs s u c) : OnlyCtxs s (u.setCtx c x t) c where
  device := h.device
  cores d hd := (State.core_setCore _ _ _ _).trans ((if_neg hd).trans (h.cores d hd))
  core := by
    have e : (u.setCtx c x t).core c = { u.core c with ctxs := SMap.set (u.core c).ctxs x t } := State.core_setCore_self _ _ _
    rw [e]
    exact h.core

/-- PREEMPT of several contexts, each named once. -/
theorem preempt_contexts (xs : List Nat) (hx : xs.Nodup) (s : State) (c : Nat) : let u := xs.foldl (fun s x => s.postPreempt c x 1) s
    OnlyCtxs s u c ∧ ∀ x, (x ∈ xs ∧ Takes (s.ctx c x) → u.ctx c x = preempted (s.ctx c x)) ∧
      (¬ (x ∈ xs ∧ Takes (s.ctx c x)) → u.ctx c x = s.ctx c x) := by
  induction xs using List.reverseRecOn with
  | nil => exact ⟨.refl, fun x => ⟨fun h => (List.not_mem_nil h.1).elim, fun _ => rfl⟩⟩
  | append_singleton xs y ih =>
    have hy : y ∉ xs := fun h => (List.nodup_append.mp hx).2.2 y h y List.mem_cons_self rfl
    obtain ⟨ho, hc⟩ := ih (List.Nodup.of_append_left hx)
    have hl (x : Nat) (h : x ≠ y) : x ∈ xs ++ [y] ↔ x ∈ xs := by simp [h]
    rw [List.foldl_append]
    generalize xs.foldl (fun s x => s.postPreempt c x 1) s = u at ho hc
    have hu : u.ctx c y = s.ctx c y := (hc y).2 fun h => hy h.1
    show OnlyCtxs s (u.postPreempt c y 1) c ∧ ∀ x, (_ → (u.postPreempt c y 1).ctx c x = _) ∧ (_ → (u.postPreempt c y 1).ctx c x = _)
    by_cases hq : Takes (s.ctx c y)
    · rw [postPreempt_takes (hu.symm ▸ hq), hu]
      refine ⟨ho.setCtx, fun x => ?_⟩
      by_cases e : x = y
      · subst e
        rw [State.ctx_setCtx_self]
        exact ⟨fun _ => rfl, fun h => absurd ⟨by simp, hq⟩ h⟩
      · rw [State.ctx_setCtx, if_neg fun h => e h.2, hl x e]
        exact hc x
    · rw [postPreempt_not (hu.symm ▸ hq)]
      refine ⟨ho, fun x => ?_⟩
      by_cases e : x = y
      · subst e
        exact ⟨fun h => absurd h.2 hq, fun _ => hu⟩
      · rw [hl x e]
        exact hc x

theorem preempted_async (t : Ctx) : (preempted t).async = t.async ++ [⟨.preempt, 1⟩] := by
  unfold preempted awake
  split <;> rfl

theorem preempted_rest (t : Ctx) : { preempted t with async := t.async, prog := t.prog } = t := by
  unfold preempted awake
  split <;> rfl

theorem preempted_awake (h : ∀ n, t.prog.hold ≠ some (.sleep n)) : (preempted t).prog = t.prog :=
  (congrArg Ctx.prog (awake_of (t := { t with async := t.async ++ [⟨.preempt, 1⟩] }) h) :)

theorem preempted_sleeping {n : Option Nat} (h : t.prog.hold = some (.sleep n)) : (preempted t).prog = { t.prog with hold := none } :=
  (congrArg Ctx.prog (awake_sleeping (t := { t with async := t.async ++ [⟨.preempt, 1⟩] }) h) :)

theorem named_iff {w x : Nat} : x ∈ (List.range 24).filter (fun x => w.testBit x) ∧ Takes t ↔
    x < 24 ∧ w.testBit x = true ∧ t.live = true ∧ ¬ ∃ a, a ∈ t.async ∧ a.cause = .preempt := by
  rw [List.mem_filter, List.mem_range, Takes, and_assoc]

end Preempt

/-! ### RESTORE (R360) -/

theorem mailbox_post (s : State) (c x k : Nat) (a : AsyncCause) : (s.post c x a).mailbox k = s.mailbox k := by rw [State.post, wake_eq]; rfl

theorem mailbox_postOverflow (s : State) (c k : Nat) : (s.postOverflow c).mailbox k = s.mailbox k := by
  unfold State.postOverflow
  split
  · rfl
  · split
    · rfl
    · split
      · rfl
      · exact mailbox_post _ _ _ _ _

/-! ### The reply (R373, R375) -/

section Reply

variable {s : State} {c : Nat} {a : Answer}

/-- A reply's 64 bytes. -/
def replyOf (a : Answer) : Memory := Memory.writeN (Memory.writeN [] 0 8 (a.code + a.reason * 2 ^ 8 + a.tag * 2 ^ 16)) 8 8 a.dw1

theorem wf_half (x : Nat) : Memory.wf (Memory.writeN [] 0 8 x) = true := Memory.wf_writeN _ _ _ _ rfl

theorem replyOf_low (h : a.code < 2 ^ 8) (h1 : a.reason < 2 ^ 8) (h2 : a.tag < 2 ^ 16) :
    (replyOf a).readN 0 8 = a.code + a.reason * 2 ^ 8 + a.tag * 2 ^ 16 := by
  have hr (k : Nat) (hk : k < 8) : (replyOf a).read k = Memory.read (Memory.writeN [] 0 8 (a.code + a.reason * 2 ^ 8 + a.tag * 2 ^ 16)) k := by
    rw [replyOf, Memory.read_writeN _ _ _ _ _ (wf_half _), if_neg (by omega)]
  rw [Memory.readN_congr _ _ 0 8 fun k _ hk => hr k (by omega), Memory.readN_writeN _ _ _ _ rfl, Nat.mod_eq_of_lt (by omega)]

theorem replyOf_high (h : a.dw1 < 2 ^ 64) : (replyOf a).readN 8 8 = a.dw1 := by
  rw [replyOf, Memory.readN_writeN _ _ _ _ (wf_half _), Nat.mod_eq_of_lt (by omega)]

theorem replyOf_rest {o : Nat} (h : 16 ≤ o) : (replyOf a).read o = 0 := by
  rw [replyOf, Memory.read_writeN _ _ _ _ _ (wf_half _), if_neg (by omega), Memory.read_writeN _ _ _ _ _ rfl, if_neg (by omega)]
  rfl

/-- The state once a reply is written. -/
def replied (s : State) (c : Nat) (a : Answer) : State :=
  let s1 := s.setMailbox c { s.mailbox c with reply := replyOf a, pend := false, answer := none }
  { s1 with board := s1.board.raise 1 }

theorem mailbox_replied (d : Nat) : (replied s c a).mailbox d =
    if d = c then { s.mailbox c with reply := replyOf a, pend := false, answer := none } else s.mailbox d := SMap.get_set _ _ _ _ _

theorem raised_of (b : Board) (n v : Nat) : SMap.get 0 (b.raise n).raised v = SMap.get 0 b.raised v + if v = n then 1 else 0 := by
  rw [Board.raise, SMap.get_set]
  split
  · next e => rw [e]
  · rfl

theorem raised_replied (v : Nat) : SMap.get 0 (replied s c a).board.raised v = SMap.get 0 s.board.raised v + if v = 1 then 1 else 0 :=
  raised_of (s.setMailbox c { s.mailbox c with reply := replyOf a, pend := false, answer := none }).board 1 v

/-- What a reply leaves in the mailbox, and what it leaves alone. -/
theorem replied_effects (h1 : a.code < 2 ^ 8) (h2 : a.reason < 2 ^ 8) (h3 : a.tag < 2 ^ 16) (h4 : a.dw1 < 2 ^ 64) :
    let u := replied s c a
    u = { s with board := u.board } ∧ { u.board with mailboxes := s.board.mailboxes, raised := s.board.raised } = s.board ∧
      (u.mailbox c).reply.readN 0 8 = a.code + a.reason * 2 ^ 8 + a.tag * 2 ^ 16 ∧ (u.mailbox c).reply.readN 8 8 = a.dw1 ∧
      (∀ o, 16 ≤ o → (u.mailbox c).reply.read o = 0) ∧
      { u.mailbox c with reply := (s.mailbox c).reply } = { s.mailbox c with pend := false, answer := none } ∧
      (∀ d, d ≠ c → u.mailbox d = s.mailbox d) ∧
      ∀ v, SMap.get 0 u.board.raised v = SMap.get 0 s.board.raised v + if v = 1 then 1 else 0 := by
  intro u
  have hm : u.mailbox c = { s.mailbox c with reply := replyOf a, pend := false, answer := none } := (mailbox_replied c).trans (if_pos rfl)
  refine ⟨rfl, rfl, ?_, ?_, fun o ho => ?_, ?_, fun d hd => (mailbox_replied d).trans (if_neg hd), raised_replied⟩ <;> rw [hm] <;> dsimp only
  · exact replyOf_low h1 h2 h3
  · exact replyOf_high h4
  · exact replyOf_rest ho

theorem reply_writes (hp : (s.mailbox s.target.core).pend = true) (ha : s.answerUnknown (s.mailbox s.target.core) = some a) :
    exec .mailboxReply s = .next (replied s s.target.core a) := by
  show execMailboxReply s = _
  unfold execMailboxReply
  simp only [hp, ha]
  rfl

theorem reply_waits (hp : (s.mailbox s.target.core).pend = true) (ha : s.answerUnknown (s.mailbox s.target.core) = none) :
    exec .mailboxReply s = .next s := by
  show execMailboxReply s = _
  unfold execMailboxReply
  simp only [hp, ha]
  rfl

theorem reply_idle (hp : (s.mailbox s.target.core).pend = false) : exec .mailboxReply s = .next s := if_pos (by rw [hp]; rfl)

theorem unknown_answered {m : Mailbox} (h : m.answer = some a) : s.answerUnknown m = some a := by rw [State.answerUnknown, h]

theorem unknown_refused {m : Mailbox} (h : m.answer = none) (h4 : 4 < m.code) : s.answerUnknown m = s.refusal m := by
  rw [State.answerUnknown, h]
  exact if_pos h4

theorem unknown_none {m : Mailbox} (h : m.answer = none) (h4 : m.code ≤ 4) : s.answerUnknown m = none := by
  rw [State.answerUnknown, h]
  exact if_neg (by omega)

end Reply

/-! ### Event records (R376) -/

section Events

variable {s : State} {e : EventRec}

theorem length_bytesOfNat (n x : Nat) : (bytesOfNat n x).length = n := by
  induction n generalizing x with
  | zero => rfl
  | succ n ih => rw [bytesOfNat, List.length_cons, ih]

theorem natOfBytes_bytesOfNat (n x : Nat) : natOfBytes (bytesOfNat n x) = x % 256 ^ n := by
  induction n generalizing x with
  | zero => exact (Nat.mod_one x).symm
  | succ n ih => rw [bytesOfNat, natOfBytes, ih, Nat.pow_succ', Nat.mod_mul, BitVec.toNat_ofNat]

theorem readN_writeBytes {m : Memory} (hm : m.wf = true) {a k n : Nat} {bs : List Byte} (h : k + n ≤ bs.length) :
    (m.writeBytes a bs).readN (a + k) n = natOfBytes ((bs.drop k).take n) := by
  rw [← natOfBytes_reads]
  refine congrArg natOfBytes (List.ext_getElem (by simp; omega) fun i h1 h2 => ?_)
  rw [List.getElem_map, List.getElem_range, Memory.read_writeBytes _ _ _ _ hm]
  simp only [List.length_map, List.length_range] at h1
  rw [if_pos (by omega), show a + k + i - a = k + i by omega, List.getElem_take, List.getElem_drop,
    List.getD_eq_getElem?_getD, List.getElem?_eq_getElem (by omega), Option.getD_some]

theorem length_record (e : EventRec) : e.bytes.length = 64 := by simp [EventRec.bytes, length_bytesOfNat]

/-- A doubleword of a record in the event queue. -/
theorem record_dw {m : Memory} (hm : m.wf = true) {a k : Nat} {pre post : List Byte} {x : Nat} (hb : e.bytes = pre ++ bytesOfNat 8 x ++ post)
    (hk : pre.length = k) (hx : x < 2 ^ 64) : (m.writeBytes a e.bytes).readN (a + k) 8 = x := by
  rw [readN_writeBytes hm (by rw [hb]; simp [length_bytesOfNat, hk]), hb, List.append_assoc, ← hk, List.drop_left,
    List.take_left' (length_bytesOfNat 8 x), natOfBytes_bytesOfNat, Nat.mod_eq_of_lt (by omega)]

/-- The state once the oldest record is posted, before its context is freed. -/
def posted (s : State) (e : EventRec) (r : List EventRec) : State :=
  { s with evPending := r, board :=
    ({ s.board with evMem := s.board.evMem.writeBytes (64 * s.board.eqHead) e.bytes, eqHead := (s.board.eqHead + 1) % 4096 } : Board).raise 0 }

theorem raised_posted (r : List EventRec) (v : Nat) :
    SMap.get 0 (posted s e r).board.raised v = SMap.get 0 s.board.raised v + if v = 0 then 1 else 0 :=
  raised_of ({ s.board with evMem := s.board.evMem.writeBytes (64 * s.board.eqHead) e.bytes, eqHead := (s.board.eqHead + 1) % 4096 } : Board) 0 v

theorem eventPost_full {r : List EventRec} (h : s.evPending = e :: r) (hf : (s.board.eqHead + 1) % 4096 = s.board.eqTail) :
    exec .eventPost s = .next s := by
  show execEventPost s = _
  unfold execEventPost
  simp only [h]
  exact if_pos (by rw [Board.eqFull, hf, beq_self_eq_true])

theorem eventPost_posts {r : List EventRec} (h : s.evPending = e :: r) (hf : (s.board.eqHead + 1) % 4096 ≠ s.board.eqTail) :
    exec .eventPost s = .next (if e.kind = 1 ∨ e.kind = 2 ∨ e.kind = 3 then (posted s e r).freeCtx e.core e.ctx else posted s e r) := by
  show execEventPost s = _
  unfold execEventPost
  simp only [h]
  exact if_neg (by rw [Board.eqFull, beq_iff_eq]; exact hf)

theorem leaveFlows_rest (s u : State) (c : Nat) :
    { u.leaveFlows c with cores := s.cores, flows := s.flows } = { u with cores := s.cores, flows := s.flows } := by
  unfold State.leaveFlows
  split <;> rfl

/-- What a freed context leaves alone. -/
theorem freeCtx_rest (s : State) (c x : Nat) : { s.freeCtx c x with cores := s.cores, flows := s.flows } = s := leaveFlows_rest _ _ _

theorem core_leaveFlows (u : State) (c d : Nat) : (u.leaveFlows c).core d = u.core d := by
  unfold State.leaveFlows
  split <;> rfl

theorem core_freeCtx (s : State) (c x : Nat) : (∀ d, d ≠ c → (s.freeCtx c x).core d = s.core d) ∧
    { (s.freeCtx c x).core c with ctxs := (s.core c).ctxs, items := (s.core c).items, tiles := (s.core c).tiles } = s.core c ∧
    ((s.freeCtx c x).core c).ctxs = SMap.erase (s.core c).ctxs x := by
  unfold State.freeCtx
  refine ⟨fun d hd => ?_, ?_, ?_⟩ <;> rw [core_leaveFlows, State.core_setCore]
  · exact if_neg hd
  · rw [if_pos rfl]
  · rw [if_pos rfl]

theorem ctx_freeCtx (s : State) (c x d y : Nat) : (s.freeCtx c x).ctx d y = if d = c ∧ y = x then {} else s.ctx d y := by
  obtain ⟨ho, -, hc⟩ := core_freeCtx s c x
  unfold State.ctx
  by_cases h : d = c
  · subst h
    rw [hc, SMap.get_erase]
    simp only [true_and]
  · rw [ho d h, if_neg fun e => h e.1]

theorem core_bytes_freeCtx (s : State) (c x d : Nat) :
    ((s.freeCtx c x).core d).spad = (s.core d).spad ∧ ((s.freeCtx c x).core d).scaleMem = (s.core d).scaleMem := by
  obtain ⟨ho, hc, -⟩ := core_freeCtx s c x
  by_cases h : d = c
  · rw [h]
    exact ⟨(congrArg Core.spad hc :), (congrArg Core.scaleMem hc :)⟩
  · rw [ho d h]
    exact ⟨rfl, rfl⟩

theorem bytesSame_freeCtx (s : State) (c x : Nat) : BytesSame s (s.freeCtx c x) where
  hbm a := congrArg (Memory.read · a) (congrArg State.hbm (freeCtx_rest s c x) :)
  host a := congrArg (Memory.read · a) (congrArg State.hostMem (freeCtx_rest s c x) :)
  spad d a := congrArg (Memory.read · a) (core_bytes_freeCtx s c x d).1
  scale d a := congrArg (Memory.read · a) (core_bytes_freeCtx s c x d).2

/-- A posted record that ends no context, and one that does, leave the rest of the device as the record alone does. -/
theorem after_record (s : State) (e : EventRec) (p : Prop) [Decidable p] : let u := if p then s.freeCtx e.core e.ctx else s
    u.evPending = s.evPending ∧ u.board = s.board ∧ BytesSame s u ∧ (p → (u.ctx e.core e.ctx).live = false) ∧
      (∀ c x, ¬ (p ∧ c = e.core ∧ x = e.ctx) → u.ctx c x = s.ctx c x) ∧ (¬ p → u.cores = s.cores) := by
  intro u
  by_cases h : p
  · have hu : u = s.freeCtx e.core e.ctx := if_pos h
    have hr := freeCtx_rest s e.core e.ctx
    rw [hu]
    refine ⟨(congrArg State.evPending hr :), (congrArg State.board hr :), bytesSame_freeCtx _ _ _, fun _ => ?_, fun c x hx => ?_, fun hn => absurd h hn⟩
    · rw [ctx_freeCtx, if_pos ⟨rfl, rfl⟩]
    · rw [ctx_freeCtx, if_neg fun e => hx ⟨h, e⟩]
  · have hu : u = s := if_neg h
    rw [hu]
    exact ⟨rfl, rfl, ⟨fun _ => rfl, fun _ => rfl, fun _ _ => rfl, fun _ _ => rfl⟩, fun hp => absurd hp h, fun _ _ _ => rfl, fun _ => rfl⟩

/-- The bytes of a record in the queue, and those around it. -/
theorem record_written {m : Memory} (hm : m.wf = true) (at_ : Nat) (h1 : e.kind < 2 ^ 8) (h2 : e.core < 2 ^ 8) (h3 : e.ctx < 2 ^ 8) :
    let n := m.writeBytes at_ e.bytes
    n.readN at_ 8 = e.kind + e.core * 2 ^ 8 + e.ctx * 2 ^ 16 ∧ n.readN (at_ + 8) 8 = e.d1.toNat ∧
      n.readN (at_ + 16) 8 = e.d2.toNat ∧ n.readN (at_ + 24) 8 = e.d3.toNat ∧ ∀ a, a < at_ ∨ at_ + 64 ≤ a → n.read a = m.read a := by
  have hl := length_bytesOfNat 8
  obtain ⟨x, hx⟩ : ∃ x, x = e.kind % 2 ^ 8 + e.core % 2 ^ 8 * 2 ^ 8 + e.ctx % 2 ^ 8 * 2 ^ 16 := ⟨_, rfl⟩
  have hb : e.bytes = bytesOfNat 8 x ++ bytesOfNat 8 e.d1.toNat ++ bytesOfNat 8 e.d2.toNat ++ bytesOfNat 8 e.d3.toNat ++ List.replicate 32 0 := by
    rw [hx, EventRec.bytes]
  refine ⟨?_, record_dw hm (pre := bytesOfNat 8 x) (post := bytesOfNat 8 e.d2.toNat ++ bytesOfNat 8 e.d3.toNat ++ List.replicate 32 0) ?_ (hl _) e.d1.isLt,
    record_dw hm (pre := bytesOfNat 8 x ++ bytesOfNat 8 e.d1.toNat) (post := bytesOfNat 8 e.d3.toNat ++ List.replicate 32 0) ?_ ?_ e.d2.isLt,
    record_dw hm (pre := bytesOfNat 8 x ++ bytesOfNat 8 e.d1.toNat ++ bytesOfNat 8 e.d2.toNat) (post := List.replicate 32 0) hb ?_ e.d3.isLt,
    fun a ha => ?_⟩
  · refine (record_dw hm (a := at_) (k := 0) (pre := []) (x := x)
      (post := bytesOfNat 8 e.d1.toNat ++ bytesOfNat 8 e.d2.toNat ++ bytesOfNat 8 e.d3.toNat ++ List.replicate 32 0) ?_ rfl ?_).trans ?_
    · rw [hb, List.nil_append]
      simp only [List.append_assoc]
    · omega
    · omega
  · rw [hb]
    simp only [List.append_assoc]
  · rw [hb]
    simp only [List.append_assoc]
  · rw [List.length_append, hl, hl]
  · rw [List.length_append, List.length_append, hl, hl, hl]
  · rw [Memory.read_writeBytes _ _ _ _ hm, length_record, if_neg (by omega)]

end Events


/-- Settles O48: the waiting command's refusals in their order, then what its code does. -/
theorem hostProtocol : Obligations.HostProtocol := by
  unfold Obligations.HostProtocol
  refine ⟨?_, ?_, ?_⟩
  · rintro s c m rfl hc rfl hp ha
    have hw {k : Nat} (h : (s.mailbox s.target.core).code = k) : Waits s k := ⟨hc, hp, ha, h⟩
    intro dw code tag k clean answers served all64
    refine ⟨fun h => ?_, fun h => ?_, fun h hwf => ?_, fun h => ?_, fun h => ?_⟩
    · have hm : commandMask (s.mailbox s.target.core).code = 0 :: [2 ^ 32 - 1] := congrArg commandMask h
      refine ⟨fun h1 => ?_, fun h1 h2 => ?_, fun h1 h2 h3 => ?_, fun h1 h2 h3 => ?_⟩
      · exact exec_hello.trans (serve_refused (hw h) (helloRefusal_reserved hm h1))
      · exact exec_hello.trans (serve_refused (hw h) (helloRefusal_state hm h1 h2))
      · exact exec_hello.trans (serve_taken (hw h) (helloRefusal_none hm h1 h2) (if_pos h3) rfl)
      · exact exec_hello.trans (serve_taken (hw h) (helloRefusal_none hm h1 h2) (if_neg (not_not.mpr h3)) rfl)
    · refine served_of (ms := [all64, all64, 15, all64]) (hw h) (by decide) (by decide) rfl exec_launch fun hr => ⟨fun h1 => ?_, fun h1 h2 => ?_, fun h1 h2 => ?_⟩
      · exact exec_launch.trans (serve_taken (hw h) hr (if_pos h1) rfl)
      · exact exec_launch.trans (serve_taken (hw h) hr ((if_neg (Nat.not_lt.mpr h1)).trans (if_pos h2)) rfl)
      · exact exec_launch.trans (serve_taken (hw h) hr ((if_neg (Nat.not_lt.mpr h1)).trans (if_neg (Nat.not_le.mpr h2))) rfl)
    · refine served_of (ms := [2 ^ 14 - 1, all64]) (hw h) (by decide) (by decide) rfl exec_setasid fun hr => ?_
      intro fits busy
      have hfit (h1 : fits) : ¬ (dw 2 % 2 ^ 21 ≠ 0 ∨ hbmBytes < dw 2 + 2 ^ 21) := fun e => e.elim (absurd h1.1) (Nat.not_lt.mpr h1.2)
      refine ⟨fun h1 => ?_, fun h1 h2 => ?_, fun h1 h2 => ?_⟩
      · exact exec_setasid.trans (serve_taken (hw h) hr (if_pos ((not_and_or.mp h1).imp id Nat.lt_of_not_le)) rfl)
      · refine exec_setasid.trans (serve_taken (hw h) hr ((if_neg (hfit h1)).trans (if_pos ?_)) rfl)
        rw [Bool.not_eq_true', ← Bool.not_eq_true, idle_iff hwf]
        exact not_not.mpr h2
      · refine exec_setasid.trans (serve_taken (hw h) hr ((if_neg (hfit h1)).trans (if_neg ?_)) rfl)
        rw [Bool.not_eq_true', ← Bool.not_eq_true, idle_iff hwf]
        exact not_not.mpr h2
    · refine served_of (ms := [2 ^ 24 - 1]) (hw h) (by decide) (by decide) rfl exec_preempt fun hr => ?_
      obtain ⟨ho, hx⟩ := preempt_contexts ((List.range 24).filter fun x => ((s.mailbox s.target.core).dw 1).testBit x) (List.nodup_range.filter _) s s.target.core
      refine ⟨_, exec_preempt.trans (serve_taken (hw h) hr rfl ?_), ho.device, ho.cores, ho.core, fun x => ⟨fun hn => ?_, fun hn => ?_⟩⟩
      · exact (congrArg (fun u : State => u.mailbox s.target.core) ho.device :)
      · exact (hx x).2 fun e => hn (named_iff.mp e)
      · rw [(hx x).1 (named_iff.mpr hn)]
        exact ⟨preempted_async _, preempted_rest _, preempted_awake, fun n hn => preempted_sleeping hn⟩
    · refine served_of (ms := [all64, 31]) (hw h) (by decide) (by decide) rfl exec_restore fun hr => ⟨fun h1 => ?_, fun h1 h2 => ?_, fun h1 h2 h3 => ?_⟩
      · exact exec_restore.trans (serve_taken (hw h) hr (if_pos h1) rfl)
      · refine exec_restore.trans (serve_taken (hw h) hr ((if_neg (not_not.mpr h1)).trans (if_pos ?_)) rfl)
        rw [Bool.or_eq_true, decide_eq_true_eq]
        exact h2
      · refine exec_restore.trans (serve_taken (hw h) hr ((if_neg (not_not.mpr h1)).trans (if_neg ?_)) (mailbox_postOverflow _ _ _))
        rw [Bool.or_eq_true, decide_eq_true_eq]
        rintro (e | e)
        · exact absurd (e.symm.trans h2) (by decide)
        · exact absurd h3 (Nat.not_lt.mpr e)
  · rintro s c m rfl rfl
    intro code tag replies
    have hrep (a : Answer) (hp : (s.mailbox s.target.core).pend = true)
        (ha : s.answerUnknown (s.mailbox s.target.core) = some a) (h1 : a.code < 2 ^ 8) (h2 : a.reason < 2 ^ 8) (h3 : a.tag < 2 ^ 16)
        (h4 : a.dw1 < 2 ^ 64) : replies a := ⟨_, reply_writes hp ha, replied_effects h1 h2 h3 h4⟩
    have htag : tag < 2 ^ 16 := Nat.mod_lt _ (by decide)
    exact ⟨reply_idle, fun a hp ha => hrep a hp (unknown_answered ha),
      fun hp ha h4 hh => hrep _ hp ((unknown_refused ha h4).trans (refusal_hello hh)) (by norm_num) (by norm_num) htag (by norm_num),
      fun hp ha h4 hh => hrep _ hp ((unknown_refused ha h4).trans (refusal_unknown hh h4)) (by norm_num) (by norm_num) htag (by norm_num),
      fun hp ha h4 => reply_waits hp (unknown_none ha h4)⟩
  · intro s e r he
    intro b
    refine ⟨eventPost_full he, fun hf hwf h1 h2 h3 => ⟨_, eventPost_posts he hf, ?_⟩⟩
    obtain ⟨hp, hb, hs, hl, hc, hk⟩ := after_record (posted s e r) e (e.kind = 1 ∨ e.kind = 2 ∨ e.kind = 3)
    refine ⟨hp, congrArg Board.eqHead hb, ?_, ?_, fun v => ?_, ⟨hs.hbm, hs.host, hs.spad, hs.scale⟩, hl, hc, fun h => hk (by omega)⟩ <;> rw [hb]
    · dsimp only [posted, Board.raise]
      exact record_written hwf _ h1 h2 h3
    · rfl
    · exact raised_posted r v

end Sys2Proof.Proofs.HostProtocol
end

section
/-! PROOFS. A port that goes down: the flows that cross it go on with their work, and what they send by other ports counts there. -/

namespace Sys2Proof.Proofs.Ports

open Sys2Proof.Machine
open Sys2Proof.Safety

/-! ### A send by another port (O51) -/

/-- An entry at port landing 0 whose child comes by port 0, with a packet still to be sent by port 1 and a credit for it. -/
def crossingEntry : FEntry :=
  { land := portLand 0, lcore := none, cslot := 0, action := 0, op := 0, rm := 0, ports := 0, ocslot := 0, aslot := 0, awin := 0
    src := false, nlo := 0, nlvl := 0, next := none, credits := [(.port 1, 1)], sends := [(.port 1, { kind := .data, src := 0, dst := 0 })]
    via := some 0 }

/-- Ports 0 and 1 are up, and one replay of flit 5 of port 1 has failed; port 0 is the target. -/
def twoPorts : State :=
  { State.reset with
    flows := [(0, { owner := 0, entries := [crossingEntry] })]
    ports := [(0, { up := true, rxFail := (0, 1), txFail := (0, 1) }), (1, { up := true, txFail := (5, 1) })]
    target := {} }

/-- The replay failures that a meaning leaves at port 1. -/
def failuresAfter : Out → Nat × Nat
  | .next u => (u.port 1).txFail
  | _ => (5, 1)

/-- Refutes O51: when port 0 goes down, the flow that crosses it sends its waiting packet by port 1, which keeps flit 5 no more, so the
count of its failed replays there is cleared; the clause on the other ports lets no more change than what they have been handed. -/
theorem not_moduleEvents : ¬ Obligations.ModuleEvents := by
  unfold Obligations.ModuleEvents
  rintro ⟨-, -, h⟩
  obtain ⟨-, -, -, -, -, -, -, -, hdown⟩ := h twoPorts
  obtain ⟨u, hu, -, hother, -⟩ := hdown rfl
  have hsame : (u.port 1).txFail = (twoPorts.port 1).txFail := (congrArg Port.txFail (hother 1 (by decide)) :)
  have hleft : failuresAfter (.next u) = failuresAfter (exec .portDown twoPorts) := congrArg failuresAfter hu.symm
  have hcleared : failuresAfter (exec .portDown twoPorts) = (0, 0) := by decide
  exact absurd (hsame.symm.trans (hleft.trans hcleared)) (by decide)

end Sys2Proof.Proofs.Ports
end

section
/-! PROOFS. The overlay loader: images and launches (R51, R110 to R113, R128). -/

namespace Sys2Proof.Proofs.Loader

open Sys2Proof.Machine
open Sys2Proof.Safety
open Sys2Proof.Proofs.Tokens
open Sys2Proof.Proofs.Streams
open Sys2Proof.Proofs.HostProtocol

/-! ### The loader's choice (R128) -/

section Choice

/-- The better of two records: higher priority, then first arrival. -/
def better (b : Option LaunchRec) (r : LaunchRec) : Option LaunchRec :=
  match b with
  | none => some r
  | some x => if x.prio < r.prio then some r else some x

theorem chooseLaunch_eq (q : List LaunchRec) : chooseLaunch q = q.foldl better none := rfl

theorem fold_below {q : List LaunchRec} {p : Nat} (h : ∀ x, x ∈ q → x.prio < p) {b : Option LaunchRec} (hb : ∀ x, b = some x → x.prio < p) :
    ∀ x, q.foldl better b = some x → x.prio < p := by
  induction q generalizing b with
  | nil => exact hb
  | cons r q ih =>
    refine ih (fun x hx => h x (List.mem_cons_of_mem _ hx)) ?_
    have hr := h r List.mem_cons_self
    intro x hx
    cases b with
    | none => exact Option.some.inj hx ▸ hr
    | some y =>
      simp only [better] at hx
      split at hx
      · exact Option.some.inj hx ▸ hr
      · exact hb x hx

theorem fold_kept {q : List LaunchRec} {r : LaunchRec} (h : ∀ x, x ∈ q → x.prio ≤ r.prio) : q.foldl better (some r) = some r := by
  induction q with
  | nil => rfl
  | cons x q ih =>
    have hx : better (some r) x = some r := if_neg (Nat.not_lt.mpr (h x List.mem_cons_self))
    rw [List.foldl_cons, hx]
    exact ih fun y hy => h y (List.mem_cons_of_mem _ hy)

theorem chooseLaunch_best {before rest : List LaunchRec} {r : LaunchRec} (h1 : ∀ x, x ∈ before → x.prio < r.prio)
    (h2 : ∀ x, x ∈ rest → x.prio ≤ r.prio) : chooseLaunch (before ++ r :: rest) = some r := by
  have hr : better (before.foldl better none) r = some r := by
    have hb := fold_below h1 (b := none) (fun x hx => nomatch hx)
    cases hf : before.foldl better none with
    | none => rfl
    | some y => exact if_pos (hb y hf)
  rw [chooseLaunch_eq, List.foldl_append, List.foldl_cons, hr, fold_kept h2]

theorem erase_best {before rest : List LaunchRec} {r : LaunchRec} (h1 : ∀ x, x ∈ before → x.prio < r.prio) :
    (before ++ r :: rest).erase r = before ++ rest := by
  rw [List.erase_append_right _ fun h => Nat.lt_irrefl _ (h1 r h), List.erase_cons_head]

end Choice

/-! ### Reading an image (R51, R111) -/

section Images

variable {s s1 s2 : State} {c va : Nat}

theorem field_readVa (s : State) (ps : List Page) (va : Nat) {o n len : Nat} (h : o + n ≤ len) :
    field (s.readVa ps va len) o n = natOfBytes (s.readVa ps (va + o) n) := by
  unfold field State.readVa
  rw [window_range (fun i => s.hbm.read (paIn ps (va + i))) h]
  simp only [Nat.add_assoc]

/-- The section records, each field read at its place. -/
def recordsAt (s : State) (qs : List Page) (va n : Nat) : List Section :=
  let f (i o : Nat) : Nat := natOfBytes (s.readVa qs (va + 16 + 16 * i + o) 4)
  (List.range n).map fun i => { kind := f i 0, addr := f i 4, len := f i 8, off := f i 12 }

theorem sectionsOf_readVa (s : State) (qs : List Page) (va : Nat) {n len : Nat} (h : 16 + 16 * n ≤ len) :
    sectionsOf (s.readVa qs va len) n = recordsAt s qs va n := by
  unfold sectionsOf recordsAt
  refine List.map_congr_left fun i hi => ?_
  have hi := List.mem_range.mp hi
  have hf (o : Nat) (ho : o ≤ 12) : field (s.readVa qs va len) (16 + 16 * i + o) 4 = natOfBytes (s.readVa qs (va + 16 + 16 * i + o) 4) := by
    rw [field_readVa s qs va (by omega), show va + (16 + 16 * i + o) = va + 16 + 16 * i + o by omega]
  have h0 := hf 0 (by omega)
  have h1 := hf 4 (by omega)
  have h2 := hf 8 (by omega)
  have h3 := hf 12 (by omega)
  rw [show 16 + 16 * i + 4 = 20 + 16 * i by omega] at h1
  rw [show 16 + 16 * i + 8 = 24 + 16 * i by omega] at h2
  rw [show 16 + 16 * i + 12 = 28 + 16 * i by omega] at h3
  rw [show field (s.readVa qs va len) (16 + 16 * i) 4 = _ from h0, h1, h2, h3]

/-- A number of the image's first 16 bytes. -/
def headerAt (s : State) (ps : List Page) (va o n : Nat) : Nat := natOfBytes (s.readVa ps (va + o) n)

/-- The image's magic and major version are known (R51). -/
def Known (s : State) (ps : List Page) (va : Nat) : Prop := headerAt s ps va 0 4 = 0x4D49574B ∧ headerAt s ps va 4 2 = 1

/-- The header does not hold its records, or a record's kind is none (R51). -/
def BadHeader (s1 s2 : State) (ps qs : List Page) (va : Nat) : Prop :=
  headerAt s1 ps va 12 4 < 16 + 16 * headerAt s1 ps va 8 4 ∨
    ∃ x, x ∈ recordsAt s2 qs va (headerAt s1 ps va 8 4) ∧ (x.kind < 1 ∨ 8 < x.kind)

theorem header_field (s : State) (ps : List Page) (va : Nat) {o n : Nat} (h : o + n ≤ 16) :
    field (s.readVa ps va 16) o n = headerAt s ps va o n := field_readVa s ps va h

theorem readImage_first {e : Reject} (h : s.imagePages c va 16 = .error e) : s.readImage c va = .error e := by
  unfold State.readImage
  rw [h]

variable {ps qs : List Page}

theorem readImage_unknown (h : s.imagePages c va 16 = .ok (ps, s1)) (hk : ¬ Known s1 ps va) : s.readImage c va = .error (.reason 1 0) := by
  unfold State.readImage
  rw [h]
  simp only [header_field s1 ps va (show 0 + 4 ≤ 16 by decide), header_field s1 ps va (show 4 + 2 ≤ 16 by decide)]
  exact if_pos (not_and_or.mp hk)

/-- Past the magic and the version. -/
theorem readImage_known (h : s.imagePages c va 16 = .ok (ps, s1)) (hk : Known s1 ps va) : s.readImage c va =
    match s1.imagePages c va (headerAt s1 ps va 12 4) with
    | .error r => .error r
    | .ok (qs, s2) =>
      let recs := sectionsOf (s2.readVa qs va (headerAt s1 ps va 12 4)) (headerAt s1 ps va 8 4)
      if headerAt s1 ps va 12 4 < 16 + 16 * headerAt s1 ps va 8 4 ∨ recs.any (fun x => decide (x.kind < 1) || decide (8 < x.kind)) then
        .error (.reason 1 0)
      else match State.readSections c va recs s2 none [] with
        | .error r => .error r
        | .ok (xs, s3) => match imageReason xs (s.pool c) with
          | some r => .error (.reason r 0)
          | none => .ok ({ secs := xs, entries := entriesIn xs, stages := stagesIn xs, queues := queuesIn xs }, s3) := by
  unfold State.readImage
  rw [h]
  simp only [header_field s1 ps va (show 0 + 4 ≤ 16 by decide), header_field s1 ps va (show 4 + 2 ≤ 16 by decide),
    header_field s1 ps va (show 8 + 4 ≤ 16 by decide), header_field s1 ps va (show 12 + 4 ≤ 16 by decide)]
  exact (if_neg fun e => not_and_or.mpr e hk).trans rfl

theorem badHeader_iff : (headerAt s1 ps va 12 4 < 16 + 16 * headerAt s1 ps va 8 4 ∨
    (sectionsOf (s2.readVa qs va (headerAt s1 ps va 12 4)) (headerAt s1 ps va 8 4)).any (fun x => decide (x.kind < 1) || decide (8 < x.kind)) = true) ↔
      BadHeader s1 s2 ps qs va := by
  unfold BadHeader
  by_cases h : headerAt s1 ps va 12 4 < 16 + 16 * headerAt s1 ps va 8 4
  · simp only [h, true_or]
  · rw [sectionsOf_readVa s2 qs va (Nat.not_lt.mp h)]
    simp only [List.any_eq_true, Bool.or_eq_true, decide_eq_true_eq]

theorem readImage_pages {e : Reject} (h : s.imagePages c va 16 = .ok (ps, s1)) (hk : Known s1 ps va)
    (h2 : s1.imagePages c va (headerAt s1 ps va 12 4) = .error e) : s.readImage c va = .error e := by rw [readImage_known h hk, h2]

theorem readImage_bad (h : s.imagePages c va 16 = .ok (ps, s1)) (hk : Known s1 ps va)
    (h2 : s1.imagePages c va (headerAt s1 ps va 12 4) = .ok (qs, s2)) (hb : BadHeader s1 s2 ps qs va) :
    s.readImage c va = .error (.reason 1 0) := by
  rw [readImage_known h hk, h2]
  exact if_pos (badHeader_iff.mpr hb)

theorem readImage_good (h : s.imagePages c va 16 = .ok (ps, s1)) (hk : Known s1 ps va)
    (h2 : s1.imagePages c va (headerAt s1 ps va 12 4) = .ok (qs, s2)) (hb : ¬ BadHeader s1 s2 ps qs va) : s.readImage c va =
      match State.readSections c va (recordsAt s2 qs va (headerAt s1 ps va 8 4)) s2 none [] with
      | .error r => .error r
      | .ok (xs, s3) => match imageReason xs (s.pool c) with
        | some r => .error (.reason r 0)
        | none => .ok ({ secs := xs, entries := entriesIn xs, stages := stagesIn xs, queues := queuesIn xs }, s3) := by
  rw [readImage_known h hk, h2, ← sectionsOf_readVa s2 qs va (Nat.not_lt.mp fun e => hb (.inl e))]
  exact (if_neg fun e => hb (badHeader_iff.mp e)).trans rfl

variable {xs : List Section} {s3 : State}

theorem readImage_section_fault {e : Reject} (h : s.imagePages c va 16 = .ok (ps, s1)) (hk : Known s1 ps va)
    (h2 : s1.imagePages c va (headerAt s1 ps va 12 4) = .ok (qs, s2)) (hb : ¬ BadHeader s1 s2 ps qs va)
    (h3 : State.readSections c va (recordsAt s2 qs va (headerAt s1 ps va 8 4)) s2 none [] = .error e) : s.readImage c va = .error e := by
  rw [readImage_good h hk h2 hb, h3]

theorem readImage_rejected {r : Nat} (h : s.imagePages c va 16 = .ok (ps, s1)) (hk : Known s1 ps va)
    (h2 : s1.imagePages c va (headerAt s1 ps va 12 4) = .ok (qs, s2)) (hb : ¬ BadHeader s1 s2 ps qs va)
    (h3 : State.readSections c va (recordsAt s2 qs va (headerAt s1 ps va 8 4)) s2 none [] = .ok (xs, s3))
    (hr : imageReason xs (s.pool c) = some r) : s.readImage c va = .error (.reason r 0) := by
  rw [readImage_good h hk h2 hb, h3]
  simp only [hr]

theorem readImage_accepted (h : s.imagePages c va 16 = .ok (ps, s1)) (hk : Known s1 ps va)
    (h2 : s1.imagePages c va (headerAt s1 ps va 12 4) = .ok (qs, s2)) (hb : ¬ BadHeader s1 s2 ps qs va)
    (h3 : State.readSections c va (recordsAt s2 qs va (headerAt s1 ps va 8 4)) s2 none [] = .ok (xs, s3))
    (hr : imageReason xs (s.pool c) = none) :
    s.readImage c va = .ok ({ secs := xs, entries := entriesIn xs, stages := stagesIn xs, queues := queuesIn xs }, s3) := by
  rw [readImage_good h hk h2 hb, h3]
  simp only [hr]

end Images

/-! ### Pages and sections (R111) -/

section Sections

variable {s s1 : State} {c lo n va : Nat}

theorem imagePages_trap {f : Cause} {v : DWord} (h : n ≠ 0)
    (hw : s.xlateRange c (lo + n - 1) true false (fun _ => none) (n / 65536 + 2) lo = .trap f v) :
    s.imagePages c lo n = .error (.reason 9 v.toNat) := by rw [State.imagePages, if_neg h, hw]

theorem imagePages_pages {ps : List Page} (h : n ≠ 0)
    (hw : s.xlateRange c (lo + n - 1) true false (fun _ => none) (n / 65536 + 2) lo = .pages ps s1) :
    s.imagePages c lo n = .ok (ps, s1) := by rw [State.imagePages, if_neg h, hw]

theorem readSections_read {x : Section} {l acc : List Section} {low : Option Reject} {ps : List Page}
    (h : s.imagePages c (va + x.off) x.len = .ok (ps, s1)) : State.readSections c va (x :: l) s low acc =
      State.readSections c va l s1 low (acc ++ [{ x with data := s1.readVa ps (va + x.off) x.len }]) := by rw [State.readSections, h]

theorem readSections_fault {x : Section} {l acc : List Section} {low : Option Reject} {e : Reject}
    (h : s.imagePages c (va + x.off) x.len = .error e) :
    State.readSections c va (x :: l) s low acc = State.readSections c va l s (lowerFault low e) acc := by rw [State.readSections, h]

theorem lowerFault_min (w v : Nat) : lowerFault (some (.reason 9 w)) (.reason 9 v) = some (.reason 9 (min w v)) := by
  rw [lowerFault, Nat.min_def]
  split <;> rfl

end Sections

/-! ### The checks of the contents (R111) -/

section Reasons

variable {xs : List Section} {pool : Nat}

theorem total_eq (es : List (Nat × Nat)) : es.foldl (fun n e => n + e.2) 0 = (es.map Prod.snd).sum := by
  rw [List.sum_eq_foldl, List.foldl_map]

theorem length_eraseDups_le (n : Nat) (l : List Nat) (h : l.length ≤ n) : l.eraseDups.length ≤ l.length := by
  induction n generalizing l with
  | zero => rw [List.length_eq_zero_iff.mp (Nat.le_zero.mp h)]; exact Nat.le_refl _
  | succ n ih =>
    cases l with
    | nil => exact Nat.le_refl _
    | cons a l =>
      rw [List.length_cons] at h
      have hf := List.length_filter_le (fun b => !b == a) l
      rw [List.eraseDups_cons, List.length_cons, List.length_cons]
      exact Nat.succ_le_succ ((ih _ (by omega)).trans hf)

theorem distinct_iff (l : List Nat) : distinct l = true ↔ l.Nodup := by
  unfold distinct
  rw [beq_iff_eq]
  induction l with
  | nil => simp
  | cons a l ih =>
    rw [List.eraseDups_cons, List.length_cons, List.length_cons, Nat.succ_inj, List.nodup_cons]
    by_cases h : a ∈ l
    · have hlt : (l.filter fun b => !b == a).length < l.length := List.length_filter_lt_length_iff_exists.mpr ⟨a, h, by simp⟩
      have hle := length_eraseDups_le _ (l.filter fun b => !b == a) (Nat.le_refl _)
      exact ⟨fun e => by omega, fun e => absurd h e.1⟩
    · have hf : (l.filter fun b => !b == a) = l := List.filter_eq_self.mpr fun b hb => by simpa using fun e : b = a => h (e ▸ hb)
      rw [hf, ih]
      exact ⟨fun e => ⟨h, e⟩, And.right⟩

/-- A code section lies outside its memory or is not made of whole lines (R111). -/
def CodeBad (xs : List Section) : Prop := ∃ x m, x ∈ xs ∧ codeMemory x.kind = some m ∧
  (m.bytes < x.addr + x.len ∨ x.addr % 128 ≠ 0 ∨ x.len % 128 ≠ 0)

theorem codeBad_iff : xs.any Section.codeBad = true ↔ CodeBad xs := by
  rw [List.any_eq_true]
  constructor
  · rintro ⟨x, hx, hb⟩
    unfold Section.codeBad at hb
    cases hm : codeMemory x.kind with
    | none => simp [hm] at hb
    | some m =>
      rw [hm] at hb
      exact ⟨x, m, hx, hm, by simpa [or_assoc] using hb⟩
  · rintro ⟨x, m, hx, hm, hb⟩
    refine ⟨x, hx, ?_⟩
    unfold Section.codeBad
    rw [hm]
    simpa [or_assoc] using hb

/-- An address is word 2 of a control-core line whose TARGET bit 0 is set (R111). -/
def EntryLine (im : SMap Word) (a : Nat) : Prop := a < 131072 ∧ a % 128 = 8 ∧ (SMap.get (0 : Word) im (a / 4 - 1)).getLsbD 0 = true

theorem entryLine_iff (im : SMap Word) (a : Nat) : entryLine im a = true ↔ EntryLine im a := by
  unfold entryLine EntryLine
  rw [Bool.and_eq_true, Bool.and_eq_true, decide_eq_true_eq, beq_iff_eq, and_assoc]
  refine and_congr_right fun _ => and_congr_right fun h => ?_
  rw [show a / 128 * 32 + 1 = a / 4 - 1 by omega]

theorem has_iff (st : List (Nat × Nat)) (n : Nat) : st.any (fun e => e.1 == n) = true ↔ ∃ e, e ∈ st ∧ e.1 = n := by
  simp only [List.any_eq_true, beq_iff_eq]

/-- The entries and the stage functions are entry lines (R111). -/
theorem entries_iff (im : SMap Word) (es st : List (Nat × Nat)) :
    (es.map Prod.fst ++ st.map Prod.snd).any (fun a => !entryLine im a) = true ↔
      (∃ e, e ∈ es ∧ ¬ EntryLine im e.1) ∨ ∃ e, e ∈ st ∧ ¬ EntryLine im e.2 := by
  simp only [List.any_append, List.any_map, Bool.or_eq_true, List.any_eq_true, Function.comp, Bool.not_eq_true', ← Bool.not_eq_true, entryLine_iff]

theorem counts_iff (es : List (Nat × Nat)) :
    es.any (fun e => decide (e.2 < 1) || decide (24 < e.2)) = true ↔ ∃ e, e ∈ es ∧ (e.2 < 1 ∨ 24 < e.2) := by
  simp only [List.any_eq_true, Bool.or_eq_true, decide_eq_true_eq]

theorem stages_iff (st : List (Nat × Nat)) : (!distinct (st.map Prod.fst) || !distinct (st.map Prod.snd)) = true ↔
    ¬ ((st.map Prod.fst).Nodup ∧ (st.map Prod.snd).Nodup) := by
  rw [Bool.or_eq_true, Bool.not_eq_true', Bool.not_eq_true', ← Bool.not_eq_true, ← Bool.not_eq_true, distinct_iff, distinct_iff, not_and_or]

theorem queues_iff (st : List (Nat × Nat)) (qs : List StageQueue) :
    qs.any (fun q => !st.any (fun e => e.1 == q.from_) || !st.any (fun e => e.1 == q.to_) || q.from_ == q.to_ || decide (q.depth < 1) ||
        decide (256 < q.depth)) = true ↔
      ∃ q, q ∈ qs ∧ ((¬ ∃ e, e ∈ st ∧ e.1 = q.from_) ∨ (¬ ∃ e, e ∈ st ∧ e.1 = q.to_) ∨ q.from_ = q.to_ ∨ q.depth < 1 ∨ 256 < q.depth) := by
  rw [List.any_eq_true]
  refine exists_congr fun q => and_congr_right fun _ => ?_
  rw [Bool.or_eq_true, Bool.or_eq_true, Bool.or_eq_true, Bool.or_eq_true, Bool.not_eq_true', Bool.not_eq_true', ← Bool.not_eq_true,
    ← Bool.not_eq_true, has_iff, has_iff, beq_iff_eq, decide_eq_true_eq, decide_eq_true_eq]
  simp only [or_assoc]

/-- The checks of the contents, each by what it rejects. -/
theorem imageReason_eq : imageReason xs pool =
    if xs.any Section.codeBad = true then some 2
    else if ((entriesIn xs).map Prod.snd).sum = 0 then some 3
    else if (entriesIn xs).any (fun e => decide (e.2 < 1) || decide (24 < e.2)) = true then some 10
    else if pool < ((entriesIn xs).map Prod.snd).sum then some 4
    else if ((entriesIn xs).map Prod.fst ++ (stagesIn xs).map Prod.snd).any (fun a => !entryLine (imemOf xs .control) a) = true then some 5
    else if (!distinct ((stagesIn xs).map Prod.fst) || !distinct ((stagesIn xs).map Prod.snd)) = true then some 6
    else if (queuesIn xs).any (fun q => !(stagesIn xs).any (fun e => e.1 == q.from_) || !(stagesIn xs).any (fun e => e.1 == q.to_) ||
        q.from_ == q.to_ || decide (q.depth < 1) || decide (256 < q.depth)) = true then some 7
    else if 16 < (queuesIn xs).length then some 8
    else none := by
  rw [← total_eq]
  rfl

end Reasons

/-! ### The launch (R110, R113, R128) -/

section Launch

variable {s u : State} {c x : Nat}

theorem mayLaunch_iff (h : SMap.wf (s.core c).ctxs = true) : s.mayLaunch c = true ↔
    (∀ x, (s.ctx c x).live = false) ∧ (∀ n, (s.slot c n).owner = none) ∧ (s.core c).arc.owner = none ∧ (s.core c).items = [] ∧
      s.away.contains c = false ∧ s.board.devState = .ready ∧ ∀ e, e ∈ s.evPending → ¬ (e.kind = 4 ∧ e.core = c) := by
  unfold State.mayLaunch
  simp only [Bool.and_eq_true, noLive_iff h, slots_free_iff, Option.isNone_iff_eq_none, List.isEmpty_iff, Bool.not_eq_true', beq_iff_eq,
    List.any_eq_false, and_assoc]

/-- A context with only its pending causes and its sleep changed. -/
def Nudged (t t' : Ctx) : Prop := ∃ a h, t' = { t with async := a, prog := { t.prog with hold := h } }

theorem Nudged.refl (t : Ctx) : Nudged t t := ⟨t.async, t.prog.hold, rfl⟩

theorem nudged_awake (t : Ctx) (a : List AsyncCause) : Nudged t (awake { t with async := a }) := by
  unfold awake
  split
  · exact ⟨a, none, rfl⟩
  · exact ⟨a, t.prog.hold, rfl⟩

theorem post_eq (s : State) (c x : Nat) (a : AsyncCause) :
    s.post c x a = s.setCtx c x (awake { s.ctx c x with async := (s.ctx c x).async ++ [a] }) := by rw [State.post, wake_eq]

/-- A nack that becomes pending changes one context of the core, and there no more than its pending causes and its sleep. -/
theorem postOverflow_nudges (s : State) (c : Nat) : OnlyCtxs s (s.postOverflow c) c ∧ ∀ x, Nudged (s.ctx c x) ((s.postOverflow c).ctx c x) := by
  have hs : OnlyCtxs s s c ∧ ∀ x, Nudged (s.ctx c x) (s.ctx c x) := ⟨.refl, fun x => .refl _⟩
  unfold State.postOverflow
  split
  · exact hs
  · split
    · exact hs
    · split
      · exact hs
      · next y _ _ =>
        rw [post_eq]
        refine ⟨OnlyCtxs.refl.setCtx, fun x => ?_⟩
        rw [State.ctx_setCtx]
        split
        · next e => rw [e.2]; exact nudged_awake _ _
        · exact .refl _

theorem get_append {α : Type} (d : α) (m : SMap α) (k n : Nat) (v : α) (hm : ∀ p, p ∈ m → p.1 ≠ k) :
    SMap.get d (m ++ [(k, v)]) n = if n = k then v else SMap.get d m n := by
  induction m with
  | nil => simp [SMap.get, eq_comm]
  | cons p r ih =>
    rw [List.cons_append, SMap.get, SMap.get, ih fun q hq => hm q (List.mem_cons_of_mem _ hq)]
    by_cases h : p.1 = n
    · rw [if_pos h, if_pos h, if_neg fun e => hm p List.mem_cons_self (h.trans e)]
    · rw [if_neg h, if_neg h]

/-- A list as a map by place. -/
theorem get_mapIdx {α β : Type} (d : β) (f : Nat → α → β) (l : List α) (n : Nat) :
    SMap.get d (l.mapIdx fun i e => (i, f i e)) n = (l[n]?).elim d (f n) := by
  induction l using List.reverseRecOn with
  | nil => rfl
  | append_singleton l a ih =>
    rw [List.mapIdx_append, List.mapIdx_singleton, Nat.zero_add, get_append, ih]
    · split
      · next e => rw [e, List.getElem?_append_right (Nat.le_refl _), Nat.sub_self]; rfl
      · next e =>
        rcases Nat.lt_or_gt_of_ne e with h | h
        · rw [List.getElem?_append_left h]
        · rw [List.getElem?_eq_none (by omega), List.getElem?_eq_none (by rw [List.length_append, List.length_singleton]; omega)]
    · intro p hp
      obtain ⟨i, hi, rfl⟩ := List.mem_mapIdx.mp hp
      exact Nat.ne_of_lt hi

/-- The state once an accepted image's threads have started, before a nack becomes pending. -/
def launched (s : State) (c : Nat) (g : Image) (r : LaunchRec) : State := s.setCore c ((s.core c).launch g r s.now)

theorem ctx_launched (g : Image) (r : LaunchRec) :
    (launched s c g r).ctx c x = (g.threads[x]?).elim {} fun e => launchCtx g r s.now e.1 e.2 := by
  unfold State.ctx launched
  rw [State.core_setCore_self]
  exact get_mapIdx {} (fun _ e => launchCtx g r s.now e.1 e.2) g.threads x

theorem launchTake_idle (h : ¬ s.mayLaunch s.target.core = true) : exec .launchTake s = .next s := by
  show execLaunchTake s = _
  unfold execLaunchTake
  exact if_pos (by simpa using h)

/-- The loader takes a record. -/
theorem launchTake_takes {r : LaunchRec} (h : s.mayLaunch s.target.core = true) (hr : chooseLaunch (s.core s.target.core).launchQ = some r) :
    let s1 := s.setCore s.target.core { s.core s.target.core with launchQ := (s.core s.target.core).launchQ.erase r }
    exec .launchTake s = match s1.readImage s.target.core r.image.toNat with
      | .error .noMemory => .fault .noMemory
      | .error (.reason n va) =>
        .next (s1.addEvent { kind := 4, core := s.target.core, ctx := 0xFF, d1 := BitVec.ofNat 64 n, d2 := BitVec.ofNat 64 va, d3 := 0 })
      | .ok (g, s2) => if (s.core s.target.core).savedBelow g.threads.length then .next s else
          .next ((launched s2 s.target.core g r).postOverflow s.target.core) := by
  intro s1
  show execLaunchTake s = _
  unfold execLaunchTake
  refine (if_neg (by simpa using h)).trans ?_
  simp only [hr]
  rfl

theorem savedBelow_iff (k : Core) (n : Nat) : k.savedBelow n = true ↔ ∃ x, x ∈ SMap.keys k.savedCtxs ∧ x < n := by
  simp only [Core.savedBelow, List.any_eq_true, decide_eq_true_eq]

/-- A thread as a launch starts it. -/
theorem launched_thread (g : Image) (r : LaunchRec) (now e i : Nat) : let u := launchCtx g r now e i
    u.live = true ∧ u.prog.pc = BitVec.ofNat 64 e ∧ u.prog.getS 1 = r.arg ∧ u.prog.getS 2 = BitVec.ofNat 64 i ∧
      (∀ n, (∃ f, g.stages.find? (fun e' => e'.2 == e) = some (n, f)) → u.prog.getS 3 = BitVec.ofNat 64 n ∧ u.stage = some n) ∧
      ((∀ n, (n, e) ∉ g.stages) → u.prog.getS 3 = 0xFFFFFFFFFFFFFFFF ∧ u.stage = none) ∧
      (∀ n, 3 < n → u.prog.getS n = 0) ∧ (∀ n, u.prog.getB n = 0) ∧ u.prio = r.prio ∧ u.tseed = r.seed ∧
      u.modeM = false ∧ u.modeH = false ∧ u.modeRev = false ∧ u.instret = 0 ∧ u.cycleBase = now ∧ u.tvec = 0 ∧
      u.fsr = 0 ∧ u.fte = 0 ∧ u.frm = 0 := by
  refine ⟨rfl, rfl, rfl, rfl, fun n hn => ?_, fun hn => ?_, fun n hn => ?_, fun n => rfl, rfl, rfl, rfl, rfl, rfl, rfl, rfl, rfl, rfl, rfl, rfl⟩
  · obtain ⟨f, hf⟩ := hn
    have hs : (g.stages.find? (fun e' => e'.2 == e)).map Prod.fst = some n := by rw [hf]; rfl
    unfold launchCtx Prog.getS
    simp [hs, SMap.get]
  · have hs : (g.stages.find? (fun e' => e'.2 == e)).map Prod.fst = none := by
      rw [List.find?_eq_none.mpr fun p hp => ?_, Option.map_none]
      rw [beq_iff_eq]
      exact fun h => hn p.1 (h ▸ hp)
    unfold launchCtx Prog.getS
    simp [hs, SMap.get, allOnes64]
  · unfold launchCtx Prog.getS
    simp only [SMap.get]
    rw [if_neg (by omega), if_neg (by omega), if_neg (by omega), if_neg (by omega)]

theorem queues_launched (qs : List StageQueue) (j : Nat) : (qs.mapIdx fun i q => (i, q)).length = qs.length ∧
    ∀ q, qs[j]? = some q → SMap.get q (qs.mapIdx fun i q => (i, q)) j = q :=
  ⟨List.length_mapIdx, fun q hq => (get_mapIdx q (fun _ q => q) qs j).trans (by rw [hq]; rfl)⟩

end Launch

/-- Settles O52: the record taken, the image's checks in order, and the threads as they start. -/
theorem launchesAndImages : Obligations.LaunchesAndImages := by
  unfold Obligations.LaunchesAndImages
  refine ⟨?_, ⟨?_, ?_, ?_⟩, ?_⟩
  · rintro s c before rest r rfl
    intro k hq h1 h2 hwf able s1
    have hable : s.mayLaunch s.target.core = true ↔ able := mayLaunch_iff hwf
    have hbest : chooseLaunch (s.core s.target.core).launchQ = some r := by rw [show _ = _ from hq, chooseLaunch_best h1 h2]
    have hrest : (s.core s.target.core).launchQ.erase r = before ++ rest := by rw [show _ = _ from hq, erase_best h1]
    have htakes (ha : able) := launchTake_takes (hable.mpr ha) hbest
    rw [hrest] at htakes
    refine ⟨fun h => launchTake_idle fun e => h (hable.mp e), fun ha hr => ?_, fun ha n va hr => ?_, ?_⟩
    · exact (htakes ha).trans (by rw [show _ = _ from hr])
    · exact (htakes ha).trans (by rw [show _ = _ from hr]; rfl)
    · intro saved
      refine ⟨fun ha g s2 hr hs => ?_, fun ha g s2 hr hs => ?_⟩
      · refine (htakes ha).trans ?_
        rw [show _ = _ from hr]
        exact if_pos ((savedBelow_iff _ _).mpr hs)
      · have hx : exec .launchTake s = .next ((launched s2 s.target.core g r).postOverflow s.target.core) := by
          refine (htakes ha).trans ?_
          rw [show _ = _ from hr]
          exact if_neg fun e => hs ((savedBelow_iff _ _).mp e)
        obtain ⟨ho, hn⟩ := postOverflow_nudges (launched s2 s.target.core g r) s.target.core
        generalize (launched s2 s.target.core g r).postOverflow s.target.core = t at hx ho hn
        have hcore : (launched s2 s.target.core g r).core s.target.core = (s2.core s.target.core).launch g r s2.now := State.core_setCore_self _ _ _
        have hk : { t.core s.target.core with ctxs := ((s2.core s.target.core).launch g r s2.now).ctxs } =
            (s2.core s.target.core).launch g r s2.now := hcore ▸ ho.core
        refine ⟨t, hx, fun d hd => (ho.cores d hd).trans ((State.core_setCore _ _ _ _).trans (if_neg hd)), ?_, (congrArg Core.launchQ hk :),
          (congrArg Core.stages hk :), fun j => ?_, (congrArg Core.spad hk :), fun m => ?_, fun x => ⟨fun e i hi => ?_, fun hi => ?_⟩⟩
        · exact (congrArg (fun u : State => { u with cores := s2.cores }) ho.device :)
        · have hqs : (t.core s.target.core).queues = g.queues.mapIdx fun i q => (i, q) := (congrArg Core.queues hk :)
          rw [hqs]
          exact queues_launched g.queues j
        · cases m
          · exact (congrArg Core.imemC hk :)
          · exact (congrArg Core.imemV hk :)
          · exact (congrArg Core.imemA hk :)
        · obtain ⟨as, ho, ht⟩ := hn x
          rw [ctx_launched, hi] at ht
          rw [ht]
          exact launched_thread g r s2.now e i
        · obtain ⟨as, ho, ht⟩ := hn x
          rw [ctx_launched, List.getElem?_eq_none hi] at ht
          rw [ht]
          rfl
  · intro s c va rejects
    refine ⟨fun e h => readImage_first h, fun ps s1 h => ?_⟩
    intro at_ hlen known
    refine ⟨fun hk => readImage_unknown h hk, fun e hk h2 => readImage_pages h hk h2, fun qs s2 hk h2 => ?_⟩
    intro field recs bad
    exact ⟨fun hb => readImage_bad h hk h2 hb, fun e hb h3 => readImage_section_fault h hk h2 hb h3,
      fun xs s3 hb h3 => ⟨fun r hr => readImage_rejected h hk h2 hb h3 hr, fun hr => readImage_accepted h hk h2 hb h3 hr⟩⟩
  · intro s c lo n walk
    exact ⟨fun h => if_pos h, fun f v h hw => imagePages_trap h hw, fun ps s1 h hw => imagePages_pages h hw⟩
  · intro s c va x l acc low
    refine ⟨rfl, fun r => rfl, fun ps s1 h => readSections_read h, fun v h => ⟨fun hl => ?_, fun w hl => ?_⟩⟩ <;> rw [readSections_fault h, hl]
    · rfl
    · rw [lowerFault_min]
  · intro xs pool es st qs total c6 c8 entry c10 c11 named c12
    rw [imageReason_eq]
    have n6 (h : ¬ c6) := fun e => h (codeBad_iff.mp e)
    have n8 (h : ¬ c8) := fun e => h ((counts_iff _).mp e)
    have n10 (h : ¬ c10) := fun e => h ((entries_iff _ _ _).mp e)
    have n11 (h : ¬ c11) := fun e => h ((stages_iff _).mp e)
    have n12 (h : ¬ c12) := fun e => h ((queues_iff _ _).mp e)
    refine ⟨fun a => ?_, fun a b => ?_, fun a b d => ?_, fun a b d e => ?_, fun a b d e f => ?_, fun a b d e f g => ?_,
      fun a b d e f g h => ?_, fun a b d e f g h i => ?_, fun a b d e f g h i => ?_⟩
    · exact if_pos (codeBad_iff.mpr a)
    · rw [if_neg (n6 a)]
      exact if_pos b
    · rw [if_neg (n6 a), if_neg b]
      exact if_pos ((counts_iff _).mpr d)
    · rw [if_neg (n6 a), if_neg b, if_neg (n8 d)]
      exact if_pos e
    · rw [if_neg (n6 a), if_neg b, if_neg (n8 d), if_neg (Nat.not_lt.mpr e)]
      exact if_pos ((entries_iff _ _ _).mpr f)
    · rw [if_neg (n6 a), if_neg b, if_neg (n8 d), if_neg (Nat.not_lt.mpr e), if_neg (n10 f)]
      exact if_pos ((stages_iff _).mpr g)
    · rw [if_neg (n6 a), if_neg b, if_neg (n8 d), if_neg (Nat.not_lt.mpr e), if_neg (n10 f), if_neg (n11 g)]
      exact if_pos ((queues_iff _ _).mpr h)
    · rw [if_neg (n6 a), if_neg b, if_neg (n8 d), if_neg (Nat.not_lt.mpr e), if_neg (n10 f), if_neg (n11 g), if_neg (n12 h)]
      exact if_pos i
    · rw [if_neg (n6 a), if_neg b, if_neg (n8 d), if_neg (Nat.not_lt.mpr e), if_neg (n10 f), if_neg (n11 g), if_neg (n12 h)]
      exact if_neg (Nat.not_lt.mpr i)

end Sys2Proof.Proofs.Loader
end

section
/-! PROOFS. Resets and boot (R105, R106, R108, R380, R381, R383, R387). -/

namespace Sys2Proof.Proofs.Boot

open Sys2Proof.Machine
open Sys2Proof.Safety
open Sys2Proof.Proofs.Invariants
open Sys2Proof.Proofs.Loader

/-! ### A window of a memory that is cleared -/

section Windows

/-- A read of the cells at some addresses only. -/
theorem read_filter (f : Nat → Bool) (m : Memory) (lo x : Nat) (h : Memory.wfFrom lo m = true) :
    Memory.read (m.filter fun c => f c.1) x = if f x = true then Memory.read m x else Memory.unlisted := by
  induction m generalizing lo with
  | nil => exact (ite_self _).symm
  | cons p r ih =>
    obtain ⟨k, v⟩ := p
    simp only [Memory.wfFrom, Bool.and_eq_true] at h
    have hr := ih _ h.2
    rw [Memory.read]
    by_cases hx : x ≤ k
    · have hlow : Memory.read r x = Memory.unlisted := Memory.read_of_wfFrom r (k + 1) x h.2 (by omega)
      by_cases hk : f k = true
      · rw [List.filter_cons_of_pos (by exact hk), Memory.read]
        by_cases e : x = k
        · rw [if_pos e, if_pos e, e, if_pos hk]
        · have hlt : x < k := by omega
          rw [if_neg e, if_neg e, if_pos hlt, if_pos hlt, ite_self]
      · rw [List.filter_cons_of_neg (by exact hk), hr, hlow, ite_self]
        by_cases e : x = k
        · rw [e, if_neg hk]
        · have hlt : x < k := by omega
          rw [if_neg e, if_pos hlt, ite_self]
    · have hne : x ≠ k := by omega
      have hnl : ¬ x < k := by omega
      rw [if_neg hne, if_neg hnl]
      by_cases hk : f k = true
      · rw [List.filter_cons_of_pos (by exact hk), Memory.read, if_neg hne, if_neg hnl, hr]
      · rw [List.filter_cons_of_neg (by exact hk), hr]

theorem read_cleared {m : Memory} (h : m.wf = true) (a n x : Nat) :
    Memory.read (m.setWindow a n []) x = if a ≤ x ∧ x < a + n then 0 else Memory.read m x := by
  refine (read_filter (fun k => decide (k < a) || decide (a + n ≤ k)) m 0 x h).trans ?_
  simp only [Bool.or_eq_true, decide_eq_true_eq]
  by_cases hx : a ≤ x ∧ x < a + n
  · rw [if_pos hx, if_neg (by omega)]
    rfl
  · rw [if_neg hx, if_pos (by omega)]

end Windows

/-! ### The image regions after boot (R108) -/

section Regions

variable {s u : State} {c : Nat}

/-- An address of the image region of a core: its scratchpad and its tags. -/
abbrev InRegion (c a : Nat) : Prop := 0xBFC0000000 + 0x100000 * c ≤ a ∧ a < 0xBFC0000000 + 0x100000 * c + 0xC0180

/-- What the regions of fresh cores leave of a state whose cores are all fresh. -/
structure Cleared (s u : State) (cs : List Nat) : Prop where
  rest  : { u with cores := s.cores, hbm := s.hbm } = s
  cores : ∀ c, u.core c = {}
  wf    : s.hbm.wf = true → u.hbm.wf = true
  hbm   : s.hbm.wf = true → ∀ a, ((∃ c, c ∈ cs ∧ InRegion c a) → u.hbm.read a = 0) ∧
    ((¬ ∃ c, c ∈ cs ∧ InRegion c a) → u.hbm.read a = s.hbm.read a)

theorem imageOut_fresh (h : u.core c = {}) : u.imageOut c =
    { u.setCore c {} with hbm := (u.hbm.setWindow (imageBase c) 0xC0000 []).setWindow (imageTag c 0) 384 [] } := by
  unfold State.imageOut
  rw [h]
  rfl

theorem Cleared.imageOut {cs : List Nat} (h : Cleared s u cs) (c : Nat) : Cleared s (u.imageOut c) (cs ++ [c]) := by
  rw [imageOut_fresh (h.cores c)]
  refine ⟨h.rest, fun d => ?_, fun hw => Memory.wf_setWindow _ _ _ _ (Memory.wf_setWindow _ _ _ _ (h.wf hw)), fun hw a => ?_⟩
  · refine (State.core_setCore u c d {}).trans ?_
    split
    · rfl
    · exact h.cores d
  · obtain ⟨h1, h2⟩ := h.hbm hw a
    have hr : Memory.read ((u.hbm.setWindow (imageBase c) 0xC0000 []).setWindow (imageTag c 0) 384 []) a =
        if InRegion c a then 0 else u.hbm.read a := by
      rw [read_cleared (Memory.wf_setWindow _ _ _ _ (h.wf hw)), read_cleared (h.wf hw)]
      unfold InRegion imageTag imageBase
      split
      · next e => rw [if_pos (by omega)]
      · split
        · next e => rw [if_pos (by omega)]
        · next e => rw [if_neg (by omega)]
    have hm : (∃ d, d ∈ cs ++ [c] ∧ InRegion d a) ↔ (∃ d, d ∈ cs ∧ InRegion d a) ∨ InRegion c a := by
      simp only [List.mem_append, List.mem_singleton, or_and_right, exists_or, exists_eq_left]
    rw [hm]
    refine ⟨fun e => ?_, fun e => ?_⟩
    · refine hr.trans ?_
      by_cases hc : InRegion c a
      · rw [if_pos hc]
      · rw [if_neg hc]
        exact h1 (e.resolve_right hc)
    · rw [not_or] at e
      exact hr.trans ((if_neg e.2).trans (h2 e.1))

theorem cleared_fold (h : ∀ c, s.core c = {}) (cs : List Nat) : Cleared s (cs.foldl State.imageOut s) cs := by
  induction cs using List.reverseRecOn with
  | nil => exact ⟨rfl, h, id, fun _ a => ⟨fun ⟨c, hc, _⟩ => (List.not_mem_nil hc).elim, fun _ => rfl⟩⟩
  | append_singleton cs c ih =>
    rw [List.foldl_append]
    exact ih.imageOut c

end Regions

/-! ### The remap table (R106) -/

section Remap

variable {hm : List Nat} {a b c : Nat}

theorem placeOf_lt (h : 128 ≤ hm.length) (hc : c < 256) : placeOf hm.length c < hm.length := by
  unfold placeOf
  split
  · omega
  · dsimp only
    split <;> omega

theorem placeOf_eq_iff {h : Nat} (hh : 128 ≤ h) (ha : a < 256) (hb : b < 256) : placeOf h a = placeOf h b ↔
    a = b ∨ h < 256 ∧ 2 * h ≤ b + 256 ∧ 2 * h ≤ a + 256 ∧ b / 2 = a / 2 := by
  unfold placeOf
  split
  · omega
  · dsimp only
    split <;> split <;> omega

/-- The rules of R106 for a table: healthy cores only, shared by the pairs alone. -/
structure Placed (hm : List Nat) (f : Nat → Nat) : Prop where
  healthy : ∀ c, c < 256 → f c ∈ hm
  shared  : ∀ a b, a < 256 → b < 256 → (f a = f b ↔ placeOf hm.length a = placeOf hm.length b)

theorem getD_inj (h : hm.Nodup) {i j : Nat} (hi : i < hm.length) (hj : j < hm.length) : hm.getD i 0 = hm.getD j 0 ↔ i = j := by
  rw [List.getD_eq_getElem _ _ hi, List.getD_eq_getElem _ _ hj]
  exact h.getElem_inj_iff

theorem getD_mem {i : Nat} (hi : i < hm.length) : hm.getD i 0 ∈ hm := by
  rw [List.getD_eq_getElem _ _ hi]
  exact List.getElem_mem _

/-- Firmware's own choice, where it keeps the rules. -/
theorem placed_of_ok {r : List Nat} (hr : r.length = 256) (h : remapOk hm r = true) : Placed hm fun c => r.getD c 0 := by
  simp only [remapOk, Bool.and_eq_true, List.all_eq_true, List.mem_range, beq_iff_eq, List.contains_iff_mem] at h
  obtain ⟨⟨h1, h2⟩, -⟩ := h
  refine ⟨fun c hc => h1 _ (getD_mem (hr.symm ▸ hc)), fun a b ha hb => ?_⟩
  have := h2 a ha b hb
  rw [← beq_iff_eq, this, beq_iff_eq]

/-- The plain placement where every hall has room. -/
theorem placed_halls (hn : hm.Nodup) (h : 256 ≤ hm.length) (hf : hallsFull hm = true) :
    Placed hm fun c => (healthyIn hm (hallOf c)).getD (inQuadrant c) 0 := by
  have hlen (c : Nat) (hc : c < 256) : inQuadrant c < (healthyIn hm (hallOf c)).length := by
    simp only [hallsFull, List.all_eq_true, decide_eq_true_eq] at hf
    have h4 : hallOf c ∈ [0, 1, 2, 3] := by
      have : hallOf c < 4 := by unfold hallOf; omega
      simp only [List.mem_cons, List.not_mem_nil, or_false]
      omega
    have hq : inQuadrant c < 64 := by unfold inQuadrant; omega
    exact Nat.lt_of_lt_of_le hq (hf _ h4)
  have hmem (c : Nat) (hc : c < 256) := List.mem_filter.mp (getD_mem (hlen c hc))
  refine ⟨fun c hc => (hmem c hc).1, fun a b ha hb => ?_⟩
  have hp : placeOf hm.length a = placeOf hm.length b ↔ a = b := by rw [placeOf, placeOf, if_pos h, if_pos h]
  rw [hp]
  refine ⟨fun e => ?_, fun e => by rw [e]⟩
  have hhall : hallOf a = hallOf b := by
    have h1 := beq_iff_eq.mp (hmem a ha).2
    have h2 := beq_iff_eq.mp (hmem b hb).2
    exact h1.symm.trans ((congrArg (· / 72) e).trans h2)
  rw [hhall] at e
  have hin := (getD_inj (hn.filter _) (hhall ▸ hlen a ha) (hlen b hb)).mp e
  unfold hallOf at hhall
  unfold inQuadrant at hin
  omega

/-- The plain placement by place. -/
theorem placed_places (hn : hm.Nodup) (h : 128 ≤ hm.length) : Placed hm fun c => hm.getD (placeOf hm.length c) 0 :=
  ⟨fun _ hc => getD_mem (placeOf_lt h hc), fun _ _ ha hb => getD_inj hn (placeOf_lt h ha) (placeOf_lt h hb)⟩

theorem length_remapFor : (remapFor hm).length = 256 := by
  unfold remapFor plainRemap
  dsimp only
  split <;> rw [List.length_map, List.length_range]

theorem getD_mapped (f : Nat → Nat) (hc : c < 256) : ((List.range 256).map f).getD c 0 = f c := by
  rw [List.getD_eq_getElem _ _ (by rwa [List.length_map, List.length_range]), List.getElem_map, List.getElem_range]

theorem Placed.congr {f g : Nat → Nat} (h : Placed hm f) (e : ∀ c, c < 256 → g c = f c) : Placed hm g :=
  ⟨fun c hc => by rw [e c hc]; exact h.healthy c hc, fun a b ha hb => by rw [e a ha, e b hb]; exact h.shared a b ha hb⟩

theorem placed_plain (hn : hm.Nodup) (h : 128 ≤ hm.length) : Placed hm fun c => (plainRemap hm).getD c 0 := by
  by_cases hf : 256 ≤ hm.length ∧ hallsFull hm = true
  · refine (placed_halls hn hf.1 hf.2).congr fun c hc => (getD_mapped _ hc).trans (if_pos ?_)
    rw [decide_eq_true hf.1, hf.2]
    rfl
  · refine (placed_places hn h).congr fun c hc => (getD_mapped _ hc).trans (if_neg ?_)
    rwa [Bool.and_eq_true, decide_eq_true_eq]

theorem placed_remapFor (hn : hm.Nodup) (h : 128 ≤ hm.length) : Placed hm fun c => (remapFor hm).getD c 0 := by
  unfold remapFor
  dsimp only
  split
  · next hr => exact placed_of_ok (by rw [List.length_map, List.length_range]) hr
  · exact placed_plain hn h

end Remap

/-! ### Boot (R380, R381) -/

section BootStep

variable {s u : State}

/-- The health map that self-test finds (R105). -/
def healthMap (s : State) : List Nat := (List.range 288).filter (Config.selfTest s.draws)

/-- The board once a valid image has started. -/
def bootBoard (s : State) : Board :=
  let b := s.board
  let hm := healthMap s
  let ready := decide (128 ≤ hm.length)
  let b1 := ((b.extend 0 Config.romDigest).extend 1 (digestOf (imageBytes b.flash))).extend 2 (Config.healthDigest hm)
  { b1 with fuses := Config.imageVersion b.flash, health := hm, healthy := hm.length
            devState := if ready then .ready else .unusable, stopped := !ready }

/-- The logical cores that share a physical core. -/
def bootPairs (s : State) : List Nat :=
  let r := remapFor (healthMap s)
  (List.range 256).filter (fun c => 1 < (r.filter (· == r.getD c 0)).length)

/-- The logical cores that are not resident after boot. -/
def bootAway (s : State) : List Nat :=
  if decide (128 ≤ (healthMap s).length) then (bootPairs s).filter (fun c => (c % 2 == 1) != Config.freeBool s.draws) else []

/-- The state that boot leaves, before the image regions are cleared. -/
def bootState (s : State) : State :=
  let r := remapFor (healthMap s)
  { s with
    board := (bootBoard s).raise 2, draws := s.draws + 1
    remap := r.mapIdx (fun c p => (c, p))
    away := bootAway s
    sliceAt := (((bootPairs s).map (fun c => r.getD c 0)).eraseDups).foldl (fun m p => SMap.set m p s.now) []
    monCode := Config.monitorCode.foldl (fun m e => SMap.set m e.1 e.2) []
    cores := (List.range 256).map (fun c => (c, ({} : Core))) }

theorem boot_valid (h : s.board.imageOk = true) : s.boot = (bootAway s).foldl State.imageOut (bootState s) := by
  unfold State.boot
  exact if_neg (by rw [h]; decide)

theorem boot_invalid (h : ¬ s.board.imageOk = true) :
    s.boot = { s with board := { s.board with devState := .recovery, stopped := true }.raise 2 } := by
  unfold State.boot
  exact if_pos (by simpa using h)

theorem core_bootState (c : Nat) : (bootState s).core c = {} := core_of_fresh rfl

theorem pcore_bootState {c : Nat} (hc : c < 256) : (bootState s).pcore c = (remapFor (healthMap s)).getD c 0 := by
  refine (get_mapIdx 0 (fun _ p => p) (remapFor (healthMap s)) c).trans ?_
  rw [List.getD_eq_getElem?_getD, List.getElem?_eq_getElem (by rwa [length_remapFor])]
  rfl

/-- Nothing of what was before the reset is left. -/
structure Emptied (u : State) : Prop where
  groups  : u.groups = []
  events  : u.evPending = []
  tlbs    : u.tlbs = []
  flows   : u.flows = []
  packets : u.packets = []
  agenda  : u.agenda = []
  cores   : ∀ c, u.core c = {}
  mailboxes : ∀ k, u.mailbox k = {}
  hello   : u.board.helloOk = false
  eqHead  : u.board.eqHead = 0
  eqTail  : u.board.eqTail = 0
  ports   : ∀ p, (u.port p).up = false ∧ (u.port p).failed = false

theorem Emptied.congr (h : Emptied s) {cores : SMap Core} {hbm : Memory} (hr : { u with cores := cores, hbm := hbm } = s)
    (hc : ∀ c, u.core c = {}) : Emptied u := by
  obtain ⟨h1, h2, h3, h4, h5, h6, -, h8, h9, h10, h11, h12⟩ := h
  subst hr
  exact ⟨h1, h2, h3, h4, h5, h6, hc, h8, h9, h10, h11, h12⟩

theorem Emptied.bootState (h : Emptied s) : Emptied (bootState s) :=
  ⟨h.groups, h.events, h.tlbs, h.flows, h.packets, h.agenda, core_bootState, h.mailboxes, h.hello, h.eqHead, h.eqTail, h.ports⟩

theorem Emptied.boot (h : Emptied s) : Emptied s.boot := by
  by_cases hi : s.board.imageOk = true
  · rw [boot_valid hi]
    have hc := cleared_fold (core_bootState (s := s)) (bootAway s)
    exact h.bootState.congr hc.rest hc.cores
  · rw [boot_invalid hi]
    exact ⟨h.groups, h.events, h.tlbs, h.flows, h.packets, h.agenda, h.cores, h.mailboxes, h.hello, h.eqHead, h.eqTail, h.ports⟩

/-- What boot leaves of the board and the table, where it finds a valid image. -/
structure Booted (u : State) : Prop where
  length : u.board.health.length = u.board.healthy
  range  : ∀ p, p ∈ u.board.health → p < 288
  ready  : 128 ≤ u.board.healthy → u.board.devState = .ready ∧ u.board.stopped = false
  unusable : u.board.healthy < 128 → u.board.devState = .unusable ∧ u.board.stopped = true
  remap  : 128 ≤ u.board.healthy → ∀ c, c < 256 → ∃ p, p ∈ u.board.health ∧ u.pcore c = p ∧
    ∀ d, d < 256 → (u.pcore d = p ↔ d = c ∨ u.board.healthy < 256 ∧ 2 * u.board.healthy ≤ c + 256 ∧ 2 * u.board.healthy ≤ d + 256 ∧ c / 2 = d / 2)

theorem nodup_healthMap (s : State) : (healthMap s).Nodup := List.nodup_range.filter _

theorem booted_bootState : Booted (bootState s) where
  length := rfl
  range p hp := List.mem_range.mp (List.mem_filter.mp hp).1
  ready h := by
    have hd : decide (128 ≤ (healthMap s).length) = true := decide_eq_true h
    exact ⟨(congrArg (fun b => if b = true then DevState.ready else .unusable) hd :), (congrArg (fun b => !b) hd :)⟩
  unusable h := by
    have hd : decide (128 ≤ (healthMap s).length) = false := decide_eq_false (Nat.not_le.mpr h)
    exact ⟨(congrArg (fun b => if b = true then DevState.ready else .unusable) hd :), (congrArg (fun b => !b) hd :)⟩
  remap h c hc := by
    have hp := placed_remapFor (nodup_healthMap s) h
    refine ⟨_, hp.healthy c hc, pcore_bootState hc, fun d hd => ?_⟩
    rw [pcore_bootState hd, hp.shared d c hd hc]
    exact placeOf_eq_iff h hd hc

theorem Booted.congr (h : Booted s) {cores : SMap Core} {hbm : Memory} (hr : { u with cores := cores, hbm := hbm } = s) : Booted u := by
  obtain ⟨h1, h2, h3, h4, h5⟩ := h
  subst hr
  exact ⟨h1, h2, h3, h4, h5⟩

/-- What boot leaves alone. -/
theorem boot_keeps : s.boot.hostMem = s.hostMem ∧ s.boot.board.flash = s.board.flash ∧
    s.boot.board.devId = s.board.devId ∧ s.boot.board.devIdNext = s.board.devIdNext := by
  by_cases hi : s.board.imageOk = true
  · rw [boot_valid hi]
    have hr := (cleared_fold (core_bootState (s := s)) (bootAway s)).rest
    exact ⟨(congrArg State.hostMem hr :), (congrArg (fun u : State => u.board.flash) hr :), (congrArg (fun u : State => u.board.devId) hr :),
      (congrArg (fun u : State => u.board.devIdNext) hr :)⟩
  · rw [boot_invalid hi]
    exact ⟨rfl, rfl, rfl, rfl⟩

/-- What boot leaves of HBM: the image regions of the cores that are not resident are cleared (R108). -/
theorem boot_hbm (ha : s.away = []) (hw : s.hbm.wf = true) (a : Nat) : ((∃ c, c ∈ s.boot.away ∧ InRegion c a) → s.boot.hbm.read a = 0) ∧
    ((¬ ∃ c, c ∈ s.boot.away ∧ InRegion c a) → s.boot.hbm.read a = s.hbm.read a) := by
  by_cases hi : s.board.imageOk = true
  · rw [boot_valid hi]
    have hc := cleared_fold (core_bootState (s := s)) (bootAway s)
    have haway : ((bootAway s).foldl State.imageOut (bootState s)).away = bootAway s := (congrArg State.away hc.rest :)
    rw [haway]
    exact hc.hbm hw a
  · have haway : s.boot.away = [] := by rw [boot_invalid hi]; exact ha
    rw [haway, boot_invalid hi]
    exact ⟨fun ⟨c, hc, _⟩ => (List.not_mem_nil hc).elim, fun _ => rfl⟩

end BootStep

/-! ### Resets (R383) -/

section Resets

variable {s u : State} {f : Memory}

/-- The image is accepted: it verifies, and no fuse is ahead of its version (R380). -/
def Taken (b : Board) (f : Memory) : Prop := Config.imageVerifies f = true ∧ b.fuses ≤ Config.imageVersion f

/-- The flash after a reset: the image that the recovery window took stands there (R381). -/
def nextFlash (b : Board) : Memory := if b.recoveryUsed then b.recovery else b.flash

/-- The image after a reset is valid and whole. -/
def Whole (b : Board) : Prop := Taken b (nextFlash b) ∧ (b.updating = false ∨ b.recoveryUsed = true)

/-- A state that a reset leaves for boot. -/
structure FromReset (b : Board) (s : State) : Prop where
  emptied  : Emptied s
  flash    : s.board.flash = nextFlash b
  updating : s.board.updating = (b.updating && !b.recoveryUsed)
  fuses    : s.board.fuses = b.fuses

theorem FromReset.imageOk_iff {b : Board} (h : FromReset b s) : s.board.imageOk = true ↔ Whole b := by
  unfold Board.imageOk Whole Taken
  rw [h.flash, h.updating, h.fuses]
  cases b.updating <;> cases b.recoveryUsed <;> simp

theorem FromReset.boot {b : Board} (h : FromReset b s) : s.boot.board.flash = nextFlash b ∧ Emptied s.boot ∧
    (Whole b → Booted s.boot ∧ s.boot.board.fuses = Config.imageVersion (nextFlash b)) ∧
    (¬ Whole b → (s.boot.board.devState = .recovery ∧ s.boot.board.stopped = true) ∧ s.boot.board.fuses = b.fuses) := by
  refine ⟨boot_keeps.2.1.trans h.flash, h.emptied.boot, fun hw => ?_, fun hw => ?_⟩
  · rw [boot_valid (h.imageOk_iff.mpr hw)]
    have hr := (cleared_fold (core_bootState (s := s)) (bootAway s)).rest
    refine ⟨booted_bootState.congr hr, ?_⟩
    rw [← h.flash]
    exact (congrArg (fun u : State => u.board.fuses) hr :)
  · rw [boot_invalid fun e => hw (h.imageOk_iff.mp e)]
    exact ⟨⟨rfl, rfl⟩, h.fuses⟩

/-- What a warm reset leaves for boot. -/
def warmState (s : State) : State :=
  { State.reset with
    hbm := s.hbm, hostMem := s.hostMem, now := s.now, draws := s.draws
    board := { s.board.afterReset with devId := s.board.devIdNext, devIdNext := s.board.devIdNext, powerCap := s.board.powerCap
                                       linkRate := s.board.linkRate, linkWidth := s.board.linkWidth } }

/-- What power-on leaves for boot. -/
def coldState (s : State) : State :=
  { State.reset with
    hbm := ((Config.hbmAtPower s.draws).filter (fun c => decide (c.1 < hbmBytes))).foldl (fun m c => m.write c.1 c.2) []
    hostMem := s.hostMem, now := s.now, draws := s.draws + 1, board := s.board.afterReset }

theorem warmReset_eq : s.warmReset = (warmState s).boot := rfl
theorem exec_coldReset : exec .coldReset s = .next (coldState s).boot := rfl

theorem fromReset_warm : FromReset s.board (warmState s) :=
  ⟨⟨rfl, rfl, rfl, rfl, rfl, rfl, fun _ => rfl, fun _ => rfl, rfl, rfl, rfl, fun _ => ⟨rfl, rfl⟩⟩, rfl, rfl, rfl⟩

theorem fromReset_cold : FromReset s.board (coldState s) :=
  ⟨⟨rfl, rfl, rfl, rfl, rfl, rfl, fun _ => rfl, fun _ => rfl, rfl, rfl, rfl, fun _ => ⟨rfl, rfl⟩⟩, rfl, rfl, rfl⟩

end Resets

/-- Settles O50: what a reset clears, then boot with and without a valid image. -/
theorem resetsAndBoot : Obligations.ResetsAndBoot := by
  unfold Obligations.ResetsAndBoot
  intro s b v taken emptied booted held flash
  refine ⟨fun h => congrArg Host.Outcome.next (if_neg h), ?_⟩
  intro whole after region
  have hafter {r : State} (h : FromReset b r) : after r.boot := by
    obtain ⟨hf, he, hw, hn⟩ := h.boot
    obtain ⟨h1, h2, h3, h4, h5, h6, h7, h8, h9, h10, h11, h12⟩ := he
    refine ⟨hf, ⟨h1, h2, h3, h4, h5, h6, h7, h8, h9, h10, h11, h12⟩, fun e => ?_, hn⟩
    obtain ⟨⟨g1, g2, g3, g4, g5⟩, hv⟩ := hw e
    exact ⟨⟨g1, g2, g3, g4, g5⟩, hv⟩
  refine ⟨fun h => ⟨(warmState s).boot, congrArg Host.Outcome.next (if_pos h), boot_keeps.1, boot_keeps.2.2.1, hafter fromReset_warm,
    fun hw a => boot_hbm (s := warmState s) rfl hw a⟩, ?_⟩
  exact ⟨(coldState s).boot, exec_coldReset, hafter fromReset_cold, boot_keeps.2.2.1, boot_keeps.2.2.2⟩

end Sys2Proof.Proofs.Boot
end

section
/-! PROOFS. SHA-256 as the model computes it (R330, R382). -/

namespace Sys2Proof.Proofs.Sha

open Sys2Proof.Machine

/-! ### Constants: the fractions of roots -/

section Constants

theorem rootBits_spec (k x : Nat) {n r : Nat} (h1 : r ^ k ≤ x) (h2 : x < (r + 2 ^ n) ^ k) :
    rootBits k x n r ^ k ≤ x ∧ x < (rootBits k x n r + 1) ^ k := by
  induction n generalizing r with
  | zero => exact ⟨h1, h2⟩
  | succ n ih =>
    rw [rootBits]
    split
    · next h =>
      refine ih h ?_
      rwa [Nat.add_assoc, ← Nat.two_mul, ← Nat.pow_succ']
    · next h => exact ih h1 (Nat.lt_of_not_le h)

theorem rootWord_spec (k p : Nat) (hk : k ≠ 0) (hp : p * 2 ^ (32 * k) < (2 ^ 36) ^ k) : ∃ w : Nat, let r := w * 2 ^ 32 + (rootWord k p).toNat
    r ^ k ≤ p * 2 ^ (32 * k) ∧ p * 2 ^ (32 * k) < (r + 1) ^ k := by
  have h := rootBits_spec k (p * 2 ^ (32 * k)) (n := 36) (r := 0) (by rw [Nat.zero_pow (Nat.pos_of_ne_zero hk)]; exact Nat.zero_le _)
    (by rwa [Nat.zero_add])
  refine ⟨rootBits k (p * 2 ^ (32 * k)) 36 0 / 2 ^ 32, ?_⟩
  rw [rootWord, BitVec.toNat_ofNat, Nat.mul_comm, Nat.div_add_mod]
  exact h

/-- The first 64 primes. -/
def primes : List Nat := [2, 3, 5, 7, 11, 13, 17, 19, 23, 29, 31, 37, 41, 43, 47, 53, 59, 61, 67, 71, 73, 79, 83, 89, 97, 101, 103, 107, 109, 113, 127,
  131, 137, 139, 149, 151, 157, 163, 167, 173, 179, 181, 191, 193, 197, 199, 211, 223, 227, 229, 233, 239, 241, 251, 257, 263, 269,
  271, 277, 281, 283, 293, 307, 311]

theorem shaPrimes_eq : shaPrimes = primes := by decide +kernel

theorem prime_lt (t : Nat) : primes.getD t 0 < 4096 := by
  rw [List.getD_eq_getElem?_getD]
  by_cases h : t < primes.length
  · rw [List.getElem?_eq_getElem h, Option.getD_some]
    have : ∀ p, p ∈ primes → p < 4096 := by decide
    exact this _ (List.getElem_mem h)
  · rw [List.getElem?_eq_none (Nat.not_lt.mp h)]
    exact Nat.zero_lt_succ _

/-- Round constant t. -/
def konst (t : Nat) : Word := shaConstants.getD t 0

theorem shaConstants_eq : shaConstants = primes.map (rootWord 3) := by rw [shaConstants, shaPrimes_eq]

theorem konst_eq {t : Nat} (h : t < 64) : konst t = rootWord 3 (primes.getD t 0) := by
  have hl : t < primes.length := h
  rw [konst, shaConstants_eq, List.getD_eq_getElem _ _ (by rwa [List.length_map]), List.getElem_map, List.getD_eq_getElem _ _ hl]

theorem konst_cube {t : Nat} (h : t < 64) : ∃ w : Nat, let r := w * 2 ^ 32 + (konst t).toNat
    r ^ 3 ≤ primes.getD t 0 * 2 ^ 96 ∧ primes.getD t 0 * 2 ^ 96 < (r + 1) ^ 3 := by
  rw [konst_eq h]
  have := prime_lt t
  exact rootWord_spec 3 _ (by decide) (by omega)

end Constants

/-! ### Words of a state -/

section Words

/-- A state moved up by a word. -/
theorem word_packed (y : BitVec 256) (x : Word) {k : Nat} (h : k < 8) :
    shaWord (y <<< 32 ||| x.setWidth 256) k = if k = 7 then x else shaWord y (k + 1) := by
  refine BitVec.eq_of_getLsbD_eq fun i hi => ?_
  unfold shaWord
  rw [BitVec.getLsbD_extractLsb', BitVec.getLsbD_or, BitVec.getLsbD_shiftLeft, BitVec.getLsbD_setWidth]
  have h1 : 224 - 32 * k + i < 256 := by omega
  split
  · next e =>
    subst e
    have h2 : i < 256 := by omega
    simp [hi, h2]
  · next e =>
    have hx : x.getLsbD (224 - 32 * k + i) = false := BitVec.getLsbD_of_ge _ _ (by omega)
    have hs : 224 - 32 * k + i - 32 = 224 - 32 * (k + 1) + i := by omega
    have hn : ¬ 224 - 32 * k + i < 32 := by omega
    rw [BitVec.getLsbD_extractLsb', hx, hs]
    simp [hi, hn]
    omega

/-- Eight words packed, the first in the highest bits. -/
theorem word_fold (f : Nat → Word) {j : Nat} (h : j < 8) :
    shaWord ((List.range 8).foldl (fun y k => y <<< 32 ||| (f k).setWidth 256) 0) j = f j := by
  have hr : List.range 8 = [0, 1, 2, 3, 4, 5, 6, 7] := rfl
  rw [hr]
  simp only [List.foldl_cons, List.foldl_nil]
  interval_cases j <;> simp only [word_packed _ _ (show 0 < 8 by decide), word_packed _ _ (show 1 < 8 by decide), word_packed _ _ (show 2 < 8 by decide),
    word_packed _ _ (show 3 < 8 by decide), word_packed _ _ (show 4 < 8 by decide), word_packed _ _ (show 5 < 8 by decide),
    word_packed _ _ (show 6 < 8 by decide), word_packed _ _ (show 7 < 8 by decide)] <;> rfl

end Words

/-! ### A round -/

section Rounds

/-- A word of 256 bits between two words of a round's result. -/
theorem word_moved (z : BitVec 256) (u x : Word) : let y : BitVec 256 := u ++ z.extractLsb' 160 96 ++ x ++ z.extractLsb' 32 96
    shaWord y 0 = u ∧ shaWord y 4 = x ∧ ∀ j, j < 8 → j ≠ 0 → j ≠ 4 → shaWord y j = shaWord z (j - 1) := by
  refine ⟨?_, ?_, fun j hj h0 h4 => ?_⟩ <;> refine BitVec.eq_of_getLsbD_eq fun i hi => ?_ <;>
    simp only [shaWord, BitVec.getLsbD_extractLsb', BitVec.getLsbD_append, hi, decide_true, Bool.true_and]
  · rw [if_neg (by omega), if_neg (by omega), if_neg (by omega)]
    exact congrArg u.getLsbD (by omega)
  · rw [if_neg (by omega), if_pos (by omega)]
    exact congrArg x.getLsbD (by omega)
  · by_cases hlow : 4 < j
    · rw [if_pos (by omega), decide_eq_true (by omega), Bool.true_and]
      exact congrArg z.getLsbD (by omega)
    · rw [if_neg (by omega), if_neg (by omega), if_pos (by omega), decide_eq_true (by omega), Bool.true_and]
      exact congrArg z.getLsbD (by omega)

theorem pick_eq (x y z : Word) : z ^^^ (x &&& (y ^^^ z)) = (x &&& y) ^^^ (~~~x &&& z) := by
  refine BitVec.eq_of_getLsbD_eq fun i hi => ?_
  simp only [BitVec.getLsbD_xor, BitVec.getLsbD_and, BitVec.getLsbD_not, hi, decide_true, Bool.true_and]
  cases x.getLsbD i <;> cases y.getLsbD i <;> cases z.getLsbD i <;> rfl

theorem most_eq (x y z : Word) : (x &&& (y ||| z)) ||| (y &&& z) = (x &&& y) ^^^ (x &&& z) ^^^ (y &&& z) := by
  refine BitVec.eq_of_getLsbD_eq fun i hi => ?_
  simp only [BitVec.getLsbD_xor, BitVec.getLsbD_and, BitVec.getLsbD_or]
  cases x.getLsbD i <;> cases y.getLsbD i <;> cases z.getLsbD i <;> rfl

/-- A word turned right by three distances. -/
def turn (x : Word) (a b c : Nat) : Word := x.rotateRight a ^^^ x.rotateRight b ^^^ x.rotateRight c

theorem mix_turn (x : Word) (i j k : Nat) : shaMix x i j (x.rotateRight k) = turn x i j k := by
  unfold shaMix turn
  ac_rfl

/-- The first and the second sum of a round (FIPS 180-4). -/
def sum1 (v : Nat → Word) (k w : Word) : Word := v 7 + turn (v 4) 6 11 25 + ((v 4 &&& v 5) ^^^ (~~~(v 4) &&& v 6)) + k + w
def sum2 (v : Nat → Word) : Word := turn (v 0) 2 13 22 + ((v 0 &&& v 1) ^^^ (v 0 &&& v 2) ^^^ (v 1 &&& v 2))

theorem round_state (wz : List Word × BitVec 256) (k : Word) :
    let v := shaWord wz.2
    let t1 := sum1 v k (wz.1.headD 0)
    let y := (shaRound wz k).2
    shaWord y 0 = t1 + sum2 v ∧ shaWord y 4 = v 3 + t1 ∧ ∀ j, j < 8 → j ≠ 0 → j ≠ 4 → shaWord y j = v (j - 1) := by
  obtain ⟨w, z⟩ := wz
  have ht : k + w.headD 0 + (shaWord z 6 ^^^ (shaWord z 4 &&& (shaWord z 5 ^^^ shaWord z 6))) + shaWord z 7 +
      shaMix (shaWord z 4) 6 11 ((shaWord z 4).rotateRight 25) = sum1 (shaWord z) k (w.headD 0) := by
    rw [pick_eq, mix_turn, sum1]
    ac_rfl
  have hu : sum1 (shaWord z) k (w.headD 0) + (shaWord z 0 &&& (shaWord z 1 ||| shaWord z 2) ||| shaWord z 1 &&& shaWord z 2) +
      shaMix (shaWord z 0) 2 13 ((shaWord z 0).rotateRight 22) = sum1 (shaWord z) k (w.headD 0) + sum2 (shaWord z) := by
    rw [most_eq, mix_turn, sum2]
    ac_rfl
  have hz : (shaRound (w, z) k).2 = (sum1 (shaWord z) k (w.headD 0) + sum2 (shaWord z)) ++ z.extractLsb' 160 96 ++
      (shaWord z 3 + sum1 (shaWord z) k (w.headD 0)) ++ z.extractLsb' 32 96 := by
    rw [← hu, ← ht]
    rfl
  show shaWord (shaRound (w, z) k).2 0 = _ ∧ shaWord (shaRound (w, z) k).2 4 = _ ∧
    ∀ j, j < 8 → j ≠ 0 → j ≠ 4 → shaWord (shaRound (w, z) k).2 j = shaWord z (j - 1)
  rw [hz]
  exact word_moved _ _ _

/-- The next word of the schedule. -/
def nextWord (w : List Word) : Word :=
  shaMix (w.getD 14 0) 17 19 (w.getD 14 0 >>> 10) + w.getD 9 0 + shaMix (w.getD 1 0) 7 18 (w.getD 1 0 >>> 3) + w.headD 0

theorem round_window (wz : List Word × BitVec 256) (k : Word) : (shaRound wz k).1 = wz.1.drop 1 ++ [nextWord wz.1] := rfl

end Rounds

/-! ### The rounds of a block -/

section Block

variable (wz : List Word × BitVec 256)

/-- The window of the schedule and the state after t rounds. -/
def rounds : Nat → List Word × BitVec 256
  | 0 => wz
  | t + 1 => shaRound (rounds t) (konst t)

theorem fold_rounds : shaConstants.foldl shaRound wz = rounds wz 64 := by
  have hl : shaConstants = (List.range 64).map konst := by
    refine List.ext_getElem (by rw [shaConstants_eq, List.length_map, List.length_map, List.length_range]; rfl) fun i h1 h2 => ?_
    rw [List.getElem_map, List.getElem_range, konst, List.getD_eq_getElem _ _ h1]
  have hr (n : Nat) : ((List.range n).map konst).foldl shaRound wz = rounds wz n := by
    induction n with
    | zero => rfl
    | succ n ih =>
      rw [List.range_succ, List.map_append, List.foldl_append, ih]
      rfl
  rw [hl, hr]

/-- Word t of the schedule. -/
def sched (t : Nat) : Word := (rounds wz t).1.getD 0 0

variable {wz}

theorem length_window (h : wz.1.length = 16) (t : Nat) : (rounds wz t).1.length = 16 := by
  induction t with
  | zero => exact h
  | succ t ih =>
    rw [rounds, round_window, List.length_append, List.length_drop, ih]
    rfl

theorem window_shift (h : wz.1.length = 16) (t : Nat) {i : Nat} (hi : i < 15) :
    (rounds wz (t + 1)).1.getD i 0 = (rounds wz t).1.getD (i + 1) 0 := by
  have hl := length_window h t
  rw [rounds, round_window, List.getD_eq_getElem?_getD, List.getD_eq_getElem?_getD,
    List.getElem?_append_left (by rw [List.length_drop, hl]; exact hi), List.getElem?_drop, Nat.add_comm 1 i]

theorem window_last (h : wz.1.length = 16) (t : Nat) : (rounds wz (t + 1)).1.getD 15 0 = nextWord (rounds wz t).1 := by
  have hl : ((rounds wz t).1.drop 1).length = 15 := by rw [List.length_drop, length_window h t]
  rw [rounds, round_window, List.getD_eq_getElem?_getD, List.getElem?_append_right (by rw [hl]), hl]
  rfl

theorem window_sched (h : wz.1.length = 16) (t : Nat) {i : Nat} (hi : i < 16) : (rounds wz t).1.getD i 0 = sched wz (t + i) := by
  induction i generalizing t with
  | zero => rfl
  | succ i ih => rw [← window_shift h t (by omega), ih (t + 1) (by omega), Nat.add_right_comm t 1 i, Nat.add_assoc]

theorem sched_first (h : wz.1.length = 16) {t : Nat} (ht : t < 16) : sched wz t = wz.1.getD t 0 := by
  rw [← Nat.zero_add t, ← window_sched h 0 ht, Nat.zero_add]
  rfl

theorem sched_next (h : wz.1.length = 16) {t : Nat} (h16 : 16 ≤ t) : sched wz t =
    ((sched wz (t - 2)).rotateRight 17 ^^^ (sched wz (t - 2)).rotateRight 19 ^^^ (sched wz (t - 2) >>> 10)) + sched wz (t - 7) +
      ((sched wz (t - 15)).rotateRight 7 ^^^ (sched wz (t - 15)).rotateRight 18 ^^^ (sched wz (t - 15) >>> 3)) + sched wz (t - 16) := by
  obtain ⟨n, rfl⟩ : ∃ n, t = n + 16 := ⟨t - 16, by omega⟩
  have hw {i : Nat} (hi : i < 16) := window_sched h n hi
  have hn : sched wz (n + 16) = nextWord (rounds wz n).1 :=
    (congrArg (sched wz) (show n + 16 = n + 1 + 15 by omega)).trans ((window_sched h (n + 1) (by decide)).symm.trans (window_last h n))
  have h0 : (rounds wz n).1.headD 0 = (rounds wz n).1.getD 0 0 := by cases (rounds wz n).1 <;> rfl
  have e2 : n + 16 - 2 = n + 14 := by omega
  have e7 : n + 16 - 7 = n + 9 := by omega
  have e15 : n + 16 - 15 = n + 1 := by omega
  have e16 : n + 16 - 16 = n + 0 := by omega
  rw [hn, e2, e7, e15, e16, ← hw (by decide), ← hw (by decide), ← hw (by decide), ← hw (by decide), nextWord, h0, shaMix, shaMix]
  generalize (rounds wz n).1.getD 14 0 = x
  generalize (rounds wz n).1.getD 9 0 = y
  generalize (rounds wz n).1.getD 1 0 = z
  generalize (rounds wz n).1.getD 0 0 = w
  ac_rfl

theorem block_word (z : BitVec 256) (b : List Byte) {j : Nat} (h : j < 8) :
    let w := (List.range 16).map (fun i => BitVec.ofNat 32 (natOfBytes ((b.drop (4 * i)).take 4).reverse))
    shaWord (shaBlock z b) j = shaWord z j + shaWord (rounds (w, z) 64).2 j := by
  intro w
  rw [← fold_rounds]
  exact word_fold (fun k => shaWord z k + shaWord (shaConstants.foldl shaRound (w, z)).2 k) h

theorem word_start {j : Nat} (h : j < 8) : shaWord shaStart j = rootWord 2 (primes.getD j 0) := by
  have hp : primes.take 8 = (List.range 8).map fun k => primes.getD k 0 := by decide
  rw [shaStart, shaPrimes_eq, hp, List.foldl_map]
  exact word_fold (fun k => rootWord 2 (primes.getD k 0)) h

theorem start_square {j : Nat} (h : j < 8) : ∃ w : Nat, let r := w * 2 ^ 32 + (shaWord shaStart j).toNat
    r ^ 2 ≤ primes.getD j 0 * 2 ^ 64 ∧ primes.getD j 0 * 2 ^ 64 < (r + 1) ^ 2 := by
  have hp : primes.getD j 0 < 64 := (by decide : ∀ j, j < 8 → primes.getD j 0 < 64) j h
  rw [word_start h]
  exact rootWord_spec 2 _ (by decide) (by omega)

end Block

/-! ### The padded message -/

section Message

/-- The message with its padding. -/
def padded (bs : List Byte) : List Byte :=
  bs ++ 0x80 :: (List.replicate ((119 - bs.length % 64) % 64) 0 ++ (bytesOfNat 8 (8 * bs.length)).reverse)

/-- The blocks of a message. -/
def blocks (bs : List Byte) : Nat := (bs.length + 72) / 64

theorem getD_bytesOfNat {n i : Nat} (x : Nat) (h : i < n) : (bytesOfNat n x).getD i 0 = BitVec.ofNat 8 (x / 256 ^ i) := by
  induction n generalizing x i with
  | zero => omega
  | succ n ih =>
    rw [bytesOfNat]
    cases i with
    | zero => rw [List.getD_cons_zero, Nat.pow_zero, Nat.div_one]
    | succ i => rw [List.getD_cons_succ, ih _ (by omega), Nat.div_div_eq_div_mul, ← Nat.pow_succ']

theorem getD_reverse {l : List Byte} {i : Nat} (h : i < l.length) : l.reverse.getD i 0 = l.getD (l.length - 1 - i) 0 := by
  rw [List.getD_eq_getElem?_getD, List.getElem?_reverse h, List.getD_eq_getElem?_getD]

theorem length_padded (bs : List Byte) : (padded bs).length = 64 * blocks bs := by
  rw [padded, List.length_append, List.length_cons, List.length_append, List.length_replicate, List.length_reverse, HostProtocol.length_bytesOfNat,
    blocks]
  omega

theorem getD_padded (bs : List Byte) {m : Nat} (h : m < 64 * blocks bs) : (padded bs).getD m 0 =
    if m < bs.length then bs.getD m 0 else if m = bs.length then 0x80 else if m + 8 < 64 * blocks bs then 0
      else BitVec.ofNat 8 (8 * bs.length / 256 ^ (64 * blocks bs - 1 - m)) := by
  have hl := length_padded bs
  rw [padded, List.length_append, List.length_cons, List.length_append, List.length_replicate, List.length_reverse, HostProtocol.length_bytesOfNat] at hl
  rw [padded, List.getD_eq_getElem?_getD]
  split
  · next h1 => rw [List.getElem?_append_left h1, List.getD_eq_getElem?_getD]
  · next h1 =>
    rw [List.getElem?_append_right (Nat.not_lt.mp h1)]
    split
    · next h2 => rw [h2, Nat.sub_self]; rfl
    · next h2 =>
      obtain ⟨i, hi⟩ : ∃ i, m - bs.length = i + 1 := ⟨m - bs.length - 1, by omega⟩
      rw [hi, List.getElem?_cons_succ]
      split
      · next h3 =>
        rw [List.getElem?_append_left (by rw [List.length_replicate]; omega), List.getElem?_replicate, if_pos (by omega)]
        rfl
      · next h3 =>
        rw [List.getElem?_append_right (by rw [List.length_replicate]; omega), List.length_replicate, ← List.getD_eq_getElem?_getD, getD_reverse,
          HostProtocol.length_bytesOfNat, getD_bytesOfNat]
        · congr 3
          omega
        · omega
        · rw [HostProtocol.length_bytesOfNat]
          omega

/-- Four bytes as a big-endian word. -/
theorem bigEndian (a b c d : Byte) : BitVec.ofNat 32 (natOfBytes [a, b, c, d].reverse) = a ++ b ++ c ++ d := by
  refine BitVec.eq_of_toNat_eq ?_
  have ha := a.isLt
  have hb := b.isLt
  have hc := c.isLt
  have hd := d.isLt
  rw [BitVec.toNat_append, ← Nat.shiftLeft_add_eq_or_of_lt hd, BitVec.toNat_append, ← Nat.shiftLeft_add_eq_or_of_lt hc, BitVec.toNat_append,
    ← Nat.shiftLeft_add_eq_or_of_lt hb, BitVec.toNat_ofNat]
  simp only [List.reverse_cons, List.reverse_nil, List.nil_append, List.cons_append, natOfBytes, Nat.shiftLeft_eq]
  omega

/-- Block k of a message. -/
def blockOf (bs : List Byte) (k : Nat) : List Byte := ((padded bs).drop (64 * k)).take 64

/-- The words of a block. -/
def wordsOf (b : List Byte) : List Word := (List.range 16).map fun i => BitVec.ofNat 32 (natOfBytes ((b.drop (4 * i)).take 4).reverse)

theorem take_four (l : List Byte) (h : 4 ≤ l.length) : l.take 4 = [l.getD 0 0, l.getD 1 0, l.getD 2 0, l.getD 3 0] := by
  match l, h with
  | a :: b :: c :: d :: l, _ => rfl

theorem getD_blockOf (bs : List Byte) (k : Nat) {i j : Nat} (h : i + j < 64) :
    ((blockOf bs k).drop i).getD j 0 = (padded bs).getD (64 * k + i + j) 0 := by
  rw [blockOf, List.getD_eq_getElem?_getD, List.getElem?_drop, List.getElem?_take, if_pos h, List.getElem?_drop, List.getD_eq_getElem?_getD,
    Nat.add_assoc]

theorem getD_wordsOf (bs : List Byte) {k t : Nat} (hk : k < blocks bs) (ht : t < 16) : let g := fun j => (padded bs).getD (64 * k + 4 * t + j) 0
    (wordsOf (blockOf bs k)).getD t 0 = g 0 ++ g 1 ++ g 2 ++ g 3 := by
  have hl := length_padded bs
  have h4 : 4 ≤ ((blockOf bs k).drop (4 * t)).length := by
    rw [blockOf, List.length_drop, List.length_take, List.length_drop]
    omega
  rw [wordsOf, List.getD_eq_getElem _ _ (by rwa [List.length_map, List.length_range]), List.getElem_map, List.getElem_range, take_four _ h4,
    bigEndian, getD_blockOf _ _ (by omega), getD_blockOf _ _ (by omega), getD_blockOf _ _ (by omega), getD_blockOf _ _ (by omega)]

/-- The state before block k, from a first one. -/
def hashFrom (z : BitVec 256) (bs : List Byte) (k : Nat) : BitVec 256 := (List.range k).foldl (fun z k => shaBlock z (blockOf bs k)) z

theorem hashFrom_zero (z : BitVec 256) (bs : List Byte) : hashFrom z bs 0 = z := rfl

theorem hashFrom_succ (z : BitVec 256) (bs : List Byte) (k : Nat) : hashFrom z bs (k + 1) = shaBlock (hashFrom z bs k) (blockOf bs k) := by
  rw [hashFrom, hashFrom, List.range_succ, List.foldl_append, List.foldl_cons, List.foldl_nil]

theorem padded_fold (z : BitVec 256) (bs : List Byte) : (List.range ((padded bs).length / 64)).foldl
    (fun z k => shaBlock z (((padded bs).drop (64 * k)).take 64)) z = hashFrom z bs (blocks bs) := by
  rw [length_padded, Nat.mul_div_cancel_left _ (by decide), hashFrom]
  simp only [blockOf]

/-- The state before block k (R330). -/
def hash (bs : List Byte) (k : Nat) : BitVec 256 := hashFrom shaStart bs k

theorem hash_zero (bs : List Byte) : hash bs 0 = shaStart := hashFrom_zero _ _
theorem hash_succ (bs : List Byte) (k : Nat) : hash bs (k + 1) = shaBlock (hash bs k) (blockOf bs k) := hashFrom_succ _ _ _
theorem shaValue_eq (bs : List Byte) : shaValue bs = hash bs (blocks bs) := padded_fold shaStart bs

theorem length_sha256 (bs : List Byte) : (sha256 bs).length = 32 := by rw [sha256, List.length_reverse, HostProtocol.length_bytesOfNat]

theorem getD_sha256 (bs : List Byte) {j m : Nat} (hj : j < 8) (hm : m < 4) :
    (sha256 bs).getD (4 * j + m) 0 = (shaWord (hash bs (blocks bs)) j).extractLsb' (24 - 8 * m) 8 := by
  have hl := HostProtocol.length_bytesOfNat 32 (shaValue bs).toNat
  rw [sha256, getD_reverse (by rw [hl]; omega), hl, getD_bytesOfNat _ (by omega), ← shaValue_eq]
  refine BitVec.eq_of_getLsbD_eq fun i hi => ?_
  have he : 256 ^ (32 - 1 - (4 * j + m)) = 2 ^ (8 * (31 - 4 * j - m)) := by rw [Nat.pow_mul]; congr 1; omega
  rw [shaWord, BitVec.getLsbD_extractLsb', BitVec.getLsbD_extractLsb', BitVec.getLsbD_ofNat, he, Nat.testBit_div_two_pow, decide_eq_true hi,
    decide_eq_true (by omega), Bool.true_and, Bool.true_and, Bool.true_and, BitVec.testBit_toNat]
  congr 1
  omega

end Message

/-- SHA-256 as FIPS 180-4 gives it: the constants, the schedule, the rounds and the digest (R330). -/
theorem sha256_spec (bs : List Byte) :
    ∃ (K : Nat → Word) (H : Nat → Nat → Word) (W : Nat → Nat → Word) (V : Nat → Nat → Nat → Word),
      (∀ t, t < 64 → ∃ w : Nat, let r := w * 2 ^ 32 + (K t).toNat
        r ^ 3 ≤ primes.getD t 0 * 2 ^ 96 ∧ primes.getD t 0 * 2 ^ 96 < (r + 1) ^ 3) ∧
      (∀ j, j < 8 → ∃ w : Nat, let r := w * 2 ^ 32 + (H 0 j).toNat
        r ^ 2 ≤ primes.getD j 0 * 2 ^ 64 ∧ primes.getD j 0 * 2 ^ 64 < (r + 1) ^ 2) ∧
      (∀ k, k < blocks bs →
        (∀ t, t < 16 → let g := fun j => (padded bs).getD (64 * k + 4 * t + j) 0
          W k t = g 0 ++ g 1 ++ g 2 ++ g 3) ∧
        (∀ t, 16 ≤ t → t < 64 → W k t = ((W k (t - 2)).rotateRight 17 ^^^ (W k (t - 2)).rotateRight 19 ^^^ (W k (t - 2) >>> 10)) + W k (t - 7) +
          ((W k (t - 15)).rotateRight 7 ^^^ (W k (t - 15)).rotateRight 18 ^^^ (W k (t - 15) >>> 3)) + W k (t - 16)) ∧
        (∀ j, j < 8 → V k 0 j = H k j ∧ H (k + 1) j = H k j + V k 64 j) ∧
        ∀ t, t < 64 → let t1 := sum1 (V k t) (K t) (W k t)
          V k (t + 1) 0 = t1 + sum2 (V k t) ∧ V k (t + 1) 4 = V k t 3 + t1 ∧ ∀ j, j < 8 → j ≠ 0 → j ≠ 4 → V k (t + 1) j = V k t (j - 1)) ∧
      ∀ j m, j < 8 → m < 4 → (sha256 bs).getD (4 * j + m) 0 = (H (blocks bs) j).extractLsb' (24 - 8 * m) 8 := by
  have hlen (k : Nat) : (wordsOf (blockOf bs k)).length = 16 := by rw [wordsOf, List.length_map, List.length_range]
  refine ⟨konst, fun k j => shaWord (hash bs k) j, fun k t => sched (wordsOf (blockOf bs k), hash bs k) t,
    fun k t j => shaWord (rounds (wordsOf (blockOf bs k), hash bs k) t).2 j, fun t ht => konst_cube ht, fun j hj => ?_,
    fun k hk => ⟨fun t ht => (sched_first (hlen k) ht).trans (getD_wordsOf bs hk ht), fun t h16 _ => sched_next (hlen k) h16,
      fun j hj => ⟨rfl, ?_⟩, fun t _ => ?_⟩, fun j m hj hm => getD_sha256 bs hj hm⟩
  · dsimp only
    rw [hash_zero]
    exact start_square hj
  · dsimp only
    rw [hash_succ]
    exact block_word (hash bs k) (blockOf bs k) hj
  · have h0 : sched (wordsOf (blockOf bs k), hash bs k) t = (rounds (wordsOf (blockOf bs k), hash bs k) t).1.headD 0 := by
      rw [sched]
      cases (rounds (wordsOf (blockOf bs k), hash bs k) t).1 <;> rfl
    dsimp only
    rw [h0]
    exact round_state (rounds (wordsOf (blockOf bs k), hash bs k) t) (konst t)

end Sys2Proof.Proofs.Sha
end

section
/-! PROOFS. `DIGEST` and `DCHK` (R330, R395, R396). -/

namespace Sys2Proof.Proofs.Digests

open Sys2Proof.Machine
open Sys2Proof.Safety
open Sys2Proof.Proofs.Traps
open Sys2Proof.Proofs.Ready
open Sys2Proof.Proofs.Groups
open Sys2Proof.Proofs.Tokens
open Sys2Proof.Proofs.Landings
open Sys2Proof.Proofs.Streams
open Sys2Proof.Proofs.HostProtocol
open Sys2Proof.Proofs.Loader
open Sys2Proof.Proofs.Sha

/-! ### `DIGEST` (R330) -/

section Digest

variable {s : State} {c x : Nat} {d a b : Reg}

/-- A thread once its `DIGEST` of a range has issued. -/
def digesting (t : Ctx) (m : Memory) (d ea n : Nat) : Ctx :=
  { t with
    prog := (((t.prog.markEmpty d).markEmpty (d + 1)).markEmpty (d + 2)).markEmpty (d + 3)
    digests := t.digests ++ [⟨d, BitVec.ofNat 256 (natOfBytes (sha256 (m.readBytes ea n)))⟩] }

/-- What `DIGEST` does once its registers are ready. -/
def digestRes (s : State) (q : Seqr) (d a b : Reg) : Res :=
  if (s.getS q b).toNat ≠ 0 ∧ spadTop < (s.getS q a).toNat + (s.getS q b).toNat - 1 then .trap .spbound (s.getS q a)
  else if (s.getS q b).toNat ≠ 0 ∧ s.lineBusy q (s.getS q a).toNat (s.getS q b).toNat then .stall
  else .retire (s.setThread q (digesting (s.thread q) (s.core q.core).spad d.toNat (s.getS q a).toNat (s.getS q b).toNat))

theorem exec_digest : exec (.digest d a b) s = issue s 1 .any fun q s =>
    s.ready q [srcS a, srcS b] [srcS d, srcS (d + 1), srcS (d + 2), srcS (d + 3)] (digestRes s q d a b) := rfl

theorem past_end {ea n : Nat} : (n ≠ 0 ∧ spadTop < ea + n - 1) ↔ ¬ (n = 0 ∨ ea + n ≤ 0xC0000) := by
  show (n ≠ 0 ∧ 0xBFFFF < ea + n - 1) ↔ _
  omega

/-- The state once the `DIGEST` of the running thread has issued. -/
def issued (s : State) (d a b : Reg) : State := (fresh s).setThread s.cur
  (digesting (s.thread s.cur) (s.core s.cur.core).spad d.toNat (s.getS s.cur a).toNat (s.getS s.cur b).toNat)

theorem issued_thread (h : s.cur = .thread c x) : issued s d a b = (fresh s).setCtx c x
    (digesting (s.ctx c x) (s.core c).spad d.toNat (s.getS s.cur a).toNat (s.getS s.cur b).toNat) := by
  have ht : s.thread s.cur = s.ctx c x := by rw [h]; rfl
  have hc : s.cur.core = c := by rw [h]; rfl
  have hs (t : Ctx) : (fresh s).setThread s.cur t = (fresh s).setCtx c x t := by rw [h]; rfl
  rw [issued, ht, hc, hs]

theorem digestRes_fresh : digestRes (fresh s) s.cur d a b =
    if (s.getS s.cur b).toNat ≠ 0 ∧ spadTop < (s.getS s.cur a).toNat + (s.getS s.cur b).toNat - 1 then .trap .spbound (s.getS s.cur a)
    else if (s.getS s.cur b).toNat ≠ 0 ∧ s.lineBusy s.cur (s.getS s.cur a).toNat (s.getS s.cur b).toNat then .stall
    else .retire (issued s d a b) := by
  simp only [digestRes, fresh_getS, fresh_thread, fresh_core]
  rfl

/-- A range within the scratchpad (R330). -/
def InPad (ea n : Nat) : Prop := n = 0 ∨ ea + n ≤ 0xC0000

theorem digest_traps (hs : Stands s 1 .any) (hr : RegsReady s [srcS a, srcS b, srcS d, srcS (d + 1), srcS (d + 2), srcS (d + 3)])
    (h : ¬ InPad (s.getS s.cur a).toNat (s.getS s.cur b).toNat) : Traps (.digest d a b) s .spbound (s.getS s.cur a) :=
  traps_of_ready (srcs := [srcS a, srcS b]) _ exec_digest rfl hs hr (digestRes_fresh.trans (if_pos (past_end.mpr h)))

theorem digest_stalls (hs : Stands s 1 .any) (hr : RegsReady s [srcS a, srcS b, srcS d, srcS (d + 1), srcS (d + 2), srcS (d + 3)])
    (h : InPad (s.getS s.cur a).toNat (s.getS s.cur b).toNat) (hn : (s.getS s.cur b).toNat ≠ 0)
    (hb : s.lineBusy s.cur (s.getS s.cur a).toNat (s.getS s.cur b).toNat = true) : Stalls (.digest d a b) s :=
  stalls_of_ready (srcs := [srcS a, srcS b]) _ exec_digest rfl hs hr
    (digestRes_fresh.trans ((if_neg fun e => past_end.mp e h).trans (if_pos ⟨hn, hb⟩)))

theorem digest_retires (hs : Stands s 1 .any) (hr : RegsReady s [srcS a, srcS b, srcS d, srcS (d + 1), srcS (d + 2), srcS (d + 3)])
    (h : InPad (s.getS s.cur a).toNat (s.getS s.cur b).toNat)
    (hb : (s.getS s.cur b).toNat = 0 ∨ s.lineBusy s.cur (s.getS s.cur a).toNat (s.getS s.cur b).toNat = false) :
    Retires (.digest d a b) s 1 (issued s d a b) := by
  refine retires_of_ready (srcs := [srcS a, srcS b]) _ exec_digest rfl hs hr (digestRes_fresh.trans ((if_neg fun e => past_end.mp e h).trans (if_neg fun e => ?_)))
  rcases hb with hb | hb
  · exact e.1 hb
  · exact absurd (hb.symm.trans e.2) (by decide)

end Digest

/-! ### Results land in registers (R12) -/

section Fills

variable (p : Prog) (v : DWord) {m n : Nat}

theorem fillS_other (hn : n < 64) (h : n ≠ m) : (p.fillS m v).getS n = p.getS n ∧ (p.fillS m v).isEmptyS n = p.isEmptyS n := by
  constructor
  · unfold Prog.fillS Prog.getS Prog.setS
    split
    · rfl
    · by_cases hz : m = 0
      · rw [if_pos hz]
      · rw [if_neg hz]
        exact SMap.get_set_of_ne _ _ h _
  · unfold Prog.isEmptyS Prog.fillS
    rw [getLsbD_full, decide_eq_true h, Bool.and_true]

/-- Parts of a 256-bit number land in registers. -/
def fillParts (p : Prog) (reg : Nat) (g : BitVec 256) (ks : List Nat) : Prog :=
  ks.foldl (fun p k => p.fillS (reg + k) (g.extractLsb' (64 * k) 64)) p

/-- A register holds its part where it is given one, and is as before elsewhere. -/
theorem fillParts_reads (p : Prog) {reg : Nat} (g : BitVec 256) {n : Nat} (h0 : 0 < reg) (hr : reg + 3 < 64) (hn : n < 64) (ks : List Nat)
    (hks : ∀ k, k ∈ ks → k < 4) :
    (∀ k, k ∈ ks → n = reg + k → (fillParts p reg g ks).getS n = g.extractLsb' (64 * k) 64 ∧ (fillParts p reg g ks).isEmptyS n = false) ∧
      ((∀ k, k ∈ ks → n ≠ reg + k) → (fillParts p reg g ks).getS n = p.getS n ∧ (fillParts p reg g ks).isEmptyS n = p.isEmptyS n) := by
  induction ks using List.reverseRecOn with
  | nil => exact ⟨fun k hk => (List.not_mem_nil hk).elim, fun _ => ⟨rfl, rfl⟩⟩
  | append_singleton ks j ih =>
    obtain ⟨ih1, ih2⟩ := ih fun k hk => hks k (List.mem_append_left _ hk)
    have hj : j < 4 := hks j (List.mem_append_right _ List.mem_cons_self)
    have hstep : fillParts p reg g (ks ++ [j]) = (fillParts p reg g ks).fillS (reg + j) (g.extractLsb' (64 * j) 64) := by
      rw [fillParts, List.foldl_append]
      rfl
    rw [hstep]
    by_cases e : n = reg + j
    · subst e
      obtain ⟨hv, he⟩ := fillS_reads (fillParts p reg g ks) (g.extractLsb' (64 * j) 64) hn
      rw [if_neg (by omega)] at hv
      refine ⟨fun k _ hk => ?_, fun h => absurd rfl (h j (List.mem_append_right _ List.mem_cons_self))⟩
      obtain rfl : j = k := by omega
      exact ⟨hv, he⟩
    · obtain ⟨hv, he⟩ := fillS_other (fillParts p reg g ks) (g.extractLsb' (64 * j) 64) (m := reg + j) hn e
      rw [hv, he]
      refine ⟨fun k hk hkn => ?_, fun h => ih2 fun k hk => h k (List.mem_append_left _ hk)⟩
      rcases List.mem_append.mp hk with hk | hk
      · exact ih1 k hk hkn
      · exact absurd (List.mem_singleton.mp hk ▸ hkn) e

end Fills

/-! ### DIGEST_LANDS (R330) -/

section Lands

variable {s : State}

theorem fillReg_setCtx (c x reg : Nat) (v : DWord) (t : Ctx) :
    (s.setCtx c x t).fillReg c x reg v = s.setCtx c x { t with prog := t.prog.fillS reg v } := by
  show ((s.setCtx c x t).setProg (.thread c x) (((s.setCtx c x t).prog (.thread c x)).fillS reg v)) = _
  simp only [State.setProg, State.prog, State.ctx_setCtx_self, setCtx_setCtx]

theorem fill_fold (c x reg : Nat) (g : BitVec 256) (t : Ctx) (ks : List Nat) :
    ks.foldl (fun s k => s.fillReg c x (reg + k) (g.extractLsb' (64 * k) 64)) (s.setCtx c x t) =
      s.setCtx c x { t with prog := fillParts t.prog reg g ks } := by
  induction ks generalizing t with
  | nil => rfl
  | cons k ks ih => rw [List.foldl_cons, fillReg_setCtx, ih]; rfl

theorem exec_digestLands {g : DigestPend} {r : List DigestPend} (h : (s.ctx s.target.core s.target.unit).digests = g :: r) :
    exec .digestLands s = .next (s.setCtx s.target.core s.target.unit { s.ctx s.target.core s.target.unit with
      digests := r, prog := fillParts (s.ctx s.target.core s.target.unit).prog g.reg g.digest [0, 1, 2, 3] }) := by
  show execDigestLands s = _
  unfold execDigestLands
  simp only [h]
  exact congrArg Host.Outcome.next (fill_fold _ _ _ _ _ _)

end Lands

/-! ### `DCHK` (R395, R396) -/

section Dchk

variable {s u : State} {c x : Nat} {d a b : Reg} {q : Seqr}

/-- What `DCHK` does once its registers are ready. -/
def dchkRes (s : State) (q : Seqr) (d a b : Reg) : Res :=
  if (s.getS q b).toNat % 16 ≠ 0 then .trap .align (s.getS q b)
  else if spadTop < (s.getS q b).toNat + 63 then .trap .spbound (s.getS q b)
  else if s.lineBusy q (s.getS q b).toNat 64 then .stall
  else if s.dchkReady q.core (s.getS q b).toNat then .retire (s.dchkCompare q d.toNat a.toNat (s.getS q b).toNat)
  else .whole (s.holdOn q (.dchk d.toNat a.toNat (s.getS q b)))

theorem exec_dchk : exec (.dchk d a b) s = issue s 1 .any fun q s =>
    s.ready q [srcS a, srcS (a + 1), srcS (a + 2), srcS (a + 3), srcS b] [srcS d] (dchkRes s q d a b) := rfl

/-- The digest that a program holds in four registers, and the peer's in its exchange area. -/
def ownDigest (p : Prog) (src : Nat) : List Byte := ((List.range 4).map fun i => bytesOfNat 8 (p.getS (src + i)).toNat).flatten

/-- The digests agree (R395). -/
def Agree (m : Memory) (p : Prog) (src area : Nat) : Prop :=
  m.readN area 8 / 2 ^ 62 % 2 = 0 ∧ m.readN area 8 % 2 ^ 32 = 32 ∧ ownDigest p src = m.readBytes (area + 32) 32

theorem agree_iff (m : Memory) (p : Prog) (src area : Nat) :
    (!(m.readN area 8).testBit 62 && m.readN area 8 % 2 ^ 32 == 32 && ownDigest p src == m.readBytes (area + 32) 32) = true ↔ Agree m p src area := by
  rw [Bool.and_eq_true, Bool.and_eq_true, beq_iff_eq, beq_iff_eq, Bool.not_eq_true', Nat.testBit_eq_decide_div_mod_eq, decide_eq_false_iff_not, Agree,
    and_assoc]
  have : (¬ m.readN area 8 / 2 ^ 62 % 2 = 1) ↔ m.readN area 8 / 2 ^ 62 % 2 = 0 := by omega
  rw [this]

theorem compare_agree {n : Nat} (h : Agree (s.core q.core).spad (s.prog q) a.toNat n) :
    s.dchkCompare q d.toNat a.toNat n = s.setS q d 0 := if_pos ((agree_iff _ _ _ _).mpr h)

/-- HBM once two digests differ: both stand in the core's outbound window (R396). -/
def reported (s : State) (q : Seqr) (src area : Nat) : Memory :=
  s.hbm.writeBytes (windowPa q.core) (ownDigest (s.prog q) src ++ (s.core q.core).spad.readBytes (area + 32) 32)

/-- The state once two digests differ, before the cause is pending (R395, R396). -/
def halted (s : State) (q : Seqr) (src area : Nat) : State :=
  { s with hbm := reported s q src area }.setCore q.core { s.core q.core with queuesHalted := true }

theorem compare_differ {n : Nat} (h : ¬ Agree (s.core q.core).spad (s.prog q) a.toNat n) :
    s.dchkCompare q d.toNat a.toNat n = (halted s q a.toNat n).postAll q.core ⟨.digest, BitVec.ofNat 64 n⟩ :=
  if_neg fun e => h ((agree_iff _ _ _ _).mp e)

theorem ownDigest_eq (p : Prog) (src : Nat) : ownDigest p src =
    bytesOfNat 8 (p.getS (src + 0)).toNat ++ (bytesOfNat 8 (p.getS (src + 1)).toNat ++
      (bytesOfNat 8 (p.getS (src + 2)).toNat ++ bytesOfNat 8 (p.getS (src + 3)).toNat)) := by
  unfold ownDigest
  rw [show List.range 4 = [0, 1, 2, 3] from rfl]
  simp only [List.map_cons, List.map_nil, List.flatten_cons, List.flatten_nil, List.append_nil]

theorem length_ownDigest (p : Prog) (src : Nat) : (ownDigest p src).length = 32 := by
  simp only [ownDigest_eq, List.length_append, length_bytesOfNat]

theorem getD_append_bytes (x : Nat) (l : List Byte) (j : Nat) :
    (bytesOfNat 8 x ++ l).getD j 0 = if j < 8 then BitVec.ofNat 8 (x / 256 ^ j) else l.getD (j - 8) 0 := by
  have hl := length_bytesOfNat 8 x
  split
  · next h => rw [List.getD_append _ _ _ _ (by rwa [hl]), getD_bytesOfNat _ h]
  · next h => rw [List.getD_append_right _ _ _ _ (by rw [hl]; omega), hl]

/-- Byte j of a digest held in four registers. -/
theorem getD_ownDigest (p : Prog) (src : Nat) {j : Nat} (h : j < 32) :
    (ownDigest p src).getD j 0 = BitVec.ofNat 8 ((p.getS (src + j / 8)).toNat / 256 ^ (j % 8)) := by
  rw [ownDigest_eq, getD_append_bytes, getD_append_bytes, getD_append_bytes]
  have h8 (i : Nat) (h1 : 8 * i ≤ j) (h2 : j < 8 * i + 8) : j / 8 = i ∧ j % 8 = j - 8 * i := by omega
  by_cases h1 : j < 8
  · rw [if_pos h1, (h8 0 (by omega) (by omega)).1, (h8 0 (by omega) (by omega)).2]
    rfl
  · by_cases h2 : j - 8 < 8
    · rw [if_neg h1, if_pos h2, (h8 1 (by omega) (by omega)).1, (h8 1 (by omega) (by omega)).2]
    · by_cases h3 : j - 8 - 8 < 8
      · rw [if_neg h1, if_neg h2, if_pos h3, (h8 2 (by omega) (by omega)).1, (h8 2 (by omega) (by omega)).2, Nat.sub_sub]
      · rw [if_neg h1, if_neg h2, if_neg h3, getD_bytesOfNat _ (by omega), (h8 3 (by omega) (by omega)).1, (h8 3 (by omega) (by omega)).2, Nat.sub_sub,
          Nat.sub_sub]

theorem length_readBytes (m : Memory) (a n : Nat) : (m.readBytes a n).length = n := by
  induction n generalizing a with
  | zero => rfl
  | succ n ih => rw [Memory.readBytes, List.length_cons, ih]

theorem getD_readBytes (m : Memory) {a n j : Nat} (h : j < n) : (m.readBytes a n).getD j 0 = m.read (a + j) := by
  induction n generalizing a j with
  | zero => omega
  | succ n ih =>
    rw [Memory.readBytes]
    cases j with
    | zero => rfl
    | succ j => rw [List.getD_cons_succ, ih (by omega), Nat.add_assoc, Nat.add_comm 1 j]

/-- The digests agree byte by byte. -/
theorem digests_eq_iff (m : Memory) (p : Prog) (src area : Nat) : ownDigest p src = m.readBytes (area + 32) 32 ↔
    ∀ j, j < 32 → m.read (area + 32 + j) = BitVec.ofNat 8 ((p.getS (src + j / 8)).toNat / 256 ^ (j % 8)) := by
  refine ⟨fun e j hj => ?_, fun h => List.ext_getElem ?_ fun j h1 h2 => ?_⟩
  · rw [← getD_ownDigest p src hj, e, getD_readBytes m hj]
  · rw [length_ownDigest, length_readBytes]
  · have hj : j < 32 := length_ownDigest p src ▸ h1
    rw [← List.getD_eq_getElem _ 0 h1, ← List.getD_eq_getElem _ 0 h2, getD_ownDigest p src hj, getD_readBytes m hj, h j hj]

/-- What a cause that becomes pending in several contexts of a core changes. -/
structure Posted (s u : State) (c : Nat) (a : AsyncCause) (xs : List Nat) : Prop where
  only : OnlyCtxs s u c
  rest : ∀ x, ∃ l h, u.ctx c x = { s.ctx c x with async := (s.ctx c x).async ++ l, prog := { (s.ctx c x).prog with hold := h } }
  pending : ∀ x, x ∈ xs → a ∈ (u.ctx c x).async

theorem awake_shape (t : Ctx) : ∃ h, awake t = { t with prog := { t.prog with hold := h } } := by
  unfold awake
  split
  · exact ⟨none, rfl⟩
  · exact ⟨t.prog.hold, rfl⟩

theorem posted_fold (s : State) (c : Nat) (a : AsyncCause) (xs : List Nat) : Posted s (xs.foldl (fun s x => s.post c x a) s) c a xs := by
  induction xs using List.reverseRecOn with
  | nil => exact ⟨.refl, fun x => ⟨[], (s.ctx c x).prog.hold, by rw [List.append_nil]; rfl⟩, fun x h => (List.not_mem_nil h).elim⟩
  | append_singleton xs y ih =>
    rw [List.foldl_append]
    generalize xs.foldl (fun s x => s.post c x a) s = u at ih
    obtain ⟨ho, hr, hp⟩ := ih
    show Posted s (u.post c y a) c a (xs ++ [y])
    rw [post_eq]
    obtain ⟨g, hg⟩ := awake_shape { u.ctx c y with async := (u.ctx c y).async ++ [a] }
    rw [hg]
    refine ⟨ho.setCtx, fun x => ?_, fun x hx => ?_⟩ <;> rw [State.ctx_setCtx] <;> split
    · next e =>
      obtain ⟨l, h, hl⟩ := hr y
      rw [e.2, hl]
      exact ⟨l ++ [a], g, by rw [List.append_assoc]⟩
    · exact hr x
    · exact List.mem_append_right _ List.mem_cons_self
    · next e =>
      rcases List.mem_append.mp hx with hx | hx
      · exact hp x hx
      · exact absurd ⟨rfl, List.mem_singleton.mp hx⟩ e

end Dchk

/-! ### A pair of digests that differ -/

section Differ

variable {s : State} {c x : Nat} {d a b : Reg}

theorem hbm_halted (q : Seqr) (src area : Nat) : (halted s q src area).hbm = reported s q src area := by rw [halted, State.hbm_setCore]

theorem core_halted (q : Seqr) (src area : Nat) : (halted s q src area).core q.core = { s.core q.core with queuesHalted := true } :=
  State.core_setCore_self _ _ _

theorem read_reported (q : Seqr) (src area : Nat) (e : Nat) (hw : s.hbm.wf = true) : Memory.read (reported s q src area) e =
    if windowPa q.core ≤ e ∧ e < windowPa q.core + 64 then
      (ownDigest (s.prog q) src ++ (s.core q.core).spad.readBytes (area + 32) 32).getD (e - windowPa q.core) 0
    else s.hbm.read e := by
  rw [reported, Memory.read_writeBytes _ _ _ _ hw, List.length_append, length_ownDigest, length_readBytes]

/-- The two digests as they are reported, byte by byte. -/
theorem reported_own (q : Seqr) (src area : Nat) (hw : s.hbm.wf = true) {j : Nat} (hj : j < 32) :
    Memory.read (reported s q src area) (windowPa q.core + j) = BitVec.ofNat 8 (((s.prog q).getS (src + j / 8)).toNat / 256 ^ (j % 8)) ∧
      Memory.read (reported s q src area) (windowPa q.core + 32 + j) = Memory.read (s.core q.core).spad (area + 32 + j) := by
  have hl := length_ownDigest (s.prog q) src
  rw [read_reported _ _ _ _ hw, read_reported _ _ _ _ hw]
  generalize windowPa q.core = w
  constructor
  · have hin : w ≤ w + j ∧ w + j < w + 64 := by omega
    have hsub : w + j - w = j := by omega
    rw [if_pos hin, hsub, List.getD_append _ _ _ _ (by rwa [hl]), getD_ownDigest _ _ hj]
  · have hin : w ≤ w + 32 + j ∧ w + 32 + j < w + 64 := by omega
    have hsub : w + 32 + j - w = 32 + j := by omega
    rw [if_pos hin, hsub, List.getD_append_right _ _ _ _ (by rw [hl]; omega), hl, Nat.add_sub_cancel_left, getD_readBytes _ hj]

theorem reported_outside (q : Seqr) (src area : Nat) (hw : s.hbm.wf = true) {e : Nat} (he : e < windowPa q.core ∨ windowPa q.core + 64 ≤ e) :
    Memory.read (reported s q src area) e = Memory.read s.hbm e := by
  have hout : ¬ (windowPa q.core ≤ e ∧ e < windowPa q.core + 64) := by omega
  rw [read_reported _ _ _ _ hw, if_neg hout]

/-- What `DCHK` leaves where the digests differ (R395, R396). -/
theorem dchk_differs (hcur : s.cur = .thread c x) (hs : Stands s 1 .any)
    (hr : RegsReady s [srcS a, srcS (a + 1), srcS (a + 2), srcS (a + 3), srcS b, srcS d])
    (hres : dchkRes (fresh s) s.cur d a b =
      .retire ((halted (fresh s) (.thread c x) a.toNat (s.getS s.cur b).toNat).postAll c ⟨.digest, s.getS s.cur b⟩)) (hw : s.hbm.wf = true) :
    ∃ u, exec (.dchk d a b) s = .next u ∧ (u.core c).queuesHalted = true ∧
      (∀ j, j < 32 → Memory.read u.hbm (0xBFFFF00000 + 4096 * c + j) =
          BitVec.ofNat 8 (((s.ctx c x).prog.getS (a.toNat + j / 8)).toNat / 256 ^ (j % 8)) ∧
        Memory.read u.hbm (0xBFFFF00020 + 4096 * c + j) = Memory.read (s.core c).spad ((s.getS s.cur b).toNat + 32 + j)) ∧
      (∀ e, e < 0xBFFFF00000 + 4096 * c ∨ 0xBFFFF00040 + 4096 * c ≤ e → Memory.read u.hbm e = Memory.read s.hbm e) ∧
      (∀ r, u.getS s.cur r = s.getS s.cur r) ∧
      ∀ y, y ∈ SMap.keys (s.core c).ctxs → SMap.wf (s.core c).ctxs = true → (s.ctx c y).live = true →
        ⟨.digest, s.getS s.cur b⟩ ∈ (u.ctx c y).async := by
  obtain ⟨u, hu, hafter⟩ := retires_of_ready (srcs := [srcS a, srcS (a + 1), srcS (a + 2), srcS (a + 3), srcS b]) (dests := [srcS d]) _ exec_dchk rfl hs hr hres
  have hcore : (halted (fresh s) (.thread c x) a.toNat (s.getS s.cur b).toNat).core c = { s.core c with queuesHalted := true } :=
    core_halted (s := fresh s) (.thread c x) a.toNat (s.getS s.cur b).toNat
  have hhbm := hbm_halted (s := fresh s) (.thread c x) a.toNat (s.getS s.cur b).toNat
  have hown (j : Nat) (hj : j < 32) := reported_own (s := fresh s) (.thread c x) a.toNat (s.getS s.cur b).toNat hw hj
  have hout (e : Nat) := reported_outside (s := fresh s) (.thread c x) a.toNat (s.getS s.cur b).toNat hw (e := e)
  rw [State.postAll] at hafter
  generalize halted (fresh s) (.thread c x) a.toNat (s.getS s.cur b).toNat = v at hafter hcore hhbm
  generalize reported (fresh s) (.thread c x) a.toNat (s.getS s.cur b).toNat = m at hhbm hown hout
  obtain ⟨ho, hrest, hpend⟩ := posted_fold v c ⟨.digest, s.getS s.cur b⟩ (((v.core c).ctxs.filter (fun e => e.2.live)).map Prod.fst)
  generalize (((v.core c).ctxs.filter (fun e => e.2.live)).map Prod.fst).foldl (fun s' y => s'.post c y ⟨.digest, s.getS s.cur b⟩) v = w at hafter ho hrest hpend
  have hctx (y : Nat) : v.ctx c y = s.ctx c y := by
    unfold State.ctx
    rw [hcore]
  have hu' : u.hbm = m := (congrArg State.hbm hafter.device :).trans ((congrArg State.hbm ho.device :).trans hhbm)
  refine ⟨u, hu, ?_, fun j hj => ?_, fun e he => ?_, fun r => ?_, fun y _ _ hlive => ?_⟩
  · have h1 : (u.core c).queuesHalted = (w.core c).queuesHalted := (congrArg Core.queuesHalted (hafter.cores c) :)
    have h2 : (w.core c).queuesHalted = (v.core c).queuesHalted := (congrArg Core.queuesHalted ho.core :)
    rw [h1, h2, hcore]
  · rw [hu']
    have e0 : 0xBFFFF00000 + 4096 * c + j = windowPa c + j := rfl
    have e1 : 0xBFFFF00020 + 4096 * c + j = windowPa c + 32 + j := by
      rw [windowPa]
      omega
    rw [e0, e1]
    exact hown j hj
  · rw [hu']
    exact hout e (by simpa only [windowPa, Seqr.core, Nat.add_right_comm _ (4096 * c)] using he)
  · obtain ⟨l, g, hg⟩ := hrest x
    have hp : (w.prog s.cur).s = (s.prog s.cur).s := by
      rw [hcur]
      show (w.ctx c x).prog.s = (s.ctx c x).prog.s
      rw [hg, ← hctx x]
    rw [State.getS, Prog.getS, hafter.prog, (advance_rest _ _ _).1, hp]
    rfl
  · have hy : y ∈ ((v.core c).ctxs.filter (fun e => e.2.live)).map Prod.fst := by
      rw [← hctx y] at hlive
      rcases get_mem_or ({} : Ctx) (v.core c).ctxs y with hm | hm
      · exact List.mem_map.mpr ⟨_, List.mem_filter.mpr ⟨hm, hlive⟩, rfl⟩
      · have : (v.ctx c y).live = false := congrArg Ctx.live hm
        rw [this] at hlive
        cases hlive
    have hasync : (u.ctx c y).async = (w.ctx c y).async := (congrArg Ctx.async (hafter.ctxs c y) :)
    rw [hasync]
    exact hpend y hy

end Differ

/-! ### The checks of `DCHK` in their order -/

section Checks

variable {s : State} {c x : Nat} {d a b : Reg}

theorem dchkRes_fresh (hcur : s.cur = .thread c x) : dchkRes (fresh s) s.cur d a b =
    if (s.getS s.cur b).toNat % 16 ≠ 0 then .trap .align (s.getS s.cur b)
    else if spadTop < (s.getS s.cur b).toNat + 63 then .trap .spbound (s.getS s.cur b)
    else if s.lineBusy s.cur (s.getS s.cur b).toNat 64 then .stall
    else if s.dchkReady c (s.getS s.cur b).toNat then .retire ((fresh s).dchkCompare s.cur d.toNat a.toNat (s.getS s.cur b).toNat)
    else .whole ((fresh s).holdOn s.cur (.dchk d.toNat a.toNat (s.getS s.cur b))) := by
  have hc : s.cur.core = c := by rw [hcur]; rfl
  have hready : (fresh s).dchkReady s.cur.core (s.getS s.cur b).toNat = s.dchkReady c (s.getS s.cur b).toNat := by rw [hc]; rfl
  have hbusy : (fresh s).lineBusy s.cur (s.getS s.cur b).toNat 64 = s.lineBusy s.cur (s.getS s.cur b).toNat 64 := rfl
  rw [dchkRes, fresh_getS, hready, hbusy]

/-- An aligned exchange area within the scratchpad (R395). -/
def Fits (area : Nat) : Prop := area % 16 = 0 ∧ area + 63 ≤ 0xBFFFF

/-- DONE of the record of an exchange area (R325). -/
theorem dchkReady_iff (s : State) (c area : Nat) : s.dchkReady c area = true ↔ 2 ^ 63 ≤ (s.core c).spad.readN area 8 := by
  have hlt : (s.core c).spad.readN area 8 < 2 ^ 64 := Scratchpad.readN_lt (s.core c).spad area 8
  rw [State.dchkReady, Nat.testBit_eq_decide_div_mod_eq, decide_eq_true_eq]
  omega

theorem dchk_align (hcur : s.cur = .thread c x) (hs : Stands s 1 .any)
    (hr : RegsReady s [srcS a, srcS (a + 1), srcS (a + 2), srcS (a + 3), srcS b, srcS d]) (h : (s.getS s.cur b).toNat % 16 ≠ 0) :
    Traps (.dchk d a b) s .align (s.getS s.cur b) :=
  traps_of_ready (srcs := [srcS a, srcS (a + 1), srcS (a + 2), srcS (a + 3), srcS b]) (dests := [srcS d]) _ exec_dchk rfl hs hr
    ((dchkRes_fresh hcur).trans (if_pos h))

theorem dchk_bound (hcur : s.cur = .thread c x) (hs : Stands s 1 .any)
    (hr : RegsReady s [srcS a, srcS (a + 1), srcS (a + 2), srcS (a + 3), srcS b, srcS d]) (h : (s.getS s.cur b).toNat % 16 = 0)
    (hn : spadTop < (s.getS s.cur b).toNat + 63) : Traps (.dchk d a b) s .spbound (s.getS s.cur b) :=
  traps_of_ready (srcs := [srcS a, srcS (a + 1), srcS (a + 2), srcS (a + 3), srcS b]) (dests := [srcS d]) _ exec_dchk rfl hs hr
    ((dchkRes_fresh hcur).trans ((if_neg (not_not.mpr h)).trans (if_pos hn)))

/-- Past the checks of the address. -/
theorem dchkRes_fits (hcur : s.cur = .thread c x) (h : Fits (s.getS s.cur b).toNat) : dchkRes (fresh s) s.cur d a b =
    if s.lineBusy s.cur (s.getS s.cur b).toNat 64 then .stall
    else if s.dchkReady c (s.getS s.cur b).toNat then .retire ((fresh s).dchkCompare s.cur d.toNat a.toNat (s.getS s.cur b).toNat)
    else .whole ((fresh s).holdOn s.cur (.dchk d.toNat a.toNat (s.getS s.cur b))) :=
  (dchkRes_fresh hcur).trans ((if_neg (not_not.mpr h.1)).trans (if_neg (Nat.not_lt.mpr h.2)))

theorem dchk_stalls (hcur : s.cur = .thread c x) (hs : Stands s 1 .any)
    (hr : RegsReady s [srcS a, srcS (a + 1), srcS (a + 2), srcS (a + 3), srcS b, srcS d]) (h : Fits (s.getS s.cur b).toNat)
    (hb : s.lineBusy s.cur (s.getS s.cur b).toNat 64 = true) : Stalls (.dchk d a b) s :=
  stalls_of_ready (srcs := [srcS a, srcS (a + 1), srcS (a + 2), srcS (a + 3), srcS b]) (dests := [srcS d]) _ exec_dchk rfl hs hr
    ((dchkRes_fits hcur h).trans (if_pos hb))

theorem dchk_waits (hcur : s.cur = .thread c x) (hs : Stands s 1 .any)
    (hr : RegsReady s [srcS a, srcS (a + 1), srcS (a + 2), srcS (a + 3), srcS b, srcS d]) (h : Fits (s.getS s.cur b).toNat)
    (hb : ¬ s.lineBusy s.cur (s.getS s.cur b).toNat 64 = true) (hd : ¬ s.dchkReady c (s.getS s.cur b).toNat = true) :
    exec (.dchk d a b) s = .next ((fresh s).holdOn s.cur (.dchk d.toNat a.toNat (s.getS s.cur b))) :=
  Return.whole_of_issue _ exec_dchk hs ((fresh_ready (srcs := [srcS a, srcS (a + 1), srcS (a + 2), srcS (a + 3), srcS b]) (dests := [srcS d]) hr _).trans
    ((dchkRes_fits hcur h).trans ((if_neg hb).trans (if_neg hd))))

theorem dchkRes_done (hcur : s.cur = .thread c x) (h : Fits (s.getS s.cur b).toNat) (hb : ¬ s.lineBusy s.cur (s.getS s.cur b).toNat 64 = true)
    (hd : s.dchkReady c (s.getS s.cur b).toNat = true) :
    dchkRes (fresh s) s.cur d a b = .retire ((fresh s).dchkCompare s.cur d.toNat a.toNat (s.getS s.cur b).toNat) :=
  (dchkRes_fits hcur h).trans ((if_neg hb).trans (if_pos hd))

/-- The agreement of R395, byte by byte. -/
theorem agree_bytes (m : Memory) (p : Prog) (src area : Nat) : Agree m p src area ↔ m.readN area 8 / 2 ^ 62 % 2 = 0 ∧ m.readN area 8 % 2 ^ 32 = 32 ∧
    ∀ j, j < 32 → m.read (area + 32 + j) = BitVec.ofNat 8 ((p.getS (src + j / 8)).toNat / 256 ^ (j % 8)) := by
  rw [Agree, digests_eq_iff]

end Checks

/-- Settles O43: the digest's range and its landing, the comparison by its checks in order, and SHA-256 by its rounds. -/
theorem digests : Obligations.Digests := by
  unfold Obligations.Digests
  refine ⟨fun s c x d a b => ⟨fun hcur hs hr => ?_, ?_, fun g r hc hx hg h0 hreg => ?_, fun hcur hs h4 hr => ?_⟩, fun bs => ?_⟩
  · intro i ea n p inPad
    refine ⟨fun h => digest_traps hs hr h, fun h hn hb => digest_stalls hs hr h hn hb, fun h hb => ?_⟩
    have hret := digest_retires hs hr h hb
    rw [issued_thread hcur] at hret
    exact hret
  · decide +kernel
  · subst hc hx
    refine ⟨_, exec_digestLands hg, bytesSame_setCtx _ _ _ _, ?_, fun k hk => ?_, fun n hn hne => ?_⟩
    · rw [State.ctx_setCtx_self]
    · rw [State.ctx_setCtx_self]
      refine (fillParts_reads _ g.digest h0 hreg (by omega) [0, 1, 2, 3] (by decide)).1 k ?_ rfl
      interval_cases k <;> decide
    · rw [State.ctx_setCtx_self]
      refine (fillParts_reads _ g.digest h0 hreg hn [0, 1, 2, 3] (by decide)).2 fun k hk => ?_
      have : k < 4 := (by decide : ∀ k, k ∈ [0, 1, 2, 3] → k < 4) k hk
      omega
  · intro i area own dw0 fits free done agree
    have hcore : s.cur.core = c := by rw [hcur]; rfl
    have hprog : s.prog s.cur = (s.ctx c x).prog := by rw [hcur]; rfl
    have hbusy (hb : free) : ¬ s.lineBusy s.cur (s.getS s.cur b).toNat 64 = true := fun e => Bool.false_ne_true (hb.symm.trans e)
    have hagree : Agree ((fresh s).core s.cur.core).spad ((fresh s).prog s.cur) a.toNat (s.getS s.cur b).toNat ↔ agree := by
      rw [fresh_core, hcore, agree_bytes, fresh_prog, hprog]
    refine ⟨fun h => dchk_align hcur hs hr h, fun h hn => dchk_bound hcur hs hr h hn, fun h hb => ?_, fun h hb hd => ?_, fun h hb hd ha => ?_,
      fun h hb hd ha hw => ?_⟩
    · exact dchk_stalls hcur hs hr h (Bool.not_eq_false _ ▸ hb)
    · exact dchk_waits hcur hs hr h (hbusy hb) (mt (dchkReady_iff s c _).mp hd)
    · have hres := dchkRes_done (d := d) (a := a) hcur h (hbusy hb) ((dchkReady_iff s c _).mpr hd)
      rw [compare_agree (hagree.mpr ha)] at hres
      exact writesS_of_ready (srcs := [srcS a, srcS (a + 1), srcS (a + 2), srcS (a + 3), srcS b]) (dests := [srcS d]) _ exec_dchk rfl hs hr hres
    · have hres := dchkRes_done (d := d) (a := a) hcur h (hbusy hb) ((dchkReady_iff s c _).mpr hd)
      rw [compare_differ (fun e => ha (hagree.mp e)), BitVec.ofNat_toNat, BitVec.setWidth_eq, hcore] at hres
      obtain ⟨u, hu, hq, hown, hrest⟩ := dchk_differs hcur hs hr (by rw [← hcur]; exact hres) hw
      exact ⟨u, hu, hq, hown, hrest⟩
  · intro primes n blocks byte turn
    obtain ⟨K, H, W, V, hK, hH, hW, hout⟩ := sha256_spec bs
    refine ⟨K, H, W, V, hK, hH, fun k hk => ?_, length_sha256 bs, hout⟩
    obtain ⟨hfirst, hnext, hends, hround⟩ := hW k hk
    refine ⟨fun t ht => (hfirst t ht).trans ?_, hnext, hends, hround⟩
    have hb (j : Nat) (hj : j < 4) : (padded bs).getD (64 * k + 4 * t + j) 0 = byte (64 * k + 4 * t + j) := getD_padded bs (by
      have : k < Sha.blocks bs := hk
      omega)
    exact congrArg₂ _ (congrArg₂ _ (congrArg₂ _ (hb 0 (by decide)) (hb 1 (by decide))) (hb 2 (by decide))) (hb 3 (by decide))

end Sys2Proof.Proofs.Digests
end

section
/-! PROOFS. Exact numbers as rational numbers: their comparison, and the neighbour that rounding takes (R144). -/

namespace Sys2Proof.Proofs.Exacts

/-! ### Magnitudes and values -/

/-- The magnitude of an exact number without its remainder. -/
def mag (x : Exact) : ℚ := x.n * 2 ^ x.e

/-- The value of an exact number without its remainder. -/
def val (x : Exact) : ℚ := if x.neg then -mag x else mag x

theorem two_zpow_pos (k : Int) : (0 : ℚ) < 2 ^ k := zpow_pos two_pos k

theorem mag_nonneg (x : Exact) : 0 ≤ mag x := mul_nonneg (Nat.cast_nonneg _) (two_zpow_pos _).le

theorem mag_pos {x : Exact} (h : x.n ≠ 0) : 0 < mag x := mul_pos (Nat.cast_pos.mpr (Nat.pos_of_ne_zero h)) (two_zpow_pos _)

theorem mag_eq_zero {x : Exact} : mag x = 0 ↔ x.n = 0 := by
  rw [mag, mul_eq_zero, or_iff_left (two_zpow_pos _).ne', Nat.cast_eq_zero]

/-- An integer of a unit, as an exact number. -/
def units (k : Nat) (u : Int) : Exact := ⟨false, k, u, false⟩

theorem val_units (k : Nat) (u : Int) : val (units k u) = k * 2 ^ u := rfl

/-- A magnitude brought to a lower exponent. -/
theorem scaled_mag (n : Nat) {e k : Int} (h : k ≤ e) : ((n * pow2 (e - k) : Nat) : ℚ) * 2 ^ k = n * 2 ^ e := by
  have hp : ((pow2 (e - k) : Nat) : ℚ) = 2 ^ (e - k) := by
    rw [pow2, Nat.cast_pow, ← zpow_natCast, Int.toNat_of_nonneg (by omega)]
    rfl
  rw [Nat.cast_mul, hp, mul_assoc, ← zpow_add₀ two_ne_zero]
  congr 2
  omega

/-- The integers that `Exact.align` gives stand for the values. -/
theorem align_val (x y : Exact) : ((Exact.align x y).1 : ℚ) * 2 ^ (Exact.align x y).2.2 = val x ∧
    ((Exact.align x y).2.1 : ℚ) * 2 ^ (Exact.align x y).2.2 = val y := by
  have hside (z : Exact) (hz : min x.e y.e ≤ z.e) : (((if z.neg then -((z.n * pow2 (z.e - min x.e y.e) : Nat) : Int)
      else ((z.n * pow2 (z.e - min x.e y.e) : Nat) : Int)) : Int) : ℚ) * 2 ^ min x.e y.e = val z := by
    rw [val, mag, ← scaled_mag z.n hz]
    split
    · rw [Int.cast_neg, Int.cast_natCast, neg_mul]
    · rw [Int.cast_natCast]
  exact ⟨hside x (min_le_left _ _), hside y (min_le_right _ _)⟩

theorem align_lt (x y : Exact) : (Exact.align x y).1 < (Exact.align x y).2.1 ↔ val x < val y := by
  obtain ⟨hx, hy⟩ := align_val x y
  rw [← hx, ← hy, mul_lt_mul_iff_left₀ (two_zpow_pos _), Int.cast_lt]

theorem align_eq (x y : Exact) : (Exact.align x y).1 = (Exact.align x y).2.1 ↔ val x = val y := by
  obtain ⟨hx, hy⟩ := align_val x y
  rw [← hx, ← hy, mul_left_inj' (two_zpow_pos _).ne', Int.cast_inj]

theorem align_gt (x y : Exact) : (Exact.align x y).2.1 < (Exact.align x y).1 ↔ val y < val x := by
  obtain ⟨hx, hy⟩ := align_val x y
  rw [← hx, ← hy, mul_lt_mul_iff_left₀ (two_zpow_pos _), Int.cast_lt]

theorem cmp_lt {x y : Exact} : Exact.cmp x y = .lt ↔ val x < val y := by
  rw [← align_lt, ← compare_lt_iff_lt]
  rfl

theorem cmp_eq {x y : Exact} : Exact.cmp x y = .eq ↔ val x = val y := by
  rw [← align_eq, ← compare_eq_iff_eq (a := (Exact.align x y).1)]
  rfl

theorem cmp_gt {x y : Exact} : Exact.cmp x y = .gt ↔ val y < val x := by
  rw [← align_gt, ← compare_gt_iff_gt]
  rfl

theorem cmp_ne_gt {x y : Exact} : Exact.cmp x y ≠ .gt ↔ val x ≤ val y := by rw [Ne, cmp_gt, not_lt]

theorem cmp_ne_lt {x y : Exact} : Exact.cmp x y ≠ .lt ↔ val y ≤ val x := by rw [Ne, cmp_lt, not_lt]

/-! ### The binade of a number -/

theorem log2_spec {x : Exact} (h : x.n ≠ 0) : (2 : ℚ) ^ x.log2 ≤ mag x ∧ mag x < 2 ^ (x.log2 + 1) := by
  have h1 : 2 ^ Nat.log2 x.n ≤ x.n := Nat.log2_self_le h
  have h2 : x.n < 2 ^ (Nat.log2 x.n + 1) := Nat.lt_log2_self
  have e1 : (2 : ℚ) ^ x.log2 = ((2 ^ Nat.log2 x.n : Nat) : ℚ) * 2 ^ x.e := by
    rw [Exact.log2, zpow_add₀ two_ne_zero, zpow_natCast, Nat.cast_pow]
    rfl
  have e2 : (2 : ℚ) ^ (x.log2 + 1) = ((2 ^ (Nat.log2 x.n + 1) : Nat) : ℚ) * 2 ^ x.e := by
    rw [zpow_add₀ two_ne_zero, e1, zpow_one, pow_succ, Nat.cast_mul]
    push_cast
    ring
  rw [e1, e2, mag]
  exact ⟨mul_le_mul_of_nonneg_right (Nat.cast_le.mpr h1) (two_zpow_pos _).le, mul_lt_mul_of_pos_right (Nat.cast_lt.mpr h2) (two_zpow_pos _)⟩

theorem zpow_lt_iff {a b : Int} : (2 : ℚ) ^ a < 2 ^ b ↔ a < b := zpow_lt_zpow_iff_right₀ one_lt_two

theorem zpow_le_iff {a b : Int} : (2 : ℚ) ^ a ≤ 2 ^ b ↔ a ≤ b := zpow_le_zpow_iff_right₀ one_lt_two

theorem log2_unique {x : Exact} (h : x.n ≠ 0) {k : Int} (h1 : (2 : ℚ) ^ k ≤ mag x) (h2 : mag x < 2 ^ (k + 1)) : x.log2 = k := by
  obtain ⟨l1, l2⟩ := log2_spec h
  have a := zpow_lt_iff.mp (h1.trans_lt l2)
  have b := zpow_lt_iff.mp (l1.trans_lt h2)
  omega

theorem log2_congr {x y : Exact} (hx : x.n ≠ 0) (h : mag x = mag y) : x.log2 = y.log2 := by
  have hy : y.n ≠ 0 := fun e => hx (mag_eq_zero.mp (h.trans (mag_eq_zero.mpr e)))
  obtain ⟨l1, l2⟩ := log2_spec hy
  exact log2_unique hx (h ▸ l1) (h ▸ l2)

/-! ### Rounding (R144) -/

/-- An exact number times a power of two, its integer part and how its fraction stands to one half. -/
structure Splits (m : ℚ) (lo : Nat) (inexact : Bool) (half : Ordering) : Prop where
  low  : (lo : ℚ) ≤ m
  high : m < lo + 1
  frac : inexact = true ↔ (lo : ℚ) < m
  lt   : inexact = true → (half = .lt ↔ m < lo + 1 / 2)
  eq   : inexact = true → (half = .eq ↔ m = lo + 1 / 2)

theorem splits_div (n k : Nat) (hk : k ≠ 0) : Splits ((n : ℚ) / 2 ^ k) (n / 2 ^ k) (n % 2 ^ k != 0)
    (if n % 2 ^ k < 2 ^ (k - 1) then .lt else if 2 ^ (k - 1) < n % 2 ^ k then .gt else .eq) := by
  have hp : (0 : ℚ) < 2 ^ k := by positivity
  have hlt : n % 2 ^ k < 2 ^ k := Nat.mod_lt _ (Nat.two_pow_pos k)
  have hsum : (n : ℚ) / 2 ^ k = (n / 2 ^ k : Nat) + (n % 2 ^ k : Nat) / 2 ^ k := by
    rw [div_eq_iff hp.ne', add_mul, div_mul_cancel₀ _ hp.ne']
    exact_mod_cast (Nat.div_add_mod' n (2 ^ k)).symm
  have hhalf : (2 : ℚ) ^ k = 2 * ((2 ^ (k - 1) : Nat) : ℚ) := by
    obtain ⟨j, rfl⟩ : ∃ j, k = j + 1 := ⟨k - 1, by omega⟩
    rw [pow_succ, Nat.add_sub_cancel]
    push_cast
    ring
  have hltq : ((n % 2 ^ k : Nat) : ℚ) < 2 ^ k := by exact_mod_cast hlt
  rw [hsum]
  generalize n / 2 ^ k = lo
  generalize n % 2 ^ k = r at *
  refine ⟨le_add_of_nonneg_right (by positivity), by rw [add_lt_add_iff_left, div_lt_one hp]; exact hltq, ?_, fun _ => ?_, fun _ => ?_⟩
  · rw [lt_add_iff_pos_right, div_pos_iff_of_pos_right hp, Nat.cast_pos, Nat.pos_iff_ne_zero, bne_iff_ne]
  · rw [add_lt_add_iff_left, div_lt_div_iff₀ hp two_pos, one_mul, hhalf]
    have : ((r : ℚ) * 2 < 2 * ((2 ^ (k - 1) : Nat) : ℚ)) ↔ r < 2 ^ (k - 1) := by
      rw [mul_comm, mul_lt_mul_iff_right₀ two_pos, Nat.cast_lt]
    rw [this]
    split <;> [simp [*]; (split <;> simp [*])]
  · rw [add_right_inj, div_eq_div_iff hp.ne' two_ne_zero, one_mul, hhalf]
    have : ((r : ℚ) * 2 = 2 * ((2 ^ (k - 1) : Nat) : ℚ)) ↔ r = 2 ^ (k - 1) := by
      rw [mul_comm, mul_right_inj' two_ne_zero, Nat.cast_inj]
    rw [this]
    split
    · next h => simp [h.ne]
    · next h =>
      split
      · next h' => simp [h'.ne']
      · next h' => simp [le_antisymm (Nat.not_lt.mp h') (Nat.not_lt.mp h)]

/-- What `Exact.scaled` gives of a number without a remainder. -/
theorem scaled_splits {x : Exact} (hs : x.sticky = false) (sh : Int) :
    Splits (mag x * 2 ^ sh) (x.scaled sh).1 (x.scaled sh).2.1 (x.scaled sh).2.2 := by
  have hm : mag x * 2 ^ sh = x.n * 2 ^ (x.e + sh) := by rw [mag, mul_assoc, zpow_add₀ two_ne_zero]
  rw [hm]
  by_cases h : 0 ≤ x.e + sh
  · have hsc : x.scaled sh = (x.n * pow2 (x.e + sh), false, .lt) := by rw [Exact.scaled, if_pos h, hs]
    have hv : ((x.n * pow2 (x.e + sh) : Nat) : ℚ) = x.n * 2 ^ (x.e + sh) := by
      have := scaled_mag x.n h
      rwa [zpow_zero, mul_one, sub_zero] at this
    rw [hsc, ← hv]
    exact ⟨le_refl _, lt_add_one _, by simp, by simp, by simp⟩
  · obtain ⟨k, hk⟩ : ∃ k : Nat, x.e + sh = -(k : Int) := ⟨(-(x.e + sh)).toNat, by omega⟩
    have hk0 : k ≠ 0 := by omega
    have hsc : x.scaled sh = (x.n / 2 ^ k, x.n % 2 ^ k != 0,
        if x.n % 2 ^ k < 2 ^ (k - 1) then .lt else if 2 ^ (k - 1) < x.n % 2 ^ k then .gt else .eq) := by
      have hn : (- -(k : Int)).toNat = k := by omega
      simp only [Exact.scaled, hs, hk, hn, Bool.or_false, Bool.false_eq_true, if_false]
      rw [if_neg (by omega)]
    rw [hsc, hk, zpow_neg, zpow_natCast, ← div_eq_mul_inv]
    exact splits_div x.n k hk0

/-- The modes of R144: whether a number between two neighbours goes to the greater magnitude. -/
def goesUp (rm : Rm) (neg : Bool) (lo : Nat) (half : Ordering) : Prop :=
  match rm with
  | .rne => half = .gt ∨ half = .eq ∧ lo % 2 = 1
  | .rna => half ≠ .lt
  | .rtz => False
  | .rdn => neg = true
  | .rup => neg = false

theorem roundInt_up {rm : Rm} {neg : Bool} {lo : Nat} {half : Ordering} (h : goesUp rm neg lo half) : roundInt rm neg lo true half = lo + 1 := by
  cases rm with
  | rne => rcases h with rfl | ⟨rfl, h⟩ <;> simp [roundInt, *]
  | rna => exact if_neg h
  | rtz => exact h.elim
  | rdn => exact if_pos h
  | rup =>
    obtain rfl : neg = false := h
    rfl

theorem roundInt_down {rm : Rm} {neg : Bool} {lo : Nat} {half : Ordering} (h : ¬ goesUp rm neg lo half) : roundInt rm neg lo true half = lo := by
  cases rm with
  | rne =>
    cases half with
    | lt => rfl
    | gt => exact (h (.inl rfl)).elim
    | eq =>
      have : lo % 2 = 0 := by
        by_contra e
        exact h (.inr ⟨rfl, by omega⟩)
      exact if_pos this
  | rna => exact if_pos (not_not.mp h)
  | rtz => rfl
  | rdn => exact if_neg h
  | rup => exact if_pos ((Bool.not_eq_false neg).mp h)

section Neighbour

variable {x : Exact} {rm : Rm} {u : Int} {lo n : Nat}

/-- The magnitude of an exact number, as one. -/
def magOf (x : Exact) : Exact := { x with neg := false }

theorem val_magOf (x : Exact) : val (magOf x) = mag x := rfl

theorem mul_zpow_neg (q : ℚ) (u : Int) : q * 2 ^ u * 2 ^ (-u) = q := by
  rw [mul_assoc, ← zpow_add₀ two_ne_zero, add_neg_cancel, zpow_zero, mul_one]

/-- The integer part and the comparison with one half, read off comparisons of exact numbers. -/
theorem splits_of_cmp {k : Nat} {i : Bool} {half : Ordering} (h : Splits (mag x * 2 ^ (-u)) k i half)
    (hlo : Exact.cmp (units lo u) (magOf x) ≠ .gt) (hhi : Exact.cmp (magOf x) (units (lo + 1) u) = .lt) :
    k = lo ∧ i = !(Exact.cmp (units lo u) (magOf x) == .eq) ∧ (i = true → half = Exact.cmp (magOf x) (units (2 * lo + 1) (u - 1))) := by
  obtain ⟨h1, h2, h3, h4, h5⟩ := h
  have hp := two_zpow_pos (-u)
  rw [cmp_ne_gt, val_magOf, val_units] at hlo
  rw [cmp_lt, val_magOf, val_units] at hhi
  have hlo' : (lo : ℚ) ≤ mag x * 2 ^ (-u) := by
    have := mul_le_mul_of_nonneg_right hlo hp.le
    rwa [mul_zpow_neg] at this
  have hhi' : mag x * 2 ^ (-u) < lo + 1 := by
    have := mul_lt_mul_of_pos_right hhi hp
    rwa [mul_zpow_neg, Nat.cast_add, Nat.cast_one] at this
  obtain rfl : k = lo := by
    have a : (k : ℚ) < lo + 1 := h1.trans_lt hhi'
    have b : (lo : ℚ) < k + 1 := hlo'.trans_lt h2
    have a' : k < lo + 1 := by exact_mod_cast a
    have b' : lo < k + 1 := by exact_mod_cast b
    omega
  have hhalf : val (units (2 * k + 1) (u - 1)) * 2 ^ (-u) = k + 1 / 2 := by
    rw [val_units, zpow_sub₀ two_ne_zero, zpow_one, mul_div_assoc', div_mul_eq_mul_div, mul_zpow_neg]
    push_cast
    ring
  refine ⟨rfl, ?_, fun hi => ?_⟩
  · rw [Bool.eq_iff_iff, h3, Bool.not_eq_true', beq_eq_false_iff_ne, Ne, cmp_eq, val_magOf, val_units]
    constructor
    · intro hl e
      rw [← e, mul_zpow_neg] at hl
      exact lt_irrefl _ hl
    · intro hne
      refine lt_of_le_of_ne hlo' fun e => hne ?_
      rw [e, mul_assoc, ← zpow_add₀ two_ne_zero, neg_add_cancel, zpow_zero, mul_one]
  · have hlt : half = .lt ↔ Exact.cmp (magOf x) (units (2 * k + 1) (u - 1)) = .lt := by
      rw [h4 hi, cmp_lt, val_magOf, ← hhalf, mul_lt_mul_iff_left₀ hp]
    have heq : half = .eq ↔ Exact.cmp (magOf x) (units (2 * k + 1) (u - 1)) = .eq := by
      rw [h5 hi, cmp_eq, val_magOf, ← hhalf, mul_left_inj' hp.ne']
    revert hlt heq
    generalize Exact.cmp (magOf x) (units (2 * k + 1) (u - 1)) = o
    cases half <;> cases o <;> simp

/-- An exact number between two neighbours is rounded to the one that the mode names (R144). -/
theorem rounded_neighbour (hs : x.sticky = false) (hlo : Exact.cmp (units lo u) (magOf x) ≠ .gt)
    (hhi : Exact.cmp (magOf x) (units (lo + 1) u) = .lt)
    (hup : (Exact.cmp (units lo u) (magOf x) == .eq) = false ∧ goesUp rm x.neg lo (Exact.cmp (magOf x) (units (2 * lo + 1) (u - 1))) → n = lo + 1)
    (hdn : ¬ ((Exact.cmp (units lo u) (magOf x) == .eq) = false ∧ goesUp rm x.neg lo (Exact.cmp (magOf x) (units (2 * lo + 1) (u - 1)))) → n = lo) :
    ∃ half, x.scaled (-u) = (lo, !(Exact.cmp (units lo u) (magOf x) == .eq), half) ∧
      roundInt rm x.neg lo (!(Exact.cmp (units lo u) (magOf x) == .eq)) half = n := by
  obtain ⟨h1, h2, h3⟩ := splits_of_cmp (scaled_splits hs (-u)) hlo hhi
  refine ⟨(x.scaled (-u)).2.2, Prod.ext h1 (Prod.ext h2 rfl), ?_⟩
  rw [h2] at h3
  cases he : Exact.cmp (units lo u) (magOf x) == .eq with
  | true => exact (hdn fun h => Bool.noConfusion (he.symm.trans h.1)).symm
  | false =>
    rw [h3 (by rw [he]; rfl)]
    by_cases hg : goesUp rm x.neg lo (Exact.cmp (magOf x) (units (2 * lo + 1) (u - 1)))
    · exact (roundInt_up hg).trans (hup ⟨he, hg⟩).symm
    · exact (roundInt_down hg).trans (hdn fun h => hg h.2).symm

end Neighbour

end Sys2Proof.Proofs.Exacts
end

section
/-! PROOFS. Conversions between formats, and MX blocks (R141, R142, R147, R148). -/

namespace Sys2Proof.Proofs.Conversions

open Sys2Proof.Proofs.Exacts
open Sys2Proof.Proofs.IntegerLanes

/-! ### Reading and writing elements -/

section Codes

variable {src dst x : Nat} {rm : Rm} {sat : Bool}

/-- A code of a floating-point format of the lanes (R169). -/
def IsFloat (c : Nat) : Prop := 8 ≤ c ∧ c ≤ 11

/-- The integer that a pattern stands for (R138). -/
def intOfCode (src x : Nat) : Int :=
  if src % 2 == 0 ∧ 2 ^ (Fmt.width src - 1) ≤ x % 2 ^ Fmt.width src then ((x % 2 ^ Fmt.width src : Nat) : Int) - 2 ^ Fmt.width src
  else (x % 2 ^ Fmt.width src : Nat)

theorem isSignedCode_eq (h : src ≤ 6) : Fmt.isSignedCode src = (src % 2 == 0) := by interval_cases src <;> rfl

theorem signed_value (h : src ≤ 6) :
    (if Fmt.isSignedCode src then signedOf (Fmt.width src) x else ((x % 2 ^ Fmt.width src : Nat) : Int)) = intOfCode src x := by
  rw [isSignedCode_eq h, intOfCode, signedOf]
  cases src % 2 == 0 with
  | false => simp
  | true =>
    by_cases hx : x % 2 ^ Fmt.width src < 2 ^ (Fmt.width src - 1)
    · rw [if_pos rfl, if_pos hx, if_neg fun h => Nat.not_le.mpr hx h.2]
    · rw [if_pos rfl, if_neg hx, if_pos ⟨rfl, Nat.not_lt.mp hx⟩]
      push_cast
      rfl

theorem ofInt_eq (i e : Int) : Exact.ofInt i e = ⟨decide (i < 0), i.natAbs, e, false⟩ := by
  unfold Exact.ofInt
  split
  · next h =>
    subst h
    rfl
  · rfl

theorem readVal_int (h : src ≤ 6) : readVal src x = (.fin ⟨decide (intOfCode src x < 0), (intOfCode src x).natAbs, 0, false⟩, 0) := by
  have hof : FpFmt.of src = none := by interval_cases src <;> rfl
  have hc : (src == 0x11) = false ∧ (src == 0x12) = false ∧ (src == 0x13) = false := by interval_cases src <;> decide
  rw [← ofInt_eq, ← signed_value h]
  simp only [readVal, hof, hc, Bool.or_false, Bool.false_eq_true, if_false]

theorem readVal_float (h : IsFloat src) : readVal src x = ((FpFmt.get src).decode x, 0) := by
  obtain ⟨h1, h2⟩ := h
  interval_cases src <;> rfl

theorem writeVal_float (h : IsFloat dst) (v : Val) : writeVal dst rm sat v = (FpFmt.get dst).ofVal rm v := by
  obtain ⟨h1, h2⟩ := h
  interval_cases dst <;> rfl

theorem writeVal_int (h : dst ≤ 6) (v : Val) : writeVal dst rm sat v = intOfVal (dst % 2 == 0) (Fmt.width dst) rm sat v := by
  have hof : FpFmt.of dst = none := by interval_cases dst <;> rfl
  have hc : (dst == 0x11) = false ∧ (dst == 0x12) = false ∧ (dst == 0x13) = false := by interval_cases dst <;> decide
  simp only [writeVal, hof, hc, isSignedCode_eq h, Bool.or_false, Bool.false_eq_true, if_false]

theorem isIntCode_iff (c : Nat) : Fmt.isIntCode c = true ↔ c ≤ 6 := decide_eq_true_iff

theorem convertElem_ints (h1 : src ≤ 6) (h2 : dst ≤ 6) :
    convertElem src dst x rm sat = intOfInt (dst % 2 == 0) (Fmt.width dst) sat (intOfCode src x) := by
  rw [convertElem, if_pos (by rw [(isIntCode_iff src).mpr h1, (isIntCode_iff dst).mpr h2]; rfl), isSignedCode_eq h2, ← signed_value h1]

theorem convertElem_val (h : ¬ (src ≤ 6 ∧ dst ≤ 6)) {v : Val} (hv : readVal src x = (v, 0)) : convertElem src dst x rm sat = writeVal dst rm sat v := by
  have hc : ¬ (Fmt.isIntCode src && Fmt.isIntCode dst) = true := by
    rw [Bool.and_eq_true, isIntCode_iff, isIntCode_iff]
    exact h
  rw [convertElem, if_neg hc, hv]
  exact Prod.ext rfl BitVec.zero_or

theorem float_nan (h : IsFloat dst) (n : Bool) : (FpFmt.get dst).ofVal rm (.nan n) = ((FpFmt.get dst).nanBits, if n then Flags.nv else 0) := by
  obtain ⟨h1, h2⟩ := h
  interval_cases dst <;> rfl

theorem float_inf (h : IsFloat dst) (n : Bool) : (FpFmt.get dst).ofVal rm (.inf n) = ((FpFmt.get dst).infBits n, 0) := by
  obtain ⟨h1, h2⟩ := h
  interval_cases dst <;> rfl

end Codes

/-! ### Into the integers (R147) -/

section Ints

variable {sg sat : Bool} {w : Nat} {rm : Rm}

/-- The least and the greatest value of an integer format. -/
def least (sg : Bool) (w : Nat) : Int := if sg then -2 ^ (w - 1) else 0
def greatest (sg : Bool) (w : Nat) : Int := if sg then 2 ^ (w - 1) - 1 else 2 ^ w - 1

/-- The pattern of an integer. -/
def pat (w : Nat) (z : Int) : Nat := (z % 2 ^ w).toNat

theorem range_eq (sg : Bool) (w : Nat) : intRange sg w = (least sg w, greatest sg w) := intRange_eq sg w

theorem intOfInt_eq (z : Int) : intOfInt sg w sat z =
    if sat ∧ z < least sg w then (pat w (least sg w), Flags.sat)
    else if sat ∧ greatest sg w < z then (pat w (greatest sg w), Flags.sat) else (pat w z, 0) := by
  unfold intOfInt
  rw [range_eq]
  dsimp only
  generalize least sg w = lo
  generalize greatest sg w = hi
  cases sat with
  | false => simp [patternOf_eq, pat]
  | true =>
    by_cases h1 : z < lo
    · simp [h1, patternOf_eq, pat]
    · by_cases h2 : hi < z
      · simp [h1, h2, patternOf_eq, pat]
      · simp [h1, h2, patternOf_eq, pat]

theorem least_le_greatest (sg : Bool) (w : Nat) : least sg w ≤ greatest sg w := by
  have h1 : (1 : Int) ≤ 2 ^ (w - 1) := one_le_pow₀ (by norm_num)
  have h2 : (1 : Int) ≤ 2 ^ w := one_le_pow₀ (by norm_num)
  cases sg
  · show (0 : Int) ≤ 2 ^ w - 1
    omega
  · show -(2 : Int) ^ (w - 1) ≤ 2 ^ (w - 1) - 1
    omega

theorem intOfVal_eq {y : Exact} {z : Int} {i : Bool} (h : y.toInt rm = (z, i)) : intOfVal sg w rm sat (.fin y) =
    if z < least sg w ∨ greatest sg w < z then
      if sat then (pat w (if z < least sg w then least sg w else greatest sg w), Flags.sat ||| Flags.when i Flags.nx)
      else (intIndefinite sg w, Flags.nv)
    else (pat w z, Flags.when i Flags.nx) := by
  simp only [pat, ← patternOf_eq, intOfVal, range_eq, h]

/-- A finite value into an integer format, by the integer that it is rounded to. -/
theorem intOfVal_fin {y : Exact} {z : Int} {i : Bool} (h : y.toInt rm = (z, i)) :
    (least sg w ≤ z → z ≤ greatest sg w → intOfVal sg w rm sat (.fin y) = (pat w z, Flags.when i Flags.nx)) ∧
      (z < least sg w → intOfVal sg w rm sat (.fin y) =
        if sat then (pat w (least sg w), Flags.sat ||| Flags.when i Flags.nx) else (intIndefinite sg w, Flags.nv)) ∧
      (greatest sg w < z → intOfVal sg w rm sat (.fin y) =
        if sat then (pat w (greatest sg w), Flags.sat ||| Flags.when i Flags.nx) else (intIndefinite sg w, Flags.nv)) := by
  have hle := least_le_greatest sg w
  rw [intOfVal_eq h]
  refine ⟨fun h1 h2 => ?_, fun h1 => ?_, fun h1 => ?_⟩
  · rw [if_neg (by omega)]
  · rw [if_pos (.inl h1), if_pos h1]
  · have hn : ¬ z < least sg w := not_lt.mpr (hle.trans h1.le)
    rw [if_pos (.inr h1), if_neg hn]

theorem intOfVal_inf (n : Bool) : intOfVal sg w rm sat (.inf n) =
    if sat then (pat w (if n then least sg w else greatest sg w), Flags.sat) else (intIndefinite sg w, Flags.nv) := by
  simp only [pat, ← patternOf_eq, intOfVal, range_eq]

/-- A number between two integers is rounded to the one that the mode names. -/
theorem toInt_neighbour {y : Exact} {l n : Nat} (hs : y.sticky = false) (hlo : Exact.cmp (units l 0) (magOf y) ≠ .gt)
    (hhi : Exact.cmp (magOf y) (units (l + 1) 0) = .lt)
    (hup : (Exact.cmp (units l 0) (magOf y) == .eq) = false ∧ goesUp rm y.neg l (Exact.cmp (magOf y) (units (2 * l + 1) (-1))) → n = l + 1)
    (hdn : ¬ ((Exact.cmp (units l 0) (magOf y) == .eq) = false ∧ goesUp rm y.neg l (Exact.cmp (magOf y) (units (2 * l + 1) (-1)))) → n = l) :
    y.toInt rm = (if y.neg then -(n : Int) else n, !(Exact.cmp (units l 0) (magOf y) == .eq)) := by
  obtain ⟨half, h1, h2⟩ := rounded_neighbour hs hlo hhi hup hdn
  rw [neg_zero] at h1
  simp only [Exact.toInt, h1, h2]

end Ints

/-- A pattern never decodes to a number with a remainder. -/
theorem decode_sticky {f : FpFmt} {x : Nat} {y : Exact} (h : f.decode x = .fin y) : y.sticky = false := by
  unfold FpFmt.decode at h
  dsimp only at h
  split at h
  · split at h <;> cases h
  · split at h
    · cases h
    · split at h <;> cases h <;> rfl

/-! ### MX blocks (R142, R148) -/

section Blocks

variable {code elem : Nat} {emax : Int} {maxBits : Nat} {rm : Rm}

/-- The forms of MX blocks: the code, the format of its elements, its emax and its largest pattern. -/
def Form (code elem : Nat) (emax : Int) (maxBits : Nat) : Prop :=
  (code, elem, emax, maxBits) ∈ [(0x18, 0x0C, 8, 0x7E), (0x19, 0x0D, 15, 0x7B), (0x1A, 0x0E, 4, 0x1F), (0x1B, 0x0F, 2, 0x1F), (0x1C, 0x10, 2, 7), (0x1D, 0, 0, 0)]

/-- A property of every form. -/
theorem Form.elim {P : Nat → Nat → Int → Nat → Prop} (h : Form code elem emax maxBits) (h0 : P 0x18 0x0C 8 0x7E) (h1 : P 0x19 0x0D 15 0x7B)
    (h2 : P 0x1A 0x0E 4 0x1F) (h3 : P 0x1B 0x0F 2 0x1F) (h4 : P 0x1C 0x10 2 7) (h5 : P 0x1D 0 0 0) : P code elem emax maxBits := by
  simp only [Form, List.mem_cons, Prod.mk.injEq, List.not_mem_nil, or_false] at h
  rcases h with ⟨rfl, rfl, rfl, rfl⟩ | ⟨rfl, rfl, rfl, rfl⟩ | ⟨rfl, rfl, rfl, rfl⟩ | ⟨rfl, rfl, rfl, rfl⟩ | ⟨rfl, rfl, rfl, rfl⟩ | ⟨rfl, rfl, rfl, rfl⟩
  exacts [h0, h1, h2, h3, h4, h5]

theorem mxEmax_form (h : Form code elem emax maxBits) : mxEmax code = emax :=
  h.elim (P := fun code _ emax _ => mxEmax code = emax) rfl rfl rfl rfl rfl rfl

theorem mxElem_form (h : Form code elem emax maxBits) : Fmt.mxElem code = elem :=
  h.elim (P := fun code elem _ _ => Fmt.mxElem code = elem) rfl rfl rfl rfl rfl rfl

theorem maxBits_form (h : Form code elem emax maxBits) (hc : code ≠ 0x1D) (n : Bool) :
    (FpFmt.get elem).maxBits n = (if n then 2 ^ ((FpFmt.get elem).width - 1) else 0) + maxBits :=
  h.elim (P := fun code elem _ maxBits => code ≠ 0x1D → (FpFmt.get elem).maxBits n = (if n then 2 ^ ((FpFmt.get elem).width - 1) else 0) + maxBits)
    (fun _ => by cases n <;> rfl) (fun _ => by cases n <;> rfl) (fun _ => by cases n <;> rfl) (fun _ => by cases n <;> rfl)
    (fun _ => by cases n <;> rfl) (fun h => absurd rfl h) hc

theorem scaleExp_of {k : Nat} (h : k < 256) : scaleExp k = if k = 255 then none else some ((k : Int) - 127) := by
  rw [scaleExp, Nat.mod_eq_of_lt h]

theorem mxVal_nan (x : Nat) : mxVal code 255 x = .nan false := by
  rw [mxVal, scaleExp_of (by decide), if_pos rfl]

theorem mxVal_of {k : Nat} (hk : k < 256) (h : k ≠ 255) (x : Nat) : mxVal code k x = (mxElemVal code x).scale ((k : Int) - 127) := by
  rw [mxVal, scaleExp_of hk, if_neg h]

theorem mxElemVal_form (h : Form code elem emax maxBits) (hc : code ≠ 0x1D) (x : Nat) : mxElemVal code x = (FpFmt.get elem).decode x := by
  rw [mxElemVal, if_neg (fun e => hc (beq_iff_eq.mp e)), mxElem_form h]

/-- A byte of MX INT8 (R142). -/
def byteOf (x : Nat) : Int := if x % 256 < 128 then (x % 256 : Nat) else ((x % 256 : Nat) : Int) - 256

theorem mxElemVal_byte (x : Nat) : mxElemVal 0x1D x = .fin ⟨decide (byteOf x < 0), (byteOf x).natAbs, -6, false⟩ := by
  rw [← ofInt_eq]
  rfl

/-- The greatest magnitude of some numbers is zero or the magnitude of one of them, and bounds them all. -/
theorem maxMag_spec (xs : List Exact) : (∀ y ∈ xs, mag y ≤ mag (maxMag (xs.map .fin))) ∧
    (maxMag (xs.map .fin) = Exact.zero false ∨ ∃ y ∈ xs, maxMag (xs.map .fin) = magOf y) := by
  induction xs using List.reverseRecOn with
  | nil => exact ⟨by simp, .inl rfl⟩
  | append_singleton xs x ih =>
    obtain ⟨h1, h2⟩ := ih
    have hstep : maxMag ((xs ++ [x]).map .fin) =
        if Exact.cmp (maxMag (xs.map .fin)) (magOf x) = .lt then magOf x else maxMag (xs.map .fin) := by
      rw [List.map_append, maxMag, List.foldl_append]
      rfl
    have hv : val (maxMag (xs.map .fin)) = mag (maxMag (xs.map .fin)) := by
      rcases h2 with h2 | ⟨y, -, h2⟩ <;> rw [h2] <;> rfl
    have hlt : Exact.cmp (maxMag (xs.map .fin)) (magOf x) = .lt ↔ mag (maxMag (xs.map .fin)) < mag x := by rw [cmp_lt, hv, val_magOf]
    rw [hstep]
    split
    · next h =>
      rw [hlt] at h
      refine ⟨fun y hy => ?_, .inr ⟨x, List.mem_append_right _ List.mem_cons_self, rfl⟩⟩
      rcases List.mem_append.mp hy with hy | hy
      · exact (h1 y hy).trans h.le
      · obtain rfl := List.mem_singleton.mp hy
        exact le_refl _
    · next h =>
      rw [hlt] at h
      refine ⟨fun y hy => ?_, h2.imp id fun ⟨y, hy, e⟩ => ⟨y, List.mem_append_left _ hy, e⟩⟩
      rcases List.mem_append.mp hy with hy | hy
      · exact h1 y hy
      · obtain rfl := List.mem_singleton.mp hy
        exact not_lt.mp h

/-- A number that bounds the magnitudes of a list and belongs to it has the greatest magnitude. -/
theorem maxMag_top {xs : List Exact} {top : Exact} (ht : top ∈ xs) (hmax : ∀ y ∈ xs, mag y ≤ mag top) : mag (maxMag (xs.map .fin)) = mag top := by
  obtain ⟨h1, h2⟩ := maxMag_spec xs
  refine le_antisymm ?_ (h1 top ht)
  rcases h2 with h2 | ⟨y, hy, h2⟩
  · rw [h2]
    exact (mag_eq_zero.mpr rfl).trans_le (mag_nonneg _)
  · rw [h2]
    exact hmax y hy

/-- The exponent of a block's scale (R148). -/
def blockExp (top : Exact) (emax : Int) : Int := if top.n = 0 then -127 else max (-127) (min 127 ((Nat.log2 top.n : Int) + top.e - emax))

theorem clamp_eq (z : Int) : (if z < -127 then -127 else if 127 < z then 127 else z) = max (-127) (min 127 z) := by
  split
  · omega
  · split <;> omega

theorem blockExp_eq {xs : List Exact} {top : Exact} (hs : ∀ y ∈ xs, y.sticky = false) (ht : top ∈ xs) (hmax : ∀ y ∈ xs, mag y ≤ mag top) :
    (if (maxMag (xs.map .fin)).isZero then -127
      else if (maxMag (xs.map .fin)).log2 - emax < -127 then -127
      else if 127 < (maxMag (xs.map .fin)).log2 - emax then 127 else (maxMag (xs.map .fin)).log2 - emax) = blockExp top emax := by
  have hm := maxMag_top ht hmax
  have hsticky : (maxMag (xs.map .fin)).sticky = false := by
    rcases (maxMag_spec xs).2 with h | ⟨y, hy, h⟩ <;> rw [h]
    · rfl
    · exact hs y hy
  have hz : (maxMag (xs.map .fin)).isZero = true ↔ top.n = 0 := by
    rw [← mag_eq_zero, ← hm, mag_eq_zero, Exact.isZero, hsticky, Bool.not_false, Bool.and_true, beq_iff_eq]
  rw [clamp_eq, blockExp]
  by_cases h : top.n = 0
  · rw [if_pos (hz.mpr h), if_pos h]
  · rw [if_neg (mt hz.mp h), if_neg h, log2_congr (fun e => h (mag_eq_zero.mp (hm ▸ mag_eq_zero.mpr e))) hm]
    rfl

/-- The elements of a block: what a value over the scale rounds to (R148). -/
def quantOne (code elem maxBits : Nat) (rm : Rm) (k : Int) (y : Exact) : Nat × Flags :=
  if code = 0x1D then
    ((max (-128) (min 127 (({ y with e := y.e - k + 6 } : Exact).toInt rm).1) % 256).toNat,
      (if (({ y with e := y.e - k + 6 } : Exact).toInt rm).2 then Flags.nx else 0) |||
        (if max (-128) (min 127 (({ y with e := y.e - k + 6 } : Exact).toInt rm).1) ≠ (({ y with e := y.e - k + 6 } : Exact).toInt rm).1 then Flags.sat else 0))
  else if ((FpFmt.get elem).round rm { y with e := y.e - k }).2 &&& Flags.of ≠ 0 then
    ((if y.neg then 2 ^ ((FpFmt.get elem).width - 1) else 0) + maxBits, Flags.of ||| Flags.nx ||| Flags.sat)
  else (FpFmt.get elem).round rm { y with e := y.e - k }

theorem clamp8_eq (z : Int) : (if z < -128 then -128 else if 127 < z then 127 else z) = max (-128) (min 127 z) := by
  split
  · omega
  · split <;> omega

theorem quantElem_eq (h : Form code elem emax maxBits) (k : Int) (y : Exact) :
    quantElem code rm { y with e := y.e - k } = quantOne code elem maxBits rm k y := by
  unfold quantElem quantOne
  by_cases hc : code = 0x1D
  · rw [if_pos (beq_iff_eq.mpr hc), if_pos hc]
    simp only [clamp8_eq, patternOf_eq, Flags.when, decide_eq_true_eq]
    rfl
  · rw [if_neg (fun e => hc (beq_iff_eq.mp e)), if_neg hc, mxElem_form h, ← maxBits_form h hc y.neg]
    simp only [bne_iff_ne]

theorem quantBlock_fin (h : Form code elem emax maxBits) {xs : List Exact} {top : Exact} (hs : ∀ y ∈ xs, y.sticky = false) (ht : top ∈ xs)
    (hmax : ∀ y ∈ xs, mag y ≤ mag top) :
    quantBlock code rm (xs.map .fin) = ((blockExp top emax + 127).toNat,
      xs.map (fun y => (quantOne code elem maxBits rm (blockExp top emax) y).1),
      xs.foldl (fun g y => g ||| (quantOne code elem maxBits rm (blockExp top emax) y).2) 0) := by
  have hexp := blockExp_eq (emax := emax) hs ht hmax
  refine (if_neg (by simp)).trans ?_
  dsimp only
  rw [mxEmax_form h, hexp, List.map_map, List.map_map, List.foldl_map]
  simp only [Function.comp_def, quantElem_eq h]
  rw [List.foldl_map]

theorem quantBlock_other {vs : List Val} (h : ∃ v ∈ vs, ∀ y, v ≠ .fin y) : quantBlock code rm vs = (255, vs.map (fun _ => 0), Flags.nv) := by
  obtain ⟨v, hv, hne⟩ := h
  refine if_pos (List.any_eq_true.mpr ⟨v, hv, ?_⟩)
  cases v with
  | fin y => exact (hne y rfl).elim
  | nan _ => rfl
  | inf _ => rfl

theorem length_quantBlock (vs : List Val) : (quantBlock code rm vs).2.1.length = vs.length := by
  unfold quantBlock
  split
  · exact List.length_map _
  · simp

end Blocks

end Sys2Proof.Proofs.Conversions
end

section
/-! PROOFS. `VCVT`, `VQMX` and `VDQMX` (R186 to R188). -/

namespace Sys2Proof.Proofs.VectorConversions

open Sys2Proof.Machine
open Sys2Proof.Safety
open Sys2Proof.Proofs.Groups
open Sys2Proof.Proofs.Lanes
open Sys2Proof.Proofs.Exacts
open Sys2Proof.Proofs.Conversions

/-! ### Registers of bits and of parts -/

section Bits

/-- Elements with a run of others put in their place. -/
theorem getD_splice (old new : List Nat) {lo j : Nat} (h : lo + new.length ≤ old.length) :
    (old.take lo ++ new ++ old.drop (lo + new.length)).getD j 0 = if lo ≤ j ∧ j < lo + new.length then new.getD (j - lo) 0 else old.getD j 0 := by
  have hl : (old.take lo).length = lo := by rw [List.length_take]; omega
  have hl2 : (old.take lo ++ new).length = lo + new.length := by rw [List.length_append, hl]
  by_cases h1 : j < lo
  · rw [List.getD_append _ _ _ _ (by omega), List.getD_append _ _ _ _ (by omega), if_neg (by omega), List.getD_eq_getElem?_getD,
      List.getElem?_take_of_lt h1, List.getD_eq_getElem?_getD]
  · by_cases h2 : j < lo + new.length
    · rw [List.getD_append _ _ _ _ (by omega), List.getD_append_right _ _ _ _ (by omega), hl, if_pos ⟨by omega, h2⟩]
    · rw [List.getD_append_right _ _ _ _ (by omega), hl2, if_neg (by omega), List.getD_eq_getElem?_getD, List.getElem?_drop, List.getD_eq_getElem?_getD]
      congr 2
      omega

theorem length_splice (old new : List Nat) {lo : Nat} (h : lo + new.length ≤ old.length) :
    (old.take lo ++ new ++ old.drop (lo + new.length)).length = old.length := by
  simp only [List.length_append, List.length_take, List.length_drop]
  omega

theorem velem_getD {w : Nat} {xs : List Nat} (hl : w * xs.length ≤ 8192) {i : Nat} (h : i < xs.length) :
    velem (BitVec.ofNat 8192 (natOfElems w xs)) w i = xs.getD i 0 % 2 ^ w := by
  rw [velem_natOfElems hl h, List.getD_eq_getElem _ _ h]

theorem getD_velems (v : VReg) {w j : Nat} (h : j < 8192 / w) : (velems v w).getD j 0 = velem v w j := by
  have hl : j < (velems v w).length := by rw [velems, List.length_map, List.length_range]; exact h
  rw [List.getD_eq_getElem _ _ hl]
  simp only [velems, List.getElem_map, List.getElem_range]

theorem length_velems (v : VReg) (w : Nat) : (velems v w).length = 8192 / w := by rw [velems, List.length_map, List.length_range]; rfl

/-- A bit of some elements is a bit of one of them. -/
theorem testBit_natOfElems {w : Nat} (hw : 0 < w) (xs : List Nat) {n : Nat} (h : n < w * xs.length) :
    (natOfElems w xs).testBit n = (xs.getD (n / w) 0).testBit (n % w) := by
  have hi : n / w < xs.length := Nat.div_lt_of_lt_mul h
  have hr : n % w < w := Nat.mod_lt _ hw
  have hn : n = n % w + w * (n / w) := (Nat.mod_add_div n w).symm
  have he := natOfElems_div_mod (w := w) xs hi
  have hb : (natOfElems w xs / 2 ^ (w * (n / w)) % 2 ^ w).testBit (n % w) = (natOfElems w xs).testBit n := by
    rw [Nat.testBit_mod_two_pow, Nat.testBit_div_two_pow, decide_eq_true hr, Bool.true_and, ← hn]
  rw [← hb, he, Nat.testBit_mod_two_pow, decide_eq_true hr, Bool.true_and, List.getD_eq_getElem _ _ hi]

theorem testBit_setBits (x lo n v i : Nat) : (setBits x lo n v).testBit i = if lo ≤ i ∧ i < lo + n then v.testBit (i - lo) else x.testBit i := by
  have hx : x % 2 ^ lo < 2 ^ lo := Nat.mod_lt _ (Nat.two_pow_pos lo)
  have hv : v % 2 ^ n < 2 ^ n := Nat.mod_lt _ (Nat.two_pow_pos n)
  have e : setBits x lo n v = 2 ^ lo * (2 ^ n * (x / 2 ^ (lo + n)) + v % 2 ^ n) + x % 2 ^ lo := by
    rw [setBits, Nat.pow_add]
    ring
  rw [e, Nat.testBit_two_pow_mul_add _ hx, Nat.testBit_two_pow_mul_add _ hv, Nat.testBit_mod_two_pow, Nat.testBit_mod_two_pow, Nat.testBit_div_two_pow]
  by_cases h1 : i < lo
  · rw [if_pos h1, if_neg (by omega), decide_eq_true h1, Bool.true_and]
  · rw [if_neg h1]
    by_cases h2 : i - lo < n
    · rw [if_pos h2, if_pos (by omega), decide_eq_true h2, Bool.true_and]
    · rw [if_neg h2, if_neg (by omega)]
      congr 1
      omega

end Bits

/-! ### `VCVT` (R186) -/

section Convert

variable {s : State} {d a b fn : Reg} {lw : LW}

/-- What `VCVT` makes of its lanes: the elements of the part, with their flags. -/
def converted (s : State) (q : Seqr) (d a b fn : Reg) (lw : LW) : List (Nat × Flags) :=
  (List.range (lanesOf (max (Fmt.vwidth lw.y) (Fmt.vwidth fn)))).map (fun i =>
    if laneOn lw (s.getV q lw.greg) (max (Fmt.vwidth lw.y) (Fmt.vwidth fn)) i then
      convertElem lw.y.toNat fn.toNat (velem (s.getV q a) (Fmt.vwidth lw.y)
        (if Fmt.vwidth fn ≤ Fmt.vwidth lw.y then i else b.toNat * lanesOf (max (Fmt.vwidth lw.y) (Fmt.vwidth fn)) + i)) (s.rm q lw.rm) (lw.x.getLsbD 0)
    else ((velems (s.getV q d) (Fmt.vwidth fn)).getD
      (if Fmt.vwidth fn ≤ Fmt.vwidth lw.y then b.toNat * lanesOf (max (Fmt.vwidth lw.y) (Fmt.vwidth fn)) + i else i) 0, 0))

/-- Where the part stands in the destination. -/
def partAt (b fn : Reg) (lw : LW) : Nat :=
  if Fmt.vwidth fn ≤ Fmt.vwidth lw.y then b.toNat * lanesOf (max (Fmt.vwidth lw.y) (Fmt.vwidth fn)) else 0

/-- The elements of the destination after `VCVT`. -/
def convertedReg (s : State) (q : Seqr) (d a b fn : Reg) (lw : LW) : List Nat :=
  (velems (s.getV q d) (Fmt.vwidth fn)).take (partAt b fn lw) ++ (converted s q d a b fn lw).map Prod.fst ++
    (velems (s.getV q d) (Fmt.vwidth fn)).drop (partAt b fn lw + lanesOf (max (Fmt.vwidth lw.y) (Fmt.vwidth fn)))

theorem exec_vcvt : exec (.vcvt d a b fn lw) s = vecIssue s lw [srcV a lw.ta, srcV d] [] 2 fun q s =>
    vecCommit q s true d.toNat (natOfElems (Fmt.vwidth fn) (convertedReg s q d a b fn lw))
      ((converted s q d a b fn lw).foldl (fun f r => f ||| r.2) 0) 4 := rfl

theorem rm_laned (s : State) (dp : Nat) (q : Seqr) (r : BitVec 3) : (laned s dp).rm q r = s.rm q r := by
  unfold State.rm
  rw [thread_laned]

theorem converted_laned (s : State) (dp : Nat) : converted (laned s dp) s.cur d a b fn lw = converted s s.cur d a b fn lw := by
  unfold converted
  simp only [getV_laned, rm_laned]

theorem convertedReg_laned (s : State) (dp : Nat) : convertedReg (laned s dp) s.cur d a b fn lw = convertedReg s s.cur d a b fn lw := by
  unfold convertedReg
  rw [converted_laned, getV_laned]

/-- A width of the lanes' elements (R160). -/
def IsWidth (w : Nat) : Prop := w = 8 ∨ w = 16 ∨ w = 32 ∨ w = 64

theorem isWidth_of {n : Nat} (h1 : n ≤ 11) (h2 : n ≠ 7) : IsWidth (Fmt.width n) := by
  interval_cases n <;> first | exact absurd rfl h2 | (unfold IsWidth; decide)

theorem part_fits {ws wt p : Nat} (hs : IsWidth ws) (ht : IsWidth wt) (hp : p * min ws wt < max ws wt) :
    (if wt ≤ ws then p * (8192 / max ws wt) else 0) + 8192 / max ws wt ≤ 8192 / wt := by
  by_cases h : wt ≤ ws
  · rw [max_eq_left h, min_eq_right h] at hp
    rw [if_pos h, max_eq_left h]
    rcases hs with rfl | rfl | rfl | rfl <;> rcases ht with rfl | rfl | rfl | rfl <;> omega
  · rw [if_neg h, max_eq_right (Nat.le_of_not_le h), Nat.zero_add]

/-- The value that `VCVT` gives lane i, with its flags. -/
def convOf (s : State) (a b fn : Reg) (lw : LW) (i : Nat) : Nat × Flags :=
  convertElem lw.y.toNat fn.toNat (velem (s.getV s.cur a) (Fmt.vwidth lw.y)
    (if Fmt.vwidth fn ≤ Fmt.vwidth lw.y then i else b.toNat * lanesOf (max (Fmt.vwidth lw.y) (Fmt.vwidth fn)) + i)) (s.rm s.cur lw.rm) (lw.x.getLsbD 0)

variable {wm : Nat}

theorem getD_converted (hk : lw.gbit.toNat < wm) (hm : max (Fmt.vwidth lw.y) (Fmt.vwidth fn) = wm) {i : Nat} (hi : i < 8192 / wm) :
    ((converted s s.cur d a b fn lw).map Prod.fst).getD i 0 = if laneEnabled s lw wm i then (convOf s a b fn lw i).1
      else (velems (s.getV s.cur d) (Fmt.vwidth fn)).getD (partAt b fn lw + i) 0 := by
  have hl : i < ((converted s s.cur d a b fn lw).map Prod.fst).length := by
    rw [List.length_map, converted, List.length_map, List.length_range, lanesOf, hm]
    exact hi
  rw [List.getD_eq_getElem _ _ hl]
  simp only [converted, List.getElem_map, List.getElem_range, hm, laneOn_eq hk]
  split
  · rw [convOf, hm]
  · rw [partAt, hm]
    split
    · rfl
    · rw [Nat.zero_add]

theorem flags_converted (hk : lw.gbit.toNat < wm) (hm : max (Fmt.vwidth lw.y) (Fmt.vwidth fn) = wm) :
    (converted s s.cur d a b fn lw).foldl (fun f r => f ||| r.2) 0 = laneFlags s lw wm (8192 / wm) (fun i => (convOf s a b fn lw i).2) := by
  rw [converted, foldl_map_flags, hm]
  refine List.foldl_ext _ _ _ fun f i _ => ?_
  rw [laneOn_eq hk]
  unfold convOf
  rw [hm]
  split
  · rfl
  · exact BitVec.or_zero

/-- `VCVT` writes the converted elements into its part and keeps the others (R186). -/
theorem vcvt_commits (hw : IsWidth (Fmt.vwidth fn)) (hws : IsWidth (Fmt.vwidth lw.y)) (hm : max (Fmt.vwidth lw.y) (Fmt.vwidth fn) = wm)
    (hp : b.toNat * min (Fmt.vwidth lw.y) (Fmt.vwidth fn) < wm) (hr : VecReady s lw wm [srcV a lw.ta, srcV d]) :
    VecCommits (.vcvt d a b fn lw) s true d 2 4 (fun v => ∀ j, j < 8192 / Fmt.vwidth fn → velem (BitVec.ofNat 8192 v) (Fmt.vwidth fn) j =
        if partAt b fn lw ≤ j ∧ j < partAt b fn lw + 8192 / wm ∧ laneEnabled s lw wm (j - partAt b fn lw) then
          (convOf s a b fn lw (j - partAt b fn lw)).1 % 2 ^ Fmt.vwidth fn
        else velem (s.getV s.cur d) (Fmt.vwidth fn) j)
      (laneFlags s lw wm (8192 / wm) (fun i => (convOf s a b fn lw i).2)) := by
  rw [← flags_converted (d := d) hr.gbit hm]
  have hlen : ((converted s s.cur d a b fn lw).map Prod.fst).length = 8192 / wm := by
    rw [List.length_map, converted, List.length_map, List.length_range, lanesOf, hm]
  have hfit : partAt b fn lw + ((converted s s.cur d a b fn lw).map Prod.fst).length ≤ (velems (s.getV s.cur d) (Fmt.vwidth fn)).length := by
    rw [hlen, length_velems, ← hm]
    exact part_fits hws hw (hm ▸ hp)
  have hreg : convertedReg s s.cur d a b fn lw = (velems (s.getV s.cur d) (Fmt.vwidth fn)).take (partAt b fn lw) ++
      (converted s s.cur d a b fn lw).map Prod.fst ++
      (velems (s.getV s.cur d) (Fmt.vwidth fn)).drop (partAt b fn lw + ((converted s s.cur d a b fn lw).map Prod.fst).length) := by
    rw [hlen, convertedReg, lanesOf, hm]
  have hall := (length_splice _ _ hfit).trans (length_velems _ _)
  refine vecCommits_of exec_vcvt hr (v := natOfElems (Fmt.vwidth fn) (convertedReg s s.cur d a b fn lw))
    (by rw [converted_laned, convertedReg_laned]) fun j hj => ?_
  have hdvd : Fmt.vwidth fn * (8192 / Fmt.vwidth fn) ≤ 8192 := Nat.mul_div_le _ _
  rw [hreg, velem_getD (by rw [hall]; exact hdvd) (by rw [hall]; exact hj), getD_splice _ _ hfit, hlen]
  by_cases hin : partAt b fn lw ≤ j ∧ j < partAt b fn lw + 8192 / wm
  · rw [if_pos hin, getD_converted hr.gbit hm (by omega)]
    by_cases hon : laneEnabled s lw wm (j - partAt b fn lw) = true
    · rw [if_pos hon, if_pos ⟨hin.1, hin.2, hon⟩]
    · rw [if_neg hon, if_neg fun h => hon h.2.2, Nat.add_sub_cancel' hin.1, getD_velems _ hj, Nat.mod_eq_of_lt (velem_lt _ _ _)]
  · rw [if_neg hin, if_neg fun h => hin ⟨h.1, h.2.1⟩, getD_velems _ hj, Nat.mod_eq_of_lt (velem_lt _ _ _)]

end Convert

/-! ### `VQMX` (R187) -/

section Quantise

variable {s : State} {d a b fn : Reg} {lw : LW}

/-- Block k of the operand, quantised. -/
def blockOf (s : State) (q : Seqr) (a fn : Reg) (lw : LW) (k : Nat) : Nat × List Nat × Flags :=
  quantBlock fn.toNat (s.rm q lw.rm) ((List.range 32).map fun j => FpFmt.fp32.decode (velem (s.getV q a) 32 (32 * k + j)))

def partOf (s : State) (q : Seqr) (a fn : Reg) (lw : LW) : Nat :=
  natOfElems (32 * Fmt.vwidth fn) (((List.range 8).map (blockOf s q a fn lw)).map fun k => natOfElems (Fmt.vwidth fn) k.2.1)

def scalesOf (s : State) (q : Seqr) (a fn : Reg) (lw : LW) : Nat := natOfElems 8 (((List.range 8).map (blockOf s q a fn lw)).map Prod.fst)

def blockFlags (s : State) (q : Seqr) (a fn : Reg) (lw : LW) : Flags := ((List.range 8).map (blockOf s q a fn lw)).foldl (fun f k => f ||| k.2.2) 0

/-- The destination with its part, and a register with its scales. -/
def withPart (s : State) (q : Seqr) (d a b fn : Reg) (lw : LW) : Nat :=
  setBits (s.getV q d).toNat (256 * Fmt.vwidth fn * b.toNat) (256 * Fmt.vwidth fn) (partOf s q a fn lw)

theorem exec_vqmx : exec (.vqmx d a b fn lw) s = vecIssue s lw [srcV a lw.ta, srcV lw.x lw.tc, srcV d] [] 4 fun q s =>
    if lw.x = d then vecCommit q s true d.toNat (setBits (withPart s q d a b fn lw) (64 * b.toNat) 64 (scalesOf s q a fn lw)) (blockFlags s q a fn lw) 8
    else vecCommitTwo q s d.toNat (withPart s q d a b fn lw) lw.x.toNat
      (setBits (s.getV q lw.x).toNat (64 * b.toNat) 64 (scalesOf s q a fn lw)) (blockFlags s q a fn lw) 8 := rfl

theorem blockOf_laned (s : State) (dp : Nat) : blockOf (laned s dp) s.cur a fn lw = blockOf s s.cur a fn lw := by
  unfold blockOf
  simp only [getV_laned, rm_laned]

theorem testBit_partOf (hw : 0 < Fmt.vwidth fn) {n : Nat} (h : n < 256 * Fmt.vwidth fn) : (partOf s s.cur a fn lw).testBit n =
    ((blockOf s s.cur a fn lw (n / (32 * Fmt.vwidth fn))).2.1.getD (n % (32 * Fmt.vwidth fn) / Fmt.vwidth fn) 0).testBit (n % Fmt.vwidth fn) := by
  have hw32 : 0 < 32 * Fmt.vwidth fn := by omega
  have hk : n / (32 * Fmt.vwidth fn) < 8 := Nat.div_lt_of_lt_mul (by omega)
  have hr : n % (32 * Fmt.vwidth fn) < 32 * Fmt.vwidth fn := Nat.mod_lt _ hw32
  have hget : ((((List.range 8).map (blockOf s s.cur a fn lw)).map fun k => natOfElems (Fmt.vwidth fn) k.2.1).getD (n / (32 * Fmt.vwidth fn)) 0) =
      natOfElems (Fmt.vwidth fn) (blockOf s s.cur a fn lw (n / (32 * Fmt.vwidth fn))).2.1 := by
    rw [List.getD_eq_getElem _ _ (by simpa using hk)]
    simp only [List.getElem_map, List.getElem_range]
  have hlen : (blockOf s s.cur a fn lw (n / (32 * Fmt.vwidth fn))).2.1.length = 32 := by
    rw [blockOf, length_quantBlock, List.length_map, List.length_range]
  rw [partOf, testBit_natOfElems hw32 _ (by simp only [List.length_map, List.length_range]; omega), hget,
    testBit_natOfElems hw _ (by rw [hlen]; omega), Nat.mod_mod_of_dvd _ (Dvd.intro_left 32 rfl)]

theorem testBit_scalesOf {n : Nat} (h : n < 64) : (scalesOf s s.cur a fn lw).testBit n = (blockOf s s.cur a fn lw (n / 8)).1.testBit (n % 8) := by
  have hk : n / 8 < 8 := by omega
  rw [scalesOf, testBit_natOfElems (by decide) _ (by simpa using h), List.getD_eq_getElem _ _ (by simpa using hk)]
  simp only [List.getElem_map, List.getElem_range]

/-- The bits of the destination with its part. -/
def partBit (s : State) (d a b fn : Reg) (lw : LW) (n : Nat) : Bool :=
  if 256 * Fmt.vwidth fn * b.toNat ≤ n ∧ n < 256 * Fmt.vwidth fn * b.toNat + 256 * Fmt.vwidth fn then
    ((blockOf s s.cur a fn lw ((n - 256 * Fmt.vwidth fn * b.toNat) / (32 * Fmt.vwidth fn))).2.1.getD
      ((n - 256 * Fmt.vwidth fn * b.toNat) % (32 * Fmt.vwidth fn) / Fmt.vwidth fn) 0).testBit ((n - 256 * Fmt.vwidth fn * b.toNat) % Fmt.vwidth fn)
  else (s.getV s.cur d).getLsbD n

/-- The bits of a register with the scales. -/
def scaledBit (s : State) (a b fn : Reg) (lw : LW) (old : Nat → Bool) (k : Nat) : Bool :=
  if 64 * b.toNat ≤ k ∧ k < 64 * (b.toNat + 1) then (blockOf s s.cur a fn lw ((k - 64 * b.toNat) / 8)).1.testBit ((k - 64 * b.toNat) % 8) else old k

theorem testBit_withPart (hw : 0 < Fmt.vwidth fn) (n : Nat) : (withPart s s.cur d a b fn lw).testBit n = partBit s d a b fn lw n := by
  rw [withPart, testBit_setBits]
  refine ite_congr rfl (fun h => ?_) fun _ => rfl
  have hlt : n - 256 * Fmt.vwidth fn * b.toNat < 256 * Fmt.vwidth fn := by omega
  rw [testBit_partOf hw hlt]

theorem testBit_withScales (x n : Nat) : (setBits x (64 * b.toNat) 64 (scalesOf s s.cur a fn lw)).testBit n =
    scaledBit s a b fn lw (fun k => x.testBit k) n := by
  rw [testBit_setBits]
  refine ite_congr (by rw [Nat.mul_succ]) (fun h => ?_) fun _ => rfl
  have hlt : n - 64 * b.toNat < 64 := by omega
  rw [testBit_scalesOf hlt]

theorem laned_bodies (s : State) : withPart (laned s 4) s.cur d a b fn lw = withPart s s.cur d a b fn lw ∧
    scalesOf (laned s 4) s.cur a fn lw = scalesOf s s.cur a fn lw ∧ blockFlags (laned s 4) s.cur a fn lw = blockFlags s s.cur a fn lw := by
  unfold withPart partOf scalesOf blockFlags
  rw [blockOf_laned, getV_laned]
  exact ⟨rfl, rfl, rfl⟩

/-- `VQMX` with one destination. -/
theorem vqmx_one (hw : 0 < Fmt.vwidth fn) (hr : VecReady s lw 32 [srcV a lw.ta, srcV lw.x lw.tc, srcV d]) (hx : lw.x = d) :
    VecCommits (.vqmx d a b fn lw) s true d 4 8 (fun v => ∀ n, n < 8192 → v.testBit n = scaledBit s a b fn lw (partBit s d a b fn lw) n)
      (blockFlags s s.cur a fn lw) := by
  obtain ⟨h1, h2, h3⟩ := laned_bodies (d := d) (a := a) (b := b) (fn := fn) (lw := lw) s
  refine vecCommits_of exec_vqmx hr (v := setBits (withPart s s.cur d a b fn lw) (64 * b.toNat) 64 (scalesOf s s.cur a fn lw))
    (by rw [if_pos hx, h1, h2, h3]) fun n _ => ?_
  rw [testBit_withScales, funext (testBit_withPart hw)]

/-- The result of `VQMX` on its way to a register. -/
def pendOf (s : State) (r : Reg) (v : Nat) (fl : Flags) : VPend :=
  ⟨true, r.toNat, v, s.now + 8, false, fl, 0, (s.prog s.cur).pc, (s.prog s.cur).pend, none⟩

theorem prog_committed {c k : Nat} (hq : s.cur = .vec c k) (r : VPend) (fl : Flags) :
    (((laned s 4).orFsr s.cur fl).addResult s.cur r).prog s.cur = s.prog s.cur := by
  rw [hq]
  show (((((laned s 4).setCtx c _ _).setSlot c k _).slot c k).prog) = (s.slot c k).prog
  rw [State.slot_setSlot_self]
  show (((laned s 4).setCtx c _ _).slot c k).prog = (s.slot c k).prog
  rw [State.slot_setCtx, slot_laned]

/-- What two results of `VQMX` leave. -/
def committedTwo (s : State) (d sr : Reg) (v1 v2 : Nat) (fl : Flags) : State :=
  (((laned s 4).orFsr s.cur fl).addResult s.cur (pendOf s d v1 fl)).addResult s.cur (pendOf s sr v2 fl)

theorem vecCommitTwo_laned {c k : Nat} (hq : s.cur = .vec c k) (d sr : Reg) (v1 v2 : Nat) (fl : Flags) :
    vecCommitTwo s.cur (laned s 4) d.toNat v1 sr.toNat v2 fl 8 =
      if fl &&& (s.thread s.cur).fte.setWidth 8 ≠ 0 then
        .trapAt ((laned s 4).orFsr s.cur fl) .fpx (BitVec.ofNat 64 (fl &&& (s.thread s.cur).fte.setWidth 8).toNat) (s.prog s.cur).pc
          (s.prog s.cur).pend
      else .retire (committedTwo s d sr v1 v2 fl) := by
  rw [vecCommitTwo, vecCommit_laned]
  by_cases h0 : fl &&& (s.thread s.cur).fte.setWidth 8 ≠ 0
  · rw [if_pos h0, if_pos h0]
  · rw [if_neg h0, if_neg h0]
    have hc : committed s 4 8 true d v1 fl = ((laned s 4).orFsr s.cur fl).addResult s.cur (pendOf s d v1 fl) :=
      if_neg fun h => Bool.noConfusion h.1
    rw [hc]
    simp only [prog_committed hq]
    have hnow : (((laned s 4).orFsr s.cur fl).addResult s.cur (pendOf s d v1 fl)).now = s.now := by rw [hq]; rfl
    rw [hnow]
    rfl

/-- `VQMX` with two destinations. -/
theorem vqmx_two (hw : 0 < Fmt.vwidth fn) (hr : VecReady s lw 32 [srcV a lw.ta, srcV lw.x lw.tc, srcV d]) (hx : lw.x ≠ d) :
    (blockFlags s s.cur a fn lw &&& (s.thread s.cur).fte.setWidth 8 = 0 → ∃ v1 v2 : Nat, (∀ n, n < 8192 → v1.testBit n = partBit s d a b fn lw n) ∧
      (∀ n, n < 8192 → v2.testBit n = scaledBit s a b fn lw (fun k => (s.getV s.cur lw.x).getLsbD k) n) ∧
      Retires (.vqmx d a b fn lw) s 2 (committedTwo s d lw.x v1 v2 (blockFlags s s.cur a fn lw))) ∧
    (blockFlags s s.cur a fn lw &&& (s.thread s.cur).fte.setWidth 8 ≠ 0 → exec (.vqmx d a b fn lw) s =
      .next (((laned s 4).orFsr s.cur (blockFlags s s.cur a fn lw)).raise s.cur ⟨.fpx,
        BitVec.ofNat 64 (blockFlags s s.cur a fn lw &&& (s.thread s.cur).fte.setWidth 8).toNat, (s.prog s.cur).pc, (s.prog s.cur).pend⟩)) := by
  obtain ⟨c, k, hq⟩ := hr.runs
  obtain ⟨h1, h2, h3⟩ := laned_bodies (d := d) (a := a) (b := b) (fn := fn) (lw := lw) s
  have hbody : vecCommitTwo s.cur (laned s 4) d.toNat (withPart (laned s 4) s.cur d a b fn lw) lw.x.toNat
      (setBits ((laned s 4).getV s.cur lw.x).toNat (64 * b.toNat) 64 (scalesOf (laned s 4) s.cur a fn lw)) (blockFlags (laned s 4) s.cur a fn lw) 8 =
      vecCommitTwo s.cur (laned s 4) d.toNat (withPart s s.cur d a b fn lw) lw.x.toNat
        (setBits (s.getV s.cur lw.x).toNat (64 * b.toNat) 64 (scalesOf s s.cur a fn lw)) (blockFlags s s.cur a fn lw) 8 := by
    rw [h1, h2, h3, getV_laned]
  have hbody := hbody.trans (vecCommitTwo_laned hq d lw.x _ _ _)
  constructor
  · intro h0
    rw [if_neg (not_not_intro h0)] at hbody
    exact ⟨_, _, fun n _ => testBit_withPart hw n, fun n _ => testBit_withScales _ n, _,
      issue_of_vecReady exec_vqmx hr ((if_neg hx).trans hbody) (fun _ => Res.noConfusion), after_finish s _ _ 2 (fresh_prog s _)⟩
  · intro h0
    rw [if_pos h0] at hbody
    exact issue_of_vecReady exec_vqmx hr ((if_neg hx).trans hbody) (fun _ => Res.noConfusion)

end Quantise

/-! ### `VDQMX` (R188) -/

section Expand

variable {s : State} {d a b fn : Reg} {lw : LW}

/-- Element i that `VDQMX` expands, with its flags. -/
def expanded (s : State) (q : Seqr) (a b fn : Reg) (lw : LW) (i : Nat) : Nat × Flags :=
  dequantElem fn.toNat (s.rm q lw.rm) (velem (s.getV q lw.x) 8 (8 * b.toNat + i / 32))
    ((s.getV q a).toNat / 2 ^ (256 * Fmt.vwidth fn * b.toNat + Fmt.vwidth fn * i) % 2 ^ Fmt.vwidth fn)

theorem exec_vdqmx : exec (.vdqmx d a b fn lw) s = vecIssue s lw [srcV a lw.ta, srcV lw.x lw.tc] [srcV d] 4 fun q s =>
    vecCommit q s true d.toNat (natOfElems 32 (((List.range 256).map (expanded s q a b fn lw)).map Prod.fst))
      (((List.range 256).map (expanded s q a b fn lw)).foldl (fun f r => f ||| r.2) 0) 8 := rfl

theorem expanded_laned (s : State) (dp : Nat) : expanded (laned s dp) s.cur a b fn lw = expanded s s.cur a b fn lw := by
  unfold expanded
  simp only [getV_laned, rm_laned]

theorem dequantElem_eq (code : Nat) (rm : Rm) {k : Nat} (hk : k < 256) (x : Nat) :
    dequantElem code rm k x = if k = 255 then (0x7FC00000, Flags.nv) else FpFmt.fp32.ofVal rm (mxVal code k x) := by
  rw [dequantElem, scaleExp_of hk]
  by_cases h : k = 255
  · rw [if_pos h, if_pos h]
    rfl
  · rw [if_neg h, if_neg h]

theorem laneEnabled_of_unguarded (hg : lw.g = false) (w j : Nat) : laneEnabled s lw w j = true := by rw [laneEnabled, hg]; rfl

theorem vdqmx_writes (hg : lw.g = false) (hr : VecReady s lw 32 [srcV a lw.ta, srcV lw.x lw.tc, srcV d]) {f : Nat → Nat × Flags}
    (hf : ∀ i, expanded s s.cur a b fn lw i = f i) : VecWrites (.vdqmx d a b fn lw) s lw d 32 4 8 f := by
  have hfl : ((List.range 256).map (expanded s s.cur a b fn lw)).foldl (fun f r => f ||| r.2) 0 = laneFlags s lw 32 (8192 / 32) (fun j => (f j).2) := by
    rw [foldl_map_flags]
    refine List.foldl_ext _ _ _ fun g j _ => ?_
    rw [if_pos (laneEnabled_of_unguarded hg 32 j), hf]
  unfold VecWrites
  rw [← hfl]
  refine vecCommits_of exec_vdqmx hr (v := natOfElems 32 (((List.range 256).map (expanded s s.cur a b fn lw)).map Prod.fst))
    (by rw [expanded_laned]) fun j hj => ?_
  have hlen : (((List.range 256).map (expanded s s.cur a b fn lw)).map Prod.fst).length = 256 := by
    rw [List.length_map, List.length_map, List.length_range]
  rw [if_pos (laneEnabled_of_unguarded hg 32 j), velem_natOfElems (by rw [hlen]) (by rw [hlen]; exact hj)]
  simp only [List.getElem_map, List.getElem_range, hf]

end Expand

theorem vwidth_pos_of_mx {fn : Reg} (h1 : 0x18 ≤ fn.toNat) (h2 : fn.toNat ≤ 0x1D) : 0 < Fmt.vwidth fn := by
  unfold Fmt.vwidth
  generalize fn.toNat = n at h1 h2
  interval_cases n <;> decide

/-- Settles O25: each instruction by its elements and bits, the conversions by the neighbour that rounding takes, the blocks by their greatest
magnitude. -/
theorem vectorConversions : Obligations.VectorConversions := by
  unfold Obligations.VectorConversions
  refine ⟨fun s d a b fn lw => ⟨fun h1 h2 h3 h4 => ?_, fun h1 h2 hg => ?_, fun h1 h2 hg hr => ?_⟩, fun src dst x rm sat h1 h2 h3 h4 => ?_,
    fun code elem emax maxBits hform => ⟨fun k x hk => ?_, fun rm vs hv => quantBlock_other hv, fun rm xs top k hs ht => ?_⟩⟩
  · intro ws wt wm m conv old hp hr
    have hall := vcvt_commits (a := a) (isWidth_of h1 h2) (isWidth_of h3 h4) (wm := wm) rfl hp hr
    refine ⟨fun hle => ?_, fun hlt => ?_⟩
    · have hconv : convOf s a b fn lw = conv := funext fun i => by rw [convOf, if_pos hle]
      have hpart : partAt b fn lw = b.toNat * m := if_pos hle
      rw [hconv, hpart] at hall
      exact hall
    · have hconv : convOf s a b fn lw = fun i => conv (b.toNat * m + i) := funext fun i => by rw [convOf, if_neg (Nat.not_le.mpr hlt)]; rfl
      have hpart : partAt b fn lw = 0 := if_neg (Nat.not_le.mpr hlt)
      have hm : m = 8192 / wt := by rw [show wt = wm from (max_eq_right hlt.le).symm]
      rw [hconv, hpart] at hall
      refine Landings.vecCommits_mono hall fun v hv j hj => (hv j (hm ▸ hj)).trans ?_
      rw [Nat.zero_add, Nat.sub_zero]
      exact if_congr ⟨fun h => h.2.2, fun h => ⟨Nat.zero_le _, hj, h⟩⟩ rfl rfl
  · intro w sr block fl lo part scaled hlo hr q s1 pending on
    have hw := vwidth_pos_of_mx h1 h2
    have hfl : blockFlags s s.cur a fn lw = fl := List.foldl_map ..
    have hlo' : lo = 256 * Fmt.vwidth fn * b.toNat := rfl
    refine ⟨fun hx => ?_, fun hx h0 => ?_, fun hx h0 => ?_⟩
    · rw [← hfl]
      exact vqmx_one hw hr hx
    · obtain ⟨v1, v2, hv1, hv2, hret⟩ := (vqmx_two (b := b) hw hr hx).1 (by rw [hfl]; exact h0)
      refine ⟨v1, v2, hv1, hv2, ?_⟩
      rw [hfl] at hret
      exact hret
    · have h := (vqmx_two (b := b) hw hr hx).2 (by rw [hfl]; exact h0)
      rw [hfl] at h
      exact h
  · intro w
    refine vdqmx_writes hg hr fun i => ?_
    exact dequantElem_eq _ _ (velem_lt _ 8 _) _
  · intro r g w ws signed lo hi pat other int
    refine ⟨fun hs hd => ?_, fun hs hd => ?_, fun hs => ?_⟩
    · exact (convertElem_ints hs hd).trans (intOfInt_eq _)
    · exact (convertElem_val (fun h => absurd h.2 (by omega)) (readVal_int hs)).trans (writeVal_float ⟨hd, h3⟩ _)
    · intro v
      have hread : readVal src x = (v, 0) := readVal_float ⟨hs, h1⟩
      have hr : r = writeVal dst rm sat v := convertElem_val (fun h => absurd h.1 (by omega)) hread
      rw [hr]
      refine ⟨fun hd => ?_, fun hd => ?_⟩
      · have hf : IsFloat dst := ⟨hd, h3⟩
        rw [writeVal_float hf]
        refine ⟨fun n hv => ?_, fun n hv => ?_, fun y hv => ?_⟩
        · rw [hv]
          exact float_nan hf n
        · rw [hv]
          exact float_inf hf n
        · rw [hv]
          rfl
      · rw [writeVal_int hd]
        refine ⟨fun n hv => ?_, fun n hv => ?_, fun y l n hv => ?_⟩
        · rw [hv]
          exact apply_ite (fun z => (z, Flags.nv)) (sat = true) 0 other |>.symm
        · rw [hv]
          exact intOfVal_inf n
        · intro a units exact half up z nx hlo hhi hup hdn
          rw [hv]
          have hi := toInt_neighbour (decode_sticky hv) hlo hhi hup hdn
          have hnx : Flags.when (!exact) Flags.nx = nx := by
            show (if !exact then Flags.nx else 0) = if exact then 0 else Flags.nx
            cases exact <;> rfl
          obtain ⟨hin, hbelow, habove⟩ := intOfVal_fin (sg := dst % 2 == 0) (w := w) (sat := sat) hi
          rw [← hnx]
          exact ⟨hin, hbelow, habove⟩
  · refine ⟨fun h => ?_, fun h hc => ?_, fun h hc => ?_⟩
    · rw [h]
      exact mxVal_nan x
    · rw [mxVal_of hk h, mxElemVal_form hform hc]
      cases (FpFmt.get elem).decode x <;> rfl
    · rw [mxVal_of hk h, hc, mxElemVal_byte]
      rfl
  · intro mag' hmax hexp reduced one
    have hmax' : ∀ y ∈ xs, mag y ≤ mag top := fun y hy => cmp_ne_gt.mp (hmax y hy)
    have hk : k = blockExp top emax := hexp
    subst hk
    exact quantBlock_fin hform hs ht hmax'

end Sys2Proof.Proofs.VectorConversions
end

section
/-! PROOFS. The order of the patterns of a format, the ranking of candidates, and the canonical tree (R140, R156, R190). -/

namespace Sys2Proof.Proofs.Ranking

open Sys2Proof.Machine
open Sys2Proof.Proofs.Exacts

/-! ### Patterns of a format with infinities (R139, R140) -/

section Patterns

variable {f : FpFmt} {x y : Nat}

/-- The bits of a pattern below its sign. -/
def low (f : FpFmt) (x : Nat) : Nat := x % 2 ^ (f.ebits + f.mbits)

/-- The sign of a pattern. -/
def sign (f : FpFmt) (x : Nat) : Bool := x / 2 ^ (f.ebits + f.mbits) % 2 == 1

/-- The pattern of plus infinity. -/
def top (f : FpFmt) : Nat := (2 ^ f.ebits - 1) * 2 ^ f.mbits

/-- The magnitude of a finite pattern in the least unit of its format. -/
def steps (mb n : Nat) : Nat := if n / 2 ^ mb = 0 then n % 2 ^ mb else (n % 2 ^ mb + 2 ^ mb) * 2 ^ (n / 2 ^ mb - 1)

theorem steps_zero (mb : Nat) : steps mb 0 = 0 := by simp [steps]

/-- A pattern of a higher exponent field exceeds all those of lower ones. -/
theorem steps_lt_binade {mb n : Nat} : steps mb n < 2 ^ mb * 2 ^ (n / 2 ^ mb) := by
  have hm := Nat.mod_lt n (Nat.two_pow_pos mb)
  unfold steps
  split
  · next h => rwa [h, Nat.pow_zero, Nat.mul_one]
  · next h =>
    obtain ⟨k, hk⟩ := Nat.exists_eq_succ_of_ne_zero h
    rw [hk, Nat.succ_sub_one, Nat.pow_succ, Nat.mul_comm (2 ^ k), ← Nat.mul_assoc]
    exact Nat.mul_lt_mul_of_pos_right (by omega) (Nat.two_pow_pos k)

theorem binade_le_steps {mb n : Nat} (h : n / 2 ^ mb ≠ 0) : 2 ^ mb * 2 ^ (n / 2 ^ mb - 1) ≤ steps mb n := by
  rw [steps, if_neg h]
  exact Nat.mul_le_mul_right _ (Nat.le_add_left _ _)

theorem steps_strictMono (mb : Nat) : StrictMono (steps mb) := by
  intro a b hab
  have hle : a / 2 ^ mb ≤ b / 2 ^ mb := Nat.div_le_div_right hab.le
  rcases hle.eq_or_lt with he | hlt
  · have ha := Nat.div_add_mod a (2 ^ mb)
    have hb := Nat.div_add_mod b (2 ^ mb)
    have hm : a % 2 ^ mb < b % 2 ^ mb := by
      rw [he] at ha
      omega
    unfold steps
    rw [he]
    split
    · exact hm
    · exact Nat.mul_lt_mul_of_pos_right (by omega) (Nat.two_pow_pos _)
  · calc steps mb a < 2 ^ mb * 2 ^ (a / 2 ^ mb) := steps_lt_binade
      _ ≤ 2 ^ mb * 2 ^ (b / 2 ^ mb - 1) := Nat.mul_le_mul_left _ (Nat.pow_le_pow_right Nat.two_pos (Nat.le_sub_one_of_lt hlt))
      _ ≤ steps mb b := binade_le_steps ((Nat.zero_le _).trans_lt hlt).ne'

theorem expField_low (f : FpFmt) (x : Nat) : f.expField x = low f x / 2 ^ f.mbits := by
  rw [FpFmt.expField, low, Nat.add_comm f.ebits, Nat.pow_add, Nat.mod_mul_right_div_self]

theorem mantField_low (f : FpFmt) (x : Nat) : f.mantField x = low f x % 2 ^ f.mbits := by
  rw [FpFmt.mantField, low, Nat.mod_mod_of_dvd _ (Nat.pow_dvd_pow 2 (Nat.le_add_left _ _))]

theorem low_lt (f : FpFmt) (x : Nat) : low f x < 2 ^ f.ebits * 2 ^ f.mbits := by
  rw [← Nat.pow_add]
  exact Nat.mod_lt _ (Nat.two_pow_pos _)

theorem field_top_iff : low f x / 2 ^ f.mbits = 2 ^ f.ebits - 1 ↔ top f ≤ low f x := by
  have hlt : low f x / 2 ^ f.mbits < 2 ^ f.ebits := (Nat.div_lt_iff_lt_mul (Nat.two_pow_pos _)).mpr (low_lt f x)
  rw [top, ← Nat.le_div_iff_mul_le (Nat.two_pow_pos _)]
  omega

theorem mant_zero_iff (h : top f ≤ low f x) : low f x % 2 ^ f.mbits = 0 ↔ low f x = top f := by
  have hd := Nat.div_add_mod (low f x) (2 ^ f.mbits)
  rw [field_top_iff.mpr h, Nat.mul_comm] at hd
  unfold top at *
  omega

/-- A pattern above that of infinity is a NaN. -/
theorem decode_nan (hi : f.hasInf = true) (h : top f < low f x) : f.decode x = .nan (low f x % 2 ^ f.mbits / 2 ^ (f.mbits - 1) == 0) := by
  have hf := field_top_iff.mpr h.le
  have hm : low f x % 2 ^ f.mbits ≠ 0 := fun e => h.ne' ((mant_zero_iff h.le).mp e)
  simp only [FpFmt.decode, expField_low, mantField_low, hi, hf, beq_self_eq_true, Bool.and_self, if_true]
  rw [if_neg (by simpa using hm)]

theorem decode_inf (hi : f.hasInf = true) (h : low f x = top f) : f.decode x = .inf (sign f x) := by
  have hf := field_top_iff.mpr h.ge
  have hm := (mant_zero_iff h.ge).mpr h
  simp only [FpFmt.decode, expField_low, mantField_low, hi, hf, hm, beq_self_eq_true, Bool.and_self, if_true]
  rfl

theorem decode_fin (hi : f.hasInf = true) (h : low f x < top f) : ∃ z, f.decode x = .fin z ∧ z.neg = sign f x ∧ z.sticky = false ∧
    mag z = steps f.mbits (low f x) * 2 ^ (f.emin - f.mbits) := by
  have hf : ¬ low f x / 2 ^ f.mbits = 2 ^ f.ebits - 1 := fun e => Nat.not_le.mpr h (field_top_iff.mp e)
  have hfb : (low f x / 2 ^ f.mbits == 2 ^ f.ebits - 1) = false := beq_eq_false_iff_ne.mpr hf
  simp only [FpFmt.decode, expField_low, mantField_low, hi, hfb, Bool.and_false, Bool.not_true, Bool.false_and, Bool.false_eq_true, if_false]
  by_cases h0 : low f x / 2 ^ f.mbits = 0
  · rw [if_pos (by simpa using h0)]
    exact ⟨_, rfl, rfl, rfl, by rw [mag, steps, if_pos h0]⟩
  · rw [if_neg (by simpa using h0)]
    refine ⟨_, rfl, rfl, rfl, ?_⟩
    rw [mag, steps, if_neg h0, Nat.cast_mul, mul_assoc, Nat.cast_pow, Nat.cast_ofNat, ← zpow_natCast (2 : ℚ) (low f x / 2 ^ f.mbits - 1),
      ← zpow_add₀ two_ne_zero]
    congr 2
    obtain ⟨k, hk⟩ := Nat.exists_eq_succ_of_ne_zero h0
    rw [FpFmt.emin, hk]
    dsimp only
    omega

/-- The number by which patterns are ordered: their magnitude with their sign. -/
def key (f : FpFmt) (x : Nat) : Int := if sign f x then -(low f x : Int) else low f x

theorem val_key {z : Exact} (hn : z.neg = sign f x) (hm : mag z = steps f.mbits (low f x) * 2 ^ (f.emin - f.mbits)) :
    val z = (if sign f x then -((steps f.mbits (low f x) : Nat) : Int) else ((steps f.mbits (low f x) : Nat) : Int) : Int) * 2 ^ (f.emin - f.mbits) := by
  rw [val, hn, hm]
  cases sign f x
  · rfl
  · rw [if_pos rfl, if_pos rfl]
    push_cast
    ring

theorem signed_steps_lt {mb a b : Nat} {sa sb : Bool} :
    (if sa then -((steps mb a : Nat) : Int) else (steps mb a : Nat)) < (if sb then -((steps mb b : Nat) : Int) else (steps mb b : Nat)) ↔
      (if sa then -(a : Int) else a) < (if sb then -(b : Int) else b) := by
  have h := (steps_strictMono mb).lt_iff_lt (a := a) (b := b)
  have h' := (steps_strictMono mb).lt_iff_lt (a := b) (b := a)
  have za := (steps_strictMono mb).lt_iff_lt (a := 0) (b := a)
  have zb := (steps_strictMono mb).lt_iff_lt (a := 0) (b := b)
  rw [steps_zero] at za zb
  cases sa <;> cases sb <;> simp only [Bool.false_eq_true, if_true, if_false] <;> omega

/-- Patterns that are no NaN are ordered by their keys (R171, R174). -/
theorem order_key (hi : f.hasInf = true) (h0 : 0 < top f) (hx : low f x ≤ top f) (hy : low f y ≤ top f) :
    (Val.order false (f.decode x) (f.decode y) = .lt ↔ key f x < key f y) ∧ (Val.order false (f.decode x) (f.decode y) = .gt ↔ key f y < key f x) := by
  unfold key
  rcases hx.eq_or_lt with ex | hx
  · rw [decode_inf hi ex, ex]
    rcases hy.eq_or_lt with ey | hy
    · rw [decode_inf hi ey, ey]
      cases sign f x <;> cases sign f y <;> simp [Val.order] <;> omega
    · obtain ⟨z, hz, -⟩ := decode_fin hi hy
      rw [hz]
      cases sign f x <;> cases sign f y <;> simp [Val.order] <;> omega
  · obtain ⟨z, hz, hzn, -, hzm⟩ := decode_fin hi hx
    rw [hz]
    rcases hy.eq_or_lt with ey | hy
    · rw [decode_inf hi ey, ey]
      cases sign f x <;> cases sign f y <;> simp [Val.order] <;> omega
    · obtain ⟨v, hv, hvn, -, hvm⟩ := decode_fin hi hy
      rw [hv]
      show (Exact.cmp z v = .lt ↔ _) ∧ (Exact.cmp z v = .gt ↔ _)
      rw [cmp_lt, cmp_gt, val_key hzn hzm, val_key hvn hvm, mul_lt_mul_iff_left₀ (two_zpow_pos _), mul_lt_mul_iff_left₀ (two_zpow_pos _),
        Int.cast_lt, Int.cast_lt]
      exact ⟨signed_steps_lt, signed_steps_lt⟩

end Patterns

/-! ### Ranked lists (R190, R191) -/

section Ranks

variable {L : Type} [LinearOrder L] {g : RankCand → L} {asc : Bool} {cs : List RankCand}

/-- Candidates are ranked by a number of theirs. -/
def RankedBy (asc : Bool) (g : RankCand → L) (cs : List RankCand) : Prop := ∀ x ∈ cs, ∀ y ∈ cs, ranksBefore asc x y = true ↔ g x < g y

theorem rankInsert_perm (asc : Bool) (c : RankCand) (l : List RankCand) : (rankInsert asc c l).Perm (c :: l) := by
  induction l with
  | nil => exact .refl _
  | cons x r ih =>
    rw [rankInsert]
    split
    · exact (ih.cons x).trans (.swap c x r)
    · exact .refl _

theorem rankInsert_sorted {c : RankCand} {l : List RankCand} (hr : RankedBy asc g (c :: l)) (h : l.Pairwise (fun x y => g x ≤ g y)) :
    (rankInsert asc c l).Pairwise (fun x y => g x ≤ g y) := by
  induction l with
  | nil => exact List.pairwise_singleton _ _
  | cons x r ih =>
    obtain ⟨hx, hrest⟩ := List.pairwise_cons.mp h
    have hxc := hr x (by simp) c (by simp)
    rw [rankInsert]
    split
    · next hb =>
      refine List.pairwise_cons.mpr ⟨fun y hy => ?_, ih (fun a ha b hb => hr a (by simp at ha ⊢; tauto) b (by simp at hb ⊢; tauto)) hrest⟩
      rcases List.mem_cons.mp ((rankInsert_perm asc c r).mem_iff.mp hy) with rfl | hy
      · exact (hxc.mp hb).le
      · exact hx y hy
    · next hb =>
      have hcx : g c ≤ g x := not_lt.mp fun e => hb (hxc.mpr e)
      refine List.pairwise_cons.mpr ⟨fun y hy => ?_, h⟩
      rcases List.mem_cons.mp hy with rfl | hy
      · exact hcx
      · exact hcx.trans (hx y hy)

/-- The ranked candidates: a rearrangement in order. -/
theorem ranked_spec (hr : RankedBy asc g cs) : (cs.foldl (fun l c => rankInsert asc c l) []).Perm cs ∧
    (cs.foldl (fun l c => rankInsert asc c l) []).Pairwise (fun x y => g x ≤ g y) := by
  induction cs using List.reverseRecOn with
  | nil => exact ⟨.refl _, .nil⟩
  | append_singleton cs c ih =>
    obtain ⟨hp, hs⟩ := ih fun x hx y hy => hr x (List.mem_append_left _ hx) y (List.mem_append_left _ hy)
    rw [List.foldl_append, List.foldl_cons, List.foldl_nil]
    have hperm : (c :: cs.foldl (fun l c => rankInsert asc c l) []).Perm (cs ++ [c]) := (hp.cons c).trans (List.perm_append_singleton c cs).symm
    exact ⟨(rankInsert_perm _ _ _).trans hperm, rankInsert_sorted (fun x hx y hy => hr x (hperm.mem_iff.mp hx) y (hperm.mem_iff.mp hy)) hs⟩

/-- The better of the best so far and a candidate. -/
def better (asc : Bool) (m : Option RankCand) (c : RankCand) : Option RankCand :=
  match m with
  | none => some c
  | some b => if ranksBefore asc c b then some c else some b

/-- The best candidate: none where there is none, else one that none ranks before. -/
theorem best_spec (hr : RankedBy asc g cs) : (cs = [] → cs.foldl (better asc) none = none) ∧
    (cs ≠ [] → ∃ b ∈ cs, cs.foldl (better asc) none = some b ∧ ∀ c ∈ cs, g b ≤ g c) := by
  refine ⟨fun h => by rw [h]; rfl, ?_⟩
  induction cs using List.reverseRecOn with
  | nil => exact fun h => absurd rfl h
  | append_singleton cs c ih =>
    intro _
    rw [List.foldl_append, List.foldl_cons, List.foldl_nil]
    have hc : c ∈ cs ++ [c] := List.mem_append_right _ List.mem_cons_self
    by_cases h0 : cs = []
    · subst h0
      exact ⟨c, hc, rfl, by simp⟩
    · obtain ⟨b, hb, he, hle⟩ := ih (fun x hx y hy => hr x (List.mem_append_left _ hx) y (List.mem_append_left _ hy)) h0
      have hb' : b ∈ cs ++ [c] := List.mem_append_left _ hb
      rw [he]
      by_cases hlt : ranksBefore asc c b = true
      · refine ⟨c, hc, if_pos hlt, fun y hy => ?_⟩
        have hcb := (hr c hc b hb').mp hlt
        rcases List.mem_append.mp hy with hy | hy
        · exact hcb.le.trans (hle y hy)
        · rw [List.mem_singleton.mp hy]
      · refine ⟨b, hb', if_neg hlt, fun y hy => ?_⟩
        rcases List.mem_append.mp hy with hy | hy
        · exact hle y hy
        · rw [List.mem_singleton.mp hy]
          exact not_lt.mp fun e => hlt ((hr c hc b hb').mpr e)

end Ranks

/-! ### The canonical tree (R156) -/

section Tree

variable {α : Type} {op : α → α → α × Flags} {l : List (Option α)} {d e j : Nat}

theorem clog2_between (h1 : 2 ^ j < l.length) (h2 : l.length ≤ 2 ^ (j + 1)) : clog2 l.length - 1 = j := by
  have hpos := Nat.two_pow_pos j
  have hne : l.length - 1 ≠ 0 := by omega
  have hlog : Nat.log2 (l.length - 1) = j := (Nat.log2_eq_iff hne).mpr ⟨by omega, by omega⟩
  rw [clog2, if_neg (by omega), hlog, Nat.add_sub_cancel]

/-- What two halves of a tree come to. -/
def joined (op : α → α → α × Flags) (x y : Option α × Flags) : Option α × Flags :=
  match x.1, y.1 with
  | none, v => (v, x.2 ||| y.2)
  | u, none => (u, x.2 ||| y.2)
  | some u, some v => (some (op u v).1, x.2 ||| y.2 ||| (op u v).2)

section Joined

variable {x y : Option α × Flags}

theorem joined_some {u v : α} (hx : x.1 = some u) (hy : y.1 = some v) : joined op x y = (some (op u v).1, x.2 ||| y.2 ||| (op u v).2) := by
  simp only [joined, hx, hy]

theorem joined_none_left (hx : x.1 = none) : joined op x y = (y.1, x.2 ||| y.2) := by simp only [joined, hx]

theorem joined_none_right (hy : y.1 = none) : joined op x y = (x.1, x.2 ||| y.2) := by
  unfold joined
  cases hx : x.1 <;> simp only [hy]

end Joined

theorem canonTree_split (h : 2 ≤ l.length) : canonTree op (d + 1) l =
    joined op (canonTree op d (l.take (2 ^ (clog2 l.length - 1)))) (canonTree op d (l.drop (2 ^ (clog2 l.length - 1)))) := by
  match l, h with
  | a :: b :: r, _ =>
    rw [canonTree]
    · rcases canonTree op d ((a :: b :: r).take (2 ^ (clog2 (a :: b :: r).length - 1))) with ⟨_ | u, f⟩ <;>
        rcases canonTree op d ((a :: b :: r).drop (2 ^ (clog2 (a :: b :: r).length - 1))) with ⟨_ | v, f'⟩ <;> rfl
    · exact fun h => absurd h (List.cons_ne_nil _ _)
    · exact fun l h => absurd (List.cons.inj h).2 (List.cons_ne_nil _ _)

theorem canonTree_short (h : l.length ≤ 1) : canonTree op (d + 1) l = canonTree op (e + 1) l := by
  match l, h with
  | [], _ => rfl
  | [_], _ => rfl

/-- The bound on the depth does not matter where it suffices. -/
theorem canonTree_depth : ∀ {d e : Nat} {l : List (Option α)}, l.length ≤ 2 ^ d → l.length ≤ 2 ^ e →
    canonTree op (d + 1) l = canonTree op (e + 1) l := by
  intro d
  induction d with
  | zero => exact fun hd _ => canonTree_short (by simpa using hd)
  | succ d ih =>
    intro e l hd he
    by_cases h1 : l.length ≤ 1
    · exact canonTree_short h1
    · cases e with
      | zero => exact absurd he (by simpa using h1)
      | succ e =>
        have hne : l.length - 1 ≠ 0 := by omega
        have hk : clog2 l.length - 1 = Nat.log2 (l.length - 1) := by rw [clog2, if_neg h1, Nat.add_sub_cancel]
        have hlo : 2 ^ Nat.log2 (l.length - 1) ≤ l.length - 1 := Nat.log2_self_le hne
        have hhi : l.length - 1 < 2 ^ (Nat.log2 (l.length - 1) + 1) := Nat.lt_log2_self
        have hkd : Nat.log2 (l.length - 1) ≤ d := Nat.lt_succ_iff.mp ((Nat.pow_lt_pow_iff_right (by decide)).mp (by omega : 2 ^ Nat.log2 (l.length - 1) < 2 ^ (d + 1)))
        have hke : Nat.log2 (l.length - 1) ≤ e := Nat.lt_succ_iff.mp ((Nat.pow_lt_pow_iff_right (by decide)).mp (by omega : 2 ^ Nat.log2 (l.length - 1) < 2 ^ (e + 1)))
        have hpd : 2 ^ Nat.log2 (l.length - 1) ≤ 2 ^ d := Nat.pow_le_pow_right Nat.two_pos hkd
        have hpe : 2 ^ Nat.log2 (l.length - 1) ≤ 2 ^ e := Nat.pow_le_pow_right Nat.two_pos hke
        rw [Nat.pow_succ] at hhi
        have htd : (l.take (2 ^ Nat.log2 (l.length - 1))).length ≤ 2 ^ Nat.log2 (l.length - 1) := List.length_take_le _ _
        have hdd : (l.drop (2 ^ Nat.log2 (l.length - 1))).length ≤ 2 ^ Nat.log2 (l.length - 1) := by
          rw [List.length_drop]
          omega
        rw [canonTree_split (d := d + 1) (l := l) (by omega), canonTree_split (d := e + 1) (l := l) (by omega), hk,
          ih (htd.trans hpd) (htd.trans hpe), ih (hdd.trans hpd) (hdd.trans hpe)]

end Tree

end Sys2Proof.Proofs.Ranking
end

section
/-! PROOFS. The reductions and rankings of the vector engine (R189 to R191). -/

namespace Sys2Proof.Proofs.VectorReductions

open Sys2Proof.Machine
open Sys2Proof.Safety
open Sys2Proof.Proofs.Lanes
open Sys2Proof.Proofs.VectorMoves
open Sys2Proof.Proofs.VectorConversions
open Sys2Proof.Proofs.Ranking

section Reduce

variable {s : State} {d a b fn : Reg} {lw : LW} {i : Instr}

/-- The leaves of a reduction. -/
def leavesOf (s : State) (a : Reg) (lw : LW) (w : Nat) : List (Option Nat) :=
  (List.range (8192 / w)).map fun j => if laneEnabled s lw w j then some (velem (s.getV s.cur a) w j) else none

theorem leaves_laned (hk : lw.gbit.toNat < Fmt.vwidth fn) (dp : Nat) : leaves lw ((laned s dp).getV s.cur lw.greg) ((laned s dp).getV s.cur a)
    (Fmt.vwidth fn) = leavesOf s a lw (Fmt.vwidth fn) := by
  rw [getV_laned, getV_laned, leaves, leavesOf]
  refine List.map_congr_left fun j _ => ?_
  rw [laneOn_eq hk]

/-- The value of a result, extended as its format says (R189). -/
def extOf (fn : Reg) (y : BitVec 6) (x : Nat) : DWord :=
  if (decide (fn.toNat ≤ 6) && fn.toNat % 2 == 0 && !y.getLsbD 0) = true ∧ 2 ^ (Fmt.vwidth fn - 1) ≤ x % 2 ^ Fmt.vwidth fn then
    BitVec.ofInt 64 (((x % 2 ^ Fmt.vwidth fn : Nat) : Int) - 2 ^ Fmt.vwidth fn)
  else BitVec.ofNat 64 (x % 2 ^ Fmt.vwidth fn)

theorem extElem_eq_extOf (y : BitVec 6) (x : Nat) : extElem fn y x = extOf fn y x := by
  have hmod : extElem fn y x = extElem fn y (x % 2 ^ Fmt.vwidth fn) := by
    simp only [extElem, sextN, zextN, signedOf, Nat.mod_mod]
  rw [hmod, extElem_eq (Nat.mod_lt _ (Nat.two_pow_pos _)), extOf]

/-- A reduction commits the canonical tree over its leaves. -/
theorem vecCommits_reduce {identity : Nat} {op : Rm → Nat → Nat → Nat × Flags} {g : Nat → Nat → Nat × Flags}
    (hi : exec i s = vecReduce s d a fn lw identity op) (hr : VecReady s lw (Fmt.vwidth fn) [srcV a lw.ta, srcS d])
    (hg : op (s.rm s.cur lw.rm) = g) :
    VecCommits i s false d 2 12 (fun v => BitVec.ofNat 64 v =
        extOf fn lw.y ((canonTree g 11 (leavesOf s a lw (Fmt.vwidth fn))).1.getD identity))
      (canonTree g 11 (leavesOf s a lw (Fmt.vwidth fn))).2 := by
  subst hg
  have hi' : exec i s = vecIssue s lw [srcV a lw.ta] [srcS d] 2 fun q s =>
      vecCommit q s false d.toNat (extElem fn lw.y
        ((canonTree (op (s.rm q lw.rm)) 11 (leaves lw (s.getV q lw.greg) (s.getV q a) (Fmt.vwidth fn))).1.getD identity)).toNat
        (canonTree (op (s.rm q lw.rm)) 11 (leaves lw (s.getV q lw.greg) (s.getV q a) (Fmt.vwidth fn))).2 12 := hi.trans rfl
  refine vecCommits_of (srcs := [srcV a lw.ta]) (dests := [srcS d])
    (v := (extElem fn lw.y ((canonTree (op (s.rm s.cur lw.rm)) 11 (leavesOf s a lw (Fmt.vwidth fn))).1.getD identity)).toNat) hi' hr ?_ ?_
  · rw [leaves_laned hr.gbit, rm_laned]
  · rw [BitVec.ofNat_toNat, BitVec.setWidth_eq, extElem_eq_extOf]

theorem isVFloat_false (h : fn.toNat ≤ 6) : Fmt.isVFloat fn = false := by
  unfold Fmt.isVFloat
  rw [decide_eq_false (by omega : ¬ 8 ≤ fn.toNat), Bool.false_and]

theorem isVFloat_true (h1 : 8 ≤ fn.toNat) (h2 : fn.toNat ≤ 11) : Fmt.isVFloat fn = true := by
  unfold Fmt.isVFloat
  rw [decide_eq_true h1, decide_eq_true h2, Bool.true_and]

theorem exec_vrsum : exec (.vrsum d a fn lw) s = vecReduce s d a fn lw 0 fun rm x y =>
    if Fmt.isVFloat fn then fpAdd (FpFmt.get fn.toNat) rm ((FpFmt.get fn.toNat).decode x) ((FpFmt.get fn.toNat).decode y)
    else ((x + y) % 2 ^ Fmt.vwidth fn, 0) := rfl
theorem exec_vrmax : exec (.vrmax d a fn lw) s = vecReduce s d a fn lw (extremeIdentity fn lw.y true) fun _ x y => elemExtreme fn lw.y true x y := rfl
theorem exec_vrmin : exec (.vrmin d a fn lw) s = vecReduce s d a fn lw (extremeIdentity fn lw.y false) fun _ x y => elemExtreme fn lw.y false x y := rfl

/-- The signedness of an integer format (R177). -/
def signOf (fn : Reg) (y : BitVec 6) : Bool := decide (fn.toNat ≤ 6) && fn.toNat % 2 == 0 && !y.getLsbD 0

theorem isSigned_signOf (h : fn.toNat ≤ 6) (y : BitVec 6) : Fmt.isSigned fn y = signOf fn y := by
  rw [IntegerLanes.isSigned_eq h, signOf, decide_eq_true h, Bool.true_and]

theorem extremeIdentity_int (h : fn.toNat ≤ 6) (y : BitVec 6) (m : Bool) : extremeIdentity fn y m =
    if m then (if signOf fn y then 2 ^ (Fmt.vwidth fn - 1) else 0) else (if signOf fn y then 2 ^ (Fmt.vwidth fn - 1) - 1 else 2 ^ Fmt.vwidth fn - 1) := by
  have hw : IsWidth (Fmt.vwidth fn) := isWidth_of (by omega) (by omega)
  rw [extremeIdentity, isVFloat_false h, if_neg Bool.false_ne_true, isSigned_signOf h]
  generalize Fmt.vwidth fn = w at hw
  generalize signOf fn y = sg
  rcases hw with rfl | rfl | rfl | rfl <;> revert sg m <;> decide

theorem elemExtreme_int (h : fn.toNat ≤ 6) (y : BitVec 6) (m : Bool) (a b : Nat) : elemExtreme fn y m a b =
    (if m then (if intOf (Fmt.vwidth fn) (signOf fn y) a < intOf (Fmt.vwidth fn) (signOf fn y) b then b else a)
      else (if intOf (Fmt.vwidth fn) (signOf fn y) a < intOf (Fmt.vwidth fn) (signOf fn y) b then a else b), 0) := by
  rw [elemExtreme, isVFloat_false h, if_neg Bool.false_ne_true, isSigned_signOf h]
  by_cases hlt : intOf (Fmt.vwidth fn) (signOf fn y) a < intOf (Fmt.vwidth fn) (signOf fn y) b <;> cases m <;> simp [hlt]

theorem extremeIdentity_float (h1 : 8 ≤ fn.toNat) (h2 : fn.toNat ≤ 11) (y : BitVec 6) (m : Bool) :
    extremeIdentity fn y m = (FpFmt.get fn.toNat).infBits m := by rw [extremeIdentity, isVFloat_true h1 h2, if_pos rfl]

theorem elemExtreme_float (h1 : 8 ≤ fn.toNat) (h2 : fn.toNat ≤ 11) (y : BitVec 6) (m : Bool) (a b : Nat) :
    elemExtreme fn y m a b = fpMinMax (FpFmt.get fn.toNat) m a b := by rw [elemExtreme, isVFloat_true h1 h2, if_pos rfl]

end Reduce

/-! ### Candidates (R190) -/

section Candidates

variable {s : State} {d a b fn : Reg} {lw : LW}

/-- The candidate that an element of a lane is. -/
def candOf (s : State) (a fn : Reg) (lw : LW) (j : Nat) : RankCand :=
  ⟨j, elemVal fn lw.y (velem (s.getV s.cur a) (Fmt.vwidth fn) j), (tieHash (s.thread s.cur).tseed (BitVec.ofNat 64 j)).toNat⟩

/-- The enabled lanes. -/
def lanesOn (s : State) (fn : Reg) (lw : LW) : List Nat := (List.range (8192 / Fmt.vwidth fn)).filter (laneEnabled s lw (Fmt.vwidth fn))

def candidates (s : State) (a fn : Reg) (lw : LW) : List RankCand := ((lanesOn s fn lw).map (candOf s a fn lw)).filter fun c => !c.val.isNan

def candFlags (s : State) (a fn : Reg) (lw : LW) : Flags := ((lanesOn s fn lw).map (candOf s a fn lw)).foldl (fun f c => f ||| c.val.snanFlag) 0

theorem rankCands_eq (hk : lw.gbit.toNat < Fmt.vwidth fn) : rankCands fn lw (s.getV s.cur lw.greg) (s.getV s.cur a) (s.thread s.cur).tseed =
    (candidates s a fn lw, candFlags s a fn lw) := by
  have hon : laneOn lw (s.getV s.cur lw.greg) (Fmt.vwidth fn) = laneEnabled s lw (Fmt.vwidth fn) := funext fun j => laneOn_eq hk
  unfold rankCands
  dsimp only
  rw [hon]
  rfl

theorem mem_candidates {c : RankCand} : c ∈ candidates s a fn lw ↔
    ∃ j, (j < 8192 / Fmt.vwidth fn ∧ laneEnabled s lw (Fmt.vwidth fn) j = true ∧ (candOf s a fn lw j).val.isNan = false) ∧ candOf s a fn lw j = c := by
  simp only [candidates, lanesOn, List.mem_filter, List.mem_map, List.mem_range, Bool.not_eq_true']
  constructor
  · rintro ⟨⟨j, ⟨hj, hon⟩, rfl⟩, hn⟩
    exact ⟨j, ⟨hj, hon, hn⟩, rfl⟩
  · rintro ⟨j, ⟨hj, hon, hn⟩, rfl⟩
    exact ⟨⟨j, ⟨hj, hon⟩, rfl⟩, hn⟩

/-- The number by which a lane ranks: its element's key up or down, then its tie hash. -/
def rankOf (asc : Bool) (k : Nat → Int) (t : Nat → Nat) (c : RankCand) : Int ×ₗ Nat := toLex (if asc then k c.lane else -k c.lane, t c.lane)

theorem rankOf_lt (asc : Bool) (k : Nat → Int) (t : Nat → Nat) (x y : RankCand) : rankOf asc k t x < rankOf asc k t y ↔
    (if asc then k x.lane < k y.lane else k y.lane < k x.lane) ∨ k x.lane = k y.lane ∧ t x.lane < t y.lane := by
  rw [rankOf, rankOf, Prod.Lex.toLex_lt_toLex]
  cases asc <;> simp

/-- Candidates whose values are ordered by keys rank by them. -/
theorem rankedBy_key {asc : Bool} {k : Nat → Int} {cs : List RankCand} (ho : ∀ x ∈ cs, ∀ y ∈ cs,
    (Val.order false x.val y.val = .lt ↔ k x.lane < k y.lane) ∧ (Val.order false x.val y.val = .gt ↔ k y.lane < k x.lane))
    {t : Nat → Nat} (ht : ∀ x ∈ cs, x.tie = t x.lane) : RankedBy asc (rankOf asc k t) cs := by
  intro x hx y hy
  obtain ⟨h1, h2⟩ := ho x hx y hy
  rw [rankOf_lt, ranksBefore, ht x hx, ht y hy]
  revert h1 h2
  generalize Val.order false x.val y.val = o
  cases o <;> intro h1 h2 <;> simp only [reduceCtorEq, eq_self_iff_true, false_iff, true_iff] at h1 h2
  · cases asc <;> simp only [Bool.false_eq_true, if_true, if_false, true_iff, false_iff] <;> omega
  · cases asc <;> simp only [Bool.false_eq_true, if_true, if_false, decide_eq_true_eq] <;> omega
  · cases asc <;> simp only [Bool.not_false, Bool.not_true, Bool.false_eq_true, if_true, if_false, true_iff, false_iff] <;> omega

theorem order_int (z v : Int) : (Val.order false (.fin (Exact.ofInt z 0)) (.fin (Exact.ofInt v 0)) = .lt ↔ z < v) ∧
    (Val.order false (.fin (Exact.ofInt z 0)) (.fin (Exact.ofInt v 0)) = .gt ↔ v < z) := by
  have hval (n : Int) : Exacts.val (Exact.ofInt n 0) = n := by
    rw [Conversions.ofInt_eq, Exacts.val, Exacts.mag, zpow_zero, mul_one]
    by_cases h : n < 0
    · rw [decide_eq_true h, if_pos rfl, Nat.cast_natAbs, abs_of_neg h, Int.cast_neg, neg_neg]
    · rw [decide_eq_false h, if_neg Bool.false_ne_true, Nat.cast_natAbs, abs_of_nonneg (not_lt.mp h)]
  show (Exact.cmp _ _ = .lt ↔ _) ∧ (Exact.cmp _ _ = .gt ↔ _)
  rw [Exacts.cmp_lt, Exacts.cmp_gt, hval, hval, Int.cast_lt, Int.cast_lt]
  exact ⟨Iff.rfl, Iff.rfl⟩

/-- A format of the lanes' floating-point elements: its width, and its infinities. -/
theorem float_facts (h1 : 8 ≤ fn.toNat) (h2 : fn.toNat ≤ 11) : (FpFmt.get fn.toNat).hasInf = true ∧
    Fmt.vwidth fn - 1 = (FpFmt.get fn.toNat).ebits + (FpFmt.get fn.toNat).mbits ∧ 0 < (FpFmt.get fn.toNat).mbits ∧ 0 < top (FpFmt.get fn.toNat) ∧
    (FpFmt.get fn.toNat).infBits false = top (FpFmt.get fn.toNat) ∧ Fmt.vwidth fn = (FpFmt.get fn.toNat).ebits + (FpFmt.get fn.toNat).mbits + 1 := by
  unfold Fmt.vwidth
  generalize fn.toNat = n at h1 h2
  interval_cases n <;> decide

theorem key_eq {f : FpFmt} {x : Nat} (hx : x < 2 ^ (f.ebits + f.mbits + 1)) :
    key f x = if x < 2 ^ (f.ebits + f.mbits) then (x : Int) else 2 ^ (f.ebits + f.mbits) - (x : Int) := by
  have hp := Nat.two_pow_pos (f.ebits + f.mbits)
  unfold key sign low
  by_cases h : x < 2 ^ (f.ebits + f.mbits)
  · rw [if_pos h, Nat.div_eq_of_lt h, Nat.mod_eq_of_lt h]
    rfl
  · have hd : x / 2 ^ (f.ebits + f.mbits) = 1 := by
      rw [Nat.pow_succ] at hx
      exact Nat.div_eq_of_lt_le (by omega) (by omega)
    have hm := Nat.div_add_mod x (2 ^ (f.ebits + f.mbits))
    rw [hd, Nat.mul_one] at hm
    rw [if_neg h, hd, if_pos (by decide)]
    generalize x % 2 ^ (f.ebits + f.mbits) = r at hm
    rw [← hm]
    push_cast
    ring

/-- The number that orders the elements of a format. -/
def keyOf (fn : Reg) (y : BitVec 6) (x : Nat) : Int :=
  if fn.toNat ≤ 6 then intOf (Fmt.vwidth fn) (decide (fn.toNat ≤ 6) && fn.toNat % 2 == 0 && !y.getLsbD 0) x
  else if x < 2 ^ (Fmt.vwidth fn - 1) then (x : Int) else 2 ^ (Fmt.vwidth fn - 1) - (x : Int)

/-- An element that is a NaN. -/
def nanOf (fn : Reg) (x : Nat) : Bool :=
  decide (8 ≤ fn.toNat) && decide ((FpFmt.get fn.toNat).infBits false < x % 2 ^ (Fmt.vwidth fn - 1))

theorem elemVal_int (h : fn.toNat ≤ 6) (y : BitVec 6) (x : Nat) : elemVal fn y x = .fin (Exact.ofInt (keyOf fn y x) 0) := by
  rw [elemVal, isVFloat_false h, if_neg Bool.false_ne_true, keyOf, if_pos h, IntegerLanes.isSigned_eq h, decide_eq_true h, Bool.true_and]

theorem elemVal_float (h1 : 8 ≤ fn.toNat) (h2 : fn.toNat ≤ 11) (y : BitVec 6) (x : Nat) : elemVal fn y x = (FpFmt.get fn.toNat).decode x := by
  rw [elemVal, isVFloat_true h1 h2, if_pos rfl]

theorem nanOf_float (h1 : 8 ≤ fn.toNat) (h2 : fn.toNat ≤ 11) (x : Nat) : nanOf fn x = decide (top (FpFmt.get fn.toNat) < low (FpFmt.get fn.toNat) x) := by
  obtain ⟨-, hw, -, -, hinf, -⟩ := float_facts h1 h2
  rw [nanOf, decide_eq_true h1, Bool.true_and, hinf, hw]
  rfl

theorem isNan_elemVal (hf : IsElem fn) (y : BitVec 6) (x : Nat) : (elemVal fn y x).isNan = nanOf fn x := by
  obtain ⟨h2, h7⟩ := hf
  by_cases h : fn.toNat ≤ 6
  · rw [elemVal_int h, nanOf, decide_eq_false (by omega : ¬ 8 ≤ fn.toNat), Bool.false_and]
    rfl
  · have h1 : 8 ≤ fn.toNat := by omega
    obtain ⟨hi, -⟩ := float_facts h1 h2
    rw [elemVal_float h1 h2, nanOf_float h1 h2]
    rcases Nat.lt_trichotomy (low (FpFmt.get fn.toNat) x) (top (FpFmt.get fn.toNat)) with hl | hl | hl
    · obtain ⟨z, hz, -⟩ := decode_fin hi hl
      rw [hz, decide_eq_false (by omega)]
      rfl
    · rw [decode_inf hi hl, decide_eq_false (by omega)]
      rfl
    · rw [decode_nan hi hl, decide_eq_true hl]
      rfl

theorem order_elemVal (hf : IsElem fn) (y : BitVec 6) {x z : Nat} (hx : x < 2 ^ Fmt.vwidth fn) (hz : z < 2 ^ Fmt.vwidth fn)
    (nx : nanOf fn x = false) (nz : nanOf fn z = false) :
    (Val.order false (elemVal fn y x) (elemVal fn y z) = .lt ↔ keyOf fn y x < keyOf fn y z) ∧
      (Val.order false (elemVal fn y x) (elemVal fn y z) = .gt ↔ keyOf fn y z < keyOf fn y x) := by
  obtain ⟨h2, h7⟩ := hf
  by_cases h : fn.toNat ≤ 6
  · rw [elemVal_int h, elemVal_int h]
    exact order_int _ _
  · have h1 : 8 ≤ fn.toNat := by omega
    obtain ⟨hi, hw, -, ht, -, hw'⟩ := float_facts h1 h2
    rw [nanOf_float h1 h2, decide_eq_false_iff_not, Nat.not_lt] at nx nz
    have hk {v : Nat} (hv : v < 2 ^ Fmt.vwidth fn) : keyOf fn y v = key (FpFmt.get fn.toNat) v := by
      rw [keyOf, if_neg h, hw, key_eq (hw' ▸ hv)]
    rw [elemVal_float h1 h2, elemVal_float h1 h2, hk hx, hk hz]
    exact order_key hi ht nx nz

theorem snanFlag_elemVal (hf : IsElem fn) (y : BitVec 6) (x : Nat) : (elemVal fn y x).snanFlag =
    if nanOf fn x && !x.testBit ((FpFmt.get fn.toNat).mbits - 1) then Flags.nv else 0 := by
  obtain ⟨h2, h7⟩ := hf
  have hn := isNan_elemVal ⟨h2, h7⟩ y x
  cases he : nanOf fn x with
  | false =>
    rw [he] at hn
    revert hn
    cases elemVal fn y x <;> simp [Val.isNan, Val.snanFlag]
  | true =>
    have h1 : 8 ≤ fn.toNat := by
      by_contra h
      rw [nanOf, decide_eq_false h] at he
      cases he
    obtain ⟨hi, -, hm, -⟩ := float_facts h1 h2
    rw [nanOf_float h1 h2, decide_eq_true_eq] at he
    rw [elemVal_float h1 h2, decode_nan hi he, ← mantField_low]
    have hbit : ((FpFmt.get fn.toNat).mantField x / 2 ^ ((FpFmt.get fn.toNat).mbits - 1) == 0) = !x.testBit ((FpFmt.get fn.toNat).mbits - 1) := by
      generalize FpFmt.get fn.toNat = f at hm
      obtain ⟨k, hk⟩ := Nat.exists_eq_succ_of_ne_zero hm.ne'
      rw [FpFmt.mantField, hk, Nat.succ_sub_one, Nat.pow_succ, Nat.mod_mul_right_div_self, Nat.testBit_eq_decide_div_mod_eq]
      rcases Nat.mod_two_eq_zero_or_one (x / 2 ^ k) with e | e <;> rw [e] <;> rfl
    rw [hbit, Bool.true_and]
    cases x.testBit ((FpFmt.get fn.toNat).mbits - 1) <;> rfl

theorem foldl_flag {α : Type} (l : List α) (p : α → Bool) (F : Flags) :
    l.foldl (fun f j => f ||| if p j then F else 0) 0 = if l.any p then F else 0 := by
  induction l using List.reverseRecOn with
  | nil => rfl
  | append_singleton l j ih =>
    rw [List.foldl_append, ih, List.any_append]
    cases l.any p <;> cases h : p j <;> simp [h]

theorem candFlags_eq (hf : IsElem fn) : candFlags s a fn lw =
    if (List.range (8192 / Fmt.vwidth fn)).any (fun j => laneEnabled s lw (Fmt.vwidth fn) j && nanOf fn (velem (s.getV s.cur a) (Fmt.vwidth fn) j) &&
      !(velem (s.getV s.cur a) (Fmt.vwidth fn) j).testBit ((FpFmt.get fn.toNat).mbits - 1)) then Flags.nv else 0 := by
  rw [candFlags, List.foldl_map]
  simp only [candOf, snanFlag_elemVal hf]
  rw [foldl_flag, lanesOn, List.any_filter]
  simp only [Bool.and_assoc]

/-- A candidate's lane (R190). -/
def IsCand (s : State) (a fn : Reg) (lw : LW) (j : Nat) : Prop :=
  j < 8192 / Fmt.vwidth fn ∧ laneEnabled s lw (Fmt.vwidth fn) j = true ∧ nanOf fn (velem (s.getV s.cur a) (Fmt.vwidth fn) j) = false

theorem mem_candidates_iff (hf : IsElem fn) {c : RankCand} : c ∈ candidates s a fn lw ↔ ∃ j, IsCand s a fn lw j ∧ candOf s a fn lw j = c := by
  rw [mem_candidates]
  simp only [IsCand, candOf, isNan_elemVal hf]

/-- The number by which the lanes rank. -/
def laneRank (s : State) (a fn : Reg) (lw : LW) (c : RankCand) : Int ×ₗ Nat :=
  rankOf (lw.y.getLsbD 1) (fun j => keyOf fn lw.y (velem (s.getV s.cur a) (Fmt.vwidth fn) j))
    (fun j => (tieHash (s.thread s.cur).tseed (BitVec.ofNat 64 j)).toNat) c

theorem candidates_ranked (hf : IsElem fn) : RankedBy (lw.y.getLsbD 1) (laneRank s a fn lw) (candidates s a fn lw) := by
  refine rankedBy_key (fun x hx y hy => ?_) fun x hx => ?_
  · obtain ⟨i, ⟨-, -, ni⟩, rfl⟩ := (mem_candidates_iff hf).mp hx
    obtain ⟨j, ⟨-, -, nj⟩, rfl⟩ := (mem_candidates_iff hf).mp hy
    exact order_elemVal hf lw.y (velem_lt _ _ _) (velem_lt _ _ _) ni nj
  · obtain ⟨i, -, rfl⟩ := (mem_candidates_iff hf).mp hx
    rfl

theorem lanes_nodup : ((candidates s a fn lw).map RankCand.lane).Nodup := by
  have hl : ((lanesOn s fn lw).map (candOf s a fn lw)).map RankCand.lane = lanesOn s fn lw := by
    rw [List.map_map]
    exact List.map_id _
  have hn : (((lanesOn s fn lw).map (candOf s a fn lw)).map RankCand.lane).Nodup := by
    rw [hl]
    exact List.Nodup.filter _ List.nodup_range
  exact List.Nodup.sublist (List.Sublist.map _ List.filter_sublist) hn

end Candidates

/-! ### `VRARG` and `VTOPK` (R190, R191) -/

section Rank

variable {s : State} {d a b fn : Reg} {lw : LW}

/-- What `VRARG` gives its scalar. -/
def bestLane (s : State) (a fn : Reg) (lw : LW) : DWord :=
  ((candidates s a fn lw).foldl (better (lw.y.getLsbD 1)) none).elim allOnes64 fun c => BitVec.ofNat 64 c.lane

/-- The lanes of the k best candidates, filled up with ones. -/
def topElems (asc : Bool) (cs : List RankCand) (k : Nat) : List Nat :=
  ((cs.foldl (fun l c => rankInsert asc c l) []).take (min k 256)).map RankCand.lane ++
    List.replicate (256 - (((cs.foldl (fun l c => rankInsert asc c l) []).take (min k 256)).map RankCand.lane).length) 0xFFFFFFFF

theorem rankCands_laned (hk : lw.gbit.toNat < Fmt.vwidth fn) (dp : Nat) :
    rankCands fn lw ((laned s dp).getV s.cur lw.greg) ((laned s dp).getV s.cur a) ((laned s dp).thread s.cur).tseed =
      (candidates s a fn lw, candFlags s a fn lw) := by
  rw [getV_laned, getV_laned, thread_laned, rankCands_eq hk]

theorem vrarg_commits (hf : IsElem fn) (hr : VecReady s lw (Fmt.vwidth fn) [srcV a lw.ta, srcS d]) {ok : Nat → Prop}
    (h : ok (bestLane s a fn lw).toNat) : VecCommits (.vrarg d a fn lw) s false d 2 12 ok (candFlags s a fn lw) := by
  have hi : exec (.vrarg d a fn lw) s = vecIssue s lw [srcV a lw.ta] [srcS d] 2 fun q s =>
      vecCommit q s false d.toNat (((rankCands fn lw (s.getV q lw.greg) (s.getV q a) (s.thread q).tseed).1.foldl (better (lw.y.getLsbD 1)) none).elim
        allOnes64 fun c => BitVec.ofNat 64 c.lane).toNat (rankCands fn lw (s.getV q lw.greg) (s.getV q a) (s.thread q).tseed).2 12 := rfl
  refine vecCommits_of hi hr (v := (bestLane s a fn lw).toNat) ?_ h
  rw [rankCands_laned hr.gbit]
  rfl

theorem vtopk_commits (hf : IsElem fn) (hr : VecReady s lw (Fmt.vwidth fn) [srcV a lw.ta, srcS b lw.tb, srcV d]) {ok : Nat → Prop}
    (h : ok (natOfElems 32 (topElems (lw.y.getLsbD 1) (candidates s a fn lw) (s.getS s.cur b).toNat))) :
    VecCommits (.vtopk d a b fn lw) s true d 8 20 ok (candFlags s a fn lw) := by
  have hi : exec (.vtopk d a b fn lw) s = vecIssue s lw [srcV a lw.ta, srcS b lw.tb] [srcV d] 8 fun q s =>
      vecCommit q s true d.toNat (natOfElems 32 (topElems (lw.y.getLsbD 1)
        (rankCands fn lw (s.getV q lw.greg) (s.getV q a) (s.thread q).tseed).1 (s.getS q b).toNat))
        (rankCands fn lw (s.getV q lw.greg) (s.getV q a) (s.thread q).tseed).2 20 := rfl
  refine vecCommits_of hi hr (v := natOfElems 32 (topElems (lw.y.getLsbD 1) (candidates s a fn lw) (s.getS s.cur b).toNat)) ?_ h
  rw [rankCands_laned hr.gbit, getS_laned]

/-- The best lane (R190). -/
theorem bestLane_spec (hf : IsElem fn) : ((∀ j, ¬ IsCand s a fn lw j) → bestLane s a fn lw = 0xFFFFFFFFFFFFFFFF) ∧
    ((∃ j, IsCand s a fn lw j) → ∃ j, IsCand s a fn lw j ∧ bestLane s a fn lw = BitVec.ofNat 64 j ∧
      ∀ i, IsCand s a fn lw i → laneRank s a fn lw (candOf s a fn lw j) ≤ laneRank s a fn lw (candOf s a fn lw i)) := by
  obtain ⟨hnone, hsome⟩ := best_spec (candidates_ranked (s := s) (a := a) (lw := lw) hf)
  constructor
  · intro h
    have he : candidates s a fn lw = [] := List.eq_nil_iff_forall_not_mem.mpr fun c hc => by
      obtain ⟨j, hj, -⟩ := (mem_candidates_iff hf).mp hc
      exact h j hj
    rw [bestLane, hnone he]
    rfl
  · rintro ⟨j, hj⟩
    have hne : candidates s a fn lw ≠ [] := List.ne_nil_of_mem ((mem_candidates_iff hf).mpr ⟨j, hj, rfl⟩)
    obtain ⟨c, hc, he, hle⟩ := hsome hne
    obtain ⟨i, hi, rfl⟩ := (mem_candidates_iff hf).mp hc
    refine ⟨i, hi, by rw [bestLane, he]; rfl, fun k hk => hle _ ((mem_candidates_iff hf).mpr ⟨k, hk, rfl⟩)⟩

/-- The lanes of the candidates in order (R191). -/
def rankedLanes (s : State) (a fn : Reg) (lw : LW) : List Nat :=
  ((candidates s a fn lw).foldl (fun l c => rankInsert (lw.y.getLsbD 1) c l) []).map RankCand.lane

theorem rankedLanes_spec (hf : IsElem fn) : (rankedLanes s a fn lw).Nodup ∧ (∀ j, j ∈ rankedLanes s a fn lw ↔ IsCand s a fn lw j) ∧
    (rankedLanes s a fn lw).Pairwise (fun i j => laneRank s a fn lw (candOf s a fn lw i) ≤ laneRank s a fn lw (candOf s a fn lw j)) := by
  obtain ⟨hperm, hsorted⟩ := ranked_spec (candidates_ranked (s := s) (a := a) (lw := lw) hf)
  refine ⟨(hperm.map _).nodup_iff.mpr lanes_nodup, fun j => ?_, ?_⟩
  · rw [rankedLanes, (hperm.map _).mem_iff, List.mem_map]
    constructor
    · rintro ⟨c, hc, rfl⟩
      obtain ⟨i, hi, rfl⟩ := (mem_candidates_iff hf).mp hc
      exact hi
    · exact fun h => ⟨_, (mem_candidates_iff hf).mpr ⟨j, h, rfl⟩, rfl⟩
  · rw [rankedLanes, List.pairwise_map]
    exact hsorted.imp fun h => h

theorem rankedLanes_lt (hf : IsElem fn) (j : Nat) : (rankedLanes s a fn lw).getD j 0xFFFFFFFF < 2 ^ 32 := by
  by_cases h : j < (rankedLanes s a fn lw).length
  · rw [List.getD_eq_getElem _ _ h]
    have hj := ((rankedLanes_spec hf).2.1 _).mp (List.getElem_mem h)
    exact hj.1.trans_le ((Nat.div_le_self _ _).trans (by decide))
  · rw [List.getD_eq_default _ _ (Nat.not_lt.mp h)]
    decide

theorem length_topElems (asc : Bool) (cs : List RankCand) (k : Nat) : (topElems asc cs k).length = 256 := by
  rw [topElems, List.length_append, List.length_replicate, List.length_map, List.length_take]
  omega

theorem getD_topElems (asc : Bool) (cs : List RankCand) (k : Nat) {j : Nat} (hj : j < 256) : (topElems asc cs k).getD j 0 =
    if j < k then ((cs.foldl (fun l c => rankInsert asc c l) []).map RankCand.lane).getD j 0xFFFFFFFF else 0xFFFFFFFF := by
  rw [topElems]
  generalize cs.foldl (fun l c => rankInsert asc c l) [] = r
  have hlen : ((r.take (min k 256)).map RankCand.lane).length = min (min k 256) r.length := by rw [List.length_map, List.length_take]
  by_cases h : j < min (min k 256) r.length
  · rw [List.getD_append _ _ _ _ (by rw [hlen]; exact h), if_pos (by omega), List.getD_eq_getElem _ _ (by rw [hlen]; exact h),
      List.getD_eq_getElem _ _ (by rw [List.length_map]; omega)]
    simp only [List.getElem_map, List.getElem_take]
  · rw [List.getD_append_right _ _ _ _ (by rw [hlen]; omega), List.getD_replicate _ (by rw [hlen]; omega)]
    split
    · rw [List.getD_eq_default _ _ (by rw [List.length_map]; omega)]
    · rfl

end Rank

/-- Settles O26: the reductions by the canonical tree over their leaves, the rankings by the keys of the elements and their tie hashes. -/
theorem vectorReductions : Obligations.VectorReductions := by
  unfold Obligations.VectorReductions
  refine ⟨fun s d a b fn lw h1 h2 => ?_, fun op leaves d j => ?_⟩
  · intro w rm f signed ext leaves val reduces least greatest el nan key tie cand before nv
    have hf : IsElem fn := ⟨h1, h2⟩
    have hbefore (i j : Nat) : before i j ↔ laneRank s a fn lw (candOf s a fn lw i) < laneRank s a fn lw (candOf s a fn lw j) :=
      (rankOf_lt (lw.y.getLsbD 1) (fun j => keyOf fn lw.y (velem (s.getV s.cur a) (Fmt.vwidth fn) j))
        (fun j => (tieHash (s.thread s.cur).tseed (BitVec.ofNat 64 j)).toNat) (candOf s a fn lw i) (candOf s a fn lw j)).symm
    have hnv : candFlags s a fn lw = nv := candFlags_eq hf
    refine ⟨fun hr => ⟨fun h6 => ⟨?_, ?_, ?_⟩, fun h8 => ⟨?_, ?_, ?_⟩, ?_⟩, fun hr => ?_⟩
    · exact vecCommits_reduce exec_vrsum hr (by simp only [isVFloat_false h6]; rfl)
    · have hc := vecCommits_reduce exec_vrmax hr (funext₂ fun x y => elemExtreme_int h6 lw.y true x y)
      rw [extremeIdentity_int h6] at hc
      exact hc
    · have hc := vecCommits_reduce exec_vrmin hr (funext₂ fun x y => elemExtreme_int h6 lw.y false x y)
      rw [extremeIdentity_int h6] at hc
      exact hc
    · exact vecCommits_reduce exec_vrsum hr (by simp only [isVFloat_true h8 h1]; rfl)
    · have hc := vecCommits_reduce exec_vrmax hr (funext₂ fun x y => elemExtreme_float h8 h1 lw.y true x y)
      rw [extremeIdentity_float h8 h1] at hc
      exact hc
    · have hc := vecCommits_reduce exec_vrmin hr (funext₂ fun x y => elemExtreme_float h8 h1 lw.y false x y)
      rw [extremeIdentity_float h8 h1] at hc
      exact hc
    · rw [← hnv]
      obtain ⟨hnone, hsome⟩ := bestLane_spec (s := s) (a := a) (lw := lw) hf
      refine vrarg_commits hf hr ?_
      rw [BitVec.ofNat_toNat, BitVec.setWidth_eq]
      refine ⟨hnone, fun h => ?_⟩
      obtain ⟨j, hj, he, hle⟩ := hsome h
      exact ⟨j, hj, he, fun i hi hb => absurd ((hbefore i j).mp hb) (not_lt.mpr (hle i hi))⟩
    · rw [← hnv]
      obtain ⟨hnodup, hmem, hsorted⟩ := rankedLanes_spec (s := s) (a := a) (lw := lw) hf
      refine vtopk_commits hf hr ⟨rankedLanes s a fn lw, hnodup, hmem, hsorted.imp fun h hb => absurd ((hbefore _ _).mp hb) (not_lt.mpr h),
        fun j hj => ?_⟩
      have hlen := length_topElems (lw.y.getLsbD 1) (candidates s a fn lw) (s.getS s.cur b).toNat
      rw [velem_getD (by rw [hlen]) (by rw [hlen]; exact hj), getD_topElems _ _ _ hj]
      split
      · exact Nat.mod_eq_of_lt (rankedLanes_lt hf j)
      · rfl
  · intro x y
    refine ⟨fun h => ?_, fun l h => ?_, fun hlo hhi => ?_, fun hd e he => canonTree_depth hd he⟩
    · rw [h]
      rfl
    · rw [h]
      rfl
    · have hpos := Nat.two_pow_pos j
      rw [canonTree_split (by omega), clog2_between hlo hhi]
      refine ⟨fun u v hu hv => ?_, fun hx => ?_, fun hy => ?_⟩
      · exact joined_some hu hv
      · exact joined_none_left hx
      · exact joined_none_right hy

end Sys2Proof.Proofs.VectorReductions
end

section
/-! PROOFS. Exact sums, products, quotients and roots, and rounding into the formats (R139, R140, R144, R145, R170). -/

namespace Sys2Proof.Proofs.FloatOps

open Sys2Proof.Machine
open Sys2Proof.Proofs.Exacts

/-! ### Integer square roots -/

section Sqrt

variable {n x f : Nat}

/-- A step of Newton's iteration stays at or above the root. -/
theorem sqrt_le_step (hx : 0 < x) : Nat.sqrt n ≤ (x + n / x) / 2 := by
  rw [Nat.le_div_iff_mul_le Nat.two_pos]
  by_contra h
  have hlt : n / x + 1 ≤ 2 * Nat.sqrt n - x := by omega
  have hle : x ≤ 2 * Nat.sqrt n := by
    generalize n / x = q at h
    omega
  have h1 : n < x * (2 * Nat.sqrt n - x) := (Nat.lt_mul_div_succ n hx).trans_le (Nat.mul_le_mul_left _ hlt)
  have h2 : x * (2 * Nat.sqrt n - x) ≤ Nat.sqrt n * Nat.sqrt n := by
    obtain ⟨k, hk⟩ := Nat.exists_eq_add_of_le hle
    rw [hk, Nat.add_sub_cancel_left]
    nlinarith [sq_nonneg ((x : Int) - k)]
  exact absurd (h1.trans_le h2) (not_lt.mpr (Nat.sqrt_le n))

/-- Above the root, a step at least halves the distance to it. -/
theorem step_le (h : Nat.sqrt n < x) : (x + n / x) / 2 ≤ (x + Nat.sqrt n) / 2 := by
  have hd : n / x ≤ Nat.sqrt n := by
    refine Nat.lt_succ_iff.mp (Nat.div_lt_of_lt_mul ?_)
    exact (Nat.lt_succ_sqrt n).trans_le (Nat.mul_le_mul_right _ h)
  omega

theorem isqrtLoop_eq (hn : 0 < n) (hx : Nat.sqrt n ≤ x) (hf : x - Nat.sqrt n < 2 ^ f) : isqrtLoop f n x = Nat.sqrt n := by
  have hs : 0 < Nat.sqrt n := Nat.sqrt_pos.mpr hn
  induction f generalizing x with
  | zero =>
    show x = Nat.sqrt n
    rw [Nat.pow_zero] at hf
    omega
  | succ f ih =>
    have hy := sqrt_le_step (n := n) (hs.trans_le hx)
    show (if (x + n / x) / 2 < x then isqrtLoop f n ((x + n / x) / 2) else x) = Nat.sqrt n
    rcases hx.eq_or_lt with he | hlt
    · rw [if_neg (by omega), he]
    · have hle := step_le hlt
      rw [if_pos (by omega)]
      refine ih hy ?_
      rw [Nat.pow_succ] at hf
      omega

theorem isqrt_eq (n : Nat) : isqrt n = Nat.sqrt n := by
  unfold isqrt
  split
  · next h => rw [h, Nat.sqrt_zero]
  · next h =>
    have hn : n < 2 ^ (Nat.log2 n + 1) := Nat.lt_log2_self
    have hs : Nat.sqrt n < 2 ^ (Nat.log2 n / 2 + 1) := by
      rw [Nat.sqrt_lt', ← Nat.pow_mul]
      exact hn.trans_le (Nat.pow_le_pow_right Nat.two_pos (by omega))
    refine isqrtLoop_eq (Nat.pos_of_ne_zero h) hs.le ((Nat.sub_le _ _).trans_lt (Nat.pow_lt_pow_right (by decide) (by omega)))

end Sqrt

/-! ### Exact operations (R170) -/

section Exactly

variable {x y : Exact}

/-- The integer that a number is in units of 2^k. -/
def num (z : Exact) (k : Int) : Int := (if z.neg then -1 else 1) * ((z.n * 2 ^ (z.e - k).toNat : Nat) : Int)

theorem num_val {z : Exact} {k : Int} (h : k ≤ z.e) : (num z k : ℚ) * 2 ^ k = val z := by
  have hm : ((z.n * 2 ^ (z.e - k).toNat : Nat) : ℚ) * 2 ^ k = mag z := scaled_mag z.n h
  rw [num, val, Int.cast_mul, Int.cast_natCast, mul_assoc, hm]
  split <;> simp

theorem num_inj {z : Exact} {k : Int} {i : Int} (h : k ≤ z.e) (hv : val z = i * 2 ^ k) : num z k = i := by
  rw [← num_val h, mul_left_inj' (two_zpow_pos k).ne', Int.cast_inj] at hv
  exact hv

theorem val_ofInt (i e : Int) (b : Bool) : val (Exact.ofInt i e b) = i * 2 ^ e := by
  unfold Exact.ofInt
  split
  · next h =>
    rw [h, Int.cast_zero, zero_mul, val, show mag ⟨b, 0, e, false⟩ = 0 from mag_eq_zero.mpr rfl, neg_zero, ite_self]
  · show (if decide (i < 0) = true then -((i.natAbs : ℚ) * 2 ^ e) else (i.natAbs : ℚ) * 2 ^ e) = _
    by_cases h : i < 0
    · rw [if_pos (decide_eq_true h), Nat.cast_natAbs, abs_of_neg h, Int.cast_neg, neg_mul, neg_neg]
    · rw [if_neg (by simpa using h), Nat.cast_natAbs, abs_of_nonneg (not_lt.mp h)]

theorem ofInt_rest (i e : Int) (b : Bool) : (Exact.ofInt i e b).e = e ∧ (Exact.ofInt i e b).sticky = false ∧
    ((Exact.ofInt i e b).n = 0 → (Exact.ofInt i e b).neg = b) := by
  unfold Exact.ofInt
  split
  · exact ⟨rfl, rfl, fun _ => rfl⟩
  · next h => exact ⟨rfl, rfl, fun h0 => absurd (Int.natAbs_eq_zero.mp h0) h⟩

theorem add_eq (x y : Exact) (down : Bool) : Exact.add x y down =
    Exact.ofInt ((Exact.align x y).1 + (Exact.align x y).2.1) (min x.e y.e) (if x.neg == y.neg then x.neg else down) := rfl

theorem val_add (x y : Exact) (down : Bool) : val (Exact.add x y down) = val x + val y := by
  obtain ⟨hx, hy⟩ := align_val x y
  rw [add_eq, val_ofInt, Int.cast_add, add_mul, ← hx, ← hy]
  rfl

theorem add_rest (x y : Exact) (down : Bool) : (Exact.add x y down).e = min x.e y.e ∧ (Exact.add x y down).sticky = false ∧
    ((Exact.add x y down).n = 0 → (Exact.add x y down).neg = if x.neg = y.neg then x.neg else down) := by
  obtain ⟨h1, h2, h3⟩ := ofInt_rest ((Exact.align x y).1 + (Exact.align x y).2.1) (min x.e y.e) (if x.neg == y.neg then x.neg else down)
  rw [add_eq]
  refine ⟨h1, h2, fun h => (h3 h).trans ?_⟩
  simp only [beq_iff_eq]

theorem mag_mul (x y : Exact) : mag (Exact.mul x y) = mag x * mag y := by
  show ((x.n * y.n : Nat) : ℚ) * 2 ^ (x.e + y.e) = _
  rw [Nat.cast_mul, zpow_add₀ two_ne_zero, mag, mag]
  ring

theorem val_mul (x y : Exact) : val (Exact.mul x y) = val x * val y := by
  rw [val, mag_mul, val, val]
  show (if xor x.neg y.neg then _ else _) = _
  cases x.neg <;> cases y.neg <;> simp

/-- The bits of a quotient before its remainder is cut off. -/
def dividend (x y : Exact) : Nat := x.n * 2 ^ (140 + Nat.log2 y.n)

theorem log2_quot (hx : x.n ≠ 0) (hy : y.n ≠ 0) : 139 ≤ Nat.log2 (Exact.div x y).n := by
  have hylt : y.n < 2 ^ (Nat.log2 y.n + 1) := Nat.lt_log2_self
  have hle : 2 ^ 139 ≤ dividend x y / y.n := by
    rw [Nat.le_div_iff_mul_le (Nat.pos_of_ne_zero hy)]
    calc 2 ^ 139 * y.n ≤ 2 ^ 139 * 2 ^ (Nat.log2 y.n + 1) := Nat.mul_le_mul_left _ hylt.le
      _ = 1 * 2 ^ (140 + Nat.log2 y.n) := by rw [← Nat.pow_add, Nat.one_mul]; congr 1; omega
      _ ≤ dividend x y := Nat.mul_le_mul_right _ (Nat.pos_of_ne_zero hx)
  exact (Nat.le_log2 (fun e => absurd (hle.trans_eq e) (by decide))).mpr hle

/-- A quotient times its divisor, compared with the dividend in one unit. -/
theorem div_units (x y : Exact) (k : Nat) : mag ⟨false, k, (Exact.div x y).e, false⟩ * mag y = ((k * y.n : Nat) : ℚ) * 2 ^ (x.e - (140 + Nat.log2 y.n : Nat)) ∧
    mag x = (dividend x y : ℚ) * 2 ^ (x.e - (140 + Nat.log2 y.n : Nat)) := by
  constructor
  · show (k : ℚ) * 2 ^ (x.e - y.e - (140 + Nat.log2 y.n : Nat)) * (y.n * 2 ^ y.e) = _
    rw [Nat.cast_mul, show x.e - (140 + Nat.log2 y.n : Nat) = (x.e - y.e - (140 + Nat.log2 y.n : Nat)) + y.e by omega, zpow_add₀ two_ne_zero]
    ring
  · rw [mag, dividend, Nat.cast_mul, mul_assoc, Nat.cast_pow, Nat.cast_ofNat, ← zpow_natCast (2 : ℚ), ← zpow_add₀ two_ne_zero]
    congr 2
    omega

end Exactly

/-! ### Roots (R170) -/

section Root

variable {x : Exact}

/-- The number whose integer root `Exact.sqrt` takes, and its exponent. -/
def radicand (x : Exact) : Nat := (if x.e % 2 = 1 then 2 * x.n else x.n) * 2 ^ 320
def rootExp (x : Exact) : Int := ((if x.e % 2 = 1 then x.e - 1 else x.e) - 320) / 2

theorem sqrt_eq (x : Exact) : Exact.sqrt x =
    ⟨false, Nat.sqrt (radicand x), rootExp x, Nat.sqrt (radicand x) * Nat.sqrt (radicand x) != radicand x⟩ := by
  rw [← isqrt_eq]
  rfl

theorem mag_radicand (x : Exact) : (radicand x : ℚ) * 2 ^ (2 * rootExp x) = mag x := by
  unfold radicand rootExp mag
  rcases Int.emod_two_eq_zero_or_one x.e with h | h
  · have h2 : (2 : ℚ) ^ (320 : ℤ) = 2 ^ 320 := zpow_natCast 2 320
    rw [if_neg (by omega), if_neg (by omega), show 2 * ((x.e - 320) / 2) = x.e - 320 by omega, zpow_sub₀ two_ne_zero, h2, Nat.cast_mul,
      Nat.cast_pow, Nat.cast_ofNat]
    have h0 : (2 : ℚ) ^ 320 ≠ 0 := pow_ne_zero _ two_ne_zero
    generalize (2 : ℚ) ^ 320 = t at h0
    field_simp
  · have h2 : (2 : ℚ) ^ (321 : ℤ) = 2 * 2 ^ 320 := (zpow_natCast 2 321).trans (pow_succ' 2 320)
    rw [if_pos h, if_pos h, show 2 * ((x.e - 1 - 320) / 2) = x.e - 321 by omega, zpow_sub₀ two_ne_zero, h2, Nat.cast_mul, Nat.cast_mul,
      Nat.cast_pow, Nat.cast_ofNat]
    have h0 : (2 : ℚ) ^ 320 ≠ 0 := pow_ne_zero _ two_ne_zero
    generalize (2 : ℚ) ^ 320 = t at h0
    field_simp

theorem pow_le_sqrt {k m n : Nat} (h : 2 ^ m ≤ n) (hk : k * 2 ≤ m) : 2 ^ k ≤ Nat.sqrt n :=
  Nat.le_sqrt'.mpr ((Nat.pow_mul 2 k 2).symm.trans_le ((Nat.pow_le_pow_right Nat.two_pos hk).trans h))

theorem log2_root (h : x.n ≠ 0) : 140 ≤ Nat.log2 (Nat.sqrt (radicand x)) := by
  have hr : 2 ^ 320 ≤ radicand x := Nat.le_mul_of_pos_left _ (by split <;> omega)
  have hle := pow_le_sqrt hr (by decide : 140 * 2 ≤ 320)
  exact (Nat.le_log2 (fun e => absurd (hle.trans_eq e) (by decide))).mpr hle

theorem val_square (k : Nat) (e : Int) : val ⟨false, k, 2 * e, false⟩ = (k : ℚ) * 2 ^ (2 * e) := rfl

end Root

/-! ### Rounding into a format (R144, R145) -/

section Round

variable {code : Nat} {x : Exact} {rm : Rm} {lo n : Nat} {half : Ordering}

/-- The formats of R139 with infinities. -/
def Infinities (code : Nat) : Prop := code ≤ 11 ∨ code = 13

theorem infinities_hasInf (h1 : 8 ≤ code) (h2 : code ≤ 16) (h : Infinities code) : (FpFmt.get code).hasInf = true := by
  unfold Infinities at h
  interval_cases code <;> first | rfl | omega

theorem infinities_not_hasInf (h1 : 8 ≤ code) (h2 : code ≤ 16) (h : ¬ Infinities code) : (FpFmt.get code).hasInf = false := by
  unfold Infinities at h
  interval_cases code <;> first | rfl | omega

theorem emax_eq (h1 : 8 ≤ code) (h2 : code ≤ 16) : (FpFmt.get code).emax =
    if code ≤ 11 ∨ code = 13 then ((FpFmt.get code).bias : Int) else (FpFmt.get code).bias + 1 := by
  interval_cases code <;> decide

/-- The largest significand: all ones, but in E4M3. -/
theorem nmax_eq (h1 : 8 ≤ code) (h2 : code ≤ 16) : (FpFmt.get code).nmax = if code = 12 then 14 else 2 ^ ((FpFmt.get code).mbits + 1) - 1 := by
  interval_cases code <;> decide

theorem maxBits_inf (h1 : 8 ≤ code) (h2 : code ≤ 16) (h : Infinities code) (neg : Bool) :
    (FpFmt.get code).maxBits neg = (FpFmt.get code).infBits neg - 1 := by
  unfold Infinities at h
  interval_cases code <;> first | (cases neg <;> decide +kernel) | omega

theorem maxBits_noInf (h1 : 8 ≤ code) (h2 : code ≤ 16) (h : ¬ Infinities code) (neg : Bool) : (FpFmt.get code).maxBits neg =
    (FpFmt.get code).pack neg (2 ^ (FpFmt.get code).ebits - 1) (if code = 12 then 6 else 2 ^ (FpFmt.get code).mbits - 1) := by
  unfold Infinities at h
  interval_cases code <;> first | (cases neg <;> decide) | omega

/-- The modes that go beyond the largest number to infinity (R145). -/
def Away (rm : Rm) (neg : Bool) : Prop := rm = .rne ∨ rm = .rna ∨ rm = .rdn ∧ neg = true ∨ rm = .rup ∧ neg = false

theorem overflow_away {f : FpFmt} {neg : Bool} (hi : f.hasInf = true) (h : Away rm neg) : f.overflow neg rm = (f.infBits neg, Flags.of ||| Flags.nx) := by
  unfold Away at h
  cases rm <;> cases neg <;> simp_all [FpFmt.overflow]

theorem overflow_stays {f : FpFmt} {neg : Bool} (hi : f.hasInf = true) (h : ¬ Away rm neg) : f.overflow neg rm = (f.maxBits neg, Flags.of ||| Flags.nx) := by
  unfold Away at h
  cases rm <;> cases neg <;> simp_all [FpFmt.overflow]

theorem overflow_clamps {f : FpFmt} {neg : Bool} (hi : f.hasInf = false) : f.overflow neg rm = (f.maxBits neg, Flags.of ||| Flags.nx ||| Flags.sat) := by
  unfold FpFmt.overflow
  rw [hi]
  rfl

/-- The exponent of the unit in which a number is rounded. -/
def unitExp (f : FpFmt) (x : Exact) : Int := max x.log2 f.emin - f.mbits

/-- The exponent of a rounded significand. -/
def topExp (f : FpFmt) (x : Exact) (n : Nat) : Int := if n = 2 ^ (f.mbits + 1) then max x.log2 f.emin + 1 else max x.log2 f.emin

theorem round_eq {f : FpFmt} {exact : Bool} (hz : x.isZero = false) (hs : x.scaled (-unitExp f x) = (lo, !exact, half))
    (hr : roundInt rm x.neg lo (!exact) half = n) : f.round rm x =
      if f.emax < topExp f x n ∨ (topExp f x n = f.emax ∧ f.nmax < if n = 2 ^ (f.mbits + 1) then 2 ^ f.mbits else n) then f.overflow x.neg rm
      else (if n < 2 ^ f.mbits then f.pack x.neg 0 n else if n = 2 ^ (f.mbits + 1) then f.pack x.neg (max x.log2 f.emin + 1 + f.bias).toNat 0
          else f.pack x.neg (max x.log2 f.emin + f.bias).toNat (n - 2 ^ f.mbits),
        if exact then 0 else if n < 2 ^ f.mbits then Flags.nx ||| Flags.uf else Flags.nx) := by
  have hsh : (f.p : Int) - 1 - max x.log2 f.emin = -unitExp f x := by
    rw [unitExp, FpFmt.p]
    push_cast
    ring
  have hpow : 2 ^ f.mbits < 2 ^ (f.mbits + 1) := Nat.pow_lt_pow_right (by decide) (Nat.lt_succ_self _)
  unfold FpFmt.round
  rw [hz, if_neg Bool.false_ne_true]
  dsimp only
  rw [hsh, hs]
  dsimp only
  rw [hr]
  show (if f.emax < topExp f x n ∨ _ then _ else _) = _
  refine ite_congr rfl (fun _ => rfl) fun _ => Prod.ext ?_ ?_
  · simp only [FpFmt.p, Nat.add_sub_cancel]
    by_cases hn : n = 2 ^ (f.mbits + 1)
    · have h1 : ¬ n < 2 ^ f.mbits := by omega
      have h2 : ¬ 2 ^ f.mbits < 2 ^ f.mbits := lt_irrefl _
      simp only [if_pos hn, if_neg h1, h2, decide_false, Bool.false_eq_true, if_false, Nat.sub_self]
      exact congrArg (fun e : Int => f.pack x.neg (e + f.bias).toNat 0) (if_pos hn)
    · simp only [if_neg hn, decide_eq_true_eq]
      exact ite_congr rfl (fun _ => rfl) fun _ => congrArg (fun e : Int => f.pack x.neg (e + f.bias).toNat (n - 2 ^ f.mbits)) (if_neg hn)
  · simp only [FpFmt.p, Flags.when, Nat.add_sub_cancel]
    have hsmall : (if n = 2 ^ (f.mbits + 1) then 2 ^ f.mbits else n) < 2 ^ f.mbits ↔ n < 2 ^ f.mbits := by
      split <;> omega
    simp only [hsmall, decide_eq_true_eq]
    cases exact
    · simp only [Bool.not_false, if_true, Bool.false_eq_true, if_false]
      split <;> rfl
    · rfl

/-- The significand of a number in its unit has no more bits than its format. -/
theorem significand_le {f : FpFmt} (hn : x.n ≠ 0) (h : Exact.cmp (units lo (unitExp f x)) (magOf x) ≠ .gt) : lo < 2 ^ (f.mbits + 1) := by
  rw [cmp_ne_gt, val_magOf, val_units] at h
  have hlt := h.trans_lt (log2_spec hn).2
  have hle : x.log2 + 1 ≤ ((f.mbits + 1 : Nat) : Int) + unitExp f x := by
    rw [unitExp]
    push_cast
    omega
  have h2 := hlt.trans_le (zpow_le_iff.mpr hle)
  rw [zpow_add₀ two_ne_zero, mul_lt_mul_iff_left₀ (two_zpow_pos _), zpow_natCast] at h2
  exact_mod_cast h2

end Round

end Sys2Proof.Proofs.FloatOps
end

section
/-! PROOFS. The functions of the floating-point lanes: their special cases, their flags, and the neighbours that they are rounded to (R172). -/

namespace Sys2Proof.Proofs.FloatFunctions

open Sys2Proof.Machine
open Sys2Proof.Proofs.FloatOps

variable {f : FpFmt} {rm : Rm} {b code : Nat} {x p : Exact} {r : Nat × Flags}

/-! ### Operands of each kind -/

theorem exp_fin (h : f.decode b = .fin p) : fpExp f rm b = if p.isZero then f.round rm ⟨false, 1, 0, false⟩ else orOpen f rm 0 b (expRound f rm p) := by
  unfold fpExp
  rw [h]

theorem log_fin (h : f.decode b = .fin p) : fpLog f rm b = if p.isZero then (f.infBits true, Flags.dz) else if p.neg then (f.nanBits, Flags.nv)
    else if Exact.cmp p ⟨false, 1, 0, false⟩ = .eq then (0, 0) else orOpen f rm 1 b (lnRound f rm p) := by
  unfold fpLog
  rw [h]

theorem erf_fin (h : f.decode b = .fin p) : fpErf f rm b = if p.isZero then (f.pack p.neg 0 0, 0) else orOpen f rm 2 b (erfRound f rm p) := by
  unfold fpErf
  rw [h]

theorem functions_inf {m : Bool} (h : f.decode b = .inf m) : fpExp f rm b = (if m then 0 else f.infBits false, 0) ∧
    fpLog f rm b = (if m then (f.nanBits, Flags.nv) else (f.infBits false, 0)) ∧ fpErf f rm b = f.round rm ⟨m, 1, 0, false⟩ := by
  unfold fpExp fpLog fpErf
  rw [h]
  exact ⟨rfl, rfl, rfl⟩

theorem nanOf_nan (sg : Bool) : nanOf f [.nan sg] = (f.nanBits, if sg = true then Flags.nv else 0) := by
  cases sg <;> rfl

theorem functions_nan {sg : Bool} (h : f.decode b = .nan sg) : ∀ r ∈ [fpExp f rm b, fpLog f rm b, fpErf f rm b],
    r = (f.nanBits, if sg = true then Flags.nv else 0) := by
  unfold fpExp fpLog fpErf
  rw [h]
  intro r hr
  simpa [nanOf_nan] using hr

/-! ### Inexact results -/

/-- The flags of an inexact result of a format with infinities (R144, R145). -/
def Inexact (fl : Flags) : Prop := fl = Flags.of ||| Flags.nx ∨ fl = Flags.nx ∨ fl = Flags.nx ||| Flags.uf

theorem Inexact.nx {fl : Flags} (h : Inexact fl) : fl &&& Flags.nx = Flags.nx := by
  rcases h with rfl | rfl | rfl <;> decide

theorem Inexact.only {fl : Flags} (h : Inexact fl) : fl &&& ~~~(Flags.nx ||| Flags.of ||| Flags.uf) = 0 := by
  rcases h with rfl | rfl | rfl <;> decide

theorem scaled_inexact (hs : x.sticky = true) (sh : Int) : (x.scaled sh).2.1 = true := by
  unfold Exact.scaled
  by_cases h : 0 ≤ x.e + sh
  · exact (congrArg (fun y : Nat × Bool × Ordering => y.2.1) (if_pos h)).trans hs
  · exact (congrArg (fun y : Nat × Bool × Ordering => y.2.1) (if_neg h)).trans ((Bool.or_eq_true _ _).mpr (.inr hs))

theorem overflow_inexact {neg : Bool} (hi : f.hasInf = true) : Inexact (f.overflow neg rm).2 := by
  unfold FpFmt.overflow
  rw [if_pos hi]
  exact .inl rfl

theorem inexact_ite {c : Prop} [Decidable c] {u v : Nat × Flags} (hu : Inexact u.2) (hv : Inexact v.2) : Inexact (if c then u else v).2 := by
  split
  · exact hu
  · exact hv

theorem round_inexact (hi : f.hasInf = true) (hs : x.sticky = true) : Inexact (f.round rm x).2 := by
  have hz : x.isZero = false := by
    rw [Exact.isZero, hs]
    exact Bool.and_false _
  unfold FpFmt.round
  rw [hz, if_neg Bool.false_ne_true]
  dsimp only
  rw [scaled_inexact hs]
  refine inexact_ite (overflow_inexact hi) ?_
  generalize decide ((_ : Nat) < _) = small
  cases small
  · exact .inr (.inl rfl)
  · exact .inr (.inr rfl)

/-- Bounds whose lower one has a remainder, as those of a value that is not of the form n × 2^e. -/
def Open (a : Nat → Option Bounds) : Prop := ∀ P y, a P = some y → y.lo.sticky = true

theorem bounds_sticky {v : Int} {k : Nat} {s : Int} {y : Bounds} (h : Bounds.of v k s = some y) : y.lo.sticky = true := by
  unfold Bounds.of at h
  dsimp only at h
  split at h
  · cases h
  · cases h
    rfl

theorem open_exp (x : Exact) : Open (expAt x) := fun _ _ h => bounds_sticky h

theorem open_log (x : Exact) : Open (lnAt x) := fun _ _ h => bounds_sticky h

theorem open_erf (x : Exact) : Open (erfAt x) := fun _ _ h => by
  obtain ⟨_, -, rfl⟩ := Option.map_eq_some_iff.mp h
  rfl

theorem firstRound_inexact {a : Nat → Option Bounds} (hi : f.hasInf = true) (ha : Open a) :
    ∀ ps, firstRound f rm a ps = some r → Inexact r.2
  | [], h => by cases h
  | P :: ps, h => by
    unfold firstRound at h
    split at h
    · next y hy =>
      cases h
      obtain ⟨bs, hb, hr⟩ := Option.bind_eq_some_iff.mp hy
      unfold Bounds.round at hr
      split at hr
      · cases hr
        exact round_inexact hi (ha P bs hb)
      · cases hr
    · exact firstRound_inexact hi ha ps h

theorem orOpen_inexact {op : Nat} {o : Option (Nat × Flags)} (h : ∀ r, o = some r → Inexact r.2) : Inexact (orOpen f rm op b o).2 := by
  cases o with
  | none => exact .inr (.inl rfl)
  | some r => exact h r rfl

theorem exp_inexact (hi : f.hasInf = true) : Inexact (orOpen f rm 0 b (expRound f rm p)).2 := by
  refine orOpen_inexact fun r h => ?_
  unfold expRound at h
  split at h
  · cases h
    exact round_inexact hi (by split <;> rfl)
  · split at h
    · cases h
      exact round_inexact hi (by split <;> rfl)
    · exact firstRound_inexact hi (open_exp p) _ h

theorem log_inexact (hi : f.hasInf = true) : Inexact (orOpen f rm 1 b (lnRound f rm p)).2 :=
  orOpen_inexact fun _ h => firstRound_inexact hi (open_log p) _ h

theorem erf_inexact (hi : f.hasInf = true) : Inexact (orOpen f rm 2 b (erfRound f rm p)).2 := by
  refine orOpen_inexact fun r h => ?_
  unfold erfRound at h
  split at h
  · cases h
    exact round_inexact hi rfl
  · exact firstRound_inexact hi (open_erf p) _ h

/-! ### Results beside 0, 1 and the ends of a format -/

/-- The pattern of 1 of a sign. -/
def oneOf (f : FpFmt) (neg : Bool) : Nat := f.pack neg f.bias 0

/-- The neighbour of 1 that a value just below it is rounded to. -/
def belowOne (f : FpFmt) (rm : Rm) : Nat × Flags := (if rm = .rtz ∨ rm = .rdn then oneOf f false - 1 else oneOf f false, Flags.nx)

section Codes

variable (h1 : 8 ≤ code) (h2 : code ≤ 11)
include h1 h2

theorem round_one (neg : Bool) : (FpFmt.get code).round rm ⟨neg, 1, 0, false⟩ = (oneOf (FpFmt.get code) neg, 0) := by
  interval_cases code <;> cases rm <;> cases neg <;> decide +kernel

theorem round_huge : (FpFmt.get code).round rm ⟨false, 2 ^ 128, 6000, true⟩ = (FpFmt.get code).overflow false rm := by
  interval_cases code <;> cases rm <;> decide +kernel

theorem round_tiny : (FpFmt.get code).round rm ⟨false, 2 ^ 128, -6000, true⟩ = (if rm = .rup then 1 else 0, Flags.uf ||| Flags.nx) := by
  interval_cases code <;> cases rm <;> decide +kernel

theorem round_above_one : (FpFmt.get code).round rm ⟨false, 2 ^ 126, -126, true⟩ =
    (if rm = .rup then oneOf (FpFmt.get code) false + 1 else oneOf (FpFmt.get code) false, Flags.nx) := by
  interval_cases code <;> cases rm <;> decide +kernel

theorem round_below_one : (FpFmt.get code).round rm ⟨false, 2 ^ 126 - 1, -126, true⟩ = belowOne (FpFmt.get code) rm := by
  interval_cases code <;> cases rm <;> decide +kernel

theorem round_erf : (FpFmt.get code).round rm ⟨false, 2 ^ 190 - 1, -190, true⟩ = belowOne (FpFmt.get code) rm ∧
    (FpFmt.get code).round rm ⟨true, 2 ^ 190 - 1, -190, true⟩ =
      (if rm = .rtz ∨ rm = .rup then oneOf (FpFmt.get code) true - 1 else oneOf (FpFmt.get code) true, Flags.nx) := by
  interval_cases code <;> cases rm <;> decide +kernel

theorem log_one : fpLog (FpFmt.get code) rm (oneOf (FpFmt.get code) false) = (0, 0) := by
  interval_cases code <;> cases rm <;> decide +kernel

end Codes

/-! ### The regions of the operands -/

theorem expRound_large (h : 12 ≤ p.log2) : expRound f rm p =
    some (f.round rm (if p.neg then ⟨false, 2 ^ 128, -6000, true⟩ else ⟨false, 2 ^ 128, 6000, true⟩)) := if_pos h

theorem expRound_small (h : p.log2 < -128) : expRound f rm p =
    some (f.round rm (if p.neg then ⟨false, 2 ^ 126 - 1, -126, true⟩ else ⟨false, 2 ^ 126, -126, true⟩)) := by
  unfold expRound
  rw [if_neg (by omega), if_pos h]

/-- A number of the binade 4 or beyond has the integer part 16 or more. -/
theorem intPart_le (h : 4 ≤ p.log2) (hn : p.n ≠ 0) : 16 ≤ (p.scaled 0).1 := by
  have hl : 2 ^ Nat.log2 p.n ≤ p.n := Nat.log2_self_le hn
  rw [Exact.log2] at h
  unfold Exact.scaled
  dsimp only
  rw [add_zero]
  split
  · next he =>
    calc 16 = 2 ^ 4 := rfl
      _ ≤ 2 ^ (Nat.log2 p.n + p.e.toNat) := Nat.pow_le_pow_right Nat.two_pos (by omega)
      _ = 2 ^ Nat.log2 p.n * 2 ^ p.e.toNat := Nat.pow_add _ _ _
      _ ≤ p.n * pow2 p.e := Nat.mul_le_mul_right _ hl
  · next he =>
    refine (Nat.le_div_iff_mul_le (Nat.two_pow_pos _)).mpr ?_
    calc 16 * 2 ^ (-p.e).toNat = 2 ^ (4 + (-p.e).toNat) := (Nat.pow_add 2 4 _).symm
      _ ≤ 2 ^ Nat.log2 p.n := Nat.pow_le_pow_right Nat.two_pos (by omega)
      _ ≤ p.n := hl

theorem erfRound_large (h : 4 ≤ p.log2) (hn : p.n ≠ 0) : erfRound f rm p = some (f.round rm ⟨p.neg, 2 ^ 190 - 1, -190, true⟩) := by
  have hfix : ({ p with neg := false } : Exact).fix 0 = (((p.scaled 0).1 : Nat) : Int) := rfl
  have hle := intPart_le h hn
  unfold erfRound
  exact if_pos (by omega)

end Sys2Proof.Proofs.FloatFunctions
end

section
/-! PROOFS. The floating-point lanes (R162, R169 to R173). -/

namespace Sys2Proof.Proofs.FloatLanes

open Sys2Proof.Machine
open Sys2Proof.Safety
open Sys2Proof.Proofs.Lanes
open Sys2Proof.Proofs.Exacts
open Sys2Proof.Proofs.FloatOps
open Sys2Proof.Proofs.FloatFunctions
open Sys2Proof.Proofs.VectorConversions

/-! ### Instructions -/

section Instructions

variable {s : State} {d a b fn : Reg} {lw : LW} {w : Nat} {i : Instr} {srcs : List Src} {f g : Nat → Nat × Flags}

/-- What a long-latency commit leaves (R162, R163). -/
def committedLong (s : State) (d : Reg) (v : Nat) (fl : Flags) : State :=
  let s1 := (laned s 2).setThread s.cur { s.thread s.cur with vEmpty := (s.thread s.cur).vEmpty ||| (1#64 <<< d.toNat) }
  let s2 := s1.addResult s.cur ⟨true, d.toNat, v, s.now + 20, true, fl, fl &&& (s.thread s.cur).fte.setWidth 8, (s.prog s.cur).pc, (s.prog s.cur).pend, none⟩
  if (s.thread s.cur).fte &&& 0x1F = 0 then s2 else s2.holdOn s.cur .longResult

theorem vecCommitLong_laned (v : Nat) (fl : Flags) : vecCommitLong s.cur (laned s 2) d.toNat v fl = .retire (committedLong s d v fl) := by
  rw [vecCommitLong, thread_laned, prog_laned]
  exact congrArg Res.retire (ite_not ..)

/-- A long-latency lane-wise instruction writes later, or stalls behind four others (R162). -/
theorem long_of {g : Seqr → State → Nat → Nat × Flags} (hi : exec i s = vecLong s d lw w srcs g) (hr : VecReady s lw w (srcs ++ [srcV d]))
    (hw : w ∣ 8192) (hg : ∀ j, g s.cur (laned s 2) j = f j) :
    ((s.core s.cur.core).longResults < 4 → VecWritesLong i s lw d w f) ∧ (4 ≤ (s.core s.cur.core).longResults → Stalls i s) := by
  have hlong : ((laned s 2).core s.cur.core).longResults = (s.core s.cur.core).longResults := by rw [core_laned, if_pos rfl]; rfl
  have hout : laneResults lw ((laned s 2).getV s.cur lw.greg) ((laned s 2).getV s.cur d) w (g s.cur (laned s 2)) = laneOut s lw w d f := by
    rw [getV_laned, getV_laned, funext hg, laneOut]
  have hi' : exec i s = vecIssue s lw srcs [srcV d] 2 fun q s => if 4 ≤ (s.core q.core).longResults then .stall
      else vecCommitLong q s d.toNat (laneResults lw (s.getV q lw.greg) (s.getV q d) w (g q s)).1
        (laneResults lw (s.getV q lw.greg) (s.getV q d) w (g q s)).2 := hi.trans rfl
  constructor
  · intro h
    refine ⟨(laneOut s lw w d f).1, lanesHold_laneOut hr.gbit hw, ?_⟩
    have hexec := issue_of_vecReady hi' hr (if_neg (by rw [hlong]; omega)) (fun _ => Res.noConfusion)
    rw [hout, laneFlags_laneOut hr.gbit] at hexec
    refine ⟨_, hexec, ?_⟩
    rw [vecCommitLong_laned]
    exact after_finish s _ _ 2 (fresh_prog s _)
  · intro h
    exact issue_of_vecReady hi' hr (if_pos (by rw [hlong]; exact h)) (fun _ => Res.noConfusion)

theorem f1_writes {op : FpFmt → Rm → Nat → Nat × Flags} (hi : exec i s = vecF1 s d a fn lw op) (hw : Fmt.vwidth fn = w) (hd : w ∣ 8192)
    (hr : VecReady s lw w [srcV a lw.ta, srcV d]) :
    VecWrites i s lw d w 2 4 fun j => op (FpFmt.get fn.toNat) (s.rm s.cur lw.rm) (velem (s.getV s.cur a) w j) := by
  subst hw
  exact vecWrites_of hi hr hd fun j => by rw [getV_laned, rm_laned]

theorem f2_writes {dp lat : Nat} {op : FpFmt → Rm → Val → Val → Nat × Flags} (hi : exec i s = vecF2 s d a b fn lw lat dp op) (hw : Fmt.vwidth fn = w)
    (hd : w ∣ 8192) (hr : VecReady s lw w [srcV a lw.ta, srcV b lw.tb, srcV d]) :
    VecWrites i s lw d w dp lat fun j => op (FpFmt.get fn.toNat) (s.rm s.cur lw.rm) ((FpFmt.get fn.toNat).decode (velem (s.getV s.cur a) w j))
      ((FpFmt.get fn.toNat).decode (velem (s.getV s.cur b) w j)) := by
  subst hw
  exact vecWrites_of hi hr hd fun j => by simp only [getV_laned, rm_laned]

theorem f3_writes {p z : Bool} (hi : exec i s = vecF3 s d a b fn lw p z) (hw : Fmt.vwidth fn = w) (hd : w ∣ 8192)
    (hr : VecReady s lw w [srcV a lw.ta, srcV b lw.tb, srcV lw.x lw.tc, srcV d]) :
    VecWrites i s lw d w 2 4 fun j => fpFma (FpFmt.get fn.toNat) (s.rm s.cur lw.rm)
      (if p then ((FpFmt.get fn.toNat).decode (velem (s.getV s.cur a) w j)).neg else (FpFmt.get fn.toNat).decode (velem (s.getV s.cur a) w j))
      ((FpFmt.get fn.toNat).decode (velem (s.getV s.cur b) w j))
      (if z then ((FpFmt.get fn.toNat).decode (velem (s.getV s.cur lw.x) w j)).neg else (FpFmt.get fn.toNat).decode (velem (s.getV s.cur lw.x) w j)) := by
  subst hw
  exact vecWrites_of hi hr hd fun j => by simp only [getV_laned, rm_laned]

theorem minMax_writes {m : Bool} (hi : exec i s = vecMinMax s d a b fn lw m) (hw : Fmt.vwidth fn = w) (hd : w ∣ 8192)
    (hr : VecReady s lw w [srcV a lw.ta, srcV b lw.tb, srcV d]) :
    VecWrites i s lw d w 2 4 fun j => fpMinMax (FpFmt.get fn.toNat) m (velem (s.getV s.cur a) w j) (velem (s.getV s.cur b) w j) := by
  subst hw
  exact vecWrites_of hi hr hd fun j => by simp only [getV_laned]

theorem fun_long {op : FpFmt → Rm → Nat → Nat × Flags} (hi : exec i s = vecFun s d a fn lw op) (hw : Fmt.vwidth fn = w) (hd : w ∣ 8192)
    (hr : VecReady s lw w [srcV a lw.ta, srcV d]) :
    ((s.core s.cur.core).longResults < 4 → VecWritesLong i s lw d w fun j => op (FpFmt.get fn.toNat) (s.rm s.cur lw.rm) (velem (s.getV s.cur a) w j)) ∧
      (4 ≤ (s.core s.cur.core).longResults → Stalls i s) := by
  subst hw
  exact long_of hi hr hd fun j => by rw [getV_laned, rm_laned]

/-- The width of a floating-point format of the lanes (R160, R169). -/
theorem vwidth_float (h1 : 8 ≤ fn.toNat) (h2 : fn.toNat ≤ 11) :
    Fmt.vwidth fn = if fn.toNat = 8 then 64 else if fn.toNat = 9 then 32 else 16 := by
  unfold Fmt.vwidth
  generalize fn.toNat = n at h1 h2
  interval_cases n <;> rfl

theorem width_float (h1 : 8 ≤ fn.toNat) (h2 : fn.toNat ≤ 11) : (FpFmt.get fn.toNat).width = Fmt.vwidth fn := by
  unfold Fmt.vwidth
  generalize fn.toNat = n at h1 h2
  interval_cases n <;> rfl

theorem is_fp64 : fn = 8 ↔ fn.toNat = 8 := by
  rw [← BitVec.toNat_inj]
  rfl

theorem exec_vdiv : exec (.vdiv d a b fn lw) s = if fn = 8 then
    vecLong s d lw 64 [srcV a lw.ta, srcV b lw.tb] fun q s i =>
      fpDiv FpFmt.fp64 (s.rm q lw.rm) (FpFmt.fp64.decode (velem (s.getV q a) 64 i)) (FpFmt.fp64.decode (velem (s.getV q b) 64 i))
  else vecF2 s d a b fn lw 10 8 fpDiv := rfl

theorem exec_vsqrt : exec (.vsqrt d a fn lw) s =
    if fn = 8 then vecLong s d lw (Fmt.vwidth fn) [srcV a lw.ta] fun q s i =>
      fpSqrt (FpFmt.get fn.toNat) (s.rm q lw.rm) ((FpFmt.get fn.toNat).decode (velem (s.getV q a) (Fmt.vwidth fn) i))
    else vecLanes s d lw (Fmt.vwidth fn) [srcV a lw.ta] [] 8 10 fun q s i =>
      fpSqrt (FpFmt.get fn.toNat) (s.rm q lw.rm) ((FpFmt.get fn.toNat).decode (velem (s.getV q a) (Fmt.vwidth fn) i)) := rfl

theorem sqrt_writes (h8 : fn.toNat ≠ 8) (hw : Fmt.vwidth fn = w) (hd : w ∣ 8192) (hr : VecReady s lw w [srcV a lw.ta, srcV d]) :
    VecWrites (.vsqrt d a fn lw) s lw d w 8 10 fun j =>
      fpSqrt (FpFmt.get fn.toNat) (s.rm s.cur lw.rm) ((FpFmt.get fn.toNat).decode (velem (s.getV s.cur a) w j)) := by
  subst hw
  exact vecWrites_of (exec_vsqrt.trans (if_neg (mt is_fp64.mp h8))) hr hd fun j => by simp only [getV_laned, rm_laned]

theorem sqrt_long (h8 : fn.toNat = 8) (hw : Fmt.vwidth fn = w) (hd : w ∣ 8192) (hr : VecReady s lw w [srcV a lw.ta, srcV d]) :
    ((s.core s.cur.core).longResults < 4 → VecWritesLong (.vsqrt d a fn lw) s lw d w fun j =>
        fpSqrt (FpFmt.get fn.toNat) (s.rm s.cur lw.rm) ((FpFmt.get fn.toNat).decode (velem (s.getV s.cur a) w j))) ∧
      (4 ≤ (s.core s.cur.core).longResults → Stalls (.vsqrt d a fn lw) s) := by
  subst hw
  exact long_of (exec_vsqrt.trans (if_pos (is_fp64.mpr h8))) hr hd fun j => by simp only [getV_laned, rm_laned]

theorem div_long (h8 : fn.toNat = 8) (hw : Fmt.vwidth fn = w) (hr : VecReady s lw w [srcV a lw.ta, srcV b lw.tb, srcV d]) :
    ((s.core s.cur.core).longResults < 4 → VecWritesLong (.vdiv d a b fn lw) s lw d w fun j =>
        fpDiv (FpFmt.get fn.toNat) (s.rm s.cur lw.rm) ((FpFmt.get fn.toNat).decode (velem (s.getV s.cur a) w j))
          ((FpFmt.get fn.toNat).decode (velem (s.getV s.cur b) w j))) ∧
      (4 ≤ (s.core s.cur.core).longResults → Stalls (.vdiv d a b fn lw) s) := by
  have hf : FpFmt.fp64 = FpFmt.get fn.toNat := by rw [h8]; rfl
  have h64 : w = 64 := by
    rw [← hw, Fmt.vwidth, h8]
    rfl
  subst h64
  rw [← hf]
  exact long_of (exec_vdiv.trans (if_pos (is_fp64.mpr h8))) hr (by decide) fun j => by simp only [getV_laned, rm_laned]

end Instructions

/-! ### Special cases (R170, R171) -/

section Special

variable {f : FpFmt} {rm : Rm} {p q : Exact} {m n : Bool}

theorem flags_zero (r : Nat × Flags) : (r.1, r.2 ||| (0 ||| 0 ||| 0 : Flags)) = r := Prod.ext rfl (by simp)

theorem isZero_iff : p.isZero = true ↔ p.n = 0 ∧ p.sticky = false := by simp [Exact.isZero]

theorem div_fin : fpDiv f rm (.fin p) (.fin q) =
    if q.isZero then (if p.isZero then (f.nanBits, Flags.nv) else (f.infBits (p.neg != q.neg), Flags.dz))
    else if p.isZero then (f.pack (p.neg != q.neg) 0 0, 0) else f.round rm (Exact.div p q) := rfl

theorem sqrt_fin : fpSqrt f rm (.fin p) = if p.isZero then (f.pack p.neg 0 0, 0) else if p.neg then (f.nanBits, Flags.nv)
    else f.round rm (Exact.sqrt p) := rfl

theorem nanOf_two (x y : Val) : nanOf f [x, y] = (f.nanBits, x.snanFlag ||| y.snanFlag) :=
  Prod.ext rfl (congrArg (· ||| y.snanFlag) BitVec.zero_or)

theorem nanOf_one (x : Val) : nanOf f [x] = (f.nanBits, x.snanFlag) := Prod.ext rfl BitVec.zero_or

theorem minMax_nan {w : Bool} {a b : Nat} (h : (f.decode a).isNan = true ∨ (f.decode b).isNan = true) :
    fpMinMax f w a b = (f.nanBits, (f.decode a).snanFlag ||| (f.decode b).snanFlag) :=
  (if_pos ((Bool.or_eq_true _ _).mpr h)).trans (nanOf_two _ _)

theorem minMax_num {w : Bool} {a b : Nat} (ha : (f.decode a).isNan = false) (hb : (f.decode b).isNan = false) :
    fpMinMax f w a b = (if (Val.order true (f.decode a) (f.decode b) == .lt) == w then b else a, 0) :=
  if_neg (by rw [ha, hb]; exact Bool.false_ne_true)

/-- An operation on a NaN. -/
theorem nan_ops {x y z : Val} (h : x.isNan = true ∨ y.isNan = true) :
    fpAdd f rm x y = (f.nanBits, x.snanFlag ||| y.snanFlag) ∧ fpMul f rm x y = (f.nanBits, x.snanFlag ||| y.snanFlag) ∧
      fpDiv f rm x y = (f.nanBits, x.snanFlag ||| y.snanFlag) ∧ fpFma f rm x y z = (f.nanBits, x.snanFlag ||| y.snanFlag ||| z.snanFlag) := by
  rw [← nanOf_two]
  cases x with
  | nan _ => exact ⟨rfl, rfl, rfl, rfl⟩
  | inf _ =>
    cases y with
    | nan _ => exact ⟨rfl, rfl, rfl, rfl⟩
    | inf _ => exact absurd h (by simp [Val.isNan])
    | fin _ => exact absurd h (by simp [Val.isNan])
  | fin _ =>
    cases y with
    | nan _ => exact ⟨rfl, rfl, rfl, rfl⟩
    | inf _ => exact absurd h (by simp [Val.isNan])
    | fin _ => exact absurd h (by simp [Val.isNan])

theorem fma_nan {x y z : Val} (hz : z.isNan = true) (hm : mulVal x y ≠ none) :
    fpFma f rm x y z = (f.nanBits, x.snanFlag ||| y.snanFlag ||| z.snanFlag) := by
  obtain ⟨v, hv⟩ := Option.ne_none_iff_exists'.mp hm
  unfold fpFma
  rw [hv]
  exact if_pos (by rw [hz, Bool.or_true])

theorem sqrt_nan {x : Val} (h : x.isNan = true) : fpSqrt f rm x = (f.nanBits, x.snanFlag) := by
  rw [← nanOf_one]
  cases x with
  | nan _ => rfl
  | inf _ => cases h
  | fin _ => cases h

/-- A fused form whose product is infinite. -/
theorem fma_prod {x y z : Val} {k : Bool} (hm : mulVal x y = some (.inf k)) (hx : x.snanFlag = 0) (hy : y.snanFlag = 0) (hz : z.isNan = false) :
    fpFma f rm x y z = fpAdd f rm (.inf k) z := by
  have hzs : z.snanFlag = 0 := by cases z <;> first | rfl | cases hz
  unfold fpFma
  rw [hm, hx, hy, hzs]
  dsimp only
  rw [if_neg (by rw [hz]; exact Bool.false_ne_true)]
  exact flags_zero _

theorem add_inf (k o : Bool) : fpAdd f rm (.inf k) (.inf o) = if k = o then (f.infBits o, 0) else (f.nanBits, Flags.nv) := by
  show (if k = o then (f.infBits k, 0) else _) = _
  refine ite_congr rfl (fun h => ?_) fun _ => rfl
  rw [h]

/-- A value that is less than another, the two zeros apart. -/
def Below (x y : Val) : Prop := x = .inf true ∧ y ≠ .inf true ∨ y = .inf false ∧ x ≠ .inf false ∨
  ∃ u v, x = .fin u ∧ y = .fin v ∧ (Exact.cmp u v = .lt ∨ u.isZero = true ∧ v.isZero = true ∧ u.neg = true ∧ v.neg = false)

theorem cmp_of_zeros {u v : Exact} (hu : u.isZero = true) (hv : v.isZero = true) : Exact.cmp u v = .eq := by
  have h0 {z : Exact} (hz : z.isZero = true) : val z = 0 := by
    rw [val, mag_eq_zero.mpr (isZero_iff.mp hz).1, neg_zero, ite_self]
  rw [cmp_eq, h0 hu, h0 hv]

theorem cmp_swap {u v : Exact} (h : Exact.cmp u v = .lt) : Exact.cmp v u = .gt := cmp_gt.mpr (cmp_lt.mp h)

theorem order_fin (u v : Exact) : Val.order true (.fin u) (.fin v) =
    if u.isZero && v.isZero then (if u.neg == v.neg then .eq else if u.neg then .lt else .gt) else Exact.cmp u v := rfl

theorem order_below {x y : Val} (hx : x.isNan = false) (hy : y.isNan = false) (h : Below x y) :
    Val.order true x y = .lt ∧ Val.order true y x = .gt := by
  rcases h with ⟨rfl, hne⟩ | ⟨rfl, hne⟩ | ⟨u, v, rfl, rfl, h⟩
  · cases y with
    | nan _ => cases hy
    | inf k => cases k <;> first | exact absurd rfl hne | exact ⟨rfl, rfl⟩
    | fin _ => exact ⟨rfl, rfl⟩
  · cases x with
    | nan _ => cases hx
    | inf k => cases k <;> first | exact absurd rfl hne | exact ⟨rfl, rfl⟩
    | fin _ => exact ⟨rfl, rfl⟩
  · rw [order_fin, order_fin]
    rcases h with h | ⟨hu, hv, hun, hvn⟩
    · have hz : ¬ (u.isZero && v.isZero) = true := by
        rw [Bool.and_eq_true]
        rintro ⟨hu, hv⟩
        rw [cmp_of_zeros hu hv] at h
        cases h
      rw [if_neg hz, if_neg (by rwa [Bool.and_comm])]
      exact ⟨h, cmp_swap h⟩
    · rw [hu, hv, hun, hvn]
      exact ⟨rfl, rfl⟩

theorem fma_fin (r : Exact) : fpFma f rm (.fin p) (.fin q) (.fin r) = f.round rm (Exact.add (Exact.mul p q) r (rm == .rdn)) := flags_zero _

/-- The root that is rounded, confirmed by its square. -/
theorem root_spec (hn : p.n ≠ 0) (hneg : p.neg = false) : ∃ k e st, fpSqrt f rm (.fin p) = f.round rm ⟨false, k, e, st⟩ ∧ 140 ≤ Nat.log2 k ∧
    Exact.cmp ⟨false, k * k, 2 * e, false⟩ p ≠ .gt ∧ Exact.cmp p ⟨false, (k + 1) * (k + 1), 2 * e, false⟩ = .lt ∧
    (st = false ↔ Exact.cmp ⟨false, k * k, 2 * e, false⟩ p = .eq) := by
  have hz : p.isZero = false := by
    rw [Exact.isZero, beq_false_of_ne hn]
    rfl
  have hp : val p = (radicand p : ℚ) * 2 ^ (2 * rootExp p) := by rw [mag_radicand, val, hneg]; rfl
  have hpos := two_zpow_pos (2 * rootExp p)
  refine ⟨Nat.sqrt (radicand p), rootExp p, Nat.sqrt (radicand p) * Nat.sqrt (radicand p) != radicand p, ?_, log2_root hn, ?_, ?_, ?_⟩
  · rw [sqrt_fin, hz, hneg, if_neg Bool.false_ne_true, if_neg Bool.false_ne_true, sqrt_eq]
  · rw [cmp_ne_gt, val_square, hp, mul_le_mul_iff_left₀ hpos, Nat.cast_le]
    exact Nat.sqrt_le _
  · rw [cmp_lt, val_square, hp, mul_lt_mul_iff_left₀ hpos, Nat.cast_lt]
    exact Nat.lt_succ_sqrt _
  · rw [cmp_eq, val_square, hp, mul_left_inj' hpos.ne', Nat.cast_inj, bne_eq_false_iff_eq]

/-- A finite pattern is subnormal where its exponent field is zero. -/
theorem subnormal_iff {b : Nat} {z : Exact} (h : f.decode b = .fin z) (hn : z.n ≠ 0) : f.expField b = 0 ↔ z.log2 < f.emin := by
  have hm : f.mantField b < 2 ^ f.mbits := Nat.mod_lt _ (Nat.two_pow_pos _)
  unfold FpFmt.decode at h
  dsimp only at h
  split at h
  · split at h <;> cases h
  · split at h
    · cases h
    · split at h
      · next h0 =>
        cases h
        refine iff_of_true (beq_iff_eq.mp h0) ?_
        have hl : Nat.log2 (f.mantField b) < f.mbits := (Nat.log2_lt hn).mpr hm
        show (Nat.log2 (f.mantField b) : Int) + (f.emin - f.mbits) < f.emin
        omega
      · next h0 =>
        cases h
        refine iff_of_false (fun e => h0 (beq_iff_eq.mpr e)) ?_
        have hl : Nat.log2 (f.mantField b + 2 ^ f.mbits) = f.mbits := (Nat.log2_eq_iff (n := f.mantField b + 2 ^ f.mbits) hn).mpr ⟨Nat.le_add_left _ _, by rw [Nat.pow_succ]; omega⟩
        have he : f.expField b ≠ 0 := fun e => h0 (beq_iff_eq.mpr e)
        show ¬ ((Nat.log2 (f.mantField b + 2 ^ f.mbits) : Int) + ((f.expField b : Int) - f.bias - f.mbits) < f.emin)
        rw [hl, FpFmt.emin]
        omega

theorem class_spec (b : Nat) : fpClass f b = 2 ^ (match f.decode b with
    | .nan sg => if sg then 8 else 9
    | .inf neg => if neg then 0 else 7
    | .fin x => if x.n = 0 then (if x.neg then 3 else 4) else if x.log2 < f.emin then (if x.neg then 2 else 5)
      else if x.neg then 1 else 6) := by
  unfold fpClass
  cases h : f.decode b with
  | nan sg => cases sg <;> rfl
  | inf m => cases m <;> rfl
  | fin z =>
    have hs := Conversions.decode_sticky h
    dsimp only
    by_cases hn : z.n = 0
    · rw [if_pos (isZero_iff.mpr ⟨hn, hs⟩), if_pos hn]
      cases z.neg <;> rfl
    · rw [if_neg (fun e => hn (isZero_iff.mp e).1), if_neg hn]
      by_cases he : f.expField b = 0
      · rw [if_pos he, if_pos ((subnormal_iff h hn).mp he)]
        cases z.neg <;> rfl
      · rw [if_neg he, if_neg (mt (subnormal_iff h hn).mpr he)]
        cases z.neg <;> rfl

end Special

/-! ### Quotients (R170) -/

section Quotient

variable {x y : Exact}

/-- A magnitude without its remainder, as an exact number. -/
def bare (z : Exact) : Exact := { z with neg := false, sticky := false }

theorem quot_cmp (hy : y.n ≠ 0) : Exact.cmp (Exact.mul (bare (Exact.div x y)) (bare y)) (bare x) =
      (if (Exact.div x y).sticky then .lt else .eq) ∧
    Exact.cmp (bare x) (Exact.mul ⟨false, (Exact.div x y).n + 1, (Exact.div x y).e, false⟩ (bare y)) = .lt := by
  have hpos := two_zpow_pos (x.e - (140 + Nat.log2 y.n : Nat))
  have hprod (k : Nat) : val (Exact.mul ⟨false, k, (Exact.div x y).e, false⟩ (bare y)) = ((k * y.n : Nat) : ℚ) * 2 ^ (x.e - (140 + Nat.log2 y.n : Nat)) :=
    (val_mul _ _).trans (div_units x y k).1
  have hx : val (bare x) = (dividend x y : ℚ) * 2 ^ (x.e - (140 + Nat.log2 y.n : Nat)) := (div_units x y 0).2
  have hq : bare (Exact.div x y) = ⟨false, dividend x y / y.n, (Exact.div x y).e, false⟩ := rfl
  have hsticky : (Exact.div x y).sticky = (dividend x y % y.n != 0) := rfl
  have hdm := Nat.div_add_mod' (dividend x y) y.n
  constructor
  · rw [hq, hsticky]
    by_cases h : dividend x y % y.n = 0
    · rw [h]
      refine cmp_eq.mpr ?_
      rw [hprod, hx, ← hdm, h, Nat.add_zero, Nat.mul_div_cancel _ (Nat.pos_of_ne_zero hy)]
    · rw [if_pos (bne_iff_ne.mpr h)]
      refine cmp_lt.mpr ?_
      rw [hprod, hx, mul_lt_mul_iff_left₀ hpos, Nat.cast_lt]
      omega
  · refine cmp_lt.mpr ?_
    rw [hprod, hx, mul_lt_mul_iff_left₀ hpos, Nat.cast_lt]
    exact (Nat.lt_mul_div_succ _ (Nat.pos_of_ne_zero hy)).trans_eq (Nat.mul_comm _ _)

end Quotient

/-! ### Patterns (R139, R140) -/

section Patterns

variable {f : FpFmt} {neg : Bool} {e m : Nat}

/-- A pattern from its fields. -/
def patternOfFields (f : FpFmt) (neg : Bool) (e m : Nat) : Nat := (if neg then 2 ^ (f.ebits + f.mbits) else 0) + e * 2 ^ f.mbits + m

theorem fields_of_pattern (he : e < 2 ^ f.ebits) (hm : m < 2 ^ f.mbits) : f.signBit (patternOfFields f neg e m) = neg ∧
    f.expField (patternOfFields f neg e m) = e ∧ f.mantField (patternOfFields f neg e m) = m := by
  have hrest : e * 2 ^ f.mbits + m < 2 ^ (f.ebits + f.mbits) := by
    rw [Nat.pow_add]
    calc e * 2 ^ f.mbits + m < e * 2 ^ f.mbits + 2 ^ f.mbits := Nat.add_lt_add_left hm _
      _ = (e + 1) * 2 ^ f.mbits := (Nat.succ_mul _ _).symm
      _ ≤ 2 ^ f.ebits * 2 ^ f.mbits := Nat.mul_le_mul_right _ he
  have hp : patternOfFields f neg e m = (e * 2 ^ f.mbits + m) + 2 ^ (f.ebits + f.mbits) * (if neg then 1 else 0) := by
    unfold patternOfFields
    cases neg
    · simp
    · simp only [if_true]
      ring
  have hlow : (e * 2 ^ f.mbits + m) + 2 ^ (f.ebits + f.mbits) * (if neg then 1 else 0) = m + 2 ^ f.mbits * (e + 2 ^ f.ebits * (if neg then 1 else 0)) := by
    rw [Nat.pow_add]
    ring
  refine ⟨?_, ?_, ?_⟩
  · rw [FpFmt.signBit, hp, Nat.add_mul_div_left _ _ (Nat.two_pow_pos _), Nat.div_eq_of_lt hrest]
    cases neg <;> rfl
  · rw [FpFmt.expField, hp, hlow, Nat.add_mul_div_left _ _ (Nat.two_pow_pos _), Nat.div_eq_of_lt hm, Nat.zero_add, Nat.add_mul_mod_self_left,
      Nat.mod_eq_of_lt he]
  · rw [FpFmt.mantField, hp, hlow, Nat.add_mul_mod_self_left, Nat.mod_eq_of_lt hm]

theorem decode_pattern (he : e < 2 ^ f.ebits) (hm : m < 2 ^ f.mbits) : f.decode (patternOfFields f neg e m) =
    if f.hasInf && e == 2 ^ f.ebits - 1 then (if m == 0 then .inf neg else .nan (m / 2 ^ (f.mbits - 1) == 0))
    else if f.hasNan && !f.hasInf && e == 2 ^ f.ebits - 1 && m == 2 ^ f.mbits - 1 then .nan false
    else if e == 0 then .fin ⟨neg, m, f.emin - f.mbits, false⟩ else .fin ⟨neg, m + 2 ^ f.mbits, (e : Int) - f.bias - f.mbits, false⟩ := by
  obtain ⟨h1, h2, h3⟩ := fields_of_pattern (neg := neg) he hm
  rw [FpFmt.decode, h1, h2, h3]

/-- The value of a pattern whose exponent field is neither zero nor reserved. -/
def normalOf (f : FpFmt) (neg : Bool) (e m : Nat) : Val := .fin ⟨neg, 2 ^ f.mbits + m, (e : Int) - f.bias - f.mbits, false⟩

theorem normalOf_eq : normalOf f neg e m = .fin ⟨neg, m + 2 ^ f.mbits, (e : Int) - f.bias - f.mbits, false⟩ := by
  rw [normalOf, Nat.add_comm]

/-- The pattern's value where its exponent field is reserved for nothing. -/
theorem decode_number (he : e < 2 ^ f.ebits) (hm : m < 2 ^ f.mbits) (hinf : (f.hasInf && e == 2 ^ f.ebits - 1) = false)
    (hnan : (f.hasNan && !f.hasInf && e == 2 ^ f.ebits - 1 && m == 2 ^ f.mbits - 1) = false) : f.decode (patternOfFields f neg e m) =
      if e = 0 then .fin ⟨neg, m, f.emin - f.mbits, false⟩ else normalOf f neg e m := by
  rw [decode_pattern he hm, if_neg (by rw [hinf]; exact Bool.false_ne_true), if_neg (by rw [hnan]; exact Bool.false_ne_true), normalOf_eq]
  simp only [beq_iff_eq]

theorem decode_below_top (he : e < 2 ^ f.ebits) (hm : m < 2 ^ f.mbits) (ht : e ≠ 2 ^ f.ebits - 1) : f.decode (patternOfFields f neg e m) =
    if e = 0 then .fin ⟨neg, m, f.emin - f.mbits, false⟩ else normalOf f neg e m :=
  decode_number he hm (by rw [beq_false_of_ne ht, Bool.and_false]) (by rw [beq_false_of_ne ht, Bool.and_false, Bool.false_and])

/-- A mantissa field below its highest bit. -/
theorem quiet_eq (hmb : 0 < f.mbits) : (m / 2 ^ (f.mbits - 1) == 0) = decide (m < 2 ^ (f.mbits - 1)) := by
  rw [Bool.eq_iff_iff, beq_iff_eq, decide_eq_true_eq, Nat.div_eq_zero_iff]
  exact or_iff_right (Nat.two_pow_pos _).ne'

theorem decode_top_inf (he : e < 2 ^ f.ebits) (hm : m < 2 ^ f.mbits) (ht : e = 2 ^ f.ebits - 1) (hi : f.hasInf = true) (hmb : 0 < f.mbits) :
    f.decode (patternOfFields f neg e m) = if m = 0 then .inf neg else .nan (decide (m < 2 ^ (f.mbits - 1))) := by
  rw [decode_pattern he hm, if_pos (by rw [hi, beq_iff_eq.mpr ht]; rfl), quiet_eq hmb]
  simp only [beq_iff_eq]

theorem decode_top_nan (he : e < 2 ^ f.ebits) (hm : m < 2 ^ f.mbits) (ht : e = 2 ^ f.ebits - 1) (hi : f.hasInf = false) (hn : f.hasNan = true)
    (h0 : e ≠ 0) : f.decode (patternOfFields f neg e m) = if m = 2 ^ f.mbits - 1 then .nan false else normalOf f neg e m := by
  by_cases h7 : m = 2 ^ f.mbits - 1
  · rw [if_pos h7, decode_pattern he hm, if_neg (by rw [hi]; exact Bool.false_ne_true), if_pos (by rw [hi, hn, beq_iff_eq.mpr ht, beq_iff_eq.mpr h7]; rfl)]
  · rw [if_neg h7, decode_number he hm (by rw [hi]; rfl) (by rw [beq_false_of_ne h7, Bool.and_false]), if_neg h0]

theorem decode_top_number (he : e < 2 ^ f.ebits) (hm : m < 2 ^ f.mbits) (hi : f.hasInf = false) (hn : f.hasNan = false) (h0 : e ≠ 0) :
    f.decode (patternOfFields f neg e m) = normalOf f neg e m := by
  rw [decode_number he hm (by rw [hi]; rfl) (by rw [hn]; rfl), if_neg h0]

/-- What R139's table gives a format: its fields, and by its kind infinities and NaNs. -/
def FormatOf (code eb mb bias kind : Nat) : Prop :=
  (code, eb, mb, bias, kind) ∈ [(0x08, 11, 52, 1023, 0), (0x09, 8, 23, 127, 0), (0x0A, 5, 10, 15, 0), (0x0B, 8, 7, 127, 0),
      (0x0C, 4, 3, 7, 1), (0x0D, 5, 2, 15, 0), (0x0E, 3, 2, 3, 2), (0x0F, 2, 3, 1, 2), (0x10, 2, 1, 1, 2)]

theorem format_facts {code eb mb bias kind : Nat} (h : FormatOf code eb mb bias kind) : (FpFmt.get code).ebits = eb ∧ (FpFmt.get code).mbits = mb ∧
    (FpFmt.get code).bias = bias ∧ 2 ≤ eb ∧ (FpFmt.get code).hasInf = (kind == 0) ∧ (FpFmt.get code).hasNan = (kind != 2) ∧ (kind = 1 → mb = 3) ∧ 0 < mb := by
  simp only [FormatOf, List.mem_cons, Prod.mk.injEq, List.not_mem_nil, or_false] at h
  rcases h with ⟨rfl, rfl, rfl, rfl, rfl⟩ | ⟨rfl, rfl, rfl, rfl, rfl⟩ | ⟨rfl, rfl, rfl, rfl, rfl⟩ | ⟨rfl, rfl, rfl, rfl, rfl⟩ | ⟨rfl, rfl, rfl, rfl, rfl⟩ |
    ⟨rfl, rfl, rfl, rfl, rfl⟩ | ⟨rfl, rfl, rfl, rfl, rfl⟩ | ⟨rfl, rfl, rfl, rfl, rfl⟩ | ⟨rfl, rfl, rfl, rfl, rfl⟩ <;> decide

end Patterns

/-! ### Rounding (R144, R145) -/

section Rounding

variable {code n lo : Nat} {rm : Rm} {x : Exact}

/-- A rounded significand that no number of the format has (R145); E4M3 has no 15 in its top binade. -/
def Beyond (code : Nat) (x : Exact) (n : Nat) : Prop :=
  (if code ≤ 11 ∨ code = 13 then ((FpFmt.get code).bias : Int) else (FpFmt.get code).bias + 1) < topExp (FpFmt.get code) x n ∨
    code = 12 ∧ topExp (FpFmt.get code) x n = 8 ∧ n = 15

theorem beyond_iff (h1 : 8 ≤ code) (h2 : code ≤ 16) (hn : n ≤ 2 ^ ((FpFmt.get code).mbits + 1)) : Beyond code x n ↔
    (FpFmt.get code).emax < topExp (FpFmt.get code) x n ∨ (topExp (FpFmt.get code) x n = (FpFmt.get code).emax ∧
      (FpFmt.get code).nmax < if n = 2 ^ ((FpFmt.get code).mbits + 1) then 2 ^ (FpFmt.get code).mbits else n) := by
  rw [Beyond, emax_eq h1 h2, nmax_eq h1 h2]
  refine or_congr_right ?_
  by_cases hc : code = 12
  · subst hc
    have hm : (FpFmt.get 12).mbits = 3 := rfl
    have hb : (FpFmt.get 12).bias = 7 := rfl
    simp only [hm, hb] at hn ⊢
    norm_num at hn ⊢
    intro _
    split <;> omega
  · rw [if_neg hc]
    refine iff_of_false (fun h => hc h.1) fun h => ?_
    have hpos := Nat.two_pow_pos (FpFmt.get code).mbits
    have h3 := h.2
    rw [Nat.pow_succ] at h3 hn
    split at h3 <;> omega

/-- What rounding leaves of a number that its neighbours in the unit are given for (R144, R145). -/
def Rounded (code : Nat) (rm : Rm) (x : Exact) (n : Nat) (exact : Bool) : Prop :=
  (Beyond code x n → Infinities code →
    (Away rm x.neg → (FpFmt.get code).round rm x = ((FpFmt.get code).infBits x.neg, Flags.of ||| Flags.nx)) ∧
    (¬ Away rm x.neg → (FpFmt.get code).round rm x = ((FpFmt.get code).infBits x.neg - 1, Flags.of ||| Flags.nx))) ∧
  (Beyond code x n → ¬ Infinities code → (FpFmt.get code).round rm x =
    ((FpFmt.get code).pack x.neg (2 ^ (FpFmt.get code).ebits - 1) (if code = 12 then 6 else 2 ^ (FpFmt.get code).mbits - 1),
      Flags.of ||| Flags.nx ||| Flags.sat)) ∧
  (¬ Beyond code x n → (FpFmt.get code).round rm x =
    (if n < 2 ^ (FpFmt.get code).mbits then (FpFmt.get code).pack x.neg 0 n
      else if n = 2 ^ ((FpFmt.get code).mbits + 1) then (FpFmt.get code).pack x.neg (max x.log2 (FpFmt.get code).emin + 1 + (FpFmt.get code).bias).toNat 0
      else (FpFmt.get code).pack x.neg (max x.log2 (FpFmt.get code).emin + (FpFmt.get code).bias).toNat (n - 2 ^ (FpFmt.get code).mbits),
     if exact then 0 else if n < 2 ^ (FpFmt.get code).mbits then Flags.nx ||| Flags.uf else Flags.nx))

theorem rounded_of_round {exact : Bool} {half : Ordering} (h1 : 8 ≤ code) (h2 : code ≤ 16) (hx : x.n ≠ 0)
    (hn : n ≤ 2 ^ ((FpFmt.get code).mbits + 1)) (hs : x.scaled (-unitExp (FpFmt.get code) x) = (lo, !exact, half))
    (hr : roundInt rm x.neg lo (!exact) half = n) : Rounded code rm x n exact := by
  have hz : x.isZero = false := by
    rw [Exact.isZero, beq_false_of_ne hx]
    rfl
  have hround := round_eq hz hs hr
  have hbeyond := beyond_iff (x := x) h1 h2 hn
  refine ⟨fun hb hi => ?_, fun hb hi => ?_, fun hb => ?_⟩
  · rw [if_pos (hbeyond.mp hb)] at hround
    have hinf := infinities_hasInf h1 h2 hi
    exact ⟨fun ha => hround.trans (overflow_away hinf ha), fun ha => by rw [hround, overflow_stays hinf ha, maxBits_inf h1 h2 hi]⟩
  · rw [hround, if_pos (hbeyond.mp hb), overflow_clamps (infinities_not_hasInf h1 h2 hi), maxBits_noInf h1 h2 hi]
  · rw [hround, if_neg (mt hbeyond.mpr hb)]

/-- The neighbour that the mode names, rounded into a format. -/
theorem rounded_of_neighbours (h1 : 8 ≤ code) (h2 : code ≤ 16) (hx : x.n ≠ 0) (hs : x.sticky = false)
    (hlo : Exact.cmp (units lo (unitExp (FpFmt.get code) x)) (magOf x) ≠ .gt)
    (hhi : Exact.cmp (magOf x) (units (lo + 1) (unitExp (FpFmt.get code) x)) = .lt)
    (hup : (Exact.cmp (units lo (unitExp (FpFmt.get code) x)) (magOf x) == .eq) = false ∧
      goesUp rm x.neg lo (Exact.cmp (magOf x) (units (2 * lo + 1) (unitExp (FpFmt.get code) x - 1))) → n = lo + 1)
    (hdn : ¬ ((Exact.cmp (units lo (unitExp (FpFmt.get code) x)) (magOf x) == .eq) = false ∧
      goesUp rm x.neg lo (Exact.cmp (magOf x) (units (2 * lo + 1) (unitExp (FpFmt.get code) x - 1)))) → n = lo) :
    Rounded code rm x n (Exact.cmp (units lo (unitExp (FpFmt.get code) x)) (magOf x) == .eq) := by
  obtain ⟨half, hsc, hr⟩ := rounded_neighbour hs hlo hhi hup hdn
  have hlt := significand_le hx hlo
  have hn : n = lo + 1 ∨ n = lo := (em _).imp hup hdn
  exact rounded_of_round h1 h2 hx (by omega) hsc hr

end Rounding

/-! ### The functions (R172) -/

section Functions

variable {code b : Nat} {rm : Rm} {p : Exact}

/-- What e^x, ln x and erf x give for the finite operands that are not zero. -/
def FiniteFunctions (f : FpFmt) (rm : Rm) (b : Nat) (p : Exact) : Prop :=
  (∀ r ∈ [fpExp f rm b, fpErf f rm b], r.2 &&& Flags.nx = Flags.nx ∧ r.2 &&& ~~~(Flags.nx ||| Flags.of ||| Flags.uf) = 0) ∧
  (p.neg = true → fpLog f rm b = (f.nanBits, Flags.nv)) ∧
  (p.neg = false → Exact.cmp p ⟨false, 1, 0, false⟩ ≠ .eq → (fpLog f rm b).2 &&& Flags.nx = Flags.nx) ∧
  (12 ≤ p.log2 → p.neg = false → fpExp f rm b = f.overflow false rm) ∧
  (12 ≤ p.log2 → p.neg = true → fpExp f rm b = (if rm = .rup then 1 else 0, Flags.uf ||| Flags.nx)) ∧
  (p.log2 < -128 → p.neg = false → fpExp f rm b = (if rm = .rup then oneOf f false + 1 else oneOf f false, Flags.nx)) ∧
  (p.log2 < -128 → p.neg = true → fpExp f rm b = belowOne f rm) ∧
  (4 ≤ p.log2 → p.neg = false → fpErf f rm b = belowOne f rm) ∧
  (4 ≤ p.log2 → p.neg = true → fpErf f rm b = (if rm = .rtz ∨ rm = .rup then oneOf f true - 1 else oneOf f true, Flags.nx))

theorem finiteFunctions (h1 : 8 ≤ code) (h2 : code ≤ 11) (hb : (FpFmt.get code).decode b = .fin p) (hz : p.isZero = false) :
    FiniteFunctions (FpFmt.get code) rm b p := by
  have hi : (FpFmt.get code).hasInf = true := infinities_hasInf h1 (by omega) (.inl h2)
  have hn : p.n ≠ 0 := fun h => by
    rw [Exact.isZero, h, Conversions.decode_sticky hb] at hz
    cases hz
  have hexp : fpExp (FpFmt.get code) rm b = orOpen (FpFmt.get code) rm 0 b (expRound (FpFmt.get code) rm p) := by
    rw [exp_fin hb, hz, if_neg Bool.false_ne_true]
  have herf : fpErf (FpFmt.get code) rm b = orOpen (FpFmt.get code) rm 2 b (erfRound (FpFmt.get code) rm p) := by
    rw [erf_fin hb, hz, if_neg Bool.false_ne_true]
  have hlog := log_fin (rm := rm) hb
  rw [hz, if_neg Bool.false_ne_true] at hlog
  have hlarge (h : 12 ≤ p.log2) := (hexp.trans (congrArg _ (expRound_large h))).trans rfl
  have hsmall (h : p.log2 < -128) := (hexp.trans (congrArg _ (expRound_small h))).trans rfl
  have hone (h : 4 ≤ p.log2) := (herf.trans (congrArg _ (erfRound_large h hn))).trans rfl
  refine ⟨fun r hr => ?_, fun hneg => ?_, fun hneg h1 => ?_, fun h hneg => ?_, fun h hneg => ?_, fun h hneg => ?_, fun h hneg => ?_, fun h hneg => ?_,
    fun h hneg => ?_⟩
  · have hr' : Inexact r.2 := by
      rcases List.mem_pair.mp hr with rfl | rfl
      · exact hexp ▸ exp_inexact hi
      · exact herf ▸ erf_inexact hi
    exact ⟨hr'.nx, hr'.only⟩
  · rw [hlog, if_pos hneg]
  · rw [hlog, hneg, if_neg Bool.false_ne_true, if_neg h1]
    exact (log_inexact hi).nx
  · rw [hlarge h, hneg]
    exact round_huge h1 h2
  · rw [hlarge h, hneg]
    exact round_tiny h1 h2
  · rw [hsmall h, hneg]
    exact round_above_one h1 h2
  · rw [hsmall h, hneg]
    exact round_below_one h1 h2
  · rw [hone h, hneg]
    exact (round_erf h1 h2).1
  · rw [hone h, hneg]
    exact (round_erf h1 h2).2

/-- Values of e^x, calculated outside the model. -/
theorem exp_values : fpExp (FpFmt.get 9) .rne 0x3F800000 = (0x402DF854, Flags.nx) ∧
    fpExp (FpFmt.get 8) .rne 0x3FF0000000000000 = (0x4005BF0A8B145769, Flags.nx) ∧
    fpExp (FpFmt.get 9) .rdn 0xC2AEAC50 = (0x7FFFE5, Flags.uf ||| Flags.nx) ∧ fpExp (FpFmt.get 10) .rup 0x498C = (0x7C00, Flags.of ||| Flags.nx) ∧
    fpExp (FpFmt.get 11) .rtz 0xC0A0 = (0x3BDC, Flags.nx) ∧ fpExp (FpFmt.get 9) .rna 0xC2CE8ED0 = (1, Flags.uf ||| Flags.nx) := by decide +kernel

/-- Values of ln x, calculated outside the model. -/
theorem log_values : fpLog (FpFmt.get 9) .rne 0x40000000 = (0x3F317218, Flags.nx) ∧
    fpLog (FpFmt.get 8) .rdn 0x4024000000000000 = (0x40026BB1BBB55515, Flags.nx) ∧ fpLog (FpFmt.get 10) .rup 0x3C01 = (0x1400, Flags.nx) ∧
    fpLog (FpFmt.get 11) .rna 1 = (0xC2B8, Flags.nx) ∧ fpLog (FpFmt.get 9) .rtz 0x3F7FFFFF = (0xB3800000, Flags.nx) := by decide +kernel

/-- Values of erf x, calculated outside the model. -/
theorem erf_values : fpErf (FpFmt.get 9) .rne 0x3F800000 = (0x3F57BB3D, Flags.nx) ∧
    fpErf (FpFmt.get 8) .rdn 0xBFE0000000000000 = (0xBFE0A7EF5C18EDD3, Flags.nx) ∧ fpErf (FpFmt.get 10) .rtz 0x4000 = (0x3BF6, Flags.nx) ∧
    fpErf (FpFmt.get 11) .rna 2 = (2, Flags.uf ||| Flags.nx) ∧ fpErf (FpFmt.get 10) .rup 0x8002 = (0x8002, Flags.uf ||| Flags.nx) := by decide +kernel

end Functions

/-- Settles O22: the lanes by their operations, the operations by exact numbers, rounding by the neighbours in the unit of the result, and the
functions by the flags and the places of their bounds. -/
theorem floatLanes : Obligations.FloatLanes := by
  unfold Obligations.FloatLanes
  refine ⟨fun s d a b fn lw h1 h2 => ?_, fun f rm m n p q => ?_, fun x y down hx hy => ?_, fun code eb mb bias kind neg e m hc he hm => ?_,
    fun code rm x lo n h1 h2 hn hs => ?_, fun code rm b h1 h2 => ?_⟩
  · intro w f rm ea eb x y z pipelined long
    have hw : Fmt.vwidth fn = w := vwidth_float h1 h2
    have hd : w ∣ 8192 := hw ▸ VectorMoves.vwidth_dvd ⟨h2, by omega⟩
    have hfw : f.width = w := (width_float h1 h2).trans hw
    refine ⟨fun hr => ⟨?_, ?_, ?_, ?_, ?_, ?_, fun h8 => ?_, fun h8 => ?_⟩, fun hr => ⟨?_, ?_, ?_, ?_, ?_, fun h8 => ?_, fun h8 => ?_⟩, fun hr => ⟨?_, ?_, ?_⟩⟩
    · have h := f1_writes (i := .vabs d a fn lw) (op := fun f _ x => (x % 2 ^ (f.width - 1), 0)) rfl hw hd hr
      rw [show (FpFmt.get fn.toNat).width = w from hfw] at h
      exact h
    · have h := f1_writes (i := .vneg d a fn lw) (op := fun f _ x => (x ^^^ 2 ^ (f.width - 1), 0)) rfl hw hd hr
      rw [show (FpFmt.get fn.toNat).width = w from hfw] at h
      exact h
    · exact f1_writes (i := .vclass d a fn lw) (op := fun f _ x => (fpClass f x, 0)) rfl hw hd hr
    · exact fun_long rfl hw hd hr
    · exact fun_long rfl hw hd hr
    · exact fun_long rfl hw hd hr
    · exact sqrt_writes h8 hw hd hr
    · exact sqrt_long h8 hw hd hr
    · exact f2_writes rfl hw hd hr
    · exact f2_writes (op := fun f rm x y => fpAdd f rm x y.neg) rfl hw hd hr
    · exact f2_writes rfl hw hd hr
    · exact minMax_writes rfl hw hd hr
    · exact minMax_writes rfl hw hd hr
    · exact f2_writes (exec_vdiv.trans (if_neg (mt is_fp64.mp h8))) hw hd hr
    · exact div_long h8 hw hr
    · exact f3_writes (p := false) (z := false) rfl hw hd hr
    · exact f3_writes (p := false) (z := true) rfl hw hd hr
    · exact f3_writes (p := true) (z := false) rfl hw hd hr
  · intro nan
    refine ⟨rfl, rfl, rfl, rfl, rfl, rfl, rfl, fun z hz => ?_, rfl, fun hp hq => ?_, fun hp hq => ?_, fun hp hq => ?_, fun hp hneg => ?_,
      fun hp => ?_, fun w a b ha => ?_, fun b hb => ?_, fun b hb hp => ?_, fma_fin, fun r => ?_, fun o => ?_, fun x y z => ?_, rfl, rfl,
      fun hp hq => ?_, rfl, rfl, fun hn hneg => ?_, fun a b => ?_, fun code b h1 h2 => ?_⟩
    · have h1 : mulVal (.fin p) (.inf n) = none := if_pos hz
      have h2 : mulVal (.inf m) (.fin p) = none := if_pos hz
      unfold fpFma
      rw [h1, h2]
      exact ⟨rfl, rfl⟩
    · rw [div_fin, if_pos hq, if_pos hp]
    · rw [div_fin, if_pos hq, hp]
      rfl
    · rw [div_fin, hp, hq]
      rfl
    · rw [sqrt_fin, hp, hneg]
      rfl
    · rw [sqrt_fin, if_pos hp]
    · exact minMax_nan (.inl ha)
    · unfold fpLog fpExp
      rw [hb]
      exact ⟨rfl, rfl⟩
    · unfold fpLog fpErf
      rw [hb]
      exact ⟨if_pos hp, if_pos hp⟩
    · refine ⟨flags_zero (f.infBits m, 0), fun hp => ?_⟩
      have hl : mulVal (.inf m) (.fin p) = some (.inf (m != p.neg)) := if_neg (by rw [hp]; exact Bool.false_ne_true)
      have hr : mulVal (.fin p) (.inf m) = some (.inf (m != p.neg)) := if_neg (by rw [hp]; exact Bool.false_ne_true)
      exact ⟨fma_prod (x := .inf m) (y := .fin p) (z := .fin r) hl rfl rfl rfl, fma_prod (x := .fin p) (y := .inf m) (z := .fin r) hr rfl rfl rfl,
        (fma_prod (x := .inf m) (y := .fin p) (z := .inf n) hl rfl rfl rfl).trans (add_inf _ _)⟩
    · exact (fma_prod (x := .inf m) (y := .inf n) (z := .inf o) rfl rfl rfl rfl).trans (add_inf _ _)
    · intro fl
      exact ⟨nan_ops, fun hz hm => fma_nan hz hm, sqrt_nan⟩
    · rw [div_fin, hp, hq]
      rfl
    · exact root_spec hn hneg
    · intro x y below hx hy
      refine ⟨fun h => ?_, fun h => ?_⟩
      · obtain ⟨ho, -⟩ := order_below hx hy h
        rw [minMax_num hx hy, minMax_num hx hy, show Val.order true (f.decode a) (f.decode b) = .lt from ho]
        exact ⟨rfl, rfl⟩
      · obtain ⟨-, ho⟩ := order_below hy hx h
        rw [minMax_num hx hy, minMax_num hx hy, show Val.order true (f.decode a) (f.decode b) = .gt from ho]
        exact ⟨rfl, rfl⟩
    · exact class_spec b
  · intro num' sum prod quot mag'
    obtain ⟨hse, hss, hsn⟩ := add_rest x y down
    refine ⟨hss, rfl, rfl, rfl, fun k hkx hky => ?_, hsn, fun k l hkx hly => ?_, fun hxn hyn => ⟨log2_quot hxn hyn, ?_, ?_⟩⟩
    · have hk : k ≤ sum.e := hse ▸ le_min hkx hky
      refine ⟨hk, num_inj hk ?_⟩
      rw [val_add, Int.cast_add, add_mul]
      exact congrArg₂ _ (num_val hkx).symm (num_val hky).symm
    · have hk : k + l ≤ prod.e := add_le_add hkx hly
      refine ⟨hk, num_inj hk ?_⟩
      rw [val_mul, Int.cast_mul, zpow_add₀ two_ne_zero]
      rw [← num_val hkx, ← num_val hly]
      exact mul_mul_mul_comm _ _ _ _
    · exact (quot_cmp hyn).1
    · exact (quot_cmp hyn).2
  · intro f v top normal
    obtain ⟨h1, h2, h3, heb, hinf, hnan, hmb, hpos⟩ := format_facts hc
    subst h1 h2 h3
    have hfour : 2 ^ 2 ≤ 2 ^ f.ebits := Nat.pow_le_pow_right Nat.two_pos heb
    have htop0 : top → e ≠ 0 := fun (h : e = 2 ^ f.ebits - 1) => by omega
    refine ⟨fun h0 => ?_, fun h0 ht => ?_, fun ht hk => ?_, fun ht hk => ?_, fun ht hk => ?_⟩
    · exact (decode_below_top (f := f) he hm (fun h => htop0 h h0)).trans (if_pos h0)
    · exact (decode_below_top (f := f) he hm ht).trans (if_neg h0)
    · exact decode_top_inf (f := f) he hm ht (by rw [hinf, hk]; rfl) hpos
    · have h := decode_top_nan (f := f) (neg := neg) he hm ht (by rw [hinf, hk]; rfl) (by rw [hnan, hk]; rfl) (htop0 ht)
      rw [show f.mbits = 3 from hmb hk] at h
      exact h
    · exact decode_top_number (f := f) he hm (by rw [hinf, hk]; rfl) (by rw [hnan, hk]; rfl) (htop0 ht)
  · intro f e u a units' exact half up top away infinities beyond hlo hhi hup hdn
    have h : Rounded code rm x n exact := rounded_of_neighbours h1 h2 hn hs hlo hhi hup hdn
    exact h
  · intro f one minusOne below
    obtain ⟨e1, e2, e3, e4, e5, e6⟩ := exp_values
    obtain ⟨l1, l2, l3, l4, l5⟩ := log_values
    refine ⟨fun h => ?_, fun h => ?_, fun sg h => functions_nan h, fun p h hz => ?_, log_one h1 h2, fun p h hz => finiteFunctions h1 h2 h hz,
      e1, e2, e3, e4, e5, e6, l1, l2, l3, l4, l5, erf_values⟩
    · obtain ⟨he, hl, hr⟩ := functions_inf (rm := rm) h
      exact ⟨he, hl, hr.trans (round_one h1 h2 false)⟩
    · obtain ⟨he, hl, hr⟩ := functions_inf (rm := rm) h
      exact ⟨he, hl, hr.trans (round_one h1 h2 true)⟩
    · exact ⟨((exp_fin h).trans (if_pos hz)).trans (round_one h1 h2 false), (log_fin h).trans (if_pos hz), (erf_fin h).trans (if_pos hz)⟩

end Sys2Proof.Proofs.FloatLanes
end

section
/-! PROOFS. The shape of a tile that has kept the numbers of an earlier owner's commands (R267, R268). -/

namespace Sys2Proof.Proofs.Tiles

open Sys2Proof.Machine
open Sys2Proof.Safety

/-! ### What `MX.SHAPE` leaves (O36) -/

/-- Thread 0 of core 0, with s1 = 1, holds tile 0, which lists a command that an earlier owner left. -/
def keptTile : State :=
  { State.reset with
    cores := [(0, {
      ctxs := [(0, { prog := { s := [(1, 1)] } })]
      tiles := [(0, { owner := .ctx 0, after := [1] })] })]
    cur := .thread 0 0 }

/-- The commands that tile 0 lists after a meaning. -/
def listedAfter : Out → List Nat
  | .next u => (u.tile 0 0).after
  | _ => []

/-- Refutes O36: `MX.SHAPE` sets the tile's shape and clears its elements, and keeps the list of commands that delays its release; the
statement gives a tile with that list empty. -/
theorem not_tilesAndMatrixPushes : ¬ Obligations.TilesAndMatrixPushes := by
  unfold Obligations.TilesAndMatrixPushes
  rintro ⟨h, -⟩
  obtain ⟨-, -, -, hshape, -⟩ := h keptTile 0 0 rfl
  obtain ⟨-, -, -, hgood, -⟩ := hshape 0 1 1 (by decide) (by decide)
  obtain ⟨u, hu, hafter⟩ := hgood (by decide) (by decide) (by decide) (by decide)
  have hempty : (u.tile 0 0).after = [] := (congrArg (fun k : Core => (k.tile 0).after) (hafter.cores 0) :)
  have hkept : listedAfter (.next u) = listedAfter (exec (.mxShape 0 1 1) keptTile) := congrArg listedAfter hu.symm
  have hone : listedAfter (exec (.mxShape 0 1 1) keptTile) = [1] := by decide
  exact absurd (hempty.symm.trans (hkept.trans hone)) (by decide)

end Sys2Proof.Proofs.Tiles
end

section
/-! PROOFS. The order of the turns of a clock, where a core lists a context beyond its 24 (R195). -/

namespace Sys2Proof.Proofs.Order

open Sys2Proof.Machine
open Sys2Proof.Safety
open Sys2Proof.Proofs.Steps

/-! ### Context 28 in the service order (O46) -/

/-- Core 0 lists a context of number 28, which as the unit of an event is the Arcade. -/
def crowded : State := { State.reset with cores := [(0, { ctxs := [(28, {})] })] }

/-- The turns of the control cores stand together in the agenda of a clock. -/
theorem agenda_tick {s : State} (h : s.board.stopped = false) : ∃ l r : List Turn,
    s.tick.agenda = l ++ (((SMap.keys s.cores).map ({ s with now := s.now + 1, stalled := false } : State).controlTurns).flatten ++ r) := by
  simp only [State.tick, h, Bool.false_eq_true, if_false, List.append_assoc]
  exact ⟨_, _, rfl⟩

/-- The turns of the control core end a hold of context 28 and, four turns on, release a wait of it. -/
theorem agenda_crowded : ∃ (l r : List Turn) (a b d : Turn), crowded.tick.agenda =
    l ++ (evAt .holdCountExpiry 0 28 0 :: a :: b :: d :: evAt .waitRelease 0 28 0 :: r) := by
  obtain ⟨l, r, h⟩ := agenda_tick (s := crowded) rfl
  exact ⟨l, _, _, _, _, h⟩

/-- Refutes O46: the turns of a clock follow the contexts that a core lists, whatever their numbers; the end of a hold of a context 28
counts as the Arcade's access and stands before that context's wait, which counts as the control core's. -/
theorem not_causesAndClocks : ¬ Obligations.CausesAndClocks := by
  unfold Obligations.CausesAndClocks
  rintro ⟨-, -, -, -, -, -, horder, -⟩
  obtain ⟨u, hu, -, hplace⟩ := horder crowded rfl
  rw [step_tick rfl] at hu
  obtain rfl : crowded.tick = u := Host.Outcome.next.inj hu
  obtain ⟨l, r, a, b, d, hl⟩ := agenda_crowded
  have hfirst : crowded.tick.agenda[l.length]? = some (evAt .holdCountExpiry 0 28 0) := by simp [hl]
  have hlast : crowded.tick.agenda[l.length + 4]? = some (evAt .waitRelease 0 28 0) := by simp [hl]
  exact absurd (hplace _ _ _ _ (by omega) hfirst hlast (by decide) (by decide)) (by decide)

end Sys2Proof.Proofs.Order
end

section
/-! PROOFS. A delivery to a core that is not resident goes to its image region in HBM (R107, R324). -/

namespace Sys2Proof.Proofs.Delivery

open Sys2Proof.Machine
open Sys2Proof.Safety

/-! ### A payload write to a core that is away (O42) -/

/-- A receive of core 0 whose buffer is byte 0 of the scratchpad. -/
def oneByte : Item :=
  { seq := 1, queue := 5, prio := 0, owner := 0, kind := .msgPost
    hd := BitVec.ofNat 256 (2 ^ 57 + 2 ^ 64 + 2 ^ 80 + 2 ^ 96 + 2 ^ 112 + 2 ^ 248) }

/-- A payload of one byte. -/
def payloadOne : Pkt := { kind := .payload, src := 0, dst := 0, last := true, data := [1] }

/-- Core 0, which holds the receive, is not resident. -/
def awayReceive : State := { State.reset with cores := [(0, { items := [oneByte] })], away := [0] }

/-- The bytes that HBM lists after a delivery. -/
def hbmAfter : Option (State × Bool) → Nat
  | some (u, _) => u.hbm.length
  | none => 0

/-- Refutes O42: the payload write of a core that is not resident goes to its image region, and so changes HBM; the statement, which does not
ask that the core be resident, has HBM as before. -/
theorem not_messages : ¬ Obligations.Messages := by
  unfold Obligations.Messages
  intro h
  obtain ⟨-, -, -, -, -, -, hdeliver, -⟩ := h awayReceive 0
  have hrun (m : Nat) (hm : m < ((deliverBytes (handleOf oneByte.hd) oneByte payloadOne).1).length) : m = 0 := by
    have hlen : ((deliverBytes (handleOf oneByte.hd) oneByte payloadOne).1).length = 1 := by decide
    omega
  obtain ⟨-, hgo, -⟩ := hdeliver oneByte payloadOne 0 (by decide) (by decide) (by decide) (by decide) (by decide)
    (by rintro m ⟨-, hm, -⟩; obtain rfl := hrun m hm; decide)
    (by rintro m m' ⟨-, hm, -⟩ ⟨-, hm', -⟩ -; rw [hrun m hm, hrun m' hm'])
    (by rintro m m' a - ⟨-, hmx, -⟩; exact absurd hmx (by decide))
  obtain ⟨u, e, j, hu, -, -, -, -, -, -, hother, -⟩ := hgo
    (.inr ⟨⟨by decide, .inl rfl⟩, by decide, fun x hx => absurd hx (Nat.not_lt_zero x)⟩)
    ⟨by rintro m ⟨-, hm, -⟩; obtain rfl := hrun m hm; exact ⟨by decide, fun hg => absurd hg (by decide)⟩,
      by rintro m a ⟨-, hmx, -⟩; exact absurd hmx (by decide)⟩
  have hsame : u.hbm = [] := hother
  have hlisted : hbmAfter (awayReceive.deliver 0 oneByte payloadOne 0) = 1 := by decide
  rw [hu] at hlisted
  exact absurd (hlisted.symm.trans (congrArg List.length hsame)) (by decide)

end Sys2Proof.Proofs.Delivery
end

section
/-! PROOFS. A fence of scope core that is released on a core whose contexts are not listed in order (R230). -/

namespace Sys2Proof.Proofs.Fences

open Sys2Proof.Machine
open Sys2Proof.Safety

/-! ### What may have been injected when a fence is released (O45) -/

/-- Core 0 lists context 3 behind context 5; it waits in a `FENCE.core` with one store in its queue. -/
def outOfOrder : State :=
  { State.reset with
    cores := [(0, { ctxs := [(5, {}), (3, {
      prog := { hold := some (.fence 0) }
      accs := [{ id := 1, kind := .stg 4 0, isSt := true }] })] })]
    target := { unit := 3 } }

/-- How many accesses the first store of context 3 stands behind. -/
def aheadOf : Out → Nat
  | .next u => ((u.ctx 0 3).accs.map (fun a => a.ahead.length)).sum
  | _ => 0

/-- Refutes O45: a released `FENCE.core` reads what may have been injected from the state in which its hold has ended, where the context
stands in its place and a second time behind context 5; the statement reads it from the state before. -/
theorem not_endsAndWaits : ¬ Obligations.EndsAndWaits := by
  unfold Obligations.EndsAndWaits
  rintro ⟨-, h⟩
  obtain ⟨hfence, -⟩ := h outOfOrder 0 3 rfl rfl (by decide)
  obtain ⟨v, hv, hafter⟩ := ((hfence 0 rfl).1 (by decide)).2 rfl
  have hone : aheadOf (.next v) = 1 :=
    (congrArg (fun t : Ctx => (t.accs.map (fun a => a.ahead.length)).sum) (hafter.ctxs 0 3) :).trans (by decide)
  have htwo : aheadOf (exec .waitRelease outOfOrder) = 2 := by decide
  rw [hv, hone] at htwo
  exact absurd htwo (by decide)

end Sys2Proof.Proofs.Fences
end

section
/-! PROOFS. A queued access completes (R225, R244, R337): the context once it has, its flags, and the instruction that it held. -/

namespace Sys2Proof.Proofs.Accesses

open Sys2Proof.Machine
open Sys2Proof.Safety
open Sys2Proof.Proofs.Transfers
open Sys2Proof.Proofs.Tokens
open Sys2Proof.Proofs.Traps

/-! ### The context of a completed access -/

/-- A queue with an access in the place of those of its number. -/
def replaced (l : List Acc) (a : Acc) : List Acc := l.map (fun b => if b.id = a.id then a else b)

/-- The access once it is complete. -/
def complete (a : Acc) : Acc := { a with performed := true, done := true }

/-- What its group still waits for once the access is complete. -/
def restOf (t : Ctx) (a : Acc) : List Acc := (replaced t.accs (complete a)).filter (fun b => b.group == a.group && !b.done)

/-- The context once an access has completed, the retirement of an instruction that the group holds apart. -/
def completed (t : Ctx) (a : Acc) (f : Flags) : Ctx :=
  let u : Ctx := { t with accs := replaced t.accs (complete a) }
  let fl := a.flags ||| f
  match (restOf t a).find? (fun b => !b.isLineWrite) with
  | some b => { u with accs := replaced u.accs { b with flags := b.flags ||| fl } }
  | none =>
    let v : Ctx := if a.isLineWrite then u else { u with fsr := fl.orInto u.fsr }
    match restOf t a with
    | b :: _ => { v with accs := replaced v.accs { b with flags := fl } }
    | [] => { v with accs := v.accs.dropWhile (fun b => b.done) }

theorem setAcc_eq (s : State) (c x : Nat) (a : Acc) :
    s.setAcc c x a = s.setCtx c x { s.ctx c x with accs := replaced (s.ctx c x).accs a } := rfl

theorem finishAcc_eq (s : State) (c x : Nat) (a : Acc) (f : Flags) :
    s.finishAcc c x a f = if restOf (s.ctx c x) a = [] ∧ (s.ctx c x).prog.hold = some (.adj a.group)
      then (s.setCtx c x (completed (s.ctx c x) a f)).adjRetire c x (a.flags ||| f)
      else s.setCtx c x (completed (s.ctx c x) a f) := by
  have h1 : (s.setAcc c x { a with performed := true, done := true }).ctx c x =
      { s.ctx c x with accs := replaced (s.ctx c x).accs (complete a) } := State.ctx_setCtx_self ..
  have hr : ((s.setAcc c x { a with performed := true, done := true }).ctx c x).accs.filter (fun b => b.group == a.group && !b.done) =
      restOf (s.ctx c x) a := by rw [h1]; rfl
  unfold State.finishAcc completed
  simp only [hr]
  cases hf : (restOf (s.ctx c x) a).find? (fun b => !b.isLineWrite) with
  | some b =>
    have hne : restOf (s.ctx c x) a ≠ [] := fun h => by rw [h] at hf; cases hf
    simp only [hne, false_and, if_false]
    rw [setAcc_eq _ c x { b with flags := _ }, h1, setAcc_eq, setCtx_setCtx]
  | none =>
    cases hl : restOf (s.ctx c x) a with
    | cons b r =>
      simp only [reduceCtorEq, false_and, if_false]
      cases a.isLineWrite <;>
        simp only [if_true, if_false, Bool.false_eq_true, setAcc_eq, setCtx_setCtx, State.ctx_setCtx_self] <;> rfl
    | nil =>
      simp only [true_and]
      cases a.isLineWrite <;>
        simp only [if_true, if_false, Bool.false_eq_true, setAcc_eq, State.freeAccs, setCtx_setCtx, State.ctx_setCtx_self] <;> rfl

theorem finishAcc_unheld {s : State} {c x : Nat} {a : Acc} (h : (s.ctx c x).prog.hold ≠ some (.adj a.group)) (f : Flags) :
    s.finishAcc c x a f = s.setCtx c x (completed (s.ctx c x) a f) := by
  rw [finishAcc_eq, if_neg fun k => h k.2]

section Completed

variable (t : Ctx) (a : Acc) (f : Flags)

theorem completed_cases : ∃ l, completed t a f = { t with accs := l } ∨ completed t a f = { t with accs := l, fsr := (a.flags ||| f).orInto t.fsr } := by
  unfold completed
  cases (restOf t a).find? (fun b => !b.isLineWrite) with
  | some b => exact ⟨_, .inl rfl⟩
  | none =>
    cases restOf t a <;> cases a.isLineWrite
    · exact ⟨_, .inr rfl⟩
    · exact ⟨_, .inl rfl⟩
    · exact ⟨_, .inr rfl⟩
    · exact ⟨_, .inl rfl⟩

/-- Only the queues and `fsr` of the context change. -/
theorem completed_rest : { completed t a f with accs := t.accs, fsr := t.fsr } = t := by
  obtain ⟨l, h | h⟩ := completed_cases t a f <;> rw [h]

theorem completed_prog : (completed t a f).prog = t.prog := (congrArg Ctx.prog (completed_rest t a f) :)
theorem completed_async : (completed t a f).async = t.async := (congrArg Ctx.async (completed_rest t a f) :)

theorem id_of_mem_replaced {l : List Acc} {b : Acc} (h : b ∈ replaced l a) (hb : b.id = a.id) : b = a := by
  obtain ⟨e, -, he⟩ := List.mem_map.1 h
  split at he
  · exact he.symm
  · next hne => rw [← he] at hb; exact absurd hb hne

theorem mem_replaced_ne {l : List Acc} {b : Acc} (h : b ∈ l) (hb : b.id ≠ a.id) : b ∈ replaced l a :=
  List.mem_map.2 ⟨b, h, if_neg hb⟩

theorem mem_replaced_self {l : List Acc} (h : ∃ b ∈ l, b.id = a.id) : a ∈ replaced l a := by
  obtain ⟨b, hb, hid⟩ := h
  exact List.mem_map.2 ⟨b, hb, if_pos hid⟩

/-- What the group still waits for is not complete, nor is it the access itself. -/
theorem of_mem_restOf {b : Acc} (h : b ∈ restOf t a) : b ∈ replaced t.accs (complete a) ∧ b.group = a.group ∧ b.done = false ∧ b.id ≠ a.id := by
  obtain ⟨hm, hb⟩ := List.mem_filter.1 h
  rw [Bool.and_eq_true, beq_iff_eq, Bool.not_eq_true'] at hb
  refine ⟨hm, hb.1, hb.2, fun hid => ?_⟩
  rw [id_of_mem_replaced (complete a) hm hid] at hb
  exact absurd hb.2 (fun h : true = false => Bool.noConfusion h)

/-- The queues: another access of the group takes the flags, or the entries complete at the head are freed. -/
theorem completed_accs :
    (∃ y ∈ restOf t a, ∃ g, (completed t a f).accs = replaced (replaced t.accs (complete a)) { y with flags := g }) ∨
      restOf t a = [] ∧ (completed t a f).accs = (replaced t.accs (complete a)).dropWhile (fun b => b.done) := by
  unfold completed
  cases hf : (restOf t a).find? (fun b => !b.isLineWrite) with
  | some y => exact .inl ⟨y, List.mem_of_find?_eq_some hf, _, rfl⟩
  | none =>
    cases restOf t a with
    | cons y r => exact .inl ⟨y, List.mem_cons_self, a.flags ||| f, by cases a.isLineWrite <;> rfl⟩
    | nil => exact .inr ⟨rfl, by cases a.isLineWrite <;> rfl⟩

/-- Every access of the number is complete. -/
theorem completed_done {b : Acc} (h : b ∈ (completed t a f).accs) (hb : b.id = a.id) : b.done = true ∧ b.performed = true := by
  have hfirst : ∀ e, e ∈ replaced t.accs (complete a) → e.id = a.id → e.done = true ∧ e.performed = true := fun e he hid => by
    rw [id_of_mem_replaced (complete a) he hid]; exact ⟨rfl, rfl⟩
  obtain ⟨y, hy, g, ha⟩ | ⟨-, ha⟩ := completed_accs t a f <;> rw [ha] at h
  · obtain ⟨z, hz, hze⟩ := List.mem_map.1 h
    split at hze
    · exact absurd (by rw [← hb, ← hze]) (of_mem_restOf t a hy).2.2.2
    · exact hfirst b (hze ▸ hz) hb
  · exact hfirst b ((List.dropWhile_sublist _).mem h) hb

/-- The last action of a group brings the group's flags into `fsr`. -/
theorem completed_fsr (h : restOf t a = []) (hl : a.isLineWrite = false) : (completed t a f).fsr = (a.flags ||| f).orInto t.fsr := by
  unfold completed
  rw [h]
  simp only [List.find?_nil, hl]
  rfl

theorem restOf_nil (h : ∀ b, b ∈ t.accs → b.group = a.group → b.id ≠ a.id → b.done = true) : restOf t a = [] := by
  refine List.eq_nil_iff_forall_not_mem.2 fun b hb => ?_
  obtain ⟨hm, hg, hd, hid⟩ := of_mem_restOf t a hb
  obtain ⟨e, he, heq⟩ := List.mem_map.1 hm
  split at heq
  · exact hid (by rw [← heq]; rfl)
  · rw [heq] at he
    rw [h b he hg hid] at hd
    cases hd

end Completed

/-! ### The instruction that a group held (R337) -/

/-- What taking a trap comes to: the context changes, its queues apart, or the thread is disposed of. -/
theorem enterTrap_cases {P : State → Prop} {u : State} {c x : Nat} {r : TrapReq} (hd : P (u.dispose c x r))
    (hs : ∀ (t : Ctx) (n : Nat), t.accs = (u.ctx c x).accs → P { u.setCtx c x t with draws := n })
    (hb : ∀ (t : Ctx) (n : Nat), t.accs = (u.ctx c x).accs → P { (u.setCtx c x t).dispose c x r with draws := n }) :
    P (u.enterTrap c x r) := by
  unfold State.enterTrap
  dsimp only
  split
  · exact hd
  split
  · exact hs _ u.draws rfl
  split
  · exact hs _ (u.draws + 1) rfl
  · exact hb _ _ rfl

/-- A trap of a thread leaves the bytes and the thread's queues. -/
theorem raise_keeps (s : State) (c x : Nat) (r : TrapReq) :
    BytesSame s (s.raise (.thread c x) r) ∧ ((s.raise (.thread c x) r).ctx c x).accs = (s.ctx c x).accs := by
  have hset : ∀ {u : State} (t : Ctx), BytesSame s u → t.accs = (s.ctx c x).accs →
      BytesSame s (u.setCtx c x t) ∧ ((u.setCtx c x t).ctx c x).accs = (s.ctx c x).accs := fun {u} t hu ht =>
    ⟨bytesSame_trans hu (bytesSame_setCtx ..), by rw [State.ctx_setCtx_self]; exact ht⟩
  have hdis : ∀ {u : State}, BytesSame s u → (u.ctx c x).accs = (s.ctx c x).accs →
      BytesSame s (u.dispose c x r) ∧ ((u.dispose c x r).ctx c x).accs = (s.ctx c x).accs := fun {u} hu ha => by
    refine ⟨bytesSame_trans hu (dispose_bytes u c x r), ?_⟩
    rw [dispose_ctx, State.ctx_setCtx_self]
    exact ha
  have hdraws : ∀ {u : State} (n : Nat), BytesSame s u ∧ (u.ctx c x).accs = (s.ctx c x).accs →
      BytesSame s { u with draws := n } ∧ (({ u with draws := n } : State).ctx c x).accs = (s.ctx c x).accs := fun _ h =>
    ⟨⟨h.1.hbm, h.1.host, h.1.spad, h.1.scale⟩, h.2⟩
  have h0 := hset (u := s) (standing (s.ctx c x) r) ⟨fun _ => rfl, fun _ => rfl, fun _ _ => rfl, fun _ _ => rfl⟩ rfl
  rw [State.raise, setProg_standing, State.tryTrap]
  split
  · exact h0
  split
  · next r' hr _ =>
    obtain rfl : r = r' := by
      have h := (congrArg (fun t : Ctx => t.prog.trapping) (State.ctx_setCtx_self s c x (standing (s.ctx c x) r)) :)
      exact Option.some.inj (h.symm.trans hr)
    obtain ⟨hb, ha⟩ := h0
    exact enterTrap_cases (P := fun u => BytesSame s u ∧ (u.ctx c x).accs = (s.ctx c x).accs) (hdis hb ha)
      (fun t n ht => hdraws n (hset t hb (ht.trans ha)))
      (fun t n ht => hdraws n (hdis (hset t hb (ht.trans ha)).1 (hset t hb (ht.trans ha)).2))
  · exact h0

theorem bytesSame_refl (s : State) : BytesSame s s := ⟨fun _ => rfl, fun _ => rfl, fun _ _ => rfl, fun _ _ => rfl⟩

/-- A write of a thread's program, and its count of retired instructions, leave the bytes and the thread's queues. -/
theorem setProg_keeps {s u : State} {c x : Nat} (p : Prog) (h : BytesSame s u ∧ (u.ctx c x).accs = (s.ctx c x).accs) :
    BytesSame s (u.setProg (.thread c x) p) ∧ ((u.setProg (.thread c x) p).ctx c x).accs = (s.ctx c x).accs :=
  ⟨bytesSame_trans h.1 (bytesSame_setCtx u c x _), by
    have hx : (u.setProg (.thread c x) p).ctx c x = { u.ctx c x with prog := p } := State.ctx_setCtx_self ..
    rw [hx]; exact h.2⟩

theorem countRetired_keeps {s u : State} {c x : Nat} (h : BytesSame s u ∧ (u.ctx c x).accs = (s.ctx c x).accs) :
    BytesSame s (u.countRetired (.thread c x)) ∧ ((u.countRetired (.thread c x)).ctx c x).accs = (s.ctx c x).accs :=
  ⟨bytesSame_trans h.1 (bytesSame_setCtx u c x _), by
    have hx : (u.countRetired (.thread c x)).ctx c x = { u.ctx c x with instret := (u.ctx c x).instret + 1 } := State.ctx_setCtx_self ..
    rw [hx]; exact h.2⟩

section Retire

variable (s : State) (c x : Nat) (f : Flags)

/-- The thread goes on. -/
def released : State := s.setProg (.thread c x) { (s.ctx c x).prog with hold := none }

/-- The address after the instruction, and the transfer that is pending there. -/
def afterHeld : Prog := (((released s c x).countRetired (.thread c x)).prog (.thread c x)).advanceTrap (seqNext (s.ctx c x).prog.pc 1)

theorem adjRetire_quiet (h : f.enabled (s.ctx c x).fte = 0) :
    s.adjRetire c x f = finish (.thread c x) (released s c x) 1 (.retire (released s c x)) := by
  unfold State.adjRetire
  exact if_pos h

theorem adjRetire_traps (h : f.enabled (s.ctx c x).fte ≠ 0) :
    s.adjRetire c x f = (((released s c x).countRetired (.thread c x)).setProg (.thread c x) { afterHeld s c x with pend := none }).raise
      (.thread c x) ⟨.fpx, zx64 (f.enabled (s.ctx c x).fte), (afterHeld s c x).pc, (afterHeld s c x).pend⟩ := by
  unfold State.adjRetire
  exact if_neg h

/-- The retirement of the instruction that a group held leaves the bytes and the thread's queues. -/
theorem adjRetire_keeps : BytesSame s (s.adjRetire c x f) ∧ ((s.adjRetire c x f).ctx c x).accs = (s.ctx c x).accs := by
  have h1 := countRetired_keeps (c := c) (x := x) (setProg_keeps { (s.ctx c x).prog with hold := none } ⟨bytesSame_refl s, rfl⟩)
  by_cases h : f.enabled (s.ctx c x).fte = 0
  · rw [adjRetire_quiet s c x f h]
    exact setProg_keeps _ h1
  · rw [adjRetire_traps s c x f h]
    have h2 := setProg_keeps { afterHeld s c x with pend := none } h1
    obtain ⟨hb, ha⟩ := raise_keeps (((released s c x).countRetired (.thread c x)).setProg (.thread c x) { afterHeld s c x with pend := none })
      c x ⟨.fpx, zx64 (f.enabled (s.ctx c x).fte), (afterHeld s c x).pc, (afterHeld s c x).pend⟩
    exact ⟨bytesSame_trans h2.1 hb, ha.trans h2.2⟩

end Retire

theorem finishAcc_keeps (s : State) (c x : Nat) (a : Acc) (f : Flags) :
    BytesSame s (s.finishAcc c x a f) ∧ ((s.finishAcc c x a f).ctx c x).accs = (completed (s.ctx c x) a f).accs := by
  have h : BytesSame s (s.setCtx c x (completed (s.ctx c x) a f)) ∧
      ((s.setCtx c x (completed (s.ctx c x) a f)).ctx c x).accs = (completed (s.ctx c x) a f).accs :=
    ⟨bytesSame_setCtx .., by rw [State.ctx_setCtx_self]⟩
  rw [finishAcc_eq]
  split
  · obtain ⟨hb, ha⟩ := adjRetire_keeps (s.setCtx c x (completed (s.ctx c x) a f)) c x (a.flags ||| f)
    exact ⟨bytesSame_trans h.1 hb, ha.trans h.2⟩
  · exact h

/-- Every access of the number is complete then. -/
theorem finishAcc_done (s : State) (c x : Nat) (a : Acc) (f : Flags) {b : Acc} (h : b ∈ ((s.finishAcc c x a f).ctx c x).accs)
    (hb : b.id = a.id) : b.done = true ∧ b.performed = true :=
  completed_done (s.ctx c x) a f ((finishAcc_keeps s c x a f).2 ▸ h) hb

/-! ### A register is filled (R12) -/

theorem fillReg_eq (s : State) (c x reg : Nat) (v : DWord) :
    s.fillReg c x reg v = s.setCtx c x { s.ctx c x with prog := (s.ctx c x).prog.fillS reg v } := rfl

theorem getS_fillS_ne {p : Prog} {reg r : Nat} (v : DWord) (h : r ≠ reg) : (p.fillS reg v).getS r = p.getS r := by
  unfold Prog.fillS Prog.setS Prog.getS
  by_cases hz : reg = 0
  · rw [if_pos hz]
  · rw [if_neg hz]
    by_cases hr : r = 0
    · rw [if_pos hr, if_pos hr]
    · rw [if_neg hr, if_neg hr]
      exact SMap.get_set_of_ne _ _ h _

theorem hold_fillS (p : Prog) (reg : Nat) (v : DWord) : (p.fillS reg v).hold = p.hold := by
  unfold Prog.fillS Prog.setS
  split <;> rfl

end Sys2Proof.Proofs.Accesses
end

section
/-! PROOFS. Scrubs and uncorrectable errors (R364, R365): the places that an error meets, and the instruction, command, access, walk or
packet that reads it. -/

namespace Sys2Proof.Proofs.SoftErrors

open Sys2Proof.Machine
open Sys2Proof.Safety
open Sys2Proof.Proofs.Transfers
open Sys2Proof.Proofs.Tokens
open Sys2Proof.Proofs.Traps
open Sys2Proof.Proofs.Groups
open Sys2Proof.Proofs.Streams
open Sys2Proof.Proofs.HostProtocol
open Sys2Proof.Proofs.Loader
open Sys2Proof.Proofs.Accesses

theorem exec_scrub (s : State) : exec .scrub s = .next s := rfl

theorem exec_uncorrectableError (s : State) : exec .uncorrectableError s = execUncorrectableError s := rfl

/-! ### The next instruction of a program (R35, R365) -/

section Instruction

variable {s u : State} {q : Seqr} {v c x : Nat} {reg : Bool}

theorem code_lt (k : Cause) : k.code < 2 ^ 64 := by cases k <;> decide

theorem step_readError {l : List Turn} (h : s.agenda = .readError q v reg :: l) : step s = readError q v reg { s with agenda := l } := by
  simp only [step, h]

/-- A program that may not issue, that has a cause to take, or whose next instruction fails a check does not read. -/
theorem readError_skips (h : s.mayIssue q = false ∨ s.hasAsync q = true ∨ ∃ e w z, s.fetch q (Config.freeWord s.draws) = .bad e w z) :
    readError q v reg s = .next s := by
  unfold readError
  obtain h | h | ⟨e, w, z, h⟩ := h <;> simp [h]

theorem readError_runs {i : Instr} (hm : s.mayIssue q = true) (ha : s.hasAsync q = false) (hf : s.fetch q (Config.freeWord s.draws) = .ok i)
    (he : exec i { s with cur := q, stalled := false } = .next u) :
    readError q v reg s = .next (({ s with cur := q, stalled := false } : State).eccuAfter q v reg u) := by
  unfold readError
  simp only [hm, ha, hf, he, Bool.not_false, Bool.and_self, if_true]

theorem eccuAfter_stalls (h : u.stalled = true) : s.eccuAfter q v reg u = s := by
  unfold State.eccuAfter
  simp [h]

theorem eccuAfter_traps {n : Nat} (ht : s.trapSeen u q = some n)
    (hn : (if reg then [Cause.illslot, .empty] else [.illslot, .empty, .align, .spbound]).any (fun f => f.code == n) = true) :
    s.eccuAfter q v reg u = s := by
  unfold State.eccuAfter
  simp only [ht]
  exact if_pos (by rw [hn]; simp)

theorem eccuAfter_guardedOff (h : s.guardedOff u q v reg = true) : s.eccuAfter q v reg u = s := by
  unfold State.eccuAfter
  exact if_pos (by rw [h]; simp)

theorem eccuAfter_reads (hs : u.stalled = false) (ht : s.trapSeen u q = none) (hg : s.guardedOff u q v reg = false) :
    s.eccuAfter q v reg u = s.raise q ⟨.eccu, BitVec.ofNat 64 v, s.pcOf q, (s.prog q).pend⟩ := by
  unfold State.eccuAfter
  simp only [ht]
  exact if_neg (by rw [hs, hg]; simp)

theorem trapSeen_stands {r : TrapReq} (h : (u.ctx c x).prog.trapping = some r) : s.trapSeen u (.thread c x) = some r.cause.code := by
  have h' : (u.prog (.thread c x)).trapping = some r := h
  simp only [State.trapSeen, h']

theorem trapSeen_ends {r : TrapReq} {n : Nat} (h : (u.ctx c x).prog.trapping = none)
    (hh : (u.ctx c x).prog.hold = some (.halting n (some r))) : s.trapSeen u (.thread c x) = some r.cause.code := by
  have h' : (u.prog (.thread c x)).trapping = none := h
  simp only [State.trapSeen, h', Seqr.core, State.ownerCtx, hh]

theorem trapSeen_goesOn (h : (u.ctx c x).prog.trapping = none) (hh : ∀ e y, (u.ctx c x).prog.hold ≠ some (.halting e y)) :
    s.trapSeen u (.thread c x) =
      if !(s.ctx c x).modeM && !(s.ctx c x).modeH && (u.ctx c x).modeH then some (u.ctx c x).tcause.toNat else none := by
  have h' : (u.prog (.thread c x)).trapping = none := h
  simp only [State.trapSeen, h', Seqr.core, State.ownerCtx]
  split
  · next e y he => exact absurd he (hh e (some y))
  · rfl

/-- A precise trap of a thread is seen however it is disposed of: while it stands, reflected, or at the thread's end. -/
theorem trapSeen_raise {r : TrapReq} (hp : r.cause ≠ .preempt) (ht : r.cause ≠ .timer) :
    s.trapSeen (s.raise (.thread c x) r) (.thread c x) = some r.cause.code := by
  have hx : (s.setCtx c x (standing (s.ctx c x) r)).ctx c x = standing (s.ctx c x) r := State.ctx_setCtx_self ..
  by_cases hd : s.drained (.thread c x) = true
  · by_cases h : (s.ctx c x).modeM = true ∨ (s.ctx c x).modeH = true ∨ (s.ctx c x).tvec = 0 ∨ r.cause.reflects = false ∨
      s.entryOk (.thread c x) (s.ctx c x).tvec = false
    · -- the thread ends
      obtain ⟨w, hw⟩ : ∃ w : State, (((s.raise (.thread c x) r).ctx c x) = disposed (w.ctx c x) r) := by
        rw [raise_of_drained hd]
        unfold State.enterTrap
        dsimp only
        rw [hx]
        cases hM : (standing (s.ctx c x) r).modeM with
        | true => exact ⟨_, (congrArg (fun u : State => u.ctx c x) (if_pos rfl)).trans ((dispose_ctx ..).trans (State.ctx_setCtx_self ..))⟩
        | false =>
          refine ⟨(s.setCtx c x (standing (s.ctx c x) r)).setCtx c x ((standing (s.ctx c x) r).enterM r), ?_⟩
          rw [if_neg (by decide), if_neg, if_neg]
          · exact (dispose_ctx ..).trans (State.ctx_setCtx_self ..)
          · rintro ⟨h1 | h1, -⟩
            · exact hp h1
            · exact ht h1
          · rw [entryOk_setCtx (s := s) (c := c) (x := x) (t := standing (s.ctx c x) r) rfl]
            have hM' : (s.ctx c x).modeM = false := hM
            show ¬ (r.cause.reflects && !(s.ctx c x).modeH && (s.ctx c x).tvec != 0 && s.entryOk (.thread c x) (s.ctx c x).tvec) = true
            rcases h with h | h | h | h | h
            · rw [hM'] at h; cases h
            all_goals simp [h]
      exact trapSeen_ends (n := 0) (by rw [hw]; rfl) (by rw [hw]; rfl)
    · -- its handler takes the trap
      simp only [not_or, Bool.not_eq_true, Bool.not_eq_false] at h
      obtain ⟨hM, hH, hv, hr, he⟩ := h
      have hR := raise_reflects (s := s) (c := c) (x := x) ⟨hM, hH, hv, he, hd⟩ hr
      obtain ⟨-, -, hfree, -, hhold⟩ := hR.fetch
      rw [trapSeen_goesOn hfree (by rw [hhold]; simp), hM, hH, hR.level.2.1, hR.tcause, BitVec.toNat_ofNat, Nat.mod_eq_of_lt (code_lt _)]
      rfl
  · refine trapSeen_stands (r := r) ?_
    rw [State.raise, setProg_standing, State.tryTrap]
    have hpt : ((s.setCtx c x (standing (s.ctx c x) r)).prog (.thread c x)).trapping = some r :=
      (congrArg (fun t : Ctx => t.prog.trapping) hx)
    rw [hpt]
    have hd' : ((s.setCtx c x (standing (s.ctx c x) r)).drained (.thread c x)) = false := by
      rw [← setProg_standing, drained_setCtx_prog]
      · simpa using hd
      · rfl
    simp only [hd', Bool.false_eq_true, if_false, hx]
    rfl

/-- What the statement says of an instruction that reads what is damaged. -/
theorem readError_outcomes {i : Instr} (hm : s.mayIssue q = true) (ha : s.hasAsync q = false)
    (hf : s.fetch q (Config.freeWord s.draws) = .ok i) :
    let s2 : State := { s with cur := q, stalled := false }
    let p := s.prog q
    let lw := LW.ofWord (s2.iword q (p.pc.toNat + 4))
    (Stalls i s2 → readError q v reg s = .next s2) ∧
    (∀ c x e w, q = .thread c x → Traps i s2 e w → e = .illslot ∨ e = .empty ∨ reg = false ∧ (e = .align ∨ e = .spbound) →
      readError q v reg s = .next s2) ∧
    (lw.g = true → guardHolds lw (s2.getS q lw.greg) = false → (reg = true → v ≠ lw.greg.toNat) →
      exec i s2 = .next (finish q s2 2 (.retire s2)) → readError q v reg s = .next s2) ∧
    (∀ u c x, q = .thread c x → exec i s2 = .next u → lw.g = false → u.stalled = false → (u.prog q).trapping = none →
      (∀ e y, (u.prog q).hold ≠ some (.halting e y)) → (u.ctx c x).modeH = (s.ctx c x).modeH →
      readError q v reg s = .next (s2.raise q ⟨.eccu, BitVec.ofNat 64 v, p.pc, p.pend⟩)) := by
  intro s2 p lw
  refine ⟨fun hs => ?_, fun c x e w hq ht he => ?_, fun hg hoff hv hx => ?_, fun u c x hq hx hg hs ht hh hH => ?_⟩
  · rw [readError_runs hm ha hf hs]
    exact congrArg _ (eccuAfter_stalls rfl)
  · subst hq
    rw [readError_runs hm ha hf ht]
    have hne : e ≠ .preempt ∧ e ≠ .timer := by
      rcases he with rfl | rfl | ⟨-, rfl | rfl⟩ <;> exact ⟨by decide, by decide⟩
    refine congrArg _ (eccuAfter_traps (trapSeen_raise (s := s2) hne.1 hne.2) ?_)
    rcases he with rfl | rfl | ⟨rfl, rfl | rfl⟩
    · cases reg <;> rfl
    · cases reg <;> rfl
    · rfl
    · rfl
  · rw [readError_runs hm ha hf hx]
    refine congrArg _ (eccuAfter_guardedOff ?_)
    have hv' : (reg && v == lw.greg.toNat) = false := by
      cases reg with
      | false => rfl
      | true => simpa using hv rfl
    show (lw.g && !guardHolds lw (s2.getS q lw.greg) && !(reg && v == lw.greg.toNat) &&
      (finish q s2 2 (.retire s2) == finish q s2 2 (.retire s2))) = true
    rw [hg, hoff, hv', beq_self_eq_true]
    rfl
  · subst hq
    rw [readError_runs hm ha hf hx]
    refine congrArg _ (eccuAfter_reads hs ?_ ?_)
    · rw [trapSeen_goesOn ht hh, hH]
      show (if !(s.ctx c x).modeM && !(s.ctx c x).modeH && (s.ctx c x).modeH then _ else none) = none
      cases (s.ctx c x).modeH <;> simp
    · show (lw.g && !guardHolds lw (s2.getS (.thread c x) lw.greg) && !(reg && v == lw.greg.toNat) && _) = false
      rw [hg]
      rfl

end Instruction

/-! ### The places (R365) -/

section Places

variable {s : State} {c x n : Nat} {line : Prop}

/-- An error in what an instruction reads waits at the head of the agenda. -/
theorem eccu_meets {q : Seqr} (hq : match (motive := Seqr → Prop) q with
      | .thread c x => s.target.reader = .thread c x
      | .vec c k => s.target.reader = .vec c k
      | .arc c => s.target.reader = .arc c) :
    (∀ d a, s.target.place = .spad d a → execUncorrectableError s = .next { s with agenda := .readError q a false :: s.agenda }) ∧
    (∀ d n, s.target.place = .tagTable d n → execUncorrectableError s = .next { s with agenda := .readError q n false :: s.agenda }) ∧
    ∀ cls n, s.target.place = .register cls n →
      execUncorrectableError s = .next { s with agenda := .readError q (cls * 2 ^ 16 + n) true :: s.agenda } := by
  have hr : seqrOfReader s.target.reader = some q ∧ ∀ u : State, u.eccuItem s.target.reader = u := by
    cases q <;> (have hq' := hq; dsimp only at hq'; rw [hq']; exact ⟨rfl, fun _ => rfl⟩)
  have hat : ∀ v reg, s.eccuAt s.target.reader v reg = { s with agenda := .readError q v reg :: s.agenda } := fun v reg => by
    simp only [State.eccuAt, hr.1]
  refine ⟨fun d a hp => ?_, fun d n hp => ?_, fun cls n hp => ?_⟩ <;> simp only [execUncorrectableError, hp, hat, hr.2]

/-- Where a running command, a queued access or a walk reads. -/
def Reads (s : State) : Prop :=
  ∃ d a, s.target.place = .spad d a ∨ s.target.place = .tile d a ∨ s.target.place = .scale d a ∨ s.target.place = .hbm a ∨
    s.target.place = .slice a

theorem eccu_item (hr : s.target.reader = .item c n) (hp : Reads s) :
    execUncorrectableError s = .next (s.eccuItem (.item c n)) := by
  obtain ⟨d, a, h | h | h | h | h⟩ := hp <;> simp only [execUncorrectableError, h, hr] <;> rfl

theorem eccu_access (hr : s.target.reader = .access c x n) (hp : ∃ e, s.target.place = .hbm e ∨ s.target.place = .slice e) :
    execUncorrectableError s = .next (s.eccuAccess (.access c x n)) := by
  obtain ⟨e, h | h⟩ := hp <;> simp only [execUncorrectableError, h, hr] <;> rfl

theorem eccu_walk (hr : s.target.reader = .thread c x) (hp : ∃ e, s.target.place = .hbm e ∨ s.target.place = .slice e) :
    execUncorrectableError s = .next (s.eccuWalk (.thread c x) s.target.value) := by
  obtain ⟨e, h | h⟩ := hp <;> simp only [execUncorrectableError, h, hr] <;> rfl

end Places

/-! ### A running command (R319, R325) -/

section Command

variable {s : State} {c n : Nat} {i : Item}

theorem staysPosted_iff (h : i.running = true) : i.staysPosted = true ↔ (∃ f, i.kind = .flowRecv f) ∨ i.kind = .msgPost ∧ i.posted = true := by
  unfold Item.staysPosted Item.posting
  cases hk : i.kind <;> simp [ItemKind.holdsEngine, h]

theorem chunkFail_or (o : Option Cause) : o.or (some .eccu) = some (o.getD .eccu) := by cases o <;> rfl

/-- A chunk of the command fails. -/
def chunkFailed (i : Item) : Item := { i with chunkFail := some (i.chunkFail.getD .eccu) }

variable (hi : s.item c n = some i) (hr : i.running = true) (hf : i.finished = false) (hn : i.failing = none)

include hi hr hf hn

theorem eccuItem_fails (hp : ¬ ((∃ f, i.kind = .flowRecv f) ∨ i.kind = .msgPost ∧ i.posted = true)) :
    s.eccuItem (.item c n) = s.setItem c { i with failing := some .eccu } := by
  have hp' : i.staysPosted = false := by rw [← Bool.not_eq_true, staysPosted_iff hr]; exact hp
  simp [State.eccuItem, hi, hr, hf, hn, hp', State.failItem]

theorem eccuItem_chunk (hp : (∃ f, i.kind = .flowRecv f) ∨ i.kind = .msgPost ∧ i.posted = true) :
    s.eccuItem (.item c n) = (s.setItem c (chunkFailed i)).noteDelivery c i .eccu := by
  have hp' : i.staysPosted = true := (staysPosted_iff hr).2 hp
  simp [State.eccuItem, hi, hr, hf, hn, hp', chunkFail_or, chunkFailed]

omit hr hf hn in
theorem item_setItem {j : Item} (hj : j.seq = i.seq) : ((s.setItem c j).core c).item i.seq = some j := by
  have hmem : ∃ k ∈ (s.core c).items, k.seq = i.seq := ⟨i, List.mem_of_find?_eq_some hi, rfl⟩
  rw [State.setItem, State.core_setCore_self]
  show ((s.core c).items.map (fun k => if k.seq = j.seq then j else k)).find? (fun k => k.seq == i.seq) = some j
  rw [hj]
  generalize (s.core c).items = l at hmem
  induction l with
  | nil => obtain ⟨k, hk, -⟩ := hmem; cases hk
  | cons k l ih =>
    rw [List.map_cons]
    by_cases hk : k.seq = i.seq
    · rw [if_pos hk, List.find?_cons_of_pos (by simpa using hj)]
    · rw [if_neg hk, List.find?_cons_of_neg (by simpa using hk)]
      refine ih ?_
      obtain ⟨m, hm, he⟩ := hmem
      rcases List.mem_cons.1 hm with rfl | hm
      · exact absurd he hk
      · exact ⟨m, hm, he⟩

/-- The error's effect on a command of the statement. -/
theorem eccuItem_outcomes :
    (¬ (∃ f, i.kind = .flowRecv f) → ¬ (i.kind = .msgPost ∧ i.posted = true) →
      s.eccuItem (.item c n) = s.setItem c { i with failing := some .eccu }) ∧
    (i.kind = .msgPost → i.posted = true → s.eccuItem (.item c n) = s.setItem c (chunkFailed i)) ∧
    ∀ f, i.kind = .flowRecv f → (s.flow f = none → s.eccuItem (.item c n) = s.setItem c (chunkFailed i)) ∧
      ∀ r, s.flow f = some r → ∃ r1, BytesSame s (s.eccuItem (.item c n)) ∧ ((s.eccuItem (.item c n)).core c).item i.seq = some (chunkFailed i) ∧
        (s.eccuItem (.item c n)).flow f = some r1 ∧ r1.entries = r.entries ∧ (SMap.get (0, 0) r1.stats (s.landOf c)).1 = Cause.eccu.code := by
  refine ⟨fun h1 h2 => eccuItem_fails hi hr hf hn (not_or.2 ⟨h1, h2⟩), fun h1 h2 => ?_, fun f hk => ?_⟩
  · rw [eccuItem_chunk hi hr hf hn (.inr ⟨h1, h2⟩)]
    simp only [State.noteDelivery, h1]
  · have hchunk := eccuItem_chunk hi hr hf hn (.inl ⟨f, hk⟩)
    refine ⟨fun hz => ?_, fun r hz => ?_⟩
    · have hz' : (s.setItem c (chunkFailed i)).flow f = none := hz
      rw [hchunk]
      simp only [State.noteDelivery, hk, hz']
    · have hz' : (s.setItem c (chunkFailed i)).flow f = some r := hz
      have he : s.eccuItem (.item c n) = (s.setItem c (chunkFailed i)).setFlow f (r.noteFail (s.landOf c) .eccu) := by
        rw [hchunk]
        simp only [State.noteDelivery, hk, hz']
        rfl
      have hb := bytesSame_setCore (s := s) (c := c) (k := (s.core c).setItem (chunkFailed i)) rfl rfl
      rw [he]
      refine ⟨r.noteFail (s.landOf c) .eccu, ⟨hb.hbm, hb.host, hb.spad, hb.scale⟩, item_setItem hi rfl, ?_, rfl, ?_⟩
      · exact (find?_set ..).trans (if_pos rfl)
      · exact congrArg Prod.fst (SMap.get_set_self ..)

end Command

/-! ### A thread's access and its walks -/

section Access

variable {s u : State} {c x n : Nat} {a : Machine.Acc}

theorem post_ctx (e : AsyncCause) : ((u.post c x e).ctx c x) = awake { u.ctx c x with async := (u.ctx c x).async ++ [e] } := by
  rw [post_eq, State.ctx_setCtx_self]

theorem awake_keeps (t : Ctx) : (awake t).async = t.async ∧ (awake t).accs = t.accs ∧ (∀ r, (awake t).prog.getS r = t.prog.getS r) ∧
    ∀ r, (awake t).prog.isEmptyS r = t.prog.isEmptyS r := by
  unfold awake
  split <;> exact ⟨rfl, rfl, fun _ => rfl, fun _ => rfl⟩

theorem post_bytes (e : AsyncCause) : BytesSame u (u.post c x e) := by
  rw [post_eq]
  exact bytesSame_setCtx ..

/-- The error of an access is pending, and the bytes are as before. -/
theorem post_notes (h : BytesSame s u) (e : AsyncCause) :
    BytesSame s (u.post c x e) ∧ e ∈ ((u.post c x e).ctx c x).async ∧ ((u.post c x e).ctx c x).accs = (u.ctx c x).accs := by
  rw [post_ctx]
  refine ⟨bytesSame_trans h (post_bytes e), ?_, ?_⟩
  · rw [(awake_keeps _).1]
    simp
  · rw [(awake_keeps _).2.1]

theorem bytesSame_fillReg (reg : Nat) (v : DWord) : BytesSame s (s.fillReg c x reg v) := bytesSame_setCtx ..

/-- An access that completes with the error: its number is performed. -/
theorem finished_notes (hu : BytesSame s u) (a : Machine.Acc) (e : AsyncCause) :
    let w := (u.finishAcc c x a 0).post c x e
    BytesSame s w ∧ e ∈ (w.ctx c x).async ∧ ∀ b, b ∈ (w.ctx c x).accs → b.id = a.id → b.performed = true := by
  intro w
  obtain ⟨hb, he, ha⟩ := post_notes (s := s) (c := c) (x := x) (bytesSame_trans hu (finishAcc_keeps u c x a 0).1) e
  exact ⟨hb, he, fun b hm hid => (finishAcc_done u c x a 0 (ha ▸ hm) hid).2⟩

/-- A load or an atomic completes with zero. -/
theorem zeroed_notes {reg : Nat} (h0 : 0 < reg) (h64 : reg < 64) (hh : ∀ g, (s.ctx c x).prog.hold ≠ some (.adj g)) (a : Machine.Acc)
    (e : AsyncCause) :
    let w := ((s.fillReg c x reg 0).finishAcc c x a 0).post c x e
    (w.ctx c x).prog.getS reg = 0 ∧ (w.ctx c x).prog.isEmptyS reg = false := by
  intro w
  have hx : (s.fillReg c x reg 0).ctx c x = { s.ctx c x with prog := (s.ctx c x).prog.fillS reg 0 } := State.ctx_setCtx_self ..
  have hu : (s.fillReg c x reg 0).finishAcc c x a 0 = (s.fillReg c x reg 0).setCtx c x (completed ((s.fillReg c x reg 0).ctx c x) a 0) := by
    refine finishAcc_unheld ?_ 0
    rw [hx]
    show ((s.ctx c x).prog.fillS reg 0).hold ≠ _
    rw [hold_fillS]
    exact hh _
  have hp : (w.ctx c x).prog.getS reg = ((s.ctx c x).prog.fillS reg 0).getS reg ∧
      (w.ctx c x).prog.isEmptyS reg = ((s.ctx c x).prog.fillS reg 0).isEmptyS reg := by
    show (((((s.fillReg c x reg 0).finishAcc c x a 0).post c x e).ctx c x).prog.getS reg = _ ∧ _)
    rw [post_ctx, (awake_keeps _).2.2.1, (awake_keeps _).2.2.2, hu, State.ctx_setCtx_self]
    dsimp only
    rw [completed_prog, hx]
    exact ⟨rfl, rfl⟩
  rw [hp.1, hp.2, (fillS_reads _ 0 h64).1, (fillS_reads _ 0 h64).2, if_neg (by omega)]
  exact ⟨rfl, rfl⟩

/-- The line of an `LDL` comes with zeros. -/
theorem lined_notes (hf : (s.ctx c x).accs.find? (fun a => a.id == n) = some a) {b : Machine.Acc} (hb : b.id = a.id) (e : AsyncCause) :
    let w := (s.setAcc c x b).post c x e
    BytesSame s w ∧ e ∈ (w.ctx c x).async ∧ (w.ctx c x).accs.find? (fun a => a.id == n) = some b := by
  intro w
  have hid : a.id = n := by simpa using List.find?_some hf
  have hx : ((s.setAcc c x b).ctx c x).accs = replaced (s.ctx c x).accs b := by rw [setAcc_eq, State.ctx_setCtx_self]
  obtain ⟨hbytes, he, ha⟩ := post_notes (s := s) (u := s.setAcc c x b) (c := c) (x := x) (bytesSame_setCtx ..) e
  refine ⟨hbytes, he, ?_⟩
  rw [ha, hx]
  generalize (s.ctx c x).accs = l at hf
  induction l with
  | nil => cases hf
  | cons k l ih =>
    rw [replaced, List.map_cons]
    by_cases hk : k.id = n
    · rw [if_pos (by rw [hb, hid]; exact hk), List.find?_cons_of_pos (by simp [hb, hid])]
    · rw [if_neg (by rw [hb, hid]; exact hk), List.find?_cons_of_neg (by simpa using hk)]
      rw [List.find?_cons_of_neg (by simpa using hk)] at hf
      exact ih hf

variable (hf : (s.ctx c x).accs.find? (fun a => a.id == n) = some a) (hp : a.performed = false)

/-- What the statement says of an access that meets an error. -/
def Pends (s u : State) (c x : Nat) (a : Machine.Acc) : Prop := BytesSame s u ∧ ⟨.eccu, BitVec.ofNat 64 a.va⟩ ∈ (u.ctx c x).async

include hf hp

theorem eccuAccess_loads {reg : Nat} (h0 : 0 < reg) (h64 : reg < 64)
    (hk : (∃ w, a.kind = .ldg reg w) ∨ ∃ fn op v w rm sc ac re, a.kind = .gamo reg fn op v w rm sc ac re)
    (hh : ∀ g, (s.ctx c x).prog.hold ≠ some (.adj g)) :
    Pends s (s.eccuAccess (.access c x n)) c x a ∧ ((s.eccuAccess (.access c x n)).ctx c x).prog.getS reg = 0 ∧
      ((s.eccuAccess (.access c x n)).ctx c x).prog.isEmptyS reg = false := by
  have he : s.eccuAccess (.access c x n) = ((s.fillReg c x reg 0).finishAcc c x a 0).post c x ⟨.eccu, BitVec.ofNat 64 a.va⟩ := by
    obtain ⟨w, hk⟩ | ⟨fn, op, v, w, rm, sc, ac, re, hk⟩ := hk <;> simp [State.eccuAccess, hf, hp, hk]
  obtain ⟨hb, hm, -⟩ := finished_notes (bytesSame_fillReg (s := s) (c := c) (x := x) reg 0) a ⟨.eccu, BitVec.ofNat 64 a.va⟩
  rw [he]
  exact ⟨⟨hb, hm⟩, zeroed_notes h0 h64 hh a _⟩

theorem eccuAccess_line {sp : Nat} (hk : a.kind = .ldl sp) :
    Pends s (s.eccuAccess (.access c x n)) c x a ∧ ((s.eccuAccess (.access c x n)).ctx c x).accs.find? (fun a => a.id == n) =
      some { a with kind := .line sp (List.replicate 128 0), performed := true } := by
  have he : s.eccuAccess (.access c x n) = (s.setAcc c x { a with kind := .line sp (List.replicate 128 0), performed := true }).post c x
      ⟨.eccu, BitVec.ofNat 64 a.va⟩ := by
    simp [State.eccuAccess, hf, hp, hk]
  obtain ⟨hb, hm, hl⟩ := lined_notes hf (b := { a with kind := .line sp (List.replicate 128 0), performed := true }) rfl
    ⟨.eccu, BitVec.ofNat 64 a.va⟩
  rw [he]
  exact ⟨⟨hb, hm⟩, hl⟩

/-- Whatever its kind, a mark and a line apart, the access is performed. -/
theorem eccuAccess_performs (hmark : a.kind ≠ .mark) (hline : ∀ sp d, a.kind ≠ .line sp d) :
    Pends s (s.eccuAccess (.access c x n)) c x a ∧ ∀ b, b ∈ ((s.eccuAccess (.access c x n)).ctx c x).accs → b.id = n → b.performed = true := by
  have hid : a.id = n := by simpa using List.find?_some hf
  have hfin : ∀ u, BytesSame s u → s.eccuAccess (.access c x n) = (u.finishAcc c x a 0).post c x ⟨.eccu, BitVec.ofNat 64 a.va⟩ →
      Pends s (s.eccuAccess (.access c x n)) c x a ∧ ∀ b, b ∈ ((s.eccuAccess (.access c x n)).ctx c x).accs → b.id = n → b.performed = true :=
    fun u hu he => by
      obtain ⟨hb, hm, hd⟩ := finished_notes (c := c) (x := x) hu a ⟨.eccu, BitVec.ofNat 64 a.va⟩
      rw [he, ← hid]
      exact ⟨⟨hb, hm⟩, hd⟩
  cases hk : a.kind with
  | mark => exact absurd hk hmark
  | line sp d => exact absurd hk (hline sp d)
  | ldl sp =>
    obtain ⟨hP, -⟩ := eccuAccess_line hf hp hk
    refine ⟨hP, fun b hb hbid => ?_⟩
    have he : s.eccuAccess (.access c x n) = (s.setAcc c x { a with kind := .line sp (List.replicate 128 0), performed := true }).post c x
        ⟨.eccu, BitVec.ofNat 64 a.va⟩ := by
      simp [State.eccuAccess, hf, hp, hk]
    rw [he, post_ctx, (awake_keeps _).2.1, setAcc_eq, State.ctx_setCtx_self] at hb
    rw [id_of_mem_replaced _ hb (hbid.trans hid.symm)]
  | ldg reg w => exact hfin (s.fillReg c x reg 0) (bytesSame_fillReg reg 0) (by simp [State.eccuAccess, hf, hp, hk])
  | gamo reg => exact hfin (s.fillReg c x reg 0) (bytesSame_fillReg reg 0) (by simp [State.eccuAccess, hf, hp, hk])
  | adjRead sc fmt rm reg => exact hfin (s.fillReg c x reg 0) (bytesSame_fillReg reg 0) (by simp [State.eccuAccess, hf, hp, hk])
  | adjTake sc fmt rm off => exact hfin (s.giveCell c x a fmt 0 off) (bytesSame_setCtx ..) (by simp [State.eccuAccess, hf, hp, hk])
  | restore data reg v => exact hfin (s.fillReg c x reg v) (bytesSame_fillReg reg v) (by simp [State.eccuAccess, hf, hp, hk])
  | adjAdd => exact hfin s (bytesSame_refl s) (by simp [State.eccuAccess, hf, hp, hk])
  | stg => exact hfin s (bytesSame_refl s) (by simp [State.eccuAccess, hf, hp, hk])
  | stl => exact hfin s (bytesSame_refl s) (by simp [State.eccuAccess, hf, hp, hk])
  | restoreLine => exact hfin s (bytesSame_refl s) (by simp [State.eccuAccess, hf, hp, hk])
  | adjClear => exact hfin s (bytesSame_refl s) (by simp [State.eccuAccess, hf, hp, hk])
  | tapeWrite => exact hfin s (bytesSame_refl s) (by simp [State.eccuAccess, hf, hp, hk])

omit hf hp in
/-- A walk of a live thread makes the error pending. -/
theorem eccuWalk_outcomes (va : DWord) : ((s.ctx c x).live = false → s.eccuWalk (.thread c x) va = s) ∧
    ((s.ctx c x).live = true → BytesSame s (s.eccuWalk (.thread c x) va) ∧
      ((s.eccuWalk (.thread c x) va).ctx c x).async = (s.ctx c x).async ++ [⟨.eccu, va⟩]) := by
  refine ⟨fun h => by simp [State.eccuWalk, h], fun h => ?_⟩
  have he : s.eccuWalk (.thread c x) va = s.post c x ⟨.eccu, va⟩ := by simp [State.eccuWalk, h]
  rw [he, post_ctx, (awake_keeps _).1]
  exact ⟨post_bytes _, rfl⟩

end Access

/-! ### A landing's accumulator store (R319) -/

section Landing

variable {s : State} {l f n m k : Nat} {r : FlowRec} {e w : FEntry} {p : Pkt}

/-- The slot lies in the entry's range and holds a packet. -/
def Hit (e : FEntry) (l n : Nat) : Prop :=
  e.land = l ∧ e.src = false ∧ e.aslot ≤ n ∧ n < e.aslot + e.awin ∧ n - e.aslot < e.slots.length

theorem hit_iff : (e.land == l && !e.src && decide (e.aslot ≤ n) && decide (n < e.aslot + e.awin) && decide (n - e.aslot < e.slots.length)) = true ↔
    Hit e l n := by
  simp [Hit, and_assoc]

/-- What a node has formed from the packet and not sent yet. -/
def formedFrom (r : FlowRec) (l n : Nat) (e : FEntry) : Bool :=
  r.entries.any (fun x => (x.land == l && !x.src && decide (x.aslot ≤ n) && decide (n < x.aslot + x.awin) && decide (n - x.aslot < x.slots.length))
    && (primary (r.node x) x).is e.land e.src e.cslot && e.frees.any (fun f => f.1 == x.cslot && decide (n - x.aslot < f.2)))

/-- An entry once the error has met the slot. -/
def damagedEntry (r : FlowRec) (l n : Nat) (e : FEntry) : FEntry :=
  let e1 := if e.land == l && !e.src && decide (e.aslot ≤ n) && decide (n < e.aslot + e.awin) && decide (n - e.aslot < e.slots.length)
    then { e with slots := e.slots.mapIdx (fun i p => if i = n - e.aslot then p.damaged else p) } else e
  if formedFrom r l n e then { e1 with sends := e1.sends.map (fun x => (x.1, x.2.damaged)) } else e1

theorem damage_eq (hm : e ∈ r.entries) (h : Hit e l n) :
    r.damage l n = ({ r with entries := r.entries.map (damagedEntry r l n) } : FlowRec).noteFail l .eccu := by
  unfold FlowRec.damage
  exact if_pos (List.any_eq_true.2 ⟨e, hm, hit_iff.2 h⟩)

theorem slots_damaged (h : Hit e l n) :
    (damagedEntry r l n e).slots = e.slots.mapIdx (fun i p => if i = n - e.aslot then p.damaged else p) := by
  unfold damagedEntry
  rw [if_pos (hit_iff.2 h)]
  split <;> rfl

theorem damaged_eq (p : Pkt) : p.damaged = { p with fail := some (p.fail.getD .eccu) } := by
  unfold Pkt.damaged
  rw [chunkFail_or]

theorem sends_damaged (hm : e ∈ r.entries) (h : Hit e l n) (hw : primary (r.node e) e = w) (hk : (e.cslot, k) ∈ w.frees) (hn : n - e.aslot < k) :
    (damagedEntry r l n w).sends = w.sends.map (fun x => (x.1, x.2.damaged)) := by
  have hf : formedFrom r l n w = true := by
    refine List.any_eq_true.2 ⟨e, hm, ?_⟩
    rw [hit_iff.2 h, hw]
    simp only [FEntry.is, beq_self_eq_true, Bool.and_self, Bool.true_and]
    exact List.any_eq_true.2 ⟨_, hk, by simpa using hn⟩
  unfold damagedEntry
  rw [if_pos hf]
  split <;> rfl

/-- What the statement says of a packet in a slot. -/
theorem landing_damaged (hp : s.target.place = .landing l n) (hr : s.flow f = some r) (he : e ∈ r.entries) (h1 : e.land = l) (h2 : e.src = false)
    (h3 : e.aslot ≤ n) (h4 : n < e.aslot + e.awin) (h5 : e.slots[n - e.aslot]? = some p) :
    ∃ u r1, execUncorrectableError s = .next u ∧ BytesSame s u ∧ u.flow f = some r1 ∧ (SMap.get (0, 0) r1.stats l).1 = Cause.eccu.code ∧
      (∀ m : Nat, r.entries[m]? = some e → ∃ e1, r1.entries[m]? = some e1 ∧ e1.slots.length = e.slots.length ∧
        e1.slots[n - e.aslot]? = some { p with fail := some (p.fail.getD .eccu) } ∧
        ∀ j : Nat, j ≠ n - e.aslot → e1.slots[j]? = e.slots[j]?) ∧
      ∀ (m k : Nat) (w : FEntry), r.entries[m]? = some w → primary (r.node e) e = w → (e.cslot, k) ∈ w.frees → n - e.aslot < k →
        ∃ w1, r1.entries[m]? = some w1 ∧ w1.sends.length = w.sends.length ∧ ∀ y, y ∈ w1.sends → y.2.fail ≠ none := by
  have hit : Hit e l n := ⟨h1, h2, h3, h4, (List.getElem?_eq_some_iff.1 h5).1⟩
  refine ⟨{ s with flows := SMap.mapVals (fun _ x => x.damage l n) s.flows }, r.damage l n, ?_, ⟨fun _ => rfl, fun _ => rfl, fun _ _ => rfl, fun _ _ => rfl⟩,
    ?_, ?_, fun m hm => ?_, fun m k w hm hw hk hn => ?_⟩
  · simp only [execUncorrectableError, hp]
  · have hfind : ∀ fl : SMap FlowRec, (fl.find? (fun e => e.1 == f)).map Prod.snd = some r →
        ((SMap.mapVals (fun _ x => x.damage l n) fl).find? (fun e => e.1 == f)).map Prod.snd = some (r.damage l n) := fun fl => by
      induction fl with
      | nil => exact fun h => by cases h
      | cons a fl ih =>
        intro h
        rw [SMap.mapVals, List.map_cons]
        by_cases ha : a.1 = f
        · rw [List.find?_cons_of_pos (by simpa using ha)] at h ⊢
          cases h
          rfl
        · rw [List.find?_cons_of_neg (by simpa using ha)] at h ⊢
          exact ih h
    exact hfind _ hr
  · rw [damage_eq he hit]
    exact congrArg Prod.fst (SMap.get_set_self ..)
  · rw [damage_eq he hit]
    refine ⟨damagedEntry r l n e, ?_, ?_, ?_, fun j hj => ?_⟩
    · show (r.entries.map (damagedEntry r l n))[m]? = _
      rw [List.getElem?_map, hm]
      rfl
    · rw [slots_damaged hit, List.length_mapIdx]
    · rw [slots_damaged hit, List.getElem?_mapIdx, h5, ← damaged_eq]
      simp
    · rw [slots_damaged hit, List.getElem?_mapIdx]
      simp [hj]
  · rw [damage_eq he hit]
    refine ⟨damagedEntry r l n w, ?_, ?_, fun y hy => ?_⟩
    · show (r.entries.map (damagedEntry r l n))[m]? = _
      rw [List.getElem?_map, hm]
      rfl
    · rw [sends_damaged he hit hw hk hn, List.length_map]
    · rw [sends_damaged he hit hw hk hn] at hy
      obtain ⟨z, -, rfl⟩ := List.mem_map.1 hy
      rw [damaged_eq]
      exact Option.some_ne_none _

end Landing

/-- The translation caches without the entries of a page that no command pins. -/
def droppedFrom (s : State) (pc asid page : Nat) : SMap (List TlbEntry) :=
  SMap.set s.tlbs pc ((SMap.get [] s.tlbs pc).filter (fun e => !(e.asid == asid && e.base == page && e.pins == 0)))

/-- Settles O47: an error at a read waits at the head of the agenda until the instruction's own checks are made; that of a command, an
access, a walk, a translation or a landing's slot has its effect at once. -/
theorem softErrors : Obligations.SoftErrors := by
  unfold Obligations.SoftErrors
  intro s
  refine ⟨exec_scrub s, fun c m a hp => ?_, fun q hq => eccu_meets hq, fun q v reg l hag => ⟨fun h => ?_, fun i hm ha hf => ?_⟩,
    fun c n i hr hi hrun hfin hfail hp => ?_, fun c x n a hr hf hnp hline => ⟨fun reg h0 h64 hk hh => ?_, fun sp hk => ?_, fun hmark hnl => ?_⟩,
    fun c x hr hline => ⟨fun h => ?_, fun h => ?_⟩, fun pc asid page hp => ?_, fun l f n r e p hp hr he h1 h2 h3 h4 h5 =>
      landing_damaged hp hr he h1 h2 h3 h4 h5⟩
  · rw [exec_uncorrectableError]
    simp only [execUncorrectableError, hp]
  · rw [step_readError hag]
    exact readError_skips h
  · rw [step_readError hag]
    exact readError_outcomes (s := { s with agenda := l }) hm ha hf
  · have he : exec .uncorrectableError s = .next (s.eccuItem (.item c n)) := eccu_item hr hp
    obtain ⟨ho, hc, hd⟩ := eccuItem_outcomes hi hrun hfin hfail
    refine ⟨fun h1 h2 => he.trans (congrArg _ (ho h1 h2)), fun h1 h2 => he.trans (congrArg _ (hc h1 h2)), fun f hk =>
      ⟨fun hz => he.trans (congrArg _ ((hd f hk).1 hz)), fun r hz => ?_⟩⟩
    obtain ⟨r1, hrest⟩ := (hd f hk).2 r hz
    exact ⟨_, r1, he, hrest⟩
  · obtain ⟨hP, hz⟩ := eccuAccess_loads hf hnp h0 h64 hk hh
    exact ⟨_, ⟨eccu_access hr hline, hP⟩, hz⟩
  · obtain ⟨hP, hz⟩ := eccuAccess_line hf hnp hk
    exact ⟨_, ⟨eccu_access hr hline, hP⟩, hz⟩
  · obtain ⟨hP, hz⟩ := eccuAccess_performs hf hnp hmark hnl
    exact ⟨_, ⟨eccu_access hr hline, hP⟩, hz⟩
  · exact (eccu_walk hr hline).trans (congrArg _ ((eccuWalk_outcomes s.target.value).1 h))
  · exact ⟨_, eccu_walk hr hline, (eccuWalk_outcomes s.target.value).2 h⟩
  · have he : exec .uncorrectableError s = .next { s with tlbs := droppedFrom s pc asid page } := by
      rw [exec_uncorrectableError]
      simp only [execUncorrectableError, hp]
      rfl
    refine ⟨_, he, rfl, fun n e => ?_⟩
    show e ∈ SMap.get [] (droppedFrom s pc asid page) n ↔ _
    rw [droppedFrom, SMap.get_set]
    split
    · next h =>
      rw [List.mem_filter, h]
      simp [imp_iff_not_or, or_assoc]
    · next h => simp [h]

end Sys2Proof.Proofs.SoftErrors
end

section
/-! PROOFS. Queued global accesses perform at their owner (R225–R229), and when they may (R230, R234, R236). -/

namespace Sys2Proof.Proofs.Performs

open Sys2Proof.Machine
open Sys2Proof.Safety
open Sys2Proof.Proofs.Transfers
open Sys2Proof.Proofs.Tokens
open Sys2Proof.Proofs.Traps
open Sys2Proof.Proofs.Scratchpad
open Sys2Proof.Proofs.Streams
open Sys2Proof.Proofs.Accesses

theorem exec_loadPerform (s : State) : exec .loadPerform s = execLoadPerform s := rfl
theorem exec_storePerform (s : State) : exec .storePerform s = execStorePerform s := rfl
theorem exec_gamoPerform (s : State) : exec .gamoPerform s = execGamoPerform s := rfl
theorem exec_ldlLineWrite (s : State) : exec .ldlLineWrite s = execLdlLineWrite s := rfl

/-! ### What an access leaves -/

section Effects

variable {s u : State} {c x reg : Nat} {a : Machine.Acc}

/-- Every access of the number is complete. -/
abbrev Complete (u : State) (c x : Nat) (a : Machine.Acc) : Prop := ∀ b, b ∈ (u.ctx c x).accs → b.id = a.id → b.done = true

/-- The register holds the value, full, and every other one is as before. -/
abbrev Fills (s u : State) (c x reg : Nat) (v : DWord) : Prop :=
  (u.prog (.thread c x)).getS reg = (if reg = 0 then 0 else v) ∧ (u.prog (.thread c x)).isEmptyS reg = false ∧
    ∀ r, r ≠ reg → (u.prog (.thread c x)).getS r = (s.prog (.thread c x)).getS r

/-- The bytes of HBM hold the number, and the others and every scratchpad are as before. -/
abbrev Writes (s u : State) (pa n v : Nat) : Prop :=
  (∀ k, k < n → Memory.read u.hbm (pa + k) = BitVec.ofNat 8 (v / 256 ^ k)) ∧
    (∀ k, k < pa ∨ pa + n ≤ k → Memory.read u.hbm k = Memory.read s.hbm k) ∧
    ∀ d k, Memory.read (u.core d).spad k = Memory.read (s.core d).spad k

theorem complete_finishAcc (f : Flags) : Complete (s.finishAcc c x a f) c x a := fun _ h hid => (finishAcc_done s c x a f h hid).1

theorem ctx_fillReg (v : DWord) : (s.fillReg c x reg v).ctx c x = { s.ctx c x with prog := (s.ctx c x).prog.fillS reg v } :=
  State.ctx_setCtx_self ..

theorem ctx_filled (v : DWord) (f : Flags) (h : (s.ctx c x).prog.hold ≠ some (.adj a.group)) :
    ((s.fillReg c x reg v).finishAcc c x a f).ctx c x = completed { s.ctx c x with prog := (s.ctx c x).prog.fillS reg v } a f := by
  have hold : ((s.fillReg c x reg v).ctx c x).prog.hold ≠ some (.adj a.group) := by
    rw [ctx_fillReg]
    show ((s.ctx c x).prog.fillS reg v).hold ≠ _
    rw [hold_fillS]
    exact h
  rw [finishAcc_unheld hold, State.ctx_setCtx_self, ctx_fillReg]

theorem fills_finishAcc (v : DWord) (f : Flags) (h : (s.ctx c x).prog.hold ≠ some (.adj a.group)) (h64 : reg < 64) :
    Fills s ((s.fillReg c x reg v).finishAcc c x a f) c x reg v := by
  have hp : (((s.fillReg c x reg v).finishAcc c x a f).prog (.thread c x)) = (s.ctx c x).prog.fillS reg v := by
    show (((s.fillReg c x reg v).finishAcc c x a f).ctx c x).prog = _
    rw [ctx_filled v f h, completed_prog]
  unfold Fills
  rw [hp]
  exact ⟨(fillS_reads _ v h64).1, (fillS_reads _ v h64).2, fun r hr => getS_fillS_ne v hr⟩

theorem bytesSame_filled (v : DWord) (f : Flags) : BytesSame s ((s.fillReg c x reg v).finishAcc c x a f) :=
  bytesSame_trans (bytesSame_setCtx ..) (finishAcc_keeps ..).1

theorem writes_hbmWriteN {pa n v : Nat} (hw : s.hbm.wf = true) (hu : BytesSame (s.hbmWriteN pa n v) u) : Writes s u pa n v := by
  refine ⟨fun k hk => ?_, fun k hk => ?_, fun d k => hu.spad d k⟩
  · rw [hu.hbm]
    show Memory.read (s.hbm.writeN pa n v) _ = _
    rw [Memory.read_writeN _ _ _ _ _ hw, if_pos ⟨by omega, by omega⟩, Nat.add_sub_cancel_left]
  · rw [hu.hbm]
    show Memory.read (s.hbm.writeN pa n v) _ = _
    rw [Memory.read_writeN _ _ _ _ _ hw, if_neg (by omega)]

/-- A byte of a list is that digit of its number. -/
theorem getD_eq_digit (l : List Byte) {k : Nat} (h : k < l.length) : l.getD k 0 = BitVec.ofNat 8 (natOfBytes l / 256 ^ k) := by
  have hd : (l.drop k).take 1 = [l.getD k 0] := by
    rw [List.take_one, List.head?_drop, List.getElem?_eq_getElem h, List.getD_eq_getElem _ _ h]
    rfl
  have hw := natOfBytes_window l k 1
  rw [hd, Nat.pow_one] at hw
  have hone : natOfBytes [l.getD k 0] = (l.getD k 0).toNat := by rw [natOfBytes, natOfBytes]; omega
  apply BitVec.eq_of_toNat_eq
  rw [BitVec.toNat_ofNat, ← hone]
  exact hw.symm

theorem writes_hbmWriteBytes {pa : Nat} {bs : List Byte} (hw : s.hbm.wf = true) (hu : BytesSame (s.hbmWriteBytes pa bs) u) :
    Writes s u pa bs.length (natOfBytes bs) := by
  refine ⟨fun k hk => ?_, fun k hk => ?_, fun d k => hu.spad d k⟩
  · rw [hu.hbm]
    show Memory.read (s.hbm.writeBytes pa bs) _ = _
    rw [Memory.read_writeBytes _ _ _ _ hw, if_pos ⟨by omega, by omega⟩, Nat.add_sub_cancel_left, getD_eq_digit bs hk]
  · rw [hu.hbm]
    show Memory.read (s.hbm.writeBytes pa bs) _ = _
    rw [Memory.read_writeBytes _ _ _ _ hw, if_neg (by omega)]

theorem bytesSame_afterStore (kind : Nat) (old : List Byte) : BytesSame s (s.afterStore c x a kind old) := by
  unfold State.afterStore
  split
  · exact bytesSame_refl s
  · exact bytesSame_trans (t := s.setCore c { s.core c with nextAcc := (s.core c).nextAcc + 1 }) (bytesSame_setCore rfl rfl) (bytesSame_setCtx ..)

theorem sextN_32 {v : Nat} (h : v < 2 ^ 32) : sextN 32 v = if 2 ^ 31 ≤ v then BitVec.ofInt 64 ((v : Int) - 2 ^ 32) else BitVec.ofNat 64 v := by
  unfold sextN signedOf
  dsimp only
  rw [Nat.mod_eq_of_lt h]
  by_cases hv : v < 2 ^ 31
  · rw [if_pos hv, if_neg (by omega), BitVec.ofInt_natCast]
  · rw [if_neg hv, if_pos (by omega)]
    rfl

theorem zextN_of_lt {w v : Nat} (h : v < 2 ^ w) : zextN w v = BitVec.ofNat 64 v := by rw [zextN, Nat.mod_eq_of_lt h]

end Effects

/-! ### Loads, lines and stores (R225, R227, R228) -/

section Moves

variable {s : State} {a : Machine.Acc}

theorem loadPerform_load {reg size : Nat} (hp : s.performable = some a) (hk : a.kind = .ldg reg size) :
    exec .loadPerform s = .next ((s.fillReg s.target.core s.target.unit reg
      (if size = 4 then sextN 32 (s.hbm.readN a.pa size) else zextN 64 (s.hbm.readN a.pa size))).finishAcc s.target.core s.target.unit a 0) := by
  rw [exec_loadPerform]
  simp only [execLoadPerform, hp, hk]

theorem loadPerform_line {sp : Nat} (hp : s.performable = some a) (hk : a.kind = .ldl sp) :
    exec .loadPerform s = .next (s.setAcc s.target.core s.target.unit { a with kind := .line sp (s.hbm.readBytes a.pa 128), performed := true }) := by
  rw [exec_loadPerform]
  simp only [execLoadPerform, hp, hk]

theorem loadPerform_mark (hp : s.performable = some a) (hk : a.kind = .mark) :
    exec .loadPerform s = .next (s.finishAcc s.target.core s.target.unit a 0) := by
  rw [exec_loadPerform]
  simp only [execLoadPerform, hp, hk]

theorem storePerform_store {size data : Nat} (hp : s.performable = some a) (hk : a.kind = .stg size data) :
    exec .storePerform s = .next (((s.hbmWriteN a.pa size data).afterStore s.target.core s.target.unit a (if size = 4 then 1 else 2)
      (s.hbm.readBytes a.pa size)).finishAcc s.target.core s.target.unit a 0) := by
  rw [exec_storePerform]
  simp only [execStorePerform, hp, hk]

theorem storePerform_line {data : List Byte} (hp : s.performable = some a) (hk : a.kind = .stl data) :
    exec .storePerform s = .next (((s.hbmWriteBytes a.pa data).afterStore s.target.core s.target.unit a 3
      (s.hbm.readBytes a.pa 128)).finishAcc s.target.core s.target.unit a 0) := by
  rw [exec_storePerform]
  simp only [execStorePerform, hp, hk]

/-- An access that may perform is listed under its number. -/
theorem mem_of_performable (hp : s.performable = some a) :
    (s.ctx s.target.core s.target.unit).accs.find? (fun b => b.id == s.target.id) = some a ∧
      s.accWaits s.target.core (s.ctx s.target.core s.target.unit).accs a = false := by
  unfold State.performable at hp
  dsimp only at hp
  cases hf : (s.ctx s.target.core s.target.unit).accs.find? (fun b => b.id == s.target.id) with
  | none => rw [hf] at hp; cases hp
  | some b =>
    rw [hf] at hp
    dsimp only at hp
    split at hp
    · cases hp
    · next hw =>
      obtain rfl := Option.some.inj hp
      exact ⟨rfl, by simpa using hw⟩

theorem load_value {old : Nat → Nat} (hold : ∀ n, old n < 256 ^ n) {size : Nat} (h : size = 4 ∨ size = 8) :
    (if size = 4 then sextN 32 (old size) else zextN 64 (old size)) =
      if size = 4 ∧ 2 ^ 31 ≤ old 4 then BitVec.ofInt 64 ((old 4 : Int) - 2 ^ 32) else BitVec.ofNat 64 (old size) := by
  obtain rfl | rfl := h
  · rw [if_pos rfl, sextN_32 (lt_of_lt_of_eq (hold 4) (by decide))]
    exact if_congr (by simp) rfl rfl
  · rw [if_neg (by decide), if_neg (fun h => absurd h.1 (by decide)), zextN_of_lt (lt_of_lt_of_eq (hold 8) (by decide))]

theorem line_arrives {sp : Nat} (hp : s.performable = some a) :
    let u := s.setAcc s.target.core s.target.unit { a with kind := .line sp (s.hbm.readBytes a.pa 128), performed := true }
    BytesSame s u ∧ ∃ b, b ∈ (u.ctx s.target.core s.target.unit).accs ∧ b.id = a.id ∧ b.performed = true ∧
      b.kind = .line sp (Memory.readBytes s.hbm a.pa 128) := by
  intro u
  have hu : (u.ctx s.target.core s.target.unit).accs = replaced (s.ctx s.target.core s.target.unit).accs
      { a with kind := .line sp (s.hbm.readBytes a.pa 128), performed := true } := by
    show ((s.setAcc _ _ _).ctx _ _).accs = _
    rw [setAcc_eq, State.ctx_setCtx_self]
  refine ⟨bytesSame_setCtx .., { a with kind := .line sp (s.hbm.readBytes a.pa 128), performed := true }, ?_, rfl, rfl, rfl⟩
  rw [hu]
  exact mem_replaced_self _ ⟨a, List.mem_of_find?_eq_some (mem_of_performable hp).1, rfl⟩

end Moves

/-! ### Atomics (R229) -/

section Gamo

variable {s : State} {a : Machine.Acc}

theorem gamoPerform_eq {reg fn op v cmp : Nat} {rm : Rm} {scale : Int} {acq rel : Bool} (hp : s.performable = some a)
    (hk : a.kind = .gamo reg fn op v cmp rm scale acq rel) :
    exec .gamoPerform s = .next (((s.hbmWriteN a.pa (gamoSize fn) (gamoNew fn op (s.hbm.readN a.pa (gamoSize fn)) v cmp rm scale).1).fillReg
      s.target.core s.target.unit reg (if fn = 4 then sextN 32 (s.hbm.readN a.pa (gamoSize fn)) else zextN (8 * gamoSize fn)
        (s.hbm.readN a.pa (gamoSize fn)))).finishAcc s.target.core s.target.unit a
      (gamoNew fn op (s.hbm.readN a.pa (gamoSize fn)) v cmp rm scale).2) := by
  rw [exec_gamoPerform]
  simp only [execGamoPerform, hp, hk]

theorem pow_bytes (n : Nat) : 256 ^ n = 2 ^ (8 * n) := by rw [Nat.pow_mul]

theorem gamo_value {fn old : Nat} (h : old < 256 ^ gamoSize fn) :
    (if fn = 4 then sextN 32 old else zextN (8 * gamoSize fn) old) =
      if fn = 4 ∧ 2 ^ 31 ≤ old then BitVec.ofInt 64 ((old : Int) - 2 ^ 32) else BitVec.ofNat 64 old := by
  by_cases hf : fn = 4
  · subst hf
    rw [if_pos rfl, sextN_32 (lt_of_lt_of_eq h (by decide))]
    exact if_congr (by simp) rfl rfl
  · rw [if_neg hf, if_neg (fun k => hf k.1), zextN_of_lt (by rw [← pow_bytes]; exact h)]

/-- An element of w bits, signed or not. -/
def readAs (w : Nat) (sg : Bool) (z : Nat) : Int := if sg = true ∧ 2 ^ (w - 1) ≤ z then (z : Int) - 2 ^ w else z

theorem readAs_eq {w z : Nat} (sg : Bool) (h : z < 2 ^ w) :
    (if sg then signedOf w z else ((z % 2 ^ w : Nat) : Int)) = readAs w sg z := by
  unfold readAs signedOf
  dsimp only
  rw [Nat.mod_eq_of_lt h]
  cases sg with
  | false => simp
  | true =>
    rw [if_pos rfl]
    by_cases hz : z < 2 ^ (w - 1)
    · rw [if_pos hz, if_neg (by omega)]
    · rw [if_neg hz, if_pos ⟨rfl, by omega⟩]
      push_cast
      rfl

theorem gamoNew_ops {fn op old v cmp : Nat} {rm : Rm} {scale : Int} (hold : old < 2 ^ (8 * gamoSize fn)) :
    let w := 8 * gamoSize fn
    let new := (gamoNew fn op old v cmp rm scale).1
    let sg := fn == 4 || fn == 6
    (op = 0 → new = (old + v) % 2 ^ w) ∧
    (op = 1 → new = (fpAdd (FpFmt.get fn) rm ((FpFmt.get fn).decode old) ((FpFmt.get fn).decode v)).1) ∧
    (op = 2 → new = (fxAdd scale (BitVec.ofNat 64 old) (FpFmt.fp64.decode v)).1.toNat) ∧
    (op = 3 → new = old &&& v) ∧ (op = 4 → new = old ||| v) ∧ (op = 5 → new = old ^^^ v) ∧
    (v < 2 ^ w → op = 6 → new = if readAs w sg old ≤ readAs w sg v then old else v) ∧
    (v < 2 ^ w → op = 7 → new = if readAs w sg v ≤ readAs w sg old then old else v) ∧
    (op = 8 → new = v) ∧ (op = 9 → new = if old = cmp then v else old) := by
  intro w new sg
  refine ⟨?_, ?_, ?_, ?_, ?_, ?_, fun hv => ?_, fun hv => ?_, ?_, ?_⟩ <;> rintro rfl
  any_goals rfl
  · show (if (if sg then signedOf w old else ((old % 2 ^ w : Nat) : Int)) ≤ (if sg then signedOf w v else ((v % 2 ^ w : Nat) : Int))
      then old else v) = _
    rw [readAs_eq sg hold, readAs_eq sg hv]
  · show (if (if sg then signedOf w v else ((v % 2 ^ w : Nat) : Int)) ≤ (if sg then signedOf w old else ((old % 2 ^ w : Nat) : Int))
      then old else v) = _
    rw [readAs_eq sg hold, readAs_eq sg hv]

theorem gamoNew_flags {fn op old v cmp : Nat} {rm : Rm} {scale : Int} :
    (gamoNew fn op old v cmp rm scale).2 = if op = 1 then (fpAdd (FpFmt.get fn) rm ((FpFmt.get fn).decode old) ((FpFmt.get fn).decode v)).2
      else if op = 2 then (fxAdd scale (BitVec.ofNat 64 old) (FpFmt.fp64.decode v)).2 else 0 := by
  unfold gamoNew
  by_cases h1 : op = 1
  · rw [if_pos h1, if_pos h1]
  · rw [if_neg h1, if_neg h1]
    by_cases h2 : op = 2
    · rw [if_pos h2, if_pos h2]
    · rw [if_neg h2, if_neg h2]

end Gamo

/-! ### When an access may perform (R234, R236) -/

section Order

variable {s : State} {a e : Machine.Acc} {c : Nat}

theorem isAcq_iff : e.isAcq = true ↔ ∃ r f o v y m k l, e.kind = .gamo r f o v y m k true l := by
  unfold Acc.isAcq
  cases e.kind <;> simp

theorem isRel_iff : e.isRel = true ↔ ∃ r f o v y m k l, e.kind = .gamo r f o v y m k l true := by
  unfold Acc.isRel
  cases e.kind <;> simp

theorem isMark_iff : e.isMark = true ↔ e.kind = .mark := by
  unfold Acc.isMark
  exact beq_iff_eq

/-- An earlier access keeps its place before the access, with those between them. -/
def Orders (a e : Machine.Acc) (between : List Machine.Acc) : Prop :=
  accOrdered e a = true ∨ (e.isLd = true ∧ a.isSt = true ∧ ∃ z ∈ between, z.isAcq = true)

theorem accBlocked_iff (before after : List Machine.Acc) (h : ∀ e ∈ before, e.id ≠ a.id) :
    accBlocked (before ++ a :: after) a = true ↔ ∃ l e r, before = l ++ e :: r ∧ e.performed = false ∧ Orders a e r := by
  induction before with
  | nil => simp [accBlocked]
  | cons x xs ih =>
    have hx : x.id ≠ a.id := h x List.mem_cons_self
    have hxs : ∀ e ∈ xs, e.id ≠ a.id := fun e he => h e (List.mem_cons_of_mem _ he)
    have htake : (xs ++ a :: after).takeWhile (fun z => z.id != a.id) = xs := by
      rw [List.takeWhile_append_of_pos (by simpa using hxs)]
      simp
    rw [List.cons_append, accBlocked, if_neg hx, htake, Bool.or_eq_true, ih hxs]
    have hhead : (!x.performed && (accOrdered x a || (x.isLd && a.isSt && xs.any Acc.isAcq))) = true ↔ x.performed = false ∧ Orders a x xs := by
      simp [Orders, and_assoc]
    rw [hhead]
    constructor
    · rintro (hx | ⟨l, e, r, rfl, he⟩)
      · exact ⟨[], x, xs, rfl, hx⟩
      · exact ⟨x :: l, e, r, rfl, he⟩
    · rintro ⟨l, e, r, hl, he⟩
      cases l with
      | nil =>
        obtain ⟨rfl, rfl⟩ := List.cons.inj hl
        exact .inl he
      | cons y l =>
        obtain ⟨rfl, rfl⟩ := List.cons.inj hl
        exact .inr ⟨l, e, r, rfl, he⟩

theorem mem_mates_iff {k : Nat} : k ∈ s.mates c ↔ k = c ∨ ∃ e ∈ s.remap, e.1 = k ∧ e.2 = SMap.get 0 s.remap c := by
  unfold State.mates State.pcore
  rw [List.mem_cons, List.mem_map]
  constructor
  · rintro (h | ⟨e, he, rfl⟩)
    · exact .inl h
    · obtain ⟨hm, hb⟩ := List.mem_filter.1 he
      rw [Bool.and_eq_true, beq_iff_eq] at hb
      exact .inr ⟨e, hm, rfl, hb.1⟩
  · rintro (h | ⟨e, he, rfl, h2⟩)
    · exact .inl h
    · by_cases hc : e.1 = c
      · exact .inl hc
      · exact .inr ⟨e, List.mem_filter.2 ⟨he, by simp [h2, hc]⟩, rfl⟩

theorem not_follows_iff {b : Machine.Acc} : b.left.isSome = true ∧ b.follows c a = false ↔
    (∃ n, b.left = some n ∧ ∀ m, a.left = some m → n < m) ∧ (c, a.id) ∉ b.ahead := by
  unfold Acc.follows
  cases hb : b.left with
  | none => simp
  | some n =>
    cases ha : a.left with
    | none => simp
    | some m => simp [and_comm]

/-- The access waits for a store that left the landing before it. -/
theorem behindLeft_iff : a.next.any (s.behindLeft c (fun b => b.follows c a)) = true ↔
    ∃ k y b, y ∈ (s.core k).ctxs ∧ b ∈ y.2.accs ∧ b.performed = false ∧ (∃ n, b.left = some n ∧ ∀ m, a.left = some m → n < m) ∧
      (c, a.id) ∉ b.ahead ∧ (k = c ∨ ∃ e ∈ s.remap, e.1 = k ∧ e.2 = SMap.get 0 s.remap c) ∧
      ∃ pa ∈ a.next, ∃ pb ∈ b.places, sliceOf pb = sliceOf pa := by
  have hb : ∀ pa b, (!b.performed && b.left.isSome && !Acc.follows b c a && b.places.any (fun pb => sliceOf pb == sliceOf pa)) = true ↔
      b.performed = false ∧ (∃ n, b.left = some n ∧ ∀ m, a.left = some m → n < m) ∧ (c, a.id) ∉ b.ahead ∧
        ∃ pb ∈ b.places, sliceOf pb = sliceOf pa := fun pa b => by
    rw [← and_assoc (a := ∃ n, b.left = some n ∧ _), ← not_follows_iff]
    simp [and_assoc]
  simp only [State.behindLeft, List.any_eq_true (p := fun k => (s.core k).ctxs.any _), List.any_eq_true, hb, mem_mates_iff]
  constructor
  · rintro ⟨pa, hpa, k, hk, y, hy, b, hbm, h1, h2, h3, hs⟩
    exact ⟨k, y, b, hy, hbm, h1, h2, h3, hk, pa, hpa, hs⟩
  · rintro ⟨k, y, b, hy, hbm, h1, h2, h3, hk, pa, hpa, hs⟩
    exact ⟨pa, hpa, k, hk, y, hy, b, hbm, h1, h2, h3, hs⟩

theorem performable_eq (hf : (s.ctx s.target.core s.target.unit).accs.find? (fun b => b.id == s.target.id) = some a) :
    s.performable = if s.accWaits s.target.core (s.ctx s.target.core s.target.unit).accs a then none else some a := by
  unfold State.performable
  dsimp only
  rw [hf]

theorem accWaits_iff {before after : List Machine.Acc} (h : ∀ e ∈ before, e.id ≠ a.id) :
    s.accWaits c (before ++ a :: after) a = false ↔ a.performed = false ∧
      (∀ l e r, before = l ++ e :: r → e.performed = false → ¬ Orders a e r) ∧ ¬ a.next.any (s.behindLeft c (fun b => b.follows c a)) = true := by
  unfold State.accWaits
  rw [← Bool.not_eq_true, Bool.or_eq_true, Bool.or_eq_true, not_or, not_or, accBlocked_iff before after h, Bool.not_eq_true, and_assoc]
  refine and_congr_right fun _ => and_congr_left fun _ => ?_
  constructor
  · exact fun hn l e r hl he ho => hn ⟨l, e, r, hl, he, ho⟩
  · rintro hn ⟨l, e, r, hl, he, ho⟩
    exact hn l e r hl he ho

end Order

/-! ### Lines are written to the scratchpad (R107, R228) -/

theorem lineWrite_eq {s : State} {a : Machine.Acc} {sp : Nat} {data : List Byte}
    (hf : (s.ctx s.target.core s.target.unit).accs.find? (fun b => b.id == s.target.id) = some a) (hk : a.kind = .line sp data)
    (hd : a.done = false) (haway : s.away.contains s.target.core = false)
    (hg : ∀ b, b ∈ (s.ctx s.target.core s.target.unit).accs → b.group = a.group → b.performed = true) :
    exec .ldlLineWrite s = .next ((s.setCore s.target.core { s.core s.target.core with
      spad := (s.core s.target.core).spad.writeBytes sp data }).finishAcc s.target.core s.target.unit a 0) := by
  rw [exec_ldlLineWrite]
  unfold execLdlLineWrite
  simp only [hf, hk]
  refine if_neg ?_
  rw [hd, haway, Bool.false_or, Bool.or_false, Bool.not_eq_true]
  refine List.any_eq_false.2 fun b hb => ?_
  by_cases h : b.group = a.group
  · simp [hg b hb h]
  · simp [h]

theorem lineWrite_writes {s : State} {a : Machine.Acc} {c x sp : Nat} {data : List Byte} (hwf : (s.core c).spad.wf = true) :
    let u := (s.setCore c { s.core c with spad := (s.core c).spad.writeBytes sp data }).finishAcc c x a 0
    Complete u c x a ∧ (∀ k, Memory.read u.hbm k = Memory.read s.hbm k) ∧
      ∀ k, Memory.read (u.core c).spad k =
        if sp ≤ k ∧ k < sp + data.length then data.getD (k - sp) 0 else Memory.read (s.core c).spad k := by
  intro u
  have hb := (finishAcc_keeps (s.setCore c { s.core c with spad := (s.core c).spad.writeBytes sp data }) c x a 0).1
  refine ⟨complete_finishAcc 0, fun k => hb.hbm k, fun k => (hb.spad c k).trans ?_⟩
  rw [State.core_setCore_self]
  exact Memory.read_writeBytes _ _ _ _ hwf

/-- Settles O32: what each kind of access does when it performs, and the two orders that it waits for, the thread's and the core's. -/
theorem globalPerforms : Obligations.GlobalPerforms := by
  unfold Obligations.GlobalPerforms
  constructor
  · intro s a c x q old complete fills writes hwf hold
    have hlt : ∀ n, old n < 256 ^ n := fun n => readN_lt s.hbm a.pa n
    refine ⟨fun hp => ⟨fun reg size hk h64 hsize => ?_, fun sp hk => ?_, fun hk => ?_, fun size data hk => ?_, fun data hk hlen => ?_,
      ?_⟩, fun sp data hf hk hd haway hg hspad => ?_⟩
    · refine ⟨_, loadPerform_load hp hk, bytesSame_filled _ 0, complete_finishAcc 0, ?_⟩
      rw [← load_value (old := old) hlt hsize]
      exact fills_finishAcc _ 0 hold h64
    · exact ⟨_, loadPerform_line hp hk, line_arrives hp⟩
    · exact ⟨_, loadPerform_mark hp hk, (finishAcc_keeps s c x a 0).1, complete_finishAcc 0⟩
    · exact ⟨_, storePerform_store hp hk,
        writes_hbmWriteN hwf (bytesSame_trans (bytesSame_afterStore _ _) (finishAcc_keeps ..).1), complete_finishAcc 0⟩
    · have hw := writes_hbmWriteBytes hwf (bytesSame_trans (bytesSame_afterStore (s := s.hbmWriteBytes a.pa data) (c := c) (x := x) (a := a) 3
        (s.hbm.readBytes a.pa 128)) (finishAcc_keeps _ c x a 0).1)
      rw [hlen] at hw
      exact ⟨_, storePerform_line hp hk, hw, complete_finishAcc 0⟩
    · intro reg fn op v cmp rm scale acq rel hk h64 hfn n w int
      have hops := gamoNew_ops (fn := fn) (op := op) (v := v) (cmp := cmp) (rm := rm) (scale := scale) (old := old n)
        (lt_of_lt_of_eq (hlt n) (pow_bytes n))
      obtain ⟨o0, o1, o2, o3, o4, o5, o6, o7, o8, o9⟩ := hops
      have hint : ∀ z, readAs w (fn == 4 || fn == 6) z = int z := fun z => by
        unfold readAs
        simp only [Bool.or_eq_true, beq_iff_eq]
        rfl
      have hfill := fills_finishAcc (s := s.hbmWriteN a.pa n (gamoNew fn op (old n) v cmp rm scale).1) (a := a) (reg := reg)
        (if fn = 4 then sextN 32 (old n) else zextN (8 * n) (old n)) (gamoNew fn op (old n) v cmp rm scale).2 hold h64
      rw [show (if fn = 4 then sextN 32 (old n) else zextN (8 * n) (old n)) = _ from gamo_value (hlt n)] at hfill
      refine ⟨_, (gamoNew fn op (old n) v cmp rm scale).1, gamoPerform_eq hp hk, writes_hbmWriteN hwf (bytesSame_filled _ _),
        complete_finishAcc _, ?_, o0, o1, o2, o3, o4, o5, fun hv hop => ?_, fun hv hop => ?_, fun hg hf0 => ?_, o8, o9⟩
      · exact (by rw [show (if fn = 4 then sextN 32 (s.hbm.readN a.pa (gamoSize fn)) else zextN (8 * gamoSize fn) (s.hbm.readN a.pa (gamoSize fn))) = _
          from gamo_value (hlt n)]; exact hfill)
      · rw [o6 hv hop, ← hint, ← hint]
        rfl
      · rw [o7 hv hop, ← hint, ← hint]
        rfl
      · have hrest : restOf { s.ctx c x with prog := (s.ctx c x).prog.fillS reg (if fn = 4 then sextN 32 (old n) else zextN (8 * n) (old n)) } a = [] :=
          restOf_nil _ a fun b hb hgr hid => absurd (hg b hb hgr) hid
        have hline : a.isLineWrite = false := by simp [Acc.isLineWrite, hk]
        have hctx := ctx_filled (s := s.hbmWriteN a.pa n (gamoNew fn op (old n) v cmp rm scale).1) (reg := reg) (a := a)
          (if fn = 4 then sextN 32 (old n) else zextN (8 * n) (old n)) (gamoNew fn op (old n) v cmp rm scale).2 hold
        refine (congrArg Ctx.fsr hctx).trans ?_
        refine (completed_fsr _ a _ hrest hline).trans ?_
        have hz : ∀ f : Flags, 0 ||| f = f := fun f => BitVec.zero_or
        rw [Flags.orInto, hf0, hz, gamoNew_flags]
    · exact ⟨_, lineWrite_eq hf hk hd haway hg, lineWrite_writes hspad⟩
  · intro s a before after c acquires releases goesTo allOf orders behind haccs hid hbefore
    have hf : (s.ctx c s.target.unit).accs.find? (fun b => b.id == s.target.id) = some a := by
      rw [haccs, List.find?_append, List.find?_eq_none.2 fun e he => by simpa [← hid] using hbefore e he]
      rw [Option.none_or, List.find?_cons_of_pos (by simpa using hid)]
    have hgoes : ∀ e, goesTo e = e.next := fun e => by
      obtain ⟨id, kind, _⟩ := e
      cases kind with
      | adjClear runs => cases runs <;> rfl
      | _ => rfl
    have hall : ∀ e, allOf e = e.places := fun e => by
      obtain ⟨id, kind, _⟩ := e
      cases kind <;> rfl
    have horders : ∀ e r, orders e r ↔ Orders a e r := fun e r => by
      have hmark : (e.kind = .mark ↔ e.isMark = true) ∧ (a.kind = .mark ↔ a.isMark = true) := ⟨isMark_iff.symm, isMark_iff.symm⟩
      show (e.kind = .mark ∨ a.kind = .mark ∨ _ ∨ _ ∨ _ ∨ _ ∨ (_ ∧ _ ∧ ∃ z ∈ r, _)) ↔ _
      simp only [Orders, accOrdered, Bool.or_eq_true, Bool.and_eq_true, hmark.1, hmark.2, isAcq_iff, isRel_iff, or_assoc]
      rfl
    have hbehind : a.next.any (s.behindLeft c (fun b => b.follows c a)) = true ↔
        ∃ k y b, y ∈ (s.core k).ctxs ∧ b ∈ y.2.accs ∧ behind k b := by
      rw [behindLeft_iff]
      simp only [← hgoes, ← hall]
      rfl
    rw [performable_eq hf, haccs]
    have hiff := accWaits_iff (s := s) (c := c) (after := after) hbefore
    rw [hbehind] at hiff
    constructor
    · rw [show (∀ l e r, before = l ++ e :: r → e.performed = false → ¬ orders e r) ↔
        (∀ l e r, before = l ++ e :: r → e.performed = false → ¬ Orders a e r) by simp only [horders]]
      rw [show (∀ k y b, y ∈ (s.core k).ctxs → b ∈ y.2.accs → ¬ behind k b) ↔
        ¬ ∃ k y b, y ∈ (s.core k).ctxs ∧ b ∈ y.2.accs ∧ behind k b by
          constructor
          · rintro h ⟨k, y, b, hy, hb, hbe⟩
            exact h k y b hy hb hbe
          · exact fun h k y b hy hb hbe => h ⟨k, y, b, hy, hb, hbe⟩]
      rw [← hiff]
      cases s.accWaits s.target.core (before ++ a :: after) a <;> simp
    · cases s.accWaits s.target.core (before ++ a :: after) a <;> simp

end Sys2Proof.Proofs.Performs
end

section
/-! PROOFS. The instructions of a thread that translate an address and whose accesses enter its queues (R216, R225, R227–R229). -/

namespace Sys2Proof.Proofs.Entries

open Sys2Proof.Machine
open Sys2Proof.Safety
open Sys2Proof.Proofs.Transfers
open Sys2Proof.Proofs.Traps
open Sys2Proof.Proofs.Groups
open Sys2Proof.Proofs.Accesses
open Sys2Proof.Proofs.Tokens

/-! ### Translation -/

section Walks

variable {s t u : State} {c va : Nat} {r w : Bool} {p : Page}

/-- Of the machine nothing differs but the translation caches and the free values drawn. -/
def Walked (s u : State) : Prop := ∃ tl n, u = { s with tlbs := tl, draws := n }

theorem Walked.refl (s : State) : Walked s s := ⟨s.tlbs, s.draws, rfl⟩

theorem Walked.trans (h : Walked s t) (k : Walked t u) : Walked s u := by
  obtain ⟨_, _, rfl⟩ := h
  obtain ⟨tl, n, rfl⟩ := k
  exact ⟨tl, n, rfl⟩

theorem walked_tlbAdd (s : State) (pc asid : Nat) (p : Page) : Walked s (s.tlbAdd pc asid p) := by
  unfold State.tlbAdd State.draw
  dsimp only
  split
  · exact ⟨_, _, rfl⟩
  · split <;> exact ⟨_, _, rfl⟩

theorem walked_pageOf (h : s.pageOf c va = .page p u) : Walked s u := by
  unfold State.pageOf at h
  dsimp only at h
  split at h
  · cases h
  · split at h
    · cases h; exact .refl s
    · split at h <;> cases h
      exact walked_tlbAdd ..

theorem walked_xlate (h : s.xlate c va r w = .page p u) : Walked s u := by
  unfold State.xlate at h
  split at h
  · next hp =>
    split at h <;> cases h
    exact walked_pageOf hp
  · exact walked_pageOf h

theorem walked_xlateRange {hi n : Nat} {f : Page → Option Cause} {ps : List Page}
    (h : State.xlateRange c hi r w f n s va = .pages ps u) : Walked s u := by
  induction n generalizing s va ps with
  | zero => cases h; exact .refl _
  | succ n ih =>
    rw [State.xlateRange] at h
    split at h
    · cases h
    · cases h
    · next hp =>
      split at h
      · cases h
      · split at h
        · cases h; exact walked_xlate hp
        · split at h
          · next hr => cases h; exact (walked_xlate hp).trans (ih hr)
          · next hne => exact absurd h (hne _ _)

theorem shift_ne_zero_iff (v : DWord) {k : Nat} : v >>> k ≠ 0 ↔ 2 ^ k ≤ v.toNat := by
  rw [Ne, ← BitVec.toNat_inj, BitVec.toNat_ushiftRight, Nat.shiftRight_eq_div_pow]
  show ¬ v.toNat / 2 ^ k = 0 ↔ _
  rw [Nat.div_eq_zero_iff, not_or, not_lt]
  exact and_iff_right (by positivity)

end Walks

/-! ### The checks at issue (R227–R229) -/

section Checks

variable {s s1 : State} {i : Instr} {len c size : Nat} {pl : Place} {body : Seqr → State → Res} {ea : DWord} {r w : Bool} {p : Page}
  {k : Page → State → Res}

theorem withPage_page {va : Nat} (h : s.xlate c va r w = .page p s1) : s.withPage c va r w k = k p s1 := by
  unfold State.withPage
  rw [h]

theorem withPage_trap {va : Nat} {f : Cause} {v : DWord} (h : s.xlate c va r w = .trap f v) : s.withPage c va r w k = .trap f v := by
  unfold State.withPage
  rw [h]

variable (hi : exec i s = issue s len pl body) (hs : Stands s len pl)
  (hb : body s.cur (fresh s) = (fresh s).globalPage s.cur ea size r w k) (hc : s.cur.core = c)

include hb hc in
theorem body_good (h0 : ea.toNat % size = 0) (h57 : ea.toNat < 2 ^ 57) (hx : (fresh s).xlate c ea.toNat r w = .page p s1) (hg : p.geom = 0) :
    body s.cur (fresh s) = k p s1 := by
  rw [hb, State.globalPage, if_neg (by simp [h0]), if_neg (by rw [shift_ne_zero_iff]; omega), withPage_page (hc ▸ hx), if_neg (by simp [hg])]

include hi hs hb hc in
/-- The checks in their order: alignment, the address's range, its translation and its page's layout. -/
theorem checks_of_global :
    (ea.toNat % size ≠ 0 → Traps i s .align ea) ∧
    (ea.toNat % size = 0 → 2 ^ 57 ≤ ea.toNat → Traps i s .xlate ea) ∧
    (∀ cs v, ea.toNat % size = 0 → ea.toNat < 2 ^ 57 → (fresh s).xlate c ea.toNat r w = .trap cs v → Traps i s cs v) ∧
    (ea.toNat % size = 0 → ea.toNat < 2 ^ 57 → (fresh s).xlate c ea.toNat r w = .page p s1 → p.geom ≠ 0 → Traps i s .prot ea) := by
  refine ⟨fun h => traps_of_issue body hi hs ?_, fun h0 h => traps_of_issue body hi hs ?_, fun cs v h0 h hx => traps_of_issue body hi hs ?_,
    fun h0 h hx hg => traps_of_issue body hi hs ?_⟩ <;> rw [hb, State.globalPage]
  · rw [if_pos h]
  · rw [if_neg (by simp [h0]), if_pos ((shift_ne_zero_iff ea).2 h)]
  · rw [if_neg (by simp [h0]), if_neg (by rw [shift_ne_zero_iff]; omega), withPage_trap (hc ▸ hx)]
  · rw [if_neg (by simp [h0]), if_neg (by rw [shift_ne_zero_iff]; omega), withPage_page (hc ▸ hx), if_pos hg]

end Checks

/-! ### Entering the queues (R225) -/

section Enters

variable {s w u : State} {c x : Nat} {as : List Machine.Acc} {P : Prog}

/-- Accesses numbered in the order of issue, as one group. -/
def stamped (s : State) (c : Nat) (as : List Machine.Acc) : List Machine.Acc :=
  as.mapIdx (fun i a => { a with id := (s.core c).nextAcc + i, group := (s.core c).nextAcc, clock := s.now })

/-- The state once accesses have entered a thread's queues, with the thread's program then. -/
def enteredState (s : State) (c x : Nat) (as : List Machine.Acc) (P : Prog) : State :=
  (s.setCore c { s.core c with nextAcc := (s.core c).nextAcc + as.length }).setCtx c x
    { s.ctx c x with accs := (s.ctx c x).accs ++ stamped s c as, prog := P }

theorem ctx_nextAcc (s : State) (c x n : Nat) : (s.setCore c { s.core c with nextAcc := n }).ctx c x = s.ctx c x := by
  refine ctx_setCore_same ?_ c x
  rfl

theorem enqueue_eq (s : State) (c x : Nat) (as : List Machine.Acc) :
    s.enqueue (.thread c x) as = (enteredState s c x as (s.ctx c x).prog, (s.core c).nextAcc) := by
  show ((s.setCore c { s.core c with nextAcc := (s.core c).nextAcc + as.length }).setCtx c x
    { (s.setCore c { s.core c with nextAcc := (s.core c).nextAcc + as.length }).ctx c x with
      accs := ((s.setCore c { s.core c with nextAcc := (s.core c).nextAcc + as.length }).ctx c x).accs ++ stamped s c as },
    (s.core c).nextAcc) = _
  rw [ctx_nextAcc]
  rfl

theorem setProg_enteredState (Q : Prog) : (enteredState s c x as P).setProg (.thread c x) Q = enteredState s c x as Q := by
  show (enteredState s c x as P).setCtx c x { (enteredState s c x as P).ctx c x with prog := Q } = _
  have hx : (enteredState s c x as P).ctx c x = { s.ctx c x with accs := (s.ctx c x).accs ++ stamped s c as, prog := P } :=
    State.ctx_setCtx_self ..
  rw [hx, enteredState, setCtx_setCtx]
  rfl

theorem ctx_enteredState : (enteredState s c x as P).ctx c x = { s.ctx c x with accs := (s.ctx c x).accs ++ stamped s c as, prog := P } :=
  State.ctx_setCtx_self ..

theorem bytesSame_enteredState : BytesSame s (enteredState s c x as P) :=
  bytesSame_trans (t := s.setCore c { s.core c with nextAcc := (s.core c).nextAcc + as.length }) (bytesSame_setCore rfl rfl) (bytesSame_setCtx ..)

theorem nextAcc_enteredState : ((enteredState s c x as P).core c).nextAcc = (s.core c).nextAcc + as.length := by
  rw [enteredState, State.core_setCtx, if_pos rfl, State.core_setCore_self]

/-- What the retirement of an instruction whose accesses have entered leaves. -/
structure Enters (s w u : State) (c x len : Nat) (as : List Machine.Acc) (P : Prog) : Prop where
  bytes  : BytesSame w u
  accs   : (u.ctx c x).accs = (w.ctx c x).accs ++ stamped w c as
  next   : (u.core c).nextAcc = (w.core c).nextAcc + as.length
  count  : (u.ctx c x).instret = (w.ctx c x).instret + 1
  tape   : (u.ctx c x).tapeptr = (w.ctx c x).tapeptr
  prog   : u.prog s.cur = P.advance s.cur.isFork (seqNext (s.prog s.cur).pc len)

theorem enters_of_after (hq : s.cur = .thread c x) {len : Nat} (h : After s (enteredState w c x as P) u len) : Enters s w u c x len as P where
  bytes := bytesSame_trans bytesSame_enteredState (bytesSame_of_after h)
  accs := (congrArg Ctx.accs (h.ctxs c x) :).trans (by rw [ctx_enteredState])
  next := ((congrArg Core.nextAcc (h.cores c) :).trans nextAcc_enteredState)
  count := by rw [h.count, if_pos hq, ctx_enteredState]
  tape := (congrArg Ctx.tapeptr (h.ctxs c x) :).trans (by rw [ctx_enteredState])
  prog := by
    rw [h.prog, hq]
    congr 1
    show ((enteredState w c x as P).ctx c x).prog = P
    rw [ctx_enteredState]

theorem Enters.flows {len : Nat} (h : Enters s w u c x len as P) (h1 : P.pend = (s.prog s.cur).pend) (h2 : P.loops = (s.prog s.cur).loops) :
    FlowsOn s u len := by
  rw [FlowsOn, h.prog]
  exact advance_pc_congr h1 h2 _ _

theorem Enters.getS {len : Nat} (h : Enters s w u c x len as P) (r : Reg) : u.getS s.cur r = P.getS r.toNat := by
  rw [State.getS, h.prog, Prog.getS, Prog.getS, (advance_rest _ _ _).1]

theorem Enters.isEmptyS {len : Nat} (h : Enters s w u c x len as P) (r : Nat) : (u.prog s.cur).isEmptyS r = P.isEmptyS r := by
  rw [h.prog, Prog.isEmptyS, Prog.isEmptyS, (advance_rest _ _ _).2.2.1]

theorem markEmpty_rest (p : Prog) (d : Nat) : (p.markEmpty d).pend = p.pend ∧ (p.markEmpty d).loops = p.loops ∧
    (∀ r, (p.markEmpty d).getS r = p.getS r) ∧ (p.markEmpty d).hold = p.hold ∧ (p.markEmpty d).pc = p.pc := by
  unfold Prog.markEmpty
  split <;> exact ⟨rfl, rfl, fun _ => rfl, rfl, rfl⟩

theorem isEmptyS_markEmpty (p : Prog) {d r : Nat} (hr : r < 64) :
    (p.markEmpty d).isEmptyS r = (decide (r = d ∧ r ≠ 0) || p.isEmptyS r) := by
  unfold Prog.markEmpty Prog.isEmptyS
  by_cases hd : d = 0
  · subst hd
    rw [if_pos rfl]
    by_cases h : r = 0 <;> simp [h]
  · rw [if_neg hd]
    by_cases hz : r = 0
    · simp [hz]
    · have hb : (1#64 <<< d).getLsbD r = decide (r = d) := by
        rw [BitVec.getLsbD_shiftLeft]
        simp only [hr, decide_true, Bool.true_and, BitVec.getLsbD_one]
        by_cases h : r = d
        · simp [h]
        · rw [decide_eq_false h, Bool.and_eq_false_iff]
          by_cases hlt : r < d
          · exact .inl (by simpa using hlt)
          · exact .inr (decide_eq_false (by omega))
      have hz' : (r != 0) = true := by simpa using hz
      simp [hz, hz', hb, Bool.or_comm]

end Enters

end Sys2Proof.Proofs.Entries
end

section
/-! PROOFS. Global accesses check at issue and enter the queues of their thread; fences; room in the queues (R222, R224–R230). -/

namespace Sys2Proof.Proofs.GlobalAccesses

open Sys2Proof.Machine
open Sys2Proof.Safety
open Sys2Proof.Proofs.Transfers
open Sys2Proof.Proofs.Traps
open Sys2Proof.Proofs.Return
open Sys2Proof.Proofs.Compares
open Sys2Proof.Proofs.Accesses
open Sys2Proof.Proofs.Entries

variable {s : State} {c x : Nat} {d a b fn : Reg} {imm : BitVec 12} {lw : LW}

/-! ### An instruction whose one access enters -/

/-- The register that a load or an atomic leaves empty. -/
def emptied (p : Prog) (e : Option Reg) : Prog := e.elim p (fun r => p.markEmpty r.toNat)

theorem emptied_rest (p : Prog) (e : Option Reg) : (emptied p e).pend = p.pend ∧ (emptied p e).loops = p.loops ∧
    ∀ r, (emptied p e).getS r = p.getS r := by
  cases e with
  | none => exact ⟨rfl, rfl, fun _ => rfl⟩
  | some r => exact ⟨(markEmpty_rest p r.toNat).1, (markEmpty_rest p r.toNat).2.1, (markEmpty_rest p r.toNat).2.2.1⟩

theorem isEmptyS_emptied (p : Prog) (e : Option Reg) {r : Nat} (hr : r < 64) :
    (emptied p e).isEmptyS r = ((e.elim false fun e => decide (r = e.toNat ∧ r ≠ 0)) || p.isEmptyS r) := by
  cases e with
  | none => rfl
  | some e => exact isEmptyS_markEmpty p hr

/-- The instruction retires, and one access has entered. -/
def Entry (s : State) (c x : Nat) (i : Instr) (len : Nat) (acc : Machine.Acc) (empty : Option Reg) : Prop :=
  ∃ u, exec i s = .next u ∧ BytesSame s u ∧ (∀ r, u.getS s.cur r = s.getS s.cur r) ∧
    (u.ctx c x).accs = (s.ctx c x).accs ++ [{ acc with id := (s.core c).nextAcc, group := (s.core c).nextAcc, clock := s.now }] ∧
    (u.core c).nextAcc = (s.core c).nextAcc + 1 ∧ (u.ctx c x).instret = (s.ctx c x).instret + 1 ∧ FlowsOn s u len ∧
    ∀ r, r < 64 → (u.prog s.cur).isEmptyS r = ((empty.elim false fun e => decide (r = e.toNat ∧ r ≠ 0)) || (s.prog s.cur).isEmptyS r)

theorem entry_of_retire {i : Instr} {len : Nat} {pl : Place} {body : Seqr → State → Res} {w : State} {acc : Machine.Acc} {e : Option Reg}
    (hq : s.cur = .thread c x) (hi : exec i s = issue s len pl body) (hs : Stands s len pl) (hw : Walked (fresh s) w)
    (hb : body s.cur (fresh s) = .retire (enteredState w c x [acc] (emptied (s.prog s.cur) e))) : Entry s c x i len acc e := by
  obtain ⟨u, hu, ha⟩ := retires_of_issue body hi hs hb
  have h := enters_of_after hq ha
  obtain ⟨tl, n, rfl⟩ := hw
  obtain ⟨hpend, hloops, hget⟩ := emptied_rest (s.prog s.cur) e
  refine ⟨u, hu, ⟨h.bytes.hbm, h.bytes.host, h.bytes.spad, h.bytes.scale⟩, fun r => (h.getS r).trans (hget _), h.accs, h.next, h.count,
    h.flows hpend hloops, fun r hr => (h.isEmptyS r).trans (isEmptyS_emptied _ _ hr)⟩

theorem prog_thread (hq : s.cur = .thread c x) : (s.ctx c x).prog = s.prog s.cur := by rw [hq]; rfl

/-- An access's entry, with its destination empty. -/
theorem enqueue_marks (hq : s.cur = .thread c x) {w : State} (hw : Walked (fresh s) w) (as : List Machine.Acc) (d : Reg) :
    ((w.enqueue (.thread c x) as).1).setProg (.thread c x) ((((w.enqueue (.thread c x) as).1).prog (.thread c x)).markEmpty d.toNat) =
      enteredState w c x as (emptied (s.prog s.cur) (some d)) := by
  obtain ⟨tl, n, rfl⟩ := hw
  rw [enqueue_eq, setProg_enteredState]
  refine congrArg (enteredState _ c x as) ?_
  show ((enteredState _ c x as _).ctx c x).prog.markEmpty d.toNat = _
  rw [ctx_enteredState, ← prog_thread hq]
  rfl

theorem enqueue_keeps (hq : s.cur = .thread c x) {w : State} (hw : Walked (fresh s) w) (as : List Machine.Acc) :
    (w.enqueue (.thread c x) as).1 = enteredState w c x as (emptied (s.prog s.cur) none) := by
  obtain ⟨tl, n, rfl⟩ := hw
  rw [enqueue_eq, ← prog_thread hq]
  rfl

theorem admits_walked (hq : s.cur = .thread c x) {w : State} (hw : Walked (fresh s) w) (ld st : Bool) (pas : List Nat) :
    w.admits (.thread c x) ld st pas = s.admits s.cur ld st pas := by
  obtain ⟨tl, n, rfl⟩ := hw
  rw [hq]
  rfl

theorem modeRev_walked {w : State} (hw : Walked (fresh s) w) : (w.thread (.thread c x)).modeRev = (s.ctx c x).modeRev := by
  obtain ⟨tl, n, rfl⟩ := hw
  rfl

/-- The checks of a global access at an address, in their order. -/
abbrev Checked (s : State) (c : Nat) (i : Instr) (ea : DWord) (size : Nat) (r w : Bool) (p : Page) (s1 : State) : Prop :=
  (ea.toNat % size ≠ 0 → Traps i s .align ea) ∧
  (ea.toNat % size = 0 → 2 ^ 57 ≤ ea.toNat → Traps i s .xlate ea) ∧
  (∀ cs v, ea.toNat % size = 0 → ea.toNat < 2 ^ 57 → (fresh s).xlate c ea.toNat r w = .trap cs v → Traps i s cs v) ∧
  (ea.toNat % size = 0 → ea.toNat < 2 ^ 57 → (fresh s).xlate c ea.toNat r w = .page p s1 → p.geom ≠ 0 → Traps i s .prot ea)

/-- An address that passes them, on a page. -/
abbrev Good (s : State) (c : Nat) (ea : DWord) (size : Nat) (r w : Bool) (p : Page) (s1 : State) : Prop :=
  ea.toNat % size = 0 ∧ ea.toNat < 2 ^ 57 ∧ (fresh s).xlate c ea.toNat r w = .page p s1 ∧ p.geom = 0

/-! ### `LDG` and `STG` (R227) -/

/-- What `LDG` does with its page. -/
def ldgOn (q : Seqr) (d : Reg) (ea : DWord) (size : Nat) (p : Page) (s : State) : Res :=
  if p.d && (s.thread q).modeRev then s.ldgRev q d ea size p
  else if !s.admits q true false [p.pa ea.toNat] then .stall
  else
    let (s1, _) := s.enqueue q [{ id := 0, kind := .ldg d.toNat size, va := ea.toNat, pa := p.pa ea.toNat, isLd := true, dpage := p.d }]
    .retire (s1.setProg q ((s1.prog q).markEmpty d.toNat))

/-- The body of `LDG`. -/
def ldgBody (d a : Reg) (imm : BitVec 12) (size : Nat) (q : Seqr) (s : State) : Res :=
  s.ready q [srcS a] [srcS d] (s.globalPage q (s.getS q a + sx64 imm) size true false (ldgOn q d (s.getS q a + sx64 imm) size))

theorem ldg_eq (size : Nat) : ldg s d a imm size = issue s 1 .any (ldgBody d a imm size) := rfl
theorem exec_ldgW : exec (.ldgW d a imm) s = ldg s d a imm 4 := rfl
theorem exec_ldgD : exec (.ldgD d a imm) s = ldg s d a imm 8 := rfl

theorem ldg_body (hr : RegsReady s [srcS a, srcS d]) (size : Nat) : ldgBody d a imm size s.cur (fresh s) =
    (fresh s).globalPage s.cur (s.getS s.cur a + BitVec.ofInt 64 imm.toInt) size true false
      (ldgOn s.cur d (s.getS s.cur a + BitVec.ofInt 64 imm.toInt) size) := by
  rw [ldgBody, fresh_ready (srcs := [srcS a]) (dests := [srcS d]) hr, fresh_getS]
  rfl

theorem ldgOn_plain {w : State} (hq : s.cur = .thread c x) (hw : Walked (fresh s) w) {ea : DWord} {size : Nat} {p : Page}
    (hp : p.leaf.testBit 20 = false ∨ (s.ctx c x).modeRev = false) :
    (s.admits s.cur true false [p.pa ea.toNat] = true → ldgOn (.thread c x) d ea size p w = .retire (enteredState w c x
      [{ id := 0, kind := .ldg d.toNat size, va := ea.toNat, pa := p.pa ea.toNat, isLd := true, dpage := p.d }] (emptied (s.prog s.cur) (some d)))) ∧
    (s.admits s.cur true false [p.pa ea.toNat] = false → ldgOn (.thread c x) d ea size p w = .stall) := by
  have hrev : ¬ (p.d && (w.thread (.thread c x)).modeRev) = true := by
    rw [modeRev_walked hw]
    rcases hp with h | h
    · rw [show p.d = false from h]; simp
    · rw [h]; simp
  refine ⟨fun ha => ?_, fun ha => ?_⟩
  · rw [ldgOn, if_neg hrev, if_neg (by rw [admits_walked hq hw, ha]; decide)]
    exact congrArg Res.retire (enqueue_marks hq hw _ d)
  · rw [ldgOn, if_neg hrev, if_pos (by rw [admits_walked hq hw, ha]; rfl)]

/-- The whole of a load's issue. -/
theorem ldg_issues {i : Instr} {size : Nat} {p : Page} {s1 : State} (hi : exec i s = ldg s d a imm size) (hq : s.cur = .thread c x)
    (hs : Stands s 1 .any) (hr : RegsReady s [srcS a, srcS d]) :
    let off := s.getS s.cur a + BitVec.ofInt 64 imm.toInt
    Checked s c i off size true false p s1 ∧
    (Good s c off size true false p s1 → p.leaf.testBit 20 = false ∨ (s.ctx c x).modeRev = false →
      (s.admits s.cur true false [p.pa off.toNat] = true → Entry s c x i 1
        { id := 0, kind := .ldg d.toNat size, va := off.toNat, pa := p.pa off.toNat, isLd := true, dpage := p.d } (some d)) ∧
      (s.admits s.cur true false [p.pa off.toNat] = false → Stalls i s)) := by
  intro off
  have hi' := hi.trans (ldg_eq size)
  have hc : s.cur.core = c := by rw [hq]; rfl
  refine ⟨checks_of_global hi' hs (ldg_body hr size) hc, fun ⟨h0, h57, hx, hg⟩ hp => ?_⟩
  have hb : ldgBody d a imm size s.cur (fresh s) = ldgOn (.thread c x) d off size p s1 :=
    (body_good (ldg_body hr size) hc h0 h57 hx hg).trans (congrArg (fun q => ldgOn q d off size p s1) hq)
  obtain ⟨hgo, hstall⟩ := ldgOn_plain (d := d) (ea := off) (size := size) hq (walked_xlate hx) hp
  exact ⟨fun ha => entry_of_retire hq hi' hs (walked_xlate hx) (hb.trans (hgo ha)), fun ha => stalls_of_issue _ hi' hs (hb.trans (hstall ha))⟩

/-- A store's entry, with the places of its tape record. -/
def stgStore (q : Seqr) (d : Reg) (ea : DWord) (size : Nat) (p : Page) (tape : List Nat) (s : State) : Res :=
  if !s.admits q false true [p.pa ea.toNat] then .stall
  else .retire (s.enqueue q [{ id := 0, kind := .stg size ((s.getS q d).toNat % 2 ^ (8 * size)), va := ea.toNat,
                               pa := p.pa ea.toNat, isSt := true, tape := tape }]).1

/-- What `STG` does with its page. -/
def stgOn (q : Seqr) (d : Reg) (ea : DWord) (size : Nat) (p : Page) (s : State) : Res :=
  if !p.d then stgStore q d ea size p [] s
  else if (s.thread q).modeRev then s.stgRev q d ea size p
  else s.tapeReserve q (if size = 4 then 1 else 2) ea.toNat (stgStore q d ea size p)

/-- The body of `STG`. -/
def stgBody (d a : Reg) (imm : BitVec 12) (size : Nat) (q : Seqr) (s : State) : Res :=
  s.ready q [srcS a, srcS d] [] (s.globalPage q (s.getS q a + sx64 imm) size false true (stgOn q d (s.getS q a + sx64 imm) size))

theorem stg_eq (size : Nat) : stg s d a imm size = issue s 1 .any (stgBody d a imm size) := rfl
theorem exec_stgW : exec (.stgW d a imm) s = stg s d a imm 4 := rfl
theorem exec_stgD : exec (.stgD d a imm) s = stg s d a imm 8 := rfl

theorem stg_body (hr : RegsReady s [srcS a, srcS d]) (size : Nat) : stgBody d a imm size s.cur (fresh s) =
    (fresh s).globalPage s.cur (s.getS s.cur a + BitVec.ofInt 64 imm.toInt) size false true
      (stgOn s.cur d (s.getS s.cur a + BitVec.ofInt 64 imm.toInt) size) := by
  rw [stgBody, fresh_ready (srcs := [srcS a, srcS d]) (dests := []) hr, fresh_getS]
  rfl

theorem getS_walked (hq : s.cur = .thread c x) {w : State} (hw : Walked (fresh s) w) (r : Reg) : w.getS (.thread c x) r = s.getS s.cur r := by
  obtain ⟨tl, n, rfl⟩ := hw
  rw [hq]
  rfl

theorem stgStore_enters {w : State} (hq : s.cur = .thread c x) (hw : Walked (fresh s) w) {ea : DWord} {size : Nat} {p : Page} (tape : List Nat) :
    (s.admits s.cur false true [p.pa ea.toNat] = true → stgStore (.thread c x) d ea size p tape w = .retire (enteredState w c x
      [{ id := 0, kind := .stg size ((s.getS s.cur d).toNat % 2 ^ (8 * size)), va := ea.toNat, pa := p.pa ea.toNat, isSt := true, tape := tape }]
      (emptied (s.prog s.cur) none))) ∧
    (s.admits s.cur false true [p.pa ea.toNat] = false → stgStore (.thread c x) d ea size p tape w = .stall) := by
  refine ⟨fun ha => ?_, fun ha => ?_⟩
  · rw [stgStore, if_neg (by rw [admits_walked hq hw, ha]; decide), getS_walked hq hw]
    exact congrArg Res.retire (enqueue_keeps hq hw _)
  · rw [stgStore, if_pos (by rw [admits_walked hq hw, ha]; rfl)]

/-- The whole of a store's issue off the D pages. -/
theorem stg_issues {i : Instr} {size : Nat} {p : Page} {s1 : State} (hi : exec i s = stg s d a imm size) (hq : s.cur = .thread c x)
    (hs : Stands s 1 .any) (hr : RegsReady s [srcS a, srcS d]) :
    let off := s.getS s.cur a + BitVec.ofInt 64 imm.toInt
    Checked s c i off size false true p s1 ∧
    (Good s c off size false true p s1 → p.leaf.testBit 20 = false →
      (s.admits s.cur false true [p.pa off.toNat] = true → Entry s c x i 1
        { id := 0, kind := .stg size ((s.getS s.cur d).toNat % 2 ^ (8 * size)), va := off.toNat, pa := p.pa off.toNat, isSt := true } none) ∧
      (s.admits s.cur false true [p.pa off.toNat] = false → Stalls i s)) := by
  intro off
  have hi' := hi.trans (stg_eq size)
  have hc : s.cur.core = c := by rw [hq]; rfl
  refine ⟨checks_of_global hi' hs (stg_body hr size) hc, fun ⟨h0, h57, hx, hg⟩ hp => ?_⟩
  have hb : stgBody d a imm size s.cur (fresh s) = stgStore (.thread c x) d off size p [] s1 :=
    (body_good (stg_body hr size) hc h0 h57 hx hg).trans ((congrArg (fun q => stgOn q d off size p s1) hq).trans
      (if_pos (by rw [show p.d = false from hp]; rfl)))
  obtain ⟨hgo, hstall⟩ := stgStore_enters (d := d) (ea := off) (size := size) (p := p) hq (walked_xlate hx) []
  exact ⟨fun ha => entry_of_retire hq hi' hs (walked_xlate hx) (hb.trans (hgo ha)), fun ha => stalls_of_issue _ hi' hs (hb.trans (hstall ha))⟩

/-! ### `LDL` and `STL` (R228) -/

/-- What `LDL` does with its page. -/
def ldlOn (q : Seqr) (av bv : DWord) (p : Page) (s : State) : Res :=
  if p.d && (s.thread q).modeRev then
    s.withPage q.core (cellVa p.esize av.toNat) true true fun cp s =>
      let line := s.spadRead q bv.toNat 128
      let as := cellAccs p cp av.toNat (fun i => .adjAdd cp.scale p.fmt (line / 2 ^ (8 * p.esize * i) % 2 ^ (8 * p.esize)))
      if !s.admits q false true (as.map (fun x => x.pa)) then .stall
      else
        let (s1, g) := (s.spadWrite q bv.toNat 128 0).enqueue q as
        s1.adjIssued q g
  else if !s.admits q true false [p.pa av.toNat] then .stall
  else .retire (s.enqueue q [{ id := 0, kind := .ldl bv.toNat, va := av.toNat, pa := p.pa av.toNat, isLd := true, dpage := p.d }]).1

/-- An `STL`'s entry, with the places of its tape record. -/
def stlStore (q : Seqr) (av bv : DWord) (p : Page) (tape : List Nat) (s : State) : Res :=
  if !s.admits q false true [p.pa av.toNat] then .stall
  else .retire (s.enqueue q [{ id := 0, kind := .stl ((s.core q.core).spad.readBytes bv.toNat 128), va := av.toNat, pa := p.pa av.toNat,
                               isSt := true, tape := tape }]).1

/-- What `STL` does with its page. -/
def stlOn (q : Seqr) (av bv : DWord) (p : Page) (s : State) : Res :=
  if !p.d then stlStore q av bv p [] s
  else if !(s.thread q).modeRev then s.tapeReserve q 3 av.toNat (stlStore q av bv p)
  else
    s.withPage q.core (cellVa p.esize av.toNat) true true fun cp s =>
      s.tapePop q 3 av.toNat fun old s =>
        let takes := cellAccs p cp av.toNat (fun i => .adjTake cp.scale p.fmt (s.thread q).mode5 (i * p.esize))
        if !s.admits q false true (p.pa av.toNat :: takes.map (fun x => x.pa)) then .stall
        else
          let (s1, g) := s.enqueue q (takes ++
            [{ id := 0, kind := .line bv.toNat (List.replicate 128 0) },
             { id := 0, kind := .restoreLine old, va := av.toNat, pa := p.pa av.toNat, isSt := true }])
          s1.adjIssued q g

/-- The body of `LDL` and of `STL`. -/
def lineBody (r w : Bool) (on : Seqr → DWord → DWord → Page → State → Res) (a b : Reg) (q : Seqr) (s : State) : Res :=
  s.ready q [srcS a, srcS b] [] (s.linePage q (s.getS q a) (s.getS q b) r w (on q (s.getS q a) (s.getS q b)))

theorem exec_ldl : exec (.ldl a b) s = issue s 1 .any (lineBody true false ldlOn a b) := rfl
theorem exec_stl : exec (.stl a b) s = issue s 1 .any (lineBody false true stlOn a b) := rfl

section Lines

variable {i : Instr} {r w : Bool} {on : Seqr → DWord → DWord → Page → State → Res} {p : Page} {s1 : State}

theorem line_body (hr : RegsReady s [srcS a, srcS b]) : lineBody r w on a b s.cur (fresh s) =
    (fresh s).linePage s.cur (s.getS s.cur a) (s.getS s.cur b) r w (on s.cur (s.getS s.cur a) (s.getS s.cur b)) := by
  rw [lineBody, fresh_ready (srcs := [srcS a, srcS b]) (dests := []) hr, fresh_getS, fresh_getS]

/-- The line waits for an earlier one, then goes on. -/
def onLine (q : Seqr) (bv : DWord) (k : Page → State → Res) (p : Page) (s : State) : Res :=
  if s.lineBusy q bv.toNat 128 then .stall else k p s

theorem line_body_placed (hr : RegsReady s [srcS a, srcS b]) (ha : (s.getS s.cur a).toNat % 128 = 0) (hb : (s.getS s.cur b).toNat % 128 = 0)
    (hb' : (s.getS s.cur b).toNat + 127 ≤ 0xBFFFF) : lineBody r w on a b s.cur (fresh s) =
      (fresh s).globalPage s.cur (s.getS s.cur a) 128 r w (onLine s.cur (s.getS s.cur b) (on s.cur (s.getS s.cur a) (s.getS s.cur b))) := by
  have hc : spadCheck (s.getS s.cur b) 128 = none := by
    rw [spadCheck, if_neg (by simp [hb]), if_neg (by rw [spadTop]; omega)]
  rw [line_body hr, State.linePage, if_neg (by simp [ha]), hc]
  rfl

theorem line_misplaced (hi : exec i s = issue s 1 .any (lineBody r w on a b)) (hs : Stands s 1 .any) (hr : RegsReady s [srcS a, srcS b]) :
    let av := s.getS s.cur a
    let bv := (s.getS s.cur b).toNat
    (av.toNat % 128 ≠ 0 → Traps i s .align av) ∧
    (av.toNat % 128 = 0 → bv % 128 ≠ 0 → Traps i s .align (s.getS s.cur b)) ∧
    (av.toNat % 128 = 0 → bv % 128 = 0 → 0xBFFFF < bv + 127 → Traps i s .spbound (s.getS s.cur b)) := by
  intro av bv
  refine ⟨fun h => ?_, fun h0 h => ?_, fun h0 h1 h => ?_⟩ <;> refine traps_of_issue _ hi hs ?_ <;> rw [line_body hr, State.linePage]
  · rw [if_pos h]
  · rw [if_neg (by simpa using h0), spadCheck, if_pos h]
  · rw [if_neg (by simpa using h0), spadCheck, if_neg (by simpa using h1), if_pos (by rw [spadTop]; omega)]

theorem lineBusy_walked (hq : s.cur = .thread c x) {w : State} (hw : Walked (fresh s) w) (n : Nat) :
    w.lineBusy (.thread c x) n 128 = s.lineBusy s.cur n 128 := by
  obtain ⟨tl, m, rfl⟩ := hw
  rw [hq]
  rfl

variable (hi : exec i s = issue s 1 .any (lineBody r w on a b)) (hq : s.cur = .thread c x) (hs : Stands s 1 .any)
  (hr : RegsReady s [srcS a, srcS b]) (hb : (s.getS s.cur b).toNat % 128 = 0) (hb' : (s.getS s.cur b).toNat + 127 ≤ 0xBFFFF)

include hi hq hs hr hb hb'

theorem line_checked : Checked s c i (s.getS s.cur a) 128 r w p s1 := by
  have hc : s.cur.core = c := by rw [hq]; rfl
  have hrest := fun ha => checks_of_global (p := p) (s1 := s1) hi hs (line_body_placed hr ha hb hb') hc
  exact ⟨(line_misplaced hi hs hr).1, fun ha => (hrest ha).2.1 ha, fun cs v ha => (hrest ha).2.2.1 cs v ha, fun ha => (hrest ha).2.2.2 ha⟩

omit hi hs in
theorem line_good (hg : Good s c (s.getS s.cur a) 128 r w p s1) : lineBody r w on a b s.cur (fresh s) =
    onLine (.thread c x) (s.getS s.cur b) (on (.thread c x) (s.getS s.cur a) (s.getS s.cur b)) p s1 := by
  obtain ⟨h0, h57, hx, hge⟩ := hg
  have hc : s.cur.core = c := by rw [hq]; rfl
  exact (body_good (line_body_placed hr h0 hb hb') hc h0 h57 hx hge).trans (by rw [← hq])

theorem line_waits (hg : Good s c (s.getS s.cur a) 128 r w p s1) (hl : s.lineBusy s.cur (s.getS s.cur b).toNat 128 = true) : Stalls i s := by
  refine stalls_of_issue _ hi hs ?_
  rw [line_good hq hr hb hb' hg, onLine, lineBusy_walked hq (walked_xlate hg.2.2.1), if_pos hl]

omit hi hs in
theorem line_free (hg : Good s c (s.getS s.cur a) 128 r w p s1) (hl : s.lineBusy s.cur (s.getS s.cur b).toNat 128 = false) :
    lineBody r w on a b s.cur (fresh s) = on (.thread c x) (s.getS s.cur a) (s.getS s.cur b) p s1 := by
  rw [line_good hq hr hb hb' hg, onLine, lineBusy_walked hq (walked_xlate hg.2.2.1), if_neg (by rw [hl]; decide)]

end Lines

theorem ldlOn_plain {w : State} (hq : s.cur = .thread c x) (hw : Walked (fresh s) w) {av bv : DWord} {p : Page}
    (hp : p.leaf.testBit 20 = false ∨ (s.ctx c x).modeRev = false) :
    (s.admits s.cur true false [p.pa av.toNat] = true → ldlOn (.thread c x) av bv p w = .retire (enteredState w c x
      [{ id := 0, kind := .ldl bv.toNat, va := av.toNat, pa := p.pa av.toNat, isLd := true, dpage := p.d }] (emptied (s.prog s.cur) none))) ∧
    (s.admits s.cur true false [p.pa av.toNat] = false → ldlOn (.thread c x) av bv p w = .stall) := by
  have hrev : ¬ (p.d && (w.thread (.thread c x)).modeRev) = true := by
    rw [modeRev_walked hw]
    rcases hp with h | h
    · rw [show p.d = false from h]; simp
    · rw [h]; simp
  refine ⟨fun ha => ?_, fun ha => ?_⟩
  · rw [ldlOn, if_neg hrev, if_neg (by rw [admits_walked hq hw, ha]; decide)]
    exact congrArg Res.retire (enqueue_keeps hq hw _)
  · rw [ldlOn, if_neg hrev, if_pos (by rw [admits_walked hq hw, ha]; rfl)]

theorem spad_walked {w : State} (hw : Walked (fresh s) w) : (w.core c).spad = (s.core c).spad := by
  obtain ⟨tl, n, rfl⟩ := hw
  rfl

theorem stlStore_enters {w : State} (hq : s.cur = .thread c x) (hw : Walked (fresh s) w) {av bv : DWord} {p : Page} (tape : List Nat) :
    (s.admits s.cur false true [p.pa av.toNat] = true → stlStore (.thread c x) av bv p tape w = .retire (enteredState w c x
      [{ id := 0, kind := .stl (Memory.readBytes (s.core c).spad bv.toNat 128), va := av.toNat, pa := p.pa av.toNat, isSt := true, tape := tape }]
      (emptied (s.prog s.cur) none))) ∧
    (s.admits s.cur false true [p.pa av.toNat] = false → stlStore (.thread c x) av bv p tape w = .stall) := by
  refine ⟨fun ha => ?_, fun ha => ?_⟩
  · rw [stlStore, if_neg (by rw [admits_walked hq hw, ha]; decide), show (w.core (Seqr.thread c x).core).spad = (s.core c).spad from spad_walked hw]
    exact congrArg Res.retire (enqueue_keeps hq hw _)
  · rw [stlStore, if_pos (by rw [admits_walked hq hw, ha]; rfl)]

/-! ### Atomics and `MARK` (R226, R229) -/

/-- What `GAMO` does with its page. -/
def gamoOn (q : Seqr) (d a b fn : Reg) (lw : LW) (p : Page) (s0 s : State) : Res :=
  if p.d then .trap .mode (s0.getS q a)
  else if !s.admits q (lw.y.getLsbD 0) true [p.pa (s0.getS q a).toNat] then .stall
  else
    let k : AccKind := .gamo d.toNat fn.toNat (GamoExt.op lw.y) ((s.getS q b).toNat % 2 ^ (8 * gamoSize fn.toNat))
      ((s.getS q lw.x).toNat % 2 ^ (8 * gamoSize fn.toNat)) (s.rm q lw.rm) p.scale (lw.y.getLsbD 1) (lw.y.getLsbD 0)
    let (s1, _) := s.enqueue q [{ id := 0, kind := k, va := (s0.getS q a).toNat, pa := p.pa (s0.getS q a).toNat, isLd := lw.y.getLsbD 0,
                                  isSt := true }]
    .retire (s1.setProg q ((s1.prog q).markEmpty d.toNat))

/-- The body of `GAMO`. -/
def gamoBody (d a b fn : Reg) (lw : LW) (q : Seqr) (s : State) : Res :=
  guarded lw q s (s.ready q [srcS a lw.ta, srcS b lw.tb, srcS lw.x lw.tc] [srcS d]
    (s.globalPage q (s.getS q a) (gamoSize fn.toNat) true true fun p s1 => gamoOn q d a b fn lw p s s1))

theorem exec_gamo : exec (.gamo d a b fn lw) s = issue s 2 .any (gamoBody d a b fn lw) := rfl

theorem gamo_body (hg : GuardOn s lw) (hr : RegsReady s [srcS a, srcS b, srcS lw.x, srcS d]) : gamoBody d a b fn lw s.cur (fresh s) =
    (fresh s).globalPage s.cur (s.getS s.cur a) (gamoSize fn.toNat) true true fun p s1 => gamoOn s.cur d a b fn lw p (fresh s) s1 := by
  rw [gamoBody, fresh_guarded hg, fresh_ready (srcs := [srcS a lw.ta, srcS b lw.tb, srcS lw.x lw.tc]) (dests := [srcS d])
    (regsReady_of_same hr rfl), fresh_getS]

/-- The access of an atomic. -/
def gamoAcc (s : State) (d a b fn : Reg) (lw : LW) (p : Page) : Machine.Acc where
  id := 0
  kind := .gamo d.toNat fn.toNat (lw.y.toNat / 4) ((s.getS s.cur b).toNat % 2 ^ (8 * gamoSize fn.toNat))
    ((s.getS s.cur lw.x).toNat % 2 ^ (8 * gamoSize fn.toNat)) (s.rm s.cur lw.rm) p.scale (lw.y.getLsbD 1) (lw.y.getLsbD 0)
  va := (s.getS s.cur a).toNat
  pa := p.pa (s.getS s.cur a).toNat
  isLd := lw.y.getLsbD 0
  isSt := true

theorem gamoOn_cases {w : State} (hq : s.cur = .thread c x) (hw : Walked (fresh s) w) {p : Page} :
    let av := s.getS s.cur a
    let rel := lw.y.getLsbD 0
    (p.leaf.testBit 20 = true → gamoOn s.cur d a b fn lw p (fresh s) w = .trap .mode av) ∧
    (p.leaf.testBit 20 = false → s.admits s.cur rel true [p.pa av.toNat] = false → gamoOn s.cur d a b fn lw p (fresh s) w = .stall) ∧
    (p.leaf.testBit 20 = false → s.admits s.cur rel true [p.pa av.toNat] = true → gamoOn s.cur d a b fn lw p (fresh s) w =
      .retire (enteredState w c x [gamoAcc s d a b fn lw p] (emptied (s.prog s.cur) (some d)))) := by
  intro av rel
  have hadm : w.admits s.cur rel true [p.pa av.toNat] = s.admits s.cur rel true [p.pa av.toNat] := by
    rw [← admits_walked hq hw, hq]
  refine ⟨fun hp => ?_, fun hp ha => ?_, fun hp ha => ?_⟩ <;> rw [gamoOn, fresh_getS]
  · exact if_pos hp
  · rw [if_neg (by rw [show p.d = false from hp]; decide), if_pos]
    rw [hadm, ha]; rfl
  · rw [if_neg (by rw [show p.d = false from hp]; decide), if_neg]
    · have hgS : ∀ r, w.getS s.cur r = s.getS s.cur r := fun r => by rw [← getS_walked hq hw r, hq]
      have hrm : w.rm s.cur lw.rm = s.rm s.cur lw.rm := by
        obtain ⟨tl, n, rfl⟩ := hw
        rw [hq]
        rfl
      rw [hgS, hgS, hrm]
      have he := enqueue_marks hq hw [gamoAcc s d a b fn lw p] d
      rw [← hq] at he
      exact congrArg Res.retire he
    · rw [hadm, ha]; decide

/-- The body of `MARK`. -/
def markBody (q : Seqr) (s : State) : Res :=
  if !s.admits q true false [] then .stall else .retire (s.enqueue q [{ id := 0, kind := .mark, isLd := true }]).1

theorem exec_mark : exec .mark s = issue s 1 .any markBody := rfl

theorem mark_issues (hq : s.cur = .thread c x) (hs : Stands s 1 .any) :
    (s.admits s.cur true false [] = true → Entry s c x .mark 1 { id := 0, kind := .mark, isLd := true } none) ∧
    (s.admits s.cur true false [] = false → Stalls .mark s) := by
  have ha' : (fresh s).admits s.cur true false [] = s.admits s.cur true false [] := by
    rw [hq]
    rfl
  refine ⟨fun ha => entry_of_retire hq exec_mark hs (.refl _) ?_, fun ha => stalls_of_issue _ exec_mark hs ?_⟩ <;> rw [markBody, ha', ha]
  · rw [hq]
    exact congrArg Res.retire ((enqueue_keeps hq (.refl _) _).trans (by rw [hq]))
  · rfl

/-! ### Fences (R230) -/

/-- The body of `FENCE`. -/
def fenceBody (scope : Nat) (q : Seqr) (s : State) : Res :=
  if (s.thread q).fenceDone scope then .retire (s.fencePass q scope) else .whole (s.holdOn q (.fence scope))

theorem exec_fence (imm24 : BitVec 24) : exec (.fence imm24) s = issue s 1 .any (fenceBody (imm24.toNat % 4)) := rfl

theorem fenceDone_iff (t : Ctx) (scope : Nat) : t.fenceDone scope = true ↔
    ∀ e, e ∈ t.accs → e.done = true ∨ scope = 0 ∧ (e.isPlainStore = true ∨ e.kind = .mark) := by
  simp only [Ctx.fenceDone, List.all_eq_true, Bool.or_eq_true, Bool.and_eq_true, decide_eq_true_eq, Acc.isMark, beq_iff_eq]

theorem fence_issues (hq : s.cur = .thread c x) (hs : Stands s 1 .any) (imm24 : BitVec 24) :
    ((s.ctx c x).fenceDone (imm24.toNat % 4) = true → Retires (.fence imm24) s 1 ((fresh s).fencePass s.cur (imm24.toNat % 4))) ∧
    ((s.ctx c x).fenceDone (imm24.toNat % 4) = false →
      exec (.fence imm24) s = .next ((fresh s).holdOn s.cur (.fence (imm24.toNat % 4)))) := by
  have ht : ((fresh s).thread s.cur).fenceDone (imm24.toNat % 4) = (s.ctx c x).fenceDone (imm24.toNat % 4) := by rw [hq]; rfl
  refine ⟨fun h => retires_of_issue _ (exec_fence imm24) hs ?_, fun h => whole_of_issue _ (exec_fence imm24) hs ?_⟩ <;>
    rw [fenceBody, ht, h]
  · exact if_pos rfl
  · exact if_neg (by decide)

/-! ### Room in the queues (R222, R224, R225, R244) -/

theorem permits_eq (s : State) (c slice : Nat) : s.permits c slice = ((s.mates c).map (fun k => (s.core k).permits slice)).sum := by
  unfold State.permits
  rw [← List.foldl_map (f := fun k => (s.core k).permits slice) (g := fun n k => n + k), List.sum_eq_foldl]

theorem admits_iff (ld st : Bool) (pas : List Nat) :
    let lines := (pas.map (fun pa => pa / 128)).eraseDups
    s.admits (.thread c x) ld st pas = true ↔ (ld = true → Machine.entriesOf (s.ctx c x).accs (fun a => a.isLd) < 32) ∧
      (st = true → Machine.entriesOf (s.ctx c x).accs (fun a => a.isSt) < 32) ∧
      ∀ l ∈ lines, ((s.mates c).map (fun k => (s.core k).permits (sliceOf (l * 128)))).sum +
        (lines.filter (fun m => sliceOf (m * 128) == sliceOf (l * 128))).length ≤ 16 := by
  intro lines
  have hld : (!ld || decide (Machine.entriesOf (s.ctx c x).accs (fun a => a.isLd) < 32)) = true ↔
      (ld = true → Machine.entriesOf (s.ctx c x).accs (fun a => a.isLd) < 32) := by cases ld <;> simp
  have hst : (!st || decide (Machine.entriesOf (s.ctx c x).accs (fun a => a.isSt) < 32)) = true ↔
      (st = true → Machine.entriesOf (s.ctx c x).accs (fun a => a.isSt) < 32) := by cases st <;> simp
  rw [← hld, ← hst]
  simp only [← permits_eq]
  unfold State.admits
  dsimp only
  rw [Bool.and_eq_true, Bool.and_eq_true, and_assoc, List.all_eq_true]
  simp only [decide_eq_true_eq]
  rfl

theorem sliceOf_eq (pa : Nat) : sliceOf pa = (pa / 128 / 2 ^ 0 % 64) ^^^ (pa / 128 / 2 ^ 6 % 64) ^^^ (pa / 128 / 2 ^ 12 % 64) ^^^
    (pa / 128 / 2 ^ 18 % 64) ^^^ (pa / 128 / 2 ^ 24 % 64) ^^^ (pa / 128 / 2 ^ 30 % 64) ^^^ (pa / 128 / 2 ^ 36 % 64) := by
  show (List.range 7).foldl (fun x k => x ^^^ (pa / 128 / 2 ^ (6 * k) % 64)) 0 = _
  simp [List.range_succ]

/-- Settles O31: the checks in their order, the entry that each access leaves, fences, and the room that an instruction needs. -/
theorem globalAccesses : Obligations.GlobalAccesses := by
  unfold Obligations.GlobalAccesses
  refine ⟨?_, ?_, sliceOf_eq⟩
  · intro s c x d a b fn imm lw p s1 hq n t off av bv dv xl enters checked good pa plain
    refine ⟨fun hs hr => ⟨fun v hv => ?_, fun v hv => ?_⟩, fun hs hr => ⟨fun i hi => ?_, fun hb hb' => ?_⟩, fun hs hg hr => ?_, fun hs => ?_⟩
    · rcases List.mem_cons.1 hv with rfl | hv
      · exact ldg_issues exec_ldgW hq hs hr
      · obtain rfl := List.mem_singleton.1 hv
        exact ldg_issues exec_ldgD hq hs hr
    · rcases List.mem_cons.1 hv with rfl | hv
      · exact stg_issues exec_stgW hq hs hr
      · obtain rfl := List.mem_singleton.1 hv
        exact stg_issues exec_stgD hq hs hr
    · rcases List.mem_cons.1 hi with rfl | hi
      · exact line_misplaced exec_ldl hs hr
      · obtain rfl := List.mem_singleton.1 hi
        exact line_misplaced exec_stl hs hr
    · refine ⟨line_checked exec_ldl hq hs hr hb hb', line_checked exec_stl hq hs hr hb hb', fun hg hl => line_waits exec_ldl hq hs hr hb hb' hg hl,
        fun hg hl hp ha => ?_, fun hg hl hp ha => ?_, fun hg hl hp ha => ?_, fun hg hl => line_waits exec_stl hq hs hr hb hb' hg hl,
        fun hg hl hp ha => ?_⟩
      · exact stalls_of_issue _ exec_ldl hs ((line_free hq hr hb hb' hg hl).trans ((ldlOn_plain hq (walked_xlate hg.2.2.1) hp).2 ha))
      · refine stalls_of_issue _ exec_stl hs ((line_free hq hr hb hb' hg hl).trans ?_)
        rw [stlOn, if_pos (by rw [show p.d = false from hp]; rfl)]
        exact (stlStore_enters hq (walked_xlate hg.2.2.1) []).2 ha
      · exact entry_of_retire hq exec_ldl hs (walked_xlate hg.2.2.1)
          ((line_free hq hr hb hb' hg hl).trans ((ldlOn_plain hq (walked_xlate hg.2.2.1) hp).1 ha))
      · refine entry_of_retire hq exec_stl hs (walked_xlate hg.2.2.1) ((line_free hq hr hb hb' hg hl).trans ?_)
        rw [stlOn, if_pos (by rw [show p.d = false from hp]; rfl)]
        exact (stlStore_enters hq (walked_xlate hg.2.2.1) []).1 ha
    · intro size rel
      have hc : s.cur.core = c := by rw [hq]; rfl
      refine ⟨checks_of_global exec_gamo hs (gamo_body hg hr) hc, fun ⟨h0, h57, hx, hge⟩ hp => ?_, fun ⟨h0, h57, hx, hge⟩ hp ha => ?_,
        fun ⟨h0, h57, hx, hge⟩ hp ha => ?_⟩
      · exact traps_of_issue _ exec_gamo hs ((body_good (gamo_body hg hr) hc h0 h57 hx hge).trans ((gamoOn_cases hq (walked_xlate hx)).1 hp))
      · exact stalls_of_issue _ exec_gamo hs
          ((body_good (gamo_body hg hr) hc h0 h57 hx hge).trans ((gamoOn_cases hq (walked_xlate hx)).2.1 hp ha))
      · exact entry_of_retire hq exec_gamo hs (walked_xlate hx)
          ((body_good (gamo_body hg hr) hc h0 h57 hx hge).trans ((gamoOn_cases hq (walked_xlate hx)).2.2 hp ha))
    · obtain ⟨hgo, hstall⟩ := mark_issues hq hs
      refine ⟨hgo, hstall, fun imm24 h0 => ?_, fun imm24 h0 => ?_⟩
      · obtain ⟨hdone, hwait⟩ := fence_issues hq hs imm24
        have hiff : t.fenceDone (imm24.toNat % 4) = true ↔ ∀ e, e ∈ t.accs → e.done = true := by
          rw [fenceDone_iff]
          simp [h0]
        rw [State.fencePass, if_neg h0] at hdone
        refine ⟨fun h => hdone (hiff.2 h), fun ⟨e, he, hd⟩ => hwait ?_⟩
        rw [← Bool.not_eq_true]
        intro hf
        rw [hiff.1 hf e he] at hd
        cases hd
      · intro t1
        obtain ⟨hdone, hwait⟩ := fence_issues hq hs imm24
        have hiff : t.fenceDone (imm24.toNat % 4) = true ↔ ∀ e, e ∈ t.accs → e.done = true ∨ e.isPlainStore = true ∨ e.kind = .mark := by
          rw [fenceDone_iff]
          simp [h0]
        rw [State.fencePass, if_pos h0, hq] at hdone
        refine ⟨fun h => hdone (hiff.2 h), fun ⟨e, he, hd, hp, hm⟩ => ?_⟩
        · rw [h0] at hwait
          refine hwait ?_
          rw [← Bool.not_eq_true, ← h0]
          intro hf
          rcases hiff.1 hf e he with h | h | h
          · rw [h] at hd; cases hd
          · rw [h] at hp; cases hp
          · exact hm h
  · intro s c x ld st pas accs entries holds cores held lines
    have hholds : ∀ a, holds a = a.usesPermit := fun a => by
      obtain ⟨id, kind, _⟩ := a
      cases kind <;> rfl
    have hheld : ∀ slice, held slice = ((s.mates c).map (fun k => (s.core k).permits slice)).sum := fun slice => by
      show ((cores.map _).sum) = _
      simp only [hholds]
      rfl
    simp only [hheld]
    exact admits_iff ld st pas

end Sys2Proof.Proofs.GlobalAccesses
end

section
/-! PROOFS. Accesses of cells and of differentiable pages perform (R231, R332, R333, R336, R337, R340, R341). -/

namespace Sys2Proof.Proofs.Cells

open Sys2Proof.Machine
open Sys2Proof.Safety
open Sys2Proof.Proofs.Transfers
open Sys2Proof.Proofs.Tokens
open Sys2Proof.Proofs.Traps
open Sys2Proof.Proofs.Streams
open Sys2Proof.Proofs.HostProtocol
open Sys2Proof.Proofs.Digests
open Sys2Proof.Proofs.Accesses
open Sys2Proof.Proofs.Performs

theorem exec_adjCellPerform (s : State) : exec .adjCellPerform s = execAdjCellPerform s := rfl

/-! ### The flags of a group and the instruction that it held (R337) -/

section Flags

variable {s u0 : State} {c x : Nat} {e : Machine.Acc} {f : Flags}

/-- The context's flags, enables, hold and count are those of another. -/
structure Same (t t0 : Ctx) : Prop where
  fsr  : t0.fsr = t.fsr
  fte  : t0.fte = t.fte
  hold : t0.prog.hold = t.prog.hold
  count : t0.instret = t.instret

theorem completed_count (t : Ctx) (a : Machine.Acc) (f : Flags) : (completed t a f).instret = t.instret ∧ (completed t a f).fte = t.fte :=
  ⟨(congrArg Ctx.instret (completed_rest t a f) :), (congrArg Ctx.fte (completed_rest t a f) :)⟩

/-- The thread goes on after its instruction has retired. -/
theorem retire_released (s : State) (c x : Nat) :
    let u := finish (.thread c x) (released s c x) 1 (.retire (released s c x))
    (u.prog (.thread c x)).hold = none ∧ (u.ctx c x).instret = (s.ctx c x).instret + 1 ∧ (u.ctx c x).fsr = (s.ctx c x).fsr := by
  intro u
  have hr : (released s c x).ctx c x = { s.ctx c x with prog := { (s.ctx c x).prog with hold := none } } := State.ctx_setCtx_self ..
  have hc : ((released s c x).countRetired (.thread c x)).ctx c x =
      { s.ctx c x with prog := { (s.ctx c x).prog with hold := none }, instret := (s.ctx c x).instret + 1 } :=
    (State.ctx_setCtx_self ..).trans (by rw [hr])
  have hu : u.ctx c x = { ((released s c x).countRetired (.thread c x)).ctx c x with
      prog := (((released s c x).countRetired (.thread c x)).ctx c x).prog.advance false (seqNext ((released s c x).prog (.thread c x)).pc 1) } :=
    State.ctx_setCtx_self ..
  refine ⟨?_, ?_, ?_⟩
  · show (u.ctx c x).prog.hold = none
    rw [hu, hc]
    exact (advance_rest _ _ _).2.2.2.1
  · rw [hu, hc]
  · rw [hu, hc]

theorem trap_released (s : State) (c x : Nat) :
    let m := ((released s c x).countRetired (.thread c x)).setProg (.thread c x) { afterHeld s c x with pend := none }
    (m.ctx c x).instret = (s.ctx c x).instret + 1 ∧ (m.ctx c x).fsr = (s.ctx c x).fsr := by
  intro m
  have hr : (released s c x).ctx c x = { s.ctx c x with prog := { (s.ctx c x).prog with hold := none } } := State.ctx_setCtx_self ..
  have hc : ((released s c x).countRetired (.thread c x)).ctx c x =
      { s.ctx c x with prog := { (s.ctx c x).prog with hold := none }, instret := (s.ctx c x).instret + 1 } :=
    (State.ctx_setCtx_self ..).trans (by rw [hr])
  have hm : m.ctx c x = { ((released s c x).countRetired (.thread c x)).ctx c x with prog := { afterHeld s c x with pend := none } } :=
    State.ctx_setCtx_self ..
  rw [hm, hc]
  exact ⟨rfl, rfl⟩

/-- The last action of a group: its flags reach `fsr`, and the thread that it held goes on or traps FPX. -/
theorem flags_finishAcc {t : Ctx} (ht : Same t (u0.ctx c x)) (hl : e.isLineWrite = false) (hrest : restOf (u0.ctx c x) e = []) :
    let u := u0.finishAcc c x e f
    let q := Seqr.thread c x
    let held : Prop := t.prog.hold = some (.adj e.group)
    let fl := e.flags ||| f
    let on := fl &&& t.fte.setWidth 8
    (¬ held ∨ on = 0 → (u.ctx c x).fsr = t.fsr ||| fl.setWidth 64) ∧
    (held → on = 0 → (u.prog q).hold = none ∧ (u.ctx c x).instret = t.instret + 1) ∧
    (held → on ≠ 0 → ∃ (m : State) (r : TrapReq), u = m.raise q r ∧ r.cause = .fpx ∧ r.val = on.setWidth 64 ∧
      (m.ctx c x).instret = t.instret + 1 ∧ (m.ctx c x).fsr = t.fsr ||| fl.setWidth 64) := by
  intro u q held fl on
  have hx : (u0.setCtx c x (completed (u0.ctx c x) e f)).ctx c x = completed (u0.ctx c x) e f := State.ctx_setCtx_self ..
  have hfsr : (completed (u0.ctx c x) e f).fsr = t.fsr ||| fl.setWidth 64 := by
    rw [completed_fsr _ e f hrest hl, ht.fsr]
    rfl
  have hen : (e.flags ||| f).enabled ((u0.setCtx c x (completed (u0.ctx c x) e f)).ctx c x).fte = on := by
    rw [hx, (completed_count _ _ _).2, ht.fte]
    rfl
  have hcount : ((u0.setCtx c x (completed (u0.ctx c x) e f)).ctx c x).instret = t.instret := by
    rw [hx, (completed_count _ _ _).1, ht.count]
  have hfsr' : ((u0.setCtx c x (completed (u0.ctx c x) e f)).ctx c x).fsr = t.fsr ||| fl.setWidth 64 := by rw [hx, hfsr]
  by_cases hheld : held
  · have hu : u = (u0.setCtx c x (completed (u0.ctx c x) e f)).adjRetire c x fl := by
      show u0.finishAcc c x e f = _
      rw [finishAcc_eq, if_pos ⟨hrest, ht.hold.trans hheld⟩]
    by_cases hon : on = 0
    · rw [adjRetire_quiet _ _ _ _ (hen.trans hon)] at hu
      obtain ⟨h1, h2, h3⟩ := retire_released (u0.setCtx c x (completed (u0.ctx c x) e f)) c x
      rw [hu]
      exact ⟨fun _ => h3.trans hfsr', fun _ _ => ⟨h1, h2.trans (by rw [hcount])⟩, fun _ h => absurd hon h⟩
    · rw [adjRetire_traps _ _ _ _ (fun h => hon (hen.symm.trans h))] at hu
      obtain ⟨h1, h2⟩ := trap_released (u0.setCtx c x (completed (u0.ctx c x) e f)) c x
      refine ⟨fun h => absurd (h.resolve_left (not_not.2 hheld)) hon, fun _ h => absurd h hon, fun _ _ => ⟨_, _, hu, rfl, ?_, h1.trans (by rw [hcount]),
        h2.trans hfsr'⟩⟩
      show zx64 ((e.flags ||| f).enabled _) = _
      rw [hen]
      rfl
  · have hu : u = u0.setCtx c x (completed (u0.ctx c x) e f) := finishAcc_unheld (fun h => hheld (ht.hold.symm.trans h)) f
    exact ⟨fun _ => by rw [hu]; exact hfsr', fun h => absurd h hheld, fun h => absurd h hheld⟩

end Flags

/-! ### Another access of a group that goes on -/

section Others

variable {t : Ctx} {e b : Machine.Acc} {f : Flags}

/-- Another access that is listed once stays, with its kind. -/
theorem completed_keeps (hs : t.accs.Pairwise (fun b b' => b.id ≠ b'.id)) (hne : restOf t e ≠ []) (hb : b ∈ t.accs) (hid : b.id ≠ e.id) :
    ∃ b', b' ∈ (completed t e f).accs ∧ b'.id = b.id ∧ b'.kind = b.kind := by
  obtain ⟨y, hy, g, ha⟩ | ⟨h, -⟩ := completed_accs t e f
  · rw [ha]
    have hb1 : b ∈ replaced t.accs (complete e) := mem_replaced_ne (complete e) hb hid
    by_cases hyb : b.id = y.id
    · obtain ⟨hym, -, -, hye⟩ := of_mem_restOf t e hy
      obtain ⟨z, hz, hze⟩ := List.mem_map.1 hym
      have hyt : y ∈ t.accs := by
        split at hze
        · exact absurd (by rw [← hze]; rfl) hye
        · exact hze ▸ hz
      have hnd : (t.accs.map Acc.id).Nodup := List.pairwise_map.2 hs
      have heq : b = y := List.inj_on_of_nodup_map hnd hb hyt hyb
      exact ⟨{ y with flags := g }, mem_replaced_self _ ⟨b, hb1, hyb⟩, hyb.symm, by rw [heq]⟩
    · exact ⟨b, mem_replaced_ne _ hb1 hyb, rfl, rfl⟩
  · exact absurd h hne

theorem restOf_ne_nil (hb : b ∈ t.accs) (hg : b.group = e.group) (hid : b.id ≠ e.id) (hd : b.done = false) : restOf t e ≠ [] :=
  List.ne_nil_of_mem (List.mem_filter.2 ⟨mem_replaced_ne (complete e) hb hid, by simp [hg, hd]⟩)

end Others

/-! ### What a write of HBM leaves -/

section Memory

variable {s u : State} {pa n v : Nat}

theorem readN_of_writes (h : Writes s u pa n v) : Memory.readN u.hbm pa n = v % 256 ^ n := by
  have hr : ∀ m a n, (∀ k, k < n → Memory.read m (a + k) = BitVec.ofNat 8 (v / 256 ^ k)) → Memory.readN m a n = v % 256 ^ n := fun m a n hk => by
    rw [← HostAccesses.natOfBytes_reads, HostAccesses.natOfBytes_congr hk, HostAccesses.natOfBytes_nat]
  exact hr _ _ _ h.1

theorem readN8_of_writes {d : DWord} (h : Writes s u pa 8 d.toNat) : Memory.readN u.hbm pa 8 = d.toNat := by
  rw [readN_of_writes h]
  exact Nat.mod_eq_of_lt d.isLt

end Memory

/-! ### Adds, takes and restoring stores (R231, R336) -/

section Cells

variable {s : State} {e : Machine.Acc}

theorem cellPerform_add {scale : Int} {fmt bits : Nat} (hp : s.performable = some e) (hk : e.kind = .adjAdd scale fmt bits) :
    exec .adjCellPerform s = .next ((s.hbmWriteN e.pa 8
      (fxAdd scale (BitVec.ofNat 64 (s.hbm.readN e.pa 8)) (readVal fmt bits).1).1.toNat).finishAcc s.target.core s.target.unit e
        ((readVal fmt bits).2 ||| (fxAdd scale (BitVec.ofNat 64 (s.hbm.readN e.pa 8)) (readVal fmt bits).1).2)) := by
  rw [exec_adjCellPerform]
  simp only [execAdjCellPerform, hp, hk]

/-- What a cell gives to an element. -/
def taken (s : State) (e : Machine.Acc) (scale : Int) (fmt : Nat) (rm : Rm) : Nat × Flags :=
  writeVal fmt rm true (.fin (fxExact scale (BitVec.ofNat 64 (s.hbm.readN e.pa 8))))

theorem cellPerform_take {scale : Int} {fmt : Nat} {rm : Rm} {off : Nat} (hp : s.performable = some e) (hk : e.kind = .adjTake scale fmt rm off) :
    exec .adjCellPerform s = .next (((s.hbmWriteN e.pa 8 0).giveCell s.target.core s.target.unit e fmt (taken s e scale fmt rm).1 off).finishAcc
      s.target.core s.target.unit e (taken s e scale fmt rm).2) := by
  rw [exec_adjCellPerform]
  simp only [execAdjCellPerform, hp, hk]
  rfl

theorem storePerform_restore {data reg : Nat} {v : DWord} (hp : s.performable = some e) (hk : e.kind = .restore data reg v) :
    exec .storePerform s = .next (((s.hbmWriteN e.pa 4 data).fillReg s.target.core s.target.unit reg v).finishAcc
      s.target.core s.target.unit e 0) := by
  rw [exec_storePerform]
  simp only [execStorePerform, hp, hk]

theorem storePerform_restoreLine {data : List Byte} (hp : s.performable = some e) (hk : e.kind = .restoreLine data) :
    exec .storePerform s = .next ((s.hbmWriteBytes e.pa data).finishAcc s.target.core s.target.unit e 0) := by
  rw [exec_storePerform]
  simp only [execStorePerform, hp, hk]

/-- An access of the group with the value that the cell gave. -/
def given (e : Machine.Acc) (fmt v off : Nat) (b : Machine.Acc) : Machine.Acc := if b.group = e.group then b.takeValue fmt v off else b

theorem takeValue_rest (b : Machine.Acc) (fmt v off : Nat) : { b.takeValue fmt v off with kind := b.kind } = b := by
  unfold Acc.takeValue
  split <;> rfl

theorem given_rest (b : Machine.Acc) (fmt v off : Nat) : { given e fmt v off b with kind := b.kind } = b := by
  unfold given
  split
  · exact takeValue_rest ..
  · rfl

theorem given_id (b : Machine.Acc) (fmt v off : Nat) : (given e fmt v off b).id = b.id := (congrArg Acc.id (given_rest b fmt v off) :)
theorem given_group (b : Machine.Acc) (fmt v off : Nat) : (given e fmt v off b).group = b.group := (congrArg Acc.group (given_rest b fmt v off) :)
theorem given_done (b : Machine.Acc) (fmt v off : Nat) : (given e fmt v off b).done = b.done := (congrArg Acc.done (given_rest b fmt v off) :)

theorem ctx_giveCell (u : State) (c x : Nat) (fmt v off : Nat) : (u.giveCell c x e fmt v off).ctx c x =
    { u.ctx c x with accs := (u.ctx c x).accs.map (given e fmt v off) } := State.ctx_setCtx_self ..

theorem elemToReg_eq (fmt v : Nat) : elemToReg fmt v = if fmt ≤ 6 ∧ fmt % 2 = 0 then BitVec.ofInt 64 (intOf (Fmt.width fmt) true v)
    else BitVec.ofNat 64 (v % 2 ^ Fmt.width fmt) := by
  unfold elemToReg
  refine if_congr ?_ rfl rfl
  simp only [Fmt.isSignedCode, Bool.or_eq_true, beq_iff_eq]
  omega

theorem getD_given {l v : List Byte} {off n k : Nat} (hl : l.length = 128) (hv : v.length = n) (ho : off + n ≤ 128) :
    (l.take off ++ v ++ l.drop (off + n)).getD k 0 = if off ≤ k ∧ k < off + n then v.getD (k - off) 0 else l.getD k 0 := by
  have h1 : (l.take off).length = off := by rw [List.length_take]; omega
  simp only [List.getD_eq_getElem?_getD]
  by_cases ha : k < off
  · rw [if_neg (by omega), List.append_assoc, List.getElem?_append_left (by omega), List.getElem?_take_of_lt ha]
  · by_cases hb : k < off + n
    · rw [if_pos ⟨by omega, hb⟩, List.append_assoc, List.getElem?_append_right (by omega), h1, List.getElem?_append_left (by omega)]
    · rw [if_neg (by omega), List.getElem?_append_right (by rw [List.length_append]; omega), List.length_append, h1, hv, List.getElem?_drop]
      congr 2
      omega

end Cells

/-! ### `ADJ.LD` and `ADJ.CLR` perform (R340, R341) -/

section Adjoints

variable {s : State} {e : Machine.Acc}

theorem loadPerform_cell {scale : Int} {fmt : Nat} {rm : Rm} {reg : Nat} (hp : s.performable = some e) (hk : e.kind = .adjRead scale fmt rm reg) :
    exec .loadPerform s = .next (s.adjRead s.target.core s.target.unit e) ∧
      exec .adjCellPerform s = .next (s.adjRead s.target.core s.target.unit e) := by
  rw [exec_loadPerform, exec_adjCellPerform]
  constructor
  · simp only [execLoadPerform, hp, hk]
  · simp only [execAdjCellPerform, hp, hk]

variable {c x : Nat}

theorem adjRead_fills {scale : Int} {fmt : Nat} {rm : Rm} {reg : Nat} (hk : e.kind = .adjRead scale fmt rm reg)
    (h : ¬ ((s.ctx c x).prog.hold = some (.adj e.group) ∧ (taken s e scale fmt rm).2.enabled (s.ctx c x).fte ≠ 0)) :
    s.adjRead c x e = (s.fillReg c x reg (elemToReg fmt (taken s e scale fmt rm).1)).finishAcc c x e (taken s e scale fmt rm).2 := by
  unfold State.adjRead
  simp only [hk]
  exact if_neg h

/-- The state in which an `ADJ.LD` traps FPX: its register full with its old value, its access complete. -/
def beforeFpx (s : State) (c x reg : Nat) (e : Machine.Acc) (f : Flags) : State :=
  let s1 := s.fillReg c x reg ((s.prog (.thread c x)).getS reg)
  (s1.setCtx c x { s1.ctx c x with prog := { (s1.ctx c x).prog with hold := none } }).finishAcc c x e f

theorem adjRead_traps {scale : Int} {fmt : Nat} {rm : Rm} {reg : Nat} (hk : e.kind = .adjRead scale fmt rm reg)
    (h : (s.ctx c x).prog.hold = some (.adj e.group) ∧ (taken s e scale fmt rm).2.enabled (s.ctx c x).fte ≠ 0) :
    s.adjRead c x e = (beforeFpx s c x reg e (taken s e scale fmt rm).2).raise (.thread c x)
      ⟨.fpx, zx64 ((taken s e scale fmt rm).2.enabled (s.ctx c x).fte), ((beforeFpx s c x reg e (taken s e scale fmt rm).2).prog (.thread c x)).pc,
        ((beforeFpx s c x reg e (taken s e scale fmt rm).2).prog (.thread c x)).pend⟩ := by
  unfold State.adjRead
  simp only [hk]
  exact if_pos h

theorem prog_beforeFpx (s : State) (c x reg : Nat) (e : Machine.Acc) (f : Flags) : (beforeFpx s c x reg e f).prog (.thread c x) =
    { (s.ctx c x).prog.fillS reg ((s.ctx c x).prog.getS reg) with hold := none } := by
  have h1 : (s.fillReg c x reg ((s.prog (.thread c x)).getS reg)).ctx c x =
      { s.ctx c x with prog := (s.ctx c x).prog.fillS reg ((s.ctx c x).prog.getS reg) } := State.ctx_setCtx_self ..
  have h2 : ((s.fillReg c x reg ((s.prog (.thread c x)).getS reg)).setCtx c x
      { (s.fillReg c x reg ((s.prog (.thread c x)).getS reg)).ctx c x with
        prog := { ((s.fillReg c x reg ((s.prog (.thread c x)).getS reg)).ctx c x).prog with hold := none } }).ctx c x =
      { s.ctx c x with prog := { (s.ctx c x).prog.fillS reg ((s.ctx c x).prog.getS reg) with hold := none } } :=
    (State.ctx_setCtx_self ..).trans (by rw [h1])
  show ((beforeFpx s c x reg e f).ctx c x).prog = _
  unfold beforeFpx
  dsimp only
  rw [finishAcc_unheld (by rw [h2]; simp), State.ctx_setCtx_self, completed_prog, h2]

theorem bytes_beforeFpx (s : State) (c x reg : Nat) (e : Machine.Acc) (f : Flags) : BytesSame s (beforeFpx s c x reg e f) :=
  bytesSame_trans (bytesSame_trans (bytesSame_setCtx ..) (bytesSame_setCtx ..)) (finishAcc_keeps ..).1

theorem pc_fillS (p : Prog) (reg : Nat) (v : DWord) : (p.fillS reg v).pc = p.pc ∧ (p.fillS reg v).pend = p.pend := by
  unfold Prog.fillS Prog.setS
  split <;> exact ⟨rfl, rfl⟩

/-- What `ADJ.CLR` still has to write after its next zero. -/
def restRuns (pa m : Nat) (r : List (Nat × Nat)) : List (Nat × Nat) := if m ≤ 1 then r else (pa + 8, m - 1) :: r

theorem cellPerform_clear {pa m : Nat} {r : List (Nat × Nat)} (hp : s.performable = some e) (hk : e.kind = .adjClear ((pa, m) :: r)) :
    exec .adjCellPerform s = .next (if (restRuns pa m r).isEmpty
      then (s.hbmWriteN pa 8 0).finishAcc s.target.core s.target.unit { e with kind := .adjClear (restRuns pa m r) } 0
      else (s.hbmWriteN pa 8 0).setAcc s.target.core s.target.unit { e with kind := .adjClear (restRuns pa m r) }) := by
  rw [exec_adjCellPerform]
  simp only [execAdjCellPerform, hp, hk]
  rfl

end Adjoints

/-! ### Tape records (R332, R333) -/

section Tape

variable {s : State} {c x : Nat} {e : Machine.Acc}

theorem natOfBytes_append (l m : List Byte) : natOfBytes (l ++ m) = natOfBytes l + 256 ^ l.length * natOfBytes m := by
  rw [natOfBytes_eq, natOfBytes_eq, natOfBytes_eq, List.map_append, Nat.ofDigits_append, List.length_map]

theorem natOfBytes_zeros (n : Nat) : natOfBytes (List.replicate n (0 : Byte)) = 0 := by
  induction n with
  | zero => rfl
  | succ n ih => rw [List.replicate_succ, natOfBytes, ih]; rfl

theorem natOfBytes_readBytes (m : Memory) (a n : Nat) : natOfBytes (m.readBytes a n) = Memory.readN m a n := by
  induction n generalizing a with
  | zero => rfl
  | succ n ih => rw [Memory.readBytes, natOfBytes, ih, Memory.readN]

theorem header_lt {kind : Nat} (hk : kind < 4) (va : Nat) : kind * 2 ^ 60 + va % 2 ^ 57 < 256 ^ 8 := by
  have h := Nat.mod_lt va (show 0 < 2 ^ 57 by decide)
  rw [show (256 : Nat) ^ 8 = 16 * 2 ^ 60 by decide]
  have h2 : (2 : Nat) ^ 57 ≤ 2 ^ 60 := by decide
  nlinarith

theorem record_short {kind va : Nat} {old : List Byte} (hk : kind < 3) (hl : old.length ≤ 8) :
    (tapeRecord kind va old).length = 16 ∧
      natOfBytes (tapeRecord kind va old) = natOfBytes old + 2 ^ (8 * 8) * (kind * 2 ^ 60 + va % 2 ^ 57) := by
  have hlen : (old ++ List.replicate (8 - old.length) (0 : Byte)).length = 8 := by
    rw [List.length_append, List.length_replicate]; omega
  unfold tapeRecord
  dsimp only
  rw [if_neg (by omega)]
  refine ⟨by rw [List.length_append, hlen, length_bytesOfNat], ?_⟩
  rw [natOfBytes_append, natOfBytes_append, natOfBytes_zeros, hlen, natOfBytes_bytesOfNat, Nat.mod_eq_of_lt (header_lt (by omega) va), Nat.mul_zero,
    Nat.add_zero]
  rfl

theorem record_line {va : Nat} {old : List Byte} (hl : old.length = 128) :
    (tapeRecord 3 va old).length = 144 ∧
      natOfBytes (tapeRecord 3 va old) = natOfBytes old + 2 ^ (8 * 136) * (3 * 2 ^ 60 + va % 2 ^ 57) := by
  have hlen : (old ++ List.replicate 8 (0 : Byte)).length = 136 := by
    rw [List.length_append, List.length_replicate]; omega
  unfold tapeRecord
  dsimp only
  rw [if_pos rfl]
  refine ⟨by rw [List.length_append, hlen, length_bytesOfNat], ?_⟩
  rw [natOfBytes_append, natOfBytes_append, natOfBytes_zeros, hlen, natOfBytes_bytesOfNat, Nat.mod_eq_of_lt (header_lt (by omega) va), Nat.mul_zero,
    Nat.add_zero, pow_bytes]

/-- The record that follows a store into the queue. -/
def recordAcc (s : State) (c : Nat) (e : Machine.Acc) (data : List Byte) : Machine.Acc :=
  { id := (s.core c).nextAcc, kind := .tapeWrite e.tape data, isSt := true, group := e.group, clock := e.clock, left := e.left, ahead := e.ahead }

/-- The queues with the record behind its store. -/
def followed (l : List Machine.Acc) (e w : Machine.Acc) : List Machine.Acc := (l.map (fun b => if b.id = e.id then [b, w] else [b])).flatten

theorem ctx_afterStore {kind : Nat} {old : List Byte} (ht : e.tape ≠ []) :
    (s.afterStore c x e kind old).ctx c x =
      { s.ctx c x with accs := followed (s.ctx c x).accs e (recordAcc s c e (tapeRecord kind e.va old)) } := by
  unfold State.afterStore
  rw [if_neg (by simpa using ht)]
  dsimp only
  rw [State.ctx_setCtx_self, Entries.ctx_nextAcc]
  rfl

theorem mem_followed {l : List Machine.Acc} {w b : Machine.Acc} : b ∈ followed l e w ↔ b ∈ l ∨ b = w ∧ ∃ z ∈ l, z.id = e.id := by
  unfold followed
  rw [List.mem_flatten]
  constructor
  · rintro ⟨m, hm, hb⟩
    obtain ⟨z, hz, rfl⟩ := List.mem_map.1 hm
    split at hb
    · next hid =>
      rcases List.mem_cons.1 hb with rfl | hb
      · exact .inl hz
      · exact .inr ⟨List.mem_singleton.1 hb, z, hz, hid⟩
    · exact .inl (List.mem_singleton.1 hb ▸ hz)
  · rintro (hb | ⟨rfl, z, hz, hid⟩)
    · refine ⟨_, List.mem_map.2 ⟨b, hb, rfl⟩, ?_⟩
      split
      · exact List.mem_cons_self
      · exact List.mem_singleton.2 rfl
    · refine ⟨_, List.mem_map.2 ⟨z, hz, rfl⟩, ?_⟩
      rw [if_pos hid]
      exact List.mem_cons_of_mem _ List.mem_cons_self

/-- A record with a fresh number stays behind its store when that completes. -/
theorem completed_follows {t : Ctx} {w : Machine.Acc} {f : Flags} (he : e ∈ t.accs) (hlt : ∀ b, b ∈ t.accs → b.id < w.id) (hg : w.group = e.group)
    (hd : w.done = false) :
    ∃ b, b ∈ (completed { t with accs := followed t.accs e w } e f).accs ∧ b.kind = w.kind ∧ b.performed = w.performed ∧ b.isSt = w.isSt ∧
      b.group = w.group := by
  have hne : w.id ≠ e.id := fun h => absurd (hlt e he) (by omega)
  have hmem : w ∈ followed t.accs e w := mem_followed.2 (.inr ⟨rfl, e, he, rfl⟩)
  have hw : w ∈ replaced (followed t.accs e w) (complete e) := mem_replaced_ne (complete e) hmem hne
  obtain ⟨y, hy, g, ha⟩ | ⟨h, -⟩ := completed_accs { t with accs := followed t.accs e w } e f
  · rw [ha]
    by_cases hyw : w.id = y.id
    · obtain ⟨hym, -, -, hye⟩ := of_mem_restOf _ e hy
      obtain ⟨z, hz, hze⟩ := List.mem_map.1 hym
      have hzw : y = w := by
        split at hze
        · exact absurd (by rw [← hze]; rfl) hye
        · subst hze
          rcases mem_followed.1 hz with hz | ⟨hz, -⟩
          · exact absurd (hlt z hz) (by omega)
          · exact hz
      subst hzw
      exact ⟨_, mem_replaced_self _ ⟨y, hw, rfl⟩, rfl, rfl, rfl, rfl⟩
    · exact ⟨w, mem_replaced_ne _ hw hyw, rfl, rfl, rfl, rfl⟩
  · exact absurd h (restOf_ne_nil (t := { t with accs := followed t.accs e w }) hmem hg hne hd)

theorem follows_store {u : State} {kind : Nat} {old : List Byte} (hu : (u.ctx c x) = s.ctx c x) (hn : (u.core c).nextAcc = (s.core c).nextAcc)
    (hheld : (s.ctx c x).prog.hold ≠ some (.adj e.group)) (ht : e.tape ≠ []) (he : e ∈ (s.ctx c x).accs)
    (hlt : ∀ b, b ∈ (s.ctx c x).accs → b.id < (s.core c).nextAcc) :
    ∃ b, b ∈ (((u.afterStore c x e kind old).finishAcc c x e 0).ctx c x).accs ∧ b.kind = .tapeWrite e.tape (tapeRecord kind e.va old) ∧
      b.performed = false ∧ b.isSt = true ∧ b.group = e.group := by
  have hctx := ctx_afterStore (s := u) (c := c) (x := x) (kind := kind) (old := old) ht
  rw [hu] at hctx
  rw [(finishAcc_keeps _ c x e 0).2, hctx]
  exact completed_follows (w := recordAcc u c e (tapeRecord kind e.va old)) he (fun b hb => (hlt b hb).trans_eq hn.symm) rfl rfl

/-- HBM once a record's parts of 16 bytes are written. -/
def tapeBytes : List Nat → List Byte → Memory → Memory
  | [], _, m => m
  | pa :: r, bs, m => tapeBytes r (bs.drop 16) (m.writeBytes pa (bs.take 16))

theorem writeTape_eq (pas : List Nat) (bs : List Byte) (s : State) : s.writeTape pas bs = { s with hbm := tapeBytes pas bs s.hbm } := by
  induction pas generalizing bs s with
  | nil => rfl
  | cons pa r ih => rw [State.writeTape, ih]; rfl

theorem read_tapeBytes_other {pas : List Nat} {k : Nat} (h : ∀ pa, pa ∈ pas → k < pa ∨ pa + 16 ≤ k) (bs : List Byte) {m : Memory} (hm : m.wf = true) :
    Memory.read (tapeBytes pas bs m) k = Memory.read m k := by
  induction pas generalizing bs m with
  | nil => rfl
  | cons pa r ih =>
    rw [tapeBytes, ih (fun p hp => h p (List.mem_cons_of_mem _ hp)) _ (Memory.wf_writeBytes _ _ _ hm), Memory.read_writeBytes _ _ _ _ hm, if_neg]
    have hl : (bs.take 16).length ≤ 16 := by rw [List.length_take]; omega
    have := h pa List.mem_cons_self
    omega

theorem read_tapeBytes {pas : List Nat} {bs : List Byte} (hl : bs.length = 16 * pas.length)
    (hd : ∀ i j, i < j → j < pas.length → pas.getD i 0 + 16 ≤ pas.getD j 0 ∨ pas.getD j 0 + 16 ≤ pas.getD i 0) {m : Memory} (hm : m.wf = true)
    {i k : Nat} (hi : i < pas.length) (hk : k < 16) : Memory.read (tapeBytes pas bs m) (pas.getD i 0 + k) = bs.getD (16 * i + k) 0 := by
  induction pas generalizing bs m i with
  | nil => exact absurd hi (Nat.not_lt_zero _)
  | cons pa r ih =>
    have hlr : (bs.drop 16).length = 16 * r.length := by rw [List.length_drop, hl, List.length_cons]; omega
    have ht : (bs.take 16).length = 16 := by rw [List.length_take, hl, List.length_cons]; omega
    cases i with
    | zero =>
      rw [tapeBytes, read_tapeBytes_other _ _ (Memory.wf_writeBytes _ _ _ hm)]
      · rw [Memory.read_writeBytes _ _ _ _ hm, if_pos, List.getD_cons_zero, Nat.add_sub_cancel_left, Nat.mul_zero, Nat.zero_add]
        · simp only [List.getD_eq_getElem?_getD, List.getElem?_take_of_lt hk]
        · rw [List.getD_cons_zero, ht]; omega
      · intro p hp
        obtain ⟨j, hj, rfl⟩ := List.mem_iff_getElem.1 hp
        have := hd 0 (j + 1) (by omega) (by rw [List.length_cons]; omega)
        rw [List.getD_cons_zero, List.getD_cons_succ, List.getD_eq_getElem _ _ hj] at this
        rw [List.getD_cons_zero]
        omega
    | succ i =>
      rw [tapeBytes, List.getD_cons_succ]
      rw [ih hlr (fun a b hab hb => by
        have := hd (a + 1) (b + 1) (by omega) (by rw [List.length_cons]; omega)
        rwa [List.getD_cons_succ, List.getD_cons_succ] at this) (Memory.wf_writeBytes _ _ _ hm) (by rw [List.length_cons] at hi; omega)]
      simp only [List.getD_eq_getElem?_getD, List.getElem?_drop]
      congr 2
      omega

end Tape

/-! ### What the statement says of each kind -/

section Kinds

variable {s : State} {e : Machine.Acc}

/-- What the last action of a group leaves, in the statement's words. -/
abbrev Flagged (s : State) (e : Machine.Acc) (u : State) (f : Flags) : Prop :=
  let c := s.target.core
  let x := s.target.unit
  let t := s.ctx c x
  let q := Seqr.thread c x
  let held : Prop := t.prog.hold = some (.adj e.group)
  (∀ b, b ∈ t.accs → b.group = e.group → b.id ≠ e.id → b.done = true) →
    let fl := e.flags ||| f
    let on := fl &&& t.fte.setWidth 8
    (¬ held ∨ on = 0 → (u.ctx c x).fsr = t.fsr ||| fl.setWidth 64) ∧
    (held → on = 0 → (u.prog q).hold = none ∧ (u.ctx c x).instret = t.instret + 1) ∧
    (held → on ≠ 0 → ∃ (m : State) (r : TrapReq), u = m.raise q r ∧ r.cause = .fpx ∧ r.val = on.setWidth 64 ∧ (m.ctx c x).instret = t.instret + 1 ∧
      (m.ctx c x).fsr = t.fsr ||| fl.setWidth 64)

theorem flagged_of {u0 : State} {f : Flags} (hl : e.isLineWrite = false) (ht : Same (s.ctx s.target.core s.target.unit) (u0.ctx s.target.core s.target.unit))
    (ha : ∀ b, b ∈ (u0.ctx s.target.core s.target.unit).accs → ∃ b0, b0 ∈ (s.ctx s.target.core s.target.unit).accs ∧ b0.id = b.id ∧
      b0.group = b.group ∧ b0.done = b.done) :
    Flagged s e (u0.finishAcc s.target.core s.target.unit e f) f := fun hlast =>
  flags_finishAcc ht hl (restOf_nil _ e fun b hb hg hid => by
    obtain ⟨b0, hb0, h1, h2, h3⟩ := ha b hb
    rw [← h3]
    exact hlast b0 hb0 (h2.trans hg) (h1 ▸ hid))

theorem same_refl (t : Ctx) : Same t t := ⟨rfl, rfl, rfl, rfl⟩

theorem flagged_same {u0 : State} {f : Flags} (hl : e.isLineWrite = false)
    (h : u0.ctx s.target.core s.target.unit = s.ctx s.target.core s.target.unit) :
    Flagged s e (u0.finishAcc s.target.core s.target.unit e f) f :=
  flagged_of hl (by rw [h]; exact same_refl _) fun b hb => ⟨b, h ▸ hb, rfl, rfl, rfl⟩

theorem flagged_fillReg {u0 : State} {f : Flags} {reg : Nat} {v : DWord} (hl : e.isLineWrite = false)
    (h : u0.ctx s.target.core s.target.unit = s.ctx s.target.core s.target.unit) :
    Flagged s e ((u0.fillReg s.target.core s.target.unit reg v).finishAcc s.target.core s.target.unit e f) f :=
  flagged_of hl (by rw [ctx_fillReg, h]; exact ⟨rfl, rfl, hold_fillS _ _ _, rfl⟩)
    fun b hb => ⟨b, by rw [ctx_fillReg, h] at hb; exact hb, rfl, rfl, rfl⟩

variable (hp : s.performable = some e) (hwf : s.hbm.wf = true)

include hp hwf

theorem add_performs {scale : Int} {fmt bits : Nat} (hk : e.kind = .adjAdd scale fmt bits) :
    let v := readVal fmt bits
    let old : DWord := BitVec.ofNat 64 (Memory.readN s.hbm e.pa 8)
    ∃ u, exec .adjCellPerform s = .next u ∧ Memory.readN u.hbm e.pa 8 = (fxAdd scale old v.1).1.toNat ∧
      (∀ k, k < e.pa ∨ e.pa + 8 ≤ k → Memory.read u.hbm k = Memory.read s.hbm k) ∧ Flagged s e u (v.2 ||| (fxAdd scale old v.1).2) := by
  intro v old
  have hw := writes_hbmWriteN (v := (fxAdd scale old v.1).1.toNat) (pa := e.pa) (n := 8) hwf
    (finishAcc_keeps _ s.target.core s.target.unit e (v.2 ||| (fxAdd scale old v.1).2)).1
  exact ⟨_, cellPerform_add hp hk, readN8_of_writes hw, hw.2.1, flagged_same (by simp [Acc.isLineWrite, hk]) rfl⟩

theorem take_performs {scale : Int} {fmt : Nat} {rm : Rm} {off : Nat} (hk : e.kind = .adjTake scale fmt rm off) :
    let c := s.target.core
    let x := s.target.unit
    let t := s.ctx c x
    let v := taken s e scale fmt rm
    let held : Prop := t.prog.hold = some (.adj e.group)
    let last : Prop := ∀ b, b ∈ t.accs → b.group = e.group → b.id ≠ e.id → b.done = true
    let single : Prop := t.accs.Pairwise (fun b b' => b.id ≠ b'.id)
    ∃ u, exec .adjCellPerform s = .next u ∧ Memory.readN u.hbm e.pa 8 = 0 ∧
      (∀ k, k < e.pa ∨ e.pa + 8 ≤ k → Memory.read u.hbm k = Memory.read s.hbm k) ∧
      (¬ held → ¬ last → single → ∀ b data reg w, b ∈ t.accs → b.group = e.group → b.id ≠ e.id → b.kind = .restore data reg w →
        ∃ b', b' ∈ (u.ctx c x).accs ∧ b'.id = b.id ∧ b'.kind = .restore data reg (elemToReg fmt v.1)) ∧
      (¬ held → ¬ last → single → ∀ b sp data, b ∈ t.accs → b.group = e.group → b.id ≠ e.id → b.kind = .line sp data → data.length = 128 →
        off + Fmt.width fmt / 8 ≤ 128 → ∃ b' data', b' ∈ (u.ctx c x).accs ∧ b'.id = b.id ∧ b'.kind = .line sp data' ∧
          data'.length = 128 ∧ ∀ k, k < 128 → data'.getD k 0 = if off ≤ k ∧ k < off + Fmt.width fmt / 8
            then BitVec.ofNat 8 (v.1 / 256 ^ (k - off)) else data.getD k 0) ∧
      Flagged s e u v.2 := by
  intro c x t v held last single
  have hctx : ((s.hbmWriteN e.pa 8 0).giveCell c x e fmt v.1 off).ctx c x = { t with accs := t.accs.map (given e fmt v.1 off) } :=
    ctx_giveCell ..
  have hw := writes_hbmWriteN (v := 0) (pa := e.pa) (n := 8) (u := ((s.hbmWriteN e.pa 8 0).giveCell c x e fmt v.1 off).finishAcc c x e v.2) hwf
    (bytesSame_trans (bytesSame_setCtx ..) (finishAcc_keeps _ c x e v.2).1)
  have haccs : ((((s.hbmWriteN e.pa 8 0).giveCell c x e fmt v.1 off).finishAcc c x e v.2).ctx c x).accs =
      (completed { t with accs := t.accs.map (given e fmt v.1 off) } e v.2).accs := by
    rw [(finishAcc_keeps _ c x e v.2).2, hctx]
  -- an access of the group goes on with the value
  have hgoes : ¬ last → single → ∀ b, b ∈ t.accs → b.group = e.group → b.id ≠ e.id →
      ∃ b', b' ∈ ((((s.hbmWriteN e.pa 8 0).giveCell c x e fmt v.1 off).finishAcc c x e v.2).ctx c x).accs ∧ b'.id = b.id ∧
        b'.kind = (b.takeValue fmt v.1 off).kind := fun hlast hsingle b hb hg hid => by
    have hne : restOf { t with accs := t.accs.map (given e fmt v.1 off) } e ≠ [] := by
      simp only [last, not_forall] at hlast
      obtain ⟨z, hz, hzg, hzid, hzd⟩ := hlast
      exact restOf_ne_nil (List.mem_map.2 ⟨z, hz, rfl⟩) ((given_group ..).trans hzg) (by rw [given_id]; exact hzid)
        (by rw [given_done]; simpa using hzd)
    have hs' : (t.accs.map (given e fmt v.1 off)).Pairwise (fun b b' => b.id ≠ b'.id) :=
      List.pairwise_map.2 (hsingle.imp fun h => by rw [given_id, given_id]; exact h)
    obtain ⟨b', hb', h1, h2⟩ := completed_keeps (f := v.2) hs' hne (List.mem_map.2 ⟨b, hb, rfl⟩) (by rw [given_id]; exact hid)
    refine ⟨b', haccs ▸ hb', h1.trans (given_id ..), h2.trans ?_⟩
    rw [given, if_pos hg]
  refine ⟨_, cellPerform_take hp hk, (readN_of_writes hw).trans (Nat.zero_mod _), hw.2.1, fun _ hlast hsingle b data reg w hb hg hid hbk => ?_,
    fun _ hlast hsingle b sp data hb hg hid hbk hlen hoff => ?_, ?_⟩
  · obtain ⟨b', hb', h1, h2⟩ := hgoes hlast hsingle b hb hg hid
    exact ⟨b', hb', h1, h2.trans (by simp only [Acc.takeValue, hbk])⟩
  · obtain ⟨b', hb', h1, h2⟩ := hgoes hlast hsingle b hb hg hid
    have hv : (bytesOfNat (Fmt.width fmt / 8) v.1).length = Fmt.width fmt / 8 := length_bytesOfNat ..
    refine ⟨b', data.take off ++ bytesOfNat (Fmt.width fmt / 8) v.1 ++ data.drop (off + Fmt.width fmt / 8), hb', h1,
      h2.trans (by simp only [Acc.takeValue, hbk]), ?_, fun k hk128 => ?_⟩
    · rw [List.length_append, List.length_append, List.length_take, List.length_drop, hv]; omega
    · rw [getD_given hlen hv hoff]
      split
      · next h => exact Sha.getD_bytesOfNat v.1 (by omega)
      · rfl
  · refine flagged_of (by simp [Acc.isLineWrite, hk]) ?_ fun b hb => ?_
    · rw [hctx]; exact ⟨rfl, rfl, rfl, rfl⟩
    · rw [hctx] at hb
      obtain ⟨b0, hb0, rfl⟩ := List.mem_map.1 hb
      exact ⟨b0, hb0, (given_id ..).symm, (given_group ..).symm, (given_done ..).symm⟩

theorem restore_performs {data reg : Nat} {v : DWord} (hk : e.kind = .restore data reg v) (h64 : reg < 64)
    (hheld : (s.ctx s.target.core s.target.unit).prog.hold ≠ some (.adj e.group)) :
    ∃ u, exec .storePerform s = .next u ∧ (∀ k, k < 4 → Memory.read u.hbm (e.pa + k) = BitVec.ofNat 8 (data / 256 ^ k)) ∧
      (∀ k, k < e.pa ∨ e.pa + 4 ≤ k → Memory.read u.hbm k = Memory.read s.hbm k) ∧
      (u.prog (.thread s.target.core s.target.unit)).getS reg = (if reg = 0 then 0 else v) ∧
      (u.prog (.thread s.target.core s.target.unit)).isEmptyS reg = false ∧ Flagged s e u 0 := by
  have hw := writes_hbmWriteN (pa := e.pa) (n := 4) hwf (bytesSame_filled (s := s.hbmWriteN e.pa 4 data) (c := s.target.core) (x := s.target.unit)
    (reg := reg) (a := e) v 0)
  obtain ⟨h1, h2, -⟩ := fills_finishAcc (s := s.hbmWriteN e.pa 4 data) (c := s.target.core) (x := s.target.unit) (a := e) v 0 hheld h64
  exact ⟨_, storePerform_restore hp hk, hw.1, hw.2.1, h1, h2, flagged_fillReg (by simp [Acc.isLineWrite, hk]) rfl⟩

theorem restoreLine_performs {data : List Byte} (hk : e.kind = .restoreLine data) (hl : data.length = 128) :
    ∃ u, exec .storePerform s = .next u ∧ (∀ k, k < 128 → Memory.read u.hbm (e.pa + k) = data.getD k 0) ∧
      (∀ k, k < e.pa ∨ e.pa + 128 ≤ k → Memory.read u.hbm k = Memory.read s.hbm k) ∧ Flagged s e u 0 := by
  have hw := writes_hbmWriteBytes (pa := e.pa) (bs := data) hwf (finishAcc_keeps _ s.target.core s.target.unit e 0).1
  rw [hl] at hw
  exact ⟨_, storePerform_restoreLine hp hk, fun k hk' => (hw.1 k hk').trans (getD_eq_digit data (hl.symm ▸ hk')).symm, hw.2.1,
    flagged_same (by simp [Acc.isLineWrite, hk]) rfl⟩

omit hwf in
theorem read_performs {scale : Int} {fmt : Nat} {rm : Rm} {reg : Nat} (hk : e.kind = .adjRead scale fmt rm reg) (h64 : reg < 64) :
    let c := s.target.core
    let x := s.target.unit
    let q := Seqr.thread c x
    let t := s.ctx c x
    let held : Prop := t.prog.hold = some (.adj e.group)
    let v := taken s e scale fmt rm
    let on := v.2 &&& t.fte.setWidth 8
    ∃ u, exec .adjCellPerform s = .next u ∧ exec .loadPerform s = .next u ∧ (∀ k, Memory.read u.hbm k = Memory.read s.hbm k) ∧
      (held → on ≠ 0 → ∃ (m : State) (r : TrapReq), u = m.raise q r ∧ r = ⟨.fpx, on.setWidth 64, t.prog.pc, t.prog.pend⟩ ∧
        (m.prog q).getS reg = (s.prog q).getS reg ∧ (m.prog q).isEmptyS reg = false) ∧
      (¬ held → (u.prog q).getS reg = (if reg = 0 then 0 else elemToReg fmt v.1) ∧ (u.prog q).isEmptyS reg = false ∧ Flagged s e u v.2) := by
  intro c x q t held v on
  obtain ⟨hload, hcell⟩ := loadPerform_cell hp hk
  refine ⟨_, hcell, hload, ?_⟩
  by_cases h : held ∧ on ≠ 0
  · have hprog := prog_beforeFpx s c x reg e v.2
    have hget : ((s.ctx c x).prog.fillS reg ((s.ctx c x).prog.getS reg)).getS reg = (s.prog q).getS reg := by
      rw [(fillS_reads _ _ h64).1]
      split
      · next h0 => subst h0; rfl
      · rfl
    rw [adjRead_traps hk h]
    refine ⟨((raise_keeps _ c x _).1.hbm · |>.trans ((bytes_beforeFpx s c x reg e v.2).hbm _)), fun _ _ => ⟨_, _, rfl, ?_, ?_, ?_⟩,
      fun hn => absurd h.1 hn⟩
    · rw [hprog, (pc_fillS _ _ _).1, (pc_fillS _ _ _).2]
      rfl
    · rw [hprog]; exact hget
    · rw [hprog]; exact (fillS_reads (s.ctx c x).prog ((s.ctx c x).prog.getS reg) h64).2
  · rw [adjRead_fills hk h]
    refine ⟨(bytesSame_filled _ _).hbm, fun h1 h2 => absurd ⟨h1, h2⟩ h, fun hn => ?_⟩
    obtain ⟨h1, h2, -⟩ := fills_finishAcc (s := s) (c := c) (x := x) (a := e) (elemToReg fmt v.1) v.2 hn h64
    exact ⟨h1, h2, flagged_fillReg (by simp [Acc.isLineWrite, hk]) rfl⟩

theorem clear_performs {pa m : Nat} {r : List (Nat × Nat)} (hk : e.kind = .adjClear ((pa, m) :: r)) :
    ∃ u, exec .adjCellPerform s = .next u ∧ Memory.readN u.hbm pa 8 = 0 ∧
      (∀ k, k < pa ∨ pa + 8 ≤ k → Memory.read u.hbm k = Memory.read s.hbm k) ∧
      (2 ≤ m → ∃ b, b ∈ (u.ctx s.target.core s.target.unit).accs ∧ b.id = e.id ∧ b.performed = false ∧
        b.kind = .adjClear ((pa + 8, m - 1) :: r)) := by
  obtain ⟨hf, hwait⟩ := mem_of_performable hp
  have hnp : e.performed = false := by
    unfold State.accWaits at hwait
    simp only [Bool.or_eq_false_iff] at hwait
    exact hwait.1.1
  refine ⟨_, cellPerform_clear hp hk, ?_⟩
  by_cases hr : (restRuns pa m r).isEmpty = true
  · have hw := writes_hbmWriteN (v := 0) (pa := pa) (n := 8) hwf
      (finishAcc_keeps _ s.target.core s.target.unit { e with kind := .adjClear (restRuns pa m r) } 0).1
    rw [if_pos hr]
    refine ⟨(readN_of_writes hw).trans (Nat.zero_mod _), hw.2.1, fun h2 => ?_⟩
    rw [restRuns, if_neg (by omega)] at hr
    cases hr
  · have hw := writes_hbmWriteN (v := 0) (pa := pa) (n := 8) (u := (s.hbmWriteN pa 8 0).setAcc s.target.core s.target.unit
      { e with kind := .adjClear (restRuns pa m r) }) hwf (bytesSame_setCtx ..)
    rw [if_neg hr]
    refine ⟨(readN_of_writes hw).trans (Nat.zero_mod _), hw.2.1, fun h2 => ⟨{ e with kind := .adjClear (restRuns pa m r) }, ?_, rfl, hnp, ?_⟩⟩
    · rw [setAcc_eq, State.ctx_setCtx_self]
      exact mem_replaced_self _ ⟨e, List.mem_of_find?_eq_some hf, rfl⟩
    · show AccKind.adjClear (restRuns pa m r) = _
      rw [restRuns, if_neg (by omega)]

omit hwf in
/-- A store's record follows it. -/
theorem store_follows (hheld : (s.ctx s.target.core s.target.unit).prog.hold ≠ some (.adj e.group)) (ht : e.tape ≠ [])
    (hlt : ∀ b, b ∈ (s.ctx s.target.core s.target.unit).accs → b.id < (s.core s.target.core).nextAcc)
    (he : e ∈ (s.ctx s.target.core s.target.unit).accs) :
    let follows (u : State) (kind len n : Nat) : Prop := ∃ b data, b ∈ (u.ctx s.target.core s.target.unit).accs ∧ b.kind = .tapeWrite e.tape data ∧
      b.performed = false ∧ b.isSt = true ∧ b.group = e.group ∧ data.length = len ∧
      natOfBytes data = Memory.readN s.hbm e.pa n + 2 ^ (8 * (len - 8)) * (kind * 2 ^ 60 + e.va % 2 ^ 57)
    (∀ w, e.kind = .stg 4 w → ∃ u, exec .storePerform s = .next u ∧ follows u 1 16 4) ∧
    (∀ w, e.kind = .stg 8 w → ∃ u, exec .storePerform s = .next u ∧ follows u 2 16 8) ∧
    (∀ data, e.kind = .stl data → ∃ u, exec .storePerform s = .next u ∧ follows u 3 144 128) := by
  intro follows
  refine ⟨fun w hk => ⟨_, storePerform_store hp hk, ?_⟩, fun w hk => ⟨_, storePerform_store hp hk, ?_⟩, fun data hk => ⟨_, storePerform_line hp hk, ?_⟩⟩
  · obtain ⟨b, hb, h1, h2, h3, h4⟩ := follows_store (s := s) (u := s.hbmWriteN e.pa 4 w) (c := s.target.core) (x := s.target.unit) (kind := 1)
      (old := s.hbm.readBytes e.pa 4) rfl rfl hheld ht he hlt
    obtain ⟨hl, hn⟩ := record_short (kind := 1) (va := e.va) (old := s.hbm.readBytes e.pa 4) (by decide) (by rw [length_readBytes]; decide)
    exact ⟨b, _, hb, h1, h2, h3, h4, hl, hn.trans (by rw [natOfBytes_readBytes])⟩
  · obtain ⟨b, hb, h1, h2, h3, h4⟩ := follows_store (s := s) (u := s.hbmWriteN e.pa 8 w) (c := s.target.core) (x := s.target.unit) (kind := 2)
      (old := s.hbm.readBytes e.pa 8) rfl rfl hheld ht he hlt
    obtain ⟨hl, hn⟩ := record_short (kind := 2) (va := e.va) (old := s.hbm.readBytes e.pa 8) (by decide) (by rw [length_readBytes])
    exact ⟨b, _, hb, h1, h2, h3, h4, hl, hn.trans (by rw [natOfBytes_readBytes])⟩
  · obtain ⟨b, hb, h1, h2, h3, h4⟩ := follows_store (s := s) (u := s.hbmWriteBytes e.pa data) (c := s.target.core) (x := s.target.unit) (kind := 3)
      (old := s.hbm.readBytes e.pa 128) rfl rfl hheld ht he hlt
    obtain ⟨hl, hn⟩ := record_line (va := e.va) (old := s.hbm.readBytes e.pa 128) (length_readBytes ..)
    exact ⟨b, _, hb, h1, h2, h3, h4, hl, hn.trans (by rw [natOfBytes_readBytes])⟩

theorem record_performs {pas : List Nat} {data : List Byte} (hk : e.kind = .tapeWrite pas data) (hl : data.length = 16 * pas.length)
    (hd : ∀ i j, i < j → j < pas.length → pas.getD i 0 + 16 ≤ pas.getD j 0 ∨ pas.getD j 0 + 16 ≤ pas.getD i 0) :
    ∃ u, exec .storePerform s = .next u ∧
      (∀ i k, i < pas.length → k < 16 → Memory.read u.hbm (pas.getD i 0 + k) = data.getD (16 * i + k) 0) ∧
      ∀ k, (∀ pa, pa ∈ pas → k < pa ∨ pa + 16 ≤ k) → Memory.read u.hbm k = Memory.read s.hbm k := by
  have hx : exec .storePerform s = .next ((s.writeTape pas data).finishAcc s.target.core s.target.unit e 0) := by
    rw [exec_storePerform]
    simp only [execStorePerform, hp, hk]
  have hb := (finishAcc_keeps (s.writeTape pas data) s.target.core s.target.unit e 0).1.hbm
  rw [writeTape_eq] at hb hx
  exact ⟨_, hx, fun i k hi hk => (hb _).trans (read_tapeBytes hl hd hwf hi hk), fun k h => (hb k).trans (read_tapeBytes_other h data hwf)⟩

end Kinds

end Sys2Proof.Proofs.Cells
end

section
/-! PROOFS. What an instruction of a D page does before its accesses enter: its tape record is reserved or popped, and the queues have room
(R224, R333, R334, R337). -/

namespace Sys2Proof.Proofs.Tapes

open Sys2Proof.Machine
open Sys2Proof.Safety
open Sys2Proof.Proofs.Transfers
open Sys2Proof.Proofs.Traps
open Sys2Proof.Proofs.Tokens
open Sys2Proof.Proofs.Return
open Sys2Proof.Proofs.Groups
open Sys2Proof.Proofs.Digests
open Sys2Proof.Proofs.Accesses
open Sys2Proof.Proofs.Entries
open Sys2Proof.Proofs.GlobalAccesses
open Sys2Proof.Proofs.Cells

/-! ### Permits do not depend on what else a context holds -/

section Permits

variable {α : Type} [BEq α] [LawfulBEq α]

theorem nodup_eraseDups (l : List α) : l.eraseDups.Nodup := by
  induction h : l.length using Nat.strong_induction_on generalizing l with
  | _ n ih =>
    cases l with
    | nil => exact List.nodup_nil
    | cons a l =>
      rw [List.eraseDups_cons, List.nodup_cons]
      refine ⟨fun hm => ?_, ih _ ?_ _ rfl⟩
      · rw [List.mem_eraseDups, List.mem_filter] at hm
        simp at hm
      · rw [← h, List.length_cons]
        exact Nat.lt_succ_of_le (List.length_filter_le _ _)

theorem length_eraseDups_congr {l m : List α} (h : ∀ a, a ∈ l ↔ a ∈ m) : l.eraseDups.length = m.eraseDups.length :=
  ((List.perm_ext_iff_of_nodup (nodup_eraseDups l) (nodup_eraseDups m)).2 fun a => by
    rw [List.mem_eraseDups, List.mem_eraseDups]; exact h a).length_eq

omit [BEq α] [LawfulBEq α] in
/-- A value set in a map adds nothing where it gives what the value before it gave. -/
theorem mem_flatten_set {m : SMap Ctx} {x : Nat} {t : Ctx} {f : Ctx → List α} (h : f t = f (SMap.get {} m x)) (h0 : f {} = []) (a : α) :
    a ∈ ((SMap.set m x t).map (fun e => f e.2)).flatten ↔ a ∈ (m.map (fun e => f e.2)).flatten := by
  have hget : ∀ m : SMap Ctx, a ∈ f (SMap.get {} m x) → a ∈ (m.map (fun e => f e.2)).flatten := fun m => by
    induction m with
    | nil => intro hm; rw [SMap.get, h0] at hm; cases hm
    | cons p r ih =>
      intro hm
      rw [SMap.get] at hm
      rw [List.map_cons, List.flatten_cons, List.mem_append]
      split at hm
      · exact .inl hm
      · exact .inr (ih hm)
  induction m with
  | nil =>
    rw [SMap.set, List.map_singleton, List.flatten_singleton]
    dsimp only
    rw [h]
    exact ⟨hget [], fun h => by cases h⟩
  | cons p r ih =>
    obtain ⟨k, v⟩ := p
    rw [SMap.set]
    split
    · next hk =>
      rw [List.map_cons, List.map_cons, List.flatten_cons, List.flatten_cons, h, SMap.get, if_pos hk.symm]
    · next hk =>
      split
      · rw [List.map_cons, List.flatten_cons, List.mem_append]
        dsimp only
        rw [h]
        exact ⟨fun hm => hm.elim (hget _) id, .inr⟩
      · rw [SMap.get, if_neg (Ne.symm hk)] at h
        rw [List.map_cons, List.map_cons, List.flatten_cons, List.flatten_cons, List.mem_append, List.mem_append]
        exact or_congr_right (ih h)

end Permits

section Room

variable {s : State} {c x : Nat} {t : Ctx}

theorem permits_setCtx (h : t.accs = (s.ctx c x).accs) (k slice : Nat) : ((s.setCtx c x t).core k).permits slice = (s.core k).permits slice := by
  rw [State.core_setCtx]
  split
  · next hk =>
    subst hk
    refine length_eraseDups_congr fun a => ?_
    exact mem_flatten_set (f := fun u : Ctx => (u.accs.filter (fun a => a.usesPermit && sliceOf a.pa == slice)).map (fun a => (a.group, a.pa / 128)))
      (congrArg (fun l : List Machine.Acc => (l.filter (fun a => a.usesPermit && sliceOf a.pa == slice)).map (fun a => (a.group, a.pa / 128))) h) rfl a
  · rfl

theorem admits_setCtx (h : t.accs = (s.ctx c x).accs) (ld st : Bool) (pas : List Nat) :
    (s.setCtx c x t).admits (.thread c x) ld st pas = s.admits (.thread c x) ld st pas := by
  have hacc : ((s.setCtx c x t).thread (.thread c x)).accs = (s.thread (.thread c x)).accs := by
    show ((s.setCtx c x t).ctx c x).accs = (s.ctx c x).accs
    rw [State.ctx_setCtx_self, h]
  have hperm : ∀ slice, (s.setCtx c x t).permits c slice = s.permits c slice := fun slice => by
    unfold State.permits
    simp only [permits_setCtx h]
    rfl
  unfold State.admits
  simp only [hacc]
  simp only [show ∀ slice, (s.setCtx c x t).permits (Seqr.thread c x).core slice = s.permits (Seqr.thread c x).core slice from hperm]

end Room

/-! ### The state in which the accesses enter -/

section Base

variable {s w : State} {c x : Nat} {d a b : Reg} {tp : DWord}

/-- The machine differs from the state at issue in its translation caches and in the thread's tape pointer alone. -/
def Taped (s : State) (c x : Nat) (tp : DWord) (w : State) : Prop :=
  ∃ u, Walked (fresh s) u ∧ w = u.setCtx c x { u.ctx c x with tapeptr := tp }

theorem Taped.ctx (h : Taped s c x tp w) : w.ctx c x = { s.ctx c x with tapeptr := tp } := by
  obtain ⟨u, ⟨tl, n, rfl⟩, rfl⟩ := h
  exact State.ctx_setCtx_self ..

theorem Taped.bytes (h : Taped s c x tp w) : BytesSame s w := by
  obtain ⟨u, ⟨tl, n, rfl⟩, rfl⟩ := h
  exact bytesSame_trans (t := ({ fresh s with tlbs := tl, draws := n } : State)) ⟨fun _ => rfl, fun _ => rfl, fun _ _ => rfl, fun _ _ => rfl⟩
    (bytesSame_setCtx ..)

theorem Taped.next (h : Taped s c x tp w) : (w.core c).nextAcc = (s.core c).nextAcc := by
  obtain ⟨u, ⟨tl, n, rfl⟩, rfl⟩ := h
  rw [State.core_setCtx, if_pos rfl]
  rfl

theorem Taped.now (h : Taped s c x tp w) : w.now = s.now := by
  obtain ⟨u, ⟨tl, n, rfl⟩, rfl⟩ := h
  rfl

theorem Taped.spad (h : Taped s c x tp w) : (w.core c).spad = (s.core c).spad := by
  obtain ⟨u, ⟨tl, n, rfl⟩, rfl⟩ := h
  exact State.spad_core_setCtx ..

theorem Taped.admits (h : Taped s c x tp w) (ld st : Bool) (pas : List Nat) :
    w.admits (.thread c x) ld st pas = s.admits (.thread c x) ld st pas := by
  obtain ⟨u, hw, rfl⟩ := h
  rw [admits_setCtx (t := { u.ctx c x with tapeptr := tp }) rfl]
  obtain ⟨tl, n, rfl⟩ := hw
  rfl

/-- What an instruction leaves whose accesses enter from a state. -/
structure Base (s w : State) (c x : Nat) (tp : DWord) : Prop where
  ctx  : w.ctx c x = { s.ctx c x with tapeptr := tp }
  next : (w.core c).nextAcc = (s.core c).nextAcc
  now  : w.now = s.now

theorem Taped.base (h : Taped s c x tp w) : Base s w c x tp := ⟨h.ctx, h.next, h.now⟩

theorem Walked.base (h : Walked (fresh s) w) : Base s w c x (s.ctx c x).tapeptr := by
  obtain ⟨tl, n, rfl⟩ := h
  exact ⟨rfl, rfl, rfl⟩

theorem Base.stamped (h : Base s w c x tp) (as : List Machine.Acc) : stamped w c as = stamped s c as := by
  unfold Entries.stamped
  rw [h.next, h.now]

/-- What is left once the instruction retires or is held, with the thread's program then. -/
structure Issued (s w u : State) (c x : Nat) (as : List Machine.Acc) (tp : DWord) (P : Prog) : Prop where
  bytes : BytesSame w u
  accs  : (u.ctx c x).accs = (s.ctx c x).accs ++ Entries.stamped s c as
  next  : (u.core c).nextAcc = (s.core c).nextAcc + as.length
  tape  : (u.ctx c x).tapeptr = tp
  getS  : ∀ r : Reg, u.getS s.cur r = P.getS r.toNat
  empty : ∀ r, (u.prog s.cur).isEmptyS r = P.isEmptyS r

/-- The instruction retires, or with a flag enabled the thread is held (R337). -/
def GoesOn (s : State) (c x : Nat) (u : State) : Prop :=
  (((s.ctx c x).fte &&& 0xFF != 0) = false → (u.ctx c x).instret = (s.ctx c x).instret + 1 ∧ FlowsOn s u 1) ∧
  (((s.ctx c x).fte &&& 0xFF != 0) = true → (u.prog s.cur).hold = some (.adj (s.core c).nextAcc) ∧ (u.prog s.cur).pc = (s.prog s.cur).pc ∧
    (u.ctx c x).instret = (s.ctx c x).instret)

variable {i : Instr} {body : Seqr → State → Res} {as : List Machine.Acc} {P : Prog}

theorem issued_of_after {len : Nat} {u : State} (hq : s.cur = .thread c x) (hB : Base s w c x tp) (ha : After s (enteredState w c x as P) u len) :
    Issued s w u c x as tp P := by
  have h := enters_of_after hq ha
  exact { bytes := h.bytes, accs := by rw [h.accs, hB.ctx, hB.stamped], next := by rw [h.next, hB.next],
          tape := by rw [h.tape, hB.ctx], getS := h.getS, empty := h.isEmptyS }

/-- An instruction that retires with its accesses entered. -/
theorem retires_issued {len : Nat} {pl : Place} (hq : s.cur = .thread c x) (hi : exec i s = issue s len pl body) (hs : Stands s len pl)
    (hB : Base s w c x tp) (h1 : P.pend = (s.prog s.cur).pend) (h2 : P.loops = (s.prog s.cur).loops)
    (hb : body s.cur (fresh s) = .retire (enteredState w c x as P)) :
    ∃ u, exec i s = .next u ∧ Issued s w u c x as tp P ∧ (u.ctx c x).instret = (s.ctx c x).instret + 1 ∧ FlowsOn s u len ∧
      (u.prog s.cur).hold = P.hold := by
  obtain ⟨u, hu, ha⟩ := retires_of_issue body hi hs hb
  have h := enters_of_after hq ha
  exact ⟨u, hu, issued_of_after hq hB ha, by rw [h.count, hB.ctx], h.flows h1 h2, by rw [h.prog]; exact (advance_rest _ _ _).2.2.2.1⟩

/-- An instruction of reverse mode whose accesses have entered. -/
theorem adj_issues (hq : s.cur = .thread c x) (hi : exec i s = issue s 1 .any body) (hs : Stands s 1 .any) (hB : Base s w c x tp)
    (h1 : P.pend = (s.prog s.cur).pend) (h2 : P.loops = (s.prog s.cur).loops) (h3 : P.pc = (s.prog s.cur).pc)
    (hb : body s.cur (fresh s) = (enteredState w c x as P).adjIssued (.thread c x) (w.core c).nextAcc) :
    ∃ u, exec i s = .next u ∧ Issued s w u c x as tp P ∧ GoesOn s c x u := by
  have hctx : (enteredState w c x as P).ctx c x =
      { s.ctx c x with tapeptr := tp, accs := (s.ctx c x).accs ++ Entries.stamped s c as, prog := P } := by
    rw [ctx_enteredState, hB.ctx, hB.stamped]
  have hfte : ((enteredState w c x as P).thread (.thread c x)).fte = (s.ctx c x).fte := by
    show ((enteredState w c x as P).ctx c x).fte = _
    rw [hctx]
  unfold State.adjIssued at hb
  rw [hfte] at hb
  by_cases hany : (s.ctx c x).fte &&& 0xFF = 0
  · rw [if_neg (by simpa using hany)] at hb
    obtain ⟨u, hu, hI, hc, hf, -⟩ := retires_issued hq hi hs hB h1 h2 hb
    exact ⟨u, hu, hI, fun _ => ⟨hc, hf⟩, fun h => by rw [hany] at h; exact absurd h (by decide)⟩
  · rw [if_pos hany] at hb
    have hu := whole_of_issue body hi hs hb
    have hx : ((enteredState w c x as P).holdOn (.thread c x) (.adj (w.core c).nextAcc)) =
        enteredState w c x as { P with hold := some (.adj (s.core c).nextAcc) } := by
      show (enteredState w c x as P).setProg (.thread c x) { ((enteredState w c x as P).ctx c x).prog with hold := _ } = _
      rw [setProg_enteredState, hctx, hB.next]
    rw [hx] at hu
    have hctx' : (enteredState w c x as { P with hold := some (.adj (s.core c).nextAcc) }).ctx c x =
        { s.ctx c x with tapeptr := tp, accs := (s.ctx c x).accs ++ Entries.stamped s c as, prog := { P with hold := some (.adj (s.core c).nextAcc) } } := by
      rw [ctx_enteredState, hB.ctx, hB.stamped]
    have hprog : (enteredState w c x as { P with hold := some (.adj (s.core c).nextAcc) }).prog s.cur =
        { P with hold := some (.adj (s.core c).nextAcc) } := by
      rw [hq]
      show ((enteredState w c x as _).ctx c x).prog = _
      rw [hctx']
    refine ⟨_, hu, { bytes := bytesSame_enteredState, accs := by rw [hctx'], next := by rw [nextAcc_enteredState, hB.next], tape := by rw [hctx'],
                     getS := fun r => ?_, empty := fun r => ?_ }, fun h => ?_, fun _ => ⟨?_, ?_, ?_⟩⟩
    · rw [State.getS, hprog]; rfl
    · rw [hprog]; rfl
    · rw [bne_eq_false_iff_eq] at h
      exact absurd h hany
    · rw [hprog]
    · rw [hprog]; exact h3
    · rw [hctx']

end Base

end Sys2Proof.Proofs.Tapes
end

section
/-! PROOFS. A store reserves its tape record, a reverse-mode store pops it (R333, R334); modes switch and tapes begin (R335, R339). -/

namespace Sys2Proof.Proofs.Records

open Sys2Proof.Machine
open Sys2Proof.Safety
open Sys2Proof.Proofs.Transfers
open Sys2Proof.Proofs.Traps
open Sys2Proof.Proofs.Tokens
open Sys2Proof.Proofs.Return
open Sys2Proof.Proofs.Ready
open Sys2Proof.Proofs.Digests
open Sys2Proof.Proofs.Accesses
open Sys2Proof.Proofs.Entries
open Sys2Proof.Proofs.GlobalAccesses
open Sys2Proof.Proofs.Cells
open Sys2Proof.Proofs.Tapes

/-! ### The bytes of a record -/

theorem drop_readBytes (m : Memory) (a n k : Nat) : (m.readBytes a (k + n)).drop k = m.readBytes (a + k) n := by
  induction k generalizing a with
  | zero => rw [Nat.zero_add]; rfl
  | succ k ih =>
    rw [Nat.succ_add, Memory.readBytes, List.drop_succ_cons, ih, Nat.add_assoc, Nat.add_comm 1 k]

theorem take_readBytes (m : Memory) (a n k : Nat) : (m.readBytes a (k + n)).take k = m.readBytes a k := by
  induction k generalizing a with
  | zero => rfl
  | succ k ih => rw [Nat.succ_add, Memory.readBytes, Memory.readBytes, List.take_succ_cons, ih]

/-- The bytes of a record, part by part. -/
def recordBytes (m : Memory) (parts : List Nat) : List Byte := (parts.map (fun pa => m.readBytes pa 16)).flatten

theorem recordBytes_append (m : Memory) (l r : List Nat) : recordBytes m (l ++ r) = recordBytes m l ++ recordBytes m r := by
  unfold recordBytes
  rw [List.map_append, List.flatten_append]

theorem length_recordBytes (m : Memory) (l : List Nat) : (recordBytes m l).length = 16 * l.length := by
  induction l with
  | nil => rfl
  | cons a l ih =>
    rw [← List.singleton_append, recordBytes_append, List.length_append, ih, List.length_append, List.length_singleton]
    simp only [recordBytes, List.map_singleton, List.flatten_singleton, length_readBytes]
    omega

theorem recordBytes_singleton (m : Memory) (pa : Nat) : recordBytes m [pa] = m.readBytes pa 16 := by
  simp only [recordBytes, List.map_singleton, List.flatten_singleton]

/-- The header lies in the last eight bytes of the last part (R332). -/
theorem header_recordBytes (m : Memory) (l : List Nat) (pa : Nat) :
    natOfBytes ((recordBytes m (l ++ [pa])).drop (16 * l.length + 8)) = Memory.readN m (pa + 8) 8 := by
  rw [recordBytes_append, ← List.drop_drop, ← length_recordBytes m l, List.drop_left, recordBytes_singleton,
    drop_readBytes m pa 8 8, natOfBytes_readBytes]

theorem old_recordBytes (m : Memory) (l : List Nat) (pa : Nat) : (recordBytes m (l ++ [pa])).take (16 * l.length) = recordBytes m l := by
  rw [recordBytes_append, ← length_recordBytes m l, List.take_left]

/-! ### Reservation and pop -/

section Tape

variable {s w : State} {c x kind va : Nat} {ps : List Page} {s3 : State}

/-- What a tape access does to the machine besides its walks. -/
theorem taped_of_walked {u : State} (h : Walked (fresh s) w) (hx : Walked w u) (tp : DWord) :
    Taped s c x tp (u.setCtx c x { u.ctx c x with tapeptr := tp }) := ⟨u, h.trans hx, rfl⟩

theorem ctx_walked (h : Walked (fresh s) w) : w.ctx c x = s.ctx c x := by
  obtain ⟨tl, n, rfl⟩ := h
  rfl

theorem reserve_full {k : List Nat → State → Res} (h : Walked (fresh s) w)
    (hl : (s.ctx c x).tapelim.toNat < (s.ctx c x).tapeptr.toNat + tapeLen kind) :
    w.tapeReserve (.thread c x) kind va k = .trap .tapeovf (BitVec.ofNat 64 va) := by
  unfold State.tapeReserve
  rw [show w.thread (.thread c x) = s.ctx c x from ctx_walked h]
  exact if_pos hl

theorem reserve_pages {k : List Nat → State → Res} (h : Walked (fresh s) w)
    (hl : (s.ctx c x).tapeptr.toNat + tapeLen kind ≤ (s.ctx c x).tapelim.toNat)
    (hx : State.xlateRange c ((s.ctx c x).tapeptr.toNat + tapeLen kind - 1) false true tapePageBad 4 w (s.ctx c x).tapeptr.toNat = .pages ps s3) :
    ∃ u, Taped s c x (BitVec.ofNat 64 ((s.ctx c x).tapeptr.toNat + tapeLen kind)) u ∧
      w.tapeReserve (.thread c x) kind va k = k (tapeParts ps (s.ctx c x).tapeptr.toNat (tapeLen kind)) u := by
  refine ⟨_, taped_of_walked h (walked_xlateRange hx) _, ?_⟩
  unfold State.tapeReserve
  rw [show w.thread (.thread c x) = s.ctx c x from ctx_walked h]
  refine (if_neg (Nat.not_lt.2 hl)).trans ?_
  rw [show State.xlateRange (Seqr.thread c x).core _ false true tapePageBad 4 w _ = _ from hx]
  rfl

variable {k : List Byte → State → Res}

theorem pop_below (h : Walked (fresh s) w) (hl : (s.ctx c x).tapeptr.toNat - (s.ctx c x).tapebase.toNat < tapeLen kind) :
    w.tapePop (.thread c x) kind va k = .trap .tapemis (BitVec.ofNat 64 va) := by
  have hp : w.pop (.thread c x) kind va = .trap .tapemis (BitVec.ofNat 64 va) := by
    unfold State.pop
    rw [show w.thread (.thread c x) = s.ctx c x from ctx_walked h]
    exact if_pos hl
  unfold State.tapePop
  rw [hp]

/-- No earlier load or acquire is still to perform, and no part of the record waits for a store or a permit (R234, R236, R334). -/
def MayPop (s : State) (c x : Nat) (parts : List Nat) : Prop :=
  (∀ e, e ∈ (s.ctx c x).accs → e.performed = true ∨ (e.isLd = false ∧ e.isAcq = false)) ∧ ∀ pa, pa ∈ parts → s.requestHeld c pa = false

theorem mayPop_iff (s : State) (c x : Nat) (parts : List Nat) :
    ((s.ctx c x).accs.any (fun a => !a.performed && (a.isLd || a.isAcq)) || parts.any (s.requestHeld c)) = false ↔ MayPop s c x parts := by
  rw [Bool.or_eq_false_iff, List.any_eq_false, List.any_eq_false]
  refine and_congr (forall₂_congr fun e _ => ?_) (forall₂_congr fun pa _ => by rw [Bool.not_eq_true])
  cases e.performed <;> cases e.isLd <;> cases e.isAcq <;> decide

/-- The parts of the record that a pop finds. -/
def popParts (s : State) (c x kind : Nat) (ps : List Page) : List Nat :=
  tapeParts ps ((s.ctx c x).tapeptr.toNat - tapeLen kind) (tapeLen kind)

/-- The header of that record. -/
def popHeader (s : State) (c x kind : Nat) (ps : List Page) : Nat :=
  natOfBytes ((recordBytes s.hbm (popParts s c x kind ps)).drop (tapeLen kind - 8))

/-- A pop once the tape's pages are translated, by what it finds. -/
def popFound (s : State) (c x kind va : Nat) (ps : List Page) (s3 : State) : Pop :=
  if (s.ctx c x).accs.any (fun a => !a.performed && (a.isLd || a.isAcq)) || (popParts s c x kind ps).any (s.requestHeld c) then .wait
  else if popHeader s c x kind ps / 2 ^ 60 ≠ kind ∨ popHeader s c x kind ps % 2 ^ 57 ≠ va then .trap .tapemis (BitVec.ofNat 64 va)
  else .record ((recordBytes s.hbm (popParts s c x kind ps)).take (if kind = 3 then 128 else 8)) ps
    (s3.setCtx c x { s3.ctx c x with tapeptr := BitVec.ofNat 64 ((s.ctx c x).tapeptr.toNat - tapeLen kind) })

theorem pop_pages (h : Walked (fresh s) w) (hl : ¬ (s.ctx c x).tapeptr.toNat - (s.ctx c x).tapebase.toNat < tapeLen kind)
    (hx : State.xlateRange c ((s.ctx c x).tapeptr.toNat - 1) true false (fun _ => none) 4 w ((s.ctx c x).tapeptr.toNat - tapeLen kind) = .pages ps s3) :
    w.pop (.thread c x) kind va = popFound s c x kind va ps s3 := by
  have hw3 := walked_xlateRange hx
  unfold State.pop
  rw [show w.thread (.thread c x) = s.ctx c x from ctx_walked h]
  refine (if_neg hl).trans ?_
  rw [show State.xlateRange (Seqr.thread c x).core _ true false (fun _ => none) 4 w _ = _ from hx]
  dsimp only
  rw [show s3.hbm = s.hbm by obtain ⟨_, _, rfl⟩ := h; obtain ⟨_, _, rfl⟩ := hw3; rfl,
    show w.requestHeld (Seqr.thread c x).core = s.requestHeld c by obtain ⟨_, _, rfl⟩ := h; rfl]
  rfl

section Found

variable (h : Walked (fresh s) w) (hl : ¬ (s.ctx c x).tapeptr.toNat - (s.ctx c x).tapebase.toNat < tapeLen kind)
  (hx : State.xlateRange c ((s.ctx c x).tapeptr.toNat - 1) true false (fun _ => none) 4 w ((s.ctx c x).tapeptr.toNat - tapeLen kind) = .pages ps s3)

include h hl hx

theorem pop_waits (hm : ¬ MayPop s c x (popParts s c x kind ps)) : w.tapePop (.thread c x) kind va k = .stall := by
  unfold State.tapePop
  rw [pop_pages h hl hx, popFound, if_pos]
  rw [← mayPop_iff, Bool.not_eq_false] at hm
  exact hm

theorem pop_misfits (hm : MayPop s c x (popParts s c x kind ps))
    (hf : ¬ (popHeader s c x kind ps / 2 ^ 60 = kind ∧ popHeader s c x kind ps % 2 ^ 57 = va)) :
    w.tapePop (.thread c x) kind va k = .trap .tapemis (BitVec.ofNat 64 va) := by
  unfold State.tapePop
  rw [pop_pages h hl hx, popFound, if_neg (by rw [(mayPop_iff ..).2 hm]; decide), if_pos (not_and_or.1 hf)]

theorem pop_fits (hm : MayPop s c x (popParts s c x kind ps))
    (hf : popHeader s c x kind ps / 2 ^ 60 = kind ∧ popHeader s c x kind ps % 2 ^ 57 = va) :
    ∃ u, Taped s c x (BitVec.ofNat 64 ((s.ctx c x).tapeptr.toNat - tapeLen kind)) u ∧
      w.tapePop (.thread c x) kind va k = k ((recordBytes s.hbm (popParts s c x kind ps)).take (if kind = 3 then 128 else 8)) u := by
  refine ⟨_, taped_of_walked h (walked_xlateRange hx) _, ?_⟩
  unfold State.tapePop
  rw [pop_pages h hl hx, popFound, if_neg (by rw [(mayPop_iff ..).2 hm]; decide),
    if_neg (not_or.2 ⟨not_not.2 hf.1, not_not.2 hf.2⟩)]

end Found

end Tape

/-! ### Modes and new tapes (R335, R339) -/

section Modes

variable {s : State} {c x : Nat} {a b : Reg}

/-- An access of a D page or of its cells, or a tape record (R335). -/
def OnD (e : Machine.Acc) : Prop :=
  match e.kind with
  | .ldg _ _ => e.dpage = true
  | .ldl _ => e.dpage = true
  | .stg _ _ => e.tape ≠ []
  | .stl _ => e.tape ≠ []
  | .line _ _ => False
  | .gamo _ _ _ _ _ _ _ _ _ => False
  | .mark => False
  | _ => True

theorem onD_iff (e : Machine.Acc) : e.onD = true ↔ OnD e := by
  obtain ⟨id, kind, va, pa, isLd, isSt, performed, done, dpage, tape⟩ := e
  cases kind <;> simp [Acc.onD, OnD]

/-- What a switch of mode waits for has happened. -/
def Still (s : State) (c x : Nat) : Prop :=
  (∀ e, e ∈ (s.ctx c x).accs → OnD e → e.performed = true) ∧ ∀ i, i ∈ (s.core c).items → i.owner = x → i.dpage = false

theorem modeReady_iff (s : State) (c x : Nat) : s.modeReady (.thread c x) = true ↔ Still s c x := by
  unfold State.modeReady
  rw [Bool.and_eq_true, List.all_eq_true, Bool.not_eq_true', List.any_eq_false]
  refine and_congr (forall₂_congr fun e _ => ?_) (forall₂_congr fun i _ => ?_)
  · rw [Bool.or_eq_true, Bool.not_eq_true', ← onD_iff]
    cases e.performed <;> cases e.onD <;> decide
  · rw [Bool.and_eq_true, beq_iff_eq, not_and, Bool.not_eq_true]
    exact Iff.rfl

/-- The body of `MODE.FWD` and of `MODE.REV`. -/
def modeBody (rev : Bool) (q : Seqr) (s : State) : Res :=
  if s.modeReady q then .retire (s.setThread q { s.thread q with modeRev := rev }) else .whole (s.holdOn q (.modeSwitch rev))

theorem modeSwitch_spec {i : Instr} {rev : Bool} (hq : s.cur = .thread c x) (hi : exec i s = issue s 1 .any (modeBody rev)) (hs : Stands s 1 .any) :
    (Still s c x → Retires i s 1 ((fresh s).setCtx c x { s.ctx c x with modeRev := rev })) ∧
    (¬ Still s c x → exec i s = .next ((fresh s).holdOn s.cur (.modeSwitch rev))) := by
  have hready : (fresh s).modeReady (.thread c x) = true ↔ Still s c x := modeReady_iff (fresh s) c x
  refine ⟨fun h => retires_of_issue _ hi hs ?_, fun h => whole_of_issue _ hi hs ?_⟩
  · rw [modeBody, hq, if_pos (hready.2 h)]
    rfl
  · rw [modeBody, if_neg (by rw [hq, hready]; exact h)]

/-- An address that a tape register refuses (R331). -/
theorem tapeAddrBad_iff (v : DWord) : tapeAddrBad v = true ↔ 2 ^ 56 ≤ v.toNat ∨ v.toNat % 16 ≠ 0 := by
  unfold tapeAddrBad
  rw [Bool.or_eq_true, bne_iff_ne, bne_iff_ne]
  exact (ControlRegs.badTapelim_iff v).trans (by omega)

/-- A tape record, or a store that one follows. -/
def Recorded (e : Machine.Acc) : Prop := e.tape ≠ [] ∨ ∃ pas data, e.kind = .tapeWrite pas data

theorem tapePending_iff (t : Ctx) : t.tapePending = true ↔ ∃ e, e ∈ t.accs ∧ Recorded e ∧ e.done = false := by
  unfold Ctx.tapePending
  rw [List.any_eq_true]
  refine exists_congr fun e => and_congr_right fun _ => ?_
  have hk : (match e.kind with | .tapeWrite _ _ => true | _ => false) = true ↔ ∃ pas data, e.kind = .tapeWrite pas data := by
    obtain ⟨id, kind, va⟩ := e
    cases kind <;> simp
  rw [Bool.and_eq_true, Bool.or_eq_true, Bool.not_eq_true', Bool.not_eq_true', and_comm, List.isEmpty_eq_false_iff]
  exact and_congr_left fun _ => or_congr_right hk

/-- The body of `TAPE.SET` once its registers are full. -/
def tapeSetOn (av bv : DWord) (q : Seqr) (s : State) : Res :=
  if tapeAddrBad av then .trap .illegal av
  else if tapeAddrBad bv || decide (bv.toNat < av.toNat) then .trap .illegal bv
  else if (s.thread q).tapePending then .whole (s.holdOn q (.tapeSet av bv))
  else .retire (s.setThread q ((s.thread q).newTape av bv))

/-- The body of `TAPE.SET`. -/
def tapeSetBody (a b : Reg) (q : Seqr) (s : State) : Res :=
  s.ready q [srcS a, srcS b] [] (tapeSetOn (s.getS q a) (s.getS q b) q s)

theorem exec_tapeSet : exec (.tapeSet a b) s = issue s 1 .any (tapeSetBody a b) := rfl

theorem tapeSet_body (hr : RegsReady s [srcS a, srcS b]) : tapeSetBody a b s.cur (fresh s) =
    tapeSetOn (s.getS s.cur a) (s.getS s.cur b) s.cur (fresh s) := by
  rw [tapeSetBody, fresh_ready (srcs := [srcS a, srcS b]) (dests := []) hr, fresh_getS, fresh_getS]

theorem tapeSet_spec (hq : s.cur = .thread c x) (hs : Stands s 1 .any) (hr : RegsReady s [srcS a, srcS b]) :
    let t := s.ctx c x
    let av := s.getS s.cur a
    let bv := s.getS s.cur b
    let bad (v : DWord) : Prop := 2 ^ 56 ≤ v.toNat ∨ v.toNat % 16 ≠ 0
    (bad av → Traps (.tapeSet a b) s .illegal av) ∧
    (¬ bad av → bad bv ∨ bv.toNat < av.toNat → Traps (.tapeSet a b) s .illegal bv) ∧
    (¬ bad av → ¬ bad bv → av.toNat ≤ bv.toNat →
      ((∀ e, e ∈ t.accs → Recorded e → e.done = true) →
        Retires (.tapeSet a b) s 1 ((fresh s).setCtx c x { t with tapebase := av, tapeptr := av, tapelim := bv })) ∧
      ((∃ e, e ∈ t.accs ∧ Recorded e ∧ e.done = false) → exec (.tapeSet a b) s = .next ((fresh s).holdOn s.cur (.tapeSet av bv)))) := by
  intro t av bv bad
  have hb := tapeSet_body (s := s) hr
  have hbad : ∀ v, bad v → tapeAddrBad v = true := fun v => (tapeAddrBad_iff v).2
  have hgood : ∀ v, ¬ bad v → ¬ tapeAddrBad v = true := fun v h => fun h' => h ((tapeAddrBad_iff v).1 h')
  have hpass : ¬ bad av → ¬ bad bv → av.toNat ≤ bv.toNat → tapeSetBody a b s.cur (fresh s) =
      if t.tapePending then .whole ((fresh s).holdOn s.cur (.tapeSet av bv)) else .retire ((fresh s).setCtx c x (t.newTape av bv)) := fun h1 h2 h3 => by
    rw [hb]
    show tapeSetOn av bv s.cur (fresh s) = _
    rw [hq, tapeSetOn, if_neg (hgood _ h1), if_neg (by
      rw [Bool.or_eq_true, decide_eq_true_eq, not_or, not_lt]
      exact ⟨hgood _ h2, h3⟩)]
    rfl
  refine ⟨fun h => traps_of_issue _ exec_tapeSet hs ?_, fun h1 h2 => traps_of_issue _ exec_tapeSet hs ?_, fun h1 h2 h3 =>
    ⟨fun h => retires_of_issue _ exec_tapeSet hs ?_, fun h => whole_of_issue _ exec_tapeSet hs ?_⟩⟩
  · rw [hb, tapeSetOn, if_pos (hbad _ h)]
  · rw [hb, tapeSetOn, if_neg (hgood _ h1), if_pos]
    rw [Bool.or_eq_true, decide_eq_true_eq]
    exact h2.imp_left (hbad _)
  · rw [hpass h1 h2 h3, if_neg]
    · rfl
    · rw [tapePending_iff]
      rintro ⟨e, he, hr, hd⟩
      rw [h e he hr] at hd
      cases hd
  · rw [hpass h1 h2 h3, if_pos ((tapePending_iff t).2 h)]

end Modes

end Sys2Proof.Proofs.Records
end

section
/-! PROOFS. `LDG` and `STG` on the D pages: forward stores with their record, and in reverse mode the accesses of cells (R231, R333, R334,
R336). -/

namespace Sys2Proof.Proofs.Adjoints

open Sys2Proof.Machine
open Sys2Proof.Safety
open Sys2Proof.Proofs.Transfers
open Sys2Proof.Proofs.Traps
open Sys2Proof.Proofs.Tokens
open Sys2Proof.Proofs.Return
open Sys2Proof.Proofs.Groups
open Sys2Proof.Proofs.Landings
open Sys2Proof.Proofs.Accesses
open Sys2Proof.Proofs.Entries
open Sys2Proof.Proofs.GlobalAccesses
open Sys2Proof.Proofs.Cells
open Sys2Proof.Proofs.Tapes
open Sys2Proof.Proofs.Records

theorem ofNat_toNat64 (v : DWord) : BitVec.ofNat 64 v.toNat = v := by
  rw [BitVec.ofNat_toNat, BitVec.setWidth_eq]

section Entering

variable {s w u : State} {c x : Nat} {tp : DWord} {as : List Machine.Acc} {P : Prog}

theorem enqueue_base (hq : s.cur = .thread c x) (hB : Base s w c x tp) (as : List Machine.Acc) :
    w.enqueue (.thread c x) as = (enteredState w c x as (s.prog s.cur), (w.core c).nextAcc) := by
  rw [enqueue_eq, hB.ctx, ← prog_thread hq]

/-- Accesses that enter and leave their destination empty. -/
theorem enqueue_empties (hq : s.cur = .thread c x) (hB : Base s w c x tp) (as : List Machine.Acc) (d : Reg) :
    ((w.enqueue (.thread c x) as).1).setProg (.thread c x) ((((w.enqueue (.thread c x) as).1).prog (.thread c x)).markEmpty d.toNat) =
      enteredState w c x as ((s.prog s.cur).markEmpty d.toNat) := by
  rw [enqueue_base hq hB, setProg_enteredState]
  refine congrArg (enteredState w c x as) ?_
  show ((enteredState w c x as _).ctx c x).prog.markEmpty d.toNat = _
  rw [ctx_enteredState]

theorem bytes_walked (h : Walked (fresh s) w) : BytesSame s w := by
  obtain ⟨tl, n, rfl⟩ := h
  exact ⟨fun _ => rfl, fun _ => rfl, fun _ _ => rfl, fun _ _ => rfl⟩

/-- What `enters` of the obligation says. -/
def EntersAs (s u : State) (c x : Nat) (as : List Machine.Acc) : Prop :=
  (u.ctx c x).accs = (s.ctx c x).accs ++ Entries.stamped s c as ∧ (u.core c).nextAcc = (s.core c).nextAcc + as.length ∧
    ∀ k, Memory.read u.hbm k = Memory.read s.hbm k

theorem entersAs_of_issued (h : Issued s w u c x as tp P) (hb : ∀ k, Memory.read w.hbm k = Memory.read s.hbm k) : EntersAs s u c x as :=
  ⟨h.accs, h.next, fun k => (h.bytes.hbm k).trans (hb k)⟩

/-- A register written before the accesses enter. -/
theorem enteredState_setProg (w : State) (c x : Nat) (Q : Prog) :
    enteredState (w.setProg (.thread c x) Q) c x as P = enteredState w c x as P := by
  simp [enteredState, Entries.stamped, State.setProg, State.setThread, State.thread, State.setCtx, State.setCore, State.core, State.ctx, SMap.set_set]

theorem nextAcc_setProg (w : State) (c x : Nat) (Q : Prog) : ((w.setProg (.thread c x) Q).core c).nextAcc = (w.core c).nextAcc := by
  show ((w.setCtx c x { w.ctx c x with prog := Q }).core c).nextAcc = _
  rw [State.core_setCtx, if_pos rfl]

theorem setS_rest (p : Prog) (d : Nat) (v : DWord) : (p.setS d v).pend = p.pend ∧ (p.setS d v).loops = p.loops ∧ (p.setS d v).pc = p.pc ∧
    ∀ r, (p.setS d v).isEmptyS r = p.isEmptyS r := by
  unfold Prog.setS
  split <;> exact ⟨rfl, rfl, rfl, fun _ => rfl⟩

end Entering

section Reads

variable {s s1 s2 : State} {c x : Nat} {d a : Reg} {imm : BitVec 12} {p cp : Page}

/-- Reverse-mode `LDG.w` at its cell. -/
def ldgCell (q : Seqr) (d : Reg) (ea : DWord) (p cp : Page) (s : State) : Res :=
  if !s.admits q false true [cp.pa (cellVa p.esize ea.toNat)] then .stall
  else
    let (s1, g) := (s.setS q d 0).enqueue q
      [{ id := 0, kind := .adjAdd cp.scale p.fmt ((s.getS q d).toNat % 2 ^ 32), va := ea.toNat, pa := cp.pa (cellVa p.esize ea.toNat), isSt := true }]
    s1.adjIssued q g

theorem ldgRev_cell {ea : DWord} (hz : p.esize = 4) (hx : s1.xlate c (cellVa p.esize ea.toNat) true true = .page cp s2) :
    s1.ldgRev (.thread c x) d ea 4 p = ldgCell (.thread c x) d ea p cp s2 := by
  unfold State.ldgRev ldgCell
  rw [hz] at hx
  rw [if_neg (by rw [hz]; decide), hz]
  exact withPage_page hx

theorem ldgOn_rev {w : State} {ea : DWord} {size : Nat} (hw : Walked (fresh s) w) (hd : p.d = true) (hm : (s.ctx c x).modeRev = true) :
    ldgOn (.thread c x) d ea size p w = w.ldgRev (.thread c x) d ea size p := by
  rw [ldgOn, if_pos (by rw [modeRev_walked hw, hd, hm]; rfl)]

theorem stgOn_rev {w : State} {ea : DWord} {size : Nat} (hw : Walked (fresh s) w) (hd : p.d = true) (hm : (s.ctx c x).modeRev = true) :
    stgOn (.thread c x) d ea size p w = w.stgRev (.thread c x) d ea size p := by
  rw [stgOn, if_neg (by rw [hd]; decide), if_pos (by rw [modeRev_walked hw, hm])]

variable (hq : s.cur = .thread c x) (hs : Stands s 1 .any) (hr : RegsReady s [srcS a, srcS d])

include hq hr in
theorem ldg_on {size : Nat} (hg : Good s c (s.getS s.cur a + BitVec.ofInt 64 imm.toInt) size true false p s1) :
    ldgBody d a imm size s.cur (fresh s) = ldgOn (.thread c x) d (s.getS s.cur a + BitVec.ofInt 64 imm.toInt) size p s1 := by
  obtain ⟨h0, h57, hx, hge⟩ := hg
  have hc : s.cur.core = c := by rw [hq]; rfl
  exact (body_good (ldg_body hr size) hc h0 h57 hx hge).trans
    (congrArg (fun q => ldgOn q d (s.getS s.cur a + BitVec.ofInt 64 imm.toInt) size p s1) hq)

include hq hr in
theorem stg_on {size : Nat} (hg : Good s c (s.getS s.cur a + BitVec.ofInt 64 imm.toInt) size false true p s1) :
    stgBody d a imm size s.cur (fresh s) = stgOn (.thread c x) d (s.getS s.cur a + BitVec.ofInt 64 imm.toInt) size p s1 := by
  obtain ⟨h0, h57, hx, hge⟩ := hg
  have hc : s.cur.core = c := by rw [hq]; rfl
  exact (body_good (stg_body hr size) hc h0 h57 hx hge).trans
    (congrArg (fun q => stgOn q d (s.getS s.cur a + BitVec.ofInt 64 imm.toInt) size p s1) hq)

include hq hs hr

/-- Another width or element size in reverse mode (R231). -/
theorem ldg_mode {i : Instr} {size : Nat} (hi : exec i s = ldg s d a imm size)
    (hg : Good s c (s.getS s.cur a + BitVec.ofInt 64 imm.toInt) size true false p s1) (hd : p.d = true) (hm : (s.ctx c x).modeRev = true)
    (hz : size ≠ 4 ∨ p.esize ≠ 4) : Traps i s .mode (s.getS s.cur a + BitVec.ofInt 64 imm.toInt) := by
  refine traps_of_issue _ (hi.trans (ldg_eq size)) hs ?_
  rw [ldg_on hq hr hg, ldgOn_rev (walked_xlate hg.2.2.1) hd hm]
  exact if_pos hz

theorem stg_mode {i : Instr} {size : Nat} (hi : exec i s = stg s d a imm size)
    (hg : Good s c (s.getS s.cur a + BitVec.ofInt 64 imm.toInt) size false true p s1) (hd : p.d = true) (hm : (s.ctx c x).modeRev = true)
    (hz : size ≠ 4 ∨ p.esize ≠ 4) : Traps i s .mode (s.getS s.cur a + BitVec.ofInt 64 imm.toInt) := by
  refine traps_of_issue _ (hi.trans (stg_eq size)) hs ?_
  rw [stg_on hq hr hg, stgOn_rev (walked_xlate hg.2.2.1) hd hm]
  exact if_pos hz

/-- A forward store on a D page reserves its record (R333). -/
theorem stg_forward {i : Instr} {size : Nat} (hi : exec i s = stg s d a imm size)
    (hg : Good s c (s.getS s.cur a + BitVec.ofInt 64 imm.toInt) size false true p s1) (hd : p.d = true) (hm : (s.ctx c x).modeRev = false) :
    let t := s.ctx c x
    let ea := s.getS s.cur a + BitVec.ofInt 64 imm.toInt
    let top := t.tapeptr.toNat
    (t.tapelim.toNat < top + 16 → Traps i s .tapeovf ea) ∧
    (∀ ps s3, top + 16 ≤ t.tapelim.toNat → State.xlateRange c (top + 16 - 1) false true tapePageBad 4 s1 top = .pages ps s3 →
      (s.admits s.cur false true [p.pa ea.toNat] = false → Stalls i s) ∧
      (s.admits s.cur false true [p.pa ea.toNat] = true → ∃ u, exec i s = .next u ∧ BytesSame s u ∧
        (u.ctx c x).tapeptr = BitVec.ofNat 64 (top + 16) ∧ (u.ctx c x).instret = t.instret + 1 ∧ FlowsOn s u 1 ∧
        EntersAs s u c x [{ id := 0, kind := .stg size ((s.getS s.cur d).toNat % 2 ^ (8 * size)), va := ea.toNat, pa := p.pa ea.toNat, isSt := true,
                            tape := [paIn ps top] }])) := by
  intro t ea top
  have hi' := hi.trans (stg_eq size)
  have hw := walked_xlate hg.2.2.1
  have hlen : tapeLen (if size = 4 then 1 else 2) = 16 := by split <;> rfl
  have hb : stgBody d a imm size s.cur (fresh s) =
      s1.tapeReserve (.thread c x) (if size = 4 then 1 else 2) ea.toNat (stgStore (.thread c x) d ea size p) := by
    rw [stg_on hq hr hg, stgOn, if_neg (by rw [hd]; decide), if_neg (by rw [modeRev_walked hw, hm]; decide)]
  refine ⟨fun h => traps_of_issue _ hi' hs ?_, fun ps s3 h hx => ?_⟩
  · rw [hb, reserve_full hw (by rw [hlen]; exact h), ofNat_toNat64]
  · obtain ⟨w, hT, hk⟩ := reserve_pages (va := ea.toNat) (k := stgStore (.thread c x) d ea size p) (kind := if size = 4 then 1 else 2) hw
      (by rw [hlen]; exact h) (by rw [hlen]; exact hx)
    rw [hlen] at hT hk
    have hgetS : ∀ r : Reg, w.getS (.thread c x) r = s.getS s.cur r := fun r => by
      show (w.ctx c x).prog.getS r.toNat = _
      rw [hT.ctx, hq]
      rfl
    refine ⟨fun ha => stalls_of_issue _ hi' hs ?_, fun ha => ?_⟩
    · rw [hb, hk, stgStore, if_pos]
      rw [hT.admits, ← hq, ha]
      rfl
    · obtain ⟨u, hu, hI, hc, hf, -⟩ := retires_issued (P := s.prog s.cur) hq hi' hs hT.base rfl rfl (by
        rw [hb, hk, stgStore, if_neg (by rw [hT.admits, ← hq, ha]; decide), enqueue_base hq hT.base, hgetS])
      exact ⟨u, hu, bytesSame_trans hT.bytes hI.bytes, hI.tape, hc, hf, entersAs_of_issued hI hT.bytes.hbm⟩

/-- Reverse-mode `LDG.w` adds its operand to the cell, and the register is zero (R231). -/
theorem ldg_reverse (hg : Good s c (s.getS s.cur a + BitVec.ofInt 64 imm.toInt) 4 true false p s1) (hd : p.d = true)
    (hm : (s.ctx c x).modeRev = true) (hz : p.esize = 4)
    (hx : s1.xlate c (cellVa p.esize (s.getS s.cur a + BitVec.ofInt 64 imm.toInt).toNat) true true = .page cp s2) :
    let ea := s.getS s.cur a + BitVec.ofInt 64 imm.toInt
    let pa := cp.pa (cellVa p.esize ea.toNat)
    (s.admits s.cur false true [pa] = false → Stalls (.ldgW d a imm) s) ∧
    (s.admits s.cur false true [pa] = true → ∃ u, exec (.ldgW d a imm) s = .next u ∧ BytesSame s u ∧ GoesOn s c x u ∧
      u.getS s.cur d = 0 ∧ (∀ r, r ≠ d → u.getS s.cur r = s.getS s.cur r) ∧ (u.prog s.cur).isEmptyS d.toNat = false ∧
      EntersAs s u c x [{ id := 0, kind := .adjAdd cp.scale p.fmt ((s.getS s.cur d).toNat % 2 ^ 32), va := ea.toNat, pa := pa, isSt := true }]) := by
  intro ea pa
  have hi' := (exec_ldgW (s := s) (d := d) (a := a) (imm := imm)).trans (ldg_eq 4)
  have hw1 := walked_xlate hg.2.2.1
  have hw := hw1.trans (walked_xlate hx)
  have hb : ldgBody d a imm 4 s.cur (fresh s) = ldgCell (.thread c x) d ea p cp s2 := by
    rw [ldg_on hq hr hg, ldgOn_rev hw1 hd hm]
    exact ldgRev_cell hz hx
  have hadm := admits_walked hq hw false true [pa]
  refine ⟨fun ha => stalls_of_issue _ hi' hs ?_, fun ha => ?_⟩
  · rw [hb]
    exact if_pos (by rw [hadm, ha]; rfl)
  · have hP := setS_rest (s.prog s.cur) d.toNat 0
    obtain ⟨hp1, hp2, hp3, hp4⟩ := hP
    obtain ⟨u, hu, hI, hgo⟩ := adj_issues (P := (s.prog s.cur).setS d.toNat 0)
        (as := [{ id := 0, kind := .adjAdd cp.scale p.fmt ((s.getS s.cur d).toNat % 2 ^ 32), va := ea.toNat, pa := pa, isSt := true }])
        hq hi' hs (Walked.base hw) hp1 hp2 hp3 (by
      rw [hb]
      refine (if_neg (by rw [hadm, ha]; decide)).trans ?_
      rw [getS_walked hq hw, enqueue_eq]
      dsimp only
      rw [show s2.setS (.thread c x) d 0 = s2.setProg (.thread c x) ((s.prog s.cur).setS d.toNat 0) by
        rw [← prog_thread hq, ← ctx_walked hw]; rfl, enteredState_setProg]
      rw [show ((s2.setProg (.thread c x) ((s.prog s.cur).setS d.toNat 0)).ctx c x).prog = (s.prog s.cur).setS d.toNat 0 by
        exact congrArg Ctx.prog (State.ctx_setCtx_self ..), nextAcc_setProg])
    refine ⟨u, hu, bytesSame_trans (bytes_walked hw) hI.bytes, hgo, ?_, fun r hne => ?_, ?_, entersAs_of_issued hI (bytes_walked hw).hbm⟩
    · rw [hI.getS, getS_setS_nat, if_pos rfl, ite_self]
    · rw [hI.getS, getS_setS_nat, if_neg (fun e => hne (BitVec.eq_of_toNat_eq e))]
      rfl
    · rw [hI.empty]
      exact (hp4 _).trans (hr (srcS d) (by simp)).1

end Reads

end Sys2Proof.Proofs.Adjoints
end

section
/-! PROOFS. Reverse-mode stores pop their record and take their cells; `LDL` and `STL` on the D pages (R231, R333, R334, R336). -/

namespace Sys2Proof.Proofs.AdjointStores

open Sys2Proof.Machine
open Sys2Proof.Safety
open Sys2Proof.Proofs.Transfers
open Sys2Proof.Proofs.Traps
open Sys2Proof.Proofs.Tokens
open Sys2Proof.Proofs.Return
open Sys2Proof.Proofs.Groups
open Sys2Proof.Proofs.Landings
open Sys2Proof.Proofs.Accesses
open Sys2Proof.Proofs.Entries
open Sys2Proof.Proofs.GlobalAccesses
open Sys2Proof.Proofs.Cells
open Sys2Proof.Proofs.Tapes
open Sys2Proof.Proofs.Records
open Sys2Proof.Proofs.Adjoints

/-! ### What a pop finds, part by part -/

section Parts

variable {s : State} {c x kind n : Nat} {ps : List Page}

/-- The places of the parts of a record that ends at the tape's top. -/
def partAt (s : State) (c x : Nat) (ps : List Page) (len i : Nat) : Nat := paIn ps ((s.ctx c x).tapeptr.toNat - len + 16 * i)

theorem popParts_eq (h : tapeLen kind = 16 * (n + 1)) :
    popParts s c x kind ps = (List.range n).map (partAt s c x ps (tapeLen kind)) ++ [partAt s c x ps (tapeLen kind) n] := by
  unfold popParts tapeParts
  rw [show tapeLen kind / 16 = n + 1 by omega, List.range_succ, List.map_append]
  rfl

theorem popHeader_eq (h : tapeLen kind = 16 * (n + 1)) :
    popHeader s c x kind ps = Memory.readN s.hbm (partAt s c x ps (tapeLen kind) n + 8) 8 := by
  have hh := header_recordBytes s.hbm ((List.range n).map (partAt s c x ps (tapeLen kind))) (partAt s c x ps (tapeLen kind) n)
  rw [List.length_map, List.length_range] at hh
  unfold popHeader
  rw [popParts_eq h, show tapeLen kind - 8 = 16 * n + 8 by omega]
  exact hh

theorem mayPop_parts : MayPop s c x (popParts s c x kind ps) ↔
    (∀ e, e ∈ (s.ctx c x).accs → e.performed = true ∨ (e.isLd = false ∧ e.isAcq = false)) ∧
      ∀ i, i < tapeLen kind / 16 → s.requestHeld c (partAt s c x ps (tapeLen kind) i) = false := by
  refine and_congr_right fun _ => ⟨fun h i hi => h _ (List.mem_map.2 ⟨i, List.mem_range.2 hi, rfl⟩), fun h pa hpa => ?_⟩
  obtain ⟨i, hi, rfl⟩ := List.mem_map.1 hpa
  exact h i (List.mem_range.1 hi)

theorem oldWord : natOfBytes (((recordBytes s.hbm (popParts s c x 1 ps)).take 8).take 4) = Memory.readN s.hbm (partAt s c x ps 16 0) 4 := by
  rw [popParts_eq (n := 0) rfl, List.range_zero, List.map_nil, List.nil_append, recordBytes_singleton, List.take_take,
    show min 4 8 = 4 from rfl, take_readBytes s.hbm _ 12 4, natOfBytes_readBytes]
  rfl

theorem oldLine : (recordBytes s.hbm (popParts s c x 3 ps)).take 128 =
    ((List.range 8).map (fun i => Memory.readBytes s.hbm (partAt s c x ps 144 i) 16)).flatten := by
  have h := old_recordBytes s.hbm ((List.range 8).map (partAt s c x ps (tapeLen 3))) (partAt s c x ps (tapeLen 3) 8)
  rw [List.length_map, List.length_range] at h
  rw [popParts_eq (n := 8) rfl]
  refine h.trans ?_
  unfold recordBytes
  rw [List.map_map]
  rfl

end Parts

/-- What a pop finds on the tape, in the words of R334. -/
def PopMay (s : State) (c x : Nat) (ps : List Page) (len : Nat) : Prop :=
  (∀ e, e ∈ (s.ctx c x).accs → e.performed = true ∨ (e.isLd = false ∧ e.isAcq = false)) ∧
    ∀ i, i < len / 16 → s.requestHeld c (partAt s c x ps len i) = false

def PopFits (s : State) (c x : Nat) (ps : List Page) (len kind va : Nat) : Prop :=
  Memory.readN s.hbm (partAt s c x ps len (len / 16 - 1) + 8) 8 / 2 ^ 60 = kind ∧
    Memory.readN s.hbm (partAt s c x ps len (len / 16 - 1) + 8) 8 % 2 ^ 57 = va

section Pops

variable {s w s3 : State} {c x kind va : Nat} {ps : List Page} {i : Instr} {body : Seqr → State → Res} {k : List Byte → State → Res}

/-- The outcomes of an instruction that pops a record (R334). -/
theorem pop_outcomes (hl : kind = 1 ∨ kind = 3) (hi : exec i s = issue s 1 .any body) (hs : Stands s 1 .any) (hw : Walked (fresh s) w)
    (hb : body s.cur (fresh s) = w.tapePop (.thread c x) kind va k) :
    ((s.ctx c x).tapeptr.toNat - (s.ctx c x).tapebase.toNat < tapeLen kind → Traps i s .tapemis (BitVec.ofNat 64 va)) ∧
    ∀ ps s3, ¬ (s.ctx c x).tapeptr.toNat - (s.ctx c x).tapebase.toNat < tapeLen kind →
      State.xlateRange c ((s.ctx c x).tapeptr.toNat - 1) true false (fun _ => none) 4 w ((s.ctx c x).tapeptr.toNat - tapeLen kind) = .pages ps s3 →
      (¬ PopMay s c x ps (tapeLen kind) → Stalls i s) ∧
      (PopMay s c x ps (tapeLen kind) → ¬ PopFits s c x ps (tapeLen kind) kind va → Traps i s .tapemis (BitVec.ofNat 64 va)) ∧
      (PopMay s c x ps (tapeLen kind) → PopFits s c x ps (tapeLen kind) kind va →
        ∃ u, Taped s c x (BitVec.ofNat 64 ((s.ctx c x).tapeptr.toNat - tapeLen kind)) u ∧
          body s.cur (fresh s) = k ((recordBytes s.hbm (popParts s c x kind ps)).take (if kind = 3 then 128 else 8)) u) := by
  have hn : ∃ n, tapeLen kind = 16 * (n + 1) := by
    rcases hl with rfl | rfl
    · exact ⟨0, rfl⟩
    · exact ⟨8, rfl⟩
  obtain ⟨n, hn⟩ := hn
  have hfits : ∀ ps, PopFits s c x ps (tapeLen kind) kind va ↔
      popHeader s c x kind ps / 2 ^ 60 = kind ∧ popHeader s c x kind ps % 2 ^ 57 = va := fun ps => by
    rw [popHeader_eq hn, PopFits, show tapeLen kind / 16 - 1 = n by omega]
  refine ⟨fun h => traps_of_issue _ hi hs (hb.trans (pop_below hw h)), fun ps s3 h hx =>
    ⟨fun hm => stalls_of_issue _ hi hs (hb.trans (pop_waits hw h hx (fun hm' => hm (mayPop_parts.1 hm')))),
     fun hm hf => traps_of_issue _ hi hs (hb.trans (pop_misfits hw h hx (mayPop_parts.2 hm) (fun hf' => hf ((hfits ps).2 hf')))), fun hm hf => ?_⟩⟩
  obtain ⟨u, hT, hk⟩ := pop_fits (k := k) hw h hx (mayPop_parts.2 hm) ((hfits ps).1 hf)
  exact ⟨u, hT, hb.trans hk⟩

end Pops

/-! ### Reverse-mode `STG.w` -/

section Word

variable {s s1 s2 : State} {c x : Nat} {d a : Reg} {imm : BitVec 12} {p cp : Page}

/-- The accesses of a reverse-mode `STG.w`. -/
def stgAccs (d : Reg) (ea : DWord) (p cp : Page) (rm : Rm) (old : Nat) : List Machine.Acc :=
  [{ id := 0, kind := .adjTake cp.scale p.fmt rm 0, va := ea.toNat, pa := cp.pa (cellVa p.esize ea.toNat), isSt := true },
   { id := 0, kind := .restore old d.toNat 0, va := ea.toNat, pa := p.pa ea.toNat, isSt := true }]

/-- What it does once its record is popped. -/
def stgTakes (q : Seqr) (d : Reg) (ea : DWord) (p cp : Page) (old : List Byte) (s : State) : Res :=
  if !s.admits q false true [cp.pa (cellVa p.esize ea.toNat), p.pa ea.toNat] then .stall
  else
    let (s1, g) := s.enqueue q (stgAccs d ea p cp (s.thread q).mode5 (natOfBytes (old.take 4)))
    (s1.setProg q ((s1.prog q).markEmpty d.toNat)).adjIssued q g

theorem stgRev_cell {ea : DWord} (hz : p.esize = 4) (hx : s1.xlate c (cellVa p.esize ea.toNat) true true = .page cp s2) :
    s1.stgRev (.thread c x) d ea 4 p = s2.tapePop (.thread c x) 1 ea.toNat (stgTakes (.thread c x) d ea p cp) := by
  unfold State.stgRev stgTakes stgAccs
  rw [hz] at hx
  rw [if_neg (by rw [hz]; decide), hz]
  exact withPage_page hx

theorem stg_reverse (hq : s.cur = .thread c x) (hs : Stands s 1 .any) (hr : RegsReady s [srcS a, srcS d])
    (hg : Good s c (s.getS s.cur a + BitVec.ofInt 64 imm.toInt) 4 false true p s1) (hd : p.d = true)
    (hm : (s.ctx c x).modeRev = true) (hz : p.esize = 4)
    (hx : s1.xlate c (cellVa p.esize (s.getS s.cur a + BitVec.ofInt 64 imm.toInt).toNat) true true = .page cp s2) :
    let t := s.ctx c x
    let ea := s.getS s.cur a + BitVec.ofInt 64 imm.toInt
    let pa := cp.pa (cellVa p.esize ea.toNat)
    let top := t.tapeptr.toNat
    (top - t.tapebase.toNat < 16 → Traps (.stgW d a imm) s .tapemis ea) ∧
    (∀ ps s3, ¬ top - t.tapebase.toNat < 16 → State.xlateRange c (top - 1) true false (fun _ => none) 4 s2 (top - 16) = .pages ps s3 →
      (¬ PopMay s c x ps 16 → Stalls (.stgW d a imm) s) ∧
      (PopMay s c x ps 16 → ¬ PopFits s c x ps 16 1 ea.toNat → Traps (.stgW d a imm) s .tapemis ea) ∧
      (PopMay s c x ps 16 → PopFits s c x ps 16 1 ea.toNat → s.admits s.cur false true [pa, p.pa ea.toNat] = true →
        ∃ u, exec (.stgW d a imm) s = .next u ∧ BytesSame s u ∧ GoesOn s c x u ∧ (u.ctx c x).tapeptr = BitVec.ofNat 64 (top - 16) ∧
          (d ≠ 0 → (u.prog s.cur).isEmptyS d.toNat = true) ∧ (∀ r, u.getS s.cur r = s.getS s.cur r) ∧
          EntersAs s u c x (stgAccs d ea p cp (Rm.ofField t.frm) (Memory.readN s.hbm (partAt s c x ps 16 0) 4)))) := by
  intro t ea pa top
  have hi' := (exec_stgW (s := s) (d := d) (a := a) (imm := imm)).trans (stg_eq 4)
  have hw1 := walked_xlate hg.2.2.1
  have hb : stgBody d a imm 4 s.cur (fresh s) = s2.tapePop (.thread c x) 1 ea.toNat (stgTakes (.thread c x) d ea p cp) := by
    rw [stg_on hq hr hg, stgOn_rev hw1 hd hm]
    exact stgRev_cell hz hx
  obtain ⟨hbelow, hpages⟩ := pop_outcomes (.inl rfl) hi' hs (hw1.trans (walked_xlate hx)) hb
  rw [ofNat_toNat64] at hbelow
  refine ⟨hbelow, fun ps s3 h hx3 => ?_⟩
  obtain ⟨hstall, hmis, hfit⟩ := hpages ps s3 h hx3
  rw [ofNat_toNat64] at hmis
  refine ⟨hstall, hmis, fun hmay hf ha => ?_⟩
  obtain ⟨w, hT, hk⟩ := hfit hmay hf
  have hP := markEmpty_rest (s.prog s.cur) d.toNat
  obtain ⟨u, hu, hI, hgo⟩ := adj_issues (P := (s.prog s.cur).markEmpty d.toNat)
      (as := stgAccs d ea p cp (Rm.ofField t.frm) (Memory.readN s.hbm (partAt s c x ps 16 0) 4)) hq hi' hs hT.base hP.1 hP.2.1 hP.2.2.2.2 (by
    have hmode : (w.thread (.thread c x)).mode5 = Rm.ofField t.frm := by
      show Rm.ofField (w.ctx c x).frm = _
      rw [hT.ctx]
    rw [hk]
    refine (if_neg (by rw [hT.admits, ← hq, ha]; decide)).trans ?_
    rw [hmode]
    dsimp only
    rw [if_neg (by decide), oldWord, enqueue_empties hq hT.base, enqueue_base hq hT.base])
  refine ⟨u, hu, bytesSame_trans hT.bytes hI.bytes, hgo, hI.tape, fun h0 => ?_, fun r => ?_, entersAs_of_issued hI hT.bytes.hbm⟩
  · rw [hI.empty, isEmptyS_markEmpty _ (by omega)]
    have : d.toNat ≠ 0 := fun e => h0 (BitVec.eq_of_toNat_eq e)
    simp [this]
  · rw [hI.getS]
    exact hP.2.2.1 _

end Word

end Sys2Proof.Proofs.AdjointStores
end

section
/-! PROOFS. `LDL` and `STL` on the D pages (R231, R333, R334, R336). -/

namespace Sys2Proof.Proofs.AdjointLines

open Sys2Proof.Machine
open Sys2Proof.Safety
open Sys2Proof.Proofs.Transfers
open Sys2Proof.Proofs.Traps
open Sys2Proof.Proofs.Tokens
open Sys2Proof.Proofs.Return
open Sys2Proof.Proofs.Groups
open Sys2Proof.Proofs.Streams
open Sys2Proof.Proofs.Accesses
open Sys2Proof.Proofs.Entries
open Sys2Proof.Proofs.GlobalAccesses
open Sys2Proof.Proofs.Cells
open Sys2Proof.Proofs.Tapes
open Sys2Proof.Proofs.Records
open Sys2Proof.Proofs.Adjoints
open Sys2Proof.Proofs.AdjointStores

/-- An element of a line of bytes. -/
theorem readN_window (m : Memory) (a : Nat) {k j n : Nat} (h : k + j ≤ n) :
    Memory.readN m a n / 2 ^ (8 * k) % 2 ^ (8 * j) = Memory.readN m (a + k) j := by
  obtain ⟨r, rfl⟩ : ∃ r, n = k + (j + r) := ⟨n - k - j, by omega⟩
  rw [two_pow_bytes, two_pow_bytes, ← natOfBytes_readBytes, natOfBytes_window, drop_readBytes, take_readBytes, natOfBytes_readBytes]

section Lines

variable {s s1 s2 : State} {c x : Nat} {a b : Reg} {p cp : Page}

/-- The accesses of the cells of a line. -/
def cellsOf (av : Nat) (p cp : Page) (kind : Nat → AccKind) : List Machine.Acc :=
  (List.range (128 / p.esize)).map (fun i =>
    { id := 0, kind := kind i, va := av + i * p.esize, pa := cp.pa (cellVa p.esize av) + 8 * i, isSt := true })

/-- Their places. -/
def cellPas (av : Nat) (p cp : Page) : List Nat := (List.range (128 / p.esize)).map (fun i => cp.pa (cellVa p.esize av) + 8 * i)

theorem pas_cellAccs (av : Nat) (kind : Nat → AccKind) : (cellAccs p cp av kind).map (fun x => x.pa) = cellPas av p cp := by
  unfold cellAccs cellPas
  rw [List.map_map]
  rfl

theorem cellAccs_congr {av : Nat} {f g : Nat → AccKind} (h : ∀ i, i < 128 / p.esize → f i = g i) : cellAccs p cp av f = cellsOf av p cp g := by
  unfold cellAccs cellsOf
  exact List.map_congr_left fun i hi => by rw [h i (List.mem_range.1 hi)]

/-- A line's element as its cell receives it. -/
theorem element_of_line (m : Memory) (bv : Nat) {z i : Nat} (h : i < 128 / z) :
    Memory.readN m bv 128 / 2 ^ (8 * z * i) % 2 ^ (8 * z) = Memory.readN m (bv + z * i) z := by
  have hz : 0 < z := Nat.pos_of_ne_zero fun h0 => by rw [h0] at h; simp at h
  rw [Nat.mul_assoc]
  refine readN_window m bv ?_
  have := (Nat.le_div_iff_mul_le hz).1 (Nat.succ_le_of_lt h)
  rw [Nat.succ_mul, Nat.mul_comm] at this
  exact this

theorem base_spadWrite {w : State} (hw : Walked (fresh s) w) (bv n v : Nat) :
    Base s (w.spadWrite (.thread c x) bv n v) c x (s.ctx c x).tapeptr := by
  have h := Walked.base (c := c) (x := x) hw
  have hc : (w.spadWrite (.thread c x) bv n v).ctx c x = w.ctx c x := by
    refine ctx_setCore_same ?_ c x
    rfl
  refine ⟨hc.trans h.ctx, ?_, h.now⟩
  exact (congrArg Core.nextAcc (State.core_setCore_self ..)).trans h.next

theorem spad_spadWrite (w : State) (c x bv n v : Nat) :
    ((w.spadWrite (.thread c x) bv n v).core c).spad = Memory.writeN (w.core c).spad bv n v :=
  congrArg Core.spad (State.core_setCore_self ..)

section Placed

variable (hq : s.cur = .thread c x) (hs : Stands s 1 .any) (hr : RegsReady s [srcS a, srcS b])
  (hb : (s.getS s.cur b).toNat % 128 = 0) (hb' : (s.getS s.cur b).toNat + 127 ≤ 0xBFFFF)
  (hl : s.lineBusy s.cur (s.getS s.cur b).toNat 128 = false) (hd : p.d = true)

include hq hs hr hb hb' hl hd

/-- A forward `STL` on a D page reserves its record (R333). -/
theorem stl_forward (hg : Good s c (s.getS s.cur a) 128 false true p s1) (hm : (s.ctx c x).modeRev = false) :
    let t := s.ctx c x
    let av := (s.getS s.cur a).toNat
    let bv := (s.getS s.cur b).toNat
    let top := t.tapeptr.toNat
    (t.tapelim.toNat < top + 144 → Traps (.stl a b) s .tapeovf (s.getS s.cur a)) ∧
    (∀ ps s3, top + 144 ≤ t.tapelim.toNat → State.xlateRange c (top + 144 - 1) false true tapePageBad 4 s1 top = .pages ps s3 →
      s.admits s.cur false true [p.pa av] = true → ∃ u, exec (.stl a b) s = .next u ∧ BytesSame s u ∧
        (u.ctx c x).tapeptr = BitVec.ofNat 64 (top + 144) ∧ (u.ctx c x).instret = t.instret + 1 ∧ FlowsOn s u 1 ∧
        EntersAs s u c x [{ id := 0, kind := .stl (Memory.readBytes (s.core c).spad bv 128), va := av, pa := p.pa av, isSt := true,
                            tape := (List.range 9).map (fun i => paIn ps (top + 16 * i)) }]) := by
  intro t av bv top
  have hw := walked_xlate hg.2.2.1
  have hbody : lineBody false true stlOn a b s.cur (fresh s) =
      s1.tapeReserve (.thread c x) 3 av (stlStore (.thread c x) (s.getS s.cur a) (s.getS s.cur b) p) := by
    rw [line_free hq hr hb hb' hg hl, stlOn, if_neg (by rw [hd]; decide), if_pos (by rw [modeRev_walked hw, hm]; rfl)]
  refine ⟨fun h => traps_of_issue _ exec_stl hs ?_, fun ps s3 h hx ha => ?_⟩
  · rw [hbody, reserve_full hw h, ofNat_toNat64]
  · obtain ⟨w, hT, hk⟩ := reserve_pages (va := av) (k := stlStore (.thread c x) (s.getS s.cur a) (s.getS s.cur b) p) (kind := 3) hw h hx
    obtain ⟨u, hu, hI, hc, hf, -⟩ := retires_issued (P := s.prog s.cur) hq exec_stl hs hT.base rfl rfl (by
      rw [hbody, hk, stlStore, if_neg (by rw [hT.admits, ← hq, ha]; decide), enqueue_base hq hT.base,
        show (w.core (Seqr.thread c x).core).spad = (s.core c).spad from hT.spad])
    exact ⟨u, hu, bytesSame_trans hT.bytes hI.bytes, hI.tape, hc, hf, entersAs_of_issued hI hT.bytes.hbm⟩

/-- Reverse-mode `LDL` adds the line's elements to their cells, and the line is zero (R231). -/
theorem ldl_reverse (hg : Good s c (s.getS s.cur a) 128 true false p s1) (hm : (s.ctx c x).modeRev = true)
    (hx : s1.xlate c (cellVa p.esize (s.getS s.cur a).toNat) true true = .page cp s2)
    (ha : s.admits s.cur false true (cellPas (s.getS s.cur a).toNat p cp) = true) :
    let av := (s.getS s.cur a).toNat
    let bv := (s.getS s.cur b).toNat
    ∃ u, exec (.ldl a b) s = .next u ∧ GoesOn s c x u ∧
      EntersAs s u c x (cellsOf av p cp (fun i => .adjAdd cp.scale p.fmt (Memory.readN (s.core c).spad (bv + p.esize * i) p.esize))) ∧
      ((s.core c).spad.wf = true → ∀ k, Memory.read (u.core c).spad k =
        if bv ≤ k ∧ k < bv + 128 then 0 else Memory.read (s.core c).spad k) := by
  intro av bv
  have hw1 := walked_xlate hg.2.2.1
  have hw := hw1.trans (walked_xlate hx)
  have hB := base_spadWrite (c := c) (x := x) hw bv 128 0
  have hspad : (s2.core c).spad = (s.core c).spad := spad_walked hw
  have has : cellAccs p cp av (fun i => .adjAdd cp.scale p.fmt (s2.spadRead (.thread c x) bv 128 / 2 ^ (8 * p.esize * i) % 2 ^ (8 * p.esize))) =
      cellsOf av p cp (fun i => .adjAdd cp.scale p.fmt (Memory.readN (s.core c).spad (bv + p.esize * i) p.esize)) := by
    refine cellAccs_congr fun i hi => congrArg _ ?_
    rw [← element_of_line (s.core c).spad bv hi, ← hspad]
    rfl
  obtain ⟨u, hu, hI, hgo⟩ := adj_issues (P := s.prog s.cur)
      (as := cellsOf av p cp (fun i => .adjAdd cp.scale p.fmt (Memory.readN (s.core c).spad (bv + p.esize * i) p.esize)))
      hq exec_ldl hs hB rfl rfl rfl (by
    rw [line_free hq hr hb hb' hg hl, ldlOn, if_pos (by rw [modeRev_walked hw1, hd, hm]; rfl)]
    refine (withPage_page hx).trans ?_
    dsimp only
    rw [pas_cellAccs, if_neg (by rw [admits_walked hq hw, ha]; decide), has, enqueue_base hq hB])
  refine ⟨u, hu, hgo, entersAs_of_issued hI (bytes_walked hw).hbm, fun hwf k => ?_⟩
  rw [hI.bytes.spad c k]
  rw [spad_spadWrite, hspad, Memory.read_writeN _ _ _ _ _ hwf, Nat.zero_div]
  rfl

/-- The accesses of a reverse-mode `STL`. -/
def stlAccs (av : DWord) (bv : Nat) (p cp : Page) (rm : Rm) (old : List Byte) : List Machine.Acc :=
  cellsOf av.toNat p cp (fun i => .adjTake cp.scale p.fmt rm (i * p.esize)) ++
    [{ id := 0, kind := .line bv (List.replicate 128 0) },
     { id := 0, kind := .restoreLine old, va := av.toNat, pa := p.pa av.toNat, isSt := true }]

/-- What a reverse-mode `STL` does once its record is popped. -/
def stlTakes (q : Seqr) (av bv : DWord) (p cp : Page) (old : List Byte) (s : State) : Res :=
  let takes := cellAccs p cp av.toNat (fun i => .adjTake cp.scale p.fmt (s.thread q).mode5 (i * p.esize))
  if !s.admits q false true (p.pa av.toNat :: takes.map (fun x => x.pa)) then .stall
  else
    let (s1, g) := s.enqueue q (takes ++
      [{ id := 0, kind := .line bv.toNat (List.replicate 128 0) },
       { id := 0, kind := .restoreLine old, va := av.toNat, pa := p.pa av.toNat, isSt := true }])
    s1.adjIssued q g

theorem stl_reverse (hg : Good s c (s.getS s.cur a) 128 false true p s1) (hm : (s.ctx c x).modeRev = true)
    (hx : s1.xlate c (cellVa p.esize (s.getS s.cur a).toNat) true true = .page cp s2) :
    let t := s.ctx c x
    let av := (s.getS s.cur a).toNat
    let bv := (s.getS s.cur b).toNat
    let top := t.tapeptr.toNat
    (top - t.tapebase.toNat < 144 → Traps (.stl a b) s .tapemis (s.getS s.cur a)) ∧
    (∀ ps s3, ¬ top - t.tapebase.toNat < 144 → State.xlateRange c (top - 1) true false (fun _ => none) 4 s2 (top - 144) = .pages ps s3 →
      (¬ PopMay s c x ps 144 → Stalls (.stl a b) s) ∧
      (PopMay s c x ps 144 → ¬ PopFits s c x ps 144 3 av → Traps (.stl a b) s .tapemis (s.getS s.cur a)) ∧
      (PopMay s c x ps 144 → PopFits s c x ps 144 3 av → s.admits s.cur false true (p.pa av :: cellPas av p cp) = true →
        ∃ u, exec (.stl a b) s = .next u ∧ BytesSame s u ∧ GoesOn s c x u ∧ (u.ctx c x).tapeptr = BitVec.ofNat 64 (top - 144) ∧
          EntersAs s u c x (stlAccs (s.getS s.cur a) bv p cp (Rm.ofField t.frm)
            ((List.range 8).map (fun i => Memory.readBytes s.hbm (partAt s c x ps 144 i) 16)).flatten))) := by
  intro t av bv top
  have hw1 := walked_xlate hg.2.2.1
  have hbody : lineBody false true stlOn a b s.cur (fresh s) =
      s2.tapePop (.thread c x) 3 av (stlTakes (.thread c x) (s.getS s.cur a) (s.getS s.cur b) p cp) := by
    rw [line_free hq hr hb hb' hg hl, stlOn, if_neg (by rw [hd]; decide), if_neg (by rw [modeRev_walked hw1, hm]; decide)]
    exact withPage_page hx
  obtain ⟨hbelow, hpages⟩ := pop_outcomes (.inr rfl) exec_stl hs (hw1.trans (walked_xlate hx)) hbody
  rw [ofNat_toNat64] at hbelow
  refine ⟨hbelow, fun ps s3 h hx3 => ?_⟩
  obtain ⟨hstall, hmis, hfit⟩ := hpages ps s3 h hx3
  rw [ofNat_toNat64] at hmis
  refine ⟨hstall, hmis, fun hmay hf ha => ?_⟩
  obtain ⟨w, hT, hk⟩ := hfit hmay hf
  obtain ⟨u, hu, hI, hgo⟩ := adj_issues (P := s.prog s.cur)
      (as := stlAccs (s.getS s.cur a) bv p cp (Rm.ofField t.frm)
        ((List.range 8).map (fun i => Memory.readBytes s.hbm (partAt s c x ps 144 i) 16)).flatten) hq exec_stl hs hT.base rfl rfl rfl (by
    have hmode : (w.thread (.thread c x)).mode5 = Rm.ofField t.frm := by
      show Rm.ofField (w.ctx c x).frm = _
      rw [hT.ctx]
    rw [hk, if_pos rfl, oldLine, stlTakes]
    dsimp only
    rw [pas_cellAccs, if_neg (by rw [hT.admits, ← hq, ha]; decide), hmode, enqueue_base hq hT.base]
    rfl)
  exact ⟨u, hu, bytesSame_trans hT.bytes hI.bytes, hgo, hI.tape, entersAs_of_issued hI hT.bytes.hbm⟩

end Placed

end Lines

end Sys2Proof.Proofs.AdjointLines
end

section
/-! PROOFS. `ADJ.LD` and `ADJ.CLR` (R340, R341). -/

namespace Sys2Proof.Proofs.AdjointCells

open Sys2Proof.Machine
open Sys2Proof.Safety
open Sys2Proof.Proofs.Transfers
open Sys2Proof.Proofs.Traps
open Sys2Proof.Proofs.Tokens
open Sys2Proof.Proofs.Return
open Sys2Proof.Proofs.Groups
open Sys2Proof.Proofs.Accesses
open Sys2Proof.Proofs.Entries
open Sys2Proof.Proofs.GlobalAccesses
open Sys2Proof.Proofs.Cells
open Sys2Proof.Proofs.Tapes
open Sys2Proof.Proofs.Records
open Sys2Proof.Proofs.Adjoints

variable {s s1 s2 : State} {c x : Nat} {d a b : Reg} {imm : BitVec 12} {p cp : Page}

/-! ### `ADJ.LD` -/

section Reads

/-- What `ADJ.LD` does with its cell. -/
def adjRead (q : Seqr) (d : Reg) (ea : DWord) (p cp : Page) (s : State) : Res :=
  if !s.admits q true false [] then .stall
  else
    let (s1, g) := s.enqueue q [{ id := 0, kind := .adjRead cp.scale p.fmt (s.thread q).mode5 d.toNat, va := ea.toNat,
                                  pa := cp.pa (cellVa p.esize ea.toNat), isLd := true }]
    (s1.setProg q ((s1.prog q).markEmpty d.toNat)).adjIssued q g

/-- What it does with the element's page. -/
def adjLdPage (q : Seqr) (d : Reg) (ea : DWord) (p : Page) (s : State) : Res :=
  if !p.d then .trap .mode ea
  else if ea.toNat % p.esize ≠ 0 then .trap .align ea
  else s.withPage q.core (cellVa p.esize ea.toNat) true false (adjRead q d ea p)

/-- What it does with its address. -/
def adjLdOn (q : Seqr) (d : Reg) (ea : DWord) (s : State) : Res :=
  if ea >>> 56 ≠ 0 then .trap .xlate ea else s.withPage q.core ea.toNat true false (adjLdPage q d ea)

/-- The body of `ADJ.LD`. -/
def adjLdBody (d a : Reg) (imm : BitVec 12) (q : Seqr) (s : State) : Res :=
  s.ready q [srcS a] [srcS d] (adjLdOn q d (s.getS q a + sx64 imm) s)

theorem exec_adjLd : exec (.adjLd d a imm) s = issue s 1 .any (adjLdBody d a imm) := rfl

theorem adjLd_issues (hq : s.cur = .thread c x) (hs : Stands s 1 .any) (hr : RegsReady s [srcS a, srcS d]) :
    let t := s.ctx c x
    let ea := s.getS s.cur a + BitVec.ofInt 64 imm.toInt
    let pa := cp.pa (cellVa p.esize ea.toNat)
    (2 ^ 56 ≤ ea.toNat → Traps (.adjLd d a imm) s .xlate ea) ∧
    (ea.toNat < 2 ^ 56 → (fresh s).xlate c ea.toNat true false = .page p s1 →
      (p.d = false → Traps (.adjLd d a imm) s .mode ea) ∧
      (p.d = true → ea.toNat % p.esize ≠ 0 → Traps (.adjLd d a imm) s .align ea) ∧
      (p.d = true → ea.toNat % p.esize = 0 → s1.xlate c (cellVa p.esize ea.toNat) true false = .page cp s2 →
        (s.admits s.cur true false [] = false → Stalls (.adjLd d a imm) s) ∧
        (s.admits s.cur true false [] = true → ∃ u, exec (.adjLd d a imm) s = .next u ∧ BytesSame s u ∧ GoesOn s c x u ∧
          (d ≠ 0 → (u.prog s.cur).isEmptyS d.toNat = true) ∧ (∀ r, u.getS s.cur r = s.getS s.cur r) ∧
          EntersAs s u c x [{ id := 0, kind := .adjRead cp.scale p.fmt (Rm.ofField t.frm) d.toNat, va := ea.toNat, pa := pa, isLd := true }]))) := by
  intro t ea pa
  have hb : adjLdBody d a imm s.cur (fresh s) = adjLdOn (.thread c x) d ea (fresh s) := by
    rw [adjLdBody, fresh_ready (srcs := [srcS a]) (dests := [srcS d]) hr, fresh_getS]
    exact congrArg (fun q => adjLdOn q d ea (fresh s)) hq
  refine ⟨fun h => traps_of_issue _ exec_adjLd hs ?_, fun h hx => ?_⟩
  · rw [hb, adjLdOn, if_pos ((shift_ne_zero_iff ea).2 h)]
  have hpage : adjLdBody d a imm s.cur (fresh s) = adjLdPage (.thread c x) d ea p s1 := by
    rw [hb, adjLdOn, if_neg (by rw [shift_ne_zero_iff]; omega)]
    exact withPage_page hx
  refine ⟨fun hd => traps_of_issue _ exec_adjLd hs ?_, fun hd hz => traps_of_issue _ exec_adjLd hs ?_, fun hd hz hx2 => ?_⟩
  · rw [hpage, adjLdPage, if_pos (by rw [hd]; rfl)]
  · rw [hpage, adjLdPage, if_neg (by rw [hd]; decide), if_pos hz]
  have hw := (walked_xlate hx).trans (walked_xlate hx2)
  have hread : adjLdBody d a imm s.cur (fresh s) = adjRead (.thread c x) d ea p cp s2 := by
    rw [hpage, adjLdPage, if_neg (by rw [hd]; decide), if_neg (not_not.2 hz)]
    exact withPage_page hx2
  have hadm := admits_walked hq hw true false []
  refine ⟨fun ha => stalls_of_issue _ exec_adjLd hs ?_, fun ha => ?_⟩
  · rw [hread, adjRead, if_pos (by rw [hadm, ha]; rfl)]
  have hP := markEmpty_rest (s.prog s.cur) d.toNat
  obtain ⟨u, hu, hI, hgo⟩ := adj_issues (P := (s.prog s.cur).markEmpty d.toNat)
      (as := [{ id := 0, kind := .adjRead cp.scale p.fmt (Rm.ofField t.frm) d.toNat, va := ea.toNat, pa := pa, isLd := true }])
      hq exec_adjLd hs (Walked.base hw) hP.1 hP.2.1 hP.2.2.2.2 (by
    have hmode : (s2.thread (.thread c x)).mode5 = Rm.ofField t.frm := congrArg (fun u : Ctx => Rm.ofField u.frm) (ctx_walked hw)
    rw [hread, adjRead, if_neg (by rw [hadm, ha]; decide), hmode]
    dsimp only
    rw [enqueue_empties hq (Walked.base hw), enqueue_base hq (Walked.base hw)])
  refine ⟨u, hu, bytesSame_trans (bytes_walked hw) hI.bytes, hgo, fun h0 => ?_, fun r => ?_, entersAs_of_issued hI (bytes_walked hw).hbm⟩
  · rw [hI.empty, isEmptyS_markEmpty _ (by omega)]
    have : d.toNat ≠ 0 := fun e => h0 (BitVec.eq_of_toNat_eq e)
    simp [this]
  · rw [hI.getS]
    exact hP.2.2.1 _

end Reads

/-! ### `ADJ.CLR` -/

section Clears

theorem walked_clrCheck {lo hi n va m : Nat} {rs : List (Nat × Nat)} {u : State} (h : clrCheck c lo hi n s va = .runs rs m u) : Walked s u := by
  induction n generalizing s va rs m with
  | zero => cases h; exact .refl _
  | succ n ih =>
    rw [clrCheck] at h
    split at h
    · cases h
    · cases h
    · next hp =>
      dsimp only at h
      split at h
      · cases h
      split at h
      · cases h
      split at h
      · cases h
      split at h
      · cases h
      · cases h
      · next hr =>
        have hw := (walked_xlate hp).trans (walked_xlateRange hr)
        split at h
        · cases h; exact hw
        · split at h
          · next hc => cases h; exact hw.trans (ih hc)
          · next hne => exact absurd h (hne _ _ _)

/-- What `ADJ.CLR` does once its checks have passed. -/
def adjClrOn (q : Seqr) (av : DWord) : ClrCheck → Res
  | .trap c v => .trap c v
  | .noMemory => .stop .noMemory
  | .runs rs pages s =>
    if !s.admits q false true [] then .stall
    else .retire ((s.enqueue q [{ id := 0, kind := .adjClear rs, va := av.toNat, isSt := true }]).1.holdFor q (2 + pages))

/-- What it does with its range. -/
def adjClrRange (q : Seqr) (av bv : DWord) (s : State) : Res :=
  if 2 ^ 32 < bv.toNat then .trap .illegal bv
  else if bv = 0 then .retire s
  else if av >>> 56 ≠ 0 ∨ (av + bv - 1) >>> 56 ≠ 0 then .trap .xlate av
  else adjClrOn q av (clrCheck q.core av.toNat (av + bv - 1).toNat (bv.toNat / 65536 + 2) s av.toNat)

/-- The body of `ADJ.CLR`. -/
def adjClrBody (a b : Reg) (q : Seqr) (s : State) : Res :=
  s.ready q [srcS a, srcS b] [] (adjClrRange q (s.getS q a) (s.getS q b) s)

theorem exec_adjClr : exec (.adjClr a b) s = issue s 1 .any (adjClrBody a b) := rfl

section Range

variable (hq : s.cur = .thread c x) (hs : Stands s 1 .any) (hr : RegsReady s [srcS a, srcS b])

include hq hs hr

theorem adjClr_refused :
    let av := s.getS s.cur a
    let bv := s.getS s.cur b
    let hi := (av + bv - 1).toNat
    (2 ^ 32 < bv.toNat → Traps (.adjClr a b) s .illegal bv) ∧
    (bv = 0 → Retires (.adjClr a b) s 1 (fresh s)) ∧
    (0 < bv.toNat → bv.toNat ≤ 2 ^ 32 → 2 ^ 56 ≤ av.toNat ∨ 2 ^ 56 ≤ hi → Traps (.adjClr a b) s .xlate av) ∧
    (0 < bv.toNat → bv.toNat ≤ 2 ^ 32 → av.toNat < 2 ^ 56 → hi < 2 ^ 56 →
      adjClrBody a b s.cur (fresh s) = adjClrOn (.thread c x) av (clrCheck c av.toNat hi (bv.toNat / 65536 + 2) (fresh s) av.toNat)) := by
  intro av bv hi
  have hb : adjClrBody a b s.cur (fresh s) = adjClrRange (.thread c x) av bv (fresh s) := by
    rw [adjClrBody, fresh_ready (srcs := [srcS a, srcS b]) (dests := []) hr, fresh_getS, fresh_getS]
    exact congrArg (fun q => adjClrRange q av bv (fresh s)) hq
  have hne : 0 < bv.toNat → ¬ bv = 0 := fun h e => by rw [e] at h; exact absurd h (by decide)
  refine ⟨fun h => traps_of_issue _ exec_adjClr hs ?_, fun h => retires_of_issue _ exec_adjClr hs ?_,
    fun h0 h32 h => traps_of_issue _ exec_adjClr hs ?_, fun h0 h32 ha hh => ?_⟩ <;> rw [hb, adjClrRange]
  · rw [if_pos h]
  · rw [if_neg (by rw [h]; decide), if_pos h]
  · rw [if_neg (Nat.not_lt.2 h32), if_neg (hne h0), if_pos]
    rw [shift_ne_zero_iff, shift_ne_zero_iff]
    exact h
  · rw [if_neg (Nat.not_lt.2 h32), if_neg (hne h0), if_neg]
    · rfl
    · rw [shift_ne_zero_iff, shift_ne_zero_iff, not_or, not_le, not_le]
      exact ⟨ha, hh⟩

/-- Its zero stores enter as one entry, and it holds the thread (R341). -/
theorem adjClr_enters {rs : List (Nat × Nat)} {m : Nat} {s3 : State}
    (hb : adjClrBody a b s.cur (fresh s) = adjClrOn (.thread c x) (s.getS s.cur a) (.runs rs m s3)) (hw : Walked (fresh s) s3)
    (ha : s.admits s.cur false true [] = true) :
    ∃ u, exec (.adjClr a b) s = .next u ∧ BytesSame s u ∧ (∀ r, u.getS s.cur r = s.getS s.cur r) ∧
      EntersAs s u c x [{ id := 0, kind := .adjClear rs, va := (s.getS s.cur a).toNat, isSt := true }] ∧
      (u.prog s.cur).hold = some (.clock (s.now + (2 + m))) := by
  have hB := Walked.base (c := c) (x := x) hw
  obtain ⟨u, hu, hI, -, -, hh⟩ := retires_issued (P := { s.prog s.cur with hold := some (.clock (s.now + (2 + m))) })
      (as := [{ id := 0, kind := .adjClear rs, va := (s.getS s.cur a).toNat, isSt := true }]) hq exec_adjClr hs hB rfl rfl (by
    rw [hb, adjClrOn, if_neg (by rw [admits_walked hq hw, ha]; decide), enqueue_base hq hB]
    refine congrArg Res.retire ?_
    show (enteredState s3 c x _ _).setProg (.thread c x) { ((enteredState s3 c x _ _).ctx c x).prog with hold := some (.clock (s3.now + (2 + m))) } = _
    rw [setProg_enteredState, ctx_enteredState, hB.now])
  exact ⟨u, hu, bytesSame_trans (bytes_walked hw) hI.bytes, fun r => hI.getS r, entersAs_of_issued hI (bytes_walked hw).hbm, hh⟩

end Range

/-! A range within one page of elements and one page of cells. -/

section OnePage

variable {av hi n : Nat} (hx : s.xlate c av true false = .page p s1)

include hx

theorem clrCheck_mode (hd : p.d = false) : clrCheck c av hi (n + 1) s av = .trap .mode (BitVec.ofNat 64 av) := by
  rw [clrCheck, hx]
  exact if_pos (by rw [hd]; rfl)

theorem clrCheck_start (hd : p.d = true) (hz : av % p.esize ≠ 0) :
    clrCheck c av hi (n + 1) s av = .trap .align (BitVec.ofNat 64 (av / p.esize * p.esize)) := by
  rw [clrCheck, hx]
  exact (if_neg (by rw [hd]; decide)).trans (if_pos ⟨rfl, hz⟩)

variable (hd : p.d = true) (hlast : hi < p.base + p.size) (hz : av % p.esize = 0)

include hd hlast hz

theorem clrCheck_end (hz' : (hi + 1) % p.esize ≠ 0) :
    clrCheck c av hi (n + 1) s av = .trap .align (BitVec.ofNat 64 ((hi + 1) / p.esize * p.esize)) := by
  have hmin : min hi (p.base + p.size - 1) = hi := by omega
  rw [clrCheck, hx]
  dsimp only
  rw [hmin, if_neg (by rw [hd]; decide), if_neg (fun h => h.2 hz), if_pos ⟨rfl, hz'⟩]

theorem clrCheck_run (hpos : 0 < p.esize) (hle : av ≤ hi) (hz' : (hi + 1) % p.esize = 0)
    (hx2 : s1.xlate c (cellVa p.esize av) false true = .page cp s2) (hlo : cp.base ≤ cellVa p.esize av)
    (hhi : cellVa p.esize hi + 7 < cp.base + cp.size) :
    clrCheck c av hi (n + 1) s av = .runs [(cp.pa (cellVa p.esize av), (hi + 1 - av) / p.esize)] 1 s2 := by
  have hmin : min hi (p.base + p.size - 1) = hi := by omega
  have hrange : State.xlateRange c (cellVa p.esize hi + 7) false true (fun _ => none) (8 * p.size / 65536 + 2) s1 (cellVa p.esize av) = .pages [cp] s2 := by
    rw [State.xlateRange, hx2]
    exact if_pos hhi
  have hcell : cellVa p.esize (hi + 1) = cellVa p.esize hi + 8 := by
    unfold cellVa
    obtain ⟨q, hq⟩ := Nat.dvd_of_mod_eq_zero hz'
    have hq0 : 0 < q := Nat.pos_of_ne_zero fun h0 => by rw [h0] at hq; omega
    rw [hq, Nat.mul_div_cancel_left _ hpos, show hi / p.esize = q - 1 from ?_]
    · omega
    · refine Nat.div_eq_of_lt_le ?_ ?_
      · have : (q - 1) * p.esize + p.esize = p.esize * q := by rw [← Nat.succ_mul, Nat.mul_comm]; congr 1; omega
        omega
      · rw [show q - 1 + 1 = q by omega, Nat.mul_comm, ← hq]
        omega
  have hruns : cellRuns [cp] p.esize av hi = [(cp.pa (cellVa p.esize av), (hi + 1 - av) / p.esize)] := by
    obtain ⟨i, hi'⟩ := Nat.dvd_of_mod_eq_zero hz
    obtain ⟨j, hj⟩ := Nat.dvd_of_mod_eq_zero hz'
    have hcount : (min (cp.base + cp.size) (cellVa p.esize (hi + 1)) - cellVa p.esize av) / 8 = (hi + 1 - av) / p.esize := by
      rw [Nat.min_eq_right (by omega)]
      unfold cellVa
      rw [hi', hj, Nat.mul_div_cancel_left _ hpos, Nat.mul_div_cancel_left _ hpos, ← Nat.mul_sub, Nat.mul_div_cancel_left _ hpos]
      omega
    simp only [cellRuns, List.map_cons, List.map_nil, Nat.max_eq_right hlo, hcount]
  rw [clrCheck, hx]
  dsimp only
  rw [hmin, if_neg (by rw [hd]; decide), if_neg (fun h => h.2 hz), if_neg (fun h => h.2 hz'), hrange]
  dsimp only
  rw [if_pos rfl, hruns]

end OnePage

end Clears

end Sys2Proof.Proofs.AdjointCells
end

section
/-! PROOFS. Modes, the tape, and accesses of differentiable pages (R231, R331–R341). -/

namespace Sys2Proof.Proofs.DifferentiablePages

open Sys2Proof.Machine
open Sys2Proof.Safety
open Sys2Proof.Proofs.Entries
open Sys2Proof.Proofs.GlobalAccesses
open Sys2Proof.Proofs.Cells
open Sys2Proof.Proofs.Tapes
open Sys2Proof.Proofs.Records
open Sys2Proof.Proofs.Adjoints
open Sys2Proof.Proofs.AdjointStores
open Sys2Proof.Proofs.AdjointLines
open Sys2Proof.Proofs.AdjointCells

/-- Settles O33: forward stores reserve their record and reverse-mode instructions queue the accesses of their cells after a pop, and each
such access performs by its kind. -/
theorem differentiablePages : Obligations.DifferentiablePages := by
  unfold Obligations.DifferentiablePages
  refine ⟨?_, ?_, ?_⟩
  · intro s c x a b hq hs t av bv bad onD record still
    refine ⟨fun v hv => ?_, fun hr => tapeSet_spec hq hs hr⟩
    rcases List.mem_cons.1 hv with rfl | hv
    · exact modeSwitch_spec hq rfl hs
    · obtain rfl := List.mem_singleton.1 hv
      exact modeSwitch_spec hq rfl hs
  · intro s c x d a b imm p cp s1 s2 hq hs n t ea z cell cellPa dv rm any stamp enters goesOn fwd onD cellOk top below tape part may fits popped
    have hgood : ∀ {va : DWord} {size : Nat} {r w : Bool}, onD va.toNat size r w → Good s c va size r w p s1 ∧ p.d = true := fun h =>
      ⟨⟨h.1, h.2.1, h.2.2.1, h.2.2.2.1⟩, h.2.2.2.2⟩
    refine ⟨fun hr => ⟨fun v hv h hm => ?_, fun v hv h hm hz => ?_, fun hm hz h hx => ?_, fun hm hz h hx => ?_⟩, ?_, fun hr => ?_, ?_⟩
    · rcases List.mem_cons.1 hv with rfl | hv
      · exact stg_forward hq hs hr exec_stgW (hgood h).1 (hgood h).2 hm
      · obtain rfl := List.mem_singleton.1 hv
        exact stg_forward hq hs hr exec_stgD (hgood h).1 (hgood h).2 hm
    · simp only [List.mem_cons, List.not_mem_nil, or_false] at hv
      rcases hv with rfl | rfl | rfl | rfl
      · exact ldg_mode hq hs hr exec_ldgW (hgood h).1 (hgood h).2 hm hz
      · exact ldg_mode hq hs hr exec_ldgD (hgood h).1 (hgood h).2 hm hz
      · exact stg_mode hq hs hr exec_stgW (hgood h).1 (hgood h).2 hm hz
      · exact stg_mode hq hs hr exec_stgD (hgood h).1 (hgood h).2 hm hz
    · exact ldg_reverse hq hs hr (hgood h).1 (hgood h).2 hm hz hx
    · exact stg_reverse hq hs hr (hgood h).1 (hgood h).2 hm hz hx
    · intro hr av bv placed pas cells hpl hz
      obtain ⟨hb, hb', hl⟩ := hpl
      refine ⟨fun h hm => ?_, fun h hm hx ha => ?_, fun h hm hx => ?_⟩
      · exact stl_forward hq hs hr hb hb' hl (hgood h).2 (hgood h).1 hm
      · exact ldl_reverse hq hs hr hb hb' hl (hgood h).2 (hgood h).1 hm hx ha
      · exact stl_reverse hq hs hr hb hb' hl (hgood h).2 (hgood h).1 hm hx
    · exact adjLd_issues hq hs hr
    · intro hr av bv hi
      obtain ⟨hbig, hzero, haddr, hon⟩ := adjClr_refused hq hs hr
      refine ⟨hbig, hzero, haddr, fun rs m s3 h0 h32 ha hh hc hadm => ?_, fun p0 s0 h0 h32 ha hh hx hd => ?_, fun h h0 h32 hh hlo hlast hz => ?_⟩
      · exact adjClr_enters hq hs hr ((hon h0 h32 ha hh).trans (congrArg _ hc)) (walked_clrCheck hc) hadm
      · refine traps_of_issue _ exec_adjClr hs ((hon h0 h32 ha hh).trans ?_)
        rw [clrCheck_mode hx hd, ofNat_toNat64]
        rfl
      · obtain ⟨⟨-, h57, hx, -⟩, hd⟩ := hgood h
        have hsum : hi = av.toNat + bv.toNat - 1 := by
          show (av + bv - 1).toNat = _
          bv_omega
        have ha : av.toNat < 2 ^ 56 := by omega
        have hpos : 0 < p.esize := by
          rcases hz with hz | hz | hz <;> exact lt_of_lt_of_eq (by decide) hz.symm
        refine ⟨fun h1 => ?_, fun h1 h2 => ?_, fun h1 h2 hx2 hcl hch hadm => ?_⟩
        · refine traps_of_issue _ exec_adjClr hs ((hon h0 h32 ha hh).trans ?_)
          rw [clrCheck_start hx hd h1]
          rfl
        · refine traps_of_issue _ exec_adjClr hs ((hon h0 h32 ha hh).trans ?_)
          rw [clrCheck_end hx hd hlast h1 h2]
          rfl
        · have hrun := clrCheck_run (n := bv.toNat / 65536 + 1) hx hd hlast h1 hpos (by omega) h2 hx2 hcl hch
          obtain ⟨u, hu, -, -, he, -⟩ := adjClr_enters hq hs hr ((hon h0 h32 ha hh).trans (congrArg _ hrun)) (walked_clrCheck hrun) hadm
          rw [show hi + 1 - av.toNat = bv.toNat by omega] at he
          exact ⟨u, hu, he⟩
  · intro s e hp hwf c x q t old outside last single held toReg flags
    have hreg : ∀ fmt v, elemToReg fmt v = toReg fmt v := elemToReg_eq
    refine ⟨fun scale fmt bits hk => add_performs hp hwf hk, fun scale fmt rm off hk => ?_,
      fun data reg v hk h64 hh => restore_performs hp hwf hk h64 hh, fun data hk hl hh => restoreLine_performs hp hwf hk hl,
      fun scale fmt rm reg hk h64 => ?_, fun pa m r hk => ?_, fun hh ht => ?_, fun pas data hk hh hl hd => record_performs hp hwf hk hl hd⟩
    · have h := take_performs hp hwf hk
      simp only [hreg] at h
      exact h
    · have h := read_performs hp hk h64
      simp only [hreg] at h
      exact h
    · obtain ⟨u, hu, h1, h2, h3⟩ := clear_performs hp hwf hk
      exact ⟨u, hu, h1, h2, fun _ => h3⟩
    · intro follows he hlt hmem
      exact store_follows hp hh ht hlt hmem

end Sys2Proof.Proofs.DifferentiablePages
end

section
/-! PROOFS. What a bundle of subtrees computes: the tree upward, the adjoints downward, and their sums in slot and leaf order
(R295–R297). -/

namespace Sys2Proof.Proofs.ArcadeTrees

open Sys2Proof.Machine

/-! ### Flags -/

/-- Flags that other flags contain. -/
def Under (x f : Flags) : Prop := x ||| f = f

theorem under_or {x y f : Flags} : Under (x ||| y) f ↔ Under x f ∧ Under y f := by
  unfold Under
  constructor
  · intro h
    constructor
    · calc x ||| f = x ||| (x ||| y ||| f) := by rw [h]
        _ = x ||| y ||| f := by rw [← BitVec.or_assoc, ← BitVec.or_assoc, BitVec.or_self]
        _ = f := h
    · calc y ||| f = y ||| (x ||| y ||| f) := by rw [h]
        _ = x ||| y ||| f := by rw [BitVec.or_comm x y, ← BitVec.or_assoc, ← BitVec.or_assoc, BitVec.or_self]
        _ = f := h
  · rintro ⟨hx, hy⟩
    rw [BitVec.or_assoc, hy, hx]

theorem zero_or_flags (f : Flags) : 0 ||| f = f := BitVec.zero_or
theorem or_zero_flags (f : Flags) : f ||| 0 = f := BitVec.or_zero

/-! ### The tree and the adjoints of a subtree -/

/-- Sum, product and maximum of two children (R295). -/
def op2 (t : Subtree) (o : Nat) (x y : Word) : Word × Flags :=
  let f32 : FpFmt := FpFmt.fp32
  let v := if t.sp then (if o = 1 then spSum t.rm x.toNat y.toNat else if o = 2 then spProd t.rm x.toNat y.toNat
      else spMax t.rm x.toNat y.toNat)
    else if o = 1 then fpAdd f32 t.rm (f32.decode x.toNat) (f32.decode y.toNat)
    else if o = 2 then fpMul f32 t.rm (f32.decode x.toNat) (f32.decode y.toNat) else fpMinMax f32 true x.toNat y.toNat
  (BitVec.ofNat 32 v.1, v.2)

theorem aspOp_eq (t : Subtree) (o : Nat) (x y : Word) : aspOp t.sp t.rm o x y = op2 t o x y := by
  unfold aspOp op2
  match o with
  | 0 => cases t.sp <;> rfl
  | 1 => cases t.sp <;> rfl
  | 2 => cases t.sp <;> rfl
  | n + 3 =>
    simp only [if_neg (show ¬ n + 3 = 1 by omega), if_neg (show ¬ n + 3 = 2 by omega)]

section Tree

variable (a : Arc) (t : Subtree)

/-- A node from its children, with the flags of all below it (R295, R297). -/
def node (n : Nat) (l r : Option ANode × Flags) : Option ANode × Flags :=
  let o := t.ops.getD n 0
  match l.1, r.1 with
  | none, y => (y, l.2 ||| r.2)
  | x, none => (x, l.2 ||| r.2)
  | some x, some y => if o = 0 then (some x, l.2 ||| r.2)
    else (some ⟨(op2 t o x.val y.val).1, if o = 3 ∧ leftWins t.sp a.seed x y = false then y.rep else x.rep⟩,
      l.2 ||| r.2 ||| (op2 t o x.val y.val).2)

theorem node_eq (n : Nat) (l r : Option ANode × Flags) : node a t n l r =
    ((aspNode t.sp t.rm a.seed (t.ops.getD n 0) l.1 r.1).1, l.2 ||| r.2 ||| (aspNode t.sp t.rm a.seed (t.ops.getD n 0) l.1 r.1).2) := by
  obtain ⟨l, f⟩ := l
  obtain ⟨r, g⟩ := r
  unfold node aspNode
  cases l with
  | none => simp
  | some x =>
    cases r with
    | none => simp
    | some y =>
      dsimp only
      split
      · simp
      · rw [aspOp_eq]
        cases leftWins t.sp a.seed x y <;> simp

/-- The register of a leaf; none where the leaf is absent. -/
def reg (m : Nat) : Option Nat := (t.leaves.getD m none).map (fun o => ((SMap.get (0 : DWord) a.wb t.wsel).toNat + o) % 8192)
/-- The register of the root. -/
def dst : Nat := ((SMap.get (0 : DWord) a.wb t.wsel).toNat + t.dst) % 8192
def leaf (m : Nat) : Option ANode × Flags := ((reg a t m).map (fun r => ⟨SMap.get 0 a.pv r, r⟩), 0)
def n0 := node a t 0 (leaf a t 0) (leaf a t 1)
def n1 := node a t 1 (leaf a t 2) (leaf a t 3)
def n2 := node a t 2 (leaf a t 4) (leaf a t 5)
def n3 := node a t 3 (leaf a t 6) (leaf a t 7)
def n4 := node a t 4 (n0 a t) (n1 a t)
def n5 := node a t 5 (n2 a t) (n3 a t)
def root := node a t 6 (n4 a t) (n5 a t)

/-- The adjoints of a node's children, with the flags (R296). -/
def down (n : Nat) (g : Option Word) (l r : Option ANode × Flags) : Option Word × Option Word × Flags :=
  let o := t.ops.getD n 0
  match g, l.1, r.1 with
  | none, _, _ => (none, none, 0)
  | some g, some _, none => (some g, none, 0)
  | some g, none, some _ => (none, some g, 0)
  | some _, none, none => (none, none, 0)
  | some g, some x, some y => if o = 0 then (some g, none, 0) else if o = 1 then (some g, some g, 0)
    else if o = 2 then (some (op2 t 2 g y.val).1, some (op2 t 2 g x.val).1, (op2 t 2 g y.val).2 ||| (op2 t 2 g x.val).2)
    else if leftWins t.sp a.seed x y then (some g, none, 0) else (none, some g, 0)

theorem down_eq (n : Nat) (g : Option Word) (l r : Option ANode × Flags) : down a t n g l r =
    ((aspDown t a.seed (t.ops.getD n 0) g l.1 r.1).1.1, (aspDown t a.seed (t.ops.getD n 0) g l.1 r.1).1.2,
      (aspDown t a.seed (t.ops.getD n 0) g l.1 r.1).2) := by
  obtain ⟨l, f⟩ := l
  obtain ⟨r, h⟩ := r
  unfold down aspDown
  generalize t.ops.getD n 0 = o
  cases g with
  | none => rfl
  | some g =>
    cases l with
    | none => cases r <;> rfl
    | some x =>
      cases r with
      | none => rfl
      | some y =>
        dsimp only
        match o with
        | 0 => rfl
        | 1 => rfl
        | 2 =>
          rw [aspOp_eq, aspOp_eq]
          rfl
        | o + 3 =>
          rw [if_neg (by omega), if_neg (by omega), if_neg (by omega)]
          cases leftWins t.sp a.seed x y <;> rfl

def d6 := down a t 6 (some (SMap.get 0 a.pa (dst a t))) (n4 a t) (n5 a t)
def d4 := down a t 4 (d6 a t).1 (n0 a t) (n1 a t)
def d5 := down a t 5 (d6 a t).2.1 (n2 a t) (n3 a t)
def d0 (n : Nat) := if n = 0 then down a t 0 (d4 a t).1 (leaf a t 0) (leaf a t 1)
  else if n = 1 then down a t 1 (d4 a t).2.1 (leaf a t 2) (leaf a t 3)
  else if n = 2 then down a t 2 (d5 a t).1 (leaf a t 4) (leaf a t 5) else down a t 3 (d5 a t).2.1 (leaf a t 6) (leaf a t 7)
/-- What reaches a leaf. -/
def adjoint (m : Nat) : Option Word := if m % 2 = 0 then (d0 a t (m / 2)).1 else (d0 a t (m / 2)).2.1
def downFlags : Flags := (d6 a t).2.2 ||| (d4 a t).2.2 ||| (d5 a t).2.2 ||| (d0 a t 0).2.2 ||| (d0 a t 1).2.2 ||| (d0 a t 2).2.2 |||
  (d0 a t 3).2.2

variable {t} (h8 : t.leaves.length = 8)

include h8

theorem leaves_eq : t.leaves = (List.range 8).map (fun m => t.leaves.getD m none) := by
  refine List.ext_getElem (by simp [h8]) fun i hi _ => ?_
  rw [List.getElem_map, List.getElem_range, List.getD_eq_getElem _ _ hi]

theorem regs_eq : t.leaves.map (fun l => l.map (a.reg t.wsel)) = (List.range 8).map (reg a t) := by
  conv_lhs => rw [leaves_eq h8]
  rw [List.map_map]
  rfl

/-- The tree of the model, from the registers of the leaves. -/
def treeOf (a : Arc) (t : Subtree) : ATree := aspUp t a.seed (((List.range 8).map (reg a t)).map (fun r => r.map (fun r => ⟨SMap.get 0 a.pv r, r⟩)))

omit h8 in
theorem treeOf_eq : treeOf a t = ⟨[(leaf a t 0).1, (leaf a t 1).1, (leaf a t 2).1, (leaf a t 3).1, (leaf a t 4).1, (leaf a t 5).1, (leaf a t 6).1,
    (leaf a t 7).1], [(n0 a t).1, (n1 a t).1, (n2 a t).1, (n3 a t).1], [(n4 a t).1, (n5 a t).1], (root a t).1, (root a t).2⟩ := by
  simp only [root, n4, n5, n0, n1, n2, n3, node_eq]
  unfold treeOf aspUp
  have hl : ((List.range 8).map (reg a t)).map (fun r => r.map (fun r => (⟨SMap.get 0 a.pv r, r⟩ : ANode))) =
      [(leaf a t 0).1, (leaf a t 1).1, (leaf a t 2).1, (leaf a t 3).1, (leaf a t 4).1, (leaf a t 5).1, (leaf a t 6).1, (leaf a t 7).1] := rfl
  rw [hl]
  have hz : ∀ m, (leaf a t m).2 = 0 := fun _ => rfl
  simp only [aspRow, List.map_cons, List.map_nil, List.headD_cons, List.cons_append, List.nil_append, List.foldl_cons, List.foldl_nil, hz]
  congr 1
  simp only [zero_or_flags, or_zero_flags, Nat.zero_add, Nat.reduceAdd]
  ac_rfl

omit h8 in
theorem downAll_eq : aspDownAll t a.seed (treeOf a t) (SMap.get 0 a.pa (dst a t)) = ((List.range 8).map (adjoint a t), downFlags a t) := by
  have hd : ∀ m, m < 4 → (adjoint a t (2 * m) = (d0 a t m).1 ∧ adjoint a t (2 * m + 1) = (d0 a t m).2.1) := fun m _ => by
    unfold adjoint
    rw [if_pos (by omega), if_neg (by omega), show 2 * m / 2 = m by omega, show (2 * m + 1) / 2 = m by omega]
    exact ⟨rfl, rfl⟩
  have hlist : (List.range 8).map (adjoint a t) = [(d0 a t 0).1, (d0 a t 0).2.1, (d0 a t 1).1, (d0 a t 1).2.1, (d0 a t 2).1, (d0 a t 2).2.1,
      (d0 a t 3).1, (d0 a t 3).2.1] := rfl
  rw [hlist, treeOf_eq]
  unfold downFlags
  simp only [d0, d4, d5, d6, down_eq, if_true, OfNat.ofNat_ne_zero, one_ne_zero, if_false, OfNat.ofNat_ne_one, Nat.reduceEqDiff]
  unfold aspDownAll
  simp only [aspDownRow]
  congr 1
  simp only [zero_or_flags, or_zero_flags, Nat.zero_add, Nat.reduceAdd]
  ac_rfl

end Tree

end Sys2Proof.Proofs.ArcadeTrees
end

section
/-! PROOFS. A bundle's subtrees take their places in slot order: values, adjoints with their sums, flags (R294–R296); its extra clocks
(R299). -/

namespace Sys2Proof.Proofs.ArcadeSums

open Sys2Proof.Machine
open Sys2Proof.Proofs.ArcadeTrees

/-! ### The sums of adjoints -/

section Sums

variable (a : Arc)

/-- A leaf's share of a register's sum. -/
def share (t : Subtree) (r : Nat) (v : Word × Flags) (m : Nat) : Word × Flags :=
  match reg a t m, adjoint a t m with
  | some p, some g => if p = r then ((op2 t 1 v.1 g).1, v.2 ||| (op2 t 1 v.1 g).2) else v
  | _, _ => v

/-- The sum that a register takes, with its flags. -/
def added (ts : List Subtree) (r : Nat) : Word × Flags :=
  (ts.filter Subtree.down).foldl (fun v t => (List.range 8).foldl (share a t r) v) (SMap.get 0 a.pa r, 0)

def leafOf (ts : List Subtree) (dn : Bool) (r : Nat) : Bool := ts.any (fun t => (!dn || t.down) && (List.range 8).any (fun m => reg a t m == some r))

/-- A bundle's effect so far, by the values it gives, each register's sum, the registers that take one, and its other flags. -/
structure Shows (o : BundleOut) (vals : List (Nat × Word)) (sum : Nat → Word × Flags) (leaf : Nat → Bool) (base : Flags → Prop) : Prop where
  vals  : o.vals = vals
  adjs  : ∀ n, SMap.get (SMap.get 0 a.pa n) o.adjs n = (sum n).1
  keys  : ∀ n, n ∈ SMap.keys o.adjs ↔ leaf n = true ∧ n < 8192
  flags : ∀ f, Under o.flags f ↔ base f ∧ ∀ n, n < 8192 → Under (sum n).2 f

/-- One leaf of a downward subtree. -/
def put (t : Subtree) (o : BundleOut) (m : Nat) : BundleOut :=
  match reg a t m with
  | none => o
  | some r =>
    match adjoint a t m with
    | none => { o with adjs := SMap.set o.adjs r (SMap.get (SMap.get 0 a.pa r) o.adjs r) }
    | some g =>
      { o with adjs := SMap.set o.adjs r (op2 t 1 (SMap.get (SMap.get 0 a.pa r) o.adjs r) g).1,
               flags := o.flags ||| (op2 t 1 (SMap.get (SMap.get 0 a.pa r) o.adjs r) g).2 }

theorem reg_lt {t : Subtree} {m r : Nat} (h : reg a t m = some r) : r < 8192 := by
  unfold reg at h
  obtain ⟨o, -, rfl⟩ := Option.map_eq_some_iff.1 h
  exact Nat.mod_lt _ (by decide)

theorem mem_keys_set {α : Type} {m : SMap α} {k n : Nat} {v : α} : n ∈ SMap.keys (SMap.set m k v) ↔ n = k ∨ n ∈ SMap.keys m := by
  unfold SMap.keys
  induction m with
  | nil => simp [SMap.set]
  | cons p r ih =>
    obtain ⟨j, w⟩ := p
    rw [SMap.set]
    split
    · next h => subst h; simp
    · split
      · simp
      · simp only [List.map_cons, List.mem_cons, ih]
        tauto

variable {a}

theorem shows_put {t : Subtree} {o : BundleOut} {vals : List (Nat × Word)} {sum : Nat → Word × Flags} {leaf : Nat → Bool} {base : Flags → Prop}
    (h : Shows a o vals sum leaf base) (m : Nat) :
    Shows a (put a t o m) vals (fun n => share a t n (sum n) m) (fun n => leaf n || reg a t m == some n) base := by
  unfold put share
  cases hr : reg a t m with
  | none => exact ⟨h.vals, h.adjs, fun n => by rw [h.keys]; simp, h.flags⟩
  | some r =>
    have hlt := reg_lt a hr
    have hkeys : ∀ n, (n = r ∨ leaf n = true ∧ n < 8192) ↔ (leaf n || (some r == some n)) = true ∧ n < 8192 := fun n => by
      rw [Bool.or_eq_true, beq_iff_eq, Option.some.injEq]
      constructor
      · rintro (rfl | ⟨h1, h2⟩)
        · exact ⟨.inr rfl, hlt⟩
        · exact ⟨.inl h1, h2⟩
      · rintro ⟨h1 | rfl, h2⟩
        · exact .inr ⟨h1, h2⟩
        · exact .inl rfl
    cases hg : adjoint a t m with
    | none =>
      refine ⟨h.vals, fun n => ?_, fun n => by rw [mem_keys_set, h.keys]; exact hkeys n, h.flags⟩
      rw [SMap.get_set]
      split
      · next e => subst e; exact h.adjs n
      · exact h.adjs n
    | some g =>
      have hold := h.adjs r
      refine ⟨h.vals, fun n => ?_, fun n => by rw [mem_keys_set, h.keys]; exact hkeys n, fun f => ?_⟩
      · rw [SMap.get_set]
        by_cases e : n = r
        · subst e
          simp only [if_true, hold]
        · simp only [if_neg e, if_neg (Ne.symm e)]
          exact h.adjs n
      · dsimp only
        rw [hold, under_or, h.flags]
        constructor
        · rintro ⟨⟨hb, hs⟩, hf⟩
          refine ⟨hb, fun n hn => ?_⟩
          split
          · next e => subst e; exact under_or.2 ⟨hs _ hn, hf⟩
          · exact hs n hn
        · rintro ⟨hb, hs⟩
          have hr' := hs r hlt
          rw [if_pos rfl] at hr'
          refine ⟨⟨hb, fun n hn => ?_⟩, (under_or.1 hr').2⟩
          have hn' := hs n hn
          split at hn'
          · exact (under_or.1 hn').1
          · exact hn'

theorem shows_puts {t : Subtree} {vals : List (Nat × Word)} {base : Flags → Prop} (l : List Nat) {o : BundleOut} {sum : Nat → Word × Flags}
    {leaf : Nat → Bool} (h : Shows a o vals sum leaf base) :
    Shows a (l.foldl (put a t) o) vals (fun n => l.foldl (share a t n) (sum n)) (fun n => leaf n || l.any (fun m => reg a t m == some n)) base := by
  induction l generalizing o sum leaf with
  | nil => exact ⟨h.vals, h.adjs, fun n => (h.keys n).trans (by simp), h.flags⟩
  | cons m l ih =>
    have h' := ih (shows_put (t := t) h m)
    refine ⟨h'.vals, h'.adjs, fun n => ?_, h'.flags⟩
    rw [List.foldl_cons, h'.keys, List.any_cons, Bool.or_assoc]

/-- A leaf's register with what reaches it. -/
def putPair (a : Arc) (t : Subtree) (o : BundleOut) (e : Option Nat × Option Word) : BundleOut :=
  match e.1 with
  | none => o
  | some r =>
    match e.2 with
    | none => { o with adjs := SMap.set o.adjs r (SMap.get (SMap.get 0 a.pa r) o.adjs r) }
    | some g =>
      { o with adjs := SMap.set o.adjs r (aspOp t.sp t.rm 1 (SMap.get (SMap.get 0 a.pa r) o.adjs r) g).1,
               flags := o.flags ||| (aspOp t.sp t.rm 1 (SMap.get (SMap.get 0 a.pa r) o.adjs r) g).2 }

theorem putPair_eq (t : Subtree) (o : BundleOut) (m : Nat) : putPair a t o (reg a t m, adjoint a t m) = put a t o m := by
  unfold putPair put
  dsimp only
  cases reg a t m with
  | none => rfl
  | some r =>
    cases adjoint a t m with
    | none => rfl
    | some g =>
      dsimp only
      rw [aspOp_eq]

/-- A subtree's place in the effect, from its registers and its tree. -/
theorem evalSub_eq {t : Subtree} {o : BundleOut} {regs : List (Option Nat)} {z : ATree} (hr : t.leaves.map (fun l => l.map (a.reg t.wsel)) = regs)
    (hz : aspUp t a.seed (regs.map (fun r => r.map (fun r => ⟨SMap.get 0 a.pv r, r⟩))) = z) :
    a.evalSub o t = if (!t.down) = true then { o with vals := o.vals ++ [(dst a t, (z.root.map ANode.val).getD 0)], flags := o.flags ||| z.flags }
      else (regs.zip (aspDownAll t a.seed z (SMap.get 0 a.pa (dst a t))).1).foldl (putPair a t)
        { o with flags := o.flags ||| z.flags ||| (aspDownAll t a.seed z (SMap.get 0 a.pa (dst a t))).2 } := by
  subst hr
  subst hz
  rfl

theorem evalSub_up {t : Subtree} {o : BundleOut} (h8 : t.leaves.length = 8) (hd : t.down = false) :
    a.evalSub o t = { o with vals := o.vals ++ [(dst a t, ((root a t).1.map ANode.val).getD 0)], flags := o.flags ||| (root a t).2 } := by
  rw [evalSub_eq (regs_eq a h8) (z := treeOf a t) rfl, if_pos (by rw [hd]; rfl), treeOf_eq]

theorem evalSub_down {t : Subtree} {o : BundleOut} (h8 : t.leaves.length = 8) (hd : t.down = true) :
    a.evalSub o t = (List.range 8).foldl (put a t) { o with flags := o.flags ||| (root a t).2 ||| downFlags a t } := by
  rw [evalSub_eq (regs_eq a h8) (z := treeOf a t) rfl, if_neg (by rw [hd]; decide), downAll_eq, treeOf_eq]
  dsimp only
  rw [List.zip_map', List.foldl_map]
  exact List.foldl_ext _ _ _ fun o m _ => putPair_eq t o m

/-- What the subtrees of a bundle raise besides the flags of the sums. -/
def baseFlags (a : Arc) (ts : List Subtree) (f : Flags) : Prop := ∀ t, t ∈ ts → Under (root a t).2 f ∧ (t.down = true → Under (downFlags a t) f)

/-- The values of the upward subtrees. -/
def upVals (a : Arc) (ts : List Subtree) : List (Nat × Word) :=
  (ts.filter (fun t => !t.down)).map (fun t => (dst a t, ((root a t).1.map ANode.val).getD 0))

theorem shows_sub {t : Subtree} {ts : List Subtree} {o : BundleOut} (h8 : t.leaves.length = 8)
    (h : Shows a o (upVals a ts) (added a ts) (leafOf a ts true) (baseFlags a ts)) :
    Shows a (a.evalSub o t) (upVals a (ts ++ [t])) (added a (ts ++ [t])) (leafOf a (ts ++ [t]) true) (baseFlags a (ts ++ [t])) := by
  have hbase : ∀ f, baseFlags a (ts ++ [t]) f ↔ baseFlags a ts f ∧ Under (root a t).2 f ∧ (t.down = true → Under (downFlags a t) f) := fun f => by
    unfold baseFlags
    simp only [List.mem_append, List.mem_singleton, or_imp, forall_and, forall_eq]
    tauto
  have hsum : ∀ n, added a (ts ++ [t]) n = if t.down then (List.range 8).foldl (share a t n) (added a ts n) else added a ts n := fun n => by
    unfold added
    rw [List.filter_append, List.foldl_append]
    cases hd : t.down with
    | false => rw [List.filter_singleton, hd]; rfl
    | true => rw [List.filter_singleton, hd]; rfl
  have hleaf : ∀ n, leafOf a (ts ++ [t]) true n = (leafOf a ts true n || (t.down && (List.range 8).any (fun m => reg a t m == some n))) := fun n => by
    unfold leafOf
    rw [List.any_append, List.any_cons, List.any_nil, Bool.or_false]
    rfl
  have hvals : upVals a (ts ++ [t]) = upVals a ts ++ if t.down then [] else [(dst a t, ((root a t).1.map ANode.val).getD 0)] := by
    unfold upVals
    rw [List.filter_append, List.map_append, List.filter_singleton]
    cases t.down <;> rfl
  cases hd : t.down with
  | false =>
    rw [hd, if_neg (by decide)] at hvals
    rw [evalSub_up h8 hd]
    refine ⟨?_, fun n => ?_, fun n => ?_, fun f => ?_⟩
    · rw [hvals, h.vals]
    · rw [hsum, hd]; exact h.adjs n
    · rw [hleaf, hd, Bool.false_and, Bool.or_false]; exact h.keys n
    · dsimp only
      rw [under_or, h.flags, hbase]
      simp only [hsum, hd, Bool.false_eq_true, if_false, false_imp_iff, and_true]
      tauto
  | true =>
    rw [hd, if_pos rfl, List.append_nil] at hvals
    rw [evalSub_down h8 hd]
    have h0 : Shows a { o with flags := o.flags ||| (root a t).2 ||| downFlags a t } (upVals a ts) (added a ts) (leafOf a ts true)
        (baseFlags a (ts ++ [t])) := by
      refine ⟨h.vals, h.adjs, h.keys, fun f => ?_⟩
      dsimp only
      rw [under_or, under_or, h.flags, hbase, hd]
      tauto
    have h1 := shows_puts (t := t) (List.range 8) h0
    refine ⟨h1.vals.trans hvals.symm, fun n => ?_, fun n => ?_, fun f => ?_⟩
    · rw [hsum, hd]; exact h1.adjs n
    · rw [hleaf, hd, Bool.true_and]; exact h1.keys n
    · rw [h1.flags]
      simp only [hsum, hd, if_true]

theorem shows_bundle {ts : List Subtree} (h8 : ∀ t, t ∈ ts → t.leaves.length = 8) :
    Shows a (ts.foldl a.evalSub {}) (upVals a ts) (added a ts) (leafOf a ts true) (baseFlags a ts) := by
  induction ts using List.reverseRecOn with
  | nil =>
    refine ⟨rfl, fun n => rfl, fun n => ?_, fun f => ?_⟩
    · simp [SMap.keys, leafOf]
    · simp only [baseFlags, added, List.not_mem_nil, false_imp_iff, implies_true, true_and, List.filter_nil, List.foldl_nil]
      exact ⟨fun h _ _ => h, fun h => h 0 (by decide)⟩
  | append_singleton ts t ih =>
    rw [List.foldl_append]
    exact shows_sub (h8 t (by simp)) (ih fun u hu => h8 u (by simp [hu]))

end Sums

/-! ### The extra clocks (R299) -/

section Clocks

/-- The registers of a bank among those below a bound that a test selects. -/
def bankOf (N : Nat) (f : Nat → Bool) (b : Nat) : Nat := ((List.range N).filter (fun r => r % 16 == b && f r)).length

theorem inBank_eraseDups {N : Nat} {l : List Nat} {f : Nat → Bool} (hl : ∀ r, r ∈ l → r < N) (hf : ∀ r, r ∈ l ↔ f r = true) (b : Nat) :
    inBank l.eraseDups b = bankOf N f b := by
  unfold inBank bankOf
  refine List.Perm.length_eq ((List.perm_ext_iff_of_nodup ((Tapes.nodup_eraseDups l).filter _) (List.nodup_range.filter _)).2 fun r => ?_)
  rw [List.mem_filter, List.mem_filter, List.mem_eraseDups, List.mem_range, Bool.and_eq_true, ← hf]
  exact ⟨fun ⟨h1, h2⟩ => ⟨hl r h1, h2, h1⟩, fun ⟨_, h2, h1⟩ => ⟨h1, h2⟩⟩

/-- The greatest excess over two in a bank. -/
theorem foldl_max_spec (g : Nat → Nat) (l : List Nat) (m : Nat) :
    (∀ b, b ∈ l → g b ≤ l.foldl (fun m b => max m (g b - 2)) m + 2) ∧ m ≤ l.foldl (fun m b => max m (g b - 2)) m ∧
      (l.foldl (fun m b => max m (g b - 2)) m = m ∨ ∃ b, b ∈ l ∧ g b = l.foldl (fun m b => max m (g b - 2)) m + 2) := by
  induction l generalizing m with
  | nil => exact ⟨fun b hb => absurd hb List.not_mem_nil, le_refl _, .inl rfl⟩
  | cons b l ih =>
    obtain ⟨h1, h2, h3⟩ := ih (max m (g b - 2))
    rw [List.foldl_cons]
    refine ⟨fun c hc => ?_, by omega, ?_⟩
    · rcases List.mem_cons.1 hc with rfl | hc
      · omega
      · exact h1 c hc
    · rcases h3 with h3 | ⟨c, hc, h3⟩
      · by_cases hm : g b - 2 ≤ m
        · exact .inl (by omega)
        · exact .inr ⟨b, List.mem_cons_self .., by omega⟩
      · exact .inr ⟨c, List.mem_cons_of_mem _ hc, h3⟩

theorem foldl_add_eq (g : Nat → Nat) (l : List Nat) (m : Nat) : l.foldl (fun m b => m + (g b - 1)) m = m + (l.map (fun b => g b - 1)).sum := by
  induction l generalizing m with
  | nil => rfl
  | cons b l ih => rw [List.foldl_cons, ih, List.map_cons, List.sum_cons, Nat.add_assoc]

variable (a : Arc) (ts : List Subtree)

def reads (r : Nat) : Bool := leafOf a ts false r || ts.any (fun t => t.down && dst a t == r)
def dests (r : Nat) : Bool := ts.any (fun t => !t.down && dst a t == r)

/-- The greatest excess over two ports of a bank, over the sixteen banks. -/
def Most (N : Nat) (f : Nat → Bool) (x : Nat) : Prop := (∀ b, b < 16 → bankOf N f b ≤ x + 2) ∧ (x = 0 ∨ ∃ b, b < 16 ∧ bankOf N f b = x + 2)

variable {a ts}

theorem mem_leafRegs {t : Subtree} (h8 : t.leaves.length = 8) {r : Nat} : r ∈ a.leafRegs t ↔ (List.range 8).any (fun m => reg a t m == some r) = true := by
  unfold Arc.leafRegs
  rw [show t.leaves.filterMap (fun o => o.map (a.reg t.wsel)) = (t.leaves.map (fun o => o.map (a.reg t.wsel))).filterMap id by
    rw [List.filterMap_map]; rfl, regs_eq a h8, List.mem_filterMap, List.any_eq_true]
  constructor
  · rintro ⟨o, ho, hr⟩
    obtain ⟨m, hm, rfl⟩ := List.mem_map.1 ho
    exact ⟨m, hm, beq_iff_eq.2 hr⟩
  · rintro ⟨m, hm, hr⟩
    exact ⟨_, List.mem_map.2 ⟨m, hm, rfl⟩, beq_iff_eq.1 hr⟩

theorem lt_of_leafRegs {t : Subtree} {r : Nat} (h : r ∈ a.leafRegs t) : r < 8192 := by
  obtain ⟨o, -, ho⟩ := List.mem_filterMap.1 h
  obtain ⟨x, -, rfl⟩ := Option.map_eq_some_iff.1 ho
  exact Nat.mod_lt _ (by decide)

theorem dst_lt (t : Subtree) : dst a t < 8192 := Nat.mod_lt _ (by decide)

theorem most_of_list {l : List Nat} {f : Nat → Bool} (hl : ∀ r, r ∈ l → r < 8192) (hf : ∀ r, r ∈ l ↔ f r = true) :
    Most 8192 f ((List.range 16).foldl (fun m b => max m (inBank l.eraseDups b - 2)) 0) := by
  have h := foldl_max_spec (inBank l.eraseDups) (List.range 16) 0
  simp only [List.mem_range] at h
  generalize (List.range 16).foldl (fun m b => max m (inBank l.eraseDups b - 2)) 0 = x at h
  obtain ⟨h1, -, h3⟩ := h
  refine ⟨fun b hb => ?_, h3.imp_right fun ⟨b, hb, h⟩ => ⟨b, hb, ?_⟩⟩
  · rw [← inBank_eraseDups hl hf]
    exact h1 b hb
  · rw [← inBank_eraseDups hl hf]
    exact h

theorem extraClocks_spec (h8 : ∀ t, t ∈ ts → t.leaves.length = 8) :
    ∃ rd wr ad, Most 8192 (reads a ts) rd ∧ Most 8192 (leafOf a ts true) ad ∧
      wr = ((List.range 16).map (fun b => bankOf 8192 (dests a ts) b - 1)).sum ∧ a.extraClocks ts = rd + wr + ad := by
  have hany : ∀ t, t ∈ ts → ∀ r, r ∈ a.leafRegs t ↔ (List.range 8).any (fun m => reg a t m == some r) = true := fun t ht r => mem_leafRegs (h8 t ht)
  refine ⟨_, _, _, most_of_list (l := (ts.map (fun t => a.leafRegs t ++ if t.down then [a.dstReg t] else [])).flatten) ?_ ?_,
    most_of_list (l := ((ts.filter Subtree.down).map a.leafRegs).flatten) ?_ ?_, rfl, ?_⟩
  · intro r hr
    obtain ⟨l, hl, hr⟩ := List.mem_flatten.1 hr
    obtain ⟨t, -, rfl⟩ := List.mem_map.1 hl
    rcases List.mem_append.1 hr with hr | hr
    · exact lt_of_leafRegs hr
    · split at hr
      · rw [List.mem_singleton.1 hr]; exact dst_lt t
      · cases hr
  · intro r
    unfold reads leafOf
    rw [List.mem_flatten, Bool.or_eq_true, List.any_eq_true, List.any_eq_true]
    constructor
    · rintro ⟨l, hl, hr⟩
      obtain ⟨t, ht, rfl⟩ := List.mem_map.1 hl
      rcases List.mem_append.1 hr with hr | hr
      · exact .inl ⟨t, ht, by simpa using (hany t ht r).1 hr⟩
      · split at hr
        · next hd => exact .inr ⟨t, ht, by rw [hd, List.mem_singleton.1 hr]; simp [Arc.dstReg, dst, Arc.reg]⟩
        · cases hr
    · rintro (⟨t, ht, hr⟩ | ⟨t, ht, hr⟩)
      · exact ⟨_, List.mem_map.2 ⟨t, ht, rfl⟩, List.mem_append_left _ ((hany t ht r).2 (by simpa using hr))⟩
      · rw [Bool.and_eq_true, beq_iff_eq] at hr
        refine ⟨_, List.mem_map.2 ⟨t, ht, rfl⟩, List.mem_append_right _ ?_⟩
        rw [if_pos hr.1, List.mem_singleton, ← hr.2]
        rfl
  · intro r hr
    obtain ⟨l, hl, hr⟩ := List.mem_flatten.1 hr
    obtain ⟨t, -, rfl⟩ := List.mem_map.1 hl
    exact lt_of_leafRegs hr
  · intro r
    unfold leafOf
    rw [List.mem_flatten, List.any_eq_true]
    constructor
    · rintro ⟨l, hl, hr⟩
      obtain ⟨t, ht, rfl⟩ := List.mem_map.1 hl
      obtain ⟨ht, hd⟩ := List.mem_filter.1 ht
      exact ⟨t, ht, by rw [(hany t ht r).1 hr, hd]; rfl⟩
    · rintro ⟨t, ht, hr⟩
      rw [Bool.and_eq_true] at hr
      exact ⟨_, List.mem_map.2 ⟨t, List.mem_filter.2 ⟨ht, by simpa using hr.1⟩, rfl⟩, (hany t ht r).2 hr.2⟩
  · have hd : ∀ b, inBank ((ts.filter (fun t => !t.down)).map a.dstReg).eraseDups b = bankOf 8192 (dests a ts) b := fun b => by
      refine inBank_eraseDups (fun r hr => ?_) (fun r => ?_) b
      · obtain ⟨t, -, rfl⟩ := List.mem_map.1 hr
        exact dst_lt t
      · unfold dests
        rw [List.any_eq_true]
        constructor
        · intro hr
          obtain ⟨t, ht, rfl⟩ := List.mem_map.1 hr
          obtain ⟨ht, hd⟩ := List.mem_filter.1 ht
          exact ⟨t, ht, by rw [hd]; simp [Arc.dstReg, dst, Arc.reg]⟩
        · rintro ⟨t, ht, hr⟩
          rw [Bool.and_eq_true, beq_iff_eq] at hr
          exact List.mem_map.2 ⟨t, List.mem_filter.2 ⟨ht, hr.1⟩, hr.2⟩
    unfold Arc.extraClocks
    dsimp only
    rw [foldl_add_eq, Nat.zero_add]
    simp only [hd]

end Clocks

end Sys2Proof.Proofs.ArcadeSums
end

section
/-! PROOFS. A bundle is fetched, issues as one instruction and lands (R290–R299). -/

namespace Sys2Proof.Proofs.ArcadeBundles

open Sys2Proof.Machine
open Sys2Proof.Safety
open Sys2Proof.Proofs.Transfers
open Sys2Proof.Proofs.ArcadeMoves
open Sys2Proof.Proofs.ArcadeTrees
open Sys2Proof.Proofs.ArcadeSums

/-! ### The extent of a bundle (R293, R294) -/

section Extent

variable {s : State} {q : Seqr} {first a : DWord} {t u : Subtree} {n : Nat}

/-- What the fetch of a subtree after the first gives. -/
def fetchedAt (s : State) (q : Seqr) (a : DWord) : Fetched := (s.setProg q { s.prog q with pc := a, arrive := .plain }).fetch q 0

/-- It gives a subtree. -/
def IsSub (f : Fetched) (u : Subtree) : Prop :=
  ∃ e w1 w2 w3, f = .ok (.aspUp e w1 w2 w3) ∧ u = subtreeOf false e w1 w2 w3 ∨ f = .ok (.aspDn e w1 w2 w3) ∧ u = subtreeOf true e w1 w2 w3

/-- A subtree before the rest of its bundle. -/
def consB (t : Subtree) : Bundle → Bundle
  | .ok ts => .ok (t :: ts)
  | .bad c v => .bad c v

theorem bundleRest_sub (hin : a.toNat / 4 % 32 ≠ 0) (h : IsSub (fetchedAt s q a) u) : bundleRest q s first (n + 1) a =
    if u.last then .ok [u] else consB u (bundleRest q s first n (a + 16)) := by
  obtain ⟨e, w1, w2, w3, h⟩ := h
  rw [bundleRest, if_neg hin]
  dsimp only
  rcases h with ⟨h, rfl⟩ | ⟨h, rfl⟩
  · rw [show (s.setProg q { s.prog q with pc := a, arrive := .plain }).fetch q 0 = _ from h]
    dsimp only
    cases bundleRest q s first n (a + 16) <;> rfl
  · rw [show (s.setProg q { s.prog q with pc := a, arrive := .plain }).fetch q 0 = _ from h]
    dsimp only
    cases bundleRest q s first n (a + 16) <;> rfl

theorem bundleRest_over (hin : ¬ a.toNat / 4 % 32 ≠ 0) : bundleRest q s first n a = .bad .illegal first := by
  cases n with
  | zero => rfl
  | succ n => rw [bundleRest, if_pos (not_not.1 hin)]

theorem bundleRest_other {j : Instr} (hf : fetchedAt s q a = .ok j) (h : ∀ u, ¬ IsSub (fetchedAt s q a) u) :
    bundleRest q s first n a = .bad .illegal first := by
  cases n with
  | zero => rfl
  | succ n =>
    rw [bundleRest]
    split
    · rfl
    · dsimp only
      rw [show (s.setProg q { s.prog q with pc := a, arrive := .plain }).fetch q 0 = _ from hf]
      have hu : ∀ e w1 w2 w3, j ≠ .aspUp e w1 w2 w3 := fun e w1 w2 w3 hj => h _ ⟨e, w1, w2, w3, .inl ⟨hj ▸ hf, rfl⟩⟩
      have hd : ∀ e w1 w2 w3, j ≠ .aspDn e w1 w2 w3 := fun e w1 w2 w3 hj => h _ ⟨e, w1, w2, w3, .inr ⟨hj ▸ hf, rfl⟩⟩
      split
      · next hj => cases hj; exact absurd rfl (hu _ _ _ _)
      · next hj => cases hj; exact absurd rfl (hd _ _ _ _)
      · rfl
      · next hj => cases hj

/-- The damage that a bundle takes from a later subtree. -/
def Damaged (s : State) (q : Seqr) (a : DWord) (c : Cause) : Prop :=
  c = .eccu ∨ c = .illen ∧ ((s.iword q a.toNat).fMop.toNat = 0x80 ∨ (s.iword q a.toNat).fMop.toNat = 0x81)

theorem bundleRest_bad {c : Cause} {v w : DWord} (hin : a.toNat / 4 % 32 ≠ 0) (hf : fetchedAt s q a = .bad c v w) :
    (¬ Damaged s q a c → bundleRest q s first (n + 1) a = .bad .illegal first) ∧
    (Damaged s q a c → bundleRest q s first (n + 1) a = .bad c v) := by
  refine ⟨fun h => ?_, fun h => ?_⟩ <;> rw [bundleRest, if_neg hin] <;> dsimp only <;>
    rw [show (s.setProg q { s.prog q with pc := a, arrive := .plain }).fetch q 0 = _ from hf]
  · exact if_neg h
  · exact if_pos h

theorem step_address (a : DWord) (k : Nat) : a + 16 + BitVec.ofNat 64 (16 * k) = a + BitVec.ofNat 64 (16 * (k + 1)) := by
  rw [Nat.mul_succ, Nat.add_comm (16 * k), BitVec.ofNat_add, BitVec.add_assoc]
  rfl

theorem bundleRest_run (us : List Subtree) (h : ∀ m, m < us.length → (a + BitVec.ofNat 64 (16 * m)).toNat / 4 % 32 ≠ 0 ∧
      IsSub (fetchedAt s q (a + BitVec.ofNat 64 (16 * m))) (us.getD m t)) (hl : ∀ m, m < us.length → (us.getD m t).last = false) :
    bundleRest q s first (n + us.length) a = us.foldr consB (bundleRest q s first n (a + BitVec.ofNat 64 (16 * us.length))) := by
  induction us generalizing a with
  | nil => rw [List.foldr_nil, List.length_nil, Nat.mul_zero, Nat.add_zero, show BitVec.ofNat 64 0 = 0#64 from rfl, BitVec.add_zero]
  | cons u us ih =>
    obtain ⟨hin, hsub⟩ := h 0 (by simp)
    have hlast : u.last = false := hl 0 (by simp)
    rw [Nat.mul_zero, show BitVec.ofNat 64 0 = 0#64 from rfl, BitVec.add_zero] at hin hsub
    replace hsub : IsSub (fetchedAt s q a) u := hsub
    rw [List.length_cons, ← Nat.add_assoc, bundleRest_sub hin hsub, if_neg (by rw [hlast]; decide), List.foldr_cons, ih, step_address]
    · intro m hm
      rw [step_address]
      exact h (m + 1) (by simpa using hm)
    · intro m hm
      exact hl (m + 1) (by simpa using hm)

theorem foldr_consB_ok (us vs : List Subtree) : us.foldr consB (.ok vs) = .ok (us ++ vs) := by
  induction us with
  | nil => rfl
  | cons u us ih => rw [List.foldr_cons, ih]; rfl

theorem foldr_consB_bad (us : List Subtree) (c : Cause) (v : DWord) : us.foldr consB (.bad c v) = .bad c v := by
  induction us with
  | nil => rfl
  | cons u us ih => rw [List.foldr_cons, ih]; rfl

theorem bundle_eq (t : Subtree) : s.bundle q t = if t.last then .ok [t] else consB t (bundleRest q s (s.pcOf q) 3 (s.pcOf q + 16)) := by
  unfold State.bundle
  dsimp only
  split
  · rfl
  · cases bundleRest q s (s.pcOf q) 3 (s.pcOf q + 16) <;> rfl

/-- The first subtrees of a bundle, each but the first at its words of the line, none but the last with E = 1. -/
def Run (s : State) (q : Seqr) (t : Subtree) (us : List Subtree) : Prop :=
  us.getD 0 t = t ∧ 1 ≤ us.length ∧ us.length ≤ 4 ∧
    (∀ m, 1 ≤ m → m < us.length → (s.pcOf q + BitVec.ofNat 64 (16 * m)).toNat / 4 % 32 ≠ 0 ∧
      IsSub (fetchedAt s q (s.pcOf q + BitVec.ofNat 64 (16 * m))) (us.getD m t)) ∧
    ∀ m, m + 1 < us.length → (us.getD m t).last = false

theorem bundle_run {us : List Subtree} (hlen : us.length ≤ 3)
    (h : ∀ m, 1 ≤ m → m < us.length + 1 → (s.pcOf q + BitVec.ofNat 64 (16 * m)).toNat / 4 % 32 ≠ 0 ∧
      IsSub (fetchedAt s q (s.pcOf q + BitVec.ofNat 64 (16 * m))) ((t :: us).getD m t))
    (hl : ∀ m, m < us.length + 1 → ((t :: us).getD m t).last = false) :
    s.bundle q t = (t :: us).foldr consB
      (bundleRest q s (s.pcOf q) (3 - us.length) (s.pcOf q + BitVec.ofNat 64 (16 * (us.length + 1)))) := by
  have h0 : t.last = false := hl 0 (by omega)
  rw [bundle_eq, if_neg (by rw [h0]; decide), List.foldr_cons, ← step_address]
  conv_lhs => rw [show 3 = 3 - us.length + us.length by omega]
  rw [bundleRest_run (t := t) us]
  · intro m hm
    rw [step_address]
    exact h (m + 1) (by omega) (by omega)
  · intro m hm
    exact hl (m + 1) (by omega)

theorem run_cons {ts : List Subtree} (h : Run s q t ts) : ∃ us, ts = t :: us := by
  obtain ⟨h0, h1, -⟩ := h
  cases ts with
  | nil => cases h1
  | cons u us => exact ⟨us, by rw [show u = t from h0]⟩

/-- The bundle ends with its first subtree with E = 1. -/
theorem bundle_ends {ts : List Subtree} (h : Run s q t ts) (hl : (ts.getD (ts.length - 1) t).last = true) : s.bundle q t = .ok ts := by
  obtain ⟨us, rfl⟩ := run_cons h
  obtain ⟨-, -, h4, hsub, hlast⟩ := h
  rcases List.eq_nil_or_concat us with rfl | ⟨vs, u, rfl⟩
  · rw [bundle_eq, if_pos (show t.last = true from hl)]
  · rw [List.concat_eq_append, List.length_cons, List.length_append, List.length_singleton] at h4
    rw [List.concat_eq_append] at hsub hlast hl ⊢
    have hget : ∀ m, m < vs.length + 1 → (t :: (vs ++ [u])).getD m t = (t :: vs).getD m t := fun m hm => by
      rw [← List.cons_append, List.getD_append _ _ _ _ (by simpa using hm)]
    have hgetu : (t :: (vs ++ [u])).getD (vs.length + 1) t = u := by
      rw [← List.cons_append, List.getD_append_right _ _ _ _ (by simp)]
      simp
    have hlen : (t :: (vs ++ [u])).length = vs.length + 2 := by simp
    rw [hlen] at hsub hlast hl
    rw [show vs.length + 2 - 1 = vs.length + 1 by omega, hgetu] at hl
    obtain ⟨hin, hu⟩ := hsub (vs.length + 1) (by omega) (by omega)
    rw [hgetu] at hu
    rw [bundle_run (us := vs) (by omega) (fun m h1 hm => by rw [← hget m hm]; exact hsub m h1 (by omega))
      (fun m hm => by rw [← hget m hm]; exact hlast m (by omega)), show 3 - vs.length = (2 - vs.length) + 1 by omega,
      bundleRest_sub hin hu, if_pos hl, foldr_consB_ok]
    rfl

/-- What follows subtrees none of which has E = 1. -/
theorem bundle_goes {ts : List Subtree} (h : Run s q t ts) (hl : (ts.getD (ts.length - 1) t).last = false) :
    s.bundle q t = ts.foldr consB (bundleRest q s (s.pcOf q) (4 - ts.length) (s.pcOf q + BitVec.ofNat 64 (16 * ts.length))) := by
  obtain ⟨us, rfl⟩ := run_cons h
  obtain ⟨-, -, h4, hsub, hlast⟩ := h
  rw [List.length_cons] at h4 hsub hlast hl ⊢
  rw [bundle_run (us := us) (by omega) hsub]
  · rw [show 4 - (us.length + 1) = 3 - us.length by omega]
  · intro m hm
    rcases Nat.lt_or_ge (m + 1) (us.length + 1) with h | h
    · exact hlast m h
    · rw [show m = us.length by omega]
      exact hl

theorem leaves_bundleRest {ts : List Subtree} (h : bundleRest q s first n a = .ok ts) : ∀ t, t ∈ ts → t.leaves.length = 8 := by
  induction n generalizing a ts with
  | zero => cases h
  | succ n ih =>
    have hmore : ∀ (u : Subtree) (vs : List Subtree), u.leaves.length = 8 →
        (if u.last then Bundle.ok [u] else match bundleRest q s first n (a + 16) with | .ok ts => .ok (u :: ts) | b => b) = .ok vs →
        ∀ t, t ∈ vs → t.leaves.length = 8 := fun u vs hu hv => by
      split at hv
      · cases hv
        intro t ht
        rw [List.mem_singleton.1 ht]
        exact hu
      · split at hv
        · next hr =>
          cases hv
          intro t ht
          rcases List.mem_cons.1 ht with rfl | ht
          · exact hu
          · exact ih hr t ht
        · next hne => exact absurd hv (hne _)
    rw [bundleRest] at h
    split at h
    · cases h
    · dsimp only at h
      split at h
      · exact hmore _ _ rfl h
      · exact hmore _ _ rfl h
      · cases h
      · split at h <;> cases h

theorem leaves_bundle {ts : List Subtree} (ht : t.leaves.length = 8) (h : s.bundle q t = .ok ts) : ∀ t, t ∈ ts → t.leaves.length = 8 := by
  rw [bundle_eq] at h
  split at h
  · cases h
    intro u hu
    rw [List.mem_singleton.1 hu]
    exact ht
  · cases hr : bundleRest q s (s.pcOf q) 3 (s.pcOf q + 16) with
    | bad c v => rw [hr] at h; cases h
    | ok us =>
      rw [hr] at h
      cases h
      intro u hu
      rcases List.mem_cons.1 hu with rfl | hu
      · exact ht
      · exact leaves_bundleRest hr u hu

end Extent

/-! ### Issue (R294, R298, R299) -/

section Issues

variable {s : State} {c : Nat} {i : Instr} {t : Subtree} {ts : List Subtree}

theorem exec_bundle (dn : Bool) (e : BitVec 24) (w1 w2 w3 : Word) (s : State) :
    exec (if dn then .aspDn e w1 w2 w3 else .aspUp e w1 w2 w3) s = aspBundle (subtreeOf dn e w1 w2 w3) s := by
  cases dn <;> rfl

theorem traps_of_bad {cs : Cause} {v : DWord} (hi : exec i s = aspBundle t s) (h : s.bundle s.cur t = .bad cs v) : Traps i s cs v := by
  unfold Traps
  rw [hi]
  unfold aspBundle
  dsimp only
  rw [h]
  rfl

theorem issues_of_ok (hi : exec i s = aspBundle t s) (h : s.bundle s.cur t = .ok ts) : exec i s = issue s (4 * ts.length) .any (runBundle ts) := by
  rw [hi]
  unfold aspBundle
  dsimp only
  rw [h]

/-- The registers that a subtree reads or writes. -/
def Used (a : Arc) (t : Subtree) (r : Nat) : Prop := r = dst a t ∨ ∃ m, m < 8 ∧ reg a t m = some r

theorem used_any {a : Arc} (h8 : ∀ t, t ∈ ts → t.leaves.length = 8) :
    ((ts.map (fun t => a.leafRegs t ++ [a.dstReg t])).flatten).any a.pEmpty = true ↔ ∃ t r, t ∈ ts ∧ Used a t r ∧ a.pEmpty r = true := by
  rw [List.any_eq_true]
  constructor
  · rintro ⟨r, hr, he⟩
    obtain ⟨l, hl, hr⟩ := List.mem_flatten.1 hr
    obtain ⟨t, ht, rfl⟩ := List.mem_map.1 hl
    rcases List.mem_append.1 hr with hr | hr
    · obtain ⟨m, hm, hr⟩ := List.any_eq_true.1 ((mem_leafRegs (h8 t ht)).1 hr)
      exact ⟨t, r, ht, .inr ⟨m, List.mem_range.1 hm, beq_iff_eq.1 hr⟩, he⟩
    · exact ⟨t, r, ht, .inl (List.mem_singleton.1 hr), he⟩
  · rintro ⟨t, r, ht, hu, he⟩
    refine ⟨r, List.mem_flatten.2 ⟨_, List.mem_map.2 ⟨t, ht, rfl⟩, List.mem_append.2 ?_⟩, he⟩
    rcases hu with rfl | ⟨m, hm, hr⟩
    · exact .inr (List.mem_singleton.2 rfl)
    · exact .inl ((mem_leafRegs (h8 t ht)).2 (List.any_eq_true.2 ⟨m, List.mem_range.2 hm, beq_iff_eq.2 hr⟩))

theorem owner_setArc (s : State) (c : Nat) (y : Arc) (h : y.owner = (s.arc c).owner) : (s.setArc c y).thread (.arc c) = s.thread (.arc c) := by
  have ho : (s.setArc c y).ownerCtx (.arc c) = s.ownerCtx (.arc c) := by
    show ((s.setArc c y).arc c).owner.getD 0 = (s.arc c).owner.getD 0
    rw [← h]
    exact congrArg (fun k : Core => k.arc.owner.getD 0) (State.core_setCore_self ..)
  show (s.setArc c y).ctx c ((s.setArc c y).ownerCtx (.arc c)) = s.ctx c (s.ownerCtx (.arc c))
  rw [ho]
  refine Traps.ctx_setCore_same ?_ _ _
  rfl

/-- A bundle's results to come. -/
def pending (s : State) (c : Nat) (ts : List Subtree) : APend :=
  let o := ts.foldl (s.arc c).evalSub {}
  { due := s.now + (s.arc c).extraClocks ts + 6, vals := o.vals, adjs := o.adjs, flags := o.flags,
    traps := o.flags.enabled (s.thread (.arc c)).fte, addr := (s.arc c).prog.pc, pend := (s.arc c).prog.pend }

/-- The state once a bundle has issued, from the one that holds its results. -/
def heldFor (s : State) (c : Nat) (x : Nat) (s1 : State) : State :=
  if (s.thread (.arc c)).fte &&& aspFlagMask ≠ 0 then s1.holdOn (.arc c) .longResult else if x = 0 then s1 else s1.holdFor (.arc c) (1 + x)

/-- The state that holds its results. -/
def resulted (s : State) (c : Nat) (r : APend) : State :=
  let s0 := s.setArc c { s.arc c with results := (s.arc c).results ++ [r] }
  if r.traps = 0 then s0.setThread (.arc c) { s.thread (.arc c) with instret := (s.thread (.arc c)).instret + 1 } else s0

theorem countBundle_eq (s : State) (c : Nat) (r : APend) :
    (s.setArc c { s.arc c with results := (s.arc c).results ++ [r] }).countBundle (.arc c) r.traps = resulted s c r := by
  have ho := owner_setArc s c { s.arc c with results := (s.arc c).results ++ [r] } (by rfl)
  unfold State.countBundle
  rw [ho]
  rfl

theorem runBundle_full (h : ¬ ((ts.map (fun t => (s.arc c).leafRegs t ++ [(s.arc c).dstReg t])).flatten).any (s.arc c).pEmpty = true) :
    runBundle ts (.arc c) s = .retire (heldFor s c ((s.arc c).extraClocks ts) (resulted s c (pending s c ts))) := by
  rw [← countBundle_eq]
  exact if_neg h

theorem bundle_issues (hq : s.cur = .arc c) (hi : exec i s = aspBundle t s) (ht : t.leaves.length = 8) (h : s.bundle s.cur t = .ok ts)
    (hs : Stands s (4 * ts.length) .any) :
    ((∃ t r, t ∈ ts ∧ Used (s.arc c) t r ∧ (s.arc c).pEmpty r = true) → Stalls i s) ∧
    ((∀ t r, t ∈ ts → Used (s.arc c) t r → (s.arc c).pEmpty r = false) →
      Retires i s (4 * ts.length) (heldFor (fresh s) c ((s.arc c).extraClocks ts) (resulted (fresh s) c (pending s c ts)))) := by
  have h8 := leaves_bundle ht h
  have hi' := issues_of_ok hi h
  refine ⟨fun hu => stalls_of_issue _ hi' hs ?_, fun hu => retires_of_issue _ hi' hs ?_⟩
  · rw [hq]
    unfold runBundle
    exact if_pos ((used_any h8).2 hu)
  · rw [hq]
    refine runBundle_full (s := fresh s) fun he => ?_
    obtain ⟨t, r, ht, hr, he⟩ := (used_any (a := s.arc c) h8).1 he
    rw [hu t r ht hr] at he
    cases he

end Issues

/-! ### Landing (R298, R299) -/

section Lands

variable {s : State} {c : Nat} {r : APend}

theorem exec_arcadeResultsLand : exec .arcadeResultsLand s =
    .next (landBundles s.target.core ((s.arc s.target.core).results.filter (fun r => decide (r.due ≤ s.now))) s) := rfl

/-- The program goes on where a hold waits for the bundle. -/
def wokenProg (p : Prog) : Prog := if p.hold = some .longResult then { p with hold := none } else p

/-- The registers after writes, the last of which counts. -/
def lastOf (m : SMap Word) (l : List (Nat × Word)) : SMap Word := l.foldl (fun m e => SMap.set m e.1 e.2) m

theorem setArc_orFsr (s : State) (c : Nat) {y z : Arc} (f : Flags) (h : y.owner = z.owner) :
    (s.setArc c y).orFsr (.arc c) f = ((s.setArc c z).orFsr (.arc c) f).setArc c y := by
  simp [State.orFsr, State.thread, State.setThread, State.ownerCtx, State.arc, State.setArc, State.setCtx, State.setCore, State.core,
    State.ctx, Seqr.core, SMap.set_set, h]

theorem landBundles_one (h : (s.arc c).results = [r]) : landBundles c [r] s =
    if r.traps ≠ 0 then ((s.setArc c { s.arc c with results := [], prog := wokenProg (s.arc c).prog }).orFsr (.arc c) r.flags).raise (.arc c)
      ⟨.fpx, zx64 r.traps, r.addr, r.pend⟩
    else (s.setArc c { s.arc c with results := [], prog := wokenProg (s.arc c).prog, pv := lastOf (s.arc c).pv r.vals,
                                    pa := lastOf (s.arc c).pa r.adjs }).orFsr (.arc c) r.flags := by
  have hp : (if (s.arc c).prog.hold = some .longResult ∧ (s.arc c).results.getLast? = some r then { (s.arc c).prog with hold := none }
      else (s.arc c).prog) = wokenProg (s.arc c).prog := by
    unfold wokenProg
    refine if_congr (and_iff_left ?_) rfl rfl
    rw [h]
    rfl
  have he : (s.arc c).results.erase r = [] := by rw [h, List.erase_cons_head]
  unfold landBundles
  dsimp only
  rw [hp, he]
  unfold landBundles
  rfl

theorem bundle_lands (hc : s.target.core = c) (h : (s.arc c).results = [r]) :
    let a := s.arc c
    let p := wokenProg a.prog
    let u := (s.setArc c { a with results := [], prog := p }).orFsr (.arc c) r.flags
    (s.now < r.due → exec .arcadeResultsLand s = .next s) ∧
    (r.due ≤ s.now → r.traps = 0 → exec .arcadeResultsLand s =
      .next (u.setArc c { a with results := [], prog := p, pv := lastOf a.pv r.vals, pa := lastOf a.pa r.adjs })) ∧
    (r.due ≤ s.now → r.traps ≠ 0 → exec .arcadeResultsLand s = .next (u.raise (.arc c) ⟨.fpx, BitVec.ofNat 64 r.traps.toNat, r.addr, r.pend⟩)) := by
  intro a p u
  have hx : r.due ≤ s.now → exec .arcadeResultsLand s = .next (landBundles c [r] s) := fun hd => by
    rw [exec_arcadeResultsLand, hc, h, List.filter_cons_of_pos (by simpa using hd), List.filter_nil]
  refine ⟨fun hd => ?_, fun hd ht => ?_, fun hd ht => ?_⟩
  · rw [exec_arcadeResultsLand, hc, h, List.filter_cons_of_neg (by simpa using hd), List.filter_nil]
    rfl
  · rw [hx hd, landBundles_one h, if_neg (not_not.2 ht)]
    exact congrArg _ (setArc_orFsr s c r.flags rfl)
  · rw [hx hd, landBundles_one h, if_pos ht, zx64, ← BitVec.ofNat_toNat]

end Lands

/-! ### The larger child wins (R297) -/

section Wins

variable {seed : DWord} {l r : ANode}

/-- Of equal children the one whose representative has the smaller tie hash. -/
def First (seed : DWord) (l r : ANode) : Prop :=
  l.rep = r.rep ∨ (tieHash seed (BitVec.ofNat 64 l.rep)).toNat < (tieHash seed (BitVec.ofNat 64 r.rep)).toNat

theorem first_iff (seed : DWord) (l r : ANode) :
    (l.rep == r.rep || decide ((tieHash seed (BitVec.ofNat 64 l.rep)).toNat < (tieHash seed (BitVec.ofNat 64 r.rep)).toNat)) = true ↔ First seed l r := by
  rw [Bool.or_eq_true, beq_iff_eq, decide_eq_true_eq]
  rfl

theorem leftWins_sp : leftWins true seed l r = match Exact.cmp (spDecode l.val.toNat) (spDecode r.val.toNat) with
    | .gt => true
    | .lt => false
    | .eq => (l.rep == r.rep || decide ((tieHash seed (BitVec.ofNat 64 l.rep)).toNat < (tieHash seed (BitVec.ofNat 64 r.rep)).toNat)) := rfl

theorem leftWins_nan (h : (FpFmt.fp32.decode l.val.toNat).isNan = true ∨ (FpFmt.fp32.decode r.val.toNat).isNan = true) :
    leftWins false seed l r = true := by
  unfold leftWins
  exact if_pos (by rw [Bool.not_false, Bool.true_and, Bool.or_eq_true]; exact h)

theorem leftWins_fin {x y : Exact} (hx : FpFmt.fp32.decode l.val.toNat = .fin x) (hy : FpFmt.fp32.decode r.val.toNat = .fin y) :
    leftWins false seed l r = match Exact.cmp x y with
    | .gt => true
    | .lt => false
    | .eq => (l.rep == r.rep || decide ((tieHash seed (BitVec.ofNat 64 l.rep)).toNat < (tieHash seed (BitVec.ofNat 64 r.rep)).toNat)) := by
  unfold leftWins
  rw [hx, hy]
  rfl

theorem rep_aspNode (sp : Bool) (rm : Rm) (seed : DWord) (l r : ANode) :
    (aspNode sp rm seed 3 (some l) (some r)).1.map ANode.rep = some (if leftWins sp seed l r then l.rep else r.rep) := by
  unfold aspNode
  dsimp only
  rw [if_neg (by decide)]
  cases leftWins sp seed l r <;> rfl

end Wins

/-- Settles O38: a bundle is its line's subtrees up to the first with E = 1; its trees and sums are those of its registers as they stand,
subtree by subtree. -/
theorem arcadeBundles : Obligations.ArcadeBundles := by
  unfold Obligations.ArcadeBundles
  refine ⟨?_, ?_⟩
  · intro s c q a f32 op2 node reg dst leaf n0 n1 n2 n3 n4 n5 root down d6 d4 d5 d0 adjoint downFlags added used leafOf bank reads dests most
    refine ⟨?_, fun r hc hr => bundle_lands hc hr⟩
    intro e w1 w2 w3 dn ts hq i t fte p pc fetched inLine is run mop damaged
    have hi : exec i s = aspBundle t s := exec_bundle dn e w1 w2 w3 s
    have hpc : s.pcOf q = pc := rfl
    have hrun : run ts → Run s q t ts := fun h => h
    refine ⟨fun h hl => bundle_ends (hrun h) hl, fun h hl => ?_, fun h hs => ?_⟩
    · have hb := bundle_goes (hrun h) hl
      have hillegal : bundleRest q s pc (4 - ts.length) (pc + BitVec.ofNat 64 (16 * ts.length)) = .bad .illegal pc → Traps i s .illegal pc := fun hr => by
        refine traps_of_bad hi ?_
        rw [hq, hb, hpc, hr, foldr_consB_bad]
      refine ⟨fun h' => hillegal ?_, fun h4 hin => ⟨fun j hj hn => hillegal (bundleRest_other hj hn), fun cs v w hw => ?_⟩⟩
      · rcases h' with h4 | hout
        · rw [h4]; rfl
        · exact bundleRest_over hout
      · obtain ⟨h1, h2⟩ := bundleRest_bad (first := pc) (n := 3 - ts.length) hin hw
        rw [show 3 - ts.length + 1 = 4 - ts.length by omega] at h1 h2
        refine ⟨fun hd => hillegal (h1 hd), fun hd => traps_of_bad hi ?_⟩
        rw [hq, hb, hpc, h2 hd, foldr_consB_bad]
    · obtain ⟨hstall, hgo⟩ := bundle_issues (ts := ts) hq hi rfl (by rw [hq]; exact h) hs
      refine ⟨hstall, fun hu => ?_⟩
      have h8 := leaves_bundle (t := t) rfl h
      have hsh := shows_bundle (a := a) h8
      obtain ⟨rd, wr, ad, hrd, had, hwr, hx⟩ := extraClocks_spec (a := a) h8
      have hret := hgo hu
      refine ⟨rd, wr, ad, pending s c ts, hrd, had, hwr, ?_⟩
      rw [← hx]
      exact ⟨rfl, rfl, rfl, rfl, hsh.vals, hsh.adjs, hsh.keys, hsh.flags, hret⟩
  · intro rm seed l r f h first rep
    refine ⟨fun sp => rep_aspNode sp rm seed l r, fun hc => ?_, fun hc => ?_, fun hc => ?_, leftWins_nan, fun x y hx hy =>
      ⟨fun hc => ?_, fun hc => ?_, fun hc => ?_⟩⟩
    · rw [leftWins_sp, hc]
    · rw [leftWins_sp, hc]
    · rw [leftWins_sp, hc]
      exact first_iff seed l r
    · rw [leftWins_fin hx hy, hc]
    · rw [leftWins_fin hx hy, hc]
    · rw [leftWins_fin hx hy, hc]
      exact first_iff seed l r

end Sys2Proof.Proofs.ArcadeBundles
end
